-- ==== Sys2Proof/Word.lean ====
section
/-! DEFINITION. The word types of the model and the plainest arithmetic on them (R10, R12). -/

namespace Sys2Proof

/-- A register word: registers are 32 bits wide (R12). -/
abbrev Word := BitVec 32

/-- A byte of device memory; structures are little-endian (R10). -/
abbrev Byte := BitVec 8

/-- A transfer on the 64 data wires of a W-link (R21). -/
abbrev DWord := BitVec 64

/-- Bits `lo + w - 1` down to `lo` of the number `v` (the field notation of R10). -/
def bitsOf (v lo w : Nat) : Nat := (v / 2 ^ lo) % 2 ^ w

/-- `v` with bits `lo + w - 1` down to `lo` replaced by the low `w` bits of `x`. -/
def putBits (v lo w x : Nat) : Nat :=
  v - bitsOf v lo w * 2 ^ lo + (x % 2 ^ w) * 2 ^ lo

/-- Ceiling division, as the spec writes `ceil(a / b)`. -/
def ceilDiv (a b : Nat) : Nat := (a + b - 1) / b

/-- A count that saturates at `2 ^ w - 1`. -/
def satAdd (w a n : Nat) : Nat := Nat.min (a + n) (2 ^ w - 1)

/-- The little-endian number that a list of bytes spells (R10). -/
def leNat : List Byte → Nat
  | [] => 0
  | b :: r => b.toNat + 256 * leNat r

/-- The `n` bytes of `v`, lowest address first (R10). -/
def leBytes : Nat → Nat → List Byte
  | 0, _ => []
  | n + 1, v => BitVec.ofNat 8 (v % 256) :: leBytes n (v / 256)

/-- The number that a list of bytes spells most significant byte first. -/
def beNat (l : List Byte) : Nat := leNat l.reverse

/-- The `n` bytes of `v`, most significant first. -/
def beBytes (n v : Nat) : List Byte := (leBytes n v).reverse

/-- The number held in `w` bits, read as two's complement. -/
def sint (w v : Nat) : Int := if v % 2 ^ w < 2 ^ (w - 1) then (v % 2 ^ w : Int) else (v % 2 ^ w : Int) - 2 ^ w

/-- The two's complement bits of an integer in `w` bits. -/
def unsint (w : Nat) (i : Int) : Nat := (i % (2 ^ w : Int)).toNat

/-- The number an element of a list of naturals has, 0 outside the list. -/
def nth0 (l : List Nat) (i : Nat) : Nat := l.getD i 0

/-- Replace element `i` of a list; a list that is too short is left as it is. -/
def setAt {α : Type} (l : List α) (i : Nat) (x : α) : List α := l.set i x

/-- Apply `f` to element `i` of a list. -/
def modAt {α : Type} (l : List α) (i : Nat) (f : α → α) : List α := l.modify i f

/-- The largest of a list of numbers, 0 for none. -/
def maxOf (l : List Nat) : Nat := l.foldl Nat.max 0

/-- The sum of a list of numbers. -/
def sumOf (l : List Nat) : Nat := l.foldl (· + ·) 0

/-- The set bits of a mask, ascending. -/
def bitsSet (w m : Nat) : List Nat := (List.range w).filter (fun i => m.testBit i)

/-- Is the list without repeats and strictly ascending. -/
def ascending : List Nat → Bool
  | [] => true
  | [_] => true
  | a :: b :: r => decide (a < b) && ascending (b :: r)

end Sys2Proof
end

