-- ==== Sys2Proof/Types.lean ====
section
/-! DEFINITION. The plain data types that the operands of the commands are made of: agents, pages, flits,
and the readings and messages that arrive from outside the block. -/

namespace Sys2Proof

/-- Who makes an access (the regulator masters of R284, and the island hardware that R313 and R323 name). -/
inductive Agent where
  /-- Work of a stroke of a partition: engines and spectral units, masters 0 to 15. -/
  | work (p : Nat)
  /-- The ingest block, master 16. -/
  | ingest
  /-- Fusion unit and PPU, master 17, for a partition. -/
  | fusion (p : Nat)
  /-- Collector and EMIT, master 18, for a partition. -/
  | collector (p : Nat)
  /-- Sequencer, master 19. -/
  | sequencer
  /-- Application core k, masters 20 to 27. -/
  | core (k : Nat)
  /-- The PCIe peer, master 28. -/
  | host
  /-- Device links, master 29. -/
  | dlk
  /-- Partner die, master 30. -/
  | partner
  /-- Firmware of island 0 (SI_A) or 1 (SI_B), master 31. -/
  | island (i : Nat)
  /-- Fault or latch hardware of an island, master 31 (R313, R323). -/
  | islandHw (i : Nat)
  /-- Mallet, master 31 (R457). -/
  | mallet
  /-- Security block and ledger, master 31. -/
  | security
deriving DecidableEq, Repr

/-- A register page (R440). -/
inductive Page where
  /-- Hub page by number. -/
  | hub (n : Nat)
  /-- Page of compute die `d` by number; 0x010 to 0x01F are the windows ME_00 to ME_15. -/
  | cd (d n : Nat)
  /-- The ISL page of island `i`. -/
  | isl (i : Nat)
  /-- The island end of HP_4 or HP_5. -/
  | wlki (i : Nat)
deriving DecidableEq, Repr

/-- A flit as it travels: header word, payload words, and the check word of a W-link (R21, R22). -/
structure Flit where
  hdr : DWord
  data : List DWord
  chk : DWord
deriving DecidableEq, Repr

/-- What a die says in a discovery reply (R37): die kind 1 compute, 2 island, else other. -/
structure DieReply where
  kind : Nat
  serial : Nat
  step : Nat
  bin : Nat
  ringE : Nat
  ringW : Nat
deriving DecidableEq, Repr

/-- What the partner presents in negotiation (R41). -/
structure PartnerOffer where
  sideband : Bool
  trained : Bool
  ident : Word
  revision : Nat
  power : Nat
deriving DecidableEq, Repr

/-- One record of a BMCA Announce message as the port reads it (R235). -/
structure Announce where
  domain : Nat
  prio1 : Nat
  clockClass : Nat
  accuracy : Nat
  variance : Nat
  prio2 : Nat
  ident : Nat
  steps : Nat
deriving DecidableEq, Repr

/-- An Ethernet frame as it reaches a MAC: the bytes after the preamble, and whether its FCS holds (R231). -/
structure EthFrame where
  bytes : List Byte
  fcsOk : Bool
deriving DecidableEq, Repr

/-- Samples of one rail at a 125 ns sampling instant (R339): currents in 0.1 A, signed; temperatures in °C;
    `sat` marks an IMON at full scale. -/
structure RailSample where
  imon : List Int
  sat : List Bool
  temp : List Int
  vsns : Nat
deriving DecidableEq, Repr

/-- One reading of the tray sensors (R364): `none` is a failed read. -/
structure TrayRead where
  tin : Option Int
  tout : Option Int
  flow : Option Nat
deriving DecidableEq, Repr

/-- A boot image header with what the verification engines found for it (R431, R432). -/
structure Image where
  magic : Nat
  kind : Nat
  svn : Nat
  len : Nat
  load : Nat
  entry : Nat
  key : Nat
  flags : Nat
  /-- Does the SHA-384 of the keys equal the hash in the key slot that `key` names. -/
  keyHashOk : Bool
  ecdsaOk : Bool
  mldsaOk : Bool
  bodyHashOk : Bool
  /-- Bytes 0 to 191 of the header, which SEC.MEAS takes in (R433). -/
  signed : List Byte
  /-- The body that is loaded at LOAD. -/
  body : List Byte
deriving DecidableEq, Repr

/-- What a lifecycle token says, with what the security block found for its signatures (R437). -/
structure LcToken where
  serial : Nat
  target : Nat
  owners : Nat
  hybrid : Bool
  vendorSig : Bool
  ownerSig : Bool
  ownerFirst : Bool
deriving DecidableEq, Repr

/-- A CAN FD frame on a bus (R333, R334). -/
structure CanFrame where
  ident : Nat
  ide : Bool
  fd : Bool
  brs : Bool
  data : List Byte
deriving DecidableEq, Repr

/-- An emission notice (R327). -/
structure Notice where
  part : Nat
  stroke : Nat
  bar : Nat
  tick : Nat
  time : Int
  valid : Bool
  dstep : Nat
  tc : Int
  pair : Bool
  clip : Bool
deriving DecidableEq, Repr

/-- An ARRIVE message of a cross-device barrier (R409). -/
structure Arrive where
  set : Nat
  ord : Nat
  t0 : Int
  tarr : Int
  sender : Nat
deriving DecidableEq, Repr

/-- A cable between link `la` of device `a` and link `lb` of device `b`. -/
structure Cable where
  a : Nat
  la : Nat
  b : Nat
  lb : Nat
deriving DecidableEq, Repr

/-- What enumeration gives a device (R401, R403): the root that enumerates, the device's index, and the cables of the
system by index, in which a device that got no index has a number from 128 on. -/
structure EnumMsg where
  root : Nat
  index : Nat
  cables : List Cable
deriving DecidableEq, Repr

/-- Why a page error was recorded for: the device address of the error in 64-byte units, and the partition. -/
structure ErrCtx where
  addr : Nat
  part : Nat
deriving DecidableEq, Repr

end Sys2Proof
end

