-- ==== Sys2Proof/Syntax.lean ====
section
/-! DEFINITION. The commands of the block, one constructor per row of spec/opcode_table.json, each with the
operands that the row's rule gives it. An operand `t` is the instant of the event in ns of the local oscillator;
`by_` is the agent that makes an access. -/

namespace Sys2Proof

/-- The commands (the rows of the operation table). -/
inductive Instr where
  /-- REGISTER_WRITE (R14): A write to a register field that has no row of its own takes effect according to the field's access type. -/
  | registerWrite (by_ : Agent) (addr : Nat) (v : Word)
  /-- PAGE_LOCK (R448): Writing 0x4C4B_0001 to a page's LOCK register locks its RWL fields until a reset that reaches the page. -/
  | pageLock (by_ : Agent) (pg : Page) (v : Word)
  /-- PAGE_SOFT_RESET (R447): Writing PAGE_CTL.SOFT_RESET returns the page's block registers to their reset values within 1 µs, unless the page is locked or in use. -/
  | pageSoftReset (by_ : Agent) (pg : Page)
  /-- PAGE_ENABLE_WRITE (R448): Clearing or setting PAGE_CTL.ENABLE on a gateable page gates or ungates the block at the next bar boundary, unless the block is in use. -/
  | pageEnableWrite (by_ : Agent) (pg : Page) (en : Bool)
  /-- PAGE_FREEZE (R450): Setting or clearing FREEZE freezes or releases the values that the page's RO counters and ERR_CNT show. -/
  | pageFreeze (by_ : Agent) (pg : Page) (fr : Bool)
  /-- INT_FORCE (R444): Writing 1 to an INT_FORCE bit sets the matching INT_STAT bit without recording an error. -/
  | intForce (by_ : Agent) (pg : Page) (mask : Word)
  /-- OWNER_WRITE (R449): A write to a page's OWNER binds an owned block to a partition, unless it would make an admitted or active table fail (0x0C). -/
  | ownerWrite (by_ : Agent) (pg : Page) (owner : Byte)
  /-- LO_WORD_READ (R278): Reading the LO word of a 64-bit counter pair latches its HI word. -/
  | loWordRead (by_ : Agent) (addr : Nat)
  /-- DEVICE_ACCESS (R279): An access by a master to the device address map is checked against the map, the windows and the region states, and then performed or refused. -/
  | deviceAccess (by_ : Agent) (addr : Nat) (len : Nat) (wr : Option (List Byte))
  /-- FLIT_RECEIVE (R27): A W-link receiver takes a flit whole and accepts it only when its CRC and all wire parities hold. -/
  | flitReceive (port : Nat) (flit : Flit) (t : Nat)
  /-- CREDIT_ONLY_FLIT (R23): A receiver with credits to return and no flit to send issues a credit-only flit within 4 ns. -/
  | creditOnlyFlit (port : Nat)
  /-- SPARE_PRBS_ERROR (R28): An error in the PRBS-15 check of an unused spare wire marks the spare unusable in P_STAT. -/
  | sparePrbsError (port : Nat) (tx : Bool) (spare : Nat)
  /-- LANE_REPAIR (R29): The eighth parity error on one wire within 10 ms makes the receiver send a REPAIR flit that names the wire, the spare and a switch SEQ. -/
  | laneRepair (port : Nat) (wire : Nat)
  /-- REPAIR_FLIT (R29): The sender receives a REPAIR control flit and prepares to drive the spare with the failed wire's data from the switch SEQ. -/
  | repairFlit (port : Nat) (wire : Nat) (spare : Nat) (sw : Nat)
  /-- REPAIR_SWITCH (R29): At the switch SEQ the sender drives the spare, and the receiver reads the logical wire from the spare. -/
  | repairSwitch (port : Nat)
  /-- WLINK_RESET_RELEASE (R35): Release of the hub's W-link reset starts training, the ledger repairs, and a DISCOVERY flit on each hub port. -/
  | wlinkResetRelease (bad : List (Nat × Nat × Bool)) (t : Nat)
  /-- DISCOVERY_REPLY (R37): A discovery reply assigns the die its identity and is checked against the port and the census record. -/
  | discoveryReply (port : Nat) (reply : DieReply)
  /-- DISCOVERY_TIMEOUT (R38): A port whose peer does not answer within 1 ms records 0x85, goes DOWN, and its die is treated as absent. -/
  | discoveryTimeout (port : Nat)
  /-- RING_DISCOVERY (R36): Once identities are assigned, each compute die trains its ring ports and checks its ring peers. -/
  | ringDiscovery (die : Nat) (east : Nat) (west : Nat)
  /-- LOOP_TEST_RUN (R47): Setting P_LOOP.RUN starts the pattern test on a port in loop-back, unless the lifecycle is PRODUCTION. -/
  | loopTestRun (by_ : Agent) (port : Nat)
  /-- LOOP_TEST_DONE (R47): The pattern test ends and reports DONE, PASS and FAIL_WIRE in P_LOOP. -/
  | loopTestDone (port : Nat) (failWire : Option Nat)
  /-- STANDALONE_ENTER (R47): The JTAG stand-alone instruction brings a die up alone in BLANK, DEVELOP or RETURNED. -/
  | standaloneEnter (die : Nat)
  /-- UCI_START (R41): Setting UCI.CTL.START while the port is IDLE begins partner training and negotiation. -/
  | uciStart (by_ : Agent)
  /-- UCI_NEGOTIATION_DONE (R41): Negotiation ends with the partner accepted (ACTIVE) or refused (FENCED, with its cause). -/
  | uciNegotiationDone (offer : PartnerOffer)
  /-- UCI_NEGOTIATION_TIMEOUT (R41): Negotiation that has not ended within 10 ms fences the port with cause 5. -/
  | uciNegotiationTimeout
  /-- UCI_RUNTIME_FENCE (R43): A link-down condition or a fatal sideband message while ACTIVE fences the port within 1 µs and records 0x89. -/
  | uciRuntimeFence
  /-- TIMEBASE_RUN (R53): Setting CYC.CTL.RUN moves the timebase from OFF to ACQUIRE, or is refused when PERIOD_NOM is out of range. -/
  | timebaseRun (by_ : Agent) (t : Nat)
  /-- TIMEBASE_STOP (R53): Clearing CYC.CTL.RUN returns the timebase to OFF at once. -/
  | timebaseStop (by_ : Agent)
  /-- DOWNBEAT_EDGE (R54): A Downbeat edge extends acquisition, sets the phase error of the coming bar, or is treated as displaced. -/
  | downbeatEdge (t : Nat)
  /-- DOWNBEAT_MISSING (R55): No in-window edge by 2 µs after the predicted instant puts CYC into HOLDOVER, records 0x27 and keeps the bar length P. -/
  | downbeatMissing
  /-- TIMEBASE_LOST (R56): After HOLD_MAX boundaries in HOLDOVER, CYC enters LOST, records 0x2F, warns, and re-enters ACQUIRE. -/
  | timebaseLost
  /-- BAR_BOUNDARY (R54): A bar boundary falls at the predicted instant, resets the ticks and applies every change that is held for the boundary. -/
  | barBoundary
  /-- TICK (R50): The tick counter advances, and the strokes whose AT is that tick become due to fire. -/
  | tick
  /-- RUN (R67): A RUN stroke takes a context on each die in DIES and dispatches its descriptor list to the group's engines. -/
  | run
  /-- RUN_PAIRED (R68): A RUN_PAIRED stroke runs the same list on two dies with the full budget, for comparison of the results. -/
  | runPaired
  /-- WAIT_LINES (R69): A WAIT_LINES stroke opens a gate on its partition until the stream's position reaches the line. -/
  | waitLines
  /-- BARRIER (R70): A BARRIER stroke opens a gate until the partition's earlier RUNs have ended, and puts the group into brush load. -/
  | barrier
  /-- COLLECT (R71): A COLLECT stroke waits for the partition's RUNs fired since the previous COLLECT. -/
  | collect
  /-- FUSE (R72): A FUSE stroke waits for its partition's latest COLLECT and then starts the fusion job at DESC. -/
  | fuse
  /-- EMIT (R73): An EMIT stroke waits for its predecessor FUSE or COLLECT before delivering the batch. -/
  | emit
  /-- MARK (R74): A MARK stroke writes a 16-byte record to the mark ring and advances MARK_WR. -/
  | mark
  /-- NOP (R75): A NOP stroke has no effect. -/
  | nop
  /-- SWAP_POINT (R88): A SWAP_POINT stroke commits a pending swap request, which takes effect at the next bar boundary. -/
  | swapPoint
  /-- GATE_SATISFIED (R69): A WAIT_LINES gate is satisfied when the stream position reaches the line, and the gated strokes fire. -/
  | gateSatisfied (p : Nat)
  /-- BARRIER_SATISFIED (R70): A barrier's wait ends, and the group's engines are released by roll-in. -/
  | barrierSatisfied (p : Nat)
  /-- GATE_FAILED (R69): A gate not satisfied before tick D begins fails, records 0x2D and voids the later strokes. -/
  | gateFailed (p : Nat)
  /-- STROKE_COMPLETE (R63): A stroke completes when its operation's completion condition is met, and meets or misses its deadline. -/
  | strokeComplete (idx : Nat)
  /-- BUDGET_EXPIRY (R77): At the end of a stroke's budget the engine is pre-empted and its partial work is discarded with LATE entries. -/
  | budgetExpiry (idx : Nat)
  /-- COLLECT_WRITE (R71): Once its RUNs have ended, COLLECT writes the result buffer with header and entries. -/
  | collectWrite (idx : Nat)
  /-- FUSION_JOB_DONE (R72): The fusion unit reports the job done, and the FUSE stroke completes. -/
  | fusionJobDone
  /-- EMIT_DELIVER (R73): EMIT delivers the batch to the Ethernet queues and posts the emission notice to both islands. -/
  | emitDeliver (idx : Nat)
  /-- EMIT_DEADLINE (R73): With the predecessor failed or unfinished at tick D, EMIT delivers a batch header marked invalid. -/
  | emitDeadline (idx : Nat)
  /-- RESULT_DRAIN (R80): The collector drains a result descriptor and accepts it only with a current or permitted previous epoch. -/
  | resultDrain
  /-- TABLE_LOAD (R81): Setting SEQ.TBL_CTL.LOAD copies SHADOW_LEN strokes into the shadow, or refuses a length out of range. -/
  | tableLoad (by_ : Agent)
  /-- TABLE_LOAD_DONE (R81): The shadow copy completes within 20 µs, and the shadow becomes LOADED. -/
  | tableLoadDone
  /-- ADMIT (R82): Setting SEQ.TBL_CTL.ADMIT starts the admission checks of the shadow. -/
  | requestAdmission (by_ : Agent)
  /-- ADMISSION_DONE (R84): Admission reports pass or the first failure in ADM.RESULT and, without CHECK_ONLY, writes the epochs and marks the shadow ADMITTED. -/
  | admissionDone
  /-- SWAP_REQUEST (R87): Setting SEQ.TBL_CTL.SWAP makes a core swap request, refused when the shadow is not ADMITTED, and taking effect at once in IDLE. -/
  | swapRequest (by_ : Agent)
  /-- SWAP_CANCEL (R88): Setting CANCEL withdraws an uncommitted core request. -/
  | swapCancel (by_ : Agent)
  /-- ISL_SWAP_REQUEST (R87): The island in charge writes ISL_SWAP[0] to make an island swap request; others are refused with 0x2C. -/
  | islSwapRequest (by_ : Agent)
  /-- ISL_SWAP_CANCEL (R88): The island in charge writes ISL_SWAP[1] to withdraw its uncommitted request. -/
  | islSwapCancel (by_ : Agent)
  /-- SEQ_STOP (R92): Setting STOP takes the sequencer to IDLE, at the next boundary from RUNNING or at once otherwise. -/
  | seqStop (by_ : Agent)
  /-- FALLBACK_COPY_DONE (R89): The fallback copy is checked against its stamp and commits, or runs full admission. -/
  | fallbackCopyDone
  /-- DESCRIPTOR_DISPATCH (R106): A descriptor leaves the scoreboard for its engine once its predecessors, tokens and the engine queue allow. -/
  | descriptorDispatch (die : Nat) (ctx : Nat)
  /-- DESCRIPTOR_COMPLETE (R107): A descriptor completes when C is written and its result is queued, and it sets its token. -/
  | descriptorComplete (die : Nat) (eng : Nat) (clocks : Nat)
  /-- DESCRIPTOR_FAIL (R108): A descriptor fails through an error or a run-time check, sets no token and posts INVALID. -/
  | descriptorFail (die : Nat) (eng : Nat) (code : Nat)
  /-- LINE_WAIT_END (R183): A line-fed descriptor's read of row y proceeds once the stream position reaches y. -/
  | lineWaitEnd (die : Nat) (eng : Nat) (clocks : Nat)
  /-- ENGINE_FAULT (R117): An engine fault stops the engine, discards its work with INVALID entries, records 0x3C and marks the slot bad. -/
  | engineFault (die : Nat) (slot : Nat) (cause : Nat)
  /-- RETURN_SEQUENCE_DONE (R123): A returning engine completes queue flush, tile scrub, tracker INIT and epoch load, and enters READY. -/
  | returnSequenceDone (die : Nat) (slot : Nat) (pass : Bool)
  /-- SPARE_SELF_TEST (R121): Every TEST_INT hours an unused good spare runs its self-test, and is marked bad if it fails. -/
  | spareSelfTest (die : Nat) (slot : Nat) (pass : Bool)
  /-- ENG_TEST_RUN (R121): Setting ENG_TEST.RUN starts an engine self-test where its state permits. -/
  | engTestRun (by_ : Agent) (die : Nat) (slot : Nat)
  /-- ENG_TEST_DONE (R121): The self-test finishes and reports DONE and PASS. -/
  | engTestDone (die : Nat) (slot : Nat) (pass : Bool)
  /-- SLEEP_PEND_WRITE (R124): A write to SCH.SLEEP_PEND schedules gating, or starts the return sequence of an engine whose bit is cleared. -/
  | sleepPendWrite (by_ : Agent) (die : Nat) (v : Word)
  /-- SPECTRAL_HANDOFF (R189): The engine hands a staged CONV_SPECTRAL descriptor to the die's spectral unit once the unit is free. -/
  | spectralHandoff (die : Nat) (eng : Nat)
  /-- SPEC_ECC (R193): An uncorrectable spectral store error abandons the descriptor, fails it and records 0x19. -/
  | specEcc (die : Nat)
  /-- TRACKER_INIT_REQUEST (R145): Setting QNT.INIT_REQ[j] returns set j to INIT at the next bar boundary. -/
  | trackerInitRequest (by_ : Agent) (die : Nat) (mask : Word)
  /-- PPU_JOB (R198): The PPU decodes, ranks and suppresses a head tensor, and writes a detection list. -/
  | ppuJob
  /-- ALIGN (R248): The ALIGN stage fixes the common instant and waits for its slots. -/
  | align
  /-- ALIGN_WAIT_END (R248): When the slots are complete or WAIT_TICK begins, ALIGN interpolates the states, deskews the points and writes the alignment output. -/
  | alignWaitEnd
  /-- EGO (R252): The EGO stage registers the scan against the reference grid, commits the motion and updates the grid. -/
  | ego
  /-- PROJ (R250): The PROJ stage projects aligned points into each usable camera and writes the per-camera tensors. -/
  | proj
  /-- LIFT (R255): The LIFT stage writes the grid tensor from camera features and point channels. -/
  | lift
  /-- ASSIGN (R257): The ASSIGN stage gates detections against predicted tracks and solves the assignment. -/
  | assign
  /-- TRACK (R259): The TRACK stage updates matched and unmatched tracks, applies state transitions, gives births, and evaluates the degradation step. -/
  | track
  /-- OUT (R261): The OUT stage writes the batch header and track result records. -/
  | out
  /-- OPT_SEED (R206): An OPT_STEP in SEED mode scales the loss gradient by 2^LS_EXP. -/
  | optSeed (die : Nat) (eng : Nat)
  /-- OPT_CHECK (R206): An OPT_STEP in CHECK mode scans the gradients and sets SKIP[GRP] on a non-finite element. -/
  | optCheck (die : Nat) (eng : Nat)
  /-- OPT_APPLY (R206): An OPT_STEP in APPLY mode updates the weights and optimiser state, unless skipped. -/
  | optApply (die : Nat) (eng : Nat)
  /-- LREG_OPEN (R213): Writing LREG_n.CTL.OPEN requests OPEN, or accepts torn contents, for the next bar boundary. -/
  | lregOpen (by_ : Agent) (n : Nat)
  /-- LREG_FREEZE (R214): Writing LREG_n.CTL.FREEZE requests FREEZING at the next bar boundary. -/
  | lregFreeze (by_ : Agent) (n : Nat)
  /-- LREG_RESTORE (R218): Writing LREG_n.CTL.RESTORE requests a restore of the selected generation. -/
  | lregRestore (by_ : Agent) (n : Nat)
  /-- LREG_OFF (R213): Writing LREG_n.CTL.OFF requests OFF at the next bar boundary. -/
  | lregOff (by_ : Agent) (n : Nat)
  /-- LREG_CKPT (R217): Writing LREG_n.CTL.CKPT starts a checkpoint commit, or is refused with 0x1E. -/
  | lregCkpt (by_ : Agent) (n : Nat)
  /-- LREG_VET (R214): The island in charge writes the digest to VET to move a FROZEN region to VETTED. -/
  | lregVet (by_ : Agent) (n : Nat) (v : Word)
  /-- DIGEST_DONE (R214): The SHA-384 over a FREEZING region completes, DIGEST is written, and the region becomes FROZEN. -/
  | digestDone (n : Nat)
  /-- CKPT_COMMIT_DONE (R217): The checkpoint commit completes and rotates the CURRENT and PREVIOUS generations. -/
  | ckptCommitDone (n : Nat)
  /-- RESTORE_DONE (R218): The restore copy ends and the region goes to FREEZING, or returns to OPEN on a refusal. -/
  | restoreDone (n : Nat) (crcOk : Bool)
  /-- ING_CONFIG_WRITE (R222): A write to an ING_s configuration register is held for the next bar boundary, or ignored while the stream is in use. -/
  | ingConfigWrite (by_ : Agent) (sm : Nat) (off : Nat) (v : Word)
  /-- FRAME_START (R58): A CSI-2 Frame Start begins the bar frame, writes its record and checks its frame number. -/
  | frameStart (port : Nat) (vc : Nat) (fn : Nat) (t : Nat)
  /-- CSI_LONG_PACKET (R224): A CSI-2 long packet is checked, and its pixels are converted and written to the frame tensor. -/
  | csiLongPacket (port : Nat) (vc : Nat) (dt : Nat) (payload : List Byte) (hdrErrs : Nat) (crcOk : Bool) (fifo : Bool)
  /-- LINE_COMPLETE (R227): A stream line completes and advances the line position. -/
  | lineComplete (sm : Nat) (t : Nat)
  /-- FRAME_END (R238): A CSI-2 Frame End fixes the frame verdict within 2 µs and rewrites the frame record. -/
  | frameEnd (port : Nat) (vc : Nat) (t : Nat)
  /-- ING_LATE (R239): No Frame Start or record by tick FS_LATE makes the stream LATE and records 0x43. -/
  | ingLate (sm : Nat)
  /-- ETH_FRAME_RECEIVE (R233): A received Ethernet frame is checked for FCS and filters, and written as a packet record with its source-time check. -/
  | ethFrameReceive (mac : Nat) (frame : EthFrame) (t : Nat)
  /-- QBV_COMMIT (R232): Setting QBV_n.COMMIT makes the pending gate control list pending for the next cycle start. -/
  | qbvCommit (by_ : Agent) (n : Nat)
  /-- QBV_CYCLE_START (R232): At a Qbv cycle start the committed gate control list takes effect. -/
  | qbvCycleStart (n : Nat) (t : Nat)
  /-- GPTP_SYNC (R236): A Sync and Follow_Up pair corrects the device clock by slewing or stepping. -/
  | gptpSync (mac : Nat) (master : Int) (corr : Int) (t : Nat)
  /-- GPTP_PDELAY (R235): A peer delay message is answered or used for the peer-to-peer delay measurement. -/
  | gptpPdelay (mac : Nat) (kind : Nat) (t1 : Int) (t2 : Int) (t3 : Int) (t4 : Int)
  /-- GPTP_SYNC_LOSS (R236): No Sync for SYNC_LOSS intervals puts the time receiver in LOST and records 0x49. -/
  | gptpSyncLoss (t : Nat)
  /-- PTP_SET (R235): Writing PTP_SET, high word last, sets the grandmaster time. -/
  | ptpSet (by_ : Agent) (hi : Bool) (v : Word)
  /-- PRT_CONFIG_WRITE (R267): A PRT configuration write is held for the next bar boundary, or ignored with 0x0C when it would break a table. -/
  | prtConfigWrite (by_ : Agent) (p : Nat) (off : Nat) (v : Word)
  /-- PARTITION_RESET_REQUEST (R271): Writing PRT_p.CTL.RESET is a partition fault of cause 2. -/
  | partitionResetRequest (by_ : Agent) (p : Nat)
  /-- PARTITION_ISL_RESET (R271): The island in charge writes PRT_p.ISL_RESET, a partition fault of cause 4; others are refused. -/
  | partitionIslReset (by_ : Agent) (p : Nat)
  /-- PARTITION_OVR_LIMIT (R271): OVR_LIMIT budget overruns within one bar make a partition fault of cause 3. -/
  | partitionOvrLimit (p : Nat)
  /-- ENERGY_INTERVAL (R277): Every 1 µs the rail and VIN energies are integrated and charged to partitions. -/
  | energyInterval (rails : List Nat) (vin : Nat)
  /-- STACK_REQUEST (R287): A stack request is classed guaranteed, surplus or held, and queued and served in regulator order. -/
  | stackRequest (stk : Nat) (master : Nat) (off : Nat) (len : Nat) (wr : Bool) (uncorr : Bool)
  /-- REGULATOR_WINDOW (R285): At a master's window boundary its byte counts reset and its held requests are released. -/
  | regulatorWindow (m : Nat)
  /-- QUEUE_LEVEL_SAMPLE (R286): Every 64 ns the stack queue level is sampled and applied at the sources. -/
  | queueLevelSample (stk : Nat)
  /-- PATROL_SCRUB (R282): The patrol scrub reads every stack word once per SCRUB_H hours and writes back corrections. -/
  | patrolScrub (stk : Nat) (off : Nat) (errs : Nat)
  /-- MS_FAIL (R283): A stack interface not retrained within 100 µs records 0x08, and its die leaves service. -/
  | msFail (stk : Nat)
  /-- BW_COMMIT (R289): Setting BWREG.CTL.COMMIT starts the capacity check of the written regulator configuration. -/
  | bwCommit (by_ : Agent)
  /-- BW_COMMIT_CHECK_DONE (R289): The check ends, and the configuration is held for the next boundary or refused with 0x0B. -/
  | bwCommitCheckDone
  /-- CORE_RUN (R293): A write to CORE.RUN releases cores at RVEC, or returns them to reset at once. -/
  | coreRun (by_ : Agent) (v : Byte)
  /-- MBX_WRITE (R296): A sender's write to DATA_c stores the word, or counts an overwrite with 0x12 when the flag is set. -/
  | mbxWrite (by_ : Agent) (c : Nat) (v : Word)
  /-- MBX_READ (R296): A receiver's read of DATA_c returns the word and clears the flag. -/
  | mbxRead (by_ : Agent) (c : Nat)
  /-- WARNING_MOVE (R300): When the in-charge island's channel is empty, the oldest queued warning moves into it. -/
  | warningMove
  /-- INTC_CLAIM (R303): Reading CLAIM_x returns and claims the highest-priority pending source. -/
  | intcClaim (by_ : Agent) (x : Nat)
  /-- INTC_COMPLETE (R303): Writing COMPLETE_x releases a claimed source. -/
  | intcComplete (by_ : Agent) (x : Nat) (n : Nat)
  /-- HOST_ACCESS (R307): A host BAR access is performed as master 28, or refused with Completer Abort or 0x06. -/
  | hostAccess (bar : Nat) (off : Nat) (len : Nat) (wr : Option (List Byte))
  /-- DMA_START (R308): Setting DMA_d.GO starts a copy between device and host. -/
  | dmaStart (by_ : Agent) (d : Nat)
  /-- DMA_DONE (R308): A DMA copy writes its last byte and sets DONE. -/
  | dmaDone (d : Nat) (bytes : List Byte)
  /-- DMA_ERROR (R308): A completion with UR, CA or poison stops the channel, sets ERR and records 0x11. -/
  | dmaError (d : Nat) (kind : Nat)
  /-- PCIE_RESET (R426): PERST_N low in endpoint mode resets the PCIe link and PCIE page. -/
  | pcieReset
  /-- PCIE_IB_MSI (R310): A downstream MSI-X write to IB_MSI in root-port mode pends INTC source 0x05B. -/
  | pcieIbMsi (v : Word)
  /-- MDIO_START (R231): Setting MDIO.GO starts a Clause 22 or 45 management frame. -/
  | mdioStart (by_ : Agent)
  /-- MDIO_DONE (R231): The management frame ends and sets MDIO.DONE. -/
  | mdioDone (v : Nat)
  /-- ISLAND_FAULT (R313): An island fault clears the hold latch, stops heartbeats, abdicates a held Clapper, records its code and holds the cores. -/
  | islandFault (i : Nat) (cause : Nat)
  /-- ISLAND_WATCHDOG_EXPIRE (R313): Expiry of ISL.WDOG is an island fault. -/
  | islandWatchdogExpire (i : Nat)
  /-- ISLAND_AUTO_RESTART (R313): With AUTO_RESTART set, the island reboots from its flash 10 ms after a fault. -/
  | islandAutoRestart (i : Nat) (slots : List (Option Nat))
  /-- ISLAND_RESET_RELEASE (R315): On release of island reset the SPLIT ball is sampled and the island starts in Lockstep or Split mode. -/
  | islandResetRelease (i : Nat) (split : Bool) (slots : List (Option Nat))
  /-- ISLAND_RESTART (R336): Writing ISL.CTL.RESTART restarts a monitor island, or is an island fault in the island in charge. -/
  | islandRestart (i : Nat)
  /-- CLAP_CLAIM (R318): An island writes CLAIM with an epoch, and the claim is refused or starts arbitration or GRANTING. -/
  | clapClaim (by_ : Agent) (i : Nat) (e : Word) (t : Nat)
  /-- CLAP_ARBITRATE (R319): At the end of the 10 µs window in FREE the hub arbitrates the claims, sends OFFER to the winner and DENY to the loser. -/
  | clapArbitrate (t : Nat)
  /-- CLAP_CONFIRM (R320): The winner's CONFIRM starts the break: REVOKE to the former holder, or GRANT at once from FREE or LAPSED. -/
  | clapConfirm (by_ : Agent) (i : Nat) (e : Word) (t : Nat)
  /-- CLAP_CONFIRM_TIMEOUT (R320): No confirm within 100 µs records 0x55 and returns the token to its former state. -/
  | clapConfirmTimeout
  /-- CLAP_HOLD_REL (R320): The former holder's HOLD_REL write lets the hub send GRANT to the winner. -/
  | clapHoldRel (by_ : Agent) (t : Nat)
  /-- CLAP_GRANT_TIMEOUT (R320): 510 µs after CONFIRM without HOLD_REL, the hub sends GRANT. -/
  | clapGrantTimeout (t : Nat)
  /-- CLAP_RELEASE (R317): The holder's write of CTL.RELEASE moves HELD to OFFERED while MON_READY is set. -/
  | clapRelease (by_ : Agent) (t : Nat)
  /-- CLAP_OFFER_TIMEOUT (R317): No claim within 1 ms of OFFERED returns the token to HELD. -/
  | clapOfferTimeout
  /-- CLAP_HEARTBEAT (R321): A heartbeat write is answered WRITE_ACK for the holder, clearing the missed count, or ERROR otherwise. -/
  | clapHeartbeat (by_ : Agent) (i : Nat)
  /-- HEARTBEAT_PERIOD_END (R321): At the end of each 250 µs period without a heartbeat the missed count grows, or the monitor's liveness is judged. -/
  | heartbeatPeriodEnd (t : Nat)
  /-- CLAP_LIVE (R322): The monitor's LIVE write keeps MON_READY. -/
  | clapLive (by_ : Agent) (i : Nat)
  /-- CLAP_ABDICATE (R321): A write to ABDICATE from the holder's fault logic lapses the token at once. -/
  | clapAbdicate (by_ : Agent) (t : Nat)
  /-- GRANT_RECEIVE (R323): A GRANT message sets the island's hold latch. -/
  | grantReceive (i : Nat) (t : Nat)
  /-- REVOKE_RECEIVE (R323): A REVOKE message clears the hold latch, and the island writes HOLD_REL. -/
  | revokeReceive (i : Nat)
  /-- HEARTBEAT_RESPONSE (R323): An ERROR response to a heartbeat clears the hold latch, and an acknowledgment restarts the hold timer. -/
  | heartbeatResponse (i : Nat) (ack : Bool) (t : Nat)
  /-- HOLD_TIMEOUT (R323): No WRITE_ACK for 500 µs clears the hold latch and records 0x56. -/
  | holdTimeout (i : Nat) (t : Nat)
  /-- HOLD_DROP (R323): Writing ISL.CTL.HOLD_DROP clears the hold latch. -/
  | holdDrop (i : Nat)
  /-- SAFE_N_IN_ASSERT (R326): SAFE_N_IN low for at least 10 µs is a safe-state trigger and records 0x5A. -/
  | safeNInAssert (t : Nat)
  /-- EMISSION_NOTICE (R328): An island receives an emission notice and updates freshness, PAIR_RUN and CLIP_RUN for its watches. -/
  | emissionNotice (i : Nat) (n : Notice) (t : Nat)
  /-- TICK_FLIT (R327): An island receives the bar-boundary TICK flit carrying the bar count and HEALTH_BAR. -/
  | tickFlit (i : Nat) (bar : Nat) (health : Nat)
  /-- WATCH_EXPIRE (R328): A CURRENT watch whose age reaches AGE_LIMIT becomes EXPIRED and records 0x57. -/
  | watchExpire (i : Nat) (w : Nat) (t : Nat)
  /-- ISL_SAFE_REQ (R330): Firmware writes ISL.CTL.SAFE_REQ, a safe-state trigger. -/
  | islSafeReq (i : Nat) (t : Nat)
  /-- CLAP_SAFE_REQ (R330): An island's SAFE_REQ write reaches the hub and is honoured or counted. -/
  | clapSafeReq (by_ : Agent) (i : Nat) (cause : Nat) (t : Nat)
  /-- SAFE_MESSAGE_RECEIVE (R331): An island receiving a SAFE message sets its SAFE latch and drives its pair invalid. -/
  | safeMessageReceive (i : Nat) (t : Nat)
  /-- NO_ISLAND_TIMEOUT (R330): No island in charge for 2 ms after the first grant is a safe-state trigger of cause 7. -/
  | noIslandTimeout (t : Nat)
  /-- SAFE_CLR (R332): The island in charge writes CLAP.CTL.SAFE_CLR to leave the safe state, or is refused with 0x5E. -/
  | safeClr (by_ : Agent)
  /-- CAN_STATUS_PERIOD (R334): Every STAT_PERIOD an island sends a STATUS frame on CAN_0. -/
  | canStatusPeriod (i : Nat)
  /-- SSF_PERIOD (R334): Every SSF_PERIOD of the safe state the island in charge repeats the SAFE_STATE frame. -/
  | ssfPeriod (i : Nat) (ch : Nat) (t : Nat)
  /-- CAN_SSF_LATE (R335): A SAFE_STATE frame not complete 2.0 ms after t0 records 0x5B. -/
  | canSsfLate (i : Nat) (ch : Nat) (t : Nat)
  /-- CAN_BUS_OFF (R333): A CAN FD channel entering bus-off records 0x5F. -/
  | canBusOff (i : Nat) (ch : Nat)
  /-- CAN_BUS_OFF_RECOVERY (R333): After 128 occurrences of 11 recessive bits, the channel leaves bus-off. -/
  | canBusOffRecovery (i : Nat) (ch : Nat)
  /-- CAN_RECEIVE (R333): A received CAN FD frame is accepted through the acceptance filters. -/
  | canReceive (i : Nat) (ch : Nat) (f : CanFrame)
  /-- PMC_SAMPLE (R339): Every 125 ns the PMC samples IMON, die-sense and VIN, and checks phase re-adding. -/
  | pmcSample (rails : List RailSample) (vinMv : Nat) (vinMa : Nat) (t : Nat)
  /-- PHASE_SHED (R340): A rail below its shed current for 100 µs drops to its reduced phase count. -/
  | phaseShed (r : Nat) (t : Nat)
  /-- PHASE_FAULT (R343): An open or sense-failed phase is disabled within 50 µs, ILIM and the caps are lowered, and 0x60 or 0x61 is recorded. -/
  | phaseFault (r : Nat) (opens : List Nat) (senses : List Nat) (t : Nat)
  /-- ILIM_STEP (R343): Every 10 µs while rail current exceeds ILIM, the die steps down one operating point. -/
  | ilimStep (r : Nat)
  /-- RAIL_STAGE_DISABLE (R344): An OUT compute rail's stages are disabled at the next boundary or 100 ms after the loss. -/
  | railStageDisable (n : Nat)
  /-- OP_SELECT (R353): Every 1 µs the PMC selects each die's operating point from the soft and hard limits and sets BREACH. -/
  | opSelect
  /-- OP_STEP_DONE (R347): An operating-point step completes its voltage slew and clock switch. -/
  | opStepDone (n : Nat)
  /-- MARGIN_SAMPLE (R348): Every 1 ms the timing-margin monitors measure slack at the current point. -/
  | marginSample (n : Nat) (slack : List Nat)
  /-- AGE_RAISE (R348): 64 samples below MARGIN_MIN raise the point's offset by 1 mV and journal it. -/
  | ageRaise (n : Nat)
  /-- FLOOR_PEND_WRITE (R352): A write of OPC_n.FLOOR_PEND is checked against TOP, the floor budget and ILIM, or refused with 0x67. -/
  | floorPendWrite (by_ : Agent) (n : Nat) (k : Nat)
  /-- DROOP_DETECT (R354): A deep droop halves the die's array clock within 10 ns and is counted. -/
  | droopDetect (n : Nat) (t : Nat)
  /-- DROOP_TIMEOUT (R354): A droop not recovered within 10 µs steps the die down one point for 1 ms. -/
  | droopTimeout (n : Nat) (t : Nat)
  /-- DROOP_HOLD_END (R354): 1 ms after a droop step-down, the droop limit ends. -/
  | droopHoldEnd (n : Nat)
  /-- ENV_REQUEST (R356): A write of CAP.ENV.REQ makes a core envelope request pending, or is refused with 0x67. -/
  | envRequest (by_ : Agent) (e : Nat)
  /-- ENV_ISL_REQUEST (R356): The island in charge writes CAP.ENV_ISL to make an island envelope request. -/
  | envIslRequest (by_ : Agent) (e : Nat)
  /-- CAP_EVALUATION (R358): At each window's interval the cap controller compares the mean with its cap and lowers a die above 97 %. -/
  | capEvaluation (win : Nat) (mean : Nat) (t : Nat)
  /-- CAP_RAISE (R358): Every 1 ms with every mean below 90 % of its cap, one die rises one point toward REQ. -/
  | capRaise (t : Nat)
  /-- TJ_SAMPLE (R362): Every 100 µs the junction sensors are sampled against the thermal thresholds. -/
  | tjSample (readings : List (List Int)) (stages : List Int) (t : Nat)
  /-- STACK_TEMP_SAMPLE (R361): Every 1 ms each stack temperature is read and the refresh rate is set. -/
  | stackTempSample (temps : List Int) (t : Nat)
  /-- THERMAL_STEP (R362): Every 1 ms under a throttle the die steps down a further point, or every 10 ms after release it rises. -/
  | thermalStep (n : Nat) (t : Nat)
  /-- COOLANT_READ (R365): Every 10 ms the tray sensors are read over I3C and the coolant state and limit are updated. -/
  | coolantRead (r : TrayRead) (t : Nat)
  /-- HOURLY_TIMER (R381): Each hour of operation commits the thermal-cycle and wear counts and starts a fold. -/
  | hourlyTimer
  /-- JOURNAL_WRITE (R380): With entries queued, 1 ms since the last write and writing permitted, the ledger writes the next journal record. -/
  | journalWrite (t : Nat)
  /-- RECORD_WRITE_DONE (R376): A record write completes and is read back, and the CRC is checked. -/
  | recordWriteDone (bank : Nat) (crcOk : Bool)
  /-- FLUSH_START (R386): POWER_FAIL_N low for 1 µs, or VDD_KA below 3.0 V, with a ready gauge starts a ledger flush. -/
  | flushStart (powerFail : Bool) (kaMv : Nat) (t : Nat)
  /-- FLUSH_DONE (R386): The flush writes the queued entries and a POWER_DOWN entry, and enters FLUSHED. -/
  | flushDone (t : Nat)
  /-- LEDGER_RESUME (R387): Supply back after a flush returns the ledger to service 1 ms later with a RESUME entry. -/
  | ledgerResume (t : Nat)
  /-- LEDGER_RECOVERY_DONE (R388): Recovery ends within 20 ms, queues BOOT_START and starts a fold. -/
  | ledgerRecoveryDone (us : Nat) (t : Nat)
  /-- LDG_FW_WRITE (R385): LDG.FW.WRITE commits an FWOBJ from hub SRAM, or is refused for rate or permission. -/
  | ldgFwWrite (by_ : Agent) (t : Nat)
  /-- LDG_FW_READ (R385): LDG.FW.READ copies a committed object or fault ring record to hub SRAM. -/
  | ldgFwRead (by_ : Agent)
  /-- LDG_FW_ENTRY (R385): LDG.FW.ENTRY queues an FW entry, subject to the rate limit. -/
  | ldgFwEntry (by_ : Agent) (t : Nat)
  /-- BOOT_TRIAL (R396): Writing BOOT.CTL.TRIAL commits BOOT with TRIAL set naming the other slot. -/
  | bootTrial (by_ : Agent)
  /-- BOOT_CONFIRM (R396): CONFIRM commits the trial slot as active, clears TRIAL and raises SVN. -/
  | bootConfirm (by_ : Agent)
  /-- BOOT_CANCEL (R396): CANCEL commits BOOT with TRIAL clear. -/
  | bootCancel (by_ : Agent)
  /-- FULL_CHARGE (R390): The charge current falls below I_CHG/10, the store is full, and the gauge becomes READY. -/
  | fullCharge
  /-- CHARGE_TIMEOUT (R390): No full charge within T_CHG_MAX records 0x7D and sets DEGRADED. -/
  | chargeTimeout
  /-- STORE_REMOVAL (R391): Detected removal stops the charger, makes the gauge ABSENT and records 0x79. -/
  | storeRemoval
  /-- PRESENCE_PULSE (R392): Every 100 ms a presence pulse tests the store, and three good pulses confirm insertion. -/
  | presencePulse (riseMv : Nat)
  /-- GAUGE_SAMPLE (R393): Every 1 ms the gauge measures the store voltage and charge and updates the energies and state. -/
  | gaugeSample (vMv : Nat) (inMa : Int) (outMa : Nat)
  /-- CLR_DEG (R395): Writing HLD.CTL.CLR_DEG clears DEGRADED. -/
  | clrDeg (by_ : Agent)
  /-- DLK_FLIT_RECEIVE (R398): A device-link flit is accepted on its CRC, or triggers replay, or takes the link DOWN. -/
  | dlkFlitReceive (l : Nat) (flit : Flit) (t : Nat)
  /-- DLK_IDLE_FLIT (R399): After 1 µs without a flit the sender sends an idle credit-only flit. -/
  | dlkIdleFlit (l : Nat) (t : Nat)
  /-- DLK_RX_TIMEOUT (R399): No flit for 10 µs takes the device link DOWN with 0x8B. -/
  | dlkRxTimeout (l : Nat)
  /-- ENUM_START (R401): Setting DLK.CTL.ENUM on the root starts breadth-first enumeration. -/
  | enumStart (by_ : Agent) (cables : List Cable)
  /-- ENUM_MESSAGE (R401): A device receiving enumeration takes its index and reports its serial, or fails with 0x8C. -/
  | enumMessage (m : EnumMsg)
  /-- ENUM_TIMEOUT (R401): No enumeration within 100 ms after training leaves the device ALONE. -/
  | enumTimeout
  /-- TIME_FLIT (R405): Every 125 µs a TIME flit on the up link steers a TSRC 1 member's clock. -/
  | timeFlit (rootTime : Int) (delay : Nat) (t : Nat)
  /-- COPY_START (R406): Setting CP_c.GO starts a copy to or from a remote device. -/
  | copyStart (by_ : Agent) (c : Nat)
  /-- COPY_DONE (R406): A copy writes its last byte, sets DONE and optionally notifies the remote, or stops with ERR. -/
  | copyDone (c : Nat) (bytes : List Byte) (err : Option Nat)
  /-- REMOTE_ACCESS (R407): An inbound remote access is performed within an inbound window, or refused with 0x8F. -/
  | remoteAccess (src : Nat) (addr : Nat) (len : Nat) (wr : Option (List Byte)) (notify : Bool)
  /-- XB_CONFIG_WRITE (R408): A write to XB_k is held for the next boundary, or ignored with 0x8F while a BARRIER of PART is admitted. -/
  | xbConfigWrite (by_ : Agent) (k : Nat) (off : Nat) (v : Word)
  /-- XBAR_ARRIVE (R409): An ARRIVE message is matched to a local barrier or discarded with 0x8D. -/
  | xbarArrive (a : Arrive)
  /-- XBAR_RELEASE (R410): At T_rel plus the device offset the cross-device barrier releases its group by roll-in. -/
  | xbarRelease (k : Nat) (t : Nat)
  /-- DLK_STATUS (R413): A member's bar STATUS flit carrying WAIT_US arrives at another member. -/
  | dlkStatus (src : Nat) (waitUs : Nat)
  /-- SHIFT_EXCHANGE (R413): Every PERIOD bars the root picks donor and recipient and sends PROPOSE. -/
  | shiftExchange
  /-- SHIFT_PROPOSE (R413): The donor accepts a PROPOSE if its new LIM_1S still covers its floor budget. -/
  | shiftPropose (step : Nat)
  /-- SHIFT_COMMIT (R413): On COMMIT each member writes its SHIFT_W for the next boundary. -/
  | shiftCommit (delta : Int) (untilBoundary : Nat)
  /-- DLK_FENCE (R414): A device with no route to, or no STATUS for 3 bars from, another member fences it and sends FENCE. -/
  | dlkFence (d : Nat) (down : List (Nat × Nat))
  /-- FENCE_NOTICE (R415): A FENCE notice makes the member set SHIFT_W to 0. -/
  | fenceNotice (src : Nat) (d : Nat)
  /-- ROOT_ROUTE_TIMEOUT (R415): No route to the root for 1 ms sets SHIFT_W to 0. -/
  | rootRouteTimeout
  /-- KA_POWER_ON (R426): VDD_KA rising through 3.0 V resets everything including the keep-alive domain. -/
  | kaPowerOn
  /-- PORST_RISE (R423): The rise of PORST_N samples straps and starts the power-up sequence. -/
  | porstRise (rp : Bool) (lanes : List Nat)
  /-- PORST_FALL (R425): The fall of PORST_N sets every PWM to mid-level and every output to Hi-Z within 10 µs. -/
  | porstFall
  /-- RST_CTL_WARM (R427): Writing 0x5253_0001 to RST_CTL from a core makes a warm reset. -/
  | rstCtlWarm (by_ : Agent)
  /-- RST_CTL_COLD (R426): Writing 0x5253_0002 to RST_CTL from a core makes a cold reset. -/
  | rstCtlCold (by_ : Agent)
  /-- HUB_WATCHDOG_EXPIRE (R427): PERIOD ms without a WDOG.KICK makes a warm reset recorded as 0x1F. -/
  | hubWatchdogExpire (t : Nat)
  /-- WDOG_KICK (R427): A write to WDOG.KICK services the hub watchdog. -/
  | wdogKick (by_ : Agent) (t : Nat)
  /-- TAP_RESET (R426): TRST_N low or five TCK cycles with TMS high resets the TAP. -/
  | tapReset
  /-- ISLAND_RESET_PIN (R426): SIx_RST_N low resets that island. -/
  | islandResetPin (i : Nat)
  /-- PHASE_TEST (R424): A phase drives its rail to 0.30 V and passes, or is lost with 0x60 or 0x61. -/
  | phaseTest (r : Nat) (ph : Nat) (reached : Bool) (imon : Int) (sat : Bool)
  /-- SOFT_START_TIMEOUT (R424): A rail not at its soft-start target 1 ms after start records 0x0F and is OUT. -/
  | softStartTimeout (r : Nat)
  /-- BOOT_ROM (R428): The ROM stage reads fuses and lifecycle, derives the ledger key and locks the secret. -/
  | bootRom
  /-- CENSUS_STAGE (R429): The census stage runs discovery, census check, voltage tables, spare maps and stack training, and decides which dies serve. -/
  | censusStage (stacksOk : Nat) (sparesOk : List Nat) (vtOk : Nat)
  /-- IMAGE_LOAD (R433): The ROM chooses a slot, verifies and loads the image, and updates the measurement. -/
  | imageLoad (slots : List (Option Image))
  /-- HANDOFF (R428): Once CENSUS and IMAGE are done, core 0 is released at the image's entry. -/
  | handoff (ms : Nat)
  /-- LC_REQUEST (R437): Setting SEC.LC_REQ.GO checks the lifecycle token and starts burning, or refuses with 0x0E. -/
  | lcRequest (by_ : Agent) (tok : LcToken)
  /-- LC_BURN_DONE (R437): The lifecycle fuses are burnt within 50 ms and LC.PENDING sets. -/
  | lcBurnDone
  /-- KEY_REVOKE (R438): Setting a SEC.REVOKE bit burns the revocation of an owner slot, or is refused with 0x0E. -/
  | keyRevoke (by_ : Agent) (mask : Nat)
  /-- MALLET_OFF_WRITE (R456): Writing DBG.MAL.OFF stops Mallet after the character in progress until cold reset. -/
  | malletOffWrite (by_ : Agent)
  /-- MALLET_BAD_LINE (R453): An overlong or malformed line is discarded and answered with E1. -/
  | malletBadLine
  /-- MALLET_SESSION_TIMEOUT (R455): 600 s without a received line returns the session to IDLE. -/
  | malletSessionTimeout (t : Nat)
  /-- MALLET_HELP (R458): HELP lists the permitted command names. -/
  | malletHelp
  /-- MALLET_ID (R458): ID reports part, variant, stepping, serial and lifecycle. -/
  | malletId
  /-- MALLET_STAT (R458): STAT reports boot stage, dies, islands, Clapper, sequencer, timebase and envelope. -/
  | malletStat
  /-- MALLET_RD (R459): RD reads up to 64 aligned words, marking words not performed. -/
  | malletRd (a : Nat) (n : Nat)
  /-- MALLET_WR (R459): WR writes a 32-bit value and reads it back, or answers E4. -/
  | malletWr (a : Nat) (v : Word)
  /-- MALLET_MD (R459): MD dumps up to 4,096 bytes. -/
  | malletMd (a : Nat) (n : Nat)
  /-- MALLET_MW (R459): MW writes a word outside the control region and reads it back. -/
  | malletMw (a : Nat) (v : Word)
  /-- MALLET_ERR (R458): ERR shows a page's error capture, and with CLR clears ERR_STAT. -/
  | malletErr (a : Nat) (clr : Bool)
  /-- MALLET_LOG (R458): LOG shows the newest fault ring entries. -/
  | malletLog (n : Nat)
  /-- MALLET_BAUD (R458): BAUD sets the nearest UART rate and applies it after the prompt. -/
  | malletBaud (r : Nat)
  /-- MALLET_UNLOCK (R460): UNLOCK issues a new challenge nonce, or unlocks at once outside PRODUCTION. -/
  | malletUnlock (t : Nat)
  /-- MALLET_UNLOCK_KEY (R460): UNLOCK K names the owner key slot of the proof. -/
  | malletUnlockKey (k : Nat)
  /-- MALLET_UNLOCK_DATA (R460): UNLOCK + appends hexadecimal proof bytes. -/
  | malletUnlockData (h : List Byte)
  /-- MALLET_UNLOCK_END (R460): UNLOCK END verifies the proof and sets UNLOCKED, or answers E6 and spends the nonce. -/
  | malletUnlockEnd (sigOk : Bool) (keyOk : Bool) (t : Nat)
  /-- MALLET_LOCK (R455): LOCK returns the session to OPEN. -/
  | malletLock
  /-- MALLET_CALIB (R458): CALIB commits the CALIB object from hub SRAM where the lifecycle permits. -/
  | malletCalib (a : Nat) (len : Nat)
  /-- MALLET_CENSUS (R430): CENSUS commits the census from the last discovery, in RETURNED only. -/
  | malletCensus
  /-- MALLET_RESET (R458): RESET COLD sends the status line and makes a cold reset. -/
  | malletReset
  /-- MALLET_OFF (R456): OFF sends the status line and sets DBG.MAL.OFF. -/
  | malletOff
  /-- CLOCK_WIRE_FAILURE (R31): Failure of a W-link's forwarded clock or valid wire, which has no spare, takes the link DOWN with 0x83 and its consequence. -/
  | clockWireFailure (port : Nat) (valid : Bool)
  /-- USXGMII_LINK_CHANGE (R231): A MAC's USXGMII link comes up or goes down, with speed set by auto-negotiation, and MAC_m.LINK and SPEED change. -/
  | usxgmiiLinkChange (mac : Nat) (up : Bool) (speed : Nat)
  /-- PCIE_LINK_TRAINING (R306): The PCIe link trains, at a lower rate and width where the specification requires, or is lost, and STAT.LINK_UP, WIDTH and GEN change. -/
  | pcieLinkTraining (up : Bool) (width : Nat) (gen : Nat)
  /-- DOWNSTREAM_MEMORY_WRITE (R310): In root-port mode, a memory write from the downstream device lands in hub SRAM through IB_BASE and IB_LEN. -/
  | downstreamMemoryWrite (off : Nat) (bytes : List Byte)
  /-- GRANDMASTER_SYNC (R235): As grandmaster, the device sends two-step Sync and Follow_Up on every enabled port at each sync interval. -/
  | grandmasterSync (t : Nat)
  /-- GPTP_ANNOUNCE (R235): A received gPTP Announce message feeds the best master clock algorithm, which may change port roles when BMCA is selected. -/
  | gptpAnnounce (mac : Nat) (a : Announce)
  /-- GATE_INTERVAL_END (R232): The interval of a Qbv gate control list entry runs out, and the next entry's gate bits apply to the transmit queues. -/
  | gateIntervalEnd (n : Nat) (t : Nat)
  /-- CAN_FRAME_COMPLETE (R335): A CAN FD frame finishes transmission, and for a SAFE_STATE frame SSF_SENT counts and the retries end. -/
  | canFrameComplete (i : Nat) (ch : Nat) (f : CanFrame) (t : Nat)
  /-- RECEIVED_CHARACTER (R453): A character arrives on UART_MON_RX, is echoed and buffered, or counts a framing or overrun error in DBG.RX_ERR. -/
  | receivedCharacter (c : Byte) (framing : Bool) (t : Nat)
  /-- SOFT_START_DONE (R423): A regulated rail reaches its soft-start target, and for the compute rails the compute dies' reset is released. -/
  | softStartDone (r : Nat)
deriving DecidableEq, Repr

end Sys2Proof
end

