-- ==== Sys2Proof/Config.lean ====
section
/-! DEFINITION. What the spec leaves open, as constants without a body: nothing in Lean can evaluate them or prove a
value of them. `free` gives values that nothing constrains, `roundUp` the direction of a rounding the spec does not
state, the others the functions the spec names by reference or bounds only in accuracy. -/

namespace Sys2Proof.Config

/-- A fresh value that nothing constrains, by a counter of the state (log entry 3). -/
opaque free : Nat → Nat

/-- Does the device round up where the spec states a non-integer quantity and no rounding (log entry 4). -/
opaque roundUp : Int → Nat → Bool

/-- FP32 e to the x, within the accuracy of R153 (log entry 5). -/
opaque expF : BitVec 32 → BitVec 32
/-- FP32 natural logarithm (R153; log entry 5). -/
opaque logF : BitVec 32 → BitVec 32
/-- FP32 sine (log entry 5). -/
opaque sinF : BitVec 32 → BitVec 32
/-- FP32 cosine (log entry 5). -/
opaque cosF : BitVec 32 → BitVec 32
/-- FP32 two-argument arctangent (log entry 5). -/
opaque atan2F : BitVec 32 → BitVec 32 → BitVec 32
/-- FP32 sigmoid (log entry 5). -/
opaque sigmoidF : BitVec 32 → BitVec 32
/-- FP32 GELU in its tanh form (log entry 5). -/
opaque geluF : BitVec 32 → BitVec 32
/-- FP32 SiLU (log entry 5). -/
opaque siluF : BitVec 32 → BitVec 32
/-- FP32 power (log entry 5). -/
opaque powF : BitVec 32 → BitVec 32 → BitVec 32

/-- FP32 row soft maximum of VECTOR, whose order of operations the spec does not state (log entry 13). -/
opaque softmaxRow : List (BitVec 32) → List (BitVec 32)
/-- FP32 row layer normalisation with gamma and beta (log entry 13). -/
opaque layerNorm : List (BitVec 32) → List (BitVec 32) → List (BitVec 32) → List (BitVec 32)
/-- FP32 row RMS normalisation with gamma (log entry 13). -/
opaque rmsNorm : List (BitVec 32) → List (BitVec 32) → List (BitVec 32)
/-- Where the dV rows start behind the dK rows of an ATTN_BWD, by its sequence table: the spec gives no place
(log entry 14). -/
opaque dvOffset : List (BitVec 8) → Nat

/-- Does a RAW16 pixel travel most significant byte first: the spec names MIPI CSI-2 and retells no byte order (log
entry 29). -/
opaque raw16MsbFirst : Bool

/-- The rate of slewing in ppm, of which the spec bounds only the largest value, 100 (log entry 30). -/
opaque slewPpm : Nat

/-- SHA-384 as twelve 32-bit words, lowest word first: the spec names the standard and retells nothing of it. -/
opaque sha384 : List Byte → List (BitVec 32)

/-- The nonce of a Mallet challenge, by a counter of the state (log entry 6). -/
opaque nonce : Nat → List Byte

/-- Do the acceptance filters of channel `ch` of island `i` accept a frame: the spec gives them no registers (log entry
37). -/
opaque canFilter : Nat → Nat → CanFrame → Bool

end Sys2Proof.Config
end

