-- ==== Sys2Proof/Machine/Regs.lean ====
section
/-! DEFINITION. The register fields of every page (R444 and the register tables of the chapters), as data: where a
field stands, how wide it is, how it is accessed (R14) and what it holds after reset (R15). -/

namespace Sys2Proof.Machine

/-- The kinds of register page (R440), with the port block of R33's chapter and the common header of R444. -/
inductive Blk where

  | hubId | clk | cyc | seq | adm | ing | aln | prj | ego | grd | asg | trk | ppu | col | prt | acct | bwreg | mbx | intc | core | pmc | vrc | thm | dvfs | cap | ldg | hld | dlk | uci | wlk | pcie | eth | sec | dbg | clap | cdId | sch | pool | spare | msc | qnt | spec | wlkd | pe | isl | port | hdr
deriving DecidableEq, Repr

/-- The access types of R14; `lock` is the LOCK word of R448, `chan` a mailbox data word of R296. -/
inductive Acc where
  | ro | rw | rwl | w1c | w1s | wo | lock | chan
deriving DecidableEq, Repr

/-- What a field holds after reset: a value, a value by its first or second index, by the page's number, the page's
number itself, or what the page's identity words derive (R440, R444). -/
inductive Rst where
  | val (n : Nat)
  | byI (l : List Nat)
  | byJ (l : List Nat)
  | byInst (l : List Nat)
  | inst
  | die
  | type
  | cap (b : Nat)
deriving DecidableEq, Repr

/-- One register field: page kind, byte offset of its word at index 0, count and stride of its two indices, first
valid index, lowest bit, width, access type, reset content, and whether the content is the part's own (fused, strapped
or restored from the ledger, R15), so that a reset of the page leaves it. -/
structure Row where
  blk : Blk
  off : Nat
  n1 : Nat
  s1 : Nat
  n2 : Nat
  s2 : Nat
  i0 : Nat
  lo : Nat
  w : Nat
  acc : Acc
  rst : Rst
  keep : Bool
deriving DecidableEq, Repr

namespace Reg


/-! HUB_ID page fields: spec/ chapter 00, 16, 17. -/

def HUB_ID_PART_PART_NUM : Row := ⟨.hubId, 0x040, 1, 0x0, 1, 0x0, 0, 0, 16, .ro, .val 38528, false⟩
def HUB_ID_PART_VARIANT : Row := ⟨.hubId, 0x040, 1, 0x0, 1, 0x0, 0, 16, 4, .ro, .val 0, true⟩
def HUB_ID_PART_STEP : Row := ⟨.hubId, 0x040, 1, 0x0, 1, 0x0, 0, 20, 4, .ro, .val 1, true⟩
def HUB_ID_STRAP_PCIE_RP : Row := ⟨.hubId, 0x044, 1, 0x0, 1, 0x0, 0, 0, 1, .ro, .val 0, true⟩
def HUB_ID_RST_CAUSE_KA_POR : Row := ⟨.hubId, 0x048, 1, 0x0, 1, 0x0, 0, 0, 1, .w1c, .val 0, false⟩
def HUB_ID_RST_CAUSE_TRIP : Row := ⟨.hubId, 0x048, 1, 0x0, 1, 0x0, 0, 5, 1, .w1c, .val 0, false⟩
def HUB_ID_RST_CTL : Row := ⟨.hubId, 0x04C, 1, 0x0, 1, 0x0, 0, 0, 32, .wo, .val 0, false⟩
def HUB_ID_WDOG_PERIOD : Row := ⟨.hubId, 0x050, 1, 0x0, 1, 0x0, 0, 0, 16, .rwl, .val 0, false⟩
def HUB_ID_WDOG_KICK : Row := ⟨.hubId, 0x054, 1, 0x0, 1, 0x0, 0, 0, 1, .wo, .val 0, false⟩
def HUB_ID_BOOT_STAT_STAGE : Row := ⟨.hubId, 0x058, 1, 0x0, 1, 0x0, 0, 0, 3, .ro, .val 0, false⟩
def HUB_ID_BOOT_STAT_STOPPED : Row := ⟨.hubId, 0x058, 1, 0x0, 1, 0x0, 0, 5, 1, .ro, .val 0, false⟩
def HUB_ID_BOOT_STAT_DIE_SVC : Row := ⟨.hubId, 0x058, 1, 0x0, 1, 0x0, 0, 8, 4, .ro, .val 0, false⟩
def HUB_ID_BOOT_MS : Row := ⟨.hubId, 0x05C, 1, 0x0, 1, 0x0, 0, 0, 16, .ro, .val 0, false⟩
def HUB_ID_SERIAL_LO : Row := ⟨.hubId, 0x060, 1, 0x0, 1, 0x0, 0, 0, 32, .ro, .val 0, true⟩
def HUB_ID_SERIAL_HI : Row := ⟨.hubId, 0x064, 1, 0x0, 1, 0x0, 0, 0, 32, .ro, .val 0, true⟩
def HUB_ID_RST_CAUSE_PORST : Row := ⟨.hubId, 0x048, 1, 0x0, 1, 0x0, 0, 1, 1, .w1c, .val 0, false⟩
def HUB_ID_RST_CAUSE_COLD_SW : Row := ⟨.hubId, 0x048, 1, 0x0, 1, 0x0, 0, 2, 1, .w1c, .val 0, false⟩
def HUB_ID_RST_CAUSE_WARM_SW : Row := ⟨.hubId, 0x048, 1, 0x0, 1, 0x0, 0, 3, 1, .w1c, .val 0, false⟩
def HUB_ID_RST_CAUSE_WDOG : Row := ⟨.hubId, 0x048, 1, 0x0, 1, 0x0, 0, 4, 1, .w1c, .val 0, false⟩
def HUB_ID_BOOT_STAT_SLOT : Row := ⟨.hubId, 0x058, 1, 0x0, 1, 0x0, 0, 3, 1, .ro, .val 0, false⟩
def HUB_ID_BOOT_STAT_FALLBACK : Row := ⟨.hubId, 0x058, 1, 0x0, 1, 0x0, 0, 4, 1, .ro, .val 0, false⟩
def HUB_ID_BOOT_STAT_SI_A : Row := ⟨.hubId, 0x058, 1, 0x0, 1, 0x0, 0, 12, 1, .ro, .val 0, false⟩
def HUB_ID_BOOT_STAT_SI_B : Row := ⟨.hubId, 0x058, 1, 0x0, 1, 0x0, 0, 13, 1, .ro, .val 0, false⟩

/-! CLK page fields: spec/ chapter 17. -/

def CLK_STAT_REF_OK : Row := ⟨.clk, 0x040, 1, 0x0, 1, 0x0, 0, 0, 1, .ro, .val 0, false⟩
def CLK_STAT_CD_LOCK : Row := ⟨.clk, 0x040, 1, 0x0, 1, 0x0, 0, 4, 4, .ro, .val 0, false⟩
def CLK_REF_PPM : Row := ⟨.clk, 0x044, 1, 0x0, 1, 0x0, 0, 0, 32, .ro, .val 0, false⟩
def CLK_UNLOCKS : Row := ⟨.clk, 0x048, 1, 0x0, 1, 0x0, 0, 0, 32, .ro, .val 0, false⟩
def CLK_STAT_HUB_LOCK : Row := ⟨.clk, 0x040, 1, 0x0, 1, 0x0, 0, 1, 1, .ro, .val 0, false⟩
def CLK_STAT_CORE_LOCK : Row := ⟨.clk, 0x040, 1, 0x0, 1, 0x0, 0, 2, 1, .ro, .val 0, false⟩

/-! CYC page fields: spec/ chapter 02. -/

def CYC_CTL_RUN : Row := ⟨.cyc, 0x040, 1, 0x0, 1, 0x0, 0, 0, 1, .rw, .val 0, false⟩
def CYC_CTL_SRC : Row := ⟨.cyc, 0x040, 1, 0x0, 1, 0x0, 0, 1, 1, .rwl, .val 0, false⟩
def CYC_CTL_EDGE : Row := ⟨.cyc, 0x040, 1, 0x0, 1, 0x0, 0, 2, 1, .rwl, .val 0, false⟩
def CYC_CTL_HOLD_MAX : Row := ⟨.cyc, 0x040, 1, 0x0, 1, 0x0, 0, 4, 4, .rwl, .val 4, false⟩
def CYC_PERIOD_NOM_PERIOD : Row := ⟨.cyc, 0x044, 1, 0x0, 1, 0x0, 0, 0, 32, .rwl, .val 25000000, false⟩
def CYC_STAT_STATE : Row := ⟨.cyc, 0x048, 1, 0x0, 1, 0x0, 0, 0, 3, .ro, .val 0, false⟩
def CYC_STAT_MISSED : Row := ⟨.cyc, 0x048, 1, 0x0, 1, 0x0, 0, 4, 4, .ro, .val 0, false⟩
def CYC_STAT_TICK : Row := ⟨.cyc, 0x048, 1, 0x0, 1, 0x0, 0, 16, 16, .ro, .val 0, false⟩
def CYC_BAR_LO : Row := ⟨.cyc, 0x04C, 1, 0x0, 1, 0x0, 0, 0, 32, .ro, .val 0, false⟩
def CYC_BAR_HI : Row := ⟨.cyc, 0x050, 1, 0x0, 1, 0x0, 0, 0, 32, .ro, .val 0, false⟩
def CYC_PHASE_ERR : Row := ⟨.cyc, 0x054, 1, 0x0, 1, 0x0, 0, 0, 32, .ro, .val 0, false⟩
def CYC_PERIOD_EST : Row := ⟨.cyc, 0x058, 1, 0x0, 1, 0x0, 0, 0, 32, .ro, .val 0, false⟩
def CYC_ORIGIN_LO : Row := ⟨.cyc, 0x05C, 1, 0x0, 1, 0x0, 0, 0, 32, .rwl, .val 0, false⟩
def CYC_ORIGIN_HI : Row := ⟨.cyc, 0x060, 1, 0x0, 1, 0x0, 0, 0, 32, .rwl, .val 0, false⟩
def CYC_DISPLACED : Row := ⟨.cyc, 0x064, 1, 0x0, 1, 0x0, 0, 0, 32, .ro, .val 0, false⟩

/-! SEQ page fields: spec/ chapter 02. -/

def SEQ_TBL_CTL_LOAD : Row := ⟨.seq, 0x040, 1, 0x0, 1, 0x0, 0, 0, 1, .w1s, .val 0, false⟩
def SEQ_TBL_CTL_ADMIT : Row := ⟨.seq, 0x040, 1, 0x0, 1, 0x0, 0, 1, 1, .w1s, .val 0, false⟩
def SEQ_TBL_CTL_SWAP : Row := ⟨.seq, 0x040, 1, 0x0, 1, 0x0, 0, 2, 1, .w1s, .val 0, false⟩
def SEQ_TBL_CTL_CANCEL : Row := ⟨.seq, 0x040, 1, 0x0, 1, 0x0, 0, 3, 1, .w1s, .val 0, false⟩
def SEQ_TBL_CTL_STOP : Row := ⟨.seq, 0x040, 1, 0x0, 1, 0x0, 0, 4, 1, .w1s, .val 0, false⟩
def SEQ_TBL_CTL_CHECK_ONLY : Row := ⟨.seq, 0x040, 1, 0x0, 1, 0x0, 0, 5, 1, .rw, .val 0, false⟩
def SEQ_TBL_STAT_SEQ_STATE : Row := ⟨.seq, 0x044, 1, 0x0, 1, 0x0, 0, 0, 3, .ro, .val 0, false⟩
def SEQ_TBL_STAT_SHADOW : Row := ⟨.seq, 0x044, 1, 0x0, 1, 0x0, 0, 3, 3, .ro, .val 0, false⟩
def SEQ_TBL_STAT_ISL_PENDING : Row := ⟨.seq, 0x044, 1, 0x0, 1, 0x0, 0, 6, 1, .ro, .val 0, false⟩
def SEQ_TBL_STAT_CORE_PENDING : Row := ⟨.seq, 0x044, 1, 0x0, 1, 0x0, 0, 7, 1, .ro, .val 0, false⟩
def SEQ_TBL_STAT_FB_PENDING : Row := ⟨.seq, 0x044, 1, 0x0, 1, 0x0, 0, 8, 1, .ro, .val 0, false⟩
def SEQ_TBL_STAT_ACTIVE_LEN : Row := ⟨.seq, 0x044, 1, 0x0, 1, 0x0, 0, 16, 13, .ro, .val 0, false⟩
def SEQ_SHADOW_SRC : Row := ⟨.seq, 0x048, 1, 0x0, 1, 0x0, 0, 0, 32, .rw, .val 0, false⟩
def SEQ_SHADOW_LEN : Row := ⟨.seq, 0x04C, 1, 0x0, 1, 0x0, 0, 0, 13, .rw, .val 0, false⟩
def SEQ_ISL_SWAP : Row := ⟨.seq, 0x050, 1, 0x0, 1, 0x0, 0, 0, 2, .w1s, .val 0, false⟩
def SEQ_EPOCH : Row := ⟨.seq, 0x054, 1, 0x0, 1, 0x0, 0, 0, 32, .ro, .val 0, false⟩
def SEQ_FB_SRC : Row := ⟨.seq, 0x060, 4, 0x8, 1, 0x0, 0, 0, 32, .rwl, .val 0, false⟩
def SEQ_FB_STAMP : Row := ⟨.seq, 0x064, 4, 0x8, 1, 0x0, 0, 0, 32, .rwl, .val 0, false⟩
def SEQ_MARK_BASE : Row := ⟨.seq, 0x080, 1, 0x0, 1, 0x0, 0, 0, 32, .rw, .val 0, false⟩
def SEQ_MARK_WR : Row := ⟨.seq, 0x084, 1, 0x0, 1, 0x0, 0, 0, 8, .ro, .val 0, false⟩
def SEQ_OVERRUN : Row := ⟨.seq, 0x088, 1, 0x0, 1, 0x0, 0, 0, 32, .ro, .val 0, false⟩
def SEQ_MISSED : Row := ⟨.seq, 0x08C, 1, 0x0, 1, 0x0, 0, 0, 32, .ro, .val 0, false⟩

/-! ADM page fields: spec/ chapter 02, 07. -/

def ADM_DONE : Row := ⟨.adm, 0x040, 1, 0x0, 1, 0x0, 0, 0, 1, .ro, .val 0, false⟩
def ADM_PASS : Row := ⟨.adm, 0x040, 1, 0x0, 1, 0x0, 0, 1, 1, .ro, .val 0, false⟩
def ADM_CODE : Row := ⟨.adm, 0x040, 1, 0x0, 1, 0x0, 0, 8, 8, .ro, .val 0, false⟩
def ADM_INDEX : Row := ⟨.adm, 0x040, 1, 0x0, 1, 0x0, 0, 16, 12, .ro, .val 0, false⟩
def ADM_STAMP : Row := ⟨.adm, 0x044, 1, 0x0, 1, 0x0, 0, 0, 32, .ro, .val 0, false⟩
def ADM_CFG_GEN : Row := ⟨.adm, 0x048, 1, 0x0, 1, 0x0, 0, 0, 32, .ro, .val 0, false⟩
def ADM_MIN_SLACK : Row := ⟨.adm, 0x04C, 1, 0x0, 1, 0x0, 0, 0, 16, .ro, .val 0, false⟩
def ADM_MIN_INDEX : Row := ⟨.adm, 0x04C, 1, 0x0, 1, 0x0, 0, 16, 12, .ro, .val 0, false⟩
def ADM_OPT_T : Row := ⟨.adm, 0x0A0, 4, 0x4, 1, 0x0, 0, 0, 32, .ro, .val 0, false⟩
def ADM_LRN_CTL_QUIET_ONLY : Row := ⟨.adm, 0x0C0, 1, 0x0, 1, 0x0, 0, 0, 1, .rwl, .val 1, false⟩
def ADM_LS_LS_EXP : Row := ⟨.adm, 0x0C4, 4, 0x8, 1, 0x0, 0, 0, 8, .ro, .val 12, false⟩
def ADM_LS_LS_MIN : Row := ⟨.adm, 0x0C4, 4, 0x8, 1, 0x0, 0, 8, 8, .rwl, .val 192, false⟩
def ADM_LS_LS_MAX : Row := ⟨.adm, 0x0C4, 4, 0x8, 1, 0x0, 0, 16, 8, .rwl, .val 24, false⟩
def ADM_GROWTH_GROWTH : Row := ⟨.adm, 0x0C8, 4, 0x8, 1, 0x0, 0, 0, 16, .rwl, .val 1000, false⟩
def ADM_GROWTH_CLEAN : Row := ⟨.adm, 0x0C8, 4, 0x8, 1, 0x0, 0, 16, 16, .ro, .val 0, false⟩
def ADM_OPT_STAT_SKIP : Row := ⟨.adm, 0x0F0, 1, 0x0, 1, 0x0, 0, 0, 4, .ro, .val 0, false⟩
def ADM_OPT_SKIPS : Row := ⟨.adm, 0x0F4, 1, 0x0, 1, 0x0, 0, 0, 32, .ro, .val 0, false⟩
def ADM_ENV_SKIPS : Row := ⟨.adm, 0x0F8, 1, 0x0, 1, 0x0, 0, 0, 32, .ro, .val 0, false⟩
def ADM_LREG_BASE : Row := ⟨.adm, 0x100, 8, 0x40, 1, 0x0, 0, 0, 32, .rw, .val 0, false⟩
def ADM_LREG_LEN : Row := ⟨.adm, 0x104, 8, 0x40, 1, 0x0, 0, 0, 21, .rw, .val 0, false⟩
def ADM_LREG_CTL_STATE : Row := ⟨.adm, 0x108, 8, 0x40, 1, 0x0, 0, 0, 3, .ro, .val 0, false⟩
def ADM_LREG_CTL_GRP : Row := ⟨.adm, 0x108, 8, 0x40, 1, 0x0, 0, 3, 2, .rw, .val 0, false⟩
def ADM_LREG_CTL_TORN : Row := ⟨.adm, 0x108, 8, 0x40, 1, 0x0, 0, 5, 1, .ro, .val 0, false⟩
def ADM_LREG_CTL_CKPT_BUSY : Row := ⟨.adm, 0x108, 8, 0x40, 1, 0x0, 0, 6, 1, .ro, .val 0, false⟩
def ADM_LREG_CTL_GEN : Row := ⟨.adm, 0x108, 8, 0x40, 1, 0x0, 0, 7, 1, .rw, .val 0, false⟩
def ADM_LREG_CTL_OPEN : Row := ⟨.adm, 0x108, 8, 0x40, 1, 0x0, 0, 8, 1, .w1s, .val 0, false⟩
def ADM_LREG_CTL_FREEZE : Row := ⟨.adm, 0x108, 8, 0x40, 1, 0x0, 0, 9, 1, .w1s, .val 0, false⟩
def ADM_LREG_CTL_RESTORE : Row := ⟨.adm, 0x108, 8, 0x40, 1, 0x0, 0, 10, 1, .w1s, .val 0, false⟩
def ADM_LREG_CTL_OFF : Row := ⟨.adm, 0x108, 8, 0x40, 1, 0x0, 0, 11, 1, .w1s, .val 0, false⟩
def ADM_LREG_CTL_CKPT : Row := ⟨.adm, 0x108, 8, 0x40, 1, 0x0, 0, 12, 1, .w1s, .val 0, false⟩
def ADM_LREG_CTL_LAST_ERR : Row := ⟨.adm, 0x108, 8, 0x40, 1, 0x0, 0, 16, 8, .ro, .val 0, false⟩
def ADM_LREG_CTL_CAUSE : Row := ⟨.adm, 0x108, 8, 0x40, 1, 0x0, 0, 24, 4, .ro, .val 0, false⟩
def ADM_LREG_VET : Row := ⟨.adm, 0x10C, 8, 0x40, 1, 0x0, 0, 0, 32, .wo, .val 0, false⟩
def ADM_LREG_DIGEST : Row := ⟨.adm, 0x110, 8, 0x40, 1, 0x0, 0, 0, 32, .ro, .val 0, false⟩
def ADM_LREG_FORMAT : Row := ⟨.adm, 0x114, 8, 0x40, 1, 0x0, 0, 0, 32, .rw, .val 0, false⟩
def ADM_LREG_BIND_LO : Row := ⟨.adm, 0x118, 8, 0x40, 1, 0x0, 0, 0, 32, .rw, .val 0, false⟩
def ADM_LREG_BIND_HI : Row := ⟨.adm, 0x11C, 8, 0x40, 1, 0x0, 0, 0, 32, .rw, .val 0, false⟩
def ADM_LREG_GEN_CUR : Row := ⟨.adm, 0x120, 8, 0x40, 1, 0x0, 0, 0, 16, .ro, .val 0, true⟩
def ADM_LREG_GEN_PREV : Row := ⟨.adm, 0x120, 8, 0x40, 1, 0x0, 0, 16, 16, .ro, .val 0, true⟩

/-! ING page fields: spec/ chapter 08. -/

def ING_CTL_ENABLE : Row := ⟨.ing, 0x040, 1, 0x0, 1, 0x0, 0, 0, 1, .rw, .val 0, false⟩
def ING_CTL_KIND : Row := ⟨.ing, 0x040, 1, 0x0, 1, 0x0, 0, 1, 2, .rw, .val 0, false⟩
def ING_CTL_LTIME : Row := ⟨.ing, 0x040, 1, 0x0, 1, 0x0, 0, 3, 1, .rw, .val 0, false⟩
def ING_CTL_NEED_SYNC : Row := ⟨.ing, 0x040, 1, 0x0, 1, 0x0, 0, 4, 1, .rw, .val 0, false⟩
def ING_SRC_PORT : Row := ⟨.ing, 0x044, 1, 0x0, 1, 0x0, 0, 0, 4, .rw, .val 0, false⟩
def ING_SRC_VC : Row := ⟨.ing, 0x044, 1, 0x0, 1, 0x0, 0, 4, 4, .rw, .val 0, false⟩
def ING_SRC_DT : Row := ⟨.ing, 0x044, 1, 0x0, 1, 0x0, 0, 8, 6, .rw, .val 0, false⟩
def ING_SRC_PX : Row := ⟨.ing, 0x044, 1, 0x0, 1, 0x0, 0, 16, 3, .rw, .val 0, false⟩
def ING_SRC_PY : Row := ⟨.ing, 0x044, 1, 0x0, 1, 0x0, 0, 19, 1, .rw, .val 0, false⟩
def ING_SRC_LAYOUT : Row := ⟨.ing, 0x044, 1, 0x0, 1, 0x0, 0, 20, 1, .rw, .val 0, false⟩
def ING_SRC_FMT : Row := ⟨.ing, 0x044, 1, 0x0, 1, 0x0, 0, 24, 4, .rw, .val 5, false⟩
def ING_BLACK : Row := ⟨.ing, 0x04C, 1, 0x0, 1, 0x0, 0, 0, 16, .rw, .val 0, false⟩
def ING_GAIN : Row := ⟨.ing, 0x050, 1, 0x0, 1, 0x0, 0, 0, 32, .rw, .val 1065353216, false⟩
def ING_LINE_MAX : Row := ⟨.ing, 0x054, 1, 0x0, 1, 0x0, 0, 0, 32, .rw, .val 0, false⟩
def ING_BUF_BASE : Row := ⟨.ing, 0x058, 1, 0x0, 1, 0x0, 0, 0, 32, .rw, .val 0, false⟩
def ING_BUF_LEN : Row := ⟨.ing, 0x05C, 1, 0x0, 1, 0x0, 0, 0, 32, .rw, .val 0, false⟩
def ING_SIDE_BASE : Row := ⟨.ing, 0x060, 1, 0x0, 1, 0x0, 0, 0, 32, .rw, .val 0, false⟩
def ING_FS_LATE : Row := ⟨.ing, 0x064, 1, 0x0, 1, 0x0, 0, 0, 16, .rw, .val 8192, false⟩
def ING_FLAT_N : Row := ⟨.ing, 0x064, 1, 0x0, 1, 0x0, 0, 28, 4, .rw, .val 8, false⟩
def ING_FLAT_THR : Row := ⟨.ing, 0x068, 1, 0x0, 1, 0x0, 0, 0, 16, .rw, .val 16, false⟩
def ING_EARLY_N : Row := ⟨.ing, 0x068, 1, 0x0, 1, 0x0, 0, 16, 8, .rw, .val 16, false⟩
def ING_TS_BAD_N : Row := ⟨.ing, 0x068, 1, 0x0, 1, 0x0, 0, 24, 8, .rw, .val 4, false⟩
def ING_FILTER_ETHERTYPE : Row := ⟨.ing, 0x06C, 1, 0x0, 1, 0x0, 0, 0, 16, .rw, .val 0, false⟩
def ING_FILTER_VLAN_ID : Row := ⟨.ing, 0x06C, 1, 0x0, 1, 0x0, 0, 16, 12, .rw, .val 0, false⟩
def ING_UDP_PORT : Row := ⟨.ing, 0x070, 1, 0x0, 1, 0x0, 0, 0, 16, .rw, .val 0, false⟩
def ING_BLKPKT : Row := ⟨.ing, 0x070, 1, 0x0, 1, 0x0, 0, 16, 8, .rw, .val 1, false⟩
def ING_TS_TS_OFF : Row := ⟨.ing, 0x074, 1, 0x0, 1, 0x0, 0, 0, 12, .rw, .val 0, false⟩
def ING_TS_TS_FMT : Row := ⟨.ing, 0x074, 1, 0x0, 1, 0x0, 0, 12, 2, .rw, .val 0, false⟩
def ING_TS_TS_TOL : Row := ⟨.ing, 0x074, 1, 0x0, 1, 0x0, 0, 16, 16, .rw, .val 1000, false⟩
def ING_STAT_HEALTH : Row := ⟨.ing, 0x080, 1, 0x0, 1, 0x0, 0, 0, 3, .ro, .val 0, false⟩
def ING_STAT_USABLE : Row := ⟨.ing, 0x080, 1, 0x0, 1, 0x0, 0, 3, 1, .ro, .val 0, false⟩
def ING_STAT_BAR_HEALTH : Row := ⟨.ing, 0x080, 1, 0x0, 1, 0x0, 0, 4, 3, .ro, .val 0, false⟩
def ING_STAT_BAR_USABLE : Row := ⟨.ing, 0x080, 1, 0x0, 1, 0x0, 0, 7, 1, .ro, .val 0, false⟩
def ING_STAT_POS : Row := ⟨.ing, 0x080, 1, 0x0, 1, 0x0, 0, 16, 16, .ro, .val 65535, false⟩
def ING_FRAME_VERDICT : Row := ⟨.ing, 0x084, 1, 0x0, 1, 0x0, 0, 0, 3, .ro, .val 0, false⟩
def ING_FRAME_FN : Row := ⟨.ing, 0x084, 1, 0x0, 1, 0x0, 0, 16, 16, .ro, .val 0, false⟩
def ING_FRAMES : Row := ⟨.ing, 0x088, 1, 0x0, 1, 0x0, 0, 0, 32, .ro, .val 0, false⟩
def ING_PKT_ERR : Row := ⟨.ing, 0x08C, 1, 0x0, 1, 0x0, 0, 0, 32, .ro, .val 0, false⟩
def ING_LINE_SLOW : Row := ⟨.ing, 0x090, 1, 0x0, 1, 0x0, 0, 0, 32, .ro, .val 0, false⟩
def ING_DROPPED : Row := ⟨.ing, 0x094, 1, 0x0, 1, 0x0, 0, 0, 32, .ro, .val 0, false⟩
def ING_REPEATS : Row := ⟨.ing, 0x098, 1, 0x0, 1, 0x0, 0, 0, 32, .ro, .val 0, false⟩
def ING_TS_BAD : Row := ⟨.ing, 0x09C, 1, 0x0, 1, 0x0, 0, 0, 32, .ro, .val 0, false⟩
def ING_FN_SKIPS : Row := ⟨.ing, 0x0A0, 1, 0x0, 1, 0x0, 0, 0, 32, .ro, .val 0, false⟩
def ING_HEALTH_LIVE : Row := ⟨.ing, 0x0C0, 1, 0x0, 1, 0x0, 0, 0, 24, .ro, .val 0, false⟩
def ING_HEALTH_BAR : Row := ⟨.ing, 0x0C4, 1, 0x0, 1, 0x0, 0, 0, 24, .ro, .val 0, false⟩
def ING_HEALTH_BARNO : Row := ⟨.ing, 0x0C8, 1, 0x0, 1, 0x0, 0, 0, 32, .ro, .val 0, false⟩
def ING_GEOM_WIDTH : Row := ⟨.ing, 0x048, 1, 0x0, 1, 0x0, 0, 0, 16, .rw, .val 0, false⟩
def ING_GEOM_HEIGHT : Row := ⟨.ing, 0x048, 1, 0x0, 1, 0x0, 0, 16, 16, .rw, .val 0, false⟩
def ING_LOSS_N : Row := ⟨.ing, 0x064, 1, 0x0, 1, 0x0, 0, 16, 4, .rw, .val 3, false⟩
def ING_RECOVER_N : Row := ⟨.ing, 0x064, 1, 0x0, 1, 0x0, 0, 20, 4, .rw, .val 4, false⟩
def ING_FRZ_N : Row := ⟨.ing, 0x064, 1, 0x0, 1, 0x0, 0, 24, 4, .rw, .val 2, false⟩
def ING_FILTER_VLAN_EN : Row := ⟨.ing, 0x06C, 1, 0x0, 1, 0x0, 0, 28, 1, .rw, .val 0, false⟩
def ING_FILTER_UDP_EN : Row := ⟨.ing, 0x06C, 1, 0x0, 1, 0x0, 0, 29, 1, .rw, .val 0, false⟩

/-! ALN page fields: spec/ chapter 09. -/

def ALN_CTL_TC_SRC : Row := ⟨.aln, 0x040, 1, 0x0, 1, 0x0, 0, 0, 1, .rwl, .val 0, false⟩
def ALN_CTL_REF_STREAM : Row := ⟨.aln, 0x040, 1, 0x0, 1, 0x0, 0, 1, 5, .rwl, .val 0, false⟩
def ALN_TC_OFF : Row := ⟨.aln, 0x044, 1, 0x0, 1, 0x0, 0, 0, 32, .rwl, .val 0, false⟩
def ALN_DESKEW_MAX : Row := ⟨.aln, 0x048, 1, 0x0, 1, 0x0, 0, 0, 16, .rwl, .val 100, false⟩
def ALN_EXT_MAX : Row := ⟨.aln, 0x048, 1, 0x0, 1, 0x0, 0, 16, 16, .rwl, .val 50, false⟩
def ALN_PT_MAX : Row := ⟨.aln, 0x04C, 1, 0x0, 1, 0x0, 0, 0, 19, .rwl, .val 262144, false⟩
def ALN_PT_DROP : Row := ⟨.aln, 0x050, 1, 0x0, 1, 0x0, 0, 0, 32, .ro, .val 0, false⟩
def ALN_TIMEOUTS : Row := ⟨.aln, 0x054, 1, 0x0, 1, 0x0, 0, 0, 32, .ro, .val 0, false⟩
def ALN_SLOT_STREAM : Row := ⟨.aln, 0x080, 16, 0x10, 1, 0x0, 0, 0, 5, .rwl, .val 0, false⟩
def ALN_SLOT_KIND : Row := ⟨.aln, 0x080, 16, 0x10, 1, 0x0, 0, 5, 1, .rwl, .val 0, false⟩
def ALN_SLOT_FRAME : Row := ⟨.aln, 0x080, 16, 0x10, 1, 0x0, 0, 6, 4, .rwl, .val 0, false⟩
def ALN_SLOT_WAIT : Row := ⟨.aln, 0x080, 16, 0x10, 1, 0x0, 0, 10, 1, .rwl, .val 0, false⟩
def ALN_SLOT_NCH : Row := ⟨.aln, 0x080, 16, 0x10, 1, 0x0, 0, 11, 3, .rwl, .val 0, false⟩
def ALN_SLOT_NEED : Row := ⟨.aln, 0x080, 16, 0x10, 1, 0x0, 0, 16, 16, .rwl, .val 0, false⟩
def ALN_SLOT_PAY_OFF : Row := ⟨.aln, 0x084, 16, 0x10, 1, 0x0, 0, 0, 12, .rwl, .val 0, false⟩
def ALN_SLOT_PSCALE : Row := ⟨.aln, 0x088, 16, 0x10, 1, 0x0, 0, 0, 32, .rwl, .val 1008981770, false⟩
def ALN_COV_SECTORS : Row := ⟨.aln, 0x180, 24, 0x4, 1, 0x0, 0, 0, 8, .rwl, .val 0, false⟩
def ALN_COV_MOD : Row := ⟨.aln, 0x180, 24, 0x4, 1, 0x0, 0, 8, 2, .rwl, .val 0, false⟩
def ALN_DEG_STEP : Row := ⟨.aln, 0x1E0, 1, 0x0, 1, 0x0, 0, 0, 3, .ro, .val 4, false⟩
def ALN_DEG_RAW : Row := ⟨.aln, 0x1E0, 1, 0x0, 1, 0x0, 0, 4, 3, .ro, .val 4, false⟩
def ALN_DEG_UP_N : Row := ⟨.aln, 0x1E0, 1, 0x0, 1, 0x0, 0, 8, 4, .rwl, .val 8, false⟩

/-! PRJ page fields: spec/ chapter 09. -/

def PRJ_CAM_STREAM : Row := ⟨.prj, 0x550, 16, 0x80, 1, 0x0, 0, 0, 5, .rwl, .val 0, false⟩
def PRJ_CAM_DIV : Row := ⟨.prj, 0x550, 16, 0x80, 1, 0x0, 0, 5, 7, .rwl, .val 8, false⟩
def PRJ_CAM_OUT : Row := ⟨.prj, 0x554, 16, 0x80, 1, 0x0, 0, 0, 32, .rwl, .val 0, false⟩
def PRJ_F : Row := ⟨.prj, 0x100, 16, 0x40, 12, 0x4, 0, 0, 32, .rwl, .val 0, false⟩
def PRJ_CAM_M : Row := ⟨.prj, 0x500, 16, 0x80, 12, 0x4, 0, 0, 32, .rwl, .val 0, false⟩
def PRJ_CAM_K : Row := ⟨.prj, 0x530, 16, 0x80, 8, 0x4, 0, 0, 32, .rwl, .val 0, false⟩

/-! EGO page fields: spec/ chapter 09. -/

def EGO_NP : Row := ⟨.ego, 0x04C, 1, 0x0, 1, 0x0, 0, 0, 15, .rwl, .val 16384, false⟩
def EGO_RMAX : Row := ⟨.ego, 0x054, 1, 0x0, 1, 0x0, 0, 0, 32, .rwl, .val 1112014848, false⟩
def EGO_FAIL_N : Row := ⟨.ego, 0x058, 1, 0x0, 1, 0x0, 0, 24, 4, .rwl, .val 4, false⟩
def EGO_PRED : Row := ⟨.ego, 0x05C, 1, 0x0, 1, 0x0, 0, 0, 4, .rwl, .val 0, false⟩
def EGO_PRED_EN : Row := ⟨.ego, 0x05C, 1, 0x0, 1, 0x0, 0, 4, 1, .rwl, .val 0, false⟩
def EGO_REF_MIN : Row := ⟨.ego, 0x060, 1, 0x0, 1, 0x0, 0, 0, 18, .rwl, .val 1024, false⟩
def EGO_STATUS : Row := ⟨.ego, 0x080, 1, 0x0, 1, 0x0, 0, 0, 2, .ro, .val 0, false⟩
def EGO_FAIL_RUN : Row := ⟨.ego, 0x080, 1, 0x0, 1, 0x0, 0, 8, 4, .ro, .val 0, false⟩
def EGO_FAILS : Row := ⟨.ego, 0x09C, 1, 0x0, 1, 0x0, 0, 0, 32, .ro, .val 0, false⟩
def EGO_NT : Row := ⟨.ego, 0x040, 1, 0x0, 1, 0x0, 0, 0, 4, .rwl, .val 7, false⟩
def EGO_NR : Row := ⟨.ego, 0x040, 1, 0x0, 1, 0x0, 0, 4, 4, .rwl, .val 7, false⟩
def EGO_STEP_T : Row := ⟨.ego, 0x044, 1, 0x0, 1, 0x0, 0, 0, 32, .rwl, .val 1028443341, false⟩
def EGO_STEP_R : Row := ⟨.ego, 0x048, 1, 0x0, 1, 0x0, 0, 0, 32, .rwl, .val 981668463, false⟩
def EGO_ZLO : Row := ⟨.ego, 0x050, 1, 0x0, 1, 0x0, 0, 0, 16, .rwl, .val 16000, false⟩
def EGO_ZHI : Row := ⟨.ego, 0x050, 1, 0x0, 1, 0x0, 0, 16, 16, .rwl, .val 16384, false⟩
def EGO_SCORE_MIN : Row := ⟨.ego, 0x058, 1, 0x0, 1, 0x0, 0, 0, 8, .rwl, .val 64, false⟩
def EGO_DECAY : Row := ⟨.ego, 0x058, 1, 0x0, 1, 0x0, 0, 8, 8, .rwl, .val 16, false⟩
def EGO_HIT : Row := ⟨.ego, 0x058, 1, 0x0, 1, 0x0, 0, 16, 8, .rwl, .val 64, false⟩
def EGO_SPD_CH : Row := ⟨.ego, 0x05C, 1, 0x0, 1, 0x0, 0, 5, 3, .rwl, .val 0, false⟩
def EGO_YAW_CH : Row := ⟨.ego, 0x05C, 1, 0x0, 1, 0x0, 0, 8, 3, .rwl, .val 1, false⟩
def EGO_MOTION : Row := ⟨.ego, 0x084, 6, 0x4, 1, 0x0, 0, 0, 32, .ro, .val 0, false⟩

/-! GRD page fields: spec/ chapter 09. -/

def GRD_NZ : Row := ⟨.grd, 0x048, 1, 0x0, 1, 0x0, 0, 0, 4, .rwl, .val 4, false⟩
def GRD_CF : Row := ⟨.grd, 0x048, 1, 0x0, 1, 0x0, 0, 4, 6, .rwl, .val 32, false⟩
def GRD_LAYOUT : Row := ⟨.grd, 0x048, 1, 0x0, 1, 0x0, 0, 10, 1, .rwl, .val 1, false⟩
def GRD_FMT : Row := ⟨.grd, 0x048, 1, 0x0, 1, 0x0, 0, 11, 4, .rwl, .val 0, false⟩
def GRD_WB : Row := ⟨.grd, 0x060, 8, 0x4, 1, 0x0, 0, 0, 32, .rwl, .val 1065353216, false⟩
def GRD_FEAT : Row := ⟨.grd, 0x080, 16, 0x8, 1, 0x0, 0, 0, 32, .rwl, .val 0, false⟩
def GRD_STRIDE : Row := ⟨.grd, 0x084, 16, 0x8, 1, 0x0, 0, 0, 6, .rwl, .val 8, false⟩
def GRD_SCALE : Row := ⟨.grd, 0x100, 64, 0x4, 1, 0x0, 0, 0, 32, .rwl, .val 1065353216, false⟩
def GRD_X0 : Row := ⟨.grd, 0x040, 1, 0x0, 1, 0x0, 0, 0, 32, .rwl, .val 3259813069, false⟩
def GRD_Y0 : Row := ⟨.grd, 0x044, 1, 0x0, 1, 0x0, 0, 0, 32, .rwl, .val 3259813069, false⟩
def GRD_ZB0 : Row := ⟨.grd, 0x04C, 1, 0x0, 1, 0x0, 0, 0, 32, .rwl, .val 0, false⟩
def GRD_ZSTEP : Row := ⟨.grd, 0x050, 1, 0x0, 1, 0x0, 0, 0, 32, .rwl, .val 1065353216, false⟩

/-! ASG page fields: spec/ chapter 09. -/

def ASG_CTL_U_COST : Row := ⟨.asg, 0x040, 1, 0x0, 1, 0x0, 0, 0, 16, .rwl, .val 2304, false⟩
def ASG_CTL_AGN : Row := ⟨.asg, 0x040, 1, 0x0, 1, 0x0, 0, 16, 1, .rwl, .val 0, false⟩
def ASG_RDET : Row := ⟨.asg, 0x044, 1, 0x0, 1, 0x0, 0, 0, 32, .rwl, .val 1048576000, false⟩
def ASG_CMAX : Row := ⟨.asg, 0x048, 1, 0x0, 1, 0x0, 0, 0, 8, .rwl, .val 128, false⟩
def ASG_MAX_DET : Row := ⟨.asg, 0x04C, 1, 0x0, 1, 0x0, 0, 0, 12, .rwl, .val 2048, false⟩
def ASG_EDGES : Row := ⟨.asg, 0x080, 1, 0x0, 1, 0x0, 0, 0, 18, .ro, .val 0, false⟩
def ASG_GATE_TRUNC : Row := ⟨.asg, 0x084, 1, 0x0, 1, 0x0, 0, 0, 32, .ro, .val 0, false⟩
def ASG_GREEDY_COMP : Row := ⟨.asg, 0x088, 1, 0x0, 1, 0x0, 0, 0, 32, .ro, .val 0, false⟩

/-! TRK page fields: spec/ chapter 09. -/

def TRK_CTL_EMIT_TENT : Row := ⟨.trk, 0x040, 1, 0x0, 1, 0x0, 0, 0, 1, .rwl, .val 0, false⟩
def TRK_CTL_OWNER : Row := ⟨.trk, 0x040, 1, 0x0, 1, 0x0, 0, 8, 4, .rwl, .val 0, false⟩
def TRK_CAP : Row := ⟨.trk, 0x044, 1, 0x0, 1, 0x0, 0, 0, 12, .rwl, .val 2048, false⟩
def TRK_BIRTH_THR : Row := ⟨.trk, 0x06C, 1, 0x0, 1, 0x0, 0, 16, 16, .rwl, .val 16128, false⟩
def TRK_DECAY : Row := ⟨.trk, 0x070, 1, 0x0, 1, 0x0, 0, 0, 32, .rwl, .val 1063675494, false⟩
def TRK_NEXT_ID : Row := ⟨.trk, 0x074, 1, 0x0, 1, 0x0, 0, 0, 32, .ro, .val 1, false⟩
def TRK_LIVE : Row := ⟨.trk, 0x078, 1, 0x0, 1, 0x0, 0, 0, 12, .ro, .val 0, false⟩
def TRK_ALPHA : Row := ⟨.trk, 0x048, 1, 0x0, 1, 0x0, 0, 0, 32, .rwl, .val 1056964608, false⟩
def TRK_BETA : Row := ⟨.trk, 0x04C, 1, 0x0, 1, 0x0, 0, 0, 32, .rwl, .val 1048576000, false⟩
def TRK_GAMMA : Row := ⟨.trk, 0x050, 1, 0x0, 1, 0x0, 0, 0, 32, .rwl, .val 1048576000, false⟩
def TRK_GV : Row := ⟨.trk, 0x054, 1, 0x0, 1, 0x0, 0, 0, 32, .rwl, .val 1040187392, false⟩
def TRK_QP : Row := ⟨.trk, 0x058, 1, 0x0, 1, 0x0, 0, 0, 32, .rwl, .val 1008981770, false⟩
def TRK_QV : Row := ⟨.trk, 0x05C, 1, 0x0, 1, 0x0, 0, 0, 32, .rwl, .val 1065353216, false⟩
def TRK_S0 : Row := ⟨.trk, 0x060, 1, 0x0, 1, 0x0, 0, 0, 32, .rwl, .val 1065353216, false⟩
def TRK_SMIN : Row := ⟨.trk, 0x064, 1, 0x0, 1, 0x0, 0, 0, 32, .rwl, .val 1036831949, false⟩
def TRK_SIG_MAX : Row := ⟨.trk, 0x068, 1, 0x0, 1, 0x0, 0, 0, 32, .rwl, .val 1084227584, false⟩
def TRK_CONF_M : Row := ⟨.trk, 0x06C, 1, 0x0, 1, 0x0, 0, 0, 4, .rwl, .val 3, false⟩
def TRK_CONF_N : Row := ⟨.trk, 0x06C, 1, 0x0, 1, 0x0, 0, 4, 4, .rwl, .val 5, false⟩
def TRK_TENT_MISS : Row := ⟨.trk, 0x06C, 1, 0x0, 1, 0x0, 0, 8, 4, .rwl, .val 2, false⟩
def TRK_MISS_MAX : Row := ⟨.trk, 0x06C, 1, 0x0, 1, 0x0, 0, 12, 4, .rwl, .val 5, false⟩
def TRK_FULL : Row := ⟨.trk, 0x07C, 1, 0x0, 1, 0x0, 0, 0, 32, .ro, .val 0, false⟩
def TRK_FLUSHES : Row := ⟨.trk, 0x080, 1, 0x0, 1, 0x0, 0, 0, 32, .ro, .val 0, false⟩

/-! PPU page fields: spec/ chapter 06. -/

def PPU_STAT_BUSY : Row := ⟨.ppu, 0x040, 1, 0x0, 1, 0x0, 0, 0, 1, .ro, .val 0, false⟩
def PPU_STAT_JOB : Row := ⟨.ppu, 0x040, 1, 0x0, 1, 0x0, 0, 8, 6, .ro, .val 0, false⟩
def PPU_LAST_CAND : Row := ⟨.ppu, 0x044, 1, 0x0, 1, 0x0, 0, 0, 16, .ro, .val 0, false⟩
def PPU_LAST_KEPT : Row := ⟨.ppu, 0x044, 1, 0x0, 1, 0x0, 0, 16, 12, .ro, .val 0, false⟩
def PPU_JOBS : Row := ⟨.ppu, 0x048, 1, 0x0, 1, 0x0, 0, 0, 32, .ro, .val 0, false⟩
def PPU_CAPPED : Row := ⟨.ppu, 0x04C, 1, 0x0, 1, 0x0, 0, 0, 32, .ro, .val 0, false⟩
def PPU_TRUNC : Row := ⟨.ppu, 0x050, 1, 0x0, 1, 0x0, 0, 0, 32, .ro, .val 0, false⟩
def PPU_NONFINITE : Row := ⟨.ppu, 0x054, 1, 0x0, 1, 0x0, 0, 0, 32, .ro, .val 0, false⟩
def PPU_FAILED : Row := ⟨.ppu, 0x058, 1, 0x0, 1, 0x0, 0, 0, 32, .ro, .val 0, false⟩

/-! COL page fields: spec/ chapter 09, 17. -/

def COL_TXQ_MACS : Row := ⟨.col, 0x040, 1, 0x0, 1, 0x0, 0, 0, 8, .rwl, .val 0, false⟩
def COL_TXQ_QUEUE : Row := ⟨.col, 0x040, 1, 0x0, 1, 0x0, 0, 8, 3, .rwl, .val 0, false⟩
def COL_TXQ_REC_PER_FRAME : Row := ⟨.col, 0x040, 1, 0x0, 1, 0x0, 0, 16, 7, .rwl, .val 22, false⟩
def COL_STALE : Row := ⟨.col, 0x064, 1, 0x0, 1, 0x0, 0, 0, 32, .ro, .val 0, false⟩
def COL_Q_STALL : Row := ⟨.col, 0x068, 1, 0x0, 1, 0x0, 0, 0, 32, .ro, .val 0, false⟩
def COL_DST_MAC_LO : Row := ⟨.col, 0x044, 1, 0x0, 1, 0x0, 0, 0, 32, .rwl, .val 0, false⟩
def COL_DST_MAC_HI : Row := ⟨.col, 0x048, 1, 0x0, 1, 0x0, 0, 0, 16, .rwl, .val 0, false⟩
def COL_VLAN_ID : Row := ⟨.col, 0x04C, 1, 0x0, 1, 0x0, 0, 0, 12, .rwl, .val 0, false⟩
def COL_VLAN_EN : Row := ⟨.col, 0x04C, 1, 0x0, 1, 0x0, 0, 12, 1, .rwl, .val 0, false⟩
def COL_SRC_IP : Row := ⟨.col, 0x050, 1, 0x0, 1, 0x0, 0, 0, 32, .rwl, .val 0, false⟩
def COL_DST_IP : Row := ⟨.col, 0x054, 1, 0x0, 1, 0x0, 0, 0, 32, .rwl, .val 0, false⟩
def COL_SRC_PORT : Row := ⟨.col, 0x058, 1, 0x0, 1, 0x0, 0, 0, 16, .rwl, .val 0, false⟩
def COL_DST_PORT : Row := ⟨.col, 0x058, 1, 0x0, 1, 0x0, 0, 16, 16, .rwl, .val 0, false⟩
def COL_BATCHES : Row := ⟨.col, 0x05C, 1, 0x0, 1, 0x0, 0, 0, 32, .ro, .val 0, false⟩
def COL_INVALID : Row := ⟨.col, 0x060, 1, 0x0, 1, 0x0, 0, 0, 32, .ro, .val 0, false⟩

/-! PRT page fields: spec/ chapter 10. -/

def PRT_CTL_ENABLE : Row := ⟨.prt, 0x100, 16, 0x80, 1, 0x0, 0, 0, 1, .rw, .val 0, false⟩
def PRT_CTL_RESET : Row := ⟨.prt, 0x100, 16, 0x80, 1, 0x0, 0, 1, 1, .w1s, .val 0, false⟩
def PRT_CTL_HOLD : Row := ⟨.prt, 0x100, 16, 0x80, 1, 0x0, 0, 2, 1, .rw, .val 0, false⟩
def PRT_CTL_REJOIN_N : Row := ⟨.prt, 0x100, 16, 0x80, 1, 0x0, 0, 4, 4, .rw, .val 0, false⟩
def PRT_CTL_CLASS : Row := ⟨.prt, 0x100, 16, 0x80, 1, 0x0, 0, 8, 4, .rw, .val 8, false⟩
def PRT_CTL_OVR_LIMIT : Row := ⟨.prt, 0x100, 16, 0x80, 1, 0x0, 0, 12, 4, .rw, .val 0, false⟩
def PRT_STAT_STATE : Row := ⟨.prt, 0x104, 16, 0x80, 1, 0x0, 0, 0, 2, .ro, .val 0, false⟩
def PRT_STAT_CAUSE : Row := ⟨.prt, 0x104, 16, 0x80, 1, 0x0, 0, 4, 3, .ro, .val 0, false⟩
def PRT_STAT_RESETS : Row := ⟨.prt, 0x104, 16, 0x80, 1, 0x0, 0, 16, 16, .ro, .val 0, false⟩
def PRT_QUOTA : Row := ⟨.prt, 0x108, 16, 0x80, 1, 0x0, 0, 0, 32, .rw, .val 0, false⟩
def PRT_REQ_DL : Row := ⟨.prt, 0x10C, 16, 0x80, 1, 0x0, 0, 0, 16, .rw, .val 1024, false⟩
def PRT_OVERRUN : Row := ⟨.prt, 0x110, 16, 0x80, 1, 0x0, 0, 0, 32, .ro, .val 0, false⟩
def PRT_MISSED : Row := ⟨.prt, 0x114, 16, 0x80, 1, 0x0, 0, 0, 32, .ro, .val 0, false⟩
def PRT_ISL_RESET : Row := ⟨.prt, 0x118, 16, 0x80, 1, 0x0, 0, 0, 1, .wo, .val 0, false⟩
def PRT_WIN_BASE : Row := ⟨.prt, 0x140, 16, 0x80, 8, 0x8, 0, 0, 26, .rw, .val 0, false⟩
def PRT_WIN_LEN : Row := ⟨.prt, 0x144, 16, 0x80, 8, 0x8, 0, 0, 26, .rw, .val 0, false⟩
def PRT_WIN_WR : Row := ⟨.prt, 0x144, 16, 0x80, 8, 0x8, 0, 30, 1, .rw, .val 0, false⟩
def PRT_WIN_VALID : Row := ⟨.prt, 0x144, 16, 0x80, 8, 0x8, 0, 31, 1, .rw, .val 0, false⟩

/-! ACCT page fields: spec/ chapter 10. -/

def ACCT_CTL_MODE : Row := ⟨.acct, 0x040, 1, 0x0, 1, 0x0, 0, 0, 1, .rw, .val 0, false⟩
def ACCT_SEL_PART : Row := ⟨.acct, 0x044, 1, 0x0, 1, 0x0, 0, 0, 4, .rw, .val 0, false⟩
def ACCT_SEL_VIEW : Row := ⟨.acct, 0x044, 1, 0x0, 1, 0x0, 0, 8, 1, .rw, .val 0, false⟩
def ACCT_OVERRUNS : Row := ⟨.acct, 0x090, 1, 0x0, 1, 0x0, 0, 0, 32, .ro, .val 0, false⟩
def ACCT_RESETS : Row := ⟨.acct, 0x094, 1, 0x0, 1, 0x0, 0, 0, 32, .ro, .val 0, false⟩
def ACCT_V_REF : Row := ⟨.acct, 0x210, 1, 0x0, 1, 0x0, 0, 0, 32, .rwl, .val 0x3F800000, true⟩
def ACCT_ENG_NS_LO : Row := ⟨.acct, 0x050, 1, 0x0, 1, 0x0, 0, 0, 32, .ro, .val 0, false⟩
def ACCT_ENG_NS_HI : Row := ⟨.acct, 0x054, 1, 0x0, 1, 0x0, 0, 0, 32, .ro, .val 0, false⟩
def ACCT_BRUSH_NS_LO : Row := ⟨.acct, 0x058, 1, 0x0, 1, 0x0, 0, 0, 32, .ro, .val 0, false⟩
def ACCT_BRUSH_NS_HI : Row := ⟨.acct, 0x05C, 1, 0x0, 1, 0x0, 0, 0, 32, .ro, .val 0, false⟩
def ACCT_STACK_LO : Row := ⟨.acct, 0x060, 4, 0x8, 1, 0x0, 0, 0, 32, .ro, .val 0, false⟩
def ACCT_STACK_HI : Row := ⟨.acct, 0x064, 4, 0x8, 1, 0x0, 0, 0, 32, .ro, .val 0, false⟩
def ACCT_POOL_LO : Row := ⟨.acct, 0x080, 1, 0x0, 1, 0x0, 0, 0, 32, .ro, .val 0, false⟩
def ACCT_POOL_HI : Row := ⟨.acct, 0x084, 1, 0x0, 1, 0x0, 0, 0, 32, .ro, .val 0, false⟩
def ACCT_ENERGY_UJ_LO : Row := ⟨.acct, 0x088, 1, 0x0, 1, 0x0, 0, 0, 32, .ro, .val 0, false⟩
def ACCT_ENERGY_UJ_HI : Row := ⟨.acct, 0x08C, 1, 0x0, 1, 0x0, 0, 0, 32, .ro, .val 0, false⟩
def ACCT_MBYTES_LO : Row := ⟨.acct, 0x100, 32, 0x8, 1, 0x0, 0, 0, 32, .ro, .val 0, false⟩
def ACCT_MBYTES_HI : Row := ⟨.acct, 0x104, 32, 0x8, 1, 0x0, 0, 0, 32, .ro, .val 0, false⟩
def ACCT_K : Row := ⟨.acct, 0x200, 4, 0x4, 1, 0x0, 0, 0, 32, .rwl, .val 0, true⟩

/-! BWREG page fields: spec/ chapter 10. -/

def BWREG_CTL_COMMIT : Row := ⟨.bwreg, 0x040, 1, 0x0, 1, 0x0, 0, 0, 1, .w1s, .val 0, false⟩
def BWREG_CTL_L1_CLASS : Row := ⟨.bwreg, 0x040, 1, 0x0, 1, 0x0, 0, 8, 4, .rw, .val 7, false⟩
def BWREG_STAT_COMMIT : Row := ⟨.bwreg, 0x044, 1, 0x0, 1, 0x0, 0, 0, 2, .ro, .val 0, false⟩
def BWREG_STAT_FAIL_STACK : Row := ⟨.bwreg, 0x044, 1, 0x0, 1, 0x0, 0, 4, 2, .ro, .val 0, false⟩
def BWREG_RATE : Row := ⟨.bwreg, 0x048, 4, 0x4, 1, 0x0, 0, 0, 16, .ro, .val 0, false⟩
def BWREG_M_WIN : Row := ⟨.bwreg, 0x100, 32, 0x40, 1, 0x0, 0, 0, 3, .rw, .val 3, false⟩
def BWREG_M_CLASS : Row := ⟨.bwreg, 0x100, 32, 0x40, 1, 0x0, 16, 4, 4, .rw, .val 8, false⟩
def BWREG_M_DL : Row := ⟨.bwreg, 0x100, 32, 0x40, 1, 0x0, 16, 16, 16, .rw, .val 1024, false⟩
def BWREG_M_MIN : Row := ⟨.bwreg, 0x104, 32, 0x40, 4, 0x8, 0, 0, 24, .rw, .val 0, false⟩
def BWREG_M_MAX : Row := ⟨.bwreg, 0x108, 32, 0x40, 4, 0x8, 0, 0, 24, .rw, .val 16777215, false⟩
def BWREG_M_USED : Row := ⟨.bwreg, 0x124, 32, 0x40, 4, 0x4, 0, 0, 24, .ro, .val 0, false⟩
def BWREG_M_HELD : Row := ⟨.bwreg, 0x134, 32, 0x40, 1, 0x0, 0, 0, 32, .ro, .val 0, false⟩
def BWREG_MP_CLASS : Row := ⟨.bwreg, 0x100, 16, 0x40, 1, 0x0, 0, 4, 4, .ro, .val 8, false⟩

/-! MBX page fields: spec/ chapter 11. -/

def MBX_ROUTE_SENDER : Row := ⟨.mbx, 0x040, 62, 0x4, 1, 0x0, 0, 0, 4, .rwl, .val 15, false⟩
def MBX_ROUTE_RECEIVER : Row := ⟨.mbx, 0x040, 62, 0x4, 1, 0x0, 0, 4, 4, .rwl, .val 15, false⟩
def MBX_WARN_LEVEL : Row := ⟨.mbx, 0x250, 1, 0x0, 1, 0x0, 0, 0, 7, .ro, .val 0, false⟩
def MBX_WARN_LOST : Row := ⟨.mbx, 0x254, 1, 0x0, 1, 0x0, 0, 0, 32, .ro, .val 0, false⟩
def MBX_OVW : Row := ⟨.mbx, 0x300, 64, 0x4, 1, 0x0, 0, 0, 32, .ro, .val 0, false⟩
def MBX_DATA : Row := ⟨.mbx, 0x140, 64, 0x4, 1, 0x0, 0, 0, 32, .chan, .val 0, false⟩
def MBX_FULL : Row := ⟨.mbx, 0x240, 2, 0x4, 1, 0x0, 0, 0, 32, .ro, .val 0, false⟩
def MBX_FREE_PEND : Row := ⟨.mbx, 0x248, 2, 0x4, 1, 0x0, 0, 0, 32, .w1c, .val 0, false⟩
def MBX_WROUTE_SENDER : Row := ⟨.mbx, 0x138, 2, 0x4, 1, 0x0, 0, 0, 4, .ro, .val 11, false⟩
def MBX_WROUTE_RECEIVER : Row := ⟨.mbx, 0x138, 2, 0x4, 1, 0x0, 0, 4, 4, .ro, .byI [8, 9], false⟩

/-! INTC page fields: spec/ chapter 11. -/

def INTC_PEND : Row := ⟨.intc, 0x040, 16, 0x4, 1, 0x0, 0, 0, 32, .ro, .val 0, false⟩
def INTC_CLAIM : Row := ⟨.intc, 0x080, 19, 0x8, 1, 0x0, 0, 0, 10, .ro, .val 0, false⟩
def INTC_COMPLETE : Row := ⟨.intc, 0x080, 19, 0x8, 1, 0x0, 0, 0, 10, .wo, .val 0, false⟩
def INTC_THRESH : Row := ⟨.intc, 0x084, 19, 0x8, 1, 0x0, 0, 0, 4, .rw, .val 0, false⟩
def INTC_ROUTE_CTX : Row := ⟨.intc, 0x800, 512, 0x4, 1, 0x0, 0, 0, 5, .rwl, .val 31, false⟩
def INTC_ROUTE_PRIO : Row := ⟨.intc, 0x800, 512, 0x4, 1, 0x0, 0, 8, 4, .rwl, .val 0, false⟩
def INTC_ROUTE_VEC : Row := ⟨.intc, 0x800, 512, 0x4, 1, 0x0, 0, 16, 5, .rwl, .val 0, false⟩

/-! CORE page fields: spec/ chapter 11. -/

def CORE_RUN : Row := ⟨.core, 0x040, 1, 0x0, 1, 0x0, 0, 0, 8, .rw, .val 1, false⟩
def CORE_WFI : Row := ⟨.core, 0x044, 1, 0x0, 1, 0x0, 0, 0, 8, .ro, .val 0, false⟩
def CORE_RVEC_LO : Row := ⟨.core, 0x080, 8, 0x8, 1, 0x0, 0, 0, 32, .rwl, .val 0, false⟩
def CORE_RVEC_HI : Row := ⟨.core, 0x084, 8, 0x8, 1, 0x0, 0, 0, 32, .rwl, .val 0, false⟩

/-! PMC page fields: spec/ chapter 13. -/

def PMC_CTL_SHED_EN : Row := ⟨.pmc, 0x040, 1, 0x0, 1, 0x0, 0, 0, 1, .rwl, .val 1, false⟩
def PMC_VIN_MV : Row := ⟨.pmc, 0x044, 1, 0x0, 1, 0x0, 0, 0, 16, .ro, .val 0, false⟩
def PMC_VIN_CUR : Row := ⟨.pmc, 0x044, 1, 0x0, 1, 0x0, 0, 16, 16, .ro, .val 0, false⟩
def PMC_P_DEV : Row := ⟨.pmc, 0x048, 1, 0x0, 1, 0x0, 0, 0, 16, .ro, .val 0, false⟩
def PMC_EFF : Row := ⟨.pmc, 0x04C, 1, 0x0, 1, 0x0, 0, 0, 16, .ro, .val 0xE666, true⟩
def PMC_E_VIN_LO : Row := ⟨.pmc, 0x050, 1, 0x0, 1, 0x0, 0, 0, 32, .ro, .val 0, false⟩
def PMC_E_VIN_HI : Row := ⟨.pmc, 0x054, 1, 0x0, 1, 0x0, 0, 0, 32, .ro, .val 0, false⟩
def PMC_E_RAIL_LO : Row := ⟨.pmc, 0x058, 5, 0x8, 1, 0x0, 0, 0, 32, .ro, .val 0, false⟩
def PMC_E_RAIL_HI : Row := ⟨.pmc, 0x05C, 5, 0x8, 1, 0x0, 0, 0, 32, .ro, .val 0, false⟩

/-! VRC page fields: spec/ chapter 13. -/

def VRC_STAT_GOOD : Row := ⟨.vrc, 0x040, 1, 0x0, 1, 0x0, 0, 0, 8, .ro, .byInst [255, 255, 255, 255, 15], false⟩
def VRC_STAT_ACTIVE : Row := ⟨.vrc, 0x040, 1, 0x0, 1, 0x0, 0, 8, 8, .ro, .val 0, false⟩
def VRC_STAT_STATE : Row := ⟨.vrc, 0x040, 1, 0x0, 1, 0x0, 0, 16, 2, .ro, .val 0, false⟩
def VRC_VSET : Row := ⟨.vrc, 0x044, 1, 0x0, 1, 0x0, 0, 0, 16, .ro, .val 0, false⟩
def VRC_VSNS : Row := ⟨.vrc, 0x044, 1, 0x0, 1, 0x0, 0, 16, 16, .ro, .val 0, false⟩
def VRC_IRAIL : Row := ⟨.vrc, 0x048, 1, 0x0, 1, 0x0, 0, 0, 16, .ro, .val 0, false⟩
def VRC_ILIM : Row := ⟨.vrc, 0x048, 1, 0x0, 1, 0x0, 0, 16, 16, .ro, .byInst [1600, 1600, 1600, 1600, 800], false⟩
def VRC_PH_SEL : Row := ⟨.vrc, 0x04C, 1, 0x0, 1, 0x0, 0, 0, 3, .rw, .val 0, false⟩
def VRC_PH_IMON : Row := ⟨.vrc, 0x050, 1, 0x0, 1, 0x0, 0, 0, 12, .ro, .val 0, false⟩
def VRC_PH_TEMP : Row := ⟨.vrc, 0x050, 1, 0x0, 1, 0x0, 0, 16, 8, .ro, .val 0, false⟩
def VRC_PH_FAIL : Row := ⟨.vrc, 0x050, 1, 0x0, 1, 0x0, 0, 24, 2, .ro, .val 0, false⟩
def VRC_DROOPS : Row := ⟨.vrc, 0x054, 1, 0x0, 1, 0x0, 0, 0, 32, .ro, .val 0, false⟩
def VRC_LOSSES : Row := ⟨.vrc, 0x058, 1, 0x0, 1, 0x0, 0, 0, 32, .ro, .val 0, false⟩

/-! THM page fields: spec/ chapter 13. -/

def THM_MS_T : Row := ⟨.thm, 0x054, 4, 0x4, 1, 0x0, 0, 0, 8, .ro, .val 0, false⟩
def THM_WARM_EN : Row := ⟨.thm, 0x064, 1, 0x0, 1, 0x0, 0, 0, 1, .rwl, .val 1, false⟩
def THM_WARM_FLOOR_C : Row := ⟨.thm, 0x064, 1, 0x0, 1, 0x0, 0, 8, 6, .rwl, .val 40, false⟩
def THM_COOL_FLOW : Row := ⟨.thm, 0x06C, 1, 0x0, 1, 0x0, 0, 0, 16, .ro, .val 0, false⟩
def THM_COOL_STATE : Row := ⟨.thm, 0x06C, 1, 0x0, 1, 0x0, 0, 16, 3, .ro, .val 0, false⟩
def THM_RTHS_WARN : Row := ⟨.thm, 0x080, 1, 0x0, 1, 0x0, 0, 0, 8, .rwl, .val 125, false⟩
def THM_RTHS_FLEET : Row := ⟨.thm, 0x080, 1, 0x0, 1, 0x0, 0, 8, 1, .ro, .val 0, false⟩
def THM_CYC : Row := ⟨.thm, 0x0A0, 5, 0x10, 4, 0x4, 0, 0, 32, .ro, .val 0, true⟩
def THM_TJ_MAX : Row := ⟨.thm, 0x040, 5, 0x4, 1, 0x0, 0, 0, 8, .ro, .val 0, false⟩
def THM_TJ_MIN : Row := ⟨.thm, 0x040, 5, 0x4, 1, 0x0, 0, 8, 8, .ro, .val 0, false⟩
def THM_COOL_T_IN : Row := ⟨.thm, 0x068, 1, 0x0, 1, 0x0, 0, 0, 16, .ro, .val 0, false⟩
def THM_COOL_T_OUT : Row := ⟨.thm, 0x068, 1, 0x0, 1, 0x0, 0, 16, 16, .ro, .val 0, false⟩
def THM_COOL_INLET_HI : Row := ⟨.thm, 0x070, 1, 0x0, 1, 0x0, 0, 0, 8, .rwl, .val 55, false⟩
def THM_COOL_DERATE_W : Row := ⟨.thm, 0x070, 1, 0x0, 1, 0x0, 0, 8, 8, .rwl, .val 16, false⟩
def THM_COOL_FLOW_MIN : Row := ⟨.thm, 0x070, 1, 0x0, 1, 0x0, 0, 16, 8, .rwl, .val 15, false⟩
def THM_COOL_DT_MAX : Row := ⟨.thm, 0x070, 1, 0x0, 1, 0x0, 0, 24, 8, .rwl, .val 15, false⟩
def THM_I3C_ADDR_IN : Row := ⟨.thm, 0x074, 1, 0x0, 1, 0x0, 0, 0, 7, .rwl, .val 0, false⟩
def THM_I3C_ADDR_OUT : Row := ⟨.thm, 0x074, 1, 0x0, 1, 0x0, 0, 8, 7, .rwl, .val 0, false⟩
def THM_I3C_ADDR_FLOW : Row := ⟨.thm, 0x074, 1, 0x0, 1, 0x0, 0, 16, 7, .rwl, .val 0, false⟩
def THM_I3C_REG_IN : Row := ⟨.thm, 0x078, 1, 0x0, 1, 0x0, 0, 0, 8, .rwl, .val 0, false⟩
def THM_I3C_REG_OUT : Row := ⟨.thm, 0x078, 1, 0x0, 1, 0x0, 0, 8, 8, .rwl, .val 0, false⟩
def THM_I3C_REG_FLOW : Row := ⟨.thm, 0x078, 1, 0x0, 1, 0x0, 0, 16, 8, .rwl, .val 0, false⟩
def THM_RTH : Row := ⟨.thm, 0x07C, 1, 0x0, 1, 0x0, 0, 0, 16, .ro, .val 0, false⟩
def THM_RTH_REF : Row := ⟨.thm, 0x07C, 1, 0x0, 1, 0x0, 0, 16, 16, .ro, .val 100, true⟩

/-! DVFS page fields: spec/ chapter 13. -/

def DVFS_OPC_REQ : Row := ⟨.dvfs, 0x040, 4, 0x4, 1, 0x0, 0, 0, 4, .rw, .val 12, false⟩
def DVFS_OPC_FLOOR_PEND : Row := ⟨.dvfs, 0x040, 4, 0x4, 1, 0x0, 0, 8, 4, .rwl, .val 0, false⟩
def DVFS_OPC_FLOOR : Row := ⟨.dvfs, 0x040, 4, 0x4, 1, 0x0, 0, 12, 4, .ro, .val 0, false⟩
def DVFS_OPC_ACT : Row := ⟨.dvfs, 0x040, 4, 0x4, 1, 0x0, 0, 16, 4, .ro, .val 0, false⟩
def DVFS_OPC_TOP : Row := ⟨.dvfs, 0x040, 4, 0x4, 1, 0x0, 0, 20, 4, .ro, .val 15, true⟩
def DVFS_OPC_BREACH : Row := ⟨.dvfs, 0x040, 4, 0x4, 1, 0x0, 0, 24, 1, .ro, .val 0, false⟩
def DVFS_THR_ACT : Row := ⟨.dvfs, 0x050, 4, 0x4, 1, 0x0, 0, 1, 10, .ro, .val 0, false⟩
def DVFS_OP_FREQ : Row := ⟨.dvfs, 0x060, 16, 0x4, 1, 0x0, 0, 0, 6, .ro, .byI [16, 18, 20, 22, 24, 26, 28, 30, 32, 34, 36, 38, 40, 42, 45, 48], true⟩
def DVFS_VT_V_TEST : Row := ⟨.dvfs, 0x0A0, 4, 0x40, 16, 0x4, 0, 0, 10, .ro, .byJ [560, 575, 590, 605, 620, 635, 650, 665, 685, 705, 725, 745, 765, 790, 820, 850], true⟩
def DVFS_VT_OFFSET : Row := ⟨.dvfs, 0x0A0, 4, 0x40, 16, 0x4, 0, 12, 6, .ro, .val 0, true⟩
def DVFS_VT_RETIRED : Row := ⟨.dvfs, 0x0A0, 4, 0x40, 16, 0x4, 0, 31, 1, .ro, .val 0, true⟩
def DVFS_AGE_MARGIN : Row := ⟨.dvfs, 0x1A0, 4, 0x4, 1, 0x0, 0, 0, 8, .ro, .val 0, false⟩
def DVFS_AGE_MARGIN_MIN : Row := ⟨.dvfs, 0x1A0, 4, 0x4, 1, 0x0, 0, 8, 8, .ro, .val 20, true⟩
def DVFS_AGE_OFFSET_MAX : Row := ⟨.dvfs, 0x1A0, 4, 0x4, 1, 0x0, 0, 16, 8, .ro, .val 50, true⟩
def DVFS_AGE_DROOP_MV : Row := ⟨.dvfs, 0x1A0, 4, 0x4, 1, 0x0, 0, 24, 8, .ro, .val 40, true⟩
def DVFS_AGE_RAISES : Row := ⟨.dvfs, 0x1B0, 4, 0x4, 1, 0x0, 0, 0, 32, .ro, .val 0, false⟩
def DVFS_PMAX : Row := ⟨.dvfs, 0x220, 4, 0x40, 16, 0x4, 0, 0, 16, .ro, .byJ [240, 265, 290, 315, 340, 415, 490, 575, 660, 750, 840, 930, 1020, 1110, 1220, 1340], true⟩
def DVFS_HUB_W : Row := ⟨.dvfs, 0x320, 1, 0x0, 1, 0x0, 0, 0, 16, .ro, .val 420, true⟩
def DVFS_THR_US_LO : Row := ⟨.dvfs, 0x1C0, 11, 0x8, 1, 0x0, 1, 0, 32, .ro, .val 0, false⟩
def DVFS_THR_US_HI : Row := ⟨.dvfs, 0x1C4, 11, 0x8, 1, 0x0, 1, 0, 32, .ro, .val 0, false⟩

/-! CAP page fields: spec/ chapter 13. -/

def CAP_ENV_REQ : Row := ⟨.cap, 0x040, 1, 0x0, 1, 0x0, 0, 0, 2, .rw, .val 1, false⟩
def CAP_ENV_ISL : Row := ⟨.cap, 0x044, 1, 0x0, 1, 0x0, 0, 0, 2, .wo, .val 0, false⟩
def CAP_STAT_ENV : Row := ⟨.cap, 0x048, 1, 0x0, 1, 0x0, 0, 0, 2, .ro, .val 1, false⟩
def CAP_VEH_1MS : Row := ⟨.cap, 0x04C, 1, 0x0, 1, 0x0, 0, 0, 16, .rwl, .val 750, false⟩
def CAP_AUX_W : Row := ⟨.cap, 0x04C, 1, 0x0, 1, 0x0, 0, 16, 16, .rwl, .val 45, false⟩
def CAP_SHIFT_W : Row := ⟨.cap, 0x050, 1, 0x0, 1, 0x0, 0, 0, 16, .rw, .val 0, false⟩
def CAP_OPMAX : Row := ⟨.cap, 0x054, 3, 0x4, 1, 0x0, 0, 0, 4, .rwl, .byI [8, 12, 15], false⟩
def CAP_COOL_LIM : Row := ⟨.cap, 0x06C, 1, 0x0, 1, 0x0, 0, 0, 16, .ro, .val 65535, false⟩
def CAP_BUDGET : Row := ⟨.cap, 0x07C, 1, 0x0, 1, 0x0, 0, 0, 16, .ro, .val 0, false⟩
def CAP_OVERS : Row := ⟨.cap, 0x080, 1, 0x0, 1, 0x0, 0, 0, 32, .ro, .val 0, false⟩
def CAP_STAT_CORE_PEND : Row := ⟨.cap, 0x048, 1, 0x0, 1, 0x0, 0, 2, 1, .ro, .val 0, false⟩
def CAP_STAT_ISL_PEND : Row := ⟨.cap, 0x048, 1, 0x0, 1, 0x0, 0, 3, 1, .ro, .val 0, false⟩
def CAP_LIM : Row := ⟨.cap, 0x060, 3, 0x4, 1, 0x0, 0, 0, 16, .ro, .val 0, false⟩
def CAP_P : Row := ⟨.cap, 0x070, 3, 0x4, 1, 0x0, 0, 0, 16, .ro, .val 0, false⟩

/-! LDG page fields: spec/ chapter 14. -/

def LDG_STAT_STATE : Row := ⟨.ldg, 0x040, 1, 0x0, 1, 0x0, 0, 0, 3, .ro, .val 0, false⟩
def LDG_STAT_FOLDING : Row := ⟨.ldg, 0x040, 1, 0x0, 1, 0x0, 0, 3, 1, .ro, .val 0, false⟩
def LDG_STAT_COMMIT_OK : Row := ⟨.ldg, 0x040, 1, 0x0, 1, 0x0, 0, 4, 1, .ro, .val 0, false⟩
def LDG_QUEUE : Row := ⟨.ldg, 0x044, 1, 0x0, 1, 0x0, 0, 0, 9, .ro, .val 0, false⟩
def LDG_JOURNAL : Row := ⟨.ldg, 0x044, 1, 0x0, 1, 0x0, 0, 16, 10, .ro, .val 0, false⟩
def LDG_RESERVE : Row := ⟨.ldg, 0x048, 1, 0x0, 1, 0x0, 0, 0, 11, .ro, .val 1344, true⟩
def LDG_WCNT_MAX : Row := ⟨.ldg, 0x054, 1, 0x0, 1, 0x0, 0, 0, 32, .ro, .val 0, true⟩
def LDG_RETIRED : Row := ⟨.ldg, 0x058, 1, 0x0, 1, 0x0, 0, 0, 16, .ro, .val 0, true⟩
def LDG_TORN : Row := ⟨.ldg, 0x058, 1, 0x0, 1, 0x0, 0, 16, 16, .ro, .val 0, false⟩
def LDG_DROPPED : Row := ⟨.ldg, 0x05C, 1, 0x0, 1, 0x0, 0, 0, 32, .ro, .val 0, false⟩
def LDG_ABANDONED : Row := ⟨.ldg, 0x060, 1, 0x0, 1, 0x0, 0, 0, 32, .ro, .val 0, false⟩
def LDG_FLUSHES : Row := ⟨.ldg, 0x064, 1, 0x0, 1, 0x0, 0, 0, 32, .ro, .val 0, true⟩
def LDG_RECOVERY_US : Row := ⟨.ldg, 0x068, 1, 0x0, 1, 0x0, 0, 0, 16, .ro, .val 0, false⟩
def LDG_FW_TYPE : Row := ⟨.ldg, 0x080, 1, 0x0, 1, 0x0, 0, 0, 8, .rw, .val 0, false⟩
def LDG_FW_KEY : Row := ⟨.ldg, 0x080, 1, 0x0, 1, 0x0, 0, 8, 12, .rw, .val 0, false⟩
def LDG_FW_DONE : Row := ⟨.ldg, 0x080, 1, 0x0, 1, 0x0, 0, 28, 1, .w1c, .val 0, false⟩
def LDG_FW_ERR : Row := ⟨.ldg, 0x080, 1, 0x0, 1, 0x0, 0, 29, 1, .w1c, .val 0, false⟩
def LDG_FW_BUF : Row := ⟨.ldg, 0x084, 1, 0x0, 1, 0x0, 0, 0, 32, .rw, .val 0, false⟩
def LDG_FW_LEN : Row := ⟨.ldg, 0x088, 1, 0x0, 1, 0x0, 0, 0, 12, .rw, .val 0, false⟩
def LDG_FW_CODE : Row := ⟨.ldg, 0x08C, 1, 0x0, 1, 0x0, 0, 0, 8, .ro, .val 0, false⟩
def LDG_BOOT_ACTIVE : Row := ⟨.ldg, 0x0A0, 1, 0x0, 1, 0x0, 0, 0, 1, .ro, .val 0, true⟩
def LDG_BOOT_TRIAL : Row := ⟨.ldg, 0x0A0, 1, 0x0, 1, 0x0, 0, 1, 1, .ro, .val 0, true⟩
def LDG_BOOT_TRIES : Row := ⟨.ldg, 0x0A0, 1, 0x0, 1, 0x0, 0, 2, 4, .ro, .val 0, true⟩
def LDG_BOOT_TRIAL_MAX : Row := ⟨.ldg, 0x0A0, 1, 0x0, 1, 0x0, 0, 8, 4, .rwl, .val 3, false⟩
def LDG_BOOT_SVN : Row := ⟨.ldg, 0x0A4, 1, 0x0, 1, 0x0, 0, 0, 32, .ro, .val 0, true⟩
def LDG_SEQ_LO : Row := ⟨.ldg, 0x04C, 1, 0x0, 1, 0x0, 0, 0, 32, .ro, .val 0, true⟩
def LDG_SEQ_HI : Row := ⟨.ldg, 0x050, 1, 0x0, 1, 0x0, 0, 0, 32, .ro, .val 0, true⟩
def LDG_FW_WRITE : Row := ⟨.ldg, 0x080, 1, 0x0, 1, 0x0, 0, 24, 1, .w1s, .val 0, false⟩
def LDG_FW_READ : Row := ⟨.ldg, 0x080, 1, 0x0, 1, 0x0, 0, 25, 1, .w1s, .val 0, false⟩
def LDG_FW_ENTRY : Row := ⟨.ldg, 0x080, 1, 0x0, 1, 0x0, 0, 26, 1, .w1s, .val 0, false⟩
def LDG_BOOT_CTL_TRIAL : Row := ⟨.ldg, 0x0A8, 1, 0x0, 1, 0x0, 0, 0, 1, .w1s, .val 0, false⟩
def LDG_BOOT_CTL_CONFIRM : Row := ⟨.ldg, 0x0A8, 1, 0x0, 1, 0x0, 0, 1, 1, .w1s, .val 0, false⟩
def LDG_BOOT_CTL_CANCEL : Row := ⟨.ldg, 0x0A8, 1, 0x0, 1, 0x0, 0, 2, 1, .w1s, .val 0, false⟩

/-! HLD page fields: spec/ chapter 14. -/

def HLD_STAT_STATE : Row := ⟨.hld, 0x040, 1, 0x0, 1, 0x0, 0, 0, 3, .ro, .val 0, false⟩
def HLD_STAT_DEGRADED : Row := ⟨.hld, 0x040, 1, 0x0, 1, 0x0, 0, 3, 1, .ro, .val 0, true⟩
def HLD_STAT_CHARGE : Row := ⟨.hld, 0x040, 1, 0x0, 1, 0x0, 0, 4, 2, .ro, .val 0, false⟩
def HLD_V_HOLD : Row := ⟨.hld, 0x044, 1, 0x0, 1, 0x0, 0, 0, 16, .ro, .val 0, false⟩
def HLD_I_MEAS : Row := ⟨.hld, 0x044, 1, 0x0, 1, 0x0, 0, 16, 16, .ro, .val 0, false⟩
def HLD_E_USABLE : Row := ⟨.hld, 0x048, 1, 0x0, 1, 0x0, 0, 0, 16, .ro, .val 0, false⟩
def HLD_E_VOLT : Row := ⟨.hld, 0x048, 1, 0x0, 1, 0x0, 0, 16, 16, .ro, .val 0, false⟩
def HLD_E_CNT : Row := ⟨.hld, 0x04C, 1, 0x0, 1, 0x0, 0, 0, 16, .ro, .val 0, false⟩
def HLD_E_FULL : Row := ⟨.hld, 0x04C, 1, 0x0, 1, 0x0, 0, 16, 16, .ro, .val 0, false⟩
def HLD_C_RATED : Row := ⟨.hld, 0x050, 1, 0x0, 1, 0x0, 0, 0, 24, .rwl, .val 0, false⟩
def HLD_C_MEAS : Row := ⟨.hld, 0x054, 1, 0x0, 1, 0x0, 0, 0, 24, .ro, .val 0, true⟩
def HLD_V_TGT : Row := ⟨.hld, 0x058, 1, 0x0, 1, 0x0, 0, 0, 13, .rwl, .val 4800, false⟩
def HLD_I_CHG : Row := ⟨.hld, 0x058, 1, 0x0, 1, 0x0, 0, 16, 10, .rwl, .val 200, false⟩
def HLD_LEAK : Row := ⟨.hld, 0x05C, 1, 0x0, 1, 0x0, 0, 0, 16, .rwl, .val 50, false⟩
def HLD_T_CHG_MAX : Row := ⟨.hld, 0x05C, 1, 0x0, 1, 0x0, 0, 16, 16, .rwl, .val 60, false⟩
def HLD_CTL_CLR_DEG : Row := ⟨.hld, 0x060, 1, 0x0, 1, 0x0, 0, 0, 1, .w1s, .val 0, false⟩
def HLD_CHARGES : Row := ⟨.hld, 0x064, 1, 0x0, 1, 0x0, 0, 0, 32, .ro, .val 0, false⟩
def HLD_REMOVALS : Row := ⟨.hld, 0x068, 1, 0x0, 1, 0x0, 0, 0, 32, .ro, .val 0, false⟩

/-! DLK page fields: spec/ chapter 15. -/

def DLK_CTL_ENUM : Row := ⟨.dlk, 0x040, 1, 0x0, 1, 0x0, 0, 2, 1, .w1s, .val 0, false⟩
def DLK_CTL_TSRC : Row := ⟨.dlk, 0x040, 1, 0x0, 1, 0x0, 0, 3, 1, .rwl, .val 0, false⟩
def DLK_CTL_LINKS : Row := ⟨.dlk, 0x040, 1, 0x0, 1, 0x0, 0, 8, 8, .rwl, .val 0, false⟩
def DLK_STAT_STATE : Row := ⟨.dlk, 0x044, 1, 0x0, 1, 0x0, 0, 0, 3, .ro, .val 0, false⟩
def DLK_STAT_INDEX : Row := ⟨.dlk, 0x044, 1, 0x0, 1, 0x0, 0, 4, 7, .ro, .val 0, false⟩
def DLK_STAT_INDEX_V : Row := ⟨.dlk, 0x044, 1, 0x0, 1, 0x0, 0, 11, 1, .ro, .val 0, false⟩
def DLK_STAT_UP : Row := ⟨.dlk, 0x044, 1, 0x0, 1, 0x0, 0, 12, 8, .ro, .val 0, false⟩
def DLK_STAT_MEMBERS : Row := ⟨.dlk, 0x044, 1, 0x0, 1, 0x0, 0, 20, 8, .ro, .val 0, false⟩
def DLK_WAIT_US : Row := ⟨.dlk, 0x070, 1, 0x0, 1, 0x0, 0, 0, 32, .ro, .val 0, false⟩
def DLK_L_STATE : Row := ⟨.dlk, 0x080, 8, 0x10, 1, 0x0, 0, 0, 3, .ro, .val 0, false⟩
def DLK_L_WIDTH : Row := ⟨.dlk, 0x080, 8, 0x10, 1, 0x0, 0, 3, 3, .ro, .val 0, false⟩
def DLK_L_REPLAYS : Row := ⟨.dlk, 0x084, 8, 0x10, 1, 0x0, 0, 0, 16, .ro, .val 0, false⟩
def DLK_L_LAT : Row := ⟨.dlk, 0x088, 8, 0x10, 1, 0x0, 0, 0, 16, .ro, .val 0, false⟩
def DLK_XB_EN : Row := ⟨.dlk, 0x100, 8, 0x20, 1, 0x0, 0, 0, 1, .rwl, .val 0, false⟩
def DLK_XB_PART : Row := ⟨.dlk, 0x100, 8, 0x20, 1, 0x0, 0, 1, 4, .rwl, .val 0, false⟩
def DLK_SH_EN : Row := ⟨.dlk, 0x200, 1, 0x0, 1, 0x0, 0, 0, 1, .rwl, .val 0, false⟩
def DLK_SH_PERIOD : Row := ⟨.dlk, 0x200, 1, 0x0, 1, 0x0, 0, 4, 4, .rwl, .val 8, false⟩
def DLK_SH_STEP : Row := ⟨.dlk, 0x200, 1, 0x0, 1, 0x0, 0, 8, 8, .rwl, .val 10, false⟩
def DLK_SH_MAX : Row := ⟨.dlk, 0x200, 1, 0x0, 1, 0x0, 0, 16, 16, .rwl, .val 100, false⟩
def DLK_SH_EXCHANGES : Row := ⟨.dlk, 0x204, 1, 0x0, 1, 0x0, 0, 0, 32, .ro, .val 0, false⟩
def DLK_CP_LOCAL : Row := ⟨.dlk, 0x300, 8, 0x20, 1, 0x0, 0, 0, 32, .rw, .val 0, false⟩
def DLK_IN_BASE : Row := ⟨.dlk, 0x400, 8, 0x8, 1, 0x0, 0, 0, 26, .rwl, .val 0, false⟩
def DLK_IN_LEN : Row := ⟨.dlk, 0x404, 8, 0x8, 1, 0x0, 0, 0, 26, .rwl, .val 0, false⟩
def DLK_CTL_ENABLE : Row := ⟨.dlk, 0x040, 1, 0x0, 1, 0x0, 0, 0, 1, .rwl, .val 0, false⟩
def DLK_CTL_ROOT : Row := ⟨.dlk, 0x040, 1, 0x0, 1, 0x0, 0, 1, 1, .rwl, .val 0, false⟩
def DLK_HOPS : Row := ⟨.dlk, 0x048, 1, 0x0, 1, 0x0, 0, 0, 7, .ro, .val 0, false⟩
def DLK_UPLINK : Row := ⟨.dlk, 0x048, 1, 0x0, 1, 0x0, 0, 8, 3, .ro, .val 0, false⟩
def DLK_REACH : Row := ⟨.dlk, 0x050, 4, 0x4, 1, 0x0, 0, 0, 32, .ro, .val 0, false⟩
def DLK_FENCED : Row := ⟨.dlk, 0x060, 4, 0x4, 1, 0x0, 0, 0, 32, .ro, .val 0, false⟩
def DLK_L_PEER : Row := ⟨.dlk, 0x080, 8, 0x10, 1, 0x0, 0, 8, 8, .ro, .val 0, false⟩
def DLK_L_PEER_LINK : Row := ⟨.dlk, 0x080, 8, 0x10, 1, 0x0, 0, 16, 3, .ro, .val 0, false⟩
def DLK_XB_MEMB : Row := ⟨.dlk, 0x104, 8, 0x20, 4, 0x4, 0, 0, 32, .rwl, .val 0, false⟩
def DLK_XB_SKEW : Row := ⟨.dlk, 0x114, 8, 0x20, 1, 0x0, 0, 0, 16, .rwl, .val 1500, false⟩
def DLK_XB_AT_LATEST : Row := ⟨.dlk, 0x118, 8, 0x20, 1, 0x0, 0, 0, 16, .rwl, .val 65535, false⟩
def DLK_XB_STAT_LATE : Row := ⟨.dlk, 0x11C, 8, 0x20, 1, 0x0, 0, 0, 16, .ro, .val 0, false⟩
def DLK_XB_STAT_DISCARD : Row := ⟨.dlk, 0x11C, 8, 0x20, 1, 0x0, 0, 16, 16, .ro, .val 0, false⟩
def DLK_CP_REMOTE : Row := ⟨.dlk, 0x304, 8, 0x20, 1, 0x0, 0, 0, 32, .rw, .val 0, false⟩
def DLK_CP_LEN : Row := ⟨.dlk, 0x308, 8, 0x20, 1, 0x0, 0, 0, 24, .rw, .val 0, false⟩
def DLK_CP_DEST : Row := ⟨.dlk, 0x30C, 8, 0x20, 1, 0x0, 0, 0, 7, .rw, .val 0, false⟩
def DLK_CP_GO : Row := ⟨.dlk, 0x310, 8, 0x20, 1, 0x0, 0, 0, 1, .w1s, .val 0, false⟩
def DLK_CP_DIR : Row := ⟨.dlk, 0x310, 8, 0x20, 1, 0x0, 0, 1, 1, .rw, .val 0, false⟩
def DLK_CP_NOTIFY : Row := ⟨.dlk, 0x310, 8, 0x20, 1, 0x0, 0, 2, 1, .rw, .val 0, false⟩
def DLK_CP_DONE : Row := ⟨.dlk, 0x310, 8, 0x20, 1, 0x0, 0, 3, 1, .w1c, .val 0, false⟩
def DLK_CP_ERR : Row := ⟨.dlk, 0x310, 8, 0x20, 1, 0x0, 0, 4, 1, .w1c, .val 0, false⟩
def DLK_IN_WR : Row := ⟨.dlk, 0x404, 8, 0x8, 1, 0x0, 0, 30, 1, .rwl, .val 0, false⟩
def DLK_IN_VALID : Row := ⟨.dlk, 0x404, 8, 0x8, 1, 0x0, 0, 31, 1, .rwl, .val 0, false⟩

/-! UCI page fields: spec/ chapter 01. -/

def UCI_CTL_START : Row := ⟨.uci, 0x040, 1, 0x0, 1, 0x0, 0, 0, 1, .w1s, .val 0, false⟩
def UCI_STAT_STATE : Row := ⟨.uci, 0x044, 1, 0x0, 1, 0x0, 0, 0, 3, .ro, .val 5, false⟩
def UCI_STAT_CAUSE : Row := ⟨.uci, 0x044, 1, 0x0, 1, 0x0, 0, 8, 4, .ro, .val 7, false⟩
def UCI_PARTNER_ID : Row := ⟨.uci, 0x048, 1, 0x0, 1, 0x0, 0, 0, 32, .ro, .val 0, false⟩
def UCI_PWR_LIMIT_LIMIT : Row := ⟨.uci, 0x04C, 1, 0x0, 1, 0x0, 0, 0, 16, .rwl, .val 0, false⟩

/-! WLK page fields: spec/ chapter 01. -/

def WLK_CENSUS_PRESENT : Row := ⟨.wlk, 0x040, 1, 0x0, 1, 0x0, 0, 0, 6, .ro, .val 0, false⟩
def WLK_CENSUS_DOWN : Row := ⟨.wlk, 0x040, 1, 0x0, 1, 0x0, 0, 8, 6, .ro, .val 0, false⟩
def WLK_CENSUS_DONE : Row := ⟨.wlk, 0x040, 1, 0x0, 1, 0x0, 0, 16, 1, .ro, .val 0, false⟩
def WLK_CENSUS_MISMATCH : Row := ⟨.wlk, 0x040, 1, 0x0, 1, 0x0, 0, 17, 1, .ro, .val 0, false⟩

/-! PCIE page fields: spec/ chapter 11. -/

def PCIE_STAT_ROOT : Row := ⟨.pcie, 0x040, 1, 0x0, 1, 0x0, 0, 0, 1, .ro, .val 0, true⟩
def PCIE_STAT_WIDTH : Row := ⟨.pcie, 0x040, 1, 0x0, 1, 0x0, 0, 1, 5, .ro, .val 0, false⟩
def PCIE_STAT_GEN : Row := ⟨.pcie, 0x040, 1, 0x0, 1, 0x0, 0, 6, 4, .ro, .val 0, false⟩
def PCIE_STAT_LINK_UP : Row := ⟨.pcie, 0x040, 1, 0x0, 1, 0x0, 0, 10, 1, .ro, .val 0, false⟩
def PCIE_IB_BASE : Row := ⟨.pcie, 0x044, 1, 0x0, 1, 0x0, 0, 0, 32, .rwl, .val 0, false⟩
def PCIE_IB_LEN : Row := ⟨.pcie, 0x048, 1, 0x0, 1, 0x0, 0, 0, 32, .rwl, .val 0, false⟩
def PCIE_IB_MSI : Row := ⟨.pcie, 0x04C, 1, 0x0, 1, 0x0, 0, 0, 32, .wo, .val 0, false⟩
def PCIE_DMA_DEV : Row := ⟨.pcie, 0x108, 4, 0x20, 1, 0x0, 0, 0, 32, .rw, .val 0, false⟩
def PCIE_DMA_LEN : Row := ⟨.pcie, 0x10C, 4, 0x20, 1, 0x0, 0, 0, 24, .rw, .val 0, false⟩
def PCIE_DMA_GO : Row := ⟨.pcie, 0x110, 4, 0x20, 1, 0x0, 0, 0, 1, .w1s, .val 0, false⟩
def PCIE_DMA_DIR : Row := ⟨.pcie, 0x110, 4, 0x20, 1, 0x0, 0, 1, 1, .rw, .val 0, false⟩
def PCIE_DMA_DONE : Row := ⟨.pcie, 0x110, 4, 0x20, 1, 0x0, 0, 2, 1, .w1c, .val 0, false⟩
def PCIE_DMA_ERR : Row := ⟨.pcie, 0x110, 4, 0x20, 1, 0x0, 0, 3, 1, .w1c, .val 0, false⟩
def PCIE_DMA_HOST_LO : Row := ⟨.pcie, 0x100, 4, 0x20, 1, 0x0, 0, 0, 32, .rw, .val 0, false⟩
def PCIE_DMA_HOST_HI : Row := ⟨.pcie, 0x104, 4, 0x20, 1, 0x0, 0, 0, 32, .rw, .val 0, false⟩

/-! ETH page fields: spec/ chapter 08, 17. -/

def ETH_PTP_CTL_ENABLE : Row := ⟨.eth, 0x040, 1, 0x0, 1, 0x0, 0, 0, 1, .rwl, .val 0, false⟩
def ETH_PTP_CTL_ROLE : Row := ⟨.eth, 0x040, 1, 0x0, 1, 0x0, 0, 1, 1, .rwl, .val 0, false⟩
def ETH_PTP_CTL_BMCA : Row := ⟨.eth, 0x040, 1, 0x0, 1, 0x0, 0, 2, 1, .rwl, .val 0, false⟩
def ETH_PTP_CTL_PORTS : Row := ⟨.eth, 0x040, 1, 0x0, 1, 0x0, 0, 3, 8, .rwl, .val 0, false⟩
def ETH_PTP_CTL_DOMAIN : Row := ⟨.eth, 0x040, 1, 0x0, 1, 0x0, 0, 11, 7, .rwl, .val 0, false⟩
def ETH_PTP_CTL_SYNC_LOSS : Row := ⟨.eth, 0x040, 1, 0x0, 1, 0x0, 0, 18, 4, .rwl, .val 3, false⟩
def ETH_PTP_STAT_STATE : Row := ⟨.eth, 0x044, 1, 0x0, 1, 0x0, 0, 0, 2, .ro, .val 0, false⟩
def ETH_PTP_STAT_RX_PORT : Row := ⟨.eth, 0x044, 1, 0x0, 1, 0x0, 0, 4, 3, .ro, .val 0, false⟩
def ETH_PTP_OFFSET : Row := ⟨.eth, 0x048, 1, 0x0, 1, 0x0, 0, 0, 32, .ro, .val 0, false⟩
def ETH_MDIO_C45 : Row := ⟨.eth, 0x080, 1, 0x0, 1, 0x0, 0, 10, 1, .rw, .val 0, false⟩
def ETH_MDIO_OP : Row := ⟨.eth, 0x080, 1, 0x0, 1, 0x0, 0, 11, 2, .rw, .val 2, false⟩
def ETH_MDIO_DATA : Row := ⟨.eth, 0x084, 1, 0x0, 1, 0x0, 0, 0, 16, .rw, .val 0, false⟩
def ETH_MAC_LINK : Row := ⟨.eth, 0x100, 8, 0x40, 1, 0x0, 0, 0, 1, .ro, .val 0, false⟩
def ETH_MAC_SPEED : Row := ⟨.eth, 0x100, 8, 0x40, 1, 0x0, 0, 1, 3, .ro, .val 0, false⟩
def ETH_QBV_COMMIT : Row := ⟨.eth, 0x400, 4, 0x300, 1, 0x0, 0, 0, 1, .w1s, .val 0, false⟩
def ETH_QBV_PENDING : Row := ⟨.eth, 0x400, 4, 0x300, 1, 0x0, 0, 1, 1, .ro, .val 0, false⟩
def ETH_QBV_EN : Row := ⟨.eth, 0x400, 4, 0x300, 1, 0x0, 0, 2, 1, .rw, .val 0, false⟩
def ETH_PTP_SET_LO : Row := ⟨.eth, 0x04C, 1, 0x0, 1, 0x0, 0, 0, 32, .wo, .val 0, false⟩
def ETH_PTP_SET_HI : Row := ⟨.eth, 0x050, 1, 0x0, 1, 0x0, 0, 0, 32, .wo, .val 0, false⟩
def ETH_LAT_RX : Row := ⟨.eth, 0x060, 8, 0x4, 1, 0x0, 0, 0, 16, .rw, .val 0, false⟩
def ETH_LAT_TX : Row := ⟨.eth, 0x060, 8, 0x4, 1, 0x0, 0, 16, 16, .rw, .val 0, false⟩
def ETH_MDIO_PRTAD : Row := ⟨.eth, 0x080, 1, 0x0, 1, 0x0, 0, 0, 5, .rw, .val 0, false⟩
def ETH_MDIO_DEVAD : Row := ⟨.eth, 0x080, 1, 0x0, 1, 0x0, 0, 5, 5, .rw, .val 0, false⟩
def ETH_MDIO_GO : Row := ⟨.eth, 0x080, 1, 0x0, 1, 0x0, 0, 16, 1, .w1s, .val 0, false⟩
def ETH_MDIO_DONE : Row := ⟨.eth, 0x080, 1, 0x0, 1, 0x0, 0, 17, 1, .w1c, .val 0, false⟩
def ETH_MAC_ADDR_LO : Row := ⟨.eth, 0x104, 8, 0x40, 1, 0x0, 0, 0, 32, .rwl, .val 0, true⟩
def ETH_MAC_ADDR_HI : Row := ⟨.eth, 0x108, 8, 0x40, 1, 0x0, 0, 0, 16, .rwl, .val 0, true⟩
def ETH_MAC_RX_FRAMES : Row := ⟨.eth, 0x10C, 8, 0x40, 1, 0x0, 0, 0, 32, .ro, .val 0, false⟩
def ETH_MAC_RX_FCS : Row := ⟨.eth, 0x110, 8, 0x40, 1, 0x0, 0, 0, 32, .ro, .val 0, false⟩
def ETH_MAC_TX_FRAMES : Row := ⟨.eth, 0x114, 8, 0x40, 1, 0x0, 0, 0, 32, .ro, .val 0, false⟩
def ETH_QBV_BASE_LO : Row := ⟨.eth, 0x404, 4, 0x300, 1, 0x0, 0, 0, 32, .rw, .val 0, false⟩
def ETH_QBV_BASE_HI : Row := ⟨.eth, 0x408, 4, 0x300, 1, 0x0, 0, 0, 32, .rw, .val 0, false⟩
def ETH_QBV_LEN : Row := ⟨.eth, 0x40C, 4, 0x300, 1, 0x0, 0, 0, 7, .rw, .val 0, false⟩
def ETH_QBV_GATES : Row := ⟨.eth, 0x500, 4, 0x300, 64, 0x8, 0, 0, 8, .rw, .val 255, false⟩
def ETH_QBV_INTERVAL : Row := ⟨.eth, 0x504, 4, 0x300, 64, 0x8, 0, 0, 30, .rw, .val 0, false⟩

/-! SEC page fields: spec/ chapter 16. -/

def SEC_LC_STATE : Row := ⟨.sec, 0x040, 1, 0x0, 1, 0x0, 0, 0, 2, .ro, .val 2, true⟩
def SEC_LC_PENDING : Row := ⟨.sec, 0x040, 1, 0x0, 1, 0x0, 0, 2, 1, .ro, .val 0, true⟩
def SEC_KEYS_HYBRID : Row := ⟨.sec, 0x044, 1, 0x0, 1, 0x0, 0, 8, 1, .ro, .val 0, true⟩
def SEC_LC_TOKEN : Row := ⟨.sec, 0x048, 1, 0x0, 1, 0x0, 0, 0, 32, .rw, .val 0, false⟩
def SEC_LC_REQ_TARGET : Row := ⟨.sec, 0x04C, 1, 0x0, 1, 0x0, 0, 0, 2, .rw, .val 0, false⟩
def SEC_LC_REQ_GO : Row := ⟨.sec, 0x04C, 1, 0x0, 1, 0x0, 0, 4, 1, .w1s, .val 0, false⟩
def SEC_REVOKE : Row := ⟨.sec, 0x050, 1, 0x0, 1, 0x0, 0, 0, 4, .w1s, .val 0, false⟩
def SEC_IMG_KEY : Row := ⟨.sec, 0x054, 1, 0x0, 1, 0x0, 0, 0, 3, .ro, .val 0, false⟩
def SEC_IMG_MLDSA : Row := ⟨.sec, 0x054, 1, 0x0, 1, 0x0, 0, 3, 1, .ro, .val 0, false⟩
def SEC_IMG_SVN : Row := ⟨.sec, 0x058, 1, 0x0, 1, 0x0, 0, 0, 32, .ro, .val 0, false⟩
def SEC_STAT_DUS_LOCKED : Row := ⟨.sec, 0x05C, 1, 0x0, 1, 0x0, 0, 0, 1, .ro, .val 0, false⟩
def SEC_MEAS : Row := ⟨.sec, 0x060, 12, 0x4, 1, 0x0, 0, 0, 32, .ro, .val 0, false⟩
def SEC_KEYS_OWNER : Row := ⟨.sec, 0x044, 1, 0x0, 1, 0x0, 0, 0, 4, .ro, .val 1, true⟩
def SEC_KEYS_REVOKED : Row := ⟨.sec, 0x044, 1, 0x0, 1, 0x0, 0, 4, 4, .ro, .val 0, true⟩

/-! DBG page fields: spec/ chapter 17. -/

def DBG_UART_DIV : Row := ⟨.dbg, 0x040, 1, 0x0, 1, 0x0, 0, 0, 16, .rwl, .val 868, false⟩
def DBG_UART_FRAC : Row := ⟨.dbg, 0x040, 1, 0x0, 1, 0x0, 0, 16, 4, .rwl, .val 1, false⟩
def DBG_MAL_SESSION : Row := ⟨.dbg, 0x044, 1, 0x0, 1, 0x0, 0, 0, 2, .ro, .val 0, false⟩
def DBG_MAL_OFF : Row := ⟨.dbg, 0x044, 1, 0x0, 1, 0x0, 0, 8, 1, .w1s, .val 0, false⟩
def DBG_RX_ERR : Row := ⟨.dbg, 0x048, 1, 0x0, 1, 0x0, 0, 0, 32, .ro, .val 0, false⟩

/-! CLAP page fields: spec/ chapter 12. -/

def CLAP_CTL_RELEASE : Row := ⟨.clap, 0x040, 1, 0x0, 1, 0x0, 0, 0, 1, .w1s, .val 0, false⟩
def CLAP_CTL_SAFE_CLR : Row := ⟨.clap, 0x040, 1, 0x0, 1, 0x0, 0, 1, 1, .w1s, .val 0, false⟩
def CLAP_CFG_SPLIT_OK : Row := ⟨.clap, 0x044, 1, 0x0, 1, 0x0, 0, 0, 1, .rwl, .val 0, false⟩
def CLAP_CFG_MON_SAFE : Row := ⟨.clap, 0x044, 1, 0x0, 1, 0x0, 0, 1, 1, .rwl, .val 0, false⟩
def CLAP_CFG_SAFE_HOLD : Row := ⟨.clap, 0x044, 1, 0x0, 1, 0x0, 0, 8, 8, .rwl, .val 40, false⟩
def CLAP_STAT_STATE : Row := ⟨.clap, 0x048, 1, 0x0, 1, 0x0, 0, 0, 3, .ro, .val 0, false⟩
def CLAP_STAT_HOLDER : Row := ⟨.clap, 0x048, 1, 0x0, 1, 0x0, 0, 3, 1, .ro, .val 0, false⟩
def CLAP_STAT_SAFE : Row := ⟨.clap, 0x048, 1, 0x0, 1, 0x0, 0, 4, 1, .ro, .val 0, false⟩
def CLAP_STAT_MON_READY : Row := ⟨.clap, 0x048, 1, 0x0, 1, 0x0, 0, 5, 1, .ro, .val 0, false⟩
def CLAP_STAT_MISSED : Row := ⟨.clap, 0x048, 1, 0x0, 1, 0x0, 0, 6, 2, .ro, .val 0, false⟩
def CLAP_STAT_CAUSE : Row := ⟨.clap, 0x048, 1, 0x0, 1, 0x0, 0, 8, 4, .ro, .val 0, false⟩
def CLAP_EPOCH : Row := ⟨.clap, 0x04C, 1, 0x0, 1, 0x0, 0, 0, 32, .ro, .val 0, false⟩
def CLAP_FLOOR : Row := ⟨.clap, 0x050, 1, 0x0, 1, 0x0, 0, 0, 32, .ro, .val 0, false⟩
def CLAP_ABDICATE : Row := ⟨.clap, 0x07C, 1, 0x0, 1, 0x0, 0, 0, 1, .wo, .val 0, false⟩
def CLAP_HOLD_REL : Row := ⟨.clap, 0x080, 1, 0x0, 1, 0x0, 0, 0, 1, .wo, .val 0, false⟩
def CLAP_PASSES : Row := ⟨.clap, 0x084, 1, 0x0, 1, 0x0, 0, 0, 32, .ro, .val 0, false⟩
def CLAP_LAPSES : Row := ⟨.clap, 0x088, 1, 0x0, 1, 0x0, 0, 0, 32, .ro, .val 0, false⟩
def CLAP_SAFE_ENTRIES : Row := ⟨.clap, 0x08C, 1, 0x0, 1, 0x0, 0, 0, 32, .ro, .val 0, false⟩
def CLAP_MON_REQS : Row := ⟨.clap, 0x090, 1, 0x0, 1, 0x0, 0, 0, 32, .ro, .val 0, false⟩
def CLAP_HB : Row := ⟨.clap, 0x054, 2, 0x4, 1, 0x0, 0, 0, 1, .wo, .val 0, false⟩
def CLAP_LIVE : Row := ⟨.clap, 0x05C, 2, 0x4, 1, 0x0, 0, 0, 1, .wo, .val 0, false⟩
def CLAP_CLAIM : Row := ⟨.clap, 0x064, 2, 0x4, 1, 0x0, 0, 0, 32, .wo, .val 0, false⟩
def CLAP_CONFIRM : Row := ⟨.clap, 0x06C, 2, 0x4, 1, 0x0, 0, 0, 32, .wo, .val 0, false⟩
def CLAP_SAFE_REQ : Row := ⟨.clap, 0x074, 2, 0x4, 1, 0x0, 0, 0, 1, .wo, .val 0, false⟩

/-! CD_ID page fields: spec/ chapter 17. -/

def CD_ID_STEP : Row := ⟨.cdId, 0x048, 1, 0x0, 1, 0x0, 0, 0, 4, .ro, .val 0, true⟩
def CD_ID_BIN : Row := ⟨.cdId, 0x048, 1, 0x0, 1, 0x0, 0, 8, 4, .ro, .val 0, true⟩
def CD_ID_INDEX : Row := ⟨.cdId, 0x048, 1, 0x0, 1, 0x0, 0, 16, 2, .ro, .val 0, false⟩
def CD_ID_SVC : Row := ⟨.cdId, 0x048, 1, 0x0, 1, 0x0, 0, 20, 1, .ro, .val 0, false⟩
def CD_ID_SERIAL_LO : Row := ⟨.cdId, 0x040, 1, 0x0, 1, 0x0, 0, 0, 32, .ro, .val 0, true⟩
def CD_ID_SERIAL_HI : Row := ⟨.cdId, 0x044, 1, 0x0, 1, 0x0, 0, 0, 32, .ro, .val 0, true⟩

/-! SCH page fields: spec/ chapter 03, 05. -/

def SCH_DISPATCH_CTX_BUSY : Row := ⟨.sch, 0x040, 1, 0x0, 1, 0x0, 0, 0, 16, .ro, .val 0, false⟩
def SCH_DISPATCH_SB_USED : Row := ⟨.sch, 0x040, 1, 0x0, 1, 0x0, 0, 16, 7, .ro, .val 0, false⟩
def SCH_SLEEP_ACT : Row := ⟨.sch, 0x044, 1, 0x0, 1, 0x0, 0, 0, 16, .ro, .val 0, false⟩
def SCH_SLEEP_PEND : Row := ⟨.sch, 0x048, 1, 0x0, 1, 0x0, 0, 0, 16, .rwl, .val 0, false⟩
def SCH_BRUSH_FRAC : Row := ⟨.sch, 0x04C, 1, 0x0, 1, 0x0, 0, 0, 7, .rwl, .val 60, false⟩
def SCH_PAIR_MISM : Row := ⟨.sch, 0x050, 1, 0x0, 1, 0x0, 0, 0, 32, .ro, .val 0, false⟩
def SCH_STALL_TOK : Row := ⟨.sch, 0x054, 1, 0x0, 1, 0x0, 0, 0, 32, .ro, .val 0, false⟩
def SCH_GROUP_PEND : Row := ⟨.sch, 0x100, 256, 0x4, 1, 0x0, 0, 0, 16, .rwl, .val 0, false⟩
def SCH_GROUP_ACT : Row := ⟨.sch, 0x500, 256, 0x4, 1, 0x0, 0, 0, 16, .ro, .val 0, false⟩
def SCH_KV_STALE : Row := ⟨.sch, 0x058, 1, 0x0, 1, 0x0, 0, 0, 32, .ro, .val 0, false⟩
def SCH_ATTN_LEN : Row := ⟨.sch, 0x05C, 1, 0x0, 1, 0x0, 0, 0, 32, .ro, .val 0, false⟩
def SCH_KV_SEED_LO : Row := ⟨.sch, 0x060, 4, 0x8, 1, 0x0, 0, 0, 32, .rwl, .val 0, false⟩
def SCH_KV_SEED_HI : Row := ⟨.sch, 0x064, 4, 0x8, 1, 0x0, 0, 0, 32, .rwl, .val 0, false⟩

/-! POOL page fields: spec/ chapter 17. -/

def POOL_ECC_CORR : Row := ⟨.pool, 0x040, 1, 0x0, 1, 0x0, 0, 0, 32, .ro, .val 0, false⟩
def POOL_UNCORR : Row := ⟨.pool, 0x044, 1, 0x0, 1, 0x0, 0, 0, 32, .ro, .val 0, false⟩
def POOL_LRN_DENIED : Row := ⟨.pool, 0x048, 1, 0x0, 1, 0x0, 0, 0, 32, .ro, .val 0, false⟩

/-! SPARE page fields: spec/ chapter 03. -/

def SPARE_MAP : Row := ⟨.spare, 0x040, 4, 0x4, 1, 0x0, 0, 0, 32, .ro, .byI [0x83828180, 0x87868584, 0x8B8A8988, 0x8F8E8D8C], true⟩
def SPARE_STAT_BAD : Row := ⟨.spare, 0x050, 1, 0x0, 1, 0x0, 0, 0, 18, .ro, .val 0, true⟩
def SPARE_STAT_LEFT : Row := ⟨.spare, 0x050, 1, 0x0, 1, 0x0, 0, 24, 2, .ro, .val 2, true⟩
def SPARE_STAT_EXHAUSTED : Row := ⟨.spare, 0x050, 1, 0x0, 1, 0x0, 0, 26, 1, .ro, .val 0, true⟩
def SPARE_PENDING_BUSY : Row := ⟨.spare, 0x054, 1, 0x0, 1, 0x0, 0, 0, 1, .ro, .val 0, false⟩
def SPARE_PENDING_LOGICAL : Row := ⟨.spare, 0x054, 1, 0x0, 1, 0x0, 0, 8, 4, .ro, .val 0, false⟩
def SPARE_PENDING_PHYS : Row := ⟨.spare, 0x054, 1, 0x0, 1, 0x0, 0, 16, 5, .ro, .val 0, false⟩
def SPARE_TEST_INT : Row := ⟨.spare, 0x058, 1, 0x0, 1, 0x0, 0, 0, 8, .rwl, .val 24, false⟩

/-! MSC page fields: spec/ chapter 10. -/

def MSC_STAT_LEVEL : Row := ⟨.msc, 0x040, 1, 0x0, 1, 0x0, 0, 0, 2, .ro, .val 0, false⟩
def MSC_STAT_FAILED : Row := ⟨.msc, 0x040, 1, 0x0, 1, 0x0, 0, 2, 1, .ro, .val 0, false⟩
def MSC_STAT_OCC : Row := ⟨.msc, 0x040, 1, 0x0, 1, 0x0, 0, 16, 11, .ro, .val 0, false⟩
def MSC_T3 : Row := ⟨.msc, 0x048, 1, 0x0, 1, 0x0, 0, 0, 10, .rw, .val 960, false⟩
def MSC_ECC_CORR : Row := ⟨.msc, 0x04C, 1, 0x0, 1, 0x0, 0, 0, 32, .ro, .val 0, false⟩
def MSC_LINK_RETRY : Row := ⟨.msc, 0x050, 1, 0x0, 1, 0x0, 0, 0, 32, .ro, .val 0, false⟩
def MSC_UNCORR : Row := ⟨.msc, 0x054, 1, 0x0, 1, 0x0, 0, 0, 32, .ro, .val 0, false⟩
def MSC_DL_LATE : Row := ⟨.msc, 0x058, 1, 0x0, 1, 0x0, 0, 0, 32, .ro, .val 0, false⟩
def MSC_SKEW : Row := ⟨.msc, 0x05C, 1, 0x0, 1, 0x0, 0, 0, 32, .ro, .val 0, false⟩
def MSC_SCRUB_H : Row := ⟨.msc, 0x060, 1, 0x0, 1, 0x0, 0, 0, 8, .rwl, .val 24, false⟩
def MSC_T1 : Row := ⟨.msc, 0x044, 1, 0x0, 1, 0x0, 0, 0, 10, .rw, .val 512, false⟩
def MSC_T2 : Row := ⟨.msc, 0x044, 1, 0x0, 1, 0x0, 0, 16, 10, .rw, .val 768, false⟩

/-! QNT page fields: spec/ chapter 04. -/

def QNT_INIT_REQ : Row := ⟨.qnt, 0x040, 1, 0x0, 1, 0x0, 0, 1, 15, .w1s, .val 0, false⟩
def QNT_MERGE : Row := ⟨.qnt, 0x044, 1, 0x0, 1, 0x0, 0, 1, 15, .rwl, .val 0, false⟩
def QNT_SET_ERR : Row := ⟨.qnt, 0x048, 1, 0x0, 1, 0x0, 0, 1, 15, .ro, .val 0, false⟩
def QNT_SAT_CNT : Row := ⟨.qnt, 0x04C, 1, 0x0, 1, 0x0, 0, 0, 32, .ro, .val 0, false⟩
def QNT_NAN_CNT : Row := ⟨.qnt, 0x050, 1, 0x0, 1, 0x0, 0, 0, 32, .ro, .val 0, false⟩
def QNT_INF_CNT : Row := ⟨.qnt, 0x054, 1, 0x0, 1, 0x0, 0, 0, 32, .ro, .val 0, false⟩
def QNT_ALARM_CNT : Row := ⟨.qnt, 0x058, 1, 0x0, 1, 0x0, 0, 0, 32, .ro, .val 0, false⟩
def QNT_CFG_WIN : Row := ⟨.qnt, 0x080, 16, 0x10, 1, 0x0, 1, 0, 5, .rwl, .val 8, false⟩
def QNT_CFG_MODE : Row := ⟨.qnt, 0x080, 16, 0x10, 1, 0x0, 1, 5, 1, .rwl, .val 0, false⟩
def QNT_CFG_POW2 : Row := ⟨.qnt, 0x080, 16, 0x10, 1, 0x0, 1, 6, 1, .rwl, .val 0, false⟩
def QNT_CFG_ENABLE : Row := ⟨.qnt, 0x080, 16, 0x10, 1, 0x0, 1, 7, 1, .rwl, .val 0, false⟩
def QNT_CFG_MARGIN : Row := ⟨.qnt, 0x080, 16, 0x10, 1, 0x0, 1, 8, 8, .rwl, .val 0, false⟩
def QNT_CFG_CLIP_THR : Row := ⟨.qnt, 0x080, 16, 0x10, 1, 0x0, 1, 16, 16, .rwl, .val 328, false⟩
def QNT_ALLOC_BASE : Row := ⟨.qnt, 0x084, 16, 0x10, 1, 0x0, 1, 0, 12, .rwl, .val 0, false⟩
def QNT_ALLOC_LEN : Row := ⟨.qnt, 0x084, 16, 0x10, 1, 0x0, 1, 16, 13, .rwl, .val 0, false⟩
def QNT_S_MIN : Row := ⟨.qnt, 0x088, 16, 0x10, 1, 0x0, 1, 0, 32, .rwl, .val 897581056, false⟩
def QNT_SEL_ENGINE : Row := ⟨.qnt, 0x200, 1, 0x0, 1, 0x0, 0, 0, 4, .rw, .val 0, false⟩
def QNT_SEL_SET : Row := ⟨.qnt, 0x200, 1, 0x0, 1, 0x0, 0, 4, 4, .rw, .val 0, false⟩
def QNT_SEL_CHANNEL : Row := ⟨.qnt, 0x200, 1, 0x0, 1, 0x0, 0, 8, 12, .rw, .val 0, false⟩
def QNT_SEL_SCALE : Row := ⟨.qnt, 0x204, 1, 0x0, 1, 0x0, 0, 0, 32, .ro, .val 0, false⟩
def QNT_SEL_MAX : Row := ⟨.qnt, 0x208, 1, 0x0, 1, 0x0, 0, 0, 32, .ro, .val 0, false⟩
def QNT_SEL_LAST : Row := ⟨.qnt, 0x20C, 1, 0x0, 1, 0x0, 0, 0, 16, .ro, .val 0, false⟩
def QNT_SEL_CLIP : Row := ⟨.qnt, 0x210, 1, 0x0, 1, 0x0, 0, 0, 32, .ro, .val 0, false⟩
def QNT_SEL_TOTAL : Row := ⟨.qnt, 0x214, 1, 0x0, 1, 0x0, 0, 0, 32, .ro, .val 0, false⟩
def QNT_SEL_STATE : Row := ⟨.qnt, 0x218, 1, 0x0, 1, 0x0, 0, 0, 2, .ro, .val 0, false⟩
def QNT_SEL_FILLED : Row := ⟨.qnt, 0x218, 1, 0x0, 1, 0x0, 0, 8, 5, .ro, .val 0, false⟩
def QNT_SUM_OVER : Row := ⟨.qnt, 0x21C, 1, 0x0, 1, 0x0, 0, 0, 13, .ro, .val 0, false⟩
def QNT_SUM_WORST : Row := ⟨.qnt, 0x220, 1, 0x0, 1, 0x0, 0, 0, 12, .ro, .val 0, false⟩
def QNT_SUM_SHARE : Row := ⟨.qnt, 0x220, 1, 0x0, 1, 0x0, 0, 16, 16, .ro, .val 0, false⟩

/-! SPEC page fields: spec/ chapter 06. -/

def SPEC_STAT_BUSY : Row := ⟨.spec, 0x040, 1, 0x0, 1, 0x0, 0, 0, 1, .ro, .val 0, false⟩
def SPEC_STAT_ENGINE : Row := ⟨.spec, 0x040, 1, 0x0, 1, 0x0, 0, 4, 4, .ro, .val 0, false⟩
def SPEC_STAT_TILE : Row := ⟨.spec, 0x040, 1, 0x0, 1, 0x0, 0, 16, 16, .ro, .val 0, false⟩
def SPEC_DONE : Row := ⟨.spec, 0x044, 1, 0x0, 1, 0x0, 0, 0, 32, .ro, .val 0, false⟩
def SPEC_TILES : Row := ⟨.spec, 0x048, 1, 0x0, 1, 0x0, 0, 0, 32, .ro, .val 0, false⟩
def SPEC_ECC_CORR : Row := ⟨.spec, 0x04C, 1, 0x0, 1, 0x0, 0, 0, 32, .ro, .val 0, false⟩
def SPEC_ABANDONED : Row := ⟨.spec, 0x050, 1, 0x0, 1, 0x0, 0, 0, 32, .ro, .val 0, false⟩
def SPEC_BUSY_CLK : Row := ⟨.spec, 0x054, 1, 0x0, 1, 0x0, 0, 0, 32, .ro, .val 0, false⟩

/-! WLKD page fields: spec/ chapter 01. -/

def WLKD_ID_INDEX : Row := ⟨.wlkd, 0x040, 1, 0x0, 1, 0x0, 0, 0, 2, .ro, .val 0, false⟩
def WLKD_ID_ASSIGNED : Row := ⟨.wlkd, 0x040, 1, 0x0, 1, 0x0, 0, 8, 1, .ro, .val 0, false⟩

/-! PE page fields: spec/ chapter 03, 05, 06, 10. -/

def PE_ENG_STAT_STATE : Row := ⟨.pe, 0x040, 1, 0x0, 1, 0x0, 0, 0, 3, .ro, .val 0, false⟩
def PE_ENG_STAT_PHYS : Row := ⟨.pe, 0x040, 1, 0x0, 1, 0x0, 0, 8, 5, .ro, .inst, true⟩
def PE_ENG_STAT_QUEUED : Row := ⟨.pe, 0x040, 1, 0x0, 1, 0x0, 0, 16, 2, .ro, .val 0, false⟩
def PE_ENG_STAT_PART : Row := ⟨.pe, 0x040, 1, 0x0, 1, 0x0, 0, 28, 4, .ro, .val 0, false⟩
def PE_ENG_EPOCH : Row := ⟨.pe, 0x044, 1, 0x0, 1, 0x0, 0, 0, 32, .ro, .val 0, false⟩
def PE_ENG_WORK : Row := ⟨.pe, 0x048, 1, 0x0, 1, 0x0, 0, 0, 32, .ro, .val 0, false⟩
def PE_ENG_BRUSH : Row := ⟨.pe, 0x04C, 1, 0x0, 1, 0x0, 0, 0, 32, .ro, .val 0, false⟩
def PE_ENG_DONE : Row := ⟨.pe, 0x050, 1, 0x0, 1, 0x0, 0, 0, 32, .ro, .val 0, false⟩
def PE_ENG_STALE : Row := ⟨.pe, 0x054, 1, 0x0, 1, 0x0, 0, 0, 32, .ro, .val 0, false⟩
def PE_ENG_ECC : Row := ⟨.pe, 0x058, 1, 0x0, 1, 0x0, 0, 0, 32, .ro, .val 0, false⟩
def PE_ENG_FAULT_CAUSE : Row := ⟨.pe, 0x05C, 1, 0x0, 1, 0x0, 0, 0, 4, .ro, .val 0, false⟩
def PE_ENG_TEST_RUN : Row := ⟨.pe, 0x060, 1, 0x0, 1, 0x0, 0, 0, 1, .w1s, .val 0, false⟩
def PE_ENG_TEST_DONE : Row := ⟨.pe, 0x060, 1, 0x0, 1, 0x0, 0, 1, 1, .ro, .val 0, false⟩
def PE_ENG_TEST_PASS : Row := ⟨.pe, 0x060, 1, 0x0, 1, 0x0, 0, 2, 1, .ro, .val 0, false⟩
def PE_ATTN_TILES : Row := ⟨.pe, 0x064, 1, 0x0, 1, 0x0, 0, 0, 32, .ro, .val 0, false⟩
def PE_KV_SEALS : Row := ⟨.pe, 0x068, 1, 0x0, 1, 0x0, 0, 0, 32, .ro, .val 0, false⟩
def PE_LINE_WAIT : Row := ⟨.pe, 0x06C, 1, 0x0, 1, 0x0, 0, 0, 32, .ro, .val 0, false⟩
def PE_TILE_XPART : Row := ⟨.pe, 0x070, 1, 0x0, 1, 0x0, 0, 0, 32, .ro, .val 0, false⟩

/-! ISL page fields: spec/ chapter 12. -/

def ISL_STAT_MODE : Row := ⟨.isl, 0x040, 1, 0x0, 1, 0x0, 0, 0, 1, .ro, .val 0, true⟩
def ISL_STAT_HOLD : Row := ⟨.isl, 0x040, 1, 0x0, 1, 0x0, 0, 1, 1, .ro, .val 0, false⟩
def ISL_STAT_FAULTED : Row := ⟨.isl, 0x040, 1, 0x0, 1, 0x0, 0, 2, 1, .ro, .val 0, false⟩
def ISL_STAT_SAFE : Row := ⟨.isl, 0x040, 1, 0x0, 1, 0x0, 0, 3, 1, .ro, .val 0, false⟩
def ISL_STAT_VALID : Row := ⟨.isl, 0x040, 1, 0x0, 1, 0x0, 0, 4, 1, .ro, .val 0, false⟩
def ISL_STAT_FAULT_CAUSE : Row := ⟨.isl, 0x040, 1, 0x0, 1, 0x0, 0, 8, 4, .ro, .val 0, false⟩
def ISL_CTL_VALID_EN : Row := ⟨.isl, 0x044, 1, 0x0, 1, 0x0, 0, 0, 1, .rw, .val 0, false⟩
def ISL_CTL_HOLD_DROP : Row := ⟨.isl, 0x044, 1, 0x0, 1, 0x0, 0, 1, 1, .w1s, .val 0, false⟩
def ISL_CTL_SAFE_REQ : Row := ⟨.isl, 0x044, 1, 0x0, 1, 0x0, 0, 2, 1, .w1s, .val 0, false⟩
def ISL_CTL_RESTART : Row := ⟨.isl, 0x044, 1, 0x0, 1, 0x0, 0, 3, 1, .w1s, .val 0, false⟩
def ISL_CTL_AUTO_RESTART : Row := ⟨.isl, 0x044, 1, 0x0, 1, 0x0, 0, 4, 1, .rwl, .val 1, false⟩
def ISL_WDOG : Row := ⟨.isl, 0x048, 1, 0x0, 1, 0x0, 0, 0, 16, .rwl, .val 1000, false⟩
def ISL_WATCH_ENABLE : Row := ⟨.isl, 0x080, 16, 0x10, 1, 0x0, 0, 0, 1, .rwl, .val 0, false⟩
def ISL_WATCH_SAFETY : Row := ⟨.isl, 0x080, 16, 0x10, 1, 0x0, 0, 1, 1, .rwl, .val 0, false⟩
def ISL_WATCH_PART : Row := ⟨.isl, 0x080, 16, 0x10, 1, 0x0, 0, 2, 4, .rwl, .val 0, false⟩
def ISL_WATCH_STROKE : Row := ⟨.isl, 0x080, 16, 0x10, 1, 0x0, 0, 6, 12, .rwl, .val 4095, false⟩
def ISL_WATCH_PAIR_N : Row := ⟨.isl, 0x080, 16, 0x10, 1, 0x0, 0, 18, 4, .rwl, .val 3, false⟩
def ISL_WATCH_CLIP_N : Row := ⟨.isl, 0x080, 16, 0x10, 1, 0x0, 0, 22, 4, .rwl, .val 8, false⟩
def ISL_WATCH_AGE_LIMIT : Row := ⟨.isl, 0x084, 16, 0x10, 1, 0x0, 0, 0, 24, .rwl, .val 26000, false⟩
def ISL_WATCH_DATA_AGE_MAX : Row := ⟨.isl, 0x088, 16, 0x10, 1, 0x0, 0, 0, 24, .rwl, .val 40000, false⟩
def ISL_WATCH_STATE : Row := ⟨.isl, 0x08C, 16, 0x10, 1, 0x0, 0, 0, 2, .ro, .val 0, false⟩
def ISL_WATCH_PAIR_RUN : Row := ⟨.isl, 0x08C, 16, 0x10, 1, 0x0, 0, 8, 4, .ro, .val 0, false⟩
def ISL_WATCH_CLIP_RUN : Row := ⟨.isl, 0x08C, 16, 0x10, 1, 0x0, 0, 12, 4, .ro, .val 0, false⟩
def ISL_CAN_NBR : Row := ⟨.isl, 0x200, 2, 0x40, 1, 0x0, 0, 0, 10, .rwl, .val 500, false⟩
def ISL_CAN_DBR : Row := ⟨.isl, 0x200, 2, 0x40, 1, 0x0, 0, 16, 14, .rwl, .val 2000, false⟩
def ISL_CAN_STAT_ID : Row := ⟨.isl, 0x204, 2, 0x40, 1, 0x0, 0, 0, 29, .rwl, .val 0, false⟩
def ISL_CAN_STAT_IDE : Row := ⟨.isl, 0x204, 2, 0x40, 1, 0x0, 0, 31, 1, .rwl, .val 0, false⟩
def ISL_CAN_SSF_ID : Row := ⟨.isl, 0x208, 2, 0x40, 1, 0x0, 0, 0, 29, .rwl, .val 0, false⟩
def ISL_CAN_SSF_IDE : Row := ⟨.isl, 0x208, 2, 0x40, 1, 0x0, 0, 31, 1, .rwl, .val 0, false⟩
def ISL_CAN_STAT_PERIOD : Row := ⟨.isl, 0x20C, 2, 0x40, 1, 0x0, 0, 0, 8, .rwl, .val 10, false⟩
def ISL_CAN_SSF_PERIOD : Row := ⟨.isl, 0x20C, 2, 0x40, 1, 0x0, 0, 8, 8, .rwl, .val 10, false⟩
def ISL_CAN_TEC : Row := ⟨.isl, 0x210, 2, 0x40, 1, 0x0, 0, 0, 9, .ro, .val 0, false⟩
def ISL_CAN_BUS_OFF : Row := ⟨.isl, 0x210, 2, 0x40, 1, 0x0, 0, 16, 1, .ro, .val 0, false⟩
def ISL_CAN_SSF_SENT : Row := ⟨.isl, 0x214, 2, 0x40, 1, 0x0, 0, 0, 32, .ro, .val 0, false⟩
def ISL_CAN_SSF_LATE : Row := ⟨.isl, 0x218, 2, 0x40, 1, 0x0, 0, 0, 32, .ro, .val 0, false⟩
def ISL_SVN : Row := ⟨.isl, 0x050, 1, 0x0, 1, 0x0, 0, 0, 32, .ro, .val 0, true⟩

/-! PORT page fields: spec/ chapter 01. -/

def PORT_P_STAT_STATE : Row := ⟨.port, 0x080, 6, 0x20, 1, 0x0, 0, 0, 3, .ro, .val 0, false⟩
def PORT_P_STAT_NO_SPARE : Row := ⟨.port, 0x080, 6, 0x20, 1, 0x0, 0, 3, 1, .ro, .val 0, false⟩
def PORT_P_STAT_TX_SPARE_BAD : Row := ⟨.port, 0x080, 6, 0x20, 1, 0x0, 0, 4, 2, .ro, .val 0, false⟩
def PORT_P_STAT_RX_SPARE_BAD : Row := ⟨.port, 0x080, 6, 0x20, 1, 0x0, 0, 6, 2, .ro, .val 0, false⟩
def PORT_P_STAT_PEER_DIE : Row := ⟨.port, 0x080, 6, 0x20, 1, 0x0, 0, 16, 8, .ro, .val 0, false⟩
def PORT_P_STAT_PEER_PORT : Row := ⟨.port, 0x080, 6, 0x20, 1, 0x0, 0, 24, 8, .ro, .val 0, false⟩
def PORT_P_REPAIR_TX_A : Row := ⟨.port, 0x084, 6, 0x20, 1, 0x0, 0, 0, 6, .ro, .val 0, true⟩
def PORT_P_REPAIR_TX_A_V : Row := ⟨.port, 0x084, 6, 0x20, 1, 0x0, 0, 6, 1, .ro, .val 0, true⟩
def PORT_P_REPAIR_TX_B : Row := ⟨.port, 0x084, 6, 0x20, 1, 0x0, 0, 8, 6, .ro, .val 0, true⟩
def PORT_P_REPAIR_TX_B_V : Row := ⟨.port, 0x084, 6, 0x20, 1, 0x0, 0, 14, 1, .ro, .val 0, true⟩
def PORT_P_REPAIR_RX_A : Row := ⟨.port, 0x084, 6, 0x20, 1, 0x0, 0, 16, 6, .ro, .val 0, true⟩
def PORT_P_REPAIR_RX_A_V : Row := ⟨.port, 0x084, 6, 0x20, 1, 0x0, 0, 22, 1, .ro, .val 0, true⟩
def PORT_P_REPAIR_RX_B : Row := ⟨.port, 0x084, 6, 0x20, 1, 0x0, 0, 24, 6, .ro, .val 0, true⟩
def PORT_P_REPAIR_RX_B_V : Row := ⟨.port, 0x084, 6, 0x20, 1, 0x0, 0, 30, 1, .ro, .val 0, true⟩
def PORT_P_ERR_REPLAYS : Row := ⟨.port, 0x088, 6, 0x20, 1, 0x0, 0, 0, 16, .ro, .val 0, false⟩
def PORT_P_ERR_LAST_WIRE : Row := ⟨.port, 0x088, 6, 0x20, 1, 0x0, 0, 16, 6, .ro, .val 0, false⟩
def PORT_P_WSEL_WIRE : Row := ⟨.port, 0x090, 6, 0x20, 1, 0x0, 0, 0, 6, .rw, .val 0, false⟩
def PORT_P_WCNT_TOTAL : Row := ⟨.port, 0x094, 6, 0x20, 1, 0x0, 0, 0, 16, .ro, .val 0, false⟩
def PORT_P_WCNT_WINDOW : Row := ⟨.port, 0x094, 6, 0x20, 1, 0x0, 0, 16, 8, .ro, .val 0, false⟩
def PORT_P_LOOP_MODE : Row := ⟨.port, 0x098, 6, 0x20, 1, 0x0, 0, 0, 2, .rw, .val 0, false⟩
def PORT_P_LOOP_RUN : Row := ⟨.port, 0x098, 6, 0x20, 1, 0x0, 0, 2, 1, .w1s, .val 0, false⟩
def PORT_P_LOOP_DONE : Row := ⟨.port, 0x098, 6, 0x20, 1, 0x0, 0, 3, 1, .ro, .val 0, false⟩
def PORT_P_LOOP_PASS : Row := ⟨.port, 0x098, 6, 0x20, 1, 0x0, 0, 4, 1, .ro, .val 0, false⟩
def PORT_P_LOOP_FAIL_WIRE : Row := ⟨.port, 0x098, 6, 0x20, 1, 0x0, 0, 16, 7, .ro, .val 0, false⟩

/-! HDR page fields: spec/ chapter 17. -/

def HDR_PAGE_ID_DIE : Row := ⟨.hdr, 0x000, 1, 0x0, 1, 0x0, 0, 0, 8, .ro, .die, true⟩
def HDR_PAGE_ID_INSTANCE : Row := ⟨.hdr, 0x000, 1, 0x0, 1, 0x0, 0, 8, 8, .ro, .inst, true⟩
def HDR_PAGE_ID_TYPE : Row := ⟨.hdr, 0x000, 1, 0x0, 1, 0x0, 0, 16, 16, .ro, .type, true⟩
def HDR_PAGE_VER : Row := ⟨.hdr, 0x004, 1, 0x0, 1, 0x0, 0, 0, 16, .ro, .val 0x0100, true⟩
def HDR_PAGE_CTL_SOFT_RESET : Row := ⟨.hdr, 0x00C, 1, 0x0, 1, 0x0, 0, 1, 1, .w1s, .val 0, false⟩
def HDR_PAGE_CTL_FREEZE : Row := ⟨.hdr, 0x00C, 1, 0x0, 1, 0x0, 0, 2, 1, .rw, .val 0, false⟩
def HDR_INT_STAT_BLOCK : Row := ⟨.hdr, 0x014, 1, 0x0, 1, 0x0, 0, 0, 31, .w1c, .val 0, false⟩
def HDR_INT_STAT_ERR : Row := ⟨.hdr, 0x014, 1, 0x0, 1, 0x0, 0, 31, 1, .w1c, .val 0, false⟩
def HDR_INT_EN : Row := ⟨.hdr, 0x018, 1, 0x0, 1, 0x0, 0, 0, 32, .rw, .val 0, false⟩
def HDR_INT_FORCE : Row := ⟨.hdr, 0x01C, 1, 0x0, 1, 0x0, 0, 0, 32, .wo, .val 0, false⟩
def HDR_ERR_STAT_VALID : Row := ⟨.hdr, 0x020, 1, 0x0, 1, 0x0, 0, 0, 1, .w1c, .val 0, false⟩
def HDR_ERR_STAT_MULTI : Row := ⟨.hdr, 0x020, 1, 0x0, 1, 0x0, 0, 1, 1, .w1c, .val 0, false⟩
def HDR_ERR_ADDR : Row := ⟨.hdr, 0x024, 1, 0x0, 1, 0x0, 0, 0, 32, .ro, .val 0, false⟩
def HDR_ERR_INFO_FIRST : Row := ⟨.hdr, 0x028, 1, 0x0, 1, 0x0, 0, 0, 8, .ro, .val 0, false⟩
def HDR_ERR_INFO_LAST : Row := ⟨.hdr, 0x028, 1, 0x0, 1, 0x0, 0, 8, 8, .ro, .val 0, false⟩
def HDR_ERR_INFO_PART : Row := ⟨.hdr, 0x028, 1, 0x0, 1, 0x0, 0, 16, 8, .ro, .val 255, false⟩
def HDR_ERR_CNT : Row := ⟨.hdr, 0x02C, 1, 0x0, 1, 0x0, 0, 0, 32, .ro, .val 0, false⟩
def HDR_SCRATCH : Row := ⟨.hdr, 0x038, 1, 0x0, 1, 0x0, 0, 0, 32, .rw, .val 0, false⟩
def HDR_PAGE_CAP_GATE : Row := ⟨.hdr, 0x008, 1, 0x0, 1, 0x0, 0, 0, 1, .ro, .cap 0, true⟩
def HDR_PAGE_CAP_SRST : Row := ⟨.hdr, 0x008, 1, 0x0, 1, 0x0, 0, 1, 1, .ro, .cap 1, true⟩
def HDR_PAGE_CAP_OWNED : Row := ⟨.hdr, 0x008, 1, 0x0, 1, 0x0, 0, 2, 1, .ro, .cap 2, true⟩
def HDR_PAGE_CAP_MIRROR : Row := ⟨.hdr, 0x008, 1, 0x0, 1, 0x0, 0, 3, 1, .ro, .cap 3, true⟩
def HDR_PAGE_CTL_ENABLE : Row := ⟨.hdr, 0x00C, 1, 0x0, 1, 0x0, 0, 0, 1, .rwl, .val 1, false⟩
def HDR_PAGE_STAT_BUSY : Row := ⟨.hdr, 0x010, 1, 0x0, 1, 0x0, 0, 0, 1, .ro, .val 0, false⟩
def HDR_PAGE_STAT_GATED : Row := ⟨.hdr, 0x010, 1, 0x0, 1, 0x0, 0, 1, 1, .ro, .val 0, false⟩
def HDR_PAGE_STAT_RESETTING : Row := ⟨.hdr, 0x010, 1, 0x0, 1, 0x0, 0, 2, 1, .ro, .val 0, false⟩
def HDR_PAGE_STAT_LOCKED : Row := ⟨.hdr, 0x010, 1, 0x0, 1, 0x0, 0, 3, 1, .ro, .val 0, false⟩
def HDR_PAGE_STAT_FROZEN : Row := ⟨.hdr, 0x010, 1, 0x0, 1, 0x0, 0, 4, 1, .ro, .val 0, false⟩
def HDR_LOCK : Row := ⟨.hdr, 0x030, 1, 0x0, 1, 0x0, 0, 0, 1, .lock, .val 0, false⟩
def HDR_OWNER : Row := ⟨.hdr, 0x034, 1, 0x0, 1, 0x0, 0, 0, 8, .rwl, .val 255, false⟩

/-- All fields of the HUB_ID block. -/
def rowsHUB_ID : List Row :=
  [HUB_ID_PART_PART_NUM, HUB_ID_PART_VARIANT, HUB_ID_PART_STEP, HUB_ID_STRAP_PCIE_RP, HUB_ID_RST_CAUSE_KA_POR, HUB_ID_RST_CAUSE_TRIP, HUB_ID_RST_CTL, HUB_ID_WDOG_PERIOD, HUB_ID_WDOG_KICK, HUB_ID_BOOT_STAT_STAGE, HUB_ID_BOOT_STAT_STOPPED, HUB_ID_BOOT_STAT_DIE_SVC, HUB_ID_BOOT_MS, HUB_ID_SERIAL_LO, HUB_ID_SERIAL_HI, HUB_ID_RST_CAUSE_PORST, HUB_ID_RST_CAUSE_COLD_SW, HUB_ID_RST_CAUSE_WARM_SW, HUB_ID_RST_CAUSE_WDOG, HUB_ID_BOOT_STAT_SLOT, HUB_ID_BOOT_STAT_FALLBACK, HUB_ID_BOOT_STAT_SI_A, HUB_ID_BOOT_STAT_SI_B]
/-- All fields of the CLK block. -/
def rowsCLK : List Row :=
  [CLK_STAT_REF_OK, CLK_STAT_CD_LOCK, CLK_REF_PPM, CLK_UNLOCKS, CLK_STAT_HUB_LOCK, CLK_STAT_CORE_LOCK]
/-- All fields of the CYC block. -/
def rowsCYC : List Row :=
  [CYC_CTL_RUN, CYC_CTL_SRC, CYC_CTL_EDGE, CYC_CTL_HOLD_MAX, CYC_PERIOD_NOM_PERIOD, CYC_STAT_STATE, CYC_STAT_MISSED, CYC_STAT_TICK, CYC_BAR_LO, CYC_BAR_HI, CYC_PHASE_ERR, CYC_PERIOD_EST, CYC_ORIGIN_LO, CYC_ORIGIN_HI, CYC_DISPLACED]
/-- All fields of the SEQ block. -/
def rowsSEQ : List Row :=
  [SEQ_TBL_CTL_LOAD, SEQ_TBL_CTL_ADMIT, SEQ_TBL_CTL_SWAP, SEQ_TBL_CTL_CANCEL, SEQ_TBL_CTL_STOP, SEQ_TBL_CTL_CHECK_ONLY, SEQ_TBL_STAT_SEQ_STATE, SEQ_TBL_STAT_SHADOW, SEQ_TBL_STAT_ISL_PENDING, SEQ_TBL_STAT_CORE_PENDING, SEQ_TBL_STAT_FB_PENDING, SEQ_TBL_STAT_ACTIVE_LEN, SEQ_SHADOW_SRC, SEQ_SHADOW_LEN, SEQ_ISL_SWAP, SEQ_EPOCH, SEQ_FB_SRC, SEQ_FB_STAMP, SEQ_MARK_BASE, SEQ_MARK_WR, SEQ_OVERRUN, SEQ_MISSED]
/-- All fields of the ADM block. -/
def rowsADM : List Row :=
  [ADM_DONE, ADM_PASS, ADM_CODE, ADM_INDEX, ADM_STAMP, ADM_CFG_GEN, ADM_MIN_SLACK, ADM_MIN_INDEX, ADM_OPT_T, ADM_LRN_CTL_QUIET_ONLY, ADM_LS_LS_EXP, ADM_LS_LS_MIN, ADM_LS_LS_MAX, ADM_GROWTH_GROWTH, ADM_GROWTH_CLEAN, ADM_OPT_STAT_SKIP, ADM_OPT_SKIPS, ADM_ENV_SKIPS, ADM_LREG_BASE, ADM_LREG_LEN, ADM_LREG_CTL_STATE, ADM_LREG_CTL_GRP, ADM_LREG_CTL_TORN, ADM_LREG_CTL_CKPT_BUSY, ADM_LREG_CTL_GEN, ADM_LREG_CTL_OPEN, ADM_LREG_CTL_FREEZE, ADM_LREG_CTL_RESTORE, ADM_LREG_CTL_OFF, ADM_LREG_CTL_CKPT, ADM_LREG_CTL_LAST_ERR, ADM_LREG_CTL_CAUSE, ADM_LREG_VET, ADM_LREG_DIGEST, ADM_LREG_FORMAT, ADM_LREG_BIND_LO, ADM_LREG_BIND_HI, ADM_LREG_GEN_CUR, ADM_LREG_GEN_PREV]
/-- All fields of the ING block. -/
def rowsING : List Row :=
  [ING_CTL_ENABLE, ING_CTL_KIND, ING_CTL_LTIME, ING_CTL_NEED_SYNC, ING_SRC_PORT, ING_SRC_VC, ING_SRC_DT, ING_SRC_PX, ING_SRC_PY, ING_SRC_LAYOUT, ING_SRC_FMT, ING_BLACK, ING_GAIN, ING_LINE_MAX, ING_BUF_BASE, ING_BUF_LEN, ING_SIDE_BASE, ING_FS_LATE, ING_FLAT_N, ING_FLAT_THR, ING_EARLY_N, ING_TS_BAD_N, ING_FILTER_ETHERTYPE, ING_FILTER_VLAN_ID, ING_UDP_PORT, ING_BLKPKT, ING_TS_TS_OFF, ING_TS_TS_FMT, ING_TS_TS_TOL, ING_STAT_HEALTH, ING_STAT_USABLE, ING_STAT_BAR_HEALTH, ING_STAT_BAR_USABLE, ING_STAT_POS, ING_FRAME_VERDICT, ING_FRAME_FN, ING_FRAMES, ING_PKT_ERR, ING_LINE_SLOW, ING_DROPPED] ++
  [ING_REPEATS, ING_TS_BAD, ING_FN_SKIPS, ING_HEALTH_LIVE, ING_HEALTH_BAR, ING_HEALTH_BARNO, ING_GEOM_WIDTH, ING_GEOM_HEIGHT, ING_LOSS_N, ING_RECOVER_N, ING_FRZ_N, ING_FILTER_VLAN_EN, ING_FILTER_UDP_EN]
/-- All fields of the ALN block. -/
def rowsALN : List Row :=
  [ALN_CTL_TC_SRC, ALN_CTL_REF_STREAM, ALN_TC_OFF, ALN_DESKEW_MAX, ALN_EXT_MAX, ALN_PT_MAX, ALN_PT_DROP, ALN_TIMEOUTS, ALN_SLOT_STREAM, ALN_SLOT_KIND, ALN_SLOT_FRAME, ALN_SLOT_WAIT, ALN_SLOT_NCH, ALN_SLOT_NEED, ALN_SLOT_PAY_OFF, ALN_SLOT_PSCALE, ALN_COV_SECTORS, ALN_COV_MOD, ALN_DEG_STEP, ALN_DEG_RAW, ALN_DEG_UP_N]
/-- All fields of the PRJ block. -/
def rowsPRJ : List Row :=
  [PRJ_CAM_STREAM, PRJ_CAM_DIV, PRJ_CAM_OUT, PRJ_F, PRJ_CAM_M, PRJ_CAM_K]
/-- All fields of the EGO block. -/
def rowsEGO : List Row :=
  [EGO_NP, EGO_RMAX, EGO_FAIL_N, EGO_PRED, EGO_PRED_EN, EGO_REF_MIN, EGO_STATUS, EGO_FAIL_RUN, EGO_FAILS, EGO_NT, EGO_NR, EGO_STEP_T, EGO_STEP_R, EGO_ZLO, EGO_ZHI, EGO_SCORE_MIN, EGO_DECAY, EGO_HIT, EGO_SPD_CH, EGO_YAW_CH, EGO_MOTION]
/-- All fields of the GRD block. -/
def rowsGRD : List Row :=
  [GRD_NZ, GRD_CF, GRD_LAYOUT, GRD_FMT, GRD_WB, GRD_FEAT, GRD_STRIDE, GRD_SCALE, GRD_X0, GRD_Y0, GRD_ZB0, GRD_ZSTEP]
/-- All fields of the ASG block. -/
def rowsASG : List Row :=
  [ASG_CTL_U_COST, ASG_CTL_AGN, ASG_RDET, ASG_CMAX, ASG_MAX_DET, ASG_EDGES, ASG_GATE_TRUNC, ASG_GREEDY_COMP]
/-- All fields of the TRK block. -/
def rowsTRK : List Row :=
  [TRK_CTL_EMIT_TENT, TRK_CTL_OWNER, TRK_CAP, TRK_BIRTH_THR, TRK_DECAY, TRK_NEXT_ID, TRK_LIVE, TRK_ALPHA, TRK_BETA, TRK_GAMMA, TRK_GV, TRK_QP, TRK_QV, TRK_S0, TRK_SMIN, TRK_SIG_MAX, TRK_CONF_M, TRK_CONF_N, TRK_TENT_MISS, TRK_MISS_MAX, TRK_FULL, TRK_FLUSHES]
/-- All fields of the PPU block. -/
def rowsPPU : List Row :=
  [PPU_STAT_BUSY, PPU_STAT_JOB, PPU_LAST_CAND, PPU_LAST_KEPT, PPU_JOBS, PPU_CAPPED, PPU_TRUNC, PPU_NONFINITE, PPU_FAILED]
/-- All fields of the COL block. -/
def rowsCOL : List Row :=
  [COL_TXQ_MACS, COL_TXQ_QUEUE, COL_TXQ_REC_PER_FRAME, COL_STALE, COL_Q_STALL, COL_DST_MAC_LO, COL_DST_MAC_HI, COL_VLAN_ID, COL_VLAN_EN, COL_SRC_IP, COL_DST_IP, COL_SRC_PORT, COL_DST_PORT, COL_BATCHES, COL_INVALID]
/-- All fields of the PRT block. -/
def rowsPRT : List Row :=
  [PRT_CTL_ENABLE, PRT_CTL_RESET, PRT_CTL_HOLD, PRT_CTL_REJOIN_N, PRT_CTL_CLASS, PRT_CTL_OVR_LIMIT, PRT_STAT_STATE, PRT_STAT_CAUSE, PRT_STAT_RESETS, PRT_QUOTA, PRT_REQ_DL, PRT_OVERRUN, PRT_MISSED, PRT_ISL_RESET, PRT_WIN_BASE, PRT_WIN_LEN, PRT_WIN_WR, PRT_WIN_VALID]
/-- All fields of the ACCT block. -/
def rowsACCT : List Row :=
  [ACCT_CTL_MODE, ACCT_SEL_PART, ACCT_SEL_VIEW, ACCT_OVERRUNS, ACCT_RESETS, ACCT_V_REF, ACCT_ENG_NS_LO, ACCT_ENG_NS_HI, ACCT_BRUSH_NS_LO, ACCT_BRUSH_NS_HI, ACCT_STACK_LO, ACCT_STACK_HI, ACCT_POOL_LO, ACCT_POOL_HI, ACCT_ENERGY_UJ_LO, ACCT_ENERGY_UJ_HI, ACCT_MBYTES_LO, ACCT_MBYTES_HI, ACCT_K]
/-- All fields of the BWREG block. -/
def rowsBWREG : List Row :=
  [BWREG_CTL_COMMIT, BWREG_CTL_L1_CLASS, BWREG_STAT_COMMIT, BWREG_STAT_FAIL_STACK, BWREG_RATE, BWREG_M_WIN, BWREG_M_CLASS, BWREG_M_DL, BWREG_M_MIN, BWREG_M_MAX, BWREG_M_USED, BWREG_M_HELD, BWREG_MP_CLASS]
/-- All fields of the MBX block. -/
def rowsMBX : List Row :=
  [MBX_ROUTE_SENDER, MBX_ROUTE_RECEIVER, MBX_WARN_LEVEL, MBX_WARN_LOST, MBX_OVW, MBX_DATA, MBX_FULL, MBX_FREE_PEND, MBX_WROUTE_SENDER, MBX_WROUTE_RECEIVER]
/-- All fields of the INTC block. -/
def rowsINTC : List Row :=
  [INTC_PEND, INTC_CLAIM, INTC_COMPLETE, INTC_THRESH, INTC_ROUTE_CTX, INTC_ROUTE_PRIO, INTC_ROUTE_VEC]
/-- All fields of the CORE block. -/
def rowsCORE : List Row :=
  [CORE_RUN, CORE_WFI, CORE_RVEC_LO, CORE_RVEC_HI]
/-- All fields of the PMC block. -/
def rowsPMC : List Row :=
  [PMC_CTL_SHED_EN, PMC_VIN_MV, PMC_VIN_CUR, PMC_P_DEV, PMC_EFF, PMC_E_VIN_LO, PMC_E_VIN_HI, PMC_E_RAIL_LO, PMC_E_RAIL_HI]
/-- All fields of the VRC block. -/
def rowsVRC : List Row :=
  [VRC_STAT_GOOD, VRC_STAT_ACTIVE, VRC_STAT_STATE, VRC_VSET, VRC_VSNS, VRC_IRAIL, VRC_ILIM, VRC_PH_SEL, VRC_PH_IMON, VRC_PH_TEMP, VRC_PH_FAIL, VRC_DROOPS, VRC_LOSSES]
/-- All fields of the THM block. -/
def rowsTHM : List Row :=
  [THM_MS_T, THM_WARM_EN, THM_WARM_FLOOR_C, THM_COOL_FLOW, THM_COOL_STATE, THM_RTHS_WARN, THM_RTHS_FLEET, THM_CYC, THM_TJ_MAX, THM_TJ_MIN, THM_COOL_T_IN, THM_COOL_T_OUT, THM_COOL_INLET_HI, THM_COOL_DERATE_W, THM_COOL_FLOW_MIN, THM_COOL_DT_MAX, THM_I3C_ADDR_IN, THM_I3C_ADDR_OUT, THM_I3C_ADDR_FLOW, THM_I3C_REG_IN, THM_I3C_REG_OUT, THM_I3C_REG_FLOW, THM_RTH, THM_RTH_REF]
/-- All fields of the DVFS block. -/
def rowsDVFS : List Row :=
  [DVFS_OPC_REQ, DVFS_OPC_FLOOR_PEND, DVFS_OPC_FLOOR, DVFS_OPC_ACT, DVFS_OPC_TOP, DVFS_OPC_BREACH, DVFS_THR_ACT, DVFS_OP_FREQ, DVFS_VT_V_TEST, DVFS_VT_OFFSET, DVFS_VT_RETIRED, DVFS_AGE_MARGIN, DVFS_AGE_MARGIN_MIN, DVFS_AGE_OFFSET_MAX, DVFS_AGE_DROOP_MV, DVFS_AGE_RAISES, DVFS_PMAX, DVFS_HUB_W, DVFS_THR_US_LO, DVFS_THR_US_HI]
/-- All fields of the CAP block. -/
def rowsCAP : List Row :=
  [CAP_ENV_REQ, CAP_ENV_ISL, CAP_STAT_ENV, CAP_VEH_1MS, CAP_AUX_W, CAP_SHIFT_W, CAP_OPMAX, CAP_COOL_LIM, CAP_BUDGET, CAP_OVERS, CAP_STAT_CORE_PEND, CAP_STAT_ISL_PEND, CAP_LIM, CAP_P]
/-- All fields of the LDG block. -/
def rowsLDG : List Row :=
  [LDG_STAT_STATE, LDG_STAT_FOLDING, LDG_STAT_COMMIT_OK, LDG_QUEUE, LDG_JOURNAL, LDG_RESERVE, LDG_WCNT_MAX, LDG_RETIRED, LDG_TORN, LDG_DROPPED, LDG_ABANDONED, LDG_FLUSHES, LDG_RECOVERY_US, LDG_FW_TYPE, LDG_FW_KEY, LDG_FW_DONE, LDG_FW_ERR, LDG_FW_BUF, LDG_FW_LEN, LDG_FW_CODE, LDG_BOOT_ACTIVE, LDG_BOOT_TRIAL, LDG_BOOT_TRIES, LDG_BOOT_TRIAL_MAX, LDG_BOOT_SVN, LDG_SEQ_LO, LDG_SEQ_HI, LDG_FW_WRITE, LDG_FW_READ, LDG_FW_ENTRY, LDG_BOOT_CTL_TRIAL, LDG_BOOT_CTL_CONFIRM, LDG_BOOT_CTL_CANCEL]
/-- All fields of the HLD block. -/
def rowsHLD : List Row :=
  [HLD_STAT_STATE, HLD_STAT_DEGRADED, HLD_STAT_CHARGE, HLD_V_HOLD, HLD_I_MEAS, HLD_E_USABLE, HLD_E_VOLT, HLD_E_CNT, HLD_E_FULL, HLD_C_RATED, HLD_C_MEAS, HLD_V_TGT, HLD_I_CHG, HLD_LEAK, HLD_T_CHG_MAX, HLD_CTL_CLR_DEG, HLD_CHARGES, HLD_REMOVALS]
/-- All fields of the DLK block. -/
def rowsDLK : List Row :=
  [DLK_CTL_ENUM, DLK_CTL_TSRC, DLK_CTL_LINKS, DLK_STAT_STATE, DLK_STAT_INDEX, DLK_STAT_INDEX_V, DLK_STAT_UP, DLK_STAT_MEMBERS, DLK_WAIT_US, DLK_L_STATE, DLK_L_WIDTH, DLK_L_REPLAYS, DLK_L_LAT, DLK_XB_EN, DLK_XB_PART, DLK_SH_EN, DLK_SH_PERIOD, DLK_SH_STEP, DLK_SH_MAX, DLK_SH_EXCHANGES, DLK_CP_LOCAL, DLK_IN_BASE, DLK_IN_LEN, DLK_CTL_ENABLE, DLK_CTL_ROOT, DLK_HOPS, DLK_UPLINK, DLK_REACH, DLK_FENCED, DLK_L_PEER, DLK_L_PEER_LINK, DLK_XB_MEMB, DLK_XB_SKEW, DLK_XB_AT_LATEST, DLK_XB_STAT_LATE, DLK_XB_STAT_DISCARD, DLK_CP_REMOTE, DLK_CP_LEN, DLK_CP_DEST, DLK_CP_GO] ++
  [DLK_CP_DIR, DLK_CP_NOTIFY, DLK_CP_DONE, DLK_CP_ERR, DLK_IN_WR, DLK_IN_VALID]
/-- All fields of the UCI block. -/
def rowsUCI : List Row :=
  [UCI_CTL_START, UCI_STAT_STATE, UCI_STAT_CAUSE, UCI_PARTNER_ID, UCI_PWR_LIMIT_LIMIT]
/-- All fields of the WLK block. -/
def rowsWLK : List Row :=
  [WLK_CENSUS_PRESENT, WLK_CENSUS_DOWN, WLK_CENSUS_DONE, WLK_CENSUS_MISMATCH]
/-- All fields of the PCIE block. -/
def rowsPCIE : List Row :=
  [PCIE_STAT_ROOT, PCIE_STAT_WIDTH, PCIE_STAT_GEN, PCIE_STAT_LINK_UP, PCIE_IB_BASE, PCIE_IB_LEN, PCIE_IB_MSI, PCIE_DMA_DEV, PCIE_DMA_LEN, PCIE_DMA_GO, PCIE_DMA_DIR, PCIE_DMA_DONE, PCIE_DMA_ERR, PCIE_DMA_HOST_LO, PCIE_DMA_HOST_HI]
/-- All fields of the ETH block. -/
def rowsETH : List Row :=
  [ETH_PTP_CTL_ENABLE, ETH_PTP_CTL_ROLE, ETH_PTP_CTL_BMCA, ETH_PTP_CTL_PORTS, ETH_PTP_CTL_DOMAIN, ETH_PTP_CTL_SYNC_LOSS, ETH_PTP_STAT_STATE, ETH_PTP_STAT_RX_PORT, ETH_PTP_OFFSET, ETH_MDIO_C45, ETH_MDIO_OP, ETH_MDIO_DATA, ETH_MAC_LINK, ETH_MAC_SPEED, ETH_QBV_COMMIT, ETH_QBV_PENDING, ETH_QBV_EN, ETH_PTP_SET_LO, ETH_PTP_SET_HI, ETH_LAT_RX, ETH_LAT_TX, ETH_MDIO_PRTAD, ETH_MDIO_DEVAD, ETH_MDIO_GO, ETH_MDIO_DONE, ETH_MAC_ADDR_LO, ETH_MAC_ADDR_HI, ETH_MAC_RX_FRAMES, ETH_MAC_RX_FCS, ETH_MAC_TX_FRAMES, ETH_QBV_BASE_LO, ETH_QBV_BASE_HI, ETH_QBV_LEN, ETH_QBV_GATES, ETH_QBV_INTERVAL]
/-- All fields of the SEC block. -/
def rowsSEC : List Row :=
  [SEC_LC_STATE, SEC_LC_PENDING, SEC_KEYS_HYBRID, SEC_LC_TOKEN, SEC_LC_REQ_TARGET, SEC_LC_REQ_GO, SEC_REVOKE, SEC_IMG_KEY, SEC_IMG_MLDSA, SEC_IMG_SVN, SEC_STAT_DUS_LOCKED, SEC_MEAS, SEC_KEYS_OWNER, SEC_KEYS_REVOKED]
/-- All fields of the DBG block. -/
def rowsDBG : List Row :=
  [DBG_UART_DIV, DBG_UART_FRAC, DBG_MAL_SESSION, DBG_MAL_OFF, DBG_RX_ERR]
/-- All fields of the CLAP block. -/
def rowsCLAP : List Row :=
  [CLAP_CTL_RELEASE, CLAP_CTL_SAFE_CLR, CLAP_CFG_SPLIT_OK, CLAP_CFG_MON_SAFE, CLAP_CFG_SAFE_HOLD, CLAP_STAT_STATE, CLAP_STAT_HOLDER, CLAP_STAT_SAFE, CLAP_STAT_MON_READY, CLAP_STAT_MISSED, CLAP_STAT_CAUSE, CLAP_EPOCH, CLAP_FLOOR, CLAP_ABDICATE, CLAP_HOLD_REL, CLAP_PASSES, CLAP_LAPSES, CLAP_SAFE_ENTRIES, CLAP_MON_REQS, CLAP_HB, CLAP_LIVE, CLAP_CLAIM, CLAP_CONFIRM, CLAP_SAFE_REQ]
/-- All fields of the CD_ID block. -/
def rowsCD_ID : List Row :=
  [CD_ID_STEP, CD_ID_BIN, CD_ID_INDEX, CD_ID_SVC, CD_ID_SERIAL_LO, CD_ID_SERIAL_HI]
/-- All fields of the SCH block. -/
def rowsSCH : List Row :=
  [SCH_DISPATCH_CTX_BUSY, SCH_DISPATCH_SB_USED, SCH_SLEEP_ACT, SCH_SLEEP_PEND, SCH_BRUSH_FRAC, SCH_PAIR_MISM, SCH_STALL_TOK, SCH_GROUP_PEND, SCH_GROUP_ACT, SCH_KV_STALE, SCH_ATTN_LEN, SCH_KV_SEED_LO, SCH_KV_SEED_HI]
/-- All fields of the POOL block. -/
def rowsPOOL : List Row :=
  [POOL_ECC_CORR, POOL_UNCORR, POOL_LRN_DENIED]
/-- All fields of the SPARE block. -/
def rowsSPARE : List Row :=
  [SPARE_MAP, SPARE_STAT_BAD, SPARE_STAT_LEFT, SPARE_STAT_EXHAUSTED, SPARE_PENDING_BUSY, SPARE_PENDING_LOGICAL, SPARE_PENDING_PHYS, SPARE_TEST_INT]
/-- All fields of the MSC block. -/
def rowsMSC : List Row :=
  [MSC_STAT_LEVEL, MSC_STAT_FAILED, MSC_STAT_OCC, MSC_T3, MSC_ECC_CORR, MSC_LINK_RETRY, MSC_UNCORR, MSC_DL_LATE, MSC_SKEW, MSC_SCRUB_H, MSC_T1, MSC_T2]
/-- All fields of the QNT block. -/
def rowsQNT : List Row :=
  [QNT_INIT_REQ, QNT_MERGE, QNT_SET_ERR, QNT_SAT_CNT, QNT_NAN_CNT, QNT_INF_CNT, QNT_ALARM_CNT, QNT_CFG_WIN, QNT_CFG_MODE, QNT_CFG_POW2, QNT_CFG_ENABLE, QNT_CFG_MARGIN, QNT_CFG_CLIP_THR, QNT_ALLOC_BASE, QNT_ALLOC_LEN, QNT_S_MIN, QNT_SEL_ENGINE, QNT_SEL_SET, QNT_SEL_CHANNEL, QNT_SEL_SCALE, QNT_SEL_MAX, QNT_SEL_LAST, QNT_SEL_CLIP, QNT_SEL_TOTAL, QNT_SEL_STATE, QNT_SEL_FILLED, QNT_SUM_OVER, QNT_SUM_WORST, QNT_SUM_SHARE]
/-- All fields of the SPEC block. -/
def rowsSPEC : List Row :=
  [SPEC_STAT_BUSY, SPEC_STAT_ENGINE, SPEC_STAT_TILE, SPEC_DONE, SPEC_TILES, SPEC_ECC_CORR, SPEC_ABANDONED, SPEC_BUSY_CLK]
/-- All fields of the WLKD block. -/
def rowsWLKD : List Row :=
  [WLKD_ID_INDEX, WLKD_ID_ASSIGNED]
/-- All fields of the PE block. -/
def rowsPE : List Row :=
  [PE_ENG_STAT_STATE, PE_ENG_STAT_PHYS, PE_ENG_STAT_QUEUED, PE_ENG_STAT_PART, PE_ENG_EPOCH, PE_ENG_WORK, PE_ENG_BRUSH, PE_ENG_DONE, PE_ENG_STALE, PE_ENG_ECC, PE_ENG_FAULT_CAUSE, PE_ENG_TEST_RUN, PE_ENG_TEST_DONE, PE_ENG_TEST_PASS, PE_ATTN_TILES, PE_KV_SEALS, PE_LINE_WAIT, PE_TILE_XPART]
/-- All fields of the ISL block. -/
def rowsISL : List Row :=
  [ISL_STAT_MODE, ISL_STAT_HOLD, ISL_STAT_FAULTED, ISL_STAT_SAFE, ISL_STAT_VALID, ISL_STAT_FAULT_CAUSE, ISL_CTL_VALID_EN, ISL_CTL_HOLD_DROP, ISL_CTL_SAFE_REQ, ISL_CTL_RESTART, ISL_CTL_AUTO_RESTART, ISL_WDOG, ISL_WATCH_ENABLE, ISL_WATCH_SAFETY, ISL_WATCH_PART, ISL_WATCH_STROKE, ISL_WATCH_PAIR_N, ISL_WATCH_CLIP_N, ISL_WATCH_AGE_LIMIT, ISL_WATCH_DATA_AGE_MAX, ISL_WATCH_STATE, ISL_WATCH_PAIR_RUN, ISL_WATCH_CLIP_RUN, ISL_CAN_NBR, ISL_CAN_DBR, ISL_CAN_STAT_ID, ISL_CAN_STAT_IDE, ISL_CAN_SSF_ID, ISL_CAN_SSF_IDE, ISL_CAN_STAT_PERIOD, ISL_CAN_SSF_PERIOD, ISL_CAN_TEC, ISL_CAN_BUS_OFF, ISL_CAN_SSF_SENT, ISL_CAN_SSF_LATE, ISL_SVN]
/-- All fields of the PORT block. -/
def rowsPORT : List Row :=
  [PORT_P_STAT_STATE, PORT_P_STAT_NO_SPARE, PORT_P_STAT_TX_SPARE_BAD, PORT_P_STAT_RX_SPARE_BAD, PORT_P_STAT_PEER_DIE, PORT_P_STAT_PEER_PORT, PORT_P_REPAIR_TX_A, PORT_P_REPAIR_TX_A_V, PORT_P_REPAIR_TX_B, PORT_P_REPAIR_TX_B_V, PORT_P_REPAIR_RX_A, PORT_P_REPAIR_RX_A_V, PORT_P_REPAIR_RX_B, PORT_P_REPAIR_RX_B_V, PORT_P_ERR_REPLAYS, PORT_P_ERR_LAST_WIRE, PORT_P_WSEL_WIRE, PORT_P_WCNT_TOTAL, PORT_P_WCNT_WINDOW, PORT_P_LOOP_MODE, PORT_P_LOOP_RUN, PORT_P_LOOP_DONE, PORT_P_LOOP_PASS, PORT_P_LOOP_FAIL_WIRE]
/-- All fields of the HDR block. -/
def rowsHDR : List Row :=
  [HDR_PAGE_ID_DIE, HDR_PAGE_ID_INSTANCE, HDR_PAGE_ID_TYPE, HDR_PAGE_VER, HDR_PAGE_CTL_SOFT_RESET, HDR_PAGE_CTL_FREEZE, HDR_INT_STAT_BLOCK, HDR_INT_STAT_ERR, HDR_INT_EN, HDR_INT_FORCE, HDR_ERR_STAT_VALID, HDR_ERR_STAT_MULTI, HDR_ERR_ADDR, HDR_ERR_INFO_FIRST, HDR_ERR_INFO_LAST, HDR_ERR_INFO_PART, HDR_ERR_CNT, HDR_SCRATCH, HDR_PAGE_CAP_GATE, HDR_PAGE_CAP_SRST, HDR_PAGE_CAP_OWNED, HDR_PAGE_CAP_MIRROR, HDR_PAGE_CTL_ENABLE, HDR_PAGE_STAT_BUSY, HDR_PAGE_STAT_GATED, HDR_PAGE_STAT_RESETTING, HDR_PAGE_STAT_LOCKED, HDR_PAGE_STAT_FROZEN, HDR_LOCK, HDR_OWNER]

/-- The fields of a page kind, its header apart. -/
def rowsOf : Blk → List Row
  | .hubId => rowsHUB_ID
  | .clk => rowsCLK
  | .cyc => rowsCYC
  | .seq => rowsSEQ
  | .adm => rowsADM
  | .ing => rowsING
  | .aln => rowsALN
  | .prj => rowsPRJ
  | .ego => rowsEGO
  | .grd => rowsGRD
  | .asg => rowsASG
  | .trk => rowsTRK
  | .ppu => rowsPPU
  | .col => rowsCOL
  | .prt => rowsPRT
  | .acct => rowsACCT
  | .bwreg => rowsBWREG
  | .mbx => rowsMBX
  | .intc => rowsINTC
  | .core => rowsCORE
  | .pmc => rowsPMC
  | .vrc => rowsVRC
  | .thm => rowsTHM
  | .dvfs => rowsDVFS
  | .cap => rowsCAP
  | .ldg => rowsLDG
  | .hld => rowsHLD
  | .dlk => rowsDLK
  | .uci => rowsUCI
  | .wlk => rowsWLK
  | .pcie => rowsPCIE
  | .eth => rowsETH
  | .sec => rowsSEC
  | .dbg => rowsDBG
  | .clap => rowsCLAP
  | .cdId => rowsCD_ID
  | .sch => rowsSCH
  | .pool => rowsPOOL
  | .spare => rowsSPARE
  | .msc => rowsMSC
  | .qnt => rowsQNT
  | .spec => rowsSPEC
  | .wlkd => rowsWLKD
  | .pe => rowsPE
  | .isl => rowsISL
  | .port => rowsPORT
  | .hdr => rowsHDR

end Reg

end Sys2Proof.Machine
end

