-- ==== Sys2Proof/Machine/Sparse.lean ====
section
/-! DEFINITION. Sparse maps held as plain data: a list of (key, value) pairs in one canonical form, its keys strictly
rising and no entry equal to what an unlisted key reads as. The register file and the memory are such maps. -/

namespace Sys2Proof.Machine

variable {α : Type} [DecidableEq α]

/-- What key `k` holds: its entry, else what the map's default gives that key. -/
def sparseGet (d : Nat → α) : List (Nat × α) → Nat → α
  | [], k => d k
  | (a, x) :: r, k => if a = k then x else sparseGet d r k

/-- Put an entry in its place by key, replacing the one that stands there. -/
def sparseInsert : List (Nat × α) → Nat → α → List (Nat × α)
  | [], k, v => [(k, v)]
  | (a, x) :: r, k, v =>
    if k < a then (k, v) :: (a, x) :: r
    else if k = a then (k, v) :: r
    else (a, x) :: sparseInsert r k v

/-- The entries whose key is not `k`. -/
def sparseErase (m : List (Nat × α)) (k : Nat) : List (Nat × α) := m.filter (fun e => decide (e.1 ≠ k))

/-- Write `v` at key `k`: a value equal to the default is kept by listing nothing. -/
def sparsePut (d : Nat → α) (m : List (Nat × α)) (k : Nat) (v : α) : List (Nat × α) :=
  if v = d k then sparseErase m k else sparseInsert m k v

/-- Do the keys rise strictly, from above `lo`. -/
def sparseRising : Nat → List (Nat × α) → Bool
  | _, [] => true
  | lo, (a, _) :: r => decide (lo ≤ a) && sparseRising (a + 1) r

/-- The canonical form: keys strictly rising, no entry equal to the default of its key. -/
def sparseWf (d : Nat → α) (m : List (Nat × α)) : Bool :=
  sparseRising 0 m && m.all (fun e => decide (e.2 ≠ d e.1))

end Sys2Proof.Machine
end

