-- ==== Sys2Proof/Machine/Pages.lean ====
section
/-! DEFINITION. The register pages: where each stands in the control region, its block type, instance, die code and
capabilities (R440, R444), and the word that each of its offsets holds after reset (R15). -/

namespace Sys2Proof.Machine

open Sys2Proof

/-- Base address of a page (the control address regions of R11's chapter). -/
def pageBase : Page → Nat
  | .hub n => 0x40000000 + n * 0x1000
  | .cd d n => 0x50000000 + d * 0x1000000 + n * 0x1000
  | .isl i => 0x60000000 + i * 0x1000000
  | .wlki i => 0x60001000 + i * 0x1000000

/-- The page and offset of a control address; `none` outside the regions, and in an island window outside its two
pages. A hub or die page may still be one that R440 does not list. -/
def pageOfAddr (a : Nat) : Option (Page × Nat) :=
  if a < 0x40000000 then none
  else if a < 0x50000000 then some (.hub ((a - 0x40000000) / 0x1000), a % 0x1000)
  else if a < 0x54000000 then
    some (.cd ((a - 0x50000000) / 0x1000000) (a % 0x1000000 / 0x1000), a % 0x1000)
  else if a < 0x60000000 then none
  else if a < 0x60001000 then some (.isl 0, a % 0x1000)
  else if a < 0x60002000 then some (.wlki 0, a % 0x1000)
  else if a < 0x61000000 then none
  else if a < 0x61001000 then some (.isl 1, a % 0x1000)
  else if a < 0x61002000 then some (.wlki 1, a % 0x1000)
  else none

/-- The block behind a page (R440); `none` for a page number that no table lists. A window ME_k is listed as an
engine page: R441 says on which slot's page the access is performed. -/
def blkOf : Page → Option Blk
  | .hub n =>
    if n = 0 then some .hubId else if n = 1 then some .clk else if n = 2 then some .cyc else if n = 3 then some .seq
    else if n = 4 then some .adm
    else if 8 ≤ n ∧ n ≤ 0x1F then some .ing
    else if n = 0x20 then some .aln else if n = 0x21 then some .prj else if n = 0x22 then some .ego
    else if n = 0x23 then some .grd else if n = 0x24 then some .asg else if n = 0x25 then some .trk
    else if n = 0x26 then some .ppu else if n = 0x27 then some .col
    else if n = 0x30 then some .prt else if n = 0x31 then some .acct else if n = 0x32 then some .bwreg
    else if n = 0x33 then some .mbx else if n = 0x34 then some .intc else if n = 0x35 then some .core
    else if n = 0x40 then some .pmc else if 0x41 ≤ n ∧ n ≤ 0x45 then some .vrc else if n = 0x46 then some .thm
    else if n = 0x47 then some .dvfs else if n = 0x48 then some .cap
    else if n = 0x50 then some .ldg else if n = 0x51 then some .hld
    else if n = 0x58 then some .dlk else if n = 0x59 then some .uci else if n = 0x5A then some .wlk
    else if n = 0x5B then some .pcie else if n = 0x5C then some .eth
    else if n = 0x60 then some .sec else if n = 0x61 then some .dbg else if n = 0x62 then some .clap
    else none
  | .cd _ n =>
    if n = 0 then some .cdId else if n = 1 then some .sch else if n = 2 then some .pool else if n = 3 then some .spare
    else if n = 4 then some .msc else if n = 5 then some .qnt else if n = 6 then some .spec
    else if n = 7 then some .wlkd
    else if 0x10 ≤ n ∧ n ≤ 0x1F then some .pe
    else if 0x20 ≤ n ∧ n ≤ 0x31 then some .pe
    else none
  | .isl i => if i < 2 then some .isl else none
  | .wlki i => if i < 2 then some .wlk else none

/-- The block type word of PAGE_ID (R440). -/
def typeCode : Blk → Nat
  | .hubId => 0x0001 | .clk => 0x0002 | .cyc => 0x0003 | .seq => 0x0004 | .adm => 0x0005 | .ing => 0x0008
  | .aln => 0x0010 | .prj => 0x0011 | .ego => 0x0012 | .grd => 0x0013 | .asg => 0x0014 | .trk => 0x0015
  | .ppu => 0x0016 | .col => 0x0017 | .prt => 0x0020 | .acct => 0x0021 | .bwreg => 0x0022 | .mbx => 0x0023
  | .intc => 0x0024 | .core => 0x0025 | .pmc => 0x0030 | .vrc => 0x0031 | .thm => 0x0032 | .dvfs => 0x0033
  | .cap => 0x0034 | .ldg => 0x0038 | .hld => 0x0039 | .dlk => 0x0040 | .uci => 0x0041 | .wlk => 0x0042
  | .pcie => 0x0043 | .eth => 0x0044 | .sec => 0x0048 | .dbg => 0x0049 | .clap => 0x004A | .cdId => 0x0080
  | .sch => 0x0081 | .pool => 0x0082 | .spare => 0x0083 | .msc => 0x0084 | .qnt => 0x0085 | .spec => 0x0086
  | .wlkd => 0x0087 | .pe => 0x0088 | .isl => 0x00C0 | .port => 0 | .hdr => 0

/-- The capabilities of a block's pages: bit 0 G, 1 S, 2 O, 3 M (R440). -/
def capBits : Blk → Nat
  | .ing | .aln => 6
  | .prj | .grd | .ppu => 7
  | .ego | .asg | .trk => 11
  | .spec => 3
  | .col | .dbg => 2
  | _ => 0

/-- Has the page capability bit `b` (R440). -/
def pageCap (p : Page) (b : Nat) : Bool :=
  match blkOf p with
  | some k => (capBits k).testBit b
  | none => false

/-- The instance number of a page (R440). -/
def pageInst : Page → Nat
  | .hub n => if 8 ≤ n ∧ n ≤ 0x1F then n - 8 else if 0x41 ≤ n ∧ n ≤ 0x45 then n - 0x41 else 0
  | .cd _ n => if 0x20 ≤ n ∧ n ≤ 0x31 then n - 0x20 else 0
  | _ => 0

/-- The die code of a page's die (R19). -/
def pageDie : Page → Nat
  | .hub _ => 0x01
  | .cd d _ => 0x10 + d
  | .isl i => 0x20 + i
  | .wlki i => 0x20 + i

/-- The indices at which a field's word stands at byte offset `off`, if it does. -/
def rowHit (r : Row) (off : Nat) : Option (Nat × Nat) :=
  if off < r.off then none
  else
    let d := off - r.off
    let i := if r.s1 = 0 then 0 else d / r.s1
    let e := if r.s1 = 0 then d else d % r.s1
    let j := if r.s2 = 0 then 0 else e / r.s2
    let f := if r.s2 = 0 then e else e % r.s2
    if r.i0 ≤ i ∧ i < r.n1 ∧ j < r.n2 ∧ f = 0 then some (i, j) else none

/-- The fields a page has, its header apart. The port blocks are part of the WLK, WLKD and WLKI pages, six, three and
one of them; the summary words from 0x0C0 on stand in ING_00 alone. -/
def pageRows (p : Page) : List Row :=
  match p with
  | .hub 0x5A => Reg.rowsWLK ++ Reg.rowsPORT
  | .cd _ 7 => Reg.rowsWLKD ++ Reg.rowsPORT.map (fun r => { r with n1 := 3 })
  | .wlki _ => Reg.rowsPORT.map (fun r => { r with n1 := 1 })
  | .hub 8 => Reg.rowsING
  | p =>
    match blkOf p with
    | some .ing => Reg.rowsING.filter (fun r => decide (r.off < 0xC0))
    | some k => Reg.rowsOf k
    | none => []

/-- The fields that stand at byte offset `off` of a page, each with its indices. -/
def rowsAt (p : Page) (off : Nat) : List (Row × Nat × Nat) :=
  (if off < 0x40 then (if blkOf p = none then [] else Reg.rowsHDR) else pageRows p).filterMap
    (fun r => (rowHit r off).map (fun x => (r, x.1, x.2)))

/-- What a field holds after reset (R15, R444). -/
def fieldReset (p : Page) (r : Row) (i j : Nat) : Nat :=
  match r.rst with
  | .val n => n
  | .byI l => nth0 l i
  | .byJ l => nth0 l j
  | .byInst l => nth0 l (pageInst p)
  | .inst => pageInst p
  | .die => pageDie p
  | .type => match blkOf p with | some k => typeCode k | none => 0
  | .cap b => if pageCap p b then 1 else 0

/-- The word at an offset of a page after reset. -/
def resetWordAt (p : Page) (off : Nat) : Word :=
  BitVec.ofNat 32 ((rowsAt p off).foldl (fun v x => putBits v x.1.lo x.1.w (fieldReset p x.1 x.2.1 x.2.2)) 0)

/-- The word at a control address after reset: what an unlisted register reads as. -/
def resetWord (a : Nat) : Word :=
  match pageOfAddr a with
  | some (p, off) => resetWordAt p off
  | none => 0

/-- The control address of a field's word. -/
def fieldAddr (p : Page) (r : Row) (i j : Nat) : Nat := pageBase p + r.off + i * r.s1 + j * r.s2

/-- Every register page (R440). -/
def allPages : List Page :=
  ((List.range 0x63).map Page.hub ++
   ((List.range 4).map (fun d => (List.range 8 ++ (List.range 18).map (· + 0x20)).map (Page.cd d))).flatten ++
   [Page.isl 0, Page.isl 1, Page.wlki 0, Page.wlki 1]).filter (fun p => blkOf p ≠ none)

end Sys2Proof.Machine
end

