-- ==== Sys2Proof/Machine/State.lean ====
section
/-! DEFINITION. The state of the block as plain data, what its steps can answer besides a next state, and the state
after reset. Registers have one home, the sparse map `regs`; the structures here hold what the spec gives the block
beside its registers. -/

namespace Sys2Proof.Machine

open Sys2Proof

/-- Why a step could stop with a fault. No rule of the spec stops the block, so there is none: safe. -/
inductive Fault where
deriving DecidableEq, Repr

/-- Why a step could be refused. -/
inductive Refusal where
  /-- Raised by an arm of exec whose command has no meaning yet: safe. -/
  | notModelled (mnemonic : String)
deriving DecidableEq, Repr

/-! ### What the block puts out -/

/-- A message between the hub and an island (R319 to R335). -/
inductive IslMsg where
  | offer (epoch : Nat) | deny (epoch : Nat) | grant (epoch : Nat) | revoke | lapsed | ack | error | safe (cause : Nat)
  | notice (n : Notice) | tickFlit (bar health : Nat)
  /-- The notification of an interrupt source (R303). -/
  | mailbox (source : Nat)
deriving DecidableEq, Repr

/-- A message to another device (chapter 15). -/
inductive DlkMsg where
  /-- Enumeration: the index of the device that it reaches, and a serial number reported to the root (R401). -/
  | enumerate (index : Nat)
  | serial (index n : Nat)
  /-- A copy's bytes for a remote address, a request for `len` bytes, and what an inbound access answers: bytes or the code
  of an ERROR (R406, R407). -/
  | write (addr : Nat) (bytes : List Byte) (notify : Bool)
  | read (addr len : Nat) (notify : Bool)
  | response (bytes : List Byte)
  | error (code : Nat)
  | arrive (a : Arrive)
  | status (waitUs : Nat)
  | propose (step : Nat)
  | accept (step : Nat)
  | commit (delta : Int)
  | fence (d : Nat)
deriving DecidableEq, Repr

/-- What the block sends over its links, buses and pins, oldest first in `outbox`. -/
inductive Emission where
  /-- A flit from a W-link port, or from device link l as port 21 + l. -/
  | flit (port : Nat) (f : Flit)
  /-- A REPAIR control flit (R29): wire, spare, switch SEQ. -/
  | repair (port wire spare sw : Nat)
  /-- A DISCOVERY flit with the port number (R35). -/
  | discovery (port : Nat)
  /-- A message to an island. -/
  | island (i : Nat) (m : IslMsg)
  /-- A CAN FD frame from channel `ch` of island `i` (R333, R334). -/
  | can (i ch : Nat) (f : CanFrame)
  /-- A write that island `i` sends to offset `off` of the CLAP page (R313, R323, R330). -/
  | islWrite (i off v : Nat)
  /-- The VALID pair of island `i` (R324). -/
  | valid (i : Nat) (level : Bool)
  /-- An Ethernet frame from MAC `mac`, queue `q`. -/
  | eth (mac q : Nat) (bytes : List Byte)
  /-- Text on UART_MON. -/
  | uart (bytes : List Byte)
  /-- Core k leaves reset at an address, or returns to reset (R293). -/
  | coreRelease (k addr : Nat)
  | coreReset (k : Nat)
  /-- An MSI-X write to the host (R303). -/
  | msix (vec : Nat)
  /-- Bytes written to host memory by a DMA channel (R308). -/
  | hostWrite (addr : Nat) (bytes : List Byte)
  /-- A read of host memory by a DMA channel (R308). -/
  | hostRead (addr len : Nat)
  /-- An MDIO frame (ETH MAC and management registers). -/
  | mdio (c45 : Bool) (op prtad devad data : Nat)
  /-- A message over the device links to device `dest`. -/
  | dlk (dest : Nat) (m : DlkMsg)
  /-- Level of SAFE_N_OUT (R331). -/
  | safeOut (level : Bool)
  /-- The partner port fences: transmitters in electrical idle (R42). -/
  | uciFence
  /-- A gPTP message of a port: kind, time. -/
  | gptp (mac kind : Nat) (args : List Int)
deriving DecidableEq, Repr

/-- What the last access answered. -/
structure Resp where
  /-- The bytes read; for a write, none. -/
  data : List Byte
  /-- Was the access performed. -/
  done : Bool
  /-- Did a PCIe access complete as Completer Abort (R307). -/
  abort : Bool
deriving DecidableEq, Repr

/-- Time, the answers and the free-value counter. -/
structure Io where
  /-- The local oscillator, ns. -/
  now : Nat
  resp : Resp
  outbox : List Emission
  /-- HI words latched by a read of their LO word (R278), by address. -/
  latch : List (Nat × Word)
  /-- Words of frozen pages as they stood when FREEZE was set (R450), by address. -/
  frozen : List (Nat × Word)
  /-- Model's own: how many free values have been drawn. -/
  fresh : Nat
deriving DecidableEq, Repr

/-! ### Wire links (chapter 01) -/

/-- One end of a W-link beside its registers: HP_0 to HP_5 are ports 0 to 5, HUBP, RING_E and RING_W of CD_n are
ports 6 + 3n to 8 + 3n, the island ends of HP_4 and HP_5 are 18 and 19, the partner port is 20 (R40). -/
structure Port where
  /-- SEQ of the next flit to send. -/
  seq : Nat
  /-- SEQ of the last flit received intact. -/
  ack : Nat
  /-- Credits held for sending: request, response, control (R23). -/
  credits : List Nat
  /-- The flits sent and not acknowledged (R27). -/
  replay : List Flit
  /-- How often the flit now expected has failed (R27). -/
  fails : Nat
  /-- Is NAK to be returned. -/
  nak : Bool
  /-- Parity errors of each receive wire since reset, and the instants of those within the last 10 ms. -/
  parity : List (Nat × Nat)
  recent : List (Nat × Nat)
  /-- A repair of the receive direction waiting for its switch SEQ: wire, spare, SEQ. -/
  rxSwitch : Option (Nat × Nat × Nat)
  /-- The same for the send direction. -/
  txSwitch : Option (Nat × Nat × Nat)
  /-- The last flit accepted. -/
  got : Option Flit
  /-- Credits to return: request, response, control. -/
  owed : List Nat
deriving DecidableEq, Repr

/-- A port after reset (R23: 32 request, 32 response and 8 control credits). -/
def Port.fresh : Port := ⟨0, 255, [32, 32, 8], [], 0, false, [], [], none, none, none, [0, 0, 0]⟩

/-- Discovery and stand-alone mode beside the WLK and WLKD registers. -/
structure Links where
  ports : List Port
  /-- Identities answered in discovery, by hub port. -/
  replies : List (Nat × DieReply)
  /-- Ports whose discovery ended. -/
  ended : List Nat
  /-- Dies in stand-alone mode (R47). -/
  alone : List Nat
deriving DecidableEq, Repr

/-! ### Timebase and sequencer (chapter 02) -/

/-- The timebase beside the CYC registers. Instants and lengths of bars are in units of 1/42000 ns, in which every
mean of up to eight intervals and every clamp of R54 is a whole number. -/
structure Cyc where
  /-- Edges of the acquisition run so far (R53). -/
  run : Nat
  /-- Instant of the run's last edge, ns. -/
  lastEdge : Nat
  /-- The last edge intervals that count for P, newest first, ns. -/
  ivals : List Int
  /-- The last boundary and the length of the bar it started. -/
  bound : Int
  len : Int
  /-- P. -/
  p : Int
  /-- Arrival of the in-window edge of the last boundary, ns. -/
  edge : Option Nat
  /-- Has the window of the last boundary an outcome: an edge, or a missing edge. -/
  resolved : Bool
  /-- Arrival of an edge in the window before the coming boundary, ns. -/
  early : Option Nat
  /-- Arrival of the in-window edge of the boundary before the last one, ns. -/
  prevEdge : Option Nat
  /-- Consecutive boundaries in HOLDOVER (CYC.STAT.MISSED shows at most 15). -/
  missed : Nat
deriving DecidableEq, Repr

/-- A result descriptor (R109). -/
structure ResEntry where
  stroke : Nat
  die : Nat
  eng : Nat
  epoch : Nat
  status : Nat
  clip : Bool
  sigOnly : Bool
  outAddr : Nat
  didx : Nat
  outLen : Nat
  sig : Nat
deriving DecidableEq, Repr

/-- Where a fired stroke stands. -/
inductive RunPhase where
  /-- Waiting for gates (R65). -/
  | held
  /-- Fired and not completed. -/
  | active
  /-- Completed. -/
  | done
deriving DecidableEq, Repr

/-- A stroke that has fired (or is held by gates) in this bar, or carries over from an earlier one. -/
structure StrokeRun where
  idx : Nat
  raw : BitVec 128
  /-- Bar count of its firing. -/
  bar : Nat
  phase : RunPhase
  failed : Bool
  voided : Bool
  /-- Has the miss of tick D been reported. -/
  missed : Bool
  /-- Does it belong to the table before the last swap. -/
  carry : Bool
  /-- Engines that have not finished it: die and logical engine. -/
  targets : List (Nat × Nat)
  /-- The entries the collector accepted from it, in drain order. -/
  entries : List ResEntry
  /-- Entries of a RUN_PAIRED whose partner has not been drained (R116). -/
  half : List ResEntry
  /-- Dies of the stroke that have finished it. -/
  diesDone : List Nat
deriving DecidableEq, Repr

/-- The kinds of swap request (R87). -/
inductive SwapKind where
  | core | island | fallback
deriving DecidableEq, Repr

/-- The sequencer beside the SEQ and ADM registers. -/
structure Seq where
  active : List (BitVec 128)
  shadow : List (BitVec 128)
  /-- Strokes that have come due and not yet fired: index, bar of their tick, and stroke. -/
  due : List (Nat × Nat × BitVec 128)
  /-- Strokes fired in this bar, and those still running from earlier bars, in firing order. -/
  runs : List StrokeRun
  /-- Partitions whose strokes are being voided, up to their next EMIT (R66). -/
  voiding : List Nat
  /-- The committed swap. -/
  committed : Option SwapKind
  /-- Dies lost whose strokes are voided until the fallback swaps (R89). -/
  lost : List Nat
  /-- The die of the forced fallback in progress, and whether its copy is done. -/
  fallback : Option Nat
  /-- STOP waits for the boundary. -/
  stop : Bool
  /-- Carry-over strokes of the former table and their epoch. -/
  prevEpoch : Nat
  /-- Does the loaded shadow stand refused by its length (R81). -/
  badLen : Bool
  /-- Partitions in which a RUN_PAIRED has failed by R116 since their previous EMIT (R327). -/
  pair : List Nat
  /-- The collector queue that drains next, numbered 16 × die + engine (R79). -/
  drain : Nat
  /-- The admission in progress: is it CHECK_ONLY, and the shadow's state before it (R82). -/
  chk : Option (Bool × Nat)
deriving DecidableEq, Repr

/-! ### Compute dies (chapter 03) -/

/-- A tracker entry of one channel (R144): the window, newest first, as BF16; scale in force and m_c of the last update
as FP32; pending maximum as FP32 and pending counters; the counters latched at the last update. -/
structure TrkEntry where
  win : List Nat
  scale : Word
  m : Word
  pend : Word
  clip : Nat
  total : Nat
  lclip : Nat
  ltotal : Nat
deriving DecidableEq, Repr

/-- A tracker set on one engine: past INIT or not, whether it completed a step in this bar, the output format of its
last descriptor, its entries by channel, and the summary of its last update (R145 to R151). -/
structure TrkSet where
  active : Bool
  stepped : Bool
  fmt : Nat
  entries : List TrkEntry
  nOver : Nat
  worst : Nat
  share : Nat
deriving DecidableEq, Repr

/-- A tracker set in INIT. -/
def TrkSet.fresh : TrkSet := ⟨false, false, 0, [], 0, 0, 0⟩

/-- A set's configuration in force on a die (R145). -/
structure QCfg where
  win : Nat
  tensor : Bool
  pow2 : Bool
  enable : Bool
  margin : Nat
  thr : Nat
  base : Nat
  len : Nat
  smin : Word
  /-- Disabled for its range (R145). -/
  bad : Bool
deriving DecidableEq, Repr

/-- A set's configuration after reset. -/
def QCfg.fresh : QCfg := ⟨8, false, false, false, 0, 0x148, 0, 0, 0x35800000, false⟩

/-- A descriptor that an engine holds and has not done. -/
structure Work where
  /-- Index of its stroke, bar of the stroke's firing, and the stroke's partition and EPOCH. -/
  stroke : Nat
  bar : Nat
  part : Nat
  epoch : Nat
  /-- Does its stroke run paired. -/
  pair : Bool
  /-- Context that dispatched it. -/
  ctx : Nat
  /-- Its index in the list, and its 64 bytes. -/
  didx : Nat
  raw : List Byte
  /-- Is it waiting for camera lines (R183). -/
  waiting : Bool
  /-- Has it been handed to the spectral unit (R189). -/
  spectral : Bool
  /-- What it read at dispatch: its scales by channel (R146), and the group's LS_EXP, OPT_T and whether APPLY writes
  nothing (R202, R204, R206). -/
  scales : List Word
  lsExp : Int
  optT : Nat
  noApply : Bool
deriving DecidableEq, Repr

/-- A scheduler context in use (R105, R106). -/
structure Ctx where
  stroke : Nat
  bar : Nat
  part : Nat
  epoch : Nat
  pair : Bool
  /-- The descriptors selected for this die that are not yet dispatched: index and bytes. -/
  list : List (Nat × List Byte)
  /-- Tokens set. -/
  tokens : List Nat
  /-- The group's engines, ascending. -/
  engines : List Nat
deriving DecidableEq, Repr

/-- A physical engine slot beside its page. -/
structure Eng where
  /-- Undone descriptors, the running one first. -/
  queue : List Work
  /-- The partition it is switched to (R67). -/
  part : Option Nat
  /-- The return sequence is complete and the engine waits for the boundary (R123). -/
  rejoin : Bool
  /-- When it was switched to the stroke it serves. -/
  since : Nat
  /-- The partition charged for its brush load, and since when (R126). -/
  brush : Option (Nat × Nat)
  /-- The partition of the open barrier that will put it in brush load at the end of its work. -/
  brushNext : Option Nat
  /-- Its tracker sets 1 to 15. -/
  trk : List TrkSet
deriving DecidableEq, Repr

/-- An engine slot after reset. -/
def Eng.fresh : Eng := ⟨[], none, false, 0, none, none, List.replicate 15 TrkSet.fresh⟩

/-- A compute die beside its pages. -/
structure Die where
  ctxs : List (Option Ctx)
  engs : List Eng
  /-- The collector queue of each logical engine (R79). -/
  resq : List (List ResEntry)
  /-- A substitution waiting for its boundary: logical engine, spare slot, return sequence done (R119). -/
  subst : List (Nat × Nat × Bool)
  /-- Logical engines that have lost their slot and not rejoined (R118). -/
  lostEng : List Nat
  /-- Tracker configuration in force: sets 1 to 15, and the merged sets (R145, R149). -/
  qcfg : List QCfg
  merge : Nat
  /-- Hash seeds in force (R175). -/
  seeds : List Nat
deriving DecidableEq, Repr

/-- A compute die after reset. -/
def Die.fresh : Die := ⟨List.replicate 16 none, List.replicate 18 Eng.fresh, List.replicate 16 [], [], [],
  List.replicate 15 QCfg.fresh, 0, [0, 0, 0, 0]⟩

/-! ### Partitions and accounting (chapter 10) -/

/-- One address window of a partition: first byte, byte past its end, write permission (R269). -/
structure Win where
  lo : Nat
  hi : Nat
  wr : Bool
deriving DecidableEq, Repr

/-- A partition's configuration in force (R267). -/
structure PrtCfg where
  enable : Bool
  hold : Bool
  rejoinN : Nat
  cls : Nat
  ovrLimit : Nat
  quota : Nat
  reqDl : Nat
  wins : List Win
deriving DecidableEq, Repr

/-- A partition beside its block of the PRT page. -/
structure Part where
  cfg : PrtCfg
  /-- Bar boundaries since its fault (R273). -/
  since : Nat
  /-- Its budget overruns in this bar (R271). -/
  overruns : Nat
deriving DecidableEq, Repr

/-- A partition after reset. -/
def Part.fresh : Part := ⟨⟨false, false, 0, 8, 0, 0, 0x400, []⟩, 0, 0⟩

/-- What ACCT charges a partition (R275): engine and brush time in ns, bytes by stack, pool bytes, energy in pJ,
overruns and resets. -/
structure Charges where
  eng : Nat
  brush : Nat
  stack : List Nat
  pool : Nat
  energy : Nat
  overruns : Nat
  resets : Nat
deriving DecidableEq, Repr

/-- No charges. -/
def Charges.zero : Charges := ⟨0, 0, [0, 0, 0, 0], 0, 0, 0, 0⟩

/-- The accounting unit: live counters, the counters at the last two bar boundaries, bytes by master, the mode in
force, and the work not yet turned into energy (R275 to R278). -/
structure Acct where
  live : List Charges
  atBar : List Charges
  atPrev : List Charges
  mbytes : List Nat
  mbytesAtBar : List Nat
  mbytesAtPrev : List Nat
  mode : Nat
  /-- Work and brush clocks by partition and die, stack and pool units by partition, since the last energy interval. -/
  work : List (List Nat)
  brushClk : List (List Nat)
  stackU : List Nat
  poolU : List Nat
  /-- Stack bytes charged to each partition at the last energy interval (R277). -/
  stackAt : List Nat
deriving DecidableEq, Repr

/-- The accounting unit after reset. -/
def Acct.fresh : Acct :=
  ⟨List.replicate 16 Charges.zero, List.replicate 16 Charges.zero, List.replicate 16 Charges.zero,
   List.replicate 32 0, List.replicate 32 0, List.replicate 32 0, 0,
   List.replicate 16 [0, 0, 0, 0], List.replicate 16 [0, 0, 0, 0], List.replicate 16 0, List.replicate 16 0,
   List.replicate 16 0⟩

/-- The owner tags and written bits of the tile SRAMs (R270): tags by segment number as owner + 1, 0 for NONE; written
bits by 64-byte unit. A segment or unit is numbered over all dies and slots. -/
structure Tiles where
  tags : List (Nat × Nat)
  written : List (Nat × Bool)
deriving DecidableEq, Repr

/-! ### The fusion unit (chapter 09) -/

/-- A track of the store; numbers are FP32 words. -/
structure Track where
  slot : Nat
  id : Nat
  /-- 1 TENTATIVE, 2 CONFIRMED, 3 COASTING. -/
  state : Nat
  cls : Nat
  x : Word
  y : Word
  z : Word
  len : Word
  wid : Word
  hgt : Word
  yaw : Word
  vx : Word
  vy : Word
  sx2 : Word
  sy2 : Word
  score : Word
  hist : Nat
  miss : Nat
  age : Nat
  /-- Matched or born in the last job, with the cost and the detection of the match. -/
  hit : Bool
  born : Bool
  cost : Nat
  det : Nat
deriving DecidableEq, Repr

/-- The persistent state of the fusion unit (R244), which changes only when a job completes. -/
structure FusState where
  /-- Last committed velocities (R253) and motion. -/
  motion : List Word
  /-- The reference grid: cells that are not zero, by row-major index. -/
  ref : List (Nat × Byte)
  /-- The motion ring, oldest first: time, dx, dy, dθ (R254). -/
  ring : List (Int × Word × Word × Word)
  /-- EGO runs since the instant t_s. -/
  since : Nat
  /-- The common instant of the last committed EGO. -/
  egoTc : Option Int
  /-- FAIL_RUN and the last outcome: 0 INIT, 1 OK, 2 PREDICTED. -/
  failRun : Nat
  status : Nat
  tracks : List Track
  /-- The instant t_s to which the tracks refer. -/
  ts : Option Int
  nextId : Nat
  /-- Reported step, whether a first evaluation was made, and the count of better evaluations (R265). -/
  step : Nat
  judged : Bool
  upCount : Nat
deriving DecidableEq, Repr

/-- The fusion unit's persistent state after reset (R254, R260, R265). -/
def FusState.fresh : FusState := ⟨List.replicate 6 0, [], [], 0, none, 0, 0, [], none, 1, 4, false, 0⟩

/-- A detection that ASSIGN read, with the slot it was matched to and the cost. -/
structure Det where
  raw : List Byte
  slot : Option Nat
  cost : Nat
deriving DecidableEq, Repr

/-- The fusion job in progress. -/
structure FusJob where
  stroke : Nat
  bar : Nat
  part : Nat
  raw : List Byte
  /-- Stages still to run, ascending. -/
  left : List Nat
  /-- Is ALIGN waiting (R248). -/
  waiting : Bool
  /-- PPU jobs of the list done. -/
  ppuDone : Nat
  /-- t_c, and the stream usable bits at the job's start. -/
  tc : Int
  tcOk : Bool
  usable : Nat
  /-- The working copy of the persistent state. -/
  work : FusState
  dets : List Det
  /-- FLAGS of the batch so far: SUBOPT, FLUSHED, TRK_FULL, list valid. -/
  subopt : Bool
  flushed : Bool
  trkFull : Bool
  detsOk : Bool
  /-- The raw degradation step, when TRACK ran. -/
  rawStep : Option Nat
deriving DecidableEq, Repr

/-- The fusion unit: its persistent state, the job in progress, the bar's common instant (R245), the instant of tick
0, and each STATE slot's two latest samples from earlier bars, oldest first (R246). -/
structure Fus where
  st : FusState
  job : Option FusJob
  tc : Option (Int × Bool)
  tick0 : Int
  samples : List (List (Int × List Word))
  /-- Was the PRED slot VALID in the last alignment of the bar (R264). -/
  predOk : Bool
deriving DecidableEq, Repr

/-- A journal entry of the ledger (R378), with the register words that its change gives fields the ledger keeps (R15). -/
structure LdgEntry where
  etype : Nat
  key : Nat
  count : Nat
  time : Int
  bar : Nat
  data : List Byte
  words : List (Nat × Word)
deriving DecidableEq, Repr

/-- A ledger record as it stands in the MRAM (R374): its header, its payload as bytes or as entries, and whether it is
valid by R375. -/
structure LdgRec where
  seq : Nat
  typ : Nat
  key : Nat
  wcnt : Nat
  aux : Nat
  part : Nat
  parts : Nat
  role : Nat
  data : List Byte
  ents : List LdgEntry
  ok : Bool
deriving DecidableEq, Repr

/-- What a record write brings when it has passed its check. -/
inductive LdgWhy where
  /-- A journal record: its entries are durable. -/
  | entries
  /-- A write of the fold in progress. -/
  | fold
  /-- A commit of FWOBJ. -/
  | fw
  /-- A commit of BOOT: ACTIVE, TRIAL, TRIES, SVN. -/
  | boot (active trial tries svn : Nat)
  /-- Any other commit. -/
  | other
deriving DecidableEq, Repr

/-- A record write that waits or is in progress: its content, the role it serves if that is fixed, and what it brings. -/
structure LdgJob where
  typ : Nat
  key : Nat
  aux : Nat
  data : List Byte
  ents : List LdgEntry
  role : Option Nat
  why : LdgWhy
deriving DecidableEq, Repr

/-- A record write in progress: its job, physical record and role, and whether it is the second attempt (R376). -/
structure LdgWrite where
  job : LdgJob
  phys : Nat
  role : Nat
  second : Bool
deriving DecidableEq, Repr

/-- Mailboxes, warnings and interrupts beside their registers (chapter 11). -/
structure Mbx where
  /-- The queue of warning words, oldest first (R300). -/
  warn : List Word
  /-- Claimed interrupt sources (R303). -/
  claimed : List Nat
  /-- DMA channels that are copying. -/
  dmaBusy : List Nat
deriving DecidableEq, Repr

/-- The ledger beside its registers (chapter 14). -/
structure Ldg where
  /-- Entries waiting for a journal record, oldest first (R380). -/
  queue : List LdgEntry
  /-- FAULT entries queued or journalled: code, page, die and time, newest first (R379). -/
  faults : List (Nat × Nat × Nat × Nat)
  /-- The CENSUS object: serial, stepping and bin found at each hub port (R48). -/
  census : Option (List (Nat × Nat × Nat × Nat))
  /-- The records ever written, by physical record; 0 to 2,047 in bank 0, 2,048 to 4,095 in bank 1 (R372). -/
  recs : List (Nat × LdgRec)
  /-- REMAP: roles served by reserve records (R376). -/
  remap : List (Nat × Nat)
  /-- Retired physical records, and roles that no record serves any more (R389). -/
  retired : List Nat
  dead : List Nat
  /-- The write in progress in each bank, and the writes that wait, in order. -/
  busy : List (Option LdgWrite)
  todo : List LdgJob
  /-- The next role of the journal ring and of the fault ring. -/
  jpos : Nat
  fpos : Nat
  /-- Roles of the live journal records, oldest first (R381). -/
  live : List Nat
  /-- The cut S of the fold in progress, the writes it still waits for, and whether a fold is to start. -/
  fold : Option Nat
  foldLeft : Nat
  foldWant : Bool
  /-- Start of the last journal write (R380). -/
  lastJ : Option Nat
  /-- FWOBJ commits by KEY and the FW entries, by time (R385). -/
  fwTimes : List (Nat × Nat)
  fwEnts : List Nat
  /-- Is POWER_FAIL_N low. -/
  pfail : Bool
  /-- Cause of the last flush: 0 POWER_FAIL_N, 1 VDD_KA, 2 a trip (R386). -/
  cause : Nat
  /-- Areas in which 0x74 has been recorded (R389). -/
  worn : List Nat
  /-- The register words that the durable records hold, where they differ from those of a part as delivered (R15). -/
  base : List (Nat × Word)
  /-- Do the records authenticate with the ledger key (R375). -/
  keyOk : Bool
deriving DecidableEq, Repr

/-- The ledger of a part as delivered, its reset aside: no record listed, no change since final test. -/
def Ldg.fresh : Ldg :=
  { queue := [], faults := [], census := none, recs := [], remap := [], retired := [], dead := [], busy := [none, none],
    todo := [], jpos := 0, fpos := 0, live := [], fold := none, foldLeft := 0, foldWant := false, lastJ := none,
    fwTimes := [], fwEnts := [], pfail := false, cause := 0, worn := [], base := [], keyOk := true }

/-- The hold-up gauge beside the HLD registers (R390 to R394): the charge counted, nC; did the charge in progress start
below 0.6 × V_TGT, and the charge counted when it passed that; has C_MEAS been measured; and the consecutive presence
pulses that found a store. -/
structure Hld where
  q : Int
  low : Bool
  mark : Option Int
  measured : Bool
  pulses : Nat
deriving DecidableEq, Repr

/-- A generation of a learned region in the ledger's checkpoint area (R216): the roles of its pool records, its length in
bytes, FORMAT, BIND, DIGEST, generation number, and its group's LS_EXP and OPT_T. -/
structure LGen where
  roles : List Nat
  len : Nat
  format : Nat
  bind : Nat
  digest : Nat
  num : Nat
  lsExp : Nat
  optT : Nat
deriving DecidableEq, Repr

/-- The requests for a transition of a learned region (R213). -/
inductive LReq where
  | opn | freeze | restore | off | vet
deriving DecidableEq, Repr

/-- Learning in service beside the ADM registers (chapter 07): groups in which a CHECK or APPLY was dispatched in this
bar, groups with a completed APPLY, each region's pending request, its CURRENT and PREVIOUS generation, and the
generation that a CKPT is committing. -/
structure Lrn where
  touched : List Nat
  applied : List Nat
  req : List (Option LReq)
  gens : List (Option LGen × Option LGen)
  ckpt : List (Option LGen)
deriving DecidableEq, Repr

/-- Learning after reset. -/
def Lrn.fresh : Lrn := ⟨[], [], List.replicate 8 none, List.replicate 8 (none, none), List.replicate 8 none⟩

/-- A Qbv gate control list in force on a MAC (R232): entries of gate bits and interval in ns, the entry that holds
now, and the gate bits in force. -/
structure Gates where
  list : List (Nat × Nat)
  pos : Nat
  now : Nat
  /-- The committed list that waits for its cycle start (R451). -/
  next : Option (List (Nat × Nat))
deriving DecidableEq, Repr

/-- The Ethernet block beside its registers (chapter 08). -/
structure Eth where
  /-- The device's IEEE 802.1AS time minus the local oscillator, ns (R235), and the correction still to be slewed in, with
  the instant it was set (R236). -/
  offset : Int
  slew : Int
  slewFrom : Nat
  /-- Measured peer delay of each port, ns (R235). -/
  pdelay : List Int
  /-- The best Announce so far and its port, for the best master clock algorithm (R235). -/
  best : Option (Nat × Announce)
  /-- Frames in the transmit queues, oldest first: MAC, queue, bytes. -/
  txq : List (Nat × Nat × List Byte)
  /-- The gates of ETH_0 to ETH_3. -/
  gates : List Gates
deriving DecidableEq, Repr

/-- The bar frame of a camera stream (R227 to R230, R237, R238). -/
structure Frame where
  /-- 802.1AS time of Frame Start and, once it came, of Frame End. -/
  fs : Int
  fe : Option Int
  bar : Nat
  fn : Nat
  /-- Sensor lines that have arrived, discarded ones included. -/
  rows : Nat
  /-- Are all sensor lines so far of the stream line now arriving intact and written. -/
  intact : Bool
  /-- Stream lines written whole and not yet complete, in order. -/
  ready : List Nat
  /-- Complete stream lines. -/
  lines : Nat
  broken : Bool
  /-- Has a slow line been recorded. -/
  slow : Bool
  /-- The last line completed and its completion, on the local oscillator. -/
  last : Option (Nat × Nat)
  /-- The CRC-64 registers of HASH and EARLY. -/
  hash : Nat
  early : Nat
  /-- Sum and number of the differences of ACT. -/
  actSum : Nat
  actCnt : Nat
  /-- Embedded-data bytes written. -/
  emb : Nat
  embTrunc : Bool
  fnJump : Bool
  /-- Was FN not zero and equal to the previous one. -/
  fnSame : Bool
  earlyRep : Bool
  verdict : Nat
deriving DecidableEq, Repr

/-- An ingest stream beside its page (chapter 08). -/
structure Strm where
  /-- The words of offsets 0x040 to 0x074 in force (R222). -/
  cfg : List Word
  frame : Option Frame
  /-- Is the frame now arriving one that is not written (R58, R227). -/
  skip : Bool
  /-- HASH of the previous verdict-bearing frame, EARLY and FN of the previous frame. -/
  prevHash : Option Nat
  prevEarly : Option Nat
  prevFn : Nat
  /-- Packet records of this bar, bytes they take, has one been dropped, has one SRC_BAD; and all records since
  enable. -/
  recs : Nat
  off : Nat
  dropped : Bool
  bad : Bool
  seq : Nat
  /-- Consecutive: bars without a GOOD frame or complete block, clean bars, REPEAT verdicts, GOOD frames since FROZEN and
  since FLAT, FLAT verdicts, records with SRC_BAD, bars without SRC_BAD and with sync (R239). -/
  nogood : Nat
  clean : Nat
  repeats : Nat
  goodsF : Nat
  goodsL : Nat
  flats : Nat
  tsbad : Nat
  timeok : Nat
  /-- Which rows of the health table apply. -/
  lost : Bool
  frozen : Bool
  timeBad : Bool
  flat : Bool
  late : Bool
deriving DecidableEq, Repr

/-- A set of the cross-device barrier (R408): its configuration in force, and the ARRIVE messages held, each with the
802.1AS time of its receipt. -/
structure XSet where
  en : Bool
  part : Nat
  memb : Nat
  skew : Nat
  latest : Nat
  got : List (Arrive × Int)
deriving DecidableEq, Repr

/-- A device link beside its registers (R398, R399): SEQ of the next flit and of the last one taken, credits held, flits
not acknowledged, failures of the flit expected, is NAK to be returned, credits to return, when it last sent, and the
lanes that pass training. -/
structure DevLink where
  seq : Nat
  ack : Nat
  credits : List Nat
  replay : List Flit
  fails : Nat
  nak : Bool
  owed : List Nat
  sentAt : Nat
  lanes : Nat
deriving DecidableEq, Repr

/-- A device link after reset (the credits of R398's figures). -/
def DevLink.fresh : DevLink := ⟨0, 255, [128, 128, 16], [], 0, false, [0, 0, 0], 0, 15⟩

/-- An exchange of power budget that the root has proposed (R413): donor, recipient, watts, and does it wait for the next
bar. -/
structure ShiftOffer where
  donor : Nat
  recip : Nat
  step : Nat
  wait : Bool
deriving DecidableEq, Repr

/-- The device links beside the DLK registers (chapter 15): the links; has CTL.ENUM been used since cold reset; the root
that enumerated; the cables by index and the ends of those known DOWN; on the root, the serial numbers by index; the
barrier sets, the members that have left their effective membership, and this bar's wait, ns; members heard in this bar,
and the bars without STATUS by index; on the root, the summed waits by index, the bars they cover, the bars exchanges stay
suspended, SHIFT_W by index and the exchange in progress; the copy channels that run. -/
structure Dlk where
  links : List DevLink
  enumDone : Bool
  root : Option Nat
  cables : List Cable
  down : List (Nat × Nat)
  serials : List Nat
  sets : List XSet
  out : Nat
  wait : Nat
  heard : List Nat
  silent : List Nat
  sums : List Nat
  bars : Nat
  hold : Nat
  shifts : List Int
  offer : Option ShiftOffer
  copies : List Nat
deriving DecidableEq, Repr

/-- The device links after cold reset. -/
def Dlk.fresh : Dlk :=
  { links := List.replicate 8 DevLink.fresh, enumDone := false, root := none, cables := [], down := [], serials := [],
    sets := List.replicate 8 ⟨false, 0, 0, 1500, 65535, []⟩, out := 0, wait := 0, heard := [], silent := List.replicate 128 0,
    sums := List.replicate 128 0, bars := 0, hold := 0, shifts := List.replicate 128 0, offer := none, copies := [] }

/-- A regulator master's settings (R285): log2 of its window in µs, class label, deadline in 64 ns units, and its MIN and
MAX by stack in 64-byte units. -/
structure BwMaster where
  win : Nat
  cls : Nat
  dl : Nat
  mins : List Nat
  maxs : List Nat
deriving DecidableEq, Repr

/-- A regulator configuration (R289): the 32 masters, the class limit of level 1, and the thresholds by stack. -/
structure BwCfg where
  ms : List BwMaster
  l1 : Nat
  t1 : List Nat
  t2 : List Nat
  t3 : List Nat
deriving DecidableEq, Repr

/-- A configuration of reset values. -/
def BwCfg.fresh : BwCfg :=
  ⟨List.replicate 32 ⟨3, 8, 0x400, [0, 0, 0, 0], List.replicate 4 0xFFFFFF⟩, 7, List.replicate 4 0x200,
   List.replicate 4 0x300, List.replicate 4 0x3C0⟩

/-- A request of a master to a stack (R286 to R288): master, partition of the work (0xFF for none), write, offset in the
stack, bytes, does it stay uncorrectable, kind (0 guaranteed, 1 surplus), and the instant of its deadline, ns. -/
structure BwReq where
  master : Nat
  part : Nat
  wr : Bool
  off : Nat
  len : Nat
  uncorr : Bool
  kind : Nat
  dl : Nat
deriving DecidableEq, Repr

/-- The bandwidth regulators (chapter 10): the configuration in force, the last one committed without refusal, the one
being checked; by stack the queue of requests, the level, and the bytes by pseudo-channel in this interval; the
requests that wait at their source with their stack, oldest first, and by stack the samples in this interval. -/
structure Bw where
  act : BwCfg
  good : BwCfg
  check : Option BwCfg
  queues : List (List BwReq)
  held : List (Nat × BwReq)
  level : List Nat
  chans : List (List Nat)
  samples : List Nat
deriving DecidableEq, Repr

/-- The regulators after reset. -/
def Bw.fresh : Bw :=
  ⟨BwCfg.fresh, BwCfg.fresh, none, List.replicate 4 [], [], [0, 0, 0, 0], List.replicate 4 (List.replicate 32 0), [0, 0, 0, 0]⟩

/-- The Clapper beside the CLAP registers (R317 to R322, R330): the claims gathered in FREE with the instant of the first;
the claim in GRANTING: island, epoch and the state before it; when it was confirmed; has the holder's hardware written
HOLD_REL since the grant; has the holder sent a heartbeat in this period; has each island written LIVE in it, and the
periods it has missed; when the Clapper was offered; has a grant been made since reset, and since when no island is in
charge; the bars ended since the safe state was entered; the level last seen on SAFE_N_IN; the level of SAFE_N_OUT. -/
structure Clap where
  claims : List (Nat × Nat)
  since : Nat
  claim : Option (Nat × Nat × Nat)
  confirmed : Option Nat
  rel : Bool
  hb : Bool
  live : List Bool
  missed : List Nat
  granted : Bool
  idle : Option Nat
  safeBars : Nat
  safeIn : Bool
  safeOut : Bool
deriving DecidableEq, Repr

/-- The Clapper after cold reset. -/
def Clap.fresh : Clap := ⟨[], 0, none, none, false, false, [false, false], [0, 0], false, none, 0, true, false⟩

/-- A CAN FD channel of an island beside its registers (R333 to R335): frames that wait or are being sent, oldest first;
the counters by identifier; t0 of the SAFE_STATE frame that is to complete within 2.0 ms, and whether it has been
recorded as late; frames received. -/
structure CanCh where
  queue : List CanFrame
  counters : List (Nat × Nat)
  ssf : Option (Nat × Bool)
  rx : List CanFrame
deriving DecidableEq, Repr

/-- An island beside its ISL page (chapter 12): 0 in reset, 1 running, 2 held after a fault, 3 restarting; the last
acknowledgment of a heartbeat; the age timers of the watches; what the last messages brought: EPOCH, BAR, HEALTH, DSTEP;
the cause its SAFE latch was set for; has it queued the SAFE_STATE frame of this safe state. -/
structure Isl where
  phase : Nat
  ackAt : Nat
  age : List Nat
  epoch : Nat
  bar : Nat
  health : Nat
  dstep : Nat
  cause : Nat
  ssf : Bool
  can : List CanCh
deriving DecidableEq, Repr

/-- An island in reset. -/
def Isl.fresh : Isl := ⟨0, 0, List.replicate 16 0, 0, 0, 0, 0, 0, false, List.replicate 2 ⟨[], [], none, []⟩⟩

/-- A compute die's operating point beside the DVFS registers (R346 to R362): the step in progress and its target; the
points that the 1 ms, 10 ms and 1 s caps, the thermal throttle (soft, hard), ILIM and a droop allow, 15 for no limit; is
the OP_7 rule on; does the array clock run at half rate, has a deep droop been recorded in this bar, and when the last
began; the margin samples below MARGIN_MIN in a row and their point; the points for which 0x6C has been recorded; has
BREACH been recorded in this bar; has a roll-in begun since the last selection; does warm load run; the instant of a
third phase loss whose stages are not yet disabled; the headroom conditions of this bar so far and of the previous one
(R355); the last thermal step. -/
structure DiePwr where
  step : Option Nat
  caps : List Nat
  soft : Nat
  hard : Nat
  ilim : Nat
  droop : Nat
  op7 : Bool
  half : Bool
  drooped : Bool
  droopAt : Nat
  below : Nat × Nat
  near : List Nat
  breach : Bool
  roll : Bool
  warm : Bool
  outAt : Option Nat
  headOk : Bool
  head : Bool
  thAt : Nat
deriving DecidableEq, Repr

/-- A compute die's operating point after reset. -/
def DiePwr.fresh : DiePwr :=
  { step := none, caps := [15, 15, 15], soft := 15, hard := 15, ilim := 15, droop := 15, op7 := false, half := false,
    drooped := false, droopAt := 0, below := (0, 0), near := [], breach := false, roll := false, warm := false,
    outAt := none, headOk := true, head := false, thAt := 0 }

/-- A regulated rail beside its VRC page: the last sample's phase currents (0.1 A) and stage temperatures, the lost phases
with 1 open or 2 sense, and since when its current has been below the shed current (R340). -/
structure RailPwr where
  imon : List Int
  temp : List Int
  lost : List (Nat × Nat)
  lowAt : Option Nat
deriving DecidableEq, Repr

/-- Counting of thermal half-cycles on a TJ_MAX (R368): direction, the present extremum and the one before it. -/
structure Cycles where
  up : Bool
  cand : Option Int
  prev : Option Int
deriving DecidableEq, Repr

/-- Power management beside its registers (chapter 13): the dies and the rails; is the device off by a trip; consecutive
samples at trip temperature, for CD_0 to CD_3, HD, and the stacks; the throttle state of the sources (TJ of CD_0 to CD_3
and HD, the stacks, the stages of VDD_CD_0 to VDD_CD_3): 0 none, 1 held below its threshold, 2 at the soft threshold, 3 at
the hard one; the means of the 1 ms, 10 ms and 1 s windows in 0.1 W, since when all are below 90 % and the last raise; of
the tray: failed reads in a row by sensor, since when flow is low and the rise high, since when readings meet OK, have
reads begun; the R_th values of the last 10 minutes with their instants, has 0x6B been recorded; the sum and number of the
last junction readings; the half-cycle counting of CD_0 to CD_3 and HD, the counts not yet committed, has a first reading
been taken since boot; WARM in force; SHIFT_W in force; the pending island envelope; energy not yet shown as µJ, in pJ,
by rail and VIN; has device power stayed at most 95 % of LIM_1S in this bar; raises whose commit the ledger refused. -/
structure Pwr where
  dies : List DiePwr
  rails : List RailPwr
  off : Bool
  trips : List Nat
  thr : List Nat
  means : List Nat
  lowAt : Option Nat
  raiseAt : Nat
  fails : List Nat
  flowAt : Option Nat
  riseAt : Option Nat
  okAt : Option Nat
  reading : Bool
  rth : List (Nat × Nat)
  fleetRec : Bool
  tj : Int × Nat
  cyc : List Cycles
  cycInc : List Nat
  cycBoot : Bool
  warmEn : Bool
  warmFloor : Nat
  shift : Int
  envIsl : Nat
  rest : List Nat
  powOk : Bool
  retry : List (Nat × Nat × List Byte × List (Nat × Word))
deriving DecidableEq, Repr

/-- Power management after cold reset. -/
def Pwr.fresh : Pwr :=
  { dies := List.replicate 4 DiePwr.fresh, rails := List.replicate 5 ⟨[], [], [], none⟩, off := false,
    trips := List.replicate 9 0, thr := List.replicate 13 0, means := [0, 0, 0], lowAt := none, raiseAt := 0,
    fails := [0, 0, 0], flowAt := none, riseAt := none, okAt := none, reading := false, rth := [], fleetRec := false,
    tj := (0, 0), cyc := List.replicate 5 ⟨true, none, none⟩, cycInc := List.replicate 20 0, cycBoot := true,
    warmEn := true, warmFloor := 40, shift := 0, envIsl := 0, rest := List.replicate 6 0, powOk := true, retry := [] }

/-- Power-up, reset and boot beside their registers (chapter 16): is PORST_N high; is VDD_HUB out at power-up, so that the
device stays in cold reset; the rails that have been soft-started; has the census stage ended; the address at which the
loaded image is entered, and the envelope it names; does this boot follow a watchdog expiry; the last service of the
watchdog; the lifecycle token whose fuses are being burnt, and the one burnt since cold reset; is the TAP in
Test-Logic-Reset; the bytes of the MSI-X table (BAR4). -/
structure Boot where
  porst : Bool
  hubOut : Bool
  started : List Bool
  census : Bool
  image : Option (Nat × Option Nat)
  wdog : Bool
  kickAt : Nat
  burn : Option LcToken
  burnt : Option LcToken
  tapReset : Bool
  msixTable : List (Nat × Byte)
deriving DecidableEq, Repr

/-- Before power-up. -/
def Boot.fresh : Boot :=
  { porst := false, hubOut := false, started := List.replicate 5 false, census := false, image := none, wdog := false,
    kickAt := 0, burn := none, burnt := none, tapReset := true, msixTable := [] }

/-- The Mallet monitor beside the DBG registers (chapter 18): the nonce in force by its number and the instant of its CHAL;
nonces issued; the owner slot named and the proof bytes received; E6 answers since cold reset; the last line received;
the characters of the line that is arriving, is it being discarded, and was the last character a CR. -/
structure Mal where
  nonce : Option (Nat × Nat)
  nonces : Nat
  slot : Option Nat
  proof : List Byte
  fails : Nat
  lineAt : Nat
  buf : List Byte
  drop : Bool
  cr : Bool
deriving DecidableEq, Repr

/-- Mallet after cold reset. -/
def Mal.fresh : Mal := ⟨none, 0, none, [], 0, 0, [], false, false⟩

/-- The state of the block. -/
structure State where
  /-- The registers that differ from their reset words, by control address. -/
  regs : List (Nat × Word)
  /-- The memory bytes that differ from 0, by key: a device address, or a tile SRAM byte at 2^40 and above. -/
  mem : List Host.Cell
  io : Io
  links : Links
  cyc : Cyc
  seq : Seq
  dies : List Die
  parts : List Part
  acct : Acct
  tiles : Tiles
  fus : Fus
  mbx : Mbx
  ldg : Ldg
  hld : Hld
  eth : Eth
  dlk : Dlk
  ing : List Strm
  lrn : Lrn
  bw : Bw
  clap : Clap
  isl : List Isl
  pwr : Pwr
  boot : Boot
  mal : Mal
  /-- The commands that are waiting, first in, first out. -/
  pending : List Instr
deriving DecidableEq, Repr

/-- What a byte of memory that nothing has written reads as (log entry 2). -/
def memDefault (_ : Nat) : Byte := 0

/-- A stream after reset: its configuration in force is the reset value of its registers. -/
def Strm.fresh (i : Nat) : Strm :=
  ⟨(List.range 14).map (fun k => resetWordAt (.hub (8 + i)) (64 + 4 * k)), none, false, none, none, 0, 0, 0, false, false, 0,
   0, 0, 0, 0, 0, 0, 0, 0, false, false, false, false, false⟩

/-- The block right after reset. -/
def State.reset : State where
  regs := []
  mem := []
  io := ⟨0, ⟨[], false, false⟩, [], [], [], 0⟩
  links := ⟨List.replicate 21 Port.fresh, [], [], []⟩
  cyc := ⟨0, 0, [], 0, 0, 0, none, false, none, none, 0⟩
  seq := ⟨[], [], [], [], [], none, [], none, false, 0, false, [], 0, none⟩
  dies := List.replicate 4 Die.fresh
  parts := List.replicate 16 Part.fresh
  acct := Acct.fresh
  tiles := ⟨[], []⟩
  fus := ⟨FusState.fresh, none, none, 0, List.replicate 16 [], false⟩
  mbx := ⟨[], [], []⟩
  ldg := Ldg.fresh
  hld := ⟨0, false, none, false, 0⟩
  eth := ⟨0, 0, 0, List.replicate 8 0, none, [], List.replicate 4 ⟨[], 0, 255, none⟩⟩
  ing := (List.range 24).map (fun i => Strm.fresh i)
  dlk := Dlk.fresh
  lrn := Lrn.fresh
  bw := Bw.fresh
  clap := Clap.fresh
  isl := List.replicate 2 Isl.fresh
  pwr := Pwr.fresh
  boot := Boot.fresh
  mal := Mal.fresh
  pending := []

end Sys2Proof.Machine
end

