-- ==== Sys2Proof/Machine/Ops.lean ====
section
/-! DEFINITION. The named operations over registers, memory, errors, warnings and outputs that every command is made
of. -/

namespace Sys2Proof.Machine

open Sys2Proof

/-! ### Pages by name (R440) -/

abbrev pgHubId : Page := .hub 0x000
abbrev pgClk : Page := .hub 0x001
abbrev pgCyc : Page := .hub 0x002
abbrev pgSeq : Page := .hub 0x003
abbrev pgAdm : Page := .hub 0x004
/-- ING_s. -/
abbrev pgIng (s : Nat) : Page := .hub (8 + s)
abbrev pgAln : Page := .hub 0x020
abbrev pgPrj : Page := .hub 0x021
abbrev pgEgo : Page := .hub 0x022
abbrev pgGrd : Page := .hub 0x023
abbrev pgAsg : Page := .hub 0x024
abbrev pgTrk : Page := .hub 0x025
abbrev pgPpu : Page := .hub 0x026
abbrev pgCol : Page := .hub 0x027
abbrev pgPrt : Page := .hub 0x030
abbrev pgAcct : Page := .hub 0x031
abbrev pgBwreg : Page := .hub 0x032
abbrev pgMbx : Page := .hub 0x033
abbrev pgIntc : Page := .hub 0x034
abbrev pgCore : Page := .hub 0x035
abbrev pgPmc : Page := .hub 0x040
/-- VRC_r. -/
abbrev pgVrc (r : Nat) : Page := .hub (0x041 + r)
abbrev pgThm : Page := .hub 0x046
abbrev pgDvfs : Page := .hub 0x047
abbrev pgCap : Page := .hub 0x048
abbrev pgLdg : Page := .hub 0x050
abbrev pgHld : Page := .hub 0x051
abbrev pgDlk : Page := .hub 0x058
abbrev pgUci : Page := .hub 0x059
abbrev pgWlk : Page := .hub 0x05A
abbrev pgPcie : Page := .hub 0x05B
abbrev pgEth : Page := .hub 0x05C
abbrev pgSec : Page := .hub 0x060
abbrev pgDbg : Page := .hub 0x061
abbrev pgClap : Page := .hub 0x062
abbrev pgCdId (d : Nat) : Page := .cd d 0x000
abbrev pgSch (d : Nat) : Page := .cd d 0x001
abbrev pgPool (d : Nat) : Page := .cd d 0x002
abbrev pgSpare (d : Nat) : Page := .cd d 0x003
abbrev pgMsc (d : Nat) : Page := .cd d 0x004
abbrev pgQnt (d : Nat) : Page := .cd d 0x005
abbrev pgSpec (d : Nat) : Page := .cd d 0x006
abbrev pgWlkd (d : Nat) : Page := .cd d 0x007
/-- PE_i of CD_d. -/
abbrev pgPe (d i : Nat) : Page := .cd d (0x020 + i)

/-! ### Registers -/

/-- The word at a control address. -/
def regW (s : State) (a : Nat) : Word := sparseGet resetWord s.regs a

/-- Store a word at a control address. -/
def setW (a : Nat) (v : Word) (s : State) : State := { s with regs := sparsePut resetWord s.regs a v }

/-- The content of a field, both indices given. -/
def getFij (s : State) (p : Page) (r : Row) (i j : Nat) : Nat := bitsOf (regW s (fieldAddr p r i j)).toNat r.lo r.w

/-- Set the content of a field, both indices given; the word's other bits keep their values. -/
def setFij (p : Page) (r : Row) (i j v : Nat) (s : State) : State :=
  setW (fieldAddr p r i j) (BitVec.ofNat 32 (putBits (regW s (fieldAddr p r i j)).toNat r.lo r.w v)) s

/-- The content of a field. -/
def getF (s : State) (p : Page) (r : Row) : Nat := getFij s p r 0 0

/-- The content of a field with one index. -/
def getFi (s : State) (p : Page) (r : Row) (i : Nat) : Nat := getFij s p r i 0

/-- Set a field. -/
def setF (p : Page) (r : Row) (v : Nat) (s : State) : State := setFij p r 0 0 v s

/-- Set a field with one index. -/
def setFi (p : Page) (r : Row) (i v : Nat) (s : State) : State := setFij p r i 0 v s

/-- Is a one-bit field set. -/
def flag (s : State) (p : Page) (r : Row) : Bool := getF s p r ≠ 0

/-- Is a one-bit field with one index set. -/
def flagI (s : State) (p : Page) (r : Row) (i : Nat) : Bool := getFi s p r i ≠ 0

/-- Add to a saturating counter field with one index. -/
def bumpI (p : Page) (r : Row) (i n : Nat) (s : State) : State := setFi p r i (satAdd r.w (getFi s p r i) n) s

/-- Add to a saturating counter field. -/
def bump (p : Page) (r : Row) (n : Nat) (s : State) : State := bumpI p r 0 n s

/-- A 64-bit counter kept in a LO and a HI field. -/
def get64 (s : State) (p : Page) (lo hi : Row) (i : Nat) : Nat := getFi s p lo i + 2 ^ 32 * getFi s p hi i

/-- Set a 64-bit counter kept in a LO and a HI field. -/
def set64 (p : Page) (lo hi : Row) (i v : Nat) (s : State) : State :=
  setFi p hi i (v / 2 ^ 32) (setFi p lo i v s)

/-- Add to a saturating 64-bit counter. -/
def bump64 (p : Page) (lo hi : Row) (i n : Nat) (s : State) : State :=
  set64 p lo hi i (satAdd 64 (get64 s p lo hi i) n) s

/-- Is the page locked (R448). -/
def locked (s : State) (p : Page) : Bool := flag s p Reg.HDR_LOCK

/-- The word of a page over a reset: the part's own fields (R15) that software does not write stay, every other field is at
its reset value. -/
def resetKeep (p : Page) (off : Nat) (w : Word) : Word :=
  BitVec.ofNat 32 ((rowsAt p off).foldl
    (fun v x => putBits v x.1.lo x.1.w (if x.1.keep && x.1.acc = .ro then bitsOf w.toNat x.1.lo x.1.w else fieldReset p x.1 x.2.1 x.2.2)) 0)

/-- Return the words of page `p` at offsets from `from_` on to their reset values. -/
def resetPageFrom (p : Page) (from_ : Nat) (s : State) : State :=
  let hit := s.regs.filter (fun e => decide (pageBase p + from_ ≤ e.1 ∧ e.1 < pageBase p + 0x1000))
  hit.foldl (fun t e => setW e.1 (resetKeep p (e.1 - pageBase p) e.2) t) s

/-! ### Memory -/

/-- The bytes of memory from key `a` on. -/
def memBytes (s : State) (a : Nat) : Nat → List Byte
  | 0 => []
  | n + 1 => sparseGet memDefault s.mem a :: memBytes s (a + 1) n

/-- Store bytes from key `a` on. -/
def memWrite (a : Nat) : List Byte → State → State
  | [], s => s
  | b :: r, s => memWrite (a + 1) r { s with mem := sparsePut memDefault s.mem a b }

/-- The little-endian number in `n` bytes of memory. -/
def memNat (s : State) (a n : Nat) : Nat := leNat (memBytes s a n)

/-- The key of byte `off` of the tile SRAM of physical slot `e` of CD_d. -/
def tileKey (d e off : Nat) : Nat := 2 ^ 40 + (d * 18 + e) * 2 ^ 22 + off % 2 ^ 22

/-! ### Outputs, time and free values -/

/-- Put something out. -/
def emit (e : Emission) (s : State) : State := { s with io := { s.io with outbox := s.io.outbox ++ [e] } }

/-- Set what the last access answered. -/
def answer (data : List Byte) (done abort : Bool) (s : State) : State :=
  { s with io := { s.io with resp := ⟨data, done, abort⟩ } }

/-- The instant of a timed event; time never runs back. -/
def at_ (t : Nat) (s : State) : State := { s with io := { s.io with now := Nat.max s.io.now t } }

/-- Draw a value that nothing constrains, of `w` bits. -/
def drawFree (w : Nat) (s : State) : Nat × State :=
  (Config.free s.io.fresh % 2 ^ w, { s with io := { s.io with fresh := s.io.fresh + 1 } })

/-- `n / d` as a whole number, in the direction the spec leaves open (log entry 4). -/
def roundOpen (n : Int) (d : Nat) : Int :=
  if n % (d : Int) = 0 then n / (d : Int) else if Config.roundUp n d then n / (d : Int) + 1 else n / (d : Int)

/-- The count of bars since acquisition (R50). -/
def barCount (s : State) : Nat := get64 s pgCyc Reg.CYC_BAR_LO Reg.CYC_BAR_HI 0

/-- How much of the pending correction has been slewed in so far, at no more than 100 ppm (R236; log entry 30). -/
def slewed (s : State) : Int :=
  let m : Int := ((s.io.now - s.eth.slewFrom) * Nat.min 100 Config.slewPpm / 1000000 : Nat)
  if 0 ≤ s.eth.slew then min m s.eth.slew else max (-m) s.eth.slew

/-- The IEEE 802.1AS time of the device, ns (R235). -/
def devTime (s : State) : Int := (s.io.now : Int) + s.eth.offset + slewed s

/-! ### Warnings and ledger entries -/

/-- The low byte of a page's number, as a warning word carries it (R300). -/
def pageNo : Page → Nat
  | .hub n => n % 256
  | .cd _ n => n % 256
  | .isl _ => 0
  | .wlki _ => 1

/-- Put an entry into the ledger's queue; one that meets a full queue is dropped and counted (R380),
as is one that a completed flush leaves out (R387). The answer says whether the queue was not full. -/
def queueEntry (e : LdgEntry) (s : State) : Bool × State :=
  if getF s pgLdg Reg.LDG_STAT_STATE = 4 then (true, bump pgLdg Reg.LDG_DROPPED 1 s)
  else if s.ldg.queue.length < 256 then
    (true, setF pgLdg Reg.LDG_QUEUE (s.ldg.queue.length + 1)
      { s with ldg := { s.ldg with queue := s.ldg.queue ++ [e] } })
  else (false, bump pgLdg Reg.LDG_DROPPED 1 s)

/-- The 44 data bytes of an entry: the given ones, then zeros (R378). -/
def pad44 (l : List Byte) : List Byte := (l ++ List.replicate 44 0).take 44

/-- The data of a FAULT entry: code, page, die code, ERR_ADDR, ERR_INFO (R378). -/
def faultData (s : State) (p : Page) (code : Nat) : List Byte :=
  pad44 (leBytes 1 code ++ leBytes 1 (pageNo p) ++ leBytes 1 (pageDie p) ++ leBytes 1 0 ++
    leBytes 4 (getF s p Reg.HDR_ERR_ADDR) ++ leBytes 4 (regW s (pageBase p + 0x28)).toNat)

/-- Is a queued entry a FAULT of this code, page and die. -/
def sameFault (p : Page) (code : Nat) (e : LdgEntry) : Bool :=
  e.etype = 5 && e.data.take 3 = leBytes 1 code ++ leBytes 1 (pageNo p) ++ leBytes 1 (pageDie p)

/-- Count a repeat in the newest queued entry of the same fault, given the queue newest first; `none` if it has none. -/
def mergeFault (p : Page) (code : Nat) : List LdgEntry → Option (List LdgEntry)
  | [] => none
  | e :: r => if sameFault p code e then some ({ e with count := e.count + 1 } :: r)
              else (mergeFault p code r).map (e :: ·)

/-- Queue a FAULT entry, or merge it with one of the same code, page and die queued or journalled within the last
1 s (R379). -/
def queueFault (p : Page) (code : Nat) (s : State) : Bool × State :=
  let old := s.ldg.faults.any (fun f => f.1 = code ∧ f.2.1 = pageNo p ∧ f.2.2.1 = pageDie p ∧
    s.io.now ≤ f.2.2.2 + 1000000000)
  match (if old then mergeFault p code s.ldg.queue.reverse else none) with
  | some q => (true, { s with ldg := { s.ldg with queue := q.reverse } })
  | none =>
    queueEntry ⟨5, 0, 1, devTime s, barCount s % 2 ^ 32, faultData s p code, []⟩
      { s with ldg := { s.ldg with faults :=
          (code, pageNo p, pageDie p, s.io.now) :: s.ldg.faults.filter (fun f => s.io.now ≤ f.2.2.2 + 1000000000) } }

/-! ### Interrupt sources (R301 to R304) -/

/-- INT_STAT of a page as a word. -/
def intStat (s : State) (p : Page) : Nat := getF s p Reg.HDR_INT_STAT_BLOCK + 2 ^ 31 * getF s p Reg.HDR_INT_STAT_ERR

/-- Does the page's interrupt source pend: INT_STAT and INT_EN share a set bit. -/
def pagePends (s : State) (p : Page) : Bool := intStat s p &&& getF s p Reg.HDR_INT_EN ≠ 0

/-- The interrupt source of a page. -/
def sourceOf : Page → Option Nat
  | .hub n => some n
  | .cd d n => some (128 + 64 * d + n)
  | _ => none

/-- Source i starts to pend: an island context gets its notification, the host context its MSI-X vector (R303). The
interrupt of a core is a level that follows the state. -/
def notify (i : Nat) (s : State) : State :=
  let x := getFi s pgIntc Reg.INTC_ROUTE_CTX i
  if s.mbx.claimed.contains i || x < 16 || 18 < x ||
      getFi s pgIntc Reg.INTC_ROUTE_PRIO i ≤ getFi s pgIntc Reg.INTC_THRESH x then s
  else if x = 18 then emit (.msix (getFi s pgIntc Reg.INTC_ROUTE_VEC i)) s
  else emit (.island (x - 16) (.mailbox i)) s

/-- The notification of a page whose source pends in `t` and did not in `s`. -/
def notifyEdge (p : Page) (s t : State) : State :=
  match sourceOf p with
  | some i => if !pagePends s p && pagePends t p then notify i t else t
  | none => t

/-! ### Recording an error (R445) -/

/-- The captures of R445 in a page's header, without what a warning or an interrupt brings. -/
def capture (p : Page) (code addr part : Nat) (s : State) : State :=
  let first := getF s p Reg.HDR_ERR_STAT_VALID = 0
  let s := bump p Reg.HDR_ERR_CNT 1 s
  let s := setF p Reg.HDR_ERR_INFO_LAST code s
  let s := setF p Reg.HDR_INT_STAT_ERR 1 s
  if first then
    setF p Reg.HDR_ERR_STAT_VALID 1 (setF p Reg.HDR_ERR_INFO_PART part
      (setF p Reg.HDR_ERR_ADDR addr (setF p Reg.HDR_ERR_INFO_FIRST code s)))
  else setF p Reg.HDR_ERR_STAT_MULTI 1 s

/-- A code is recorded in a page, without what a warning brings. -/
def recordPlain (p : Page) (code addr part : Nat) (s : State) : State := notifyEdge p s (capture p code addr part s)

/-- The warning word of a code recorded in page `p` (R300). -/
def warnWord (s : State) (p : Page) (code : Nat) : Word :=
  BitVec.ofNat 32 (code % 256 + 256 * pageNo p + 65536 * pageDie p + 16777216 * (barCount s % 256))

/-- Raise a warning (R300): queue its word, or count it lost with 0x10 when 64 words wait. -/
def raiseWarning (p : Page) (code : Nat) (s : State) : State :=
  if s.mbx.warn.length < 64 then
    setF pgMbx Reg.MBX_WARN_LEVEL (s.mbx.warn.length + 1)
      { s with mbx := { s.mbx with warn := s.mbx.warn ++ [warnWord s p code] } }
  else recordPlain pgMbx 0x10 0 0xFF (bump pgMbx Reg.MBX_WARN_LOST 1 s)

/-- What a warning-raising code brings beside its record: the warning and the FAULT entry (R300, R379). A FAULT entry
that meets a full queue records 0x71, which warns itself (R397); its own entry meets the same full queue and is only
counted (log entry 7). -/
def warnAbout (p : Page) (code : Nat) (s : State) : State :=
  let r := queueFault p code (raiseWarning p code s)
  if r.1 then r.2
  else (queueFault pgLdg 0x71 (raiseWarning pgLdg 0x71 (recordPlain pgLdg 0x71 0 0xFF r.2))).2

/-- Record a code that raises a warning. -/
def recordWarn (p : Page) (code addr part : Nat) (s : State) : State :=
  warnAbout p code (recordPlain p code addr part s)

/-- The codes that raise a warning whenever they are recorded: R56, R89, R119, R239, R265, R272, R370, R397, R416,
R439. The codes that warn by circumstance (R33, R76, R116) are recorded by `recordWarn` where they warn. -/
def codeWarns (c : Nat) : Bool :=
  c = 0x2F || c = 0x2E || c = 0x3E || (0x44 ≤ c && c ≤ 0x47) || c = 0x4F || c = 0x0D ||
  (0x60 ≤ c && c ≤ 0x63) || c = 0x65 || c = 0x66 || (0x6A ≤ c && c ≤ 0x6F) ||
  (0x70 ≤ c && c ≤ 0x7F && c ≠ 0x7A) || c = 0x80 || c = 0x8B || c = 0x8C || c = 0x8E ||
  c = 0x03 || c = 0x0F || c = 0x1F

/-- Record error code `code` in page `p` with the address (64-byte units) and partition of the work (R445); every code recorded in CLAP
warns. -/
def recordAt (p : Page) (code addr part : Nat) (s : State) : State :=
  if codeWarns code || p = pgClap then recordWarn p code addr part s else recordPlain p code addr part s

/-- Record an error code that carries no address and is of no partition. -/
def record (p : Page) (code : Nat) (s : State) : State := recordAt p code 0 0xFF s

/-- Record an error code of a partition's work. -/
def recordPart (p : Page) (code part : Nat) (s : State) : State := recordAt p code 0 part s

/-- Masters 0 to 19, to which the control region is refused (R279). -/
def dataMaster : Agent → Bool
  | .work _ => true
  | .ingest => true
  | .fusion _ => true
  | .collector _ => true
  | .sequencer => true
  | _ => false

/-- The regulator master of an agent (R284). -/
def masterNo : Agent → Nat
  | .work p => p % 16 | .ingest => 16 | .fusion _ => 17 | .collector _ => 18 | .sequencer => 19 | .core k => 20 + k % 8
  | .host => 28 | .dlk => 29 | .partner => 30 | .island _ => 31 | .islandHw _ => 31 | .mallet => 31 | .security => 31

/-- The partition for which an agent works. -/
def partOf : Agent → Option Nat
  | .work p => some p | .fusion p => some p | .collector p => some p | _ => none

/-- A write of `v` to a word of a page under the lock of R448: the fields that the lock holds keep their values, and 0x05
is recorded if the bits written to them differ; the rest of the word takes the write by `f`. -/
def underLock (p : Page) (off v : Nat) (f : Nat → State → State) (s : State) : State :=
  if !locked s p then f v s
  else
    let old := (regW s (pageBase p + off)).toNat
    let rows := (rowsAt p off).map (fun x => x.1)
    let held := rows.filter (fun r => r.acc = .rwl)
    let s := if held.any (fun r => decide (bitsOf v r.lo r.w ≠ bitsOf old r.lo r.w)) then record p 0x05 s else s
    if rows.all (fun r => r.acc = .rwl || r.acc = .ro) then s
    else f (held.foldl (fun u r => putBits u r.lo r.w (bitsOf old r.lo r.w)) v) s

/-- Queue a journal entry, recording 0x71 if the queue is full (R380). -/
def journal (etype key : Nat) (data : List Byte) (words : List (Nat × Word)) (s : State) : State :=
  let r := queueEntry ⟨etype, key, 1, devTime s, barCount s % 2 ^ 32, pad44 data, words⟩ s
  if r.1 then r.2 else record pgLdg 0x71 r.2

end Sys2Proof.Machine
end

