-- ==== Sys2Proof/Machine/DieOps.lean ====
section
/-! DEFINITION. What happens when a compute die leaves service or a W-link goes DOWN, shared by every cause (R33, R89,
R92, R467), and updates of the die structures. -/

namespace Sys2Proof.Machine

open Sys2Proof

/-! ### Access to the die structures -/

/-- CD_d beside its pages; a fresh die outside 0 to 3. -/
def dieOf (s : State) (d : Nat) : Die := s.dies.getD d Die.fresh

/-- Change CD_d. -/
def modDie (d : Nat) (f : Die → Die) (s : State) : State := { s with dies := s.dies.modify d f }

/-- Physical slot `e` of CD_d. -/
def engOf (s : State) (d e : Nat) : Eng := (dieOf s d).engs.getD e Eng.fresh

/-- Change physical slot `e` of CD_d. -/
def modEng (d e : Nat) (f : Eng → Eng) (s : State) : State :=
  modDie d (fun x => { x with engs := x.engs.modify e f }) s

/-- The physical slot that serves logical engine `k` of CD_d, by SPARE.MAP; `none` if the entry is not valid. -/
def slotOf (s : State) (d k : Nat) : Option Nat :=
  let b := bitsOf (getFi s (pgSpare d) Reg.SPARE_MAP (k / 4)) (8 * (k % 4)) 8
  if b.testBit 7 then some (b % 32) else none

/-- The logical engine that physical slot `e` of CD_d serves. -/
def logicalOf (s : State) (d e : Nat) : Option Nat := (List.range 16).find? (fun k => slotOf s d k = some e)

/-- Is CD_d in service. -/
def inService (s : State) (d : Nat) : Bool := d < 4 && flag s (pgCdId d) Reg.CD_ID_SVC

/-- The sequencer's state (R91). -/
def seqState (s : State) : Nat := getF s pgSeq Reg.SEQ_TBL_STAT_SEQ_STATE

/-- The timebase's state (R52). -/
def cycState (s : State) : Nat := getF s pgCyc Reg.CYC_STAT_STATE

/-- Do bars run: LOCKED or HOLDOVER (R52). -/
def barsRun (s : State) : Bool := cycState s = 2 || cycState s = 3

/-- The engine queue length shown in ENG_STAT.QUEUED and the state shown with it. -/
def showEng (d e : Nat) (s : State) : State :=
  setF (pgPe d e) Reg.PE_ENG_STAT_QUEUED (engOf s d e).queue.length s

/-- Show which contexts of CD_d hold a stroke, and how many scoreboard entries are in use: up to four of each
context's descriptors that wait (R105, R106). -/
def showDispatch (d : Nat) (s : State) : State :=
  let c := (dieOf s d).ctxs
  let busy := (c.map (fun x => decide (x ≠ none))).zipIdx.foldl (fun v b => if b.1 then v + 2 ^ b.2 else v) 0
  let used := sumOf (c.map (fun x => match x with | some k => Nat.min 4 k.list.length | none => 0))
  setF (pgSch d) Reg.SCH_DISPATCH_SB_USED used (setF (pgSch d) Reg.SCH_DISPATCH_CTX_BUSY busy s)

/-! ### Forced fallback (R89, R92) -/

/-- Start the forced fallback for the loss of CD_d: uncommitted requests are cancelled, a committed swap yields, the
shadow starts loading, and the strokes that target the die are voided until the swap. In IDLE none starts (R92). -/
def startFallback (d : Nat) (s : State) : State :=
  if seqState s = 0 then s
  else
    let s := { s with seq := { s.seq with committed := none, fallback := some d, lost := d :: s.seq.lost } }
    setF pgSeq Reg.SEQ_TBL_STAT_SHADOW 1 (setF pgSeq Reg.SEQ_TBL_STAT_FB_PENDING 1
      (setF pgSeq Reg.SEQ_TBL_STAT_CORE_PENDING 0 (setF pgSeq Reg.SEQ_TBL_STAT_ISL_PENDING 0 s)))

/-- The engines of CD_d stop: they hold no work, no partition and no brush load, and the scheduler's contexts empty. -/
def stopDie (d : Nat) (s : State) : State :=
  let s := modDie d (fun x => { x with ctxs := List.replicate 16 none, engs := x.engs.map (fun g => { Eng.fresh with trk := g.trk }) }) s
  let s := (List.range 18).foldl (fun t e =>
    let st := getF t (pgPe d e) Reg.PE_ENG_STAT_STATE
    let t := if st = 2 ∨ st = 3 ∨ st = 4 then setF (pgPe d e) Reg.PE_ENG_STAT_STATE 0 t else t
    setF (pgPe d e) Reg.PE_ENG_STAT_QUEUED 0 t) s
  showDispatch d s

/-- A run loses its engines on CD_d: the die counts as finished and the stroke is failed (R467). -/
def runLoses (d : Nat) (r : StrokeRun) : StrokeRun :=
  if r.targets.any (fun t => t.1 = d) then
    { r with targets := r.targets.filter (fun t => t.1 ≠ d), failed := true, diesDone := d :: r.diesDone }
  else r

/-- CD_d leaves service (R467): it stops, its strokes count it as finished and fail, and the forced fallback starts. -/
def dieLeave (d : Nat) (s : State) : State :=
  if inService s d then
    let s := setF (pgCdId d) Reg.CD_ID_SVC 0 s
    let s := setF pgHubId Reg.HUB_ID_BOOT_STAT_DIE_SVC (putBits (getF s pgHubId Reg.HUB_ID_BOOT_STAT_DIE_SVC) d 1 0) s
    let s := stopDie d s
    let s := { s with seq := { s.seq with runs := s.seq.runs.map (runLoses d) } }
    startFallback d s
  else s

/-! ### W-link topology (R33's chapter) -/

/-- The port at the other end: HP_n and HUBP of CD_n, HP_4 and HP_5 and the island ends, RING_E of CD_n and RING_W of
the next die. -/
def peerPort (p : Nat) : Nat :=
  if p < 4 then 6 + 3 * p
  else if p = 4 then 18
  else if p = 5 then 19
  else if p = 18 then 4
  else if p = 19 then 5
  else if p < 18 then
    let d := (p - 6) / 3
    if (p - 6) % 3 = 0 then d
    else if (p - 6) % 3 = 1 then 6 + 3 * ((d + 1) % 4) + 2
    else 6 + 3 * ((d + 3) % 4) + 1
  else p

/-- The page that holds a port's block, and the port's number there. -/
def portPage (p : Nat) : Page × Nat :=
  if p < 6 then (pgWlk, p)
  else if p < 18 then (pgWlkd ((p - 6) / 3), (p - 6) % 3)
  else if p < 20 then (.wlki (p - 18), 0)
  else (pgUci, 0)

/-- A field of a port's block. -/
def portF (s : State) (p : Nat) (r : Row) : Nat := getFi s (portPage p).1 r (portPage p).2

/-- Set a field of a port's block. -/
def setPortF (p : Nat) (r : Row) (v : Nat) (s : State) : State := setFi (portPage p).1 r (portPage p).2 v s

/-- A port beside its registers. -/
def portOf (s : State) (p : Nat) : Port := s.links.ports.getD p Port.fresh

/-- Change a port. -/
def modPort (p : Nat) (f : Port → Port) (s : State) : State :=
  { s with links := { s.links with ports := s.links.ports.modify p f } }

/-- Is the port a ring port. -/
def isRing (p : Nat) : Bool := 6 ≤ p && p < 18 && (p - 6) % 3 ≠ 0

/-- Is a ring link other than that of port `p` DOWN. -/
def otherRingDown (s : State) (p : Nat) : Bool :=
  (List.range 21).any (fun q => isRing q && q ≠ p && q ≠ peerPort p && portF s q Reg.PORT_P_STAT_STATE = 4)

/-- One end of a link goes DOWN and records 0x83 in its page (R33). -/
def endDown (p : Nat) (warn : Bool) (s : State) : State :=
  let s := setPortF p Reg.PORT_P_STAT_STATE 4 s
  let s := if p < 6 then setF pgWlk Reg.WLK_CENSUS_DOWN (putBits (getF s pgWlk Reg.WLK_CENSUS_DOWN) p 1 1) s else s
  if warn then recordWarn (portPage p).1 0x83 0 0xFF s else recordAt (portPage p).1 0x83 0 0xFF s

/-- Fence the partner port with a cause (R42). -/
def uciFence (cause : Nat) (s : State) : State :=
  emit .uciFence (setF pgUci Reg.UCI_STAT_CAUSE cause (setF pgUci Reg.UCI_STAT_STATE 5 s))

/-- A W-link goes DOWN in both directions (R33). HP_n to CD_n takes the die out of service; the second ring link that
is lost warns, by the record of its RING_E end (log entry 8). A link already DOWN stays as it is. For the partner port
the condition fences it (R43). -/
def linkDown (p : Nat) (s : State) : State :=
  if p = 20 then
    if getF s pgUci Reg.UCI_STAT_STATE = 4 then record pgUci 0x89 (uciFence 6 s) else s
  else if portF s p Reg.PORT_P_STAT_STATE = 4 then s
  else
    let q := peerPort p
    let first := Nat.min p q
    let second := Nat.max p q
    let warn := isRing p && otherRingDown s p
    let e := if isRing p && (p - 6) % 3 = 2 then q else first
    let f := if e = first then second else first
    let s := endDown f false (endDown e warn s)
    if first < 4 then dieLeave first s else s

end Sys2Proof.Machine
end

