-- ==== Sys2Proof/Machine/Limits.lean ====
section
/-! DEFINITION. The power limits that other units meet: the caps in force, the floor budget, the pending floors at a swap,
and what a fired stroke does to the phases (R340, R351, R352, R357). -/

namespace Sys2Proof.Machine

open Sys2Proof

/-! ### Access -/

/-- The operating-point state of CD_n beside its registers. -/
def diePwr (s : State) (n : Nat) : DiePwr := s.pwr.dies.getD n DiePwr.fresh

/-- Change it. -/
def modDiePwr (n : Nat) (f : DiePwr → DiePwr) (s : State) : State :=
  { s with pwr := { s.pwr with dies := s.pwr.dies.modify n f } }

/-- Change the power management beside the dies. -/
def modPwr (f : Pwr → Pwr) (s : State) : State := { s with pwr := f s.pwr }

/-- The current point, the requested point and the floor of CD_n. -/
def opAct (s : State) (n : Nat) : Nat := getFi s pgDvfs Reg.DVFS_OPC_ACT n
def opReq (s : State) (n : Nat) : Nat := getFi s pgDvfs Reg.DVFS_OPC_REQ n
def opFloor (s : State) (n : Nat) : Nat := getFi s pgDvfs Reg.DVFS_OPC_FLOOR n
def opTop (s : State) (n : Nat) : Nat := getFi s pgDvfs Reg.DVFS_OPC_TOP n

/-- The compute dies in service. -/
def diesIn (s : State) : List Nat := (List.range 4).filter (inService s)

/-! ### Caps (R357) -/

/-- E_1S, E_10MS and E_1MS of an envelope, W. -/
def envFigures (e : Nat) : Nat × Nat × Nat :=
  if e = 0 then (220, 240, 260) else if e = 1 then (400, 440, 480) else (650, 700, 750)

/-- The active envelope. -/
def envNow (s : State) : Nat := getF s pgCap Reg.CAP_STAT_ENV

/-- The number of good phases of the 36 stages. -/
def goodPhases (s : State) : Nat := sumOf ((List.range 5).map (fun r => (bitsSet 8 (getF s (pgVrc r) Reg.VRC_STAT_GOOD)).length))

/-- `v` clamped to 0 to `hi`. -/
def clampW (v : Int) (hi : Nat) : Nat := Nat.min v.toNat hi

/-- E_1S + SHIFT_W of an envelope, clamped. -/
def shifted1S (s : State) (e : Nat) : Nat := clampW ((envFigures e).1 + s.pwr.shift) 650

/-- 36 × a cap under envelope `e`, W: 0 LIM_1S, 1 LIM_10MS, 2 LIM_1MS. A cap times 36 is a whole number. -/
def lim36 (s : State) (e w : Nat) : Nat :=
  goodPhases s *
    (if w = 0 then Nat.min (shifted1S s e) (getF s pgCap Reg.CAP_COOL_LIM)
     else if w = 1 then clampW ((envFigures e).2.1 + s.pwr.shift) 700
     else Nat.min (envFigures e).2.2 (getF s pgCap Reg.CAP_VEH_1MS))

/-- Show the caps in force. -/
def showLims (s : State) : State :=
  (List.range 3).foldl (fun s w => setFi pgCap Reg.CAP_LIM w (roundOpen (lim36 s (envNow s) w) 36).toNat s) s

/-! ### The floor budget (R352) -/

/-- PMAX of CD_n at a point, 0.1 W. -/
def pmax (s : State) (n k : Nat) : Nat := getFij s pgDvfs Reg.DVFS_PMAX n k

/-- The retirement voltage of a point: V_test + OFFSET_MAX, mV. -/
def retireMv (s : State) (n k : Nat) : Nat :=
  getFij s pgDvfs Reg.DVFS_VT_V_TEST n k + getFi s pgDvfs Reg.DVFS_AGE_OFFSET_MAX n

/-- The floor budget of floors by die, 0.1 W. -/
def budgetOf (s : State) (fl : List Nat) : Nat :=
  sumOf ((diesIn s).map (fun n => pmax s n (nth0 fl n))) + getF s pgDvfs Reg.DVFS_HUB_W + 10 * getF s pgCap Reg.CAP_AUX_W

/-- Do floors pass both conditions under envelope `e`: the budget within LIM_1S, and each die's current within ILIM. -/
def floorsPass (s : State) (e : Nat) (fl : List Nat) : Bool :=
  decide (budgetOf s fl * 36 ≤ lim36 s e 0 * 10) &&
    (diesIn s).all (fun n => decide (pmax s n (nth0 fl n) * 1000 ≤ getF s (pgVrc n) Reg.VRC_ILIM * retireMv s n (nth0 fl n)))

/-- The pending floors, and the floors in force. -/
def floorsPend (s : State) : List Nat := (List.range 4).map (fun n => getFi s pgDvfs Reg.DVFS_OPC_FLOOR_PEND n)
def floorsNow (s : State) : List Nat := (List.range 4).map (fun n => opFloor s n)

/-- Show the floor budget. -/
def showBudget (s : State) : State := setF pgCap Reg.CAP_BUDGET (roundOpen (budgetOf s (floorsNow s)) 10).toNat s

/-- The pending floors take effect at a swap: those that do not rise first, then in die order those whose rise passes;
another keeps its floor and records 0x65 (R352). -/
def applyFloors (s : State) : State :=
  let pend := floorsPend s
  let s := (List.range 4).foldl (fun s n =>
    if nth0 pend n ≤ opFloor s n then setFi pgDvfs Reg.DVFS_OPC_FLOOR n (nth0 pend n) s else s) s
  let s := (List.range 4).foldl (fun s n =>
    if nth0 pend n ≤ opFloor s n then s
    else if floorsPass s (envNow s) ((floorsNow s).set n (nth0 pend n)) then setFi pgDvfs Reg.DVFS_OPC_FLOOR n (nth0 pend n) s
    else record pgDvfs 0x65 s) s
  showBudget s

/-! ### Phases and roll-in (R127, R340, R360) -/

/-- Every good phase of a rail that switches comes back. -/
def readdPhases (r : Nat) (s : State) : State :=
  if getF s (pgVrc r) Reg.VRC_STAT_ACTIVE = 0 then s
  else setF (pgVrc r) Reg.VRC_STAT_ACTIVE (getF s (pgVrc r) Reg.VRC_STAT_GOOD) s

/-- A roll-in begins on CD_n. -/
def rollIn (n : Nat) (s : State) : State := modDiePwr n (fun x => { x with roll := true }) s

end Sys2Proof.Machine
end

