-- ==== Sys2Proof/Machine/Operands.lean ====
section
/-! DEFINITION. The operand forms: the fields of a stroke (R59) and of a descriptor (R98), and the device address map
with the refusals of an access (R279, R280, R463). -/

namespace Sys2Proof.Machine

open Sys2Proof

/-! ### Strokes (R59) -/

abbrev Stroke := BitVec 128

/-- A field of a stroke. -/
def stF (k : Stroke) (lo w : Nat) : Nat := bitsOf k.toNat lo w

/-- AT, the tick at which the stroke fires. -/
def stAt (k : Stroke) : Nat := stF k 0 16
/-- OP. -/
def stOp (k : Stroke) : Nat := stF k 16 8
/-- PART. -/
def stPart (k : Stroke) : Nat := stF k 24 4
/-- CLASS. -/
def stClass (k : Stroke) : Nat := stF k 28 2
/-- DUE. -/
def stDue (k : Stroke) : Nat := stF k 32 16
/-- BUDGET. -/
def stBudget (k : Stroke) : Nat := stF k 48 16
/-- GROUP. -/
def stGroup (k : Stroke) : Nat := stF k 64 8
/-- DIES. -/
def stDies (k : Stroke) : Nat := stF k 72 4
/-- DESC, in 64-byte units. -/
def stDesc (k : Stroke) : Nat := stF k 80 32
/-- STREAM. -/
def stStream (k : Stroke) : Nat := stF k 112 8
/-- EPOCH. -/
def stEpoch (k : Stroke) : Nat := stF k 120 6
/-- NEXTBAR. -/
def stNextbar (k : Stroke) : Nat := stF k 126 1
/-- LAST. -/
def stLast (k : Stroke) : Nat := stF k 127 1
/-- The effective deadline D of R62. -/
def stD (k : Stroke) : Nat := stDue k + 65536 * stNextbar k
/-- The stroke with its EPOCH written. -/
def stWithEpoch (k : Stroke) (e : Nat) : Stroke := BitVec.ofNat 128 (putBits k.toNat 120 6 e)
/-- Does the operation use DUE (R61). -/
def stUsesDue (k : Stroke) : Bool := 1 ≤ stOp k && stOp k ≤ 7
/-- Is it a RUN or a RUN_PAIRED. -/
def stIsRun (k : Stroke) : Bool := stOp k = 1 || stOp k = 2
/-- The dies that a stroke names, ascending. -/
def stDieList (k : Stroke) : List Nat := bitsSet 4 (stDies k)
/-- The stroke that 16 bytes spell (R10). -/
def strokeOf (l : List Byte) : Stroke := BitVec.ofNat 128 (leNat (l.take 16))

/-! ### Descriptors (R98) -/

/-- Bits of the 32-bit word at byte offset `off` of a descriptor or job. -/
def dF (raw : List Byte) (off lo w : Nat) : Nat := bitsOf (leNat ((raw.drop off).take 4)) lo w

def dKind (r : List Byte) : Nat := dF r 0 0 8
def dSlot (r : List Byte) : Nat := dF r 0 8 4
def dDiem (r : List Byte) : Nat := dF r 0 12 4
def dSig (r : List Byte) : Nat := dF r 0 16 6
def dWait0 (r : List Byte) : Nat := dF r 0 22 6
def dLast (r : List Byte) : Bool := dF r 0 28 1 = 1
def dPost (r : List Byte) : Bool := dF r 0 29 1 = 1
def dWait1 (r : List Byte) : Nat := dF r 4 0 6
def dFmtA (r : List Byte) : Nat := dF r 4 8 4
def dFmtB (r : List Byte) : Nat := dF r 4 12 4
def dFmtC (r : List Byte) : Nat := dF r 4 16 4
def dEpi (r : List Byte) : Nat := dF r 4 24 4
def dQtrk (r : List Byte) : Nat := dF r 4 28 4
/-- Address of operand `x` (0 A, 1 B, 2 C, 3 D), in 64-byte units. -/
def dAddr (r : List Byte) (x : Nat) : Nat := dF r (8 + 8 * x) 0 32
/-- Tile offset of operand `x`, in 64-byte units. -/
def dToff (r : List Byte) (x : Nat) : Nat := dF r (12 + 8 * x) 0 16
/-- Space of operand `x`. -/
def dSp (r : List Byte) (x : Nat) : Nat := dF r (12 + 8 * x) 16 2

/-- The descriptor list at a device address: up to the first descriptor with LASTD, at most `n` descriptors (R98,
R103). -/
def fetchList (s : State) : Nat → Nat → List (List Byte)
  | 0, _ => []
  | n + 1, a =>
    let d := memBytes s a 64
    if dLast d then [d] else d :: fetchList s n (a + 64)

/-- The descriptors of a list selected for CD_d, each with its index (R98). -/
def selectedFor (d : Nat) (l : List (List Byte)) : List (Nat × List Byte) :=
  (l.zipIdx.filter (fun x => dDiem x.1 = 0 || (dDiem x.1).testBit d)).map (fun x => (x.2, x.1))

/-! ### The device address map (R279) -/

/-- What a device address belongs to. -/
inductive Region where
  | reserved
  | hubSram
  | pool (n : Nat)
  | control
  | partner
  | stack (n : Nat)
deriving DecidableEq, Repr

/-- The ranges of the map: first address, address past the end, content. -/
def addressMap : List (Nat × Nat × Region) :=
  [(0x04000000, 0x06000000, .hubSram),
   (0x08000000, 0x0C000000, .pool 0), (0x0C000000, 0x10000000, .pool 1),
   (0x10000000, 0x14000000, .pool 2), (0x14000000, 0x18000000, .pool 3),
   (0x40000000, 0x62000000, .control),
   (0x80000000, 0x100000000, .partner),
   (0x1000000000, 0x1600000000, .stack 0), (0x1600000000, 0x1C00000000, .stack 1),
   (0x1C00000000, 0x2200000000, .stack 2), (0x2200000000, 0x2800000000, .stack 3)]

/-- What an address belongs to. -/
def regionOf (a : Nat) : Region :=
  match addressMap.find? (fun e => decide (e.1 ≤ a ∧ a < e.2.1)) with
  | some e => e.2.2
  | none => .reserved

/-- The first address past `a` at which the map changes. -/
def regionEnd (a : Nat) : Nat :=
  match (addressMap.flatMap (fun e => [e.1, e.2.1])).find? (fun b => decide (a < b)) with
  | some b => b
  | none => a + 2 ^ 40

/-- The regions that `len` bytes from `a` on touch, each with its first byte and the number of bytes there. -/
def spans : Nat → Nat → Nat → List (Nat × Nat × Region)
  | 0, _, _ => []
  | fuel + 1, a, len =>
    if len = 0 then []
    else
      let n := Nat.min len (regionEnd a - a)
      (a, n, regionOf a) :: spans fuel (a + n) (len - n)

/-- The regions that an access touches (the map has fewer than 16 changes). -/
def touched (a len : Nat) : List (Nat × Nat × Region) := spans 24 a len

/-- Base device address of the stack of CD_n. -/
def stackBase (n : Nat) : Nat := 0x1000000000 + n * 0x600000000
/-- Base device address of the pool of CD_n. -/
def poolBase (n : Nat) : Nat := 0x08000000 + n * 0x04000000

/-- Is the stack of CD_n failed (R283). -/
def stackFailed (s : State) (n : Nat) : Bool := flag s (pgMsc n) Reg.MSC_STAT_FAILED

/-- Is the partner fenced: the port is not ACTIVE (R42). -/
def partnerFenced (s : State) : Bool := getF s pgUci Reg.UCI_STAT_STATE ≠ 4

/-- The refusal of a region's bytes: error code 0x08, 0x09 or 0x88 (R463), with `data` telling whether the control
region is refused (masters 0 to 19, R279). -/
def regionRefusal (s : State) (data : Bool) : Region → Option Nat
  | .reserved => some 0x09
  | .control => if data then some 0x09 else none
  | .partner => if partnerFenced s then some 0x88 else none
  | .stack n => if stackFailed s n then some 0x08 else none
  | _ => none

/-- The refusal of an access: the code of its lowest-addressed refused byte (R463). -/
def accessRefusal (s : State) (data : Bool) (a len : Nat) : Option Nat :=
  (touched a len).findSome? (fun e => regionRefusal s data e.2.2)

/-- The page in which a refused access records its code when no work of a stroke is behind it (R464). -/
def refusalPage (code : Nat) : Page := if code = 0x88 then pgUci else pgHubId

/-- The device address of an operand: space 0 as it is, spaces 1 and 2 from the executing die's stack and pool; `none`
for an offset outside its space, and for space 3, which is no device address (R280). -/
def spaceAddr (d sp units : Nat) : Option Nat :=
  if sp = 0 then some (units * 64)
  else if sp = 1 then (if units ≤ 0x17FFFFFF then some (stackBase d + units * 64) else none)
  else if sp = 2 then (if units ≤ 0xFFFFF then some (poolBase d + units * 64) else none)
  else none

/-! ### Partition windows (R269) -/

/-- The valid windows of partition p as last written to PRT. -/
def windowsWritten (s : State) (p : Nat) : List Win :=
  (List.range 8).filterMap (fun w =>
    if getFij s pgPrt Reg.PRT_WIN_VALID p w = 1 then
      let b := getFij s pgPrt Reg.PRT_WIN_BASE p w * 4096
      some ⟨b, b + getFij s pgPrt Reg.PRT_WIN_LEN p w * 4096, getFij s pgPrt Reg.PRT_WIN_WR p w = 1⟩
    else none)

/-- Is every byte of the range covered by windows (with write permission, for a write): from `a`, step to the furthest
end of a window that holds it. -/
def covered (ws : List Win) (write : Bool) : Nat → Nat → Nat → Bool
  | 0, a, e => decide (e ≤ a)
  | fuel + 1, a, e =>
    if e ≤ a then true
    else
      let b := maxOf ((ws.filter (fun w => w.lo ≤ a && a < w.hi && (!write || w.wr))).map (fun w => w.hi))
      if b ≤ a then false else covered ws write fuel b e

/-- Does an access pass the windows given (R269). -/
def windowsPass (ws : List Win) (write : Bool) (a len : Nat) : Bool := covered ws write 9 a (a + len)

end Sys2Proof.Machine
end

