-- ==== Sys2Proof/Machine/Access.lean ====
section
/-! DEFINITION. Loads and stores of the work of strokes and of the hub's masters: the charges of R275, the learned
regions of R215, and the tile SRAM with its owner tags (R270). -/

namespace Sys2Proof.Machine

open Sys2Proof

/-! ### Charges (R275) -/

/-- Change the live charges of partition p. -/
def modCharge (p : Nat) (f : Charges → Charges) (s : State) : State :=
  { s with acct := { s.acct with live := s.acct.live.modify p f } }

/-- Bytes of master `m` on stack `n` count, and for a partition its charge and its units for the energy estimate. -/
def chargeStack (m : Nat) (p : Option Nat) (n len : Nat) (s : State) : State :=
  let s := { s with acct := { s.acct with mbytes := s.acct.mbytes.modify m (satAdd 64 · len) } }
  match p with
  | some p =>
    modCharge p (fun c => { c with stack := c.stack.modify n (satAdd 64 · len) })
      { s with acct := { s.acct with stackU := s.acct.stackU.modify p (· + ceilDiv len 64) } }
  | none => s

/-- Bytes moved to or from a die pool are charged to the partition of the work. -/
def chargePool (p : Option Nat) (len : Nat) (s : State) : State :=
  match p with
  | some p =>
    modCharge p (fun c => { c with pool := satAdd 64 c.pool len })
      { s with acct := { s.acct with poolU := s.acct.poolU.modify p (· + ceilDiv len 64) } }
  | none => s

/-- The charges of an access performed. -/
def chargeMem (m : Nat) (p : Option Nat) (a len : Nat) (s : State) : State :=
  (touched a len).foldl (fun s x =>
    match x.2.2 with
    | .stack n => chargeStack m p n x.2.1 s
    | .pool _ => chargePool p x.2.1 s
    | _ => s) s

/-! ### Learned regions (R212, R215) -/

/-- First byte and length of learned region `n`. -/
def lregRange (s : State) (n : Nat) : Nat × Nat :=
  (getFi s pgAdm Reg.ADM_LREG_BASE n * 64, getFi s pgAdm Reg.ADM_LREG_LEN n * 64)

/-- State of learned region `n`. -/
def lregState (s : State) (n : Nat) : Nat := getFi s pgAdm Reg.ADM_LREG_CTL_STATE n

/-- Do `len` bytes from `a` touch learned region `n`. -/
def touchesLreg (s : State) (n a len : Nat) : Bool :=
  let r := lregRange s n
  lregState s n ≠ 0 && a < r.1 + r.2 && r.1 < a + len

/-- Do they touch a region that is not OPEN. -/
def lregRefuses (s : State) (a len : Nat) : Bool :=
  (List.range 8).any (fun n => touchesLreg s n a len && lregState s n ≠ 1)

/-- The die whose stack or pool discards a write of these bytes, if one does (R215): whether a pool, the die, and the
address. -/
def lregDiscard (s : State) (a len : Nat) : Option (Bool × Nat × Nat) :=
  (touched a len).findSome? (fun x =>
    match x.2.2 with
    | .stack n => if lregRefuses s x.1 x.2.1 then some (false, n, x.1) else none
    | .pool n => if lregRefuses s x.1 x.2.1 then some (true, n, x.1) else none
    | _ => none)

/-- Store bytes at a device address for a partition's work (0xFF for none): a write into a learned region that is not
OPEN is discarded whole (log entry 10). The answer says whether it was stored. -/
def storeDev (a : Nat) (bytes : List Byte) (part : Nat) (s : State) : Bool × State :=
  match lregDiscard s a bytes.length with
  | some (true, n, x) => (false, recordAt (pgPool n) 0x1B (x / 64) part (bump (pgPool n) Reg.POOL_LRN_DENIED 1 s))
  | some (false, n, x) => (false, recordAt (pgMsc n) 0x1B (x / 64) part s)
  | none => (true, memWrite a bytes s)

/-! ### Accesses of a stroke's work (R269, R279, R280) -/

/-- An access of a descriptor or job: write or read, space, byte offset in the space, bytes. -/
structure MemAcc where
  wr : Bool
  sp : Nat
  off : Nat
  len : Nat
deriving DecidableEq, Repr

/-- The device address of an access on CD_d; `none` where it leaves its space (R280). -/
def accAddr (d : Nat) (x : MemAcc) : Option Nat :=
  if x.sp = 0 then some x.off
  else if x.sp = 1 then (if x.off + x.len ≤ 0x600000000 then some (stackBase d + x.off) else none)
  else if x.sp = 2 then (if x.off + x.len ≤ 0x4000000 then some (poolBase d + x.off) else none)
  else none

/-- The windows in force of partition p. -/
def windowsInForce (s : State) (p : Nat) : List Win := (s.parts.getD p Part.fresh).cfg.wins

/-- Why an access of partition p's work is refused: its code and its device address. Windows come before the map
(log entry 11). -/
def accRefused (s : State) (d p : Nat) (x : MemAcc) : Option (Nat × Nat) :=
  if x.len = 0 ∨ x.sp = 3 then none
  else
    match accAddr d x with
    | none => some (0x09, x.off)
    | some a =>
      if windowsPass (windowsInForce s p) x.wr a x.len = false then some (0x0A, a)
      else (accessRefusal s true a x.len).map (fun c => (c, a))

/-- Charge the accesses of a partition's work as master `m`. -/
def chargeAccs (m p d : Nat) (l : List MemAcc) (s : State) : State :=
  l.foldl (fun s x =>
    match accAddr d x with
    | some a => if x.sp = 3 then s else chargeMem m (some p) a x.len s
    | none => s) s

/-! ### Tile SRAM (R270) -/

/-- Number of the tile segment of byte `off` of slot `e` of CD_d. -/
def segNo (d e off : Nat) : Nat := (d * 18 + e) * 64 + off % 2 ^ 22 / 65536

/-- Number of its 64-byte unit. -/
def unitNo (d e off : Nat) : Nat := (d * 18 + e) * 65536 + off % 2 ^ 22 / 64

/-- Owner tag of a segment: partition + 1, or 0 for NONE. -/
def segTag (s : State) (g : Nat) : Nat := sparseGet (fun _ => 0) s.tiles.tags g

/-- Is a unit's written bit set. -/
def unitWritten (s : State) (u : Nat) : Bool := sparseGet (fun _ => false) s.tiles.written u

/-- Partition p claims a segment whose tag is not p. -/
def claimSeg (p g : Nat) (s : State) : State :=
  if segTag s g = p + 1 then s
  else { s with tiles :=
    ⟨sparsePut (fun _ => 0) s.tiles.tags g (p + 1), s.tiles.written.filter (fun x => x.1 / 1024 ≠ g)⟩ }

/-- Set a unit's written bit; a unit that was not written starts from zeros (log entry 12). -/
def writeUnit (d e off : Nat) (s : State) : State :=
  let u := unitNo d e off
  if unitWritten s u then s
  else memWrite (tileKey d e (off / 64 * 64)) (List.replicate 64 0)
    { s with tiles := { s.tiles with written := sparsePut (fun _ => false) s.tiles.written u true } }

/-- The tile offsets at which the units (or segments) of `n` bytes from `off` on start, by granules of `g`. -/
def granules (g off n : Nat) : List Nat :=
  if n = 0 then [] else (List.range ((off + n - 1) / g - off / g + 1)).map (fun i => (off / g + i) * g)

/-- A write by work of partition p into the tile of slot `e` of CD_d. -/
def tileWrite (d e p off : Nat) (bytes : List Byte) (s : State) : State :=
  let s := (granules 65536 off bytes.length).foldl (fun s o => claimSeg p (segNo d e o) s) s
  let s := (granules 64 off bytes.length).foldl (fun s o => writeUnit d e o s) s
  memWrite (tileKey d e off) bytes s

/-- Is a unit readable by work of partition p. -/
def unitReadable (s : State) (d e p off : Nat) : Bool :=
  segTag s (segNo d e off) = p + 1 && unitWritten s (unitNo d e off)

/-- The bytes that a read by work of partition p gets. -/
def tileRead (s : State) (d e p off n : Nat) : List Byte :=
  (List.range n).map (fun i =>
    if unitReadable s d e p (off + i) then sparseGet memDefault s.mem (tileKey d e (off + i)) else 0)

/-- A read counts in TILE_XPART the units that it gets as zero. -/
def tileReadCount (d e p off n : Nat) (s : State) : State :=
  bump (pgPe d e) Reg.PE_TILE_XPART ((granules 64 off n).filter (fun o => !unitReadable s d e p o)).length s

/-- Every segment tagged with partition p becomes NONE (R272). -/
def clearTags (p : Nat) (s : State) : State :=
  { s with tiles := { s.tiles with tags := s.tiles.tags.filter (fun x => x.2 ≠ p + 1) } }

/-- The return sequence of a slot: its tile is zero and its tags NONE (R123, R270). -/
def clearTile (d e : Nat) (s : State) : State :=
  { s with
    mem := s.mem.filter (fun c => !(decide (tileKey d e 0 ≤ c.1) && decide (c.1 < tileKey d e 0 + 2 ^ 22)))
    tiles := ⟨s.tiles.tags.filter (fun x => x.1 / 64 ≠ d * 18 + e), s.tiles.written.filter (fun x => x.1 / 65536 ≠ d * 18 + e)⟩ }

end Sys2Proof.Machine
end

