-- ==== Sys2Proof/Machine/Float.lean ====
section
/-! DEFINITION. The number formats and their arithmetic: encodings, exact values, rounding to nearest even, conversions
(R129 to R138), and CRC-32C. -/

namespace Sys2Proof.Machine

open Sys2Proof

/-- A value before rounding: finite values are exact, `m * 2 ^ e` with a sign. -/
inductive Num where
  | nan
  | inf (neg : Bool)
  | fin (neg : Bool) (m : Nat) (e : Int)
deriving DecidableEq, Repr

/-! ### Floating-point encodings (R130) -/

/-- Widths and bias of a floating-point format. `spec`: 0 IEEE infinities and NaNs, 1 the one NaN of E4M3, 2 neither. -/
structure FpFmt where
  ew : Nat
  mw : Nat
  bias : Nat
  spec : Nat
deriving DecidableEq, Repr

def fmtFP32 : FpFmt := ⟨8, 23, 127, 0⟩
def fmtBF16 : FpFmt := ⟨8, 7, 127, 0⟩
def fmtFP16 : FpFmt := ⟨5, 10, 15, 0⟩
def fmtE4M3 : FpFmt := ⟨4, 3, 7, 1⟩
def fmtE5M2 : FpFmt := ⟨5, 2, 15, 0⟩
def fmtE2M3 : FpFmt := ⟨2, 3, 1, 2⟩
def fmtE3M2 : FpFmt := ⟨3, 2, 3, 2⟩
def fmtE2M1 : FpFmt := ⟨2, 1, 1, 2⟩

/-- The value that an encoding spells. -/
def fpDecode (f : FpFmt) (b : Nat) : Num :=
  let s := b.testBit (f.ew + f.mw)
  let x := bitsOf b f.mw f.ew
  let m := bitsOf b 0 f.mw
  let top := 2 ^ f.ew - 1
  if f.spec = 0 ∧ x = top then (if m = 0 then .inf s else .nan)
  else if f.spec = 1 ∧ x = top ∧ m = 2 ^ f.mw - 1 then .nan
  else if x = 0 then .fin s m (1 - (f.bias : Int) - f.mw)
  else .fin s (2 ^ f.mw + m) ((x : Int) - f.bias - f.mw)

/-- `m * 2 ^ k`, rounded to nearest with ties to even. -/
def shiftRne (m : Nat) (k : Int) : Nat :=
  if 0 ≤ k then m * 2 ^ k.toNat
  else
    let d := 2 ^ (-k).toNat
    if 2 * (m % d) > d ∨ (2 * (m % d) = d ∧ (m / d) % 2 = 1) then m / d + 1 else m / d

/-- Encoding, sign apart, of `m * 2 ^ e` rounded to nearest even in format `f` with its exponent unbounded above. -/
def fpMag (f : FpFmt) (m : Nat) (e : Int) : Nat :=
  if m = 0 then 0
  else
    let lo : Int := 1 - f.bias
    let b := max ((Nat.log2 m : Int) + e) lo
    let q := shiftRne m (e - (b - f.mw))
    if q < 2 ^ f.mw then q else ((b - lo).toNat + 1) * 2 ^ f.mw + (q - 2 ^ f.mw)

/-- Encoding of the largest finite magnitude. -/
def fpMax (f : FpFmt) : Nat :=
  if f.spec = 0 then (2 ^ f.ew - 1) * 2 ^ f.mw - 1
  else if f.spec = 1 then 2 ^ (f.ew + f.mw) - 2
  else 2 ^ (f.ew + f.mw) - 1

/-- The sign bit of a format. -/
def fpSign (f : FpFmt) (neg : Bool) : Nat := if neg then 2 ^ (f.ew + f.mw) else 0

/-- Round a value to an IEEE format: overflow gives an infinity, a NaN the canonical quiet NaN (R138). -/
def fpRound (f : FpFmt) (x : Num) : Nat :=
  let inf := (2 ^ f.ew - 1) * 2 ^ f.mw
  match x with
  | .nan => inf + 2 ^ (f.mw - 1)
  | .inf s => fpSign f s + inf
  | .fin s m e => fpSign f s + Nat.min (fpMag f m e) inf

/-- The exact value of an FP32 word. -/
def f32 (w : Word) : Num := fpDecode fmtFP32 w.toNat

/-- Round to FP32. -/
def toF32 (x : Num) : Word := BitVec.ofNat 32 (fpRound fmtFP32 x)

/-- The FP32 word that BF16 bits stand for. -/
def bf16ToF32 (b : Nat) : Word := BitVec.ofNat 32 ((b % 65536) * 65536)

/-- Round an FP32 word to BF16 bits. -/
def f32ToBf16 (w : Word) : Nat := fpRound fmtBF16 (f32 w)

/-! ### Exact arithmetic -/

/-- The value of an integer. -/
def numOfInt (i : Int) : Num := .fin (decide (i < 0)) i.natAbs 0

/-- The signed significand of a finite value. -/
def sigInt (neg : Bool) (m : Nat) : Int := if neg then -(m : Int) else m

/-- A finite value from a signed significand; an exact zero is +0. -/
def finOf (i : Int) (e : Int) : Num := .fin (decide (i < 0)) i.natAbs e

def negN : Num → Num
  | .nan => .nan
  | .inf s => .inf (!s)
  | .fin s m e => .fin (!s) m e

def absN : Num → Num
  | .nan => .nan
  | .inf _ => .inf false
  | .fin _ m e => .fin false m e

/-- Exact sum; two zeros keep a common sign, any other zero sum is +0. -/
def addN : Num → Num → Num
  | .nan, _ => .nan
  | _, .nan => .nan
  | .inf a, .inf b => if a = b then .inf a else .nan
  | .inf a, _ => .inf a
  | _, .inf b => .inf b
  | .fin a m e, .fin b n g =>
    if m = 0 ∧ n = 0 then .fin (a && b) 0 0
    else
      let l := min e g
      finOf (sigInt a m * 2 ^ (e - l).toNat + sigInt b n * 2 ^ (g - l).toNat) l

def subN (a b : Num) : Num := addN a (negN b)

/-- Exact product. -/
def mulN : Num → Num → Num
  | .nan, _ => .nan
  | _, .nan => .nan
  | .inf a, .inf b => .inf (a != b)
  | .inf a, .fin b n _ => if n = 0 then .nan else .inf (a != b)
  | .fin a m _, .inf b => if m = 0 then .nan else .inf (a != b)
  | .fin a m e, .fin b n g => .fin (a != b) (m * n) (e + g)

/-- Quotient to 80 bits with a sticky bit below them, enough for one correct rounding. -/
def divN : Num → Num → Num
  | .nan, _ => .nan
  | _, .nan => .nan
  | .inf _, .inf _ => .nan
  | .inf a, .fin b _ _ => .inf (a != b)
  | .fin a _ _, .inf b => .fin (a != b) 0 0
  | .fin a m e, .fin b n g =>
    if n = 0 then (if m = 0 then .nan else .inf (a != b))
    else
      let k := 80 + Nat.log2 n
      let q := m * 2 ^ k
      .fin (a != b) (2 * (q / n) + (if q % n = 0 then 0 else 1)) (e - g - k - 1)

/-- Square root to 40 bits or more with a sticky bit. -/
def sqrtN : Num → Num
  | .nan => .nan
  | .inf s => if s then .nan else .inf false
  | .fin s m e =>
    if m = 0 then .fin s 0 0
    else if s then .nan
    else
      let k : Nat := if e % 2 = 0 then 100 else 101
      let v := m * 2 ^ k
      let r := Nat.sqrt v
      .fin false (2 * r + (if r * r = v then 0 else 1)) ((e - k) / 2 - 1)

/-- Does `a < b` hold; never with a NaN. -/
def ltN (a b : Num) : Bool :=
  match a, b with
  | .nan, _ => false
  | _, .nan => false
  | .inf x, .inf y => x && !y
  | .inf x, _ => x
  | _, .inf y => !y
  | .fin a m e, .fin b n g =>
    let l := min e g
    decide (sigInt a m * 2 ^ (e - l).toNat < sigInt b n * 2 ^ (g - l).toNat)

def isNanN (a : Num) : Bool := a = .nan
def isInfN : Num → Bool
  | .inf _ => true
  | _ => false
def isFinN : Num → Bool
  | .fin _ _ _ => true
  | _ => false

/-- The larger of two values; a NaN if either is one; +0 above -0. -/
def maxN (a b : Num) : Num :=
  if a = .nan ∨ b = .nan then .nan
  else if ltN a b then b
  else if ltN b a then a
  else match a with
    | .fin true 0 _ => b
    | x => x

/-- The value in `2 ^ -k` units rounded to the nearest integer, ties to even; 0 for a value that is not finite. -/
def rneInt (k : Int) : Num → Int
  | .fin s m e => sigInt s (shiftRne m (e + k))
  | _ => 0

/-- The floor of a finite value; 0 for others. -/
def floorN : Num → Int
  | .fin s m e => if 0 ≤ e then sigInt s m * 2 ^ e.toNat else sigInt s m / 2 ^ (-e).toNat
  | _ => 0

/-! ### FP32 operations, each rounded once (R138) -/

def addF (a b : Word) : Word := toF32 (addN (f32 a) (f32 b))
def subF (a b : Word) : Word := toF32 (subN (f32 a) (f32 b))
def mulF (a b : Word) : Word := toF32 (mulN (f32 a) (f32 b))
def divF (a b : Word) : Word := toF32 (divN (f32 a) (f32 b))
def sqrtF (a : Word) : Word := toF32 (sqrtN (f32 a))
def maxF (a b : Word) : Word := toF32 (maxN (f32 a) (f32 b))
def ltF (a b : Word) : Bool := ltN (f32 a) (f32 b)
def leF (a b : Word) : Bool := !ltF b a && f32 a ≠ .nan && f32 b ≠ .nan
def negF (a : Word) : Word := a ^^^ 0x80000000
def absF (a : Word) : Word := a &&& 0x7FFFFFFF
def finF (a : Word) : Bool := isFinN (f32 a)
def nanF (a : Word) : Bool := isNanN (f32 a)
/-- The FP32 word nearest an integer. -/
def ofIntF (i : Int) : Word := toF32 (numOfInt i)
/-- The FP32 word nearest `n / d`. -/
def ratF (n : Int) (d : Nat) : Word := toF32 (divN (numOfInt n) (numOfInt d))
def oneF : Word := 0x3F800000
def zeroF : Word := 0
/-- Negative infinity. -/
def ninfF : Word := 0xFF800000

/-! ### Elements by format code (R98, R129, R131) -/

/-- Width of an element in bits. -/
def elemBits (c : Nat) : Nat :=
  if c = 1 ∨ c = 11 then 4
  else if c = 9 ∨ c = 10 then 6
  else if c = 4 ∨ c = 5 then 16
  else if c = 12 ∨ c = 13 then 32
  else 8

/-- Is the format block-scaled. -/
def isMx (c : Nat) : Bool := 6 ≤ c && c ≤ 11

/-- Is the format an integer one, MXINT8 included (R95). -/
def isIntFmt (c : Nat) : Bool := c = 0 || c = 1 || c = 6 || c = 12

/-- Is the output format quantised (R141). -/
def isQuant (c : Nat) : Bool := c ≤ 3

/-- The floating-point format of a code. -/
def elemFp (c : Nat) : FpFmt :=
  if c = 2 ∨ c = 7 then fmtE4M3
  else if c = 3 ∨ c = 8 then fmtE5M2
  else if c = 4 then fmtBF16
  else if c = 5 then fmtFP16
  else if c = 9 then fmtE2M3
  else if c = 10 then fmtE3M2
  else if c = 11 then fmtE2M1
  else fmtFP32

/-- The value of an element, block scale apart. -/
def elemVal (c v : Nat) : Num :=
  if c = 6 then .fin (decide (sint 8 v < 0)) (sint 8 v).natAbs (-6)
  else if isIntFmt c then numOfInt (sint (elemBits c) v)
  else fpDecode (elemFp c) v

/-- What a conversion gives: the element, and whether it counts as NaN, clipped or infinite. -/
structure Conv where
  code : Nat
  nan : Bool
  clip : Bool
  inf : Bool
deriving DecidableEq, Repr

/-- Conversion to an integer of `w` bits that never produces the most negative value. -/
def convInt (w : Nat) (x : Num) : Conv :=
  let mx : Int := 2 ^ (w - 1) - 1
  match x with
  | .nan => ⟨0, true, false, false⟩
  | .inf s => ⟨unsint w (if s then -mx else mx), false, true, true⟩
  | .fin s m e =>
    let i := rneInt 0 (.fin s m e)
    if i > mx then ⟨unsint w mx, false, true, false⟩
    else if i < -mx then ⟨unsint w (-mx), false, true, false⟩
    else ⟨unsint w i, false, false, false⟩

/-- Conversion to a format that saturates at its largest finite magnitude. -/
def convSat (f : FpFmt) (x : Num) : Conv :=
  match x with
  | .nan => ⟨2 ^ (f.ew + f.mw) - 1, true, false, false⟩
  | .inf s => ⟨fpSign f s + fpMax f, false, true, true⟩
  | .fin s m e =>
    if fpMag f m e > fpMax f then ⟨fpSign f s + fpMax f, false, true, false⟩
    else ⟨fpSign f s + fpMag f m e, false, false, false⟩

/-- Conversion into a target format (R138). -/
def convertTo (c : Nat) (x : Num) : Conv :=
  if c = 0 then convInt 8 x
  else if c = 1 then convInt 4 x
  else if c = 2 ∨ c = 3 then convSat (elemFp c) x
  else ⟨fpRound (elemFp c) x, isNanN x, false, false⟩

/-! ### Packed rows (R131 to R134) -/

/-- Bytes of the packed elements of a row. -/
def packedLen (c n : Nat) : Nat := ceilDiv (n * elemBits c) 8

/-- Bytes of a row with its block scales, b of R101. -/
def rowLen (c n : Nat) : Nat := packedLen c n + (if isMx c then ceilDiv n 32 else 0)

/-- Staged pitch of a row. -/
def rowPitch (c n : Nat) : Nat := ceilDiv (rowLen c n) 64 * 64

/-- The code of element `i` of a packed row. -/
def elemCode (c : Nat) (row : List Byte) (i : Nat) : Nat :=
  bitsOf (leNat ((row.drop (i * elemBits c / 8)).take 5)) (i * elemBits c % 8) (elemBits c)

/-- The value of element `i` of a stored row of `n` elements, with its block scale. -/
def rowElem (c n : Nat) (row : List Byte) (i : Nat) : Num :=
  let v := elemCode c row i
  if isMx c then
    let x := (row.getD (packedLen c n + i / 32) 0).toNat
    if x = 255 then .nan else mulN (elemVal c v) (.fin false 1 ((x : Int) - 127))
  else elemVal c v

/-- The values of a stored row of `n` elements. -/
def rowVals (c n : Nat) (row : List Byte) : List Num := (List.range n).map (rowElem c n row)

/-- Pack element codes of `w` bits into bytes, the rest of the last byte zero. -/
def packCodes (w : Nat) (l : List Nat) : List Byte :=
  leBytes (ceilDiv (l.length * w) 8) (l.foldr (fun v acc => v % 2 ^ w + 2 ^ w * acc) 0)

/-- Exponent of the largest normal element (R134). -/
def mxEmax (c : Nat) : Int :=
  if c = 7 then 8 else if c = 8 then 15 else if c = 9 then 2 else if c = 10 then 4 else if c = 11 then 2 else 0

/-- A block of a block-scaled output: scale byte, element codes, NaN elements (R134). -/
def mxBlock (c : Nat) (vs : List Num) : Nat × List Nat × Nat :=
  let nans := (vs.filter isNanN).length
  if nans ≠ 0 then (255, vs.map (fun _ => 0), nans)
  else
    let a := (vs.filter isFinN).foldl (fun m v => maxN m (absN v)) (.fin false 0 0)
    match a with
    | .fin _ m e =>
      if m = 0 ∧ vs.all isFinN then (0, vs.map (fun _ => 0), 0)
      else
        let lg : Int := if m = 0 then -1000 else (Nat.log2 m : Int) + e
        let x := max 0 (min 254 (lg - mxEmax c + 127))
        let sc := fun v => mulN v (.fin false 1 (127 - x))
        (x.toNat, vs.map (fun v => if c = 6 then (convInt 8 (mulN (sc v) (.fin false 1 6))).code
          else (convSat (elemFp c) (sc v)).code), 0)
    | _ => (255, vs.map (fun _ => 0), 0)

/-- Cut a list into pieces of `n`. -/
def chunksOf {α : Type} (n : Nat) : Nat → List α → List (List α)
  | 0, _ => []
  | fuel + 1, l => if l = [] then [] else l.take n :: chunksOf n fuel (l.drop n)

/-- `chunksOf` over a whole list. -/
def chunks {α : Type} [DecidableEq α] (n : Nat) (l : List α) : List (List α) := chunksOf n l.length l

/-- A block-scaled row, and its NaN elements. -/
def mxRow (c : Nat) (vs : List Num) : List Byte × Nat :=
  let bs := (chunks 32 vs).map (mxBlock c)
  (packCodes (elemBits c) (bs.flatMap (fun b => b.2.1)) ++ bs.map (fun b => BitVec.ofNat 8 b.1), sumOf (bs.map (fun b => b.2.2)))

/-! ### Accumulation (R135, R136) -/

/-- Arithmetic right shift that rounds the bits shifted out to nearest, ties to even; 0 from a shift of 40 on. -/
def shrRne (v : Int) (k : Nat) : Int := if k ≥ 40 then 0 else rneInt (-(k : Int)) (numOfInt v)

/-- A scaled INT32 accumulator: value, exponent, and whether nothing has entered it. -/
structure ScaledAcc where
  v : Int
  e : Int
  first : Bool
deriving DecidableEq, Repr

/-- A block sum enters the MXINT8 accumulator (acc_block of R135). -/
def accBlock (a : ScaledAcc) (sum : Int) (ex : Int) : ScaledAcc :=
  if a.first then ⟨sum, ex, false⟩
  else
    let v := if ex > a.e then shrRne a.v (ex - a.e).toNat else a.v
    let e := max ex a.e
    let sum := if ex > a.e then sum else shrRne sum (a.e - ex).toNat
    let t := v + sum
    if t > 2147483647 ∨ t < -2147483647 then ⟨shrRne t 1, e + 1, false⟩ else ⟨t, e, false⟩

/-- The pair of a finite FP32 value (R136). -/
def scaledOf (w : Word) : ScaledAcc :=
  match f32 w with
  | .fin s m e => ⟨sigInt s m, e, false⟩
  | _ => ⟨0, -149, false⟩

/-- A scaled INT32 as FP32 (R136). -/
def scaledToF32 (a : ScaledAcc) : Word := toF32 (finOf a.v a.e)

/-- The exact sum of products of two rows. -/
def dotN (a b : List Num) : Num := (List.zipWith mulN a b).foldl addN (.fin false 0 0)

/-- Elements of K in one pass: 128 × p (R94). -/
def passLen (fa fb : Nat) : Nat := if (fa = 1 ∧ fb = 1) ∨ (fa = 11 ∧ fb = 11) then 256 else 128

/-- Pass sums enter an FP32 accumulator, one rounding each. -/
def accumF (n : Nat) (init : Word) (a b : List Num) : Word :=
  (List.zip (chunks n a) (chunks n b)).foldl (fun acc x => toF32 (addN (f32 acc) (dotN x.1 x.2))) init

/-- Pass sums enter an INT32 accumulator with saturation; the count is of the additions that saturated. -/
def accumI (n : Nat) (init : Int) (a b : List Num) : Int × Nat :=
  (List.zip (chunks n a) (chunks n b)).foldl (fun acc x =>
    let t := acc.1 + rneInt 0 (dotN x.1 x.2)
    if t > 2147483647 then (2147483647, acc.2 + 1)
    else if t < -2147483647 then (-2147483647, acc.2 + 1)
    else (t, acc.2)) (init, 0)

/-! ### CRC-32C, with the parameters of its standard (log entry 9) -/

/-- One reflected step of CRC-32C. -/
def crc32cBit (c : Nat) : Nat := if c % 2 = 1 then (c / 2) ^^^ 0x82F63B78 else c / 2

/-- CRC-32C over one byte. -/
def crc32cByte (c b : Nat) : Nat :=
  crc32cBit (crc32cBit (crc32cBit (crc32cBit (crc32cBit (crc32cBit (crc32cBit (crc32cBit (c ^^^ b))))))))

/-- CRC-32C: reflected Castagnoli polynomial, all ones before, complemented after. -/
def crc32c (l : List Byte) : Nat := (l.foldl (fun c b => crc32cByte c b.toNat) 0xFFFFFFFF) ^^^ 0xFFFFFFFF

end Sys2Proof.Machine
end

