-- ==== Sys2Proof/Machine/Tensor.lean ====
section
/-! DEFINITION. Operands of descriptors and the output path: staged matrices, blocked tensors, and the steps of R142
with what they count for the scale trackers. -/

namespace Sys2Proof.Machine

open Sys2Proof

/-- Who executes a descriptor: die, physical slot, partition. -/
structure Who where
  d : Nat
  e : Nat
  p : Nat
deriving DecidableEq, Repr

/-- Bytes that work reads in a space: the tile by its tags, the other spaces at their device address. -/
def readSp (s : State) (w : Who) (sp off n : Nat) : List Byte :=
  if sp = 3 then tileRead s w.d w.e w.p off n
  else
    match accAddr w.d ⟨false, sp, off, n⟩ with
    | some a => memBytes s a n
    | none => List.replicate n 0

/-- A matrix operand: space, byte offset, source row pitch, rows, columns, format, stored transposed. -/
structure Mat where
  sp : Nat
  off : Nat
  pitch : Nat
  rows : Nat
  cols : Nat
  fmt : Nat
  tr : Bool
deriving DecidableEq, Repr

/-- A matrix in the place an operand names: in space 3 it stands there as it would be staged (R98, R101). -/
def matOf (raw : List Byte) (x fmt rows cols pitch : Nat) (tr : Bool) : Mat :=
  if dSp raw x = 3 then ⟨3, dAddr raw x * 64, rowPitch fmt cols, rows, cols, fmt, false⟩
  else ⟨dSp raw x, dAddr raw x * 64, pitch, rows, cols, fmt, tr⟩

/-- Lines of a matrix in memory, and elements of a line. -/
def matLines (m : Mat) : Nat × Nat := if m.tr then (m.cols, m.rows) else (m.rows, m.cols)

/-- The accesses that move a matrix. -/
def matAccs (wr : Bool) (m : Mat) : List MemAcc :=
  (List.range (matLines m).1).map (fun i => ⟨wr, m.sp, m.off + i * m.pitch, rowLen m.fmt (matLines m).2⟩)

/-- The rows of a matrix as they are staged. -/
def matRows (s : State) (w : Who) (m : Mat) : List (List Byte) :=
  let ls := (List.range (matLines m).1).map (fun i => readSp s w m.sp (m.off + i * m.pitch) (rowLen m.fmt (matLines m).2))
  if m.tr then
    (List.range m.rows).map (fun i => packCodes (elemBits m.fmt) (ls.map (fun l => elemCode m.fmt l i)))
  else ls

/-- What staging rows at tile offset `toff` writes: tile byte offsets and bytes; nothing for an operand in space 3. -/
def stageRows (sp toff pitch : Nat) (rows : List (List Byte)) : List (Nat × List Byte) :=
  if sp = 3 then [] else rows.zipIdx.map (fun r => (toff * 64 + r.2 * pitch, r.1))

/-- Word `i` of a list of bytes. -/
def wordAt (l : List Byte) (i : Nat) : Word := BitVec.ofNat 32 (leNat ((l.drop (4 * i)).take 4))

/-- The D region of a descriptor. -/
def dBytes (s : State) (w : Who) (raw : List Byte) (len : Nat) : List Byte := readSp s w (dSp raw 3) (dAddr raw 3 * 64) len

/-- 64-byte units of an FP32 vector of `n` entries. -/
def vecUnits (n : Nat) : Nat := ceilDiv (4 * n) 64

/-- The vectors r, bias and s0 in D of a GEMM or convolution with `n` output channels (R140). -/
structure DVecs where
  r : Option (List Word)
  bias : Option (List Word)
  s0 : List Word
deriving DecidableEq, Repr

/-- Read the vectors of D, by EPI, QTRK and DLEN. -/
def dVecs (db : List Byte) (epi qtrk dlen n : Nat) : DVecs :=
  let need := (if epi ≠ 0 then vecUnits n else 0) + (if qtrk ≠ 0 then vecUnits n else 0)
  let hasR := decide (dlen ≠ need)
  let rU := if hasR then vecUnits n else 0
  let vec := fun u => (List.range n).map (fun i => wordAt db (16 * u + i))
  ⟨if hasR then some (vec 0) else none,
   if epi ≠ 0 then some (vec rU) else none,
   if qtrk ≠ 0 then vec (rU + (if epi ≠ 0 then vecUnits n else 0)) else []⟩

/-- The epilogue's activation (R98, R142): ReLU is max(y, +0.0). -/
def activate (epi : Nat) (y : Word) : Word :=
  if epi = 2 then maxF y zeroF
  else if epi = 3 then Config.geluF y
  else if epi = 4 then Config.siluF y
  else if epi = 5 then Config.sigmoidF y
  else y

/-- The output path up to the quantiser: dequantisation, bias and activation of channel `c`. -/
def outY (v : DVecs) (epi c : Nat) (y : Word) : Word :=
  let y := match v.r with | some r => mulF y (r.getD c oneF) | none => y
  let y := match v.bias with | some b => addF y (b.getD c zeroF) | none => y
  activate epi y

/-- What a descriptor's outputs count: per channel the largest finite magnitude and the clipped and total outputs; NaN
and infinite outputs. -/
structure OutAcc where
  amax : List Word
  clip : List Nat
  total : List Nat
  nan : Nat
  inf : Nat
deriving DecidableEq, Repr

/-- Nothing counted yet, for `n` channels. -/
def OutAcc.zero (n : Nat) : OutAcc := ⟨List.replicate n 0, List.replicate n 0, List.replicate n 0, 0, 0⟩

/-- The quantiser and converter of R142 on the value `y` of channel `c`, scale `sc`. -/
def outElem (fmt c : Nat) (sc y : Word) (a : OutAcc) : Nat × OutAcc :=
  if isQuant fmt then
    let v := convertTo fmt (f32 (divF y sc))
    (v.code,
     { amax := if finF y then a.amax.modify c (fun m => maxF m (absF y)) else a.amax
       clip := if v.clip then a.clip.modify c (· + 1) else a.clip
       total := a.total.modify c (· + 1)
       nan := a.nan + (if v.nan then 1 else 0)
       inf := a.inf + (if v.inf then 1 else 0) })
  else
    let v := convertTo fmt (f32 y)
    (v.code, { a with nan := a.nan + (if v.nan then 1 else 0) })

/-- The codes of one row of outputs, one value per channel from channel 0 on. -/
def outCodes (fmt : Nat) (scales : List Word) (ys : List Word) (a : OutAcc) : List Nat × OutAcc :=
  ys.zipIdx.foldl (fun acc y =>
    let r := outElem fmt y.2 (scales.getD y.2 oneF) y.1 acc.2
    (acc.1 ++ [r.1], r.2)) ([], a)

/-- The bytes of one row of C. -/
def outRow (fmt : Nat) (scales : List Word) (ys : List Word) (a : OutAcc) : List Byte × OutAcc :=
  if isMx fmt then
    let r := mxRow fmt (ys.map f32)
    (r.1, { a with nan := a.nan + r.2 })
  else
    let r := outCodes fmt scales ys a
    (packCodes (elemBits fmt) r.1, r.2)

/-- Rows of C, top to bottom. -/
def outRows (fmt : Nat) (scales : List Word) (rows : List (List Word)) (a : OutAcc) : List (List Byte) × OutAcc :=
  rows.foldl (fun acc ys =>
    let r := outRow fmt scales ys acc.2
    (acc.1 ++ [r.1], r.2)) ([], a)

/-- The trailer of scales (R143). -/
def trailer (scales : List Word) : List Byte := scales.flatMap (fun (w : Word) => leBytes 4 w.toNat)

/-- What the execution of a descriptor gives, before any of it is stored. -/
structure KOut where
  /-- Tile bytes that staging writes. -/
  stage : List (Nat × List Byte)
  /-- What it writes: space, byte offset, bytes. The signature covers the first `nsig` of them, in this order. -/
  writes : List (Nat × Nat × List Byte)
  nsig : Nat
  /-- OUT_LEN, in 64-byte units. -/
  units : Nat
  /-- INT32 accumulator saturations (R135). -/
  sat : Nat
  out : OutAcc
  /-- A run-time check that fails: its error code. -/
  fail : Option Nat
  /-- Key tiles processed and blocks sealed (attention); a non-finite gradient (CHECK). -/
  tiles : Nat
  seals : Nat
  nonfinite : Bool
deriving DecidableEq, Repr

/-- An execution that writes nothing. -/
def KOut.none : KOut := ⟨[], [], 2 ^ 40, 0, 0, OutAcc.zero 0, .none, 0, 0, false⟩

/-! ### Blocked layouts (R177) -/

/-- A blocked tensor: space, byte offset, channels per block, element format, columns, channels. -/
structure Blocked where
  sp : Nat
  off : Nat
  blk : Nat
  fmt : Nat
  cols : Nat
  chans : Nat
deriving DecidableEq, Repr

/-- Bytes of the channels of one pixel in one block. -/
def pixBytes (t : Blocked) : Nat := t.blk * elemBits t.fmt / 8

/-- BP and RP of R177. -/
def blockPitch (t : Blocked) : Nat := ceilDiv (t.cols * pixBytes t) 64 * 64
def tensorPitch (t : Blocked) : Nat := ceilDiv t.chans t.blk * blockPitch t

/-- Byte offset, in the tensor's space, of pixel (y, x) in channel block `b`. -/
def pixOff (t : Blocked) (y x b : Nat) : Nat := t.off + y * tensorPitch t + b * blockPitch t + x * pixBytes t

/-- The code of element (y, x, c). -/
def tensorCode (s : State) (w : Who) (t : Blocked) (y x c : Nat) : Nat :=
  let bit := c % t.blk * elemBits t.fmt
  bitsOf (leNat (readSp s w t.sp (pixOff t y x (c / t.blk) + bit / 8) (ceilDiv (elemBits t.fmt) 8))) (bit % 8) (elemBits t.fmt)

/-- The value of element (y, x, c). -/
def tensorElem (s : State) (w : Who) (t : Blocked) (y x c : Nat) : Num := elemVal t.fmt (tensorCode s w t y x c)

/-- Channels rounded up to whole blocks. -/
def chansUp (t : Blocked) : Nat := ceilDiv t.chans t.blk * t.blk

/-- What writing a band of pixels writes: `pix` gives the channel codes of pixel (y, x). Channels beyond the tensor's
are zero. -/
def bandWrites (t : Blocked) (oy0 oh ox0 ow : Nat) (pix : Nat → Nat → List Nat) : List (Nat × Nat × List Byte) :=
  (List.range oh).flatMap (fun i =>
    (List.range (ceilDiv t.chans t.blk)).map (fun b =>
      (t.sp, pixOff t (oy0 + i) ox0 b,
        packCodes (elemBits t.fmt) ((List.range ow).flatMap (fun j =>
          (List.range t.blk).map (fun c => (pix i j).getD (b * t.blk + c) 0))))))

end Sys2Proof.Machine
end

