-- ==== Sys2Proof/Machine/Kernels.lean ====
section
/-! DEFINITION. What the descriptor kinds GEMM, VECTOR, MOVE, CONV_DIRECT, CONV_SPECTRAL and POOL compute (R100 to R102,
R135, R142, R176 to R194). -/

namespace Sys2Proof.Machine

open Sys2Proof

/-! ### GEMM (R100, R135) -/

def gM (r : List Byte) : Nat := dF r 0x28 0 16
def gN (r : List Byte) : Nat := dF r 0x28 16 16
def gK (r : List Byte) : Nat := dF r 0x2C 0 16
def gTA (r : List Byte) : Bool := dF r 0x2C 16 1 = 1
def gTB (r : List Byte) : Bool := dF r 0x2C 17 1 = 1
def gBeta (r : List Byte) : Bool := dF r 0x2C 18 1 = 1
/-- DLEN, at the same place in every kind that has it. -/
def dLen (r : List Byte) : Nat := dF r 0x34 16 16

/-- Operand A of a GEMM. -/
def gemmA (r : List Byte) : Mat := matOf r 0 (dFmtA r) (gM r) (gK r) (dF r 0x30 0 16 * 64) (gTA r)
/-- Operand B: K rows of N elements, or N rows of K elements of a block-scaled format (R133). -/
def gemmB (r : List Byte) : Mat :=
  if isMx (dFmtB r) then matOf r 1 (dFmtB r) (gN r) (gK r) (dF r 0x30 16 16 * 64) false
  else matOf r 1 (dFmtB r) (gK r) (gN r) (dF r 0x30 16 16 * 64) (gTB r)
/-- Output C. -/
def gemmC (r : List Byte) : Mat := matOf r 2 (dFmtC r) (gM r) (gN r) (dF r 0x34 0 16 * 64) false

/-- The accumulator of one output: as FP32, as an integer, and the saturating additions. -/
structure AccOut where
  y : Word
  i : Int
  sat : Nat
deriving DecidableEq, Repr

/-- The dot product of two MXINT8 rows of `n` elements onto a starting accumulator (R135). A NaN block makes it NaN. -/
def dotMxInt (n : Nat) (a b : List Byte) (init : ScaledAcc) : AccOut :=
  let blk := fun (acc : ScaledAcc) (j : Nat) =>
    accBlock acc
      (((List.range 32).map (fun t => sint 8 (elemCode 6 a (32 * j + t)) * sint 8 (elemCode 6 b (32 * j + t)))).foldl (· + ·) 0)
      (((a.getD (n + j) 0).toNat : Int) + (b.getD (n + j) 0).toNat - 266)
  let bad := (List.range (n / 32)).any (fun j => a.getD (n + j) 0 = 255 || b.getD (n + j) 0 = 255)
  let acc := (List.range (n / 32)).foldl blk init
  ⟨if bad then toF32 .nan else scaledToF32 acc, acc.v, 0⟩

/-- One output of a matrix product over element values, from a starting value. -/
def dotOut (fa fb : Nat) (init : Num) (a b : List Num) : AccOut :=
  if isIntFmt fa ∧ isIntFmt fb then
    let r := accumI (passLen fa fb) (rneInt 0 init) a b
    ⟨ofIntF r.1, r.1, r.2⟩
  else
    let r := accumF (passLen fa fb) (toF32 init) a b
    ⟨r, 0, 0⟩

/-- The accumulators of C, row by row. -/
def gemmAccs (r : List Byte) (ra rb rc : List (List Byte)) : List (List AccOut) :=
  let init := fun (i j : Nat) => if gBeta r then rowElem (dFmtC r) (gN r) (rc.getD i []) j else Num.fin false 0 0
  let col : Nat → List Num := fun j =>
    if isMx (dFmtB r) then rowVals (dFmtB r) (gK r) (rb.getD j []) else rb.map (fun l => rowElem (dFmtB r) (gN r) l j)
  (List.range (gM r)).map (fun i =>
    (List.range (gN r)).map (fun j =>
      if dFmtA r = 6 then
        dotMxInt (gK r) (ra.getD i []) (rb.getD j [])
          (if gBeta r then scaledOf (toF32 (init i j)) else ⟨0, 0, true⟩)
      else dotOut (dFmtA r) (dFmtB r) (init i j) (rowVals (dFmtA r) (gK r) (ra.getD i [])) (col j)))

/-- C with its trailer as it is written (R142, R143). -/
def matWrites (m : Mat) (rows : List (List Byte)) (qtrk : Nat) (scales : List Word) : List (Nat × Nat × List Byte) :=
  rows.zipIdx.map (fun x => (m.sp, m.off + x.2 * m.pitch, x.1)) ++
  (if qtrk = 0 then [] else [(m.sp, ceilDiv (m.off + (m.rows - 1) * m.pitch + rowLen m.fmt m.cols) 64 * 64, trailer scales)])

/-- OUT_LEN of a matrix: its staged rows, and the trailer. -/
def matUnits (m : Mat) (qtrk : Nat) : Nat :=
  m.rows * (rowPitch m.fmt m.cols / 64) + (if qtrk = 0 then 0 else vecUnits m.cols)

/-- Execute a GEMM with the scales read at dispatch. -/
def runGemm (s : State) (w : Who) (r : List Byte) (scales : List Word) : KOut :=
  let ra := matRows s w (gemmA r)
  let rb := matRows s w (gemmB r)
  let rc := if gBeta r then matRows s w (gemmC r) else []
  let db := dBytes s w r (dLen r * 64)
  let v := dVecs db (dEpi r) (dQtrk r) (dLen r) (gN r)
  let accs := gemmAccs r ra rb rc
  let rows :=
    if dFmtC r = 12 then (accs.map (fun l => packCodes 32 (l.map (fun a => unsint 32 a.i))), OutAcc.zero (gN r))
    else outRows (dFmtC r) scales (accs.map (fun l => l.zipIdx.map (fun a => outY v (dEpi r) a.2 a.1.y))) (OutAcc.zero (gN r))
  { KOut.none with
    stage := stageRows (gemmA r).sp (dToff r 0) (rowPitch (dFmtA r) (gK r)) ra ++
      stageRows (gemmB r).sp (dToff r 1) (rowPitch (gemmB r).fmt (gemmB r).cols) rb ++
      stageRows (gemmC r).sp (dToff r 2) (rowPitch (dFmtC r) (gN r)) rows.1 ++
      stageRows (dSp r 3) (dToff r 3) 0 (if dLen r = 0 then [] else [db])
    writes := matWrites (gemmC r) rows.1 (dQtrk r) scales
    units := matUnits (gemmC r) (dQtrk r)
    sat := sumOf (accs.map (fun l => sumOf (l.map (fun a => a.sat))))
    out := rows.2 }

/-- The accesses of D. -/
def dAccs (r : List Byte) (len : Nat) : List MemAcc := if len = 0 then [] else [⟨false, dSp r 3, dAddr r 3 * 64, len⟩]

/-- The trailer's access. -/
def trailAccs (m : Mat) (qtrk : Nat) : List MemAcc :=
  if qtrk = 0 then [] else [⟨true, m.sp, ceilDiv (m.off + (m.rows - 1) * m.pitch + rowLen m.fmt m.cols) 64 * 64, 4 * m.cols⟩]

def gemmMemAccs (r : List Byte) : List MemAcc :=
  matAccs false (gemmA r) ++ matAccs false (gemmB r) ++ (if gBeta r then matAccs false (gemmC r) else []) ++
  dAccs r (dLen r * 64) ++ matAccs true (gemmC r) ++ trailAccs (gemmC r) (dQtrk r)

/-! ### VECTOR (R100) -/

def vRows (r : List Byte) : Nat := dF r 0x28 0 16
def vCols (r : List Byte) : Nat := dF r 0x28 16 16
def vOp (r : List Byte) : Nat := dF r 0x2C 0 8
/-- Does VECTOR read B, D. -/
def vReadsB (r : List Byte) : Bool := vOp r = 1 || vOp r = 2
def vReadsD (r : List Byte) : Bool := vOp r = 4 || vOp r = 5

/-- Operand `x` of a VECTOR: rows at their staged pitch. -/
def vecMat (r : List Byte) (x fmt : Nat) : Mat := matOf r x fmt (vRows r) (vCols r) (rowPitch fmt (vCols r)) false

/-- The FP32 results of one row. -/
def vecRow (r : List Byte) (a b gamma beta : List Word) : List Word :=
  if vOp r = 1 then List.zipWith addF a b
  else if vOp r = 2 then List.zipWith mulF a b
  else if vOp r = 3 then Config.softmaxRow a
  else if vOp r = 4 then Config.layerNorm a gamma beta
  else if vOp r = 5 then Config.rmsNorm a gamma
  else if vOp r = 6 then a.map (activate (dEpi r))
  else a

/-- Execute a VECTOR. -/
def runVector (s : State) (w : Who) (r : List Byte) (scales : List Word) : KOut :=
  let n := vCols r
  let ra := matRows s w (vecMat r 0 (dFmtA r))
  let rb := if vReadsB r then matRows s w (vecMat r 1 (dFmtB r)) else []
  let db := if vReadsD r then dBytes s w r (dLen r * 64) else []
  let vec := fun u => (List.range n).map (fun i => wordAt db (16 * u + i))
  let f := fun c (l : List Byte) => (rowVals c n l).map toF32
  let ys := ra.zipIdx.map (fun x =>
    (vecRow r (f (dFmtA r) x.1) (f (dFmtB r) (rb.getD x.2 [])) (vec 0) (vec (vecUnits n)) ++ List.replicate n zeroF).take n)
  let rows := outRows (dFmtC r) scales ys (OutAcc.zero n)
  let c := vecMat r 2 (dFmtC r)
  { KOut.none with
    stage := stageRows (dSp r 0) (dToff r 0) (rowPitch (dFmtA r) n) ra ++
      stageRows (dSp r 1) (dToff r 1) (rowPitch (dFmtB r) n) rb ++
      stageRows (dSp r 2) (dToff r 2) (rowPitch (dFmtC r) n) rows.1 ++
      stageRows (dSp r 3) (dToff r 3) 0 (if db = [] then [] else [db])
    writes := matWrites c rows.1 (dQtrk r) scales
    units := matUnits c (dQtrk r)
    out := rows.2 }

def vectorMemAccs (r : List Byte) : List MemAcc :=
  matAccs false (vecMat r 0 (dFmtA r)) ++ (if vReadsB r then matAccs false (vecMat r 1 (dFmtB r)) else []) ++
  dAccs r (if vReadsD r then dLen r * 64 else 0) ++
  matAccs true (vecMat r 2 (dFmtC r)) ++ trailAccs (vecMat r 2 (dFmtC r)) (dQtrk r)

/-! ### MOVE (R100) -/

def mvLen (r : List Byte) : Nat := dF r 0x28 0 32

/-- Execute a MOVE: LEN units from A to C. -/
def runMove (s : State) (w : Who) (r : List Byte) : KOut :=
  { KOut.none with
    writes := [(dSp r 2, dAddr r 2 * 64, readSp s w (dSp r 0) (dAddr r 0 * 64) (mvLen r * 64))]
    units := mvLen r }

def moveMemAccs (r : List Byte) : List MemAcc :=
  [⟨false, dSp r 0, dAddr r 0 * 64, mvLen r * 64⟩, ⟨true, dSp r 2, dAddr r 2 * 64, mvLen r * 64⟩]

/-! ### Convolution and pooling geometry (R178 to R190) -/

/-- The parameters of a convolution or pooling descriptor. -/
structure Geo where
  ih : Nat
  iw : Nat
  cin : Nat
  cout : Nat
  kh : Nat
  kw : Nat
  sy : Nat
  sx : Nat
  pt : Nat
  pb : Nat
  pl : Nat
  pr : Nat
  mode : Nat
  pad : Nat
  blk : Nat
  dw : Bool
  line : Bool
  stream : Nat
  oy0 : Nat
  oh : Nat
  ox0 : Nat
  ow : Nat
deriving DecidableEq, Repr

/-- Full output extent along one axis; 0 where it is empty (R178). -/
def extent (i p q k st : Nat) : Nat := if i + p + q < k ∨ st = 0 then 0 else (i + p + q - k) / st + 1

/-- Parameters of a CONV_DIRECT (R181). -/
def geoDirect (r : List Byte) : Geo where
  ih := dF r 0x28 0 16
  iw := dF r 0x28 16 16
  cin := dF r 0x2C 0 10
  cout := dF r 0x2C 11 11
  kh := dF r 0x30 0 4
  kw := dF r 0x30 4 4
  sy := dF r 0x30 8 4
  sx := dF r 0x30 12 4
  pt := dF r 0x30 16 4
  pb := dF r 0x30 20 4
  pl := dF r 0x30 24 4
  pr := dF r 0x30 28 4
  mode := dF r 0x34 0 2
  pad := dF r 0x34 8 8
  blk := if dF r 0x34 2 1 = 1 then 32 else 16
  dw := dF r 0x34 3 1 = 1
  line := dF r 0x34 4 1 = 1
  stream := dF r 0x2C 22 5
  oy0 := dF r 0x38 0 16
  oh := dF r 0x38 16 16
  ox0 := dF r 0x3C 0 16
  ow := dF r 0x3C 16 16

/-- Parameters of a CONV_SPECTRAL (R190): the band is the whole output. -/
def geoSpectral (r : List Byte) : Geo :=
  let ih := dF r 0x28 0 16
  let iw := dF r 0x28 16 16
  let kh := dF r 0x30 0 6
  let kw := dF r 0x30 6 6
  let sy := 1 + dF r 0x34 9 1
  let sx := 1 + dF r 0x34 10 1
  { ih := ih, iw := iw, cin := dF r 0x2C 0 10, cout := dF r 0x2C 10 11, kh := kh, kw := kw, sy := sy, sx := sx,
    pt := dF r 0x30 12 6, pb := dF r 0x30 18 6, pl := dF r 0x30 24 6, pr := dF r 0x34 0 6,
    mode := dF r 0x34 6 2, pad := dF r 0x38 0 8, blk := if dF r 0x34 8 1 = 1 then 32 else 16,
    dw := false, line := false, stream := 0,
    oy0 := 0, oh := extent ih (dF r 0x30 12 6) (dF r 0x30 18 6) kh sy,
    ox0 := 0, ow := extent iw (dF r 0x30 24 6) (dF r 0x34 0 6) kw sx }

/-- Parameters of a POOL (R187). -/
def geoPool (r : List Byte) : Geo where
  ih := dF r 0x28 0 16
  iw := dF r 0x28 16 16
  cin := dF r 0x2C 0 13
  cout := dF r 0x2C 0 13
  kh := dF r 0x30 0 6
  kw := dF r 0x30 6 6
  sy := dF r 0x30 12 6
  sx := dF r 0x30 18 6
  pt := dF r 0x34 0 6
  pb := dF r 0x34 6 6
  pl := dF r 0x34 12 6
  pr := dF r 0x34 18 6
  mode := 0
  pad := 0
  blk := if dF r 0x34 25 1 = 1 then 32 else 16
  dw := true
  line := false
  stream := 0
  oy0 := dF r 0x38 0 16
  oh := dF r 0x38 16 16
  ox0 := dF r 0x3C 0 16
  ow := dF r 0x3C 16 16

def geoOf (r : List Byte) : Geo := if dKind r = 4 then geoSpectral r else if dKind r = 3 then geoPool r else geoDirect r

/-- Rows and columns of the full output. -/
def outH (g : Geo) : Nat := extent g.ih g.pt g.pb g.kh g.sy
def outW (g : Geo) : Nat := extent g.iw g.pl g.pr g.kw g.sx

/-- The input and the output tensor. -/
def geoA (r : List Byte) (g : Geo) : Blocked := ⟨dSp r 0, dAddr r 0 * 64, g.blk, dFmtA r, g.iw, g.cin⟩
def geoC (r : List Byte) (g : Geo) : Blocked := ⟨dSp r 2, dAddr r 2 * 64, g.blk, dFmtC r, outW g, g.cout⟩

/-- The value at row `y`, column `x` of channel `c`, in or outside the input (R179). -/
def padElem (s : State) (w : Who) (g : Geo) (t : Blocked) (y x : Int) (c : Nat) : Num :=
  if 0 ≤ y ∧ y < g.ih ∧ 0 ≤ x ∧ x < g.iw then tensorElem s w t y.toNat x.toNat c
  else if g.mode = 1 then
    tensorElem s w t (min (max y 0) ((g.ih : Int) - 1)).toNat (min (max x 0) ((g.iw : Int) - 1)).toNat c
  else if g.mode = 2 then numOfInt (sint 8 g.pad)
  else .fin false 0 0

/-- The taps of one output pixel in (ky, kx, c) order, over `cs` channels from `c0` on (R182). -/
def taps (s : State) (w : Who) (g : Geo) (t : Blocked) (oy ox c0 cs : Nat) : List Num :=
  (List.range g.kh).flatMap (fun ky => (List.range g.kw).flatMap (fun kx => (List.range cs).map (fun c =>
    padElem s w g t ((oy * g.sy + ky : Nat) - g.pt) ((ox * g.sx + kx : Nat) - g.pl) (c0 + c))))

/-- The weights: rows and columns of the staged B. -/
def convB (r : List Byte) (g : Geo) : Mat :=
  let cp := ceilDiv g.cin g.blk * g.blk
  let rows := if g.dw then g.kh * g.kw else g.kh * g.kw * cp
  let cols := if g.dw then cp else g.cout
  matOf r 1 (dFmtB r) rows cols (rowPitch (dFmtB r) cols) false

/-- The accumulator of output channel `c` at a pixel: the direct path enters pass by pass, the spectral path gives the
exact sum saturated once (R189). -/
def convAcc (s : State) (w : Who) (r : List Byte) (g : Geo) (rb : List (List Byte)) (tp : List Num) (oy ox c : Nat) : AccOut :=
  let cols := (convB r g).cols
  let wt := rb.map (fun l => rowElem (dFmtB r) cols l c)
  let tp := if g.dw then taps s w g (geoA r g) oy ox c 1 else tp
  if dKind r = 4 then
    let v := rneInt 0 (dotN tp wt)
    if v > 2147483647 then ⟨ofIntF 2147483647, 2147483647, 1⟩
    else if v < -2147483647 then ⟨ofIntF (-2147483647), -2147483647, 1⟩
    else ⟨ofIntF v, v, 0⟩
  else dotOut (dFmtA r) (dFmtB r) (.fin false 0 0) tp wt

/-- Where the trailer of a blocked output lies (R185). -/
def bandTrail (t : Blocked) (h : Nat) : Nat := ceilDiv (t.off + h * tensorPitch t) 64 * 64

/-- The writes of a band, its trailer, and OUT_LEN. -/
def bandOut (r : List Byte) (g : Geo) (codes : List (List (List Nat))) (scales : List Word) : List (Nat × Nat × List Byte) × Nat :=
  let t := geoC r g
  let ws := bandWrites t g.oy0 g.oh g.ox0 g.ow (fun i j => (codes.getD i []).getD j [])
  let n := ceilDiv (sumOf (ws.map (fun x => x.2.2.length))) 64
  if dQtrk r = 0 then (ws, n) else (ws ++ [(t.sp, bandTrail t (outH g), trailer scales)], n + vecUnits g.cout)

/-- Execute a CONV_DIRECT or CONV_SPECTRAL. -/
def runConv (s : State) (w : Who) (r : List Byte) (scales : List Word) : KOut :=
  let g := geoOf r
  let rb := matRows s w (convB r g)
  let db := dBytes s w r (dLen r * 64)
  let v := dVecs db (dEpi r) (dQtrk r) (dLen r) g.cout
  let cp := ceilDiv g.cin g.blk * g.blk
  let accs := (List.range g.oh).map (fun i => (List.range g.ow).map (fun j =>
    let tp := if g.dw then [] else taps s w g (geoA r g) (g.oy0 + i) (g.ox0 + j) 0 cp
    (List.range g.cout).map (fun c => convAcc s w r g rb tp (g.oy0 + i) (g.ox0 + j) c)))
  let res := accs.foldl (fun acc row =>
    let x := row.foldl (fun (acc : List (List Nat) × OutAcc) px =>
      let y := outCodes (dFmtC r) scales (px.zipIdx.map (fun a => outY v (dEpi r) a.2 a.1.y)) acc.2
      (acc.1 ++ [y.1], y.2)) ([], acc.2)
    (acc.1 ++ [x.1], x.2)) (([] : List (List (List Nat))), OutAcc.zero g.cout)
  let o := bandOut r g res.1 scales
  { KOut.none with
    stage := stageRows (dSp r 1) (dToff r 1) (rowPitch (dFmtB r) (convB r g).cols) rb ++
      stageRows (dSp r 3) (dToff r 3) 0 (if dLen r = 0 then [] else [db]) ++
      (if dKind r = 4 then [] else
        (res.1.flatten).zipIdx.map (fun x =>
          (dToff r 2 * 64 + x.2 * rowPitch (dFmtC r) g.cout, packCodes (elemBits (dFmtC r)) x.1)))
    writes := o.1
    units := o.2
    sat := sumOf (accs.map (fun row => sumOf (row.map (fun px => sumOf (px.map (fun a => a.sat))))))
    out := res.2 }

/-- The in-bounds elements of a pooling window, ascending row, then column (R180). -/
def poolElems (s : State) (w : Who) (g : Geo) (t : Blocked) (oy ox c : Nat) : List Num :=
  (List.range g.kh).flatMap (fun ky => (List.range g.kw).filterMap (fun kx =>
    let y : Int := ((oy * g.sy + ky : Nat) : Int) - g.pt
    let x : Int := ((ox * g.sx + kx : Nat) : Int) - g.pl
    if 0 ≤ y ∧ y < g.ih ∧ 0 ≤ x ∧ x < g.iw then some (tensorElem s w t y.toNat x.toNat c) else none))

/-- The pooled value of a window (R188). -/
def poolVal (fmt : Nat) (avg : Bool) (l : List Num) : Num :=
  match l with
  | [] => .fin false 0 0
  | x :: rest =>
    if avg = false then rest.foldl maxN x
    else if isIntFmt fmt then f32 (toF32 (divN (l.foldl addN (.fin false 0 0)) (numOfInt l.length)))
    else f32 (divF (rest.foldl (fun a b => addF a (toF32 b)) (toF32 x)) (ofIntF l.length))

/-- Execute a POOL. -/
def runPool (s : State) (w : Who) (r : List Byte) : KOut :=
  let g := geoPool r
  let t := geoA r g
  let px := (List.range g.oh).map (fun i => (List.range g.ow).map (fun j => (List.range g.cin).map (fun c =>
    convertTo (dFmtC r) (poolVal (dFmtA r) (dF r 0x34 24 1 = 1) (poolElems s w g t (g.oy0 + i) (g.ox0 + j) c)))))
  let all := px.flatten.flatten
  let o := bandOut r g (px.map (fun row => row.map (fun p => p.map (fun c => c.code)))) []
  { KOut.none with
    writes := o.1
    units := o.2
    out := { OutAcc.zero 0 with nan := (all.filter (fun c => c.nan)).length, inf := (all.filter (fun c => c.inf)).length } }

/-- The input rows and columns that the band's windows cover (R179). -/
def coverage (i p k st o0 o : Nat) : List Nat :=
  (List.range i).filter (fun y => (List.range o).any (fun j =>
    (o0 + j) * st ≤ y + p && y + p < (o0 + j) * st + k))

/-- Under edge replicate, the edge rows and columns stand for those outside. -/
def covered1 (g : Geo) (i p k st o0 o : Nat) : List Nat :=
  let c := coverage i p k st o0 o
  if g.mode = 1 ∧ c = [] ∧ o ≠ 0 then [if o0 * st + k ≤ p then 0 else i - 1] else c

/-- The accesses of a convolution or pooling descriptor. -/
def convMemAccs (r : List Byte) : List MemAcc :=
  let g := geoOf r
  let t := geoA r g
  let cols := covered1 g g.iw g.pl g.kw g.sx g.ox0 g.ow
  let x0 := cols.headD 0
  let n := if cols = [] then 0 else cols.getLastD 0 - x0 + 1
  (covered1 g g.ih g.pt g.kh g.sy g.oy0 g.oh).flatMap (fun y => (List.range (ceilDiv g.cin g.blk)).map (fun b =>
    ⟨false, t.sp, pixOff t y x0 b, n * pixBytes t⟩)) ++
  (if dKind r = 3 then [] else matAccs false (convB r g) ++ dAccs r (dLen r * 64)) ++
  (bandWrites (geoC r g) g.oy0 g.oh g.ox0 g.ow (fun _ _ => [])).map (fun x => ⟨true, x.1, x.2.1, x.2.2.length⟩) ++
  (if dQtrk r = 0 then [] else [⟨true, dSp r 2, bandTrail (geoC r g) (outH g), 4 * g.cout⟩])

/-- The last input row that a line-fed descriptor reads (R184). -/
def lastLine (g : Geo) : Nat := Nat.min (g.ih - 1) ((g.oy0 + g.oh - 1) * g.sy + g.kh - 1 - g.pt)

/-- Transform tiles of a CONV_SPECTRAL (R191). -/
def spectralTiles (r : List Byte) : Nat :=
  let g := geoSpectral r
  ceilDiv (g.ih + g.pt + g.pb - g.kh + 1) (128 - g.kh + 1) * ceilDiv (g.iw + g.pl + g.pr - g.kw + 1) (128 - g.kw + 1)

end Sys2Proof.Machine
end

