-- ==== Sys2Proof/Machine/Attention.lean ====
section
/-! DEFINITION. The attention descriptors and the key-value cache (R152 to R172). -/

namespace Sys2Proof.Machine

open Sys2Proof

/-! ### Parameters (R158) -/

def aDH (r : List Byte) : Nat := dF r 0x28 0 9
/-- G. -/
def aG (r : List Byte) : Nat := dF r 0x28 9 4 + 1
def aCausal (r : List Byte) : Bool := dF r 0x28 13 1 = 1
/-- SAVE_STATS of ATTN_FWD, PHASE of ATTN_BWD. -/
def aSave (r : List Byte) : Bool := dF r 0x28 14 1 = 1
def aAppend (r : List Byte) : Bool := dF r 0x28 15 1 = 1
/-- SCALE as FP32. -/
def aScale (r : List Byte) : Word := bf16ToF32 (dF r 0x28 16 16)
def aNseq (r : List Byte) : Nat := dF r 0x2C 0 7
def aSeed (r : List Byte) : Nat := dF r 0x2C 8 2
def aStatSp (r : List Byte) : Nat := dF r 0x2C 10 2
def aAuxSp (r : List Byte) : Nat := dF r 0x2C 12 2
def aStat (r : List Byte) : Nat := dF r 0x30 0 32
def aAux0 (r : List Byte) : Nat := dF r 0x38 0 32
def aAux1 (r : List Byte) : Nat := dF r 0x3C 0 32

/-- A sequence entry of D (R160). -/
structure SeqEnt where
  kvlen : Nat
  qlen : Nat
  bucket : Nat
  qmax : Nat
  tokRow : Nat
  bt : Nat
  last : Nat
deriving DecidableEq, Repr

/-- The entry that 16 bytes spell. -/
def seqEnt (l : List Byte) : SeqEnt :=
  let n := leNat (l.take 16)
  ⟨bitsOf n 0 16, bitsOf n 16 12, bitsOf n 28 4, bitsOf n 32 12, bitsOf n 48 16, bitsOf n 64 32, bitsOf n 96 32⟩

/-- The sequence entries of a descriptor. -/
def seqEnts (s : State) (w : Who) (r : List Byte) : List SeqEnt :=
  let d := dBytes s w r (16 * aNseq r)
  (List.range (aNseq r)).map (fun j => seqEnt (d.drop (16 * j)))

/-- Does an entry pass the checks of R162. -/
def lengthOk (r : List Byte) (q : SeqEnt) : Bool :=
  1 ≤ q.kvlen && q.kvlen ≤ 64 * 2 ^ q.bucket && 1 ≤ q.qlen && q.qlen ≤ q.qmax &&
  (!(aCausal r || (dKind r = 5 && aAppend r)) || q.qlen ≤ q.kvlen)

/-! ### Cache blocks (R165 to R169) -/

/-- Pitch of a key or value row. -/
def kvPitch (r : List Byte) : Nat := rowPitch (dFmtB r) (aDH r)

/-- Block table entry `i` of a sequence: address in space 1, XSEALED, XHASH. -/
def tableEnt (s : State) (w : Who) (q : SeqEnt) (i : Nat) : Nat × Bool × Nat :=
  let n := leNat (readSp s w 1 (q.bt * 64 + 8 * i) 8)
  (bitsOf n 0 29 * 64, n.testBit 29, bitsOf n 32 32)

/-- Byte offset in space 1 of block `i`. -/
def blockOff (s : State) (w : Who) (q : SeqEnt) (i : Nat) : Nat := (tableEnt s w q i).1

/-- Header fields of a block at an offset of space 1. -/
def blkHash (s : State) (w : Who) (o : Nat) : Nat := leNat (readSp s w 1 o 8)
def blkWord (s : State) (w : Who) (o : Nat) : Nat := leNat (readSp s w 1 (o + 16) 4)
def blkFill (s : State) (w : Who) (o : Nat) : Nat := bitsOf (blkWord s w o) 0 7
def blkSealed (s : State) (w : Who) (o : Nat) : Bool := (blkWord s w o).testBit 7

/-- Blocks that a sequence uses. -/
def blocksOf (q : SeqEnt) : Nat := ceilDiv q.kvlen 64

/-- K0 of R167. -/
def k0Of (r : List Byte) (q : SeqEnt) : Nat := if dKind r = 5 ∧ aAppend r = true then q.kvlen - q.qlen else q.kvlen

/-- The code with which block `i` is refused, if it breaks a row of the block checks (R167). -/
def blockRefusal (s : State) (w : Who) (r : List Byte) (q : SeqEnt) (i : Nat) : Option Nat :=
  let t := tableEnt s w q i
  let o := t.1
  let k0 := k0Of r q
  let app := dKind r = 5 && aAppend r
  if bitsOf (blkWord s w o) 8 4 ≠ dFmtB r ∨ bitsOf (blkWord s w o) 12 9 ≠ aDH r then some 0x17
  else if t.2.1 = true ∧ (blkSealed s w o = false ∨ blkHash s w o % 2 ^ 32 ≠ t.2.2) then some 0x17
  else if t.2.1 = false ∧ (blkSealed s w o = true ∨ blkFill s w o ≠ Nat.min 64 (k0 - 64 * i)) then
    if app ∧ 64 * i + 63 ≥ k0 ∧ blkSealed s w o = true then some 0x16 else some 0x17
  else if app = true ∧ 64 * i + 63 ≥ k0 ∧ blkSealed s w o = true then some 0x16
  else if app = false ∧ blkFill s w o < Nat.min 64 (q.kvlen - 64 * i) then some 0x17
  else none

/-- The run-time checks of an attention descriptor: 0x18 for a length, else the first refused block's code. Phase 0 of
ATTN_BWD reads no blocks. -/
def attnCheck (s : State) (w : Who) (r : List Byte) (qs : List SeqEnt) : Option Nat :=
  if qs.any (fun q => !lengthOk r q) then some 0x18
  else if dKind r = 6 ∧ aSave r = false then none
  else qs.findSome? (fun q => (List.range (blocksOf q)).findSome? (blockRefusal s w r q))

/-- The hash of a block from its parent's hash and its tokens (R169). -/
def blockHash (parent : Nat) (tok : List Nat) : Nat :=
  let m := 2 ^ 64
  let h := tok.foldl (fun h t => ((h ^^^ t) * 0x100000001B3) % m) (parent % m)
  let h := h ^^^ (h / 2 ^ 29)
  let h := (h * 0xA24BAED4963EE407) % m
  h ^^^ (h / 2 ^ 32)

/-- Is position `k` of a sequence appended by this descriptor. -/
def isNew (r : List Byte) (q : SeqEnt) (k : Nat) : Bool := k0Of r q ≤ k

/-- The K row (or, with `v`, the V row) of position `k` of a sequence. New rows come from AUX0 (R168). -/
def kvRow (s : State) (w : Who) (r : List Byte) (q : SeqEnt) (v : Bool) (k : Nat) : List Byte :=
  let p := kvPitch r
  let n := rowLen (dFmtB r) (aDH r)
  if isNew r q k then
    readSp s w (aAuxSp r) (aAux0 r * 64 + (if v then aAux1 r * 64 else 0) + (q.tokRow + (k - k0Of r q)) * p) n
  else readSp s w 1 (blockOff s w q (k / 64) + 64 + (if v then 64 * p else 0) + k % 64 * p) n

def kvVals (s : State) (w : Who) (r : List Byte) (q : SeqEnt) (v : Bool) (k : Nat) : List Num :=
  rowVals (dFmtB r) (aDH r) (kvRow s w r q v k)

/-- The hash of block `i` once it is sealed: its header's where it was sealed, else computed along the chain. -/
def chainHash (s : State) (w : Who) (r : List Byte) (q : SeqEnt) : Nat → Nat
  | 0 =>
    if blkSealed s w (blockOff s w q 0) then blkHash s w (blockOff s w q 0)
    else blockHash (nth0 (dieOf s w.d).seeds (aSeed r))
      ((List.range 64).map (fun t => leNat (readSp s w 1 (q.last * 64 + 4 * t) 4)))
  | i + 1 =>
    if blkSealed s w (blockOff s w q (i + 1)) then blkHash s w (blockOff s w q (i + 1))
    else blockHash (chainHash s w r q i)
      ((List.range 64).map (fun t => leNat (readSp s w 1 (q.last * 64 + 4 * (64 * (i + 1) + t)) 4)))

/-- The writes of one sequence's APPEND, in their order: the rows, then each written block's header with its FILL, and
for a block that fills PARENT, HASH and SEALED (R168, R169). The second part counts the seals. -/
def appendWrites (s : State) (w : Who) (r : List Byte) (q : SeqEnt) : List (Nat × Nat × List Byte) × Nat :=
  let p := kvPitch r
  let k0 := k0Of r q
  let rows := (List.range q.qlen).flatMap (fun t =>
    let k := k0 + t
    let o := blockOff s w q (k / 64) + 64 + k % 64 * p
    [(1, o, kvRow s w r q false k), (1, o + 64 * p, kvRow s w r q true k)])
  let bs := (List.range (blocksOf q)).filter (fun i => k0 < 64 * i + 64)
  let heads := bs.flatMap (fun i =>
    let o := blockOff s w q i
    let fill := Nat.min 64 (q.kvlen - 64 * i)
    let base := fill + 256 * (dFmtB r) + 4096 * aDH r
    if fill = 64 then
      let parent := if i = 0 then nth0 (dieOf s w.d).seeds (aSeed r) else chainHash s w r q (i - 1)
      [(1, o + 16, leBytes 4 base), (1, o + 8, leBytes 8 parent), (1, o, leBytes 8 (chainHash s w r q i)),
       (1, o + 16, leBytes 4 (base + 128))]
    else [(1, o + 16, leBytes 4 base)])
  (rows ++ heads, (bs.filter (fun i => 64 ≤ q.kvlen - 64 * i)).length)

/-! ### Forward (R153 to R155) -/

/-- FP32 exp; exp(−∞) is +0 and a NaN gives a NaN. -/
def expE (x : Word) : Word := if nanF x then toF32 .nan else if x = ninfF then zeroF else Config.expF x

/-- Position of query token `t` of a sequence. -/
def queryPos (q : SeqEnt) (t : Nat) : Int := (q.kvlen : Int) - q.qlen + t

/-- Is key `k` masked or absent for the query at position `p`. -/
def masked (r : List Byte) (q : SeqEnt) (p : Int) (k : Nat) : Bool :=
  decide (q.kvlen ≤ k) || (aCausal r && decide (p < (k : Int)))

/-- The scores of one query row over a key tile: −∞ where a key is masked or absent. -/
def scores (r : List Byte) (q : SeqEnt) (p : Int) (qv : List Num) (tile : Nat) (keys : List (List Num)) : List Word :=
  (List.range 128).map (fun i =>
    if masked r q p (128 * tile + i) then ninfF
    else mulF (accumF (passLen (dFmtA r) (dFmtB r)) zeroF qv (keys.getD i [])) (aScale r))

/-- Convert to the format of K and V (R154). -/
def toB (r : List Byte) (x : Word) : Num := elemVal (dFmtB r) (convertTo (dFmtB r) (f32 x)).code

/-- The running statistics of a query row. -/
structure RowAcc where
  m : Word
  l : Word
  o : List Word
deriving DecidableEq, Repr

/-- One key tile enters a row's statistics (R153). -/
def fwdTile (r : List Byte) (sc : List Word) (vals : List (List Num)) (a : RowAcc) : RowAcc :=
  let mn := maxF a.m (sc.foldl maxF ninfF)
  let al := if mn = ninfF then oneF else expE (subF a.m mn)
  let p := sc.map (fun x => if mn = ninfF then zeroF else expE (subF x mn))
  let l := addF (mulF a.l al) (p.foldl addF zeroF)
  let pb := p.map (toB r)
  let o := a.o.zipIdx.map (fun x =>
    accumF 128 (mulF x.1 al) pb ((List.range 128).map (fun k => (vals.getD k []).getD x.2 (.fin false 0 0))))
  ⟨mn, l, o⟩

/-- The key (or value) vectors of a tile, zeros beyond KVLEN. -/
def tileVals (s : State) (w : Who) (r : List Byte) (q : SeqEnt) (v : Bool) (tile : Nat) : List (List Num) :=
  (List.range 128).map (fun i => if 128 * tile + i < q.kvlen then kvVals s w r q v (128 * tile + i) else [])

/-- The final statistics of one query row. -/
def fwdRow (r : List Byte) (q : SeqEnt) (tiles : List (List (List Num) × List (List Num))) (t : Nat) (qv : List Num) : RowAcc :=
  tiles.zipIdx.foldl (fun a x => fwdTile r (scores r q (queryPos q t) qv x.2 x.1.1) x.1.2 a)
    ⟨ninfF, zeroF, List.replicate (aDH r) zeroF⟩

/-- The query rows of a sequence: token and row number in A, C and the statistics. -/
def queryRows (r : List Byte) (q : SeqEnt) : List (Nat × Nat) :=
  (List.range q.qlen).flatMap (fun t => (List.range (aG r)).map (fun g => (t, (q.tokRow + t) * aG r + g)))

/-- Row `i` of a matrix of head rows in format `f` at a byte offset of a space. -/
def headRow (s : State) (w : Who) (r : List Byte) (sp base f i : Nat) : List Num :=
  rowVals f (aDH r) (readSp s w sp (base + i * rowPitch f (aDH r)) (rowLen f (aDH r)))

/-- Execute an ATTN_FWD. The signature covers C, the statistics, then what APPEND writes (R170). -/
def runFwd (s : State) (w : Who) (r : List Byte) : KOut :=
  let qs := seqEnts s w r
  match attnCheck s w r qs with
  | some c => { KOut.none with fail := some c }
  | none =>
    let rows := qs.flatMap (fun q =>
      let tiles := (List.range (ceilDiv q.kvlen 128)).map (fun k => (tileVals s w r q false k, tileVals s w r q true k))
      (queryRows r q).map (fun x => (x.2, fwdRow r q tiles x.1 (headRow s w r (dSp r 0) (dAddr r 0 * 64) (dFmtA r) x.2))))
    let pc := rowPitch (dFmtC r) (aDH r)
    let conv := rows.map (fun x =>
      (x.1, x.2.o.map (fun o => convertTo (dFmtC r) (f32 (if x.2.l = zeroF then zeroF else divF o x.2.l)))))
    let cw := conv.map (fun x => (dSp r 2, dAddr r 2 * 64 + x.1 * pc, packCodes (elemBits (dFmtC r)) (x.2.map (fun c => c.code))))
    let st := if aSave r then rows.map (fun x =>
        (aStatSp r, aStat r * 64 + x.1 * 8,
          leBytes 4 (if x.2.l = zeroF then ninfF else addF x.2.m (Config.logF x.2.l)).toNat)) else []
    let ap := if aAppend r then qs.map (appendWrites s w r) else []
    let all := conv.flatMap (fun x => x.2)
    { KOut.none with
      stage := stageRows (dSp r 3) (dToff r 3) 0 (if dLen r = 0 then [] else [dBytes s w r (dLen r * 64)])
      writes := cw ++ st ++ ap.flatMap (fun x => x.1)
      units := ceilDiv (rows.length * pc) 64
      out := { OutAcc.zero 0 with nan := (all.filter (fun c => c.nan)).length, inf := (all.filter (fun c => c.inf)).length }
      tiles := sumOf (qs.map (fun q => ceilDiv q.kvlen 128))
      seals := sumOf (ap.map (fun x => x.2)) }

/-! ### Backward (R163) -/

/-- FP32 value at a byte offset. -/
def wordSp (s : State) (w : Who) (sp off : Nat) : Word := wordAt (readSp s w sp off 4) 0

/-- Phase 0: delta of each query row. -/
def runBwd0 (s : State) (w : Who) (r : List Byte) (qs : List SeqEnt) : List (Nat × Nat × List Byte) :=
  qs.flatMap (fun q => (queryRows r q).map (fun x =>
    let o := (headRow s w r (dSp r 0) (dAddr r 0 * 64) (dFmtA r) x.2).map toF32
    let g := (headRow s w r (aAuxSp r) (aAux0 r * 64) (dFmtA r) x.2).map toF32
    (aStatSp r, aStat r * 64 + x.2 * 8 + 4, leBytes 4 ((List.zipWith mulF g o).foldl addF zeroF).toNat)))

/-- A chunk of query rows with what phase 1 holds of them: row number, token, Q, dO, lse, delta, dQ. -/
structure BRow where
  i : Nat
  t : Nat
  q : List Num
  g : List Num
  lse : Word
  delta : Word
  dq : List Word
deriving DecidableEq, Repr

/-- Column `j` of rows of values. -/
def colN (l : List (List Num)) (j : Nat) : List Num := l.map (fun x => x.getD j (.fin false 0 0))

/-- One chunk of query rows against one key tile: the chunk with dQ updated, and dK and dV of the tile. -/
def bwdChunk (r : List Byte) (e : SeqEnt) (tile : Nat) (ks vs : List (List Num)) (acc : List (List Word) × List (List Word))
    (ch : List BRow) : List BRow × (List (List Word) × List (List Word)) :=
  let n := passLen (dFmtA r) (dFmtB r)
  let ps := ch.map (fun b =>
    (scores r e (queryPos e b.t) b.q tile ks).map (fun x => if b.lse = ninfF then zeroF else expE (subF x b.lse)))
  let pb := ps.map (fun l => l.map (toB r))
  let ds := (List.zip ch ps).map (fun x => x.2.zipIdx.map (fun p =>
    mulF p.1 (subF (accumF n zeroF x.1.g (vs.getD p.2 [])) x.1.delta)))
  let db := ds.map (fun l => l.map (toB r))
  let rows := (List.zip ch db).map (fun x => { x.1 with dq := x.1.dq.zipIdx.map (fun q =>
    addF q.1 (mulF (accumF 128 zeroF x.2 (colN ks q.2)) (aScale r))) })
  let dv := acc.2.zipIdx.map (fun v => v.1.zipIdx.map (fun x =>
    accumF 128 x.1 (colN pb v.2) (colN (ch.map (fun b => b.g)) x.2)))
  let dk := acc.1.zipIdx.map (fun v => v.1.zipIdx.map (fun x =>
    addF x.1 (mulF (accumF 128 zeroF (colN db v.2) (colN (ch.map (fun b => b.q)) x.2)) (aScale r))))
  (rows, (dk, dv))

/-- One key tile of a sequence over all its chunks. -/
def bwdTile (s : State) (w : Who) (r : List Byte) (e : SeqEnt) (rows : List BRow) (tile : Nat) :
    List BRow × (List (List Word) × List (List Word)) :=
  let ks := tileVals s w r e false tile
  let vs := tileVals s w r e true tile
  let z := List.replicate 128 (List.replicate (aDH r) zeroF)
  (chunks (if aDH r ≤ 128 then 512 else 256) rows).foldl (fun acc ch =>
    let x := bwdChunk r e tile ks vs acc.2 ch
    (acc.1 ++ x.1, x.2)) ([], (z, z))

/-- FP32 rows as bytes. -/
def fpBytes (l : List Word) : List Byte := l.flatMap (fun (x : Word) => leBytes 4 x.toNat)

/-- Phase 1 of one sequence: its dQ rows and its dK and dV rows. -/
def bwdSeq (s : State) (w : Who) (r : List Byte) (dvOff : Nat) (e : SeqEnt) :
    List (Nat × Nat × List Byte) × List (Nat × Nat × List Byte) :=
  let rp := 4 * aDH r
  let rows := (queryRows r e).map (fun x =>
    let st := aStat r * 64 + x.2 * 8
    (⟨x.2, x.1, headRow s w r (dSp r 0) (dAddr r 0 * 64) (dFmtA r) x.2,
      headRow s w r (aAuxSp r) (aAux0 r * 64) (dFmtA r) x.2,
      wordSp s w (aStatSp r) st, wordSp s w (aStatSp r) (st + 4),
      (List.range (aDH r)).map (fun j => wordSp s w (dSp r 2) (dAddr r 2 * 64 + x.2 * rp + 4 * j))⟩ : BRow))
  let res := (List.range (ceilDiv e.kvlen 128)).foldl (fun (acc : List BRow × List (Nat × Nat × List Byte)) tile =>
    let x := bwdTile s w r e acc.1 tile
    let ws := (List.range 128).flatMap (fun k =>
      if 128 * tile + k < e.kvlen then
        let o := aAux1 r * 64 + (e.last + 128 * tile + k) * rp
        [(aAuxSp r, o, fpBytes (x.2.1.getD k [])), (aAuxSp r, o + dvOff, fpBytes (x.2.2.getD k []))]
      else [])
    (x.1, acc.2 ++ ws)) (rows, [])
  (res.1.map (fun b => (dSp r 2, dAddr r 2 * 64 + b.i * rp, fpBytes b.dq)), res.2)

/-- Execute an ATTN_BWD. -/
def runBwd (s : State) (w : Who) (r : List Byte) : KOut :=
  let qs := seqEnts s w r
  match attnCheck s w r qs with
  | some c => { KOut.none with fail := some c }
  | none =>
    let db := dBytes s w r (dLen r * 64)
    let stage := stageRows (dSp r 3) (dToff r 3) 0 (if dLen r = 0 then [] else [db])
    if aSave r then
      let res := qs.map (bwdSeq s w r (Config.dvOffset db))
      { KOut.none with
        stage := stage
        writes := res.flatMap (fun x => x.1) ++ res.flatMap (fun x => x.2)
        nsig := (res.flatMap (fun x => x.1)).length
        units := ceilDiv (sumOf (qs.map (fun q => q.qlen * aG r * 4 * aDH r))) 64
        tiles := sumOf (qs.map (fun q => ceilDiv q.kvlen 128)) }
    else { KOut.none with stage := stage, writes := runBwd0 s w r qs, nsig := 0 }

/-- The accesses of an attention descriptor: the query-side rows, D, tables, blocks, auxiliary rows, statistics and
what it writes. -/
def attnMemAccs (s : State) (w : Who) (r : List Byte) : List MemAcc :=
  let qs := seqEnts s w r
  let bwd0 := dKind r = 6 && !aSave r
  let rows := qs.flatMap (queryRows r)
  let qp := rowPitch (dFmtA r) (aDH r)
  let out := if dKind r = 5 then runFwd s w r else runBwd s w r
  dAccs r (dLen r * 64) ++
  rows.map (fun x => ⟨false, dSp r 0, dAddr r 0 * 64 + x.2 * qp, rowLen (dFmtA r) (aDH r)⟩) ++
  (if dKind r = 6 then
    rows.map (fun x => ⟨false, aAuxSp r, aAux0 r * 64 + x.2 * qp, rowLen (dFmtA r) (aDH r)⟩) ++
    (if bwd0 then [] else
      rows.map (fun x => ⟨false, aStatSp r, aStat r * 64 + x.2 * 8, 8⟩) ++
      rows.map (fun x => ⟨false, dSp r 2, dAddr r 2 * 64 + x.2 * (4 * aDH r), 4 * aDH r⟩))
   else []) ++
  (if bwd0 then [] else qs.flatMap (fun q =>
    ⟨false, 1, q.bt * 64, 8 * blocksOf q⟩ ::
    (List.range (blocksOf q)).map (fun i => ⟨false, 1, blockOff s w q i, 64⟩) ++
    (List.range q.kvlen).flatMap (fun k =>
      if isNew r q k then
        let o := aAux0 r * 64 + (q.tokRow + (k - k0Of r q)) * kvPitch r
        [⟨false, aAuxSp r, o, rowLen (dFmtB r) (aDH r)⟩, ⟨false, aAuxSp r, o + aAux1 r * 64, rowLen (dFmtB r) (aDH r)⟩]
      else
        let o := blockOff s w q (k / 64) + 64 + k % 64 * kvPitch r
        [⟨false, 1, o, rowLen (dFmtB r) (aDH r)⟩, ⟨false, 1, o + 64 * kvPitch r, rowLen (dFmtB r) (aDH r)⟩]))) ++
  out.writes.map (fun x => ⟨true, x.1, x.2.1, x.2.2.length⟩)

end Sys2Proof.Machine
end

