-- ==== Sys2Proof/Machine/Runs.lean ====
section
/-! DEFINITION. Strokes in progress: deadlines, completion and its reports (R63, R76 to R78), voiding (R66), the entries
that engines post (R108, R109), pre-emption, and the faults of partitions (R271, R272). -/

namespace Sys2Proof.Machine

open Sys2Proof

/-! ### The strokes of this bar and those carried over -/

/-- The current tick (R50). -/
def curTick (s : State) : Nat := getF s pgCyc Reg.CYC_STAT_TICK

/-- Is a run not completed. -/
def runOpen (r : StrokeRun) : Bool := r.phase ≠ .done

/-- Has a run fired and not completed. -/
def runActive (r : StrokeRun) : Bool := r.phase = .active

/-- The oldest active run of stroke `idx`. -/
def activeRun (s : State) (idx : Nat) : Option StrokeRun := s.seq.runs.find? (fun r => r.idx = idx && runActive r)

/-- The run of stroke `idx` that fired in bar `bar`. -/
def runOf (s : State) (idx bar : Nat) : Option StrokeRun := s.seq.runs.find? (fun r => r.idx = idx && r.bar = bar)

/-- Change the run of stroke `idx` that fired in bar `bar`. -/
def modRun (idx bar : Nat) (f : StrokeRun → StrokeRun) (s : State) : State :=
  { s with seq := { s.seq with runs := s.seq.runs.map (fun r => if r.idx = idx ∧ r.bar = bar then f r else r) } }

/-- Ticks since the start of the bar in which a run fired. -/
def elapsed (s : State) (r : StrokeRun) : Nat := (barCount s - r.bar) * 65536 + curTick s

/-- Has tick D of a run begun (R63). -/
def pastD (s : State) (r : StrokeRun) : Bool := stUsesDue r.raw && stD r.raw ≤ elapsed s r

/-- Mark a run as failed. -/
def failRun (idx bar : Nat) (s : State) : State := modRun idx bar (fun r => { r with failed := true }) s

/-- Report an overrun or a missed deadline by class (R76). -/
def reportByClass (r : StrokeRun) (code : Nat) (s : State) : State :=
  if stClass r.raw = 0 then recordWarn pgSeq code 0 (stPart r.raw) s
  else if stClass r.raw = 1 then recordAt pgSeq code 0 (stPart r.raw) s
  else s

/-- The strokes of partition p that gates hold come due again, in their order. -/
def unhold (p : Nat) (s : State) : State :=
  let held := s.seq.runs.filter (fun r => r.phase = .held && stPart r.raw = p)
  { s with seq := { s.seq with
      due := held.map (fun r => (r.idx, r.bar, r.raw)) ++ s.seq.due
      runs := s.seq.runs.filter (fun r => !(r.phase = .held && stPart r.raw = p)) } }

/-- Count a budget overrun of a run and report it (R77, R275). -/
def countOverrun (r : StrokeRun) (s : State) : State :=
  let p := stPart r.raw
  let s := bumpI pgPrt Reg.PRT_OVERRUN p 1 (bump pgSeq Reg.SEQ_OVERRUN 1 s)
  let s := modCharge p (fun c => { c with overruns := satAdd 32 c.overruns 1 }) s
  let s := { s with parts := s.parts.modify p (fun x => { x with overruns := x.overruns + 1 }) }
  reportByClass r 0x2A s

/-- Count a missed deadline of a run and report it (R78). -/
def countMiss (r : StrokeRun) (s : State) : State :=
  reportByClass r 0x2B (bumpI pgPrt Reg.PRT_MISSED (stPart r.raw) 1 (bump pgSeq Reg.SEQ_MISSED 1 s))

/-- The strokes of partition p are voided from stroke `idx` on, up to its next EMIT; nothing is left to void where that
EMIT has fired already (R66). -/
def voidFrom (p idx : Nat) (s : State) : State :=
  if s.seq.runs.any (fun r => stPart r.raw = p && stOp r.raw = 7 && decide (idx < r.idx) && r.bar = barCount s && r.phase ≠ .held)
  then s
  else { s with seq := { s.seq with voiding := p :: s.seq.voiding.filter (fun q => q ≠ p) } }

/-- A run completes: as failed if it ends at or after tick D (R78). A COLLECT or FUSE that fails voids the strokes
after it (R66; log entry 15). -/
def completeRun (r : StrokeRun) (s : State) : State :=
  let late := pastD s r && !r.voided
  let s := if late then countMiss r s else s
  let s := modRun r.idx r.bar (fun x => { x with phase := .done, failed := x.failed || late, missed := late }) s
  if (stOp r.raw = 5 ∨ stOp r.raw = 6) ∧ r.voided = false ∧ (r.failed || late) = true then voidFrom (stPart r.raw) r.idx s
  else s

/-- A voided stroke fires without work and completes at once as failed (R66). -/
def voidedRun (idx : Nat) (k : Stroke) (bar : Nat) : StrokeRun :=
  ⟨idx, k, bar, .done, true, true, false, false, [], [], [], []⟩

/-- A stroke that has fired and is active. -/
def firedRun (idx : Nat) (k : Stroke) (bar : Nat) : StrokeRun :=
  ⟨idx, k, bar, .active, false, false, false, false, [], [], [], []⟩

/-- Add a run. -/
def addRun (r : StrokeRun) (s : State) : State := { s with seq := { s.seq with runs := s.seq.runs ++ [r] } }

/-! ### Result entries (R108, R109) -/

/-- The status of an entry of a run that is posted now: LATE at or after tick D (R78). -/
def postStatus (s : State) (w : Work) (st : Nat) : Nat :=
  match runOf s w.stroke w.bar with
  | some r => if pastD s r then 2 else st
  | none => st

/-- The result descriptor of a descriptor of CD_d, logical engine k. -/
def mkEntry (d k : Nat) (w : Work) (status : Nat) (clip : Bool) (len sig : Nat) : ResEntry :=
  ⟨w.stroke, d, k, w.epoch, status, clip, w.pair && !dPost w.raw, dAddr w.raw 2, w.didx, len % 2 ^ 20, sig⟩

/-- Post an entry into the engine's collector queue; an entry that meets a full queue waits at the engine behind it
(R79). -/
def pushEntry (d k : Nat) (e : ResEntry) (s : State) : State :=
  modDie d (fun x => { x with resq := x.resq.modify k (· ++ [e]) }) s

/-- A discarded or failed descriptor posts an entry if POST is set or the stroke is RUN_PAIRED. -/
def postDiscard (d k status : Nat) (w : Work) (s : State) : State :=
  if dPost w.raw || w.pair then pushEntry d k (mkEntry d k w (postStatus s w status) false 0 0) s else s

/-! ### APPLY and torn regions (R211) -/

/-- Device ranges that an APPLY writes: C and B. -/
def applyRanges (d : Nat) (raw : List Byte) : List (Nat × Nat) :=
  let n := dF raw 0x28 0 24
  let c := accAddr d ⟨true, dSp raw 2, dAddr raw 2 * 64, n * elemBits (dFmtC raw) / 8⟩
  let b := accAddr d ⟨true, dSp raw 1, dAddr raw 1 * 64, n * (if dF raw 0x28 28 1 = 1 then 8 else 4)⟩
  (match c with | some a => [(a, n * elemBits (dFmtC raw) / 8)] | none => []) ++
  (match b with | some a => [(a, n * (if dF raw 0x28 28 1 = 1 then 8 else 4))] | none => [])

/-- Is a descriptor an APPLY. -/
def isApply (raw : List Byte) : Bool := dKind raw = 9 && dF raw 0x28 24 2 = 2

/-- An APPLY that ends after dispatch without completing tears every learned region it writes. -/
def tearApply (d : Nat) (w : Work) (s : State) : State :=
  if isApply w.raw ∧ w.noApply = false then
    (List.range 8).foldl (fun s n =>
      if (applyRanges d w.raw).any (fun x => touchesLreg s n x.1 x.2) then setFi pgAdm Reg.ADM_LREG_CTL_TORN n 1 s else s) s
  else s

/-! ### Engines serving a stroke -/

/-- The context of CD_d that holds stroke `idx` of bar `bar`. -/
def ctxOf (s : State) (d idx bar : Nat) : Option Ctx :=
  ((dieOf s d).ctxs.filterMap id).find? (fun c => c.stroke = idx && c.bar = bar)

/-- Change that context. -/
def modCtx (d idx bar : Nat) (f : Ctx → Ctx) (s : State) : State :=
  modDie d (fun x => { x with ctxs := x.ctxs.map (Option.map (fun c => if c.stroke = idx ∧ c.bar = bar then f c else c)) }) s

/-- The logical engine that a descriptor targets in a context. -/
def targetOf (c : Ctx) (raw : List Byte) : Option Nat := c.engines[dSlot raw]?

/-- Twice the array clock of CD_d in MHz, by its operating point, halved in a deep droop (R346, R354). -/
def clockMhz2 (s : State) (d : Nat) : Nat :=
  25 * getFi s pgDvfs Reg.DVFS_OP_FREQ (getFi s pgDvfs Reg.DVFS_OPC_ACT d) * (if (diePwr s d).half then 1 else 2)

/-- An engine leaves brush load: the time is charged to the barrier's partition (R126, R275). -/
def leaveBrush (d e : Nat) (s : State) : State :=
  match (engOf s d e).brush with
  | some (p, t) =>
    let ns := s.io.now - t
    let clk := (roundOpen (ns * clockMhz2 s d) 2000).toNat
    let s := modCharge p (fun c => { c with brush := satAdd 64 c.brush ns }) s
    let s := { s with acct := { s.acct with brushClk := s.acct.brushClk.modify p (fun l => l.modify d (· + clk)) } }
    let s := bump (pgPe d e) Reg.PE_ENG_BRUSH clk s
    modEng d e (fun g => { g with brush := none }) s
  | none => s

/-- The state an engine shows from its work: BUSY, BRUSH, or READY; other states stay. -/
def showState (d e : Nat) (s : State) : State :=
  let g := engOf s d e
  let st := getF s (pgPe d e) Reg.PE_ENG_STAT_STATE
  let s := if st = 2 ∨ st = 3 ∨ st = 4 then
      setF (pgPe d e) Reg.PE_ENG_STAT_STATE (if g.queue ≠ [] then 3 else if g.brush ≠ none then 4 else 2) s
    else s
  showEng d e s

/-- The mark of warm load in place of a partition: it is charged to none (R367). -/
def warmPart : Nat := 0xFF

/-- An engine enters brush load for a partition (R126); a barrier takes over an engine in warm load. -/
def enterBrush (d e p : Nat) (s : State) : State :=
  let s := match (engOf s d e).brush with
    | some (q, _) => if q = warmPart ∧ p ≠ warmPart then leaveBrush d e s else s
    | none => s
  if (engOf s d e).brush = none then
    showState d e (modEng d e (fun g => { g with brush := some (p, s.io.now), brushNext := none }) s)
  else s

/-- Engine time from switch-in to now is charged (R275). -/
def chargeEngine (d e p : Nat) (s : State) : State :=
  modEng d e (fun g => { g with since := s.io.now })
    (modCharge p (fun c => { c with eng := satAdd 64 c.eng (s.io.now - (engOf s d e).since) }) s)

/-- Has logical engine k of CD_d work of stroke `idx` of bar `bar` left, in its queue or in the context's list. -/
def engineOwes (s : State) (d k idx bar : Nat) : Bool :=
  (match slotOf s d k with
   | some e => (engOf s d e).queue.any (fun w => w.stroke = idx && w.bar = bar)
   | none => false) ||
  (match ctxOf s d idx bar with
   | some c => c.list.any (fun x => targetOf c x.2 = some k)
   | none => false)

/-- When a target engine has nothing left of a stroke it has finished it: its time is charged, and an engine of an open
barrier's group enters brush load (R67, R108, R126). -/
def settle (d k idx bar : Nat) (s : State) : State :=
  match runOf s idx bar with
  | none => s
  | some r =>
    if r.targets.contains (d, k) ∧ engineOwes s d k idx bar = false then
      let s := modRun idx bar (fun x => { x with targets := x.targets.filter (fun t => t ≠ (d, k)) }) s
      match slotOf s d k with
      | some e =>
        let s := chargeEngine d e (stPart r.raw) s
        match (engOf s d e).brushNext with
        | some p => enterBrush d e p s
        | none => showState d e s
      | none => s
    else s

/-- The spectral unit of CD_d abandons its descriptor (R193). -/
def abandonSpectral (d : Nat) (s : State) : State :=
  setF (pgSpec d) Reg.SPEC_STAT_BUSY 0 (bump (pgSpec d) Reg.SPEC_ABANDONED 1 s)

/-- Pre-empt a stroke on a target engine: its queued, running and waiting descriptors are discarded, each posting an
entry of the given status, and the engine has finished the stroke (R77, R117, R272). -/
def killOn (d k idx bar status : Nat) (s : State) : State :=
  let mine := fun (w : Work) => w.stroke = idx && w.bar = bar
  let queued := match slotOf s d k with | some e => (engOf s d e).queue.filter mine | none => []
  let waiting := match ctxOf s d idx bar with
    | some c => (c.list.filter (fun x => targetOf c x.2 = some k)).map (fun x =>
        (⟨c.stroke, c.bar, c.part, c.epoch, c.pair, 0, x.1, x.2, false, false, [], 0, 0, true⟩ : Work))
    | none => []
  let s := if queued.any (fun w => w.spectral) then abandonSpectral d s else s
  let s := queued.foldl (fun s w => tearApply d w s) s
  let s := (queued ++ waiting).foldl (fun s w => postDiscard d k status w s) s
  let s := match slotOf s d k with
    | some e => modEng d e (fun g => { g with queue := g.queue.filter (fun w => !mine w) }) s
    | none => s
  let s := modCtx d idx bar (fun c => { c with list := c.list.filter (fun x => targetOf c x.2 ≠ some k) }) s
  showDispatch d (settle d k idx bar s)

/-- Pre-empt a stroke on all its target engines. -/
def killRun (r : StrokeRun) (status : Nat) (s : State) : State :=
  r.targets.foldl (fun s t => killOn t.1 t.2 r.idx r.bar status s) s

/-! ### Partition faults (R271, R272, R274) -/

/-- STATE of partition p: 0 OFF, 1 ACTIVE, 2 RESETTING, 3 HELD. -/
def partState (s : State) (p : Nat) : Nat := getFi s pgPrt Reg.PRT_STAT_STATE p

/-- A fault of partition p: its work is pre-empted with INVALID entries, its tile segments become NONE, and 0x0D is
recorded. A further fault while RESETTING or HELD only counts; a partition that is OFF has no fault. -/
def partitionFault (p cause : Nat) (s : State) : State :=
  if partState s p = 0 ∨ 16 ≤ p then s
  else
    let s := bumpI pgPrt Reg.PRT_STAT_RESETS p 1 s
    if partState s p ≠ 1 then s
    else
      let s := modCharge p (fun c => { c with resets := satAdd 32 c.resets 1 }) s
      let s := setFi pgPrt Reg.PRT_STAT_CAUSE p cause (setFi pgPrt Reg.PRT_STAT_STATE p 2 s)
      let s := { s with parts := s.parts.modify p (fun x => { x with since := 0 }) }
      let mine := s.seq.runs.filter (fun r => stPart r.raw = p && runActive r && stIsRun r.raw)
      let s := mine.foldl (fun s r => killRun r 1 (failRun r.idx r.bar s)) s
      let s := match s.fus.job with
        | some j =>
          if j.part = p then
            let s := { s with fus := { s.fus with job := none } }
            match runOf s j.stroke j.bar with
            | some r => completeRun { r with failed := true } (failRun j.stroke j.bar s)
            | none => s
          else s
        | none => s
      let s := unhold p s
      let s := clearTags p s
      recordPart pgPrt 0x0D p s

/-- An access of a partition's work outside its windows: 0x0A in PRT, and a partition fault (R269). -/
def windowFault (p a : Nat) (s : State) : State := partitionFault p 1 (recordAt pgPrt 0x0A (a / 64) p s)

/-- The refusal of an access of `who` to the control register at `a`, if it is a data master (R279): 0x09, or the partition
fault of an access outside the windows of the partition for which it works, which come first (log entry 11). -/
def dataRefusal (who : Agent) (wr : Bool) (a : Nat) (s : State) : Option State :=
  match partOf who with
  | some p =>
    some (if windowsPass (windowsInForce s p) wr a 4 then recordAt pgHubId 0x09 (a / 64) p s else windowFault p a s)
  | none => if dataMaster who then some (recordAt pgHubId 0x09 (a / 64) 0xFF s) else none

/-- Does a control address lie in a page of a die out of service (R429). -/
def absentPage (s : State) (a : Nat) : Bool :=
  match pageOfAddr a with
  | some (.cd d _, _) => !inService s d
  | _ => false

/-- A write by `who` of the register at offset `off` of page `p`, on the access path alone. -/
def asMaster (p : Page) (off : Nat) (who : Agent) (f : State → State) (s : State) : State :=
  let a := pageBase p + off
  match dataRefusal who true a s with
  | some t => t
  | none => if absentPage s a then recordAt pgHubId 0x03 (a / 64) 0xFF s else f s

/-- A write of an LDG, CLAP, SEC or DBG register: one by the host is ignored with 0x06 (R307). -/
def asGuarded (p : Page) (off : Nat) (who : Agent) (f : State → State) (s : State) : State :=
  if who = .host then recordAt pgHubId 0x06 ((pageBase p + off) / 64) 0xFF s else asMaster p off who f s

end Sys2Proof.Machine
end

