-- ==== Sys2Proof/Machine/Links.lean ====
section
/-! DEFINITION. The W-links and the partner port: flits, credits, replay, lane repair, discovery, loop test and
negotiation (R20 to R48). -/

namespace Sys2Proof.Machine

open Sys2Proof

/-! ### Check words (R21, R22, R462) -/

/-- One step of CRC-16 on a bit shifted in from the top. -/
def crc16Bit (c : Nat) : Nat := if c.testBit 15 then ((c * 2) % 65536) ^^^ 0x1021 else (c * 2) % 65536

/-- CRC-16 over a byte, most significant bit first. -/
def crc16Byte (c b : Nat) : Nat :=
  let c := c ^^^ (b * 256)
  crc16Bit (crc16Bit (crc16Bit (crc16Bit (crc16Bit (crc16Bit (crc16Bit (crc16Bit c)))))))

/-- CRC-16 of R462: polynomial 0x1021, initial value 0xFFFF, not reflected, no final XOR. -/
def crc16 (l : List Byte) : Nat := l.foldl (fun c b => crc16Byte c b.toNat) 0xFFFF

/-- The message of a flit's CRC: header bits [47:0] as six bytes, then the payload bytes in transfer order. -/
def flitMessage (f : Flit) : List Byte :=
  leBytes 6 (f.hdr.toNat % 2 ^ 48) ++ ((f.data ++ List.replicate 8 0).take 8).flatMap (fun (w : DWord) => leBytes 8 w.toNat)

/-- The parity of the 64 wires over transfers 0 to 8. -/
def wireParity (f : Flit) : DWord := ((f.data ++ List.replicate 8 0).take 8).foldl (· ^^^ ·) f.hdr

/-- The wires whose parity fails (R21). -/
def badWires (f : Flit) : List Nat := bitsSet 64 (wireParity f ^^^ f.chk).toNat

/-- Does the flit's CRC hold. -/
def crcHolds (f : Flit) : Bool := crc16 (flitMessage f) = bitsOf f.hdr.toNat 48 16

/-- A field of the flit header (R22). -/
def hdrF (f : Flit) (lo w : Nat) : Nat := bitsOf f.hdr.toNat lo w

/-- A flit with its CRC and check word made for a header and a payload. -/
def makeFlit (h : Nat) (data : List DWord) : Flit :=
  let f : Flit := ⟨BitVec.ofNat 64 (h % 2 ^ 48), data, 0⟩
  let f := { f with hdr := BitVec.ofNat 64 (h % 2 ^ 48 + 2 ^ 48 * crc16 (flitMessage f)) }
  { f with chk := wireParity f }

/-- Send a flit of class `cls` and type `ty` from port `p`, with the payload given and the credits owed to the peer
returned; it takes a credit of its class and stands in the replay buffer of 64 flits (R22, R23, R27). A credit-only
flit takes no credit. -/
def sendFlit (p cls ty : Nat) (data : List DWord) (s : State) : State :=
  let q := portOf s p
  let rq := Nat.min 15 (nth0 q.owed 0)
  let rs := Nat.min 15 (nth0 q.owed 1)
  let rc := Nat.min 3 (nth0 q.owed 2)
  let h := cls + 4 * ty + 64 * (if q.nak then 1 else 0) + 128 + 256 * (if cls = 3 then (q.seq + 255) % 256 else q.seq)
    + 65536 * q.ack + 2 ^ 24 * rq + 2 ^ 28 * rs + 2 ^ 32 * rc
  let f := makeFlit h data
  let s := modPort p (fun x => { x with
    owed := [nth0 x.owed 0 - rq, nth0 x.owed 1 - rs, nth0 x.owed 2 - rc]
    seq := if cls = 3 then x.seq else (x.seq + 1) % 256
    credits := if cls = 3 then x.credits else x.credits.modify cls (· - 1)
    replay := if cls = 3 then x.replay else ((x.replay ++ [f]).drop ((x.replay.length + 1) - 64)) }) s
  emit (.flit p f) s

/-! ### Receiving (R26, R27) -/

/-- Does the port take flits: DISCOVER or UP, or the partner port while ACTIVE. -/
def portTakes (s : State) (p : Nat) : Bool :=
  if p = 20 then getF s pgUci Reg.UCI_STAT_STATE = 4
  else p < 20 && (portF s p Reg.PORT_P_STAT_STATE = 2 || portF s p Reg.PORT_P_STAT_STATE = 3)

/-- Count a parity error of wire `w` at the port, in total and within the 10 ms before now. -/
def countParity (p t : Nat) (s : State) (w : Nat) : State :=
  let s := modPort p (fun q => { q with
    parity := sparsePut (fun _ => 0) q.parity w (satAdd 16 (sparseGet (fun _ => 0) q.parity w) 1)
    recent := (w, t) :: q.recent.filter (fun e => t < e.2 + 10000000) }) s
  if p < 20 then setPortF p Reg.PORT_P_ERR_LAST_WIRE w s else s

/-- A rejected flit (R27): it and every later flit are discarded, NAK is returned, the failing wires are counted; the
fourth failure of one flit records 0x81 and takes the link DOWN. -/
def flitRejected (p t : Nat) (wires : List Nat) (s : State) : State :=
  let s := wires.foldl (countParity p t) s
  let s := modPort p (fun q => { q with fails := q.fails + 1, nak := true }) s
  let s := if p < 20 then setPortF p Reg.PORT_P_ERR_REPLAYS (satAdd 16 (portF s p Reg.PORT_P_ERR_REPLAYS) 1) s else s
  if (portOf s p).fails ≥ 4 then linkDown p (record (portPage p).1 0x81 s)
  else sendFlit p 3 0 [] s

/-- The flits of the replay buffer after ACK_SEQ: those that the peer has not received intact. -/
def unacked (q : Port) (ackSeq : Nat) : List Flit :=
  q.replay.filter (fun f => 1 ≤ (hdrF f 8 8 + 256 - ackSeq) % 256 ∧ (hdrF f 8 8 + 256 - ackSeq) % 256 ≤ 64)

/-- Credits returned by an accepted flit; more than the buffers hold record 0x8A and take the link DOWN (R26). -/
def takeCredits (p : Nat) (f : Flit) (s : State) : State :=
  let q := portOf s p
  let c := [nth0 q.credits 0 + hdrF f 24 4, nth0 q.credits 1 + hdrF f 28 4, nth0 q.credits 2 + hdrF f 32 2]
  if nth0 c 0 > 32 ∨ nth0 c 1 > 32 ∨ nth0 c 2 > 8 then linkDown p (record (portPage p).1 0x8A s)
  else modPort p (fun q => { q with credits := c }) s

/-- An accepted flit: it is acknowledged, what its ACK_SEQ names leaves the replay buffer, a NAK replays the rest
(R27), and its credits are taken. -/
def flitAccepted (p : Nat) (f : Flit) (s : State) : State :=
  let cls := hdrF f 0 2
  let left := unacked (portOf s p) (hdrF f 16 8)
  let s := modPort p (fun q => { q with
    ack := if cls = 3 then q.ack else hdrF f 8 8
    fails := 0
    nak := false
    replay := left
    got := some f
    owed := if cls = 3 then q.owed else q.owed.modify cls (· + 1) }) s
  let s := if hdrF f 6 1 = 1 then left.foldl (fun t g => emit (.flit p g) t) s else s
  takeCredits p f s

/-- FLIT_RECEIVE (R27): the port takes a flit whole. A flit out of sequence is one of the later flits that a rejection
discards, or one received already: it is discarded. -/
def execFlitReceive (port : Nat) (flit : Flit) (t : Nat) (s : State) : Host.Outcome State Fault Refusal :=
  .next (
    let s := at_ t s
    if portTakes s port then
      let wires := badWires flit
      if wires ≠ [] ∨ crcHolds flit = false then flitRejected port t wires s
      else if hdrF flit 0 2 = 3 ∨ hdrF flit 8 8 = ((portOf s port).ack + 1) % 256 then flitAccepted port flit s
      else s
    else s)

/-- CREDIT_ONLY_FLIT (R23): credits that are owed are returned in a flit of their own. -/
def execCreditOnlyFlit (port : Nat) (s : State) : Host.Outcome State Fault Refusal :=
  .next (if portTakes s port ∧ sumOf (portOf s port).owed ≠ 0 then sendFlit port 3 0 [] s else s)

/-! ### Spares and repair (R28 to R31) -/

/-- Is spare `k` of the receive direction of a port free to take a wire. -/
def rxSpareFree (s : State) (p k : Nat) : Bool :=
  !(portF s p Reg.PORT_P_STAT_RX_SPARE_BAD).testBit k &&
    (if k = 0 then portF s p Reg.PORT_P_REPAIR_RX_A_V = 0 else portF s p Reg.PORT_P_REPAIR_RX_B_V = 0)

/-- Is spare `k` of the send direction of a port free to take a wire. -/
def txSpareFree (s : State) (p k : Nat) : Bool :=
  !(portF s p Reg.PORT_P_STAT_TX_SPARE_BAD).testBit k &&
    (if k = 0 then portF s p Reg.PORT_P_REPAIR_TX_A_V = 0 else portF s p Reg.PORT_P_REPAIR_TX_B_V = 0)

/-- NO_SPARE shows a direction with no usable spare left. -/
def showSpares (p : Nat) (s : State) : State :=
  if (!rxSpareFree s p 0 && !rxSpareFree s p 1) || (!txSpareFree s p 0 && !txSpareFree s p 1) then
    setPortF p Reg.PORT_P_STAT_NO_SPARE 1 s
  else s

/-- SPARE_PRBS_ERROR (R28): an unused spare that shows errors is marked unusable. -/
def execSparePrbsError (port : Nat) (tx : Bool) (spare : Nat) (s : State) : Host.Outcome State Fault Refusal :=
  .next (
    if port < 20 ∧ spare < 2 then
      if tx then
        if txSpareFree s port spare then
          showSpares port (setPortF port Reg.PORT_P_STAT_TX_SPARE_BAD
            (putBits (portF s port Reg.PORT_P_STAT_TX_SPARE_BAD) spare 1 1) s)
        else s
      else if rxSpareFree s port spare then
        showSpares port (setPortF port Reg.PORT_P_STAT_RX_SPARE_BAD
          (putBits (portF s port Reg.PORT_P_STAT_RX_SPARE_BAD) spare 1 1) s)
      else s
    else s)

/-- The receive direction's repair of a wire by a spare is in force. -/
def setRxRepair (p wire spare : Nat) (s : State) : State :=
  if spare = 0 then setPortF p Reg.PORT_P_REPAIR_RX_A_V 1 (setPortF p Reg.PORT_P_REPAIR_RX_A wire s)
  else setPortF p Reg.PORT_P_REPAIR_RX_B_V 1 (setPortF p Reg.PORT_P_REPAIR_RX_B wire s)

/-- The send direction's repair of a wire by a spare is in force. -/
def setTxRepair (p wire spare : Nat) (s : State) : State :=
  if spare = 0 then setPortF p Reg.PORT_P_REPAIR_TX_A_V 1 (setPortF p Reg.PORT_P_REPAIR_TX_A wire s)
  else setPortF p Reg.PORT_P_REPAIR_TX_B_V 1 (setPortF p Reg.PORT_P_REPAIR_TX_B wire s)

/-- What every repair brings (R30): 0x82 in the port's page, whose INT_STAT.ERR raises its interrupt, and the change
appended to the ledger's link map. -/
def repairRecord (p wire spare dir : Nat) (s : State) : State :=
  let a := fieldAddr (portPage p).1 Reg.PORT_P_REPAIR_TX_A (portPage p).2 0
  journal 1 p (leBytes 1 p ++ leBytes 1 wire ++ leBytes 1 spare ++ leBytes 1 dir) [(a, regW (if dir = 1 then setRxRepair p wire spare s else setTxRepair p wire spare s) a)]
    (record (portPage p).1 0x82 s)

/-- Is the wire repaired already in the receive direction, by a spare in use or one about to be. -/
def rxRepaired (s : State) (p wire : Nat) : Bool :=
  (portF s p Reg.PORT_P_REPAIR_RX_A_V = 1 && portF s p Reg.PORT_P_REPAIR_RX_A = wire) ||
  (portF s p Reg.PORT_P_REPAIR_RX_B_V = 1 && portF s p Reg.PORT_P_REPAIR_RX_B = wire) ||
  (match (portOf s p).rxSwitch with | some x => x.1 = wire | none => false)

/-- The spare that a repair of the receive direction takes: S0 first. A spare promised to a repair that waits for its
switch SEQ is taken. -/
def pickRxSpare (s : State) (p : Nat) : Option Nat :=
  let taken := match (portOf s p).rxSwitch with | some x => some x.2.1 | none => none
  if rxSpareFree s p 0 && taken ≠ some 0 then some 0 else if rxSpareFree s p 1 && taken ≠ some 1 then some 1 else none

/-- LANE_REPAIR (R29): the eighth parity error of a wire within 10 ms makes the receiver name the wire, a spare and
the switch SEQ in a REPAIR flit. A wire that fails with no usable spare left stays in use, and NO_SPARE is set (R31). -/
def execLaneRepair (port wire : Nat) (s : State) : Host.Outcome State Fault Refusal :=
  .next (
    let n := ((portOf s port).recent.filter (fun e => e.1 = wire ∧ s.io.now < e.2 + 10000000)).length
    if port < 20 ∧ wire < 64 ∧ portTakes s port ∧ n ≥ 8 ∧ rxRepaired s port wire = false then
      match pickRxSpare s port with
      | some k =>
        let sw := ((portOf s port).ack + 64) % 256
        let s := modPort port (fun q => { q with rxSwitch := some (wire, k, sw) }) s
        let s := emit (.repair port wire k sw) s
        let s := sendFlit port 2 1 [BitVec.ofNat 64 (wire + 256 * k + 65536 * sw)] s
        let s := repairRecord port wire k 1 s
        if rxSpareFree s port (1 - k) then s else setPortF port Reg.PORT_P_STAT_NO_SPARE 1 s
      | none => setPortF port Reg.PORT_P_STAT_NO_SPARE 1 s
    else s)

/-- REPAIR_FLIT (R29): the sender learns of a repair of its send direction and switches at the SEQ named. -/
def execRepairFlit (port wire spare sw : Nat) (s : State) : Host.Outcome State Fault Refusal :=
  .next (
    if port < 20 ∧ wire < 64 ∧ spare < 2 ∧ portTakes s port then
      modPort port (fun q => { q with txSwitch := some (wire, spare, sw % 256) }) s
    else s)

/-- REPAIR_SWITCH (R29): from the switch SEQ on, the spare carries the wire; either direction that waits for its
switch takes it. -/
def execRepairSwitch (port : Nat) (s : State) : Host.Outcome State Fault Refusal :=
  .next (
    if port < 20 then
      let s := match (portOf s port).rxSwitch with
        | some x => setRxRepair port x.1 x.2.1 (modPort port (fun q => { q with rxSwitch := none }) s)
        | none => s
      let s := match (portOf s port).txSwitch with
        | some x => setTxRepair port x.1 x.2.1 (modPort port (fun q => { q with txSwitch := none }) s)
        | none => s
      showSpares port s
    else s)

/-- CLOCK_WIRE_FAILURE (R31): a clock or valid wire has no spare; its failure takes the link DOWN. -/
def execClockWireFailure (port : Nat) (_valid : Bool) (s : State) : Host.Outcome State Fault Refusal :=
  .next (if port ≤ 20 then linkDown port s else s)

/-! ### Discovery (R35 to R38) -/

/-- A wire found bad at training is repaired at once if a spare is left: in the direction named, seen from the hub
port. -/
def trainRepair (s : State) (b : Nat × Nat × Bool) : State :=
  let p := b.1
  if p < 6 ∧ b.2.1 < 64 then
    if b.2.2 then
      match (if txSpareFree s p 0 then some 0 else if txSpareFree s p 1 then some 1 else none : Option Nat) with
      | some k => repairRecord p b.2.1 k 0 (setRxRepair (peerPort p) b.2.1 k (setTxRepair p b.2.1 k s))
      | none => setPortF p Reg.PORT_P_STAT_NO_SPARE 1 s
    else
      match (if rxSpareFree s p 0 then some 0 else if rxSpareFree s p 1 then some 1 else none : Option Nat) with
      | some k => repairRecord p b.2.1 k 1 (setTxRepair (peerPort p) b.2.1 k (setRxRepair p b.2.1 k s))
      | none => setPortF p Reg.PORT_P_STAT_NO_SPARE 1 s
  else s

/-- A hub port trains and enters discovery with a DISCOVERY flit that carries its number. -/
def startDiscovery (s : State) (p : Nat) : State :=
  if portF s p Reg.PORT_P_STAT_STATE = 4 then s
  else
    let s := setPortF p Reg.PORT_P_STAT_STATE 2 (setPortF (peerPort p) Reg.PORT_P_STAT_STATE 2 s)
    sendFlit p 2 0 [BitVec.ofNat 64 p] (emit (.discovery p) s)

/-- WLINK_RESET_RELEASE (R35): HP_0 to HP_5 train with the link map's repairs in force, repair further bad wires under
R29, and send DISCOVERY. -/
def execWlinkResetRelease (bad : List (Nat × Nat × Bool)) (t : Nat) (s : State) : Host.Outcome State Fault Refusal :=
  .next (
    let s := at_ t s
    let s := bad.foldl trainRepair s
    let s := (List.range 6).foldl (fun t p => showSpares p t) s
    (List.range 6).foldl startDiscovery s)

/-- Discovery has ended at a port; after the last of the six, DONE sets (R38). -/
def endDiscovery (p : Nat) (s : State) : State :=
  let s := { s with links := { s.links with ended := p :: s.links.ended.filter (· ≠ p) } }
  if (List.range 6).all (fun q => s.links.ended.contains q) then setF pgWlk Reg.WLK_CENSUS_DONE 1 s else s

/-- A failed check of discovery: MISMATCH and 0x84 (R36, R37). -/
def mismatch (pg : Page) (s : State) : State := record pg 0x84 (setF pgWlk Reg.WLK_CENSUS_MISMATCH 1 s)

/-- Boot stops in a stage. -/
def bootStop (stage : Nat) (s : State) : State :=
  setF pgHubId Reg.HUB_ID_BOOT_STAT_STOPPED 1 (setF pgHubId Reg.HUB_ID_BOOT_STAT_STAGE stage s)

/-- The lifecycle state (R436). -/
def lcState (s : State) : Nat := getF s pgSec Reg.SEC_LC_STATE

/-- The census record of a port: serial number, stepping, bin. -/
def censusOf (s : State) (p : Nat) : Option (Nat × Nat × Nat) :=
  match s.ldg.census with
  | some l => (l.find? (fun e => e.1 = p)).map (fun e => e.2)
  | none => none

/-- The census with the record of a port written. -/
def writeCensus (p : Nat) (r : DieReply) (s : State) : State :=
  let old := (s.ldg.census.getD []).filter (fun e => e.1 ≠ p)
  { s with ldg := { s.ldg with census := some ((p, r.serial, r.step, r.bin) :: old) } }

/-- The serial check of R37: in BLANK the serial found is written as the census; one that differs from its record, or
has none, records 0x84 and stops boot at the census stage, except in RETURNED, where boot goes on (R430). -/
def checkSerial (p : Nat) (r : DieReply) (s : State) : State :=
  if lcState s = 0 then writeCensus p r s
  else if (censusOf s p).map (fun c => c.1) = some r.serial then s
  else if lcState s = 3 then mismatch pgWlk s
  else bootStop 3 (mismatch pgWlk s)

/-- The identity that the hub assigns to the die found at a port (R35, R36, R37). -/
def assignIdentity (p : Nat) (r : DieReply) (s : State) : State :=
  let q := peerPort p
  let s := setPortF p Reg.PORT_P_STAT_PEER_DIE (if p < 4 then 0x10 + p else 0x20 + (p - 4))
    (setPortF p Reg.PORT_P_STAT_PEER_PORT 0 (setPortF p Reg.PORT_P_STAT_STATE 3 s))
  let s := setPortF q Reg.PORT_P_STAT_PEER_DIE 1 (setPortF q Reg.PORT_P_STAT_PEER_PORT p
    (setPortF q Reg.PORT_P_STAT_STATE 3 s))
  let s := setF pgWlk Reg.WLK_CENSUS_PRESENT (putBits (getF s pgWlk Reg.WLK_CENSUS_PRESENT) p 1 1) s
  if p < 4 then
    setF (pgWlkd p) Reg.WLKD_ID_ASSIGNED 1 (setF (pgWlkd p) Reg.WLKD_ID_INDEX p
      (setF (pgCdId p) Reg.CD_ID_INDEX p (setF (pgCdId p) Reg.CD_ID_BIN r.bin (setF (pgCdId p) Reg.CD_ID_STEP r.step
        (set64 (pgCdId p) Reg.CD_ID_SERIAL_LO Reg.CD_ID_SERIAL_HI 0 r.serial s)))))
  else s

/-- DISCOVERY_REPLY (R37): the die's type is checked against its port (R35, R36), its serial against the census. -/
def execDiscoveryReply (port : Nat) (reply : DieReply) (s : State) : Host.Outcome State Fault Refusal :=
  .next (
    if port < 6 ∧ portF s port Reg.PORT_P_STAT_STATE = 2 ∧ s.links.ended.contains port = false then
      let s := { s with links := { s.links with replies := (port, reply) :: s.links.replies } }
      if reply.kind = (if port < 4 then 1 else 2) then
        endDiscovery port (checkSerial port reply (assignIdentity port reply s))
      else endDiscovery port (linkDown port (mismatch pgWlk s))
    else s)

/-- DISCOVERY_TIMEOUT (R38): no answer within 1 ms records 0x85 and takes the port DOWN. -/
def execDiscoveryTimeout (port : Nat) (s : State) : Host.Outcome State Fault Refusal :=
  .next (
    if port < 6 ∧ portF s port Reg.PORT_P_STAT_STATE = 2 ∧ s.links.ended.contains port = false then
      endDiscovery port (linkDown port (record pgWlk 0x85 s))
    else s)

/-- A ring port's peer is checked (R36): the right one brings the port UP, another takes the link DOWN. -/
def ringPeer (d port want got : Nat) (s : State) : State :=
  if portF s port Reg.PORT_P_STAT_STATE = 4 then s
  else if got = want then
    setPortF port Reg.PORT_P_STAT_STATE 3 (setPortF port Reg.PORT_P_STAT_PEER_DIE (0x10 + want)
      (setPortF port Reg.PORT_P_STAT_PEER_PORT ((peerPort port - 6) % 3) s))
  else linkDown port (mismatch (pgWlkd d) s)

/-- RING_DISCOVERY (R36): what the peers of RING_E and RING_W of CD_die report. -/
def execRingDiscovery (die east west : Nat) (s : State) : Host.Outcome State Fault Refusal :=
  .next (
    if die < 4 ∧ flag s (pgWlkd die) Reg.WLKD_ID_ASSIGNED then
      ringPeer die (8 + 3 * die) ((die + 3) % 4) west (ringPeer die (7 + 3 * die) ((die + 1) % 4) east s)
    else s)

/-! ### Stand-alone mode and loop test (R34, R45, R47) -/

/-- STANDALONE_ENTER (R47): by its JTAG instruction, in BLANK, DEVELOP and RETURNED only. The die is named by its die
code. -/
def execStandaloneEnter (die : Nat) (s : State) : Host.Outcome State Fault Refusal :=
  .next (
    if lcState s ≠ 2 then { s with links := { s.links with alone := die :: s.links.alone.filter (· ≠ die) } } else s)

/-- The die code of the die that a port belongs to. -/
def portDie (p : Nat) : Nat := pageDie (portPage p).1

/-- Start a loop test at a port of a die in stand-alone mode (R34, R47). -/
def startLoopTest (port : Nat) (s : State) : State :=
  if port < 20 ∧ lcState s ≠ 2 ∧ s.links.alone.contains (portDie port) ∧
      (portF s port Reg.PORT_P_LOOP_MODE = 1 ∨ portF s port Reg.PORT_P_LOOP_MODE = 2) then
    setPortF port Reg.PORT_P_LOOP_RUN 1 (setPortF port Reg.PORT_P_LOOP_DONE 0 (setPortF port Reg.PORT_P_LOOP_PASS 0
      (setPortF port Reg.PORT_P_LOOP_FAIL_WIRE 0 (setPortF port Reg.PORT_P_STAT_STATE 5 s))))
  else s

/-- LOOP_TEST_RUN (R47): the pattern test starts on a port of a die in stand-alone mode whose MODE is 1 or 2; in
PRODUCTION the write is ignored (R34). -/
def execLoopTestRun (by_ : Agent) (port : Nat) (s : State) : Host.Outcome State Fault Refusal :=
  .next (
    match dataRefusal by_ true (fieldAddr (portPage port).1 Reg.PORT_P_LOOP_RUN (portPage port).2 0) s with
    | some t => t
    | none => startLoopTest port s)

/-- LOOP_TEST_DONE (R47): the result of the pattern test, with the first failing wire if one failed. -/
def execLoopTestDone (port : Nat) (failWire : Option Nat) (s : State) : Host.Outcome State Fault Refusal :=
  .next (
    if port < 20 ∧ portF s port Reg.PORT_P_LOOP_RUN = 1 then
      setPortF port Reg.PORT_P_LOOP_RUN 0 (setPortF port Reg.PORT_P_LOOP_DONE 1
        (setPortF port Reg.PORT_P_LOOP_PASS (if failWire = none then 1 else 0)
          (setPortF port Reg.PORT_P_LOOP_FAIL_WIRE (failWire.getD 0) s)))
    else s)

/-! ### The partner port (R39 to R43) -/

/-- Start a negotiation: ignored unless STATE is IDLE, which it never is on the LK-9680. -/
def uciStart (s : State) : State :=
  if getF s pgUci Reg.UCI_STAT_STATE = 1 ∧ getF s pgHubId Reg.HUB_ID_PART_VARIANT = 1 then
    setF pgUci Reg.UCI_STAT_STATE 2 s
  else s

/-- UCI_START (R41). -/
def execUciStart (by_ : Agent) (s : State) : Host.Outcome State Fault Refusal := .next (asMaster pgUci 0x40 by_ uciStart s)

/-- Does a negotiation run: TRAIN or NEGOTIATE. -/
def uciRuns (s : State) : Bool := getF s pgUci Reg.UCI_STAT_STATE = 2 || getF s pgUci Reg.UCI_STAT_STATE = 3

/-- UCI_NEGOTIATION_DONE (R41): the partner is accepted only with training, revision 0x1 and a power request within
PWR_LIMIT, which refuses every partner when 0; else the port fences with its cause. -/
def execUciNegotiationDone (offer : PartnerOffer) (s : State) : Host.Outcome State Fault Refusal :=
  .next (
    if uciRuns s then
      if offer.sideband = false then uciFence 1 s
      else if offer.trained = false then record pgUci 0x86 (uciFence 2 s)
      else
        let s := setF pgUci Reg.UCI_PARTNER_ID offer.ident.toNat s
        let lim := getF s pgUci Reg.UCI_PWR_LIMIT_LIMIT
        if offer.revision ≠ 1 then record pgUci 0x87 (uciFence 3 s)
        else if lim = 0 ∨ offer.power > lim then record pgUci 0x87 (uciFence 4 s)
        else setF pgUci Reg.UCI_STAT_STATE 4 s
    else s)

/-- UCI_NEGOTIATION_TIMEOUT (R41): 10 ms have elapsed; the port fences with cause 5 and 0x87. -/
def execUciNegotiationTimeout (s : State) : Host.Outcome State Fault Refusal :=
  .next (if uciRuns s then record pgUci 0x87 (uciFence 5 s) else s)

/-- UCI_RUNTIME_FENCE (R43): an ACTIVE port fences itself and records 0x89. -/
def execUciRuntimeFence (s : State) : Host.Outcome State Fault Refusal := .next (linkDown 20 s)

end Sys2Proof.Machine
end

