-- ==== Sys2Proof/Machine/Flags.lean ====
section
/-! DEFINITION. Interrupt flags of the pages (R444): the block-defined causes. -/

namespace Sys2Proof.Machine

open Sys2Proof

/-- Set block-defined cause `b` of a page's INT_STAT. -/
def raiseBit (p : Page) (b : Nat) (s : State) : State :=
  notifyEdge p s (setF p Reg.HDR_INT_STAT_BLOCK (putBits (getF s p Reg.HDR_INT_STAT_BLOCK) b 1 1) s)

end Sys2Proof.Machine
end

