-- ==== Sys2Proof/Machine/OptStep.lean ====
section
/-! DEFINITION. The optimiser descriptors OPT_STEP (R205 to R207). -/

namespace Sys2Proof.Machine

open Sys2Proof

/-! ### Parameters (R205) -/

def oCount (r : List Byte) : Nat := dF r 0x28 0 24
/-- MODE: 0 SEED, 1 CHECK, 2 APPLY. -/
def oMode (r : List Byte) : Nat := dF r 0x28 24 2
def oGrp (r : List Byte) : Nat := dF r 0x28 26 2
/-- ALG: AdamW, else SGD with momentum. -/
def oAdam (r : List Byte) : Bool := dF r 0x28 28 1 = 1
def oSr (r : List Byte) : Bool := dF r 0x28 29 1 = 1
def oLr (r : List Byte) : Word := BitVec.ofNat 32 (dF r 0x2C 0 32)
def oBeta1 (r : List Byte) : Word := bf16ToF32 (dF r 0x30 0 16)
def oBeta2 (r : List Byte) : Word := bf16ToF32 (dF r 0x30 16 16)
def oEps (r : List Byte) : Word := bf16ToF32 (dF r 0x34 0 16)
def oWd (r : List Byte) : Word := bf16ToF32 (dF r 0x34 16 16)
def oSrSeed (r : List Byte) : Nat := dF r 0x38 0 16

/-- The power of two 2 ^ k as FP32. -/
def pow2F (k : Int) : Word := toF32 (.fin false 1 k)

/-- Stochastic rounding of a weight to BF16 (R207): the bits, and whether it is a NaN or was cut to the largest finite. -/
def srRound (raw : List Byte) (t i : Nat) (w : Word) : Nat × Bool × Bool :=
  let m := 2 ^ 64
  let e := dAddr raw 2 * 32 + i
  let h := (oSrSeed raw * 2 ^ 48) ^^^ ((t * 0x9E3779B97F4A7C15) % m) ^^^ e
  let h := h ^^^ (h / 2 ^ 33)
  let h := (h * 0xFF51AFD7ED558CCD) % m
  let h := h ^^^ (h / 2 ^ 33)
  if nanF w then (0x7FC0, true, false)
  else if isInfN (f32 w) then (w.toNat / 65536, false, false)
  else
    let b := (w.toNat + h % 65536) % 2 ^ 32 / 65536
    if bitsOf b 7 8 = 255 then (if b.testBit 15 then 0xFF7F else 0x7F7F, false, true) else (b, false, false)

/-- The momenta and the weight after one element's update (R206). -/
def applyElem (raw : List Byte) (lsExp : Int) (t : Nat) (a m v w : Word) : Word × Word × Word :=
  let g := mulF a (pow2F (-lsExp))
  let b1 := oBeta1 raw
  let b2 := oBeta2 raw
  let r := if oAdam raw then
      let m := addF (mulF b1 m) (mulF (subF oneF b1) g)
      let v := addF (mulF b2 v) (mulF (subF oneF b2) (mulF g g))
      let c1 := subF oneF (Config.powF b1 (ofIntF t))
      let c2 := subF oneF (Config.powF b2 (ofIntF t))
      (m, v, divF (divF m c1) (addF (sqrtF (divF v c2)) (oEps raw)))
    else
      let m := addF (mulF b1 m) g
      (m, v, m)
  (r.1, r.2.1, subF w (mulF (oLr raw) (addF r.2.2 (mulF (oWd raw) w))))

/-- The elements of an operand as FP32. -/
def optVals (s : State) (w : Who) (raw : List Byte) (x fmt n base : Nat) : List Word :=
  let b := readSp s w (dSp raw x) (dAddr raw x * 64 + base) (packedLen fmt n)
  (List.range n).map (fun i => toF32 (elemVal fmt (elemCode fmt b i)))

/-- Execute an OPT_STEP with the LS_EXP and OPT_T read at dispatch. The signature of a RUN_PAIRED covers C and then B
(R210). -/
def runOpt (s : State) (w : Who) (k : Work) : KOut :=
  let raw := k.raw
  let n := oCount raw
  let a := optVals s w raw 0 (dFmtA raw) n 0
  if oMode raw = 0 then
    let cs := a.map (fun x => convertTo (dFmtC raw) (f32 (mulF x (pow2F k.lsExp))))
    { KOut.none with
      writes := [(dSp raw 2, dAddr raw 2 * 64, packCodes (elemBits (dFmtC raw)) (cs.map (fun c => c.code)))]
      units := ceilDiv (packedLen (dFmtC raw) n) 64
      out := { OutAcc.zero 0 with nan := (cs.filter (fun c => c.nan)).length } }
  else if oMode raw = 1 then { KOut.none with nonfinite := a.any (fun x => !finF x) }
  else if k.noApply then KOut.none
  else
    let t := k.optT + 1
    let ms := optVals s w raw 1 13 n 0
    let vs := if oAdam raw then optVals s w raw 1 13 n (4 * n) else []
    let ws := optVals s w raw 2 (dFmtC raw) n 0
    let res := (List.range n).map (fun i =>
      applyElem raw k.lsExp t (a.getD i 0) (ms.getD i 0) (vs.getD i 0) (ws.getD i 0))
    let cs := res.zipIdx.map (fun x =>
      if dFmtC raw = 4 ∧ oSr raw = true then srRound raw t x.2 x.1.2.2
      else let c := convertTo (dFmtC raw) (f32 x.1.2.2); (c.code, c.nan, false))
    let cb := packCodes (elemBits (dFmtC raw)) (cs.map (fun c => c.1))
    let bb := fpBytes (res.map (fun x => x.1)) ++ (if oAdam raw then fpBytes (res.map (fun x => x.2.1)) else [])
    { KOut.none with
      writes := [(dSp raw 2, dAddr raw 2 * 64, cb), (dSp raw 1, dAddr raw 1 * 64, bb)]
      nsig := if k.pair then 2 else 1
      units := ceilDiv cb.length 64 + ceilDiv bb.length 64
      out := { OutAcc.zero 0 with
        nan := (cs.filter (fun c => c.2.1)).length
        inf := (cs.filter (fun c => c.2.2)).length } }

/-- The accesses of an OPT_STEP. -/
def optMemAccs (k : Work) : List MemAcc :=
  let raw := k.raw
  let n := oCount raw
  let a : MemAcc := ⟨false, dSp raw 0, dAddr raw 0 * 64, packedLen (dFmtA raw) n⟩
  let c := fun wr => (⟨wr, dSp raw 2, dAddr raw 2 * 64, packedLen (dFmtC raw) n⟩ : MemAcc)
  let b := fun wr => (⟨wr, dSp raw 1, dAddr raw 1 * 64, n * (if oAdam raw then 8 else 4)⟩ : MemAcc)
  if oMode raw = 0 then [a, c true]
  else if oMode raw = 1 then [a]
  else if k.noApply then []
  else [a, b false, c false, c true, b true]

end Sys2Proof.Machine
end

