-- ==== Sys2Proof/Machine/Trackers.lean ====
section
/-! DEFINITION. The per-channel scale trackers and the clip statistics (R144 to R151). -/

namespace Sys2Proof.Machine

open Sys2Proof

/-! ### Sets -/

/-- Configuration in force of set j on CD_d. -/
def qcfgOf (s : State) (d j : Nat) : QCfg := (dieOf s d).qcfg.getD (j - 1) QCfg.fresh

/-- Set j on physical slot e of CD_d. -/
def trkSet (s : State) (d e j : Nat) : TrkSet := (engOf s d e).trk.getD (j - 1) TrkSet.fresh

/-- Change it. -/
def modTrk (d e j : Nat) (f : TrkSet → TrkSet) (s : State) : State :=
  modEng d e (fun g => { g with trk := g.trk.modify (j - 1) f }) s

/-- Is set j of CD_d usable for `n` channels (R145). -/
def setUsable (s : State) (d j n : Nat) : Bool :=
  let c := qcfgOf s d j
  j ≠ 0 && c.enable && !c.bad && n ≤ c.len

/-- An entry loaded with a scale. -/
def loadedEntry (sc : Word) : TrkEntry := ⟨[], sc, 0, 0, 0, 0, 0, 0⟩

/-- Is an initial scale valid: positive and finite (R148). -/
def goodScale (w : Word) : Bool := finF w && ltF zeroF w

/-- The first descriptor that names a set in INIT loads its scales; entries beyond its channels hold values that the
spec does not give (log entry 3). 0x38 is recorded for an initial scale that S_MIN replaces. -/
def loadSet (d e j part : Nat) (init : List Word) (s : State) : State :=
  if (trkSet s d e j).active then s
  else
    let c := qcfgOf s d j
    let good := init.map (fun w => if goodScale w then w else c.smin)
    let rest := (List.range (c.len - init.length)).map (fun i => BitVec.ofNat 32 (Config.free (s.io.fresh + i)))
    let s := if init.all goodScale then s else recordPart (pgQnt d) 0x38 part s
    modTrk d e j (fun x => { x with active := true, entries := (good ++ rest).map loadedEntry })
      { s with io := { s.io with fresh := s.io.fresh + (c.len - init.length) } }

/-- The scales in force of the first `n` channels of a set. -/
def setScales (s : State) (d e j n : Nat) : List Word := ((trkSet s d e j).entries.map (fun x => x.scale)).take n

/-- A completed descriptor adds its maxima and counts to the pending values of the set (R146). -/
def addPending (d e j fmt : Nat) (o : OutAcc) (s : State) : State :=
  modTrk d e j (fun x => { x with
    stepped := true
    fmt := fmt
    entries := x.entries.zipIdx.map (fun c =>
      if c.2 < o.amax.length then
        { c.1 with
          pend := maxF c.1.pend (o.amax.getD c.2 0)
          clip := satAdd 32 c.1.clip (nth0 o.clip c.2)
          total := satAdd 32 c.1.total (nth0 o.total c.2) }
      else c.1) }) s

/-- Does a channel's clip share exceed the threshold (R150). -/
def clipAlarm (thr : Nat) (o : OutAcc) : Bool :=
  thr ≠ 0 && (List.zip o.clip o.total).any (fun x => thr * x.2 < x.1 * 65536)

/-! ### The update at a boundary (R147 to R149) -/

/-- A non-negative FP32 value rounded toward +∞ to BF16. -/
def ceilBf16 (w : Word) : Nat := w.toNat / 65536 + (if w.toNat % 65536 = 0 then 0 else 1)

/-- Q_max of an output format. -/
def qMax (fmt : Nat) : Nat := if fmt = 0 then 127 else if fmt = 1 then 7 else if fmt = 2 then 448 else 57344

/-- The next power of two at or above a positive FP32 value. -/
def raisePow2 (w : Word) : Word :=
  match f32 w with
  | .fin false m e => if m = 2 ^ Nat.log2 m then w else pow2F ((Nat.log2 m : Int) + e + 1)
  | _ => w

/-- The scale for the maximum m_c (steps 3 to 5 of R147). -/
def newScale (c : QCfg) (fmt : Nat) (m : Word) : Word :=
  let v := toF32 (divN (mulN (f32 m) (.fin false (256 + c.margin) (-8))) (numOfInt (qMax fmt)))
  let v := if ltF v c.smin then c.smin else v
  if c.pow2 then raisePow2 v else v

/-- The update of a set that has completed a step. -/
def updateSet (c : QCfg) (x : TrkSet) : TrkSet :=
  let es := x.entries.map (fun t => { t with win := (ceilBf16 t.pend :: t.win).take 16 })
  let top := fun (t : TrkEntry) => maxOf (t.win.take c.win)
  let all := maxOf (es.map top)
  let es := es.map (fun t =>
    let m := bf16ToF32 (if c.tensor then all else top t)
    { t with m := m, scale := newScale c x.fmt m, lclip := t.clip, ltotal := t.total, clip := 0, total := 0, pend := 0 })
  let share := fun (t : TrkEntry) => if t.ltotal = 0 then 0 else t.lclip * 65536 / t.ltotal
  let worst := es.zipIdx.foldl (fun (b : Nat × Nat × Nat) t =>
    -- the largest share, compared exactly; the lowest channel on equal shares
    if b.2.1 * Nat.max 1 t.1.ltotal < t.1.lclip * Nat.max 1 b.2.2 then (t.2, t.1.lclip, t.1.ltotal) else b) (0, 0, 1)
  { x with
    stepped := false
    entries := es
    nOver := (es.filter (fun t => decide (c.thr * t.ltotal < t.lclip * 65536))).length
    worst := worst.1
    share := Nat.min 65535 (share (es.getD worst.1 (loadedEntry 0))) }

/-- Merge pending values over the engines of a die: largest maxima, added counters, a step if any engine made one. -/
def mergePending (xs : List TrkSet) : Option TrkSet :=
  let hold := xs.filter (fun x => x.active)
  match hold with
  | [] => none
  | x0 :: _ =>
    let base := (hold.find? (fun x => x.entries.any (fun t => t.win ≠ []))).getD x0
    some { base with
      stepped := xs.any (fun x => x.stepped)
      fmt := ((hold.find? (fun x => x.stepped)).getD base).fmt
      entries := base.entries.zipIdx.map (fun t =>
        let es := hold.map (fun x => x.entries.getD t.2 (loadedEntry 0))
        { t.1 with
          pend := es.foldl (fun m e => maxF m e.pend) 0
          clip := es.foldl (fun n e => satAdd 32 n e.clip) 0
          total := es.foldl (fun n e => satAdd 32 n e.total) 0 }) }

/-- Set j of every slot of CD_d at a boundary. -/
def updateDieSet (d j : Nat) (s : State) : State :=
  let c := qcfgOf s d j
  if (dieOf s d).merge.testBit j then
    match mergePending ((dieOf s d).engs.map (fun g => g.trk.getD (j - 1) TrkSet.fresh)) with
    | none => s
    | some m =>
      let m := if m.stepped then updateSet c m else m
      (List.range 18).foldl (fun s e => modTrk d e j (fun _ => m) s) s
  else
    (List.range 18).foldl (fun s e =>
      modTrk d e j (fun x => if x.active && x.stepped then updateSet c x else { x with stepped := false }) s) s

/-- The configuration of set j as QNT holds it. -/
def qcfgWritten (s : State) (d j : Nat) : QCfg :=
  let p := pgQnt d
  ⟨getFi s p Reg.QNT_CFG_WIN j, getFi s p Reg.QNT_CFG_MODE j = 1, getFi s p Reg.QNT_CFG_POW2 j = 1,
   getFi s p Reg.QNT_CFG_ENABLE j = 1, getFi s p Reg.QNT_CFG_MARGIN j, getFi s p Reg.QNT_CFG_CLIP_THR j,
   getFi s p Reg.QNT_ALLOC_BASE j, getFi s p Reg.QNT_ALLOC_LEN j, BitVec.ofNat 32 (getFi s p Reg.QNT_S_MIN j), false⟩

/-- Set j of CD_d goes to INIT on every engine. -/
def initSet (d j : Nat) (s : State) : State :=
  (List.range 18).foldl (fun s e => modTrk d e j (fun _ => TrkSet.fresh) s) s

/-- Do the ranges of two enabled sets overlap. -/
def rangesMeet (a b : QCfg) : Bool := a.base < b.base + b.len && b.base < a.base + a.len

/-- The tracker work of CD_d at a bar boundary: new configurations and INIT requests take effect (R145, R148), then the
sets that stepped update (R147, R149; log entry 16). -/
def trackerBoundary (d : Nat) (s : State) : State :=
  let p := pgQnt d
  let js := (List.range 15).map (· + 1)
  let old := js.map (fun j => qcfgOf s d j)
  let new := js.map (fun j => qcfgWritten s d j)
  let changed := fun j => new.getD (j - 1) QCfg.fresh ≠ { old.getD (j - 1) QCfg.fresh with bad := false }
  let bad := fun j =>
    let c := new.getD (j - 1) QCfg.fresh
    c.enable && (decide (4096 < c.base + c.len) || js.any (fun i =>
      i ≠ j && (new.getD (i - 1) QCfg.fresh).enable && rangesMeet c (new.getD (i - 1) QCfg.fresh)))
  let s := js.foldl (fun s j =>
    if changed j then
      let o := old.getD (j - 1) QCfg.fresh
      let c := new.getD (j - 1) QCfg.fresh
      let s := modDie d (fun x => { x with qcfg := x.qcfg.set (j - 1) { c with bad := bad j } }) s
      let s := setF p Reg.QNT_SET_ERR (putBits (getF s p Reg.QNT_SET_ERR) (j - 1) 1 (if bad j then 1 else 0)) s
      let s := if bad j then record p 0x39 (raiseBit p 3 s) else s
      if o.base ≠ c.base ∨ o.len ≠ c.len ∨ o.tensor ≠ c.tensor ∨ o.enable ≠ c.enable then initSet d j s else s
    else s) s
  let s := modDie d (fun x => { x with merge := getF s p Reg.QNT_MERGE * 2 }) s
  let req := getF s p Reg.QNT_INIT_REQ * 2
  let s := js.foldl (fun s j => if req.testBit j then initSet d j s else s) s
  let s := setF p Reg.QNT_INIT_REQ 0 s
  js.foldl (fun s j => updateDieSet d j s) s

/-- TRACKER_INIT_REQUEST (R145): the bits written 1 wait for the boundary. -/
def reqTrackerInit (d : Nat) (mask : Nat) (s : State) : State :=
  setF (pgQnt d) Reg.QNT_INIT_REQ (getF s (pgQnt d) Reg.QNT_INIT_REQ ||| bitsOf mask 1 15) s

end Sys2Proof.Machine
end

