-- ==== Sys2Proof/Machine/Engines.lean ====
section
/-! DEFINITION. The compute dies' commands: dispatch, completion and failure of descriptors, the spectral unit, engine
faults, spares, self-tests and the return sequence (R105 to R128, R183, R189, R193). -/

namespace Sys2Proof.Machine

open Sys2Proof

/-! ### Dispatch (R106, R122, R145) -/

/-- Output channels by which a descriptor names its tracker set. -/
def outChans (raw : List Byte) : Nat :=
  if dKind raw = 1 then gN raw else if dKind raw = 7 then vCols raw else (geoOf raw).cout

/-- The initial scales in a descriptor's D, or 1.0 for a VECTOR (R140). -/
def initScales (s : State) (w : Who) (raw : List Byte) : List Word :=
  let n := outChans raw
  if dKind raw = 7 then List.replicate n oneF
  else (dVecs (dBytes s w raw (dLen raw * 64)) (dEpi raw) (dQtrk raw) (dLen raw) n).s0

/-- Has stream `sm`'s position reached line `y` (R57, R183). -/
def lineReached (s : State) (sm y : Nat) : Bool :=
  let pos := getF s (pgIng sm) Reg.ING_STAT_POS
  pos ≠ 0xFFFF && y ≤ pos

/-- Is a descriptor a line-fed CONV_DIRECT. -/
def isLineFed (raw : List Byte) : Bool := dKind raw = 2 && (geoDirect raw).line

/-- Must a line-fed descriptor wait for its last line. -/
def mustWait (s : State) (raw : List Byte) : Bool :=
  isLineFed raw && !lineReached s (geoDirect raw).stream (lastLine (geoDirect raw))

/-- The envelope in force (R356): 0 is Quiet. -/
def envelope (s : State) : Nat := getF s pgCap Reg.CAP_STAT_ENV

/-- A descriptor fails on its engine before or after dispatch: it posts INVALID, sets no token, and its stroke fails
(R108). -/
def failDesc (d k : Nat) (w : Work) (s : State) : State :=
  let s := tearApply d w (postDiscard d k 1 w s)
  showDispatch d (settle d k w.stroke w.bar (failRun w.stroke w.bar s))

/-- A descriptor enters its engine's queue with what it reads at dispatch: scales, loss scale and step count. -/
def enqueue (d e : Nat) (w : Work) (s : State) : State :=
  let q := dQtrk w.raw
  let s := if q ≠ 0 ∧ (trkSet s d e q).active = false then
      loadSet d e q w.part (initScales s ⟨d, e, w.part⟩ w.raw) s else s
  let isOpt := dKind w.raw = 9
  let g := oGrp w.raw
  let quiet := isApply w.raw && flag s pgAdm Reg.ADM_LRN_CTL_QUIET_ONLY && envelope s ≠ 0
  let skip := isApply w.raw && (getF s pgAdm Reg.ADM_OPT_STAT_SKIP).testBit g
  let w := { w with
    scales := if q = 0 then [] else setScales s d e q (outChans w.raw)
    lsExp := if isOpt then sint 8 (getFi s pgAdm Reg.ADM_LS_LS_EXP g) else 0
    optT := if isOpt then getFi s pgAdm Reg.ADM_OPT_T g else 0
    noApply := quiet || skip
    waiting := mustWait s w.raw }
  let s := if isOpt ∧ oMode w.raw ≠ 0 then
      { s with lrn := { s.lrn with touched := if s.lrn.touched.contains g then s.lrn.touched else g :: s.lrn.touched } }
    else s
  let s := if quiet then bump pgAdm Reg.ADM_ENV_SKIPS 1 s else s
  showState d e (modEng d e (fun x => { x with queue := x.queue ++ [w] }) s)

/-- Take the first descriptor off a context's list. -/
def popList (d idx bar : Nat) (s : State) : State := modCtx d idx bar (fun c => { c with list := c.list.drop 1 }) s

/-- Does a slot take work: READY, BUSY or BRUSH. -/
def engineUp (s : State) (d e : Nat) : Bool :=
  let st := getF s (pgPe d e) Reg.PE_ENG_STAT_STATE
  decide (st = 2 ∨ st = 3 ∨ st = 4)

/-- Dispatch the first descriptor of a context to its engine. An engine in its return sequence, or waiting for the
boundary after it, takes no work (R123). -/
def dispatchHead (d : Nat) (c : Ctx) (didx : Nat) (raw : List Byte) (s : State) : State :=
  let w : Work := ⟨c.stroke, c.bar, c.part, c.epoch, c.pair, 0, didx, raw, false, false, [], 0, 0, false⟩
  match targetOf c raw with
  | none => failDesc d 0 w (popList d c.stroke c.bar s)
  | some k =>
    match (if (dieOf s d).lostEng.contains k then none else slotOf s d k) with
    | none => failDesc d k { w with noApply := true } (popList d c.stroke c.bar s)
    | some e =>
      let ep := getF s (pgPe d e) Reg.PE_ENG_EPOCH
      if (engOf s d e).queue.length ≥ 2 ∨ (engOf s d e).rejoin ∨ engineUp s d e = false then s
      else if c.epoch ≠ ep % 64 ∧ c.epoch ≠ (ep + 63) % 64 then
        settle d k c.stroke c.bar (bump (pgPe d e) Reg.PE_ENG_STALE 1 (popList d c.stroke c.bar s))
      else if dQtrk raw ≠ 0 ∧ setUsable s d (dQtrk raw) (outChans raw) = false then
        failDesc d k { w with noApply := true } (recordPart (pgQnt d) 0x39 c.part (popList d c.stroke c.bar s))
      else showDispatch d (enqueue d e w (popList d c.stroke c.bar s))

/-- DESCRIPTOR_DISPATCH (R106): the context's first descriptor goes to its engine when its tokens are set and the
engine holds fewer than two; a hub clock in which it waits on a token counts in STALL_TOK. -/
def execDescriptorDispatch (die ctx : Nat) (s : State) : Host.Outcome State Fault Refusal :=
  .next (
    match ((dieOf s die).ctxs.getD ctx none) with
    | none => s
    | some c =>
      match c.list with
      | [] => s
      | (i, raw) :: _ =>
        if (dWait0 raw = 0 ∨ c.tokens.contains (dWait0 raw)) ∧ (dWait1 raw = 0 ∨ c.tokens.contains (dWait1 raw)) then
          dispatchHead die c i raw s
        else bump (pgSch die) Reg.SCH_STALL_TOK 1 s)

/-! ### Completion (R107 to R109) -/

/-- The accesses of a descriptor. -/
def descAccs (s : State) (w : Who) (k : Work) : List MemAcc :=
  if dKind k.raw = 1 then gemmMemAccs k.raw
  else if dKind k.raw = 7 then vectorMemAccs k.raw
  else if dKind k.raw = 8 then moveMemAccs k.raw
  else if dKind k.raw = 9 then optMemAccs k
  else if dKind k.raw = 5 ∨ dKind k.raw = 6 then attnMemAccs s w k.raw
  else convMemAccs k.raw

/-- What a descriptor's execution gives. -/
def runKernel (s : State) (w : Who) (k : Work) : KOut :=
  if dKind k.raw = 1 then runGemm s w k.raw k.scales
  else if dKind k.raw = 7 then runVector s w k.raw k.scales
  else if dKind k.raw = 8 then runMove s w k.raw
  else if dKind k.raw = 9 then runOpt s w k
  else if dKind k.raw = 5 then runFwd s w k.raw
  else if dKind k.raw = 6 then runBwd s w k.raw
  else if dKind k.raw = 3 then runPool s w k.raw
  else runConv s w k.raw k.scales

/-- Why a descriptor cannot complete: a failing check of its own before any access, or a refused access. -/
def descRefused (s : State) (w : Who) (k : Work) : Option (Nat × Nat) :=
  match (if dKind k.raw = 5 ∨ dKind k.raw = 6 then attnCheck s w k.raw (seqEnts s w k.raw) else none) with
  | some c => some (c, 0)
  | none => (descAccs s w k).findSome? (accRefused s w.d w.p)

/-- Store what a descriptor writes. -/
def storeOut (w : Who) (o : KOut) (s : State) : State :=
  let s := o.stage.foldl (fun s x => tileWrite w.d w.e w.p x.1 x.2 s) s
  o.writes.foldl (fun s x =>
    if x.1 = 3 then tileWrite w.d w.e w.p x.2.1 x.2.2 s
    else
      match accAddr w.d ⟨true, x.1, x.2.1, x.2.2.length⟩ with
      | some a => (storeDev a x.2.2 w.p s).2
      | none => s) s

/-- What a completed descriptor counts: saturations, NaN and infinite outputs, attention tiles and seals, and the skip
flag that a CHECK sets (R135, R138, R206). -/
def countOut (w : Who) (k : Work) (o : KOut) (s : State) : State :=
  let q := pgQnt w.d
  let s := if o.sat = 0 then s else recordPart q 0x3A w.p (raiseBit q 2 (bump q Reg.QNT_SAT_CNT o.sat s))
  let s := if o.out.nan = 0 then s else recordPart q 0x3B w.p (raiseBit q 1 (bump q Reg.QNT_NAN_CNT o.out.nan s))
  let s := if o.out.inf = 0 then s else bump q Reg.QNT_INF_CNT o.out.inf s
  let s := bump (pgPe w.d w.e) Reg.PE_ATTN_TILES o.tiles (bump (pgPe w.d w.e) Reg.PE_KV_SEALS o.seals s)
  if o.nonfinite then
    setF pgAdm Reg.ADM_OPT_STAT_SKIP (putBits (getF s pgAdm Reg.ADM_OPT_STAT_SKIP) (oGrp k.raw) 1 1) s
  else s

/-- The spectral unit has completed its descriptor. -/
def spectralDone (d clocks : Nat) (raw : List Byte) (s : State) : State :=
  let p := pgSpec d
  setF p Reg.SPEC_STAT_BUSY 0 (bump p Reg.SPEC_DONE 1 (bump p Reg.SPEC_TILES (spectralTiles raw) (bump p Reg.SPEC_BUSY_CLK clocks s)))

/-- The descriptor leaves its engine, which shows its state. -/
def popQueue (d e : Nat) (s : State) : State :=
  showState d e (modEng d e (fun g => { g with queue := g.queue.drop 1 }) s)

/-- The clocks an engine spent on a descriptor count (R276, ENG_WORK). -/
def countWork (w : Who) (clocks : Nat) (s : State) : State :=
  bump (pgPe w.d w.e) Reg.PE_ENG_WORK clocks
    { s with acct := { s.acct with work := s.acct.work.modify w.p (fun l => l.modify w.d (· + clocks)) } }

/-- The charges of a descriptor's accesses, and its masked tile reads. -/
def chargeDesc (w : Who) (accs : List MemAcc) (s : State) : State :=
  let s := chargeAccs w.p w.p w.d accs s
  accs.foldl (fun s x => if x.sp = 3 ∧ x.wr = false then tileReadCount w.d w.e w.p x.off x.len s else s) s

/-- Step group `g` has been applied in this bar (R198). -/
def noteApplied (g : Nat) (s : State) : State := { s with lrn := { s.lrn with applied := g :: s.lrn.applied } }

/-- A descriptor completes: C is written, its result is posted, its token set. -/
def completeDesc (w : Who) (k : Nat) (x : Work) (clocks : Nat) (s : State) : State :=
  let o := runKernel s w x
  let accs := descAccs s w x
  let alarm := dQtrk x.raw ≠ 0 && clipAlarm (qcfgOf s w.d (dQtrk x.raw)).thr o.out
  let len := o.units
  let sig := crc32c ((o.writes.take o.nsig).flatMap (fun y => y.2.2))
  let s := countOut w x o (storeOut w o (chargeDesc w accs s))
  let s := if dQtrk x.raw ≠ 0 then addPending w.d w.e (dQtrk x.raw) (dFmtC x.raw) o.out s else s
  let posts := dPost x.raw || x.pair
  let s := if posts then pushEntry w.d k (mkEntry w.d k x (postStatus s x 0) alarm len sig) s else s
  let s := if posts ∧ alarm = true then
      raiseBit (pgQnt w.d) 0 (bump (pgQnt w.d) Reg.QNT_ALARM_CNT 1 s) else s
  let s := if isApply x.raw ∧ x.noApply = false then noteApplied (oGrp x.raw) s else s
  let s := if dKind x.raw = 4 then spectralDone w.d clocks x.raw s else s
  let s := countWork w clocks (bump (pgPe w.d w.e) Reg.PE_ENG_DONE 1 (popQueue w.d w.e s))
  let s := if dSig x.raw ≠ 0 then modCtx w.d x.stroke x.bar (fun c => { c with tokens := dSig x.raw :: c.tokens }) s else s
  showDispatch w.d (settle w.d k x.stroke x.bar s)

/-- A descriptor that an engine is executing fails with a code and an address: the code is recorded in its physical
engine's page, or is a partition fault for 0x0A (R108, R269, R446). -/
def failRunning (w : Who) (k : Nat) (x : Work) (code a : Nat) (s : State) : State :=
  let s := popQueue w.d w.e s
  let s := if x.spectral then setF (pgSpec w.d) Reg.SPEC_STAT_BUSY 0 s else s
  let s := if code = 0x18 then bump (pgSch w.d) Reg.SCH_ATTN_LEN 1 s
    else if code = 0x16 ∨ code = 0x17 then bump (pgSch w.d) Reg.SCH_KV_STALE 1 s else s
  let s := if code = 0x0A then windowFault w.p a s else recordAt (pgPe w.d w.e) code (a / 64) w.p s
  failDesc w.d k x s

/-- The descriptor that logical engine k of CD_d is executing, with its slot. -/
def running (s : State) (d k : Nat) : Option (Nat × Work) :=
  match slotOf s d k with
  | some e => ((engOf s d e).queue.head?).map (fun x => (e, x))
  | none => none

/-- The descriptor that logical engine `eng` of CD_d is executing completes, or fails by its checks or accesses: nothing
completes while lines are awaited, before the spectral unit has its descriptor, or while the collector queue is full, which
counts in Q_STALL. -/
def tryComplete (die eng clocks : Nat) (s : State) : State :=
  match running s die eng with
  | none => s
  | some (e, x) =>
    let w : Who := ⟨die, e, x.part⟩
    if x.waiting ∨ (dKind x.raw = 4 ∧ x.spectral = false) then s
    else
      match descRefused s w x with
      | some (c, a) => failRunning w eng x c a (countWork w clocks s)
      | none =>
        if (dPost x.raw || x.pair) ∧ ((dieOf s die).resq.getD eng []).length ≥ 8 then bump pgCol Reg.COL_Q_STALL 1 s
        else completeDesc w eng x clocks s

/-- DESCRIPTOR_COMPLETE (R107). -/
def execDescriptorComplete (die eng clocks : Nat) (s : State) : Host.Outcome State Fault Refusal :=
  .next (tryComplete die eng clocks s)

/-- DESCRIPTOR_FAIL (R108): an uncorrectable pool (0x15) or stack (0x07) read, or the failing check or access that the
state shows. -/
def execDescriptorFail (die eng code : Nat) (s : State) : Host.Outcome State Fault Refusal :=
  .next (
    match running s die eng with
    | none => s
    | some (e, x) =>
      let w : Who := ⟨die, e, x.part⟩
      if code = 0x15 then failRunning w eng x 0x15 0 (bump (pgPool die) Reg.POOL_UNCORR 1 s)
      else if code = 0x07 then failRunning w eng x 0x07 0 (bump (pgMsc die) Reg.MSC_UNCORR 1 s)
      else
        match descRefused s w x with
        | some (c, a) => if c = code then failRunning w eng x c a s else s
        | none => s)

/-- LINE_WAIT_END (R183): the awaited line is complete, and the wait counts in LINE_WAIT. -/
def execLineWaitEnd (die eng clocks : Nat) (s : State) : Host.Outcome State Fault Refusal :=
  .next (
    match running s die eng with
    | none => s
    | some (e, x) =>
      if x.waiting ∧ mustWait s x.raw = false then
        bump (pgPe die e) Reg.PE_LINE_WAIT clocks
          (modEng die e (fun g => { g with queue := g.queue.modify 0 (fun y => { y with waiting := false }) }) s)
      else s)

/-! ### The spectral unit (R189, R192, R193) -/

/-- SPECTRAL_HANDOFF (R189): the engine hands its CONV_SPECTRAL to the die's free spectral unit. -/
def execSpectralHandoff (die eng : Nat) (s : State) : Host.Outcome State Fault Refusal :=
  .next (
    match running s die eng with
    | none => s
    | some (e, x) =>
      if dKind x.raw = 4 ∧ x.spectral = false ∧ flag s (pgSpec die) Reg.SPEC_STAT_BUSY = false then
        setF (pgSpec die) Reg.SPEC_STAT_BUSY 1 (setF (pgSpec die) Reg.SPEC_STAT_ENGINE eng
          (modEng die e (fun g => { g with queue := g.queue.modify 0 (fun y => { y with spectral := true }) }) s))
      else s)

/-- SPEC_ECC (R193): an uncorrectable store error abandons the unit's descriptor, which fails. -/
def execSpecEcc (die : Nat) (s : State) : Host.Outcome State Fault Refusal :=
  .next (
    if flag s (pgSpec die) Reg.SPEC_STAT_BUSY then
      let k := getF s (pgSpec die) Reg.SPEC_STAT_ENGINE
      match running s die k with
      | some (e, x) =>
        if x.spectral then
          let s := recordPart (pgSpec die) 0x19 x.part (abandonSpectral die s)
          failDesc die k x (popQueue die e s)
        else s
      | none => s
    else s)

/-! ### Faults and spares (R117 to R121) -/

/-- Is slot e of CD_d marked bad. -/
def slotBad (s : State) (d e : Nat) : Bool := (getF s (pgSpare d) Reg.SPARE_STAT_BAD).testBit e

/-- The good slots that serve no logical engine and none pending. -/
def spares (s : State) (d : Nat) : List Nat :=
  (List.range 18).filter (fun e =>
    !slotBad s d e && logicalOf s d e = none && !(dieOf s d).subst.any (fun x => x.2.1 = e))

/-- Show how many good unused spares are left. -/
def showSpareLeft (d : Nat) (s : State) : State := setF (pgSpare d) Reg.SPARE_STAT_LEFT (Nat.min 3 (spares s d).length) s

/-- A slot is marked bad, in SPARE.STAT and in the ledger's spare map. -/
def markBad (d e : Nat) (s : State) : State :=
  let s := setF (pgSpare d) Reg.SPARE_STAT_BAD (putBits (getF s (pgSpare d) Reg.SPARE_STAT_BAD) e 1 1) s
  let s := showSpareLeft d s
  let a := fieldAddr (pgSpare d) Reg.SPARE_STAT_BAD 0 0
  journal 2 d (leBytes 1 e) [(a, regW s a)] s

/-- Show the first substitution in progress. -/
def showSubst (d : Nat) (s : State) : State :=
  match (dieOf s d).subst with
  | (k, e, _) :: _ =>
    setF (pgSpare d) Reg.SPARE_PENDING_BUSY 1 (setF (pgSpare d) Reg.SPARE_PENDING_LOGICAL k
      (setF (pgSpare d) Reg.SPARE_PENDING_PHYS e s))
  | [] => setF (pgSpare d) Reg.SPARE_PENDING_BUSY 0 s

/-- The lowest good spare starts the return sequence for logical engine k (R119); with none left the die leaves service
(R120). -/
def substitute (d k : Nat) (s : State) : State :=
  match spares s d with
  | e :: _ =>
    let s := modDie d (fun x => { x with subst := x.subst ++ [(k, e, false)] }) s
    let s := setF (pgPe d e) Reg.PE_ENG_STAT_STATE 1 s
    showSpareLeft d (showSubst d s)
  | [] =>
    let s := setF (pgSpare d) Reg.SPARE_STAT_EXHAUSTED 1 s
    dieLeave d (record (pgSpare d) 0x3F s)

/-- The runs of this die's engine k lose it: each discarded descriptor posts INVALID, and the strokes fail (R117,
R118). -/
def loseEngine (d k : Nat) (s : State) : State :=
  (s.seq.runs.filter (fun r => r.targets.contains (d, k))).foldl (fun s r =>
    killOn d k r.idx r.bar 1 (failRun r.idx r.bar s)) s

/-- A lost engine: nothing is left of it but its tracker sets. -/
def clearedEng (g : Eng) : Eng := { Eng.fresh with trk := g.trk }

/-- An engine that waits for a boundary to take work again. -/
def rejoiningEng : Eng := { Eng.fresh with rejoin := true }

/-- The logical engine that slot `e` serves, as a spare or by the map. -/
def servedBy (s : State) (d e : Nat) : Option Nat :=
  match (dieOf s d).subst.find? (fun x => x.2.1 = e) with
  | some x => some x.1
  | none => logicalOf s d e

/-- What the slot was doing is lost with it: the descriptors of its engine fail and its brush goes on without it. -/
def dropWork (d e : Nat) (s : State) : State :=
  leaveBrush d e (match logicalOf s d e with
    | some j => loseEngine d j s
    | none => s)

/-- A slot that has lost its engine: FAULT, empty, marked bad, its logical engine lost or served by a spare. -/
def vacateSlot (d e : Nat) (k : Option Nat) (s : State) : State :=
  let s := modEng d e clearedEng s
  let s := setF (pgPe d e) Reg.PE_ENG_STAT_STATE 5 (setF (pgPe d e) Reg.PE_ENG_STAT_QUEUED 0 s)
  let s := modDie d (fun x => { x with
    subst := x.subst.filter (fun y => y.2.1 ≠ e)
    lostEng := match k with
      | some j => if x.lostEng.contains j then x.lostEng else j :: x.lostEng
      | none => x.lostEng }) s
  markBad d e s

/-- The engine of slot `e`, in service, is lost with its cause: the fault is recorded, its descriptors fail, and a spare
takes its place where one is left (R117, R119). -/
def loseSlot (d e cause : Nat) (s : State) : State :=
  let part := match (engOf s d e).queue with | x :: _ => x.part | [] => 0xFF
  let s := setF (pgPe d e) Reg.PE_ENG_FAULT_CAUSE cause s
  let s := if cause = 1 then recordPart (pgPe d e) 0x14 part s else s
  let s := recordPart (pgPe d e) 0x3C part s
  let k := servedBy s d e
  let s := vacateSlot d e k (dropWork d e s)
  match k with
  | some j => substitute d j s
  | none => s

/-- An engine fault on slot e of CD_d with its cause (R117). An engine that is faulted or bad has none; a spare that
fails is marked bad and is no use of a spare (R121). -/
def engineFault (d e cause : Nat) (s : State) : State :=
  let st := getF s (pgPe d e) Reg.PE_ENG_STAT_STATE
  if st = 5 ∨ st = 7 then s
  else if st = 6 then
    markBad d e (setF (pgPe d e) Reg.PE_ENG_STAT_STATE 7 (setF (pgPe d e) Reg.PE_ENG_FAULT_CAUSE cause s))
  else loseSlot d e cause s

/-- ENGINE_FAULT (R117). -/
def execEngineFault (die slot cause : Nat) (s : State) : Host.Outcome State Fault Refusal :=
  .next (if die < 4 ∧ slot < 18 ∧ 1 ≤ cause ∧ cause ≤ 3 then engineFault die slot cause s else s)

/-- The spare in slot `e` serves logical engine `k` from now on: 0x3E is recorded, and the change enters the ledger's spare
map (R119). -/
def spareServes (d e k : Nat) (s : State) : State :=
  let s := modDie d (fun y => { y with subst := y.subst.map (fun z => if z.2.1 = e then (z.1, z.2.1, true) else z) }) s
  let a := fieldAddr (pgSpare d) Reg.SPARE_MAP (k / 4) 0
  let w := putBits (regW s a).toNat (8 * (k % 4)) 8 (128 + e)
  journal 2 d (leBytes 1 k ++ leBytes 1 e) [(a, BitVec.ofNat 32 w)] (record (pgSpare d) 0x3E s)

/-- The return sequence of slot `e` of CD_d passed: its tile is clear and it stands by. -/
def returnPassed (die slot : Nat) (s : State) : State :=
  let s := clearTile die slot s
  let s := modEng die slot (fun _ => rejoiningEng) s
  let s := setF (pgPe die slot) Reg.PE_ENG_EPOCH (getF s pgSeq Reg.SEQ_EPOCH) s
  let s := setF (pgPe die slot) Reg.PE_ENG_STAT_STATE 2 (setF (pgPe die slot) Reg.PE_ENG_STAT_PART 0 s)
  match (dieOf s die).subst.find? (fun x => x.2.1 = slot) with
  | some x => spareServes die slot x.1 s
  | none => s

/-- RETURN_SEQUENCE_DONE (R123): the engine has emptied itself, zeroed its tile, put its tracker sets to INIT, loaded
SEQ.EPOCH and is READY; it takes work from the next boundary. A spare that serves an engine records 0x3E, and the
change enters the ledger's spare map (R119). A self-test that fails on the way is an engine fault. -/
def execReturnSequenceDone (die slot : Nat) (pass : Bool) (s : State) : Host.Outcome State Fault Refusal :=
  .next (
    if getF s (pgPe die slot) Reg.PE_ENG_STAT_STATE = 1 ∧ die < 4 ∧ slot < 18 then
      if pass then returnPassed die slot s
      else engineFault die slot 2 s
    else s)

/-- SPARE_SELF_TEST (R121): an unused good spare that fails is marked bad, which is no use. While bars run, it is tested only
in a bar with headroom (R355). -/
def execSpareSelfTest (die slot : Nat) (pass : Bool) (s : State) : Host.Outcome State Fault Refusal :=
  .next (if pass = false ∧ (spares s die).contains slot ∧ die < 4 ∧
      (barsRun s = false ∨ (diePwr s die).head) then
    markBad die slot (setF (pgPe die slot) Reg.PE_ENG_STAT_STATE 7 s) else s)

/-- Start an engine's self-test where ENG_TEST.RUN is accepted: in SPARE or BAD, or in OFF outside PRODUCTION. -/
def startEngTest (d e : Nat) (s : State) : State :=
  let st := getF s (pgPe d e) Reg.PE_ENG_STAT_STATE
  if st = 6 ∨ st = 7 ∨ (st = 0 ∧ getF s pgSec Reg.SEC_LC_STATE ≠ 2) then
    setF (pgPe d e) Reg.PE_ENG_TEST_RUN 1 (setF (pgPe d e) Reg.PE_ENG_TEST_DONE 0 (setF (pgPe d e) Reg.PE_ENG_TEST_PASS 0 s))
  else s

/-- ENG_TEST_RUN: firmware starts a self-test of a physical engine. -/
def execEngTestRun (by_ : Agent) (die slot : Nat) (s : State) : Host.Outcome State Fault Refusal :=
  .next (if die < 4 ∧ slot < 18 then asMaster (pgPe die slot) 0x60 by_ (startEngTest die slot) s else s)

/-- ENG_TEST_DONE: the self-test ends and reports. -/
def execEngTestDone (die slot : Nat) (pass : Bool) (s : State) : Host.Outcome State Fault Refusal :=
  .next (if flag s (pgPe die slot) Reg.PE_ENG_TEST_RUN then
    setF (pgPe die slot) Reg.PE_ENG_TEST_RUN 0 (setF (pgPe die slot) Reg.PE_ENG_TEST_DONE 1
      (setF (pgPe die slot) Reg.PE_ENG_TEST_PASS (if pass then 1 else 0) s)) else s)

/-! ### Sleep (R124) -/

/-- A register that admission reads was written (R86). -/
def advanceCfgGen (s : State) : State :=
  setF pgAdm Reg.ADM_CFG_GEN ((getF s pgAdm Reg.ADM_CFG_GEN + 1) % 2 ^ 32) s

/-- A new pending sleep mask: an engine whose bit clears while it is gated starts its return sequence at once. -/
def setSleepPend (d v : Nat) (s : State) : State :=
  let old := getF s (pgSch d) Reg.SCH_SLEEP_PEND
  let wake := (List.range 16).filter (fun k => old.testBit k && !(v.testBit k))
  let s := setF (pgSch d) Reg.SCH_SLEEP_PEND v s
  wake.foldl (fun s k =>
    match slotOf s d k with
    | some e =>
      if getF s (pgPe d e) Reg.PE_ENG_STAT_STATE = 0 ∧ inService s d then
        setF (pgSch d) Reg.SCH_SLEEP_ACT (putBits (getF s (pgSch d) Reg.SCH_SLEEP_ACT) k 1 0)
          (setF (pgPe d e) Reg.PE_ENG_STAT_STATE 1 s)
      else s
    | none => s) s

/-- A write of SCH.SLEEP_PEND; a locked page keeps it and records 0x05 (R448). -/
def writeSleepPend (die v : Nat) (s : State) : State :=
  let x := v % 65536
  if locked s (pgSch die) then
    if x = getF s (pgSch die) Reg.SCH_SLEEP_PEND then s else record (pgSch die) 0x05 s
  else setSleepPend die x (advanceCfgGen s)

/-- SLEEP_PEND_WRITE (R124). -/
def execSleepPendWrite (by_ : Agent) (die : Nat) (v : Word) (s : State) : Host.Outcome State Fault Refusal :=
  .next (if die < 4 then asMaster (pgSch die) 0x48 by_ (writeSleepPend die v.toNat) s else s)

/-- TRACKER_INIT_REQUEST (R145). -/
def execTrackerInitRequest (by_ : Agent) (die : Nat) (mask : Word) (s : State) : Host.Outcome State Fault Refusal :=
  .next (if die < 4 then asMaster (pgQnt die) 0x40 by_ (reqTrackerInit die mask.toNat) s else s)

end Sys2Proof.Machine
end

