-- ==== Sys2Proof/Machine/Emit.lean ====
section
/-! DEFINITION. The Ethernet transmit queues (R231, R232), and the delivery of a batch and its emission notice
(R73, R263, R327). -/

namespace Sys2Proof.Machine

open Sys2Proof

/-! ### Transmit queues -/

/-- Do the gates of MAC m let queue q transmit now (R232): only ETH_0 to ETH_3 have gates. -/
def txGate (s : State) (m q : Nat) : Bool :=
  4 ≤ m || !flagI s pgEth Reg.ETH_QBV_EN m || (s.eth.gates.getD m ⟨[], 0, 255, none⟩).now.testBit q

/-- Can MAC m transmit from queue q now. -/
def canSend (s : State) (x : Nat × Nat × List Byte) : Bool := flagI s pgEth Reg.ETH_MAC_LINK x.1 && txGate s x.1 x.2.1

/-- The frames whose gate is open leave their MACs. -/
def drainTx (s : State) : State :=
  let go := s.eth.txq.filter (canSend s)
  let s := { s with eth := { s.eth with txq := s.eth.txq.filter (fun x => !canSend s x) } }
  go.foldl (fun s x => bumpI pgEth Reg.ETH_MAC_TX_FRAMES x.1 1 (emit (.eth x.1 x.2.1 x.2.2) s)) s

/-- Queue a frame on a MAC. -/
def ethSend (m q : Nat) (bytes : List Byte) (s : State) : State :=
  drainTx { s with eth := { s.eth with txq := s.eth.txq ++ [(m, q, bytes)] } }

/-! ### Frames of a batch (R263) -/

/-- The sum of the big-endian 16-bit words of a header. -/
def wordSum : List Byte → Nat
  | a :: b :: r => a.toNat * 256 + b.toNat + wordSum r
  | _ => 0

/-- Fold the carries of a sum of at most 2^16 words into 16 bits. -/
def foldSum (n : Nat) : Nat :=
  let a := n % 65536 + n / 65536
  a % 65536 + a / 65536

/-- The IPv4 header checksum of a header whose checksum field is zero. -/
def ipChecksum (h : List Byte) : Nat := 65535 - foldSum (wordSum h)

/-- The IPv4 header of a batch frame. DF is set; identification, TTL and type of service, on which the spec is silent,
come from `fill` (log entry 3). -/
def ipHeader (src dst len fill : Nat) : List Byte :=
  let pre := beBytes 1 0x45 ++ beBytes 1 fill ++ beBytes 2 (20 + len) ++ beBytes 2 (fill / 2 ^ 8) ++ beBytes 2 0x4000 ++
    beBytes 1 (fill / 2 ^ 24) ++ beBytes 1 17
  let post := beBytes 4 src ++ beBytes 4 dst
  pre ++ beBytes 2 (ipChecksum (pre ++ [0, 0] ++ post)) ++ post

/-- A batch frame of MAC m: Ethernet header with an optional VLAN tag, IPv4 and UDP headers, payload. The tag's
priority bits come from `fill`. -/
def batchFrame (s : State) (m fill : Nat) (payload : List Byte) : List Byte :=
  let p := pgCol
  let udp := beBytes 2 (getF s p Reg.COL_SRC_PORT) ++ beBytes 2 (getF s p Reg.COL_DST_PORT) ++
    beBytes 2 (8 + payload.length) ++ [0, 0]
  let tag := if flag s p Reg.COL_VLAN_EN then
      beBytes 2 0x8100 ++ beBytes 2 (getF s p Reg.COL_VLAN_ID + 2 ^ 12 * (fill / 2 ^ 32 % 16)) else []
  beBytes 6 (getF s p Reg.COL_DST_MAC_LO + 2 ^ 32 * getF s p Reg.COL_DST_MAC_HI) ++
  beBytes 6 (getFi s pgEth Reg.ETH_MAC_ADDR_LO m + 2 ^ 32 * getFi s pgEth Reg.ETH_MAC_ADDR_HI m) ++ tag ++
  beBytes 2 0x0800 ++ ipHeader (getF s p Reg.COL_SRC_IP) (getF s p Reg.COL_DST_IP) (8 + payload.length) fill ++ udp ++ payload

/-- The payloads of a batch: the header with FRAG filled in, and at most REC_PER_FRAME records each. -/
def batchPayloads (hdr recs : List Byte) (count per : Nat) : List (List Byte) :=
  let per := Nat.max 1 per
  let n := Nat.max 1 (ceilDiv count per)
  (List.range n).map (fun i =>
    hdr.take 18 ++ leBytes 1 i ++ leBytes 1 n ++ hdr.drop 20 ++ (recs.drop (i * per * 64)).take (per * 64))

/-- Send a batch on every MAC of TXQ.MACS. -/
def sendBatch (hdr recs : List Byte) (count : Nat) (s : State) : State :=
  let macs := bitsSet 8 (getF s pgCol Reg.COL_TXQ_MACS)
  let pays := batchPayloads hdr recs count (getF s pgCol Reg.COL_TXQ_REC_PER_FRAME)
  let s := macs.foldl (fun s m => pays.foldl (fun s y =>
    let f := drawFree 64 s
    ethSend m (getF s pgCol Reg.COL_TXQ_QUEUE) (batchFrame s m f.1 y) f.2) s) s
  if macs = [] then s
  else
    let s := bump pgCol Reg.COL_BATCHES 1 s
    if bitsOf (leNat ((hdr.drop 3).take 1)) 0 1 = 0 then bump pgCol Reg.COL_INVALID 1 s else s

/-! ### Delivery (R73, R327, R331) -/

/-- A 64-byte structure whose bytes 60 to 63 are CRC-32C over bytes 0 to 59 (R261). -/
def withCrc (l : List Byte) : List Byte := l.take 60 ++ leBytes 4 (crc32c (l.take 60))

/-- The batch header marked invalid: COUNT 0, VALID clear, bar and tick; what the spec does not state of it comes from
`fill` (log entry 3). -/
def invalidHeader (bar tick fill : Nat) : List Byte :=
  withCrc (leBytes 2 0 ++ leBytes 1 (fill % 5) ++ leBytes 1 (fill / 2 ^ 8 % 32 * 2) ++ leBytes 4 bar ++
    leBytes 8 (fill / 2 ^ 16) ++ leBytes 2 tick ++ leBytes 2 0 ++ leBytes 3 (fill / 2 ^ 80) ++ leBytes 1 0 ++
    leBytes 12 (fill / 2 ^ 104) ++ leBytes 2 (fill / 2 ^ 200 % 4096) ++ leBytes 2 (fill / 2 ^ 212 % 4096) ++
    List.replicate 20 0)

/-- Is the device in the safe state (R331). -/
def safeState (s : State) : Bool := flag s pgClap Reg.CLAP_STAT_SAFE

/-- The runs of partition p and bar `bar` that fired before stroke run `r` and are of the operations `ops`, in firing
order. -/
def earlierRuns (s : State) (r : StrokeRun) (ops : List Nat) : List StrokeRun :=
  (s.seq.runs.takeWhile (fun x => !(x.idx = r.idx && x.bar = r.bar))).filter (fun x =>
    stPart x.raw = stPart r.raw && x.bar = r.bar && x.phase ≠ .held && ops.contains (stOp x.raw))

/-- The most recent of them. -/
def predOf (s : State) (r : StrokeRun) (ops : List Nat) : Option StrokeRun := (earlierRuns s r ops).getLast?

/-- The RUNs that a COLLECT run waits for: those since the previous COLLECT of the partition (R71). -/
def collectSet (s : State) (r : StrokeRun) : List StrokeRun :=
  ((earlierRuns s r [1, 2, 5]).reverse.takeWhile (fun x => stOp x.raw ≠ 5)).reverse

/-- Did a result descriptor of the batch carry CLIP_ALARM: one that the EMIT's latest COLLECT collected. -/
def batchClip (s : State) (r : StrokeRun) : Bool :=
  match predOf s r [5] with
  | some c => (collectSet s c).any (fun x => x.entries.any (fun e => e.clip))
  | none => false

/-- The emission notice goes to both islands, and the partition's pair flag clears (R327). -/
def sendNotice (r : StrokeRun) (hdr : List Byte) (valid : Bool) (s : State) : State :=
  let p := stPart r.raw
  let fuse := match predOf s r [5, 6] with | some q => decide (stOp q.raw = 6) | none => false
  let n : Notice := ⟨p, r.idx, barCount s % 2 ^ 32, curTick s, devTime s, valid,
    (if fuse then leNat ((hdr.drop 2).take 1) else 0),
    (if fuse then sint 64 (leNat ((hdr.drop 8).take 8)) else s.fus.tick0),
    s.seq.pair.contains p, batchClip s r⟩
  let s := { s with seq := { s.seq with pair := s.seq.pair.filter (fun q => q ≠ p) } }
  emit (.island 1 (.notice n)) (emit (.island 0 (.notice n)) s)

/-- What an EMIT reads at its DESC as the collector: header and records; a refused read is a partition fault (0x0A) or
is recorded in COL, and gives nothing. -/
def readBatch (r : StrokeRun) (s : State) : Option (List Byte) × State :=
  let p := stPart r.raw
  let a := stDesc r.raw * 64
  let len := 64 + 64 * memNat s a 2
  match accRefused s 0 p ⟨false, 0, a, len⟩ with
  | none => (some (memBytes s a len), chargeMem 18 (some p) a len s)
  | some (c, x) => (none, if c = 0x0A then windowFault p x s else recordAt pgCol c (x / 64) p s)

/-- EMIT delivers: the batch at DESC when `ok` and the device is not in the safe state, else a header marked invalid;
then the notices go out. -/
def deliver (r : StrokeRun) (ok : Bool) (s : State) : State :=
  let got := if ok && !safeState s then readBatch r s else (none, s)
  let s := got.2
  match got.1 with
  | some b =>
    let s := sendBatch (b.take 64) (b.drop 64) (leNat (b.take 2)) s
    sendNotice r b (bitsOf (leNat ((b.drop 3).take 1)) 0 1 = 1 && !safeState s) s
  | none =>
    let f := drawFree 256 s
    let h := invalidHeader (barCount s) (curTick s) f.1
    sendNotice r h false (sendBatch h [] 0 f.2)

end Sys2Proof.Machine
end

