-- ==== Sys2Proof/Machine/Strokes.lean ====
section
/-! DEFINITION. The strokes: the tick, gating and voiding (R50, R63 to R66), what each operation does (R67 to R75),
their completion (R76 to R78), the collector (R79, R80, R116) and the start of a fusion job (R242, R245). -/

namespace Sys2Proof.Machine

open Sys2Proof

/-! ### Engines of a stroke -/

/-- The engines of a stroke's GROUP on CD_d by the active bank, ascending (R125). -/
def groupEngs (s : State) (k : Stroke) (d : Nat) : List Nat := bitsSet 16 (getFi s (pgSch d) Reg.SCH_GROUP_ACT (stGroup k))

/-- The engines of a stroke's group on the dies it names. -/
def groupAll (s : State) (k : Stroke) : List (Nat × Nat) :=
  (stDieList k).flatMap (fun d => (groupEngs s k d).map (fun e => (d, e)))

/-- The pointer switch of logical engine k of CD_d to partition p (R67, R268): its accounting starts anew, and an engine
in brush load takes up the work and returns to it afterwards. -/
def switchEngine (d k p : Nat) (s : State) : State :=
  match slotOf s d k with
  | none => s
  | some e =>
    let back := match (engOf s d e).brush with | some x => some x.1 | none => (engOf s d e).brushNext
    let s := leaveBrush d e s
    let s := modEng d e (fun g => { g with part := some p, since := s.io.now, brushNext := back }) s
    showState d e (setF (pgPe d e) Reg.PE_ENG_STAT_PART p s)

/-! ### Gates and voiding (R65, R66) -/

/-- Is a run an open gate. -/
def gateOpen (r : StrokeRun) : Bool := (stOp r.raw = 3 || stOp r.raw = 4) && runActive r

/-- Is partition p gated for a stroke of bar `bar`. -/
def gated (s : State) (p bar : Nat) : Bool :=
  s.seq.runs.any (fun r => stPart r.raw = p && r.bar = bar && gateOpen r)

/-- Is a stroke that fires now voided: its partition is in reset, it targets a lost die (R89), or voiding runs. NOP and
SWAP_POINT are not, MARK by a reset alone (log entry 17). -/
def voided (s : State) (k : Stroke) : Bool :=
  if 9 ≤ stOp k then false
  else if partState s (stPart k) ≠ 1 then true
  else if stOp k = 8 then false
  else (stDieList k).any (fun d => s.seq.lost.contains d || !inService s d) || s.seq.voiding.contains (stPart k)

/-! ### Contexts and completion -/

/-- The contexts of a completed stroke are released (R105). -/
def releaseCtxs (idx bar : Nat) (s : State) : State :=
  (List.range 4).foldl (fun s d => showDispatch d (modDie d (fun x => { x with
    ctxs := x.ctxs.map (fun c => match c with
      | some k => if k.stroke = idx ∧ k.bar = bar then none else some k
      | none => none) }) s)) s

/-- The run of stroke `idx` that fired in bar `bar` completes, as it now stands. -/
def finish (idx bar : Nat) (s : State) : State :=
  match runOf s idx bar with
  | some r => releaseCtxs idx bar (completeRun r s)
  | none => s

/-! ### Fusion jobs (R72, R242, R245) -/

/-- The FS_TIME of stream `sm`'s bar frame, if a Frame Start came in this bar. -/
def frameStart (s : State) (sm : Nat) : Option Int :=
  match s.ing[sm]? with
  | some x => x.frame.bind (fun f => if f.bar = barCount s then some f.fs else none)
  | none => none

/-- The bar's common instant, and whether it is taken as TC_SRC says (R245). -/
def commonInstant (s : State) : Int × Bool :=
  let off := sint 32 (getF s pgAln Reg.ALN_TC_OFF)
  if getF s pgAln Reg.ALN_CTL_TC_SRC = 0 then (s.fus.tick0 + off, true)
  else
    match frameStart s (getF s pgAln Reg.ALN_CTL_REF_STREAM) with
    | some t => (t + off, true)
    | none => (s.fus.tick0 + off, false)

/-- The stream usable bits so far in this bar (R240). -/
def usableBits (s : State) : Nat := getF s (pgIng 0) Reg.ING_HEALTH_LIVE

/-- The first job of the bar that enables ALIGN, EGO or TRACK fixes the common instant. -/
def fixInstant (stages : List Nat) (s : State) : State :=
  if s.fus.tc = none ∧ (stages.contains 1 || stages.contains 2 || stages.contains 6) = true then
    { s with fus := { s.fus with tc := some (commonInstant s) } }
  else s

/-- A FUSE run starts its job: one that cannot read it, or that enables EGO or TRACK for a partition that does not own
the track store, fails. -/
def startJob (r : StrokeRun) (s : State) : State :=
  let p := stPart r.raw
  let a := stDesc r.raw * 64
  match accRefused s 0 p ⟨false, 0, a, 64⟩ with
  | some (c, x) =>
    let s := if c = 0x0A then windowFault p x s else recordAt pgTrk c (x / 64) p s
    finish r.idx r.bar (failRun r.idx r.bar s)
  | none =>
    let raw := memBytes s a 64
    let s := chargeMem 17 (some p) a 64 s
    let stages := bitsSet 8 (dF raw 0 0 8)
    if (stages.contains 2 || stages.contains 6) ∧ getF s pgTrk Reg.TRK_CTL_OWNER ≠ p then
      finish r.idx r.bar (failRun r.idx r.bar (recordPart pgTrk 0x4A p s))
    else
      let s := fixInstant stages s
      let tc := s.fus.tc.getD (0, true)
      let j : FusJob := ⟨r.idx, r.bar, p, raw, stages, false, 0, tc.1, tc.2, usableBits s, s.fus.st, [], false,
        false, false, true, none⟩
      let s := { s with fus := { s.fus with job := some j } }
      if stages.contains 0 then setF pgPpu Reg.PPU_STAT_BUSY 1 (setF pgPpu Reg.PPU_STAT_JOB 0 s) else s

/-- The FUSE runs that wait for their COLLECT or for the unit, oldest first. -/
def fuseWaiting (s : State) : List StrokeRun :=
  s.seq.runs.filter (fun r => stOp r.raw = 6 && runActive r &&
    (match s.fus.job with | some j => !(j.stroke = r.idx && j.bar = r.bar) | none => true))

/-- Is the COLLECT that a FUSE waits for completed. -/
def fuseReady (s : State) (r : StrokeRun) : Bool :=
  match predOf s r [5] with | some c => !runOpen c | none => true

/-- A FUSE whose COLLECT failed is voided (R66). -/
def fuseVoided (s : State) (r : StrokeRun) : Bool :=
  match predOf s r [5] with | some c => c.failed | none => false

/-- While the fusion unit is free, the oldest ready FUSE starts its job; one whose COLLECT failed is voided. At most `n`
are taken. -/
def tryFuse : Nat → State → State
  | 0, s => s
  | n + 1, s =>
    match (fuseWaiting s).find? (fuseReady s) with
    | none => s
    | some r =>
      if fuseVoided s r then
        tryFuse n (finish r.idx r.bar (modRun r.idx r.bar (fun x => { x with failed := true, voided := true }) s))
      else if s.fus.job = none then tryFuse n (startJob r s)
      else s

/-! ### COLLECT (R71) -/

/-- The 16 bytes of a result descriptor (R109). -/
def entryBytes (e : ResEntry) : List Byte :=
  leBytes 4 (e.stroke % 4096 + 4096 * e.die + 2 ^ 14 * e.eng + 2 ^ 18 * (e.epoch % 64) + 2 ^ 24 * e.status +
    (if e.clip then 2 ^ 26 else 0) + (if e.sigOnly then 2 ^ 27 else 0)) ++
  leBytes 4 e.outAddr ++ leBytes 4 (e.didx % 4096 + 4096 * (e.outLen % 2 ^ 20)) ++ leBytes 4 e.sig

/-- Order of entries within a stroke: DIE, DIDX, ENGINE. -/
def entryBefore (a b : ResEntry) : Bool :=
  let k := fun (e : ResEntry) => (e.die * 4096 + e.didx) * 16 + e.eng
  k a ≤ k b

/-- Put an entry in its place. -/
def insertEntry (e : ResEntry) : List ResEntry → List ResEntry
  | [] => [e]
  | x :: r => if entryBefore x e then x :: insertEntry e r else e :: x :: r

/-- What COLLECT writes of a run: its entries in order, INVALID for VALID where it failed (or `spoil`), or the single
entry of a failed or voided stroke with nothing to write. -/
def writtenEntries (spoil : Bool) (r : StrokeRun) : List ResEntry :=
  let bad := spoil || r.failed || r.voided
  let l := (r.entries.filter (fun e => !e.sigOnly)).foldl (fun l e => insertEntry e l) []
  let l := if bad then l.map (fun e => { e with status := if e.status = 0 then 1 else e.status }) else l
  if l = [] ∧ bad then [⟨r.idx, 0, 0, stEpoch r.raw, if r.voided then 3 else 1, false, false, 0, 0, 0, 0⟩] else l

/-- The result buffer of a COLLECT. -/
def resultBuffer (spoil : Bool) (c : StrokeRun) (set : List StrokeRun) : List Byte :=
  let es := set.flatMap (writtenEntries spoil)
  leBytes 4 (es.length % 65536 + 65536 * (c.idx % 4096) + 2 ^ 28 * stPart c.raw) ++ leBytes 4 c.bar ++ leBytes 8 0 ++
  es.flatMap entryBytes

/-- Write a result buffer as the collector: master 18, under the partition's windows; a refused write fails the
COLLECT. -/
def writeBuffer (spoil : Bool) (c : StrokeRun) (s : State) : State :=
  let p := stPart c.raw
  let b := resultBuffer spoil c (collectSet s c)
  let a := stDesc c.raw * 64
  match accRefused s 0 p ⟨true, 0, a, b.length⟩ with
  | none => (storeDev a b p (chargeMem 18 (some p) a b.length s)).2
  | some (code, x) =>
    failRun c.idx c.bar (if code = 0x0A then windowFault p x s else recordAt pgCol code (x / 64) p s)

/-! ### Firing -/

/-- A voided stroke fires (R66): a COLLECT writes its entries as invalid, an EMIT delivers an invalid header and ends
the voiding. -/
def fireVoided (idx bar : Nat) (k : Stroke) (s : State) : State :=
  let r := voidedRun idx k bar
  let s := addRun r s
  if stOp k = 5 then writeBuffer true r s
  else if stOp k = 7 then
    deliver r false { s with seq := { s.seq with voiding := s.seq.voiding.filter (fun q => q ≠ stPart k) } }
  else s

/-- The stroke at the front of those that have come due fires, if it has operation `op`: voided, held by a gate, or
with its effect. MARK, NOP and SWAP_POINT are never gated. -/
def fire (op : Nat) (act : StrokeRun → State → State) (s : State) : State :=
  match s.seq.due with
  | [] => s
  | (idx, bar, k) :: rest =>
    if stOp k ≠ op then s
    else
      let s := { s with seq := { s.seq with due := rest } }
      if voided s k then fireVoided idx bar k s
      else if stOp k < 8 ∧ gated s (stPart k) bar then addRun { firedRun idx k bar with phase := .held } s
      else act (firedRun idx k bar) s

/-- A RUN takes a context on CD_d and its engines switch to the partition; with no free context or an empty group it
fails there at once (R105). A lost engine fails the stroke (R118). -/
def startOnDie (r : StrokeRun) (d : Nat) (s : State) : State :=
  let engs := groupEngs s r.raw d
  match (dieOf s d).ctxs.findIdx? (fun c => c = none) with
  | none => modRun r.idx r.bar (fun x => { x with failed := true, diesDone := d :: x.diesDone }) s
  | some c =>
    if engs = [] then modRun r.idx r.bar (fun x => { x with failed := true, diesDone := d :: x.diesDone }) s
    else
      let p := stPart r.raw
      let l := fetchList s 4096 (stDesc r.raw * 64)
      let s := chargeMem 19 none (stDesc r.raw * 64) (64 * l.length) s
      let x : Ctx := ⟨r.idx, r.bar, p, stEpoch r.raw, decide (stOp r.raw = 2), selectedFor d l, [], engs⟩
      let s := modDie d (fun y => { y with ctxs := y.ctxs.set c (some x) }) s
      let s := modRun r.idx r.bar (fun x => { x with
        targets := x.targets ++ engs.map (fun e => (d, e))
        failed := x.failed || engs.any (fun e => (dieOf s d).lostEng.contains e) }) s
      let s := engs.foldl (fun s e => switchEngine d e p s) s
      showDispatch d (engs.foldl (fun s e => settle d e r.idx r.bar s) s)

/-- RUN and RUN_PAIRED (R67, R68). -/
def actRun (r : StrokeRun) (s : State) : State :=
  (stDieList r.raw).foldl (fun s d => startOnDie r d (readdPhases d s)) (addRun r s)

/-- Has a WAIT_LINES its line (R69). -/
def linesThere (s : State) (r : StrokeRun) : Bool := lineReached s (stStream r.raw) (stBudget r.raw)

/-- WAIT_LINES opens a gate, which is satisfied at AT if its line is there (R69). -/
def actWait (r : StrokeRun) (s : State) : State :=
  let s := addRun r s
  if linesThere s r then finish r.idx r.bar s else s

/-- The engines of a barrier's group go into brush load: at once those without work, the others at the end of their
work (R126). -/
def brushGroup (r : StrokeRun) (s : State) : State :=
  let s := (stDieList r.raw).foldl (fun s d => rollIn d (readdPhases d s)) s
  (groupAll s r.raw).foldl (fun s t =>
    match slotOf s t.1 t.2 with
    | none => s
    | some e =>
      let st := getF s (pgPe t.1 e) Reg.PE_ENG_STAT_STATE
      if st ≠ 2 ∧ st ≠ 3 ∧ st ≠ 4 then s
      else if s.seq.runs.any (fun x => runActive x && x.targets.contains t) then
        modEng t.1 e (fun g => { g with brushNext := some (stPart r.raw) }) s
      else enterBrush t.1 e (stPart r.raw) s) s

/-- BARRIER opens a gate (R70). -/
def actBarrier (r : StrokeRun) (s : State) : State := brushGroup r (addRun r s)

/-- COLLECT waits for its RUNs (R71). -/
def actCollect (r : StrokeRun) (s : State) : State := addRun r s

/-- FUSE waits for its COLLECT and the unit (R72). -/
def actFuse (r : StrokeRun) (s : State) : State := tryFuse 64 (addRun r s)

/-- MARK writes its record by the sequencer, master 19 (R74). -/
def actMark (r : StrokeRun) (s : State) : State :=
  let s := addRun { r with phase := .done } s
  let wr := getF s pgSeq Reg.SEQ_MARK_WR
  let a := getF s pgSeq Reg.SEQ_MARK_BASE * 64 + wr * 16
  let b := leBytes 2 (stBudget r.raw) ++ leBytes 2 (curTick s) ++
    leBytes 4 (stPart r.raw + 16 * (barCount s % 2 ^ 28)) ++ leBytes 8 (unsint 64 (devTime s))
  let s := match accessRefusal s true a 16 with
    | none => (storeDev a b (stPart r.raw) (chargeMem 19 none a 16 s)).2
    | some c => recordAt (refusalPage c) c (a / 64) (stPart r.raw) s
  setF pgSeq Reg.SEQ_MARK_WR ((wr + 1) % 256) s

/-- Commit a pending swap, the island request before the core request, which is then dropped (R88). -/
def commitSwap (s : State) : State :=
  let go := fun (k : SwapKind) (s : State) =>
    setF pgSeq Reg.SEQ_TBL_STAT_SHADOW 6 (setF pgSeq Reg.SEQ_TBL_STAT_ISL_PENDING 0
      (setF pgSeq Reg.SEQ_TBL_STAT_CORE_PENDING 0 { s with seq := { s.seq with committed := some k } }))
  if s.seq.committed ≠ none ∨ getF s pgSeq Reg.SEQ_TBL_STAT_SHADOW ≠ 4 then s
  else if flag s pgSeq Reg.SEQ_TBL_STAT_ISL_PENDING then go .island s
  else if flag s pgSeq Reg.SEQ_TBL_STAT_CORE_PENDING then go .core s
  else s

/-- RUN (R67). -/
def execRun (s : State) : Host.Outcome State Fault Refusal := .next (fire 1 actRun s)
/-- RUN_PAIRED (R68). -/
def execRunPaired (s : State) : Host.Outcome State Fault Refusal := .next (fire 2 actRun s)
/-- WAIT_LINES (R69). -/
def execWaitLines (s : State) : Host.Outcome State Fault Refusal := .next (fire 3 actWait s)
/-- BARRIER (R70). -/
def execBarrier (s : State) : Host.Outcome State Fault Refusal := .next (fire 4 actBarrier s)
/-- COLLECT (R71). -/
def execCollect (s : State) : Host.Outcome State Fault Refusal := .next (fire 5 actCollect s)
/-- FUSE (R72). -/
def execFuse (s : State) : Host.Outcome State Fault Refusal := .next (fire 6 actFuse s)
/-- EMIT waits for its predecessor (R73). -/
def execEmit (s : State) : Host.Outcome State Fault Refusal := .next (fire 7 addRun s)
/-- MARK (R74). -/
def execMark (s : State) : Host.Outcome State Fault Refusal := .next (fire 8 actMark s)
/-- NOP has no effect (R75). -/
def execNop (s : State) : Host.Outcome State Fault Refusal :=
  .next (fire 9 (fun r s => addRun { r with phase := .done } s) s)
/-- SWAP_POINT (R88). -/
def execSwapPoint (s : State) : Host.Outcome State Fault Refusal :=
  .next (fire 10 (fun r s => commitSwap (addRun { r with phase := .done } s)) s)

/-! ### The tick (R50, R63) -/

/-- Does a table hold a SWAP_POINT. -/
def hasSwapPoint (l : List Stroke) : Bool := l.any (fun k => stOp k = 10)

/-- The instant at which tick t of the bar begins, ns. -/
def tickTime (s : State) (t : Nat) : Nat := ((s.cyc.bound + s.cyc.len * t / 65536) / 42000).toNat

/-- The active table's strokes of tick t, with their indices. -/
def strokesAt (s : State) (t : Nat) : List (Nat × Nat × Stroke) :=
  (s.seq.active.zipIdx.filter (fun x => stAt x.1 = t)).map (fun x => (x.2, barCount s, x.1))

/-- The strokes of tick t come due while the sequencer runs; a table without a SWAP_POINT behaves as if it had one at
tick 65,535 (R75). -/
def dueAt (t : Nat) (s : State) : State :=
  if seqState s = 2 then
    let s := { s with seq := { s.seq with due := s.seq.due ++ strokesAt s t } }
    if t = 65535 ∧ s.seq.active ≠ [] ∧ hasSwapPoint s.seq.active = false then commitSwap s else s
  else s

/-- The fusion unit discards the job of a run, if it has one of it. -/
def dropJob (r : StrokeRun) (s : State) : State :=
  match s.fus.job with
  | some j => if j.stroke = r.idx ∧ j.bar = r.bar then { s with fus := { s.fus with job := none } } else s
  | none => s

/-- A run is stopped: its engines are pre-empted with entries of the given status, its job is discarded, and it completes
as failed. -/
def stopRun (r : StrokeRun) (status : Nat) (s : State) : State :=
  finish r.idx r.bar (failRun r.idx r.bar (dropJob r (killRun r status s)))

/-- A carry-over RUN, FUSE or COLLECT ends at its D: what it has left is discarded as LATE, and it has missed (R78,
R90). -/
def endCarry (s : State) : State :=
  (s.seq.runs.filter (fun r => r.carry && runActive r && pastD s r && (stIsRun r.raw || stOp r.raw = 5 || stOp r.raw = 6))).foldl
    (fun s r => stopRun r 2 s) s

/-- TICK: the counter advances within the bar; the last tick ends by BAR_BOUNDARY alone. -/
def execTick (s : State) : Host.Outcome State Fault Refusal :=
  .next (
    if barsRun s ∧ curTick s < 65535 then
      let t := curTick s + 1
      endCarry (dueAt t (at_ (tickTime s t) (setF pgCyc Reg.CYC_STAT_TICK t s)))
    else s)

/-! ### Gates end (R69, R70) -/

/-- The gate of a run is resolved: it completes, and the strokes it held come due. -/
def gateDone (r : StrokeRun) (s : State) : State := unhold (stPart r.raw) (finish r.idx r.bar s)

/-- The first open gate of partition p of the kind `op`. -/
def openGate (s : State) (p op : Nat) : Option StrokeRun :=
  s.seq.runs.find? (fun r => stPart r.raw = p && stOp r.raw = op && gateOpen r)

/-- GATE_SATISFIED: the awaited line is there before tick D (R69). -/
def execGateSatisfied (p : Nat) (s : State) : Host.Outcome State Fault Refusal :=
  .next (
    match openGate s p 3 with
    | some r => if linesThere s r ∧ pastD s r = false then gateDone r s else s
    | none => s)

/-- Have the RUNs of the partition that fired before a barrier in its bar ended (R70). -/
def runsEnded (s : State) (r : StrokeRun) : Bool := (earlierRuns s r [1, 2]).all (fun x => !runOpen x)

/-- The engines of a barrier's group leave brush load by roll-in (R70, R127). -/
def releaseGroup (r : StrokeRun) (s : State) : State :=
  let s := (stDieList r.raw).foldl (fun s d => rollIn d (readdPhases d s)) s
  (groupAll s r.raw).foldl (fun s t =>
    match slotOf s t.1 t.2 with
    | none => s
    | some e => showState t.1 e (modEng t.1 e (fun g => { g with brushNext := none }) (leaveBrush t.1 e s))) s

/-- The set of the cross-device barrier that a partition's barriers belong to (R408). -/
def crossSet (s : State) (p : Nat) : Option Nat :=
  let me := getF s pgDlk Reg.DLK_STAT_INDEX
  (List.range 8).find? (fun k =>
    match s.dlk.sets[k]? with
    | some x => x.en && x.part = p && flag s pgDlk Reg.DLK_STAT_INDEX_V && x.memb.testBit me
    | none => false)

/-- The ordinal of a BARRIER among those of its partition fired in its bar (R409). -/
def barrierOrd (s : State) (r : StrokeRun) : Nat := (earlierRuns s r [4]).length

/-- The local condition of a cross-device barrier is met: ARRIVE goes to every member, itself included (R409). -/
def sendArrive (k : Nat) (r : StrokeRun) (s : State) : State :=
  let me := getF s pgDlk Reg.DLK_STAT_INDEX
  let j := barrierOrd s r
  match s.dlk.sets[k]? with
  | none => s
  | some x =>
    if x.got.any (fun a => a.1.sender = me && a.1.ord = j) then s
    else
      let a : Arrive := ⟨k, j, s.fus.tick0, devTime s, me⟩
      let s := { s with dlk := { s.dlk with sets := s.dlk.sets.modify k (fun y => { y with got := y.got ++ [(a, devTime s)] }) } }
      ((bitsSet 128 x.memb).filter (fun m => m ≠ me && !s.dlk.out.testBit m)).foldl (fun s m => emit (.dlk m (.arrive a)) s) s

/-- BARRIER_SATISFIED: the partition's RUNs have ended before tick D. A cross-device barrier then waits for the other
members (R409). -/
def execBarrierSatisfied (p : Nat) (s : State) : Host.Outcome State Fault Refusal :=
  .next (
    match openGate s p 4 with
    | some r =>
      if runsEnded s r ∧ pastD s r = false then
        match crossSet s p with
        | some k => sendArrive k r s
        | none => gateDone r (releaseGroup r s)
      else s
    | none => s)

/-- GATE_FAILED: tick D of an open gate has begun. 0x2D is recorded, as a warning for a Hard gate (log entry 18); the
later strokes of the partition up to its next EMIT are voided, and a barrier's engines are released. -/
def execGateFailed (p : Nat) (s : State) : Host.Outcome State Fault Refusal :=
  .next (
    match s.seq.runs.find? (fun r => stPart r.raw = p && gateOpen r && pastD s r) with
    | none => s
    | some r =>
      let s := if stClass r.raw = 0 then recordWarn pgSeq 0x2D 0 p s else recordAt pgSeq 0x2D 0 p s
      let s := if stOp r.raw = 4 then releaseGroup r s else s
      let s := modRun r.idx r.bar (fun x => { x with phase := .done, failed := true }) s
      unhold p (voidFrom p r.idx s))

/-! ### Completion -/

/-- STROKE_COMPLETE: a RUN whose engines have all finished completes (R67, R68). -/
def execStrokeComplete (idx : Nat) (s : State) : Host.Outcome State Fault Refusal :=
  .next (
    match activeRun s idx with
    | some r => if stIsRun r.raw ∧ r.targets = [] then finish r.idx r.bar s else s
    | none => s)

/-- BUDGET_EXPIRY: a RUN's engines are pre-empted, or a FUSE's job is discarded; the stroke completes as failed, and the
overrun counts (R77). -/
def execBudgetExpiry (idx : Nat) (s : State) : Host.Outcome State Fault Refusal :=
  .next (
    match activeRun s idx with
    | none => s
    | some r =>
      if stIsRun r.raw ∧ r.targets ≠ [] then
        finish r.idx r.bar (countOverrun r (failRun r.idx r.bar (killRun r 2 s)))
      else if stOp r.raw = 6 ∧ (match s.fus.job with | some j => decide (j.stroke = r.idx ∧ j.bar = r.bar) | none => false) = true then
        let s := { s with fus := { s.fus with job := none } }
        tryFuse 64 (finish r.idx r.bar (countOverrun r (failRun r.idx r.bar s)))
      else s)

/-! ### The collector (R79, R80, R116) -/

/-- A pair of entries of a RUN_PAIRED: VALID with equal signatures gives one VALID entry with the lower die's DIE, all
else one INVALID entry. -/
def pairEntry (a b : ResEntry) : ResEntry :=
  let lo := if a.die ≤ b.die then a else b
  if a.status = 0 ∧ b.status = 0 ∧ a.sig = b.sig then { lo with clip := a.clip || b.clip } else { lo with status := 1 }

/-- A RUN_PAIRED of partition p has failed by R116. -/
def pairFailed (idx bar p : Nat) (s : State) : State :=
  failRun idx bar { s with seq := { s.seq with pair := if s.seq.pair.contains p then s.seq.pair else p :: s.seq.pair } }

/-- A signature difference: 0x3D in the SCH pages of both dies, with one warning, that of the lower die (R116). -/
def pairMismatch (a b p : Nat) (s : State) : State :=
  let lo := Nat.min a b
  let hi := Nat.max a b
  let s := recordWarn (pgSch lo) 0x3D 0 p (bump (pgSch lo) Reg.SCH_PAIR_MISM 1 s)
  recordPlain (pgSch hi) 0x3D 0 p (bump (pgSch hi) Reg.SCH_PAIR_MISM 1 s)

/-- The collector takes an accepted entry of a run. -/
def takeEntry (r : StrokeRun) (e : ResEntry) (s : State) : State :=
  if stOp r.raw ≠ 2 then modRun r.idx r.bar (fun x => { x with entries := x.entries ++ [e] }) s
  else
    match r.half.find? (fun x => x.didx = e.didx ∧ x.die ≠ e.die) with
    | none => modRun r.idx r.bar (fun x => { x with half := x.half ++ [e] }) s
    | some x =>
      let m := pairEntry x e
      let s := modRun r.idx r.bar (fun y => { y with half := y.half.filter (fun z => z ≠ x), entries := y.entries ++ [m] }) s
      let s := if m.status ≠ 0 then pairFailed r.idx r.bar (stPart r.raw) s else s
      if x.status = 0 ∧ e.status = 0 ∧ x.sig ≠ e.sig then pairMismatch x.die e.die (stPart r.raw) s else s

/-- Does the collector accept an entry of a run: of the current epoch, or of the former one from a carry-over stroke
before its D (R80). -/
def acceptEntry (s : State) (r : Option StrokeRun) (e : ResEntry) : Bool :=
  let ep := getF s pgSeq Reg.SEQ_EPOCH
  e.epoch = ep % 64 ||
    (e.epoch = s.seq.prevEpoch % 64 && (match r with | some x => x.carry && !pastD s x | none => false))

/-- The queues that hold entries, from the one whose turn it is. -/
def drainOrder (s : State) : List Nat :=
  ((List.range 64).map (fun i => (s.seq.drain + i) % 64)).filter (fun q =>
    ((dieOf s (q / 16)).resq.getD (q % 16) []) ≠ [])

/-- The first entry of queue q leaves it, and the turn passes on (R79). -/
def popEntry (q : Nat) (s : State) : State :=
  let s := modDie (q / 16) (fun x => { x with resq := x.resq.modify (q % 16) (·.drop 1) }) s
  { s with seq := { s.seq with drain := (q + 1) % 64 } }

/-- An entry that the collector has drained goes to its run, or is dropped as stale (R80). -/
def drained (e : ResEntry) (r : Option StrokeRun) (s : State) : State :=
  if acceptEntry s r e then
    match r with
    | some r => takeEntry r e s
    | none => s
  else bump pgCol Reg.COL_STALE 1 s

/-- RESULT_DRAIN: one descriptor, round robin over the queues that hold entries. -/
def execResultDrain (s : State) : Host.Outcome State Fault Refusal :=
  .next (
    match drainOrder s with
    | [] => s
    | q :: _ =>
      match (dieOf s (q / 16)).resq.getD (q % 16) [] with
      | [] => s
      | e :: _ =>
        let r := s.seq.runs.reverse.find? (fun r => r.idx = e.stroke && stEpoch r.raw = e.epoch && stIsRun r.raw)
        drained e r (popEntry q s))

/-- Does a collector queue still hold an entry of one of these runs. -/
def undrained (s : State) (l : List StrokeRun) : Bool :=
  s.dies.any (fun d => d.resq.any (fun q => q.any (fun e => l.any (fun r => r.idx = e.stroke && stEpoch r.raw = e.epoch))))

/-- The entries of a paired run whose partner never arrives become INVALID entries, and the stroke fails (R116). -/
def closeHalves (r : StrokeRun) (s : State) : State :=
  if r.half = [] then s
  else
    let lo := (stDieList r.raw).headD 0
    pairFailed r.idx r.bar (stPart r.raw) (modRun r.idx r.bar (fun x => { x with
      half := [], entries := x.entries ++ x.half.map (fun e => { e with status := 1, die := lo }) }) s)

/-- COLLECT_WRITE: once the RUNs it waits for have ended and drained, the COLLECT writes its buffer and completes
(R71). -/
def execCollectWrite (idx : Nat) (s : State) : Host.Outcome State Fault Refusal :=
  .next (
    match activeRun s idx with
    | none => s
    | some c =>
      let set := collectSet s c
      if stOp c.raw = 5 ∧ set.all (fun r => !runOpen r) ∧ undrained s set = false then
        let s := set.foldl (fun s r => closeHalves r s) s
        tryFuse 64 (finish c.idx c.bar (writeBuffer false c s))
      else s)

/-! ### EMIT (R73) -/

/-- Has an EMIT's predecessor completed, and did it fail. -/
def emitPred (s : State) (r : StrokeRun) : Bool × Bool :=
  match predOf s r [5, 6] with
  | some q => (!runOpen q, q.failed)
  | none => (true, false)

/-- EMIT_DELIVER: the predecessor has completed; the batch goes out, or a header marked invalid if it failed. -/
def execEmitDeliver (idx : Nat) (s : State) : Host.Outcome State Fault Refusal :=
  .next (
    match activeRun s idx with
    | none => s
    | some r =>
      if stOp r.raw = 7 ∧ (emitPred s r).1 = true then finish r.idx r.bar (deliver r (!(emitPred s r).2) s) else s)

/-- EMIT_DEADLINE: tick D has begun and the predecessor has not completed. -/
def execEmitDeadline (idx : Nat) (s : State) : Host.Outcome State Fault Refusal :=
  .next (
    match activeRun s idx with
    | none => s
    | some r =>
      if stOp r.raw = 7 ∧ (emitPred s r).1 = false ∧ pastD s r then finish r.idx r.bar (deliver r false s) else s)

end Sys2Proof.Machine
end

