-- ==== Sys2Proof/Machine/Partitions.lean ====
section
/-! DEFINITION. Partitions: their configuration writes, the requests for their reset, and what a bar boundary does to
them (R267, R271, R273, R274); the island in charge (R317), the tables in force, and the errors of the stacks (R282, R283). -/

namespace Sys2Proof.Machine

open Sys2Proof

/-! ### Who is in charge, and what the tables hold -/

/-- The island in charge: the Clapper's holder in HELD and OFFERED (R317). -/
def islandInCharge (s : State) : Option Nat :=
  let st := getF s pgClap Reg.CLAP_STAT_STATE
  if st = 1 ∨ st = 2 then some (getF s pgClap Reg.CLAP_STAT_HOLDER) else none

/-- Is an agent the firmware of the island in charge. -/
def inCharge (s : State) (who : Agent) : Bool :=
  match who with
  | .island i => islandInCharge s = some i
  | _ => false

/-- The shadow's state (SEQ.TBL_STAT.SHADOW). -/
def shadowState (s : State) : Nat := getF s pgSeq Reg.SEQ_TBL_STAT_SHADOW

/-- The strokes of the active table and of an admitted shadow. -/
def heldStrokes (s : State) : List Stroke :=
  s.seq.active ++ (if shadowState s = 4 ∨ shadowState s = 6 then s.seq.shadow else [])

/-- Does an admitted or active table hold a stroke with a property. -/
def tablesHold (s : State) (f : Stroke → Bool) : Bool := (heldStrokes s).any f

/-- Does one hold a stroke of partition p. -/
def holdsPart (s : State) (p : Nat) : Bool := tablesHold s (fun k => stPart k = p && stOp k ≤ 8)

/-! ### Configuration (R267) -/

/-- A request to reset partition p; one for a partition that is not enabled is ignored (R271, R274). -/
def requestReset (p : Nat) (s : State) : State := partitionFault p 2 s

/-- A write of PRT_p.ISL_RESET (R271). -/
def islReset (who : Agent) (p : Nat) (s : State) : State :=
  if inCharge s who then partitionFault p 4 s else recordPart pgPrt 0x0C p s

/-- A write of PRT_p.CTL: one that clears ENABLE while a table holds a stroke of p is ignored with 0x0C. -/
def writePrtCtl (p v : Nat) (s : State) : State :=
  if flagI s pgPrt Reg.PRT_CTL_ENABLE p ∧ bitsOf v 0 1 = 0 ∧ holdsPart s p then recordPart pgPrt 0x0C p s
  else
    let s := setFi pgPrt Reg.PRT_CTL_ENABLE p v (setFi pgPrt Reg.PRT_CTL_HOLD p (v / 4) (setFi pgPrt Reg.PRT_CTL_REJOIN_N p (v / 16)
      (setFi pgPrt Reg.PRT_CTL_CLASS p (v / 256) (setFi pgPrt Reg.PRT_CTL_OVR_LIMIT p (v / 4096) (advanceCfgGen s)))))
    if v.testBit 1 then requestReset p s else s

/-- A write of PRT_p.QUOTA: one that lowers it while a table holds a stroke of p is ignored with 0x0C. -/
def writePrtQuota (p v : Nat) (s : State) : State :=
  if v < getFi s pgPrt Reg.PRT_QUOTA p ∧ holdsPart s p then recordPart pgPrt 0x0C p s
  else setFi pgPrt Reg.PRT_QUOTA p v (advanceCfgGen s)

/-- A write of a word of PRT_p's block. -/
def writePrt (who : Agent) (p off v : Nat) (s : State) : State :=
  if off = 0x00 then writePrtCtl p v s
  else if off = 0x08 then writePrtQuota p v s
  else if off = 0x0C then setFi pgPrt Reg.PRT_REQ_DL p v s
  else if off = 0x18 then (if v.testBit 0 then islReset who p s else s)
  else if 0x40 ≤ off ∧ off < 0x80 then
    let w := (off - 0x40) / 8
    if off % 8 = 0 then setFij pgPrt Reg.PRT_WIN_BASE p w v (advanceCfgGen s)
    else if off % 8 = 4 then
      setFij pgPrt Reg.PRT_WIN_LEN p w v (setFij pgPrt Reg.PRT_WIN_WR p w (v / 2 ^ 30)
        (setFij pgPrt Reg.PRT_WIN_VALID p w (v / 2 ^ 31) (advanceCfgGen s)))
    else s
  else s

/-- PRT_CONFIG_WRITE (R267). -/
def execPrtConfigWrite (by_ : Agent) (p off : Nat) (v : Word) (s : State) : Host.Outcome State Fault Refusal :=
  .next (if p < 16 then asMaster pgPrt (0x100 + 0x80 * p + off) by_ (writePrt by_ p off v.toNat) s else s)

/-- PARTITION_RESET_REQUEST: firmware writes PRT_p.CTL.RESET (R271). -/
def execPartitionResetRequest (by_ : Agent) (p : Nat) (s : State) : Host.Outcome State Fault Refusal :=
  .next (if p < 16 then asMaster pgPrt (0x100 + 0x80 * p) by_ (requestReset p) s else s)

/-- PARTITION_ISL_RESET (R271). -/
def execPartitionIslReset (by_ : Agent) (p : Nat) (s : State) : Host.Outcome State Fault Refusal :=
  .next (if p < 16 then asMaster pgPrt (0x118 + 0x80 * p) by_ (islReset by_ p) s else s)

/-- PARTITION_OVR_LIMIT: the budget overruns of an active partition in this bar have reached its limit (R271). -/
def execPartitionOvrLimit (p : Nat) (s : State) : Host.Outcome State Fault Refusal :=
  .next (
    match s.parts[p]? with
    | some x => if partState s p = 1 ∧ x.cfg.ovrLimit ≠ 0 ∧ x.cfg.ovrLimit ≤ x.overruns then partitionFault p 3 s else s
    | none => s)

/-! ### At a bar boundary (R267, R273, R274) -/

/-- Partition p's configuration as PRT holds it. -/
def prtWritten (s : State) (p : Nat) : PrtCfg :=
  ⟨flagI s pgPrt Reg.PRT_CTL_ENABLE p, flagI s pgPrt Reg.PRT_CTL_HOLD p, getFi s pgPrt Reg.PRT_CTL_REJOIN_N p,
   getFi s pgPrt Reg.PRT_CTL_CLASS p, getFi s pgPrt Reg.PRT_CTL_OVR_LIMIT p, getFi s pgPrt Reg.PRT_QUOTA p,
   getFi s pgPrt Reg.PRT_REQ_DL p, windowsWritten s p⟩

/-- The state of a partition after a boundary, with `n` boundaries since its fault. -/
def rejoin (c : PrtCfg) (st n : Nat) : Nat :=
  if !c.enable then 0
  else if st = 2 ∨ st = 3 then (if 1 + c.rejoinN ≤ n ∧ c.hold = false then 1 else 3)
  else 1

/-- Partition p at a bar boundary: its configuration takes effect, and it may be held or rejoin. -/
def partBoundary (p : Nat) (s : State) : State :=
  let c := prtWritten s p
  let n := (s.parts.getD p Part.fresh).since + 1
  setFi pgPrt Reg.PRT_STAT_STATE p (rejoin c (partState s p) n)
    { s with parts := s.parts.modify p (fun x => { x with cfg := c, since := n, overruns := 0 }) }

/-! ### The stacks' errors (R282, R283) -/

/-- A stack word that stays uncorrectable: counted, and 0x07 with its address. -/
def stackUncorr (n a part : Nat) (s : State) : State :=
  recordAt (pgMsc n) 0x07 (a / 64) part (bump (pgMsc n) Reg.MSC_UNCORR 1 s)

/-- PATROL_SCRUB: the scrub reads a word of the stack; a single error is corrected and written back, more stay
uncorrectable (R282). -/
def execPatrolScrub (stk off errs : Nat) (s : State) : Host.Outcome State Fault Refusal :=
  .next (
    if 4 ≤ stk ∨ stackFailed s stk ∨ errs = 0 then s
    else if errs = 1 then bump (pgMsc stk) Reg.MSC_ECC_CORR 1 s
    else stackUncorr stk (stackBase stk + off) 0xFF s)

/-- MS_FAIL: a stack interface that cannot be retrained (R283). -/
def execMsFail (stk : Nat) (s : State) : Host.Outcome State Fault Refusal :=
  .next (
    if stk < 4 ∧ stackFailed s stk = false then
      dieLeave stk (record (pgMsc stk) 0x08 (setF (pgMsc stk) Reg.MSC_STAT_FAILED 1 s))
    else s)

end Sys2Proof.Machine
end

