-- ==== Sys2Proof/Machine/Mailbox.lean ====
section
/-! DEFINITION. The application cores' release, the mailbox channels, the warning source and the interrupt controller
(R293 to R304). -/

namespace Sys2Proof.Machine

open Sys2Proof

/-! ### Mailboxes (R295 to R300) -/

/-- The endpoint code of an agent; 0xFF for one that is no endpoint. -/
def endpointOf : Agent → Nat
  | .core k => if k < 8 then k else 0xFF
  | .island i => 8 + i
  | .host => 0xA
  | .security => 0xC
  | _ => 0xFF

/-- Sender and receiver of channel c: fixed for 62 and 63 (R295). -/
def routeOf (s : State) (c : Nat) : Nat × Nat :=
  if c = 62 then (0xB, 8) else if c = 63 then (0xB, 9)
  else (getFi s pgMbx Reg.MBX_ROUTE_SENDER c, getFi s pgMbx Reg.MBX_ROUTE_RECEIVER c)

/-- Is channel c full. -/
def chanFull (s : State) (c : Nat) : Bool := (getFi s pgMbx Reg.MBX_FULL (c / 32)).testBit (c % 32)

/-- Is its channel-free source pending (R301). -/
def freePend (s : State) (c : Nat) : Bool := (getFi s pgMbx Reg.MBX_FREE_PEND (c / 32)).testBit (c % 32)

/-- Set or clear the full flag of channel c. -/
def setFull (c v : Nat) (s : State) : State :=
  setFi pgMbx Reg.MBX_FULL (c / 32) (putBits (getFi s pgMbx Reg.MBX_FULL (c / 32)) (c % 32) 1 v) s

/-- Set or clear its channel-free source. -/
def setFreePend (c v : Nat) (s : State) : State :=
  setFi pgMbx Reg.MBX_FREE_PEND (c / 32) (putBits (getFi s pgMbx Reg.MBX_FREE_PEND (c / 32)) (c % 32) 1 v) s

/-- The word enters the empty channel c: the channel-full source pends, the channel-free source does not. -/
def chanPut (c v : Nat) (s : State) : State :=
  notify (384 + c) (setFull c 1 (setFi pgMbx Reg.MBX_DATA c v (setFreePend c 0 s)))

/-- A write of DATA_c (R296, R298); a channel without a receiver accepts no word (R295). -/
def chanWrite (who : Agent) (c v : Nat) (s : State) : State :=
  let r := routeOf s c
  if endpointOf who ≠ r.1 ∨ r.1 = 0xF then record pgMbx 0x13 s
  else if r.2 = 0xF then s
  else if chanFull s c then record pgMbx 0x12 (bumpI pgMbx Reg.MBX_OVW c 1 (setFreePend c 0 s))
  else chanPut c v s

/-- A read of DATA_c: the word it returns, and the state after it (R296, R298). -/
def chanRead (who : Agent) (c : Nat) (s : State) : Word × State :=
  let r := routeOf s c
  if endpointOf who ≠ r.2 ∨ r.2 = 0xF then (0, record pgMbx 0x13 s)
  else if chanFull s c then
    (BitVec.ofNat 32 (getFi s pgMbx Reg.MBX_DATA c), notify (448 + c) (setFreePend c 1 (setFull c 0 s)))
  else (0, s)

/-- MBX_WRITE (R296 to R299). -/
def execMbxWrite (by_ : Agent) (c : Nat) (v : Word) (s : State) : Host.Outcome State Fault Refusal :=
  .next (if c < 64 then asMaster pgMbx (0x140 + 4 * c) by_ (chanWrite by_ c v.toNat) s else s)

/-- MBX_READ (R296 to R298). -/
def execMbxRead (by_ : Agent) (c : Nat) (s : State) : Host.Outcome State Fault Refusal :=
  .next (
    if 64 ≤ c then s
    else
      match dataRefusal by_ false (pageBase pgMbx + 0x140 + 4 * c) s with
      | some t => answer (leBytes 4 0) false false t
      | none =>
        let r := chanRead by_ c s
        answer (leBytes 4 r.1.toNat) true false r.2)

/-- The warning source moves its oldest word into the empty channel of the island in charge (R300). -/
def moveWarning (s : State) : State :=
  match islandInCharge s, s.mbx.warn with
  | some i, w :: rest =>
    if chanFull s (62 + i) then s
    else
      chanPut (62 + i) w.toNat (setF pgMbx Reg.MBX_WARN_LEVEL rest.length { s with mbx := { s.mbx with warn := rest } })
  | _, _ => s

/-- WARNING_MOVE (R300). -/
def execWarningMove (s : State) : Host.Outcome State Fault Refusal := .next (moveWarning s)

/-! ### Interrupts (R301 to R304) -/

/-- Does source i pend (R301). -/
def pends (s : State) (i : Nat) : Bool :=
  if i < 128 then blkOf (.hub i) ≠ none && pagePends s (.hub i)
  else if i < 384 then
    let p := Page.cd ((i - 128) / 64) ((i - 128) % 64)
    let n := (i - 128) % 64
    blkOf p ≠ none && !(0x10 ≤ n && n ≤ 0x1F) && pagePends s p
  else if i < 448 then chanFull s (i - 384)
  else i < 512 && freePend s (i - 448)

/-- PEND_w. -/
def pendWord (s : State) (w : Nat) : Nat :=
  (List.range 32).foldl (fun v j => if pends s (32 * w + j) then v + 2 ^ j else v) 0

/-- Does source i qualify for context x: routed there with a priority above the threshold, unclaimed and pending
(R302, R303). -/
def qualifies (s : State) (x i : Nat) : Bool :=
  getFi s pgIntc Reg.INTC_ROUTE_CTX i = x && decide (getFi s pgIntc Reg.INTC_THRESH x < getFi s pgIntc Reg.INTC_ROUTE_PRIO i) &&
    !s.mbx.claimed.contains i && pends s i

/-- The qualifying source of highest priority, the lowest number on ties. -/
def bestSource (s : State) (x : Nat) : Option Nat :=
  ((List.range 512).filter (qualifies s x)).foldl (fun b i =>
    match b with
    | none => some i
    | some j => if getFi s pgIntc Reg.INTC_ROUTE_PRIO j < getFi s pgIntc Reg.INTC_ROUTE_PRIO i then some i else b) none

/-- Does the external interrupt of a core context stand (R303). -/
def coreIrq (s : State) (x : Nat) : Bool := (List.range 512).any (qualifies s x)

/-- A read of CLAIM_x: the source + 1, which is now claimed, or 0 (R303). -/
def claimSource (x : Nat) (s : State) : Nat × State :=
  match bestSource s x with
  | some i => (i + 1, { s with mbx := { s.mbx with claimed := i :: s.mbx.claimed } })
  | none => (0, s)

/-- A write of COMPLETE_x releases a claimed source, which pends again if its condition still holds. -/
def completeSource (n : Nat) (s : State) : State :=
  if s.mbx.claimed.contains n then
    let s := { s with mbx := { s.mbx with claimed := s.mbx.claimed.filter (· ≠ n) } }
    if pends s n then notify n s else s
  else s

/-- INTC_CLAIM (R303). -/
def execIntcClaim (by_ : Agent) (x : Nat) (s : State) : Host.Outcome State Fault Refusal :=
  .next (
    if 19 ≤ x then s
    else
      match dataRefusal by_ false (pageBase pgIntc + 0x80 + 8 * x) s with
      | some t => answer (leBytes 4 0) false false t
      | none =>
        let r := claimSource x s
        answer (leBytes 4 r.1) true false r.2)

/-- INTC_COMPLETE (R303). -/
def execIntcComplete (by_ : Agent) (x n : Nat) (s : State) : Host.Outcome State Fault Refusal :=
  .next (if x < 19 then asMaster pgIntc (0x80 + 8 * x) by_ (completeSource n) s else s)

/-! ### Application cores (R293) -/

/-- A write of CORE.RUN: each core whose bit is set is released at its vector, each whose bit is cleared returns to
reset, and a core in reset waits for no interrupt. -/
def writeCoreRun (v : Nat) (s : State) : State :=
  let old := getF s pgCore Reg.CORE_RUN
  let s := setF pgCore Reg.CORE_WFI (getF s pgCore Reg.CORE_WFI &&& v) (setF pgCore Reg.CORE_RUN v s)
  (List.range 8).foldl (fun s k =>
    if v.testBit k && !old.testBit k then emit (.coreRelease k (get64 s pgCore Reg.CORE_RVEC_LO Reg.CORE_RVEC_HI k)) s
    else if !v.testBit k && old.testBit k then emit (.coreReset k) s else s) s

/-- CORE_RUN (R293). -/
def execCoreRun (by_ : Agent) (v : Byte) (s : State) : Host.Outcome State Fault Refusal :=
  .next (asMaster pgCore 0x40 by_ (writeCoreRun v.toNat) s)

end Sys2Proof.Machine
end

