-- ==== Sys2Proof/Machine/Islands.lean ====
section
/-! DEFINITION. The safety islands: their boot, faults and restarts, the hold latch and the VALID pair, the result age
monitor, the safe state as an island acts in it, and the CAN FD channels (R311 to R315, R323 to R336). -/

namespace Sys2Proof.Machine

open Sys2Proof

/-! ### Access -/

/-- The ISL page of island i. -/
abbrev pgIsl (i : Nat) : Page := .isl i

/-- Island i beside its page. -/
def islOf (s : State) (i : Nat) : Isl := s.isl.getD i Isl.fresh

/-- Change island i. -/
def modIsl (i : Nat) (f : Isl → Isl) (s : State) : State := { s with isl := s.isl.modify i f }

/-- Do the cores of island i run. -/
def islUp (s : State) (i : Nat) : Bool := i < 2 && (islOf s i).phase = 1

/-- A channel of island i. -/
def canOf (s : State) (i ch : Nat) : CanCh := (islOf s i).can.getD ch ⟨[], [], none, []⟩

/-- Change a channel of island i. -/
def modCan (i ch : Nat) (f : CanCh → CanCh) (s : State) : State :=
  modIsl i (fun x => { x with can := x.can.modify ch f }) s

/-! ### The VALID pair and the hold latch (R323 to R325) -/

/-- State of watch w: 0 OFF, 1 WAITING, 2 CURRENT, 3 EXPIRED. -/
def watchState (s : State) (i w : Nat) : Nat := getFi s (pgIsl i) Reg.ISL_WATCH_STATE w

/-- Is every enabled SAFETY watch CURRENT. -/
def safetyCurrent (s : State) (i : Nat) : Bool :=
  (List.range 16).all (fun w => !flagI s (pgIsl i) Reg.ISL_WATCH_ENABLE w || !flagI s (pgIsl i) Reg.ISL_WATCH_SAFETY w ||
    watchState s i w = 2)

/-- May island i drive its pair valid (R325; never in BLANK and RETURNED, R436). -/
def validAllowed (s : State) (i : Nat) : Bool :=
  islUp s i && flag s (pgIsl i) Reg.ISL_STAT_HOLD && !flag s (pgIsl i) Reg.ISL_STAT_FAULTED &&
    !flag s (pgIsl i) Reg.ISL_STAT_SAFE && safetyCurrent s i && flag s (pgIsl i) Reg.ISL_CTL_VALID_EN &&
    (lcState s = 1 || lcState s = 2)

/-- Drive the pair as the conditions say. -/
def showValid (i : Nat) (s : State) : State :=
  let v := validAllowed s i
  if v = flag s (pgIsl i) Reg.ISL_STAT_VALID then s
  else emit (.valid i v) (setF (pgIsl i) Reg.ISL_STAT_VALID (if v then 1 else 0) s)

/-- The hold latch clears: the pair goes invalid and the hardware writes HOLD_REL once (R323). -/
def dropHold (i : Nat) (s : State) : State :=
  if flag s (pgIsl i) Reg.ISL_STAT_HOLD then
    emit (.islWrite i 0x80 1) (showValid i (setF (pgIsl i) Reg.ISL_STAT_HOLD 0 s))
  else s

/-! ### CAN FD frames (R334) -/

/-- Identifier of a frame kind on a channel: 1 STATUS, 2 SAFE_STATE; 11 bits unless IDE is set. -/
def canIdent (s : State) (i ch kind : Nat) : Nat × Bool :=
  let p := pgIsl i
  let id := if kind = 1 then getFi s p Reg.ISL_CAN_STAT_ID ch else getFi s p Reg.ISL_CAN_SSF_ID ch
  let ide := if kind = 1 then flagI s p Reg.ISL_CAN_STAT_IDE ch else flagI s p Reg.ISL_CAN_SSF_IDE ch
  (if ide then id else id % 2048, ide)

/-- FLAGS of an island's frame. -/
def frameFlags (s : State) (i : Nat) : Nat :=
  let b (n : Nat) (c : Bool) : Nat := if c then 2 ^ n else 0
  i + b 1 (islandInCharge s = some i) + b 2 (flag s (pgIsl i) Reg.ISL_STAT_MODE) +
    b 3 (!flag s pgClap Reg.CLAP_STAT_MON_READY) + b 4 (flag s (pgIsl i) Reg.ISL_STAT_SAFE) +
    b 5 (flag s (pgIsl i) Reg.ISL_STAT_VALID) + b 6 ((islOf s i).dstep = 3)

/-- The 32 bytes of an island's frame with its counter. -/
def islandFrame (s : State) (i kind cnt : Nat) : List Byte :=
  let x := islOf s i
  let l := leBytes 1 kind ++ leBytes 1 (frameFlags s i) ++ leBytes 1 x.dstep ++
    leBytes 1 (if flag s (pgIsl i) Reg.ISL_STAT_SAFE then x.cause else 0) ++ leBytes 4 x.epoch ++ leBytes 4 x.bar ++
    leBytes 4 (x.health % 2 ^ 24) ++ leBytes 8 (unsint 64 (devTime s)) ++
    leBytes 1 (getF s (pgIsl i) Reg.HDR_ERR_INFO_LAST) ++ leBytes 3 0 ++ leBytes 2 cnt
  l ++ leBytes 2 (crc16 l)

/-- Queue a STATUS (1) or SAFE_STATE (2) frame on a channel; its counter advances per channel and identifier. -/
def queueFrame (i ch kind : Nat) (s : State) : State :=
  let id := canIdent s i ch kind
  let key := id.1 + (if id.2 then 2 ^ 31 else 0)
  let cnt := ((canOf s i ch).counters.find? (fun c => c.1 = key)).elim 0 (fun c => c.2)
  let f : CanFrame := ⟨id.1, id.2, true, true, islandFrame s i kind cnt⟩
  modCan i ch (fun c => { c with
    queue := c.queue ++ [f],
    counters := (key, (cnt + 1) % 65536) :: c.counters.filter (fun e => e.1 ≠ key) }) s

/-- The SAFE_STATE frame of a safe state goes onto both channels, to be complete 2.0 ms after t0 (R331, R335). -/
def startSsf (i t0 : Nat) (s : State) : State :=
  if (islOf s i).ssf then s
  else
    let s := modIsl i (fun x => { x with ssf := true }) (queueFrame i 1 2 (queueFrame i 0 2 s))
    modCan i 1 (fun c => { c with ssf := some (t0, false) }) (modCan i 0 (fun c => { c with ssf := some (t0, false) }) s)

/-! ### Safe-state triggers in an island (R330, R331) -/

/-- A trigger detected in island i: its SAFE latch sets, its pair goes invalid, its request leaves for the hub, and the
island in charge queues the safe-state frame. While its latch is set, a trigger changes nothing. -/
def trigger (i cause t0 : Nat) (s : State) : State :=
  if !islUp s i || flag s (pgIsl i) Reg.ISL_STAT_SAFE then s
  else
    let s := modIsl i (fun x => { x with cause := cause }) (setF (pgIsl i) Reg.ISL_STAT_SAFE 1 s)
    let s := emit (.islWrite i (0x74 + 4 * i) cause) (showValid i s)
    if islandInCharge s = some i then startSsf i t0 s else s

/-! ### The Clapper's view of the islands (R322) -/

/-- The monitor: the island that is not the holder, once a grant has been made. -/
def monitorOf (s : State) : Option Nat :=
  if s.clap.granted then some (1 - getF s pgClap Reg.CLAP_STAT_HOLDER) else none

/-- Show MON_READY: the monitor has missed fewer than three periods, runs without a fault, and is in Lockstep mode or
SPLIT_OK is set. -/
def showMon (s : State) : State :=
  let ok := match monitorOf s with
    | some m => decide (nth0 s.clap.missed m < 3) && islUp s m && !flag s (pgIsl m) Reg.ISL_STAT_FAULTED &&
        (!flag s (pgIsl m) Reg.ISL_STAT_MODE || flag s pgClap Reg.CLAP_CFG_SPLIT_OK)
    | none => false
  setF pgClap Reg.CLAP_STAT_MON_READY (if ok then 1 else 0) s

/-! ### Faults, reset and boot (R313, R315, R336, R426, R434) -/

/-- A fault of island i with the cause shown and the code recorded: the hold latch clears, a held Clapper is abdicated by
a write to the hub, the code is recorded in ISL and CLAP, and the cores are held. -/
def faultIsl (i cause code : Nat) (s : State) : State :=
  let held := islandInCharge s = some i
  let s := modIsl i (fun x => { x with phase := 2 })
    (setF (pgIsl i) Reg.ISL_STAT_FAULT_CAUSE cause (setF (pgIsl i) Reg.ISL_STAT_FAULTED 1 s))
  let s := showValid i (dropHold i s)
  let s := if held then emit (.islWrite i 0x7C 1) s else s
  showMon (record pgClap code (record (pgIsl i) code s))

/-- An island fault by cause: 1 lockstep, 2 SRAM, 3 watchdog, 4 image, 5 clock. In Split mode nothing is compared
(R315). -/
def islandFault (i cause : Nat) (s : State) : State :=
  if islUp s i ∧ 1 ≤ cause ∧ cause ≤ 5 ∧ ¬(cause = 1 ∧ flag s (pgIsl i) Reg.ISL_STAT_MODE) then
    faultIsl i cause (if cause = 1 then 0x50 else 0x51) s
  else s

/-- Island i goes into reset: its page, and what it holds beside it. Its W-link port keeps what it has trained. -/
def islandReset (i : Nat) (s : State) : State :=
  let was := flag s (pgIsl i) Reg.ISL_STAT_VALID
  let s := modIsl i (fun _ => Isl.fresh) (resetPageFrom (pgIsl i) 0 s)
  showMon (if was then emit (.valid i false) s else s)

/-- The slot that an island's ROM boots: of those verified and not below ISL.SVN, the one with the higher SVN, slot A on
equal ones (R434). -/
def bootSlot (floor : Nat) (slots : List (Option Nat)) : Option Nat :=
  ((slots.take 2).filterMap (fun o => o.bind (fun v => if floor ≤ v then some v else none))).foldl
    (fun b v => match b with | none => some v | some w => some (Nat.max w v)) none

/-- Island i starts: in the mode that the ball says, from the accepted slot, or into a fault of cause 4. -/
def islandStart (i : Nat) (split : Bool) (slots : List (Option Nat)) (s : State) : State :=
  let s := setF (pgIsl i) Reg.ISL_STAT_MODE (if split then 1 else 0) (islandReset i s)
  match bootSlot (getF s (pgIsl i) Reg.ISL_SVN) slots with
  | some v => showMon (modIsl i (fun x => { x with phase := 1 }) (setF (pgIsl i) Reg.ISL_SVN v s))
  | none => faultIsl i 4 0x51 s

/-- ISLAND_FAULT (R313). -/
def execIslandFault (i cause : Nat) (s : State) : Host.Outcome State Fault Refusal := .next (islandFault i cause s)

/-- ISLAND_WATCHDOG_EXPIRE (R313). -/
def execIslandWatchdogExpire (i : Nat) (s : State) : Host.Outcome State Fault Refusal := .next (islandFault i 3 s)

/-- ISLAND_AUTO_RESTART: 10 ms after a fault with AUTO_RESTART set, and in a restart by R336, the island reboots. -/
def execIslandAutoRestart (i : Nat) (slots : List (Option Nat)) (s : State) : Host.Outcome State Fault Refusal :=
  .next (
    let ph := (islOf s i).phase
    if i < 2 ∧ ((ph = 2 ∧ flag s (pgIsl i) Reg.ISL_CTL_AUTO_RESTART) ∨ ph = 3) then
      islandStart i (flag s (pgIsl i) Reg.ISL_STAT_MODE) slots s
    else s)

/-- ISLAND_RESET_RELEASE (R315, R434). -/
def execIslandResetRelease (i : Nat) (split : Bool) (slots : List (Option Nat)) (s : State) :
    Host.Outcome State Fault Refusal :=
  .next (if i < 2 ∧ (islOf s i).phase = 0 then islandStart i split slots s else s)

/-- A write of ISL.CTL.RESTART: the monitor restarts; in the island in charge it is an island fault, whose cause the
spec does not number (R336; log entry 3). -/
def restartIsl (i : Nat) (s : State) : State :=
  if !islUp s i then s
  else if islandInCharge s = some i then
    let f := drawFree 4 s
    faultIsl i f.1 0x51 f.2
  else showMon (modIsl i (fun x => { x with phase := 3 }) (dropHold i s))

/-- ISLAND_RESTART (R336). -/
def execIslandRestart (i : Nat) (s : State) : Host.Outcome State Fault Refusal := .next (restartIsl i s)

/-! ### Messages of the hub (R320, R323, R327, R331) -/

/-- GRANT_RECEIVE: the hold latch sets; in a safe state the frame goes out (R331, R332). -/
def execGrantReceive (i t : Nat) (s : State) : Host.Outcome State Fault Refusal :=
  .next (
    if islUp s i then
      let s := at_ t s
      let e := getF s pgClap Reg.CLAP_EPOCH
      let s := modIsl i (fun x => { x with epoch := e, ackAt := t }) (setF (pgIsl i) Reg.ISL_STAT_HOLD 1 s)
      let safe := flag s pgClap Reg.CLAP_STAT_SAFE
      let c := getF s pgClap Reg.CLAP_STAT_CAUSE
      let s := if safe then modIsl i (fun x => { x with cause := c }) (setF (pgIsl i) Reg.ISL_STAT_SAFE 1 s) else s
      let s := showValid i s
      if safe then startSsf i t s else s
    else s)

/-- REVOKE_RECEIVE (R323). -/
def execRevokeReceive (i : Nat) (s : State) : Host.Outcome State Fault Refusal :=
  .next (if islUp s i then dropHold i s else s)

/-- HEARTBEAT_RESPONSE (R323). -/
def execHeartbeatResponse (i : Nat) (ack : Bool) (t : Nat) (s : State) : Host.Outcome State Fault Refusal :=
  .next (
    if islUp s i then
      let s := at_ t s
      if ack then modIsl i (fun x => { x with ackAt := t }) s else dropHold i s
    else s)

/-- HOLD_TIMEOUT: 500 µs without an acknowledgment by the island's timer, which is accurate to 0.1 % (R311, R323). -/
def execHoldTimeout (i t : Nat) (s : State) : Host.Outcome State Fault Refusal :=
  .next (
    if islUp s i ∧ flag s (pgIsl i) Reg.ISL_STAT_HOLD ∧ (islOf s i).ackAt + 499500 ≤ t then
      dropHold i (record (pgIsl i) 0x56 (at_ t s))
    else s)

/-- HOLD_DROP: firmware writes ISL.CTL.HOLD_DROP (R323). -/
def execHoldDrop (i : Nat) (s : State) : Host.Outcome State Fault Refusal :=
  .next (if islUp s i then dropHold i s else s)

/-- SAFE_MESSAGE_RECEIVE: the SAFE latch sets, and the island in charge sends the safe-state frame (R331, R334). -/
def execSafeMessageReceive (i t : Nat) (s : State) : Host.Outcome State Fault Refusal :=
  .next (
    if islUp s i then
      let s := at_ t s
      let c := getF s pgClap Reg.CLAP_STAT_CAUSE
      let s := modIsl i (fun x => { x with cause := c }) (setF (pgIsl i) Reg.ISL_STAT_SAFE 1 s)
      let s := showValid i s
      if islandInCharge s = some i then startSsf i t s else s
    else s)

/-- TICK_FLIT (R327). -/
def execTickFlit (i bar health : Nat) (s : State) : Host.Outcome State Fault Refusal :=
  .next (if islUp s i then modIsl i (fun x => { x with bar := bar % 2 ^ 32, health := health % 2 ^ 24 }) s else s)

/-! ### The result age monitor (R327 to R329) -/

/-- Does a notice match watch w by partition and stroke. -/
def watchMatches (s : State) (i w : Nat) (n : Notice) : Bool :=
  let p := pgIsl i
  watchState s i w ≠ 0 && getFi s p Reg.ISL_WATCH_PART w = n.part &&
    (getFi s p Reg.ISL_WATCH_STROKE w = 0xFFF || getFi s p Reg.ISL_WATCH_STROKE w = n.stroke)

/-- Is a notice that matches it fresh. -/
def watchFresh (s : State) (i w : Nat) (n : Notice) : Bool :=
  n.valid && n.dstep ≤ 3 && decide (n.time - n.tc ≤ (getFi s (pgIsl i) Reg.ISL_WATCH_DATA_AGE_MAX w : Int) * 1000)

/-- The run counters of a watch (R329), with what they trigger at time t. -/
def watchRuns (i w t : Nat) (n : Notice) (s : State) : State :=
  let p := pgIsl i
  let pr := if n.pair then satAdd 4 (getFi s p Reg.ISL_WATCH_PAIR_RUN w) 1 else 0
  let cr := if n.clip then satAdd 4 (getFi s p Reg.ISL_WATCH_CLIP_RUN w) 1 else 0
  let pairHit := n.pair && pr = getFi s p Reg.ISL_WATCH_PAIR_N w && getFi s p Reg.ISL_WATCH_PAIR_RUN w ≠ pr
  let clipHit := n.clip && cr = getFi s p Reg.ISL_WATCH_CLIP_N w && getFi s p Reg.ISL_WATCH_CLIP_RUN w ≠ cr
  let s := setFi p Reg.ISL_WATCH_CLIP_RUN w cr (setFi p Reg.ISL_WATCH_PAIR_RUN w pr s)
  let s := if clipHit then raiseBit p w s else s
  if pairHit && flagI s p Reg.ISL_WATCH_SAFETY w then trigger i 3 t (record p 0x5D s) else s

/-- What a notice does to watch w. -/
def watchNotice (i t : Nat) (n : Notice) (s : State) (w : Nat) : State :=
  let p := pgIsl i
  let d4 := watchState s i w = 2 && flagI s p Reg.ISL_WATCH_SAFETY w && getFi s p Reg.ISL_WATCH_PART w = n.part && n.dstep = 4
  let s := if d4 then trigger i 2 t s else s
  if watchMatches s i w n then
    let s := if watchFresh s i w n then
        modIsl i (fun x => { x with age := x.age.set w t }) (setFi p Reg.ISL_WATCH_STATE w 2 s)
      else s
    watchRuns i w t n s
  else s

/-- EMISSION_NOTICE (R328 to R330). -/
def execEmissionNotice (i : Nat) (n : Notice) (t : Nat) (s : State) : Host.Outcome State Fault Refusal :=
  .next (
    if islUp s i then
      let s := modIsl i (fun x => { x with dstep := n.dstep % 256 }) (at_ t s)
      showValid i ((List.range 16).foldl (watchNotice i t n) s)
    else s)

/-- WATCH_EXPIRE: a CURRENT watch reaches its age limit by the island's timer (R311, R328). -/
def execWatchExpire (i w t : Nat) (s : State) : Host.Outcome State Fault Refusal :=
  .next (
    if islUp s i ∧ w < 16 ∧ watchState s i w = 2 ∧
        getFi s (pgIsl i) Reg.ISL_WATCH_AGE_LIMIT w * 999 ≤ t - nth0 (islOf s i).age w then
      let s := record (pgIsl i) 0x57 (setFi (pgIsl i) Reg.ISL_WATCH_STATE w 3 (at_ t s))
      showValid i (if flagI s (pgIsl i) Reg.ISL_WATCH_SAFETY w then trigger i 1 t s else s)
    else s)

/-- A write of the first word of WATCH_w: an enabled watch starts in WAITING (R328). -/
def writeWatch (i w v : Nat) (s : State) : State :=
  let was := flagI s (pgIsl i) Reg.ISL_WATCH_ENABLE w
  let s := setW (fieldAddr (pgIsl i) Reg.ISL_WATCH_ENABLE w 0) (BitVec.ofNat 32 (v % 2 ^ 26)) s
  let s :=
    if was = v.testBit 0 then s
    else setFi (pgIsl i) Reg.ISL_WATCH_STATE w (if was then 0 else 1)
      (setFi (pgIsl i) Reg.ISL_WATCH_PAIR_RUN w 0 (setFi (pgIsl i) Reg.ISL_WATCH_CLIP_RUN w 0 s))
  showValid i s

/-! ### The safe state (R326, R330) -/

/-- SAFE_N_IN_ASSERT: the input has been low for 10 µs; both islands record it and it is their trigger (R326). -/
def execSafeNInAssert (t : Nat) (s : State) : Host.Outcome State Fault Refusal :=
  .next (
    let s := { s with clap := { s.clap with safeIn := false } }
    [0, 1].foldl (fun s i => if islUp s i then trigger i 4 t (record (pgIsl i) 0x5A s) else s) (at_ t s))

/-- A write of ISL.CTL.SAFE_REQ by firmware: cause 5 in the island in charge, 6 in the monitor. -/
def islSafeReq (i t : Nat) (s : State) : State := trigger i (if islandInCharge s = some i then 5 else 6) t s

/-- ISL_SAFE_REQ (R330). -/
def execIslSafeReq (i t : Nat) (s : State) : Host.Outcome State Fault Refusal := .next (islSafeReq i t (at_ t s))

/-! ### CAN FD (R333 to R335) -/

/-- CAN_STATUS_PERIOD: a STATUS frame goes onto CAN_0 (R334). -/
def execCanStatusPeriod (i : Nat) (s : State) : Host.Outcome State Fault Refusal :=
  .next (if islUp s i then queueFrame i 0 1 s else s)

/-- SSF_PERIOD: while the safe state lasts, the island in charge repeats the SAFE_STATE frame (R334). -/
def execSsfPeriod (i ch t : Nat) (s : State) : Host.Outcome State Fault Refusal :=
  .next (
    if islUp s i ∧ ch < 2 ∧ islandInCharge s = some i ∧ flag s (pgIsl i) Reg.ISL_STAT_SAFE ∧ (islOf s i).ssf then
      queueFrame i ch 2 (at_ t s)
    else s)

/-- CAN_SSF_LATE: the SAFE_STATE frame is not complete 2.0 ms after t0 (R335). -/
def execCanSsfLate (i ch t : Nat) (s : State) : Host.Outcome State Fault Refusal :=
  .next (
    match (canOf s i ch).ssf with
    | some (t0, false) =>
      if islUp s i ∧ ch < 2 ∧ t0 + 2000000 ≤ t then
        modCan i ch (fun c => { c with ssf := some (t0, true) })
          (bumpI (pgIsl i) Reg.ISL_CAN_SSF_LATE ch 1 (record (pgIsl i) 0x5B (at_ t s)))
      else s
    | _ => s)

/-- CAN_FRAME_COMPLETE: a queued frame has been transmitted; a SAFE_STATE frame counts, and its retries end (R335). -/
def execCanFrameComplete (i ch : Nat) (f : CanFrame) (t : Nat) (s : State) : Host.Outcome State Fault Refusal :=
  .next (
    if i < 2 ∧ ch < 2 ∧ (canOf s i ch).queue.contains f ∧ flagI s (pgIsl i) Reg.ISL_CAN_BUS_OFF ch = false then
      let s := emit (.can i ch f) (modCan i ch (fun c => { c with queue := c.queue.erase f }) (at_ t s))
      let s := setFi (pgIsl i) Reg.ISL_CAN_TEC ch (getFi s (pgIsl i) Reg.ISL_CAN_TEC ch - 1) s
      if f.data.take 1 = leBytes 1 2 then
        modCan i ch (fun c => { c with ssf := none }) (bumpI (pgIsl i) Reg.ISL_CAN_SSF_SENT ch 1 s)
      else s
    else s)

/-- CAN_BUS_OFF: the channel's error counter has passed 255, by at most the 8 of one error (R333). -/
def execCanBusOff (i ch : Nat) (s : State) : Host.Outcome State Fault Refusal :=
  .next (
    if islUp s i ∧ ch < 2 ∧ flagI s (pgIsl i) Reg.ISL_CAN_BUS_OFF ch = false then
      let f := drawFree 3 s
      record (pgIsl i) 0x5F (setFi (pgIsl i) Reg.ISL_CAN_TEC ch (256 + f.1) (setFi (pgIsl i) Reg.ISL_CAN_BUS_OFF ch 1 f.2))
    else s)

/-- CAN_BUS_OFF_RECOVERY: after 128 occurrences of 11 recessive bits (R333). -/
def execCanBusOffRecovery (i ch : Nat) (s : State) : Host.Outcome State Fault Refusal :=
  .next (
    if islUp s i ∧ ch < 2 ∧ flagI s (pgIsl i) Reg.ISL_CAN_BUS_OFF ch then
      setFi (pgIsl i) Reg.ISL_CAN_TEC ch 0 (setFi (pgIsl i) Reg.ISL_CAN_BUS_OFF ch 0 s)
    else s)

/-- Is a frame one that the subset of R333 supports: a classical frame of at most 8 bytes without bit-rate switching or
an FD frame of at most 64, with an 11-bit or a 29-bit identifier. -/
def canSupported (f : CanFrame) : Bool :=
  decide (f.ident < (if f.ide then 2 ^ 29 else 2 ^ 11)) &&
    (if f.fd then decide (f.data.length ≤ 64) else decide (f.data.length ≤ 8) && !f.brs)

/-- CAN_RECEIVE: a frame that the acceptance filters accept is received (R333; log entry 37). -/
def execCanReceive (i ch : Nat) (f : CanFrame) (s : State) : Host.Outcome State Fault Refusal :=
  .next (
    if islUp s i ∧ ch < 2 ∧ flagI s (pgIsl i) Reg.ISL_CAN_BUS_OFF ch = false ∧ canSupported f ∧ Config.canFilter i ch f then
      modCan i ch (fun c => { c with rx := c.rx ++ [f] }) s
    else s)

end Sys2Proof.Machine
end

