-- ==== Sys2Proof/Machine/Clapper.lean ====
section
/-! DEFINITION. The Clapper in the hub: claims, confirm, break and grant, heartbeats and lapse, and the safe state as the
hub holds it (R316 to R322, R330 to R332). -/

namespace Sys2Proof.Machine

open Sys2Proof

/-! ### The token -/

/-- STATE of the Clapper: 0 FREE, 1 HELD, 2 OFFERED, 3 GRANTING, 4 LAPSED. -/
def clapState (s : State) : Nat := getF s pgClap Reg.CLAP_STAT_STATE

/-- The holder or last holder. -/
def clapHolder (s : State) : Nat := getF s pgClap Reg.CLAP_STAT_HOLDER

/-- Change the Clapper beside its registers. -/
def modClap (f : Clap → Clap) (s : State) : State := { s with clap := f s.clap }

/-- Move the token to a state at time `t`: while no island is in charge after the first grant, the time since when is
kept (R330). -/
def setClapState (st t : Nat) (s : State) : State :=
  modClap (fun c => { c with idle := if st = 1 ∨ st = 2 ∨ !c.granted then none else some (c.idle.getD t) })
    (setF pgClap Reg.CLAP_STAT_STATE st s)

/-- A write of a CLAP register by an island that the register names; another writer records 0x52. -/
def asIsland (off : Nat) (who : Agent) (ok : Bool) (f : State → State) (s : State) : State :=
  asGuarded pgClap off who (fun s => if ok then f s else record pgClap 0x52 s) s

/-! ### Claim, confirm and grant (R316, R318 to R320) -/

/-- A claim of island i is accepted out of state `prior`: the token is GRANTING and the winner gets an OFFER. -/
def beginGrant (i e prior t : Nat) (s : State) : State :=
  let s := modClap (fun c => { c with claims := [], claim := some (i, e, prior), confirmed := none }) s
  emit (.island i (.offer e)) (setClapState 3 t s)

/-- Is a claim of epoch e by island i refused in this state (R318). -/
def claimRefused (s : State) (i e : Nat) : Bool :=
  let st := clapState s
  decide (e < getF s pgClap Reg.CLAP_FLOOR) || st = 1 || st = 3 ||
    ((st = 2 || st = 4) && (i = clapHolder s || decide (e ≠ (getF s pgClap Reg.CLAP_EPOCH + 1) % 2 ^ 32)))

/-- A claim of island i: in FREE it is gathered, a later claim of the island replacing its first; in OFFERED and LAPSED it
wins at once (R319). -/
def claim (i e t : Nat) (s : State) : State :=
  if flag s (pgIsl i) Reg.ISL_STAT_MODE ∧ flag s pgClap Reg.CLAP_CFG_SPLIT_OK = false then record pgClap 0x5C s
  else if claimRefused s i e then record pgClap 0x52 s
  else if clapState s = 0 then
    modClap (fun c => { c with
      claims := (i, e) :: c.claims.filter (fun x => x.1 ≠ i),
      since := if c.claims = [] then t else c.since }) s
  else beginGrant i e (clapState s) t s

/-- CLAP_CLAIM (R318). -/
def execClapClaim (by_ : Agent) (i : Nat) (e : Word) (t : Nat) (s : State) : Host.Outcome State Fault Refusal :=
  .next (if i < 2 then asIsland (0x64 + 4 * i) by_ (by_ = .island i) (claim i e.toNat t) (at_ t s) else s)

/-- The winner of claims in FREE: the higher epoch; on equal epochs SI_A on an even and SI_B on an odd one (R319). -/
def arbitrate : List (Nat × Nat) → Option (Nat × Nat)
  | [] => none
  | [x] => some x
  | x :: y :: _ =>
    if x.2 > y.2 then some x
    else if y.2 > x.2 then some y
    else some (x.2 % 2, x.2)

/-- CLAP_ARBITRATE: 10 µs after the first claim the hub arbitrates; the loser gets a DENY with the winning epoch. -/
def execClapArbitrate (t : Nat) (s : State) : Host.Outcome State Fault Refusal :=
  .next (
    match arbitrate s.clap.claims with
    | some (i, e) =>
      if clapState s = 0 ∧ s.clap.since + 10000 ≤ t then
        let losers := s.clap.claims.filter (fun x => x.1 ≠ i)
        beginGrant i e 0 t (losers.foldl (fun s x => emit (.island x.1 (.deny e)) s) (at_ t s))
      else s
    | none => s)

/-- The grant of the claim in GRANTING (R318, R320). -/
def grantClapper (t : Nat) (s : State) : State :=
  match s.clap.claim with
  | some (i, e, _) =>
    let s := modClap (fun c => { c with
      claim := none, confirmed := none, rel := false, hb := false, live := [false, false], missed := [0, 0], granted := true }) s
    let s := setF pgClap Reg.CLAP_STAT_MISSED 0 (setF pgClap Reg.CLAP_STAT_HOLDER i (setClapState 1 t s))
    let s := setF pgClap Reg.CLAP_FLOOR (e + 1) (setF pgClap Reg.CLAP_EPOCH e s)
    showMon (record pgClap 0x54 (emit (.island i (.grant e)) (bump pgClap Reg.CLAP_PASSES 1 s)))
  | none => s

/-- The winner's CONFIRM: from FREE and LAPSED the grant follows at once; from OFFERED the former holder is revoked if its
latch can still be set, and the grant waits for it. A confirm that fits no claim records 0x52. -/
def confirm (i e t : Nat) (s : State) : State :=
  match s.clap.claim, s.clap.confirmed with
  | some (j, e', prior), none =>
    if i = j ∧ e = e' then
      if prior ≠ 2 ∨ s.clap.rel then grantClapper t s
      else emit (.island (clapHolder s) .revoke) (modClap (fun c => { c with confirmed := some t }) s)
    else record pgClap 0x52 s
  | _, _ => record pgClap 0x52 s

/-- CLAP_CONFIRM (R320). -/
def execClapConfirm (by_ : Agent) (i : Nat) (e : Word) (t : Nat) (s : State) : Host.Outcome State Fault Refusal :=
  .next (if i < 2 then asIsland (0x6C + 4 * i) by_ (by_ = .island i) (confirm i e.toNat t) (at_ t s) else s)

/-- CLAP_CONFIRM_TIMEOUT: the token returns to its former state (R317, R320). -/
def execClapConfirmTimeout (s : State) : Host.Outcome State Fault Refusal :=
  .next (
    match s.clap.claim, s.clap.confirmed with
    | some (_, _, prior), none =>
      record pgClap 0x55 (setClapState prior s.io.now (modClap (fun c => { c with claim := none }) s))
    | _, _ => s)

/-- HOLD_REL written by the latch hardware of island i: of the former holder, it lets the grant go out (R320). -/
def holdRel (i t : Nat) (s : State) : State :=
  if i = clapHolder s ∧ s.clap.granted then
    if s.clap.confirmed.isSome then grantClapper t s else modClap (fun c => { c with rel := true }) s
  else s

/-- CLAP_HOLD_REL (R320). -/
def execClapHoldRel (by_ : Agent) (t : Nat) (s : State) : Host.Outcome State Fault Refusal :=
  .next (
    match by_ with
    | .islandHw i => holdRel i t (at_ t s)
    | _ => asIsland 0x80 by_ false id (at_ t s))

/-- CLAP_GRANT_TIMEOUT: 510 µs after CONFIRM (R320). -/
def execClapGrantTimeout (t : Nat) (s : State) : Host.Outcome State Fault Refusal :=
  .next (
    match s.clap.confirmed with
    | some c => if c + 510000 ≤ t then grantClapper t (at_ t s) else s
    | none => s)

/-- A write of CTL.RELEASE: from the holder in HELD while MON_READY is set, else refused with 0x52 (R317, R318). -/
def releaseClap (who : Agent) (t : Nat) (s : State) : State :=
  if clapState s = 1 ∧ inCharge s who ∧ flag s pgClap Reg.CLAP_STAT_MON_READY then setClapState 2 t s
  else record pgClap 0x52 s

/-- CLAP_RELEASE (R317). -/
def execClapRelease (by_ : Agent) (t : Nat) (s : State) : Host.Outcome State Fault Refusal :=
  .next (asGuarded pgClap 0x40 by_ (releaseClap by_ t) (at_ t s))

/-- CLAP_OFFER_TIMEOUT (R317). -/
def execClapOfferTimeout (s : State) : Host.Outcome State Fault Refusal :=
  .next (if clapState s = 2 then setClapState 1 s.io.now s else s)

/-! ### Heartbeats and lapse (R321, R322) -/

/-- Does the holder still hold the Clapper for its heartbeats: HELD, OFFERED, or GRANTING before the CONFIRM of a claim
out of OFFERED (R320, R321). -/
def beats (s : State) : Bool :=
  clapState s = 1 || clapState s = 2 ||
    (match s.clap.claim, s.clap.confirmed with | some (_, _, 2), none => true | _, _ => false)

/-- The holder lapses: the token is LAPSED (a claim under way stands, now out of LAPSED), and the other island is told. -/
def lapse (t : Nat) (s : State) : State :=
  let s := match s.clap.claim with
    | some (i, e, _) => modClap (fun c => { c with claim := some (i, e, 4) }) s
    | none => setClapState 4 t s
  emit (.island (1 - clapHolder s) .lapsed) (record pgClap 0x53 (bump pgClap Reg.CLAP_LAPSES 1 s))

/-- A heartbeat write of island i (R321). -/
def heartbeat (i : Nat) (s : State) : State :=
  if beats s ∧ i = clapHolder s then
    emit (.island i .ack) (setF pgClap Reg.CLAP_STAT_MISSED 0 (modClap (fun c => { c with hb := true }) s))
  else emit (.island i .error) s

/-- CLAP_HEARTBEAT (R321). -/
def execClapHeartbeat (by_ : Agent) (i : Nat) (s : State) : Host.Outcome State Fault Refusal :=
  .next (if i < 2 then asIsland (0x54 + 4 * i) by_ (by_ = .island i) (heartbeat i) s else s)

/-- What the end of a period does to the holder. -/
def holderPeriod (t : Nat) (s : State) : State :=
  if beats s then
    if s.clap.hb then modClap (fun c => { c with hb := false }) s
    else
      let n := satAdd 2 (getF s pgClap Reg.CLAP_STAT_MISSED) 1
      let s := setF pgClap Reg.CLAP_STAT_MISSED n s
      if n = 3 then lapse t s else s
  else s

/-- What it does to the count of an island's missed periods as monitor. -/
def livePeriod (s : State) : State :=
  showMon (modClap (fun c => { c with
    missed := (List.range 2).map (fun i => if c.live.getD i false then 0 else Nat.min 3 (nth0 c.missed i + 1)),
    live := [false, false] }) s)

/-- HEARTBEAT_PERIOD_END: the grid starts at each grant (R321, R322). -/
def execHeartbeatPeriodEnd (t : Nat) (s : State) : Host.Outcome State Fault Refusal :=
  .next (if s.clap.granted then livePeriod (holderPeriod t (at_ t s)) else s)

/-- A LIVE write of island i (R322). -/
def live (i : Nat) (s : State) : State :=
  emit (.island i .ack) (showMon (modClap (fun c => { c with live := c.live.set i true, missed := c.missed.set i 0 }) s))

/-- CLAP_LIVE (R322). -/
def execClapLive (by_ : Agent) (i : Nat) (s : State) : Host.Outcome State Fault Refusal :=
  .next (if i < 2 then asIsland (0x5C + 4 * i) by_ (by_ = .island i) (live i) s else s)

/-- ABDICATE written by the fault logic of island i (R321). -/
def abdicate (i t : Nat) (s : State) : State := if beats s ∧ i = clapHolder s then lapse t s else s

/-- CLAP_ABDICATE (R321). -/
def execClapAbdicate (by_ : Agent) (t : Nat) (s : State) : Host.Outcome State Fault Refusal :=
  .next (
    match by_ with
    | .islandHw i => abdicate i t (at_ t s)
    | _ => asIsland 0x7C by_ false id (at_ t s))

/-! ### The safe state (R330 to R332) -/

/-- The hub enters the safe state: SAFE with its cause, 0x58, SAFE messages, SAFE_N_OUT low (R331). -/
def enterSafe (cause : Nat) (s : State) : State :=
  let s := setF pgClap Reg.CLAP_STAT_CAUSE cause (setF pgClap Reg.CLAP_STAT_SAFE 1 s)
  let s := record pgClap 0x58 (bump pgClap Reg.CLAP_SAFE_ENTRIES 1 s)
  let s := emit (.island 1 (.safe cause)) (emit (.island 0 (.safe cause)) s)
  emit (.safeOut false) (modClap (fun c => { c with safeBars := 0, safeOut := false }) s)

/-- A request of island i: honoured from the island in charge, and from the monitor with MON_SAFE; else counted (R330). -/
def safeRequest (i cause : Nat) (s : State) : State :=
  if safeState s then s
  else if islandInCharge s = some i ∨ flag s pgClap Reg.CLAP_CFG_MON_SAFE then enterSafe cause s
  else bump pgClap Reg.CLAP_MON_REQS 1 s

/-- CLAP_SAFE_REQ (R330): the causes that an island detects are 1 to 6. -/
def execClapSafeReq (by_ : Agent) (i cause t : Nat) (s : State) : Host.Outcome State Fault Refusal :=
  .next (
    if i < 2 ∧ 1 ≤ cause ∧ cause ≤ 6 then
      if by_ = .islandHw i then safeRequest i cause (at_ t s)
      else asIsland (0x74 + 4 * i) by_ (by_ = .island i) (safeRequest i cause) (at_ t s)
    else s)

/-- NO_ISLAND_TIMEOUT: no island in charge for 2 ms after the first grant (R330, cause 7). -/
def execNoIslandTimeout (t : Nat) (s : State) : Host.Outcome State Fault Refusal :=
  .next (
    match s.clap.idle with
    | some u => if u + 2000000 ≤ t ∧ safeState s = false then enterSafe 7 (at_ t s) else s
    | none => s)

/-- The level of SAFE_N_IN now: high until it has been asserted; no command brings its rise, so that after an assertion it
is a free value until it has been found high (log entry 19). -/
def readSafeIn (s : State) : Bool × State :=
  if s.clap.safeIn then (true, s)
  else
    let f := drawFree 1 s
    (f.1 = 1, modClap (fun c => { c with safeIn := decide (f.1 = 1) }) f.2)

/-- May the safe state be left: in it for SAFE_HOLD bars, SAFE_N_IN high, the SAFETY watches of the island in charge
CURRENT, and the token HELD (R332). -/
def safeExitOk (s : State) (who : Agent) (high : Bool) : Bool :=
  safeState s && high && clapState s = 1 && inCharge s who && safetyCurrent s (clapHolder s) &&
    decide (getF s pgClap Reg.CLAP_CFG_SAFE_HOLD ≤ s.clap.safeBars)

/-- The safe state ends: SAFE and both SAFE latches clear, SAFE_N_OUT goes high, 0x59, and the island in charge sends the
frame once more (R332, R334). -/
def leaveSafe (s : State) : State :=
  let s := setF pgClap Reg.CLAP_STAT_CAUSE 0 (setF pgClap Reg.CLAP_STAT_SAFE 0 s)
  let s := [0, 1].foldl (fun s i =>
    showValid i (modIsl i (fun x => { x with cause := 0, ssf := false }) (setF (pgIsl i) Reg.ISL_STAT_SAFE 0 s))) s
  let s := record pgClap 0x59 (emit (.safeOut true) (modClap (fun c => { c with safeOut := true }) s))
  queueFrame (clapHolder s) 1 2 (queueFrame (clapHolder s) 0 2 s)

/-- A write of CTL.SAFE_CLR (R332). -/
def clearSafe (who : Agent) (s : State) : State :=
  let r := readSafeIn s
  if safeExitOk r.2 who r.1 then leaveSafe r.2 else record pgClap 0x5E r.2

/-- SAFE_CLR (R332). -/
def execSafeClr (by_ : Agent) (s : State) : Host.Outcome State Fault Refusal := .next (asGuarded pgClap 0x40 by_ (clearSafe by_) s)

/-! ### A write of a CLAP register by offset -/

/-- A write of a word of the CLAP page at 0x054 to 0x080: the action of its register for the writer that it names. -/
def writeClap (who : Agent) (off v t : Nat) (s : State) : State :=
  let hw := match who with | .islandHw j => some j | _ => none
  let j := if off = 0x54 ∨ off = 0x5C ∨ off = 0x64 ∨ off = 0x6C ∨ off = 0x74 then 0 else 1
  if off = 0x7C then (match hw with | some k => abdicate k t s | none => asIsland off who false id s)
  else if off = 0x80 then (match hw with | some k => holdRel k t s | none => asIsland off who false id s)
  else if off = 0x54 ∨ off = 0x58 then asIsland off who (who = .island j) (if v.testBit 0 then heartbeat j else id) s
  else if off = 0x5C ∨ off = 0x60 then asIsland off who (who = .island j) (if v.testBit 0 then live j else id) s
  else if off = 0x64 ∨ off = 0x68 then asIsland off who (who = .island j) (claim j v t) s
  else if off = 0x6C ∨ off = 0x70 then asIsland off who (who = .island j) (confirm j v t) s
  else asIsland off who (who = .island j)
    (if v.testBit 0 then safeRequest j (if islandInCharge s = some j then 5 else 6) else id) s

end Sys2Proof.Machine
end

