-- ==== Sys2Proof/Machine/Checks.lean ====
section
/-! DEFINITION. The admission conditions on strokes, descriptors, fusion jobs and PPU jobs (R60, R61, R95 to R103, R115,
R133, R137, R140 to R142, R152 to R161, R176 to R192, R195 to R210, R243, R269, R280, R448, R449, R465, R468). -/

namespace Sys2Proof.Machine

open Sys2Proof

/-- The lowest code among the conditions that hold (R465). -/
def lowest (l : List (Bool × Nat)) : Option Nat := ((l.filter (·.1)).map (·.2)).min?

/-- The engine mask of group g on CD_d by the pending bank, 0 where it is not defined. -/
def groupMask (s : State) (d g : Nat) : Nat :=
  let m := getFi s (pgSch d) Reg.SCH_GROUP_PEND g
  if inService s d = false then 0
  else if (bitsSet 16 m).any (fun k => (getF s (pgSch d) Reg.SCH_SLEEP_PEND).testBit k) then 0
  else m

/-- The engines of a stroke's GROUP on CD_d by the pending bank; none where the group is not defined (R61, R124, R125). -/
def pendEngs (s : State) (k : Stroke) (d : Nat) : List Nat := bitsSet 16 (groupMask s d (stGroup k))

/-! ### Strokes (R60, R61) -/

/-- Are the fields of a stroke those of its operation (R61). -/
def fieldsOk (s : State) (k : Stroke) : Bool :=
  let op := stOp k
  let run := stIsRun k
  let part := stF k 30 2 = 0 && stF k 76 4 = 0 && stClass k ≠ 3 &&
    (if op ≤ 8 then flagI s pgPrt Reg.PRT_CTL_ENABLE (stPart k) else stPart k = 0)
  let cls := op < 8 || stClass k = 0
  let due := op < 8 || (stDue k = 0 && stNextbar k = 0)
  let budget :=
    if run || op = 6 then 1 ≤ stBudget k
    else if op = 3 then stBudget k ≤ 65534
    else if op = 8 then true else stBudget k = 0
  let dies :=
    if op = 1 || op = 4 then stDies k ≠ 0 else if op = 2 then (stDieList k).length = 2 else stDies k = 0
  let group :=
    if run || op = 4 then (stDieList k).all (fun d => groupMask s d (stGroup k) ≠ 0) else stGroup k = 0
  let desc := run || (5 ≤ op && op ≤ 7) || stDesc k = 0
  let stream := if op = 3 then stStream k ≤ 23 else stStream k = 0
  part && cls && due && budget && dies && group && desc && stream

/-- R60 and R61. -/
def strokeCode (s : State) (k : Stroke) : Option Nat :=
  if stOp k = 0 ∨ 10 < stOp k then some 0x20 else if fieldsOk s k then none else some 0x21

/-! ### Addresses (R269, R280) -/

/-- The code of an access that a table fixes: 0x09 outside its space or the map, the lower code, then 0x0A outside the windows
(R269, R279, R280, R465; log entry 20). -/
def fixedCode (s : State) (d p : Nat) (x : MemAcc) : Option Nat :=
  if x.len = 0 ∨ x.sp = 3 then none
  else
    match accAddr d x with
    | none => some 0x09
    | some a =>
      if (touched a x.len).any (fun e => e.2.2 = .reserved || e.2.2 = .control) then some 0x09
      else if windowsPass (windowsWritten s p) x.wr a x.len then none else some 0x0A

/-- Does OWNER of a page turn a partition's stroke away (R449). -/
def ownedByOther (s : State) (q : Page) (p : Nat) : Bool :=
  let o := getF s q Reg.HDR_OWNER
  pageCap q 2 && o ≠ 0xFF && o ≠ p

/-- Is the block of a page gated or about to be (R448). -/
def gatedPage (s : State) (q : Page) : Bool :=
  pageCap q 0 && (flag s q Reg.HDR_PAGE_CTL_ENABLE = false || flag s q Reg.HDR_PAGE_STAT_GATED)

/-! ### Descriptors -/

/-- A BF16 word as FP32. -/
def b16 (n : Nat) : Word := bf16ToF32 n

/-- Is an FP32 word at least 0 and finite. -/
def nonNegF (w : Word) : Bool := finF w && (w.toNat < 2 ^ 31 || w.toNat = 2 ^ 31)

/-- Is an FP32 word at least 0 and below 1. -/
def below1F (w : Word) : Bool := nonNegF w && (w.toNat < 0x3F800000 || w.toNat = 2 ^ 31)

/-- A region of the tile: first byte and length. -/
abbrev TileRegion := Nat × Nat

/-- The tile region of operand `x` of `len` bytes: staged at TOFF, or named in space 3. -/
def tileRegion (r : List Byte) (x len : Nat) : TileRegion := ((if dSp r x = 3 then dAddr r x else dToff r x) * 64, len)

/-- Do regions lie in the 4 MiB tile without overlap (R102). -/
def tileOk (l : List TileRegion) : Bool :=
  let l := l.filter (fun x => x.2 ≠ 0)
  l.all (fun x => x.1 + x.2 ≤ 2 ^ 22) &&
  (l.zipIdx).all (fun x => (l.zipIdx).all (fun y => x.2 = y.2 || x.1.1 + x.1.2 ≤ y.1.1 || y.1.1 + y.1.2 ≤ x.1.1))

/-- Staged bytes of a matrix (R101, R133). -/
def stagedLen (m : Mat) : Nat := m.rows * rowPitch m.fmt m.cols

/-- The tile regions of a descriptor, by operand (R102, R159, R182, R190). -/
def tileRegions (r : List Byte) : List TileRegion :=
  let k := dKind r
  let d := tileRegion r 3 (dLen r * 64)
  if k = 1 then [tileRegion r 0 (stagedLen (gemmA r)), tileRegion r 1 (stagedLen (gemmB r)), tileRegion r 2 (stagedLen (gemmC r)), d]
  else if k = 7 then
    [tileRegion r 0 (vRows r * rowPitch (dFmtA r) (vCols r)),
     tileRegion r 1 (if vReadsB r then vRows r * rowPitch (dFmtB r) (vCols r) else 0),
     tileRegion r 2 (vRows r * rowPitch (dFmtC r) (vCols r)), tileRegion r 3 (if vReadsD r then dLen r * 64 else 0)]
  else if k = 8 then
    (if dSp r 0 = 3 then [(dAddr r 0 * 64, mvLen r * 64)] else []) ++ (if dSp r 2 = 3 then [(dAddr r 2 * 64, mvLen r * 64)] else [])
  else if k = 2 then
    let g := geoDirect r
    [tileRegion r 1 (stagedLen (convB r g)), d, tileRegion r 2 (g.oh * g.ow * rowPitch (dFmtC r) g.cout)]
  else if k = 4 then [tileRegion r 1 (stagedLen (convB r (geoSpectral r))), d]
  else if k = 5 ∨ k = 6 then [(dToff r 0 * 64, 2 ^ 20), d]
  else []

/-- Are the reserved bits of a descriptor zero (R98, R100, R158, R181, R187, R190, R205). -/
def reservedOk (r : List Byte) : Bool :=
  let z := fun off lo w => dF r off lo w = 0
  let k := dKind r
  z 0 30 2 && z 4 6 2 && z 4 20 4 && z 0x0C 18 14 && z 0x14 18 14 && z 0x1C 18 14 && z 0x24 18 14 &&
  (if k = 1 then z 0x2C 19 13 && z 0x38 0 32 && z 0x3C 0 32
   else if k = 7 then z 0x2C 8 24 && z 0x30 0 32 && z 0x34 0 16 && z 0x38 0 32 && z 0x3C 0 32
   else if k = 8 then z 0x2C 0 32 && z 0x30 0 32 && z 0x34 0 32 && z 0x38 0 32 && z 0x3C 0 32
   else if k = 2 then z 0x2C 10 1 && z 0x2C 27 5 && z 0x34 5 3
   else if k = 3 then z 0x2C 13 19 && z 0x30 24 8 && z 0x34 26 6
   else if k = 4 then z 0x2C 21 11 && z 0x30 30 2 && z 0x34 11 5 && z 0x38 8 24 && z 0x3C 0 32
   else if k = 5 ∨ k = 6 then z 0x2C 7 1 && z 0x2C 14 18 && z 0x34 0 16
   else if k = 9 then z 0x28 30 2 && z 0x38 16 16 && z 0x3C 0 32
   else true)

/-- The fields of operand `x` other than its format, all zero. -/
def opndZero (r : List Byte) (x : Nat) : Bool := dAddr r x = 0 && dToff r x = 0 && dSp r x = 0

/-- Two element formats that a product may pair (R95, R137). -/
def pairOk (a b : Nat) : Bool :=
  isIntFmt a = isIntFmt b &&
  (!(isMx a || isMx b) || a = b || (a = 7 && b = 8) || (a = 8 && b = 7) || (a = 9 && b = 10) || (a = 10 && b = 9))

/-- INT32 output (R137). -/
def int32Bad (r : List Byte) : Bool :=
  dFmtC r = 12 && !(dFmtA r ≤ 1 && dFmtB r ≤ 1 && dEpi r = 0 && dLen r = 0)

/-- R140: DLEN for `n` output channels. -/
def dlenOk (r : List Byte) (n : Nat) : Bool :=
  let req := (if dEpi r ≠ 0 then vecUnits n else 0) + (if dQtrk r ≠ 0 then vecUnits n else 0)
  dLen r = req || dLen r = req + vecUnits n

/-- The bounds of the geometry of a convolution or pooling (R178, R181, R186, R187, R188, R190). -/
def geoChecks (r : List Byte) (g : Geo) (kmax smax cmax omax : Nat) (kmin : Nat) : List (Bool × Nat) :=
  let spectral := dKind r = 4
  let seg := ((g.ow - 1) * g.sx + g.kw) * (ceilDiv g.cin g.blk * g.blk) * elemBits (dFmtA r) / 8
  [(g.ih = 0 || g.iw = 0, 0x31), (!spectral && (g.oh = 0 || g.ow = 0), 0x31),
   (g.ih + g.pt + g.pb < g.kh || g.iw + g.pl + g.pr < g.kw, 0x31),
   (g.kh < kmin || g.kw < kmin || kmax < g.kh || kmax < g.kw || g.sy = 0 || g.sx = 0 || smax < g.sy || smax < g.sx, 0x32),
   (g.kh ≤ g.pt || g.kh ≤ g.pb || g.kw ≤ g.pl || g.kw ≤ g.pr, 0x32),
   (g.cin = 0 || g.cout = 0 || cmax < g.cin || omax < g.cout, 0x32), (g.mode = 3, 0x32),
   (!spectral && (outH g < g.oy0 + g.oh || outW g < g.ox0 + g.ow), 0x32),
   (dSp r 0 = 3 || dSp r 2 = 3, 0x32), (!spectral && (65536 < seg || 16 < g.kh + g.sy), 0x32)]

/-- The gate before a Hard line-fed stroke: the line of its last WAIT_LINES on the stream (R184). -/
def gateLine (table : List Stroke) (idx p sm : Nat) : Option Nat :=
  (((table.take idx).filter (fun k => stOp k = 3 && stPart k = p && stStream k = sm)).getLast?).map stBudget

/-- A line-fed descriptor (R184, R186, R449). -/
def lineChecks (s : State) (table : List Stroke) (idx : Nat) (k : Stroke) (g : Geo) : List (Bool × Nat) :=
  let q := pgIng g.stream
  if g.line = false then [(g.stream ≠ 0, 0x32)]
  else
    [(23 < g.stream, 0x32), (7 < g.kh || 7 < g.kw, 0x32), (stNextbar k = 1, 0x32), (getF s q Reg.ING_CTL_KIND ≠ 1, 0x32),
     (stClass k = 0 && (match gateLine table idx (stPart k) g.stream with
        | none => true
        | some l => l < lastLine g && getF s q Reg.ING_LINE_MAX = 0), 0x32),
     (g.stream ≤ 23 && ownedByOther s q (stPart k), 0x0A)]

/-- The fixed part of a sequence entry: QMAX, TOK_ROW, BUCKET, the reserved bits, and ATTN_BWD's KV_ROW (R160). -/
def fixedEnts (s : State) (w : Who) (r : List Byte) : List SeqEnt := seqEnts s w r

/-- Do the TOK_ROW ranges of two sequences overlap. -/
def tokOverlap (qs : List SeqEnt) : Bool :=
  (qs.zipIdx).any (fun a => (qs.zipIdx).any (fun b => a.2 < b.2 &&
    (a.1.tokRow < b.1.tokRow + b.1.qmax && b.1.tokRow < a.1.tokRow + a.1.qmax)))

/-- R161. -/
def attnChecks (s : State) (w : Who) (r : List Byte) : List (Bool × Nat) :=
  let fwd := dKind r = 5
  let qs := fixedEnts s w r
  let ent := dBytes s w r (16 * aNseq r)
  let fp8 := fun c => c = 2 || c = 3
  let half := fun c => c = 4 || c = 5
  let sc := aScale r
  [(aDH r = 0 || aNseq r = 0 || qs.any (fun q => q.qmax = 0), 0x31),
   (aDH r % 16 ≠ 0 || 256 < aDH r || 64 < aNseq r, 0x32),
   (qs.any (fun q => 9 < q.bucket || 65536 < (q.tokRow + q.qmax) * aG r), 0x32),
   ((List.range (aNseq r)).any (fun j => bitsOf (leNat ((ent.drop (16 * j)).take 16)) 44 4 ≠ 0), 0x32),
   (!finF sc || sc.toNat % 2 ^ 31 = 0, 0x32), (dLen r < ceilDiv (16 * aNseq r) 64, 0x32),
   (!opndZero r 1 || dToff r 2 ≠ 0, 0x32),
   (!fwd && aAppend r, 0x32),
   (!fwd && !aSave r && (dAddr r 2 ≠ 0 || aAux1 r ≠ 0), 0x32),
   (fwd && !aSave r && aStat r ≠ 0, 0x32),
   (fwd && !aAppend r && (aAux0 r ≠ 0 || aAux1 r ≠ 0 || qs.any (fun q => q.last ≠ 0)), 0x32),
   (dSp r 0 = 3 || dSp r 2 = 3 || aStatSp r = 3 || aAuxSp r = 3, 0x32), (tokOverlap qs, 0x32),
   (!(fp8 (dFmtA r) || half (dFmtA r)) || !(fp8 (dFmtB r) || half (dFmtB r)) || fp8 (dFmtA r) ≠ fp8 (dFmtB r), 0x34),
   (fwd && !(fp8 (dFmtC r) || half (dFmtC r) || dFmtC r = 13), 0x34),
   (!fwd && (dFmtC r ≠ 13 || fp8 (dFmtA r) || fp8 (dFmtB r)), 0x34),
   (dQtrk r ≠ 0, 0x38)]

/-- Does a range lie inside one OPEN learned region. -/
def inOpenRegion (s : State) (a len : Nat) : Bool :=
  (List.range 8).any (fun n => lregState s n = 1 && (lregRange s n).1 ≤ a && a + len ≤ (lregRange s n).1 + (lregRange s n).2)

/-- Does a range touch a learned region. -/
def touchesAny (s : State) (a len : Nat) : Bool := (List.range 8).any (fun n => touchesLreg s n a len)

/-- A descriptor as admission replays it: no state of the stroke yet. -/
def planWork (k : Stroke) (i : Nat) (r : List Byte) : Work :=
  ⟨0, 0, stPart k, 0, stOp k = 2, 0, i, r, false, false, [], 0, 0, false⟩

/-- R205 and R209; `apart` says that an APPLY's CHECK stands apart from it as R209 asks. -/
def optChecks (s : State) (d : Nat) (r : List Byte) (apart : Bool) : List (Bool × Nat) :=
  let m := oMode r
  let n := oCount r
  let flt := fun c => c = 4 || c = 5 || c = 13
  let rng := fun x len => accAddr d ⟨true, dSp r x, dAddr r x * 64, len⟩
  let cl := packedLen (dFmtC r) n
  let bl := n * (if oAdam r then 8 else 4)
  let open_ := fun (a : Option Nat) len => match a with | some a => inOpenRegion s a len | none => true
  [(n = 0, 0x31), (m = 3, 0x32), (dSp r 0 = 3 || dSp r 1 = 3 || dSp r 2 = 3, 0x32),
   (!opndZero r 3 || dQtrk r ≠ 0 || dEpi r ≠ 0 || dToff r 0 ≠ 0 || dToff r 1 ≠ 0 || dToff r 2 ≠ 0, 0x32),
   (m ≠ 2 && dAddr r 1 ≠ 0, 0x32), (m = 1 && dAddr r 2 ≠ 0, 0x32),
   (!nonNegF (oLr r) || !below1F (oBeta1 r) || !nonNegF (oWd r), 0x32),
   (m = 2 && oAdam r && (!below1F (oBeta2 r) || !nonNegF (oEps r) || (oEps r).toNat % 2 ^ 31 = 0), 0x32),
   (m = 2 && !apart, 0x32),
   (!flt (dFmtA r) || (m = 0 && !flt (dFmtC r)) || (m = 2 && (!(dFmtC r = 13 || dFmtC r = 4) || dFmtB r ≠ 13)) ||
     (oSr r && dFmtC r = 13), 0x34),
   (m = 2 && !(open_ (rng 2 cl) cl && open_ (rng 1 bl) bl), 0x1B),
   (m = 0 && (match rng 2 cl with | some a => touchesAny s a cl && !inOpenRegion s a cl | none => false), 0x1B)]

/-- The accesses whose addresses an attention descriptor fixes: A, C, D, STAT, AUX0 and AUX1 over every row that QMAX
allows (R157, R160, R269). -/
def attnFixed (s : State) (w : Who) (r : List Byte) : List MemAcc :=
  let qs := fixedEnts s w r
  let fwd := dKind r = 5
  let qp := rowPitch (dFmtA r) (aDH r)
  let rows := fun wr sp base pitch => qs.map (fun q =>
    (⟨wr, sp, base * 64 + q.tokRow * aG r * pitch, q.qmax * aG r * pitch⟩ : MemAcc))
  let op := if fwd then rowPitch (dFmtC r) (aDH r) else 4 * aDH r
  dAccs r (dLen r * 64) ++ rows false (dSp r 0) (dAddr r 0) qp ++
  (if fwd then
    rows true (dSp r 2) (dAddr r 2) op ++ (if aSave r then rows true (aStatSp r) (aStat r) 8 else []) ++
    (if aAppend r then qs.flatMap (fun q =>
      [⟨false, aAuxSp r, aAux0 r * 64 + q.tokRow * kvPitch r, q.qmax * kvPitch r⟩,
       ⟨false, aAuxSp r, aAux0 r * 64 + aAux1 r * 64 + q.tokRow * kvPitch r, q.qmax * kvPitch r⟩]) else [])
   else
    rows false (aAuxSp r) (aAux0 r) qp ++
    (if aSave r then
      rows false (aStatSp r) (aStat r) 8 ++ rows false (dSp r 2) (dAddr r 2) op ++ rows true (dSp r 2) (dAddr r 2) op ++
      qs.map (fun q => ⟨true, aAuxSp r, aAux1 r * 64 + q.last * (4 * aDH r), 64 * 2 ^ q.bucket * (4 * aDH r)⟩)
     else rows true (aStatSp r) (aStat r) 8))

/-- The accesses that a table fixes for a descriptor on CD_d. -/
def fixedAccs (s : State) (d : Nat) (k : Stroke) (r : List Byte) : List MemAcc :=
  let w : Who := ⟨d, 0, stPart k⟩
  if dKind r = 5 ∨ dKind r = 6 then attnFixed s w r else descAccs s w (planWork k 0 r)

/-- What learned regions forbid a Hard stroke (R201). -/
def lrnHard (s : State) (d : Nat) (k : Stroke) (r : List Byte) (accs : List MemAcc) : Bool :=
  stClass k = 0 && (dKind r = 9 || accs.any (fun x =>
    match (if x.sp = 3 then none else accAddr d x) with
    | none => false
    | some a => (List.range 8).any (fun n => touchesLreg s n a x.len && (x.wr || lregState s n ≠ 4))))

/-- Does a descriptor write in space 0 (R103). -/
def outSpace0 (r : List Byte) : Bool :=
  let k := dKind r
  if k = 5 then dSp r 2 = 0 || (aSave r && aStatSp r = 0)
  else if k = 6 then (if aSave r then dSp r 2 = 0 || aAuxSp r = 0 else aStatSp r = 0)
  else if k = 9 then (if oMode r = 1 then false else dSp r 2 = 0 || (oMode r = 2 && dSp r 1 = 0))
  else dSp r 2 = 0

/-- The conditions of a descriptor's kind. -/
def kindChecks (s : State) (table : List Stroke) (idx d : Nat) (k : Stroke) (r : List Byte) (apart : Bool) : List (Bool × Nat) :=
  let w : Who := ⟨d, 0, stPart k⟩
  let kd := dKind r
  let dims := fun l => (l.any (fun n => n = 0), 0x31)
  let input := fun c => c ≠ 12 && c ≠ 13
  if kd = 1 then
    [dims [gM r, gN r, gK r],
     (!input (dFmtA r) || !input (dFmtB r) || !pairOk (dFmtA r) (dFmtB r), 0x34),
     (gBeta r && dFmtC r ≠ 12 && dFmtC r ≠ 13, 0x34), (isMx (dFmtB r) && !gTB r, 0x34),
     ((isMx (dFmtA r) || isMx (dFmtB r)) && gK r % 32 ≠ 0, 0x34), (isMx (dFmtC r) && gN r % 32 ≠ 0, 0x34),
     (int32Bad r, 0x34), (!dlenOk r (gN r), 0x38)]
  else if kd = 7 then
    [dims [vRows r, vCols r], (vOp r = 0 || 7 < vOp r, 0x32),
     (!vReadsB r && (!opndZero r 1 || dFmtB r ≠ 0), 0x32), (!vReadsD r && (!opndZero r 3 || dLen r ≠ 0), 0x32),
     (dFmtA r = 12 || dFmtB r = 12 || int32Bad r, 0x34),
     ((isMx (dFmtA r) || isMx (dFmtC r) || (vReadsB r && isMx (dFmtB r))) && vCols r % 32 ≠ 0, 0x34)]
  else if kd = 8 then [dims [mvLen r]]
  else if kd = 2 then
    let g := geoDirect r
    geoChecks r g 15 15 512 1024 1 ++ lineChecks s table idx k g ++
    [(g.dw && g.cout ≠ g.cin, 0x32),
     (isMx (dFmtA r) || isMx (dFmtB r) || isMx (dFmtC r) || !input (dFmtA r) || !input (dFmtB r) ||
       isIntFmt (dFmtA r) ≠ isIntFmt (dFmtB r) || int32Bad r, 0x34), (!dlenOk r g.cout, 0x38)]
  else if kd = 3 then
    let g := geoPool r
    geoChecks r g 63 63 4096 4096 1 ++
    [(!opndZero r 1 || dFmtB r ≠ 0 || !opndZero r 3, 0x32), (dQtrk r ≠ 0, 0x38),
     (!(dFmtA r ≤ 5) || !(dFmtC r = dFmtA r || dFmtC r = 13), 0x34)]
  else if kd = 4 then
    let g := geoSpectral r
    geoChecks r g 63 2 64 1024 9 ++
    [(4096 < g.ih || 4096 < g.iw, 0x32), (dSp r 0 = 0, 0x32), (gatedPage s (pgSpec d), 0x32),
     (1 < dFmtA r || 1 < dFmtB r || isMx (dFmtC r) || int32Bad r, 0x34), (!dlenOk r g.cout, 0x38)]
  else if kd = 5 ∨ kd = 6 then attnChecks s w r
  else if kd = 9 then optChecks s d r apart
  else [(true, 0x30)]

/-- The lowest code of one descriptor on CD_d (R103, R142, R201, R269, R280, R465). `engs` is the group's size there, `set`
the tokens signalled before it. -/
def descCode (s : State) (table : List Stroke) (idx d engs : Nat) (k : Stroke) (set : List Nat) (r : List Byte) (apart : Bool) :
    Option Nat :=
  let kd := dKind r
  let accs := if kd = 0 ∨ 9 < kd then [] else fixedAccs s d k r
  let sp3 := fun x => dSp r x = 3 && dToff r x ≠ 0
  let bad := fun c => c = 14 || c = 15
  let qnt := isQuant (dFmtC r)
  lowest (kindChecks s table idx d k r apart ++
    accs.map (fun x => ((fixedCode s d (stPart k) x).isSome, (fixedCode s d (stPart k) x).getD 0)) ++
    [(!reservedOk r, 0x32), (5 < dEpi r, 0x32), (dDiem r &&& stDies k ≠ dDiem r, 0x32),
     (stOp k = 2 && dDiem r ≠ 0, 0x32), (sp3 0 || sp3 1 || sp3 2 || sp3 3, 0x32),
     (stOp k = 2 && outSpace0 r, 0x32), (!tileOk (tileRegions r), 0x33),
     (bad (dFmtA r) || bad (dFmtB r) || bad (dFmtC r), 0x34), (engs ≤ dSlot r, 0x35),
     ([dWait0 r, dWait1 r].any (fun t => t ≠ 0 && !set.contains t), 0x36), (dSig r ≠ 0 && set.contains (dSig r), 0x36),
     (kd ≠ 5 && kd ≠ 6 && kd ≠ 9 && kd ≠ 8 && dQtrk r ≠ 0 && (!qnt || dSp r 2 = 3), 0x38),
     (kd ≠ 9 && kd ≠ 8 && kd ≠ 5 && kd ≠ 6 && dQtrk r = 0 && qnt && 3 ≤ dEpi r && dEpi r ≤ 5, 0x38),
     (lrnHard s d k r accs, 0x1A)])

/-- Does a list hold a CHECK of a step group. -/
def checksGrp (g : Nat) (l : List (List Byte)) : Bool := l.any (fun r => dKind r = 9 && oMode r = 1 && oGrp r = g)

/-- R209: an APPLY of group g has no CHECK in its stroke, and between the last earlier CHECK stroke of g and its stroke
there is a BARRIER of its partition. -/
def applyApart (s : State) (table : List Stroke) (idx : Nat) (k : Stroke) (l : List (List Byte)) (g : Nat) : Bool :=
  let before := (table.take idx).reverse
  let between := before.takeWhile (fun x => !(stIsRun x && checksGrp g (fetchList s 4096 (stDesc x * 64))))
  !checksGrp g l && (between.length = before.length || between.any (fun x => stOp x = 4 && stPart x = stPart k))

/-- The first failing descriptor of a list on CD_d. -/
def listWalk (s : State) (table : List Stroke) (idx d engs : Nat) (k : Stroke) (all : List (List Byte)) :
    List Nat → List (Nat × List Byte) → Option Nat
  | _, [] => none
  | set, (i, r) :: rest =>
    let mine := dDiem r = 0 || (dDiem r).testBit d || dDiem r &&& stDies k ≠ dDiem r
    let open_ := i = 4095 && !dLast r
    if mine then
      let c := descCode s table idx d engs k set r (applyApart s table idx k all (oGrp r))
      match lowest [(c.isSome, c.getD 0), (open_, 0x37)] with
      | some c => some c
      | none => listWalk s table idx d engs k all (if dSig r = 0 then set else dSig r :: set) rest
    else if open_ then some 0x37 else listWalk s table idx d engs k all set rest

/-- The code of a RUN's list, die by die. -/
def runCode (s : State) (table : List Stroke) (idx : Nat) (k : Stroke) : Option Nat :=
  let all := fetchList s 4096 (stDesc k * 64)
  (stDieList k).findSome? (fun d =>
    listWalk s table idx d (pendEngs s k d).length k all [] (all.zipIdx.map (fun x => (x.2, x.1))))

/-! ### PPU jobs (R195, R200) -/

/-- The PPU jobs at a device address: up to the first with LASTJ, at most `n`. -/
def fetchJobs (s : State) : Nat → Nat → List (List Byte)
  | 0, _ => []
  | n + 1, a =>
    let j := memBytes s a 64
    if dF j 0 18 1 = 1 then [j] else j :: fetchJobs s n (a + 64)

/-- Classes, anchors, and channels of the head tensor (R196). -/
def ppuCls (j : List Byte) : Nat := dF j 0 4 4 + 1
def ppuAnch (j : List Byte) : Nat := dF j 0 8 4 + 1
def ppuChans (j : List Byte) : Nat := if dF j 0 0 2 = 0 then ppuCls j + 10 else ppuAnch j * (4 + ppuCls j)
def ppuFmt (j : List Byte) : Nat := dF j 0 12 4
def ppuH (j : List Byte) : Nat := dF j 4 0 16
def ppuW (j : List Byte) : Nat := dF j 4 16 16

/-- The head tensor as a blocked tensor of space 0. -/
def ppuHead (j : List Byte) : Blocked :=
  ⟨0, dF j 8 0 32 * 64, if dF j 0 16 1 = 1 then 32 else 16, ppuFmt j, ppuW j, ppuChans j⟩

/-- Its bytes. -/
def ppuBytes (j : List Byte) : Nat := ppuH j * tensorPitch (ppuHead j)

/-- The accesses that a PPU job fixes; of the list, whose length depends on the data, its header. -/
def ppuAccs (j : List Byte) : List MemAcc :=
  [⟨false, 0, dF j 8 0 32 * 64, ppuBytes j⟩, ⟨true, 0, dF j 0x10 0 32 * 64, 64⟩] ++
  (if dF j 0x0C 0 32 = 0 then [] else [⟨false, 0, dF j 0x0C 0 32 * 64, 4 * ppuChans j⟩]) ++
  (if dF j 0 0 2 = 1 then [⟨false, 0, dF j 0x28 0 32 * 64, 8 * ppuAnch j⟩] else [])

/-- The lowest code of a PPU job, `last` the 64th of its list. -/
def ppuCode (s : State) (p : Nat) (j : List Byte) (last : Bool) : Option Nat :=
  let grid := dF j 0 0 2 = 0
  let img := dF j 0 0 2 = 1
  let thr := b16 (dF j 0x14 0 16)
  let ovl := b16 (dF j 0x14 16 16)
  let fmt := ppuFmt j
  let pos := fun (w : Word) => w.toNat % 2 ^ 31 ≠ 0
  let upTo1 := fun (w : Word) => nonNegF w && (w.toNat ≤ 0x3F800000 || w.toNat = 2 ^ 31)
  lowest ((ppuAccs j).map (fun x => ((fixedCode s 0 p x).isSome, (fixedCode s 0 p x).getD 0)) ++
    [(ppuH j = 0 || ppuW j = 0, 0x31), (2048 < ppuH j || 2048 < ppuW j, 0x4E), (!grid && !img, 0x4E),
     (grid && ppuAnch j ≠ 1, 0x4E), (!(fmt = 0 || fmt = 4 || fmt = 5), 0x4E),
     (1048576 < ppuH j * ppuW j * ppuAnch j, 0x4E), (!upTo1 thr, 0x4E),
     (grid && !nonNegF ovl, 0x4E), (img && !(upTo1 ovl && pos ovl), 0x4E),
     (decide (dF j 0x0C 0 32 = 0) = decide (fmt = 0), 0x4E),
     (dF j 0x24 0 12 = 0 || 2048 < dF j 0x24 0 12 || dF j 0x24 16 14 = 0 || 8192 < dF j 0x24 16 14, 0x4E),
     (dF j 0 2 2 ≠ 0 || dF j 0 19 13 ≠ 0 || dF j 0x24 12 4 ≠ 0 || dF j 0x24 30 2 ≠ 0 ||
       ((j.drop 0x2C).take 20).any (fun b => b ≠ 0), 0x4E),
     (img && (dF j 0x18 0 32 ≠ 0 || dF j 0x1C 0 32 ≠ 0), 0x4E), (grid && dF j 0x28 0 32 ≠ 0, 0x4E),
     (last && dF j 0 18 1 = 0, 0x4E)])

/-! ### Fusion jobs (R241 to R243, R468) -/

def fjStages (j : List Byte) : Nat := dF j 0 0 8
def fjHas (j : List Byte) (b : Nat) : Bool := (fjStages j).testBit b
def fjPpuList (j : List Byte) : Nat := dF j 4 0 32
def fjAlnOut (j : List Byte) : Nat := dF j 0x10 0 32
def fjGridOut (j : List Byte) : Nat := dF j 0x14 0 32
def fjDetIn (j : List Byte) : Nat := dF j 0x18 0 32
def fjBatch (j : List Byte) : Nat := dF j 0x1C 0 32
def fjLcams (j : List Byte) : Nat := dF j 0x0C 0 16
def fjCams (j : List Byte) : Nat := dF j 8 16 16

/-- The page of a stage. -/
def stagePage (b : Nat) : Page :=
  if b = 0 then pgPpu else if b = 1 then pgAln else if b = 2 then pgEgo else if b = 3 then pgPrj
  else if b = 4 then pgGrd else if b = 5 then pgAsg else if b = 6 then pgTrk else pgCol

/-- The fusion jobs of a partition's FUSEs in a part of a table, in order. -/
def jobsOf (s : State) (p : Nat) (l : List Stroke) : List (List Byte) :=
  (l.filter (fun k => stOp k = 6 && stPart k = p)).map (fun k => memBytes s (stDesc k * 64) 64)

/-- The OUT_ADDRs of the GRID_CENTER jobs in a fusion job's PPU list. -/
def gridOuts (s : State) (j : List Byte) : List Nat :=
  if fjHas j 0 then ((fetchJobs s 64 (fjPpuList j * 64)).filter (fun x => dF x 0 0 2 = 0)).map (fun x => dF x 0x10 0 32) else []

/-- The addresses that a fusion job uses: write, address in units (R468). `pts` says whether LIFT lifts points. -/
def fjAddrs (j : List Byte) (pts : Bool) : List (Bool × Nat) :=
  (if fjHas j 0 then [(false, fjPpuList j)] else []) ++ (if fjHas j 1 then [(true, fjAlnOut j)] else []) ++
  (if fjHas j 2 || fjHas j 3 then [(false, fjAlnOut j)] else []) ++
  (if fjHas j 4 then (true, fjGridOut j) :: (if pts then [(false, fjAlnOut j)] else []) else []) ++
  (if fjHas j 5 then [(false, fjDetIn j)] else []) ++ (if fjHas j 7 then [(true, fjBatch j)] else [])

/-- Is there an ALIGN whose output a job reads: in itself, or in an earlier FUSE of its partition with the same ALN_OUT. -/
def alignedBy (j : List Byte) (earlier : List (List Byte)) : Bool :=
  (j :: earlier).any (fun x => fjHas x 1 && fjAlnOut x = fjAlnOut j)

/-- The lowest code of a fusion job. A zero field names no address: it is R243's refusal (log entry 21). -/
def fjCode (s : State) (table : List Stroke) (idx : Nat) (k : Stroke) : Option Nat :=
  let p := stPart k
  let j := memBytes s (stDesc k * 64) 64
  let earlier := jobsOf s p (table.take idx)
  let all := jobsOf s p table
  let pts := alignedBy j earlier
  let stages := bitsSet 8 (fjStages j)
  let dets := gridOuts s j ++ earlier.flatMap (gridOuts s)
  lowest (((false, stDesc k) :: (fjAddrs j pts).filter (fun x => x.2 ≠ 0)).map (fun x =>
      let c := fixedCode s 0 p ⟨x.1, 0, x.2 * 64, 64⟩
      (c.isSome, c.getD 0)) ++
    stages.map (fun b => ((ownedByOther s (stagePage b) p, 0x0A) : Bool × Nat)) ++
    stages.map (fun b => ((gatedPage s (stagePage b), 0x4A) : Bool × Nat)) ++
    ([(fjStages j = 0, 0x4A),
     (dF j 0 8 8 ≠ 0 || dF j 0x0C 16 16 ≠ 0 || ((j.drop 0x20).take 32).any (fun b => b ≠ 0), 0x4A),
     ((fjAddrs j pts).any (fun x => x.2 = 0), 0x4A), (fjHas j 5 ≠ fjHas j 6, 0x4A),
     (fjHas j 5 && !dets.contains (fjDetIn j), 0x4A),
     (fjHas j 4 && fjLcams j = 0 && !all.any (fun x => fjHas x 1), 0x4A),
     (fjHas j 2 && earlier.any (fun x => fjHas x 2), 0x4A), (fjHas j 6 && earlier.any (fun x => fjHas x 6), 0x4A),
     ((fjHas j 2 || fjHas j 3) && !pts, 0x4A), (fjHas j 4 && !pts && fjAlnOut j ≠ 0, 0x4A)] : List (Bool × Nat)))

/-- The code of a FUSE: its job, then its PPU jobs in list order. -/
def fuseCode (s : State) (table : List Stroke) (idx : Nat) (k : Stroke) : Option Nat :=
  match fjCode s table idx k with
  | some c => some c
  | none =>
    let j := memBytes s (stDesc k * 64) 64
    if fjHas j 0 then
      ((fetchJobs s 64 (fjPpuList j * 64)).zipIdx).findSome? (fun x => ppuCode s (stPart k) x.1 (x.2 = 63))
    else none

/-! ### The Fields check (R84, R465) -/

/-- The code of a stroke: R60, R61, then what it names. -/
def fieldsCode (s : State) (table : List Stroke) (idx : Nat) (k : Stroke) : Option Nat :=
  match strokeCode s k with
  | some c => some c
  | none =>
    let op := stOp k
    if stIsRun k then runCode s table idx k
    else if op = 6 then fuseCode s table idx k
    else if op = 5 then fixedCode s 0 (stPart k) ⟨true, 0, stDesc k * 64, 16⟩
    else if op = 7 then fixedCode s 0 (stPart k) ⟨false, 0, stDesc k * 64, 64⟩
    else if op = 3 then (if ownedByOther s (pgIng (stStream k)) (stPart k) then some 0x0A else none)
    else none

end Sys2Proof.Machine
end

