-- ==== Sys2Proof/Machine/Admission.lean ====
section
/-! DEFINITION. The admission arithmetic and the admission of a table (R51, R62, R83 to R86, R110 to R114, R173, R174,
R184, R191, R192, R200, R210, R266, R290, R351, R412). -/

namespace Sys2Proof.Machine

open Sys2Proof

/-! ### Order (R62) -/

/-- Does a stroke break R62, by its predecessor, those with its AT before it, and its place. -/
def orderBad (table : List Stroke) (idx : Nat) (k : Stroke) : Bool :=
  let final := idx + 1 = table.length
  (stLast k = 1) ≠ final ||
  (match (table.take idx).getLast? with | some q => stAt k < stAt q | none => false) ||
  64 ≤ ((table.take idx).filter (fun q => stAt q = stAt k)).length ||
  (stUsesDue k && !(stAt k < stD k && stD k ≤ stAt k + 65536))

/-! ### Admission ticks (R51, R83) -/

/-- 655,360,000 times the admission tick in ns. -/
def admTick (s : State) : Nat := getF s pgCyc Reg.CYC_PERIOD_NOM_PERIOD * 9995 - 20000000

/-- `ticks` of R83. -/
def ticksOf (s : State) (ns : Nat) : Nat := ceilDiv ((ns + 41) * 655360000) (admTick s)

/-! ### Engine time of a descriptor (R110 to R113, R173, R174, R191, R210) -/

/-- A time: array clocks, and ns at any clock. -/
abbrev Span := Nat × Nat

/-- The sum of two times. -/
def spanAdd (a b : Span) : Span := (a.1 + b.1, a.2 + b.2)

/-- Start latency of a space. -/
def spaceStart (sp : Nat) : Span := if sp = 2 then (32, 0) else if sp = 1 then (0, 500) else if sp = 0 then (0, 740) else (0, 0)

/-- Staging or writing `len` bytes; nothing for space 3 or no bytes. -/
def moveTime (sp len : Nat) : Span := if sp = 3 ∨ len = 0 then (0, 0) else spanAdd (ceilDiv len 256, 0) (spaceStart sp)

/-- Clocks per streamed row, q of R94, of one format. -/
def rowClocks (c : Nat) : Nat := if c = 4 ∨ c = 5 then 4 else 1

/-- The compute term of a matrix product (R111). -/
def gemmClocks (m n k fa fb : Nat) : Nat :=
  let nt := ceilDiv n 128
  let kt := ceilDiv k (passLen fa fb)
  let q := Nat.max (rowClocks fa) (rowClocks fb)
  let ch := ceilDiv m 512
  let last := m - 512 * (ch - 1)
  256 + (ch - 1) * (nt * kt * q * 512) + nt * kt * q * Nat.max last 128 + ceilDiv last 2

/-- The bytes of the first `kh` input rows that a band reads. -/
def firstRows (r : List Byte) (g : Geo) : Nat :=
  let cols := covered1 g g.iw g.pl g.kw g.sx g.ox0 g.ow
  let n := if cols = [] then 0 else cols.getLastD 0 - cols.headD 0 + 1
  g.kh * n * (ceilDiv g.cin g.blk * pixBytes (geoA r g))

/-- Rows of the chunks of an attention descriptor's sequence: chunk sizes. -/
def attnChunks (r : List Byte) (rows : Nat) : List Nat :=
  let c := if aDH r ≤ 128 then 512 else 256
  List.replicate (rows / c) c ++ (if rows % c = 0 then [] else [rows % c])

/-- Bucket width. -/
def bucketW (q : SeqEnt) : Nat := 64 * 2 ^ q.bucket

/-- Time of an attention descriptor (R173, R174). -/
def attnTime (s : State) (w : Who) (r : List Byte) : Span :=
  let qs := fixedEnts s w r
  let dh := aDH r
  let dt := ceilDiv dh 128
  let q := rowClocks (dFmtB r)
  let p := rowPitch (dFmtA r) dh
  let rows := sumOf (qs.map (fun e => aG r * e.qmax))
  let nt := fun e => Nat.max 1 (bucketW e / 128)
  let sum := fun (l : List Span) => l.foldl spanAdd (0, 0)
  if dKind r = 5 then
    let tile := fun n => Nat.max (2 * dt * q * Nat.max n 128) (Nat.max (ceilDiv (n * (384 + dh)) 256) p)
    let comp := 256 + sumOf (qs.map (fun e => sumOf ((attnChunks r (aG r * e.qmax)).map (fun n =>
      nt e * tile n + ceilDiv (n * dh) 256 + 64))))
    let app := if aAppend r then sumOf (qs.map (fun e => 2 * e.qmax * kvPitch r + 64 * ceilDiv e.qmax 64)) else 0
    sum [moveTime (dSp r 0) (rows * p), moveTime (dSp r 3) (dLen r * 64),
      (ceilDiv (ceilDiv (9 * sumOf (qs.map bucketW)) 8) 256, 500), (comp, 0),
      moveTime (dSp r 2) (rows * rowPitch (dFmtC r) dh), moveTime (aStatSp r) (if aSave r then 8 * rows else 0), moveTime 1 app]
  else if aSave r then
    let tile := fun n => Nat.max (5 * dt * q * Nat.max n 128)
      (Nat.max (ceilDiv (n * (512 + dh)) 256) (ceilDiv (n * (8 * dh + 2 * p)) 256))
    let comp := 256 + sumOf (qs.map (fun e =>
      nt e * (sumOf ((attnChunks r (aG r * e.qmax)).map tile) + 4 * dh) + 64))
    sum [moveTime (dSp r 0) (rows * p), moveTime (aAuxSp r) (rows * p), moveTime (aStatSp r) (8 * rows),
      moveTime (dSp r 2) (rows * 4 * dh), moveTime (dSp r 3) (dLen r * 64), (comp, 0), moveTime (dSp r 2) (rows * 4 * dh),
      moveTime (aAuxSp r) (2 * 4 * dh * sumOf (qs.map bucketW))]
  else
    sum [moveTime (dSp r 0) (rows * p), moveTime (aAuxSp r) (rows * p), moveTime (dSp r 3) (dLen r * 64),
      (64 + rows * dt * 2, 0), moveTime (aStatSp r) (8 * rows)]

/-- t_desc of R110. -/
def descTime (s : State) (w : Who) (r : List Byte) : Span :=
  let k := dKind r
  let sum := fun (l : List Span) => l.foldl spanAdd (0, 0)
  let stg := fun x len => moveTime (dSp r x) len
  if k = 1 then
    sum [stg 0 (stagedLen (gemmA r)), stg 1 (stagedLen (gemmB r)), stg 2 (if gBeta r then stagedLen (gemmC r) else 0),
      stg 3 (dLen r * 64), (gemmClocks (gM r) (gN r) (gK r) (dFmtA r) (dFmtB r), 0), stg 2 (stagedLen (gemmC r))]
  else if k = 7 then
    let v := if 3 ≤ vOp r ∧ vOp r ≤ 5 then 3 else 1
    sum [stg 0 (stagedLen (vecMat r 0 (dFmtA r))), stg 1 (if vReadsB r then stagedLen (vecMat r 1 (dFmtB r)) else 0),
      stg 3 (if vReadsD r then dLen r * 64 else 0), (64 + vRows r * ceilDiv (vCols r) 256 * v, 0),
      stg 2 (stagedLen (vecMat r 2 (dFmtC r)))]
  else if k = 8 then sum [(ceilDiv (mvLen r * 64) 256, 0), spaceStart (dSp r 0), spaceStart (dSp r 2)]
  else if k = 2 then
    let g := geoDirect r
    let cp := ceilDiv g.cin g.blk * g.blk
    let px := g.oh * g.ow
    let c := if g.dw then 256 + ceilDiv cp 128 * px + 64 else gemmClocks px g.cout (g.kh * g.kw * cp) (dFmtA r) (dFmtB r)
    sum [stg 1 (stagedLen (convB r g)), stg 3 (dLen r * 64), stg 0 (firstRows r g), (c, 0),
      stg 2 (px * rowPitch (dFmtC r) g.cout)]
  else if k = 3 then
    let g := geoPool r
    let cp := ceilDiv g.cin g.blk * g.blk
    sum [stg 0 (firstRows r g), (64 + g.oh * g.ow * ceilDiv cp 256 * g.kh * g.kw, 0), stg 2 (g.oh * g.ow * rowPitch (dFmtC r) g.cout)]
  else if k = 4 then
    let g := geoSpectral r
    let cp := ceilDiv g.cin g.blk * g.blk
    sum [stg 1 (stagedLen (convB r g)), stg 3 (dLen r * 64),
      (256 + spectralTiles r * (cp * 1024 + g.cout * (cp * 40 + 1024)), 0), stg 2 (g.oh * g.ow * rowPitch (dFmtC r) g.cout)]
  else if k = 9 then
    let l := (optMemAccs (planWork 0 0 r))
    let u := if oMode r = 2 then (if oAdam r then 6 else 2) else 1
    sum ((Nat.max (ceilDiv (sumOf (l.map (fun x => x.len))) 256) (ceilDiv (oCount r) 256 * u) + 64, 0) ::
      l.map (fun x => spaceStart x.sp))
  else attnTime s w r

/-! ### T_cyc (R114, R184, R192) -/

/-- Array clock in MHz at a die's pending floor (R351). -/
def floorMhz (s : State) (d : Nat) : Nat := 25 * getFi s pgDvfs Reg.DVFS_OP_FREQ (getFi s pgDvfs Reg.DVFS_OPC_FLOOR_PEND d)

/-- The replay of one die: last issue, free time of the spectral unit, and by engine and by token their times. Times are
in 1/8 ns divided by the clock in MHz. -/
structure Replay where
  issue : Nat
  spec : Nat
  busy : List Nat
  done1 : List Nat
  done2 : List Nat
  tok : List Nat
deriving DecidableEq, Repr

/-- When a line-fed descriptor may begin, ns after the start (R184). -/
def lineReady (s : State) (table : List Stroke) (idx : Nat) (k : Stroke) (r : List Byte) : Nat :=
  let g := geoDirect r
  if isLineFed r ∧ stClass k = 0 then
    match gateLine table idx (stPart k) g.stream with
    | some l => (lastLine g - l) * getF s (pgIng g.stream) Reg.ING_LINE_MAX
    | none => 0
  else 0

/-- One descriptor of the replay at `f` MHz. -/
def replayOne (s : State) (table : List Stroke) (idx d f : Nat) (k : Stroke) (a : Replay) (r : List Byte) : Replay :=
  let e := dSlot r
  let t := descTime s ⟨d, 0, stPart k⟩ r
  let dur := t.1 * 8000 + t.2 * 8 * f
  let issue := maxOf [a.issue + 5 * f, nth0 a.tok (dWait0 r), nth0 a.tok (dWait1 r), nth0 a.done2 e]
  let start := maxOf [issue, nth0 a.busy e, lineReady s table idx k r * 8 * f, if dKind r = 4 then a.spec else 0]
  let fin := start + dur
  { issue := issue
    spec := if dKind r = 4 then fin else a.spec
    busy := a.busy.set e fin
    done2 := a.done2.set e (nth0 a.done1 e)
    done1 := a.done1.set e fin
    tok := if dSig r = 0 then a.tok else a.tok.set (dSig r) fin }

/-- T_cyc of a stroke on CD_d, in 1/8 ns divided by the clock in MHz. -/
def cycTime (s : State) (table : List Stroke) (idx : Nat) (k : Stroke) (d : Nat) : Nat :=
  let f := floorMhz s d
  let l := (selectedFor d (fetchList s 4096 (stDesc k * 64))).map (fun x => x.2)
  let t0 := 1000 * 8 * f
  let n := (pendEngs s k d).length
  maxOf (l.foldl (replayOne s table idx d f k)
    ⟨t0 - 5 * f, 0, List.replicate n t0, List.replicate n 0, List.replicate n 0, List.replicate 64 0⟩).busy

/-! ### T_mem (R85, R290) -/

/-- What an attention descriptor moves in its cache, charged at the bucket width: tables and headers, key and value tiles
by chunk, and with APPEND the new rows. -/
def attnCacheBytes (s : State) (w : Who) (r : List Byte) : Nat :=
  if dKind r = 6 ∧ aSave r = false then 0
  else sumOf ((fixedEnts s w r).map (fun e =>
    9 * bucketW e / 8 + (attnChunks r (aG r * e.qmax)).length * (2 * bucketW e * kvPitch r) +
    (if dKind r = 5 ∧ aAppend r = true then 2 * e.qmax * kvPitch r + 64 * ceilDiv e.qmax 64 else 0)))

/-- The bytes of an access that lie on stack `n`. -/
def onStack (d n : Nat) (x : MemAcc) : Nat :=
  match (if x.sp = 3 then none else accAddr d x) with
  | some a => Nat.min (a + x.len) (stackBase n + 0x600000000) - Nat.max a (stackBase n)
  | none => 0

/-- The bytes that a descriptor moves on stack `n` when CD_d executes it. -/
def descStack (s : State) (d n : Nat) (k : Stroke) (r : List Byte) : Nat :=
  sumOf ((fixedAccs s d k r).map (onStack d n)) +
  (if (dKind r = 5 ∨ dKind r = 6) ∧ n = d then attnCacheBytes s ⟨d, 0, stPart k⟩ r else 0)

/-- The bytes that a RUN moves on stack `n`. -/
def runStack (s : State) (n : Nat) (k : Stroke) : Nat :=
  let l := fetchList s 4096 (stDesc k * 64)
  sumOf ((stDieList k).map (fun d => sumOf ((selectedFor d l).map (fun x => descStack s d n k x.2))))

/-- T_mem in ns; none where a stack with traffic has no guarantee. -/
def memTime (s : State) (k : Stroke) : Option Nat :=
  let m := s.bw.good.ms.getD (stPart k) ⟨3, 8, 0x400, [0, 0, 0, 0], []⟩
  (List.range 4).foldl (fun acc n =>
    let b := runStack s n k
    let g := nth0 m.mins n * 64
    match acc with
    | none => none
    | some t => if b = 0 then some t else if g = 0 then none else some (Nat.max t (ceilDiv b g * (2 ^ m.win * 1000)))) (some 0)

/-- Is a Hard RUN's budget sufficient (R84, R85). -/
def runEnough (s : State) (table : List Stroke) (idx : Nat) (k : Stroke) : Bool :=
  (stDieList k).all (fun d => cycTime s table idx k d ≤ stBudget k * 256 * 8 * floorMhz s d) &&
  (match memTime s k with | some t => t ≤ stBudget k * 256 | none => false)

/-! ### T_fuse (R200, R266) -/

/-- The least number of bits that hold n values: ceil(log2 n). -/
def log2Up (n : Nat) : Nat := if n ≤ 1 then 0 else Nat.log2 (n - 1) + 1

/-- The bound of a PPU job, in 1/8 ns: hub clocks count 5. -/
def ppuBound (j : List Byte) : Nat :=
  let n := dF j 0x24 16 14
  8000 + 5 * (ceilDiv (ppuBytes j) 64 + ceilDiv (ppuH j * ppuW j * ppuAnch j) 4 + ceilDiv n 8 * Nat.max 1 (log2Up n) +
    n * ceilDiv (dF j 0x24 0 12) 64)

/-- A count register whose largest value 2,048 is held as 0x800 in 12 bits. -/
def trkCap (s : State) : Nat := getF s pgTrk Reg.TRK_CAP
def asgMax (s : State) : Nat := getF s pgAsg Reg.ASG_MAX_DET
def grdNz (s : State) : Nat := getF s pgGrd Reg.GRD_NZ
def grdCf (s : State) : Nat := getF s pgGrd Reg.GRD_CF

/-- Channels of the grid: features, points' four; and its channels as laid out (R256). -/
def grdBlk (s : State) : Nat := if flag s pgGrd Reg.GRD_LAYOUT then 32 else 16
def grdCellBytes (s : State) : Nat :=
  ceilDiv (grdCf s + 4) (grdBlk s) * grdBlk s * (if getF s pgGrd Reg.GRD_FMT = 4 then 2 else 1)

/-- The bytes of camera k's output in PROJ, a BF16 tensor in C16 layout (R251). -/
def projBytes (s : State) (k : Nat) : Nat :=
  let sm := getFi s pgPrj Reg.PRJ_CAM_STREAM k
  let div := Nat.max 1 (getFi s pgPrj Reg.PRJ_CAM_DIV k)
  ceilDiv (getF s (pgIng sm) Reg.ING_GEOM_HEIGHT) div *
    (ceilDiv (ceilDiv (getF s (pgIng sm) Reg.ING_GEOM_WIDTH) div * 32) 64 * 64)

/-- The cameras of a mask whose STREAM names a stream (R250). -/
def camsOf (s : State) (m : Nat) : List Nat :=
  (bitsSet 16 m).filter (fun k => getFi s pgPrj Reg.PRJ_CAM_STREAM k < 24)

/-- The bound of a stage after ALIGN's, in 1/8 ns. -/
def stageBound (s : State) (j : List Byte) (b : Nat) : Nat :=
  let pt := getF s pgAln Reg.ALN_PT_MAX
  let nt := getF s pgEgo Reg.EGO_NT
  let nr := getF s pgEgo Reg.EGO_NR
  let np := getF s pgEgo Reg.EGO_NP
  let dm := asgMax s
  let t := trkCap s
  let cm := getF s pgAsg Reg.ASG_CMAX
  let cams := camsOf s (fjCams j)
  if b = 1 then 4000 + 5 * ceilDiv pt 8
  else if b = 2 then 4000 + 5 * (ceilDiv ((2 * nt + 1) ^ 2 * (2 * nr + 1) * np) 256 + 4096 + ceilDiv np 16)
  else if b = 3 then 5 * (ceilDiv (pt * cams.length) 16 + ceilDiv (sumOf (cams.map (projBytes s))) 256)
  else if b = 4 then
    4000 + 5 * (ceilDiv (262144 * grdNz s * (camsOf s (fjLcams j)).length) 16 * ceilDiv (grdCf s) 32 + ceilDiv pt 16 +
      1024 * grdCellBytes s)
  else if b = 5 then
    8000 + 5 * (ceilDiv (dm * t) 64 + ceilDiv (64 * dm) 4 + ceilDiv ((dm + t) * cm ^ 2) 256 + 18 * ceilDiv (64 * dm) 4)
  else if b = 6 then 5 * (4 * t + 4 * dm)
  else if b = 7 then 4000 + 5 * ceilDiv (64 + 64 * t) 256
  else 0

/-- T_fuse of a FUSE against its budget: in 1/8 ns, T_WAIT apart as (ticks, used) (R266). -/
def fuseEnough (s : State) (k : Stroke) : Bool :=
  let j := memBytes s (stDesc k * 64) 64
  let ppu := if fjHas j 0 then sumOf ((fetchJobs s 64 (fjPpuList j * 64)).map ppuBound) else 0
  let rest := 8000 + sumOf ((bitsSet 8 (fjStages j)).map (stageBound s j))
  let wait := if fjHas j 1 then dF j 0 16 16 - stAt k else 0
  let budget := stBudget k * 256 * 8
  rest + ppu ≤ budget && (rest * 655360000 + wait * admTick s * 8 ≤ budget * 655360000)

/-! ### Worst-case starts and ends (R83, R412) -/

/-- A stroke with its worst-case start and end. -/
structure Timed where
  idx : Nat
  k : Stroke
  s : Nat
  e : Nat
deriving DecidableEq, Repr

/-- The resources that a stroke holds, by a bank of group masks: engine k of CD_d as 16 d + k, the fusion unit 64, the
spectral unit of CD_d 65 + d (R84, R192). -/
def resources (s : State) (engs : Stroke → Nat → List Nat) (k : Stroke) : List Nat :=
  if stIsRun k then
    let l := fetchList s 4096 (stDesc k * 64)
    (stDieList k).flatMap (fun d => (engs k d).map (fun e => 16 * d + e) ++
      (if (selectedFor d l).any (fun x => dKind x.2 = 4) then [65 + d] else []))
  else if stOp k = 6 then [64] else []

/-- A stroke's holdings: index, partition, resources. -/
abbrev Hold := Nat × Nat × List Nat

/-- The partitions of the strokes before stroke `idx` on resource `x`, cyclic; carry-over strokes come before the first
holder too. -/
def prevParts (holds : List Hold) (carry : List (Nat × List Nat)) (idx x : Nat) : List Nat :=
  let l := holds.filter (fun h => h.2.2.contains x)
  match (l.takeWhile (fun h => h.1 ≠ idx)).getLast? with
  | some h => [h.2.1]
  | none => (match l.getLast? with | some h => [h.2.1] | none => []) ++ (carry.filter (fun c => c.2.contains x)).map (fun c => c.1)

/-- t_sw of R83. -/
def switchNs (holds : List Hold) (carry : List (Nat × List Nat)) (idx p : Nat) (res : List Nat) : Nat :=
  if (res.filter (fun x => x < 64)).any (fun x => (prevParts holds carry idx x).any (fun q => q ≠ p)) then 2000 else 0

/-- Is a partition's barrier bound to a cross-device set by the registers, and which (R408). -/
def boundSet (s : State) (p : Nat) : Option Nat :=
  let me := getF s pgDlk Reg.DLK_STAT_INDEX
  (List.range 8).find? (fun k => flagI s pgDlk Reg.DLK_XB_EN k && getFi s pgDlk Reg.DLK_XB_PART k = p &&
    flag s pgDlk Reg.DLK_STAT_INDEX_V && (getFij s pgDlk Reg.DLK_XB_MEMB k (me / 32)).testBit (me % 32))

/-- The time of one stroke after those before it. -/
def timeOne (s : State) (sw : Nat → Nat) (prev : List Timed) (idx : Nat) (k : Stroke) : Timed :=
  let mine := prev.filter (fun t => stPart t.k = stPart k)
  let op := stOp k
  let gate := maxOf ((mine.filter (fun t => stOp t.k = 3 ∨ stOp t.k = 4)).map (fun t =>
    if stOp t.k = 3 then stD t.k else t.e + ticksOf s 1000))
  let st := Nat.max (stAt k) gate
  let runs := mine.filter (fun t => stIsRun t.k)
  let since := ((mine.reverse.takeWhile (fun t => stOp t.k ≠ 5)).filter (fun t => stIsRun t.k))
  let last := fun ops => match (mine.filter (fun t => ops.contains (stOp t.k))).getLast? with | some t => t.e | none => 0
  if stIsRun k then ⟨idx, k, st, st + ticksOf s (sw idx + stBudget k * 256 + 2000)⟩
  else if op = 6 then
    let st := Nat.max st (last [5])
    ⟨idx, k, st, st + ticksOf s (stBudget k * 256 + 2000)⟩
  else if op = 5 then
    let st := Nat.max st (maxOf (since.map (fun t => t.e)))
    ⟨idx, k, st, st + ticksOf s 1000⟩
  else if op = 7 then
    let st := Nat.max st (last [5, 6])
    ⟨idx, k, st, st + ticksOf s 2000⟩
  else if op = 4 then
    let e := Nat.max st (maxOf (runs.map (fun t => t.e)))
    match boundSet s (stPart k) with
    | some x => ⟨idx, k, st, Nat.max e (getFi s pgDlk Reg.DLK_XB_AT_LATEST x + ticksOf s (getFi s pgDlk Reg.DLK_XB_SKEW x + 875))⟩
    | none => ⟨idx, k, st, e⟩
  else if op = 3 then ⟨idx, k, st, st + ticksOf s 0⟩
  else ⟨idx, k, stAt k, stAt k⟩

/-- The times of a table's strokes. -/
def timeAll (s : State) (sw : Nat → Nat) (table : List Stroke) : List Timed :=
  table.zipIdx.foldl (fun prev x => prev ++ [timeOne s sw prev x.2 x.1]) []

/-- The holdings of a table. -/
def holdings (s : State) (engs : Stroke → Nat → List Nat) (table : List Stroke) : List Hold :=
  table.zipIdx.map (fun x => (x.2, stPart x.1, resources s engs x.1))

/-- Times of a table with its own partition switches. -/
def tableTimes (s : State) (engs : Stroke → Nat → List Nat) (carry : List (Nat × List Nat)) (table : List Stroke) : List Timed :=
  let h := holdings s engs table
  timeAll s (fun i => match h[i]? with | some x => switchNs h carry i x.2.1 x.2.2 | none => 0) table

/-- The carry-over strokes of the active table: partition, resources, and the tick of the next bar up to which they hold
them. -/
def carryOvers (s : State) : List (Nat × List Nat × Nat) :=
  let engs := fun k d => groupEngs s k d
  ((tableTimes s engs [] s.seq.active).filter (fun t => stNextbar t.k = 1)).map (fun t =>
    (stPart t.k, resources s engs t.k, Nat.min t.e (stD t.k) - 65536))

/-- Does stroke `t` start before its resources are free (R84). -/
def overlapBad (ts : List Timed) (holds : List Hold) (carry : List (Nat × List Nat × Nat)) (t : Timed) : Bool :=
  let endOf := fun i => match ts[i]? with | some x => x.e | none => 0
  let res := match holds[t.idx]? with | some h => h.2.2 | none => []
  res.any (fun x =>
    let l := holds.filter (fun h => h.2.2.contains x)
    (carry.any (fun c => c.2.1.contains x && t.s < c.2.2)) ||
    (match (l.takeWhile (fun h => h.1 ≠ t.idx)).getLast? with
     | some h => t.s < endOf h.1
     | none => match l.getLast? with | some h => t.s + 65536 < endOf h.1 | none => false))

/-- The partition whose quota the table exceeds at stroke `idx`: the sum of R84 over its RUNs up to there. -/
def quotaBad (s : State) (table : List Stroke) (idx : Nat) (k : Stroke) : Bool :=
  stIsRun k && getFi s pgPrt Reg.PRT_QUOTA (stPart k) <
    sumOf (((table.take (idx + 1)).filter (fun x => stIsRun x && stPart x = stPart k)).map (fun x =>
      stBudget x * sumOf ((stDieList x).map (fun d => (pendEngs s x d).length))))

/-! ### Admission (R82, R84, R86) -/

/-- What the checker reports: a failing stroke and code, or a pass with MIN_SLACK and its stroke. -/
inductive Verdict where
  | refuse (idx code : Nat)
  | pass (slack idx : Nat)
deriving DecidableEq, Repr

/-- The smallest Hard slack and its stroke; 0 of stroke 0 where no Hard stroke has a deadline. -/
def minSlack (ts : List Timed) : Nat × Nat :=
  match (ts.filter (fun t => stClass t.k = 0 && stUsesDue t.k)).map (fun t => (stD t.k - t.e, t.idx)) with
  | [] => (0, 0)
  | x :: l => l.foldl (fun a b => if b.1 < a.1 then b else a) x

/-- Admission of a table (R84). -/
def admitTable (s : State) (table : List Stroke) : Verdict :=
  let strokes := table.zipIdx
  let first := fun (f : Stroke → Nat → Bool) => (strokes.find? (fun x => f x.1 x.2)).map (fun x => x.2)
  match strokes.findSome? (fun x => (fieldsCode s table x.2 x.1).map (fun c => (x.2, c))) with
  | some (i, c) => .refuse i c
  | none =>
    match first (fun k i => orderBad table i k) with
    | some i => .refuse i 0x22
    | none =>
      let engs := fun k d => pendEngs s k d
      let carry := carryOvers s
      let h := holdings s engs table
      let ts := tableTimes s engs (carry.map (fun c => (c.1, c.2.1))) table
      match ts.find? (overlapBad ts h carry) with
      | some t => .refuse t.idx 0x23
      | none =>
        match ts.find? (fun t => stUsesDue t.k && stClass t.k ≤ 1 && stD t.k < t.e) with
        | some t => .refuse t.idx 0x24
        | none =>
          match first (fun k i => stClass k = 0 &&
            ((stIsRun k && !runEnough s table i k) || (stOp k = 6 && !fuseEnough s k))) with
          | some i => .refuse i 0x25
          | none =>
            match first (fun k i => quotaBad s table i k) with
            | some i => .refuse i 0x26
            | none => .pass (minSlack ts).1 (minSlack ts).2

/-- The stamp of a table (R86). -/
def stampOf (s : State) (table : List Stroke) : Nat :=
  crc32c (table.flatMap (fun k => leBytes 16 (stWithEpoch k 0).toNat) ++ leBytes 4 (getF s pgAdm Reg.ADM_CFG_GEN))

end Sys2Proof.Machine
end

