-- ==== Sys2Proof/Machine/Tables.lean ====
section
/-! DEFINITION. The stroke tables: load, admission, swap requests, the swap itself, STOP and the forced fallback (R81,
R82, R87 to R92, R125). -/

namespace Sys2Proof.Machine

open Sys2Proof

/-- Set the shadow's state. -/
def setShadow (v : Nat) (s : State) : State := setF pgSeq Reg.SEQ_TBL_STAT_SHADOW v s

/-- Withdraw the uncommitted core and island requests. -/
def dropRequests (s : State) : State :=
  setF pgSeq Reg.SEQ_TBL_STAT_ISL_PENDING 0 (setF pgSeq Reg.SEQ_TBL_STAT_CORE_PENDING 0 s)

/-! ### Load (R81) -/

/-- `n` strokes as the sequencer reads them at a device address; a refused read records its code and gives zeros. -/
def readStrokes (a n : Nat) (s : State) : List Stroke × State :=
  match accessRefusal s true a (16 * n) with
  | some c => (List.replicate n 0, recordAt (refusalPage c) c (a / 64) 0xFF s)
  | none => ((List.range n).map (fun i => strokeOf (memBytes s (a + 16 * i) 16)), chargeMem 19 none a (16 * n) s)

/-- What ADM.RESULT reports of a refusal, and its record in ADM (R82, R446). -/
def reportRefusal (idx code part : Nat) (s : State) : State :=
  recordPart pgAdm code part (setF pgAdm Reg.ADM_INDEX idx (setF pgAdm Reg.ADM_CODE code
    (setF pgAdm Reg.ADM_PASS 0 (setF pgAdm Reg.ADM_DONE 1 s))))

/-- TBL_CTL.LOAD: ignored while a swap is COMMITTED or a fallback uses the shadow; a length out of range leaves a refused
shadow of no strokes; else the copy starts. -/
def tableLoad (s : State) : State :=
  let len := getF s pgSeq Reg.SEQ_SHADOW_LEN
  if s.seq.committed ≠ none ∨ s.seq.fallback ≠ none then s
  else if len = 0 ∨ 4096 < len then
    setShadow 5 (reportRefusal 0 0x22 0xFF (dropRequests { s with seq := { s.seq with shadow := [], badLen := true, chk := none } }))
  else
    let r := readStrokes (getF s pgSeq Reg.SEQ_SHADOW_SRC * 64) len s
    let s := r.2
    setShadow 1 (dropRequests { s with seq := { s.seq with shadow := r.1, badLen := false, chk := none } })

/-- TABLE_LOAD. -/
def execTableLoad (by_ : Agent) (s : State) : Host.Outcome State Fault Refusal := .next (asMaster pgSeq 0x40 by_ tableLoad s)

/-- TABLE_LOAD_DONE: the copy completes. -/
def execTableLoadDone (s : State) : Host.Outcome State Fault Refusal :=
  .next (if shadowState s = 1 ∧ s.seq.fallback = none then setShadow 2 s else s)

/-! ### Admission (R82) -/

/-- TBL_CTL.ADMIT: ignored while the shadow is LOADING or COMMITTED; on a shadow of no strokes it reports 0x22. -/
def tableAdmit (s : State) : State :=
  let st := shadowState s
  if st = 1 ∨ st = 6 ∨ s.seq.fallback ≠ none then s
  else if s.seq.shadow = [] then setShadow 5 (reportRefusal 0 0x22 0xFF s)
  else
    let prior := match s.seq.chk with | some c => c.2 | none => st
    setShadow 3 (setF pgAdm Reg.ADM_DONE 0
      { s with seq := { s.seq with chk := some (flag s pgSeq Reg.SEQ_TBL_CTL_CHECK_ONLY, prior) } })

/-- ADMIT. -/
def execAdmit (by_ : Agent) (s : State) : Host.Outcome State Fault Refusal := .next (asMaster pgSeq 0x40 by_ tableAdmit s)

/-- The EPOCH fields that a pass writes (R82). -/
def withEpochs (s : State) (t : List Stroke) : List Stroke := t.map (fun k => stWithEpoch k ((getF s pgSeq Reg.SEQ_EPOCH + 1) % 64))

/-- What ADM reports of a pass. -/
def reportPass (slack idx stamp : Nat) (s : State) : State :=
  setF pgAdm Reg.ADM_MIN_INDEX idx (setF pgAdm Reg.ADM_MIN_SLACK slack (setF pgAdm Reg.ADM_STAMP stamp
    (setF pgAdm Reg.ADM_INDEX 0 (setF pgAdm Reg.ADM_CODE 0 (setF pgAdm Reg.ADM_PASS 1 (setF pgAdm Reg.ADM_DONE 1 s))))))

/-- The partition of a stroke of a table. -/
def partAt (t : List Stroke) (i : Nat) : Nat := match t[i]? with | some k => stPart k | none => 0xFF

/-- The checker reports: with CHECK_ONLY the shadow keeps the state it had. -/
def admissionDone (s : State) : State :=
  match s.seq.chk with
  | none => s
  | some (only, prior) =>
    let t := s.seq.shadow
    let s := { s with seq := { s.seq with chk := none } }
    match admitTable s t with
    | .refuse i c => setShadow (if only then prior else 5) (reportRefusal i c (partAt t i) s)
    | .pass slack i =>
      let s := reportPass slack i (stampOf s t) s
      if only then setShadow prior s
      else setShadow 4 { s with seq := { s.seq with shadow := withEpochs s t } }

/-- ADMISSION_DONE. -/
def execAdmissionDone (s : State) : Host.Outcome State Fault Refusal :=
  .next (if shadowState s = 3 then admissionDone s else s)

/-! ### The swap (R90, R92, R125, R351) -/

/-- The pending bank of CD_d becomes the active bank; an engine newly set in the sleep mask is gated (R124, R125). -/
def copyBank (d : Nat) (s : State) : State :=
  let new := getF s (pgSch d) Reg.SCH_SLEEP_PEND
  let old := getF s (pgSch d) Reg.SCH_SLEEP_ACT
  let s := (List.range 256).foldl (fun s g =>
    let v := getFi s (pgSch d) Reg.SCH_GROUP_PEND g
    if v = getFi s (pgSch d) Reg.SCH_GROUP_ACT g then s else setFi (pgSch d) Reg.SCH_GROUP_ACT g v s) s
  let s := setF (pgSch d) Reg.SCH_SLEEP_ACT new s
  ((List.range 16).filter (fun k => new.testBit k && !old.testBit k)).foldl (fun s k =>
    match slotOf s d k with
    | some e => if getF s (pgPe d e) Reg.PE_ENG_STAT_STATE = 2 then setF (pgPe d e) Reg.PE_ENG_STAT_STATE 0 s else s
    | none => s) s

/-- Every engine of CD_d that is in service loads the epoch (R90). -/
def loadEpoch (d : Nat) (s : State) : State :=
  (List.range 16).foldl (fun s k =>
    match slotOf s d k with
    | some e =>
      let st := getF s (pgPe d e) Reg.PE_ENG_STAT_STATE
      if st = 2 ∨ st = 3 ∨ st = 4 then setF (pgPe d e) Reg.PE_ENG_EPOCH (getF s pgSeq Reg.SEQ_EPOCH) s else s
    | none => s) s

/-- What a swap does to the strokes in progress: those with NEXTBAR carry over, others are stopped, and what is held or
has not fired is dropped. -/
def carryRuns (s : State) : State :=
  let s := { s with seq := { s.seq with due := [], runs := s.seq.runs.filter (fun (r : StrokeRun) => decide (r.phase ≠ RunPhase.held)) } }
  let s := (s.seq.runs.filter (fun r => runActive r && stNextbar r.raw = 0)).foldl (fun s r => stopRun r 1 s) s
  { s with seq := { s.seq with runs := s.seq.runs.map (fun (r : StrokeRun) => { r with carry := true }) } }

/-- A swap takes effect. -/
def applySwap (s : State) : State :=
  let s := carryRuns s
  let old := s.seq.active
  let ep := getF s pgSeq Reg.SEQ_EPOCH
  let s := { s with seq := { s.seq with
    active := s.seq.shadow, shadow := old, committed := none, fallback := none, lost := [], prevEpoch := ep, badLen := false } }
  let s := setF pgSeq Reg.SEQ_EPOCH ((ep + 1) % 2 ^ 32) s
  let s := setF pgSeq Reg.SEQ_TBL_STAT_FB_PENDING 0 (dropRequests (setShadow (if old = [] then 0 else 2) s))
  let s := setF pgSeq Reg.SEQ_TBL_STAT_ACTIVE_LEN s.seq.active.length s
  applyFloors ((List.range 4).foldl (fun s d => if inService s d then loadEpoch d (copyBank d s) else s) s)

/-- Set the sequencer's state. -/
def setSeqState (v : Nat) (s : State) : State := setF pgSeq Reg.SEQ_TBL_STAT_SEQ_STATE v s

/-- A request on an ADMITTED shadow in IDLE takes effect at once, without carry-over strokes (R92). -/
def swapInIdle (s : State) : State := setSeqState 1 (applySwap s)

/-- A core swap request (R87). -/
def swapRequest (s : State) : State :=
  if shadowState s ≠ 4 then record pgSeq 0x2C s
  else if seqState s = 0 then swapInIdle s
  else setF pgSeq Reg.SEQ_TBL_STAT_CORE_PENDING 1 s

/-- SWAP_REQUEST. -/
def execSwapRequest (by_ : Agent) (s : State) : Host.Outcome State Fault Refusal := .next (asMaster pgSeq 0x40 by_ swapRequest s)

/-- Withdraw an uncommitted core request (R88). -/
def swapCancel (s : State) : State := setF pgSeq Reg.SEQ_TBL_STAT_CORE_PENDING 0 s

/-- SWAP_CANCEL. -/
def execSwapCancel (by_ : Agent) (s : State) : Host.Outcome State Fault Refusal := .next (asMaster pgSeq 0x40 by_ swapCancel s)

/-- An island swap request, which only the island in charge may make (R87). -/
def islSwapRequest (who : Agent) (s : State) : State :=
  if inCharge s who = false ∨ shadowState s ≠ 4 then record pgSeq 0x2C s
  else if seqState s = 0 then swapInIdle s
  else setF pgSeq Reg.SEQ_TBL_STAT_ISL_PENDING 1 s

/-- ISL_SWAP_REQUEST. -/
def execIslSwapRequest (by_ : Agent) (s : State) : Host.Outcome State Fault Refusal :=
  .next (asMaster pgSeq 0x50 by_ (islSwapRequest by_) s)

/-- Withdraw an uncommitted island request. -/
def islSwapCancel (who : Agent) (s : State) : State :=
  if inCharge s who = false then record pgSeq 0x2C s else setF pgSeq Reg.SEQ_TBL_STAT_ISL_PENDING 0 s

/-- ISL_SWAP_CANCEL. -/
def execIslSwapCancel (by_ : Agent) (s : State) : Host.Outcome State Fault Refusal :=
  .next (asMaster pgSeq 0x50 by_ (islSwapCancel by_) s)

/-! ### STOP (R92) -/

/-- Stop every stroke in progress, with its results posted INVALID. -/
def stopAll (s : State) : State :=
  let s := { s with seq := { s.seq with due := [], runs := s.seq.runs.filter (fun (r : StrokeRun) => decide (r.phase ≠ RunPhase.held)) } }
  (s.seq.runs.filter runActive).foldl (fun s r => stopRun r 1 s) s

/-- Enter IDLE: strokes in progress are stopped, pending requests cancelled, and the active table kept. -/
def enterIdle (s : State) : State :=
  let s := stopAll s
  setSeqState 0 (dropRequests { s with seq := { s.seq with stop := false } })

/-- TBL_CTL.STOP: at the next boundary in RUNNING, at once in ARMED and SUSPENDED, nothing in IDLE. -/
def seqStop (s : State) : State :=
  if seqState s = 2 then { s with seq := { s.seq with stop := true } }
  else if seqState s = 0 then s
  else enterIdle s

/-- SEQ_STOP. -/
def execSeqStop (by_ : Agent) (s : State) : Host.Outcome State Fault Refusal := .next (asMaster pgSeq 0x40 by_ seqStop s)

/-! ### The forced fallback (R89) -/

/-- A fallback table at a device address: up to its LAST, at most `n` strokes. -/
def fallbackTable (s : State) : Nat → Nat → List Stroke
  | 0, _ => []
  | n + 1, a =>
    let k := strokeOf (memBytes s a 16)
    if stLast k = 1 then [k] else k :: fallbackTable s n (a + 16)

/-- The fallback commits. -/
def commitFallback (s : State) : State := setShadow 6 { s with seq := { s.seq with committed := some .fallback } }

/-- The fallback table for the loss of CD_n has been copied: it commits on a matching stamp, else after a full
admission. -/
def fallbackCopied (n : Nat) (s : State) : State :=
  let a := getFi s pgSeq Reg.SEQ_FB_SRC n * 64
  let t := fallbackTable s 4096 a
  let r := readStrokes a t.length s
  let s := r.2
  let s := { s with seq := { s.seq with shadow := withEpochs s r.1, badLen := false, chk := none } }
  if r.1.all (fun k => !(stDies k).testBit n) ∧ stampOf s r.1 = getFi s pgSeq Reg.SEQ_FB_STAMP n then commitFallback s
  else
    match admitTable s r.1 with
    | .pass slack i => commitFallback (reportPass slack i (stampOf s r.1) s)
    | .refuse i c =>
      let s := record pgSeq 0x2E (reportRefusal i c (partAt r.1 i) s)
      setShadow 5 (setF pgSeq Reg.SEQ_TBL_STAT_FB_PENDING 0 { s with seq := { s.seq with fallback := none } })

/-- FALLBACK_COPY_DONE. -/
def execFallbackCopyDone (s : State) : Host.Outcome State Fault Refusal :=
  .next (
    match s.seq.fallback with
    | some n => if s.seq.committed = none then fallbackCopied n s else s
    | none => s)

end Sys2Proof.Machine
end

