-- ==== Sys2Proof/Machine/Regulator.lean ====
section
/-! DEFINITION. The bandwidth regulators of the memory stacks (R281, R282, R284 to R290). -/

namespace Sys2Proof.Machine

open Sys2Proof

/-- The settings of master `m` in force. -/
def bwMaster (c : BwCfg) (m : Nat) : BwMaster := c.ms.getD m ⟨3, 8, 0x400, [0, 0, 0, 0], [0, 0, 0, 0]⟩

/-- Window of a master in ns. -/
def bwWindow (x : BwMaster) : Nat := 2 ^ x.win * 1000

/-- Class label of a master: that of the partition for masters 0 to 15 (R285). -/
def bwClass (s : State) (m : Nat) : Nat :=
  if m < 16 then (s.parts.getD m Part.fresh).cfg.cls else (bwMaster s.bw.act m).cls

/-- The partition that a master's request is charged to, 0xFF for none: that of the work (R275). -/
def bwPart (s : State) (m : Nat) : Nat :=
  if m < 16 then m
  else if m = 17 then (match s.fus.job with | some j => j.part | none => 0xFF)
  else if m = 18 then
    (match s.seq.runs.find? (fun r => runActive r && (stOp r.raw = 5 || stOp r.raw = 7)) with
     | some r => stPart r.raw
     | none => 0xFF)
  else 0xFF

/-- The instant of tick D of a run, ns. -/
def deadlineOf (s : State) (r : StrokeRun) : Nat := tickTime s (stD r.raw - (barCount s - r.bar) * 65536)

/-- The absolute deadline of a request issued now (R288). -/
def bwDeadline (s : State) (m : Nat) : Nat :=
  if m < 16 then
    let dl := (s.parts.getD m Part.fresh).cfg.reqDl
    let left := match s.seq.runs.find? (fun r => stPart r.raw = m && runActive r && stIsRun r.raw) with
      | some r => Nat.min 65535 ((deadlineOf s r - s.io.now) / 64)
      | none => 65535
    s.io.now + 64 * Nat.min dl left
  else s.io.now + 64 * (bwMaster s.bw.act m).dl

/-- Entries of 64 bytes that a request takes. -/
def bwUnits (q : BwReq) : Nat := ceilDiv q.len 64

/-- Entries in use in a stack's queue. -/
def bwOcc (s : State) (n : Nat) : Nat := sumOf ((s.bw.queues.getD n []).map bwUnits)

/-- Show the queue's occupancy. -/
def showOcc (n : Nat) (s : State) : State := setF (pgMsc n) Reg.MSC_STAT_OCC (bwOcc s n) s

/-- The class of a request now: 0 guaranteed, 1 surplus, 2 held until the master's next window (R285). -/
def bwKind (s : State) (n m : Nat) : Nat :=
  let c := getFij s pgBwreg Reg.BWREG_M_USED m n
  let x := bwMaster s.bw.act m
  if c < nth0 x.mins n then 0 else if c < nth0 x.maxs n then 1 else 2

/-- Does the level at the sources admit a request of this class (R286). -/
def levelAdmits (s : State) (n m kind : Nat) : Bool :=
  let l := nth0 s.bw.level n
  kind = 0 || (kind = 1 && (l = 0 || (l = 1 && bwClass s m ≤ s.bw.act.l1)))

/-- Admit a request into the queue if its class, the level and the queue's room allow it. -/
def bwAdmit (n : Nat) (q : BwReq) (s : State) : Bool × State :=
  let k := bwKind s n q.master
  let u := bwUnits q
  if levelAdmits s n q.master k ∧ bwOcc s n + u ≤ 1024 then
    let s := setFij pgBwreg Reg.BWREG_M_USED q.master n (satAdd 24 (getFij s pgBwreg Reg.BWREG_M_USED q.master n) u) s
    (true, showOcc n { s with bw := { s.bw with queues := s.bw.queues.modify n (fun l => l ++ [{ q with kind := k }]) } })
  else (false, s)

/-- Try the requests that wait at their sources, oldest first; a master's later request does not pass its earlier one
to the same stack. -/
def bwRetry : List (Nat × BwReq) → List (Nat × BwReq) → State → State
  | [], back, s => { s with bw := { s.bw with held := back } }
  | (n, q) :: rest, back, s =>
    if back.any (fun x => x.1 = n && x.2.master = q.master) then bwRetry rest (back ++ [(n, q)]) s
    else
      let r := bwAdmit n q s
      if r.1 then bwRetry rest back r.2 else bwRetry rest (back ++ [(n, q)]) r.2

/-- STACK_REQUEST: a request of a master reaches its source; it is queued, or waits there. One to a failed stack
completes with an ERROR response and 0x08 (R283). -/
def execStackRequest (stk master off len : Nat) (wr uncorr : Bool) (s : State) : Host.Outcome State Fault Refusal :=
  .next (
    if 4 ≤ stk ∨ 32 ≤ master ∨ len = 0 ∨ 0x600000000 < off + len then s
    else if stackFailed s stk then answer [] false false (recordAt pgHubId 0x08 ((stackBase stk + off) / 64) (bwPart s master) s)
    else
      let q : BwReq := ⟨master, bwPart s master, wr, off, len, uncorr, 0, bwDeadline s master⟩
      let s := if bwKind s stk master = 2 then bumpI pgBwreg Reg.BWREG_M_HELD master 1 s else s
      bwRetry (s.bw.held ++ [(stk, q)]) [] s)

/-- REGULATOR_WINDOW: a window of master `m` begins (R285). -/
def execRegulatorWindow (m : Nat) (s : State) : Host.Outcome State Fault Refusal :=
  .next (
    if m < 32 then
      let s := (List.range 4).foldl (fun s n => setFij pgBwreg Reg.BWREG_M_USED m n 0 s) s
      bwRetry s.bw.held [] s
    else s)

/-! ### Service (R281, R282, R287) -/

/-- The key of R287's order: guaranteed by the end of the master's window and deadline, surplus by class and deadline. -/
def bwKey (s : State) (q : BwReq) : Nat × Nat × Nat :=
  let w := bwWindow (bwMaster s.bw.act q.master)
  if q.kind = 0 then (0, (s.io.now / w + 1) * w, q.dl) else (1, bwClass s q.master, q.dl)

/-- Is a key before another. -/
def keyLt (a b : Nat × Nat × Nat) : Bool :=
  a.1 < b.1 || (a.1 = b.1 && (a.2.1 < b.2.1 || (a.2.1 = b.2.1 && a.2.2 < b.2.2)))

/-- The request that a queue serves next. -/
def bwNext (s : State) : List BwReq → Option BwReq
  | [] => none
  | q :: l =>
    match bwNext s l with
    | some x => if keyLt (bwKey s x) (bwKey s q) then some x else some q
    | none => some q

/-- The pseudo-channel of a stack offset (R281). -/
def pseudoChannel (a : Nat) : Nat := (bitsOf a 8 5) ^^^ (bitsOf a 13 5) ^^^ (bitsOf a 18 5)

/-- Count the bytes of a request by pseudo-channel. -/
def countChannels (n : Nat) (q : BwReq) (s : State) : State :=
  (granules 256 q.off q.len).foldl (fun s g =>
    let b := Nat.min (g + 256) (q.off + q.len) - Nat.max g q.off
    { s with bw := { s.bw with chans := s.bw.chans.modify n (fun l => l.modify (pseudoChannel g) (· + b)) } }) s

/-- A request completes: its bytes are charged, a late one counts, and an uncorrectable read records 0x07. -/
def bwComplete (n : Nat) (q : BwReq) (s : State) : State :=
  let s := countChannels n q (chargeStack q.master (if q.part = 0xFF then none else some q.part) n q.len s)
  let s := if q.dl < s.io.now then bump (pgMsc n) Reg.MSC_DL_LATE 1 s else s
  if q.uncorr ∧ q.wr = false then stackUncorr n (stackBase n + q.off) q.part s else s

/-- Serve the queue of stack `n` while `room` entries of bandwidth are left. -/
def bwServe (n : Nat) : Nat → Nat → State → State
  | 0, _, s => s
  | fuel + 1, room, s =>
    match bwNext s (s.bw.queues.getD n []) with
    | none => s
    | some q =>
      if room < bwUnits q then s
      else
        let s := { s with bw := { s.bw with queues := s.bw.queues.modify n (fun l => l.erase q) } }
        bwServe n fuel (room - bwUnits q) (bwComplete n q s)

/-- The level of an occupancy (R286). -/
def levelOf (s : State) (n : Nat) : Nat :=
  let o := bwOcc s n
  if o < nth0 s.bw.act.t1 n then 0 else if o < nth0 s.bw.act.t2 n then 1 else if o < nth0 s.bw.act.t3 n then 2 else 3

/-- Every 8 µs, that is 125 samples, an interval in which a pseudo-channel carried more than 12.5 % above the mean counts
in SKEW (R281). -/
def skewSample (n : Nat) (s : State) : State :=
  let k := nth0 s.bw.samples n + 1
  if k < 125 then { s with bw := { s.bw with samples := s.bw.samples.set n k } }
  else
    let l := s.bw.chans.getD n []
    let s := if sumOf l * 1125 < maxOf l * 32000 then bump (pgMsc n) Reg.MSC_SKEW 1 s else s
    { s with bw := { s.bw with samples := s.bw.samples.set n 0, chans := s.bw.chans.set n (List.replicate 32 0) } }

/-- QUEUE_LEVEL_SAMPLE: 64 ns of service at 960 bytes/ns have passed; the level is sampled and applied at the sources. -/
def execQueueLevelSample (stk : Nat) (s : State) : Host.Outcome State Fault Refusal :=
  .next (
    if stk < 4 ∧ stackFailed s stk = false then
      let s := showOcc stk (bwServe stk 1024 960 s)
      let l := levelOf s stk
      let s := setF (pgMsc stk) Reg.MSC_STAT_LEVEL l { s with bw := { s.bw with level := s.bw.level.set stk l } }
      let s := skewSample stk s
      bwRetry s.bw.held [] s
    else s)

/-! ### Configuration (R289) -/

/-- The configuration as BWREG, PRT and the MSC pages hold it. -/
def bwWritten (s : State) : BwCfg where
  ms := (List.range 32).map (fun m =>
    ⟨getFi s pgBwreg Reg.BWREG_M_WIN m, getFi s pgBwreg Reg.BWREG_M_CLASS m, getFi s pgBwreg Reg.BWREG_M_DL m,
     (List.range 4).map (fun n => getFij s pgBwreg Reg.BWREG_M_MIN m n),
     (List.range 4).map (fun n => getFij s pgBwreg Reg.BWREG_M_MAX m n)⟩)
  l1 := getF s pgBwreg Reg.BWREG_CTL_L1_CLASS
  t1 := (List.range 4).map (fun n => getF s (pgMsc n) Reg.MSC_T1)
  t2 := (List.range 4).map (fun n => getF s (pgMsc n) Reg.MSC_T2)
  t3 := (List.range 4).map (fun n => getF s (pgMsc n) Reg.MSC_T3)

/-- The left side of the capacity condition on stack `n`, in 1/64,000 bytes/ns; and does the condition hold. -/
def capacity (c : BwCfg) (n : Nat) : Nat × Bool :=
  let g := c.ms.filter (fun m => nth0 m.mins n ≠ 0)
  let sum := sumOf (c.ms.map (fun m => nth0 m.mins n * 64 * (64000 / bwWindow m)))
  let i := Nat.min (nth0 c.t2 n * 64) (sumOf (c.ms.map (fun m => (nth0 m.maxs n - nth0 m.mins n) * 64)))
  match (g.map bwWindow).min? with
  | none => (sum, true)
  | some w => (sum + i * (64000 / w), sum + i * (64000 / w) ≤ 960 * 64000)

/-- Does a configuration reduce a guarantee that a Hard RUN of a held table rests on, on stack `n`. -/
def reduces (s : State) (c : BwCfg) (n : Nat) : Bool :=
  (List.range 16).any (fun p =>
    let a := bwMaster s.bw.good p
    let b := bwMaster c p
    (nth0 b.mins n < nth0 a.mins n || a.win ≠ b.win) &&
    tablesHold s (fun k => stIsRun k && stPart k = p && stClass k = 0 && runStack s n k ≠ 0))

/-- CTL.COMMIT: the written configuration is taken for the check; a commit requested while one is pending replaces it. -/
def bwCommit (s : State) : State :=
  setF pgBwreg Reg.BWREG_STAT_COMMIT 1 (advanceCfgGen { s with bw := { s.bw with check := some (bwWritten s) } })

/-- BW_COMMIT. -/
def execBwCommit (by_ : Agent) (s : State) : Host.Outcome State Fault Refusal := .next (asMaster pgBwreg 0x40 by_ bwCommit s)

/-- BW_COMMIT_CHECK_DONE: the configuration waits for the boundary, or is refused with 0x0B. -/
def execBwCommitCheckDone (s : State) : Host.Outcome State Fault Refusal :=
  .next (
    match s.bw.check with
    | none => s
    | some c =>
      let s := { s with bw := { s.bw with check := none } }
      let s := (List.range 4).foldl (fun s n =>
        setFi pgBwreg Reg.BWREG_RATE n (Nat.min 65535 (roundOpen (capacity c n).1 4000).toNat) s) s
      match (List.range 4).find? (fun n => (capacity c n).2 = false ∨ reduces s c n) with
      | some n =>
        record pgBwreg 0x0B (setF pgBwreg Reg.BWREG_STAT_FAIL_STACK n (setF pgBwreg Reg.BWREG_STAT_COMMIT 2 s))
      | none => { s with bw := { s.bw with good := c } })

/-- A bar boundary: the last configuration committed takes effect (R289). -/
def bwBoundary (s : State) : State :=
  let s := { s with bw := { s.bw with act := s.bw.good } }
  if s.bw.check = none ∧ getF s pgBwreg Reg.BWREG_STAT_COMMIT = 1 then setF pgBwreg Reg.BWREG_STAT_COMMIT 0 s else s

end Sys2Proof.Machine
end

