-- ==== Sys2Proof/Machine/Ledger.lean ====
section
/-! DEFINITION. The ledger and the hold-up store (R372 to R397): where records lie, how a write starts, completes or
retires its record, journal and fold, write permission, flush and recovery, the commands of LDG.FW and BOOT, and the
gauge. Payloads are held as written: encryption (R375) changes nothing that another part of the block reads. -/

namespace Sys2Proof.Machine

open Sys2Proof

/-- Change the ledger beside its registers. -/
def modLdg (f : Ldg → Ldg) (s : State) : State := { s with ldg := f s.ldg }

/-- Change the gauge beside its registers. -/
def modHld (f : Hld → Hld) (s : State) : State := { s with hld := f s.hld }

/-- LDG.STAT.STATE. -/
def ldgState (s : State) : Nat := getF s pgLdg Reg.LDG_STAT_STATE

/-- HLD.STAT.STATE. -/
def hldState (s : State) : Nat := getF s pgHld Reg.HLD_STAT_STATE

/-! ### Where records lie (R372, R373) -/

/-- The physical record that a role is given at first. Roles 0 to 511 are the journal, 512 to 639 the slot pairs, 640 to
895 the fault ring, 896 to 2,751 the pool; the banks alternate (log entry 22). -/
def homePhys (r : Nat) : Nat :=
  r % 2 * 2048 +
    (if r < 512 then r / 2 else if r < 640 then 256 + (r - 512) / 2 else if r < 896 then 320 + (r - 640) / 2
     else 448 + (r - 896) / 2)

/-- The area of a role: 0 journal, 1 image, 2 fault ring, 3 pool. -/
def areaOf (r : Nat) : Nat := if r < 512 then 0 else if r < 640 then 1 else if r < 896 then 2 else 3

/-- The first value of an association. -/
def assoc {α : Type} (l : List (Nat × α)) (k : Nat) : Option α := (l.find? (fun e => e.1 = k)).map (fun e => e.2)

/-- An association with the value of one key replaced. -/
def assocPut {α : Type} (l : List (Nat × α)) (k : Nat) (v : α) : List (Nat × α) := (k, v) :: l.filter (fun e => e.1 ≠ k)

/-- The physical record that serves a role. -/
def physOf (s : State) (r : Nat) : Nat := (assoc s.ldg.remap r).getD (homePhys r)

/-- The record that serves a role, if one was ever written there. -/
def recOf (s : State) (r : Nat) : Option LdgRec := assoc s.ldg.recs (physOf s r)

/-- The reserve records of both banks, ascending. -/
def reserveAll : List Nat := (List.range 672).map (· + 1376) ++ (List.range 672).map (· + 3424)

/-- The free reserve records. -/
def reserveFree (s : State) : List Nat :=
  reserveAll.filter (fun x => !(s.ldg.remap.any (fun e => e.2 = x)) && !s.ldg.retired.contains x)

/-- The slot pair of an object (R377; log entry 22). -/
def pairIdx (typ key : Nat) : Nat :=
  if typ = 0x10 then 0 else if typ = 0x11 then 1 else if typ = 0x12 then 2 + key % 4 else if typ = 0x13 then 6
  else if typ = 0x14 then 7 + key % 4 else if typ = 0x20 then 18 + key % 16 else typ - 0x15 + 11

/-- Is the record at a role a valid copy of an object. -/
def copyOk (s : State) (r typ key : Nat) : Option LdgRec :=
  match recOf s r with
  | some x => if x.ok ∧ x.typ = typ ∧ x.key = key then some x else none
  | none => none

/-- The committed copy of an object: the valid slot with the higher SEQ (R381). -/
def committed (s : State) (typ key : Nat) : Option LdgRec :=
  let r := 512 + 2 * pairIdx typ key
  match copyOk s r typ key, copyOk s (r + 1) typ key with
  | some a, some b => if a.seq < b.seq then some b else some a
  | some a, none => some a
  | none, b => b

/-- The slot that the next commit of an object writes: one that is not valid, else the older (R381); a slot that no
record serves is passed over. -/
def nextSlot (s : State) (typ key : Nat) : Option Nat :=
  let r := 512 + 2 * pairIdx typ key
  let pick := match copyOk s r typ key, copyOk s (r + 1) typ key with
    | none, _ => r
    | some _, none => r + 1
    | some a, some b => if a.seq < b.seq then r else r + 1
  if s.ldg.dead.contains pick then none else some pick

/-- The next usable role of a ring of `n` roles from `lo` on, looking from place `p`. -/
def ringNext (s : State) (lo n p : Nat) (avoid : List Nat) : Option Nat :=
  ((List.range n).map (fun k => lo + (p + k) % n)).find? (fun r => !s.ldg.dead.contains r && !avoid.contains r)

/-! ### Writing a record (R374, R376, R389) -/

/-- The next SEQ. -/
def ldgSeq (s : State) : Nat := get64 s pgLdg Reg.LDG_SEQ_LO Reg.LDG_SEQ_HI 0

/-- Set the next SEQ. -/
def setLdgSeq (n : Nat) (s : State) : State := set64 pgLdg Reg.LDG_SEQ_LO Reg.LDG_SEQ_HI 0 n s

/-- Put a record in its place with the next SEQ and one more write, valid or still torn; WCNT_MAX follows, and 0x74 is
recorded at 8 × 10⁷ writes, once per area. -/
def putRecord (j : LdgJob) (role phys part parts : Nat) (ok : Bool) (s : State) : State :=
  let w := (match assoc s.ldg.recs phys with | some x => x.wcnt | none => 0) + 1
  let r : LdgRec := ⟨ldgSeq s, j.typ, j.key, w, j.aux, part, parts, role, j.data, j.ents, ok⟩
  let s := setLdgSeq (r.seq + 1) (modLdg (fun l => { l with recs := assocPut l.recs phys r }) s)
  let s := setF pgLdg Reg.LDG_WCNT_MAX (Nat.max w (getF s pgLdg Reg.LDG_WCNT_MAX)) s
  if 80000000 ≤ w ∧ s.ldg.worn.contains (areaOf role) = false then
    record pgLdg 0x74 (modLdg (fun l => { l with worn := areaOf role :: l.worn }) s)
  else s

/-- The role that a job would write now. -/
def jobRole (s : State) (j : LdgJob) : Option Nat :=
  match j.role with
  | some r => some r
  | none =>
    if j.typ = 1 then ringNext s 0 512 s.ldg.jpos s.ldg.live
    else if j.typ = 2 then (ringNext s 640 256 s.ldg.fpos [])
    else nextSlot s j.typ j.key

/-- May record writes start: the ledger is in service, and without a ready gauge POWER_FAIL_N is high (R383, R384). -/
def mayStart (s : State) : Bool :=
  (ldgState s = 1 || ldgState s = 2) && (hldState s = 1 || hldState s = 2 || !s.ldg.pfail)

/-- Start a job's write if its bank is idle. -/
def startJob? (j : LdgJob) (s : State) : Option State :=
  match jobRole s j with
  | none => none
  | some r =>
    let p := physOf s r
    let b := p / 2048
    if (s.ldg.busy.getD b none).isSome then none
    else
      let s := putRecord j r p 0 1 false s
      some (modLdg (fun l => { l with
        busy := l.busy.set b (some ⟨j, p, r, false⟩)
        jpos := if j.typ = 1 ∧ j.role = none then (r + 1) % 512 else l.jpos
        fpos := if j.typ = 2 ∧ j.role = none then (r - 640 + 1) % 256 else l.fpos }) s)

/-- Start, in order, every waiting write whose bank is idle. -/
def pump (s : State) : State :=
  if mayStart s then
    s.ldg.todo.foldl (fun t j =>
      match startJob? j t with
      | some t' => t'
      | none => modLdg (fun l => { l with todo := l.todo ++ [j] }) t) (modLdg (fun l => { l with todo := [] }) s)
  else s

/-! ### Permission (R383) -/

/-- C_MEAS, which equals C_RATED before the first measurement (R393). -/
def cMeas (s : State) : Nat :=
  if s.hld.measured then getF s pgHld Reg.HLD_C_MEAS else getF s pgHld Reg.HLD_C_RATED

/-- C_eff, µF (R393). -/
def cEff (s : State) : Nat := Nat.min (getF s pgHld Reg.HLD_C_RATED) (cMeas s)

/-- The energies of R393 times 2 C_eff, in pJ µF: by voltage, by count, and full; not below 0. -/
def eVolt (s : State) : Int :=
  let c : Int := cEff s
  let v : Int := getF s pgHld Reg.HLD_V_HOLD
  max 0 (c * c * (v * v - 4000000))

/-- E_cnt, in the same units. -/
def eCnt (s : State) : Int :=
  let c : Int := cEff s
  max 0 (s.hld.q * s.hld.q - c * c * 4000000)

/-- E_full, in the same units. -/
def eFull (s : State) : Int :=
  let c : Int := cEff s
  let v : Int := getF s pgHld Reg.HLD_V_TGT
  max 0 (c * c * (v * v - 4000000))

/-- An energy of `n` × 10 mJ in the same units. -/
def eOf (s : State) (n : Nat) : Int := 2 * (cEff s : Int) * (n : Int) * 10000000000

/-- Usable energy in the same units (R394). -/
def eUsable (s : State) : Int :=
  if hldState s = 1 then min (eCnt s) (eVolt s) else if hldState s = 2 then eVolt s else 0

/-- Is the gauge READY or GAUGE_DISAGREE. -/
def gaugeReady (s : State) : Bool := hldState s = 1 || hldState s = 2

/-- May journal records be written and object commits start (R383). A ready gauge with enough energy while POWER_FAIL_N
is low, before the flush, is no row of the table: nothing is written (log entry 23). -/
def mayWrite (s : State) : Bool :=
  (ldgState s = 1 || ldgState s = 2) && !s.ldg.pfail &&
    (if gaugeReady s then 0 < cEff s && decide (eOf s 50 ≤ eUsable s) else true)

/-! ### Folds (R381) -/

/-- The objects that an entry is folded into (R378): none for one that goes to the fault ring. -/
def foldInto (e : LdgEntry) : List (Nat × Nat) :=
  if e.etype = 1 then [(0x11, 0)]
  else if e.etype = 2 then [(0x12, e.key)]
  else if e.etype = 3 ∨ e.etype = 4 then [(0x14, e.key)]
  else if e.etype = 6 then [(0x16, 0)]
  else if e.etype = 7 ∨ e.etype = 10 ∨ e.etype = 11 then [(0x17, 0)]
  else if e.etype = 8 then [(0x17, 0), (0x16, 0)]
  else if e.etype = 12 then [(0x1A, 0)]
  else []

/-- The objects fed by entries. -/
def fedObjects : List (Nat × Nat) :=
  [(0x11, 0), (0x12, 0), (0x12, 1), (0x12, 2), (0x12, 3), (0x14, 0), (0x14, 1), (0x14, 2), (0x14, 3), (0x16, 0),
   (0x17, 0), (0x1A, 0)]

/-- A list in pieces of 62. -/
def chunk62 : Nat → List LdgEntry → List (List LdgEntry)
  | 0, _ => []
  | n + 1, l => if l = [] then [] else l.take 62 :: chunk62 n (l.drop 62)

/-- The entries of the live journal records above APPLIED. -/
def liveEntries (s : State) (above : Nat) : List LdgEntry :=
  s.ldg.live.flatMap (fun r => match recOf s r with | some x => if above < x.seq then x.ents else [] | none => [])

/-- The SEQ of the newest live journal record. -/
def newestJournal (s : State) : Nat := maxOf (s.ldg.live.map (fun r => match recOf s r with | some x => x.seq | none => 0))

/-- The commit of an object that has entries to fold, with APPLIED = S. An object's content is the entries folded into it
so far, since the spec gives its payload no layout (log entry 24). -/
def foldJob (s : State) (cut : Nat) (o : Nat × Nat) : List LdgJob :=
  let old := committed s o.1 o.2
  let add := (liveEntries s (match old with | some x => x.aux | none => 0)).filter (fun e => (foldInto e).contains o)
  if add = [] then []
  else [⟨o.1, o.2, cut, (match old with | some x => x.data | none => []),
         (match old with | some x => x.ents | none => []) ++ add, none, .fold⟩]

/-- Show the number of live journal records. -/
def showLive (s : State) : State := setF pgLdg Reg.LDG_JOURNAL s.ldg.live.length s

/-- The last write of a fold completes: the journal records at or below S become free. -/
def foldEnd (cut : Nat) (s : State) : State :=
  setF pgLdg Reg.LDG_STAT_FOLDING 0 (showLive (modLdg (fun l => { l with
    fold := none, foldLeft := 0
    live := l.live.filter (fun r => match recOf s r with | some x => decide (cut < x.seq) | none => false) }) s))

/-- Start a fold that is wanted, when object commits are permitted; else it is deferred. -/
def tryFold (s : State) : State :=
  if s.ldg.foldWant ∧ s.ldg.fold = none ∧ mayWrite s then
    let cut := newestJournal s
    let js := fedObjects.flatMap (foldJob s cut) ++
      ((chunk62 512 ((liveEntries s 0).filter (fun e => (foldInto e).isEmpty))).map
        (fun l => (⟨2, 0, 0, [], l, none, .fold⟩ : LdgJob)))
    let s := modLdg (fun l => { l with foldWant := false, fold := some cut, foldLeft := js.length, todo := l.todo ++ js }) s
    if js = [] then foldEnd cut s else setF pgLdg Reg.LDG_STAT_FOLDING 1 s
  else s

/-- Ask for a fold. -/
def wantFold (s : State) : State := modLdg (fun l => { l with foldWant := true }) s

/-- STAT after a change of gauge, pin or service: SERVICE or WRITE_THROUGH, and COMMIT_OK. A deferred fold starts and
waiting writes go on when they may. -/
def updLdg (s : State) : State :=
  let s := if ldgState s = 1 ∨ ldgState s = 2 then setF pgLdg Reg.LDG_STAT_STATE (if gaugeReady s then 1 else 2) s else s
  let s := setF pgLdg Reg.LDG_STAT_COMMIT_OK (if mayWrite s then 1 else 0) s
  pump (tryFold s)

/-! ### Completion of a write (R376, R381) -/

/-- The words of durable entries become what the ledger restores. -/
def baseWords (es : List LdgEntry) (s : State) : State :=
  modLdg (fun l => { l with base := es.foldl (fun b e => e.words.foldl (fun b w => sparsePut resetWord b w.1 w.2) b) l.base }) s

/-- What a write brings once its record has passed the check. -/
def jobDone (w : LdgWrite) (s : State) : State :=
  match w.job.why with
  | .entries =>
    let s := showLive (modLdg (fun l => { l with live := l.live ++ [w.role] }) (baseWords w.job.ents s))
    if 256 ≤ s.ldg.live.length then wantFold s else s
  | .fold =>
    match s.ldg.fold with
    | some cut =>
      if s.ldg.foldLeft ≤ 1 then foldEnd cut s else modLdg (fun l => { l with foldLeft := l.foldLeft - 1 }) s
    | none => s
  | .fw =>
    setF pgLdg Reg.LDG_FW_DONE 1 (modLdg (fun l => { l with fwTimes := assocPut l.fwTimes w.job.key s.io.now }) s)
  | .boot a t n v =>
    setF pgLdg Reg.LDG_BOOT_ACTIVE a (setF pgLdg Reg.LDG_BOOT_TRIAL t (setF pgLdg Reg.LDG_BOOT_TRIES n
      (setF pgLdg Reg.LDG_BOOT_SVN v s)))
  | .other => baseWords w.job.ents s

/-- A commit of firmware is refused (R385, R396). -/
def fwRefuse (code : Nat) (s : State) : State :=
  setF pgLdg Reg.LDG_FW_ERR 1 (setF pgLdg Reg.LDG_FW_CODE code (record pgLdg code s))

/-- A job that no record can serve any more: firmware's commits are refused, a fold goes on without the write, entries
wait for the next journal record. -/
def jobLost (w : LdgWrite) (s : State) : State :=
  match w.job.why with
  | .entries => modLdg (fun l => { l with todo := { w.job with role := none } :: l.todo }) s
  | .fold => jobDone w s
  | .fw => fwRefuse 0x70 s
  | .boot .. => fwRefuse 0x70 s
  | .other => s

/-- The second attempt fails too: the record is retired, its role goes to the lowest free reserve record, which is written
next, and REMAP is committed (R376, R389). -/
def retire (w : LdgWrite) (s : State) : State :=
  let s := bump pgLdg Reg.LDG_RETIRED 1 (modLdg (fun l => { l with retired := w.phys :: l.retired }) s)
  match reserveFree s with
  | f :: r =>
    let s := modLdg (fun l => { l with
      remap := assocPut l.remap w.role f
      todo := { w.job with role := some w.role } :: l.todo ++ [⟨0x1B, 0, 0, [], [], none, .other⟩] }) s
    let s := record pgLdg 0x73 (setF pgLdg Reg.LDG_RESERVE r.length s)
    if r.length < 64 then record pgLdg 0x75 s else s
  | [] => jobLost w (record pgLdg 0x73 (modLdg (fun l => { l with dead := w.role :: l.dead }) s))

/-- RECORD_WRITE_DONE (R376). -/
def execRecordWriteDone (bank : Nat) (crcOk : Bool) (s : State) : Host.Outcome State Fault Refusal :=
  .next (
    match s.ldg.busy.getD bank none with
    | none => s
    | some w =>
      let idle := fun (t : State) => modLdg (fun l => { l with busy := l.busy.set bank none }) t
      if crcOk then
        let s := modLdg (fun l => { l with recs := l.recs.map (fun e => if e.1 = w.phys then (e.1, { e.2 with ok := true }) else e) }) s
        updLdg (jobDone w (idle s))
      else if w.second then updLdg (retire w (idle s))
      else
        modLdg (fun l => { l with busy := l.busy.set bank (some { w with second := true }) })
          (putRecord w.job w.role w.phys 0 1 false s))

/-! ### The journal (R380) -/

/-- How many of the waiting entries the next record takes: up to 62, those that one event raises, which bear one time,
kept together. -/
def batchLen (q : List LdgEntry) : Nat :=
  if q.length ≤ 62 then q.length
  else
    let t := fun k => (q[k]?).map (fun e => e.time)
    ([62, 61, 60, 59].find? (fun n => t n ≠ t (n - 1))).getD 62

/-- Show the number of waiting entries. -/
def showQueue (s : State) : State := setF pgLdg Reg.LDG_QUEUE s.ldg.queue.length s

/-- JOURNAL_WRITE (R380). -/
def execJournalWrite (t : Nat) (s : State) : Host.Outcome State Fault Refusal :=
  .next (
    let s := at_ t s
    let rest : Bool := match s.ldg.lastJ with | some l => decide (l + 1000000 ≤ s.io.now) | none => true
    if s.ldg.queue ≠ [] ∧ rest ∧ mayWrite s ∧ (ringNext s 0 512 s.ldg.jpos s.ldg.live).isSome then
      let n := batchLen s.ldg.queue
      let j : LdgJob := ⟨1, 0, 0, [], s.ldg.queue.take n, none, .entries⟩
      pump (showQueue (modLdg (fun l => { l with queue := l.queue.drop n, lastJ := some s.io.now, todo := j :: l.todo }) s))
    else s)

/-! ### Flush (R386, R387) -/

/-- A checkpoint commit in progress is abandoned: CKPT_BUSY clears and the former generations stand (R217). -/
def abandonCkpt (s : State) : State :=
  (List.range 8).foldl (fun s n =>
    if flagI s pgAdm Reg.ADM_LREG_CTL_CKPT_BUSY n then
      bump pgLdg Reg.LDG_ABANDONED 1 (setFi pgAdm Reg.ADM_LREG_CTL_CKPT_BUSY n 0
        { s with lrn := { s.lrn with ckpt := s.lrn.ckpt.set n none } })
    else s) s

/-- A waiting write at the start of a flush: firmware's commits are refused, a fold and REMAP are left for recovery,
entries go back to the queue. -/
def dropJob? (j : LdgJob) (s : State) : State :=
  match j.why with
  | .entries => showQueue (modLdg (fun l => { l with queue := j.ents ++ l.queue }) s)
  | .fw => fwRefuse 0x70 s
  | .boot .. => fwRefuse 0x70 s
  | _ => s

/-- A flush starts (R386), if the gauge is ready and the ledger in service. -/
def startFlush (cause : Nat) (s : State) : State :=
  if gaugeReady s ∧ (ldgState s = 1 ∨ ldgState s = 2) then
    let waiting := s.ldg.todo
    let s := setF pgLdg Reg.LDG_STAT_STATE 3 (setF pgHld Reg.HLD_STAT_STATE 4 s)
    let s := setF pgLdg Reg.LDG_STAT_COMMIT_OK 0 (abandonCkpt s)
    let s := if s.ldg.fold ≠ none then setF pgLdg Reg.LDG_STAT_FOLDING 0 (bump pgLdg Reg.LDG_ABANDONED 1 s) else s
    let s := modLdg (fun l => { l with todo := [], fold := none, foldLeft := 0, foldWant := false, cause := cause }) s
    waiting.foldl (fun s j => dropJob? j s) s
  else s

/-- FLUSH_START (R386): POWER_FAIL_N has been low for 1 µs, or VDD_KA is below 3.0 V. Without a ready gauge the pin
alone changes what may be written (R383). -/
def execFlushStart (powerFail : Bool) (kaMv : Nat) (t : Nat) (s : State) : Host.Outcome State Fault Refusal :=
  .next (
    let s := modLdg (fun l => { l with pfail := powerFail || l.pfail }) (at_ t s)
    updLdg (if powerFail ∨ kaMv < 3000 then startFlush (if powerFail then 0 else 1) s else s))

/-- One journal record of a flush, written whole. -/
def flushRecord (es : List LdgEntry) (s : State) : State :=
  match ringNext s 0 512 s.ldg.jpos s.ldg.live with
  | some r =>
    let s := putRecord ⟨1, 0, 0, [], es, some r, .entries⟩ r (physOf s r) 0 1 true s
    showLive (baseWords es (modLdg (fun l => { l with jpos := (r + 1) % 512, live := l.live ++ [r] }) s))
  | none => bump pgLdg Reg.LDG_DROPPED es.length s

/-- The POWER_DOWN entry: the cause and the last TJ_MAX of each die (R378). -/
def powerDown (s : State) : LdgEntry :=
  ⟨8, 0, 1, devTime s, barCount s % 2 ^ 32,
   pad44 (leBytes 1 s.ldg.cause ++ (List.range 5).flatMap (fun i => leBytes 1 (getFi s pgThm Reg.THM_TJ_MAX i))), []⟩

/-- The half-cycle counts not yet committed: 20 counts of two bytes, by die and bin (R368). -/
def cyclesData (s : State) : List Byte := s.pwr.cycInc.flatMap (leBytes 2)

/-- The words that they give the THM page. -/
def cyclesWords (s : State) : List (Nat × Word) :=
  (List.range 20).filterMap (fun i =>
    if nth0 s.pwr.cycInc i = 0 then none
    else
      let a := fieldAddr pgThm Reg.THM_CYC (i / 4) (i % 4)
      some (a, regW s a))

/-- The CYCLES entry of a power-down, if there is anything to commit. -/
def cyclesEntry (s : State) : List LdgEntry :=
  if s.pwr.cycInc.all (· = 0) then [] else [⟨6, 0, 1, devTime s, barCount s % 2 ^ 32, pad44 (cyclesData s), cyclesWords s⟩]

/-- FLUSH_DONE (R386): the records in progress have completed, the queue and POWER_DOWN are in the journal. -/
def execFlushDone (t : Nat) (s : State) : Host.Outcome State Fault Refusal :=
  .next (
    let s := at_ t s
    if ldgState s = 3 then
      let running := s.ldg.busy.filterMap (fun w => w)
      let s := modLdg (fun l => { l with
        busy := [none, none]
        recs := l.recs.map (fun e => if running.any (fun w => w.phys = e.1) then (e.1, { e.2 with ok := true }) else e) }) s
      let s := running.foldl (fun s w => jobDone w s) s
      let s := (chunk62 8 (s.ldg.queue ++ cyclesEntry s ++ [powerDown s])).foldl (fun s es => flushRecord es s) s
      let s := showQueue (modLdg (fun l => { l with queue := [], foldWant := false }) s)
      let s := { s with pwr := { s.pwr with cycInc := List.replicate 20 0 } }
      let s := bump pgLdg Reg.LDG_FLUSHES 1 (setF pgLdg Reg.LDG_STAT_STATE 4 s)
      if hldState s = 4 then setF pgHld Reg.HLD_STAT_STATE 1 s else s
    else s)

/-- LEDGER_RESUME (R387): POWER_FAIL_N is high again and VDD_KA at least 3.0 V, 1 ms after a flush. While no flush has been made
the pin's rise alone permits writing again. -/
def execLedgerResume (t : Nat) (s : State) : Host.Outcome State Fault Refusal :=
  .next (
    let s := modLdg (fun l => { l with pfail := false }) (at_ t s)
    if ldgState s = 4 then
      updLdg (journal 11 0 [] [] (setF pgLdg Reg.LDG_STAT_STATE 1 s))
    else updLdg s)

/-! ### Recovery (R388) -/

/-- All durable journal entries, oldest first. -/
def journalAll (s : State) : List LdgEntry := liveEntries s 0

/-- Has a POWER_DOWN followed the newest BOOT_START: in the journal, else in WEAR, which both are folded into. -/
def cleanDown (s : State) : Bool :=
  let l := ((match committed s 0x17 0 with | some x => x.ents | none => []) ++
    (liveEntries s (match committed s 0x17 0 with | some x => x.aux | none => 0))).filter (fun e => e.etype = 8 ∨ e.etype = 10)
  match l.getLast? with
  | some e => e.etype = 8
  | none => true

/-- Objects of which both copies are invalid although one was written (0x76). -/
def lostObjects (s : State) : Nat :=
  ((List.range 64).filter (fun i =>
    match recOf s (512 + 2 * i), recOf s (513 + 2 * i) with
    | some a, some b => a.ok = false && b.ok = false
    | some a, none => a.ok = false
    | none, some b => b.ok = false
    | none, none => false)).length

/-- LEDGER_RECOVERY_DONE (R388); a boot that waits for it goes on (R428). -/
def execLedgerRecoveryDone (us : Nat) (t : Nat) (s : State) : Host.Outcome State Fault Refusal :=
  .next (
    let s := at_ t s
    if ldgState s ≠ 0 then s
    else
      let s := if getF s pgHubId Reg.HUB_ID_BOOT_STAT_STAGE = 2 then setF pgHubId Reg.HUB_ID_BOOT_STAT_STAGE 3 s else s
      let s := setF pgLdg Reg.LDG_RECOVERY_US us s
      if s.ldg.keyOk = false ∧ s.ldg.recs ≠ [] then record pgLdg 0x78 (setF pgLdg Reg.LDG_STAT_STATE 5 s)
      else
        let torn := (s.ldg.recs.filter (fun e => e.2.ok = false)).length
        let top := maxOf ((s.ldg.recs.filter (fun e => e.2.ok)).map (fun e => e.2.seq))
        let s := setF pgLdg Reg.LDG_TORN torn s
        let s := if s.ldg.recs = [] then s else setLdgSeq (top + 64) s
        let s := (List.range (lostObjects s)).foldl (fun s _ => record pgLdg 0x76 s) s
        let s := if cleanDown s then s else record pgLdg 0x77 s
        let s := setF pgLdg Reg.LDG_RESERVE (reserveFree s).length s
        let s := journal 10 0 [] [] (setF pgLdg Reg.LDG_STAT_STATE 1 (showLive s))
        updLdg (wantFold s))

/-! ### Firmware's commands (R385, R396) -/

/-- Refuse a commit for permission, with FW.ERR (R383, R396). -/
def refused70 (s : State) : State := fwRefuse 0x70 s

/-- Queue a commit, which starts at once if a bank permits. -/
def commit (j : LdgJob) (s : State) : State := pump (modLdg (fun l => { l with todo := l.todo ++ [j] }) s)

/-- The device address of FW.BUF. -/
def fwBuf (s : State) : Nat := getF s pgLdg Reg.LDG_FW_BUF * 64

/-- Do `n` bytes from FW.BUF lie in hub SRAM. -/
def fwBufOk (s : State) (n : Nat) : Bool := 0x04000000 ≤ fwBuf s && fwBuf s + n ≤ 0x06000000

/-- LDG.FW.WRITE: FWOBJ KEY from LEN bytes at BUF. A LEN outside 1 to 3,968, a KEY above 15 and a BUF outside hub SRAM are no
write (log entry 25). -/
def fwWrite (s : State) : State :=
  let k := getF s pgLdg Reg.LDG_FW_KEY
  let n := getF s pgLdg Reg.LDG_FW_LEN
  if 15 < k ∨ n = 0 ∨ 3968 < n ∨ fwBufOk s n = false then s
  else if (match assoc s.ldg.fwTimes k with | some t => decide (s.io.now < t + 10000000000) | none => false) then
    fwRefuse 0x7F s
  else if mayWrite s = false then refused70 s
  else commit ⟨0x20, k, 0, memBytes s (fwBuf s) n, [], none, .fw⟩ s

/-- The 64 bytes of an entry (R378). -/
def ldgBytes (e : LdgEntry) : List Byte :=
  leBytes 2 e.etype ++ leBytes 2 e.key ++ leBytes 4 e.count ++ leBytes 8 (unsint 64 e.time) ++ leBytes 4 e.bar ++ e.data

/-- The payload that FW.READ copies. FWOBJ and CALIB are what was written and a fault ring record holds its entries; the layout of
the other objects is open, so their bytes are free values (log entry 24). -/
def payloadOf (x : LdgRec) (s : State) : List Byte × State :=
  if x.typ = 0x20 ∨ (x.typ = 0x15 ∧ x.data ≠ []) then (x.data, s)
  else if x.typ = 2 then (x.ents.flatMap ldgBytes, s)
  else
    let r := drawFree 31744 s
    (leBytes 3968 r.1, r.2)

/-- LDG.FW.READ. An object that the ledger does not hold is refused; a ring record that fails its checks records 0x72. -/
def fwRead (s : State) : State :=
  let t := getF s pgLdg Reg.LDG_FW_TYPE
  let k := getF s pgLdg Reg.LDG_FW_KEY
  let x := if t = 2 then (if k < 256 then recOf s (640 + k) else none)
    else if (0x10 ≤ t ∧ t ≤ 0x1B) ∨ t = 0x20 then committed s t k else none
  match x with
  | some x =>
    if x.ok = false then fwRefuse 0x72 s
    else
      let r := payloadOf x s
      if fwBufOk s r.1.length then setF pgLdg Reg.LDG_FW_DONE 1 (memWrite (fwBuf s) r.1 r.2) else s
  | none => setF pgLdg Reg.LDG_FW_ERR 1 (setF pgLdg Reg.LDG_FW_CODE 0 s)

/-- LDG.FW.ENTRY: an FW entry from the 44 bytes at BUF, at most 10 in a second. -/
def fwEntry (s : State) : State :=
  let recent := s.ldg.fwEnts.filter (fun t => s.io.now < t + 1000000000)
  if fwBufOk s 44 = false then s
  else if 10 ≤ recent.length then fwRefuse 0x7F s
  else
    let s := modLdg (fun l => { l with fwEnts := s.io.now :: recent }) s
    setF pgLdg Reg.LDG_FW_DONE 1 (journal 16 (getF s pgLdg Reg.LDG_FW_KEY) (memBytes s (fwBuf s) 44) [] s)

/-- LDG_FW_WRITE (R385). -/
def execLdgFwWrite (by_ : Agent) (t : Nat) (s : State) : Host.Outcome State Fault Refusal :=
  .next (asGuarded pgLdg 0x80 by_ fwWrite (at_ t s))

/-- LDG_FW_READ (R385). -/
def execLdgFwRead (by_ : Agent) (s : State) : Host.Outcome State Fault Refusal := .next (asGuarded pgLdg 0x80 by_ fwRead s)

/-- LDG_FW_ENTRY (R385). -/
def execLdgFwEntry (by_ : Agent) (t : Nat) (s : State) : Host.Outcome State Fault Refusal :=
  .next (asGuarded pgLdg 0x80 by_ fwEntry (at_ t s))

/-- A commit of BOOT; one that is refused leaves BOOT unchanged and sets FW.ERR (R396). -/
def commitBoot (active trial tries svn : Nat) (s : State) : State :=
  if mayWrite s then commit ⟨0x19, 0, 0, [], [], none, .boot active trial tries svn⟩ s else refused70 s

/-- BOOT.ACTIVE. -/
def bootActive (s : State) : Nat := getF s pgLdg Reg.LDG_BOOT_ACTIVE
/-- BOOT.SVN. -/
def bootSvn (s : State) : Nat := getF s pgLdg Reg.LDG_BOOT_SVN

/-- BOOT.CTL.TRIAL: the other slot is tried. -/
def bootTrial (s : State) : State := commitBoot (bootActive s) 1 0 (bootSvn s) s

/-- BOOT.CTL.CONFIRM, by the trial image: its slot becomes active and SVN rises to its version. -/
def bootConfirm (s : State) : State :=
  if flag s pgLdg Reg.LDG_BOOT_TRIAL then
    commitBoot (1 - bootActive s) 0 (getF s pgLdg Reg.LDG_BOOT_TRIES) (Nat.max (bootSvn s) (getF s pgSec Reg.SEC_IMG_SVN)) s
  else s

/-- BOOT.CTL.CANCEL. -/
def bootCancel (s : State) : State := commitBoot (bootActive s) 0 (getF s pgLdg Reg.LDG_BOOT_TRIES) (bootSvn s) s

/-- BOOT_TRIAL (R396). -/
def execBootTrial (by_ : Agent) (s : State) : Host.Outcome State Fault Refusal := .next (asGuarded pgLdg 0xA8 by_ bootTrial s)

/-- BOOT_CONFIRM (R396). -/
def execBootConfirm (by_ : Agent) (s : State) : Host.Outcome State Fault Refusal := .next (asGuarded pgLdg 0xA8 by_ bootConfirm s)

/-- BOOT_CANCEL (R396). -/
def execBootCancel (by_ : Agent) (s : State) : Host.Outcome State Fault Refusal := .next (asGuarded pgLdg 0xA8 by_ bootCancel s)

/-! ### The hold-up store (R390 to R395) -/

/-- The HOLDUP entry: C_MEAS and DEGRADED. -/
def holdupEntry (s : State) : State :=
  let a := fieldAddr pgHld Reg.HLD_STAT_DEGRADED 0 0
  let b := fieldAddr pgHld Reg.HLD_C_MEAS 0 0
  journal 12 0 (leBytes 4 (cMeas s) ++ leBytes 1 (getF s pgHld Reg.HLD_STAT_DEGRADED)) [(a, regW s a), (b, regW s b)] s

/-- Set DEGRADED, which is kept in HOLDUP; recording `code` when it was clear. -/
def setDegraded (s : State) : State :=
  if flag s pgHld Reg.HLD_STAT_DEGRADED then s else holdupEntry (setF pgHld Reg.HLD_STAT_DEGRADED 1 s)

/-- DEGRADED with 0x7C, when it was clear (R395). -/
def degrade (s : State) : State :=
  if flag s pgHld Reg.HLD_STAT_DEGRADED then s else record pgHld 0x7C (setDegraded s)

/-- Clear DEGRADED. -/
def clearDegraded (s : State) : State := holdupEntry (setF pgHld Reg.HLD_STAT_DEGRADED 0 s)

/-- An energy in mJ, as the registers show it. -/
def milliJ (s : State) (e : Int) : Nat :=
  if cEff s = 0 then 0 else Nat.min 65535 (roundOpen e (2 * cEff s * 1000000000)).toNat

/-- Show the energies; during a flush the usable figure stays as before it (R394). -/
def showEnergy (s : State) : State :=
  let s := setF pgHld Reg.HLD_E_VOLT (milliJ s (eVolt s)) (setF pgHld Reg.HLD_E_CNT (milliJ s (eCnt s))
    (setF pgHld Reg.HLD_E_FULL (milliJ s (eFull s)) s))
  if hldState s = 4 then s else setF pgHld Reg.HLD_E_USABLE (milliJ s (eUsable s)) s

/-- The charger starts: whether below 0.6 × V_TGT decides if this charge measures C_MEAS. -/
def startCharge (s : State) : State :=
  modHld (fun h => { h with low := decide (10 * getF s pgHld Reg.HLD_V_HOLD < 6 * getF s pgHld Reg.HLD_V_TGT), mark := none })
    (setF pgHld Reg.HLD_STAT_CHARGE 1 s)

/-- The measurement of C_MEAS in a charge: the charge counted between 0.6 and 0.95 × V_TGT (R393). -/
def measureC (s : State) : State :=
  let v := getF s pgHld Reg.HLD_V_HOLD
  let vt := getF s pgHld Reg.HLD_V_TGT
  if getF s pgHld Reg.HLD_STAT_CHARGE = 0 ∨ s.hld.low = false then s
  else match s.hld.mark with
    | none => if 6 * vt ≤ 10 * v then modHld (fun h => { h with mark := some h.q }) s else s
    | some m =>
      if 95 * vt ≤ 100 * v then
        let c := (roundOpen ((s.hld.q - m) * 100) (35 * vt)).toNat
        let s := setF pgHld Reg.HLD_C_MEAS c (modHld (fun h => { h with low := false, mark := none, measured := true }) s)
        let s := holdupEntry s
        if 10 * c < 7 * getF s pgHld Reg.HLD_C_RATED then degrade s else s
      else s

/-- The charger between samples: it starts in UNKNOWN, tops up below 0.98 × V_TGT, and holds V_TGT once reached. -/
def chargerStep (s : State) : State :=
  let v := getF s pgHld Reg.HLD_V_HOLD
  let vt := getF s pgHld Reg.HLD_V_TGT
  let c := getF s pgHld Reg.HLD_STAT_CHARGE
  if hldState s = 3 then s
  else if c = 0 ∧ (hldState s = 0 ∨ 100 * v < 98 * vt) then startCharge s
  else if c = 1 ∧ vt ≤ v then setF pgHld Reg.HLD_STAT_CHARGE 2 s
  else s

/-- The gauge's states (R394) and the mark of R395. -/
def gaugeStates (s : State) : State :=
  let s := if gaugeReady s ∧ eVolt s < eOf s 25 ∧ 9 * eFull s ≤ 10 * eCnt s then degrade s else s
  if hldState s = 1 ∧ eCnt s < eOf s 25 ∧ eOf s 50 ≤ eVolt s then record pgHld 0x7B (setF pgHld Reg.HLD_STAT_STATE 2 s)
  else if hldState s = 2 ∧ eVolt s < eOf s 50 then setF pgHld Reg.HLD_STAT_STATE 1 s
  else s

/-- No store is fitted: the charger is off and the gauge ABSENT (R390). -/
def noStore (s : State) : State := setF pgHld Reg.HLD_STAT_CHARGE 0 (setF pgHld Reg.HLD_STAT_STATE 3 s)

/-- GAUGE_SAMPLE (R393): the mean voltage of 1 ms, the charger's current, and the hold-up current out. The charge does not count
below 0 (log entry 26). -/
def execGaugeSample (vMv : Nat) (inMa : Int) (outMa : Nat) (s : State) : Host.Outcome State Fault Refusal :=
  .next (
    let s := setF pgHld Reg.HLD_I_MEAS (unsint 16 (inMa - outMa)) (setF pgHld Reg.HLD_V_HOLD vMv s)
    let s := modHld (fun h => { h with q := max 0 (h.q + (inMa - outMa) * 1000 - getF s pgHld Reg.HLD_LEAK) }) s
    let s := if getF s pgHld Reg.HLD_C_RATED = 0 then noStore s else gaugeStates (chargerStep (measureC s))
    updLdg (showEnergy s))

/-- FULL_CHARGE (R390, R393, R394). -/
def execFullCharge (s : State) : Host.Outcome State Fault Refusal :=
  .next (
    if getF s pgHld Reg.HLD_STAT_CHARGE ≠ 0 then
      let s := setF pgHld Reg.HLD_STAT_CHARGE 0 (bump pgHld Reg.HLD_CHARGES 1 s)
      let s := modHld (fun h => { h with q := (cEff s : Int) * getF s pgHld Reg.HLD_V_TGT }) s
      let s := if hldState s ≤ 2 then setF pgHld Reg.HLD_STAT_STATE 1 s else s
      updLdg (showEnergy s)
    else s)

/-- CHARGE_TIMEOUT (R390). -/
def execChargeTimeout (s : State) : Host.Outcome State Fault Refusal :=
  .next (if getF s pgHld Reg.HLD_STAT_CHARGE ≠ 0 then setDegraded (record pgHld 0x7D s) else s)

/-- A removal is detected (R391): the charger stops, the gauge becomes ABSENT. -/
def storeRemoved (s : State) : State :=
  let s := bump pgHld Reg.HLD_REMOVALS 1 (noStore (modHld (fun h => { h with pulses := 0 }) s))
  updLdg (showEnergy (record pgHld 0x79 s))

/-- STORE_REMOVAL (R391): HOLD_P has risen above 1.05 × V_TGT as the charge current fell. -/
def execStoreRemoval (s : State) : Host.Outcome State Fault Refusal :=
  .next (if hldState s ≠ 3 then storeRemoved s else s)

/-- PRESENCE_PULSE (R391, R392): the rise of HOLD_P that the pulse made. -/
def execPresencePulse (riseMv : Nat) (s : State) : Host.Outcome State Fault Refusal :=
  .next (
    if getF s pgHld Reg.HLD_C_RATED = 0 then s
    else if hldState s = 3 then
      if 50 < riseMv then modHld (fun h => { h with pulses := 0 }) s
      else if s.hld.pulses < 2 then modHld (fun h => { h with pulses := h.pulses + 1 }) s
      else
        let s := record pgHld 0x7A (modHld (fun h => { h with pulses := 0 }) s)
        updLdg (showEnergy (startCharge (setF pgHld Reg.HLD_STAT_STATE 0 (clearDegraded s))))
    else if getF s pgHld Reg.HLD_STAT_CHARGE = 0 ∧ 250 < riseMv then storeRemoved s
    else s)

/-- CLR_DEG (R395). -/
def execClrDeg (by_ : Agent) (s : State) : Host.Outcome State Fault Refusal :=
  .next (asMaster pgHld 0x60 by_ clearDegraded s)

end Sys2Proof.Machine
end

