-- ==== Sys2Proof/Machine/Learning.lean ====
section
/-! DEFINITION. Learning in service (R201 to R220): the optimiser descriptors as commands, the step groups at a bar
boundary, the learned regions' requests and states, and their checkpoints. -/

namespace Sys2Proof.Machine

open Sys2Proof

/-! ### OPT_STEP (R206, R210) -/

/-- The clocks of an OPT_STEP by the second term of R210 (log entry 27). -/
def optClocks (raw : List Byte) : Nat :=
  let n := oCount raw
  let m := oMode raw
  let a := n * elemBits (dFmtA raw) / 8
  let c := n * elemBits (dFmtC raw) / 8
  let bytes := if m = 0 then a + c else if m = 1 then a else a + 2 * c + 2 * n * (if oAdam raw then 8 else 4)
  Nat.max (ceilDiv bytes 256) (ceilDiv n 256 * (if m = 2 then (if oAdam raw then 6 else 2) else 1)) + 64

/-- The engine completes the OPT_STEP of mode `m` that it is executing. -/
def optDone (m die eng : Nat) (s : State) : State :=
  match running s die eng with
  | some (_, x) => if dKind x.raw = 9 ∧ oMode x.raw = m then tryComplete die eng (optClocks x.raw) s else s
  | none => s

/-- OPT_SEED (R206). -/
def execOptSeed (die eng : Nat) (s : State) : Host.Outcome State Fault Refusal := .next (optDone 0 die eng s)

/-- OPT_CHECK (R206). -/
def execOptCheck (die eng : Nat) (s : State) : Host.Outcome State Fault Refusal := .next (optDone 1 die eng s)

/-- OPT_APPLY (R206). -/
def execOptApply (die eng : Nat) (s : State) : Host.Outcome State Fault Refusal := .next (optDone 2 die eng s)

/-- Step group g at a bar boundary (R208). -/
def groupBoundary (g : Nat) (s : State) : State :=
  if s.lrn.touched.contains g = false then s
  else
    let skip := getF s pgAdm Reg.ADM_OPT_STAT_SKIP
    let ls := sint 8 (getFi s pgAdm Reg.ADM_LS_LS_EXP g)
    let s :=
      if skip.testBit g then
        record pgAdm 0x1C (bump pgAdm Reg.ADM_OPT_SKIPS 1 (setFi pgAdm Reg.ADM_GROWTH_CLEAN g 0
          (setFi pgAdm Reg.ADM_LS_LS_EXP g (unsint 8 (max (sint 8 (getFi s pgAdm Reg.ADM_LS_LS_MIN g)) (ls - 1))) s)))
      else if s.lrn.applied.contains g then
        let s := setFi pgAdm Reg.ADM_OPT_T g ((getFi s pgAdm Reg.ADM_OPT_T g + 1) % 2 ^ 32) s
        let c := getFi s pgAdm Reg.ADM_GROWTH_CLEAN g + 1
        if getFi s pgAdm Reg.ADM_GROWTH_GROWTH g ≤ c then
          setFi pgAdm Reg.ADM_GROWTH_CLEAN g 0
            (setFi pgAdm Reg.ADM_LS_LS_EXP g (unsint 8 (min (sint 8 (getFi s pgAdm Reg.ADM_LS_LS_MAX g)) (ls + 1))) s)
        else setFi pgAdm Reg.ADM_GROWTH_CLEAN g c s
      else s
    setF pgAdm Reg.ADM_OPT_STAT_SKIP (putBits (getF s pgAdm Reg.ADM_OPT_STAT_SKIP) g 1 0) s

/-- The four step groups at a bar boundary; the next bar has seen nothing. -/
def groupsBoundary (s : State) : State :=
  let s := (List.range 4).foldl (fun s g => groupBoundary g s) s
  { s with lrn := { s.lrn with touched := [], applied := [] } }

/-! ### Requests for a region's state (R212 to R214) -/

/-- Is a request of region n pending in this bar. -/
def reqPending (s : State) (n : Nat) : Option LReq := (s.lrn.req.getD n none)

/-- Is a commit of region n in progress. -/
def ckptBusy (s : State) (n : Nat) : Bool := flagI s pgAdm Reg.ADM_LREG_CTL_CKPT_BUSY n

/-- TORN of region n. -/
def lregTorn (s : State) (n : Nat) : Bool := flagI s pgAdm Reg.ADM_LREG_CTL_TORN n

/-- Is the transition one of *Learned-region states*. -/
def lregListed (st : Nat) (torn : Bool) : LReq → Bool
  | .opn => st = 0 || (st = 1 && torn) || st = 3 || st = 4
  | .freeze => st = 1 && !torn
  | .restore => st = 1 || st = 3 || st = 4
  | .off => st = 1 || st = 3 || st = 4
  | .vet => st = 3

/-- Does region n, opened, overlap a region that is not OFF or is about to open. -/
def lregOverlaps (s : State) (n : Nat) : Bool :=
  let r := lregRange s n
  (List.range 8).any (fun m =>
    let q := lregRange s m
    m ≠ n && (lregState s m ≠ 0 || reqPending s m = some .opn) && decide (r.1 < q.1 + q.2 ∧ q.1 < r.1 + r.2))

/-- The accesses of every descriptor of the held tables' strokes: stroke, die, access. -/
def heldAccs (s : State) : List (Stroke × Nat × MemAcc) :=
  ((heldStrokes s).filter stIsRun).flatMap (fun k =>
    let all := fetchList s 4096 (stDesc k * 64)
    (stDieList k).flatMap (fun d =>
      (selectedFor d all).flatMap (fun x => (fixedAccs s d k x.2).map (fun a => (k, d, a)))))

/-- Does a held table's access with a property touch region n. -/
def heldTouches (s : State) (n : Nat) (f : Stroke → MemAcc → Bool) : Bool :=
  (heldAccs s).any (fun x =>
    f x.1 x.2.2 && (match (if x.2.2.sp = 3 then none else accAddr x.2.1 x.2.2) with
      | some a => touchesLreg s n a x.2.2.len
      | none => false))

/-- Is a request refused (R213). -/
def lregRefused (s : State) (n : Nat) (r : LReq) : Bool :=
  let st := lregState s n
  let len := getFi s pgAdm Reg.ADM_LREG_LEN n
  (reqPending s n).isSome || ckptBusy s n || !lregListed st (lregTorn s n) r ||
  (decide (r = .opn) && (len = 0 || 1048576 < len || (st = 0 && lregOverlaps s n))) ||
  (st = 1 && r ≠ .opn && !(decide (r = .restore) && lregTorn s n) && heldTouches s n (fun _ x => x.wr)) ||
  (st = 4 && heldTouches s n (fun k x => stClass k = 0 && !x.wr))

/-- A request of region n is refused with a code, shown in LAST_ERR. -/
def lregRefuse (n code : Nat) (s : State) : State := setFi pgAdm Reg.ADM_LREG_CTL_LAST_ERR n code (record pgAdm code s)

/-- A request for a transition of region n. -/
def lregRequest (n : Nat) (r : LReq) (s : State) : State :=
  if 8 ≤ n then s
  else if lregRefused s n r then lregRefuse n 0x1D s
  else { s with lrn := { s.lrn with req := s.lrn.req.set n (some r) } }

/-- A write of VET: only by the island in charge, in FROZEN, with the digest (R214). -/
def lregVet (who : Agent) (n : Nat) (v : Word) (s : State) : State :=
  if inCharge s who ∧ v.toNat = getFi s pgAdm Reg.ADM_LREG_DIGEST n then lregRequest n .vet s
  else if n < 8 then lregRefuse n 0x1D s else s

/-- LREG_OPEN (R213). -/
def execLregOpen (by_ : Agent) (n : Nat) (s : State) : Host.Outcome State Fault Refusal := .next (asMaster pgAdm (0x108 + n * 0x40) by_ (lregRequest n .opn) s)

/-- LREG_FREEZE (R213, R214). -/
def execLregFreeze (by_ : Agent) (n : Nat) (s : State) : Host.Outcome State Fault Refusal := .next (asMaster pgAdm (0x108 + n * 0x40) by_ (lregRequest n .freeze) s)

/-- LREG_RESTORE (R213, R218). -/
def execLregRestore (by_ : Agent) (n : Nat) (s : State) : Host.Outcome State Fault Refusal := .next (asMaster pgAdm (0x108 + n * 0x40) by_ (lregRequest n .restore) s)

/-- LREG_OFF (R213). -/
def execLregOff (by_ : Agent) (n : Nat) (s : State) : Host.Outcome State Fault Refusal := .next (asMaster pgAdm (0x108 + n * 0x40) by_ (lregRequest n .off) s)

/-- LREG_VET (R214). -/
def execLregVet (by_ : Agent) (n : Nat) (v : Word) (s : State) : Host.Outcome State Fault Refusal := .next (asMaster pgAdm (0x10C + n * 0x40) by_ (lregVet by_ n v) s)

/-- Region n changes state, which advances CFG_GEN (R212). -/
def lregGo (n st : Nat) (s : State) : State := setFi pgAdm Reg.ADM_LREG_CTL_STATE n st (advanceCfgGen s)

/-- Region n's request takes effect at a bar boundary. -/
def lregBoundary (n : Nat) (s : State) : State :=
  match reqPending s n with
  | none => s
  | some r =>
    let s := { s with lrn := { s.lrn with req := s.lrn.req.set n none } }
    match r with
    | .opn => if lregState s n = 1 then setFi pgAdm Reg.ADM_LREG_CTL_TORN n 0 s else lregGo n 1 s
    | .freeze => lregGo n 2 s
    | .restore => lregGo n 5 s
    | .off => lregGo n 0 s
    | .vet => lregGo n 4 s

/-- DIGEST_DONE (R214). -/
def execDigestDone (n : Nat) (s : State) : Host.Outcome State Fault Refusal :=
  .next (
    if n < 8 ∧ lregState s n = 2 then
      let r := lregRange s n
      lregGo n 3 (setFi pgAdm Reg.ADM_LREG_DIGEST n ((Config.sha384 (memBytes s r.1 r.2)).headD 0).toNat s)
    else s)

/-! ### Checkpoints (R216 to R218, R382) -/

/-- Records of a generation of `len` bytes. -/
def genRecs (len : Nat) : Nat := ceilDiv len 3968

/-- Records of the generations kept once region n's PREVIOUS is dropped. -/
def keptRecs (s : State) (n : Nat) : Nat :=
  sumOf (s.lrn.gens.zipIdx.map (fun g =>
    (match g.1.1 with | some x => x.roles.length | none => 0) +
    (match g.1.2 with | some x => if g.2 = n then 0 else x.roles.length | none => 0)))

/-- The generation that a commit of region n will make; its number follows CURRENT's and is never 0 (log entry 28). -/
def newGen (s : State) (n : Nat) : LGen :=
  let cur := match (s.lrn.gens.getD n (none, none)).1 with | some g => g.num | none => 0
  let grp := getFi s pgAdm Reg.ADM_LREG_CTL_GRP n
  ⟨[], (lregRange s n).2, getFi s pgAdm Reg.ADM_LREG_FORMAT n,
   getFi s pgAdm Reg.ADM_LREG_BIND_LO n + 2 ^ 32 * getFi s pgAdm Reg.ADM_LREG_BIND_HI n,
   getFi s pgAdm Reg.ADM_LREG_DIGEST n, if cur = 65535 then 1 else cur + 1,
   getFi s pgAdm Reg.ADM_LS_LS_EXP grp, getFi s pgAdm Reg.ADM_OPT_T grp⟩

/-- A request for a checkpoint of region n (R217): refused with 0x1D while TORN or a commit is in progress, with 0x1E when a
condition fails, and with 0x70 when no object commit is permitted (R383). -/
def lregCkpt (n : Nat) (s : State) : State :=
  let len := (lregRange s n).2
  if 8 ≤ n then s
  else if ckptBusy s n ∨ lregTorn s n then lregRefuse n 0x1D s
  else if (lregState s n ≠ 3 ∧ lregState s n ≠ 4) ∨ 1048576 < len ∨ 1586 < keptRecs s n + genRecs len then lregRefuse n 0x1E s
  else if mayWrite s = false then setFi pgAdm Reg.ADM_LREG_CTL_LAST_ERR n 0x70 (record pgLdg 0x70 s)
  else
    setFi pgAdm Reg.ADM_LREG_CTL_CKPT_BUSY n 1 { s with lrn := { s.lrn with ckpt := s.lrn.ckpt.set n (some (newGen s n)) } }

/-- LREG_CKPT (R217). -/
def execLregCkpt (by_ : Agent) (n : Nat) (s : State) : Host.Outcome State Fault Refusal := .next (asMaster pgAdm (0x108 + n * 0x40) by_ (lregCkpt n) s)

/-- WCNT of a role's record. -/
def wcntOf (s : State) (r : Nat) : Nat := match recOf s r with | some x => x.wcnt | none => 0

/-- The pool roles that no generation names, least written first (R382, R389). -/
def freePool (s : State) : List Nat :=
  let used := s.lrn.gens.flatMap (fun g =>
    (match g.1 with | some x => x.roles | none => []) ++ (match g.2 with | some x => x.roles | none => []))
  let free := ((List.range 1856).map (· + 896)).filter (fun r => !used.contains r && !s.ldg.dead.contains r)
  ((free.map (fun r => (wcntOf s r, r))).insertionSort (fun a b => a.1 < b.1 ∨ (a.1 = b.1 ∧ a.2 ≤ b.2))).map (fun x => x.2)

/-- Write a generation's bytes to its pool records. -/
def writeGen (n : Nat) (g : LGen) (bytes : List Byte) (s : State) : State :=
  g.roles.zipIdx.foldl (fun s x =>
    putRecord ⟨3, n, g.num + 65536 * n, (bytes.drop (3968 * x.2)).take 3968, [], some x.1, .other⟩ x.1 (physOf s x.1) x.2
      g.roles.length true s) s

/-- Show the generation numbers of region n. -/
def showGens (n : Nat) (s : State) : State :=
  let g := s.lrn.gens.getD n (none, none)
  setFi pgAdm Reg.ADM_LREG_GEN_CUR n (match g.1 with | some x => x.num | none => 0)
    (setFi pgAdm Reg.ADM_LREG_GEN_PREV n (match g.2 with | some x => x.num | none => 0) s)

/-- The write of CKPTDIR, which is the commit point (R382). -/
def writeCkptdir (s : State) : State :=
  match nextSlot s 0x18 0 with
  | some r => putRecord ⟨0x18, 0, 0, [], [], some r, .other⟩ r (physOf s r) 0 1 true s
  | none => s

/-- CKPT_COMMIT_DONE (R217, R382): the records and CKPTDIR are written, and the generations rotate. -/
def execCkptCommitDone (n : Nat) (s : State) : Host.Outcome State Fault Refusal :=
  .next (
    match s.lrn.ckpt.getD n none with
    | none => s
    | some g =>
      let g := { g with roles := (freePool s).take (genRecs g.len) }
      let s := writeCkptdir (writeGen n g (memBytes s (lregRange s n).1 g.len) s)
      let s := { s with lrn := { s.lrn with
        ckpt := s.lrn.ckpt.set n none
        gens := s.lrn.gens.modify n (fun x => (some g, x.1)) } }
      showGens n (setFi pgAdm Reg.ADM_LREG_CTL_CKPT_BUSY n 0 s))

/-- The contents of a generation. -/
def genData (s : State) (g : LGen) : List Byte :=
  (g.roles.flatMap (fun r => match recOf s r with | some x => x.data | none => [])).take g.len

/-- Why a restore of region n from a generation is refused: 1 absent, 2 FORMAT, 3 BIND, 4 CRC (R218). -/
def restoreCause (s : State) (n : Nat) (crcOk : Bool) : Option LGen → Option Nat
  | none => some 1
  | some g =>
    if g.format ≠ getFi s pgAdm Reg.ADM_LREG_FORMAT n then some 2
    else if g.bind ≠ getFi s pgAdm Reg.ADM_LREG_BIND_LO n + 2 ^ 32 * getFi s pgAdm Reg.ADM_LREG_BIND_HI n then some 3
    else if !crcOk || g.roles.any (fun r => match recOf s r with | some x => !x.ok | none => true) then some 4
    else none

/-- RESTORE_DONE (R218): the copy has run, or is refused; `crcOk` says whether every record's CRC-32C holds. A generation longer than the
region fills it (log entry 28). -/
def execRestoreDone (n : Nat) (crcOk : Bool) (s : State) : Host.Outcome State Fault Refusal :=
  .next (
    if n < 8 ∧ lregState s n = 5 then
      let gs := s.lrn.gens.getD n (none, none)
      let g := if getFi s pgAdm Reg.ADM_LREG_CTL_GEN n = 0 then gs.1 else gs.2
      match restoreCause s n crcOk g, g with
      | none, some g =>
        let r := lregRange s n
        let grp := getFi s pgAdm Reg.ADM_LREG_CTL_GRP n
        let s := memWrite r.1 ((genData s g).take r.2) s
        let s := setFi pgAdm Reg.ADM_LS_LS_EXP grp g.lsExp (setFi pgAdm Reg.ADM_OPT_T grp g.optT s)
        lregGo n 2 (setFi pgAdm Reg.ADM_LREG_CTL_TORN n 0 (setFi pgAdm Reg.ADM_LREG_CTL_CAUSE n 0 s))
      | c, _ => lregGo n 1 (setFi pgAdm Reg.ADM_LREG_CTL_CAUSE n (c.getD 1) (lregRefuse n 0x1E s))
    else s)

end Sys2Proof.Machine
end

