-- ==== Sys2Proof/Machine/Ingest.lean ====
section
/-! DEFINITION. Sensor ingest (R221 to R230, R237 to R240, R466): stream configuration, camera frames and their verdicts,
health and usable bits, and what a bar boundary does to a stream. -/

namespace Sys2Proof.Machine

open Sys2Proof

/-- A stream beside its page. -/
def strmOf (s : State) (sm : Nat) : Strm := s.ing.getD sm (Strm.fresh sm)

/-- Change a stream. -/
def modStrm (sm : Nat) (f : Strm → Strm) (s : State) : State := { s with ing := s.ing.modify sm f }

/-- Change a stream's frame. -/
def modFrame (sm : Nat) (f : Frame → Frame) (s : State) : State := modStrm sm (fun x => { x with frame := x.frame.map f }) s

/-- A field of a configuration given by the words of offsets 0x040 to 0x074. -/
def cfgF (c : List Word) (r : Row) : Nat := bitsOf (c.getD ((r.off - 64) / 4) 0).toNat r.lo r.w

/-- A field of a stream's configuration in force. -/
def strmF (s : State) (sm : Nat) (r : Row) : Nat := cfgF (strmOf s sm).cfg r

/-- A count field, in which 0 acts as one more than the field's largest value (R239). -/
def countF (s : State) (sm : Nat) (r : Row) : Nat := if strmF s sm r = 0 then 2 ^ r.w else strmF s sm r

/-- KIND of a stream that is enabled, else 0. -/
def strmKind (s : State) (sm : Nat) : Nat :=
  if strmF s sm Reg.ING_CTL_ENABLE = 1 then strmF s sm Reg.ING_CTL_KIND else 0

/-- Store bytes for a hub master that works for no partition; a refused access is recorded by R464. The answer says whether
they were stored. -/
def hubStore (m a : Nat) (bytes : List Byte) (s : State) : Bool × State :=
  match accessRefusal s true a bytes.length with
  | some c => (false, recordAt (refusalPage c) c (a / 64) 0xFF s)
  | none => storeDev a bytes 0xFF (chargeMem m none a bytes.length s)

/-! ### Binding (R221, R225, R466) -/

/-- Components per sensor pixel (R225). -/
def dtComps (dt : Nat) : Nat := if dt = 0x24 then 3 else 1

/-- The geometry of a configuration: PX, PY, and the channels C of the tensor. -/
def cfgPx (c : List Word) : Nat := 2 ^ cfgF c Reg.ING_SRC_PX
def cfgPy (c : List Word) : Nat := cfgF c Reg.ING_SRC_PY + 1
def cfgChans (c : List Word) : Nat := cfgPx c * cfgPy c * dtComps (cfgF c Reg.ING_SRC_DT)
def cfgBlk (c : List Word) : Nat := if cfgF c Reg.ING_SRC_LAYOUT = 0 then 16 else 32

/-- The bar frame's tensor (R225, R229). -/
def cfgTensor (c : List Word) : Blocked :=
  ⟨0, cfgF c Reg.ING_BUF_BASE * 64, cfgBlk c, cfgF c Reg.ING_SRC_FMT, cfgF c Reg.ING_GEOM_WIDTH / cfgPx c, cfgChans c⟩

/-- Rows of the tensor. -/
def cfgRows (c : List Word) : Nat := cfgF c Reg.ING_GEOM_HEIGHT / cfgPy c

/-- Does the binding of an enabled configuration meet R466. -/
def bindingOk (c : List Word) : Bool :=
  let k := cfgF c Reg.ING_CTL_KIND
  let dt := cfgF c Reg.ING_SRC_DT
  let fm := cfgF c Reg.ING_SRC_FMT
  let w := cfgF c Reg.ING_GEOM_WIDTH
  let h := cfgF c Reg.ING_GEOM_HEIGHT
  if k = 1 then
    (dt = 0x1E || dt = 0x24 || dt = 0x2C || dt = 0x2E) && (fm = 0 || fm = 2 || fm = 4 || fm = 5) &&
    decide (cfgF c Reg.ING_SRC_PX ≤ 4) && w ≠ 0 && h ≠ 0 && w % cfgPx c = 0 && h % cfgPy c = 0 && decide (cfgChans c ≤ cfgBlk c)
  else if k = 2 then decide (cfgF c Reg.ING_SRC_PORT < 8)
  else false

/-- Do two enabled configurations bind the same source (R221). -/
def sameBinding (a b : List Word) : Bool :=
  let eq := fun (r : Row) => cfgF a r = cfgF b r
  eq Reg.ING_CTL_KIND && eq Reg.ING_SRC_PORT &&
    (if cfgF a Reg.ING_CTL_KIND = 1 then eq Reg.ING_SRC_VC && eq Reg.ING_SRC_DT
     else eq Reg.ING_FILTER_ETHERTYPE && eq Reg.ING_FILTER_VLAN_EN && eq Reg.ING_FILTER_UDP_EN &&
       (cfgF a Reg.ING_FILTER_VLAN_EN = 0 || eq Reg.ING_FILTER_VLAN_ID) &&
       (cfgF a Reg.ING_FILTER_UDP_EN = 0 || eq Reg.ING_UDP_PORT))

/-! ### Health (R239, R240) -/

/-- Is gPTP LOST (R236). -/
def ptpLost (s : State) : Bool := getF s pgEth Reg.ETH_PTP_STAT_STATE = 3

/-- The health code that the applying rows give. -/
def healthOf (s : State) (sm : Nat) : Nat :=
  let x := strmOf s sm
  if strmKind s sm = 0 then 0
  else if x.lost then 3 else if x.frozen then 4 else if x.timeBad then 6 else if x.flat then 5 else if x.late then 2 else 1

/-- The verdict of the bar frame in this bar; 0 if none started. -/
def barVerdict (s : State) (sm : Nat) : Nat :=
  match (strmOf s sm).frame with
  | some f => if f.bar = barCount s then f.verdict else 0
  | none => 0

/-- Is a stream usable so far in this bar. -/
def usableNow (s : State) (sm : Nat) : Bool :=
  healthOf s sm = 1 &&
    (if strmKind s sm = 1 then barVerdict s sm ≤ 2 else !(strmOf s sm).dropped && !(strmOf s sm).bad)

/-- Show health and usable bits; the entry of a state records its code. -/
def updHealth (sm : Nat) (s : State) : State :=
  let p := pgIng sm
  let h := healthOf s sm
  let old := getF s p Reg.ING_STAT_HEALTH
  let s := setF p Reg.ING_STAT_HEALTH h s
  let s := if h = old then s
    else if h = 2 then record p 0x43 s
    else if h = 3 then record p 0x44 s
    else if h = 4 then record p 0x45 s
    else if h = 5 then record p 0x46 s
    else if h = 6 then record p 0x47 s
    else s
  let u := if usableNow s sm then 1 else 0
  setF (pgIng 0) Reg.ING_HEALTH_LIVE (putBits (getF s (pgIng 0) Reg.ING_HEALTH_LIVE) sm 1 u) (setF p Reg.ING_STAT_USABLE u s)

/-! ### Frames (R227, R230, R237, R238) -/

/-- One bit of CRC-64, most significant bit first (log entry 31). -/
def crc64Bit (c : Nat) : Nat := if c.testBit 63 then (c * 2 % 2 ^ 64) ^^^ 0x42F0E1EBA9EA3693 else c * 2

/-- CRC-64 over one byte. -/
def crc64Byte (c b : Nat) : Nat :=
  crc64Bit (crc64Bit (crc64Bit (crc64Bit (crc64Bit (crc64Bit (crc64Bit (crc64Bit (c ^^^ (b * 2 ^ 56)))))))))

/-- CRC-64 carried over more bytes. -/
def crc64Feed (c : Nat) (l : List Byte) : Nat := l.foldl (fun c b => crc64Byte c b.toNat) c

/-- All ones, before the first byte and at the end. -/
def crc64Ones : Nat := 2 ^ 64 - 1

/-- Payload bytes of a sensor line (R227). -/
def linePayload (c : List Word) : Nat :=
  let w := cfgF c Reg.ING_GEOM_WIDTH
  let dt := cfgF c Reg.ING_SRC_DT
  if dt = 0x24 then 3 * w else if dt = 0x2C then 3 * w / 2 else 2 * w

/-- Component `k` of sensor pixel `x` of a line as it travels (log entry 29). -/
def pixComp (dt : Nat) (l : List Byte) (x k : Nat) : Nat :=
  let b := fun i => (l.getD i 0).toNat
  if dt = 0x24 then b (3 * x + k)
  else if dt = 0x1E then b (2 * x + 1)
  else if dt = 0x2C then b (3 * (x / 2) + x % 2) * 16 + (b (3 * (x / 2) + 2) / 16 ^ (x % 2)) % 16
  else if Config.raw16MsbFirst then b (2 * x) * 256 + b (2 * x + 1) else b (2 * x) + 256 * b (2 * x + 1)

/-- The code of a component value (R226). -/
def pixCode (c : List Word) (v : Nat) : Nat :=
  let d : Int := (v : Int) - cfgF c Reg.ING_BLACK
  (convertTo (cfgF c Reg.ING_SRC_FMT) (f32 (mulF (ofIntF d) (BitVec.ofNat 32 (cfgF c Reg.ING_GAIN))))).code

/-- The bytes that sensor line `py` of a stream line gives tensor pixel `x`: its channels, and with the last of them the zero
channels. -/
def pixBytesOf (c : List Word) (l : List Byte) (py x : Nat) : List Byte :=
  let t := cfgTensor c
  let px := cfgPx c
  let n := dtComps (cfgF c Reg.ING_SRC_DT)
  let eb := elemBits t.fmt / 8
  let vals := (List.range px).flatMap (fun p => (List.range n).flatMap (fun k =>
    leBytes eb (pixCode c (pixComp (cfgF c Reg.ING_SRC_DT) l (px * x + p) k))))
  vals ++ (if py + 1 = cfgPy c then List.replicate ((t.blk - t.chans) * eb) 0 else [])

/-- Write sensor line `py` of stream line `y`; the answer says whether every byte was stored. -/
def writeLine (c : List Word) (l : List Byte) (y py : Nat) (s : State) : Bool × State :=
  let t := cfgTensor c
  let skip := py * cfgPx c * dtComps (cfgF c Reg.ING_SRC_DT) * (elemBits t.fmt / 8)
  match accessRefusal s true (pixOff t y 0 0) (tensorPitch t) with
  | some code => (false, recordAt (refusalPage code) code (pixOff t y 0 0 / 64) 0xFF s)
  | none =>
    (List.range t.cols).foldl (fun r x =>
      let bytes := pixBytesOf c l py x
      let q := storeDev (pixOff t y x 0 + skip) bytes 0xFF (chargeMem 16 none (pixOff t y x 0 + skip) bytes.length r.2)
      (r.1 && q.1, q.2)) (true, s)

/-- The sum of |v(col) − v(col + 2)| over a line's component-0 values. -/
def actLine (c : List Word) (l : List Byte) : Nat :=
  sumOf ((List.range (cfgF c Reg.ING_GEOM_WIDTH - 2)).map (fun x =>
    let a := pixComp (cfgF c Reg.ING_SRC_DT) l x 0
    let b := pixComp (cfgF c Reg.ING_SRC_DT) l (x + 2) 0
    Nat.max a b - Nat.min a b))

/-- ACT of a frame; a free value where no line was measured. -/
def actOf (f : Frame) (s : State) : Nat × State :=
  if f.actCnt = 0 then drawFree 16 s
  else (Nat.min 65535 (roundOpen (16 * f.actSum : Int) f.actCnt).toNat, s)

/-- The side record of a frame (R230). -/
def frameRecord (s : State) (f : Frame) (act : Nat) : List Byte :=
  leBytes 8 (unsint 64 f.fs) ++ leBytes 8 (unsint 64 (f.fe.getD 0)) ++ leBytes 4 f.bar ++ leBytes 2 f.fn ++
  leBytes 2 f.lines ++ leBytes 1 f.verdict ++
  leBytes 1 ((if ptpLost s then 1 else 0) + (if f.embTrunc then 2 else 0) + (if f.fnJump then 4 else 0) +
    (if f.earlyRep then 8 else 0)) ++
  leBytes 2 act ++ leBytes 8 (f.hash ^^^ crc64Ones) ++ List.replicate 28 0

/-- First byte of a stream's side buffer. -/
def sideBase (s : State) (sm : Nat) : Nat := strmF s sm Reg.ING_SIDE_BASE * 64

/-- Write the side record of a stream's frame. -/
def writeRecord (sm : Nat) (s : State) : State :=
  match (strmOf s sm).frame with
  | some f =>
    let a := if f.verdict = 1 then (0, s) else actOf f s
    (hubStore 16 (sideBase s sm) (frameRecord a.2 f a.1) a.2).2
  | none => s

/-- The verdict of a frame that has ended (R238). -/
def verdictOf (s : State) (sm : Nat) (f : Frame) (act : Nat) : Nat :=
  if f.broken then 5
  else if f.lines ≠ cfgRows (strmOf s sm).cfg then 6
  else if (strmOf s sm).prevHash = some (f.hash ^^^ crc64Ones) || f.fnSame then 3
  else if act < strmF s sm Reg.ING_FLAT_THR then 4
  else 2

/-- What a verdict counts toward FROZEN and FLAT (R239). -/
def countVerdict (v frz flt rec_ : Nat) (x : Strm) : Strm :=
  let repeats := if v = 3 then x.repeats + 1 else 0
  let flats := if v = 4 then x.flats + 1 else 0
  let gf := if v = 2 then x.goodsF + 1 else 0
  let gl := if v = 2 then x.goodsL + 1 else 0
  let frozen := if x.frozen then decide (gf < rec_) else decide (frz ≤ repeats)
  let flat := if x.flat then decide (gl < rec_) else decide (flt ≤ flats)
  { x with
    repeats := repeats, flats := flats, frozen := frozen, flat := flat
    goodsF := if frozen = x.frozen then gf else 0
    goodsL := if flat = x.flat then gl else 0 }

/-- The frame of stream `sm` ends: its verdict is final, the record is rewritten, the health follows. -/
def finishFrame (sm : Nat) (s : State) : State :=
  match (strmOf s sm).frame with
  | none => s
  | some f =>
    let a := actOf f s
    let v := verdictOf s sm f a.1
    let p := pgIng sm
    let s := modFrame sm (fun f => { f with verdict := v }) a.2
    let s := (hubStore 16 (sideBase s sm) (frameRecord s { f with verdict := v } a.1) s).2
    let cv := countVerdict v (countF s sm Reg.ING_FRZ_N) (countF s sm Reg.ING_FLAT_N) (countF s sm Reg.ING_RECOVER_N)
    let s := modStrm sm (fun x => { cv x with prevHash := some (f.hash ^^^ crc64Ones) }) s
    let s := bump p Reg.ING_FRAMES 1 (if v = 3 then bump p Reg.ING_REPEATS 1 s else s)
    let s := if f.bar = barCount s then setF p Reg.ING_FRAME_VERDICT v s else s
    updHealth sm s

/-- The streams that bind a port and virtual channel, with a property of their configuration. -/
def camStreams (s : State) (port vc : Nat) (f : List Word → Bool) : List Nat :=
  (List.range 24).filter (fun sm =>
    strmKind s sm = 1 && strmF s sm Reg.ING_SRC_PORT = port && strmF s sm Reg.ING_SRC_VC = vc && f (strmOf s sm).cfg)

/-- How many frame numbers lie between two that are not zero, in the cycle 1 to 0xFFFF (R238). -/
def fnGap (prev fn : Nat) : Nat := if prev = 0 ∨ fn = 0 ∨ fn = prev then 0 else (fn + 65535 - prev) % 65535 - 1

/-- Is a frame of the stream arriving. -/
def arriving (x : Strm) : Bool := match x.frame with | some f => f.verdict = 1 && !x.skip | none => false

/-- A Frame Start reaches stream `sm` (R58, R227, R238). -/
def startFrame (sm fn : Nat) (s : State) : State :=
  if barsRun s = false then modStrm sm (fun x => { x with frame := none, skip := true }) s
  else
    let p := pgIng sm
    let s := if arriving (strmOf s sm) then finishFrame sm (modFrame sm (fun f => { f with broken := true }) s) else s
    let x := strmOf s sm
    let gap := fnGap x.prevFn fn
    let same : Bool := fn ≠ 0 && fn = x.prevFn
    let s := bump p Reg.ING_FN_SKIPS gap (modStrm sm (fun x => { x with prevFn := fn }) s)
    match x.frame with
    | some _ => bump p Reg.ING_DROPPED 1 (modStrm sm (fun x => { x with skip := true }) s)
    | none =>
      let f : Frame :=
        { fs := devTime s, fe := none, bar := barCount s, fn := fn, rows := 0, intact := true, ready := [], lines := 0,
          broken := false, slow := false, last := none, hash := crc64Ones, early := crc64Ones, actSum := 0, actCnt := 0,
          emb := 0, embTrunc := false, fnJump := decide (0 < gap), fnSame := same, earlyRep := false, verdict := 1 }
      let s := modStrm sm (fun x => { x with frame := some f, skip := false }) s
      updHealth sm (writeRecord sm (setF p Reg.ING_FRAME_VERDICT 1 (setF p Reg.ING_FRAME_FN fn s)))

/-- FRAME_START (R58). A frame that began in an earlier bar and ends here leaves room for the bar frame. -/
def execFrameStart (port vc fn t : Nat) (s : State) : Host.Outcome State Fault Refusal :=
  .next ((camStreams s port vc (fun _ => true)).foldl (fun s sm =>
    let s := match (strmOf s sm).frame with
      | some f =>
        if f.bar = barCount s then s
        else
          modStrm sm (fun x => { x with frame := none })
            (if arriving (strmOf s sm) then finishFrame sm (modFrame sm (fun f => { f with broken := true }) s) else s)
      | none => s
    startFrame sm (fn % 65536) s) (at_ t s))

/-- The frame after line `l` of its stream: `bad` where the line failed its checks, `good` where it is whole, `stored` where
it was written; `earlyN` is EARLY_N. -/
def frameTaken (x : Strm) (f : Frame) (l : List Byte) (bad good stored : Bool) (earlyN : Nat) : Frame :=
  let c := x.cfg
  let y := f.rows / cfgPy c
  let py := f.rows % cfgPy c
  let intact := stored && (py = 0 || f.intact)
  let measured : Bool := good && y % 16 = 0 && py = 0
  let early := if bad || earlyN ≤ y then f.early else crc64Feed f.early l
  let earlyEnd : Bool := y + 1 = earlyN && py + 1 = cfgPy c
  { f with
    rows := f.rows + 1
    intact := intact
    ready := if intact ∧ py + 1 = cfgPy c then f.ready ++ [y] else f.ready
    broken := f.broken || !stored
    hash := if bad then f.hash else crc64Feed f.hash l
    early := early
    earlyRep := f.earlyRep || (earlyEnd && x.prevEarly = some early)
    actSum := if measured then f.actSum + actLine c l else f.actSum
    actCnt := if measured then f.actCnt + (cfgF c Reg.ING_GEOM_WIDTH - 2) else f.actCnt }

/-- The stream after such a line: the early hash of the last frame is that of the frame's first EARLY_N lines. -/
def strmTaken (x : Strm) (f : Frame) (l : List Byte) (bad good stored : Bool) (earlyN : Nat) (z : Strm) : Strm :=
  let g := frameTaken x f l bad good stored earlyN
  { z with
    frame := some g
    prevEarly := if f.rows / cfgPy x.cfg + 1 = earlyN ∧ f.rows % cfgPy x.cfg + 1 = cfgPy x.cfg then some g.early else z.prevEarly }

/-- A line of frame `f` of a stream arrives. -/
def storeLine (sm : Nat) (x : Strm) (f : Frame) (l : List Byte) (bad fifo : Bool) (s : State) : State :=
  let c := x.cfg
  let y := f.rows / cfgPy c
  let py := f.rows % cfgPy c
  let good := !bad && l.length = linePayload c
  let past := fifo || decide (cfgF c Reg.ING_BUF_LEN * 64 < (y + 1) * tensorPitch (cfgTensor c))
  let earlyN := countF s sm Reg.ING_EARLY_N
  let w := if good && !past then writeLine c l y py s else (false, s)
  let s := if good then (if past then record (pgIng sm) 0x42 w.2 else w.2) else record (pgIng sm) 0x41 w.2
  let s := if good && !w.1 && (py = 0 || f.intact) then bump (pgIng sm) Reg.ING_DROPPED 1 s else s
  modStrm sm (strmTaken x f l bad good w.1 earlyN) s

/-- One sensor line of stream `sm`'s frame. -/
def takeLine (sm : Nat) (l : List Byte) (bad fifo : Bool) (s : State) : State :=
  match (strmOf s sm).frame with
  | none => s
  | some f => if arriving (strmOf s sm) = false then s else storeLine sm (strmOf s sm) f l bad fifo s

/-- An embedded-data line of stream `sm`'s virtual channel (R230): up to 16 KiB, the excess dropped and flagged. -/
def takeEmbedded (sm : Nat) (l : List Byte) (s : State) : State :=
  let x := strmOf s sm
  match x.frame with
  | none => s
  | some f =>
    if arriving x = false then s
    else
      let times := if strmF s sm Reg.ING_CTL_LTIME = 1 then ceilDiv (4 * cfgRows x.cfg) 64 * 64 else 0
      let fit := l.take (16384 - f.emb)
      let s := if fit = [] then s else (hubStore 16 (sideBase s sm + 64 + times + f.emb) fit s).2
      modFrame sm (fun f => { f with emb := f.emb + fit.length, embTrunc := f.embTrunc || decide (fit.length < l.length) }) s

/-- CSI_LONG_PACKET (R224). A header with more than one error, or a payload that fails its CRC, is discarded; a packet that no
stream of an enabled virtual channel binds is discarded and counted in that channel's streams. -/
def execCsiLongPacket (port vc dt : Nat) (payload : List Byte) (hdrErrs : Nat) (crcOk fifo : Bool) (s : State) :
    Host.Outcome State Fault Refusal :=
  .next (
    let bad := decide (1 < hdrErrs) || !crcOk
    let all := camStreams s port vc (fun _ => true)
    let mine := if dt = 0x12 then all else camStreams s port vc (fun c => cfgF c Reg.ING_SRC_DT = dt)
    if mine = [] then all.foldl (fun s sm => bump (pgIng sm) Reg.ING_PKT_ERR 1 s) s
    else mine.foldl (fun s sm =>
      let s := if bad then record (pgIng sm) 0x40 (bump (pgIng sm) Reg.ING_PKT_ERR 1 s) else s
      if dt = 0x12 then (if bad then s else takeEmbedded sm payload s) else takeLine sm payload bad fifo s) s)

/-- The next ready line of stream `sm` is complete (R227, R228): its time is written, the position follows. -/
def completeLine (sm : Nat) (s : State) : State :=
  let p := pgIng sm
  match (strmOf s sm).frame with
  | none => s
  | some f =>
    match f.ready with
    | [] => s
    | y :: rest =>
      let mx := strmF s sm Reg.ING_LINE_MAX
      let slow : Bool := mx ≠ 0 && (match f.last with | some (y', t) => y' + 1 = y && decide (t + mx < s.io.now) | none => false)
      let s := if slow then
          let s := bump p Reg.ING_LINE_SLOW 1 s
          if f.slow then s else record p 0x41 s
        else s
      let s := if strmF s sm Reg.ING_CTL_LTIME = 1 then
          (hubStore 16 (sideBase s sm + 64 + 4 * y) (leBytes 4 (unsint 32 (devTime s - f.fs))) s).2 else s
      let pos := getF s p Reg.ING_STAT_POS
      let s := if f.bar = barCount s ∧ (y = 0 ∨ pos + 1 = y) then setF p Reg.ING_STAT_POS y s else s
      modFrame sm (fun f => { f with ready := rest, lines := f.lines + 1, slow := f.slow || slow, last := some (y, s.io.now) }) s

/-- LINE_COMPLETE (R227). -/
def execLineComplete (sm t : Nat) (s : State) : Host.Outcome State Fault Refusal := .next (completeLine sm (at_ t s))

/-- FRAME_END (R238): the lines written are complete, and the verdict is final. -/
def execFrameEnd (port vc t : Nat) (s : State) : Host.Outcome State Fault Refusal :=
  .next ((camStreams s port vc (fun _ => true)).foldl (fun s sm =>
    match (strmOf s sm).frame with
    | some f =>
      if arriving (strmOf s sm) then
        let s := f.ready.foldl (fun s _ => completeLine sm s) s
        finishFrame sm (modFrame sm (fun f => { f with fe := some (devTime s) }) s)
      else s
    | none => s) (at_ t s))

/-- ING_LATE (R239): by tick FS_LATE no Frame Start or no record has come in this bar. -/
def execIngLate (sm : Nat) (s : State) : Host.Outcome State Fault Refusal :=
  .next (
    let none_ : Bool := match strmKind s sm with
      | 1 => decide (barVerdict s sm = 0)
      | 2 => decide ((strmOf s sm).recs = 0)
      | _ => false
    if barsRun s ∧ none_ then updHealth sm (modStrm sm (fun x => { x with late := true }) s) else s)

/-! ### Configuration (R222) -/

/-- Do the held tables wait for stream `sm`, by a WAIT_LINES or a line-fed descriptor. -/
def strmHeld (s : State) (sm : Nat) : Bool :=
  (heldStrokes s).any (fun k =>
    (stOp k = 3 && stStream k = sm) ||
    (stIsRun k && (fetchList s 4096 (stDesc k * 64)).any (fun r => isLineFed r && (geoDirect r).stream = sm)))

/-- The bits of a word that a write may not change while the stream is held: KIND and ENABLE cleared, SRC, GEOM, LINE_MAX. -/
def strmBars (off old v : Nat) : Bool :=
  if off = 0x040 then bitsOf old 1 2 ≠ bitsOf v 1 2 || (old.testBit 0 && !v.testBit 0)
  else if off = 0x044 ∨ off = 0x048 ∨ off = 0x054 then old ≠ v
  else false

/-- The bits of a configuration word that fields define. -/
def definedBits (p : Page) (off v : Nat) : Nat := (rowsAt p off).foldl (fun a x => putBits a x.1.lo x.1.w (bitsOf v x.1.lo x.1.w)) 0

/-- A write to a configuration register of ING_s: it reads back at once and takes effect at the next boundary. -/
def writeIngCfg (sm off v : Nat) (s : State) : State :=
  let p := pgIng sm
  let old := (regW s (pageBase p + off)).toNat
  let v := definedBits p off v
  if sm < 24 ∧ 0x040 ≤ off ∧ off ≤ 0x074 ∧ off % 4 = 0 then
    if strmBars off old v ∧ strmHeld s sm then record p 0x48 s else setW (pageBase p + off) (BitVec.ofNat 32 v) s
  else s

/-- ING_CONFIG_WRITE (R222). -/
def execIngConfigWrite (by_ : Agent) (sm off : Nat) (v : Word) (s : State) : Host.Outcome State Fault Refusal :=
  .next (asMaster (pgIng sm) off by_ (writeIngCfg sm off v.toNat) s)

/-! ### At a bar boundary -/

/-- Latch the usable bits and health codes of the ending bar (R240). -/
def latchHealth (s : State) : State :=
  let bits := (List.range 24).filter (fun sm => usableNow s sm && (strmKind s sm ≠ 1 || barVerdict s sm = 2))
  let s := setF (pgIng 0) Reg.ING_HEALTH_BARNO (barCount s % 2 ^ 32)
    (setF (pgIng 0) Reg.ING_HEALTH_BAR (bits.foldl (fun v sm => v + 2 ^ sm) 0) s)
  (List.range 24).foldl (fun s sm =>
    setF (pgIng sm) Reg.ING_STAT_BAR_HEALTH (getF s (pgIng sm) Reg.ING_STAT_HEALTH)
      (setF (pgIng sm) Reg.ING_STAT_BAR_USABLE (if bits.contains sm then 1 else 0) s)) s

/-- What the ending bar counts toward LOST and TIME_BAD (R239). -/
def countBar (s : State) (sm : Nat) (x : Strm) : Strm :=
  let cam := strmKind s sm = 1
  let blocks := getF s (pgIng sm) Reg.ING_STAT_POS ≠ 0xFFFF
  let good := if cam then barVerdict s sm = 2 else blocks
  let cleanBar := if cam then barVerdict s sm = 2 else blocks && !x.dropped && !x.bad
  let nogood := if good then 0 else x.nogood + 1
  let clean := if cleanBar then x.clean + 1 else 0
  let sync : Bool := !(ptpLost s && strmF s sm Reg.ING_CTL_NEED_SYNC = 1)
  let timeok := if !x.bad && !ptpLost s then x.timeok + 1 else 0
  let rec_ := countF s sm Reg.ING_RECOVER_N
  let lost := if x.lost then decide (clean < rec_) else decide (countF s sm Reg.ING_LOSS_N ≤ nogood)
  let tb := (if x.timeBad then decide (timeok < rec_) else false) || !sync
  { x with
    nogood := nogood, lost := lost, timeBad := tb
    clean := if lost = x.lost then clean else 0
    timeok := if tb = x.timeBad then timeok else 0 }

/-- The configuration that ING_s's registers hold. -/
def cfgWritten (s : State) (sm : Nat) : List Word := (List.range 14).map (fun k => regW s (pageBase (pgIng sm) + 64 + 4 * k))

/-- Stream `sm`'s pending configuration takes effect, or is refused with 0x48 and its registers return (R221, R222). -/
def applyCfg (sm : Nat) (s : State) : State :=
  let w := cfgWritten s sm
  let cur := (strmOf s sm).cfg
  let on := fun (c : List Word) => cfgF c Reg.ING_CTL_ENABLE = 1
  if w = cur then s
  else if on w && (!bindingOk w || (List.range 24).any (fun m =>
      m ≠ sm && on (strmOf s m).cfg && sameBinding w (strmOf s m).cfg)) then
    record (pgIng sm) 0x48 ((List.range 14).foldl (fun s k => setW (pageBase (pgIng sm) + 64 + 4 * k) (cur.getD k 0) s) s)
  else if on w = on cur then modStrm sm (fun x => { x with cfg := w }) s
  else modStrm sm (fun _ => { Strm.fresh sm with cfg := w }) s

/-- A stream at a bar boundary: the bar that ends counts, the configuration takes effect, the new bar has nothing. -/
def strmBoundary (sm : Nat) (s : State) : State :=
  let s := if strmKind s sm = 0 ∨ barsRun s = false then s else modStrm sm (countBar s sm) s
  let s := modStrm sm (fun x => { x with
    late := false, recs := 0, off := 0, dropped := false, bad := false
    frame := if arriving x then x.frame else none }) s
  let s := applyCfg sm s
  let p := pgIng sm
  setF p Reg.ING_STAT_POS 0xFFFF (setF p Reg.ING_FRAME_VERDICT 0 s)

/-- Bars stop running: no bar frame exists and every position reads 0xFFFF (R58). -/
def ingStop (s : State) : State :=
  (List.range 24).foldl (fun s sm =>
    setF (pgIng sm) Reg.ING_FRAME_VERDICT 0 (setF (pgIng sm) Reg.ING_STAT_POS 0xFFFF
      (modStrm sm (fun x => { x with frame := none, skip := true }) s))) s

/-- All streams at a bar boundary: the latches of the bar that ends come first (R240). The bar count has not advanced yet. -/
def ingBoundary (s : State) : State :=
  (List.range 24).foldl (fun s sm => strmBoundary sm s) (if barsRun s then latchHealth s else s)

/-- Health shown after the bar count has advanced. -/
def ingShow (s : State) : State := (List.range 24).foldl (fun s sm => updHealth sm s) s

end Sys2Proof.Machine
end

