-- ==== Sys2Proof/Machine/Ethernet.lean ====
section
/-! DEFINITION. The Ethernet ports (R231 to R236, R451): packet streams, transmit gates, device time by gPTP, links and PHY
management. -/

namespace Sys2Proof.Machine

open Sys2Proof

/-- Change the Ethernet block beside its registers. -/
def modEth (f : Eth → Eth) (s : State) : State := { s with eth := f s.eth }

/-! ### Packet streams (R233, R234) -/

/-- A big-endian number of `n` bytes at offset `o`. -/
def beAt (l : List Byte) (o n : Nat) : Nat := beNat ((l.drop o).take n)

/-- The VLAN identifier of a frame, if it is tagged. -/
def vlanOf (l : List Byte) : Option Nat := if beAt l 12 2 = 0x8100 then some (beAt l 14 2 % 4096) else none

/-- Offset of a frame's EtherType. -/
def typeOff (l : List Byte) : Nat := if (vlanOf l).isSome then 16 else 12

/-- Offset of the payload behind an IPv4 UDP header whose destination port is `port`, if the frame is one. -/
def udpPayload (l : List Byte) (port : Nat) : Option Nat :=
  let o := typeOff l
  let ip := o + 2
  let ihl := beAt l ip 1 % 16 * 4
  if beAt l o 2 = 0x0800 ∧ beAt l ip 1 / 16 = 4 ∧ beAt l (ip + 9) 1 = 17 ∧ beAt l (ip + ihl + 2) 2 = port then some (ip + ihl + 8)
  else none

/-- Where the payload of a frame that stream `sm` accepts begins; `none` if it does not match the filter. -/
def matchFrame (s : State) (sm : Nat) (l : List Byte) : Option Nat :=
  let o := typeOff l
  if beAt l o 2 ≠ strmF s sm Reg.ING_FILTER_ETHERTYPE then none
  else if strmF s sm Reg.ING_FILTER_VLAN_EN = 1 ∧ vlanOf l ≠ some (strmF s sm Reg.ING_FILTER_VLAN_ID) then none
  else if strmF s sm Reg.ING_FILTER_UDP_EN = 1 then udpPayload l (strmF s sm Reg.ING_UDP_PORT)
  else some (o + 2)

/-- The source time in a payload (R234); `none` where it lies outside. -/
def sourceTime (s : State) (sm : Nat) (l : List Byte) : Option Nat :=
  let o := strmF s sm Reg.ING_TS_TS_OFF
  let f := strmF s sm Reg.ING_TS_TS_FMT
  if l.length < o + (if f = 3 then 10 else 8) then none
  else if f = 1 then some (beAt l o 8)
  else if f = 2 then some (leNat ((l.drop o).take 8))
  else some (beAt l o 6 * 1000000000 + beAt l (o + 6) 4)

/-- Write a packet record of stream `sm` (R233): header, payload, zeros to a 64-byte multiple. The source time of a payload that
does not hold it is a free value. -/
def takePacket (sm : Nat) (ingress : Int) (payload : List Byte) (s : State) : State :=
  let p := pgIng sm
  let x := strmOf s sm
  let fmt := strmF s sm Reg.ING_TS_TS_FMT
  let st := if fmt = 0 then some 0 else sourceTime s sm payload
  let tol : Int := strmF s sm Reg.ING_TS_TS_TOL * 1000
  let bad : Bool := fmt ≠ 0 && (match st with
    | some t => decide (tol < (t : Int) - ingress ∨ (t : Int) - ingress < -tol)
    | none => true)
  let d := match st with | some t => (t, s) | none => drawFree 64 s
  let s := d.2
  let seq := (x.seq + 1) % 2 ^ 32
  let len := payload.length
  let total := ceilDiv (32 + len) 64 * 64
  let hdr := leBytes 8 (unsint 64 ingress) ++ leBytes 8 d.1 ++ leBytes 2 len ++
    leBytes 2 ((if fmt ≠ 0 ∧ bad = false then 1 else 0) + (if bad then 2 else 0) + (if ptpLost s then 4 else 0)) ++
    leBytes 4 seq ++ List.replicate 8 0
  let s := modStrm sm (fun x => { x with seq := seq }) s
  let w :=
    if strmF s sm Reg.ING_BUF_LEN * 64 < x.off + total then (false, record p 0x42 s)
    else hubStore 16 (strmF s sm Reg.ING_BUF_BASE * 64 + x.off) (hdr ++ payload ++ List.replicate (total - 32 - len) 0) s
  let s := w.2
  let s := if bad then bump p Reg.ING_TS_BAD 1 s else s
  let run := if bad then x.tsbad + 1 else 0
  let s := modStrm sm (fun y => { y with
    bad := y.bad || bad
    tsbad := run
    timeBad := y.timeBad || decide (countF s sm Reg.ING_TS_BAD_N ≤ run) }) s
  let s :=
    if w.1 then
      let blk := let b := strmF s sm Reg.ING_BLKPKT; if b = 0 then 256 else b
      let n := x.recs + 1
      let s := modStrm sm (fun y => { y with recs := n, off := y.off + total }) s
      if n % blk = 0 then bump p Reg.ING_FRAMES 1 (setF p Reg.ING_STAT_POS (n / blk) s) else s
    else bump p Reg.ING_DROPPED 1 (modStrm sm (fun y => { y with dropped := true }) s)
  updHealth sm s

/-- ETH_FRAME_RECEIVE (R231, R233): a frame with a bad FCS, or longer than 9,216 bytes, is discarded; every packet stream of the MAC whose
filter it matches takes it while bars run (R58). -/
def execEthFrameReceive (mac : Nat) (frame : EthFrame) (t : Nat) (s : State) : Host.Outcome State Fault Refusal :=
  .next (
    let s := at_ t s
    if 8 ≤ mac ∨ flagI s pgEth Reg.ETH_MAC_LINK mac = false then s
    else
      let s := bumpI pgEth Reg.ETH_MAC_RX_FRAMES mac 1 s
      if frame.fcsOk = false ∨ 9216 < frame.bytes.length then bumpI pgEth Reg.ETH_MAC_RX_FCS mac 1 s
      else if barsRun s = false then s
      else
        let ingress := devTime s - getFi s pgEth Reg.ETH_LAT_RX mac
        (List.range 24).foldl (fun s sm =>
          if strmKind s sm = 2 ∧ strmF s sm Reg.ING_SRC_PORT = mac then
            match matchFrame s sm frame.bytes with
            | some o => takePacket sm ingress (frame.bytes.drop o) s
            | none => s
          else s) s)

/-! ### Transmit gates (R232, R451) -/

/-- The list that the QBV registers of MAC n hold. -/
def qbvWritten (s : State) (n : Nat) : List (Nat × Nat) :=
  (List.range (getFi s pgEth Reg.ETH_QBV_LEN n)).map (fun e =>
    (bitsOf (regW s (fieldAddr pgEth Reg.ETH_QBV_GATES n 0 + 8 * e)).toNat 0 8,
     bitsOf (regW s (fieldAddr pgEth Reg.ETH_QBV_INTERVAL n 0 + 8 * e)).toNat 0 30))

/-- QBV_n.COMMIT: a list without entries, of more than 64, or with an interval out of range is ignored. -/
def qbvCommit (n : Nat) (s : State) : State :=
  let l := qbvWritten s n
  if n < 4 ∧ l ≠ [] ∧ l.length ≤ 64 ∧ l.all (fun e => 32 ≤ e.2 && e.2 ≤ 1000000000) then
    setFi pgEth Reg.ETH_QBV_PENDING n 1 (modEth (fun x => { x with gates := x.gates.modify n (fun g => { g with next := some l }) }) s)
  else s

/-- QBV_COMMIT (R232). -/
def execQbvCommit (by_ : Agent) (n : Nat) (s : State) : Host.Outcome State Fault Refusal := .next (asMaster pgEth (0x400 + n * 0x300) by_ (qbvCommit n) s)

/-- Entry `i` of MAC n's list in force applies. -/
def gateEntry (n i : Nat) (s : State) : State :=
  drainTx (modEth (fun x => { x with gates := x.gates.modify n (fun g =>
    match g.list[i]? with
    | some e => { g with pos := i, now := e.1 }
    | none => g) }) s)

/-- QBV_CYCLE_START (R232): a committed list takes effect, and the cycle begins with its first entry. -/
def execQbvCycleStart (n t : Nat) (s : State) : Host.Outcome State Fault Refusal :=
  .next (
    let s := at_ t s
    if 4 ≤ n then s
    else
      gateEntry n 0 (setFi pgEth Reg.ETH_QBV_PENDING n 0 (modEth (fun x => { x with gates := x.gates.modify n (fun g =>
        match g.next with
        | some l => { g with list := l, next := none }
        | none => g) }) s)))

/-- GATE_INTERVAL_END (R232): the next entry's gate bits apply; after the last entry the cycle start comes. -/
def execGateIntervalEnd (n t : Nat) (s : State) : Host.Outcome State Fault Refusal :=
  .next (
    let s := at_ t s
    match s.eth.gates[n]? with
    | some g => gateEntry n (g.pos + 1) s
    | none => s)

/-! ### Device time (R235, R236) -/

/-- Does gPTP run as time receiver, or as grandmaster. -/
def ptpReceiver (s : State) : Bool := flag s pgEth Reg.ETH_PTP_CTL_ENABLE && !flag s pgEth Reg.ETH_PTP_CTL_ROLE
def ptpMaster (s : State) : Bool := flag s pgEth Reg.ETH_PTP_CTL_ENABLE && flag s pgEth Reg.ETH_PTP_CTL_ROLE

/-- Does MAC m take part. -/
def ptpPort (s : State) (m : Nat) : Bool := m < 8 && (getF s pgEth Reg.ETH_PTP_CTL_PORTS).testBit m

/-- The receiving port: by the best Announce, or with static configuration the lowest port that takes part (log entry 32). -/
def ptpRxPort (s : State) : Option Nat :=
  if flag s pgEth Reg.ETH_PTP_CTL_BMCA then s.eth.best.map (fun b => b.1)
  else (bitsSet 8 (getF s pgEth Reg.ETH_PTP_CTL_PORTS)).head?

/-- The clock keeps the time it has reached; nothing is left to slew. -/
def fixTime (s : State) : State :=
  let o := s.eth.offset + slewed s
  modEth (fun x => { x with offset := o, slew := 0, slewFrom := s.io.now }) s

/-- Health of every stream that needs sync, after gPTP was lost. -/
def syncHealth (s : State) : State :=
  (List.range 24).foldl (fun s sm =>
    if strmKind s sm ≠ 0 ∧ strmF s sm Reg.ING_CTL_NEED_SYNC = 1 ∧ ptpLost s then
      updHealth sm (modStrm sm (fun x => { x with timeBad := true, timeok := 0 }) s)
    else s) s

/-- PTP_STAT after a write of PTP_CTL: OFF while disabled, ACQUIRING when a time receiver is enabled, SYNCED as
grandmaster (log entry 32). -/
def ptpCtlWritten (s : State) : State :=
  let st := getF s pgEth Reg.ETH_PTP_STAT_STATE
  if !flag s pgEth Reg.ETH_PTP_CTL_ENABLE then setF pgEth Reg.ETH_PTP_STAT_STATE 0 (modEth (fun x => { x with best := none }) s)
  else if ptpMaster s then setF pgEth Reg.ETH_PTP_STAT_STATE 2 s
  else if st = 0 then setF pgEth Reg.ETH_PTP_STAT_STATE 1 s
  else s

/-- GPTP_SYNC (R236): a Sync and Follow_Up pair on the receiving port: the master's time, its correction, and the local instant of
reception. An offset of at most 2 µs is slewed, a larger one steps the clock. -/
def execGptpSync (mac : Nat) (master corr : Int) (t : Nat) (s : State) : Host.Outcome State Fault Refusal :=
  .next (
    let s := at_ t s
    if ptpReceiver s ∧ ptpPort s mac ∧ ptpRxPort s = some mac then
      let s := fixTime s
      let off := devTime s - getFi s pgEth Reg.ETH_LAT_RX mac - (master + corr + s.eth.pdelay.getD mac 0)
      let s := setF pgEth Reg.ETH_PTP_OFFSET (unsint 32 off) (setF pgEth Reg.ETH_PTP_STAT_RX_PORT mac
        (setF pgEth Reg.ETH_PTP_STAT_STATE 2 s))
      if off ≤ 2000 ∧ -2000 ≤ off then modEth (fun x => { x with slew := -off }) s
      else modEth (fun x => { x with offset := x.offset - off }) s
    else s)

/-- GPTP_PDELAY (R235): kind 0 is a Pdelay_Req received at t2, answered with the times of its receipt and of the answer; kind 1 a
Pdelay_Resp and its follow-up, which give the peer delay. -/
def execGptpPdelay (mac kind : Nat) (t1 t2 t3 t4 : Int) (s : State) : Host.Outcome State Fault Refusal :=
  .next (
    if flag s pgEth Reg.ETH_PTP_CTL_ENABLE ∧ ptpPort s mac then
      if kind = 0 then emit (.gptp mac 1 [t1, t2, t3]) s
      else modEth (fun x => { x with pdelay := x.pdelay.set mac (roundOpen (t4 - t1 - (t3 - t2)) 2) }) s
    else s)

/-- GPTP_SYNC_LOSS (R236). -/
def execGptpSyncLoss (t : Nat) (s : State) : Host.Outcome State Fault Refusal :=
  .next (
    let s := at_ t s
    if ptpReceiver s ∧ getF s pgEth Reg.ETH_PTP_STAT_STATE = 2 then
      syncHealth (record pgEth 0x49 (setF pgEth Reg.ETH_PTP_STAT_STATE 3 (fixTime s)))
    else s)

/-- A write of PTP_SET: the grandmaster's time, taken when the high word is written. -/
def writePtpSet (hi : Bool) (v : Nat) (s : State) : State :=
  if hi then
    let s := setF pgEth Reg.ETH_PTP_SET_HI v s
    if ptpMaster s then
      let t : Int := getF s pgEth Reg.ETH_PTP_SET_LO + 2 ^ 32 * (v % 2 ^ 32)
      modEth (fun x => { x with offset := t - s.io.now, slew := 0, slewFrom := s.io.now }) s
    else s
  else setF pgEth Reg.ETH_PTP_SET_LO v s

/-- PTP_SET (R235). -/
def execPtpSet (by_ : Agent) (hi : Bool) (v : Word) (s : State) : Host.Outcome State Fault Refusal :=
  .next (asMaster pgEth (if hi then 0x50 else 0x4C) by_ (writePtpSet hi v.toNat) s)

/-- GRANDMASTER_SYNC (R235): Sync and Follow_Up on every enabled port, the second with the time at which the first left. -/
def execGrandmasterSync (t : Nat) (s : State) : Host.Outcome State Fault Refusal :=
  .next (
    let s := at_ t s
    if ptpMaster s then
      (bitsSet 8 (getF s pgEth Reg.ETH_PTP_CTL_PORTS)).foldl (fun s m =>
        emit (.gptp m 3 [devTime s + getFi s pgEth Reg.ETH_LAT_TX m]) (emit (.gptp m 2 []) s)) s
    else s)

/-- The order of Announce messages in the best master clock algorithm: smaller is better. -/
def announceKey (a : Announce) : List Nat := [a.prio1, a.clockClass, a.accuracy, a.variance, a.prio2, a.ident, a.steps]

/-- Is the first list before the second. -/
def lexLt : List Nat → List Nat → Bool
  | a :: r, b :: q => if a < b then true else if b < a then false else lexLt r q
  | _, _ => false

/-- GPTP_ANNOUNCE (R235): with the best master clock algorithm, a message of the domain that is better than the best so far, or a new one
on the same port, decides the receiving port. -/
def execGptpAnnounce (mac : Nat) (a : Announce) (s : State) : Host.Outcome State Fault Refusal :=
  .next (
    let better : Bool := match s.eth.best with
      | none => true
      | some (m, b) => m = mac || lexLt (announceKey a) (announceKey b)
    if ptpReceiver s ∧ flag s pgEth Reg.ETH_PTP_CTL_BMCA ∧ ptpPort s mac ∧ a.domain = getF s pgEth Reg.ETH_PTP_CTL_DOMAIN ∧ better then
      setF pgEth Reg.ETH_PTP_STAT_RX_PORT mac (modEth (fun x => { x with best := some (mac, a) }) s)
    else s)

/-! ### Links and PHY management -/

/-- USXGMII_LINK_CHANGE (R231): speeds 0 to 3 are 10, 5, 2.5 and 1 Gb/s. -/
def execUsxgmiiLinkChange (mac : Nat) (up : Bool) (speed : Nat) (s : State) : Host.Outcome State Fault Refusal :=
  .next (
    if 8 ≤ mac ∨ 3 < speed then s
    else
      let s := setFi pgEth Reg.ETH_MAC_LINK mac (if up then 1 else 0) s
      drainTx (if up then setFi pgEth Reg.ETH_MAC_SPEED mac speed s else s))

/-- MDIO.GO: a management frame starts. -/
def mdioStart (s : State) : State :=
  setF pgEth Reg.ETH_MDIO_GO 1 (emit (.mdio (flag s pgEth Reg.ETH_MDIO_C45) (getF s pgEth Reg.ETH_MDIO_OP)
    (getF s pgEth Reg.ETH_MDIO_PRTAD) (getF s pgEth Reg.ETH_MDIO_DEVAD) (getF s pgEth Reg.ETH_MDIO_DATA)) s)

/-- MDIO_START (R231). -/
def execMdioStart (by_ : Agent) (s : State) : Host.Outcome State Fault Refusal := .next (asMaster pgEth 0x80 by_ mdioStart s)

/-- MDIO_DONE (R231): the frame in progress ends; a read gives its result. -/
def execMdioDone (v : Nat) (s : State) : Host.Outcome State Fault Refusal :=
  .next (
    if flag s pgEth Reg.ETH_MDIO_GO then
      let s := setF pgEth Reg.ETH_MDIO_GO 0 (setF pgEth Reg.ETH_MDIO_DONE 1 s)
      if getF s pgEth Reg.ETH_MDIO_OP = 2 then setF pgEth Reg.ETH_MDIO_DATA v s else s
    else s)

end Sys2Proof.Machine
end

