-- ==== Sys2Proof/Machine/Dlk.lean ====
section
/-! DEFINITION. Joining devices: the device links, enumeration and routes, device time over the links, cross-device barriers,
the power shift and fencing (R398 to R405, R408 to R416). -/

namespace Sys2Proof.Machine

open Sys2Proof

/-- Change the device links beside their registers. -/
def modDlk (f : Dlk → Dlk) (s : State) : State := { s with dlk := f s.dlk }

/-- Device link l beside its registers. -/
def devLink (s : State) (l : Nat) : DevLink := s.dlk.links.getD l DevLink.fresh

/-- Change it. -/
def modDevLink (l : Nat) (f : DevLink → DevLink) (s : State) : State := modDlk (fun d => { d with links := d.links.modify l f }) s

/-- Own index, and is it valid. -/
def ownIndex (s : State) : Nat := getF s pgDlk Reg.DLK_STAT_INDEX
def indexed (s : State) : Bool := flag s pgDlk Reg.DLK_STAT_INDEX_V

/-- Is the device the root of the joined devices. -/
def isRoot (s : State) : Bool := flag s pgDlk Reg.DLK_CTL_ROOT && indexed s && ownIndex s = 0

/-- Is device link l UP. -/
def dlUp (s : State) (l : Nat) : Bool := l < 8 && getFi s pgDlk Reg.DLK_L_STATE l = 3

/-- A 128-bit mask kept in four words, and setting it. -/
def mask128 (s : State) (r : Row) : Nat :=
  getFi s pgDlk r 0 + 2 ^ 32 * getFi s pgDlk r 1 + 2 ^ 64 * getFi s pgDlk r 2 + 2 ^ 96 * getFi s pgDlk r 3
def setMask128 (r : Row) (v : Nat) (s : State) : State :=
  setFi pgDlk r 0 v (setFi pgDlk r 1 (v / 2 ^ 32) (setFi pgDlk r 2 (v / 2 ^ 64) (setFi pgDlk r 3 (v / 2 ^ 96) s)))

/-- Has this device fenced member d. -/
def fenced (s : State) (d : Nat) : Bool := (mask128 s Reg.DLK_FENCED).testBit d

/-- Has this device a route to member d. -/
def routed (s : State) (d : Nat) : Bool := (mask128 s Reg.DLK_REACH).testBit d

/-! ### Numbering and routes (R401, R403) -/

/-- Both directions of every cable: device, its link, the device and the link at the other end. -/
def cableEnds (c : List Cable) : List (Nat × Nat × Nat × Nat) := c.flatMap (fun x => [(x.a, x.la, x.b, x.lb), (x.b, x.lb, x.a, x.la)])

/-- The device at the other end of link l of device d, and its link. -/
def across (c : List Cable) (d l : Nat) : Option (Nat × Nat) :=
  ((cableEnds c).find? (fun e => e.1 = d ∧ e.2.1 = l)).map (fun e => (e.2.2.1, e.2.2.2))

/-- A device found by enumeration: its name, hop count, the position of its parent, the parent's link and its own link
toward the parent. -/
structure Found where
  name : Nat
  hop : Nat
  parent : Nat
  pLink : Nat
  uLink : Nat
deriving DecidableEq, Repr

/-- The devices that the device at a position adds: its neighbours not found before, by ascending link number. -/
def newFound (c : List Cable) (pos : Nat) (x : Found) (acc : List Found) : List Found :=
  (List.range 8).foldl (fun l k =>
    match across c x.name k with
    | some (d, m) => if l.any (fun f => f.name = d) then l else l ++ [⟨d, x.hop + 1, pos, k, m⟩]
    | none => l) acc

/-- Breadth-first enumeration (R401): devices in index order. -/
def enumFrom (c : List Cable) : Nat → Nat → List Found → List Found
  | 0, _, acc => acc
  | n + 1, pos, acc =>
    match acc[pos]? with
    | none => acc
    | some x => enumFrom c n (pos + 1) (newFound c pos x acc)

/-- The numbering of the devices that cables join to a root. -/
def enumerate (c : List Cable) (root : Nat) : List Found := enumFrom c (c.length + 1) 0 [⟨root, 0, 0, 0, 0⟩]

/-- The hop count of an index. -/
def hopOf (f : List Found) (i : Nat) : Nat := ((f.find? (fun x => x.name = i)).map (fun x => x.hop)).getD 0

/-- Is the link from device u to its neighbour v up (R403). -/
def isUp (f : List Found) (u v : Nat) : Bool := hopOf f v < hopOf f u || (hopOf f v = hopOf f u && v < u)

/-- The cables that carry routes: both ends indexed and neither known DOWN. -/
def liveCables (s : State) : List Cable :=
  s.dlk.cables.filter (fun x => decide (x.a < 128 ∧ x.b < 128) && !s.dlk.down.contains (x.a, x.la) && !s.dlk.down.contains (x.b, x.lb))

/-- One more hop of every route so far: device, has the route turned down, and its first link. -/
def routeStep (c : List Cable) (f : List Found) (front : List (Nat × Bool × Nat)) : List (Nat × Bool × Nat) :=
  front.flatMap (fun (x : Nat × Bool × Nat) =>
    (cableEnds c).filterMap (fun e =>
      if e.1 ≠ x.1 then none
      else if isUp f x.1 e.2.2.1 then (if x.2.1 then none else some (e.2.2.1, false, x.2.2))
      else some (e.2.2.1, true, x.2.2)))

/-- Keep one route of a level for each device and direction: that with the lowest first link. -/
def bestOf (l : List (Nat × Bool × Nat)) : List (Nat × Bool × Nat) :=
  l.foldl (fun acc x =>
    match acc.find? (fun y => y.1 = x.1 ∧ y.2.1 = x.2.1) with
    | some y => if x.2.2 < y.2.2 then x :: acc.filter (fun z => z ≠ y) else acc
    | none => x :: acc) []

/-- The shortest routes (R403), level by level: destination and first link. -/
def routeLevels (c : List Cable) (f : List Found) :
    Nat → List (Nat × Bool × Nat) → List (Nat × Bool) → List (Nat × Nat) → List (Nat × Nat)
  | 0, _, _, got => got
  | n + 1, front, seen, got =>
    let new := (bestOf front).filter (fun x => !seen.contains (x.1, x.2.1))
    let dests := (new.map (fun x => x.1)).eraseDups.filter (fun d => !got.any (fun g => g.1 = d))
    let found := dests.map (fun d => (d, (new.filter (fun x => x.1 = d)).foldl (fun m x => Nat.min m x.2.2) 7))
    routeLevels c f n (routeStep c f new) (seen ++ new.map (fun x => (x.1, x.2.1))) (got ++ found)

/-- The routes of this device: destination and first link. -/
def routesOf (s : State) : List (Nat × Nat) :=
  let me := ownIndex s
  let c := liveCables s
  let f := enumerate s.dlk.cables 0
  let start := (List.range 8).filterMap (fun l => (across c me l).map (fun e => (e.1, !isUp f me e.1, l)))
  (routeLevels c f (2 * c.length + 2) start [(me, false), (me, true)] []).filter (fun x => x.1 ≠ me)

/-- Show the members that have a route, the device itself among them. -/
def showReach (s : State) : State :=
  if indexed s then
    setMask128 Reg.DLK_REACH ((routesOf s).foldl (fun m x => putBits m x.1 1 1) (2 ^ ownIndex s)) s
  else s

/-- Has the device a link UP toward a neighbour in the up direction. -/
def hasUpLink (s : State) : Bool :=
  let f := enumerate s.dlk.cables 0
  (List.range 8).any (fun l => dlUp s l && (match across (liveCables s) (ownIndex s) l with
    | some e => isUp f (ownIndex s) e.1
    | none => false))

/-! ### The links (R398, R399) -/

/-- Device link l comes UP at `w` lanes; its measured latency is a free value. -/
def dlTrained (l w : Nat) (s : State) : State :=
  let d := drawFree 16 s
  setFi pgDlk Reg.DLK_L_LAT l d.1 (setFi pgDlk Reg.DLK_L_WIDTH l w (setFi pgDlk Reg.DLK_L_STATE l 3
    (setF pgDlk Reg.DLK_STAT_UP (putBits (getF s pgDlk Reg.DLK_STAT_UP) l 1 1) d.2)))

/-- A TSRC 1 member that has lost every up link behaves as a time receiver in LOST (R405, R236). -/
def timeLost (s : State) : State :=
  if flag s pgDlk Reg.DLK_CTL_TSRC ∧ indexed s ∧ ownIndex s ≠ 0 ∧ hasUpLink s = false ∧ getF s pgEth Reg.ETH_PTP_STAT_STATE ≠ 3 then
    syncHealth (record pgEth 0x49 (setF pgEth Reg.ETH_PTP_STAT_STATE 3 (fixTime s)))
  else s

/-- Device link l goes DOWN; routes are taken over the remaining links (R403). -/
def dlDown (l : Nat) (s : State) : State :=
  let s := setFi pgDlk Reg.DLK_L_WIDTH l 0 (setFi pgDlk Reg.DLK_L_STATE l 4
    (setF pgDlk Reg.DLK_STAT_UP (putBits (getF s pgDlk Reg.DLK_STAT_UP) l 1 0) s))
  timeLost (showReach (modDlk (fun d => { d with down := (ownIndex s, l) :: d.down }) s))

/-- Device link l trains (R399): 4 lanes, else lanes 0 and 1, else lanes 2 and 3, else not at all. -/
def dlTrain (l : Nat) (s : State) : State :=
  let m := (devLink s l).lanes
  if m % 16 = 15 then dlTrained l 4 s
  else if m % 4 = 3 ∨ m / 4 % 4 = 3 then record pgDlk 0x80 (dlTrained l 2 s)
  else record pgDlk 0x80 (dlDown l s)

/-- What a write of DLK.CTL brings beside the fields: with ENABLE set, each enabled link still in reset trains, and the
device waits for enumeration. -/
def dlkCtlWritten (s : State) : State :=
  if flag s pgDlk Reg.DLK_CTL_ENABLE then
    let s := if getF s pgDlk Reg.DLK_STAT_STATE = 0 then setF pgDlk Reg.DLK_STAT_STATE 1 s else s
    (bitsSet 8 (getF s pgDlk Reg.DLK_CTL_LINKS)).foldl (fun s l => if getFi s pgDlk Reg.DLK_L_STATE l = 0 then dlTrain l s else s) s
  else s

/-- Send a flit of class `cls` on device link l, with the credits owed to the peer unless it is an idle flit. -/
def dlSend (l cls ty : Nat) (idle : Bool) (data : List DWord) (s : State) : State :=
  let q := devLink s l
  let rq := if idle then 0 else Nat.min 15 (nth0 q.owed 0)
  let rs := if idle then 0 else Nat.min 15 (nth0 q.owed 1)
  let rc := if idle then 0 else Nat.min 3 (nth0 q.owed 2)
  let h := cls + 4 * ty + 64 * (if q.nak then 1 else 0) + 128 + 256 * (if cls = 3 then (q.seq + 255) % 256 else q.seq)
    + 65536 * q.ack + 2 ^ 24 * rq + 2 ^ 28 * rs + 2 ^ 32 * rc
  let f := makeFlit h data
  let s := modDevLink l (fun x => { x with
    owed := [nth0 x.owed 0 - rq, nth0 x.owed 1 - rs, nth0 x.owed 2 - rc]
    seq := if cls = 3 then x.seq else (x.seq + 1) % 256
    credits := if cls = 3 then x.credits else x.credits.modify cls (· - 1)
    replay := if cls = 3 then x.replay else ((x.replay ++ [f]).drop ((x.replay.length + 1) - 256))
    sentAt := s.io.now }) s
  emit (.flit (21 + l) f) s

/-- The flits after ACK_SEQ, which the peer has not received intact. -/
def dlUnacked (q : DevLink) (ackSeq : Nat) : List Flit := q.replay.filter (fun f => (hdrF f 8 8 + 256 - ackSeq) % 256 ≠ 0)

/-- A rejected flit is answered with NAK; the fourth failure of one flit takes the link DOWN with 0x8B. -/
def dlRejected (l : Nat) (s : State) : State :=
  let s := bumpI pgDlk Reg.DLK_L_REPLAYS l 1 (modDevLink l (fun q => { q with fails := q.fails + 1, nak := true }) s)
  if (devLink s l).fails ≥ 4 then dlDown l (record pgDlk 0x8B s) else dlSend l 3 0 false [] s

/-- An accepted flit: it is acknowledged, a NAK replays, and its credits are taken; more than the buffers hold record 0x8A and
take the link DOWN (R26). -/
def dlAccepted (l : Nat) (f : Flit) (s : State) : State :=
  let cls := hdrF f 0 2
  let left := dlUnacked (devLink s l) (hdrF f 16 8)
  let s := modDevLink l (fun q => { q with
    ack := if cls = 3 then q.ack else hdrF f 8 8
    fails := 0
    nak := false
    replay := left
    owed := if cls = 3 then q.owed else q.owed.modify cls (· + 1) }) s
  let s := if hdrF f 6 1 = 1 then left.foldl (fun t g => emit (.flit (21 + l) g) t) s else s
  let q := devLink s l
  let c := [nth0 q.credits 0 + hdrF f 24 4, nth0 q.credits 1 + hdrF f 28 4, nth0 q.credits 2 + hdrF f 32 2]
  if nth0 c 0 > 128 ∨ nth0 c 1 > 128 ∨ nth0 c 2 > 16 then dlDown l (record pgDlk 0x8A s)
  else modDevLink l (fun q => { q with credits := c }) s

/-- DLK_FLIT_RECEIVE (R398): a flit is accepted on its CRC alone; one out of sequence is discarded. -/
def execDlkFlitReceive (l : Nat) (flit : Flit) (t : Nat) (s : State) : Host.Outcome State Fault Refusal :=
  .next (
    let s := at_ t s
    if dlUp s l then
      if crcHolds flit = false then dlRejected l s
      else if hdrF flit 0 2 = 3 ∨ hdrF flit 8 8 = ((devLink s l).ack + 1) % 256 then dlAccepted l flit s
      else s
    else s)

/-- DLK_IDLE_FLIT (R399): a link UP on which nothing was sent for 1 µs carries a credit-only flit of zero credits. -/
def execDlkIdleFlit (l t : Nat) (s : State) : Host.Outcome State Fault Refusal :=
  .next (
    let s := at_ t s
    if dlUp s l ∧ (devLink s l).sentAt + 1000 ≤ s.io.now then dlSend l 3 0 true [] s else s)

/-- DLK_RX_TIMEOUT (R399). -/
def execDlkRxTimeout (l : Nat) (s : State) : Host.Outcome State Fault Refusal :=
  .next (if dlUp s l then dlDown l (record pgDlk 0x8B s) else s)

/-! ### Enumeration (R401, R402) -/

/-- The serial number of the hub die. -/
def hubSerial (s : State) : Nat := get64 s pgHubId Reg.HUB_ID_SERIAL_LO Reg.HUB_ID_SERIAL_HI 0

/-- The index and peers of an indexed device, whose cables are known by index; its fences are void, and its links toward
devices that got no index go DOWN. -/
def takeIndex (i members : Nat) (c : List Cable) (s : State) : State :=
  let x := ((enumerate c 0).find? (fun f => f.name = i)).getD ⟨i, 0, 0, 0, 0⟩
  let s := modDlk (fun d => { d with
    cables := c, down := ((List.range 8).filter (fun l => !dlUp s l)).map (fun l => (i, l)), out := 0, heard := []
    silent := List.replicate 128 0, sums := List.replicate 128 0, bars := 0, hold := 0, shifts := List.replicate 128 0, offer := none }) s
  let s := setMask128 Reg.DLK_FENCED 0 (setF pgDlk Reg.DLK_UPLINK x.uLink (setF pgDlk Reg.DLK_HOPS x.hop
    (setF pgDlk Reg.DLK_STAT_MEMBERS members (setF pgDlk Reg.DLK_STAT_INDEX_V 1 (setF pgDlk Reg.DLK_STAT_INDEX i
      (setF pgDlk Reg.DLK_STAT_STATE 3 s))))))
  let s := (List.range 8).foldl (fun s l =>
    match across c i l with
    | some e =>
      if 128 ≤ e.1 then (if dlUp s l then dlDown l s else s)
      else setFi pgDlk Reg.DLK_L_PEER_LINK l e.2 (setFi pgDlk Reg.DLK_L_PEER l e.1 s)
    | none => s) s
  showReach s

/-- DLK.CTL.ENUM, once after a cold reset and on an enabled root: the root takes index 0, numbers the devices that the cables
join to it, and keeps the list of their serial numbers. -/
def enumStart (c : List Cable) (s : State) : State :=
  if flag s pgDlk Reg.DLK_CTL_ROOT ∧ flag s pgDlk Reg.DLK_CTL_ENABLE ∧ s.dlk.enumDone = false then
    let c := c.filter (fun x => decide (x.la < 8 ∧ x.lb < 8))
    let f := enumerate c (hubSerial s)
    let idx (n : Nat) : Nat := (f.findIdx? (fun x => x.name = n)).getD 128
    let cables := c.map (fun x => (⟨idx x.a, x.la, idx x.b, x.lb⟩ : Cable))
    let names := (f.map (fun x => x.name)).take 128
    let s := modDlk (fun d => { d with enumDone := true, root := some (hubSerial s), serials := names }) s
    let s := takeIndex 0 names.length cables s
    (List.range names.length).foldl (fun s i => if i = 0 then s else emit (.dlk i (.enumerate i)) s) s
  else s

/-- ENUM_START (R401). -/
def execEnumStart (by_ : Agent) (cables : List Cable) (s : State) : Host.Outcome State Fault Refusal :=
  .next (asMaster pgDlk 0x40 by_ (enumStart cables) s)

/-- Enumeration failed on this device: 0x8C, and it is alone (R402). -/
def enumFail (s : State) : State :=
  record pgDlk 0x8C (setF pgDlk Reg.DLK_STAT_INDEX_V 0 (setF pgDlk Reg.DLK_STAT_STATE 4 s))

/-- ENUM_MESSAGE (R401): an enabled device takes its index and reports its serial number. One that would take index 128, and
one that hears from two roots or is itself a root, fails. -/
def execEnumMessage (m : EnumMsg) (s : State) : Host.Outcome State Fault Refusal :=
  .next (
    if !flag s pgDlk Reg.DLK_CTL_ENABLE then s
    else
      match s.dlk.root with
      | some r => if r ≠ m.root then enumFail s else if ownIndex s = 0 ∧ indexed s then s else
          emit (.dlk 0 (.serial m.index (hubSerial s))) (takeIndex m.index ((enumerate m.cables 0).filter (fun f => f.name < 128)).length m.cables s)
      | none =>
        let s := modDlk (fun d => { d with root := some m.root }) s
        if flag s pgDlk Reg.DLK_CTL_ROOT then enumFail s
        else if 128 ≤ m.index then
          let peers := (List.range 8).filter (fun l => dlUp s l &&
            (match across m.cables m.index l with | some e => decide (e.1 < 128) | none => false))
          enumFail (peers.foldl (fun s l => dlDown l s) s)
        else emit (.dlk 0 (.serial m.index (hubSerial s)))
          (takeIndex m.index ((enumerate m.cables 0).filter (fun f => f.name < 128)).length m.cables s))

/-- ENUM_TIMEOUT (R401): an enabled device that was not enumerated is alone. -/
def execEnumTimeout (s : State) : Host.Outcome State Fault Refusal :=
  .next (if flag s pgDlk Reg.DLK_CTL_ENABLE ∧ getF s pgDlk Reg.DLK_STAT_STATE = 1 ∧ indexed s = false then
    setF pgDlk Reg.DLK_STAT_STATE 4 s else s)

/-- TIME_FLIT (R405): a TSRC 1 member steers its clock to the root's time that reaches it over its up link, `delay` ns after
it was taken; the correction is made as that of a time receiver. -/
def execTimeFlit (rootTime : Int) (delay t : Nat) (s : State) : Host.Outcome State Fault Refusal :=
  .next (
    let s := at_ t s
    if flag s pgDlk Reg.DLK_CTL_TSRC ∧ indexed s ∧ ownIndex s ≠ 0 ∧ dlUp s (getF s pgDlk Reg.DLK_UPLINK) ∧ fenced s 0 = false then
      let s := fixTime s
      let off := devTime s - (rootTime + delay)
      let s := if getF s pgEth Reg.ETH_PTP_STAT_STATE = 3 then setF pgEth Reg.ETH_PTP_STAT_STATE 2 s else s
      if off ≤ 2000 ∧ -2000 ≤ off then modEth (fun x => { x with slew := -off }) s
      else modEth (fun x => { x with offset := x.offset - off }) s
    else s)

/-! ### Cross-device barriers (R408 to R412) -/

/-- Does an admitted or active table hold a BARRIER of partition p. -/
def holdsBarrier (s : State) (p : Nat) : Bool := tablesHold s (fun k => stPart k = p && stOp k = 4)

/-- The configuration of set k as its registers hold it. -/
def xbWritten (s : State) (k : Nat) : XSet where
  en := flagI s pgDlk Reg.DLK_XB_EN k
  part := getFi s pgDlk Reg.DLK_XB_PART k
  memb := (List.range 4).foldl (fun m w => m + 2 ^ (32 * w) * getFij s pgDlk Reg.DLK_XB_MEMB k w) 0
  skew := getFi s pgDlk Reg.DLK_XB_SKEW k
  latest := getFi s pgDlk Reg.DLK_XB_AT_LATEST k
  got := []

/-- A write to word `off` of XB_k: ignored with 0x8F while a table holds a BARRIER of the partition that the set names, or
would name by the write. -/
def writeXb (k off v : Nat) (s : State) : State :=
  let a := pageBase pgDlk + 0x100 + k * 0x20 + off
  let p := getFi s pgDlk Reg.DLK_XB_PART k
  let q := if off = 0 then v / 2 % 16 else p
  if 8 ≤ k ∨ 0x18 < off ∨ off % 4 ≠ 0 then s
  else if holdsBarrier s p ∨ holdsBarrier s q then record pgDlk 0x8F s
  else setW a (BitVec.ofNat 32 ((rowsAt pgDlk (0x100 + k * 0x20 + off)).foldl
    (fun u x => putBits u x.1.lo x.1.w (bitsOf v x.1.lo x.1.w)) 0)) s

/-- XB_CONFIG_WRITE (R408), under the page's lock. -/
def execXbConfigWrite (by_ : Agent) (k off : Nat) (v : Word) (s : State) : Host.Outcome State Fault Refusal :=
  .next (asMaster pgDlk (0x100 + k * 0x20 + off) by_ (underLock pgDlk (0x100 + k * 0x20 + off) v.toNat (writeXb k off)) s)

/-- The 802.1AS length of the current bar, ns. -/
def barNs (s : State) : Int := roundOpen s.cyc.len 42000

/-- Does a T0 lie within 10 µs of an instant. -/
def nearT0 (t0 at0 : Int) : Bool := decide (t0 ≤ at0 + 10000 ∧ at0 ≤ t0 + 10000)

/-- An ARRIVE that is not held: counted, with 0x8D. -/
def discardArrive (k : Nat) (s : State) : State := record pgDlk 0x8D (bumpI pgDlk Reg.DLK_XB_STAT_DISCARD k 1 s)

/-- The BARRIERs of a partition fired in this bar, in order. -/
def barriersOf (s : State) (p : Nat) : List StrokeRun :=
  s.seq.runs.filter (fun r => stPart r.raw = p && stOp r.raw = 4 && decide (r.bar = barCount s))

/-- Has the barrier of an ARRIVE failed already (R409). -/
def arriveFailed (s : State) (a : Arrive) : Bool :=
  match s.dlk.sets[a.set]? with
  | some x => (barriersOf s x.part).any (fun r => barrierOrd s r = a.ord && r.phase = .done && r.failed)
  | none => true

/-- XBAR_ARRIVE (R409): traffic of a fenced device is discarded; an ARRIVE whose T0 matches neither this bar nor the coming one,
or whose barrier has failed, is counted. -/
def execXbarArrive (a : Arrive) (s : State) : Host.Outcome State Fault Refusal :=
  .next (
    if fenced s a.sender ∨ 8 ≤ a.set then s
    else
      match s.dlk.sets[a.set]? with
      | none => s
      | some x =>
        let now := barsRun s && nearT0 a.t0 s.fus.tick0
        let next := barsRun s && nearT0 a.t0 (s.fus.tick0 + barNs s)
        if !x.en || !(now || next) || (now && arriveFailed s a) then discardArrive a.set s
        else modDlk (fun d => { d with sets := d.sets.modify a.set (fun y => { y with got := y.got ++ [(a, devTime s)] }) }) s)

/-- The arrivals of barrier j of a set that lie in this bar. -/
def arrivals (s : State) (x : XSet) (j : Nat) : List (Arrive × Int) := x.got.filter (fun g => g.1.ord = j && nearT0 g.1.t0 s.fus.tick0)

/-- The members that a barrier waits for: those of the mask that had not been fenced when the bar began. -/
def waitsFor (s : State) (x : XSet) : List Nat := (bitsSet 128 x.memb).filter (fun m => !s.dlk.out.testBit m)

/-- When a barrier releases this device's group, and is that late: at T_rel and the device's offset, or that offset after the
last arrival when it is received later (R410). -/
def releaseAt (s : State) (x : XSet) (j : Nat) : Int × Bool :=
  let g := arrivals s x j
  let rel := g.foldl (fun m a => max m a.1.tarr) ((g.map (fun a => a.1.tarr)).headD 0) + (x.skew : Int)
  let off : Int := (ownIndex s % 8 * 125 : Nat)
  let rx := g.foldl (fun m a => max m a.2) ((g.map (fun a => a.2)).headD 0)
  if rel + off < rx then (rx + off, true) else (rel + off, false)

/-- XBAR_RELEASE (R410): set k's open barrier, with every arrival held, releases its group when its moment has come. -/
def execXbarRelease (k t : Nat) (s : State) : Host.Outcome State Fault Refusal :=
  .next (
    let s := at_ t s
    match s.dlk.sets[k]? with
    | none => s
    | some x =>
      match openGate s x.part 4 with
      | none => s
      | some r =>
        let j := barrierOrd s r
        let g := arrivals s x j
        let w := releaseAt s x j
        match g.find? (fun a => a.1.sender = ownIndex s) with
        | none => s
        | some own =>
          if crossSet s x.part = some k ∧ (waitsFor s x).all (fun m => g.any (fun a => a.1.sender = m)) ∧ w.1 ≤ devTime s ∧
              pastD s r = false then
            let s := if w.2 then bumpI pgDlk Reg.DLK_XB_STAT_LATE k 1 s else s
            let s := modDlk (fun d => { d with wait := d.wait + (w.1 - own.1.tarr).toNat }) s
            gateDone r (releaseGroup r s)
          else s)

/-! ### Power shift (R413) -/

/-- DLK_STATUS (R413): a member's report of its wait. -/
def execDlkStatus (src waitUs : Nat) (s : State) : Host.Outcome State Fault Refusal :=
  .next (
    if indexed s ∧ src < 128 ∧ fenced s src = false then
      modDlk (fun d => { d with
        heard := if d.heard.contains src then d.heard else src :: d.heard
        sums := d.sums.modify src (· + waitUs) }) s
    else s)

/-- The members that take part in an exchange. -/
def shiftMembers (s : State) : List Nat := (List.range (getF s pgDlk Reg.DLK_STAT_MEMBERS)).filter (fun m => !fenced s m)

/-- The member with the largest wait, and the one with the smallest; ties go to the lowest index. -/
def donorOf (s : State) : Option Nat :=
  (shiftMembers s).foldl (fun b m => match b with
    | none => some m
    | some x => if nth0 s.dlk.sums x < nth0 s.dlk.sums m then some m else some x) none
def recipientOf (s : State) : Option Nat :=
  (shiftMembers s).foldl (fun b m => match b with
    | none => some m
    | some x => if nth0 s.dlk.sums m < nth0 s.dlk.sums x then some m else some x) none

/-- SHIFT_EXCHANGE (R413): the root proposes an exchange, once PERIOD bars have ended since the last one and no suspension
holds, if no member's SHIFT_W passes MAX. -/
def execShiftExchange (s : State) : Host.Outcome State Fault Refusal :=
  .next (
    if isRoot s ∧ flag s pgDlk Reg.DLK_SH_EN ∧ getF s pgDlk Reg.DLK_SH_PERIOD ≤ s.dlk.bars ∧ 0 < s.dlk.bars ∧ s.dlk.hold = 0 ∧
        s.dlk.offer = none then
      let step := getF s pgDlk Reg.DLK_SH_STEP
      let mx : Int := getF s pgDlk Reg.DLK_SH_MAX
      let clear := modDlk (fun d => { d with bars := 0, sums := List.replicate 128 0 })
      match donorOf s, recipientOf s with
      | some a, some b =>
        if a ≠ b ∧ -mx ≤ s.dlk.shifts.getD a 0 - step ∧ s.dlk.shifts.getD b 0 + step ≤ mx then
          emit (.dlk a (.propose step)) (clear (modDlk (fun d => { d with offer := some ⟨a, b, step, false⟩ }) s))
        else clear s
      | _, _ => clear s
    else s)

/-- The SHIFT_W of this device as written. -/
def shiftW (s : State) : Int := sint 16 (getF s pgCap Reg.CAP_SHIFT_W)

/-- Write it; it takes effect at the next boundary (R359). -/
def setShiftW (v : Int) (s : State) : State := setF pgCap Reg.CAP_SHIFT_W (unsint 16 v) s

/-- SHIFT_PROPOSE (R413): the donor accepts if LIM_1S with the new shift covers its floor budget, else records 0x8F. -/
def execShiftPropose (step : Nat) (s : State) : Host.Outcome State Fault Refusal :=
  .next (
    if indexed s ∧ fenced s 0 = false then
      let u := modPwr (fun p => { p with shift := shiftW s - step }) s
      if budgetOf s (floorsNow s) * 36 ≤ lim36 u (envNow s) 0 * 10 then emit (.dlk 0 (.accept step)) s
      else record pgDlk 0x8F s
    else s)

/-- SHIFT_COMMIT (R413): the root that holds an accepted offer sends COMMIT to both, or waits for the next bar when less
than 100 µs remain; a member that receives COMMIT moves its SHIFT_W. -/
def execShiftCommit (delta : Int) (untilBoundary : Nat) (s : State) : Host.Outcome State Fault Refusal :=
  .next (
    match s.dlk.offer with
    | some o =>
      if o.wait then s
      else if untilBoundary < 100000 then modDlk (fun d => { d with offer := some { o with wait := true } }) s
      else
        let me := ownIndex s
        let s := emit (.dlk o.recip (.commit o.step)) (emit (.dlk o.donor (.commit (-(o.step : Int)))) s)
        let s := modDlk (fun d => { d with
          offer := none, shifts := (d.shifts.modify o.donor (· - o.step)).modify o.recip (· + o.step) }) s
        let s := if o.donor = me then setShiftW (shiftW s - o.step) s else if o.recip = me then setShiftW (shiftW s + o.step) s else s
        bump pgDlk Reg.DLK_SH_EXCHANGES 1 s
    | none => if indexed s ∧ isRoot s = false ∧ fenced s 0 = false then setShiftW (shiftW s + delta) s else s)

/-! ### Fencing (R414, R415) -/

/-- SHIFT_W goes to 0, and the root suspends exchanges for PERIOD bars (R415). -/
def dropShift (s : State) : State :=
  let s := setShiftW 0 s
  if isRoot s then
    modDlk (fun d => { d with hold := getF s pgDlk Reg.DLK_SH_PERIOD, offer := none, shifts := List.replicate 128 0 }) s
  else s

/-- A copy stops with ERR. -/
def copyFails (c : Nat) (s : State) : State :=
  setFi pgDlk Reg.DLK_CP_ERR c 1 (setFi pgDlk Reg.DLK_CP_GO c 0
    { s with dlk := { s.dlk with copies := s.dlk.copies.filter (fun x => decide (x ≠ c)) } })

/-- A copy to or from a fenced device stops with 0x8E (R406). -/
def copyFenced (c : Nat) (s : State) : State := record pgDlk 0x8E (copyFails c s)

/-- This device fences member d (R414). -/
def fence (d : Nat) (s : State) : State :=
  let s := record pgDlk 0x8E (setMask128 Reg.DLK_FENCED (putBits (mask128 s Reg.DLK_FENCED) d 1 1) s)
  let s := (bitsSet 128 (mask128 s Reg.DLK_REACH)).foldl (fun s m => if m = ownIndex s ∨ m = d then s else emit (.dlk m (.fence d)) s) s
  let s := (s.dlk.copies.filter (fun c => decide (getFi s pgDlk Reg.DLK_CP_DEST c = d))).foldl (fun s c => copyFenced c s) s
  dropShift s

/-- DLK_FENCE (R414): the routes are taken again without the cables that are known DOWN; a member without a route, or without
STATUS for 3 bars, is fenced. -/
def execDlkFence (d : Nat) (down : List (Nat × Nat)) (s : State) : Host.Outcome State Fault Refusal :=
  .next (
    if indexed s ∧ d < getF s pgDlk Reg.DLK_STAT_MEMBERS ∧ d ≠ ownIndex s then
      let s := timeLost (showReach (modDlk (fun x => { x with down := down ++ x.down }) s))
      if fenced s d = false ∧ (routed s d = false ∨ 3 ≤ nth0 s.dlk.silent d) then fence d s else s
    else s)

/-- FENCE_NOTICE (R415). -/
def execFenceNotice (src _d : Nat) (s : State) : Host.Outcome State Fault Refusal :=
  .next (if indexed s ∧ fenced s src = false then dropShift s else s)

/-- ROOT_ROUTE_TIMEOUT (R415). -/
def execRootRouteTimeout (s : State) : Host.Outcome State Fault Refusal :=
  .next (if indexed s ∧ ownIndex s ≠ 0 ∧ routed s 0 = false then dropShift s else s)

/-- What a bar boundary brings (R408, R413, R414): the wait of the ended bar is shown and reported, members that were silent count, the
sets' configurations and the effective membership take effect, and the arrivals of the new bar alone are kept. -/
def dlkBoundary (s : State) : State :=
  let us := (roundOpen s.dlk.wait 1000).toNat
  let s := setF pgDlk Reg.DLK_WAIT_US us s
  let s := if indexed s then
      ((bitsSet 128 (mask128 s Reg.DLK_REACH)).filter (fun m => m ≠ ownIndex s)).foldl (fun s m => emit (.dlk m (.status us)) s) s
    else s
  let me := ownIndex s
  let members := getF s pgDlk Reg.DLK_STAT_MEMBERS
  let cfg := (List.range 8).map (fun k => xbWritten s k)
  let out := mask128 s Reg.DLK_FENCED
  modDlk (fun d => { d with
    wait := 0
    heard := []
    silent := d.silent.zipIdx.map (fun x => if x.2 < members ∧ x.2 ≠ me ∧ !d.heard.contains x.2 then x.1 + 1 else 0)
    sums := d.sums.modify me (· + us)
    bars := d.bars + 1
    hold := d.hold - 1
    offer := d.offer.map (fun o => { o with wait := false })
    out := out
    sets := (cfg.zip d.sets).map (fun x => { x.1 with got := x.2.got.filter (fun g => nearT0 g.1.t0 s.fus.tick0) }) }) s

end Sys2Proof.Machine
end

