-- ==== Sys2Proof/Machine/Power.lean ====
section
/-! DEFINITION. Power delivery: the phases and their faults, the operating points and their ageing, droops, envelopes and
caps, and the energy of the partitions (R276, R277, R337 to R360). -/

namespace Sys2Proof.Machine

open Sys2Proof

/-! ### Rails and phases -/

/-- A rail beside its VRC page. -/
def railPwr (s : State) (r : Nat) : RailPwr := s.pwr.rails.getD r ⟨[], [], [], none⟩

/-- Change it. -/
def modRail (r : Nat) (f : RailPwr → RailPwr) (s : State) : State :=
  { s with pwr := { s.pwr with rails := s.pwr.rails.modify r f } }

/-- The dies that a rail's limits act on (R343). -/
def railDies (r : Nat) : List Nat := if r < 4 then [r] else [0, 1, 2, 3]

/-- Show the phase that PH_SEL names. -/
def showPhase (r : Nat) (s : State) : State :=
  let p := pgVrc r
  let k := getF s p Reg.VRC_PH_SEL
  let x := railPwr s r
  let fail := ((x.lost.find? (fun e => e.1 = k)).elim 0 (fun e => e.2))
  setF p Reg.VRC_PH_IMON (unsint 12 (x.imon.getD k 0)) (setF p Reg.VRC_PH_TEMP (unsint 8 (x.temp.getD k 0))
    (setF p Reg.VRC_PH_FAIL fail s))

/-- The sum of a list of currents. -/
def sumI (l : List Int) : Int := l.foldl (· + ·) 0

/-- Current below which a rail sheds, and above which its phases come back, 0.1 A (R340). -/
def shedBelow (r : Nat) : Int := if r < 4 then 600 else 250
def shedAbove (r : Nat) : Int := if r < 4 then 800 else 350

/-- The set-point of CD_n's rail at point k, mV (R347). -/
def setPoint (s : State) (n k : Nat) : Nat := getFij s pgDvfs Reg.DVFS_VT_V_TEST n k + getFij s pgDvfs Reg.DVFS_VT_OFFSET n k

/-- What a sample of rail r shows (R339, R340, R354, R355). -/
def sampleRail (r t : Nat) (x : RailSample) (s : State) : State :=
  let p := pgVrc r
  let i := sumI x.imon
  let s := modRail r (fun y => { y with
    imon := x.imon, temp := x.temp,
    lowAt := if i < shedBelow r then some (y.lowAt.getD t) else none }) s
  let s := showPhase r (setF p Reg.VRC_VSNS x.vsns (setF p Reg.VRC_IRAIL (unsint 16 i) s))
  let s := if shedAbove r < i then readdPhases r s else s
  if r < 4 then
    let s := modDiePwr r (fun d => { d with headOk := d.headOk && decide (120 ≤ (getF s p Reg.VRC_ILIM : Int) - i) }) s
    if (diePwr s r).half ∧ getF s p Reg.VRC_VSET < x.vsns + 10 then modDiePwr r (fun d => { d with half := false }) s else s
  else s

/-- PMC_SAMPLE (R339). -/
def execPmcSample (rails : List RailSample) (vinMv vinMa t : Nat) (s : State) : Host.Outcome State Fault Refusal :=
  .next (
    let s := setF pgPmc Reg.PMC_VIN_CUR (vinMa / 10) (setF pgPmc Reg.PMC_VIN_MV vinMv (at_ t s))
    ((rails.take 5).zipIdx).foldl (fun s x => sampleRail x.2 t x.1 s) s)

/-- The lowest `n` set bits of a mask. -/
def lowBits (n m : Nat) : Nat := ((bitsSet 8 m).take n).foldl (fun v b => v + 2 ^ b) 0

/-- PHASE_SHED: a rail below its shed current for 100 µs drops to 4 or 2 active phases, the lowest good ones (R340). -/
def execPhaseShed (r t : Nat) (s : State) : Host.Outcome State Fault Refusal :=
  .next (
    match (railPwr s r).lowAt with
    | some u =>
      if r < 5 ∧ flag s pgPmc Reg.PMC_CTL_SHED_EN ∧ u + 100000 ≤ t ∧ getF s (pgVrc r) Reg.VRC_STAT_ACTIVE ≠ 0 then
        setF (pgVrc r) Reg.VRC_STAT_ACTIVE (lowBits (if r < 4 then 4 else 2) (getF s (pgVrc r) Reg.VRC_STAT_GOOD)) (at_ t s)
      else s
    | none => s)

/-- Every stage of a rail is disabled. -/
def disableRail (r : Nat) (s : State) : State := setF (pgVrc r) Reg.VRC_STAT_ACTIVE 0 (setF (pgVrc r) Reg.VRC_VSET 0 s)

/-- The hub is without power: the sequencer and the timebase stop, the cores and the dies are off, and SAFE_N_OUT reads
low through its pull-down. -/
def hubOff (s : State) : State :=
  let s := enterIdle s
  let s := (List.range 4).foldl (fun s d => stopDie d (setF (pgCdId d) Reg.CD_ID_SVC 0 s)) s
  let s := setF pgHubId Reg.HUB_ID_BOOT_STAT_DIE_SVC 0 s
  let s := writeCoreRun 0 (setF pgCyc Reg.CYC_STAT_STATE 0 (setF pgCyc Reg.CYC_CTL_RUN 0 s))
  emit (.safeOut false) (modClap (fun c => { c with safeOut := false }) s)

/-- The last TJ_MAX of each die. -/
def tjBytes (s : State) : List Byte := (List.range 5).flatMap (fun i => leBytes 1 (getFi s pgThm Reg.THM_TJ_MAX i))

/-- A trip (R363): every stage off, 0x69 and its FAULT entry, the TRIP entry, RST_CAUSE.TRIP, and the flush (R386). The
device stays off until cold reset. -/
def trip (s : State) : State :=
  if s.pwr.off then s
  else
    let s := (List.range 5).foldl (fun s r => disableRail r s) s
    let s := record pgThm 0x69 (setF pgHubId Reg.HUB_ID_RST_CAUSE_TRIP 1 s)
    let s := journal 9 0 (tjBytes s) [] (queueFault pgThm 0x69 s).2
    startFlush 2 (hubOff (modPwr (fun p => { p with off := true }) s))

/-- The phases that a fault takes: open ones, and sense failures that are not open (R342), of the good ones. -/
def newlyLost (good : Nat) (opens senses : List Nat) : List (Nat × Nat) :=
  (List.range 8).filterMap (fun i =>
    if good.testBit i then (if opens.contains i then some (i, 1) else if senses.contains i then some (i, 2) else none)
    else none)

/-- One phase is lost: stage disabled, GOOD and ILIM lowered, 0x60 or 0x61 (R343). -/
def losePhase (r : Nat) (x : Nat × Nat) (s : State) : State :=
  let p := pgVrc r
  let good := putBits (getF s p Reg.VRC_STAT_GOOD) x.1 1 0
  let s := setF p Reg.VRC_STAT_GOOD good (setF p Reg.VRC_STAT_ACTIVE (putBits (getF s p Reg.VRC_STAT_ACTIVE) x.1 1 0) s)
  let s := setF p Reg.VRC_ILIM (200 * (bitsSet 8 good).length) (bump p Reg.VRC_LOSSES 1 s)
  let s := modRail r (fun y => { y with lost := x :: y.lost }) s
  record p (if x.2 = 1 then 0x60 else 0x61) s

/-- What the number of phases lost on a rail brings (R344), when `before` of them were lost before. -/
def lossState (r before t : Nat) (s : State) : State :=
  let n := (railPwr s r).lost.length
  let p := pgVrc r
  if n = before then s
  else if r < 4 then
    if n = 1 then setF p Reg.VRC_STAT_STATE 1 s
    else if n = 2 then
      record p 0x62 (setF p Reg.VRC_STAT_STATE 2 (modDiePwr r (fun d => { d with op7 := true }) s))
    else if before < 3 then
      let s := setF p Reg.VRC_STAT_STATE 3 (modDiePwr r (fun d => { d with op7 := true, outAt := some t }) s)
      dieLeave r (record p 0x63 s)
    else s
  else if n = 1 then setF p Reg.VRC_STAT_STATE 1 s
  else if before < 2 then trip (record p 0x63 (setF p Reg.VRC_STAT_STATE 3 s))
  else s

/-- PHASE_FAULT (R342 to R345): an operating-point change in progress ends where it is. -/
def execPhaseFault (r : Nat) (opens senses : List Nat) (t : Nat) (s : State) : Host.Outcome State Fault Refusal :=
  .next (
    if 5 ≤ r then s
    else
      let s := at_ t s
      let l := newlyLost (getF s (pgVrc r) Reg.VRC_STAT_GOOD) opens senses
      if l = [] then s
      else
        let before := (railPwr s r).lost.length
        let s := l.foldl (fun s x => losePhase r x s) s
        let s := (railDies r).foldl (fun s n => modDiePwr n (fun d => { d with step := none }) s) s
        showLims (showPhase r (lossState r before t s)))

/-- ILIM_STEP: while the rail's current exceeds ILIM, the die steps down one point (R343). -/
def execIlimStep (r : Nat) (s : State) : Host.Outcome State Fault Refusal :=
  .next (
    if r < 5 ∧ (getF s (pgVrc r) Reg.VRC_ILIM : Int) < sint 16 (getF s (pgVrc r) Reg.VRC_IRAIL) then
      (railDies r).foldl (fun s n => modDiePwr n (fun d => { d with ilim := opAct s n - 1 }) s) s
    else s)

/-- The stages of an OUT compute rail are disabled. -/
def disableOut (n : Nat) (s : State) : State :=
  if (diePwr s n).outAt ≠ none then disableRail n (modDiePwr n (fun d => { d with outAt := none }) s) else s

/-- RAIL_STAGE_DISABLE (R344). -/
def execRailStageDisable (n : Nat) (s : State) : Host.Outcome State Fault Refusal :=
  .next (if n < 4 then disableOut n s else s)

/-! ### Operating points (R346, R347, R353, R360) -/

/-- The soft limits of CD_n: REQ, OPMAX, the 10 ms and 1 s caps, and the thermal throttle. -/
def softOp (s : State) (n : Nat) : Nat :=
  let d := diePwr s n
  Nat.min (opReq s n) (Nat.min (getFi s pgCap Reg.CAP_OPMAX (envNow s)) (Nat.min (nth0 d.caps 1) (Nat.min (nth0 d.caps 2) d.soft)))

/-- What the phases of the rails allow: OP_7, and the steps by ILIM. -/
def railLim (s : State) (n : Nat) : Nat := Nat.min (if (diePwr s n).op7 then 7 else 15) (diePwr s n).ilim

/-- The hard limits. -/
def hardOp (s : State) (n : Nat) : Nat :=
  let d := diePwr s n
  Nat.min (opTop s n) (Nat.min (railLim s n) (Nat.min (nth0 d.caps 0) (Nat.min d.hard d.droop)))

/-- The point selected for CD_n (R353). -/
def selectOp (s : State) (n : Nat) : Nat := Nat.min (Nat.max (softOp s n) (opFloor s n)) (hardOp s n)

/-- Does a soft limit hold the die below REQ: soft limits never take it below its floor. -/
def softHolds (s : State) (n l : Nat) : Bool := decide (Nat.max l (opFloor s n) < opReq s n)

/-- Does a hard limit. -/
def hardHolds (s : State) (n l : Nat) : Bool := decide (l < opReq s n)

/-- The active throttle reasons of CD_n as a mask, bit r − 1 for reason r (R360). -/
def reasons (s : State) (n : Nat) : Nat :=
  let d := diePwr s n
  let cool := decide (getF s pgCap Reg.CAP_COOL_LIM < shifted1S s (envNow s))
  let neg := decide (s.pwr.shift < 0)
  let one := softHolds s n (nth0 d.caps 2)
  let ten := softHolds s n (nth0 d.caps 1)
  let l := [softHolds s n d.soft || hardHolds s n d.hard, hardHolds s n (nth0 d.caps 0), ten,
    one && !cool && !neg, hardHolds s n (railLim s n), d.half || decide (d.droop < 15),
    one && cool, (one && neg && !cool) || (ten && neg), d.roll, softHolds s n (getFi s pgCap Reg.CAP_OPMAX (envNow s))]
  l.zipIdx.foldl (fun v x => if x.1 then v + 2 ^ x.2 else v) 0

/-- One step toward the selected point begins: downward the clock switches first, upward the voltage rises first. -/
def beginStep (n : Nat) (s : State) : State :=
  let op := selectOp s n
  let act := opAct s n
  if (diePwr s n).step ≠ none ∨ op = act then s
  else if op < act then
    setFi pgDvfs Reg.DVFS_OPC_ACT n (act - 1) (modDiePwr n (fun d => { d with step := some (act - 1) }) s)
  else
    setF (pgVrc n) Reg.VRC_VSET (setPoint s n (act + 1)) (modDiePwr n (fun d => { d with step := some (act + 1) }) s)

/-- Selection for CD_n: BREACH, with 0x65 once per bar (R355), the reasons, and a step. -/
def selectDie (n : Nat) (s : State) : State :=
  let low := decide (selectOp s n < opFloor s n)
  let s := setFi pgDvfs Reg.DVFS_OPC_BREACH n (if low then 1 else 0) s
  let s := if low && !(diePwr s n).breach then record pgDvfs 0x65 (modDiePwr n (fun d => { d with breach := true }) s) else s
  let s := setFi pgDvfs Reg.DVFS_THR_ACT n (reasons s n) s
  beginStep n (modDiePwr n (fun d => { d with roll := false }) s)

/-- OP_SELECT: every 1 µs, for the dies in service; the reasons active on at least one die accumulate (R353, R360). -/
def execOpSelect (s : State) : Host.Outcome State Fault Refusal :=
  .next (
    let s := (diesIn s).foldl (fun s n => selectDie n s) s
    let act := (diesIn s).foldl (fun v n => v ||| getFi s pgDvfs Reg.DVFS_THR_ACT n) 0
    (bitsSet 10 act).foldl (fun s b => bump64 pgDvfs Reg.DVFS_THR_US_LO Reg.DVFS_THR_US_HI (b + 1) 1 s) s)

/-- OP_STEP_DONE: the clock has switched and the voltage is at the set-point of the point reached (R347). -/
def execOpStepDone (n : Nat) (s : State) : Host.Outcome State Fault Refusal :=
  .next (
    match (diePwr s n).step with
    | some k =>
      let s := modDiePwr n (fun d => { d with step := none }) (setFi pgDvfs Reg.DVFS_OPC_ACT n k s)
      setF (pgVrc n) Reg.VRC_VSET (setPoint s n k) s
    | none => s)

/-! ### Ageing (R348, R349) -/

/-- MARGIN_SAMPLE: the smallest slack of the eight monitors, and how often in a row it has been low at this point. -/
def execMarginSample (n : Nat) (slack : List Nat) (s : State) : Host.Outcome State Fault Refusal :=
  .next (
    match slack with
    | [] => s
    | x :: r =>
      if n < 4 then
        let m := r.foldl Nat.min x
        let k := opAct s n
        let low := decide (m < getFi s pgDvfs Reg.DVFS_AGE_MARGIN_MIN n)
        modDiePwr n (fun d => { d with below := (if low then (if d.below.2 = k then d.below.1 + 1 else 1) else 0, k) })
          (setFi pgDvfs Reg.DVFS_AGE_MARGIN n (Nat.min m 255) s)
      else s)

/-- An entry that the ledger may refuse: then it is kept for another try at the next bar boundary (R348). -/
def journalKeep (etype key : Nat) (data : List Byte) (words : List (Nat × Word)) (s : State) : State :=
  let ok := s.ldg.queue.length < 256 ∧ getF s pgLdg Reg.LDG_STAT_STATE ≠ 4 ∧ getF s pgLdg Reg.LDG_STAT_STATE ≠ 5
  let s := journal etype key data words s
  if ok then s else modPwr (fun p => { p with retry := p.retry ++ [(etype, key, data, words)] }) s

/-- The words of the voltage table of CD_n from point k on. -/
def vtWords (s : State) (n k : Nat) : List (Nat × Word) :=
  ((List.range 16).filter (fun j => decide (k ≤ j))).map (fun j =>
    let a := fieldAddr pgDvfs Reg.DVFS_VT_OFFSET n j
    (a, regW s a))

/-- OP_k and every higher point of CD_n are retired; below OP_0 no point is left for TOP to name (R349; log entry 3). -/
def retireFrom (n k : Nat) (s : State) : State :=
  let s := ((List.range 16).filter (fun j => decide (k ≤ j))).foldl (fun s j => setFij pgDvfs Reg.DVFS_VT_RETIRED n j 1 s) s
  let f := if k = 0 then drawFree 4 s else (Nat.min (k - 1) (opTop s n), s)
  let s := setFi pgDvfs Reg.DVFS_OPC_TOP n f.1 f.2
  let a := fieldAddr pgDvfs Reg.DVFS_OPC_TOP n 0
  journalKeep 4 n (leBytes 1 k) ((a, regW s a) :: vtWords s n k) (record pgDvfs 0x6D s)

/-- An offset of CD_n is raised to `o`; within 10 mV of OFFSET_MAX it records 0x6C once per point. -/
def setOffset (n j o : Nat) (s : State) : State :=
  let s := setFij pgDvfs Reg.DVFS_VT_OFFSET n j o s
  if getFi s pgDvfs Reg.DVFS_AGE_OFFSET_MAX n ≤ o + 10 ∧ (diePwr s n).near.contains j = false then
    record pgDvfs 0x6C (modDiePwr n (fun d => { d with near := j :: d.near }) s)
  else s

/-- May the offset of point j become `o`. -/
def offsetFits (s : State) (n o j : Nat) : Bool :=
  decide (o ≤ getFi s pgDvfs Reg.DVFS_AGE_OFFSET_MAX n) && decide (getFij s pgDvfs Reg.DVFS_VT_V_TEST n j + o ≤ 900)

/-- Is a point of CD_n retired. -/
def retired (s : State) (n j : Nat) : Bool := getFij s pgDvfs Reg.DVFS_VT_RETIRED n j ≠ 0

/-- The points that a raise of OP_k to offset `o` changes: k, and every higher point not retired whose offset is lower. -/
def raised (s : State) (n k o : Nat) : List Nat :=
  (List.range 16).filter (fun j => decide (k ≤ j) && !retired s n j && decide (getFij s pgDvfs Reg.DVFS_VT_OFFSET n j < o))

/-- A raise of OP_k on CD_n: a point that does not fit is retired with those above it. -/
def raiseOffset (n k : Nat) (s : State) : State :=
  let o := getFij s pgDvfs Reg.DVFS_VT_OFFSET n k + 1
  let l := raised s n k o
  match l.find? (fun j => !offsetFits s n o j) with
  | some j =>
    if j = k then retireFrom n k s
    else
      let s := (l.takeWhile (fun i => decide (i < j))).foldl (fun s i => setOffset n i o s) s
      let s := bumpI pgDvfs Reg.DVFS_AGE_RAISES n 1 s
      retireFrom n j (journalKeep 3 n (leBytes 1 k ++ leBytes 1 o) (vtWords s n k) s)
  | none =>
    let s := bumpI pgDvfs Reg.DVFS_AGE_RAISES n 1 (l.foldl (fun s i => setOffset n i o s) s)
    journalKeep 3 n (leBytes 1 k ++ leBytes 1 o) (vtWords s n k) s

/-- AGE_RAISE: 64 consecutive low samples at a point (R348); a set-point in use follows. -/
def execAgeRaise (n : Nat) (s : State) : Host.Outcome State Fault Refusal :=
  .next (
    let b := (diePwr s n).below
    if n < 4 ∧ 64 ≤ b.1 ∧ retired s n b.2 = false then
      let s := raiseOffset n b.2 (modDiePwr n (fun d => { d with below := (0, b.2) }) s)
      if (diePwr s n).step = none then setF (pgVrc n) Reg.VRC_VSET (setPoint s n (opAct s n)) s else s
    else s)

/-! ### Floors and envelopes (R351, R352, R356) -/

/-- A write of OPC_n.FLOOR_PEND: refused with 0x67 above TOP or when a check fails. -/
def writeFloor (n k : Nat) (s : State) : State :=
  if k = getFi s pgDvfs Reg.DVFS_OPC_FLOOR_PEND n then (if locked s pgDvfs then s else advanceCfgGen s)
  else if locked s pgDvfs then record pgDvfs 0x05 s
  else if opTop s n < k ∨ floorsPass s (envNow s) ((floorsPend s).set n k) = false then record pgDvfs 0x67 s
  else setFi pgDvfs Reg.DVFS_OPC_FLOOR_PEND n k (advanceCfgGen s)

/-- FLOOR_PEND_WRITE (R352). -/
def execFloorPendWrite (by_ : Agent) (n k : Nat) (s : State) : Host.Outcome State Fault Refusal :=
  .next (if n < 4 ∧ k < 16 then asMaster pgDvfs (0x40 + 4 * n) by_ (writeFloor n k) s else s)

/-- A write of ENV.REQ. -/
def writeEnv (e : Nat) (s : State) : State :=
  if 3 ≤ e then record pgCap 0x67 s else setF pgCap Reg.CAP_STAT_CORE_PEND 1 (setF pgCap Reg.CAP_ENV_REQ e s)

/-- ENV_REQUEST (R356). -/
def execEnvRequest (by_ : Agent) (e : Nat) (s : State) : Host.Outcome State Fault Refusal :=
  .next (if e < 4 then asMaster pgCap 0x40 by_ (writeEnv e) s else s)

/-- A write of ENV_ISL, which only the island in charge may make. -/
def writeEnvIsl (who : Agent) (e : Nat) (s : State) : State :=
  if inCharge s who = false ∨ 3 ≤ e then record pgCap 0x67 s
  else setF pgCap Reg.CAP_STAT_ISL_PEND 1 (modPwr (fun p => { p with envIsl := e }) s)

/-- ENV_ISL_REQUEST (R356). -/
def execEnvIslRequest (by_ : Agent) (e : Nat) (s : State) : Host.Outcome State Fault Refusal :=
  .next (if e < 4 then asMaster pgCap 0x44 by_ (writeEnvIsl by_ e) s else s)

/-- A pending envelope at a boundary: it takes effect if the floors pass under it, else 0x67 (R356). -/
def applyEnv (e : Nat) (s : State) : State :=
  if floorsPass s e (floorsNow s) then setF pgCap Reg.CAP_STAT_ENV e s else record pgCap 0x67 s

/-- The envelope requests at a boundary: the island request before the core request. -/
def envBoundary (s : State) : State :=
  let isl := flag s pgCap Reg.CAP_STAT_ISL_PEND
  let core := flag s pgCap Reg.CAP_STAT_CORE_PEND
  let s := setF pgCap Reg.CAP_STAT_ISL_PEND 0 (setF pgCap Reg.CAP_STAT_CORE_PEND 0 s)
  if isl then applyEnv s.pwr.envIsl s else if core then applyEnv (getF s pgCap Reg.CAP_ENV_REQ) s else s

/-! ### Droops (R354) -/

/-- DROOP_DETECT: half clock, the count, and 0x64 for the first in a bar. -/
def execDroopDetect (n t : Nat) (s : State) : Host.Outcome State Fault Refusal :=
  .next (
    if 4 ≤ n then s
    else
      let s := readdPhases n (bump (pgVrc n) Reg.VRC_DROOPS 1 (at_ t s))
      let first := !(diePwr s n).drooped
      let s := modDiePwr n (fun d => { d with half := true, drooped := true, droopAt := t }) s
      if first then record (pgVrc n) 0x64 s else s)

/-- DROOP_TIMEOUT: not recovered within 10 µs, the die steps down one point. -/
def execDroopTimeout (n t : Nat) (s : State) : Host.Outcome State Fault Refusal :=
  .next (
    let d := diePwr s n
    if n < 4 ∧ d.half ∧ d.droopAt + 10000 ≤ t then modDiePwr n (fun d => { d with droop := opAct s n - 1 }) (at_ t s) else s)

/-- DROOP_HOLD_END: 1 ms later the limit ends. -/
def execDroopHoldEnd (n : Nat) (s : State) : Host.Outcome State Fault Refusal :=
  .next (modDiePwr n (fun d => { d with droop := 15 }) s)

/-! ### Warm load (R367) -/

/-- The idle engines of CD_n: READY and not asleep, by logical engine and slot. -/
def idleEngines (s : State) (n : Nat) : List (Nat × Nat) :=
  (List.range 16).filterMap (fun k =>
    match slotOf s n k with
    | some e =>
      if getF s (pgPe n e) Reg.PE_ENG_STAT_STATE = 2 ∧ (getF s (pgSch n) Reg.SCH_SLEEP_ACT).testBit k = false then some (k, e)
      else none
    | none => none)

/-- Warm load runs on the idle engines of CD_n, by roll-in. -/
def warmStart (n : Nat) (s : State) : State :=
  let l := idleEngines s n
  let s := modDiePwr n (fun d => { d with warm := true }) s
  l.foldl (fun s x => enterBrush n x.2 warmPart s) (if l = [] then s else rollIn n s)

/-- Warm load ends on CD_n. -/
def warmStop (n : Nat) (s : State) : State :=
  let s := modDiePwr n (fun d => { d with warm := false }) s
  (List.range 18).foldl (fun s e =>
    let g := engOf s n e
    let s := if g.brushNext = some warmPart then modEng n e (fun g => { g with brushNext := none }) s else s
    match g.brush with
    | some (q, _) => if q = warmPart then showState n e (leaveBrush n e s) else s
    | none => s) s

/-! ### Caps (R358) -/

/-- The die that a cap lowers: the highest point, the lowest index among equals. -/
def highestDie (s : State) : Option Nat :=
  (diesIn s).foldl (fun b n => match b with | none => some n | some m => if opAct s m < opAct s n then some n else b) none

/-- Is a mean (0.1 W) above `pc` percent of its cap. -/
def aboveCap (s : State) (w mean pc : Nat) : Bool := decide (pc * lim36 s (envNow s) w * 10 < mean * 100 * 36)

/-- The window of an evaluation as the caps number them: 0 the 1 s, 1 the 10 ms, 2 the 1 ms cap. -/
def capOf (win : Nat) : Nat := 2 - win

/-- CAP_EVALUATION of window 0 (1 ms), 1 (10 ms) or 2 (1 s), whose mean is in 0.1 W. -/
def execCapEvaluation (win mean t : Nat) (s : State) : Host.Outcome State Fault Refusal :=
  .next (
    if 3 ≤ win then s
    else
      let s := modPwr (fun p => { p with means := p.means.set win mean }) (at_ t s)
      let s := setFi pgCap Reg.CAP_P (capOf win) (roundOpen mean 10).toNat s
      let low := (List.range 3).all (fun w => decide (nth0 s.pwr.means w * 100 * 36 < 90 * lim36 s (envNow s) (capOf w) * 10))
      let s := modPwr (fun p => { p with lowAt := if low then some (p.lowAt.getD t) else none }) s
      if aboveCap s (capOf win) mean 97 then
        let s := (List.range 4).foldl (fun s n => if (diePwr s n).warm then warmStop n s else s) s
        match highestDie s with
        | some n => modDiePwr n (fun d => { d with caps := d.caps.set win (opAct s n - 1) }) s
        | none => s
      else s)

/-- Is CD_n held below REQ by a cap. -/
def capped (s : State) (n : Nat) : Bool := (diePwr s n).caps.any (fun c => decide (c < opReq s n))

/-- The die that is raised: the lowest point, the lowest index among equals, of those a cap holds below REQ. -/
def lowestDie (s : State) : Option Nat :=
  ((diesIn s).filter (capped s)).foldl
    (fun b n => match b with | none => some n | some m => if opAct s n < opAct s m then some n else b) none

/-- CAP_RAISE: with every mean below 90 % for 1 ms, and 1 ms after the last raise, one die rises one point (R358). -/
def execCapRaise (t : Nat) (s : State) : Host.Outcome State Fault Refusal :=
  .next (
    match s.pwr.lowAt, lowestDie s with
    | some u, some n =>
      if u + 1000000 ≤ t ∧ (s.pwr.raiseAt = 0 ∨ s.pwr.raiseAt + 1000000 ≤ t) then
        let up (c : Nat) : Nat := if c ≤ opAct s n then opAct s n + 1 else c
        modDiePwr n (fun d => { d with caps := d.caps.map (fun c => if opReq s n ≤ up c then 15 else up c) })
          (modPwr (fun p => { p with raiseAt := t }) (at_ t s))
      else s
    | _, _ => s)

/-! ### Energy (R276, R277, R339) -/

/-- An FP32 value as a fraction; none for a NaN or an infinity. -/
def fracF (w : Word) : Option (Int × Nat) :=
  match f32 w with
  | .fin neg m e =>
    let v : Int := if neg then -(m : Int) else m
    some (if 0 ≤ e then (v * 2 ^ e.toNat, 1) else (v, 2 ^ (-e).toNat))
  | _ => none

/-- The R276 estimate of partition p on die d, as a fraction of pJ over the common denominator: with K = a/b,
V_REF = c/e, and V in mV, K × clocks × (V/V_REF)² = a × clocks × (V × e)² / (b × (1000 × c)²). -/
def dieEstimate (s : State) (p d : Nat) : Option (Int × Nat) :=
  match fracF (BitVec.ofNat 32 (getFi s pgAcct Reg.ACCT_K 0)), fracF (BitVec.ofNat 32 (getFi s pgAcct Reg.ACCT_K 1)),
      fracF (BitVec.ofNat 32 (getF s pgAcct Reg.ACCT_V_REF)) with
  | some kw, some kb, some v =>
    if v.1 = 0 then none
    else
      let mv := getF s (pgVrc d) Reg.VRC_VSET
      let w := nth0 (s.acct.work.getD p []) d
      let b := nth0 (s.acct.brushClk.getD p []) d
      let n := kw.1 * w * kb.2 + kb.1 * b * kw.2
      some (n * (mv * v.2 : Nat) ^ 2, kw.2 * kb.2 * (1000 * v.1.natAbs) ^ 2)
  | _, _, _ => none

/-- The memory part of the estimate. -/
def memEstimate (s : State) (p : Nat) : Option (Int × Nat) :=
  match fracF (BitVec.ofNat 32 (getFi s pgAcct Reg.ACCT_K 2)), fracF (BitVec.ofNat 32 (getFi s pgAcct Reg.ACCT_K 3)) with
  | some ks, some kp => some (ks.1 * nth0 s.acct.stackU p * kp.2 + kp.1 * nth0 s.acct.poolU p * ks.2, ks.2 * kp.2)
  | _, _ => none

/-- The sum of two fractions. -/
def addFrac (a b : Int × Nat) : Int × Nat := (a.1 * b.2 + b.1 * a.2, a.2 * b.2)

/-- The estimate of partition p in pJ; none where a coefficient is no number. -/
def estimate (s : State) (p : Nat) : Option Nat :=
  ((List.range 4).foldl (fun acc d => acc.bind (fun a => (dieEstimate s p d).map (addFrac a))) (memEstimate s p)).map
    (fun x => (roundOpen x.1 x.2).toNat)

/-- Charge energy to a partition; a value that the coefficients do not give is free (log entry 3). -/
def chargeEnergy (p : Nat) (e : Option Nat) (s : State) : State :=
  match e with
  | some v => modCharge p (fun c => { c with energy := satAdd 64 c.energy v }) s
  | none =>
    let f := drawFree 64 s
    modCharge p (fun c => { c with energy := satAdd 64 c.energy f.1 }) f.2

/-- Stack bytes of partition p since the last interval. -/
def stackBytes (s : State) (p : Nat) : Nat :=
  sumOf (s.acct.live.getD p Charges.zero).stack - nth0 s.acct.stackAt p

/-- The share `w / total` of an energy, pJ. -/
def shareOf (e : Nat) (w : Int) (total : Int) : Nat := if total ≤ 0 then 0 else (roundOpen (e * w) total.toNat).toNat

/-- The measured energy of partition p: of each compute rail by the estimates on that die, of the hub rail by stack bytes
(R277). The estimates on one die share their denominator. -/
def measured (s : State) (rails : List Nat) (p : Nat) : Option Nat :=
  let hub := shareOf (nth0 rails 4) (stackBytes s p) (sumOf ((List.range 16).map (stackBytes s)))
  (List.range 4).foldl (fun acc d =>
    acc.bind (fun a =>
      match dieEstimate s p d with
      | some x =>
        let total := sumI ((List.range 16).map (fun q => ((dieEstimate s q d).getD (0, 1)).1))
        some (a + shareOf (nth0 rails d) x.1 total)
      | none => none)) (some hub)

/-- Energy enters a 64-bit µJ counter, the rest below 1 µJ is kept. -/
def addMicro (i pj : Nat) (lo hi : Row) (k : Nat) (s : State) : State :=
  let v := nth0 s.pwr.rest i + pj
  bump64 pgPmc lo hi k (v / 1000000) (modPwr (fun p => { p with rest := p.rest.set i (v % 1000000) }) s)

/-- ENERGY_INTERVAL: the energies of the five rails and of VIN over 1 µs, in pJ, so that 1 W is 1,000,000. -/
def execEnergyInterval (rails : List Nat) (vin : Nat) (s : State) : Host.Outcome State Fault Refusal :=
  .next (
    let s := (List.range 5).foldl (fun s r => addMicro r (nth0 rails r) Reg.PMC_E_RAIL_LO Reg.PMC_E_RAIL_HI r s) s
    let s := addMicro 5 vin Reg.PMC_E_VIN_LO Reg.PMC_E_VIN_HI 0 s
    let dev := (roundOpen vin 100000).toNat + 10 * getF s pgCap Reg.CAP_AUX_W
    let s := setF pgPmc Reg.PMC_P_DEV dev s
    let s := modPwr (fun p => { p with powOk := p.powOk && !aboveCap s 0 dev 95 }) s
    let es := (List.range 16).map (fun p => if s.acct.mode = 1 then measured s rails p else estimate s p)
    let s := es.zipIdx.foldl (fun s x => chargeEnergy x.2 x.1 s) s
    { s with acct := { s.acct with
      work := List.replicate 16 [0, 0, 0, 0], brushClk := List.replicate 16 [0, 0, 0, 0],
      stackU := List.replicate 16 0, poolU := List.replicate 16 0,
      stackAt := (List.range 16).map (fun p => sumOf (s.acct.live.getD p Charges.zero).stack) } })

end Sys2Proof.Machine
end

