-- ==== Sys2Proof/Machine/Thermal.lean ====
section
/-! DEFINITION. Temperatures: thresholds and trips, the coolant, warm load, thermal cycles, and what a bar boundary does to
power management (R355, R356, R359, R361 to R369). -/

namespace Sys2Proof.Machine

open Sys2Proof

/-! ### Thresholds (R362): a source is 0 below its release, 1 held, 2 at the soft threshold, 3 at the hard one -/

/-- The sources that act on CD_n: its TJ_MAX, that of HD, its stack, and the stages of its rail. -/
def sourcesOf (n : Nat) : List Nat := [n, 4, 5 + n, 9 + n]

/-- Soft, hard and release thresholds of a source; the stages have no hard one. -/
def thresholds (i : Nat) : Int × Option Int × Int :=
  if i < 5 then (115, some 118, 110) else if i < 9 then (95, some 100, 90) else (120, none, 115)

/-- The state of a source after a reading. -/
def sourceNext (i old : Nat) (v : Int) : Nat :=
  let t := thresholds i
  if (match t.2.1 with | some h => decide (h ≤ v) | none => false) then 3
  else if t.1 ≤ v then 2
  else if v < t.2.2 then 0
  else if old = 0 then 0 else 1

/-- The highest state of the sources that act on CD_n. -/
def thrOf (s : State) (n : Nat) : Nat := maxOf ((sourcesOf n).map (nth0 s.pwr.thr))

/-- CD_n steps down one point: by the hard limit at its floor when a hard threshold is reached, else by the soft limit. -/
def thermDown (n t : Nat) (s : State) : State :=
  let act := opAct s n
  if thrOf s n = 3 ∧ act ≤ opFloor s n then modDiePwr n (fun d => { d with hard := act - 1, thAt := t }) s
  else modDiePwr n (fun d => { d with soft := Nat.min d.soft (act - 1), thAt := t }) s

/-- A reading of source i: entering a throttle records 0x68 once per episode, and the dies acted on step at once. -/
def readSource (i t : Nat) (v : Int) (s : State) : State :=
  let old := nth0 s.pwr.thr i
  let new := sourceNext i old v
  let s := modPwr (fun p => { p with thr := p.thr.set i new }) s
  let s := if old = 0 ∧ 2 ≤ new then record pgThm 0x68 s else s
  if (old = 0 ∧ 2 ≤ new) ∨ (old < 3 ∧ new = 3) then
    ((List.range 4).filter (fun n => (sourcesOf n).contains i)).foldl (fun s n => thermDown n t s) s
  else s

/-- A reading that may trip (R363): counter j of consecutive samples at or above `lim`. -/
def readTrip (j : Nat) (lim v : Int) (s : State) : State :=
  let n := if lim ≤ v then Nat.min 2 (nth0 s.pwr.trips j + 1) else 0
  let s := modPwr (fun p => { p with trips := p.trips.set j n }) s
  if n = 2 then trip s else s

/-- THERMAL_STEP: every 1 ms at a threshold a further step down, every 10 ms after the release one up (R362). -/
def execThermalStep (n t : Nat) (s : State) : Host.Outcome State Fault Refusal :=
  .next (
    let d := diePwr s n
    let k := thrOf s n
    if 4 ≤ n then s
    else if 2 ≤ k then (if d.thAt + 1000000 ≤ t then thermDown n t (at_ t s) else s)
    else if k = 0 ∧ (d.soft < 15 ∨ d.hard < 15) ∧ d.thAt + 10000000 ≤ t then
      let up (c : Nat) : Nat := if opReq s n ≤ c + 1 then 15 else c + 1
      modDiePwr n (fun d => { d with soft := up d.soft, hard := up d.hard, thAt := t }) (at_ t s)
    else s)

/-! ### Thermal half-cycles (R368) -/

/-- The bin of a swing. -/
def cycleBin (v : Int) : Nat := if v < 40 then 0 else if v < 60 then 1 else if v < 80 then 2 else 3

/-- Count a half-cycle of die d. -/
def countCycle (d : Nat) (swing : Int) (s : State) : State :=
  let b := cycleBin swing
  let v := getFij s pgThm Reg.THM_CYC d b
  setFij pgThm Reg.THM_CYC d b (satAdd 32 v 1)
    (modPwr (fun p => { p with cycInc := p.cycInc.modify (4 * d + b) (· + 1) }) s)

/-- The last reading of die d that a POWER_DOWN entry holds, in the journal or in WEAR. -/
def lastJournalled (s : State) (d : Nat) : Option Int :=
  let old := match committed s 0x17 0 with | some x => x.ents | none => []
  match ((old ++ liveEntries s 0).filter (fun e => e.etype = 8)).getLast? with
  | some e => some (sint 8 (leNat ((e.data.drop (1 + d)).take 1)))
  | none => none

/-- The first reading after boot against the last one before power-down. -/
def bootCycle (d : Nat) (v : Int) (s : State) : State :=
  match lastJournalled s d with
  | some w => if 20 ≤ |v - w| then countCycle d |v - w| s else s
  | none => s

/-- A reading of die d's TJ_MAX: a reversal of at least 20 °C from the last extremum counts the swing between the last two
extrema. -/
def cycleRead (d : Nat) (v : Int) (s : State) : State :=
  let x := s.pwr.cyc.getD d ⟨true, none, none⟩
  let put (y : Cycles) (s : State) : State := modPwr (fun p => { p with cyc := p.cyc.set d y }) s
  match x.cand with
  | none => put ⟨true, some v, none⟩ s
  | some c =>
    let further := if x.up then decide (c ≤ v) else decide (v ≤ c)
    if further then put { x with cand := some v } s
    else if 20 ≤ |v - c| then
      let s := match x.prev with | some p => countCycle d |c - p| s | none => s
      put ⟨!x.up, some v, some c⟩ s
    else s

/-! ### Samples (R361 to R363, R367) -/

/-- The largest and smallest of readings. -/
def maxI : List Int → Int
  | [] => 0
  | x :: r => r.foldl max x
def minI : List Int → Int
  | [] => 0
  | x :: r => r.foldl min x

/-- Warm load of CD_n after a sample: it starts below the warm floor and ends 5 °C above it (R367). -/
def warmCheck (n : Nat) (s : State) : State :=
  let m := sint 8 (getFi s pgThm Reg.THM_TJ_MIN n)
  let f : Int := s.pwr.warmFloor
  if (diePwr s n).warm && (decide (f + 5 ≤ m) || !s.pwr.warmEn) then warmStop n s
  else if s.pwr.warmEn && inService s n && ((diePwr s n).warm || decide (m < f)) then warmStart n s
  else s

/-- The readings of one die: CD_0 to CD_3 and HD (4). -/
def sampleDie (d t : Nat) (l : List Int) (s : State) : State :=
  if l = [] then s
  else
    let v := maxI l
    let s := setFi pgThm Reg.THM_TJ_MAX d (unsint 8 v) (setFi pgThm Reg.THM_TJ_MIN d (unsint 8 (minI l)) s)
    let s := if s.pwr.cycBoot then bootCycle d v s else s
    readTrip d 125 v (readSource d t v (cycleRead d v s))

/-- TJ_SAMPLE: junction readings of CD_0 to CD_3 and HD, and the 36 stage temperatures, in °C (R361, R362). -/
def execTjSample (readings : List (List Int)) (stages : List Int) (t : Nat) (s : State) : Host.Outcome State Fault Refusal :=
  .next (
    let s := at_ t s
    let l := readings.take 5
    let s := modPwr (fun p => { p with tj := (sumI l.flatten, l.flatten.length) }) s
    let s := l.zipIdx.foldl (fun s x => sampleDie x.2 t x.1 s) s
    let s := modPwr (fun p => { p with cycBoot := p.cycBoot && decide (l.length < 5) }) s
    let s := (List.range 4).foldl (fun s n =>
      let st := (stages.drop (8 * n)).take 8
      if st = [] then s else readSource (9 + n) t (maxI st) s) s
    (List.range 4).foldl (fun s n => warmCheck n s) s)

/-- STACK_TEMP_SAMPLE: the temperatures of MS_0 to MS_3 (R361 to R363). -/
def execStackTempSample (temps : List Int) (t : Nat) (s : State) : Host.Outcome State Fault Refusal :=
  .next (
    (temps.take 4).zipIdx.foldl (fun s x =>
      readTrip (5 + x.2) 105 x.1 (readSource (5 + x.2) t x.1 (setFi pgThm Reg.THM_MS_T x.2 (unsint 8 x.1) s))) (at_ t s))

/-! ### Coolant (R364 to R366) -/

/-- Are the three sensor addresses configured. -/
def coolReady (s : State) : Bool :=
  getF s pgThm Reg.THM_I3C_ADDR_IN ≠ 0 && getF s pgThm Reg.THM_I3C_ADDR_OUT ≠ 0 && getF s pgThm Reg.THM_I3C_ADDR_FLOW ≠ 0

/-- Inlet, outlet (1/128 °C) and flow (0.01 L/min) as last read. -/
def coolIn (s : State) : Int := sint 16 (getF s pgThm Reg.THM_COOL_T_IN)
def coolOut (s : State) : Int := sint 16 (getF s pgThm Reg.THM_COOL_T_OUT)
def coolFlow (s : State) : Nat := getF s pgThm Reg.THM_COOL_FLOW

/-- Since when a condition holds. -/
def sinceIf (c : Bool) (t : Nat) (o : Option Nat) : Option Nat := if c then some (o.getD t) else none

/-- Has a condition held for `ns`. -/
def heldFor (o : Option Nat) (t ns : Nat) : Bool := match o with | some u => decide (u + ns ≤ t) | none => false

/-- The first row of the coolant states that applies at time t. -/
def coolRow (s : State) (t : Nat) : Nat :=
  if s.pwr.fails.any (fun n => decide (3 ≤ n)) then 4
  else if heldFor s.pwr.flowAt t 1000000000 then 2
  else if heldFor s.pwr.riseAt t 1000000000 then 3
  else if 128 * (getF s pgThm Reg.THM_COOL_INLET_HI : Int) < coolIn s then 1
  else 0

/-- COOL_LIM of a coolant state, W. -/
def coolLim (s : State) (st : Nat) : Nat :=
  if st = 0 then 0xFFFF
  else if st = 1 then
    (roundOpen (650 * 128 - (coolIn s - 128 * getF s pgThm Reg.THM_COOL_INLET_HI) * getF s pgThm Reg.THM_COOL_DERATE_W) 128).toNat
  else 220

/-- Show a coolant state; entering one other than OK records 0x6A, a sensor failure also 0x6F. -/
def setCool (st : Nat) (s : State) : State :=
  let old := getF s pgThm Reg.THM_COOL_STATE
  let s := showLims (setF pgCap Reg.CAP_COOL_LIM (coolLim s st) (setF pgThm Reg.THM_COOL_STATE st s))
  if st = 0 ∨ st = old then s
  else
    let s := record pgThm 0x6A s
    if st = 4 then record pgThm 0x6F s else s

/-- CYC.CTL.RUN is set while an address is zero: SENSOR at once, with 0x6A where the state is entered and 0x6F (R365, R366). -/
def coolRunCheck (s : State) : State :=
  if coolReady s then s
  else
    let old := getF s pgThm Reg.THM_COOL_STATE
    let s := setF pgThm Reg.THM_COOL_STATE 4 s
    let s := showLims (setF pgCap Reg.CAP_COOL_LIM 220 (modPwr (fun p => { p with okAt := none }) s))
    record pgThm 0x6F (if old = 4 then s else record pgThm 0x6A s)

/-- The thermal resistance (R369): over intervals with at least 100 W, of the last 10 minutes. -/
def rthRead (t : Nat) (s : State) : State :=
  let p := getF s pgPmc Reg.PMC_P_DEV
  let n := s.pwr.tj.2
  if p < 1000 ∨ n = 0 then s
  else
    let v := (roundOpen ((s.pwr.tj.1 * 128 - coolIn s * n) * 10000) (128 * n * p)).toNat
    let l := (t, v) :: s.pwr.rth.filter (fun x => decide (t ≤ x.1 + 600000000000))
    let s := modPwr (fun q => { q with rth := l }) s
    let m := (roundOpen (sumOf (l.map (fun x => x.2))) l.length).toNat
    let s := setF pgThm Reg.THM_RTH m s
    if getF s pgThm Reg.THM_RTH_REF * getF s pgThm Reg.THM_RTHS_WARN < m * 100 then
      let s := setF pgThm Reg.THM_RTHS_FLEET 1 s
      if s.pwr.fleetRec then s else record pgThm 0x6B (modPwr (fun q => { q with fleetRec := true }) s)
    else s

/-- COOLANT_READ: one read of each sensor (R364, R365). A state other than OK goes to OK only after 10 s of readings that
meet OK; before the first reads there is no such hold (R366). -/
def execCoolantRead (r : TrayRead) (t : Nat) (s : State) : Host.Outcome State Fault Refusal :=
  .next (
    if coolReady s = false then s
    else
      let s := at_ t s
      let s := match r.tin with | some v => setF pgThm Reg.THM_COOL_T_IN (unsint 16 v) s | none => s
      let s := match r.tout with | some v => setF pgThm Reg.THM_COOL_T_OUT (unsint 16 v) s | none => s
      let s := match r.flow with | some v => setF pgThm Reg.THM_COOL_FLOW v s | none => s
      let bad : List Bool := [r.tin.isNone, r.tout.isNone, r.flow.isNone]
      let slow : Bool := match r.flow with | some v => decide (v < 10 * getF s pgThm Reg.THM_COOL_FLOW_MIN) | none => s.pwr.flowAt.isSome
      let rise : Bool := if r.tin.isSome && r.tout.isSome then
          decide (128 * (getF s pgThm Reg.THM_COOL_DT_MAX : Int) < coolOut s - coolIn s) else s.pwr.riseAt.isSome
      let s := modPwr (fun p => { p with
        fails := (List.range 3).map (fun i => if bad.getD i false then Nat.min 3 (nth0 p.fails i + 1) else 0),
        flowAt := sinceIf slow t p.flowAt,
        riseAt := sinceIf rise t p.riseAt }) s
      let row := coolRow s t
      let okNow : Bool := row = 0 && bad.all (!·) && !slow && !rise
      let s := modPwr (fun p => { p with okAt := sinceIf okNow t p.okAt }) s
      let first := !s.pwr.reading
      let old := getF s pgThm Reg.THM_COOL_STATE
      let s := modPwr (fun p => { p with reading := true }) s
      let s := if row ≠ 0 then setCool row s
        else if old = 0 ∨ heldFor s.pwr.okAt t 10000000000 then setCool 0 s
        else if first ∧ old ≠ 4 then setCool 0 s
        else setCool old s
      rthRead t s)

/-! ### Hourly commits (R368, R381) -/

/-- HOURLY_TIMER: the half-cycle counts and the wear counts enter the journal, and a fold is to start. -/
def execHourlyTimer (s : State) : Host.Outcome State Fault Refusal :=
  .next (
    let s := journal 6 0 (cyclesData s) (cyclesWords s) s
    let s := modPwr (fun p => { p with cycInc := List.replicate 20 0 }) s
    updLdg (wantFold (journal 7 0 [] [] s)))

/-! ### At a bar boundary (R348, R355, R356, R358, R359, R367) -/

/-- Is every die in service at its floor. -/
def allAtFloor (s : State) : Bool := (diesIn s).all (fun n => decide (opAct s n ≤ opFloor s n))

/-- Headroom for the coming bar, and the bar's marks start anew. -/
def headBoundary (n : Nat) (s : State) : State :=
  modDiePwr n (fun d => { d with head := d.headOk && !d.breach && s.pwr.powOk, headOk := true, breach := false, drooped := false }) s

/-- What a bar boundary does to power management: the envelope, the shift and the warm settings, CAP_OVER, the marks of the
bar, refused raises, and rails that are OUT. -/
def powerBoundary (s : State) : State :=
  let s := envBoundary s
  let s := modPwr (fun p => { p with
    shift := sint 16 (getF s pgCap Reg.CAP_SHIFT_W), warmEn := flag s pgThm Reg.THM_WARM_EN, warmFloor := getF s pgThm Reg.THM_WARM_FLOOR_C }) s
  let s := showLims s
  let s := if allAtFloor s ∧ aboveCap s 0 (nth0 s.pwr.means 2) 102 then
      record pgCap 0x66 (bump pgCap Reg.CAP_OVERS 1 s) else s
  let s := modPwr (fun p => { p with powOk := true }) ((List.range 4).foldl (fun s n => headBoundary n s) s)
  let again := s.pwr.retry
  let s := again.foldl (fun s e => journalKeep e.1 e.2.1 e.2.2.1 e.2.2.2 s) (modPwr (fun p => { p with retry := [] }) s)
  (List.range 4).foldl (fun s n => disableOut n s) s

end Sys2Proof.Machine
end

