-- ==== Sys2Proof/Machine/Boot.lean ====
section
/-! DEFINITION. Power-up, resets, the boot stages, boot images and the lifecycle (R423 to R439). -/

namespace Sys2Proof.Machine

open Sys2Proof

/-- Change the boot state beside its registers. -/
def modBoot (f : Boot → Boot) (s : State) : State := { s with boot := f s.boot }

/-- BOOT_STAT.STAGE: 0 SUPPLY, 1 ROM, 2 RECOVER, 3 CENSUS, 4 IMAGE, 5 HANDOFF. -/
def bootStage (s : State) : Nat := getF s pgHubId Reg.HUB_ID_BOOT_STAT_STAGE

/-- Show a stage. -/
def setStage (n : Nat) (s : State) : State := setF pgHubId Reg.HUB_ID_BOOT_STAT_STAGE n s

/-- Has boot stopped. -/
def bootStopped (s : State) : Bool := flag s pgHubId Reg.HUB_ID_BOOT_STAT_STOPPED

/-! ### Resets (R426, R427) -/

/-- A page's words return to their reset values, those of the part and its ledger excepted. -/
def resetWords (sel : Page → Bool) (s : State) : State :=
  s.regs.foldl (fun t e =>
    match pageOfAddr e.1 with
    | some (p, off) => if sel p then setW e.1 (resetKeep p off e.2) t else t
    | none => t) s

/-- RST_CAUSE names the source of the last reset: 1 PORST, 2 COLD_SW, 3 WARM_SW, 4 WDOG; KA_POR and TRIP stay. -/
def setCause (i : Nat) (s : State) : State :=
  let a := fieldAddr pgHubId Reg.HUB_ID_RST_CAUSE_KA_POR 0 0
  setW a (BitVec.ofNat 32 (putBits (putBits (regW s a).toNat 1 4 0) i 1 1)) s

/-- The words whose change is in no durable record: those of writes in progress or waiting, of the half-cycle counts, and
of queued entries when the queue itself is lost. -/
def lostWords (ka : Bool) (s : State) : List Nat :=
  let jobs := s.ldg.todo ++ s.ldg.busy.filterMap (fun w => w.map (fun x => x.job))
  let es := (if ka then s.ldg.queue else []) ++ jobs.flatMap (fun j => j.ents)
  es.flatMap (fun e => e.words.map (fun w => w.1)) ++ (cyclesWords s).map (fun w => w.1)

/-- A word whose part's own fields read what the ledger holds, the others their reset values. -/
def ledgerWord (p : Page) (off : Nat) (w : Word) : Word :=
  BitVec.ofNat 32 ((rowsAt p off).foldl
    (fun v x => putBits v x.1.lo x.1.w (if x.1.keep then bitsOf w.toNat x.1.lo x.1.w else fieldReset p x.1 x.2.1 x.2.2)) 0)

/-- They read what the ledger holds. -/
def restoreWords (l : List Nat) (s : State) : State :=
  l.foldl (fun t a =>
    match pageOfAddr a with
    | some (p, off) => setW a (ledgerWord p off (sparseGet resetWord s.ldg.base a)) t
    | none => t) s

/-- The words of ACCT that software writes and the ledger restores: K_* and V_REF. -/
def acctWords : List Nat :=
  fieldAddr pgAcct Reg.ACCT_V_REF 0 0 :: (List.range 4).map (fun k => fieldAddr pgAcct Reg.ACCT_K k 0)

/-- The words that the CALIB object gives: EFF, PMAX, HUB_W, RTH_REF, K_* and V_REF (R377). -/
def calibWords : List Nat :=
  acctWords ++ [fieldAddr pgPmc Reg.PMC_EFF 0 0, fieldAddr pgThm Reg.THM_RTH_REF 0 0, fieldAddr pgDvfs Reg.DVFS_HUB_W 0 0] ++
    (List.range 4).flatMap (fun n => (List.range 16).map (fun k => fieldAddr pgDvfs Reg.DVFS_PMAX n k))

/-- The bytes of a CENSUS object as this model lays them out: port, serial number, stepping and bin of each die found. -/
def censusBytes (l : List (Nat × Nat × Nat × Nat)) : List Byte :=
  l.flatMap (fun e => leBytes 1 e.1 ++ leBytes 8 e.2.1 ++ leBytes 1 e.2.2.1 ++ leBytes 1 e.2.2.2)

/-- The census that such bytes hold, at most `n` dies. -/
def censusParse : Nat → List Byte → List (Nat × Nat × Nat × Nat)
  | 0, _ => []
  | n + 1, l =>
    if l.length < 11 then []
    else (leNat (l.take 1), leNat ((l.drop 1).take 8), leNat ((l.drop 9).take 1), leNat ((l.drop 10).take 1)) ::
      censusParse n (l.drop 11)

/-- The census from a cold reset on: a committed CENSUS object that the service wrote, else the census as it was (R430). -/
def censusNow (s : State) : Option (List (Nat × Nat × Nat × Nat)) :=
  match committed s 0x10 0 with
  | some x => some (censusParse 8 x.data)
  | none => s.ldg.census

/-- The ledger over a cold reset: record writes end torn and commits are lost, unless a flush is in progress; entries in the
queue stay, but for the loss of VDD_KA (R380, R426). -/
def ldgCold (ka : Bool) (s : State) : Ldg :=
  if ldgState s = 3 ∧ ka = false then s.ldg
  else { s.ldg with
    queue := if ka then [] else s.ldg.queue, busy := [none, none], todo := [], fold := none, foldLeft := 0, foldWant := false
    lastJ := none, census := censusNow s }

/-- The lifecycle and keys that burnt fuses name take effect (R437). -/
def newLifecycle (s : State) : State :=
  match s.boot.burnt with
  | none => s
  | some k =>
    let s := if lcState s = 0 then setF pgSec Reg.SEC_KEYS_OWNER k.owners (setF pgSec Reg.SEC_KEYS_HYBRID (if k.hybrid then 1 else 0) s)
      else s
    setF pgSec Reg.SEC_LC_STATE k.target (setF pgSec Reg.SEC_LC_PENDING 0 s)

/-- What a reset puts out: cores return to reset, VALID pairs read invalid, SAFE_N_OUT is Hi-Z and reads low. -/
def resetOutputs (s : State) : State :=
  let run := getF s pgCore Reg.CORE_RUN
  let s := (bitsSet 8 run).foldl (fun s k => emit (.coreReset k) s) s
  let s := [0, 1].foldl (fun s i => if flag s (pgIsl i) Reg.ISL_STAT_VALID then emit (.valid i false) s else s) s
  if s.clap.safeOut then emit (.safeOut false) s else s

/-- What a cold reset leaves: everything at its reset value but the memories, the calibration, the ledger's queue and the
keep-alive domain (R426). -/
def coldState (porst ka : Bool) (s : State) : State :=
  let t := restoreWords (calibWords ++ lostWords ka s) (resetWords (fun _ => true) s)
  { State.reset with
    regs := t.regs, mem := s.mem, ldg := ldgCold ka s, pending := s.pending
    io := { s.io with resp := ⟨[], false, false⟩, latch := [], frozen := [] }
    hld := if ka then State.reset.hld else { s.hld with low := false, mark := none, pulses := 0 }
    lrn := { Lrn.fresh with gens := s.lrn.gens }
    clap := { Clap.fresh with safeIn := s.clap.safeIn }
    dlk := { Dlk.fresh with links := s.dlk.links.map (fun l => { DevLink.fresh with lanes := l.lanes }) }
    boot := { Boot.fresh with porst := porst, tapReset := s.boot.tapReset } }

/-- A cold reset (R426) by a source, with the level of PORST_N after it; `ka` for one in which the keep-alive domain is reset
too. Memory keeps its contents. -/
def coldReset (cause : Nat) (porst ka : Bool) (s : State) : State :=
  let s := newLifecycle (resetOutputs s)
  let why := (regW s (fieldAddr pgHubId Reg.HUB_ID_RST_CAUSE_KA_POR 0 0)).toNat
  let flush := ldgState s = 3 ∧ ka = false
  let t := coldState porst ka s
  let t := setW (fieldAddr pgHubId Reg.HUB_ID_RST_CAUSE_KA_POR 0 0) (BitVec.ofNat 32 (if ka then 1 else why)) t
  let t := if ka then t else setCause cause t
  showQueue (showLive (if flush then setF pgLdg Reg.LDG_STAT_STATE 3 t else t))

/-- The pages that a warm reset reaches (R426): the WLKD pages stay, as the W-links do. -/
def warmReaches : Page → Bool
  | .hub n => (2 ≤ n && n ≤ 4) || (8 ≤ n && n ≤ 0x1F) || (0x20 ≤ n && n ≤ 0x27) || (0x30 ≤ n && n ≤ 0x35)
  | .cd _ n => n ≠ 7
  | _ => false

/-- The PCIE DMA channels are reset. -/
def dmaReset (s : State) : State :=
  let s := (List.range 4).foldl (fun s d => (List.range 5).foldl (fun s k => setW (pageBase pgPcie + 0x100 + 0x20 * d + 4 * k) 0 s) s) s
  { s with mbx := { s.mbx with dmaBusy := [] } }

/-- What a warm reset leaves of the state beside the registers: the units of the hub and of the dies start again. -/
def warmState (s : State) : State :=
  let z := State.reset
  { s with
    cyc := z.cyc, seq := z.seq, dies := z.dies, parts := z.parts, acct := z.acct, tiles := z.tiles, fus := z.fus
    mbx := z.mbx, ing := z.ing, bw := z.bw, lrn := { Lrn.fresh with gens := s.lrn.gens }
    io := { s.io with
      latch := s.io.latch.filter (fun e => match pageOfAddr e.1 with | some (p, _) => !warmReaches p | none => true)
      frozen := s.io.frozen.filter (fun e => match pageOfAddr (e.1 % 2 ^ 32) with | some (p, _) => !warmReaches p | none => true) } }

/-- A warm reset (R426, R427): boot starts again at ROM. -/
def warmReset (cause : Nat) (s : State) : State :=
  let run := getF s pgCore Reg.CORE_RUN
  let s := (bitsSet 8 run).foldl (fun s k => emit (.coreReset k) s) s
  let s := resetWords warmReaches s
  let s := if warmReaches pgAcct then restoreWords acctWords s else s
  let s := warmState s
  let s := (List.range 4).foldl (fun s n => setF (pgCdId n) Reg.CD_ID_INDEX (getF s (pgWlkd n) Reg.WLKD_ID_INDEX) s) (dmaReset s)
  let s := modBoot (fun b => { b with census := false, image := none, wdog := decide (cause = 4) }) s
  setCause cause (setStage 1 (setF pgHubId Reg.HUB_ID_BOOT_STAT_STOPPED 0 (setF pgHubId Reg.HUB_ID_BOOT_STAT_DIE_SVC 0 s)))

/-- KA_POWER_ON (R426): VDD_KA rises with PORST_N low; the keep-alive domain is reset with everything else. -/
def execKaPowerOn (s : State) : Host.Outcome State Fault Refusal := .next (coldReset 0 false true s)

/-- PORST_FALL (R425): cold reset while PORST_N is low. -/
def execPorstFall (s : State) : Host.Outcome State Fault Refusal := .next (coldReset 1 false false s)

/-- A write of RST_CTL: only an application core's is taken; a host's also records 0x06 (R427). -/
def writeRstCtl (who : Agent) (v : Nat) (s : State) : State :=
  match who with
  | .core _ => if v = 0x52530001 then warmReset 3 s else if v = 0x52530002 then coldReset 2 s.boot.porst false s else s
  | .host => recordAt pgHubId 0x06 ((pageBase pgHubId + 0x4C) / 64) 0xFF s
  | _ => asMaster pgHubId 0x4C who (fun s => s) s

/-- RST_CTL_WARM (R427). -/
def execRstCtlWarm (by_ : Agent) (s : State) : Host.Outcome State Fault Refusal := .next (writeRstCtl by_ 0x52530001 s)

/-- RST_CTL_COLD (R426). -/
def execRstCtlCold (by_ : Agent) (s : State) : Host.Outcome State Fault Refusal := .next (writeRstCtl by_ 0x52530002 s)

/-- HUB_WATCHDOG_EXPIRE (R427): PERIOD ms since the last service. -/
def execHubWatchdogExpire (t : Nat) (s : State) : Host.Outcome State Fault Refusal :=
  .next (
    let s := at_ t s
    let p := getF s pgHubId Reg.HUB_ID_WDOG_PERIOD
    if p ≠ 0 ∧ s.boot.kickAt + p * 1000000 ≤ s.io.now then warmReset 4 s else s)

/-- The watchdog is serviced, or starts with a PERIOD that was zero. -/
def kickWdog (s : State) : State := modBoot (fun b => { b with kickAt := s.io.now }) s

/-- WDOG_KICK (R427). -/
def execWdogKick (by_ : Agent) (t : Nat) (s : State) : Host.Outcome State Fault Refusal := .next (asMaster pgHubId 0x54 by_ kickWdog (at_ t s))

/-- TAP_RESET (R426): the TAP alone. -/
def execTapReset (s : State) : Host.Outcome State Fault Refusal := .next (modBoot (fun b => { b with tapReset := true }) s)

/-- ISLAND_RESET_PIN (R426). -/
def execIslandResetPin (i : Nat) (s : State) : Host.Outcome State Fault Refusal := .next (if i < 2 then islandReset i s else s)

/-- PCIE_RESET (R426): in endpoint mode the link and the PCIE page are reset. -/
def execPcieReset (s : State) : Host.Outcome State Fault Refusal :=
  .next (
    if flag s pgPcie Reg.PCIE_STAT_ROOT then s
    else { resetPageFrom pgPcie 0 s with
      mbx := { s.mbx with dmaBusy := [] }, boot := { s.boot with msixTable := [] } })

/-! ### Power-up (R423, R424) -/

/-- PORST_RISE: the strap is sampled and the start sequence runs; ledger recovery begins. `lanes` are the lanes of each device link
that pass training (R399). -/
def execPorstRise (rp : Bool) (lanes : List Nat) (s : State) : Host.Outcome State Fault Refusal :=
  .next (
    if s.boot.porst then s
    else
      let s := modBoot (fun b => { b with porst := true, hubOut := false }) s
      let s := setF pgPcie Reg.PCIE_STAT_ROOT (if rp then 1 else 0) (setF pgHubId Reg.HUB_ID_STRAP_PCIE_RP (if rp then 1 else 0) s)
      let s := modDlk (fun d => { d with links := d.links.zipIdx.map (fun x => { x.1 with lanes := lanes.getD x.2 15 }) }) s
      if ldgState s = 4 then setF pgLdg Reg.LDG_STAT_STATE 0 s else s)

/-- Has rail r been soft-started. -/
def railUp (s : State) (r : Nat) : Bool := s.boot.started.getD r false

/-- May rail r be started now: PORST_N is high, VDD_HUB is not out, the rail is neither OUT nor up, and a compute rail waits for
VDD_HUB. -/
def railStarts (s : State) (r : Nat) : Bool :=
  r < 5 && s.boot.porst && !s.boot.hubOut && !railUp s r && (r = 4 || railUp s 4) && getF s (pgVrc r) Reg.VRC_STAT_STATE ≠ 3

/-- VDD_HUB that is OUT keeps the device in cold reset until the next fall and rise of PORST_N. -/
def hubStays (r : Nat) (s : State) : State :=
  if r = 4 ∧ getF s (pgVrc 4) Reg.VRC_STAT_STATE = 3 then modBoot (fun b => { b with hubOut := true }) s else s

/-- PHASE_TEST (R424): a phase that does not reach 0.30 V is open, one whose IMON leaves its range has lost its sense; both count as
open. The losses have the consequences of R344. -/
def execPhaseTest (r ph : Nat) (reached : Bool) (imon : Int) (sat : Bool) (s : State) : Host.Outcome State Fault Refusal :=
  .next (
    if railStarts s r ∧ ph < (if r = 4 then 4 else 8) ∧ (getF s (pgVrc r) Reg.VRC_STAT_GOOD).testBit ph then
      let before := (railPwr s r).lost.length
      if reached = false then hubStays r (lossState r before s.io.now (losePhase r (ph, 1) s))
      else if sat ∨ imon < -20 then hubStays r (lossState r before s.io.now (losePhase r (ph, 2) s))
      else s
    else s)

/-- SOFT_START_DONE (R423): VDD_HUB at its target releases the hub's reset, with its clocks locked, and boot enters ROM; a compute rail
releases its die's reset. -/
def execSoftStartDone (r : Nat) (s : State) : Host.Outcome State Fault Refusal :=
  .next (
    if railStarts s r then
      let p := pgVrc r
      let s := modBoot (fun b => { b with started := b.started.set r true }) s
      let s := setF p Reg.VRC_STAT_ACTIVE (getF s p Reg.VRC_STAT_GOOD) s
      if r = 4 then
        let s := setF p Reg.VRC_VSET 750 s
        let s := setF pgClk Reg.CLK_STAT_REF_OK 1 (setF pgClk Reg.CLK_STAT_HUB_LOCK 1 (setF pgClk Reg.CLK_STAT_CORE_LOCK 1 s))
        let s := emit (.safeOut true) (modClap (fun c => { c with safeOut := true }) s)
        setStage 1 s
      else
        let v := getFij s pgDvfs Reg.DVFS_VT_V_TEST r 0 + getFi s pgDvfs Reg.DVFS_AGE_OFFSET_MAX r
        setF p Reg.VRC_VSET v (setF pgClk Reg.CLK_STAT_CD_LOCK (putBits (getF s pgClk Reg.CLK_STAT_CD_LOCK) r 1 1) s)
    else s)

/-- SOFT_START_TIMEOUT (R424): the rail is OUT. -/
def execSoftStartTimeout (r : Nat) (s : State) : Host.Outcome State Fault Refusal :=
  .next (
    if railStarts s r then hubStays r (record (pgVrc r) 0x0F (setF (pgVrc r) Reg.VRC_STAT_STATE 3 s)) else s)

/-! ### Boot stages (R428 to R430) -/

/-- BOOT_ROM: the ledger key is derived and the secret locked, MEAS is cleared; the boot after a watchdog expiry records 0x1F. A cold
boot then waits for ledger recovery. -/
def execBootRom (s : State) : Host.Outcome State Fault Refusal :=
  .next (
    if bootStage s = 1 then
      let s := (List.range 12).foldl (fun s i => setFi pgSec Reg.SEC_MEAS i 0 s) (setF pgSec Reg.SEC_STAT_DUS_LOCKED 1 s)
      let s := if s.boot.wdog then record pgHubId 0x1F (modBoot (fun b => { b with wdog := false }) s) else s
      setStage (if ldgState s = 0 then 2 else 3) s
    else s)

/-- CD_n can serve: found at a link that is UP, with spares, with its rail, and with its stack (R429). -/
def dieFound (s : State) (n : Nat) : Bool :=
  (getF s pgWlk Reg.WLK_CENSUS_PRESENT).testBit n && portF s n Reg.PORT_P_STAT_STATE = 3 &&
    !flag s (pgSpare n) Reg.SPARE_STAT_EXHAUSTED && getF s (pgVrc n) Reg.VRC_STAT_STATE ≠ 3 && !stackFailed s n

/-- The slots of a die that enters service: engines in the map start the return sequence, good spares are tested, and bad ones
stay out. -/
def startSlots (n ok : Nat) (s : State) : State :=
  (List.range 18).foldl (fun s e =>
    if logicalOf s n e ≠ none then setF (pgPe n e) Reg.PE_ENG_STAT_STATE 1 s
    else if slotBad s n e then setF (pgPe n e) Reg.PE_ENG_STAT_STATE 7 s
    else if ok.testBit e then setF (pgPe n e) Reg.PE_ENG_STAT_STATE 6 s
    else markBad n e (setF (pgPe n e) Reg.PE_ENG_STAT_STATE 7 s)) s

/-- A die without a valid voltage table runs at V_test + OFFSET_MAX with no point retired, and the table is written back (R350). -/
def restoreTable (n : Nat) (s : State) : State :=
  let s := (List.range 16).foldl (fun s k =>
    setFij pgDvfs Reg.DVFS_VT_RETIRED n k 0 (setFij pgDvfs Reg.DVFS_VT_OFFSET n k (getFi s pgDvfs Reg.DVFS_AGE_OFFSET_MAX n) s)) s
  let s := record pgDvfs 0x6E (setFi pgDvfs Reg.DVFS_OPC_TOP n 15 s)
  let a := fieldAddr pgDvfs Reg.DVFS_OPC_TOP n 0
  let e : LdgEntry := ⟨3, n, 1, devTime s, barCount s % 2 ^ 32, pad44 [], (a, regW s a) :: vtWords s n 0⟩
  if mayWrite s then commit ⟨0x14, n, 0, [], [e], none, .other⟩ s else record pgLdg 0x70 s

/-- A stack that cannot be trained has failed (R283). -/
def stackDead (n : Nat) (s : State) : State := record (pgMsc n) 0x08 (setF (pgMsc n) Reg.MSC_STAT_FAILED 1 s)

/-- CD_n at the census: in service, or 0x03. -/
def censusDie (sparesOk : List Nat) (s : State) (n : Nat) : State :=
  if dieFound s n then
    let s := setF (pgCdId n) Reg.CD_ID_SVC 1 s
    startSlots n (nth0 sparesOk n)
      (setF pgHubId Reg.HUB_ID_BOOT_STAT_DIE_SVC (putBits (getF s pgHubId Reg.HUB_ID_BOOT_STAT_DIE_SVC) n 1 1) s)
  else record pgHubId 0x03 s

/-- Island i at the census: reachable, or 0x03. -/
def censusIsland (s : State) (i : Nat) : State :=
  let ok := (getF s pgWlk Reg.WLK_CENSUS_PRESENT).testBit (4 + i) && portF s (4 + i) Reg.PORT_P_STAT_STATE = 3
  let r := if i = 0 then Reg.HUB_ID_BOOT_STAT_SI_A else Reg.HUB_ID_BOOT_STAT_SI_B
  if ok then setF pgHubId r 1 s else record pgHubId 0x03 (setF pgHubId r 0 s)

/-- CENSUS_STAGE (R428, R429): once discovery has ended, with what the stage found: the stacks that train, the slots of each die
that pass their test, and the dies whose voltage table holds. Boot stops where the ledger is unusable outside BLANK and
RETURNED. -/
def execCensusStage (stacksOk : Nat) (sparesOk : List Nat) (vtOk : Nat) (s : State) : Host.Outcome State Fault Refusal :=
  .next (
    if (bootStage s = 3 ∨ bootStage s = 4) ∧ s.boot.census = false ∧ bootStopped s = false ∧ flag s pgWlk Reg.WLK_CENSUS_DONE then
      if ldgState s = 5 ∧ lcState s ≠ 0 ∧ lcState s ≠ 3 then bootStop 3 s
      else
        let s := (List.range 4).foldl (fun s n => if stacksOk.testBit n then s else stackDead n s) s
        let s := (List.range 4).foldl (fun s n => if vtOk.testBit n then s else restoreTable n s) s
        let s := (List.range 4).foldl (censusDie sparesOk) s
        let s := [0, 1].foldl censusIsland s
        setStage 4 (modBoot (fun b => { b with census := true }) s)
    else s)

/-! ### Boot images (R431 to R433) -/

/-- Does the lifecycle permit the key slot that an image names: the vendor key in BLANK and RETURNED, else a provisioned owner slot
that is not revoked (R432, R436). -/
def keyPermitted (s : State) (k : Nat) : Bool :=
  if lcState s = 0 || lcState s = 3 then k = 0xFF
  else k < 4 && (getF s pgSec Reg.SEC_KEYS_OWNER).testBit k && !(getF s pgSec Reg.SEC_KEYS_REVOKED).testBit k

/-- The verdict on a hub image (R432): 0, or the code that its refusal records. -/
def verifyImage (s : State) : Option Image → Nat
  | none => 0x01
  | some i =>
    let pqc := flag s pgSec Reg.SEC_KEYS_HYBRID || i.flags.testBit 0
    if i.magic = 0x4C4B4931 ∧ i.kind = 1 ∧ 0x100000 ≤ i.len ∧ i.len ≤ 0x1800000 ∧ keyPermitted s i.key ∧ i.keyHashOk ∧ i.ecdsaOk ∧
        (pqc = false ∨ i.mldsaOk) ∧ i.bodyHashOk then
      (if bootSvn s ≤ i.svn then 0 else 0x02)
    else 0x01

/-- The bytes of MEAS. -/
def measBytes (s : State) : List Byte := (List.range 12).flatMap (fun i => leBytes 4 (getFi s pgSec Reg.SEC_MEAS i))

/-- An accepted image is loaded and measured, and becomes the running one. -/
def loadImage (slot : Nat) (fallback : Bool) (i : Image) (s : State) : State :=
  let a := 0x04000000 + i.load * 64
  let s := if a + i.body.length ≤ 0x06000000 then memWrite a i.body s else s
  let h := Config.sha384 (measBytes s ++ i.signed.take 192)
  let s := (List.range 12).foldl (fun s k => setFi pgSec Reg.SEC_MEAS k (h.getD k 0).toNat s) s
  let pqc := flag s pgSec Reg.SEC_KEYS_HYBRID || i.flags.testBit 0
  let s := setF pgSec Reg.SEC_IMG_SVN i.svn (setF pgSec Reg.SEC_IMG_KEY (if i.key = 0xFF then 7 else i.key)
    (setF pgSec Reg.SEC_IMG_MLDSA (if pqc then 1 else 0) s))
  let s := setF pgHubId Reg.HUB_ID_BOOT_STAT_SLOT slot (setF pgHubId Reg.HUB_ID_BOOT_STAT_FALLBACK (if fallback then 1 else 0) s)
  modBoot (fun b => { b with image := some (a + i.entry, if i.flags.testBit 1 then some (i.flags / 4 % 4) else none) }) s

/-- The slot to boot by BOOT, with the commits that a trial takes (R396, R433). -/
def chooseSlot (slots : List (Option Image)) (s : State) : Nat × State :=
  let act := bootActive s
  let tries := getF s pgLdg Reg.LDG_BOOT_TRIES
  if !flag s pgLdg Reg.LDG_BOOT_TRIAL then (act, s)
  else if getF s pgLdg Reg.LDG_BOOT_TRIAL_MAX ≤ tries then (act, record pgLdg 0x7E (commitBoot act 0 tries (bootSvn s) s))
  else if !mayWrite s then (act, refused70 s)
  else
    let s := commitBoot act 1 (tries + 1) (bootSvn s) s
    let c := verifyImage s (slots.getD (1 - act) none)
    if c = 0 then (1 - act, s) else (act, commitBoot act 0 (tries + 1) (bootSvn s) (record pgSec c s))

/-- A slot's image loaded, if it is accepted. -/
def tryImage (slot : Nat) (fallback : Bool) (o : Option Image) (s : State) : Option State :=
  match o with
  | some i => if verifyImage s o = 0 then some (loadImage slot fallback i s) else none
  | none => none

/-- IMAGE_LOAD (R433): the chosen slot, else the other; with both refused boot stops. -/
def execImageLoad (slots : List (Option Image)) (s : State) : Host.Outcome State Fault Refusal :=
  .next (
    if (bootStage s = 3 ∨ bootStage s = 4) ∧ s.boot.image = none ∧ bootStopped s = false then
      let x := chooseSlot slots s
      let mine := slots.getD x.1 none
      let other := slots.getD (1 - x.1) none
      match tryImage x.1 false mine x.2 with
      | some u => u
      | none =>
        let s := record pgSec (verifyImage x.2 mine) x.2
        match tryImage (1 - x.1) true other s with
        | some u => u
        | none => bootStop 4 (record pgSec (verifyImage s other) s)
    else s)

/-- HANDOFF (R428): core 0 enters the image with its envelope, Standard unless it names another (R6); the watchdog is disabled. -/
def execHandoff (ms : Nat) (s : State) : Host.Outcome State Fault Refusal :=
  .next (
    match s.boot.image with
    | some (a, e) =>
      if s.boot.census ∧ bootStopped s = false ∧ bootStage s = 4 then
        let s := showLims (setF pgCap Reg.CAP_STAT_ENV (match e with | some n => if n < 3 then n else 1 | none => 1) s)
        let s := setF pgHubId Reg.HUB_ID_BOOT_MS ms (setF pgHubId Reg.HUB_ID_WDOG_PERIOD 0 (setStage 5 s))
        emit (.coreRelease 0 a) (setF pgCore Reg.CORE_RUN 1 s)
      else s
    | none => s)

/-! ### Lifecycle and keys (R436 to R438) -/

/-- Do a token's signers allow the transition (R437): the vendor key leaves BLANK, an owner key enters PRODUCTION from DEVELOP, an
owner key and then the vendor key enter RETURNED. -/
def lcAllowed (old new : Nat) (k : LcToken) : Bool :=
  if old = 0 then (new = 1 || new = 2) && k.vendorSig
  else if old = 1 && new = 2 then k.ownerSig
  else if (old = 1 || old = 2) && new = 3 then k.ownerSig && k.vendorSig && k.ownerFirst
  else false

/-- The ledger zeroes the checkpoint pool and every FWOBJ before RETURNED is burnt. -/
def zeroLearned (s : State) : State :=
  { s with
    ldg := { s.ldg with recs := s.ldg.recs.map (fun e =>
      if e.2.typ = 3 ∨ e.2.typ = 0x20 then (e.1, { e.2 with data := List.replicate e.2.data.length 0 }) else e) }
    lrn := { s.lrn with gens := List.replicate 8 (none, none) } }

/-- LC_REQ.GO with a token (R437): burning starts, or 0x0E. -/
def lcRequest (k : LcToken) (s : State) : State :=
  if s.boot.burn = none ∧ flag s pgSec Reg.SEC_LC_PENDING = false ∧ k.serial = hubSerial s ∧
      k.target = getF s pgSec Reg.SEC_LC_REQ_TARGET ∧ lcAllowed (lcState s) k.target k then
    modBoot (fun b => { b with burn := some k }) (if k.target = 3 then zeroLearned s else s)
  else record pgSec 0x0E s

/-- LC_REQUEST (R437). -/
def execLcRequest (by_ : Agent) (tok : LcToken) (s : State) : Host.Outcome State Fault Refusal := .next (asGuarded pgSec 0x4C by_ (lcRequest tok) s)

/-- LC_BURN_DONE (R437): the fuses are burnt; the new state takes effect at the next cold reset. -/
def execLcBurnDone (s : State) : Host.Outcome State Fault Refusal :=
  .next (
    match s.boot.burn with
    | some k => setF pgSec Reg.SEC_LC_PENDING 1 (modBoot (fun b => { b with burn := none, burnt := some k }) s)
    | none => s)

/-- Revocation of owner slot k, or 0x0E (R438). -/
def revokeKey (k : Nat) (s : State) : State :=
  let left := (bitsSet 4 (getF s pgSec Reg.SEC_KEYS_OWNER)).filter (fun j => j ≠ k && !(getF s pgSec Reg.SEC_KEYS_REVOKED).testBit j)
  if (lcState s = 1 ∨ lcState s = 2) ∧ getF s pgSec Reg.SEC_IMG_KEY ≠ k ∧ left ≠ [] ∧ flag s pgHubId Reg.HUB_ID_BOOT_STAT_SI_A ∧
      flag s pgHubId Reg.HUB_ID_BOOT_STAT_SI_B then
    setF pgSec Reg.SEC_KEYS_REVOKED (putBits (getF s pgSec Reg.SEC_KEYS_REVOKED) k 1 1)
      (setF pgSec Reg.SEC_REVOKE (putBits (getF s pgSec Reg.SEC_REVOKE) k 1 1) s)
  else record pgSec 0x0E s

/-- A write of SEC.REVOKE. -/
def writeRevoke (mask : Nat) (s : State) : State := (bitsSet 4 mask).foldl (fun s k => revokeKey k s) s

/-- KEY_REVOKE (R438). -/
def execKeyRevoke (by_ : Agent) (mask : Nat) (s : State) : Host.Outcome State Fault Refusal := .next (asGuarded pgSec 0x50 by_ (writeRevoke mask) s)

end Sys2Proof.Machine
end

