-- ==== Sys2Proof/Machine/Fusion.lean ====
section
/-! DEFINITION. The fusion job's stages up to the grid (R195 to R199, R241 to R255): post-processing, alignment, ego-motion,
projection and lifting. -/

namespace Sys2Proof.Machine

open Sys2Proof

/-! ### The job in progress -/

/-- Change the fusion unit beside its registers. -/
def modFus (f : Fus → Fus) (s : State) : State := { s with fus := f s.fus }

/-- Change the job in progress. -/
def modJob (f : FusJob → FusJob) (s : State) : State := modFus (fun x => { x with job := x.job.map f }) s

/-- The job whose next stage is `b`, not waiting. -/
def jobAt (s : State) (b : Nat) : Option FusJob :=
  match s.fus.job with
  | some j => if j.left.head? = some b ∧ j.waiting = false then some j else none
  | none => none

/-- The next stage ends. -/
def stageEnds (s : State) : State := modJob (fun j => { j with left := j.left.drop 1, waiting := false }) s

/-- Show the PPU's state: busy while a job stands in its first stage, and the job of the list. -/
def showPpu (s : State) : State :=
  match s.fus.job with
  | some j =>
    setF pgPpu Reg.PPU_STAT_BUSY (if j.left.head? = some 0 then 1 else 0) (setF pgPpu Reg.PPU_STAT_JOB j.ppuDone s)
  | none => setF pgPpu Reg.PPU_STAT_BUSY 0 s

/-- The job fails at an access: the code is recorded in its stage's page, or is a partition fault, and the stroke fails; the
persistent state stays (R244). -/
def failJob (pg : Page) (code a : Nat) (j : FusJob) (s : State) : State :=
  let s := if code = 0x0A then windowFault j.part a s else recordAt pg code (a / 64) j.part s
  let s := modFus (fun x => { x with job := match x.job with
    | some y => if y.stroke = j.stroke ∧ y.bar = j.bar then none else some y
    | none => none }) s
  showPpu (tryFuse 64 (finish j.stroke j.bar (failRun j.stroke j.bar s)))

/-- Perform a stage whose accesses pass, charged to the job's partition as master 17; else the job fails. -/
def withAccs (pg : Page) (j : FusJob) (accs : List MemAcc) (k : State → State) (s : State) : State :=
  match accs.findSome? (accRefused s 0 j.part) with
  | some (c, a) => failJob pg c a j s
  | none => k (chargeAccs 17 j.part 0 accs s)

/-- Store bytes of the job at a device address. -/
def jobStore (j : FusJob) (a : Nat) (b : List Byte) (s : State) : State := (storeDev a b j.part s).2

/-- An FP32 word in memory. -/
def memF (s : State) (a : Nat) : Word := BitVec.ofNat 32 (memNat s a 4)

/-- The four bytes of a word. -/
def wBytes (w : Word) : List Byte := leBytes 4 w.toNat

/-- The two bytes of an FP32 value rounded to BF16. -/
def hBytes (w : Word) : List Byte := leBytes 2 (f32ToBf16 w)

/-! ### The post-processing unit (R196 to R199) -/

/-- A candidate: its score, class, cell and anchor, and the decoded values in the order of the detection record: X, Y, Z, D0,
D1, D2, YAW, VX, VY. -/
structure Cand where
  score : Word
  cls : Nat
  cell : Nat
  anch : Nat
  vals : List Word
deriving DecidableEq, Repr

/-- A value of a candidate. -/
def Cand.val (c : Cand) (i : Nat) : Word := c.vals.getD i 0

/-- Value of a head channel at cell (i, j), times its scale for INT8. -/
def headVal (s : State) (p : Nat) (raw : List Byte) (i j c : Nat) : Word :=
  let t := ppuHead raw
  let v := elemVal t.fmt (tensorCode s ⟨0, 0, p⟩ t i j c)
  if t.fmt = 0 then toF32 (mulN v (f32 (memF s (dF raw 0x0C 0 32 * 64 + 4 * c)))) else toF32 v

/-- Index of the largest of the logits, the lowest on equal ones. -/
def bestClass (l : List Word) : Nat :=
  ((l.zipIdx.foldl (fun (b : Nat × Word) x => if ltF b.2 x.1 then (x.2, x.1) else b) (0, l.headD 0))).1

/-- One half as FP32. -/
def halfF : Word := 0x3F000000

/-- What cell (i, j) and anchor `a` decode to. -/
def decodeCell (s : State) (p : Nat) (raw : List Byte) (i j a : Nat) : Cand :=
  let n := ppuCls raw
  let cell := BitVec.ofNat 32 (dF raw 0x20 0 32)
  let grid : Bool := dF raw 0 0 2 = 0
  let base := if grid then 0 else a * (4 + n)
  let ch := fun c => headVal s p raw i j (base + c)
  let logits := (List.range n).map (fun c => if grid then ch c else ch (4 + c))
  let cls := bestClass logits
  let pos := fun (k : Nat) (d : Word) => mulF (addF (addF (ofIntF k) halfF) d) cell
  let vals :=
    if grid then
      let g := fun k => ch (n + k)
      [addF (BitVec.ofNat 32 (dF raw 0x18 0 32)) (pos j (g 0)), addF (BitVec.ofNat 32 (dF raw 0x1C 0 32)) (pos i (g 1)), g 2,
       Config.expF (g 3), Config.expF (g 4), Config.expF (g 5), Config.atan2F (g 6) (g 7), g 8, g 9]
    else
      let an := dF raw 0x28 0 32 * 64 + 8 * a
      [pos j (ch 0), pos i (ch 1), 0, mulF (memF s an) (Config.expF (ch 2)), mulF (memF s (an + 4)) (Config.expF (ch 3)),
       0, 0, 0, 0]
  ⟨Config.sigmoidF (logits.getD cls 0), cls, i * ppuW raw + j, a, vals⟩

/-- Rank order (R197). -/
def candBefore (a b : Cand) : Bool :=
  if ltF b.score a.score then true else if ltF a.score b.score then false
  else if a.cls ≠ b.cls then a.cls < b.cls
  else if a.cell ≠ b.cell then a.cell < b.cell
  else a.anch ≤ b.anch

/-- Do two candidates overlap (R198). -/
def overlaps (raw : List Byte) (a b : Cand) : Bool :=
  let ovl := bf16ToF32 (dF raw 0x14 16 16)
  if dF raw 0 0 2 = 0 then
    let dx := subF (a.val 0) (b.val 0)
    let dy := subF (a.val 1) (b.val 1)
    leF (addF (mulF dx dx) (mulF dy dy)) (mulF ovl ovl)
  else
    let lo := fun (c : Cand) (k : Nat) => subF (c.val k) (mulF halfF (c.val (3 + k)))
    let hi := fun (c : Cand) (k : Nat) => addF (c.val k) (mulF halfF (c.val (3 + k)))
    let minF := fun x y => if ltF y x then y else x
    let side := fun k => maxF 0 (subF (minF (hi a k) (hi b k)) (maxF (lo a k) (lo b k)))
    let inter := mulF (side 0) (side 1)
    let area := fun (c : Cand) => mulF (c.val 3) (c.val 4)
    let union := subF (addF (area a) (area b)) inter
    ltF (mulF ovl union) inter

/-- The walk of R198 over ranked candidates with room for `n` more: the kept ones, and whether the walk stopped. -/
def suppress (raw : List Byte) : Nat → List Cand → List Cand → List Cand × Bool
  | _, kept, [] => (kept, false)
  | n, kept, c :: r =>
    if n = 0 then (kept, true)
    else if kept.any (fun k => (k.cls = c.cls || dF raw 0 17 1 = 1) && overlaps raw c k) then suppress raw n kept r
    else suppress raw (n - 1) (kept ++ [c]) r

/-- A detection record (R199). -/
def detRecord (c : Cand) : List Byte :=
  wBytes (c.val 0) ++ wBytes (c.val 1) ++ ((List.range 7).flatMap (fun k => hBytes (c.val (2 + k)))) ++ hBytes c.score ++
  leBytes 1 (c.cls + 16 * c.anch) ++ [0, 0, 0] ++ leBytes 4 c.cell

/-- The header of a detection list (R199). -/
def detHeader (s : State) (kept cand : Nat) (capped trunc : Bool) : List Byte :=
  leBytes 2 kept ++ [0, 0] ++ leBytes 4 cand ++ leBytes 1 ((if capped then 1 else 0) + (if trunc then 2 else 0) + 4) ++
  List.replicate 7 0 ++ leBytes 4 (barCount s % 2 ^ 32) ++ leBytes 2 (curTick s) ++ List.replicate 42 0

/-- What a PPU job finds: the kept candidates, all that passed, the ones not finite, CAPPED and TRUNCATED. -/
structure PpuOut where
  kept : List Cand
  cand : Nat
  nonfin : Nat
  capped : Bool
  trunc : Bool

/-- Run a PPU job. -/
def runPpu (s : State) (p : Nat) (raw : List Byte) : PpuOut :=
  let thr := bf16ToF32 (dF raw 0x14 0 16)
  let all := (List.range (ppuH raw)).flatMap (fun i => (List.range (ppuW raw)).flatMap (fun j =>
    (List.range (ppuAnch raw)).map (fun a => decodeCell s p raw i j a)))
  let pass := all.filter (fun c => leF thr c.score)
  let good := pass.filter (fun c => c.vals.all finF)
  let ranked := good.insertionSort (fun a b => candBefore a b = true)
  let cap := dF raw 0x24 16 14
  let w := suppress raw (dF raw 0x24 0 12) [] (ranked.take cap)
  ⟨w.1, good.length, pass.length - good.length, decide (cap < good.length), w.2 || w.1.length = dF raw 0x24 0 12⟩

/-- One PPU job of the list of job `j`. -/
def ppuStep (j : FusJob) (s : State) : State :=
  let a := fjPpuList j.raw * 64 + 64 * j.ppuDone
  let raw := memBytes s a 64
  let o := runPpu s j.part raw
  let out := dF raw 0x10 0 32 * 64
  let bytes := detHeader s o.kept.length o.cand o.capped o.trunc ++ o.kept.flatMap detRecord
  let accs := ⟨false, 0, a, 64⟩ :: (ppuAccs raw).map (fun x => if x.wr then { x with len := bytes.length } else x)
  match accs.findSome? (accRefused s 0 j.part) with
  | some (c, x) => failJob pgPpu c x j (bump pgPpu Reg.PPU_FAILED 1 s)
  | none =>
    let s := jobStore j out bytes (chargeAccs 17 j.part 0 accs s)
    let s := setF pgPpu Reg.PPU_LAST_CAND (Nat.min 65535 o.cand) (setF pgPpu Reg.PPU_LAST_KEPT o.kept.length s)
    let s := bump pgPpu Reg.PPU_JOBS 1 (bump pgPpu Reg.PPU_NONFINITE o.nonfin s)
    let s := if o.capped then bump pgPpu Reg.PPU_CAPPED 1 s else s
    let s := if o.trunc then bump pgPpu Reg.PPU_TRUNC 1 s else s
    let s := modJob (fun j => { j with ppuDone := j.ppuDone + 1 }) s
    showPpu (if dF raw 0 18 1 = 1 ∨ 63 ≤ j.ppuDone then stageEnds s else s)

/-- PPU_JOB (R195): the next job of the list runs. -/
def execPpuJob (s : State) : Host.Outcome State Fault Refusal :=
  .next (match jobAt s 0 with | some j => ppuStep j s | none => s)

/-! ### Alignment (R245 to R249) -/

/-- A difference in ns as FP32 seconds, one rounding (R245). -/
def secF (n : Int) : Word := ratF n 1000000000

/-- A field of alignment slot k. -/
def slotF (s : State) (k : Nat) (r : Row) : Nat := getFi s pgAln r k

/-- The stream of a slot. -/
def slotStream (s : State) (k : Nat) : Nat := slotF s k Reg.ALN_SLOT_STREAM

/-- `n` packet records from address `a` on: SOURCE, FLAGS and payload. -/
def readRecords (s : State) : Nat → Nat → List (Int × Nat × List Byte)
  | 0, _ => []
  | n + 1, a =>
    let len := memNat s (a + 16) 2
    (sint 64 (memNat s (a + 8) 8), memNat s (a + 18) 2, memBytes s (a + 32) len) ::
      readRecords s n (a + ceilDiv (32 + len) 64 * 64)

/-- The records of this bar of a packet stream with SRC_VALID set: source time and payload. -/
def validRecords (s : State) (sm : Nat) : List (Int × List Byte) :=
  if strmKind s sm = 2 then
    ((readRecords s (strmOf s sm).recs (strmF s sm Reg.ING_BUF_BASE * 64)).filter (fun x => x.2.1.testBit 0)).map
      (fun x => (x.1, x.2.2))
  else []

/-- The FP32 words of a payload from offset `o` on. -/
def wordsAt (l : List Byte) (o n : Nat) : List Word :=
  (List.range n).map (fun i => BitVec.ofNat 32 (leNat ((l.drop (o + 4 * i)).take 4)))

/-- Put a sample in time order; one of an equal time is replaced. -/
def putSample (l : List (Int × List Word)) (x : Int × List Word) : List (Int × List Word) :=
  l.filter (fun y => y.1 < x.1) ++ x :: l.filter (fun y => x.1 < y.1)

/-- The samples of a STATE slot, in time order: those kept and those of this bar. A record too short for them has none. -/
def slotSamples (s : State) (k : Nat) : List (Int × List Word) :=
  let n := slotF s k Reg.ALN_SLOT_NCH + 1
  let o := slotF s k Reg.ALN_SLOT_PAY_OFF
  let mine := (validRecords s (slotStream s k)).filterMap (fun x =>
    if o + 4 * n ≤ x.2.length then some (x.1, wordsAt x.2 o n) else none)
  mine.foldl putSample (s.fus.samples.getD k [])

/-- The value of a STATE slot at t_c and its flags VALID, EXTRAP, HELD (R246). -/
def stateAt (s : State) (tc : Int) (k : Nat) : List Word × Nat :=
  let l := slotSamples s k
  let before := l.filter (fun x => x.1 ≤ tc)
  let ext : Int := getF s pgAln Reg.ALN_EXT_MAX * 1000
  let zero := List.replicate (slotF s k Reg.ALN_SLOT_NCH + 1) (0 : Word)
  let mix := fun (va vb : List Word) (n d : Int) => List.zipWith (fun x y => divF (mulF y (secF n)) (secF d) |> addF x) va vb
  let diff := fun (x y : List Word) => List.zipWith subF x y
  match before.getLast?, l.find? (fun x => tc < x.1) with
  | some a, some b => (mix a.2 (diff b.2 a.2) (tc - a.1) (b.1 - a.1), 1)
  | some a, none =>
    if tc - a.1 ≤ ext then
      match before.dropLast.getLast? with
      | some p => (mix a.2 (diff a.2 p.2) (tc - a.1) (a.1 - p.1), 3)
      | none => (a.2, 5)
    else (zero, 0)
  | none, some b => if b.1 - tc ≤ ext then (b.2, 5) else (zero, 0)
  | none, none => (zero, 0)

/-- Is a slot complete (R248). -/
def slotComplete (s : State) (tc : Int) (k : Nat) : Bool :=
  if slotF s k Reg.ALN_SLOT_KIND = 1 then (slotSamples s k).any (fun x => tc < x.1)
  else
    let pos := getF s (pgIng (slotStream s k)) Reg.ING_STAT_POS
    pos ≠ 0xFFFF && decide (slotF s k Reg.ALN_SLOT_NEED ≤ pos)

/-- The slots that a job aligns. -/
def jobSlots (j : FusJob) : List Nat := bitsSet 16 (dF j.raw 8 0 16)

/-- The slots that it waits for and that are not complete. -/
def lateSlots (s : State) (j : FusJob) : List Nat :=
  (jobSlots j).filter (fun k => slotF s k Reg.ALN_SLOT_WAIT = 1 && !slotComplete s j.tc k)

/-- Does the wait end: nothing is late, or WAIT_TICK has begun. -/
def waitOver (s : State) (j : FusJob) : Bool :=
  lateSlots s j = [] || decide (j.bar < barCount s) || decide (dF j.raw 0 16 16 ≤ curTick s)

/-- A 3 × 4 matrix on page PRJ times (x, y, z, 1), row `r`, left to right (log entry 33). -/
def matRow (s : State) (base r : Nat) (x y z : Word) : Word :=
  let m := fun c => regW s (base + 4 * (4 * r + c))
  addF (addF (addF (mulF (m 0) x) (mulF (m 1) y)) (mulF (m 2) z)) (m 3)

/-- An aligned point: x, y, z, intensity, slot. -/
structure Pt where
  x : Word
  y : Word
  z : Word
  inten : Nat
  slot : Nat
deriving DecidableEq, Repr

/-- The points of one record (R247): its aligned points, and the number dropped by the deskew limit. -/
def deskew (s : State) (j : FusJob) (k : Nat) (src : Int) (pay : List Byte) : List Pt × Nat :=
  let o := slotF s k Reg.ALN_SLOT_PAY_OFF
  let sc := BitVec.ofNat 32 (slotF s k Reg.ALN_SLOT_PSCALE)
  let fr := fieldAddr pgPrj Reg.PRJ_F (slotF s k Reg.ALN_SLOT_FRAME) 0
  let v := fun i => j.work.motion.getD i 0
  let mx := ratF (getF s pgAln Reg.ALN_DESKEW_MAX) 1000000
  let pts := (List.range ((pay.length - o) / 16)).map (fun i => (pay.drop (o + 16 * i)).take 16)
  (pts.filter (fun b => ((b.getD 7 0).toNat % 2 = 0))).foldl (fun (a : List Pt × Nat) b =>
    let c := fun i => mulF sc (ofIntF (sint 16 (leNat ((b.drop (2 * i)).take 2))))
    let d := secF (j.tc - (src + leNat ((b.drop 8).take 4)))
    if ltF mx (absF d) then (a.1, a.2 + 1)
    else
      let q := fun r => matRow s fr r (c 0) (c 1) (c 2)
      let ph := mulF (v 5) d
      let x := subF (q 0) (mulF (v 3) d)
      let y := subF (q 1) (mulF (v 4) d)
      let cs := Config.cosF ph
      let sn := Config.sinF ph
      (a.1 ++ [⟨addF (mulF cs x) (mulF sn y), addF (mulF (negF sn) x) (mulF cs y), q 2, (b.getD 6 0).toNat, k⟩], a.2))
    ([], 0)

/-- All aligned points of a job, by slot, record and point, and the number dropped. -/
def alignPoints (s : State) (j : FusJob) : List Pt × Nat :=
  ((jobSlots j).filter (fun k => slotF s k Reg.ALN_SLOT_KIND = 0)).foldl (fun (a : List Pt × Nat) k =>
    (validRecords s (slotStream s k)).foldl (fun (a : List Pt × Nat) x =>
      let r := deskew s j k x.1 x.2
      (a.1 ++ r.1, a.2 + r.2)) a) ([], 0)

/-- The reads of the streams that a job's slots bind. -/
def slotReads (s : State) (j : FusJob) : List MemAcc :=
  (jobSlots j).map (fun k =>
    let sm := slotStream s k
    ⟨false, 0, strmF s sm Reg.ING_BUF_BASE * 64, (strmOf s sm).off⟩)

/-- A mask of slots. -/
def maskOf (l : List Nat) : Nat := l.foldl (fun v k => v + 2 ^ k) 0

/-- The state block of slot k (R249): eight words, then flags; zero for a slot that is not a STATE slot of the job. -/
def stateBlock (s : State) (j : FusJob) (late : List Nat) (k : Nat) : List Byte × Nat :=
  if (jobSlots j).contains k && slotF s k Reg.ALN_SLOT_KIND = 1 then
    let v := stateAt s j.tc k
    let f := v.2 + (if late.contains k then 8 else 0)
    (((v.1 ++ List.replicate 8 0).take 8).flatMap wBytes ++ leBytes 1 f ++ List.replicate 31 0, f)
  else (List.replicate 64 0, 0)

/-- The end of ALIGN's wait (R248, R249). -/
def alignEnd (j : FusJob) (s : State) : State :=
  let late := lateSlots s j
  let blocks := (List.range 16).map (stateBlock s j late)
  let all := alignPoints s j
  let pts := all.1.take (getF s pgAln Reg.ALN_PT_MAX)
  let drop := all.2 + (all.1.length - pts.length)
  let extr := (List.range 16).filter (fun k => ((blocks.getD k ([], 0)).2).testBit 1)
  let hdr := leBytes 4 pts.length ++ leBytes 4 drop ++ leBytes 8 (unsint 64 j.tc) ++ leBytes 2 (maskOf late) ++
    leBytes 2 (maskOf extr) ++ leBytes 1 (if j.tcOk then 1 else 0) ++ List.replicate 43 0
  let bytes := hdr ++ blocks.flatMap (fun b => b.1) ++
    pts.flatMap (fun p => wBytes p.x ++ wBytes p.y ++ wBytes p.z ++ leBytes 1 p.inten ++ leBytes 1 p.slot ++ [0, 0])
  let out := fjAlnOut j.raw * 64
  let pred := getF s pgEgo Reg.EGO_PRED
  withAccs pgAln j (slotReads s j ++ [⟨true, 0, out, bytes.length⟩]) (fun s =>
    let s := late.foldl (fun s _ => recordPart pgAln 0x4B j.part (bump pgAln Reg.ALN_TIMEOUTS 1 s)) s
    let s := bump pgAln Reg.ALN_PT_DROP drop (jobStore j out bytes s)
    stageEnds (modFus (fun x => { x with predOk := ((blocks.getD pred ([], 0)).2).testBit 0 }) s)) s

/-- ALIGN (R248): the stage waits, unless its wait is over at once. -/
def execAlign (s : State) : Host.Outcome State Fault Refusal :=
  .next (
    match jobAt s 1 with
    | some j => if waitOver s j then alignEnd j s else modJob (fun j => { j with waiting := true }) s
    | none => s)

/-- ALIGN_WAIT_END (R248). -/
def execAlignWaitEnd (s : State) : Host.Outcome State Fault Refusal :=
  .next (
    match s.fus.job with
    | some j => if j.waiting ∧ waitOver s j then alignEnd j s else s
    | none => s)

/-! ### Ego-motion (R252 to R254) -/

/-- The points of an alignment output. -/
def outPoints (s : State) (a : Nat) : List Pt :=
  (List.range (memNat s a 4)).map (fun i =>
    let b := a + 1088 + 16 * i
    ⟨memF s b, memF s (b + 4), memF s (b + 8), memNat s (b + 12) 1, memNat s (b + 13) 1⟩)

/-- 0.2 m as FP32. -/
def cellF : Word := 0x3E4CCCCD

/-- The grid cell of a position, row and column, if it is inside the grid (R255's convention). -/
def gridCell (s : State) (x y : Word) : Option (Nat × Nat) :=
  let f := fun (v : Word) (r : Row) => f32 (divF (subF v (BitVec.ofNat 32 (getF s pgGrd r))) cellF)
  let a := f y Reg.GRD_Y0
  let b := f x Reg.GRD_X0
  let i := floorN a
  let j := floorN b
  if isFinN a ∧ isFinN b ∧ 0 ≤ i ∧ i < 512 ∧ 0 ≤ j ∧ j < 512 then some (i.toNat, j.toNat) else none

/-- Centre of cell (i, j). -/
def cellCentre (s : State) (i j : Nat) : Word × Word :=
  let c := fun (k : Nat) (r : Row) => addF (BitVec.ofNat 32 (getF s pgGrd r)) (mulF cellF (addF (ofIntF k) halfF))
  (c j Reg.GRD_X0, c i Reg.GRD_Y0)

/-- Rz(θ)·(x, y), given cosine and sine. -/
def rotF (c sn x y : Word) : Word × Word := (subF (mulF c x) (mulF sn y), addF (mulF sn x) (mulF c y))

/-- Rz(θ)·p + (dx, dy). -/
def moveF (dx dy c sn x y : Word) : Word × Word :=
  let r := rotF c sn x y
  (addF r.1 dx, addF r.2 dy)

/-- The byte of a reference grid at a cell. -/
def refAt (ref : List (Nat × Byte)) (c : Option (Nat × Nat)) : Nat :=
  match c with
  | some (i, j) => (((ref.find? (fun (e : Nat × Byte) => e.1 = i * 512 + j)).map (fun (e : Nat × Byte) => e.2)).getD 0).toNat
  | none => 0

/-- A candidate pose: the prediction moved by a, b and c steps. -/
def candPose (s : State) (pred : Word × Word × Word) (a b c : Int) : Word × Word × Word :=
  let st := BitVec.ofNat 32 (getF s pgEgo Reg.EGO_STEP_T)
  let sr := BitVec.ofNat 32 (getF s pgEgo Reg.EGO_STEP_R)
  (addF pred.1 (mulF (ofIntF a) st), addF pred.2.1 (mulF (ofIntF b) st), addF pred.2.2 (mulF (ofIntF c) sr))

/-- The score of a candidate. -/
def egoScore (s : State) (ref : List (Nat × Byte)) (pts : List Pt) (m : Word × Word × Word) : Nat :=
  let cs := Config.cosF m.2.2
  let sn := Config.sinF m.2.2
  sumOf (pts.map (fun p =>
    let q := moveF m.1 m.2.1 cs sn p.x p.y
    refAt ref (gridCell s q.1 q.2)))

/-- The points that EGO uses (R252 step 3). -/
def egoPoints (s : State) (pts : List Pt) : List Pt :=
  let zlo := bf16ToF32 (getF s pgEgo Reg.EGO_ZLO)
  let zhi := bf16ToF32 (getF s pgEgo Reg.EGO_ZHI)
  let r := BitVec.ofNat 32 (getF s pgEgo Reg.EGO_RMAX)
  let np := Nat.max 1 (getF s pgEgo Reg.EGO_NP)
  let el := pts.filter (fun p => leF zlo p.z && leF p.z zhi && leF (addF (mulF p.x p.x) (mulF p.y p.y)) (mulF r r))
  let k := Nat.max 1 (ceilDiv el.length np)
  ((el.zipIdx.filter (fun x => x.2 % k = 0)).map (fun x => x.1)).take np

/-- A scored candidate: a, b, c, score. -/
structure EgoCand where
  a : Int
  b : Int
  c : Int
  score : Nat
deriving DecidableEq, Repr

/-- Is the first candidate better (R252 step 6). -/
def egoBetter (nt nr : Nat) (x y : EgoCand) : Bool :=
  let idx := fun (e : EgoCand) => ((e.c + nr) * (2 * nt + 1) + e.b + nt) * (2 * nt + 1) + e.a + nt
  if x.score ≠ y.score then decide (y.score < x.score)
  else if x.c.natAbs ≠ y.c.natAbs then decide (x.c.natAbs < y.c.natAbs)
  else if x.a.natAbs + x.b.natAbs ≠ y.a.natAbs + y.b.natAbs then decide (x.a.natAbs + x.b.natAbs < y.a.natAbs + y.b.natAbs)
  else decide (idx x < idx y)

/-- The integers from -n to n. -/
def symRange (n : Nat) : List Int := (List.range (2 * n + 1)).map (fun k => (k : Int) - n)

/-- The refinement of one axis in steps, from the scores of its neighbours (R252 step 7). -/
def refine (lo mid hi : Nat) : Word :=
  let den : Int := (lo : Int) - 2 * mid + hi
  if den < 0 then
    let o := divF (ofIntF ((lo : Int) - hi)) (ofIntF (2 * den))
    if ltF halfF o then halfF else if ltF o (negF halfF) then negF halfF else o
  else 0

/-- The registration of a scan: outcome (1 OK, 2 PREDICTED) and the motion. -/
def register (s : State) (ref : List (Nat × Byte)) (pts : List Pt) (pred : Word × Word × Word) : Nat × (Word × Word × Word) :=
  let nt := getF s pgEgo Reg.EGO_NT
  let nr := getF s pgEgo Reg.EGO_NR
  let sc := fun a b c => egoScore s ref pts (candPose s pred a b c)
  let cands := (symRange nr).flatMap (fun c => (symRange nt).flatMap (fun b => (symRange nt).map (fun a =>
    (⟨a, b, c, sc a b c⟩ : EgoCand))))
  let best := cands.foldl (fun (x : EgoCand) y => if egoBetter nt nr y x then y else x) ⟨0, 0, 0, sc 0 0 0⟩
  let edge : Bool := (0 < nt && (best.a.natAbs = nt || best.b.natAbs = nt)) || (0 < nr && best.c.natAbs = nr)
  if edge || decide (best.score * 256 < getF s pgEgo Reg.EGO_SCORE_MIN * 255 * pts.length) then (2, pred)
  else
    let m := candPose s pred best.a best.b best.c
    let st := BitVec.ofNat 32 (getF s pgEgo Reg.EGO_STEP_T)
    let sr := BitVec.ofNat 32 (getF s pgEgo Reg.EGO_STEP_R)
    let fa := if 0 < nt then refine (sc (best.a - 1) best.b best.c) best.score (sc (best.a + 1) best.b best.c) else 0
    let fb := if 0 < nt then refine (sc best.a (best.b - 1) best.c) best.score (sc best.a (best.b + 1) best.c) else 0
    let fc := if 0 < nr then refine (sc best.a best.b (best.c - 1)) best.score (sc best.a best.b (best.c + 1)) else 0
    (1, (addF m.1 (mulF fa st), addF m.2.1 (mulF fb st), addF m.2.2 (mulF fc sr)))

/-- The reference grid after the scan (R253): resampled, lowered by DECAY, raised by HIT where a point lies. -/
def newRef (s : State) (ref : List (Nat × Byte)) (pts : List Pt) (m : Word × Word × Word) : List (Nat × Byte) :=
  let cs := Config.cosF m.2.2
  let sn := Config.sinF m.2.2
  let decay := getF s pgEgo Reg.EGO_DECAY
  let hit := getF s pgEgo Reg.EGO_HIT
  let hits := pts.filterMap (fun p => gridCell s p.x p.y)
  (List.range (512 * 512)).filterMap (fun n =>
    let c := cellCentre s (n / 512) (n % 512)
    let q := moveF m.1 m.2.1 cs sn c.1 c.2
    let v := refAt ref (gridCell s q.1 q.2) - decay
    let v := if hits.contains (n / 512, n % 512) then Nat.min 255 (v + hit) else v
    if v = 0 then none else some (n, BitVec.ofNat 8 v))

/-- The motion predicted over T seconds (R252 step 2). -/
def egoPred (s : State) (j : FusJob) (t : Word) : Word × Word × Word :=
  let k := getF s pgEgo Reg.EGO_PRED
  let a := fjAlnOut j.raw * 64 + 64 + 64 * k
  if flag s pgEgo Reg.EGO_PRED_EN ∧ (memNat s (a + 32) 1).testBit 0 then
    (mulF (memF s (a + 4 * getF s pgEgo Reg.EGO_SPD_CH)) t, 0, mulF (memF s (a + 4 * getF s pgEgo Reg.EGO_YAW_CH)) t)
  else
    let v := fun i => mulF (j.work.motion.getD i 0) t
    (v 3, v 4, v 5)

/-- The bytes of the alignment output at ALN_OUT. -/
def alnReads (s : State) (j : FusJob) : List MemAcc :=
  let a := fjAlnOut j.raw * 64
  [⟨false, 0, a, 1088 + 16 * memNat s a 4⟩]

/-- The EGO stage. Before any committed t_c the interval T is a free value (log entry 34). -/
def egoStage (j : FusJob) (s : State) : State :=
  withAccs pgEgo j (alnReads s j) (fun s =>
    let d := match j.work.egoTc with | some t => (j.tc - t, s) | none => let r := drawFree 62 s; ((r.1 : Int), r.2)
    let s := d.2
    let t := secF d.1
    let pred := egoPred s j t
    let pts := egoPoints s (outPoints s (fjAlnOut j.raw * 64))
    let ref := j.work.ref
    let o := if ref.length < getF s pgEgo Reg.EGO_REF_MIN then (0, pred) else register s ref pts pred
    let m := o.2
    let w := { j.work with
      motion := [m.1, m.2.1, m.2.2, divF m.1 t, divF m.2.1 t, divF m.2.2 t]
      ref := newRef s ref pts m
      ring := (j.work.ring ++ [(j.tc, m.1, m.2.1, m.2.2)]).drop (j.work.ring.length - 7)
      since := j.work.since + 1
      egoTc := some j.tc
      failRun := if o.1 = 1 then 0 else if o.1 = 2 then Nat.min 15 (j.work.failRun + 1) else j.work.failRun
      status := o.1 }
    let s := if o.1 = 2 then recordPart pgEgo 0x4C j.part (bump pgEgo Reg.EGO_FAILS 1 s) else s
    stageEnds (modJob (fun j => { j with work := w }) s)) s

/-- EGO (R252). -/
def execEgo (s : State) : Host.Outcome State Fault Refusal :=
  .next (match jobAt s 2 with | some j => egoStage j s | none => s)

/-! ### Projection (R250, R251) -/

/-- Parameter `i` of camera k: FX, FY, CX, CY, K1, K2, K3, ZMIN. -/
def camK (s : State) (k i : Nat) : Word := regW s (fieldAddr pgPrj Reg.PRJ_CAM_K k i)

/-- Sensor width and height of the stream of camera k. -/
def camSize (s : State) (k : Nat) : Nat × Nat :=
  let sm := getFi s pgPrj Reg.PRJ_CAM_STREAM k
  (strmF s sm Reg.ING_GEOM_WIDTH, strmF s sm Reg.ING_GEOM_HEIGHT)

/-- Where a point falls in camera k: u, v and the depth, if it is seen (R250). -/
def project (s : State) (k : Nat) (x y z : Word) : Option (Word × Word × Word) :=
  let q := fun r => matRow s (fieldAddr pgPrj Reg.PRJ_CAM_M k 0) r x y z
  let qz := q 2
  if ltF (camK s k 7) qz = false then none
  else
    let xn := divF (q 0) qz
    let yn := divF (q 1) qz
    let r2 := addF (mulF xn xn) (mulF yn yn)
    let dk := addF (addF (addF oneF (mulF (camK s k 4) r2)) (mulF (mulF (camK s k 5) r2) r2))
      (mulF (mulF (mulF (camK s k 6) r2) r2) r2)
    let u := addF (mulF (mulF (camK s k 0) dk) xn) (camK s k 2)
    let v := addF (mulF (mulF (camK s k 1) dk) yn) (camK s k 3)
    let wh := camSize s k
    if leF 0 u && ltF u (ofIntF wh.1) && leF 0 v && ltF v (ofIntF wh.2) then some (u, v, qz) else none

/-- Is camera k's stream usable now. -/
def camUsable (s : State) (k : Nat) : Bool :=
  let sm := getFi s pgPrj Reg.PRJ_CAM_STREAM k
  sm < 24 && (usableBits s).testBit sm

/-- The output tensor of camera k. -/
def camTensor (s : State) (k : Nat) : Blocked :=
  ⟨0, getFi s pgPrj Reg.PRJ_CAM_OUT k * 64, 16, 4, ceilDiv (camSize s k).1 (Nat.max 1 (getFi s pgPrj Reg.PRJ_CAM_DIV k)), 3⟩

/-- Rows of camera k's output. -/
def camRows (s : State) (k : Nat) : Nat := ceilDiv (camSize s k).2 (Nat.max 1 (getFi s pgPrj Reg.PRJ_CAM_DIV k))

/-- The cell of a projected point. -/
def camCell (s : State) (k : Nat) (u v : Word) : Nat × Nat :=
  let d := ofIntF (Nat.max 1 (getFi s pgPrj Reg.PRJ_CAM_DIV k) : Nat)
  ((floorN (f32 (divF v d))).toNat, (floorN (f32 (divF u d))).toNat)

/-- Camera k's output of the projected points. -/
def projCam (j : FusJob) (pts : List Pt) (k : Nat) (s : State) : State :=
  let t := camTensor s k
  let hits := pts.filterMap (fun p => (project s k p.x p.y p.z).map (fun q => (camCell s k q.1 q.2.1, q.2.2, p.inten)))
  (List.range (camRows s k)).foldl (fun s y => (List.range t.cols).foldl (fun s x =>
    let mine := hits.filter (fun h => h.1 = (y, x))
    let px := match mine with
      | [] => List.replicate 32 (0 : Byte)
      | h :: r =>
        let n := r.foldl (fun (b : (Nat × Nat) × Word × Nat) e => if ltF e.2.1 b.2.1 then e else b) h
        hBytes n.2.1 ++ hBytes (divF (ofIntF n.2.2) (ofIntF 255)) ++ hBytes (ofIntF (Nat.min 255 mine.length : Nat)) ++
          List.replicate 26 0
    jobStore j (pixOff t y x 0) px s) s) s

/-- The PROJ stage. -/
def projStage (j : FusJob) (s : State) : State :=
  let cams := (bitsSet 16 (fjCams j.raw)).filter (camUsable s)
  let outs := cams.map (fun k => (⟨true, 0, (camTensor s k).off, camRows s k * tensorPitch (camTensor s k)⟩ : MemAcc))
  withAccs pgPrj j (alnReads s j ++ outs) (fun s =>
    let pts := outPoints s (fjAlnOut j.raw * 64)
    stageEnds (cams.foldl (fun s k => projCam j pts k s) s)) s

/-- PROJ (R250). -/
def execProj (s : State) : Host.Outcome State Fault Refusal :=
  .next (match jobAt s 3 with | some j => projStage j s | none => s)

/-! ### Lifting (R255) -/

/-- The grid tensor of a job. -/
def gridTensor (s : State) (j : FusJob) : Blocked :=
  ⟨0, fjGridOut j.raw * 64, if flag s pgGrd Reg.GRD_LAYOUT then 32 else 16, getF s pgGrd Reg.GRD_FMT, 512, getF s pgGrd Reg.GRD_CF + 4⟩

/-- S_k of camera k. -/
def featStride (s : State) (k : Nat) : Nat := Nat.max 1 (getFi s pgGrd Reg.GRD_STRIDE k)

/-- The feature tensor of camera k: BF16, in the grid's layout (log entry 35). -/
def featTensor (s : State) (k : Nat) : Blocked :=
  ⟨0, getFi s pgGrd Reg.GRD_FEAT k * 64, if flag s pgGrd Reg.GRD_LAYOUT then 32 else 16, 4,
   ceilDiv (camSize s k).1 (featStride s k), getF s pgGrd Reg.GRD_CF⟩

/-- Rows of the feature tensor. -/
def featRows (s : State) (k : Nat) : Nat := ceilDiv (camSize s k).2 (featStride s k)

/-- Where a cell's column at height `z` lands in camera k: corner pixel and fractions, if all four neighbours lie inside. -/
def sampleAt (s : State) (k : Nat) (x y z : Word) : Option (Nat × Nat × Word × Word) :=
  match project s k x y z with
  | none => none
  | some (u, v, _) =>
    let st := ofIntF (featStride s k)
    let fu := subF (divF u st) halfF
    let fv := subF (divF v st) halfF
    let iu := floorN (f32 fu)
    let iv := floorN (f32 fv)
    if 0 ≤ iu ∧ iu + 1 < (featTensor s k).cols ∧ 0 ≤ iv ∧ iv + 1 < featRows s k then
      some (iu.toNat, iv.toNat, subF fu (ofIntF iu), subF fv (ofIntF iv))
    else none

/-- The bilinear blend of channel c at a sample point. -/
def blend (s : State) (p k c : Nat) (q : Nat × Nat × Word × Word) : Word :=
  let f := fun y x => toF32 (elemVal 4 (tensorCode s ⟨0, 0, p⟩ (featTensor s k) y x c))
  let a := q.2.2.1
  let b := q.2.2.2
  let na := subF oneF a
  let nb := subF oneF b
  addF (addF (addF (mulF (mulF na nb) (f q.2.1 q.1)) (mulF (mulF a nb) (f q.2.1 (q.1 + 1))))
    (mulF (mulF na b) (f (q.2.1 + 1) q.1))) (mulF (mulF a b) (f (q.2.1 + 1) (q.1 + 1)))

/-- The channels of cell (i, j): camera features, then the four point channels. -/
def liftCell (s : State) (jb : FusJob) (cams : List Nat) (pts : List ((Nat × Nat) × Pt)) (i j : Nat) : List Word :=
  let c := cellCentre s i j
  let zb := BitVec.ofNat 32 (getF s pgGrd Reg.GRD_ZB0)
  let zs := BitVec.ofNat 32 (getF s pgGrd Reg.GRD_ZSTEP)
  let land := cams.flatMap (fun k => (List.range (getF s pgGrd Reg.GRD_NZ)).filterMap (fun (b : Nat) =>
    (sampleAt s k c.1 c.2 (addF zb (mulF (ofIntF (b : Int)) zs))).map (fun q => (k, b, q))))
  let feat := (List.range (getF s pgGrd Reg.GRD_CF)).map (fun ch =>
    if land = [] then (0 : Word)
    else divF (land.foldl (fun acc x =>
      addF acc (mulF (BitVec.ofNat 32 (getFi s pgGrd Reg.GRD_WB x.2.1)) (blend s jb.part x.1 ch x.2.2))) 0) (ofIntF land.length))
  let mine := (pts.filter (fun p => p.1 = (i, j))).map (fun p => p.2)
  let pt : List Word := match mine with
    | [] => [0, 0, 0, 0]
    | p :: r =>
      [ofIntF (Nat.min 255 mine.length : Nat), r.foldl (fun m q => maxF m q.z) p.z,
       r.foldl (fun m q => if ltF q.z m then q.z else m) p.z,
       ratF (sumOf (mine.map (fun q => q.inten)) : Int) mine.length]
  feat ++ pt

/-- The bytes of one cell in one channel block: its channels converted, zeros after the last. -/
def cellBytes (s : State) (t : Blocked) (vals : List Word) (b : Nat) : List Byte :=
  (List.range t.blk).flatMap (fun c =>
    let ch := b * t.blk + c
    let n := elemBits t.fmt / 8
    match vals[ch]? with
    | some v =>
      let x := if t.fmt = 0 then divF v (BitVec.ofNat 32 (getFi s pgGrd Reg.GRD_SCALE ch)) else v
      leBytes n (convertTo t.fmt (f32 x)).code
    | none => List.replicate n 0)

/-- Are points lifted: an ALIGN of this bar wrote ALN_OUT (R468). -/
def liftsPoints (j : FusJob) : Bool := fjAlnOut j.raw ≠ 0

/-- The LIFT stage. -/
def liftStage (j : FusJob) (s : State) : State :=
  let t := gridTensor s j
  let cams := (bitsSet 16 (fjLcams j.raw)).filter (camUsable s)
  let feats := cams.map (fun k => (⟨false, 0, (featTensor s k).off, featRows s k * tensorPitch (featTensor s k)⟩ : MemAcc))
  let accs := (if liftsPoints j then alnReads s j else []) ++ feats ++ [⟨true, 0, t.off, 512 * tensorPitch t⟩]
  withAccs pgGrd j accs (fun s =>
    let pts := if liftsPoints j then
        (outPoints s (fjAlnOut j.raw * 64)).filterMap (fun p => (gridCell s p.x p.y).map (fun c => (c, p)))
      else []
    let base := s
    let s := (List.range 512).foldl (fun s y => (List.range 512).foldl (fun s x =>
      let vals := liftCell base j cams pts y x
      (List.range (ceilDiv t.chans t.blk)).foldl (fun s b => jobStore j (pixOff t y x b) (cellBytes base t vals b) s) s) s) s
    stageEnds s) s

/-- LIFT (R255). -/
def execLift (s : State) : Host.Outcome State Fault Refusal :=
  .next (match jobAt s 4 with | some j => liftStage j s | none => s)

end Sys2Proof.Machine
end

