-- ==== Sys2Proof/Machine/Tracking.lean ====
section
/-! DEFINITION. The fusion job's late stages (R256 to R265): assignment, the track store, the batch, the degradation step,
and the completion of a job. -/

namespace Sys2Proof.Machine

open Sys2Proof

/-! ### Detections and prediction (R256, R258) -/

/-- A field of a detection record (R199). -/
def detF (d : Det) (o : Nat) : Word := BitVec.ofNat 32 (leNat ((d.raw.drop o).take 4))
def detH (d : Det) (o : Nat) : Word := bf16ToF32 (leNat ((d.raw.drop o).take 2))
/-- Class of a detection. -/
def detCls (d : Det) : Nat := (d.raw.getD 24 0).toNat % 16

/-- A register of TRK that holds FP32. -/
def trkW (s : State) (r : Row) : Word := BitVec.ofNat 32 (getF s pgTrk r)

/-- π and 2π as FP32. -/
def piF : Word := 0x40490FDB
def twoPiF : Word := 0x40C90FDB

/-- An angle brought to between -π and π (log entry 36). -/
def wrapF (a : Word) : Word := subF a (mulF twoPiF (ofIntF (rneInt 0 (f32 (divF a twoPiF)))))

/-- The motion from t_s to t_c: ring entries composed in time order (R258). -/
def composed (w : FusState) (tc : Int) : Word × Word × Word :=
  (w.ring.filter (fun e => (match w.ts with | some t => decide (t < e.1) | none => true) && decide (e.1 ≤ tc))).foldl
    (fun (a : Word × Word × Word) e =>
      let r := rotF (Config.cosF a.2.2) (Config.sinF a.2.2) e.2.1 e.2.2.1
      (addF a.1 r.1, addF a.2.1 r.2, addF a.2.2 e.2.2.2)) (0, 0, 0)

/-- Δ = t_c − t_s in seconds; 0 where there is no t_s, for then there is no track. -/
def deltaF (w : FusState) (tc : Int) : Word := match w.ts with | some t => secF (tc - t) | none => 0

/-- A track predicted to t_c. -/
def predictTrack (s : State) (dt : Word) (m : Word × Word × Word) (k : Track) : Track :=
  let c := Config.cosF m.2.2
  let n := negF (Config.sinF m.2.2)
  let p := rotF c n (subF (addF k.x (mulF k.vx dt)) m.1) (subF (addF k.y (mulF k.vy dt)) m.2.1)
  let v := rotF c n k.vx k.vy
  let g := fun s2 => addF (addF s2 (trkW s Reg.TRK_QP)) (mulF (mulF (trkW s Reg.TRK_QV) dt) dt)
  { k with x := p.1, y := p.2, vx := v.1, vy := v.2, yaw := wrapF (subF k.yaw m.2.2), sx2 := g k.sx2, sy2 := g k.sy2,
           hit := false, born := false, cost := 0xFFFF, det := 0xFFFF }

/-! ### Edges and the solver (R256, R257) -/

/-- An edge: detection, slot, cost. -/
structure Edge where
  d : Nat
  t : Nat
  cost : Nat
deriving DecidableEq, Repr

/-- The cost of a pair; a distance that is not finite costs the most (log entry 36). -/
def pairCost (s : State) (d : Det) (k : Track) : Nat :=
  let r := BitVec.ofNat 32 (getF s pgAsg Reg.ASG_RDET)
  let q := fun a b s2 => let e := subF a b; divF (mulF e e) (addF s2 r)
  let d2 := addF (q (detF d 0) k.x k.sx2) (q (detF d 4) k.y k.sy2)
  let x := mulF d2 (ofIntF 256)
  if finF x then Nat.min 65535 (rneInt 0 (f32 x)).toNat else 65535

/-- The candidates of detection `i`, lowest cost first, ties to the lower slot. -/
def candEdges (s : State) (tracks : List Track) (i : Nat) (d : Det) : List Edge :=
  let u := getF s pgAsg Reg.ASG_CTL_U_COST
  let l := (tracks.filter (fun k => flag s pgAsg Reg.ASG_CTL_AGN || k.cls = detCls d)).map (fun k => (⟨i, k.slot, pairCost s d k⟩ : Edge))
  (l.filter (fun e => e.cost < u)).insertionSort (fun a b => a.cost < b.cost ∨ (a.cost = b.cost ∧ a.t ≤ b.t))

/-- The detections and tracks that edges connect to a set, grown `n` times. -/
def growComp (es : List Edge) : Nat → List Nat × List Nat → List Nat × List Nat
  | 0, c => c
  | n + 1, c =>
    let hit := es.filter (fun e => c.1.contains e.d || c.2.contains e.t)
    growComp es n (((hit.map (fun e => e.d)) ++ c.1).dedup, ((hit.map (fun e => e.t)) ++ c.2).dedup)

/-- The connected components of the edge graph, as lists of edges. -/
def components : Nat → List Edge → List (List Edge)
  | 0, _ => []
  | n + 1, es =>
    match es with
    | [] => []
    | e :: _ =>
      let c := growComp es es.length ([e.d], [e.t])
      es.filter (fun x => c.1.contains x.d) :: components n (es.filter (fun x => !c.1.contains x.d))

/-- The minimal assignment of detections in order: its cost and the pairs. Options are tried in ascending slot, "unmatched"
last, and a later one is taken only if it is cheaper: so the result is the lexicographically smallest minimal one. -/
def solve (u : Nat) (es : List Edge) : List Nat → List Nat → Nat × List (Nat × Nat × Nat)
  | [], _ => (0, [])
  | d :: r, used =>
    let skip := solve u es r used
    let opts := (es.filter (fun e => e.d = d && !used.contains e.t)).insertionSort (fun a b => a.t ≤ b.t)
    let tries := opts.map (fun e =>
      let x := solve u es r (e.t :: used)
      (x.1 + e.cost, (d, e.t, e.cost) :: x.2))
    (tries ++ [(skip.1 + u, skip.2)]).foldl (fun (b : Option (Nat × List (Nat × Nat × Nat))) x =>
      match b with
      | some y => if x.1 < y.1 then some x else some y
      | none => some x) none |>.getD (0, [])

/-- The greedy assignment of a larger component. -/
def greedy (es : List Edge) : List (Nat × Nat × Nat) :=
  let l := es.insertionSort (fun a b => a.cost < b.cost ∨ (a.cost = b.cost ∧ (a.d < b.d ∨ (a.d = b.d ∧ a.t ≤ b.t))))
  l.foldl (fun acc e => if acc.any (fun x => x.1 = e.d || x.2.1 = e.t) then acc else acc ++ [(e.d, e.t, e.cost)]) []

/-- The pairs of one component, and whether it was taken greedily. -/
def solveComp (s : State) (es : List Edge) : List (Nat × Nat × Nat) × Bool :=
  let ds := ((es.map (fun e => e.d)).dedup).insertionSort (· ≤ ·)
  let ts := (es.map (fun e => e.t)).dedup
  if ds.length + ts.length ≤ getF s pgAsg Reg.ASG_CMAX then ((solve (getF s pgAsg Reg.ASG_CTL_U_COST) es ds []).2, false)
  else (greedy es, true)

/-- The ASSIGN stage. -/
def assignStage (j : FusJob) (s : State) : State :=
  let a := fjDetIn j.raw * 64
  let ok := (memNat s (a + 8) 1).testBit 2
  let n := if ok then Nat.min (memNat s a 2) (getF s pgAsg Reg.ASG_MAX_DET) else 0
  withAccs pgAsg j [⟨false, 0, a, 64⟩, ⟨false, 0, a + 64, 32 * n⟩] (fun s =>
    let dets : List Det := (List.range n).map (fun i => ⟨memBytes s (a + 64 + 32 * i) 32, none, 0xFFFF⟩)
    let flush := decide (8 < j.work.since) && j.work.ts.isSome
    let s := if flush then bump pgTrk Reg.TRK_FLUSHES 1 s else s
    let old := if flush then [] else j.work.tracks
    let tracks := old.map (predictTrack s (deltaF j.work j.tc) (composed j.work j.tc))
    let cands := dets.zipIdx.map (fun d => candEdges s tracks d.2 d.1)
    let es := cands.flatMap (fun l => l.take 64)
    let res := (components es.length es).map (solveComp s)
    let pairs := res.flatMap (fun r => r.1)
    let big := (res.filter (fun r => r.2)).length
    let s := bump pgAsg Reg.ASG_GATE_TRUNC (sumOf (cands.map (fun l => l.length - 64))) (setF pgAsg Reg.ASG_EDGES es.length s)
    let s := bump pgAsg Reg.ASG_GREEDY_COMP big s
    let dets := dets.zipIdx.map (fun d =>
      match pairs.find? (fun x => x.1 = d.2) with
      | some x => { d.1 with slot := some x.2.1, cost := x.2.2 }
      | none => d.1)
    stageEnds (modJob (fun j => { j with
      work := { j.work with tracks := tracks }
      dets := dets
      subopt := j.subopt || decide (0 < big)
      flushed := j.flushed || flush
      detsOk := ok }) s)) s

/-- ASSIGN (R256). -/
def execAssign (s : State) : Host.Outcome State Fault Refusal :=
  .next (match jobAt s 5 with | some j => assignStage j s | none => s)

/-! ### The track store (R259, R260) -/

/-- A track matched to a detection. -/
def matchTrack (s : State) (dt : Word) (d : Det) (i : Nat) (k : Track) : Track :=
  let al := trkW s Reg.TRK_ALPHA
  let be := divF (trkW s Reg.TRK_BETA) dt
  let ga := trkW s Reg.TRK_GAMMA
  let gv := trkW s Reg.TRK_GV
  let rx := subF (detF d 0) k.x
  let ry := subF (detF d 4) k.y
  let vel := fun v r z => let v := addF v (mulF be r); addF v (mulF gv (subF z v))
  let near := fun a z => addF a (mulF ga (subF z a))
  let s2 := fun v => maxF (mulF (trkW s Reg.TRK_SMIN) (trkW s Reg.TRK_SMIN)) (mulF (subF oneF al) v)
  { k with
    x := addF k.x (mulF al rx), y := addF k.y (mulF al ry)
    vx := vel k.vx rx (detH d 18), vy := vel k.vy ry (detH d 20)
    sx2 := s2 k.sx2, sy2 := s2 k.sy2
    z := near k.z (detH d 8), len := near k.len (detH d 10), wid := near k.wid (detH d 12), hgt := near k.hgt (detH d 14)
    yaw := wrapF (addF k.yaw (mulF ga (wrapF (subF (detH d 16) k.yaw)))), score := near k.score (detH d 22)
    cls := detCls d, hit := true, cost := d.cost, det := i }

/-- Number of set bits of the low `n` bits. -/
def popLow (n v : Nat) : Nat := (bitsSet n v).length

/-- A track after its update: its state by *Track states*; `none` if it is deleted. -/
def nextTrack (s : State) (k : Track) : Option Track :=
  let f := fun r => getF s pgTrk r
  let sig := trkW s Reg.TRK_SIG_MAX
  let gone : Bool := (k.state = 1 && decide (f Reg.TRK_TENT_MISS ≤ k.miss)) || (k.state ≠ 1 && decide (f Reg.TRK_MISS_MAX ≤ k.miss)) ||
    ltF sig (sqrtF k.sx2) || ltF sig (sqrtF k.sy2) || (gridCell s k.x k.y).isNone
  if gone then none
  else if k.state = 1 ∧ f Reg.TRK_CONF_M ≤ popLow (f Reg.TRK_CONF_N) k.hist then some { k with state := 2 }
  else if k.state = 2 ∧ k.hit = false then some { k with state := 3 }
  else if k.state = 3 ∧ k.hit then some { k with state := 2, miss := 0 }
  else some k

/-- A track handled by its match, aged, and moved to its next state. -/
def stepTrack (s : State) (dt : Word) (dets : List Det) (k : Track) : Option Track :=
  let k := match (dets.zipIdx.find? (fun d => d.1.slot = some k.slot)) with
    | some d => matchTrack s dt d.1 d.2 k
    | none => { k with score := mulF k.score (trkW s Reg.TRK_DECAY), miss := k.miss + 1 }
  nextTrack s { k with hist := (k.hist * 2 + (if k.hit then 1 else 0)) % 65536, age := Nat.min 65535 (k.age + 1) }

/-- The track that detection `i` starts in a slot. -/
def bornTrack (s : State) (d : Det) (i slot id : Nat) : Track :=
  let s0 := mulF (trkW s Reg.TRK_S0) (trkW s Reg.TRK_S0)
  { slot := slot, id := id, state := 1, cls := detCls d, x := detF d 0, y := detF d 4, z := detH d 8, len := detH d 10,
    wid := detH d 12, hgt := detH d 14, yaw := detH d 16, vx := detH d 18, vy := detH d 20, sx2 := s0, sy2 := s0,
    score := detH d 22, hist := 1, miss := 0, age := 0, hit := false, born := true, cost := 0xFFFF, det := i }

/-- Births of the unmatched detections in order: tracks, next identifier, refusals. -/
def births (s : State) (dets : List Det) (l : List Track) (id : Nat) : List Track × Nat × Nat :=
  let thr := bf16ToF32 (getF s pgTrk Reg.TRK_BIRTH_THR)
  dets.zipIdx.foldl (fun (a : List Track × Nat × Nat) d =>
    if d.1.slot.isSome || !leF thr (detH d.1 22) then a
    else
      match (List.range (Nat.min 2048 (getF s pgTrk Reg.TRK_CAP))).find? (fun n => !a.1.any (fun k => k.slot = n)) with
      | some n => (a.1 ++ [bornTrack s d.1 d.2 n a.2.1], if a.2.1 = 2 ^ 32 - 1 then 1 else a.2.1 + 1, a.2.2)
      | none => (a.1, a.2.1, a.2.2 + 1)) (l, id, 0)

/-! ### Degradation (R264, R265) -/

/-- The modalities of sector k among the enabled streams, and those with a usable stream. -/
def sectorMods (s : State) (usable k : Nat) : Nat × Nat :=
  let st := (List.range 24).filter (fun sm => strmKind s sm ≠ 0 && (getFi s pgAln Reg.ALN_COV_SECTORS sm).testBit k)
  let has := fun (l : List Nat) => ((List.range 3).filter (fun m => l.any (fun sm => getFi s pgAln Reg.ALN_COV_MOD sm = m + 1))).length
  (has st, has (st.filter (fun sm => usable.testBit sm)))

/-- The raw step of a job. -/
def rawStep (s : State) (usable failRun : Nat) : Nat :=
  let m := (List.range 8).map (sectorMods s usable)
  let red := (m.filter (fun x => x.2 < x.1)).length
  let z := m.getD 0 (0, 0)
  if z.1 = 0 ∨ z.2 = 0 then 4
  else if m.any (fun x => 1 ≤ x.1 && x.2 = 0) || decide (2 ≤ red) ||
      (decide (getF s pgEgo Reg.EGO_FAIL_N ≤ failRun) && !(flag s pgEgo Reg.EGO_PRED_EN && s.fus.predOk)) then 3
  else if red = 1 then 2
  else if (List.range 24).any (fun sm => getFi s pgAln Reg.ALN_COV_MOD sm ≠ 0 && !usable.testBit sm) then 1
  else 0

/-- The reported step after an evaluation: step and count. -/
def nextStep (w : FusState) (upN raw : Nat) : Nat × Nat :=
  if w.judged = false then (raw, 0)
  else if w.step < raw then (raw, 0)
  else if raw = w.step then (w.step, 0)
  else if upN ≤ w.upCount + 1 then (w.step - 1, 0)
  else (w.step, w.upCount + 1)

/-- The TRACK stage. -/
def trackStage (j : FusJob) (s : State) : State :=
  let kept := j.work.tracks.filterMap (stepTrack s (deltaF j.work j.tc) j.dets)
  let b := births s j.dets kept j.work.nextId
  let s := if b.2.2 = 0 then s else recordPart pgTrk 0x4D j.part (bump pgTrk Reg.TRK_FULL b.2.2 s)
  let raw := rawStep s j.usable j.work.failRun
  stageEnds (modJob (fun j => { j with
    work := { j.work with tracks := b.1, nextId := b.2.1, ts := some j.tc, since := 0 }
    trkFull := j.trkFull || decide (0 < b.2.2)
    rawStep := some raw }) s)

/-- TRACK (R259). -/
def execTrack (s : State) : Host.Outcome State Fault Refusal :=
  .next (match jobAt s 6 with | some j => trackStage j s | none => s)

/-! ### The batch (R261, R262) -/

/-- The sector of a position. -/
def sectorOf (x y : Word) : Nat :=
  let e := divF piF (ofIntF 8)
  ((floorN (f32 (divF (addF (Config.atan2F y x) e) (addF e e)))) % 8).toNat

/-- A track result record. -/
def trackRecord (s : State) (j : FusJob) (k : Track) : List Byte :=
  let sec := sectorOf k.x k.y
  let m := sectorMods s j.usable sec
  withCrc (leBytes 4 k.id ++ leBytes 2 k.age ++
    leBytes 1 (k.state + (if k.hit then 4 else 0) + (if k.born then 8 else 0)) ++ leBytes 1 (k.cls + 16 * Nat.min 15 k.miss) ++
    wBytes k.x ++ wBytes k.y ++ hBytes k.z ++ hBytes k.len ++ hBytes k.wid ++ hBytes k.hgt ++ hBytes k.yaw ++ hBytes k.vx ++
    hBytes k.vy ++ hBytes k.score ++ hBytes (sqrtF k.sx2) ++ hBytes (sqrtF k.sy2) ++
    leBytes 2 (if k.hit then k.cost else 0xFFFF) ++ leBytes 2 (if k.hit then k.det else 0xFFFF) ++
    leBytes 8 (unsint 64 j.tc) ++ leBytes 4 (barCount s % 2 ^ 32) ++ leBytes 1 j.work.step ++
    leBytes 1 (sec + (if m.2 < m.1 then 8 else 0)) ++ leBytes 2 k.hist ++ List.replicate 4 0)

/-- The tracks that a batch carries, by ascending identifier. -/
def batchTracks (s : State) (j : FusJob) : List Track :=
  if j.work.step = 4 then []
  else
    ((j.work.tracks.filter (fun k => (k.state ≠ 1 || flag s pgTrk Reg.TRK_CTL_EMIT_TENT) &&
      (j.work.step ≠ 3 || sectorOf k.x k.y = 0))).insertionSort (fun a b => a.id ≤ b.id))

/-- The batch header. -/
def batchHeader (s : State) (j : FusJob) (n : Nat) : List Byte :=
  let bit := fun (b : Bool) (v : Nat) => if b then v else 0
  let flags := bit (j.detsOk && j.work.step ≠ 4) 1 + bit j.subopt 2 + bit (j.work.status ≠ 1) 4 + bit (j.work.step = 3) 8 +
    bit j.flushed 16 + bit j.trkFull 32
  withCrc (leBytes 2 n ++ leBytes 1 j.work.step ++ leBytes 1 flags ++ leBytes 4 (barCount s % 2 ^ 32) ++
    leBytes 8 (unsint 64 j.tc) ++ leBytes 2 (curTick s) ++ [0, 0] ++ leBytes 4 (j.usable % 2 ^ 24) ++
    (List.range 3).flatMap (fun i => wBytes (j.work.motion.getD i 0)) ++
    leBytes 4 (j.dets.length % 4096 + 65536 * ((j.dets.filter (fun d => d.slot.isSome)).length % 4096)) ++ List.replicate 20 0)

/-- The OUT stage. -/
def outStage (j : FusJob) (s : State) : State :=
  let l := batchTracks s j
  let bytes := batchHeader s j l.length ++ l.flatMap (trackRecord s j)
  let a := fjBatch j.raw * 64
  withAccs pgCol j [⟨true, 0, a, bytes.length⟩] (fun s => stageEnds (jobStore j a bytes s)) s

/-- OUT (R261). -/
def execOut (s : State) : Host.Outcome State Fault Refusal :=
  .next (match jobAt s 7 with | some j => outStage j s | none => s)

/-! ### Completion (R72, R242, R244) -/

/-- Show the persistent state in the registers. -/
def showFus (s : State) : State :=
  let w := s.fus.st
  let s := (List.range 6).foldl (fun s i => setFij pgEgo Reg.EGO_MOTION i 0 (w.motion.getD i 0).toNat s) s
  setF pgEgo Reg.EGO_STATUS w.status (setF pgEgo Reg.EGO_FAIL_RUN w.failRun (setF pgTrk Reg.TRK_NEXT_ID w.nextId
    (setF pgTrk Reg.TRK_LIVE w.tracks.length (setF pgAln Reg.ALN_DEG_STEP w.step s))))

/-- The working copy becomes the persistent state; a job that ran TRACK evaluates the reported step, and a change records
0x4F (R265). -/
def commitJob (j : FusJob) (s : State) : State :=
  let w := j.work
  match j.rawStep with
  | none => showFus (modFus (fun x => { x with st := w }) s)
  | some raw =>
    let n := nextStep w (getF s pgAln Reg.ALN_DEG_UP_N) raw
    let s := showFus (setF pgAln Reg.ALN_DEG_RAW raw
      (modFus (fun x => { x with st := { w with step := n.1, upCount := n.2, judged := true } }) s))
    if n.1 ≠ w.step ∨ w.judged = false then record pgAln 0x4F s else s

/-- FUSION_JOB_DONE (R72): the last enabled stage has ended. -/
def execFusionJobDone (s : State) : Host.Outcome State Fault Refusal :=
  .next (
    match s.fus.job with
    | some j =>
      if j.left = [] then
        let s := commitJob j s
        tryFuse 64 (finish j.stroke j.bar (modFus (fun x => { x with job := none }) s))
      else s
    | none => s)

/-- The samples that each STATE slot keeps for the next bar: the two latest (R246). Before the streams' records go. -/
def samplesBoundary (s : State) : State :=
  let l := (List.range 16).map (fun k =>
    if slotF s k Reg.ALN_SLOT_KIND = 1 then let x := slotSamples s k; x.drop (x.length - 2) else [])
  modFus (fun x => { x with samples := l, predOk := false, tc := none }) s

end Sys2Proof.Machine
end

