-- ==== Sys2Proof/Machine/Bar.lean ====
section
/-! DEFINITION. What a bar boundary brings: every change that other chapters hold for the boundary (R54, R90, R119, R147,
R175, R208, R213, R222, R267, R273, R277, R278, R289, R448). -/

namespace Sys2Proof.Machine

open Sys2Proof

/-! ### What the boundary does to each part of the block -/

/-- The bar's counters are latched, and a new ACCT.CTL.MODE takes effect (R277, R278). -/
def acctBoundary (s : State) : State :=
  { s with acct := { s.acct with
    atPrev := s.acct.atBar, atBar := s.acct.live
    mbytesAtPrev := s.acct.mbytesAtBar, mbytesAtBar := s.acct.mbytes
    mode := getF s pgAcct Reg.ACCT_CTL_MODE } }

/-- The hash seeds of CD_d take the words written to them (R175). -/
def seedsBoundary (d : Nat) (s : State) : State :=
  let l := (List.range 4).map (fun k => get64 s (pgSch d) Reg.SCH_KV_SEED_LO Reg.SCH_KV_SEED_HI k)
  modDie d (fun x => { x with seeds := l }) s

/-- SPARE.MAP of CD_d takes logical engine k to slot e; the slot it served before serves none. -/
def mapEngine (d k e : Nat) (s : State) : State :=
  let w := getFi s (pgSpare d) Reg.SPARE_MAP (k / 4)
  setFi (pgSpare d) Reg.SPARE_MAP (k / 4) (putBits w (8 * (k % 4)) 8 (128 + e)) s

/-- Engines that have completed their return sequence take work from this boundary, and the substitutions among them are
complete (R119, R123). -/
def enginesBoundary (d : Nat) (s : State) : State :=
  let ready := (dieOf s d).subst.filter (fun x => x.2.2)
  let s := ready.foldl (fun s x => mapEngine d x.1 x.2.1 s) s
  let s := modDie d (fun x => { x with
    subst := x.subst.filter (fun y => !y.2.2)
    lostEng := x.lostEng.filter (fun k => !ready.any (fun y => decide (y.1 = k)))
    engs := x.engs.map (fun g => { g with rejoin := false }) }) s
  if ready = [] then s else showSpareLeft d (showSubst d s)

/-- A page with GATE is gated or ungated as PAGE_CTL.ENABLE asks (R448). -/
def gateBoundary (p : Page) (s : State) : State :=
  let v := if flag s p Reg.HDR_PAGE_CTL_ENABLE then 0 else 1
  if getF s p Reg.HDR_PAGE_STAT_GATED = v then s else setF p Reg.HDR_PAGE_STAT_GATED v s

/-- The pages that can be gated. -/
def gatePages : List Page := [pgPrj, pgEgo, pgGrd, pgAsg, pgTrk, pgPpu, pgSpec 0, pgSpec 1, pgSpec 2, pgSpec 3]

/-- The strokes that are not yet done stay; of those done, the ones that an open stroke of their bar and partition may
still collect or wait for. Voiding ends with the bar (log entry 38). -/
def runsBoundary (s : State) : State :=
  let open_ := s.seq.runs.filter runOpen
  { s with seq := { s.seq with
    voiding := []
    runs := s.seq.runs.filter (fun r => runOpen r ||
      open_.any (fun x => decide (x.bar = r.bar) && decide (stPart x.raw = stPart r.raw))) } }

/-- The sequencer at the boundary: a committed swap takes effect, STOP takes the sequencer to IDLE, and the first boundary
in LOCKED starts it from ARMED or SUSPENDED (R90 to R92). -/
def seqBoundary (s : State) : State :=
  let s := if s.seq.committed = none then s else applySwap s
  if s.seq.stop then enterIdle s
  else if (seqState s = 1 ∨ seqState s = 3) ∧ cycState s = 2 then setSeqState 2 s
  else s

/-- What the end of a bar applies, while the bar count still names that bar. -/
def barEnds (s : State) : State :=
  let s := seqBoundary (ingBoundary (samplesBoundary s))
  let s := (List.range 4).foldl (fun s d => seedsBoundary d (enginesBoundary d (trackerBoundary d s))) s
  let s := groupsBoundary s
  let s := (List.range 8).foldl (fun s n => lregBoundary n s) s
  let s := (List.range 16).foldl (fun s p => partBoundary p s) s
  let s := powerBoundary (bwBoundary (acctBoundary s))
  let s := { s with clap := { s.clap with safeBars := s.clap.safeBars + 1 } }
  gatePages.foldl (fun s p => gateBoundary p s) (runsBoundary s)

/-- The bar that starts: its count and instant are in place, tick 0 begins, and the islands get the bar's number and the
islands' health word (R50, R327). -/
def barStarts (t : Int) (s : State) : State :=
  let s := setF pgCyc Reg.CYC_STAT_TICK 0 s
  let t0 := devTime s - ((s.io.now : Int) - t / 42000)
  let s := modFus (fun x => { x with tick0 := t0 }) s
  let s := ingShow (dlkBoundary s)
  let s := (List.range 2).foldl (fun s i =>
    emit (.island i (.tickFlit (barCount s % 2 ^ 32) (getF s (pgIng 0) Reg.ING_HEALTH_BAR))) s) s
  endCarry (dueAt 0 s)

/-- A bar boundary at instant `t` (in 1/42000 ns) that makes the bar count `n`. -/
def boundary (t : Int) (n : Nat) (s : State) : State :=
  let s := barEnds (at_ (t / 42000).toNat s)
  barStarts t (set64 pgCyc Reg.CYC_BAR_LO Reg.CYC_BAR_HI 0 n s)

end Sys2Proof.Machine
end

