-- ==== Sys2Proof/Machine/Timebase.lean ====
section
/-! DEFINITION. The timebase: start and stop, acquisition, the phase lock of the bar to the Downbeat, hold-over and loss
(R49 to R56). Instants and lengths of bars are in units of 1/42000 ns. -/

namespace Sys2Proof.Machine

open Sys2Proof

/-- Change the timebase. -/
def modCyc (f : Cyc → Cyc) (s : State) : State := { s with cyc := f s.cyc }

/-- Set CYC.STAT.STATE. -/
def setCycState (v : Nat) (s : State) : State := setF pgCyc Reg.CYC_STAT_STATE v s

/-- PERIOD_NOM, ns. -/
def periodNom (s : State) : Nat := getF s pgCyc Reg.CYC_PERIOD_NOM_PERIOD

/-- An instant in ns in the timebase's units. -/
def cycUnits (t : Nat) : Int := 42000 * (t : Int)

/-- Does an edge interval in ns lie within PERIOD_NOM × (1 ± 0.0005) (R53). -/
def goodInterval (s : State) (iv : Int) : Bool :=
  let d := iv - periodNom s
  decide (-(periodNom s : Int) ≤ 2000 * d ∧ 2000 * d ≤ periodNom s)

/-- P: the mean of the collected intervals, at most eight, clamped to PERIOD_NOM × (1 ± 0.0005) (R54). -/
def meanPeriod (s : State) (l : List Int) : Int :=
  let n : Nat := l.length
  let m := if n = 0 then cycUnits (periodNom s) else l.foldl (· + ·) 0 * ((42000 / n : Nat) : Int)
  let c : Int := 21 * (periodNom s : Int)
  max (c * 1999) (min (c * 2001) m)

/-- Show P in CYC.PERIOD_EST. -/
def showPeriod (s : State) : State := setF pgCyc Reg.CYC_PERIOD_EST (roundOpen s.cyc.p 42000).toNat s

/-- Show a phase error, in timebase units, in CYC.PHASE_ERR. -/
def showPhaseErr (e : Int) (s : State) : State := setF pgCyc Reg.CYC_PHASE_ERR (unsint 32 (roundOpen e 42000)) s

/-- The window of a predicted instant: ±2 µs. -/
def inWindow (t : Nat) (b : Int) : Bool :=
  let d := cycUnits t - b
  decide (-84000000 ≤ d ∧ d ≤ 84000000)

/-- The predicted instant of the coming boundary. -/
def nextBound (s : State) : Int := s.cyc.bound + s.cyc.len

/-! ### Start and stop (R49, R53) -/

/-- CYC.CTL.RUN is set: OFF moves to ACQUIRE, or the start is refused with 0x29. A coolant sensor that cannot be read
shows at once (R366). -/
def cycRun (s : State) : State :=
  if cycState s ≠ 0 then s
  else if periodNom s < 16666666 ∨ 100000000 < periodNom s then record pgCyc 0x29 (setF pgCyc Reg.CYC_CTL_RUN 0 s)
  else coolRunCheck (setCycState 1 (setF pgCyc Reg.CYC_CTL_RUN 1 (modCyc (fun c => { c with run := 0 }) s)))

/-- Bars stop: no bar frame exists (R58), and strokes in progress end with their results INVALID. -/
def barsEnd (s : State) : State :=
  let s := stopAll (ingStop s)
  setF pgCyc Reg.CYC_STAT_TICK 0 (setF pgCyc Reg.CYC_STAT_MISSED 0
    (modCyc (fun c => { c with run := 0, edge := none, early := none, prevEdge := none, missed := 0, ivals := [] }) s))

/-- CYC.CTL.RUN is cleared: OFF at once. -/
def cycStop (s : State) : State :=
  let s := setF pgCyc Reg.CYC_CTL_RUN 0 s
  setCycState 0 (if barsRun s then barsEnd s else s)

/-- TIMEBASE_RUN (R53). -/
def execTimebaseRun (by_ : Agent) (t : Nat) (s : State) : Host.Outcome State Fault Refusal :=
  .next (asMaster pgCyc 0x40 by_ cycRun (at_ t s))

/-- TIMEBASE_STOP (R53). -/
def execTimebaseStop (by_ : Agent) (s : State) : Host.Outcome State Fault Refusal := .next (asMaster pgCyc 0x40 by_ cycStop s)

/-! ### Edges (R53 to R55) -/

/-- The fourth edge of a run: LOCKED, and the first bar boundary, with a phase error of 0 (R53). -/
def lock (t : Nat) (l : List Int) (s : State) : State :=
  let p := meanPeriod s l
  let s := boundary (cycUnits t) 0 (setCycState 2 (modCyc (fun c => { c with
    ivals := l, p := p, bound := cycUnits t, len := p, edge := some t, prevEdge := none, early := none, resolved := true
    missed := 0 }) s))
  showPeriod (showPhaseErr 0 (setF pgCyc Reg.CYC_STAT_MISSED 0 s))

/-- An edge in ACQUIRE. -/
def acquireEdge (t : Nat) (s : State) : State :=
  let iv : Int := (t : Int) - s.cyc.lastEdge
  if s.cyc.run = 0 ∨ goodInterval s iv = false then modCyc (fun c => { c with run := 1, lastEdge := t, ivals := [] }) s
  else
    let l := iv :: s.cyc.ivals
    if s.cyc.run = 3 then lock t l s
    else modCyc (fun c => { c with run := c.run + 1, lastEdge := t, ivals := l }) s

/-- The in-window edge of the last boundary: its phase error sets the bar's length, its interval from the in-window edge of
the boundary before enters P, and HOLDOVER ends (R54, R55). -/
def takeEdge (t : Nat) (s : State) : State :=
  let l := match s.cyc.prevEdge with
    | some u => (((t : Int) - u) :: s.cyc.ivals).take 8
    | none => s.cyc.ivals
  let p := if s.cyc.prevEdge = none then s.cyc.p else meanPeriod s l
  let e := cycUnits t - s.cyc.bound
  let s := modCyc (fun c => { c with ivals := l, p := p, len := p + e, edge := some t, resolved := true, missed := 0 }) s
  setCycState 2 (showPhaseErr e (showPeriod (setF pgCyc Reg.CYC_STAT_MISSED 0 s)))

/-- A displaced edge (R55). -/
def displaced (s : State) : State := record pgCyc 0x28 (bump pgCyc Reg.CYC_DISPLACED 1 s)

/-- An edge while bars run. An early edge of the coming boundary ends HOLDOVER at once; its phase error waits for its
boundary. -/
def barEdge (t : Nat) (s : State) : State :=
  if inWindow t s.cyc.bound then (if s.cyc.resolved then displaced s else takeEdge t s)
  else if inWindow t (nextBound s) ∧ s.cyc.early = none then
    setF pgCyc Reg.CYC_STAT_MISSED 0 (setCycState 2 (modCyc (fun c => { c with early := some t, missed := 0 }) s))
  else displaced s

/-- DOWNBEAT_EDGE: an edge of the selected source at instant t (R52). While gPTP is LOST, the source SRC = 1 has no
edges. -/
def execDownbeatEdge (t : Nat) (s : State) : Host.Outcome State Fault Refusal :=
  .next (
    let s := at_ t s
    if flag s pgCyc Reg.CYC_CTL_SRC ∧ ptpLost s then s
    else if cycState s = 1 then acquireEdge t s
    else if barsRun s then barEdge t s
    else s)

/-- The window of the last boundary closes without an edge: HOLDOVER, and the bar keeps the length P (R55). -/
def edgeMissing (s : State) : State :=
  record pgCyc 0x27 (setCycState 3 (modCyc (fun c => { c with resolved := true, edge := none, len := c.p }) s))

/-- DOWNBEAT_MISSING: 2 µs after the predicted instant. -/
def execDownbeatMissing (s : State) : Host.Outcome State Fault Refusal :=
  .next (if barsRun s ∧ s.cyc.resolved = false then edgeMissing (at_ ((s.cyc.bound + 84000000) / 42000).toNat s) else s)

/-! ### Boundaries and loss (R54, R56) -/

/-- HOLD_MAX; 0 means 16. -/
def holdMax (s : State) : Nat :=
  let h := getF s pgCyc Reg.CYC_CTL_HOLD_MAX
  if h = 0 then 16 else h

/-- Have HOLD_MAX boundaries passed in HOLDOVER, so that the next one is not a boundary but the loss (R56). -/
def lossDue (s : State) : Bool := cycState s = 3 && decide (holdMax s ≤ s.cyc.missed)

/-- The bar boundary at the predicted instant. An edge that came before it is its in-window edge. -/
def nextBar (s : State) : State :=
  let b := nextBound s
  let n := barCount s + 1
  let early := s.cyc.early
  let held := cycState s = 3
  let s := modCyc (fun c => { c with
    bound := b, len := c.p, prevEdge := c.edge, edge := none, resolved := false, early := none
    missed := if held then c.missed + 1 else 0 }) s
  let s := setF pgCyc Reg.CYC_STAT_MISSED (Nat.min 15 s.cyc.missed) s
  let s := match early with
    | some t => takeEdge t s
    | none => s
  boundary b (n % 2 ^ 64) s

/-- BAR_BOUNDARY. A window still without an outcome has had no edge. -/
def execBarBoundary (s : State) : Host.Outcome State Fault Refusal :=
  .next (
    if barsRun s = false then s
    else
      let s := if s.cyc.resolved then s else edgeMissing s
      if lossDue s then s else nextBar s)

/-- TIMEBASE_LOST: LOST and, in the same hub clock, ACQUIRE. The sequencer is suspended (R56, R91). -/
def execTimebaseLost (s : State) : Host.Outcome State Fault Refusal :=
  .next (
    if lossDue s then
      let s := record pgCyc 0x2F (setCycState 4 (at_ (nextBound s / 42000).toNat s))
      let s := barsEnd s
      let s := if seqState s = 2 then setSeqState 3 s else s
      setCycState 1 s
    else s)

end Sys2Proof.Machine
end

