-- ==== Sys2Proof/Machine/RegRead.lean ====
section
/-! DEFINITION. Reads of registers and of the device address map: where an access to the control region lands (R12, R429,
R440, R441), what a word shows (R151, R278, R301, R449, R450), and the access itself (R279, R292, R463, R464). -/

namespace Sys2Proof.Machine

open Sys2Proof

/-! ### Where an access lands -/

/-- The page of a control address, ME windows resolved, and the offset in it; or the code that refuses the access: 0x09 for
a page that is not listed (R440), 0x03 for a page of a die out of service (R429). -/
def target (s : State) (a : Nat) : Sum Nat (Page × Nat) :=
  match pageOfAddr a with
  | none => .inl 0x09
  | some (p, off) =>
    if blkOf p = none then .inl 0x09
    else
      match p with
      | .cd d n =>
        if inService s d = false then .inl 0x03
        else if 0x10 ≤ n ∧ n ≤ 0x1F then
          match slotOf s d (n - 0x10) with
          | some e => .inr (pgPe d e, off)
          | none => .inl 0x09
        else .inr (p, off)
      | _ => .inr (p, off)

/-! ### What a word shows -/

/-- Are two rows the same field (the port blocks of the pages differ in their number alone). -/
def sameRow (a b : Row) : Bool := a.blk = b.blk && a.off = b.off && a.lo = b.lo

/-- The RO fields that count: those whose tables call them saturating or a count that hardware advances. -/
def counterRows : List Row :=
  [Reg.HDR_ERR_CNT, Reg.CLK_UNLOCKS, Reg.CYC_BAR_LO, Reg.CYC_BAR_HI, Reg.CYC_DISPLACED, Reg.SEQ_OVERRUN, Reg.SEQ_MISSED,
   Reg.ADM_OPT_T, Reg.ADM_GROWTH_CLEAN, Reg.ADM_OPT_SKIPS, Reg.ADM_ENV_SKIPS, Reg.ING_FRAMES, Reg.ING_PKT_ERR,
   Reg.ING_LINE_SLOW, Reg.ING_DROPPED, Reg.ING_REPEATS, Reg.ING_TS_BAD, Reg.ING_FN_SKIPS, Reg.ALN_PT_DROP, Reg.ALN_TIMEOUTS,
   Reg.EGO_FAILS, Reg.ASG_GATE_TRUNC, Reg.ASG_GREEDY_COMP, Reg.TRK_FULL, Reg.TRK_FLUSHES, Reg.PPU_JOBS, Reg.PPU_CAPPED,
   Reg.PPU_TRUNC, Reg.PPU_NONFINITE, Reg.PPU_FAILED, Reg.COL_STALE, Reg.COL_Q_STALL, Reg.COL_BATCHES, Reg.COL_INVALID] ++
  [Reg.PRT_STAT_RESETS, Reg.PRT_OVERRUN, Reg.PRT_MISSED, Reg.ACCT_OVERRUNS, Reg.ACCT_RESETS, Reg.ACCT_ENG_NS_LO,
   Reg.ACCT_ENG_NS_HI, Reg.ACCT_BRUSH_NS_LO, Reg.ACCT_BRUSH_NS_HI, Reg.ACCT_STACK_LO, Reg.ACCT_STACK_HI, Reg.ACCT_POOL_LO,
   Reg.ACCT_POOL_HI, Reg.ACCT_ENERGY_UJ_LO, Reg.ACCT_ENERGY_UJ_HI, Reg.ACCT_MBYTES_LO, Reg.ACCT_MBYTES_HI, Reg.BWREG_M_HELD,
   Reg.MBX_WARN_LOST, Reg.MBX_OVW, Reg.PMC_E_VIN_LO, Reg.PMC_E_VIN_HI, Reg.PMC_E_RAIL_LO, Reg.PMC_E_RAIL_HI, Reg.VRC_DROOPS,
   Reg.VRC_LOSSES, Reg.THM_CYC, Reg.DVFS_AGE_RAISES, Reg.DVFS_THR_US_LO, Reg.DVFS_THR_US_HI, Reg.CAP_OVERS] ++
  [Reg.LDG_RETIRED, Reg.LDG_TORN, Reg.LDG_DROPPED, Reg.LDG_ABANDONED, Reg.LDG_FLUSHES, Reg.HLD_CHARGES, Reg.HLD_REMOVALS,
   Reg.DLK_L_REPLAYS, Reg.DLK_SH_EXCHANGES, Reg.DLK_XB_STAT_LATE, Reg.DLK_XB_STAT_DISCARD, Reg.ETH_MAC_RX_FRAMES,
   Reg.ETH_MAC_RX_FCS, Reg.ETH_MAC_TX_FRAMES, Reg.DBG_RX_ERR, Reg.CLAP_PASSES, Reg.CLAP_LAPSES, Reg.CLAP_SAFE_ENTRIES,
   Reg.CLAP_MON_REQS, Reg.SCH_PAIR_MISM, Reg.SCH_STALL_TOK, Reg.SCH_KV_STALE, Reg.SCH_ATTN_LEN, Reg.POOL_ECC_CORR,
   Reg.POOL_UNCORR, Reg.POOL_LRN_DENIED, Reg.MSC_ECC_CORR, Reg.MSC_LINK_RETRY, Reg.MSC_UNCORR, Reg.MSC_DL_LATE, Reg.MSC_SKEW] ++
  [Reg.QNT_SAT_CNT, Reg.QNT_NAN_CNT, Reg.QNT_INF_CNT, Reg.QNT_ALARM_CNT, Reg.SPEC_DONE, Reg.SPEC_TILES, Reg.SPEC_ECC_CORR,
   Reg.SPEC_ABANDONED, Reg.SPEC_BUSY_CLK, Reg.PE_ENG_WORK, Reg.PE_ENG_BRUSH, Reg.PE_ENG_DONE, Reg.PE_ENG_STALE,
   Reg.PE_ENG_ECC, Reg.PE_ATTN_TILES, Reg.PE_KV_SEALS, Reg.PE_LINE_WAIT, Reg.PE_TILE_XPART, Reg.ISL_CAN_SSF_SENT,
   Reg.ISL_CAN_SSF_LATE, Reg.PORT_P_ERR_REPLAYS, Reg.PORT_P_WCNT_TOTAL]

/-- Is a field a counter that FREEZE holds (R450). -/
def isCounter (r : Row) : Bool := r.acc = .ro && counterRows.any (sameRow r)

/-- What the live counters of ACCT show for a partition and view: live, or the last bar (R275, R278). -/
def acctOf (s : State) (sel : Nat) (f : Charges → Nat) : Nat :=
  let g := fun (l : List Charges) => f (l.getD (sel % 16) Charges.zero)
  if sel / 16 % 2 = 0 then g s.acct.live else g s.acct.atBar - g s.acct.atPrev

/-- The word of ACCT at an offset from 0x050 to 0x097. -/
def acctWord (s : State) (sel off : Nat) : Nat :=
  let half := fun (v : Nat) => if off % 8 = 0 then v % 2 ^ 32 else v / 2 ^ 32
  if off < 0x58 then half (acctOf s sel (fun c => c.eng))
  else if off < 0x60 then half (acctOf s sel (fun c => c.brush))
  else if off < 0x80 then half (acctOf s sel (fun c => nth0 c.stack ((off - 0x60) / 8)))
  else if off < 0x88 then half (acctOf s sel (fun c => c.pool))
  else if off < 0x90 then half (acctOf s sel (fun c => c.energy / 1000000))
  else if off = 0x90 then acctOf s sel (fun c => c.overruns)
  else acctOf s sel (fun c => c.resets)

/-- The word of ACCT.MBYTES_m. -/
def mbytesWord (s : State) (sel off : Nat) : Nat :=
  let m := (off - 0x100) / 8
  let v := if sel / 16 % 2 = 0 then nth0 s.acct.mbytes m else nth0 s.acct.mbytesAtBar m - nth0 s.acct.mbytesAtPrev m
  if off % 8 = 0 then v % 2 ^ 32 else v / 2 ^ 32

/-- The word of the selection window of QNT of CD_d (R151). -/
def qntWord (s : State) (d off : Nat) : Nat :=
  let p := pgQnt d
  let j := getF s p Reg.QNT_SEL_SET
  let ch := getF s p Reg.QNT_SEL_CHANNEL
  match slotOf s d (getF s p Reg.QNT_SEL_ENGINE) with
  | none => 0
  | some e =>
    let c := qcfgOf s d j
    if j = 0 ∨ c.enable = false ∨ c.bad then 0
    else
      let x := trkSet s d e j
      let t := x.entries.getD ch (loadedEntry 0)
      if off = 0x204 then t.scale.toNat
      else if off = 0x208 then t.m.toNat
      else if off = 0x20C then t.win.headD 0
      else if off = 0x210 then t.lclip
      else if off = 0x214 then t.ltotal
      else if off = 0x218 then (if x.active then 2 else 1) + 256 * Nat.min 16 t.win.length
      else if off = 0x21C then x.nOver
      else if off = 0x220 then x.worst + 65536 * x.share
      else 0

/-- The number of the port whose block holds an offset of a WLK, WLKD or WLKI page. -/
def portAt (p : Page) (off : Nat) : Option Nat :=
  let n := (off - 0x80) / 0x20
  if off < 0x80 then none
  else
    match p with
    | .hub 0x5A => if n < 6 then some n else none
    | .cd d 7 => if n < 3 then some (6 + 3 * d + n) else none
    | .wlki i => if n = 0 then some (18 + i) else none
    | _ => none

/-- The parity errors of a wire of a port: in total, and in the current 10 ms (R29). -/
def wireWord (s : State) (port wire : Nat) : Nat :=
  let q := portOf s port
  let n := (q.recent.filter (fun e => e.1 = wire ∧ s.io.now < e.2 + 10000000)).length
  sparseGet (fun _ => 0) q.parity wire + 65536 * Nat.min 255 n

/-- Is the block of a page active: an engine with work, a unit with a descriptor, a stage of the fusion job (log entry 39). -/
def pageBusy (s : State) (p : Page) : Bool :=
  match p with
  | .cd d n =>
    if n = 6 then flag s (pgSpec d) Reg.SPEC_STAT_BUSY
    else if 0x20 ≤ n then (engOf s d (n - 0x20)).queue ≠ [] else false
  | _ =>
    match s.fus.job with
    | some j => (match j.left with | b :: _ => stagePage b = p | [] => false)
    | none => false

/-- The selector of a word that shows what another field selects. -/
def selOf (s : State) (p : Page) (off : Nat) : Nat :=
  if p = pgAcct then getF s p Reg.ACCT_SEL_PART + 16 * getF s p Reg.ACCT_SEL_VIEW
  else match portAt p off with
    | some n => if (off - 0x80) % 0x20 = 0x14 then portF s n Reg.PORT_P_WSEL_WIRE else 0
    | none => 0

/-- Which values the selector of a page can have. -/
def selRange (p : Page) (off : Nat) : Nat :=
  if p = pgAcct then 32
  else if (portAt p off).isSome ∧ (off - 0x80) % 0x20 = 0x14 then 64
  else 1

/-- The bits of a word that write-only fields take, which read as zero. -/
def maskWo (p : Page) (off v : Nat) : Nat :=
  ((rowsAt p off).filter (fun x => x.1.acc = .wo)).foldl (fun v x =>
    if (rowsAt p off).any (fun y => y.1.acc = .ro && y.1.lo = x.1.lo) then v else putBits v x.1.lo x.1.w 0) v

/-- The live content of the word at an offset of a page, for a selector. -/
def liveWord (s : State) (p : Page) (off sel : Nat) : Nat :=
  let v := (regW s (pageBase p + off)).toNat
  if off = 0x10 then putBits v 0 1 (if pageBusy s p then 1 else 0)
  else if off = 0x34 then (if pageCap p 3 then getF s pgTrk Reg.TRK_CTL_OWNER else v)
  else if off < 0x40 then maskWo p off v
  else if p = pgIntc ∧ off < 0x80 then pendWord s ((off - 0x40) / 4)
  else if p = pgAcct ∧ 0x50 ≤ off ∧ off < 0x98 then acctWord s sel off
  else if p = pgAcct ∧ 0x100 ≤ off ∧ off < 0x200 then mbytesWord s sel off
  else if p = pgBwreg ∧ 0x100 ≤ off ∧ off < 0x500 ∧ off % 0x40 = 0 then
    putBits v 4 4 (getFi s pgPrt Reg.PRT_CTL_CLASS ((off - 0x100) / 0x40))
  else
    match p with
    | .cd d 5 => if 0x204 ≤ off ∧ off < 0x224 then qntWord s d off else maskWo p off v
    | _ =>
      match portAt p off with
      | some n => if (off - 0x80) % 0x20 = 0x14 then wireWord s n sel else maskWo p off v
      | none => maskWo p off v

/-- The key of a frozen word. -/
def frozenKey (p : Page) (off sel : Nat) : Nat := pageBase p + off + 2 ^ 32 * sel

/-- What the word at an offset of a page reads as: live, or with its counters as FREEZE holds them (R450). -/
def readWord (s : State) (p : Page) (off : Nat) : Nat :=
  let sel := selOf s p off
  let v := liveWord s p off sel
  if flag s p Reg.HDR_PAGE_STAT_FROZEN then
    match s.io.frozen.find? (fun e => e.1 = frozenKey p off sel) with
    | some e => ((rowsAt p off).filter (fun x => isCounter x.1)).foldl (fun v x =>
        putBits v x.1.lo x.1.w (bitsOf e.2.toNat x.1.lo x.1.w)) v
    | none => v
  else v

/-- The counters of a page as they stand, for every selector: what FREEZE keeps. -/
def snapshot (s : State) (p : Page) : List (Nat × Word) :=
  ((Reg.HDR_ERR_CNT :: (pageRows p).filter isCounter).flatMap (fun r =>
    (List.range r.n1).flatMap (fun i => (List.range r.n2).flatMap (fun j =>
      let off := r.off + i * r.s1 + j * r.s2
      if i < r.i0 then []
      else (List.range (selRange p off)).map (fun sel =>
        (frozenKey p off sel, BitVec.ofNat 32 (liveWord s p off sel)))))))

/-- Is the word at an offset of a page a LO word whose reading latches its HI word, which is the next one. -/
def isLoWord (p : Page) (off : Nat) : Bool :=
  (p = pgCyc && off = 0x4C) || (p = pgLdg && off = 0x4C) || (p = pgPmc && off = 0x50) ||
  (p = pgAcct && off % 8 = 0 && ((0x50 ≤ off && off < 0x90) || (0x100 ≤ off && off < 0x200)))

/-- Keep what a HI word shows at the read of its LO word. -/
def latchHi (a v : Nat) (s : State) : State :=
  { s with io := { s.io with latch := (a, BitVec.ofNat 32 v) :: s.io.latch.filter (fun e => decide (e.1 ≠ a)) } }

/-- A read of the word at an offset of a page: what it returns, and the state after its side effect. -/
def readPage (who : Agent) (p : Page) (off : Nat) (s : State) : Nat × State :=
  if p = pgMbx ∧ 0x140 ≤ off ∧ off < 0x240 then
    let r := chanRead who ((off - 0x140) / 4) s
    (r.1.toNat, r.2)
  else if p = pgIntc ∧ 0x80 ≤ off ∧ off < 0x118 ∧ off % 8 = 0 then claimSource ((off - 0x80) / 8) s
  else if isLoWord p off then (readWord s p off, latchHi (pageBase p + off + 4) (readWord s p (off + 4)) s)
  else if 4 ≤ off ∧ isLoWord p (off - 4) then
    (match s.io.latch.find? (fun e => e.1 = pageBase p + off) with | some e => e.2.toNat | none => 0, s)
  else (readWord s p off, s)

/-! ### Accesses by device address -/

/-- A refusal on the access path is recorded in the page of R464 with the refused address. -/
def pathRefusal (who : Agent) (code a : Nat) (s : State) : State :=
  recordAt (refusalPage code) code (a / 64) ((partOf who).getD 0xFF) s

/-- The refusal of an access of `who` to `len` bytes at `a`: the state after it, if it is refused. A partition's windows
come before the map (log entry 11), then the word form of a register access (R12). -/
def refuse (who : Agent) (wr : Bool) (a len : Nat) (s : State) : Option State :=
  let win := match partOf who with
    | some p => windowsPass (windowsInForce s p) wr a len
    | none => true
  if win = false then some (windowFault ((partOf who).getD 0) a s)
  else
    match accessRefusal s (dataMaster who) a len with
    | some c => some (pathRefusal who c a s)
    | none =>
      if regionOf a = .control then
        match target s a with
        | .inl c => some (pathRefusal who c a s)
        | .inr (p, _) => if a % 4 ≠ 0 ∨ len ≠ 4 then some (recordAt p 0x04 (a / 64) 0xFF s) else none
      else none

/-- A read by `who`: the bytes, whether it was performed, and the state after it. The partner die's memory is not this
device's: what it answers is a free value. -/
def devRead (who : Agent) (a len : Nat) (s : State) : List Byte × Bool × State :=
  match refuse who false a len s with
  | some t => (List.replicate len 0, false, t)
  | none =>
    if regionOf a = .control then
      match target s a with
      | .inr (p, off) =>
        let r := readPage who p off s
        (leBytes 4 r.1, true, r.2)
      | .inl _ => (List.replicate len 0, false, s)
    else if regionOf a = .partner then
      let r := drawFree (8 * len) s
      (leBytes len r.1, true, r.2)
    else (memBytes s a len, true, chargeMem (masterNo who) (partOf who) a len s)

/-- LO_WORD_READ (R278). -/
def execLoWordRead (by_ : Agent) (addr : Nat) (s : State) : Host.Outcome State Fault Refusal :=
  .next (
    match target s addr with
    | .inr (p, off) =>
      if isLoWord p off then
        let r := devRead by_ addr 4 s
        answer r.1 r.2.1 false r.2.2
      else s
    | .inl _ => s)

end Sys2Proof.Machine
end

