-- ==== Sys2Proof/Machine/RegWrite.lean ====
section
/-! DEFINITION. Writes of registers and to the device address map: what each field takes (R14), the common header (R444 to
R450), what the words of each page start, and the access itself (R279, R307, R442, R463, R464). -/

namespace Sys2Proof.Machine

open Sys2Proof

/-! ### Fields (R14) -/

/-- May a field hold a value: the limits that its register table states, a write outside which the field ignores. -/
def legal (s : State) (r : Row) (v : Nat) : Bool :=
  if sameRow r Reg.CYC_PERIOD_NOM_PERIOD then cycState s = 0
  else if sameRow r Reg.SCH_BRUSH_FRAC then decide (60 ≤ v ∧ v ≤ 90)
  else if sameRow r Reg.QNT_CFG_WIN then decide (1 ≤ v ∧ v ≤ 16)
  else if sameRow r Reg.QNT_S_MIN then goodScale (BitVec.ofNat 32 v)
  else if sameRow r Reg.ADM_GROWTH_GROWTH then v ≠ 0
  else if sameRow r Reg.BWREG_M_WIN then v ≠ 7
  else if sameRow r Reg.ISL_CAN_DBR then decide (v ≤ 8000)
  else if sameRow r Reg.THM_WARM_FLOOR_C then decide (20 ≤ v ∧ v ≤ 60)
  else if sameRow r Reg.HLD_V_TGT then decide (4000 ≤ v ∧ v ≤ 5000)
  else if sameRow r Reg.HLD_I_CHG then decide (50 ≤ v ∧ v ≤ 500)
  else if sameRow r Reg.DBG_UART_DIV then decide (33 ≤ v)
  else if sameRow r Reg.PORT_P_LOOP_MODE then lcState s ≠ 2
  else true

/-- The word at an offset of a page after a write of `v`: RW and RWL fields take their bits, W1C bits clear where 1 is
written, every other field keeps its value. -/
def wordAfter (s : State) (p : Page) (off v : Nat) : Nat :=
  (rowsAt p off).foldl (fun u x =>
    let b := bitsOf v x.1.lo x.1.w
    match x.1.acc with
    | .rw => if legal s x.1 b then putBits u x.1.lo x.1.w b else u
    | .rwl => if legal s x.1 b then putBits u x.1.lo x.1.w b else u
    | .w1c => putBits u x.1.lo x.1.w (bitsOf u x.1.lo x.1.w - (bitsOf u x.1.lo x.1.w &&& b))
    | _ => u) (regW s (pageBase p + off)).toNat

/-- Store what a write of `v` makes of a word. -/
def genWord (p : Page) (off v : Nat) (s : State) : State := setW (pageBase p + off) (BitVec.ofNat 32 (wordAfter s p off v)) s

/-- Do `f` if bit `b` of the written word is set. -/
def onBit (v b : Nat) (f : State → State) (s : State) : State := if v.testBit b then f s else s

/-! ### Blocks in use (R447) and owners (R449) -/

/-- Does a stroke use stream `sm`: a WAIT_LINES or a line-fed descriptor. -/
def usesStream (s : State) (sm : Nat) (k : Stroke) : Bool :=
  (stOp k = 3 && stStream k = sm) ||
  (stIsRun k && (fetchList s 4096 (stDesc k * 64)).any (fun r => isLineFed r && (geoDirect r).stream = sm))

/-- Does a stroke use the block of a page. -/
def usesBlock (s : State) (p : Page) (k : Stroke) : Bool :=
  match p, blkOf p with
  | .hub n, some .ing => usesStream s (n - 8) k
  | _, some .col => stOp k = 5 || stOp k = 7
  | .cd d _, some .spec =>
    stIsRun k && (selectedFor d (fetchList s 4096 (stDesc k * 64))).any (fun x => dKind x.2 = 4)
  | _, some .dbg => false
  | _, _ =>
    stOp k = 6 && (List.range 7).any (fun b => fjHas (memBytes s (stDesc k * 64) 64) b && stagePage b = p)

/-- Is the block of a page in use. -/
def blockInUse (s : State) (p : Page) : Bool :=
  (heldStrokes s).any (usesBlock s p) || (blkOf p = some .ing && flag s p Reg.ING_CTL_ENABLE)

/-- What a soft reset of a page resets beside its registers: the state of a stream, the fusion unit (R254, R260, R265), and
not MAL.OFF, which stays until cold reset. -/
def softResetState (p : Page) (off : Bool) (s : State) : State :=
  match p, blkOf p with
  | .hub n, some .ing => { s with ing := s.ing.set (n - 8) (Strm.fresh (n - 8)) }
  | _, some .trk =>
    let was := s.fus.st.step
    let s := showFus { s with fus := { s.fus with st := FusState.fresh } }
    if was = FusState.fresh.step then s else record pgAln 0x4F s
  | _, some .dbg => if off then setF p Reg.DBG_MAL_OFF 1 s else s
  | _, _ => s

/-- A soft reset of a page. -/
def softReset (p : Page) (s : State) : State :=
  softResetState p (flag s pgDbg Reg.DBG_MAL_OFF) (resetPageFrom p 0x40 s)

/-- FREEZE is set or cleared: the page's counters are kept as they stand, or shown live again (R450). -/
def setFreeze (p : Page) (on : Bool) (s : State) : State :=
  let was := flag s p Reg.HDR_PAGE_STAT_FROZEN
  let inPage := fun (e : Nat × Word) => decide (pageBase p ≤ e.1 % 2 ^ 32 ∧ e.1 % 2 ^ 32 < pageBase p + 0x1000)
  let kept := if on then (if was then s.io.frozen else snapshot s p ++ s.io.frozen) else s.io.frozen.filter (fun e => !inPage e)
  let x := if on then 1 else 0
  setF p Reg.HDR_PAGE_CTL_FREEZE x (setF p Reg.HDR_PAGE_STAT_FROZEN x { s with io := { s.io with frozen := kept } })

/-- A write of PAGE_CTL: FREEZE always; ENABLE on a page with GATE and SOFT_RESET on one with SRST, unless the page is locked
or the write would stop a block in use, which records 0x05 once (R447, R448). -/
def writePageCtl (p : Page) (v : Nat) (s : State) : State :=
  let lk := locked s p
  let en := v.testBit 0
  let gate : Bool := pageCap p 0 && (en != flag s p Reg.HDR_PAGE_CTL_ENABLE)
  let srst : Bool := pageCap p 1 && v.testBit 1
  let used : Bool := (gate || srst) && !lk && blockInUse s p
  let noGate : Bool := lk || (!en && used)
  let noSrst : Bool := lk || used
  let s := setFreeze p (v.testBit 2) s
  let s := if gate && !noGate then setF p Reg.HDR_PAGE_CTL_ENABLE (if en then 1 else 0) s else s
  let s := if srst && !noSrst then softReset p s else s
  if (gate && noGate) || (srst && noSrst) then record p 0x05 s else s

/-- INT_FORCE: the INT_STAT bits set, without an error. -/
def intForce (p : Page) (v : Nat) (s : State) : State :=
  notifyEdge p s (setF p Reg.HDR_INT_STAT_BLOCK (getF s p Reg.HDR_INT_STAT_BLOCK ||| v % 2 ^ 31)
    (if v.testBit 31 then setF p Reg.HDR_INT_STAT_ERR 1 s else s))

/-- LOCK takes its key alone (R448). -/
def writeLock (p : Page) (v : Nat) (s : State) : State :=
  if v = 0x4C4B0001 then setF p Reg.HDR_LOCK 1 (setF p Reg.HDR_PAGE_STAT_LOCKED 1 s) else s

/-- Does a stroke of a held table belong to another partition than owner `o` and use the block (R449). -/
def ownerFails (s : State) (p : Page) (o : Nat) : Bool :=
  o ≠ 0xFF && (heldStrokes s).any (fun k => stPart k ≠ o && usesBlock s p k)

/-- A write of OWNER (R449): only a page with OWNED takes it. -/
def writeOwner (p : Page) (v : Nat) (s : State) : State :=
  let o := v % 256
  if pageCap p 2 = false then s
  else if locked s p then (if o = getF s p Reg.HDR_OWNER then s else record p 0x05 s)
  else if 15 < o ∧ o ≠ 0xFF then s
  else if ownerFails s p o then record p 0x0C s
  else setF p Reg.HDR_OWNER o s

/-- A write of a header word. -/
def writeHeader (p : Page) (off v : Nat) (s : State) : State :=
  if off = 0x0C then writePageCtl p v s
  else if off = 0x1C then intForce p v s
  else if off = 0x30 then writeLock p v s
  else if off = 0x34 then writeOwner p v s
  else if off = 0x14 ∨ off = 0x18 ∨ off = 0x20 ∨ off = 0x38 then notifyEdge p s (genWord p off v s)
  else s

/-! ### Copies (R308, R406) -/

/-- Is a copy of the block's own engines asked for by a GO: the channel's page, its start. -/
def markCopy (c : Nat) (s : State) : State := { s with dlk := { s.dlk with copies := c :: s.dlk.copies } }

/-- A DMA channel starts with GO, once for each copy: it copies LEN × 64 bytes, and reads host memory where DIR says so. A
LEN of 0 copies nothing and is outside its range. -/
def dmaStart (d : Nat) (s : State) : State :=
  let n := getFi s pgPcie Reg.PCIE_DMA_LEN d * 64
  if 4 ≤ d ∨ n = 0 ∨ s.mbx.dmaBusy.contains d then s
  else
    let s := setFi pgPcie Reg.PCIE_DMA_GO d 1 { s with mbx := { s.mbx with dmaBusy := d :: s.mbx.dmaBusy } }
    if flagI s pgPcie Reg.PCIE_DMA_DIR d then
      emit (.hostRead (get64 s pgPcie Reg.PCIE_DMA_HOST_LO Reg.PCIE_DMA_HOST_HI d) n) s
    else s

/-- A copy channel starts with GO (R406): the bytes of the local range go out, or are asked for; a fenced DEST stops it with
0x8E. -/
def copyStart (c : Nat) (s : State) : State :=
  let n := getFi s pgDlk Reg.DLK_CP_LEN c * 64
  let dest := getFi s pgDlk Reg.DLK_CP_DEST c
  let loc := getFi s pgDlk Reg.DLK_CP_LOCAL c * 64
  let far := getFi s pgDlk Reg.DLK_CP_REMOTE c * 64
  let tell := flagI s pgDlk Reg.DLK_CP_NOTIFY c
  if 8 ≤ c ∨ n = 0 ∨ s.dlk.copies.contains c then s
  else if fenced s dest then copyFenced c s
  else
    let s := setFi pgDlk Reg.DLK_CP_GO c 1 (markCopy c s)
    if flagI s pgDlk Reg.DLK_CP_DIR c then emit (.dlk dest (.read far n tell)) s
    else
      let r := devRead .dlk loc n s
      emit (.dlk dest (.write far r.1 tell)) r.2.2

/-! ### The words that start something, by page -/

/-- A write of a word of HUB_ID. -/
def writeHubId (who : Agent) (off v : Nat) (s : State) : State :=
  if off = 0x4C then writeRstCtl who v s
  else if off = 0x50 then
    let was := getF s pgHubId Reg.HUB_ID_WDOG_PERIOD
    let s := genWord pgHubId off v s
    if was = 0 ∧ getF s pgHubId Reg.HUB_ID_WDOG_PERIOD ≠ 0 then kickWdog s else s
  else if off = 0x54 then onBit v 0 kickWdog s
  else genWord pgHubId off v s

/-- A write of a word of CYC: RUN starts and stops the timebase (R53), PERIOD_NOM is read by admission. -/
def writeCyc (off v : Nat) (s : State) : State :=
  if off = 0x40 then
    let was := getF s pgCyc Reg.CYC_CTL_RUN
    let s := genWord pgCyc off (putBits v 0 1 was) s
    if v.testBit 0 then cycRun s else if was = 1 then cycStop s else s
  else if off = 0x44 ∧ cycState s = 0 then genWord pgCyc off v (advanceCfgGen s)
  else genWord pgCyc off v s

/-- A write of a word of SEQ: the requests of TBL_CTL in the order of their bits, and those of the island in charge. -/
def writeSeq (who : Agent) (off v : Nat) (s : State) : State :=
  if off = 0x40 then
    onBit v 4 seqStop (onBit v 3 swapCancel (onBit v 2 swapRequest (onBit v 1 tableAdmit (onBit v 0 tableLoad
      (genWord pgSeq off v s)))))
  else if off = 0x50 then onBit v 1 (islSwapCancel who) (onBit v 0 (islSwapRequest who) s)
  else genWord pgSeq off v s

/-- A write of a word of learned region n at offset `o` of its block. -/
def writeLreg (who : Agent) (n o v : Nat) (s : State) : State :=
  let off := 0x100 + n * 0x40 + o
  if o = 0x00 ∨ o = 0x04 then
    (if lregState s n = 0 then genWord pgAdm off v (advanceCfgGen s) else s)
  else if o = 0x08 then
    onBit v 12 (lregCkpt n) (onBit v 11 (lregRequest n .off) (onBit v 10 (lregRequest n .restore)
      (onBit v 9 (lregRequest n .freeze) (onBit v 8 (lregRequest n .opn) (genWord pgAdm off v s)))))
  else if o = 0x0C then lregVet who n (BitVec.ofNat 32 v) s
  else genWord pgAdm off v s

/-- A write of a word of BWREG: COMMIT (R289), and the words of masters 0 to 15 that admission reads (R86). -/
def writeBwreg (off v : Nat) (s : State) : State :=
  if off = 0x40 then onBit v 0 bwCommit (genWord pgBwreg off v s)
  else
    let o := (off - 0x100) % 0x40
    let reads := decide (0x100 ≤ off ∧ off < 0x500 ∧ (o = 0 ∨ (o % 8 = 4 ∧ o < 0x20)))
    genWord pgBwreg off v (if reads then advanceCfgGen s else s)

/-- A write of a word of CAP. -/
def writeCap (who : Agent) (off v : Nat) (s : State) : State :=
  if off = 0x40 then writeEnv (v % 4) s
  else if off = 0x44 then writeEnvIsl who (v % 4) s
  else if off = 0x4C then showLims (genWord pgCap off v s)
  else genWord pgCap off v s

/-- A write of a word of LDG. -/
def writeLdg (off v : Nat) (s : State) : State :=
  let s := genWord pgLdg off v s
  if off = 0x80 then onBit v 26 fwEntry (onBit v 25 fwRead (onBit v 24 fwWrite s))
  else if off = 0xA8 then onBit v 2 bootCancel (onBit v 1 bootConfirm (onBit v 0 bootTrial s))
  else s

/-- A write of a word of HLD: C_MEAS shows C_RATED until the first measurement (R393). -/
def writeHld (off v : Nat) (s : State) : State :=
  let s := genWord pgHld off v s
  if off = 0x50 then (if s.hld.measured then s else setF pgHld Reg.HLD_C_MEAS (getF s pgHld Reg.HLD_C_RATED) s)
  else if off = 0x60 then onBit v 0 clearDegraded s
  else s

/-- A write of a word of DLK. The cables that an enumeration finds come with ENUM_START. -/
def writeDlk (off v : Nat) (s : State) : State :=
  if off = 0x40 then dlkCtlWritten (genWord pgDlk off v s)
  else if 0x100 ≤ off ∧ off < 0x200 then writeXb ((off - 0x100) / 0x20) (off % 0x20) v s
  else
    let s := genWord pgDlk off v s
    if 0x300 ≤ off ∧ off < 0x400 ∧ off % 0x20 = 0x10 then onBit v 0 (copyStart ((off - 0x300) / 0x20)) s else s

/-- A write of a word of PCIE. -/
def writePcie (off v : Nat) (s : State) : State :=
  if off = 0x4C then (if flag s pgPcie Reg.PCIE_STAT_ROOT then intForce pgPcie 1 s else s)
  else
    let s := genWord pgPcie off v s
    if 0x100 ≤ off ∧ off < 0x180 ∧ off % 0x20 = 0x10 then onBit v 0 (dmaStart ((off - 0x100) / 0x20)) s else s

/-- A write of a word of ETH. -/
def writeEth (off v : Nat) (s : State) : State :=
  if off = 0x40 then ptpCtlWritten (genWord pgEth off v s)
  else if off = 0x4C then writePtpSet false v s
  else if off = 0x50 then writePtpSet true v s
  else if off = 0x80 then onBit v 16 mdioStart (genWord pgEth off v s)
  else
    let s := genWord pgEth off v s
    if 0x400 ≤ off ∧ off < 0x1000 ∧ (off - 0x400) % 0x300 = 0 then drainTx (onBit v 0 (qbvCommit ((off - 0x400) / 0x300)) s)
    else s

/-- Mallet answers no more until cold reset (R453). -/
def malletOff (s : State) : State :=
  setF pgDbg Reg.DBG_MAL_OFF 1 (setF pgDbg Reg.DBG_MAL_SESSION 0 s)

/-- A write of a word of CLAP, at the present instant. -/
def writeClapWord (who : Agent) (off v : Nat) (s : State) : State :=
  if off = 0x40 then onBit v 1 (clearSafe who) (onBit v 0 (releaseClap who s.io.now) s)
  else if off = 0x44 then showMon (genWord pgClap off v s)
  else if 0x54 ≤ off ∧ off ≤ 0x80 then writeClap who off v s.io.now s
  else s

/-- A write of a word of SCH of CD_d. -/
def writeSch (d off v : Nat) (s : State) : State :=
  if off = 0x48 then writeSleepPend d v s
  else genWord (pgSch d) off v (if 0x100 ≤ off ∧ off < 0x500 then advanceCfgGen s else s)

/-- A write by island i of a word of its own page. -/
def writeIsl (i off v : Nat) (s : State) : State :=
  if 0x80 ≤ off ∧ off < 0x180 ∧ off % 0x10 = 0 then writeWatch i ((off - 0x80) / 0x10) v s
  else
    let s := genWord (.isl i) off v s
    if off = 0x44 then
      let s := if islUp s i then onBit v 1 (dropHold i) s else s
      onBit v 3 (restartIsl i) (onBit v 2 (islSafeReq i s.io.now) (showValid i s))
    else s

/-- A write of a word of a page with W-link ports: RUN of a port's loop test. -/
def writePorts (p : Page) (off v : Nat) (s : State) : State :=
  let s := genWord p off v s
  match portAt p off with
  | some n => if (off - 0x80) % 0x20 = 0x18 then onBit v 2 (startLoopTest n) s else s
  | none => s

/-- What a write of a word from offset 0x040 on does, with the fields that the lock holds at their values. -/
def applyWord (who : Agent) (p : Page) (off v : Nat) (s : State) : State :=
  match p with
  | .hub n =>
    match blkOf p with
    | some .hubId => writeHubId who off v s
    | some .cyc => writeCyc off v s
    | some .seq => writeSeq who off v s
    | some .adm => if 0x100 ≤ off ∧ off < 0x300 then writeLreg who ((off - 0x100) / 0x40) (off % 0x40) v s else genWord p off v s
    | some .ing => if off ≤ 0x74 then writeIngCfg (n - 8) off v s else genWord p off v s
    | some .prt => if 0x100 ≤ off ∧ off < 0x900 then writePrt who ((off - 0x100) / 0x80) (off % 0x80) v s else genWord p off v s
    | some .bwreg => writeBwreg off v s
    | some .mbx => if 0x140 ≤ off ∧ off < 0x240 then chanWrite who ((off - 0x140) / 4) v s else genWord p off v s
    | some .intc => if 0x80 ≤ off ∧ off < 0x118 ∧ off % 8 = 0 then completeSource (v % 1024) s else genWord p off v s
    | some .core => if off = 0x40 then writeCoreRun (v % 256) s else genWord p off v s
    | some .vrc => if off = 0x4C then showPhase (n - 0x41) (genWord p off v s) else genWord p off v s
    | some .dvfs =>
      if 0x40 ≤ off ∧ off < 0x50 then
        writeFloor ((off - 0x40) / 4) (v / 256 % 16) (setFi p Reg.DVFS_OPC_REQ ((off - 0x40) / 4) v s)
      else genWord p off v s
    | some .cap => writeCap who off v s
    | some .ldg => writeLdg off v s
    | some .hld => writeHld off v s
    | some .dlk => writeDlk off v s
    | some .uci => if off = 0x40 then onBit v 0 uciStart s else genWord p off v s
    | some .wlk => writePorts p off v s
    | some .pcie => writePcie off v s
    | some .eth => writeEth off v s
    | some .sec => if off = 0x50 then writeRevoke (v % 16) s else genWord p off v s
    | some .dbg => if off = 0x44 then onBit v 8 malletOff s else genWord p off v s
    | some .clap => writeClapWord who off v s
    | _ => genWord p off v s
  | .cd d n =>
    match blkOf p with
    | some .sch => writeSch d off v s
    | some .qnt => if off = 0x40 then reqTrackerInit d v s else genWord p off v s
    | some .wlkd => writePorts p off v s
    | some .pe => if off = 0x60 then onBit v 0 (startEngTest d (n - 0x20)) s else genWord p off v s
    | _ => genWord p off v s
  | .isl i => writeIsl i off v s
  | .wlki _ => writePorts p off v s

/-- A write of a word of a page. -/
def pageWrite (who : Agent) (p : Page) (off v : Nat) (s : State) : State :=
  if off < 0x40 then writeHeader p off v s else underLock p off v (applyWord who p off) s

/-! ### The access -/

/-- Is a page one to which host writes are refused (R307). -/
def hostDenied : Page → Bool
  | .hub n => n = 0x50 || n = 0x60 || n = 0x61 || n = 0x62
  | .isl _ => true
  | .wlki _ => true
  | .cd _ _ => false

/-- Is a page in an island window that `who` may not write: any but the island's own (R442). -/
def islandForeign (who : Agent) : Page → Bool
  | .isl i => who ≠ .island i
  | .wlki i => who ≠ .island i
  | _ => false

/-- A write by `who` of the word at offset `off` of a page, past the access path: was it performed, and the state after. -/
def controlWrite (who : Agent) (p : Page) (off v : Nat) (s : State) : Bool × State :=
  let a := pageBase p + off
  if who = .host ∧ hostDenied p then (true, recordAt pgHubId 0x06 (a / 64) 0xFF s)
  else if islandForeign who p then (false, recordAt pgHubId 0x05 (a / 64) 0xFF s)
  else (true, pageWrite who p off v s)

/-- A write by `who`: was it performed, and the state after it. The partner die's memory is not this device's. -/
def devWrite (who : Agent) (a : Nat) (bytes : List Byte) (s : State) : Bool × State :=
  match refuse who true a bytes.length s with
  | some t => (false, t)
  | none =>
    if regionOf a = .control then
      match target s a with
      | .inr (p, off) => controlWrite who p off (leNat bytes) s
      | .inl _ => (false, s)
    else if regionOf a = .partner then (true, s)
    else
      let r := storeDev a bytes ((partOf who).getD 0xFF) s
      (r.1, if r.1 then chargeMem (masterNo who) (partOf who) a bytes.length r.2 else r.2)

/-- A write by `who` of one register, with its answer. -/
def regWrite (who : Agent) (a v : Nat) (s : State) : State :=
  let r := devWrite who a (leBytes 4 v) s
  answer [] r.1 false r.2

/-! ### The commands -/

/-- REGISTER_WRITE (R14). -/
def execRegisterWrite (by_ : Agent) (addr : Nat) (v : Word) (s : State) : Host.Outcome State Fault Refusal :=
  .next (regWrite by_ addr v.toNat s)

/-- DEVICE_ACCESS (R279). -/
def execDeviceAccess (by_ : Agent) (addr len : Nat) (wr : Option (List Byte)) (s : State) : Host.Outcome State Fault Refusal :=
  .next (
    match wr with
    | none =>
      let r := devRead by_ addr len s
      answer r.1 r.2.1 false r.2.2
    | some b =>
      let r := devWrite by_ addr b s
      answer [] r.1 false r.2)

/-- PAGE_LOCK (R448). -/
def execPageLock (by_ : Agent) (pg : Page) (v : Word) (s : State) : Host.Outcome State Fault Refusal :=
  .next (regWrite by_ (pageBase pg + 0x30) v.toNat s)

/-- The bits of PAGE_CTL that stand, ENABLE and FREEZE, through a page window if `pg` is one. -/
def pageCtlNow (s : State) (pg : Page) : Nat :=
  match target s (pageBase pg + 0x0C) with
  | .inr (p, _) => getF s p Reg.HDR_PAGE_CTL_ENABLE + 4 * getF s p Reg.HDR_PAGE_CTL_FREEZE
  | .inl _ => 0

/-- PAGE_SOFT_RESET (R447): SOFT_RESET is written with the page's other control bits as they are. -/
def execPageSoftReset (by_ : Agent) (pg : Page) (s : State) : Host.Outcome State Fault Refusal :=
  .next (regWrite by_ (pageBase pg + 0x0C) (pageCtlNow s pg ||| 2) s)

/-- PAGE_ENABLE_WRITE (R448). -/
def execPageEnableWrite (by_ : Agent) (pg : Page) (en : Bool) (s : State) : Host.Outcome State Fault Refusal :=
  .next (regWrite by_ (pageBase pg + 0x0C) (putBits (pageCtlNow s pg) 0 1 (if en then 1 else 0)) s)

/-- PAGE_FREEZE (R450). -/
def execPageFreeze (by_ : Agent) (pg : Page) (fr : Bool) (s : State) : Host.Outcome State Fault Refusal :=
  .next (regWrite by_ (pageBase pg + 0x0C) (putBits (pageCtlNow s pg) 2 1 (if fr then 1 else 0)) s)

/-- INT_FORCE (R444). -/
def execIntForce (by_ : Agent) (pg : Page) (mask : Word) (s : State) : Host.Outcome State Fault Refusal :=
  .next (regWrite by_ (pageBase pg + 0x1C) mask.toNat s)

/-- OWNER_WRITE (R449). -/
def execOwnerWrite (by_ : Agent) (pg : Page) (owner : Byte) (s : State) : Host.Outcome State Fault Refusal :=
  .next (regWrite by_ (pageBase pg + 0x34) owner.toNat s)

/-- MALLET_OFF_WRITE (R453). -/
def execMalletOffWrite (by_ : Agent) (s : State) : Host.Outcome State Fault Refusal :=
  .next (regWrite by_ (pageBase pgDbg + 0x44) 0x100 s)

end Sys2Proof.Machine
end

