-- ==== Sys2Proof/Machine/Mallet.lean ====
section
/-! DEFINITION. The Mallet monitor on UART_MON (chapter 18): sessions, permissions, the commands of a line with the replies that
they send, and the unlock. -/

namespace Sys2Proof.Machine

open Sys2Proof

/-- Change the state of Mallet. -/
def modMal (f : Mal → Mal) (s : State) : State := { s with mal := f s.mal }

/-! ### Text -/

/-- The bytes of a text. -/
def text (t : String) : List Byte := t.toList.map (fun c => BitVec.ofNat 8 c.toNat)

/-- A hexadecimal digit. -/
def hexDigit (n : Nat) : Byte := BitVec.ofNat 8 (if n < 10 then 48 + n else 55 + n)

/-- The low `n` hexadecimal digits of a number. -/
def hexDigits : Nat → Nat → List Byte
  | 0, _ => []
  | n + 1, v => hexDigits n (v / 16) ++ [hexDigit (v % 16)]

/-- `k` groups of four digits with underscores between them. -/
def hexQuads : Nat → Nat → List Byte
  | 0, _ => []
  | k + 1, v => hexQuads k (v / 65536) ++ (if k = 0 then [] else text "_") ++ hexDigits 4 (v % 65536)

/-- A 32-bit word as replies show it. -/
def hexWord (v : Nat) : List Byte := text "0x" ++ hexQuads 2 v

/-- A byte as replies show it. -/
def hexByte (v : Nat) : List Byte := text "0x" ++ hexDigits 2 v

/-- A device address as replies show it. -/
def hexAddr (a : Nat) : List Byte := text "0x" ++ hexDigits 2 (a / 2 ^ 32) ++ text "_" ++ hexQuads 2 a

/-- A number in decimal. -/
def decText (n : Nat) : List Byte := text (toString n)

/-- The end of a line. -/
def eol : List Byte := [13, 10]

/-- The bits of a mask, most significant first. -/
def binText : Nat → Nat → List Byte
  | 0, _ => []
  | n + 1, v => binText n (v / 2) ++ (if v % 2 = 1 then text "1" else text "0")

/-- A name out of a list. -/
def nameOf (l : List String) (i : Nat) : List Byte := text (l.getD i "?")

/-! ### Lines, sessions and status -/

/-- Does Mallet answer no more (R456). -/
def malStopped (s : State) : Bool := flag s pgDbg Reg.DBG_MAL_OFF

/-- The session: 0 IDLE, 1 OPEN, 2 UNLOCKED (R455). -/
def session (s : State) : Nat := getF s pgDbg Reg.DBG_MAL_SESSION

/-- The session moves. -/
def setSession (v : Nat) (s : State) : State := setF pgDbg Reg.DBG_MAL_SESSION v s

/-- A reply: its lines, the status line and the prompt; nothing once Mallet is off. -/
def reply (body status : List Byte) (s : State) : State :=
  if malStopped s then s else emit (.uart (body ++ status ++ eol ++ text "mallet> ")) s

/-- The status lines. -/
def stOk : List Byte := text "OK"
/-- Status E1 to E7. -/
def stE (n : Nat) : List Byte := text "E" ++ decText n

/-- A complete line has been received: the session opens if it was IDLE, and the command acts, unless Mallet is off. -/
def onLine (f : State → State) (s : State) : State :=
  if malStopped s then s
  else
    let s := modMal (fun m => { m with lineAt := s.io.now, buf := [], drop := false }) s
    f (if session s = 0 then setSession 1 s else s)

/-- Is the lifecycle state PRODUCTION. -/
def production (s : State) : Bool := lcState s = 2

/-- Is a command that needs an unlocked session in PRODUCTION refused with E3 (R458). -/
def needsUnlock (s : State) : Bool := production s && session s ≠ 2

/-- A command that needs it acts only in an unlocked session. -/
def ifUnlocked (f : State → State) (s : State) : State := if needsUnlock s then reply [] (stE 3) s else f s

/-- A command that writes also needs the sequencer IDLE in PRODUCTION, else E5. -/
def ifWritable (f : State → State) (s : State) : State :=
  ifUnlocked (fun s => if production s ∧ seqState s ≠ 0 then reply [] (stE 5) s else f s) s

/-! ### HELP, ID, STAT -/

/-- The command names with what permits each: 0 always, 1 unlocked in PRODUCTION, 2 never in PRODUCTION, 3 in RETURNED only. -/
def commandNames : List (String × Nat) :=
  [("HELP", 0), ("ID", 0), ("STAT", 0), ("RD", 1), ("WR", 1), ("MD", 1), ("MW", 1), ("ERR", 1), ("LOG", 1), ("BAUD", 0),
   ("UNLOCK", 0), ("LOCK", 0), ("CALIB", 2), ("CENSUS", 3), ("RESET", 1), ("OFF", 0)]

/-- Is a command of a kind permitted in the lifecycle state and session. -/
def permitted (s : State) (k : Nat) : Bool :=
  if k = 0 then true else if k = 1 then !needsUnlock s else if k = 2 then !production s else lcState s = 3

/-- HELP: the names of the commands permitted. -/
def malHelp (s : State) : State :=
  reply ((commandNames.filter (fun c => permitted s c.2)).flatMap (fun c => text c.1 ++ eol)) stOk s

/-- ID. -/
def malId (s : State) : State :=
  let v := if getF s pgHubId Reg.HUB_ID_PART_VARIANT = 1 then text "-P" else []
  reply (text "LK-9680" ++ v ++ text " STEP 0x" ++ hexDigits 1 (getF s pgHubId Reg.HUB_ID_PART_STEP) ++ text " SERIAL 0x" ++
    hexQuads 4 (hubSerial s) ++ text " LC " ++ nameOf ["BLANK", "DEVELOP", "PRODUCTION", "RETURNED"] (lcState s) ++ eol) stOk s

/-- STAT. -/
def malStat (s : State) : State :=
  let st := clapState s
  reply (text "STAGE " ++ nameOf ["SUPPLY", "ROM", "RECOVER", "CENSUS", "IMAGE", "HANDOFF"] (bootStage s) ++
    (if bootStopped s then text " STOPPED" else []) ++
    text " DIE_SVC 0b" ++ binText 4 (getF s pgHubId Reg.HUB_ID_BOOT_STAT_DIE_SVC) ++
    text " SI_A " ++ decText (getF s pgHubId Reg.HUB_ID_BOOT_STAT_SI_A) ++
    text " SI_B " ++ decText (getF s pgHubId Reg.HUB_ID_BOOT_STAT_SI_B) ++
    text " CLAP " ++ nameOf ["FREE", "HELD", "OFFERED", "GRANTING", "LAPSED"] st ++
    (if st = 1 ∨ st = 2 then text " " ++ nameOf ["SI_A", "SI_B"] (clapHolder s) else []) ++
    text " SEQ " ++ nameOf ["IDLE", "ARMED", "RUNNING", "SUSPENDED"] (seqState s) ++
    text " CYC " ++ nameOf ["OFF", "ACQUIRE", "LOCKED", "HOLDOVER", "LOST"] (cycState s) ++
    text " ENV " ++ nameOf ["QUIET", "STANDARD", "FULL"] (getF s pgCap Reg.CAP_STAT_ENV) ++ eol) stOk s

/-! ### RD, MD, WR, MW, ERR -/

/-- The reads of a dump, in order: the text and whether each was performed. A word not performed is shown as zero and marked;
every eighth begins a line with its address. The words are of `sz` bytes, the last as many as are left. -/
def dump : Nat → Nat → Nat → Nat → State → List Byte × Bool × State
  | 0, _, _, _, s => ([], true, s)
  | k + 1, i, a, left, s =>
    if left = 0 then ([], true, s)
    else
      let n := Nat.min 4 left
      let r := devRead .mallet a n s
      let hd := if i % 8 = 0 then (if i = 0 then [] else eol) ++ hexAddr a ++ text ":" else []
      let w := text " " ++ (if n = 4 then hexWord (leNat r.1) else text "0x" ++ hexDigits (2 * n) (leNat r.1)) ++
        (if r.2.1 then [] else text "!")
      let t := dump k (i + 1) (a + n) (left - n) r.2.2
      (hd ++ w ++ t.1, r.2.1 && t.2.1, t.2.2)

/-- A dump of `n` bytes from `a` as a reply. -/
def dumpReply (a n : Nat) (s : State) : State :=
  let r := dump ((n + 3) / 4) 0 a n s
  reply (r.1 ++ eol) (if r.2.1 then stOk else stE 4) r.2.2

/-- RD: `n` words from `a`. -/
def malRd (a n : Nat) (s : State) : State :=
  if a % 4 ≠ 0 ∨ n = 0 ∨ 64 < n then reply [] (stE 1) s else ifUnlocked (dumpReply a (4 * n)) s

/-- MD: `n` bytes from `a`. -/
def malMd (a n : Nat) (s : State) : State :=
  if a % 4 ≠ 0 ∨ n = 0 ∨ 4096 < n then reply [] (stE 1) s else ifUnlocked (dumpReply a n) s

/-- How many codes the page of a control address has recorded. -/
def pageErrs (s : State) (a : Nat) : Nat :=
  match target s a with
  | .inr (p, _) => if regionOf a = .control then getF s p Reg.HDR_ERR_CNT else 0
  | .inl _ => 0

/-- A write of a word by Mallet: the state after it, and whether it was performed. It was not where the path refuses it, or
where the addressed block records a code for it. -/
def malStore (a v : Nat) (s : State) : Bool × State :=
  let r := devWrite .mallet a (leBytes 4 v) s
  (r.1 && pageErrs r.2 a = pageErrs s a, r.2)

/-- WR and MW: the write, then the word read back, or E4. -/
def storeReply (a v : Nat) (s : State) : State :=
  let r := malStore a v s
  if r.1 then dumpReply a 4 r.2 else reply [] (stE 4) r.2

/-- WR. -/
def malWr (a v : Nat) (s : State) : State := if a % 4 ≠ 0 then reply [] (stE 1) s else ifWritable (storeReply a v) s

/-- MW: an address outside the control region. -/
def malMw (a v : Nat) (s : State) : State :=
  if a % 4 ≠ 0 ∨ regionOf a = .control then reply [] (stE 1) s else ifWritable (storeReply a v) s

/-- Four header words of the page at `a`, as ERR reads them. -/
def errShow (a : Nat) (s : State) : List Byte × Bool × State :=
  let r1 := devRead .mallet (a + 0x20) 4 s
  let r2 := devRead .mallet (a + 0x28) 4 r1.2.2
  let r3 := devRead .mallet (a + 0x24) 4 r2.2.2
  let r4 := devRead .mallet (a + 0x2C) 4 r3.2.2
  let i := leNat r2.1
  (text "ERR_STAT " ++ hexWord (leNat r1.1) ++ text " FIRST " ++ hexByte (i % 256) ++ text " LAST " ++ hexByte (i / 256 % 256) ++
    text " PART " ++ hexByte (i / 65536 % 256) ++ text " ERR_ADDR " ++ hexWord (leNat r3.1) ++ text " ERR_CNT " ++
    decText (leNat r4.1) ++ eol, r1.2.1 && r2.2.1 && r3.2.1 && r4.2.1, r4.2.2)

/-- ERR: the error capture of the page at base address `a`; CLR then clears ERR_STAT. -/
def malErr (a : Nat) (clr : Bool) (s : State) : State :=
  if a % 4096 ≠ 0 ∨ regionOf a ≠ .control then reply [] (stE 1) s
  else
    let show_ := fun (s : State) =>
      let r := errShow a s
      let w := if clr then malStore (a + 0x20) 3 r.2.2 else (true, r.2.2)
      reply r.1 (if r.2.1 && w.1 then stOk else stE 4) w.2
    if clr then ifWritable show_ s else ifUnlocked show_ s

/-! ### LOG and BAUD -/

/-- Put a fault ring record in its place, newest first. -/
def insertRec (x : LdgRec) : List LdgRec → List LdgRec
  | [] => [x]
  | y :: r => if y.seq ≤ x.seq then x :: y :: r else y :: insertRec x r

/-- The entries of the fault ring, newest first. -/
def ringEntries (s : State) : List LdgEntry :=
  let l := (List.range 256).filterMap (fun k => match recOf s (640 + k) with | some x => if x.ok then some x else none | none => none)
  (l.foldl (fun m x => insertRec x m) []).flatMap (fun x => x.ents.reverse)

/-- An entry as LOG shows it: time, bar, code, page, die code, COUNT. -/
def logLine (e : LdgEntry) : List Byte :=
  hexQuads 4 (unsint 64 e.time) ++ text " " ++ decText e.bar ++ text " " ++ hexByte ((e.data.getD 0 0).toNat) ++ text " " ++
    hexByte ((e.data.getD 1 0).toNat) ++ text " " ++ hexByte ((e.data.getD 2 0).toNat) ++ text " " ++ decText e.count ++ eol

/-- LOG: the newest `n` entries. -/
def malLog (n : Nat) (s : State) : State :=
  if n = 0 ∨ 62 < n then reply [] (stE 1) s
  else ifUnlocked (fun s => reply (((ringEntries s).take n).flatMap logLine) stOk s) s

/-- The divisor in sixteenths nearest to a rate: of the two around 1,600,000,000 / r the one whose rate is nearer to r. -/
def baudDiv (r : Nat) : Nat :=
  let x := 1600000000 / r
  let lo : Int := 1600000000 - r * x
  let hi : Int := r * (x + 1) - 1600000000
  if lo * (x + 1) ≤ hi * x then x else x + 1

/-- BAUD. A rate outside what DIV and FRAC can give is out of range. -/
def malBaud (r : Nat) (s : State) : State :=
  if r = 0 then reply [] (stE 1) s
  else
    let x := baudDiv r
    if x < 528 ∨ 1048575 < x then reply [] (stE 1) s
    else if locked s pgDbg then reply [] (stE 4) s
    else
      reply (decText (1600000000 / x) ++ eol) stOk
        (setF pgDbg Reg.DBG_UART_DIV (x / 16) (setF pgDbg Reg.DBG_UART_FRAC (x % 16) s))

/-! ### Unlock (R460, R461) -/

/-- An UNLOCK command is refused: E6, counted, the nonce spent. -/
def unlockRefused (s : State) : State :=
  reply [] (stE 6) (modMal (fun m => { m with nonce := none, slot := none, proof := [], fails := m.fails + 1 }) s)

/-- After three E6 every UNLOCK command is answered with E6; outside PRODUCTION it needs no proof (R455, R461). -/
def unlocking (f g : State → State) (s : State) : State :=
  if production s = false then f s else if 3 ≤ s.mal.fails then unlockRefused s else g s

/-- UNLOCK without a proof: the session is UNLOCKED. -/
def unlockFree (s : State) : State := reply [] stOk (setSession 2 s)

/-- UNLOCK: a challenge with a new nonce. -/
def challenge (s : State) : State :=
  let n := Config.nonce s.mal.nonces
  let s := modMal (fun m => { m with nonce := some (m.nonces, s.io.now), nonces := m.nonces + 1, slot := none, proof := [] }) s
  reply (text "CHAL " ++ hexQuads 4 (beNat (n.take 8)) ++ eol) stOk s

/-- Is a proof accepted: the slot provisioned and unrevoked, keys and signatures good, the byte count exact, and in time. -/
def proofOk (s : State) (sigOk keyOk : Bool) : Bool :=
  match s.mal.nonce, s.mal.slot with
  | some (_, t0), some k =>
    decide (s.io.now ≤ t0 + 60000000000) && (getF s pgSec Reg.SEC_KEYS_OWNER).testBit k &&
      !(getF s pgSec Reg.SEC_KEYS_REVOKED).testBit k && sigOk && keyOk &&
      s.mal.proof.length = (if flag s pgSec Reg.SEC_KEYS_HYBRID then 7412 else 193)
  | _, _ => false

/-- UNLOCK END. -/
def unlockEnd (sigOk keyOk : Bool) (s : State) : State :=
  if proofOk s sigOk keyOk then
    reply [] stOk (setSession 2 (modMal (fun m => { m with nonce := none, slot := none, proof := [] }) s))
  else unlockRefused s

/-! ### CALIB, CENSUS, RESET, OFF -/

/-- An object commit for Mallet under R383: OK, or E7 with the code that the ledger records. -/
def malCommit (j : LdgJob) (s : State) : State :=
  if mayWrite s then reply [] stOk (commit j s) else reply [] (stE 7 ++ text " 0x70") (record pgLdg 0x70 s)

/-- Free words for the fields that a CALIB object gives: the spec does not lay its payload out. -/
def calibFree : List Nat → State → List (Nat × Word) × State
  | [], s => ([], s)
  | a :: r, s =>
    let x := drawFree 32 s
    let y := calibFree r x.2
    ((a, BitVec.ofNat 32 x.1) :: y.1, y.2)

/-- CALIB: never in PRODUCTION. -/
def malCalib (a len : Nat) (s : State) : State :=
  if len = 0 ∨ 3968 < len ∨ a < 0x04000000 ∨ 0x06000000 < a + len then reply [] (stE 1) s
  else if production s then reply [] (stE 2) s
  else if mayWrite s = false then malCommit ⟨0x15, 0, 0, [], [], none, .other⟩ s
  else
    let w := calibFree calibWords s
    malCommit ⟨0x15, 0, 0, memBytes s a len, [⟨0x15, 0, 1, 0, 0, [], w.1⟩], none, .other⟩ w.2

/-- The dies found at the last discovery. -/
def foundDies (s : State) : List (Nat × Nat × Nat × Nat) :=
  (List.range 6).filterMap (fun p =>
    (s.links.replies.find? (fun e => e.1 = p)).map (fun e => (p, e.2.serial, e.2.step, e.2.bin)))

/-- CENSUS: in RETURNED only (R430). -/
def malCensus (s : State) : State :=
  if lcState s = 3 then malCommit ⟨0x10, 0, 0, censusBytes (foundDies s), [], none, .other⟩ s else reply [] (stE 2) s

/-! ### The commands -/

/-- MALLET_BAD_LINE (R453, R459). -/
def execMalletBadLine (s : State) : Host.Outcome State Fault Refusal := .next (onLine (reply [] (stE 1)) s)

/-- MALLET_SESSION_TIMEOUT (R455): 600 s without a received line. -/
def execMalletSessionTimeout (t : Nat) (s : State) : Host.Outcome State Fault Refusal :=
  .next (
    let s := at_ t s
    if session s ≠ 0 ∧ s.mal.lineAt + 600000000000 ≤ s.io.now then
      setSession 0 (modMal (fun m => { m with nonce := none, slot := none, proof := [] }) s)
    else s)

/-- MALLET_HELP (R458). -/
def execMalletHelp (s : State) : Host.Outcome State Fault Refusal := .next (onLine malHelp s)

/-- MALLET_ID (R458). -/
def execMalletId (s : State) : Host.Outcome State Fault Refusal := .next (onLine malId s)

/-- MALLET_STAT (R458). -/
def execMalletStat (s : State) : Host.Outcome State Fault Refusal := .next (onLine malStat s)

/-- MALLET_RD (R459). -/
def execMalletRd (a n : Nat) (s : State) : Host.Outcome State Fault Refusal := .next (onLine (malRd a n) s)

/-- MALLET_WR (R459). -/
def execMalletWr (a : Nat) (v : Word) (s : State) : Host.Outcome State Fault Refusal := .next (onLine (malWr a v.toNat) s)

/-- MALLET_MD (R459). -/
def execMalletMd (a n : Nat) (s : State) : Host.Outcome State Fault Refusal := .next (onLine (malMd a n) s)

/-- MALLET_MW (R459). -/
def execMalletMw (a : Nat) (v : Word) (s : State) : Host.Outcome State Fault Refusal := .next (onLine (malMw a v.toNat) s)

/-- MALLET_ERR (R458). -/
def execMalletErr (a : Nat) (clr : Bool) (s : State) : Host.Outcome State Fault Refusal := .next (onLine (malErr a clr) s)

/-- MALLET_LOG (R458). -/
def execMalletLog (n : Nat) (s : State) : Host.Outcome State Fault Refusal := .next (onLine (malLog n) s)

/-- MALLET_BAUD (R458). -/
def execMalletBaud (r : Nat) (s : State) : Host.Outcome State Fault Refusal := .next (onLine (malBaud r) s)

/-- MALLET_UNLOCK (R460). -/
def execMalletUnlock (t : Nat) (s : State) : Host.Outcome State Fault Refusal :=
  .next (onLine (unlocking unlockFree challenge) (at_ t s))

/-- MALLET_UNLOCK_KEY (R460): a slot above 3 is out of range. -/
def execMalletUnlockKey (k : Nat) (s : State) : Host.Outcome State Fault Refusal :=
  .next (onLine (fun s =>
    if 3 < k then reply [] (stE 1) s
    else unlocking unlockFree (fun s => reply [] stOk (modMal (fun m => { m with slot := some k }) s)) s) s)

/-- MALLET_UNLOCK_DATA (R460): at most 48 bytes a line. -/
def execMalletUnlockData (h : List Byte) (s : State) : Host.Outcome State Fault Refusal :=
  .next (onLine (fun s =>
    if h = [] ∨ 48 < h.length then reply [] (stE 1) s
    else unlocking unlockFree (fun s => reply [] stOk (modMal (fun m => { m with proof := m.proof ++ h }) s)) s) s)

/-- MALLET_UNLOCK_END (R460). -/
def execMalletUnlockEnd (sigOk keyOk : Bool) (t : Nat) (s : State) : Host.Outcome State Fault Refusal :=
  .next (onLine (unlocking unlockFree (unlockEnd sigOk keyOk)) (at_ t s))

/-- MALLET_LOCK (R455). -/
def execMalletLock (s : State) : Host.Outcome State Fault Refusal :=
  .next (onLine (fun s => reply [] stOk (setSession 1 (modMal (fun m => { m with nonce := none, slot := none, proof := [] }) s))) s)

/-- MALLET_CALIB (R458). -/
def execMalletCalib (a len : Nat) (s : State) : Host.Outcome State Fault Refusal := .next (onLine (malCalib a len) s)

/-- MALLET_CENSUS (R430). -/
def execMalletCensus (s : State) : Host.Outcome State Fault Refusal := .next (onLine malCensus s)

/-- MALLET_RESET (R458): the status line, then a cold reset. -/
def execMalletReset (s : State) : Host.Outcome State Fault Refusal :=
  .next (onLine (ifUnlocked (fun s => coldReset 2 s.boot.porst false (reply [] stOk s))) s)

/-- MALLET_OFF (R456): the status line, then MAL.OFF. -/
def execMalletOff (s : State) : Host.Outcome State Fault Refusal :=
  .next (onLine (fun s => malletOff (reply [] stOk s)) s)

/-- RECEIVED_CHARACTER (R453): echoed and buffered; a framing error, and a character for which the line has no room, count in
RX_ERR. CR ends the line, an LF behind it is ignored. What the ended line says is the command of that line. -/
def execReceivedCharacter (c : Byte) (framing : Bool) (t : Nat) (s : State) : Host.Outcome State Fault Refusal :=
  .next (
    let s := at_ t s
    if malStopped s then s
    else if framing then bump pgDbg Reg.DBG_RX_ERR 1 s
    else
      let s := emit (.uart [c]) s
      if c = 13 then modMal (fun m => { m with buf := [], drop := false, cr := true }) s
      else if c = 10 ∧ s.mal.cr then modMal (fun m => { m with cr := false }) s
      else
        let s := modMal (fun m => { m with cr := false }) s
        if s.mal.drop then s
        else if s.mal.buf.length < 256 then modMal (fun m => { m with buf := m.buf ++ [c] }) s
        else bump pgDbg Reg.DBG_RX_ERR 1 (modMal (fun m => { m with buf := [], drop := true }) s))

end Sys2Proof.Machine
end

