-- ==== Sys2Proof/Machine/Copies.lean ====
section
/-! DEFINITION. Accesses that cross the edge of the device: copies between devices and remote accesses (R406, R407), the host's
BARs, the DMA channels and the root port (R306 to R310). -/

namespace Sys2Proof.Machine

open Sys2Proof

/-! ### Copies between devices (R406, R407) -/

/-- The bits of a copy or DMA control word that a start keeps: DIR, and NOTIFY of a copy. -/
def startWord (dir tell : Bool) : Nat := 1 + (if dir then 2 else 0) + (if tell then 4 else 0)

/-- COPY_START (R406): GO is written with the channel's other bits as they are. -/
def execCopyStart (by_ : Agent) (c : Nat) (s : State) : Host.Outcome State Fault Refusal :=
  .next (
    if c < 8 then
      regWrite by_ (fieldAddr pgDlk Reg.DLK_CP_GO c 0)
        (startWord (flagI s pgDlk Reg.DLK_CP_DIR c) (flagI s pgDlk Reg.DLK_CP_NOTIFY c)) s
    else s)

/-- The copy of channel c ends: the bytes read from the remote device land, GO clears and DONE sets. -/
def copyEnds (c : Nat) (bytes : List Byte) (s : State) : State :=
  let s := if flagI s pgDlk Reg.DLK_CP_DIR c then (devWrite .dlk (getFi s pgDlk Reg.DLK_CP_LOCAL c * 64) bytes s).2 else s
  setFi pgDlk Reg.DLK_CP_DONE c 1 (setFi pgDlk Reg.DLK_CP_GO c 0
    { s with dlk := { s.dlk with copies := s.dlk.copies.filter (fun x => decide (x ≠ c)) } })

/-- COPY_DONE (R406): the copy ends, or an ERROR response stops it and its code is recorded. A read ends with the bytes of its
whole range. -/
def execCopyDone (c : Nat) (bytes : List Byte) (err : Option Nat) (s : State) : Host.Outcome State Fault Refusal :=
  .next (
    if s.dlk.copies.contains c then
      match err with
      | some e => record pgDlk e (copyFails c s)
      | none =>
        if flagI s pgDlk Reg.DLK_CP_DIR c ∧ bytes.length ≠ getFi s pgDlk Reg.DLK_CP_LEN c * 64 then s else copyEnds c bytes s
    else s)

/-- Does an inbound window cover an access (R407). -/
def inboundOk (s : State) (a len : Nat) (wr : Bool) : Bool :=
  (List.range 8).any (fun w =>
    flagI s pgDlk Reg.DLK_IN_VALID w && (!wr || flagI s pgDlk Reg.DLK_IN_WR w) &&
      decide (getFi s pgDlk Reg.DLK_IN_BASE w * 4096 ≤ a ∧
        a + len ≤ (getFi s pgDlk Reg.DLK_IN_BASE w + getFi s pgDlk Reg.DLK_IN_LEN w) * 4096))

/-- A refused remote access: an ERROR response, and 0x8F. -/
def remoteRefused (src a : Nat) (s : State) : State :=
  recordAt pgDlk 0x8F (a / 64) 0xFF (emit (.dlk src (.error 0x8F)) s)

/-- REMOTE_ACCESS (R407); the traffic of a fenced device is discarded (R414). -/
def execRemoteAccess (src addr len : Nat) (wr : Option (List Byte)) (notify : Bool) (s : State) :
    Host.Outcome State Fault Refusal :=
  .next (
    if fenced s src then s
    else
      match wr with
      | none =>
        if inboundOk s addr len false then
          let r := devRead .dlk addr len s
          if r.2.1 then emit (.dlk src (.response r.1)) (if notify then intForce pgDlk 2 r.2.2 else r.2.2)
          else remoteRefused src addr r.2.2
        else remoteRefused src addr s
      | some b =>
        if inboundOk s addr b.length true then
          let r := devWrite .dlk addr b s
          if r.1 then emit (.dlk src (.response [])) (if notify then intForce pgDlk 2 r.2 else r.2)
          else remoteRefused src addr r.2
        else remoteRefused src addr s)

/-! ### The host's BARs (R306, R307) -/

/-- Does a host access to device addresses complete as Completer Abort: what R279 or R215 refuses, and the ERROR response of a
failed stack. -/
def hostAborts (s : State) (a len : Nat) (wr : Bool) : Bool :=
  match accessRefusal s false a len with
  | some c => c = 0x09 || c = 0x08
  | none => wr && regionOf a ≠ .control && lregRefuses s a len

/-- A host access to device addresses. -/
def hostDev (a len : Nat) (wr : Option (List Byte)) (s : State) : State :=
  match wr with
  | none =>
    let r := devRead .host a len s
    answer r.1 r.2.1 (hostAborts s a len false) r.2.2
  | some b =>
    let r := devWrite .host a b s
    answer [] r.1 (hostAborts s a b.length true) r.2

/-- The bytes of the MSI-X table and pending-bit array from an offset on. -/
def msixBytes (s : State) (off : Nat) : Nat → List Byte
  | 0 => []
  | n + 1 => sparseGet memDefault s.boot.msixTable off :: msixBytes s (off + 1) n

/-- Write them. -/
def msixWrite (off : Nat) : List Byte → State → State
  | [], s => s
  | b :: r, s => msixWrite (off + 1) r (modBoot (fun x => { x with msixTable := sparsePut memDefault x.msixTable off b }) s)

/-- HOST_ACCESS (R307): BAR0 maps the control region, BAR2 the other device addresses, BAR4 the MSI-X table. A root port
presents no BARs (R310). -/
def execHostAccess (bar off len : Nat) (wr : Option (List Byte)) (s : State) : Host.Outcome State Fault Refusal :=
  .next (
    let n := match wr with | some b => b.length | none => len
    if flag s pgPcie Reg.PCIE_STAT_ROOT then s
    else if bar = 0 ∧ off + n ≤ 0x40000000 then hostDev (0x40000000 + off) n wr s
    else if bar = 2 ∧ off + n ≤ 0x4000000000 then
      (if (touched off n).any (fun x => decide (x.2.2 = .control)) then
        answer (if wr = none then List.replicate n 0 else []) false true (recordAt pgHubId 0x09 (off / 64) 0xFF s)
      else hostDev off n wr s)
    else if bar = 4 ∧ off + n ≤ 0x10000 then
      (match wr with
      | none => answer (msixBytes s off n) true false s
      | some b => answer [] true false (msixWrite off b s))
    else s)

/-! ### DMA (R308, R309) -/

/-- DMA_START (R308): GO is written with DIR as it is. -/
def execDmaStart (by_ : Agent) (d : Nat) (s : State) : Host.Outcome State Fault Refusal :=
  .next (
    if d < 4 then regWrite by_ (fieldAddr pgPcie Reg.PCIE_DMA_GO d 0) (startWord (flagI s pgPcie Reg.PCIE_DMA_DIR d) false) s
    else s)

/-- Channel d stops: GO clears. -/
def dmaStops (d : Nat) (s : State) : State :=
  setFi pgPcie Reg.PCIE_DMA_GO d 0 { s with mbx := { s.mbx with dmaBusy := s.mbx.dmaBusy.filter (fun x => decide (x ≠ d)) } }

/-- The copy of channel d: to the host, the bytes of the device as they are read; from the host, `bytes`. -/
def dmaCopy (d : Nat) (bytes : List Byte) (s : State) : State :=
  let a := getFi s pgPcie Reg.PCIE_DMA_DEV d * 64
  let n := getFi s pgPcie Reg.PCIE_DMA_LEN d * 64
  if flagI s pgPcie Reg.PCIE_DMA_DIR d then (devWrite .host a bytes s).2
  else
    let r := devRead .host a n s
    emit (.hostWrite (get64 s pgPcie Reg.PCIE_DMA_HOST_LO Reg.PCIE_DMA_HOST_HI d) r.1) r.2.2

/-- DMA_DONE (R308): the last byte is written, and DONE sets. A read of the host ends with the bytes of its whole range. -/
def execDmaDone (d : Nat) (bytes : List Byte) (s : State) : Host.Outcome State Fault Refusal :=
  .next (
    if s.mbx.dmaBusy.contains d ∧
        (flagI s pgPcie Reg.PCIE_DMA_DIR d = false ∨ bytes.length = getFi s pgPcie Reg.PCIE_DMA_LEN d * 64) then
      setFi pgPcie Reg.PCIE_DMA_DONE d 1 (dmaStops d (dmaCopy d bytes s))
    else s)

/-- DMA_ERROR (R308): Unsupported Request, Completer Abort or poison stops the channel with 0x11. -/
def execDmaError (d _kind : Nat) (s : State) : Host.Outcome State Fault Refusal :=
  .next (
    if s.mbx.dmaBusy.contains d then record pgPcie 0x11 (setFi pgPcie Reg.PCIE_DMA_ERR d 1 (dmaStops d s)) else s)

/-! ### The port (R306, R310) -/

/-- PCIE_IB_MSI (R310): in root-port mode the downstream device's MSI-X write sets the cause of source 0x05B. -/
def execPcieIbMsi (_v : Word) (s : State) : Host.Outcome State Fault Refusal :=
  .next (if flag s pgPcie Reg.PCIE_STAT_ROOT then intForce pgPcie 1 s else s)

/-- PCIE_LINK_TRAINING (R306): the link trains at a width and generation within PCIe 5.0 x16, or is lost. -/
def execPcieLinkTraining (up : Bool) (width gen : Nat) (s : State) : Host.Outcome State Fault Refusal :=
  .next (
    if up = false then
      setF pgPcie Reg.PCIE_STAT_LINK_UP 0 (setF pgPcie Reg.PCIE_STAT_WIDTH 0 (setF pgPcie Reg.PCIE_STAT_GEN 0 s))
    else if 1 ≤ width ∧ width ≤ 16 ∧ 1 ≤ gen ∧ gen ≤ 5 then
      setF pgPcie Reg.PCIE_STAT_LINK_UP 1 (setF pgPcie Reg.PCIE_STAT_WIDTH width (setF pgPcie Reg.PCIE_STAT_GEN gen s))
    else s)

/-- DOWNSTREAM_MEMORY_WRITE (R310): in root-port mode, what lies in the inbound range and in hub SRAM lands there. -/
def execDownstreamMemoryWrite (off : Nat) (bytes : List Byte) (s : State) : Host.Outcome State Fault Refusal :=
  .next (
    let a := getF s pgPcie Reg.PCIE_IB_BASE * 64 + off
    if flag s pgPcie Reg.PCIE_STAT_ROOT ∧ off + bytes.length ≤ getF s pgPcie Reg.PCIE_IB_LEN * 64 ∧ 0x04000000 ≤ a ∧
        a + bytes.length ≤ 0x06000000 then
      (devWrite .host a bytes s).2
    else s)

end Sys2Proof.Machine
end

