-- ==== Sys2Proof/Machine/Dispatch.lean ====
section
/-! DEFINITION. The meaning of every command, one arm per constructor. -/

namespace Sys2Proof.Machine

open Sys2Proof

def exec (i : Instr) (s : State) : Host.Outcome State Fault Refusal :=
  match i with
  | .registerWrite by_ addr v => Sys2Proof.Machine.execRegisterWrite by_ addr v s
  | .pageLock by_ pg v => Sys2Proof.Machine.execPageLock by_ pg v s
  | .pageSoftReset by_ pg => Sys2Proof.Machine.execPageSoftReset by_ pg s
  | .pageEnableWrite by_ pg en => Sys2Proof.Machine.execPageEnableWrite by_ pg en s
  | .pageFreeze by_ pg fr => Sys2Proof.Machine.execPageFreeze by_ pg fr s
  | .intForce by_ pg mask => Sys2Proof.Machine.execIntForce by_ pg mask s
  | .ownerWrite by_ pg owner => Sys2Proof.Machine.execOwnerWrite by_ pg owner s
  | .loWordRead by_ addr => Sys2Proof.Machine.execLoWordRead by_ addr s
  | .deviceAccess by_ addr len wr => Sys2Proof.Machine.execDeviceAccess by_ addr len wr s
  | .flitReceive port flit t => Sys2Proof.Machine.execFlitReceive port flit t s
  | .creditOnlyFlit port => Sys2Proof.Machine.execCreditOnlyFlit port s
  | .sparePrbsError port tx spare => Sys2Proof.Machine.execSparePrbsError port tx spare s
  | .laneRepair port wire => Sys2Proof.Machine.execLaneRepair port wire s
  | .repairFlit port wire spare sw => Sys2Proof.Machine.execRepairFlit port wire spare sw s
  | .repairSwitch port => Sys2Proof.Machine.execRepairSwitch port s
  | .wlinkResetRelease bad t => Sys2Proof.Machine.execWlinkResetRelease bad t s
  | .discoveryReply port reply => Sys2Proof.Machine.execDiscoveryReply port reply s
  | .discoveryTimeout port => Sys2Proof.Machine.execDiscoveryTimeout port s
  | .ringDiscovery die east west => Sys2Proof.Machine.execRingDiscovery die east west s
  | .loopTestRun by_ port => Sys2Proof.Machine.execLoopTestRun by_ port s
  | .loopTestDone port failWire => Sys2Proof.Machine.execLoopTestDone port failWire s
  | .standaloneEnter die => Sys2Proof.Machine.execStandaloneEnter die s
  | .uciStart by_ => Sys2Proof.Machine.execUciStart by_ s
  | .uciNegotiationDone offer => Sys2Proof.Machine.execUciNegotiationDone offer s
  | .uciNegotiationTimeout => Sys2Proof.Machine.execUciNegotiationTimeout s
  | .uciRuntimeFence => Sys2Proof.Machine.execUciRuntimeFence s
  | .timebaseRun by_ t => Sys2Proof.Machine.execTimebaseRun by_ t s
  | .timebaseStop by_ => Sys2Proof.Machine.execTimebaseStop by_ s
  | .downbeatEdge t => Sys2Proof.Machine.execDownbeatEdge t s
  | .downbeatMissing => Sys2Proof.Machine.execDownbeatMissing s
  | .timebaseLost => Sys2Proof.Machine.execTimebaseLost s
  | .barBoundary => Sys2Proof.Machine.execBarBoundary s
  | .tick => Sys2Proof.Machine.execTick s
  | .run => Sys2Proof.Machine.execRun s
  | .runPaired => Sys2Proof.Machine.execRunPaired s
  | .waitLines => Sys2Proof.Machine.execWaitLines s
  | .barrier => Sys2Proof.Machine.execBarrier s
  | .collect => Sys2Proof.Machine.execCollect s
  | .fuse => Sys2Proof.Machine.execFuse s
  | .emit => Sys2Proof.Machine.execEmit s
  | .mark => Sys2Proof.Machine.execMark s
  | .nop => Sys2Proof.Machine.execNop s
  | .swapPoint => Sys2Proof.Machine.execSwapPoint s
  | .gateSatisfied p => Sys2Proof.Machine.execGateSatisfied p s
  | .barrierSatisfied p => Sys2Proof.Machine.execBarrierSatisfied p s
  | .gateFailed p => Sys2Proof.Machine.execGateFailed p s
  | .strokeComplete idx => Sys2Proof.Machine.execStrokeComplete idx s
  | .budgetExpiry idx => Sys2Proof.Machine.execBudgetExpiry idx s
  | .collectWrite idx => Sys2Proof.Machine.execCollectWrite idx s
  | .fusionJobDone => Sys2Proof.Machine.execFusionJobDone s
  | .emitDeliver idx => Sys2Proof.Machine.execEmitDeliver idx s
  | .emitDeadline idx => Sys2Proof.Machine.execEmitDeadline idx s
  | .resultDrain => Sys2Proof.Machine.execResultDrain s
  | .tableLoad by_ => Sys2Proof.Machine.execTableLoad by_ s
  | .tableLoadDone => Sys2Proof.Machine.execTableLoadDone s
  | .requestAdmission by_ => Sys2Proof.Machine.execAdmit by_ s
  | .admissionDone => Sys2Proof.Machine.execAdmissionDone s
  | .swapRequest by_ => Sys2Proof.Machine.execSwapRequest by_ s
  | .swapCancel by_ => Sys2Proof.Machine.execSwapCancel by_ s
  | .islSwapRequest by_ => Sys2Proof.Machine.execIslSwapRequest by_ s
  | .islSwapCancel by_ => Sys2Proof.Machine.execIslSwapCancel by_ s
  | .seqStop by_ => Sys2Proof.Machine.execSeqStop by_ s
  | .fallbackCopyDone => Sys2Proof.Machine.execFallbackCopyDone s
  | .descriptorDispatch die ctx => Sys2Proof.Machine.execDescriptorDispatch die ctx s
  | .descriptorComplete die eng clocks => Sys2Proof.Machine.execDescriptorComplete die eng clocks s
  | .descriptorFail die eng code => Sys2Proof.Machine.execDescriptorFail die eng code s
  | .lineWaitEnd die eng clocks => Sys2Proof.Machine.execLineWaitEnd die eng clocks s
  | .engineFault die slot cause => Sys2Proof.Machine.execEngineFault die slot cause s
  | .returnSequenceDone die slot pass => Sys2Proof.Machine.execReturnSequenceDone die slot pass s
  | .spareSelfTest die slot pass => Sys2Proof.Machine.execSpareSelfTest die slot pass s
  | .engTestRun by_ die slot => Sys2Proof.Machine.execEngTestRun by_ die slot s
  | .engTestDone die slot pass => Sys2Proof.Machine.execEngTestDone die slot pass s
  | .sleepPendWrite by_ die v => Sys2Proof.Machine.execSleepPendWrite by_ die v s
  | .spectralHandoff die eng => Sys2Proof.Machine.execSpectralHandoff die eng s
  | .specEcc die => Sys2Proof.Machine.execSpecEcc die s
  | .trackerInitRequest by_ die mask => Sys2Proof.Machine.execTrackerInitRequest by_ die mask s
  | .ppuJob => Sys2Proof.Machine.execPpuJob s
  | .align => Sys2Proof.Machine.execAlign s
  | .alignWaitEnd => Sys2Proof.Machine.execAlignWaitEnd s
  | .ego => Sys2Proof.Machine.execEgo s
  | .proj => Sys2Proof.Machine.execProj s
  | .lift => Sys2Proof.Machine.execLift s
  | .assign => Sys2Proof.Machine.execAssign s
  | .track => Sys2Proof.Machine.execTrack s
  | .out => Sys2Proof.Machine.execOut s
  | .optSeed die eng => Sys2Proof.Machine.execOptSeed die eng s
  | .optCheck die eng => Sys2Proof.Machine.execOptCheck die eng s
  | .optApply die eng => Sys2Proof.Machine.execOptApply die eng s
  | .lregOpen by_ n => Sys2Proof.Machine.execLregOpen by_ n s
  | .lregFreeze by_ n => Sys2Proof.Machine.execLregFreeze by_ n s
  | .lregRestore by_ n => Sys2Proof.Machine.execLregRestore by_ n s
  | .lregOff by_ n => Sys2Proof.Machine.execLregOff by_ n s
  | .lregCkpt by_ n => Sys2Proof.Machine.execLregCkpt by_ n s
  | .lregVet by_ n v => Sys2Proof.Machine.execLregVet by_ n v s
  | .digestDone n => Sys2Proof.Machine.execDigestDone n s
  | .ckptCommitDone n => Sys2Proof.Machine.execCkptCommitDone n s
  | .restoreDone n crcOk => Sys2Proof.Machine.execRestoreDone n crcOk s
  | .ingConfigWrite by_ sm off v => Sys2Proof.Machine.execIngConfigWrite by_ sm off v s
  | .frameStart port vc fn t => Sys2Proof.Machine.execFrameStart port vc fn t s
  | .csiLongPacket port vc dt payload hdrErrs crcOk fifo => Sys2Proof.Machine.execCsiLongPacket port vc dt payload hdrErrs crcOk fifo s
  | .lineComplete sm t => Sys2Proof.Machine.execLineComplete sm t s
  | .frameEnd port vc t => Sys2Proof.Machine.execFrameEnd port vc t s
  | .ingLate sm => Sys2Proof.Machine.execIngLate sm s
  | .ethFrameReceive mac frame t => Sys2Proof.Machine.execEthFrameReceive mac frame t s
  | .qbvCommit by_ n => Sys2Proof.Machine.execQbvCommit by_ n s
  | .qbvCycleStart n t => Sys2Proof.Machine.execQbvCycleStart n t s
  | .gptpSync mac master corr t => Sys2Proof.Machine.execGptpSync mac master corr t s
  | .gptpPdelay mac kind t1 t2 t3 t4 => Sys2Proof.Machine.execGptpPdelay mac kind t1 t2 t3 t4 s
  | .gptpSyncLoss t => Sys2Proof.Machine.execGptpSyncLoss t s
  | .ptpSet by_ hi v => Sys2Proof.Machine.execPtpSet by_ hi v s
  | .prtConfigWrite by_ p off v => Sys2Proof.Machine.execPrtConfigWrite by_ p off v s
  | .partitionResetRequest by_ p => Sys2Proof.Machine.execPartitionResetRequest by_ p s
  | .partitionIslReset by_ p => Sys2Proof.Machine.execPartitionIslReset by_ p s
  | .partitionOvrLimit p => Sys2Proof.Machine.execPartitionOvrLimit p s
  | .energyInterval rails vin => Sys2Proof.Machine.execEnergyInterval rails vin s
  | .stackRequest stk master off len wr uncorr => Sys2Proof.Machine.execStackRequest stk master off len wr uncorr s
  | .regulatorWindow m => Sys2Proof.Machine.execRegulatorWindow m s
  | .queueLevelSample stk => Sys2Proof.Machine.execQueueLevelSample stk s
  | .patrolScrub stk off errs => Sys2Proof.Machine.execPatrolScrub stk off errs s
  | .msFail stk => Sys2Proof.Machine.execMsFail stk s
  | .bwCommit by_ => Sys2Proof.Machine.execBwCommit by_ s
  | .bwCommitCheckDone => Sys2Proof.Machine.execBwCommitCheckDone s
  | .coreRun by_ v => Sys2Proof.Machine.execCoreRun by_ v s
  | .mbxWrite by_ c v => Sys2Proof.Machine.execMbxWrite by_ c v s
  | .mbxRead by_ c => Sys2Proof.Machine.execMbxRead by_ c s
  | .warningMove => Sys2Proof.Machine.execWarningMove s
  | .intcClaim by_ x => Sys2Proof.Machine.execIntcClaim by_ x s
  | .intcComplete by_ x n => Sys2Proof.Machine.execIntcComplete by_ x n s
  | .hostAccess bar off len wr => Sys2Proof.Machine.execHostAccess bar off len wr s
  | .dmaStart by_ d => Sys2Proof.Machine.execDmaStart by_ d s
  | .dmaDone d bytes => Sys2Proof.Machine.execDmaDone d bytes s
  | .dmaError d kind => Sys2Proof.Machine.execDmaError d kind s
  | .pcieReset => Sys2Proof.Machine.execPcieReset s
  | .pcieIbMsi v => Sys2Proof.Machine.execPcieIbMsi v s
  | .mdioStart by_ => Sys2Proof.Machine.execMdioStart by_ s
  | .mdioDone v => Sys2Proof.Machine.execMdioDone v s
  | .islandFault isl cause => Sys2Proof.Machine.execIslandFault isl cause s
  | .islandWatchdogExpire isl => Sys2Proof.Machine.execIslandWatchdogExpire isl s
  | .islandAutoRestart isl slots => Sys2Proof.Machine.execIslandAutoRestart isl slots s
  | .islandResetRelease isl split slots => Sys2Proof.Machine.execIslandResetRelease isl split slots s
  | .islandRestart isl => Sys2Proof.Machine.execIslandRestart isl s
  | .clapClaim by_ isl e t => Sys2Proof.Machine.execClapClaim by_ isl e t s
  | .clapArbitrate t => Sys2Proof.Machine.execClapArbitrate t s
  | .clapConfirm by_ isl e t => Sys2Proof.Machine.execClapConfirm by_ isl e t s
  | .clapConfirmTimeout => Sys2Proof.Machine.execClapConfirmTimeout s
  | .clapHoldRel by_ t => Sys2Proof.Machine.execClapHoldRel by_ t s
  | .clapGrantTimeout t => Sys2Proof.Machine.execClapGrantTimeout t s
  | .clapRelease by_ t => Sys2Proof.Machine.execClapRelease by_ t s
  | .clapOfferTimeout => Sys2Proof.Machine.execClapOfferTimeout s
  | .clapHeartbeat by_ isl => Sys2Proof.Machine.execClapHeartbeat by_ isl s
  | .heartbeatPeriodEnd t => Sys2Proof.Machine.execHeartbeatPeriodEnd t s
  | .clapLive by_ isl => Sys2Proof.Machine.execClapLive by_ isl s
  | .clapAbdicate by_ t => Sys2Proof.Machine.execClapAbdicate by_ t s
  | .grantReceive isl t => Sys2Proof.Machine.execGrantReceive isl t s
  | .revokeReceive isl => Sys2Proof.Machine.execRevokeReceive isl s
  | .heartbeatResponse isl ack t => Sys2Proof.Machine.execHeartbeatResponse isl ack t s
  | .holdTimeout isl t => Sys2Proof.Machine.execHoldTimeout isl t s
  | .holdDrop isl => Sys2Proof.Machine.execHoldDrop isl s
  | .safeNInAssert t => Sys2Proof.Machine.execSafeNInAssert t s
  | .emissionNotice isl n t => Sys2Proof.Machine.execEmissionNotice isl n t s
  | .tickFlit isl bar health => Sys2Proof.Machine.execTickFlit isl bar health s
  | .watchExpire isl w t => Sys2Proof.Machine.execWatchExpire isl w t s
  | .islSafeReq isl t => Sys2Proof.Machine.execIslSafeReq isl t s
  | .clapSafeReq by_ isl cause t => Sys2Proof.Machine.execClapSafeReq by_ isl cause t s
  | .safeMessageReceive isl t => Sys2Proof.Machine.execSafeMessageReceive isl t s
  | .noIslandTimeout t => Sys2Proof.Machine.execNoIslandTimeout t s
  | .safeClr by_ => Sys2Proof.Machine.execSafeClr by_ s
  | .canStatusPeriod isl => Sys2Proof.Machine.execCanStatusPeriod isl s
  | .ssfPeriod isl ch t => Sys2Proof.Machine.execSsfPeriod isl ch t s
  | .canSsfLate isl ch t => Sys2Proof.Machine.execCanSsfLate isl ch t s
  | .canBusOff isl ch => Sys2Proof.Machine.execCanBusOff isl ch s
  | .canBusOffRecovery isl ch => Sys2Proof.Machine.execCanBusOffRecovery isl ch s
  | .canReceive isl ch f => Sys2Proof.Machine.execCanReceive isl ch f s
  | .pmcSample rails vinMv vinMa t => Sys2Proof.Machine.execPmcSample rails vinMv vinMa t s
  | .phaseShed r t => Sys2Proof.Machine.execPhaseShed r t s
  | .phaseFault r opens senses t => Sys2Proof.Machine.execPhaseFault r opens senses t s
  | .ilimStep r => Sys2Proof.Machine.execIlimStep r s
  | .railStageDisable n => Sys2Proof.Machine.execRailStageDisable n s
  | .opSelect => Sys2Proof.Machine.execOpSelect s
  | .opStepDone n => Sys2Proof.Machine.execOpStepDone n s
  | .marginSample n slack => Sys2Proof.Machine.execMarginSample n slack s
  | .ageRaise n => Sys2Proof.Machine.execAgeRaise n s
  | .floorPendWrite by_ n k => Sys2Proof.Machine.execFloorPendWrite by_ n k s
  | .droopDetect n t => Sys2Proof.Machine.execDroopDetect n t s
  | .droopTimeout n t => Sys2Proof.Machine.execDroopTimeout n t s
  | .droopHoldEnd n => Sys2Proof.Machine.execDroopHoldEnd n s
  | .envRequest by_ e => Sys2Proof.Machine.execEnvRequest by_ e s
  | .envIslRequest by_ e => Sys2Proof.Machine.execEnvIslRequest by_ e s
  | .capEvaluation win mean t => Sys2Proof.Machine.execCapEvaluation win mean t s
  | .capRaise t => Sys2Proof.Machine.execCapRaise t s
  | .tjSample readings stages t => Sys2Proof.Machine.execTjSample readings stages t s
  | .stackTempSample temps t => Sys2Proof.Machine.execStackTempSample temps t s
  | .thermalStep n t => Sys2Proof.Machine.execThermalStep n t s
  | .coolantRead r t => Sys2Proof.Machine.execCoolantRead r t s
  | .hourlyTimer => Sys2Proof.Machine.execHourlyTimer s
  | .journalWrite t => Sys2Proof.Machine.execJournalWrite t s
  | .recordWriteDone bank crcOk => Sys2Proof.Machine.execRecordWriteDone bank crcOk s
  | .flushStart powerFail kaMv t => Sys2Proof.Machine.execFlushStart powerFail kaMv t s
  | .flushDone t => Sys2Proof.Machine.execFlushDone t s
  | .ledgerResume t => Sys2Proof.Machine.execLedgerResume t s
  | .ledgerRecoveryDone us t => Sys2Proof.Machine.execLedgerRecoveryDone us t s
  | .ldgFwWrite by_ t => Sys2Proof.Machine.execLdgFwWrite by_ t s
  | .ldgFwRead by_ => Sys2Proof.Machine.execLdgFwRead by_ s
  | .ldgFwEntry by_ t => Sys2Proof.Machine.execLdgFwEntry by_ t s
  | .bootTrial by_ => Sys2Proof.Machine.execBootTrial by_ s
  | .bootConfirm by_ => Sys2Proof.Machine.execBootConfirm by_ s
  | .bootCancel by_ => Sys2Proof.Machine.execBootCancel by_ s
  | .fullCharge => Sys2Proof.Machine.execFullCharge s
  | .chargeTimeout => Sys2Proof.Machine.execChargeTimeout s
  | .storeRemoval => Sys2Proof.Machine.execStoreRemoval s
  | .presencePulse riseMv => Sys2Proof.Machine.execPresencePulse riseMv s
  | .gaugeSample vMv inMa outMa => Sys2Proof.Machine.execGaugeSample vMv inMa outMa s
  | .clrDeg by_ => Sys2Proof.Machine.execClrDeg by_ s
  | .dlkFlitReceive l flit t => Sys2Proof.Machine.execDlkFlitReceive l flit t s
  | .dlkIdleFlit l t => Sys2Proof.Machine.execDlkIdleFlit l t s
  | .dlkRxTimeout l => Sys2Proof.Machine.execDlkRxTimeout l s
  | .enumStart by_ cables => Sys2Proof.Machine.execEnumStart by_ cables s
  | .enumMessage m => Sys2Proof.Machine.execEnumMessage m s
  | .enumTimeout => Sys2Proof.Machine.execEnumTimeout s
  | .timeFlit rootTime delay t => Sys2Proof.Machine.execTimeFlit rootTime delay t s
  | .copyStart by_ c => Sys2Proof.Machine.execCopyStart by_ c s
  | .copyDone c bytes err => Sys2Proof.Machine.execCopyDone c bytes err s
  | .remoteAccess src addr len wr notify => Sys2Proof.Machine.execRemoteAccess src addr len wr notify s
  | .xbConfigWrite by_ k off v => Sys2Proof.Machine.execXbConfigWrite by_ k off v s
  | .xbarArrive a => Sys2Proof.Machine.execXbarArrive a s
  | .xbarRelease k t => Sys2Proof.Machine.execXbarRelease k t s
  | .dlkStatus src waitUs => Sys2Proof.Machine.execDlkStatus src waitUs s
  | .shiftExchange => Sys2Proof.Machine.execShiftExchange s
  | .shiftPropose step => Sys2Proof.Machine.execShiftPropose step s
  | .shiftCommit delta untilBoundary => Sys2Proof.Machine.execShiftCommit delta untilBoundary s
  | .dlkFence d down => Sys2Proof.Machine.execDlkFence d down s
  | .fenceNotice src d => Sys2Proof.Machine.execFenceNotice src d s
  | .rootRouteTimeout => Sys2Proof.Machine.execRootRouteTimeout s
  | .kaPowerOn => Sys2Proof.Machine.execKaPowerOn s
  | .porstRise rp lanes => Sys2Proof.Machine.execPorstRise rp lanes s
  | .porstFall => Sys2Proof.Machine.execPorstFall s
  | .rstCtlWarm by_ => Sys2Proof.Machine.execRstCtlWarm by_ s
  | .rstCtlCold by_ => Sys2Proof.Machine.execRstCtlCold by_ s
  | .hubWatchdogExpire t => Sys2Proof.Machine.execHubWatchdogExpire t s
  | .wdogKick by_ t => Sys2Proof.Machine.execWdogKick by_ t s
  | .tapReset => Sys2Proof.Machine.execTapReset s
  | .islandResetPin isl => Sys2Proof.Machine.execIslandResetPin isl s
  | .phaseTest r ph reached imon sat => Sys2Proof.Machine.execPhaseTest r ph reached imon sat s
  | .softStartTimeout r => Sys2Proof.Machine.execSoftStartTimeout r s
  | .bootRom => Sys2Proof.Machine.execBootRom s
  | .censusStage stacksOk sparesOk vtOk => Sys2Proof.Machine.execCensusStage stacksOk sparesOk vtOk s
  | .imageLoad slots => Sys2Proof.Machine.execImageLoad slots s
  | .handoff ms => Sys2Proof.Machine.execHandoff ms s
  | .lcRequest by_ tok => Sys2Proof.Machine.execLcRequest by_ tok s
  | .lcBurnDone => Sys2Proof.Machine.execLcBurnDone s
  | .keyRevoke by_ mask => Sys2Proof.Machine.execKeyRevoke by_ mask s
  | .malletOffWrite by_ => Sys2Proof.Machine.execMalletOffWrite by_ s
  | .malletBadLine => Sys2Proof.Machine.execMalletBadLine s
  | .malletSessionTimeout t => Sys2Proof.Machine.execMalletSessionTimeout t s
  | .malletHelp => Sys2Proof.Machine.execMalletHelp s
  | .malletId => Sys2Proof.Machine.execMalletId s
  | .malletStat => Sys2Proof.Machine.execMalletStat s
  | .malletRd a n => Sys2Proof.Machine.execMalletRd a n s
  | .malletWr a v => Sys2Proof.Machine.execMalletWr a v s
  | .malletMd a n => Sys2Proof.Machine.execMalletMd a n s
  | .malletMw a v => Sys2Proof.Machine.execMalletMw a v s
  | .malletErr a clr => Sys2Proof.Machine.execMalletErr a clr s
  | .malletLog n => Sys2Proof.Machine.execMalletLog n s
  | .malletBaud r => Sys2Proof.Machine.execMalletBaud r s
  | .malletUnlock t => Sys2Proof.Machine.execMalletUnlock t s
  | .malletUnlockKey k => Sys2Proof.Machine.execMalletUnlockKey k s
  | .malletUnlockData h => Sys2Proof.Machine.execMalletUnlockData h s
  | .malletUnlockEnd sigOk keyOk t => Sys2Proof.Machine.execMalletUnlockEnd sigOk keyOk t s
  | .malletLock => Sys2Proof.Machine.execMalletLock s
  | .malletCalib a len => Sys2Proof.Machine.execMalletCalib a len s
  | .malletCensus => Sys2Proof.Machine.execMalletCensus s
  | .malletReset => Sys2Proof.Machine.execMalletReset s
  | .malletOff => Sys2Proof.Machine.execMalletOff s
  | .clockWireFailure port valid => Sys2Proof.Machine.execClockWireFailure port valid s
  | .usxgmiiLinkChange mac up speed => Sys2Proof.Machine.execUsxgmiiLinkChange mac up speed s
  | .pcieLinkTraining up width gen => Sys2Proof.Machine.execPcieLinkTraining up width gen s
  | .downstreamMemoryWrite off bytes => Sys2Proof.Machine.execDownstreamMemoryWrite off bytes s
  | .grandmasterSync t => Sys2Proof.Machine.execGrandmasterSync t s
  | .gptpAnnounce mac a => Sys2Proof.Machine.execGptpAnnounce mac a s
  | .gateIntervalEnd n t => Sys2Proof.Machine.execGateIntervalEnd n t s
  | .canFrameComplete isl ch f t => Sys2Proof.Machine.execCanFrameComplete isl ch f t s
  | .receivedCharacter c framing t => Sys2Proof.Machine.execReceivedCharacter c framing t s
  | .softStartDone r => Sys2Proof.Machine.execSoftStartDone r s

end Sys2Proof.Machine
end

