-- ==== Sys2Proof/WellFormed.lean ====
section
/-! DEFINITION. The well-formed commands: those whose operands name a unit that the block has. An operand
outside these ranges names nothing in the spec; the meanings stay total on it. -/

namespace Sys2Proof

/-- Is an agent one of the block's (R284). -/
def agentOk : Agent → Bool
  | .work p | .fusion p | .collector p => decide (p < 16)
  | .core k => decide (k < 8)
  | .island i | .islandHw i => decide (i < 2)
  | .ingest | .sequencer | .host | .dlk | .partner | .mallet | .security => true

/-- Is a page listed (R440). -/
def pageOk (p : Page) : Bool :=
  (Machine.blkOf p).isSome && (match p with | .cd d _ => decide (d < 4) | _ => true)

/-- Is a command well-formed. -/
def wellFormed : Instr → Bool
  | .registerWrite by_ _ _ => agentOk by_
  | .pageLock by_ pg _ => agentOk by_ && pageOk pg
  | .pageSoftReset by_ pg => agentOk by_ && pageOk pg
  | .pageEnableWrite by_ pg _ => agentOk by_ && pageOk pg
  | .pageFreeze by_ pg _ => agentOk by_ && pageOk pg
  | .intForce by_ pg _ => agentOk by_ && pageOk pg
  | .ownerWrite by_ pg _ => agentOk by_ && pageOk pg
  | .loWordRead by_ addr => agentOk by_ && decide (addr % 4 = 0)
  | .deviceAccess by_ _ _ _ => agentOk by_
  | .flitReceive port _ _ => decide (port < 20)
  | .creditOnlyFlit port => decide (port < 20)
  | .sparePrbsError port _ spare => decide (port < 20) && decide (spare < 2)
  | .laneRepair port wire => decide (port < 20) && decide (wire < 64)
  | .repairFlit port wire spare _ => decide (port < 20) && decide (wire < 64) && decide (spare < 2)
  | .repairSwitch port => decide (port < 20)
  | .wlinkResetRelease _ _ => true
  | .discoveryReply port _ => decide (port < 6)
  | .discoveryTimeout port => decide (port < 6)
  | .ringDiscovery die _ _ => decide (die < 4)
  | .loopTestRun by_ port => agentOk by_ && decide (port < 18)
  | .loopTestDone port _ => decide (port < 18)
  | .standaloneEnter die => decide (die < 4)
  | .uciStart by_ => agentOk by_
  | .uciNegotiationDone _ => true
  | .uciNegotiationTimeout => true
  | .uciRuntimeFence => true
  | .timebaseRun by_ _ => agentOk by_
  | .timebaseStop by_ => agentOk by_
  | .downbeatEdge _ => true
  | .downbeatMissing => true
  | .timebaseLost => true
  | .barBoundary => true
  | .tick => true
  | .run => true
  | .runPaired => true
  | .waitLines => true
  | .barrier => true
  | .collect => true
  | .fuse => true
  | .emit => true
  | .mark => true
  | .nop => true
  | .swapPoint => true
  | .gateSatisfied p => decide (p < 16)
  | .barrierSatisfied p => decide (p < 16)
  | .gateFailed p => decide (p < 16)
  | .strokeComplete idx => decide (idx < 4096)
  | .budgetExpiry idx => decide (idx < 4096)
  | .collectWrite idx => decide (idx < 4096)
  | .fusionJobDone => true
  | .emitDeliver idx => decide (idx < 4096)
  | .emitDeadline idx => decide (idx < 4096)
  | .resultDrain => true
  | .tableLoad by_ => agentOk by_
  | .tableLoadDone => true
  | .requestAdmission by_ => agentOk by_
  | .admissionDone => true
  | .swapRequest by_ => agentOk by_
  | .swapCancel by_ => agentOk by_
  | .islSwapRequest by_ => agentOk by_
  | .islSwapCancel by_ => agentOk by_
  | .seqStop by_ => agentOk by_
  | .fallbackCopyDone => true
  | .descriptorDispatch die ctx => decide (die < 4) && decide (ctx < 8)
  | .descriptorComplete die eng _ => decide (die < 4) && decide (eng < 16)
  | .descriptorFail die eng _ => decide (die < 4) && decide (eng < 16)
  | .lineWaitEnd die eng _ => decide (die < 4) && decide (eng < 16)
  | .engineFault die slot cause => decide (die < 4) && decide (slot < 18) && decide (1 ≤ cause ∧ cause ≤ 3)
  | .returnSequenceDone die slot _ => decide (die < 4) && decide (slot < 18)
  | .spareSelfTest die slot _ => decide (die < 4) && decide (slot < 18)
  | .engTestRun by_ die slot => agentOk by_ && decide (die < 4) && decide (slot < 18)
  | .engTestDone die slot _ => decide (die < 4) && decide (slot < 18)
  | .sleepPendWrite by_ die _ => agentOk by_ && decide (die < 4)
  | .spectralHandoff die eng => decide (die < 4) && decide (eng < 16)
  | .specEcc die => decide (die < 4)
  | .trackerInitRequest by_ die _ => agentOk by_ && decide (die < 4)
  | .ppuJob => true
  | .align => true
  | .alignWaitEnd => true
  | .ego => true
  | .proj => true
  | .lift => true
  | .assign => true
  | .track => true
  | .out => true
  | .optSeed die eng => decide (die < 4) && decide (eng < 16)
  | .optCheck die eng => decide (die < 4) && decide (eng < 16)
  | .optApply die eng => decide (die < 4) && decide (eng < 16)
  | .lregOpen by_ n => agentOk by_ && decide (n < 8)
  | .lregFreeze by_ n => agentOk by_ && decide (n < 8)
  | .lregRestore by_ n => agentOk by_ && decide (n < 8)
  | .lregOff by_ n => agentOk by_ && decide (n < 8)
  | .lregCkpt by_ n => agentOk by_ && decide (n < 8)
  | .lregVet by_ n _ => agentOk by_ && decide (n < 8)
  | .digestDone n => decide (n < 8)
  | .ckptCommitDone n => decide (n < 8)
  | .restoreDone n _ => decide (n < 8)
  | .ingConfigWrite by_ sm _ _ => agentOk by_ && decide (sm < 24)
  | .frameStart port _ _ _ => decide (port < 8)
  | .csiLongPacket port _ _ _ _ _ _ => decide (port < 8)
  | .lineComplete sm _ => decide (sm < 24)
  | .frameEnd port _ _ => decide (port < 8)
  | .ingLate sm => decide (sm < 24)
  | .ethFrameReceive mac _ _ => decide (mac < 8)
  | .qbvCommit by_ n => agentOk by_ && decide (n < 4)
  | .qbvCycleStart n _ => decide (n < 4)
  | .gptpSync mac _ _ _ => decide (mac < 8)
  | .gptpPdelay mac _ _ _ _ _ => decide (mac < 8)
  | .gptpSyncLoss _ => true
  | .ptpSet by_ _ _ => agentOk by_
  | .prtConfigWrite by_ p _ _ => agentOk by_ && decide (p < 16)
  | .partitionResetRequest by_ p => agentOk by_ && decide (p < 16)
  | .partitionIslReset by_ p => agentOk by_ && decide (p < 16)
  | .partitionOvrLimit p => decide (p < 16)
  | .energyInterval _ _ => true
  | .stackRequest stk master _ _ _ _ => decide (stk < 4) && decide (master < 32)
  | .regulatorWindow m => decide (m < 32)
  | .queueLevelSample stk => decide (stk < 4)
  | .patrolScrub stk _ _ => decide (stk < 4)
  | .msFail stk => decide (stk < 4)
  | .bwCommit by_ => agentOk by_
  | .bwCommitCheckDone => true
  | .coreRun by_ _ => agentOk by_
  | .mbxWrite by_ c _ => agentOk by_ && decide (c < 64)
  | .mbxRead by_ c => agentOk by_ && decide (c < 64)
  | .warningMove => true
  | .intcClaim by_ x => agentOk by_ && decide (x < 19)
  | .intcComplete by_ x n => agentOk by_ && decide (x < 19) && decide (n < 512)
  | .hostAccess bar _ _ _ => decide (bar < 6)
  | .dmaStart by_ d => agentOk by_ && decide (d < 4)
  | .dmaDone d _ => decide (d < 4)
  | .dmaError d _ => decide (d < 4)
  | .pcieReset => true
  | .pcieIbMsi _ => true
  | .mdioStart by_ => agentOk by_
  | .mdioDone _ => true
  | .islandFault i cause => decide (i < 2) && decide (1 ≤ cause ∧ cause ≤ 5)
  | .islandWatchdogExpire i => decide (i < 2)
  | .islandAutoRestart i _ => decide (i < 2)
  | .islandResetRelease i _ _ => decide (i < 2)
  | .islandRestart i => decide (i < 2)
  | .clapClaim by_ i _ _ => agentOk by_ && decide (i < 2)
  | .clapArbitrate _ => true
  | .clapConfirm by_ i _ _ => agentOk by_ && decide (i < 2)
  | .clapConfirmTimeout => true
  | .clapHoldRel by_ _ => agentOk by_
  | .clapGrantTimeout _ => true
  | .clapRelease by_ _ => agentOk by_
  | .clapOfferTimeout => true
  | .clapHeartbeat by_ i => agentOk by_ && decide (i < 2)
  | .heartbeatPeriodEnd _ => true
  | .clapLive by_ i => agentOk by_ && decide (i < 2)
  | .clapAbdicate by_ _ => agentOk by_
  | .grantReceive i _ => decide (i < 2)
  | .revokeReceive i => decide (i < 2)
  | .heartbeatResponse i _ _ => decide (i < 2)
  | .holdTimeout i _ => decide (i < 2)
  | .holdDrop i => decide (i < 2)
  | .safeNInAssert _ => true
  | .emissionNotice i _ _ => decide (i < 2)
  | .tickFlit i _ _ => decide (i < 2)
  | .watchExpire i w _ => decide (i < 2) && decide (w < 16)
  | .islSafeReq i _ => decide (i < 2)
  | .clapSafeReq by_ i cause _ => agentOk by_ && decide (i < 2) && decide (1 ≤ cause ∧ cause ≤ 6)
  | .safeMessageReceive i _ => decide (i < 2)
  | .noIslandTimeout _ => true
  | .safeClr by_ => agentOk by_
  | .canStatusPeriod i => decide (i < 2)
  | .ssfPeriod i ch _ => decide (i < 2) && decide (ch < 2)
  | .canSsfLate i ch _ => decide (i < 2) && decide (ch < 2)
  | .canBusOff i ch => decide (i < 2) && decide (ch < 2)
  | .canBusOffRecovery i ch => decide (i < 2) && decide (ch < 2)
  | .canReceive i ch _ => decide (i < 2) && decide (ch < 2)
  | .pmcSample _ _ _ _ => true
  | .phaseShed r _ => decide (r < 5)
  | .phaseFault r _ _ _ => decide (r < 5)
  | .ilimStep r => decide (r < 5)
  | .railStageDisable n => decide (n < 4)
  | .opSelect => true
  | .opStepDone n => decide (n < 4)
  | .marginSample n _ => decide (n < 4)
  | .ageRaise n => decide (n < 4)
  | .floorPendWrite by_ n k => agentOk by_ && decide (n < 4) && decide (k < 16)
  | .droopDetect n _ => decide (n < 4)
  | .droopTimeout n _ => decide (n < 4)
  | .droopHoldEnd n => decide (n < 4)
  | .envRequest by_ e => agentOk by_ && decide (e < 3)
  | .envIslRequest by_ e => agentOk by_ && decide (e < 3)
  | .capEvaluation win _ _ => decide (win < 3)
  | .capRaise _ => true
  | .tjSample _ _ _ => true
  | .stackTempSample _ _ => true
  | .thermalStep n _ => decide (n < 4)
  | .coolantRead _ _ => true
  | .hourlyTimer => true
  | .journalWrite _ => true
  | .recordWriteDone bank _ => decide (bank < 2)
  | .flushStart _ _ _ => true
  | .flushDone _ => true
  | .ledgerResume _ => true
  | .ledgerRecoveryDone _ _ => true
  | .ldgFwWrite by_ _ => agentOk by_
  | .ldgFwRead by_ => agentOk by_
  | .ldgFwEntry by_ _ => agentOk by_
  | .bootTrial by_ => agentOk by_
  | .bootConfirm by_ => agentOk by_
  | .bootCancel by_ => agentOk by_
  | .fullCharge => true
  | .chargeTimeout => true
  | .storeRemoval => true
  | .presencePulse _ => true
  | .gaugeSample _ _ _ => true
  | .clrDeg by_ => agentOk by_
  | .dlkFlitReceive l _ _ => decide (l < 8)
  | .dlkIdleFlit l _ => decide (l < 8)
  | .dlkRxTimeout l => decide (l < 8)
  | .enumStart by_ _ => agentOk by_
  | .enumMessage _ => true
  | .enumTimeout => true
  | .timeFlit _ _ _ => true
  | .copyStart by_ c => agentOk by_ && decide (c < 8)
  | .copyDone c _ _ => decide (c < 8)
  | .remoteAccess src _ _ _ _ => decide (src < 128)
  | .xbConfigWrite by_ k _ _ => agentOk by_ && decide (k < 8)
  | .xbarArrive _ => true
  | .xbarRelease k _ => decide (k < 8)
  | .dlkStatus src _ => decide (src < 128)
  | .shiftExchange => true
  | .shiftPropose _ => true
  | .shiftCommit _ _ => true
  | .dlkFence d _ => decide (d < 128)
  | .fenceNotice src d => decide (src < 128) && decide (d < 128)
  | .rootRouteTimeout => true
  | .kaPowerOn => true
  | .porstRise _ _ => true
  | .porstFall => true
  | .rstCtlWarm by_ => agentOk by_
  | .rstCtlCold by_ => agentOk by_
  | .hubWatchdogExpire _ => true
  | .wdogKick by_ _ => agentOk by_
  | .tapReset => true
  | .islandResetPin i => decide (i < 2)
  | .phaseTest r ph _ _ _ => decide (r < 5) && decide (ph < 8)
  | .softStartTimeout r => decide (r < 5)
  | .bootRom => true
  | .censusStage _ _ _ => true
  | .imageLoad _ => true
  | .handoff _ => true
  | .lcRequest by_ _ => agentOk by_
  | .lcBurnDone => true
  | .keyRevoke by_ _ => agentOk by_
  | .malletOffWrite by_ => agentOk by_
  | .malletBadLine => true
  | .malletSessionTimeout _ => true
  | .malletHelp => true
  | .malletId => true
  | .malletStat => true
  | .malletRd _ n => decide (1 ≤ n ∧ n ≤ 64)
  | .malletWr _ _ => true
  | .malletMd _ n => decide (1 ≤ n ∧ n ≤ 4096)
  | .malletMw _ _ => true
  | .malletErr _ _ => true
  | .malletLog _ => true
  | .malletBaud _ => true
  | .malletUnlock _ => true
  | .malletUnlockKey k => decide (k < 4)
  | .malletUnlockData _ => true
  | .malletUnlockEnd _ _ _ => true
  | .malletLock => true
  | .malletCalib _ _ => true
  | .malletCensus => true
  | .malletReset => true
  | .malletOff => true
  | .clockWireFailure port _ => decide (port < 20)
  | .usxgmiiLinkChange mac _ _ => decide (mac < 8)
  | .pcieLinkTraining _ _ _ => true
  | .downstreamMemoryWrite _ _ => true
  | .grandmasterSync _ => true
  | .gptpAnnounce mac _ => decide (mac < 8)
  | .gateIntervalEnd n _ => decide (n < 4)
  | .canFrameComplete i ch _ _ => decide (i < 2) && decide (ch < 2)
  | .receivedCharacter _ _ _ => true
  | .softStartDone r => decide (r < 5)

end Sys2Proof
end

