-- ==== Sys2Proof/Safety.lean ====
section
/-! DEFINITION. What counts as a well-kept state: memory and the other sparse maps in their canonical form, every unit of the
block in its place, and every waiting command well-formed. -/

namespace Sys2Proof.Machine

open Sys2Proof

/-- The canonical form of memory: addresses strictly rising, no entry that holds what an unlisted address reads as. -/
def Memory.wf (m : List Host.Cell) : Bool := sparseWf memDefault m

/-- The canonical form of the register file. -/
def regsWf (r : List (Nat × Word)) : Bool := sparseWf resetWord r

/-- The canonical form of the tile tags and of the written tile units (R270, R271). -/
def tilesWf (t : Tiles) : Bool := sparseWf (fun _ => 0) t.tags && sparseWf (fun _ => false) t.written

/-- Every unit of the block has its state: four compute dies, sixteen partitions, 24 streams, two islands, 21 link ends. -/
def unitsWf (s : State) : Bool :=
  decide (s.dies.length = 4 ∧ s.parts.length = 16 ∧ s.ing.length = 24 ∧ s.isl.length = 2 ∧ s.links.ports.length = 21)

/-- The state is well kept. -/
def State.wf (s : State) : Bool := Memory.wf s.mem && regsWf s.regs && tilesWf s.tiles && unitsWf s

/-- Every waiting command is well-formed. -/
def State.queueWf (s : State) : Bool := s.pending.all wellFormed

/-! ### What a command leaves alone -/

/-- The pieces of the state beside the queue. -/
inductive Piece where
  | regs | mem | io | links | cyc | seq | dies | parts | acct | tiles | fus | mbx | ldg | hld | eth | dlk | ing | lrn | bw | clap | isl | pwr | boot | mal
deriving DecidableEq, Repr

/-- The number of a piece. -/
def Piece.idx : Piece → Nat
  | .regs => 0
  | .mem => 1
  | .io => 2
  | .links => 3
  | .cyc => 4
  | .seq => 5
  | .dies => 6
  | .parts => 7
  | .acct => 8
  | .tiles => 9
  | .fus => 10
  | .mbx => 11
  | .ldg => 12
  | .hld => 13
  | .eth => 14
  | .dlk => 15
  | .ing => 16
  | .lrn => 17
  | .bw => 18
  | .clap => 19
  | .isl => 20
  | .pwr => 21
  | .boot => 22
  | .mal => 23

/-- The piece is in `t` what it was in `s`. -/
def Piece.same (p : Piece) (s t : State) : Prop :=
  match p with
  | .regs => t.regs = s.regs
  | .mem => t.mem = s.mem
  | .io => t.io = s.io
  | .links => t.links = s.links
  | .cyc => t.cyc = s.cyc
  | .seq => t.seq = s.seq
  | .dies => t.dies = s.dies
  | .parts => t.parts = s.parts
  | .acct => t.acct = s.acct
  | .tiles => t.tiles = s.tiles
  | .fus => t.fus = s.fus
  | .mbx => t.mbx = s.mbx
  | .ldg => t.ldg = s.ldg
  | .hld => t.hld = s.hld
  | .eth => t.eth = s.eth
  | .dlk => t.dlk = s.dlk
  | .ing => t.ing = s.ing
  | .lrn => t.lrn = s.lrn
  | .bw => t.bw = s.bw
  | .clap => t.clap = s.clap
  | .isl => t.isl = s.isl
  | .pwr => t.pwr = s.pwr
  | .boot => t.boot = s.boot
  | .mal => t.mal = s.mal

/-- The pieces that the report of an error reaches: the page's header, what goes out, the warnings, and the ledger's queue
(R300, R379, R445). -/
def report : List Piece := [.regs, .io, .mbx, .ldg]

/-- The pieces that an access on behalf of a partition reaches, which may be a partition fault: beside a report, the runs,
the engines, the partition, its accounts, its tiles and the fusion job (R269, R272). -/
def access : List Piece := report ++ [.seq, .dies, .parts, .acct, .tiles, .fus]

/-- Every piece. -/
def everything : List Piece :=
  access ++ [.mem, .links, .cyc, .hld, .eth, .dlk, .ing, .lrn, .bw, .clap, .isl, .pwr, .boot, .mal]

/-- The pieces of the state beside the queue that a command can reach; it leaves every other one alone. -/
def reach (c : Instr) : List Piece :=
  match c with
  | .registerWrite _ _ _ => access ++ [.mem, .links, .cyc, .hld, .eth, .dlk, .ing, .lrn, .bw, .clap, .isl, .pwr, .boot, .mal]
  | .pageLock _ _ _ => access ++ [.mem, .links, .cyc, .hld, .eth, .dlk, .ing, .lrn, .bw, .clap, .isl, .pwr, .boot, .mal]
  | .pageSoftReset _ _ => access ++ [.mem, .links, .cyc, .hld, .eth, .dlk, .ing, .lrn, .bw, .clap, .isl, .pwr, .boot, .mal]
  | .pageEnableWrite _ _ _ => access ++ [.mem, .links, .cyc, .hld, .eth, .dlk, .ing, .lrn, .bw, .clap, .isl, .pwr, .boot, .mal]
  | .pageFreeze _ _ _ => access ++ [.mem, .links, .cyc, .hld, .eth, .dlk, .ing, .lrn, .bw, .clap, .isl, .pwr, .boot, .mal]
  | .intForce _ _ _ => access ++ [.mem, .links, .cyc, .hld, .eth, .dlk, .ing, .lrn, .bw, .clap, .isl, .pwr, .boot, .mal]
  | .ownerWrite _ _ _ => access ++ [.mem, .links, .cyc, .hld, .eth, .dlk, .ing, .lrn, .bw, .clap, .isl, .pwr, .boot, .mal]
  | .loWordRead _ _ => access
  | .deviceAccess _ _ _ _ => access ++ [.mem, .links, .cyc, .hld, .eth, .dlk, .ing, .lrn, .bw, .clap, .isl, .pwr, .boot, .mal]
  | .flitReceive _ _ _ => report ++ [.links, .seq, .dies]
  | .creditOnlyFlit _ => [.io, .links]
  | .sparePrbsError _ _ _ => [.regs]
  | .laneRepair _ _ => report ++ [.links]
  | .repairFlit _ _ _ _ => [.links]
  | .repairSwitch _ => [.regs, .links]
  | .wlinkResetRelease _ _ => report ++ [.links]
  | .discoveryReply _ _ => report ++ [.links, .seq, .dies]
  | .discoveryTimeout _ => report ++ [.links, .seq, .dies]
  | .ringDiscovery _ _ _ => report ++ [.seq, .dies]
  | .loopTestRun _ _ => access
  | .loopTestDone _ _ => [.regs]
  | .standaloneEnter _ => [.links]
  | .uciStart _ => access
  | .uciNegotiationDone _ => report
  | .uciNegotiationTimeout => report
  | .uciRuntimeFence => report ++ [.seq, .dies]
  | .timebaseRun _ _ => access ++ [.cyc, .pwr]
  | .timebaseStop _ => access ++ [.cyc, .ing]
  | .downbeatEdge _ => report ++ [.cyc, .seq, .dies, .parts, .acct, .fus, .dlk, .ing, .lrn, .bw, .clap, .pwr]
  | .downbeatMissing => report ++ [.cyc]
  | .timebaseLost => report ++ [.cyc, .seq, .dies, .acct, .fus, .ing]
  | .barBoundary => report ++ [.cyc, .seq, .dies, .parts, .acct, .fus, .dlk, .ing, .lrn, .bw, .clap, .pwr]
  | .tick => report ++ [.seq, .dies, .acct, .fus]
  | .run => access ++ [.mem, .eth]
  | .runPaired => access ++ [.mem, .eth]
  | .waitLines => access ++ [.mem, .eth]
  | .barrier => access ++ [.mem, .eth, .pwr]
  | .collect => access ++ [.mem, .eth]
  | .fuse => access ++ [.mem, .eth]
  | .emit => access ++ [.mem, .eth]
  | .mark => access ++ [.mem, .eth]
  | .nop => access ++ [.mem, .eth]
  | .swapPoint => access ++ [.mem, .eth]
  | .gateSatisfied _ => report ++ [.seq, .dies]
  | .barrierSatisfied _ => report ++ [.seq, .dies, .acct, .dlk, .pwr]
  | .gateFailed _ => report ++ [.seq, .dies, .acct, .pwr]
  | .strokeComplete _ => report ++ [.seq, .dies]
  | .budgetExpiry _ => access
  | .collectWrite _ => access ++ [.mem]
  | .fusionJobDone => access
  | .emitDeliver _ => access ++ [.eth]
  | .emitDeadline _ => access ++ [.eth]
  | .resultDrain => report ++ [.seq, .dies]
  | .tableLoad _ => access
  | .tableLoadDone => [.regs]
  | .requestAdmission _ => access
  | .admissionDone => report ++ [.seq]
  | .swapRequest _ => access
  | .swapCancel _ => access
  | .islSwapRequest _ => access
  | .islSwapCancel _ => access
  | .seqStop _ => access
  | .fallbackCopyDone => report ++ [.seq, .acct]
  | .descriptorDispatch _ _ => report ++ [.seq, .dies, .acct, .lrn]
  | .descriptorComplete _ _ _ => access ++ [.mem, .lrn]
  | .descriptorFail _ _ _ => access
  | .lineWaitEnd _ _ _ => [.regs, .dies]
  | .engineFault _ _ _ => report ++ [.seq, .dies, .acct]
  | .returnSequenceDone _ _ _ => report ++ [.mem, .seq, .dies, .acct, .tiles]
  | .spareSelfTest _ _ _ => report
  | .engTestRun _ _ _ => access
  | .engTestDone _ _ _ => [.regs]
  | .sleepPendWrite _ _ _ => access
  | .spectralHandoff _ _ => [.regs, .dies]
  | .specEcc _ => report ++ [.seq, .dies, .acct]
  | .trackerInitRequest _ _ _ => access
  | .ppuJob => access ++ [.mem]
  | .align => access ++ [.mem]
  | .alignWaitEnd => access ++ [.mem]
  | .ego => access
  | .proj => access ++ [.mem]
  | .lift => access ++ [.mem]
  | .assign => access
  | .track => report ++ [.fus]
  | .out => access ++ [.mem]
  | .optSeed _ _ => access ++ [.mem, .lrn]
  | .optCheck _ _ => access ++ [.mem, .lrn]
  | .optApply _ _ => access ++ [.mem, .lrn]
  | .lregOpen _ _ => access ++ [.lrn]
  | .lregFreeze _ _ => access ++ [.lrn]
  | .lregRestore _ _ => access ++ [.lrn]
  | .lregOff _ _ => access ++ [.lrn]
  | .lregCkpt _ _ => access ++ [.lrn]
  | .lregVet _ _ _ => access ++ [.lrn]
  | .digestDone _ => [.regs]
  | .ckptCommitDone _ => report ++ [.lrn]
  | .restoreDone _ _ => report ++ [.mem]
  | .ingConfigWrite _ _ _ _ => access
  | .frameStart _ _ _ _ => report ++ [.mem, .acct, .ing]
  | .csiLongPacket _ _ _ _ _ _ _ => report ++ [.mem, .acct, .ing]
  | .lineComplete _ _ => report ++ [.mem, .acct, .ing]
  | .frameEnd _ _ _ => report ++ [.mem, .acct, .ing]
  | .ingLate _ => report ++ [.ing]
  | .ethFrameReceive _ _ _ => report ++ [.mem, .acct, .ing]
  | .qbvCommit _ _ => access ++ [.eth]
  | .qbvCycleStart _ _ => [.regs, .io, .eth]
  | .gptpSync _ _ _ _ => [.regs, .io, .eth]
  | .gptpPdelay _ _ _ _ _ _ => [.io, .eth]
  | .gptpSyncLoss _ => report ++ [.eth, .ing]
  | .ptpSet _ _ _ => access ++ [.eth]
  | .prtConfigWrite _ _ _ _ => access
  | .partitionResetRequest _ _ => access
  | .partitionIslReset _ _ => access
  | .partitionOvrLimit _ => access
  | .energyInterval _ _ => [.regs, .io, .acct, .pwr]
  | .stackRequest _ _ _ _ _ _ => report ++ [.bw]
  | .regulatorWindow _ => [.regs, .bw]
  | .queueLevelSample _ => report ++ [.acct, .bw]
  | .patrolScrub _ _ _ => report
  | .msFail _ => report ++ [.seq, .dies]
  | .bwCommit _ => access ++ [.bw]
  | .bwCommitCheckDone => report ++ [.bw]
  | .coreRun _ _ => access
  | .mbxWrite _ _ _ => access
  | .mbxRead _ _ => access
  | .warningMove => [.regs, .io, .mbx]
  | .intcClaim _ _ => access
  | .intcComplete _ _ _ => access
  | .hostAccess _ _ _ _ => access ++ [.mem, .links, .cyc, .hld, .eth, .dlk, .ing, .lrn, .bw, .clap, .isl, .pwr, .boot, .mal]
  | .dmaStart _ _ => access ++ [.mem, .links, .cyc, .hld, .eth, .dlk, .ing, .lrn, .bw, .clap, .isl, .pwr, .boot, .mal]
  | .dmaDone _ _ => access ++ [.mem, .links, .cyc, .hld, .eth, .dlk, .ing, .lrn, .bw, .clap, .isl, .pwr, .boot, .mal]
  | .dmaError _ _ => report
  | .pcieReset => [.regs, .mbx, .boot]
  | .pcieIbMsi _ => [.regs, .io]
  | .mdioStart _ => access
  | .mdioDone _ => [.regs]
  | .islandFault _ _ => report ++ [.isl]
  | .islandWatchdogExpire _ => report ++ [.isl]
  | .islandAutoRestart _ _ => report ++ [.isl]
  | .islandResetRelease _ _ _ => report ++ [.isl]
  | .islandRestart _ => report ++ [.isl]
  | .clapClaim _ _ _ _ => access ++ [.clap]
  | .clapArbitrate _ => [.regs, .io, .clap]
  | .clapConfirm _ _ _ _ => access ++ [.clap]
  | .clapConfirmTimeout => report ++ [.clap]
  | .clapHoldRel _ _ => access ++ [.clap]
  | .clapGrantTimeout _ => report ++ [.clap]
  | .clapRelease _ _ => access ++ [.clap]
  | .clapOfferTimeout => [.regs, .clap]
  | .clapHeartbeat _ _ => access ++ [.clap]
  | .heartbeatPeriodEnd _ => report ++ [.clap]
  | .clapLive _ _ => access ++ [.clap]
  | .clapAbdicate _ _ => access ++ [.clap]
  | .grantReceive _ _ => [.regs, .io, .isl]
  | .revokeReceive _ => [.regs, .io]
  | .heartbeatResponse _ _ _ => [.regs, .io, .isl]
  | .holdTimeout _ _ => report
  | .holdDrop _ => [.regs, .io]
  | .safeNInAssert _ => report ++ [.clap, .isl]
  | .emissionNotice _ _ _ => report ++ [.isl]
  | .tickFlit _ _ _ => [.isl]
  | .watchExpire _ _ _ => report ++ [.isl]
  | .islSafeReq _ _ => [.regs, .io, .isl]
  | .clapSafeReq _ _ _ _ => access ++ [.clap]
  | .safeMessageReceive _ _ => [.regs, .io, .isl]
  | .noIslandTimeout _ => report ++ [.clap]
  | .safeClr _ => access ++ [.clap, .isl]
  | .canStatusPeriod _ => [.isl]
  | .ssfPeriod _ _ _ => [.io, .isl]
  | .canSsfLate _ _ _ => report ++ [.isl]
  | .canBusOff _ _ => report
  | .canBusOffRecovery _ _ => [.regs]
  | .canReceive _ _ _ => [.isl]
  | .pmcSample _ _ _ _ => [.regs, .io, .pwr]
  | .phaseShed _ _ => [.regs, .io]
  | .phaseFault _ _ _ _ => report ++ [.seq, .dies, .acct, .fus, .lrn, .clap, .pwr]
  | .ilimStep _ => [.pwr]
  | .railStageDisable _ => [.regs, .pwr]
  | .opSelect => report ++ [.pwr]
  | .opStepDone _ => [.regs, .pwr]
  | .marginSample _ _ => [.regs, .pwr]
  | .ageRaise _ => report ++ [.pwr]
  | .floorPendWrite _ _ _ => access
  | .droopDetect _ _ => report ++ [.pwr]
  | .droopTimeout _ _ => [.io, .pwr]
  | .droopHoldEnd _ => [.pwr]
  | .envRequest _ _ => access
  | .envIslRequest _ _ => access ++ [.pwr]
  | .capEvaluation _ _ _ => [.regs, .io, .dies, .acct, .pwr]
  | .capRaise _ => [.io, .pwr]
  | .tjSample _ _ _ => report ++ [.seq, .dies, .acct, .fus, .lrn, .clap, .pwr]
  | .stackTempSample _ _ => report ++ [.seq, .dies, .acct, .fus, .lrn, .clap, .pwr]
  | .thermalStep _ _ => [.io, .pwr]
  | .coolantRead _ _ => report ++ [.pwr]
  | .hourlyTimer => report ++ [.pwr]
  | .journalWrite _ => report
  | .recordWriteDone _ _ => report
  | .flushStart _ _ _ => report ++ [.lrn]
  | .flushDone _ => report ++ [.pwr]
  | .ledgerResume _ => report
  | .ledgerRecoveryDone _ _ => report
  | .ldgFwWrite _ _ => access
  | .ldgFwRead _ => access ++ [.mem]
  | .ldgFwEntry _ _ => access
  | .bootTrial _ => access
  | .bootConfirm _ => access
  | .bootCancel _ => access
  | .fullCharge => report ++ [.hld]
  | .chargeTimeout => report
  | .storeRemoval => report ++ [.hld]
  | .presencePulse _ => report ++ [.hld]
  | .gaugeSample _ _ _ => report ++ [.hld]
  | .clrDeg _ => access
  | .dlkFlitReceive _ _ _ => report ++ [.eth, .dlk, .ing]
  | .dlkIdleFlit _ _ => [.io, .dlk]
  | .dlkRxTimeout _ => report ++ [.eth, .dlk, .ing]
  | .enumStart _ _ => access ++ [.eth, .dlk, .ing]
  | .enumMessage _ => report ++ [.eth, .dlk, .ing]
  | .enumTimeout => [.regs]
  | .timeFlit _ _ _ => [.regs, .io, .eth]
  | .copyStart _ _ => access ++ [.mem, .links, .cyc, .hld, .eth, .dlk, .ing, .lrn, .bw, .clap, .isl, .pwr, .boot, .mal]
  | .copyDone _ _ _ => access ++ [.mem, .links, .cyc, .hld, .eth, .dlk, .ing, .lrn, .bw, .clap, .isl, .pwr, .boot, .mal]
  | .remoteAccess _ _ _ _ _ => access ++ [.mem, .links, .cyc, .hld, .eth, .dlk, .ing, .lrn, .bw, .clap, .isl, .pwr, .boot, .mal]
  | .xbConfigWrite _ _ _ _ => access
  | .xbarArrive _ => report ++ [.dlk]
  | .xbarRelease _ _ => report ++ [.seq, .dies, .acct, .dlk, .pwr]
  | .dlkStatus _ _ => [.dlk]
  | .shiftExchange => [.io, .dlk]
  | .shiftPropose _ => report ++ [.pwr]
  | .shiftCommit _ _ => [.regs, .io, .dlk]
  | .dlkFence _ _ => report ++ [.eth, .dlk, .ing]
  | .fenceNotice _ _ => [.regs, .dlk]
  | .rootRouteTimeout => [.regs, .dlk]
  | .kaPowerOn => access ++ [.links, .cyc, .hld, .eth, .dlk, .ing, .lrn, .bw, .clap, .isl, .pwr, .boot, .mal]
  | .porstRise _ _ => [.regs, .dlk, .boot]
  | .porstFall => access ++ [.links, .cyc, .hld, .eth, .dlk, .ing, .lrn, .bw, .clap, .isl, .pwr, .boot, .mal]
  | .rstCtlWarm _ => access ++ [.links, .cyc, .hld, .eth, .dlk, .ing, .lrn, .bw, .clap, .isl, .pwr, .boot, .mal]
  | .rstCtlCold _ => access ++ [.links, .cyc, .hld, .eth, .dlk, .ing, .lrn, .bw, .clap, .isl, .pwr, .boot, .mal]
  | .hubWatchdogExpire _ => [.regs, .io, .cyc, .seq, .dies, .parts, .acct, .tiles, .fus, .mbx, .ing, .lrn, .bw, .boot]
  | .wdogKick _ _ => access ++ [.boot]
  | .tapReset => [.boot]
  | .islandResetPin _ => [.regs, .io, .isl]
  | .phaseTest _ _ _ _ _ => report ++ [.seq, .dies, .acct, .fus, .lrn, .clap, .pwr, .boot]
  | .softStartTimeout _ => report ++ [.boot]
  | .bootRom => report ++ [.boot]
  | .censusStage _ _ _ => report ++ [.boot]
  | .imageLoad _ => report ++ [.mem, .boot]
  | .handoff _ => [.regs, .io]
  | .lcRequest _ _ => access ++ [.lrn, .boot]
  | .lcBurnDone => [.regs, .boot]
  | .keyRevoke _ _ => access
  | .malletOffWrite _ => access ++ [.mem, .links, .cyc, .hld, .eth, .dlk, .ing, .lrn, .bw, .clap, .isl, .pwr, .boot, .mal]
  | .malletBadLine => [.regs, .io, .mal]
  | .malletSessionTimeout _ => [.regs, .io, .mal]
  | .malletHelp => [.regs, .io, .mal]
  | .malletId => [.regs, .io, .mal]
  | .malletStat => [.regs, .io, .mal]
  | .malletRd _ _ => access ++ [.mal]
  | .malletWr _ _ => access ++ [.mem, .links, .cyc, .hld, .eth, .dlk, .ing, .lrn, .bw, .clap, .isl, .pwr, .boot, .mal]
  | .malletMd _ _ => access ++ [.mal]
  | .malletMw _ _ => access ++ [.mem, .links, .cyc, .hld, .eth, .dlk, .ing, .lrn, .bw, .clap, .isl, .pwr, .boot, .mal]
  | .malletErr _ _ => access ++ [.mem, .links, .cyc, .hld, .eth, .dlk, .ing, .lrn, .bw, .clap, .isl, .pwr, .boot, .mal]
  | .malletLog _ => [.regs, .io, .mal]
  | .malletBaud _ => [.regs, .io, .mal]
  | .malletUnlock _ => [.regs, .io, .mal]
  | .malletUnlockKey _ => [.regs, .io, .mal]
  | .malletUnlockData _ => [.regs, .io, .mal]
  | .malletUnlockEnd _ _ _ => [.regs, .io, .mal]
  | .malletLock => [.regs, .io, .mal]
  | .malletCalib _ _ => report ++ [.mal]
  | .malletCensus => report ++ [.mal]
  | .malletReset => access ++ [.links, .cyc, .hld, .eth, .dlk, .ing, .lrn, .bw, .clap, .isl, .pwr, .boot, .mal]
  | .malletOff => [.regs, .io, .mal]
  | .clockWireFailure _ _ => report ++ [.seq, .dies]
  | .usxgmiiLinkChange _ _ _ => [.regs, .io, .eth]
  | .pcieLinkTraining _ _ _ => [.regs]
  | .downstreamMemoryWrite _ _ => access ++ [.mem, .links, .cyc, .hld, .eth, .dlk, .ing, .lrn, .bw, .clap, .isl, .pwr, .boot, .mal]
  | .grandmasterSync _ => [.io]
  | .gptpAnnounce _ _ => [.regs, .eth]
  | .gateIntervalEnd _ _ => [.regs, .io, .eth]
  | .canFrameComplete _ _ _ _ => [.regs, .io, .isl]
  | .receivedCharacter _ _ _ => [.regs, .io, .mal]
  | .softStartDone _ => [.regs, .io, .clap, .boot]

/-- The pieces of a list as a number, one bit each. -/
def Piece.mask : List Piece → Nat
  | [] => 0
  | p :: r => 2 ^ p.idx ||| Piece.mask r

/-! ### How statements speak -/

/-- A master that may address the control region and works for no partition (R279). -/
def controls (w : Agent) : Bool := !dataMaster w && (partOf w).isNone

/-- Command `c` completes in `s`, in a state of which `P` holds. -/
def Does (c : Instr) (s : State) (P : State → Prop) : Prop := ∃ t, exec c s = .next t ∧ P t

/-- Page `p` shows `c` as the last code it recorded, with its error cause pending (R445). -/
def codeIn (t : State) (p : Page) (c : Nat) : Prop :=
  getF t p Reg.HDR_ERR_INFO_LAST = c ∧ getF t p Reg.HDR_INT_STAT_ERR = 1

/-- Every register but those at the addresses of `l` reads in `t` as in `s`. -/
def regsBut (l : List Nat) (s t : State) : Prop := ∀ a, a ∉ l → regW t a = regW s a

/-- A control address whose word no record of an error code writes: not in a page's header, and not of the MBX or the LDG page
(R300, R379, R445). -/
abbrev quiet (a : Nat) : Prop := 64 ≤ a % 4096 ∧ a / 4096 ≠ 0x40033 ∧ a / 4096 ≠ 0x40050

/-- Every register but those at the addresses of `l`, and those that the record of an error code writes, reads in `t` as in `s`. -/
def quietBut (l : List Nat) (s t : State) : Prop := ∀ a, quiet a → a ∉ l → regW t a = regW s a

/-- What went out in `s` is the beginning of what went out in `t`. -/
def grows (s t : State) : Prop := ∃ l, t.io.outbox = s.io.outbox ++ l

/-- `e` went out between `s` and `t`. -/
def puts (e : Emission) (s t : State) : Prop := ∃ l r, t.io.outbox = s.io.outbox ++ (l ++ e :: r)

/-- Every piece of the state but those of `l`, and the queue, are in `t` what they were in `s`. -/
def samesBut (l : List Piece) (s t : State) : Prop := t.pending = s.pending ∧ ∀ p, p ∉ l → p.same s t

/-- Command `c` completes in `s` in a state of which `P` holds, and beside the pieces that it can reach (`reach`) nothing changes. -/
def Acts (c : Instr) (s : State) (P : State → Prop) : Prop := Does c s fun t => samesBut (reach c) s t ∧ P t

end Sys2Proof.Machine
end

