-- ==== Sys2Proof/Certificates/Slice0/Obligations.lean ====
section
/-! DEFINITION. The statements about the block, for the provers: what each command does in its own effect and what it leaves alone, and what every step keeps. -/

open Sys2Proof Sys2Proof.Machine

/-- A step takes the command at the front of the queue and answers what it does on the state with the queue's rest. -/
def Obligations.StepTakesFront : Prop :=
  ∀ (c : Instr) (rest : List Instr) (s : State), s.pending = c :: rest → step s = exec c { s with pending := rest }

/-- The model's choice of log entry 1: with no command waiting a step changes nothing. -/
def Obligations.EmptyQueueIdles : Prop := ∀ s : State, s.pending = [] → step s = .next s

/-- What the chapters' register tables give for reset: the part number, the die codes, the rails' current limits and the device links' page, the
requested operating points, the Clapper's and the partitions' figures, the credits of a port, the mailbox routes of the islands. -/
def Obligations.ResetValues : Prop :=
  getF State.reset pgHubId Reg.HUB_ID_PART_PART_NUM = 38528 ∧
  getF State.reset (pgCdId 2) Reg.HDR_PAGE_ID_DIE = 0x12 ∧ getF State.reset pgHubId Reg.HDR_PAGE_ID_DIE = 0x01 ∧
  getF State.reset (pgVrc 0) Reg.VRC_ILIM = 1600 ∧ getF State.reset (pgVrc 4) Reg.VRC_ILIM = 800 ∧
  getFi State.reset pgDvfs Reg.DVFS_OPC_REQ 3 = 0xC ∧ getFi State.reset pgDvfs Reg.DVFS_OPC_FLOOR_PEND 3 = 0 ∧
  getFi State.reset pgPrt Reg.PRT_REQ_DL 15 = 0x400 ∧ getF State.reset pgCyc Reg.CYC_STAT_STATE = 0 ∧
  getF State.reset pgSeq Reg.SEQ_TBL_STAT_SEQ_STATE = 0 ∧ seqState State.reset = 0 ∧
  (portOf State.reset 0).credits = [32, 32, 8] ∧ (portOf State.reset 19).credits = [32, 32, 8] ∧
  getFi State.reset pgMbx Reg.MBX_WROUTE_RECEIVER 0 = 8 ∧ getFi State.reset pgMbx Reg.MBX_WROUTE_RECEIVER 1 = 9 ∧
  State.reset.seq.active = [] ∧ State.reset.fus.st.nextId = 1

/-- The state right after reset is well kept and no command waits. -/
def Obligations.ResetKept : Prop := State.wf State.reset = true ∧ State.queueWf State.reset = true ∧ State.reset.pending = []

/-- Every step, of any command in any well-kept state, answers a next state that is well kept (memory, registers and tile tags in their canonical
forms, every unit in its place), and time and the drawing of free values never run back. -/
def Obligations.StepKeepsState : Prop :=
  ∀ s s' : State, State.wf s = true → step s = .next s' →
    State.wf s' = true ∧ s.io.now ≤ s'.io.now ∧ s.io.fresh ≤ s'.io.fresh

/-- The queue of commands is served in order and nothing is put into it: a step takes the front one and leaves the rest, whatever the command is, and
no step faults or is refused. -/
def Obligations.StepServesQueue : Prop :=
  ∀ s : State, ∃ s', step s = .next s' ∧ s'.pending = s.pending.tail

/-- Every command changes only what its rules give it to change: each other piece of State (memory, dies, links, ledger, Clapper, islands, power,
and so on) is as before. -/
def Obligations.ReachOfEveryCommand : Prop :=
  ∀ (c : Instr) (s t : State), exec c s = .next t → ∀ p, p ∉ reach c → p.same s t

/-- A record of an error code warns by R300 exactly where its chapter says so: codes 0x60 to 0x63, 0x65, 0x66 and 0x6A to 0x6F of power, every ledger
code but 0x7A, 0x80, 0x8B, 0x8C and 0x8E of the device links, 0x03, 0x0F and 0x1F of boot. -/
def Obligations.WarningCodes : Prop :=
  (∀ c, 0x60 ≤ c → c ≤ 0x6F → (codeWarns c = true ↔ c ≤ 0x63 ∨ c = 0x65 ∨ c = 0x66 ∨ 0x6A ≤ c)) ∧
  (∀ c, 0x70 ≤ c → c ≤ 0x7F → (codeWarns c = true ↔ c ≠ 0x7A)) ∧
  codeWarns 0x80 = true ∧ codeWarns 0x8B = true ∧ codeWarns 0x8C = true ∧ codeWarns 0x8E = true ∧
  codeWarns 0x03 = true ∧ codeWarns 0x0F = true ∧ codeWarns 0x1F = true

/-- LANE_REPAIR, REPAIR_FLIT, REPAIR_SWITCH and SPARE_PRBS_ERROR: the receiver that counts the eighth parity error of a wire within
10 ms takes a usable spare, tells the sender in a REPAIR flit 64 SEQ ahead, and has no spare to take otherwise; the sender notes the switch; at the switch
each direction reads and drives the spare; a spare that shows errors is marked. -/
def Obligations.LaneRepair : Prop :=
  ∀ (port wire spare sw : Nat) (s : State), port < 20 → wire < 64 → spare < 2 → s.links.ports.length = 21 →
    portTakes s port = true →
    (8 ≤ ((portOf s port).recent.filter (fun e => e.1 = wire ∧ s.io.now < e.2 + 10000000)).length → rxRepaired s port wire = false →
      (∀ k, pickRxSpare s port = some k → Does (.laneRepair port wire) s fun t =>
        samesBut (report ++ [.links]) s t ∧ (portOf t port).rxSwitch = some (wire, k, ((portOf s port).ack + 64) % 256) ∧
          puts (.repair port wire k (((portOf s port).ack + 64) % 256)) s t) ∧
      (pickRxSpare s port = none → Does (.laneRepair port wire) s fun t =>
        samesBut [.regs] s t ∧ portF t port Reg.PORT_P_STAT_NO_SPARE = 1 ∧
          regsBut [fieldAddr (portPage port).1 Reg.PORT_P_STAT_NO_SPARE (portPage port).2 0] s t)) ∧
    Does (.repairFlit port wire spare sw) s (fun t =>
      samesBut [.links] s t ∧ (portOf t port).txSwitch = some (wire, spare, sw % 256)) ∧
    ((portOf s port).rxSwitch = some (wire, spare, sw) → (portOf s port).txSwitch = none → Does (.repairSwitch port) s fun t =>
      samesBut [.regs, .links] s t ∧ (portOf t port).rxSwitch = none ∧
        (if spare = 0 then portF t port Reg.PORT_P_REPAIR_RX_A_V = 1 ∧ portF t port Reg.PORT_P_REPAIR_RX_A = wire
         else portF t port Reg.PORT_P_REPAIR_RX_B_V = 1 ∧ portF t port Reg.PORT_P_REPAIR_RX_B = wire)) ∧
    ((portOf s port).txSwitch = some (wire, spare, sw) → (portOf s port).rxSwitch = none → Does (.repairSwitch port) s fun t =>
      samesBut [.regs, .links] s t ∧ (portOf t port).txSwitch = none ∧
        (if spare = 0 then portF t port Reg.PORT_P_REPAIR_TX_A_V = 1 ∧ portF t port Reg.PORT_P_REPAIR_TX_A = wire
         else portF t port Reg.PORT_P_REPAIR_TX_B_V = 1 ∧ portF t port Reg.PORT_P_REPAIR_TX_B = wire)) ∧
    (txSpareFree s port spare = true → Does (.sparePrbsError port true spare) s fun t =>
      samesBut [.regs] s t ∧ (portF t port Reg.PORT_P_STAT_TX_SPARE_BAD).testBit spare = true ∧ txSpareFree t port spare = false) ∧
    (rxSpareFree s port spare = true → Does (.sparePrbsError port false spare) s fun t =>
      samesBut [.regs] s t ∧ (portF t port Reg.PORT_P_STAT_RX_SPARE_BAD).testBit spare = true ∧ rxSpareFree t port spare = false)

/-- FLIT_RECEIVE and CREDIT_ONLY_FLIT: a flit with a bad CRC or parity is discarded, NAK is returned and the failure is counted; a good one
in sequence is acknowledged and kept, what its ACK_SEQ covers leaves the replay buffer, and the credits that it returns are taken; credits owed
go out in a flit of CLASS 3, which takes no SEQ. -/
def Obligations.FlitReceive : Prop :=
  ∀ (port : Nat) (flit : Flit) (n : Nat) (s : State), port < 20 → s.links.ports.length = 21 → portTakes s port = true →
    (badWires flit ≠ [] ∨ crcHolds flit = false → (portOf s port).fails < 3 → Does (.flitReceive port flit n) s fun t =>
      samesBut (report ++ [.links, .seq, .dies]) s t ∧ (portOf t port).nak = true ∧ (portOf t port).fails = (portOf s port).fails + 1 ∧
        (portOf t port).ack = (portOf s port).ack ∧ (portOf t port).got = (portOf s port).got ∧
        (portOf t port).credits = (portOf s port).credits ∧
        portF t port Reg.PORT_P_ERR_REPLAYS = satAdd 16 (portF s port Reg.PORT_P_ERR_REPLAYS) 1 ∧
        ∃ f, puts (.flit port f) s t ∧ hdrF f 0 2 = 3 ∧ hdrF f 6 1 = 1) ∧
    (badWires flit = [] → crcHolds flit = true → hdrF flit 0 2 ≠ 3 → hdrF flit 8 8 = ((portOf s port).ack + 1) % 256 →
      nth0 (portOf s port).credits 0 + hdrF flit 24 4 ≤ 32 → nth0 (portOf s port).credits 1 + hdrF flit 28 4 ≤ 32 →
      nth0 (portOf s port).credits 2 + hdrF flit 32 2 ≤ 8 → Does (.flitReceive port flit n) s fun t =>
        samesBut (report ++ [.links, .seq, .dies]) s t ∧ (portOf t port).ack = hdrF flit 8 8 ∧ (portOf t port).got = some flit ∧
          (portOf t port).fails = 0 ∧ (portOf t port).nak = false ∧
          (portOf t port).replay = unacked (portOf s port) (hdrF flit 16 8) ∧
          (portOf t port).credits = [nth0 (portOf s port).credits 0 + hdrF flit 24 4, nth0 (portOf s port).credits 1 + hdrF flit 28 4,
            nth0 (portOf s port).credits 2 + hdrF flit 32 2] ∧ regsBut [] s t) ∧
    (sumOf (portOf s port).owed ≠ 0 → Does (.creditOnlyFlit port) s fun t =>
      samesBut [.io, .links] s t ∧ (∃ f, puts (.flit port f) s t ∧ hdrF f 0 2 = 3) ∧ (portOf t port).seq = (portOf s port).seq ∧
        (portOf t port).credits = (portOf s port).credits ∧ nth0 (portOf t port).owed 0 = nth0 (portOf s port).owed 0 - 15 ∧
        nth0 (portOf t port).owed 1 = nth0 (portOf s port).owed 1 - 15 ∧ nth0 (portOf t port).owed 2 = nth0 (portOf s port).owed 2 - 3)

/-- WLINK_RESET_RELEASE, DISCOVERY_REPLY, DISCOVERY_TIMEOUT and RING_DISCOVERY: every hub port that is not DOWN enters discovery and sends
its DISCOVERY flit; a reply of the right type makes the port UP with its peer and assigns a compute die its identity; one of the wrong type, or no
reply, takes it DOWN; a ring port whose peer is the right die is UP, another goes DOWN. -/
def Obligations.Discovery : Prop :=
  ∀ (port : Nat) (reply : DieReply) (bad : List (Nat × Nat × Bool)) (n : Nat) (s : State), s.links.ports.length = 21 →
    Does (.wlinkResetRelease bad n) s (fun t => samesBut (report ++ [.links]) s t ∧
      ∀ p < 6, portF s p Reg.PORT_P_STAT_STATE ≠ 4 → portF t p Reg.PORT_P_STAT_STATE = 2 ∧
        portF t (peerPort p) Reg.PORT_P_STAT_STATE = 2 ∧ puts (.discovery p) s t) ∧
    (port < 6 → portF s port Reg.PORT_P_STAT_STATE = 2 → s.links.ended.contains port = false →
      (reply.kind = (if port < 4 then 1 else 2) → Does (.discoveryReply port reply) s fun t =>
        samesBut (report ++ [.links, .seq, .dies]) s t ∧ t.links.ended.contains port = true ∧
          portF t port Reg.PORT_P_STAT_STATE = 3 ∧ portF t port Reg.PORT_P_STAT_PEER_DIE = (if port < 4 then 0x10 + port else 0x1C + port) ∧
          (port < 4 → flag t (pgWlkd port) Reg.WLKD_ID_ASSIGNED = true ∧ getF t (pgWlkd port) Reg.WLKD_ID_INDEX = port)) ∧
      (reply.kind ≠ (if port < 4 then 1 else 2) → Does (.discoveryReply port reply) s fun t =>
        samesBut (report ++ [.links, .seq, .dies]) s t ∧ t.links.ended.contains port = true ∧
          portF t port Reg.PORT_P_STAT_STATE = 4) ∧
      Does (.discoveryTimeout port) s (fun t =>
        samesBut (report ++ [.links, .seq, .dies]) s t ∧ t.links.ended.contains port = true ∧ portF t port Reg.PORT_P_STAT_STATE = 4)) ∧
    ∀ (d e w : Nat), d < 4 → flag s (pgWlkd d) Reg.WLKD_ID_ASSIGNED = true → portF s (8 + 3 * d) Reg.PORT_P_STAT_STATE ≠ 4 →
      portF s (7 + 3 * d) Reg.PORT_P_STAT_STATE ≠ 4 → e = (d + 1) % 4 → Does (.ringDiscovery d e w) s fun t =>
        samesBut (report ++ [.seq, .dies]) s t ∧ portF t (8 + 3 * d) Reg.PORT_P_STAT_STATE = (if w = (d + 3) % 4 then 3 else 4) ∧
          (w = (d + 3) % 4 → portF t (8 + 3 * d) Reg.PORT_P_STAT_PEER_DIE = 0x10 + w ∧
            portF t (7 + 3 * d) Reg.PORT_P_STAT_STATE = 3 ∧ portF t (7 + 3 * d) Reg.PORT_P_STAT_PEER_DIE = 0x10 + e)

/-- CLOCK_WIRE_FAILURE, STANDALONE_ENTER, LOOP_TEST_RUN and LOOP_TEST_DONE: a failed clock or valid wire takes the link DOWN; stand-alone mode is
entered in any lifecycle but PRODUCTION, where it and a loop test have no effect; the test of a port of a die in that mode runs and shows its result. -/
def Obligations.LoopTest : Prop :=
  ∀ (who : Agent) (port die : Nat) (valid : Bool) (failWire : Option Nat) (s : State), port < 20 → controls who = true →
    Does (.clockWireFailure port valid) s (fun t =>
      samesBut (report ++ [.seq, .dies]) s t ∧ portF t port Reg.PORT_P_STAT_STATE = 4) ∧
    Does (.standaloneEnter die) s (fun t => samesBut [.links] s t ∧
      t.links.ports = s.links.ports ∧ (lcState s ≠ 2 → t.links.alone.contains die = true) ∧ (lcState s = 2 → t.links = s.links)) ∧
    Does (.loopTestRun who port) s (fun t =>
      samesBut access s t ∧ (lcState s = 2 → t = s) ∧
        (lcState s ≠ 2 → s.links.alone.contains (portDie port) = true → portF s port Reg.PORT_P_LOOP_MODE = 1 ∨ portF s port Reg.PORT_P_LOOP_MODE = 2 →
          portF t port Reg.PORT_P_LOOP_RUN = 1 ∧ portF t port Reg.PORT_P_LOOP_DONE = 0 ∧ portF t port Reg.PORT_P_LOOP_PASS = 0 ∧
            portF t port Reg.PORT_P_STAT_STATE = 5 ∧ portF t port Reg.PORT_P_LOOP_MODE = portF s port Reg.PORT_P_LOOP_MODE)) ∧
    (portF s port Reg.PORT_P_LOOP_RUN = 1 → failWire.getD 0 < 128 → Does (.loopTestDone port failWire) s fun t =>
      samesBut [.regs] s t ∧ portF t port Reg.PORT_P_LOOP_RUN = 0 ∧ portF t port Reg.PORT_P_LOOP_DONE = 1 ∧
        portF t port Reg.PORT_P_LOOP_PASS = (if failWire = none then 1 else 0) ∧ portF t port Reg.PORT_P_LOOP_FAIL_WIRE = failWire.getD 0 ∧
        regsBut [fieldAddr (portPage port).1 Reg.PORT_P_LOOP_RUN (portPage port).2 0] s t)

/-- UCI_START, UCI_NEGOTIATION_DONE, UCI_NEGOTIATION_TIMEOUT and UCI_RUNTIME_FENCE: an IDLE partner port begins training; a partner that
trains, speaks revision 0x1 and asks for no more than a PWR_LIMIT above 0 becomes ACTIVE, and every other one, and a late one, fences the port with its cause; an ACTIVE port that fails fences itself. -/
def Obligations.PartnerPort : Prop :=
  ∀ (who : Agent) (o : PartnerOffer) (s : State),
    (controls who = true → getF s pgUci Reg.UCI_STAT_STATE = 1 → getF s pgHubId Reg.HUB_ID_PART_VARIANT = 1 → Does (.uciStart who) s fun t =>
      samesBut access s t ∧ getF t pgUci Reg.UCI_STAT_STATE = 2 ∧ getF t pgUci Reg.UCI_STAT_CAUSE = getF s pgUci Reg.UCI_STAT_CAUSE ∧
        regsBut [0x40059044] s t) ∧
    (uciRuns s = true →
      Does (.uciNegotiationDone o) s (fun t => samesBut report s t ∧ quietBut [0x40059044, 0x40059048] s t ∧
        (if o.sideband = false then getF t pgUci Reg.UCI_STAT_STATE = 5 ∧ getF t pgUci Reg.UCI_STAT_CAUSE = 1 ∧ t.mbx = s.mbx ∧ puts .uciFence s t
         else if o.trained = false then getF t pgUci Reg.UCI_STAT_STATE = 5 ∧ getF t pgUci Reg.UCI_STAT_CAUSE = 2 ∧ codeIn t pgUci 0x86 ∧ puts .uciFence s t
         else getF t pgUci Reg.UCI_PARTNER_ID = o.ident.toNat ∧
          (if o.revision ≠ 1 then
            getF t pgUci Reg.UCI_STAT_STATE = 5 ∧ getF t pgUci Reg.UCI_STAT_CAUSE = 3 ∧ codeIn t pgUci 0x87 ∧ puts .uciFence s t
           else if getF s pgUci Reg.UCI_PWR_LIMIT_LIMIT = 0 ∨ getF s pgUci Reg.UCI_PWR_LIMIT_LIMIT < o.power then
            getF t pgUci Reg.UCI_STAT_STATE = 5 ∧ getF t pgUci Reg.UCI_STAT_CAUSE = 4 ∧ codeIn t pgUci 0x87 ∧ puts .uciFence s t
           else getF t pgUci Reg.UCI_STAT_STATE = 4))) ∧
      Does .uciNegotiationTimeout s (fun t => samesBut report s t ∧ quietBut [0x40059044] s t ∧ getF t pgUci Reg.UCI_STAT_STATE = 5 ∧
        getF t pgUci Reg.UCI_STAT_CAUSE = 5 ∧ codeIn t pgUci 0x87 ∧ puts .uciFence s t)) ∧
    (getF s pgUci Reg.UCI_STAT_STATE = 4 → Does .uciRuntimeFence s fun t => samesBut (report ++ [.seq, .dies]) s t ∧
      quietBut [0x40059044] s t ∧ getF t pgUci Reg.UCI_STAT_STATE = 5 ∧ getF t pgUci Reg.UCI_STAT_CAUSE = 6 ∧ codeIn t pgUci 0x89 ∧
        puts .uciFence s t)

/-- LOCK takes its key alone; it then sticks and PAGE_STAT shows it. INT_FORCE sets INT_STAT bits without an error. OWNER
takes an owner that no held stroke forbids. -/
def Obligations.PageHeaderWrites : Prop :=
  ∀ (who : Agent) (n : Nat) (s : State), controls who = true → (who = .host → hostDenied (.hub n) = false) → n < 0x63 →
    blkOf (.hub n) ≠ none →
    (∀ v : Word, Does (.registerWrite who (pageBase (.hub n) + 0x38) v) s fun t =>
      regW t (pageBase (.hub n) + 0x38) = v ∧ t.io.resp = ⟨[], true, false⟩ ∧
        regsBut [pageBase (.hub n) + 0x38] s t ∧ samesBut [.regs, .io] s t) ∧
    Does (.pageLock who (.hub n) 0x4C4B0001#32) s (fun t =>
      locked t (.hub n) = true ∧ flag t (.hub n) Reg.HDR_PAGE_STAT_LOCKED = true ∧
        regsBut [pageBase (.hub n) + 0x10, pageBase (.hub n) + 0x30] s t ∧ samesBut [.regs, .io] s t) ∧
    (∀ v : Word, v ≠ 0x4C4B0001#32 → Does (.pageLock who (.hub n) v) s fun t =>
      regsBut [] s t ∧ samesBut [.io] s t) ∧
    (∀ v : Word, Does (.intForce who (.hub n) v) s fun t =>
      getF t (.hub n) Reg.HDR_INT_STAT_BLOCK = (getF s (.hub n) Reg.HDR_INT_STAT_BLOCK ||| v.toNat % 2 ^ 31) ∧
        getF t (.hub n) Reg.HDR_INT_STAT_ERR = (if v.toNat.testBit 31 then 1 else getF s (.hub n) Reg.HDR_INT_STAT_ERR) ∧
        regsBut [pageBase (.hub n) + 0x14] s t ∧ samesBut [.regs, .io] s t) ∧
    (∀ o : Byte, pageCap (.hub n) 2 = true → locked s (.hub n) = false → (o.toNat ≤ 15 ∨ o.toNat = 0xFF) →
      ownerFails s (.hub n) o.toNat = false → Does (.ownerWrite who (.hub n) o) s fun t =>
        getF t (.hub n) Reg.HDR_OWNER = o.toNat ∧ regsBut [pageBase (.hub n) + 0x34] s t ∧ samesBut [.regs, .io] s t)

/-- PAGE_FREEZE, PAGE_ENABLE_WRITE and PAGE_SOFT_RESET on a hub page. FREEZE keeps the counters as they stand; ENABLE of a gateable page and
SOFT_RESET of a page that has it are taken unless the page is locked or its block is in use, which records 0x05 and changes nothing else; a soft
reset returns every word from offset 0x40 on to its reset value, but for the part's own fields. -/
def Obligations.PageControl : Prop :=
  ∀ (who : Agent) (n : Nat) (s : State), controls who = true → (who = .host → hostDenied (.hub n) = false) → n < 0x63 →
    blkOf (.hub n) ≠ none → s.wf = true →
    Does (.pageFreeze who (.hub n) true) s (fun t => samesBut [.regs, .io] s t ∧
      flag t (.hub n) Reg.HDR_PAGE_CTL_FREEZE = true ∧ flag t (.hub n) Reg.HDR_PAGE_STAT_FROZEN = true ∧
        getF t (.hub n) Reg.HDR_PAGE_CTL_ENABLE = getF s (.hub n) Reg.HDR_PAGE_CTL_ENABLE ∧
        (flag s (.hub n) Reg.HDR_PAGE_STAT_FROZEN = false → t.io.frozen = snapshot s (.hub n) ++ s.io.frozen) ∧
        regsBut [pageBase (.hub n) + 0x0C, pageBase (.hub n) + 0x10] s t) ∧
    Does (.pageFreeze who (.hub n) false) s (fun t => samesBut [.regs, .io] s t ∧
      flag t (.hub n) Reg.HDR_PAGE_CTL_FREEZE = false ∧ flag t (.hub n) Reg.HDR_PAGE_STAT_FROZEN = false ∧
        (∀ e ∈ t.io.frozen, e ∈ s.io.frozen ∧ ¬ (pageBase (.hub n) ≤ e.1 % 2 ^ 32 ∧ e.1 % 2 ^ 32 < pageBase (.hub n) + 0x1000)) ∧
        regsBut [pageBase (.hub n) + 0x0C, pageBase (.hub n) + 0x10] s t) ∧
    (∀ en : Bool, pageCap (.hub n) 0 = true → locked s (.hub n) = false → blockInUse s (.hub n) = false →
      Does (.pageEnableWrite who (.hub n) en) s fun t => samesBut [.regs, .io] s t ∧ flag t (.hub n) Reg.HDR_PAGE_CTL_ENABLE = en ∧
        getF t (.hub n) Reg.HDR_PAGE_CTL_FREEZE = getF s (.hub n) Reg.HDR_PAGE_CTL_FREEZE) ∧
    (pageCap (.hub n) 0 = true → locked s (.hub n) = true → flag s (.hub n) Reg.HDR_PAGE_CTL_ENABLE = true → n ≠ 0x33 → n ≠ 0x50 →
      Does (.pageEnableWrite who (.hub n) false) s fun t => codeIn t (.hub n) 0x05 ∧
        flag t (.hub n) Reg.HDR_PAGE_CTL_ENABLE = true) ∧
    (pageCap (.hub n) 1 = true → locked s (.hub n) = false → blockInUse s (.hub n) = false → blkOf (.hub n) ≠ some .trk → blkOf (.hub n) ≠ some .dbg →
      Does (.pageSoftReset who (.hub n)) s fun t => samesBut [.regs, .io, .ing] s t ∧
        ∀ off, 0x40 ≤ off → off < 0x1000 → regW t (pageBase (.hub n) + off) =
          (if regW s (pageBase (.hub n) + off) = resetWord (pageBase (.hub n) + off) then resetWord (pageBase (.hub n) + off)
           else resetKeep (.hub n) off (regW s (pageBase (.hub n) + off))))

/-- LO_WORD_READ, DEVICE_ACCESS and MALLET_OFF_WRITE by a master that works for no partition: a read of a LO word answers it and keeps what its HI word
showed, which a read of the HI word answers; a write of hub SRAM stores its bytes and no others, a read answers them; DBG.OFF silences Mallet. -/
def Obligations.DeviceAccess : Prop :=
  ∀ (who : Agent) (n off a : Nat) (b : List Byte) (s : State), controls who = true →
    (n < 0x63 → off < 0x1000 → blkOf (.hub n) ≠ none → isLoWord (.hub n) off = true →
      Does (.loWordRead who (pageBase (.hub n) + off)) s (fun t => samesBut [.io] s t ∧
        t.io.resp = ⟨leBytes 4 (readWord s (.hub n) off), true, false⟩ ∧
          t.io.latch.head? = some (pageBase (.hub n) + off + 4, BitVec.ofNat 32 (readWord s (.hub n) (off + 4)))) ∧
      ∀ w : Word, s.io.latch.head? = some (pageBase (.hub n) + off + 4, w) →
        Does (.deviceAccess who (pageBase (.hub n) + off + 4) 4 none) s fun t => samesBut [.io] s t ∧
          t.io.resp = ⟨leBytes 4 w.toNat, true, false⟩) ∧
    (0x04000000 ≤ a → b ≠ [] → a + b.length ≤ 0x06000000 →
      Does (.deviceAccess who a b.length (some b)) s (fun t => samesBut [.io, .mem] s t ∧ t.io.resp = ⟨[], true, false⟩ ∧
        memBytes t a b.length = b ∧ ∀ x, x < a ∨ a + b.length ≤ x → sparseGet memDefault t.mem x = sparseGet memDefault s.mem x) ∧
      Does (.deviceAccess who a b.length none) s (fun t => samesBut [.io] s t ∧ t.io.resp = ⟨memBytes s a b.length, true, false⟩)) ∧
    (who ≠ .host → locked s pgDbg = false → Does (.malletOffWrite who) s fun t => samesBut [.regs, .io] s t ∧
      flag t pgDbg Reg.DBG_MAL_OFF = true ∧ flag t pgDbg Reg.DBG_MAL_SESSION = false ∧ regsBut [0x40061044] s t)

/-- What the access path refuses: a data master's access to the control region (0x09 in HUB_ID), a host write of a page of the
ledger, security, debug or the Clapper (0x06), and an access to a register that is not of one aligned word (0x04 in its page). -/
def Obligations.AccessRefused : Prop :=
  ∀ (who : Agent) (n off : Nat) (v : Word) (s : State), n < 0x63 → off < 0x1000 → blkOf (.hub n) ≠ none →
    (dataMaster who = true → partOf who = none → off % 4 = 0 → Does (.registerWrite who (pageBase (.hub n) + off) v) s fun t =>
      t.io.resp.done = false ∧ codeIn t pgHubId 0x09 ∧ quietBut [] s t ∧ samesBut report s t) ∧
    (hostDenied (.hub n) = true → off % 4 = 0 → Does (.registerWrite .host (pageBase (.hub n) + off) v) s fun t =>
      codeIn t pgHubId 0x06 ∧ quietBut [] s t ∧ samesBut report s t) ∧
    (controls who = true → off % 4 ≠ 0 → n ≠ 0x33 → n ≠ 0x50 → Does (.registerWrite who (pageBase (.hub n) + off) v) s fun t =>
      t.io.resp.done = false ∧ codeIn t (.hub n) 0x04 ∧ quietBut [] s t ∧ samesBut report s t)

/-- TIMEBASE_RUN, TIMEBASE_STOP, DOWNBEAT_EDGE, DOWNBEAT_MISSING, BAR_BOUNDARY and TIMEBASE_LOST: RUN takes OFF to ACQUIRE, or records 0x29 where PERIOD_NOM is out
of its range; four good edges in a row lock the bar; in LOCKED and HOLDOVER an edge in the window sets the bar's length to P + e, another is displaced, a missing one is HOLDOVER
with the length P; the boundary comes at the predicted instant; HOLD_MAX boundaries in HOLDOVER are the loss, back to ACQUIRE with no bar. -/
def Obligations.Timebase : Prop :=
  ∀ (who : Agent) (n : Nat) (s : State),
    (controls who = true →
      (cycState s = 0 → periodNom s < 16666666 ∨ 100000000 < periodNom s → Acts (.timebaseRun who n) s fun t =>
        quietBut [0x40002040] s t ∧ codeIn t pgCyc 0x29 ∧ getF t pgCyc Reg.CYC_CTL_RUN = 0 ∧ cycState t = 0) ∧
      (cycState s = 0 → ¬ (periodNom s < 16666666 ∨ 100000000 < periodNom s) → Acts (.timebaseRun who n) s fun t =>
        getF t pgCyc Reg.CYC_CTL_RUN = 1 ∧ cycState t = 1 ∧ t.cyc = { s.cyc with run := 0 }) ∧
      Acts (.timebaseStop who) s (fun t => cycState t = 0 ∧
        (barsRun s = true → t.cyc.run = 0 ∧ t.cyc.ivals = []) ∧ (barsRun s = false → getF t pgCyc Reg.CYC_CTL_RUN = 0 ∧ t.cyc = s.cyc ∧ regsBut [0x40002040, 0x40002048] s t))) ∧
    (getF s pgCyc Reg.CYC_CTL_SRC = 0 ∨ getF s pgEth Reg.ETH_PTP_STAT_STATE ≠ 3 →
      (cycState s = 1 → s.cyc.run = 0 ∨ goodInterval s ((n : Int) - s.cyc.lastEdge) = false → Acts (.downbeatEdge n) s fun t =>
        regsBut [] s t ∧ t.cyc = { s.cyc with run := 1, lastEdge := n, ivals := [] }) ∧
      (cycState s = 1 → s.cyc.run = 1 ∨ s.cyc.run = 2 → goodInterval s ((n : Int) - s.cyc.lastEdge) = true → Acts (.downbeatEdge n) s fun t =>
        regsBut [] s t ∧
          t.cyc = { s.cyc with run := s.cyc.run + 1, lastEdge := n, ivals := ((n : Int) - s.cyc.lastEdge) :: s.cyc.ivals }) ∧
      (cycState s = 1 → s.cyc.run = 3 → goodInterval s ((n : Int) - s.cyc.lastEdge) = true → Acts (.downbeatEdge n) s fun t =>
        getF t pgCyc Reg.CYC_PHASE_ERR = 0 ∧ getF t pgCyc Reg.CYC_STAT_MISSED = 0 ∧
          t.cyc.bound = cycUnits n ∧ t.cyc.p = meanPeriod s (((n : Int) - s.cyc.lastEdge) :: s.cyc.ivals) ∧ t.cyc.len = t.cyc.p ∧ t.cyc.edge = some n ∧ t.cyc.resolved = true) ∧
      (barsRun s = true → inWindow n s.cyc.bound = true → s.cyc.resolved = false → Acts (.downbeatEdge n) s fun t =>
        regsBut [0x40002048, 0x40002054, 0x40002058] s t ∧
          cycState t = 2 ∧ getF t pgCyc Reg.CYC_STAT_MISSED = 0 ∧ t.cyc.bound = s.cyc.bound ∧ t.cyc.edge = some n ∧ t.cyc.resolved = true ∧ t.cyc.missed = 0 ∧
          t.cyc.len = t.cyc.p + (cycUnits n - s.cyc.bound) ∧ (s.cyc.prevEdge = none → t.cyc.p = s.cyc.p)) ∧
      (barsRun s = true → inWindow n s.cyc.bound = false → (inWindow n (nextBound s) = false ∨ s.cyc.early ≠ none) → Acts (.downbeatEdge n) s fun t =>
        quietBut [0x40002064] s t ∧ codeIn t pgCyc 0x28 ∧ t.cyc = s.cyc)) ∧
    (barsRun s = true → s.cyc.resolved = false → Acts .downbeatMissing s fun t => quietBut [0x40002048] s t ∧
      cycState t = 3 ∧ codeIn t pgCyc 0x27 ∧ t.cyc = { s.cyc with resolved := true, edge := none, len := s.cyc.p }) ∧
    (barsRun s = true → s.cyc.resolved = true → s.cyc.early = none → lossDue s = false → Acts .barBoundary s fun t =>
      t.cyc = { s.cyc with bound := s.cyc.bound + s.cyc.len, len := s.cyc.p, prevEdge := s.cyc.edge, edge := none, resolved := false, early := none,
                             missed := if cycState s = 3 then s.cyc.missed + 1 else 0 }) ∧
    (cycState s = 3 → holdMax s ≤ s.cyc.missed → Acts .timebaseLost s fun t => cycState t = 1 ∧ seqState t ≠ 2 ∧ t.cyc.run = 0 ∧ t.cyc.ivals = [])

/-- A stroke at the front of those due that is neither voided nor held by a gate fires with its own effect: RUN and RUN_PAIRED start a run, WAIT_LINES opens a gate that its
line satisfies, BARRIER opens a gate, COLLECT and EMIT wait for what they need, FUSE waits for its open COLLECT or starts the job of a free unit. -/
def Obligations.StrokesFire : Prop :=
  ∀ (idx bar : Nat) (k : Stroke) (rest : List (Nat × Nat × Stroke)) (s : State),
    s.seq.due = (idx, bar, k) :: rest → voided s k = false → gated s (stPart k) bar = false →
    (stOp k = 1 → Acts .run s fun t => t.seq.due = rest ∧ ∃ x ∈ t.seq.runs, x.idx = idx ∧ x.bar = bar ∧ x.raw = k) ∧
    (stOp k = 2 → Acts .runPaired s fun t => t.seq.due = rest ∧ ∃ x ∈ t.seq.runs, x.idx = idx ∧ x.bar = bar ∧ x.raw = k) ∧
    (stOp k = 3 → lineReached s (stStream k) (stBudget k) = false → Acts .waitLines s fun t =>
      t.seq = { s.seq with due := rest, runs := s.seq.runs ++ [firedRun idx k bar] } ∧ regsBut [] s t) ∧
    (stOp k = 3 → lineReached s (stStream k) (stBudget k) = true → Acts .waitLines s fun t =>
      t.seq.due = rest ∧ ∀ x ∈ t.seq.runs, x.idx = idx → x.bar = bar → x.phase = .done) ∧
    (stOp k = 4 → Acts .barrier s fun t => t.seq = { s.seq with due := rest, runs := s.seq.runs ++ [firedRun idx k bar] }) ∧
    (stOp k = 5 → Acts .collect s fun t => t.seq = { s.seq with due := rest, runs := s.seq.runs ++ [firedRun idx k bar] } ∧ regsBut [] s t) ∧
    (stOp k = 7 → Acts .emit s fun t => t.seq = { s.seq with due := rest, runs := s.seq.runs ++ [firedRun idx k bar] } ∧ regsBut [] s t)

/-- FUSE: with the unit free and no other FUSE waiting, one whose COLLECT has not completed waits; one that has none, and whose job descriptor its partition may read, starts
the job; a job of EGO or TRACK is for the owner of the track store alone. -/
def Obligations.FuseStarts : Prop :=
  ∀ (idx bar : Nat) (k : Stroke) (rest : List (Nat × Nat × Stroke)) (s : State),
    s.seq.due = (idx, bar, k) :: rest → voided s k = false → gated s (stPart k) bar = false → stOp k = 6 →
    (∀ x ∈ s.seq.runs, stOp x.raw = 6 → x.phase ≠ .active) →
    (fuseReady (addRun (firedRun idx k bar) s) (firedRun idx k bar) = false → Acts .fuse s fun t =>
      t.seq = { s.seq with due := rest, runs := s.seq.runs ++ [firedRun idx k bar] } ∧ regsBut [] s t) ∧
    (s.fus.job = none → predOf (addRun (firedRun idx k bar) s) (firedRun idx k bar) [5] = none → accRefused s 0 (stPart k) ⟨false, 0, stDesc k * 64, 64⟩ = none →
      ((bitsSet 8 (dF (memBytes s (stDesc k * 64) 64) 0 0 8)).contains 2 = false ∧ (bitsSet 8 (dF (memBytes s (stDesc k * 64) 64) 0 0 8)).contains 6 = false) ∨
        getF s pgTrk Reg.TRK_CTL_OWNER = stPart k → Acts .fuse s fun t =>
      t.seq = { s.seq with due := rest, runs := s.seq.runs ++ [firedRun idx k bar] } ∧
        ∃ j, t.fus.job = some j ∧ j.stroke = idx ∧ j.bar = bar ∧ j.part = stPart k ∧ j.raw = memBytes s (stDesc k * 64) 64)

/-- MARK, NOP and SWAP_POINT fire whatever a gate holds: MARK steps its ring pointer and writes at most its own sixteen bytes, NOP has no effect, SWAP_POINT
commits the island's request before the core's. -/
def Obligations.StrokesUngated : Prop :=
  ∀ (idx bar : Nat) (k : Stroke) (rest : List (Nat × Nat × Stroke)) (s : State),
    s.seq.due = (idx, bar, k) :: rest →
    (stOp k = 8 → partState s (stPart k) = 1 → Acts .mark s fun t =>
      t.seq = { s.seq with due := rest, runs := s.seq.runs ++ [{ firedRun idx k bar with phase := .done }] } ∧
        getF t pgSeq Reg.SEQ_MARK_WR = (getF s pgSeq Reg.SEQ_MARK_WR + 1) % 256 ∧
        ∀ a, a < getF s pgSeq Reg.SEQ_MARK_BASE * 64 + getF s pgSeq Reg.SEQ_MARK_WR * 16 ∨ getF s pgSeq Reg.SEQ_MARK_BASE * 64 + getF s pgSeq Reg.SEQ_MARK_WR * 16 + 16 ≤ a →
          sparseGet memDefault t.mem a = sparseGet memDefault s.mem a) ∧
    (stOp k = 9 → Acts .nop s fun t => t.seq = { s.seq with due := rest, runs := s.seq.runs ++ [{ firedRun idx k bar with phase := .done }] } ∧ regsBut [] s t) ∧
    (stOp k = 10 → s.seq.committed = none → getF s pgSeq Reg.SEQ_TBL_STAT_SHADOW = 4 → getF s pgSeq Reg.SEQ_TBL_STAT_ISL_PENDING = 1 ∨ getF s pgSeq Reg.SEQ_TBL_STAT_CORE_PENDING = 1 →
      Acts .swapPoint s fun t => t.seq.committed = some (if getF s pgSeq Reg.SEQ_TBL_STAT_ISL_PENDING = 1 then .island else .core) ∧ getF t pgSeq Reg.SEQ_TBL_STAT_SHADOW = 6 ∧
        getF t pgSeq Reg.SEQ_TBL_STAT_ISL_PENDING = 0 ∧ getF t pgSeq Reg.SEQ_TBL_STAT_CORE_PENDING = 0 ∧ regsBut [fieldAddr pgSeq Reg.SEQ_TBL_STAT_SHADOW 0 0] s t) ∧
    (stOp k = 10 → s.seq.committed ≠ none ∨ getF s pgSeq Reg.SEQ_TBL_STAT_SHADOW ≠ 4 → Acts .swapPoint s fun t =>
      t.seq = { s.seq with due := rest, runs := s.seq.runs ++ [{ firedRun idx k bar with phase := .done }] } ∧ regsBut [] s t)

/-- A stroke that fires voided has no work: it completes at once as failed. One that a gate of its partition holds waits for the gate. -/
def Obligations.StrokesVoidedOrHeld : Prop :=
  ∀ (idx bar : Nat) (k : Stroke) (rest : List (Nat × Nat × Stroke)) (s : State) (n : Nat) (c : Instr),
    s.seq.due = (idx, bar, k) :: rest → stOp k = n → (n, c) ∈ [(1, .run), (2, .runPaired), (3, .waitLines), (4, .barrier), (6, .fuse)] →
    (voided s k = true → Acts c s fun t => t.seq = { s.seq with due := rest, runs := s.seq.runs ++ [voidedRun idx k bar] } ∧ regsBut [] s t) ∧
    (voided s k = false → gated s (stPart k) bar = true → Acts c s fun t =>
      t.seq = { s.seq with due := rest, runs := s.seq.runs ++ [{ firedRun idx k bar with phase := .held }] } ∧ regsBut [] s t)

/-- What ends a stroke: a gate's line or its partition's RUNs resolve the gate, and its tick D fails it, with the strokes it held due again; a RUN completes with its engines, or by its budget, which
counts as an overrun of its partition; a COLLECT completes with its buffer, an EMIT with its batch, one marked invalid where its predecessor failed or is late. -/
def Obligations.StrokesEnd : Prop :=
  ∀ (p : Nat) (r : StrokeRun) (s : State),
    (openGate s p 3 = some r → linesThere s r = true → pastD s r = false → Acts (.gateSatisfied p) s fun t =>
      ∀ x ∈ t.seq.runs, (x.idx = r.idx → x.bar = r.bar → x.phase = .done) ∧ (stPart x.raw = stPart r.raw → x.phase ≠ .held)) ∧
    (openGate s p 4 = some r → runsEnded s r = true → pastD s r = false → crossSet s p = none → Acts (.barrierSatisfied p) s fun t =>
      ∀ x ∈ t.seq.runs, (x.idx = r.idx → x.bar = r.bar → x.phase = .done) ∧ (stPart x.raw = stPart r.raw → x.phase ≠ .held)) ∧
    (s.seq.runs.find? (fun x => stPart x.raw = p && gateOpen x && pastD s x) = some r → Acts (.gateFailed p) s fun t =>
      (∀ x ∈ t.seq.runs, (x.idx = r.idx → x.bar = r.bar → x.phase = .done) ∧ (stPart x.raw = p → x.phase ≠ .held)) ∧
        ((∀ x ∈ s.seq.runs, stOp x.raw ≠ 7) → p ∈ t.seq.voiding) ∧ (stOp r.raw = 3 → stClass r.raw ≠ 0 → codeIn t pgSeq 0x2D)) ∧
    (activeRun s p = some r →
      (stIsRun r.raw = true → r.targets = [] → Acts (.strokeComplete p) s fun t => ∀ x ∈ t.seq.runs, x.idx = r.idx → x.bar = r.bar → x.phase = .done) ∧
      (stIsRun r.raw = true → r.targets ≠ [] → Acts (.budgetExpiry p) s fun t => (∀ x ∈ t.seq.runs, x.idx = r.idx → x.bar = r.bar → x.phase = .done) ∧
        t.parts = s.parts.modify (stPart r.raw) (fun x => { x with overruns := x.overruns + 1 })) ∧
      (stOp r.raw = 5 → (collectSet s r).all (fun x => !runOpen x) = true → undrained s (collectSet s r) = false → Acts (.collectWrite p) s fun t =>
        ∀ x ∈ t.seq.runs, x.idx = r.idx → x.bar = r.bar → x.phase = .done) ∧
      (stOp r.raw = 7 → (emitPred s r).1 = true → Acts (.emitDeliver p) s fun t => (∀ x ∈ t.seq.runs, x.idx = r.idx → x.bar = r.bar → x.phase = .done) ∧
        ((emitPred s r).2 = true → ∃ n : Notice, n.part = stPart r.raw ∧ n.stroke = r.idx ∧ n.valid = false ∧ puts (.island 0 (.notice n)) s t ∧ puts (.island 1 (.notice n)) s t)) ∧
      (stOp r.raw = 7 → (emitPred s r).1 = false → pastD s r = true → Acts (.emitDeadline p) s fun t => (∀ x ∈ t.seq.runs, x.idx = r.idx → x.bar = r.bar → x.phase = .done) ∧
        ∃ n : Notice, n.part = stPart r.raw ∧ n.stroke = r.idx ∧ n.valid = false ∧ puts (.island 0 (.notice n)) s t ∧ puts (.island 1 (.notice n)) s t))

/-- TICK and RESULT_DRAIN: the tick advances by 1 and the active table's strokes of that tick come due where the sequencer runs; the collector takes one entry, of the queues
in turn, and drops one of a former epoch. -/
def Obligations.TickAndDrain : Prop :=
  ∀ (q : Nat) (l : List Nat) (e : ResEntry) (m : List ResEntry) (s : State),
    (barsRun s = true → curTick s < 65535 → (∀ r ∈ s.seq.runs, r.carry = false) →
      (seqState s ≠ 2 → Acts .tick s fun t => curTick t = curTick s + 1 ∧ t.seq = s.seq ∧ regsBut [0x40002048] s t) ∧
      (seqState s = 2 → curTick s < 65534 → Acts .tick s fun t => curTick t = curTick s + 1 ∧ t.seq = { s.seq with due := s.seq.due ++ strokesAt s (curTick s + 1) } ∧
        regsBut [0x40002048] s t)) ∧
    (drainOrder s = q :: l → (dieOf s (q / 16)).resq.getD (q % 16) [] = e :: m →
      Acts .resultDrain s fun t => t.seq.drain = (q + 1) % 64 ∧ (dieOf t (q / 16)).resq.getD (q % 16) [] = m ∧
        (e.epoch ≠ getF s pgSeq Reg.SEQ_EPOCH % 64 → (∀ r ∈ s.seq.runs, r.carry = false) → t.seq.runs = s.seq.runs ∧
          getF t pgCol Reg.COL_STALE = satAdd 32 (getF s pgCol Reg.COL_STALE) 1))

/-- Stroke tables: LOAD copies a table of 1 to 4096 strokes into the shadow, ADMIT has it checked, a swap request on an ADMITTED shadow stands until a swap point or, in IDLE, takes
effect at once; the island in charge alone makes and withdraws the island's request; STOP takes effect at the next boundary while RUNNING, at once otherwise. -/
def Obligations.TableRequests : Prop :=
  ∀ (who : Agent) (s : State), controls who = true →
    (s.seq.committed ≠ none ∨ s.seq.fallback ≠ none → Acts (.tableLoad who) s fun t => t = s) ∧
    (s.seq.committed = none → s.seq.fallback = none → getF s pgSeq Reg.SEQ_SHADOW_LEN = 0 ∨ 4096 < getF s pgSeq Reg.SEQ_SHADOW_LEN → Acts (.tableLoad who) s fun t =>
      shadowState t = 5 ∧ codeIn t pgAdm 0x22 ∧ getF t pgAdm Reg.ADM_CODE = 0x22 ∧ getF t pgAdm Reg.ADM_PASS = 0 ∧ getF t pgAdm Reg.ADM_DONE = 1 ∧ t.seq = { s.seq with shadow := [], badLen := true, chk := none }) ∧
    (s.seq.committed = none → s.seq.fallback = none → 0 < getF s pgSeq Reg.SEQ_SHADOW_LEN → getF s pgSeq Reg.SEQ_SHADOW_LEN ≤ 4096 → Acts (.tableLoad who) s fun t =>
      shadowState t = 1 ∧ getF t pgSeq Reg.SEQ_TBL_STAT_CORE_PENDING = 0 ∧ getF t pgSeq Reg.SEQ_TBL_STAT_ISL_PENDING = 0 ∧ t.seq.shadow.length = getF s pgSeq Reg.SEQ_SHADOW_LEN ∧
        t.seq = { s.seq with shadow := t.seq.shadow, badLen := false, chk := none }) ∧
    (shadowState s ≠ 1 → shadowState s ≠ 6 → s.seq.fallback = none → s.seq.shadow ≠ [] → Acts (.requestAdmission who) s fun t =>
      shadowState t = 3 ∧ getF t pgAdm Reg.ADM_DONE = 0 ∧ regsBut [fieldAddr pgSeq Reg.SEQ_TBL_STAT_SHADOW 0 0, fieldAddr pgAdm Reg.ADM_DONE 0 0] s t ∧
        ∃ prior, t.seq = { s.seq with chk := some (flag s pgSeq Reg.SEQ_TBL_CTL_CHECK_ONLY, prior) } ∧ (s.seq.chk = none → prior = shadowState s)) ∧
    (shadowState s ≠ 1 → shadowState s ≠ 6 → s.seq.fallback = none → s.seq.shadow = [] → Acts (.requestAdmission who) s fun t =>
      shadowState t = 5 ∧ codeIn t pgAdm 0x22 ∧ getF t pgAdm Reg.ADM_CODE = 0x22 ∧ getF t pgAdm Reg.ADM_PASS = 0 ∧ t.seq = s.seq) ∧
    (shadowState s ≠ 4 → Acts (.swapRequest who) s fun t => quietBut [] s t ∧ codeIn t pgSeq 0x2C ∧ t.seq = s.seq) ∧
    (shadowState s = 4 → seqState s ≠ 0 → Acts (.swapRequest who) s fun t =>
      getF t pgSeq Reg.SEQ_TBL_STAT_CORE_PENDING = 1 ∧ regsBut [fieldAddr pgSeq Reg.SEQ_TBL_STAT_SHADOW 0 0] s t ∧ t.seq = s.seq) ∧
    (shadowState s = 4 → seqState s = 0 → s.seq.runs = [] → Acts (.swapRequest who) s fun t =>
      seqState t = 1 ∧ t.seq.active = s.seq.shadow ∧ t.seq.shadow = s.seq.active ∧ t.seq.due = [] ∧ t.seq.runs = []) ∧
    Acts (.swapCancel who) s (fun t => getF t pgSeq Reg.SEQ_TBL_STAT_CORE_PENDING = 0 ∧ regsBut [fieldAddr pgSeq Reg.SEQ_TBL_STAT_SHADOW 0 0] s t ∧ t.seq = s.seq) ∧
    (shadowState s = 4 → seqState s ≠ 0 → inCharge s who = true → Acts (.islSwapRequest who) s fun t =>
      getF t pgSeq Reg.SEQ_TBL_STAT_ISL_PENDING = 1 ∧ regsBut [fieldAddr pgSeq Reg.SEQ_TBL_STAT_SHADOW 0 0] s t ∧ t.seq = s.seq) ∧
    (inCharge s who = false → Acts (.islSwapRequest who) s fun t => quietBut [] s t ∧ codeIn t pgSeq 0x2C ∧ t.seq = s.seq) ∧
    (inCharge s who = true → Acts (.islSwapCancel who) s fun t =>
      getF t pgSeq Reg.SEQ_TBL_STAT_ISL_PENDING = 0 ∧ regsBut [fieldAddr pgSeq Reg.SEQ_TBL_STAT_SHADOW 0 0] s t ∧ t.seq = s.seq) ∧
    (inCharge s who = false → Acts (.islSwapCancel who) s fun t => quietBut [] s t ∧ codeIn t pgSeq 0x2C ∧ t.seq = s.seq) ∧
    (seqState s = 2 → Acts (.seqStop who) s fun t => regsBut [] s t ∧ t.seq = { s.seq with stop := true }) ∧
    (seqState s = 0 → Acts (.seqStop who) s fun t => t = s) ∧
    (seqState s ≠ 0 → seqState s ≠ 2 → Acts (.seqStop who) s fun t => seqState t = 0 ∧ getF t pgSeq Reg.SEQ_TBL_STAT_CORE_PENDING = 0 ∧
      getF t pgSeq Reg.SEQ_TBL_STAT_ISL_PENDING = 0 ∧ t.seq.stop = false)

/-- The copy ends LOADED; the checker reports a refusal by index and code, or a pass, which gives the shadow the coming epoch; with CHECK_ONLY the shadow keeps its state;
a fallback table commits or is refused with 0x2E. -/
def Obligations.TableResults : Prop :=
  ∀ (only : Bool) (prior n : Nat) (s : State),
    (shadowState s = 1 → s.seq.fallback = none → Acts .tableLoadDone s fun t => shadowState t = 2 ∧ regsBut [fieldAddr pgSeq Reg.SEQ_TBL_STAT_SHADOW 0 0] s t ∧ t.seq = s.seq) ∧
    (shadowState s = 3 → s.seq.chk = some (only, prior) →
      (∀ i c, admitTable { s with seq := { s.seq with chk := none } } s.seq.shadow = .refuse i c → Acts .admissionDone s fun t =>
        shadowState t = (if only then prior else 5) % 8 ∧ getF t pgAdm Reg.ADM_DONE = 1 ∧ getF t pgAdm Reg.ADM_PASS = 0 ∧ getF t pgAdm Reg.ADM_CODE = c % 256 ∧ codeIn t pgAdm (c % 256) ∧
          t.seq = { s.seq with chk := none }) ∧
      (∀ k i, admitTable { s with seq := { s.seq with chk := none } } s.seq.shadow = .pass k i → Acts .admissionDone s fun t =>
        shadowState t = (if only then prior else 4) % 8 ∧ getF t pgAdm Reg.ADM_DONE = 1 ∧ getF t pgAdm Reg.ADM_PASS = 1 ∧ getF t pgAdm Reg.ADM_CODE = 0 ∧
          t.seq = { s.seq with chk := none, shadow := if only then s.seq.shadow else s.seq.shadow.map (fun k => stWithEpoch k ((getF s pgSeq Reg.SEQ_EPOCH + 1) % 64)) })) ∧
    (s.seq.fallback = some n → s.seq.committed = none → Acts .fallbackCopyDone s fun t =>
      (shadowState t = 6 ∧ t.seq.committed = some .fallback ∧ t.seq.fallback = some n) ∨
      (shadowState t = 5 ∧ getF t pgSeq Reg.SEQ_TBL_STAT_FB_PENDING = 0 ∧ t.seq.committed = none ∧ t.seq.fallback = none ∧ codeIn t pgSeq 0x2E))

/-- Dispatch: a context's first descriptor waits for its tokens, counting the wait, and else goes to its engine, which holds at most two. -/
def Obligations.Dispatch : Prop :=
  ∀ (d n k e i : Nat) (c : Ctx) (raw : List Byte) (l : List (Nat × List Byte)) (s : State),
    (dieOf s d).ctxs.getD n none = some c → c.list = (i, raw) :: l →
    (¬ ((dWait0 raw = 0 ∨ c.tokens.contains (dWait0 raw) = true) ∧ (dWait1 raw = 0 ∨ c.tokens.contains (dWait1 raw) = true)) → Acts (.descriptorDispatch d n) s fun t =>
      getF t (pgSch d) Reg.SCH_STALL_TOK = satAdd 32 (getF s (pgSch d) Reg.SCH_STALL_TOK) 1 ∧ regsBut [fieldAddr (pgSch d) Reg.SCH_STALL_TOK 0 0] s t ∧ t.dies = s.dies ∧ t.seq = s.seq) ∧
    ((dWait0 raw = 0 ∨ c.tokens.contains (dWait0 raw) = true) ∧ (dWait1 raw = 0 ∨ c.tokens.contains (dWait1 raw) = true) → targetOf c raw = some k →
      (dieOf s d).lostEng.contains k = false → slotOf s d k = some e → e < (dieOf s d).engs.length → (engOf s d e).queue.length < 2 → (engOf s d e).rejoin = false → engineUp s d e = true →
      (c.epoch = getF s (pgPe d e) Reg.PE_ENG_EPOCH % 64 ∨ c.epoch = (getF s (pgPe d e) Reg.PE_ENG_EPOCH + 63) % 64) → (dQtrk raw = 0 ∨ setUsable s d (dQtrk raw) (outChans raw) = true) →
      Acts (.descriptorDispatch d n) s fun t => ∃ w : Work, (engOf t d e).queue = (engOf s d e).queue ++ [w] ∧ w.stroke = c.stroke ∧ w.bar = c.bar ∧ w.part = c.part ∧ w.didx = i ∧ w.raw = raw)

/-- The descriptor that an engine runs completes and leaves it, unless its lines, the spectral unit or a full collector queue keep it; one that fails leaves it too and its stroke has failed. -/
def Obligations.Descriptors : Prop :=
  ∀ (d k e clocks : Nat) (x : Work) (s : State), running s d k = some (e, x) → d < s.dies.length → e < (dieOf s d).engs.length →
    (x.waiting = false → (dKind x.raw = 4 → x.spectral = true) → descRefused s ⟨d, e, x.part⟩ x = none →
      ((dPost x.raw || x.pair) = true → ((dieOf s d).resq.getD k []).length < 8) →
      Acts (.descriptorComplete d k clocks) s fun t => (engOf t d e).queue = (engOf s d e).queue.drop 1) ∧
    (x.waiting = true ∨ (dKind x.raw = 4 ∧ x.spectral = false) → Acts (.descriptorComplete d k clocks) s fun t => t = s) ∧
    (x.waiting = false → (dKind x.raw = 4 → x.spectral = true) → descRefused s ⟨d, e, x.part⟩ x = none → (dPost x.raw || x.pair) = true → 8 ≤ ((dieOf s d).resq.getD k []).length →
      Acts (.descriptorComplete d k clocks) s fun t => getF t pgCol Reg.COL_Q_STALL = satAdd 32 (getF s pgCol Reg.COL_Q_STALL) 1 ∧ t.dies = s.dies ∧ regsBut [fieldAddr pgCol Reg.COL_Q_STALL 0 0] s t) ∧
    (∀ code, (code = 0x15 ∨ code = 0x07 ∨ ∃ a, code ≠ 0x0A ∧ descRefused s ⟨d, e, x.part⟩ x = some (code, a)) → Acts (.descriptorFail d k code) s fun t =>
      (engOf t d e).queue = (engOf s d e).queue.drop 1 ∧ ∀ y ∈ t.seq.runs, y.idx = x.stroke → y.bar = x.bar → y.failed = true) ∧
    (x.waiting = true → mustWait s x.raw = false → Acts (.lineWaitEnd d k clocks) s fun t =>
      getF t (pgPe d e) Reg.PE_LINE_WAIT = satAdd 32 (getF s (pgPe d e) Reg.PE_LINE_WAIT) clocks ∧ regsBut [fieldAddr (pgPe d e) Reg.PE_LINE_WAIT 0 0] s t ∧
        (engOf t d e).queue = (engOf s d e).queue.modify 0 (fun y => { y with waiting := false })) ∧
    (dKind x.raw = 4 → x.spectral = false → getF s (pgSpec d) Reg.SPEC_STAT_BUSY = 0 → Acts (.spectralHandoff d k) s fun t =>
      getF t (pgSpec d) Reg.SPEC_STAT_BUSY = 1 ∧ getF t (pgSpec d) Reg.SPEC_STAT_ENGINE = k % 16 ∧ regsBut [fieldAddr (pgSpec d) Reg.SPEC_STAT_BUSY 0 0] s t ∧
        (engOf t d e).queue = (engOf s d e).queue.modify 0 (fun y => { y with spectral := true })) ∧
    (x.spectral = true → getF s (pgSpec d) Reg.SPEC_STAT_BUSY = 1 → getF s (pgSpec d) Reg.SPEC_STAT_ENGINE = k → Acts (.specEcc d) s fun t =>
      (engOf t d e).queue = (engOf s d e).queue.drop 1 ∧ ∀ y ∈ t.seq.runs, y.idx = x.stroke → y.bar = x.bar → y.failed = true)

/-- Engine faults and spares: a fault empties the engine of a slot in service, a spare that fails is BAD, a slot that is faulted or bad has no further fault; a passed return
sequence leaves an empty READY engine that takes work from the next boundary; self-tests run in SPARE and BAD slots and report. -/
def Obligations.EngineFaults : Prop :=
  ∀ (who : Agent) (d e cause : Nat) (pass : Bool) (s : State), d < 4 → e < 18 → d < s.dies.length → e < (dieOf s d).engs.length →
    (1 ≤ cause → cause ≤ 3 →
      (getF s (pgPe d e) Reg.PE_ENG_STAT_STATE = 5 ∨ getF s (pgPe d e) Reg.PE_ENG_STAT_STATE = 7 → Acts (.engineFault d e cause) s fun t => t = s) ∧
      (getF s (pgPe d e) Reg.PE_ENG_STAT_STATE = 6 → Acts (.engineFault d e cause) s fun t => getF t (pgPe d e) Reg.PE_ENG_STAT_STATE = 7 ∧
        getF t (pgPe d e) Reg.PE_ENG_FAULT_CAUSE = cause ∧ (getF t (pgSpare d) Reg.SPARE_STAT_BAD).testBit e = true ∧ t.dies = s.dies) ∧
      (getF s (pgPe d e) Reg.PE_ENG_STAT_STATE < 5 → Acts (.engineFault d e cause) s fun t => (engOf t d e).queue = [])) ∧
    (getF s (pgPe d e) Reg.PE_ENG_STAT_STATE = 1 →
      Acts (.returnSequenceDone d e true) s (fun t => engOf t d e = rejoiningEng ∧ getF t (pgPe d e) Reg.PE_ENG_STAT_STATE = 2 ∧ getF t (pgPe d e) Reg.PE_ENG_STAT_PART = 0) ∧
      Acts (.returnSequenceDone d e false) s (fun t => (engOf t d e).queue = [])) ∧
    ((spares s d).contains e = true → barsRun s = false ∨ (diePwr s d).head = true → Acts (.spareSelfTest d e false) s fun t =>
      getF t (pgPe d e) Reg.PE_ENG_STAT_STATE = 7 ∧ (getF t (pgSpare d) Reg.SPARE_STAT_BAD).testBit e = true ∧ t.dies = s.dies) ∧
    Acts (.spareSelfTest d e true) s (fun t => t = s) ∧
    (controls who = true → inService s d = true → getF s (pgPe d e) Reg.PE_ENG_STAT_STATE = 6 ∨ getF s (pgPe d e) Reg.PE_ENG_STAT_STATE = 7 ∨
        (getF s (pgPe d e) Reg.PE_ENG_STAT_STATE = 0 ∧ getF s pgSec Reg.SEC_LC_STATE ≠ 2) → Acts (.engTestRun who d e) s fun t =>
      getF t (pgPe d e) Reg.PE_ENG_TEST_RUN = 1 ∧ getF t (pgPe d e) Reg.PE_ENG_TEST_DONE = 0 ∧ getF t (pgPe d e) Reg.PE_ENG_TEST_PASS = 0 ∧ regsBut [fieldAddr (pgPe d e) Reg.PE_ENG_TEST_RUN 0 0] s t) ∧
    (getF s (pgPe d e) Reg.PE_ENG_TEST_RUN = 1 → Acts (.engTestDone d e pass) s fun t =>
      getF t (pgPe d e) Reg.PE_ENG_TEST_RUN = 0 ∧ getF t (pgPe d e) Reg.PE_ENG_TEST_DONE = 1 ∧ getF t (pgPe d e) Reg.PE_ENG_TEST_PASS = (if pass then 1 else 0) ∧
        regsBut [fieldAddr (pgPe d e) Reg.PE_ENG_TEST_RUN 0 0] s t)

/-- The pending sleep mask and the trackers' requests: a write of SLEEP_PEND stands and advances CFG_GEN, and in a locked page is kept out with 0x05; the bits of INIT_REQ gather until the boundary. -/
def Obligations.DieRequests : Prop :=
  ∀ (who : Agent) (d : Nat) (v : Word) (s : State), d < 4 → controls who = true → inService s d = true →
    (locked s (pgSch d) = false → Acts (.sleepPendWrite who d v) s fun t => getF t (pgSch d) Reg.SCH_SLEEP_PEND = v.toNat % 65536 ∧
      getF t pgAdm Reg.ADM_CFG_GEN = (getF s pgAdm Reg.ADM_CFG_GEN + 1) % 2 ^ 32) ∧
    (locked s (pgSch d) = true → v.toNat % 65536 ≠ getF s (pgSch d) Reg.SCH_SLEEP_PEND → Acts (.sleepPendWrite who d v) s fun t => quietBut [] s t ∧ codeIn t (pgSch d) 0x05) ∧
    (locked s (pgSch d) = true → v.toNat % 65536 = getF s (pgSch d) Reg.SCH_SLEEP_PEND → Acts (.sleepPendWrite who d v) s fun t => t = s) ∧
    Acts (.trackerInitRequest who d v) s (fun t => getF t (pgQnt d) Reg.QNT_INIT_REQ = getF s (pgQnt d) Reg.QNT_INIT_REQ ||| bitsOf v.toNat 1 15 ∧
      regsBut [fieldAddr (pgQnt d) Reg.QNT_INIT_REQ 0 0] s t)

/-- R12 as it stands, for every master that may address the control region and every page there: an access of the registers that is not of one naturally aligned word is not performed; the
write stores nothing, the read returns zeros, and the target page shows 0x04 in ERR_STAT and ERR_INFO. -/
def Obligations.OneAlignedWord : Prop :=
  ∀ (who : Agent) (a off : Nat) (b : List Byte) (p : Page) (s : State), controls who = true → 0x40000000 ≤ a → b ≠ [] → a + b.length ≤ 0x62000000 →
    target s a = .inr (p, off) → a % 4 ≠ 0 ∨ b.length ≠ 4 →
    let refused (t : State) : Prop := samesBut report s t ∧ quietBut [] s t ∧ codeIn t p 0x04 ∧ getF t p Reg.HDR_ERR_STAT_VALID = 1
    Does (.deviceAccess who a b.length (some b)) s (fun t => refused t ∧ t.io.resp = ⟨[], false, false⟩) ∧
    Does (.deviceAccess who a b.length none) s (fun t => refused t ∧ t.io.resp = ⟨List.replicate b.length 0, false, false⟩)

/-- R34 as it stands, for every port and every master that works for no partition: in PRODUCTION a write of P_LOOP leaves the word, and every register outside the page headers and the MBX and LDG pages, as it
was; one by a master that may write there records nothing, and LOOP_TEST_RUN, which is such a write, changes nothing at all. -/
def Obligations.LoopWritesIgnored : Prop :=
  ∀ (who : Agent) (port : Nat) (v : Word) (s : State), port < 20 → lcState s = 2 → partOf who = none →
    let a := pageBase (portPage port).1 + 0x98 + 0x20 * (portPage port).2
    Does (.registerWrite who a v) s (fun t => samesBut report s t ∧ regW t a = regW s a ∧ quietBut [] s t ∧
      (controls who = true → port < 6 → regsBut [] s t ∧ t.io.outbox = s.io.outbox)) ∧
    (controls who = true → Does (.loopTestRun who port) s fun t => t = s)

/-- R55 on displaced edges: while bars run, an edge outside the window of the last boundary and of the next one, one after the outcome of the last boundary's window, and one after an early edge of the next
boundary's window change nothing but the count CYC.DISPLACED and the record of 0x28. -/
def Obligations.DisplacedEdges : Prop :=
  ∀ (n : Nat) (s : State), barsRun s = true → getF s pgCyc Reg.CYC_CTL_SRC = 0 ∨ getF s pgEth Reg.ETH_PTP_STAT_STATE ≠ 3 →
    (inWindow n s.cyc.bound = false ∧ inWindow n (nextBound s) = false) ∨ (inWindow n s.cyc.bound = true ∧ s.cyc.resolved = true) ∨
      (inWindow n s.cyc.bound = false ∧ inWindow n (nextBound s) = true ∧ s.cyc.early ≠ none) →
    Does (.downbeatEdge n) s fun t => samesBut report s t ∧ quietBut [0x40002064] s t ∧ codeIn t pgCyc 0x28 ∧
      getF t pgCyc Reg.CYC_DISPLACED = satAdd 32 (getF s pgCyc Reg.CYC_DISPLACED) 1

/-- MBX_WRITE, MBX_READ, WARNING_MOVE, INTC_CLAIM, INTC_COMPLETE and CORE_RUN: R298 as it stands (a write of another endpoint than the sender is ignored, a read of another than the receiver
returns zero and leaves the flag, and both record 0x13); the sender's word enters an empty channel and is counted lost at a full one, the receiver's read takes it; the oldest warning moves into the empty channel
of the island in charge; a claim returns the best qualifying source + 1 and marks it, a completion releases it; CORE.RUN releases and resets cores. -/
def Obligations.Mailboxes : Prop :=
  ∀ (who : Agent) (c x n i : Nat) (v w : Word) (b : Byte) (rest : List Word) (s : State), c < 64 → x < 19 → i < 2 →
    let mbx := pageBase pgMbx
    let leavesWords (t : State) : Prop := ∀ a, a < mbx ∨ mbx + 64 ≤ a → regW t a = regW s a
    let refused (t : State) : Prop := samesBut [.regs, .io] s t ∧ codeIn t pgMbx 0x13 ∧ leavesWords t
    let word (d : Word) : List Byte := leBytes 4 d.toNat
    (controls who = true →
      (endpointOf who ≠ (routeOf s c).1 → Does (.mbxWrite who c v) s refused) ∧
      (endpointOf who ≠ (routeOf s c).2 → Does (.mbxRead who c) s fun t => refused t ∧ t.io.resp = ⟨word 0, true, false⟩) ∧
      (endpointOf who = (routeOf s c).1 → (routeOf s c).1 ≠ 0xF → (routeOf s c).2 ≠ 0xF →
        (chanFull s c = false → Does (.mbxWrite who c v) s fun t => samesBut [.regs, .io] s t ∧ chanFull t c = true ∧ getFi t pgMbx Reg.MBX_DATA c = v.toNat ∧ freePend t c = false ∧
          regsBut [mbx + 0x140 + 4 * c, mbx + 0x240 + 4 * (c / 32), mbx + 0x248 + 4 * (c / 32)] s t) ∧
        (chanFull s c = true → Does (.mbxWrite who c v) s fun t => samesBut [.regs, .io] s t ∧ chanFull t c = true ∧ getFi t pgMbx Reg.MBX_DATA c = getFi s pgMbx Reg.MBX_DATA c ∧
          getFi t pgMbx Reg.MBX_OVW c = satAdd 32 (getFi s pgMbx Reg.MBX_OVW c) 1 ∧ codeIn t pgMbx 0x12)) ∧
      (endpointOf who = (routeOf s c).2 → (routeOf s c).2 ≠ 0xF →
        (chanFull s c = true → Does (.mbxRead who c) s fun t => samesBut [.regs, .io] s t ∧ t.io.resp = ⟨word (regW s (mbx + 0x140 + 4 * c)), true, false⟩ ∧ chanFull t c = false ∧ freePend t c = true ∧
          regsBut [mbx + 0x240 + 4 * (c / 32), mbx + 0x248 + 4 * (c / 32)] s t) ∧
        (chanFull s c = false → Does (.mbxRead who c) s fun t => samesBut [.io] s t ∧ t.io.resp = ⟨word 0, true, false⟩)) ∧
      (qualifies s x n = true → n < 512 → (∀ j < 512, qualifies s x j = true → getFi s pgIntc Reg.INTC_ROUTE_PRIO j < getFi s pgIntc Reg.INTC_ROUTE_PRIO n ∨
          (getFi s pgIntc Reg.INTC_ROUTE_PRIO j = getFi s pgIntc Reg.INTC_ROUTE_PRIO n ∧ n ≤ j)) →
        Does (.intcClaim who x) s fun t => samesBut [.io, .mbx] s t ∧ t.io.resp = ⟨leBytes 4 (n + 1), true, false⟩ ∧ t.mbx = { s.mbx with claimed := n :: s.mbx.claimed }) ∧
      ((∀ j < 512, qualifies s x j = false) → Does (.intcClaim who x) s fun t => samesBut [.io] s t ∧ t.io.resp = ⟨leBytes 4 0, true, false⟩) ∧
      (n ∈ s.mbx.claimed → Does (.intcComplete who x n) s fun t => samesBut [.io, .mbx] s t ∧ t.mbx = { s.mbx with claimed := s.mbx.claimed.filter (· ≠ n) }) ∧
      (n ∉ s.mbx.claimed → Does (.intcComplete who x n) s fun t => t = s) ∧
      Does (.coreRun who b) s (fun t => samesBut [.regs, .io] s t ∧ getF t pgCore Reg.CORE_RUN = b.toNat ∧ getF t pgCore Reg.CORE_WFI = getF s pgCore Reg.CORE_WFI &&& b.toNat ∧
        regsBut [pageBase pgCore + 0x40, pageBase pgCore + 0x44] s t ∧ ∀ k < 8,
          (b.toNat.testBit k = true → (getF s pgCore Reg.CORE_RUN).testBit k = false → puts (.coreRelease k (get64 s pgCore Reg.CORE_RVEC_LO Reg.CORE_RVEC_HI k)) s t) ∧
          (b.toNat.testBit k = false → (getF s pgCore Reg.CORE_RUN).testBit k = true → puts (.coreReset k) s t))) ∧
    (islandInCharge s = some i → s.mbx.warn = w :: rest → chanFull s (62 + i) = false → rest.length < 128 → Does .warningMove s fun t => samesBut [.regs, .io, .mbx] s t ∧
      t.mbx = { s.mbx with warn := rest } ∧ chanFull t (62 + i) = true ∧ getFi t pgMbx Reg.MBX_DATA (62 + i) = w.toNat ∧ getF t pgMbx Reg.MBX_WARN_LEVEL = rest.length)

/-- LREG_OPEN, LREG_FREEZE, LREG_RESTORE, LREG_OFF and LREG_VET: a transition that *Learned-region states* lists for the region's state is taken as the bar's one request and
changes nothing yet; a second request in the bar, one during a commit, one that the state does not list, and a VET that is not the island in charge's, not in FROZEN or not the
digest are refused with 0x1D, which LAST_ERR shows. -/
def Obligations.LearnedRegionRequests : Prop :=
  ∀ (who : Agent) (n : Nat) (v : Word) (s : State), controls who = true → n < 8 → s.lrn.req.length = 8 →
    let taken (c : Instr) (r : LReq) : Prop := Does c s fun t => samesBut [.lrn] s t ∧ t.lrn = { s.lrn with req := s.lrn.req.set n (some r) } ∧ reqPending t n = some r
    let refused (c : Instr) : Prop := Does c s fun t => samesBut report s t ∧ codeIn t pgAdm 0x1D ∧ getFi t pgAdm Reg.ADM_LREG_CTL_LAST_ERR n = 0x1D ∧
      quietBut [0x40004108 + n * 0x40] s t
    let lengthOk : Prop := 0 < getFi s pgAdm Reg.ADM_LREG_LEN n ∧ getFi s pgAdm Reg.ADM_LREG_LEN n ≤ 1048576
    let vets : Prop := inCharge s who = true ∧ lregState s n = 3 ∧ v.toNat = getFi s pgAdm Reg.ADM_LREG_DIGEST n
    (reqPending s n = none → ckptBusy s n = false →
      (lregState s n = 0 → lengthOk → lregOverlaps s n = false → taken (.lregOpen who n) .opn) ∧
      (lregState s n = 3 ∨ (lregState s n = 1 ∧ lregTorn s n = true) → lengthOk → taken (.lregOpen who n) .opn) ∧
      (lregState s n = 1 → lregTorn s n = false → heldTouches s n (fun _ x => x.wr) = false →
        taken (.lregFreeze who n) .freeze ∧ taken (.lregRestore who n) .restore ∧ taken (.lregOff who n) .off) ∧
      (lregState s n = 3 → taken (.lregRestore who n) .restore ∧ taken (.lregOff who n) .off) ∧
      (vets → taken (.lregVet who n v) .vet) ∧
      (lregState s n = 4 → heldTouches s n (fun k x => stClass k = 0 && !x.wr) = false →
        (lengthOk → taken (.lregOpen who n) .opn) ∧ taken (.lregRestore who n) .restore ∧ taken (.lregOff who n) .off)) ∧
    (reqPending s n ≠ none ∨ ckptBusy s n = true ∨ lregState s n = 2 ∨ lregState s n = 5 →
      refused (.lregOpen who n) ∧ refused (.lregFreeze who n) ∧ refused (.lregRestore who n) ∧ refused (.lregOff who n) ∧ refused (.lregVet who n v)) ∧
    (lregState s n = 0 → refused (.lregFreeze who n) ∧ refused (.lregRestore who n) ∧ refused (.lregOff who n)) ∧
    (lregState s n = 1 ∧ lregTorn s n = false ∨ getFi s pgAdm Reg.ADM_LREG_LEN n = 0 ∨ (lregState s n = 0 ∧ lregOverlaps s n = true) → refused (.lregOpen who n)) ∧
    (lregState s n ≠ 1 ∨ lregTorn s n = true → refused (.lregFreeze who n)) ∧
    (¬ vets → refused (.lregVet who n v))

/-- DIGEST_DONE, LREG_CKPT, CKPT_COMMIT_DONE and RESTORE_DONE: the digest of a FREEZING region ends in FROZEN; a checkpoint is taken in FROZEN or VETTED where it fits and is refused
otherwise; a commit makes the new generation CURRENT and the former CURRENT PREVIOUS; a restore whose conditions hold copies the selected generation, and takes its LS_EXP and OPT_T;
one whose conditions do not hold copies nothing and returns the region to OPEN with its cause. -/
def Obligations.LearnedRegionContents : Prop :=
  ∀ (who : Agent) (n : Nat) (crcOk : Bool) (g : LGen) (s : State), n < 8 → s.lrn.gens.length = 8 → s.lrn.ckpt.length = 8 →
    let r := lregRange s n
    let chosen := if getFi s pgAdm Reg.ADM_LREG_CTL_GEN n = 0 then (s.lrn.gens.getD n (none, none)).1 else (s.lrn.gens.getD n (none, none)).2
    let grp := getFi s pgAdm Reg.ADM_LREG_CTL_GRP n
    let ctl := 0x40004108 + n * 0x40
    (lregState s n = 2 → Does (.digestDone n) s fun t => samesBut [.regs] s t ∧ lregState t n = 3 ∧
      getFi t pgAdm Reg.ADM_LREG_DIGEST n = ((Config.sha384 (memBytes s r.1 r.2)).headD 0).toNat ∧
      getF t pgAdm Reg.ADM_CFG_GEN = (getF s pgAdm Reg.ADM_CFG_GEN + 1) % 2 ^ 32 ∧ regsBut [ctl, ctl + 8, fieldAddr pgAdm Reg.ADM_CFG_GEN 0 0] s t) ∧
    (controls who = true →
      (ckptBusy s n = true ∨ lregTorn s n = true → Does (.lregCkpt who n) s fun t => samesBut report s t ∧ codeIn t pgAdm 0x1D ∧
        getFi t pgAdm Reg.ADM_LREG_CTL_LAST_ERR n = 0x1D ∧ quietBut [ctl] s t) ∧
      (ckptBusy s n = false → lregTorn s n = false → (lregState s n ≠ 3 ∧ lregState s n ≠ 4) ∨ 1048576 < r.2 ∨ 1586 < keptRecs s n + genRecs r.2 →
        Does (.lregCkpt who n) s fun t => samesBut report s t ∧ codeIn t pgAdm 0x1E ∧ getFi t pgAdm Reg.ADM_LREG_CTL_LAST_ERR n = 0x1E ∧ quietBut [ctl] s t) ∧
      (ckptBusy s n = false → lregTorn s n = false → lregState s n = 3 ∨ lregState s n = 4 → r.2 ≤ 1048576 → keptRecs s n + genRecs r.2 ≤ 1586 → mayWrite s = true →
        Does (.lregCkpt who n) s fun t => samesBut [.regs, .lrn] s t ∧ ckptBusy t n = true ∧ lregState t n = lregState s n ∧ regsBut [ctl] s t ∧
          t.lrn.gens = s.lrn.gens ∧ t.lrn.req = s.lrn.req ∧ ∃ x, t.lrn.ckpt = s.lrn.ckpt.set n (some x) ∧ x.format = getFi s pgAdm Reg.ADM_LREG_FORMAT n ∧
            x.bind = getFi s pgAdm Reg.ADM_LREG_BIND_LO n + 2 ^ 32 * getFi s pgAdm Reg.ADM_LREG_BIND_HI n ∧ x.digest = getFi s pgAdm Reg.ADM_LREG_DIGEST n ∧
            x.lsExp = getFi s pgAdm Reg.ADM_LS_LS_EXP grp ∧ x.optT = getFi s pgAdm Reg.ADM_OPT_T grp ∧ x.len = r.2)) ∧
    (s.lrn.ckpt.getD n none = some g → g.num < 65536 → Does (.ckptCommitDone n) s fun t => samesBut (report ++ [.lrn]) s t ∧ ckptBusy t n = false ∧
      t.lrn.ckpt.getD n none = none ∧ (t.lrn.gens.getD n (none, none)).2 = (s.lrn.gens.getD n (none, none)).1 ∧ getFi t pgAdm Reg.ADM_LREG_GEN_CUR n = g.num ∧
      ∃ roles, (t.lrn.gens.getD n (none, none)).1 = some { g with roles := roles }) ∧
    (lregState s n = 5 → chosen = some g → restoreCause s n crcOk chosen = none → g.lsExp < 256 → g.optT < 2 ^ 32 →
      Does (.restoreDone n crcOk) s fun t => samesBut [.regs, .mem] s t ∧ lregState t n = 2 ∧ t.mem = (memWrite r.1 ((genData s g).take r.2) s).mem ∧
        getFi t pgAdm Reg.ADM_LS_LS_EXP grp = g.lsExp ∧ getFi t pgAdm Reg.ADM_OPT_T grp = g.optT ∧ lregTorn t n = false ∧
        regsBut [ctl, 0x400040A0 + grp * 4, 0x400040C4 + grp * 8, fieldAddr pgAdm Reg.ADM_CFG_GEN 0 0] s t) ∧
    (∀ c, lregState s n = 5 → restoreCause s n crcOk chosen = some c → Does (.restoreDone n crcOk) s fun t => samesBut report s t ∧ lregState t n = 1 ∧
      codeIn t pgAdm 0x1E ∧ getFi t pgAdm Reg.ADM_LREG_CTL_LAST_ERR n = 0x1E ∧ getFi t pgAdm Reg.ADM_LREG_CTL_CAUSE n = c ∧
      quietBut [ctl, fieldAddr pgAdm Reg.ADM_CFG_GEN 0 0] s t)

/-- OPT_SEED, OPT_CHECK and OPT_APPLY of a descriptor that an engine executes with its operands in spaces 0 to 2: SEED writes the scaled gradient to C, CHECK writes nothing and sets
the group's skip flag where the gradient holds an element that is not finite, and no other flag, APPLY writes C and B, and one skipped at dispatch writes nothing; each leaves its engine. -/
def Obligations.OptimiserSteps : Prop :=
  ∀ (d k e ac ab : Nat) (x : Work) (s : State), running s d k = some (e, x) → d < s.dies.length → e < (dieOf s d).engs.length →
    dKind x.raw = 9 → dQtrk x.raw = 0 → (∀ i, i < 3 → dSp x.raw i ≠ 3) → x.waiting = false → descRefused s ⟨d, e, x.part⟩ x = none →
    ((dPost x.raw || x.pair) = true → ((dieOf s d).resq.getD k []).length < 8) →
    let n := oCount x.raw
    let grad := optVals s ⟨d, e, x.part⟩ x.raw 0 (dFmtA x.raw) n 0
    let seeded := packCodes (elemBits (dFmtC x.raw)) (grad.map (fun y => (convertTo (dFmtC x.raw) (f32 (mulF y (pow2F x.lsExp)))).code))
    let out := (runOpt s ⟨d, e, x.part⟩ x).writes
    (oMode x.raw = 0 → accAddr d ⟨true, dSp x.raw 2, dAddr x.raw 2 * 64, seeded.length⟩ = some ac → lregDiscard s ac seeded.length = none →
      Does (.optSeed d k) s fun t => samesBut (access ++ [.mem]) s t ∧ t.mem = (memWrite ac seeded s).mem ∧ (engOf t d e).queue = (engOf s d e).queue.drop 1) ∧
    (oMode x.raw = 1 → Does (.optCheck d k) s fun t => samesBut access s t ∧ (engOf t d e).queue = (engOf s d e).queue.drop 1 ∧
      getF t pgAdm Reg.ADM_OPT_STAT_SKIP = (if grad.any (fun y => !finF y) then putBits (getF s pgAdm Reg.ADM_OPT_STAT_SKIP) (oGrp x.raw) 1 1 else getF s pgAdm Reg.ADM_OPT_STAT_SKIP)) ∧
    (oMode x.raw = 2 → x.noApply = true → Does (.optApply d k) s fun t => samesBut access s t ∧ (engOf t d e).queue = (engOf s d e).queue.drop 1) ∧
    (oMode x.raw = 2 → x.noApply = false → accAddr d ⟨true, dSp x.raw 2, dAddr x.raw 2 * 64, ((out.map (fun y => y.2.2)).headD []).length⟩ = some ac →
      accAddr d ⟨true, dSp x.raw 1, dAddr x.raw 1 * 64, ((out.map (fun y => y.2.2)).getD 1 []).length⟩ = some ab →
      lregDiscard s ac ((out.map (fun y => y.2.2)).headD []).length = none → lregDiscard s ab ((out.map (fun y => y.2.2)).getD 1 []).length = none →
      Does (.optApply d k) s fun t => samesBut (access ++ [.mem, .lrn]) s t ∧ t.lrn = { s.lrn with applied := oGrp x.raw :: s.lrn.applied } ∧
        t.mem = (memWrite ab ((out.map (fun y => y.2.2)).getD 1 []) (memWrite ac ((out.map (fun y => y.2.2)).headD []) s)).mem ∧
        (engOf t d e).queue = (engOf s d e).queue.drop 1)

/-- FRAME_START, CSI_LONG_PACKET, LINE_COMPLETE, FRAME_END, ING_LATE and ING_CONFIG_WRITE, for the one stream that binds the port and virtual channel: a Frame Start begins the bar frame, a second one in
the bar is dropped, and none exists while bars stop; an unbound or bad packet is counted, a good line written; a complete line moves the position; Frame End makes the verdict final; no Frame Start by
FS_LATE is LATE; a configuration word reads back, or is refused with 0x48 where a held table waits for the stream. -/
def Obligations.CameraFrames : Prop :=
  ∀ (who : Agent) (port vc fn n sm dt hdrErrs off : Nat) (l : List Byte) (crcOk fifo : Bool) (v : Word) (f : Frame) (s : State),
    sm < 24 → s.ing.length = 24 → camStreams s port vc (fun _ => true) = [sm] →
    let p := pgIng sm
    let st := pageBase p
    let all := report ++ [.mem, .acct, .ing]
    let x := strmOf s sm
    let earlyN := countF s sm Reg.ING_EARLY_N
    (barsRun s = true → x.frame = none → Does (.frameStart port vc fn n) s fun t => samesBut all s t ∧ getF t p Reg.ING_FRAME_FN = fn % 65536 ∧
      getF t p Reg.ING_FRAME_VERDICT = 1 ∧ getF t p Reg.ING_FN_SKIPS = satAdd 32 (getF s p Reg.ING_FN_SKIPS) (fnGap x.prevFn (fn % 65536)) ∧ (strmOf t sm).skip = false ∧
      ∃ g, (strmOf t sm).frame = some g ∧ g.fs = devTime (at_ n s) ∧ g.bar = barCount s ∧ g.fn = fn % 65536 ∧ g.verdict = 1 ∧ g.rows = 0 ∧ g.lines = 0 ∧ g.broken = false) ∧
    (barsRun s = true → x.frame = some f → f.bar = barCount s → arriving x = false → Does (.frameStart port vc fn n) s fun t => samesBut [.regs, .io, .ing] s t ∧
      strmOf t sm = { x with prevFn := fn % 65536, skip := true } ∧ getF t p Reg.ING_DROPPED = satAdd 32 (getF s p Reg.ING_DROPPED) 1 ∧ regsBut [st + 0x94, st + 0xA0] s t) ∧
    (barsRun s = false → arriving x = false → Does (.frameStart port vc fn n) s fun t => samesBut [.io, .ing] s t ∧ (strmOf t sm).frame = none) ∧
    (dt ≠ 0x12 → camStreams s port vc (fun c => cfgF c Reg.ING_SRC_DT = dt) = [] → Does (.csiLongPacket port vc dt l hdrErrs crcOk fifo) s fun t =>
      samesBut [.regs] s t ∧ getF t p Reg.ING_PKT_ERR = satAdd 32 (getF s p Reg.ING_PKT_ERR) 1 ∧ regsBut [st + 0x8C] s t) ∧
    (dt ≠ 0x12 → camStreams s port vc (fun c => cfgF c Reg.ING_SRC_DT = dt) = [sm] → x.frame = some f → arriving x = true →
      (1 < hdrErrs ∨ crcOk = false → Does (.csiLongPacket port vc dt l hdrErrs crcOk fifo) s fun t => samesBut (report ++ [.ing]) s t ∧ codeIn t p 0x41 ∧
        getF t p Reg.ING_PKT_ERR = satAdd 32 (getF s p Reg.ING_PKT_ERR) 1 ∧ (strmOf t sm).frame = some (frameTaken x f l true false false earlyN)) ∧
      (hdrErrs ≤ 1 → crcOk = true → fifo = false → l.length = linePayload x.cfg → (f.rows / cfgPy x.cfg + 1) * tensorPitch (cfgTensor x.cfg) ≤ cfgF x.cfg Reg.ING_BUF_LEN * 64 →
        (writeLine x.cfg l (f.rows / cfgPy x.cfg) (f.rows % cfgPy x.cfg) s).1 = true → Does (.csiLongPacket port vc dt l hdrErrs crcOk fifo) s fun t => samesBut all s t ∧
          t.mem = (writeLine x.cfg l (f.rows / cfgPy x.cfg) (f.rows % cfgPy x.cfg) s).2.mem ∧ (strmOf t sm).frame = some (frameTaken x f l false true true earlyN))) ∧
    (∀ y rest, x.frame = some f → f.ready = y :: rest → strmF s sm Reg.ING_LINE_MAX = 0 → strmF s sm Reg.ING_CTL_LTIME = 0 → y < 65536 → Does (.lineComplete sm n) s fun t =>
      samesBut [.regs, .io, .ing] s t ∧ strmOf t sm = { x with frame := some { f with ready := rest, lines := f.lines + 1, last := some (y, Nat.max s.io.now n) } } ∧
      getF t p Reg.ING_STAT_POS = (if f.bar = barCount s ∧ (y = 0 ∨ getF s p Reg.ING_STAT_POS + 1 = y) then y else getF s p Reg.ING_STAT_POS) ∧ regsBut [st + 0x80] s t) ∧
    (x.frame = some f → arriving x = true → f.ready = [] →
      let g := { f with fe := some (devTime (at_ n s)) }
      let verdict := verdictOf s sm g (actOf g s).1
      Does (.frameEnd port vc n) s fun t => samesBut all s t ∧ (strmOf t sm).frame = some { g with verdict := verdict } ∧ (strmOf t sm).prevHash = some (f.hash ^^^ crc64Ones) ∧
        getF t p Reg.ING_FRAMES = satAdd 32 (getF s p Reg.ING_FRAMES) 1 ∧
        getF t p Reg.ING_FRAME_VERDICT = (if f.bar = barCount s then verdict else getF s p Reg.ING_FRAME_VERDICT)) ∧
    (barsRun s = true → strmKind s sm = 1 → barVerdict s sm = 0 → healthOf s sm = 1 → getF s p Reg.ING_STAT_HEALTH = 1 → Does (.ingLate sm) s fun t =>
      samesBut (report ++ [.ing]) s t ∧ strmOf t sm = { x with late := true } ∧ getF t p Reg.ING_STAT_HEALTH = 2 ∧ codeIn t p 0x43 ∧ quietBut [st + 0x80, pageBase (pgIng 0) + 0xC0] s t) ∧
    (controls who = true → 0x40 ≤ off → off ≤ 0x74 → off % 4 = 0 →
      let w := definedBits p off v.toNat
      (strmBars off (regW s (st + off)).toNat w = false ∨ strmHeld s sm = false → Does (.ingConfigWrite who sm off v) s fun t =>
        samesBut [.regs] s t ∧ regW t (st + off) = BitVec.ofNat 32 w ∧ regsBut [st + off] s t) ∧
      (strmBars off (regW s (st + off)).toNat w = true → strmHeld s sm = true → Does (.ingConfigWrite who sm off v) s fun t =>
        samesBut report s t ∧ codeIn t p 0x48 ∧ quietBut [] s t))

/-- USXGMII_LINK_CHANGE, QBV_COMMIT, QBV_CYCLE_START, GATE_INTERVAL_END, MDIO_START and MDIO_DONE: a link change shows the link and its speed; a committed gate list is kept apart
and one with no entry or an interval out of range is ignored; the committed list takes effect at the cycle start, the next entry's gates apply after each interval, and a frame
whose gate is open leaves; a management frame goes out and its end gives a read's result. -/
def Obligations.EthernetLinks : Prop :=
  ∀ (who : Agent) (n speed v t0 : Nat) (up : Bool) (g : Gates) (s : State), (∀ x ∈ s.eth.txq, x.1 < 8) →
    let eth := pageBase pgEth
    let counts := (List.range 8).map fun m => eth + 0x114 + m * 0x40
    let drained (t : State) : Prop := t.eth.txq = s.eth.txq.filter (fun x => !canSend t x) ∧
      ∀ x ∈ s.eth.txq, canSend t x = true → puts (.eth x.1 x.2.1 x.2.2) s t
    (n < 8 → speed ≤ 3 → Does (.usxgmiiLinkChange n up speed) s fun t => samesBut [.regs, .io, .eth] s t ∧ getFi t pgEth Reg.ETH_MAC_LINK n = (if up then 1 else 0) ∧
      getFi t pgEth Reg.ETH_MAC_SPEED n = (if up then speed else getFi s pgEth Reg.ETH_MAC_SPEED n) ∧ t.eth.gates = s.eth.gates ∧
      regsBut ((eth + 0x100 + n * 0x40) :: counts) s t ∧ drained t) ∧
    (n < 4 → s.eth.gates[n]? = some g →
      (controls who = true → qbvWritten s n ≠ [] → (qbvWritten s n).length ≤ 64 → (qbvWritten s n).all (fun e => 32 ≤ e.2 && e.2 ≤ 1000000000) = true →
        Does (.qbvCommit who n) s fun t => samesBut [.regs, .eth] s t ∧ getFi t pgEth Reg.ETH_QBV_PENDING n = 1 ∧ regsBut [eth + 0x400 + n * 0x300] s t ∧
          t.eth = { s.eth with gates := s.eth.gates.set n { g with next := some (qbvWritten s n) } }) ∧
      (controls who = true → qbvWritten s n = [] ∨ 64 < (qbvWritten s n).length ∨ (∃ e ∈ qbvWritten s n, e.2 < 32 ∨ 1000000000 < e.2) →
        Does (.qbvCommit who n) s fun t => t = s) ∧
      (∀ e l, g.next.getD g.list = e :: l → Does (.qbvCycleStart n t0) s fun t => samesBut [.regs, .io, .eth] s t ∧ getFi t pgEth Reg.ETH_QBV_PENDING n = 0 ∧
        t.eth.gates = s.eth.gates.set n ⟨e :: l, 0, e.1, none⟩ ∧ regsBut ((eth + 0x400 + n * 0x300) :: counts) s t ∧ drained t) ∧
      (∀ e, g.list[g.pos + 1]? = some e → Does (.gateIntervalEnd n t0) s fun t => samesBut [.regs, .io, .eth] s t ∧
        t.eth.gates = s.eth.gates.set n { g with pos := g.pos + 1, now := e.1 } ∧ regsBut counts s t ∧ drained t) ∧
      (g.list[g.pos + 1]? = none → Does (.gateIntervalEnd n t0) s fun t => samesBut [.regs, .io, .eth] s t ∧ t.eth.gates = s.eth.gates ∧ regsBut counts s t)) ∧
    (controls who = true → Does (.mdioStart who) s fun t => samesBut [.regs, .io] s t ∧ getF t pgEth Reg.ETH_MDIO_GO = 1 ∧ regsBut [eth + 0x80] s t ∧
      puts (.mdio (flag s pgEth Reg.ETH_MDIO_C45) (getF s pgEth Reg.ETH_MDIO_OP) (getF s pgEth Reg.ETH_MDIO_PRTAD) (getF s pgEth Reg.ETH_MDIO_DEVAD)
        (getF s pgEth Reg.ETH_MDIO_DATA)) s t) ∧
    (getF s pgEth Reg.ETH_MDIO_GO = 1 → v < 65536 → Does (.mdioDone v) s fun t => samesBut [.regs] s t ∧ getF t pgEth Reg.ETH_MDIO_GO = 0 ∧ getF t pgEth Reg.ETH_MDIO_DONE = 1 ∧
      getF t pgEth Reg.ETH_MDIO_DATA = (if getF s pgEth Reg.ETH_MDIO_OP = 2 then v else getF s pgEth Reg.ETH_MDIO_DATA) ∧ regsBut [eth + 0x80, eth + 0x84] s t)

/-- GPTP_SYNC, GPTP_PDELAY, GPTP_SYNC_LOSS, PTP_SET, GRANDMASTER_SYNC and GPTP_ANNOUNCE: a pair on the receiving port syncs the clock, which slews an offset of at most 2 µs (log entry 30) and steps by a
larger one; a Pdelay_Req is answered and a response gives the peer delay; a loss records 0x49, shows LOST and makes the streams that need sync TIME_BAD; a grandmaster takes the time written
and sends Sync and Follow_Up on every port; the best Announce decides the receiving port (log entry 32). -/
def Obligations.DeviceTime : Prop :=
  ∀ (who : Agent) (mac kind t0 : Nat) (master corr t1 t2 t3 t4 : Int) (v : Word) (a : Announce) (s : State),
    let eth := pageBase pgEth
    let off := devTime (at_ t0 s) - getFi s pgEth Reg.ETH_LAT_RX mac - (master + corr + s.eth.pdelay.getD mac 0)
    (ptpReceiver s = true → ptpPort s mac = true → ptpRxPort s = some mac → Does (.gptpSync mac master corr t0) s fun t => samesBut [.regs, .io, .eth] s t ∧
      getF t pgEth Reg.ETH_PTP_STAT_STATE = 2 ∧ getF t pgEth Reg.ETH_PTP_STAT_RX_PORT = mac ∧ getF t pgEth Reg.ETH_PTP_OFFSET = unsint 32 off ∧
      regsBut [eth + 0x44, eth + 0x48] s t ∧ t.eth.pdelay = s.eth.pdelay ∧ t.eth.txq = s.eth.txq ∧ t.eth.gates = s.eth.gates ∧
      (if -2000 ≤ off ∧ off ≤ 2000 then devTime t = devTime (at_ t0 s) ∧ t.eth.slew = -off else devTime t = devTime (at_ t0 s) - off ∧ t.eth.slew = 0)) ∧
    (getF s pgEth Reg.ETH_PTP_CTL_ENABLE = 1 → ptpPort s mac = true →
      Does (.gptpPdelay mac 0 t1 t2 t3 t4) s (fun t => samesBut [.io] s t ∧ puts (.gptp mac 1 [t1, t2, t3]) s t) ∧
      Does (.gptpPdelay mac (kind + 1) t1 t2 t3 t4) s (fun t => t = { s with eth := { s.eth with pdelay := s.eth.pdelay.set mac (roundOpen (t4 - t1 - (t3 - t2)) 2) } })) ∧
    (ptpReceiver s = true → getF s pgEth Reg.ETH_PTP_STAT_STATE = 2 → s.ing.length = 24 → Does (.gptpSyncLoss t0) s fun t => samesBut (report ++ [.eth, .ing]) s t ∧
      getF t pgEth Reg.ETH_PTP_STAT_STATE = 3 ∧ codeIn t pgEth 0x49 ∧ ∀ sm < 24, strmKind s sm ≠ 0 → strmF s sm Reg.ING_CTL_NEED_SYNC = 1 → (strmOf t sm).timeBad = true) ∧
    (controls who = true →
      Does (.ptpSet who false v) s (fun t => samesBut [.regs] s t ∧ getF t pgEth Reg.ETH_PTP_SET_LO = v.toNat ∧ regsBut [eth + 0x4C] s t) ∧
      (ptpMaster s = true → Does (.ptpSet who true v) s fun t => samesBut [.regs, .eth] s t ∧ getF t pgEth Reg.ETH_PTP_SET_HI = v.toNat ∧ regsBut [eth + 0x50] s t ∧
        devTime t = (getF s pgEth Reg.ETH_PTP_SET_LO + 2 ^ 32 * v.toNat : Nat))) ∧
    (ptpMaster s = true → mac < 8 → (getF s pgEth Reg.ETH_PTP_CTL_PORTS).testBit mac = true → Does (.grandmasterSync t0) s fun t => samesBut [.io] s t ∧
      puts (.gptp mac 2 []) s t ∧ puts (.gptp mac 3 [devTime (at_ t0 s) + getFi s pgEth Reg.ETH_LAT_TX mac]) s t) ∧
    (ptpReceiver s = true → getF s pgEth Reg.ETH_PTP_CTL_BMCA = 1 → ptpPort s mac = true → a.domain = getF s pgEth Reg.ETH_PTP_CTL_DOMAIN →
      (s.eth.best = none ∨ (∃ m b, s.eth.best = some (m, b) ∧ (m = mac ∨ lexLt (announceKey a) (announceKey b) = true)) → Does (.gptpAnnounce mac a) s fun t =>
        samesBut [.regs, .eth] s t ∧ getF t pgEth Reg.ETH_PTP_STAT_RX_PORT = mac ∧ t.eth = { s.eth with best := some (mac, a) } ∧ regsBut [eth + 0x44] s t) ∧
      (∀ m b, s.eth.best = some (m, b) → m ≠ mac → lexLt (announceKey a) (announceKey b) = false → Does (.gptpAnnounce mac a) s fun t => t = s))

/-- PRT_CONFIG_WRITE, PARTITION_RESET_REQUEST, PARTITION_ISL_RESET, PARTITION_OVR_LIMIT and ENERGY_INTERVAL: a configuration word reads back and advances the configuration generation, and a write that lowers
the quota or clears ENABLE while a held table has a stroke of the partition is ignored with 0x0C; a fault of an active partition shows RESETTING with its cause and records 0x0D, one of a held partition only counts,
and one of an OFF partition is ignored; an interval adds the measured energy to VIN's counter. -/
def Obligations.Partitions : Prop :=
  ∀ (who : Agent) (p w vin : Nat) (v : Word) (rails : List Nat) (x : Part) (s : State), p < 16 → w < 8 →
    let blk := pageBase pgPrt + 0x100 + 0x80 * p
    let gen := pageBase pgAdm + Reg.ADM_CFG_GEN.off
    let nextGen (t : State) : Prop := getF t pgAdm Reg.ADM_CFG_GEN = (getF s pgAdm Reg.ADM_CFG_GEN + 1) % 2 ^ 32
    let ignored (c : Instr) : Prop := Does c s fun t => samesBut report s t ∧ codeIn t pgPrt 0x0C ∧ quietBut [] s t
    let faulted (c : Instr) (cause : Nat) : Prop := Does c s fun t => samesBut access s t ∧ partState t p = 2 ∧ getFi t pgPrt Reg.PRT_STAT_CAUSE p = cause ∧
      getFi t pgPrt Reg.PRT_STAT_RESETS p = satAdd 16 (getFi s pgPrt Reg.PRT_STAT_RESETS p) 1 ∧ codeIn t pgPrt 0x0D
    let counted (c : Instr) : Prop := Does c s fun t => samesBut [.regs] s t ∧ getFi t pgPrt Reg.PRT_STAT_RESETS p = satAdd 16 (getFi s pgPrt Reg.PRT_STAT_RESETS p) 1 ∧
      partState t p = partState s p ∧ getFi t pgPrt Reg.PRT_STAT_CAUSE p = getFi s pgPrt Reg.PRT_STAT_CAUSE p ∧ regsBut [blk + 4] s t
    (controls who = true →
      Does (.prtConfigWrite who p 0x0C v) s (fun t => samesBut [.regs] s t ∧ getFi t pgPrt Reg.PRT_REQ_DL p = v.toNat % 65536 ∧ regsBut [blk + 0x0C] s t) ∧
      (v.toNat < getFi s pgPrt Reg.PRT_QUOTA p → holdsPart s p = true → ignored (.prtConfigWrite who p 0x08 v)) ∧
      (getFi s pgPrt Reg.PRT_QUOTA p ≤ v.toNat ∨ holdsPart s p = false → Does (.prtConfigWrite who p 0x08 v) s fun t =>
        samesBut [.regs] s t ∧ getFi t pgPrt Reg.PRT_QUOTA p = v.toNat ∧ nextGen t ∧ regsBut [blk + 0x08, gen] s t) ∧
      (getFi s pgPrt Reg.PRT_CTL_ENABLE p = 1 → v.toNat % 2 = 0 → holdsPart s p = true → ignored (.prtConfigWrite who p 0x00 v)) ∧
      (getFi s pgPrt Reg.PRT_CTL_ENABLE p = 0 ∨ v.toNat % 2 = 1 ∨ holdsPart s p = false → v.toNat.testBit 1 = false → Does (.prtConfigWrite who p 0x00 v) s fun t =>
        samesBut [.regs] s t ∧ getFi t pgPrt Reg.PRT_CTL_ENABLE p = v.toNat % 2 ∧ getFi t pgPrt Reg.PRT_CTL_HOLD p = v.toNat / 4 % 2 ∧ getFi t pgPrt Reg.PRT_CTL_REJOIN_N p = v.toNat / 16 % 16 ∧
        getFi t pgPrt Reg.PRT_CTL_CLASS p = v.toNat / 256 % 16 ∧ getFi t pgPrt Reg.PRT_CTL_OVR_LIMIT p = v.toNat / 4096 % 16 ∧ nextGen t ∧ regsBut [blk, gen] s t) ∧
      Does (.prtConfigWrite who p (0x40 + 8 * w) v) s (fun t => samesBut [.regs] s t ∧ getFij t pgPrt Reg.PRT_WIN_BASE p w = v.toNat % 2 ^ 26 ∧ nextGen t ∧ regsBut [blk + 0x40 + 8 * w, gen] s t) ∧
      Does (.prtConfigWrite who p (0x44 + 8 * w) v) s (fun t => samesBut [.regs] s t ∧ getFij t pgPrt Reg.PRT_WIN_LEN p w = v.toNat % 2 ^ 26 ∧
        getFij t pgPrt Reg.PRT_WIN_WR p w = v.toNat / 2 ^ 30 % 2 ∧ getFij t pgPrt Reg.PRT_WIN_VALID p w = v.toNat / 2 ^ 31 ∧ nextGen t ∧ regsBut [blk + 0x44 + 8 * w, gen] s t) ∧
      (partState s p = 1 → faulted (.partitionResetRequest who p) 2 ∧ (inCharge s who = true → faulted (.partitionIslReset who p) 4)) ∧
      (partState s p = 2 ∨ partState s p = 3 → counted (.partitionResetRequest who p) ∧ (inCharge s who = true → counted (.partitionIslReset who p))) ∧
      (partState s p = 0 → Does (.partitionResetRequest who p) s fun t => t = s) ∧
      (inCharge s who = false → ignored (.partitionIslReset who p))) ∧
    (s.parts[p]? = some x → partState s p = 1 →
      (x.cfg.ovrLimit ≠ 0 → x.cfg.ovrLimit ≤ x.overruns → faulted (.partitionOvrLimit p) 3) ∧
      (x.cfg.ovrLimit = 0 ∨ x.overruns < x.cfg.ovrLimit → Does (.partitionOvrLimit p) s fun t => t = s)) ∧
    (s.pwr.rest.length = 6 → Does (.energyInterval rails vin) s fun t => samesBut [.regs, .io, .acct, .pwr] s t ∧
      get64 t pgPmc Reg.PMC_E_VIN_LO Reg.PMC_E_VIN_HI 0 = satAdd 64 (get64 s pgPmc Reg.PMC_E_VIN_LO Reg.PMC_E_VIN_HI 0) ((nth0 s.pwr.rest 5 + vin) / 1000000) ∧
      nth0 t.pwr.rest 5 = (nth0 s.pwr.rest 5 + vin) % 1000000 ∧ t.io.outbox = s.io.outbox ∧
      getF t pgPmc Reg.PMC_P_DEV = ((roundOpen vin 100000).toNat + 10 * getF s pgCap Reg.CAP_AUX_W) % 65536 ∧
      regsBut ((pageBase pgPmc + 0x48) :: (List.range 12).map (fun k => pageBase pgPmc + 0x50 + 4 * k)) s t)

/-- KA_POWER_ON, PORST_RISE, PORST_FALL, RST_CTL_COLD, RST_CTL_WARM, HUB_WATCHDOG_EXPIRE, WDOG_KICK, TAP_RESET and ISLAND_RESET_PIN: a cold reset returns every unit to its reset state, keeps memory and what went out, and RST_CAUSE names its
source; a warm reset returns the hub's units and the dies, keeps memory, the links, the ledger, the islands and power, and boot starts again at ROM; RST_CTL is for an application core alone; a watchdog that was not
serviced resets warm; PORST_N rising samples the strap. -/
def Obligations.Resets : Prop :=
  ∀ (t i k : Nat) (rp : Bool) (lanes : List Nat) (who : Agent) (s : State),
    let cause (u : State) (j : Nat) : Prop := ∀ b, 1 ≤ b → b ≤ 4 → (regW u 0x40000048).toNat.testBit b = decide (b = j)
    let cold (u : State) : Prop := u.mem = s.mem ∧ u.pending = s.pending ∧ grows s u ∧ u.seq = State.reset.seq ∧ u.cyc = State.reset.cyc ∧ u.dies = State.reset.dies ∧
      u.fus = State.reset.fus ∧ u.ing = State.reset.ing ∧ u.tiles = State.reset.tiles ∧ u.mal = State.reset.mal ∧ u.pwr = State.reset.pwr
    let warm (u : State) : Prop := samesBut [.regs, .io, .cyc, .seq, .dies, .parts, .acct, .tiles, .fus, .mbx, .ing, .lrn, .bw, .boot] s u ∧ grows s u ∧ u.seq = State.reset.seq ∧
      u.cyc = State.reset.cyc ∧ u.dies = State.reset.dies ∧ u.parts = State.reset.parts ∧ u.fus = State.reset.fus ∧ u.mbx = State.reset.mbx ∧ u.ing = State.reset.ing ∧
      bootStage u = 1 ∧ bootStopped u = false ∧ getF u pgHubId Reg.HUB_ID_BOOT_STAT_DIE_SVC = 0 ∧ u.boot.image = none ∧ u.boot.census = false
    Does .kaPowerOn s (fun u => cold u ∧ u.boot.porst = false ∧ u.hld = State.reset.hld ∧ regW u 0x40000048 = 1) ∧
    Does .porstFall s (fun u => cold u ∧ u.boot.porst = false ∧ cause u 1) ∧
    Does (.rstCtlCold (.core k)) s (fun u => cold u ∧ u.boot.porst = s.boot.porst ∧ cause u 2) ∧
    Does (.rstCtlWarm (.core k)) s (fun u => warm u ∧ u.boot.wdog = false ∧ cause u 3) ∧
    Does (.rstCtlCold .host) s (fun u => samesBut report s u ∧ quietBut [] s u ∧ codeIn u pgHubId 0x06) ∧
    Does (.rstCtlWarm .host) s (fun u => samesBut report s u ∧ quietBut [] s u ∧ codeIn u pgHubId 0x06) ∧
    Does (.rstCtlCold (.island i)) s (fun u => u = s) ∧ Does (.rstCtlWarm (.island i)) s (fun u => u = s) ∧
    (getF s pgHubId Reg.HUB_ID_WDOG_PERIOD ≠ 0 → s.boot.kickAt + getF s pgHubId Reg.HUB_ID_WDOG_PERIOD * 1000000 ≤ (at_ t s).io.now →
      Does (.hubWatchdogExpire t) s fun u => warm u ∧ u.boot.wdog = true ∧ cause u 4) ∧
    (controls who = true → Does (.wdogKick who t) s fun u => samesBut [.io, .boot] s u ∧ u.boot = { s.boot with kickAt := (at_ t s).io.now }) ∧
    Does .tapReset s (fun u => samesBut [.boot] s u ∧ u.boot = { s.boot with tapReset := true }) ∧
    (i < 2 → s.isl.length = 2 → Does (.islandResetPin i) s fun u => samesBut [.regs, .io, .isl] s u ∧ islOf u i = Isl.fresh ∧ islOf u (1 - i) = islOf s (1 - i) ∧
      (flag s (pgIsl i) Reg.ISL_STAT_VALID = true → puts (.valid i false) s u) ∧ ∀ a, a / 4096 ≠ 0x60000 + i * 0x1000 → a / 4096 ≠ 0x40062 → regW u a = regW s a) ∧
    (s.boot.porst = false → Does (.porstRise rp lanes) s fun u => samesBut [.regs, .dlk, .boot] s u ∧ u.boot = { s.boot with porst := true, hubOut := false } ∧
      flag u pgHubId Reg.HUB_ID_STRAP_PCIE_RP = rp ∧ flag u pgPcie Reg.PCIE_STAT_ROOT = rp ∧ (∀ a, a / 4096 ≠ 0x40000 → a / 4096 ≠ 0x4005B → a / 4096 ≠ 0x40050 → regW u a = regW s a))

/-- BOOT_ROM, CENSUS_STAGE, IMAGE_LOAD, HANDOFF, LC_REQUEST, LC_BURN_DONE and KEY_REVOKE: ROM locks the device secret and clears MEAS; the census ends at IMAGE, or stops boot where the ledger is unusable; the active
slot's accepted image is loaded, and with both slots refused boot stops; handoff releases core 0 into the image; a token that fits burns fuses, another is refused with 0x0E; a key slot is revoked unless one of the
four conditions of R438 refuses it. -/
def Obligations.BootStages : Prop :=
  ∀ (ms k a stacksOk vtOk : Nat) (sparesOk : List Nat) (e : Option Nat) (i : Image) (slots : List (Option Image)) (tok : LcToken) (who : Agent) (s : State),
    (bootStage s = 1 → s.boot.wdog = false → Does .bootRom s fun u => samesBut [.regs] s u ∧ getF u pgSec Reg.SEC_STAT_DUS_LOCKED = 1 ∧
      (∀ j < 12, getFi u pgSec Reg.SEC_MEAS j = 0) ∧ bootStage u = (if ldgState s = 0 then 2 else 3) ∧
      ∀ x, x / 4096 ≠ 0x40060 → x ≠ 0x40000058 → regW u x = regW s x) ∧
    (bootStage s = 1 → s.boot.wdog = true → Does .bootRom s fun u => samesBut (report ++ [.boot]) s u ∧ codeIn u pgHubId 0x1F ∧ u.boot = { s.boot with wdog := false } ∧
      (bootStage u = 2 ∨ bootStage u = 3)) ∧
    ((bootStage s = 3 ∨ bootStage s = 4) → s.boot.census = false → bootStopped s = false → flag s pgWlk Reg.WLK_CENSUS_DONE = true →
      (ldgState s = 5 → lcState s ≠ 0 → lcState s ≠ 3 → Does (.censusStage stacksOk sparesOk vtOk) s fun u => samesBut [.regs] s u ∧ bootStopped u = true ∧ bootStage u = 3 ∧
        regsBut [0x40000058] s u) ∧
      ((ldgState s ≠ 5 ∨ lcState s = 0 ∨ lcState s = 3) → Does (.censusStage stacksOk sparesOk vtOk) s fun u => samesBut (report ++ [.boot]) s u ∧ bootStage u = 4 ∧ u.boot = { s.boot with census := true })) ∧
    ((bootStage s = 3 ∨ bootStage s = 4) → s.boot.image = none → bootStopped s = false → flag s pgLdg Reg.LDG_BOOT_TRIAL = false →
      (slots.getD (bootActive s) none = some i → verifyImage s (some i) = 0 → Does (.imageLoad slots) s fun u => samesBut [.regs, .mem, .boot] s u ∧
        u.boot = { s.boot with image := some (0x04000000 + i.load * 64 + i.entry, if i.flags.testBit 1 then some (i.flags / 4 % 4) else none) } ∧
        getF u pgHubId Reg.HUB_ID_BOOT_STAT_SLOT = bootActive s ∧ getF u pgHubId Reg.HUB_ID_BOOT_STAT_FALLBACK = 0 ∧
        (i.load * 64 + i.body.length ≤ 0x02000000 → memBytes u (0x04000000 + i.load * 64) i.body.length = i.body) ∧
        ∀ x, x / 4096 ≠ 0x40060 → x ≠ 0x40000058 → regW u x = regW s x) ∧
      (verifyImage s (slots.getD (bootActive s) none) ≠ 0 → verifyImage s (slots.getD (1 - bootActive s) none) ≠ 0 → Does (.imageLoad slots) s fun u => samesBut [.regs, .io] s u ∧
        bootStopped u = true ∧ bootStage u = 4 ∧ codeIn u pgSec (verifyImage s (slots.getD (1 - bootActive s) none)) ∧ quietBut [0x40000058] s u)) ∧
    (s.boot.image = some (a, e) → s.boot.census = true → bootStopped s = false → bootStage s = 4 → ms < 0x10000 → Does (.handoff ms) s fun u => samesBut [.regs, .io] s u ∧
      bootStage u = 5 ∧ getF u pgHubId Reg.HUB_ID_BOOT_MS = ms ∧ getF u pgHubId Reg.HUB_ID_WDOG_PERIOD = 0 ∧ getF u pgCore Reg.CORE_RUN = 1 ∧ puts (.coreRelease 0 a) s u ∧
      ∀ x, x / 4096 ≠ 0x40000 → x / 4096 ≠ 0x40035 → x / 4096 ≠ 0x40048 → regW u x = regW s x) ∧
    (controls who = true → who ≠ .host →
      let fits : Prop := s.boot.burn = none ∧ flag s pgSec Reg.SEC_LC_PENDING = false ∧ tok.serial = hubSerial s ∧ tok.target = getF s pgSec Reg.SEC_LC_REQ_TARGET ∧ lcAllowed (lcState s) tok.target tok = true
      (fits → tok.target ≠ 3 → Does (.lcRequest who tok) s fun u => samesBut [.boot] s u ∧ u.boot = { s.boot with burn := some tok }) ∧
      (fits → tok.target = 3 → Does (.lcRequest who tok) s fun u => samesBut [.boot, .ldg, .lrn] s u ∧ u.boot = { s.boot with burn := some tok } ∧ u.lrn.gens = List.replicate 8 (none, none)) ∧
      (¬ fits → Does (.lcRequest who tok) s fun u => samesBut [.regs, .io] s u ∧ codeIn u pgSec 0x0E ∧ quietBut [] s u) ∧
      (k < 4 →
        let free (j : Nat) : Prop := j < 4 ∧ j ≠ k ∧ (getF s pgSec Reg.SEC_KEYS_OWNER).testBit j = true ∧ (getF s pgSec Reg.SEC_KEYS_REVOKED).testBit j = false
        ((lcState s = 1 ∨ lcState s = 2) → getF s pgSec Reg.SEC_IMG_KEY ≠ k → (∃ j, free j) → flag s pgHubId Reg.HUB_ID_BOOT_STAT_SI_A = true → flag s pgHubId Reg.HUB_ID_BOOT_STAT_SI_B = true →
          Does (.keyRevoke who (2 ^ k)) s fun u => samesBut [.regs] s u ∧ (getF u pgSec Reg.SEC_KEYS_REVOKED).testBit k = true ∧ regsBut [0x40060044, 0x40060050] s u) ∧
        (((lcState s ≠ 1 ∧ lcState s ≠ 2) ∨ getF s pgSec Reg.SEC_IMG_KEY = k ∨ (∀ j, ¬ free j) ∨ flag s pgHubId Reg.HUB_ID_BOOT_STAT_SI_A = false ∨ flag s pgHubId Reg.HUB_ID_BOOT_STAT_SI_B = false) →
          Does (.keyRevoke who (2 ^ k)) s fun u => samesBut [.regs, .io] s u ∧ codeIn u pgSec 0x0E ∧ quietBut [] s u))) ∧
    (s.boot.burn = some tok → Does .lcBurnDone s fun u => samesBut [.regs, .boot] s u ∧ u.boot = { s.boot with burn := none, burnt := some tok } ∧ flag u pgSec Reg.SEC_LC_PENDING = true ∧ regsBut [0x40060040] s u)

/-- MALLET_BAD_LINE, HELP, ID, STAT, LOG, BAUD, LOCK, OFF, UNLOCK, UNLOCK_KEY, UNLOCK_DATA, UNLOCK_END, MALLET_SESSION_TIMEOUT and RECEIVED_CHARACTER: a line opens a session that is IDLE, its time is kept, and its
reply ends in a status and the prompt; LOG needs an UNLOCKED session in PRODUCTION and answers E3 otherwise; BAUD takes the nearest divisor; LOCK goes back to OPEN; OFF silences Mallet, which then answers nothing; a proof in
PRODUCTION takes a challenge, a slot and its bytes, and END unlocks or answers E6; ten minutes without a line close the session; characters are echoed and buffered. -/
def Obligations.MalletSessions : Prop :=
  ∀ (r n t k : Nat) (c : Byte) (h : List Byte) (sig key : Bool) (s : State),
    let line (u : State) : Prop := samesBut [.regs, .io, .mal] s u ∧ u.mal.lineAt = s.io.now ∧ u.mal.buf = [] ∧ u.mal.drop = false
    let timed (u : State) : Prop := samesBut [.regs, .io, .mal] s u ∧ u.mal.lineAt = (at_ t s).io.now ∧ u.mal.buf = []
    let tells (body : List Byte) (u : State) : Prop := puts (.uart (body ++ eol ++ text "mallet> ")) s u
    let opened (u : State) : Prop := session u = (if session s = 0 then 1 else session s) ∧ regsBut [0x40061044] s u
    (malStopped s = false →
      Does .malletBadLine s (fun u => line u ∧ opened u ∧ tells (text "E1") u) ∧
      Does .malletHelp s (fun u => line u ∧ opened u ∧
        tells ((commandNames.filter (fun x => permitted u x.2)).flatMap (fun x => text x.1 ++ eol) ++ text "OK") u) ∧
      Does .malletId s (fun u => line u ∧ opened u ∧ ∃ body, tells (text "LK-9680" ++ body ++ text "OK") u) ∧
      Does .malletStat s (fun u => line u ∧ opened u ∧ ∃ body, tells (text "STAGE " ++ body ++ text "OK") u) ∧
      (1 ≤ n → n ≤ 62 → Does (.malletLog n) s fun u => line u ∧ opened u ∧
        tells (if production s = true ∧ session s ≠ 2 then text "E3" else ((ringEntries s).take n).flatMap logLine ++ text "OK") u) ∧
      (0 < r → 528 ≤ baudDiv r → baudDiv r < 1048576 → locked s pgDbg = false → Does (.malletBaud r) s fun u => line u ∧ session u = (if session s = 0 then 1 else session s) ∧
        regsBut [0x40061040, 0x40061044] s u ∧ getF u pgDbg Reg.DBG_UART_DIV = baudDiv r / 16 ∧ getF u pgDbg Reg.DBG_UART_FRAC = baudDiv r % 16 ∧
        tells (decText (1600000000 / baudDiv r) ++ eol ++ text "OK") u) ∧
      Does .malletLock s (fun u => line u ∧ session u = 1 ∧ regsBut [0x40061044] s u ∧ u.mal.nonce = none ∧ u.mal.proof = [] ∧ tells (text "OK") u) ∧
      Does .malletOff s (fun u => line u ∧ session u = 0 ∧ regsBut [0x40061044] s u ∧ malStopped u = true ∧ tells (text "OK") u) ∧
      (production s = false → Does (.malletUnlock t) s fun u => timed u ∧ session u = 2 ∧ regsBut [0x40061044] s u ∧ tells (text "OK") u) ∧
      (production s = true → s.mal.fails < 3 →
        Does (.malletUnlock t) s (fun u => timed u ∧ opened u ∧ u.mal.nonce = some (s.mal.nonces, (at_ t s).io.now) ∧ u.mal.nonces = s.mal.nonces + 1 ∧
          u.mal.proof = [] ∧ ∃ body, tells (text "CHAL " ++ body ++ text "OK") u) ∧
        (k < 4 → Does (.malletUnlockKey k) s fun u => line u ∧ opened u ∧ u.mal.slot = some k ∧ u.mal.proof = s.mal.proof ∧ tells (text "OK") u) ∧
        (h ≠ [] → h.length ≤ 48 → Does (.malletUnlockData h) s fun u => line u ∧ opened u ∧ u.mal.proof = s.mal.proof ++ h ∧ tells (text "OK") u) ∧
        (proofOk (at_ t s) sig key = true → Does (.malletUnlockEnd sig key t) s fun u => timed u ∧ session u = 2 ∧ regsBut [0x40061044] s u ∧ u.mal.nonce = none ∧ tells (text "OK") u) ∧
        (proofOk (at_ t s) sig key = false → Does (.malletUnlockEnd sig key t) s fun u => timed u ∧ opened u ∧ u.mal.nonce = none ∧ u.mal.fails = s.mal.fails + 1 ∧ tells (text "E6") u)) ∧
      (c ≠ 13 → c ≠ 10 → s.mal.drop = false → s.mal.buf.length < 256 → Does (.receivedCharacter c false t) s fun u => samesBut [.io, .mal] s u ∧
        u.mal = { s.mal with buf := s.mal.buf ++ [c], cr := false } ∧ puts (.uart [c]) s u) ∧
      Does (.receivedCharacter 13 false t) s (fun u => samesBut [.io, .mal] s u ∧ u.mal = { s.mal with buf := [], drop := false, cr := true } ∧ puts (.uart [13]) s u) ∧
      Does (.receivedCharacter c true t) s (fun u => samesBut [.regs, .io] s u ∧ getF u pgDbg Reg.DBG_RX_ERR = satAdd 32 (getF s pgDbg Reg.DBG_RX_ERR) 1 ∧ regsBut [0x40061048] s u)) ∧
    (malStopped s = true → Does .malletHelp s (fun u => u = s) ∧ Does .malletOff s (fun u => u = s) ∧ Does (.receivedCharacter c false t) s (fun u => samesBut [.io] s u ∧ u.io.outbox = s.io.outbox)) ∧
    (session s ≠ 0 → s.mal.lineAt + 600000000000 ≤ (at_ t s).io.now → Does (.malletSessionTimeout t) s fun u => samesBut [.regs, .io, .mal] s u ∧ session u = 0 ∧
      u.mal = { s.mal with nonce := none, slot := none, proof := [] } ∧ regsBut [0x40061044] s u)

/-- MALLET_RD, MD, WR, MW, ERR, CALIB, CENSUS and RESET with the lifecycle's permission: hub SRAM is dumped and stored as bytes, ERR shows the error capture of a page and clears ERR_STAT for CLR, CALIB and CENSUS commit an
object, RESET answers and resets cold; in PRODUCTION without an unlock each that needs one answers E3, a write while the sequencer runs E5, CALIB E2, and CENSUS answers E2 outside RETURNED. -/
def Obligations.MalletAccess : Prop :=
  ∀ (a n p : Nat) (w : Word) (s : State), malStopped s = false →
    let tells (body : List Byte) (u : State) : Prop := puts (.uart (body ++ eol ++ text "mallet> ")) s u
    let may : Prop := production s = false ∨ session s = 2
    let can : Prop := production s = false ∨ (session s = 2 ∧ seqState s = 0)
    let opened (u : State) : Prop := session u = (if session s = 0 then 1 else session s)
    let kept (u : State) : Prop := samesBut [.regs, .io, .mal] s u ∧ regsBut [0x40061044] s u ∧ opened u
    let stored (u : State) : Prop := samesBut [.regs, .io, .mal, .mem] s u ∧ regsBut [0x40061044] s u ∧ memBytes u a 4 = leBytes 4 w.toNat ∧
      (∀ x, x < a ∨ a + 4 ≤ x → sparseGet memDefault u.mem x = sparseGet memDefault s.mem x) ∧ tells (hexAddr a ++ text ":" ++ (text " " ++ hexWord w.toNat) ++ eol ++ text "OK") u
    (a % 4 = 0 → 0x04000000 ≤ a → a + 4 * n ≤ 0x06000000 → 1 ≤ n →
      (may → n ≤ 64 → Does (.malletRd a n) s fun u => kept u ∧ ∃ body, tells (body ++ eol ++ text "OK") u) ∧
      (may → Does (.malletRd a 1) s fun u => kept u ∧ tells (hexAddr a ++ text ":" ++ (text " " ++ hexWord (leNat (memBytes s a 4))) ++ eol ++ text "OK") u) ∧
      (may → n ≤ 4096 → Does (.malletMd a n) s fun u => kept u ∧ ∃ body, tells (body ++ eol ++ text "OK") u) ∧
      (¬ may → Does (.malletRd a 1) s fun u => kept u ∧ tells (text "E3") u) ∧
      (can → Does (.malletWr a w) s stored ∧ Does (.malletMw a w) s stored) ∧
      (production s = true → session s = 2 → seqState s ≠ 0 → Does (.malletWr a w) s (fun u => kept u ∧ tells (text "E5") u) ∧ Does (.malletMw a w) s (fun u => kept u ∧ tells (text "E5") u))) ∧
    (p < 0x63 → blkOf (.hub p) ≠ none →
      (may → Does (.malletErr (pageBase (.hub p)) false) s fun u => kept u ∧ ∃ body, tells (text "ERR_STAT " ++ body ++ text "OK") u) ∧
      (can → Does (.malletErr (pageBase (.hub p)) true) s fun u => samesBut [.regs, .io, .mal] s u ∧ regsBut [0x40061044, pageBase (.hub p) + 0x20] s u ∧ opened u ∧
        getF u (.hub p) Reg.HDR_ERR_STAT_VALID = 0 ∧ getF u (.hub p) Reg.HDR_ERR_STAT_MULTI = 0 ∧ ∃ body, tells (text "ERR_STAT " ++ body ++ text "OK") u)) ∧
    (0 < n → n ≤ 3968 → 0x04000000 ≤ a → a + n ≤ 0x06000000 →
      (production s = false → mayWrite s = true → Does (.malletCalib a n) s fun u => samesBut (report ++ [.mal]) s u ∧ quietBut [0x40061044] s u ∧ tells (text "OK") u) ∧
      (production s = true → Does (.malletCalib a n) s fun u => kept u ∧ tells (text "E2") u)) ∧
    (lcState s = 3 → mayWrite s = true → Does .malletCensus s fun u => samesBut (report ++ [.mal]) s u ∧ quietBut [0x40061044] s u ∧ tells (text "OK") u) ∧
    (lcState s ≠ 3 → Does .malletCensus s fun u => kept u ∧ tells (text "E2") u) ∧
    (may → Does .malletReset s fun u => tells (text "OK") u ∧ u.mem = s.mem ∧ u.pending = s.pending ∧ u.seq = State.reset.seq ∧ u.cyc = State.reset.cyc ∧ u.dies = State.reset.dies ∧ u.mal = State.reset.mal ∧ u.pwr = State.reset.pwr)

/-- ILIM_STEP, RAIL_STAGE_DISABLE, PHASE_SHED, OP_SELECT, OP_STEP_DONE, MARGIN_SAMPLE, FLOOR_PEND_WRITE, ENV_REQUEST, ENV_ISL_REQUEST, DROOP_DETECT, DROOP_TIMEOUT and DROOP_HOLD_END: a die steps down while its rail is over its
limit; the stages of an OUT rail are disabled; a lightly loaded rail keeps its lowest good phases; the PMC selects the point of a die in service and steps toward it, and a step ends at its set-point; the smallest slack shows and
low samples are counted; a floor that passes its checks stands pending and another is refused with 0x67; the envelope requests stand, those that name none or are not the island's to make are refused with 0x67; a droop halves the clock, is counted and
recorded once per bar, steps the die down after 10 µs, and its limit ends. -/
def Obligations.OperatingPoints : Prop :=
  ∀ (n r t k x u0 : Nat) (slack : List Nat) (who : Agent) (d : DiePwr) (s : State), n < 4 → s.pwr.dies[n]? = some d →
    let die (e : DiePwr) (u : State) : Prop := u.pwr = { s.pwr with dies := s.pwr.dies.set n e }
    let opc := pageBase pgDvfs + 0x40 + 4 * n
    let vset := pageBase (pgVrc n) + 0x44
    let stat (r : Nat) := pageBase (pgVrc r) + 0x40
    let m := slack.foldl Nat.min x
    let low := m < getFi s pgDvfs Reg.DVFS_AGE_MARGIN_MIN n
    let act := getF s (pgVrc r) Reg.VRC_STAT_ACTIVE
    let refused (p : Page) (u : State) : Prop := samesBut report s u ∧ codeIn u p 0x67 ∧ quietBut [] s u
    (((getF s (pgVrc n) Reg.VRC_ILIM : Int) < sint 16 (getF s (pgVrc n) Reg.VRC_IRAIL) → Does (.ilimStep n) s fun u => samesBut [.pwr] s u ∧ die { d with ilim := opAct s n - 1 } u) ∧
      (sint 16 (getF s (pgVrc n) Reg.VRC_IRAIL) ≤ (getF s (pgVrc n) Reg.VRC_ILIM : Int) → Does (.ilimStep n) s fun u => u = s)) ∧
    (d.outAt ≠ none → Does (.railStageDisable n) s fun u => samesBut [.regs, .pwr] s u ∧ die { d with outAt := none } u ∧ getF u (pgVrc n) Reg.VRC_STAT_ACTIVE = 0 ∧ getF u (pgVrc n) Reg.VRC_VSET = 0 ∧
      regsBut [stat n, vset] s u) ∧
    (r < 5 → (railPwr s r).lowAt = some u0 → u0 + 100000 ≤ t → flag s pgPmc Reg.PMC_CTL_SHED_EN = true → act ≠ 0 → Does (.phaseShed r t) s fun u => samesBut [.regs, .io] s u ∧
      getF u (pgVrc r) Reg.VRC_STAT_ACTIVE = lowBits (if r < 4 then 4 else 2) (getF s (pgVrc r) Reg.VRC_STAT_GOOD) ∧ u.io.outbox = s.io.outbox ∧ regsBut [stat r] s u) ∧
    (diesIn s = [n] → d.step = none → opFloor s n ≤ selectOp s n →
      let chosen (op : Nat) (e : Option Nat) (u : State) : Prop := samesBut [.regs, .pwr] s u ∧ die { d with roll := false, step := e } u ∧ opAct u n = op ∧ getFi u pgDvfs Reg.DVFS_OPC_BREACH n = 0 ∧
        getFi u pgDvfs Reg.DVFS_THR_ACT n = reasons s n % 1024
      (selectOp s n < opAct s n → Does .opSelect s (chosen (opAct s n - 1) (some (opAct s n - 1)))) ∧
      (selectOp s n = opAct s n → Does .opSelect s (chosen (opAct s n) none)) ∧
      (opAct s n < selectOp s n → Does .opSelect s fun u => chosen (opAct s n) (some (opAct s n + 1)) u ∧ getF u (pgVrc n) Reg.VRC_VSET = setPoint s n (opAct s n + 1))) ∧
    (d.step = some k → k < 16 → Does (.opStepDone n) s fun u => samesBut [.regs, .pwr] s u ∧ die { d with step := none } u ∧ opAct u n = k ∧ getF u (pgVrc n) Reg.VRC_VSET = setPoint s n k ∧
      regsBut [opc, vset] s u) ∧
    Does (.marginSample n (x :: slack)) s (fun u => samesBut [.regs, .pwr] s u ∧ getFi u pgDvfs Reg.DVFS_AGE_MARGIN n = Nat.min m 255 ∧
      (low → d.below.2 = opAct s n → die { d with below := (d.below.1 + 1, opAct s n) } u) ∧ (low → d.below.2 ≠ opAct s n → die { d with below := (1, opAct s n) } u) ∧
      (¬ low → die { d with below := (0, opAct s n) } u) ∧ regsBut [pageBase pgDvfs + 0x1A0 + 4 * n] s u) ∧
    (controls who = true → locked s pgDvfs = false → k < 16 → k ≠ getFi s pgDvfs Reg.DVFS_OPC_FLOOR_PEND n →
      let passes : Prop := k ≤ opTop s n ∧ floorsPass s (envNow s) ((floorsPend s).set n k) = true
      (passes → Does (.floorPendWrite who n k) s fun u => samesBut [.regs] s u ∧ getFi u pgDvfs Reg.DVFS_OPC_FLOOR_PEND n = k ∧
        getF u pgAdm Reg.ADM_CFG_GEN = (getF s pgAdm Reg.ADM_CFG_GEN + 1) % 2 ^ 32 ∧ regsBut [opc, pageBase pgAdm + Reg.ADM_CFG_GEN.off] s u) ∧
      (¬ passes → Does (.floorPendWrite who n k) s (refused pgDvfs))) ∧
    (controls who = true →
      (k < 3 → Does (.envRequest who k) s fun u => samesBut [.regs] s u ∧ getF u pgCap Reg.CAP_ENV_REQ = k ∧ getF u pgCap Reg.CAP_STAT_CORE_PEND = 1 ∧ regsBut [pageBase pgCap + 0x40, pageBase pgCap + 0x48] s u) ∧
      Does (.envRequest who 3) s (refused pgCap) ∧ Does (.envIslRequest who 3) s (refused pgCap) ∧
      (k < 3 → inCharge s who = true → Does (.envIslRequest who k) s fun u => samesBut [.regs, .pwr] s u ∧ u.pwr = { s.pwr with envIsl := k } ∧ getF u pgCap Reg.CAP_STAT_ISL_PEND = 1 ∧ regsBut [pageBase pgCap + 0x48] s u) ∧
      (k < 3 → inCharge s who = false → Does (.envIslRequest who k) s (refused pgCap))) ∧
    (d.drooped = false → Does (.droopDetect n t) s fun u => samesBut (report ++ [.pwr]) s u ∧ die { d with half := true, drooped := true, droopAt := t } u ∧ codeIn u (pgVrc n) 0x64 ∧
      getF u (pgVrc n) Reg.VRC_DROOPS = satAdd 32 (getF s (pgVrc n) Reg.VRC_DROOPS) 1 ∧ quietBut [stat n, pageBase (pgVrc n) + 0x54] s u ∧
      (getF s (pgVrc n) Reg.VRC_STAT_ACTIVE ≠ 0 → getF u (pgVrc n) Reg.VRC_STAT_ACTIVE = getF s (pgVrc n) Reg.VRC_STAT_GOOD)) ∧
    (d.half = true → d.droopAt + 10000 ≤ t → Does (.droopTimeout n t) s fun u => samesBut [.io, .pwr] s u ∧ u.io.outbox = s.io.outbox ∧ die { d with droop := opAct s n - 1 } u) ∧
    Does (.droopHoldEnd n) s (fun u => samesBut [.pwr] s u ∧ die { d with droop := 15 } u)

/-- PMC_SAMPLE, PHASE_FAULT, PHASE_TEST, SOFT_START_DONE, SOFT_START_TIMEOUT, CAP_EVALUATION, CAP_RAISE and AGE_RAISE: a sample shows the input and each rail's voltage and current; the first phase that a rail loses leaves GOOD, lowers ILIM
to 20 A per good phase, shows REDUCED and records 0x60 or 0x61, in service as at power-up; a phase that passes its test changes nothing; a soft-started hub rail brings boot to ROM, a die's rail its set-point and its
clock, and a late one is OUT with 0x0F; a mean above 97 % of its cap lowers the highest die, and 1 ms below 90 % raises the lowest; 64 low samples raise the point's offset by 1 mV. -/
def Obligations.PowerRails : Prop :=
  ∀ (n r t ph k w mean u0 vinMv vinMa : Nat) (imon : Int) (sat : Bool) (rails : List RailSample) (x : RailSample) (y : RailPwr) (d : DiePwr) (s : State), n < 4 → r < 5 → s.pwr.rails[r]? = some y → s.pwr.dies[n]? = some d →
    let p := pgVrc r
    let good := putBits (getF s p Reg.VRC_STAT_GOOD) ph 1 0
    let lost (kind code : Nat) (u : State) : Prop := getF u p Reg.VRC_STAT_GOOD = good ∧ getF u p Reg.VRC_ILIM = 200 * (bitsSet 8 good).length ∧ getF u p Reg.VRC_STAT_STATE = 1 ∧
      getF u p Reg.VRC_LOSSES = satAdd 32 (getF s p Reg.VRC_LOSSES) 1 ∧ codeIn u p code ∧ (railPwr u r).lost = [(ph, kind)]
    let die (e : DiePwr) (u : State) : Prop := u.pwr.dies = s.pwr.dies.set n e
    let o := getFij s pgDvfs Reg.DVFS_VT_OFFSET n k
    (rails[r]? = some x → Does (.pmcSample rails vinMv vinMa t) s fun u => samesBut [.regs, .io, .pwr] s u ∧ getF u pgPmc Reg.PMC_VIN_MV = vinMv % 65536 ∧ getF u pgPmc Reg.PMC_VIN_CUR = vinMa / 10 % 65536 ∧
      getF u p Reg.VRC_VSNS = x.vsns % 65536 ∧ getF u p Reg.VRC_IRAIL = unsint 16 (sumI x.imon) % 65536 ∧ u.io.outbox = s.io.outbox) ∧
    (ph < 8 → (getF s p Reg.VRC_STAT_GOOD).testBit ph = true → y.lost = [] →
      Does (.phaseFault r [ph] [] t) s (fun u => samesBut (report ++ [.pwr]) s u ∧ lost 1 0x60 u ∧ ∀ j ∈ railDies r, j < s.pwr.dies.length → (diePwr u j).step = none) ∧
      Does (.phaseFault r [] [ph] t) s (fun u => samesBut (report ++ [.pwr]) s u ∧ lost 2 0x61 u ∧ ∀ j ∈ railDies r, j < s.pwr.dies.length → (diePwr u j).step = none) ∧
      (railStarts s r = true → ph < (if r = 4 then 4 else 8) → Does (.phaseTest r ph false imon sat) s (fun u => samesBut (report ++ [.pwr]) s u ∧ lost 1 0x60 u) ∧
        Does (.phaseTest r ph true imon true) s (fun u => samesBut (report ++ [.pwr]) s u ∧ lost 2 0x61 u) ∧
        (imon < -20 → Does (.phaseTest r ph true imon false) s (fun u => samesBut (report ++ [.pwr]) s u ∧ lost 2 0x61 u)) ∧
        (-20 ≤ imon → Does (.phaseTest r ph true imon false) s (fun u => u = s)))) ∧
    (railStarts s 4 = true → Does (.softStartDone 4) s fun u => samesBut [.regs, .io, .clap, .boot] s u ∧ bootStage u = 1 ∧ u.clap = { s.clap with safeOut := true } ∧ puts (.safeOut true) s u ∧
      u.boot = { s.boot with started := s.boot.started.set 4 true } ∧ getF u (pgVrc 4) Reg.VRC_VSET = 750 ∧ getF u (pgVrc 4) Reg.VRC_STAT_ACTIVE = getF s (pgVrc 4) Reg.VRC_STAT_GOOD ∧
      getF u pgClk Reg.CLK_STAT_REF_OK = 1 ∧ getF u pgClk Reg.CLK_STAT_HUB_LOCK = 1 ∧ getF u pgClk Reg.CLK_STAT_CORE_LOCK = 1) ∧
    (railStarts s n = true → Does (.softStartDone n) s fun u => samesBut [.regs, .boot] s u ∧ u.boot = { s.boot with started := s.boot.started.set n true } ∧
      getF u (pgVrc n) Reg.VRC_VSET = getFij s pgDvfs Reg.DVFS_VT_V_TEST n 0 + getFi s pgDvfs Reg.DVFS_AGE_OFFSET_MAX n ∧ getF u (pgVrc n) Reg.VRC_STAT_ACTIVE = getF s (pgVrc n) Reg.VRC_STAT_GOOD ∧
      getF u pgClk Reg.CLK_STAT_CD_LOCK = putBits (getF s pgClk Reg.CLK_STAT_CD_LOCK) n 1 1) ∧
    (railStarts s r = true → Does (.softStartTimeout r) s fun u => samesBut (report ++ [.boot]) s u ∧ codeIn u p 0x0F ∧ getF u p Reg.VRC_STAT_STATE = 3 ∧ quietBut [pageBase p + 0x40] s u ∧
      u.boot = (if r = 4 then { s.boot with hubOut := true } else s.boot)) ∧
    (w < 3 →
      let shown (u : State) : Prop := getFi u pgCap Reg.CAP_P (2 - w) = (roundOpen mean 10).toNat % 65536 ∧ u.pwr.means = s.pwr.means.set w mean ∧ regsBut [pageBase pgCap + 0x70 + 4 * (2 - w)] s u ∧ u.io.outbox = s.io.outbox
      (aboveCap s (2 - w) mean 97 = false → Does (.capEvaluation w mean t) s fun u => samesBut [.regs, .io, .pwr] s u ∧ shown u ∧ u.pwr.dies = s.pwr.dies) ∧
      (aboveCap s (2 - w) mean 97 = true → (∀ j < 4, (diePwr s j).warm = false) → highestDie s = some n →
        Does (.capEvaluation w mean t) s fun u => samesBut [.regs, .io, .pwr] s u ∧ shown u ∧ die { d with caps := d.caps.set w (opAct s n - 1) } u)) ∧
    (s.pwr.lowAt = some u0 → u0 + 1000000 ≤ t → s.pwr.raiseAt = 0 ∨ s.pwr.raiseAt + 1000000 ≤ t → lowestDie s = some n →
      let up (c : Nat) : Nat := if c ≤ opAct s n then opAct s n + 1 else c
      Does (.capRaise t) s fun u => samesBut [.io, .pwr] s u ∧ u.pwr.raiseAt = t ∧ die { d with caps := d.caps.map (fun c => if opReq s n ≤ up c then 15 else up c) } u) ∧
    (64 ≤ d.below.1 → d.below.2 = k → k < 16 → retired s n k = false → raised s n k (o + 1) = [k] → offsetFits s n (o + 1) k = true → o < 63 →
      Does (.ageRaise n) s fun u => samesBut (report ++ [.pwr]) s u ∧ getFij u pgDvfs Reg.DVFS_VT_OFFSET n k = o + 1 ∧ (diePwr u n).below = (0, k) ∧
        getFi u pgDvfs Reg.DVFS_AGE_RAISES n = satAdd 32 (getFi s pgDvfs Reg.DVFS_AGE_RAISES n) 1)

/-- THERMAL_STEP, STACK_TEMP_SAMPLE, TJ_SAMPLE and COOLANT_READ: a die at a threshold steps down by its soft limit, and by the hard limit where a hard threshold holds at its floor, and steps up 10 ms after the release; cool readings show and
limit nothing; a stack that reaches 95 °C records 0x68 and lowers its die at once; the extremes of a die's junction readings show; coolant readings show, none is read while a sensor has no address, an inlet above its limit
derates the cap and records 0x6A, and a loop that is in order stays OK with no cap. -/
def Obligations.Temperatures : Prop :=
  ∀ (n t : Nat) (v tin tout : Int) (flow : Nat) (l : List Int) (r : TrayRead) (d : DiePwr) (s : State), n < 4 → s.pwr.dies[n]? = some d →
    let die (e : DiePwr) (u : State) : Prop := samesBut [.io, .pwr] s u ∧ u.pwr = { s.pwr with dies := s.pwr.dies.set n e } ∧ u.io.outbox = s.io.outbox
    let up (c : Nat) : Nat := if opReq s n ≤ c + 1 then 15 else c + 1
    let hi := 128 * (getF s pgThm Reg.THM_COOL_INLET_HI : Int)
    let derate := (roundOpen (650 * 128 - (tin - hi) * getF s pgThm Reg.THM_COOL_DERATE_W) 128).toNat
    let shown (u : State) : Prop := getF u pgThm Reg.THM_COOL_T_IN = unsint 16 tin ∧ getF u pgThm Reg.THM_COOL_T_OUT = unsint 16 tout ∧ getF u pgThm Reg.THM_COOL_FLOW = flow
    let inOrder : Prop := s.pwr.flowAt = none ∧ s.pwr.riseAt = none ∧ 10 * getF s pgThm Reg.THM_COOL_FLOW_MIN ≤ flow ∧ tout - tin ≤ 128 * (getF s pgThm Reg.THM_COOL_DT_MAX : Int) ∧ getF s pgPmc Reg.PMC_P_DEV < 1000
    (2 ≤ thrOf s n → d.thAt + 1000000 ≤ t →
      (thrOf s n ≠ 3 ∨ opFloor s n < opAct s n → Does (.thermalStep n t) s (die { d with soft := Nat.min d.soft (opAct s n - 1), thAt := t })) ∧
      (thrOf s n = 3 → opAct s n ≤ opFloor s n → Does (.thermalStep n t) s (die { d with hard := opAct s n - 1, thAt := t }))) ∧
    (thrOf s n = 0 → d.soft < 15 ∨ d.hard < 15 → d.thAt + 10000000 ≤ t → Does (.thermalStep n t) s (die { d with soft := up d.soft, hard := up d.hard, thAt := t })) ∧
    (s.pwr.thr = List.replicate 13 0 →
      (l.length ≤ 4 → (∀ x ∈ l, x < 90) → Does (.stackTempSample l t) s fun u => samesBut [.regs, .io, .pwr] s u ∧ (∀ i x, l[i]? = some x → getFi u pgThm Reg.THM_MS_T i = unsint 8 x % 256) ∧
        u.pwr.dies = s.pwr.dies ∧ u.pwr.thr = s.pwr.thr ∧ u.io.outbox = s.io.outbox) ∧
      (95 ≤ v → v < 100 → Does (.stackTempSample (List.replicate n 0 ++ [v]) t) s fun u => samesBut (report ++ [.pwr]) s u ∧ getFi u pgThm Reg.THM_MS_T n = unsint 8 v % 256 ∧ codeIn u pgThm 0x68 ∧
        u.pwr.dies = s.pwr.dies.set n { d with soft := Nat.min d.soft (opAct s n - 1), thAt := t }) ∧
      (l ≠ [] → maxI l < 110 → s.pwr.cycBoot = false → s.pwr.warmEn = false → (∀ j < 4, (diePwr s j).warm = false) → Does (.tjSample [l] [] t) s fun u => samesBut [.regs, .io, .pwr] s u ∧
        getFi u pgThm Reg.THM_TJ_MAX 0 = unsint 8 (maxI l) % 256 ∧ getFi u pgThm Reg.THM_TJ_MIN 0 = unsint 8 (minI l) % 256 ∧ u.pwr.dies = s.pwr.dies ∧ u.pwr.tj = (sumI l, l.length))) ∧
    (coolReady s = false → Does (.coolantRead r t) s fun u => u = s) ∧
    (coolReady s = true → -32768 ≤ tin → tin < 32768 → -32768 ≤ tout → tout < 32768 → flow < 65536 → inOrder →
      (hi < tin → getF s pgThm Reg.THM_COOL_STATE ≠ 1 → Does (.coolantRead ⟨some tin, some tout, some flow⟩ t) s fun u => samesBut (report ++ [.pwr]) s u ∧ shown u ∧ getF u pgThm Reg.THM_COOL_STATE = 1 ∧
        getF u pgCap Reg.CAP_COOL_LIM = derate % 65536 ∧ codeIn u pgThm 0x6A) ∧
      (tin ≤ hi → getF s pgThm Reg.THM_COOL_STATE = 0 → Does (.coolantRead ⟨some tin, some tout, some flow⟩ t) s fun u => samesBut [.regs, .io, .pwr] s u ∧ shown u ∧ getF u pgThm Reg.THM_COOL_STATE = 0 ∧
        getF u pgCap Reg.CAP_COOL_LIM = 0xFFFF ∧ u.io.outbox = s.io.outbox))

/-- HOST_ACCESS, DMA_START, DMA_DONE, DMA_ERROR, PCIE_RESET, PCIE_IB_MSI, PCIE_LINK_TRAINING, DOWNSTREAM_MEMORY_WRITE and ETH_FRAME_RECEIVE: BAR4 is the MSI-X table and BAR2 reaches hub SRAM, and a root port has no BARs; a DMA channel starts once, copies
LEN × 64 bytes between hub SRAM and the host and ends with DONE, or stops with ERR and 0x11; a reset of the port in endpoint mode stops its copies; as a root port it takes a message as source 0x05B and writes into the inbound range; a link shows its
width and generation; a frame on a link that is down is not taken, and one with a bad FCS is counted and discarded. -/
def Obligations.HostPort : Prop :=
  ∀ (who : Agent) (d mac off width gen t : Nat) (b : List Byte) (v : Word) (kind : Nat) (frame : EthFrame) (s : State), d < 4 →
    let root : Prop := flag s pgPcie Reg.PCIE_STAT_ROOT = true
    let word := pageBase pgPcie + 0x110 + 0x20 * d
    let dev := getFi s pgPcie Reg.PCIE_DMA_DEV d * 64
    let len := getFi s pgPcie Reg.PCIE_DMA_LEN d * 64
    let host := get64 s pgPcie Reg.PCIE_DMA_HOST_LO Reg.PCIE_DMA_HOST_HI d
    let inSram (a n : Nat) : Prop := 0x04000000 ≤ a ∧ a + n ≤ 0x06000000
    let kept (a n : Nat) (u : State) : Prop := ∀ x, x < a ∨ a + n ≤ x → sparseGet memDefault u.mem x = sparseGet memDefault s.mem x
    let idle (u : State) : Prop := u.mbx = { s.mbx with dmaBusy := s.mbx.dmaBusy.filter (fun x => decide (x ≠ d)) } ∧ getFi u pgPcie Reg.PCIE_DMA_GO d = 0
    let rx := satAdd 32 (getFi s pgEth Reg.ETH_MAC_RX_FRAMES mac) 1
    let ib := getF s pgPcie Reg.PCIE_IB_BASE * 64
    let shows (l w g : Nat) (u : State) : Prop := samesBut [.regs] s u ∧ getF u pgPcie Reg.PCIE_STAT_LINK_UP = l ∧ getF u pgPcie Reg.PCIE_STAT_WIDTH = w ∧ getF u pgPcie Reg.PCIE_STAT_GEN = g ∧ regsBut [pageBase pgPcie + 0x40] s u
    (root → Does (.hostAccess 0 off 4 none) s (fun u => u = s) ∧ Does (.hostAccess 2 off 4 none) s (fun u => u = s) ∧ Does (.hostAccess 4 off 4 none) s (fun u => u = s)) ∧
    (¬ root → off + b.length ≤ 0x10000 → Does (.hostAccess 4 off b.length none) s (fun u => samesBut [.io] s u ∧ u.io.resp = ⟨msixBytes s off b.length, true, false⟩) ∧
      Does (.hostAccess 4 off 0 (some b)) s (fun u => samesBut [.io, .boot] s u ∧ u.io.resp = ⟨[], true, false⟩ ∧ msixBytes u off b.length = b)) ∧
    (¬ root → b ≠ [] → inSram off b.length → Does (.hostAccess 2 off b.length none) s (fun u => samesBut [.io] s u ∧ u.io.resp.data = memBytes s off b.length ∧ u.io.resp.done = true) ∧
      Does (.hostAccess 2 off 0 (some b)) s (fun u => samesBut [.io, .mem] s u ∧ u.io.resp.done = true ∧ memBytes u off b.length = b ∧ kept off b.length u)) ∧
    (controls who = true → locked s pgPcie = false → len ≠ 0 → d ∉ s.mbx.dmaBusy → Does (.dmaStart who d) s fun u => samesBut [.regs, .io, .mbx] s u ∧ getFi u pgPcie Reg.PCIE_DMA_GO d = 1 ∧
      u.mbx = { s.mbx with dmaBusy := d :: s.mbx.dmaBusy } ∧ (flagI s pgPcie Reg.PCIE_DMA_DIR d = true → puts (.hostRead host len) s u) ∧ u.io.resp.done = true ∧ regsBut [word] s u) ∧
    (d ∈ s.mbx.dmaBusy →
      (flagI s pgPcie Reg.PCIE_DMA_DIR d = false → len ≠ 0 → inSram dev len → Does (.dmaDone d b) s fun u => samesBut [.regs, .io, .mbx] s u ∧ idle u ∧ getFi u pgPcie Reg.PCIE_DMA_DONE d = 1 ∧
        puts (.hostWrite host (memBytes s dev len)) s u ∧ regsBut [word] s u) ∧
      (flagI s pgPcie Reg.PCIE_DMA_DIR d = true → len ≠ 0 → inSram dev len → b.length = len → Does (.dmaDone d b) s fun u => samesBut [.regs, .mbx, .mem] s u ∧ idle u ∧ getFi u pgPcie Reg.PCIE_DMA_DONE d = 1 ∧
        memBytes u dev len = b ∧ kept dev len u ∧ regsBut [word] s u) ∧
      Does (.dmaError d kind) s (fun u => samesBut report s u ∧ idle u ∧ getFi u pgPcie Reg.PCIE_DMA_ERR d = 1 ∧ codeIn u pgPcie 0x11 ∧ quietBut [word] s u)) ∧
    (¬ root → Does .pcieReset s fun u => samesBut [.regs, .mbx, .boot] s u ∧ u.mbx = { s.mbx with dmaBusy := [] } ∧ u.boot = { s.boot with msixTable := [] } ∧ ∀ a, a / 4096 ≠ 0x4005B → regW u a = regW s a) ∧
    (root → Does .pcieReset s (fun u => u = s)) ∧
    (root → Does (.pcieIbMsi v) s fun u => samesBut [.regs, .io] s u ∧ (getF u pgPcie Reg.HDR_INT_STAT_BLOCK).testBit 0 = true ∧ quietBut [] s u) ∧
    (¬ root → Does (.pcieIbMsi v) s (fun u => u = s)) ∧
    (1 ≤ width → width ≤ 16 → 1 ≤ gen → gen ≤ 5 → Does (.pcieLinkTraining true width gen) s (shows 1 width gen)) ∧
    Does (.pcieLinkTraining false width gen) s (shows 0 0 0) ∧
    (root → b ≠ [] → off + b.length ≤ getF s pgPcie Reg.PCIE_IB_LEN * 64 → inSram (ib + off) b.length → Does (.downstreamMemoryWrite off b) s fun u => samesBut [.mem] s u ∧
      memBytes u (ib + off) b.length = b ∧ kept (ib + off) b.length u) ∧
    (mac < 8 →
      (flagI s pgEth Reg.ETH_MAC_LINK mac = false → Does (.ethFrameReceive mac frame t) s fun u => samesBut [.io] s u ∧ u.io.outbox = s.io.outbox) ∧
      (flagI s pgEth Reg.ETH_MAC_LINK mac = true → frame.fcsOk = false ∨ 9216 < frame.bytes.length → Does (.ethFrameReceive mac frame t) s fun u => samesBut [.regs, .io] s u ∧
        getFi u pgEth Reg.ETH_MAC_RX_FRAMES mac = rx ∧ getFi u pgEth Reg.ETH_MAC_RX_FCS mac = satAdd 32 (getFi s pgEth Reg.ETH_MAC_RX_FCS mac) 1) ∧
      (flagI s pgEth Reg.ETH_MAC_LINK mac = true → frame.fcsOk = true → frame.bytes.length ≤ 9216 → barsRun s = false → Does (.ethFrameReceive mac frame t) s fun u => samesBut [.regs, .io] s u ∧
        getFi u pgEth Reg.ETH_MAC_RX_FRAMES mac = rx ∧ getFi u pgEth Reg.ETH_MAC_RX_FCS mac = getFi s pgEth Reg.ETH_MAC_RX_FCS mac))

/-- GRANT_RECEIVE, REVOKE_RECEIVE, HEARTBEAT_RESPONSE, HOLD_TIMEOUT, HOLD_DROP and TICK_FLIT in a running island: a GRANT sets the hold latch, starts the hold timer and keeps the epoch, and in a safe state of the hub sets the SAFE latch with its cause and queues the
safe-state frame; a REVOKE, an ERROR response, HOLD_DROP and 500 µs by the island's timer without an acknowledgment (code 0x56) clear the latch, take the VALID pair invalid and write HOLD_REL; an acknowledgment restarts the timer; a TICK flit brings the bar and the health word. -/
def Obligations.HoldLatch : Prop :=
  ∀ (i t bar health : Nat) (s : State), i < 2 → islUp s i = true →
    let p := pgIsl i
    let stat := pageBase p + 0x40
    let stays (u : State) : Prop := ∀ r ∈ [Reg.ISL_STAT_MODE, Reg.ISL_STAT_FAULTED, Reg.ISL_STAT_FAULT_CAUSE], getF u p r = getF s p r
    let dropped (u : State) : Prop := getF u p Reg.ISL_STAT_HOLD = 0 ∧ getF u p Reg.ISL_STAT_VALID = 0 ∧ getF u p Reg.ISL_STAT_SAFE = getF s p Reg.ISL_STAT_SAFE ∧ stays u ∧
      puts (.islWrite i 0x80 1) s u ∧ (flag s p Reg.ISL_STAT_VALID = true → puts (.valid i false) s u)
    let drops (c : Instr) : Prop := Does c s fun u => samesBut [.regs, .io] s u ∧ regsBut [stat] s u ∧ dropped u
    let nothing (c : Instr) : Prop := Does c s fun u => u = s
    (flag s p Reg.ISL_STAT_HOLD = true → drops (.revokeReceive i) ∧ drops (.holdDrop i) ∧ drops (.heartbeatResponse i false t) ∧
      ((islOf s i).ackAt + 499500 ≤ t → Does (.holdTimeout i t) s fun u => samesBut report s u ∧ quietBut [stat] s u ∧ codeIn u p 0x56 ∧ dropped u) ∧
      (t < (islOf s i).ackAt + 499500 → nothing (.holdTimeout i t))) ∧
    (flag s p Reg.ISL_STAT_HOLD = false → nothing (.revokeReceive i) ∧ nothing (.holdDrop i) ∧ nothing (.holdTimeout i t)) ∧
    Does (.heartbeatResponse i true t) s (fun u => samesBut [.io, .isl] s u ∧ islOf u i = { islOf s i with ackAt := t } ∧ islOf u (1 - i) = islOf s (1 - i) ∧ u.io.outbox = s.io.outbox) ∧
    (flag s pgClap Reg.CLAP_STAT_SAFE = false → Does (.grantReceive i t) s fun u => samesBut [.regs, .io, .isl] s u ∧ regsBut [stat] s u ∧ stays u ∧
      getF u p Reg.ISL_STAT_HOLD = 1 ∧ getF u p Reg.ISL_STAT_SAFE = getF s p Reg.ISL_STAT_SAFE ∧ flag u p Reg.ISL_STAT_VALID = validAllowed u i ∧
      islOf u i = { islOf s i with ackAt := t, epoch := getF s pgClap Reg.CLAP_EPOCH } ∧ islOf u (1 - i) = islOf s (1 - i)) ∧
    (flag s pgClap Reg.CLAP_STAT_SAFE = true → Does (.grantReceive i t) s fun u => samesBut [.regs, .io, .isl] s u ∧ regsBut [stat] s u ∧ stays u ∧
      getF u p Reg.ISL_STAT_HOLD = 1 ∧ getF u p Reg.ISL_STAT_SAFE = 1 ∧ getF u p Reg.ISL_STAT_VALID = 0 ∧ (islOf u i).ssf = true ∧
      (islOf u i).cause = getF s pgClap Reg.CLAP_STAT_CAUSE ∧ (islOf u i).ackAt = t ∧ (islOf u i).epoch = getF s pgClap Reg.CLAP_EPOCH ∧ islOf u (1 - i) = islOf s (1 - i)) ∧
    Does (.tickFlit i bar health) s (fun u => samesBut [.isl] s u ∧ islOf u i = { islOf s i with bar := bar % 2 ^ 32, health := health % 2 ^ 24 } ∧ islOf u (1 - i) = islOf s (1 - i))

/-- ISLAND_FAULT, ISLAND_WATCHDOG_EXPIRE, ISLAND_RESTART, ISLAND_AUTO_RESTART and ISLAND_RESET_RELEASE: a fault of a running island holds its cores, shows FAULTED with the cause, clears the hold latch and the VALID pair, records its code in ISL and CLAP and abdicates a held Clapper;
in Split mode nothing is compared, so no fault of cause 1 occurs; a restart of the monitor only drops its latch, one of the island in charge is a fault, whose cause the spec does not number and the model leaves free (log entry 3); an island boots from the accepted slot with the highest
security version, or faults with cause 4. -/
def Obligations.IslandFaults : Prop :=
  ∀ (i cause v : Nat) (split : Bool) (slots : List (Option Nat)) (s : State), i < 2 → State.wf s = true →
    let p := pgIsl i
    let stat := pageBase p + 0x40
    let mon := pageBase pgClap + 0x48
    let nothing (c : Instr) : Prop := Does c s fun u => u = s
    let faulted (f code : Nat) (u : State) : Prop := samesBut (report ++ [.isl]) s u ∧ quietBut [stat, mon] s u ∧ codeIn u p code ∧ codeIn u pgClap code ∧ islOf u i = { islOf s i with phase := 2 } ∧ islOf u (1 - i) = islOf s (1 - i) ∧
      getF u p Reg.ISL_STAT_FAULTED = 1 ∧ getF u p Reg.ISL_STAT_FAULT_CAUSE = f ∧ getF u p Reg.ISL_STAT_HOLD = 0 ∧ getF u p Reg.ISL_STAT_VALID = 0 ∧ getF u p Reg.ISL_STAT_MODE = getF s p Reg.ISL_STAT_MODE ∧ getF u p Reg.ISL_STAT_SAFE = getF s p Reg.ISL_STAT_SAFE ∧
      (flag s p Reg.ISL_STAT_HOLD = true → puts (.islWrite i 0x80 1) s u) ∧ (flag s p Reg.ISL_STAT_VALID = true → puts (.valid i false) s u) ∧ (islandInCharge s = some i → puts (.islWrite i 0x7C 1) s u)
    let outside (u : State) : Prop := ∀ a, (a < pageBase p ∨ pageBase p + 0x1000 ≤ a) → a ≠ mon → regW u a = regW s a
    let started (u : State) : Prop := samesBut [.regs, .io, .isl] s u ∧ outside u ∧ islOf u i = { Isl.fresh with phase := 1 } ∧ islOf u (1 - i) = islOf s (1 - i) ∧ getF u p Reg.ISL_SVN = v ∧ getF u p Reg.ISL_STAT_HOLD = 0 ∧ getF u p Reg.ISL_STAT_FAULTED = 0 ∧
      getF u p Reg.ISL_STAT_SAFE = 0 ∧ getF u p Reg.ISL_STAT_VALID = 0 ∧ (flag s p Reg.ISL_STAT_VALID = true → puts (.valid i false) s u)
    let refused (u : State) : Prop := samesBut (report ++ [.isl]) s u ∧ islOf u i = { Isl.fresh with phase := 2 } ∧ islOf u (1 - i) = islOf s (1 - i) ∧ getF u p Reg.ISL_SVN = getF s p Reg.ISL_SVN ∧ getF u p Reg.ISL_STAT_FAULTED = 1 ∧ getF u p Reg.ISL_STAT_FAULT_CAUSE = 4 ∧
      getF u p Reg.ISL_STAT_HOLD = 0 ∧ getF u p Reg.ISL_STAT_VALID = 0 ∧ codeIn u p 0x51 ∧ codeIn u pgClap 0x51
    let slot := bootSlot (getF s p Reg.ISL_SVN) slots
    let again : Prop := ((islOf s i).phase = 2 ∧ flag s p Reg.ISL_CTL_AUTO_RESTART = true) ∨ (islOf s i).phase = 3
    (islUp s i = true →
      (1 ≤ cause → cause ≤ 5 → (cause = 1 → flag s p Reg.ISL_STAT_MODE = false) → Does (.islandFault i cause) s (faulted cause (if cause = 1 then 0x50 else 0x51))) ∧
      (flag s p Reg.ISL_STAT_MODE = true → nothing (.islandFault i 1)) ∧
      Does (.islandWatchdogExpire i) s (faulted 3 0x51) ∧
      (islandInCharge s = some i → Does (.islandRestart i) s (faulted (Config.free s.io.fresh % 16) 0x51)) ∧
      (islandInCharge s ≠ some i → Does (.islandRestart i) s fun u => samesBut [.regs, .io, .isl] s u ∧ regsBut [stat, mon] s u ∧ islOf u i = { islOf s i with phase := 3 } ∧ islOf u (1 - i) = islOf s (1 - i) ∧ getF u p Reg.ISL_STAT_HOLD = 0 ∧
        getF u p Reg.ISL_STAT_FAULTED = getF s p Reg.ISL_STAT_FAULTED ∧ (flag s p Reg.ISL_STAT_HOLD = true → getF u p Reg.ISL_STAT_VALID = 0 ∧ puts (.islWrite i 0x80 1) s u))) ∧
    (islUp s i = false → nothing (.islandFault i cause) ∧ nothing (.islandWatchdogExpire i) ∧ nothing (.islandRestart i)) ∧
    (slot = some v → v < 2 ^ 32 →
      ((islOf s i).phase = 0 → Does (.islandResetRelease i split slots) s fun u => started u ∧ flag u p Reg.ISL_STAT_MODE = split) ∧
      (again → Does (.islandAutoRestart i slots) s fun u => started u ∧ getF u p Reg.ISL_STAT_MODE = getF s p Reg.ISL_STAT_MODE)) ∧
    (slot = none → ((islOf s i).phase = 0 → Does (.islandResetRelease i split slots) s fun u => refused u ∧ flag u p Reg.ISL_STAT_MODE = split) ∧ (again → Does (.islandAutoRestart i slots) s fun u => refused u ∧ getF u p Reg.ISL_STAT_MODE = getF s p Reg.ISL_STAT_MODE)) ∧
    ((islOf s i).phase ≠ 0 → nothing (.islandResetRelease i split slots)) ∧ (¬ again → nothing (.islandAutoRestart i slots))

/-- ISL_SAFE_REQ, SAFE_MESSAGE_RECEIVE, SAFE_N_IN_ASSERT, WATCH_EXPIRE and EMISSION_NOTICE: a trigger in a running island whose SAFE latch is clear sets the latch with its cause, takes the VALID pair invalid and sends the request to the hub, and the island in charge has the safe-state frame queued; while the latch is
set a request changes nothing; a SAFE message sets the latch with the hub's cause; an expired watch is EXPIRED with code 0x57 and triggers with cause 1 if it is a SAFETY watch; a fresh notice makes its watch CURRENT and restarts its age, and step 4 of the ladder triggers with cause 2. -/
def Obligations.IslandSafeState : Prop :=
  ∀ (i w t : Nat) (n : Notice) (s : State), i < 2 → w < 16 → islUp s i = true →
    let p := pgIsl i
    let stat := pageBase p + 0x40
    let safe (u : State) (cause : Nat) : Prop := getF u p Reg.ISL_STAT_SAFE = 1 ∧ getF u p Reg.ISL_STAT_VALID = 0 ∧ (islOf u i).cause = cause ∧ (islandInCharge s = some i → (islOf u i).ssf = true)
    let latched (u : State) : Prop := ∀ r ∈ [Reg.ISL_STAT_MODE, Reg.ISL_STAT_HOLD, Reg.ISL_STAT_FAULTED, Reg.ISL_STAT_FAULT_CAUSE], getF u p r = getF s p r
    let asks (u : State) (cause : Nat) : Prop := safe u cause ∧ latched u ∧ puts (.islWrite i (0x74 + 4 * i) cause) s u
    let dormant : Prop := ∀ k < 16, k ≠ w → watchState s i k = 0
    let clear : Prop := flag s p Reg.ISL_STAT_SAFE = false
    (clear → Does (.islSafeReq i t) s fun u => samesBut [.regs, .io, .isl] s u ∧ regsBut [stat] s u ∧ asks u (if islandInCharge s = some i then 5 else 6)) ∧
    (flag s p Reg.ISL_STAT_SAFE = true → Does (.islSafeReq i t) s fun u => u = at_ t s) ∧
    Does (.safeMessageReceive i t) s (fun u => samesBut [.regs, .io, .isl] s u ∧ regsBut [stat] s u ∧ safe u (getF s pgClap Reg.CLAP_STAT_CAUSE) ∧ latched u) ∧
    Does (.safeNInAssert t) s (fun u => samesBut (report ++ [.isl, .clap]) s u ∧ u.clap = { s.clap with safeIn := false } ∧ quietBut [pageBase (pgIsl 0) + 0x40, pageBase (pgIsl 1) + 0x40] s u ∧ codeIn u p 0x5A ∧ (clear → safe u 4 ∧ puts (.islWrite i (0x74 + 4 * i) 4) s u)) ∧
    (watchState s i w = 2 → getFi s p Reg.ISL_WATCH_AGE_LIMIT w * 999 ≤ t - nth0 (islOf s i).age w → Does (.watchExpire i w t) s fun u => samesBut (report ++ [.isl]) s u ∧ quietBut [stat, pageBase p + 0x8C + 0x10 * w] s u ∧ watchState u i w = 3 ∧ codeIn u p 0x57 ∧
      (flagI s p Reg.ISL_WATCH_SAFETY w = true → clear → asks u 1) ∧ (flagI s p Reg.ISL_WATCH_SAFETY w = false → getF u p Reg.ISL_STAT_SAFE = getF s p Reg.ISL_STAT_SAFE)) ∧
    (t - nth0 (islOf s i).age w < getFi s p Reg.ISL_WATCH_AGE_LIMIT w * 999 → Does (.watchExpire i w t) s fun u => u = s) ∧
    (dormant → watchMatches s i w n = true → watchFresh s i w n = true → n.pair = false → n.clip = false → Does (.emissionNotice i n t) s fun u => samesBut [.regs, .io, .isl] s u ∧ regsBut [stat, pageBase p + 0x8C + 0x10 * w] s u ∧ watchState u i w = 2 ∧
      getFi u p Reg.ISL_WATCH_PAIR_RUN w = 0 ∧ getFi u p Reg.ISL_WATCH_CLIP_RUN w = 0 ∧ islOf u i = { islOf s i with dstep := n.dstep % 256, age := (islOf s i).age.set w t } ∧ getF u p Reg.ISL_STAT_SAFE = getF s p Reg.ISL_STAT_SAFE ∧ islOf u (1 - i) = islOf s (1 - i)) ∧
    (dormant → clear → watchState s i w = 2 → flagI s p Reg.ISL_WATCH_SAFETY w = true → getFi s p Reg.ISL_WATCH_PART w = n.part → n.dstep = 4 → n.pair = false → n.clip = false → Does (.emissionNotice i n t) s fun u => samesBut [.regs, .io, .isl] s u ∧ asks u 2 ∧ watchState u i w = 2 ∧ (islOf u i).dstep = 4)

/-- CAN_STATUS_PERIOD, SSF_PERIOD, CAN_SSF_LATE, CAN_BUS_OFF, CAN_BUS_OFF_RECOVERY, CAN_RECEIVE and CAN_FRAME_COMPLETE: a STATUS frame goes onto CAN_0 each period and, while the safe state lasts, the island in charge repeats the SAFE_STATE frame, each with its identifier and counter; a SAFE_STATE frame not complete
2.0 ms after t0 records 0x5B and counts; BUS_OFF records 0x5F, with the error counter past 255 by what the model leaves free within the 8 of one error, and recovery clears both; a supported frame that the filters accept (log entry 37) is received; a complete frame leaves the queue, and a SAFE_STATE frame counts and ends its retries. -/
def Obligations.CanFrames : Prop :=
  ∀ (i ch t t0 : Nat) (f : CanFrame) (s : State), i < 2 → ch < 2 → islUp s i = true → (islOf s i).can.length = 2 →
    let p := pgIsl i
    let word (off : Nat) : Nat := pageBase p + off + 0x40 * ch
    let beside (u : State) : Prop := islOf u (1 - i) = islOf s (1 - i) ∧ canOf u i (1 - ch) = canOf s i (1 - ch) ∧ { islOf u i with can := [] } = { islOf s i with can := [] }
    let frame (v : State) (c kind : Nat) : CanFrame :=
      let key := (canIdent s i c kind).1 + (if (canIdent s i c kind).2 then 2 ^ 31 else 0)
      ⟨(canIdent s i c kind).1, (canIdent s i c kind).2, true, true, islandFrame v i kind (((canOf s i c).counters.find? (fun e => e.1 = key)).elim 0 (fun e => e.2))⟩
    let off : Bool := flagI s p Reg.ISL_CAN_BUS_OFF ch
    (ch = 0 → Does (.canStatusPeriod i) s fun u => samesBut [.isl] s u ∧ beside u ∧ (canOf u i 0).queue = (canOf s i 0).queue ++ [frame s 0 1]) ∧
    (islandInCharge s = some i → flag s p Reg.ISL_STAT_SAFE = true → (islOf s i).ssf = true → Does (.ssfPeriod i ch t) s fun u => samesBut [.io, .isl] s u ∧ beside u ∧ (canOf u i ch).queue = (canOf s i ch).queue ++ [frame (at_ t s) ch 2]) ∧
    (flag s p Reg.ISL_STAT_SAFE = false → Does (.ssfPeriod i ch t) s fun u => u = s) ∧
    ((canOf s i ch).ssf = some (t0, false) → t0 + 2000000 ≤ t → Does (.canSsfLate i ch t) s fun u => samesBut (report ++ [.isl]) s u ∧ quietBut [word 0x218] s u ∧ beside u ∧ codeIn u p 0x5B ∧
      getFi u p Reg.ISL_CAN_SSF_LATE ch = satAdd 32 (getFi s p Reg.ISL_CAN_SSF_LATE ch) 1 ∧ canOf u i ch = { canOf s i ch with ssf := some (t0, true) }) ∧
    ((canOf s i ch).ssf = none → Does (.canSsfLate i ch t) s fun u => u = s) ∧
    (off = false → Does (.canBusOff i ch) s fun u => samesBut report s u ∧ quietBut [word 0x210] s u ∧ codeIn u p 0x5F ∧ getFi u p Reg.ISL_CAN_BUS_OFF ch = 1 ∧ getFi u p Reg.ISL_CAN_TEC ch = 256 + Config.free s.io.fresh % 8) ∧
    (off = true → Does (.canBusOffRecovery i ch) s fun u => samesBut [.regs] s u ∧ regsBut [word 0x210] s u ∧ getFi u p Reg.ISL_CAN_BUS_OFF ch = 0 ∧ getFi u p Reg.ISL_CAN_TEC ch = 0) ∧
    (off = false → canSupported f = true → Config.canFilter i ch f = true → Does (.canReceive i ch f) s fun u => samesBut [.isl] s u ∧ beside u ∧ canOf u i ch = { canOf s i ch with rx := (canOf s i ch).rx ++ [f] }) ∧
    (canSupported f = false ∨ Config.canFilter i ch f = false → Does (.canReceive i ch f) s fun u => u = s) ∧
    (off = false → (canOf s i ch).queue.contains f = true →
      (f.data.take 1 = leBytes 1 2 → Does (.canFrameComplete i ch f t) s fun u => samesBut [.regs, .io, .isl] s u ∧ regsBut [word 0x210, word 0x214] s u ∧ beside u ∧ puts (.can i ch f) s u ∧ getFi u p Reg.ISL_CAN_TEC ch = getFi s p Reg.ISL_CAN_TEC ch - 1 ∧
        getFi u p Reg.ISL_CAN_SSF_SENT ch = satAdd 32 (getFi s p Reg.ISL_CAN_SSF_SENT ch) 1 ∧ canOf u i ch = { canOf s i ch with queue := (canOf s i ch).queue.erase f, ssf := none }) ∧
      (f.data.take 1 ≠ leBytes 1 2 → Does (.canFrameComplete i ch f t) s fun u => samesBut [.regs, .io, .isl] s u ∧ regsBut [word 0x210] s u ∧ beside u ∧ puts (.can i ch f) s u ∧ getFi u p Reg.ISL_CAN_TEC ch = getFi s p Reg.ISL_CAN_TEC ch - 1 ∧
        canOf u i ch = { canOf s i ch with queue := (canOf s i ch).queue.erase f }))

/-- CLAP_CLAIM, CLAP_ARBITRATE, CLAP_CONFIRM, CLAP_CONFIRM_TIMEOUT, CLAP_HOLD_REL, CLAP_GRANT_TIMEOUT, CLAP_RELEASE and CLAP_OFFER_TIMEOUT: claims in FREE are gathered, and the winner, as one in OFFERED or LAPSED at once, gets an OFFER while the losers get a DENY; its CONFIRM brings the GRANT at once or, out of OFFERED while the
holder's latch may be set, REVOKE first, and HOLD_REL or 510 µs the GRANT; a grant makes it HELD with the new epoch, counts a pass and records 0x54; a claim that the rules refuse, or a Split-mode claimant without SPLIT_OK, is recorded with 0x52 or 0x5C; a release in HELD with MON_READY makes it OFFERED, and both timeouts return the token. -/
def Obligations.ClapperToken : Prop :=
  ∀ (who : Agent) (i t : Nat) (e : Word) (s : State), i < 2 → controls who = true → who ≠ .host → who ≠ .island i →
    let me := Agent.island i
    let st := clapState s
    let stat := pageBase pgClap + 0x48
    let splitBad : Prop := flag s (pgIsl i) Reg.ISL_STAT_MODE = true ∧ flag s pgClap Reg.CLAP_CFG_SPLIT_OK = false
    let refusal (c : Instr) (code : Nat) : Prop := Does c s fun u => samesBut report s u ∧ quietBut [] s u ∧ codeIn u pgClap code
    let offered (j n prior : Nat) (u : State) : Prop := samesBut [.regs, .io, .clap] s u ∧ regsBut [stat] s u ∧ clapState u = 3 ∧ clapHolder u = clapHolder s ∧ puts (.island j (.offer n)) s u ∧ u.clap.claims = [] ∧ u.clap.claim = some (j, n, prior) ∧ u.clap.confirmed = none
    let granted (j n : Nat) (u : State) : Prop := samesBut (report ++ [.clap]) s u ∧ quietBut [stat, stat + 4, stat + 8, pageBase pgClap + 0x84] s u ∧ clapState u = 1 ∧ clapHolder u = j % 2 ∧ getF u pgClap Reg.CLAP_STAT_MISSED = 0 ∧ getF u pgClap Reg.CLAP_EPOCH = n % 2 ^ 32 ∧ getF u pgClap Reg.CLAP_FLOOR = (n + 1) % 2 ^ 32 ∧
      getF u pgClap Reg.CLAP_PASSES = satAdd 32 (getF s pgClap Reg.CLAP_PASSES) 1 ∧ codeIn u pgClap 0x54 ∧ puts (.island j (.grant n)) s u ∧
      u.clap = { s.clap with claim := none, confirmed := none, rel := false, hb := false, live := [false, false], missed := [0, 0], granted := true, idle := none }
    (splitBad → refusal (.clapClaim me i e t) 0x5C) ∧
    (¬ splitBad → claimRefused s i e.toNat = true → refusal (.clapClaim me i e t) 0x52) ∧
    (¬ splitBad → claimRefused s i e.toNat = false → st = 0 → Does (.clapClaim me i e t) s fun u => samesBut [.io, .clap] s u ∧ u.io.outbox = s.io.outbox ∧
      u.clap = { s.clap with claims := (i, e.toNat) :: s.clap.claims.filter (fun x => x.1 ≠ i), since := if s.clap.claims = [] then t else s.clap.since }) ∧
    (¬ splitBad → claimRefused s i e.toNat = false → st ≠ 0 → Does (.clapClaim me i e t) s (offered i e.toNat st)) ∧
    (refusal (.clapClaim who i e t) 0x52 ∧ refusal (.clapConfirm who i e t) 0x52) ∧
    (∀ j n, arbitrate s.clap.claims = some (j, n) → st = 0 → s.clap.since + 10000 ≤ t → Does (.clapArbitrate t) s fun u => offered j n 0 u ∧ ∀ x ∈ s.clap.claims, x.1 ≠ j → puts (.island x.1 (.deny n)) s u) ∧
    (arbitrate s.clap.claims = none ∨ st ≠ 0 → Does (.clapArbitrate t) s fun u => u = s) ∧
    (∀ prior, s.clap.claim = some (i, e.toNat, prior) → s.clap.confirmed = none →
      (prior ≠ 2 ∨ s.clap.rel = true → Does (.clapConfirm me i e t) s (granted i e.toNat)) ∧
      (prior = 2 → s.clap.rel = false → Does (.clapConfirm me i e t) s fun u => samesBut [.io, .clap] s u ∧ u.clap = { s.clap with confirmed := some t } ∧ puts (.island (clapHolder s) .revoke) s u) ∧
      (prior < 8 → Does .clapConfirmTimeout s fun u => samesBut (report ++ [.clap]) s u ∧ quietBut [stat] s u ∧ clapState u = prior ∧ clapHolder u = clapHolder s ∧ u.clap.claim = none ∧ codeIn u pgClap 0x55)) ∧
    (s.clap.claim = none → refusal (.clapConfirm me i e t) 0x52 ∧ Does .clapConfirmTimeout s fun u => u = s) ∧
    (∀ n j c prior, s.clap.claim = some (j, n, prior) → s.clap.confirmed = some c →
      (clapHolder s = i → s.clap.granted = true → Does (.clapHoldRel (.islandHw i) t) s (granted j n)) ∧ (c + 510000 ≤ t → Does (.clapGrantTimeout t) s (granted j n)) ∧ (t < c + 510000 → Does (.clapGrantTimeout t) s fun u => u = s)) ∧
    (clapHolder s = i → s.clap.granted = true → s.clap.confirmed = none → Does (.clapHoldRel (.islandHw i) t) s fun u => samesBut [.io, .clap] s u ∧ u.clap = { s.clap with rel := true } ∧ u.io.outbox = s.io.outbox) ∧
    (clapHolder s ≠ i → Does (.clapHoldRel (.islandHw i) t) s fun u => u = at_ t s) ∧
    (st = 1 → clapHolder s = i → flag s pgClap Reg.CLAP_STAT_MON_READY = true → Does (.clapRelease me t) s fun u => samesBut [.regs, .io, .clap] s u ∧ regsBut [stat] s u ∧ clapState u = 2 ∧ clapHolder u = i ∧ u.clap = { s.clap with idle := none }) ∧
    (st ≠ 1 ∨ clapHolder s ≠ i ∨ flag s pgClap Reg.CLAP_STAT_MON_READY = false → refusal (.clapRelease me t) 0x52) ∧
    (st = 2 → Does .clapOfferTimeout s fun u => samesBut [.regs, .clap] s u ∧ regsBut [stat] s u ∧ clapState u = 1 ∧ clapHolder u = clapHolder s ∧ u.clap = { s.clap with idle := none }) ∧
    (st ≠ 2 → Does .clapOfferTimeout s fun u => u = s)

/-- CLAP_HEARTBEAT, HEARTBEAT_PERIOD_END, CLAP_LIVE, CLAP_ABDICATE, CLAP_SAFE_REQ, NO_ISLAND_TIMEOUT and SAFE_CLR: the holder's heartbeat is acknowledged and clears MISSED, another is answered ERROR; each period without one counts and the third lapses the token, as an abdication does at once; LIVE writes keep the monitor's
count; a safe-state request of the island in charge, or of the monitor with MON_SAFE, or 2 ms without an island in charge enters the safe state with its cause, SAFE messages and SAFE_N_OUT low, and one that is not honoured is counted; SAFE_CLR ends it when the exit conditions hold, else it records 0x5E (log entry 19). -/
def Obligations.ClapperSafeState : Prop :=
  ∀ (who : Agent) (i cause t n : Nat) (s : State), i < 2 → controls who = true → who ≠ .host →
    let me := Agent.island i
    let stat := pageBase pgClap + 0x48
    let refusal (c : Instr) (code : Nat) : Prop := Does c s fun u => samesBut report s u ∧ quietBut [] s u ∧ codeIn u pgClap code
    let lapsed (u : State) : Prop := samesBut (report ++ [.clap]) s u ∧ quietBut [stat, pageBase pgClap + 0x88] s u ∧ clapState u = 4 ∧ clapHolder u = clapHolder s ∧ getF u pgClap Reg.CLAP_LAPSES = satAdd 32 (getF s pgClap Reg.CLAP_LAPSES) 1 ∧ codeIn u pgClap 0x53 ∧ puts (.island (1 - clapHolder s) .lapsed) s u
    let entered (k : Nat) (u : State) : Prop := samesBut (report ++ [.clap]) s u ∧ quietBut [stat, pageBase pgClap + 0x8C] s u ∧ safeState u = true ∧ getF u pgClap Reg.CLAP_STAT_CAUSE = k ∧ clapState u = clapState s ∧ getF u pgClap Reg.CLAP_SAFE_ENTRIES = satAdd 32 (getF s pgClap Reg.CLAP_SAFE_ENTRIES) 1 ∧
      codeIn u pgClap 0x58 ∧ puts (.island 0 (.safe k)) s u ∧ puts (.island 1 (.safe k)) s u ∧ puts (.safeOut false) s u ∧ u.clap = { s.clap with safeBars := 0, safeOut := false }
    let missed := (List.range 2).map (fun j => if s.clap.live.getD j false then 0 else Nat.min 3 (nth0 s.clap.missed j + 1))
    let high : Bool := s.clap.safeIn || decide (Config.free s.io.fresh % 2 = 1)
    (beats s = true → clapHolder s = i → Does (.clapHeartbeat me i) s fun u => samesBut [.regs, .io, .clap] s u ∧ regsBut [stat] s u ∧ getF u pgClap Reg.CLAP_STAT_MISSED = 0 ∧ clapState u = clapState s ∧ u.clap = { s.clap with hb := true } ∧ puts (.island i .ack) s u) ∧
    (beats s = false ∨ clapHolder s ≠ i → Does (.clapHeartbeat me i) s fun u => samesBut [.io] s u ∧ puts (.island i .error) s u) ∧
    (who ≠ me → refusal (.clapHeartbeat who i) 0x52 ∧ refusal (.clapLive who i) 0x52) ∧
    Does (.clapLive me i) s (fun u => samesBut [.regs, .io, .clap] s u ∧ regsBut [stat] s u ∧ u.clap = { s.clap with live := s.clap.live.set i true, missed := s.clap.missed.set i 0 } ∧ clapState u = clapState s ∧ clapHolder u = clapHolder s ∧ puts (.island i .ack) s u) ∧
    (s.clap.granted = false → Does (.heartbeatPeriodEnd t) s fun u => u = s) ∧
    (s.clap.granted = true → beats s = true →
      (s.clap.hb = true → Does (.heartbeatPeriodEnd t) s fun u => samesBut [.regs, .io, .clap] s u ∧ regsBut [stat] s u ∧ u.io.outbox = s.io.outbox ∧ getF u pgClap Reg.CLAP_STAT_MISSED = getF s pgClap Reg.CLAP_STAT_MISSED ∧ clapState u = clapState s ∧
        u.clap = { s.clap with hb := false, live := [false, false], missed := missed }) ∧
      (s.clap.hb = false → getF s pgClap Reg.CLAP_STAT_MISSED = n → n < 2 → Does (.heartbeatPeriodEnd t) s fun u => samesBut [.regs, .io, .clap] s u ∧ regsBut [stat] s u ∧ u.io.outbox = s.io.outbox ∧ getF u pgClap Reg.CLAP_STAT_MISSED = n + 1 ∧ clapState u = clapState s ∧
        u.clap = { s.clap with live := [false, false], missed := missed }) ∧
      (s.clap.hb = false → getF s pgClap Reg.CLAP_STAT_MISSED = 2 → s.clap.claim = none → Does (.heartbeatPeriodEnd t) s fun u => lapsed u ∧ getF u pgClap Reg.CLAP_STAT_MISSED = 3 ∧ u.clap.live = [false, false] ∧ u.clap.missed = missed)) ∧
    (beats s = true → clapHolder s = i → s.clap.claim = none → Does (.clapAbdicate (.islandHw i) t) s lapsed) ∧
    (beats s = false ∨ clapHolder s ≠ i → Does (.clapAbdicate (.islandHw i) t) s fun u => u = at_ t s) ∧
    (1 ≤ cause → cause ≤ 6 →
      (safeState s = true → Does (.clapSafeReq (.islandHw i) i cause t) s fun u => u = at_ t s) ∧
      (safeState s = false → islandInCharge s = some i ∨ flag s pgClap Reg.CLAP_CFG_MON_SAFE = true → Does (.clapSafeReq (.islandHw i) i cause t) s (entered cause) ∧ Does (.clapSafeReq me i cause t) s (entered cause)) ∧
      (safeState s = false → islandInCharge s ≠ some i → flag s pgClap Reg.CLAP_CFG_MON_SAFE = false → Does (.clapSafeReq (.islandHw i) i cause t) s fun u => samesBut [.regs, .io] s u ∧ regsBut [pageBase pgClap + 0x90] s u ∧ u.io.outbox = s.io.outbox ∧
        getF u pgClap Reg.CLAP_MON_REQS = satAdd 32 (getF s pgClap Reg.CLAP_MON_REQS) 1)) ∧
    (s.clap.idle = some n → n + 2000000 ≤ t → safeState s = false → Does (.noIslandTimeout t) s (entered 7)) ∧
    (s.clap.idle = none ∨ safeState s = true → Does (.noIslandTimeout t) s fun u => u = s) ∧
    (safeExitOk s who high = true → Does (.safeClr who) s fun u => samesBut (report ++ [.isl, .clap]) s u ∧ safeState u = false ∧ getF u pgClap Reg.CLAP_STAT_CAUSE = 0 ∧ getF u (pgIsl 0) Reg.ISL_STAT_SAFE = 0 ∧ getF u (pgIsl 1) Reg.ISL_STAT_SAFE = 0 ∧
      codeIn u pgClap 0x59 ∧ puts (.safeOut true) s u ∧ u.clap = { s.clap with safeIn := high, safeOut := true }) ∧
    (safeExitOk s who high = false → Does (.safeClr who) s fun u => samesBut (report ++ [.clap]) s u ∧ quietBut [] s u ∧ codeIn u pgClap 0x5E ∧ u.clap = { s.clap with safeIn := high })

/-- JOURNAL_WRITE, RECORD_WRITE_DONE, LDG_FW_WRITE, LDG_FW_READ, LDG_FW_ENTRY, BOOT_TRIAL, BOOT_CONFIRM and BOOT_CANCEL: with its bank idle a permitted write starts at once as a record that is torn until its check, with the ledger's next SEQ; a first check that fails writes again, a second retires the record; a firmware commit sets DONE and a
boot commit ACTIVE, TRIAL, TRIES and SVN when it completes; a read copies the committed object, or refuses one that is not held or torn (0x72); commits without permission are refused with 0x70, those over the rate with 0x7F (the data of an object and the place of a record are the model's, log entries 22, 24 and 25). -/
def Obligations.LedgerWrites : Prop :=
  ∀ (who : Agent) (t bank r : Nat) (w : LdgWrite) (x : LdgRec) (s : State), controls who = true → who ≠ .host →
    let F (f : Row) : Nat := getF s pgLdg f
    let frame (u : State) : Prop := samesBut report s u ∧ quietBut [] s u
    let idle (j : LdgJob) : Prop := s.ldg.todo = [] ∧ jobRole s j = some r ∧ physOf s r / 2048 < s.ldg.busy.length ∧ s.ldg.busy.getD (physOf s r / 2048) none = none
    let started (j : LdgJob) (u : State) : Prop := u.ldg.busy = s.ldg.busy.set (physOf s r / 2048) (some ⟨j, physOf s r, r, false⟩) ∧ u.ldg.todo = [] ∧ ldgSeq u = (ldgSeq s + 1) % 2 ^ 64 ∧
      ∃ y, assoc u.ldg.recs (physOf s r) = some y ∧ y.seq = ldgSeq s ∧ y.typ = j.typ ∧ y.key = j.key ∧ y.data = j.data ∧ y.ents = j.ents ∧ y.aux = j.aux ∧ y.ok = false
    let refused (code : Nat) (c : Instr) : Prop := Does c s fun u => frame u ∧ getF u pgLdg Reg.LDG_FW_ERR = 1 ∧ getF u pgLdg Reg.LDG_FW_CODE = code
    let journalled : LdgJob := ⟨1, 0, 0, [], s.ldg.queue.take (batchLen s.ldg.queue), none, .entries⟩
    let k := F Reg.LDG_FW_KEY
    let n := F Reg.LDG_FW_LEN
    let written : LdgJob := ⟨0x20, k, 0, memBytes s (fwBuf s) n, [], none, .fw⟩
    let fits : Prop := k ≤ 15 ∧ 1 ≤ n ∧ n ≤ 3968 ∧ fwBufOk s n = true
    let early : Prop := ∃ t0, assoc s.ldg.fwTimes k = some t0 ∧ Nat.max s.io.now t < t0 + 10000000000
    let recent := s.ldg.fwEnts.filter (fun e => Nat.max s.io.now t < e + 1000000000)
    let boot (a tr tries v : Nat) : LdgJob := ⟨0x19, 0, 0, [], [], none, .boot a tr tries v⟩
    (s.ldg.queue ≠ [] → (s.ldg.lastJ = none ∨ ∃ l, s.ldg.lastJ = some l ∧ l + 1000000 ≤ t) → mayWrite s = true → ringNext s 0 512 s.ldg.jpos s.ldg.live = some r → idle journalled → Does (.journalWrite t) s fun u => frame u ∧ started journalled u ∧
      u.ldg.jpos = (r + 1) % 512 ∧ u.ldg.lastJ = some (Nat.max s.io.now t)) ∧
    (s.ldg.queue = [] ∨ mayWrite s = false → Does (.journalWrite t) s fun u => u = at_ t s) ∧
    (s.ldg.busy.getD bank none = none → ∀ ok, Does (.recordWriteDone bank ok) s fun u => u = s) ∧
    (s.ldg.busy.getD bank none = some w →
      (w.second = false → Does (.recordWriteDone bank false) s fun u => frame u ∧ u.ldg.busy = s.ldg.busy.set bank (some { w with second := true }) ∧ ldgSeq u = (ldgSeq s + 1) % 2 ^ 64) ∧
      (w.second = true → Does (.recordWriteDone bank false) s fun u => frame u ∧ getF u pgLdg Reg.LDG_RETIRED = satAdd 16 (F Reg.LDG_RETIRED) 1) ∧
      (w.job.why = .fw → Does (.recordWriteDone bank true) s fun u => frame u ∧ getF u pgLdg Reg.LDG_FW_DONE = 1 ∧ u.ldg.fwTimes = assocPut s.ldg.fwTimes w.job.key s.io.now) ∧
      (∀ a tr tries v, w.job.why = .boot a tr tries v → Does (.recordWriteDone bank true) s fun u => frame u ∧ getF u pgLdg Reg.LDG_BOOT_ACTIVE = a % 2 ∧ getF u pgLdg Reg.LDG_BOOT_TRIAL = tr % 2 ∧ getF u pgLdg Reg.LDG_BOOT_TRIES = tries % 16 ∧
        getF u pgLdg Reg.LDG_BOOT_SVN = v % 2 ^ 32)) ∧
    (fits → (early → refused 0x7F (.ldgFwWrite who t)) ∧ (¬ early → mayWrite s = false → refused 0x70 (.ldgFwWrite who t)) ∧
      (¬ early → mayWrite s = true → idle written → Does (.ldgFwWrite who t) s fun u => frame u ∧ started written u)) ∧
    (¬ fits → Does (.ldgFwWrite who t) s fun u => u = at_ t s) ∧
    (F Reg.LDG_FW_TYPE = 0x20 →
      (committed s 0x20 k = some x → x.ok = true → x.typ = 0x20 → x.data ≠ [] → fwBufOk s x.data.length = true → Does (.ldgFwRead who) s fun u => samesBut [.regs, .mem] s u ∧ regsBut [pageBase pgLdg + 0x80] s u ∧ getF u pgLdg Reg.LDG_FW_DONE = 1 ∧
        memBytes u (fwBuf s) x.data.length = x.data ∧ ∀ a, a < fwBuf s ∨ fwBuf s + x.data.length ≤ a → sparseGet memDefault u.mem a = sparseGet memDefault s.mem a) ∧
      (committed s 0x20 k = none → Does (.ldgFwRead who) s fun u => samesBut [.regs] s u ∧ getF u pgLdg Reg.LDG_FW_ERR = 1 ∧ getF u pgLdg Reg.LDG_FW_CODE = 0)) ∧
    (F Reg.LDG_FW_TYPE = 2 → k < 256 → recOf s (640 + k) = some x → x.ok = false → refused 0x72 (.ldgFwRead who)) ∧
    (fwBufOk s 44 = true → 10 ≤ recent.length → refused 0x7F (.ldgFwEntry who t)) ∧
    (fwBufOk s 44 = true → recent.length < 10 → ldgState s ≠ 4 → s.ldg.queue.length < 256 → Does (.ldgFwEntry who t) s fun u => samesBut [.regs, .io, .ldg] s u ∧ quietBut [] s u ∧ getF u pgLdg Reg.LDG_FW_DONE = 1 ∧
      u.ldg.fwEnts = Nat.max s.io.now t :: recent ∧ ∃ e, u.ldg.queue = s.ldg.queue ++ [e] ∧ e.etype = 16 ∧ e.key = k ∧ e.data = memBytes s (fwBuf s) 44) ∧
    (mayWrite s = false → refused 0x70 (.bootTrial who) ∧ refused 0x70 (.bootCancel who) ∧ (flag s pgLdg Reg.LDG_BOOT_TRIAL = true → refused 0x70 (.bootConfirm who))) ∧
    (mayWrite s = true →
      (idle (boot (F Reg.LDG_BOOT_ACTIVE) 1 0 (F Reg.LDG_BOOT_SVN)) → Does (.bootTrial who) s fun u => frame u ∧ started (boot (F Reg.LDG_BOOT_ACTIVE) 1 0 (F Reg.LDG_BOOT_SVN)) u) ∧
      (idle (boot (F Reg.LDG_BOOT_ACTIVE) 0 (F Reg.LDG_BOOT_TRIES) (F Reg.LDG_BOOT_SVN)) → Does (.bootCancel who) s fun u => frame u ∧ started (boot (F Reg.LDG_BOOT_ACTIVE) 0 (F Reg.LDG_BOOT_TRIES) (F Reg.LDG_BOOT_SVN)) u) ∧
      (flag s pgLdg Reg.LDG_BOOT_TRIAL = true → idle (boot (1 - F Reg.LDG_BOOT_ACTIVE) 0 (F Reg.LDG_BOOT_TRIES) (Nat.max (F Reg.LDG_BOOT_SVN) (getF s pgSec Reg.SEC_IMG_SVN))) → Does (.bootConfirm who) s fun u => frame u ∧
        started (boot (1 - F Reg.LDG_BOOT_ACTIVE) 0 (F Reg.LDG_BOOT_TRIES) (Nat.max (F Reg.LDG_BOOT_SVN) (getF s pgSec Reg.SEC_IMG_SVN))) u)) ∧
    (flag s pgLdg Reg.LDG_BOOT_TRIAL = false → Does (.bootConfirm who) s fun u => u = s)

/-- FLUSH_START, FLUSH_DONE, LEDGER_RESUME, LEDGER_RECOVERY_DONE, HOURLY_TIMER, FULL_CHARGE, CHARGE_TIMEOUT, STORE_REMOVAL, PRESENCE_PULSE, GAUGE_SAMPLE and CLR_DEG: a flush starts with a ready gauge (without one, POWER_FAIL_N only withdraws permission), abandons checkpoint commits and a fold, refuses firmware's waiting
commits with 0x70, and ends FLUSHED with POWER_DOWN in the journal; recovery counts torn records and sets the next SEQ to the largest valid one plus 64 (seen where no write follows at once); an hour queues CYCLES and WEAR and wants a fold; the store's charge, removal, insertion, samples and DEGRADED follow R390 to R395
(log entries 24 and 26; the record a flush writes is stated for an empty queue). -/
def Obligations.LedgerPower : Prop :=
  ∀ (who : Agent) (t ka us v out rise r : Nat) (inMa : Int) (pf : Bool) (s : State), controls who = true →
    let H (f : Row) : Nat := getF s pgHld f
    let stat := pageBase pgHld + 0x40
    let store := [stat, pageBase pgHld + 0x44, pageBase pgHld + 0x48, pageBase pgHld + 0x4C, pageBase pgHld + 0x54, pageBase pgHld + 0x64, pageBase pgHld + 0x68]
    let frame (l : List Nat) (u : State) : Prop := samesBut (report ++ [.hld]) s u ∧ quietBut l s u
    let nothing (c : Instr) : Prop := Does c s fun u => u = s
    let low : Prop := pf = true ∨ ka < 3000
    let serving : Prop := ldgState s = 1 ∨ ldgState s = 2
    let service (u : State) : Prop := ldgState u = if gaugeReady s then 1 else 2
    let stage (u : State) : Prop := getF u pgHubId Reg.HUB_ID_BOOT_STAT_STAGE = if getF s pgHubId Reg.HUB_ID_BOOT_STAT_STAGE = 2 then 3 else getF s pgHubId Reg.HUB_ID_BOOT_STAT_STAGE
    let top := maxOf ((s.ldg.recs.filter (fun e => e.2.ok)).map (fun e => e.2.seq))
    let removed (u : State) : Prop := frame store u ∧ hldState u = 3 ∧ getF u pgHld Reg.HLD_STAT_CHARGE = 0 ∧ getF u pgHld Reg.HLD_REMOVALS = satAdd 32 (H Reg.HLD_REMOVALS) 1 ∧ codeIn u pgHld 0x79 ∧ u.hld = { s.hld with pulses := 0 }
    (low → gaugeReady s = true → serving → Does (.flushStart pf ka t) s fun u => samesBut (report ++ [.lrn]) s u ∧ ldgState u = 3 ∧ hldState u = 4 ∧ getF u pgLdg Reg.LDG_STAT_COMMIT_OK = 0 ∧ u.ldg.todo = [] ∧ u.ldg.fold = none ∧ u.ldg.busy = s.ldg.busy ∧
      u.ldg.cause = (if pf then 0 else 1) ∧ u.ldg.pfail = (pf || s.ldg.pfail) ∧ (∀ n, n < 8 → flagI u pgAdm Reg.ADM_LREG_CTL_CKPT_BUSY n = false) ∧
      ((∃ j, j ∈ s.ldg.todo ∧ j.why = .fw) → getF u pgLdg Reg.LDG_FW_ERR = 1 ∧ getF u pgLdg Reg.LDG_FW_CODE = 0x70)) ∧
    (pf = true → gaugeReady s = false → serving → Does (.flushStart pf ka t) s fun u => frame [] u ∧ ldgState u = 2 ∧ getF u pgLdg Reg.LDG_STAT_COMMIT_OK = 0 ∧ u.ldg = { s.ldg with pfail := true }) ∧
    (ldgState s = 3 → Does (.flushDone t) s fun u => samesBut (report ++ [.pwr]) s u ∧ quietBut [stat] s u ∧ ldgState u = 4 ∧ getF u pgLdg Reg.LDG_FLUSHES = satAdd 32 (getF s pgLdg Reg.LDG_FLUSHES) 1 ∧ u.ldg.queue = [] ∧ u.ldg.busy = [none, none] ∧
      (hldState s = 4 → hldState u = 1) ∧ u.pwr = { s.pwr with cycInc := List.replicate 20 0 } ∧
      (s.ldg.queue = [] → s.ldg.busy = [none, none] → s.pwr.cycInc.all (· = 0) = true → ringNext s 0 512 s.ldg.jpos s.ldg.live = some r → r ∈ u.ldg.live ∧
        ∃ y, assoc u.ldg.recs (physOf s r) = some y ∧ y.ok = true ∧ y.typ = 1 ∧ y.seq = ldgSeq s ∧ y.ents = [powerDown (at_ t s)])) ∧
    (ldgState s ≠ 3 → Does (.flushDone t) s fun u => u = at_ t s) ∧
    (ldgState s = 4 → Does (.ledgerResume t) s fun u => frame [] u ∧ service u ∧ u.ldg.pfail = false ∧ (s.ldg.queue.length < 256 → ∃ e, e ∈ u.ldg.queue ∧ e.etype = 11)) ∧
    (ldgState s ≠ 4 → Does (.ledgerResume t) s fun u => frame [] u ∧ u.ldg.pfail = false) ∧
    (ldgState s ≠ 0 → Does (.ledgerRecoveryDone us t) s fun u => u = at_ t s) ∧
    (ldgState s = 0 →
      (s.ldg.keyOk = false → s.ldg.recs ≠ [] → Does (.ledgerRecoveryDone us t) s fun u => samesBut report s u ∧ stage u ∧ ldgState u = 5 ∧ getF u pgLdg Reg.LDG_RECOVERY_US = us % 2 ^ 16) ∧
      (s.ldg.keyOk = true ∨ s.ldg.recs = [] → Does (.ledgerRecoveryDone us t) s fun u => samesBut report s u ∧ stage u ∧ service u ∧ getF u pgLdg Reg.LDG_RECOVERY_US = us % 2 ^ 16 ∧
        getF u pgLdg Reg.LDG_TORN = (s.ldg.recs.filter (fun e => e.2.ok = false)).length % 2 ^ 16 ∧ getF u pgLdg Reg.LDG_RESERVE = (reserveFree s).length % 2 ^ 11 ∧
        (s.ldg.pfail = true → gaugeReady s = false → s.ldg.recs ≠ [] → ldgSeq u = (top + 64) % 2 ^ 64))) ∧
    Does .hourlyTimer s (fun u => samesBut (report ++ [.pwr]) s u ∧ quietBut [] s u ∧ u.pwr = { s.pwr with cycInc := List.replicate 20 0 } ∧
      (mayWrite s = false → s.ldg.todo = [] → ldgState s ≠ 4 → s.ldg.queue.length < 255 → u.ldg.foldWant = true ∧ ∃ a b, u.ldg.queue = s.ldg.queue ++ [a, b] ∧ a.etype = 6 ∧ a.data = pad44 (cyclesData s) ∧ a.words = cyclesWords s ∧ b.etype = 7)) ∧
    (H Reg.HLD_STAT_CHARGE ≠ 0 →
      Does .fullCharge s (fun u => frame store u ∧ getF u pgHld Reg.HLD_STAT_CHARGE = 0 ∧ getF u pgHld Reg.HLD_CHARGES = satAdd 32 (H Reg.HLD_CHARGES) 1 ∧ u.hld = { s.hld with q := (cEff s : Int) * H Reg.HLD_V_TGT } ∧ hldState u = if hldState s ≤ 2 then 1 else hldState s) ∧
      Does .chargeTimeout s (fun u => frame [stat] u ∧ getF u pgHld Reg.HLD_STAT_DEGRADED = 1 ∧ codeIn u pgHld 0x7D)) ∧
    (H Reg.HLD_STAT_CHARGE = 0 → nothing .fullCharge ∧ nothing .chargeTimeout) ∧
    (hldState s ≠ 3 → Does .storeRemoval s removed) ∧ (hldState s = 3 → nothing .storeRemoval) ∧
    (H Reg.HLD_C_RATED = 0 → nothing (.presencePulse rise)) ∧
    (H Reg.HLD_C_RATED ≠ 0 → hldState s = 3 →
      (50 < rise → Does (.presencePulse rise) s fun u => u = { s with hld := { s.hld with pulses := 0 } }) ∧
      (rise ≤ 50 → s.hld.pulses < 2 → Does (.presencePulse rise) s fun u => u = { s with hld := { s.hld with pulses := s.hld.pulses + 1 } }) ∧
      (rise ≤ 50 → 2 ≤ s.hld.pulses → Does (.presencePulse rise) s fun u => frame store u ∧ hldState u = 0 ∧ getF u pgHld Reg.HLD_STAT_CHARGE = 1 ∧ getF u pgHld Reg.HLD_STAT_DEGRADED = 0 ∧ codeIn u pgHld 0x7A ∧ u.hld.pulses = 0)) ∧
    (H Reg.HLD_C_RATED ≠ 0 → hldState s ≠ 3 → (H Reg.HLD_STAT_CHARGE = 0 → 250 < rise → Does (.presencePulse rise) s removed) ∧ (H Reg.HLD_STAT_CHARGE ≠ 0 ∨ rise ≤ 250 → nothing (.presencePulse rise))) ∧
    Does (.gaugeSample v inMa out) s (fun u => frame store u ∧ getF u pgHld Reg.HLD_V_HOLD = v % 2 ^ 16 ∧ getF u pgHld Reg.HLD_I_MEAS = unsint 16 (inMa - out) % 2 ^ 16 ∧ u.hld.q = max 0 (s.hld.q + (inMa - out) * 1000 - H Reg.HLD_LEAK) ∧
      (H Reg.HLD_C_RATED = 0 → hldState u = 3 ∧ getF u pgHld Reg.HLD_STAT_CHARGE = 0)) ∧
    Does (.clrDeg who) s (fun u => frame [stat] u ∧ getF u pgHld Reg.HLD_STAT_DEGRADED = 0)

/-- The device links' commands but the copies and remote accesses: flits are accepted on their CRC and sequence number, refused ones are answered with NAK, and the fourth failure, an overrun of credits or silence takes a link DOWN with routes taken anew; enumeration numbers the devices, a lone or conflicting one fails; a TSRC member follows the root's
time; barrier sets are configured, arrivals held or discarded and a barrier released once all have arrived; power is exchanged between members; a member that is silent or unreachable is fenced (log entries 82 and 83 say what the spec leaves open). -/
def Obligations.JoinedDevices : Prop :=
  ∀ (who : Agent) (l t d src us step unb k off : Nat) (rt delta : Int) (delay : Nat) (flit : Flit) (q : DevLink) (cables : List Cable) (m : EnumMsg) (a : Arrive) (x : XSet) (r : StrokeRun) (o : ShiftOffer) (down : List (Nat × Nat)) (v : Word) (s : State), controls who = true →
    let D (f : Row) : Nat := getF s pgDlk f
    let nothing (c : Instr) : Prop := Does c s fun u => u = s
    let idle (c : Instr) : Prop := Does c s fun u => u = at_ t s
    let peer : Prop := indexed s = true
    let me := ownIndex s
    let fails (c : Instr) : Prop := Does c s fun u => getF u pgDlk Reg.DLK_STAT_STATE = 4 ∧ getF u pgDlk Reg.DLK_STAT_INDEX_V = 0 ∧ codeIn u pgDlk 0x8C
    let joins (c : Instr) : Prop := Does c s fun u => getF u pgDlk Reg.DLK_STAT_STATE = 3 ∧ getF u pgDlk Reg.DLK_STAT_INDEX = m.index % 2 ^ 7 ∧ getF u pgDlk Reg.DLK_STAT_INDEX_V = 1 ∧ u.dlk.root = some m.root ∧ puts (.dlk 0 (.serial m.index (hubSerial s))) s u
    let lost (code : Nat) (c : Instr) : Prop := Does c s fun u => samesBut (report ++ [.eth, .dlk, .ing]) s u ∧ getFi u pgDlk Reg.DLK_L_STATE l = 4 ∧ getFi u pgDlk Reg.DLK_L_WIDTH l = 0 ∧ (getF u pgDlk Reg.DLK_STAT_UP).testBit l = false ∧ codeIn u pgDlk code ∧
      u.dlk.down = (me, l) :: s.dlk.down ∧ ∀ n, n < 8 → n ≠ l → getFi u pgDlk Reg.DLK_L_STATE n = getFi s pgDlk Reg.DLK_L_STATE n
    let left := dlUnacked q (hdrF flit 16 8)
    let c0 := nth0 q.credits 0 + hdrF flit 24 4
    let c1 := nth0 q.credits 1 + hdrF flit 28 4
    let c2 := nth0 q.credits 2 + hdrF flit 32 2
    let control := hdrF flit 0 2 = 3
    let serials := ((enumerate (cables.filter (fun y => decide (y.la < 8 ∧ y.lb < 8))) (hubSerial s)).map (fun y => y.name)).take 128
    let tracks : Prop := flag s pgDlk Reg.DLK_CTL_TSRC = true ∧ peer ∧ me ≠ 0 ∧ dlUp s (D Reg.DLK_UPLINK) = true ∧ fenced s 0 = false
    let clock := fixTime (at_ t s)
    let late := devTime clock - (rt + delay)
    let word := pageBase pgDlk + (0x100 + k * 0x20 + off)
    let busy : Prop := holdsBarrier s (getFi s pgDlk Reg.DLK_XB_PART k) = true ∨ holdsBarrier s (if off = 0 then v.toNat / 2 % 16 else getFi s pgDlk Reg.DLK_XB_PART k) = true
    let this : Prop := (barsRun s && nearT0 a.t0 s.fus.tick0) = true
    let next : Prop := (barsRun s && nearT0 a.t0 (s.fus.tick0 + barNs s)) = true
    let kept : Prop := x.en = true ∧ (this ∨ next) ∧ (this → arriveFailed s a = false)
    let own := (arrivals (at_ t s) x (barrierOrd (at_ t s) r)).find? (fun y => y.1.sender = me)
    let opens : Prop := crossSet s x.part = some k ∧ (waitsFor s x).all (fun n => (arrivals (at_ t s) x (barrierOrd (at_ t s) r)).any (fun y => y.1.sender = n)) = true ∧ (releaseAt (at_ t s) x (barrierOrd (at_ t s) r)).1 ≤ devTime (at_ t s) ∧ pastD (at_ t s) r = false
    let dropped (c : Instr) : Prop := Does c s fun u => samesBut [.regs, .dlk] s u ∧ regsBut [pageBase pgCap + 0x50] s u ∧ shiftW u = 0 ∧ u.dlk = if isRoot s then { s.dlk with hold := D Reg.DLK_SH_PERIOD, offer := none, shifts := List.replicate 128 0 } else s.dlk
    let due : Prop := isRoot s = true ∧ flag s pgDlk Reg.DLK_SH_EN = true ∧ D Reg.DLK_SH_PERIOD ≤ s.dlk.bars ∧ 0 < s.dlk.bars ∧ s.dlk.hold = 0 ∧ s.dlk.offer = none
    let routes := timeLost (showReach (modDlk (fun y => { y with down := down ++ y.down }) s))
    (dlUp s l = false → idle (.dlkFlitReceive l flit t) ∧ idle (.dlkIdleFlit l t) ∧ nothing (.dlkRxTimeout l)) ∧
    (dlUp s l = true → s.dlk.links[l]? = some q →
      (crcHolds flit = false →
        (q.fails < 3 → Does (.dlkFlitReceive l flit t) s fun u => samesBut [.regs, .io, .dlk] s u ∧ regsBut [fieldAddr pgDlk Reg.DLK_L_REPLAYS l 0] s u ∧ getFi u pgDlk Reg.DLK_L_REPLAYS l = satAdd 16 (getFi s pgDlk Reg.DLK_L_REPLAYS l) 1 ∧
          (devLink u l).fails = q.fails + 1 ∧ (devLink u l).nak = true ∧ (devLink u l).ack = q.ack ∧ ∃ f, puts (.flit (21 + l) f) s u ∧ hdrF f 0 2 = 3 ∧ hdrF f 6 1 = 1) ∧
        (3 ≤ q.fails → lost 0x8B (.dlkFlitReceive l flit t))) ∧
      (crcHolds flit = true → ¬ control → hdrF flit 8 8 ≠ (q.ack + 1) % 256 → idle (.dlkFlitReceive l flit t)) ∧
      (crcHolds flit = true → control ∨ hdrF flit 8 8 = (q.ack + 1) % 256 →
        (c0 ≤ 128 → c1 ≤ 128 → c2 ≤ 16 → Does (.dlkFlitReceive l flit t) s fun u => samesBut [.io, .dlk] s u ∧ (∀ n, n ≠ l → devLink u n = devLink s n) ∧ (hdrF flit 6 1 = 1 → ∀ g, g ∈ left → puts (.flit (21 + l) g) s u) ∧
          devLink u l = { q with ack := if hdrF flit 0 2 = 3 then q.ack else hdrF flit 8 8, fails := 0, nak := false, replay := left, owed := if hdrF flit 0 2 = 3 then q.owed else q.owed.modify (hdrF flit 0 2) (· + 1), credits := [c0, c1, c2] }) ∧
        (128 < c0 ∨ 128 < c1 ∨ 16 < c2 → lost 0x8A (.dlkFlitReceive l flit t))) ∧
      (q.sentAt + 1000 ≤ Nat.max s.io.now t → Does (.dlkIdleFlit l t) s fun u => samesBut [.io, .dlk] s u ∧ (devLink u l).sentAt = Nat.max s.io.now t ∧ (devLink u l).seq = q.seq ∧ (devLink u l).credits = q.credits ∧ ∃ f, puts (.flit (21 + l) f) s u ∧ hdrF f 0 2 = 3 ∧ (q.ack < 256 → hdrF f 24 10 = 0)) ∧
      (Nat.max s.io.now t < q.sentAt + 1000 → idle (.dlkIdleFlit l t)) ∧ lost 0x8B (.dlkRxTimeout l)) ∧
    (flag s pgDlk Reg.DLK_CTL_ROOT = true → flag s pgDlk Reg.DLK_CTL_ENABLE = true → s.dlk.enumDone = false → Does (.enumStart who cables) s fun u => u.dlk.enumDone = true ∧ u.dlk.root = some (hubSerial s) ∧ u.dlk.serials = serials ∧ getF u pgDlk Reg.DLK_STAT_STATE = 3 ∧
      getF u pgDlk Reg.DLK_STAT_INDEX = 0 ∧ getF u pgDlk Reg.DLK_STAT_INDEX_V = 1 ∧ getF u pgDlk Reg.DLK_STAT_MEMBERS = serials.length % 2 ^ 8 ∧ ∀ i, 0 < i → i < serials.length → puts (.dlk i (.enumerate i)) s u) ∧
    (flag s pgDlk Reg.DLK_CTL_ROOT = false ∨ flag s pgDlk Reg.DLK_CTL_ENABLE = false ∨ s.dlk.enumDone = true → nothing (.enumStart who cables)) ∧
    (flag s pgDlk Reg.DLK_CTL_ENABLE = false → nothing (.enumMessage m)) ∧
    (flag s pgDlk Reg.DLK_CTL_ENABLE = true →
      (s.dlk.root = none → flag s pgDlk Reg.DLK_CTL_ROOT = false → m.index < 128 → joins (.enumMessage m)) ∧ (s.dlk.root = some m.root → ¬ (me = 0 ∧ peer) → joins (.enumMessage m)) ∧ (s.dlk.root = some m.root → me = 0 → peer → nothing (.enumMessage m)) ∧
      ((∃ y, s.dlk.root = some y ∧ y ≠ m.root) ∨ (s.dlk.root = none ∧ (flag s pgDlk Reg.DLK_CTL_ROOT = true ∨ 128 ≤ m.index)) → fails (.enumMessage m)) ∧
      (D Reg.DLK_STAT_STATE = 1 → ¬ peer → Does .enumTimeout s fun u => samesBut [.regs] s u ∧ regsBut [pageBase pgDlk + 0x44] s u ∧ getF u pgDlk Reg.DLK_STAT_STATE = 4)) ∧
    (flag s pgDlk Reg.DLK_CTL_ENABLE = false ∨ D Reg.DLK_STAT_STATE ≠ 1 ∨ peer → nothing .enumTimeout) ∧
    (tracks → Does (.timeFlit rt delay t) s fun u => samesBut [.regs, .io, .eth] s u ∧ regsBut [pageBase pgEth + 0x44] s u ∧ getF u pgEth Reg.ETH_PTP_STAT_STATE = (if getF s pgEth Reg.ETH_PTP_STAT_STATE = 3 then 2 else getF s pgEth Reg.ETH_PTP_STAT_STATE) ∧
      u.eth = if late ≤ 2000 ∧ -2000 ≤ late then { clock.eth with slew := -late } else { clock.eth with offset := clock.eth.offset - late }) ∧
    (¬ tracks → idle (.timeFlit rt delay t)) ∧
    (locked s pgDlk = false → k < 8 → off ≤ 0x18 → off % 4 = 0 →
      (busy → Does (.xbConfigWrite who k off v) s fun u => samesBut report s u ∧ quietBut [] s u ∧ codeIn u pgDlk 0x8F) ∧
      (¬ busy → Does (.xbConfigWrite who k off v) s fun u => samesBut [.regs] s u ∧ regsBut [word] s u ∧ (off = 0 → getFi u pgDlk Reg.DLK_XB_EN k = v.toNat % 2 ∧ getFi u pgDlk Reg.DLK_XB_PART k = v.toNat / 2 % 16) ∧
        (∀ w, w < 4 → off = 4 + 4 * w → getFij u pgDlk Reg.DLK_XB_MEMB k w = v.toNat) ∧ (off = 0x14 → getFi u pgDlk Reg.DLK_XB_SKEW k = v.toNat % 2 ^ 16) ∧ (off = 0x18 → getFi u pgDlk Reg.DLK_XB_AT_LATEST k = v.toNat % 2 ^ 16))) ∧
    (locked s pgDlk = true → k < 8 → off ≤ 0x18 → off % 4 = 0 → Does (.xbConfigWrite who k off v) s fun u => u = s ∨ (samesBut report s u ∧ quietBut [] s u ∧ codeIn u pgDlk 0x05)) ∧
    (fenced s a.sender = true ∨ 8 ≤ a.set → nothing (.xbarArrive a)) ∧
    (fenced s a.sender = false → a.set < 8 → s.dlk.sets[a.set]? = some x → (kept → Does (.xbarArrive a) s fun u => u = { s with dlk := { s.dlk with sets := s.dlk.sets.set a.set { x with got := x.got ++ [(a, devTime s)] } } }) ∧
      (¬ kept → Does (.xbarArrive a) s fun u => samesBut report s u ∧ quietBut [fieldAddr pgDlk Reg.DLK_XB_STAT_DISCARD a.set 0] s u ∧ getFi u pgDlk Reg.DLK_XB_STAT_DISCARD a.set = satAdd 16 (getFi s pgDlk Reg.DLK_XB_STAT_DISCARD a.set) 1 ∧ codeIn u pgDlk 0x8D)) ∧
    (s.dlk.sets[k]? = some x → openGate s x.part 4 = some r →
      (∀ y, own = some y → opens → Does (.xbarRelease k t) s fun u => u.dlk = { s.dlk with wait := s.dlk.wait + ((releaseAt (at_ t s) x (barrierOrd (at_ t s) r)).1 - y.1.tarr).toNat } ∧ ∀ z ∈ u.seq.runs, (z.idx = r.idx → z.bar = r.bar → z.phase = .done) ∧ (stPart z.raw = stPart r.raw → z.phase ≠ .held)) ∧
      (own = none ∨ ¬ opens → idle (.xbarRelease k t))) ∧
    (s.dlk.sets[k]? = none ∨ (s.dlk.sets[k]? = some x ∧ openGate s x.part 4 = none) → idle (.xbarRelease k t)) ∧
    (peer → src < 128 → fenced s src = false → Does (.dlkStatus src us) s fun u => u = { s with dlk := { s.dlk with heard := if s.dlk.heard.contains src then s.dlk.heard else src :: s.dlk.heard, sums := s.dlk.sums.modify src (· + us) } }) ∧
    (¬ peer ∨ 128 ≤ src ∨ fenced s src = true → nothing (.dlkStatus src us)) ∧
    (due → donorOf s = some o.donor → recipientOf s = some o.recip →
      (o.donor ≠ o.recip ∧ -(D Reg.DLK_SH_MAX : Int) ≤ s.dlk.shifts.getD o.donor 0 - D Reg.DLK_SH_STEP ∧ s.dlk.shifts.getD o.recip 0 + D Reg.DLK_SH_STEP ≤ D Reg.DLK_SH_MAX → Does .shiftExchange s fun u => samesBut [.io, .dlk] s u ∧ puts (.dlk o.donor (.propose (D Reg.DLK_SH_STEP))) s u ∧
        u.dlk = { s.dlk with bars := 0, sums := List.replicate 128 0, offer := some ⟨o.donor, o.recip, D Reg.DLK_SH_STEP, false⟩ }) ∧
      (o.donor = o.recip ∨ s.dlk.shifts.getD o.donor 0 - D Reg.DLK_SH_STEP < -(D Reg.DLK_SH_MAX : Int) ∨ (D Reg.DLK_SH_MAX : Int) < s.dlk.shifts.getD o.recip 0 + D Reg.DLK_SH_STEP → Does .shiftExchange s fun u => u = { s with dlk := { s.dlk with bars := 0, sums := List.replicate 128 0 } })) ∧
    (¬ due → nothing .shiftExchange) ∧
    (peer → fenced s 0 = false → let bears := budgetOf s (floorsNow s) * 36 ≤ lim36 { s with pwr := { s.pwr with shift := shiftW s - step } } (envNow s) 0 * 10
      (bears → Does (.shiftPropose step) s fun u => samesBut [.io] s u ∧ puts (.dlk 0 (.accept step)) s u) ∧ (¬ bears → Does (.shiftPropose step) s fun u => samesBut report s u ∧ quietBut [] s u ∧ codeIn u pgDlk 0x8F)) ∧
    (¬ peer ∨ fenced s 0 = true → nothing (.shiftPropose step)) ∧
    (s.dlk.offer = some o → (o.wait = true → nothing (.shiftCommit delta unb)) ∧ (o.wait = false → unb < 100000 → Does (.shiftCommit delta unb) s fun u => u = { s with dlk := { s.dlk with offer := some { o with wait := true } } }) ∧
      (o.wait = false → 100000 ≤ unb → Does (.shiftCommit delta unb) s fun u => samesBut [.regs, .io, .dlk] s u ∧ regsBut [pageBase pgCap + 0x50, pageBase pgDlk + 0x204] s u ∧ puts (.dlk o.donor (.commit (-(o.step : Int)))) s u ∧ puts (.dlk o.recip (.commit o.step)) s u ∧ u.dlk.offer = none ∧
        getF u pgDlk Reg.DLK_SH_EXCHANGES = satAdd 32 (D Reg.DLK_SH_EXCHANGES) 1 ∧ getF u pgCap Reg.CAP_SHIFT_W = if o.donor = me then unsint 16 (shiftW s - o.step) % 2 ^ 16 else if o.recip = me then unsint 16 (shiftW s + o.step) % 2 ^ 16 else getF s pgCap Reg.CAP_SHIFT_W)) ∧
    (s.dlk.offer = none → (peer ∧ isRoot s = false ∧ fenced s 0 = false → Does (.shiftCommit delta unb) s fun u => samesBut [.regs] s u ∧ regsBut [pageBase pgCap + 0x50] s u ∧ getF u pgCap Reg.CAP_SHIFT_W = unsint 16 (shiftW s + delta) % 2 ^ 16) ∧ (¬ peer ∨ isRoot s = true ∨ fenced s 0 = true → nothing (.shiftCommit delta unb))) ∧
    (peer → d < D Reg.DLK_STAT_MEMBERS → d < 128 → d ≠ me → (fenced routes d = false → routed routes d = false ∨ 3 ≤ nth0 routes.dlk.silent d → Does (.dlkFence d down) s fun u => fenced u d = true ∧ codeIn u pgDlk 0x8E ∧ shiftW u = 0 ∧
        ∀ n, n < 128 → routed routes n = true → n ≠ me → n ≠ d → puts (.dlk n (.fence d)) s u) ∧
      (fenced routes d = true ∨ (routed routes d = true ∧ nth0 routes.dlk.silent d < 3) → Does (.dlkFence d down) s fun u => u = routes)) ∧
    (¬ peer ∨ D Reg.DLK_STAT_MEMBERS ≤ d ∨ d = me → nothing (.dlkFence d down)) ∧
    (peer → fenced s src = false → dropped (.fenceNotice src d)) ∧ (¬ peer ∨ fenced s src = true → nothing (.fenceNotice src d)) ∧
    (peer → me ≠ 0 → routed s 0 = false → dropped .rootRouteTimeout) ∧ (¬ peer ∨ me = 0 ∨ routed s 0 = true → nothing .rootRouteTimeout)

/-- The traffic of the memory stacks and between devices: COPY_START, COPY_DONE, REMOTE_ACCESS, STACK_REQUEST, REGULATOR_WINDOW, QUEUE_LEVEL_SAMPLE, BW_COMMIT, BW_COMMIT_CHECK_DONE, PATROL_SCRUB and MS_FAIL: a copy channel starts once and ends with DONE, or
with ERR when its destination is fenced or answers with an error; a remote access needs an inbound window; a request is guaranteed, surplus or held by what its master used of the window, and a stack queue shows its level; a configuration that passes its check replaces the last good one, and one over the capacity is refused with 0x0B; a stack that failed records 0x08 and its die leaves service. -/
def Obligations.MemoryTraffic : Prop :=
  ∀ (who : Agent) (c n k m off len errs src addr e : Nat) (wr uncorr notify : Bool) (b : List Byte) (l : List BwReq) (cfg : BwCfg) (s : State), c < 8 → n < 4 →
    let nothing (x : Instr) : Prop := Does x s fun u => u = s
    let word := pageBase pgDlk + 0x310 + 0x20 * c
    let size := getFi s pgDlk Reg.DLK_CP_LEN c * 64
    let loc := getFi s pgDlk Reg.DLK_CP_LOCAL c * 64
    let far := getFi s pgDlk Reg.DLK_CP_REMOTE c * 64
    let dest := getFi s pgDlk Reg.DLK_CP_DEST c
    let tell := flagI s pgDlk Reg.DLK_CP_NOTIFY c
    let reads := flagI s pgDlk Reg.DLK_CP_DIR c
    let inSram (a z : Nat) : Prop := 0x04000000 ≤ a ∧ a + z ≤ 0x06000000
    let kept (a z : Nat) (u : State) : Prop := ∀ x, x < a ∨ a + z ≤ x → sparseGet memDefault u.mem x = sparseGet memDefault s.mem x
    let runs (u : State) : Prop := samesBut [.regs, .io, .dlk] s u ∧ regsBut [word] s u ∧ getFi u pgDlk Reg.DLK_CP_GO c = 1 ∧ u.dlk = { s.dlk with copies := c :: s.dlk.copies }
    let ended (u : State) : Prop := getFi u pgDlk Reg.DLK_CP_GO c = 0 ∧ u.dlk = { s.dlk with copies := s.dlk.copies.filter (fun x => decide (x ≠ c)) }
    let stopped (code : Nat) (u : State) : Prop := samesBut (report ++ [.dlk]) s u ∧ quietBut [word] s u ∧ ended u ∧ getFi u pgDlk Reg.DLK_CP_ERR c = 1 ∧ codeIn u pgDlk code
    let covers (z : Nat) (w : Bool) : Prop := ∃ i, i < 8 ∧ flagI s pgDlk Reg.DLK_IN_VALID i = true ∧ (w = true → flagI s pgDlk Reg.DLK_IN_WR i = true) ∧ getFi s pgDlk Reg.DLK_IN_BASE i * 4096 ≤ addr ∧ addr + z ≤ (getFi s pgDlk Reg.DLK_IN_BASE i + getFi s pgDlk Reg.DLK_IN_LEN i) * 4096
    let told (u : State) : Prop := (notify = true → (getF u pgDlk Reg.HDR_INT_STAT_BLOCK).testBit 1 = true) ∧ (notify = false → u.regs = s.regs)
    let denied (x : Instr) : Prop := Does x s fun u => samesBut report s u ∧ quietBut [] s u ∧ codeIn u pgDlk 0x8F ∧ puts (.dlk src (.error 0x8F)) s u
    let failed : Prop := flag s (pgMsc n) Reg.MSC_STAT_FAILED = true
    let used := getFij s pgBwreg Reg.BWREG_M_USED m n
    let kind := if used < nth0 (bwMaster s.bw.act m).mins n then 0 else if used < nth0 (bwMaster s.bw.act m).maxs n then 1 else 2
    let q : BwReq := ⟨m, bwPart s m, wr, off, len, uncorr, 0, bwDeadline s m⟩
    let occ := sumOf (l.map (fun x => ceilDiv x.len 64))
    let level := nth0 s.bw.level n
    let admitted : Prop := (kind = 0 ∨ (kind = 1 ∧ (level = 0 ∨ (level = 1 ∧ bwClass s m ≤ s.bw.act.l1)))) ∧ occ + ceilDiv len 64 ≤ 1024
    let asks := Instr.stackRequest n m off len wr uncorr
    let mUsed (i : Nat) := fieldAddr pgBwreg Reg.BWREG_M_USED m i
    let capped (i : Nat) : Prop := (capacity cfg i).2 = true
    let noLess : Prop := (heldStrokes s).all (fun t => !(stIsRun t && decide (stClass t = 0))) = true ∨ ∀ p i, p < 16 → i < 4 → nth0 (bwMaster s.bw.good p).mins i ≤ nth0 (bwMaster cfg p).mins i ∧ (bwMaster s.bw.good p).win = (bwMaster cfg p).win
    (8 ≤ k → nothing (.copyStart who k)) ∧ (4 ≤ k → nothing (.stackRequest k m off len wr uncorr) ∧ nothing (.queueLevelSample k) ∧ nothing (.patrolScrub k off errs) ∧ nothing (.msFail k)) ∧ (32 ≤ k → nothing (.regulatorWindow k)) ∧
    (controls who = true → locked s pgDlk = false → size ≠ 0 → c ∉ s.dlk.copies → (fenced s dest = true → Does (.copyStart who c) s (stopped 0x8E)) ∧
      (fenced s dest = false → reads = true → Does (.copyStart who c) s fun u => runs u ∧ puts (.dlk dest (.read far size tell)) s u) ∧
      (fenced s dest = false → reads = false → inSram loc size → Does (.copyStart who c) s fun u => runs u ∧ puts (.dlk dest (.write far (memBytes s loc size) tell)) s u)) ∧
    (c ∉ s.dlk.copies → nothing (.copyDone c b none) ∧ nothing (.copyDone c b (some e))) ∧
    (c ∈ s.dlk.copies → (e < 256 → Does (.copyDone c b (some e)) s (stopped e)) ∧
      (reads = false → Does (.copyDone c b none) s fun u => samesBut [.regs, .dlk] s u ∧ regsBut [word] s u ∧ ended u ∧ getFi u pgDlk Reg.DLK_CP_DONE c = 1) ∧
      (reads = true → b.length ≠ size → nothing (.copyDone c b none)) ∧
      (reads = true → b.length = size → size ≠ 0 → inSram loc size → Does (.copyDone c b none) s fun u => samesBut [.regs, .dlk, .mem] s u ∧ regsBut [word] s u ∧ ended u ∧ getFi u pgDlk Reg.DLK_CP_DONE c = 1 ∧ memBytes u loc size = b ∧ kept loc size u)) ∧
    (fenced s src = true → nothing (.remoteAccess src addr len none notify) ∧ nothing (.remoteAccess src addr len (some b) notify)) ∧
    (fenced s src = false → (¬ covers len false → denied (.remoteAccess src addr len none notify)) ∧ (¬ covers b.length true → denied (.remoteAccess src addr len (some b) notify)) ∧
      (covers len false → len ≠ 0 → inSram addr len → Does (.remoteAccess src addr len none notify) s fun u => samesBut [.regs, .io] s u ∧ quietBut [] s u ∧ told u ∧ puts (.dlk src (.response (memBytes s addr len))) s u) ∧
      (covers b.length true → b ≠ [] → inSram addr b.length → Does (.remoteAccess src addr len (some b) notify) s fun u => samesBut [.regs, .io, .mem] s u ∧ quietBut [] s u ∧ told u ∧ puts (.dlk src (.response [])) s u ∧ memBytes u addr b.length = b ∧ kept addr b.length u)) ∧
    (32 ≤ m ∨ len = 0 ∨ 0x600000000 < off + len → nothing asks) ∧
    (m < 32 → 0 < len → off + len ≤ 0x600000000 →
      (failed → Does asks s fun u => samesBut report s u ∧ quietBut [] s u ∧ codeIn u pgHubId 0x08 ∧ u.io.resp = ⟨[], false, false⟩) ∧
      (¬ failed → s.bw.held = [] → s.bw.queues[n]? = some l →
        (admitted → Does asks s fun u => samesBut [.regs, .bw] s u ∧ regsBut [mUsed n, pageBase (pgMsc n) + 0x40] s u ∧ u.bw = { s.bw with queues := s.bw.queues.set n (l ++ [{ q with kind := kind }]) } ∧
          getFij u pgBwreg Reg.BWREG_M_USED m n = satAdd 24 used (ceilDiv len 64) ∧ getF u (pgMsc n) Reg.MSC_STAT_OCC = occ + ceilDiv len 64) ∧
        (¬ admitted → Does asks s fun u => samesBut [.regs, .bw] s u ∧ regsBut [fieldAddr pgBwreg Reg.BWREG_M_HELD m 0] s u ∧ u.bw = { s.bw with held := [(n, q)] } ∧
          getFi u pgBwreg Reg.BWREG_M_HELD m = if kind = 2 then satAdd 32 (getFi s pgBwreg Reg.BWREG_M_HELD m) 1 else getFi s pgBwreg Reg.BWREG_M_HELD m)) ∧
      (¬ failed → Does asks s fun u => samesBut [.regs, .bw] s u)) ∧
    (m < 32 → (s.bw.held = [] → Does (.regulatorWindow m) s fun u => samesBut [.regs] s u ∧ regsBut [mUsed 0, mUsed 1, mUsed 2, mUsed 3] s u ∧ ∀ i, i < 4 → getFij u pgBwreg Reg.BWREG_M_USED m i = 0) ∧
      Does (.regulatorWindow m) s fun u => samesBut [.regs, .bw] s u) ∧
    (failed → nothing (.queueLevelSample n) ∧ nothing (.patrolScrub n off errs) ∧ nothing (.msFail n)) ∧
    (¬ failed → (s.bw.held = [] → n < s.bw.level.length → Does (.queueLevelSample n) s fun u => getF u (pgMsc n) Reg.MSC_STAT_LEVEL = levelOf u n ∧ nth0 u.bw.level n = levelOf u n ∧
        (s.bw.queues[n]? = some [] → u.bw.queues = s.bw.queues ∧ getF u (pgMsc n) Reg.MSC_STAT_OCC = 0) ∧ (∀ y, s.bw.queues[n]? = some [y] → ceilDiv y.len 64 ≤ 960 → u.bw.queues = s.bw.queues.set n [])) ∧
      Acts (.queueLevelSample n) s (fun _ => True)) ∧
    (¬ failed → nothing (.patrolScrub n off 0) ∧ (Does (.patrolScrub n off 1) s fun u => samesBut [.regs] s u ∧ regsBut [pageBase (pgMsc n) + 0x4C] s u ∧ getF u (pgMsc n) Reg.MSC_ECC_CORR = satAdd 32 (getF s (pgMsc n) Reg.MSC_ECC_CORR) 1) ∧
      (2 ≤ errs → Does (.patrolScrub n off errs) s fun u => samesBut report s u ∧ quietBut [pageBase (pgMsc n) + 0x54] s u ∧ codeIn u (pgMsc n) 0x07 ∧ getF u (pgMsc n) Reg.MSC_UNCORR = satAdd 32 (getF s (pgMsc n) Reg.MSC_UNCORR) 1)) ∧
    (¬ failed → Does (.msFail n) s fun u => getF u (pgMsc n) Reg.MSC_STAT_FAILED = 1 ∧ codeIn u (pgMsc n) 0x08 ∧ (inService s n = false → samesBut report s u ∧ quietBut [pageBase (pgMsc n) + 0x40] s u) ∧
      (inService s n = true → getF u (pgCdId n) Reg.CD_ID_SVC = 0 ∧ (∀ z ∈ u.seq.runs, ∀ y ∈ z.targets, y.1 ≠ n) ∧ (seqState s ≠ 0 → u.seq.committed = none ∧ u.seq.fallback = some n))) ∧
    (controls who = true → Does (.bwCommit who) s fun u => samesBut [.regs, .bw] s u ∧ u.bw = { s.bw with check := some (bwWritten s) } ∧ getF u pgBwreg Reg.BWREG_STAT_COMMIT = 1 ∧ regsBut [pageBase pgBwreg + 0x44, fieldAddr pgAdm Reg.ADM_CFG_GEN 0 0] s u) ∧
    (s.bw.check = none → nothing .bwCommitCheckDone) ∧
    (s.bw.check = some cfg → Does .bwCommitCheckDone s fun u => (∀ i, i < 4 → getFi u pgBwreg Reg.BWREG_RATE i = Nat.min 65535 (roundOpen (capacity cfg i).1 4000).toNat) ∧
      (u.bw = { s.bw with check := none, good := cfg } ∨ (u.bw = { s.bw with check := none } ∧ getF u pgBwreg Reg.BWREG_STAT_COMMIT = 2 ∧ codeIn u pgBwreg 0x0B)) ∧
      ((∀ i, i < 4 → capped i) → noLess → u.bw.good = cfg) ∧ (¬ capped n → u.bw.good = s.bw.good ∧ ((∀ i, i < n → capped i) → noLess → getF u pgBwreg Reg.BWREG_STAT_FAIL_STACK = n)))

/-- The stages of a fusion job, PPU_JOB, ALIGN, ALIGN_WAIT_END, EGO, PROJ, LIFT, ASSIGN, TRACK and OUT, and FUSION_JOB_DONE: a stage acts only in its turn and leaves the persistent state as it is (R244); at an access that is refused the job fails, its stroke ends and the next job starts from that state; else its turn passes on, with the list of detections, the alignment, the working copy of the ego state, the assignment, the tracks and the batch as the rules compute them, and with no byte changed outside what the stage writes. FUSION_JOB_DONE makes the working copy the persistent state, with the reported step by R265. The order of the sums and the wrapping of angles are the model's choice, and so is the free interval of a first EGO (log entries 33 to 36). -/
def Obligations.FusionJobs : Prop :=
  ∀ (j : FusJob) (s : State),
    let nothing (c : Instr) : Prop := Does c s fun u => u = s
    let stages : List Instr := [.ppuJob, .align, .ego, .proj, .lift, .assign, .track, .out]
    let passes (l : List MemAcc) : Prop := ∀ x ∈ l, accRefused s 0 j.part x = none
    let turn (b : Nat) : Prop := s.fus.job = some j ∧ j.left.head? = some b ∧ j.waiting = false
    let on (k : FusJob) : FusJob := { k with left := k.left.drop 1, waiting := false }
    let goes (k : FusJob) (u : State) : Prop := samesBut (report ++ [.mem, .acct, .fus]) s u ∧ u.fus = { s.fus with job := some k }
    let same (x : Nat) (u : State) : Prop := sparseGet memDefault u.mem x = sparseGet memDefault s.mem x
    let wrote (a : Nat) (b : List Byte) (u : State) : Prop := (∀ x, x < a ∨ a + b.length ≤ x → same x u) ∧ (0x04000000 ≤ a → a + b.length ≤ 0x06000000 → memBytes u a b.length = b)
    let adds (p : Page) (r : Row) (n : Nat) (u : State) : Prop := getF u p r = satAdd 32 (getF s p r) n
    let settled (u : State) : Prop := (∀ r ∈ u.seq.runs, r.idx = j.stroke → r.bar = j.bar → r.phase = .done) ∧ ∀ k, u.fus.job = some k → k.work = u.fus.st
    let fails (l : List MemAcc) (c : Instr) : Prop := ¬ passes l → Acts c s fun u => settled u ∧ u.fus.st = s.fus.st
    let raw := memBytes s (fjPpuList j.raw * 64 + 64 * j.ppuDone) 64
    let found := runPpu s j.part raw
    let list := detHeader s found.kept.length found.cand found.capped found.trunc ++ found.kept.flatMap detRecord
    let ppuUses : List MemAcc := ⟨false, 0, fjPpuList j.raw * 64 + 64 * j.ppuDone, 64⟩ :: (ppuAccs raw).map (fun x => if x.wr then { x with len := list.length } else x)
    let ppu : FusJob := { j with ppuDone := j.ppuDone + 1 }
    let aln := fjAlnOut j.raw * 64
    let late := lateSlots s j
    let blocks := (List.range 16).map (stateBlock s j late)
    let pts := (alignPoints s j).1.take (getF s pgAln Reg.ALN_PT_MAX)
    let drop := (alignPoints s j).2 + ((alignPoints s j).1.length - pts.length)
    let aligned := leBytes 4 pts.length ++ leBytes 4 drop ++ leBytes 8 (unsint 64 j.tc) ++ leBytes 2 (maskOf late) ++
      leBytes 2 (maskOf ((List.range 16).filter (fun k => ((blocks.getD k ([], 0)).2).testBit 1))) ++ leBytes 1 (if j.tcOk then 1 else 0) ++ List.replicate 43 0 ++
      blocks.flatMap (fun b => b.1) ++ pts.flatMap (fun p => wBytes p.x ++ wBytes p.y ++ wBytes p.z ++ leBytes 1 p.inten ++ leBytes 1 p.slot ++ [0, 0])
    let alnUses := slotReads s j ++ [⟨true, 0, aln, aligned.length⟩]
    let waits (c : Instr) : Prop := waitOver s j = true → fails alnUses c ∧ (passes alnUses → Does c s fun u => samesBut (report ++ [.mem, .acct, .fus]) s u ∧
      u.fus = { s.fus with job := some (on j), predOk := ((blocks.getD (getF s pgEgo Reg.EGO_PRED) ([], 0)).2).testBit 0 } ∧ wrote aln aligned u ∧
      adds pgAln Reg.ALN_PT_DROP drop u ∧ adds pgAln Reg.ALN_TIMEOUTS late.length u ∧ (late ≠ [] → codeIn u pgAln 0x4B))
    let seen (t : Word) : Nat × (Word × Word × Word) := let pred := egoPred s j t
      if j.work.ref.length < getF s pgEgo Reg.EGO_REF_MIN then (0, pred) else register s j.work.ref (egoPoints s (outPoints s aln)) pred
    let moved (t : Word) : Prop := let m := (seen t).2
      Does .ego s fun u => u.mem = s.mem ∧ quietBut [pageBase pgEgo + 0x9C] s u ∧ adds pgEgo Reg.EGO_FAILS (if (seen t).1 = 2 then 1 else 0) u ∧ ((seen t).1 = 2 → codeIn u pgEgo 0x4C) ∧
        goes (on { j with work := { j.work with
          motion := [m.1, m.2.1, m.2.2, divF m.1 t, divF m.2.1 t, divF m.2.2 t]
          ref := newRef s j.work.ref (egoPoints s (outPoints s aln)) m
          ring := (j.work.ring ++ [(j.tc, m.1, m.2.1, m.2.2)]).drop (j.work.ring.length - 7)
          since := j.work.since + 1
          egoTc := some j.tc
          failRun := if (seen t).1 = 1 then 0 else if (seen t).1 = 2 then Nat.min 15 (j.work.failRun + 1) else j.work.failRun
          status := (seen t).1 } }) u
    let cams := (bitsSet 16 (fjCams j.raw)).filter (camUsable s)
    let projUses : List MemAcc := alnReads s j ++ cams.map (fun k => ⟨true, 0, (camTensor s k).off, camRows s k * tensorPitch (camTensor s k)⟩)
    let feats : List MemAcc := ((bitsSet 16 (fjLcams j.raw)).filter (camUsable s)).map (fun k => ⟨false, 0, (featTensor s k).off, featRows s k * tensorPitch (featTensor s k)⟩)
    let grid := gridTensor s j
    let liftUses : List MemAcc := (if fjAlnOut j.raw ≠ 0 then alnReads s j else []) ++ feats ++ [⟨true, 0, grid.off, 512 * tensorPitch grid⟩]
    let det := fjDetIn j.raw * 64
    let valid := (memNat s (det + 8) 1).testBit 2
    let n := if valid then Nat.min (memNat s det 2) (getF s pgAsg Reg.ASG_MAX_DET) else 0
    let asgUses : List MemAcc := [⟨false, 0, det, 64⟩, ⟨false, 0, det + 64, 32 * n⟩]
    let dets : List Det := (List.range n).map (fun i => ⟨memBytes s (det + 64 + 32 * i) 32, none, 0xFFFF⟩)
    let flush : Prop := 8 < j.work.since ∧ j.work.ts ≠ none
    let tracks := j.work.tracks.map (predictTrack s (deltaF j.work j.tc) (composed j.work j.tc))
    let cands := dets.zipIdx.map (fun d => candEdges s tracks d.2 d.1)
    let edges := cands.flatMap (fun l => l.take 64)
    let parts := (components edges.length edges).map (solveComp s)
    let pairs := parts.flatMap (fun r => r.1)
    let big := (parts.filter (fun r => r.2)).length
    let aged := j.work.tracks.filterMap (stepTrack s (deltaF j.work j.tc) j.dets)
    let born := births s j.dets aged j.work.nextId
    let batch := batchHeader s j (batchTracks s j).length ++ (batchTracks s j).flatMap (trackRecord s j)
    let w := j.work
    (s.fus.job = none → nothing .fusionJobDone ∧ nothing .alignWaitEnd ∧ ∀ c ∈ stages, nothing c) ∧
    (∀ b c, stages[b]? = some c → s.fus.job = some j → j.left.head? ≠ some b ∨ j.waiting = true → nothing c) ∧
    (s.fus.job = some j → (j.left ≠ [] → nothing .fusionJobDone) ∧ (j.waiting = false ∨ waitOver s j = false → nothing .alignWaitEnd)) ∧
    (∀ c, c ∈ stages ∨ c = .alignWaitEnd → Acts c s fun u => u.fus.st = s.fus.st) ∧
    (turn 0 → fails ppuUses .ppuJob ∧ (passes ppuUses → Does .ppuJob s fun u => goes (if dF raw 0 18 1 = 1 ∨ 63 ≤ j.ppuDone then on ppu else ppu) u ∧ wrote (dF raw 0x10 0 32 * 64) list u ∧
      adds pgPpu Reg.PPU_JOBS 1 u ∧ adds pgPpu Reg.PPU_NONFINITE found.nonfin u ∧ adds pgPpu Reg.PPU_CAPPED (if found.capped then 1 else 0) u ∧ adds pgPpu Reg.PPU_TRUNC (if found.trunc then 1 else 0) u)) ∧
    (turn 1 → (waitOver s j = false → Does .align s fun u => u = { s with fus := { s.fus with job := some { j with waiting := true } } }) ∧ waits .align) ∧
    (s.fus.job = some j → j.waiting = true → waits .alignWaitEnd) ∧
    (turn 2 → fails (alnReads s j) .ego ∧ (passes (alnReads s j) → (∀ t, j.work.egoTc = some t → moved (secF (j.tc - t))) ∧ (j.work.egoTc = none → ∃ i : Int, moved (secF i)))) ∧
    (turn 3 → fails projUses .proj ∧ (passes projUses → Does .proj s fun u => goes (on j) u ∧
      ∀ x, (∀ k ∈ cams, ∀ y z, x < pixOff (camTensor s k) y z 0 ∨ pixOff (camTensor s k) y z 0 + 32 ≤ x) → same x u)) ∧
    (turn 4 → fails liftUses .lift ∧ (passes liftUses → Does .lift s fun u => goes (on j) u ∧
      ∀ x, (∀ y z b, x < pixOff grid y z b ∨ pixOff grid y z b + grid.blk * (elemBits grid.fmt / 8) ≤ x) → same x u)) ∧
    (turn 5 → fails asgUses .assign ∧ (passes asgUses →
      (flush → Does .assign s fun u => u.mem = s.mem ∧ adds pgTrk Reg.TRK_FLUSHES 1 u ∧ getF u pgAsg Reg.ASG_EDGES = 0 ∧
        goes (on { j with work := { w with tracks := [] }, dets := dets, flushed := true, detsOk := valid }) u) ∧
      (¬ flush → Does .assign s fun u => u.mem = s.mem ∧ getF u pgAsg Reg.ASG_EDGES = edges.length % 2 ^ 18 ∧ adds pgAsg Reg.ASG_GATE_TRUNC (sumOf (cands.map (fun l => l.length - 64))) u ∧
        adds pgAsg Reg.ASG_GREEDY_COMP big u ∧ goes (on { j with
          work := { w with tracks := tracks }
          dets := dets.zipIdx.map (fun d => match pairs.find? (fun x => x.1 = d.2) with | some x => { d.1 with slot := some x.2.1, cost := x.2.2 } | none => d.1)
          subopt := j.subopt || decide (0 < big)
          detsOk := valid }) u))) ∧
    (turn 6 → Does .track s fun u => u.mem = s.mem ∧ quietBut [pageBase pgTrk + 0x7C] s u ∧ adds pgTrk Reg.TRK_FULL born.2.2 u ∧ (born.2.2 ≠ 0 → codeIn u pgTrk 0x4D) ∧
      goes (on { j with
        work := { w with tracks := born.1, nextId := born.2.1, ts := some j.tc, since := 0 }
        trkFull := j.trkFull || decide (0 < born.2.2)
        rawStep := some (rawStep s j.usable w.failRun) }) u) ∧
    (turn 7 → fails [⟨true, 0, fjBatch j.raw * 64, batch.length⟩] .out ∧ (accRefused s 0 j.part ⟨true, 0, fjBatch j.raw * 64, batch.length⟩ = none → Does .out s fun u => goes (on j) u ∧ wrote (fjBatch j.raw * 64) batch u)) ∧
    (s.fus.job = some j → j.left = [] → Acts .fusionJobDone s fun u => settled u ∧ (j.rawStep = none → u.fus.st = w) ∧
      ∀ r, j.rawStep = some r → u.fus.st = { w with
        step := if w.judged = false ∨ w.step < r then r else if r < w.step ∧ getF s pgAln Reg.ALN_DEG_UP_N ≤ w.upCount + 1 then w.step - 1 else w.step
        upCount := if w.judged = true ∧ r < w.step ∧ w.upCount + 1 < getF s pgAln Reg.ALN_DEG_UP_N then w.upCount + 1 else 0
        judged := true })
end

