-- ==== Sys2Proof/Laws/Sparse.lean ====
section
/-! SUPPORT. The laws of sparse maps: a read after a write, and the canonical form that a write keeps. -/

namespace Sys2Proof.Machine

variable {α : Type}

theorem sparseGet_insert (d : Nat → α) (m : List (Nat × α)) (k j : Nat) (v : α) :
    sparseGet d (sparseInsert m k v) j = if j = k then v else sparseGet d m j := by
  induction m with
  | nil =>
    by_cases h : j = k
    · simp [sparseInsert, sparseGet, h]
    · simp [sparseInsert, sparseGet, h, Ne.symm h]
  | cons e r ih =>
    obtain ⟨a, x⟩ := e
    unfold sparseInsert
    split
    · by_cases h : j = k
      · simp [sparseGet, h]
      · simp [sparseGet, h, Ne.symm h]
    · split
      · rename_i h; subst h
        by_cases h : j = k
        · simp [sparseGet, h]
        · simp [sparseGet, h, Ne.symm h]
      · simp only [sparseGet, ih]
        by_cases h : a = j <;> by_cases h' : j = k <;> simp_all

theorem sparseGet_erase (d : Nat → α) (m : List (Nat × α)) (k j : Nat) :
    sparseGet d (sparseErase m k) j = if j = k then d k else sparseGet d m j := by
  induction m with
  | nil => by_cases h : j = k <;> simp [sparseErase, sparseGet, h]
  | cons e r ih =>
    obtain ⟨a, x⟩ := e
    unfold sparseErase at *
    by_cases ha : a = k
    · subst ha
      rw [List.filter_cons_of_neg (by simp), ih]
      by_cases h : j = a
      · simp [h]
      · simp [sparseGet, h, Ne.symm h]
    · rw [List.filter_cons_of_pos (by simp [ha])]
      simp only [sparseGet, ih]
      by_cases h : a = j
      · subst h; simp [ha]
      · simp [h]

/-- A read after a write: the value written at its key, every other key as before. -/
theorem sparseGet_put [DecidableEq α] (d : Nat → α) (m : List (Nat × α)) (k j : Nat) (v : α) :
    sparseGet d (sparsePut d m k v) j = if j = k then v else sparseGet d m j := by
  unfold sparsePut
  split
  · rename_i h; rw [sparseGet_erase]; simp [h]
  · exact sparseGet_insert d m k j v

theorem sparseRising_mono {lo lo' : Nat} (h : lo' ≤ lo) : ∀ {m : List (Nat × α)},
    sparseRising lo m = true → sparseRising lo' m = true
  | [], _ => rfl
  | (a, _) :: _, hm => by
    simp only [sparseRising, Bool.and_eq_true, decide_eq_true_eq] at hm ⊢
    exact ⟨le_trans h hm.1, hm.2⟩

theorem sparseRising_filter (p : Nat × α → Bool) : ∀ {lo : Nat} {m : List (Nat × α)},
    sparseRising lo m = true → sparseRising lo (m.filter p) = true
  | _, [], _ => rfl
  | lo, (a, x) :: r, hm => by
    simp only [sparseRising, Bool.and_eq_true, decide_eq_true_eq] at hm
    have ih := sparseRising_filter p hm.2
    by_cases hp : p (a, x) = true
    · rw [List.filter_cons_of_pos hp]
      simp only [sparseRising, Bool.and_eq_true, decide_eq_true_eq]
      exact ⟨hm.1, ih⟩
    · rw [List.filter_cons_of_neg hp]
      exact sparseRising_mono (by omega) ih

theorem sparseRising_insert (k : Nat) (v : α) : ∀ {lo : Nat} {m : List (Nat × α)},
    lo ≤ k → sparseRising lo m = true → sparseRising lo (sparseInsert m k v) = true
  | lo, [], hk, _ => by simp [sparseInsert, sparseRising, hk]
  | lo, (a, x) :: r, hk, hm => by
    simp only [sparseRising, Bool.and_eq_true, decide_eq_true_eq] at hm
    unfold sparseInsert
    split
    · simp only [sparseRising, Bool.and_eq_true, decide_eq_true_eq]
      exact ⟨hk, by omega, hm.2⟩
    · split
      · rename_i h; subst h
        simp only [sparseRising, Bool.and_eq_true, decide_eq_true_eq]
        exact hm
      · simp only [sparseRising, Bool.and_eq_true, decide_eq_true_eq]
        exact ⟨hm.1, sparseRising_insert k v (by omega) hm.2⟩

theorem mem_sparseInsert {m : List (Nat × α)} {k : Nat} {v : α} {e : Nat × α} :
    e ∈ sparseInsert m k v → e = (k, v) ∨ e ∈ m := by
  induction m with
  | nil => simp [sparseInsert]
  | cons b r ih =>
    obtain ⟨a, x⟩ := b
    unfold sparseInsert
    split
    · simp
    · split
      · simp only [List.mem_cons]; tauto
      · simp only [List.mem_cons]; intro h; rcases h with h | h
        · tauto
        · rcases ih h with h | h <;> tauto

/-- A write keeps the canonical form. -/
theorem sparseWf_put [DecidableEq α] (d : Nat → α) (m : List (Nat × α)) (k : Nat) (v : α) (h : sparseWf d m = true) :
    sparseWf d (sparsePut d m k v) = true := by
  unfold sparseWf at *
  simp only [Bool.and_eq_true, List.all_eq_true, decide_eq_true_eq] at h ⊢
  unfold sparsePut
  split
  · exact ⟨sparseRising_filter _ h.1, fun e he => h.2 e (List.mem_of_mem_filter he)⟩
  · rename_i hv
    refine ⟨sparseRising_insert k v (Nat.zero_le _) h.1, fun e he => ?_⟩
    rcases mem_sparseInsert he with rfl | he
    · exact hv
    · exact h.2 e he

/-- Dropping entries keeps the canonical form. -/
theorem sparseWf_filter [DecidableEq α] (d : Nat → α) (m : List (Nat × α)) (p : Nat × α → Bool) (h : sparseWf d m = true) :
    sparseWf d (m.filter p) = true := by
  unfold sparseWf at *
  simp only [Bool.and_eq_true, List.all_eq_true, decide_eq_true_eq] at h ⊢
  exact ⟨sparseRising_filter _ h.1, fun e he => h.2 e (List.mem_of_mem_filter he)⟩

theorem sparseWf_nil [DecidableEq α] (d : Nat → α) : sparseWf d ([] : List (Nat × α)) = true := rfl

/-- Canonical maps that read alike are the same data. -/
theorem sparse_ext [DecidableEq α] (d : Nat → α) : ∀ {m n : List (Nat × α)}, sparseWf d m = true → sparseWf d n = true →
    (∀ k, sparseGet d m k = sparseGet d n k) → m = n := by
  have low : ∀ {lo : Nat} {m : List (Nat × α)} {k : Nat}, sparseRising lo m = true → k < lo → sparseGet d m k = d k := by
    intro lo m
    induction m generalizing lo with
    | nil => intros; rfl
    | cons e r ih =>
      obtain ⟨a, x⟩ := e
      intro k hm hk
      simp only [sparseRising, Bool.and_eq_true, decide_eq_true_eq] at hm
      simp only [sparseGet]
      rw [if_neg (by omega)]
      exact ih hm.2 (by omega)
  have go : ∀ {m n : List (Nat × α)} {lo lo' : Nat}, sparseRising lo m = true → sparseRising lo' n = true →
      (∀ e ∈ m, e.2 ≠ d e.1) → (∀ e ∈ n, e.2 ≠ d e.1) → (∀ k, sparseGet d m k = sparseGet d n k) → m = n := by
    intro m
    induction m with
    | nil =>
      intro n lo lo' _ _ _ hn hg
      cases n with
      | nil => rfl
      | cons e r =>
        have := hg e.1
        simp [sparseGet] at this
        exact absurd this.symm (hn e (by simp))
    | cons e r ih =>
      intro n lo lo' h1 h2 hm hn hg
      obtain ⟨a, x⟩ := e
      cases n with
      | nil =>
        have := hg a
        simp [sparseGet] at this
        exact absurd this (hm (a, x) (by simp))
      | cons f q =>
        obtain ⟨b, y⟩ := f
        simp only [sparseRising, Bool.and_eq_true, decide_eq_true_eq] at h1 h2
        have hab : a = b := by
          rcases lt_trichotomy a b with hlt | heq | hgt
          · have := hg a
            simp only [sparseGet, if_true] at this
            rw [if_neg (by omega), low h2.2 (by omega)] at this
            exact absurd this (hm (a, x) (by simp))
          · exact heq
          · have := hg b
            simp only [sparseGet, if_true] at this
            rw [if_neg (by omega), low h1.2 (by omega)] at this
            exact absurd this.symm (hn (b, y) (by simp))
        subst hab
        have hxy : x = y := by have := hg a; simpa [sparseGet] using this
        subst hxy
        congr 1
        apply ih h1.2 h2.2 (fun e he => hm e (by simp [he])) (fun e he => hn e (by simp [he]))
        intro k
        have := hg k
        simp only [sparseGet] at this
        by_cases hk : a = k
        · subst hk; rw [low h1.2 (by omega), low h2.2 (by omega)]
        · simpa [hk] using this
  intro m n h1 h2 hg
  unfold sparseWf at h1 h2
  simp only [Bool.and_eq_true, List.all_eq_true, decide_eq_true_eq] at h1 h2
  exact go h1.1 h2.1 h1.2 h2.2 hg

end Sys2Proof.Machine
end

