-- ==== Sys2Proof/Laws/Keeps.lean ====
section
/-! SUPPORT. What every operation of the model keeps, as one relation between the state before and the state after: the queue,
the canonical forms, the number of units, and the direction of time. Each operation has one lemma (files Keeps<n>); the laws here
put them together. A number `K` names the pieces of the state that an operation leaves alone, one bit each. -/

namespace Sys2Proof.Machine

open Sys2Proof

/-- `t` keeps what every command keeps of `s`. -/
structure Keeps (K : Nat) (s t : State) : Prop where
  queue : t.pending = s.pending
  wf : s.wf = true → t.wf = true
  now : s.io.now ≤ t.io.now
  fresh : s.io.fresh ≤ t.io.fresh
  frame : ∀ p : Piece, K.testBit p.idx = true → p.same s t

/-- The state in a pair. -/
def KeepsP {α : Type} (K : Nat) (s : State) (p : α × State) : Prop := Keeps K s p.2

/-- The state in a triple. -/
def KeepsT {α β : Type} (K : Nat) (s : State) (p : α × β × State) : Prop := Keeps K s p.2.2

/-- The state in an option. -/
structure KeepsO (K : Nat) (s : State) (o : Option State) : Prop where
  get : ∀ t, o = some t → Keeps K s t

/-- The state of an outcome. -/
def KeepsX (K : Nat) (s : State) (o : Host.Outcome State Fault Refusal) : Prop := ∃ t, o = .next t ∧ Keeps K s t

variable {K : Nat} {s0 : State} {α β : Type}

theorem Piece.same_refl (p : Piece) (s : State) : p.same s s := by cases p <;> rfl

theorem Piece.same_trans {p : Piece} {r s t : State} (h : p.same r s) (k : p.same s t) : p.same r t := by
  cases p <;> exact Eq.trans k h

theorem Keeps.refl (K : Nat) (s : State) : Keeps K s s := ⟨rfl, id, le_rfl, le_rfl, fun p _ => p.same_refl s⟩

theorem Keeps.trans {r s t : State} (h : Keeps K r s) (k : Keeps K s t) : Keeps K r t :=
  ⟨k.queue.trans h.queue, fun w => k.wf (h.wf w), h.now.trans k.now, h.fresh.trans k.fresh,
    fun p b => Piece.same_trans (h.frame p b) (k.frame p b)⟩

/-- The pieces left alone by a whole are left alone by each part of it. -/
theorem keeps_sub {a b : Nat} (h : K &&& a = 0) (e : b &&& a = b) : K &&& b = 0 := by
  rw [← e, Nat.and_comm b a, ← Nat.and_assoc, h, Nat.zero_and]

/-- A piece that is touched is not among those left alone. -/
theorem keeps_no {a i : Nat} {q : Prop} (h : K &&& a = 0) (e : a.testBit i = true) (k : K.testBit i = true) : q := by
  have := congrArg (fun n => n.testBit i) h
  simp [Nat.testBit_and, e, k] at this

/-- A change that leaves the maps, the queue and the units alone and never runs the clock back. -/
theorem keeps_same {s t : State} (h : Keeps K s0 s) (q : t.pending = s.pending) (w : t.wf = s.wf) (n : s.io.now ≤ t.io.now)
    (f : s.io.fresh ≤ t.io.fresh) (g : ∀ p : Piece, K.testBit p.idx = true → p.same s t) : Keeps K s0 t :=
  ⟨q.trans h.queue, fun x => w.trans (h.wf x), h.now.trans n, h.fresh.trans f, fun p b => Piece.same_trans (h.frame p b) (g p b)⟩

theorem keeps_let {a : State} {b : State → State} (ha : Keeps K s0 a) (hb : ∀ x, Keeps K s0 x → Keeps K s0 (b x)) :
    Keeps K s0 (let x := a; b x) := hb a ha

theorem keeps_letP {a : α × State} {b : α × State → State} (ha : KeepsP K s0 a) (hb : ∀ x, KeepsP K s0 x → Keeps K s0 (b x)) :
    Keeps K s0 (let x := a; b x) := hb a ha

theorem keeps_letT {a : α × β × State} {b : α × β × State → State} (ha : KeepsT K s0 a)
    (hb : ∀ x, KeepsT K s0 x → Keeps K s0 (b x)) : Keeps K s0 (let x := a; b x) := hb a ha

theorem keeps_letV {a : α} {b : α → State} (hb : ∀ x, Keeps K s0 (b x)) : Keeps K s0 (let x := a; b x) := hb a

theorem keeps_ite {c : Prop} [Decidable c] {a b : State} (ha : Keeps K s0 a) (hb : Keeps K s0 b) : Keeps K s0 (if c then a else b) := by
  split <;> assumption

theorem keeps_id {s : State} (h : Keeps K s0 s) : Keeps K s0 (id s) := h

theorem keepsP_let {a : State} {b : State → α × State} (ha : Keeps K s0 a) (hb : ∀ x, Keeps K s0 x → KeepsP K s0 (b x)) :
    KeepsP K s0 (let x := a; b x) := hb a ha

theorem keepsP_letP {a : β × State} {b : β × State → α × State} (ha : KeepsP K s0 a)
    (hb : ∀ x, KeepsP K s0 x → KeepsP K s0 (b x)) : KeepsP K s0 (let x := a; b x) := hb a ha

theorem keepsP_letV {a : β} {b : β → α × State} (hb : ∀ x, KeepsP K s0 (b x)) : KeepsP K s0 (let x := a; b x) := hb a

theorem keepsP_ite {c : Prop} [Decidable c] {a b : α × State} (ha : KeepsP K s0 a) (hb : KeepsP K s0 b) :
    KeepsP K s0 (if c then a else b) := by split <;> assumption

theorem keepsP_mk {a : α} {s : State} (h : Keeps K s0 s) : KeepsP K s0 (a, s) := h

theorem keepsP_get {p : α × State} (h : KeepsP K s0 p) : Keeps K s0 p.2 := h

theorem keepsT_let {γ : Type} {a : State} {b : State → α × γ × State} (ha : Keeps K s0 a) (hb : ∀ x, Keeps K s0 x → KeepsT K s0 (b x)) :
    KeepsT K s0 (let x := a; b x) := hb a ha

theorem keepsT_letP {γ : Type} {a : β × State} {b : β × State → α × γ × State} (ha : KeepsP K s0 a)
    (hb : ∀ x, KeepsP K s0 x → KeepsT K s0 (b x)) : KeepsT K s0 (let x := a; b x) := hb a ha

theorem keepsT_letV {γ : Type} {a : β} {b : β → α × γ × State} (hb : ∀ x, KeepsT K s0 (b x)) : KeepsT K s0 (let x := a; b x) := hb a

theorem keepsT_ite {c : Prop} [Decidable c] {a b : α × β × State} (ha : KeepsT K s0 a) (hb : KeepsT K s0 b) :
    KeepsT K s0 (if c then a else b) := by split <;> assumption

theorem keepsT_mk {a : α} {b : β} {s : State} (h : Keeps K s0 s) : KeepsT K s0 (a, b, s) := h

theorem keepsT_get {p : α × β × State} (h : KeepsT K s0 p) : Keeps K s0 p.2.2 := h

theorem keepsO_some {s : State} (h : Keeps K s0 s) : KeepsO K s0 (some s) := ⟨fun _ e => by cases e; exact h⟩

theorem keepsO_none : KeepsO K s0 none := ⟨fun _ e => by cases e⟩

theorem keepsO_let {a : State} {b : State → Option State} (ha : Keeps K s0 a) (hb : ∀ x, Keeps K s0 x → KeepsO K s0 (b x)) :
    KeepsO K s0 (let x := a; b x) := hb a ha

theorem keepsO_letP {a : β × State} {b : β × State → Option State} (ha : KeepsP K s0 a)
    (hb : ∀ x, KeepsP K s0 x → KeepsO K s0 (b x)) : KeepsO K s0 (let x := a; b x) := hb a ha

theorem keepsO_letV {a : β} {b : β → Option State} (hb : ∀ x, KeepsO K s0 (b x)) : KeepsO K s0 (let x := a; b x) := hb a

theorem keepsO_ite {c : Prop} [Decidable c] {a b : Option State} (ha : KeepsO K s0 a) (hb : KeepsO K s0 b) :
    KeepsO K s0 (if c then a else b) := by split <;> assumption

theorem keepsX_next {s : State} (h : Keeps K s0 s) : KeepsX K s0 (.next s) := ⟨s, rfl, h⟩

theorem keepsX_let {a : State} {b : State → Host.Outcome State Fault Refusal} (ha : Keeps K s0 a)
    (hb : ∀ x, Keeps K s0 x → KeepsX K s0 (b x)) : KeepsX K s0 (let x := a; b x) := hb a ha

theorem keepsX_letV {a : β} {b : β → Host.Outcome State Fault Refusal} (hb : ∀ x, KeepsX K s0 (b x)) :
    KeepsX K s0 (let x := a; b x) := hb a

theorem keepsX_ite {c : Prop} [Decidable c] {a b : Host.Outcome State Fault Refusal} (ha : KeepsX K s0 a) (hb : KeepsX K s0 b) :
    KeepsX K s0 (if c then a else b) := by split <;> assumption

theorem keeps_foldl {l : List α} {f : State → α → State} {s : State} (h : Keeps K s0 s)
    (hf : ∀ x v, Keeps K s0 x → Keeps K s0 (f x v)) : Keeps K s0 (l.foldl f s) := by
  induction l generalizing s with
  | nil => exact h
  | cons a r ih => exact ih (hf s a h)

theorem keepsP_foldl {l : List α} {f : β × State → α → β × State} {p : β × State} (h : KeepsP K s0 p)
    (hf : ∀ x v, KeepsP K s0 x → KeepsP K s0 (f x v)) : KeepsP K s0 (l.foldl f p) := by
  induction l generalizing p with
  | nil => exact h
  | cons a r ih => exact ih (hf p a h)

theorem keepsT_foldl {γ : Type} {l : List γ} {f : α × β × State → γ → α × β × State} {p : α × β × State} (h : KeepsT K s0 p)
    (hf : ∀ x v, KeepsT K s0 x → KeepsT K s0 (f x v)) : KeepsT K s0 (l.foldl f p) := by
  induction l generalizing p with
  | nil => exact h
  | cons a r ih => exact ih (hf p a h)

theorem keepsO_get {o : Option State} {t : State} (h : KeepsO K s0 o) (e : o = some t) : Keeps K s0 t := h.get t e

theorem keepsP_eq {p : α × State} {a : α} {t : State} (h : KeepsP K s0 p) (e : p = (a, t)) : Keeps K s0 t := by
  subst e; exact h

/-! ### The primitive updates -/

/-- A record update that leaves the maps, the queue and the units alone. -/
theorem keeps_mk {s : State} {regs mem io links cyc seq dies parts acct tiles fus mbx ldg hld eth dlk ing lrn bw clap isl pwr boot
    mal pending} (h : Keeps K s0 s) (hr : regs = s.regs) (hm : mem = s.mem) (ht : tiles = s.tiles) (hq : pending = s.pending)
    (hn : s.io.now ≤ io.now) (hf : s.io.fresh ≤ io.fresh) (hd : dies.length = s.dies.length) (hp : parts.length = s.parts.length)
    (hi : ing.length = s.ing.length) (hl : isl.length = s.isl.length) (hk : links.ports.length = s.links.ports.length)
    (k2 : K.testBit 2 = true → io = s.io)
    (k3 : K.testBit 3 = true → links = s.links)
    (k4 : K.testBit 4 = true → cyc = s.cyc)
    (k5 : K.testBit 5 = true → seq = s.seq)
    (k6 : K.testBit 6 = true → dies = s.dies)
    (k7 : K.testBit 7 = true → parts = s.parts)
    (k8 : K.testBit 8 = true → acct = s.acct)
    (k10 : K.testBit 10 = true → fus = s.fus)
    (k11 : K.testBit 11 = true → mbx = s.mbx)
    (k12 : K.testBit 12 = true → ldg = s.ldg)
    (k13 : K.testBit 13 = true → hld = s.hld)
    (k14 : K.testBit 14 = true → eth = s.eth)
    (k15 : K.testBit 15 = true → dlk = s.dlk)
    (k16 : K.testBit 16 = true → ing = s.ing)
    (k17 : K.testBit 17 = true → lrn = s.lrn)
    (k18 : K.testBit 18 = true → bw = s.bw)
    (k19 : K.testBit 19 = true → clap = s.clap)
    (k20 : K.testBit 20 = true → isl = s.isl)
    (k21 : K.testBit 21 = true → pwr = s.pwr)
    (k22 : K.testBit 22 = true → boot = s.boot)
    (k23 : K.testBit 23 = true → mal = s.mal) :
    Keeps K s0 (State.mk regs mem io links cyc seq dies parts acct tiles fus mbx ldg hld eth dlk ing lrn bw clap isl pwr boot mal
      pending) :=
  keeps_same h hq (by subst hr hm ht; simp [State.wf, unitsWf, hd, hp, hi, hl, hk]) hn hf fun p b => by
    cases p
    all_goals first
      | exact hr | exact hm | exact ht
      | exact k2 b
      | exact k3 b
      | exact k4 b
      | exact k5 b
      | exact k6 b
      | exact k7 b
      | exact k8 b
      | exact k10 b
      | exact k11 b
      | exact k12 b
      | exact k13 b
      | exact k14 b
      | exact k15 b
      | exact k16 b
      | exact k17 b
      | exact k18 b
      | exact k19 b
      | exact k20 b
      | exact k21 b
      | exact k22 b
      | exact k23 b

theorem wf_iff (s : State) : s.wf = true ↔ (Memory.wf s.mem = true ∧ regsWf s.regs = true ∧ tilesWf s.tiles = true) ∧
    s.dies.length = 4 ∧ s.parts.length = 16 ∧ s.ing.length = 24 ∧ s.isl.length = 2 ∧ s.links.ports.length = 21 := by
  simp [State.wf, unitsWf, and_assoc]

/-- A change of memory and of the tile maps that leaves both in their canonical form. -/
theorem keeps_maps {s : State} {m : List Host.Cell} {t : Tiles} (h : Keeps K s0 s)
    (hm : Memory.wf s.mem = true → Memory.wf m = true) (ht : tilesWf s.tiles = true → tilesWf t = true)
    (k1 : K.testBit 1 = true → m = s.mem) (k9 : K.testBit 9 = true → t = s.tiles) :
    Keeps K s0 { s with mem := m, tiles := t } :=
  ⟨h.queue, fun w => by
    have := (wf_iff s).1 (h.wf w)
    exact (wf_iff _).2 ⟨⟨hm this.1.1, this.1.2.1, ht this.1.2.2⟩, this.2⟩, h.now, h.fresh,
    fun p b => Piece.same_trans (h.frame p b) (by cases p <;> first | rfl | exact k1 b | exact k9 b)⟩

theorem tilesWf_iff (a : List (Nat × Nat)) (b : List (Nat × Bool)) :
    tilesWf ⟨a, b⟩ = true ↔ sparseWf (fun _ => 0) a = true ∧ sparseWf (fun _ => false) b = true := by simp [tilesWf]

theorem setW_keeps (a : Nat) (v : Word) (hK : K &&& 1 = 0) {s : State} (h : Keeps K s0 s) : Keeps K s0 (setW a v s) :=
  ⟨h.queue, fun w => by
    have := (wf_iff s).1 (h.wf w)
    exact (wf_iff _).2 ⟨⟨this.1.1, sparseWf_put _ _ _ _ this.1.2.1, this.1.2.2⟩, this.2⟩, h.now, h.fresh,
    fun p b => Piece.same_trans (h.frame p b) (by cases p <;> first | rfl | exact keeps_no hK rfl b)⟩

theorem memPut_keeps (a : Nat) (b : Byte) (hK : K &&& 2 = 0) {s : State} (h : Keeps K s0 s) :
    Keeps K s0 { s with mem := sparsePut memDefault s.mem a b } :=
  ⟨h.queue, fun w => by
    have := (wf_iff s).1 (h.wf w)
    exact (wf_iff _).2 ⟨⟨sparseWf_put _ _ _ _ this.1.1, this.1.2⟩, this.2⟩, h.now, h.fresh,
    fun p b => Piece.same_trans (h.frame p b) (by cases p <;> first | rfl | exact keeps_no hK rfl b)⟩

theorem memWrite_keeps (a : Nat) (l : List Byte) (hK : K &&& 2 = 0) {s : State} (h : Keeps K s0 s) : Keeps K s0 (memWrite a l s) := by
  induction l generalizing a s with
  | nil => exact h
  | cons b r ih => exact ih (a + 1) (memPut_keeps a b hK h)

theorem at_keeps (t : Nat) (hK : K &&& 4 = 0) {s : State} (h : Keeps K s0 s) : Keeps K s0 (at_ t s) :=
  ⟨h.queue, h.wf, h.now.trans (Nat.le_max_left _ _), h.fresh,
    fun p b => Piece.same_trans (h.frame p b) (by cases p <;> first | rfl | exact keeps_no hK rfl b)⟩

theorem drawFree_keeps (w : Nat) (hK : K &&& 4 = 0) {s : State} (h : Keeps K s0 s) : KeepsP K s0 (drawFree w s) :=
  ⟨h.queue, h.wf, h.now, h.fresh.trans (Nat.le_succ _),
    fun p b => Piece.same_trans (h.frame p b) (by cases p <;> first | rfl | exact keeps_no hK rfl b)⟩

end Sys2Proof.Machine
end

