-- ==== Sys2Proof/Laws/KeepsOps.lean ====
section
/-! SUPPORT. What the operations of Machine/Ops.lean keep. -/

namespace Sys2Proof.Machine

open Sys2Proof

variable {K : Nat} {s0 : State}

theorem answer_keeps (data : List Sys2Proof.Byte) (done : Bool) (abort : Bool) {s : State} (hK : K &&& 4 = 0) (h0 : Keeps K s0 s) :
    Keeps K s0 (answer data done abort s) := by
  unfold answer
  repeat' first
    | with_reducible assumption
    | ((with_reducible refine keeps_sub hK ?_); rfl)
    | intro x
    | (with_reducible apply keeps_mk; case hr => rfl)
    | ((with_reducible refine keeps_no hK ?_ (by assumption)); rfl)
    | rfl
    | exact Nat.le_refl _
    | (simp; done)

theorem setFij_keeps (p : Sys2Proof.Page) (r : Sys2Proof.Machine.Row) (i : ℕ) (j : ℕ) (v : ℕ) {s : State} (hK : K &&& 1 = 0) (h0 : Keeps K s0 s) :
    Keeps K s0 (setFij p r i j v s) := by
  unfold setFij
  repeat' first
    | with_reducible assumption
    | ((with_reducible refine keeps_sub hK ?_); rfl)
    | with_reducible apply setW_keeps

theorem setFi_keeps (p : Sys2Proof.Page) (r : Sys2Proof.Machine.Row) (i : ℕ) (v : ℕ) {s : State} (hK : K &&& 1 = 0) (h0 : Keeps K s0 s) :
    Keeps K s0 (setFi p r i v s) := by
  unfold setFi
  repeat' first
    | with_reducible assumption
    | ((with_reducible refine keeps_sub hK ?_); rfl)
    | with_reducible apply setFij_keeps

theorem bumpI_keeps (p : Sys2Proof.Page) (r : Sys2Proof.Machine.Row) (i : ℕ) (n : ℕ) {s : State} (hK : K &&& 1 = 0) (h0 : Keeps K s0 s) :
    Keeps K s0 (bumpI p r i n s) := by
  unfold bumpI
  repeat' first
    | with_reducible assumption
    | ((with_reducible refine keeps_sub hK ?_); rfl)
    | with_reducible apply setFi_keeps

theorem bump_keeps (p : Sys2Proof.Page) (r : Sys2Proof.Machine.Row) (n : ℕ) {s : State} (hK : K &&& 1 = 0) (h0 : Keeps K s0 s) :
    Keeps K s0 (bump p r n s) := by
  unfold bump
  repeat' first
    | with_reducible assumption
    | ((with_reducible refine keeps_sub hK ?_); rfl)
    | with_reducible apply bumpI_keeps

theorem set64_keeps (p : Sys2Proof.Page) (lo : Sys2Proof.Machine.Row) (hi : Sys2Proof.Machine.Row) (i : ℕ) (v : ℕ) {s : State} (hK : K &&& 1 = 0) (h0 : Keeps K s0 s) :
    Keeps K s0 (set64 p lo hi i v s) := by
  unfold set64
  repeat' first
    | with_reducible assumption
    | ((with_reducible refine keeps_sub hK ?_); rfl)
    | with_reducible apply setFi_keeps

theorem bump64_keeps (p : Sys2Proof.Page) (lo : Sys2Proof.Machine.Row) (hi : Sys2Proof.Machine.Row) (i : ℕ) (n : ℕ) {s : State} (hK : K &&& 1 = 0) (h0 : Keeps K s0 s) :
    Keeps K s0 (bump64 p lo hi i n s) := by
  unfold bump64
  repeat' first
    | with_reducible assumption
    | ((with_reducible refine keeps_sub hK ?_); rfl)
    | with_reducible apply set64_keeps

theorem setF_keeps (p : Sys2Proof.Page) (r : Sys2Proof.Machine.Row) (v : ℕ) {s : State} (hK : K &&& 1 = 0) (h0 : Keeps K s0 s) :
    Keeps K s0 (setF p r v s) := by
  unfold setF
  repeat' first
    | with_reducible assumption
    | ((with_reducible refine keeps_sub hK ?_); rfl)
    | with_reducible apply setFij_keeps

theorem capture_keeps (p : Sys2Proof.Page) (code : ℕ) (addr : ℕ) (part : ℕ) {s : State} (hK : K &&& 1 = 0) (h0 : Keeps K s0 s) :
    Keeps K s0 (capture p code addr part s) := by
  unfold capture
  repeat' first
    | with_reducible assumption
    | ((with_reducible refine keeps_sub hK ?_); rfl)
    | (intro x; first
      | (refine (?_ : Keeps K s0 x → _) ?_; on_goal 1 => (intro hx; clear_value x)
         on_goal 2 => unfold x)
      | clear_value x
      | skip)
    | fail_if_no_progress lift_lets
    | with_reducible first
      | apply keeps_ite
      | apply bump_keeps
      | apply setF_keeps
    | split

theorem emit_keeps (e : Sys2Proof.Machine.Emission) {s : State} (hK : K &&& 4 = 0) (h0 : Keeps K s0 s) :
    Keeps K s0 (emit e s) := by
  unfold emit
  repeat' first
    | with_reducible assumption
    | ((with_reducible refine keeps_sub hK ?_); rfl)
    | intro x
    | (with_reducible apply keeps_mk; case hr => rfl)
    | ((with_reducible refine keeps_no hK ?_ (by assumption)); rfl)
    | rfl
    | exact Nat.le_refl _
    | (simp; done)

theorem queueEntry_keeps (e : Sys2Proof.Machine.LdgEntry) {s : State} (hK : K &&& 4097 = 0) (h0 : Keeps K s0 s) :
    KeepsP K s0 (queueEntry e s) := by
  unfold queueEntry
  repeat' first
    | with_reducible assumption
    | ((with_reducible refine keeps_sub hK ?_); rfl)
    | intro x
    | with_reducible first
      | apply keeps_ite
      | apply keepsP_ite
      | apply bump_keeps
      | apply setF_keeps
      | exact keepsP_get (by assumption)
      | refine keepsP_eq ?_ (by assumption)
    | split
    | with_reducible apply keepsP_mk
    | (with_reducible apply keeps_mk; case hr => rfl)
    | ((with_reducible refine keeps_no hK ?_ (by assumption)); rfl)
    | rfl
    | exact Nat.le_refl _
    | (simp; done)

theorem queueFault_keeps (p : Sys2Proof.Page) (code : ℕ) {s : State} (hK : K &&& 4097 = 0) (h0 : Keeps K s0 s) :
    KeepsP K s0 (queueFault p code s) := by
  unfold queueFault
  repeat' first
    | with_reducible assumption
    | ((with_reducible refine keeps_sub hK ?_); rfl)
    | (intro x; first
      | (refine (?_ : Keeps K s0 x → _) ?_; on_goal 1 => (intro hx; clear_value x)
         on_goal 2 => unfold x)
      | (refine (?_ : KeepsP K s0 x → _) ?_; on_goal 1 => (intro hx; clear_value x)
         on_goal 2 => unfold x)
      | clear_value x
      | skip)
    | fail_if_no_progress lift_lets
    | with_reducible first
      | apply keeps_ite
      | apply keepsP_ite
      | apply queueEntry_keeps
      | exact keepsP_get (by assumption)
      | refine keepsP_eq ?_ (by assumption)
      | refine keepsP_get (p := queueEntry _ _) ?_
    | split
    | with_reducible apply keepsP_mk
    | (with_reducible apply keeps_mk; case hr => rfl)
    | ((with_reducible refine keeps_no hK ?_ (by assumption)); rfl)
    | rfl
    | exact Nat.le_refl _
    | (simp; done)

theorem notify_keeps (i : ℕ) {s : State} (hK : K &&& 4 = 0) (h0 : Keeps K s0 s) :
    Keeps K s0 (notify i s) := by
  unfold notify
  repeat' first
    | with_reducible assumption
    | ((with_reducible refine keeps_sub hK ?_); rfl)
    | (intro x; first
      | (refine (?_ : Keeps K s0 x → _) ?_; on_goal 1 => (intro hx; clear_value x)
         on_goal 2 => unfold x)
      | clear_value x
      | skip)
    | fail_if_no_progress lift_lets
    | with_reducible first
      | apply keeps_ite
      | apply emit_keeps
    | split

theorem notifyEdge_keeps (p : Sys2Proof.Page) {s : State} {t : State} (hK : K &&& 4 = 0) (h0 : Keeps K s0 s) (h1 : Keeps K s0 t) :
    Keeps K s0 (notifyEdge p s t) := by
  unfold notifyEdge
  repeat' first
    | with_reducible assumption
    | ((with_reducible refine keeps_sub hK ?_); rfl)
    | intro x
    | with_reducible first
      | apply keeps_ite
      | apply notify_keeps
    | split

theorem recordPlain_keeps (p : Sys2Proof.Page) (code : ℕ) (addr : ℕ) (part : ℕ) {s : State} (hK : K &&& 5 = 0) (h0 : Keeps K s0 s) :
    Keeps K s0 (recordPlain p code addr part s) := by
  unfold recordPlain
  repeat' first
    | with_reducible assumption
    | ((with_reducible refine keeps_sub hK ?_); rfl)
    | with_reducible first
      | apply notifyEdge_keeps
      | apply capture_keeps

theorem raiseWarning_keeps (p : Sys2Proof.Page) (code : ℕ) {s : State} (hK : K &&& 2053 = 0) (h0 : Keeps K s0 s) :
    Keeps K s0 (raiseWarning p code s) := by
  unfold raiseWarning
  repeat' first
    | with_reducible assumption
    | ((with_reducible refine keeps_sub hK ?_); rfl)
    | intro x
    | with_reducible first
      | apply keeps_ite
      | apply setF_keeps
      | apply recordPlain_keeps
      | apply bump_keeps
    | split
    | (with_reducible apply keeps_mk; case hr => rfl)
    | ((with_reducible refine keeps_no hK ?_ (by assumption)); rfl)
    | rfl
    | exact Nat.le_refl _
    | (simp; done)

theorem warnAbout_keeps (p : Sys2Proof.Page) (code : ℕ) {s : State} (hK : K &&& 6149 = 0) (h0 : Keeps K s0 s) :
    Keeps K s0 (warnAbout p code s) := by
  unfold warnAbout
  repeat' first
    | with_reducible assumption
    | ((with_reducible refine keeps_sub hK ?_); rfl)
    | (intro x; first
      | (refine (?_ : Keeps K s0 x → _) ?_; on_goal 1 => (intro hx; clear_value x)
         on_goal 2 => unfold x)
      | (refine (?_ : KeepsP K s0 x → _) ?_; on_goal 1 => (intro hx; clear_value x)
         on_goal 2 => unfold x)
      | clear_value x
      | skip)
    | fail_if_no_progress lift_lets
    | with_reducible first
      | apply keeps_ite
      | apply keepsP_ite
      | apply queueFault_keeps
      | apply raiseWarning_keeps
      | apply recordPlain_keeps
      | exact keepsP_get (by assumption)
      | refine keepsP_eq ?_ (by assumption)
      | refine keepsP_get (p := queueFault _ _ _) ?_
    | split
    | with_reducible apply keepsP_mk

theorem recordWarn_keeps (p : Sys2Proof.Page) (code : ℕ) (addr : ℕ) (part : ℕ) {s : State} (hK : K &&& 6149 = 0) (h0 : Keeps K s0 s) :
    Keeps K s0 (recordWarn p code addr part s) := by
  unfold recordWarn
  repeat' first
    | with_reducible assumption
    | ((with_reducible refine keeps_sub hK ?_); rfl)
    | with_reducible first
      | apply warnAbout_keeps
      | apply recordPlain_keeps

theorem recordAt_keeps (p : Sys2Proof.Page) (code : ℕ) (addr : ℕ) (part : ℕ) {s : State} (hK : K &&& 6149 = 0) (h0 : Keeps K s0 s) :
    Keeps K s0 (recordAt p code addr part s) := by
  unfold recordAt
  repeat' first
    | with_reducible assumption
    | ((with_reducible refine keeps_sub hK ?_); rfl)
    | with_reducible first
      | apply keeps_ite
      | apply recordWarn_keeps
      | apply recordPlain_keeps
    | split

theorem record_keeps (p : Sys2Proof.Page) (code : ℕ) {s : State} (hK : K &&& 6149 = 0) (h0 : Keeps K s0 s) :
    Keeps K s0 (record p code s) := by
  unfold record
  repeat' first
    | with_reducible assumption
    | ((with_reducible refine keeps_sub hK ?_); rfl)
    | with_reducible apply recordAt_keeps

theorem journal_keeps (etype : ℕ) (key : ℕ) (data : List Sys2Proof.Byte) (words : List (ℕ × Sys2Proof.Word)) {s : State} (hK : K &&& 6149 = 0) (h0 : Keeps K s0 s) :
    Keeps K s0 (journal etype key data words s) := by
  unfold journal
  repeat' first
    | with_reducible assumption
    | ((with_reducible refine keeps_sub hK ?_); rfl)
    | (intro x; first
      | (refine (?_ : Keeps K s0 x → _) ?_; on_goal 1 => (intro hx; clear_value x)
         on_goal 2 => unfold x)
      | (refine (?_ : KeepsP K s0 x → _) ?_; on_goal 1 => (intro hx; clear_value x)
         on_goal 2 => unfold x)
      | clear_value x
      | skip)
    | fail_if_no_progress lift_lets
    | with_reducible first
      | apply keeps_ite
      | apply keepsP_ite
      | apply queueEntry_keeps
      | apply record_keeps
      | exact keepsP_get (by assumption)
      | refine keepsP_eq ?_ (by assumption)
      | refine keepsP_get (p := queueEntry _ _) ?_
    | split
    | with_reducible apply keepsP_mk
    | (with_reducible apply keeps_mk; case hr => rfl)
    | ((with_reducible refine keeps_no hK ?_ (by assumption)); rfl)
    | rfl
    | exact Nat.le_refl _
    | (simp; done)

theorem recordPart_keeps (p : Sys2Proof.Page) (code : ℕ) (part : ℕ) {s : State} (hK : K &&& 6149 = 0) (h0 : Keeps K s0 s) :
    Keeps K s0 (recordPart p code part s) := by
  unfold recordPart
  repeat' first
    | with_reducible assumption
    | ((with_reducible refine keeps_sub hK ?_); rfl)
    | with_reducible apply recordAt_keeps

theorem resetPageFrom_keeps (p : Sys2Proof.Page) (from_ : ℕ) {s : State} (hK : K &&& 1 = 0) (h0 : Keeps K s0 s) :
    Keeps K s0 (resetPageFrom p from_ s) := by
  unfold resetPageFrom
  repeat' first
    | with_reducible assumption
    | ((with_reducible refine keeps_sub hK ?_); rfl)
    | (intro x; first
      | (refine (?_ : Keeps K s0 x → _) ?_; on_goal 1 => (intro hx; clear_value x)
         on_goal 2 => unfold x)
      | clear_value x
      | skip)
    | fail_if_no_progress lift_lets
    | with_reducible first
      | apply keeps_foldl
      | apply setW_keeps

theorem underLock_keeps (p : Sys2Proof.Page) (off : ℕ) (v : ℕ) (f : ℕ → Sys2Proof.Machine.State → Sys2Proof.Machine.State) {s : State} (hK : K &&& 6149 = 0) (h0 : ∀ u0 u1, Keeps K s0 u1 → Keeps K s0 (f u0 u1)) (h1 : Keeps K s0 s) :
    Keeps K s0 (underLock p off v f s) := by
  unfold underLock
  repeat' first
    | with_reducible assumption
    | ((with_reducible refine keeps_sub hK ?_); rfl)
    | (intro x; first
      | (refine (?_ : Keeps K s0 x → _) ?_; on_goal 1 => (intro hx; clear_value x)
         on_goal 2 => unfold x)
      | clear_value x
      | skip)
    | fail_if_no_progress lift_lets
    | with_reducible first
      | apply keeps_ite
      | apply keeps_foldl
      | apply record_keeps
      | apply h0
    | split

end Sys2Proof.Machine
end

