-- ==== Sys2Proof/Laws/KeepsFlags.lean ====
section
/-! SUPPORT. What the operations of Machine/Flags.lean keep. -/

namespace Sys2Proof.Machine

open Sys2Proof

variable {K : Nat} {s0 : State}

theorem raiseBit_keeps (p : Sys2Proof.Page) (b : ℕ) {s : State} (hK : K &&& 5 = 0) (h0 : Keeps K s0 s) :
    Keeps K s0 (raiseBit p b s) := by
  unfold raiseBit
  repeat' first
    | with_reducible assumption
    | ((with_reducible refine keeps_sub hK ?_); rfl)
    | with_reducible first
      | apply notifyEdge_keeps
      | apply setF_keeps

end Sys2Proof.Machine
end

