-- ==== Sys2Proof/Laws/KeepsDieOps.lean ====
section
/-! SUPPORT. What the operations of Machine/DieOps.lean keep. -/

namespace Sys2Proof.Machine

open Sys2Proof

variable {K : Nat} {s0 : State}

theorem modDie_keeps (d : ℕ) (f : Sys2Proof.Machine.Die → Sys2Proof.Machine.Die) {s : State} (hK : K &&& 64 = 0) (h0 : Keeps K s0 s) :
    Keeps K s0 (modDie d f s) := by
  unfold modDie
  repeat' first
    | with_reducible assumption
    | ((with_reducible refine keeps_sub hK ?_); rfl)
    | intro x
    | (with_reducible apply keeps_mk; case hr => rfl)
    | ((with_reducible refine keeps_no hK ?_ (by assumption)); rfl)
    | rfl
    | exact Nat.le_refl _
    | (simp; done)

theorem showDispatch_keeps (d : ℕ) {s : State} (hK : K &&& 1 = 0) (h0 : Keeps K s0 s) :
    Keeps K s0 (showDispatch d s) := by
  unfold showDispatch
  repeat' first
    | with_reducible assumption
    | ((with_reducible refine keeps_sub hK ?_); rfl)
    | (intro x; first
      | (refine (?_ : Keeps K s0 x → _) ?_; on_goal 1 => (intro hx; clear_value x)
         on_goal 2 => unfold x)
      | clear_value x
      | skip)
    | fail_if_no_progress lift_lets
    | with_reducible first
      | apply keeps_ite
      | apply keeps_foldl
      | apply setF_keeps
    | split

theorem stopDie_keeps (d : ℕ) {s : State} (hK : K &&& 65 = 0) (h0 : Keeps K s0 s) :
    Keeps K s0 (stopDie d s) := by
  unfold stopDie
  repeat' first
    | with_reducible assumption
    | ((with_reducible refine keeps_sub hK ?_); rfl)
    | (intro x; first
      | (refine (?_ : Keeps K s0 x → _) ?_; on_goal 1 => (intro hx; clear_value x)
         on_goal 2 => unfold x)
      | clear_value x
      | skip)
    | fail_if_no_progress lift_lets
    | with_reducible first
      | apply keeps_ite
      | apply keeps_foldl
      | apply modDie_keeps
      | apply setF_keeps
      | apply showDispatch_keeps
    | split
    | (with_reducible apply keeps_mk; case hr => rfl)
    | ((with_reducible refine keeps_no hK ?_ (by assumption)); rfl)
    | rfl
    | exact Nat.le_refl _
    | (simp; done)

theorem startFallback_keeps (d : ℕ) {s : State} (hK : K &&& 33 = 0) (h0 : Keeps K s0 s) :
    Keeps K s0 (startFallback d s) := by
  unfold startFallback
  repeat' first
    | with_reducible assumption
    | ((with_reducible refine keeps_sub hK ?_); rfl)
    | (intro x; first
      | (refine (?_ : Keeps K s0 x → _) ?_; on_goal 1 => (intro hx; clear_value x)
         on_goal 2 => unfold x)
      | clear_value x
      | skip)
    | fail_if_no_progress lift_lets
    | with_reducible first
      | apply keeps_ite
      | apply setF_keeps
    | split
    | (with_reducible apply keeps_mk; case hr => rfl)
    | ((with_reducible refine keeps_no hK ?_ (by assumption)); rfl)
    | rfl
    | exact Nat.le_refl _
    | (simp; done)

theorem dieLeave_keeps (d : ℕ) {s : State} (hK : K &&& 97 = 0) (h0 : Keeps K s0 s) :
    Keeps K s0 (dieLeave d s) := by
  unfold dieLeave
  repeat' first
    | with_reducible assumption
    | ((with_reducible refine keeps_sub hK ?_); rfl)
    | (intro x; first
      | (refine (?_ : Keeps K s0 x → _) ?_; on_goal 1 => (intro hx; clear_value x)
         on_goal 2 => unfold x)
      | clear_value x
      | skip)
    | fail_if_no_progress lift_lets
    | with_reducible first
      | apply keeps_ite
      | apply setF_keeps
      | apply stopDie_keeps
      | apply startFallback_keeps
    | split
    | (with_reducible apply keeps_mk; case hr => rfl)
    | ((with_reducible refine keeps_no hK ?_ (by assumption)); rfl)
    | rfl
    | exact Nat.le_refl _
    | (simp; done)

theorem setPortF_keeps (p : ℕ) (r : Sys2Proof.Machine.Row) (v : ℕ) {s : State} (hK : K &&& 1 = 0) (h0 : Keeps K s0 s) :
    Keeps K s0 (setPortF p r v s) := by
  unfold setPortF
  repeat' first
    | with_reducible assumption
    | ((with_reducible refine keeps_sub hK ?_); rfl)
    | with_reducible apply setFi_keeps

theorem endDown_keeps (p : ℕ) (warn : Bool) {s : State} (hK : K &&& 6149 = 0) (h0 : Keeps K s0 s) :
    Keeps K s0 (endDown p warn s) := by
  unfold endDown
  repeat' first
    | with_reducible assumption
    | ((with_reducible refine keeps_sub hK ?_); rfl)
    | (intro x; first
      | (refine (?_ : Keeps K s0 x → _) ?_; on_goal 1 => (intro hx; clear_value x)
         on_goal 2 => unfold x)
      | clear_value x
      | skip)
    | fail_if_no_progress lift_lets
    | with_reducible first
      | apply keeps_ite
      | apply setPortF_keeps
      | apply setF_keeps
      | apply recordWarn_keeps
      | apply recordAt_keeps
    | split

theorem uciFence_keeps (cause : ℕ) {s : State} (hK : K &&& 5 = 0) (h0 : Keeps K s0 s) :
    Keeps K s0 (uciFence cause s) := by
  unfold uciFence
  repeat' first
    | with_reducible assumption
    | ((with_reducible refine keeps_sub hK ?_); rfl)
    | with_reducible first
      | apply emit_keeps
      | apply setF_keeps

theorem linkDown_keeps (p : ℕ) {s : State} (hK : K &&& 6245 = 0) (h0 : Keeps K s0 s) :
    Keeps K s0 (linkDown p s) := by
  unfold linkDown
  repeat' first
    | with_reducible assumption
    | ((with_reducible refine keeps_sub hK ?_); rfl)
    | (intro x; first
      | (refine (?_ : Keeps K s0 x → _) ?_; on_goal 1 => (intro hx; clear_value x)
         on_goal 2 => unfold x)
      | clear_value x
      | skip)
    | fail_if_no_progress lift_lets
    | with_reducible first
      | apply keeps_ite
      | apply record_keeps
      | apply uciFence_keeps
      | apply endDown_keeps
      | apply dieLeave_keeps
    | split

theorem modEng_keeps (d : ℕ) (e : ℕ) (f : Sys2Proof.Machine.Eng → Sys2Proof.Machine.Eng) {s : State} (hK : K &&& 64 = 0) (h0 : Keeps K s0 s) :
    Keeps K s0 (modEng d e f s) := by
  unfold modEng
  repeat' first
    | with_reducible assumption
    | ((with_reducible refine keeps_sub hK ?_); rfl)
    | intro x
    | with_reducible apply modDie_keeps
    | (with_reducible apply keeps_mk; case hr => rfl)
    | ((with_reducible refine keeps_no hK ?_ (by assumption)); rfl)
    | rfl
    | exact Nat.le_refl _
    | (simp; done)

theorem modPort_keeps (p : ℕ) (f : Sys2Proof.Machine.Port → Sys2Proof.Machine.Port) {s : State} (hK : K &&& 8 = 0) (h0 : Keeps K s0 s) :
    Keeps K s0 (modPort p f s) := by
  unfold modPort
  repeat' first
    | with_reducible assumption
    | ((with_reducible refine keeps_sub hK ?_); rfl)
    | intro x
    | (with_reducible apply keeps_mk; case hr => rfl)
    | ((with_reducible refine keeps_no hK ?_ (by assumption)); rfl)
    | rfl
    | exact Nat.le_refl _
    | (simp; done)

theorem showEng_keeps (d : ℕ) (e : ℕ) {s : State} (hK : K &&& 1 = 0) (h0 : Keeps K s0 s) :
    Keeps K s0 (showEng d e s) := by
  unfold showEng
  repeat' first
    | with_reducible assumption
    | ((with_reducible refine keeps_sub hK ?_); rfl)
    | with_reducible apply setF_keeps

end Sys2Proof.Machine
end

