-- ==== Sys2Proof/Laws/KeepsLimits.lean ====
section
/-! SUPPORT. What the operations of Machine/Limits.lean keep. -/

namespace Sys2Proof.Machine

open Sys2Proof

variable {K : Nat} {s0 : State}

theorem showBudget_keeps  {s : State} (hK : K &&& 1 = 0) (h0 : Keeps K s0 s) :
    Keeps K s0 (showBudget s) := by
  unfold showBudget
  repeat' first
    | with_reducible assumption
    | ((with_reducible refine keeps_sub hK ?_); rfl)
    | with_reducible apply setF_keeps

theorem applyFloors_keeps  {s : State} (hK : K &&& 6149 = 0) (h0 : Keeps K s0 s) :
    Keeps K s0 (applyFloors s) := by
  unfold applyFloors
  repeat' first
    | with_reducible assumption
    | ((with_reducible refine keeps_sub hK ?_); rfl)
    | (intro x; first
      | (refine (?_ : Keeps K s0 x → _) ?_; on_goal 1 => (intro hx; clear_value x)
         on_goal 2 => unfold x)
      | clear_value x
      | skip)
    | fail_if_no_progress lift_lets
    | with_reducible first
      | apply keeps_ite
      | apply keeps_foldl
      | apply setFi_keeps
      | apply record_keeps
      | apply showBudget_keeps
    | split

theorem modDiePwr_keeps (n : ℕ) (f : Sys2Proof.Machine.DiePwr → Sys2Proof.Machine.DiePwr) {s : State} (hK : K &&& 2097152 = 0) (h0 : Keeps K s0 s) :
    Keeps K s0 (modDiePwr n f s) := by
  unfold modDiePwr
  repeat' first
    | with_reducible assumption
    | ((with_reducible refine keeps_sub hK ?_); rfl)
    | intro x
    | (with_reducible apply keeps_mk; case hr => rfl)
    | ((with_reducible refine keeps_no hK ?_ (by assumption)); rfl)
    | rfl
    | exact Nat.le_refl _
    | (simp; done)

theorem modPwr_keeps (f : Sys2Proof.Machine.Pwr → Sys2Proof.Machine.Pwr) {s : State} (hK : K &&& 2097152 = 0) (h0 : Keeps K s0 s) :
    Keeps K s0 (modPwr f s) := by
  unfold modPwr
  repeat' first
    | with_reducible assumption
    | ((with_reducible refine keeps_sub hK ?_); rfl)
    | intro x
    | (with_reducible apply keeps_mk; case hr => rfl)
    | ((with_reducible refine keeps_no hK ?_ (by assumption)); rfl)
    | rfl
    | exact Nat.le_refl _
    | (simp; done)

theorem readdPhases_keeps (r : ℕ) {s : State} (hK : K &&& 1 = 0) (h0 : Keeps K s0 s) :
    Keeps K s0 (readdPhases r s) := by
  unfold readdPhases
  repeat' first
    | with_reducible assumption
    | ((with_reducible refine keeps_sub hK ?_); rfl)
    | with_reducible first
      | apply keeps_ite
      | apply setF_keeps
    | split

theorem rollIn_keeps (n : ℕ) {s : State} (hK : K &&& 2097152 = 0) (h0 : Keeps K s0 s) :
    Keeps K s0 (rollIn n s) := by
  unfold rollIn
  repeat' first
    | with_reducible assumption
    | ((with_reducible refine keeps_sub hK ?_); rfl)
    | intro x
    | with_reducible apply modDiePwr_keeps
    | (with_reducible apply keeps_mk; case hr => rfl)
    | ((with_reducible refine keeps_no hK ?_ (by assumption)); rfl)
    | rfl
    | exact Nat.le_refl _
    | (simp; done)

theorem showLims_keeps  {s : State} (hK : K &&& 1 = 0) (h0 : Keeps K s0 s) :
    Keeps K s0 (showLims s) := by
  unfold showLims
  repeat' first
    | with_reducible assumption
    | ((with_reducible refine keeps_sub hK ?_); rfl)
    | intro x
    | with_reducible first
      | apply keeps_foldl
      | apply setFi_keeps

end Sys2Proof.Machine
end

