-- ==== Sys2Proof/Laws/KeepsAccess.lean ====
section
/-! SUPPORT. What the operations of Machine/Access.lean keep. -/

namespace Sys2Proof.Machine

open Sys2Proof

variable {K : Nat} {s0 : State}

theorem modCharge_keeps (p : ℕ) (f : Sys2Proof.Machine.Charges → Sys2Proof.Machine.Charges) {s : State} (hK : K &&& 256 = 0) (h0 : Keeps K s0 s) :
    Keeps K s0 (modCharge p f s) := by
  unfold modCharge
  repeat' first
    | with_reducible assumption
    | ((with_reducible refine keeps_sub hK ?_); rfl)
    | intro x
    | (with_reducible apply keeps_mk; case hr => rfl)
    | ((with_reducible refine keeps_no hK ?_ (by assumption)); rfl)
    | rfl
    | exact Nat.le_refl _
    | (simp; done)

theorem chargeStack_keeps (m : ℕ) (p : Option ℕ) (n : ℕ) (len : ℕ) {s : State} (hK : K &&& 256 = 0) (h0 : Keeps K s0 s) :
    Keeps K s0 (chargeStack m p n len s) := by
  unfold chargeStack
  repeat' first
    | with_reducible assumption
    | ((with_reducible refine keeps_sub hK ?_); rfl)
    | (intro x; first
      | (refine (?_ : Keeps K s0 x → _) ?_; on_goal 1 => (intro hx; clear_value x)
         on_goal 2 => unfold x)
      | clear_value x
      | skip)
    | fail_if_no_progress lift_lets
    | with_reducible apply modCharge_keeps
    | split
    | (with_reducible apply keeps_mk; case hr => rfl)
    | ((with_reducible refine keeps_no hK ?_ (by assumption)); rfl)
    | rfl
    | exact Nat.le_refl _
    | (simp; done)

theorem chargePool_keeps (p : Option ℕ) (len : ℕ) {s : State} (hK : K &&& 256 = 0) (h0 : Keeps K s0 s) :
    Keeps K s0 (chargePool p len s) := by
  unfold chargePool
  repeat' first
    | with_reducible assumption
    | ((with_reducible refine keeps_sub hK ?_); rfl)
    | intro x
    | with_reducible apply modCharge_keeps
    | split
    | (with_reducible apply keeps_mk; case hr => rfl)
    | ((with_reducible refine keeps_no hK ?_ (by assumption)); rfl)
    | rfl
    | exact Nat.le_refl _
    | (simp; done)

theorem chargeMem_keeps (m : ℕ) (p : Option ℕ) (a : ℕ) (len : ℕ) {s : State} (hK : K &&& 256 = 0) (h0 : Keeps K s0 s) :
    Keeps K s0 (chargeMem m p a len s) := by
  unfold chargeMem
  repeat' first
    | with_reducible assumption
    | ((with_reducible refine keeps_sub hK ?_); rfl)
    | intro x
    | with_reducible first
      | apply keeps_foldl
      | apply chargeStack_keeps
      | apply chargePool_keeps
    | split

theorem chargeAccs_keeps (m : ℕ) (p : ℕ) (d : ℕ) (l : List Sys2Proof.Machine.MemAcc) {s : State} (hK : K &&& 256 = 0) (h0 : Keeps K s0 s) :
    Keeps K s0 (chargeAccs m p d l s) := by
  unfold chargeAccs
  repeat' first
    | with_reducible assumption
    | ((with_reducible refine keeps_sub hK ?_); rfl)
    | intro x
    | with_reducible first
      | apply keeps_ite
      | apply keeps_foldl
      | apply chargeMem_keeps
    | split

theorem claimSeg_keeps (p : ℕ) (g : ℕ) {s : State} (hK : K &&& 512 = 0) (h0 : Keeps K s0 s) :
    Keeps K s0 (claimSeg p g s) := by
  unfold claimSeg
  refine keeps_ite h0 (keeps_maps h0 id (fun w => ?_) (fun _ => rfl) (fun b => keeps_no hK rfl b))
  have := (tilesWf_iff _ _).1 w
  exact (tilesWf_iff _ _).2 ⟨sparseWf_put _ _ _ _ this.1, sparseWf_filter _ _ _ this.2⟩

theorem clearTags_keeps (p : ℕ) {s : State} (hK : K &&& 512 = 0) (h0 : Keeps K s0 s) :
    Keeps K s0 (clearTags p s) := by
  refine keeps_maps h0 id (fun w => ?_) (fun _ => rfl) (fun b => keeps_no hK rfl b)
  have := (tilesWf_iff _ _).1 w
  exact (tilesWf_iff _ _).2 ⟨sparseWf_filter _ _ _ this.1, this.2⟩

theorem clearTile_keeps (d : ℕ) (e : ℕ) {s : State} (hK : K &&& 514 = 0) (h0 : Keeps K s0 s) :
    Keeps K s0 (clearTile d e s) := by
  refine keeps_maps h0 (sparseWf_filter _ _ _) (fun w => ?_) (fun b => keeps_no hK rfl b) (fun b => keeps_no hK rfl b)
  have := (tilesWf_iff _ _).1 w
  exact (tilesWf_iff _ _).2 ⟨sparseWf_filter _ _ _ this.1, sparseWf_filter _ _ _ this.2⟩

theorem storeDev_keeps (a : ℕ) (bytes : List Sys2Proof.Byte) (part : ℕ) {s : State} (hK : K &&& 6151 = 0) (h0 : Keeps K s0 s) :
    KeepsP K s0 (storeDev a bytes part s) := by
  unfold storeDev
  repeat' first
    | with_reducible assumption
    | ((with_reducible refine keeps_sub hK ?_); rfl)
    | intro x
    | with_reducible first
      | apply recordAt_keeps
      | apply bump_keeps
      | apply memWrite_keeps
      | exact keepsP_get (by assumption)
      | refine keepsP_eq ?_ (by assumption)
    | split
    | with_reducible apply keepsP_mk

theorem tileReadCount_keeps (d : ℕ) (e : ℕ) (p : ℕ) (off : ℕ) (n : ℕ) {s : State} (hK : K &&& 1 = 0) (h0 : Keeps K s0 s) :
    Keeps K s0 (tileReadCount d e p off n s) := by
  unfold tileReadCount
  repeat' first
    | with_reducible assumption
    | ((with_reducible refine keeps_sub hK ?_); rfl)
    | intro x
    | with_reducible apply bump_keeps

theorem writeUnit_keeps (d : ℕ) (e : ℕ) (off : ℕ) {s : State} (hK : K &&& 514 = 0) (h0 : Keeps K s0 s) :
    Keeps K s0 (writeUnit d e off s) := by
  unfold writeUnit
  refine keeps_ite h0 (memWrite_keeps _ _ (keeps_sub hK rfl) (keeps_maps h0 id (fun w => ?_) (fun _ => rfl) (fun b => keeps_no hK rfl b)))
  have := (tilesWf_iff _ _).1 w
  exact (tilesWf_iff _ _).2 ⟨this.1, sparseWf_put _ _ _ _ this.2⟩

theorem tileWrite_keeps (d : ℕ) (e : ℕ) (p : ℕ) (off : ℕ) (bytes : List Sys2Proof.Byte) {s : State} (hK : K &&& 514 = 0) (h0 : Keeps K s0 s) :
    Keeps K s0 (tileWrite d e p off bytes s) := by
  unfold tileWrite
  repeat' first
    | with_reducible assumption
    | ((with_reducible refine keeps_sub hK ?_); rfl)
    | (intro x; first
      | (refine (?_ : Keeps K s0 x → _) ?_; on_goal 1 => (intro hx; clear_value x)
         on_goal 2 => unfold x)
      | clear_value x
      | skip)
    | fail_if_no_progress lift_lets
    | with_reducible first
      | apply keeps_foldl
      | apply claimSeg_keeps
      | apply writeUnit_keeps
      | apply memWrite_keeps

end Sys2Proof.Machine
end

