-- ==== Sys2Proof/Laws/KeepsRuns.lean ====
section
/-! SUPPORT. What the operations of Machine/Runs.lean keep. -/

namespace Sys2Proof.Machine

open Sys2Proof

variable {K : Nat} {s0 : State}

theorem abandonSpectral_keeps (d : ℕ) {s : State} (hK : K &&& 1 = 0) (h0 : Keeps K s0 s) :
    Keeps K s0 (abandonSpectral d s) := by
  unfold abandonSpectral
  repeat' first
    | with_reducible assumption
    | ((with_reducible refine keeps_sub hK ?_); rfl)
    | with_reducible first
      | apply setF_keeps
      | apply bump_keeps

theorem addRun_keeps (r : Sys2Proof.Machine.StrokeRun) {s : State} (hK : K &&& 32 = 0) (h0 : Keeps K s0 s) :
    Keeps K s0 (addRun r s) := by
  unfold addRun
  repeat' first
    | with_reducible assumption
    | ((with_reducible refine keeps_sub hK ?_); rfl)
    | intro x
    | (with_reducible apply keeps_mk; case hr => rfl)
    | ((with_reducible refine keeps_no hK ?_ (by assumption)); rfl)
    | rfl
    | exact Nat.le_refl _
    | (simp; done)

theorem tearApply_keeps (d : ℕ) (w : Sys2Proof.Machine.Work) {s : State} (hK : K &&& 1 = 0) (h0 : Keeps K s0 s) :
    Keeps K s0 (tearApply d w s) := by
  unfold tearApply
  repeat' first
    | with_reducible assumption
    | ((with_reducible refine keeps_sub hK ?_); rfl)
    | intro x
    | with_reducible first
      | apply keeps_ite
      | apply keeps_foldl
      | apply setFi_keeps
    | split

theorem pushEntry_keeps (d : ℕ) (k : ℕ) (e : Sys2Proof.Machine.ResEntry) {s : State} (hK : K &&& 64 = 0) (h0 : Keeps K s0 s) :
    Keeps K s0 (pushEntry d k e s) := by
  unfold pushEntry
  repeat' first
    | with_reducible assumption
    | ((with_reducible refine keeps_sub hK ?_); rfl)
    | intro x
    | with_reducible apply modDie_keeps
    | (with_reducible apply keeps_mk; case hr => rfl)
    | ((with_reducible refine keeps_no hK ?_ (by assumption)); rfl)
    | rfl
    | exact Nat.le_refl _
    | (simp; done)

theorem postDiscard_keeps (d : ℕ) (k : ℕ) (status : ℕ) (w : Sys2Proof.Machine.Work) {s : State} (hK : K &&& 64 = 0) (h0 : Keeps K s0 s) :
    Keeps K s0 (postDiscard d k status w s) := by
  unfold postDiscard
  repeat' first
    | with_reducible assumption
    | ((with_reducible refine keeps_sub hK ?_); rfl)
    | with_reducible first
      | apply keeps_ite
      | apply pushEntry_keeps
    | split

theorem modCtx_keeps (d : ℕ) (idx : ℕ) (bar : ℕ) (f : Sys2Proof.Machine.Ctx → Sys2Proof.Machine.Ctx) {s : State} (hK : K &&& 64 = 0) (h0 : Keeps K s0 s) :
    Keeps K s0 (modCtx d idx bar f s) := by
  unfold modCtx
  repeat' first
    | with_reducible assumption
    | ((with_reducible refine keeps_sub hK ?_); rfl)
    | intro x
    | with_reducible first
      | apply keeps_ite
      | apply modDie_keeps
    | split
    | (with_reducible apply keeps_mk; case hr => rfl)
    | ((with_reducible refine keeps_no hK ?_ (by assumption)); rfl)
    | rfl
    | exact Nat.le_refl _
    | (simp; done)

theorem modRun_keeps (idx : ℕ) (bar : ℕ) (f : Sys2Proof.Machine.StrokeRun → Sys2Proof.Machine.StrokeRun) {s : State} (hK : K &&& 32 = 0) (h0 : Keeps K s0 s) :
    Keeps K s0 (modRun idx bar f s) := by
  unfold modRun
  repeat' first
    | with_reducible assumption
    | ((with_reducible refine keeps_sub hK ?_); rfl)
    | intro x
    | with_reducible apply keeps_ite
    | split
    | (with_reducible apply keeps_mk; case hr => rfl)
    | ((with_reducible refine keeps_no hK ?_ (by assumption)); rfl)
    | rfl
    | exact Nat.le_refl _
    | (simp; done)

theorem chargeEngine_keeps (d : ℕ) (e : ℕ) (p : ℕ) {s : State} (hK : K &&& 320 = 0) (h0 : Keeps K s0 s) :
    Keeps K s0 (chargeEngine d e p s) := by
  unfold chargeEngine
  repeat' first
    | with_reducible assumption
    | ((with_reducible refine keeps_sub hK ?_); rfl)
    | intro x
    | with_reducible first
      | apply modEng_keeps
      | apply modCharge_keeps
    | (with_reducible apply keeps_mk; case hr => rfl)
    | ((with_reducible refine keeps_no hK ?_ (by assumption)); rfl)
    | rfl
    | exact Nat.le_refl _
    | (simp; done)

theorem leaveBrush_keeps (d : ℕ) (e : ℕ) {s : State} (hK : K &&& 321 = 0) (h0 : Keeps K s0 s) :
    Keeps K s0 (leaveBrush d e s) := by
  unfold leaveBrush
  repeat' first
    | with_reducible assumption
    | ((with_reducible refine keeps_sub hK ?_); rfl)
    | (intro x; first
      | (refine (?_ : Keeps K s0 x → _) ?_; on_goal 1 => (intro hx; clear_value x)
         on_goal 2 => unfold x)
      | clear_value x
      | skip)
    | fail_if_no_progress lift_lets
    | with_reducible first
      | apply modCharge_keeps
      | apply bump_keeps
      | apply modEng_keeps
    | split
    | (with_reducible apply keeps_mk; case hr => rfl)
    | ((with_reducible refine keeps_no hK ?_ (by assumption)); rfl)
    | rfl
    | exact Nat.le_refl _
    | (simp; done)

theorem showState_keeps (d : ℕ) (e : ℕ) {s : State} (hK : K &&& 1 = 0) (h0 : Keeps K s0 s) :
    Keeps K s0 (showState d e s) := by
  unfold showState
  repeat' first
    | with_reducible assumption
    | ((with_reducible refine keeps_sub hK ?_); rfl)
    | (intro x; first
      | (refine (?_ : Keeps K s0 x → _) ?_; on_goal 1 => (intro hx; clear_value x)
         on_goal 2 => unfold x)
      | clear_value x
      | skip)
    | fail_if_no_progress lift_lets
    | with_reducible first
      | apply keeps_ite
      | apply setF_keeps
      | apply showEng_keeps
    | split

theorem enterBrush_keeps (d : ℕ) (e : ℕ) (p : ℕ) {s : State} (hK : K &&& 321 = 0) (h0 : Keeps K s0 s) :
    Keeps K s0 (enterBrush d e p s) := by
  unfold enterBrush
  repeat' first
    | with_reducible assumption
    | ((with_reducible refine keeps_sub hK ?_); rfl)
    | (intro x; first
      | (refine (?_ : Keeps K s0 x → _) ?_; on_goal 1 => (intro hx; clear_value x)
         on_goal 2 => unfold x)
      | clear_value x
      | skip)
    | fail_if_no_progress lift_lets
    | with_reducible first
      | apply keeps_ite
      | apply leaveBrush_keeps
      | apply showState_keeps
      | apply modEng_keeps
    | split
    | (with_reducible apply keeps_mk; case hr => rfl)
    | ((with_reducible refine keeps_no hK ?_ (by assumption)); rfl)
    | rfl
    | exact Nat.le_refl _
    | (simp; done)

theorem settle_keeps (d : ℕ) (k : ℕ) (idx : ℕ) (bar : ℕ) {s : State} (hK : K &&& 353 = 0) (h0 : Keeps K s0 s) :
    Keeps K s0 (settle d k idx bar s) := by
  unfold settle
  repeat' first
    | with_reducible assumption
    | ((with_reducible refine keeps_sub hK ?_); rfl)
    | (intro x; first
      | (refine (?_ : Keeps K s0 x → _) ?_; on_goal 1 => (intro hx; clear_value x)
         on_goal 2 => unfold x)
      | clear_value x
      | skip)
    | fail_if_no_progress lift_lets
    | with_reducible first
      | apply keeps_ite
      | apply modRun_keeps
      | apply chargeEngine_keeps
      | apply enterBrush_keeps
      | apply showState_keeps
    | split
    | (with_reducible apply keeps_mk; case hr => rfl)
    | ((with_reducible refine keeps_no hK ?_ (by assumption)); rfl)
    | rfl
    | exact Nat.le_refl _
    | (simp; done)

theorem killOn_keeps (d : ℕ) (k : ℕ) (idx : ℕ) (bar : ℕ) (status : ℕ) {s : State} (hK : K &&& 353 = 0) (h0 : Keeps K s0 s) :
    Keeps K s0 (killOn d k idx bar status s) := by
  unfold killOn
  repeat' first
    | with_reducible assumption
    | ((with_reducible refine keeps_sub hK ?_); rfl)
    | (intro x; first
      | (refine (?_ : Keeps K s0 x → _) ?_; on_goal 1 => (intro hx; clear_value x)
         on_goal 2 => unfold x)
      | clear_value x
      | skip)
    | fail_if_no_progress lift_lets
    | with_reducible first
      | apply keeps_ite
      | apply keeps_foldl
      | apply abandonSpectral_keeps
      | apply tearApply_keeps
      | apply postDiscard_keeps
      | apply modEng_keeps
      | apply modCtx_keeps
      | apply showDispatch_keeps
      | apply settle_keeps
    | split
    | (with_reducible apply keeps_mk; case hr => rfl)
    | ((with_reducible refine keeps_no hK ?_ (by assumption)); rfl)
    | rfl
    | exact Nat.le_refl _
    | (simp; done)

theorem killRun_keeps (r : Sys2Proof.Machine.StrokeRun) (status : ℕ) {s : State} (hK : K &&& 353 = 0) (h0 : Keeps K s0 s) :
    Keeps K s0 (killRun r status s) := by
  unfold killRun
  repeat' first
    | with_reducible assumption
    | ((with_reducible refine keeps_sub hK ?_); rfl)
    | intro x
    | with_reducible first
      | apply keeps_foldl
      | apply killOn_keeps

theorem failRun_keeps (idx : ℕ) (bar : ℕ) {s : State} (hK : K &&& 32 = 0) (h0 : Keeps K s0 s) :
    Keeps K s0 (failRun idx bar s) := by
  unfold failRun
  repeat' first
    | with_reducible assumption
    | ((with_reducible refine keeps_sub hK ?_); rfl)
    | intro x
    | with_reducible apply modRun_keeps
    | (with_reducible apply keeps_mk; case hr => rfl)
    | ((with_reducible refine keeps_no hK ?_ (by assumption)); rfl)
    | rfl
    | exact Nat.le_refl _
    | (simp; done)

theorem reportByClass_keeps (r : Sys2Proof.Machine.StrokeRun) (code : ℕ) {s : State} (hK : K &&& 6149 = 0) (h0 : Keeps K s0 s) :
    Keeps K s0 (reportByClass r code s) := by
  unfold reportByClass
  repeat' first
    | with_reducible assumption
    | ((with_reducible refine keeps_sub hK ?_); rfl)
    | with_reducible first
      | apply keeps_ite
      | apply recordWarn_keeps
      | apply recordAt_keeps
    | split

theorem countMiss_keeps (r : Sys2Proof.Machine.StrokeRun) {s : State} (hK : K &&& 6149 = 0) (h0 : Keeps K s0 s) :
    Keeps K s0 (countMiss r s) := by
  unfold countMiss
  repeat' first
    | with_reducible assumption
    | ((with_reducible refine keeps_sub hK ?_); rfl)
    | with_reducible first
      | apply reportByClass_keeps
      | apply bumpI_keeps
      | apply bump_keeps

theorem voidFrom_keeps (p : ℕ) (idx : ℕ) {s : State} (hK : K &&& 32 = 0) (h0 : Keeps K s0 s) :
    Keeps K s0 (voidFrom p idx s) := by
  unfold voidFrom
  repeat' first
    | with_reducible assumption
    | ((with_reducible refine keeps_sub hK ?_); rfl)
    | intro x
    | with_reducible apply keeps_ite
    | split
    | (with_reducible apply keeps_mk; case hr => rfl)
    | ((with_reducible refine keeps_no hK ?_ (by assumption)); rfl)
    | rfl
    | exact Nat.le_refl _
    | (simp; done)

theorem completeRun_keeps (r : Sys2Proof.Machine.StrokeRun) {s : State} (hK : K &&& 6181 = 0) (h0 : Keeps K s0 s) :
    Keeps K s0 (completeRun r s) := by
  unfold completeRun
  repeat' first
    | with_reducible assumption
    | ((with_reducible refine keeps_sub hK ?_); rfl)
    | (intro x; first
      | (refine (?_ : Keeps K s0 x → _) ?_; on_goal 1 => (intro hx; clear_value x)
         on_goal 2 => unfold x)
      | clear_value x
      | skip)
    | fail_if_no_progress lift_lets
    | with_reducible first
      | apply keeps_ite
      | apply countMiss_keeps
      | apply modRun_keeps
      | apply voidFrom_keeps
    | split
    | (with_reducible apply keeps_mk; case hr => rfl)
    | ((with_reducible refine keeps_no hK ?_ (by assumption)); rfl)
    | rfl
    | exact Nat.le_refl _
    | (simp; done)

theorem unhold_keeps (p : ℕ) {s : State} (hK : K &&& 32 = 0) (h0 : Keeps K s0 s) :
    Keeps K s0 (unhold p s) := by
  unfold unhold
  repeat' first
    | with_reducible assumption
    | ((with_reducible refine keeps_sub hK ?_); rfl)
    | (intro x; first
      | (refine (?_ : Keeps K s0 x → _) ?_; on_goal 1 => (intro hx; clear_value x)
         on_goal 2 => unfold x)
      | clear_value x
      | skip)
    | fail_if_no_progress lift_lets
    | (with_reducible apply keeps_mk; case hr => rfl)
    | ((with_reducible refine keeps_no hK ?_ (by assumption)); rfl)
    | rfl
    | exact Nat.le_refl _
    | (simp; done)

theorem partitionFault_keeps (p : ℕ) (cause : ℕ) {s : State} (hK : K &&& 8165 = 0) (h0 : Keeps K s0 s) :
    Keeps K s0 (partitionFault p cause s) := by
  unfold partitionFault
  repeat' first
    | with_reducible assumption
    | ((with_reducible refine keeps_sub hK ?_); rfl)
    | (intro x; first
      | (refine (?_ : Keeps K s0 x → _) ?_; on_goal 1 => (intro hx; clear_value x)
         on_goal 2 => unfold x)
      | clear_value x
      | skip)
    | fail_if_no_progress lift_lets
    | with_reducible first
      | apply keeps_ite
      | apply keeps_foldl
      | apply bumpI_keeps
      | apply modCharge_keeps
      | apply setFi_keeps
      | apply killRun_keeps
      | apply failRun_keeps
      | apply completeRun_keeps
      | apply unhold_keeps
      | apply clearTags_keeps
      | apply recordPart_keeps
    | split
    | (with_reducible apply keeps_mk; case hr => rfl)
    | ((with_reducible refine keeps_no hK ?_ (by assumption)); rfl)
    | rfl
    | exact Nat.le_refl _
    | (simp; done)

theorem windowFault_keeps (p : ℕ) (a : ℕ) {s : State} (hK : K &&& 8165 = 0) (h0 : Keeps K s0 s) :
    Keeps K s0 (windowFault p a s) := by
  unfold windowFault
  repeat' first
    | with_reducible assumption
    | ((with_reducible refine keeps_sub hK ?_); rfl)
    | with_reducible first
      | apply partitionFault_keeps
      | apply recordAt_keeps

theorem dataRefusal_keeps (who : Sys2Proof.Agent) (wr : Bool) (a : ℕ) {s : State} (hK : K &&& 8165 = 0) (h0 : Keeps K s0 s) :
    KeepsO K s0 (dataRefusal who wr a s) := by
  unfold dataRefusal
  repeat' first
    | with_reducible assumption
    | ((with_reducible refine keeps_sub hK ?_); rfl)
    | intro x
    | with_reducible first
      | apply keeps_ite
      | apply keepsO_ite
      | apply keepsO_some
      | apply recordAt_keeps
      | apply windowFault_keeps
      | exact keepsO_none
    | split

theorem asMaster_keeps (p : Sys2Proof.Page) (off : ℕ) (who : Sys2Proof.Agent) (f : Sys2Proof.Machine.State → Sys2Proof.Machine.State) {s : State} (hK : K &&& 8165 = 0) (h0 : ∀ u0, Keeps K s0 u0 → Keeps K s0 (f u0)) (h1 : Keeps K s0 s) :
    Keeps K s0 (asMaster p off who f s) := by
  unfold asMaster
  dsimp only
  split
  · exact keepsO_get (dataRefusal_keeps _ _ _ (keeps_sub hK rfl) h1) (by assumption)
  · exact keeps_ite (recordAt_keeps _ _ _ _ (keeps_sub hK rfl) h1) (h0 _ h1)

theorem asGuarded_keeps (p : Sys2Proof.Page) (off : ℕ) (who : Sys2Proof.Agent) (f : Sys2Proof.Machine.State → Sys2Proof.Machine.State) {s : State} (hK : K &&& 8165 = 0) (h0 : ∀ u0, Keeps K s0 u0 → Keeps K s0 (f u0)) (h1 : Keeps K s0 s) :
    Keeps K s0 (asGuarded p off who f s) := by
  unfold asGuarded
  repeat' first
    | with_reducible assumption
    | ((with_reducible refine keeps_sub hK ?_); rfl)
    | intro x
    | with_reducible first
      | apply keeps_ite
      | apply recordAt_keeps
      | apply asMaster_keeps
      | apply h0
    | split

theorem countOverrun_keeps (r : Sys2Proof.Machine.StrokeRun) {s : State} (hK : K &&& 6533 = 0) (h0 : Keeps K s0 s) :
    Keeps K s0 (countOverrun r s) := by
  unfold countOverrun
  repeat' first
    | with_reducible assumption
    | ((with_reducible refine keeps_sub hK ?_); rfl)
    | (intro x; first
      | (refine (?_ : Keeps K s0 x → _) ?_; on_goal 1 => (intro hx; clear_value x)
         on_goal 2 => unfold x)
      | clear_value x
      | skip)
    | fail_if_no_progress lift_lets
    | with_reducible first
      | apply bumpI_keeps
      | apply bump_keeps
      | apply modCharge_keeps
      | apply reportByClass_keeps
    | (with_reducible apply keeps_mk; case hr => rfl)
    | ((with_reducible refine keeps_no hK ?_ (by assumption)); rfl)
    | rfl
    | exact Nat.le_refl _
    | (simp; done)

end Sys2Proof.Machine
end

