-- ==== Sys2Proof/Laws/KeepsTrackers.lean ====
section
/-! SUPPORT. What the operations of Machine/Trackers.lean keep. -/

namespace Sys2Proof.Machine

open Sys2Proof

variable {K : Nat} {s0 : State}

theorem modTrk_keeps (d : ℕ) (e : ℕ) (j : ℕ) (f : Sys2Proof.Machine.TrkSet → Sys2Proof.Machine.TrkSet) {s : State} (hK : K &&& 64 = 0) (h0 : Keeps K s0 s) :
    Keeps K s0 (modTrk d e j f s) := by
  unfold modTrk
  repeat' first
    | with_reducible assumption
    | ((with_reducible refine keeps_sub hK ?_); rfl)
    | intro x
    | with_reducible apply modEng_keeps
    | (with_reducible apply keeps_mk; case hr => rfl)
    | ((with_reducible refine keeps_no hK ?_ (by assumption)); rfl)
    | rfl
    | exact Nat.le_refl _
    | (simp; done)

theorem addPending_keeps (d : ℕ) (e : ℕ) (j : ℕ) (fmt : ℕ) (o : Sys2Proof.Machine.OutAcc) {s : State} (hK : K &&& 64 = 0) (h0 : Keeps K s0 s) :
    Keeps K s0 (addPending d e j fmt o s) := by
  unfold addPending
  repeat' first
    | with_reducible assumption
    | ((with_reducible refine keeps_sub hK ?_); rfl)
    | intro x
    | with_reducible first
      | apply keeps_ite
      | apply modTrk_keeps
    | split
    | (with_reducible apply keeps_mk; case hr => rfl)
    | ((with_reducible refine keeps_no hK ?_ (by assumption)); rfl)
    | rfl
    | exact Nat.le_refl _
    | (simp; done)

theorem initSet_keeps (d : ℕ) (j : ℕ) {s : State} (hK : K &&& 64 = 0) (h0 : Keeps K s0 s) :
    Keeps K s0 (initSet d j s) := by
  unfold initSet
  repeat' first
    | with_reducible assumption
    | ((with_reducible refine keeps_sub hK ?_); rfl)
    | intro x
    | with_reducible first
      | apply keeps_foldl
      | apply modTrk_keeps

theorem loadSet_keeps (d : ℕ) (e : ℕ) (j : ℕ) (part : ℕ) (init : List Sys2Proof.Word) {s : State} (hK : K &&& 6213 = 0) (h0 : Keeps K s0 s) :
    Keeps K s0 (loadSet d e j part init s) := by
  unfold loadSet
  repeat' first
    | with_reducible assumption
    | ((with_reducible refine keeps_sub hK ?_); rfl)
    | (intro x; first
      | (refine (?_ : Keeps K s0 x → _) ?_; on_goal 1 => (intro hx; clear_value x)
         on_goal 2 => unfold x)
      | clear_value x
      | skip)
    | fail_if_no_progress lift_lets
    | with_reducible first
      | apply keeps_ite
      | apply recordPart_keeps
      | apply modTrk_keeps
    | split
    | (with_reducible apply keeps_mk; case hr => rfl)
    | ((with_reducible refine keeps_no hK ?_ (by assumption)); rfl)
    | rfl
    | exact Nat.le_refl _
    | (simp; done)

theorem reqTrackerInit_keeps (d : ℕ) (mask : ℕ) {s : State} (hK : K &&& 1 = 0) (h0 : Keeps K s0 s) :
    Keeps K s0 (reqTrackerInit d mask s) := by
  unfold reqTrackerInit
  repeat' first
    | with_reducible assumption
    | ((with_reducible refine keeps_sub hK ?_); rfl)
    | with_reducible apply setF_keeps

theorem updateDieSet_keeps (d : ℕ) (j : ℕ) {s : State} (hK : K &&& 64 = 0) (h0 : Keeps K s0 s) :
    Keeps K s0 (updateDieSet d j s) := by
  unfold updateDieSet
  repeat' first
    | with_reducible assumption
    | ((with_reducible refine keeps_sub hK ?_); rfl)
    | (intro x; first
      | (refine (?_ : Keeps K s0 x → _) ?_; on_goal 1 => (intro hx; clear_value x)
         on_goal 2 => unfold x)
      | clear_value x
      | skip)
    | fail_if_no_progress lift_lets
    | with_reducible first
      | apply keeps_ite
      | apply keeps_foldl
      | apply modTrk_keeps
    | split
    | (with_reducible apply keeps_mk; case hr => rfl)
    | ((with_reducible refine keeps_no hK ?_ (by assumption)); rfl)
    | rfl
    | exact Nat.le_refl _
    | (simp; done)

theorem trackerBoundary_keeps (d : ℕ) {s : State} (hK : K &&& 6213 = 0) (h0 : Keeps K s0 s) :
    Keeps K s0 (trackerBoundary d s) := by
  unfold trackerBoundary
  repeat' first
    | with_reducible assumption
    | ((with_reducible refine keeps_sub hK ?_); rfl)
    | (intro x; first
      | (refine (?_ : Keeps K s0 x → _) ?_; on_goal 1 => (intro hx; clear_value x)
         on_goal 2 => unfold x)
      | clear_value x
      | skip)
    | fail_if_no_progress lift_lets
    | with_reducible first
      | apply keeps_ite
      | apply keeps_foldl
      | apply modDie_keeps
      | apply setF_keeps
      | apply record_keeps
      | apply raiseBit_keeps
      | apply initSet_keeps
      | apply updateDieSet_keeps
    | split
    | (with_reducible apply keeps_mk; case hr => rfl)
    | ((with_reducible refine keeps_no hK ?_ (by assumption)); rfl)
    | rfl
    | exact Nat.le_refl _
    | (simp; done)

end Sys2Proof.Machine
end

