-- ==== Sys2Proof/Laws/KeepsEngines.lean ====
section
/-! SUPPORT. What the operations of Machine/Engines.lean keep. -/

namespace Sys2Proof.Machine

open Sys2Proof

variable {K : Nat} {s0 : State}

theorem advanceCfgGen_keeps  {s : State} (hK : K &&& 1 = 0) (h0 : Keeps K s0 s) :
    Keeps K s0 (advanceCfgGen s) := by
  unfold advanceCfgGen
  repeat' first
    | with_reducible assumption
    | ((with_reducible refine keeps_sub hK ?_); rfl)
    | with_reducible apply setF_keeps

theorem chargeDesc_keeps (w : Sys2Proof.Machine.Who) (accs : List Sys2Proof.Machine.MemAcc) {s : State} (hK : K &&& 257 = 0) (h0 : Keeps K s0 s) :
    Keeps K s0 (chargeDesc w accs s) := by
  unfold chargeDesc
  repeat' first
    | with_reducible assumption
    | ((with_reducible refine keeps_sub hK ?_); rfl)
    | (intro x; first
      | (refine (?_ : Keeps K s0 x → _) ?_; on_goal 1 => (intro hx; clear_value x)
         on_goal 2 => unfold x)
      | clear_value x
      | skip)
    | fail_if_no_progress lift_lets
    | with_reducible first
      | apply keeps_ite
      | apply keeps_foldl
      | apply chargeAccs_keeps
      | apply tileReadCount_keeps
    | split

theorem countOut_keeps (w : Sys2Proof.Machine.Who) (k : Sys2Proof.Machine.Work) (o : Sys2Proof.Machine.KOut) {s : State} (hK : K &&& 6149 = 0) (h0 : Keeps K s0 s) :
    Keeps K s0 (countOut w k o s) := by
  unfold countOut
  repeat' first
    | with_reducible assumption
    | ((with_reducible refine keeps_sub hK ?_); rfl)
    | (intro x; first
      | (refine (?_ : Keeps K s0 x → _) ?_; on_goal 1 => (intro hx; clear_value x)
         on_goal 2 => unfold x)
      | clear_value x
      | skip)
    | fail_if_no_progress lift_lets
    | with_reducible first
      | apply keeps_ite
      | apply recordPart_keeps
      | apply raiseBit_keeps
      | apply bump_keeps
      | apply setF_keeps
    | split

theorem storeOut_keeps (w : Sys2Proof.Machine.Who) (o : Sys2Proof.Machine.KOut) {s : State} (hK : K &&& 6663 = 0) (h0 : Keeps K s0 s) :
    Keeps K s0 (storeOut w o s) := by
  unfold storeOut
  repeat' first
    | with_reducible assumption
    | ((with_reducible refine keeps_sub hK ?_); rfl)
    | (intro x; first
      | (refine (?_ : Keeps K s0 x → _) ?_; on_goal 1 => (intro hx; clear_value x)
         on_goal 2 => unfold x)
      | (refine (?_ : KeepsP K s0 x → _) ?_; on_goal 1 => (intro hx; clear_value x)
         on_goal 2 => unfold x)
      | clear_value x
      | skip)
    | fail_if_no_progress lift_lets
    | with_reducible first
      | apply keeps_ite
      | apply keeps_foldl
      | apply keepsP_ite
      | apply keepsP_foldl
      | apply tileWrite_keeps
      | apply storeDev_keeps
      | exact keepsP_get (by assumption)
      | refine keepsP_eq ?_ (by assumption)
      | refine keepsP_get (p := storeDev _ _ _ _) ?_
    | split
    | with_reducible apply keepsP_mk
    | (with_reducible apply keeps_mk; case hr => rfl)
    | ((with_reducible refine keeps_no hK ?_ (by assumption)); rfl)
    | rfl
    | exact Nat.le_refl _
    | (simp; done)

theorem noteApplied_keeps (g : ℕ) {s : State} (hK : K &&& 131072 = 0) (h0 : Keeps K s0 s) :
    Keeps K s0 (noteApplied g s) := by
  unfold noteApplied
  repeat' first
    | with_reducible assumption
    | ((with_reducible refine keeps_sub hK ?_); rfl)
    | intro x
    | (with_reducible apply keeps_mk; case hr => rfl)
    | ((with_reducible refine keeps_no hK ?_ (by assumption)); rfl)
    | rfl
    | exact Nat.le_refl _
    | (simp; done)

theorem spectralDone_keeps (d : ℕ) (clocks : ℕ) (raw : List Sys2Proof.Byte) {s : State} (hK : K &&& 1 = 0) (h0 : Keeps K s0 s) :
    Keeps K s0 (spectralDone d clocks raw s) := by
  unfold spectralDone
  repeat' first
    | with_reducible assumption
    | ((with_reducible refine keeps_sub hK ?_); rfl)
    | (intro x; first
      | (refine (?_ : Keeps K s0 x → _) ?_; on_goal 1 => (intro hx; clear_value x)
         on_goal 2 => unfold x)
      | clear_value x
      | skip)
    | fail_if_no_progress lift_lets
    | with_reducible first
      | apply setF_keeps
      | apply bump_keeps

theorem countWork_keeps (w : Sys2Proof.Machine.Who) (clocks : ℕ) {s : State} (hK : K &&& 257 = 0) (h0 : Keeps K s0 s) :
    Keeps K s0 (countWork w clocks s) := by
  unfold countWork
  repeat' first
    | with_reducible assumption
    | ((with_reducible refine keeps_sub hK ?_); rfl)
    | intro x
    | with_reducible apply bump_keeps
    | (with_reducible apply keeps_mk; case hr => rfl)
    | ((with_reducible refine keeps_no hK ?_ (by assumption)); rfl)
    | rfl
    | exact Nat.le_refl _
    | (simp; done)

theorem popQueue_keeps (d : ℕ) (e : ℕ) {s : State} (hK : K &&& 65 = 0) (h0 : Keeps K s0 s) :
    Keeps K s0 (popQueue d e s) := by
  unfold popQueue
  repeat' first
    | with_reducible assumption
    | ((with_reducible refine keeps_sub hK ?_); rfl)
    | intro x
    | with_reducible first
      | apply showState_keeps
      | apply modEng_keeps
    | (with_reducible apply keeps_mk; case hr => rfl)
    | ((with_reducible refine keeps_no hK ?_ (by assumption)); rfl)
    | rfl
    | exact Nat.le_refl _
    | (simp; done)

theorem completeDesc_keeps (w : Sys2Proof.Machine.Who) (k : ℕ) (x : Sys2Proof.Machine.Work) (clocks : ℕ) {s : State} (hK : K &&& 138087 = 0) (h0 : Keeps K s0 s) :
    Keeps K s0 (completeDesc w k x clocks s) := by
  unfold completeDesc
  repeat' first
    | with_reducible assumption
    | ((with_reducible refine keeps_sub hK ?_); rfl)
    | (intro x; first
      | (refine (?_ : Keeps K s0 x → _) ?_; on_goal 1 => (intro hx; clear_value x)
         on_goal 2 => unfold x)
      | clear_value x
      | skip)
    | fail_if_no_progress lift_lets
    | with_reducible first
      | apply keeps_ite
      | apply countOut_keeps
      | apply storeOut_keeps
      | apply chargeDesc_keeps
      | apply addPending_keeps
      | apply pushEntry_keeps
      | apply raiseBit_keeps
      | apply bump_keeps
      | apply noteApplied_keeps
      | apply spectralDone_keeps
      | apply countWork_keeps
      | apply popQueue_keeps
      | apply modCtx_keeps
      | apply showDispatch_keeps
      | apply settle_keeps
    | split
    | (with_reducible apply keeps_mk; case hr => rfl)
    | ((with_reducible refine keeps_no hK ?_ (by assumption)); rfl)
    | rfl
    | exact Nat.le_refl _
    | (simp; done)

theorem failDesc_keeps (d : ℕ) (k : ℕ) (w : Sys2Proof.Machine.Work) {s : State} (hK : K &&& 353 = 0) (h0 : Keeps K s0 s) :
    Keeps K s0 (failDesc d k w s) := by
  unfold failDesc
  repeat' first
    | with_reducible assumption
    | ((with_reducible refine keeps_sub hK ?_); rfl)
    | (intro x; first
      | (refine (?_ : Keeps K s0 x → _) ?_; on_goal 1 => (intro hx; clear_value x)
         on_goal 2 => unfold x)
      | clear_value x
      | skip)
    | fail_if_no_progress lift_lets
    | with_reducible first
      | apply tearApply_keeps
      | apply postDiscard_keeps
      | apply showDispatch_keeps
      | apply settle_keeps
      | apply failRun_keeps

theorem popList_keeps (d : ℕ) (idx : ℕ) (bar : ℕ) {s : State} (hK : K &&& 64 = 0) (h0 : Keeps K s0 s) :
    Keeps K s0 (popList d idx bar s) := by
  unfold popList
  repeat' first
    | with_reducible assumption
    | ((with_reducible refine keeps_sub hK ?_); rfl)
    | intro x
    | with_reducible apply modCtx_keeps
    | (with_reducible apply keeps_mk; case hr => rfl)
    | ((with_reducible refine keeps_no hK ?_ (by assumption)); rfl)
    | rfl
    | exact Nat.le_refl _
    | (simp; done)

theorem enqueue_keeps (d : ℕ) (e : ℕ) (w : Sys2Proof.Machine.Work) {s : State} (hK : K &&& 137285 = 0) (h0 : Keeps K s0 s) :
    Keeps K s0 (enqueue d e w s) := by
  unfold enqueue
  repeat' first
    | with_reducible assumption
    | ((with_reducible refine keeps_sub hK ?_); rfl)
    | (intro x; first
      | (refine (?_ : Keeps K s0 x → _) ?_; on_goal 1 => (intro hx; clear_value x)
         on_goal 2 => unfold x)
      | clear_value x
      | skip)
    | fail_if_no_progress lift_lets
    | with_reducible first
      | apply keeps_ite
      | apply loadSet_keeps
      | apply bump_keeps
      | apply showState_keeps
      | apply modEng_keeps
    | split
    | (with_reducible apply keeps_mk; case hr => rfl)
    | ((with_reducible refine keeps_no hK ?_ (by assumption)); rfl)
    | rfl
    | exact Nat.le_refl _
    | (simp; done)

theorem dispatchHead_keeps (d : ℕ) (c : Sys2Proof.Machine.Ctx) (didx : ℕ) (raw : List Sys2Proof.Byte) {s : State} (hK : K &&& 137573 = 0) (h0 : Keeps K s0 s) :
    Keeps K s0 (dispatchHead d c didx raw s) := by
  unfold dispatchHead
  repeat' first
    | with_reducible assumption
    | ((with_reducible refine keeps_sub hK ?_); rfl)
    | (intro x; first
      | (refine (?_ : Keeps K s0 x → _) ?_; on_goal 1 => (intro hx; clear_value x)
         on_goal 2 => unfold x)
      | clear_value x
      | skip)
    | fail_if_no_progress lift_lets
    | with_reducible first
      | apply keeps_ite
      | apply failDesc_keeps
      | apply popList_keeps
      | apply settle_keeps
      | apply bump_keeps
      | apply recordPart_keeps
      | apply showDispatch_keeps
      | apply enqueue_keeps
    | split
    | (with_reducible apply keeps_mk; case hr => rfl)
    | ((with_reducible refine keeps_no hK ?_ (by assumption)); rfl)
    | rfl
    | exact Nat.le_refl _
    | (simp; done)

theorem loseEngine_keeps (d : ℕ) (k : ℕ) {s : State} (hK : K &&& 353 = 0) (h0 : Keeps K s0 s) :
    Keeps K s0 (loseEngine d k s) := by
  unfold loseEngine
  repeat' first
    | with_reducible assumption
    | ((with_reducible refine keeps_sub hK ?_); rfl)
    | intro x
    | with_reducible first
      | apply keeps_foldl
      | apply killOn_keeps
      | apply failRun_keeps

theorem dropWork_keeps (d : ℕ) (e : ℕ) {s : State} (hK : K &&& 353 = 0) (h0 : Keeps K s0 s) :
    Keeps K s0 (dropWork d e s) := by
  unfold dropWork
  repeat' first
    | with_reducible assumption
    | ((with_reducible refine keeps_sub hK ?_); rfl)
    | intro x
    | with_reducible first
      | apply leaveBrush_keeps
      | apply loseEngine_keeps
    | split

theorem showSpareLeft_keeps (d : ℕ) {s : State} (hK : K &&& 1 = 0) (h0 : Keeps K s0 s) :
    Keeps K s0 (showSpareLeft d s) := by
  unfold showSpareLeft
  repeat' first
    | with_reducible assumption
    | ((with_reducible refine keeps_sub hK ?_); rfl)
    | with_reducible apply setF_keeps

theorem markBad_keeps (d : ℕ) (e : ℕ) {s : State} (hK : K &&& 6149 = 0) (h0 : Keeps K s0 s) :
    Keeps K s0 (markBad d e s) := by
  unfold markBad
  repeat' first
    | with_reducible assumption
    | ((with_reducible refine keeps_sub hK ?_); rfl)
    | (intro x; first
      | (refine (?_ : Keeps K s0 x → _) ?_; on_goal 1 => (intro hx; clear_value x)
         on_goal 2 => unfold x)
      | clear_value x
      | skip)
    | fail_if_no_progress lift_lets
    | with_reducible first
      | apply setF_keeps
      | apply showSpareLeft_keeps
      | apply journal_keeps

theorem vacateSlot_keeps (d : ℕ) (e : ℕ) (k : Option ℕ) {s : State} (hK : K &&& 6213 = 0) (h0 : Keeps K s0 s) :
    Keeps K s0 (vacateSlot d e k s) := by
  unfold vacateSlot
  repeat' first
    | with_reducible assumption
    | ((with_reducible refine keeps_sub hK ?_); rfl)
    | (intro x; first
      | (refine (?_ : Keeps K s0 x → _) ?_; on_goal 1 => (intro hx; clear_value x)
         on_goal 2 => unfold x)
      | clear_value x
      | skip)
    | fail_if_no_progress lift_lets
    | with_reducible first
      | apply keeps_ite
      | apply modEng_keeps
      | apply setF_keeps
      | apply modDie_keeps
      | apply markBad_keeps
    | split
    | (with_reducible apply keeps_mk; case hr => rfl)
    | ((with_reducible refine keeps_no hK ?_ (by assumption)); rfl)
    | rfl
    | exact Nat.le_refl _
    | (simp; done)

theorem showSubst_keeps (d : ℕ) {s : State} (hK : K &&& 1 = 0) (h0 : Keeps K s0 s) :
    Keeps K s0 (showSubst d s) := by
  unfold showSubst
  repeat' first
    | with_reducible assumption
    | ((with_reducible refine keeps_sub hK ?_); rfl)
    | intro x
    | with_reducible apply setF_keeps
    | split

theorem substitute_keeps (d : ℕ) (k : ℕ) {s : State} (hK : K &&& 6245 = 0) (h0 : Keeps K s0 s) :
    Keeps K s0 (substitute d k s) := by
  unfold substitute
  repeat' first
    | with_reducible assumption
    | ((with_reducible refine keeps_sub hK ?_); rfl)
    | (intro x; first
      | (refine (?_ : Keeps K s0 x → _) ?_; on_goal 1 => (intro hx; clear_value x)
         on_goal 2 => unfold x)
      | clear_value x
      | skip)
    | fail_if_no_progress lift_lets
    | with_reducible first
      | apply modDie_keeps
      | apply setF_keeps
      | apply showSpareLeft_keeps
      | apply showSubst_keeps
      | apply dieLeave_keeps
      | apply record_keeps
    | split
    | (with_reducible apply keeps_mk; case hr => rfl)
    | ((with_reducible refine keeps_no hK ?_ (by assumption)); rfl)
    | rfl
    | exact Nat.le_refl _
    | (simp; done)

theorem loseSlot_keeps (d : ℕ) (e : ℕ) (cause : ℕ) {s : State} (hK : K &&& 6501 = 0) (h0 : Keeps K s0 s) :
    Keeps K s0 (loseSlot d e cause s) := by
  unfold loseSlot
  lift_lets
  intro part s1 s2 s3 k s4
  have h1 : Keeps K s0 s1 := setF_keeps _ _ _ (keeps_sub hK rfl) h0
  have h2 : Keeps K s0 s2 := keeps_ite (recordPart_keeps _ _ _ (keeps_sub hK rfl) h1) h1
  have h3 : Keeps K s0 s3 := recordPart_keeps _ _ _ (keeps_sub hK rfl) h2
  have h4 : Keeps K s0 s4 := vacateSlot_keeps _ _ _ (keeps_sub hK rfl) (dropWork_keeps _ _ (keeps_sub hK rfl) h3)
  clear_value s4 k
  split
  · exact substitute_keeps _ _ (keeps_sub hK rfl) h4
  · exact h4

theorem engineFault_keeps (d : ℕ) (e : ℕ) (cause : ℕ) {s : State} (hK : K &&& 6501 = 0) (h0 : Keeps K s0 s) :
    Keeps K s0 (engineFault d e cause s) := by
  unfold engineFault
  repeat' first
    | with_reducible assumption
    | ((with_reducible refine keeps_sub hK ?_); rfl)
    | (intro x; first
      | (refine (?_ : Keeps K s0 x → _) ?_; on_goal 1 => (intro hx; clear_value x)
         on_goal 2 => unfold x)
      | clear_value x
      | skip)
    | fail_if_no_progress lift_lets
    | with_reducible first
      | apply keeps_ite
      | apply markBad_keeps
      | apply setF_keeps
      | apply loseSlot_keeps
    | split

theorem failRunning_keeps (w : Sys2Proof.Machine.Who) (k : ℕ) (x : Sys2Proof.Machine.Work) (code : ℕ) (a : ℕ) {s : State} (hK : K &&& 8165 = 0) (h0 : Keeps K s0 s) :
    Keeps K s0 (failRunning w k x code a s) := by
  unfold failRunning
  repeat' first
    | with_reducible assumption
    | ((with_reducible refine keeps_sub hK ?_); rfl)
    | (intro x; first
      | (refine (?_ : Keeps K s0 x → _) ?_; on_goal 1 => (intro hx; clear_value x)
         on_goal 2 => unfold x)
      | clear_value x
      | skip)
    | fail_if_no_progress lift_lets
    | with_reducible first
      | apply keeps_ite
      | apply popQueue_keeps
      | apply setF_keeps
      | apply bump_keeps
      | apply windowFault_keeps
      | apply recordAt_keeps
      | apply failDesc_keeps
    | split

theorem tryComplete_keeps (die : ℕ) (eng : ℕ) (clocks : ℕ) {s : State} (hK : K &&& 139239 = 0) (h0 : Keeps K s0 s) :
    Keeps K s0 (tryComplete die eng clocks s) := by
  unfold tryComplete
  repeat' first
    | with_reducible assumption
    | ((with_reducible refine keeps_sub hK ?_); rfl)
    | (intro x; first
      | (refine (?_ : Keeps K s0 x → _) ?_; on_goal 1 => (intro hx; clear_value x)
         on_goal 2 => unfold x)
      | clear_value x
      | skip)
    | fail_if_no_progress lift_lets
    | with_reducible first
      | apply keeps_ite
      | apply failRunning_keeps
      | apply countWork_keeps
      | apply bump_keeps
      | apply completeDesc_keeps
    | split
    | (with_reducible apply keeps_mk; case hr => rfl)
    | ((with_reducible refine keeps_no hK ?_ (by assumption)); rfl)
    | rfl
    | exact Nat.le_refl _
    | (simp; done)

theorem execDescriptorComplete_keeps (die : ℕ) (eng : ℕ) (clocks : ℕ) {s : State} (hK : K &&& 139239 = 0) (h0 : Keeps K s0 s) :
    KeepsX K s0 (execDescriptorComplete die eng clocks s) := by
  unfold execDescriptorComplete
  repeat' first
    | with_reducible assumption
    | ((with_reducible refine keeps_sub hK ?_); rfl)
    | with_reducible first
      | apply keepsX_next
      | apply tryComplete_keeps

theorem execDescriptorDispatch_keeps (die : ℕ) (ctx : ℕ) {s : State} (hK : K &&& 137573 = 0) (h0 : Keeps K s0 s) :
    KeepsX K s0 (execDescriptorDispatch die ctx s) := by
  unfold execDescriptorDispatch
  repeat' first
    | with_reducible assumption
    | ((with_reducible refine keeps_sub hK ?_); rfl)
    | intro x
    | with_reducible first
      | apply keeps_ite
      | apply keepsX_next
      | apply keepsX_ite
      | apply dispatchHead_keeps
      | apply bump_keeps
    | split

theorem execDescriptorFail_keeps (die : ℕ) (eng : ℕ) (code : ℕ) {s : State} (hK : K &&& 8165 = 0) (h0 : Keeps K s0 s) :
    KeepsX K s0 (execDescriptorFail die eng code s) := by
  unfold execDescriptorFail
  repeat' first
    | with_reducible assumption
    | ((with_reducible refine keeps_sub hK ?_); rfl)
    | (intro x; first
      | (refine (?_ : Keeps K s0 x → _) ?_; on_goal 1 => (intro hx; clear_value x)
         on_goal 2 => unfold x)
      | clear_value x
      | skip)
    | fail_if_no_progress lift_lets
    | with_reducible first
      | apply keeps_ite
      | apply keepsX_next
      | apply keepsX_ite
      | apply failRunning_keeps
      | apply bump_keeps
    | split
    | (with_reducible apply keeps_mk; case hr => rfl)
    | ((with_reducible refine keeps_no hK ?_ (by assumption)); rfl)
    | rfl
    | exact Nat.le_refl _
    | (simp; done)

theorem execEngTestDone_keeps (die : ℕ) (slot : ℕ) (pass : Bool) {s : State} (hK : K &&& 1 = 0) (h0 : Keeps K s0 s) :
    KeepsX K s0 (execEngTestDone die slot pass s) := by
  unfold execEngTestDone
  repeat' first
    | with_reducible assumption
    | ((with_reducible refine keeps_sub hK ?_); rfl)
    | with_reducible first
      | apply keeps_ite
      | apply keepsX_next
      | apply keepsX_ite
      | apply setF_keeps
    | split

theorem startEngTest_keeps (d : ℕ) (e : ℕ) {s : State} (hK : K &&& 1 = 0) (h0 : Keeps K s0 s) :
    Keeps K s0 (startEngTest d e s) := by
  unfold startEngTest
  repeat' first
    | with_reducible assumption
    | ((with_reducible refine keeps_sub hK ?_); rfl)
    | (intro x; first
      | (refine (?_ : Keeps K s0 x → _) ?_; on_goal 1 => (intro hx; clear_value x)
         on_goal 2 => unfold x)
      | clear_value x
      | skip)
    | fail_if_no_progress lift_lets
    | with_reducible first
      | apply keeps_ite
      | apply setF_keeps
    | split

theorem execEngTestRun_keeps (by_ : Sys2Proof.Agent) (die : ℕ) (slot : ℕ) {s : State} (hK : K &&& 8165 = 0) (h0 : Keeps K s0 s) :
    KeepsX K s0 (execEngTestRun by_ die slot s) := by
  unfold execEngTestRun
  repeat' first
    | with_reducible assumption
    | ((with_reducible refine keeps_sub hK ?_); rfl)
    | intro x
    | with_reducible first
      | apply keeps_ite
      | apply keepsX_next
      | apply keepsX_ite
      | apply asMaster_keeps
      | apply startEngTest_keeps
    | split

theorem execEngineFault_keeps (die : ℕ) (slot : ℕ) (cause : ℕ) {s : State} (hK : K &&& 6501 = 0) (h0 : Keeps K s0 s) :
    KeepsX K s0 (execEngineFault die slot cause s) := by
  unfold execEngineFault
  repeat' first
    | with_reducible assumption
    | ((with_reducible refine keeps_sub hK ?_); rfl)
    | with_reducible first
      | apply keeps_ite
      | apply keepsX_next
      | apply keepsX_ite
      | apply engineFault_keeps
    | split

theorem execLineWaitEnd_keeps (die : ℕ) (eng : ℕ) (clocks : ℕ) {s : State} (hK : K &&& 65 = 0) (h0 : Keeps K s0 s) :
    KeepsX K s0 (execLineWaitEnd die eng clocks s) := by
  unfold execLineWaitEnd
  repeat' first
    | with_reducible assumption
    | ((with_reducible refine keeps_sub hK ?_); rfl)
    | intro x
    | with_reducible first
      | apply keeps_ite
      | apply keepsX_next
      | apply keepsX_ite
      | apply bump_keeps
      | apply modEng_keeps
    | split
    | (with_reducible apply keeps_mk; case hr => rfl)
    | ((with_reducible refine keeps_no hK ?_ (by assumption)); rfl)
    | rfl
    | exact Nat.le_refl _
    | (simp; done)

theorem spareServes_keeps (d : ℕ) (e : ℕ) (k : ℕ) {s : State} (hK : K &&& 6213 = 0) (h0 : Keeps K s0 s) :
    Keeps K s0 (spareServes d e k s) := by
  unfold spareServes
  repeat' first
    | with_reducible assumption
    | ((with_reducible refine keeps_sub hK ?_); rfl)
    | (intro x; first
      | (refine (?_ : Keeps K s0 x → _) ?_; on_goal 1 => (intro hx; clear_value x)
         on_goal 2 => unfold x)
      | clear_value x
      | skip)
    | fail_if_no_progress lift_lets
    | with_reducible first
      | apply keeps_ite
      | apply modDie_keeps
      | apply journal_keeps
      | apply record_keeps
    | split
    | (with_reducible apply keeps_mk; case hr => rfl)
    | ((with_reducible refine keeps_no hK ?_ (by assumption)); rfl)
    | rfl
    | exact Nat.le_refl _
    | (simp; done)

theorem returnPassed_keeps (die : ℕ) (slot : ℕ) {s : State} (hK : K &&& 6727 = 0) (h0 : Keeps K s0 s) :
    Keeps K s0 (returnPassed die slot s) := by
  unfold returnPassed
  repeat' first
    | with_reducible assumption
    | ((with_reducible refine keeps_sub hK ?_); rfl)
    | (intro x; first
      | (refine (?_ : Keeps K s0 x → _) ?_; on_goal 1 => (intro hx; clear_value x)
         on_goal 2 => unfold x)
      | (refine (?_ : KeepsP K s0 x → _) ?_; on_goal 1 => (intro hx; clear_value x)
         on_goal 2 => unfold x)
      | (refine (?_ : KeepsT K s0 x → _) ?_; on_goal 1 => (intro hx; clear_value x)
         on_goal 2 => unfold x)
      | clear_value x
      | skip)
    | fail_if_no_progress lift_lets
    | with_reducible first
      | apply keeps_ite
      | apply keeps_foldl
      | apply keeps_id
      | apply clearTile_keeps
      | apply modEng_keeps
      | apply setF_keeps
      | apply spareServes_keeps
    | split
    | (with_reducible apply keeps_mk; case hr => rfl)
    | ((with_reducible refine keeps_no hK ?_ (by assumption)); rfl)
    | rfl
    | exact Nat.le_refl _
    | (simp; done)

theorem execReturnSequenceDone_keeps (die : ℕ) (slot : ℕ) (pass : Bool) {s : State} (hK : K &&& 7015 = 0) (h0 : Keeps K s0 s) :
    KeepsX K s0 (execReturnSequenceDone die slot pass s) := by
  unfold execReturnSequenceDone
  repeat' first
    | with_reducible assumption
    | ((with_reducible refine keeps_sub hK ?_); rfl)
    | with_reducible first
      | apply keeps_ite
      | apply keepsX_next
      | apply keepsX_ite
      | apply returnPassed_keeps
      | apply engineFault_keeps
    | split

theorem setSleepPend_keeps (d : ℕ) (v : ℕ) {s : State} (hK : K &&& 1 = 0) (h0 : Keeps K s0 s) :
    Keeps K s0 (setSleepPend d v s) := by
  unfold setSleepPend
  repeat' first
    | with_reducible assumption
    | ((with_reducible refine keeps_sub hK ?_); rfl)
    | (intro x; first
      | (refine (?_ : Keeps K s0 x → _) ?_; on_goal 1 => (intro hx; clear_value x)
         on_goal 2 => unfold x)
      | clear_value x
      | skip)
    | fail_if_no_progress lift_lets
    | with_reducible first
      | apply keeps_ite
      | apply keeps_foldl
      | apply setF_keeps
    | split

theorem writeSleepPend_keeps (die : ℕ) (v : ℕ) {s : State} (hK : K &&& 6149 = 0) (h0 : Keeps K s0 s) :
    Keeps K s0 (writeSleepPend die v s) := by
  unfold writeSleepPend
  repeat' first
    | with_reducible assumption
    | ((with_reducible refine keeps_sub hK ?_); rfl)
    | (intro x; first
      | (refine (?_ : Keeps K s0 x → _) ?_; on_goal 1 => (intro hx; clear_value x)
         on_goal 2 => unfold x)
      | clear_value x
      | skip)
    | fail_if_no_progress lift_lets
    | with_reducible first
      | apply keeps_ite
      | apply record_keeps
      | apply setSleepPend_keeps
      | apply advanceCfgGen_keeps
    | split

theorem execSleepPendWrite_keeps (by_ : Sys2Proof.Agent) (die : ℕ) (v : Sys2Proof.Word) {s : State} (hK : K &&& 8165 = 0) (h0 : Keeps K s0 s) :
    KeepsX K s0 (execSleepPendWrite by_ die v s) := by
  unfold execSleepPendWrite
  repeat' first
    | with_reducible assumption
    | ((with_reducible refine keeps_sub hK ?_); rfl)
    | intro x
    | with_reducible first
      | apply keeps_ite
      | apply keepsX_next
      | apply keepsX_ite
      | apply asMaster_keeps
      | apply writeSleepPend_keeps
    | split

theorem execSpareSelfTest_keeps (die : ℕ) (slot : ℕ) (pass : Bool) {s : State} (hK : K &&& 6149 = 0) (h0 : Keeps K s0 s) :
    KeepsX K s0 (execSpareSelfTest die slot pass s) := by
  unfold execSpareSelfTest
  repeat' first
    | with_reducible assumption
    | ((with_reducible refine keeps_sub hK ?_); rfl)
    | with_reducible first
      | apply keeps_ite
      | apply keepsX_next
      | apply keepsX_ite
      | apply markBad_keeps
      | apply setF_keeps
    | split

theorem execSpecEcc_keeps (die : ℕ) {s : State} (hK : K &&& 6501 = 0) (h0 : Keeps K s0 s) :
    KeepsX K s0 (execSpecEcc die s) := by
  unfold execSpecEcc
  repeat' first
    | with_reducible assumption
    | ((with_reducible refine keeps_sub hK ?_); rfl)
    | (intro x; first
      | (refine (?_ : Keeps K s0 x → _) ?_; on_goal 1 => (intro hx; clear_value x)
         on_goal 2 => unfold x)
      | (refine (?_ : KeepsP K s0 x → _) ?_; on_goal 1 => (intro hx; clear_value x)
         on_goal 2 => unfold x)
      | (refine (?_ : KeepsT K s0 x → _) ?_; on_goal 1 => (intro hx; clear_value x)
         on_goal 2 => unfold x)
      | clear_value x
      | skip)
    | fail_if_no_progress lift_lets
    | with_reducible first
      | apply keeps_ite
      | apply keeps_foldl
      | apply keeps_id
      | apply keepsX_next
      | apply keepsX_ite
      | apply recordPart_keeps
      | apply abandonSpectral_keeps
      | apply failDesc_keeps
      | apply popQueue_keeps
    | split
    | (with_reducible apply keeps_mk; case hr => rfl)
    | ((with_reducible refine keeps_no hK ?_ (by assumption)); rfl)
    | rfl
    | exact Nat.le_refl _
    | (simp; done)

theorem execSpectralHandoff_keeps (die : ℕ) (eng : ℕ) {s : State} (hK : K &&& 65 = 0) (h0 : Keeps K s0 s) :
    KeepsX K s0 (execSpectralHandoff die eng s) := by
  unfold execSpectralHandoff
  repeat' first
    | with_reducible assumption
    | ((with_reducible refine keeps_sub hK ?_); rfl)
    | intro x
    | with_reducible first
      | apply keeps_ite
      | apply keepsX_next
      | apply keepsX_ite
      | apply setF_keeps
      | apply modEng_keeps
    | split
    | (with_reducible apply keeps_mk; case hr => rfl)
    | ((with_reducible refine keeps_no hK ?_ (by assumption)); rfl)
    | rfl
    | exact Nat.le_refl _
    | (simp; done)

theorem execTrackerInitRequest_keeps (by_ : Sys2Proof.Agent) (die : ℕ) (mask : Sys2Proof.Word) {s : State} (hK : K &&& 8165 = 0) (h0 : Keeps K s0 s) :
    KeepsX K s0 (execTrackerInitRequest by_ die mask s) := by
  unfold execTrackerInitRequest
  repeat' first
    | with_reducible assumption
    | ((with_reducible refine keeps_sub hK ?_); rfl)
    | intro x
    | with_reducible first
      | apply keeps_ite
      | apply keepsX_next
      | apply keepsX_ite
      | apply asMaster_keeps
      | apply reqTrackerInit_keeps
    | split

end Sys2Proof.Machine
end

