-- ==== Sys2Proof/Laws/KeepsLinks.lean ====
section
/-! SUPPORT. What the operations of Machine/Links.lean keep. -/

namespace Sys2Proof.Machine

open Sys2Proof

variable {K : Nat} {s0 : State}

theorem assignIdentity_keeps (p : ℕ) (r : Sys2Proof.DieReply) {s : State} (hK : K &&& 1 = 0) (h0 : Keeps K s0 s) :
    Keeps K s0 (assignIdentity p r s) := by
  unfold assignIdentity
  repeat' first
    | with_reducible assumption
    | ((with_reducible refine keeps_sub hK ?_); rfl)
    | (intro x; first
      | (refine (?_ : Keeps K s0 x → _) ?_; on_goal 1 => (intro hx; clear_value x)
         on_goal 2 => unfold x)
      | clear_value x
      | skip)
    | fail_if_no_progress lift_lets
    | with_reducible first
      | apply keeps_ite
      | apply setPortF_keeps
      | apply setF_keeps
      | apply set64_keeps
    | split

theorem bootStop_keeps (stage : ℕ) {s : State} (hK : K &&& 1 = 0) (h0 : Keeps K s0 s) :
    Keeps K s0 (bootStop stage s) := by
  unfold bootStop
  repeat' first
    | with_reducible assumption
    | ((with_reducible refine keeps_sub hK ?_); rfl)
    | with_reducible apply setF_keeps

theorem writeCensus_keeps (p : ℕ) (r : Sys2Proof.DieReply) {s : State} (hK : K &&& 4096 = 0) (h0 : Keeps K s0 s) :
    Keeps K s0 (writeCensus p r s) := by
  unfold writeCensus
  repeat' first
    | with_reducible assumption
    | ((with_reducible refine keeps_sub hK ?_); rfl)
    | (intro x; first
      | (refine (?_ : Keeps K s0 x → _) ?_; on_goal 1 => (intro hx; clear_value x)
         on_goal 2 => unfold x)
      | clear_value x
      | skip)
    | fail_if_no_progress lift_lets
    | (with_reducible apply keeps_mk; case hr => rfl)
    | ((with_reducible refine keeps_no hK ?_ (by assumption)); rfl)
    | rfl
    | exact Nat.le_refl _
    | (simp; done)

theorem mismatch_keeps (pg : Sys2Proof.Page) {s : State} (hK : K &&& 6149 = 0) (h0 : Keeps K s0 s) :
    Keeps K s0 (mismatch pg s) := by
  unfold mismatch
  repeat' first
    | with_reducible assumption
    | ((with_reducible refine keeps_sub hK ?_); rfl)
    | with_reducible first
      | apply record_keeps
      | apply setF_keeps

theorem checkSerial_keeps (p : ℕ) (r : Sys2Proof.DieReply) {s : State} (hK : K &&& 6149 = 0) (h0 : Keeps K s0 s) :
    Keeps K s0 (checkSerial p r s) := by
  unfold checkSerial
  repeat' first
    | with_reducible assumption
    | ((with_reducible refine keeps_sub hK ?_); rfl)
    | intro x
    | with_reducible first
      | apply keeps_ite
      | apply writeCensus_keeps
      | apply mismatch_keeps
      | apply bootStop_keeps
    | split

theorem countParity_keeps (p : ℕ) (t : ℕ) (w : ℕ) {s : State} (hK : K &&& 9 = 0) (h0 : Keeps K s0 s) :
    Keeps K s0 (countParity p t s w) := by
  unfold countParity
  repeat' first
    | with_reducible assumption
    | ((with_reducible refine keeps_sub hK ?_); rfl)
    | (intro x; first
      | (refine (?_ : Keeps K s0 x → _) ?_; on_goal 1 => (intro hx; clear_value x)
         on_goal 2 => unfold x)
      | clear_value x
      | skip)
    | fail_if_no_progress lift_lets
    | with_reducible first
      | apply keeps_ite
      | apply modPort_keeps
      | apply setPortF_keeps
    | split
    | (with_reducible apply keeps_mk; case hr => rfl)
    | ((with_reducible refine keeps_no hK ?_ (by assumption)); rfl)
    | rfl
    | exact Nat.le_refl _
    | (simp; done)

theorem endDiscovery_keeps (p : ℕ) {s : State} (hK : K &&& 9 = 0) (h0 : Keeps K s0 s) :
    Keeps K s0 (endDiscovery p s) := by
  unfold endDiscovery
  repeat' first
    | with_reducible assumption
    | ((with_reducible refine keeps_sub hK ?_); rfl)
    | (intro x; first
      | (refine (?_ : Keeps K s0 x → _) ?_; on_goal 1 => (intro hx; clear_value x)
         on_goal 2 => unfold x)
      | clear_value x
      | skip)
    | fail_if_no_progress lift_lets
    | with_reducible first
      | apply keeps_ite
      | apply setF_keeps
    | split
    | (with_reducible apply keeps_mk; case hr => rfl)
    | ((with_reducible refine keeps_no hK ?_ (by assumption)); rfl)
    | rfl
    | exact Nat.le_refl _
    | (simp; done)

theorem execClockWireFailure_keeps (port : ℕ) (_valid : Bool) {s : State} (hK : K &&& 6245 = 0) (h0 : Keeps K s0 s) :
    KeepsX K s0 (execClockWireFailure port _valid s) := by
  unfold execClockWireFailure
  repeat' first
    | with_reducible assumption
    | ((with_reducible refine keeps_sub hK ?_); rfl)
    | with_reducible first
      | apply keeps_ite
      | apply keepsX_next
      | apply keepsX_ite
      | apply linkDown_keeps
    | split

theorem sendFlit_keeps (p : ℕ) (cls : ℕ) (ty : ℕ) (data : List Sys2Proof.DWord) {s : State} (hK : K &&& 12 = 0) (h0 : Keeps K s0 s) :
    Keeps K s0 (sendFlit p cls ty data s) := by
  unfold sendFlit
  repeat' first
    | with_reducible assumption
    | ((with_reducible refine keeps_sub hK ?_); rfl)
    | (intro x; first
      | (refine (?_ : Keeps K s0 x → _) ?_; on_goal 1 => (intro hx; clear_value x)
         on_goal 2 => unfold x)
      | clear_value x
      | skip)
    | fail_if_no_progress lift_lets
    | with_reducible first
      | apply keeps_ite
      | apply modPort_keeps
      | apply emit_keeps
    | split
    | (with_reducible apply keeps_mk; case hr => rfl)
    | ((with_reducible refine keeps_no hK ?_ (by assumption)); rfl)
    | rfl
    | exact Nat.le_refl _
    | (simp; done)

theorem execCreditOnlyFlit_keeps (port : ℕ) {s : State} (hK : K &&& 12 = 0) (h0 : Keeps K s0 s) :
    KeepsX K s0 (execCreditOnlyFlit port s) := by
  unfold execCreditOnlyFlit
  repeat' first
    | with_reducible assumption
    | ((with_reducible refine keeps_sub hK ?_); rfl)
    | with_reducible first
      | apply keeps_ite
      | apply keepsX_next
      | apply keepsX_ite
      | apply sendFlit_keeps
    | split

theorem execDiscoveryReply_keeps (port : ℕ) (reply : Sys2Proof.DieReply) {s : State} (hK : K &&& 6253 = 0) (h0 : Keeps K s0 s) :
    KeepsX K s0 (execDiscoveryReply port reply s) := by
  unfold execDiscoveryReply
  repeat' first
    | with_reducible assumption
    | ((with_reducible refine keeps_sub hK ?_); rfl)
    | (intro x; first
      | (refine (?_ : Keeps K s0 x → _) ?_; on_goal 1 => (intro hx; clear_value x)
         on_goal 2 => unfold x)
      | clear_value x
      | skip)
    | fail_if_no_progress lift_lets
    | with_reducible first
      | apply keeps_ite
      | apply keepsX_next
      | apply keepsX_ite
      | apply endDiscovery_keeps
      | apply checkSerial_keeps
      | apply assignIdentity_keeps
      | apply linkDown_keeps
      | apply mismatch_keeps
    | split
    | (with_reducible apply keeps_mk; case hr => rfl)
    | ((with_reducible refine keeps_no hK ?_ (by assumption)); rfl)
    | rfl
    | exact Nat.le_refl _
    | (simp; done)

theorem execDiscoveryTimeout_keeps (port : ℕ) {s : State} (hK : K &&& 6253 = 0) (h0 : Keeps K s0 s) :
    KeepsX K s0 (execDiscoveryTimeout port s) := by
  unfold execDiscoveryTimeout
  repeat' first
    | with_reducible assumption
    | ((with_reducible refine keeps_sub hK ?_); rfl)
    | with_reducible first
      | apply keeps_ite
      | apply keepsX_next
      | apply keepsX_ite
      | apply endDiscovery_keeps
      | apply linkDown_keeps
      | apply record_keeps
    | split

theorem flitRejected_keeps (p : ℕ) (t : ℕ) (wires : List ℕ) {s : State} (hK : K &&& 6253 = 0) (h0 : Keeps K s0 s) :
    Keeps K s0 (flitRejected p t wires s) := by
  unfold flitRejected
  repeat' first
    | with_reducible assumption
    | ((with_reducible refine keeps_sub hK ?_); rfl)
    | (intro x; first
      | (refine (?_ : Keeps K s0 x → _) ?_; on_goal 1 => (intro hx; clear_value x)
         on_goal 2 => unfold x)
      | clear_value x
      | skip)
    | fail_if_no_progress lift_lets
    | with_reducible first
      | apply keeps_ite
      | apply keeps_foldl
      | apply countParity_keeps
      | apply modPort_keeps
      | apply setPortF_keeps
      | apply linkDown_keeps
      | apply record_keeps
      | apply sendFlit_keeps
    | split
    | (with_reducible apply keeps_mk; case hr => rfl)
    | ((with_reducible refine keeps_no hK ?_ (by assumption)); rfl)
    | rfl
    | exact Nat.le_refl _
    | (simp; done)

theorem takeCredits_keeps (p : ℕ) (f : Sys2Proof.Flit) {s : State} (hK : K &&& 6253 = 0) (h0 : Keeps K s0 s) :
    Keeps K s0 (takeCredits p f s) := by
  unfold takeCredits
  repeat' first
    | with_reducible assumption
    | ((with_reducible refine keeps_sub hK ?_); rfl)
    | (intro x; first
      | (refine (?_ : Keeps K s0 x → _) ?_; on_goal 1 => (intro hx; clear_value x)
         on_goal 2 => unfold x)
      | clear_value x
      | skip)
    | fail_if_no_progress lift_lets
    | with_reducible first
      | apply keeps_ite
      | apply linkDown_keeps
      | apply record_keeps
      | apply modPort_keeps
    | split
    | (with_reducible apply keeps_mk; case hr => rfl)
    | ((with_reducible refine keeps_no hK ?_ (by assumption)); rfl)
    | rfl
    | exact Nat.le_refl _
    | (simp; done)

theorem flitAccepted_keeps (p : ℕ) (f : Sys2Proof.Flit) {s : State} (hK : K &&& 6253 = 0) (h0 : Keeps K s0 s) :
    Keeps K s0 (flitAccepted p f s) := by
  unfold flitAccepted
  repeat' first
    | with_reducible assumption
    | ((with_reducible refine keeps_sub hK ?_); rfl)
    | (intro x; first
      | (refine (?_ : Keeps K s0 x → _) ?_; on_goal 1 => (intro hx; clear_value x)
         on_goal 2 => unfold x)
      | clear_value x
      | skip)
    | fail_if_no_progress lift_lets
    | with_reducible first
      | apply keeps_ite
      | apply keeps_foldl
      | apply modPort_keeps
      | apply emit_keeps
      | apply takeCredits_keeps
    | split
    | (with_reducible apply keeps_mk; case hr => rfl)
    | ((with_reducible refine keeps_no hK ?_ (by assumption)); rfl)
    | rfl
    | exact Nat.le_refl _
    | (simp; done)

theorem execFlitReceive_keeps (port : ℕ) (flit : Sys2Proof.Flit) (t : ℕ) {s : State} (hK : K &&& 6253 = 0) (h0 : Keeps K s0 s) :
    KeepsX K s0 (execFlitReceive port flit t s) := by
  unfold execFlitReceive
  repeat' first
    | with_reducible assumption
    | ((with_reducible refine keeps_sub hK ?_); rfl)
    | (intro x; first
      | (refine (?_ : Keeps K s0 x → _) ?_; on_goal 1 => (intro hx; clear_value x)
         on_goal 2 => unfold x)
      | clear_value x
      | skip)
    | fail_if_no_progress lift_lets
    | with_reducible first
      | apply keeps_ite
      | apply keepsX_next
      | apply keepsX_ite
      | apply at_keeps
      | apply flitRejected_keeps
      | apply flitAccepted_keeps
    | split

theorem setRxRepair_keeps (p : ℕ) (wire : ℕ) (spare : ℕ) {s : State} (hK : K &&& 1 = 0) (h0 : Keeps K s0 s) :
    Keeps K s0 (setRxRepair p wire spare s) := by
  unfold setRxRepair
  repeat' first
    | with_reducible assumption
    | ((with_reducible refine keeps_sub hK ?_); rfl)
    | with_reducible first
      | apply keeps_ite
      | apply setPortF_keeps
    | split

theorem setTxRepair_keeps (p : ℕ) (wire : ℕ) (spare : ℕ) {s : State} (hK : K &&& 1 = 0) (h0 : Keeps K s0 s) :
    Keeps K s0 (setTxRepair p wire spare s) := by
  unfold setTxRepair
  repeat' first
    | with_reducible assumption
    | ((with_reducible refine keeps_sub hK ?_); rfl)
    | with_reducible first
      | apply keeps_ite
      | apply setPortF_keeps
    | split

theorem repairRecord_keeps (p : ℕ) (wire : ℕ) (spare : ℕ) (dir : ℕ) {s : State} (hK : K &&& 6149 = 0) (h0 : Keeps K s0 s) :
    Keeps K s0 (repairRecord p wire spare dir s) := by
  unfold repairRecord
  repeat' first
    | with_reducible assumption
    | ((with_reducible refine keeps_sub hK ?_); rfl)
    | (intro x; first
      | (refine (?_ : Keeps K s0 x → _) ?_; on_goal 1 => (intro hx; clear_value x)
         on_goal 2 => unfold x)
      | clear_value x
      | skip)
    | fail_if_no_progress lift_lets
    | with_reducible first
      | apply keeps_ite
      | apply journal_keeps
      | apply setRxRepair_keeps
      | apply setTxRepair_keeps
      | apply record_keeps
    | split

theorem execLaneRepair_keeps (port : ℕ) (wire : ℕ) {s : State} (hK : K &&& 6157 = 0) (h0 : Keeps K s0 s) :
    KeepsX K s0 (execLaneRepair port wire s) := by
  unfold execLaneRepair
  repeat' first
    | with_reducible assumption
    | ((with_reducible refine keeps_sub hK ?_); rfl)
    | (intro x; first
      | (refine (?_ : Keeps K s0 x → _) ?_; on_goal 1 => (intro hx; clear_value x)
         on_goal 2 => unfold x)
      | clear_value x
      | skip)
    | fail_if_no_progress lift_lets
    | with_reducible first
      | apply keeps_ite
      | apply keepsX_next
      | apply keepsX_ite
      | apply modPort_keeps
      | apply emit_keeps
      | apply sendFlit_keeps
      | apply repairRecord_keeps
      | apply setPortF_keeps
    | split
    | (with_reducible apply keeps_mk; case hr => rfl)
    | ((with_reducible refine keeps_no hK ?_ (by assumption)); rfl)
    | rfl
    | exact Nat.le_refl _
    | (simp; done)

theorem execLoopTestDone_keeps (port : ℕ) (failWire : Option ℕ) {s : State} (hK : K &&& 1 = 0) (h0 : Keeps K s0 s) :
    KeepsX K s0 (execLoopTestDone port failWire s) := by
  unfold execLoopTestDone
  repeat' first
    | with_reducible assumption
    | ((with_reducible refine keeps_sub hK ?_); rfl)
    | with_reducible first
      | apply keeps_ite
      | apply keepsX_next
      | apply keepsX_ite
      | apply setPortF_keeps
    | split

theorem startLoopTest_keeps (port : ℕ) {s : State} (hK : K &&& 1 = 0) (h0 : Keeps K s0 s) :
    Keeps K s0 (startLoopTest port s) := by
  unfold startLoopTest
  repeat' first
    | with_reducible assumption
    | ((with_reducible refine keeps_sub hK ?_); rfl)
    | with_reducible first
      | apply keeps_ite
      | apply setPortF_keeps
    | split

theorem execLoopTestRun_keeps (by_ : Sys2Proof.Agent) (port : ℕ) {s : State} (hK : K &&& 8165 = 0) (h0 : Keeps K s0 s) :
    KeepsX K s0 (execLoopTestRun by_ port s) := by
  unfold execLoopTestRun
  repeat' first
    | with_reducible assumption
    | ((with_reducible refine keeps_sub hK ?_); rfl)
    | intro x
    | with_reducible first
      | apply keepsO_some
      | apply keepsX_next
      | apply dataRefusal_keeps
      | apply startLoopTest_keeps
      | refine keepsO_get ?_ (by assumption)
    | split

theorem execRepairFlit_keeps (port : ℕ) (wire : ℕ) (spare : ℕ) (sw : ℕ) {s : State} (hK : K &&& 8 = 0) (h0 : Keeps K s0 s) :
    KeepsX K s0 (execRepairFlit port wire spare sw s) := by
  unfold execRepairFlit
  repeat' first
    | with_reducible assumption
    | ((with_reducible refine keeps_sub hK ?_); rfl)
    | intro x
    | with_reducible first
      | apply keeps_ite
      | apply keepsX_next
      | apply keepsX_ite
      | apply modPort_keeps
    | split
    | (with_reducible apply keeps_mk; case hr => rfl)
    | ((with_reducible refine keeps_no hK ?_ (by assumption)); rfl)
    | rfl
    | exact Nat.le_refl _
    | (simp; done)

theorem showSpares_keeps (p : ℕ) {s : State} (hK : K &&& 1 = 0) (h0 : Keeps K s0 s) :
    Keeps K s0 (showSpares p s) := by
  unfold showSpares
  repeat' first
    | with_reducible assumption
    | ((with_reducible refine keeps_sub hK ?_); rfl)
    | with_reducible first
      | apply keeps_ite
      | apply setPortF_keeps
    | split

theorem execRepairSwitch_keeps (port : ℕ) {s : State} (hK : K &&& 9 = 0) (h0 : Keeps K s0 s) :
    KeepsX K s0 (execRepairSwitch port s) := by
  unfold execRepairSwitch
  repeat' first
    | with_reducible assumption
    | ((with_reducible refine keeps_sub hK ?_); rfl)
    | (intro x; first
      | (refine (?_ : Keeps K s0 x → _) ?_; on_goal 1 => (intro hx; clear_value x)
         on_goal 2 => unfold x)
      | clear_value x
      | skip)
    | fail_if_no_progress lift_lets
    | with_reducible first
      | apply keeps_ite
      | apply keepsX_next
      | apply keepsX_ite
      | apply setRxRepair_keeps
      | apply modPort_keeps
      | apply setTxRepair_keeps
      | apply showSpares_keeps
    | split
    | (with_reducible apply keeps_mk; case hr => rfl)
    | ((with_reducible refine keeps_no hK ?_ (by assumption)); rfl)
    | rfl
    | exact Nat.le_refl _
    | (simp; done)

theorem ringPeer_keeps (d : ℕ) (port : ℕ) (want : ℕ) (got : ℕ) {s : State} (hK : K &&& 6245 = 0) (h0 : Keeps K s0 s) :
    Keeps K s0 (ringPeer d port want got s) := by
  unfold ringPeer
  repeat' first
    | with_reducible assumption
    | ((with_reducible refine keeps_sub hK ?_); rfl)
    | with_reducible first
      | apply keeps_ite
      | apply setPortF_keeps
      | apply linkDown_keeps
      | apply mismatch_keeps
    | split

theorem execRingDiscovery_keeps (die : ℕ) (east : ℕ) (west : ℕ) {s : State} (hK : K &&& 6245 = 0) (h0 : Keeps K s0 s) :
    KeepsX K s0 (execRingDiscovery die east west s) := by
  unfold execRingDiscovery
  repeat' first
    | with_reducible assumption
    | ((with_reducible refine keeps_sub hK ?_); rfl)
    | with_reducible first
      | apply keeps_ite
      | apply keepsX_next
      | apply keepsX_ite
      | apply ringPeer_keeps
    | split

theorem execSparePrbsError_keeps (port : ℕ) (tx : Bool) (spare : ℕ) {s : State} (hK : K &&& 1 = 0) (h0 : Keeps K s0 s) :
    KeepsX K s0 (execSparePrbsError port tx spare s) := by
  unfold execSparePrbsError
  repeat' first
    | with_reducible assumption
    | ((with_reducible refine keeps_sub hK ?_); rfl)
    | with_reducible first
      | apply keeps_ite
      | apply keepsX_next
      | apply keepsX_ite
      | apply showSpares_keeps
      | apply setPortF_keeps
    | split

theorem execStandaloneEnter_keeps (die : ℕ) {s : State} (hK : K &&& 8 = 0) (h0 : Keeps K s0 s) :
    KeepsX K s0 (execStandaloneEnter die s) := by
  unfold execStandaloneEnter
  repeat' first
    | with_reducible assumption
    | ((with_reducible refine keeps_sub hK ?_); rfl)
    | intro x
    | with_reducible first
      | apply keeps_ite
      | apply keepsX_next
      | apply keepsX_ite
    | split
    | (with_reducible apply keeps_mk; case hr => rfl)
    | ((with_reducible refine keeps_no hK ?_ (by assumption)); rfl)
    | rfl
    | exact Nat.le_refl _
    | (simp; done)

theorem execUciNegotiationDone_keeps (offer : Sys2Proof.PartnerOffer) {s : State} (hK : K &&& 6149 = 0) (h0 : Keeps K s0 s) :
    KeepsX K s0 (execUciNegotiationDone offer s) := by
  unfold execUciNegotiationDone
  repeat' first
    | with_reducible assumption
    | ((with_reducible refine keeps_sub hK ?_); rfl)
    | (intro x; first
      | (refine (?_ : Keeps K s0 x → _) ?_; on_goal 1 => (intro hx; clear_value x)
         on_goal 2 => unfold x)
      | clear_value x
      | skip)
    | fail_if_no_progress lift_lets
    | with_reducible first
      | apply keeps_ite
      | apply keepsX_next
      | apply keepsX_ite
      | apply uciFence_keeps
      | apply record_keeps
      | apply setF_keeps
    | split

theorem execUciNegotiationTimeout_keeps  {s : State} (hK : K &&& 6149 = 0) (h0 : Keeps K s0 s) :
    KeepsX K s0 (execUciNegotiationTimeout s) := by
  unfold execUciNegotiationTimeout
  repeat' first
    | with_reducible assumption
    | ((with_reducible refine keeps_sub hK ?_); rfl)
    | with_reducible first
      | apply keeps_ite
      | apply keepsX_next
      | apply keepsX_ite
      | apply record_keeps
      | apply uciFence_keeps
    | split

theorem execUciRuntimeFence_keeps  {s : State} (hK : K &&& 6245 = 0) (h0 : Keeps K s0 s) :
    KeepsX K s0 (execUciRuntimeFence s) := by
  unfold execUciRuntimeFence
  repeat' first
    | with_reducible assumption
    | ((with_reducible refine keeps_sub hK ?_); rfl)
    | with_reducible first
      | apply keepsX_next
      | apply linkDown_keeps

theorem uciStart_keeps  {s : State} (hK : K &&& 1 = 0) (h0 : Keeps K s0 s) :
    Keeps K s0 (uciStart s) := by
  unfold uciStart
  repeat' first
    | with_reducible assumption
    | ((with_reducible refine keeps_sub hK ?_); rfl)
    | with_reducible first
      | apply keeps_ite
      | apply setF_keeps
    | split

theorem execUciStart_keeps (by_ : Sys2Proof.Agent) {s : State} (hK : K &&& 8165 = 0) (h0 : Keeps K s0 s) :
    KeepsX K s0 (execUciStart by_ s) := by
  unfold execUciStart
  repeat' first
    | with_reducible assumption
    | ((with_reducible refine keeps_sub hK ?_); rfl)
    | intro x
    | with_reducible first
      | apply keepsX_next
      | apply asMaster_keeps
      | apply uciStart_keeps

theorem trainRepair_keeps (b : ℕ × ℕ × Bool) {s : State} (hK : K &&& 6149 = 0) (h0 : Keeps K s0 s) :
    Keeps K s0 (trainRepair s b) := by
  unfold trainRepair
  repeat' first
    | with_reducible assumption
    | ((with_reducible refine keeps_sub hK ?_); rfl)
    | (intro x; first
      | (refine (?_ : Keeps K s0 x → _) ?_; on_goal 1 => (intro hx; clear_value x)
         on_goal 2 => unfold x)
      | clear_value x
      | skip)
    | fail_if_no_progress lift_lets
    | with_reducible first
      | apply keeps_ite
      | apply repairRecord_keeps
      | apply setRxRepair_keeps
      | apply setTxRepair_keeps
      | apply setPortF_keeps
    | split

theorem startDiscovery_keeps (p : ℕ) {s : State} (hK : K &&& 13 = 0) (h0 : Keeps K s0 s) :
    Keeps K s0 (startDiscovery s p) := by
  unfold startDiscovery
  repeat' first
    | with_reducible assumption
    | ((with_reducible refine keeps_sub hK ?_); rfl)
    | (intro x; first
      | (refine (?_ : Keeps K s0 x → _) ?_; on_goal 1 => (intro hx; clear_value x)
         on_goal 2 => unfold x)
      | clear_value x
      | skip)
    | fail_if_no_progress lift_lets
    | with_reducible first
      | apply keeps_ite
      | apply setPortF_keeps
      | apply sendFlit_keeps
      | apply emit_keeps
    | split

theorem execWlinkResetRelease_keeps (bad : List (ℕ × ℕ × Bool)) (t : ℕ) {s : State} (hK : K &&& 6157 = 0) (h0 : Keeps K s0 s) :
    KeepsX K s0 (execWlinkResetRelease bad t s) := by
  unfold execWlinkResetRelease
  repeat' first
    | with_reducible assumption
    | ((with_reducible refine keeps_sub hK ?_); rfl)
    | (intro x; first
      | (refine (?_ : Keeps K s0 x → _) ?_; on_goal 1 => (intro hx; clear_value x)
         on_goal 2 => unfold x)
      | clear_value x
      | skip)
    | fail_if_no_progress lift_lets
    | with_reducible first
      | apply keeps_foldl
      | apply keepsX_next
      | apply at_keeps
      | apply trainRepair_keeps
      | apply showSpares_keeps
      | apply startDiscovery_keeps

end Sys2Proof.Machine
end

