-- ==== Sys2Proof/Laws/KeepsEmit.lean ====
section
/-! SUPPORT. What the operations of Machine/Emit.lean keep. -/

namespace Sys2Proof.Machine

open Sys2Proof

variable {K : Nat} {s0 : State}

theorem readBatch_keeps (r : Sys2Proof.Machine.StrokeRun) {s : State} (hK : K &&& 8165 = 0) (h0 : Keeps K s0 s) :
    KeepsP K s0 (readBatch r s) := by
  unfold readBatch
  repeat' first
    | with_reducible assumption
    | ((with_reducible refine keeps_sub hK ?_); rfl)
    | (intro x; first
      | (refine (?_ : Keeps K s0 x → _) ?_; on_goal 1 => (intro hx; clear_value x)
         on_goal 2 => unfold x)
      | (refine (?_ : KeepsP K s0 x → _) ?_; on_goal 1 => (intro hx; clear_value x)
         on_goal 2 => unfold x)
      | clear_value x
      | skip)
    | fail_if_no_progress lift_lets
    | with_reducible first
      | apply keeps_ite
      | apply keepsP_ite
      | apply chargeMem_keeps
      | apply windowFault_keeps
      | apply recordAt_keeps
      | exact keepsP_get (by assumption)
      | refine keepsP_eq ?_ (by assumption)
    | split
    | with_reducible apply keepsP_mk
    | (with_reducible apply keeps_mk; case hr => rfl)
    | ((with_reducible refine keeps_no hK ?_ (by assumption)); rfl)
    | rfl
    | exact Nat.le_refl _
    | (simp; done)

theorem drainTx_keeps  {s : State} (hK : K &&& 16389 = 0) (h0 : Keeps K s0 s) :
    Keeps K s0 (drainTx s) := by
  unfold drainTx
  repeat' first
    | with_reducible assumption
    | ((with_reducible refine keeps_sub hK ?_); rfl)
    | (intro x; first
      | (refine (?_ : Keeps K s0 x → _) ?_; on_goal 1 => (intro hx; clear_value x)
         on_goal 2 => unfold x)
      | clear_value x
      | skip)
    | fail_if_no_progress lift_lets
    | with_reducible first
      | apply keeps_foldl
      | apply bumpI_keeps
      | apply emit_keeps
    | (with_reducible apply keeps_mk; case hr => rfl)
    | ((with_reducible refine keeps_no hK ?_ (by assumption)); rfl)
    | rfl
    | exact Nat.le_refl _
    | (simp; done)

theorem ethSend_keeps (m : ℕ) (q : ℕ) (bytes : List Sys2Proof.Byte) {s : State} (hK : K &&& 16389 = 0) (h0 : Keeps K s0 s) :
    Keeps K s0 (ethSend m q bytes s) := by
  unfold ethSend
  repeat' first
    | with_reducible assumption
    | ((with_reducible refine keeps_sub hK ?_); rfl)
    | intro x
    | with_reducible apply drainTx_keeps
    | (with_reducible apply keeps_mk; case hr => rfl)
    | ((with_reducible refine keeps_no hK ?_ (by assumption)); rfl)
    | rfl
    | exact Nat.le_refl _
    | (simp; done)

theorem sendBatch_keeps (hdr : List Sys2Proof.Byte) (recs : List Sys2Proof.Byte) (count : ℕ) {s : State} (hK : K &&& 16389 = 0) (h0 : Keeps K s0 s) :
    Keeps K s0 (sendBatch hdr recs count s) := by
  unfold sendBatch
  repeat' first
    | with_reducible assumption
    | ((with_reducible refine keeps_sub hK ?_); rfl)
    | (intro x; first
      | (refine (?_ : Keeps K s0 x → _) ?_; on_goal 1 => (intro hx; clear_value x)
         on_goal 2 => unfold x)
      | (refine (?_ : KeepsP K s0 x → _) ?_; on_goal 1 => (intro hx; clear_value x)
         on_goal 2 => unfold x)
      | clear_value x
      | skip)
    | fail_if_no_progress lift_lets
    | with_reducible first
      | apply keeps_ite
      | apply keeps_foldl
      | apply keepsP_ite
      | apply keepsP_foldl
      | apply drawFree_keeps
      | apply ethSend_keeps
      | apply bump_keeps
      | exact keepsP_get (by assumption)
      | refine keepsP_eq ?_ (by assumption)
      | refine keepsP_get (p := drawFree _ _) ?_
    | split
    | with_reducible apply keepsP_mk

theorem sendNotice_keeps (r : Sys2Proof.Machine.StrokeRun) (hdr : List Sys2Proof.Byte) (valid : Bool) {s : State} (hK : K &&& 36 = 0) (h0 : Keeps K s0 s) :
    Keeps K s0 (sendNotice r hdr valid s) := by
  unfold sendNotice
  repeat' first
    | with_reducible assumption
    | ((with_reducible refine keeps_sub hK ?_); rfl)
    | (intro x; first
      | (refine (?_ : Keeps K s0 x → _) ?_; on_goal 1 => (intro hx; clear_value x)
         on_goal 2 => unfold x)
      | clear_value x
      | skip)
    | fail_if_no_progress lift_lets
    | with_reducible first
      | apply keeps_ite
      | apply emit_keeps
    | split
    | (with_reducible apply keeps_mk; case hr => rfl)
    | ((with_reducible refine keeps_no hK ?_ (by assumption)); rfl)
    | rfl
    | exact Nat.le_refl _
    | (simp; done)

theorem deliver_keeps (r : Sys2Proof.Machine.StrokeRun) (ok : Bool) {s : State} (hK : K &&& 24549 = 0) (h0 : Keeps K s0 s) :
    Keeps K s0 (deliver r ok s) := by
  unfold deliver
  repeat' first
    | with_reducible assumption
    | ((with_reducible refine keeps_sub hK ?_); rfl)
    | (intro x; first
      | (refine (?_ : Keeps K s0 x → _) ?_; on_goal 1 => (intro hx; clear_value x)
         on_goal 2 => unfold x)
      | (refine (?_ : KeepsP K s0 x → _) ?_; on_goal 1 => (intro hx; clear_value x)
         on_goal 2 => unfold x)
      | (refine (?_ : KeepsT K s0 x → _) ?_; on_goal 1 => (intro hx; clear_value x)
         on_goal 2 => unfold x)
      | clear_value x
      | skip)
    | fail_if_no_progress lift_lets
    | with_reducible first
      | apply keeps_ite
      | apply keeps_foldl
      | apply keeps_id
      | apply keepsP_ite
      | apply keepsP_foldl
      | apply readBatch_keeps
      | apply sendBatch_keeps
      | apply sendNotice_keeps
      | apply drawFree_keeps
      | exact keepsP_get (by assumption)
      | refine keepsP_eq ?_ (by assumption)
      | refine keepsP_get (p := readBatch _ _) ?_
      | refine keepsP_get (p := drawFree _ _) ?_
    | split
    | with_reducible apply keepsP_mk
    | (with_reducible apply keeps_mk; case hr => rfl)
    | ((with_reducible refine keeps_no hK ?_ (by assumption)); rfl)
    | rfl
    | exact Nat.le_refl _
    | (simp; done)

end Sys2Proof.Machine
end

