-- ==== Sys2Proof/Laws/KeepsStrokes.lean ====
section
/-! SUPPORT. What the operations of Machine/Strokes.lean keep. -/

namespace Sys2Proof.Machine

open Sys2Proof

variable {K : Nat} {s0 : State}

theorem brushGroup_keeps (r : Sys2Proof.Machine.StrokeRun) {s : State} (hK : K &&& 2097473 = 0) (h0 : Keeps K s0 s) :
    Keeps K s0 (brushGroup r s) := by
  unfold brushGroup
  repeat' first
    | with_reducible assumption
    | ((with_reducible refine keeps_sub hK ?_); rfl)
    | (intro x; first
      | (refine (?_ : Keeps K s0 x → _) ?_; on_goal 1 => (intro hx; clear_value x)
         on_goal 2 => unfold x)
      | clear_value x
      | skip)
    | fail_if_no_progress lift_lets
    | with_reducible first
      | apply keeps_ite
      | apply keeps_foldl
      | apply rollIn_keeps
      | apply readdPhases_keeps
      | apply modEng_keeps
      | apply enterBrush_keeps
    | split
    | (with_reducible apply keeps_mk; case hr => rfl)
    | ((with_reducible refine keeps_no hK ?_ (by assumption)); rfl)
    | rfl
    | exact Nat.le_refl _
    | (simp; done)

theorem actBarrier_keeps (r : Sys2Proof.Machine.StrokeRun) {s : State} (hK : K &&& 2097505 = 0) (h0 : Keeps K s0 s) :
    Keeps K s0 (actBarrier r s) := by
  unfold actBarrier
  repeat' first
    | with_reducible assumption
    | ((with_reducible refine keeps_sub hK ?_); rfl)
    | with_reducible first
      | apply brushGroup_keeps
      | apply addRun_keeps

theorem actCollect_keeps (r : Sys2Proof.Machine.StrokeRun) {s : State} (hK : K &&& 32 = 0) (h0 : Keeps K s0 s) :
    Keeps K s0 (actCollect r s) := by
  unfold actCollect
  repeat' first
    | with_reducible assumption
    | ((with_reducible refine keeps_sub hK ?_); rfl)
    | with_reducible apply addRun_keeps

theorem releaseCtxs_keeps (idx : ℕ) (bar : ℕ) {s : State} (hK : K &&& 65 = 0) (h0 : Keeps K s0 s) :
    Keeps K s0 (releaseCtxs idx bar s) := by
  unfold releaseCtxs
  repeat' first
    | with_reducible assumption
    | ((with_reducible refine keeps_sub hK ?_); rfl)
    | intro x
    | with_reducible first
      | apply keeps_ite
      | apply keeps_foldl
      | apply showDispatch_keeps
      | apply modDie_keeps
    | split
    | (with_reducible apply keeps_mk; case hr => rfl)
    | ((with_reducible refine keeps_no hK ?_ (by assumption)); rfl)
    | rfl
    | exact Nat.le_refl _
    | (simp; done)

theorem finish_keeps (idx : ℕ) (bar : ℕ) {s : State} (hK : K &&& 6245 = 0) (h0 : Keeps K s0 s) :
    Keeps K s0 (finish idx bar s) := by
  unfold finish
  repeat' first
    | with_reducible assumption
    | ((with_reducible refine keeps_sub hK ?_); rfl)
    | intro x
    | with_reducible first
      | apply releaseCtxs_keeps
      | apply completeRun_keeps
    | split

theorem fixInstant_keeps (stages : List ℕ) {s : State} (hK : K &&& 1024 = 0) (h0 : Keeps K s0 s) :
    Keeps K s0 (fixInstant stages s) := by
  unfold fixInstant
  repeat' first
    | with_reducible assumption
    | ((with_reducible refine keeps_sub hK ?_); rfl)
    | intro x
    | with_reducible apply keeps_ite
    | split
    | (with_reducible apply keeps_mk; case hr => rfl)
    | ((with_reducible refine keeps_no hK ?_ (by assumption)); rfl)
    | rfl
    | exact Nat.le_refl _
    | (simp; done)

theorem startJob_keeps (r : Sys2Proof.Machine.StrokeRun) {s : State} (hK : K &&& 8165 = 0) (h0 : Keeps K s0 s) :
    Keeps K s0 (startJob r s) := by
  unfold startJob
  repeat' first
    | with_reducible assumption
    | ((with_reducible refine keeps_sub hK ?_); rfl)
    | (intro x; first
      | (refine (?_ : Keeps K s0 x → _) ?_; on_goal 1 => (intro hx; clear_value x)
         on_goal 2 => unfold x)
      | clear_value x
      | skip)
    | fail_if_no_progress lift_lets
    | with_reducible first
      | apply keeps_ite
      | apply windowFault_keeps
      | apply recordAt_keeps
      | apply finish_keeps
      | apply failRun_keeps
      | apply chargeMem_keeps
      | apply recordPart_keeps
      | apply fixInstant_keeps
      | apply setF_keeps
    | split
    | (with_reducible apply keeps_mk; case hr => rfl)
    | ((with_reducible refine keeps_no hK ?_ (by assumption)); rfl)
    | rfl
    | exact Nat.le_refl _
    | (simp; done)

theorem tryFuse_keeps (a0 : ℕ) {a1 : State} (hK : K &&& 8165 = 0) (h0 : Keeps K s0 a1) :
    Keeps K s0 (tryFuse a0 a1) := by
  induction a0 generalizing a1 with
  | zero => exact h0
  | succ n ih =>
    unfold tryFuse
    split
    · exact h0
    · exact keeps_ite (ih (finish_keeps _ _ (keeps_sub hK rfl) (modRun_keeps _ _ _ (keeps_sub hK rfl) h0)))
        (keeps_ite (ih (startJob_keeps _ (keeps_sub hK rfl) h0)) h0)

theorem actFuse_keeps (r : Sys2Proof.Machine.StrokeRun) {s : State} (hK : K &&& 8165 = 0) (h0 : Keeps K s0 s) :
    Keeps K s0 (actFuse r s) := by
  unfold actFuse
  repeat' first
    | with_reducible assumption
    | ((with_reducible refine keeps_sub hK ?_); rfl)
    | with_reducible first
      | apply tryFuse_keeps
      | apply addRun_keeps

theorem actMark_keeps (r : Sys2Proof.Machine.StrokeRun) {s : State} (hK : K &&& 6439 = 0) (h0 : Keeps K s0 s) :
    Keeps K s0 (actMark r s) := by
  unfold actMark
  repeat' first
    | with_reducible assumption
    | ((with_reducible refine keeps_sub hK ?_); rfl)
    | (intro x; first
      | (refine (?_ : Keeps K s0 x → _) ?_; on_goal 1 => (intro hx; clear_value x)
         on_goal 2 => unfold x)
      | (refine (?_ : KeepsP K s0 x → _) ?_; on_goal 1 => (intro hx; clear_value x)
         on_goal 2 => unfold x)
      | clear_value x
      | skip)
    | fail_if_no_progress lift_lets
    | with_reducible first
      | apply addRun_keeps
      | apply storeDev_keeps
      | apply chargeMem_keeps
      | apply recordAt_keeps
      | apply setF_keeps
      | exact keepsP_get (by assumption)
      | refine keepsP_eq ?_ (by assumption)
      | refine keepsP_get (p := storeDev _ _ _ _) ?_
    | split
    | with_reducible apply keepsP_mk
    | (with_reducible apply keeps_mk; case hr => rfl)
    | ((with_reducible refine keeps_no hK ?_ (by assumption)); rfl)
    | rfl
    | exact Nat.le_refl _
    | (simp; done)

theorem switchEngine_keeps (d : ℕ) (k : ℕ) (p : ℕ) {s : State} (hK : K &&& 321 = 0) (h0 : Keeps K s0 s) :
    Keeps K s0 (switchEngine d k p s) := by
  unfold switchEngine
  repeat' first
    | with_reducible assumption
    | ((with_reducible refine keeps_sub hK ?_); rfl)
    | (intro x; first
      | (refine (?_ : Keeps K s0 x → _) ?_; on_goal 1 => (intro hx; clear_value x)
         on_goal 2 => unfold x)
      | clear_value x
      | skip)
    | fail_if_no_progress lift_lets
    | with_reducible first
      | apply leaveBrush_keeps
      | apply modEng_keeps
      | apply showState_keeps
      | apply setF_keeps
    | split
    | (with_reducible apply keeps_mk; case hr => rfl)
    | ((with_reducible refine keeps_no hK ?_ (by assumption)); rfl)
    | rfl
    | exact Nat.le_refl _
    | (simp; done)

theorem startOnDie_keeps (r : Sys2Proof.Machine.StrokeRun) (d : ℕ) {s : State} (hK : K &&& 353 = 0) (h0 : Keeps K s0 s) :
    Keeps K s0 (startOnDie r d s) := by
  unfold startOnDie
  repeat' first
    | with_reducible assumption
    | ((with_reducible refine keeps_sub hK ?_); rfl)
    | (intro x; first
      | (refine (?_ : Keeps K s0 x → _) ?_; on_goal 1 => (intro hx; clear_value x)
         on_goal 2 => unfold x)
      | clear_value x
      | skip)
    | fail_if_no_progress lift_lets
    | with_reducible first
      | apply keeps_ite
      | apply keeps_foldl
      | apply modRun_keeps
      | apply chargeMem_keeps
      | apply modDie_keeps
      | apply switchEngine_keeps
      | apply showDispatch_keeps
      | apply settle_keeps
    | split
    | (with_reducible apply keeps_mk; case hr => rfl)
    | ((with_reducible refine keeps_no hK ?_ (by assumption)); rfl)
    | rfl
    | exact Nat.le_refl _
    | (simp; done)

theorem actRun_keeps (r : Sys2Proof.Machine.StrokeRun) {s : State} (hK : K &&& 353 = 0) (h0 : Keeps K s0 s) :
    Keeps K s0 (actRun r s) := by
  unfold actRun
  repeat' first
    | with_reducible assumption
    | ((with_reducible refine keeps_sub hK ?_); rfl)
    | intro x
    | with_reducible first
      | apply keeps_foldl
      | apply startOnDie_keeps
      | apply readdPhases_keeps
      | apply addRun_keeps

theorem actWait_keeps (r : Sys2Proof.Machine.StrokeRun) {s : State} (hK : K &&& 6245 = 0) (h0 : Keeps K s0 s) :
    Keeps K s0 (actWait r s) := by
  unfold actWait
  repeat' first
    | with_reducible assumption
    | ((with_reducible refine keeps_sub hK ?_); rfl)
    | (intro x; first
      | (refine (?_ : Keeps K s0 x → _) ?_; on_goal 1 => (intro hx; clear_value x)
         on_goal 2 => unfold x)
      | clear_value x
      | skip)
    | fail_if_no_progress lift_lets
    | with_reducible first
      | apply keeps_ite
      | apply addRun_keeps
      | apply finish_keeps
    | split

theorem pairFailed_keeps (idx : ℕ) (bar : ℕ) (p : ℕ) {s : State} (hK : K &&& 32 = 0) (h0 : Keeps K s0 s) :
    Keeps K s0 (pairFailed idx bar p s) := by
  unfold pairFailed
  repeat' first
    | with_reducible assumption
    | ((with_reducible refine keeps_sub hK ?_); rfl)
    | intro x
    | with_reducible first
      | apply keeps_ite
      | apply failRun_keeps
    | split
    | (with_reducible apply keeps_mk; case hr => rfl)
    | ((with_reducible refine keeps_no hK ?_ (by assumption)); rfl)
    | rfl
    | exact Nat.le_refl _
    | (simp; done)

theorem closeHalves_keeps (r : Sys2Proof.Machine.StrokeRun) {s : State} (hK : K &&& 32 = 0) (h0 : Keeps K s0 s) :
    Keeps K s0 (closeHalves r s) := by
  unfold closeHalves
  repeat' first
    | with_reducible assumption
    | ((with_reducible refine keeps_sub hK ?_); rfl)
    | (intro x; first
      | (refine (?_ : Keeps K s0 x → _) ?_; on_goal 1 => (intro hx; clear_value x)
         on_goal 2 => unfold x)
      | clear_value x
      | skip)
    | fail_if_no_progress lift_lets
    | with_reducible first
      | apply keeps_ite
      | apply pairFailed_keeps
      | apply modRun_keeps
    | split
    | (with_reducible apply keeps_mk; case hr => rfl)
    | ((with_reducible refine keeps_no hK ?_ (by assumption)); rfl)
    | rfl
    | exact Nat.le_refl _
    | (simp; done)

theorem commitSwap_keeps  {s : State} (hK : K &&& 33 = 0) (h0 : Keeps K s0 s) :
    Keeps K s0 (commitSwap s) := by
  unfold commitSwap
  repeat' first
    | with_reducible assumption
    | ((with_reducible refine keeps_sub hK ?_); rfl)
    | (intro x; first
      | (refine (?_ : Keeps K s0 x → _) ?_; on_goal 1 => (intro hx; clear_value x)
         on_goal 2 => unfold x)
      | clear_value x
      | skip)
    | fail_if_no_progress lift_lets
    | with_reducible first
      | apply keeps_ite
      | apply setF_keeps
    | split
    | (with_reducible apply keeps_mk; case hr => rfl)
    | ((with_reducible refine keeps_no hK ?_ (by assumption)); rfl)
    | rfl
    | exact Nat.le_refl _
    | (simp; done)

theorem pairMismatch_keeps (a : ℕ) (b : ℕ) (p : ℕ) {s : State} (hK : K &&& 6149 = 0) (h0 : Keeps K s0 s) :
    Keeps K s0 (pairMismatch a b p s) := by
  unfold pairMismatch
  repeat' first
    | with_reducible assumption
    | ((with_reducible refine keeps_sub hK ?_); rfl)
    | (intro x; first
      | (refine (?_ : Keeps K s0 x → _) ?_; on_goal 1 => (intro hx; clear_value x)
         on_goal 2 => unfold x)
      | clear_value x
      | skip)
    | fail_if_no_progress lift_lets
    | with_reducible first
      | apply recordWarn_keeps
      | apply bump_keeps
      | apply recordPlain_keeps

theorem takeEntry_keeps (r : Sys2Proof.Machine.StrokeRun) (e : Sys2Proof.Machine.ResEntry) {s : State} (hK : K &&& 6181 = 0) (h0 : Keeps K s0 s) :
    Keeps K s0 (takeEntry r e s) := by
  unfold takeEntry
  repeat' first
    | with_reducible assumption
    | ((with_reducible refine keeps_sub hK ?_); rfl)
    | (intro x; first
      | (refine (?_ : Keeps K s0 x → _) ?_; on_goal 1 => (intro hx; clear_value x)
         on_goal 2 => unfold x)
      | clear_value x
      | skip)
    | fail_if_no_progress lift_lets
    | with_reducible first
      | apply keeps_ite
      | apply modRun_keeps
      | apply pairFailed_keeps
      | apply pairMismatch_keeps
    | split
    | (with_reducible apply keeps_mk; case hr => rfl)
    | ((with_reducible refine keeps_no hK ?_ (by assumption)); rfl)
    | rfl
    | exact Nat.le_refl _
    | (simp; done)

theorem drained_keeps (e : Sys2Proof.Machine.ResEntry) (r : Option Sys2Proof.Machine.StrokeRun) {s : State} (hK : K &&& 6181 = 0) (h0 : Keeps K s0 s) :
    Keeps K s0 (drained e r s) := by
  unfold drained
  repeat' first
    | with_reducible assumption
    | ((with_reducible refine keeps_sub hK ?_); rfl)
    | intro x
    | with_reducible first
      | apply keeps_ite
      | apply takeEntry_keeps
      | apply bump_keeps
    | split

theorem dropJob_keeps (r : Sys2Proof.Machine.StrokeRun) {s : State} (hK : K &&& 1024 = 0) (h0 : Keeps K s0 s) :
    Keeps K s0 (dropJob r s) := by
  unfold dropJob
  repeat' first
    | with_reducible assumption
    | ((with_reducible refine keeps_sub hK ?_); rfl)
    | intro x
    | with_reducible apply keeps_ite
    | split
    | (with_reducible apply keeps_mk; case hr => rfl)
    | ((with_reducible refine keeps_no hK ?_ (by assumption)); rfl)
    | rfl
    | exact Nat.le_refl _
    | (simp; done)

theorem dueAt_keeps (t : ℕ) {s : State} (hK : K &&& 33 = 0) (h0 : Keeps K s0 s) :
    Keeps K s0 (dueAt t s) := by
  unfold dueAt
  repeat' first
    | with_reducible assumption
    | ((with_reducible refine keeps_sub hK ?_); rfl)
    | (intro x; first
      | (refine (?_ : Keeps K s0 x → _) ?_; on_goal 1 => (intro hx; clear_value x)
         on_goal 2 => unfold x)
      | clear_value x
      | skip)
    | fail_if_no_progress lift_lets
    | with_reducible first
      | apply keeps_ite
      | apply commitSwap_keeps
    | split
    | (with_reducible apply keeps_mk; case hr => rfl)
    | ((with_reducible refine keeps_no hK ?_ (by assumption)); rfl)
    | rfl
    | exact Nat.le_refl _
    | (simp; done)

theorem stopRun_keeps (r : Sys2Proof.Machine.StrokeRun) (status : ℕ) {s : State} (hK : K &&& 7525 = 0) (h0 : Keeps K s0 s) :
    Keeps K s0 (stopRun r status s) := by
  unfold stopRun
  repeat' first
    | with_reducible assumption
    | ((with_reducible refine keeps_sub hK ?_); rfl)
    | with_reducible first
      | apply finish_keeps
      | apply failRun_keeps
      | apply dropJob_keeps
      | apply killRun_keeps

theorem endCarry_keeps  {s : State} (hK : K &&& 7525 = 0) (h0 : Keeps K s0 s) :
    Keeps K s0 (endCarry s) := by
  unfold endCarry
  repeat' first
    | with_reducible assumption
    | ((with_reducible refine keeps_sub hK ?_); rfl)
    | intro x
    | with_reducible first
      | apply keeps_foldl
      | apply stopRun_keeps

theorem writeBuffer_keeps (spoil : Bool) (c : Sys2Proof.Machine.StrokeRun) {s : State} (hK : K &&& 8167 = 0) (h0 : Keeps K s0 s) :
    Keeps K s0 (writeBuffer spoil c s) := by
  unfold writeBuffer
  repeat' first
    | with_reducible assumption
    | ((with_reducible refine keeps_sub hK ?_); rfl)
    | (intro x; first
      | (refine (?_ : Keeps K s0 x → _) ?_; on_goal 1 => (intro hx; clear_value x)
         on_goal 2 => unfold x)
      | (refine (?_ : KeepsP K s0 x → _) ?_; on_goal 1 => (intro hx; clear_value x)
         on_goal 2 => unfold x)
      | clear_value x
      | skip)
    | fail_if_no_progress lift_lets
    | with_reducible first
      | apply keeps_ite
      | apply keepsP_ite
      | apply storeDev_keeps
      | apply chargeMem_keeps
      | apply failRun_keeps
      | apply windowFault_keeps
      | apply recordAt_keeps
      | exact keepsP_get (by assumption)
      | refine keepsP_eq ?_ (by assumption)
      | refine keepsP_get (p := storeDev _ _ _ _) ?_
    | split
    | with_reducible apply keepsP_mk
    | (with_reducible apply keeps_mk; case hr => rfl)
    | ((with_reducible refine keeps_no hK ?_ (by assumption)); rfl)
    | rfl
    | exact Nat.le_refl _
    | (simp; done)

theorem fireVoided_keeps (idx : ℕ) (bar : ℕ) (k : Sys2Proof.Machine.Stroke) {s : State} (hK : K &&& 24551 = 0) (h0 : Keeps K s0 s) :
    Keeps K s0 (fireVoided idx bar k s) := by
  unfold fireVoided
  repeat' first
    | with_reducible assumption
    | ((with_reducible refine keeps_sub hK ?_); rfl)
    | (intro x; first
      | (refine (?_ : Keeps K s0 x → _) ?_; on_goal 1 => (intro hx; clear_value x)
         on_goal 2 => unfold x)
      | clear_value x
      | skip)
    | fail_if_no_progress lift_lets
    | with_reducible first
      | apply keeps_ite
      | apply addRun_keeps
      | apply writeBuffer_keeps
      | apply deliver_keeps
    | split
    | (with_reducible apply keeps_mk; case hr => rfl)
    | ((with_reducible refine keeps_no hK ?_ (by assumption)); rfl)
    | rfl
    | exact Nat.le_refl _
    | (simp; done)

theorem fire_keeps (op : ℕ) (act : Sys2Proof.Machine.StrokeRun → Sys2Proof.Machine.State → Sys2Proof.Machine.State) {s : State} (hK : K &&& 24551 = 0) (h0 : ∀ u0 u1, Keeps K s0 u1 → Keeps K s0 (act u0 u1)) (h1 : Keeps K s0 s) :
    Keeps K s0 (fire op act s) := by
  unfold fire
  repeat' first
    | with_reducible assumption
    | ((with_reducible refine keeps_sub hK ?_); rfl)
    | (intro x; first
      | (refine (?_ : Keeps K s0 x → _) ?_; on_goal 1 => (intro hx; clear_value x)
         on_goal 2 => unfold x)
      | clear_value x
      | skip)
    | fail_if_no_progress lift_lets
    | with_reducible first
      | apply keeps_ite
      | apply fireVoided_keeps
      | apply addRun_keeps
      | apply h0
    | split
    | (with_reducible apply keeps_mk; case hr => rfl)
    | ((with_reducible refine keeps_no hK ?_ (by assumption)); rfl)
    | rfl
    | exact Nat.le_refl _
    | (simp; done)

theorem execBarrier_keeps  {s : State} (hK : K &&& 2121703 = 0) (h0 : Keeps K s0 s) :
    KeepsX K s0 (execBarrier s) := by
  unfold execBarrier
  repeat' first
    | with_reducible assumption
    | ((with_reducible refine keeps_sub hK ?_); rfl)
    | intro x
    | with_reducible first
      | apply keepsX_next
      | apply fire_keeps
      | apply actBarrier_keeps

theorem sendArrive_keeps (k : ℕ) (r : Sys2Proof.Machine.StrokeRun) {s : State} (hK : K &&& 32772 = 0) (h0 : Keeps K s0 s) :
    Keeps K s0 (sendArrive k r s) := by
  unfold sendArrive
  repeat' first
    | with_reducible assumption
    | ((with_reducible refine keeps_sub hK ?_); rfl)
    | (intro x; first
      | (refine (?_ : Keeps K s0 x → _) ?_; on_goal 1 => (intro hx; clear_value x)
         on_goal 2 => unfold x)
      | clear_value x
      | skip)
    | fail_if_no_progress lift_lets
    | with_reducible first
      | apply keeps_ite
      | apply keeps_foldl
      | apply emit_keeps
    | split
    | (with_reducible apply keeps_mk; case hr => rfl)
    | ((with_reducible refine keeps_no hK ?_ (by assumption)); rfl)
    | rfl
    | exact Nat.le_refl _
    | (simp; done)

theorem gateDone_keeps (r : Sys2Proof.Machine.StrokeRun) {s : State} (hK : K &&& 6245 = 0) (h0 : Keeps K s0 s) :
    Keeps K s0 (gateDone r s) := by
  unfold gateDone
  repeat' first
    | with_reducible assumption
    | ((with_reducible refine keeps_sub hK ?_); rfl)
    | with_reducible first
      | apply unhold_keeps
      | apply finish_keeps

theorem releaseGroup_keeps (r : Sys2Proof.Machine.StrokeRun) {s : State} (hK : K &&& 2097473 = 0) (h0 : Keeps K s0 s) :
    Keeps K s0 (releaseGroup r s) := by
  unfold releaseGroup
  repeat' first
    | with_reducible assumption
    | ((with_reducible refine keeps_sub hK ?_); rfl)
    | (intro x; first
      | (refine (?_ : Keeps K s0 x → _) ?_; on_goal 1 => (intro hx; clear_value x)
         on_goal 2 => unfold x)
      | clear_value x
      | skip)
    | fail_if_no_progress lift_lets
    | with_reducible first
      | apply keeps_foldl
      | apply rollIn_keeps
      | apply readdPhases_keeps
      | apply showState_keeps
      | apply modEng_keeps
      | apply leaveBrush_keeps
    | split
    | (with_reducible apply keeps_mk; case hr => rfl)
    | ((with_reducible refine keeps_no hK ?_ (by assumption)); rfl)
    | rfl
    | exact Nat.le_refl _
    | (simp; done)

theorem execBarrierSatisfied_keeps (p : ℕ) {s : State} (hK : K &&& 2136421 = 0) (h0 : Keeps K s0 s) :
    KeepsX K s0 (execBarrierSatisfied p s) := by
  unfold execBarrierSatisfied
  repeat' first
    | with_reducible assumption
    | ((with_reducible refine keeps_sub hK ?_); rfl)
    | intro x
    | with_reducible first
      | apply keeps_ite
      | apply keepsX_next
      | apply keepsX_ite
      | apply sendArrive_keeps
      | apply gateDone_keeps
      | apply releaseGroup_keeps
    | split

theorem execBudgetExpiry_keeps (idx : ℕ) {s : State} (hK : K &&& 8165 = 0) (h0 : Keeps K s0 s) :
    KeepsX K s0 (execBudgetExpiry idx s) := by
  unfold execBudgetExpiry
  repeat' first
    | with_reducible assumption
    | ((with_reducible refine keeps_sub hK ?_); rfl)
    | (intro x; first
      | (refine (?_ : Keeps K s0 x → _) ?_; on_goal 1 => (intro hx; clear_value x)
         on_goal 2 => unfold x)
      | clear_value x
      | skip)
    | fail_if_no_progress lift_lets
    | with_reducible first
      | apply keeps_ite
      | apply keepsX_next
      | apply keepsX_ite
      | apply finish_keeps
      | apply countOverrun_keeps
      | apply failRun_keeps
      | apply killRun_keeps
      | apply tryFuse_keeps
    | split
    | (with_reducible apply keeps_mk; case hr => rfl)
    | ((with_reducible refine keeps_no hK ?_ (by assumption)); rfl)
    | rfl
    | exact Nat.le_refl _
    | (simp; done)

theorem execCollect_keeps  {s : State} (hK : K &&& 24551 = 0) (h0 : Keeps K s0 s) :
    KeepsX K s0 (execCollect s) := by
  unfold execCollect
  repeat' first
    | with_reducible assumption
    | ((with_reducible refine keeps_sub hK ?_); rfl)
    | intro x
    | with_reducible first
      | apply keepsX_next
      | apply fire_keeps
      | apply actCollect_keeps

theorem execCollectWrite_keeps (idx : ℕ) {s : State} (hK : K &&& 8167 = 0) (h0 : Keeps K s0 s) :
    KeepsX K s0 (execCollectWrite idx s) := by
  unfold execCollectWrite
  repeat' first
    | with_reducible assumption
    | ((with_reducible refine keeps_sub hK ?_); rfl)
    | (intro x; first
      | (refine (?_ : Keeps K s0 x → _) ?_; on_goal 1 => (intro hx; clear_value x)
         on_goal 2 => unfold x)
      | clear_value x
      | skip)
    | fail_if_no_progress lift_lets
    | with_reducible first
      | apply keeps_ite
      | apply keeps_foldl
      | apply keepsX_next
      | apply keepsX_ite
      | apply closeHalves_keeps
      | apply tryFuse_keeps
      | apply finish_keeps
      | apply writeBuffer_keeps
    | split

theorem execEmit_keeps  {s : State} (hK : K &&& 24551 = 0) (h0 : Keeps K s0 s) :
    KeepsX K s0 (execEmit s) := by
  unfold execEmit
  repeat' first
    | with_reducible assumption
    | ((with_reducible refine keeps_sub hK ?_); rfl)
    | intro x
    | with_reducible first
      | apply keepsX_next
      | apply fire_keeps
      | apply addRun_keeps

theorem execEmitDeadline_keeps (idx : ℕ) {s : State} (hK : K &&& 24549 = 0) (h0 : Keeps K s0 s) :
    KeepsX K s0 (execEmitDeadline idx s) := by
  unfold execEmitDeadline
  repeat' first
    | with_reducible assumption
    | ((with_reducible refine keeps_sub hK ?_); rfl)
    | intro x
    | with_reducible first
      | apply keeps_ite
      | apply keepsX_next
      | apply keepsX_ite
      | apply finish_keeps
      | apply deliver_keeps
    | split

theorem execEmitDeliver_keeps (idx : ℕ) {s : State} (hK : K &&& 24549 = 0) (h0 : Keeps K s0 s) :
    KeepsX K s0 (execEmitDeliver idx s) := by
  unfold execEmitDeliver
  repeat' first
    | with_reducible assumption
    | ((with_reducible refine keeps_sub hK ?_); rfl)
    | intro x
    | with_reducible first
      | apply keeps_ite
      | apply keepsX_next
      | apply keepsX_ite
      | apply finish_keeps
      | apply deliver_keeps
    | split

theorem execFuse_keeps  {s : State} (hK : K &&& 24551 = 0) (h0 : Keeps K s0 s) :
    KeepsX K s0 (execFuse s) := by
  unfold execFuse
  repeat' first
    | with_reducible assumption
    | ((with_reducible refine keeps_sub hK ?_); rfl)
    | intro x
    | with_reducible first
      | apply keepsX_next
      | apply fire_keeps
      | apply actFuse_keeps

theorem execGateFailed_keeps (p : ℕ) {s : State} (hK : K &&& 2103653 = 0) (h0 : Keeps K s0 s) :
    KeepsX K s0 (execGateFailed p s) := by
  unfold execGateFailed
  repeat' first
    | with_reducible assumption
    | ((with_reducible refine keeps_sub hK ?_); rfl)
    | (intro x; first
      | (refine (?_ : Keeps K s0 x → _) ?_; on_goal 1 => (intro hx; clear_value x)
         on_goal 2 => unfold x)
      | clear_value x
      | skip)
    | fail_if_no_progress lift_lets
    | with_reducible first
      | apply keeps_ite
      | apply keepsX_next
      | apply keepsX_ite
      | apply recordWarn_keeps
      | apply recordAt_keeps
      | apply releaseGroup_keeps
      | apply modRun_keeps
      | apply unhold_keeps
      | apply voidFrom_keeps
    | split
    | (with_reducible apply keeps_mk; case hr => rfl)
    | ((with_reducible refine keeps_no hK ?_ (by assumption)); rfl)
    | rfl
    | exact Nat.le_refl _
    | (simp; done)

theorem execGateSatisfied_keeps (p : ℕ) {s : State} (hK : K &&& 6245 = 0) (h0 : Keeps K s0 s) :
    KeepsX K s0 (execGateSatisfied p s) := by
  unfold execGateSatisfied
  repeat' first
    | with_reducible assumption
    | ((with_reducible refine keeps_sub hK ?_); rfl)
    | intro x
    | with_reducible first
      | apply keeps_ite
      | apply keepsX_next
      | apply keepsX_ite
      | apply gateDone_keeps
    | split

theorem execMark_keeps  {s : State} (hK : K &&& 24551 = 0) (h0 : Keeps K s0 s) :
    KeepsX K s0 (execMark s) := by
  unfold execMark
  repeat' first
    | with_reducible assumption
    | ((with_reducible refine keeps_sub hK ?_); rfl)
    | intro x
    | with_reducible first
      | apply keepsX_next
      | apply fire_keeps
      | apply actMark_keeps

theorem execNop_keeps  {s : State} (hK : K &&& 24551 = 0) (h0 : Keeps K s0 s) :
    KeepsX K s0 (execNop s) := by
  unfold execNop
  repeat' first
    | with_reducible assumption
    | ((with_reducible refine keeps_sub hK ?_); rfl)
    | intro x
    | with_reducible first
      | apply keepsX_next
      | apply fire_keeps
      | apply addRun_keeps
    | (with_reducible apply keeps_mk; case hr => rfl)
    | ((with_reducible refine keeps_no hK ?_ (by assumption)); rfl)
    | rfl
    | exact Nat.le_refl _
    | (simp; done)

theorem popEntry_keeps (q : ℕ) {s : State} (hK : K &&& 96 = 0) (h0 : Keeps K s0 s) :
    Keeps K s0 (popEntry q s) := by
  unfold popEntry
  repeat' first
    | with_reducible assumption
    | ((with_reducible refine keeps_sub hK ?_); rfl)
    | (intro x; first
      | (refine (?_ : Keeps K s0 x → _) ?_; on_goal 1 => (intro hx; clear_value x)
         on_goal 2 => unfold x)
      | clear_value x
      | skip)
    | fail_if_no_progress lift_lets
    | with_reducible apply modDie_keeps
    | (with_reducible apply keeps_mk; case hr => rfl)
    | ((with_reducible refine keeps_no hK ?_ (by assumption)); rfl)
    | rfl
    | exact Nat.le_refl _
    | (simp; done)

theorem execResultDrain_keeps  {s : State} (hK : K &&& 6245 = 0) (h0 : Keeps K s0 s) :
    KeepsX K s0 (execResultDrain s) := by
  unfold execResultDrain
  repeat' first
    | with_reducible assumption
    | ((with_reducible refine keeps_sub hK ?_); rfl)
    | (intro x; first
      | (refine (?_ : Keeps K s0 x → _) ?_; on_goal 1 => (intro hx; clear_value x)
         on_goal 2 => unfold x)
      | clear_value x
      | skip)
    | fail_if_no_progress lift_lets
    | with_reducible first
      | apply keepsX_next
      | apply drained_keeps
      | apply popEntry_keeps
    | split

theorem execRun_keeps  {s : State} (hK : K &&& 24551 = 0) (h0 : Keeps K s0 s) :
    KeepsX K s0 (execRun s) := by
  unfold execRun
  repeat' first
    | with_reducible assumption
    | ((with_reducible refine keeps_sub hK ?_); rfl)
    | intro x
    | with_reducible first
      | apply keepsX_next
      | apply fire_keeps
      | apply actRun_keeps

theorem execRunPaired_keeps  {s : State} (hK : K &&& 24551 = 0) (h0 : Keeps K s0 s) :
    KeepsX K s0 (execRunPaired s) := by
  unfold execRunPaired
  repeat' first
    | with_reducible assumption
    | ((with_reducible refine keeps_sub hK ?_); rfl)
    | intro x
    | with_reducible first
      | apply keepsX_next
      | apply fire_keeps
      | apply actRun_keeps

theorem execStrokeComplete_keeps (idx : ℕ) {s : State} (hK : K &&& 6245 = 0) (h0 : Keeps K s0 s) :
    KeepsX K s0 (execStrokeComplete idx s) := by
  unfold execStrokeComplete
  repeat' first
    | with_reducible assumption
    | ((with_reducible refine keeps_sub hK ?_); rfl)
    | intro x
    | with_reducible first
      | apply keeps_ite
      | apply keepsX_next
      | apply keepsX_ite
      | apply finish_keeps
    | split

theorem execSwapPoint_keeps  {s : State} (hK : K &&& 24551 = 0) (h0 : Keeps K s0 s) :
    KeepsX K s0 (execSwapPoint s) := by
  unfold execSwapPoint
  repeat' first
    | with_reducible assumption
    | ((with_reducible refine keeps_sub hK ?_); rfl)
    | intro x
    | with_reducible first
      | apply keepsX_next
      | apply fire_keeps
      | apply commitSwap_keeps
      | apply addRun_keeps
    | (with_reducible apply keeps_mk; case hr => rfl)
    | ((with_reducible refine keeps_no hK ?_ (by assumption)); rfl)
    | rfl
    | exact Nat.le_refl _
    | (simp; done)

theorem execTick_keeps  {s : State} (hK : K &&& 7525 = 0) (h0 : Keeps K s0 s) :
    KeepsX K s0 (execTick s) := by
  unfold execTick
  repeat' first
    | with_reducible assumption
    | ((with_reducible refine keeps_sub hK ?_); rfl)
    | (intro x; first
      | (refine (?_ : Keeps K s0 x → _) ?_; on_goal 1 => (intro hx; clear_value x)
         on_goal 2 => unfold x)
      | clear_value x
      | skip)
    | fail_if_no_progress lift_lets
    | with_reducible first
      | apply keeps_ite
      | apply keepsX_next
      | apply keepsX_ite
      | apply endCarry_keeps
      | apply dueAt_keeps
      | apply at_keeps
      | apply setF_keeps
    | split

theorem execWaitLines_keeps  {s : State} (hK : K &&& 24551 = 0) (h0 : Keeps K s0 s) :
    KeepsX K s0 (execWaitLines s) := by
  unfold execWaitLines
  repeat' first
    | with_reducible assumption
    | ((with_reducible refine keeps_sub hK ?_); rfl)
    | intro x
    | with_reducible first
      | apply keepsX_next
      | apply fire_keeps
      | apply actWait_keeps

end Sys2Proof.Machine
end

