-- ==== Sys2Proof/Laws/KeepsPartitions.lean ====
section
/-! SUPPORT. What the operations of Machine/Partitions.lean keep. -/

namespace Sys2Proof.Machine

open Sys2Proof

variable {K : Nat} {s0 : State}

theorem execMsFail_keeps (stk : ℕ) {s : State} (hK : K &&& 6245 = 0) (h0 : Keeps K s0 s) :
    KeepsX K s0 (execMsFail stk s) := by
  unfold execMsFail
  repeat' first
    | with_reducible assumption
    | ((with_reducible refine keeps_sub hK ?_); rfl)
    | with_reducible first
      | apply keeps_ite
      | apply keepsX_next
      | apply keepsX_ite
      | apply dieLeave_keeps
      | apply record_keeps
      | apply setF_keeps
    | split

theorem islReset_keeps (who : Sys2Proof.Agent) (p : ℕ) {s : State} (hK : K &&& 8165 = 0) (h0 : Keeps K s0 s) :
    Keeps K s0 (islReset who p s) := by
  unfold islReset
  repeat' first
    | with_reducible assumption
    | ((with_reducible refine keeps_sub hK ?_); rfl)
    | with_reducible first
      | apply keeps_ite
      | apply partitionFault_keeps
      | apply recordPart_keeps
    | split

theorem execPartitionIslReset_keeps (by_ : Sys2Proof.Agent) (p : ℕ) {s : State} (hK : K &&& 8165 = 0) (h0 : Keeps K s0 s) :
    KeepsX K s0 (execPartitionIslReset by_ p s) := by
  unfold execPartitionIslReset
  repeat' first
    | with_reducible assumption
    | ((with_reducible refine keeps_sub hK ?_); rfl)
    | intro x
    | with_reducible first
      | apply keeps_ite
      | apply keepsX_next
      | apply keepsX_ite
      | apply asMaster_keeps
      | apply islReset_keeps
    | split

theorem execPartitionOvrLimit_keeps (p : ℕ) {s : State} (hK : K &&& 8165 = 0) (h0 : Keeps K s0 s) :
    KeepsX K s0 (execPartitionOvrLimit p s) := by
  unfold execPartitionOvrLimit
  repeat' first
    | with_reducible assumption
    | ((with_reducible refine keeps_sub hK ?_); rfl)
    | intro x
    | with_reducible first
      | apply keeps_ite
      | apply keepsX_next
      | apply keepsX_ite
      | apply partitionFault_keeps
    | split

theorem requestReset_keeps (p : ℕ) {s : State} (hK : K &&& 8165 = 0) (h0 : Keeps K s0 s) :
    Keeps K s0 (requestReset p s) := by
  unfold requestReset
  repeat' first
    | with_reducible assumption
    | ((with_reducible refine keeps_sub hK ?_); rfl)
    | with_reducible apply partitionFault_keeps

theorem execPartitionResetRequest_keeps (by_ : Sys2Proof.Agent) (p : ℕ) {s : State} (hK : K &&& 8165 = 0) (h0 : Keeps K s0 s) :
    KeepsX K s0 (execPartitionResetRequest by_ p s) := by
  unfold execPartitionResetRequest
  repeat' first
    | with_reducible assumption
    | ((with_reducible refine keeps_sub hK ?_); rfl)
    | intro x
    | with_reducible first
      | apply keeps_ite
      | apply keepsX_next
      | apply keepsX_ite
      | apply asMaster_keeps
      | apply requestReset_keeps
    | split

theorem stackUncorr_keeps (n : ℕ) (a : ℕ) (part : ℕ) {s : State} (hK : K &&& 6149 = 0) (h0 : Keeps K s0 s) :
    Keeps K s0 (stackUncorr n a part s) := by
  unfold stackUncorr
  repeat' first
    | with_reducible assumption
    | ((with_reducible refine keeps_sub hK ?_); rfl)
    | with_reducible first
      | apply recordAt_keeps
      | apply bump_keeps

theorem execPatrolScrub_keeps (stk : ℕ) (off : ℕ) (errs : ℕ) {s : State} (hK : K &&& 6149 = 0) (h0 : Keeps K s0 s) :
    KeepsX K s0 (execPatrolScrub stk off errs s) := by
  unfold execPatrolScrub
  repeat' first
    | with_reducible assumption
    | ((with_reducible refine keeps_sub hK ?_); rfl)
    | with_reducible first
      | apply keeps_ite
      | apply keepsX_next
      | apply keepsX_ite
      | apply bump_keeps
      | apply stackUncorr_keeps
    | split

theorem writePrtCtl_keeps (p : ℕ) (v : ℕ) {s : State} (hK : K &&& 8165 = 0) (h0 : Keeps K s0 s) :
    Keeps K s0 (writePrtCtl p v s) := by
  unfold writePrtCtl
  repeat' first
    | with_reducible assumption
    | ((with_reducible refine keeps_sub hK ?_); rfl)
    | (intro x; first
      | (refine (?_ : Keeps K s0 x → _) ?_; on_goal 1 => (intro hx; clear_value x)
         on_goal 2 => unfold x)
      | clear_value x
      | skip)
    | fail_if_no_progress lift_lets
    | with_reducible first
      | apply keeps_ite
      | apply recordPart_keeps
      | apply setFi_keeps
      | apply advanceCfgGen_keeps
      | apply requestReset_keeps
    | split

theorem writePrtQuota_keeps (p : ℕ) (v : ℕ) {s : State} (hK : K &&& 6149 = 0) (h0 : Keeps K s0 s) :
    Keeps K s0 (writePrtQuota p v s) := by
  unfold writePrtQuota
  repeat' first
    | with_reducible assumption
    | ((with_reducible refine keeps_sub hK ?_); rfl)
    | with_reducible first
      | apply keeps_ite
      | apply recordPart_keeps
      | apply setFi_keeps
      | apply advanceCfgGen_keeps
    | split

theorem writePrt_keeps (who : Sys2Proof.Agent) (p : ℕ) (off : ℕ) (v : ℕ) {s : State} (hK : K &&& 8165 = 0) (h0 : Keeps K s0 s) :
    Keeps K s0 (writePrt who p off v s) := by
  unfold writePrt
  repeat' first
    | with_reducible assumption
    | ((with_reducible refine keeps_sub hK ?_); rfl)
    | (intro x; first
      | (refine (?_ : Keeps K s0 x → _) ?_; on_goal 1 => (intro hx; clear_value x)
         on_goal 2 => unfold x)
      | clear_value x
      | skip)
    | fail_if_no_progress lift_lets
    | with_reducible first
      | apply keeps_ite
      | apply writePrtCtl_keeps
      | apply writePrtQuota_keeps
      | apply setFi_keeps
      | apply islReset_keeps
      | apply setFij_keeps
      | apply advanceCfgGen_keeps
    | split

theorem execPrtConfigWrite_keeps (by_ : Sys2Proof.Agent) (p : ℕ) (off : ℕ) (v : Sys2Proof.Word) {s : State} (hK : K &&& 8165 = 0) (h0 : Keeps K s0 s) :
    KeepsX K s0 (execPrtConfigWrite by_ p off v s) := by
  unfold execPrtConfigWrite
  repeat' first
    | with_reducible assumption
    | ((with_reducible refine keeps_sub hK ?_); rfl)
    | intro x
    | with_reducible first
      | apply keeps_ite
      | apply keepsX_next
      | apply keepsX_ite
      | apply asMaster_keeps
      | apply writePrt_keeps
    | split

theorem partBoundary_keeps (p : ℕ) {s : State} (hK : K &&& 129 = 0) (h0 : Keeps K s0 s) :
    Keeps K s0 (partBoundary p s) := by
  unfold partBoundary
  repeat' first
    | with_reducible assumption
    | ((with_reducible refine keeps_sub hK ?_); rfl)
    | (intro x; first
      | (refine (?_ : Keeps K s0 x → _) ?_; on_goal 1 => (intro hx; clear_value x)
         on_goal 2 => unfold x)
      | clear_value x
      | skip)
    | fail_if_no_progress lift_lets
    | with_reducible apply setFi_keeps
    | (with_reducible apply keeps_mk; case hr => rfl)
    | ((with_reducible refine keeps_no hK ?_ (by assumption)); rfl)
    | rfl
    | exact Nat.le_refl _
    | (simp; done)

end Sys2Proof.Machine
end

