-- ==== Sys2Proof/Laws/KeepsTables.lean ====
section
/-! SUPPORT. What the operations of Machine/Tables.lean keep. -/

namespace Sys2Proof.Machine

open Sys2Proof

variable {K : Nat} {s0 : State}

theorem setShadow_keeps (v : ℕ) {s : State} (hK : K &&& 1 = 0) (h0 : Keeps K s0 s) :
    Keeps K s0 (setShadow v s) := by
  unfold setShadow
  repeat' first
    | with_reducible assumption
    | ((with_reducible refine keeps_sub hK ?_); rfl)
    | with_reducible apply setF_keeps

theorem reportRefusal_keeps (idx : ℕ) (code : ℕ) (part : ℕ) {s : State} (hK : K &&& 6149 = 0) (h0 : Keeps K s0 s) :
    Keeps K s0 (reportRefusal idx code part s) := by
  unfold reportRefusal
  repeat' first
    | with_reducible assumption
    | ((with_reducible refine keeps_sub hK ?_); rfl)
    | with_reducible first
      | apply recordPart_keeps
      | apply setF_keeps

theorem reportPass_keeps (slack : ℕ) (idx : ℕ) (stamp : ℕ) {s : State} (hK : K &&& 1 = 0) (h0 : Keeps K s0 s) :
    Keeps K s0 (reportPass slack idx stamp s) := by
  unfold reportPass
  repeat' first
    | with_reducible assumption
    | ((with_reducible refine keeps_sub hK ?_); rfl)
    | with_reducible apply setF_keeps

theorem admissionDone_keeps  {s : State} (hK : K &&& 6181 = 0) (h0 : Keeps K s0 s) :
    Keeps K s0 (admissionDone s) := by
  unfold admissionDone
  repeat' first
    | with_reducible assumption
    | ((with_reducible refine keeps_sub hK ?_); rfl)
    | (intro x; first
      | (refine (?_ : Keeps K s0 x → _) ?_; on_goal 1 => (intro hx; clear_value x)
         on_goal 2 => unfold x)
      | clear_value x
      | skip)
    | fail_if_no_progress lift_lets
    | with_reducible first
      | apply keeps_ite
      | apply setShadow_keeps
      | apply reportRefusal_keeps
      | apply reportPass_keeps
    | split
    | (with_reducible apply keeps_mk; case hr => rfl)
    | ((with_reducible refine keeps_no hK ?_ (by assumption)); rfl)
    | rfl
    | exact Nat.le_refl _
    | (simp; done)

theorem carryRuns_keeps  {s : State} (hK : K &&& 7525 = 0) (h0 : Keeps K s0 s) :
    Keeps K s0 (carryRuns s) := by
  unfold carryRuns
  repeat' first
    | with_reducible assumption
    | ((with_reducible refine keeps_sub hK ?_); rfl)
    | (intro x; first
      | (refine (?_ : Keeps K s0 x → _) ?_; on_goal 1 => (intro hx; clear_value x)
         on_goal 2 => unfold x)
      | clear_value x
      | skip)
    | fail_if_no_progress lift_lets
    | with_reducible first
      | apply keeps_foldl
      | apply stopRun_keeps
    | (with_reducible apply keeps_mk; case hr => rfl)
    | ((with_reducible refine keeps_no hK ?_ (by assumption)); rfl)
    | rfl
    | exact Nat.le_refl _
    | (simp; done)

theorem dropRequests_keeps  {s : State} (hK : K &&& 1 = 0) (h0 : Keeps K s0 s) :
    Keeps K s0 (dropRequests s) := by
  unfold dropRequests
  repeat' first
    | with_reducible assumption
    | ((with_reducible refine keeps_sub hK ?_); rfl)
    | with_reducible apply setF_keeps

theorem loadEpoch_keeps (d : ℕ) {s : State} (hK : K &&& 1 = 0) (h0 : Keeps K s0 s) :
    Keeps K s0 (loadEpoch d s) := by
  unfold loadEpoch
  repeat' first
    | with_reducible assumption
    | ((with_reducible refine keeps_sub hK ?_); rfl)
    | (intro x; first
      | (refine (?_ : Keeps K s0 x → _) ?_; on_goal 1 => (intro hx; clear_value x)
         on_goal 2 => unfold x)
      | clear_value x
      | skip)
    | fail_if_no_progress lift_lets
    | with_reducible first
      | apply keeps_ite
      | apply keeps_foldl
      | apply setF_keeps
    | split

theorem copyBank_keeps (d : ℕ) {s : State} (hK : K &&& 1 = 0) (h0 : Keeps K s0 s) :
    Keeps K s0 (copyBank d s) := by
  unfold copyBank
  repeat' first
    | with_reducible assumption
    | ((with_reducible refine keeps_sub hK ?_); rfl)
    | (intro x; first
      | (refine (?_ : Keeps K s0 x → _) ?_; on_goal 1 => (intro hx; clear_value x)
         on_goal 2 => unfold x)
      | clear_value x
      | skip)
    | fail_if_no_progress lift_lets
    | with_reducible first
      | apply keeps_ite
      | apply keeps_foldl
      | apply setFi_keeps
      | apply setF_keeps
    | split

theorem applySwap_keeps  {s : State} (hK : K &&& 7525 = 0) (h0 : Keeps K s0 s) :
    Keeps K s0 (applySwap s) := by
  unfold applySwap
  repeat' first
    | with_reducible assumption
    | ((with_reducible refine keeps_sub hK ?_); rfl)
    | (intro x; first
      | (refine (?_ : Keeps K s0 x → _) ?_; on_goal 1 => (intro hx; clear_value x)
         on_goal 2 => unfold x)
      | clear_value x
      | skip)
    | fail_if_no_progress lift_lets
    | with_reducible first
      | apply keeps_ite
      | apply keeps_foldl
      | apply carryRuns_keeps
      | apply setF_keeps
      | apply dropRequests_keeps
      | apply setShadow_keeps
      | apply applyFloors_keeps
      | apply loadEpoch_keeps
      | apply copyBank_keeps
    | split
    | (with_reducible apply keeps_mk; case hr => rfl)
    | ((with_reducible refine keeps_no hK ?_ (by assumption)); rfl)
    | rfl
    | exact Nat.le_refl _
    | (simp; done)

theorem commitFallback_keeps  {s : State} (hK : K &&& 33 = 0) (h0 : Keeps K s0 s) :
    Keeps K s0 (commitFallback s) := by
  unfold commitFallback
  repeat' first
    | with_reducible assumption
    | ((with_reducible refine keeps_sub hK ?_); rfl)
    | intro x
    | with_reducible apply setShadow_keeps
    | (with_reducible apply keeps_mk; case hr => rfl)
    | ((with_reducible refine keeps_no hK ?_ (by assumption)); rfl)
    | rfl
    | exact Nat.le_refl _
    | (simp; done)

theorem stopAll_keeps  {s : State} (hK : K &&& 7525 = 0) (h0 : Keeps K s0 s) :
    Keeps K s0 (stopAll s) := by
  unfold stopAll
  repeat' first
    | with_reducible assumption
    | ((with_reducible refine keeps_sub hK ?_); rfl)
    | (intro x; first
      | (refine (?_ : Keeps K s0 x → _) ?_; on_goal 1 => (intro hx; clear_value x)
         on_goal 2 => unfold x)
      | clear_value x
      | skip)
    | fail_if_no_progress lift_lets
    | with_reducible first
      | apply keeps_foldl
      | apply stopRun_keeps
    | (with_reducible apply keeps_mk; case hr => rfl)
    | ((with_reducible refine keeps_no hK ?_ (by assumption)); rfl)
    | rfl
    | exact Nat.le_refl _
    | (simp; done)

theorem setSeqState_keeps (v : ℕ) {s : State} (hK : K &&& 1 = 0) (h0 : Keeps K s0 s) :
    Keeps K s0 (setSeqState v s) := by
  unfold setSeqState
  repeat' first
    | with_reducible assumption
    | ((with_reducible refine keeps_sub hK ?_); rfl)
    | with_reducible apply setF_keeps

theorem enterIdle_keeps  {s : State} (hK : K &&& 7525 = 0) (h0 : Keeps K s0 s) :
    Keeps K s0 (enterIdle s) := by
  unfold enterIdle
  repeat' first
    | with_reducible assumption
    | ((with_reducible refine keeps_sub hK ?_); rfl)
    | (intro x; first
      | (refine (?_ : Keeps K s0 x → _) ?_; on_goal 1 => (intro hx; clear_value x)
         on_goal 2 => unfold x)
      | clear_value x
      | skip)
    | fail_if_no_progress lift_lets
    | with_reducible first
      | apply stopAll_keeps
      | apply setSeqState_keeps
      | apply dropRequests_keeps
    | (with_reducible apply keeps_mk; case hr => rfl)
    | ((with_reducible refine keeps_no hK ?_ (by assumption)); rfl)
    | rfl
    | exact Nat.le_refl _
    | (simp; done)

theorem execAdmissionDone_keeps  {s : State} (hK : K &&& 6181 = 0) (h0 : Keeps K s0 s) :
    KeepsX K s0 (execAdmissionDone s) := by
  unfold execAdmissionDone
  repeat' first
    | with_reducible assumption
    | ((with_reducible refine keeps_sub hK ?_); rfl)
    | with_reducible first
      | apply keeps_ite
      | apply keepsX_next
      | apply keepsX_ite
      | apply admissionDone_keeps
    | split

theorem tableAdmit_keeps  {s : State} (hK : K &&& 6181 = 0) (h0 : Keeps K s0 s) :
    Keeps K s0 (tableAdmit s) := by
  unfold tableAdmit
  repeat' first
    | with_reducible assumption
    | ((with_reducible refine keeps_sub hK ?_); rfl)
    | (intro x; first
      | (refine (?_ : Keeps K s0 x → _) ?_; on_goal 1 => (intro hx; clear_value x)
         on_goal 2 => unfold x)
      | clear_value x
      | skip)
    | fail_if_no_progress lift_lets
    | with_reducible first
      | apply keeps_ite
      | apply setShadow_keeps
      | apply reportRefusal_keeps
      | apply setF_keeps
    | split
    | (with_reducible apply keeps_mk; case hr => rfl)
    | ((with_reducible refine keeps_no hK ?_ (by assumption)); rfl)
    | rfl
    | exact Nat.le_refl _
    | (simp; done)

theorem execAdmit_keeps (by_ : Sys2Proof.Agent) {s : State} (hK : K &&& 8165 = 0) (h0 : Keeps K s0 s) :
    KeepsX K s0 (execAdmit by_ s) := by
  unfold execAdmit
  repeat' first
    | with_reducible assumption
    | ((with_reducible refine keeps_sub hK ?_); rfl)
    | intro x
    | with_reducible first
      | apply keepsX_next
      | apply asMaster_keeps
      | apply tableAdmit_keeps

theorem readStrokes_keeps (a : ℕ) (n : ℕ) {s : State} (hK : K &&& 6405 = 0) (h0 : Keeps K s0 s) :
    KeepsP K s0 (readStrokes a n s) := by
  unfold readStrokes
  repeat' first
    | with_reducible assumption
    | ((with_reducible refine keeps_sub hK ?_); rfl)
    | intro x
    | with_reducible first
      | apply recordAt_keeps
      | apply chargeMem_keeps
      | exact keepsP_get (by assumption)
      | refine keepsP_eq ?_ (by assumption)
    | split
    | with_reducible apply keepsP_mk

theorem fallbackCopied_keeps (n : ℕ) {s : State} (hK : K &&& 6437 = 0) (h0 : Keeps K s0 s) :
    Keeps K s0 (fallbackCopied n s) := by
  unfold fallbackCopied
  repeat' first
    | with_reducible assumption
    | ((with_reducible refine keeps_sub hK ?_); rfl)
    | (intro x; first
      | (refine (?_ : Keeps K s0 x → _) ?_; on_goal 1 => (intro hx; clear_value x)
         on_goal 2 => unfold x)
      | (refine (?_ : KeepsP K s0 x → _) ?_; on_goal 1 => (intro hx; clear_value x)
         on_goal 2 => unfold x)
      | clear_value x
      | skip)
    | fail_if_no_progress lift_lets
    | with_reducible first
      | apply keeps_ite
      | apply keepsP_ite
      | apply readStrokes_keeps
      | apply commitFallback_keeps
      | apply reportPass_keeps
      | apply record_keeps
      | apply reportRefusal_keeps
      | apply setShadow_keeps
      | apply setF_keeps
      | exact keepsP_get (by assumption)
      | refine keepsP_eq ?_ (by assumption)
      | refine keepsP_get (p := readStrokes _ _ _) ?_
    | split
    | with_reducible apply keepsP_mk
    | (with_reducible apply keeps_mk; case hr => rfl)
    | ((with_reducible refine keeps_no hK ?_ (by assumption)); rfl)
    | rfl
    | exact Nat.le_refl _
    | (simp; done)

theorem execFallbackCopyDone_keeps  {s : State} (hK : K &&& 6437 = 0) (h0 : Keeps K s0 s) :
    KeepsX K s0 (execFallbackCopyDone s) := by
  unfold execFallbackCopyDone
  repeat' first
    | with_reducible assumption
    | ((with_reducible refine keeps_sub hK ?_); rfl)
    | intro x
    | with_reducible first
      | apply keeps_ite
      | apply keepsX_next
      | apply keepsX_ite
      | apply fallbackCopied_keeps
    | split

theorem islSwapCancel_keeps (who : Sys2Proof.Agent) {s : State} (hK : K &&& 6149 = 0) (h0 : Keeps K s0 s) :
    Keeps K s0 (islSwapCancel who s) := by
  unfold islSwapCancel
  repeat' first
    | with_reducible assumption
    | ((with_reducible refine keeps_sub hK ?_); rfl)
    | with_reducible first
      | apply keeps_ite
      | apply record_keeps
      | apply setF_keeps
    | split

theorem execIslSwapCancel_keeps (by_ : Sys2Proof.Agent) {s : State} (hK : K &&& 8165 = 0) (h0 : Keeps K s0 s) :
    KeepsX K s0 (execIslSwapCancel by_ s) := by
  unfold execIslSwapCancel
  repeat' first
    | with_reducible assumption
    | ((with_reducible refine keeps_sub hK ?_); rfl)
    | intro x
    | with_reducible first
      | apply keepsX_next
      | apply asMaster_keeps
      | apply islSwapCancel_keeps

theorem swapInIdle_keeps  {s : State} (hK : K &&& 7525 = 0) (h0 : Keeps K s0 s) :
    Keeps K s0 (swapInIdle s) := by
  unfold swapInIdle
  repeat' first
    | with_reducible assumption
    | ((with_reducible refine keeps_sub hK ?_); rfl)
    | with_reducible first
      | apply setSeqState_keeps
      | apply applySwap_keeps

theorem islSwapRequest_keeps (who : Sys2Proof.Agent) {s : State} (hK : K &&& 7525 = 0) (h0 : Keeps K s0 s) :
    Keeps K s0 (islSwapRequest who s) := by
  unfold islSwapRequest
  repeat' first
    | with_reducible assumption
    | ((with_reducible refine keeps_sub hK ?_); rfl)
    | with_reducible first
      | apply keeps_ite
      | apply record_keeps
      | apply swapInIdle_keeps
      | apply setF_keeps
    | split

theorem execIslSwapRequest_keeps (by_ : Sys2Proof.Agent) {s : State} (hK : K &&& 8165 = 0) (h0 : Keeps K s0 s) :
    KeepsX K s0 (execIslSwapRequest by_ s) := by
  unfold execIslSwapRequest
  repeat' first
    | with_reducible assumption
    | ((with_reducible refine keeps_sub hK ?_); rfl)
    | intro x
    | with_reducible first
      | apply keepsX_next
      | apply asMaster_keeps
      | apply islSwapRequest_keeps

theorem seqStop_keeps  {s : State} (hK : K &&& 7525 = 0) (h0 : Keeps K s0 s) :
    Keeps K s0 (seqStop s) := by
  unfold seqStop
  repeat' first
    | with_reducible assumption
    | ((with_reducible refine keeps_sub hK ?_); rfl)
    | intro x
    | with_reducible first
      | apply keeps_ite
      | apply enterIdle_keeps
    | split
    | (with_reducible apply keeps_mk; case hr => rfl)
    | ((with_reducible refine keeps_no hK ?_ (by assumption)); rfl)
    | rfl
    | exact Nat.le_refl _
    | (simp; done)

theorem execSeqStop_keeps (by_ : Sys2Proof.Agent) {s : State} (hK : K &&& 8165 = 0) (h0 : Keeps K s0 s) :
    KeepsX K s0 (execSeqStop by_ s) := by
  unfold execSeqStop
  repeat' first
    | with_reducible assumption
    | ((with_reducible refine keeps_sub hK ?_); rfl)
    | intro x
    | with_reducible first
      | apply keepsX_next
      | apply asMaster_keeps
      | apply seqStop_keeps

theorem swapCancel_keeps  {s : State} (hK : K &&& 1 = 0) (h0 : Keeps K s0 s) :
    Keeps K s0 (swapCancel s) := by
  unfold swapCancel
  repeat' first
    | with_reducible assumption
    | ((with_reducible refine keeps_sub hK ?_); rfl)
    | with_reducible apply setF_keeps

theorem execSwapCancel_keeps (by_ : Sys2Proof.Agent) {s : State} (hK : K &&& 8165 = 0) (h0 : Keeps K s0 s) :
    KeepsX K s0 (execSwapCancel by_ s) := by
  unfold execSwapCancel
  repeat' first
    | with_reducible assumption
    | ((with_reducible refine keeps_sub hK ?_); rfl)
    | intro x
    | with_reducible first
      | apply keepsX_next
      | apply asMaster_keeps
      | apply swapCancel_keeps

theorem swapRequest_keeps  {s : State} (hK : K &&& 7525 = 0) (h0 : Keeps K s0 s) :
    Keeps K s0 (swapRequest s) := by
  unfold swapRequest
  repeat' first
    | with_reducible assumption
    | ((with_reducible refine keeps_sub hK ?_); rfl)
    | with_reducible first
      | apply keeps_ite
      | apply record_keeps
      | apply swapInIdle_keeps
      | apply setF_keeps
    | split

theorem execSwapRequest_keeps (by_ : Sys2Proof.Agent) {s : State} (hK : K &&& 8165 = 0) (h0 : Keeps K s0 s) :
    KeepsX K s0 (execSwapRequest by_ s) := by
  unfold execSwapRequest
  repeat' first
    | with_reducible assumption
    | ((with_reducible refine keeps_sub hK ?_); rfl)
    | intro x
    | with_reducible first
      | apply keepsX_next
      | apply asMaster_keeps
      | apply swapRequest_keeps

theorem tableLoad_keeps  {s : State} (hK : K &&& 6437 = 0) (h0 : Keeps K s0 s) :
    Keeps K s0 (tableLoad s) := by
  unfold tableLoad
  repeat' first
    | with_reducible assumption
    | ((with_reducible refine keeps_sub hK ?_); rfl)
    | (intro x; first
      | (refine (?_ : Keeps K s0 x → _) ?_; on_goal 1 => (intro hx; clear_value x)
         on_goal 2 => unfold x)
      | (refine (?_ : KeepsP K s0 x → _) ?_; on_goal 1 => (intro hx; clear_value x)
         on_goal 2 => unfold x)
      | clear_value x
      | skip)
    | fail_if_no_progress lift_lets
    | with_reducible first
      | apply keeps_ite
      | apply keepsP_ite
      | apply setShadow_keeps
      | apply reportRefusal_keeps
      | apply dropRequests_keeps
      | apply readStrokes_keeps
      | exact keepsP_get (by assumption)
      | refine keepsP_eq ?_ (by assumption)
      | refine keepsP_get (p := readStrokes _ _ _) ?_
    | split
    | with_reducible apply keepsP_mk
    | (with_reducible apply keeps_mk; case hr => rfl)
    | ((with_reducible refine keeps_no hK ?_ (by assumption)); rfl)
    | rfl
    | exact Nat.le_refl _
    | (simp; done)

theorem execTableLoad_keeps (by_ : Sys2Proof.Agent) {s : State} (hK : K &&& 8165 = 0) (h0 : Keeps K s0 s) :
    KeepsX K s0 (execTableLoad by_ s) := by
  unfold execTableLoad
  repeat' first
    | with_reducible assumption
    | ((with_reducible refine keeps_sub hK ?_); rfl)
    | intro x
    | with_reducible first
      | apply keepsX_next
      | apply asMaster_keeps
      | apply tableLoad_keeps

theorem execTableLoadDone_keeps  {s : State} (hK : K &&& 1 = 0) (h0 : Keeps K s0 s) :
    KeepsX K s0 (execTableLoadDone s) := by
  unfold execTableLoadDone
  repeat' first
    | with_reducible assumption
    | ((with_reducible refine keeps_sub hK ?_); rfl)
    | with_reducible first
      | apply keeps_ite
      | apply keepsX_next
      | apply keepsX_ite
      | apply setShadow_keeps
    | split

end Sys2Proof.Machine
end

