-- ==== Sys2Proof/Laws/KeepsRegulator.lean ====
section
/-! SUPPORT. What the operations of Machine/Regulator.lean keep. -/

namespace Sys2Proof.Machine

open Sys2Proof

variable {K : Nat} {s0 : State}

theorem showOcc_keeps (n : ℕ) {s : State} (hK : K &&& 1 = 0) (h0 : Keeps K s0 s) :
    Keeps K s0 (showOcc n s) := by
  unfold showOcc
  repeat' first
    | with_reducible assumption
    | ((with_reducible refine keeps_sub hK ?_); rfl)
    | with_reducible apply setF_keeps

theorem bwAdmit_keeps (n : ℕ) (q : Sys2Proof.Machine.BwReq) {s : State} (hK : K &&& 262145 = 0) (h0 : Keeps K s0 s) :
    KeepsP K s0 (bwAdmit n q s) := by
  unfold bwAdmit
  repeat' first
    | with_reducible assumption
    | ((with_reducible refine keeps_sub hK ?_); rfl)
    | (intro x; first
      | (refine (?_ : Keeps K s0 x → _) ?_; on_goal 1 => (intro hx; clear_value x)
         on_goal 2 => unfold x)
      | (refine (?_ : KeepsP K s0 x → _) ?_; on_goal 1 => (intro hx; clear_value x)
         on_goal 2 => unfold x)
      | clear_value x
      | skip)
    | fail_if_no_progress lift_lets
    | with_reducible first
      | apply keeps_ite
      | apply keepsP_ite
      | apply setFij_keeps
      | apply showOcc_keeps
      | exact keepsP_get (by assumption)
      | refine keepsP_eq ?_ (by assumption)
    | split
    | with_reducible apply keepsP_mk
    | (with_reducible apply keeps_mk; case hr => rfl)
    | ((with_reducible refine keeps_no hK ?_ (by assumption)); rfl)
    | rfl
    | exact Nat.le_refl _
    | (simp; done)

theorem bwBoundary_keeps  {s : State} (hK : K &&& 262145 = 0) (h0 : Keeps K s0 s) :
    Keeps K s0 (bwBoundary s) := by
  unfold bwBoundary
  repeat' first
    | with_reducible assumption
    | ((with_reducible refine keeps_sub hK ?_); rfl)
    | (intro x; first
      | (refine (?_ : Keeps K s0 x → _) ?_; on_goal 1 => (intro hx; clear_value x)
         on_goal 2 => unfold x)
      | clear_value x
      | skip)
    | fail_if_no_progress lift_lets
    | with_reducible first
      | apply keeps_ite
      | apply setF_keeps
    | split
    | (with_reducible apply keeps_mk; case hr => rfl)
    | ((with_reducible refine keeps_no hK ?_ (by assumption)); rfl)
    | rfl
    | exact Nat.le_refl _
    | (simp; done)

theorem bwCommit_keeps  {s : State} (hK : K &&& 262145 = 0) (h0 : Keeps K s0 s) :
    Keeps K s0 (bwCommit s) := by
  unfold bwCommit
  repeat' first
    | with_reducible assumption
    | ((with_reducible refine keeps_sub hK ?_); rfl)
    | intro x
    | with_reducible first
      | apply setF_keeps
      | apply advanceCfgGen_keeps
    | (with_reducible apply keeps_mk; case hr => rfl)
    | ((with_reducible refine keeps_no hK ?_ (by assumption)); rfl)
    | rfl
    | exact Nat.le_refl _
    | (simp; done)

theorem countChannels_keeps (n : ℕ) (q : Sys2Proof.Machine.BwReq) {s : State} (hK : K &&& 262144 = 0) (h0 : Keeps K s0 s) :
    Keeps K s0 (countChannels n q s) := by
  unfold countChannels
  repeat' first
    | with_reducible assumption
    | ((with_reducible refine keeps_sub hK ?_); rfl)
    | (intro x; first
      | (refine (?_ : Keeps K s0 x → _) ?_; on_goal 1 => (intro hx; clear_value x)
         on_goal 2 => unfold x)
      | clear_value x
      | skip)
    | fail_if_no_progress lift_lets
    | with_reducible apply keeps_foldl
    | (with_reducible apply keeps_mk; case hr => rfl)
    | ((with_reducible refine keeps_no hK ?_ (by assumption)); rfl)
    | rfl
    | exact Nat.le_refl _
    | (simp; done)

theorem bwComplete_keeps (n : ℕ) (q : Sys2Proof.Machine.BwReq) {s : State} (hK : K &&& 268549 = 0) (h0 : Keeps K s0 s) :
    Keeps K s0 (bwComplete n q s) := by
  unfold bwComplete
  repeat' first
    | with_reducible assumption
    | ((with_reducible refine keeps_sub hK ?_); rfl)
    | (intro x; first
      | (refine (?_ : Keeps K s0 x → _) ?_; on_goal 1 => (intro hx; clear_value x)
         on_goal 2 => unfold x)
      | clear_value x
      | skip)
    | fail_if_no_progress lift_lets
    | with_reducible first
      | apply keeps_ite
      | apply countChannels_keeps
      | apply chargeStack_keeps
      | apply bump_keeps
      | apply stackUncorr_keeps
    | split

theorem bwRetry_keeps (a0 : List (ℕ × Sys2Proof.Machine.BwReq)) (a1 : List (ℕ × Sys2Proof.Machine.BwReq)) {a2 : State} (hK : K &&& 262145 = 0) (h0 : Keeps K s0 a2) :
    Keeps K s0 (bwRetry a0 a1 a2) := by
  induction a0 generalizing a1 a2 with
  | nil =>
    apply keeps_mk h0 <;> first | rfl | exact le_rfl | exact fun _ => rfl | exact fun b => keeps_no hK rfl b
  | cons x rest ih =>
    obtain ⟨n, q⟩ := x
    unfold bwRetry
    refine keeps_ite (ih _ h0) ?_
    have hr : KeepsP K s0 (bwAdmit n q a2) := bwAdmit_keeps _ _ (keeps_sub hK rfl) h0
    generalize bwAdmit n q a2 = r at hr
    exact keeps_ite (ih _ hr) (ih _ hr)

theorem bwServe_keeps (n : ℕ) (a1 : ℕ) (a2 : ℕ) {a3 : State} (hK : K &&& 268549 = 0) (h0 : Keeps K s0 a3) :
    Keeps K s0 (bwServe n a1 a2 a3) := by
  induction a1 generalizing a2 a3 with
  | zero => exact h0
  | succ fuel ih =>
    unfold bwServe
    split
    · exact h0
    · exact keeps_ite h0 (ih _ (bwComplete_keeps _ _ (keeps_sub hK rfl) (by
      apply keeps_mk h0 <;> first | rfl | exact le_rfl | exact fun _ => rfl | exact fun b => keeps_no hK rfl b)))

theorem execBwCommit_keeps (by_ : Sys2Proof.Agent) {s : State} (hK : K &&& 270309 = 0) (h0 : Keeps K s0 s) :
    KeepsX K s0 (execBwCommit by_ s) := by
  unfold execBwCommit
  repeat' first
    | with_reducible assumption
    | ((with_reducible refine keeps_sub hK ?_); rfl)
    | intro x
    | with_reducible first
      | apply keepsX_next
      | apply asMaster_keeps
      | apply bwCommit_keeps

theorem execBwCommitCheckDone_keeps  {s : State} (hK : K &&& 268293 = 0) (h0 : Keeps K s0 s) :
    KeepsX K s0 (execBwCommitCheckDone s) := by
  unfold execBwCommitCheckDone
  repeat' first
    | with_reducible assumption
    | ((with_reducible refine keeps_sub hK ?_); rfl)
    | (intro x; first
      | (refine (?_ : Keeps K s0 x → _) ?_; on_goal 1 => (intro hx; clear_value x)
         on_goal 2 => unfold x)
      | clear_value x
      | skip)
    | fail_if_no_progress lift_lets
    | with_reducible first
      | apply keeps_foldl
      | apply keepsX_next
      | apply setFi_keeps
      | apply record_keeps
      | apply setF_keeps
    | split
    | (with_reducible apply keeps_mk; case hr => rfl)
    | ((with_reducible refine keeps_no hK ?_ (by assumption)); rfl)
    | rfl
    | exact Nat.le_refl _
    | (simp; done)

theorem skewSample_keeps (n : ℕ) {s : State} (hK : K &&& 262145 = 0) (h0 : Keeps K s0 s) :
    Keeps K s0 (skewSample n s) := by
  unfold skewSample
  repeat' first
    | with_reducible assumption
    | ((with_reducible refine keeps_sub hK ?_); rfl)
    | (intro x; first
      | (refine (?_ : Keeps K s0 x → _) ?_; on_goal 1 => (intro hx; clear_value x)
         on_goal 2 => unfold x)
      | clear_value x
      | skip)
    | fail_if_no_progress lift_lets
    | with_reducible first
      | apply keeps_ite
      | apply bump_keeps
    | split
    | (with_reducible apply keeps_mk; case hr => rfl)
    | ((with_reducible refine keeps_no hK ?_ (by assumption)); rfl)
    | rfl
    | exact Nat.le_refl _
    | (simp; done)

theorem execQueueLevelSample_keeps (stk : ℕ) {s : State} (hK : K &&& 268549 = 0) (h0 : Keeps K s0 s) :
    KeepsX K s0 (execQueueLevelSample stk s) := by
  unfold execQueueLevelSample
  repeat' first
    | with_reducible assumption
    | ((with_reducible refine keeps_sub hK ?_); rfl)
    | (intro x; first
      | (refine (?_ : Keeps K s0 x → _) ?_; on_goal 1 => (intro hx; clear_value x)
         on_goal 2 => unfold x)
      | clear_value x
      | skip)
    | fail_if_no_progress lift_lets
    | with_reducible first
      | apply keeps_ite
      | apply keepsX_next
      | apply keepsX_ite
      | apply showOcc_keeps
      | apply bwServe_keeps
      | apply setF_keeps
      | apply skewSample_keeps
      | apply bwRetry_keeps
    | split
    | (with_reducible apply keeps_mk; case hr => rfl)
    | ((with_reducible refine keeps_no hK ?_ (by assumption)); rfl)
    | rfl
    | exact Nat.le_refl _
    | (simp; done)

theorem execRegulatorWindow_keeps (m : ℕ) {s : State} (hK : K &&& 262145 = 0) (h0 : Keeps K s0 s) :
    KeepsX K s0 (execRegulatorWindow m s) := by
  unfold execRegulatorWindow
  repeat' first
    | with_reducible assumption
    | ((with_reducible refine keeps_sub hK ?_); rfl)
    | (intro x; first
      | (refine (?_ : Keeps K s0 x → _) ?_; on_goal 1 => (intro hx; clear_value x)
         on_goal 2 => unfold x)
      | clear_value x
      | skip)
    | fail_if_no_progress lift_lets
    | with_reducible first
      | apply keeps_ite
      | apply keeps_foldl
      | apply keepsX_next
      | apply keepsX_ite
      | apply setFij_keeps
      | apply bwRetry_keeps
    | split

theorem execStackRequest_keeps (stk : ℕ) (master : ℕ) (off : ℕ) (len : ℕ) (wr : Bool) (uncorr : Bool) {s : State} (hK : K &&& 268293 = 0) (h0 : Keeps K s0 s) :
    KeepsX K s0 (execStackRequest stk master off len wr uncorr s) := by
  unfold execStackRequest
  repeat' first
    | with_reducible assumption
    | ((with_reducible refine keeps_sub hK ?_); rfl)
    | (intro x; first
      | (refine (?_ : Keeps K s0 x → _) ?_; on_goal 1 => (intro hx; clear_value x)
         on_goal 2 => unfold x)
      | clear_value x
      | skip)
    | fail_if_no_progress lift_lets
    | with_reducible first
      | apply keeps_ite
      | apply keepsX_next
      | apply keepsX_ite
      | apply answer_keeps
      | apply recordAt_keeps
      | apply bumpI_keeps
      | apply bwRetry_keeps
    | split
    | (with_reducible apply keeps_mk; case hr => rfl)
    | ((with_reducible refine keeps_no hK ?_ (by assumption)); rfl)
    | rfl
    | exact Nat.le_refl _
    | (simp; done)

end Sys2Proof.Machine
end

