-- ==== Sys2Proof/Laws/KeepsLedger.lean ====
section
/-! SUPPORT. What the operations of Machine/Ledger.lean keep. -/

namespace Sys2Proof.Machine

open Sys2Proof

variable {K : Nat} {s0 : State}

theorem abandonCkpt_keeps  {s : State} (hK : K &&& 131073 = 0) (h0 : Keeps K s0 s) :
    Keeps K s0 (abandonCkpt s) := by
  unfold abandonCkpt
  repeat' first
    | with_reducible assumption
    | ((with_reducible refine keeps_sub hK ?_); rfl)
    | intro x
    | with_reducible first
      | apply keeps_ite
      | apply keeps_foldl
      | apply bump_keeps
      | apply setFi_keeps
    | split
    | (with_reducible apply keeps_mk; case hr => rfl)
    | ((with_reducible refine keeps_no hK ?_ (by assumption)); rfl)
    | rfl
    | exact Nat.le_refl _
    | (simp; done)

theorem modLdg_keeps (f : Sys2Proof.Machine.Ldg → Sys2Proof.Machine.Ldg) {s : State} (hK : K &&& 4096 = 0) (h0 : Keeps K s0 s) :
    Keeps K s0 (modLdg f s) := by
  unfold modLdg
  repeat' first
    | with_reducible assumption
    | ((with_reducible refine keeps_sub hK ?_); rfl)
    | intro x
    | (with_reducible apply keeps_mk; case hr => rfl)
    | ((with_reducible refine keeps_no hK ?_ (by assumption)); rfl)
    | rfl
    | exact Nat.le_refl _
    | (simp; done)

theorem baseWords_keeps (es : List Sys2Proof.Machine.LdgEntry) {s : State} (hK : K &&& 4096 = 0) (h0 : Keeps K s0 s) :
    Keeps K s0 (baseWords es s) := by
  unfold baseWords
  repeat' first
    | with_reducible assumption
    | ((with_reducible refine keeps_sub hK ?_); rfl)
    | intro x
    | with_reducible first
      | apply keeps_foldl
      | apply modLdg_keeps
    | (with_reducible apply keeps_mk; case hr => rfl)
    | ((with_reducible refine keeps_no hK ?_ (by assumption)); rfl)
    | rfl
    | exact Nat.le_refl _
    | (simp; done)

theorem setLdgSeq_keeps (n : ℕ) {s : State} (hK : K &&& 1 = 0) (h0 : Keeps K s0 s) :
    Keeps K s0 (setLdgSeq n s) := by
  unfold setLdgSeq
  repeat' first
    | with_reducible assumption
    | ((with_reducible refine keeps_sub hK ?_); rfl)
    | with_reducible apply set64_keeps

theorem putRecord_keeps (j : Sys2Proof.Machine.LdgJob) (role : ℕ) (phys : ℕ) (part : ℕ) (parts : ℕ) (ok : Bool) {s : State} (hK : K &&& 6149 = 0) (h0 : Keeps K s0 s) :
    Keeps K s0 (putRecord j role phys part parts ok s) := by
  unfold putRecord
  repeat' first
    | with_reducible assumption
    | ((with_reducible refine keeps_sub hK ?_); rfl)
    | (intro x; first
      | (refine (?_ : Keeps K s0 x → _) ?_; on_goal 1 => (intro hx; clear_value x)
         on_goal 2 => unfold x)
      | clear_value x
      | skip)
    | fail_if_no_progress lift_lets
    | with_reducible first
      | apply keeps_ite
      | apply setLdgSeq_keeps
      | apply modLdg_keeps
      | apply setF_keeps
      | apply record_keeps
    | split
    | (with_reducible apply keeps_mk; case hr => rfl)
    | ((with_reducible refine keeps_no hK ?_ (by assumption)); rfl)
    | rfl
    | exact Nat.le_refl _
    | (simp; done)

theorem startJob?_keeps (j : Sys2Proof.Machine.LdgJob) {s : State} (hK : K &&& 6149 = 0) (h0 : Keeps K s0 s) :
    KeepsO K s0 (startJob? j s) := by
  unfold startJob?
  repeat' first
    | with_reducible assumption
    | ((with_reducible refine keeps_sub hK ?_); rfl)
    | (intro x; first
      | (refine (?_ : Keeps K s0 x → _) ?_; on_goal 1 => (intro hx; clear_value x)
         on_goal 2 => unfold x)
      | clear_value x
      | skip)
    | fail_if_no_progress lift_lets
    | with_reducible first
      | apply keeps_ite
      | apply keepsO_ite
      | apply keepsO_some
      | apply putRecord_keeps
      | apply modLdg_keeps
      | exact keepsO_none
    | split
    | (with_reducible apply keeps_mk; case hr => rfl)
    | ((with_reducible refine keeps_no hK ?_ (by assumption)); rfl)
    | rfl
    | exact Nat.le_refl _
    | (simp; done)

theorem pump_keeps  {s : State} (hK : K &&& 6149 = 0) (h0 : Keeps K s0 s) :
    Keeps K s0 (pump s) := by
  unfold pump
  repeat' first
    | with_reducible assumption
    | ((with_reducible refine keeps_sub hK ?_); rfl)
    | intro x
    | with_reducible first
      | apply keeps_ite
      | apply keeps_foldl
      | apply keepsO_ite
      | apply keepsO_some
      | apply startJob?_keeps
      | apply modLdg_keeps
      | refine keepsO_get ?_ (by assumption)
    | split
    | (with_reducible apply keeps_mk; case hr => rfl)
    | ((with_reducible refine keeps_no hK ?_ (by assumption)); rfl)
    | rfl
    | exact Nat.le_refl _
    | (simp; done)

theorem commit_keeps (j : Sys2Proof.Machine.LdgJob) {s : State} (hK : K &&& 6149 = 0) (h0 : Keeps K s0 s) :
    Keeps K s0 (commit j s) := by
  unfold commit
  repeat' first
    | with_reducible assumption
    | ((with_reducible refine keeps_sub hK ?_); rfl)
    | intro x
    | with_reducible first
      | apply pump_keeps
      | apply modLdg_keeps
    | (with_reducible apply keeps_mk; case hr => rfl)
    | ((with_reducible refine keeps_no hK ?_ (by assumption)); rfl)
    | rfl
    | exact Nat.le_refl _
    | (simp; done)

theorem fwRefuse_keeps (code : ℕ) {s : State} (hK : K &&& 6149 = 0) (h0 : Keeps K s0 s) :
    Keeps K s0 (fwRefuse code s) := by
  unfold fwRefuse
  repeat' first
    | with_reducible assumption
    | ((with_reducible refine keeps_sub hK ?_); rfl)
    | with_reducible first
      | apply setF_keeps
      | apply record_keeps

theorem refused70_keeps  {s : State} (hK : K &&& 6149 = 0) (h0 : Keeps K s0 s) :
    Keeps K s0 (refused70 s) := by
  unfold refused70
  repeat' first
    | with_reducible assumption
    | ((with_reducible refine keeps_sub hK ?_); rfl)
    | with_reducible apply fwRefuse_keeps

theorem commitBoot_keeps (active : ℕ) (trial : ℕ) (tries : ℕ) (svn : ℕ) {s : State} (hK : K &&& 6149 = 0) (h0 : Keeps K s0 s) :
    Keeps K s0 (commitBoot active trial tries svn s) := by
  unfold commitBoot
  repeat' first
    | with_reducible assumption
    | ((with_reducible refine keeps_sub hK ?_); rfl)
    | intro x
    | with_reducible first
      | apply keeps_ite
      | apply commit_keeps
      | apply refused70_keeps
    | split
    | (with_reducible apply keeps_mk; case hr => rfl)
    | ((with_reducible refine keeps_no hK ?_ (by assumption)); rfl)
    | rfl
    | exact Nat.le_refl _
    | (simp; done)

theorem bootCancel_keeps  {s : State} (hK : K &&& 6149 = 0) (h0 : Keeps K s0 s) :
    Keeps K s0 (bootCancel s) := by
  unfold bootCancel
  repeat' first
    | with_reducible assumption
    | ((with_reducible refine keeps_sub hK ?_); rfl)
    | with_reducible apply commitBoot_keeps

theorem bootConfirm_keeps  {s : State} (hK : K &&& 6149 = 0) (h0 : Keeps K s0 s) :
    Keeps K s0 (bootConfirm s) := by
  unfold bootConfirm
  repeat' first
    | with_reducible assumption
    | ((with_reducible refine keeps_sub hK ?_); rfl)
    | with_reducible first
      | apply keeps_ite
      | apply commitBoot_keeps
    | split

theorem bootTrial_keeps  {s : State} (hK : K &&& 6149 = 0) (h0 : Keeps K s0 s) :
    Keeps K s0 (bootTrial s) := by
  unfold bootTrial
  repeat' first
    | with_reducible assumption
    | ((with_reducible refine keeps_sub hK ?_); rfl)
    | with_reducible apply commitBoot_keeps

theorem modHld_keeps (f : Sys2Proof.Machine.Hld → Sys2Proof.Machine.Hld) {s : State} (hK : K &&& 8192 = 0) (h0 : Keeps K s0 s) :
    Keeps K s0 (modHld f s) := by
  unfold modHld
  repeat' first
    | with_reducible assumption
    | ((with_reducible refine keeps_sub hK ?_); rfl)
    | intro x
    | (with_reducible apply keeps_mk; case hr => rfl)
    | ((with_reducible refine keeps_no hK ?_ (by assumption)); rfl)
    | rfl
    | exact Nat.le_refl _
    | (simp; done)

theorem startCharge_keeps  {s : State} (hK : K &&& 8193 = 0) (h0 : Keeps K s0 s) :
    Keeps K s0 (startCharge s) := by
  unfold startCharge
  repeat' first
    | with_reducible assumption
    | ((with_reducible refine keeps_sub hK ?_); rfl)
    | intro x
    | with_reducible first
      | apply modHld_keeps
      | apply setF_keeps
    | (with_reducible apply keeps_mk; case hr => rfl)
    | ((with_reducible refine keeps_no hK ?_ (by assumption)); rfl)
    | rfl
    | exact Nat.le_refl _
    | (simp; done)

theorem chargerStep_keeps  {s : State} (hK : K &&& 8193 = 0) (h0 : Keeps K s0 s) :
    Keeps K s0 (chargerStep s) := by
  unfold chargerStep
  repeat' first
    | with_reducible assumption
    | ((with_reducible refine keeps_sub hK ?_); rfl)
    | (intro x; first
      | (refine (?_ : Keeps K s0 x → _) ?_; on_goal 1 => (intro hx; clear_value x)
         on_goal 2 => unfold x)
      | clear_value x
      | skip)
    | fail_if_no_progress lift_lets
    | with_reducible first
      | apply keeps_ite
      | apply startCharge_keeps
      | apply setF_keeps
    | split

theorem holdupEntry_keeps  {s : State} (hK : K &&& 6149 = 0) (h0 : Keeps K s0 s) :
    Keeps K s0 (holdupEntry s) := by
  unfold holdupEntry
  repeat' first
    | with_reducible assumption
    | ((with_reducible refine keeps_sub hK ?_); rfl)
    | (intro x; first
      | (refine (?_ : Keeps K s0 x → _) ?_; on_goal 1 => (intro hx; clear_value x)
         on_goal 2 => unfold x)
      | clear_value x
      | skip)
    | fail_if_no_progress lift_lets
    | with_reducible apply journal_keeps

theorem clearDegraded_keeps  {s : State} (hK : K &&& 6149 = 0) (h0 : Keeps K s0 s) :
    Keeps K s0 (clearDegraded s) := by
  unfold clearDegraded
  repeat' first
    | with_reducible assumption
    | ((with_reducible refine keeps_sub hK ?_); rfl)
    | with_reducible first
      | apply holdupEntry_keeps
      | apply setF_keeps

theorem setDegraded_keeps  {s : State} (hK : K &&& 6149 = 0) (h0 : Keeps K s0 s) :
    Keeps K s0 (setDegraded s) := by
  unfold setDegraded
  repeat' first
    | with_reducible assumption
    | ((with_reducible refine keeps_sub hK ?_); rfl)
    | with_reducible first
      | apply keeps_ite
      | apply holdupEntry_keeps
      | apply setF_keeps
    | split

theorem degrade_keeps  {s : State} (hK : K &&& 6149 = 0) (h0 : Keeps K s0 s) :
    Keeps K s0 (degrade s) := by
  unfold degrade
  repeat' first
    | with_reducible assumption
    | ((with_reducible refine keeps_sub hK ?_); rfl)
    | with_reducible first
      | apply keeps_ite
      | apply record_keeps
      | apply setDegraded_keeps
    | split

theorem showQueue_keeps  {s : State} (hK : K &&& 1 = 0) (h0 : Keeps K s0 s) :
    Keeps K s0 (showQueue s) := by
  unfold showQueue
  repeat' first
    | with_reducible assumption
    | ((with_reducible refine keeps_sub hK ?_); rfl)
    | with_reducible apply setF_keeps

theorem dropJob?_keeps (j : Sys2Proof.Machine.LdgJob) {s : State} (hK : K &&& 6149 = 0) (h0 : Keeps K s0 s) :
    Keeps K s0 (dropJob? j s) := by
  unfold dropJob?
  repeat' first
    | with_reducible assumption
    | ((with_reducible refine keeps_sub hK ?_); rfl)
    | intro x
    | with_reducible first
      | apply showQueue_keeps
      | apply modLdg_keeps
      | apply fwRefuse_keeps
    | split
    | (with_reducible apply keeps_mk; case hr => rfl)
    | ((with_reducible refine keeps_no hK ?_ (by assumption)); rfl)
    | rfl
    | exact Nat.le_refl _
    | (simp; done)

theorem execBootCancel_keeps (by_ : Sys2Proof.Agent) {s : State} (hK : K &&& 8165 = 0) (h0 : Keeps K s0 s) :
    KeepsX K s0 (execBootCancel by_ s) := by
  unfold execBootCancel
  repeat' first
    | with_reducible assumption
    | ((with_reducible refine keeps_sub hK ?_); rfl)
    | intro x
    | with_reducible first
      | apply keepsX_next
      | apply asGuarded_keeps
      | apply bootCancel_keeps

theorem execBootConfirm_keeps (by_ : Sys2Proof.Agent) {s : State} (hK : K &&& 8165 = 0) (h0 : Keeps K s0 s) :
    KeepsX K s0 (execBootConfirm by_ s) := by
  unfold execBootConfirm
  repeat' first
    | with_reducible assumption
    | ((with_reducible refine keeps_sub hK ?_); rfl)
    | intro x
    | with_reducible first
      | apply keepsX_next
      | apply asGuarded_keeps
      | apply bootConfirm_keeps

theorem execBootTrial_keeps (by_ : Sys2Proof.Agent) {s : State} (hK : K &&& 8165 = 0) (h0 : Keeps K s0 s) :
    KeepsX K s0 (execBootTrial by_ s) := by
  unfold execBootTrial
  repeat' first
    | with_reducible assumption
    | ((with_reducible refine keeps_sub hK ?_); rfl)
    | intro x
    | with_reducible first
      | apply keepsX_next
      | apply asGuarded_keeps
      | apply bootTrial_keeps

theorem execChargeTimeout_keeps  {s : State} (hK : K &&& 6149 = 0) (h0 : Keeps K s0 s) :
    KeepsX K s0 (execChargeTimeout s) := by
  unfold execChargeTimeout
  repeat' first
    | with_reducible assumption
    | ((with_reducible refine keeps_sub hK ?_); rfl)
    | with_reducible first
      | apply keeps_ite
      | apply keepsX_next
      | apply keepsX_ite
      | apply setDegraded_keeps
      | apply record_keeps
    | split

theorem execClrDeg_keeps (by_ : Sys2Proof.Agent) {s : State} (hK : K &&& 8165 = 0) (h0 : Keeps K s0 s) :
    KeepsX K s0 (execClrDeg by_ s) := by
  unfold execClrDeg
  repeat' first
    | with_reducible assumption
    | ((with_reducible refine keeps_sub hK ?_); rfl)
    | intro x
    | with_reducible first
      | apply keepsX_next
      | apply asMaster_keeps
      | apply clearDegraded_keeps

theorem showLive_keeps  {s : State} (hK : K &&& 1 = 0) (h0 : Keeps K s0 s) :
    Keeps K s0 (showLive s) := by
  unfold showLive
  repeat' first
    | with_reducible assumption
    | ((with_reducible refine keeps_sub hK ?_); rfl)
    | with_reducible apply setF_keeps

theorem wantFold_keeps  {s : State} (hK : K &&& 4096 = 0) (h0 : Keeps K s0 s) :
    Keeps K s0 (wantFold s) := by
  unfold wantFold
  repeat' first
    | with_reducible assumption
    | ((with_reducible refine keeps_sub hK ?_); rfl)
    | intro x
    | with_reducible apply modLdg_keeps
    | (with_reducible apply keeps_mk; case hr => rfl)
    | ((with_reducible refine keeps_no hK ?_ (by assumption)); rfl)
    | rfl
    | exact Nat.le_refl _
    | (simp; done)

theorem foldEnd_keeps (cut : ℕ) {s : State} (hK : K &&& 4097 = 0) (h0 : Keeps K s0 s) :
    Keeps K s0 (foldEnd cut s) := by
  unfold foldEnd
  repeat' first
    | with_reducible assumption
    | ((with_reducible refine keeps_sub hK ?_); rfl)
    | intro x
    | with_reducible first
      | apply setF_keeps
      | apply showLive_keeps
      | apply modLdg_keeps
    | split
    | (with_reducible apply keeps_mk; case hr => rfl)
    | ((with_reducible refine keeps_no hK ?_ (by assumption)); rfl)
    | rfl
    | exact Nat.le_refl _
    | (simp; done)

theorem jobDone_keeps (w : Sys2Proof.Machine.LdgWrite) {s : State} (hK : K &&& 4097 = 0) (h0 : Keeps K s0 s) :
    Keeps K s0 (jobDone w s) := by
  unfold jobDone
  repeat' first
    | with_reducible assumption
    | ((with_reducible refine keeps_sub hK ?_); rfl)
    | (intro x; first
      | (refine (?_ : Keeps K s0 x → _) ?_; on_goal 1 => (intro hx; clear_value x)
         on_goal 2 => unfold x)
      | clear_value x
      | skip)
    | fail_if_no_progress lift_lets
    | with_reducible first
      | apply keeps_ite
      | apply showLive_keeps
      | apply modLdg_keeps
      | apply baseWords_keeps
      | apply wantFold_keeps
      | apply foldEnd_keeps
      | apply setF_keeps
    | split
    | (with_reducible apply keeps_mk; case hr => rfl)
    | ((with_reducible refine keeps_no hK ?_ (by assumption)); rfl)
    | rfl
    | exact Nat.le_refl _
    | (simp; done)

theorem flushRecord_keeps (es : List Sys2Proof.Machine.LdgEntry) {s : State} (hK : K &&& 6149 = 0) (h0 : Keeps K s0 s) :
    Keeps K s0 (flushRecord es s) := by
  unfold flushRecord
  repeat' first
    | with_reducible assumption
    | ((with_reducible refine keeps_sub hK ?_); rfl)
    | (intro x; first
      | (refine (?_ : Keeps K s0 x → _) ?_; on_goal 1 => (intro hx; clear_value x)
         on_goal 2 => unfold x)
      | clear_value x
      | skip)
    | fail_if_no_progress lift_lets
    | with_reducible first
      | apply putRecord_keeps
      | apply showLive_keeps
      | apply baseWords_keeps
      | apply modLdg_keeps
      | apply bump_keeps
    | split
    | (with_reducible apply keeps_mk; case hr => rfl)
    | ((with_reducible refine keeps_no hK ?_ (by assumption)); rfl)
    | rfl
    | exact Nat.le_refl _
    | (simp; done)

theorem execFlushDone_keeps (t : ℕ) {s : State} (hK : K &&& 2103301 = 0) (h0 : Keeps K s0 s) :
    KeepsX K s0 (execFlushDone t s) := by
  unfold execFlushDone
  repeat' first
    | with_reducible assumption
    | ((with_reducible refine keeps_sub hK ?_); rfl)
    | (intro x; first
      | (refine (?_ : Keeps K s0 x → _) ?_; on_goal 1 => (intro hx; clear_value x)
         on_goal 2 => unfold x)
      | clear_value x
      | skip)
    | fail_if_no_progress lift_lets
    | with_reducible first
      | apply keeps_ite
      | apply keeps_foldl
      | apply keepsX_next
      | apply keepsX_ite
      | apply at_keeps
      | apply modLdg_keeps
      | apply jobDone_keeps
      | apply flushRecord_keeps
      | apply showQueue_keeps
      | apply bump_keeps
      | apply setF_keeps
    | split
    | (with_reducible apply keeps_mk; case hr => rfl)
    | ((with_reducible refine keeps_no hK ?_ (by assumption)); rfl)
    | rfl
    | exact Nat.le_refl _
    | (simp; done)

theorem tryFold_keeps  {s : State} (hK : K &&& 4097 = 0) (h0 : Keeps K s0 s) :
    Keeps K s0 (tryFold s) := by
  unfold tryFold
  repeat' first
    | with_reducible assumption
    | ((with_reducible refine keeps_sub hK ?_); rfl)
    | (intro x; first
      | (refine (?_ : Keeps K s0 x → _) ?_; on_goal 1 => (intro hx; clear_value x)
         on_goal 2 => unfold x)
      | clear_value x
      | skip)
    | fail_if_no_progress lift_lets
    | with_reducible first
      | apply keeps_ite
      | apply modLdg_keeps
      | apply foldEnd_keeps
      | apply setF_keeps
    | split
    | (with_reducible apply keeps_mk; case hr => rfl)
    | ((with_reducible refine keeps_no hK ?_ (by assumption)); rfl)
    | rfl
    | exact Nat.le_refl _
    | (simp; done)

theorem updLdg_keeps  {s : State} (hK : K &&& 6149 = 0) (h0 : Keeps K s0 s) :
    Keeps K s0 (updLdg s) := by
  unfold updLdg
  repeat' first
    | with_reducible assumption
    | ((with_reducible refine keeps_sub hK ?_); rfl)
    | (intro x; first
      | (refine (?_ : Keeps K s0 x → _) ?_; on_goal 1 => (intro hx; clear_value x)
         on_goal 2 => unfold x)
      | clear_value x
      | skip)
    | fail_if_no_progress lift_lets
    | with_reducible first
      | apply keeps_ite
      | apply setF_keeps
      | apply pump_keeps
      | apply tryFold_keeps
    | split

theorem startFlush_keeps (cause : ℕ) {s : State} (hK : K &&& 137221 = 0) (h0 : Keeps K s0 s) :
    Keeps K s0 (startFlush cause s) := by
  unfold startFlush
  repeat' first
    | with_reducible assumption
    | ((with_reducible refine keeps_sub hK ?_); rfl)
    | (intro x; first
      | (refine (?_ : Keeps K s0 x → _) ?_; on_goal 1 => (intro hx; clear_value x)
         on_goal 2 => unfold x)
      | clear_value x
      | skip)
    | fail_if_no_progress lift_lets
    | with_reducible first
      | apply keeps_ite
      | apply keeps_foldl
      | apply setF_keeps
      | apply abandonCkpt_keeps
      | apply bump_keeps
      | apply modLdg_keeps
      | apply dropJob?_keeps
    | split
    | (with_reducible apply keeps_mk; case hr => rfl)
    | ((with_reducible refine keeps_no hK ?_ (by assumption)); rfl)
    | rfl
    | exact Nat.le_refl _
    | (simp; done)

theorem execFlushStart_keeps (powerFail : Bool) (kaMv : ℕ) (t : ℕ) {s : State} (hK : K &&& 137221 = 0) (h0 : Keeps K s0 s) :
    KeepsX K s0 (execFlushStart powerFail kaMv t s) := by
  unfold execFlushStart
  repeat' first
    | with_reducible assumption
    | ((with_reducible refine keeps_sub hK ?_); rfl)
    | (intro x; first
      | (refine (?_ : Keeps K s0 x → _) ?_; on_goal 1 => (intro hx; clear_value x)
         on_goal 2 => unfold x)
      | clear_value x
      | skip)
    | fail_if_no_progress lift_lets
    | with_reducible first
      | apply keeps_ite
      | apply keepsX_next
      | apply keepsX_ite
      | apply modLdg_keeps
      | apply at_keeps
      | apply updLdg_keeps
      | apply startFlush_keeps
    | split
    | (with_reducible apply keeps_mk; case hr => rfl)
    | ((with_reducible refine keeps_no hK ?_ (by assumption)); rfl)
    | rfl
    | exact Nat.le_refl _
    | (simp; done)

theorem showEnergy_keeps  {s : State} (hK : K &&& 1 = 0) (h0 : Keeps K s0 s) :
    Keeps K s0 (showEnergy s) := by
  unfold showEnergy
  repeat' first
    | with_reducible assumption
    | ((with_reducible refine keeps_sub hK ?_); rfl)
    | (intro x; first
      | (refine (?_ : Keeps K s0 x → _) ?_; on_goal 1 => (intro hx; clear_value x)
         on_goal 2 => unfold x)
      | clear_value x
      | skip)
    | fail_if_no_progress lift_lets
    | with_reducible first
      | apply keeps_ite
      | apply setF_keeps
    | split

theorem execFullCharge_keeps  {s : State} (hK : K &&& 14341 = 0) (h0 : Keeps K s0 s) :
    KeepsX K s0 (execFullCharge s) := by
  unfold execFullCharge
  repeat' first
    | with_reducible assumption
    | ((with_reducible refine keeps_sub hK ?_); rfl)
    | (intro x; first
      | (refine (?_ : Keeps K s0 x → _) ?_; on_goal 1 => (intro hx; clear_value x)
         on_goal 2 => unfold x)
      | clear_value x
      | skip)
    | fail_if_no_progress lift_lets
    | with_reducible first
      | apply keeps_ite
      | apply keepsX_next
      | apply keepsX_ite
      | apply setF_keeps
      | apply bump_keeps
      | apply modHld_keeps
      | apply updLdg_keeps
      | apply showEnergy_keeps
    | split
    | (with_reducible apply keeps_mk; case hr => rfl)
    | ((with_reducible refine keeps_no hK ?_ (by assumption)); rfl)
    | rfl
    | exact Nat.le_refl _
    | (simp; done)

theorem noStore_keeps  {s : State} (hK : K &&& 1 = 0) (h0 : Keeps K s0 s) :
    Keeps K s0 (noStore s) := by
  unfold noStore
  repeat' first
    | with_reducible assumption
    | ((with_reducible refine keeps_sub hK ?_); rfl)
    | with_reducible apply setF_keeps

theorem gaugeStates_keeps  {s : State} (hK : K &&& 6149 = 0) (h0 : Keeps K s0 s) :
    Keeps K s0 (gaugeStates s) := by
  unfold gaugeStates
  repeat' first
    | with_reducible assumption
    | ((with_reducible refine keeps_sub hK ?_); rfl)
    | (intro x; first
      | (refine (?_ : Keeps K s0 x → _) ?_; on_goal 1 => (intro hx; clear_value x)
         on_goal 2 => unfold x)
      | clear_value x
      | skip)
    | fail_if_no_progress lift_lets
    | with_reducible first
      | apply keeps_ite
      | apply degrade_keeps
      | apply record_keeps
      | apply setF_keeps
    | split

theorem measureC_keeps  {s : State} (hK : K &&& 14341 = 0) (h0 : Keeps K s0 s) :
    Keeps K s0 (measureC s) := by
  unfold measureC
  repeat' first
    | with_reducible assumption
    | ((with_reducible refine keeps_sub hK ?_); rfl)
    | (intro x; first
      | (refine (?_ : Keeps K s0 x → _) ?_; on_goal 1 => (intro hx; clear_value x)
         on_goal 2 => unfold x)
      | clear_value x
      | skip)
    | fail_if_no_progress lift_lets
    | with_reducible first
      | apply keeps_ite
      | apply modHld_keeps
      | apply setF_keeps
      | apply holdupEntry_keeps
      | apply degrade_keeps
    | split
    | (with_reducible apply keeps_mk; case hr => rfl)
    | ((with_reducible refine keeps_no hK ?_ (by assumption)); rfl)
    | rfl
    | exact Nat.le_refl _
    | (simp; done)

theorem execGaugeSample_keeps (vMv : ℕ) (inMa : ℤ) (outMa : ℕ) {s : State} (hK : K &&& 14341 = 0) (h0 : Keeps K s0 s) :
    KeepsX K s0 (execGaugeSample vMv inMa outMa s) := by
  unfold execGaugeSample
  repeat' first
    | with_reducible assumption
    | ((with_reducible refine keeps_sub hK ?_); rfl)
    | (intro x; first
      | (refine (?_ : Keeps K s0 x → _) ?_; on_goal 1 => (intro hx; clear_value x)
         on_goal 2 => unfold x)
      | clear_value x
      | skip)
    | fail_if_no_progress lift_lets
    | with_reducible first
      | apply keeps_ite
      | apply keepsX_next
      | apply keepsX_ite
      | apply setF_keeps
      | apply modHld_keeps
      | apply noStore_keeps
      | apply gaugeStates_keeps
      | apply chargerStep_keeps
      | apply measureC_keeps
      | apply updLdg_keeps
      | apply showEnergy_keeps
    | split
    | (with_reducible apply keeps_mk; case hr => rfl)
    | ((with_reducible refine keeps_no hK ?_ (by assumption)); rfl)
    | rfl
    | exact Nat.le_refl _
    | (simp; done)

theorem execJournalWrite_keeps (t : ℕ) {s : State} (hK : K &&& 6149 = 0) (h0 : Keeps K s0 s) :
    KeepsX K s0 (execJournalWrite t s) := by
  unfold execJournalWrite
  repeat' first
    | with_reducible assumption
    | ((with_reducible refine keeps_sub hK ?_); rfl)
    | (intro x; first
      | (refine (?_ : Keeps K s0 x → _) ?_; on_goal 1 => (intro hx; clear_value x)
         on_goal 2 => unfold x)
      | clear_value x
      | skip)
    | fail_if_no_progress lift_lets
    | with_reducible first
      | apply keeps_ite
      | apply keepsX_next
      | apply keepsX_ite
      | apply at_keeps
      | apply pump_keeps
      | apply showQueue_keeps
      | apply modLdg_keeps
    | split
    | (with_reducible apply keeps_mk; case hr => rfl)
    | ((with_reducible refine keeps_no hK ?_ (by assumption)); rfl)
    | rfl
    | exact Nat.le_refl _
    | (simp; done)

theorem fwEntry_keeps  {s : State} (hK : K &&& 6149 = 0) (h0 : Keeps K s0 s) :
    Keeps K s0 (fwEntry s) := by
  unfold fwEntry
  repeat' first
    | with_reducible assumption
    | ((with_reducible refine keeps_sub hK ?_); rfl)
    | (intro x; first
      | (refine (?_ : Keeps K s0 x → _) ?_; on_goal 1 => (intro hx; clear_value x)
         on_goal 2 => unfold x)
      | clear_value x
      | skip)
    | fail_if_no_progress lift_lets
    | with_reducible first
      | apply keeps_ite
      | apply fwRefuse_keeps
      | apply modLdg_keeps
      | apply setF_keeps
      | apply journal_keeps
    | split
    | (with_reducible apply keeps_mk; case hr => rfl)
    | ((with_reducible refine keeps_no hK ?_ (by assumption)); rfl)
    | rfl
    | exact Nat.le_refl _
    | (simp; done)

theorem execLdgFwEntry_keeps (by_ : Sys2Proof.Agent) (t : ℕ) {s : State} (hK : K &&& 8165 = 0) (h0 : Keeps K s0 s) :
    KeepsX K s0 (execLdgFwEntry by_ t s) := by
  unfold execLdgFwEntry
  repeat' first
    | with_reducible assumption
    | ((with_reducible refine keeps_sub hK ?_); rfl)
    | intro x
    | with_reducible first
      | apply keepsX_next
      | apply asGuarded_keeps
      | apply fwEntry_keeps
      | apply at_keeps

theorem payloadOf_keeps (x : Sys2Proof.Machine.LdgRec) {s : State} (hK : K &&& 4 = 0) (h0 : Keeps K s0 s) :
    KeepsP K s0 (payloadOf x s) := by
  unfold payloadOf
  repeat' first
    | with_reducible assumption
    | ((with_reducible refine keeps_sub hK ?_); rfl)
    | (intro x; first
      | (refine (?_ : Keeps K s0 x → _) ?_; on_goal 1 => (intro hx; clear_value x)
         on_goal 2 => unfold x)
      | (refine (?_ : KeepsP K s0 x → _) ?_; on_goal 1 => (intro hx; clear_value x)
         on_goal 2 => unfold x)
      | clear_value x
      | skip)
    | fail_if_no_progress lift_lets
    | with_reducible first
      | apply keeps_ite
      | apply keepsP_ite
      | apply drawFree_keeps
      | exact keepsP_get (by assumption)
      | refine keepsP_eq ?_ (by assumption)
      | refine keepsP_get (p := drawFree _ _) ?_
    | split
    | with_reducible apply keepsP_mk

theorem fwRead_keeps  {s : State} (hK : K &&& 6151 = 0) (h0 : Keeps K s0 s) :
    Keeps K s0 (fwRead s) := by
  unfold fwRead
  repeat' first
    | with_reducible assumption
    | ((with_reducible refine keeps_sub hK ?_); rfl)
    | (intro x; first
      | (refine (?_ : Keeps K s0 x → _) ?_; on_goal 1 => (intro hx; clear_value x)
         on_goal 2 => unfold x)
      | (refine (?_ : KeepsP K s0 x → _) ?_; on_goal 1 => (intro hx; clear_value x)
         on_goal 2 => unfold x)
      | (refine (?_ : KeepsT K s0 x → _) ?_; on_goal 1 => (intro hx; clear_value x)
         on_goal 2 => unfold x)
      | clear_value x
      | skip)
    | fail_if_no_progress lift_lets
    | with_reducible first
      | apply keeps_ite
      | apply keeps_foldl
      | apply keeps_id
      | apply keepsP_ite
      | apply keepsP_foldl
      | apply fwRefuse_keeps
      | apply payloadOf_keeps
      | apply setF_keeps
      | apply memWrite_keeps
      | exact keepsP_get (by assumption)
      | refine keepsP_eq ?_ (by assumption)
      | refine keepsP_get (p := payloadOf _ _) ?_
    | split
    | with_reducible apply keepsP_mk
    | (with_reducible apply keeps_mk; case hr => rfl)
    | ((with_reducible refine keeps_no hK ?_ (by assumption)); rfl)
    | rfl
    | exact Nat.le_refl _
    | (simp; done)

theorem execLdgFwRead_keeps (by_ : Sys2Proof.Agent) {s : State} (hK : K &&& 8167 = 0) (h0 : Keeps K s0 s) :
    KeepsX K s0 (execLdgFwRead by_ s) := by
  unfold execLdgFwRead
  repeat' first
    | with_reducible assumption
    | ((with_reducible refine keeps_sub hK ?_); rfl)
    | intro x
    | with_reducible first
      | apply keepsX_next
      | apply asGuarded_keeps
      | apply fwRead_keeps

theorem fwWrite_keeps  {s : State} (hK : K &&& 6149 = 0) (h0 : Keeps K s0 s) :
    Keeps K s0 (fwWrite s) := by
  unfold fwWrite
  repeat' first
    | with_reducible assumption
    | ((with_reducible refine keeps_sub hK ?_); rfl)
    | (intro x; first
      | (refine (?_ : Keeps K s0 x → _) ?_; on_goal 1 => (intro hx; clear_value x)
         on_goal 2 => unfold x)
      | clear_value x
      | skip)
    | fail_if_no_progress lift_lets
    | with_reducible first
      | apply keeps_ite
      | apply fwRefuse_keeps
      | apply refused70_keeps
      | apply commit_keeps
    | split
    | (with_reducible apply keeps_mk; case hr => rfl)
    | ((with_reducible refine keeps_no hK ?_ (by assumption)); rfl)
    | rfl
    | exact Nat.le_refl _
    | (simp; done)

theorem execLdgFwWrite_keeps (by_ : Sys2Proof.Agent) (t : ℕ) {s : State} (hK : K &&& 8165 = 0) (h0 : Keeps K s0 s) :
    KeepsX K s0 (execLdgFwWrite by_ t s) := by
  unfold execLdgFwWrite
  repeat' first
    | with_reducible assumption
    | ((with_reducible refine keeps_sub hK ?_); rfl)
    | intro x
    | with_reducible first
      | apply keepsX_next
      | apply asGuarded_keeps
      | apply fwWrite_keeps
      | apply at_keeps

theorem execLedgerRecoveryDone_keeps (us : ℕ) (t : ℕ) {s : State} (hK : K &&& 6149 = 0) (h0 : Keeps K s0 s) :
    KeepsX K s0 (execLedgerRecoveryDone us t s) := by
  unfold execLedgerRecoveryDone
  repeat' first
    | with_reducible assumption
    | ((with_reducible refine keeps_sub hK ?_); rfl)
    | (intro x; first
      | (refine (?_ : Keeps K s0 x → _) ?_; on_goal 1 => (intro hx; clear_value x)
         on_goal 2 => unfold x)
      | clear_value x
      | skip)
    | fail_if_no_progress lift_lets
    | with_reducible first
      | apply keeps_ite
      | apply keeps_foldl
      | apply keepsX_next
      | apply keepsX_ite
      | apply at_keeps
      | apply setF_keeps
      | apply record_keeps
      | apply setLdgSeq_keeps
      | apply journal_keeps
      | apply showLive_keeps
      | apply updLdg_keeps
      | apply wantFold_keeps
    | split

theorem execLedgerResume_keeps (t : ℕ) {s : State} (hK : K &&& 6149 = 0) (h0 : Keeps K s0 s) :
    KeepsX K s0 (execLedgerResume t s) := by
  unfold execLedgerResume
  repeat' first
    | with_reducible assumption
    | ((with_reducible refine keeps_sub hK ?_); rfl)
    | (intro x; first
      | (refine (?_ : Keeps K s0 x → _) ?_; on_goal 1 => (intro hx; clear_value x)
         on_goal 2 => unfold x)
      | clear_value x
      | skip)
    | fail_if_no_progress lift_lets
    | with_reducible first
      | apply keeps_ite
      | apply keepsX_next
      | apply keepsX_ite
      | apply modLdg_keeps
      | apply at_keeps
      | apply updLdg_keeps
      | apply journal_keeps
      | apply setF_keeps
    | split
    | (with_reducible apply keeps_mk; case hr => rfl)
    | ((with_reducible refine keeps_no hK ?_ (by assumption)); rfl)
    | rfl
    | exact Nat.le_refl _
    | (simp; done)

theorem storeRemoved_keeps  {s : State} (hK : K &&& 14341 = 0) (h0 : Keeps K s0 s) :
    Keeps K s0 (storeRemoved s) := by
  unfold storeRemoved
  repeat' first
    | with_reducible assumption
    | ((with_reducible refine keeps_sub hK ?_); rfl)
    | (intro x; first
      | (refine (?_ : Keeps K s0 x → _) ?_; on_goal 1 => (intro hx; clear_value x)
         on_goal 2 => unfold x)
      | clear_value x
      | skip)
    | fail_if_no_progress lift_lets
    | with_reducible first
      | apply bump_keeps
      | apply noStore_keeps
      | apply modHld_keeps
      | apply updLdg_keeps
      | apply showEnergy_keeps
      | apply record_keeps
    | (with_reducible apply keeps_mk; case hr => rfl)
    | ((with_reducible refine keeps_no hK ?_ (by assumption)); rfl)
    | rfl
    | exact Nat.le_refl _
    | (simp; done)

theorem execPresencePulse_keeps (riseMv : ℕ) {s : State} (hK : K &&& 14341 = 0) (h0 : Keeps K s0 s) :
    KeepsX K s0 (execPresencePulse riseMv s) := by
  unfold execPresencePulse
  repeat' first
    | with_reducible assumption
    | ((with_reducible refine keeps_sub hK ?_); rfl)
    | (intro x; first
      | (refine (?_ : Keeps K s0 x → _) ?_; on_goal 1 => (intro hx; clear_value x)
         on_goal 2 => unfold x)
      | clear_value x
      | skip)
    | fail_if_no_progress lift_lets
    | with_reducible first
      | apply keeps_ite
      | apply keepsX_next
      | apply keepsX_ite
      | apply modHld_keeps
      | apply record_keeps
      | apply updLdg_keeps
      | apply showEnergy_keeps
      | apply startCharge_keeps
      | apply setF_keeps
      | apply clearDegraded_keeps
      | apply storeRemoved_keeps
    | split
    | (with_reducible apply keeps_mk; case hr => rfl)
    | ((with_reducible refine keeps_no hK ?_ (by assumption)); rfl)
    | rfl
    | exact Nat.le_refl _
    | (simp; done)

theorem jobLost_keeps (w : Sys2Proof.Machine.LdgWrite) {s : State} (hK : K &&& 6149 = 0) (h0 : Keeps K s0 s) :
    Keeps K s0 (jobLost w s) := by
  unfold jobLost
  repeat' first
    | with_reducible assumption
    | ((with_reducible refine keeps_sub hK ?_); rfl)
    | intro x
    | with_reducible first
      | apply modLdg_keeps
      | apply jobDone_keeps
      | apply fwRefuse_keeps
    | split
    | (with_reducible apply keeps_mk; case hr => rfl)
    | ((with_reducible refine keeps_no hK ?_ (by assumption)); rfl)
    | rfl
    | exact Nat.le_refl _
    | (simp; done)

theorem retire_keeps (w : Sys2Proof.Machine.LdgWrite) {s : State} (hK : K &&& 6149 = 0) (h0 : Keeps K s0 s) :
    Keeps K s0 (retire w s) := by
  unfold retire
  repeat' first
    | with_reducible assumption
    | ((with_reducible refine keeps_sub hK ?_); rfl)
    | (intro x; first
      | (refine (?_ : Keeps K s0 x → _) ?_; on_goal 1 => (intro hx; clear_value x)
         on_goal 2 => unfold x)
      | clear_value x
      | skip)
    | fail_if_no_progress lift_lets
    | with_reducible first
      | apply keeps_ite
      | apply bump_keeps
      | apply modLdg_keeps
      | apply record_keeps
      | apply setF_keeps
      | apply jobLost_keeps
    | split
    | (with_reducible apply keeps_mk; case hr => rfl)
    | ((with_reducible refine keeps_no hK ?_ (by assumption)); rfl)
    | rfl
    | exact Nat.le_refl _
    | (simp; done)

theorem execRecordWriteDone_keeps (bank : ℕ) (crcOk : Bool) {s : State} (hK : K &&& 6149 = 0) (h0 : Keeps K s0 s) :
    KeepsX K s0 (execRecordWriteDone bank crcOk s) := by
  unfold execRecordWriteDone
  repeat' first
    | with_reducible assumption
    | ((with_reducible refine keeps_sub hK ?_); rfl)
    | (intro x; first
      | (refine (?_ : Keeps K s0 x → _) ?_; on_goal 1 => (intro hx; clear_value x)
         on_goal 2 => unfold x)
      | clear_value x
      | skip)
    | fail_if_no_progress lift_lets
    | with_reducible first
      | apply keeps_ite
      | apply keepsX_next
      | apply keepsX_ite
      | apply modLdg_keeps
      | apply updLdg_keeps
      | apply jobDone_keeps
      | apply retire_keeps
      | apply putRecord_keeps
    | split
    | (with_reducible apply keeps_mk; case hr => rfl)
    | ((with_reducible refine keeps_no hK ?_ (by assumption)); rfl)
    | rfl
    | exact Nat.le_refl _
    | (simp; done)

theorem execStoreRemoval_keeps  {s : State} (hK : K &&& 14341 = 0) (h0 : Keeps K s0 s) :
    KeepsX K s0 (execStoreRemoval s) := by
  unfold execStoreRemoval
  repeat' first
    | with_reducible assumption
    | ((with_reducible refine keeps_sub hK ?_); rfl)
    | with_reducible first
      | apply keeps_ite
      | apply keepsX_next
      | apply keepsX_ite
      | apply storeRemoved_keeps
    | split

end Sys2Proof.Machine
end

