-- ==== Sys2Proof/Laws/KeepsLearning.lean ====
section
/-! SUPPORT. What the operations of Machine/Learning.lean keep. -/

namespace Sys2Proof.Machine

open Sys2Proof

variable {K : Nat} {s0 : State}

theorem writeCkptdir_keeps  {s : State} (hK : K &&& 6149 = 0) (h0 : Keeps K s0 s) :
    Keeps K s0 (writeCkptdir s) := by
  unfold writeCkptdir
  repeat' first
    | with_reducible assumption
    | ((with_reducible refine keeps_sub hK ?_); rfl)
    | intro x
    | with_reducible apply putRecord_keeps
    | split
    | (with_reducible apply keeps_mk; case hr => rfl)
    | ((with_reducible refine keeps_no hK ?_ (by assumption)); rfl)
    | rfl
    | exact Nat.le_refl _
    | (simp; done)

theorem writeGen_keeps (n : ℕ) (g : Sys2Proof.Machine.LGen) (bytes : List Sys2Proof.Byte) {s : State} (hK : K &&& 6149 = 0) (h0 : Keeps K s0 s) :
    Keeps K s0 (writeGen n g bytes s) := by
  unfold writeGen
  repeat' first
    | with_reducible assumption
    | ((with_reducible refine keeps_sub hK ?_); rfl)
    | intro x
    | with_reducible first
      | apply keeps_foldl
      | apply putRecord_keeps
    | (with_reducible apply keeps_mk; case hr => rfl)
    | ((with_reducible refine keeps_no hK ?_ (by assumption)); rfl)
    | rfl
    | exact Nat.le_refl _
    | (simp; done)

theorem showGens_keeps (n : ℕ) {s : State} (hK : K &&& 1 = 0) (h0 : Keeps K s0 s) :
    Keeps K s0 (showGens n s) := by
  unfold showGens
  repeat' first
    | with_reducible assumption
    | ((with_reducible refine keeps_sub hK ?_); rfl)
    | (intro x; first
      | (refine (?_ : Keeps K s0 x → _) ?_; on_goal 1 => (intro hx; clear_value x)
         on_goal 2 => unfold x)
      | clear_value x
      | skip)
    | fail_if_no_progress lift_lets
    | with_reducible apply setFi_keeps
    | split

theorem execCkptCommitDone_keeps (n : ℕ) {s : State} (hK : K &&& 137221 = 0) (h0 : Keeps K s0 s) :
    KeepsX K s0 (execCkptCommitDone n s) := by
  unfold execCkptCommitDone
  repeat' first
    | with_reducible assumption
    | ((with_reducible refine keeps_sub hK ?_); rfl)
    | (intro x; first
      | (refine (?_ : Keeps K s0 x → _) ?_; on_goal 1 => (intro hx; clear_value x)
         on_goal 2 => unfold x)
      | clear_value x
      | skip)
    | fail_if_no_progress lift_lets
    | with_reducible first
      | apply keepsX_next
      | apply writeCkptdir_keeps
      | apply writeGen_keeps
      | apply showGens_keeps
      | apply setFi_keeps
    | split
    | (with_reducible apply keeps_mk; case hr => rfl)
    | ((with_reducible refine keeps_no hK ?_ (by assumption)); rfl)
    | rfl
    | exact Nat.le_refl _
    | (simp; done)

theorem lregGo_keeps (n : ℕ) (st : ℕ) {s : State} (hK : K &&& 1 = 0) (h0 : Keeps K s0 s) :
    Keeps K s0 (lregGo n st s) := by
  unfold lregGo
  repeat' first
    | with_reducible assumption
    | ((with_reducible refine keeps_sub hK ?_); rfl)
    | with_reducible first
      | apply setFi_keeps
      | apply advanceCfgGen_keeps

theorem execDigestDone_keeps (n : ℕ) {s : State} (hK : K &&& 1 = 0) (h0 : Keeps K s0 s) :
    KeepsX K s0 (execDigestDone n s) := by
  unfold execDigestDone
  repeat' first
    | with_reducible assumption
    | ((with_reducible refine keeps_sub hK ?_); rfl)
    | (intro x; first
      | (refine (?_ : Keeps K s0 x → _) ?_; on_goal 1 => (intro hx; clear_value x)
         on_goal 2 => unfold x)
      | clear_value x
      | skip)
    | fail_if_no_progress lift_lets
    | with_reducible first
      | apply keeps_ite
      | apply keepsX_next
      | apply keepsX_ite
      | apply lregGo_keeps
      | apply setFi_keeps
    | split

theorem lregRefuse_keeps (n : ℕ) (code : ℕ) {s : State} (hK : K &&& 6149 = 0) (h0 : Keeps K s0 s) :
    Keeps K s0 (lregRefuse n code s) := by
  unfold lregRefuse
  repeat' first
    | with_reducible assumption
    | ((with_reducible refine keeps_sub hK ?_); rfl)
    | with_reducible first
      | apply setFi_keeps
      | apply record_keeps

theorem lregCkpt_keeps (n : ℕ) {s : State} (hK : K &&& 137221 = 0) (h0 : Keeps K s0 s) :
    Keeps K s0 (lregCkpt n s) := by
  unfold lregCkpt
  repeat' first
    | with_reducible assumption
    | ((with_reducible refine keeps_sub hK ?_); rfl)
    | (intro x; first
      | (refine (?_ : Keeps K s0 x → _) ?_; on_goal 1 => (intro hx; clear_value x)
         on_goal 2 => unfold x)
      | clear_value x
      | skip)
    | fail_if_no_progress lift_lets
    | with_reducible first
      | apply keeps_ite
      | apply lregRefuse_keeps
      | apply setFi_keeps
      | apply record_keeps
    | split
    | (with_reducible apply keeps_mk; case hr => rfl)
    | ((with_reducible refine keeps_no hK ?_ (by assumption)); rfl)
    | rfl
    | exact Nat.le_refl _
    | (simp; done)

theorem execLregCkpt_keeps (by_ : Sys2Proof.Agent) (n : ℕ) {s : State} (hK : K &&& 139237 = 0) (h0 : Keeps K s0 s) :
    KeepsX K s0 (execLregCkpt by_ n s) := by
  unfold execLregCkpt
  repeat' first
    | with_reducible assumption
    | ((with_reducible refine keeps_sub hK ?_); rfl)
    | intro x
    | with_reducible first
      | apply keepsX_next
      | apply asMaster_keeps
      | apply lregCkpt_keeps

theorem lregRequest_keeps (n : ℕ) (r : Sys2Proof.Machine.LReq) {s : State} (hK : K &&& 137221 = 0) (h0 : Keeps K s0 s) :
    Keeps K s0 (lregRequest n r s) := by
  unfold lregRequest
  repeat' first
    | with_reducible assumption
    | ((with_reducible refine keeps_sub hK ?_); rfl)
    | intro x
    | with_reducible first
      | apply keeps_ite
      | apply lregRefuse_keeps
    | split
    | (with_reducible apply keeps_mk; case hr => rfl)
    | ((with_reducible refine keeps_no hK ?_ (by assumption)); rfl)
    | rfl
    | exact Nat.le_refl _
    | (simp; done)

theorem execLregFreeze_keeps (by_ : Sys2Proof.Agent) (n : ℕ) {s : State} (hK : K &&& 139237 = 0) (h0 : Keeps K s0 s) :
    KeepsX K s0 (execLregFreeze by_ n s) := by
  unfold execLregFreeze
  repeat' first
    | with_reducible assumption
    | ((with_reducible refine keeps_sub hK ?_); rfl)
    | intro x
    | with_reducible first
      | apply keepsX_next
      | apply asMaster_keeps
      | apply lregRequest_keeps

theorem execLregOff_keeps (by_ : Sys2Proof.Agent) (n : ℕ) {s : State} (hK : K &&& 139237 = 0) (h0 : Keeps K s0 s) :
    KeepsX K s0 (execLregOff by_ n s) := by
  unfold execLregOff
  repeat' first
    | with_reducible assumption
    | ((with_reducible refine keeps_sub hK ?_); rfl)
    | intro x
    | with_reducible first
      | apply keepsX_next
      | apply asMaster_keeps
      | apply lregRequest_keeps

theorem execLregOpen_keeps (by_ : Sys2Proof.Agent) (n : ℕ) {s : State} (hK : K &&& 139237 = 0) (h0 : Keeps K s0 s) :
    KeepsX K s0 (execLregOpen by_ n s) := by
  unfold execLregOpen
  repeat' first
    | with_reducible assumption
    | ((with_reducible refine keeps_sub hK ?_); rfl)
    | intro x
    | with_reducible first
      | apply keepsX_next
      | apply asMaster_keeps
      | apply lregRequest_keeps

theorem execLregRestore_keeps (by_ : Sys2Proof.Agent) (n : ℕ) {s : State} (hK : K &&& 139237 = 0) (h0 : Keeps K s0 s) :
    KeepsX K s0 (execLregRestore by_ n s) := by
  unfold execLregRestore
  repeat' first
    | with_reducible assumption
    | ((with_reducible refine keeps_sub hK ?_); rfl)
    | intro x
    | with_reducible first
      | apply keepsX_next
      | apply asMaster_keeps
      | apply lregRequest_keeps

theorem lregVet_keeps (who : Sys2Proof.Agent) (n : ℕ) (v : Sys2Proof.Word) {s : State} (hK : K &&& 137221 = 0) (h0 : Keeps K s0 s) :
    Keeps K s0 (lregVet who n v s) := by
  unfold lregVet
  repeat' first
    | with_reducible assumption
    | ((with_reducible refine keeps_sub hK ?_); rfl)
    | with_reducible first
      | apply keeps_ite
      | apply lregRequest_keeps
      | apply lregRefuse_keeps
    | split

theorem execLregVet_keeps (by_ : Sys2Proof.Agent) (n : ℕ) (v : Sys2Proof.Word) {s : State} (hK : K &&& 139237 = 0) (h0 : Keeps K s0 s) :
    KeepsX K s0 (execLregVet by_ n v s) := by
  unfold execLregVet
  repeat' first
    | with_reducible assumption
    | ((with_reducible refine keeps_sub hK ?_); rfl)
    | intro x
    | with_reducible first
      | apply keepsX_next
      | apply asMaster_keeps
      | apply lregVet_keeps

theorem optDone_keeps (m : ℕ) (die : ℕ) (eng : ℕ) {s : State} (hK : K &&& 139239 = 0) (h0 : Keeps K s0 s) :
    Keeps K s0 (optDone m die eng s) := by
  unfold optDone
  repeat' first
    | with_reducible assumption
    | ((with_reducible refine keeps_sub hK ?_); rfl)
    | intro x
    | with_reducible first
      | apply keeps_ite
      | apply tryComplete_keeps
    | split

theorem execOptApply_keeps (die : ℕ) (eng : ℕ) {s : State} (hK : K &&& 139239 = 0) (h0 : Keeps K s0 s) :
    KeepsX K s0 (execOptApply die eng s) := by
  unfold execOptApply
  repeat' first
    | with_reducible assumption
    | ((with_reducible refine keeps_sub hK ?_); rfl)
    | with_reducible first
      | apply keepsX_next
      | apply optDone_keeps

theorem execOptCheck_keeps (die : ℕ) (eng : ℕ) {s : State} (hK : K &&& 139239 = 0) (h0 : Keeps K s0 s) :
    KeepsX K s0 (execOptCheck die eng s) := by
  unfold execOptCheck
  repeat' first
    | with_reducible assumption
    | ((with_reducible refine keeps_sub hK ?_); rfl)
    | with_reducible first
      | apply keepsX_next
      | apply optDone_keeps

theorem execOptSeed_keeps (die : ℕ) (eng : ℕ) {s : State} (hK : K &&& 139239 = 0) (h0 : Keeps K s0 s) :
    KeepsX K s0 (execOptSeed die eng s) := by
  unfold execOptSeed
  repeat' first
    | with_reducible assumption
    | ((with_reducible refine keeps_sub hK ?_); rfl)
    | with_reducible first
      | apply keepsX_next
      | apply optDone_keeps

theorem execRestoreDone_keeps (n : ℕ) (crcOk : Bool) {s : State} (hK : K &&& 6151 = 0) (h0 : Keeps K s0 s) :
    KeepsX K s0 (execRestoreDone n crcOk s) := by
  unfold execRestoreDone
  repeat' first
    | with_reducible assumption
    | ((with_reducible refine keeps_sub hK ?_); rfl)
    | (intro x; first
      | (refine (?_ : Keeps K s0 x → _) ?_; on_goal 1 => (intro hx; clear_value x)
         on_goal 2 => unfold x)
      | (refine (?_ : KeepsP K s0 x → _) ?_; on_goal 1 => (intro hx; clear_value x)
         on_goal 2 => unfold x)
      | (refine (?_ : KeepsT K s0 x → _) ?_; on_goal 1 => (intro hx; clear_value x)
         on_goal 2 => unfold x)
      | clear_value x
      | skip)
    | fail_if_no_progress lift_lets
    | with_reducible first
      | apply keeps_ite
      | apply keeps_foldl
      | apply keeps_id
      | apply keepsX_next
      | apply keepsX_ite
      | apply memWrite_keeps
      | apply setFi_keeps
      | apply lregGo_keeps
      | apply lregRefuse_keeps
    | split
    | (with_reducible apply keeps_mk; case hr => rfl)
    | ((with_reducible refine keeps_no hK ?_ (by assumption)); rfl)
    | rfl
    | exact Nat.le_refl _
    | (simp; done)

theorem groupBoundary_keeps (g : ℕ) {s : State} (hK : K &&& 6149 = 0) (h0 : Keeps K s0 s) :
    Keeps K s0 (groupBoundary g s) := by
  unfold groupBoundary
  repeat' first
    | with_reducible assumption
    | ((with_reducible refine keeps_sub hK ?_); rfl)
    | (intro x; first
      | (refine (?_ : Keeps K s0 x → _) ?_; on_goal 1 => (intro hx; clear_value x)
         on_goal 2 => unfold x)
      | clear_value x
      | skip)
    | fail_if_no_progress lift_lets
    | with_reducible first
      | apply keeps_ite
      | apply record_keeps
      | apply bump_keeps
      | apply setFi_keeps
      | apply setF_keeps
    | split

theorem groupsBoundary_keeps  {s : State} (hK : K &&& 137221 = 0) (h0 : Keeps K s0 s) :
    Keeps K s0 (groupsBoundary s) := by
  unfold groupsBoundary
  repeat' first
    | with_reducible assumption
    | ((with_reducible refine keeps_sub hK ?_); rfl)
    | (intro x; first
      | (refine (?_ : Keeps K s0 x → _) ?_; on_goal 1 => (intro hx; clear_value x)
         on_goal 2 => unfold x)
      | clear_value x
      | skip)
    | fail_if_no_progress lift_lets
    | with_reducible first
      | apply keeps_foldl
      | apply groupBoundary_keeps
    | (with_reducible apply keeps_mk; case hr => rfl)
    | ((with_reducible refine keeps_no hK ?_ (by assumption)); rfl)
    | rfl
    | exact Nat.le_refl _
    | (simp; done)

theorem lregBoundary_keeps (n : ℕ) {s : State} (hK : K &&& 131073 = 0) (h0 : Keeps K s0 s) :
    Keeps K s0 (lregBoundary n s) := by
  unfold lregBoundary
  repeat' first
    | with_reducible assumption
    | ((with_reducible refine keeps_sub hK ?_); rfl)
    | (intro x; first
      | (refine (?_ : Keeps K s0 x → _) ?_; on_goal 1 => (intro hx; clear_value x)
         on_goal 2 => unfold x)
      | clear_value x
      | skip)
    | fail_if_no_progress lift_lets
    | with_reducible first
      | apply keeps_ite
      | apply setFi_keeps
      | apply lregGo_keeps
    | split
    | (with_reducible apply keeps_mk; case hr => rfl)
    | ((with_reducible refine keeps_no hK ?_ (by assumption)); rfl)
    | rfl
    | exact Nat.le_refl _
    | (simp; done)

end Sys2Proof.Machine
end

