-- ==== Sys2Proof/Laws/KeepsIngest.lean ====
section
/-! SUPPORT. What the operations of Machine/Ingest.lean keep. -/

namespace Sys2Proof.Machine

open Sys2Proof

variable {K : Nat} {s0 : State}

theorem actOf_keeps (f : Sys2Proof.Machine.Frame) {s : State} (hK : K &&& 4 = 0) (h0 : Keeps K s0 s) :
    KeepsP K s0 (actOf f s) := by
  unfold actOf
  repeat' first
    | with_reducible assumption
    | ((with_reducible refine keeps_sub hK ?_); rfl)
    | with_reducible first
      | apply keeps_ite
      | apply keepsP_ite
      | apply drawFree_keeps
      | exact keepsP_get (by assumption)
      | refine keepsP_eq ?_ (by assumption)
      | refine keepsP_get (p := drawFree _ _) ?_
    | split
    | with_reducible apply keepsP_mk

theorem modStrm_keeps (sm : ℕ) (f : Sys2Proof.Machine.Strm → Sys2Proof.Machine.Strm) {s : State} (hK : K &&& 65536 = 0) (h0 : Keeps K s0 s) :
    Keeps K s0 (modStrm sm f s) := by
  unfold modStrm
  repeat' first
    | with_reducible assumption
    | ((with_reducible refine keeps_sub hK ?_); rfl)
    | intro x
    | (with_reducible apply keeps_mk; case hr => rfl)
    | ((with_reducible refine keeps_no hK ?_ (by assumption)); rfl)
    | rfl
    | exact Nat.le_refl _
    | (simp; done)

theorem applyCfg_keeps (sm : ℕ) {s : State} (hK : K &&& 71685 = 0) (h0 : Keeps K s0 s) :
    Keeps K s0 (applyCfg sm s) := by
  unfold applyCfg
  repeat' first
    | with_reducible assumption
    | ((with_reducible refine keeps_sub hK ?_); rfl)
    | (intro x; first
      | (refine (?_ : Keeps K s0 x → _) ?_; on_goal 1 => (intro hx; clear_value x)
         on_goal 2 => unfold x)
      | clear_value x
      | skip)
    | fail_if_no_progress lift_lets
    | with_reducible first
      | apply keeps_ite
      | apply keeps_foldl
      | apply record_keeps
      | apply setW_keeps
      | apply modStrm_keeps
    | split
    | (with_reducible apply keeps_mk; case hr => rfl)
    | ((with_reducible refine keeps_no hK ?_ (by assumption)); rfl)
    | rfl
    | exact Nat.le_refl _
    | (simp; done)

theorem hubStore_keeps (m : ℕ) (a : ℕ) (bytes : List Sys2Proof.Byte) {s : State} (hK : K &&& 6407 = 0) (h0 : Keeps K s0 s) :
    KeepsP K s0 (hubStore m a bytes s) := by
  unfold hubStore
  repeat' first
    | with_reducible assumption
    | ((with_reducible refine keeps_sub hK ?_); rfl)
    | intro x
    | with_reducible first
      | apply recordAt_keeps
      | apply storeDev_keeps
      | apply chargeMem_keeps
      | exact keepsP_get (by assumption)
      | refine keepsP_eq ?_ (by assumption)
      | refine keepsP_get (p := storeDev _ _ _ _) ?_
    | split
    | with_reducible apply keepsP_mk

theorem modFrame_keeps (sm : ℕ) (f : Sys2Proof.Machine.Frame → Sys2Proof.Machine.Frame) {s : State} (hK : K &&& 65536 = 0) (h0 : Keeps K s0 s) :
    Keeps K s0 (modFrame sm f s) := by
  unfold modFrame
  repeat' first
    | with_reducible assumption
    | ((with_reducible refine keeps_sub hK ?_); rfl)
    | intro x
    | with_reducible apply modStrm_keeps
    | (with_reducible apply keeps_mk; case hr => rfl)
    | ((with_reducible refine keeps_no hK ?_ (by assumption)); rfl)
    | rfl
    | exact Nat.le_refl _
    | (simp; done)

theorem completeLine_keeps (sm : ℕ) {s : State} (hK : K &&& 71943 = 0) (h0 : Keeps K s0 s) :
    Keeps K s0 (completeLine sm s) := by
  unfold completeLine
  repeat' first
    | with_reducible assumption
    | ((with_reducible refine keeps_sub hK ?_); rfl)
    | (intro x; first
      | (refine (?_ : Keeps K s0 x → _) ?_; on_goal 1 => (intro hx; clear_value x)
         on_goal 2 => unfold x)
      | (refine (?_ : KeepsP K s0 x → _) ?_; on_goal 1 => (intro hx; clear_value x)
         on_goal 2 => unfold x)
      | clear_value x
      | skip)
    | fail_if_no_progress lift_lets
    | with_reducible first
      | apply keeps_ite
      | apply keepsP_ite
      | apply bump_keeps
      | apply record_keeps
      | apply hubStore_keeps
      | apply setF_keeps
      | apply modFrame_keeps
      | exact keepsP_get (by assumption)
      | refine keepsP_eq ?_ (by assumption)
      | refine keepsP_get (p := hubStore _ _ _ _) ?_
    | split
    | with_reducible apply keepsP_mk
    | (with_reducible apply keeps_mk; case hr => rfl)
    | ((with_reducible refine keeps_no hK ?_ (by assumption)); rfl)
    | rfl
    | exact Nat.le_refl _
    | (simp; done)

theorem takeEmbedded_keeps (sm : ℕ) (l : List Sys2Proof.Byte) {s : State} (hK : K &&& 71943 = 0) (h0 : Keeps K s0 s) :
    Keeps K s0 (takeEmbedded sm l s) := by
  unfold takeEmbedded
  repeat' first
    | with_reducible assumption
    | ((with_reducible refine keeps_sub hK ?_); rfl)
    | (intro x; first
      | (refine (?_ : Keeps K s0 x → _) ?_; on_goal 1 => (intro hx; clear_value x)
         on_goal 2 => unfold x)
      | (refine (?_ : KeepsP K s0 x → _) ?_; on_goal 1 => (intro hx; clear_value x)
         on_goal 2 => unfold x)
      | clear_value x
      | skip)
    | fail_if_no_progress lift_lets
    | with_reducible first
      | apply keeps_ite
      | apply keepsP_ite
      | apply hubStore_keeps
      | apply modFrame_keeps
      | exact keepsP_get (by assumption)
      | refine keepsP_eq ?_ (by assumption)
      | refine keepsP_get (p := hubStore _ _ _ _) ?_
    | split
    | with_reducible apply keepsP_mk
    | (with_reducible apply keeps_mk; case hr => rfl)
    | ((with_reducible refine keeps_no hK ?_ (by assumption)); rfl)
    | rfl
    | exact Nat.le_refl _
    | (simp; done)

theorem writeLine_keeps (c : List Sys2Proof.Word) (l : List Sys2Proof.Byte) (y : ℕ) (py : ℕ) {s : State} (hK : K &&& 6407 = 0) (h0 : Keeps K s0 s) :
    KeepsP K s0 (writeLine c l y py s) := by
  unfold writeLine
  dsimp only
  split
  · exact keepsP_mk (recordAt_keeps _ _ _ _ (keeps_sub hK rfl) h0)
  · exact keepsP_foldl h0 fun r x hr => storeDev_keeps _ _ _ (keeps_sub hK rfl) (chargeMem_keeps _ _ _ _ (keeps_sub hK rfl) hr)

theorem storeLine_keeps (sm : ℕ) (x : Sys2Proof.Machine.Strm) (f : Sys2Proof.Machine.Frame) (l : List Sys2Proof.Byte) (bad : Bool) (fifo : Bool) {s : State} (hK : K &&& 71943 = 0) (h0 : Keeps K s0 s) :
    Keeps K s0 (storeLine sm x f l bad fifo s) := by
  unfold storeLine
  repeat' first
    | with_reducible assumption
    | ((with_reducible refine keeps_sub hK ?_); rfl)
    | (intro x; first
      | (refine (?_ : Keeps K s0 x → _) ?_; on_goal 1 => (intro hx; clear_value x)
         on_goal 2 => unfold x)
      | (refine (?_ : KeepsP K s0 x → _) ?_; on_goal 1 => (intro hx; clear_value x)
         on_goal 2 => unfold x)
      | clear_value x
      | skip)
    | fail_if_no_progress lift_lets
    | with_reducible first
      | apply keeps_ite
      | apply keepsP_ite
      | apply writeLine_keeps
      | apply record_keeps
      | apply bump_keeps
      | apply modStrm_keeps
      | exact keepsP_get (by assumption)
      | refine keepsP_eq ?_ (by assumption)
      | refine keepsP_get (p := writeLine _ _ _ _ _) ?_
    | split
    | with_reducible apply keepsP_mk

theorem takeLine_keeps (sm : ℕ) (l : List Sys2Proof.Byte) (bad : Bool) (fifo : Bool) {s : State} (hK : K &&& 71943 = 0) (h0 : Keeps K s0 s) :
    Keeps K s0 (takeLine sm l bad fifo s) := by
  unfold takeLine
  repeat' first
    | with_reducible assumption
    | ((with_reducible refine keeps_sub hK ?_); rfl)
    | (intro x; first
      | (refine (?_ : Keeps K s0 x → _) ?_; on_goal 1 => (intro hx; clear_value x)
         on_goal 2 => unfold x)
      | (refine (?_ : KeepsP K s0 x → _) ?_; on_goal 1 => (intro hx; clear_value x)
         on_goal 2 => unfold x)
      | (refine (?_ : KeepsT K s0 x → _) ?_; on_goal 1 => (intro hx; clear_value x)
         on_goal 2 => unfold x)
      | clear_value x
      | skip)
    | fail_if_no_progress lift_lets
    | with_reducible first
      | apply keeps_ite
      | apply keeps_foldl
      | apply keeps_id
      | apply storeLine_keeps
    | split
    | (with_reducible apply keeps_mk; case hr => rfl)
    | ((with_reducible refine keeps_no hK ?_ (by assumption)); rfl)
    | rfl
    | exact Nat.le_refl _
    | (simp; done)

theorem execCsiLongPacket_keeps (port : ℕ) (vc : ℕ) (dt : ℕ) (payload : List Sys2Proof.Byte) (hdrErrs : ℕ) (crcOk : Bool) (fifo : Bool) {s : State} (hK : K &&& 71943 = 0) (h0 : Keeps K s0 s) :
    KeepsX K s0 (execCsiLongPacket port vc dt payload hdrErrs crcOk fifo s) := by
  unfold execCsiLongPacket
  repeat' first
    | with_reducible assumption
    | ((with_reducible refine keeps_sub hK ?_); rfl)
    | (intro x; first
      | (refine (?_ : Keeps K s0 x → _) ?_; on_goal 1 => (intro hx; clear_value x)
         on_goal 2 => unfold x)
      | (refine (?_ : KeepsP K s0 x → _) ?_; on_goal 1 => (intro hx; clear_value x)
         on_goal 2 => unfold x)
      | (refine (?_ : KeepsT K s0 x → _) ?_; on_goal 1 => (intro hx; clear_value x)
         on_goal 2 => unfold x)
      | clear_value x
      | skip)
    | fail_if_no_progress lift_lets
    | with_reducible first
      | apply keeps_ite
      | apply keeps_foldl
      | apply keeps_id
      | apply keepsX_next
      | apply keepsX_ite
      | apply bump_keeps
      | apply record_keeps
      | apply takeEmbedded_keeps
      | apply takeLine_keeps
    | split
    | (with_reducible apply keeps_mk; case hr => rfl)
    | ((with_reducible refine keeps_no hK ?_ (by assumption)); rfl)
    | rfl
    | exact Nat.le_refl _
    | (simp; done)

theorem updHealth_keeps (sm : ℕ) {s : State} (hK : K &&& 6149 = 0) (h0 : Keeps K s0 s) :
    Keeps K s0 (updHealth sm s) := by
  unfold updHealth
  repeat' first
    | with_reducible assumption
    | ((with_reducible refine keeps_sub hK ?_); rfl)
    | (intro x; first
      | (refine (?_ : Keeps K s0 x → _) ?_; on_goal 1 => (intro hx; clear_value x)
         on_goal 2 => unfold x)
      | clear_value x
      | skip)
    | fail_if_no_progress lift_lets
    | with_reducible first
      | apply keeps_ite
      | apply setF_keeps
      | apply record_keeps
    | split

theorem finishFrame_keeps (sm : ℕ) {s : State} (hK : K &&& 71943 = 0) (h0 : Keeps K s0 s) :
    Keeps K s0 (finishFrame sm s) := by
  unfold finishFrame
  repeat' first
    | with_reducible assumption
    | ((with_reducible refine keeps_sub hK ?_); rfl)
    | (intro x; first
      | (refine (?_ : Keeps K s0 x → _) ?_; on_goal 1 => (intro hx; clear_value x)
         on_goal 2 => unfold x)
      | (refine (?_ : KeepsP K s0 x → _) ?_; on_goal 1 => (intro hx; clear_value x)
         on_goal 2 => unfold x)
      | clear_value x
      | skip)
    | fail_if_no_progress lift_lets
    | with_reducible first
      | apply keeps_ite
      | apply keepsP_ite
      | apply actOf_keeps
      | apply modFrame_keeps
      | apply hubStore_keeps
      | apply modStrm_keeps
      | apply bump_keeps
      | apply setF_keeps
      | apply updHealth_keeps
      | exact keepsP_get (by assumption)
      | refine keepsP_eq ?_ (by assumption)
      | refine keepsP_get (p := actOf _ _) ?_
      | refine keepsP_get (p := hubStore _ _ _ _) ?_
    | split
    | with_reducible apply keepsP_mk
    | (with_reducible apply keeps_mk; case hr => rfl)
    | ((with_reducible refine keeps_no hK ?_ (by assumption)); rfl)
    | rfl
    | exact Nat.le_refl _
    | (simp; done)

theorem execFrameEnd_keeps (port : ℕ) (vc : ℕ) (t : ℕ) {s : State} (hK : K &&& 71943 = 0) (h0 : Keeps K s0 s) :
    KeepsX K s0 (execFrameEnd port vc t s) := by
  unfold execFrameEnd
  repeat' first
    | with_reducible assumption
    | ((with_reducible refine keeps_sub hK ?_); rfl)
    | (intro x; first
      | (refine (?_ : Keeps K s0 x → _) ?_; on_goal 1 => (intro hx; clear_value x)
         on_goal 2 => unfold x)
      | clear_value x
      | skip)
    | fail_if_no_progress lift_lets
    | with_reducible first
      | apply keeps_ite
      | apply keeps_foldl
      | apply keepsX_next
      | apply keepsX_ite
      | apply completeLine_keeps
      | apply finishFrame_keeps
      | apply modFrame_keeps
      | apply at_keeps
    | split
    | (with_reducible apply keeps_mk; case hr => rfl)
    | ((with_reducible refine keeps_no hK ?_ (by assumption)); rfl)
    | rfl
    | exact Nat.le_refl _
    | (simp; done)

theorem writeRecord_keeps (sm : ℕ) {s : State} (hK : K &&& 6407 = 0) (h0 : Keeps K s0 s) :
    Keeps K s0 (writeRecord sm s) := by
  unfold writeRecord
  repeat' first
    | with_reducible assumption
    | ((with_reducible refine keeps_sub hK ?_); rfl)
    | (intro x; first
      | (refine (?_ : Keeps K s0 x → _) ?_; on_goal 1 => (intro hx; clear_value x)
         on_goal 2 => unfold x)
      | (refine (?_ : KeepsP K s0 x → _) ?_; on_goal 1 => (intro hx; clear_value x)
         on_goal 2 => unfold x)
      | clear_value x
      | skip)
    | fail_if_no_progress lift_lets
    | with_reducible first
      | apply keeps_ite
      | apply keepsP_ite
      | apply actOf_keeps
      | apply hubStore_keeps
      | exact keepsP_get (by assumption)
      | refine keepsP_eq ?_ (by assumption)
      | refine keepsP_get (p := actOf _ _) ?_
      | refine keepsP_get (p := hubStore _ _ _ _) ?_
    | split
    | with_reducible apply keepsP_mk

theorem startFrame_keeps (sm : ℕ) (fn : ℕ) {s : State} (hK : K &&& 71943 = 0) (h0 : Keeps K s0 s) :
    Keeps K s0 (startFrame sm fn s) := by
  unfold startFrame
  repeat' first
    | with_reducible assumption
    | ((with_reducible refine keeps_sub hK ?_); rfl)
    | (intro x; first
      | (refine (?_ : Keeps K s0 x → _) ?_; on_goal 1 => (intro hx; clear_value x)
         on_goal 2 => unfold x)
      | clear_value x
      | skip)
    | fail_if_no_progress lift_lets
    | with_reducible first
      | apply keeps_ite
      | apply modStrm_keeps
      | apply finishFrame_keeps
      | apply modFrame_keeps
      | apply bump_keeps
      | apply updHealth_keeps
      | apply writeRecord_keeps
      | apply setF_keeps
    | split
    | (with_reducible apply keeps_mk; case hr => rfl)
    | ((with_reducible refine keeps_no hK ?_ (by assumption)); rfl)
    | rfl
    | exact Nat.le_refl _
    | (simp; done)

theorem execFrameStart_keeps (port : ℕ) (vc : ℕ) (fn : ℕ) (t : ℕ) {s : State} (hK : K &&& 71943 = 0) (h0 : Keeps K s0 s) :
    KeepsX K s0 (execFrameStart port vc fn t s) := by
  unfold execFrameStart
  repeat' first
    | with_reducible assumption
    | ((with_reducible refine keeps_sub hK ?_); rfl)
    | (intro x; first
      | (refine (?_ : Keeps K s0 x → _) ?_; on_goal 1 => (intro hx; clear_value x)
         on_goal 2 => unfold x)
      | clear_value x
      | skip)
    | fail_if_no_progress lift_lets
    | with_reducible first
      | apply keeps_ite
      | apply keeps_foldl
      | apply keepsX_next
      | apply keepsX_ite
      | apply modStrm_keeps
      | apply finishFrame_keeps
      | apply modFrame_keeps
      | apply startFrame_keeps
      | apply at_keeps
    | split
    | (with_reducible apply keeps_mk; case hr => rfl)
    | ((with_reducible refine keeps_no hK ?_ (by assumption)); rfl)
    | rfl
    | exact Nat.le_refl _
    | (simp; done)

theorem writeIngCfg_keeps (sm : ℕ) (off : ℕ) (v : ℕ) {s : State} (hK : K &&& 6149 = 0) (h0 : Keeps K s0 s) :
    Keeps K s0 (writeIngCfg sm off v s) := by
  unfold writeIngCfg
  repeat' first
    | with_reducible assumption
    | ((with_reducible refine keeps_sub hK ?_); rfl)
    | (intro x; first
      | (refine (?_ : Keeps K s0 x → _) ?_; on_goal 1 => (intro hx; clear_value x)
         on_goal 2 => unfold x)
      | clear_value x
      | skip)
    | fail_if_no_progress lift_lets
    | with_reducible first
      | apply keeps_ite
      | apply record_keeps
      | apply setW_keeps
    | split

theorem execIngConfigWrite_keeps (by_ : Sys2Proof.Agent) (sm : ℕ) (off : ℕ) (v : Sys2Proof.Word) {s : State} (hK : K &&& 8165 = 0) (h0 : Keeps K s0 s) :
    KeepsX K s0 (execIngConfigWrite by_ sm off v s) := by
  unfold execIngConfigWrite
  repeat' first
    | with_reducible assumption
    | ((with_reducible refine keeps_sub hK ?_); rfl)
    | intro x
    | with_reducible first
      | apply keepsX_next
      | apply asMaster_keeps
      | apply writeIngCfg_keeps

theorem execIngLate_keeps (sm : ℕ) {s : State} (hK : K &&& 71685 = 0) (h0 : Keeps K s0 s) :
    KeepsX K s0 (execIngLate sm s) := by
  unfold execIngLate
  repeat' first
    | with_reducible assumption
    | ((with_reducible refine keeps_sub hK ?_); rfl)
    | (intro x; first
      | (refine (?_ : Keeps K s0 x → _) ?_; on_goal 1 => (intro hx; clear_value x)
         on_goal 2 => unfold x)
      | clear_value x
      | skip)
    | fail_if_no_progress lift_lets
    | with_reducible first
      | apply keeps_ite
      | apply keepsX_next
      | apply keepsX_ite
      | apply updHealth_keeps
      | apply modStrm_keeps
    | split
    | (with_reducible apply keeps_mk; case hr => rfl)
    | ((with_reducible refine keeps_no hK ?_ (by assumption)); rfl)
    | rfl
    | exact Nat.le_refl _
    | (simp; done)

theorem execLineComplete_keeps (sm : ℕ) (t : ℕ) {s : State} (hK : K &&& 71943 = 0) (h0 : Keeps K s0 s) :
    KeepsX K s0 (execLineComplete sm t s) := by
  unfold execLineComplete
  repeat' first
    | with_reducible assumption
    | ((with_reducible refine keeps_sub hK ?_); rfl)
    | with_reducible first
      | apply keepsX_next
      | apply completeLine_keeps
      | apply at_keeps

theorem strmBoundary_keeps (sm : ℕ) {s : State} (hK : K &&& 71685 = 0) (h0 : Keeps K s0 s) :
    Keeps K s0 (strmBoundary sm s) := by
  unfold strmBoundary
  repeat' first
    | with_reducible assumption
    | ((with_reducible refine keeps_sub hK ?_); rfl)
    | (intro x; first
      | (refine (?_ : Keeps K s0 x → _) ?_; on_goal 1 => (intro hx; clear_value x)
         on_goal 2 => unfold x)
      | clear_value x
      | skip)
    | fail_if_no_progress lift_lets
    | with_reducible first
      | apply keeps_ite
      | apply modStrm_keeps
      | apply applyCfg_keeps
      | apply setF_keeps
    | split
    | (with_reducible apply keeps_mk; case hr => rfl)
    | ((with_reducible refine keeps_no hK ?_ (by assumption)); rfl)
    | rfl
    | exact Nat.le_refl _
    | (simp; done)

theorem latchHealth_keeps  {s : State} (hK : K &&& 1 = 0) (h0 : Keeps K s0 s) :
    Keeps K s0 (latchHealth s) := by
  unfold latchHealth
  repeat' first
    | with_reducible assumption
    | ((with_reducible refine keeps_sub hK ?_); rfl)
    | (intro x; first
      | (refine (?_ : Keeps K s0 x → _) ?_; on_goal 1 => (intro hx; clear_value x)
         on_goal 2 => unfold x)
      | clear_value x
      | skip)
    | fail_if_no_progress lift_lets
    | with_reducible first
      | apply keeps_ite
      | apply keeps_foldl
      | apply setF_keeps
    | split

theorem ingBoundary_keeps  {s : State} (hK : K &&& 71685 = 0) (h0 : Keeps K s0 s) :
    Keeps K s0 (ingBoundary s) := by
  unfold ingBoundary
  repeat' first
    | with_reducible assumption
    | ((with_reducible refine keeps_sub hK ?_); rfl)
    | intro x
    | with_reducible first
      | apply keeps_ite
      | apply keeps_foldl
      | apply strmBoundary_keeps
      | apply latchHealth_keeps
    | split

theorem ingShow_keeps  {s : State} (hK : K &&& 6149 = 0) (h0 : Keeps K s0 s) :
    Keeps K s0 (ingShow s) := by
  unfold ingShow
  repeat' first
    | with_reducible assumption
    | ((with_reducible refine keeps_sub hK ?_); rfl)
    | intro x
    | with_reducible first
      | apply keeps_foldl
      | apply updHealth_keeps

theorem ingStop_keeps  {s : State} (hK : K &&& 65537 = 0) (h0 : Keeps K s0 s) :
    Keeps K s0 (ingStop s) := by
  unfold ingStop
  repeat' first
    | with_reducible assumption
    | ((with_reducible refine keeps_sub hK ?_); rfl)
    | intro x
    | with_reducible first
      | apply keeps_foldl
      | apply setF_keeps
      | apply modStrm_keeps
    | (with_reducible apply keeps_mk; case hr => rfl)
    | ((with_reducible refine keeps_no hK ?_ (by assumption)); rfl)
    | rfl
    | exact Nat.le_refl _
    | (simp; done)

end Sys2Proof.Machine
end

