-- ==== Sys2Proof/Laws/KeepsEthernet.lean ====
section
/-! SUPPORT. What the operations of Machine/Ethernet.lean keep. -/

namespace Sys2Proof.Machine

open Sys2Proof

variable {K : Nat} {s0 : State}

theorem takePacket_keeps (sm : ℕ) (ingress : ℤ) (payload : List Sys2Proof.Byte) {s : State} (hK : K &&& 71943 = 0) (h0 : Keeps K s0 s) :
    Keeps K s0 (takePacket sm ingress payload s) := by
  unfold takePacket
  repeat' first
    | with_reducible assumption
    | ((with_reducible refine keeps_sub hK ?_); rfl)
    | (intro x; first
      | (refine (?_ : Keeps K s0 x → _) ?_; on_goal 1 => (intro hx; clear_value x)
         on_goal 2 => unfold x)
      | (refine (?_ : KeepsP K s0 x → _) ?_; on_goal 1 => (intro hx; clear_value x)
         on_goal 2 => unfold x)
      | clear_value x
      | skip)
    | fail_if_no_progress lift_lets
    | with_reducible first
      | apply keeps_ite
      | apply keepsP_ite
      | apply drawFree_keeps
      | apply modStrm_keeps
      | apply record_keeps
      | apply hubStore_keeps
      | apply bump_keeps
      | apply setF_keeps
      | apply updHealth_keeps
      | exact keepsP_get (by assumption)
      | refine keepsP_eq ?_ (by assumption)
      | refine keepsP_get (p := drawFree _ _) ?_
      | refine keepsP_get (p := hubStore _ _ _ _) ?_
    | split
    | with_reducible apply keepsP_mk
    | (with_reducible apply keeps_mk; case hr => rfl)
    | ((with_reducible refine keeps_no hK ?_ (by assumption)); rfl)
    | rfl
    | exact Nat.le_refl _
    | (simp; done)

theorem execEthFrameReceive_keeps (mac : ℕ) (frame : Sys2Proof.EthFrame) (t : ℕ) {s : State} (hK : K &&& 71943 = 0) (h0 : Keeps K s0 s) :
    KeepsX K s0 (execEthFrameReceive mac frame t s) := by
  unfold execEthFrameReceive
  repeat' first
    | with_reducible assumption
    | ((with_reducible refine keeps_sub hK ?_); rfl)
    | (intro x; first
      | (refine (?_ : Keeps K s0 x → _) ?_; on_goal 1 => (intro hx; clear_value x)
         on_goal 2 => unfold x)
      | clear_value x
      | skip)
    | fail_if_no_progress lift_lets
    | with_reducible first
      | apply keeps_ite
      | apply keeps_foldl
      | apply keepsX_next
      | apply keepsX_ite
      | apply at_keeps
      | apply bumpI_keeps
      | apply takePacket_keeps
    | split

theorem modEth_keeps (f : Sys2Proof.Machine.Eth → Sys2Proof.Machine.Eth) {s : State} (hK : K &&& 16384 = 0) (h0 : Keeps K s0 s) :
    Keeps K s0 (modEth f s) := by
  unfold modEth
  repeat' first
    | with_reducible assumption
    | ((with_reducible refine keeps_sub hK ?_); rfl)
    | intro x
    | (with_reducible apply keeps_mk; case hr => rfl)
    | ((with_reducible refine keeps_no hK ?_ (by assumption)); rfl)
    | rfl
    | exact Nat.le_refl _
    | (simp; done)

theorem gateEntry_keeps (n : ℕ) (i : ℕ) {s : State} (hK : K &&& 16389 = 0) (h0 : Keeps K s0 s) :
    Keeps K s0 (gateEntry n i s) := by
  unfold gateEntry
  repeat' first
    | with_reducible assumption
    | ((with_reducible refine keeps_sub hK ?_); rfl)
    | intro x
    | with_reducible first
      | apply drainTx_keeps
      | apply modEth_keeps
    | split
    | (with_reducible apply keeps_mk; case hr => rfl)
    | ((with_reducible refine keeps_no hK ?_ (by assumption)); rfl)
    | rfl
    | exact Nat.le_refl _
    | (simp; done)

theorem execGateIntervalEnd_keeps (n : ℕ) (t : ℕ) {s : State} (hK : K &&& 16389 = 0) (h0 : Keeps K s0 s) :
    KeepsX K s0 (execGateIntervalEnd n t s) := by
  unfold execGateIntervalEnd
  repeat' first
    | with_reducible assumption
    | ((with_reducible refine keeps_sub hK ?_); rfl)
    | (intro x; first
      | (refine (?_ : Keeps K s0 x → _) ?_; on_goal 1 => (intro hx; clear_value x)
         on_goal 2 => unfold x)
      | (refine (?_ : KeepsP K s0 x → _) ?_; on_goal 1 => (intro hx; clear_value x)
         on_goal 2 => unfold x)
      | (refine (?_ : KeepsT K s0 x → _) ?_; on_goal 1 => (intro hx; clear_value x)
         on_goal 2 => unfold x)
      | clear_value x
      | skip)
    | fail_if_no_progress lift_lets
    | with_reducible first
      | apply keeps_ite
      | apply keeps_foldl
      | apply keeps_id
      | apply keepsX_next
      | apply keepsX_ite
      | apply at_keeps
      | apply gateEntry_keeps
    | split
    | (with_reducible apply keeps_mk; case hr => rfl)
    | ((with_reducible refine keeps_no hK ?_ (by assumption)); rfl)
    | rfl
    | exact Nat.le_refl _
    | (simp; done)

theorem execGptpAnnounce_keeps (mac : ℕ) (a : Sys2Proof.Announce) {s : State} (hK : K &&& 16385 = 0) (h0 : Keeps K s0 s) :
    KeepsX K s0 (execGptpAnnounce mac a s) := by
  unfold execGptpAnnounce
  repeat' first
    | with_reducible assumption
    | ((with_reducible refine keeps_sub hK ?_); rfl)
    | (intro x; first
      | (refine (?_ : Keeps K s0 x → _) ?_; on_goal 1 => (intro hx; clear_value x)
         on_goal 2 => unfold x)
      | clear_value x
      | skip)
    | fail_if_no_progress lift_lets
    | with_reducible first
      | apply keeps_ite
      | apply keepsX_next
      | apply keepsX_ite
      | apply setF_keeps
      | apply modEth_keeps
    | split
    | (with_reducible apply keeps_mk; case hr => rfl)
    | ((with_reducible refine keeps_no hK ?_ (by assumption)); rfl)
    | rfl
    | exact Nat.le_refl _
    | (simp; done)

theorem execGptpPdelay_keeps (mac : ℕ) (kind : ℕ) (t1 : ℤ) (t2 : ℤ) (t3 : ℤ) (t4 : ℤ) {s : State} (hK : K &&& 16388 = 0) (h0 : Keeps K s0 s) :
    KeepsX K s0 (execGptpPdelay mac kind t1 t2 t3 t4 s) := by
  unfold execGptpPdelay
  repeat' first
    | with_reducible assumption
    | ((with_reducible refine keeps_sub hK ?_); rfl)
    | intro x
    | with_reducible first
      | apply keeps_ite
      | apply keepsX_next
      | apply keepsX_ite
      | apply emit_keeps
      | apply modEth_keeps
    | split
    | (with_reducible apply keeps_mk; case hr => rfl)
    | ((with_reducible refine keeps_no hK ?_ (by assumption)); rfl)
    | rfl
    | exact Nat.le_refl _
    | (simp; done)

theorem fixTime_keeps  {s : State} (hK : K &&& 16384 = 0) (h0 : Keeps K s0 s) :
    Keeps K s0 (fixTime s) := by
  unfold fixTime
  repeat' first
    | with_reducible assumption
    | ((with_reducible refine keeps_sub hK ?_); rfl)
    | (intro x; first
      | (refine (?_ : Keeps K s0 x → _) ?_; on_goal 1 => (intro hx; clear_value x)
         on_goal 2 => unfold x)
      | clear_value x
      | skip)
    | fail_if_no_progress lift_lets
    | with_reducible apply modEth_keeps
    | (with_reducible apply keeps_mk; case hr => rfl)
    | ((with_reducible refine keeps_no hK ?_ (by assumption)); rfl)
    | rfl
    | exact Nat.le_refl _
    | (simp; done)

theorem execGptpSync_keeps (mac : ℕ) (master : ℤ) (corr : ℤ) (t : ℕ) {s : State} (hK : K &&& 16389 = 0) (h0 : Keeps K s0 s) :
    KeepsX K s0 (execGptpSync mac master corr t s) := by
  unfold execGptpSync
  repeat' first
    | with_reducible assumption
    | ((with_reducible refine keeps_sub hK ?_); rfl)
    | (intro x; first
      | (refine (?_ : Keeps K s0 x → _) ?_; on_goal 1 => (intro hx; clear_value x)
         on_goal 2 => unfold x)
      | clear_value x
      | skip)
    | fail_if_no_progress lift_lets
    | with_reducible first
      | apply keeps_ite
      | apply keepsX_next
      | apply keepsX_ite
      | apply at_keeps
      | apply fixTime_keeps
      | apply setF_keeps
      | apply modEth_keeps
    | split
    | (with_reducible apply keeps_mk; case hr => rfl)
    | ((with_reducible refine keeps_no hK ?_ (by assumption)); rfl)
    | rfl
    | exact Nat.le_refl _
    | (simp; done)

theorem syncHealth_keeps  {s : State} (hK : K &&& 71685 = 0) (h0 : Keeps K s0 s) :
    Keeps K s0 (syncHealth s) := by
  unfold syncHealth
  repeat' first
    | with_reducible assumption
    | ((with_reducible refine keeps_sub hK ?_); rfl)
    | intro x
    | with_reducible first
      | apply keeps_ite
      | apply keeps_foldl
      | apply updHealth_keeps
      | apply modStrm_keeps
    | split
    | (with_reducible apply keeps_mk; case hr => rfl)
    | ((with_reducible refine keeps_no hK ?_ (by assumption)); rfl)
    | rfl
    | exact Nat.le_refl _
    | (simp; done)

theorem execGptpSyncLoss_keeps (t : ℕ) {s : State} (hK : K &&& 88069 = 0) (h0 : Keeps K s0 s) :
    KeepsX K s0 (execGptpSyncLoss t s) := by
  unfold execGptpSyncLoss
  repeat' first
    | with_reducible assumption
    | ((with_reducible refine keeps_sub hK ?_); rfl)
    | (intro x; first
      | (refine (?_ : Keeps K s0 x → _) ?_; on_goal 1 => (intro hx; clear_value x)
         on_goal 2 => unfold x)
      | clear_value x
      | skip)
    | fail_if_no_progress lift_lets
    | with_reducible first
      | apply keeps_ite
      | apply keepsX_next
      | apply keepsX_ite
      | apply at_keeps
      | apply syncHealth_keeps
      | apply record_keeps
      | apply setF_keeps
      | apply fixTime_keeps
    | split

theorem execGrandmasterSync_keeps (t : ℕ) {s : State} (hK : K &&& 4 = 0) (h0 : Keeps K s0 s) :
    KeepsX K s0 (execGrandmasterSync t s) := by
  unfold execGrandmasterSync
  repeat' first
    | with_reducible assumption
    | ((with_reducible refine keeps_sub hK ?_); rfl)
    | (intro x; first
      | (refine (?_ : Keeps K s0 x → _) ?_; on_goal 1 => (intro hx; clear_value x)
         on_goal 2 => unfold x)
      | clear_value x
      | skip)
    | fail_if_no_progress lift_lets
    | with_reducible first
      | apply keeps_ite
      | apply keeps_foldl
      | apply keepsX_next
      | apply keepsX_ite
      | apply at_keeps
      | apply emit_keeps
    | split

theorem execMdioDone_keeps (v : ℕ) {s : State} (hK : K &&& 1 = 0) (h0 : Keeps K s0 s) :
    KeepsX K s0 (execMdioDone v s) := by
  unfold execMdioDone
  repeat' first
    | with_reducible assumption
    | ((with_reducible refine keeps_sub hK ?_); rfl)
    | (intro x; first
      | (refine (?_ : Keeps K s0 x → _) ?_; on_goal 1 => (intro hx; clear_value x)
         on_goal 2 => unfold x)
      | clear_value x
      | skip)
    | fail_if_no_progress lift_lets
    | with_reducible first
      | apply keeps_ite
      | apply keepsX_next
      | apply keepsX_ite
      | apply setF_keeps
    | split

theorem mdioStart_keeps  {s : State} (hK : K &&& 5 = 0) (h0 : Keeps K s0 s) :
    Keeps K s0 (mdioStart s) := by
  unfold mdioStart
  repeat' first
    | with_reducible assumption
    | ((with_reducible refine keeps_sub hK ?_); rfl)
    | with_reducible first
      | apply setF_keeps
      | apply emit_keeps

theorem execMdioStart_keeps (by_ : Sys2Proof.Agent) {s : State} (hK : K &&& 8165 = 0) (h0 : Keeps K s0 s) :
    KeepsX K s0 (execMdioStart by_ s) := by
  unfold execMdioStart
  repeat' first
    | with_reducible assumption
    | ((with_reducible refine keeps_sub hK ?_); rfl)
    | intro x
    | with_reducible first
      | apply keepsX_next
      | apply asMaster_keeps
      | apply mdioStart_keeps

theorem writePtpSet_keeps (hi : Bool) (v : ℕ) {s : State} (hK : K &&& 16385 = 0) (h0 : Keeps K s0 s) :
    Keeps K s0 (writePtpSet hi v s) := by
  unfold writePtpSet
  repeat' first
    | with_reducible assumption
    | ((with_reducible refine keeps_sub hK ?_); rfl)
    | (intro x; first
      | (refine (?_ : Keeps K s0 x → _) ?_; on_goal 1 => (intro hx; clear_value x)
         on_goal 2 => unfold x)
      | clear_value x
      | skip)
    | fail_if_no_progress lift_lets
    | with_reducible first
      | apply keeps_ite
      | apply setF_keeps
      | apply modEth_keeps
    | split
    | (with_reducible apply keeps_mk; case hr => rfl)
    | ((with_reducible refine keeps_no hK ?_ (by assumption)); rfl)
    | rfl
    | exact Nat.le_refl _
    | (simp; done)

theorem execPtpSet_keeps (by_ : Sys2Proof.Agent) (hi : Bool) (v : Sys2Proof.Word) {s : State} (hK : K &&& 24549 = 0) (h0 : Keeps K s0 s) :
    KeepsX K s0 (execPtpSet by_ hi v s) := by
  unfold execPtpSet
  repeat' first
    | with_reducible assumption
    | ((with_reducible refine keeps_sub hK ?_); rfl)
    | intro x
    | with_reducible first
      | apply keeps_ite
      | apply keepsX_next
      | apply keepsX_ite
      | apply asMaster_keeps
      | apply writePtpSet_keeps
    | split

theorem qbvCommit_keeps (n : ℕ) {s : State} (hK : K &&& 16385 = 0) (h0 : Keeps K s0 s) :
    Keeps K s0 (qbvCommit n s) := by
  unfold qbvCommit
  repeat' first
    | with_reducible assumption
    | ((with_reducible refine keeps_sub hK ?_); rfl)
    | (intro x; first
      | (refine (?_ : Keeps K s0 x → _) ?_; on_goal 1 => (intro hx; clear_value x)
         on_goal 2 => unfold x)
      | clear_value x
      | skip)
    | fail_if_no_progress lift_lets
    | with_reducible first
      | apply keeps_ite
      | apply setFi_keeps
      | apply modEth_keeps
    | split
    | (with_reducible apply keeps_mk; case hr => rfl)
    | ((with_reducible refine keeps_no hK ?_ (by assumption)); rfl)
    | rfl
    | exact Nat.le_refl _
    | (simp; done)

theorem execQbvCommit_keeps (by_ : Sys2Proof.Agent) (n : ℕ) {s : State} (hK : K &&& 24549 = 0) (h0 : Keeps K s0 s) :
    KeepsX K s0 (execQbvCommit by_ n s) := by
  unfold execQbvCommit
  repeat' first
    | with_reducible assumption
    | ((with_reducible refine keeps_sub hK ?_); rfl)
    | intro x
    | with_reducible first
      | apply keepsX_next
      | apply asMaster_keeps
      | apply qbvCommit_keeps

theorem execQbvCycleStart_keeps (n : ℕ) (t : ℕ) {s : State} (hK : K &&& 16389 = 0) (h0 : Keeps K s0 s) :
    KeepsX K s0 (execQbvCycleStart n t s) := by
  unfold execQbvCycleStart
  repeat' first
    | with_reducible assumption
    | ((with_reducible refine keeps_sub hK ?_); rfl)
    | (intro x; first
      | (refine (?_ : Keeps K s0 x → _) ?_; on_goal 1 => (intro hx; clear_value x)
         on_goal 2 => unfold x)
      | clear_value x
      | skip)
    | fail_if_no_progress lift_lets
    | with_reducible first
      | apply keeps_ite
      | apply keepsX_next
      | apply keepsX_ite
      | apply at_keeps
      | apply gateEntry_keeps
      | apply setFi_keeps
      | apply modEth_keeps
    | split
    | (with_reducible apply keeps_mk; case hr => rfl)
    | ((with_reducible refine keeps_no hK ?_ (by assumption)); rfl)
    | rfl
    | exact Nat.le_refl _
    | (simp; done)

theorem execUsxgmiiLinkChange_keeps (mac : ℕ) (up : Bool) (speed : ℕ) {s : State} (hK : K &&& 16389 = 0) (h0 : Keeps K s0 s) :
    KeepsX K s0 (execUsxgmiiLinkChange mac up speed s) := by
  unfold execUsxgmiiLinkChange
  repeat' first
    | with_reducible assumption
    | ((with_reducible refine keeps_sub hK ?_); rfl)
    | (intro x; first
      | (refine (?_ : Keeps K s0 x → _) ?_; on_goal 1 => (intro hx; clear_value x)
         on_goal 2 => unfold x)
      | clear_value x
      | skip)
    | fail_if_no_progress lift_lets
    | with_reducible first
      | apply keeps_ite
      | apply keepsX_next
      | apply keepsX_ite
      | apply setFi_keeps
      | apply drainTx_keeps
    | split

theorem ptpCtlWritten_keeps  {s : State} (hK : K &&& 16385 = 0) (h0 : Keeps K s0 s) :
    Keeps K s0 (ptpCtlWritten s) := by
  unfold ptpCtlWritten
  repeat' first
    | with_reducible assumption
    | ((with_reducible refine keeps_sub hK ?_); rfl)
    | (intro x; first
      | (refine (?_ : Keeps K s0 x → _) ?_; on_goal 1 => (intro hx; clear_value x)
         on_goal 2 => unfold x)
      | clear_value x
      | skip)
    | fail_if_no_progress lift_lets
    | with_reducible first
      | apply keeps_ite
      | apply setF_keeps
      | apply modEth_keeps
    | split
    | (with_reducible apply keeps_mk; case hr => rfl)
    | ((with_reducible refine keeps_no hK ?_ (by assumption)); rfl)
    | rfl
    | exact Nat.le_refl _
    | (simp; done)

end Sys2Proof.Machine
end

