-- ==== Sys2Proof/Laws/KeepsFusion.lean ====
section
/-! SUPPORT. What the operations of Machine/Fusion.lean keep. -/

namespace Sys2Proof.Machine

open Sys2Proof

variable {K : Nat} {s0 : State}

theorem modFus_keeps (f : Sys2Proof.Machine.Fus → Sys2Proof.Machine.Fus) {s : State} (hK : K &&& 1024 = 0) (h0 : Keeps K s0 s) :
    Keeps K s0 (modFus f s) := by
  unfold modFus
  repeat' first
    | with_reducible assumption
    | ((with_reducible refine keeps_sub hK ?_); rfl)
    | intro x
    | (with_reducible apply keeps_mk; case hr => rfl)
    | ((with_reducible refine keeps_no hK ?_ (by assumption)); rfl)
    | rfl
    | exact Nat.le_refl _
    | (simp; done)

theorem showPpu_keeps  {s : State} (hK : K &&& 1 = 0) (h0 : Keeps K s0 s) :
    Keeps K s0 (showPpu s) := by
  unfold showPpu
  repeat' first
    | with_reducible assumption
    | ((with_reducible refine keeps_sub hK ?_); rfl)
    | intro x
    | with_reducible first
      | apply keeps_ite
      | apply setF_keeps
    | split

theorem failJob_keeps (pg : Sys2Proof.Page) (code : ℕ) (a : ℕ) (j : Sys2Proof.Machine.FusJob) {s : State} (hK : K &&& 8165 = 0) (h0 : Keeps K s0 s) :
    Keeps K s0 (failJob pg code a j s) := by
  unfold failJob
  repeat' first
    | with_reducible assumption
    | ((with_reducible refine keeps_sub hK ?_); rfl)
    | (intro x; first
      | (refine (?_ : Keeps K s0 x → _) ?_; on_goal 1 => (intro hx; clear_value x)
         on_goal 2 => unfold x)
      | clear_value x
      | skip)
    | fail_if_no_progress lift_lets
    | with_reducible first
      | apply keeps_ite
      | apply windowFault_keeps
      | apply recordAt_keeps
      | apply modFus_keeps
      | apply showPpu_keeps
      | apply tryFuse_keeps
      | apply finish_keeps
      | apply failRun_keeps
    | split
    | (with_reducible apply keeps_mk; case hr => rfl)
    | ((with_reducible refine keeps_no hK ?_ (by assumption)); rfl)
    | rfl
    | exact Nat.le_refl _
    | (simp; done)

theorem withAccs_keeps (pg : Sys2Proof.Page) (j : Sys2Proof.Machine.FusJob) (accs : List Sys2Proof.Machine.MemAcc) (k : Sys2Proof.Machine.State → Sys2Proof.Machine.State) {s : State} (hK : K &&& 8165 = 0) (h0 : ∀ u0, Keeps K s0 u0 → Keeps K s0 (k u0)) (h1 : Keeps K s0 s) :
    Keeps K s0 (withAccs pg j accs k s) := by
  unfold withAccs
  repeat' first
    | with_reducible assumption
    | ((with_reducible refine keeps_sub hK ?_); rfl)
    | intro x
    | with_reducible first
      | apply failJob_keeps
      | apply chargeAccs_keeps
      | apply h0
    | split

theorem jobStore_keeps (j : Sys2Proof.Machine.FusJob) (a : ℕ) (b : List Sys2Proof.Byte) {s : State} (hK : K &&& 6151 = 0) (h0 : Keeps K s0 s) :
    Keeps K s0 (jobStore j a b s) := by
  unfold jobStore
  repeat' first
    | with_reducible assumption
    | ((with_reducible refine keeps_sub hK ?_); rfl)
    | with_reducible first
      | apply storeDev_keeps
      | exact keepsP_get (by assumption)
      | refine keepsP_eq ?_ (by assumption)
      | refine keepsP_get (p := storeDev _ _ _ _) ?_
    | with_reducible apply keepsP_mk

theorem modJob_keeps (f : Sys2Proof.Machine.FusJob → Sys2Proof.Machine.FusJob) {s : State} (hK : K &&& 1024 = 0) (h0 : Keeps K s0 s) :
    Keeps K s0 (modJob f s) := by
  unfold modJob
  repeat' first
    | with_reducible assumption
    | ((with_reducible refine keeps_sub hK ?_); rfl)
    | intro x
    | with_reducible apply modFus_keeps
    | (with_reducible apply keeps_mk; case hr => rfl)
    | ((with_reducible refine keeps_no hK ?_ (by assumption)); rfl)
    | rfl
    | exact Nat.le_refl _
    | (simp; done)

theorem stageEnds_keeps  {s : State} (hK : K &&& 1024 = 0) (h0 : Keeps K s0 s) :
    Keeps K s0 (stageEnds s) := by
  unfold stageEnds
  repeat' first
    | with_reducible assumption
    | ((with_reducible refine keeps_sub hK ?_); rfl)
    | intro x
    | with_reducible apply modJob_keeps
    | (with_reducible apply keeps_mk; case hr => rfl)
    | ((with_reducible refine keeps_no hK ?_ (by assumption)); rfl)
    | rfl
    | exact Nat.le_refl _
    | (simp; done)

theorem alignEnd_keeps (j : Sys2Proof.Machine.FusJob) {s : State} (hK : K &&& 8167 = 0) (h0 : Keeps K s0 s) :
    Keeps K s0 (alignEnd j s) := by
  unfold alignEnd
  repeat' first
    | with_reducible assumption
    | ((with_reducible refine keeps_sub hK ?_); rfl)
    | (intro x; first
      | (refine (?_ : Keeps K s0 x → _) ?_; on_goal 1 => (intro hx; clear_value x)
         on_goal 2 => unfold x)
      | clear_value x
      | skip)
    | fail_if_no_progress lift_lets
    | with_reducible first
      | apply keeps_ite
      | apply keeps_foldl
      | apply withAccs_keeps
      | apply recordPart_keeps
      | apply bump_keeps
      | apply jobStore_keeps
      | apply stageEnds_keeps
      | apply modFus_keeps
    | split
    | (with_reducible apply keeps_mk; case hr => rfl)
    | ((with_reducible refine keeps_no hK ?_ (by assumption)); rfl)
    | rfl
    | exact Nat.le_refl _
    | (simp; done)

theorem egoStage_keeps (j : Sys2Proof.Machine.FusJob) {s : State} (hK : K &&& 8165 = 0) (h0 : Keeps K s0 s) :
    Keeps K s0 (egoStage j s) := by
  unfold egoStage
  repeat' first
    | with_reducible assumption
    | ((with_reducible refine keeps_sub hK ?_); rfl)
    | (intro x; first
      | (refine (?_ : Keeps K s0 x → _) ?_; on_goal 1 => (intro hx; clear_value x)
         on_goal 2 => unfold x)
      | (refine (?_ : KeepsP K s0 x → _) ?_; on_goal 1 => (intro hx; clear_value x)
         on_goal 2 => unfold x)
      | clear_value x
      | skip)
    | fail_if_no_progress lift_lets
    | with_reducible first
      | apply keeps_ite
      | apply keepsP_ite
      | apply withAccs_keeps
      | apply drawFree_keeps
      | apply recordPart_keeps
      | apply bump_keeps
      | apply stageEnds_keeps
      | apply modJob_keeps
      | exact keepsP_get (by assumption)
      | refine keepsP_eq ?_ (by assumption)
      | refine keepsP_get (p := drawFree _ _) ?_
    | split
    | with_reducible apply keepsP_mk
    | (with_reducible apply keeps_mk; case hr => rfl)
    | ((with_reducible refine keeps_no hK ?_ (by assumption)); rfl)
    | rfl
    | exact Nat.le_refl _
    | (simp; done)

theorem execAlign_keeps  {s : State} (hK : K &&& 8167 = 0) (h0 : Keeps K s0 s) :
    KeepsX K s0 (execAlign s) := by
  unfold execAlign
  repeat' first
    | with_reducible assumption
    | ((with_reducible refine keeps_sub hK ?_); rfl)
    | intro x
    | with_reducible first
      | apply keeps_ite
      | apply keepsX_next
      | apply keepsX_ite
      | apply alignEnd_keeps
      | apply modJob_keeps
    | split
    | (with_reducible apply keeps_mk; case hr => rfl)
    | ((with_reducible refine keeps_no hK ?_ (by assumption)); rfl)
    | rfl
    | exact Nat.le_refl _
    | (simp; done)

theorem execAlignWaitEnd_keeps  {s : State} (hK : K &&& 8167 = 0) (h0 : Keeps K s0 s) :
    KeepsX K s0 (execAlignWaitEnd s) := by
  unfold execAlignWaitEnd
  repeat' first
    | with_reducible assumption
    | ((with_reducible refine keeps_sub hK ?_); rfl)
    | intro x
    | with_reducible first
      | apply keeps_ite
      | apply keepsX_next
      | apply keepsX_ite
      | apply alignEnd_keeps
    | split

theorem execEgo_keeps  {s : State} (hK : K &&& 8165 = 0) (h0 : Keeps K s0 s) :
    KeepsX K s0 (execEgo s) := by
  unfold execEgo
  repeat' first
    | with_reducible assumption
    | ((with_reducible refine keeps_sub hK ?_); rfl)
    | intro x
    | with_reducible first
      | apply keepsX_next
      | apply egoStage_keeps
    | split

theorem liftStage_keeps (j : Sys2Proof.Machine.FusJob) {s : State} (hK : K &&& 8167 = 0) (h0 : Keeps K s0 s) :
    Keeps K s0 (liftStage j s) := by
  unfold liftStage
  repeat' first
    | with_reducible assumption
    | ((with_reducible refine keeps_sub hK ?_); rfl)
    | (intro x; first
      | (refine (?_ : Keeps K s0 x → _) ?_; on_goal 1 => (intro hx; clear_value x)
         on_goal 2 => unfold x)
      | clear_value x
      | skip)
    | fail_if_no_progress lift_lets
    | with_reducible first
      | apply keeps_ite
      | apply keeps_foldl
      | apply withAccs_keeps
      | apply jobStore_keeps
      | apply stageEnds_keeps
    | split
    | (with_reducible apply keeps_mk; case hr => rfl)
    | ((with_reducible refine keeps_no hK ?_ (by assumption)); rfl)
    | rfl
    | exact Nat.le_refl _
    | (simp; done)

theorem execLift_keeps  {s : State} (hK : K &&& 8167 = 0) (h0 : Keeps K s0 s) :
    KeepsX K s0 (execLift s) := by
  unfold execLift
  repeat' first
    | with_reducible assumption
    | ((with_reducible refine keeps_sub hK ?_); rfl)
    | intro x
    | with_reducible first
      | apply keepsX_next
      | apply liftStage_keeps
    | split

theorem ppuStep_keeps (j : Sys2Proof.Machine.FusJob) {s : State} (hK : K &&& 8167 = 0) (h0 : Keeps K s0 s) :
    Keeps K s0 (ppuStep j s) := by
  unfold ppuStep
  repeat' first
    | with_reducible assumption
    | ((with_reducible refine keeps_sub hK ?_); rfl)
    | (intro x; first
      | (refine (?_ : Keeps K s0 x → _) ?_; on_goal 1 => (intro hx; clear_value x)
         on_goal 2 => unfold x)
      | clear_value x
      | skip)
    | fail_if_no_progress lift_lets
    | with_reducible first
      | apply keeps_ite
      | apply failJob_keeps
      | apply bump_keeps
      | apply jobStore_keeps
      | apply chargeAccs_keeps
      | apply setF_keeps
      | apply modJob_keeps
      | apply showPpu_keeps
      | apply stageEnds_keeps
    | split
    | (with_reducible apply keeps_mk; case hr => rfl)
    | ((with_reducible refine keeps_no hK ?_ (by assumption)); rfl)
    | rfl
    | exact Nat.le_refl _
    | (simp; done)

theorem execPpuJob_keeps  {s : State} (hK : K &&& 8167 = 0) (h0 : Keeps K s0 s) :
    KeepsX K s0 (execPpuJob s) := by
  unfold execPpuJob
  repeat' first
    | with_reducible assumption
    | ((with_reducible refine keeps_sub hK ?_); rfl)
    | intro x
    | with_reducible first
      | apply keepsX_next
      | apply ppuStep_keeps
    | split

theorem projCam_keeps (j : Sys2Proof.Machine.FusJob) (pts : List Sys2Proof.Machine.Pt) (k : ℕ) {s : State} (hK : K &&& 6151 = 0) (h0 : Keeps K s0 s) :
    Keeps K s0 (projCam j pts k s) := by
  unfold projCam
  repeat' first
    | with_reducible assumption
    | ((with_reducible refine keeps_sub hK ?_); rfl)
    | (intro x; first
      | (refine (?_ : Keeps K s0 x → _) ?_; on_goal 1 => (intro hx; clear_value x)
         on_goal 2 => unfold x)
      | clear_value x
      | skip)
    | fail_if_no_progress lift_lets
    | with_reducible first
      | apply keeps_ite
      | apply keeps_foldl
      | apply jobStore_keeps
    | split

theorem projStage_keeps (j : Sys2Proof.Machine.FusJob) {s : State} (hK : K &&& 8167 = 0) (h0 : Keeps K s0 s) :
    Keeps K s0 (projStage j s) := by
  unfold projStage
  repeat' first
    | with_reducible assumption
    | ((with_reducible refine keeps_sub hK ?_); rfl)
    | (intro x; first
      | (refine (?_ : Keeps K s0 x → _) ?_; on_goal 1 => (intro hx; clear_value x)
         on_goal 2 => unfold x)
      | clear_value x
      | skip)
    | fail_if_no_progress lift_lets
    | with_reducible first
      | apply keeps_foldl
      | apply withAccs_keeps
      | apply stageEnds_keeps
      | apply projCam_keeps
    | (with_reducible apply keeps_mk; case hr => rfl)
    | ((with_reducible refine keeps_no hK ?_ (by assumption)); rfl)
    | rfl
    | exact Nat.le_refl _
    | (simp; done)

theorem execProj_keeps  {s : State} (hK : K &&& 8167 = 0) (h0 : Keeps K s0 s) :
    KeepsX K s0 (execProj s) := by
  unfold execProj
  repeat' first
    | with_reducible assumption
    | ((with_reducible refine keeps_sub hK ?_); rfl)
    | intro x
    | with_reducible first
      | apply keepsX_next
      | apply projStage_keeps
    | split

end Sys2Proof.Machine
end

