-- ==== Sys2Proof/Laws/KeepsMailbox.lean ====
section
/-! SUPPORT. What the operations of Machine/Mailbox.lean keep. -/

namespace Sys2Proof.Machine

open Sys2Proof

variable {K : Nat} {s0 : State}

theorem setFull_keeps (c : ℕ) (v : ℕ) {s : State} (hK : K &&& 1 = 0) (h0 : Keeps K s0 s) :
    Keeps K s0 (setFull c v s) := by
  unfold setFull
  repeat' first
    | with_reducible assumption
    | ((with_reducible refine keeps_sub hK ?_); rfl)
    | with_reducible apply setFi_keeps

theorem setFreePend_keeps (c : ℕ) (v : ℕ) {s : State} (hK : K &&& 1 = 0) (h0 : Keeps K s0 s) :
    Keeps K s0 (setFreePend c v s) := by
  unfold setFreePend
  repeat' first
    | with_reducible assumption
    | ((with_reducible refine keeps_sub hK ?_); rfl)
    | with_reducible apply setFi_keeps

theorem chanPut_keeps (c : ℕ) (v : ℕ) {s : State} (hK : K &&& 5 = 0) (h0 : Keeps K s0 s) :
    Keeps K s0 (chanPut c v s) := by
  unfold chanPut
  repeat' first
    | with_reducible assumption
    | ((with_reducible refine keeps_sub hK ?_); rfl)
    | with_reducible first
      | apply notify_keeps
      | apply setFull_keeps
      | apply setFi_keeps
      | apply setFreePend_keeps

theorem chanRead_keeps (who : Sys2Proof.Agent) (c : ℕ) {s : State} (hK : K &&& 6149 = 0) (h0 : Keeps K s0 s) :
    KeepsP K s0 (chanRead who c s) := by
  unfold chanRead
  repeat' first
    | with_reducible assumption
    | ((with_reducible refine keeps_sub hK ?_); rfl)
    | (intro x; first
      | (refine (?_ : Keeps K s0 x → _) ?_; on_goal 1 => (intro hx; clear_value x)
         on_goal 2 => unfold x)
      | (refine (?_ : KeepsP K s0 x → _) ?_; on_goal 1 => (intro hx; clear_value x)
         on_goal 2 => unfold x)
      | clear_value x
      | skip)
    | fail_if_no_progress lift_lets
    | with_reducible first
      | apply keeps_ite
      | apply keepsP_ite
      | apply record_keeps
      | apply notify_keeps
      | apply setFreePend_keeps
      | apply setFull_keeps
      | exact keepsP_get (by assumption)
      | refine keepsP_eq ?_ (by assumption)
    | split
    | with_reducible apply keepsP_mk

theorem chanWrite_keeps (who : Sys2Proof.Agent) (c : ℕ) (v : ℕ) {s : State} (hK : K &&& 6149 = 0) (h0 : Keeps K s0 s) :
    Keeps K s0 (chanWrite who c v s) := by
  unfold chanWrite
  repeat' first
    | with_reducible assumption
    | ((with_reducible refine keeps_sub hK ?_); rfl)
    | (intro x; first
      | (refine (?_ : Keeps K s0 x → _) ?_; on_goal 1 => (intro hx; clear_value x)
         on_goal 2 => unfold x)
      | clear_value x
      | skip)
    | fail_if_no_progress lift_lets
    | with_reducible first
      | apply keeps_ite
      | apply record_keeps
      | apply bumpI_keeps
      | apply setFreePend_keeps
      | apply chanPut_keeps
    | split

theorem claimSource_keeps (x : ℕ) {s : State} (hK : K &&& 2048 = 0) (h0 : Keeps K s0 s) :
    KeepsP K s0 (claimSource x s) := by
  unfold claimSource
  repeat' first
    | with_reducible assumption
    | ((with_reducible refine keeps_sub hK ?_); rfl)
    | intro x
    | with_reducible first
      | exact keepsP_get (by assumption)
      | refine keepsP_eq ?_ (by assumption)
    | split
    | with_reducible apply keepsP_mk
    | (with_reducible apply keeps_mk; case hr => rfl)
    | ((with_reducible refine keeps_no hK ?_ (by assumption)); rfl)
    | rfl
    | exact Nat.le_refl _
    | (simp; done)

theorem completeSource_keeps (n : ℕ) {s : State} (hK : K &&& 2052 = 0) (h0 : Keeps K s0 s) :
    Keeps K s0 (completeSource n s) := by
  unfold completeSource
  repeat' first
    | with_reducible assumption
    | ((with_reducible refine keeps_sub hK ?_); rfl)
    | (intro x; first
      | (refine (?_ : Keeps K s0 x → _) ?_; on_goal 1 => (intro hx; clear_value x)
         on_goal 2 => unfold x)
      | clear_value x
      | skip)
    | fail_if_no_progress lift_lets
    | with_reducible first
      | apply keeps_ite
      | apply notify_keeps
    | split
    | (with_reducible apply keeps_mk; case hr => rfl)
    | ((with_reducible refine keeps_no hK ?_ (by assumption)); rfl)
    | rfl
    | exact Nat.le_refl _
    | (simp; done)

theorem writeCoreRun_keeps (v : ℕ) {s : State} (hK : K &&& 5 = 0) (h0 : Keeps K s0 s) :
    Keeps K s0 (writeCoreRun v s) := by
  unfold writeCoreRun
  repeat' first
    | with_reducible assumption
    | ((with_reducible refine keeps_sub hK ?_); rfl)
    | (intro x; first
      | (refine (?_ : Keeps K s0 x → _) ?_; on_goal 1 => (intro hx; clear_value x)
         on_goal 2 => unfold x)
      | clear_value x
      | skip)
    | fail_if_no_progress lift_lets
    | with_reducible first
      | apply keeps_ite
      | apply keeps_foldl
      | apply setF_keeps
      | apply emit_keeps
    | split

theorem execCoreRun_keeps (by_ : Sys2Proof.Agent) (v : Sys2Proof.Byte) {s : State} (hK : K &&& 8165 = 0) (h0 : Keeps K s0 s) :
    KeepsX K s0 (execCoreRun by_ v s) := by
  unfold execCoreRun
  repeat' first
    | with_reducible assumption
    | ((with_reducible refine keeps_sub hK ?_); rfl)
    | intro x
    | with_reducible first
      | apply keepsX_next
      | apply asMaster_keeps
      | apply writeCoreRun_keeps

theorem execIntcClaim_keeps (by_ : Sys2Proof.Agent) (x : ℕ) {s : State} (hK : K &&& 8165 = 0) (h0 : Keeps K s0 s) :
    KeepsX K s0 (execIntcClaim by_ x s) := by
  unfold execIntcClaim
  repeat' first
    | with_reducible assumption
    | ((with_reducible refine keeps_sub hK ?_); rfl)
    | (intro x; first
      | (refine (?_ : Keeps K s0 x → _) ?_; on_goal 1 => (intro hx; clear_value x)
         on_goal 2 => unfold x)
      | (refine (?_ : KeepsP K s0 x → _) ?_; on_goal 1 => (intro hx; clear_value x)
         on_goal 2 => unfold x)
      | clear_value x
      | skip)
    | fail_if_no_progress lift_lets
    | with_reducible first
      | apply keeps_ite
      | apply keepsO_ite
      | apply keepsO_some
      | apply keepsP_ite
      | apply keepsX_next
      | apply keepsX_ite
      | apply dataRefusal_keeps
      | apply answer_keeps
      | apply claimSource_keeps
      | exact keepsP_get (by assumption)
      | refine keepsP_eq ?_ (by assumption)
      | refine keepsP_get (p := claimSource _ _) ?_
      | refine keepsO_get ?_ (by assumption)
    | split
    | with_reducible apply keepsP_mk

theorem execIntcComplete_keeps (by_ : Sys2Proof.Agent) (x : ℕ) (n : ℕ) {s : State} (hK : K &&& 8165 = 0) (h0 : Keeps K s0 s) :
    KeepsX K s0 (execIntcComplete by_ x n s) := by
  unfold execIntcComplete
  repeat' first
    | with_reducible assumption
    | ((with_reducible refine keeps_sub hK ?_); rfl)
    | intro x
    | with_reducible first
      | apply keeps_ite
      | apply keepsX_next
      | apply keepsX_ite
      | apply asMaster_keeps
      | apply completeSource_keeps
    | split

theorem execMbxRead_keeps (by_ : Sys2Proof.Agent) (c : ℕ) {s : State} (hK : K &&& 8165 = 0) (h0 : Keeps K s0 s) :
    KeepsX K s0 (execMbxRead by_ c s) := by
  unfold execMbxRead
  repeat' first
    | with_reducible assumption
    | ((with_reducible refine keeps_sub hK ?_); rfl)
    | (intro x; first
      | (refine (?_ : Keeps K s0 x → _) ?_; on_goal 1 => (intro hx; clear_value x)
         on_goal 2 => unfold x)
      | (refine (?_ : KeepsP K s0 x → _) ?_; on_goal 1 => (intro hx; clear_value x)
         on_goal 2 => unfold x)
      | clear_value x
      | skip)
    | fail_if_no_progress lift_lets
    | with_reducible first
      | apply keeps_ite
      | apply keepsO_ite
      | apply keepsO_some
      | apply keepsP_ite
      | apply keepsX_next
      | apply keepsX_ite
      | apply dataRefusal_keeps
      | apply answer_keeps
      | apply chanRead_keeps
      | exact keepsP_get (by assumption)
      | refine keepsP_eq ?_ (by assumption)
      | refine keepsP_get (p := chanRead _ _ _) ?_
      | refine keepsO_get ?_ (by assumption)
    | split
    | with_reducible apply keepsP_mk

theorem execMbxWrite_keeps (by_ : Sys2Proof.Agent) (c : ℕ) (v : Sys2Proof.Word) {s : State} (hK : K &&& 8165 = 0) (h0 : Keeps K s0 s) :
    KeepsX K s0 (execMbxWrite by_ c v s) := by
  unfold execMbxWrite
  repeat' first
    | with_reducible assumption
    | ((with_reducible refine keeps_sub hK ?_); rfl)
    | intro x
    | with_reducible first
      | apply keeps_ite
      | apply keepsX_next
      | apply keepsX_ite
      | apply asMaster_keeps
      | apply chanWrite_keeps
    | split

theorem moveWarning_keeps  {s : State} (hK : K &&& 2053 = 0) (h0 : Keeps K s0 s) :
    Keeps K s0 (moveWarning s) := by
  unfold moveWarning
  repeat' first
    | with_reducible assumption
    | ((with_reducible refine keeps_sub hK ?_); rfl)
    | intro x
    | with_reducible first
      | apply keeps_ite
      | apply chanPut_keeps
      | apply setF_keeps
    | split
    | (with_reducible apply keeps_mk; case hr => rfl)
    | ((with_reducible refine keeps_no hK ?_ (by assumption)); rfl)
    | rfl
    | exact Nat.le_refl _
    | (simp; done)

theorem execWarningMove_keeps  {s : State} (hK : K &&& 2053 = 0) (h0 : Keeps K s0 s) :
    KeepsX K s0 (execWarningMove s) := by
  unfold execWarningMove
  repeat' first
    | with_reducible assumption
    | ((with_reducible refine keeps_sub hK ?_); rfl)
    | with_reducible first
      | apply keepsX_next
      | apply moveWarning_keeps

end Sys2Proof.Machine
end

