-- ==== Sys2Proof/Laws/KeepsIslands.lean ====
section
/-! SUPPORT. What the operations of Machine/Islands.lean keep. -/

namespace Sys2Proof.Machine

open Sys2Proof

variable {K : Nat} {s0 : State}

theorem showValid_keeps (i : ℕ) {s : State} (hK : K &&& 5 = 0) (h0 : Keeps K s0 s) :
    Keeps K s0 (showValid i s) := by
  unfold showValid
  repeat' first
    | with_reducible assumption
    | ((with_reducible refine keeps_sub hK ?_); rfl)
    | (intro x; first
      | (refine (?_ : Keeps K s0 x → _) ?_; on_goal 1 => (intro hx; clear_value x)
         on_goal 2 => unfold x)
      | clear_value x
      | skip)
    | fail_if_no_progress lift_lets
    | with_reducible first
      | apply keeps_ite
      | apply emit_keeps
      | apply setF_keeps
    | split

theorem dropHold_keeps (i : ℕ) {s : State} (hK : K &&& 5 = 0) (h0 : Keeps K s0 s) :
    Keeps K s0 (dropHold i s) := by
  unfold dropHold
  repeat' first
    | with_reducible assumption
    | ((with_reducible refine keeps_sub hK ?_); rfl)
    | with_reducible first
      | apply keeps_ite
      | apply emit_keeps
      | apply showValid_keeps
      | apply setF_keeps
    | split

theorem execCanBusOff_keeps (i : ℕ) (ch : ℕ) {s : State} (hK : K &&& 6149 = 0) (h0 : Keeps K s0 s) :
    KeepsX K s0 (execCanBusOff i ch s) := by
  unfold execCanBusOff
  repeat' first
    | with_reducible assumption
    | ((with_reducible refine keeps_sub hK ?_); rfl)
    | (intro x; first
      | (refine (?_ : Keeps K s0 x → _) ?_; on_goal 1 => (intro hx; clear_value x)
         on_goal 2 => unfold x)
      | (refine (?_ : KeepsP K s0 x → _) ?_; on_goal 1 => (intro hx; clear_value x)
         on_goal 2 => unfold x)
      | clear_value x
      | skip)
    | fail_if_no_progress lift_lets
    | with_reducible first
      | apply keeps_ite
      | apply keepsP_ite
      | apply keepsX_next
      | apply keepsX_ite
      | apply drawFree_keeps
      | apply record_keeps
      | apply setFi_keeps
      | exact keepsP_get (by assumption)
      | refine keepsP_eq ?_ (by assumption)
      | refine keepsP_get (p := drawFree _ _) ?_
    | split
    | with_reducible apply keepsP_mk

theorem execCanBusOffRecovery_keeps (i : ℕ) (ch : ℕ) {s : State} (hK : K &&& 1 = 0) (h0 : Keeps K s0 s) :
    KeepsX K s0 (execCanBusOffRecovery i ch s) := by
  unfold execCanBusOffRecovery
  repeat' first
    | with_reducible assumption
    | ((with_reducible refine keeps_sub hK ?_); rfl)
    | with_reducible first
      | apply keeps_ite
      | apply keepsX_next
      | apply keepsX_ite
      | apply setFi_keeps
    | split

theorem modIsl_keeps (i : ℕ) (f : Sys2Proof.Machine.Isl → Sys2Proof.Machine.Isl) {s : State} (hK : K &&& 1048576 = 0) (h0 : Keeps K s0 s) :
    Keeps K s0 (modIsl i f s) := by
  unfold modIsl
  repeat' first
    | with_reducible assumption
    | ((with_reducible refine keeps_sub hK ?_); rfl)
    | intro x
    | (with_reducible apply keeps_mk; case hr => rfl)
    | ((with_reducible refine keeps_no hK ?_ (by assumption)); rfl)
    | rfl
    | exact Nat.le_refl _
    | (simp; done)

theorem modCan_keeps (i : ℕ) (ch : ℕ) (f : Sys2Proof.Machine.CanCh → Sys2Proof.Machine.CanCh) {s : State} (hK : K &&& 1048576 = 0) (h0 : Keeps K s0 s) :
    Keeps K s0 (modCan i ch f s) := by
  unfold modCan
  repeat' first
    | with_reducible assumption
    | ((with_reducible refine keeps_sub hK ?_); rfl)
    | intro x
    | with_reducible apply modIsl_keeps
    | (with_reducible apply keeps_mk; case hr => rfl)
    | ((with_reducible refine keeps_no hK ?_ (by assumption)); rfl)
    | rfl
    | exact Nat.le_refl _
    | (simp; done)

theorem execCanFrameComplete_keeps (i : ℕ) (ch : ℕ) (f : Sys2Proof.CanFrame) (t : ℕ) {s : State} (hK : K &&& 1048581 = 0) (h0 : Keeps K s0 s) :
    KeepsX K s0 (execCanFrameComplete i ch f t s) := by
  unfold execCanFrameComplete
  repeat' first
    | with_reducible assumption
    | ((with_reducible refine keeps_sub hK ?_); rfl)
    | (intro x; first
      | (refine (?_ : Keeps K s0 x → _) ?_; on_goal 1 => (intro hx; clear_value x)
         on_goal 2 => unfold x)
      | clear_value x
      | skip)
    | fail_if_no_progress lift_lets
    | with_reducible first
      | apply keeps_ite
      | apply keepsX_next
      | apply keepsX_ite
      | apply emit_keeps
      | apply modCan_keeps
      | apply at_keeps
      | apply setFi_keeps
      | apply bumpI_keeps
    | split
    | (with_reducible apply keeps_mk; case hr => rfl)
    | ((with_reducible refine keeps_no hK ?_ (by assumption)); rfl)
    | rfl
    | exact Nat.le_refl _
    | (simp; done)

theorem execCanReceive_keeps (i : ℕ) (ch : ℕ) (f : Sys2Proof.CanFrame) {s : State} (hK : K &&& 1048576 = 0) (h0 : Keeps K s0 s) :
    KeepsX K s0 (execCanReceive i ch f s) := by
  unfold execCanReceive
  repeat' first
    | with_reducible assumption
    | ((with_reducible refine keeps_sub hK ?_); rfl)
    | intro x
    | with_reducible first
      | apply keeps_ite
      | apply keepsX_next
      | apply keepsX_ite
      | apply modCan_keeps
    | split
    | (with_reducible apply keeps_mk; case hr => rfl)
    | ((with_reducible refine keeps_no hK ?_ (by assumption)); rfl)
    | rfl
    | exact Nat.le_refl _
    | (simp; done)

theorem execCanSsfLate_keeps (i : ℕ) (ch : ℕ) (t : ℕ) {s : State} (hK : K &&& 1054725 = 0) (h0 : Keeps K s0 s) :
    KeepsX K s0 (execCanSsfLate i ch t s) := by
  unfold execCanSsfLate
  repeat' first
    | with_reducible assumption
    | ((with_reducible refine keeps_sub hK ?_); rfl)
    | intro x
    | with_reducible first
      | apply keeps_ite
      | apply keepsX_next
      | apply keepsX_ite
      | apply modCan_keeps
      | apply bumpI_keeps
      | apply record_keeps
      | apply at_keeps
    | split
    | (with_reducible apply keeps_mk; case hr => rfl)
    | ((with_reducible refine keeps_no hK ?_ (by assumption)); rfl)
    | rfl
    | exact Nat.le_refl _
    | (simp; done)

theorem queueFrame_keeps (i : ℕ) (ch : ℕ) (kind : ℕ) {s : State} (hK : K &&& 1048576 = 0) (h0 : Keeps K s0 s) :
    Keeps K s0 (queueFrame i ch kind s) := by
  unfold queueFrame
  repeat' first
    | with_reducible assumption
    | ((with_reducible refine keeps_sub hK ?_); rfl)
    | (intro x; first
      | (refine (?_ : Keeps K s0 x → _) ?_; on_goal 1 => (intro hx; clear_value x)
         on_goal 2 => unfold x)
      | clear_value x
      | skip)
    | fail_if_no_progress lift_lets
    | with_reducible first
      | apply keeps_ite
      | apply keeps_id
      | apply modCan_keeps
    | split
    | (with_reducible apply keeps_mk; case hr => rfl)
    | ((with_reducible refine keeps_no hK ?_ (by assumption)); rfl)
    | rfl
    | exact Nat.le_refl _
    | (simp; done)

theorem execCanStatusPeriod_keeps (i : ℕ) {s : State} (hK : K &&& 1048576 = 0) (h0 : Keeps K s0 s) :
    KeepsX K s0 (execCanStatusPeriod i s) := by
  unfold execCanStatusPeriod
  repeat' first
    | with_reducible assumption
    | ((with_reducible refine keeps_sub hK ?_); rfl)
    | with_reducible first
      | apply keeps_ite
      | apply keepsX_next
      | apply keepsX_ite
      | apply queueFrame_keeps
    | split

theorem startSsf_keeps (i : ℕ) (t0 : ℕ) {s : State} (hK : K &&& 1048576 = 0) (h0 : Keeps K s0 s) :
    Keeps K s0 (startSsf i t0 s) := by
  unfold startSsf
  repeat' first
    | with_reducible assumption
    | ((with_reducible refine keeps_sub hK ?_); rfl)
    | (intro x; first
      | (refine (?_ : Keeps K s0 x → _) ?_; on_goal 1 => (intro hx; clear_value x)
         on_goal 2 => unfold x)
      | clear_value x
      | skip)
    | fail_if_no_progress lift_lets
    | with_reducible first
      | apply keeps_ite
      | apply modIsl_keeps
      | apply queueFrame_keeps
      | apply modCan_keeps
    | split
    | (with_reducible apply keeps_mk; case hr => rfl)
    | ((with_reducible refine keeps_no hK ?_ (by assumption)); rfl)
    | rfl
    | exact Nat.le_refl _
    | (simp; done)

theorem trigger_keeps (i : ℕ) (cause : ℕ) (t0 : ℕ) {s : State} (hK : K &&& 1048581 = 0) (h0 : Keeps K s0 s) :
    Keeps K s0 (trigger i cause t0 s) := by
  unfold trigger
  repeat' first
    | with_reducible assumption
    | ((with_reducible refine keeps_sub hK ?_); rfl)
    | (intro x; first
      | (refine (?_ : Keeps K s0 x → _) ?_; on_goal 1 => (intro hx; clear_value x)
         on_goal 2 => unfold x)
      | clear_value x
      | skip)
    | fail_if_no_progress lift_lets
    | with_reducible first
      | apply keeps_ite
      | apply modIsl_keeps
      | apply setF_keeps
      | apply emit_keeps
      | apply showValid_keeps
      | apply startSsf_keeps
    | split
    | (with_reducible apply keeps_mk; case hr => rfl)
    | ((with_reducible refine keeps_no hK ?_ (by assumption)); rfl)
    | rfl
    | exact Nat.le_refl _
    | (simp; done)

theorem watchRuns_keeps (i : ℕ) (w : ℕ) (t : ℕ) (n : Sys2Proof.Notice) {s : State} (hK : K &&& 1054725 = 0) (h0 : Keeps K s0 s) :
    Keeps K s0 (watchRuns i w t n s) := by
  unfold watchRuns
  repeat' first
    | with_reducible assumption
    | ((with_reducible refine keeps_sub hK ?_); rfl)
    | (intro x; first
      | (refine (?_ : Keeps K s0 x → _) ?_; on_goal 1 => (intro hx; clear_value x)
         on_goal 2 => unfold x)
      | clear_value x
      | skip)
    | fail_if_no_progress lift_lets
    | with_reducible first
      | apply keeps_ite
      | apply setFi_keeps
      | apply raiseBit_keeps
      | apply trigger_keeps
      | apply record_keeps
    | split

theorem watchNotice_keeps (i : ℕ) (t : ℕ) (n : Sys2Proof.Notice) (w : ℕ) {s : State} (hK : K &&& 1054725 = 0) (h0 : Keeps K s0 s) :
    Keeps K s0 (watchNotice i t n s w) := by
  unfold watchNotice
  repeat' first
    | with_reducible assumption
    | ((with_reducible refine keeps_sub hK ?_); rfl)
    | (intro x; first
      | (refine (?_ : Keeps K s0 x → _) ?_; on_goal 1 => (intro hx; clear_value x)
         on_goal 2 => unfold x)
      | clear_value x
      | skip)
    | fail_if_no_progress lift_lets
    | with_reducible first
      | apply keeps_ite
      | apply trigger_keeps
      | apply modIsl_keeps
      | apply setFi_keeps
      | apply watchRuns_keeps
    | split
    | (with_reducible apply keeps_mk; case hr => rfl)
    | ((with_reducible refine keeps_no hK ?_ (by assumption)); rfl)
    | rfl
    | exact Nat.le_refl _
    | (simp; done)

theorem execEmissionNotice_keeps (i : ℕ) (n : Sys2Proof.Notice) (t : ℕ) {s : State} (hK : K &&& 1054725 = 0) (h0 : Keeps K s0 s) :
    KeepsX K s0 (execEmissionNotice i n t s) := by
  unfold execEmissionNotice
  repeat' first
    | with_reducible assumption
    | ((with_reducible refine keeps_sub hK ?_); rfl)
    | (intro x; first
      | (refine (?_ : Keeps K s0 x → _) ?_; on_goal 1 => (intro hx; clear_value x)
         on_goal 2 => unfold x)
      | clear_value x
      | skip)
    | fail_if_no_progress lift_lets
    | with_reducible first
      | apply keeps_ite
      | apply keeps_foldl
      | apply keepsX_next
      | apply keepsX_ite
      | apply modIsl_keeps
      | apply at_keeps
      | apply showValid_keeps
      | apply watchNotice_keeps
    | split
    | (with_reducible apply keeps_mk; case hr => rfl)
    | ((with_reducible refine keeps_no hK ?_ (by assumption)); rfl)
    | rfl
    | exact Nat.le_refl _
    | (simp; done)

theorem execGrantReceive_keeps (i : ℕ) (t : ℕ) {s : State} (hK : K &&& 1048581 = 0) (h0 : Keeps K s0 s) :
    KeepsX K s0 (execGrantReceive i t s) := by
  unfold execGrantReceive
  repeat' first
    | with_reducible assumption
    | ((with_reducible refine keeps_sub hK ?_); rfl)
    | (intro x; first
      | (refine (?_ : Keeps K s0 x → _) ?_; on_goal 1 => (intro hx; clear_value x)
         on_goal 2 => unfold x)
      | clear_value x
      | skip)
    | fail_if_no_progress lift_lets
    | with_reducible first
      | apply keeps_ite
      | apply keepsX_next
      | apply keepsX_ite
      | apply at_keeps
      | apply modIsl_keeps
      | apply setF_keeps
      | apply showValid_keeps
      | apply startSsf_keeps
    | split
    | (with_reducible apply keeps_mk; case hr => rfl)
    | ((with_reducible refine keeps_no hK ?_ (by assumption)); rfl)
    | rfl
    | exact Nat.le_refl _
    | (simp; done)

theorem execHeartbeatResponse_keeps (i : ℕ) (ack : Bool) (t : ℕ) {s : State} (hK : K &&& 1048581 = 0) (h0 : Keeps K s0 s) :
    KeepsX K s0 (execHeartbeatResponse i ack t s) := by
  unfold execHeartbeatResponse
  repeat' first
    | with_reducible assumption
    | ((with_reducible refine keeps_sub hK ?_); rfl)
    | (intro x; first
      | (refine (?_ : Keeps K s0 x → _) ?_; on_goal 1 => (intro hx; clear_value x)
         on_goal 2 => unfold x)
      | clear_value x
      | skip)
    | fail_if_no_progress lift_lets
    | with_reducible first
      | apply keeps_ite
      | apply keepsX_next
      | apply keepsX_ite
      | apply at_keeps
      | apply modIsl_keeps
      | apply dropHold_keeps
    | split
    | (with_reducible apply keeps_mk; case hr => rfl)
    | ((with_reducible refine keeps_no hK ?_ (by assumption)); rfl)
    | rfl
    | exact Nat.le_refl _
    | (simp; done)

theorem execHoldDrop_keeps (i : ℕ) {s : State} (hK : K &&& 5 = 0) (h0 : Keeps K s0 s) :
    KeepsX K s0 (execHoldDrop i s) := by
  unfold execHoldDrop
  repeat' first
    | with_reducible assumption
    | ((with_reducible refine keeps_sub hK ?_); rfl)
    | with_reducible first
      | apply keeps_ite
      | apply keepsX_next
      | apply keepsX_ite
      | apply dropHold_keeps
    | split

theorem execHoldTimeout_keeps (i : ℕ) (t : ℕ) {s : State} (hK : K &&& 6149 = 0) (h0 : Keeps K s0 s) :
    KeepsX K s0 (execHoldTimeout i t s) := by
  unfold execHoldTimeout
  repeat' first
    | with_reducible assumption
    | ((with_reducible refine keeps_sub hK ?_); rfl)
    | with_reducible first
      | apply keeps_ite
      | apply keepsX_next
      | apply keepsX_ite
      | apply dropHold_keeps
      | apply record_keeps
      | apply at_keeps
    | split

theorem islSafeReq_keeps (i : ℕ) (t : ℕ) {s : State} (hK : K &&& 1048581 = 0) (h0 : Keeps K s0 s) :
    Keeps K s0 (islSafeReq i t s) := by
  unfold islSafeReq
  repeat' first
    | with_reducible assumption
    | ((with_reducible refine keeps_sub hK ?_); rfl)
    | with_reducible first
      | apply keeps_ite
      | apply trigger_keeps
    | split

theorem execIslSafeReq_keeps (i : ℕ) (t : ℕ) {s : State} (hK : K &&& 1048581 = 0) (h0 : Keeps K s0 s) :
    KeepsX K s0 (execIslSafeReq i t s) := by
  unfold execIslSafeReq
  repeat' first
    | with_reducible assumption
    | ((with_reducible refine keeps_sub hK ?_); rfl)
    | with_reducible first
      | apply keepsX_next
      | apply islSafeReq_keeps
      | apply at_keeps

theorem showMon_keeps  {s : State} (hK : K &&& 1 = 0) (h0 : Keeps K s0 s) :
    Keeps K s0 (showMon s) := by
  unfold showMon
  repeat' first
    | with_reducible assumption
    | ((with_reducible refine keeps_sub hK ?_); rfl)
    | (intro x; first
      | (refine (?_ : Keeps K s0 x → _) ?_; on_goal 1 => (intro hx; clear_value x)
         on_goal 2 => unfold x)
      | clear_value x
      | skip)
    | fail_if_no_progress lift_lets
    | with_reducible first
      | apply keeps_ite
      | apply setF_keeps
    | split

theorem islandReset_keeps (i : ℕ) {s : State} (hK : K &&& 1048581 = 0) (h0 : Keeps K s0 s) :
    Keeps K s0 (islandReset i s) := by
  unfold islandReset
  repeat' first
    | with_reducible assumption
    | ((with_reducible refine keeps_sub hK ?_); rfl)
    | (intro x; first
      | (refine (?_ : Keeps K s0 x → _) ?_; on_goal 1 => (intro hx; clear_value x)
         on_goal 2 => unfold x)
      | clear_value x
      | skip)
    | fail_if_no_progress lift_lets
    | with_reducible first
      | apply keeps_ite
      | apply modIsl_keeps
      | apply resetPageFrom_keeps
      | apply showMon_keeps
      | apply emit_keeps
    | split

theorem faultIsl_keeps (i : ℕ) (cause : ℕ) (code : ℕ) {s : State} (hK : K &&& 1054725 = 0) (h0 : Keeps K s0 s) :
    Keeps K s0 (faultIsl i cause code s) := by
  unfold faultIsl
  repeat' first
    | with_reducible assumption
    | ((with_reducible refine keeps_sub hK ?_); rfl)
    | (intro x; first
      | (refine (?_ : Keeps K s0 x → _) ?_; on_goal 1 => (intro hx; clear_value x)
         on_goal 2 => unfold x)
      | clear_value x
      | skip)
    | fail_if_no_progress lift_lets
    | with_reducible first
      | apply keeps_ite
      | apply modIsl_keeps
      | apply setF_keeps
      | apply showValid_keeps
      | apply dropHold_keeps
      | apply emit_keeps
      | apply showMon_keeps
      | apply record_keeps
    | split
    | (with_reducible apply keeps_mk; case hr => rfl)
    | ((with_reducible refine keeps_no hK ?_ (by assumption)); rfl)
    | rfl
    | exact Nat.le_refl _
    | (simp; done)

theorem islandStart_keeps (i : ℕ) (split : Bool) (slots : List (Option ℕ)) {s : State} (hK : K &&& 1054725 = 0) (h0 : Keeps K s0 s) :
    Keeps K s0 (islandStart i split slots s) := by
  unfold islandStart
  repeat' first
    | with_reducible assumption
    | ((with_reducible refine keeps_sub hK ?_); rfl)
    | (intro x; first
      | (refine (?_ : Keeps K s0 x → _) ?_; on_goal 1 => (intro hx; clear_value x)
         on_goal 2 => unfold x)
      | clear_value x
      | skip)
    | fail_if_no_progress lift_lets
    | with_reducible first
      | apply keeps_ite
      | apply setF_keeps
      | apply islandReset_keeps
      | apply showMon_keeps
      | apply modIsl_keeps
      | apply faultIsl_keeps
    | split
    | (with_reducible apply keeps_mk; case hr => rfl)
    | ((with_reducible refine keeps_no hK ?_ (by assumption)); rfl)
    | rfl
    | exact Nat.le_refl _
    | (simp; done)

theorem execIslandAutoRestart_keeps (i : ℕ) (slots : List (Option ℕ)) {s : State} (hK : K &&& 1054725 = 0) (h0 : Keeps K s0 s) :
    KeepsX K s0 (execIslandAutoRestart i slots s) := by
  unfold execIslandAutoRestart
  repeat' first
    | with_reducible assumption
    | ((with_reducible refine keeps_sub hK ?_); rfl)
    | (intro x; first
      | (refine (?_ : Keeps K s0 x → _) ?_; on_goal 1 => (intro hx; clear_value x)
         on_goal 2 => unfold x)
      | clear_value x
      | skip)
    | fail_if_no_progress lift_lets
    | with_reducible first
      | apply keeps_ite
      | apply keepsX_next
      | apply keepsX_ite
      | apply islandStart_keeps
    | split

theorem islandFault_keeps (i : ℕ) (cause : ℕ) {s : State} (hK : K &&& 1054725 = 0) (h0 : Keeps K s0 s) :
    Keeps K s0 (islandFault i cause s) := by
  unfold islandFault
  repeat' first
    | with_reducible assumption
    | ((with_reducible refine keeps_sub hK ?_); rfl)
    | with_reducible first
      | apply keeps_ite
      | apply faultIsl_keeps
    | split

theorem execIslandFault_keeps (i : ℕ) (cause : ℕ) {s : State} (hK : K &&& 1054725 = 0) (h0 : Keeps K s0 s) :
    KeepsX K s0 (execIslandFault i cause s) := by
  unfold execIslandFault
  repeat' first
    | with_reducible assumption
    | ((with_reducible refine keeps_sub hK ?_); rfl)
    | with_reducible first
      | apply keepsX_next
      | apply islandFault_keeps

theorem execIslandResetRelease_keeps (i : ℕ) (split : Bool) (slots : List (Option ℕ)) {s : State} (hK : K &&& 1054725 = 0) (h0 : Keeps K s0 s) :
    KeepsX K s0 (execIslandResetRelease i split slots s) := by
  unfold execIslandResetRelease
  repeat' first
    | with_reducible assumption
    | ((with_reducible refine keeps_sub hK ?_); rfl)
    | with_reducible first
      | apply keeps_ite
      | apply keepsX_next
      | apply keepsX_ite
      | apply islandStart_keeps
    | split

theorem restartIsl_keeps (i : ℕ) {s : State} (hK : K &&& 1054725 = 0) (h0 : Keeps K s0 s) :
    Keeps K s0 (restartIsl i s) := by
  unfold restartIsl
  repeat' first
    | with_reducible assumption
    | ((with_reducible refine keeps_sub hK ?_); rfl)
    | (intro x; first
      | (refine (?_ : Keeps K s0 x → _) ?_; on_goal 1 => (intro hx; clear_value x)
         on_goal 2 => unfold x)
      | (refine (?_ : KeepsP K s0 x → _) ?_; on_goal 1 => (intro hx; clear_value x)
         on_goal 2 => unfold x)
      | clear_value x
      | skip)
    | fail_if_no_progress lift_lets
    | with_reducible first
      | apply keeps_ite
      | apply keepsP_ite
      | apply drawFree_keeps
      | apply faultIsl_keeps
      | apply showMon_keeps
      | apply modIsl_keeps
      | apply dropHold_keeps
      | exact keepsP_get (by assumption)
      | refine keepsP_eq ?_ (by assumption)
      | refine keepsP_get (p := drawFree _ _) ?_
    | split
    | with_reducible apply keepsP_mk
    | (with_reducible apply keeps_mk; case hr => rfl)
    | ((with_reducible refine keeps_no hK ?_ (by assumption)); rfl)
    | rfl
    | exact Nat.le_refl _
    | (simp; done)

theorem execIslandRestart_keeps (i : ℕ) {s : State} (hK : K &&& 1054725 = 0) (h0 : Keeps K s0 s) :
    KeepsX K s0 (execIslandRestart i s) := by
  unfold execIslandRestart
  repeat' first
    | with_reducible assumption
    | ((with_reducible refine keeps_sub hK ?_); rfl)
    | with_reducible first
      | apply keepsX_next
      | apply restartIsl_keeps

theorem execIslandWatchdogExpire_keeps (i : ℕ) {s : State} (hK : K &&& 1054725 = 0) (h0 : Keeps K s0 s) :
    KeepsX K s0 (execIslandWatchdogExpire i s) := by
  unfold execIslandWatchdogExpire
  repeat' first
    | with_reducible assumption
    | ((with_reducible refine keeps_sub hK ?_); rfl)
    | with_reducible first
      | apply keepsX_next
      | apply islandFault_keeps

theorem execRevokeReceive_keeps (i : ℕ) {s : State} (hK : K &&& 5 = 0) (h0 : Keeps K s0 s) :
    KeepsX K s0 (execRevokeReceive i s) := by
  unfold execRevokeReceive
  repeat' first
    | with_reducible assumption
    | ((with_reducible refine keeps_sub hK ?_); rfl)
    | with_reducible first
      | apply keeps_ite
      | apply keepsX_next
      | apply keepsX_ite
      | apply dropHold_keeps
    | split

theorem execSafeMessageReceive_keeps (i : ℕ) (t : ℕ) {s : State} (hK : K &&& 1048581 = 0) (h0 : Keeps K s0 s) :
    KeepsX K s0 (execSafeMessageReceive i t s) := by
  unfold execSafeMessageReceive
  repeat' first
    | with_reducible assumption
    | ((with_reducible refine keeps_sub hK ?_); rfl)
    | (intro x; first
      | (refine (?_ : Keeps K s0 x → _) ?_; on_goal 1 => (intro hx; clear_value x)
         on_goal 2 => unfold x)
      | clear_value x
      | skip)
    | fail_if_no_progress lift_lets
    | with_reducible first
      | apply keeps_ite
      | apply keepsX_next
      | apply keepsX_ite
      | apply at_keeps
      | apply modIsl_keeps
      | apply setF_keeps
      | apply showValid_keeps
      | apply startSsf_keeps
    | split
    | (with_reducible apply keeps_mk; case hr => rfl)
    | ((with_reducible refine keeps_no hK ?_ (by assumption)); rfl)
    | rfl
    | exact Nat.le_refl _
    | (simp; done)

theorem execSafeNInAssert_keeps (t : ℕ) {s : State} (hK : K &&& 1579013 = 0) (h0 : Keeps K s0 s) :
    KeepsX K s0 (execSafeNInAssert t s) := by
  unfold execSafeNInAssert
  repeat' first
    | with_reducible assumption
    | ((with_reducible refine keeps_sub hK ?_); rfl)
    | (intro x; first
      | (refine (?_ : Keeps K s0 x → _) ?_; on_goal 1 => (intro hx; clear_value x)
         on_goal 2 => unfold x)
      | clear_value x
      | skip)
    | fail_if_no_progress lift_lets
    | with_reducible first
      | apply keeps_ite
      | apply keeps_foldl
      | apply keepsX_next
      | apply keepsX_ite
      | apply trigger_keeps
      | apply record_keeps
      | apply at_keeps
    | split
    | (with_reducible apply keeps_mk; case hr => rfl)
    | ((with_reducible refine keeps_no hK ?_ (by assumption)); rfl)
    | rfl
    | exact Nat.le_refl _
    | (simp; done)

theorem execSsfPeriod_keeps (i : ℕ) (ch : ℕ) (t : ℕ) {s : State} (hK : K &&& 1048580 = 0) (h0 : Keeps K s0 s) :
    KeepsX K s0 (execSsfPeriod i ch t s) := by
  unfold execSsfPeriod
  repeat' first
    | with_reducible assumption
    | ((with_reducible refine keeps_sub hK ?_); rfl)
    | with_reducible first
      | apply keeps_ite
      | apply keepsX_next
      | apply keepsX_ite
      | apply queueFrame_keeps
      | apply at_keeps
    | split

theorem execTickFlit_keeps (i : ℕ) (bar : ℕ) (health : ℕ) {s : State} (hK : K &&& 1048576 = 0) (h0 : Keeps K s0 s) :
    KeepsX K s0 (execTickFlit i bar health s) := by
  unfold execTickFlit
  repeat' first
    | with_reducible assumption
    | ((with_reducible refine keeps_sub hK ?_); rfl)
    | intro x
    | with_reducible first
      | apply keeps_ite
      | apply keepsX_next
      | apply keepsX_ite
      | apply modIsl_keeps
    | split
    | (with_reducible apply keeps_mk; case hr => rfl)
    | ((with_reducible refine keeps_no hK ?_ (by assumption)); rfl)
    | rfl
    | exact Nat.le_refl _
    | (simp; done)

theorem execWatchExpire_keeps (i : ℕ) (w : ℕ) (t : ℕ) {s : State} (hK : K &&& 1054725 = 0) (h0 : Keeps K s0 s) :
    KeepsX K s0 (execWatchExpire i w t s) := by
  unfold execWatchExpire
  repeat' first
    | with_reducible assumption
    | ((with_reducible refine keeps_sub hK ?_); rfl)
    | (intro x; first
      | (refine (?_ : Keeps K s0 x → _) ?_; on_goal 1 => (intro hx; clear_value x)
         on_goal 2 => unfold x)
      | clear_value x
      | skip)
    | fail_if_no_progress lift_lets
    | with_reducible first
      | apply keeps_ite
      | apply keepsX_next
      | apply keepsX_ite
      | apply record_keeps
      | apply setFi_keeps
      | apply at_keeps
      | apply showValid_keeps
      | apply trigger_keeps
    | split

theorem writeWatch_keeps (i : ℕ) (w : ℕ) (v : ℕ) {s : State} (hK : K &&& 5 = 0) (h0 : Keeps K s0 s) :
    Keeps K s0 (writeWatch i w v s) := by
  unfold writeWatch
  repeat' first
    | with_reducible assumption
    | ((with_reducible refine keeps_sub hK ?_); rfl)
    | (intro x; first
      | (refine (?_ : Keeps K s0 x → _) ?_; on_goal 1 => (intro hx; clear_value x)
         on_goal 2 => unfold x)
      | clear_value x
      | skip)
    | fail_if_no_progress lift_lets
    | with_reducible first
      | apply keeps_ite
      | apply setW_keeps
      | apply setFi_keeps
      | apply showValid_keeps
    | split

end Sys2Proof.Machine
end

