-- ==== Sys2Proof/Laws/KeepsClapper.lean ====
section
/-! SUPPORT. What the operations of Machine/Clapper.lean keep. -/

namespace Sys2Proof.Machine

open Sys2Proof

variable {K : Nat} {s0 : State}

theorem modClap_keeps (f : Sys2Proof.Machine.Clap → Sys2Proof.Machine.Clap) {s : State} (hK : K &&& 524288 = 0) (h0 : Keeps K s0 s) :
    Keeps K s0 (modClap f s) := by
  unfold modClap
  repeat' first
    | with_reducible assumption
    | ((with_reducible refine keeps_sub hK ?_); rfl)
    | intro x
    | (with_reducible apply keeps_mk; case hr => rfl)
    | ((with_reducible refine keeps_no hK ?_ (by assumption)); rfl)
    | rfl
    | exact Nat.le_refl _
    | (simp; done)

theorem setClapState_keeps (st : ℕ) (t : ℕ) {s : State} (hK : K &&& 524289 = 0) (h0 : Keeps K s0 s) :
    Keeps K s0 (setClapState st t s) := by
  unfold setClapState
  repeat' first
    | with_reducible assumption
    | ((with_reducible refine keeps_sub hK ?_); rfl)
    | intro x
    | with_reducible first
      | apply keeps_ite
      | apply modClap_keeps
      | apply setF_keeps
    | split
    | (with_reducible apply keeps_mk; case hr => rfl)
    | ((with_reducible refine keeps_no hK ?_ (by assumption)); rfl)
    | rfl
    | exact Nat.le_refl _
    | (simp; done)

theorem lapse_keeps (t : ℕ) {s : State} (hK : K &&& 530437 = 0) (h0 : Keeps K s0 s) :
    Keeps K s0 (lapse t s) := by
  unfold lapse
  repeat' first
    | with_reducible assumption
    | ((with_reducible refine keeps_sub hK ?_); rfl)
    | (intro x; first
      | (refine (?_ : Keeps K s0 x → _) ?_; on_goal 1 => (intro hx; clear_value x)
         on_goal 2 => unfold x)
      | clear_value x
      | skip)
    | fail_if_no_progress lift_lets
    | with_reducible first
      | apply modClap_keeps
      | apply setClapState_keeps
      | apply emit_keeps
      | apply record_keeps
      | apply bump_keeps
    | split
    | (with_reducible apply keeps_mk; case hr => rfl)
    | ((with_reducible refine keeps_no hK ?_ (by assumption)); rfl)
    | rfl
    | exact Nat.le_refl _
    | (simp; done)

theorem abdicate_keeps (i : ℕ) (t : ℕ) {s : State} (hK : K &&& 530437 = 0) (h0 : Keeps K s0 s) :
    Keeps K s0 (abdicate i t s) := by
  unfold abdicate
  repeat' first
    | with_reducible assumption
    | ((with_reducible refine keeps_sub hK ?_); rfl)
    | with_reducible first
      | apply keeps_ite
      | apply lapse_keeps
    | split

theorem asIsland_keeps (off : ℕ) (who : Sys2Proof.Agent) (ok : Bool) (f : Sys2Proof.Machine.State → Sys2Proof.Machine.State) {s : State} (hK : K &&& 8165 = 0) (h0 : ∀ u0, Keeps K s0 u0 → Keeps K s0 (f u0)) (h1 : Keeps K s0 s) :
    Keeps K s0 (asIsland off who ok f s) := by
  unfold asIsland
  repeat' first
    | with_reducible assumption
    | ((with_reducible refine keeps_sub hK ?_); rfl)
    | intro x
    | with_reducible first
      | apply keeps_ite
      | apply asGuarded_keeps
      | apply record_keeps
      | apply h0
    | split

theorem beginGrant_keeps (i : ℕ) (e : ℕ) (prior : ℕ) (t : ℕ) {s : State} (hK : K &&& 524293 = 0) (h0 : Keeps K s0 s) :
    Keeps K s0 (beginGrant i e prior t s) := by
  unfold beginGrant
  repeat' first
    | with_reducible assumption
    | ((with_reducible refine keeps_sub hK ?_); rfl)
    | (intro x; first
      | (refine (?_ : Keeps K s0 x → _) ?_; on_goal 1 => (intro hx; clear_value x)
         on_goal 2 => unfold x)
      | clear_value x
      | skip)
    | fail_if_no_progress lift_lets
    | with_reducible first
      | apply modClap_keeps
      | apply emit_keeps
      | apply setClapState_keeps
    | (with_reducible apply keeps_mk; case hr => rfl)
    | ((with_reducible refine keeps_no hK ?_ (by assumption)); rfl)
    | rfl
    | exact Nat.le_refl _
    | (simp; done)

theorem claim_keeps (i : ℕ) (e : ℕ) (t : ℕ) {s : State} (hK : K &&& 530437 = 0) (h0 : Keeps K s0 s) :
    Keeps K s0 (claim i e t s) := by
  unfold claim
  repeat' first
    | with_reducible assumption
    | ((with_reducible refine keeps_sub hK ?_); rfl)
    | intro x
    | with_reducible first
      | apply keeps_ite
      | apply record_keeps
      | apply modClap_keeps
      | apply beginGrant_keeps
    | split
    | (with_reducible apply keeps_mk; case hr => rfl)
    | ((with_reducible refine keeps_no hK ?_ (by assumption)); rfl)
    | rfl
    | exact Nat.le_refl _
    | (simp; done)

theorem readSafeIn_keeps  {s : State} (hK : K &&& 524292 = 0) (h0 : Keeps K s0 s) :
    KeepsP K s0 (readSafeIn s) := by
  unfold readSafeIn
  repeat' first
    | with_reducible assumption
    | ((with_reducible refine keeps_sub hK ?_); rfl)
    | (intro x; first
      | (refine (?_ : Keeps K s0 x → _) ?_; on_goal 1 => (intro hx; clear_value x)
         on_goal 2 => unfold x)
      | (refine (?_ : KeepsP K s0 x → _) ?_; on_goal 1 => (intro hx; clear_value x)
         on_goal 2 => unfold x)
      | clear_value x
      | skip)
    | fail_if_no_progress lift_lets
    | with_reducible first
      | apply keeps_ite
      | apply keepsP_ite
      | apply drawFree_keeps
      | apply modClap_keeps
      | exact keepsP_get (by assumption)
      | refine keepsP_eq ?_ (by assumption)
      | refine keepsP_get (p := drawFree _ _) ?_
    | split
    | with_reducible apply keepsP_mk
    | (with_reducible apply keeps_mk; case hr => rfl)
    | ((with_reducible refine keeps_no hK ?_ (by assumption)); rfl)
    | rfl
    | exact Nat.le_refl _
    | (simp; done)

theorem leaveSafe_keeps  {s : State} (hK : K &&& 1579013 = 0) (h0 : Keeps K s0 s) :
    Keeps K s0 (leaveSafe s) := by
  unfold leaveSafe
  repeat' first
    | with_reducible assumption
    | ((with_reducible refine keeps_sub hK ?_); rfl)
    | (intro x; first
      | (refine (?_ : Keeps K s0 x → _) ?_; on_goal 1 => (intro hx; clear_value x)
         on_goal 2 => unfold x)
      | clear_value x
      | skip)
    | fail_if_no_progress lift_lets
    | with_reducible first
      | apply keeps_foldl
      | apply setF_keeps
      | apply showValid_keeps
      | apply modIsl_keeps
      | apply record_keeps
      | apply emit_keeps
      | apply modClap_keeps
      | apply queueFrame_keeps
    | (with_reducible apply keeps_mk; case hr => rfl)
    | ((with_reducible refine keeps_no hK ?_ (by assumption)); rfl)
    | rfl
    | exact Nat.le_refl _
    | (simp; done)

theorem clearSafe_keeps (who : Sys2Proof.Agent) {s : State} (hK : K &&& 1579013 = 0) (h0 : Keeps K s0 s) :
    Keeps K s0 (clearSafe who s) := by
  unfold clearSafe
  repeat' first
    | with_reducible assumption
    | ((with_reducible refine keeps_sub hK ?_); rfl)
    | (intro x; first
      | (refine (?_ : Keeps K s0 x → _) ?_; on_goal 1 => (intro hx; clear_value x)
         on_goal 2 => unfold x)
      | (refine (?_ : KeepsP K s0 x → _) ?_; on_goal 1 => (intro hx; clear_value x)
         on_goal 2 => unfold x)
      | clear_value x
      | skip)
    | fail_if_no_progress lift_lets
    | with_reducible first
      | apply keeps_ite
      | apply keepsP_ite
      | apply readSafeIn_keeps
      | apply leaveSafe_keeps
      | apply record_keeps
      | exact keepsP_get (by assumption)
      | refine keepsP_eq ?_ (by assumption)
      | refine keepsP_get (p := readSafeIn _) ?_
    | split
    | with_reducible apply keepsP_mk

theorem grantClapper_keeps (t : ℕ) {s : State} (hK : K &&& 530437 = 0) (h0 : Keeps K s0 s) :
    Keeps K s0 (grantClapper t s) := by
  unfold grantClapper
  repeat' first
    | with_reducible assumption
    | ((with_reducible refine keeps_sub hK ?_); rfl)
    | (intro x; first
      | (refine (?_ : Keeps K s0 x → _) ?_; on_goal 1 => (intro hx; clear_value x)
         on_goal 2 => unfold x)
      | clear_value x
      | skip)
    | fail_if_no_progress lift_lets
    | with_reducible first
      | apply modClap_keeps
      | apply setF_keeps
      | apply setClapState_keeps
      | apply showMon_keeps
      | apply record_keeps
      | apply emit_keeps
      | apply bump_keeps
    | split
    | (with_reducible apply keeps_mk; case hr => rfl)
    | ((with_reducible refine keeps_no hK ?_ (by assumption)); rfl)
    | rfl
    | exact Nat.le_refl _
    | (simp; done)

theorem confirm_keeps (i : ℕ) (e : ℕ) (t : ℕ) {s : State} (hK : K &&& 530437 = 0) (h0 : Keeps K s0 s) :
    Keeps K s0 (confirm i e t s) := by
  unfold confirm
  repeat' first
    | with_reducible assumption
    | ((with_reducible refine keeps_sub hK ?_); rfl)
    | intro x
    | with_reducible first
      | apply keeps_ite
      | apply grantClapper_keeps
      | apply emit_keeps
      | apply modClap_keeps
      | apply record_keeps
    | split
    | (with_reducible apply keeps_mk; case hr => rfl)
    | ((with_reducible refine keeps_no hK ?_ (by assumption)); rfl)
    | rfl
    | exact Nat.le_refl _
    | (simp; done)

theorem enterSafe_keeps (cause : ℕ) {s : State} (hK : K &&& 530437 = 0) (h0 : Keeps K s0 s) :
    Keeps K s0 (enterSafe cause s) := by
  unfold enterSafe
  repeat' first
    | with_reducible assumption
    | ((with_reducible refine keeps_sub hK ?_); rfl)
    | (intro x; first
      | (refine (?_ : Keeps K s0 x → _) ?_; on_goal 1 => (intro hx; clear_value x)
         on_goal 2 => unfold x)
      | clear_value x
      | skip)
    | fail_if_no_progress lift_lets
    | with_reducible first
      | apply setF_keeps
      | apply record_keeps
      | apply bump_keeps
      | apply emit_keeps
      | apply modClap_keeps
    | (with_reducible apply keeps_mk; case hr => rfl)
    | ((with_reducible refine keeps_no hK ?_ (by assumption)); rfl)
    | rfl
    | exact Nat.le_refl _
    | (simp; done)

theorem execClapAbdicate_keeps (by_ : Sys2Proof.Agent) (t : ℕ) {s : State} (hK : K &&& 532453 = 0) (h0 : Keeps K s0 s) :
    KeepsX K s0 (execClapAbdicate by_ t s) := by
  unfold execClapAbdicate
  repeat' first
    | with_reducible assumption
    | ((with_reducible refine keeps_sub hK ?_); rfl)
    | intro x
    | with_reducible first
      | apply keeps_id
      | apply keepsX_next
      | apply abdicate_keeps
      | apply at_keeps
      | apply asIsland_keeps
    | split

theorem execClapArbitrate_keeps (t : ℕ) {s : State} (hK : K &&& 524293 = 0) (h0 : Keeps K s0 s) :
    KeepsX K s0 (execClapArbitrate t s) := by
  unfold execClapArbitrate
  repeat' first
    | with_reducible assumption
    | ((with_reducible refine keeps_sub hK ?_); rfl)
    | (intro x; first
      | (refine (?_ : Keeps K s0 x → _) ?_; on_goal 1 => (intro hx; clear_value x)
         on_goal 2 => unfold x)
      | clear_value x
      | skip)
    | fail_if_no_progress lift_lets
    | with_reducible first
      | apply keeps_ite
      | apply keeps_foldl
      | apply keepsX_next
      | apply keepsX_ite
      | apply beginGrant_keeps
      | apply emit_keeps
      | apply at_keeps
    | split

theorem execClapClaim_keeps (by_ : Sys2Proof.Agent) (i : ℕ) (e : Sys2Proof.Word) (t : ℕ) {s : State} (hK : K &&& 532453 = 0) (h0 : Keeps K s0 s) :
    KeepsX K s0 (execClapClaim by_ i e t s) := by
  unfold execClapClaim
  repeat' first
    | with_reducible assumption
    | ((with_reducible refine keeps_sub hK ?_); rfl)
    | intro x
    | with_reducible first
      | apply keeps_ite
      | apply keepsX_next
      | apply keepsX_ite
      | apply asIsland_keeps
      | apply claim_keeps
      | apply at_keeps
    | split

theorem execClapConfirm_keeps (by_ : Sys2Proof.Agent) (i : ℕ) (e : Sys2Proof.Word) (t : ℕ) {s : State} (hK : K &&& 532453 = 0) (h0 : Keeps K s0 s) :
    KeepsX K s0 (execClapConfirm by_ i e t s) := by
  unfold execClapConfirm
  repeat' first
    | with_reducible assumption
    | ((with_reducible refine keeps_sub hK ?_); rfl)
    | intro x
    | with_reducible first
      | apply keeps_ite
      | apply keepsX_next
      | apply keepsX_ite
      | apply asIsland_keeps
      | apply confirm_keeps
      | apply at_keeps
    | split

theorem execClapConfirmTimeout_keeps  {s : State} (hK : K &&& 530437 = 0) (h0 : Keeps K s0 s) :
    KeepsX K s0 (execClapConfirmTimeout s) := by
  unfold execClapConfirmTimeout
  repeat' first
    | with_reducible assumption
    | ((with_reducible refine keeps_sub hK ?_); rfl)
    | intro x
    | with_reducible first
      | apply keepsX_next
      | apply record_keeps
      | apply setClapState_keeps
      | apply modClap_keeps
    | split
    | (with_reducible apply keeps_mk; case hr => rfl)
    | ((with_reducible refine keeps_no hK ?_ (by assumption)); rfl)
    | rfl
    | exact Nat.le_refl _
    | (simp; done)

theorem execClapGrantTimeout_keeps (t : ℕ) {s : State} (hK : K &&& 530437 = 0) (h0 : Keeps K s0 s) :
    KeepsX K s0 (execClapGrantTimeout t s) := by
  unfold execClapGrantTimeout
  repeat' first
    | with_reducible assumption
    | ((with_reducible refine keeps_sub hK ?_); rfl)
    | intro x
    | with_reducible first
      | apply keeps_ite
      | apply keepsX_next
      | apply keepsX_ite
      | apply grantClapper_keeps
      | apply at_keeps
    | split

theorem heartbeat_keeps (i : ℕ) {s : State} (hK : K &&& 524293 = 0) (h0 : Keeps K s0 s) :
    Keeps K s0 (heartbeat i s) := by
  unfold heartbeat
  repeat' first
    | with_reducible assumption
    | ((with_reducible refine keeps_sub hK ?_); rfl)
    | intro x
    | with_reducible first
      | apply keeps_ite
      | apply emit_keeps
      | apply setF_keeps
      | apply modClap_keeps
    | split
    | (with_reducible apply keeps_mk; case hr => rfl)
    | ((with_reducible refine keeps_no hK ?_ (by assumption)); rfl)
    | rfl
    | exact Nat.le_refl _
    | (simp; done)

theorem execClapHeartbeat_keeps (by_ : Sys2Proof.Agent) (i : ℕ) {s : State} (hK : K &&& 532453 = 0) (h0 : Keeps K s0 s) :
    KeepsX K s0 (execClapHeartbeat by_ i s) := by
  unfold execClapHeartbeat
  repeat' first
    | with_reducible assumption
    | ((with_reducible refine keeps_sub hK ?_); rfl)
    | intro x
    | with_reducible first
      | apply keeps_ite
      | apply keepsX_next
      | apply keepsX_ite
      | apply asIsland_keeps
      | apply heartbeat_keeps
    | split

theorem holdRel_keeps (i : ℕ) (t : ℕ) {s : State} (hK : K &&& 530437 = 0) (h0 : Keeps K s0 s) :
    Keeps K s0 (holdRel i t s) := by
  unfold holdRel
  repeat' first
    | with_reducible assumption
    | ((with_reducible refine keeps_sub hK ?_); rfl)
    | intro x
    | with_reducible first
      | apply keeps_ite
      | apply grantClapper_keeps
      | apply modClap_keeps
    | split
    | (with_reducible apply keeps_mk; case hr => rfl)
    | ((with_reducible refine keeps_no hK ?_ (by assumption)); rfl)
    | rfl
    | exact Nat.le_refl _
    | (simp; done)

theorem execClapHoldRel_keeps (by_ : Sys2Proof.Agent) (t : ℕ) {s : State} (hK : K &&& 532453 = 0) (h0 : Keeps K s0 s) :
    KeepsX K s0 (execClapHoldRel by_ t s) := by
  unfold execClapHoldRel
  repeat' first
    | with_reducible assumption
    | ((with_reducible refine keeps_sub hK ?_); rfl)
    | intro x
    | with_reducible first
      | apply keeps_id
      | apply keepsX_next
      | apply holdRel_keeps
      | apply at_keeps
      | apply asIsland_keeps
    | split

theorem live_keeps (i : ℕ) {s : State} (hK : K &&& 524293 = 0) (h0 : Keeps K s0 s) :
    Keeps K s0 (live i s) := by
  unfold live
  repeat' first
    | with_reducible assumption
    | ((with_reducible refine keeps_sub hK ?_); rfl)
    | intro x
    | with_reducible first
      | apply emit_keeps
      | apply showMon_keeps
      | apply modClap_keeps
    | (with_reducible apply keeps_mk; case hr => rfl)
    | ((with_reducible refine keeps_no hK ?_ (by assumption)); rfl)
    | rfl
    | exact Nat.le_refl _
    | (simp; done)

theorem execClapLive_keeps (by_ : Sys2Proof.Agent) (i : ℕ) {s : State} (hK : K &&& 532453 = 0) (h0 : Keeps K s0 s) :
    KeepsX K s0 (execClapLive by_ i s) := by
  unfold execClapLive
  repeat' first
    | with_reducible assumption
    | ((with_reducible refine keeps_sub hK ?_); rfl)
    | intro x
    | with_reducible first
      | apply keeps_ite
      | apply keepsX_next
      | apply keepsX_ite
      | apply asIsland_keeps
      | apply live_keeps
    | split

theorem execClapOfferTimeout_keeps  {s : State} (hK : K &&& 524289 = 0) (h0 : Keeps K s0 s) :
    KeepsX K s0 (execClapOfferTimeout s) := by
  unfold execClapOfferTimeout
  repeat' first
    | with_reducible assumption
    | ((with_reducible refine keeps_sub hK ?_); rfl)
    | with_reducible first
      | apply keeps_ite
      | apply keepsX_next
      | apply keepsX_ite
      | apply setClapState_keeps
    | split

theorem releaseClap_keeps (who : Sys2Proof.Agent) (t : ℕ) {s : State} (hK : K &&& 530437 = 0) (h0 : Keeps K s0 s) :
    Keeps K s0 (releaseClap who t s) := by
  unfold releaseClap
  repeat' first
    | with_reducible assumption
    | ((with_reducible refine keeps_sub hK ?_); rfl)
    | with_reducible first
      | apply keeps_ite
      | apply setClapState_keeps
      | apply record_keeps
    | split

theorem execClapRelease_keeps (by_ : Sys2Proof.Agent) (t : ℕ) {s : State} (hK : K &&& 532453 = 0) (h0 : Keeps K s0 s) :
    KeepsX K s0 (execClapRelease by_ t s) := by
  unfold execClapRelease
  repeat' first
    | with_reducible assumption
    | ((with_reducible refine keeps_sub hK ?_); rfl)
    | intro x
    | with_reducible first
      | apply keepsX_next
      | apply asGuarded_keeps
      | apply releaseClap_keeps
      | apply at_keeps

theorem safeRequest_keeps (i : ℕ) (cause : ℕ) {s : State} (hK : K &&& 530437 = 0) (h0 : Keeps K s0 s) :
    Keeps K s0 (safeRequest i cause s) := by
  unfold safeRequest
  repeat' first
    | with_reducible assumption
    | ((with_reducible refine keeps_sub hK ?_); rfl)
    | with_reducible first
      | apply keeps_ite
      | apply enterSafe_keeps
      | apply bump_keeps
    | split

theorem execClapSafeReq_keeps (by_ : Sys2Proof.Agent) (i : ℕ) (cause : ℕ) (t : ℕ) {s : State} (hK : K &&& 532453 = 0) (h0 : Keeps K s0 s) :
    KeepsX K s0 (execClapSafeReq by_ i cause t s) := by
  unfold execClapSafeReq
  repeat' first
    | with_reducible assumption
    | ((with_reducible refine keeps_sub hK ?_); rfl)
    | intro x
    | with_reducible first
      | apply keeps_ite
      | apply keepsX_next
      | apply keepsX_ite
      | apply safeRequest_keeps
      | apply at_keeps
      | apply asIsland_keeps
    | split

theorem livePeriod_keeps  {s : State} (hK : K &&& 524289 = 0) (h0 : Keeps K s0 s) :
    Keeps K s0 (livePeriod s) := by
  unfold livePeriod
  repeat' first
    | with_reducible assumption
    | ((with_reducible refine keeps_sub hK ?_); rfl)
    | intro x
    | with_reducible first
      | apply keeps_ite
      | apply showMon_keeps
      | apply modClap_keeps
    | split
    | (with_reducible apply keeps_mk; case hr => rfl)
    | ((with_reducible refine keeps_no hK ?_ (by assumption)); rfl)
    | rfl
    | exact Nat.le_refl _
    | (simp; done)

theorem holderPeriod_keeps (t : ℕ) {s : State} (hK : K &&& 530437 = 0) (h0 : Keeps K s0 s) :
    Keeps K s0 (holderPeriod t s) := by
  unfold holderPeriod
  repeat' first
    | with_reducible assumption
    | ((with_reducible refine keeps_sub hK ?_); rfl)
    | (intro x; first
      | (refine (?_ : Keeps K s0 x → _) ?_; on_goal 1 => (intro hx; clear_value x)
         on_goal 2 => unfold x)
      | clear_value x
      | skip)
    | fail_if_no_progress lift_lets
    | with_reducible first
      | apply keeps_ite
      | apply modClap_keeps
      | apply setF_keeps
      | apply lapse_keeps
    | split
    | (with_reducible apply keeps_mk; case hr => rfl)
    | ((with_reducible refine keeps_no hK ?_ (by assumption)); rfl)
    | rfl
    | exact Nat.le_refl _
    | (simp; done)

theorem execHeartbeatPeriodEnd_keeps (t : ℕ) {s : State} (hK : K &&& 530437 = 0) (h0 : Keeps K s0 s) :
    KeepsX K s0 (execHeartbeatPeriodEnd t s) := by
  unfold execHeartbeatPeriodEnd
  repeat' first
    | with_reducible assumption
    | ((with_reducible refine keeps_sub hK ?_); rfl)
    | with_reducible first
      | apply keeps_ite
      | apply keepsX_next
      | apply keepsX_ite
      | apply livePeriod_keeps
      | apply holderPeriod_keeps
      | apply at_keeps
    | split

theorem execNoIslandTimeout_keeps (t : ℕ) {s : State} (hK : K &&& 530437 = 0) (h0 : Keeps K s0 s) :
    KeepsX K s0 (execNoIslandTimeout t s) := by
  unfold execNoIslandTimeout
  repeat' first
    | with_reducible assumption
    | ((with_reducible refine keeps_sub hK ?_); rfl)
    | intro x
    | with_reducible first
      | apply keeps_ite
      | apply keepsX_next
      | apply keepsX_ite
      | apply enterSafe_keeps
      | apply at_keeps
    | split

theorem execSafeClr_keeps (by_ : Sys2Proof.Agent) {s : State} (hK : K &&& 1581029 = 0) (h0 : Keeps K s0 s) :
    KeepsX K s0 (execSafeClr by_ s) := by
  unfold execSafeClr
  repeat' first
    | with_reducible assumption
    | ((with_reducible refine keeps_sub hK ?_); rfl)
    | intro x
    | with_reducible first
      | apply keepsX_next
      | apply asGuarded_keeps
      | apply clearSafe_keeps

theorem writeClap_keeps (who : Sys2Proof.Agent) (off : ℕ) (v : ℕ) (t : ℕ) {s : State} (hK : K &&& 532453 = 0) (h0 : Keeps K s0 s) :
    Keeps K s0 (writeClap who off v t s) := by
  unfold writeClap
  repeat' first
    | with_reducible assumption
    | ((with_reducible refine keeps_sub hK ?_); rfl)
    | (intro x; first
      | (refine (?_ : Keeps K s0 x → _) ?_; on_goal 1 => (intro hx; clear_value x)
         on_goal 2 => unfold x)
      | clear_value x
      | skip)
    | fail_if_no_progress lift_lets
    | with_reducible first
      | apply keeps_ite
      | apply keeps_id
      | apply abdicate_keeps
      | apply asIsland_keeps
      | apply holdRel_keeps
      | apply heartbeat_keeps
      | apply live_keeps
      | apply claim_keeps
      | apply confirm_keeps
      | apply safeRequest_keeps
    | split

end Sys2Proof.Machine
end

