-- ==== Sys2Proof/Laws/KeepsPower.lean ====
section
/-! SUPPORT. What the operations of Machine/Power.lean keep. -/

namespace Sys2Proof.Machine

open Sys2Proof

variable {K : Nat} {s0 : State}

theorem addMicro_keeps (i : ℕ) (pj : ℕ) (lo : Sys2Proof.Machine.Row) (hi : Sys2Proof.Machine.Row) (k : ℕ) {s : State} (hK : K &&& 2097153 = 0) (h0 : Keeps K s0 s) :
    Keeps K s0 (addMicro i pj lo hi k s) := by
  unfold addMicro
  repeat' first
    | with_reducible assumption
    | ((with_reducible refine keeps_sub hK ?_); rfl)
    | (intro x; first
      | (refine (?_ : Keeps K s0 x → _) ?_; on_goal 1 => (intro hx; clear_value x)
         on_goal 2 => unfold x)
      | clear_value x
      | skip)
    | fail_if_no_progress lift_lets
    | with_reducible first
      | apply bump64_keeps
      | apply modPwr_keeps
    | (with_reducible apply keeps_mk; case hr => rfl)
    | ((with_reducible refine keeps_no hK ?_ (by assumption)); rfl)
    | rfl
    | exact Nat.le_refl _
    | (simp; done)

theorem applyEnv_keeps (e : ℕ) {s : State} (hK : K &&& 6149 = 0) (h0 : Keeps K s0 s) :
    Keeps K s0 (applyEnv e s) := by
  unfold applyEnv
  repeat' first
    | with_reducible assumption
    | ((with_reducible refine keeps_sub hK ?_); rfl)
    | with_reducible first
      | apply keeps_ite
      | apply setF_keeps
      | apply record_keeps
    | split

theorem beginStep_keeps (n : ℕ) {s : State} (hK : K &&& 2097153 = 0) (h0 : Keeps K s0 s) :
    Keeps K s0 (beginStep n s) := by
  unfold beginStep
  repeat' first
    | with_reducible assumption
    | ((with_reducible refine keeps_sub hK ?_); rfl)
    | (intro x; first
      | (refine (?_ : Keeps K s0 x → _) ?_; on_goal 1 => (intro hx; clear_value x)
         on_goal 2 => unfold x)
      | clear_value x
      | skip)
    | fail_if_no_progress lift_lets
    | with_reducible first
      | apply keeps_ite
      | apply setFi_keeps
      | apply modDiePwr_keeps
      | apply setF_keeps
    | split
    | (with_reducible apply keeps_mk; case hr => rfl)
    | ((with_reducible refine keeps_no hK ?_ (by assumption)); rfl)
    | rfl
    | exact Nat.le_refl _
    | (simp; done)

theorem chargeEnergy_keeps (p : ℕ) (e : Option ℕ) {s : State} (hK : K &&& 260 = 0) (h0 : Keeps K s0 s) :
    Keeps K s0 (chargeEnergy p e s) := by
  unfold chargeEnergy
  repeat' first
    | with_reducible assumption
    | ((with_reducible refine keeps_sub hK ?_); rfl)
    | (intro x; first
      | (refine (?_ : Keeps K s0 x → _) ?_; on_goal 1 => (intro hx; clear_value x)
         on_goal 2 => unfold x)
      | (refine (?_ : KeepsP K s0 x → _) ?_; on_goal 1 => (intro hx; clear_value x)
         on_goal 2 => unfold x)
      | clear_value x
      | skip)
    | fail_if_no_progress lift_lets
    | with_reducible first
      | apply modCharge_keeps
      | apply drawFree_keeps
      | exact keepsP_get (by assumption)
      | refine keepsP_eq ?_ (by assumption)
      | refine keepsP_get (p := drawFree _ _) ?_
    | split
    | with_reducible apply keepsP_mk
    | (with_reducible apply keeps_mk; case hr => rfl)
    | ((with_reducible refine keeps_no hK ?_ (by assumption)); rfl)
    | rfl
    | exact Nat.le_refl _
    | (simp; done)

theorem disableRail_keeps (r : ℕ) {s : State} (hK : K &&& 1 = 0) (h0 : Keeps K s0 s) :
    Keeps K s0 (disableRail r s) := by
  unfold disableRail
  repeat' first
    | with_reducible assumption
    | ((with_reducible refine keeps_sub hK ?_); rfl)
    | with_reducible apply setF_keeps

theorem disableOut_keeps (n : ℕ) {s : State} (hK : K &&& 2097153 = 0) (h0 : Keeps K s0 s) :
    Keeps K s0 (disableOut n s) := by
  unfold disableOut
  repeat' first
    | with_reducible assumption
    | ((with_reducible refine keeps_sub hK ?_); rfl)
    | intro x
    | with_reducible first
      | apply keeps_ite
      | apply disableRail_keeps
      | apply modDiePwr_keeps
    | split
    | (with_reducible apply keeps_mk; case hr => rfl)
    | ((with_reducible refine keeps_no hK ?_ (by assumption)); rfl)
    | rfl
    | exact Nat.le_refl _
    | (simp; done)

theorem envBoundary_keeps  {s : State} (hK : K &&& 6149 = 0) (h0 : Keeps K s0 s) :
    Keeps K s0 (envBoundary s) := by
  unfold envBoundary
  repeat' first
    | with_reducible assumption
    | ((with_reducible refine keeps_sub hK ?_); rfl)
    | (intro x; first
      | (refine (?_ : Keeps K s0 x → _) ?_; on_goal 1 => (intro hx; clear_value x)
         on_goal 2 => unfold x)
      | clear_value x
      | skip)
    | fail_if_no_progress lift_lets
    | with_reducible first
      | apply keeps_ite
      | apply setF_keeps
      | apply applyEnv_keeps
    | split

theorem journalKeep_keeps (etype : ℕ) (key : ℕ) (data : List Sys2Proof.Byte) (words : List (ℕ × Sys2Proof.Word)) {s : State} (hK : K &&& 2103301 = 0) (h0 : Keeps K s0 s) :
    Keeps K s0 (journalKeep etype key data words s) := by
  unfold journalKeep
  repeat' first
    | with_reducible assumption
    | ((with_reducible refine keeps_sub hK ?_); rfl)
    | (intro x; first
      | (refine (?_ : Keeps K s0 x → _) ?_; on_goal 1 => (intro hx; clear_value x)
         on_goal 2 => unfold x)
      | clear_value x
      | skip)
    | fail_if_no_progress lift_lets
    | with_reducible first
      | apply keeps_ite
      | apply journal_keeps
      | apply modPwr_keeps
    | split
    | (with_reducible apply keeps_mk; case hr => rfl)
    | ((with_reducible refine keeps_no hK ?_ (by assumption)); rfl)
    | rfl
    | exact Nat.le_refl _
    | (simp; done)

theorem retireFrom_keeps (n : ℕ) (k : ℕ) {s : State} (hK : K &&& 2103301 = 0) (h0 : Keeps K s0 s) :
    Keeps K s0 (retireFrom n k s) := by
  unfold retireFrom
  repeat' first
    | with_reducible assumption
    | ((with_reducible refine keeps_sub hK ?_); rfl)
    | (intro x; first
      | (refine (?_ : Keeps K s0 x → _) ?_; on_goal 1 => (intro hx; clear_value x)
         on_goal 2 => unfold x)
      | (refine (?_ : KeepsP K s0 x → _) ?_; on_goal 1 => (intro hx; clear_value x)
         on_goal 2 => unfold x)
      | clear_value x
      | skip)
    | fail_if_no_progress lift_lets
    | with_reducible first
      | apply keeps_ite
      | apply keeps_foldl
      | apply keepsP_ite
      | apply keepsP_foldl
      | apply setFij_keeps
      | apply drawFree_keeps
      | apply setFi_keeps
      | apply journalKeep_keeps
      | apply record_keeps
      | exact keepsP_get (by assumption)
      | refine keepsP_eq ?_ (by assumption)
      | refine keepsP_get (p := drawFree _ _) ?_
    | split
    | with_reducible apply keepsP_mk

theorem setOffset_keeps (n : ℕ) (j : ℕ) (o : ℕ) {s : State} (hK : K &&& 2103301 = 0) (h0 : Keeps K s0 s) :
    Keeps K s0 (setOffset n j o s) := by
  unfold setOffset
  repeat' first
    | with_reducible assumption
    | ((with_reducible refine keeps_sub hK ?_); rfl)
    | (intro x; first
      | (refine (?_ : Keeps K s0 x → _) ?_; on_goal 1 => (intro hx; clear_value x)
         on_goal 2 => unfold x)
      | clear_value x
      | skip)
    | fail_if_no_progress lift_lets
    | with_reducible first
      | apply keeps_ite
      | apply setFij_keeps
      | apply record_keeps
      | apply modDiePwr_keeps
    | split
    | (with_reducible apply keeps_mk; case hr => rfl)
    | ((with_reducible refine keeps_no hK ?_ (by assumption)); rfl)
    | rfl
    | exact Nat.le_refl _
    | (simp; done)

theorem raiseOffset_keeps (n : ℕ) (k : ℕ) {s : State} (hK : K &&& 2103301 = 0) (h0 : Keeps K s0 s) :
    Keeps K s0 (raiseOffset n k s) := by
  unfold raiseOffset
  repeat' first
    | with_reducible assumption
    | ((with_reducible refine keeps_sub hK ?_); rfl)
    | (intro x; first
      | (refine (?_ : Keeps K s0 x → _) ?_; on_goal 1 => (intro hx; clear_value x)
         on_goal 2 => unfold x)
      | (refine (?_ : KeepsP K s0 x → _) ?_; on_goal 1 => (intro hx; clear_value x)
         on_goal 2 => unfold x)
      | (refine (?_ : KeepsT K s0 x → _) ?_; on_goal 1 => (intro hx; clear_value x)
         on_goal 2 => unfold x)
      | clear_value x
      | skip)
    | fail_if_no_progress lift_lets
    | with_reducible first
      | apply keeps_ite
      | apply keeps_foldl
      | apply keeps_id
      | apply retireFrom_keeps
      | apply setOffset_keeps
      | apply bumpI_keeps
      | apply journalKeep_keeps
    | split
    | (with_reducible apply keeps_mk; case hr => rfl)
    | ((with_reducible refine keeps_no hK ?_ (by assumption)); rfl)
    | rfl
    | exact Nat.le_refl _
    | (simp; done)

theorem execAgeRaise_keeps (n : ℕ) {s : State} (hK : K &&& 2103301 = 0) (h0 : Keeps K s0 s) :
    KeepsX K s0 (execAgeRaise n s) := by
  unfold execAgeRaise
  repeat' first
    | with_reducible assumption
    | ((with_reducible refine keeps_sub hK ?_); rfl)
    | (intro x; first
      | (refine (?_ : Keeps K s0 x → _) ?_; on_goal 1 => (intro hx; clear_value x)
         on_goal 2 => unfold x)
      | clear_value x
      | skip)
    | fail_if_no_progress lift_lets
    | with_reducible first
      | apply keeps_ite
      | apply keepsX_next
      | apply keepsX_ite
      | apply raiseOffset_keeps
      | apply modDiePwr_keeps
      | apply setF_keeps
    | split
    | (with_reducible apply keeps_mk; case hr => rfl)
    | ((with_reducible refine keeps_no hK ?_ (by assumption)); rfl)
    | rfl
    | exact Nat.le_refl _
    | (simp; done)

theorem warmStop_keeps (n : ℕ) {s : State} (hK : K &&& 2097473 = 0) (h0 : Keeps K s0 s) :
    Keeps K s0 (warmStop n s) := by
  unfold warmStop
  repeat' first
    | with_reducible assumption
    | ((with_reducible refine keeps_sub hK ?_); rfl)
    | (intro x; first
      | (refine (?_ : Keeps K s0 x → _) ?_; on_goal 1 => (intro hx; clear_value x)
         on_goal 2 => unfold x)
      | clear_value x
      | skip)
    | fail_if_no_progress lift_lets
    | with_reducible first
      | apply keeps_ite
      | apply keeps_foldl
      | apply modDiePwr_keeps
      | apply modEng_keeps
      | apply showState_keeps
      | apply leaveBrush_keeps
    | split
    | (with_reducible apply keeps_mk; case hr => rfl)
    | ((with_reducible refine keeps_no hK ?_ (by assumption)); rfl)
    | rfl
    | exact Nat.le_refl _
    | (simp; done)

theorem execCapEvaluation_keeps (win : ℕ) (mean : ℕ) (t : ℕ) {s : State} (hK : K &&& 2097477 = 0) (h0 : Keeps K s0 s) :
    KeepsX K s0 (execCapEvaluation win mean t s) := by
  unfold execCapEvaluation
  repeat' first
    | with_reducible assumption
    | ((with_reducible refine keeps_sub hK ?_); rfl)
    | (intro x; first
      | (refine (?_ : Keeps K s0 x → _) ?_; on_goal 1 => (intro hx; clear_value x)
         on_goal 2 => unfold x)
      | clear_value x
      | skip)
    | fail_if_no_progress lift_lets
    | with_reducible first
      | apply keeps_ite
      | apply keeps_foldl
      | apply keepsX_next
      | apply keepsX_ite
      | apply modPwr_keeps
      | apply at_keeps
      | apply setFi_keeps
      | apply warmStop_keeps
      | apply modDiePwr_keeps
    | split
    | (with_reducible apply keeps_mk; case hr => rfl)
    | ((with_reducible refine keeps_no hK ?_ (by assumption)); rfl)
    | rfl
    | exact Nat.le_refl _
    | (simp; done)

theorem execCapRaise_keeps (t : ℕ) {s : State} (hK : K &&& 2097156 = 0) (h0 : Keeps K s0 s) :
    KeepsX K s0 (execCapRaise t s) := by
  unfold execCapRaise
  repeat' first
    | with_reducible assumption
    | ((with_reducible refine keeps_sub hK ?_); rfl)
    | (intro x; first
      | (refine (?_ : Keeps K s0 x → _) ?_; on_goal 1 => (intro hx; clear_value x)
         on_goal 2 => unfold x)
      | clear_value x
      | skip)
    | fail_if_no_progress lift_lets
    | with_reducible first
      | apply keeps_ite
      | apply keepsX_next
      | apply keepsX_ite
      | apply modDiePwr_keeps
      | apply modPwr_keeps
      | apply at_keeps
    | split
    | (with_reducible apply keeps_mk; case hr => rfl)
    | ((with_reducible refine keeps_no hK ?_ (by assumption)); rfl)
    | rfl
    | exact Nat.le_refl _
    | (simp; done)

theorem execDroopDetect_keeps (n : ℕ) (t : ℕ) {s : State} (hK : K &&& 2103301 = 0) (h0 : Keeps K s0 s) :
    KeepsX K s0 (execDroopDetect n t s) := by
  unfold execDroopDetect
  repeat' first
    | with_reducible assumption
    | ((with_reducible refine keeps_sub hK ?_); rfl)
    | (intro x; first
      | (refine (?_ : Keeps K s0 x → _) ?_; on_goal 1 => (intro hx; clear_value x)
         on_goal 2 => unfold x)
      | clear_value x
      | skip)
    | fail_if_no_progress lift_lets
    | with_reducible first
      | apply keeps_ite
      | apply keepsX_next
      | apply keepsX_ite
      | apply readdPhases_keeps
      | apply bump_keeps
      | apply at_keeps
      | apply modDiePwr_keeps
      | apply record_keeps
    | split
    | (with_reducible apply keeps_mk; case hr => rfl)
    | ((with_reducible refine keeps_no hK ?_ (by assumption)); rfl)
    | rfl
    | exact Nat.le_refl _
    | (simp; done)

theorem execDroopHoldEnd_keeps (n : ℕ) {s : State} (hK : K &&& 2097152 = 0) (h0 : Keeps K s0 s) :
    KeepsX K s0 (execDroopHoldEnd n s) := by
  unfold execDroopHoldEnd
  repeat' first
    | with_reducible assumption
    | ((with_reducible refine keeps_sub hK ?_); rfl)
    | intro x
    | with_reducible first
      | apply keepsX_next
      | apply modDiePwr_keeps
    | (with_reducible apply keeps_mk; case hr => rfl)
    | ((with_reducible refine keeps_no hK ?_ (by assumption)); rfl)
    | rfl
    | exact Nat.le_refl _
    | (simp; done)

theorem execDroopTimeout_keeps (n : ℕ) (t : ℕ) {s : State} (hK : K &&& 2097156 = 0) (h0 : Keeps K s0 s) :
    KeepsX K s0 (execDroopTimeout n t s) := by
  unfold execDroopTimeout
  repeat' first
    | with_reducible assumption
    | ((with_reducible refine keeps_sub hK ?_); rfl)
    | (intro x; first
      | (refine (?_ : Keeps K s0 x → _) ?_; on_goal 1 => (intro hx; clear_value x)
         on_goal 2 => unfold x)
      | clear_value x
      | skip)
    | fail_if_no_progress lift_lets
    | with_reducible first
      | apply keeps_ite
      | apply keepsX_next
      | apply keepsX_ite
      | apply modDiePwr_keeps
      | apply at_keeps
    | split
    | (with_reducible apply keeps_mk; case hr => rfl)
    | ((with_reducible refine keeps_no hK ?_ (by assumption)); rfl)
    | rfl
    | exact Nat.le_refl _
    | (simp; done)

theorem execEnergyInterval_keeps (rails : List ℕ) (vin : ℕ) {s : State} (hK : K &&& 2097413 = 0) (h0 : Keeps K s0 s) :
    KeepsX K s0 (execEnergyInterval rails vin s) := by
  unfold execEnergyInterval
  repeat' first
    | with_reducible assumption
    | ((with_reducible refine keeps_sub hK ?_); rfl)
    | (intro x; first
      | (refine (?_ : Keeps K s0 x → _) ?_; on_goal 1 => (intro hx; clear_value x)
         on_goal 2 => unfold x)
      | clear_value x
      | skip)
    | fail_if_no_progress lift_lets
    | with_reducible first
      | apply keeps_ite
      | apply keeps_foldl
      | apply keepsX_next
      | apply keepsX_ite
      | apply addMicro_keeps
      | apply setF_keeps
      | apply modPwr_keeps
      | apply chargeEnergy_keeps
    | split
    | (with_reducible apply keeps_mk; case hr => rfl)
    | ((with_reducible refine keeps_no hK ?_ (by assumption)); rfl)
    | rfl
    | exact Nat.le_refl _
    | (simp; done)

theorem writeEnvIsl_keeps (who : Sys2Proof.Agent) (e : ℕ) {s : State} (hK : K &&& 2103301 = 0) (h0 : Keeps K s0 s) :
    Keeps K s0 (writeEnvIsl who e s) := by
  unfold writeEnvIsl
  repeat' first
    | with_reducible assumption
    | ((with_reducible refine keeps_sub hK ?_); rfl)
    | intro x
    | with_reducible first
      | apply keeps_ite
      | apply record_keeps
      | apply setF_keeps
      | apply modPwr_keeps
    | split
    | (with_reducible apply keeps_mk; case hr => rfl)
    | ((with_reducible refine keeps_no hK ?_ (by assumption)); rfl)
    | rfl
    | exact Nat.le_refl _
    | (simp; done)

theorem execEnvIslRequest_keeps (by_ : Sys2Proof.Agent) (e : ℕ) {s : State} (hK : K &&& 2105317 = 0) (h0 : Keeps K s0 s) :
    KeepsX K s0 (execEnvIslRequest by_ e s) := by
  unfold execEnvIslRequest
  repeat' first
    | with_reducible assumption
    | ((with_reducible refine keeps_sub hK ?_); rfl)
    | intro x
    | with_reducible first
      | apply keeps_ite
      | apply keepsX_next
      | apply keepsX_ite
      | apply asMaster_keeps
      | apply writeEnvIsl_keeps
    | split

theorem writeEnv_keeps (e : ℕ) {s : State} (hK : K &&& 6149 = 0) (h0 : Keeps K s0 s) :
    Keeps K s0 (writeEnv e s) := by
  unfold writeEnv
  repeat' first
    | with_reducible assumption
    | ((with_reducible refine keeps_sub hK ?_); rfl)
    | with_reducible first
      | apply keeps_ite
      | apply record_keeps
      | apply setF_keeps
    | split

theorem execEnvRequest_keeps (by_ : Sys2Proof.Agent) (e : ℕ) {s : State} (hK : K &&& 8165 = 0) (h0 : Keeps K s0 s) :
    KeepsX K s0 (execEnvRequest by_ e s) := by
  unfold execEnvRequest
  repeat' first
    | with_reducible assumption
    | ((with_reducible refine keeps_sub hK ?_); rfl)
    | intro x
    | with_reducible first
      | apply keeps_ite
      | apply keepsX_next
      | apply keepsX_ite
      | apply asMaster_keeps
      | apply writeEnv_keeps
    | split

theorem writeFloor_keeps (n : ℕ) (k : ℕ) {s : State} (hK : K &&& 6149 = 0) (h0 : Keeps K s0 s) :
    Keeps K s0 (writeFloor n k s) := by
  unfold writeFloor
  repeat' first
    | with_reducible assumption
    | ((with_reducible refine keeps_sub hK ?_); rfl)
    | with_reducible first
      | apply keeps_ite
      | apply advanceCfgGen_keeps
      | apply record_keeps
      | apply setFi_keeps
    | split

theorem execFloorPendWrite_keeps (by_ : Sys2Proof.Agent) (n : ℕ) (k : ℕ) {s : State} (hK : K &&& 8165 = 0) (h0 : Keeps K s0 s) :
    KeepsX K s0 (execFloorPendWrite by_ n k s) := by
  unfold execFloorPendWrite
  repeat' first
    | with_reducible assumption
    | ((with_reducible refine keeps_sub hK ?_); rfl)
    | intro x
    | with_reducible first
      | apply keeps_ite
      | apply keepsX_next
      | apply keepsX_ite
      | apply asMaster_keeps
      | apply writeFloor_keeps
    | split

theorem execIlimStep_keeps (r : ℕ) {s : State} (hK : K &&& 2097152 = 0) (h0 : Keeps K s0 s) :
    KeepsX K s0 (execIlimStep r s) := by
  unfold execIlimStep
  repeat' first
    | with_reducible assumption
    | ((with_reducible refine keeps_sub hK ?_); rfl)
    | intro x
    | with_reducible first
      | apply keeps_ite
      | apply keeps_foldl
      | apply keepsX_next
      | apply keepsX_ite
      | apply modDiePwr_keeps
    | split
    | (with_reducible apply keeps_mk; case hr => rfl)
    | ((with_reducible refine keeps_no hK ?_ (by assumption)); rfl)
    | rfl
    | exact Nat.le_refl _
    | (simp; done)

theorem execMarginSample_keeps (n : ℕ) (slack : List ℕ) {s : State} (hK : K &&& 2097153 = 0) (h0 : Keeps K s0 s) :
    KeepsX K s0 (execMarginSample n slack s) := by
  unfold execMarginSample
  repeat' first
    | with_reducible assumption
    | ((with_reducible refine keeps_sub hK ?_); rfl)
    | (intro x; first
      | (refine (?_ : Keeps K s0 x → _) ?_; on_goal 1 => (intro hx; clear_value x)
         on_goal 2 => unfold x)
      | clear_value x
      | skip)
    | fail_if_no_progress lift_lets
    | with_reducible first
      | apply keeps_ite
      | apply keeps_foldl
      | apply keepsX_next
      | apply keepsX_ite
      | apply modDiePwr_keeps
      | apply setFi_keeps
    | split
    | (with_reducible apply keeps_mk; case hr => rfl)
    | ((with_reducible refine keeps_no hK ?_ (by assumption)); rfl)
    | rfl
    | exact Nat.le_refl _
    | (simp; done)

theorem selectDie_keeps (n : ℕ) {s : State} (hK : K &&& 2103301 = 0) (h0 : Keeps K s0 s) :
    Keeps K s0 (selectDie n s) := by
  unfold selectDie
  repeat' first
    | with_reducible assumption
    | ((with_reducible refine keeps_sub hK ?_); rfl)
    | (intro x; first
      | (refine (?_ : Keeps K s0 x → _) ?_; on_goal 1 => (intro hx; clear_value x)
         on_goal 2 => unfold x)
      | clear_value x
      | skip)
    | fail_if_no_progress lift_lets
    | with_reducible first
      | apply keeps_ite
      | apply setFi_keeps
      | apply record_keeps
      | apply modDiePwr_keeps
      | apply beginStep_keeps
    | split
    | (with_reducible apply keeps_mk; case hr => rfl)
    | ((with_reducible refine keeps_no hK ?_ (by assumption)); rfl)
    | rfl
    | exact Nat.le_refl _
    | (simp; done)

theorem execOpSelect_keeps  {s : State} (hK : K &&& 2103301 = 0) (h0 : Keeps K s0 s) :
    KeepsX K s0 (execOpSelect s) := by
  unfold execOpSelect
  repeat' first
    | with_reducible assumption
    | ((with_reducible refine keeps_sub hK ?_); rfl)
    | (intro x; first
      | (refine (?_ : Keeps K s0 x → _) ?_; on_goal 1 => (intro hx; clear_value x)
         on_goal 2 => unfold x)
      | clear_value x
      | skip)
    | fail_if_no_progress lift_lets
    | with_reducible first
      | apply keeps_foldl
      | apply keepsX_next
      | apply selectDie_keeps
      | apply bump64_keeps

theorem execOpStepDone_keeps (n : ℕ) {s : State} (hK : K &&& 2097153 = 0) (h0 : Keeps K s0 s) :
    KeepsX K s0 (execOpStepDone n s) := by
  unfold execOpStepDone
  repeat' first
    | with_reducible assumption
    | ((with_reducible refine keeps_sub hK ?_); rfl)
    | (intro x; first
      | (refine (?_ : Keeps K s0 x → _) ?_; on_goal 1 => (intro hx; clear_value x)
         on_goal 2 => unfold x)
      | clear_value x
      | skip)
    | fail_if_no_progress lift_lets
    | with_reducible first
      | apply keepsX_next
      | apply modDiePwr_keeps
      | apply setFi_keeps
      | apply setF_keeps
    | split
    | (with_reducible apply keeps_mk; case hr => rfl)
    | ((with_reducible refine keeps_no hK ?_ (by assumption)); rfl)
    | rfl
    | exact Nat.le_refl _
    | (simp; done)

theorem modRail_keeps (r : ℕ) (f : Sys2Proof.Machine.RailPwr → Sys2Proof.Machine.RailPwr) {s : State} (hK : K &&& 2097152 = 0) (h0 : Keeps K s0 s) :
    Keeps K s0 (modRail r f s) := by
  unfold modRail
  repeat' first
    | with_reducible assumption
    | ((with_reducible refine keeps_sub hK ?_); rfl)
    | intro x
    | (with_reducible apply keeps_mk; case hr => rfl)
    | ((with_reducible refine keeps_no hK ?_ (by assumption)); rfl)
    | rfl
    | exact Nat.le_refl _
    | (simp; done)

theorem losePhase_keeps (r : ℕ) (x : ℕ × ℕ) {s : State} (hK : K &&& 2103301 = 0) (h0 : Keeps K s0 s) :
    Keeps K s0 (losePhase r x s) := by
  unfold losePhase
  repeat' first
    | with_reducible assumption
    | ((with_reducible refine keeps_sub hK ?_); rfl)
    | (intro x; first
      | (refine (?_ : Keeps K s0 x → _) ?_; on_goal 1 => (intro hx; clear_value x)
         on_goal 2 => unfold x)
      | clear_value x
      | skip)
    | fail_if_no_progress lift_lets
    | with_reducible first
      | apply keeps_ite
      | apply setF_keeps
      | apply bump_keeps
      | apply modRail_keeps
      | apply record_keeps
    | split
    | (with_reducible apply keeps_mk; case hr => rfl)
    | ((with_reducible refine keeps_no hK ?_ (by assumption)); rfl)
    | rfl
    | exact Nat.le_refl _
    | (simp; done)

theorem showPhase_keeps (r : ℕ) {s : State} (hK : K &&& 1 = 0) (h0 : Keeps K s0 s) :
    Keeps K s0 (showPhase r s) := by
  unfold showPhase
  repeat' first
    | with_reducible assumption
    | ((with_reducible refine keeps_sub hK ?_); rfl)
    | (intro x; first
      | (refine (?_ : Keeps K s0 x → _) ?_; on_goal 1 => (intro hx; clear_value x)
         on_goal 2 => unfold x)
      | clear_value x
      | skip)
    | fail_if_no_progress lift_lets
    | with_reducible apply setF_keeps

theorem hubOff_keeps  {s : State} (hK : K &&& 531813 = 0) (h0 : Keeps K s0 s) :
    Keeps K s0 (hubOff s) := by
  unfold hubOff
  repeat' first
    | with_reducible assumption
    | ((with_reducible refine keeps_sub hK ?_); rfl)
    | (intro x; first
      | (refine (?_ : Keeps K s0 x → _) ?_; on_goal 1 => (intro hx; clear_value x)
         on_goal 2 => unfold x)
      | clear_value x
      | skip)
    | fail_if_no_progress lift_lets
    | with_reducible first
      | apply keeps_foldl
      | apply enterIdle_keeps
      | apply stopDie_keeps
      | apply setF_keeps
      | apply writeCoreRun_keeps
      | apply emit_keeps
      | apply modClap_keeps
    | (with_reducible apply keeps_mk; case hr => rfl)
    | ((with_reducible refine keeps_no hK ?_ (by assumption)); rfl)
    | rfl
    | exact Nat.le_refl _
    | (simp; done)

theorem trip_keeps  {s : State} (hK : K &&& 2760037 = 0) (h0 : Keeps K s0 s) :
    Keeps K s0 (trip s) := by
  unfold trip
  repeat' first
    | with_reducible assumption
    | ((with_reducible refine keeps_sub hK ?_); rfl)
    | (intro x; first
      | (refine (?_ : Keeps K s0 x → _) ?_; on_goal 1 => (intro hx; clear_value x)
         on_goal 2 => unfold x)
      | (refine (?_ : KeepsP K s0 x → _) ?_; on_goal 1 => (intro hx; clear_value x)
         on_goal 2 => unfold x)
      | clear_value x
      | skip)
    | fail_if_no_progress lift_lets
    | with_reducible first
      | apply keeps_ite
      | apply keeps_foldl
      | apply keepsP_ite
      | apply keepsP_foldl
      | apply disableRail_keeps
      | apply record_keeps
      | apply setF_keeps
      | apply journal_keeps
      | apply queueFault_keeps
      | apply startFlush_keeps
      | apply hubOff_keeps
      | apply modPwr_keeps
      | exact keepsP_get (by assumption)
      | refine keepsP_eq ?_ (by assumption)
      | refine keepsP_get (p := queueFault _ _ _) ?_
    | split
    | with_reducible apply keepsP_mk
    | (with_reducible apply keeps_mk; case hr => rfl)
    | ((with_reducible refine keeps_no hK ?_ (by assumption)); rfl)
    | rfl
    | exact Nat.le_refl _
    | (simp; done)

theorem lossState_keeps (r : ℕ) (before : ℕ) (t : ℕ) {s : State} (hK : K &&& 2760037 = 0) (h0 : Keeps K s0 s) :
    Keeps K s0 (lossState r before t s) := by
  unfold lossState
  repeat' first
    | with_reducible assumption
    | ((with_reducible refine keeps_sub hK ?_); rfl)
    | (intro x; first
      | (refine (?_ : Keeps K s0 x → _) ?_; on_goal 1 => (intro hx; clear_value x)
         on_goal 2 => unfold x)
      | clear_value x
      | skip)
    | fail_if_no_progress lift_lets
    | with_reducible first
      | apply keeps_ite
      | apply setF_keeps
      | apply record_keeps
      | apply modDiePwr_keeps
      | apply dieLeave_keeps
      | apply trip_keeps
    | split
    | (with_reducible apply keeps_mk; case hr => rfl)
    | ((with_reducible refine keeps_no hK ?_ (by assumption)); rfl)
    | rfl
    | exact Nat.le_refl _
    | (simp; done)

theorem execPhaseFault_keeps (r : ℕ) (opens : List ℕ) (senses : List ℕ) (t : ℕ) {s : State} (hK : K &&& 2760037 = 0) (h0 : Keeps K s0 s) :
    KeepsX K s0 (execPhaseFault r opens senses t s) := by
  unfold execPhaseFault
  repeat' first
    | with_reducible assumption
    | ((with_reducible refine keeps_sub hK ?_); rfl)
    | (intro x; first
      | (refine (?_ : Keeps K s0 x → _) ?_; on_goal 1 => (intro hx; clear_value x)
         on_goal 2 => unfold x)
      | clear_value x
      | skip)
    | fail_if_no_progress lift_lets
    | with_reducible first
      | apply keeps_ite
      | apply keeps_foldl
      | apply keepsX_next
      | apply keepsX_ite
      | apply at_keeps
      | apply losePhase_keeps
      | apply modDiePwr_keeps
      | apply showLims_keeps
      | apply showPhase_keeps
      | apply lossState_keeps
    | split
    | (with_reducible apply keeps_mk; case hr => rfl)
    | ((with_reducible refine keeps_no hK ?_ (by assumption)); rfl)
    | rfl
    | exact Nat.le_refl _
    | (simp; done)

theorem execPhaseShed_keeps (r : ℕ) (t : ℕ) {s : State} (hK : K &&& 5 = 0) (h0 : Keeps K s0 s) :
    KeepsX K s0 (execPhaseShed r t s) := by
  unfold execPhaseShed
  repeat' first
    | with_reducible assumption
    | ((with_reducible refine keeps_sub hK ?_); rfl)
    | intro x
    | with_reducible first
      | apply keeps_ite
      | apply keepsX_next
      | apply keepsX_ite
      | apply setF_keeps
      | apply at_keeps
    | split

theorem sampleRail_keeps (r : ℕ) (t : ℕ) (x : Sys2Proof.RailSample) {s : State} (hK : K &&& 2097153 = 0) (h0 : Keeps K s0 s) :
    Keeps K s0 (sampleRail r t x s) := by
  unfold sampleRail
  repeat' first
    | with_reducible assumption
    | ((with_reducible refine keeps_sub hK ?_); rfl)
    | (intro x; first
      | (refine (?_ : Keeps K s0 x → _) ?_; on_goal 1 => (intro hx; clear_value x)
         on_goal 2 => unfold x)
      | clear_value x
      | skip)
    | fail_if_no_progress lift_lets
    | with_reducible first
      | apply keeps_ite
      | apply modRail_keeps
      | apply showPhase_keeps
      | apply setF_keeps
      | apply readdPhases_keeps
      | apply modDiePwr_keeps
    | split
    | (with_reducible apply keeps_mk; case hr => rfl)
    | ((with_reducible refine keeps_no hK ?_ (by assumption)); rfl)
    | rfl
    | exact Nat.le_refl _
    | (simp; done)

theorem execPmcSample_keeps (rails : List Sys2Proof.RailSample) (vinMv : ℕ) (vinMa : ℕ) (t : ℕ) {s : State} (hK : K &&& 2097157 = 0) (h0 : Keeps K s0 s) :
    KeepsX K s0 (execPmcSample rails vinMv vinMa t s) := by
  unfold execPmcSample
  repeat' first
    | with_reducible assumption
    | ((with_reducible refine keeps_sub hK ?_); rfl)
    | (intro x; first
      | (refine (?_ : Keeps K s0 x → _) ?_; on_goal 1 => (intro hx; clear_value x)
         on_goal 2 => unfold x)
      | clear_value x
      | skip)
    | fail_if_no_progress lift_lets
    | with_reducible first
      | apply keeps_foldl
      | apply keepsX_next
      | apply setF_keeps
      | apply at_keeps
      | apply sampleRail_keeps

theorem execRailStageDisable_keeps (n : ℕ) {s : State} (hK : K &&& 2097153 = 0) (h0 : Keeps K s0 s) :
    KeepsX K s0 (execRailStageDisable n s) := by
  unfold execRailStageDisable
  repeat' first
    | with_reducible assumption
    | ((with_reducible refine keeps_sub hK ?_); rfl)
    | with_reducible first
      | apply keeps_ite
      | apply keepsX_next
      | apply keepsX_ite
      | apply disableOut_keeps
    | split

theorem warmStart_keeps (n : ℕ) {s : State} (hK : K &&& 2097473 = 0) (h0 : Keeps K s0 s) :
    Keeps K s0 (warmStart n s) := by
  unfold warmStart
  repeat' first
    | with_reducible assumption
    | ((with_reducible refine keeps_sub hK ?_); rfl)
    | (intro x; first
      | (refine (?_ : Keeps K s0 x → _) ?_; on_goal 1 => (intro hx; clear_value x)
         on_goal 2 => unfold x)
      | clear_value x
      | skip)
    | fail_if_no_progress lift_lets
    | with_reducible first
      | apply keeps_ite
      | apply keeps_foldl
      | apply modDiePwr_keeps
      | apply enterBrush_keeps
      | apply rollIn_keeps
    | split
    | (with_reducible apply keeps_mk; case hr => rfl)
    | ((with_reducible refine keeps_no hK ?_ (by assumption)); rfl)
    | rfl
    | exact Nat.le_refl _
    | (simp; done)

end Sys2Proof.Machine
end

