-- ==== Sys2Proof/Laws/KeepsThermal.lean ====
section
/-! SUPPORT. What the operations of Machine/Thermal.lean keep. -/

namespace Sys2Proof.Machine

open Sys2Proof

variable {K : Nat} {s0 : State}

theorem countCycle_keeps (d : ℕ) (swing : ℤ) {s : State} (hK : K &&& 2097153 = 0) (h0 : Keeps K s0 s) :
    Keeps K s0 (countCycle d swing s) := by
  unfold countCycle
  repeat' first
    | with_reducible assumption
    | ((with_reducible refine keeps_sub hK ?_); rfl)
    | (intro x; first
      | (refine (?_ : Keeps K s0 x → _) ?_; on_goal 1 => (intro hx; clear_value x)
         on_goal 2 => unfold x)
      | clear_value x
      | skip)
    | fail_if_no_progress lift_lets
    | with_reducible first
      | apply setFij_keeps
      | apply modPwr_keeps
    | (with_reducible apply keeps_mk; case hr => rfl)
    | ((with_reducible refine keeps_no hK ?_ (by assumption)); rfl)
    | rfl
    | exact Nat.le_refl _
    | (simp; done)

theorem bootCycle_keeps (d : ℕ) (v : ℤ) {s : State} (hK : K &&& 2097153 = 0) (h0 : Keeps K s0 s) :
    Keeps K s0 (bootCycle d v s) := by
  unfold bootCycle
  repeat' first
    | with_reducible assumption
    | ((with_reducible refine keeps_sub hK ?_); rfl)
    | intro x
    | with_reducible first
      | apply keeps_ite
      | apply countCycle_keeps
    | split

theorem coolRunCheck_keeps  {s : State} (hK : K &&& 2103301 = 0) (h0 : Keeps K s0 s) :
    Keeps K s0 (coolRunCheck s) := by
  unfold coolRunCheck
  repeat' first
    | with_reducible assumption
    | ((with_reducible refine keeps_sub hK ?_); rfl)
    | (intro x; first
      | (refine (?_ : Keeps K s0 x → _) ?_; on_goal 1 => (intro hx; clear_value x)
         on_goal 2 => unfold x)
      | clear_value x
      | skip)
    | fail_if_no_progress lift_lets
    | with_reducible first
      | apply keeps_ite
      | apply setF_keeps
      | apply showLims_keeps
      | apply modPwr_keeps
      | apply record_keeps
    | split
    | (with_reducible apply keeps_mk; case hr => rfl)
    | ((with_reducible refine keeps_no hK ?_ (by assumption)); rfl)
    | rfl
    | exact Nat.le_refl _
    | (simp; done)

theorem cycleRead_keeps (d : ℕ) (v : ℤ) {s : State} (hK : K &&& 2097153 = 0) (h0 : Keeps K s0 s) :
    Keeps K s0 (cycleRead d v s) := by
  unfold cycleRead
  repeat' first
    | with_reducible assumption
    | ((with_reducible refine keeps_sub hK ?_); rfl)
    | (intro x; first
      | (refine (?_ : Keeps K s0 x → _) ?_; on_goal 1 => (intro hx; clear_value x)
         on_goal 2 => unfold x)
      | clear_value x
      | skip)
    | fail_if_no_progress lift_lets
    | with_reducible first
      | apply keeps_ite
      | apply modPwr_keeps
      | apply countCycle_keeps
    | split
    | (with_reducible apply keeps_mk; case hr => rfl)
    | ((with_reducible refine keeps_no hK ?_ (by assumption)); rfl)
    | rfl
    | exact Nat.le_refl _
    | (simp; done)

theorem setCool_keeps (st : ℕ) {s : State} (hK : K &&& 6149 = 0) (h0 : Keeps K s0 s) :
    Keeps K s0 (setCool st s) := by
  unfold setCool
  repeat' first
    | with_reducible assumption
    | ((with_reducible refine keeps_sub hK ?_); rfl)
    | (intro x; first
      | (refine (?_ : Keeps K s0 x → _) ?_; on_goal 1 => (intro hx; clear_value x)
         on_goal 2 => unfold x)
      | clear_value x
      | skip)
    | fail_if_no_progress lift_lets
    | with_reducible first
      | apply keeps_ite
      | apply showLims_keeps
      | apply setF_keeps
      | apply record_keeps
    | split

theorem rthRead_keeps (t : ℕ) {s : State} (hK : K &&& 2103301 = 0) (h0 : Keeps K s0 s) :
    Keeps K s0 (rthRead t s) := by
  unfold rthRead
  repeat' first
    | with_reducible assumption
    | ((with_reducible refine keeps_sub hK ?_); rfl)
    | (intro x; first
      | (refine (?_ : Keeps K s0 x → _) ?_; on_goal 1 => (intro hx; clear_value x)
         on_goal 2 => unfold x)
      | clear_value x
      | skip)
    | fail_if_no_progress lift_lets
    | with_reducible first
      | apply keeps_ite
      | apply modPwr_keeps
      | apply setF_keeps
      | apply record_keeps
    | split
    | (with_reducible apply keeps_mk; case hr => rfl)
    | ((with_reducible refine keeps_no hK ?_ (by assumption)); rfl)
    | rfl
    | exact Nat.le_refl _
    | (simp; done)

theorem execCoolantRead_keeps (r : Sys2Proof.TrayRead) (t : ℕ) {s : State} (hK : K &&& 2103301 = 0) (h0 : Keeps K s0 s) :
    KeepsX K s0 (execCoolantRead r t s) := by
  unfold execCoolantRead
  repeat' first
    | with_reducible assumption
    | ((with_reducible refine keeps_sub hK ?_); rfl)
    | (intro x; first
      | (refine (?_ : Keeps K s0 x → _) ?_; on_goal 1 => (intro hx; clear_value x)
         on_goal 2 => unfold x)
      | clear_value x
      | skip)
    | fail_if_no_progress lift_lets
    | with_reducible first
      | apply keeps_ite
      | apply keepsX_next
      | apply keepsX_ite
      | apply at_keeps
      | apply setF_keeps
      | apply modPwr_keeps
      | apply setCool_keeps
      | apply rthRead_keeps
    | split
    | (with_reducible apply keeps_mk; case hr => rfl)
    | ((with_reducible refine keeps_no hK ?_ (by assumption)); rfl)
    | rfl
    | exact Nat.le_refl _
    | (simp; done)

theorem execHourlyTimer_keeps  {s : State} (hK : K &&& 2103301 = 0) (h0 : Keeps K s0 s) :
    KeepsX K s0 (execHourlyTimer s) := by
  unfold execHourlyTimer
  repeat' first
    | with_reducible assumption
    | ((with_reducible refine keeps_sub hK ?_); rfl)
    | (intro x; first
      | (refine (?_ : Keeps K s0 x → _) ?_; on_goal 1 => (intro hx; clear_value x)
         on_goal 2 => unfold x)
      | clear_value x
      | skip)
    | fail_if_no_progress lift_lets
    | with_reducible first
      | apply keepsX_next
      | apply journal_keeps
      | apply modPwr_keeps
      | apply updLdg_keeps
      | apply wantFold_keeps
    | (with_reducible apply keeps_mk; case hr => rfl)
    | ((with_reducible refine keeps_no hK ?_ (by assumption)); rfl)
    | rfl
    | exact Nat.le_refl _
    | (simp; done)

theorem readTrip_keeps (j : ℕ) (lim : ℤ) (v : ℤ) {s : State} (hK : K &&& 2760037 = 0) (h0 : Keeps K s0 s) :
    Keeps K s0 (readTrip j lim v s) := by
  unfold readTrip
  repeat' first
    | with_reducible assumption
    | ((with_reducible refine keeps_sub hK ?_); rfl)
    | (intro x; first
      | (refine (?_ : Keeps K s0 x → _) ?_; on_goal 1 => (intro hx; clear_value x)
         on_goal 2 => unfold x)
      | clear_value x
      | skip)
    | fail_if_no_progress lift_lets
    | with_reducible first
      | apply keeps_ite
      | apply modPwr_keeps
      | apply trip_keeps
    | split
    | (with_reducible apply keeps_mk; case hr => rfl)
    | ((with_reducible refine keeps_no hK ?_ (by assumption)); rfl)
    | rfl
    | exact Nat.le_refl _
    | (simp; done)

theorem thermDown_keeps (n : ℕ) (t : ℕ) {s : State} (hK : K &&& 2097152 = 0) (h0 : Keeps K s0 s) :
    Keeps K s0 (thermDown n t s) := by
  unfold thermDown
  repeat' first
    | with_reducible assumption
    | ((with_reducible refine keeps_sub hK ?_); rfl)
    | (intro x; first
      | (refine (?_ : Keeps K s0 x → _) ?_; on_goal 1 => (intro hx; clear_value x)
         on_goal 2 => unfold x)
      | clear_value x
      | skip)
    | fail_if_no_progress lift_lets
    | with_reducible first
      | apply keeps_ite
      | apply modDiePwr_keeps
    | split
    | (with_reducible apply keeps_mk; case hr => rfl)
    | ((with_reducible refine keeps_no hK ?_ (by assumption)); rfl)
    | rfl
    | exact Nat.le_refl _
    | (simp; done)

theorem readSource_keeps (i : ℕ) (t : ℕ) (v : ℤ) {s : State} (hK : K &&& 2103301 = 0) (h0 : Keeps K s0 s) :
    Keeps K s0 (readSource i t v s) := by
  unfold readSource
  repeat' first
    | with_reducible assumption
    | ((with_reducible refine keeps_sub hK ?_); rfl)
    | (intro x; first
      | (refine (?_ : Keeps K s0 x → _) ?_; on_goal 1 => (intro hx; clear_value x)
         on_goal 2 => unfold x)
      | clear_value x
      | skip)
    | fail_if_no_progress lift_lets
    | with_reducible first
      | apply keeps_ite
      | apply keeps_foldl
      | apply modPwr_keeps
      | apply record_keeps
      | apply thermDown_keeps
    | split
    | (with_reducible apply keeps_mk; case hr => rfl)
    | ((with_reducible refine keeps_no hK ?_ (by assumption)); rfl)
    | rfl
    | exact Nat.le_refl _
    | (simp; done)

theorem execStackTempSample_keeps (temps : List ℤ) (t : ℕ) {s : State} (hK : K &&& 2760037 = 0) (h0 : Keeps K s0 s) :
    KeepsX K s0 (execStackTempSample temps t s) := by
  unfold execStackTempSample
  repeat' first
    | with_reducible assumption
    | ((with_reducible refine keeps_sub hK ?_); rfl)
    | intro x
    | with_reducible first
      | apply keeps_foldl
      | apply keepsX_next
      | apply readTrip_keeps
      | apply readSource_keeps
      | apply setFi_keeps
      | apply at_keeps

theorem execThermalStep_keeps (n : ℕ) (t : ℕ) {s : State} (hK : K &&& 2097156 = 0) (h0 : Keeps K s0 s) :
    KeepsX K s0 (execThermalStep n t s) := by
  unfold execThermalStep
  repeat' first
    | with_reducible assumption
    | ((with_reducible refine keeps_sub hK ?_); rfl)
    | (intro x; first
      | (refine (?_ : Keeps K s0 x → _) ?_; on_goal 1 => (intro hx; clear_value x)
         on_goal 2 => unfold x)
      | clear_value x
      | skip)
    | fail_if_no_progress lift_lets
    | with_reducible first
      | apply keeps_ite
      | apply keepsX_next
      | apply keepsX_ite
      | apply thermDown_keeps
      | apply at_keeps
      | apply modDiePwr_keeps
    | split
    | (with_reducible apply keeps_mk; case hr => rfl)
    | ((with_reducible refine keeps_no hK ?_ (by assumption)); rfl)
    | rfl
    | exact Nat.le_refl _
    | (simp; done)

theorem sampleDie_keeps (d : ℕ) (t : ℕ) (l : List ℤ) {s : State} (hK : K &&& 2760037 = 0) (h0 : Keeps K s0 s) :
    Keeps K s0 (sampleDie d t l s) := by
  unfold sampleDie
  repeat' first
    | with_reducible assumption
    | ((with_reducible refine keeps_sub hK ?_); rfl)
    | (intro x; first
      | (refine (?_ : Keeps K s0 x → _) ?_; on_goal 1 => (intro hx; clear_value x)
         on_goal 2 => unfold x)
      | clear_value x
      | skip)
    | fail_if_no_progress lift_lets
    | with_reducible first
      | apply keeps_ite
      | apply setFi_keeps
      | apply bootCycle_keeps
      | apply readTrip_keeps
      | apply readSource_keeps
      | apply cycleRead_keeps
    | split

theorem warmCheck_keeps (n : ℕ) {s : State} (hK : K &&& 2097473 = 0) (h0 : Keeps K s0 s) :
    Keeps K s0 (warmCheck n s) := by
  unfold warmCheck
  repeat' first
    | with_reducible assumption
    | ((with_reducible refine keeps_sub hK ?_); rfl)
    | (intro x; first
      | (refine (?_ : Keeps K s0 x → _) ?_; on_goal 1 => (intro hx; clear_value x)
         on_goal 2 => unfold x)
      | clear_value x
      | skip)
    | fail_if_no_progress lift_lets
    | with_reducible first
      | apply keeps_ite
      | apply warmStop_keeps
      | apply warmStart_keeps
    | split

theorem execTjSample_keeps (readings : List (List ℤ)) (stages : List ℤ) (t : ℕ) {s : State} (hK : K &&& 2760037 = 0) (h0 : Keeps K s0 s) :
    KeepsX K s0 (execTjSample readings stages t s) := by
  unfold execTjSample
  repeat' first
    | with_reducible assumption
    | ((with_reducible refine keeps_sub hK ?_); rfl)
    | (intro x; first
      | (refine (?_ : Keeps K s0 x → _) ?_; on_goal 1 => (intro hx; clear_value x)
         on_goal 2 => unfold x)
      | clear_value x
      | skip)
    | fail_if_no_progress lift_lets
    | with_reducible first
      | apply keeps_ite
      | apply keeps_foldl
      | apply keepsX_next
      | apply keepsX_ite
      | apply at_keeps
      | apply modPwr_keeps
      | apply sampleDie_keeps
      | apply readSource_keeps
      | apply warmCheck_keeps
    | split
    | (with_reducible apply keeps_mk; case hr => rfl)
    | ((with_reducible refine keeps_no hK ?_ (by assumption)); rfl)
    | rfl
    | exact Nat.le_refl _
    | (simp; done)

theorem headBoundary_keeps (n : ℕ) {s : State} (hK : K &&& 2097152 = 0) (h0 : Keeps K s0 s) :
    Keeps K s0 (headBoundary n s) := by
  unfold headBoundary
  repeat' first
    | with_reducible assumption
    | ((with_reducible refine keeps_sub hK ?_); rfl)
    | intro x
    | with_reducible apply modDiePwr_keeps
    | (with_reducible apply keeps_mk; case hr => rfl)
    | ((with_reducible refine keeps_no hK ?_ (by assumption)); rfl)
    | rfl
    | exact Nat.le_refl _
    | (simp; done)

theorem powerBoundary_keeps  {s : State} (hK : K &&& 2103301 = 0) (h0 : Keeps K s0 s) :
    Keeps K s0 (powerBoundary s) := by
  unfold powerBoundary
  repeat' first
    | with_reducible assumption
    | ((with_reducible refine keeps_sub hK ?_); rfl)
    | (intro x; first
      | (refine (?_ : Keeps K s0 x → _) ?_; on_goal 1 => (intro hx; clear_value x)
         on_goal 2 => unfold x)
      | clear_value x
      | skip)
    | fail_if_no_progress lift_lets
    | with_reducible first
      | apply keeps_ite
      | apply keeps_foldl
      | apply envBoundary_keeps
      | apply modPwr_keeps
      | apply showLims_keeps
      | apply record_keeps
      | apply bump_keeps
      | apply headBoundary_keeps
      | apply journalKeep_keeps
      | apply disableOut_keeps
    | split
    | (with_reducible apply keeps_mk; case hr => rfl)
    | ((with_reducible refine keeps_no hK ?_ (by assumption)); rfl)
    | rfl
    | exact Nat.le_refl _
    | (simp; done)

end Sys2Proof.Machine
end

