-- ==== Sys2Proof/Laws/KeepsDlk.lean ====
section
/-! SUPPORT. What the operations of Machine/Dlk.lean keep. -/

namespace Sys2Proof.Machine

open Sys2Proof

variable {K : Nat} {s0 : State}

theorem copyFails_keeps (c : ℕ) {s : State} (hK : K &&& 32769 = 0) (h0 : Keeps K s0 s) :
    Keeps K s0 (copyFails c s) := by
  unfold copyFails
  repeat' first
    | with_reducible assumption
    | ((with_reducible refine keeps_sub hK ?_); rfl)
    | intro x
    | with_reducible apply setFi_keeps
    | (with_reducible apply keeps_mk; case hr => rfl)
    | ((with_reducible refine keeps_no hK ?_ (by assumption)); rfl)
    | rfl
    | exact Nat.le_refl _
    | (simp; done)

theorem copyFenced_keeps (c : ℕ) {s : State} (hK : K &&& 38917 = 0) (h0 : Keeps K s0 s) :
    Keeps K s0 (copyFenced c s) := by
  unfold copyFenced
  repeat' first
    | with_reducible assumption
    | ((with_reducible refine keeps_sub hK ?_); rfl)
    | with_reducible first
      | apply record_keeps
      | apply copyFails_keeps

theorem discardArrive_keeps (k : ℕ) {s : State} (hK : K &&& 6149 = 0) (h0 : Keeps K s0 s) :
    Keeps K s0 (discardArrive k s) := by
  unfold discardArrive
  repeat' first
    | with_reducible assumption
    | ((with_reducible refine keeps_sub hK ?_); rfl)
    | with_reducible first
      | apply record_keeps
      | apply bumpI_keeps

theorem modDlk_keeps (f : Sys2Proof.Machine.Dlk → Sys2Proof.Machine.Dlk) {s : State} (hK : K &&& 32768 = 0) (h0 : Keeps K s0 s) :
    Keeps K s0 (modDlk f s) := by
  unfold modDlk
  repeat' first
    | with_reducible assumption
    | ((with_reducible refine keeps_sub hK ?_); rfl)
    | intro x
    | (with_reducible apply keeps_mk; case hr => rfl)
    | ((with_reducible refine keeps_no hK ?_ (by assumption)); rfl)
    | rfl
    | exact Nat.le_refl _
    | (simp; done)

theorem modDevLink_keeps (l : ℕ) (f : Sys2Proof.Machine.DevLink → Sys2Proof.Machine.DevLink) {s : State} (hK : K &&& 32768 = 0) (h0 : Keeps K s0 s) :
    Keeps K s0 (modDevLink l f s) := by
  unfold modDevLink
  repeat' first
    | with_reducible assumption
    | ((with_reducible refine keeps_sub hK ?_); rfl)
    | intro x
    | with_reducible apply modDlk_keeps
    | (with_reducible apply keeps_mk; case hr => rfl)
    | ((with_reducible refine keeps_no hK ?_ (by assumption)); rfl)
    | rfl
    | exact Nat.le_refl _
    | (simp; done)

theorem timeLost_keeps  {s : State} (hK : K &&& 88069 = 0) (h0 : Keeps K s0 s) :
    Keeps K s0 (timeLost s) := by
  unfold timeLost
  repeat' first
    | with_reducible assumption
    | ((with_reducible refine keeps_sub hK ?_); rfl)
    | with_reducible first
      | apply keeps_ite
      | apply syncHealth_keeps
      | apply record_keeps
      | apply setF_keeps
      | apply fixTime_keeps
    | split

theorem setMask128_keeps (r : Sys2Proof.Machine.Row) (v : ℕ) {s : State} (hK : K &&& 1 = 0) (h0 : Keeps K s0 s) :
    Keeps K s0 (setMask128 r v s) := by
  unfold setMask128
  repeat' first
    | with_reducible assumption
    | ((with_reducible refine keeps_sub hK ?_); rfl)
    | with_reducible apply setFi_keeps

theorem showReach_keeps  {s : State} (hK : K &&& 1 = 0) (h0 : Keeps K s0 s) :
    Keeps K s0 (showReach s) := by
  unfold showReach
  repeat' first
    | with_reducible assumption
    | ((with_reducible refine keeps_sub hK ?_); rfl)
    | intro x
    | with_reducible first
      | apply keeps_ite
      | apply keeps_foldl
      | apply setMask128_keeps
    | split

theorem dlDown_keeps (l : ℕ) {s : State} (hK : K &&& 120837 = 0) (h0 : Keeps K s0 s) :
    Keeps K s0 (dlDown l s) := by
  unfold dlDown
  repeat' first
    | with_reducible assumption
    | ((with_reducible refine keeps_sub hK ?_); rfl)
    | (intro x; first
      | (refine (?_ : Keeps K s0 x → _) ?_; on_goal 1 => (intro hx; clear_value x)
         on_goal 2 => unfold x)
      | clear_value x
      | skip)
    | fail_if_no_progress lift_lets
    | with_reducible first
      | apply setFi_keeps
      | apply setF_keeps
      | apply timeLost_keeps
      | apply showReach_keeps
      | apply modDlk_keeps
    | (with_reducible apply keeps_mk; case hr => rfl)
    | ((with_reducible refine keeps_no hK ?_ (by assumption)); rfl)
    | rfl
    | exact Nat.le_refl _
    | (simp; done)

theorem dlAccepted_keeps (l : ℕ) (f : Sys2Proof.Flit) {s : State} (hK : K &&& 120837 = 0) (h0 : Keeps K s0 s) :
    Keeps K s0 (dlAccepted l f s) := by
  unfold dlAccepted
  repeat' first
    | with_reducible assumption
    | ((with_reducible refine keeps_sub hK ?_); rfl)
    | (intro x; first
      | (refine (?_ : Keeps K s0 x → _) ?_; on_goal 1 => (intro hx; clear_value x)
         on_goal 2 => unfold x)
      | clear_value x
      | skip)
    | fail_if_no_progress lift_lets
    | with_reducible first
      | apply keeps_ite
      | apply keeps_foldl
      | apply modDevLink_keeps
      | apply emit_keeps
      | apply dlDown_keeps
      | apply record_keeps
    | split
    | (with_reducible apply keeps_mk; case hr => rfl)
    | ((with_reducible refine keeps_no hK ?_ (by assumption)); rfl)
    | rfl
    | exact Nat.le_refl _
    | (simp; done)

theorem dlSend_keeps (l : ℕ) (cls : ℕ) (ty : ℕ) (idle : Bool) (data : List Sys2Proof.DWord) {s : State} (hK : K &&& 32772 = 0) (h0 : Keeps K s0 s) :
    Keeps K s0 (dlSend l cls ty idle data s) := by
  unfold dlSend
  repeat' first
    | with_reducible assumption
    | ((with_reducible refine keeps_sub hK ?_); rfl)
    | (intro x; first
      | (refine (?_ : Keeps K s0 x → _) ?_; on_goal 1 => (intro hx; clear_value x)
         on_goal 2 => unfold x)
      | clear_value x
      | skip)
    | fail_if_no_progress lift_lets
    | with_reducible first
      | apply keeps_ite
      | apply modDevLink_keeps
      | apply emit_keeps
    | split
    | (with_reducible apply keeps_mk; case hr => rfl)
    | ((with_reducible refine keeps_no hK ?_ (by assumption)); rfl)
    | rfl
    | exact Nat.le_refl _
    | (simp; done)

theorem dlRejected_keeps (l : ℕ) {s : State} (hK : K &&& 120837 = 0) (h0 : Keeps K s0 s) :
    Keeps K s0 (dlRejected l s) := by
  unfold dlRejected
  repeat' first
    | with_reducible assumption
    | ((with_reducible refine keeps_sub hK ?_); rfl)
    | (intro x; first
      | (refine (?_ : Keeps K s0 x → _) ?_; on_goal 1 => (intro hx; clear_value x)
         on_goal 2 => unfold x)
      | clear_value x
      | skip)
    | fail_if_no_progress lift_lets
    | with_reducible first
      | apply keeps_ite
      | apply bumpI_keeps
      | apply modDevLink_keeps
      | apply dlDown_keeps
      | apply record_keeps
      | apply dlSend_keeps
    | split
    | (with_reducible apply keeps_mk; case hr => rfl)
    | ((with_reducible refine keeps_no hK ?_ (by assumption)); rfl)
    | rfl
    | exact Nat.le_refl _
    | (simp; done)

theorem dlTrained_keeps (l : ℕ) (w : ℕ) {s : State} (hK : K &&& 5 = 0) (h0 : Keeps K s0 s) :
    Keeps K s0 (dlTrained l w s) := by
  unfold dlTrained
  repeat' first
    | with_reducible assumption
    | ((with_reducible refine keeps_sub hK ?_); rfl)
    | (intro x; first
      | (refine (?_ : Keeps K s0 x → _) ?_; on_goal 1 => (intro hx; clear_value x)
         on_goal 2 => unfold x)
      | (refine (?_ : KeepsP K s0 x → _) ?_; on_goal 1 => (intro hx; clear_value x)
         on_goal 2 => unfold x)
      | clear_value x
      | skip)
    | fail_if_no_progress lift_lets
    | with_reducible first
      | apply drawFree_keeps
      | apply setFi_keeps
      | apply setF_keeps
      | exact keepsP_get (by assumption)
      | refine keepsP_eq ?_ (by assumption)
      | refine keepsP_get (p := drawFree _ _) ?_
    | with_reducible apply keepsP_mk

theorem dlTrain_keeps (l : ℕ) {s : State} (hK : K &&& 120837 = 0) (h0 : Keeps K s0 s) :
    Keeps K s0 (dlTrain l s) := by
  unfold dlTrain
  repeat' first
    | with_reducible assumption
    | ((with_reducible refine keeps_sub hK ?_); rfl)
    | (intro x; first
      | (refine (?_ : Keeps K s0 x → _) ?_; on_goal 1 => (intro hx; clear_value x)
         on_goal 2 => unfold x)
      | clear_value x
      | skip)
    | fail_if_no_progress lift_lets
    | with_reducible first
      | apply keeps_ite
      | apply dlTrained_keeps
      | apply record_keeps
      | apply dlDown_keeps
    | split

theorem dlkBoundary_keeps  {s : State} (hK : K &&& 32773 = 0) (h0 : Keeps K s0 s) :
    Keeps K s0 (dlkBoundary s) := by
  unfold dlkBoundary
  repeat' first
    | with_reducible assumption
    | ((with_reducible refine keeps_sub hK ?_); rfl)
    | (intro x; first
      | (refine (?_ : Keeps K s0 x → _) ?_; on_goal 1 => (intro hx; clear_value x)
         on_goal 2 => unfold x)
      | clear_value x
      | skip)
    | fail_if_no_progress lift_lets
    | with_reducible first
      | apply keeps_ite
      | apply keeps_foldl
      | apply setF_keeps
      | apply emit_keeps
      | apply modDlk_keeps
    | split
    | (with_reducible apply keeps_mk; case hr => rfl)
    | ((with_reducible refine keeps_no hK ?_ (by assumption)); rfl)
    | rfl
    | exact Nat.le_refl _
    | (simp; done)

theorem dlkCtlWritten_keeps  {s : State} (hK : K &&& 120837 = 0) (h0 : Keeps K s0 s) :
    Keeps K s0 (dlkCtlWritten s) := by
  unfold dlkCtlWritten
  repeat' first
    | with_reducible assumption
    | ((with_reducible refine keeps_sub hK ?_); rfl)
    | (intro x; first
      | (refine (?_ : Keeps K s0 x → _) ?_; on_goal 1 => (intro hx; clear_value x)
         on_goal 2 => unfold x)
      | clear_value x
      | skip)
    | fail_if_no_progress lift_lets
    | with_reducible first
      | apply keeps_ite
      | apply keeps_foldl
      | apply setF_keeps
      | apply dlTrain_keeps
    | split

theorem setShiftW_keeps (v : ℤ) {s : State} (hK : K &&& 1 = 0) (h0 : Keeps K s0 s) :
    Keeps K s0 (setShiftW v s) := by
  unfold setShiftW
  repeat' first
    | with_reducible assumption
    | ((with_reducible refine keeps_sub hK ?_); rfl)
    | with_reducible apply setF_keeps

theorem dropShift_keeps  {s : State} (hK : K &&& 32769 = 0) (h0 : Keeps K s0 s) :
    Keeps K s0 (dropShift s) := by
  unfold dropShift
  repeat' first
    | with_reducible assumption
    | ((with_reducible refine keeps_sub hK ?_); rfl)
    | (intro x; first
      | (refine (?_ : Keeps K s0 x → _) ?_; on_goal 1 => (intro hx; clear_value x)
         on_goal 2 => unfold x)
      | clear_value x
      | skip)
    | fail_if_no_progress lift_lets
    | with_reducible first
      | apply keeps_ite
      | apply setShiftW_keeps
      | apply modDlk_keeps
    | split
    | (with_reducible apply keeps_mk; case hr => rfl)
    | ((with_reducible refine keeps_no hK ?_ (by assumption)); rfl)
    | rfl
    | exact Nat.le_refl _
    | (simp; done)

theorem enumFail_keeps  {s : State} (hK : K &&& 6149 = 0) (h0 : Keeps K s0 s) :
    Keeps K s0 (enumFail s) := by
  unfold enumFail
  repeat' first
    | with_reducible assumption
    | ((with_reducible refine keeps_sub hK ?_); rfl)
    | with_reducible first
      | apply record_keeps
      | apply setF_keeps

theorem takeIndex_keeps (i : ℕ) (members : ℕ) (c : List Sys2Proof.Cable) {s : State} (hK : K &&& 120837 = 0) (h0 : Keeps K s0 s) :
    Keeps K s0 (takeIndex i members c s) := by
  unfold takeIndex
  repeat' first
    | with_reducible assumption
    | ((with_reducible refine keeps_sub hK ?_); rfl)
    | (intro x; first
      | (refine (?_ : Keeps K s0 x → _) ?_; on_goal 1 => (intro hx; clear_value x)
         on_goal 2 => unfold x)
      | clear_value x
      | skip)
    | fail_if_no_progress lift_lets
    | with_reducible first
      | apply keeps_ite
      | apply keeps_foldl
      | apply modDlk_keeps
      | apply setMask128_keeps
      | apply setF_keeps
      | apply dlDown_keeps
      | apply setFi_keeps
      | apply showReach_keeps
    | split
    | (with_reducible apply keeps_mk; case hr => rfl)
    | ((with_reducible refine keeps_no hK ?_ (by assumption)); rfl)
    | rfl
    | exact Nat.le_refl _
    | (simp; done)

theorem enumStart_keeps (c : List Sys2Proof.Cable) {s : State} (hK : K &&& 120837 = 0) (h0 : Keeps K s0 s) :
    Keeps K s0 (enumStart c s) := by
  unfold enumStart
  repeat' first
    | with_reducible assumption
    | ((with_reducible refine keeps_sub hK ?_); rfl)
    | (intro x; first
      | (refine (?_ : Keeps K s0 x → _) ?_; on_goal 1 => (intro hx; clear_value x)
         on_goal 2 => unfold x)
      | clear_value x
      | skip)
    | fail_if_no_progress lift_lets
    | with_reducible first
      | apply keeps_ite
      | apply keeps_foldl
      | apply modDlk_keeps
      | apply takeIndex_keeps
      | apply emit_keeps
    | split
    | (with_reducible apply keeps_mk; case hr => rfl)
    | ((with_reducible refine keeps_no hK ?_ (by assumption)); rfl)
    | rfl
    | exact Nat.le_refl _
    | (simp; done)

theorem fence_keeps (d : ℕ) {s : State} (hK : K &&& 38917 = 0) (h0 : Keeps K s0 s) :
    Keeps K s0 (fence d s) := by
  unfold fence
  repeat' first
    | with_reducible assumption
    | ((with_reducible refine keeps_sub hK ?_); rfl)
    | (intro x; first
      | (refine (?_ : Keeps K s0 x → _) ?_; on_goal 1 => (intro hx; clear_value x)
         on_goal 2 => unfold x)
      | clear_value x
      | skip)
    | fail_if_no_progress lift_lets
    | with_reducible first
      | apply keeps_ite
      | apply keeps_foldl
      | apply record_keeps
      | apply setMask128_keeps
      | apply emit_keeps
      | apply copyFenced_keeps
      | apply dropShift_keeps
    | split

theorem execDlkFence_keeps (d : ℕ) (down : List (ℕ × ℕ)) {s : State} (hK : K &&& 120837 = 0) (h0 : Keeps K s0 s) :
    KeepsX K s0 (execDlkFence d down s) := by
  unfold execDlkFence
  repeat' first
    | with_reducible assumption
    | ((with_reducible refine keeps_sub hK ?_); rfl)
    | (intro x; first
      | (refine (?_ : Keeps K s0 x → _) ?_; on_goal 1 => (intro hx; clear_value x)
         on_goal 2 => unfold x)
      | clear_value x
      | skip)
    | fail_if_no_progress lift_lets
    | with_reducible first
      | apply keeps_ite
      | apply keepsX_next
      | apply keepsX_ite
      | apply timeLost_keeps
      | apply showReach_keeps
      | apply modDlk_keeps
      | apply fence_keeps
    | split
    | (with_reducible apply keeps_mk; case hr => rfl)
    | ((with_reducible refine keeps_no hK ?_ (by assumption)); rfl)
    | rfl
    | exact Nat.le_refl _
    | (simp; done)

theorem execDlkFlitReceive_keeps (l : ℕ) (flit : Sys2Proof.Flit) (t : ℕ) {s : State} (hK : K &&& 120837 = 0) (h0 : Keeps K s0 s) :
    KeepsX K s0 (execDlkFlitReceive l flit t s) := by
  unfold execDlkFlitReceive
  repeat' first
    | with_reducible assumption
    | ((with_reducible refine keeps_sub hK ?_); rfl)
    | (intro x; first
      | (refine (?_ : Keeps K s0 x → _) ?_; on_goal 1 => (intro hx; clear_value x)
         on_goal 2 => unfold x)
      | clear_value x
      | skip)
    | fail_if_no_progress lift_lets
    | with_reducible first
      | apply keeps_ite
      | apply keepsX_next
      | apply keepsX_ite
      | apply at_keeps
      | apply dlRejected_keeps
      | apply dlAccepted_keeps
    | split

theorem execDlkIdleFlit_keeps (l : ℕ) (t : ℕ) {s : State} (hK : K &&& 32772 = 0) (h0 : Keeps K s0 s) :
    KeepsX K s0 (execDlkIdleFlit l t s) := by
  unfold execDlkIdleFlit
  repeat' first
    | with_reducible assumption
    | ((with_reducible refine keeps_sub hK ?_); rfl)
    | (intro x; first
      | (refine (?_ : Keeps K s0 x → _) ?_; on_goal 1 => (intro hx; clear_value x)
         on_goal 2 => unfold x)
      | clear_value x
      | skip)
    | fail_if_no_progress lift_lets
    | with_reducible first
      | apply keeps_ite
      | apply keepsX_next
      | apply keepsX_ite
      | apply at_keeps
      | apply dlSend_keeps
    | split

theorem execDlkRxTimeout_keeps (l : ℕ) {s : State} (hK : K &&& 120837 = 0) (h0 : Keeps K s0 s) :
    KeepsX K s0 (execDlkRxTimeout l s) := by
  unfold execDlkRxTimeout
  repeat' first
    | with_reducible assumption
    | ((with_reducible refine keeps_sub hK ?_); rfl)
    | with_reducible first
      | apply keeps_ite
      | apply keepsX_next
      | apply keepsX_ite
      | apply dlDown_keeps
      | apply record_keeps
    | split

theorem execDlkStatus_keeps (src : ℕ) (waitUs : ℕ) {s : State} (hK : K &&& 32768 = 0) (h0 : Keeps K s0 s) :
    KeepsX K s0 (execDlkStatus src waitUs s) := by
  unfold execDlkStatus
  repeat' first
    | with_reducible assumption
    | ((with_reducible refine keeps_sub hK ?_); rfl)
    | intro x
    | with_reducible first
      | apply keeps_ite
      | apply keepsX_next
      | apply keepsX_ite
      | apply modDlk_keeps
    | split
    | (with_reducible apply keeps_mk; case hr => rfl)
    | ((with_reducible refine keeps_no hK ?_ (by assumption)); rfl)
    | rfl
    | exact Nat.le_refl _
    | (simp; done)

theorem execEnumMessage_keeps (m : Sys2Proof.EnumMsg) {s : State} (hK : K &&& 120837 = 0) (h0 : Keeps K s0 s) :
    KeepsX K s0 (execEnumMessage m s) := by
  unfold execEnumMessage
  repeat' first
    | with_reducible assumption
    | ((with_reducible refine keeps_sub hK ?_); rfl)
    | (intro x; first
      | (refine (?_ : Keeps K s0 x → _) ?_; on_goal 1 => (intro hx; clear_value x)
         on_goal 2 => unfold x)
      | clear_value x
      | skip)
    | fail_if_no_progress lift_lets
    | with_reducible first
      | apply keeps_ite
      | apply keeps_foldl
      | apply keepsX_next
      | apply keepsX_ite
      | apply enumFail_keeps
      | apply emit_keeps
      | apply takeIndex_keeps
      | apply modDlk_keeps
      | apply dlDown_keeps
    | split
    | (with_reducible apply keeps_mk; case hr => rfl)
    | ((with_reducible refine keeps_no hK ?_ (by assumption)); rfl)
    | rfl
    | exact Nat.le_refl _
    | (simp; done)

theorem execEnumStart_keeps (by_ : Sys2Proof.Agent) (cables : List Sys2Proof.Cable) {s : State} (hK : K &&& 122853 = 0) (h0 : Keeps K s0 s) :
    KeepsX K s0 (execEnumStart by_ cables s) := by
  unfold execEnumStart
  repeat' first
    | with_reducible assumption
    | ((with_reducible refine keeps_sub hK ?_); rfl)
    | intro x
    | with_reducible first
      | apply keepsX_next
      | apply asMaster_keeps
      | apply enumStart_keeps

theorem execEnumTimeout_keeps  {s : State} (hK : K &&& 1 = 0) (h0 : Keeps K s0 s) :
    KeepsX K s0 (execEnumTimeout s) := by
  unfold execEnumTimeout
  repeat' first
    | with_reducible assumption
    | ((with_reducible refine keeps_sub hK ?_); rfl)
    | with_reducible first
      | apply keeps_ite
      | apply keepsX_next
      | apply keepsX_ite
      | apply setF_keeps
    | split

theorem execFenceNotice_keeps (src : ℕ) (_d : ℕ) {s : State} (hK : K &&& 32769 = 0) (h0 : Keeps K s0 s) :
    KeepsX K s0 (execFenceNotice src _d s) := by
  unfold execFenceNotice
  repeat' first
    | with_reducible assumption
    | ((with_reducible refine keeps_sub hK ?_); rfl)
    | with_reducible first
      | apply keeps_ite
      | apply keepsX_next
      | apply keepsX_ite
      | apply dropShift_keeps
    | split

theorem execRootRouteTimeout_keeps  {s : State} (hK : K &&& 32769 = 0) (h0 : Keeps K s0 s) :
    KeepsX K s0 (execRootRouteTimeout s) := by
  unfold execRootRouteTimeout
  repeat' first
    | with_reducible assumption
    | ((with_reducible refine keeps_sub hK ?_); rfl)
    | with_reducible first
      | apply keeps_ite
      | apply keepsX_next
      | apply keepsX_ite
      | apply dropShift_keeps
    | split

theorem execShiftCommit_keeps (delta : ℤ) (untilBoundary : ℕ) {s : State} (hK : K &&& 32773 = 0) (h0 : Keeps K s0 s) :
    KeepsX K s0 (execShiftCommit delta untilBoundary s) := by
  unfold execShiftCommit
  repeat' first
    | with_reducible assumption
    | ((with_reducible refine keeps_sub hK ?_); rfl)
    | (intro x; first
      | (refine (?_ : Keeps K s0 x → _) ?_; on_goal 1 => (intro hx; clear_value x)
         on_goal 2 => unfold x)
      | clear_value x
      | skip)
    | fail_if_no_progress lift_lets
    | with_reducible first
      | apply keeps_ite
      | apply keepsX_next
      | apply keepsX_ite
      | apply modDlk_keeps
      | apply emit_keeps
      | apply setShiftW_keeps
      | apply bump_keeps
    | split
    | (with_reducible apply keeps_mk; case hr => rfl)
    | ((with_reducible refine keeps_no hK ?_ (by assumption)); rfl)
    | rfl
    | exact Nat.le_refl _
    | (simp; done)

theorem execShiftExchange_keeps  {s : State} (hK : K &&& 32772 = 0) (h0 : Keeps K s0 s) :
    KeepsX K s0 (execShiftExchange s) := by
  unfold execShiftExchange
  repeat' first
    | with_reducible assumption
    | ((with_reducible refine keeps_sub hK ?_); rfl)
    | (intro x; first
      | (refine (?_ : Keeps K s0 x → _) ?_; on_goal 1 => (intro hx; clear_value x)
         on_goal 2 => unfold x)
      | clear_value x
      | skip)
    | fail_if_no_progress lift_lets
    | with_reducible first
      | apply keeps_ite
      | apply keepsX_next
      | apply keepsX_ite
      | apply modDlk_keeps
      | apply emit_keeps
    | split
    | (with_reducible apply keeps_mk; case hr => rfl)
    | ((with_reducible refine keeps_no hK ?_ (by assumption)); rfl)
    | rfl
    | exact Nat.le_refl _
    | (simp; done)

theorem execShiftPropose_keeps (step : ℕ) {s : State} (hK : K &&& 2103301 = 0) (h0 : Keeps K s0 s) :
    KeepsX K s0 (execShiftPropose step s) := by
  unfold execShiftPropose
  repeat' first
    | with_reducible assumption
    | ((with_reducible refine keeps_sub hK ?_); rfl)
    | (intro x; first
      | (refine (?_ : Keeps K s0 x → _) ?_; on_goal 1 => (intro hx; clear_value x)
         on_goal 2 => unfold x)
      | clear_value x
      | skip)
    | fail_if_no_progress lift_lets
    | with_reducible first
      | apply keeps_ite
      | apply keepsX_next
      | apply keepsX_ite
      | apply modPwr_keeps
      | apply emit_keeps
      | apply record_keeps
    | split
    | (with_reducible apply keeps_mk; case hr => rfl)
    | ((with_reducible refine keeps_no hK ?_ (by assumption)); rfl)
    | rfl
    | exact Nat.le_refl _
    | (simp; done)

theorem execTimeFlit_keeps (rootTime : ℤ) (delay : ℕ) (t : ℕ) {s : State} (hK : K &&& 16389 = 0) (h0 : Keeps K s0 s) :
    KeepsX K s0 (execTimeFlit rootTime delay t s) := by
  unfold execTimeFlit
  repeat' first
    | with_reducible assumption
    | ((with_reducible refine keeps_sub hK ?_); rfl)
    | (intro x; first
      | (refine (?_ : Keeps K s0 x → _) ?_; on_goal 1 => (intro hx; clear_value x)
         on_goal 2 => unfold x)
      | clear_value x
      | skip)
    | fail_if_no_progress lift_lets
    | with_reducible first
      | apply keeps_ite
      | apply keepsX_next
      | apply keepsX_ite
      | apply at_keeps
      | apply fixTime_keeps
      | apply setF_keeps
      | apply modEth_keeps
    | split
    | (with_reducible apply keeps_mk; case hr => rfl)
    | ((with_reducible refine keeps_no hK ?_ (by assumption)); rfl)
    | rfl
    | exact Nat.le_refl _
    | (simp; done)

theorem writeXb_keeps (k : ℕ) (off : ℕ) (v : ℕ) {s : State} (hK : K &&& 6149 = 0) (h0 : Keeps K s0 s) :
    Keeps K s0 (writeXb k off v s) := by
  unfold writeXb
  repeat' first
    | with_reducible assumption
    | ((with_reducible refine keeps_sub hK ?_); rfl)
    | (intro x; first
      | (refine (?_ : Keeps K s0 x → _) ?_; on_goal 1 => (intro hx; clear_value x)
         on_goal 2 => unfold x)
      | clear_value x
      | skip)
    | fail_if_no_progress lift_lets
    | with_reducible first
      | apply keeps_ite
      | apply keeps_foldl
      | apply record_keeps
      | apply setW_keeps
    | split

theorem execXbConfigWrite_keeps (by_ : Sys2Proof.Agent) (k : ℕ) (off : ℕ) (v : Sys2Proof.Word) {s : State} (hK : K &&& 8165 = 0) (h0 : Keeps K s0 s) :
    KeepsX K s0 (execXbConfigWrite by_ k off v s) := by
  unfold execXbConfigWrite
  repeat' first
    | with_reducible assumption
    | ((with_reducible refine keeps_sub hK ?_); rfl)
    | (intro x; first
      | (refine (?_ : Keeps K s0 x → _) ?_; on_goal 1 => (intro hx; clear_value x)
         on_goal 2 => unfold x)
      | (refine (?_ : KeepsP K s0 x → _) ?_; on_goal 1 => (intro hx; clear_value x)
         on_goal 2 => unfold x)
      | (refine (?_ : KeepsT K s0 x → _) ?_; on_goal 1 => (intro hx; clear_value x)
         on_goal 2 => unfold x)
      | clear_value x
      | skip)
    | fail_if_no_progress lift_lets
    | with_reducible first
      | apply keeps_ite
      | apply keeps_foldl
      | apply keeps_id
      | apply keepsX_next
      | apply keepsX_ite
      | apply asMaster_keeps
      | apply underLock_keeps
      | apply writeXb_keeps
    | split
    | (with_reducible apply keeps_mk; case hr => rfl)
    | ((with_reducible refine keeps_no hK ?_ (by assumption)); rfl)
    | rfl
    | exact Nat.le_refl _
    | (simp; done)

theorem execXbarArrive_keeps (a : Sys2Proof.Arrive) {s : State} (hK : K &&& 38917 = 0) (h0 : Keeps K s0 s) :
    KeepsX K s0 (execXbarArrive a s) := by
  unfold execXbarArrive
  repeat' first
    | with_reducible assumption
    | ((with_reducible refine keeps_sub hK ?_); rfl)
    | (intro x; first
      | (refine (?_ : Keeps K s0 x → _) ?_; on_goal 1 => (intro hx; clear_value x)
         on_goal 2 => unfold x)
      | clear_value x
      | skip)
    | fail_if_no_progress lift_lets
    | with_reducible first
      | apply keeps_ite
      | apply keepsX_next
      | apply keepsX_ite
      | apply discardArrive_keeps
      | apply modDlk_keeps
    | split
    | (with_reducible apply keeps_mk; case hr => rfl)
    | ((with_reducible refine keeps_no hK ?_ (by assumption)); rfl)
    | rfl
    | exact Nat.le_refl _
    | (simp; done)

theorem execXbarRelease_keeps (k : ℕ) (t : ℕ) {s : State} (hK : K &&& 2136421 = 0) (h0 : Keeps K s0 s) :
    KeepsX K s0 (execXbarRelease k t s) := by
  unfold execXbarRelease
  repeat' first
    | with_reducible assumption
    | ((with_reducible refine keeps_sub hK ?_); rfl)
    | (intro x; first
      | (refine (?_ : Keeps K s0 x → _) ?_; on_goal 1 => (intro hx; clear_value x)
         on_goal 2 => unfold x)
      | clear_value x
      | skip)
    | fail_if_no_progress lift_lets
    | with_reducible first
      | apply keeps_ite
      | apply keepsX_next
      | apply keepsX_ite
      | apply at_keeps
      | apply bumpI_keeps
      | apply modDlk_keeps
      | apply gateDone_keeps
      | apply releaseGroup_keeps
    | split
    | (with_reducible apply keeps_mk; case hr => rfl)
    | ((with_reducible refine keeps_no hK ?_ (by assumption)); rfl)
    | rfl
    | exact Nat.le_refl _
    | (simp; done)

end Sys2Proof.Machine
end

