-- ==== Sys2Proof/Laws/KeepsBoot.lean ====
section
/-! SUPPORT. What the operations of Machine/Boot.lean keep. -/

namespace Sys2Proof.Machine

open Sys2Proof

variable {K : Nat} {s0 : State}

theorem startSlots_keeps (n : ℕ) (ok : ℕ) {s : State} (hK : K &&& 6149 = 0) (h0 : Keeps K s0 s) :
    Keeps K s0 (startSlots n ok s) := by
  unfold startSlots
  repeat' first
    | with_reducible assumption
    | ((with_reducible refine keeps_sub hK ?_); rfl)
    | intro x
    | with_reducible first
      | apply keeps_ite
      | apply keeps_foldl
      | apply setF_keeps
      | apply markBad_keeps
    | split

theorem censusDie_keeps (sparesOk : List ℕ) (n : ℕ) {s : State} (hK : K &&& 6149 = 0) (h0 : Keeps K s0 s) :
    Keeps K s0 (censusDie sparesOk s n) := by
  unfold censusDie
  repeat' first
    | with_reducible assumption
    | ((with_reducible refine keeps_sub hK ?_); rfl)
    | (intro x; first
      | (refine (?_ : Keeps K s0 x → _) ?_; on_goal 1 => (intro hx; clear_value x)
         on_goal 2 => unfold x)
      | clear_value x
      | skip)
    | fail_if_no_progress lift_lets
    | with_reducible first
      | apply keeps_ite
      | apply setF_keeps
      | apply startSlots_keeps
      | apply record_keeps
    | split

theorem censusIsland_keeps (i : ℕ) {s : State} (hK : K &&& 6149 = 0) (h0 : Keeps K s0 s) :
    Keeps K s0 (censusIsland s i) := by
  unfold censusIsland
  repeat' first
    | with_reducible assumption
    | ((with_reducible refine keeps_sub hK ?_); rfl)
    | (intro x; first
      | (refine (?_ : Keeps K s0 x → _) ?_; on_goal 1 => (intro hx; clear_value x)
         on_goal 2 => unfold x)
      | clear_value x
      | skip)
    | fail_if_no_progress lift_lets
    | with_reducible first
      | apply keeps_ite
      | apply setF_keeps
      | apply record_keeps
    | split

theorem chooseSlot_keeps (slots : List (Option Sys2Proof.Image)) {s : State} (hK : K &&& 6149 = 0) (h0 : Keeps K s0 s) :
    KeepsP K s0 (chooseSlot slots s) := by
  unfold chooseSlot
  repeat' first
    | with_reducible assumption
    | ((with_reducible refine keeps_sub hK ?_); rfl)
    | (intro x; first
      | (refine (?_ : Keeps K s0 x → _) ?_; on_goal 1 => (intro hx; clear_value x)
         on_goal 2 => unfold x)
      | (refine (?_ : KeepsP K s0 x → _) ?_; on_goal 1 => (intro hx; clear_value x)
         on_goal 2 => unfold x)
      | clear_value x
      | skip)
    | fail_if_no_progress lift_lets
    | with_reducible first
      | apply keeps_ite
      | apply keepsP_ite
      | apply record_keeps
      | apply commitBoot_keeps
      | apply refused70_keeps
      | exact keepsP_get (by assumption)
      | refine keepsP_eq ?_ (by assumption)
    | split
    | with_reducible apply keepsP_mk

theorem newLifecycle_keeps  {s : State} (hK : K &&& 1 = 0) (h0 : Keeps K s0 s) :
    Keeps K s0 (newLifecycle s) := by
  unfold newLifecycle
  repeat' first
    | with_reducible assumption
    | ((with_reducible refine keeps_sub hK ?_); rfl)
    | (intro x; first
      | (refine (?_ : Keeps K s0 x → _) ?_; on_goal 1 => (intro hx; clear_value x)
         on_goal 2 => unfold x)
      | clear_value x
      | skip)
    | fail_if_no_progress lift_lets
    | with_reducible first
      | apply keeps_ite
      | apply setF_keeps
    | split

theorem resetOutputs_keeps  {s : State} (hK : K &&& 4 = 0) (h0 : Keeps K s0 s) :
    Keeps K s0 (resetOutputs s) := by
  unfold resetOutputs
  repeat' first
    | with_reducible assumption
    | ((with_reducible refine keeps_sub hK ?_); rfl)
    | (intro x; first
      | (refine (?_ : Keeps K s0 x → _) ?_; on_goal 1 => (intro hx; clear_value x)
         on_goal 2 => unfold x)
      | clear_value x
      | skip)
    | fail_if_no_progress lift_lets
    | with_reducible first
      | apply keeps_ite
      | apply keeps_foldl
      | apply emit_keeps
    | split

theorem restoreWords_keeps (l : List ℕ) {s : State} (hK : K &&& 1 = 0) (h0 : Keeps K s0 s) :
    Keeps K s0 (restoreWords l s) := by
  unfold restoreWords
  repeat' first
    | with_reducible assumption
    | ((with_reducible refine keeps_sub hK ?_); rfl)
    | intro x
    | with_reducible first
      | apply keeps_foldl
      | apply setW_keeps
    | split

theorem resetWords_keeps (sel : Sys2Proof.Page → Bool) {s : State} (hK : K &&& 1 = 0) (h0 : Keeps K s0 s) :
    Keeps K s0 (resetWords sel s) := by
  unfold resetWords
  repeat' first
    | with_reducible assumption
    | ((with_reducible refine keeps_sub hK ?_); rfl)
    | intro x
    | with_reducible first
      | apply keeps_ite
      | apply keeps_foldl
      | apply setW_keeps
    | split

theorem coldState_keeps (porst : Bool) (ka : Bool) {s : State} (hK : K &&& 16777213 = 0) (h0 : Keeps K s0 s) :
    Keeps K s0 (coldState porst ka s) := by
  have k1 : Keeps K s0 (restoreWords (calibWords ++ lostWords ka s) (resetWords (fun _ => true) s)) :=
    restoreWords_keeps _ (keeps_sub hK rfl) (resetWords_keeps _ (keeps_sub hK rfl) h0)
  unfold coldState
  generalize restoreWords (calibWords ++ lostWords ka s) (resetWords (fun _ => true) s) = t at k1
  refine ⟨h0.queue, fun w => ?_, h0.now, h0.fresh,
    fun p b => Piece.same_trans (h0.frame p b) (by cases p <;> first | exact keeps_no hK rfl b | rfl)⟩
  have m := (wf_iff s).1 (h0.wf w)
  have r := (wf_iff t).1 (k1.wf w)
  rw [wf_iff]
  exact ⟨⟨m.1.1, r.1.2.1, rfl⟩, rfl, rfl, rfl, rfl, rfl⟩

theorem setCause_keeps (i : ℕ) {s : State} (hK : K &&& 1 = 0) (h0 : Keeps K s0 s) :
    Keeps K s0 (setCause i s) := by
  unfold setCause
  repeat' first
    | with_reducible assumption
    | ((with_reducible refine keeps_sub hK ?_); rfl)
    | (intro x; first
      | (refine (?_ : Keeps K s0 x → _) ?_; on_goal 1 => (intro hx; clear_value x)
         on_goal 2 => unfold x)
      | clear_value x
      | skip)
    | fail_if_no_progress lift_lets
    | with_reducible apply setW_keeps

theorem coldReset_keeps (cause : ℕ) (porst : Bool) (ka : Bool) {s : State} (hK : K &&& 16777213 = 0) (h0 : Keeps K s0 s) :
    Keeps K s0 (coldReset cause porst ka s) := by
  unfold coldReset
  repeat' first
    | with_reducible assumption
    | ((with_reducible refine keeps_sub hK ?_); rfl)
    | (intro x; first
      | (refine (?_ : Keeps K s0 x → _) ?_; on_goal 1 => (intro hx; clear_value x)
         on_goal 2 => unfold x)
      | clear_value x
      | skip)
    | fail_if_no_progress lift_lets
    | with_reducible first
      | apply keeps_ite
      | apply newLifecycle_keeps
      | apply resetOutputs_keeps
      | apply coldState_keeps
      | apply setW_keeps
      | apply setCause_keeps
      | apply showQueue_keeps
      | apply showLive_keeps
      | apply setF_keeps
    | split

theorem dmaReset_keeps  {s : State} (hK : K &&& 2049 = 0) (h0 : Keeps K s0 s) :
    Keeps K s0 (dmaReset s) := by
  unfold dmaReset
  repeat' first
    | with_reducible assumption
    | ((with_reducible refine keeps_sub hK ?_); rfl)
    | (intro x; first
      | (refine (?_ : Keeps K s0 x → _) ?_; on_goal 1 => (intro hx; clear_value x)
         on_goal 2 => unfold x)
      | clear_value x
      | skip)
    | fail_if_no_progress lift_lets
    | with_reducible first
      | apply keeps_foldl
      | apply setW_keeps
    | (with_reducible apply keeps_mk; case hr => rfl)
    | ((with_reducible refine keeps_no hK ?_ (by assumption)); rfl)
    | rfl
    | exact Nat.le_refl _
    | (simp; done)

theorem modBoot_keeps (f : Sys2Proof.Machine.Boot → Sys2Proof.Machine.Boot) {s : State} (hK : K &&& 4194304 = 0) (h0 : Keeps K s0 s) :
    Keeps K s0 (modBoot f s) := by
  unfold modBoot
  repeat' first
    | with_reducible assumption
    | ((with_reducible refine keeps_sub hK ?_); rfl)
    | intro x
    | (with_reducible apply keeps_mk; case hr => rfl)
    | ((with_reducible refine keeps_no hK ?_ (by assumption)); rfl)
    | rfl
    | exact Nat.le_refl _
    | (simp; done)

theorem setStage_keeps (n : ℕ) {s : State} (hK : K &&& 1 = 0) (h0 : Keeps K s0 s) :
    Keeps K s0 (setStage n s) := by
  unfold setStage
  repeat' first
    | with_reducible assumption
    | ((with_reducible refine keeps_sub hK ?_); rfl)
    | with_reducible apply setF_keeps

theorem execBootRom_keeps  {s : State} (hK : K &&& 4200453 = 0) (h0 : Keeps K s0 s) :
    KeepsX K s0 (execBootRom s) := by
  unfold execBootRom
  repeat' first
    | with_reducible assumption
    | ((with_reducible refine keeps_sub hK ?_); rfl)
    | (intro x; first
      | (refine (?_ : Keeps K s0 x → _) ?_; on_goal 1 => (intro hx; clear_value x)
         on_goal 2 => unfold x)
      | clear_value x
      | skip)
    | fail_if_no_progress lift_lets
    | with_reducible first
      | apply keeps_ite
      | apply keeps_foldl
      | apply keepsX_next
      | apply keepsX_ite
      | apply setFi_keeps
      | apply setF_keeps
      | apply record_keeps
      | apply modBoot_keeps
      | apply setStage_keeps
    | split
    | (with_reducible apply keeps_mk; case hr => rfl)
    | ((with_reducible refine keeps_no hK ?_ (by assumption)); rfl)
    | rfl
    | exact Nat.le_refl _
    | (simp; done)

theorem stackDead_keeps (n : ℕ) {s : State} (hK : K &&& 6149 = 0) (h0 : Keeps K s0 s) :
    Keeps K s0 (stackDead n s) := by
  unfold stackDead
  repeat' first
    | with_reducible assumption
    | ((with_reducible refine keeps_sub hK ?_); rfl)
    | with_reducible first
      | apply record_keeps
      | apply setF_keeps

theorem restoreTable_keeps (n : ℕ) {s : State} (hK : K &&& 6149 = 0) (h0 : Keeps K s0 s) :
    Keeps K s0 (restoreTable n s) := by
  unfold restoreTable
  repeat' first
    | with_reducible assumption
    | ((with_reducible refine keeps_sub hK ?_); rfl)
    | (intro x; first
      | (refine (?_ : Keeps K s0 x → _) ?_; on_goal 1 => (intro hx; clear_value x)
         on_goal 2 => unfold x)
      | clear_value x
      | skip)
    | fail_if_no_progress lift_lets
    | with_reducible first
      | apply keeps_ite
      | apply keeps_foldl
      | apply setFij_keeps
      | apply record_keeps
      | apply setFi_keeps
      | apply commit_keeps
    | split
    | (with_reducible apply keeps_mk; case hr => rfl)
    | ((with_reducible refine keeps_no hK ?_ (by assumption)); rfl)
    | rfl
    | exact Nat.le_refl _
    | (simp; done)

theorem execCensusStage_keeps (stacksOk : ℕ) (sparesOk : List ℕ) (vtOk : ℕ) {s : State} (hK : K &&& 4200453 = 0) (h0 : Keeps K s0 s) :
    KeepsX K s0 (execCensusStage stacksOk sparesOk vtOk s) := by
  unfold execCensusStage
  repeat' first
    | with_reducible assumption
    | ((with_reducible refine keeps_sub hK ?_); rfl)
    | (intro x; first
      | (refine (?_ : Keeps K s0 x → _) ?_; on_goal 1 => (intro hx; clear_value x)
         on_goal 2 => unfold x)
      | clear_value x
      | skip)
    | fail_if_no_progress lift_lets
    | with_reducible first
      | apply keeps_ite
      | apply keeps_foldl
      | apply keepsX_next
      | apply keepsX_ite
      | apply bootStop_keeps
      | apply stackDead_keeps
      | apply restoreTable_keeps
      | apply censusDie_keeps
      | apply censusIsland_keeps
      | apply setStage_keeps
      | apply modBoot_keeps
    | split
    | (with_reducible apply keeps_mk; case hr => rfl)
    | ((with_reducible refine keeps_no hK ?_ (by assumption)); rfl)
    | rfl
    | exact Nat.le_refl _
    | (simp; done)

theorem execHandoff_keeps (ms : ℕ) {s : State} (hK : K &&& 5 = 0) (h0 : Keeps K s0 s) :
    KeepsX K s0 (execHandoff ms s) := by
  unfold execHandoff
  repeat' first
    | with_reducible assumption
    | ((with_reducible refine keeps_sub hK ?_); rfl)
    | (intro x; first
      | (refine (?_ : Keeps K s0 x → _) ?_; on_goal 1 => (intro hx; clear_value x)
         on_goal 2 => unfold x)
      | clear_value x
      | skip)
    | fail_if_no_progress lift_lets
    | with_reducible first
      | apply keeps_ite
      | apply keepsX_next
      | apply keepsX_ite
      | apply showLims_keeps
      | apply setF_keeps
      | apply setStage_keeps
      | apply emit_keeps
    | split

theorem warmState_keeps  {s : State} (hK : K &&& 462836 = 0) (h0 : Keeps K s0 s) :
    Keeps K s0 (warmState s) := by
  exact ⟨h0.queue, fun w => by
    have m := (wf_iff s).1 (h0.wf w)
    exact (wf_iff _).2 ⟨⟨m.1.1, m.1.2.1, rfl⟩, rfl, rfl, rfl, m.2.2.2.2⟩, h0.now, h0.fresh,
    fun p b => Piece.same_trans (h0.frame p b) (by cases p <;> first | exact keeps_no hK rfl b | rfl)⟩

theorem warmReset_keeps (cause : ℕ) {s : State} (hK : K &&& 4657141 = 0) (h0 : Keeps K s0 s) :
    Keeps K s0 (warmReset cause s) := by
  unfold warmReset
  repeat' first
    | with_reducible assumption
    | ((with_reducible refine keeps_sub hK ?_); rfl)
    | (intro x; first
      | (refine (?_ : Keeps K s0 x → _) ?_; on_goal 1 => (intro hx; clear_value x)
         on_goal 2 => unfold x)
      | clear_value x
      | skip)
    | fail_if_no_progress lift_lets
    | with_reducible first
      | apply keeps_ite
      | apply keeps_foldl
      | apply emit_keeps
      | apply resetWords_keeps
      | apply restoreWords_keeps
      | apply warmState_keeps
      | apply setF_keeps
      | apply dmaReset_keeps
      | apply modBoot_keeps
      | apply setCause_keeps
      | apply setStage_keeps
    | split
    | (with_reducible apply keeps_mk; case hr => rfl)
    | ((with_reducible refine keeps_no hK ?_ (by assumption)); rfl)
    | rfl
    | exact Nat.le_refl _
    | (simp; done)

theorem execHubWatchdogExpire_keeps (t : ℕ) {s : State} (hK : K &&& 4657141 = 0) (h0 : Keeps K s0 s) :
    KeepsX K s0 (execHubWatchdogExpire t s) := by
  unfold execHubWatchdogExpire
  repeat' first
    | with_reducible assumption
    | ((with_reducible refine keeps_sub hK ?_); rfl)
    | (intro x; first
      | (refine (?_ : Keeps K s0 x → _) ?_; on_goal 1 => (intro hx; clear_value x)
         on_goal 2 => unfold x)
      | clear_value x
      | skip)
    | fail_if_no_progress lift_lets
    | with_reducible first
      | apply keeps_ite
      | apply keepsX_next
      | apply keepsX_ite
      | apply at_keeps
      | apply warmReset_keeps
    | split

theorem loadImage_keeps (slot : ℕ) (fallback : Bool) (i : Sys2Proof.Image) {s : State} (hK : K &&& 4194307 = 0) (h0 : Keeps K s0 s) :
    Keeps K s0 (loadImage slot fallback i s) := by
  unfold loadImage
  repeat' first
    | with_reducible assumption
    | ((with_reducible refine keeps_sub hK ?_); rfl)
    | (intro x; first
      | (refine (?_ : Keeps K s0 x → _) ?_; on_goal 1 => (intro hx; clear_value x)
         on_goal 2 => unfold x)
      | clear_value x
      | skip)
    | fail_if_no_progress lift_lets
    | with_reducible first
      | apply keeps_ite
      | apply keeps_foldl
      | apply memWrite_keeps
      | apply setFi_keeps
      | apply setF_keeps
      | apply modBoot_keeps
    | split
    | (with_reducible apply keeps_mk; case hr => rfl)
    | ((with_reducible refine keeps_no hK ?_ (by assumption)); rfl)
    | rfl
    | exact Nat.le_refl _
    | (simp; done)

theorem tryImage_keeps (slot : ℕ) (fallback : Bool) (o : Option Sys2Proof.Image) {s : State} (hK : K &&& 4194307 = 0) (h0 : Keeps K s0 s) :
    KeepsO K s0 (tryImage slot fallback o s) := by
  unfold tryImage
  repeat' first
    | with_reducible assumption
    | ((with_reducible refine keeps_sub hK ?_); rfl)
    | intro x
    | with_reducible first
      | apply keeps_ite
      | apply keepsO_ite
      | apply keepsO_some
      | apply loadImage_keeps
      | exact keepsO_none
    | split

theorem execImageLoad_keeps (slots : List (Option Sys2Proof.Image)) {s : State} (hK : K &&& 4200455 = 0) (h0 : Keeps K s0 s) :
    KeepsX K s0 (execImageLoad slots s) := by
  unfold execImageLoad
  repeat' first
    | with_reducible assumption
    | ((with_reducible refine keeps_sub hK ?_); rfl)
    | (intro x; first
      | (refine (?_ : Keeps K s0 x → _) ?_; on_goal 1 => (intro hx; clear_value x)
         on_goal 2 => unfold x)
      | (refine (?_ : KeepsP K s0 x → _) ?_; on_goal 1 => (intro hx; clear_value x)
         on_goal 2 => unfold x)
      | (refine (?_ : KeepsT K s0 x → _) ?_; on_goal 1 => (intro hx; clear_value x)
         on_goal 2 => unfold x)
      | clear_value x
      | skip)
    | fail_if_no_progress lift_lets
    | with_reducible first
      | apply keeps_ite
      | apply keeps_foldl
      | apply keeps_id
      | apply keepsO_ite
      | apply keepsO_some
      | apply keepsP_ite
      | apply keepsP_foldl
      | apply keepsX_next
      | apply keepsX_ite
      | apply chooseSlot_keeps
      | apply tryImage_keeps
      | apply record_keeps
      | apply bootStop_keeps
      | exact keepsP_get (by assumption)
      | refine keepsP_eq ?_ (by assumption)
      | refine keepsP_get (p := chooseSlot _ _) ?_
      | refine keepsO_get ?_ (by assumption)
    | split
    | with_reducible apply keepsP_mk
    | (with_reducible apply keeps_mk; case hr => rfl)
    | ((with_reducible refine keeps_no hK ?_ (by assumption)); rfl)
    | rfl
    | exact Nat.le_refl _
    | (simp; done)

theorem execIslandResetPin_keeps (i : ℕ) {s : State} (hK : K &&& 1048581 = 0) (h0 : Keeps K s0 s) :
    KeepsX K s0 (execIslandResetPin i s) := by
  unfold execIslandResetPin
  repeat' first
    | with_reducible assumption
    | ((with_reducible refine keeps_sub hK ?_); rfl)
    | with_reducible first
      | apply keeps_ite
      | apply keepsX_next
      | apply keepsX_ite
      | apply islandReset_keeps
    | split

theorem execKaPowerOn_keeps  {s : State} (hK : K &&& 16777213 = 0) (h0 : Keeps K s0 s) :
    KeepsX K s0 (execKaPowerOn s) := by
  unfold execKaPowerOn
  repeat' first
    | with_reducible assumption
    | ((with_reducible refine keeps_sub hK ?_); rfl)
    | with_reducible first
      | apply keepsX_next
      | apply coldReset_keeps

theorem revokeKey_keeps (k : ℕ) {s : State} (hK : K &&& 6149 = 0) (h0 : Keeps K s0 s) :
    Keeps K s0 (revokeKey k s) := by
  unfold revokeKey
  repeat' first
    | with_reducible assumption
    | ((with_reducible refine keeps_sub hK ?_); rfl)
    | (intro x; first
      | (refine (?_ : Keeps K s0 x → _) ?_; on_goal 1 => (intro hx; clear_value x)
         on_goal 2 => unfold x)
      | clear_value x
      | skip)
    | fail_if_no_progress lift_lets
    | with_reducible first
      | apply keeps_ite
      | apply setF_keeps
      | apply record_keeps
    | split

theorem writeRevoke_keeps (mask : ℕ) {s : State} (hK : K &&& 6149 = 0) (h0 : Keeps K s0 s) :
    Keeps K s0 (writeRevoke mask s) := by
  unfold writeRevoke
  repeat' first
    | with_reducible assumption
    | ((with_reducible refine keeps_sub hK ?_); rfl)
    | intro x
    | with_reducible first
      | apply keeps_foldl
      | apply revokeKey_keeps

theorem execKeyRevoke_keeps (by_ : Sys2Proof.Agent) (mask : ℕ) {s : State} (hK : K &&& 8165 = 0) (h0 : Keeps K s0 s) :
    KeepsX K s0 (execKeyRevoke by_ mask s) := by
  unfold execKeyRevoke
  repeat' first
    | with_reducible assumption
    | ((with_reducible refine keeps_sub hK ?_); rfl)
    | intro x
    | with_reducible first
      | apply keepsX_next
      | apply asGuarded_keeps
      | apply writeRevoke_keeps

theorem execLcBurnDone_keeps  {s : State} (hK : K &&& 4194305 = 0) (h0 : Keeps K s0 s) :
    KeepsX K s0 (execLcBurnDone s) := by
  unfold execLcBurnDone
  repeat' first
    | with_reducible assumption
    | ((with_reducible refine keeps_sub hK ?_); rfl)
    | intro x
    | with_reducible first
      | apply keepsX_next
      | apply setF_keeps
      | apply modBoot_keeps
    | split
    | (with_reducible apply keeps_mk; case hr => rfl)
    | ((with_reducible refine keeps_no hK ?_ (by assumption)); rfl)
    | rfl
    | exact Nat.le_refl _
    | (simp; done)

theorem zeroLearned_keeps  {s : State} (hK : K &&& 135168 = 0) (h0 : Keeps K s0 s) :
    Keeps K s0 (zeroLearned s) := by
  unfold zeroLearned
  repeat' first
    | with_reducible assumption
    | ((with_reducible refine keeps_sub hK ?_); rfl)
    | intro x
    | with_reducible apply keeps_ite
    | split
    | (with_reducible apply keeps_mk; case hr => rfl)
    | ((with_reducible refine keeps_no hK ?_ (by assumption)); rfl)
    | rfl
    | exact Nat.le_refl _
    | (simp; done)

theorem lcRequest_keeps (k : Sys2Proof.LcToken) {s : State} (hK : K &&& 4331525 = 0) (h0 : Keeps K s0 s) :
    Keeps K s0 (lcRequest k s) := by
  unfold lcRequest
  repeat' first
    | with_reducible assumption
    | ((with_reducible refine keeps_sub hK ?_); rfl)
    | intro x
    | with_reducible first
      | apply keeps_ite
      | apply modBoot_keeps
      | apply zeroLearned_keeps
      | apply record_keeps
    | split
    | (with_reducible apply keeps_mk; case hr => rfl)
    | ((with_reducible refine keeps_no hK ?_ (by assumption)); rfl)
    | rfl
    | exact Nat.le_refl _
    | (simp; done)

theorem execLcRequest_keeps (by_ : Sys2Proof.Agent) (tok : Sys2Proof.LcToken) {s : State} (hK : K &&& 4333541 = 0) (h0 : Keeps K s0 s) :
    KeepsX K s0 (execLcRequest by_ tok s) := by
  unfold execLcRequest
  repeat' first
    | with_reducible assumption
    | ((with_reducible refine keeps_sub hK ?_); rfl)
    | intro x
    | with_reducible first
      | apply keepsX_next
      | apply asGuarded_keeps
      | apply lcRequest_keeps

theorem execPcieReset_keeps  {s : State} (hK : K &&& 4196353 = 0) (h0 : Keeps K s0 s) :
    KeepsX K s0 (execPcieReset s) := by
  unfold execPcieReset
  repeat' first
    | with_reducible assumption
    | ((with_reducible refine keeps_sub hK ?_); rfl)
    | intro x
    | with_reducible first
      | apply keeps_ite
      | apply keepsX_next
      | apply keepsX_ite
      | apply resetPageFrom_keeps
    | split
    | (with_reducible apply keeps_mk; case hr => rfl)
    | ((with_reducible refine keeps_no hK ?_ (by assumption)); rfl)
    | rfl
    | exact Nat.le_refl _
    | (simp; done)

theorem hubStays_keeps (r : ℕ) {s : State} (hK : K &&& 4194304 = 0) (h0 : Keeps K s0 s) :
    Keeps K s0 (hubStays r s) := by
  unfold hubStays
  repeat' first
    | with_reducible assumption
    | ((with_reducible refine keeps_sub hK ?_); rfl)
    | intro x
    | with_reducible first
      | apply keeps_ite
      | apply modBoot_keeps
    | split
    | (with_reducible apply keeps_mk; case hr => rfl)
    | ((with_reducible refine keeps_no hK ?_ (by assumption)); rfl)
    | rfl
    | exact Nat.le_refl _
    | (simp; done)

theorem execPhaseTest_keeps (r : ℕ) (ph : ℕ) (reached : Bool) (imon : ℤ) (sat : Bool) {s : State} (hK : K &&& 6954341 = 0) (h0 : Keeps K s0 s) :
    KeepsX K s0 (execPhaseTest r ph reached imon sat s) := by
  unfold execPhaseTest
  repeat' first
    | with_reducible assumption
    | ((with_reducible refine keeps_sub hK ?_); rfl)
    | (intro x; first
      | (refine (?_ : Keeps K s0 x → _) ?_; on_goal 1 => (intro hx; clear_value x)
         on_goal 2 => unfold x)
      | clear_value x
      | skip)
    | fail_if_no_progress lift_lets
    | with_reducible first
      | apply keeps_ite
      | apply keepsX_next
      | apply keepsX_ite
      | apply hubStays_keeps
      | apply lossState_keeps
      | apply losePhase_keeps
    | split

theorem execPorstFall_keeps  {s : State} (hK : K &&& 16777213 = 0) (h0 : Keeps K s0 s) :
    KeepsX K s0 (execPorstFall s) := by
  unfold execPorstFall
  repeat' first
    | with_reducible assumption
    | ((with_reducible refine keeps_sub hK ?_); rfl)
    | with_reducible first
      | apply keepsX_next
      | apply coldReset_keeps

theorem execPorstRise_keeps (rp : Bool) (lanes : List ℕ) {s : State} (hK : K &&& 4227073 = 0) (h0 : Keeps K s0 s) :
    KeepsX K s0 (execPorstRise rp lanes s) := by
  unfold execPorstRise
  repeat' first
    | with_reducible assumption
    | ((with_reducible refine keeps_sub hK ?_); rfl)
    | (intro x; first
      | (refine (?_ : Keeps K s0 x → _) ?_; on_goal 1 => (intro hx; clear_value x)
         on_goal 2 => unfold x)
      | clear_value x
      | skip)
    | fail_if_no_progress lift_lets
    | with_reducible first
      | apply keeps_ite
      | apply keepsX_next
      | apply keepsX_ite
      | apply modBoot_keeps
      | apply setF_keeps
      | apply modDlk_keeps
    | split
    | (with_reducible apply keeps_mk; case hr => rfl)
    | ((with_reducible refine keeps_no hK ?_ (by assumption)); rfl)
    | rfl
    | exact Nat.le_refl _
    | (simp; done)

theorem writeRstCtl_keeps (who : Sys2Proof.Agent) (v : ℕ) {s : State} (hK : K &&& 16777213 = 0) (h0 : Keeps K s0 s) :
    Keeps K s0 (writeRstCtl who v s) := by
  unfold writeRstCtl
  repeat' first
    | with_reducible assumption
    | ((with_reducible refine keeps_sub hK ?_); rfl)
    | intro x
    | with_reducible first
      | apply keeps_ite
      | apply warmReset_keeps
      | apply coldReset_keeps
      | apply recordAt_keeps
      | apply asMaster_keeps
    | split

theorem execRstCtlCold_keeps (by_ : Sys2Proof.Agent) {s : State} (hK : K &&& 16777213 = 0) (h0 : Keeps K s0 s) :
    KeepsX K s0 (execRstCtlCold by_ s) := by
  unfold execRstCtlCold
  repeat' first
    | with_reducible assumption
    | ((with_reducible refine keeps_sub hK ?_); rfl)
    | with_reducible first
      | apply keepsX_next
      | apply writeRstCtl_keeps

theorem execRstCtlWarm_keeps (by_ : Sys2Proof.Agent) {s : State} (hK : K &&& 16777213 = 0) (h0 : Keeps K s0 s) :
    KeepsX K s0 (execRstCtlWarm by_ s) := by
  unfold execRstCtlWarm
  repeat' first
    | with_reducible assumption
    | ((with_reducible refine keeps_sub hK ?_); rfl)
    | with_reducible first
      | apply keepsX_next
      | apply writeRstCtl_keeps

theorem execSoftStartDone_keeps (r : ℕ) {s : State} (hK : K &&& 4718597 = 0) (h0 : Keeps K s0 s) :
    KeepsX K s0 (execSoftStartDone r s) := by
  unfold execSoftStartDone
  repeat' first
    | with_reducible assumption
    | ((with_reducible refine keeps_sub hK ?_); rfl)
    | (intro x; first
      | (refine (?_ : Keeps K s0 x → _) ?_; on_goal 1 => (intro hx; clear_value x)
         on_goal 2 => unfold x)
      | clear_value x
      | skip)
    | fail_if_no_progress lift_lets
    | with_reducible first
      | apply keeps_ite
      | apply keepsX_next
      | apply keepsX_ite
      | apply modBoot_keeps
      | apply setF_keeps
      | apply emit_keeps
      | apply modClap_keeps
      | apply setStage_keeps
    | split
    | (with_reducible apply keeps_mk; case hr => rfl)
    | ((with_reducible refine keeps_no hK ?_ (by assumption)); rfl)
    | rfl
    | exact Nat.le_refl _
    | (simp; done)

theorem execSoftStartTimeout_keeps (r : ℕ) {s : State} (hK : K &&& 4200453 = 0) (h0 : Keeps K s0 s) :
    KeepsX K s0 (execSoftStartTimeout r s) := by
  unfold execSoftStartTimeout
  repeat' first
    | with_reducible assumption
    | ((with_reducible refine keeps_sub hK ?_); rfl)
    | with_reducible first
      | apply keeps_ite
      | apply keepsX_next
      | apply keepsX_ite
      | apply hubStays_keeps
      | apply record_keeps
      | apply setF_keeps
    | split

theorem execTapReset_keeps  {s : State} (hK : K &&& 4194304 = 0) (h0 : Keeps K s0 s) :
    KeepsX K s0 (execTapReset s) := by
  unfold execTapReset
  repeat' first
    | with_reducible assumption
    | ((with_reducible refine keeps_sub hK ?_); rfl)
    | intro x
    | with_reducible first
      | apply keepsX_next
      | apply modBoot_keeps
    | (with_reducible apply keeps_mk; case hr => rfl)
    | ((with_reducible refine keeps_no hK ?_ (by assumption)); rfl)
    | rfl
    | exact Nat.le_refl _
    | (simp; done)

theorem kickWdog_keeps  {s : State} (hK : K &&& 4194304 = 0) (h0 : Keeps K s0 s) :
    Keeps K s0 (kickWdog s) := by
  unfold kickWdog
  repeat' first
    | with_reducible assumption
    | ((with_reducible refine keeps_sub hK ?_); rfl)
    | intro x
    | with_reducible apply modBoot_keeps
    | (with_reducible apply keeps_mk; case hr => rfl)
    | ((with_reducible refine keeps_no hK ?_ (by assumption)); rfl)
    | rfl
    | exact Nat.le_refl _
    | (simp; done)

theorem execWdogKick_keeps (by_ : Sys2Proof.Agent) (t : ℕ) {s : State} (hK : K &&& 4202469 = 0) (h0 : Keeps K s0 s) :
    KeepsX K s0 (execWdogKick by_ t s) := by
  unfold execWdogKick
  repeat' first
    | with_reducible assumption
    | ((with_reducible refine keeps_sub hK ?_); rfl)
    | intro x
    | with_reducible first
      | apply keepsX_next
      | apply asMaster_keeps
      | apply kickWdog_keeps
      | apply at_keeps

end Sys2Proof.Machine
end

