-- ==== Sys2Proof/Laws/KeepsBar.lean ====
section
/-! SUPPORT. What the operations of Machine/Bar.lean keep. -/

namespace Sys2Proof.Machine

open Sys2Proof

variable {K : Nat} {s0 : State}

theorem acctBoundary_keeps  {s : State} (hK : K &&& 256 = 0) (h0 : Keeps K s0 s) :
    Keeps K s0 (acctBoundary s) := by
  unfold acctBoundary
  repeat' first
    | with_reducible assumption
    | ((with_reducible refine keeps_sub hK ?_); rfl)
    | intro x
    | (with_reducible apply keeps_mk; case hr => rfl)
    | ((with_reducible refine keeps_no hK ?_ (by assumption)); rfl)
    | rfl
    | exact Nat.le_refl _
    | (simp; done)

theorem seqBoundary_keeps  {s : State} (hK : K &&& 7525 = 0) (h0 : Keeps K s0 s) :
    Keeps K s0 (seqBoundary s) := by
  unfold seqBoundary
  repeat' first
    | with_reducible assumption
    | ((with_reducible refine keeps_sub hK ?_); rfl)
    | (intro x; first
      | (refine (?_ : Keeps K s0 x → _) ?_; on_goal 1 => (intro hx; clear_value x)
         on_goal 2 => unfold x)
      | clear_value x
      | skip)
    | fail_if_no_progress lift_lets
    | with_reducible first
      | apply keeps_ite
      | apply applySwap_keeps
      | apply enterIdle_keeps
      | apply setSeqState_keeps
    | split

theorem seedsBoundary_keeps (d : ℕ) {s : State} (hK : K &&& 64 = 0) (h0 : Keeps K s0 s) :
    Keeps K s0 (seedsBoundary d s) := by
  unfold seedsBoundary
  repeat' first
    | with_reducible assumption
    | ((with_reducible refine keeps_sub hK ?_); rfl)
    | (intro x; first
      | (refine (?_ : Keeps K s0 x → _) ?_; on_goal 1 => (intro hx; clear_value x)
         on_goal 2 => unfold x)
      | clear_value x
      | skip)
    | fail_if_no_progress lift_lets
    | with_reducible apply modDie_keeps
    | (with_reducible apply keeps_mk; case hr => rfl)
    | ((with_reducible refine keeps_no hK ?_ (by assumption)); rfl)
    | rfl
    | exact Nat.le_refl _
    | (simp; done)

theorem mapEngine_keeps (d : ℕ) (k : ℕ) (e : ℕ) {s : State} (hK : K &&& 1 = 0) (h0 : Keeps K s0 s) :
    Keeps K s0 (mapEngine d k e s) := by
  unfold mapEngine
  repeat' first
    | with_reducible assumption
    | ((with_reducible refine keeps_sub hK ?_); rfl)
    | (intro x; first
      | (refine (?_ : Keeps K s0 x → _) ?_; on_goal 1 => (intro hx; clear_value x)
         on_goal 2 => unfold x)
      | clear_value x
      | skip)
    | fail_if_no_progress lift_lets
    | with_reducible apply setFi_keeps

theorem enginesBoundary_keeps (d : ℕ) {s : State} (hK : K &&& 65 = 0) (h0 : Keeps K s0 s) :
    Keeps K s0 (enginesBoundary d s) := by
  unfold enginesBoundary
  repeat' first
    | with_reducible assumption
    | ((with_reducible refine keeps_sub hK ?_); rfl)
    | (intro x; first
      | (refine (?_ : Keeps K s0 x → _) ?_; on_goal 1 => (intro hx; clear_value x)
         on_goal 2 => unfold x)
      | clear_value x
      | skip)
    | fail_if_no_progress lift_lets
    | with_reducible first
      | apply keeps_ite
      | apply keeps_foldl
      | apply mapEngine_keeps
      | apply modDie_keeps
      | apply showSpareLeft_keeps
      | apply showSubst_keeps
    | split
    | (with_reducible apply keeps_mk; case hr => rfl)
    | ((with_reducible refine keeps_no hK ?_ (by assumption)); rfl)
    | rfl
    | exact Nat.le_refl _
    | (simp; done)

theorem gateBoundary_keeps (p : Sys2Proof.Page) {s : State} (hK : K &&& 1 = 0) (h0 : Keeps K s0 s) :
    Keeps K s0 (gateBoundary p s) := by
  unfold gateBoundary
  repeat' first
    | with_reducible assumption
    | ((with_reducible refine keeps_sub hK ?_); rfl)
    | (intro x; first
      | (refine (?_ : Keeps K s0 x → _) ?_; on_goal 1 => (intro hx; clear_value x)
         on_goal 2 => unfold x)
      | clear_value x
      | skip)
    | fail_if_no_progress lift_lets
    | with_reducible first
      | apply keeps_ite
      | apply setF_keeps
    | split

theorem runsBoundary_keeps  {s : State} (hK : K &&& 32 = 0) (h0 : Keeps K s0 s) :
    Keeps K s0 (runsBoundary s) := by
  unfold runsBoundary
  repeat' first
    | with_reducible assumption
    | ((with_reducible refine keeps_sub hK ?_); rfl)
    | (intro x; first
      | (refine (?_ : Keeps K s0 x → _) ?_; on_goal 1 => (intro hx; clear_value x)
         on_goal 2 => unfold x)
      | clear_value x
      | skip)
    | fail_if_no_progress lift_lets
    | (with_reducible apply keeps_mk; case hr => rfl)
    | ((with_reducible refine keeps_no hK ?_ (by assumption)); rfl)
    | rfl
    | exact Nat.le_refl _
    | (simp; done)

theorem barEnds_keeps  {s : State} (hK : K &&& 3087845 = 0) (h0 : Keeps K s0 s) :
    Keeps K s0 (barEnds s) := by
  unfold barEnds
  repeat' first
    | with_reducible assumption
    | ((with_reducible refine keeps_sub hK ?_); rfl)
    | (intro x; first
      | (refine (?_ : Keeps K s0 x → _) ?_; on_goal 1 => (intro hx; clear_value x)
         on_goal 2 => unfold x)
      | clear_value x
      | skip)
    | fail_if_no_progress lift_lets
    | with_reducible first
      | apply keeps_foldl
      | apply seqBoundary_keeps
      | apply ingBoundary_keeps
      | apply samplesBoundary_keeps
      | apply seedsBoundary_keeps
      | apply enginesBoundary_keeps
      | apply trackerBoundary_keeps
      | apply groupsBoundary_keeps
      | apply lregBoundary_keeps
      | apply partBoundary_keeps
      | apply powerBoundary_keeps
      | apply bwBoundary_keeps
      | apply acctBoundary_keeps
      | apply gateBoundary_keeps
      | apply runsBoundary_keeps
    | (with_reducible apply keeps_mk; case hr => rfl)
    | ((with_reducible refine keeps_no hK ?_ (by assumption)); rfl)
    | rfl
    | exact Nat.le_refl _
    | (simp; done)

theorem barStarts_keeps (t : ℤ) {s : State} (hK : K &&& 40293 = 0) (h0 : Keeps K s0 s) :
    Keeps K s0 (barStarts t s) := by
  unfold barStarts
  repeat' first
    | with_reducible assumption
    | ((with_reducible refine keeps_sub hK ?_); rfl)
    | (intro x; first
      | (refine (?_ : Keeps K s0 x → _) ?_; on_goal 1 => (intro hx; clear_value x)
         on_goal 2 => unfold x)
      | clear_value x
      | skip)
    | fail_if_no_progress lift_lets
    | with_reducible first
      | apply keeps_foldl
      | apply setF_keeps
      | apply modFus_keeps
      | apply ingShow_keeps
      | apply dlkBoundary_keeps
      | apply emit_keeps
      | apply endCarry_keeps
      | apply dueAt_keeps
    | (with_reducible apply keeps_mk; case hr => rfl)
    | ((with_reducible refine keeps_no hK ?_ (by assumption)); rfl)
    | rfl
    | exact Nat.le_refl _
    | (simp; done)

theorem boundary_keeps (t : ℤ) (n : ℕ) {s : State} (hK : K &&& 3120613 = 0) (h0 : Keeps K s0 s) :
    Keeps K s0 (boundary t n s) := by
  unfold boundary
  repeat' first
    | with_reducible assumption
    | ((with_reducible refine keeps_sub hK ?_); rfl)
    | (intro x; first
      | (refine (?_ : Keeps K s0 x → _) ?_; on_goal 1 => (intro hx; clear_value x)
         on_goal 2 => unfold x)
      | clear_value x
      | skip)
    | fail_if_no_progress lift_lets
    | with_reducible first
      | apply barEnds_keeps
      | apply at_keeps
      | apply barStarts_keeps
      | apply set64_keeps

end Sys2Proof.Machine
end

