-- ==== Sys2Proof/Laws/KeepsTimebase.lean ====
section
/-! SUPPORT. What the operations of Machine/Timebase.lean keep. -/

namespace Sys2Proof.Machine

open Sys2Proof

variable {K : Nat} {s0 : State}

theorem modCyc_keeps (f : Sys2Proof.Machine.Cyc → Sys2Proof.Machine.Cyc) {s : State} (hK : K &&& 16 = 0) (h0 : Keeps K s0 s) :
    Keeps K s0 (modCyc f s) := by
  unfold modCyc
  repeat' first
    | with_reducible assumption
    | ((with_reducible refine keeps_sub hK ?_); rfl)
    | intro x
    | (with_reducible apply keeps_mk; case hr => rfl)
    | ((with_reducible refine keeps_no hK ?_ (by assumption)); rfl)
    | rfl
    | exact Nat.le_refl _
    | (simp; done)

theorem setCycState_keeps (v : ℕ) {s : State} (hK : K &&& 1 = 0) (h0 : Keeps K s0 s) :
    Keeps K s0 (setCycState v s) := by
  unfold setCycState
  repeat' first
    | with_reducible assumption
    | ((with_reducible refine keeps_sub hK ?_); rfl)
    | with_reducible apply setF_keeps

theorem showPeriod_keeps  {s : State} (hK : K &&& 1 = 0) (h0 : Keeps K s0 s) :
    Keeps K s0 (showPeriod s) := by
  unfold showPeriod
  repeat' first
    | with_reducible assumption
    | ((with_reducible refine keeps_sub hK ?_); rfl)
    | with_reducible apply setF_keeps

theorem showPhaseErr_keeps (e : ℤ) {s : State} (hK : K &&& 1 = 0) (h0 : Keeps K s0 s) :
    Keeps K s0 (showPhaseErr e s) := by
  unfold showPhaseErr
  repeat' first
    | with_reducible assumption
    | ((with_reducible refine keeps_sub hK ?_); rfl)
    | with_reducible apply setF_keeps

theorem lock_keeps (t : ℕ) (l : List ℤ) {s : State} (hK : K &&& 3120629 = 0) (h0 : Keeps K s0 s) :
    Keeps K s0 (lock t l s) := by
  unfold lock
  repeat' first
    | with_reducible assumption
    | ((with_reducible refine keeps_sub hK ?_); rfl)
    | (intro x; first
      | (refine (?_ : Keeps K s0 x → _) ?_; on_goal 1 => (intro hx; clear_value x)
         on_goal 2 => unfold x)
      | clear_value x
      | skip)
    | fail_if_no_progress lift_lets
    | with_reducible first
      | apply boundary_keeps
      | apply setCycState_keeps
      | apply modCyc_keeps
      | apply showPeriod_keeps
      | apply showPhaseErr_keeps
      | apply setF_keeps
    | (with_reducible apply keeps_mk; case hr => rfl)
    | ((with_reducible refine keeps_no hK ?_ (by assumption)); rfl)
    | rfl
    | exact Nat.le_refl _
    | (simp; done)

theorem acquireEdge_keeps (t : ℕ) {s : State} (hK : K &&& 3120629 = 0) (h0 : Keeps K s0 s) :
    Keeps K s0 (acquireEdge t s) := by
  unfold acquireEdge
  repeat' first
    | with_reducible assumption
    | ((with_reducible refine keeps_sub hK ?_); rfl)
    | (intro x; first
      | (refine (?_ : Keeps K s0 x → _) ?_; on_goal 1 => (intro hx; clear_value x)
         on_goal 2 => unfold x)
      | clear_value x
      | skip)
    | fail_if_no_progress lift_lets
    | with_reducible first
      | apply keeps_ite
      | apply modCyc_keeps
      | apply lock_keeps
    | split
    | (with_reducible apply keeps_mk; case hr => rfl)
    | ((with_reducible refine keeps_no hK ?_ (by assumption)); rfl)
    | rfl
    | exact Nat.le_refl _
    | (simp; done)

theorem displaced_keeps  {s : State} (hK : K &&& 6149 = 0) (h0 : Keeps K s0 s) :
    Keeps K s0 (displaced s) := by
  unfold displaced
  repeat' first
    | with_reducible assumption
    | ((with_reducible refine keeps_sub hK ?_); rfl)
    | with_reducible first
      | apply record_keeps
      | apply bump_keeps

theorem takeEdge_keeps (t : ℕ) {s : State} (hK : K &&& 17 = 0) (h0 : Keeps K s0 s) :
    Keeps K s0 (takeEdge t s) := by
  unfold takeEdge
  repeat' first
    | with_reducible assumption
    | ((with_reducible refine keeps_sub hK ?_); rfl)
    | (intro x; first
      | (refine (?_ : Keeps K s0 x → _) ?_; on_goal 1 => (intro hx; clear_value x)
         on_goal 2 => unfold x)
      | clear_value x
      | skip)
    | fail_if_no_progress lift_lets
    | with_reducible first
      | apply keeps_ite
      | apply modCyc_keeps
      | apply setCycState_keeps
      | apply showPhaseErr_keeps
      | apply showPeriod_keeps
      | apply setF_keeps
    | split
    | (with_reducible apply keeps_mk; case hr => rfl)
    | ((with_reducible refine keeps_no hK ?_ (by assumption)); rfl)
    | rfl
    | exact Nat.le_refl _
    | (simp; done)

theorem barEdge_keeps (t : ℕ) {s : State} (hK : K &&& 6165 = 0) (h0 : Keeps K s0 s) :
    Keeps K s0 (barEdge t s) := by
  unfold barEdge
  repeat' first
    | with_reducible assumption
    | ((with_reducible refine keeps_sub hK ?_); rfl)
    | intro x
    | with_reducible first
      | apply keeps_ite
      | apply displaced_keeps
      | apply takeEdge_keeps
      | apply setF_keeps
      | apply setCycState_keeps
      | apply modCyc_keeps
    | split
    | (with_reducible apply keeps_mk; case hr => rfl)
    | ((with_reducible refine keeps_no hK ?_ (by assumption)); rfl)
    | rfl
    | exact Nat.le_refl _
    | (simp; done)

theorem barsEnd_keeps  {s : State} (hK : K &&& 73077 = 0) (h0 : Keeps K s0 s) :
    Keeps K s0 (barsEnd s) := by
  unfold barsEnd
  repeat' first
    | with_reducible assumption
    | ((with_reducible refine keeps_sub hK ?_); rfl)
    | (intro x; first
      | (refine (?_ : Keeps K s0 x → _) ?_; on_goal 1 => (intro hx; clear_value x)
         on_goal 2 => unfold x)
      | clear_value x
      | skip)
    | fail_if_no_progress lift_lets
    | with_reducible first
      | apply stopAll_keeps
      | apply ingStop_keeps
      | apply setF_keeps
      | apply modCyc_keeps
    | (with_reducible apply keeps_mk; case hr => rfl)
    | ((with_reducible refine keeps_no hK ?_ (by assumption)); rfl)
    | rfl
    | exact Nat.le_refl _
    | (simp; done)

theorem cycRun_keeps  {s : State} (hK : K &&& 2103317 = 0) (h0 : Keeps K s0 s) :
    Keeps K s0 (cycRun s) := by
  unfold cycRun
  repeat' first
    | with_reducible assumption
    | ((with_reducible refine keeps_sub hK ?_); rfl)
    | intro x
    | with_reducible first
      | apply keeps_ite
      | apply record_keeps
      | apply setF_keeps
      | apply coolRunCheck_keeps
      | apply setCycState_keeps
      | apply modCyc_keeps
    | split
    | (with_reducible apply keeps_mk; case hr => rfl)
    | ((with_reducible refine keeps_no hK ?_ (by assumption)); rfl)
    | rfl
    | exact Nat.le_refl _
    | (simp; done)

theorem cycStop_keeps  {s : State} (hK : K &&& 73077 = 0) (h0 : Keeps K s0 s) :
    Keeps K s0 (cycStop s) := by
  unfold cycStop
  repeat' first
    | with_reducible assumption
    | ((with_reducible refine keeps_sub hK ?_); rfl)
    | (intro x; first
      | (refine (?_ : Keeps K s0 x → _) ?_; on_goal 1 => (intro hx; clear_value x)
         on_goal 2 => unfold x)
      | clear_value x
      | skip)
    | fail_if_no_progress lift_lets
    | with_reducible first
      | apply keeps_ite
      | apply setF_keeps
      | apply setCycState_keeps
      | apply barsEnd_keeps
    | split

theorem edgeMissing_keeps  {s : State} (hK : K &&& 6165 = 0) (h0 : Keeps K s0 s) :
    Keeps K s0 (edgeMissing s) := by
  unfold edgeMissing
  repeat' first
    | with_reducible assumption
    | ((with_reducible refine keeps_sub hK ?_); rfl)
    | intro x
    | with_reducible first
      | apply record_keeps
      | apply setCycState_keeps
      | apply modCyc_keeps
    | (with_reducible apply keeps_mk; case hr => rfl)
    | ((with_reducible refine keeps_no hK ?_ (by assumption)); rfl)
    | rfl
    | exact Nat.le_refl _
    | (simp; done)

theorem nextBar_keeps  {s : State} (hK : K &&& 3120629 = 0) (h0 : Keeps K s0 s) :
    Keeps K s0 (nextBar s) := by
  unfold nextBar
  repeat' first
    | with_reducible assumption
    | ((with_reducible refine keeps_sub hK ?_); rfl)
    | (intro x; first
      | (refine (?_ : Keeps K s0 x → _) ?_; on_goal 1 => (intro hx; clear_value x)
         on_goal 2 => unfold x)
      | clear_value x
      | skip)
    | fail_if_no_progress lift_lets
    | with_reducible first
      | apply keeps_ite
      | apply modCyc_keeps
      | apply setF_keeps
      | apply takeEdge_keeps
      | apply boundary_keeps
    | split
    | (with_reducible apply keeps_mk; case hr => rfl)
    | ((with_reducible refine keeps_no hK ?_ (by assumption)); rfl)
    | rfl
    | exact Nat.le_refl _
    | (simp; done)

theorem execBarBoundary_keeps  {s : State} (hK : K &&& 3120629 = 0) (h0 : Keeps K s0 s) :
    KeepsX K s0 (execBarBoundary s) := by
  unfold execBarBoundary
  repeat' first
    | with_reducible assumption
    | ((with_reducible refine keeps_sub hK ?_); rfl)
    | (intro x; first
      | (refine (?_ : Keeps K s0 x → _) ?_; on_goal 1 => (intro hx; clear_value x)
         on_goal 2 => unfold x)
      | clear_value x
      | skip)
    | fail_if_no_progress lift_lets
    | with_reducible first
      | apply keeps_ite
      | apply keepsX_next
      | apply keepsX_ite
      | apply edgeMissing_keeps
      | apply nextBar_keeps
    | split

theorem execDownbeatEdge_keeps (t : ℕ) {s : State} (hK : K &&& 3120629 = 0) (h0 : Keeps K s0 s) :
    KeepsX K s0 (execDownbeatEdge t s) := by
  unfold execDownbeatEdge
  repeat' first
    | with_reducible assumption
    | ((with_reducible refine keeps_sub hK ?_); rfl)
    | (intro x; first
      | (refine (?_ : Keeps K s0 x → _) ?_; on_goal 1 => (intro hx; clear_value x)
         on_goal 2 => unfold x)
      | clear_value x
      | skip)
    | fail_if_no_progress lift_lets
    | with_reducible first
      | apply keeps_ite
      | apply keepsX_next
      | apply keepsX_ite
      | apply at_keeps
      | apply acquireEdge_keeps
      | apply barEdge_keeps
    | split

theorem execDownbeatMissing_keeps  {s : State} (hK : K &&& 6165 = 0) (h0 : Keeps K s0 s) :
    KeepsX K s0 (execDownbeatMissing s) := by
  unfold execDownbeatMissing
  repeat' first
    | with_reducible assumption
    | ((with_reducible refine keeps_sub hK ?_); rfl)
    | with_reducible first
      | apply keeps_ite
      | apply keepsX_next
      | apply keepsX_ite
      | apply edgeMissing_keeps
      | apply at_keeps
    | split

theorem execTimebaseLost_keeps  {s : State} (hK : K &&& 73077 = 0) (h0 : Keeps K s0 s) :
    KeepsX K s0 (execTimebaseLost s) := by
  unfold execTimebaseLost
  repeat' first
    | with_reducible assumption
    | ((with_reducible refine keeps_sub hK ?_); rfl)
    | (intro x; first
      | (refine (?_ : Keeps K s0 x → _) ?_; on_goal 1 => (intro hx; clear_value x)
         on_goal 2 => unfold x)
      | clear_value x
      | skip)
    | fail_if_no_progress lift_lets
    | with_reducible first
      | apply keeps_ite
      | apply keepsX_next
      | apply keepsX_ite
      | apply record_keeps
      | apply setCycState_keeps
      | apply at_keeps
      | apply barsEnd_keeps
      | apply setSeqState_keeps
    | split

theorem execTimebaseRun_keeps (by_ : Sys2Proof.Agent) (t : ℕ) {s : State} (hK : K &&& 2105333 = 0) (h0 : Keeps K s0 s) :
    KeepsX K s0 (execTimebaseRun by_ t s) := by
  unfold execTimebaseRun
  repeat' first
    | with_reducible assumption
    | ((with_reducible refine keeps_sub hK ?_); rfl)
    | intro x
    | with_reducible first
      | apply keepsX_next
      | apply asMaster_keeps
      | apply cycRun_keeps
      | apply at_keeps

theorem execTimebaseStop_keeps (by_ : Sys2Proof.Agent) {s : State} (hK : K &&& 73717 = 0) (h0 : Keeps K s0 s) :
    KeepsX K s0 (execTimebaseStop by_ s) := by
  unfold execTimebaseStop
  repeat' first
    | with_reducible assumption
    | ((with_reducible refine keeps_sub hK ?_); rfl)
    | intro x
    | with_reducible first
      | apply keepsX_next
      | apply asMaster_keeps
      | apply cycStop_keeps

end Sys2Proof.Machine
end

