-- ==== Sys2Proof/Laws/KeepsRegRead.lean ====
section
/-! SUPPORT. What the operations of Machine/RegRead.lean keep. -/

namespace Sys2Proof.Machine

open Sys2Proof

variable {K : Nat} {s0 : State}

theorem pathRefusal_keeps (who : Sys2Proof.Agent) (code : ℕ) (a : ℕ) {s : State} (hK : K &&& 6149 = 0) (h0 : Keeps K s0 s) :
    Keeps K s0 (pathRefusal who code a s) := by
  unfold pathRefusal
  repeat' first
    | with_reducible assumption
    | ((with_reducible refine keeps_sub hK ?_); rfl)
    | with_reducible apply recordAt_keeps

theorem refuse_keeps (who : Sys2Proof.Agent) (wr : Bool) (a : ℕ) (len : ℕ) {s : State} (hK : K &&& 8165 = 0) (h0 : Keeps K s0 s) :
    KeepsO K s0 (refuse who wr a len s) := by
  unfold refuse
  repeat' first
    | with_reducible assumption
    | ((with_reducible refine keeps_sub hK ?_); rfl)
    | (intro x; first
      | (refine (?_ : Keeps K s0 x → _) ?_; on_goal 1 => (intro hx; clear_value x)
         on_goal 2 => unfold x)
      | clear_value x
      | skip)
    | fail_if_no_progress lift_lets
    | with_reducible first
      | apply keeps_ite
      | apply keepsO_ite
      | apply keepsO_some
      | apply windowFault_keeps
      | apply pathRefusal_keeps
      | apply recordAt_keeps
      | exact keepsO_none
    | split

theorem latchHi_keeps (a : ℕ) (v : ℕ) {s : State} (hK : K &&& 4 = 0) (h0 : Keeps K s0 s) :
    Keeps K s0 (latchHi a v s) := by
  unfold latchHi
  repeat' first
    | with_reducible assumption
    | ((with_reducible refine keeps_sub hK ?_); rfl)
    | intro x
    | (with_reducible apply keeps_mk; case hr => rfl)
    | ((with_reducible refine keeps_no hK ?_ (by assumption)); rfl)
    | rfl
    | exact Nat.le_refl _
    | (simp; done)

theorem readPage_keeps (who : Sys2Proof.Agent) (p : Sys2Proof.Page) (off : ℕ) {s : State} (hK : K &&& 6149 = 0) (h0 : Keeps K s0 s) :
    KeepsP K s0 (readPage who p off s) := by
  unfold readPage
  repeat' first
    | with_reducible assumption
    | ((with_reducible refine keeps_sub hK ?_); rfl)
    | (intro x; first
      | (refine (?_ : Keeps K s0 x → _) ?_; on_goal 1 => (intro hx; clear_value x)
         on_goal 2 => unfold x)
      | (refine (?_ : KeepsP K s0 x → _) ?_; on_goal 1 => (intro hx; clear_value x)
         on_goal 2 => unfold x)
      | clear_value x
      | skip)
    | fail_if_no_progress lift_lets
    | with_reducible first
      | apply keeps_ite
      | apply keepsP_ite
      | apply chanRead_keeps
      | apply claimSource_keeps
      | apply latchHi_keeps
      | exact keepsP_get (by assumption)
      | refine keepsP_eq ?_ (by assumption)
      | refine keepsP_get (p := chanRead _ _ _) ?_
      | refine keepsP_get (p := claimSource _ _) ?_
    | split
    | with_reducible apply keepsP_mk

theorem devRead_keeps (who : Sys2Proof.Agent) (a : ℕ) (len : ℕ) {s : State} (hK : K &&& 8165 = 0) (h0 : Keeps K s0 s) :
    KeepsT K s0 (devRead who a len s) := by
  unfold devRead
  repeat' first
    | with_reducible assumption
    | ((with_reducible refine keeps_sub hK ?_); rfl)
    | (intro x; first
      | (refine (?_ : Keeps K s0 x → _) ?_; on_goal 1 => (intro hx; clear_value x)
         on_goal 2 => unfold x)
      | (refine (?_ : KeepsP K s0 x → _) ?_; on_goal 1 => (intro hx; clear_value x)
         on_goal 2 => unfold x)
      | (refine (?_ : KeepsT K s0 x → _) ?_; on_goal 1 => (intro hx; clear_value x)
         on_goal 2 => unfold x)
      | clear_value x
      | skip)
    | fail_if_no_progress lift_lets
    | with_reducible first
      | apply keeps_ite
      | apply keepsO_ite
      | apply keepsO_some
      | apply keepsT_ite
      | apply keepsP_ite
      | apply refuse_keeps
      | apply readPage_keeps
      | apply drawFree_keeps
      | apply chargeMem_keeps
      | exact keepsP_get (by assumption)
      | refine keepsP_eq ?_ (by assumption)
      | refine keepsP_get (p := readPage _ _ _ _) ?_
      | refine keepsP_get (p := drawFree _ _) ?_
      | exact keepsT_get (by assumption)
      | refine keepsO_get ?_ (by assumption)
    | split
    | with_reducible apply keepsP_mk
    | with_reducible apply keepsT_mk

theorem execLoWordRead_keeps (by_ : Sys2Proof.Agent) (addr : ℕ) {s : State} (hK : K &&& 8165 = 0) (h0 : Keeps K s0 s) :
    KeepsX K s0 (execLoWordRead by_ addr s) := by
  unfold execLoWordRead
  repeat' first
    | with_reducible assumption
    | ((with_reducible refine keeps_sub hK ?_); rfl)
    | (intro x; first
      | (refine (?_ : Keeps K s0 x → _) ?_; on_goal 1 => (intro hx; clear_value x)
         on_goal 2 => unfold x)
      | (refine (?_ : KeepsT K s0 x → _) ?_; on_goal 1 => (intro hx; clear_value x)
         on_goal 2 => unfold x)
      | clear_value x
      | skip)
    | fail_if_no_progress lift_lets
    | with_reducible first
      | apply keeps_ite
      | apply keepsT_ite
      | apply keepsX_next
      | apply keepsX_ite
      | apply devRead_keeps
      | apply answer_keeps
      | exact keepsT_get (by assumption)
      | refine keepsT_get (p := devRead _ _ _ _) ?_
    | split
    | with_reducible apply keepsT_mk

end Sys2Proof.Machine
end

