-- ==== Sys2Proof/Laws/KeepsRegWrite.lean ====
section
/-! SUPPORT. What the operations of Machine/RegWrite.lean keep. -/

namespace Sys2Proof.Machine

open Sys2Proof

variable {K : Nat} {s0 : State}

theorem genWord_keeps (p : Sys2Proof.Page) (off : ℕ) (v : ℕ) {s : State} (hK : K &&& 1 = 0) (h0 : Keeps K s0 s) :
    Keeps K s0 (genWord p off v s) := by
  unfold genWord
  repeat' first
    | with_reducible assumption
    | ((with_reducible refine keeps_sub hK ?_); rfl)
    | with_reducible apply setW_keeps

theorem onBit_keeps (v : ℕ) (b : ℕ) (f : Sys2Proof.Machine.State → Sys2Proof.Machine.State) {s : State} (h0 : ∀ u0, Keeps K s0 u0 → Keeps K s0 (f u0)) (h1 : Keeps K s0 s) :
    Keeps K s0 (onBit v b f s) := by
  unfold onBit
  repeat' first
    | with_reducible assumption
    | intro x
    | with_reducible first
      | apply keeps_ite
      | apply h0
    | split

theorem writeHubId_keeps (who : Sys2Proof.Agent) (off : ℕ) (v : ℕ) {s : State} (hK : K &&& 16777213 = 0) (h0 : Keeps K s0 s) :
    Keeps K s0 (writeHubId who off v s) := by
  unfold writeHubId
  repeat' first
    | with_reducible assumption
    | ((with_reducible refine keeps_sub hK ?_); rfl)
    | (intro x; first
      | (refine (?_ : Keeps K s0 x → _) ?_; on_goal 1 => (intro hx; clear_value x)
         on_goal 2 => unfold x)
      | clear_value x
      | skip)
    | fail_if_no_progress lift_lets
    | with_reducible first
      | apply keeps_ite
      | apply writeRstCtl_keeps
      | apply genWord_keeps
      | apply kickWdog_keeps
      | apply onBit_keeps
    | split

theorem writeCyc_keeps (off : ℕ) (v : ℕ) {s : State} (hK : K &&& 2170229 = 0) (h0 : Keeps K s0 s) :
    Keeps K s0 (writeCyc off v s) := by
  unfold writeCyc
  repeat' first
    | with_reducible assumption
    | ((with_reducible refine keeps_sub hK ?_); rfl)
    | (intro x; first
      | (refine (?_ : Keeps K s0 x → _) ?_; on_goal 1 => (intro hx; clear_value x)
         on_goal 2 => unfold x)
      | clear_value x
      | skip)
    | fail_if_no_progress lift_lets
    | with_reducible first
      | apply keeps_ite
      | apply genWord_keeps
      | apply cycRun_keeps
      | apply cycStop_keeps
      | apply advanceCfgGen_keeps
    | split

theorem writeSeq_keeps (who : Sys2Proof.Agent) (off : ℕ) (v : ℕ) {s : State} (hK : K &&& 7525 = 0) (h0 : Keeps K s0 s) :
    Keeps K s0 (writeSeq who off v s) := by
  unfold writeSeq
  repeat' first
    | with_reducible assumption
    | ((with_reducible refine keeps_sub hK ?_); rfl)
    | intro x
    | with_reducible first
      | apply keeps_ite
      | apply onBit_keeps
      | apply seqStop_keeps
      | apply swapCancel_keeps
      | apply swapRequest_keeps
      | apply tableAdmit_keeps
      | apply tableLoad_keeps
      | apply genWord_keeps
      | apply islSwapCancel_keeps
      | apply islSwapRequest_keeps
    | split

theorem writeLreg_keeps (who : Sys2Proof.Agent) (n : ℕ) (o : ℕ) (v : ℕ) {s : State} (hK : K &&& 137221 = 0) (h0 : Keeps K s0 s) :
    Keeps K s0 (writeLreg who n o v s) := by
  unfold writeLreg
  repeat' first
    | with_reducible assumption
    | ((with_reducible refine keeps_sub hK ?_); rfl)
    | (intro x; first
      | (refine (?_ : Keeps K s0 x → _) ?_; on_goal 1 => (intro hx; clear_value x)
         on_goal 2 => unfold x)
      | clear_value x
      | skip)
    | fail_if_no_progress lift_lets
    | with_reducible first
      | apply keeps_ite
      | apply genWord_keeps
      | apply advanceCfgGen_keeps
      | apply onBit_keeps
      | apply lregCkpt_keeps
      | apply lregRequest_keeps
      | apply lregVet_keeps
    | split

theorem writeBwreg_keeps (off : ℕ) (v : ℕ) {s : State} (hK : K &&& 262145 = 0) (h0 : Keeps K s0 s) :
    Keeps K s0 (writeBwreg off v s) := by
  unfold writeBwreg
  repeat' first
    | with_reducible assumption
    | ((with_reducible refine keeps_sub hK ?_); rfl)
    | (intro x; first
      | (refine (?_ : Keeps K s0 x → _) ?_; on_goal 1 => (intro hx; clear_value x)
         on_goal 2 => unfold x)
      | clear_value x
      | skip)
    | fail_if_no_progress lift_lets
    | with_reducible first
      | apply keeps_ite
      | apply onBit_keeps
      | apply bwCommit_keeps
      | apply genWord_keeps
      | apply advanceCfgGen_keeps
    | split

theorem writeCap_keeps (who : Sys2Proof.Agent) (off : ℕ) (v : ℕ) {s : State} (hK : K &&& 2103301 = 0) (h0 : Keeps K s0 s) :
    Keeps K s0 (writeCap who off v s) := by
  unfold writeCap
  repeat' first
    | with_reducible assumption
    | ((with_reducible refine keeps_sub hK ?_); rfl)
    | with_reducible first
      | apply keeps_ite
      | apply writeEnv_keeps
      | apply writeEnvIsl_keeps
      | apply showLims_keeps
      | apply genWord_keeps
    | split

theorem writeLdg_keeps (off : ℕ) (v : ℕ) {s : State} (hK : K &&& 6151 = 0) (h0 : Keeps K s0 s) :
    Keeps K s0 (writeLdg off v s) := by
  unfold writeLdg
  repeat' first
    | with_reducible assumption
    | ((with_reducible refine keeps_sub hK ?_); rfl)
    | (intro x; first
      | (refine (?_ : Keeps K s0 x → _) ?_; on_goal 1 => (intro hx; clear_value x)
         on_goal 2 => unfold x)
      | clear_value x
      | skip)
    | fail_if_no_progress lift_lets
    | with_reducible first
      | apply keeps_ite
      | apply genWord_keeps
      | apply onBit_keeps
      | apply fwEntry_keeps
      | apply fwRead_keeps
      | apply fwWrite_keeps
      | apply bootCancel_keeps
      | apply bootConfirm_keeps
      | apply bootTrial_keeps
    | split

theorem writeHld_keeps (off : ℕ) (v : ℕ) {s : State} (hK : K &&& 6149 = 0) (h0 : Keeps K s0 s) :
    Keeps K s0 (writeHld off v s) := by
  unfold writeHld
  repeat' first
    | with_reducible assumption
    | ((with_reducible refine keeps_sub hK ?_); rfl)
    | (intro x; first
      | (refine (?_ : Keeps K s0 x → _) ?_; on_goal 1 => (intro hx; clear_value x)
         on_goal 2 => unfold x)
      | clear_value x
      | skip)
    | fail_if_no_progress lift_lets
    | with_reducible first
      | apply keeps_ite
      | apply genWord_keeps
      | apply setF_keeps
      | apply onBit_keeps
      | apply clearDegraded_keeps
    | split

theorem markCopy_keeps (c : ℕ) {s : State} (hK : K &&& 32768 = 0) (h0 : Keeps K s0 s) :
    Keeps K s0 (markCopy c s) := by
  unfold markCopy
  repeat' first
    | with_reducible assumption
    | ((with_reducible refine keeps_sub hK ?_); rfl)
    | intro x
    | (with_reducible apply keeps_mk; case hr => rfl)
    | ((with_reducible refine keeps_no hK ?_ (by assumption)); rfl)
    | rfl
    | exact Nat.le_refl _
    | (simp; done)

theorem copyStart_keeps (c : ℕ) {s : State} (hK : K &&& 40933 = 0) (h0 : Keeps K s0 s) :
    Keeps K s0 (copyStart c s) := by
  unfold copyStart
  repeat' first
    | with_reducible assumption
    | ((with_reducible refine keeps_sub hK ?_); rfl)
    | (intro x; first
      | (refine (?_ : Keeps K s0 x → _) ?_; on_goal 1 => (intro hx; clear_value x)
         on_goal 2 => unfold x)
      | (refine (?_ : KeepsT K s0 x → _) ?_; on_goal 1 => (intro hx; clear_value x)
         on_goal 2 => unfold x)
      | clear_value x
      | skip)
    | fail_if_no_progress lift_lets
    | with_reducible first
      | apply keeps_ite
      | apply keepsT_ite
      | apply copyFenced_keeps
      | apply setFi_keeps
      | apply markCopy_keeps
      | apply emit_keeps
      | apply devRead_keeps
      | exact keepsT_get (by assumption)
      | refine keepsT_get (p := devRead _ _ _ _) ?_
    | split
    | with_reducible apply keepsT_mk

theorem writeDlk_keeps (off : ℕ) (v : ℕ) {s : State} (hK : K &&& 122853 = 0) (h0 : Keeps K s0 s) :
    Keeps K s0 (writeDlk off v s) := by
  unfold writeDlk
  repeat' first
    | with_reducible assumption
    | ((with_reducible refine keeps_sub hK ?_); rfl)
    | (intro x; first
      | (refine (?_ : Keeps K s0 x → _) ?_; on_goal 1 => (intro hx; clear_value x)
         on_goal 2 => unfold x)
      | clear_value x
      | skip)
    | fail_if_no_progress lift_lets
    | with_reducible first
      | apply keeps_ite
      | apply dlkCtlWritten_keeps
      | apply genWord_keeps
      | apply writeXb_keeps
      | apply onBit_keeps
      | apply copyStart_keeps
    | split

theorem writePorts_keeps (p : Sys2Proof.Page) (off : ℕ) (v : ℕ) {s : State} (hK : K &&& 1 = 0) (h0 : Keeps K s0 s) :
    Keeps K s0 (writePorts p off v s) := by
  unfold writePorts
  repeat' first
    | with_reducible assumption
    | ((with_reducible refine keeps_sub hK ?_); rfl)
    | (intro x; first
      | (refine (?_ : Keeps K s0 x → _) ?_; on_goal 1 => (intro hx; clear_value x)
         on_goal 2 => unfold x)
      | clear_value x
      | skip)
    | fail_if_no_progress lift_lets
    | with_reducible first
      | apply keeps_ite
      | apply genWord_keeps
      | apply onBit_keeps
      | apply startLoopTest_keeps
    | split

theorem intForce_keeps (p : Sys2Proof.Page) (v : ℕ) {s : State} (hK : K &&& 5 = 0) (h0 : Keeps K s0 s) :
    Keeps K s0 (intForce p v s) := by
  unfold intForce
  repeat' first
    | with_reducible assumption
    | ((with_reducible refine keeps_sub hK ?_); rfl)
    | with_reducible first
      | apply keeps_ite
      | apply notifyEdge_keeps
      | apply setF_keeps
    | split

theorem dmaStart_keeps (d : ℕ) {s : State} (hK : K &&& 2053 = 0) (h0 : Keeps K s0 s) :
    Keeps K s0 (dmaStart d s) := by
  unfold dmaStart
  repeat' first
    | with_reducible assumption
    | ((with_reducible refine keeps_sub hK ?_); rfl)
    | (intro x; first
      | (refine (?_ : Keeps K s0 x → _) ?_; on_goal 1 => (intro hx; clear_value x)
         on_goal 2 => unfold x)
      | clear_value x
      | skip)
    | fail_if_no_progress lift_lets
    | with_reducible first
      | apply keeps_ite
      | apply setFi_keeps
      | apply emit_keeps
    | split
    | (with_reducible apply keeps_mk; case hr => rfl)
    | ((with_reducible refine keeps_no hK ?_ (by assumption)); rfl)
    | rfl
    | exact Nat.le_refl _
    | (simp; done)

theorem writePcie_keeps (off : ℕ) (v : ℕ) {s : State} (hK : K &&& 2053 = 0) (h0 : Keeps K s0 s) :
    Keeps K s0 (writePcie off v s) := by
  unfold writePcie
  repeat' first
    | with_reducible assumption
    | ((with_reducible refine keeps_sub hK ?_); rfl)
    | (intro x; first
      | (refine (?_ : Keeps K s0 x → _) ?_; on_goal 1 => (intro hx; clear_value x)
         on_goal 2 => unfold x)
      | clear_value x
      | skip)
    | fail_if_no_progress lift_lets
    | with_reducible first
      | apply keeps_ite
      | apply intForce_keeps
      | apply genWord_keeps
      | apply onBit_keeps
      | apply dmaStart_keeps
    | split

theorem writeEth_keeps (off : ℕ) (v : ℕ) {s : State} (hK : K &&& 16389 = 0) (h0 : Keeps K s0 s) :
    Keeps K s0 (writeEth off v s) := by
  unfold writeEth
  repeat' first
    | with_reducible assumption
    | ((with_reducible refine keeps_sub hK ?_); rfl)
    | (intro x; first
      | (refine (?_ : Keeps K s0 x → _) ?_; on_goal 1 => (intro hx; clear_value x)
         on_goal 2 => unfold x)
      | clear_value x
      | skip)
    | fail_if_no_progress lift_lets
    | with_reducible first
      | apply keeps_ite
      | apply ptpCtlWritten_keeps
      | apply genWord_keeps
      | apply writePtpSet_keeps
      | apply onBit_keeps
      | apply mdioStart_keeps
      | apply drainTx_keeps
      | apply qbvCommit_keeps
    | split

theorem malletOff_keeps  {s : State} (hK : K &&& 1 = 0) (h0 : Keeps K s0 s) :
    Keeps K s0 (malletOff s) := by
  unfold malletOff
  repeat' first
    | with_reducible assumption
    | ((with_reducible refine keeps_sub hK ?_); rfl)
    | with_reducible apply setF_keeps

theorem writeClapWord_keeps (who : Sys2Proof.Agent) (off : ℕ) (v : ℕ) {s : State} (hK : K &&& 1581029 = 0) (h0 : Keeps K s0 s) :
    Keeps K s0 (writeClapWord who off v s) := by
  unfold writeClapWord
  repeat' first
    | with_reducible assumption
    | ((with_reducible refine keeps_sub hK ?_); rfl)
    | intro x
    | with_reducible first
      | apply keeps_ite
      | apply onBit_keeps
      | apply clearSafe_keeps
      | apply releaseClap_keeps
      | apply showMon_keeps
      | apply genWord_keeps
      | apply writeClap_keeps
    | split

theorem writeSch_keeps (d : ℕ) (off : ℕ) (v : ℕ) {s : State} (hK : K &&& 6149 = 0) (h0 : Keeps K s0 s) :
    Keeps K s0 (writeSch d off v s) := by
  unfold writeSch
  repeat' first
    | with_reducible assumption
    | ((with_reducible refine keeps_sub hK ?_); rfl)
    | with_reducible first
      | apply keeps_ite
      | apply writeSleepPend_keeps
      | apply genWord_keeps
      | apply advanceCfgGen_keeps
    | split

theorem writeIsl_keeps (i : ℕ) (off : ℕ) (v : ℕ) {s : State} (hK : K &&& 1054725 = 0) (h0 : Keeps K s0 s) :
    Keeps K s0 (writeIsl i off v s) := by
  unfold writeIsl
  repeat' first
    | with_reducible assumption
    | ((with_reducible refine keeps_sub hK ?_); rfl)
    | (intro x; first
      | (refine (?_ : Keeps K s0 x → _) ?_; on_goal 1 => (intro hx; clear_value x)
         on_goal 2 => unfold x)
      | clear_value x
      | skip)
    | fail_if_no_progress lift_lets
    | with_reducible first
      | apply keeps_ite
      | apply writeWatch_keeps
      | apply genWord_keeps
      | apply onBit_keeps
      | apply dropHold_keeps
      | apply restartIsl_keeps
      | apply islSafeReq_keeps
      | apply showValid_keeps
    | split

theorem applyWord_keeps (who : Sys2Proof.Agent) (p : Sys2Proof.Page) (off : ℕ) (v : ℕ) {s : State} (hK : K &&& 16777215 = 0) (h0 : Keeps K s0 s) :
    Keeps K s0 (applyWord who p off v s) := by
  unfold applyWord
  repeat' first
    | with_reducible assumption
    | ((with_reducible refine keeps_sub hK ?_); rfl)
    | intro x
    | with_reducible first
      | apply keeps_ite
      | apply writeHubId_keeps
      | apply writeCyc_keeps
      | apply writeSeq_keeps
      | apply writeLreg_keeps
      | apply genWord_keeps
      | apply writeIngCfg_keeps
      | apply writePrt_keeps
      | apply writeBwreg_keeps
      | apply chanWrite_keeps
      | apply completeSource_keeps
      | apply writeCoreRun_keeps
      | apply showPhase_keeps
      | apply writeFloor_keeps
      | apply setFi_keeps
      | apply writeCap_keeps
      | apply writeLdg_keeps
      | apply writeHld_keeps
      | apply writeDlk_keeps
      | apply onBit_keeps
      | apply uciStart_keeps
      | apply writePorts_keeps
      | apply writePcie_keeps
      | apply writeEth_keeps
      | apply writeRevoke_keeps
      | apply malletOff_keeps
      | apply writeClapWord_keeps
      | apply writeSch_keeps
      | apply reqTrackerInit_keeps
      | apply startEngTest_keeps
      | apply writeIsl_keeps
    | split

theorem setFreeze_keeps (p : Sys2Proof.Page) (on : Bool) {s : State} (hK : K &&& 5 = 0) (h0 : Keeps K s0 s) :
    Keeps K s0 (setFreeze p on s) := by
  unfold setFreeze
  repeat' first
    | with_reducible assumption
    | ((with_reducible refine keeps_sub hK ?_); rfl)
    | (intro x; first
      | (refine (?_ : Keeps K s0 x → _) ?_; on_goal 1 => (intro hx; clear_value x)
         on_goal 2 => unfold x)
      | clear_value x
      | skip)
    | fail_if_no_progress lift_lets
    | with_reducible first
      | apply keeps_ite
      | apply setF_keeps
    | split
    | (with_reducible apply keeps_mk; case hr => rfl)
    | ((with_reducible refine keeps_no hK ?_ (by assumption)); rfl)
    | rfl
    | exact Nat.le_refl _
    | (simp; done)

theorem softResetState_keeps (p : Sys2Proof.Page) (off : Bool) {s : State} (hK : K &&& 72709 = 0) (h0 : Keeps K s0 s) :
    Keeps K s0 (softResetState p off s) := by
  unfold softResetState
  repeat' first
    | with_reducible assumption
    | ((with_reducible refine keeps_sub hK ?_); rfl)
    | (intro x; first
      | (refine (?_ : Keeps K s0 x → _) ?_; on_goal 1 => (intro hx; clear_value x)
         on_goal 2 => unfold x)
      | clear_value x
      | skip)
    | fail_if_no_progress lift_lets
    | with_reducible first
      | apply keeps_ite
      | apply showFus_keeps
      | apply record_keeps
      | apply setF_keeps
    | split
    | (with_reducible apply keeps_mk; case hr => rfl)
    | ((with_reducible refine keeps_no hK ?_ (by assumption)); rfl)
    | rfl
    | exact Nat.le_refl _
    | (simp; done)

theorem softReset_keeps (p : Sys2Proof.Page) {s : State} (hK : K &&& 72709 = 0) (h0 : Keeps K s0 s) :
    Keeps K s0 (softReset p s) := by
  unfold softReset
  repeat' first
    | with_reducible assumption
    | ((with_reducible refine keeps_sub hK ?_); rfl)
    | with_reducible first
      | apply softResetState_keeps
      | apply resetPageFrom_keeps

theorem writePageCtl_keeps (p : Sys2Proof.Page) (v : ℕ) {s : State} (hK : K &&& 72709 = 0) (h0 : Keeps K s0 s) :
    Keeps K s0 (writePageCtl p v s) := by
  unfold writePageCtl
  repeat' first
    | with_reducible assumption
    | ((with_reducible refine keeps_sub hK ?_); rfl)
    | (intro x; first
      | (refine (?_ : Keeps K s0 x → _) ?_; on_goal 1 => (intro hx; clear_value x)
         on_goal 2 => unfold x)
      | clear_value x
      | skip)
    | fail_if_no_progress lift_lets
    | with_reducible first
      | apply keeps_ite
      | apply setFreeze_keeps
      | apply setF_keeps
      | apply softReset_keeps
      | apply record_keeps
    | split

theorem writeLock_keeps (p : Sys2Proof.Page) (v : ℕ) {s : State} (hK : K &&& 1 = 0) (h0 : Keeps K s0 s) :
    Keeps K s0 (writeLock p v s) := by
  unfold writeLock
  repeat' first
    | with_reducible assumption
    | ((with_reducible refine keeps_sub hK ?_); rfl)
    | with_reducible first
      | apply keeps_ite
      | apply setF_keeps
    | split

theorem writeOwner_keeps (p : Sys2Proof.Page) (v : ℕ) {s : State} (hK : K &&& 6149 = 0) (h0 : Keeps K s0 s) :
    Keeps K s0 (writeOwner p v s) := by
  unfold writeOwner
  repeat' first
    | with_reducible assumption
    | ((with_reducible refine keeps_sub hK ?_); rfl)
    | (intro x; first
      | (refine (?_ : Keeps K s0 x → _) ?_; on_goal 1 => (intro hx; clear_value x)
         on_goal 2 => unfold x)
      | clear_value x
      | skip)
    | fail_if_no_progress lift_lets
    | with_reducible first
      | apply keeps_ite
      | apply record_keeps
      | apply setF_keeps
    | split

theorem writeHeader_keeps (p : Sys2Proof.Page) (off : ℕ) (v : ℕ) {s : State} (hK : K &&& 72709 = 0) (h0 : Keeps K s0 s) :
    Keeps K s0 (writeHeader p off v s) := by
  unfold writeHeader
  repeat' first
    | with_reducible assumption
    | ((with_reducible refine keeps_sub hK ?_); rfl)
    | with_reducible first
      | apply keeps_ite
      | apply writePageCtl_keeps
      | apply intForce_keeps
      | apply writeLock_keeps
      | apply writeOwner_keeps
      | apply notifyEdge_keeps
      | apply genWord_keeps
    | split

theorem pageWrite_keeps (who : Sys2Proof.Agent) (p : Sys2Proof.Page) (off : ℕ) (v : ℕ) {s : State} (hK : K &&& 16777215 = 0) (h0 : Keeps K s0 s) :
    Keeps K s0 (pageWrite who p off v s) := by
  unfold pageWrite
  repeat' first
    | with_reducible assumption
    | ((with_reducible refine keeps_sub hK ?_); rfl)
    | intro x
    | with_reducible first
      | apply keeps_ite
      | apply writeHeader_keeps
      | apply underLock_keeps
      | apply applyWord_keeps
    | split

theorem controlWrite_keeps (who : Sys2Proof.Agent) (p : Sys2Proof.Page) (off : ℕ) (v : ℕ) {s : State} (hK : K &&& 16777215 = 0) (h0 : Keeps K s0 s) :
    KeepsP K s0 (controlWrite who p off v s) := by
  unfold controlWrite
  repeat' first
    | with_reducible assumption
    | ((with_reducible refine keeps_sub hK ?_); rfl)
    | (intro x; first
      | (refine (?_ : Keeps K s0 x → _) ?_; on_goal 1 => (intro hx; clear_value x)
         on_goal 2 => unfold x)
      | (refine (?_ : KeepsP K s0 x → _) ?_; on_goal 1 => (intro hx; clear_value x)
         on_goal 2 => unfold x)
      | clear_value x
      | skip)
    | fail_if_no_progress lift_lets
    | with_reducible first
      | apply keeps_ite
      | apply keepsP_ite
      | apply recordAt_keeps
      | apply pageWrite_keeps
      | exact keepsP_get (by assumption)
      | refine keepsP_eq ?_ (by assumption)
    | split
    | with_reducible apply keepsP_mk

theorem devWrite_keeps (who : Sys2Proof.Agent) (a : ℕ) (bytes : List Sys2Proof.Byte) {s : State} (hK : K &&& 16777215 = 0) (h0 : Keeps K s0 s) :
    KeepsP K s0 (devWrite who a bytes s) := by
  unfold devWrite
  repeat' first
    | with_reducible assumption
    | ((with_reducible refine keeps_sub hK ?_); rfl)
    | (intro x; first
      | (refine (?_ : Keeps K s0 x → _) ?_; on_goal 1 => (intro hx; clear_value x)
         on_goal 2 => unfold x)
      | (refine (?_ : KeepsP K s0 x → _) ?_; on_goal 1 => (intro hx; clear_value x)
         on_goal 2 => unfold x)
      | clear_value x
      | skip)
    | fail_if_no_progress lift_lets
    | with_reducible first
      | apply keeps_ite
      | apply keepsO_ite
      | apply keepsO_some
      | apply keepsP_ite
      | apply refuse_keeps
      | apply controlWrite_keeps
      | apply storeDev_keeps
      | apply chargeMem_keeps
      | exact keepsP_get (by assumption)
      | refine keepsP_eq ?_ (by assumption)
      | refine keepsP_get (p := controlWrite _ _ _ _ _) ?_
      | refine keepsP_get (p := storeDev _ _ _ _) ?_
      | refine keepsO_get ?_ (by assumption)
    | split
    | with_reducible apply keepsP_mk

theorem execDeviceAccess_keeps (by_ : Sys2Proof.Agent) (addr : ℕ) (len : ℕ) (wr : Option (List Sys2Proof.Byte)) {s : State} (hK : K &&& 16777215 = 0) (h0 : Keeps K s0 s) :
    KeepsX K s0 (execDeviceAccess by_ addr len wr s) := by
  unfold execDeviceAccess
  repeat' first
    | with_reducible assumption
    | ((with_reducible refine keeps_sub hK ?_); rfl)
    | (intro x; first
      | (refine (?_ : Keeps K s0 x → _) ?_; on_goal 1 => (intro hx; clear_value x)
         on_goal 2 => unfold x)
      | (refine (?_ : KeepsP K s0 x → _) ?_; on_goal 1 => (intro hx; clear_value x)
         on_goal 2 => unfold x)
      | (refine (?_ : KeepsT K s0 x → _) ?_; on_goal 1 => (intro hx; clear_value x)
         on_goal 2 => unfold x)
      | clear_value x
      | skip)
    | fail_if_no_progress lift_lets
    | with_reducible first
      | apply keepsX_next
      | apply devRead_keeps
      | apply answer_keeps
      | apply devWrite_keeps
      | exact keepsP_get (by assumption)
      | refine keepsP_eq ?_ (by assumption)
      | refine keepsP_get (p := devWrite _ _ _ _) ?_
      | exact keepsT_get (by assumption)
      | refine keepsT_get (p := devRead _ _ _ _) ?_
    | split
    | with_reducible apply keepsP_mk
    | with_reducible apply keepsT_mk

theorem regWrite_keeps (who : Sys2Proof.Agent) (a : ℕ) (v : ℕ) {s : State} (hK : K &&& 16777215 = 0) (h0 : Keeps K s0 s) :
    Keeps K s0 (regWrite who a v s) := by
  unfold regWrite
  repeat' first
    | with_reducible assumption
    | ((with_reducible refine keeps_sub hK ?_); rfl)
    | (intro x; first
      | (refine (?_ : Keeps K s0 x → _) ?_; on_goal 1 => (intro hx; clear_value x)
         on_goal 2 => unfold x)
      | (refine (?_ : KeepsP K s0 x → _) ?_; on_goal 1 => (intro hx; clear_value x)
         on_goal 2 => unfold x)
      | clear_value x
      | skip)
    | fail_if_no_progress lift_lets
    | with_reducible first
      | apply devWrite_keeps
      | apply answer_keeps
      | exact keepsP_get (by assumption)
      | refine keepsP_eq ?_ (by assumption)
      | refine keepsP_get (p := devWrite _ _ _ _) ?_
    | with_reducible apply keepsP_mk

theorem execIntForce_keeps (by_ : Sys2Proof.Agent) (pg : Sys2Proof.Page) (mask : Sys2Proof.Word) {s : State} (hK : K &&& 16777215 = 0) (h0 : Keeps K s0 s) :
    KeepsX K s0 (execIntForce by_ pg mask s) := by
  unfold execIntForce
  repeat' first
    | with_reducible assumption
    | ((with_reducible refine keeps_sub hK ?_); rfl)
    | with_reducible first
      | apply keepsX_next
      | apply regWrite_keeps

theorem execMalletOffWrite_keeps (by_ : Sys2Proof.Agent) {s : State} (hK : K &&& 16777215 = 0) (h0 : Keeps K s0 s) :
    KeepsX K s0 (execMalletOffWrite by_ s) := by
  unfold execMalletOffWrite
  repeat' first
    | with_reducible assumption
    | ((with_reducible refine keeps_sub hK ?_); rfl)
    | with_reducible first
      | apply keepsX_next
      | apply regWrite_keeps

theorem execOwnerWrite_keeps (by_ : Sys2Proof.Agent) (pg : Sys2Proof.Page) (owner : Sys2Proof.Byte) {s : State} (hK : K &&& 16777215 = 0) (h0 : Keeps K s0 s) :
    KeepsX K s0 (execOwnerWrite by_ pg owner s) := by
  unfold execOwnerWrite
  repeat' first
    | with_reducible assumption
    | ((with_reducible refine keeps_sub hK ?_); rfl)
    | with_reducible first
      | apply keepsX_next
      | apply regWrite_keeps

theorem execPageEnableWrite_keeps (by_ : Sys2Proof.Agent) (pg : Sys2Proof.Page) (en : Bool) {s : State} (hK : K &&& 16777215 = 0) (h0 : Keeps K s0 s) :
    KeepsX K s0 (execPageEnableWrite by_ pg en s) := by
  unfold execPageEnableWrite
  repeat' first
    | with_reducible assumption
    | ((with_reducible refine keeps_sub hK ?_); rfl)
    | with_reducible first
      | apply keeps_ite
      | apply keepsX_next
      | apply keepsX_ite
      | apply regWrite_keeps
    | split

theorem execPageFreeze_keeps (by_ : Sys2Proof.Agent) (pg : Sys2Proof.Page) (fr : Bool) {s : State} (hK : K &&& 16777215 = 0) (h0 : Keeps K s0 s) :
    KeepsX K s0 (execPageFreeze by_ pg fr s) := by
  unfold execPageFreeze
  repeat' first
    | with_reducible assumption
    | ((with_reducible refine keeps_sub hK ?_); rfl)
    | with_reducible first
      | apply keeps_ite
      | apply keepsX_next
      | apply keepsX_ite
      | apply regWrite_keeps
    | split

theorem execPageLock_keeps (by_ : Sys2Proof.Agent) (pg : Sys2Proof.Page) (v : Sys2Proof.Word) {s : State} (hK : K &&& 16777215 = 0) (h0 : Keeps K s0 s) :
    KeepsX K s0 (execPageLock by_ pg v s) := by
  unfold execPageLock
  repeat' first
    | with_reducible assumption
    | ((with_reducible refine keeps_sub hK ?_); rfl)
    | with_reducible first
      | apply keepsX_next
      | apply regWrite_keeps

theorem execPageSoftReset_keeps (by_ : Sys2Proof.Agent) (pg : Sys2Proof.Page) {s : State} (hK : K &&& 16777215 = 0) (h0 : Keeps K s0 s) :
    KeepsX K s0 (execPageSoftReset by_ pg s) := by
  unfold execPageSoftReset
  repeat' first
    | with_reducible assumption
    | ((with_reducible refine keeps_sub hK ?_); rfl)
    | with_reducible first
      | apply keepsX_next
      | apply regWrite_keeps

theorem execRegisterWrite_keeps (by_ : Sys2Proof.Agent) (addr : ℕ) (v : Sys2Proof.Word) {s : State} (hK : K &&& 16777215 = 0) (h0 : Keeps K s0 s) :
    KeepsX K s0 (execRegisterWrite by_ addr v s) := by
  unfold execRegisterWrite
  repeat' first
    | with_reducible assumption
    | ((with_reducible refine keeps_sub hK ?_); rfl)
    | with_reducible first
      | apply keepsX_next
      | apply regWrite_keeps

end Sys2Proof.Machine
end

