-- ==== Sys2Proof/Laws/KeepsMallet.lean ====
section
/-! SUPPORT. What the operations of Machine/Mallet.lean keep. -/

namespace Sys2Proof.Machine

open Sys2Proof

variable {K : Nat} {s0 : State}

theorem calibFree_keeps (a0 : List ℕ) {a1 : State} (hK : K &&& 4 = 0) (h0 : Keeps K s0 a1) :
    KeepsP K s0 (calibFree a0 a1) := by
  induction a0 generalizing a1 with
  | nil => exact h0
  | cons a r ih => exact ih (drawFree_keeps _ (keeps_sub hK rfl) h0)

theorem modMal_keeps (f : Sys2Proof.Machine.Mal → Sys2Proof.Machine.Mal) {s : State} (hK : K &&& 8388608 = 0) (h0 : Keeps K s0 s) :
    Keeps K s0 (modMal f s) := by
  unfold modMal
  repeat' first
    | with_reducible assumption
    | ((with_reducible refine keeps_sub hK ?_); rfl)
    | intro x
    | (with_reducible apply keeps_mk; case hr => rfl)
    | ((with_reducible refine keeps_no hK ?_ (by assumption)); rfl)
    | rfl
    | exact Nat.le_refl _
    | (simp; done)

theorem reply_keeps (body : List Sys2Proof.Byte) (status : List Sys2Proof.Byte) {s : State} (hK : K &&& 4 = 0) (h0 : Keeps K s0 s) :
    Keeps K s0 (reply body status s) := by
  unfold reply
  repeat' first
    | with_reducible assumption
    | ((with_reducible refine keeps_sub hK ?_); rfl)
    | with_reducible first
      | apply keeps_ite
      | apply emit_keeps
    | split

theorem challenge_keeps  {s : State} (hK : K &&& 8388612 = 0) (h0 : Keeps K s0 s) :
    Keeps K s0 (challenge s) := by
  unfold challenge
  repeat' first
    | with_reducible assumption
    | ((with_reducible refine keeps_sub hK ?_); rfl)
    | (intro x; first
      | (refine (?_ : Keeps K s0 x → _) ?_; on_goal 1 => (intro hx; clear_value x)
         on_goal 2 => unfold x)
      | clear_value x
      | skip)
    | fail_if_no_progress lift_lets
    | with_reducible first
      | apply modMal_keeps
      | apply reply_keeps
    | (with_reducible apply keeps_mk; case hr => rfl)
    | ((with_reducible refine keeps_no hK ?_ (by assumption)); rfl)
    | rfl
    | exact Nat.le_refl _
    | (simp; done)

theorem dump_keeps (a0 : ℕ) (a1 : ℕ) (a2 : ℕ) (a3 : ℕ) {a4 : State} (hK : K &&& 8165 = 0) (h0 : Keeps K s0 a4) :
    KeepsT K s0 (dump a0 a1 a2 a3 a4) := by
  induction a0 generalizing a1 a2 a3 a4 with
  | zero => exact h0
  | succ k ih =>
    unfold dump
    refine keepsT_ite h0 ?_
    exact ih _ _ _ (devRead_keeps _ _ _ (keeps_sub hK rfl) h0)

theorem dumpReply_keeps (a : ℕ) (n : ℕ) {s : State} (hK : K &&& 8165 = 0) (h0 : Keeps K s0 s) :
    Keeps K s0 (dumpReply a n s) := by
  unfold dumpReply
  repeat' first
    | with_reducible assumption
    | ((with_reducible refine keeps_sub hK ?_); rfl)
    | (intro x; first
      | (refine (?_ : Keeps K s0 x → _) ?_; on_goal 1 => (intro hx; clear_value x)
         on_goal 2 => unfold x)
      | (refine (?_ : KeepsT K s0 x → _) ?_; on_goal 1 => (intro hx; clear_value x)
         on_goal 2 => unfold x)
      | clear_value x
      | skip)
    | fail_if_no_progress lift_lets
    | with_reducible first
      | apply keeps_ite
      | apply keepsT_ite
      | apply dump_keeps
      | apply reply_keeps
      | exact keepsT_get (by assumption)
      | refine keepsT_get (p := dump _ _ _ _ _) ?_
    | split
    | with_reducible apply keepsT_mk

theorem errShow_keeps (a : ℕ) {s : State} (hK : K &&& 8165 = 0) (h0 : Keeps K s0 s) :
    KeepsT K s0 (errShow a s) := by
  unfold errShow
  repeat' first
    | with_reducible assumption
    | ((with_reducible refine keeps_sub hK ?_); rfl)
    | (intro x; first
      | (refine (?_ : Keeps K s0 x → _) ?_; on_goal 1 => (intro hx; clear_value x)
         on_goal 2 => unfold x)
      | (refine (?_ : KeepsT K s0 x → _) ?_; on_goal 1 => (intro hx; clear_value x)
         on_goal 2 => unfold x)
      | clear_value x
      | skip)
    | fail_if_no_progress lift_lets
    | with_reducible first
      | apply devRead_keeps
      | exact keepsT_get (by assumption)
      | refine keepsT_get (p := devRead _ _ _ _) ?_
    | with_reducible apply keepsT_mk

theorem setSession_keeps (v : ℕ) {s : State} (hK : K &&& 1 = 0) (h0 : Keeps K s0 s) :
    Keeps K s0 (setSession v s) := by
  unfold setSession
  repeat' first
    | with_reducible assumption
    | ((with_reducible refine keeps_sub hK ?_); rfl)
    | with_reducible apply setF_keeps

theorem onLine_keeps (f : Sys2Proof.Machine.State → Sys2Proof.Machine.State) {s : State} (hK : K &&& 8388609 = 0) (h0 : ∀ u0, Keeps K s0 u0 → Keeps K s0 (f u0)) (h1 : Keeps K s0 s) :
    Keeps K s0 (onLine f s) := by
  unfold onLine
  repeat' first
    | with_reducible assumption
    | ((with_reducible refine keeps_sub hK ?_); rfl)
    | (intro x; first
      | (refine (?_ : Keeps K s0 x → _) ?_; on_goal 1 => (intro hx; clear_value x)
         on_goal 2 => unfold x)
      | clear_value x
      | skip)
    | fail_if_no_progress lift_lets
    | with_reducible first
      | apply keeps_ite
      | apply modMal_keeps
      | apply setSession_keeps
      | apply h0
    | split
    | (with_reducible apply keeps_mk; case hr => rfl)
    | ((with_reducible refine keeps_no hK ?_ (by assumption)); rfl)
    | rfl
    | exact Nat.le_refl _
    | (simp; done)

theorem execMalletBadLine_keeps  {s : State} (hK : K &&& 8388613 = 0) (h0 : Keeps K s0 s) :
    KeepsX K s0 (execMalletBadLine s) := by
  unfold execMalletBadLine
  repeat' first
    | with_reducible assumption
    | ((with_reducible refine keeps_sub hK ?_); rfl)
    | intro x
    | with_reducible first
      | apply keepsX_next
      | apply onLine_keeps
      | apply reply_keeps

theorem malBaud_keeps (r : ℕ) {s : State} (hK : K &&& 5 = 0) (h0 : Keeps K s0 s) :
    Keeps K s0 (malBaud r s) := by
  unfold malBaud
  repeat' first
    | with_reducible assumption
    | ((with_reducible refine keeps_sub hK ?_); rfl)
    | (intro x; first
      | (refine (?_ : Keeps K s0 x → _) ?_; on_goal 1 => (intro hx; clear_value x)
         on_goal 2 => unfold x)
      | clear_value x
      | skip)
    | fail_if_no_progress lift_lets
    | with_reducible first
      | apply keeps_ite
      | apply reply_keeps
      | apply setF_keeps
    | split

theorem execMalletBaud_keeps (r : ℕ) {s : State} (hK : K &&& 8388613 = 0) (h0 : Keeps K s0 s) :
    KeepsX K s0 (execMalletBaud r s) := by
  unfold execMalletBaud
  repeat' first
    | with_reducible assumption
    | ((with_reducible refine keeps_sub hK ?_); rfl)
    | intro x
    | with_reducible first
      | apply keepsX_next
      | apply onLine_keeps
      | apply malBaud_keeps

theorem malCommit_keeps (j : Sys2Proof.Machine.LdgJob) {s : State} (hK : K &&& 6149 = 0) (h0 : Keeps K s0 s) :
    Keeps K s0 (malCommit j s) := by
  unfold malCommit
  repeat' first
    | with_reducible assumption
    | ((with_reducible refine keeps_sub hK ?_); rfl)
    | with_reducible first
      | apply keeps_ite
      | apply reply_keeps
      | apply commit_keeps
      | apply record_keeps
    | split

theorem malCalib_keeps (a : ℕ) (len : ℕ) {s : State} (hK : K &&& 6149 = 0) (h0 : Keeps K s0 s) :
    Keeps K s0 (malCalib a len s) := by
  unfold malCalib
  repeat' first
    | with_reducible assumption
    | ((with_reducible refine keeps_sub hK ?_); rfl)
    | (intro x; first
      | (refine (?_ : Keeps K s0 x → _) ?_; on_goal 1 => (intro hx; clear_value x)
         on_goal 2 => unfold x)
      | (refine (?_ : KeepsP K s0 x → _) ?_; on_goal 1 => (intro hx; clear_value x)
         on_goal 2 => unfold x)
      | clear_value x
      | skip)
    | fail_if_no_progress lift_lets
    | with_reducible first
      | apply keeps_ite
      | apply keepsP_ite
      | apply reply_keeps
      | apply malCommit_keeps
      | apply calibFree_keeps
      | exact keepsP_get (by assumption)
      | refine keepsP_eq ?_ (by assumption)
      | refine keepsP_get (p := calibFree _ _) ?_
    | split
    | with_reducible apply keepsP_mk
    | (with_reducible apply keeps_mk; case hr => rfl)
    | ((with_reducible refine keeps_no hK ?_ (by assumption)); rfl)
    | rfl
    | exact Nat.le_refl _
    | (simp; done)

theorem execMalletCalib_keeps (a : ℕ) (len : ℕ) {s : State} (hK : K &&& 8394757 = 0) (h0 : Keeps K s0 s) :
    KeepsX K s0 (execMalletCalib a len s) := by
  unfold execMalletCalib
  repeat' first
    | with_reducible assumption
    | ((with_reducible refine keeps_sub hK ?_); rfl)
    | intro x
    | with_reducible first
      | apply keepsX_next
      | apply onLine_keeps
      | apply malCalib_keeps

theorem malCensus_keeps  {s : State} (hK : K &&& 6149 = 0) (h0 : Keeps K s0 s) :
    Keeps K s0 (malCensus s) := by
  unfold malCensus
  repeat' first
    | with_reducible assumption
    | ((with_reducible refine keeps_sub hK ?_); rfl)
    | intro x
    | with_reducible first
      | apply keeps_ite
      | apply malCommit_keeps
      | apply reply_keeps
    | split
    | (with_reducible apply keeps_mk; case hr => rfl)
    | ((with_reducible refine keeps_no hK ?_ (by assumption)); rfl)
    | rfl
    | exact Nat.le_refl _
    | (simp; done)

theorem execMalletCensus_keeps  {s : State} (hK : K &&& 8394757 = 0) (h0 : Keeps K s0 s) :
    KeepsX K s0 (execMalletCensus s) := by
  unfold execMalletCensus
  repeat' first
    | with_reducible assumption
    | ((with_reducible refine keeps_sub hK ?_); rfl)
    | intro x
    | with_reducible first
      | apply keepsX_next
      | apply onLine_keeps
      | apply malCensus_keeps

theorem malStore_keeps (a : ℕ) (v : ℕ) {s : State} (hK : K &&& 16777215 = 0) (h0 : Keeps K s0 s) :
    KeepsP K s0 (malStore a v s) := by
  unfold malStore
  repeat' first
    | with_reducible assumption
    | ((with_reducible refine keeps_sub hK ?_); rfl)
    | (intro x; first
      | (refine (?_ : Keeps K s0 x → _) ?_; on_goal 1 => (intro hx; clear_value x)
         on_goal 2 => unfold x)
      | (refine (?_ : KeepsP K s0 x → _) ?_; on_goal 1 => (intro hx; clear_value x)
         on_goal 2 => unfold x)
      | clear_value x
      | skip)
    | fail_if_no_progress lift_lets
    | with_reducible first
      | apply devWrite_keeps
      | exact keepsP_get (by assumption)
      | refine keepsP_eq ?_ (by assumption)
      | refine keepsP_get (p := devWrite _ _ _ _) ?_
    | with_reducible apply keepsP_mk

theorem ifUnlocked_keeps (f : Sys2Proof.Machine.State → Sys2Proof.Machine.State) {s : State} (hK : K &&& 4 = 0) (h0 : ∀ u0, Keeps K s0 u0 → Keeps K s0 (f u0)) (h1 : Keeps K s0 s) :
    Keeps K s0 (ifUnlocked f s) := by
  unfold ifUnlocked
  repeat' first
    | with_reducible assumption
    | ((with_reducible refine keeps_sub hK ?_); rfl)
    | intro x
    | with_reducible first
      | apply keeps_ite
      | apply reply_keeps
      | apply h0
    | split

theorem ifWritable_keeps (f : Sys2Proof.Machine.State → Sys2Proof.Machine.State) {s : State} (hK : K &&& 4 = 0) (h0 : ∀ u0, Keeps K s0 u0 → Keeps K s0 (f u0)) (h1 : Keeps K s0 s) :
    Keeps K s0 (ifWritable f s) := by
  unfold ifWritable
  repeat' first
    | with_reducible assumption
    | ((with_reducible refine keeps_sub hK ?_); rfl)
    | intro x
    | with_reducible first
      | apply keeps_ite
      | apply ifUnlocked_keeps
      | apply reply_keeps
      | apply h0
    | split

theorem malErr_keeps (a : ℕ) (clr : Bool) {s : State} (hK : K &&& 16777215 = 0) (h0 : Keeps K s0 s) :
    Keeps K s0 (malErr a clr s) := by
  unfold malErr
  repeat' first
    | with_reducible assumption
    | ((with_reducible refine keeps_sub hK ?_); rfl)
    | (intro x; first
      | (refine (?_ : Keeps K s0 x → _) ?_; on_goal 1 => (intro hx; clear_value x)
         on_goal 2 => unfold x)
      | (refine (?_ : KeepsP K s0 x → _) ?_; on_goal 1 => (intro hx; clear_value x)
         on_goal 2 => unfold x)
      | (refine (?_ : KeepsT K s0 x → _) ?_; on_goal 1 => (intro hx; clear_value x)
         on_goal 2 => unfold x)
      | clear_value x
      | skip)
    | fail_if_no_progress lift_lets
    | with_reducible first
      | apply keeps_ite
      | apply keepsT_ite
      | apply keepsP_ite
      | apply reply_keeps
      | apply errShow_keeps
      | apply malStore_keeps
      | apply ifWritable_keeps
      | apply ifUnlocked_keeps
      | exact keepsP_get (by assumption)
      | refine keepsP_eq ?_ (by assumption)
      | refine keepsP_get (p := malStore _ _ _) ?_
      | exact keepsT_get (by assumption)
      | refine keepsT_get (p := errShow _ _) ?_
    | split
    | with_reducible apply keepsP_mk
    | with_reducible apply keepsT_mk

theorem execMalletErr_keeps (a : ℕ) (clr : Bool) {s : State} (hK : K &&& 16777215 = 0) (h0 : Keeps K s0 s) :
    KeepsX K s0 (execMalletErr a clr s) := by
  unfold execMalletErr
  repeat' first
    | with_reducible assumption
    | ((with_reducible refine keeps_sub hK ?_); rfl)
    | intro x
    | with_reducible first
      | apply keepsX_next
      | apply onLine_keeps
      | apply malErr_keeps

theorem malHelp_keeps  {s : State} (hK : K &&& 4 = 0) (h0 : Keeps K s0 s) :
    Keeps K s0 (malHelp s) := by
  unfold malHelp
  repeat' first
    | with_reducible assumption
    | ((with_reducible refine keeps_sub hK ?_); rfl)
    | intro x
    | with_reducible apply reply_keeps

theorem execMalletHelp_keeps  {s : State} (hK : K &&& 8388613 = 0) (h0 : Keeps K s0 s) :
    KeepsX K s0 (execMalletHelp s) := by
  unfold execMalletHelp
  repeat' first
    | with_reducible assumption
    | ((with_reducible refine keeps_sub hK ?_); rfl)
    | intro x
    | with_reducible first
      | apply keepsX_next
      | apply onLine_keeps
      | apply malHelp_keeps

theorem malId_keeps  {s : State} (hK : K &&& 4 = 0) (h0 : Keeps K s0 s) :
    Keeps K s0 (malId s) := by
  unfold malId
  repeat' first
    | with_reducible assumption
    | ((with_reducible refine keeps_sub hK ?_); rfl)
    | (intro x; first
      | (refine (?_ : Keeps K s0 x → _) ?_; on_goal 1 => (intro hx; clear_value x)
         on_goal 2 => unfold x)
      | clear_value x
      | skip)
    | fail_if_no_progress lift_lets
    | with_reducible first
      | apply keeps_ite
      | apply reply_keeps
    | split

theorem execMalletId_keeps  {s : State} (hK : K &&& 8388613 = 0) (h0 : Keeps K s0 s) :
    KeepsX K s0 (execMalletId s) := by
  unfold execMalletId
  repeat' first
    | with_reducible assumption
    | ((with_reducible refine keeps_sub hK ?_); rfl)
    | intro x
    | with_reducible first
      | apply keepsX_next
      | apply onLine_keeps
      | apply malId_keeps

theorem execMalletLock_keeps  {s : State} (hK : K &&& 8388613 = 0) (h0 : Keeps K s0 s) :
    KeepsX K s0 (execMalletLock s) := by
  unfold execMalletLock
  repeat' first
    | with_reducible assumption
    | ((with_reducible refine keeps_sub hK ?_); rfl)
    | intro x
    | with_reducible first
      | apply keepsX_next
      | apply onLine_keeps
      | apply reply_keeps
      | apply setSession_keeps
      | apply modMal_keeps
    | (with_reducible apply keeps_mk; case hr => rfl)
    | ((with_reducible refine keeps_no hK ?_ (by assumption)); rfl)
    | rfl
    | exact Nat.le_refl _
    | (simp; done)

theorem malLog_keeps (n : ℕ) {s : State} (hK : K &&& 4 = 0) (h0 : Keeps K s0 s) :
    Keeps K s0 (malLog n s) := by
  unfold malLog
  repeat' first
    | with_reducible assumption
    | ((with_reducible refine keeps_sub hK ?_); rfl)
    | intro x
    | with_reducible first
      | apply keeps_ite
      | apply reply_keeps
      | apply ifUnlocked_keeps
    | split

theorem execMalletLog_keeps (n : ℕ) {s : State} (hK : K &&& 8388613 = 0) (h0 : Keeps K s0 s) :
    KeepsX K s0 (execMalletLog n s) := by
  unfold execMalletLog
  repeat' first
    | with_reducible assumption
    | ((with_reducible refine keeps_sub hK ?_); rfl)
    | intro x
    | with_reducible first
      | apply keepsX_next
      | apply onLine_keeps
      | apply malLog_keeps

theorem malMd_keeps (a : ℕ) (n : ℕ) {s : State} (hK : K &&& 8165 = 0) (h0 : Keeps K s0 s) :
    Keeps K s0 (malMd a n s) := by
  unfold malMd
  repeat' first
    | with_reducible assumption
    | ((with_reducible refine keeps_sub hK ?_); rfl)
    | intro x
    | with_reducible first
      | apply keeps_ite
      | apply reply_keeps
      | apply ifUnlocked_keeps
      | apply dumpReply_keeps
    | split

theorem execMalletMd_keeps (a : ℕ) (n : ℕ) {s : State} (hK : K &&& 8396773 = 0) (h0 : Keeps K s0 s) :
    KeepsX K s0 (execMalletMd a n s) := by
  unfold execMalletMd
  repeat' first
    | with_reducible assumption
    | ((with_reducible refine keeps_sub hK ?_); rfl)
    | intro x
    | with_reducible first
      | apply keepsX_next
      | apply onLine_keeps
      | apply malMd_keeps

theorem storeReply_keeps (a : ℕ) (v : ℕ) {s : State} (hK : K &&& 16777215 = 0) (h0 : Keeps K s0 s) :
    Keeps K s0 (storeReply a v s) := by
  unfold storeReply
  repeat' first
    | with_reducible assumption
    | ((with_reducible refine keeps_sub hK ?_); rfl)
    | (intro x; first
      | (refine (?_ : Keeps K s0 x → _) ?_; on_goal 1 => (intro hx; clear_value x)
         on_goal 2 => unfold x)
      | (refine (?_ : KeepsP K s0 x → _) ?_; on_goal 1 => (intro hx; clear_value x)
         on_goal 2 => unfold x)
      | clear_value x
      | skip)
    | fail_if_no_progress lift_lets
    | with_reducible first
      | apply keeps_ite
      | apply keepsP_ite
      | apply malStore_keeps
      | apply dumpReply_keeps
      | apply reply_keeps
      | exact keepsP_get (by assumption)
      | refine keepsP_eq ?_ (by assumption)
      | refine keepsP_get (p := malStore _ _ _) ?_
    | split
    | with_reducible apply keepsP_mk

theorem malMw_keeps (a : ℕ) (v : ℕ) {s : State} (hK : K &&& 16777215 = 0) (h0 : Keeps K s0 s) :
    Keeps K s0 (malMw a v s) := by
  unfold malMw
  repeat' first
    | with_reducible assumption
    | ((with_reducible refine keeps_sub hK ?_); rfl)
    | intro x
    | with_reducible first
      | apply keeps_ite
      | apply reply_keeps
      | apply ifWritable_keeps
      | apply storeReply_keeps
    | split

theorem execMalletMw_keeps (a : ℕ) (v : Sys2Proof.Word) {s : State} (hK : K &&& 16777215 = 0) (h0 : Keeps K s0 s) :
    KeepsX K s0 (execMalletMw a v s) := by
  unfold execMalletMw
  repeat' first
    | with_reducible assumption
    | ((with_reducible refine keeps_sub hK ?_); rfl)
    | intro x
    | with_reducible first
      | apply keepsX_next
      | apply onLine_keeps
      | apply malMw_keeps

theorem execMalletOff_keeps  {s : State} (hK : K &&& 8388613 = 0) (h0 : Keeps K s0 s) :
    KeepsX K s0 (execMalletOff s) := by
  unfold execMalletOff
  repeat' first
    | with_reducible assumption
    | ((with_reducible refine keeps_sub hK ?_); rfl)
    | intro x
    | with_reducible first
      | apply keepsX_next
      | apply onLine_keeps
      | apply malletOff_keeps
      | apply reply_keeps

theorem malRd_keeps (a : ℕ) (n : ℕ) {s : State} (hK : K &&& 8165 = 0) (h0 : Keeps K s0 s) :
    Keeps K s0 (malRd a n s) := by
  unfold malRd
  repeat' first
    | with_reducible assumption
    | ((with_reducible refine keeps_sub hK ?_); rfl)
    | intro x
    | with_reducible first
      | apply keeps_ite
      | apply reply_keeps
      | apply ifUnlocked_keeps
      | apply dumpReply_keeps
    | split

theorem execMalletRd_keeps (a : ℕ) (n : ℕ) {s : State} (hK : K &&& 8396773 = 0) (h0 : Keeps K s0 s) :
    KeepsX K s0 (execMalletRd a n s) := by
  unfold execMalletRd
  repeat' first
    | with_reducible assumption
    | ((with_reducible refine keeps_sub hK ?_); rfl)
    | intro x
    | with_reducible first
      | apply keepsX_next
      | apply onLine_keeps
      | apply malRd_keeps

theorem execMalletReset_keeps  {s : State} (hK : K &&& 16777213 = 0) (h0 : Keeps K s0 s) :
    KeepsX K s0 (execMalletReset s) := by
  unfold execMalletReset
  repeat' first
    | with_reducible assumption
    | ((with_reducible refine keeps_sub hK ?_); rfl)
    | intro x
    | with_reducible first
      | apply keepsX_next
      | apply onLine_keeps
      | apply ifUnlocked_keeps
      | apply coldReset_keeps
      | apply reply_keeps

theorem execMalletSessionTimeout_keeps (t : ℕ) {s : State} (hK : K &&& 8388613 = 0) (h0 : Keeps K s0 s) :
    KeepsX K s0 (execMalletSessionTimeout t s) := by
  unfold execMalletSessionTimeout
  repeat' first
    | with_reducible assumption
    | ((with_reducible refine keeps_sub hK ?_); rfl)
    | (intro x; first
      | (refine (?_ : Keeps K s0 x → _) ?_; on_goal 1 => (intro hx; clear_value x)
         on_goal 2 => unfold x)
      | clear_value x
      | skip)
    | fail_if_no_progress lift_lets
    | with_reducible first
      | apply keeps_ite
      | apply keepsX_next
      | apply keepsX_ite
      | apply at_keeps
      | apply setSession_keeps
      | apply modMal_keeps
    | split
    | (with_reducible apply keeps_mk; case hr => rfl)
    | ((with_reducible refine keeps_no hK ?_ (by assumption)); rfl)
    | rfl
    | exact Nat.le_refl _
    | (simp; done)

theorem malStat_keeps  {s : State} (hK : K &&& 4 = 0) (h0 : Keeps K s0 s) :
    Keeps K s0 (malStat s) := by
  unfold malStat
  repeat' first
    | with_reducible assumption
    | ((with_reducible refine keeps_sub hK ?_); rfl)
    | (intro x; first
      | (refine (?_ : Keeps K s0 x → _) ?_; on_goal 1 => (intro hx; clear_value x)
         on_goal 2 => unfold x)
      | clear_value x
      | skip)
    | fail_if_no_progress lift_lets
    | with_reducible first
      | apply keeps_ite
      | apply reply_keeps
    | split

theorem execMalletStat_keeps  {s : State} (hK : K &&& 8388613 = 0) (h0 : Keeps K s0 s) :
    KeepsX K s0 (execMalletStat s) := by
  unfold execMalletStat
  repeat' first
    | with_reducible assumption
    | ((with_reducible refine keeps_sub hK ?_); rfl)
    | intro x
    | with_reducible first
      | apply keepsX_next
      | apply onLine_keeps
      | apply malStat_keeps

theorem unlockRefused_keeps  {s : State} (hK : K &&& 8388612 = 0) (h0 : Keeps K s0 s) :
    Keeps K s0 (unlockRefused s) := by
  unfold unlockRefused
  repeat' first
    | with_reducible assumption
    | ((with_reducible refine keeps_sub hK ?_); rfl)
    | intro x
    | with_reducible first
      | apply reply_keeps
      | apply modMal_keeps
    | (with_reducible apply keeps_mk; case hr => rfl)
    | ((with_reducible refine keeps_no hK ?_ (by assumption)); rfl)
    | rfl
    | exact Nat.le_refl _
    | (simp; done)

theorem unlocking_keeps (f : Sys2Proof.Machine.State → Sys2Proof.Machine.State) (g : Sys2Proof.Machine.State → Sys2Proof.Machine.State) {s : State} (hK : K &&& 8388612 = 0) (h0 : ∀ u0, Keeps K s0 u0 → Keeps K s0 (f u0)) (h1 : ∀ u0, Keeps K s0 u0 → Keeps K s0 (g u0)) (h2 : Keeps K s0 s) :
    Keeps K s0 (unlocking f g s) := by
  unfold unlocking
  repeat' first
    | with_reducible assumption
    | ((with_reducible refine keeps_sub hK ?_); rfl)
    | intro x
    | with_reducible first
      | apply keeps_ite
      | apply unlockRefused_keeps
      | apply h0
      | apply h1
    | split

theorem unlockFree_keeps  {s : State} (hK : K &&& 5 = 0) (h0 : Keeps K s0 s) :
    Keeps K s0 (unlockFree s) := by
  unfold unlockFree
  repeat' first
    | with_reducible assumption
    | ((with_reducible refine keeps_sub hK ?_); rfl)
    | with_reducible first
      | apply reply_keeps
      | apply setSession_keeps

theorem execMalletUnlock_keeps (t : ℕ) {s : State} (hK : K &&& 8388613 = 0) (h0 : Keeps K s0 s) :
    KeepsX K s0 (execMalletUnlock t s) := by
  unfold execMalletUnlock
  repeat' first
    | with_reducible assumption
    | ((with_reducible refine keeps_sub hK ?_); rfl)
    | (intro x; first
      | (refine (?_ : Keeps K s0 x → _) ?_; on_goal 1 => (intro hx; clear_value x)
         on_goal 2 => unfold x)
      | (refine (?_ : KeepsP K s0 x → _) ?_; on_goal 1 => (intro hx; clear_value x)
         on_goal 2 => unfold x)
      | (refine (?_ : KeepsT K s0 x → _) ?_; on_goal 1 => (intro hx; clear_value x)
         on_goal 2 => unfold x)
      | clear_value x
      | skip)
    | fail_if_no_progress lift_lets
    | with_reducible first
      | apply keeps_ite
      | apply keeps_foldl
      | apply keeps_id
      | apply keepsX_next
      | apply keepsX_ite
      | apply onLine_keeps
      | apply unlocking_keeps
      | apply unlockFree_keeps
      | apply challenge_keeps
      | apply at_keeps
    | split
    | (with_reducible apply keeps_mk; case hr => rfl)
    | ((with_reducible refine keeps_no hK ?_ (by assumption)); rfl)
    | rfl
    | exact Nat.le_refl _
    | (simp; done)

theorem execMalletUnlockData_keeps (a0 : List Sys2Proof.Byte) {s : State} (hK : K &&& 8388613 = 0) (h0 : Keeps K s0 s) :
    KeepsX K s0 (execMalletUnlockData a0 s) := by
  unfold execMalletUnlockData
  repeat' first
    | with_reducible assumption
    | ((with_reducible refine keeps_sub hK ?_); rfl)
    | intro x
    | with_reducible first
      | apply keeps_ite
      | apply keepsX_next
      | apply keepsX_ite
      | apply onLine_keeps
      | apply reply_keeps
      | apply unlocking_keeps
      | apply unlockFree_keeps
      | apply modMal_keeps
    | split
    | (with_reducible apply keeps_mk; case hr => rfl)
    | ((with_reducible refine keeps_no hK ?_ (by assumption)); rfl)
    | rfl
    | exact Nat.le_refl _
    | (simp; done)

theorem unlockEnd_keeps (sigOk : Bool) (keyOk : Bool) {s : State} (hK : K &&& 8388613 = 0) (h0 : Keeps K s0 s) :
    Keeps K s0 (unlockEnd sigOk keyOk s) := by
  unfold unlockEnd
  repeat' first
    | with_reducible assumption
    | ((with_reducible refine keeps_sub hK ?_); rfl)
    | intro x
    | with_reducible first
      | apply keeps_ite
      | apply reply_keeps
      | apply setSession_keeps
      | apply modMal_keeps
      | apply unlockRefused_keeps
    | split
    | (with_reducible apply keeps_mk; case hr => rfl)
    | ((with_reducible refine keeps_no hK ?_ (by assumption)); rfl)
    | rfl
    | exact Nat.le_refl _
    | (simp; done)

theorem execMalletUnlockEnd_keeps (sigOk : Bool) (keyOk : Bool) (t : ℕ) {s : State} (hK : K &&& 8388613 = 0) (h0 : Keeps K s0 s) :
    KeepsX K s0 (execMalletUnlockEnd sigOk keyOk t s) := by
  unfold execMalletUnlockEnd
  repeat' first
    | with_reducible assumption
    | ((with_reducible refine keeps_sub hK ?_); rfl)
    | (intro x; first
      | (refine (?_ : Keeps K s0 x → _) ?_; on_goal 1 => (intro hx; clear_value x)
         on_goal 2 => unfold x)
      | (refine (?_ : KeepsP K s0 x → _) ?_; on_goal 1 => (intro hx; clear_value x)
         on_goal 2 => unfold x)
      | (refine (?_ : KeepsT K s0 x → _) ?_; on_goal 1 => (intro hx; clear_value x)
         on_goal 2 => unfold x)
      | clear_value x
      | skip)
    | fail_if_no_progress lift_lets
    | with_reducible first
      | apply keeps_ite
      | apply keeps_foldl
      | apply keeps_id
      | apply keepsX_next
      | apply keepsX_ite
      | apply onLine_keeps
      | apply unlocking_keeps
      | apply unlockFree_keeps
      | apply unlockEnd_keeps
      | apply at_keeps
    | split
    | (with_reducible apply keeps_mk; case hr => rfl)
    | ((with_reducible refine keeps_no hK ?_ (by assumption)); rfl)
    | rfl
    | exact Nat.le_refl _
    | (simp; done)

theorem execMalletUnlockKey_keeps (k : ℕ) {s : State} (hK : K &&& 8388613 = 0) (h0 : Keeps K s0 s) :
    KeepsX K s0 (execMalletUnlockKey k s) := by
  unfold execMalletUnlockKey
  repeat' first
    | with_reducible assumption
    | ((with_reducible refine keeps_sub hK ?_); rfl)
    | intro x
    | with_reducible first
      | apply keeps_ite
      | apply keepsX_next
      | apply keepsX_ite
      | apply onLine_keeps
      | apply reply_keeps
      | apply unlocking_keeps
      | apply unlockFree_keeps
      | apply modMal_keeps
    | split
    | (with_reducible apply keeps_mk; case hr => rfl)
    | ((with_reducible refine keeps_no hK ?_ (by assumption)); rfl)
    | rfl
    | exact Nat.le_refl _
    | (simp; done)

theorem malWr_keeps (a : ℕ) (v : ℕ) {s : State} (hK : K &&& 16777215 = 0) (h0 : Keeps K s0 s) :
    Keeps K s0 (malWr a v s) := by
  unfold malWr
  repeat' first
    | with_reducible assumption
    | ((with_reducible refine keeps_sub hK ?_); rfl)
    | intro x
    | with_reducible first
      | apply keeps_ite
      | apply reply_keeps
      | apply ifWritable_keeps
      | apply storeReply_keeps
    | split

theorem execMalletWr_keeps (a : ℕ) (v : Sys2Proof.Word) {s : State} (hK : K &&& 16777215 = 0) (h0 : Keeps K s0 s) :
    KeepsX K s0 (execMalletWr a v s) := by
  unfold execMalletWr
  repeat' first
    | with_reducible assumption
    | ((with_reducible refine keeps_sub hK ?_); rfl)
    | intro x
    | with_reducible first
      | apply keepsX_next
      | apply onLine_keeps
      | apply malWr_keeps

theorem execReceivedCharacter_keeps (c : Sys2Proof.Byte) (framing : Bool) (t : ℕ) {s : State} (hK : K &&& 8388613 = 0) (h0 : Keeps K s0 s) :
    KeepsX K s0 (execReceivedCharacter c framing t s) := by
  unfold execReceivedCharacter
  repeat' first
    | with_reducible assumption
    | ((with_reducible refine keeps_sub hK ?_); rfl)
    | (intro x; first
      | (refine (?_ : Keeps K s0 x → _) ?_; on_goal 1 => (intro hx; clear_value x)
         on_goal 2 => unfold x)
      | clear_value x
      | skip)
    | fail_if_no_progress lift_lets
    | with_reducible first
      | apply keeps_ite
      | apply keepsX_next
      | apply keepsX_ite
      | apply at_keeps
      | apply bump_keeps
      | apply emit_keeps
      | apply modMal_keeps
    | split
    | (with_reducible apply keeps_mk; case hr => rfl)
    | ((with_reducible refine keeps_no hK ?_ (by assumption)); rfl)
    | rfl
    | exact Nat.le_refl _
    | (simp; done)

end Sys2Proof.Machine
end

