-- ==== Sys2Proof/Laws/KeepsCopies.lean ====
section
/-! SUPPORT. What the operations of Machine/Copies.lean keep. -/

namespace Sys2Proof.Machine

open Sys2Proof

variable {K : Nat} {s0 : State}

theorem copyEnds_keeps (c : ℕ) (bytes : List Sys2Proof.Byte) {s : State} (hK : K &&& 16777215 = 0) (h0 : Keeps K s0 s) :
    Keeps K s0 (copyEnds c bytes s) := by
  unfold copyEnds
  repeat' first
    | with_reducible assumption
    | ((with_reducible refine keeps_sub hK ?_); rfl)
    | (intro x; first
      | (refine (?_ : Keeps K s0 x → _) ?_; on_goal 1 => (intro hx; clear_value x)
         on_goal 2 => unfold x)
      | (refine (?_ : KeepsP K s0 x → _) ?_; on_goal 1 => (intro hx; clear_value x)
         on_goal 2 => unfold x)
      | clear_value x
      | skip)
    | fail_if_no_progress lift_lets
    | with_reducible first
      | apply keeps_ite
      | apply keepsP_ite
      | apply devWrite_keeps
      | apply setFi_keeps
      | exact keepsP_get (by assumption)
      | refine keepsP_eq ?_ (by assumption)
      | refine keepsP_get (p := devWrite _ _ _ _) ?_
    | split
    | with_reducible apply keepsP_mk
    | (with_reducible apply keeps_mk; case hr => rfl)
    | ((with_reducible refine keeps_no hK ?_ (by assumption)); rfl)
    | rfl
    | exact Nat.le_refl _
    | (simp; done)

theorem dmaCopy_keeps (d : ℕ) (bytes : List Sys2Proof.Byte) {s : State} (hK : K &&& 16777215 = 0) (h0 : Keeps K s0 s) :
    Keeps K s0 (dmaCopy d bytes s) := by
  unfold dmaCopy
  repeat' first
    | with_reducible assumption
    | ((with_reducible refine keeps_sub hK ?_); rfl)
    | (intro x; first
      | (refine (?_ : Keeps K s0 x → _) ?_; on_goal 1 => (intro hx; clear_value x)
         on_goal 2 => unfold x)
      | (refine (?_ : KeepsP K s0 x → _) ?_; on_goal 1 => (intro hx; clear_value x)
         on_goal 2 => unfold x)
      | (refine (?_ : KeepsT K s0 x → _) ?_; on_goal 1 => (intro hx; clear_value x)
         on_goal 2 => unfold x)
      | clear_value x
      | skip)
    | fail_if_no_progress lift_lets
    | with_reducible first
      | apply keeps_ite
      | apply keepsT_ite
      | apply keepsP_ite
      | apply devWrite_keeps
      | apply devRead_keeps
      | apply emit_keeps
      | exact keepsP_get (by assumption)
      | refine keepsP_eq ?_ (by assumption)
      | refine keepsP_get (p := devWrite _ _ _ _) ?_
      | exact keepsT_get (by assumption)
      | refine keepsT_get (p := devRead _ _ _ _) ?_
    | split
    | with_reducible apply keepsP_mk
    | with_reducible apply keepsT_mk

theorem dmaStops_keeps (d : ℕ) {s : State} (hK : K &&& 2049 = 0) (h0 : Keeps K s0 s) :
    Keeps K s0 (dmaStops d s) := by
  unfold dmaStops
  repeat' first
    | with_reducible assumption
    | ((with_reducible refine keeps_sub hK ?_); rfl)
    | intro x
    | with_reducible apply setFi_keeps
    | (with_reducible apply keeps_mk; case hr => rfl)
    | ((with_reducible refine keeps_no hK ?_ (by assumption)); rfl)
    | rfl
    | exact Nat.le_refl _
    | (simp; done)

theorem execCopyDone_keeps (c : ℕ) (bytes : List Sys2Proof.Byte) (err : Option ℕ) {s : State} (hK : K &&& 16777215 = 0) (h0 : Keeps K s0 s) :
    KeepsX K s0 (execCopyDone c bytes err s) := by
  unfold execCopyDone
  repeat' first
    | with_reducible assumption
    | ((with_reducible refine keeps_sub hK ?_); rfl)
    | intro x
    | with_reducible first
      | apply keeps_ite
      | apply keepsX_next
      | apply keepsX_ite
      | apply record_keeps
      | apply copyFails_keeps
      | apply copyEnds_keeps
    | split

theorem execCopyStart_keeps (by_ : Sys2Proof.Agent) (c : ℕ) {s : State} (hK : K &&& 16777215 = 0) (h0 : Keeps K s0 s) :
    KeepsX K s0 (execCopyStart by_ c s) := by
  unfold execCopyStart
  repeat' first
    | with_reducible assumption
    | ((with_reducible refine keeps_sub hK ?_); rfl)
    | with_reducible first
      | apply keeps_ite
      | apply keepsX_next
      | apply keepsX_ite
      | apply regWrite_keeps
    | split

theorem execDmaDone_keeps (d : ℕ) (bytes : List Sys2Proof.Byte) {s : State} (hK : K &&& 16777215 = 0) (h0 : Keeps K s0 s) :
    KeepsX K s0 (execDmaDone d bytes s) := by
  unfold execDmaDone
  repeat' first
    | with_reducible assumption
    | ((with_reducible refine keeps_sub hK ?_); rfl)
    | with_reducible first
      | apply keeps_ite
      | apply keepsX_next
      | apply keepsX_ite
      | apply setFi_keeps
      | apply dmaStops_keeps
      | apply dmaCopy_keeps
    | split

theorem execDmaError_keeps (d : ℕ) (_kind : ℕ) {s : State} (hK : K &&& 6149 = 0) (h0 : Keeps K s0 s) :
    KeepsX K s0 (execDmaError d _kind s) := by
  unfold execDmaError
  repeat' first
    | with_reducible assumption
    | ((with_reducible refine keeps_sub hK ?_); rfl)
    | with_reducible first
      | apply keeps_ite
      | apply keepsX_next
      | apply keepsX_ite
      | apply record_keeps
      | apply setFi_keeps
      | apply dmaStops_keeps
    | split

theorem execDmaStart_keeps (by_ : Sys2Proof.Agent) (d : ℕ) {s : State} (hK : K &&& 16777215 = 0) (h0 : Keeps K s0 s) :
    KeepsX K s0 (execDmaStart by_ d s) := by
  unfold execDmaStart
  repeat' first
    | with_reducible assumption
    | ((with_reducible refine keeps_sub hK ?_); rfl)
    | with_reducible first
      | apply keeps_ite
      | apply keepsX_next
      | apply keepsX_ite
      | apply regWrite_keeps
    | split

theorem execDownstreamMemoryWrite_keeps (off : ℕ) (bytes : List Sys2Proof.Byte) {s : State} (hK : K &&& 16777215 = 0) (h0 : Keeps K s0 s) :
    KeepsX K s0 (execDownstreamMemoryWrite off bytes s) := by
  unfold execDownstreamMemoryWrite
  repeat' first
    | with_reducible assumption
    | ((with_reducible refine keeps_sub hK ?_); rfl)
    | (intro x; first
      | (refine (?_ : Keeps K s0 x → _) ?_; on_goal 1 => (intro hx; clear_value x)
         on_goal 2 => unfold x)
      | (refine (?_ : KeepsP K s0 x → _) ?_; on_goal 1 => (intro hx; clear_value x)
         on_goal 2 => unfold x)
      | clear_value x
      | skip)
    | fail_if_no_progress lift_lets
    | with_reducible first
      | apply keeps_ite
      | apply keepsP_ite
      | apply keepsX_next
      | apply keepsX_ite
      | apply devWrite_keeps
      | exact keepsP_get (by assumption)
      | refine keepsP_eq ?_ (by assumption)
      | refine keepsP_get (p := devWrite _ _ _ _) ?_
    | split
    | with_reducible apply keepsP_mk

theorem hostDev_keeps (a : ℕ) (len : ℕ) (wr : Option (List Sys2Proof.Byte)) {s : State} (hK : K &&& 16777215 = 0) (h0 : Keeps K s0 s) :
    Keeps K s0 (hostDev a len wr s) := by
  unfold hostDev
  repeat' first
    | with_reducible assumption
    | ((with_reducible refine keeps_sub hK ?_); rfl)
    | (intro x; first
      | (refine (?_ : Keeps K s0 x → _) ?_; on_goal 1 => (intro hx; clear_value x)
         on_goal 2 => unfold x)
      | (refine (?_ : KeepsP K s0 x → _) ?_; on_goal 1 => (intro hx; clear_value x)
         on_goal 2 => unfold x)
      | (refine (?_ : KeepsT K s0 x → _) ?_; on_goal 1 => (intro hx; clear_value x)
         on_goal 2 => unfold x)
      | clear_value x
      | skip)
    | fail_if_no_progress lift_lets
    | with_reducible first
      | apply devRead_keeps
      | apply answer_keeps
      | apply devWrite_keeps
      | exact keepsP_get (by assumption)
      | refine keepsP_eq ?_ (by assumption)
      | refine keepsP_get (p := devWrite _ _ _ _) ?_
      | exact keepsT_get (by assumption)
      | refine keepsT_get (p := devRead _ _ _ _) ?_
    | split
    | with_reducible apply keepsP_mk
    | with_reducible apply keepsT_mk

theorem msixWrite_keeps (off : ℕ) (a1 : List Sys2Proof.Byte) {a2 : State} (hK : K &&& 4194304 = 0) (h0 : Keeps K s0 a2) :
    Keeps K s0 (msixWrite off a1 a2) := by
  induction a1 generalizing off a2 with
  | nil => exact h0
  | cons b r ih => exact ih _ (modBoot_keeps _ (keeps_sub hK rfl) h0)

theorem execHostAccess_keeps (bar : ℕ) (off : ℕ) (len : ℕ) (wr : Option (List Sys2Proof.Byte)) {s : State} (hK : K &&& 16777215 = 0) (h0 : Keeps K s0 s) :
    KeepsX K s0 (execHostAccess bar off len wr s) := by
  unfold execHostAccess
  repeat' first
    | with_reducible assumption
    | ((with_reducible refine keeps_sub hK ?_); rfl)
    | (intro x; first
      | (refine (?_ : Keeps K s0 x → _) ?_; on_goal 1 => (intro hx; clear_value x)
         on_goal 2 => unfold x)
      | clear_value x
      | skip)
    | fail_if_no_progress lift_lets
    | with_reducible first
      | apply keeps_ite
      | apply keepsX_next
      | apply keepsX_ite
      | apply hostDev_keeps
      | apply answer_keeps
      | apply recordAt_keeps
      | apply msixWrite_keeps
    | split

theorem execPcieIbMsi_keeps (_v : Sys2Proof.Word) {s : State} (hK : K &&& 5 = 0) (h0 : Keeps K s0 s) :
    KeepsX K s0 (execPcieIbMsi _v s) := by
  unfold execPcieIbMsi
  repeat' first
    | with_reducible assumption
    | ((with_reducible refine keeps_sub hK ?_); rfl)
    | with_reducible first
      | apply keeps_ite
      | apply keepsX_next
      | apply keepsX_ite
      | apply intForce_keeps
    | split

theorem execPcieLinkTraining_keeps (up : Bool) (width : ℕ) (gen : ℕ) {s : State} (hK : K &&& 1 = 0) (h0 : Keeps K s0 s) :
    KeepsX K s0 (execPcieLinkTraining up width gen s) := by
  unfold execPcieLinkTraining
  repeat' first
    | with_reducible assumption
    | ((with_reducible refine keeps_sub hK ?_); rfl)
    | with_reducible first
      | apply keeps_ite
      | apply keepsX_next
      | apply keepsX_ite
      | apply setF_keeps
    | split

theorem remoteRefused_keeps (src : ℕ) (a : ℕ) {s : State} (hK : K &&& 6149 = 0) (h0 : Keeps K s0 s) :
    Keeps K s0 (remoteRefused src a s) := by
  unfold remoteRefused
  repeat' first
    | with_reducible assumption
    | ((with_reducible refine keeps_sub hK ?_); rfl)
    | with_reducible first
      | apply recordAt_keeps
      | apply emit_keeps

theorem execRemoteAccess_keeps (src : ℕ) (addr : ℕ) (len : ℕ) (wr : Option (List Sys2Proof.Byte)) (notify : Bool) {s : State} (hK : K &&& 16777215 = 0) (h0 : Keeps K s0 s) :
    KeepsX K s0 (execRemoteAccess src addr len wr notify s) := by
  unfold execRemoteAccess
  repeat' first
    | with_reducible assumption
    | ((with_reducible refine keeps_sub hK ?_); rfl)
    | (intro x; first
      | (refine (?_ : Keeps K s0 x → _) ?_; on_goal 1 => (intro hx; clear_value x)
         on_goal 2 => unfold x)
      | (refine (?_ : KeepsP K s0 x → _) ?_; on_goal 1 => (intro hx; clear_value x)
         on_goal 2 => unfold x)
      | (refine (?_ : KeepsT K s0 x → _) ?_; on_goal 1 => (intro hx; clear_value x)
         on_goal 2 => unfold x)
      | clear_value x
      | skip)
    | fail_if_no_progress lift_lets
    | with_reducible first
      | apply keeps_ite
      | apply keepsT_ite
      | apply keepsP_ite
      | apply keepsX_next
      | apply keepsX_ite
      | apply devRead_keeps
      | apply emit_keeps
      | apply intForce_keeps
      | apply remoteRefused_keeps
      | apply devWrite_keeps
      | exact keepsP_get (by assumption)
      | refine keepsP_eq ?_ (by assumption)
      | refine keepsP_get (p := devWrite _ _ _ _) ?_
      | exact keepsT_get (by assumption)
      | refine keepsT_get (p := devRead _ _ _ _) ?_
    | split
    | with_reducible apply keepsP_mk
    | with_reducible apply keepsT_mk

end Sys2Proof.Machine
end

