-- ==== Sys2Proof/Laws/Step.lean ====
section
/-! SUPPORT. What a step can do: no command fails to complete, none touches the queue, and each keeps what its operations
keep and leaves alone what it does not reach. -/

namespace Sys2Proof.Machine

open Sys2Proof

variable {K : Nat} {s0 : State}

/-- Every command completes in every state and keeps what the model keeps; `K` names pieces that it does not reach. -/
theorem exec_keeps (c : Instr) {s : State} (hK : K &&& Piece.mask (reach c) = 0) (h : Keeps K s0 s) : KeepsX K s0 (exec c s) := by
  cases c with
  | registerWrite _ _ _ => exact execRegisterWrite_keeps _ _ _ hK h
  | pageLock _ _ _ => exact execPageLock_keeps _ _ _ hK h
  | pageSoftReset _ _ => exact execPageSoftReset_keeps _ _ hK h
  | pageEnableWrite _ _ _ => exact execPageEnableWrite_keeps _ _ _ hK h
  | pageFreeze _ _ _ => exact execPageFreeze_keeps _ _ _ hK h
  | intForce _ _ _ => exact execIntForce_keeps _ _ _ hK h
  | ownerWrite _ _ _ => exact execOwnerWrite_keeps _ _ _ hK h
  | loWordRead _ _ => exact execLoWordRead_keeps _ _ hK h
  | deviceAccess _ _ _ _ => exact execDeviceAccess_keeps _ _ _ _ hK h
  | flitReceive _ _ _ => exact execFlitReceive_keeps _ _ _ hK h
  | creditOnlyFlit _ => exact execCreditOnlyFlit_keeps _ hK h
  | sparePrbsError _ _ _ => exact execSparePrbsError_keeps _ _ _ hK h
  | laneRepair _ _ => exact execLaneRepair_keeps _ _ hK h
  | repairFlit _ _ _ _ => exact execRepairFlit_keeps _ _ _ _ hK h
  | repairSwitch _ => exact execRepairSwitch_keeps _ hK h
  | wlinkResetRelease _ _ => exact execWlinkResetRelease_keeps _ _ hK h
  | discoveryReply _ _ => exact execDiscoveryReply_keeps _ _ hK h
  | discoveryTimeout _ => exact execDiscoveryTimeout_keeps _ hK h
  | ringDiscovery _ _ _ => exact execRingDiscovery_keeps _ _ _ hK h
  | loopTestRun _ _ => exact execLoopTestRun_keeps _ _ hK h
  | loopTestDone _ _ => exact execLoopTestDone_keeps _ _ hK h
  | standaloneEnter _ => exact execStandaloneEnter_keeps _ hK h
  | uciStart _ => exact execUciStart_keeps _ hK h
  | uciNegotiationDone _ => exact execUciNegotiationDone_keeps _ hK h
  | uciNegotiationTimeout => exact execUciNegotiationTimeout_keeps hK h
  | uciRuntimeFence => exact execUciRuntimeFence_keeps hK h
  | timebaseRun _ _ => exact execTimebaseRun_keeps _ _ hK h
  | timebaseStop _ => exact execTimebaseStop_keeps _ hK h
  | downbeatEdge _ => exact execDownbeatEdge_keeps _ hK h
  | downbeatMissing => exact execDownbeatMissing_keeps hK h
  | timebaseLost => exact execTimebaseLost_keeps hK h
  | barBoundary => exact execBarBoundary_keeps hK h
  | tick => exact execTick_keeps hK h
  | run => exact execRun_keeps hK h
  | runPaired => exact execRunPaired_keeps hK h
  | waitLines => exact execWaitLines_keeps hK h
  | barrier => exact execBarrier_keeps hK h
  | collect => exact execCollect_keeps hK h
  | fuse => exact execFuse_keeps hK h
  | emit => exact execEmit_keeps hK h
  | mark => exact execMark_keeps hK h
  | nop => exact execNop_keeps hK h
  | swapPoint => exact execSwapPoint_keeps hK h
  | gateSatisfied _ => exact execGateSatisfied_keeps _ hK h
  | barrierSatisfied _ => exact execBarrierSatisfied_keeps _ hK h
  | gateFailed _ => exact execGateFailed_keeps _ hK h
  | strokeComplete _ => exact execStrokeComplete_keeps _ hK h
  | budgetExpiry _ => exact execBudgetExpiry_keeps _ hK h
  | collectWrite _ => exact execCollectWrite_keeps _ hK h
  | fusionJobDone => exact execFusionJobDone_keeps hK h
  | emitDeliver _ => exact execEmitDeliver_keeps _ hK h
  | emitDeadline _ => exact execEmitDeadline_keeps _ hK h
  | resultDrain => exact execResultDrain_keeps hK h
  | tableLoad _ => exact execTableLoad_keeps _ hK h
  | tableLoadDone => exact execTableLoadDone_keeps hK h
  | requestAdmission _ => exact execAdmit_keeps _ hK h
  | admissionDone => exact execAdmissionDone_keeps hK h
  | swapRequest _ => exact execSwapRequest_keeps _ hK h
  | swapCancel _ => exact execSwapCancel_keeps _ hK h
  | islSwapRequest _ => exact execIslSwapRequest_keeps _ hK h
  | islSwapCancel _ => exact execIslSwapCancel_keeps _ hK h
  | seqStop _ => exact execSeqStop_keeps _ hK h
  | fallbackCopyDone => exact execFallbackCopyDone_keeps hK h
  | descriptorDispatch _ _ => exact execDescriptorDispatch_keeps _ _ hK h
  | descriptorComplete _ _ _ => exact execDescriptorComplete_keeps _ _ _ hK h
  | descriptorFail _ _ _ => exact execDescriptorFail_keeps _ _ _ hK h
  | lineWaitEnd _ _ _ => exact execLineWaitEnd_keeps _ _ _ hK h
  | engineFault _ _ _ => exact execEngineFault_keeps _ _ _ hK h
  | returnSequenceDone _ _ _ => exact execReturnSequenceDone_keeps _ _ _ hK h
  | spareSelfTest _ _ _ => exact execSpareSelfTest_keeps _ _ _ hK h
  | engTestRun _ _ _ => exact execEngTestRun_keeps _ _ _ hK h
  | engTestDone _ _ _ => exact execEngTestDone_keeps _ _ _ hK h
  | sleepPendWrite _ _ _ => exact execSleepPendWrite_keeps _ _ _ hK h
  | spectralHandoff _ _ => exact execSpectralHandoff_keeps _ _ hK h
  | specEcc _ => exact execSpecEcc_keeps _ hK h
  | trackerInitRequest _ _ _ => exact execTrackerInitRequest_keeps _ _ _ hK h
  | ppuJob => exact execPpuJob_keeps hK h
  | align => exact execAlign_keeps hK h
  | alignWaitEnd => exact execAlignWaitEnd_keeps hK h
  | ego => exact execEgo_keeps hK h
  | proj => exact execProj_keeps hK h
  | lift => exact execLift_keeps hK h
  | assign => exact execAssign_keeps hK h
  | track => exact execTrack_keeps hK h
  | out => exact execOut_keeps hK h
  | optSeed _ _ => exact execOptSeed_keeps _ _ hK h
  | optCheck _ _ => exact execOptCheck_keeps _ _ hK h
  | optApply _ _ => exact execOptApply_keeps _ _ hK h
  | lregOpen _ _ => exact execLregOpen_keeps _ _ hK h
  | lregFreeze _ _ => exact execLregFreeze_keeps _ _ hK h
  | lregRestore _ _ => exact execLregRestore_keeps _ _ hK h
  | lregOff _ _ => exact execLregOff_keeps _ _ hK h
  | lregCkpt _ _ => exact execLregCkpt_keeps _ _ hK h
  | lregVet _ _ _ => exact execLregVet_keeps _ _ _ hK h
  | digestDone _ => exact execDigestDone_keeps _ hK h
  | ckptCommitDone _ => exact execCkptCommitDone_keeps _ hK h
  | restoreDone _ _ => exact execRestoreDone_keeps _ _ hK h
  | ingConfigWrite _ _ _ _ => exact execIngConfigWrite_keeps _ _ _ _ hK h
  | frameStart _ _ _ _ => exact execFrameStart_keeps _ _ _ _ hK h
  | csiLongPacket _ _ _ _ _ _ _ => exact execCsiLongPacket_keeps _ _ _ _ _ _ _ hK h
  | lineComplete _ _ => exact execLineComplete_keeps _ _ hK h
  | frameEnd _ _ _ => exact execFrameEnd_keeps _ _ _ hK h
  | ingLate _ => exact execIngLate_keeps _ hK h
  | ethFrameReceive _ _ _ => exact execEthFrameReceive_keeps _ _ _ hK h
  | qbvCommit _ _ => exact execQbvCommit_keeps _ _ hK h
  | qbvCycleStart _ _ => exact execQbvCycleStart_keeps _ _ hK h
  | gptpSync _ _ _ _ => exact execGptpSync_keeps _ _ _ _ hK h
  | gptpPdelay _ _ _ _ _ _ => exact execGptpPdelay_keeps _ _ _ _ _ _ hK h
  | gptpSyncLoss _ => exact execGptpSyncLoss_keeps _ hK h
  | ptpSet _ _ _ => exact execPtpSet_keeps _ _ _ hK h
  | prtConfigWrite _ _ _ _ => exact execPrtConfigWrite_keeps _ _ _ _ hK h
  | partitionResetRequest _ _ => exact execPartitionResetRequest_keeps _ _ hK h
  | partitionIslReset _ _ => exact execPartitionIslReset_keeps _ _ hK h
  | partitionOvrLimit _ => exact execPartitionOvrLimit_keeps _ hK h
  | energyInterval _ _ => exact execEnergyInterval_keeps _ _ hK h
  | stackRequest _ _ _ _ _ _ => exact execStackRequest_keeps _ _ _ _ _ _ hK h
  | regulatorWindow _ => exact execRegulatorWindow_keeps _ hK h
  | queueLevelSample _ => exact execQueueLevelSample_keeps _ hK h
  | patrolScrub _ _ _ => exact execPatrolScrub_keeps _ _ _ hK h
  | msFail _ => exact execMsFail_keeps _ hK h
  | bwCommit _ => exact execBwCommit_keeps _ hK h
  | bwCommitCheckDone => exact execBwCommitCheckDone_keeps hK h
  | coreRun _ _ => exact execCoreRun_keeps _ _ hK h
  | mbxWrite _ _ _ => exact execMbxWrite_keeps _ _ _ hK h
  | mbxRead _ _ => exact execMbxRead_keeps _ _ hK h
  | warningMove => exact execWarningMove_keeps hK h
  | intcClaim _ _ => exact execIntcClaim_keeps _ _ hK h
  | intcComplete _ _ _ => exact execIntcComplete_keeps _ _ _ hK h
  | hostAccess _ _ _ _ => exact execHostAccess_keeps _ _ _ _ hK h
  | dmaStart _ _ => exact execDmaStart_keeps _ _ hK h
  | dmaDone _ _ => exact execDmaDone_keeps _ _ hK h
  | dmaError _ k => exact execDmaError_keeps _ k hK h
  | pcieReset => exact execPcieReset_keeps hK h
  | pcieIbMsi v => exact execPcieIbMsi_keeps v hK h
  | mdioStart _ => exact execMdioStart_keeps _ hK h
  | mdioDone _ => exact execMdioDone_keeps _ hK h
  | islandFault _ _ => exact execIslandFault_keeps _ _ hK h
  | islandWatchdogExpire _ => exact execIslandWatchdogExpire_keeps _ hK h
  | islandAutoRestart _ _ => exact execIslandAutoRestart_keeps _ _ hK h
  | islandResetRelease _ _ _ => exact execIslandResetRelease_keeps _ _ _ hK h
  | islandRestart _ => exact execIslandRestart_keeps _ hK h
  | clapClaim _ _ _ _ => exact execClapClaim_keeps _ _ _ _ hK h
  | clapArbitrate _ => exact execClapArbitrate_keeps _ hK h
  | clapConfirm _ _ _ _ => exact execClapConfirm_keeps _ _ _ _ hK h
  | clapConfirmTimeout => exact execClapConfirmTimeout_keeps hK h
  | clapHoldRel _ _ => exact execClapHoldRel_keeps _ _ hK h
  | clapGrantTimeout _ => exact execClapGrantTimeout_keeps _ hK h
  | clapRelease _ _ => exact execClapRelease_keeps _ _ hK h
  | clapOfferTimeout => exact execClapOfferTimeout_keeps hK h
  | clapHeartbeat _ _ => exact execClapHeartbeat_keeps _ _ hK h
  | heartbeatPeriodEnd _ => exact execHeartbeatPeriodEnd_keeps _ hK h
  | clapLive _ _ => exact execClapLive_keeps _ _ hK h
  | clapAbdicate _ _ => exact execClapAbdicate_keeps _ _ hK h
  | grantReceive _ _ => exact execGrantReceive_keeps _ _ hK h
  | revokeReceive _ => exact execRevokeReceive_keeps _ hK h
  | heartbeatResponse _ _ _ => exact execHeartbeatResponse_keeps _ _ _ hK h
  | holdTimeout _ _ => exact execHoldTimeout_keeps _ _ hK h
  | holdDrop _ => exact execHoldDrop_keeps _ hK h
  | safeNInAssert _ => exact execSafeNInAssert_keeps _ hK h
  | emissionNotice _ _ _ => exact execEmissionNotice_keeps _ _ _ hK h
  | tickFlit _ _ _ => exact execTickFlit_keeps _ _ _ hK h
  | watchExpire _ _ _ => exact execWatchExpire_keeps _ _ _ hK h
  | islSafeReq _ _ => exact execIslSafeReq_keeps _ _ hK h
  | clapSafeReq _ _ _ _ => exact execClapSafeReq_keeps _ _ _ _ hK h
  | safeMessageReceive _ _ => exact execSafeMessageReceive_keeps _ _ hK h
  | noIslandTimeout _ => exact execNoIslandTimeout_keeps _ hK h
  | safeClr _ => exact execSafeClr_keeps _ hK h
  | canStatusPeriod _ => exact execCanStatusPeriod_keeps _ hK h
  | ssfPeriod _ _ _ => exact execSsfPeriod_keeps _ _ _ hK h
  | canSsfLate _ _ _ => exact execCanSsfLate_keeps _ _ _ hK h
  | canBusOff _ _ => exact execCanBusOff_keeps _ _ hK h
  | canBusOffRecovery _ _ => exact execCanBusOffRecovery_keeps _ _ hK h
  | canReceive _ _ _ => exact execCanReceive_keeps _ _ _ hK h
  | pmcSample _ _ _ _ => exact execPmcSample_keeps _ _ _ _ hK h
  | phaseShed _ _ => exact execPhaseShed_keeps _ _ hK h
  | phaseFault _ _ _ _ => exact execPhaseFault_keeps _ _ _ _ hK h
  | ilimStep _ => exact execIlimStep_keeps _ hK h
  | railStageDisable _ => exact execRailStageDisable_keeps _ hK h
  | opSelect => exact execOpSelect_keeps hK h
  | opStepDone _ => exact execOpStepDone_keeps _ hK h
  | marginSample _ _ => exact execMarginSample_keeps _ _ hK h
  | ageRaise _ => exact execAgeRaise_keeps _ hK h
  | floorPendWrite _ _ _ => exact execFloorPendWrite_keeps _ _ _ hK h
  | droopDetect _ _ => exact execDroopDetect_keeps _ _ hK h
  | droopTimeout _ _ => exact execDroopTimeout_keeps _ _ hK h
  | droopHoldEnd _ => exact execDroopHoldEnd_keeps _ hK h
  | envRequest _ _ => exact execEnvRequest_keeps _ _ hK h
  | envIslRequest _ _ => exact execEnvIslRequest_keeps _ _ hK h
  | capEvaluation _ _ _ => exact execCapEvaluation_keeps _ _ _ hK h
  | capRaise _ => exact execCapRaise_keeps _ hK h
  | tjSample _ _ _ => exact execTjSample_keeps _ _ _ hK h
  | stackTempSample _ _ => exact execStackTempSample_keeps _ _ hK h
  | thermalStep _ _ => exact execThermalStep_keeps _ _ hK h
  | coolantRead _ _ => exact execCoolantRead_keeps _ _ hK h
  | hourlyTimer => exact execHourlyTimer_keeps hK h
  | journalWrite _ => exact execJournalWrite_keeps _ hK h
  | recordWriteDone _ _ => exact execRecordWriteDone_keeps _ _ hK h
  | flushStart _ _ _ => exact execFlushStart_keeps _ _ _ hK h
  | flushDone _ => exact execFlushDone_keeps _ hK h
  | ledgerResume _ => exact execLedgerResume_keeps _ hK h
  | ledgerRecoveryDone _ _ => exact execLedgerRecoveryDone_keeps _ _ hK h
  | ldgFwWrite _ _ => exact execLdgFwWrite_keeps _ _ hK h
  | ldgFwRead _ => exact execLdgFwRead_keeps _ hK h
  | ldgFwEntry _ _ => exact execLdgFwEntry_keeps _ _ hK h
  | bootTrial _ => exact execBootTrial_keeps _ hK h
  | bootConfirm _ => exact execBootConfirm_keeps _ hK h
  | bootCancel _ => exact execBootCancel_keeps _ hK h
  | fullCharge => exact execFullCharge_keeps hK h
  | chargeTimeout => exact execChargeTimeout_keeps hK h
  | storeRemoval => exact execStoreRemoval_keeps hK h
  | presencePulse _ => exact execPresencePulse_keeps _ hK h
  | gaugeSample _ _ _ => exact execGaugeSample_keeps _ _ _ hK h
  | clrDeg _ => exact execClrDeg_keeps _ hK h
  | dlkFlitReceive _ _ _ => exact execDlkFlitReceive_keeps _ _ _ hK h
  | dlkIdleFlit _ _ => exact execDlkIdleFlit_keeps _ _ hK h
  | dlkRxTimeout _ => exact execDlkRxTimeout_keeps _ hK h
  | enumStart _ _ => exact execEnumStart_keeps _ _ hK h
  | enumMessage _ => exact execEnumMessage_keeps _ hK h
  | enumTimeout => exact execEnumTimeout_keeps hK h
  | timeFlit _ _ _ => exact execTimeFlit_keeps _ _ _ hK h
  | copyStart _ _ => exact execCopyStart_keeps _ _ hK h
  | copyDone _ _ _ => exact execCopyDone_keeps _ _ _ hK h
  | remoteAccess _ _ _ _ _ => exact execRemoteAccess_keeps _ _ _ _ _ hK h
  | xbConfigWrite _ _ _ _ => exact execXbConfigWrite_keeps _ _ _ _ hK h
  | xbarArrive _ => exact execXbarArrive_keeps _ hK h
  | xbarRelease _ _ => exact execXbarRelease_keeps _ _ hK h
  | dlkStatus _ _ => exact execDlkStatus_keeps _ _ hK h
  | shiftExchange => exact execShiftExchange_keeps hK h
  | shiftPropose _ => exact execShiftPropose_keeps _ hK h
  | shiftCommit _ _ => exact execShiftCommit_keeps _ _ hK h
  | dlkFence _ _ => exact execDlkFence_keeps _ _ hK h
  | fenceNotice _ d => exact execFenceNotice_keeps _ d hK h
  | rootRouteTimeout => exact execRootRouteTimeout_keeps hK h
  | kaPowerOn => exact execKaPowerOn_keeps hK h
  | porstRise _ _ => exact execPorstRise_keeps _ _ hK h
  | porstFall => exact execPorstFall_keeps hK h
  | rstCtlWarm _ => exact execRstCtlWarm_keeps _ hK h
  | rstCtlCold _ => exact execRstCtlCold_keeps _ hK h
  | hubWatchdogExpire _ => exact execHubWatchdogExpire_keeps _ hK h
  | wdogKick _ _ => exact execWdogKick_keeps _ _ hK h
  | tapReset => exact execTapReset_keeps hK h
  | islandResetPin _ => exact execIslandResetPin_keeps _ hK h
  | phaseTest _ _ _ _ _ => exact execPhaseTest_keeps _ _ _ _ _ hK h
  | softStartTimeout _ => exact execSoftStartTimeout_keeps _ hK h
  | bootRom => exact execBootRom_keeps hK h
  | censusStage _ _ _ => exact execCensusStage_keeps _ _ _ hK h
  | imageLoad _ => exact execImageLoad_keeps _ hK h
  | handoff _ => exact execHandoff_keeps _ hK h
  | lcRequest _ _ => exact execLcRequest_keeps _ _ hK h
  | lcBurnDone => exact execLcBurnDone_keeps hK h
  | keyRevoke _ _ => exact execKeyRevoke_keeps _ _ hK h
  | malletOffWrite _ => exact execMalletOffWrite_keeps _ hK h
  | malletBadLine => exact execMalletBadLine_keeps hK h
  | malletSessionTimeout _ => exact execMalletSessionTimeout_keeps _ hK h
  | malletHelp => exact execMalletHelp_keeps hK h
  | malletId => exact execMalletId_keeps hK h
  | malletStat => exact execMalletStat_keeps hK h
  | malletRd _ _ => exact execMalletRd_keeps _ _ hK h
  | malletWr _ _ => exact execMalletWr_keeps _ _ hK h
  | malletMd _ _ => exact execMalletMd_keeps _ _ hK h
  | malletMw _ _ => exact execMalletMw_keeps _ _ hK h
  | malletErr _ _ => exact execMalletErr_keeps _ _ hK h
  | malletLog _ => exact execMalletLog_keeps _ hK h
  | malletBaud _ => exact execMalletBaud_keeps _ hK h
  | malletUnlock _ => exact execMalletUnlock_keeps _ hK h
  | malletUnlockKey _ => exact execMalletUnlockKey_keeps _ hK h
  | malletUnlockData _ => exact execMalletUnlockData_keeps _ hK h
  | malletUnlockEnd _ _ _ => exact execMalletUnlockEnd_keeps _ _ _ hK h
  | malletLock => exact execMalletLock_keeps hK h
  | malletCalib _ _ => exact execMalletCalib_keeps _ _ hK h
  | malletCensus => exact execMalletCensus_keeps hK h
  | malletReset => exact execMalletReset_keeps hK h
  | malletOff => exact execMalletOff_keeps hK h
  | clockWireFailure _ v => exact execClockWireFailure_keeps _ v hK h
  | usxgmiiLinkChange _ _ _ => exact execUsxgmiiLinkChange_keeps _ _ _ hK h
  | pcieLinkTraining _ _ _ => exact execPcieLinkTraining_keeps _ _ _ hK h
  | downstreamMemoryWrite _ _ => exact execDownstreamMemoryWrite_keeps _ _ hK h
  | grandmasterSync _ => exact execGrandmasterSync_keeps _ hK h
  | gptpAnnounce _ _ => exact execGptpAnnounce_keeps _ _ hK h
  | gateIntervalEnd _ _ => exact execGateIntervalEnd_keeps _ _ hK h
  | canFrameComplete _ _ _ _ => exact execCanFrameComplete_keeps _ _ _ _ hK h
  | receivedCharacter _ _ _ => exact execReceivedCharacter_keeps _ _ _ hK h
  | softStartDone _ => exact execSoftStartDone_keeps _ hK h

end Sys2Proof.Machine
end

