-- ==== Sys2Proof/Laws/State.lean ====
section
/-! SUPPORT. What each update of the state leaves alone, piece by piece. -/

namespace Sys2Proof.Machine

open Sys2Proof

/-! setW -/

@[simp] theorem setW_mem (a : Nat) (v : Word) (s : State) : (setW a v s).mem = s.mem := (rfl)
@[simp] theorem setW_io (a : Nat) (v : Word) (s : State) : (setW a v s).io = s.io := (rfl)
@[simp] theorem setW_links (a : Nat) (v : Word) (s : State) : (setW a v s).links = s.links := (rfl)
@[simp] theorem setW_cyc (a : Nat) (v : Word) (s : State) : (setW a v s).cyc = s.cyc := (rfl)
@[simp] theorem setW_seq (a : Nat) (v : Word) (s : State) : (setW a v s).seq = s.seq := (rfl)
@[simp] theorem setW_dies (a : Nat) (v : Word) (s : State) : (setW a v s).dies = s.dies := (rfl)
@[simp] theorem setW_parts (a : Nat) (v : Word) (s : State) : (setW a v s).parts = s.parts := (rfl)
@[simp] theorem setW_acct (a : Nat) (v : Word) (s : State) : (setW a v s).acct = s.acct := (rfl)
@[simp] theorem setW_tiles (a : Nat) (v : Word) (s : State) : (setW a v s).tiles = s.tiles := (rfl)
@[simp] theorem setW_fus (a : Nat) (v : Word) (s : State) : (setW a v s).fus = s.fus := (rfl)
@[simp] theorem setW_mbx (a : Nat) (v : Word) (s : State) : (setW a v s).mbx = s.mbx := (rfl)
@[simp] theorem setW_ldg (a : Nat) (v : Word) (s : State) : (setW a v s).ldg = s.ldg := (rfl)
@[simp] theorem setW_hld (a : Nat) (v : Word) (s : State) : (setW a v s).hld = s.hld := (rfl)
@[simp] theorem setW_eth (a : Nat) (v : Word) (s : State) : (setW a v s).eth = s.eth := (rfl)
@[simp] theorem setW_dlk (a : Nat) (v : Word) (s : State) : (setW a v s).dlk = s.dlk := (rfl)
@[simp] theorem setW_ing (a : Nat) (v : Word) (s : State) : (setW a v s).ing = s.ing := (rfl)
@[simp] theorem setW_lrn (a : Nat) (v : Word) (s : State) : (setW a v s).lrn = s.lrn := (rfl)
@[simp] theorem setW_bw (a : Nat) (v : Word) (s : State) : (setW a v s).bw = s.bw := (rfl)
@[simp] theorem setW_clap (a : Nat) (v : Word) (s : State) : (setW a v s).clap = s.clap := (rfl)
@[simp] theorem setW_isl (a : Nat) (v : Word) (s : State) : (setW a v s).isl = s.isl := (rfl)
@[simp] theorem setW_pwr (a : Nat) (v : Word) (s : State) : (setW a v s).pwr = s.pwr := (rfl)
@[simp] theorem setW_boot (a : Nat) (v : Word) (s : State) : (setW a v s).boot = s.boot := (rfl)
@[simp] theorem setW_mal (a : Nat) (v : Word) (s : State) : (setW a v s).mal = s.mal := (rfl)
@[simp] theorem setW_pending (a : Nat) (v : Word) (s : State) : (setW a v s).pending = s.pending := (rfl)

/-! setFij -/

@[simp] theorem setFij_mem (p : Page) (r : Row) (i : Nat) (j : Nat) (v : Nat) (s : State) : (setFij p r i j v s).mem = s.mem := (rfl)
@[simp] theorem setFij_io (p : Page) (r : Row) (i : Nat) (j : Nat) (v : Nat) (s : State) : (setFij p r i j v s).io = s.io := (rfl)
@[simp] theorem setFij_links (p : Page) (r : Row) (i : Nat) (j : Nat) (v : Nat) (s : State) : (setFij p r i j v s).links = s.links := (rfl)
@[simp] theorem setFij_cyc (p : Page) (r : Row) (i : Nat) (j : Nat) (v : Nat) (s : State) : (setFij p r i j v s).cyc = s.cyc := (rfl)
@[simp] theorem setFij_seq (p : Page) (r : Row) (i : Nat) (j : Nat) (v : Nat) (s : State) : (setFij p r i j v s).seq = s.seq := (rfl)
@[simp] theorem setFij_dies (p : Page) (r : Row) (i : Nat) (j : Nat) (v : Nat) (s : State) : (setFij p r i j v s).dies = s.dies := (rfl)
@[simp] theorem setFij_parts (p : Page) (r : Row) (i : Nat) (j : Nat) (v : Nat) (s : State) : (setFij p r i j v s).parts = s.parts := (rfl)
@[simp] theorem setFij_acct (p : Page) (r : Row) (i : Nat) (j : Nat) (v : Nat) (s : State) : (setFij p r i j v s).acct = s.acct := (rfl)
@[simp] theorem setFij_tiles (p : Page) (r : Row) (i : Nat) (j : Nat) (v : Nat) (s : State) : (setFij p r i j v s).tiles = s.tiles := (rfl)
@[simp] theorem setFij_fus (p : Page) (r : Row) (i : Nat) (j : Nat) (v : Nat) (s : State) : (setFij p r i j v s).fus = s.fus := (rfl)
@[simp] theorem setFij_mbx (p : Page) (r : Row) (i : Nat) (j : Nat) (v : Nat) (s : State) : (setFij p r i j v s).mbx = s.mbx := (rfl)
@[simp] theorem setFij_ldg (p : Page) (r : Row) (i : Nat) (j : Nat) (v : Nat) (s : State) : (setFij p r i j v s).ldg = s.ldg := (rfl)
@[simp] theorem setFij_hld (p : Page) (r : Row) (i : Nat) (j : Nat) (v : Nat) (s : State) : (setFij p r i j v s).hld = s.hld := (rfl)
@[simp] theorem setFij_eth (p : Page) (r : Row) (i : Nat) (j : Nat) (v : Nat) (s : State) : (setFij p r i j v s).eth = s.eth := (rfl)
@[simp] theorem setFij_dlk (p : Page) (r : Row) (i : Nat) (j : Nat) (v : Nat) (s : State) : (setFij p r i j v s).dlk = s.dlk := (rfl)
@[simp] theorem setFij_ing (p : Page) (r : Row) (i : Nat) (j : Nat) (v : Nat) (s : State) : (setFij p r i j v s).ing = s.ing := (rfl)
@[simp] theorem setFij_lrn (p : Page) (r : Row) (i : Nat) (j : Nat) (v : Nat) (s : State) : (setFij p r i j v s).lrn = s.lrn := (rfl)
@[simp] theorem setFij_bw (p : Page) (r : Row) (i : Nat) (j : Nat) (v : Nat) (s : State) : (setFij p r i j v s).bw = s.bw := (rfl)
@[simp] theorem setFij_clap (p : Page) (r : Row) (i : Nat) (j : Nat) (v : Nat) (s : State) : (setFij p r i j v s).clap = s.clap := (rfl)
@[simp] theorem setFij_isl (p : Page) (r : Row) (i : Nat) (j : Nat) (v : Nat) (s : State) : (setFij p r i j v s).isl = s.isl := (rfl)
@[simp] theorem setFij_pwr (p : Page) (r : Row) (i : Nat) (j : Nat) (v : Nat) (s : State) : (setFij p r i j v s).pwr = s.pwr := (rfl)
@[simp] theorem setFij_boot (p : Page) (r : Row) (i : Nat) (j : Nat) (v : Nat) (s : State) : (setFij p r i j v s).boot = s.boot := (rfl)
@[simp] theorem setFij_mal (p : Page) (r : Row) (i : Nat) (j : Nat) (v : Nat) (s : State) : (setFij p r i j v s).mal = s.mal := (rfl)
@[simp] theorem setFij_pending (p : Page) (r : Row) (i : Nat) (j : Nat) (v : Nat) (s : State) : (setFij p r i j v s).pending = s.pending := (rfl)

/-! setF -/

@[simp] theorem setF_mem (p : Page) (r : Row) (v : Nat) (s : State) : (setF p r v s).mem = s.mem := (rfl)
@[simp] theorem setF_io (p : Page) (r : Row) (v : Nat) (s : State) : (setF p r v s).io = s.io := (rfl)
@[simp] theorem setF_links (p : Page) (r : Row) (v : Nat) (s : State) : (setF p r v s).links = s.links := (rfl)
@[simp] theorem setF_cyc (p : Page) (r : Row) (v : Nat) (s : State) : (setF p r v s).cyc = s.cyc := (rfl)
@[simp] theorem setF_seq (p : Page) (r : Row) (v : Nat) (s : State) : (setF p r v s).seq = s.seq := (rfl)
@[simp] theorem setF_dies (p : Page) (r : Row) (v : Nat) (s : State) : (setF p r v s).dies = s.dies := (rfl)
@[simp] theorem setF_parts (p : Page) (r : Row) (v : Nat) (s : State) : (setF p r v s).parts = s.parts := (rfl)
@[simp] theorem setF_acct (p : Page) (r : Row) (v : Nat) (s : State) : (setF p r v s).acct = s.acct := (rfl)
@[simp] theorem setF_tiles (p : Page) (r : Row) (v : Nat) (s : State) : (setF p r v s).tiles = s.tiles := (rfl)
@[simp] theorem setF_fus (p : Page) (r : Row) (v : Nat) (s : State) : (setF p r v s).fus = s.fus := (rfl)
@[simp] theorem setF_mbx (p : Page) (r : Row) (v : Nat) (s : State) : (setF p r v s).mbx = s.mbx := (rfl)
@[simp] theorem setF_ldg (p : Page) (r : Row) (v : Nat) (s : State) : (setF p r v s).ldg = s.ldg := (rfl)
@[simp] theorem setF_hld (p : Page) (r : Row) (v : Nat) (s : State) : (setF p r v s).hld = s.hld := (rfl)
@[simp] theorem setF_eth (p : Page) (r : Row) (v : Nat) (s : State) : (setF p r v s).eth = s.eth := (rfl)
@[simp] theorem setF_dlk (p : Page) (r : Row) (v : Nat) (s : State) : (setF p r v s).dlk = s.dlk := (rfl)
@[simp] theorem setF_ing (p : Page) (r : Row) (v : Nat) (s : State) : (setF p r v s).ing = s.ing := (rfl)
@[simp] theorem setF_lrn (p : Page) (r : Row) (v : Nat) (s : State) : (setF p r v s).lrn = s.lrn := (rfl)
@[simp] theorem setF_bw (p : Page) (r : Row) (v : Nat) (s : State) : (setF p r v s).bw = s.bw := (rfl)
@[simp] theorem setF_clap (p : Page) (r : Row) (v : Nat) (s : State) : (setF p r v s).clap = s.clap := (rfl)
@[simp] theorem setF_isl (p : Page) (r : Row) (v : Nat) (s : State) : (setF p r v s).isl = s.isl := (rfl)
@[simp] theorem setF_pwr (p : Page) (r : Row) (v : Nat) (s : State) : (setF p r v s).pwr = s.pwr := (rfl)
@[simp] theorem setF_boot (p : Page) (r : Row) (v : Nat) (s : State) : (setF p r v s).boot = s.boot := (rfl)
@[simp] theorem setF_mal (p : Page) (r : Row) (v : Nat) (s : State) : (setF p r v s).mal = s.mal := (rfl)
@[simp] theorem setF_pending (p : Page) (r : Row) (v : Nat) (s : State) : (setF p r v s).pending = s.pending := (rfl)

/-! setFi -/

@[simp] theorem setFi_mem (p : Page) (r : Row) (i : Nat) (v : Nat) (s : State) : (setFi p r i v s).mem = s.mem := (rfl)
@[simp] theorem setFi_io (p : Page) (r : Row) (i : Nat) (v : Nat) (s : State) : (setFi p r i v s).io = s.io := (rfl)
@[simp] theorem setFi_links (p : Page) (r : Row) (i : Nat) (v : Nat) (s : State) : (setFi p r i v s).links = s.links := (rfl)
@[simp] theorem setFi_cyc (p : Page) (r : Row) (i : Nat) (v : Nat) (s : State) : (setFi p r i v s).cyc = s.cyc := (rfl)
@[simp] theorem setFi_seq (p : Page) (r : Row) (i : Nat) (v : Nat) (s : State) : (setFi p r i v s).seq = s.seq := (rfl)
@[simp] theorem setFi_dies (p : Page) (r : Row) (i : Nat) (v : Nat) (s : State) : (setFi p r i v s).dies = s.dies := (rfl)
@[simp] theorem setFi_parts (p : Page) (r : Row) (i : Nat) (v : Nat) (s : State) : (setFi p r i v s).parts = s.parts := (rfl)
@[simp] theorem setFi_acct (p : Page) (r : Row) (i : Nat) (v : Nat) (s : State) : (setFi p r i v s).acct = s.acct := (rfl)
@[simp] theorem setFi_tiles (p : Page) (r : Row) (i : Nat) (v : Nat) (s : State) : (setFi p r i v s).tiles = s.tiles := (rfl)
@[simp] theorem setFi_fus (p : Page) (r : Row) (i : Nat) (v : Nat) (s : State) : (setFi p r i v s).fus = s.fus := (rfl)
@[simp] theorem setFi_mbx (p : Page) (r : Row) (i : Nat) (v : Nat) (s : State) : (setFi p r i v s).mbx = s.mbx := (rfl)
@[simp] theorem setFi_ldg (p : Page) (r : Row) (i : Nat) (v : Nat) (s : State) : (setFi p r i v s).ldg = s.ldg := (rfl)
@[simp] theorem setFi_hld (p : Page) (r : Row) (i : Nat) (v : Nat) (s : State) : (setFi p r i v s).hld = s.hld := (rfl)
@[simp] theorem setFi_eth (p : Page) (r : Row) (i : Nat) (v : Nat) (s : State) : (setFi p r i v s).eth = s.eth := (rfl)
@[simp] theorem setFi_dlk (p : Page) (r : Row) (i : Nat) (v : Nat) (s : State) : (setFi p r i v s).dlk = s.dlk := (rfl)
@[simp] theorem setFi_ing (p : Page) (r : Row) (i : Nat) (v : Nat) (s : State) : (setFi p r i v s).ing = s.ing := (rfl)
@[simp] theorem setFi_lrn (p : Page) (r : Row) (i : Nat) (v : Nat) (s : State) : (setFi p r i v s).lrn = s.lrn := (rfl)
@[simp] theorem setFi_bw (p : Page) (r : Row) (i : Nat) (v : Nat) (s : State) : (setFi p r i v s).bw = s.bw := (rfl)
@[simp] theorem setFi_clap (p : Page) (r : Row) (i : Nat) (v : Nat) (s : State) : (setFi p r i v s).clap = s.clap := (rfl)
@[simp] theorem setFi_isl (p : Page) (r : Row) (i : Nat) (v : Nat) (s : State) : (setFi p r i v s).isl = s.isl := (rfl)
@[simp] theorem setFi_pwr (p : Page) (r : Row) (i : Nat) (v : Nat) (s : State) : (setFi p r i v s).pwr = s.pwr := (rfl)
@[simp] theorem setFi_boot (p : Page) (r : Row) (i : Nat) (v : Nat) (s : State) : (setFi p r i v s).boot = s.boot := (rfl)
@[simp] theorem setFi_mal (p : Page) (r : Row) (i : Nat) (v : Nat) (s : State) : (setFi p r i v s).mal = s.mal := (rfl)
@[simp] theorem setFi_pending (p : Page) (r : Row) (i : Nat) (v : Nat) (s : State) : (setFi p r i v s).pending = s.pending := (rfl)

/-! bump -/

@[simp] theorem bump_mem (p : Page) (r : Row) (n : Nat) (s : State) : (bump p r n s).mem = s.mem := (rfl)
@[simp] theorem bump_io (p : Page) (r : Row) (n : Nat) (s : State) : (bump p r n s).io = s.io := (rfl)
@[simp] theorem bump_links (p : Page) (r : Row) (n : Nat) (s : State) : (bump p r n s).links = s.links := (rfl)
@[simp] theorem bump_cyc (p : Page) (r : Row) (n : Nat) (s : State) : (bump p r n s).cyc = s.cyc := (rfl)
@[simp] theorem bump_seq (p : Page) (r : Row) (n : Nat) (s : State) : (bump p r n s).seq = s.seq := (rfl)
@[simp] theorem bump_dies (p : Page) (r : Row) (n : Nat) (s : State) : (bump p r n s).dies = s.dies := (rfl)
@[simp] theorem bump_parts (p : Page) (r : Row) (n : Nat) (s : State) : (bump p r n s).parts = s.parts := (rfl)
@[simp] theorem bump_acct (p : Page) (r : Row) (n : Nat) (s : State) : (bump p r n s).acct = s.acct := (rfl)
@[simp] theorem bump_tiles (p : Page) (r : Row) (n : Nat) (s : State) : (bump p r n s).tiles = s.tiles := (rfl)
@[simp] theorem bump_fus (p : Page) (r : Row) (n : Nat) (s : State) : (bump p r n s).fus = s.fus := (rfl)
@[simp] theorem bump_mbx (p : Page) (r : Row) (n : Nat) (s : State) : (bump p r n s).mbx = s.mbx := (rfl)
@[simp] theorem bump_ldg (p : Page) (r : Row) (n : Nat) (s : State) : (bump p r n s).ldg = s.ldg := (rfl)
@[simp] theorem bump_hld (p : Page) (r : Row) (n : Nat) (s : State) : (bump p r n s).hld = s.hld := (rfl)
@[simp] theorem bump_eth (p : Page) (r : Row) (n : Nat) (s : State) : (bump p r n s).eth = s.eth := (rfl)
@[simp] theorem bump_dlk (p : Page) (r : Row) (n : Nat) (s : State) : (bump p r n s).dlk = s.dlk := (rfl)
@[simp] theorem bump_ing (p : Page) (r : Row) (n : Nat) (s : State) : (bump p r n s).ing = s.ing := (rfl)
@[simp] theorem bump_lrn (p : Page) (r : Row) (n : Nat) (s : State) : (bump p r n s).lrn = s.lrn := (rfl)
@[simp] theorem bump_bw (p : Page) (r : Row) (n : Nat) (s : State) : (bump p r n s).bw = s.bw := (rfl)
@[simp] theorem bump_clap (p : Page) (r : Row) (n : Nat) (s : State) : (bump p r n s).clap = s.clap := (rfl)
@[simp] theorem bump_isl (p : Page) (r : Row) (n : Nat) (s : State) : (bump p r n s).isl = s.isl := (rfl)
@[simp] theorem bump_pwr (p : Page) (r : Row) (n : Nat) (s : State) : (bump p r n s).pwr = s.pwr := (rfl)
@[simp] theorem bump_boot (p : Page) (r : Row) (n : Nat) (s : State) : (bump p r n s).boot = s.boot := (rfl)
@[simp] theorem bump_mal (p : Page) (r : Row) (n : Nat) (s : State) : (bump p r n s).mal = s.mal := (rfl)
@[simp] theorem bump_pending (p : Page) (r : Row) (n : Nat) (s : State) : (bump p r n s).pending = s.pending := (rfl)

/-! bumpI -/

@[simp] theorem bumpI_mem (p : Page) (r : Row) (i : Nat) (n : Nat) (s : State) : (bumpI p r i n s).mem = s.mem := (rfl)
@[simp] theorem bumpI_io (p : Page) (r : Row) (i : Nat) (n : Nat) (s : State) : (bumpI p r i n s).io = s.io := (rfl)
@[simp] theorem bumpI_links (p : Page) (r : Row) (i : Nat) (n : Nat) (s : State) : (bumpI p r i n s).links = s.links := (rfl)
@[simp] theorem bumpI_cyc (p : Page) (r : Row) (i : Nat) (n : Nat) (s : State) : (bumpI p r i n s).cyc = s.cyc := (rfl)
@[simp] theorem bumpI_seq (p : Page) (r : Row) (i : Nat) (n : Nat) (s : State) : (bumpI p r i n s).seq = s.seq := (rfl)
@[simp] theorem bumpI_dies (p : Page) (r : Row) (i : Nat) (n : Nat) (s : State) : (bumpI p r i n s).dies = s.dies := (rfl)
@[simp] theorem bumpI_parts (p : Page) (r : Row) (i : Nat) (n : Nat) (s : State) : (bumpI p r i n s).parts = s.parts := (rfl)
@[simp] theorem bumpI_acct (p : Page) (r : Row) (i : Nat) (n : Nat) (s : State) : (bumpI p r i n s).acct = s.acct := (rfl)
@[simp] theorem bumpI_tiles (p : Page) (r : Row) (i : Nat) (n : Nat) (s : State) : (bumpI p r i n s).tiles = s.tiles := (rfl)
@[simp] theorem bumpI_fus (p : Page) (r : Row) (i : Nat) (n : Nat) (s : State) : (bumpI p r i n s).fus = s.fus := (rfl)
@[simp] theorem bumpI_mbx (p : Page) (r : Row) (i : Nat) (n : Nat) (s : State) : (bumpI p r i n s).mbx = s.mbx := (rfl)
@[simp] theorem bumpI_ldg (p : Page) (r : Row) (i : Nat) (n : Nat) (s : State) : (bumpI p r i n s).ldg = s.ldg := (rfl)
@[simp] theorem bumpI_hld (p : Page) (r : Row) (i : Nat) (n : Nat) (s : State) : (bumpI p r i n s).hld = s.hld := (rfl)
@[simp] theorem bumpI_eth (p : Page) (r : Row) (i : Nat) (n : Nat) (s : State) : (bumpI p r i n s).eth = s.eth := (rfl)
@[simp] theorem bumpI_dlk (p : Page) (r : Row) (i : Nat) (n : Nat) (s : State) : (bumpI p r i n s).dlk = s.dlk := (rfl)
@[simp] theorem bumpI_ing (p : Page) (r : Row) (i : Nat) (n : Nat) (s : State) : (bumpI p r i n s).ing = s.ing := (rfl)
@[simp] theorem bumpI_lrn (p : Page) (r : Row) (i : Nat) (n : Nat) (s : State) : (bumpI p r i n s).lrn = s.lrn := (rfl)
@[simp] theorem bumpI_bw (p : Page) (r : Row) (i : Nat) (n : Nat) (s : State) : (bumpI p r i n s).bw = s.bw := (rfl)
@[simp] theorem bumpI_clap (p : Page) (r : Row) (i : Nat) (n : Nat) (s : State) : (bumpI p r i n s).clap = s.clap := (rfl)
@[simp] theorem bumpI_isl (p : Page) (r : Row) (i : Nat) (n : Nat) (s : State) : (bumpI p r i n s).isl = s.isl := (rfl)
@[simp] theorem bumpI_pwr (p : Page) (r : Row) (i : Nat) (n : Nat) (s : State) : (bumpI p r i n s).pwr = s.pwr := (rfl)
@[simp] theorem bumpI_boot (p : Page) (r : Row) (i : Nat) (n : Nat) (s : State) : (bumpI p r i n s).boot = s.boot := (rfl)
@[simp] theorem bumpI_mal (p : Page) (r : Row) (i : Nat) (n : Nat) (s : State) : (bumpI p r i n s).mal = s.mal := (rfl)
@[simp] theorem bumpI_pending (p : Page) (r : Row) (i : Nat) (n : Nat) (s : State) : (bumpI p r i n s).pending = s.pending := (rfl)

/-! set64 -/

@[simp] theorem set64_mem (p : Page) (lo : Row) (hi : Row) (i : Nat) (v : Nat) (s : State) : (set64 p lo hi i v s).mem = s.mem := (rfl)
@[simp] theorem set64_io (p : Page) (lo : Row) (hi : Row) (i : Nat) (v : Nat) (s : State) : (set64 p lo hi i v s).io = s.io := (rfl)
@[simp] theorem set64_links (p : Page) (lo : Row) (hi : Row) (i : Nat) (v : Nat) (s : State) : (set64 p lo hi i v s).links = s.links := (rfl)
@[simp] theorem set64_cyc (p : Page) (lo : Row) (hi : Row) (i : Nat) (v : Nat) (s : State) : (set64 p lo hi i v s).cyc = s.cyc := (rfl)
@[simp] theorem set64_seq (p : Page) (lo : Row) (hi : Row) (i : Nat) (v : Nat) (s : State) : (set64 p lo hi i v s).seq = s.seq := (rfl)
@[simp] theorem set64_dies (p : Page) (lo : Row) (hi : Row) (i : Nat) (v : Nat) (s : State) : (set64 p lo hi i v s).dies = s.dies := (rfl)
@[simp] theorem set64_parts (p : Page) (lo : Row) (hi : Row) (i : Nat) (v : Nat) (s : State) : (set64 p lo hi i v s).parts = s.parts := (rfl)
@[simp] theorem set64_acct (p : Page) (lo : Row) (hi : Row) (i : Nat) (v : Nat) (s : State) : (set64 p lo hi i v s).acct = s.acct := (rfl)
@[simp] theorem set64_tiles (p : Page) (lo : Row) (hi : Row) (i : Nat) (v : Nat) (s : State) : (set64 p lo hi i v s).tiles = s.tiles := (rfl)
@[simp] theorem set64_fus (p : Page) (lo : Row) (hi : Row) (i : Nat) (v : Nat) (s : State) : (set64 p lo hi i v s).fus = s.fus := (rfl)
@[simp] theorem set64_mbx (p : Page) (lo : Row) (hi : Row) (i : Nat) (v : Nat) (s : State) : (set64 p lo hi i v s).mbx = s.mbx := (rfl)
@[simp] theorem set64_ldg (p : Page) (lo : Row) (hi : Row) (i : Nat) (v : Nat) (s : State) : (set64 p lo hi i v s).ldg = s.ldg := (rfl)
@[simp] theorem set64_hld (p : Page) (lo : Row) (hi : Row) (i : Nat) (v : Nat) (s : State) : (set64 p lo hi i v s).hld = s.hld := (rfl)
@[simp] theorem set64_eth (p : Page) (lo : Row) (hi : Row) (i : Nat) (v : Nat) (s : State) : (set64 p lo hi i v s).eth = s.eth := (rfl)
@[simp] theorem set64_dlk (p : Page) (lo : Row) (hi : Row) (i : Nat) (v : Nat) (s : State) : (set64 p lo hi i v s).dlk = s.dlk := (rfl)
@[simp] theorem set64_ing (p : Page) (lo : Row) (hi : Row) (i : Nat) (v : Nat) (s : State) : (set64 p lo hi i v s).ing = s.ing := (rfl)
@[simp] theorem set64_lrn (p : Page) (lo : Row) (hi : Row) (i : Nat) (v : Nat) (s : State) : (set64 p lo hi i v s).lrn = s.lrn := (rfl)
@[simp] theorem set64_bw (p : Page) (lo : Row) (hi : Row) (i : Nat) (v : Nat) (s : State) : (set64 p lo hi i v s).bw = s.bw := (rfl)
@[simp] theorem set64_clap (p : Page) (lo : Row) (hi : Row) (i : Nat) (v : Nat) (s : State) : (set64 p lo hi i v s).clap = s.clap := (rfl)
@[simp] theorem set64_isl (p : Page) (lo : Row) (hi : Row) (i : Nat) (v : Nat) (s : State) : (set64 p lo hi i v s).isl = s.isl := (rfl)
@[simp] theorem set64_pwr (p : Page) (lo : Row) (hi : Row) (i : Nat) (v : Nat) (s : State) : (set64 p lo hi i v s).pwr = s.pwr := (rfl)
@[simp] theorem set64_boot (p : Page) (lo : Row) (hi : Row) (i : Nat) (v : Nat) (s : State) : (set64 p lo hi i v s).boot = s.boot := (rfl)
@[simp] theorem set64_mal (p : Page) (lo : Row) (hi : Row) (i : Nat) (v : Nat) (s : State) : (set64 p lo hi i v s).mal = s.mal := (rfl)
@[simp] theorem set64_pending (p : Page) (lo : Row) (hi : Row) (i : Nat) (v : Nat) (s : State) : (set64 p lo hi i v s).pending = s.pending := (rfl)

/-! bump64 -/

@[simp] theorem bump64_mem (p : Page) (lo : Row) (hi : Row) (i : Nat) (n : Nat) (s : State) : (bump64 p lo hi i n s).mem = s.mem := (rfl)
@[simp] theorem bump64_io (p : Page) (lo : Row) (hi : Row) (i : Nat) (n : Nat) (s : State) : (bump64 p lo hi i n s).io = s.io := (rfl)
@[simp] theorem bump64_links (p : Page) (lo : Row) (hi : Row) (i : Nat) (n : Nat) (s : State) : (bump64 p lo hi i n s).links = s.links := (rfl)
@[simp] theorem bump64_cyc (p : Page) (lo : Row) (hi : Row) (i : Nat) (n : Nat) (s : State) : (bump64 p lo hi i n s).cyc = s.cyc := (rfl)
@[simp] theorem bump64_seq (p : Page) (lo : Row) (hi : Row) (i : Nat) (n : Nat) (s : State) : (bump64 p lo hi i n s).seq = s.seq := (rfl)
@[simp] theorem bump64_dies (p : Page) (lo : Row) (hi : Row) (i : Nat) (n : Nat) (s : State) : (bump64 p lo hi i n s).dies = s.dies := (rfl)
@[simp] theorem bump64_parts (p : Page) (lo : Row) (hi : Row) (i : Nat) (n : Nat) (s : State) : (bump64 p lo hi i n s).parts = s.parts := (rfl)
@[simp] theorem bump64_acct (p : Page) (lo : Row) (hi : Row) (i : Nat) (n : Nat) (s : State) : (bump64 p lo hi i n s).acct = s.acct := (rfl)
@[simp] theorem bump64_tiles (p : Page) (lo : Row) (hi : Row) (i : Nat) (n : Nat) (s : State) : (bump64 p lo hi i n s).tiles = s.tiles := (rfl)
@[simp] theorem bump64_fus (p : Page) (lo : Row) (hi : Row) (i : Nat) (n : Nat) (s : State) : (bump64 p lo hi i n s).fus = s.fus := (rfl)
@[simp] theorem bump64_mbx (p : Page) (lo : Row) (hi : Row) (i : Nat) (n : Nat) (s : State) : (bump64 p lo hi i n s).mbx = s.mbx := (rfl)
@[simp] theorem bump64_ldg (p : Page) (lo : Row) (hi : Row) (i : Nat) (n : Nat) (s : State) : (bump64 p lo hi i n s).ldg = s.ldg := (rfl)
@[simp] theorem bump64_hld (p : Page) (lo : Row) (hi : Row) (i : Nat) (n : Nat) (s : State) : (bump64 p lo hi i n s).hld = s.hld := (rfl)
@[simp] theorem bump64_eth (p : Page) (lo : Row) (hi : Row) (i : Nat) (n : Nat) (s : State) : (bump64 p lo hi i n s).eth = s.eth := (rfl)
@[simp] theorem bump64_dlk (p : Page) (lo : Row) (hi : Row) (i : Nat) (n : Nat) (s : State) : (bump64 p lo hi i n s).dlk = s.dlk := (rfl)
@[simp] theorem bump64_ing (p : Page) (lo : Row) (hi : Row) (i : Nat) (n : Nat) (s : State) : (bump64 p lo hi i n s).ing = s.ing := (rfl)
@[simp] theorem bump64_lrn (p : Page) (lo : Row) (hi : Row) (i : Nat) (n : Nat) (s : State) : (bump64 p lo hi i n s).lrn = s.lrn := (rfl)
@[simp] theorem bump64_bw (p : Page) (lo : Row) (hi : Row) (i : Nat) (n : Nat) (s : State) : (bump64 p lo hi i n s).bw = s.bw := (rfl)
@[simp] theorem bump64_clap (p : Page) (lo : Row) (hi : Row) (i : Nat) (n : Nat) (s : State) : (bump64 p lo hi i n s).clap = s.clap := (rfl)
@[simp] theorem bump64_isl (p : Page) (lo : Row) (hi : Row) (i : Nat) (n : Nat) (s : State) : (bump64 p lo hi i n s).isl = s.isl := (rfl)
@[simp] theorem bump64_pwr (p : Page) (lo : Row) (hi : Row) (i : Nat) (n : Nat) (s : State) : (bump64 p lo hi i n s).pwr = s.pwr := (rfl)
@[simp] theorem bump64_boot (p : Page) (lo : Row) (hi : Row) (i : Nat) (n : Nat) (s : State) : (bump64 p lo hi i n s).boot = s.boot := (rfl)
@[simp] theorem bump64_mal (p : Page) (lo : Row) (hi : Row) (i : Nat) (n : Nat) (s : State) : (bump64 p lo hi i n s).mal = s.mal := (rfl)
@[simp] theorem bump64_pending (p : Page) (lo : Row) (hi : Row) (i : Nat) (n : Nat) (s : State) : (bump64 p lo hi i n s).pending = s.pending := (rfl)

/-! emit -/

@[simp] theorem emit_regs (e : Emission) (s : State) : (emit e s).regs = s.regs := (rfl)
@[simp] theorem emit_mem (e : Emission) (s : State) : (emit e s).mem = s.mem := (rfl)
@[simp] theorem emit_links (e : Emission) (s : State) : (emit e s).links = s.links := (rfl)
@[simp] theorem emit_cyc (e : Emission) (s : State) : (emit e s).cyc = s.cyc := (rfl)
@[simp] theorem emit_seq (e : Emission) (s : State) : (emit e s).seq = s.seq := (rfl)
@[simp] theorem emit_dies (e : Emission) (s : State) : (emit e s).dies = s.dies := (rfl)
@[simp] theorem emit_parts (e : Emission) (s : State) : (emit e s).parts = s.parts := (rfl)
@[simp] theorem emit_acct (e : Emission) (s : State) : (emit e s).acct = s.acct := (rfl)
@[simp] theorem emit_tiles (e : Emission) (s : State) : (emit e s).tiles = s.tiles := (rfl)
@[simp] theorem emit_fus (e : Emission) (s : State) : (emit e s).fus = s.fus := (rfl)
@[simp] theorem emit_mbx (e : Emission) (s : State) : (emit e s).mbx = s.mbx := (rfl)
@[simp] theorem emit_ldg (e : Emission) (s : State) : (emit e s).ldg = s.ldg := (rfl)
@[simp] theorem emit_hld (e : Emission) (s : State) : (emit e s).hld = s.hld := (rfl)
@[simp] theorem emit_eth (e : Emission) (s : State) : (emit e s).eth = s.eth := (rfl)
@[simp] theorem emit_dlk (e : Emission) (s : State) : (emit e s).dlk = s.dlk := (rfl)
@[simp] theorem emit_ing (e : Emission) (s : State) : (emit e s).ing = s.ing := (rfl)
@[simp] theorem emit_lrn (e : Emission) (s : State) : (emit e s).lrn = s.lrn := (rfl)
@[simp] theorem emit_bw (e : Emission) (s : State) : (emit e s).bw = s.bw := (rfl)
@[simp] theorem emit_clap (e : Emission) (s : State) : (emit e s).clap = s.clap := (rfl)
@[simp] theorem emit_isl (e : Emission) (s : State) : (emit e s).isl = s.isl := (rfl)
@[simp] theorem emit_pwr (e : Emission) (s : State) : (emit e s).pwr = s.pwr := (rfl)
@[simp] theorem emit_boot (e : Emission) (s : State) : (emit e s).boot = s.boot := (rfl)
@[simp] theorem emit_mal (e : Emission) (s : State) : (emit e s).mal = s.mal := (rfl)
@[simp] theorem emit_pending (e : Emission) (s : State) : (emit e s).pending = s.pending := (rfl)
@[simp] theorem getF_emit (e : Emission) (s : State) (p_ : Page) (r_ : Row) : getF (emit e s) p_ r_ = getF s p_ r_ := (rfl)
@[simp] theorem getFi_emit (e : Emission) (s : State) (p_ : Page) (r_ : Row) (i_ : Nat) : getFi (emit e s) p_ r_ i_ = getFi s p_ r_ i_ := (rfl)

/-! answer -/

@[simp] theorem answer_regs (data : List Byte) (done : Bool) (abort : Bool) (s : State) : (answer data done abort s).regs = s.regs := (rfl)
@[simp] theorem answer_mem (data : List Byte) (done : Bool) (abort : Bool) (s : State) : (answer data done abort s).mem = s.mem := (rfl)
@[simp] theorem answer_links (data : List Byte) (done : Bool) (abort : Bool) (s : State) : (answer data done abort s).links = s.links := (rfl)
@[simp] theorem answer_cyc (data : List Byte) (done : Bool) (abort : Bool) (s : State) : (answer data done abort s).cyc = s.cyc := (rfl)
@[simp] theorem answer_seq (data : List Byte) (done : Bool) (abort : Bool) (s : State) : (answer data done abort s).seq = s.seq := (rfl)
@[simp] theorem answer_dies (data : List Byte) (done : Bool) (abort : Bool) (s : State) : (answer data done abort s).dies = s.dies := (rfl)
@[simp] theorem answer_parts (data : List Byte) (done : Bool) (abort : Bool) (s : State) : (answer data done abort s).parts = s.parts := (rfl)
@[simp] theorem answer_acct (data : List Byte) (done : Bool) (abort : Bool) (s : State) : (answer data done abort s).acct = s.acct := (rfl)
@[simp] theorem answer_tiles (data : List Byte) (done : Bool) (abort : Bool) (s : State) : (answer data done abort s).tiles = s.tiles := (rfl)
@[simp] theorem answer_fus (data : List Byte) (done : Bool) (abort : Bool) (s : State) : (answer data done abort s).fus = s.fus := (rfl)
@[simp] theorem answer_mbx (data : List Byte) (done : Bool) (abort : Bool) (s : State) : (answer data done abort s).mbx = s.mbx := (rfl)
@[simp] theorem answer_ldg (data : List Byte) (done : Bool) (abort : Bool) (s : State) : (answer data done abort s).ldg = s.ldg := (rfl)
@[simp] theorem answer_hld (data : List Byte) (done : Bool) (abort : Bool) (s : State) : (answer data done abort s).hld = s.hld := (rfl)
@[simp] theorem answer_eth (data : List Byte) (done : Bool) (abort : Bool) (s : State) : (answer data done abort s).eth = s.eth := (rfl)
@[simp] theorem answer_dlk (data : List Byte) (done : Bool) (abort : Bool) (s : State) : (answer data done abort s).dlk = s.dlk := (rfl)
@[simp] theorem answer_ing (data : List Byte) (done : Bool) (abort : Bool) (s : State) : (answer data done abort s).ing = s.ing := (rfl)
@[simp] theorem answer_lrn (data : List Byte) (done : Bool) (abort : Bool) (s : State) : (answer data done abort s).lrn = s.lrn := (rfl)
@[simp] theorem answer_bw (data : List Byte) (done : Bool) (abort : Bool) (s : State) : (answer data done abort s).bw = s.bw := (rfl)
@[simp] theorem answer_clap (data : List Byte) (done : Bool) (abort : Bool) (s : State) : (answer data done abort s).clap = s.clap := (rfl)
@[simp] theorem answer_isl (data : List Byte) (done : Bool) (abort : Bool) (s : State) : (answer data done abort s).isl = s.isl := (rfl)
@[simp] theorem answer_pwr (data : List Byte) (done : Bool) (abort : Bool) (s : State) : (answer data done abort s).pwr = s.pwr := (rfl)
@[simp] theorem answer_boot (data : List Byte) (done : Bool) (abort : Bool) (s : State) : (answer data done abort s).boot = s.boot := (rfl)
@[simp] theorem answer_mal (data : List Byte) (done : Bool) (abort : Bool) (s : State) : (answer data done abort s).mal = s.mal := (rfl)
@[simp] theorem answer_pending (data : List Byte) (done : Bool) (abort : Bool) (s : State) : (answer data done abort s).pending = s.pending := (rfl)
@[simp] theorem getF_answer (data : List Byte) (done : Bool) (abort : Bool) (s : State) (p_ : Page) (r_ : Row) : getF (answer data done abort s) p_ r_ = getF s p_ r_ := (rfl)
@[simp] theorem getFi_answer (data : List Byte) (done : Bool) (abort : Bool) (s : State) (p_ : Page) (r_ : Row) (i_ : Nat) : getFi (answer data done abort s) p_ r_ i_ = getFi s p_ r_ i_ := (rfl)

/-! at_ -/

@[simp] theorem at_regs (t : Nat) (s : State) : (at_ t s).regs = s.regs := (rfl)
@[simp] theorem at_mem (t : Nat) (s : State) : (at_ t s).mem = s.mem := (rfl)
@[simp] theorem at_links (t : Nat) (s : State) : (at_ t s).links = s.links := (rfl)
@[simp] theorem at_cyc (t : Nat) (s : State) : (at_ t s).cyc = s.cyc := (rfl)
@[simp] theorem at_seq (t : Nat) (s : State) : (at_ t s).seq = s.seq := (rfl)
@[simp] theorem at_dies (t : Nat) (s : State) : (at_ t s).dies = s.dies := (rfl)
@[simp] theorem at_parts (t : Nat) (s : State) : (at_ t s).parts = s.parts := (rfl)
@[simp] theorem at_acct (t : Nat) (s : State) : (at_ t s).acct = s.acct := (rfl)
@[simp] theorem at_tiles (t : Nat) (s : State) : (at_ t s).tiles = s.tiles := (rfl)
@[simp] theorem at_fus (t : Nat) (s : State) : (at_ t s).fus = s.fus := (rfl)
@[simp] theorem at_mbx (t : Nat) (s : State) : (at_ t s).mbx = s.mbx := (rfl)
@[simp] theorem at_ldg (t : Nat) (s : State) : (at_ t s).ldg = s.ldg := (rfl)
@[simp] theorem at_hld (t : Nat) (s : State) : (at_ t s).hld = s.hld := (rfl)
@[simp] theorem at_eth (t : Nat) (s : State) : (at_ t s).eth = s.eth := (rfl)
@[simp] theorem at_dlk (t : Nat) (s : State) : (at_ t s).dlk = s.dlk := (rfl)
@[simp] theorem at_ing (t : Nat) (s : State) : (at_ t s).ing = s.ing := (rfl)
@[simp] theorem at_lrn (t : Nat) (s : State) : (at_ t s).lrn = s.lrn := (rfl)
@[simp] theorem at_bw (t : Nat) (s : State) : (at_ t s).bw = s.bw := (rfl)
@[simp] theorem at_clap (t : Nat) (s : State) : (at_ t s).clap = s.clap := (rfl)
@[simp] theorem at_isl (t : Nat) (s : State) : (at_ t s).isl = s.isl := (rfl)
@[simp] theorem at_pwr (t : Nat) (s : State) : (at_ t s).pwr = s.pwr := (rfl)
@[simp] theorem at_boot (t : Nat) (s : State) : (at_ t s).boot = s.boot := (rfl)
@[simp] theorem at_mal (t : Nat) (s : State) : (at_ t s).mal = s.mal := (rfl)
@[simp] theorem at_pending (t : Nat) (s : State) : (at_ t s).pending = s.pending := (rfl)
@[simp] theorem getF_at (t : Nat) (s : State) (p_ : Page) (r_ : Row) : getF (at_ t s) p_ r_ = getF s p_ r_ := (rfl)
@[simp] theorem getFi_at (t : Nat) (s : State) (p_ : Page) (r_ : Row) (i_ : Nat) : getFi (at_ t s) p_ r_ i_ = getFi s p_ r_ i_ := (rfl)

/-! setPortF -/

@[simp] theorem setPortF_mem (p : Nat) (r : Row) (v : Nat) (s : State) : (setPortF p r v s).mem = s.mem := (rfl)
@[simp] theorem setPortF_io (p : Nat) (r : Row) (v : Nat) (s : State) : (setPortF p r v s).io = s.io := (rfl)
@[simp] theorem setPortF_links (p : Nat) (r : Row) (v : Nat) (s : State) : (setPortF p r v s).links = s.links := (rfl)
@[simp] theorem setPortF_cyc (p : Nat) (r : Row) (v : Nat) (s : State) : (setPortF p r v s).cyc = s.cyc := (rfl)
@[simp] theorem setPortF_seq (p : Nat) (r : Row) (v : Nat) (s : State) : (setPortF p r v s).seq = s.seq := (rfl)
@[simp] theorem setPortF_dies (p : Nat) (r : Row) (v : Nat) (s : State) : (setPortF p r v s).dies = s.dies := (rfl)
@[simp] theorem setPortF_parts (p : Nat) (r : Row) (v : Nat) (s : State) : (setPortF p r v s).parts = s.parts := (rfl)
@[simp] theorem setPortF_acct (p : Nat) (r : Row) (v : Nat) (s : State) : (setPortF p r v s).acct = s.acct := (rfl)
@[simp] theorem setPortF_tiles (p : Nat) (r : Row) (v : Nat) (s : State) : (setPortF p r v s).tiles = s.tiles := (rfl)
@[simp] theorem setPortF_fus (p : Nat) (r : Row) (v : Nat) (s : State) : (setPortF p r v s).fus = s.fus := (rfl)
@[simp] theorem setPortF_mbx (p : Nat) (r : Row) (v : Nat) (s : State) : (setPortF p r v s).mbx = s.mbx := (rfl)
@[simp] theorem setPortF_ldg (p : Nat) (r : Row) (v : Nat) (s : State) : (setPortF p r v s).ldg = s.ldg := (rfl)
@[simp] theorem setPortF_hld (p : Nat) (r : Row) (v : Nat) (s : State) : (setPortF p r v s).hld = s.hld := (rfl)
@[simp] theorem setPortF_eth (p : Nat) (r : Row) (v : Nat) (s : State) : (setPortF p r v s).eth = s.eth := (rfl)
@[simp] theorem setPortF_dlk (p : Nat) (r : Row) (v : Nat) (s : State) : (setPortF p r v s).dlk = s.dlk := (rfl)
@[simp] theorem setPortF_ing (p : Nat) (r : Row) (v : Nat) (s : State) : (setPortF p r v s).ing = s.ing := (rfl)
@[simp] theorem setPortF_lrn (p : Nat) (r : Row) (v : Nat) (s : State) : (setPortF p r v s).lrn = s.lrn := (rfl)
@[simp] theorem setPortF_bw (p : Nat) (r : Row) (v : Nat) (s : State) : (setPortF p r v s).bw = s.bw := (rfl)
@[simp] theorem setPortF_clap (p : Nat) (r : Row) (v : Nat) (s : State) : (setPortF p r v s).clap = s.clap := (rfl)
@[simp] theorem setPortF_isl (p : Nat) (r : Row) (v : Nat) (s : State) : (setPortF p r v s).isl = s.isl := (rfl)
@[simp] theorem setPortF_pwr (p : Nat) (r : Row) (v : Nat) (s : State) : (setPortF p r v s).pwr = s.pwr := (rfl)
@[simp] theorem setPortF_boot (p : Nat) (r : Row) (v : Nat) (s : State) : (setPortF p r v s).boot = s.boot := (rfl)
@[simp] theorem setPortF_mal (p : Nat) (r : Row) (v : Nat) (s : State) : (setPortF p r v s).mal = s.mal := (rfl)
@[simp] theorem setPortF_pending (p : Nat) (r : Row) (v : Nat) (s : State) : (setPortF p r v s).pending = s.pending := (rfl)

/-! modHld -/

@[simp] theorem modHld_regs (f : Hld → Hld) (s : State) : (modHld f s).regs = s.regs := (rfl)
@[simp] theorem modHld_mem (f : Hld → Hld) (s : State) : (modHld f s).mem = s.mem := (rfl)
@[simp] theorem modHld_io (f : Hld → Hld) (s : State) : (modHld f s).io = s.io := (rfl)
@[simp] theorem modHld_links (f : Hld → Hld) (s : State) : (modHld f s).links = s.links := (rfl)
@[simp] theorem modHld_cyc (f : Hld → Hld) (s : State) : (modHld f s).cyc = s.cyc := (rfl)
@[simp] theorem modHld_seq (f : Hld → Hld) (s : State) : (modHld f s).seq = s.seq := (rfl)
@[simp] theorem modHld_dies (f : Hld → Hld) (s : State) : (modHld f s).dies = s.dies := (rfl)
@[simp] theorem modHld_parts (f : Hld → Hld) (s : State) : (modHld f s).parts = s.parts := (rfl)
@[simp] theorem modHld_acct (f : Hld → Hld) (s : State) : (modHld f s).acct = s.acct := (rfl)
@[simp] theorem modHld_tiles (f : Hld → Hld) (s : State) : (modHld f s).tiles = s.tiles := (rfl)
@[simp] theorem modHld_fus (f : Hld → Hld) (s : State) : (modHld f s).fus = s.fus := (rfl)
@[simp] theorem modHld_mbx (f : Hld → Hld) (s : State) : (modHld f s).mbx = s.mbx := (rfl)
@[simp] theorem modHld_ldg (f : Hld → Hld) (s : State) : (modHld f s).ldg = s.ldg := (rfl)
@[simp] theorem modHld_eth (f : Hld → Hld) (s : State) : (modHld f s).eth = s.eth := (rfl)
@[simp] theorem modHld_dlk (f : Hld → Hld) (s : State) : (modHld f s).dlk = s.dlk := (rfl)
@[simp] theorem modHld_ing (f : Hld → Hld) (s : State) : (modHld f s).ing = s.ing := (rfl)
@[simp] theorem modHld_lrn (f : Hld → Hld) (s : State) : (modHld f s).lrn = s.lrn := (rfl)
@[simp] theorem modHld_bw (f : Hld → Hld) (s : State) : (modHld f s).bw = s.bw := (rfl)
@[simp] theorem modHld_clap (f : Hld → Hld) (s : State) : (modHld f s).clap = s.clap := (rfl)
@[simp] theorem modHld_isl (f : Hld → Hld) (s : State) : (modHld f s).isl = s.isl := (rfl)
@[simp] theorem modHld_pwr (f : Hld → Hld) (s : State) : (modHld f s).pwr = s.pwr := (rfl)
@[simp] theorem modHld_boot (f : Hld → Hld) (s : State) : (modHld f s).boot = s.boot := (rfl)
@[simp] theorem modHld_mal (f : Hld → Hld) (s : State) : (modHld f s).mal = s.mal := (rfl)
@[simp] theorem modHld_pending (f : Hld → Hld) (s : State) : (modHld f s).pending = s.pending := (rfl)
@[simp] theorem getF_modHld (f : Hld → Hld) (s : State) (p_ : Page) (r_ : Row) : getF (modHld f s) p_ r_ = getF s p_ r_ := (rfl)
@[simp] theorem getFi_modHld (f : Hld → Hld) (s : State) (p_ : Page) (r_ : Row) (i_ : Nat) : getFi (modHld f s) p_ r_ i_ = getFi s p_ r_ i_ := (rfl)

/-! modIsl -/

@[simp] theorem modIsl_regs (i : Nat) (f : Isl → Isl) (s : State) : (modIsl i f s).regs = s.regs := (rfl)
@[simp] theorem modIsl_mem (i : Nat) (f : Isl → Isl) (s : State) : (modIsl i f s).mem = s.mem := (rfl)
@[simp] theorem modIsl_io (i : Nat) (f : Isl → Isl) (s : State) : (modIsl i f s).io = s.io := (rfl)
@[simp] theorem modIsl_links (i : Nat) (f : Isl → Isl) (s : State) : (modIsl i f s).links = s.links := (rfl)
@[simp] theorem modIsl_cyc (i : Nat) (f : Isl → Isl) (s : State) : (modIsl i f s).cyc = s.cyc := (rfl)
@[simp] theorem modIsl_seq (i : Nat) (f : Isl → Isl) (s : State) : (modIsl i f s).seq = s.seq := (rfl)
@[simp] theorem modIsl_dies (i : Nat) (f : Isl → Isl) (s : State) : (modIsl i f s).dies = s.dies := (rfl)
@[simp] theorem modIsl_parts (i : Nat) (f : Isl → Isl) (s : State) : (modIsl i f s).parts = s.parts := (rfl)
@[simp] theorem modIsl_acct (i : Nat) (f : Isl → Isl) (s : State) : (modIsl i f s).acct = s.acct := (rfl)
@[simp] theorem modIsl_tiles (i : Nat) (f : Isl → Isl) (s : State) : (modIsl i f s).tiles = s.tiles := (rfl)
@[simp] theorem modIsl_fus (i : Nat) (f : Isl → Isl) (s : State) : (modIsl i f s).fus = s.fus := (rfl)
@[simp] theorem modIsl_mbx (i : Nat) (f : Isl → Isl) (s : State) : (modIsl i f s).mbx = s.mbx := (rfl)
@[simp] theorem modIsl_ldg (i : Nat) (f : Isl → Isl) (s : State) : (modIsl i f s).ldg = s.ldg := (rfl)
@[simp] theorem modIsl_hld (i : Nat) (f : Isl → Isl) (s : State) : (modIsl i f s).hld = s.hld := (rfl)
@[simp] theorem modIsl_eth (i : Nat) (f : Isl → Isl) (s : State) : (modIsl i f s).eth = s.eth := (rfl)
@[simp] theorem modIsl_dlk (i : Nat) (f : Isl → Isl) (s : State) : (modIsl i f s).dlk = s.dlk := (rfl)
@[simp] theorem modIsl_ing (i : Nat) (f : Isl → Isl) (s : State) : (modIsl i f s).ing = s.ing := (rfl)
@[simp] theorem modIsl_lrn (i : Nat) (f : Isl → Isl) (s : State) : (modIsl i f s).lrn = s.lrn := (rfl)
@[simp] theorem modIsl_bw (i : Nat) (f : Isl → Isl) (s : State) : (modIsl i f s).bw = s.bw := (rfl)
@[simp] theorem modIsl_clap (i : Nat) (f : Isl → Isl) (s : State) : (modIsl i f s).clap = s.clap := (rfl)
@[simp] theorem modIsl_pwr (i : Nat) (f : Isl → Isl) (s : State) : (modIsl i f s).pwr = s.pwr := (rfl)
@[simp] theorem modIsl_boot (i : Nat) (f : Isl → Isl) (s : State) : (modIsl i f s).boot = s.boot := (rfl)
@[simp] theorem modIsl_mal (i : Nat) (f : Isl → Isl) (s : State) : (modIsl i f s).mal = s.mal := (rfl)
@[simp] theorem modIsl_pending (i : Nat) (f : Isl → Isl) (s : State) : (modIsl i f s).pending = s.pending := (rfl)
@[simp] theorem getF_modIsl (i : Nat) (f : Isl → Isl) (s : State) (p_ : Page) (r_ : Row) : getF (modIsl i f s) p_ r_ = getF s p_ r_ := (rfl)
@[simp] theorem getFi_modIsl (i : Nat) (f : Isl → Isl) (s : State) (p_ : Page) (r_ : Row) (i_ : Nat) : getFi (modIsl i f s) p_ r_ i_ = getFi s p_ r_ i_ := (rfl)

/-! modFrame -/

@[simp] theorem modFrame_regs (sm : Nat) (f : Frame → Frame) (s : State) : (modFrame sm f s).regs = s.regs := (rfl)
@[simp] theorem modFrame_mem (sm : Nat) (f : Frame → Frame) (s : State) : (modFrame sm f s).mem = s.mem := (rfl)
@[simp] theorem modFrame_io (sm : Nat) (f : Frame → Frame) (s : State) : (modFrame sm f s).io = s.io := (rfl)
@[simp] theorem modFrame_links (sm : Nat) (f : Frame → Frame) (s : State) : (modFrame sm f s).links = s.links := (rfl)
@[simp] theorem modFrame_cyc (sm : Nat) (f : Frame → Frame) (s : State) : (modFrame sm f s).cyc = s.cyc := (rfl)
@[simp] theorem modFrame_seq (sm : Nat) (f : Frame → Frame) (s : State) : (modFrame sm f s).seq = s.seq := (rfl)
@[simp] theorem modFrame_dies (sm : Nat) (f : Frame → Frame) (s : State) : (modFrame sm f s).dies = s.dies := (rfl)
@[simp] theorem modFrame_parts (sm : Nat) (f : Frame → Frame) (s : State) : (modFrame sm f s).parts = s.parts := (rfl)
@[simp] theorem modFrame_acct (sm : Nat) (f : Frame → Frame) (s : State) : (modFrame sm f s).acct = s.acct := (rfl)
@[simp] theorem modFrame_tiles (sm : Nat) (f : Frame → Frame) (s : State) : (modFrame sm f s).tiles = s.tiles := (rfl)
@[simp] theorem modFrame_fus (sm : Nat) (f : Frame → Frame) (s : State) : (modFrame sm f s).fus = s.fus := (rfl)
@[simp] theorem modFrame_mbx (sm : Nat) (f : Frame → Frame) (s : State) : (modFrame sm f s).mbx = s.mbx := (rfl)
@[simp] theorem modFrame_ldg (sm : Nat) (f : Frame → Frame) (s : State) : (modFrame sm f s).ldg = s.ldg := (rfl)
@[simp] theorem modFrame_hld (sm : Nat) (f : Frame → Frame) (s : State) : (modFrame sm f s).hld = s.hld := (rfl)
@[simp] theorem modFrame_eth (sm : Nat) (f : Frame → Frame) (s : State) : (modFrame sm f s).eth = s.eth := (rfl)
@[simp] theorem modFrame_dlk (sm : Nat) (f : Frame → Frame) (s : State) : (modFrame sm f s).dlk = s.dlk := (rfl)
@[simp] theorem modFrame_lrn (sm : Nat) (f : Frame → Frame) (s : State) : (modFrame sm f s).lrn = s.lrn := (rfl)
@[simp] theorem modFrame_bw (sm : Nat) (f : Frame → Frame) (s : State) : (modFrame sm f s).bw = s.bw := (rfl)
@[simp] theorem modFrame_clap (sm : Nat) (f : Frame → Frame) (s : State) : (modFrame sm f s).clap = s.clap := (rfl)
@[simp] theorem modFrame_isl (sm : Nat) (f : Frame → Frame) (s : State) : (modFrame sm f s).isl = s.isl := (rfl)
@[simp] theorem modFrame_pwr (sm : Nat) (f : Frame → Frame) (s : State) : (modFrame sm f s).pwr = s.pwr := (rfl)
@[simp] theorem modFrame_boot (sm : Nat) (f : Frame → Frame) (s : State) : (modFrame sm f s).boot = s.boot := (rfl)
@[simp] theorem modFrame_mal (sm : Nat) (f : Frame → Frame) (s : State) : (modFrame sm f s).mal = s.mal := (rfl)
@[simp] theorem modFrame_pending (sm : Nat) (f : Frame → Frame) (s : State) : (modFrame sm f s).pending = s.pending := (rfl)
@[simp] theorem getF_modFrame (sm : Nat) (f : Frame → Frame) (s : State) (p_ : Page) (r_ : Row) : getF (modFrame sm f s) p_ r_ = getF s p_ r_ := (rfl)
@[simp] theorem getFi_modFrame (sm : Nat) (f : Frame → Frame) (s : State) (p_ : Page) (r_ : Row) (i_ : Nat) : getFi (modFrame sm f s) p_ r_ i_ = getFi s p_ r_ i_ := (rfl)

/-! modLdg -/

@[simp] theorem modLdg_regs (f : Ldg → Ldg) (s : State) : (modLdg f s).regs = s.regs := (rfl)
@[simp] theorem modLdg_mem (f : Ldg → Ldg) (s : State) : (modLdg f s).mem = s.mem := (rfl)
@[simp] theorem modLdg_io (f : Ldg → Ldg) (s : State) : (modLdg f s).io = s.io := (rfl)
@[simp] theorem modLdg_links (f : Ldg → Ldg) (s : State) : (modLdg f s).links = s.links := (rfl)
@[simp] theorem modLdg_cyc (f : Ldg → Ldg) (s : State) : (modLdg f s).cyc = s.cyc := (rfl)
@[simp] theorem modLdg_seq (f : Ldg → Ldg) (s : State) : (modLdg f s).seq = s.seq := (rfl)
@[simp] theorem modLdg_dies (f : Ldg → Ldg) (s : State) : (modLdg f s).dies = s.dies := (rfl)
@[simp] theorem modLdg_parts (f : Ldg → Ldg) (s : State) : (modLdg f s).parts = s.parts := (rfl)
@[simp] theorem modLdg_acct (f : Ldg → Ldg) (s : State) : (modLdg f s).acct = s.acct := (rfl)
@[simp] theorem modLdg_tiles (f : Ldg → Ldg) (s : State) : (modLdg f s).tiles = s.tiles := (rfl)
@[simp] theorem modLdg_fus (f : Ldg → Ldg) (s : State) : (modLdg f s).fus = s.fus := (rfl)
@[simp] theorem modLdg_mbx (f : Ldg → Ldg) (s : State) : (modLdg f s).mbx = s.mbx := (rfl)
@[simp] theorem modLdg_hld (f : Ldg → Ldg) (s : State) : (modLdg f s).hld = s.hld := (rfl)
@[simp] theorem modLdg_eth (f : Ldg → Ldg) (s : State) : (modLdg f s).eth = s.eth := (rfl)
@[simp] theorem modLdg_dlk (f : Ldg → Ldg) (s : State) : (modLdg f s).dlk = s.dlk := (rfl)
@[simp] theorem modLdg_ing (f : Ldg → Ldg) (s : State) : (modLdg f s).ing = s.ing := (rfl)
@[simp] theorem modLdg_lrn (f : Ldg → Ldg) (s : State) : (modLdg f s).lrn = s.lrn := (rfl)
@[simp] theorem modLdg_bw (f : Ldg → Ldg) (s : State) : (modLdg f s).bw = s.bw := (rfl)
@[simp] theorem modLdg_clap (f : Ldg → Ldg) (s : State) : (modLdg f s).clap = s.clap := (rfl)
@[simp] theorem modLdg_isl (f : Ldg → Ldg) (s : State) : (modLdg f s).isl = s.isl := (rfl)
@[simp] theorem modLdg_pwr (f : Ldg → Ldg) (s : State) : (modLdg f s).pwr = s.pwr := (rfl)
@[simp] theorem modLdg_boot (f : Ldg → Ldg) (s : State) : (modLdg f s).boot = s.boot := (rfl)
@[simp] theorem modLdg_mal (f : Ldg → Ldg) (s : State) : (modLdg f s).mal = s.mal := (rfl)
@[simp] theorem modLdg_pending (f : Ldg → Ldg) (s : State) : (modLdg f s).pending = s.pending := (rfl)
@[simp] theorem getF_modLdg (f : Ldg → Ldg) (s : State) (p_ : Page) (r_ : Row) : getF (modLdg f s) p_ r_ = getF s p_ r_ := (rfl)
@[simp] theorem getFi_modLdg (f : Ldg → Ldg) (s : State) (p_ : Page) (r_ : Row) (i_ : Nat) : getFi (modLdg f s) p_ r_ i_ = getFi s p_ r_ i_ := (rfl)

/-! modMal -/

@[simp] theorem modMal_regs (f : Mal → Mal) (s : State) : (modMal f s).regs = s.regs := (rfl)
@[simp] theorem modMal_mem (f : Mal → Mal) (s : State) : (modMal f s).mem = s.mem := (rfl)
@[simp] theorem modMal_io (f : Mal → Mal) (s : State) : (modMal f s).io = s.io := (rfl)
@[simp] theorem modMal_links (f : Mal → Mal) (s : State) : (modMal f s).links = s.links := (rfl)
@[simp] theorem modMal_cyc (f : Mal → Mal) (s : State) : (modMal f s).cyc = s.cyc := (rfl)
@[simp] theorem modMal_seq (f : Mal → Mal) (s : State) : (modMal f s).seq = s.seq := (rfl)
@[simp] theorem modMal_dies (f : Mal → Mal) (s : State) : (modMal f s).dies = s.dies := (rfl)
@[simp] theorem modMal_parts (f : Mal → Mal) (s : State) : (modMal f s).parts = s.parts := (rfl)
@[simp] theorem modMal_acct (f : Mal → Mal) (s : State) : (modMal f s).acct = s.acct := (rfl)
@[simp] theorem modMal_tiles (f : Mal → Mal) (s : State) : (modMal f s).tiles = s.tiles := (rfl)
@[simp] theorem modMal_fus (f : Mal → Mal) (s : State) : (modMal f s).fus = s.fus := (rfl)
@[simp] theorem modMal_mbx (f : Mal → Mal) (s : State) : (modMal f s).mbx = s.mbx := (rfl)
@[simp] theorem modMal_ldg (f : Mal → Mal) (s : State) : (modMal f s).ldg = s.ldg := (rfl)
@[simp] theorem modMal_hld (f : Mal → Mal) (s : State) : (modMal f s).hld = s.hld := (rfl)
@[simp] theorem modMal_eth (f : Mal → Mal) (s : State) : (modMal f s).eth = s.eth := (rfl)
@[simp] theorem modMal_dlk (f : Mal → Mal) (s : State) : (modMal f s).dlk = s.dlk := (rfl)
@[simp] theorem modMal_ing (f : Mal → Mal) (s : State) : (modMal f s).ing = s.ing := (rfl)
@[simp] theorem modMal_lrn (f : Mal → Mal) (s : State) : (modMal f s).lrn = s.lrn := (rfl)
@[simp] theorem modMal_bw (f : Mal → Mal) (s : State) : (modMal f s).bw = s.bw := (rfl)
@[simp] theorem modMal_clap (f : Mal → Mal) (s : State) : (modMal f s).clap = s.clap := (rfl)
@[simp] theorem modMal_isl (f : Mal → Mal) (s : State) : (modMal f s).isl = s.isl := (rfl)
@[simp] theorem modMal_pwr (f : Mal → Mal) (s : State) : (modMal f s).pwr = s.pwr := (rfl)
@[simp] theorem modMal_boot (f : Mal → Mal) (s : State) : (modMal f s).boot = s.boot := (rfl)
@[simp] theorem modMal_pending (f : Mal → Mal) (s : State) : (modMal f s).pending = s.pending := (rfl)
@[simp] theorem getF_modMal (f : Mal → Mal) (s : State) (p_ : Page) (r_ : Row) : getF (modMal f s) p_ r_ = getF s p_ r_ := (rfl)
@[simp] theorem getFi_modMal (f : Mal → Mal) (s : State) (p_ : Page) (r_ : Row) (i_ : Nat) : getFi (modMal f s) p_ r_ i_ = getFi s p_ r_ i_ := (rfl)

/-! modBoot -/

@[simp] theorem modBoot_regs (f : Boot → Boot) (s : State) : (modBoot f s).regs = s.regs := (rfl)
@[simp] theorem modBoot_mem (f : Boot → Boot) (s : State) : (modBoot f s).mem = s.mem := (rfl)
@[simp] theorem modBoot_io (f : Boot → Boot) (s : State) : (modBoot f s).io = s.io := (rfl)
@[simp] theorem modBoot_links (f : Boot → Boot) (s : State) : (modBoot f s).links = s.links := (rfl)
@[simp] theorem modBoot_cyc (f : Boot → Boot) (s : State) : (modBoot f s).cyc = s.cyc := (rfl)
@[simp] theorem modBoot_seq (f : Boot → Boot) (s : State) : (modBoot f s).seq = s.seq := (rfl)
@[simp] theorem modBoot_dies (f : Boot → Boot) (s : State) : (modBoot f s).dies = s.dies := (rfl)
@[simp] theorem modBoot_parts (f : Boot → Boot) (s : State) : (modBoot f s).parts = s.parts := (rfl)
@[simp] theorem modBoot_acct (f : Boot → Boot) (s : State) : (modBoot f s).acct = s.acct := (rfl)
@[simp] theorem modBoot_tiles (f : Boot → Boot) (s : State) : (modBoot f s).tiles = s.tiles := (rfl)
@[simp] theorem modBoot_fus (f : Boot → Boot) (s : State) : (modBoot f s).fus = s.fus := (rfl)
@[simp] theorem modBoot_mbx (f : Boot → Boot) (s : State) : (modBoot f s).mbx = s.mbx := (rfl)
@[simp] theorem modBoot_ldg (f : Boot → Boot) (s : State) : (modBoot f s).ldg = s.ldg := (rfl)
@[simp] theorem modBoot_hld (f : Boot → Boot) (s : State) : (modBoot f s).hld = s.hld := (rfl)
@[simp] theorem modBoot_eth (f : Boot → Boot) (s : State) : (modBoot f s).eth = s.eth := (rfl)
@[simp] theorem modBoot_dlk (f : Boot → Boot) (s : State) : (modBoot f s).dlk = s.dlk := (rfl)
@[simp] theorem modBoot_ing (f : Boot → Boot) (s : State) : (modBoot f s).ing = s.ing := (rfl)
@[simp] theorem modBoot_lrn (f : Boot → Boot) (s : State) : (modBoot f s).lrn = s.lrn := (rfl)
@[simp] theorem modBoot_bw (f : Boot → Boot) (s : State) : (modBoot f s).bw = s.bw := (rfl)
@[simp] theorem modBoot_clap (f : Boot → Boot) (s : State) : (modBoot f s).clap = s.clap := (rfl)
@[simp] theorem modBoot_isl (f : Boot → Boot) (s : State) : (modBoot f s).isl = s.isl := (rfl)
@[simp] theorem modBoot_pwr (f : Boot → Boot) (s : State) : (modBoot f s).pwr = s.pwr := (rfl)
@[simp] theorem modBoot_mal (f : Boot → Boot) (s : State) : (modBoot f s).mal = s.mal := (rfl)
@[simp] theorem modBoot_pending (f : Boot → Boot) (s : State) : (modBoot f s).pending = s.pending := (rfl)
@[simp] theorem getF_modBoot (f : Boot → Boot) (s : State) (p_ : Page) (r_ : Row) : getF (modBoot f s) p_ r_ = getF s p_ r_ := (rfl)
@[simp] theorem getFi_modBoot (f : Boot → Boot) (s : State) (p_ : Page) (r_ : Row) (i_ : Nat) : getFi (modBoot f s) p_ r_ i_ = getFi s p_ r_ i_ := (rfl)

/-! modPwr -/

@[simp] theorem modPwr_regs (f : Pwr → Pwr) (s : State) : (modPwr f s).regs = s.regs := (rfl)
@[simp] theorem modPwr_mem (f : Pwr → Pwr) (s : State) : (modPwr f s).mem = s.mem := (rfl)
@[simp] theorem modPwr_io (f : Pwr → Pwr) (s : State) : (modPwr f s).io = s.io := (rfl)
@[simp] theorem modPwr_links (f : Pwr → Pwr) (s : State) : (modPwr f s).links = s.links := (rfl)
@[simp] theorem modPwr_cyc (f : Pwr → Pwr) (s : State) : (modPwr f s).cyc = s.cyc := (rfl)
@[simp] theorem modPwr_seq (f : Pwr → Pwr) (s : State) : (modPwr f s).seq = s.seq := (rfl)
@[simp] theorem modPwr_dies (f : Pwr → Pwr) (s : State) : (modPwr f s).dies = s.dies := (rfl)
@[simp] theorem modPwr_parts (f : Pwr → Pwr) (s : State) : (modPwr f s).parts = s.parts := (rfl)
@[simp] theorem modPwr_acct (f : Pwr → Pwr) (s : State) : (modPwr f s).acct = s.acct := (rfl)
@[simp] theorem modPwr_tiles (f : Pwr → Pwr) (s : State) : (modPwr f s).tiles = s.tiles := (rfl)
@[simp] theorem modPwr_fus (f : Pwr → Pwr) (s : State) : (modPwr f s).fus = s.fus := (rfl)
@[simp] theorem modPwr_mbx (f : Pwr → Pwr) (s : State) : (modPwr f s).mbx = s.mbx := (rfl)
@[simp] theorem modPwr_ldg (f : Pwr → Pwr) (s : State) : (modPwr f s).ldg = s.ldg := (rfl)
@[simp] theorem modPwr_hld (f : Pwr → Pwr) (s : State) : (modPwr f s).hld = s.hld := (rfl)
@[simp] theorem modPwr_eth (f : Pwr → Pwr) (s : State) : (modPwr f s).eth = s.eth := (rfl)
@[simp] theorem modPwr_dlk (f : Pwr → Pwr) (s : State) : (modPwr f s).dlk = s.dlk := (rfl)
@[simp] theorem modPwr_ing (f : Pwr → Pwr) (s : State) : (modPwr f s).ing = s.ing := (rfl)
@[simp] theorem modPwr_lrn (f : Pwr → Pwr) (s : State) : (modPwr f s).lrn = s.lrn := (rfl)
@[simp] theorem modPwr_bw (f : Pwr → Pwr) (s : State) : (modPwr f s).bw = s.bw := (rfl)
@[simp] theorem modPwr_clap (f : Pwr → Pwr) (s : State) : (modPwr f s).clap = s.clap := (rfl)
@[simp] theorem modPwr_isl (f : Pwr → Pwr) (s : State) : (modPwr f s).isl = s.isl := (rfl)
@[simp] theorem modPwr_boot (f : Pwr → Pwr) (s : State) : (modPwr f s).boot = s.boot := (rfl)
@[simp] theorem modPwr_mal (f : Pwr → Pwr) (s : State) : (modPwr f s).mal = s.mal := (rfl)
@[simp] theorem modPwr_pending (f : Pwr → Pwr) (s : State) : (modPwr f s).pending = s.pending := (rfl)
@[simp] theorem getF_modPwr (f : Pwr → Pwr) (s : State) (p_ : Page) (r_ : Row) : getF (modPwr f s) p_ r_ = getF s p_ r_ := (rfl)
@[simp] theorem getFi_modPwr (f : Pwr → Pwr) (s : State) (p_ : Page) (r_ : Row) (i_ : Nat) : getFi (modPwr f s) p_ r_ i_ = getFi s p_ r_ i_ := (rfl)

/-! modFus -/

@[simp] theorem modFus_regs (f : Fus → Fus) (s : State) : (modFus f s).regs = s.regs := (rfl)
@[simp] theorem modFus_mem (f : Fus → Fus) (s : State) : (modFus f s).mem = s.mem := (rfl)
@[simp] theorem modFus_io (f : Fus → Fus) (s : State) : (modFus f s).io = s.io := (rfl)
@[simp] theorem modFus_links (f : Fus → Fus) (s : State) : (modFus f s).links = s.links := (rfl)
@[simp] theorem modFus_cyc (f : Fus → Fus) (s : State) : (modFus f s).cyc = s.cyc := (rfl)
@[simp] theorem modFus_seq (f : Fus → Fus) (s : State) : (modFus f s).seq = s.seq := (rfl)
@[simp] theorem modFus_dies (f : Fus → Fus) (s : State) : (modFus f s).dies = s.dies := (rfl)
@[simp] theorem modFus_parts (f : Fus → Fus) (s : State) : (modFus f s).parts = s.parts := (rfl)
@[simp] theorem modFus_acct (f : Fus → Fus) (s : State) : (modFus f s).acct = s.acct := (rfl)
@[simp] theorem modFus_tiles (f : Fus → Fus) (s : State) : (modFus f s).tiles = s.tiles := (rfl)
@[simp] theorem modFus_mbx (f : Fus → Fus) (s : State) : (modFus f s).mbx = s.mbx := (rfl)
@[simp] theorem modFus_ldg (f : Fus → Fus) (s : State) : (modFus f s).ldg = s.ldg := (rfl)
@[simp] theorem modFus_hld (f : Fus → Fus) (s : State) : (modFus f s).hld = s.hld := (rfl)
@[simp] theorem modFus_eth (f : Fus → Fus) (s : State) : (modFus f s).eth = s.eth := (rfl)
@[simp] theorem modFus_dlk (f : Fus → Fus) (s : State) : (modFus f s).dlk = s.dlk := (rfl)
@[simp] theorem modFus_ing (f : Fus → Fus) (s : State) : (modFus f s).ing = s.ing := (rfl)
@[simp] theorem modFus_lrn (f : Fus → Fus) (s : State) : (modFus f s).lrn = s.lrn := (rfl)
@[simp] theorem modFus_bw (f : Fus → Fus) (s : State) : (modFus f s).bw = s.bw := (rfl)
@[simp] theorem modFus_clap (f : Fus → Fus) (s : State) : (modFus f s).clap = s.clap := (rfl)
@[simp] theorem modFus_isl (f : Fus → Fus) (s : State) : (modFus f s).isl = s.isl := (rfl)
@[simp] theorem modFus_pwr (f : Fus → Fus) (s : State) : (modFus f s).pwr = s.pwr := (rfl)
@[simp] theorem modFus_boot (f : Fus → Fus) (s : State) : (modFus f s).boot = s.boot := (rfl)
@[simp] theorem modFus_mal (f : Fus → Fus) (s : State) : (modFus f s).mal = s.mal := (rfl)
@[simp] theorem modFus_pending (f : Fus → Fus) (s : State) : (modFus f s).pending = s.pending := (rfl)
@[simp] theorem getF_modFus (f : Fus → Fus) (s : State) (p_ : Page) (r_ : Row) : getF (modFus f s) p_ r_ = getF s p_ r_ := (rfl)
@[simp] theorem getFi_modFus (f : Fus → Fus) (s : State) (p_ : Page) (r_ : Row) (i_ : Nat) : getFi (modFus f s) p_ r_ i_ = getFi s p_ r_ i_ := (rfl)

/-! modTrk -/

@[simp] theorem modTrk_regs (d : Nat) (e : Nat) (j : Nat) (f : TrkSet → TrkSet) (s : State) : (modTrk d e j f s).regs = s.regs := (rfl)
@[simp] theorem modTrk_mem (d : Nat) (e : Nat) (j : Nat) (f : TrkSet → TrkSet) (s : State) : (modTrk d e j f s).mem = s.mem := (rfl)
@[simp] theorem modTrk_io (d : Nat) (e : Nat) (j : Nat) (f : TrkSet → TrkSet) (s : State) : (modTrk d e j f s).io = s.io := (rfl)
@[simp] theorem modTrk_links (d : Nat) (e : Nat) (j : Nat) (f : TrkSet → TrkSet) (s : State) : (modTrk d e j f s).links = s.links := (rfl)
@[simp] theorem modTrk_cyc (d : Nat) (e : Nat) (j : Nat) (f : TrkSet → TrkSet) (s : State) : (modTrk d e j f s).cyc = s.cyc := (rfl)
@[simp] theorem modTrk_seq (d : Nat) (e : Nat) (j : Nat) (f : TrkSet → TrkSet) (s : State) : (modTrk d e j f s).seq = s.seq := (rfl)
@[simp] theorem modTrk_parts (d : Nat) (e : Nat) (j : Nat) (f : TrkSet → TrkSet) (s : State) : (modTrk d e j f s).parts = s.parts := (rfl)
@[simp] theorem modTrk_acct (d : Nat) (e : Nat) (j : Nat) (f : TrkSet → TrkSet) (s : State) : (modTrk d e j f s).acct = s.acct := (rfl)
@[simp] theorem modTrk_tiles (d : Nat) (e : Nat) (j : Nat) (f : TrkSet → TrkSet) (s : State) : (modTrk d e j f s).tiles = s.tiles := (rfl)
@[simp] theorem modTrk_fus (d : Nat) (e : Nat) (j : Nat) (f : TrkSet → TrkSet) (s : State) : (modTrk d e j f s).fus = s.fus := (rfl)
@[simp] theorem modTrk_mbx (d : Nat) (e : Nat) (j : Nat) (f : TrkSet → TrkSet) (s : State) : (modTrk d e j f s).mbx = s.mbx := (rfl)
@[simp] theorem modTrk_ldg (d : Nat) (e : Nat) (j : Nat) (f : TrkSet → TrkSet) (s : State) : (modTrk d e j f s).ldg = s.ldg := (rfl)
@[simp] theorem modTrk_hld (d : Nat) (e : Nat) (j : Nat) (f : TrkSet → TrkSet) (s : State) : (modTrk d e j f s).hld = s.hld := (rfl)
@[simp] theorem modTrk_eth (d : Nat) (e : Nat) (j : Nat) (f : TrkSet → TrkSet) (s : State) : (modTrk d e j f s).eth = s.eth := (rfl)
@[simp] theorem modTrk_dlk (d : Nat) (e : Nat) (j : Nat) (f : TrkSet → TrkSet) (s : State) : (modTrk d e j f s).dlk = s.dlk := (rfl)
@[simp] theorem modTrk_ing (d : Nat) (e : Nat) (j : Nat) (f : TrkSet → TrkSet) (s : State) : (modTrk d e j f s).ing = s.ing := (rfl)
@[simp] theorem modTrk_lrn (d : Nat) (e : Nat) (j : Nat) (f : TrkSet → TrkSet) (s : State) : (modTrk d e j f s).lrn = s.lrn := (rfl)
@[simp] theorem modTrk_bw (d : Nat) (e : Nat) (j : Nat) (f : TrkSet → TrkSet) (s : State) : (modTrk d e j f s).bw = s.bw := (rfl)
@[simp] theorem modTrk_clap (d : Nat) (e : Nat) (j : Nat) (f : TrkSet → TrkSet) (s : State) : (modTrk d e j f s).clap = s.clap := (rfl)
@[simp] theorem modTrk_isl (d : Nat) (e : Nat) (j : Nat) (f : TrkSet → TrkSet) (s : State) : (modTrk d e j f s).isl = s.isl := (rfl)
@[simp] theorem modTrk_pwr (d : Nat) (e : Nat) (j : Nat) (f : TrkSet → TrkSet) (s : State) : (modTrk d e j f s).pwr = s.pwr := (rfl)
@[simp] theorem modTrk_boot (d : Nat) (e : Nat) (j : Nat) (f : TrkSet → TrkSet) (s : State) : (modTrk d e j f s).boot = s.boot := (rfl)
@[simp] theorem modTrk_mal (d : Nat) (e : Nat) (j : Nat) (f : TrkSet → TrkSet) (s : State) : (modTrk d e j f s).mal = s.mal := (rfl)
@[simp] theorem modTrk_pending (d : Nat) (e : Nat) (j : Nat) (f : TrkSet → TrkSet) (s : State) : (modTrk d e j f s).pending = s.pending := (rfl)
@[simp] theorem getF_modTrk (d : Nat) (e : Nat) (j : Nat) (f : TrkSet → TrkSet) (s : State) (p_ : Page) (r_ : Row) : getF (modTrk d e j f s) p_ r_ = getF s p_ r_ := (rfl)
@[simp] theorem getFi_modTrk (d : Nat) (e : Nat) (j : Nat) (f : TrkSet → TrkSet) (s : State) (p_ : Page) (r_ : Row) (i_ : Nat) : getFi (modTrk d e j f s) p_ r_ i_ = getFi s p_ r_ i_ := (rfl)

/-! modDlk -/

@[simp] theorem modDlk_regs (f : Dlk → Dlk) (s : State) : (modDlk f s).regs = s.regs := (rfl)
@[simp] theorem modDlk_mem (f : Dlk → Dlk) (s : State) : (modDlk f s).mem = s.mem := (rfl)
@[simp] theorem modDlk_io (f : Dlk → Dlk) (s : State) : (modDlk f s).io = s.io := (rfl)
@[simp] theorem modDlk_links (f : Dlk → Dlk) (s : State) : (modDlk f s).links = s.links := (rfl)
@[simp] theorem modDlk_cyc (f : Dlk → Dlk) (s : State) : (modDlk f s).cyc = s.cyc := (rfl)
@[simp] theorem modDlk_seq (f : Dlk → Dlk) (s : State) : (modDlk f s).seq = s.seq := (rfl)
@[simp] theorem modDlk_dies (f : Dlk → Dlk) (s : State) : (modDlk f s).dies = s.dies := (rfl)
@[simp] theorem modDlk_parts (f : Dlk → Dlk) (s : State) : (modDlk f s).parts = s.parts := (rfl)
@[simp] theorem modDlk_acct (f : Dlk → Dlk) (s : State) : (modDlk f s).acct = s.acct := (rfl)
@[simp] theorem modDlk_tiles (f : Dlk → Dlk) (s : State) : (modDlk f s).tiles = s.tiles := (rfl)
@[simp] theorem modDlk_fus (f : Dlk → Dlk) (s : State) : (modDlk f s).fus = s.fus := (rfl)
@[simp] theorem modDlk_mbx (f : Dlk → Dlk) (s : State) : (modDlk f s).mbx = s.mbx := (rfl)
@[simp] theorem modDlk_ldg (f : Dlk → Dlk) (s : State) : (modDlk f s).ldg = s.ldg := (rfl)
@[simp] theorem modDlk_hld (f : Dlk → Dlk) (s : State) : (modDlk f s).hld = s.hld := (rfl)
@[simp] theorem modDlk_eth (f : Dlk → Dlk) (s : State) : (modDlk f s).eth = s.eth := (rfl)
@[simp] theorem modDlk_ing (f : Dlk → Dlk) (s : State) : (modDlk f s).ing = s.ing := (rfl)
@[simp] theorem modDlk_lrn (f : Dlk → Dlk) (s : State) : (modDlk f s).lrn = s.lrn := (rfl)
@[simp] theorem modDlk_bw (f : Dlk → Dlk) (s : State) : (modDlk f s).bw = s.bw := (rfl)
@[simp] theorem modDlk_clap (f : Dlk → Dlk) (s : State) : (modDlk f s).clap = s.clap := (rfl)
@[simp] theorem modDlk_isl (f : Dlk → Dlk) (s : State) : (modDlk f s).isl = s.isl := (rfl)
@[simp] theorem modDlk_pwr (f : Dlk → Dlk) (s : State) : (modDlk f s).pwr = s.pwr := (rfl)
@[simp] theorem modDlk_boot (f : Dlk → Dlk) (s : State) : (modDlk f s).boot = s.boot := (rfl)
@[simp] theorem modDlk_mal (f : Dlk → Dlk) (s : State) : (modDlk f s).mal = s.mal := (rfl)
@[simp] theorem modDlk_pending (f : Dlk → Dlk) (s : State) : (modDlk f s).pending = s.pending := (rfl)
@[simp] theorem getF_modDlk (f : Dlk → Dlk) (s : State) (p_ : Page) (r_ : Row) : getF (modDlk f s) p_ r_ = getF s p_ r_ := (rfl)
@[simp] theorem getFi_modDlk (f : Dlk → Dlk) (s : State) (p_ : Page) (r_ : Row) (i_ : Nat) : getFi (modDlk f s) p_ r_ i_ = getFi s p_ r_ i_ := (rfl)

/-! modDevLink -/

@[simp] theorem modDevLink_regs (l : Nat) (f : DevLink → DevLink) (s : State) : (modDevLink l f s).regs = s.regs := (rfl)
@[simp] theorem modDevLink_mem (l : Nat) (f : DevLink → DevLink) (s : State) : (modDevLink l f s).mem = s.mem := (rfl)
@[simp] theorem modDevLink_io (l : Nat) (f : DevLink → DevLink) (s : State) : (modDevLink l f s).io = s.io := (rfl)
@[simp] theorem modDevLink_links (l : Nat) (f : DevLink → DevLink) (s : State) : (modDevLink l f s).links = s.links := (rfl)
@[simp] theorem modDevLink_cyc (l : Nat) (f : DevLink → DevLink) (s : State) : (modDevLink l f s).cyc = s.cyc := (rfl)
@[simp] theorem modDevLink_seq (l : Nat) (f : DevLink → DevLink) (s : State) : (modDevLink l f s).seq = s.seq := (rfl)
@[simp] theorem modDevLink_dies (l : Nat) (f : DevLink → DevLink) (s : State) : (modDevLink l f s).dies = s.dies := (rfl)
@[simp] theorem modDevLink_parts (l : Nat) (f : DevLink → DevLink) (s : State) : (modDevLink l f s).parts = s.parts := (rfl)
@[simp] theorem modDevLink_acct (l : Nat) (f : DevLink → DevLink) (s : State) : (modDevLink l f s).acct = s.acct := (rfl)
@[simp] theorem modDevLink_tiles (l : Nat) (f : DevLink → DevLink) (s : State) : (modDevLink l f s).tiles = s.tiles := (rfl)
@[simp] theorem modDevLink_fus (l : Nat) (f : DevLink → DevLink) (s : State) : (modDevLink l f s).fus = s.fus := (rfl)
@[simp] theorem modDevLink_mbx (l : Nat) (f : DevLink → DevLink) (s : State) : (modDevLink l f s).mbx = s.mbx := (rfl)
@[simp] theorem modDevLink_ldg (l : Nat) (f : DevLink → DevLink) (s : State) : (modDevLink l f s).ldg = s.ldg := (rfl)
@[simp] theorem modDevLink_hld (l : Nat) (f : DevLink → DevLink) (s : State) : (modDevLink l f s).hld = s.hld := (rfl)
@[simp] theorem modDevLink_eth (l : Nat) (f : DevLink → DevLink) (s : State) : (modDevLink l f s).eth = s.eth := (rfl)
@[simp] theorem modDevLink_ing (l : Nat) (f : DevLink → DevLink) (s : State) : (modDevLink l f s).ing = s.ing := (rfl)
@[simp] theorem modDevLink_lrn (l : Nat) (f : DevLink → DevLink) (s : State) : (modDevLink l f s).lrn = s.lrn := (rfl)
@[simp] theorem modDevLink_bw (l : Nat) (f : DevLink → DevLink) (s : State) : (modDevLink l f s).bw = s.bw := (rfl)
@[simp] theorem modDevLink_clap (l : Nat) (f : DevLink → DevLink) (s : State) : (modDevLink l f s).clap = s.clap := (rfl)
@[simp] theorem modDevLink_isl (l : Nat) (f : DevLink → DevLink) (s : State) : (modDevLink l f s).isl = s.isl := (rfl)
@[simp] theorem modDevLink_pwr (l : Nat) (f : DevLink → DevLink) (s : State) : (modDevLink l f s).pwr = s.pwr := (rfl)
@[simp] theorem modDevLink_boot (l : Nat) (f : DevLink → DevLink) (s : State) : (modDevLink l f s).boot = s.boot := (rfl)
@[simp] theorem modDevLink_mal (l : Nat) (f : DevLink → DevLink) (s : State) : (modDevLink l f s).mal = s.mal := (rfl)
@[simp] theorem modDevLink_pending (l : Nat) (f : DevLink → DevLink) (s : State) : (modDevLink l f s).pending = s.pending := (rfl)
@[simp] theorem getF_modDevLink (l : Nat) (f : DevLink → DevLink) (s : State) (p_ : Page) (r_ : Row) : getF (modDevLink l f s) p_ r_ = getF s p_ r_ := (rfl)
@[simp] theorem getFi_modDevLink (l : Nat) (f : DevLink → DevLink) (s : State) (p_ : Page) (r_ : Row) (i_ : Nat) : getFi (modDevLink l f s) p_ r_ i_ = getFi s p_ r_ i_ := (rfl)

/-! modRail -/

@[simp] theorem modRail_regs (r : Nat) (f : RailPwr → RailPwr) (s : State) : (modRail r f s).regs = s.regs := (rfl)
@[simp] theorem modRail_mem (r : Nat) (f : RailPwr → RailPwr) (s : State) : (modRail r f s).mem = s.mem := (rfl)
@[simp] theorem modRail_io (r : Nat) (f : RailPwr → RailPwr) (s : State) : (modRail r f s).io = s.io := (rfl)
@[simp] theorem modRail_links (r : Nat) (f : RailPwr → RailPwr) (s : State) : (modRail r f s).links = s.links := (rfl)
@[simp] theorem modRail_cyc (r : Nat) (f : RailPwr → RailPwr) (s : State) : (modRail r f s).cyc = s.cyc := (rfl)
@[simp] theorem modRail_seq (r : Nat) (f : RailPwr → RailPwr) (s : State) : (modRail r f s).seq = s.seq := (rfl)
@[simp] theorem modRail_dies (r : Nat) (f : RailPwr → RailPwr) (s : State) : (modRail r f s).dies = s.dies := (rfl)
@[simp] theorem modRail_parts (r : Nat) (f : RailPwr → RailPwr) (s : State) : (modRail r f s).parts = s.parts := (rfl)
@[simp] theorem modRail_acct (r : Nat) (f : RailPwr → RailPwr) (s : State) : (modRail r f s).acct = s.acct := (rfl)
@[simp] theorem modRail_tiles (r : Nat) (f : RailPwr → RailPwr) (s : State) : (modRail r f s).tiles = s.tiles := (rfl)
@[simp] theorem modRail_fus (r : Nat) (f : RailPwr → RailPwr) (s : State) : (modRail r f s).fus = s.fus := (rfl)
@[simp] theorem modRail_mbx (r : Nat) (f : RailPwr → RailPwr) (s : State) : (modRail r f s).mbx = s.mbx := (rfl)
@[simp] theorem modRail_ldg (r : Nat) (f : RailPwr → RailPwr) (s : State) : (modRail r f s).ldg = s.ldg := (rfl)
@[simp] theorem modRail_hld (r : Nat) (f : RailPwr → RailPwr) (s : State) : (modRail r f s).hld = s.hld := (rfl)
@[simp] theorem modRail_eth (r : Nat) (f : RailPwr → RailPwr) (s : State) : (modRail r f s).eth = s.eth := (rfl)
@[simp] theorem modRail_dlk (r : Nat) (f : RailPwr → RailPwr) (s : State) : (modRail r f s).dlk = s.dlk := (rfl)
@[simp] theorem modRail_ing (r : Nat) (f : RailPwr → RailPwr) (s : State) : (modRail r f s).ing = s.ing := (rfl)
@[simp] theorem modRail_lrn (r : Nat) (f : RailPwr → RailPwr) (s : State) : (modRail r f s).lrn = s.lrn := (rfl)
@[simp] theorem modRail_bw (r : Nat) (f : RailPwr → RailPwr) (s : State) : (modRail r f s).bw = s.bw := (rfl)
@[simp] theorem modRail_clap (r : Nat) (f : RailPwr → RailPwr) (s : State) : (modRail r f s).clap = s.clap := (rfl)
@[simp] theorem modRail_isl (r : Nat) (f : RailPwr → RailPwr) (s : State) : (modRail r f s).isl = s.isl := (rfl)
@[simp] theorem modRail_boot (r : Nat) (f : RailPwr → RailPwr) (s : State) : (modRail r f s).boot = s.boot := (rfl)
@[simp] theorem modRail_mal (r : Nat) (f : RailPwr → RailPwr) (s : State) : (modRail r f s).mal = s.mal := (rfl)
@[simp] theorem modRail_pending (r : Nat) (f : RailPwr → RailPwr) (s : State) : (modRail r f s).pending = s.pending := (rfl)
@[simp] theorem getF_modRail (r : Nat) (f : RailPwr → RailPwr) (s : State) (p_ : Page) (r_ : Row) : getF (modRail r f s) p_ r_ = getF s p_ r_ := (rfl)
@[simp] theorem getFi_modRail (r : Nat) (f : RailPwr → RailPwr) (s : State) (p_ : Page) (r_ : Row) (i_ : Nat) : getFi (modRail r f s) p_ r_ i_ = getFi s p_ r_ i_ := (rfl)

/-! modJob -/

@[simp] theorem modJob_regs (f : FusJob → FusJob) (s : State) : (modJob f s).regs = s.regs := (rfl)
@[simp] theorem modJob_mem (f : FusJob → FusJob) (s : State) : (modJob f s).mem = s.mem := (rfl)
@[simp] theorem modJob_io (f : FusJob → FusJob) (s : State) : (modJob f s).io = s.io := (rfl)
@[simp] theorem modJob_links (f : FusJob → FusJob) (s : State) : (modJob f s).links = s.links := (rfl)
@[simp] theorem modJob_cyc (f : FusJob → FusJob) (s : State) : (modJob f s).cyc = s.cyc := (rfl)
@[simp] theorem modJob_seq (f : FusJob → FusJob) (s : State) : (modJob f s).seq = s.seq := (rfl)
@[simp] theorem modJob_dies (f : FusJob → FusJob) (s : State) : (modJob f s).dies = s.dies := (rfl)
@[simp] theorem modJob_parts (f : FusJob → FusJob) (s : State) : (modJob f s).parts = s.parts := (rfl)
@[simp] theorem modJob_acct (f : FusJob → FusJob) (s : State) : (modJob f s).acct = s.acct := (rfl)
@[simp] theorem modJob_tiles (f : FusJob → FusJob) (s : State) : (modJob f s).tiles = s.tiles := (rfl)
@[simp] theorem modJob_mbx (f : FusJob → FusJob) (s : State) : (modJob f s).mbx = s.mbx := (rfl)
@[simp] theorem modJob_ldg (f : FusJob → FusJob) (s : State) : (modJob f s).ldg = s.ldg := (rfl)
@[simp] theorem modJob_hld (f : FusJob → FusJob) (s : State) : (modJob f s).hld = s.hld := (rfl)
@[simp] theorem modJob_eth (f : FusJob → FusJob) (s : State) : (modJob f s).eth = s.eth := (rfl)
@[simp] theorem modJob_dlk (f : FusJob → FusJob) (s : State) : (modJob f s).dlk = s.dlk := (rfl)
@[simp] theorem modJob_ing (f : FusJob → FusJob) (s : State) : (modJob f s).ing = s.ing := (rfl)
@[simp] theorem modJob_lrn (f : FusJob → FusJob) (s : State) : (modJob f s).lrn = s.lrn := (rfl)
@[simp] theorem modJob_bw (f : FusJob → FusJob) (s : State) : (modJob f s).bw = s.bw := (rfl)
@[simp] theorem modJob_clap (f : FusJob → FusJob) (s : State) : (modJob f s).clap = s.clap := (rfl)
@[simp] theorem modJob_isl (f : FusJob → FusJob) (s : State) : (modJob f s).isl = s.isl := (rfl)
@[simp] theorem modJob_pwr (f : FusJob → FusJob) (s : State) : (modJob f s).pwr = s.pwr := (rfl)
@[simp] theorem modJob_boot (f : FusJob → FusJob) (s : State) : (modJob f s).boot = s.boot := (rfl)
@[simp] theorem modJob_mal (f : FusJob → FusJob) (s : State) : (modJob f s).mal = s.mal := (rfl)
@[simp] theorem modJob_pending (f : FusJob → FusJob) (s : State) : (modJob f s).pending = s.pending := (rfl)
@[simp] theorem getF_modJob (f : FusJob → FusJob) (s : State) (p_ : Page) (r_ : Row) : getF (modJob f s) p_ r_ = getF s p_ r_ := (rfl)
@[simp] theorem getFi_modJob (f : FusJob → FusJob) (s : State) (p_ : Page) (r_ : Row) (i_ : Nat) : getFi (modJob f s) p_ r_ i_ = getFi s p_ r_ i_ := (rfl)

/-! modCan -/

@[simp] theorem modCan_regs (i : Nat) (ch : Nat) (f : CanCh → CanCh) (s : State) : (modCan i ch f s).regs = s.regs := (rfl)
@[simp] theorem modCan_mem (i : Nat) (ch : Nat) (f : CanCh → CanCh) (s : State) : (modCan i ch f s).mem = s.mem := (rfl)
@[simp] theorem modCan_io (i : Nat) (ch : Nat) (f : CanCh → CanCh) (s : State) : (modCan i ch f s).io = s.io := (rfl)
@[simp] theorem modCan_links (i : Nat) (ch : Nat) (f : CanCh → CanCh) (s : State) : (modCan i ch f s).links = s.links := (rfl)
@[simp] theorem modCan_cyc (i : Nat) (ch : Nat) (f : CanCh → CanCh) (s : State) : (modCan i ch f s).cyc = s.cyc := (rfl)
@[simp] theorem modCan_seq (i : Nat) (ch : Nat) (f : CanCh → CanCh) (s : State) : (modCan i ch f s).seq = s.seq := (rfl)
@[simp] theorem modCan_dies (i : Nat) (ch : Nat) (f : CanCh → CanCh) (s : State) : (modCan i ch f s).dies = s.dies := (rfl)
@[simp] theorem modCan_parts (i : Nat) (ch : Nat) (f : CanCh → CanCh) (s : State) : (modCan i ch f s).parts = s.parts := (rfl)
@[simp] theorem modCan_acct (i : Nat) (ch : Nat) (f : CanCh → CanCh) (s : State) : (modCan i ch f s).acct = s.acct := (rfl)
@[simp] theorem modCan_tiles (i : Nat) (ch : Nat) (f : CanCh → CanCh) (s : State) : (modCan i ch f s).tiles = s.tiles := (rfl)
@[simp] theorem modCan_fus (i : Nat) (ch : Nat) (f : CanCh → CanCh) (s : State) : (modCan i ch f s).fus = s.fus := (rfl)
@[simp] theorem modCan_mbx (i : Nat) (ch : Nat) (f : CanCh → CanCh) (s : State) : (modCan i ch f s).mbx = s.mbx := (rfl)
@[simp] theorem modCan_ldg (i : Nat) (ch : Nat) (f : CanCh → CanCh) (s : State) : (modCan i ch f s).ldg = s.ldg := (rfl)
@[simp] theorem modCan_hld (i : Nat) (ch : Nat) (f : CanCh → CanCh) (s : State) : (modCan i ch f s).hld = s.hld := (rfl)
@[simp] theorem modCan_eth (i : Nat) (ch : Nat) (f : CanCh → CanCh) (s : State) : (modCan i ch f s).eth = s.eth := (rfl)
@[simp] theorem modCan_dlk (i : Nat) (ch : Nat) (f : CanCh → CanCh) (s : State) : (modCan i ch f s).dlk = s.dlk := (rfl)
@[simp] theorem modCan_ing (i : Nat) (ch : Nat) (f : CanCh → CanCh) (s : State) : (modCan i ch f s).ing = s.ing := (rfl)
@[simp] theorem modCan_lrn (i : Nat) (ch : Nat) (f : CanCh → CanCh) (s : State) : (modCan i ch f s).lrn = s.lrn := (rfl)
@[simp] theorem modCan_bw (i : Nat) (ch : Nat) (f : CanCh → CanCh) (s : State) : (modCan i ch f s).bw = s.bw := (rfl)
@[simp] theorem modCan_clap (i : Nat) (ch : Nat) (f : CanCh → CanCh) (s : State) : (modCan i ch f s).clap = s.clap := (rfl)
@[simp] theorem modCan_pwr (i : Nat) (ch : Nat) (f : CanCh → CanCh) (s : State) : (modCan i ch f s).pwr = s.pwr := (rfl)
@[simp] theorem modCan_boot (i : Nat) (ch : Nat) (f : CanCh → CanCh) (s : State) : (modCan i ch f s).boot = s.boot := (rfl)
@[simp] theorem modCan_mal (i : Nat) (ch : Nat) (f : CanCh → CanCh) (s : State) : (modCan i ch f s).mal = s.mal := (rfl)
@[simp] theorem modCan_pending (i : Nat) (ch : Nat) (f : CanCh → CanCh) (s : State) : (modCan i ch f s).pending = s.pending := (rfl)
@[simp] theorem getF_modCan (i : Nat) (ch : Nat) (f : CanCh → CanCh) (s : State) (p_ : Page) (r_ : Row) : getF (modCan i ch f s) p_ r_ = getF s p_ r_ := (rfl)
@[simp] theorem getFi_modCan (i : Nat) (ch : Nat) (f : CanCh → CanCh) (s : State) (p_ : Page) (r_ : Row) (i_ : Nat) : getFi (modCan i ch f s) p_ r_ i_ = getFi s p_ r_ i_ := (rfl)

/-! modEng -/

@[simp] theorem modEng_regs (d : Nat) (e : Nat) (f : Eng → Eng) (s : State) : (modEng d e f s).regs = s.regs := (rfl)
@[simp] theorem modEng_mem (d : Nat) (e : Nat) (f : Eng → Eng) (s : State) : (modEng d e f s).mem = s.mem := (rfl)
@[simp] theorem modEng_io (d : Nat) (e : Nat) (f : Eng → Eng) (s : State) : (modEng d e f s).io = s.io := (rfl)
@[simp] theorem modEng_links (d : Nat) (e : Nat) (f : Eng → Eng) (s : State) : (modEng d e f s).links = s.links := (rfl)
@[simp] theorem modEng_cyc (d : Nat) (e : Nat) (f : Eng → Eng) (s : State) : (modEng d e f s).cyc = s.cyc := (rfl)
@[simp] theorem modEng_seq (d : Nat) (e : Nat) (f : Eng → Eng) (s : State) : (modEng d e f s).seq = s.seq := (rfl)
@[simp] theorem modEng_parts (d : Nat) (e : Nat) (f : Eng → Eng) (s : State) : (modEng d e f s).parts = s.parts := (rfl)
@[simp] theorem modEng_acct (d : Nat) (e : Nat) (f : Eng → Eng) (s : State) : (modEng d e f s).acct = s.acct := (rfl)
@[simp] theorem modEng_tiles (d : Nat) (e : Nat) (f : Eng → Eng) (s : State) : (modEng d e f s).tiles = s.tiles := (rfl)
@[simp] theorem modEng_fus (d : Nat) (e : Nat) (f : Eng → Eng) (s : State) : (modEng d e f s).fus = s.fus := (rfl)
@[simp] theorem modEng_mbx (d : Nat) (e : Nat) (f : Eng → Eng) (s : State) : (modEng d e f s).mbx = s.mbx := (rfl)
@[simp] theorem modEng_ldg (d : Nat) (e : Nat) (f : Eng → Eng) (s : State) : (modEng d e f s).ldg = s.ldg := (rfl)
@[simp] theorem modEng_hld (d : Nat) (e : Nat) (f : Eng → Eng) (s : State) : (modEng d e f s).hld = s.hld := (rfl)
@[simp] theorem modEng_eth (d : Nat) (e : Nat) (f : Eng → Eng) (s : State) : (modEng d e f s).eth = s.eth := (rfl)
@[simp] theorem modEng_dlk (d : Nat) (e : Nat) (f : Eng → Eng) (s : State) : (modEng d e f s).dlk = s.dlk := (rfl)
@[simp] theorem modEng_ing (d : Nat) (e : Nat) (f : Eng → Eng) (s : State) : (modEng d e f s).ing = s.ing := (rfl)
@[simp] theorem modEng_lrn (d : Nat) (e : Nat) (f : Eng → Eng) (s : State) : (modEng d e f s).lrn = s.lrn := (rfl)
@[simp] theorem modEng_bw (d : Nat) (e : Nat) (f : Eng → Eng) (s : State) : (modEng d e f s).bw = s.bw := (rfl)
@[simp] theorem modEng_clap (d : Nat) (e : Nat) (f : Eng → Eng) (s : State) : (modEng d e f s).clap = s.clap := (rfl)
@[simp] theorem modEng_isl (d : Nat) (e : Nat) (f : Eng → Eng) (s : State) : (modEng d e f s).isl = s.isl := (rfl)
@[simp] theorem modEng_pwr (d : Nat) (e : Nat) (f : Eng → Eng) (s : State) : (modEng d e f s).pwr = s.pwr := (rfl)
@[simp] theorem modEng_boot (d : Nat) (e : Nat) (f : Eng → Eng) (s : State) : (modEng d e f s).boot = s.boot := (rfl)
@[simp] theorem modEng_mal (d : Nat) (e : Nat) (f : Eng → Eng) (s : State) : (modEng d e f s).mal = s.mal := (rfl)
@[simp] theorem modEng_pending (d : Nat) (e : Nat) (f : Eng → Eng) (s : State) : (modEng d e f s).pending = s.pending := (rfl)
@[simp] theorem getF_modEng (d : Nat) (e : Nat) (f : Eng → Eng) (s : State) (p_ : Page) (r_ : Row) : getF (modEng d e f s) p_ r_ = getF s p_ r_ := (rfl)
@[simp] theorem getFi_modEng (d : Nat) (e : Nat) (f : Eng → Eng) (s : State) (p_ : Page) (r_ : Row) (i_ : Nat) : getFi (modEng d e f s) p_ r_ i_ = getFi s p_ r_ i_ := (rfl)

/-! modPort -/

@[simp] theorem modPort_regs (p : Nat) (f : Port → Port) (s : State) : (modPort p f s).regs = s.regs := (rfl)
@[simp] theorem modPort_mem (p : Nat) (f : Port → Port) (s : State) : (modPort p f s).mem = s.mem := (rfl)
@[simp] theorem modPort_io (p : Nat) (f : Port → Port) (s : State) : (modPort p f s).io = s.io := (rfl)
@[simp] theorem modPort_cyc (p : Nat) (f : Port → Port) (s : State) : (modPort p f s).cyc = s.cyc := (rfl)
@[simp] theorem modPort_seq (p : Nat) (f : Port → Port) (s : State) : (modPort p f s).seq = s.seq := (rfl)
@[simp] theorem modPort_dies (p : Nat) (f : Port → Port) (s : State) : (modPort p f s).dies = s.dies := (rfl)
@[simp] theorem modPort_parts (p : Nat) (f : Port → Port) (s : State) : (modPort p f s).parts = s.parts := (rfl)
@[simp] theorem modPort_acct (p : Nat) (f : Port → Port) (s : State) : (modPort p f s).acct = s.acct := (rfl)
@[simp] theorem modPort_tiles (p : Nat) (f : Port → Port) (s : State) : (modPort p f s).tiles = s.tiles := (rfl)
@[simp] theorem modPort_fus (p : Nat) (f : Port → Port) (s : State) : (modPort p f s).fus = s.fus := (rfl)
@[simp] theorem modPort_mbx (p : Nat) (f : Port → Port) (s : State) : (modPort p f s).mbx = s.mbx := (rfl)
@[simp] theorem modPort_ldg (p : Nat) (f : Port → Port) (s : State) : (modPort p f s).ldg = s.ldg := (rfl)
@[simp] theorem modPort_hld (p : Nat) (f : Port → Port) (s : State) : (modPort p f s).hld = s.hld := (rfl)
@[simp] theorem modPort_eth (p : Nat) (f : Port → Port) (s : State) : (modPort p f s).eth = s.eth := (rfl)
@[simp] theorem modPort_dlk (p : Nat) (f : Port → Port) (s : State) : (modPort p f s).dlk = s.dlk := (rfl)
@[simp] theorem modPort_ing (p : Nat) (f : Port → Port) (s : State) : (modPort p f s).ing = s.ing := (rfl)
@[simp] theorem modPort_lrn (p : Nat) (f : Port → Port) (s : State) : (modPort p f s).lrn = s.lrn := (rfl)
@[simp] theorem modPort_bw (p : Nat) (f : Port → Port) (s : State) : (modPort p f s).bw = s.bw := (rfl)
@[simp] theorem modPort_clap (p : Nat) (f : Port → Port) (s : State) : (modPort p f s).clap = s.clap := (rfl)
@[simp] theorem modPort_isl (p : Nat) (f : Port → Port) (s : State) : (modPort p f s).isl = s.isl := (rfl)
@[simp] theorem modPort_pwr (p : Nat) (f : Port → Port) (s : State) : (modPort p f s).pwr = s.pwr := (rfl)
@[simp] theorem modPort_boot (p : Nat) (f : Port → Port) (s : State) : (modPort p f s).boot = s.boot := (rfl)
@[simp] theorem modPort_mal (p : Nat) (f : Port → Port) (s : State) : (modPort p f s).mal = s.mal := (rfl)
@[simp] theorem modPort_pending (p : Nat) (f : Port → Port) (s : State) : (modPort p f s).pending = s.pending := (rfl)
@[simp] theorem getF_modPort (p : Nat) (f : Port → Port) (s : State) (p_ : Page) (r_ : Row) : getF (modPort p f s) p_ r_ = getF s p_ r_ := (rfl)
@[simp] theorem getFi_modPort (p : Nat) (f : Port → Port) (s : State) (p_ : Page) (r_ : Row) (i_ : Nat) : getFi (modPort p f s) p_ r_ i_ = getFi s p_ r_ i_ := (rfl)

/-! modClap -/

@[simp] theorem modClap_regs (f : Clap → Clap) (s : State) : (modClap f s).regs = s.regs := (rfl)
@[simp] theorem modClap_mem (f : Clap → Clap) (s : State) : (modClap f s).mem = s.mem := (rfl)
@[simp] theorem modClap_io (f : Clap → Clap) (s : State) : (modClap f s).io = s.io := (rfl)
@[simp] theorem modClap_links (f : Clap → Clap) (s : State) : (modClap f s).links = s.links := (rfl)
@[simp] theorem modClap_cyc (f : Clap → Clap) (s : State) : (modClap f s).cyc = s.cyc := (rfl)
@[simp] theorem modClap_seq (f : Clap → Clap) (s : State) : (modClap f s).seq = s.seq := (rfl)
@[simp] theorem modClap_dies (f : Clap → Clap) (s : State) : (modClap f s).dies = s.dies := (rfl)
@[simp] theorem modClap_parts (f : Clap → Clap) (s : State) : (modClap f s).parts = s.parts := (rfl)
@[simp] theorem modClap_acct (f : Clap → Clap) (s : State) : (modClap f s).acct = s.acct := (rfl)
@[simp] theorem modClap_tiles (f : Clap → Clap) (s : State) : (modClap f s).tiles = s.tiles := (rfl)
@[simp] theorem modClap_fus (f : Clap → Clap) (s : State) : (modClap f s).fus = s.fus := (rfl)
@[simp] theorem modClap_mbx (f : Clap → Clap) (s : State) : (modClap f s).mbx = s.mbx := (rfl)
@[simp] theorem modClap_ldg (f : Clap → Clap) (s : State) : (modClap f s).ldg = s.ldg := (rfl)
@[simp] theorem modClap_hld (f : Clap → Clap) (s : State) : (modClap f s).hld = s.hld := (rfl)
@[simp] theorem modClap_eth (f : Clap → Clap) (s : State) : (modClap f s).eth = s.eth := (rfl)
@[simp] theorem modClap_dlk (f : Clap → Clap) (s : State) : (modClap f s).dlk = s.dlk := (rfl)
@[simp] theorem modClap_ing (f : Clap → Clap) (s : State) : (modClap f s).ing = s.ing := (rfl)
@[simp] theorem modClap_lrn (f : Clap → Clap) (s : State) : (modClap f s).lrn = s.lrn := (rfl)
@[simp] theorem modClap_bw (f : Clap → Clap) (s : State) : (modClap f s).bw = s.bw := (rfl)
@[simp] theorem modClap_isl (f : Clap → Clap) (s : State) : (modClap f s).isl = s.isl := (rfl)
@[simp] theorem modClap_pwr (f : Clap → Clap) (s : State) : (modClap f s).pwr = s.pwr := (rfl)
@[simp] theorem modClap_boot (f : Clap → Clap) (s : State) : (modClap f s).boot = s.boot := (rfl)
@[simp] theorem modClap_mal (f : Clap → Clap) (s : State) : (modClap f s).mal = s.mal := (rfl)
@[simp] theorem modClap_pending (f : Clap → Clap) (s : State) : (modClap f s).pending = s.pending := (rfl)
@[simp] theorem getF_modClap (f : Clap → Clap) (s : State) (p_ : Page) (r_ : Row) : getF (modClap f s) p_ r_ = getF s p_ r_ := (rfl)
@[simp] theorem getFi_modClap (f : Clap → Clap) (s : State) (p_ : Page) (r_ : Row) (i_ : Nat) : getFi (modClap f s) p_ r_ i_ = getFi s p_ r_ i_ := (rfl)

/-! modCharge -/

@[simp] theorem modCharge_regs (p : Nat) (f : Charges → Charges) (s : State) : (modCharge p f s).regs = s.regs := (rfl)
@[simp] theorem modCharge_mem (p : Nat) (f : Charges → Charges) (s : State) : (modCharge p f s).mem = s.mem := (rfl)
@[simp] theorem modCharge_io (p : Nat) (f : Charges → Charges) (s : State) : (modCharge p f s).io = s.io := (rfl)
@[simp] theorem modCharge_links (p : Nat) (f : Charges → Charges) (s : State) : (modCharge p f s).links = s.links := (rfl)
@[simp] theorem modCharge_cyc (p : Nat) (f : Charges → Charges) (s : State) : (modCharge p f s).cyc = s.cyc := (rfl)
@[simp] theorem modCharge_seq (p : Nat) (f : Charges → Charges) (s : State) : (modCharge p f s).seq = s.seq := (rfl)
@[simp] theorem modCharge_dies (p : Nat) (f : Charges → Charges) (s : State) : (modCharge p f s).dies = s.dies := (rfl)
@[simp] theorem modCharge_parts (p : Nat) (f : Charges → Charges) (s : State) : (modCharge p f s).parts = s.parts := (rfl)
@[simp] theorem modCharge_tiles (p : Nat) (f : Charges → Charges) (s : State) : (modCharge p f s).tiles = s.tiles := (rfl)
@[simp] theorem modCharge_fus (p : Nat) (f : Charges → Charges) (s : State) : (modCharge p f s).fus = s.fus := (rfl)
@[simp] theorem modCharge_mbx (p : Nat) (f : Charges → Charges) (s : State) : (modCharge p f s).mbx = s.mbx := (rfl)
@[simp] theorem modCharge_ldg (p : Nat) (f : Charges → Charges) (s : State) : (modCharge p f s).ldg = s.ldg := (rfl)
@[simp] theorem modCharge_hld (p : Nat) (f : Charges → Charges) (s : State) : (modCharge p f s).hld = s.hld := (rfl)
@[simp] theorem modCharge_eth (p : Nat) (f : Charges → Charges) (s : State) : (modCharge p f s).eth = s.eth := (rfl)
@[simp] theorem modCharge_dlk (p : Nat) (f : Charges → Charges) (s : State) : (modCharge p f s).dlk = s.dlk := (rfl)
@[simp] theorem modCharge_ing (p : Nat) (f : Charges → Charges) (s : State) : (modCharge p f s).ing = s.ing := (rfl)
@[simp] theorem modCharge_lrn (p : Nat) (f : Charges → Charges) (s : State) : (modCharge p f s).lrn = s.lrn := (rfl)
@[simp] theorem modCharge_bw (p : Nat) (f : Charges → Charges) (s : State) : (modCharge p f s).bw = s.bw := (rfl)
@[simp] theorem modCharge_clap (p : Nat) (f : Charges → Charges) (s : State) : (modCharge p f s).clap = s.clap := (rfl)
@[simp] theorem modCharge_isl (p : Nat) (f : Charges → Charges) (s : State) : (modCharge p f s).isl = s.isl := (rfl)
@[simp] theorem modCharge_pwr (p : Nat) (f : Charges → Charges) (s : State) : (modCharge p f s).pwr = s.pwr := (rfl)
@[simp] theorem modCharge_boot (p : Nat) (f : Charges → Charges) (s : State) : (modCharge p f s).boot = s.boot := (rfl)
@[simp] theorem modCharge_mal (p : Nat) (f : Charges → Charges) (s : State) : (modCharge p f s).mal = s.mal := (rfl)
@[simp] theorem modCharge_pending (p : Nat) (f : Charges → Charges) (s : State) : (modCharge p f s).pending = s.pending := (rfl)
@[simp] theorem getF_modCharge (p : Nat) (f : Charges → Charges) (s : State) (p_ : Page) (r_ : Row) : getF (modCharge p f s) p_ r_ = getF s p_ r_ := (rfl)
@[simp] theorem getFi_modCharge (p : Nat) (f : Charges → Charges) (s : State) (p_ : Page) (r_ : Row) (i_ : Nat) : getFi (modCharge p f s) p_ r_ i_ = getFi s p_ r_ i_ := (rfl)

/-! modDie -/

@[simp] theorem modDie_regs (d : Nat) (f : Die → Die) (s : State) : (modDie d f s).regs = s.regs := (rfl)
@[simp] theorem modDie_mem (d : Nat) (f : Die → Die) (s : State) : (modDie d f s).mem = s.mem := (rfl)
@[simp] theorem modDie_io (d : Nat) (f : Die → Die) (s : State) : (modDie d f s).io = s.io := (rfl)
@[simp] theorem modDie_links (d : Nat) (f : Die → Die) (s : State) : (modDie d f s).links = s.links := (rfl)
@[simp] theorem modDie_cyc (d : Nat) (f : Die → Die) (s : State) : (modDie d f s).cyc = s.cyc := (rfl)
@[simp] theorem modDie_seq (d : Nat) (f : Die → Die) (s : State) : (modDie d f s).seq = s.seq := (rfl)
@[simp] theorem modDie_parts (d : Nat) (f : Die → Die) (s : State) : (modDie d f s).parts = s.parts := (rfl)
@[simp] theorem modDie_acct (d : Nat) (f : Die → Die) (s : State) : (modDie d f s).acct = s.acct := (rfl)
@[simp] theorem modDie_tiles (d : Nat) (f : Die → Die) (s : State) : (modDie d f s).tiles = s.tiles := (rfl)
@[simp] theorem modDie_fus (d : Nat) (f : Die → Die) (s : State) : (modDie d f s).fus = s.fus := (rfl)
@[simp] theorem modDie_mbx (d : Nat) (f : Die → Die) (s : State) : (modDie d f s).mbx = s.mbx := (rfl)
@[simp] theorem modDie_ldg (d : Nat) (f : Die → Die) (s : State) : (modDie d f s).ldg = s.ldg := (rfl)
@[simp] theorem modDie_hld (d : Nat) (f : Die → Die) (s : State) : (modDie d f s).hld = s.hld := (rfl)
@[simp] theorem modDie_eth (d : Nat) (f : Die → Die) (s : State) : (modDie d f s).eth = s.eth := (rfl)
@[simp] theorem modDie_dlk (d : Nat) (f : Die → Die) (s : State) : (modDie d f s).dlk = s.dlk := (rfl)
@[simp] theorem modDie_ing (d : Nat) (f : Die → Die) (s : State) : (modDie d f s).ing = s.ing := (rfl)
@[simp] theorem modDie_lrn (d : Nat) (f : Die → Die) (s : State) : (modDie d f s).lrn = s.lrn := (rfl)
@[simp] theorem modDie_bw (d : Nat) (f : Die → Die) (s : State) : (modDie d f s).bw = s.bw := (rfl)
@[simp] theorem modDie_clap (d : Nat) (f : Die → Die) (s : State) : (modDie d f s).clap = s.clap := (rfl)
@[simp] theorem modDie_isl (d : Nat) (f : Die → Die) (s : State) : (modDie d f s).isl = s.isl := (rfl)
@[simp] theorem modDie_pwr (d : Nat) (f : Die → Die) (s : State) : (modDie d f s).pwr = s.pwr := (rfl)
@[simp] theorem modDie_boot (d : Nat) (f : Die → Die) (s : State) : (modDie d f s).boot = s.boot := (rfl)
@[simp] theorem modDie_mal (d : Nat) (f : Die → Die) (s : State) : (modDie d f s).mal = s.mal := (rfl)
@[simp] theorem modDie_pending (d : Nat) (f : Die → Die) (s : State) : (modDie d f s).pending = s.pending := (rfl)
@[simp] theorem getF_modDie (d : Nat) (f : Die → Die) (s : State) (p_ : Page) (r_ : Row) : getF (modDie d f s) p_ r_ = getF s p_ r_ := (rfl)
@[simp] theorem getFi_modDie (d : Nat) (f : Die → Die) (s : State) (p_ : Page) (r_ : Row) (i_ : Nat) : getFi (modDie d f s) p_ r_ i_ = getFi s p_ r_ i_ := (rfl)

/-! modRun -/

@[simp] theorem modRun_regs (idx : Nat) (bar : Nat) (f : StrokeRun → StrokeRun) (s : State) : (modRun idx bar f s).regs = s.regs := (rfl)
@[simp] theorem modRun_mem (idx : Nat) (bar : Nat) (f : StrokeRun → StrokeRun) (s : State) : (modRun idx bar f s).mem = s.mem := (rfl)
@[simp] theorem modRun_io (idx : Nat) (bar : Nat) (f : StrokeRun → StrokeRun) (s : State) : (modRun idx bar f s).io = s.io := (rfl)
@[simp] theorem modRun_links (idx : Nat) (bar : Nat) (f : StrokeRun → StrokeRun) (s : State) : (modRun idx bar f s).links = s.links := (rfl)
@[simp] theorem modRun_cyc (idx : Nat) (bar : Nat) (f : StrokeRun → StrokeRun) (s : State) : (modRun idx bar f s).cyc = s.cyc := (rfl)
@[simp] theorem modRun_dies (idx : Nat) (bar : Nat) (f : StrokeRun → StrokeRun) (s : State) : (modRun idx bar f s).dies = s.dies := (rfl)
@[simp] theorem modRun_parts (idx : Nat) (bar : Nat) (f : StrokeRun → StrokeRun) (s : State) : (modRun idx bar f s).parts = s.parts := (rfl)
@[simp] theorem modRun_acct (idx : Nat) (bar : Nat) (f : StrokeRun → StrokeRun) (s : State) : (modRun idx bar f s).acct = s.acct := (rfl)
@[simp] theorem modRun_tiles (idx : Nat) (bar : Nat) (f : StrokeRun → StrokeRun) (s : State) : (modRun idx bar f s).tiles = s.tiles := (rfl)
@[simp] theorem modRun_fus (idx : Nat) (bar : Nat) (f : StrokeRun → StrokeRun) (s : State) : (modRun idx bar f s).fus = s.fus := (rfl)
@[simp] theorem modRun_mbx (idx : Nat) (bar : Nat) (f : StrokeRun → StrokeRun) (s : State) : (modRun idx bar f s).mbx = s.mbx := (rfl)
@[simp] theorem modRun_ldg (idx : Nat) (bar : Nat) (f : StrokeRun → StrokeRun) (s : State) : (modRun idx bar f s).ldg = s.ldg := (rfl)
@[simp] theorem modRun_hld (idx : Nat) (bar : Nat) (f : StrokeRun → StrokeRun) (s : State) : (modRun idx bar f s).hld = s.hld := (rfl)
@[simp] theorem modRun_eth (idx : Nat) (bar : Nat) (f : StrokeRun → StrokeRun) (s : State) : (modRun idx bar f s).eth = s.eth := (rfl)
@[simp] theorem modRun_dlk (idx : Nat) (bar : Nat) (f : StrokeRun → StrokeRun) (s : State) : (modRun idx bar f s).dlk = s.dlk := (rfl)
@[simp] theorem modRun_ing (idx : Nat) (bar : Nat) (f : StrokeRun → StrokeRun) (s : State) : (modRun idx bar f s).ing = s.ing := (rfl)
@[simp] theorem modRun_lrn (idx : Nat) (bar : Nat) (f : StrokeRun → StrokeRun) (s : State) : (modRun idx bar f s).lrn = s.lrn := (rfl)
@[simp] theorem modRun_bw (idx : Nat) (bar : Nat) (f : StrokeRun → StrokeRun) (s : State) : (modRun idx bar f s).bw = s.bw := (rfl)
@[simp] theorem modRun_clap (idx : Nat) (bar : Nat) (f : StrokeRun → StrokeRun) (s : State) : (modRun idx bar f s).clap = s.clap := (rfl)
@[simp] theorem modRun_isl (idx : Nat) (bar : Nat) (f : StrokeRun → StrokeRun) (s : State) : (modRun idx bar f s).isl = s.isl := (rfl)
@[simp] theorem modRun_pwr (idx : Nat) (bar : Nat) (f : StrokeRun → StrokeRun) (s : State) : (modRun idx bar f s).pwr = s.pwr := (rfl)
@[simp] theorem modRun_boot (idx : Nat) (bar : Nat) (f : StrokeRun → StrokeRun) (s : State) : (modRun idx bar f s).boot = s.boot := (rfl)
@[simp] theorem modRun_mal (idx : Nat) (bar : Nat) (f : StrokeRun → StrokeRun) (s : State) : (modRun idx bar f s).mal = s.mal := (rfl)
@[simp] theorem modRun_pending (idx : Nat) (bar : Nat) (f : StrokeRun → StrokeRun) (s : State) : (modRun idx bar f s).pending = s.pending := (rfl)
@[simp] theorem getF_modRun (idx : Nat) (bar : Nat) (f : StrokeRun → StrokeRun) (s : State) (p_ : Page) (r_ : Row) : getF (modRun idx bar f s) p_ r_ = getF s p_ r_ := (rfl)
@[simp] theorem getFi_modRun (idx : Nat) (bar : Nat) (f : StrokeRun → StrokeRun) (s : State) (p_ : Page) (r_ : Row) (i_ : Nat) : getFi (modRun idx bar f s) p_ r_ i_ = getFi s p_ r_ i_ := (rfl)

/-! modDiePwr -/

@[simp] theorem modDiePwr_regs (n : Nat) (f : DiePwr → DiePwr) (s : State) : (modDiePwr n f s).regs = s.regs := (rfl)
@[simp] theorem modDiePwr_mem (n : Nat) (f : DiePwr → DiePwr) (s : State) : (modDiePwr n f s).mem = s.mem := (rfl)
@[simp] theorem modDiePwr_io (n : Nat) (f : DiePwr → DiePwr) (s : State) : (modDiePwr n f s).io = s.io := (rfl)
@[simp] theorem modDiePwr_links (n : Nat) (f : DiePwr → DiePwr) (s : State) : (modDiePwr n f s).links = s.links := (rfl)
@[simp] theorem modDiePwr_cyc (n : Nat) (f : DiePwr → DiePwr) (s : State) : (modDiePwr n f s).cyc = s.cyc := (rfl)
@[simp] theorem modDiePwr_seq (n : Nat) (f : DiePwr → DiePwr) (s : State) : (modDiePwr n f s).seq = s.seq := (rfl)
@[simp] theorem modDiePwr_dies (n : Nat) (f : DiePwr → DiePwr) (s : State) : (modDiePwr n f s).dies = s.dies := (rfl)
@[simp] theorem modDiePwr_parts (n : Nat) (f : DiePwr → DiePwr) (s : State) : (modDiePwr n f s).parts = s.parts := (rfl)
@[simp] theorem modDiePwr_acct (n : Nat) (f : DiePwr → DiePwr) (s : State) : (modDiePwr n f s).acct = s.acct := (rfl)
@[simp] theorem modDiePwr_tiles (n : Nat) (f : DiePwr → DiePwr) (s : State) : (modDiePwr n f s).tiles = s.tiles := (rfl)
@[simp] theorem modDiePwr_fus (n : Nat) (f : DiePwr → DiePwr) (s : State) : (modDiePwr n f s).fus = s.fus := (rfl)
@[simp] theorem modDiePwr_mbx (n : Nat) (f : DiePwr → DiePwr) (s : State) : (modDiePwr n f s).mbx = s.mbx := (rfl)
@[simp] theorem modDiePwr_ldg (n : Nat) (f : DiePwr → DiePwr) (s : State) : (modDiePwr n f s).ldg = s.ldg := (rfl)
@[simp] theorem modDiePwr_hld (n : Nat) (f : DiePwr → DiePwr) (s : State) : (modDiePwr n f s).hld = s.hld := (rfl)
@[simp] theorem modDiePwr_eth (n : Nat) (f : DiePwr → DiePwr) (s : State) : (modDiePwr n f s).eth = s.eth := (rfl)
@[simp] theorem modDiePwr_dlk (n : Nat) (f : DiePwr → DiePwr) (s : State) : (modDiePwr n f s).dlk = s.dlk := (rfl)
@[simp] theorem modDiePwr_ing (n : Nat) (f : DiePwr → DiePwr) (s : State) : (modDiePwr n f s).ing = s.ing := (rfl)
@[simp] theorem modDiePwr_lrn (n : Nat) (f : DiePwr → DiePwr) (s : State) : (modDiePwr n f s).lrn = s.lrn := (rfl)
@[simp] theorem modDiePwr_bw (n : Nat) (f : DiePwr → DiePwr) (s : State) : (modDiePwr n f s).bw = s.bw := (rfl)
@[simp] theorem modDiePwr_clap (n : Nat) (f : DiePwr → DiePwr) (s : State) : (modDiePwr n f s).clap = s.clap := (rfl)
@[simp] theorem modDiePwr_isl (n : Nat) (f : DiePwr → DiePwr) (s : State) : (modDiePwr n f s).isl = s.isl := (rfl)
@[simp] theorem modDiePwr_boot (n : Nat) (f : DiePwr → DiePwr) (s : State) : (modDiePwr n f s).boot = s.boot := (rfl)
@[simp] theorem modDiePwr_mal (n : Nat) (f : DiePwr → DiePwr) (s : State) : (modDiePwr n f s).mal = s.mal := (rfl)
@[simp] theorem modDiePwr_pending (n : Nat) (f : DiePwr → DiePwr) (s : State) : (modDiePwr n f s).pending = s.pending := (rfl)
@[simp] theorem getF_modDiePwr (n : Nat) (f : DiePwr → DiePwr) (s : State) (p_ : Page) (r_ : Row) : getF (modDiePwr n f s) p_ r_ = getF s p_ r_ := (rfl)
@[simp] theorem getFi_modDiePwr (n : Nat) (f : DiePwr → DiePwr) (s : State) (p_ : Page) (r_ : Row) (i_ : Nat) : getFi (modDiePwr n f s) p_ r_ i_ = getFi s p_ r_ i_ := (rfl)

/-! modCyc -/

@[simp] theorem modCyc_regs (f : Cyc → Cyc) (s : State) : (modCyc f s).regs = s.regs := (rfl)
@[simp] theorem modCyc_mem (f : Cyc → Cyc) (s : State) : (modCyc f s).mem = s.mem := (rfl)
@[simp] theorem modCyc_io (f : Cyc → Cyc) (s : State) : (modCyc f s).io = s.io := (rfl)
@[simp] theorem modCyc_links (f : Cyc → Cyc) (s : State) : (modCyc f s).links = s.links := (rfl)
@[simp] theorem modCyc_seq (f : Cyc → Cyc) (s : State) : (modCyc f s).seq = s.seq := (rfl)
@[simp] theorem modCyc_dies (f : Cyc → Cyc) (s : State) : (modCyc f s).dies = s.dies := (rfl)
@[simp] theorem modCyc_parts (f : Cyc → Cyc) (s : State) : (modCyc f s).parts = s.parts := (rfl)
@[simp] theorem modCyc_acct (f : Cyc → Cyc) (s : State) : (modCyc f s).acct = s.acct := (rfl)
@[simp] theorem modCyc_tiles (f : Cyc → Cyc) (s : State) : (modCyc f s).tiles = s.tiles := (rfl)
@[simp] theorem modCyc_fus (f : Cyc → Cyc) (s : State) : (modCyc f s).fus = s.fus := (rfl)
@[simp] theorem modCyc_mbx (f : Cyc → Cyc) (s : State) : (modCyc f s).mbx = s.mbx := (rfl)
@[simp] theorem modCyc_ldg (f : Cyc → Cyc) (s : State) : (modCyc f s).ldg = s.ldg := (rfl)
@[simp] theorem modCyc_hld (f : Cyc → Cyc) (s : State) : (modCyc f s).hld = s.hld := (rfl)
@[simp] theorem modCyc_eth (f : Cyc → Cyc) (s : State) : (modCyc f s).eth = s.eth := (rfl)
@[simp] theorem modCyc_dlk (f : Cyc → Cyc) (s : State) : (modCyc f s).dlk = s.dlk := (rfl)
@[simp] theorem modCyc_ing (f : Cyc → Cyc) (s : State) : (modCyc f s).ing = s.ing := (rfl)
@[simp] theorem modCyc_lrn (f : Cyc → Cyc) (s : State) : (modCyc f s).lrn = s.lrn := (rfl)
@[simp] theorem modCyc_bw (f : Cyc → Cyc) (s : State) : (modCyc f s).bw = s.bw := (rfl)
@[simp] theorem modCyc_clap (f : Cyc → Cyc) (s : State) : (modCyc f s).clap = s.clap := (rfl)
@[simp] theorem modCyc_isl (f : Cyc → Cyc) (s : State) : (modCyc f s).isl = s.isl := (rfl)
@[simp] theorem modCyc_pwr (f : Cyc → Cyc) (s : State) : (modCyc f s).pwr = s.pwr := (rfl)
@[simp] theorem modCyc_boot (f : Cyc → Cyc) (s : State) : (modCyc f s).boot = s.boot := (rfl)
@[simp] theorem modCyc_mal (f : Cyc → Cyc) (s : State) : (modCyc f s).mal = s.mal := (rfl)
@[simp] theorem modCyc_pending (f : Cyc → Cyc) (s : State) : (modCyc f s).pending = s.pending := (rfl)
@[simp] theorem getF_modCyc (f : Cyc → Cyc) (s : State) (p_ : Page) (r_ : Row) : getF (modCyc f s) p_ r_ = getF s p_ r_ := (rfl)
@[simp] theorem getFi_modCyc (f : Cyc → Cyc) (s : State) (p_ : Page) (r_ : Row) (i_ : Nat) : getFi (modCyc f s) p_ r_ i_ = getFi s p_ r_ i_ := (rfl)

/-! modCtx -/

@[simp] theorem modCtx_regs (d : Nat) (idx : Nat) (bar : Nat) (f : Ctx → Ctx) (s : State) : (modCtx d idx bar f s).regs = s.regs := (rfl)
@[simp] theorem modCtx_mem (d : Nat) (idx : Nat) (bar : Nat) (f : Ctx → Ctx) (s : State) : (modCtx d idx bar f s).mem = s.mem := (rfl)
@[simp] theorem modCtx_io (d : Nat) (idx : Nat) (bar : Nat) (f : Ctx → Ctx) (s : State) : (modCtx d idx bar f s).io = s.io := (rfl)
@[simp] theorem modCtx_links (d : Nat) (idx : Nat) (bar : Nat) (f : Ctx → Ctx) (s : State) : (modCtx d idx bar f s).links = s.links := (rfl)
@[simp] theorem modCtx_cyc (d : Nat) (idx : Nat) (bar : Nat) (f : Ctx → Ctx) (s : State) : (modCtx d idx bar f s).cyc = s.cyc := (rfl)
@[simp] theorem modCtx_seq (d : Nat) (idx : Nat) (bar : Nat) (f : Ctx → Ctx) (s : State) : (modCtx d idx bar f s).seq = s.seq := (rfl)
@[simp] theorem modCtx_parts (d : Nat) (idx : Nat) (bar : Nat) (f : Ctx → Ctx) (s : State) : (modCtx d idx bar f s).parts = s.parts := (rfl)
@[simp] theorem modCtx_acct (d : Nat) (idx : Nat) (bar : Nat) (f : Ctx → Ctx) (s : State) : (modCtx d idx bar f s).acct = s.acct := (rfl)
@[simp] theorem modCtx_tiles (d : Nat) (idx : Nat) (bar : Nat) (f : Ctx → Ctx) (s : State) : (modCtx d idx bar f s).tiles = s.tiles := (rfl)
@[simp] theorem modCtx_fus (d : Nat) (idx : Nat) (bar : Nat) (f : Ctx → Ctx) (s : State) : (modCtx d idx bar f s).fus = s.fus := (rfl)
@[simp] theorem modCtx_mbx (d : Nat) (idx : Nat) (bar : Nat) (f : Ctx → Ctx) (s : State) : (modCtx d idx bar f s).mbx = s.mbx := (rfl)
@[simp] theorem modCtx_ldg (d : Nat) (idx : Nat) (bar : Nat) (f : Ctx → Ctx) (s : State) : (modCtx d idx bar f s).ldg = s.ldg := (rfl)
@[simp] theorem modCtx_hld (d : Nat) (idx : Nat) (bar : Nat) (f : Ctx → Ctx) (s : State) : (modCtx d idx bar f s).hld = s.hld := (rfl)
@[simp] theorem modCtx_eth (d : Nat) (idx : Nat) (bar : Nat) (f : Ctx → Ctx) (s : State) : (modCtx d idx bar f s).eth = s.eth := (rfl)
@[simp] theorem modCtx_dlk (d : Nat) (idx : Nat) (bar : Nat) (f : Ctx → Ctx) (s : State) : (modCtx d idx bar f s).dlk = s.dlk := (rfl)
@[simp] theorem modCtx_ing (d : Nat) (idx : Nat) (bar : Nat) (f : Ctx → Ctx) (s : State) : (modCtx d idx bar f s).ing = s.ing := (rfl)
@[simp] theorem modCtx_lrn (d : Nat) (idx : Nat) (bar : Nat) (f : Ctx → Ctx) (s : State) : (modCtx d idx bar f s).lrn = s.lrn := (rfl)
@[simp] theorem modCtx_bw (d : Nat) (idx : Nat) (bar : Nat) (f : Ctx → Ctx) (s : State) : (modCtx d idx bar f s).bw = s.bw := (rfl)
@[simp] theorem modCtx_clap (d : Nat) (idx : Nat) (bar : Nat) (f : Ctx → Ctx) (s : State) : (modCtx d idx bar f s).clap = s.clap := (rfl)
@[simp] theorem modCtx_isl (d : Nat) (idx : Nat) (bar : Nat) (f : Ctx → Ctx) (s : State) : (modCtx d idx bar f s).isl = s.isl := (rfl)
@[simp] theorem modCtx_pwr (d : Nat) (idx : Nat) (bar : Nat) (f : Ctx → Ctx) (s : State) : (modCtx d idx bar f s).pwr = s.pwr := (rfl)
@[simp] theorem modCtx_boot (d : Nat) (idx : Nat) (bar : Nat) (f : Ctx → Ctx) (s : State) : (modCtx d idx bar f s).boot = s.boot := (rfl)
@[simp] theorem modCtx_mal (d : Nat) (idx : Nat) (bar : Nat) (f : Ctx → Ctx) (s : State) : (modCtx d idx bar f s).mal = s.mal := (rfl)
@[simp] theorem modCtx_pending (d : Nat) (idx : Nat) (bar : Nat) (f : Ctx → Ctx) (s : State) : (modCtx d idx bar f s).pending = s.pending := (rfl)
@[simp] theorem getF_modCtx (d : Nat) (idx : Nat) (bar : Nat) (f : Ctx → Ctx) (s : State) (p_ : Page) (r_ : Row) : getF (modCtx d idx bar f s) p_ r_ = getF s p_ r_ := (rfl)
@[simp] theorem getFi_modCtx (d : Nat) (idx : Nat) (bar : Nat) (f : Ctx → Ctx) (s : State) (p_ : Page) (r_ : Row) (i_ : Nat) : getFi (modCtx d idx bar f s) p_ r_ i_ = getFi s p_ r_ i_ := (rfl)

/-! modEth -/

@[simp] theorem modEth_regs (f : Eth → Eth) (s : State) : (modEth f s).regs = s.regs := (rfl)
@[simp] theorem modEth_mem (f : Eth → Eth) (s : State) : (modEth f s).mem = s.mem := (rfl)
@[simp] theorem modEth_io (f : Eth → Eth) (s : State) : (modEth f s).io = s.io := (rfl)
@[simp] theorem modEth_links (f : Eth → Eth) (s : State) : (modEth f s).links = s.links := (rfl)
@[simp] theorem modEth_cyc (f : Eth → Eth) (s : State) : (modEth f s).cyc = s.cyc := (rfl)
@[simp] theorem modEth_seq (f : Eth → Eth) (s : State) : (modEth f s).seq = s.seq := (rfl)
@[simp] theorem modEth_dies (f : Eth → Eth) (s : State) : (modEth f s).dies = s.dies := (rfl)
@[simp] theorem modEth_parts (f : Eth → Eth) (s : State) : (modEth f s).parts = s.parts := (rfl)
@[simp] theorem modEth_acct (f : Eth → Eth) (s : State) : (modEth f s).acct = s.acct := (rfl)
@[simp] theorem modEth_tiles (f : Eth → Eth) (s : State) : (modEth f s).tiles = s.tiles := (rfl)
@[simp] theorem modEth_fus (f : Eth → Eth) (s : State) : (modEth f s).fus = s.fus := (rfl)
@[simp] theorem modEth_mbx (f : Eth → Eth) (s : State) : (modEth f s).mbx = s.mbx := (rfl)
@[simp] theorem modEth_ldg (f : Eth → Eth) (s : State) : (modEth f s).ldg = s.ldg := (rfl)
@[simp] theorem modEth_hld (f : Eth → Eth) (s : State) : (modEth f s).hld = s.hld := (rfl)
@[simp] theorem modEth_dlk (f : Eth → Eth) (s : State) : (modEth f s).dlk = s.dlk := (rfl)
@[simp] theorem modEth_ing (f : Eth → Eth) (s : State) : (modEth f s).ing = s.ing := (rfl)
@[simp] theorem modEth_lrn (f : Eth → Eth) (s : State) : (modEth f s).lrn = s.lrn := (rfl)
@[simp] theorem modEth_bw (f : Eth → Eth) (s : State) : (modEth f s).bw = s.bw := (rfl)
@[simp] theorem modEth_clap (f : Eth → Eth) (s : State) : (modEth f s).clap = s.clap := (rfl)
@[simp] theorem modEth_isl (f : Eth → Eth) (s : State) : (modEth f s).isl = s.isl := (rfl)
@[simp] theorem modEth_pwr (f : Eth → Eth) (s : State) : (modEth f s).pwr = s.pwr := (rfl)
@[simp] theorem modEth_boot (f : Eth → Eth) (s : State) : (modEth f s).boot = s.boot := (rfl)
@[simp] theorem modEth_mal (f : Eth → Eth) (s : State) : (modEth f s).mal = s.mal := (rfl)
@[simp] theorem modEth_pending (f : Eth → Eth) (s : State) : (modEth f s).pending = s.pending := (rfl)
@[simp] theorem getF_modEth (f : Eth → Eth) (s : State) (p_ : Page) (r_ : Row) : getF (modEth f s) p_ r_ = getF s p_ r_ := (rfl)
@[simp] theorem getFi_modEth (f : Eth → Eth) (s : State) (p_ : Page) (r_ : Row) (i_ : Nat) : getFi (modEth f s) p_ r_ i_ = getFi s p_ r_ i_ := (rfl)

/-! modStrm -/

@[simp] theorem modStrm_regs (sm : Nat) (f : Strm → Strm) (s : State) : (modStrm sm f s).regs = s.regs := (rfl)
@[simp] theorem modStrm_mem (sm : Nat) (f : Strm → Strm) (s : State) : (modStrm sm f s).mem = s.mem := (rfl)
@[simp] theorem modStrm_io (sm : Nat) (f : Strm → Strm) (s : State) : (modStrm sm f s).io = s.io := (rfl)
@[simp] theorem modStrm_links (sm : Nat) (f : Strm → Strm) (s : State) : (modStrm sm f s).links = s.links := (rfl)
@[simp] theorem modStrm_cyc (sm : Nat) (f : Strm → Strm) (s : State) : (modStrm sm f s).cyc = s.cyc := (rfl)
@[simp] theorem modStrm_seq (sm : Nat) (f : Strm → Strm) (s : State) : (modStrm sm f s).seq = s.seq := (rfl)
@[simp] theorem modStrm_dies (sm : Nat) (f : Strm → Strm) (s : State) : (modStrm sm f s).dies = s.dies := (rfl)
@[simp] theorem modStrm_parts (sm : Nat) (f : Strm → Strm) (s : State) : (modStrm sm f s).parts = s.parts := (rfl)
@[simp] theorem modStrm_acct (sm : Nat) (f : Strm → Strm) (s : State) : (modStrm sm f s).acct = s.acct := (rfl)
@[simp] theorem modStrm_tiles (sm : Nat) (f : Strm → Strm) (s : State) : (modStrm sm f s).tiles = s.tiles := (rfl)
@[simp] theorem modStrm_fus (sm : Nat) (f : Strm → Strm) (s : State) : (modStrm sm f s).fus = s.fus := (rfl)
@[simp] theorem modStrm_mbx (sm : Nat) (f : Strm → Strm) (s : State) : (modStrm sm f s).mbx = s.mbx := (rfl)
@[simp] theorem modStrm_ldg (sm : Nat) (f : Strm → Strm) (s : State) : (modStrm sm f s).ldg = s.ldg := (rfl)
@[simp] theorem modStrm_hld (sm : Nat) (f : Strm → Strm) (s : State) : (modStrm sm f s).hld = s.hld := (rfl)
@[simp] theorem modStrm_eth (sm : Nat) (f : Strm → Strm) (s : State) : (modStrm sm f s).eth = s.eth := (rfl)
@[simp] theorem modStrm_dlk (sm : Nat) (f : Strm → Strm) (s : State) : (modStrm sm f s).dlk = s.dlk := (rfl)
@[simp] theorem modStrm_lrn (sm : Nat) (f : Strm → Strm) (s : State) : (modStrm sm f s).lrn = s.lrn := (rfl)
@[simp] theorem modStrm_bw (sm : Nat) (f : Strm → Strm) (s : State) : (modStrm sm f s).bw = s.bw := (rfl)
@[simp] theorem modStrm_clap (sm : Nat) (f : Strm → Strm) (s : State) : (modStrm sm f s).clap = s.clap := (rfl)
@[simp] theorem modStrm_isl (sm : Nat) (f : Strm → Strm) (s : State) : (modStrm sm f s).isl = s.isl := (rfl)
@[simp] theorem modStrm_pwr (sm : Nat) (f : Strm → Strm) (s : State) : (modStrm sm f s).pwr = s.pwr := (rfl)
@[simp] theorem modStrm_boot (sm : Nat) (f : Strm → Strm) (s : State) : (modStrm sm f s).boot = s.boot := (rfl)
@[simp] theorem modStrm_mal (sm : Nat) (f : Strm → Strm) (s : State) : (modStrm sm f s).mal = s.mal := (rfl)
@[simp] theorem modStrm_pending (sm : Nat) (f : Strm → Strm) (s : State) : (modStrm sm f s).pending = s.pending := (rfl)
@[simp] theorem getF_modStrm (sm : Nat) (f : Strm → Strm) (s : State) (p_ : Page) (r_ : Row) : getF (modStrm sm f s) p_ r_ = getF s p_ r_ := (rfl)
@[simp] theorem getFi_modStrm (sm : Nat) (f : Strm → Strm) (s : State) (p_ : Page) (r_ : Row) (i_ : Nat) : getFi (modStrm sm f s) p_ r_ i_ = getFi s p_ r_ i_ := (rfl)

/-! record -/

@[simp] theorem record_mem (p : Page) (code : Nat) (s : State) : (record p code s).mem = s.mem :=
  (record_keeps p code (K := 2) rfl (Keeps.refl 2 s)).frame .mem rfl
@[simp] theorem record_links (p : Page) (code : Nat) (s : State) : (record p code s).links = s.links :=
  (record_keeps p code (K := 8) rfl (Keeps.refl 8 s)).frame .links rfl
@[simp] theorem record_cyc (p : Page) (code : Nat) (s : State) : (record p code s).cyc = s.cyc :=
  (record_keeps p code (K := 16) rfl (Keeps.refl 16 s)).frame .cyc rfl
@[simp] theorem record_seq (p : Page) (code : Nat) (s : State) : (record p code s).seq = s.seq :=
  (record_keeps p code (K := 32) rfl (Keeps.refl 32 s)).frame .seq rfl
@[simp] theorem record_dies (p : Page) (code : Nat) (s : State) : (record p code s).dies = s.dies :=
  (record_keeps p code (K := 64) rfl (Keeps.refl 64 s)).frame .dies rfl
@[simp] theorem record_parts (p : Page) (code : Nat) (s : State) : (record p code s).parts = s.parts :=
  (record_keeps p code (K := 128) rfl (Keeps.refl 128 s)).frame .parts rfl
@[simp] theorem record_acct (p : Page) (code : Nat) (s : State) : (record p code s).acct = s.acct :=
  (record_keeps p code (K := 256) rfl (Keeps.refl 256 s)).frame .acct rfl
@[simp] theorem record_tiles (p : Page) (code : Nat) (s : State) : (record p code s).tiles = s.tiles :=
  (record_keeps p code (K := 512) rfl (Keeps.refl 512 s)).frame .tiles rfl
@[simp] theorem record_fus (p : Page) (code : Nat) (s : State) : (record p code s).fus = s.fus :=
  (record_keeps p code (K := 1024) rfl (Keeps.refl 1024 s)).frame .fus rfl
@[simp] theorem record_hld (p : Page) (code : Nat) (s : State) : (record p code s).hld = s.hld :=
  (record_keeps p code (K := 8192) rfl (Keeps.refl 8192 s)).frame .hld rfl
@[simp] theorem record_eth (p : Page) (code : Nat) (s : State) : (record p code s).eth = s.eth :=
  (record_keeps p code (K := 16384) rfl (Keeps.refl 16384 s)).frame .eth rfl
@[simp] theorem record_dlk (p : Page) (code : Nat) (s : State) : (record p code s).dlk = s.dlk :=
  (record_keeps p code (K := 32768) rfl (Keeps.refl 32768 s)).frame .dlk rfl
@[simp] theorem record_ing (p : Page) (code : Nat) (s : State) : (record p code s).ing = s.ing :=
  (record_keeps p code (K := 65536) rfl (Keeps.refl 65536 s)).frame .ing rfl
@[simp] theorem record_lrn (p : Page) (code : Nat) (s : State) : (record p code s).lrn = s.lrn :=
  (record_keeps p code (K := 131072) rfl (Keeps.refl 131072 s)).frame .lrn rfl
@[simp] theorem record_bw (p : Page) (code : Nat) (s : State) : (record p code s).bw = s.bw :=
  (record_keeps p code (K := 262144) rfl (Keeps.refl 262144 s)).frame .bw rfl
@[simp] theorem record_clap (p : Page) (code : Nat) (s : State) : (record p code s).clap = s.clap :=
  (record_keeps p code (K := 524288) rfl (Keeps.refl 524288 s)).frame .clap rfl
@[simp] theorem record_isl (p : Page) (code : Nat) (s : State) : (record p code s).isl = s.isl :=
  (record_keeps p code (K := 1048576) rfl (Keeps.refl 1048576 s)).frame .isl rfl
@[simp] theorem record_pwr (p : Page) (code : Nat) (s : State) : (record p code s).pwr = s.pwr :=
  (record_keeps p code (K := 2097152) rfl (Keeps.refl 2097152 s)).frame .pwr rfl
@[simp] theorem record_boot (p : Page) (code : Nat) (s : State) : (record p code s).boot = s.boot :=
  (record_keeps p code (K := 4194304) rfl (Keeps.refl 4194304 s)).frame .boot rfl
@[simp] theorem record_mal (p : Page) (code : Nat) (s : State) : (record p code s).mal = s.mal :=
  (record_keeps p code (K := 8388608) rfl (Keeps.refl 8388608 s)).frame .mal rfl
@[simp] theorem record_pending (p : Page) (code : Nat) (s : State) : (record p code s).pending = s.pending :=
  (record_keeps p code (K := 0) (Nat.zero_and _) (Keeps.refl 0 s)).queue

/-! recordAt -/

@[simp] theorem recordAt_mem (p : Page) (code : Nat) (addr : Nat) (part : Nat) (s : State) : (recordAt p code addr part s).mem = s.mem :=
  (recordAt_keeps p code addr part (K := 2) rfl (Keeps.refl 2 s)).frame .mem rfl
@[simp] theorem recordAt_links (p : Page) (code : Nat) (addr : Nat) (part : Nat) (s : State) : (recordAt p code addr part s).links = s.links :=
  (recordAt_keeps p code addr part (K := 8) rfl (Keeps.refl 8 s)).frame .links rfl
@[simp] theorem recordAt_cyc (p : Page) (code : Nat) (addr : Nat) (part : Nat) (s : State) : (recordAt p code addr part s).cyc = s.cyc :=
  (recordAt_keeps p code addr part (K := 16) rfl (Keeps.refl 16 s)).frame .cyc rfl
@[simp] theorem recordAt_seq (p : Page) (code : Nat) (addr : Nat) (part : Nat) (s : State) : (recordAt p code addr part s).seq = s.seq :=
  (recordAt_keeps p code addr part (K := 32) rfl (Keeps.refl 32 s)).frame .seq rfl
@[simp] theorem recordAt_dies (p : Page) (code : Nat) (addr : Nat) (part : Nat) (s : State) : (recordAt p code addr part s).dies = s.dies :=
  (recordAt_keeps p code addr part (K := 64) rfl (Keeps.refl 64 s)).frame .dies rfl
@[simp] theorem recordAt_parts (p : Page) (code : Nat) (addr : Nat) (part : Nat) (s : State) : (recordAt p code addr part s).parts = s.parts :=
  (recordAt_keeps p code addr part (K := 128) rfl (Keeps.refl 128 s)).frame .parts rfl
@[simp] theorem recordAt_acct (p : Page) (code : Nat) (addr : Nat) (part : Nat) (s : State) : (recordAt p code addr part s).acct = s.acct :=
  (recordAt_keeps p code addr part (K := 256) rfl (Keeps.refl 256 s)).frame .acct rfl
@[simp] theorem recordAt_tiles (p : Page) (code : Nat) (addr : Nat) (part : Nat) (s : State) : (recordAt p code addr part s).tiles = s.tiles :=
  (recordAt_keeps p code addr part (K := 512) rfl (Keeps.refl 512 s)).frame .tiles rfl
@[simp] theorem recordAt_fus (p : Page) (code : Nat) (addr : Nat) (part : Nat) (s : State) : (recordAt p code addr part s).fus = s.fus :=
  (recordAt_keeps p code addr part (K := 1024) rfl (Keeps.refl 1024 s)).frame .fus rfl
@[simp] theorem recordAt_hld (p : Page) (code : Nat) (addr : Nat) (part : Nat) (s : State) : (recordAt p code addr part s).hld = s.hld :=
  (recordAt_keeps p code addr part (K := 8192) rfl (Keeps.refl 8192 s)).frame .hld rfl
@[simp] theorem recordAt_eth (p : Page) (code : Nat) (addr : Nat) (part : Nat) (s : State) : (recordAt p code addr part s).eth = s.eth :=
  (recordAt_keeps p code addr part (K := 16384) rfl (Keeps.refl 16384 s)).frame .eth rfl
@[simp] theorem recordAt_dlk (p : Page) (code : Nat) (addr : Nat) (part : Nat) (s : State) : (recordAt p code addr part s).dlk = s.dlk :=
  (recordAt_keeps p code addr part (K := 32768) rfl (Keeps.refl 32768 s)).frame .dlk rfl
@[simp] theorem recordAt_ing (p : Page) (code : Nat) (addr : Nat) (part : Nat) (s : State) : (recordAt p code addr part s).ing = s.ing :=
  (recordAt_keeps p code addr part (K := 65536) rfl (Keeps.refl 65536 s)).frame .ing rfl
@[simp] theorem recordAt_lrn (p : Page) (code : Nat) (addr : Nat) (part : Nat) (s : State) : (recordAt p code addr part s).lrn = s.lrn :=
  (recordAt_keeps p code addr part (K := 131072) rfl (Keeps.refl 131072 s)).frame .lrn rfl
@[simp] theorem recordAt_bw (p : Page) (code : Nat) (addr : Nat) (part : Nat) (s : State) : (recordAt p code addr part s).bw = s.bw :=
  (recordAt_keeps p code addr part (K := 262144) rfl (Keeps.refl 262144 s)).frame .bw rfl
@[simp] theorem recordAt_clap (p : Page) (code : Nat) (addr : Nat) (part : Nat) (s : State) : (recordAt p code addr part s).clap = s.clap :=
  (recordAt_keeps p code addr part (K := 524288) rfl (Keeps.refl 524288 s)).frame .clap rfl
@[simp] theorem recordAt_isl (p : Page) (code : Nat) (addr : Nat) (part : Nat) (s : State) : (recordAt p code addr part s).isl = s.isl :=
  (recordAt_keeps p code addr part (K := 1048576) rfl (Keeps.refl 1048576 s)).frame .isl rfl
@[simp] theorem recordAt_pwr (p : Page) (code : Nat) (addr : Nat) (part : Nat) (s : State) : (recordAt p code addr part s).pwr = s.pwr :=
  (recordAt_keeps p code addr part (K := 2097152) rfl (Keeps.refl 2097152 s)).frame .pwr rfl
@[simp] theorem recordAt_boot (p : Page) (code : Nat) (addr : Nat) (part : Nat) (s : State) : (recordAt p code addr part s).boot = s.boot :=
  (recordAt_keeps p code addr part (K := 4194304) rfl (Keeps.refl 4194304 s)).frame .boot rfl
@[simp] theorem recordAt_mal (p : Page) (code : Nat) (addr : Nat) (part : Nat) (s : State) : (recordAt p code addr part s).mal = s.mal :=
  (recordAt_keeps p code addr part (K := 8388608) rfl (Keeps.refl 8388608 s)).frame .mal rfl
@[simp] theorem recordAt_pending (p : Page) (code : Nat) (addr : Nat) (part : Nat) (s : State) : (recordAt p code addr part s).pending = s.pending :=
  (recordAt_keeps p code addr part (K := 0) (Nat.zero_and _) (Keeps.refl 0 s)).queue

/-! recordPart -/

@[simp] theorem recordPart_mem (p : Page) (code : Nat) (part : Nat) (s : State) : (recordPart p code part s).mem = s.mem :=
  (recordPart_keeps p code part (K := 2) rfl (Keeps.refl 2 s)).frame .mem rfl
@[simp] theorem recordPart_links (p : Page) (code : Nat) (part : Nat) (s : State) : (recordPart p code part s).links = s.links :=
  (recordPart_keeps p code part (K := 8) rfl (Keeps.refl 8 s)).frame .links rfl
@[simp] theorem recordPart_cyc (p : Page) (code : Nat) (part : Nat) (s : State) : (recordPart p code part s).cyc = s.cyc :=
  (recordPart_keeps p code part (K := 16) rfl (Keeps.refl 16 s)).frame .cyc rfl
@[simp] theorem recordPart_seq (p : Page) (code : Nat) (part : Nat) (s : State) : (recordPart p code part s).seq = s.seq :=
  (recordPart_keeps p code part (K := 32) rfl (Keeps.refl 32 s)).frame .seq rfl
@[simp] theorem recordPart_dies (p : Page) (code : Nat) (part : Nat) (s : State) : (recordPart p code part s).dies = s.dies :=
  (recordPart_keeps p code part (K := 64) rfl (Keeps.refl 64 s)).frame .dies rfl
@[simp] theorem recordPart_parts (p : Page) (code : Nat) (part : Nat) (s : State) : (recordPart p code part s).parts = s.parts :=
  (recordPart_keeps p code part (K := 128) rfl (Keeps.refl 128 s)).frame .parts rfl
@[simp] theorem recordPart_acct (p : Page) (code : Nat) (part : Nat) (s : State) : (recordPart p code part s).acct = s.acct :=
  (recordPart_keeps p code part (K := 256) rfl (Keeps.refl 256 s)).frame .acct rfl
@[simp] theorem recordPart_tiles (p : Page) (code : Nat) (part : Nat) (s : State) : (recordPart p code part s).tiles = s.tiles :=
  (recordPart_keeps p code part (K := 512) rfl (Keeps.refl 512 s)).frame .tiles rfl
@[simp] theorem recordPart_fus (p : Page) (code : Nat) (part : Nat) (s : State) : (recordPart p code part s).fus = s.fus :=
  (recordPart_keeps p code part (K := 1024) rfl (Keeps.refl 1024 s)).frame .fus rfl
@[simp] theorem recordPart_hld (p : Page) (code : Nat) (part : Nat) (s : State) : (recordPart p code part s).hld = s.hld :=
  (recordPart_keeps p code part (K := 8192) rfl (Keeps.refl 8192 s)).frame .hld rfl
@[simp] theorem recordPart_eth (p : Page) (code : Nat) (part : Nat) (s : State) : (recordPart p code part s).eth = s.eth :=
  (recordPart_keeps p code part (K := 16384) rfl (Keeps.refl 16384 s)).frame .eth rfl
@[simp] theorem recordPart_dlk (p : Page) (code : Nat) (part : Nat) (s : State) : (recordPart p code part s).dlk = s.dlk :=
  (recordPart_keeps p code part (K := 32768) rfl (Keeps.refl 32768 s)).frame .dlk rfl
@[simp] theorem recordPart_ing (p : Page) (code : Nat) (part : Nat) (s : State) : (recordPart p code part s).ing = s.ing :=
  (recordPart_keeps p code part (K := 65536) rfl (Keeps.refl 65536 s)).frame .ing rfl
@[simp] theorem recordPart_lrn (p : Page) (code : Nat) (part : Nat) (s : State) : (recordPart p code part s).lrn = s.lrn :=
  (recordPart_keeps p code part (K := 131072) rfl (Keeps.refl 131072 s)).frame .lrn rfl
@[simp] theorem recordPart_bw (p : Page) (code : Nat) (part : Nat) (s : State) : (recordPart p code part s).bw = s.bw :=
  (recordPart_keeps p code part (K := 262144) rfl (Keeps.refl 262144 s)).frame .bw rfl
@[simp] theorem recordPart_clap (p : Page) (code : Nat) (part : Nat) (s : State) : (recordPart p code part s).clap = s.clap :=
  (recordPart_keeps p code part (K := 524288) rfl (Keeps.refl 524288 s)).frame .clap rfl
@[simp] theorem recordPart_isl (p : Page) (code : Nat) (part : Nat) (s : State) : (recordPart p code part s).isl = s.isl :=
  (recordPart_keeps p code part (K := 1048576) rfl (Keeps.refl 1048576 s)).frame .isl rfl
@[simp] theorem recordPart_pwr (p : Page) (code : Nat) (part : Nat) (s : State) : (recordPart p code part s).pwr = s.pwr :=
  (recordPart_keeps p code part (K := 2097152) rfl (Keeps.refl 2097152 s)).frame .pwr rfl
@[simp] theorem recordPart_boot (p : Page) (code : Nat) (part : Nat) (s : State) : (recordPart p code part s).boot = s.boot :=
  (recordPart_keeps p code part (K := 4194304) rfl (Keeps.refl 4194304 s)).frame .boot rfl
@[simp] theorem recordPart_mal (p : Page) (code : Nat) (part : Nat) (s : State) : (recordPart p code part s).mal = s.mal :=
  (recordPart_keeps p code part (K := 8388608) rfl (Keeps.refl 8388608 s)).frame .mal rfl
@[simp] theorem recordPart_pending (p : Page) (code : Nat) (part : Nat) (s : State) : (recordPart p code part s).pending = s.pending :=
  (recordPart_keeps p code part (K := 0) (Nat.zero_and _) (Keeps.refl 0 s)).queue

/-! recordWarn -/

@[simp] theorem recordWarn_mem (p : Page) (code : Nat) (addr : Nat) (part : Nat) (s : State) : (recordWarn p code addr part s).mem = s.mem :=
  (recordWarn_keeps p code addr part (K := 2) rfl (Keeps.refl 2 s)).frame .mem rfl
@[simp] theorem recordWarn_links (p : Page) (code : Nat) (addr : Nat) (part : Nat) (s : State) : (recordWarn p code addr part s).links = s.links :=
  (recordWarn_keeps p code addr part (K := 8) rfl (Keeps.refl 8 s)).frame .links rfl
@[simp] theorem recordWarn_cyc (p : Page) (code : Nat) (addr : Nat) (part : Nat) (s : State) : (recordWarn p code addr part s).cyc = s.cyc :=
  (recordWarn_keeps p code addr part (K := 16) rfl (Keeps.refl 16 s)).frame .cyc rfl
@[simp] theorem recordWarn_seq (p : Page) (code : Nat) (addr : Nat) (part : Nat) (s : State) : (recordWarn p code addr part s).seq = s.seq :=
  (recordWarn_keeps p code addr part (K := 32) rfl (Keeps.refl 32 s)).frame .seq rfl
@[simp] theorem recordWarn_dies (p : Page) (code : Nat) (addr : Nat) (part : Nat) (s : State) : (recordWarn p code addr part s).dies = s.dies :=
  (recordWarn_keeps p code addr part (K := 64) rfl (Keeps.refl 64 s)).frame .dies rfl
@[simp] theorem recordWarn_parts (p : Page) (code : Nat) (addr : Nat) (part : Nat) (s : State) : (recordWarn p code addr part s).parts = s.parts :=
  (recordWarn_keeps p code addr part (K := 128) rfl (Keeps.refl 128 s)).frame .parts rfl
@[simp] theorem recordWarn_acct (p : Page) (code : Nat) (addr : Nat) (part : Nat) (s : State) : (recordWarn p code addr part s).acct = s.acct :=
  (recordWarn_keeps p code addr part (K := 256) rfl (Keeps.refl 256 s)).frame .acct rfl
@[simp] theorem recordWarn_tiles (p : Page) (code : Nat) (addr : Nat) (part : Nat) (s : State) : (recordWarn p code addr part s).tiles = s.tiles :=
  (recordWarn_keeps p code addr part (K := 512) rfl (Keeps.refl 512 s)).frame .tiles rfl
@[simp] theorem recordWarn_fus (p : Page) (code : Nat) (addr : Nat) (part : Nat) (s : State) : (recordWarn p code addr part s).fus = s.fus :=
  (recordWarn_keeps p code addr part (K := 1024) rfl (Keeps.refl 1024 s)).frame .fus rfl
@[simp] theorem recordWarn_hld (p : Page) (code : Nat) (addr : Nat) (part : Nat) (s : State) : (recordWarn p code addr part s).hld = s.hld :=
  (recordWarn_keeps p code addr part (K := 8192) rfl (Keeps.refl 8192 s)).frame .hld rfl
@[simp] theorem recordWarn_eth (p : Page) (code : Nat) (addr : Nat) (part : Nat) (s : State) : (recordWarn p code addr part s).eth = s.eth :=
  (recordWarn_keeps p code addr part (K := 16384) rfl (Keeps.refl 16384 s)).frame .eth rfl
@[simp] theorem recordWarn_dlk (p : Page) (code : Nat) (addr : Nat) (part : Nat) (s : State) : (recordWarn p code addr part s).dlk = s.dlk :=
  (recordWarn_keeps p code addr part (K := 32768) rfl (Keeps.refl 32768 s)).frame .dlk rfl
@[simp] theorem recordWarn_ing (p : Page) (code : Nat) (addr : Nat) (part : Nat) (s : State) : (recordWarn p code addr part s).ing = s.ing :=
  (recordWarn_keeps p code addr part (K := 65536) rfl (Keeps.refl 65536 s)).frame .ing rfl
@[simp] theorem recordWarn_lrn (p : Page) (code : Nat) (addr : Nat) (part : Nat) (s : State) : (recordWarn p code addr part s).lrn = s.lrn :=
  (recordWarn_keeps p code addr part (K := 131072) rfl (Keeps.refl 131072 s)).frame .lrn rfl
@[simp] theorem recordWarn_bw (p : Page) (code : Nat) (addr : Nat) (part : Nat) (s : State) : (recordWarn p code addr part s).bw = s.bw :=
  (recordWarn_keeps p code addr part (K := 262144) rfl (Keeps.refl 262144 s)).frame .bw rfl
@[simp] theorem recordWarn_clap (p : Page) (code : Nat) (addr : Nat) (part : Nat) (s : State) : (recordWarn p code addr part s).clap = s.clap :=
  (recordWarn_keeps p code addr part (K := 524288) rfl (Keeps.refl 524288 s)).frame .clap rfl
@[simp] theorem recordWarn_isl (p : Page) (code : Nat) (addr : Nat) (part : Nat) (s : State) : (recordWarn p code addr part s).isl = s.isl :=
  (recordWarn_keeps p code addr part (K := 1048576) rfl (Keeps.refl 1048576 s)).frame .isl rfl
@[simp] theorem recordWarn_pwr (p : Page) (code : Nat) (addr : Nat) (part : Nat) (s : State) : (recordWarn p code addr part s).pwr = s.pwr :=
  (recordWarn_keeps p code addr part (K := 2097152) rfl (Keeps.refl 2097152 s)).frame .pwr rfl
@[simp] theorem recordWarn_boot (p : Page) (code : Nat) (addr : Nat) (part : Nat) (s : State) : (recordWarn p code addr part s).boot = s.boot :=
  (recordWarn_keeps p code addr part (K := 4194304) rfl (Keeps.refl 4194304 s)).frame .boot rfl
@[simp] theorem recordWarn_mal (p : Page) (code : Nat) (addr : Nat) (part : Nat) (s : State) : (recordWarn p code addr part s).mal = s.mal :=
  (recordWarn_keeps p code addr part (K := 8388608) rfl (Keeps.refl 8388608 s)).frame .mal rfl
@[simp] theorem recordWarn_pending (p : Page) (code : Nat) (addr : Nat) (part : Nat) (s : State) : (recordWarn p code addr part s).pending = s.pending :=
  (recordWarn_keeps p code addr part (K := 0) (Nat.zero_and _) (Keeps.refl 0 s)).queue

/-! journal -/

@[simp] theorem journal_mem (etype : Nat) (key : Nat) (data : List Byte) (words : List (Nat × Word)) (s : State) : (journal etype key data words s).mem = s.mem :=
  (journal_keeps etype key data words (K := 2) rfl (Keeps.refl 2 s)).frame .mem rfl
@[simp] theorem journal_links (etype : Nat) (key : Nat) (data : List Byte) (words : List (Nat × Word)) (s : State) : (journal etype key data words s).links = s.links :=
  (journal_keeps etype key data words (K := 8) rfl (Keeps.refl 8 s)).frame .links rfl
@[simp] theorem journal_cyc (etype : Nat) (key : Nat) (data : List Byte) (words : List (Nat × Word)) (s : State) : (journal etype key data words s).cyc = s.cyc :=
  (journal_keeps etype key data words (K := 16) rfl (Keeps.refl 16 s)).frame .cyc rfl
@[simp] theorem journal_seq (etype : Nat) (key : Nat) (data : List Byte) (words : List (Nat × Word)) (s : State) : (journal etype key data words s).seq = s.seq :=
  (journal_keeps etype key data words (K := 32) rfl (Keeps.refl 32 s)).frame .seq rfl
@[simp] theorem journal_dies (etype : Nat) (key : Nat) (data : List Byte) (words : List (Nat × Word)) (s : State) : (journal etype key data words s).dies = s.dies :=
  (journal_keeps etype key data words (K := 64) rfl (Keeps.refl 64 s)).frame .dies rfl
@[simp] theorem journal_parts (etype : Nat) (key : Nat) (data : List Byte) (words : List (Nat × Word)) (s : State) : (journal etype key data words s).parts = s.parts :=
  (journal_keeps etype key data words (K := 128) rfl (Keeps.refl 128 s)).frame .parts rfl
@[simp] theorem journal_acct (etype : Nat) (key : Nat) (data : List Byte) (words : List (Nat × Word)) (s : State) : (journal etype key data words s).acct = s.acct :=
  (journal_keeps etype key data words (K := 256) rfl (Keeps.refl 256 s)).frame .acct rfl
@[simp] theorem journal_tiles (etype : Nat) (key : Nat) (data : List Byte) (words : List (Nat × Word)) (s : State) : (journal etype key data words s).tiles = s.tiles :=
  (journal_keeps etype key data words (K := 512) rfl (Keeps.refl 512 s)).frame .tiles rfl
@[simp] theorem journal_fus (etype : Nat) (key : Nat) (data : List Byte) (words : List (Nat × Word)) (s : State) : (journal etype key data words s).fus = s.fus :=
  (journal_keeps etype key data words (K := 1024) rfl (Keeps.refl 1024 s)).frame .fus rfl
@[simp] theorem journal_hld (etype : Nat) (key : Nat) (data : List Byte) (words : List (Nat × Word)) (s : State) : (journal etype key data words s).hld = s.hld :=
  (journal_keeps etype key data words (K := 8192) rfl (Keeps.refl 8192 s)).frame .hld rfl
@[simp] theorem journal_eth (etype : Nat) (key : Nat) (data : List Byte) (words : List (Nat × Word)) (s : State) : (journal etype key data words s).eth = s.eth :=
  (journal_keeps etype key data words (K := 16384) rfl (Keeps.refl 16384 s)).frame .eth rfl
@[simp] theorem journal_dlk (etype : Nat) (key : Nat) (data : List Byte) (words : List (Nat × Word)) (s : State) : (journal etype key data words s).dlk = s.dlk :=
  (journal_keeps etype key data words (K := 32768) rfl (Keeps.refl 32768 s)).frame .dlk rfl
@[simp] theorem journal_ing (etype : Nat) (key : Nat) (data : List Byte) (words : List (Nat × Word)) (s : State) : (journal etype key data words s).ing = s.ing :=
  (journal_keeps etype key data words (K := 65536) rfl (Keeps.refl 65536 s)).frame .ing rfl
@[simp] theorem journal_lrn (etype : Nat) (key : Nat) (data : List Byte) (words : List (Nat × Word)) (s : State) : (journal etype key data words s).lrn = s.lrn :=
  (journal_keeps etype key data words (K := 131072) rfl (Keeps.refl 131072 s)).frame .lrn rfl
@[simp] theorem journal_bw (etype : Nat) (key : Nat) (data : List Byte) (words : List (Nat × Word)) (s : State) : (journal etype key data words s).bw = s.bw :=
  (journal_keeps etype key data words (K := 262144) rfl (Keeps.refl 262144 s)).frame .bw rfl
@[simp] theorem journal_clap (etype : Nat) (key : Nat) (data : List Byte) (words : List (Nat × Word)) (s : State) : (journal etype key data words s).clap = s.clap :=
  (journal_keeps etype key data words (K := 524288) rfl (Keeps.refl 524288 s)).frame .clap rfl
@[simp] theorem journal_isl (etype : Nat) (key : Nat) (data : List Byte) (words : List (Nat × Word)) (s : State) : (journal etype key data words s).isl = s.isl :=
  (journal_keeps etype key data words (K := 1048576) rfl (Keeps.refl 1048576 s)).frame .isl rfl
@[simp] theorem journal_pwr (etype : Nat) (key : Nat) (data : List Byte) (words : List (Nat × Word)) (s : State) : (journal etype key data words s).pwr = s.pwr :=
  (journal_keeps etype key data words (K := 2097152) rfl (Keeps.refl 2097152 s)).frame .pwr rfl
@[simp] theorem journal_boot (etype : Nat) (key : Nat) (data : List Byte) (words : List (Nat × Word)) (s : State) : (journal etype key data words s).boot = s.boot :=
  (journal_keeps etype key data words (K := 4194304) rfl (Keeps.refl 4194304 s)).frame .boot rfl
@[simp] theorem journal_mal (etype : Nat) (key : Nat) (data : List Byte) (words : List (Nat × Word)) (s : State) : (journal etype key data words s).mal = s.mal :=
  (journal_keeps etype key data words (K := 8388608) rfl (Keeps.refl 8388608 s)).frame .mal rfl
@[simp] theorem journal_pending (etype : Nat) (key : Nat) (data : List Byte) (words : List (Nat × Word)) (s : State) : (journal etype key data words s).pending = s.pending :=
  (journal_keeps etype key data words (K := 0) (Nat.zero_and _) (Keeps.refl 0 s)).queue

/-! raiseBit -/

@[simp] theorem raiseBit_mem (p : Page) (b : Nat) (s : State) : (raiseBit p b s).mem = s.mem :=
  (raiseBit_keeps p b (K := 2) rfl (Keeps.refl 2 s)).frame .mem rfl
@[simp] theorem raiseBit_links (p : Page) (b : Nat) (s : State) : (raiseBit p b s).links = s.links :=
  (raiseBit_keeps p b (K := 8) rfl (Keeps.refl 8 s)).frame .links rfl
@[simp] theorem raiseBit_cyc (p : Page) (b : Nat) (s : State) : (raiseBit p b s).cyc = s.cyc :=
  (raiseBit_keeps p b (K := 16) rfl (Keeps.refl 16 s)).frame .cyc rfl
@[simp] theorem raiseBit_seq (p : Page) (b : Nat) (s : State) : (raiseBit p b s).seq = s.seq :=
  (raiseBit_keeps p b (K := 32) rfl (Keeps.refl 32 s)).frame .seq rfl
@[simp] theorem raiseBit_dies (p : Page) (b : Nat) (s : State) : (raiseBit p b s).dies = s.dies :=
  (raiseBit_keeps p b (K := 64) rfl (Keeps.refl 64 s)).frame .dies rfl
@[simp] theorem raiseBit_parts (p : Page) (b : Nat) (s : State) : (raiseBit p b s).parts = s.parts :=
  (raiseBit_keeps p b (K := 128) rfl (Keeps.refl 128 s)).frame .parts rfl
@[simp] theorem raiseBit_acct (p : Page) (b : Nat) (s : State) : (raiseBit p b s).acct = s.acct :=
  (raiseBit_keeps p b (K := 256) rfl (Keeps.refl 256 s)).frame .acct rfl
@[simp] theorem raiseBit_tiles (p : Page) (b : Nat) (s : State) : (raiseBit p b s).tiles = s.tiles :=
  (raiseBit_keeps p b (K := 512) rfl (Keeps.refl 512 s)).frame .tiles rfl
@[simp] theorem raiseBit_fus (p : Page) (b : Nat) (s : State) : (raiseBit p b s).fus = s.fus :=
  (raiseBit_keeps p b (K := 1024) rfl (Keeps.refl 1024 s)).frame .fus rfl
@[simp] theorem raiseBit_mbx (p : Page) (b : Nat) (s : State) : (raiseBit p b s).mbx = s.mbx :=
  (raiseBit_keeps p b (K := 2048) rfl (Keeps.refl 2048 s)).frame .mbx rfl
@[simp] theorem raiseBit_ldg (p : Page) (b : Nat) (s : State) : (raiseBit p b s).ldg = s.ldg :=
  (raiseBit_keeps p b (K := 4096) rfl (Keeps.refl 4096 s)).frame .ldg rfl
@[simp] theorem raiseBit_hld (p : Page) (b : Nat) (s : State) : (raiseBit p b s).hld = s.hld :=
  (raiseBit_keeps p b (K := 8192) rfl (Keeps.refl 8192 s)).frame .hld rfl
@[simp] theorem raiseBit_eth (p : Page) (b : Nat) (s : State) : (raiseBit p b s).eth = s.eth :=
  (raiseBit_keeps p b (K := 16384) rfl (Keeps.refl 16384 s)).frame .eth rfl
@[simp] theorem raiseBit_dlk (p : Page) (b : Nat) (s : State) : (raiseBit p b s).dlk = s.dlk :=
  (raiseBit_keeps p b (K := 32768) rfl (Keeps.refl 32768 s)).frame .dlk rfl
@[simp] theorem raiseBit_ing (p : Page) (b : Nat) (s : State) : (raiseBit p b s).ing = s.ing :=
  (raiseBit_keeps p b (K := 65536) rfl (Keeps.refl 65536 s)).frame .ing rfl
@[simp] theorem raiseBit_lrn (p : Page) (b : Nat) (s : State) : (raiseBit p b s).lrn = s.lrn :=
  (raiseBit_keeps p b (K := 131072) rfl (Keeps.refl 131072 s)).frame .lrn rfl
@[simp] theorem raiseBit_bw (p : Page) (b : Nat) (s : State) : (raiseBit p b s).bw = s.bw :=
  (raiseBit_keeps p b (K := 262144) rfl (Keeps.refl 262144 s)).frame .bw rfl
@[simp] theorem raiseBit_clap (p : Page) (b : Nat) (s : State) : (raiseBit p b s).clap = s.clap :=
  (raiseBit_keeps p b (K := 524288) rfl (Keeps.refl 524288 s)).frame .clap rfl
@[simp] theorem raiseBit_isl (p : Page) (b : Nat) (s : State) : (raiseBit p b s).isl = s.isl :=
  (raiseBit_keeps p b (K := 1048576) rfl (Keeps.refl 1048576 s)).frame .isl rfl
@[simp] theorem raiseBit_pwr (p : Page) (b : Nat) (s : State) : (raiseBit p b s).pwr = s.pwr :=
  (raiseBit_keeps p b (K := 2097152) rfl (Keeps.refl 2097152 s)).frame .pwr rfl
@[simp] theorem raiseBit_boot (p : Page) (b : Nat) (s : State) : (raiseBit p b s).boot = s.boot :=
  (raiseBit_keeps p b (K := 4194304) rfl (Keeps.refl 4194304 s)).frame .boot rfl
@[simp] theorem raiseBit_mal (p : Page) (b : Nat) (s : State) : (raiseBit p b s).mal = s.mal :=
  (raiseBit_keeps p b (K := 8388608) rfl (Keeps.refl 8388608 s)).frame .mal rfl
@[simp] theorem raiseBit_pending (p : Page) (b : Nat) (s : State) : (raiseBit p b s).pending = s.pending :=
  (raiseBit_keeps p b (K := 0) (Nat.zero_and _) (Keeps.refl 0 s)).queue

/-! memWrite -/

@[simp] theorem memWrite_regs (a : Nat) (a1 : List Byte) (s : State) : (memWrite a a1 s).regs = s.regs :=
  (memWrite_keeps a a1 (K := 1) rfl (Keeps.refl 1 s)).frame .regs rfl
@[simp] theorem memWrite_io (a : Nat) (a1 : List Byte) (s : State) : (memWrite a a1 s).io = s.io :=
  (memWrite_keeps a a1 (K := 4) rfl (Keeps.refl 4 s)).frame .io rfl
@[simp] theorem memWrite_links (a : Nat) (a1 : List Byte) (s : State) : (memWrite a a1 s).links = s.links :=
  (memWrite_keeps a a1 (K := 8) rfl (Keeps.refl 8 s)).frame .links rfl
@[simp] theorem memWrite_cyc (a : Nat) (a1 : List Byte) (s : State) : (memWrite a a1 s).cyc = s.cyc :=
  (memWrite_keeps a a1 (K := 16) rfl (Keeps.refl 16 s)).frame .cyc rfl
@[simp] theorem memWrite_seq (a : Nat) (a1 : List Byte) (s : State) : (memWrite a a1 s).seq = s.seq :=
  (memWrite_keeps a a1 (K := 32) rfl (Keeps.refl 32 s)).frame .seq rfl
@[simp] theorem memWrite_dies (a : Nat) (a1 : List Byte) (s : State) : (memWrite a a1 s).dies = s.dies :=
  (memWrite_keeps a a1 (K := 64) rfl (Keeps.refl 64 s)).frame .dies rfl
@[simp] theorem memWrite_parts (a : Nat) (a1 : List Byte) (s : State) : (memWrite a a1 s).parts = s.parts :=
  (memWrite_keeps a a1 (K := 128) rfl (Keeps.refl 128 s)).frame .parts rfl
@[simp] theorem memWrite_acct (a : Nat) (a1 : List Byte) (s : State) : (memWrite a a1 s).acct = s.acct :=
  (memWrite_keeps a a1 (K := 256) rfl (Keeps.refl 256 s)).frame .acct rfl
@[simp] theorem memWrite_tiles (a : Nat) (a1 : List Byte) (s : State) : (memWrite a a1 s).tiles = s.tiles :=
  (memWrite_keeps a a1 (K := 512) rfl (Keeps.refl 512 s)).frame .tiles rfl
@[simp] theorem memWrite_fus (a : Nat) (a1 : List Byte) (s : State) : (memWrite a a1 s).fus = s.fus :=
  (memWrite_keeps a a1 (K := 1024) rfl (Keeps.refl 1024 s)).frame .fus rfl
@[simp] theorem memWrite_mbx (a : Nat) (a1 : List Byte) (s : State) : (memWrite a a1 s).mbx = s.mbx :=
  (memWrite_keeps a a1 (K := 2048) rfl (Keeps.refl 2048 s)).frame .mbx rfl
@[simp] theorem memWrite_ldg (a : Nat) (a1 : List Byte) (s : State) : (memWrite a a1 s).ldg = s.ldg :=
  (memWrite_keeps a a1 (K := 4096) rfl (Keeps.refl 4096 s)).frame .ldg rfl
@[simp] theorem memWrite_hld (a : Nat) (a1 : List Byte) (s : State) : (memWrite a a1 s).hld = s.hld :=
  (memWrite_keeps a a1 (K := 8192) rfl (Keeps.refl 8192 s)).frame .hld rfl
@[simp] theorem memWrite_eth (a : Nat) (a1 : List Byte) (s : State) : (memWrite a a1 s).eth = s.eth :=
  (memWrite_keeps a a1 (K := 16384) rfl (Keeps.refl 16384 s)).frame .eth rfl
@[simp] theorem memWrite_dlk (a : Nat) (a1 : List Byte) (s : State) : (memWrite a a1 s).dlk = s.dlk :=
  (memWrite_keeps a a1 (K := 32768) rfl (Keeps.refl 32768 s)).frame .dlk rfl
@[simp] theorem memWrite_ing (a : Nat) (a1 : List Byte) (s : State) : (memWrite a a1 s).ing = s.ing :=
  (memWrite_keeps a a1 (K := 65536) rfl (Keeps.refl 65536 s)).frame .ing rfl
@[simp] theorem memWrite_lrn (a : Nat) (a1 : List Byte) (s : State) : (memWrite a a1 s).lrn = s.lrn :=
  (memWrite_keeps a a1 (K := 131072) rfl (Keeps.refl 131072 s)).frame .lrn rfl
@[simp] theorem memWrite_bw (a : Nat) (a1 : List Byte) (s : State) : (memWrite a a1 s).bw = s.bw :=
  (memWrite_keeps a a1 (K := 262144) rfl (Keeps.refl 262144 s)).frame .bw rfl
@[simp] theorem memWrite_clap (a : Nat) (a1 : List Byte) (s : State) : (memWrite a a1 s).clap = s.clap :=
  (memWrite_keeps a a1 (K := 524288) rfl (Keeps.refl 524288 s)).frame .clap rfl
@[simp] theorem memWrite_isl (a : Nat) (a1 : List Byte) (s : State) : (memWrite a a1 s).isl = s.isl :=
  (memWrite_keeps a a1 (K := 1048576) rfl (Keeps.refl 1048576 s)).frame .isl rfl
@[simp] theorem memWrite_pwr (a : Nat) (a1 : List Byte) (s : State) : (memWrite a a1 s).pwr = s.pwr :=
  (memWrite_keeps a a1 (K := 2097152) rfl (Keeps.refl 2097152 s)).frame .pwr rfl
@[simp] theorem memWrite_boot (a : Nat) (a1 : List Byte) (s : State) : (memWrite a a1 s).boot = s.boot :=
  (memWrite_keeps a a1 (K := 4194304) rfl (Keeps.refl 4194304 s)).frame .boot rfl
@[simp] theorem memWrite_mal (a : Nat) (a1 : List Byte) (s : State) : (memWrite a a1 s).mal = s.mal :=
  (memWrite_keeps a a1 (K := 8388608) rfl (Keeps.refl 8388608 s)).frame .mal rfl
@[simp] theorem memWrite_pending (a : Nat) (a1 : List Byte) (s : State) : (memWrite a a1 s).pending = s.pending :=
  (memWrite_keeps a a1 (K := 0) (Nat.zero_and _) (Keeps.refl 0 s)).queue
@[simp] theorem getF_memWrite (a : Nat) (a1 : List Byte) (s : State) (p_ : Page) (r_ : Row) : getF (memWrite a a1 s) p_ r_ = getF s p_ r_ := by
  simp [getF, getFi, getFij, regW]
@[simp] theorem getFi_memWrite (a : Nat) (a1 : List Byte) (s : State) (p_ : Page) (r_ : Row) (i_ : Nat) : getFi (memWrite a a1 s) p_ r_ i_ = getFi s p_ r_ i_ := by
  simp [getF, getFi, getFij, regW]

end Sys2Proof.Machine
end

