-- ==== Sys2Proof/Laws/Runs.lean ====
section
/-! SUPPORT. How runs evolve: an operation on runs leaves a run's stroke, bar and word alone, and moves it to done or leaves its phase. -/

namespace Sys2Proof.Machine

open Sys2Proof

/-- Run `y` is run `x` as it stands later. -/
def Later (x y : StrokeRun) : Prop := y.idx = x.idx ∧ y.bar = x.bar ∧ y.raw = x.raw ∧ (y.phase = x.phase ∨ y.phase = .done)

theorem Later.refl (x : StrokeRun) : Later x x := ⟨rfl, rfl, rfl, .inl rfl⟩

theorem Later.trans {x y z : StrokeRun} (h : Later x y) (k : Later y z) : Later x z :=
  ⟨k.1.trans h.1, k.2.1.trans h.2.1, k.2.2.1.trans h.2.2.1, by
    rcases k.2.2.2 with e | e
    · rw [e]; exact h.2.2.2
    · exact .inr e⟩

/-- The runs of `t` are those of `s`, later, and the same strokes are due. -/
structure Evolves (s t : State) : Prop where
  runs : List.Forall₂ Later s.seq.runs t.seq.runs
  due : t.seq.due = s.seq.due

theorem forall2_refl : ∀ l : List StrokeRun, List.Forall₂ Later l l
  | [] => .nil
  | x :: r => .cons (Later.refl x) (forall2_refl r)

theorem Evolves.refl (s : State) : Evolves s s := ⟨forall2_refl _, rfl⟩

theorem forall2_trans : ∀ {l m n : List StrokeRun}, List.Forall₂ Later l m → List.Forall₂ Later m n → List.Forall₂ Later l n
  | _, _, _, .nil, .nil => .nil
  | _, _, _, .cons h k, .cons h' k' => .cons (h.trans h') (forall2_trans k k')

theorem Evolves.trans {r s t : State} (h : Evolves r s) (k : Evolves s t) : Evolves r t :=
  ⟨forall2_trans h.runs k.runs, k.due.trans h.due⟩

theorem evolves_seq {r s t : State} (e : t.seq = s.seq) (h : Evolves r s) : Evolves r t := ⟨by rw [e]; exact h.runs, by rw [e]; exact h.due⟩

theorem evolves_keeps {r s t : State} (k : Keeps 32 s t) (h : Evolves r s) : Evolves r t := evolves_seq (k.frame .seq rfl) h

theorem forall2_map (f : StrokeRun → StrokeRun) (h : ∀ x, Later x (f x)) : ∀ l : List StrokeRun, List.Forall₂ Later l (l.map f)
  | [] => .nil
  | x :: r => .cons (h x) (forall2_map f h r)

theorem evolves_modRun {r s : State} (i b : Nat) (f : StrokeRun → StrokeRun) (hf : ∀ x, Later x (f x)) (h : Evolves r s) :
    Evolves r (modRun i b f s) :=
  h.trans ⟨forall2_map _ (fun x => by split; exact hf x; exact Later.refl x) _, rfl⟩

theorem evolves_foldl {α : Type} {f : State → α → State} {r : State} (hf : ∀ s x, Evolves r s → Evolves r (f s x)) :
    ∀ (l : List α) (s : State), Evolves r s → Evolves r (l.foldl f s)
  | [], _, h => h
  | a :: l, s, h => evolves_foldl hf l (f s a) (hf s a h)

/-- Every run of `s` has `Q`. -/
def AllRuns (Q : StrokeRun → Prop) (s : State) : Prop := ∀ x ∈ s.seq.runs, Q x

/-- What a run has it has later. -/
def Stable (Q : StrokeRun → Prop) : Prop := ∀ x y, Later x y → Q x → Q y

theorem allRuns_evolves {Q : StrokeRun → Prop} (hq : Stable Q) {s t : State} (e : Evolves s t) (h : AllRuns Q s) : AllRuns Q t := by
  have : ∀ l m : List StrokeRun, List.Forall₂ Later l m → (∀ x ∈ l, Q x) → ∀ y ∈ m, Q y := by
    intro l m f
    induction f with
    | nil => intro _ y hy; cases hy
    | cons a _ ih =>
      intro k y hy
      rcases List.mem_cons.1 hy with rfl | hy
      · exact hq _ _ a (k _ List.mem_cons_self)
      · exact ih (fun x hx => k x (List.mem_cons_of_mem _ hx)) y hy
  exact this _ _ e.runs h

theorem allRuns_seq {Q : StrokeRun → Prop} {s t : State} (e : t.seq = s.seq) (h : AllRuns Q s) : AllRuns Q t := by
  unfold AllRuns; rw [e]; exact h

theorem allRuns_keeps {Q : StrokeRun → Prop} {s t : State} (k : Keeps 32 s t) (h : AllRuns Q s) : AllRuns Q t :=
  allRuns_seq (k.frame .seq rfl) h

theorem allRuns_unhold {Q : StrokeRun → Prop} {s : State} (p : Nat) (h : AllRuns Q s) : AllRuns Q (unhold p s) :=
  fun x hx => h x (List.mem_filter.1 hx).1

theorem allRuns_foldl {α : Type} {Q : StrokeRun → Prop} {f : State → α → State} (hf : ∀ s x, AllRuns Q s → AllRuns Q (f s x)) :
    ∀ (l : List α) (s : State), AllRuns Q s → AllRuns Q (l.foldl f s)
  | [], _, h => h
  | a :: l, s, h => allRuns_foldl hf l (f s a) (hf s a h)

/-! ### The operations on runs -/

theorem voidFrom_evolves (p i : Nat) (s : State) : Evolves s (voidFrom p i s) := by
  unfold voidFrom
  split
  · exact Evolves.refl s
  · exact ⟨forall2_refl _, rfl⟩

theorem failRun_evolves (i b : Nat) (s : State) : Evolves s (failRun i b s) :=
  evolves_modRun _ _ _ (fun _ => ⟨rfl, rfl, rfl, .inl rfl⟩) (Evolves.refl s)

theorem completeRun_evolves (r : StrokeRun) (s : State) : Evolves s (completeRun r s) := by
  unfold completeRun
  dsimp only
  have a : ∀ c : Bool, Evolves s (if c = true then countMiss r s else s) := by
    intro c
    split
    · exact evolves_keeps (countMiss_keeps r (by decide) (Keeps.refl 32 s)) (Evolves.refl s)
    · exact Evolves.refl s
  have b := fun c f (hf : ∀ x, Later x (f x)) => evolves_modRun r.idx r.bar f hf (a c)
  split
  · refine Evolves.trans ?_ (voidFrom_evolves _ _ _)
    exact b _ _ (fun _ => ⟨rfl, rfl, rfl, .inr rfl⟩)
  · exact b _ _ (fun _ => ⟨rfl, rfl, rfl, .inr rfl⟩)

theorem finish_evolves (i b : Nat) (s : State) : Evolves s (finish i b s) := by
  unfold finish
  split
  · exact evolves_keeps (releaseCtxs_keeps _ _ (by decide) (Keeps.refl 32 _)) (completeRun_evolves _ s)
  · exact Evolves.refl s

theorem settle_evolves (d k i b : Nat) (s : State) : Evolves s (settle d k i b s) := by
  unfold settle
  split
  · exact Evolves.refl s
  · split
    · have a := evolves_modRun i b (fun x => { x with targets := x.targets.filter (fun t => t ≠ (d, k)) }) (fun _ => ⟨rfl, rfl, rfl, .inl rfl⟩) (Evolves.refl s)
      dsimp only
      split
      · split
        · exact evolves_keeps (enterBrush_keeps _ _ _ (by decide) (chargeEngine_keeps _ _ _ (by decide) (Keeps.refl 32 _))) a
        · exact evolves_keeps (showState_keeps _ _ (by decide) (chargeEngine_keeps _ _ _ (by decide) (Keeps.refl 32 _))) a
      · exact a
    · exact Evolves.refl s

theorem killOn_evolves (d k i b st : Nat) (s : State) : Evolves s (killOn d k i b st s) := by
  unfold killOn
  dsimp only
  refine evolves_keeps (showDispatch_keeps _ (by decide) (Keeps.refl 32 _)) (Evolves.trans ?_ (settle_evolves _ _ _ _ _))
  refine evolves_keeps (modCtx_keeps _ _ _ _ (by decide) (Keeps.refl 32 _)) ?_
  have f1 : ∀ (c : Bool) (s : State), Evolves s (if c = true then abandonSpectral d s else s) := by
    intro c s
    split
    · exact evolves_keeps (abandonSpectral_keeps _ (by decide) (Keeps.refl 32 _)) (Evolves.refl s)
    · exact Evolves.refl s
  have f2 : ∀ (l : List Work) (s t : State), Evolves s t → Evolves s (l.foldl (fun s w => tearApply d w s) t) := fun l s t h =>
    evolves_foldl (fun u x h => evolves_keeps (tearApply_keeps _ _ (by decide) (Keeps.refl 32 _)) h) l t h
  have f3 : ∀ (l : List Work) (s t : State), Evolves s t → Evolves s (l.foldl (fun s w => postDiscard d k st w s) t) := fun l s t h =>
    evolves_foldl (fun u x h => evolves_keeps (postDiscard_keeps _ _ _ _ (by decide) (Keeps.refl 32 _)) h) l t h
  split
  · exact evolves_keeps (modEng_keeps _ _ _ (by decide) (Keeps.refl 32 _)) (f3 _ _ _ (f2 _ _ _ (f1 _ s)))
  · exact f3 _ _ _ (f2 _ _ _ (f1 _ s))

theorem killRun_evolves (r : StrokeRun) (st : Nat) (s : State) : Evolves s (killRun r st s) :=
  evolves_foldl (fun _ _ h => h.trans (killOn_evolves _ _ _ _ _ _)) _ _ (Evolves.refl s)

theorem allRuns_windowFault {Q : StrokeRun → Prop} (hq : Stable Q) (p a : Nat) {s : State} (h : AllRuns Q s) : AllRuns Q (windowFault p a s) := by
  have g : ∀ {t : State}, AllRuns Q t → AllRuns Q (partitionFault p 1 t) := by
    intro t h
    unfold partitionFault
    dsimp only
    split
    · exact h
    · split
      · exact h
      · refine allRuns_keeps (recordPart_keeps _ _ _ (by decide) (clearTags_keeps _ (by decide) (Keeps.refl 32 _))) (allRuns_unhold _ ?_)
        have f : ∀ (l : List StrokeRun) (t : State), AllRuns Q t → AllRuns Q (l.foldl (fun s r => killRun r 1 (failRun r.idx r.bar s)) t) := fun l t h =>
          allRuns_foldl (fun u x h => allRuns_evolves hq ((failRun_evolves _ _ u).trans (killRun_evolves _ _ _)) h) l t h
        have h' := fun l => f l _ (allRuns_seq (s := t) (t := { setFi pgPrt Reg.PRT_STAT_CAUSE p 1 (setFi pgPrt Reg.PRT_STAT_STATE p 2 (modCharge p (fun c => { c with resets := satAdd 32 c.resets 1 })
          (bumpI pgPrt Reg.PRT_STAT_RESETS p 1 t))) with parts := (setFi pgPrt Reg.PRT_STAT_CAUSE p 1 (setFi pgPrt Reg.PRT_STAT_STATE p 2 (modCharge p (fun c => { c with resets := satAdd 32 c.resets 1 })
          (bumpI pgPrt Reg.PRT_STAT_RESETS p 1 t)))).parts.modify p (fun x => { x with since := 0 }) }) rfl h)
        split
        · split
          · split
            · exact allRuns_evolves hq ((failRun_evolves _ _ _).trans (completeRun_evolves _ _)) (allRuns_seq rfl (h' _))
            · exact allRuns_seq rfl (h' _)
          · exact h' _
        · exact h' _
  exact g (allRuns_keeps (recordAt_keeps _ _ _ _ (by decide) (Keeps.refl 32 _)) h)

theorem allRuns_startJob {Q : StrokeRun → Prop} (hq : Stable Q) (r : StrokeRun) {s : State} (h : AllRuns Q s) : AllRuns Q (startJob r s) := by
  unfold startJob
  dsimp only
  split
  · refine allRuns_evolves hq ((failRun_evolves _ _ _).trans (finish_evolves _ _ _)) ?_
    split
    · exact allRuns_windowFault hq _ _ h
    · exact allRuns_keeps (recordAt_keeps _ _ _ _ (by decide) (Keeps.refl 32 _)) h
  · have c := fun m p a l => allRuns_keeps (chargeMem_keeps m p a l (by decide) (Keeps.refl 32 s)) h
    split
    · exact allRuns_evolves hq ((failRun_evolves _ _ _).trans (finish_evolves _ _ _)) (allRuns_keeps (recordPart_keeps _ _ _ (by decide) (Keeps.refl 32 _)) (c _ _ _ _))
    · have e : ∀ x y z, (fixInstant x z).seq = z.seq ∧ ({ (fixInstant x z) with fus := y } : State).seq = z.seq := by
        intro x y z; constructor <;> (unfold fixInstant; split <;> rfl)
      split
      · exact allRuns_seq ((setF_seq _ _ _ _).trans ((setF_seq _ _ _ _).trans (e _ _ _).2)) (c _ _ _ _)
      · exact allRuns_seq (e _ _ _).2 (c _ _ _ _)

theorem allRuns_tryFuse {Q : StrokeRun → Prop} (hq : Stable Q) : ∀ (n : Nat) (s : State), AllRuns Q s → AllRuns Q (tryFuse n s)
  | 0, _, h => h
  | n + 1, s, h => by
    unfold tryFuse
    split
    · exact h
    · split
      · refine allRuns_tryFuse hq n _ (allRuns_evolves hq (Evolves.trans ?_ (finish_evolves _ _ _)) h)
        exact evolves_modRun _ _ _ (fun _ => ⟨rfl, rfl, rfl, .inl rfl⟩) (Evolves.refl s)
      · split
        · exact allRuns_tryFuse hq n _ (allRuns_startJob hq _ h)
        · exact h

theorem closeHalves_evolves (r : StrokeRun) (s : State) : Evolves s (closeHalves r s) := by
  unfold closeHalves
  split
  · exact Evolves.refl s
  · have g : ∀ i b p t, Evolves t (pairFailed i b p t) := fun i b p t => ⟨(failRun_evolves i b t).runs, rfl⟩
    refine Evolves.trans ?_ (g _ _ _ _)
    exact evolves_modRun _ _ _ (fun _ => ⟨rfl, rfl, rfl, .inl rfl⟩) (Evolves.refl s)

theorem allRuns_writeBuffer {Q : StrokeRun → Prop} (hq : Stable Q) (sp : Bool) (c : StrokeRun) {s : State} (h : AllRuns Q s) : AllRuns Q (writeBuffer sp c s) := by
  unfold writeBuffer
  dsimp only
  split
  · exact allRuns_keeps (storeDev_keeps _ _ _ (by decide) (chargeMem_keeps _ _ _ _ (by decide) (Keeps.refl 32 _))) h
  · refine allRuns_evolves hq (failRun_evolves _ _ _) ?_
    split
    · exact allRuns_windowFault hq _ _ h
    · exact allRuns_keeps (recordAt_keeps _ _ _ _ (by decide) (Keeps.refl 32 _)) h

/-! ### A run that has ended -/

/-- A run that is this stroke's of this bar is done. -/
def Ended (i b : Nat) (x : StrokeRun) : Prop := x.idx = i → x.bar = b → x.phase = .done

theorem ended_stable (i b : Nat) : Stable (Ended i b) := by
  intro x y h k hi hb
  have e := k (h.1.symm.trans hi) (h.2.1.symm.trans hb)
  rcases h.2.2.2 with p | p
  · exact p.trans e
  · exact p

/-- `finish` ends the run. -/
theorem finish_ended (i b : Nat) (s : State) : AllRuns (Ended i b) (finish i b s) := by
  unfold finish
  split
  · rename_i r hr
    have hr' : r.idx = i ∧ r.bar = b := by simpa using List.find?_some hr
    refine allRuns_keeps (releaseCtxs_keeps _ _ (by decide) (Keeps.refl 32 _)) ?_
    unfold completeRun
    dsimp only
    have a : ∀ (f : StrokeRun → StrokeRun) (t : State), (∀ x, (f x).phase = .done) → AllRuns (Ended i b) (modRun r.idx r.bar f t) := by
      intro f t hf x hx hi hb
      obtain ⟨y, _, rfl⟩ := List.mem_map.1 hx
      by_cases c : y.idx = r.idx ∧ y.bar = r.bar
      · rw [if_pos c]; exact hf y
      · rw [if_neg c] at hi hb
        exact absurd ⟨hi.trans hr'.1.symm, hb.trans hr'.2.symm⟩ c
    split
    · exact allRuns_evolves (ended_stable i b) (voidFrom_evolves _ _ _) (a _ _ (fun _ => rfl))
    · exact a _ _ (fun _ => rfl)
  · rename_i h
    intro x hx hi hb
    have := List.find?_eq_none.1 h x hx
    simp [hi, hb] at this

end Sys2Proof.Machine
end

