-- ==== Sys2Proof/Laws/EngineQueues.lean ====
section
/-! SUPPORT. The queues of the engines: which operations leave the work of an engine alone. -/

namespace Sys2Proof.Machine

open Sys2Proof

/-- The work of slot `e` of CD_d is in `t` what it was in `s`, and so is the number of dies and of the die's slots. -/
structure SameQ (d e : Nat) (s t : State) : Prop where
  queue : (engOf t d e).queue = (engOf s d e).queue
  dies : t.dies.length = s.dies.length
  slots : (dieOf t d).engs.length = (dieOf s d).engs.length

theorem SameQ.refl (d e : Nat) (s : State) : SameQ d e s s := ⟨rfl, rfl, rfl⟩

theorem SameQ.trans {d e : Nat} {r s t : State} (h : SameQ d e r s) (k : SameQ d e s t) : SameQ d e r t :=
  ⟨k.queue.trans h.queue, k.dies.trans h.dies, k.slots.trans h.slots⟩

theorem sameQ_dies {d e : Nat} {r s t : State} (h : t.dies = s.dies) (k : SameQ d e r s) : SameQ d e r t := by
  refine k.trans ⟨?_, by rw [h], ?_⟩
  · unfold engOf dieOf; rw [h]
  · unfold dieOf; rw [h]

theorem sameQ_keeps {d e : Nat} {r s t : State} (h : Keeps 64 s t) (k : SameQ d e r s) : SameQ d e r t := sameQ_dies (h.frame .dies rfl) k

theorem dieOf_modDie_engs {d n : Nat} (f : Die → Die) (hf : ∀ x, (f x).engs = x.engs) (s : State) : (dieOf (modDie n f s) d).engs = (dieOf s d).engs := by
  unfold dieOf modDie
  dsimp only
  rw [List.getD_eq_getElem?_getD, List.getD_eq_getElem?_getD, List.getElem?_modify]
  by_cases h : n = d
  · subst h
    cases hx : s.dies[n]? <;> simp [hf]
  · simp [h]

theorem sameQ_modDie {d e : Nat} {r s : State} (n : Nat) (f : Die → Die) (hf : ∀ x, (f x).engs = x.engs) (k : SameQ d e r s) :
    SameQ d e r (modDie n f s) := by
  refine k.trans ⟨?_, by simp [modDie], by rw [dieOf_modDie_engs f hf]⟩
  unfold engOf
  rw [dieOf_modDie_engs f hf]

theorem engOf_modEng_ne {d e n m : Nat} (h : ¬ (n = d ∧ m = e)) (f : Eng → Eng) (s : State) : engOf (modEng n m f s) d e = engOf s d e := by
  unfold engOf dieOf modEng modDie
  dsimp only
  by_cases a : n = d
  · have b : m ≠ e := fun b => h ⟨a, b⟩
    subst a
    cases hx : s.dies[n]? <;> simp [List.getD_eq_getElem?_getD, hx, b]
  · simp [List.getD_eq_getElem?_getD, List.getElem?_modify, a]

theorem engOf_modEng {d e : Nat} {s : State} (h : d < s.dies.length) (k : e < (dieOf s d).engs.length) (f : Eng → Eng) :
    engOf (modEng d e f s) d e = f (engOf s d e) := by
  unfold engOf dieOf modEng modDie at *
  dsimp only
  rw [List.getD_eq_getElem?_getD] at k ⊢
  simp only [List.getElem?_eq_getElem h, Option.getD_some, List.getD_eq_getElem?_getD, List.getElem?_modify] at k ⊢
  simp [k, List.getElem?_modify]

theorem modEng_slots (d n m : Nat) (f : Eng → Eng) (s : State) :
    (modEng n m f s).dies.length = s.dies.length ∧ (dieOf (modEng n m f s) d).engs.length = (dieOf s d).engs.length := by
  refine ⟨by simp [modEng, modDie], ?_⟩
  unfold dieOf modEng modDie
  dsimp only
  rw [List.getD_eq_getElem?_getD, List.getD_eq_getElem?_getD, List.getElem?_modify]
  by_cases h : n = d
  · subst h
    cases hx : s.dies[n]? <;> simp
  · simp [h]

theorem sameQ_modEng {d e : Nat} {r s : State} (n m : Nat) (f : Eng → Eng) (hf : ∀ g, (f g).queue = g.queue) (k : SameQ d e r s) :
    SameQ d e r (modEng n m f s) := by
  refine k.trans ⟨?_, (modEng_slots d n m f s).1, (modEng_slots d n m f s).2⟩
  by_cases h : n = d ∧ m = e
  · obtain ⟨rfl, rfl⟩ := h
    unfold engOf dieOf modEng modDie
    dsimp only
    cases hx : s.dies[n]? with
    | none => simp [List.getD_eq_getElem?_getD, hx, List.getElem?_modify]
    | some x =>
      cases hy : x.engs[m]? <;> simp [List.getD_eq_getElem?_getD, hx, List.getElem?_modify, hy, hf]
  · rw [engOf_modEng_ne h]

theorem sameQ_modRun {d e : Nat} (i b : Nat) (f : StrokeRun → StrokeRun) (s : State) : SameQ d e s (modRun i b f s) := ⟨rfl, rfl, rfl⟩

theorem chargeEngine_sameQ (d e n m p : Nat) (s : State) : SameQ d e s (chargeEngine n m p s) := by
  unfold chargeEngine
  refine SameQ.trans (s := modCharge p (fun c => { c with eng := satAdd 64 c.eng (s.io.now - (engOf s n m).since) }) s) ⟨rfl, rfl, rfl⟩ ?_
  exact sameQ_modEng _ _ _ (fun _ => rfl) (SameQ.refl d e _)

theorem sameQ_foldl {α : Type} {d e : Nat} {f : State → α → State} (hf : ∀ s x, SameQ d e s (f s x)) :
    ∀ (l : List α) (s : State), SameQ d e s (l.foldl f s)
  | [], s => SameQ.refl d e s
  | a :: l, s => (hf s a).trans (sameQ_foldl hf l (f s a))

theorem showState_sameQ (d e n m : Nat) (s : State) : SameQ d e s (showState n m s) :=
  sameQ_keeps (showState_keeps _ _ (by decide) (Keeps.refl 64 s)) (SameQ.refl d e s)

theorem leaveBrush_sameQ (d e n m : Nat) (s : State) : SameQ d e s (leaveBrush n m s) := by
  unfold leaveBrush
  split
  · refine SameQ.trans ?_ (sameQ_modEng _ _ _ (fun _ => rfl) (SameQ.refl d e _))
    refine SameQ.trans ?_ (sameQ_dies (setFi_dies _ _ _ _ _) (SameQ.refl d e _))
    exact ⟨rfl, rfl, rfl⟩
  · exact SameQ.refl d e s

theorem enterBrush_sameQ (d e n m p : Nat) (s : State) : SameQ d e s (enterBrush n m p s) := by
  unfold enterBrush
  extract_lets s1
  have a : SameQ d e s s1 := by
    unfold s1
    split
    · split
      · exact leaveBrush_sameQ _ _ _ _ _
      · exact SameQ.refl d e s
    · exact SameQ.refl d e s
  split
  · refine a.trans (SameQ.trans ?_ (showState_sameQ _ _ _ _ _))
    refine sameQ_modEng _ _ _ ?_ (SameQ.refl d e _)
    exact fun _ => rfl
  · exact a

theorem settle_sameQ (d e n k i b : Nat) (s : State) : SameQ d e s (settle n k i b s) := by
  unfold settle
  split
  · exact SameQ.refl d e s
  · split
    · dsimp only
      split
      · split
        · exact ((sameQ_modRun _ _ _ s).trans (chargeEngine_sameQ _ _ _ _ _ _)).trans (enterBrush_sameQ _ _ _ _ _ _)
        · exact ((sameQ_modRun _ _ _ s).trans (chargeEngine_sameQ _ _ _ _ _ _)).trans (showState_sameQ _ _ _ _ _)
      · exact sameQ_modRun _ _ _ s
    · exact SameQ.refl d e s

theorem postDiscard_sameQ (d e n k st : Nat) (w : Work) (s : State) : SameQ d e s (postDiscard n k st w s) := by
  unfold postDiscard
  split
  · exact sameQ_modDie _ _ (fun _ => rfl) (SameQ.refl d e s)
  · exact SameQ.refl d e s

theorem failDesc_sameQ (d e n k : Nat) (w : Work) (s : State) : SameQ d e s (failDesc n k w s) := by
  unfold failDesc
  dsimp only
  refine sameQ_keeps (showDispatch_keeps _ (by decide) (Keeps.refl 64 _)) (SameQ.trans ?_ (settle_sameQ _ _ _ _ _ _ _))
  refine SameQ.trans ?_ (sameQ_modRun _ _ _ _)
  exact sameQ_keeps (tearApply_keeps _ _ (by decide) (Keeps.refl 64 _)) (postDiscard_sameQ _ _ _ _ _ _ _)

/-- The first work of an engine leaves it. -/
theorem popQueue_queue {d e : Nat} {s : State} (h : d < s.dies.length) (k : e < (dieOf s d).engs.length) :
    (engOf (popQueue d e s) d e).queue = (engOf s d e).queue.drop 1 := by
  unfold popQueue
  refine (showState_sameQ d e d e _).queue.trans ?_
  rw [engOf_modEng h k]

theorem raiseBit_sameQ (d e : Nat) (p : Page) (b : Nat) (s : State) : SameQ d e s (raiseBit p b s) :=
  sameQ_keeps (raiseBit_keeps _ _ (by decide) (Keeps.refl 64 s)) (SameQ.refl d e s)

/-- A descriptor that completes leaves its engine. -/
theorem completeDesc_queue {w : Who} {s : State} (h : w.d < s.dies.length) (k : w.e < (dieOf s w.d).engs.length) (j : Nat) (x : Work) (c : Nat) :
    (engOf (completeDesc w j x c s) w.d w.e).queue = (engOf s w.d w.e).queue.drop 1 := by
  unfold completeDesc
  extract_lets o accs alarm len sig s1 s2 posts s3 s4 s5 s6 s7 s8
  have a1 : SameQ w.d w.e s s1 := sameQ_keeps (countOut_keeps _ _ _ (by decide) (storeOut_keeps _ _ (by decide) (chargeDesc_keeps _ _ (by decide) (Keeps.refl 64 s)))) (SameQ.refl _ _ s)
  have a2 : SameQ w.d w.e s s2 := by
    unfold s2
    split
    · exact sameQ_modEng _ _ _ (fun _ => rfl) a1
    · exact a1
  have a3 : SameQ w.d w.e s s3 := by
    unfold s3
    split
    · exact sameQ_modDie _ _ (fun _ => rfl) a2
    · exact a2
  have a4 : SameQ w.d w.e s s4 := by
    unfold s4
    split
    · exact a3.trans (SameQ.trans (sameQ_dies (setFi_dies _ _ _ _ _) (SameQ.refl _ _ _)) (raiseBit_sameQ _ _ _ _ _))
    · exact a3
  have a5 : SameQ w.d w.e s s5 := by
    unfold s5
    split
    · exact a4.trans ⟨rfl, rfl, rfl⟩
    · exact a4
  have a6 : SameQ w.d w.e s s6 := by
    unfold s6
    split
    · exact a5.trans (sameQ_keeps (spectralDone_keeps _ _ _ (by decide) (Keeps.refl 64 _)) (SameQ.refl _ _ _))
    · exact a5
  have a7 : (engOf s7 w.d w.e).queue = (engOf s w.d w.e).queue.drop 1 := by
    have b : SameQ w.d w.e (popQueue w.d w.e s6) s7 :=
      sameQ_keeps (countWork_keeps _ _ (by decide) (Keeps.refl 64 _)) (sameQ_dies (setFi_dies _ _ _ _ _) (SameQ.refl _ _ _))
    rw [b.queue, popQueue_queue (by rw [a6.dies]; exact h) (by rw [a6.slots]; exact k), a6.queue]
  have a8 : SameQ w.d w.e s7 s8 := by
    unfold s8
    split
    · exact sameQ_modDie _ _ (fun _ => rfl) (SameQ.refl _ _ _)
    · exact SameQ.refl _ _ _
  exact (sameQ_keeps (showDispatch_keeps _ (by decide) (Keeps.refl 64 _)) (a8.trans (settle_sameQ _ _ _ _ _ _ _))).queue.trans a7

end Sys2Proof.Machine
end

