-- ==== Sys2Proof/Laws/Registers.lean ====
section
/-! SUPPORT. The laws of registers and their fields: a read after a write, field by field and word by word. -/

namespace Sys2Proof.Machine

open Sys2Proof

/-! ### Bit fields of numbers -/

theorem bits_split (v lo w : Nat) :
    v = v / 2 ^ lo / 2 ^ w * 2 ^ w * 2 ^ lo + bitsOf v lo w * 2 ^ lo + v % 2 ^ lo := by
  unfold bitsOf
  rw [← Nat.add_mul, Nat.mul_comm (v / 2 ^ lo / 2 ^ w), Nat.div_add_mod, Nat.mul_comm, Nat.div_add_mod]

theorem putBits_eq (v lo w x : Nat) :
    putBits v lo w x = v / 2 ^ lo / 2 ^ w * 2 ^ w * 2 ^ lo + x % 2 ^ w * 2 ^ lo + v % 2 ^ lo := by
  have h := bits_split v lo w
  unfold putBits
  generalize bitsOf v lo w * 2 ^ lo = b at *
  generalize v / 2 ^ lo / 2 ^ w * 2 ^ w * 2 ^ lo = q at *
  omega

theorem putBits_div (v lo w x : Nat) : putBits v lo w x / 2 ^ lo = v / 2 ^ lo / 2 ^ w * 2 ^ w + x % 2 ^ w := by
  rw [putBits_eq, ← Nat.add_mul, Nat.mul_comm, Nat.mul_add_div (by positivity), Nat.div_eq_of_lt (Nat.mod_lt _ (by positivity)),
    Nat.add_zero]

theorem putBits_mod (v lo w x : Nat) : putBits v lo w x % 2 ^ lo = v % 2 ^ lo := by
  rw [putBits_eq, ← Nat.add_mul, Nat.mul_comm, Nat.mul_add_mod, Nat.mod_mod]

theorem bitsOf_putBits_same (v lo w x : Nat) : bitsOf (putBits v lo w x) lo w = x % 2 ^ w := by
  unfold bitsOf
  rw [putBits_div, Nat.mul_comm, Nat.mul_add_mod, Nat.mod_mod]

theorem bitsOf_putBits_above {v lo w x lo' w' : Nat} (h : lo + w ≤ lo') :
    bitsOf (putBits v lo w x) lo' w' = bitsOf v lo' w' := by
  obtain ⟨k, rfl⟩ := Nat.exists_eq_add_of_le h
  unfold bitsOf
  rw [Nat.pow_add, Nat.pow_add, ← Nat.div_div_eq_div_mul, ← Nat.div_div_eq_div_mul, putBits_div, Nat.mul_comm,
    Nat.mul_add_div (by positivity), Nat.div_eq_of_lt (Nat.mod_lt _ (by positivity)), Nat.add_zero,
    ← Nat.div_div_eq_div_mul, ← Nat.div_div_eq_div_mul]

theorem bitsOf_putBits_below {v lo w x lo' w' : Nat} (h : lo' + w' ≤ lo) :
    bitsOf (putBits v lo w x) lo' w' = bitsOf v lo' w' := by
  have e (n : Nat) : bitsOf n lo' w' = n % 2 ^ lo / 2 ^ lo' % 2 ^ w' := by
    unfold bitsOf
    obtain ⟨k, rfl⟩ := Nat.exists_eq_add_of_le h
    rw [Nat.pow_add, Nat.pow_add, Nat.mul_assoc, Nat.mod_mul_right_div_self, Nat.mod_mul_right_mod]
  rw [e, e, putBits_mod]

theorem putBits_lt {v lo w n : Nat} (x : Nat) (hv : v < 2 ^ n) (h : lo + w ≤ n) : putBits v lo w x < 2 ^ n := by
  obtain ⟨k, rfl⟩ := Nat.exists_eq_add_of_le h
  have h1 : v / 2 ^ lo / 2 ^ w < 2 ^ k := by
    rw [Nat.div_div_eq_div_mul, ← Nat.pow_add]
    exact Nat.div_lt_of_lt_mul (by rwa [← Nat.pow_add])
  have h2 : x % 2 ^ w < 2 ^ w := Nat.mod_lt _ (by positivity)
  have h3 : v % 2 ^ lo < 2 ^ lo := Nat.mod_lt _ (by positivity)
  rw [putBits_eq, Nat.pow_add, Nat.pow_add]
  nlinarith [Nat.pos_of_ne_zero (show 2 ^ lo ≠ 0 by positivity), Nat.pos_of_ne_zero (show 2 ^ w ≠ 0 by positivity),
    Nat.mul_le_mul_right (2 ^ w * 2 ^ lo) (Nat.succ_le_of_lt h1), Nat.mul_le_mul_right (2 ^ lo) (Nat.succ_le_of_lt h2)]

/-! ### Words -/

theorem regW_setW (a b : Nat) (v : Word) (s : State) : regW (setW a v s) b = if b = a then v else regW s b :=
  sparseGet_put _ _ _ _ _

@[simp] theorem regW_setW_same (a : Nat) (v : Word) (s : State) : regW (setW a v s) a = v := by simp [regW_setW]

theorem regW_setW_ne {a b : Nat} (h : b ≠ a) (v : Word) (s : State) : regW (setW a v s) b = regW s b := by simp [regW_setW, h]

/-- Registers read alike wherever the register file is the same. -/
theorem regW_congr {s t : State} (h : t.regs = s.regs) (a : Nat) : regW t a = regW s a := by unfold regW; rw [h]

theorem getFij_congr {s t : State} (h : t.regs = s.regs) (p : Page) (r : Row) (i j : Nat) :
    getFij t p r i j = getFij s p r i j := by unfold getFij; rw [regW_congr h]

/-! ### Fields -/

theorem regW_setFij_ne {p : Page} {r : Row} {i j b : Nat} (h : b ≠ fieldAddr p r i j) (v : Nat) (s : State) :
    regW (setFij p r i j v s) b = regW s b := regW_setW_ne h _ _

theorem regW_setFij_toNat {p : Page} {r : Row} (h : r.lo + r.w ≤ 32) (i j v : Nat) (s : State) :
    (regW (setFij p r i j v s) (fieldAddr p r i j)).toNat = putBits (regW s (fieldAddr p r i j)).toNat r.lo r.w v := by
  unfold setFij
  rw [regW_setW_same, BitVec.toNat_ofNat, Nat.mod_eq_of_lt (putBits_lt v (BitVec.isLt _) h)]

/-- A field reads as the value just written to it, in its width. -/
theorem getFij_setFij_same {p : Page} {r : Row} (h : r.lo + r.w ≤ 32) (i j v : Nat) (s : State) :
    getFij (setFij p r i j v s) p r i j = v % 2 ^ r.w := by
  unfold getFij
  rw [regW_setFij_toNat h, bitsOf_putBits_same]

/-- A field of another word is unchanged. -/
theorem getFij_setFij_ne {p p' : Page} {r r' : Row} {i j i' j' : Nat} (h : fieldAddr p' r' i' j' ≠ fieldAddr p r i j) (v : Nat)
    (s : State) : getFij (setFij p r i j v s) p' r' i' j' = getFij s p' r' i' j' := by
  unfold getFij
  rw [regW_setFij_ne h]

/-- A field beside the one written is unchanged. -/
theorem getFij_setFij_beside {p p' : Page} {r r' : Row} {i j i' j' : Nat} (hw : r.lo + r.w ≤ 32)
    (h : r.lo + r.w ≤ r'.lo ∨ r'.lo + r'.w ≤ r.lo) (v : Nat) (s : State) :
    getFij (setFij p r i j v s) p' r' i' j' = getFij s p' r' i' j' := by
  by_cases e : fieldAddr p' r' i' j' = fieldAddr p r i j
  · unfold getFij
    rw [e, regW_setFij_toNat hw]
    rcases h with h | h
    · exact bitsOf_putBits_above h
    · exact bitsOf_putBits_below h
  · exact getFij_setFij_ne e v s

/-- A field is smaller than its width allows. -/
theorem getFij_lt (s : State) (p : Page) (r : Row) (i j : Nat) : getFij s p r i j < 2 ^ r.w := Nat.mod_lt _ (by positivity)

/-- A field of the page reads as the value just written to it. -/
theorem getF_setF_same {p : Page} {r : Row} (h : r.lo + r.w ≤ 32) (v : Nat) (s : State) :
    getF (setF p r v s) p r = v % 2 ^ r.w := getFij_setFij_same h 0 0 v s

theorem getFi_setFi_same {p : Page} {r : Row} (h : r.lo + r.w ≤ 32) (i v : Nat) (s : State) :
    getFi (setFi p r i v s) p r i = v % 2 ^ r.w := getFij_setFij_same h i 0 v s

/-- Two fields of one page that share no bit. -/
def apart (r r' : Row) : Bool := r.off ≠ r'.off || r.lo + r.w ≤ r'.lo || r'.lo + r'.w ≤ r.lo

/-- Another field of the same page is unchanged. -/
theorem getF_setF_apart {p : Page} {r r' : Row} (hw : r.lo + r.w ≤ 32) (h : apart r r' = true) (v : Nat) (s : State) :
    getF (setF p r v s) p r' = getF s p r' := by
  simp only [apart, Bool.or_eq_true, decide_eq_true_eq, or_assoc] at h
  rcases h with h | h
  · exact getFij_setFij_ne (by simp only [fieldAddr]; omega) v s
  · exact getFij_setFij_beside hw h v s

/-- Fields of one index set, of the same page and stride, that share no bit. -/
theorem getFi_setFi_apart {p : Page} {r r' : Row} (hw : r.lo + r.w ≤ 32) (hs : r.s1 = r'.s1) (h : apart r r' = true) (i v : Nat)
    (s : State) : getFi (setFi p r i v s) p r' i = getFi s p r' i := by
  simp only [apart, Bool.or_eq_true, decide_eq_true_eq, or_assoc] at h
  rcases h with h | h
  · exact getFij_setFij_ne (by simp only [fieldAddr, hs]; omega) v s
  · exact getFij_setFij_beside hw h v s

/-- A field of another index. -/
theorem getFi_setFi_index {p : Page} {r : Row} {i j : Nat} (hs : 0 < r.s1) (h : j ≠ i) (v : Nat) (s : State) :
    getFi (setFi p r i v s) p r j = getFi s p r j := by
  refine getFij_setFij_ne (fun e => h ?_) v s
  simp only [fieldAddr] at e
  exact Nat.eq_of_mul_eq_mul_right hs (by omega)

theorem pageBase_mod (p : Page) : pageBase p % 4096 = 0 := by cases p <;> simp only [pageBase] <;> omega

/-- A field of another page. -/
theorem getF_setF_page {p p' : Page} {r r' : Row} (h : pageBase p ≠ pageBase p') (hr : r.off < 4096) (hr' : r'.off < 4096) (v : Nat)
    (s : State) : getF (setF p r v s) p' r' = getF s p' r' := by
  have := pageBase_mod p
  have := pageBase_mod p'
  exact getFij_setFij_ne (by simp only [fieldAddr]; omega) v s

theorem getF_congr {s t : State} (h : t.regs = s.regs) (p : Page) (r : Row) : getF t p r = getF s p r := getFij_congr h p r 0 0

theorem getFi_congr {s t : State} (h : t.regs = s.regs) (p : Page) (r : Row) (i : Nat) : getFi t p r i = getFi s p r i :=
  getFij_congr h p r i 0

end Sys2Proof.Machine
end

