-- ==== Sys2Proof/Laws/Records.lean ====
section
/-! SUPPORT. What the record of an error code does to the registers (R445, R300): it touches the header of its page, and the
warnings and the ledger's queue with their own pages; every word at offset 0x40 and above of any other page stays. -/

namespace Sys2Proof.Machine

open Sys2Proof

/-- A word of a header of neither the MBX nor the LDG page. -/
def header (a : Nat) : Prop := a / 4096 ≠ 0x40033 ∧ a / 4096 ≠ 0x40050

/-! ### What changes no register -/


theorem notify_regs (i : Nat) (s : State) : (notify i s).regs = s.regs := by
  unfold notify
  dsimp only
  split
  · rfl
  · split <;> rfl

theorem notifyEdge_regs (p : Page) (s t : State) : (notifyEdge p s t).regs = t.regs := by
  unfold notifyEdge
  split
  · split
    · exact notify_regs _ _
    · rfl
  · rfl

/-! ### Words that stay -/

theorem capture_ne {p : Page} {a : Nat} (h : a < pageBase p ∨ pageBase p + 64 ≤ a) (code addr part : Nat) (s : State) :
    regW (capture p code addr part s) a = regW s a := by
  have e {r : Row} (hr : r.off < 64) (h1 : r.s1 = 0) : a ≠ fieldAddr p r 0 0 := by
    simp only [fieldAddr, h1]; omega
  unfold capture
  dsimp only
  split <;> unfold setF bump bumpI setFi <;>
    simp only [regW_setFij_ne (e (by decide) rfl : a ≠ fieldAddr p Reg.HDR_ERR_STAT_VALID 0 0),
      regW_setFij_ne (e (by decide) rfl : a ≠ fieldAddr p Reg.HDR_ERR_INFO_PART 0 0),
      regW_setFij_ne (e (by decide) rfl : a ≠ fieldAddr p Reg.HDR_ERR_ADDR 0 0),
      regW_setFij_ne (e (by decide) rfl : a ≠ fieldAddr p Reg.HDR_ERR_INFO_FIRST 0 0),
      regW_setFij_ne (e (by decide) rfl : a ≠ fieldAddr p Reg.HDR_ERR_STAT_MULTI 0 0),
      regW_setFij_ne (e (by decide) rfl : a ≠ fieldAddr p Reg.HDR_INT_STAT_ERR 0 0),
      regW_setFij_ne (e (by decide) rfl : a ≠ fieldAddr p Reg.HDR_ERR_INFO_LAST 0 0),
      regW_setFij_ne (e (by decide) rfl : a ≠ fieldAddr p Reg.HDR_ERR_CNT 0 0)]

theorem recordPlain_ne {p : Page} {a : Nat} (h : a < pageBase p ∨ pageBase p + 64 ≤ a) (code addr part : Nat) (s : State) :
    regW (recordPlain p code addr part s) a = regW s a := by
  unfold recordPlain
  rw [regW_congr (notifyEdge_regs _ _ _), capture_ne h]

theorem setF_page_ne {p : Page} {r : Row} {a : Nat} (hr : r.off < 4096) (h : a / 4096 ≠ pageBase p / 4096) (v : Nat) (s : State) :
    regW (setF p r v s) a = regW s a := by
  refine regW_setFij_ne ?_ _ _
  have := pageBase_mod p
  intro e; subst e; apply h
  simp only [fieldAddr]; omega

theorem bump_page_ne {p : Page} {r : Row} {a : Nat} (hr : r.off < 4096) (h : a / 4096 ≠ pageBase p / 4096) (n : Nat) (s : State) :
    regW (bump p r n s) a = regW s a := setF_page_ne hr h _ _

theorem recordPlain_page_ne {p : Page} {a : Nat} (h : a / 4096 ≠ pageBase p / 4096) (code addr part : Nat) (s : State) :
    regW (recordPlain p code addr part s) a = regW s a := by
  have := pageBase_mod p
  exact recordPlain_ne (by omega) _ _ _ _

theorem mbx_page : pageBase pgMbx / 4096 = 0x40033 := rfl
theorem ldg_page : pageBase pgLdg / 4096 = 0x40050 := rfl

theorem raiseWarning_ne {a : Nat} (h : header a) (p : Page) (code : Nat) (s : State) : regW (raiseWarning p code s) a = regW s a := by
  unfold raiseWarning
  split
  · rw [setF_page_ne (by decide) (by rw [mbx_page]; exact h.1)]; rfl
  · rw [recordPlain_page_ne (by rw [mbx_page]; exact h.1), bump_page_ne (by decide) (by rw [mbx_page]; exact h.1)]

theorem queueEntry_ne {a : Nat} (h : header a) (e : LdgEntry) (s : State) : regW (queueEntry e s).2 a = regW s a := by
  unfold queueEntry
  split
  · exact bump_page_ne (by decide) (by rw [ldg_page]; exact h.2) _ _
  · split
    · exact (setF_page_ne (by decide) (by rw [ldg_page]; exact h.2) _ _).trans rfl
    · exact bump_page_ne (by decide) (by rw [ldg_page]; exact h.2) _ _

theorem queueFault_ne {a : Nat} (h : header a) (p : Page) (code : Nat) (s : State) :
    regW (queueFault p code s).2 a = regW s a := by
  unfold queueFault
  dsimp only
  split
  · rfl
  · exact (queueEntry_ne h _ _).trans rfl

theorem warnAbout_ne {a : Nat} (h : header a) (p : Page) (code : Nat) (s : State) :
    regW (warnAbout p code s) a = regW s a := by
  unfold warnAbout
  dsimp only
  split
  · rw [queueFault_ne h, raiseWarning_ne h]
  · rw [queueFault_ne h, raiseWarning_ne h, recordPlain_page_ne (by rw [ldg_page]; exact h.2), queueFault_ne h, raiseWarning_ne h]

/-- A record of a code leaves the quiet words alone. -/
theorem regW_recordAt {a : Nat} (h : quiet a) (p : Page) (code addr part : Nat) (s : State) :
    regW (recordAt p code addr part s) a = regW s a := by
  have e : a < pageBase p ∨ pageBase p + 64 ≤ a := by
    have := pageBase_mod p
    have := h.1
    by_contra hc
    omega
  unfold recordAt recordWarn
  split
  · rw [warnAbout_ne h.2, recordPlain_ne e]
  · exact recordPlain_ne e _ _ _ _

theorem regW_record {a : Nat} (h : quiet a) (p : Page) (code : Nat) (s : State) : regW (record p code s) a = regW s a :=
  regW_recordAt h p code 0 0xFF s

theorem regW_recordPart {a : Nat} (h : quiet a) (p : Page) (code part : Nat) (s : State) :
    regW (recordPart p code part s) a = regW s a := regW_recordAt h p code 0 part s

theorem regW_recordWarn {a : Nat} (h : quiet a) (p : Page) (code addr part : Nat) (s : State) :
    regW (recordWarn p code addr part s) a = regW s a := by
  have e : a < pageBase p ∨ pageBase p + 64 ≤ a := by
    have := pageBase_mod p
    have := h.1
    by_contra hc
    omega
  unfold recordWarn
  rw [warnAbout_ne h.2, recordPlain_ne e]

/-! ### The captures -/

/-- LAST holds the code just captured, and the page's error cause is set. -/
theorem capture_codes (p : Page) (code addr part : Nat) (s : State) :
    getF (capture p code addr part s) p Reg.HDR_ERR_INFO_LAST = code % 256 ∧
      getF (capture p code addr part s) p Reg.HDR_INT_STAT_ERR = 1 := by
  unfold capture
  dsimp only
  split
  · constructor
    · rw [getF_setF_apart (by decide) (by decide), getF_setF_apart (by decide) (by decide), getF_setF_apart (by decide) (by decide),
        getF_setF_apart (by decide) (by decide), getF_setF_apart (by decide) (by decide), getF_setF_same (by decide)]
      rfl
    · rw [getF_setF_apart (by decide) (by decide), getF_setF_apart (by decide) (by decide), getF_setF_apart (by decide) (by decide),
        getF_setF_apart (by decide) (by decide), getF_setF_same (by decide)]
      rfl
  · constructor
    · rw [getF_setF_apart (by decide) (by decide), getF_setF_apart (by decide) (by decide), getF_setF_same (by decide)]
      rfl
    · rw [getF_setF_apart (by decide) (by decide), getF_setF_same (by decide)]
      rfl

theorem recordPlain_codes (p : Page) (code addr part : Nat) (s : State) :
    getF (recordPlain p code addr part s) p Reg.HDR_ERR_INFO_LAST = code % 256 ∧
      getF (recordPlain p code addr part s) p Reg.HDR_INT_STAT_ERR = 1 := by
  unfold recordPlain
  rw [getF_congr (notifyEdge_regs _ _ _), getF_congr (notifyEdge_regs _ _ _)]
  exact capture_codes p code addr part s

theorem header_of_page {p : Page} (hm : pageBase p ≠ pageBase pgMbx) (hl : pageBase p ≠ pageBase pgLdg) {n : Nat} (hn : n < 4096) :
    header (pageBase p + n) := by
  have := pageBase_mod p
  have e1 : pageBase pgMbx = 0x40033 * 4096 := rfl
  have e2 : pageBase pgLdg = 0x40050 * 4096 := rfl
  constructor <;> omega

/-- After a record LAST holds the code and the page's error cause is set; the MBX and LDG pages apart, which what a warning
brings may touch again. -/
theorem recordAt_codes {p : Page} (hm : pageBase p ≠ pageBase pgMbx) (hl : pageBase p ≠ pageBase pgLdg) (code addr part : Nat)
    (s : State) :
    getF (recordAt p code addr part s) p Reg.HDR_ERR_INFO_LAST = code % 256 ∧
      getF (recordAt p code addr part s) p Reg.HDR_INT_STAT_ERR = 1 := by
  have h := recordPlain_codes p code addr part s
  unfold recordAt recordWarn
  split
  · have e (n : Nat) (hn : n < 4096) : regW (warnAbout p code (recordPlain p code addr part s)) (pageBase p + n) =
        regW (recordPlain p code addr part s) (pageBase p + n) := warnAbout_ne (header_of_page hm hl hn) _ _ _
    have e1 := e 0x28 (by decide)
    have e2 := e 0x14 (by decide)
    refine ⟨Eq.trans ?_ h.1, Eq.trans ?_ h.2⟩
    · exact congrArg (fun w : Word => bitsOf w.toNat 8 8) e1
    · exact congrArg (fun w : Word => bitsOf w.toNat 31 1) e2
  · exact h

theorem record_codes {p : Page} (hm : pageBase p ≠ pageBase pgMbx) (hl : pageBase p ≠ pageBase pgLdg) (code : Nat) (s : State) :
    getF (record p code s) p Reg.HDR_ERR_INFO_LAST = code % 256 ∧ getF (record p code s) p Reg.HDR_INT_STAT_ERR = 1 :=
  recordAt_codes hm hl code 0 0xFF s

end Sys2Proof.Machine
end

