-- ==== Sys2Proof/Laws/Masters.lean ====
section
/-! SUPPORT. The access paths (R279, R307): a write of a control register by a master that may make it reaches its block, and one by a
data master that works for no partition is refused with 0x09. -/

namespace Sys2Proof.Machine

open Sys2Proof

theorem dataRefusal_control {who : Agent} (h : controls who = true) (wr : Bool) (a : Nat) (s : State) :
    dataRefusal who wr a s = none := by
  simp only [controls, Bool.and_eq_true, Bool.not_eq_true', Option.isNone_iff_eq_none] at h
  simp [dataRefusal, h.1, h.2]

theorem dataRefusal_data {who : Agent} (h : dataMaster who = true) (hp : partOf who = none) (wr : Bool) (a : Nat) (s : State) :
    dataRefusal who wr a s = some (recordAt pgHubId 0x09 (a / 64) 0xFF s) := by simp [dataRefusal, h, hp]

theorem absentPage_hub {a : Nat} (h : a < 0x50000000) (s : State) : absentPage s a = false := by
  unfold absentPage pageOfAddr
  split
  · rename_i x hx
    split at hx
    · cases hx
    · simp at hx
  · rfl

/-- A write by a control master of a word of a page in service reaches the block. -/
theorem asMaster_control {who : Agent} (h : controls who = true) {p : Page} {off : Nat} {s : State}
    (ha : absentPage s (pageBase p + off) = false) (f : State → State) : asMaster p off who f s = f s := by
  simp [asMaster, dataRefusal_control h, ha]

/-- A write by a control master of a word of a hub page reaches the block. -/
theorem asMaster_hub {who : Agent} (h : controls who = true) {p : Page} {off : Nat} (ha : pageBase p + off < 0x50000000)
    (f : State → State) (s : State) : asMaster p off who f s = f s := asMaster_control h (absentPage_hub ha s) f

/-- A write by a data master that works for no partition records 0x09 and does nothing else. -/
theorem asMaster_data {who : Agent} (h : dataMaster who = true) (hp : partOf who = none) (p : Page) (off : Nat)
    (f : State → State) (s : State) :
    asMaster p off who f s = recordAt pgHubId 0x09 ((pageBase p + off) / 64) 0xFF s := by
  simp [asMaster, dataRefusal_data h hp]

/-- The host's write of a guarded page records 0x06 and does nothing else. -/
theorem asGuarded_host (p : Page) (off : Nat) (f : State → State) (s : State) :
    asGuarded p off .host f s = recordAt pgHubId 0x06 ((pageBase p + off) / 64) 0xFF s := by simp [asGuarded]

/-- A write by a control master other than the host of a word of a guarded hub page reaches the block. -/
theorem asGuarded_hub {who : Agent} (h : controls who = true) (hh : who ≠ .host) {p : Page} {off : Nat}
    (ha : pageBase p + off < 0x50000000) (f : State → State) (s : State) : asGuarded p off who f s = f s := by
  simp [asGuarded, hh, asMaster_hub h ha]

/-! ### The registers by address -/

theorem regionOf_control {a : Nat} (h1 : 0x40000000 ≤ a) (h2 : a < 0x62000000) : regionOf a = .control := by
  have e : addressMap.find? (fun e => decide (e.1 ≤ a ∧ a < e.2.1)) = some (0x40000000, 0x62000000, .control) := by
    have n1 : ¬ a < 0x06000000 := by omega
    have n2 : ¬ a < 0x0C000000 := by omega
    have n3 : ¬ a < 0x10000000 := by omega
    have n4 : ¬ a < 0x14000000 := by omega
    have n5 : ¬ a < 0x18000000 := by omega
    simp [addressMap, n1, n2, n3, n4, n5, h1, h2]
  unfold regionOf
  rw [e]

theorem regionEnd_control {a : Nat} (h1 : 0x40000000 ≤ a) (h2 : a < 0x62000000) : regionEnd a = 0x62000000 := by
  have n1 : ¬ a < 0x04000000 := by omega
  have n2 : ¬ a < 0x06000000 := by omega
  have n3 : ¬ a < 0x08000000 := by omega
  have n4 : ¬ a < 0x0C000000 := by omega
  have n5 : ¬ a < 0x10000000 := by omega
  have n6 : ¬ a < 0x14000000 := by omega
  have n7 : ¬ a < 0x18000000 := by omega
  have n8 : ¬ a < 0x40000000 := by omega
  simp [regionEnd, addressMap, n1, n2, n3, n4, n5, n6, n7, n8, h2]

theorem touched_control {a : Nat} (h1 : 0x40000000 ≤ a) (h2 : a + 4 ≤ 0x62000000) : touched a 4 = [(a, 4, .control)] := by
  have e : Nat.min 4 (0x62000000 - a) = 4 := Nat.min_eq_left (by omega)
  simp [touched, spans, regionEnd_control h1 (by omega), regionOf_control h1 (by omega), e]

/-- The path passes a control master's access to a register of a page in service. -/
theorem refuse_control {who : Agent} (h : controls who = true) {wr : Bool} {a : Nat} {s : State} (h1 : 0x40000000 ≤ a)
    (h2 : a + 4 ≤ 0x62000000) (h4 : a % 4 = 0) {x : Page × Nat} (ht : target s a = .inr x) : refuse who wr a 4 s = none := by
  simp only [controls, Bool.and_eq_true, Bool.not_eq_true', Option.isNone_iff_eq_none] at h
  simp [refuse, h.1, h.2, accessRefusal, touched_control h1 h2, regionRefusal, regionOf_control h1 (by omega : a < 0x62000000), ht, h4]

theorem leNat_leBytes (n v : Nat) : leNat (leBytes n v) = v % 256 ^ n := by
  induction n generalizing v with
  | zero => simp [leBytes, leNat, Nat.mod_one]
  | succ n ih =>
    have e : (BitVec.ofNat 8 (v % 256)).toNat = v % 256 := by rw [BitVec.toNat_ofNat]; exact Nat.mod_mod _ _
    rw [leBytes, leNat, ih, e, pow_succ', Nat.mod_mul]

/-- A write by a control master of a register word takes the page's write, and is answered. -/
theorem regWrite_control {who : Agent} (h : controls who = true) {a v : Nat} {s : State} (h1 : 0x40000000 ≤ a)
    (h2 : a + 4 ≤ 0x62000000) (h4 : a % 4 = 0) {p : Page} {off : Nat} (ht : target s a = .inr (p, off)) (hv : v < 2 ^ 32) :
    regWrite who a v s = answer [] (controlWrite who p off v s).1 false (controlWrite who p off v s).2 := by
  have e : (leBytes 4 v).length = 4 := rfl
  have w : leNat (leBytes 4 v) = v := by rw [leNat_leBytes]; exact Nat.mod_eq_of_lt hv
  simp [regWrite, devWrite, e, refuse_control h h1 h2 h4 ht, regionOf_control h1 (by omega : a < 0x62000000), ht, w]

theorem target_hub {n off : Nat} (hn : n < 0x10000) (ho : off < 4096) (hb : blkOf (.hub n) ≠ none) (s : State) :
    target s (pageBase (.hub n) + off) = .inr (.hub n, off) := by
  have e : pageOfAddr (pageBase (.hub n) + off) = some (.hub n, off) := by
    have b : pageBase (.hub n) = 0x40000000 + n * 0x1000 := rfl
    have d : (pageBase (.hub n) + off - 0x40000000) / 0x1000 = n := by omega
    have m : (pageBase (.hub n) + off) % 0x1000 = off := by omega
    unfold pageOfAddr
    rw [if_neg (by omega), if_pos (by omega), d, m]
  simp [target, e, hb]

/-- A write by a control master of a word of a hub page that host writes are not refused. -/
theorem regWrite_hub {who : Agent} (h : controls who = true) {n off v : Nat} (hn : n < 0x63) (ho : off < 4096) (h4 : off % 4 = 0)
    (hb : blkOf (.hub n) ≠ none) (hh : who = .host → hostDenied (.hub n) = false) (hv : v < 2 ^ 32) (s : State) :
    regWrite who (pageBase (.hub n) + off) v s = answer [] true false (pageWrite who (.hub n) off v s) := by
  have e : pageBase (.hub n) + off = 0x40000000 + n * 0x1000 + off := rfl
  rw [regWrite_control h (by omega) (by omega) (by omega) (target_hub (by omega) ho hb s) hv]
  have c : controlWrite who (.hub n) off v s = (true, pageWrite who (.hub n) off v s) := by
    unfold controlWrite
    rw [if_neg (by rintro ⟨x, y⟩; simp [hh x] at y), if_neg (by simp [islandForeign])]
  rw [c]

end Sys2Proof.Machine
end

