-- ==== Sys2Proof/Laws/Frames.lean ====
section
/-! SUPPORT. How a frame is shown: the pieces that an operation leaves alone by what it keeps, the registers by the addresses that it
writes. -/

namespace Sys2Proof.Machine

open Sys2Proof

/-- A command that answers `t` does what holds of `t`. -/
theorem does {c : Instr} {s t : State} {P : State → Prop} (h : exec c s = .next t) (hp : P t) : Does c s P := ⟨t, h, hp⟩

/-- The pieces outside `l`, one bit each. -/
def others (l : List Piece) : Nat := Piece.mask ([.regs, .mem, .io, .links, .cyc, .seq, .dies, .parts, .acct, .tiles, .fus, .mbx, .ldg, .hld, .eth, .dlk, .ing, .lrn, .bw,
  .clap, .isl, .pwr, .boot, .mal].filter (fun p => !l.contains p))

theorem mask_testBit (l : List Piece) (p : Piece) (h : p ∈ l) : (Piece.mask l).testBit p.idx = true := by
  induction l with
  | nil => cases h
  | cons a r ih =>
    rw [Piece.mask, Nat.testBit_or]
    rcases List.mem_cons.1 h with rfl | h
    · simp [Nat.testBit_two_pow_self]
    · simp [ih h]

/-- What keeps the pieces outside `l` leaves them and the queue alone. -/
theorem samesBut_keeps {l : List Piece} {s t : State} (h : Keeps (others l) s t) : samesBut l s t :=
  ⟨h.queue, fun p hp => h.frame p (mask_testBit _ _ (List.mem_filter.2 ⟨by cases p <;> decide, by simpa using hp⟩))⟩

theorem mask_testBit_iff (l : List Piece) (i : Nat) (h : (Piece.mask l).testBit i = true) : ∃ p ∈ l, p.idx = i := by
  induction l with
  | nil => simp [Piece.mask] at h
  | cons a r ih =>
    rw [Piece.mask, Nat.testBit_or, Bool.or_eq_true, Nat.testBit_two_pow, decide_eq_true_eq] at h
    rcases h with h | h
    · exact ⟨a, List.mem_cons_self, h⟩
    · obtain ⟨p, hp, e⟩ := ih h
      exact ⟨p, List.mem_cons_of_mem _ hp, e⟩

theorem Piece.idx_inj {p q : Piece} (h : p.idx = q.idx) : p = q := by cases p <;> cases q <;> first | rfl | cases h

theorem others_mask {l m : List Piece} (h : m.all (fun p => l.contains p) = true) : others l &&& Piece.mask m = 0 := by
  apply Nat.eq_of_testBit_eq
  intro i
  rw [Nat.testBit_and, Nat.zero_testBit, Bool.and_eq_false_iff]
  by_contra hc
  simp only [not_or, Bool.not_eq_false] at hc
  obtain ⟨p, hp, rfl⟩ := mask_testBit_iff _ _ hc.2
  obtain ⟨q, hq, e⟩ := mask_testBit_iff _ _ hc.1
  cases Piece.idx_inj e
  have a := List.all_eq_true.1 h p hp
  have b := (List.mem_filter.1 hq).2
  rw [a] at b
  cases b

/-- A command leaves alone what it does not reach. -/
theorem samesBut_reach {c : Instr} {l : List Piece} {s t : State} (h : exec c s = .next t)
    (k : (reach c).all (fun p => l.contains p) = true) : samesBut l s t := by
  obtain ⟨u, e, f⟩ := exec_keeps c (others_mask k) (Keeps.refl _ s)
  rw [h] at e
  cases e
  exact samesBut_keeps f

/-- Every command does something, and leaves alone what it does not reach. -/
theorem does_reach {c : Instr} {l : List Piece} {s : State} {P : State → Prop} (k : (reach c).all (fun p => l.contains p) = true)
    (h : Does c s P) : Does c s (fun t => samesBut l s t ∧ P t) := by
  obtain ⟨t, e, p⟩ := h
  exact ⟨t, e, samesBut_reach e k, p⟩

/-- A command that completes leaves alone what it does not reach. -/
theorem acts {c : Instr} {s : State} {P : State → Prop} (h : Does c s P) : Acts c s P :=
  does_reach (l := reach c) (by simp) h

theorem regsBut_refl (l : List Nat) (s : State) : regsBut l s s := fun _ _ => rfl

theorem regsBut_same {l : List Nat} {s t u : State} (h : u.regs = t.regs) (k : regsBut l s t) : regsBut l s u :=
  fun a ha => (regW_congr h a).trans (k a ha)

theorem regsBut_setW {l : List Nat} {s t : State} {a : Nat} (v : Word) (h : a ∈ l) (k : regsBut l s t) : regsBut l s (setW a v t) :=
  fun b hb => (regW_setW_ne (fun e => hb (by rwa [e])) v t).trans (k b hb)

theorem regsBut_setFij {l : List Nat} {s t : State} {p : Page} {r : Row} {i j : Nat} (v : Nat) (h : fieldAddr p r i j ∈ l)
    (k : regsBut l s t) : regsBut l s (setFij p r i j v t) := regsBut_setW _ h k

theorem regsBut_setFi {l : List Nat} {s t : State} {p : Page} {r : Row} {i : Nat} (v : Nat) (h : fieldAddr p r i 0 ∈ l)
    (k : regsBut l s t) : regsBut l s (setFi p r i v t) := regsBut_setW _ h k

theorem regsBut_setF {l : List Nat} {s t : State} {p : Page} {r : Row} (v : Nat) (h : fieldAddr p r 0 0 ∈ l)
    (k : regsBut l s t) : regsBut l s (setF p r v t) := regsBut_setW _ h k

theorem regsBut_bumpI {l : List Nat} {s t : State} {p : Page} {r : Row} {i : Nat} (v : Nat) (h : fieldAddr p r i 0 ∈ l)
    (k : regsBut l s t) : regsBut l s (bumpI p r i v t) := regsBut_setW _ h k

theorem regsBut_bump {l : List Nat} {s t : State} {p : Page} {r : Row} (v : Nat) (h : fieldAddr p r 0 0 ∈ l)
    (k : regsBut l s t) : regsBut l s (bump p r v t) := regsBut_setW _ h k

theorem getFij_recordAt {q : Page} {r : Row} {i j : Nat} (h : quiet (fieldAddr q r i j)) (p : Page) (code addr part : Nat) (s : State) :
    getFij (recordAt p code addr part s) q r i j = getFij s q r i j := by unfold getFij; rw [regW_recordAt h]

theorem getFi_recordAt {q : Page} {r : Row} {i : Nat} (h : quiet (fieldAddr q r i 0)) (p : Page) (code addr part : Nat) (s : State) :
    getFi (recordAt p code addr part s) q r i = getFi s q r i := getFij_recordAt h p code addr part s

theorem getF_recordAt {q : Page} {r : Row} (h : quiet (fieldAddr q r 0 0)) (p : Page) (code addr part : Nat) (s : State) :
    getF (recordAt p code addr part s) q r = getF s q r := getFij_recordAt h p code addr part s

theorem getFi_record {q : Page} {r : Row} {i : Nat} (h : quiet (fieldAddr q r i 0)) (p : Page) (code : Nat) (s : State) :
    getFi (record p code s) q r i = getFi s q r i := getFij_recordAt h p code 0 0xFF s

theorem getF_record {q : Page} {r : Row} (h : quiet (fieldAddr q r 0 0)) (p : Page) (code : Nat) (s : State) :
    getF (record p code s) q r = getF s q r := getFij_recordAt h p code 0 0xFF s

theorem getFi_recordPart {q : Page} {r : Row} {i : Nat} (h : quiet (fieldAddr q r i 0)) (p : Page) (code part : Nat) (s : State) :
    getFi (recordPart p code part s) q r i = getFi s q r i := getFij_recordAt h p code 0 part s

theorem getF_recordPart {q : Page} {r : Row} (h : quiet (fieldAddr q r 0 0)) (p : Page) (code part : Nat) (s : State) :
    getF (recordPart p code part s) q r = getF s q r := getFij_recordAt h p code 0 part s

theorem getFi_recordWarn {q : Page} {r : Row} {i : Nat} (h : quiet (fieldAddr q r i 0)) (p : Page) (code addr part : Nat) (s : State) :
    getFi (recordWarn p code addr part s) q r i = getFi s q r i := by
  unfold getFi getFij; rw [regW_recordWarn h]

theorem getF_recordWarn {q : Page} {r : Row} (h : quiet (fieldAddr q r 0 0)) (p : Page) (code addr part : Nat) (s : State) :
    getF (recordWarn p code addr part s) q r = getF s q r := getFi_recordWarn h p code addr part s

/-- A record leaves the registers that it does not write alone. -/
theorem quietBut_recordAt {l : List Nat} {s t : State} (p : Page) (code addr part : Nat) (k : quietBut l s t) :
    quietBut l s (recordAt p code addr part t) := fun a h ha => (regW_recordAt h p code addr part t).trans (k a h ha)

theorem quietBut_recordWarn {l : List Nat} {s t : State} (p : Page) (code addr part : Nat) (k : quietBut l s t) :
    quietBut l s (recordWarn p code addr part t) := fun a h ha => (regW_recordWarn h p code addr part t).trans (k a h ha)

theorem quietBut_record {l : List Nat} {s t : State} (p : Page) (code : Nat) (k : quietBut l s t) :
    quietBut l s (record p code t) := quietBut_recordAt p code 0 0xFF k

theorem quietBut_recordPart {l : List Nat} {s t : State} (p : Page) (code part : Nat) (k : quietBut l s t) :
    quietBut l s (recordPart p code part t) := quietBut_recordAt p code 0 part k

theorem quietBut_refl (l : List Nat) (s : State) : quietBut l s s := fun _ _ _ => rfl

theorem quietBut_same {l : List Nat} {s t u : State} (h : u.regs = t.regs) (k : quietBut l s t) : quietBut l s u :=
  fun a b ha => (regW_congr h a).trans (k a b ha)

theorem quietBut_setW {l : List Nat} {s t : State} {a : Nat} (v : Word) (h : a ∈ l) (k : quietBut l s t) : quietBut l s (setW a v t) :=
  fun b hq hb => (regW_setW_ne (fun e => hb (by rwa [e])) v t).trans (k b hq hb)

theorem quietBut_setFi {l : List Nat} {s t : State} {p : Page} {r : Row} {i : Nat} (v : Nat) (h : fieldAddr p r i 0 ∈ l)
    (k : quietBut l s t) : quietBut l s (setFi p r i v t) := quietBut_setW _ h k

theorem quietBut_setF {l : List Nat} {s t : State} {p : Page} {r : Row} (v : Nat) (h : fieldAddr p r 0 0 ∈ l)
    (k : quietBut l s t) : quietBut l s (setF p r v t) := quietBut_setW _ h k

theorem quietBut_bumpI {l : List Nat} {s t : State} {p : Page} {r : Row} {i : Nat} (v : Nat) (h : fieldAddr p r i 0 ∈ l)
    (k : quietBut l s t) : quietBut l s (bumpI p r i v t) := quietBut_setW _ h k

theorem quietBut_bump {l : List Nat} {s t : State} {p : Page} {r : Row} (v : Nat) (h : fieldAddr p r 0 0 ∈ l)
    (k : quietBut l s t) : quietBut l s (bump p r v t) := quietBut_setW _ h k

theorem regsBut_emit {l : List Nat} {s t : State} (e : Emission) (k : regsBut l s t) : regsBut l s (emit e t) := k

theorem regsBut_at {l : List Nat} {s t : State} (n : Nat) (k : regsBut l s t) : regsBut l s (at_ n t) := k

theorem regsBut_answer {l : List Nat} {s t : State} (d : List Byte) (a b : Bool) (k : regsBut l s t) : regsBut l s (answer d a b t) := k

theorem quietBut_emit {l : List Nat} {s t : State} (e : Emission) (k : quietBut l s t) : quietBut l s (emit e t) := k

theorem quietBut_at {l : List Nat} {s t : State} (n : Nat) (k : quietBut l s t) : quietBut l s (at_ n t) := k

theorem quietBut_answer {l : List Nat} {s t : State} (d : List Byte) (a b : Bool) (k : quietBut l s t) : quietBut l s (answer d a b t) := k

/-! ### What went out -/

theorem grows_refl (s : State) : grows s s := ⟨[], by simp⟩

theorem grows_trans {r s t : State} (h : grows r s) (k : grows s t) : grows r t := by
  obtain ⟨l, e⟩ := h
  obtain ⟨m, f⟩ := k
  exact ⟨l ++ m, by rw [f, e, List.append_assoc]⟩

theorem grows_same {r s t : State} (k : t.io.outbox = s.io.outbox) (h : grows r s) : grows r t := by
  obtain ⟨l, e⟩ := h
  exact ⟨l, k.trans e⟩

theorem grows_emit {r s : State} (e : Emission) (h : grows r s) : grows r (emit e s) :=
  grows_trans h ⟨[e], rfl⟩

theorem puts_emit {r s : State} (e : Emission) (h : grows r s) : puts e r (emit e s) := by
  obtain ⟨l, k⟩ := h
  exact ⟨l, [], by simp [emit, k]⟩

theorem puts_grows {r s t : State} {e : Emission} (k : grows s t) (h : puts e r s) : puts e r t := by
  obtain ⟨l, q, h⟩ := h
  obtain ⟨m, k⟩ := k
  exact ⟨l, q ++ m, by rw [k, h]; simp⟩

theorem grows_notify (i : Nat) (s : State) : grows s (notify i s) := by
  unfold notify
  dsimp only
  split
  · exact grows_refl s
  · split <;> exact grows_emit _ (grows_refl s)

theorem grows_notifyEdge (p : Page) (s t : State) : grows t (notifyEdge p s t) := by
  unfold notifyEdge
  split
  · split
    · exact grows_notify _ _
    · exact grows_refl t
  · exact grows_refl t

theorem capture_io (p : Page) (code addr part : Nat) (s : State) : (capture p code addr part s).io = s.io :=
  (capture_keeps p code addr part (K := 4) (by decide) (Keeps.refl _ s)).frame .io (by decide)

theorem grows_recordPlain (p : Page) (code addr part : Nat) (s : State) : grows s (recordPlain p code addr part s) :=
  grows_trans (grows_same (congrArg (·.outbox) (capture_io p code addr part s)) (grows_refl s)) (grows_notifyEdge _ _ _)

theorem grows_raiseWarning (p : Page) (code : Nat) (s : State) : grows s (raiseWarning p code s) := by
  unfold raiseWarning
  split
  · exact grows_same (by simp) (grows_refl s)
  · exact grows_trans (grows_same (by simp) (grows_refl s)) (grows_recordPlain _ _ _ _ _)

theorem queueEntry_io (e : LdgEntry) (s : State) : (queueEntry e s).2.io = s.io := by
  unfold queueEntry
  split
  · rfl
  · split <;> rfl

theorem queueFault_io (p : Page) (code : Nat) (s : State) : (queueFault p code s).2.io = s.io := by
  unfold queueFault
  dsimp only
  split
  · rfl
  · exact queueEntry_io _ _

theorem grows_warnAbout (p : Page) (code : Nat) (s : State) : grows s (warnAbout p code s) := by
  have e (q : Page) (c : Nat) (t : State) : grows t (queueFault q c t).2 :=
    grows_same (congrArg (·.outbox) (queueFault_io q c t)) (grows_refl t)
  unfold warnAbout
  dsimp only
  split
  · exact grows_trans (grows_raiseWarning _ _ _) (e _ _ _)
  · exact grows_trans (grows_raiseWarning _ _ _) (grows_trans (e _ _ _) (grows_trans (grows_recordPlain _ _ _ _ _)
      (grows_trans (grows_raiseWarning _ _ _) (e _ _ _))))

theorem grows_recordWarn (p : Page) (code addr part : Nat) (s : State) : grows s (recordWarn p code addr part s) :=
  grows_trans (grows_recordPlain _ _ _ _ _) (grows_warnAbout _ _ _)

/-- A record takes back nothing that went out. -/
theorem grows_recordAt (p : Page) (code addr part : Nat) (s : State) : grows s (recordAt p code addr part s) := by
  unfold recordAt
  split
  · exact grows_recordWarn _ _ _ _ _
  · exact grows_recordPlain _ _ _ _ _

theorem grows_record (p : Page) (code : Nat) (s : State) : grows s (record p code s) := grows_recordAt p code 0 0xFF s

theorem grows_journal (etype key : Nat) (data : List Byte) (words : List (Nat × Word)) (s : State) :
    grows s (journal etype key data words s) := by
  have e := queueEntry_io ⟨etype, key, 1, devTime s, barCount s % 2 ^ 32, pad44 data, words⟩ s
  unfold journal
  dsimp only
  split
  · exact grows_same (congrArg (·.outbox) e) (grows_refl s)
  · exact grows_trans (grows_same (congrArg (·.outbox) e) (grows_refl s)) (grows_record _ _ _)

theorem portF_setPortF {p : Nat} {r r' : Row} (h : r.lo + r.w ≤ 32) (hs : r.s1 = r'.s1) (a : apart r r' = true) (v : Nat) (s : State) :
    portF (setPortF p r v s) p r' = portF s p r' := getFi_setFi_apart h hs a _ _ _

theorem portF_setPortF_same {p : Nat} {r : Row} (h : r.lo + r.w ≤ 32) (v : Nat) (s : State) :
    portF (setPortF p r v s) p r = v % 2 ^ r.w := getFi_setFi_same h _ _ _

theorem portOf_modPort {p : Nat} (f : Port → Port) {s : State} (h : p < s.links.ports.length) :
    portOf (modPort p f s) p = f (portOf s p) := by
  simp [portOf, modPort, List.getD, h]

end Sys2Proof.Machine
end

