-- ==== Sys2Proof/Tests/Slice0.lean ====
section
/-! SUPPORT. Tests of the model: each check of `wellFormed` refuses what it should, and every set of hypotheses of a
statement is met by a concrete state and operands. -/

open Sys2Proof Sys2Proof.Machine

/-! Every check of `wellFormed` refuses an operand just past its range, and takes one inside. -/

theorem test_illFormed_1 :
    wellFormed (.registerWrite (.island 2) 0 0) = false ∧
    wellFormed (.pageLock (.island 2) (.hub 1) 0) = false ∧
    wellFormed (.pageLock (.core 0) (.cd 4 1) 0) = false ∧
    wellFormed (.pageSoftReset (.island 2) (.hub 1)) = false ∧
    wellFormed (.pageSoftReset (.core 0) (.cd 4 1)) = false ∧
    wellFormed (.pageEnableWrite (.island 2) (.hub 1) false) = false ∧
    wellFormed (.pageEnableWrite (.core 0) (.cd 4 1) false) = false ∧
    wellFormed (.pageFreeze (.island 2) (.hub 1) false) = false ∧
    wellFormed (.pageFreeze (.core 0) (.cd 4 1) false) = false ∧
    wellFormed (.intForce (.island 2) (.hub 1) 0) = false ∧
    wellFormed (.intForce (.core 0) (.cd 4 1) 0) = false ∧
    wellFormed (.ownerWrite (.island 2) (.hub 1) 0) = false ∧
    wellFormed (.ownerWrite (.core 0) (.cd 4 1) 0) = false ∧
    wellFormed (.loWordRead (.island 2) 0) = false ∧
    wellFormed (.loWordRead (.core 0) 2) = false ∧
    wellFormed (.deviceAccess (.island 2) 0 0 none) = false ∧
    wellFormed (.flitReceive 20 ⟨0, [], 0⟩ 0) = false ∧
    wellFormed (.creditOnlyFlit 20) = false ∧
    wellFormed (.sparePrbsError 20 false 0) = false ∧
    wellFormed (.sparePrbsError 0 false 2) = false := by decide

theorem test_illFormed_2 :
    wellFormed (.laneRepair 20 0) = false ∧
    wellFormed (.laneRepair 0 64) = false ∧
    wellFormed (.repairFlit 20 0 0 0) = false ∧
    wellFormed (.repairFlit 0 64 0 0) = false ∧
    wellFormed (.repairFlit 0 0 2 0) = false ∧
    wellFormed (.repairSwitch 20) = false ∧
    wellFormed (.discoveryReply 6 ⟨1, 0, 0, 0, 0, 0⟩) = false ∧
    wellFormed (.discoveryTimeout 6) = false ∧
    wellFormed (.ringDiscovery 4 0 0) = false ∧
    wellFormed (.loopTestRun (.island 2) 0) = false ∧
    wellFormed (.loopTestRun (.core 0) 18) = false ∧
    wellFormed (.loopTestDone 18 none) = false ∧
    wellFormed (.standaloneEnter 4) = false ∧
    wellFormed (.uciStart (.island 2)) = false ∧
    wellFormed (.timebaseRun (.island 2) 0) = false ∧
    wellFormed (.timebaseStop (.island 2)) = false ∧
    wellFormed (.gateSatisfied 16) = false ∧
    wellFormed (.barrierSatisfied 16) = false ∧
    wellFormed (.gateFailed 16) = false ∧
    wellFormed (.strokeComplete 4096) = false := by decide

theorem test_illFormed_3 :
    wellFormed (.budgetExpiry 4096) = false ∧
    wellFormed (.collectWrite 4096) = false ∧
    wellFormed (.emitDeliver 4096) = false ∧
    wellFormed (.emitDeadline 4096) = false ∧
    wellFormed (.tableLoad (.island 2)) = false ∧
    wellFormed (.requestAdmission (.island 2)) = false ∧
    wellFormed (.swapRequest (.island 2)) = false ∧
    wellFormed (.swapCancel (.island 2)) = false ∧
    wellFormed (.islSwapRequest (.island 2)) = false ∧
    wellFormed (.islSwapCancel (.island 2)) = false ∧
    wellFormed (.seqStop (.island 2)) = false ∧
    wellFormed (.descriptorDispatch 4 0) = false ∧
    wellFormed (.descriptorDispatch 0 8) = false ∧
    wellFormed (.descriptorComplete 4 0 0) = false ∧
    wellFormed (.descriptorComplete 0 16 0) = false ∧
    wellFormed (.descriptorFail 4 0 0) = false ∧
    wellFormed (.descriptorFail 0 16 0) = false ∧
    wellFormed (.lineWaitEnd 4 0 0) = false ∧
    wellFormed (.lineWaitEnd 0 16 0) = false ∧
    wellFormed (.engineFault 4 0 3) = false := by decide

theorem test_illFormed_4 :
    wellFormed (.engineFault 0 18 3) = false ∧
    wellFormed (.engineFault 0 0 4) = false ∧
    wellFormed (.engineFault 0 0 0) = false ∧
    wellFormed (.returnSequenceDone 4 0 false) = false ∧
    wellFormed (.returnSequenceDone 0 18 false) = false ∧
    wellFormed (.spareSelfTest 4 0 false) = false ∧
    wellFormed (.spareSelfTest 0 18 false) = false ∧
    wellFormed (.engTestRun (.island 2) 0 0) = false ∧
    wellFormed (.engTestRun (.core 0) 4 0) = false ∧
    wellFormed (.engTestRun (.core 0) 0 18) = false ∧
    wellFormed (.engTestDone 4 0 false) = false ∧
    wellFormed (.engTestDone 0 18 false) = false ∧
    wellFormed (.sleepPendWrite (.island 2) 0 0) = false ∧
    wellFormed (.sleepPendWrite (.core 0) 4 0) = false ∧
    wellFormed (.spectralHandoff 4 0) = false ∧
    wellFormed (.spectralHandoff 0 16) = false ∧
    wellFormed (.specEcc 4) = false ∧
    wellFormed (.trackerInitRequest (.island 2) 0 0) = false ∧
    wellFormed (.trackerInitRequest (.core 0) 4 0) = false ∧
    wellFormed (.optSeed 4 0) = false := by decide

theorem test_illFormed_5 :
    wellFormed (.optSeed 0 16) = false ∧
    wellFormed (.optCheck 4 0) = false ∧
    wellFormed (.optCheck 0 16) = false ∧
    wellFormed (.optApply 4 0) = false ∧
    wellFormed (.optApply 0 16) = false ∧
    wellFormed (.lregOpen (.island 2) 0) = false ∧
    wellFormed (.lregOpen (.core 0) 8) = false ∧
    wellFormed (.lregFreeze (.island 2) 0) = false ∧
    wellFormed (.lregFreeze (.core 0) 8) = false ∧
    wellFormed (.lregRestore (.island 2) 0) = false ∧
    wellFormed (.lregRestore (.core 0) 8) = false ∧
    wellFormed (.lregOff (.island 2) 0) = false ∧
    wellFormed (.lregOff (.core 0) 8) = false ∧
    wellFormed (.lregCkpt (.island 2) 0) = false ∧
    wellFormed (.lregCkpt (.core 0) 8) = false ∧
    wellFormed (.lregVet (.island 2) 0 0) = false ∧
    wellFormed (.lregVet (.core 0) 8 0) = false ∧
    wellFormed (.digestDone 8) = false ∧
    wellFormed (.ckptCommitDone 8) = false ∧
    wellFormed (.restoreDone 8 false) = false := by decide

theorem test_illFormed_6 :
    wellFormed (.ingConfigWrite (.island 2) 0 0 0) = false ∧
    wellFormed (.ingConfigWrite (.core 0) 24 0 0) = false ∧
    wellFormed (.frameStart 8 0 0 0) = false ∧
    wellFormed (.csiLongPacket 8 0 0 [] 0 false false) = false ∧
    wellFormed (.lineComplete 24 0) = false ∧
    wellFormed (.frameEnd 8 0 0) = false ∧
    wellFormed (.ingLate 24) = false ∧
    wellFormed (.ethFrameReceive 8 ⟨[], true⟩ 0) = false ∧
    wellFormed (.qbvCommit (.island 2) 0) = false ∧
    wellFormed (.qbvCommit (.core 0) 4) = false ∧
    wellFormed (.qbvCycleStart 4 0) = false ∧
    wellFormed (.gptpSync 8 0 0 0) = false ∧
    wellFormed (.gptpPdelay 8 0 0 0 0 0) = false ∧
    wellFormed (.ptpSet (.island 2) false 0) = false ∧
    wellFormed (.prtConfigWrite (.island 2) 0 0 0) = false ∧
    wellFormed (.prtConfigWrite (.core 0) 16 0 0) = false ∧
    wellFormed (.partitionResetRequest (.island 2) 0) = false ∧
    wellFormed (.partitionResetRequest (.core 0) 16) = false ∧
    wellFormed (.partitionIslReset (.island 2) 0) = false ∧
    wellFormed (.partitionIslReset (.core 0) 16) = false := by decide

theorem test_illFormed_7 :
    wellFormed (.partitionOvrLimit 16) = false ∧
    wellFormed (.stackRequest 4 0 0 0 false false) = false ∧
    wellFormed (.stackRequest 0 32 0 0 false false) = false ∧
    wellFormed (.regulatorWindow 32) = false ∧
    wellFormed (.queueLevelSample 4) = false ∧
    wellFormed (.patrolScrub 4 0 0) = false ∧
    wellFormed (.msFail 4) = false ∧
    wellFormed (.bwCommit (.island 2)) = false ∧
    wellFormed (.coreRun (.island 2) 0) = false ∧
    wellFormed (.mbxWrite (.island 2) 0 0) = false ∧
    wellFormed (.mbxWrite (.core 0) 64 0) = false ∧
    wellFormed (.mbxRead (.island 2) 0) = false ∧
    wellFormed (.mbxRead (.core 0) 64) = false ∧
    wellFormed (.intcClaim (.island 2) 0) = false ∧
    wellFormed (.intcClaim (.core 0) 19) = false ∧
    wellFormed (.intcComplete (.island 2) 0 0) = false ∧
    wellFormed (.intcComplete (.core 0) 19 0) = false ∧
    wellFormed (.intcComplete (.core 0) 0 512) = false ∧
    wellFormed (.hostAccess 6 0 0 none) = false ∧
    wellFormed (.dmaStart (.island 2) 0) = false := by decide

theorem test_illFormed_8 :
    wellFormed (.dmaStart (.core 0) 4) = false ∧
    wellFormed (.dmaDone 4 []) = false ∧
    wellFormed (.dmaError 4 0) = false ∧
    wellFormed (.mdioStart (.island 2)) = false ∧
    wellFormed (.islandFault 2 5) = false ∧
    wellFormed (.islandFault 0 6) = false ∧
    wellFormed (.islandFault 0 0) = false ∧
    wellFormed (.islandWatchdogExpire 2) = false ∧
    wellFormed (.islandAutoRestart 2 []) = false ∧
    wellFormed (.islandResetRelease 2 false []) = false ∧
    wellFormed (.islandRestart 2) = false ∧
    wellFormed (.clapClaim (.island 2) 0 0 0) = false ∧
    wellFormed (.clapClaim (.core 0) 2 0 0) = false ∧
    wellFormed (.clapConfirm (.island 2) 0 0 0) = false ∧
    wellFormed (.clapConfirm (.core 0) 2 0 0) = false ∧
    wellFormed (.clapHoldRel (.island 2) 0) = false ∧
    wellFormed (.clapRelease (.island 2) 0) = false ∧
    wellFormed (.clapHeartbeat (.island 2) 0) = false ∧
    wellFormed (.clapHeartbeat (.core 0) 2) = false ∧
    wellFormed (.clapLive (.island 2) 0) = false := by decide

theorem test_illFormed_9 :
    wellFormed (.clapLive (.core 0) 2) = false ∧
    wellFormed (.clapAbdicate (.island 2) 0) = false ∧
    wellFormed (.grantReceive 2 0) = false ∧
    wellFormed (.revokeReceive 2) = false ∧
    wellFormed (.heartbeatResponse 2 false 0) = false ∧
    wellFormed (.holdTimeout 2 0) = false ∧
    wellFormed (.holdDrop 2) = false ∧
    wellFormed (.emissionNotice 2 ⟨0, 0, 0, 0, 0, true, 0, 0, false, false⟩ 0) = false ∧
    wellFormed (.tickFlit 2 0 0) = false ∧
    wellFormed (.watchExpire 2 0 0) = false ∧
    wellFormed (.watchExpire 0 16 0) = false ∧
    wellFormed (.islSafeReq 2 0) = false ∧
    wellFormed (.clapSafeReq (.island 2) 0 6 0) = false ∧
    wellFormed (.clapSafeReq (.core 0) 2 6 0) = false ∧
    wellFormed (.clapSafeReq (.core 0) 0 7 0) = false ∧
    wellFormed (.clapSafeReq (.core 0) 0 0 0) = false ∧
    wellFormed (.safeMessageReceive 2 0) = false ∧
    wellFormed (.safeClr (.island 2)) = false ∧
    wellFormed (.canStatusPeriod 2) = false ∧
    wellFormed (.ssfPeriod 2 0 0) = false := by decide

theorem test_illFormed_10 :
    wellFormed (.ssfPeriod 0 2 0) = false ∧
    wellFormed (.canSsfLate 2 0 0) = false ∧
    wellFormed (.canSsfLate 0 2 0) = false ∧
    wellFormed (.canBusOff 2 0) = false ∧
    wellFormed (.canBusOff 0 2) = false ∧
    wellFormed (.canBusOffRecovery 2 0) = false ∧
    wellFormed (.canBusOffRecovery 0 2) = false ∧
    wellFormed (.canReceive 2 0 ⟨0, false, true, true, []⟩) = false ∧
    wellFormed (.canReceive 0 2 ⟨0, false, true, true, []⟩) = false ∧
    wellFormed (.phaseShed 5 0) = false ∧
    wellFormed (.phaseFault 5 [] [] 0) = false ∧
    wellFormed (.ilimStep 5) = false ∧
    wellFormed (.railStageDisable 4) = false ∧
    wellFormed (.opStepDone 4) = false ∧
    wellFormed (.marginSample 4 []) = false ∧
    wellFormed (.ageRaise 4) = false ∧
    wellFormed (.floorPendWrite (.island 2) 0 0) = false ∧
    wellFormed (.floorPendWrite (.core 0) 4 0) = false ∧
    wellFormed (.floorPendWrite (.core 0) 0 16) = false ∧
    wellFormed (.droopDetect 4 0) = false := by decide

theorem test_illFormed_11 :
    wellFormed (.droopTimeout 4 0) = false ∧
    wellFormed (.droopHoldEnd 4) = false ∧
    wellFormed (.envRequest (.island 2) 0) = false ∧
    wellFormed (.envRequest (.core 0) 3) = false ∧
    wellFormed (.envIslRequest (.island 2) 0) = false ∧
    wellFormed (.envIslRequest (.core 0) 3) = false ∧
    wellFormed (.capEvaluation 3 0 0) = false ∧
    wellFormed (.thermalStep 4 0) = false ∧
    wellFormed (.recordWriteDone 2 false) = false ∧
    wellFormed (.ldgFwWrite (.island 2) 0) = false ∧
    wellFormed (.ldgFwRead (.island 2)) = false ∧
    wellFormed (.ldgFwEntry (.island 2) 0) = false ∧
    wellFormed (.bootTrial (.island 2)) = false ∧
    wellFormed (.bootConfirm (.island 2)) = false ∧
    wellFormed (.bootCancel (.island 2)) = false ∧
    wellFormed (.clrDeg (.island 2)) = false ∧
    wellFormed (.dlkFlitReceive 8 ⟨0, [], 0⟩ 0) = false ∧
    wellFormed (.dlkIdleFlit 8 0) = false ∧
    wellFormed (.dlkRxTimeout 8) = false ∧
    wellFormed (.enumStart (.island 2) []) = false := by decide

theorem test_illFormed_12 :
    wellFormed (.copyStart (.island 2) 0) = false ∧
    wellFormed (.copyStart (.core 0) 8) = false ∧
    wellFormed (.copyDone 8 [] none) = false ∧
    wellFormed (.remoteAccess 128 0 0 none false) = false ∧
    wellFormed (.xbConfigWrite (.island 2) 0 0 0) = false ∧
    wellFormed (.xbConfigWrite (.core 0) 8 0 0) = false ∧
    wellFormed (.xbarRelease 8 0) = false ∧
    wellFormed (.dlkStatus 128 0) = false ∧
    wellFormed (.dlkFence 128 []) = false ∧
    wellFormed (.fenceNotice 128 0) = false ∧
    wellFormed (.fenceNotice 0 128) = false ∧
    wellFormed (.rstCtlWarm (.island 2)) = false ∧
    wellFormed (.rstCtlCold (.island 2)) = false ∧
    wellFormed (.wdogKick (.island 2) 0) = false ∧
    wellFormed (.islandResetPin 2) = false ∧
    wellFormed (.phaseTest 5 0 false 0 false) = false ∧
    wellFormed (.phaseTest 0 8 false 0 false) = false ∧
    wellFormed (.softStartTimeout 5) = false ∧
    wellFormed (.lcRequest (.island 2) ⟨0, 0, 0, true, true, true, false⟩) = false ∧
    wellFormed (.keyRevoke (.island 2) 0) = false := by decide

theorem test_illFormed_13 :
    wellFormed (.malletOffWrite (.island 2)) = false ∧
    wellFormed (.malletRd 0 65) = false ∧
    wellFormed (.malletRd 0 0) = false ∧
    wellFormed (.malletMd 0 4097) = false ∧
    wellFormed (.malletMd 0 0) = false ∧
    wellFormed (.malletUnlockKey 4) = false ∧
    wellFormed (.clockWireFailure 20 false) = false ∧
    wellFormed (.usxgmiiLinkChange 8 false 0) = false ∧
    wellFormed (.gptpAnnounce 8 ⟨0, 0, 0, 0, 0, 0, 0, 0⟩) = false ∧
    wellFormed (.gateIntervalEnd 4 0) = false ∧
    wellFormed (.canFrameComplete 2 0 ⟨0, false, true, true, []⟩ 0) = false ∧
    wellFormed (.canFrameComplete 0 2 ⟨0, false, true, true, []⟩ 0) = false ∧
    wellFormed (.softStartDone 5) = false := by decide

theorem test_wellFormed_1 :
    wellFormed (.registerWrite (.core 0) 0 0) = true ∧
    wellFormed (.pageLock (.core 0) (.hub 1) 0) = true ∧
    wellFormed (.pageSoftReset (.core 0) (.hub 1)) = true ∧
    wellFormed (.pageEnableWrite (.core 0) (.hub 1) false) = true ∧
    wellFormed (.pageFreeze (.core 0) (.hub 1) false) = true ∧
    wellFormed (.intForce (.core 0) (.hub 1) 0) = true ∧
    wellFormed (.ownerWrite (.core 0) (.hub 1) 0) = true ∧
    wellFormed (.loWordRead (.core 0) 0) = true ∧
    wellFormed (.deviceAccess (.core 0) 0 0 none) = true ∧
    wellFormed (.flitReceive 0 ⟨0, [], 0⟩ 0) = true ∧
    wellFormed (.creditOnlyFlit 0) = true ∧
    wellFormed (.sparePrbsError 0 false 0) = true ∧
    wellFormed (.laneRepair 0 0) = true ∧
    wellFormed (.repairFlit 0 0 0 0) = true ∧
    wellFormed (.repairSwitch 0) = true ∧
    wellFormed (.discoveryReply 0 ⟨1, 0, 0, 0, 0, 0⟩) = true ∧
    wellFormed (.discoveryTimeout 0) = true ∧
    wellFormed (.ringDiscovery 0 0 0) = true ∧
    wellFormed (.loopTestRun (.core 0) 0) = true ∧
    wellFormed (.loopTestDone 0 none) = true := by decide

theorem test_wellFormed_2 :
    wellFormed (.standaloneEnter 0) = true ∧
    wellFormed (.uciStart (.core 0)) = true ∧
    wellFormed (.timebaseRun (.core 0) 0) = true ∧
    wellFormed (.timebaseStop (.core 0)) = true ∧
    wellFormed (.gateSatisfied 0) = true ∧
    wellFormed (.barrierSatisfied 0) = true ∧
    wellFormed (.gateFailed 0) = true ∧
    wellFormed (.strokeComplete 0) = true ∧
    wellFormed (.budgetExpiry 0) = true ∧
    wellFormed (.collectWrite 0) = true ∧
    wellFormed (.emitDeliver 0) = true ∧
    wellFormed (.emitDeadline 0) = true ∧
    wellFormed (.tableLoad (.core 0)) = true ∧
    wellFormed (.requestAdmission (.core 0)) = true ∧
    wellFormed (.swapRequest (.core 0)) = true ∧
    wellFormed (.swapCancel (.core 0)) = true ∧
    wellFormed (.islSwapRequest (.core 0)) = true ∧
    wellFormed (.islSwapCancel (.core 0)) = true ∧
    wellFormed (.seqStop (.core 0)) = true ∧
    wellFormed (.descriptorDispatch 0 0) = true := by decide

theorem test_wellFormed_3 :
    wellFormed (.descriptorComplete 0 0 0) = true ∧
    wellFormed (.descriptorFail 0 0 0) = true ∧
    wellFormed (.lineWaitEnd 0 0 0) = true ∧
    wellFormed (.engineFault 0 0 3) = true ∧
    wellFormed (.returnSequenceDone 0 0 false) = true ∧
    wellFormed (.spareSelfTest 0 0 false) = true ∧
    wellFormed (.engTestRun (.core 0) 0 0) = true ∧
    wellFormed (.engTestDone 0 0 false) = true ∧
    wellFormed (.sleepPendWrite (.core 0) 0 0) = true ∧
    wellFormed (.spectralHandoff 0 0) = true ∧
    wellFormed (.specEcc 0) = true ∧
    wellFormed (.trackerInitRequest (.core 0) 0 0) = true ∧
    wellFormed (.optSeed 0 0) = true ∧
    wellFormed (.optCheck 0 0) = true ∧
    wellFormed (.optApply 0 0) = true ∧
    wellFormed (.lregOpen (.core 0) 0) = true ∧
    wellFormed (.lregFreeze (.core 0) 0) = true ∧
    wellFormed (.lregRestore (.core 0) 0) = true ∧
    wellFormed (.lregOff (.core 0) 0) = true ∧
    wellFormed (.lregCkpt (.core 0) 0) = true := by decide

theorem test_wellFormed_4 :
    wellFormed (.lregVet (.core 0) 0 0) = true ∧
    wellFormed (.digestDone 0) = true ∧
    wellFormed (.ckptCommitDone 0) = true ∧
    wellFormed (.restoreDone 0 false) = true ∧
    wellFormed (.ingConfigWrite (.core 0) 0 0 0) = true ∧
    wellFormed (.frameStart 0 0 0 0) = true ∧
    wellFormed (.csiLongPacket 0 0 0 [] 0 false false) = true ∧
    wellFormed (.lineComplete 0 0) = true ∧
    wellFormed (.frameEnd 0 0 0) = true ∧
    wellFormed (.ingLate 0) = true ∧
    wellFormed (.ethFrameReceive 0 ⟨[], true⟩ 0) = true ∧
    wellFormed (.qbvCommit (.core 0) 0) = true ∧
    wellFormed (.qbvCycleStart 0 0) = true ∧
    wellFormed (.gptpSync 0 0 0 0) = true ∧
    wellFormed (.gptpPdelay 0 0 0 0 0 0) = true ∧
    wellFormed (.ptpSet (.core 0) false 0) = true ∧
    wellFormed (.prtConfigWrite (.core 0) 0 0 0) = true ∧
    wellFormed (.partitionResetRequest (.core 0) 0) = true ∧
    wellFormed (.partitionIslReset (.core 0) 0) = true ∧
    wellFormed (.partitionOvrLimit 0) = true := by decide

theorem test_wellFormed_5 :
    wellFormed (.stackRequest 0 0 0 0 false false) = true ∧
    wellFormed (.regulatorWindow 0) = true ∧
    wellFormed (.queueLevelSample 0) = true ∧
    wellFormed (.patrolScrub 0 0 0) = true ∧
    wellFormed (.msFail 0) = true ∧
    wellFormed (.bwCommit (.core 0)) = true ∧
    wellFormed (.coreRun (.core 0) 0) = true ∧
    wellFormed (.mbxWrite (.core 0) 0 0) = true ∧
    wellFormed (.mbxRead (.core 0) 0) = true ∧
    wellFormed (.intcClaim (.core 0) 0) = true ∧
    wellFormed (.intcComplete (.core 0) 0 0) = true ∧
    wellFormed (.hostAccess 0 0 0 none) = true ∧
    wellFormed (.dmaStart (.core 0) 0) = true ∧
    wellFormed (.dmaDone 0 []) = true ∧
    wellFormed (.dmaError 0 0) = true ∧
    wellFormed (.mdioStart (.core 0)) = true ∧
    wellFormed (.islandFault 0 5) = true ∧
    wellFormed (.islandWatchdogExpire 0) = true ∧
    wellFormed (.islandAutoRestart 0 []) = true ∧
    wellFormed (.islandResetRelease 0 false []) = true := by decide

theorem test_wellFormed_6 :
    wellFormed (.islandRestart 0) = true ∧
    wellFormed (.clapClaim (.core 0) 0 0 0) = true ∧
    wellFormed (.clapConfirm (.core 0) 0 0 0) = true ∧
    wellFormed (.clapHoldRel (.core 0) 0) = true ∧
    wellFormed (.clapRelease (.core 0) 0) = true ∧
    wellFormed (.clapHeartbeat (.core 0) 0) = true ∧
    wellFormed (.clapLive (.core 0) 0) = true ∧
    wellFormed (.clapAbdicate (.core 0) 0) = true ∧
    wellFormed (.grantReceive 0 0) = true ∧
    wellFormed (.revokeReceive 0) = true ∧
    wellFormed (.heartbeatResponse 0 false 0) = true ∧
    wellFormed (.holdTimeout 0 0) = true ∧
    wellFormed (.holdDrop 0) = true ∧
    wellFormed (.emissionNotice 0 ⟨0, 0, 0, 0, 0, true, 0, 0, false, false⟩ 0) = true ∧
    wellFormed (.tickFlit 0 0 0) = true ∧
    wellFormed (.watchExpire 0 0 0) = true ∧
    wellFormed (.islSafeReq 0 0) = true ∧
    wellFormed (.clapSafeReq (.core 0) 0 6 0) = true ∧
    wellFormed (.safeMessageReceive 0 0) = true ∧
    wellFormed (.safeClr (.core 0)) = true := by decide

theorem test_wellFormed_7 :
    wellFormed (.canStatusPeriod 0) = true ∧
    wellFormed (.ssfPeriod 0 0 0) = true ∧
    wellFormed (.canSsfLate 0 0 0) = true ∧
    wellFormed (.canBusOff 0 0) = true ∧
    wellFormed (.canBusOffRecovery 0 0) = true ∧
    wellFormed (.canReceive 0 0 ⟨0, false, true, true, []⟩) = true ∧
    wellFormed (.phaseShed 0 0) = true ∧
    wellFormed (.phaseFault 0 [] [] 0) = true ∧
    wellFormed (.ilimStep 0) = true ∧
    wellFormed (.railStageDisable 0) = true ∧
    wellFormed (.opStepDone 0) = true ∧
    wellFormed (.marginSample 0 []) = true ∧
    wellFormed (.ageRaise 0) = true ∧
    wellFormed (.floorPendWrite (.core 0) 0 0) = true ∧
    wellFormed (.droopDetect 0 0) = true ∧
    wellFormed (.droopTimeout 0 0) = true ∧
    wellFormed (.droopHoldEnd 0) = true ∧
    wellFormed (.envRequest (.core 0) 0) = true ∧
    wellFormed (.envIslRequest (.core 0) 0) = true ∧
    wellFormed (.capEvaluation 0 0 0) = true := by decide

theorem test_wellFormed_8 :
    wellFormed (.thermalStep 0 0) = true ∧
    wellFormed (.recordWriteDone 0 false) = true ∧
    wellFormed (.ldgFwWrite (.core 0) 0) = true ∧
    wellFormed (.ldgFwRead (.core 0)) = true ∧
    wellFormed (.ldgFwEntry (.core 0) 0) = true ∧
    wellFormed (.bootTrial (.core 0)) = true ∧
    wellFormed (.bootConfirm (.core 0)) = true ∧
    wellFormed (.bootCancel (.core 0)) = true ∧
    wellFormed (.clrDeg (.core 0)) = true ∧
    wellFormed (.dlkFlitReceive 0 ⟨0, [], 0⟩ 0) = true ∧
    wellFormed (.dlkIdleFlit 0 0) = true ∧
    wellFormed (.dlkRxTimeout 0) = true ∧
    wellFormed (.enumStart (.core 0) []) = true ∧
    wellFormed (.copyStart (.core 0) 0) = true ∧
    wellFormed (.copyDone 0 [] none) = true ∧
    wellFormed (.remoteAccess 0 0 0 none false) = true ∧
    wellFormed (.xbConfigWrite (.core 0) 0 0 0) = true ∧
    wellFormed (.xbarRelease 0 0) = true ∧
    wellFormed (.dlkStatus 0 0) = true ∧
    wellFormed (.dlkFence 0 []) = true := by decide

theorem test_wellFormed_9 :
    wellFormed (.fenceNotice 0 0) = true ∧
    wellFormed (.rstCtlWarm (.core 0)) = true ∧
    wellFormed (.rstCtlCold (.core 0)) = true ∧
    wellFormed (.wdogKick (.core 0) 0) = true ∧
    wellFormed (.islandResetPin 0) = true ∧
    wellFormed (.phaseTest 0 0 false 0 false) = true ∧
    wellFormed (.softStartTimeout 0) = true ∧
    wellFormed (.lcRequest (.core 0) ⟨0, 0, 0, true, true, true, false⟩) = true ∧
    wellFormed (.keyRevoke (.core 0) 0) = true ∧
    wellFormed (.malletOffWrite (.core 0)) = true ∧
    wellFormed (.malletRd 0 64) = true ∧
    wellFormed (.malletMd 0 4096) = true ∧
    wellFormed (.malletUnlockKey 0) = true ∧
    wellFormed (.clockWireFailure 0 false) = true ∧
    wellFormed (.usxgmiiLinkChange 0 false 0) = true ∧
    wellFormed (.gptpAnnounce 0 ⟨0, 0, 0, 0, 0, 0, 0, 0⟩) = true ∧
    wellFormed (.gateIntervalEnd 0 0) = true ∧
    wellFormed (.canFrameComplete 0 0 ⟨0, false, true, true, []⟩ 0) = true ∧
    wellFormed (.softStartDone 0) = true := by decide

/-! Every set of hypotheses of a statement is met by a concrete state and operands: for each statement that has
hypotheses one theorem, with the state and the operands written out and one conjunct for each clause. -/

/-- The state right after reset with fields of registers set: page, field, index and value. -/
def Witness.regs (l : List (Page × Row × Nat × Nat)) (s : State := State.reset) : State :=
  l.foldl (fun s x => setFi x.1 x.2.1 x.2.2.1 x.2.2.2 s) s

/-- A stroke of an op and a partition with the bits of `more` beside. -/
def Witness.stroke (op part : Nat) (more : Nat := 0) : BitVec 128 := BitVec.ofNat 128 (op * 2 ^ 16 + part * 2 ^ 24 + more)

/-- A fired stroke that has not completed: index 5, bar 0. -/
def Witness.run (op : Nat) (more : Nat := 0) : StrokeRun := firedRun 5 (Witness.stroke op 0 more) 0

/-- A state whose partition 0 is active and whose sequencer holds the runs and due strokes given. -/
def Witness.seq (runs : List StrokeRun) (due : List (Nat × Nat × BitVec 128) := []) (l : List (Page × Row × Nat × Nat) := []) : State :=
  let s := Witness.regs ((pgPrt, Reg.PRT_STAT_STATE, 0, 1) :: l)
  { s with seq := { s.seq with runs := runs, due := due } }

/-- Work on an engine of CD_0 with the descriptor given. -/
def Witness.work (raw : List Byte) (f : Work → Work := id) (l : List (Page × Row × Nat × Nat) := []) : State :=
  let s := Witness.regs l
  let w : Work := ⟨0, 0, 0, 0, false, 0, 0, raw, false, false, [], 0, 0, false⟩
  { s with dies := s.dies.modify 0 (fun d => { d with engs := d.engs.modify 0 (fun e => { e with queue := [f w] }) }) }

theorem test_meets_queue :
    (let s := { State.reset with pending := [.tapReset, .nop] }
     s.pending = .tapReset :: [.nop]) ∧ State.reset.pending = [] ∧ State.wf State.reset = true ∧
    Piece.mem ∉ reach .tapReset := by decide

theorem test_meets_next :
    step State.reset = .next State.reset ∧
    exec .tapReset State.reset = .next { State.reset with boot := { State.reset.boot with tapReset := true } } := ⟨rfl, rfl⟩

theorem test_meets_LaneRepair :
    (19 < 20 ∧ 63 < 64 ∧ 1 < 2) ∧
    (let p := (portPage 19).1
     let up := Witness.regs [(p, Reg.PORT_P_STAT_STATE, 0, 3)]
     let s (f : Port → Port) : State := { up with links := { up.links with ports := up.links.ports.modify 19 f } }
     let worn := s (fun x => { x with recent := List.replicate 8 (63, 0) })
     let none2 := Witness.regs [(p, Reg.PORT_P_STAT_RX_SPARE_BAD, 0, 3)] worn
     (worn.links.ports.length = 21 ∧ portTakes worn 19 = true ∧ 8 ≤ ((portOf worn 19).recent.filter (fun e => e.1 = 63 ∧ worn.io.now < e.2 + 10000000)).length ∧
       rxRepaired worn 19 63 = false ∧ pickRxSpare worn 19 = some 0) ∧ (portTakes none2 19 = true ∧ rxRepaired none2 19 63 = false ∧ pickRxSpare none2 19 = none) ∧
     (let t := s (fun x => { x with rxSwitch := some (63, 1, 255) })
      (portOf t 19).rxSwitch = some (63, 1, 255) ∧ (portOf t 19).txSwitch = none) ∧
     (let t := s (fun x => { x with txSwitch := some (63, 0, 255) })
      (portOf t 19).txSwitch = some (63, 0, 255) ∧ (portOf t 19).rxSwitch = none) ∧
     txSpareFree up 19 1 = true ∧ rxSpareFree up 19 0 = true) := by decide

theorem test_meets_FlitReceive :
    let s0 := Witness.regs [((portPage 19).1, Reg.PORT_P_STAT_STATE, 0, 3)]
    let s := { s0 with links := { s0.links with ports := s0.links.ports.modify 19 (fun x => { x with credits := [31, 32, 8], fails := 2, owed := [16, 0, 0] }) } }
    let good : Flit := ⟨0x4E51000001000000, [], 0x4E51000001000000⟩
    s.links.ports.length = 21 ∧ portTakes s 19 = true ∧
    (badWires ⟨0, [], 1#64⟩ ≠ [] ∧ (portOf s 19).fails < 3) ∧
    (badWires good = [] ∧ crcHolds good = true ∧ hdrF good 0 2 ≠ 3 ∧ hdrF good 8 8 = ((portOf s 19).ack + 1) % 256 ∧ nth0 (portOf s 19).credits 0 + hdrF good 24 4 ≤ 32 ∧
      nth0 (portOf s 19).credits 1 + hdrF good 28 4 ≤ 32 ∧ nth0 (portOf s 19).credits 2 + hdrF good 32 2 ≤ 8) ∧ sumOf (portOf s 19).owed ≠ 0 := by decide +kernel

theorem test_meets_Discovery :
    let s := Witness.regs [(pgWlk, Reg.PORT_P_STAT_STATE, 0, 2), (pgWlk, Reg.PORT_P_STAT_STATE, 5, 2), (pgWlkd 3, Reg.WLKD_ID_ASSIGNED, 0, 1)]
    s.links.ports.length = 21 ∧ portF s 3 Reg.PORT_P_STAT_STATE ≠ 4 ∧ portF s 5 Reg.PORT_P_STAT_STATE = 2 ∧ s.links.ended.contains 5 = false ∧
    portF s 0 Reg.PORT_P_STAT_STATE = 2 ∧ s.links.ended.contains 0 = false ∧
    flag s (pgWlkd 3) Reg.WLKD_ID_ASSIGNED = true ∧ portF s (8 + 3 * 3) Reg.PORT_P_STAT_STATE ≠ 4 ∧ portF s (7 + 3 * 3) Reg.PORT_P_STAT_STATE ≠ 4 ∧ 0 = (3 + 1) % 4 := by
  decide

theorem test_meets_LoopTest :
    controls .mallet = true ∧
    (let s := Witness.regs [(pgSec, Reg.SEC_LC_STATE, 0, 2)]; lcState s = 2) ∧
    (let p := (portPage 19).1
     let s0 := Witness.regs [(p, Reg.PORT_P_LOOP_MODE, 0, 2), (p, Reg.PORT_P_LOOP_RUN, 0, 1), (pgSec, Reg.SEC_LC_STATE, 0, 1)]
     let s := { s0 with links := { s0.links with alone := [portDie 19] } }
     lcState s ≠ 2 ∧ s.links.alone.contains (portDie 19) = true ∧ portF s 19 Reg.PORT_P_LOOP_MODE = 2 ∧ portF s 19 Reg.PORT_P_LOOP_RUN = 1 ∧ (some 127).getD 0 < 128) := by
  decide

theorem test_meets_PartnerPort :
    controls (.core 0) = true ∧
    (let s := Witness.regs [(pgUci, Reg.UCI_STAT_STATE, 0, 1), (pgHubId, Reg.HUB_ID_PART_VARIANT, 0, 1)]
     getF s pgUci Reg.UCI_STAT_STATE = 1 ∧ getF s pgHubId Reg.HUB_ID_PART_VARIANT = 1) ∧
    (let s := Witness.regs [(pgUci, Reg.UCI_STAT_STATE, 0, 3), (pgUci, Reg.UCI_PWR_LIMIT_LIMIT, 0, 20)]
     uciRuns s = true ∧ getF s pgUci Reg.UCI_PWR_LIMIT_LIMIT = 20) ∧
    (let s := Witness.regs [(pgUci, Reg.UCI_STAT_STATE, 0, 4)]; getF s pgUci Reg.UCI_STAT_STATE = 4) := by decide

theorem test_meets_PageHeaderWrites :
    controls .host = true ∧ hostDenied (.hub 0x5C) = false ∧ blkOf (.hub 0x62) ≠ none ∧ 0x62 < 0x63 ∧
    pageCap (.hub 0x22) 2 = false ∧ (pageCap (.hub 0x21) 2 = true ∧ locked State.reset (.hub 0x21) = false ∧ ownerFails State.reset (.hub 0x21) 15 = false ∧
      ownerFails State.reset (.hub 0x21) 0xFF = false) := by decide

theorem test_meets_PageControl :
    controls (.core 7) = true ∧ blkOf pgDbg ≠ none ∧ State.reset.wf = true ∧
    (flag State.reset (.hub 0x21) Reg.HDR_PAGE_STAT_FROZEN = false) ∧
    (pageCap (.hub 0x21) 0 = true ∧ locked State.reset (.hub 0x21) = false ∧ blockInUse State.reset (.hub 0x21) = false) ∧
    (let s := Witness.regs [(.hub 0x21, Reg.HDR_LOCK, 0, 1), (.hub 0x21, Reg.HDR_PAGE_CTL_ENABLE, 0, 1)]
     locked s (.hub 0x21) = true ∧ flag s (.hub 0x21) Reg.HDR_PAGE_CTL_ENABLE = true) ∧
    (pageCap (.hub 0x21) 1 = true ∧ blkOf (.hub 0x21) ≠ some .trk ∧ blkOf (.hub 0x21) ≠ some .dbg) := by decide

theorem test_meets_DeviceAccess :
    controls .host = true ∧ isLoWord pgAcct 0x1F8 = true ∧ blkOf pgAcct ≠ none ∧
    (let s := { State.reset with io := { State.reset.io with latch := [(pageBase pgAcct + 0x1F8 + 4, 7)] } }
     s.io.latch.head? = some (pageBase pgAcct + 0x1F8 + 4, 7)) ∧
    (0x04000000 ≤ 0x05FFFFFF ∧ ([1] : List Byte) ≠ [] ∧ 0x05FFFFFF + ([1] : List Byte).length ≤ 0x06000000) ∧
    Agent.mallet ≠ .host ∧ locked State.reset pgDbg = false := by decide

theorem test_meets_AccessRefused :
    blkOf (.hub 0x62) ≠ none ∧ dataMaster .ingest = true ∧ partOf .ingest = none ∧ 0xFFC % 4 = 0 ∧ hostDenied (.hub 0x62) = true ∧ controls .mallet = true ∧ 0xFFD % 4 ≠ 0 := by
  decide

theorem test_meets_Timebase :
    let cyc (st : Nat) (f : Cyc → Cyc) (l : List (Page × Row × Nat × Nat) := []) : State :=
      let s := Witness.regs ((pgCyc, Reg.CYC_STAT_STATE, 0, st) :: l)
      { s with cyc := f s.cyc }
    controls (.core 0) = true ∧
    (let s := cyc 0 id [(pgCyc, Reg.CYC_PERIOD_NOM_PERIOD, 0, 16666665)]; cycState s = 0 ∧ periodNom s < 16666666) ∧
    (let s := cyc 0 id [(pgCyc, Reg.CYC_PERIOD_NOM_PERIOD, 0, 16666666)]; cycState s = 0 ∧ ¬ (periodNom s < 16666666 ∨ 100000000 < periodNom s)) ∧
    (let s := cyc 3 id; barsRun s = true ∧ getF s pgCyc Reg.CYC_CTL_SRC = 0) ∧
    (let s := cyc 1 id; cycState s = 1 ∧ s.cyc.run = 0 ∧ barsRun s = false) ∧
    (let s := cyc 1 (fun c => { c with run := 2, lastEdge := 1 }); s.cyc.run = 2 ∧ goodInterval s ((periodNom s + 1 : Nat) - s.cyc.lastEdge) = true) ∧
    (let s := cyc 1 (fun c => { c with run := 3, lastEdge := 1 }); s.cyc.run = 3 ∧ goodInterval s ((periodNom s + 1 : Nat) - s.cyc.lastEdge) = true) ∧
    (let s := cyc 2 id; inWindow 2000 s.cyc.bound = true ∧ s.cyc.resolved = false ∧ s.cyc.prevEdge = none ∧ inWindow 2001 s.cyc.bound = false) ∧
    (let s := cyc 3 (fun c => { c with resolved := true, missed := 3 }); barsRun s = true ∧ s.cyc.resolved = true ∧ s.cyc.early = none ∧ lossDue s = false) ∧
    (let s := cyc 3 (fun c => { c with missed := 4 }); holdMax s ≤ s.cyc.missed) := by decide

theorem test_meets_WarningCodes :
    codeWarns 0x60 = true ∧ codeWarns 0x64 = false ∧ codeWarns 0x6F = true ∧ codeWarns 0x70 = true ∧ codeWarns 0x7A = false ∧ codeWarns 0x7F = true := by decide

theorem test_meets_StrokesFire :
    let s (k : Stroke) (l : List (Page × Row × Nat × Nat) := []) : State := Witness.seq [] [(4095, 0, k)] l
    let fires (s : State) (k : Stroke) (op : Nat) : Bool := decide (s.seq.due = (4095, 0, k) :: [] ∧ voided s k = false ∧ gated s (stPart k) 0 = false ∧ stOp k = op)
    fires (s (Witness.stroke 1 0)) (Witness.stroke 1 0) 1 ∧ fires (s (Witness.stroke 2 0)) (Witness.stroke 2 0) 2 ∧
    (let k := Witness.stroke 3 0 (8 * 2 ^ 48)
     fires (s k) k 3 ∧ lineReached (s k) (stStream k) (stBudget k) = false ∧ lineReached (s k [(pgIng 0, Reg.ING_STAT_POS, 0, 8)]) (stStream k) (stBudget k) = true ∧
       fires (s k [(pgIng 0, Reg.ING_STAT_POS, 0, 8)]) k 3) ∧
    fires (s (Witness.stroke 4 0)) (Witness.stroke 4 0) 4 ∧ fires (s (Witness.stroke 5 0)) (Witness.stroke 5 0) 5 ∧ fires (s (Witness.stroke 7 0)) (Witness.stroke 7 0) 7 := by
  decide

theorem test_meets_FuseStarts :
    let k := Witness.stroke 6 0 (0x100000 * 2 ^ 80)
    let x := firedRun 5 k 0
    (let s := Witness.seq [] [(5, 0, k)]
     s.seq.due = (5, 0, k) :: [] ∧ voided s k = false ∧ gated s (stPart k) 0 = false ∧ stOp k = 6 ∧ (∀ x ∈ s.seq.runs, stOp x.raw = 6 → x.phase ≠ .active) ∧
       s.fus.job = none ∧ predOf (addRun x s) x [5] = none) ∧
    (let s := Witness.seq [firedRun 4 (Witness.stroke 5 0) 0] [(5, 0, k)]
     voided s k = false ∧ gated s (stPart k) 0 = false ∧ (∀ x ∈ s.seq.runs, stOp x.raw = 6 → x.phase ≠ .active) ∧ fuseReady (addRun x s) x = false) ∧
    (let s0 := Witness.seq [] [(5, 0, k)]
     let s := { s0 with parts := s0.parts.modify 0 (fun p => { p with cfg := { p.cfg with wins := [⟨0x04000000, 0x04000040, false⟩] } }) }
     voided s k = false ∧ s.fus.job = none ∧ predOf (addRun x s) x [5] = none ∧ accRefused s 0 (stPart k) ⟨false, 0, stDesc k * 64, 64⟩ = none ∧
       (bitsSet 8 (dF (memBytes s (stDesc k * 64) 64) 0 0 8)).contains 2 = false ∧ (bitsSet 8 (dF (memBytes s (stDesc k * 64) 64) 0 0 8)).contains 6 = false) := by decide

theorem test_meets_StrokesUngated :
    (let k := Witness.stroke 8 0
     let s := Witness.seq [] [(0, 0, k)]
     s.seq.due = (0, 0, k) :: [] ∧ stOp k = 8 ∧ partState s (stPart k) = 1) ∧ stOp (Witness.stroke 9 15) = 9 ∧
    (let k := Witness.stroke 10 0
     let s (i : Nat) := Witness.seq [] [(0, 0, k)] [(pgSeq, Reg.SEQ_TBL_STAT_SHADOW, 0, 4), (pgSeq, Reg.SEQ_TBL_STAT_ISL_PENDING, 0, i), (pgSeq, Reg.SEQ_TBL_STAT_CORE_PENDING, 0, 1 - i)]
     ∀ i < 2, (s i).seq.due = (0, 0, k) :: [] ∧ stOp k = 10 ∧ (s i).seq.committed = none ∧ getF (s i) pgSeq Reg.SEQ_TBL_STAT_SHADOW = 4 ∧
       (getF (s i) pgSeq Reg.SEQ_TBL_STAT_ISL_PENDING = 1 ∨ getF (s i) pgSeq Reg.SEQ_TBL_STAT_CORE_PENDING = 1)) ∧
    getF State.reset pgSeq Reg.SEQ_TBL_STAT_SHADOW ≠ 4 := by decide

theorem test_meets_StrokesVoidedOrHeld :
    ∀ c ∈ [(1, Instr.run), (2, .runPaired), (3, .waitLines), (4, .barrier), (6, .fuse)],
      (let k := Witness.stroke c.1 1
       let s := Witness.seq [] [(0, 0, k)]
       s.seq.due = (0, 0, k) :: [] ∧ stOp k = c.1 ∧ voided s k = true) ∧
      (let k := Witness.stroke c.1 0
       let s := Witness.seq [Witness.run 4] [(0, 0, k)]
       s.seq.due = (0, 0, k) :: [] ∧ voided s k = false ∧ gated s (stPart k) 0 = true) := by decide

theorem test_meets_StrokesEnd :
    (let r := Witness.run 3 (64 * 2 ^ 32)
     let s := Witness.seq [r] [] [(pgIng 0, Reg.ING_STAT_POS, 0, 0)]
     openGate s 0 3 = some r ∧ linesThere s r = true ∧ pastD s r = false) ∧
    (let r := Witness.run 4 (64 * 2 ^ 32)
     let s := Witness.seq [r]
     openGate s 0 4 = some r ∧ runsEnded s r = true ∧ pastD s r = false ∧ crossSet s 0 = none) ∧
    (let r := Witness.run 3
     let s := Witness.seq [r]
     s.seq.runs.find? (fun x => stPart x.raw = 0 && gateOpen x && pastD s x) = some r ∧ (∀ x ∈ s.seq.runs, stOp x.raw ≠ 7)) ∧
    (let r := Witness.run 1
     activeRun (Witness.seq [r]) 5 = some r ∧ stIsRun r.raw = true ∧ r.targets = []) ∧
    (let r := { Witness.run 2 with targets := [(0, 0)] }
     activeRun (Witness.seq [r]) 5 = some r ∧ stIsRun r.raw = true ∧ r.targets ≠ []) ∧
    (let r := Witness.run 5
     let s := Witness.seq [r]
     activeRun s 5 = some r ∧ stOp r.raw = 5 ∧ (collectSet s r).all (fun x => !runOpen x) = true ∧ undrained s (collectSet s r) = false) ∧
    (let r := Witness.run 7
     let c := { firedRun 4 (Witness.stroke 5 0) 0 with phase := .done, failed := true }
     activeRun (Witness.seq [c, r]) 5 = some r ∧ stOp r.raw = 7 ∧ (emitPred (Witness.seq [c, r]) r) = (true, true) ∧
       (let s := Witness.seq [{ c with phase := .active }, r]
        activeRun s 5 = some r ∧ (emitPred s r).1 = false ∧ pastD s r = true)) := by decide

theorem test_meets_TickAndDrain :
    (let s := Witness.regs [(pgCyc, Reg.CYC_STAT_STATE, 0, 2), (pgCyc, Reg.CYC_STAT_TICK, 0, 65534)]
     barsRun s = true ∧ curTick s < 65535 ∧ (∀ r ∈ s.seq.runs, r.carry = false) ∧ seqState s ≠ 2) ∧
    (let s := Witness.regs [(pgCyc, Reg.CYC_STAT_STATE, 0, 3), (pgCyc, Reg.CYC_STAT_TICK, 0, 65533), (pgSeq, Reg.SEQ_TBL_STAT_SEQ_STATE, 0, 2)]
     barsRun s = true ∧ seqState s = 2 ∧ curTick s < 65534) ∧
    (let e : ResEntry := ⟨0, 3, 15, 63, 0, false, false, 0, 0, 0, 0⟩
     let s := { State.reset with dies := State.reset.dies.modify 3 (fun d => { d with resq := d.resq.set 15 [e] }) }
     drainOrder s = 63 :: [] ∧ (dieOf s (63 / 16)).resq.getD (63 % 16) [] = e :: [] ∧ e.epoch ≠ getF s pgSeq Reg.SEQ_EPOCH % 64) := by decide

theorem test_meets_TableRequests :
    let s (l : List (Row × Nat)) (f : Seq → Seq := id) : State :=
      let s := Witness.regs (l.map (fun x => (pgSeq, x.1, 0, x.2)))
      { s with seq := f s.seq }
    controls (.island 1) = true ∧ (s [] (fun x => { x with fallback := some 3 })).seq.fallback ≠ none ∧
    (State.reset.seq.committed = none ∧ State.reset.seq.fallback = none ∧ getF State.reset pgSeq Reg.SEQ_SHADOW_LEN = 0) ∧
    (let t := s [(Reg.SEQ_SHADOW_LEN, 4096)]; t.seq.committed = none ∧ t.seq.fallback = none ∧ 0 < getF t pgSeq Reg.SEQ_SHADOW_LEN ∧ getF t pgSeq Reg.SEQ_SHADOW_LEN ≤ 4096) ∧
    (4096 < getF (s [(Reg.SEQ_SHADOW_LEN, 4097)]) pgSeq Reg.SEQ_SHADOW_LEN) ∧
    (let t := s [(Reg.SEQ_TBL_STAT_SHADOW, 2)] (fun x => { x with shadow := [0] }); shadowState t ≠ 1 ∧ shadowState t ≠ 6 ∧ t.seq.fallback = none ∧ t.seq.shadow ≠ [] ∧ t.seq.chk = none) ∧
    (shadowState State.reset ≠ 1 ∧ shadowState State.reset ≠ 6 ∧ State.reset.seq.shadow = [] ∧ shadowState State.reset ≠ 4) ∧
    (let t := s [(Reg.SEQ_TBL_STAT_SHADOW, 4), (Reg.SEQ_TBL_STAT_SEQ_STATE, 1)]; shadowState t = 4 ∧ seqState t ≠ 0 ∧ seqState t ≠ 2 ∧ inCharge t (.island 1) = false) ∧
    (let t := s [(Reg.SEQ_TBL_STAT_SHADOW, 4)]; shadowState t = 4 ∧ seqState t = 0 ∧ t.seq.runs = []) ∧
    (let t := Witness.regs [(pgClap, Reg.CLAP_STAT_STATE, 0, 2), (pgClap, Reg.CLAP_STAT_HOLDER, 0, 1)] (s [(Reg.SEQ_TBL_STAT_SHADOW, 4), (Reg.SEQ_TBL_STAT_SEQ_STATE, 2)])
     shadowState t = 4 ∧ seqState t ≠ 0 ∧ inCharge t (.island 1) = true ∧ seqState t = 2) := by decide

theorem test_meets_TableResults :
    (let s := Witness.regs [(pgSeq, Reg.SEQ_TBL_STAT_SHADOW, 0, 1)]; shadowState s = 1 ∧ s.seq.fallback = none) ∧
    (let s0 := Witness.regs [(pgSeq, Reg.SEQ_TBL_STAT_SHADOW, 0, 3)]
     let s (l : List Stroke) : State := { s0 with seq := { s0.seq with chk := some (true, 7), shadow := l } }
     shadowState (s []) = 3 ∧ (s []).seq.chk = some (true, 7) ∧
     (∃ i c, admitTable { s [0] with seq := { (s [0]).seq with chk := none } } (s [0]).seq.shadow = .refuse i c) ∧
     (let n := Witness.stroke 9 0 (2 ^ 127)
      ∃ k i, admitTable { s [n] with seq := { (s [n]).seq with chk := none } } (s [n]).seq.shadow = .pass k i)) ∧
    (let s := { State.reset with seq := { State.reset.seq with fallback := some 3 } }; s.seq.fallback = some 3 ∧ s.seq.committed = none) := by
  refine ⟨by decide, ⟨by decide, by decide, ⟨_, _, rfl⟩, ⟨_, _, rfl⟩⟩, by decide⟩

theorem test_meets_Dispatch :
    let raw (w : Nat) (q : Nat) : List Byte := leBytes 4 (w * 2 ^ 22) ++ leBytes 4 (q * 2 ^ 28) ++ List.replicate 56 0
    let c (toks : List Nat) (raw : List Byte) : Ctx := ⟨0, 0, 0, 0, false, [(7, raw)], toks, [0]⟩
    let s (x : Ctx) (l : List (Page × Row × Nat × Nat) := []) : State :=
      let s := Witness.regs ((pgSpare 3, Reg.SPARE_MAP, 0, 0x91) :: (pgPe 3 17, Reg.PE_ENG_STAT_STATE, 0, 4) :: l)
      { s with dies := s.dies.modify 3 (fun d => { d with ctxs := d.ctxs.set 15 (some x) }) }
    ((dieOf (s (c [] (raw 63 0))) 3).ctxs.getD 15 none = some (c [] (raw 63 0)) ∧ (c [] (raw 63 0)).list = (7, raw 63 0) :: [] ∧
      ¬ (dWait0 (raw 63 0) = 0 ∨ (c [] (raw 63 0)).tokens.contains (dWait0 (raw 63 0)) = true)) ∧
    (let x := c [63] (raw 63 0)
     let t := s x
     (dieOf t 3).ctxs.getD 15 none = some x ∧ (dWait0 (raw 63 0) = 63 ∧ x.tokens.contains 63 = true) ∧ dWait1 (raw 63 0) = 0 ∧ targetOf x (raw 63 0) = some 0 ∧ (dieOf t 3).lostEng.contains 0 = false ∧
      slotOf t 3 0 = some 17 ∧ 17 < (dieOf t 3).engs.length ∧ (engOf t 3 17).queue.length < 2 ∧ (engOf t 3 17).rejoin = false ∧ engineUp t 3 17 = true ∧
      x.epoch = getF t (pgPe 3 17) Reg.PE_ENG_EPOCH % 64 ∧ dQtrk (raw 63 0) = 0) := by decide

theorem test_meets_Descriptors :
    let mapped := [(pgSpare 0, Reg.SPARE_MAP, 0, 0x80)]
    let raw (k : Nat) : List Byte := leBytes 4 k ++ List.replicate 8 0 ++ (List.replicate 3 [0, 0, 3, 0, 0, 0, 0, 0]).flatten ++ List.replicate 28 0
    let holds (s : State) (x : Work) : Bool := decide (running s 0 0 = some (0, x) ∧ 0 < s.dies.length ∧ 0 < (dieOf s 0).engs.length)
    let w (k : Nat) (f : Work → Work) : Work := f ⟨0, 0, 0, 0, false, 0, 0, raw k, false, false, [], 0, 0, false⟩
    let s (k : Nat) (f : Work → Work) (l : List (Page × Row × Nat × Nat) := []) : State := Witness.work (raw k) f (mapped ++ l)
    (holds (s 11 id) (w 11 id) = true ∧ dKind (raw 11) ≠ 4 ∧ descRefused (s 11 id) ⟨0, 0, 0⟩ (w 11 id) = none ∧ dPost (raw 11) = false) ∧
    (let f := fun (x : Work) => { x with waiting := true }
     holds (s 11 f) (w 11 f) = true ∧ (w 11 f).waiting = true ∧ mustWait (s 11 f) (raw 11) = false) ∧
    (let f := fun (x : Work) => { x with pair := true }
     let t := { s 11 f with dies := (s 11 f).dies.modify 0 (fun d => { d with resq := d.resq.set 0 (List.replicate 8 ⟨0, 0, 0, 0, 0, false, false, 0, 0, 0, 0⟩) }) }
     holds t (w 11 f) = true ∧ (w 11 f).pair = true ∧ descRefused t ⟨0, 0, 0⟩ (w 11 f) = none ∧ 8 ≤ ((dieOf t 0).resq.getD 0 []).length) ∧
    (holds (s 4 id) (w 4 id) = true ∧ dKind (raw 4) = 4 ∧ (w 4 id).spectral = false ∧ getF (s 4 id) (pgSpec 0) Reg.SPEC_STAT_BUSY = 0) ∧
    (let f := fun (x : Work) => { x with spectral := true }
     let t := s 4 f [(pgSpec 0, Reg.SPEC_STAT_BUSY, 0, 1)]
     holds t (w 4 f) = true ∧ (w 4 f).spectral = true ∧ getF t (pgSpec 0) Reg.SPEC_STAT_BUSY = 1 ∧ getF t (pgSpec 0) Reg.SPEC_STAT_ENGINE = 0) := by decide

theorem test_meets_EngineFaults :
    let s (n : Nat) (l : List (Page × Row × Nat × Nat) := []) : State := Witness.regs ((pgPe 3 17, Reg.PE_ENG_STAT_STATE, 0, n) :: l)
    (3 < (s 5).dies.length ∧ 17 < (dieOf (s 5) 3).engs.length) ∧ (∀ n < 8, getF (s n) (pgPe 3 17) Reg.PE_ENG_STAT_STATE = n) ∧
    ((spares State.reset 3).contains 17 = true ∧ barsRun State.reset = false) ∧
    (let t := s 6 [(pgCdId 3, Reg.CD_ID_SVC, 0, 1)]; controls .mallet = true ∧ inService t 3 = true ∧ getF t (pgPe 3 17) Reg.PE_ENG_STAT_STATE = 6) ∧
    getF (s 6 [(pgPe 3 17, Reg.PE_ENG_TEST_RUN, 0, 1)]) (pgPe 3 17) Reg.PE_ENG_TEST_RUN = 1 := by decide

theorem test_meets_DieRequests :
    let s (l : Nat) := Witness.regs [(pgCdId 3, Reg.CD_ID_SVC, 0, 1), (pgSch 3, Reg.HDR_LOCK, 0, l)]
    controls .host = true ∧ (inService (s 0) 3 = true ∧ locked (s 0) (pgSch 3) = false) ∧ (inService (s 1) 3 = true ∧ locked (s 1) (pgSch 3) = true) ∧
    (let v := BitVec.ofNat 32 (getF (s 1) (pgSch 3) Reg.SCH_SLEEP_PEND); v.toNat % 65536 = getF (s 1) (pgSch 3) Reg.SCH_SLEEP_PEND ∧ (v + 1).toNat % 65536 ≠ getF (s 1) (pgSch 3) Reg.SCH_SLEEP_PEND) := by
  decide

theorem test_meets_OneAlignedWord :
    controls .host = true ∧ 0x40000000 ≤ 0x40000041 ∧ ([0] : List Byte) ≠ [] ∧ target State.reset 0x40000041 = .inr (.hub 0, 0x41) ∧ 0x40000041 % 4 ≠ 0 ∧
    target State.reset 0x61001FFC = .inr (.wlki 1, 0xFFC) ∧ ([0, 0] : List Byte).length ≠ 4 := by decide

theorem test_meets_LoopWritesIgnored :
    let s := Witness.regs [(pgSec, Reg.SEC_LC_STATE, 0, 2)]
    lcState s = 2 ∧ partOf .host = none ∧ controls (.core 0) = true ∧ partOf .ingest = none := by decide

theorem test_meets_DisplacedEdges :
    let s (f : Cyc → Cyc) : State :=
      let s := Witness.regs [(pgCyc, Reg.CYC_STAT_STATE, 0, 3)]
      { s with cyc := f s.cyc }
    let c := fun (c : Cyc) => { c with len := 42000 * 25000000 }
    barsRun (s c) = true ∧ getF (s c) pgCyc Reg.CYC_CTL_SRC = 0 ∧ (inWindow 2001 (s c).cyc.bound = false ∧ inWindow 2001 (nextBound (s c)) = false) ∧
    (let t := s (fun x => { c x with resolved := true }); inWindow 2000 t.cyc.bound = true ∧ t.cyc.resolved = true) ∧
    (let t := s (fun x => { c x with early := some 24999999 }); inWindow 25002000 t.cyc.bound = false ∧ inWindow 25002000 (nextBound t) = true ∧ t.cyc.early ≠ none) := by decide

theorem test_meets_Mailboxes :
    let route (c a b : Nat) : List (Page × Row × Nat × Nat) := [(pgMbx, Reg.MBX_ROUTE_SENDER, c, a), (pgMbx, Reg.MBX_ROUTE_RECEIVER, c, b)]
    controls (.core 7) = true ∧
    (let s := Witness.regs (route 61 7 0xA)
     endpointOf .host ≠ (routeOf s 61).1 ∧ endpointOf (.core 7) ≠ (routeOf s 61).2 ∧ endpointOf (.core 7) = (routeOf s 61).1 ∧ (routeOf s 61).1 ≠ 0xF ∧ (routeOf s 61).2 ≠ 0xF ∧ chanFull s 61 = false ∧
       endpointOf .host = (routeOf s 61).2) ∧
    (let s := Witness.regs ((pgMbx, Reg.MBX_FULL, 1, 2 ^ 29) :: route 61 7 0xA); endpointOf (.core 7) = (routeOf s 61).1 ∧ chanFull s 61 = true) ∧
    511 ∉ State.reset.mbx.claimed ∧ (511 ∈ ({ State.reset with mbx := { State.reset.mbx with claimed := [511] } }).mbx.claimed) ∧
    (let s0 := Witness.regs [(pgClap, Reg.CLAP_STAT_STATE, 0, 1), (pgClap, Reg.CLAP_STAT_HOLDER, 0, 1)]
     let s := { s0 with mbx := { s0.mbx with warn := [5] } }
     islandInCharge s = some 1 ∧ s.mbx.warn = 5 :: [] ∧ chanFull s (62 + 1) = false) := by decide

theorem test_meets_Mailboxes_claim :
    let s := Witness.regs [(pgMbx, Reg.MBX_FREE_PEND, 1, 2 ^ 31), (pgIntc, Reg.INTC_ROUTE_CTX, 511, 18), (pgIntc, Reg.INTC_ROUTE_PRIO, 511, 1)]
    qualifies s 18 511 = true ∧ (∀ j < 511, qualifies s 18 j = false) ∧ ∀ j < 512, qualifies State.reset 18 j = false := by decide +kernel

theorem test_meets_LearnedRegionRequests :
    let s (st : Nat) (l : List (Page × Row × Nat × Nat) := []) : State :=
      Witness.regs ((pgAdm, Reg.ADM_LREG_CTL_STATE, 7, st) :: (pgAdm, Reg.ADM_LREG_LEN, 7, 1048576) :: l)
    controls (.island 0) = true ∧ (s 0).lrn.req.length = 8 ∧ (∀ n < 6, lregState (s n) 7 = n ∧ reqPending (s n) 7 = none ∧ ckptBusy (s n) 7 = false ∧ lregTorn (s n) 7 = false) ∧
    (0 < getFi (s 0) pgAdm Reg.ADM_LREG_LEN 7 ∧ getFi (s 0) pgAdm Reg.ADM_LREG_LEN 7 ≤ 1048576) ∧ lregOverlaps (s 0) 7 = false ∧
    (let t := s 1 [(pgAdm, Reg.ADM_LREG_CTL_TORN, 7, 1)]; lregState t 7 = 1 ∧ lregTorn t 7 = true) ∧
    heldTouches (s 1) 7 (fun _ x => x.wr) = false ∧ heldTouches (s 4) 7 (fun k x => stClass k = 0 && !x.wr) = false ∧
    (let t := s 3 [(pgClap, Reg.CLAP_STAT_STATE, 0, 1), (pgAdm, Reg.ADM_LREG_DIGEST, 7, 2 ^ 32 - 1)]
     inCharge t (.island 0) = true ∧ lregState t 7 = 3 ∧ (0xFFFFFFFF : Word).toNat = getFi t pgAdm Reg.ADM_LREG_DIGEST 7) ∧
    ckptBusy (s 3 [(pgAdm, Reg.ADM_LREG_CTL_CKPT_BUSY, 7, 1)]) 7 = true ∧ getFi State.reset pgAdm Reg.ADM_LREG_LEN 7 = 0 ∧
    (let t := s 0 [(pgAdm, Reg.ADM_LREG_CTL_STATE, 0, 1), (pgAdm, Reg.ADM_LREG_LEN, 0, 1)]; lregState t 7 = 0 ∧ lregOverlaps t 7 = true) ∧ inCharge (s 3) (.island 0) = false := by decide

theorem test_meets_LearnedRegionContents :
    let s (st : Nat) (l : List (Page × Row × Nat × Nat) := []) : State := Witness.regs ((pgAdm, Reg.ADM_LREG_CTL_STATE, 7, st) :: (pgAdm, Reg.ADM_LREG_LEN, 7, 16384) :: l)
    let g : LGen := ⟨[], 0, 0, 0, 0, 65535, 255, 2 ^ 32 - 1⟩
    (s 2).lrn.gens.length = 8 ∧ (s 2).lrn.ckpt.length = 8 ∧ lregState (s 2) 7 = 2 ∧ controls (.core 0) = true ∧
    ckptBusy (s 3 [(pgAdm, Reg.ADM_LREG_CTL_CKPT_BUSY, 7, 1)]) 7 = true ∧ (ckptBusy (s 5) 7 = false ∧ lregTorn (s 5) 7 = false ∧ lregState (s 5) 7 ≠ 3 ∧ lregState (s 5) 7 ≠ 4) ∧
    (let t := s 4 [(pgLdg, Reg.LDG_STAT_STATE, 0, 2), (pgHld, Reg.HLD_STAT_STATE, 0, 3)]
     ckptBusy t 7 = false ∧ lregTorn t 7 = false ∧ lregState t 7 = 4 ∧ (lregRange t 7).2 ≤ 1048576 ∧ keptRecs t 7 + genRecs (lregRange t 7).2 ≤ 1586 ∧ mayWrite t = true) ∧
    (let t := { State.reset with lrn := { State.reset.lrn with ckpt := State.reset.lrn.ckpt.set 7 (some g) } }; t.lrn.ckpt.getD 7 none = some g ∧ g.num < 65536) ∧
    (let t := { s 5 with lrn := { (s 5).lrn with gens := (s 5).lrn.gens.set 7 (some g, none) } }
     lregState t 7 = 5 ∧ (t.lrn.gens.getD 7 (none, none)).1 = some g ∧ getFi t pgAdm Reg.ADM_LREG_CTL_GEN 7 = 0 ∧ restoreCause t 7 true (some g) = none ∧ g.lsExp < 256 ∧ g.optT < 2 ^ 32 ∧
       restoreCause t 7 false (some g) = some 4) ∧ restoreCause (s 5) 7 true none = some 1 := by decide

theorem test_meets_OptimiserSteps :
    let raw (mode : Nat) : List Byte :=
      leBytes 4 9 ++ leBytes 4 (7 * 256 + 7 * 65536) ++ leBytes 4 0x100000 ++ leBytes 4 0 ++ leBytes 4 0x100001 ++ leBytes 4 0 ++ leBytes 4 0x100002 ++ leBytes 4 0 ++
      List.replicate 8 0 ++ leBytes 4 (1 + mode * 2 ^ 24) ++ List.replicate 20 0
    let s (mode : Nat) (f : Work → Work) : State :=
      let s := Witness.work (raw mode) f [(pgSpare 0, Reg.SPARE_MAP, 0, 0x80)]
      { s with parts := s.parts.modify 0 (fun p => { p with cfg := { p.cfg with wins := [⟨0x04000000, 0x06000000, true⟩] } }) }
    let w (mode : Nat) (f : Work → Work) : Work := f ⟨0, 0, 0, 0, false, 0, 0, raw mode, false, false, [], 0, 0, false⟩
    let skip (x : Work) : Work := { x with noApply := true }
    (∀ m < 3, running (s m id) 0 0 = some (0, w m id) ∧ 0 < (s m id).dies.length ∧ 0 < (dieOf (s m id) 0).engs.length ∧ dKind (raw m) = 9 ∧ dQtrk (raw m) = 0 ∧ (∀ i, i < 3 → dSp (raw m) i ≠ 3) ∧
      descRefused (s m id) ⟨0, 0, 0⟩ (w m id) = none ∧ dPost (raw m) = false ∧ oMode (raw m) = m ∧ oCount (raw m) = 1) ∧
    running (s 2 skip) 0 0 = some (0, w 2 skip) ∧
    (let p (x n : Nat) := accAddr 0 ⟨true, dSp (raw 2) x, dAddr (raw 2) x * 64, n⟩
     p 2 1 = some 0x04000080 ∧ p 1 4 = some 0x04000040 ∧ lregDiscard (s 0 id) 0x04000080 1 = none ∧ lregDiscard (s 2 id) 0x04000040 4 = none) := by decide

theorem test_meets_EthernetLinks :
    let gate : Gates := ⟨[(255, 32), (1, 1000000000)], 0, 255, none⟩
    (∀ x ∈ State.reset.eth.txq, x.1 < 8) ∧ controls .mallet = true ∧
    (let s := { State.reset with eth := { State.reset.eth with gates := State.reset.eth.gates.set 3 gate, txq := [(7, 7, [0])] } }
     (∀ x ∈ s.eth.txq, x.1 < 8) ∧ s.eth.gates[3]? = some gate ∧ gate.next.getD gate.list = (255, 32) :: [(1, 1000000000)] ∧ gate.list[gate.pos + 1]? = some (1, 1000000000) ∧ qbvWritten s 3 = []) ∧
    (let s := Witness.regs [(pgEth, Reg.ETH_QBV_LEN, 3, 1), (pgEth, Reg.ETH_QBV_INTERVAL, 3, 32)]
     s.eth.gates[3]? = some ⟨[], 0, 255, none⟩ ∧ qbvWritten s 3 ≠ [] ∧ (qbvWritten s 3).length ≤ 64 ∧ (qbvWritten s 3).all (fun e => 32 ≤ e.2 && e.2 ≤ 1000000000) = true) ∧
    (let s := Witness.regs [(pgEth, Reg.ETH_QBV_LEN, 3, 1), (pgEth, Reg.ETH_QBV_INTERVAL, 3, 31)]; ∃ e ∈ qbvWritten s 3, e.2 < 32 ∨ 1000000000 < e.2) ∧
    (let s := Witness.regs [(pgEth, Reg.ETH_MDIO_GO, 0, 1)]; getF s pgEth Reg.ETH_MDIO_GO = 1) := by decide

theorem test_meets_DeviceTime :
    let a : Announce := ⟨0, 128, 6, 33, 0, 128, 7, 0⟩
    let worse : Announce := { a with prio1 := 129 }
    let s (l : List (Row × Nat)) (b : Option (Nat × Announce) := none) : State :=
      let s := Witness.regs ((pgEth, Reg.ETH_PTP_CTL_ENABLE, 0, 1) :: (pgEth, Reg.ETH_PTP_CTL_PORTS, 0, 128) :: l.map (fun x => (pgEth, x.1, 0, x.2)))
      { s with eth := { s.eth with best := b } }
    (let t := s []; ptpReceiver t = true ∧ ptpPort t 7 = true ∧ ptpRxPort t = some 7 ∧ getF t pgEth Reg.ETH_PTP_CTL_ENABLE = 1) ∧
    (let t := s [(Reg.ETH_PTP_STAT_STATE, 2)]; ptpReceiver t = true ∧ getF t pgEth Reg.ETH_PTP_STAT_STATE = 2 ∧ t.ing.length = 24) ∧
    (let t := s [(Reg.ETH_PTP_CTL_ROLE, 1)]; controls .host = true ∧ ptpMaster t = true ∧ (getF t pgEth Reg.ETH_PTP_CTL_PORTS).testBit 7 = true) ∧
    (let t := s [(Reg.ETH_PTP_CTL_BMCA, 1)]; ptpReceiver t = true ∧ getF t pgEth Reg.ETH_PTP_CTL_BMCA = 1 ∧ ptpPort t 7 = true ∧ a.domain = getF t pgEth Reg.ETH_PTP_CTL_DOMAIN ∧ t.eth.best = none) ∧
    (lexLt (announceKey a) (announceKey worse) = true ∧ (s [(Reg.ETH_PTP_CTL_BMCA, 1)] (some (6, worse))).eth.best = some (6, worse)) ∧ lexLt (announceKey worse) (announceKey a) = false := by decide

theorem test_meets_Partitions :
    let s (st : Nat) (f : Part → Part := id) (l : List (Page × Row × Nat × Nat) := []) : State :=
      let s := Witness.regs ((pgPrt, Reg.PRT_STAT_STATE, 15, st) :: l)
      { s with parts := s.parts.modify 15 f }
    let held (l : List (Page × Row × Nat × Nat)) : State := { s 1 id l with seq := { (s 1).seq with active := [Witness.stroke 7 15] } }
    controls (.core 0) = true ∧ (let t := held [(pgPrt, Reg.PRT_QUOTA, 15, 8)]; (7 : Word).toNat < getFi t pgPrt Reg.PRT_QUOTA 15 ∧ holdsPart t 15 = true) ∧
    (getFi (s 1) pgPrt Reg.PRT_QUOTA 15 ≤ (0xFFFFFFFF : Word).toNat ∧ holdsPart (s 1) 15 = false) ∧
    (let t := held [(pgPrt, Reg.PRT_CTL_ENABLE, 15, 1)]; getFi t pgPrt Reg.PRT_CTL_ENABLE 15 = 1 ∧ (0x100 : Word).toNat % 2 = 0 ∧ holdsPart t 15 = true) ∧
    (getFi (s 1) pgPrt Reg.PRT_CTL_ENABLE 15 = 0 ∧ (0xFFF5 : Word).toNat.testBit 1 = false) ∧ (∀ n < 4, partState (s n) 15 = n) ∧
    inCharge (s 1 id [(pgClap, Reg.CLAP_STAT_STATE, 0, 2), (pgClap, Reg.CLAP_STAT_HOLDER, 0, 1)]) (.island 1) = true ∧ inCharge (s 1) (.island 1) = false ∧
    (let x := { Part.fresh with cfg := { Part.fresh.cfg with ovrLimit := 15 }, overruns := 15 }
     (s 1 (fun _ => x)).parts[15]? = some x ∧ x.cfg.ovrLimit ≠ 0 ∧ x.cfg.ovrLimit ≤ x.overruns) ∧ (s 1).parts[15]? = some Part.fresh ∧ Part.fresh.cfg.ovrLimit = 0 ∧ (s 1).pwr.rest.length = 6 := by decide

theorem test_meets_CameraFrames :
    let cfg : List Word := [3, 0x051124F3, 0x00010001, 0, 0x3F800000, 0, 0x00100000, 64, 0, 0x00002000, 0, 0, 0, 0]
    let frame : Frame := ⟨0, none, 0, 0, 0, true, [], 0, false, false, none, 0, 0, 0, 0, 0, false, false, false, false, 1⟩
    let s (f : Option Frame) (l : List (Page × Row × Nat × Nat) := []) : State :=
      let s := Witness.regs l
      { s with ing := s.ing.modify 23 (fun x => { x with cfg := cfg, frame := f }) }
    let bars := [(pgCyc, Reg.CYC_STAT_STATE, 0, 2)]
    ((s none).ing.length = 24 ∧ camStreams (s none) 3 15 (fun _ => true) = [23]) ∧
    (let t := s none bars; barsRun t = true ∧ (strmOf t 23).frame = none ∧ camStreams t 3 15 (fun _ => true) = [23]) ∧
    (let f := { frame with verdict := 2 }
     let t := s (some f) bars; barsRun t = true ∧ (strmOf t 23).frame = some f ∧ f.bar = barCount t ∧ arriving (strmOf t 23) = false) ∧
    (barsRun (s none) = false ∧ arriving (strmOf (s none) 23) = false) ∧
    (0x2C ≠ 0x12 ∧ camStreams (s none) 3 15 (fun c => cfgF c Reg.ING_SRC_DT = 0x2C) = []) ∧
    (let t := s (some frame); camStreams t 3 15 (fun c => cfgF c Reg.ING_SRC_DT = 0x24) = [23] ∧ (strmOf t 23).frame = some frame ∧ arriving (strmOf t 23) = true ∧ frame.ready = [] ∧
      ([1, 2, 3] : List Byte).length = linePayload cfg ∧ (frame.rows / cfgPy cfg + 1) * tensorPitch (cfgTensor cfg) ≤ cfgF cfg Reg.ING_BUF_LEN * 64 ∧
      (writeLine cfg [1, 2, 3] (frame.rows / cfgPy cfg) (frame.rows % cfgPy cfg) t).1 = true) ∧
    (let f := { frame with ready := [65535] }
     let t := s (some f); (strmOf t 23).frame = some f ∧ f.ready = 65535 :: [] ∧ strmF t 23 Reg.ING_LINE_MAX = 0 ∧ strmF t 23 Reg.ING_CTL_LTIME = 0) ∧
    (let t := s none ((pgIng 23, Reg.ING_STAT_HEALTH, 0, 1) :: bars); barsRun t = true ∧ strmKind t 23 = 1 ∧ barVerdict t 23 = 0 ∧ healthOf t 23 = 1 ∧ getF t (pgIng 23) Reg.ING_STAT_HEALTH = 1) ∧
    controls .host = true ∧ strmHeld (s none) 23 = false ∧ strmBars 0x74 0 1 = false ∧
    (let t := { s none with seq := { State.reset.seq with active := [Witness.stroke 3 0 (23 * 2 ^ 112)] } }
     strmBars 0x54 (regW t (pageBase (pgIng 23) + 0x54)).toNat (definedBits (pgIng 23) 0x54 1) = true ∧ strmHeld t 23 = true) := by decide

theorem test_meets_Resets :
    (let s := Witness.regs [(pgHubId, Reg.HUB_ID_WDOG_PERIOD, 0, 1)]
     getF s pgHubId Reg.HUB_ID_WDOG_PERIOD ≠ 0 ∧ s.boot.kickAt + getF s pgHubId Reg.HUB_ID_WDOG_PERIOD * 1000000 ≤ (at_ 1000000 s).io.now) ∧
    controls .host = true ∧ State.reset.isl.length = 2 ∧ flag (Witness.regs [(pgIsl 1, Reg.ISL_STAT_VALID, 0, 1)]) (pgIsl 1) Reg.ISL_STAT_VALID = true ∧ State.reset.boot.porst = false := by decide

theorem test_meets_BootStages :
    let s (st lc : Nat) (f : Boot → Boot := id) (l : List (Page × Row × Nat × Nat) := []) : State :=
      let s := Witness.regs ((pgHubId, Reg.HUB_ID_BOOT_STAT_STAGE, 0, st) :: (pgSec, Reg.SEC_LC_STATE, 0, lc) :: l)
      { s with boot := f s.boot }
    let image : Image := ⟨0x4C4B4931, 1, 0, 0x1800000, 0, 0, 0xFF, 0, true, true, false, true, [], [1]⟩
    (bootStage (s 1 0) = 1 ∧ (s 1 0).boot.wdog = false) ∧ (s 1 0 (fun b => { b with wdog := true })).boot.wdog = true ∧
    (let t := s 3 2 id [(pgWlk, Reg.WLK_CENSUS_DONE, 0, 1), (pgLdg, Reg.LDG_STAT_STATE, 0, 5)]
     bootStage t = 3 ∧ t.boot.census = false ∧ bootStopped t = false ∧ flag t pgWlk Reg.WLK_CENSUS_DONE = true ∧ ldgState t = 5 ∧ lcState t ≠ 0 ∧ lcState t ≠ 3) ∧
    (let t := s 4 2 id [(pgWlk, Reg.WLK_CENSUS_DONE, 0, 1)]; bootStage t = 4 ∧ flag t pgWlk Reg.WLK_CENSUS_DONE = true ∧ ldgState t ≠ 5) ∧
    (let t := s 4 0
     t.boot.image = none ∧ bootStopped t = false ∧ flag t pgLdg Reg.LDG_BOOT_TRIAL = false ∧ ([some image, none] : List (Option Image)).getD (bootActive t) none = some image ∧ verifyImage t (some image) = 0 ∧
       image.load * 64 + image.body.length ≤ 0x02000000 ∧ verifyImage t none ≠ 0) ∧
    (let t := s 4 0 (fun b => { b with image := some (0x04000000, some 3), census := true })
     t.boot.image = some (0x04000000, some 3) ∧ t.boot.census = true ∧ bootStopped t = false ∧ bootStage t = 4) ∧
    (let tok : LcToken := ⟨hubSerial State.reset, 1, 0, false, true, true, true⟩
     let t := s 5 0 id [(pgSec, Reg.SEC_LC_REQ_TARGET, 0, 1)]
     controls .mallet = true ∧ t.boot.burn = none ∧ flag t pgSec Reg.SEC_LC_PENDING = false ∧ tok.serial = hubSerial t ∧ tok.target = getF t pgSec Reg.SEC_LC_REQ_TARGET ∧ lcAllowed (lcState t) tok.target tok = true ∧ tok.target ≠ 3) ∧
    (let tok : LcToken := ⟨hubSerial State.reset, 3, 0, false, true, true, true⟩
     let t := s 5 2 id [(pgSec, Reg.SEC_LC_REQ_TARGET, 0, 3)]
     tok.serial = hubSerial t ∧ tok.target = getF t pgSec Reg.SEC_LC_REQ_TARGET ∧ lcAllowed (lcState t) tok.target tok = true ∧ tok.target = 3 ∧ lcAllowed (lcState t) 1 tok = false ∧
       (s 5 2 (fun b => { b with burn := some tok })).boot.burn = some tok) ∧
    (let t := s 5 2 id [(pgSec, Reg.SEC_KEYS_OWNER, 0, 15), (pgHubId, Reg.HUB_ID_BOOT_STAT_SI_A, 0, 1), (pgHubId, Reg.HUB_ID_BOOT_STAT_SI_B, 0, 1), (pgSec, Reg.SEC_IMG_KEY, 0, 0)]
     lcState t = 2 ∧ getF t pgSec Reg.SEC_IMG_KEY ≠ 3 ∧ (0 < 4 ∧ 0 ≠ 3 ∧ (getF t pgSec Reg.SEC_KEYS_OWNER).testBit 0 = true ∧ (getF t pgSec Reg.SEC_KEYS_REVOKED).testBit 0 = false) ∧
       flag t pgHubId Reg.HUB_ID_BOOT_STAT_SI_A = true ∧ flag t pgHubId Reg.HUB_ID_BOOT_STAT_SI_B = true) ∧ lcState (s 5 0) = 0 := by decide

theorem test_meets_MalletSessions :
    let s (lc ses : Nat) (f : Mal → Mal := id) (l : List (Page × Row × Nat × Nat) := []) : State :=
      let s := Witness.regs ((pgSec, Reg.SEC_LC_STATE, 0, lc) :: (pgDbg, Reg.DBG_MAL_SESSION, 0, ses) :: (pgDbg, Reg.DBG_MAL_OFF, 0, 0) :: l)
      { s with mal := f s.mal }
    (malStopped (s 0 0) = false ∧ production (s 0 0) = false ∧ production (s 2 2) = true ∧ session (s 2 2) = 2) ∧
    (528 ≤ baudDiv 3030303 ∧ baudDiv 1526 < 1048576 ∧ locked (s 0 0) pgDbg = false) ∧ (s 2 1 (fun m => { m with fails := 2 })).mal.fails < 3 ∧
    (let t := s 2 1 (fun m => { m with nonce := some (0, 0), slot := some 3, proof := List.replicate 193 0 }) [(pgSec, Reg.SEC_KEYS_OWNER, 0, 8)]
     proofOk (at_ 60000000000 t) true true = true ∧ proofOk (at_ 60000000001 t) true true = false) ∧
    ((s 0 0).mal.drop = false ∧ (s 0 0 (fun m => { m with buf := List.replicate 255 0 })).mal.buf.length < 256) ∧ malStopped (s 0 0 id [(pgDbg, Reg.DBG_MAL_OFF, 0, 1)]) = true ∧
    (session (s 2 1) ≠ 0 ∧ (s 2 1).mal.lineAt + 600000000000 ≤ (at_ 600000000000 (s 2 1)).io.now) := by decide +kernel

theorem test_meets_MalletAccess :
    let s (lc ses : Nat) (l : List (Page × Row × Nat × Nat) := []) : State := Witness.regs ((pgSec, Reg.SEC_LC_STATE, 0, lc) :: (pgDbg, Reg.DBG_MAL_SESSION, 0, ses) :: l)
    malStopped (s 0 0) = false ∧ (0x05FFFFFC % 4 = 0 ∧ 0x04000000 ≤ 0x05FFFFFC ∧ 0x05FFFFFC + 4 * 1 ≤ 0x06000000) ∧ (0x04000000 + 4 * 4096 ≤ 0x06000000) ∧
    (production (s 2 2) = true ∧ session (s 2 2) = 2 ∧ seqState (s 2 2) = 0) ∧ ¬ (production (s 2 1) = false ∨ session (s 2 1) = 2) ∧
    (let t := s 2 2 [(pgSeq, Reg.SEQ_TBL_STAT_SEQ_STATE, 0, 1)]; malStopped t = false ∧ production t = true ∧ session t = 2 ∧ seqState t ≠ 0) ∧ blkOf (.hub 0x62) ≠ none ∧
    (let t := s 3 0 [(pgLdg, Reg.LDG_STAT_STATE, 0, 2), (pgHld, Reg.HLD_STAT_STATE, 0, 3)]; production t = false ∧ mayWrite t = true ∧ lcState t = 3) ∧ lcState (s 2 0) ≠ 3 := by decide

theorem test_meets_OperatingPoints :
    let s (a : Nat) (f : DiePwr → DiePwr := id) (l : List (Page × Row × Nat × Nat) := []) : State :=
      let s := Witness.regs ((pgCdId 3, Reg.CD_ID_SVC, 0, 1) :: (pgDvfs, Reg.DVFS_OPC_ACT, 3, a) :: l)
      { s with pwr := { s.pwr with dies := s.pwr.dies.modify 3 f } }
    (s 0).pwr.dies[3]? = some DiePwr.fresh ∧
    (let t := s 9 id [(pgVrc 3, Reg.VRC_IRAIL, 0, 1601)]; (getF t (pgVrc 3) Reg.VRC_ILIM : Int) < sint 16 (getF t (pgVrc 3) Reg.VRC_IRAIL)) ∧
    sint 16 (getF (s 0) (pgVrc 3) Reg.VRC_IRAIL) ≤ (getF (s 0) (pgVrc 3) Reg.VRC_ILIM : Int) ∧ (diePwr (s 0 (fun d => { d with outAt := some 1 })) 3).outAt ≠ none ∧
    (let t0 := Witness.regs [(pgVrc 4, Reg.VRC_STAT_ACTIVE, 0, 15), (pgPmc, Reg.PMC_CTL_SHED_EN, 0, 1)]
     let t := { t0 with pwr := { t0.pwr with rails := t0.pwr.rails.modify 4 (fun r => { r with lowAt := some 7 }) } }
     (railPwr t 4).lowAt = some 7 ∧ 7 + 100000 ≤ 100007 ∧ flag t pgPmc Reg.PMC_CTL_SHED_EN = true ∧ getF t (pgVrc 4) Reg.VRC_STAT_ACTIVE ≠ 0) ∧
    (diesIn (s 13) = [3] ∧ (diePwr (s 13) 3).step = none ∧ opFloor (s 13) 3 ≤ selectOp (s 13) 3 ∧ selectOp (s 13) 3 < opAct (s 13) 3 ∧ selectOp (s 12) 3 = opAct (s 12) 3 ∧ opAct (s 11) 3 < selectOp (s 11) 3) ∧
    (diePwr (s 0 (fun d => { d with step := some 15 })) 3).step = some 15 ∧
    (DiePwr.fresh.below.2 = opAct (s 0) 3 ∧ DiePwr.fresh.below.2 ≠ opAct (s 1) 3 ∧ 19 < getFi (s 0) pgDvfs Reg.DVFS_AGE_MARGIN_MIN 3 ∧ ¬ 20 < getFi (s 0) pgDvfs Reg.DVFS_AGE_MARGIN_MIN 3) ∧
    (controls .mallet = true ∧ locked (s 0) pgDvfs = false ∧ 15 ≠ getFi (s 0) pgDvfs Reg.DVFS_OPC_FLOOR_PEND 3 ∧ 15 ≤ opTop (s 0) 3 ∧ floorsPass (s 0) (envNow (s 0)) ((floorsPend (s 0)).set 3 15) = true ∧
      (let t := s 0 id [(pgDvfs, Reg.DVFS_OPC_TOP, 3, 14)]; ¬ 15 ≤ opTop t 3)) ∧
    (inCharge (Witness.regs [(pgClap, Reg.CLAP_STAT_STATE, 0, 1)]) (.island 0) = true ∧ controls (.island 0) = true ∧ inCharge (s 0) (.island 0) = false) ∧ (diePwr (s 0) 3).drooped = false ∧
    (let d := diePwr (s 0 (fun d => { d with half := true })) 3; d.half = true ∧ d.droopAt + 10000 ≤ 10000) := by decide

theorem test_meets_PowerRails :
    let s (l : List (Page × Row × Nat × Nat)) (p : Pwr → Pwr := id) (b : Boot → Boot := id) : State :=
      let s := Witness.regs ((pgCdId 3, Reg.CD_ID_SVC, 0, 1) :: (pgDvfs, Reg.DVFS_OPC_ACT, 3, 5) :: l)
      { s with pwr := p s.pwr, boot := b s.boot }
    let die (f : DiePwr → DiePwr) (p : Pwr) : Pwr := { p with dies := p.dies.modify 3 f }
    (s []).pwr.rails[4]? = some ⟨[], [], [], none⟩ ∧ (s []).pwr.dies[3]? = some DiePwr.fresh ∧ ((getF (s []) (pgVrc 4) Reg.VRC_STAT_GOOD).testBit 3 = true ∧ (getF (s []) (pgVrc 3) Reg.VRC_STAT_GOOD).testBit 7 = true) ∧
    (let t := s [] id (fun b => { b with porst := true }); railStarts t 4 = true ∧ (getF t (pgVrc 4) Reg.VRC_STAT_GOOD).testBit 3 = true) ∧
    (let t := s [] id (fun b => { b with porst := true, started := b.started.set 4 true }); railStarts t 3 = true ∧ (getF t (pgVrc 3) Reg.VRC_STAT_GOOD).testBit 7 = true) ∧
    (aboveCap (s []) 2 100 97 = false ∧ aboveCap (s []) 0 100000 97 = true ∧ (∀ j < 4, (diePwr (s []) j).warm = false) ∧ highestDie (s []) = some 3) ∧
    (let t := s [] (fun p => { die (fun d => { d with caps := [15, 15, 5] }) p with lowAt := some 0 })
     t.pwr.lowAt = some 0 ∧ 0 + 1000000 ≤ 1000000 ∧ t.pwr.raiseAt = 0 ∧ lowestDie t = some 3) ∧
    (let t := s [] (die (fun d => { d with below := (64, 15) }))
     64 ≤ (diePwr t 3).below.1 ∧ (diePwr t 3).below.2 = 15 ∧ retired t 3 15 = false ∧ raised t 3 15 (getFij t pgDvfs Reg.DVFS_VT_OFFSET 3 15 + 1) = [15] ∧
       offsetFits t 3 (getFij t pgDvfs Reg.DVFS_VT_OFFSET 3 15 + 1) 15 = true ∧ getFij t pgDvfs Reg.DVFS_VT_OFFSET 3 15 < 63) := by decide

theorem test_meets_Temperatures :
    let s (p : Pwr → Pwr := id) (l : List (Page × Row × Nat × Nat) := []) : State :=
      let s := Witness.regs l
      { s with pwr := p s.pwr }
    let thr (n : Nat) (p : Pwr) : Pwr := { p with thr := p.thr.set 3 n }
    let cool := [(pgThm, Reg.THM_I3C_ADDR_IN, 0, 1), (pgThm, Reg.THM_I3C_ADDR_OUT, 0, 2), (pgThm, Reg.THM_I3C_ADDR_FLOW, 0, 3)]
    (s).pwr.dies[3]? = some DiePwr.fresh ∧ (thrOf (s (thr 2)) 3 = 2 ∧ (diePwr (s (thr 2)) 3).thAt + 1000000 ≤ 1000000) ∧
    (thrOf (s (thr 3)) 3 = 3 ∧ opAct (s (thr 3)) 3 ≤ opFloor (s (thr 3)) 3) ∧ (let t := s (thr 3) [(pgDvfs, Reg.DVFS_OPC_ACT, 3, 1)]; opFloor t 3 < opAct t 3) ∧
    (let t := s (fun p => { p with dies := p.dies.modify 3 (fun d => { d with soft := 14 }) }); thrOf t 3 = 0 ∧ (diePwr t 3).soft < 15 ∧ (diePwr t 3).thAt + 10000000 ≤ 10000000) ∧
    (s).pwr.thr = List.replicate 13 0 ∧ (∀ x ∈ [89, -5], x < (90 : Int)) ∧ ((95 : Int) ≤ 99 ∧ (99 : Int) < 100) ∧
    (let t := s (fun p => { p with cycBoot := false, warmEn := false }); ([109] : List Int) ≠ [] ∧ maxI [109] < 110 ∧ t.pwr.cycBoot = false ∧ t.pwr.warmEn = false ∧ ∀ j < 4, (diePwr t j).warm = false) ∧
    coolReady (s) = false ∧
    (let t := s id cool
     coolReady t = true ∧ t.pwr.flowAt = none ∧ t.pwr.riseAt = none ∧ 10 * getF t pgThm Reg.THM_COOL_FLOW_MIN ≤ 150 ∧ (128 * 55 + 1 + 128 : Int) - (128 * 55 + 1) ≤ 128 * (getF t pgThm Reg.THM_COOL_DT_MAX : Int) ∧
       getF t pgPmc Reg.PMC_P_DEV < 1000 ∧ 128 * (getF t pgThm Reg.THM_COOL_INLET_HI : Int) < 128 * 55 + 1 ∧ getF t pgThm Reg.THM_COOL_STATE ≠ 1 ∧ (128 * 55 : Int) ≤ 128 * (getF t pgThm Reg.THM_COOL_INLET_HI : Int) ∧ getF t pgThm Reg.THM_COOL_STATE = 0) := by decide

theorem test_meets_HostPort :
    let s (l : List (Page × Row × Nat × Nat)) (busy : List Nat := []) : State :=
      let s := Witness.regs l
      { s with mbx := { s.mbx with dmaBusy := busy } }
    let dma (dir : Nat) := [(pgPcie, Reg.PCIE_DMA_LEN, 3, 1), (pgPcie, Reg.PCIE_DMA_DIR, 3, dir), (pgPcie, Reg.PCIE_DMA_DEV, 3, 0x17FFFF)]
    let frame : EthFrame := ⟨[0], true⟩
    flag (s [(pgPcie, Reg.PCIE_STAT_ROOT, 0, 1)]) pgPcie Reg.PCIE_STAT_ROOT = true ∧ (¬ flag (s []) pgPcie Reg.PCIE_STAT_ROOT = true ∧ 0xFFFF + ([0] : List Byte).length ≤ 0x10000) ∧
    (0x04000000 ≤ 0x05FFFFFF ∧ 0x05FFFFFF + ([0] : List Byte).length ≤ 0x06000000) ∧
    (let t := s (dma 1); controls .host = true ∧ locked t pgPcie = false ∧ getFi t pgPcie Reg.PCIE_DMA_LEN 3 * 64 ≠ 0 ∧ 3 ∉ t.mbx.dmaBusy ∧ flagI t pgPcie Reg.PCIE_DMA_DIR 3 = true) ∧
    (∀ d < 2, let t := s (dma d) [3]
      3 ∈ t.mbx.dmaBusy ∧ flagI t pgPcie Reg.PCIE_DMA_DIR 3 = decide (d = 1) ∧ getFi t pgPcie Reg.PCIE_DMA_LEN 3 * 64 = 64 ∧ 0x04000000 ≤ getFi t pgPcie Reg.PCIE_DMA_DEV 3 * 64 ∧ getFi t pgPcie Reg.PCIE_DMA_DEV 3 * 64 + 64 ≤ 0x06000000) ∧
    (let t := s [(pgPcie, Reg.PCIE_STAT_ROOT, 0, 1), (pgPcie, Reg.PCIE_IB_BASE, 0, 0x17FFFF), (pgPcie, Reg.PCIE_IB_LEN, 0, 1)]
     flag t pgPcie Reg.PCIE_STAT_ROOT = true ∧ 63 + ([0] : List Byte).length ≤ getF t pgPcie Reg.PCIE_IB_LEN * 64 ∧ 0x04000000 ≤ getF t pgPcie Reg.PCIE_IB_BASE * 64 + 63 ∧ getF t pgPcie Reg.PCIE_IB_BASE * 64 + 63 + 1 ≤ 0x06000000) ∧
    flagI (s []) pgEth Reg.ETH_MAC_LINK 7 = false ∧ flagI (s [(pgEth, Reg.ETH_MAC_LINK, 7, 1)]) pgEth Reg.ETH_MAC_LINK 7 = true ∧ { frame with fcsOk := false }.fcsOk = false ∧ frame.fcsOk = true ∧ frame.bytes.length ≤ 9216 ∧ barsRun (s []) = false := by decide

/-- State of island 1 with its cores running, its registers and its own data set. -/
def Witness.isl (l : List (Row × Nat × Nat)) (f : Isl → Isl := id) (more : List (Page × Row × Nat × Nat) := []) (phase : Nat := 1) : State :=
  let s := Witness.regs (more ++ l.map (fun x => (pgIsl 1, x.1, x.2.1, x.2.2)))
  { s with isl := s.isl.modify 1 (fun x => f { x with phase := phase }) }

theorem test_meets_HoldLatch :
    (let s := Witness.isl [(Reg.ISL_STAT_HOLD, 0, 1), (Reg.ISL_STAT_VALID, 0, 1)]
     islUp s 1 = true ∧ flag s (pgIsl 1) Reg.ISL_STAT_HOLD = true ∧ flag s (pgIsl 1) Reg.ISL_STAT_VALID = true ∧ (islOf s 1).ackAt + 499500 ≤ 499500 ∧ 499499 < (islOf s 1).ackAt + 499500) ∧
    (let s := Witness.isl []; islUp s 1 = true ∧ flag s (pgIsl 1) Reg.ISL_STAT_HOLD = false ∧ flag s pgClap Reg.CLAP_STAT_SAFE = false) ∧
    (let s := Witness.isl [] id [(pgClap, Reg.CLAP_STAT_SAFE, 0, 1)]; islUp s 1 = true ∧ flag s pgClap Reg.CLAP_STAT_SAFE = true) := by decide

theorem test_meets_IslandFaults :
    (let s := Witness.isl []; State.wf s = true ∧ islUp s 1 = true ∧ flag s (pgIsl 1) Reg.ISL_STAT_MODE = false ∧ islandInCharge s ≠ some 1) ∧
    (let s := Witness.isl [(Reg.ISL_STAT_MODE, 0, 1)] id [(pgClap, Reg.CLAP_STAT_STATE, 0, 1), (pgClap, Reg.CLAP_STAT_HOLDER, 0, 1)]
     State.wf s = true ∧ islUp s 1 = true ∧ flag s (pgIsl 1) Reg.ISL_STAT_MODE = true ∧ islandInCharge s = some 1) ∧
    (islUp State.reset 1 = false ∧ State.wf State.reset = true ∧ (islOf State.reset 1).phase = 0) ∧
    (let s := Witness.isl [(Reg.ISL_SVN, 0, 7), (Reg.ISL_CTL_AUTO_RESTART, 0, 1)] id [] 2
     State.wf s = true ∧ bootSlot (getF s (pgIsl 1) Reg.ISL_SVN) [some 6, some 7] = some 7 ∧ bootSlot (getF s (pgIsl 1) Reg.ISL_SVN) [some 6, none] = none ∧ (islOf s 1).phase = 2 ∧ flag s (pgIsl 1) Reg.ISL_CTL_AUTO_RESTART = true) ∧
    (let s := Witness.isl [] id [] 3; State.wf s = true ∧ (islOf s 1).phase = 3 ∧ (islOf s 1).phase ≠ 0) := by decide

theorem test_meets_IslandSafeState :
    let n : Notice := ⟨0, 0, 0, 0, 0, true, 3, 0, false, false⟩
    (let s := Witness.isl []; islUp s 1 = true ∧ flag s (pgIsl 1) Reg.ISL_STAT_SAFE = false) ∧ flag (Witness.isl [(Reg.ISL_STAT_SAFE, 0, 1)]) (pgIsl 1) Reg.ISL_STAT_SAFE = true ∧
    (let s := Witness.isl [(Reg.ISL_WATCH_STATE, 15, 2), (Reg.ISL_WATCH_AGE_LIMIT, 15, 1), (Reg.ISL_WATCH_SAFETY, 15, 1)]
     islUp s 1 = true ∧ watchState s 1 15 = 2 ∧ getFi s (pgIsl 1) Reg.ISL_WATCH_AGE_LIMIT 15 * 999 ≤ 999 - nth0 (islOf s 1).age 15 ∧ 998 - nth0 (islOf s 1).age 15 < getFi s (pgIsl 1) Reg.ISL_WATCH_AGE_LIMIT 15 * 999 ∧
       flagI s (pgIsl 1) Reg.ISL_WATCH_SAFETY 15 = true ∧ (∀ k < 16, k ≠ 15 → watchState s 1 k = 0) ∧ flag s (pgIsl 1) Reg.ISL_STAT_SAFE = false ∧ watchMatches s 1 15 n = true ∧ watchFresh s 1 15 n = true ∧
       getFi s (pgIsl 1) Reg.ISL_WATCH_PART 15 = { n with dstep := 4 }.part ∧ n.pair = false ∧ n.clip = false) := by decide

/-- Which frames the filters of a channel accept is left free (log entry 37), so no test can show that they accept one: the rest of that clause is met. -/
theorem test_meets_CanFrames :
    let f : CanFrame := ⟨2 ^ 29 - 1, true, true, true, List.replicate 64 2⟩
    (let s := Witness.isl []
     islUp s 1 = true ∧ (islOf s 1).can.length = 2 ∧ flag s (pgIsl 1) Reg.ISL_STAT_SAFE = false ∧ (canOf s 1 1).ssf = none ∧ flagI s (pgIsl 1) Reg.ISL_CAN_BUS_OFF 1 = false ∧ canSupported f = true ∧ canSupported { f with ident := 2 ^ 29 } = false) ∧
    (let s := Witness.isl [(Reg.ISL_STAT_SAFE, 0, 1)] (fun x => { x with ssf := true }) [(pgClap, Reg.CLAP_STAT_STATE, 0, 1), (pgClap, Reg.CLAP_STAT_HOLDER, 0, 1)]
     islandInCharge s = some 1 ∧ flag s (pgIsl 1) Reg.ISL_STAT_SAFE = true ∧ (islOf s 1).ssf = true) ∧
    (let s := Witness.isl [] (fun x => { x with can := x.can.set 1 ⟨[f, { f with data := [] }], [], some (5, false), []⟩ })
     (canOf s 1 1).ssf = some (5, false) ∧ 5 + 2000000 ≤ 2000005 ∧ (canOf s 1 1).queue.contains f = true ∧ f.data.take 1 = leBytes 1 2 ∧ (canOf s 1 1).queue.contains { f with data := [] } = true ∧
       { f with data := [] }.data.take 1 ≠ leBytes 1 2) ∧
    flagI (Witness.isl [(Reg.ISL_CAN_BUS_OFF, 1, 1)]) (pgIsl 1) Reg.ISL_CAN_BUS_OFF 1 = true := by decide

/-- A state whose CLAP page shows a state, with fields of that page set and the Clapper's own data changed. -/
def Witness.clap (st : Nat) (f : Clap → Clap := id) (l : List (Row × Nat) := []) (more : List (Page × Row × Nat × Nat) := []) : State :=
  let s := Witness.regs ((pgClap, Reg.CLAP_STAT_STATE, 0, st) :: (pgClap, Reg.CLAP_STAT_HOLDER, 0, 1) :: more ++ l.map (fun x => (pgClap, x.1, 0, x.2)))
  { s with clap := f s.clap }

theorem test_meets_ClapperToken :
    let granting (prior : Nat) (c : Option Nat) (rel : Bool) := Witness.clap 3 (fun x => { x with claim := some (1, 7, prior), confirmed := c, rel := rel, granted := true })
    controls .mallet = true ∧ Agent.mallet ≠ .host ∧ Agent.mallet ≠ .island 1 ∧
    (let s := Witness.clap 0 id [] [(pgIsl 1, Reg.ISL_STAT_MODE, 0, 1)]; flag s (pgIsl 1) Reg.ISL_STAT_MODE = true ∧ flag s pgClap Reg.CLAP_CFG_SPLIT_OK = false) ∧
    (let s := Witness.clap 0 id [(Reg.CLAP_FLOOR, 7)]; flag s (pgIsl 1) Reg.ISL_STAT_MODE = false ∧ claimRefused s 1 6 = true ∧ claimRefused s 1 7 = false ∧ clapState s = 0) ∧
    (let s := Witness.clap 4 id [(Reg.CLAP_EPOCH, 6)]; claimRefused s 0 7 = false ∧ claimRefused s 1 7 = true ∧ clapState s ≠ 0) ∧
    (let s := Witness.clap 0 (fun x => { x with claims := [(1, 7), (0, 7)] }); arbitrate s.clap.claims = some (1, 7) ∧ clapState s = 0 ∧ s.clap.since + 10000 ≤ 10000) ∧ arbitrate State.reset.clap.claims = none ∧
    (let s := granting 1 none false; s.clap.claim = some (1, 7, 1) ∧ s.clap.confirmed = none ∧ 1 ≠ 2) ∧ (granting 2 none true).clap.rel = true ∧ (granting 2 none false).clap.rel = false ∧ State.reset.clap.claim = none ∧
    (let s := granting 2 (some 5) false; s.clap.claim = some (1, 7, 2) ∧ s.clap.confirmed = some 5 ∧ clapHolder s = 1 ∧ s.clap.granted = true ∧ 5 + 510000 ≤ 510005 ∧ 510004 < 5 + 510000) ∧
    (let s := Witness.clap 1 (fun x => { x with granted := true }) [(Reg.CLAP_STAT_MON_READY, 1)]
     clapState s = 1 ∧ clapHolder s = 1 ∧ s.clap.granted = true ∧ s.clap.confirmed = none ∧ flag s pgClap Reg.CLAP_STAT_MON_READY = true ∧ clapHolder s ≠ 0) ∧
    clapState (Witness.clap 2) = 2 := by decide

/-- The level of SAFE_N_IN is free only where it was last seen low (log entry 19). -/
theorem test_meets_ClapperSafeState :
    let held (f : Clap → Clap := id) (l : List (Row × Nat) := []) := Witness.clap 1 f l
    controls (.island 1) = true ∧ (beats (held) = true ∧ clapHolder (held) = 1) ∧ beats (Witness.clap 0) = false ∧ Agent.mallet ≠ .island 1 ∧ State.reset.clap.granted = false ∧
    (let s := held (fun x => { x with granted := true, hb := true }); s.clap.granted = true ∧ beats s = true ∧ s.clap.hb = true) ∧
    (let s := held (fun x => { x with granted := true }) [(Reg.CLAP_STAT_MISSED, 1)]; s.clap.granted = true ∧ beats s = true ∧ s.clap.hb = false ∧ getF s pgClap Reg.CLAP_STAT_MISSED = 1) ∧
    (let s := held (fun x => { x with granted := true }) [(Reg.CLAP_STAT_MISSED, 2)]; getF s pgClap Reg.CLAP_STAT_MISSED = 2 ∧ s.clap.claim = none) ∧
    (let s := held id [(Reg.CLAP_STAT_SAFE, 1)]; safeState s = true) ∧ (let s := held; safeState (s) = false ∧ islandInCharge s = some 1 ∧ islandInCharge s ≠ some 0 ∧ flag s pgClap Reg.CLAP_CFG_MON_SAFE = false) ∧
    flag (held id [(Reg.CLAP_CFG_MON_SAFE, 1)]) pgClap Reg.CLAP_CFG_MON_SAFE = true ∧ (let s := held (fun x => { x with idle := some 7 }); s.clap.idle = some 7 ∧ 7 + 2000000 ≤ 2000007 ∧ safeState s = false) ∧
    (let s := held (fun x => { x with safeBars := 40 }) [(Reg.CLAP_STAT_SAFE, 1)]; s.clap.safeIn = true ∧ safeExitOk s (.island 1) true = true ∧ safeExitOk s (.island 0) true = false) := by decide

theorem test_meets_LedgerWrites :
    let e : LdgEntry := ⟨16, 0, 0, 0, 0, [], []⟩
    let s (f : Ldg → Ldg) (l : List (Row × Nat) := []) : State :=
      let s := Witness.regs ((pgLdg, Reg.LDG_STAT_STATE, 0, 2) :: (pgHld, Reg.HLD_STAT_STATE, 0, 3) :: l.map (fun x => (pgLdg, x.1, 0, x.2)))
      { s with ldg := f s.ldg }
    let idle (s : State) (j : LdgJob) (r : Nat) : Bool := decide (s.ldg.todo = [] ∧ jobRole s j = some r ∧ physOf s r / 2048 < s.ldg.busy.length ∧ s.ldg.busy.getD (physOf s r / 2048) none = none)
    let fw := [(Reg.LDG_FW_TYPE, 0x20), (Reg.LDG_FW_KEY, 15), (Reg.LDG_FW_LEN, 3968), (Reg.LDG_FW_BUF, 0x100000)]
    let boot (a tr tries v : Nat) : LdgJob := ⟨0x19, 0, 0, [], [], none, .boot a tr tries v⟩
    let rec' (ok : Bool) : LdgRec := ⟨0, 0x20, 15, 0, 0, 0, 1, 0, [1], [], ok⟩
    controls .mallet = true ∧ Agent.mallet ≠ .host ∧
    (let t := s (fun x => { x with queue := [e], jpos := 511 })
     t.ldg.queue ≠ [] ∧ t.ldg.lastJ = none ∧ mayWrite t = true ∧ ringNext t 0 512 t.ldg.jpos t.ldg.live = some 511 ∧ idle t ⟨1, 0, 0, [], t.ldg.queue.take (batchLen t.ldg.queue), none, .entries⟩ 511 = true) ∧
    State.reset.ldg.queue = [] ∧ mayWrite State.reset = false ∧ State.reset.ldg.busy.getD 1 none = none ∧
    (let w : LdgWrite := ⟨⟨0x20, 0, 0, [], [], none, .fw⟩, 2048, 1, true⟩
     let t := s (fun x => { x with busy := [none, some w] }); t.ldg.busy.getD 1 none = some w ∧ w.second = true ∧ w.job.why = .fw ∧ { w with second := false }.second = false ∧ (boot 1 1 15 7).why = .boot 1 1 15 7) ∧
    (let t := s id fw
     getF t pgLdg Reg.LDG_FW_KEY = 15 ∧ getF t pgLdg Reg.LDG_FW_LEN = 3968 ∧ fwBufOk t 3968 = true ∧ assoc t.ldg.fwTimes 15 = none ∧ mayWrite t = true ∧ getF t pgLdg Reg.LDG_FW_TYPE = 0x20 ∧ committed t 0x20 15 = none) ∧
    (let t := s (fun x => { x with fwTimes := [(15, 5)] }) fw; assoc t.ldg.fwTimes 15 = some 5 ∧ Nat.max t.io.now 10000000004 < 5 + 10000000000) ∧ ¬ (1 ≤ getF State.reset pgLdg Reg.LDG_FW_LEN) ∧
    (idle (s id fw) ⟨0x20, 15, 0, [], [], none, .fw⟩ (512 + 2 * pairIdx 0x20 15) = true ∧ mayWrite (s (fun x => { x with pfail := true }) fw) = false) ∧
    (let t := s id fw
     let r := physOf t (512 + 2 * pairIdx 0x20 15)
     let u := s (fun x => { x with recs := [(r, rec' true)] }) fw
     committed u 0x20 15 = some (rec' true) ∧ (rec' true).ok = true ∧ (rec' true).typ = 0x20 ∧ (rec' true).data ≠ [] ∧ fwBufOk u (rec' true).data.length = true) ∧
    (let t := s (fun x => { x with recs := [(homePhys (640 + 15), rec' false)] }) [(Reg.LDG_FW_TYPE, 2), (Reg.LDG_FW_KEY, 15)]
     getF t pgLdg Reg.LDG_FW_TYPE = 2 ∧ getF t pgLdg Reg.LDG_FW_KEY = 15 ∧ recOf t (640 + 15) = some (rec' false) ∧ (rec' false).ok = false) ∧
    (let t := s (fun x => { x with fwEnts := List.replicate 10 5 }) fw; fwBufOk t 44 = true ∧ 10 ≤ (t.ldg.fwEnts.filter (fun e => Nat.max t.io.now 5 < e + 1000000000)).length ∧ ldgState t ≠ 4 ∧ t.ldg.queue.length < 256) ∧
    (let t := s id [(Reg.LDG_BOOT_TRIAL, 1)]
     let j := 512 + 2 * pairIdx 0x19 0
     mayWrite t = true ∧ flag t pgLdg Reg.LDG_BOOT_TRIAL = true ∧ idle t (boot 0 1 0 0) j = true ∧ idle t (boot 0 0 0 0) j = true ∧ idle t (boot 1 0 0 0) j = true ∧ getF t pgLdg Reg.LDG_BOOT_ACTIVE = 0 ∧ getF t pgLdg Reg.LDG_BOOT_SVN = 0) ∧
    flag State.reset pgLdg Reg.LDG_BOOT_TRIAL = false := by decide +kernel

theorem test_meets_LedgerPower :
    let s (st hs : Nat) (f : State → State := id) (l : List (Row × Nat) := []) : State := f (Witness.regs ((pgLdg, Reg.LDG_STAT_STATE, 0, st) :: (pgHld, Reg.HLD_STAT_STATE, 0, hs) :: l.map (fun x => (pgHld, x.1, 0, x.2))))
    let j : LdgJob := ⟨0x20, 0, 0, [], [], none, .fw⟩
    let x : LdgRec := ⟨9, 1, 0, 0, 0, 0, 1, 0, [], [], true⟩
    controls .host = true ∧ (2999 < 3000 ∧ gaugeReady (s 1 1) = true ∧ ldgState (s 1 1) = 1) ∧ (let t := s 1 2 (fun s => { s with ldg := { s.ldg with todo := [j] } }); gaugeReady t = true ∧ j ∈ t.ldg.todo ∧ j.why = .fw) ∧
    (gaugeReady (s 2 3) = false ∧ ldgState (s 2 3) = 2) ∧
    (let t := s 3 4; ldgState t = 3 ∧ hldState t = 4 ∧ t.ldg.queue = [] ∧ t.ldg.busy = [none, none] ∧ t.pwr.cycInc.all (· = 0) = true ∧ ringNext t 0 512 t.ldg.jpos t.ldg.live = some 0) ∧
    (ldgState (s 4 3) = 4 ∧ (s 4 3).ldg.queue.length < 256) ∧ (ldgState (s 0 3) = 0 ∧ (s 0 3).ldg.recs = []) ∧
    (let t := s 0 3 (fun s => { s with ldg := { s.ldg with keyOk := false, recs := [(0, x)] } }); ldgState t = 0 ∧ t.ldg.keyOk = false ∧ t.ldg.recs ≠ []) ∧
    (let t := s 0 3 (fun s => { s with ldg := { s.ldg with pfail := true, recs := [(0, x)] } }); t.ldg.keyOk = true ∧ t.ldg.pfail = true ∧ gaugeReady t = false ∧ t.ldg.recs ≠ []) ∧
    (let t := s 5 3; mayWrite t = false ∧ t.ldg.todo = [] ∧ ldgState t ≠ 4 ∧ t.ldg.queue.length < 255) ∧
    (getF (s 1 1 id [(Reg.HLD_STAT_CHARGE, 1)]) pgHld Reg.HLD_STAT_CHARGE ≠ 0 ∧ getF (s 1 1) pgHld Reg.HLD_STAT_CHARGE = 0) ∧ (hldState (s 1 1) ≠ 3 ∧ hldState (s 1 3) = 3) ∧ getF (s 1 1) pgHld Reg.HLD_C_RATED = 0 ∧
    (let t := s 1 3 (fun s => { s with hld := { s.hld with pulses := 2 } }) [(Reg.HLD_C_RATED, 1)]; getF t pgHld Reg.HLD_C_RATED ≠ 0 ∧ hldState t = 3 ∧ 2 ≤ t.hld.pulses ∧ (s 1 3).hld.pulses < 2) ∧
    (let t := s 1 1 id [(Reg.HLD_C_RATED, 1)]; getF t pgHld Reg.HLD_C_RATED ≠ 0 ∧ hldState t ≠ 3 ∧ getF t pgHld Reg.HLD_STAT_CHARGE = 0) := by decide +kernel

/-- A state with fields of the DLK page set, the device links' own data changed and the state changed. -/
def Witness.dlk (l : List (Row × Nat × Nat)) (f : Dlk → Dlk := id) (g : State → State := id) : State :=
  let s := g (Witness.regs (l.map (fun x => (pgDlk, x.1, x.2.1, x.2.2))))
  { s with dlk := f s.dlk }

/-- The device is member i of three. -/
def Witness.member (i : Nat) : List (Row × Nat × Nat) := [(Reg.DLK_STAT_INDEX_V, 0, 1), (Reg.DLK_STAT_INDEX, 0, i), (Reg.DLK_STAT_MEMBERS, 0, 3)]

theorem test_meets_JoinedDevices_flits :
    controls .host = true ∧ dlUp (Witness.dlk []) 7 = false ∧
    (let t := Witness.dlk [(Reg.DLK_L_STATE, 7, 3)] (fun d => { d with links := d.links.modify 7 (fun q => { q with fails := 2 }) }); dlUp t 7 = true ∧ t.dlk.links[7]? = some { DevLink.fresh with fails := 2 } ∧ crcHolds ⟨3, [], 0⟩ = false) ∧
    (let good : Flit := ⟨0x5819000000000000, [], 0⟩
     let owed : Flit := ⟨0x4E51000001000000, [], 0⟩
     let ahead : Flit := ⟨0x3800000000000100, [], 0⟩
     (Witness.dlk [(Reg.DLK_L_STATE, 7, 3)]).dlk.links[7]? = some DevLink.fresh ∧ crcHolds good = true ∧ hdrF good 8 8 = (DevLink.fresh.ack + 1) % 256 ∧ nth0 DevLink.fresh.credits 0 + hdrF good 24 4 ≤ 128 ∧ nth0 DevLink.fresh.credits 1 + hdrF good 28 4 ≤ 128 ∧
       nth0 DevLink.fresh.credits 2 + hdrF good 32 2 ≤ 16 ∧ crcHolds owed = true ∧ hdrF owed 8 8 = (DevLink.fresh.ack + 1) % 256 ∧ 128 < nth0 DevLink.fresh.credits 0 + hdrF owed 24 4 ∧
       crcHolds ahead = true ∧ hdrF ahead 0 2 ≠ 3 ∧ hdrF ahead 8 8 ≠ (DevLink.fresh.ack + 1) % 256) ∧
    (let q := DevLink.fresh; q.sentAt + 1000 ≤ Nat.max (Witness.dlk [(Reg.DLK_L_STATE, 7, 3)]).io.now 1000 ∧ Nat.max (Witness.dlk [(Reg.DLK_L_STATE, 7, 3)]).io.now 999 < q.sentAt + 1000) := by decide +kernel

theorem test_meets_JoinedDevices_enumeration :
    (let t := Witness.dlk [(Reg.DLK_CTL_ROOT, 0, 1), (Reg.DLK_CTL_ENABLE, 0, 1)]; flag t pgDlk Reg.DLK_CTL_ROOT = true ∧ flag t pgDlk Reg.DLK_CTL_ENABLE = true ∧ t.dlk.enumDone = false) ∧ flag (Witness.dlk []) pgDlk Reg.DLK_CTL_ENABLE = false ∧
    (let t := Witness.dlk [(Reg.DLK_CTL_ENABLE, 0, 1), (Reg.DLK_STAT_STATE, 0, 1)]
     flag t pgDlk Reg.DLK_CTL_ENABLE = true ∧ t.dlk.root = none ∧ flag t pgDlk Reg.DLK_CTL_ROOT = false ∧ getF t pgDlk Reg.DLK_STAT_STATE = 1 ∧ ¬ indexed t = true) ∧
    (let t := Witness.dlk ((Reg.DLK_CTL_ENABLE, 0, 1) :: Witness.member 2) (fun d => { d with root := some 7 }); t.dlk.root = some 7 ∧ ¬ (ownIndex t = 0 ∧ indexed t = true)) ∧
    (let t := Witness.dlk ((Reg.DLK_CTL_ENABLE, 0, 1) :: Witness.member 0) (fun d => { d with root := some 7 }); t.dlk.root = some 7 ∧ ownIndex t = 0 ∧ indexed t = true) ∧
    (let t := Witness.dlk ([(Reg.DLK_CTL_TSRC, 0, 1), (Reg.DLK_UPLINK, 0, 7)] ++ [(Reg.DLK_L_STATE, 7, 3)] ++ Witness.member 2)
     flag t pgDlk Reg.DLK_CTL_TSRC = true ∧ indexed t = true ∧ ownIndex t ≠ 0 ∧ dlUp t (getF t pgDlk Reg.DLK_UPLINK) = true ∧ fenced t 0 = false) := by decide +kernel

theorem test_meets_JoinedDevices_barriers :
    (let t := Witness.dlk [(Reg.DLK_XB_PART, 7, 15)] id (fun u => { u with seq := { u.seq with active := [Witness.stroke 4 15] } })
     locked t pgDlk = false ∧ holdsBarrier t (getFi t pgDlk Reg.DLK_XB_PART 7) = true ∧ holdsBarrier (Witness.dlk []) (getFi (Witness.dlk []) pgDlk Reg.DLK_XB_PART 7) = false) ∧
    locked (Witness.dlk [(Reg.HDR_LOCK, 0, 1)]) pgDlk = true ∧ (fenced (Witness.dlk [(Reg.DLK_FENCED, 3, 2 ^ 31)]) 127 = true ∧ fenced (Witness.dlk []) 127 = false) ∧
    (let y : XSet := ⟨true, 0, 1, 1500, 65535, []⟩
     let a : Arrive := ⟨7, 0, 10000, 5, 0⟩
     let t := Witness.dlk [] (fun d => { d with sets := d.sets.set 7 y }) (setF pgCyc Reg.CYC_STAT_STATE 2)
     t.dlk.sets[a.set]? = some y ∧ y.en = true ∧ (barsRun t && nearT0 a.t0 t.fus.tick0) = true ∧ arriveFailed t a = false ∧ (barsRun t && nearT0 10001 t.fus.tick0) = false) := by decide +kernel

/-- The 802.1AS time of a device with no correction to slew in, at an instant that has come. -/
theorem test_meets_JoinedDevices_time (s : State) (h : s.eth.slew = 0) (h2 : s.eth.offset = 0) : (1755 : Int) ≤ devTime (at_ 1755 s) := by
  have hn : 1755 ≤ (at_ 1755 s).io.now := Nat.le_max_right _ _
  have h3 : (at_ 1755 s).eth.slew = 0 := h
  have h4 : (at_ 1755 s).eth.offset = 0 := h2
  simp only [devTime, slewed, h3, h4]
  omega

/-- With test_meets_JoinedDevices_time the release is due. -/
theorem test_meets_JoinedDevices_release :
    (let a : Arrive := ⟨7, 0, 0, 5, 2⟩
     let y : XSet := ⟨true, 0, 4, 1500, 65535, [(a, 0)]⟩
     let r := Witness.run 4 (64 * 2 ^ 32)
     let t := Witness.dlk (Witness.member 2) (fun d => { d with sets := d.sets.set 7 y }) (fun u => { u with seq := { u.seq with runs := [r] } })
     t.dlk.sets[7]? = some y ∧ openGate t y.part 4 = some r ∧ (arrivals (at_ 1755 t) y (barrierOrd (at_ 1755 t) r)).find? (fun y => y.1.sender = ownIndex t) = some (a, 0) ∧ crossSet t y.part = some 7 ∧
       (waitsFor t y).all (fun n => (arrivals (at_ 1755 t) y (barrierOrd (at_ 1755 t) r)).any (fun y => y.1.sender = n)) = true ∧ (releaseAt (at_ 1755 t) y (barrierOrd (at_ 1755 t) r)).1 = 1755 ∧ t.eth.slew = 0 ∧ t.eth.offset = 0 ∧ pastD (at_ 1755 t) r = false) := by decide +kernel

theorem test_meets_JoinedDevices_shifts :
    (let t := Witness.dlk ((Reg.DLK_CTL_ROOT, 0, 1) :: (Reg.DLK_SH_EN, 0, 1) :: (Reg.DLK_SH_STEP, 0, 1) :: (Reg.DLK_SH_MAX, 0, 1) :: (Reg.DLK_SH_PERIOD, 0, 1) :: Witness.member 0) (fun d => { d with bars := 1, sums := d.sums.set 2 9 })
     isRoot t = true ∧ flag t pgDlk Reg.DLK_SH_EN = true ∧ getF t pgDlk Reg.DLK_SH_PERIOD ≤ t.dlk.bars ∧ 0 < t.dlk.bars ∧ t.dlk.hold = 0 ∧ t.dlk.offer = none ∧ donorOf t = some 2 ∧ recipientOf t = some 0 ∧
       -(getF t pgDlk Reg.DLK_SH_MAX : Int) ≤ t.dlk.shifts.getD 2 0 - getF t pgDlk Reg.DLK_SH_STEP ∧ t.dlk.shifts.getD 0 0 + getF t pgDlk Reg.DLK_SH_STEP ≤ getF t pgDlk Reg.DLK_SH_MAX) ∧
    (let t := Witness.dlk (Witness.member 2)
     let u := { t with pwr := { t.pwr with shift := shiftW t - 1 } }
     indexed t = true ∧ fenced t 0 = false ∧ budgetOf t (floorsNow t) * 36 ≤ lim36 u (envNow t) 0 * 10 ∧ t.dlk.offer = none ∧ isRoot t = false ∧ 127 < 128) ∧
    (let o : ShiftOffer := ⟨2, 0, 1, false⟩; (Witness.dlk (Witness.member 0) (fun d => { d with offer := some o })).dlk.offer = some o ∧ o.wait = false ∧ { o with wait := true }.wait = true) ∧
    (let t := Witness.dlk (Witness.member 0) (fun d => { d with silent := d.silent.set 2 3 })
     let u := timeLost (showReach (modDlk (fun y => { y with down := [] ++ y.down }) t))
     indexed t = true ∧ 2 < getF t pgDlk Reg.DLK_STAT_MEMBERS ∧ 2 ≠ ownIndex t ∧ fenced u 2 = false ∧ routed u 2 = false) ∧
    (let t := Witness.dlk (Witness.member 2); indexed t = true ∧ ownIndex t ≠ 0 ∧ routed t 0 = false) ∧ routed (Witness.dlk [(Reg.DLK_REACH, 0, 1)]) 0 = true := by decide +kernel

theorem test_meets_MemoryTraffic :
    let s (l : List (Page × Row × Nat × Nat)) (f : State → State := id) : State := f (Witness.regs l)
    let copy (dir : Nat) : List (Page × Row × Nat × Nat) := [(pgDlk, Reg.DLK_CP_LEN, 7, 1), (pgDlk, Reg.DLK_CP_LOCAL, 7, 0x17FFFF), (pgDlk, Reg.DLK_CP_DEST, 7, 127), (pgDlk, Reg.DLK_CP_DIR, 7, dir)]
    (∀ d < 2, let t := s (copy d)
      controls .host = true ∧ locked t pgDlk = false ∧ getFi t pgDlk Reg.DLK_CP_LEN 7 * 64 ≠ 0 ∧ 7 ∉ t.dlk.copies ∧ fenced t (getFi t pgDlk Reg.DLK_CP_DEST 7) = false ∧ flagI t pgDlk Reg.DLK_CP_DIR 7 = decide (d = 1) ∧
        0x04000000 ≤ getFi t pgDlk Reg.DLK_CP_LOCAL 7 * 64 ∧ getFi t pgDlk Reg.DLK_CP_LOCAL 7 * 64 + getFi t pgDlk Reg.DLK_CP_LEN 7 * 64 ≤ 0x06000000) ∧
    (let t := s ((pgDlk, Reg.DLK_FENCED, 3, 2 ^ 31) :: copy 0); fenced t (getFi t pgDlk Reg.DLK_CP_DEST 7) = true ∧ fenced t 127 = true) ∧
    7 ∈ (s (copy 1) (fun u => { u with dlk := { u.dlk with copies := [7] } })).dlk.copies ∧
    (let t := s [(pgDlk, Reg.DLK_IN_VALID, 7, 1), (pgDlk, Reg.DLK_IN_WR, 7, 1), (pgDlk, Reg.DLK_IN_BASE, 7, 0x4000), (pgDlk, Reg.DLK_IN_LEN, 7, 1)]
     fenced t 127 = false ∧ flagI t pgDlk Reg.DLK_IN_VALID 7 = true ∧ flagI t pgDlk Reg.DLK_IN_WR 7 = true ∧ getFi t pgDlk Reg.DLK_IN_BASE 7 * 4096 ≤ 0x04000FFF ∧ 0x04000FFF + 1 ≤ (getFi t pgDlk Reg.DLK_IN_BASE 7 + getFi t pgDlk Reg.DLK_IN_LEN 7) * 4096) ∧
    (∀ i < 8, flagI (s []) pgDlk Reg.DLK_IN_VALID i = false) ∧ (31 < 32 ∧ 0x5FFFFFFFF + 1 ≤ 0x600000000) ∧ flag (s [(pgMsc 3, Reg.MSC_STAT_FAILED, 0, 1)]) (pgMsc 3) Reg.MSC_STAT_FAILED = true ∧
    (let t := s []; ¬ flag t (pgMsc 3) Reg.MSC_STAT_FAILED = true ∧ t.bw.held = [] ∧ t.bw.queues[3]? = some [] ∧ 3 < t.bw.level.length ∧ nth0 t.bw.level 3 = 0 ∧
      ¬ getFij t pgBwreg Reg.BWREG_M_USED 31 3 < nth0 (bwMaster t.bw.act 31).mins 3 ∧ getFij t pgBwreg Reg.BWREG_M_USED 31 3 < nth0 (bwMaster t.bw.act 31).maxs 3) ∧
    (let q : BwReq := ⟨31, 0xFF, false, 0, 61440, false, 1, 0⟩
     (s [] (fun u => { u with bw := { u.bw with queues := u.bw.queues.set 3 [q] } })).bw.queues[3]? = some [q] ∧ ceilDiv q.len 64 ≤ 960) ∧
    (inService (s [(pgCdId 3, Reg.CD_ID_SVC, 0, 1)]) 3 = true ∧ inService (s []) 3 = false) ∧
    (let cfg := BwCfg.fresh
     let t := s [] (fun u => { u with bw := { u.bw with check := some cfg } })
     t.bw.check = some cfg ∧ (s []).bw.check = none ∧ (∀ i, i < 4 → (capacity cfg i).2 = true) ∧ (heldStrokes t).all (fun t => !(stIsRun t && decide (stClass t = 0))) = true) ∧
    (let cfg := { BwCfg.fresh with ms := BwCfg.fresh.ms.modify 0 (fun m => { m with mins := [2 ^ 24, 2 ^ 24, 2 ^ 24, 2 ^ 24] }) }; ¬ (capacity cfg 3).2 = true) := by decide

/-- The fusion unit runs a job for partition 0 whose next stage is b; the partition may read and write hub SRAM. Its descriptor names the PPU list, the
outputs of ALIGN and LIFT, the detections and the batch; the one PPU job in memory reads and writes hub SRAM. -/
def Witness.fus (b : Nat) (f : FusJob → FusJob := id) (l : List (Page × Row × Nat × Nat) := []) : FusJob × State :=
  let raw := leBytes 4 0 ++ leBytes 4 0x100000 ++ leBytes 4 0 ++ leBytes 4 0 ++ leBytes 4 0x110000 ++ leBytes 4 0x120000 ++ leBytes 4 0x130000 ++ leBytes 4 0x140000 ++ List.replicate 32 0
  let j : FusJob := f ⟨5, 0, 0, raw, [b], false, 63, 0, true, 0, FusState.fresh, [], false, false, false, true, none⟩
  let s := Witness.regs l
  (j, { s with
    mem := [(0x0400000A, 0x10), (0x04000012, 0x15)]
    parts := s.parts.modify 0 (fun p => { p with cfg := { p.cfg with wins := [⟨0x04000000, 0x06000000, true⟩] } })
    fus := { s.fus with job := some j } })

/-- Does a partition's stage pass its accesses: as in the statement. -/
def Witness.passes (s : State) (l : List MemAcc) : Bool := decide (∀ x ∈ l, accRefused s 0 0 x = none)

theorem test_meets_FusionJobs :
    (∀ b < 8, let x := Witness.fus b; x.2.fus.job = some x.1 ∧ x.1.left.head? = some b ∧ x.1.waiting = false) ∧ State.reset.fus.job = none ∧
    (let x := Witness.fus 0
     let raw := memBytes x.2 (fjPpuList x.1.raw * 64 + 64 * x.1.ppuDone) 64
     let y := Witness.fus 0 (fun j => { j with ppuDone := 0 })
     let first := memBytes y.2 (fjPpuList y.1.raw * 64) 64
     Witness.passes x.2 (⟨false, 0, fjPpuList x.1.raw * 64 + 64 * x.1.ppuDone, 64⟩ :: ppuAccs raw) = false ∧ Witness.passes y.2 (⟨false, 0, fjPpuList y.1.raw * 64, 64⟩ :: ppuAccs first) = true) ∧
    (let x := Witness.fus 1
     waitOver x.2 x.1 = true ∧ Witness.passes x.2 (slotReads x.2 x.1 ++ [⟨true, 0, fjAlnOut x.1.raw * 64, 1088⟩]) = true ∧
     (let y := Witness.fus 1 (fun j => { j with raw := j.raw.set 8 1 |>.set 3 1 }) [(pgAln, Reg.ALN_SLOT_WAIT, 0, 1)]; waitOver y.2 y.1 = false) ∧
     (let y := Witness.fus 1 (fun j => { j with waiting := true }); y.2.fus.job = some y.1 ∧ y.1.waiting = true ∧ waitOver y.2 y.1 = true)) ∧
    (let x := Witness.fus 2 (fun j => { j with work := { j.work with egoTc := some (-1) } })
     Witness.passes x.2 (alnReads x.2 x.1) = true ∧ x.1.work.egoTc = some (-1) ∧ (Witness.fus 2).1.work.egoTc = none) ∧
    (let x := Witness.fus 3; Witness.passes x.2 (alnReads x.2 x.1) = true ∧ bitsSet 16 (fjCams x.1.raw) = []) ∧
    (let x := Witness.fus 4; Witness.passes x.2 (alnReads x.2 x.1 ++ [⟨true, 0, (gridTensor x.2 x.1).off, 512 * tensorPitch (gridTensor x.2 x.1)⟩]) = true ∧ bitsSet 16 (fjLcams x.1.raw) = []) ∧
    (let x := Witness.fus 5
     Witness.passes x.2 [⟨false, 0, fjDetIn x.1.raw * 64, 64⟩, ⟨false, 0, fjDetIn x.1.raw * 64 + 64, 0⟩] = true ∧ ¬ (8 < x.1.work.since ∧ x.1.work.ts ≠ none) ∧
     (let y := Witness.fus 5 (fun j => { j with work := { j.work with since := 9, ts := some 0 } }); 8 < y.1.work.since ∧ y.1.work.ts ≠ none)) ∧
    (let x := Witness.fus 7; batchTracks x.2 x.1 = [] ∧ accRefused x.2 0 0 ⟨true, 0, fjBatch x.1.raw * 64, (batchHeader x.2 x.1 0).length⟩ = none) ∧
    (let x := Witness.fus 0 (fun j => { j with left := [], rawStep := some 2 }); x.2.fus.job = some x.1 ∧ x.1.left = [] ∧ x.1.rawStep = some 2) := by decide +kernel
end

section
/-! PROOFS. Chapter 00: reset, and the access path of registers and memory (R12, R278, R279, R307). -/

namespace Sys2Proof.Machine

open Sys2Proof

/-! ### The state after reset -/

/-- Settles O3: the register file of reset lists nothing, so every field reads as its reset word. -/
theorem resetValues : Obligations.ResetValues := by
  unfold Obligations.ResetValues
  decide

/-- Settles O4: the maps of reset list nothing, every unit is in its place and the queue is empty. -/
theorem resetKept : Obligations.ResetKept := by
  unfold Obligations.ResetKept
  exact ⟨by decide, rfl, rfl⟩

/-! ### Memory: a read after a write -/

theorem sparseGet_memWrite (a : Nat) (l : List Byte) (s : State) {x : Nat} (h : x < a ∨ a + l.length ≤ x) :
    sparseGet memDefault (memWrite a l s).mem x = sparseGet memDefault s.mem x := by
  induction l generalizing a s with
  | nil => rfl
  | cons b r ih =>
    rw [List.length_cons] at h
    rw [memWrite, ih (a + 1) _ (by omega), sparseGet_put, if_neg (by omega)]

theorem memBytes_congr {s t : State} (h : t.mem = s.mem) (a n : Nat) : memBytes t a n = memBytes s a n := by
  induction n generalizing a with
  | zero => rfl
  | succ n ih => rw [memBytes, memBytes, h, ih]

/-- The bytes just stored are read back. -/
theorem memBytes_memWrite (a : Nat) (l : List Byte) (s : State) : memBytes (memWrite a l s) a l.length = l := by
  induction l generalizing a s with
  | nil => rfl
  | cons b r ih =>
    rw [List.length_cons, memBytes, memWrite, ih, sparseGet_memWrite _ _ _ (Or.inl (Nat.lt_succ_self a)), sparseGet_put, if_pos rfl]

/-! ### Accesses that stay in one region of the map (R279) -/

theorem spans_within (fuel : Nat) {a len : Nat} (h : len ≠ 0) (e : a + len ≤ regionEnd a) :
    spans (fuel + 1) a len = [(a, len, regionOf a)] := by
  have m : Nat.min len (regionEnd a - a) = len := Nat.min_eq_left (by omega)
  have z : spans fuel (a + len) 0 = [] := by cases fuel <;> rfl
  simp only [spans, if_neg h, m, Nat.sub_self, z]

theorem touched_within {a len : Nat} (h : len ≠ 0) (e : a + len ≤ regionEnd a) : touched a len = [(a, len, regionOf a)] :=
  spans_within 23 h e

/-- An access inside one region is refused as that region is. -/
theorem accessRefusal_within {a len : Nat} (h : len ≠ 0) (e : a + len ≤ regionEnd a) (s : State) (data : Bool) :
    accessRefusal s data a len = regionRefusal s data (regionOf a) := by
  simp [accessRefusal, touched_within h e]

theorem regionOf_hubSram {a : Nat} (h1 : 0x04000000 ≤ a) (h2 : a < 0x06000000) : regionOf a = .hubSram := by
  simp [regionOf, addressMap, h1, h2]

theorem regionEnd_hubSram {a : Nat} (h1 : 0x04000000 ≤ a) (h2 : a < 0x06000000) : regionEnd a = 0x06000000 := by
  simp [regionEnd, addressMap, Nat.not_lt.2 h1, h2]

theorem touched_hubSram {a len : Nat} (h1 : 0x04000000 ≤ a) (h : len ≠ 0) (h2 : a + len ≤ 0x06000000) :
    touched a len = [(a, len, .hubSram)] := by
  rw [touched_within h (by rw [regionEnd_hubSram h1 (by omega)]; exact h2), regionOf_hubSram h1 (by omega)]

theorem chargeMem_hubSram {a len : Nat} (h1 : 0x04000000 ≤ a) (h : len ≠ 0) (h2 : a + len ≤ 0x06000000) (m : Nat) (p : Option Nat)
    (s : State) : chargeMem m p a len s = s := by simp [chargeMem, touched_hubSram h1 h h2]

/-- Hub SRAM holds no learned region that keeps a write out. -/
theorem storeDev_hubSram {a : Nat} {b : List Byte} (h1 : 0x04000000 ≤ a) (h : b ≠ []) (h2 : a + b.length ≤ 0x06000000) (part : Nat)
    (s : State) : storeDev a b part s = (true, memWrite a b s) := by
  have e : lregDiscard s a b.length = none := by simp [lregDiscard, touched_hubSram h1 (by simpa using h) h2]
  simp [storeDev, e]

/-! ### What the access path refuses -/

theorem controls_iff (who : Agent) : controls who = true ↔ dataMaster who = false ∧ partOf who = none := by
  simp [controls]

theorem accessRefusal_control {a len : Nat} (h1 : 0x40000000 ≤ a) (h : len ≠ 0) (h2 : a + len ≤ 0x62000000) (s : State) (data : Bool) :
    accessRefusal s data a len = if data then some 0x09 else none := by
  rw [accessRefusal_within h (by rw [regionEnd_control h1 (by omega)]; exact h2), regionOf_control h1 (by omega)]
  rfl

/-- The control region is refused to a data master (R279). -/
theorem refuse_data {who : Agent} (hd : dataMaster who = true) (hp : partOf who = none) {a len : Nat} (h1 : 0x40000000 ≤ a) (h : len ≠ 0)
    (h2 : a + len ≤ 0x62000000) (wr : Bool) (s : State) : refuse who wr a len s = some (recordAt pgHubId 0x09 (a / 64) 0xFF s) := by
  simp [refuse, pathRefusal, hp, accessRefusal_control h1 h h2, hd, refusalPage]

/-- An access of the registers that is not of one aligned word is refused with 0x04 in the target page (R12). -/
theorem refuse_misaligned {who : Agent} (hc : controls who = true) {a len off : Nat} {p : Page} {s : State} (h1 : 0x40000000 ≤ a)
    (h : len ≠ 0) (h2 : a + len ≤ 0x62000000) (ht : target s a = .inr (p, off)) (hx : a % 4 ≠ 0 ∨ len ≠ 4) (wr : Bool) :
    refuse who wr a len s = some (recordAt p 0x04 (a / 64) 0xFF s) := by
  obtain ⟨hd, hp⟩ := (controls_iff who).1 hc
  have hn : a % 4 = 0 → ¬len = 4 := by omega
  simpa [refuse, hp, accessRefusal_control h1 h h2, hd, regionOf_control h1 (by omega : a < 0x62000000), ht] using hn

theorem refuse_hubSram {who : Agent} (hc : controls who = true) {a len : Nat} (h1 : 0x04000000 ≤ a) (h : len ≠ 0)
    (h2 : a + len ≤ 0x06000000) (wr : Bool) (s : State) : refuse who wr a len s = none := by
  obtain ⟨hd, hp⟩ := (controls_iff who).1 hc
  have e : accessRefusal s (dataMaster who) a len = none := by
    rw [accessRefusal_within h (by rw [regionEnd_hubSram h1 (by omega)]; exact h2), regionOf_hubSram h1 (by omega)]
    rfl
  simp [refuse, hp, e, regionOf_hubSram h1 (by omega : a < 0x06000000)]

theorem devWrite_refused {who : Agent} {a : Nat} {b : List Byte} {s t : State} (h : refuse who true a b.length s = some t) :
    devWrite who a b s = (false, t) := by simp [devWrite, h]

theorem devRead_refused {who : Agent} {a len : Nat} {s t : State} (h : refuse who false a len s = some t) :
    devRead who a len s = (List.replicate len 0, false, t) := by simp [devRead, h]

theorem regWrite_refused {who : Agent} {a v : Nat} {s t : State} (h : refuse who true a 4 s = some t) :
    regWrite who a v s = answer [] false false t := by
  rw [regWrite, devWrite_refused (b := leBytes 4 v) h]

/-! ### What a refusal leaves and shows -/

theorem samesBut_answer {l : List Piece} {s t : State} (hl : Piece.io ∈ l) (h : samesBut l s t) (d : List Byte) (x y : Bool) :
    samesBut l s (answer d x y t) := by
  have k : samesBut [.io] t (answer d x y t) := samesBut_keeps (answer_keeps d x y (by decide) (Keeps.refl _ t))
  exact ⟨h.1, fun p hp => Piece.same_trans (h.2 p hp) (k.2 p fun hm => hp (List.mem_singleton.1 hm ▸ hl))⟩

theorem samesBut_recordAt (p : Page) (code addr part : Nat) (s : State) : samesBut report s (recordAt p code addr part s) :=
  samesBut_keeps (recordAt_keeps p code addr part (by decide) (Keeps.refl _ s))

theorem codeIn_congr {s t : State} (h : t.regs = s.regs) {p : Page} {c : Nat} (k : codeIn s p c) : codeIn t p c := by
  unfold codeIn
  rwa [getF_congr h, getF_congr h]

/-- A record sets VALID of its page's ERR_STAT, or finds it set (R445). -/
theorem capture_valid (p : Page) (code addr part : Nat) (s : State) :
    getF (capture p code addr part s) p Reg.HDR_ERR_STAT_VALID = 1 := by
  unfold capture
  dsimp only
  split
  · exact getF_setF_same (by decide) 1 _
  next h =>
    rw [getF_setF_apart (by decide) (by decide), getF_setF_apart (by decide) (by decide), getF_setF_apart (by decide) (by decide)]
    have e : getF (bump p Reg.HDR_ERR_CNT 1 s) p Reg.HDR_ERR_STAT_VALID = getF s p Reg.HDR_ERR_STAT_VALID :=
      getF_setF_apart (by decide) (by decide) _ _
    have b : getF s p Reg.HDR_ERR_STAT_VALID < 2 := getFij_lt s p Reg.HDR_ERR_STAT_VALID 0 0
    omega

theorem recordPlain_valid (p : Page) (code addr part : Nat) (s : State) :
    getF (recordPlain p code addr part s) p Reg.HDR_ERR_STAT_VALID = 1 := by
  rw [recordPlain, getF_congr (notifyEdge_regs _ _ _), capture_valid]

/-- What a warning brings leaves the page's own fields as the record left them; the MBX and LDG pages apart, where they are the
warning's own. -/
theorem getF_recordAt_own {p : Page} {r : Row} (hr : r.off < 4096) {code : Nat}
    (h : (codeWarns code || p = pgClap) = true → pageBase p ≠ pageBase pgMbx ∧ pageBase p ≠ pageBase pgLdg) (addr part : Nat) (s : State) :
    getF (recordAt p code addr part s) p r = getF (recordPlain p code addr part s) p r := by
  unfold recordAt recordWarn
  split
  next hw =>
    obtain ⟨hm, hl⟩ := h (by simpa using hw)
    have e : regW (warnAbout p code (recordPlain p code addr part s)) (pageBase p + r.off) =
        regW (recordPlain p code addr part s) (pageBase p + r.off) := warnAbout_ne (header_of_page hm hl hr) _ _ _
    simp only [getF, getFij, fieldAddr, Nat.zero_mul, Nat.add_zero, e]
  · rfl

/-- After a record of 0x04 the page shows it in ERR_INFO and ERR_STAT: only in CLAP does the code warn. -/
theorem recordAt_align_shows (p : Page) (addr part : Nat) (s : State) :
    codeIn (recordAt p 0x04 addr part s) p 0x04 ∧ getF (recordAt p 0x04 addr part s) p Reg.HDR_ERR_STAT_VALID = 1 := by
  have h : (codeWarns 0x04 || p = pgClap) = true → pageBase p ≠ pageBase pgMbx ∧ pageBase p ≠ pageBase pgLdg := by
    intro w
    have e : p = pgClap := by simpa [codeWarns] using w
    subst e
    decide
  obtain ⟨hc, he⟩ := recordPlain_codes p 0x04 addr part s
  refine ⟨⟨?_, ?_⟩, ?_⟩
  · rw [getF_recordAt_own (by decide) h, hc]
  · rw [getF_recordAt_own (by decide) h, he]
  · rw [getF_recordAt_own (by decide) h, recordPlain_valid]

/-- After a record its page shows the code; the MBX and LDG pages apart, which what a warning brings may touch again. -/
theorem codeIn_recordAt {p : Page} (hm : pageBase p ≠ pageBase pgMbx) (hl : pageBase p ≠ pageBase pgLdg) {code : Nat} (hc : code < 256)
    (addr part : Nat) (s : State) : codeIn (recordAt p code addr part s) p code := by
  have h := recordAt_codes hm hl code addr part s
  rwa [Nat.mod_eq_of_lt hc] at h

/-- What a refusal recorded in page `p` leaves alone, with whatever answer it got. -/
theorem refusal_frame (p : Page) (code addr part : Nat) (s : State) (d : List Byte) (x y : Bool) :
    samesBut report s (answer d x y (recordAt p code addr part s)) ∧ quietBut [] s (answer d x y (recordAt p code addr part s)) :=
  ⟨samesBut_answer (by decide) (samesBut_recordAt p code addr part s) d x y,
    quietBut_answer d x y (quietBut_recordAt p code addr part (quietBut_refl [] s))⟩

/-! ### What the commands of the access path run -/

theorem exec_registerWrite (who : Agent) (a : Nat) (v : Word) (s : State) :
    exec (.registerWrite who a v) s = .next (regWrite who a v.toNat s) := (rfl)

theorem exec_deviceWrite (who : Agent) (a len : Nat) (b : List Byte) (s : State) :
    exec (.deviceAccess who a len (some b)) s = .next (answer [] (devWrite who a b s).1 false (devWrite who a b s).2) := (rfl)

theorem exec_deviceRead (who : Agent) (a len : Nat) (s : State) :
    exec (.deviceAccess who a len none) s =
      .next (answer (devRead who a len s).1 (devRead who a len s).2.1 false (devRead who a len s).2.2) := (rfl)

theorem exec_malletOffWrite (who : Agent) (s : State) :
    exec (.malletOffWrite who) s = .next (regWrite who (pageBase pgDbg + 0x44) 0x100 s) := (rfl)

theorem exec_loWordRead {who : Agent} {a off : Nat} {p : Page} {s : State} (ht : target s a = .inr (p, off)) (hl : isLoWord p off = true) :
    exec (.loWordRead who a) s = .next (answer (devRead who a 4 s).1 (devRead who a 4 s).2.1 false (devRead who a 4 s).2.2) := by
  have e : exec (.loWordRead who a) s = execLoWordRead who a s := rfl
  simp [e, execLoWordRead, ht, hl]

/-! ### Refused accesses -/

/-- Settles O31: the path refuses the access before it reaches a register, and what it records is the frame. -/
theorem oneAlignedWord : Obligations.OneAlignedWord := by
  unfold Obligations.OneAlignedWord
  intro who a off b p s hc h1 hb h2 ht hx refused
  have hr := refuse_misaligned hc h1 (by simpa using hb) h2 ht hx
  have hs (d : List Byte) : refused (answer d false false (recordAt p 0x04 (a / 64) 0xFF s)) := by
    obtain ⟨hf, hq⟩ := refusal_frame p 0x04 (a / 64) 0xFF s d false false
    obtain ⟨hk, hv⟩ := recordAt_align_shows p (a / 64) 0xFF s
    exact ⟨hf, hq, codeIn_congr rfl hk, hv⟩
  constructor
  · refine does (exec_deviceWrite who a b.length b s) ?_
    rw [devWrite_refused (hr true)]
    exact ⟨hs _, rfl⟩
  · refine does (exec_deviceRead who a b.length s) ?_
    rw [devRead_refused (hr false)]
    exact ⟨hs _, rfl⟩

theorem hub_control {n off : Nat} (hn : n < 0x63) (ho : off < 0x1000) :
    0x40000000 ≤ pageBase (.hub n) + off ∧ pageBase (.hub n) + off + 4 ≤ 0x62000000 := by
  simp only [pageBase]
  omega

/-- The host's write of a page that is denied to it records 0x06 and goes no further (R307). -/
theorem controlWrite_hostDenied {p : Page} (h : hostDenied p = true) (off v : Nat) (s : State) :
    controlWrite .host p off v s = (true, recordAt pgHubId 0x06 ((pageBase p + off) / 64) 0xFF s) := by
  simp [controlWrite, h]

/-- Settles O17: each refusal stops before the page's write, and its record is all that changes. -/
theorem accessRefused : Obligations.AccessRefused := by
  unfold Obligations.AccessRefused
  intro who n off v s hn ho hb
  obtain ⟨h1, h2⟩ := hub_control hn ho
  have ht := target_hub (by omega) ho hb s
  refine ⟨fun hd hp _ => ?_, fun hh h4 => ?_, fun hc h4 _ _ => ?_⟩
  · refine does (exec_registerWrite who _ v s) ?_
    rw [regWrite_refused (refuse_data hd hp h1 (by decide) h2 true s)]
    obtain ⟨hf, hq⟩ := refusal_frame pgHubId 0x09 ((pageBase (.hub n) + off) / 64) 0xFF s [] false false
    exact ⟨rfl, codeIn_congr rfl (codeIn_recordAt (by decide) (by decide) (by decide) _ _ s), hq, hf⟩
  · refine does (exec_registerWrite .host _ v s) ?_
    rw [regWrite_control (by decide) h1 h2 (by have := pageBase_mod (.hub n); omega) ht v.isLt, controlWrite_hostDenied hh]
    obtain ⟨hf, hq⟩ := refusal_frame pgHubId 0x06 ((pageBase (.hub n) + off) / 64) 0xFF s [] true false
    exact ⟨codeIn_congr rfl (codeIn_recordAt (by decide) (by decide) (by decide) _ _ s), hq, hf⟩
  · refine does (exec_registerWrite who _ v s) ?_
    have hx : (pageBase (.hub n) + off) % 4 ≠ 0 := by have := pageBase_mod (.hub n); omega
    rw [regWrite_refused (refuse_misaligned hc h1 (by decide) h2 ht (Or.inl hx) true)]
    obtain ⟨hf, hq⟩ := refusal_frame (.hub n) 0x04 ((pageBase (.hub n) + off) / 64) 0xFF s [] false false
    exact ⟨rfl, codeIn_congr rfl (recordAt_align_shows _ _ _ s).1, hq, hf⟩

/-! ### Accesses that are performed -/

/-- A read by a control master of a register word reads the page. -/
theorem devRead_control {who : Agent} (hc : controls who = true) {a off : Nat} {p : Page} {s : State} (h1 : 0x40000000 ≤ a)
    (h2 : a + 4 ≤ 0x62000000) (h4 : a % 4 = 0) (ht : target s a = .inr (p, off)) :
    devRead who a 4 s = (leBytes 4 (readPage who p off s).1, true, (readPage who p off s).2) := by
  simp [devRead, refuse_control hc h1 h2 h4 ht, regionOf_control h1 (by omega : a < 0x62000000), ht]

/-- A LO word is aligned, and the next word, its HI word, is in the page and no LO word itself. MBX and INTC, where a read can have an
effect of its own, have no LO words. -/
theorem isLoWord_facts {p : Page} {off : Nat} (h : isLoWord p off = true) :
    off % 4 = 0 ∧ off + 4 < 4096 ∧ p ≠ pgMbx ∧ p ≠ pgIntc ∧ isLoWord p (off + 4) = false := by
  simp only [isLoWord, Bool.or_eq_true, Bool.and_eq_true, decide_eq_true_eq] at h
  rcases h with ((⟨rfl, rfl⟩ | ⟨rfl, rfl⟩) | ⟨rfl, rfl⟩) | ⟨⟨rfl, h8⟩, h⟩
  · decide
  · decide
  · decide
  · refine ⟨by omega, by omega, by decide, by decide, ?_⟩
    simp [isLoWord, show (off + 4) % 8 ≠ 0 by omega]

/-- A read of a LO word answers it and latches what its HI word shows (R278). -/
theorem readPage_lo {p : Page} {off : Nat} (h : isLoWord p off = true) (who : Agent) (s : State) :
    readPage who p off s = (readWord s p off, latchHi (pageBase p + off + 4) (readWord s p (off + 4)) s) := by
  obtain ⟨_, _, hm, hi, _⟩ := isLoWord_facts h
  simp [readPage, hm, hi, h]

/-- A read of a HI word answers its latch (R278). -/
theorem readPage_hi {p : Page} {off : Nat} (h : isLoWord p off = true) {w : Word} {s : State}
    (hw : s.io.latch.head? = some (pageBase p + off + 4, w)) (who : Agent) : readPage who p (off + 4) s = (w.toNat, s) := by
  obtain ⟨_, _, hm, hi, hn⟩ := isLoWord_facts h
  obtain ⟨r, hr⟩ := List.head?_eq_some_iff.1 hw
  simp [readPage, hm, hi, h, hn, hr, Nat.add_assoc]

theorem samesBut_refl (l : List Piece) (s : State) : samesBut l s s := ⟨rfl, fun p _ => p.same_refl s⟩

theorem samesBut_latchHi (a v : Nat) (s : State) : samesBut [.io] s (latchHi a v s) :=
  samesBut_keeps (latchHi_keeps a v (by decide) (Keeps.refl _ s))

theorem devWrite_hubSram {who : Agent} (hc : controls who = true) {a : Nat} {b : List Byte} (h1 : 0x04000000 ≤ a) (h : b ≠ [])
    (h2 : a + b.length ≤ 0x06000000) (s : State) : devWrite who a b s = (true, memWrite a b s) := by
  have hn : b.length ≠ 0 := by simpa using h
  simp [devWrite, refuse_hubSram hc h1 hn h2, regionOf_hubSram h1 (by omega : a < 0x06000000), storeDev_hubSram h1 h h2,
    chargeMem_hubSram h1 hn h2]

theorem devRead_hubSram {who : Agent} (hc : controls who = true) {a len : Nat} (h1 : 0x04000000 ≤ a) (h : len ≠ 0)
    (h2 : a + len ≤ 0x06000000) (s : State) : devRead who a len s = (memBytes s a len, true, s) := by
  simp [devRead, refuse_hubSram hc h1 h h2, regionOf_hubSram h1 (by omega : a < 0x06000000), chargeMem_hubSram h1 h h2]

theorem pageWrite_malletOff {s : State} (h : locked s pgDbg = false) (who : Agent) : pageWrite who pgDbg 0x44 0x100 s = malletOff s := by
  have b : Nat.testBit 0x100 8 = true := by decide
  simp [pageWrite, underLock, h, applyWord, blkOf, onBit, b]

theorem malletOff_off (s : State) : flag (malletOff s) pgDbg Reg.DBG_MAL_OFF = true := by
  rw [flag, malletOff, getF_setF_same (by decide)]
  decide

theorem malletOff_session (s : State) : flag (malletOff s) pgDbg Reg.DBG_MAL_SESSION = false := by
  rw [flag, malletOff, getF_setF_apart (by decide) (by decide), getF_setF_same (by decide)]
  decide

theorem regsBut_malletOff (s : State) : regsBut [0x40061044] s (malletOff s) :=
  regsBut_setF 1 (by decide) (regsBut_setF 0 (by decide) (regsBut_refl _ s))

/-- Settles O16: a control master's access to a page or to hub SRAM passes the path, and the page or the memory answers it. -/
theorem deviceAccess : Obligations.DeviceAccess := by
  unfold Obligations.DeviceAccess
  intro who n off a b s hc
  refine ⟨fun hn ho hb hl => ?_, fun h1 hb h2 => ?_, fun hh hl => ?_⟩
  · obtain ⟨h4, h12, _, _, _⟩ := isLoWord_facts hl
    have hm := pageBase_mod (.hub n)
    have ht := target_hub (by omega) ho hb s
    have ht' := target_hub (n := n) (off := off + 4) (by omega) h12 hb s
    constructor
    · obtain ⟨h1, h2⟩ := hub_control hn ho
      refine does (exec_loWordRead ht hl) ?_
      rw [devRead_control hc h1 h2 (by omega) ht, readPage_lo hl]
      exact ⟨samesBut_answer (by decide) (samesBut_latchHi _ _ s) _ _ _, rfl, rfl⟩
    · intro w hw
      obtain ⟨h1, h2⟩ := hub_control (off := off + 4) hn h12
      refine does (exec_deviceRead who _ 4 s) ?_
      rw [Nat.add_assoc, devRead_control hc h1 h2 (by omega) ht', readPage_hi hl hw]
      exact ⟨samesBut_answer (by decide) (samesBut_refl _ s) _ _ _, rfl⟩
  · constructor
    · refine does (exec_deviceWrite who a b.length b s) ?_
      rw [devWrite_hubSram hc h1 hb h2]
      have hk : samesBut [.io, .mem] s (memWrite a b s) := samesBut_keeps (memWrite_keeps a b (by decide) (Keeps.refl _ s))
      have hr : memBytes (answer [] true false (memWrite a b s)) a b.length = b := by
        rw [memBytes_congr (answer_mem _ _ _ _), memBytes_memWrite]
      exact ⟨samesBut_answer (by decide) hk _ _ _, rfl, hr, fun x hx => sparseGet_memWrite a b s hx⟩
    · refine does (exec_deviceRead who a b.length s) ?_
      rw [devRead_hubSram hc h1 (by simpa using hb) h2]
      exact ⟨samesBut_answer (by decide) (samesBut_refl _ s) _ _ _, rfl⟩
  · refine does (exec_malletOffWrite who s) ?_
    rw [regWrite_hub hc (by decide) (by decide) (by decide) (by decide) (fun e => absurd e hh) (by decide), pageWrite_malletOff hl]
    have hk : samesBut [.regs, .io] s (malletOff s) := samesBut_keeps (malletOff_keeps (by decide) (Keeps.refl _ s))
    exact ⟨samesBut_answer (by decide) hk _ _ _, malletOff_off s, malletOff_session s, regsBut_answer _ _ _ (regsBut_malletOff s)⟩

end Sys2Proof.Machine
end

section
/-! PROOFS. Chapter 01, what its statements share: where the words of the ports' blocks stand, what leaves them alone, and what a link
that goes DOWN does to them (R33). -/

namespace Sys2Proof.Machine

open Sys2Proof

/-! ### The words of the ports' blocks -/

/-- The address of the first word of a port's block. -/
def portBlock (p : Nat) : Nat := pageBase (portPage p).1 + 0x80 + (portPage p).2 * 0x20

/-- A field of a port's block. -/
def portRow (r : Row) : Bool := r.s1 = 0x20 && 0x80 ≤ r.off && r.off < 0xA0 && r.lo + r.w ≤ 32

/-- A control address from offset 0x080 on of a page with W-link ports. -/
abbrev portWord (a : Nat) : Prop :=
  0x80 ≤ a % 4096 ∧ (a / 4096 = 0x4005A ∨ a / 4096 = 0x50007 ∨ a / 4096 = 0x51007 ∨ a / 4096 = 0x52007 ∨ a / 4096 = 0x53007 ∨
    a / 4096 = 0x60001 ∨ a / 4096 = 0x61001)

theorem portRow_iff (r : Row) : portRow r = true ↔ r.s1 = 0x20 ∧ 0x80 ≤ r.off ∧ r.off < 0xA0 ∧ r.lo + r.w ≤ 32 := by
  simp [portRow, and_assoc]

theorem fieldAddr_port {r : Row} (h : portRow r = true) (p : Nat) :
    fieldAddr (portPage p).1 r (portPage p).2 0 = portBlock p + (r.off - 0x80) := by
  obtain ⟨hs, hl, -, -⟩ := (portRow_iff r).1 h
  simp only [fieldAddr, portBlock, hs]
  omega

/-- The pages with ports, and a port's number there: WLK, WLKD of a compute die, and an island's. -/
theorem portPage_cases {p : Nat} (hp : p < 20) :
    (∃ k < 6, p = k ∧ portPage p = (pgWlk, k)) ∨ (∃ d < 4, ∃ k < 3, p = 6 + 3 * d + k ∧ portPage p = (pgWlkd d, k)) ∨
      ∃ i < 2, p = 18 + i ∧ portPage p = (.wlki i, 0) := by
  unfold portPage
  split
  · exact Or.inl ⟨p, by omega, rfl, rfl⟩
  · split
    · exact Or.inr (Or.inl ⟨(p - 6) / 3, by omega, (p - 6) % 3, by omega, by omega, rfl⟩)
    · exact Or.inr (Or.inr ⟨p - 18, by omega, by omega, rfl⟩)

theorem portBlock_cases {p : Nat} (hp : p < 20) :
    (p < 6 ∧ portBlock p = 0x4005A080 + p * 0x20) ∨ (∃ d < 4, ∃ k < 3, p = 6 + 3 * d + k ∧ portBlock p = 0x50007080 + d * 0x1000000 + k * 0x20) ∨
      ∃ i < 2, p = 18 + i ∧ portBlock p = 0x60001080 + i * 0x1000000 := by
  unfold portBlock
  rcases portPage_cases hp with ⟨k, hk, e, h⟩ | ⟨d, hd, k, hk, e, h⟩ | ⟨i, hi, e, h⟩ <;> simp only [h, pageBase]
  · exact Or.inl ⟨by omega, by omega⟩
  · exact Or.inr (Or.inl ⟨d, hd, k, hk, e, by omega⟩)
  · exact Or.inr (Or.inr ⟨i, hi, e, by omega⟩)

/-- The blocks stand in pages with ports, each in its own 32 bytes. -/
theorem portBlock_facts {p : Nat} (hp : p < 20) :
    portBlock p % 32 = 0 ∧ portBlock p % 4096 < 4065 ∧ portWord (portBlock p) := by
  unfold portWord
  rcases portBlock_cases hp with ⟨hk, h⟩ | ⟨d, hd, k, hk, -, h⟩ | ⟨i, hi, -, h⟩ <;> omega

theorem portBlock_injective {p q : Nat} (hp : p < 20) (hq : q < 20) (e : portBlock q = portBlock p) : q = p := by
  rcases portBlock_cases hp with ⟨hk, h⟩ | ⟨d, hd, k, hk, hn, h⟩ | ⟨i, hi, hn, h⟩ <;>
    rcases portBlock_cases hq with ⟨hk', h'⟩ | ⟨d', hd', k', hk', hn', h'⟩ | ⟨i', hi', hn', h'⟩ <;> omega

theorem portWord_field {r : Row} (h : portRow r = true) {p : Nat} (hp : p < 20) :
    portWord (fieldAddr (portPage p).1 r (portPage p).2 0) := by
  obtain ⟨-, hl, hu, -⟩ := (portRow_iff r).1 h
  obtain ⟨-, hb, hw⟩ := portBlock_facts hp
  rw [fieldAddr_port h]
  omega

theorem fieldAddr_port_ne {r r' : Row} (h : portRow r = true) (h' : portRow r' = true) {p q : Nat} (hp : p < 20) (hq : q < 20) (e : q ≠ p) :
    fieldAddr (portPage q).1 r' (portPage q).2 0 ≠ fieldAddr (portPage p).1 r (portPage p).2 0 := by
  obtain ⟨-, hl, hu, -⟩ := (portRow_iff r).1 h
  obtain ⟨-, hl', hu', -⟩ := (portRow_iff r').1 h'
  obtain ⟨hb, -, -⟩ := portBlock_facts hp
  obtain ⟨hb', -, -⟩ := portBlock_facts hq
  have := mt (portBlock_injective hp hq) e
  rw [fieldAddr_port h, fieldAddr_port h']
  omega

theorem quiet_of_portWord {a : Nat} (h : portWord a) : quiet a := by
  unfold portWord at h
  unfold quiet
  omega

/-! ### A port's field after a write of a port's field -/

/-- A field of another port is unchanged. -/
theorem portF_setPortF_other {r r' : Row} (h : portRow r = true) (h' : portRow r' = true) {p q : Nat} (hp : p < 20) (hq : q < 20) (e : q ≠ p)
    (v : Nat) (s : State) : portF (setPortF p r v s) q r' = portF s q r' := getFij_setFij_ne (fieldAddr_port_ne h h' hp hq e) v s

/-- Another field, of the same port or of another, is unchanged. -/
theorem portF_setPortF_apart {r r' : Row} (h : portRow r = true) (h' : portRow r' = true) (a : apart r r' = true) {p q : Nat} (hp : p < 20)
    (hq : q < 20) (v : Nat) (s : State) : portF (setPortF p r v s) q r' = portF s q r' := by
  obtain ⟨hs, -, -, hw⟩ := (portRow_iff r).1 h
  obtain ⟨hs', -, -, -⟩ := (portRow_iff r').1 h'
  by_cases e : q = p
  · subst e
    exact portF_setPortF hw (hs.trans hs'.symm) a v s
  · exact portF_setPortF_other h h' hp hq e v s

theorem portF_congr {s t : State} (h : t.regs = s.regs) (p : Nat) (r : Row) : portF t p r = portF s p r := getFi_congr h _ r _

/-! ### What leaves the ports' words alone -/

/-- Every word of the ports' blocks reads in `t` as in `s`. -/
def keepsPorts (s t : State) : Prop := ∀ a, portWord a → regW t a = regW s a

theorem portF_keepsPorts {s t : State} (k : keepsPorts s t) {p : Nat} (hp : p < 20) {r : Row} (h : portRow r = true) :
    portF t p r = portF s p r := by
  unfold portF getFi getFij
  rw [k _ (portWord_field h hp)]

theorem keepsPorts_refl (s : State) : keepsPorts s s := fun _ _ => rfl

theorem keepsPorts_trans {r s t : State} (h : keepsPorts r s) (k : keepsPorts s t) : keepsPorts r t :=
  fun a ha => (k a ha).trans (h a ha)

theorem keepsPorts_same {s t u : State} (h : u.regs = t.regs) (k : keepsPorts s t) : keepsPorts s u :=
  fun a ha => (regW_congr h a).trans (k a ha)

theorem keepsPorts_seq {s t : State} (q : Seq) (k : keepsPorts s t) : keepsPorts s { t with seq := q } := k

theorem keepsPorts_setF {s t : State} {p : Page} {r : Row} (h : ¬ portWord (fieldAddr p r 0 0)) (v : Nat) (k : keepsPorts s t) :
    keepsPorts s (setF p r v t) := fun a ha => (regW_setFij_ne (fun e => h (e ▸ ha)) v t).trans (k a ha)

theorem keepsPorts_quietBut {l : List Nat} (h : ∀ a ∈ l, ¬ portWord a) {s t : State} (k : quietBut l s t) : keepsPorts s t :=
  fun a ha => k a (quiet_of_portWord ha) fun hm => h a hm ha

theorem keepsPorts_recordAt {s t : State} (p : Page) (code addr part : Nat) (k : keepsPorts s t) :
    keepsPorts s (recordAt p code addr part t) := fun a ha => (regW_recordAt (quiet_of_portWord ha) p code addr part t).trans (k a ha)

theorem keepsPorts_record {s t : State} (p : Page) (code : Nat) (k : keepsPorts s t) : keepsPorts s (record p code t) :=
  keepsPorts_recordAt p code 0 0xFF k

theorem keepsPorts_recordWarn {s t : State} (p : Page) (code addr part : Nat) (k : keepsPorts s t) :
    keepsPorts s (recordWarn p code addr part t) := fun a ha => (regW_recordWarn (quiet_of_portWord ha) p code addr part t).trans (k a ha)

theorem keepsPorts_journal {s t : State} (etype key : Nat) (data : List Byte) (words : List (Nat × Word)) (k : keepsPorts s t) :
    keepsPorts s (journal etype key data words t) := by
  intro a ha
  have hq := quiet_of_portWord ha
  rw [← k a ha]
  unfold journal
  dsimp only
  split
  · exact queueEntry_ne hq.2 _ t
  · rw [regW_record hq, queueEntry_ne hq.2]

theorem keepsPorts_foldl {α : Type} (f : State → α → State) (l : List α) (h : ∀ t, ∀ x ∈ l, keepsPorts t (f t x)) {s t : State}
    (k : keepsPorts s t) : keepsPorts s (l.foldl f t) := by
  induction l generalizing t with
  | nil => exact k
  | cons x r ih => exact ih (fun u y hy => h u y (List.mem_cons_of_mem _ hy)) (keepsPorts_trans k (h t x List.mem_cons_self))

/-! ### A die that leaves service -/

theorem not_portWord_pe (d : Nat) {e : Nat} (he : e < 18) {r : Row} (h : r.off < 4096) : ¬ portWord (fieldAddr (pgPe d e) r 0 0) := by
  simp only [fieldAddr, pageBase, portWord]
  omega

theorem not_portWord_sch {d : Nat} (hd : d < 4) {r : Row} (h : r.off < 4096) : ¬ portWord (fieldAddr (pgSch d) r 0 0) := by
  simp only [fieldAddr, pageBase, portWord]
  omega

theorem not_portWord_cdId (d : Nat) {r : Row} (h : r.off < 4096) : ¬ portWord (fieldAddr (pgCdId d) r 0 0) := by
  simp only [fieldAddr, pageBase, portWord]
  omega

theorem keepsPorts_stopDie {d : Nat} (hd : d < 4) {s t : State} (k : keepsPorts s t) : keepsPorts s (stopDie d t) := by
  refine keepsPorts_setF (not_portWord_sch hd (by decide)) _ (keepsPorts_setF (not_portWord_sch hd (by decide)) _
    (keepsPorts_foldl _ _ (fun u e he => ?_) (keepsPorts_same (modDie_regs _ _ t) k)))
  have he := List.mem_range.1 he
  dsimp only
  split
  · exact keepsPorts_setF (not_portWord_pe d he (by decide)) _ (keepsPorts_setF (not_portWord_pe d he (by decide)) _ (keepsPorts_refl u))
  · exact keepsPorts_setF (not_portWord_pe d he (by decide)) _ (keepsPorts_refl u)

theorem keepsPorts_startFallback (d : Nat) {s t : State} (k : keepsPorts s t) : keepsPorts s (startFallback d t) := by
  unfold startFallback
  split
  · exact k
  · exact keepsPorts_setF (by decide) _ (keepsPorts_setF (by decide) _ (keepsPorts_setF (by decide) _ (keepsPorts_setF (by decide) _
      (keepsPorts_same rfl k))))

/-- A die that leaves service keeps its W-links' registers (R467). -/
theorem keepsPorts_dieLeave (d : Nat) {s t : State} (k : keepsPorts s t) : keepsPorts s (dieLeave d t) := by
  unfold dieLeave
  split
  next h =>
    have hd : d < 4 := by simp only [inService, Bool.and_eq_true, decide_eq_true_eq] at h; exact h.1
    refine keepsPorts_startFallback d (keepsPorts_seq _ ?_)
    exact keepsPorts_stopDie hd (keepsPorts_setF (by decide) _ (keepsPorts_setF (not_portWord_cdId d (by decide)) _ k))
  · exact k

/-! ### A link that goes DOWN (R33) -/

theorem peerPort_facts {p : Nat} (hp : p < 20) : peerPort p < 20 ∧ peerPort p ≠ p := by
  revert p
  decide

/-- One end that goes DOWN: its state, and that of every other port as it was. -/
theorem endDown_state {p q : Nat} (hp : p < 20) (hq : q < 20) (w : Bool) (s : State) :
    portF (endDown p w s) q Reg.PORT_P_STAT_STATE = if q = p then 4 else portF s q Reg.PORT_P_STAT_STATE := by
  have k : keepsPorts (setPortF p Reg.PORT_P_STAT_STATE 4 s) (endDown p w s) := by
    have c (t : State) (v : Nat) : keepsPorts t (if p < 6 then setF pgWlk Reg.WLK_CENSUS_DOWN v t else t) := by
      split
      · exact keepsPorts_setF (by decide) v (keepsPorts_refl t)
      · exact keepsPorts_refl t
    unfold endDown
    dsimp only
    split
    · exact keepsPorts_recordWarn _ _ _ _ (c _ _)
    · exact keepsPorts_recordAt _ _ _ _ (c _ _)
  rw [portF_keepsPorts k hq (by decide)]
  split
  next e => rw [e]; exact portF_setPortF_same (by decide) 4 s
  next e => exact portF_setPortF_other (by decide) (by decide) hp hq e 4 s

/-- The end that goes DOWN first and the other one are the two ends of the link. -/
theorem linkEnds {p q e : Nat} (h : e = q ∨ e = Nat.min p q) :
    e = p ∧ (if e = Nat.min p q then Nat.max p q else Nat.min p q) = q ∨
      e = q ∧ (if e = Nat.min p q then Nat.max p q else Nat.min p q) = p := by
  rcases Nat.le_total p q with k | k <;> rcases h with rfl | rfl <;> simp [k]

/-- A link that goes DOWN is DOWN at both its ends; one that is DOWN stays so. -/
theorem linkDown_state {p : Nat} (hp : p < 20) (s : State) : portF (linkDown p s) p Reg.PORT_P_STAT_STATE = 4 := by
  obtain ⟨hq, -⟩ := peerPort_facts hp
  have both {e f : Nat} (h : e = p ∧ f = peerPort p ∨ e = peerPort p ∧ f = p) (w : Bool) :
      portF (endDown f false (endDown e w s)) p Reg.PORT_P_STAT_STATE = 4 := by
    rcases h with ⟨rfl, rfl⟩ | ⟨rfl, rfl⟩
    · rw [endDown_state hq hp, endDown_state hp hp, if_pos rfl, ite_self]
    · rw [endDown_state hp hp, if_pos rfl]
  have first (c : Bool) : (if c then peerPort p else Nat.min p (peerPort p)) = peerPort p ∨
      (if c then peerPort p else Nat.min p (peerPort p)) = Nat.min p (peerPort p) := by
    cases c
    · exact Or.inr rfl
    · exact Or.inl rfl
  unfold linkDown
  rw [if_neg (by omega)]
  split
  next h => exact h
  next h =>
    dsimp only
    split
    · rw [portF_keepsPorts (keepsPorts_dieLeave _ (keepsPorts_refl _)) hp (by decide)]
      exact both (linkEnds (first _)) _
    · exact both (linkEnds (first _)) _

end Sys2Proof.Machine
end

section
/-! PROOFS. Chapter 01: the partner port (R39 to R43). -/

namespace Sys2Proof.Machine

open Sys2Proof

/-! ### The fence (R42) -/

theorem uciFence_state (cause : Nat) (s : State) : getF (uciFence cause s) pgUci Reg.UCI_STAT_STATE = 5 := by
  rw [uciFence, getF_emit, getF_setF_apart (by decide) (by decide), getF_setF_same (by decide)]
  rfl

theorem uciFence_cause (cause : Nat) (s : State) : getF (uciFence cause s) pgUci Reg.UCI_STAT_CAUSE = cause % 16 := by
  rw [uciFence, getF_emit, getF_setF_same (by decide)]
  rfl

theorem quietBut_uciFence {l : List Nat} (h : 0x40059044 ∈ l) (cause : Nat) {s t : State} (k : quietBut l s t) :
    quietBut l s (uciFence cause t) := quietBut_emit _ (quietBut_setF cause h (quietBut_setF 5 h k))

theorem puts_uciFence {s t : State} (cause : Nat) (h : grows s t) : puts .uciFence s (uciFence cause t) :=
  puts_emit .uciFence (grows_same rfl h)

/-- What a fence that records a code shows. -/
theorem record_uciFence (cause code : Nat) (hc : code < 256) {s t : State} (h : grows s t) :
    getF (record pgUci code (uciFence cause t)) pgUci Reg.UCI_STAT_STATE = 5 ∧
      getF (record pgUci code (uciFence cause t)) pgUci Reg.UCI_STAT_CAUSE = cause % 16 ∧
      codeIn (record pgUci code (uciFence cause t)) pgUci code ∧ puts .uciFence s (record pgUci code (uciFence cause t)) := by
  refine ⟨?_, ?_, codeIn_recordAt (by decide) (by decide) hc 0 0xFF _, puts_grows (grows_record _ _ _) (puts_uciFence cause h)⟩
  · rw [getF_record (by decide), uciFence_state]
  · rw [getF_record (by decide), uciFence_cause]

/-! ### What the commands run -/

theorem exec_uciStart (who : Agent) (s : State) : exec (.uciStart who) s = .next (asMaster pgUci 0x40 who uciStart s) := (rfl)

theorem exec_uciNegotiationDone (o : PartnerOffer) (s : State) :
    exec (.uciNegotiationDone o) s = execUciNegotiationDone o s := (rfl)

theorem exec_uciNegotiationTimeout (s : State) :
    exec .uciNegotiationTimeout s = .next (if uciRuns s then record pgUci 0x87 (uciFence 5 s) else s) := (rfl)

theorem exec_uciRuntimeFence (s : State) : exec .uciRuntimeFence s = .next (linkDown 20 s) := (rfl)

/-- An ACTIVE partner port that fails fences itself (R43). -/
theorem linkDown_partner {s : State} (h : getF s pgUci Reg.UCI_STAT_STATE = 4) : linkDown 20 s = record pgUci 0x89 (uciFence 6 s) := by
  simp [linkDown, h]

/-! ### Negotiation (R41) -/

/-- A partner that trains is known by its PARTNER_ID. -/
def partnerKnown (o : PartnerOffer) (s : State) : State := setF pgUci Reg.UCI_PARTNER_ID o.ident.toNat s

theorem partnerKnown_id (o : PartnerOffer) (s : State) : getF (partnerKnown o s) pgUci Reg.UCI_PARTNER_ID = o.ident.toNat := by
  rw [partnerKnown, getF_setF_same (by decide)]
  exact Nat.mod_eq_of_lt o.ident.isLt

theorem partnerKnown_limit (o : PartnerOffer) (s : State) :
    getF (partnerKnown o s) pgUci Reg.UCI_PWR_LIMIT_LIMIT = getF s pgUci Reg.UCI_PWR_LIMIT_LIMIT :=
  getF_setF_apart (by decide) (by decide) _ s

theorem quietBut_partnerKnown {l : List Nat} (h : 0x40059048 ∈ l) (o : PartnerOffer) {s t : State} (k : quietBut l s t) :
    quietBut l s (partnerKnown o t) := quietBut_setF _ h k

theorem record_uciFence_id (cause code : Nat) (s : State) :
    getF (record pgUci code (uciFence cause s)) pgUci Reg.UCI_PARTNER_ID = getF s pgUci Reg.UCI_PARTNER_ID := by
  rw [getF_record (by decide), uciFence, getF_emit, getF_setF_apart (by decide) (by decide), getF_setF_apart (by decide) (by decide)]

/-- A negotiation that ends: the partner is accepted, or the port fences with its cause. -/
theorem exec_uciNegotiationDone_running {s : State} (h : uciRuns s = true) (o : PartnerOffer) :
    exec (.uciNegotiationDone o) s = .next (
      if o.sideband = false then uciFence 1 s
      else if o.trained = false then record pgUci 0x86 (uciFence 2 s)
      else if o.revision ≠ 1 then record pgUci 0x87 (uciFence 3 (partnerKnown o s))
      else if getF s pgUci Reg.UCI_PWR_LIMIT_LIMIT = 0 ∨ getF s pgUci Reg.UCI_PWR_LIMIT_LIMIT < o.power then
        record pgUci 0x87 (uciFence 4 (partnerKnown o s))
      else setF pgUci Reg.UCI_STAT_STATE 4 (partnerKnown o s)) := by
  rw [exec_uciNegotiationDone, ← partnerKnown_limit o s]
  simp only [execUciNegotiationDone, if_pos h]
  rfl

/-- Settles O13: each end of a negotiation by its own cause, and the fence of a port that fails. -/
theorem partnerPort : Obligations.PartnerPort := by
  unfold Obligations.PartnerPort
  intro who o s
  refine ⟨fun hc hi hv => ?_, fun hr => ⟨?_, ?_⟩, fun ha => ?_⟩
  · refine does_reach rfl (does (exec_uciStart who s) ?_)
    rw [asMaster_hub hc (by decide), uciStart, if_pos ⟨hi, hv⟩]
    exact ⟨getF_setF_same (by decide) 2 s, getF_setF_apart (by decide) (by decide) 2 s, regsBut_setF 2 (by decide) (regsBut_refl _ s)⟩
  · refine does_reach rfl (does (exec_uciNegotiationDone_running hr o) ?_)
    have hk : quietBut [0x40059044, 0x40059048] s (partnerKnown o s) := quietBut_partnerKnown (by decide) o (quietBut_refl _ s)
    have hg : grows s (partnerKnown o s) := grows_same rfl (grows_refl s)
    have fence (cause : Nat) : quietBut [0x40059044, 0x40059048] s (record pgUci 0x87 (uciFence cause (partnerKnown o s))) :=
      quietBut_record _ _ (quietBut_uciFence (by decide) cause hk)
    have known (cause : Nat) :
        getF (record pgUci 0x87 (uciFence cause (partnerKnown o s))) pgUci Reg.UCI_PARTNER_ID = o.ident.toNat :=
      (record_uciFence_id cause 0x87 _).trans (partnerKnown_id o s)
    by_cases hb : o.sideband = false
    · simp only [if_pos hb]
      exact ⟨quietBut_uciFence (by decide) 1 (quietBut_refl _ s), uciFence_state 1 s, uciFence_cause 1 s, rfl, puts_uciFence 1 (grows_refl s)⟩
    by_cases ht : o.trained = false
    · simp only [if_neg hb, if_pos ht]
      exact ⟨quietBut_record _ _ (quietBut_uciFence (by decide) 2 (quietBut_refl _ s)), record_uciFence 2 0x86 (by decide) (grows_refl s)⟩
    by_cases hv : o.revision ≠ 1
    · simp only [if_neg hb, if_neg ht, if_pos hv]
      exact ⟨fence 3, known 3, record_uciFence 3 0x87 (by decide) hg⟩
    by_cases hp : getF s pgUci Reg.UCI_PWR_LIMIT_LIMIT = 0 ∨ getF s pgUci Reg.UCI_PWR_LIMIT_LIMIT < o.power
    · simp only [if_neg hb, if_neg ht, if_neg hv, if_pos hp]
      exact ⟨fence 4, known 4, record_uciFence 4 0x87 (by decide) hg⟩
    · simp only [if_neg hb, if_neg ht, if_neg hv, if_neg hp]
      exact ⟨quietBut_setF 4 (by decide) hk, (getF_setF_apart (by decide) (by decide) 4 _).trans (partnerKnown_id o s),
        getF_setF_same (by decide) 4 _⟩
  · refine does_reach rfl (does (exec_uciNegotiationTimeout s) ?_)
    rw [if_pos hr]
    exact ⟨quietBut_record _ _ (quietBut_uciFence (by decide) 5 (quietBut_refl _ s)), record_uciFence 5 0x87 (by decide) (grows_refl s)⟩
  · refine does_reach rfl (does (exec_uciRuntimeFence s) ?_)
    rw [linkDown_partner ha]
    exact ⟨quietBut_record _ _ (quietBut_uciFence (by decide) 6 (quietBut_refl _ s)), record_uciFence 6 0x89 (by decide) (grows_refl s)⟩

end Sys2Proof.Machine
end

section
/-! PROOFS. Chapter 01: the flits of a port (R21 to R27), and spares and repair (R28 to R31). -/

namespace Sys2Proof.Machine

open Sys2Proof

/-! ### A port beside its registers -/

theorem portOf_congr {s t : State} (h : t.links = s.links) (p : Nat) : portOf t p = portOf s p := by unfold portOf; rw [h]

theorem modPort_count (p : Nat) (f : Port → Port) (s : State) : (modPort p f s).links.ports.length = s.links.ports.length := by
  simp [modPort]

/-! ### Flits that are sent (R22, R23) -/

theorem sendFlit_regs (p cls ty : Nat) (data : List DWord) (s : State) : (sendFlit p cls ty data s).regs = s.regs := (rfl)

theorem grows_sendFlit {r s : State} (p cls ty : Nat) (data : List DWord) (h : grows r s) : grows r (sendFlit p cls ty data s) :=
  grows_emit _ h

theorem sendFlit_rxSwitch {p : Nat} {s : State} (h : p < s.links.ports.length) (cls ty : Nat) (data : List DWord) :
    (portOf (sendFlit p cls ty data s) p).rxSwitch = (portOf s p).rxSwitch := by
  simp only [sendFlit, portOf_congr (emit_links _ _), portOf_modPort _ h]

/-- The CRC and the fields above them leave the low byte of a flit's header as it was given. -/
theorem hdrF_makeFlit {h lo : Nat} (e : h % 256 = lo % 256) (data : List DWord) {i w : Nat} (hw : i + w ≤ 8) :
    hdrF (makeFlit h data) i w = bitsOf lo i w := by
  obtain ⟨c, hc⟩ := Nat.exists_eq_add_of_le hw
  have m (y : Nat) : bitsOf y i w = y % 2 ^ 8 / 2 ^ i % 2 ^ w := by
    unfold bitsOf
    rw [hc, Nat.pow_add, Nat.pow_add, Nat.mul_assoc, Nat.mod_mul_right_div_self, Nat.mod_mul_right_mod]
  have k : (makeFlit h data).hdr.toNat % 2 ^ 8 = lo % 2 ^ 8 := by
    simp only [makeFlit, BitVec.toNat_ofNat]
    omega
  rw [hdrF, m, k, ← m]

/-- A credit-only flit takes no SEQ and no credit, and returns what is owed (R23). -/
theorem creditFlit_port {p : Nat} {s : State} (h : p < s.links.ports.length) :
    portOf (sendFlit p 3 0 [] s) p =
      { portOf s p with
        owed := [nth0 (portOf s p).owed 0 - 15, nth0 (portOf s p).owed 1 - 15, nth0 (portOf s p).owed 2 - 3] } := by
  have e (a b : Nat) : b - Nat.min a b = b - a := by
    rcases Nat.le_total a b with h | h <;> simp [h]
  simp only [sendFlit, portOf_congr (emit_links _ _), portOf_modPort _ h, if_true, e]

/-- A credit-only flit is of CLASS 3 and says whether NAK is returned (R22). -/
theorem creditFlit_out (p : Nat) {r s : State} (h : grows r s) :
    ∃ f, puts (.flit p f) r (sendFlit p 3 0 [] s) ∧ hdrF f 0 2 = 3 ∧ hdrF f 6 1 = if (portOf s p).nak then 1 else 0 := by
  refine ⟨_, puts_emit _ (grows_same rfl h), ?_, ?_⟩ <;>
    rw [hdrF_makeFlit (lo := 131 + 64 * if (portOf s p).nak then 1 else 0) (by omega) _ (by decide)] <;>
    cases (portOf s p).nak <;> rfl

/-! ### A flit that is rejected (R27) -/

theorem satAdd_lt (w a n : Nat) : satAdd w a n < 2 ^ w :=
  Nat.lt_of_le_of_lt (Nat.min_le_right _ _) (Nat.sub_lt (by positivity) Nat.one_pos)

/-- What counting parity errors at port `p` leaves alone. -/
def countsParity (p : Nat) (s t : State) : Prop :=
  t.links.ports.length = s.links.ports.length ∧ t.io = s.io ∧ portF t p Reg.PORT_P_ERR_REPLAYS = portF s p Reg.PORT_P_ERR_REPLAYS ∧
    ∃ a b, portOf t p = { portOf s p with parity := a, recent := b }

theorem countParity_counts {p : Nat} (n w : Nat) {s : State} (h : p < s.links.ports.length) : countsParity p s (countParity p n s w) := by
  have c (f : Port → Port) (t : State) (hl : t.links = (modPort p f s).links) :
      t.links.ports.length = s.links.ports.length ∧ portOf t p = f (portOf s p) :=
    ⟨by rw [hl, modPort_count], (portOf_congr hl p).trans (portOf_modPort f h)⟩
  unfold countParity
  dsimp only
  split
  · obtain ⟨hl, hq⟩ := c _ _ (setPortF_links _ _ _ _)
    exact ⟨hl, rfl, portF_setPortF (r := Reg.PORT_P_ERR_LAST_WIRE) (r' := Reg.PORT_P_ERR_REPLAYS) (by decide) rfl (by decide) _ _, _, _, hq⟩
  · obtain ⟨hl, hq⟩ := c _ _ rfl
    exact ⟨hl, rfl, rfl, _, _, hq⟩

theorem countParity_all (p n : Nat) (wires : List Nat) {s : State} (h : p < s.links.ports.length) :
    countsParity p s (wires.foldl (countParity p n) s) := by
  induction wires generalizing s with
  | nil => exact ⟨rfl, rfl, rfl, _, _, rfl⟩
  | cons w r ih =>
    obtain ⟨hl, ho, hf, a, b, hq⟩ := countParity_counts n w h
    obtain ⟨hl', ho', hf', a', b', hq'⟩ := ih (hl ▸ h)
    exact ⟨hl'.trans hl, ho'.trans ho, hf'.trans hf, a', b', by rw [List.foldl_cons, hq', hq]⟩

/-- A rejected flit before its NAK goes out: the failing wires and the failure are counted. -/
def flitCounted (p n : Nat) (wires : List Nat) (s : State) : State :=
  let s := modPort p (fun q => { q with fails := q.fails + 1, nak := true }) (wires.foldl (countParity p n) s)
  setPortF p Reg.PORT_P_ERR_REPLAYS (satAdd 16 (portF s p Reg.PORT_P_ERR_REPLAYS) 1) s

theorem flitCounted_port (p n : Nat) (wires : List Nat) {s : State} (h : p < s.links.ports.length) :
    (flitCounted p n wires s).links.ports.length = s.links.ports.length ∧ (flitCounted p n wires s).io = s.io ∧
      ∃ a b, portOf (flitCounted p n wires s) p =
        { portOf s p with parity := a, recent := b, fails := (portOf s p).fails + 1, nak := true } := by
  obtain ⟨hl, ho, -, a, b, hq⟩ := countParity_all p n wires h
  refine ⟨(modPort_count _ _ _).trans hl, ho, a, b, ?_⟩
  rw [flitCounted, portOf_congr (setPortF_links _ _ _ _), portOf_modPort _ (hl ▸ h), hq]

theorem flitCounted_replays (p n : Nat) (wires : List Nat) {s : State} (h : p < s.links.ports.length) :
    portF (flitCounted p n wires s) p Reg.PORT_P_ERR_REPLAYS = satAdd 16 (portF s p Reg.PORT_P_ERR_REPLAYS) 1 := by
  obtain ⟨-, -, hf, -⟩ := countParity_all p n wires h
  rw [flitCounted, portF_setPortF_same (by decide), portF_congr (modPort_regs _ _ _), hf]
  exact Nat.mod_eq_of_lt (satAdd_lt 16 _ 1)

/-- A flit that has failed fewer than three times before is asked for again. -/
theorem flitRejected_again {p : Nat} (hp : p < 20) (n : Nat) (wires : List Nat) {s : State} (h : p < s.links.ports.length)
    (hf : (portOf s p).fails < 3) : flitRejected p n wires s = sendFlit p 3 0 [] (flitCounted p n wires s) := by
  obtain ⟨-, -, a, b, hq⟩ := flitCounted_port p n wires h
  have e : flitRejected p n wires s =
      if (portOf (flitCounted p n wires s) p).fails ≥ 4 then linkDown p (record (portPage p).1 0x81 (flitCounted p n wires s))
      else sendFlit p 3 0 [] (flitCounted p n wires s) := by
    unfold flitRejected flitCounted
    simp only [if_pos hp]
  rw [e, hq, if_neg (by dsimp only; omega)]

/-! ### A flit that is accepted (R26, R27) -/

theorem emitAll_same (p : Nat) (l : List Flit) (s : State) :
    (l.foldl (fun t g => emit (.flit p g) t) s).links = s.links ∧ (l.foldl (fun t g => emit (.flit p g) t) s).regs = s.regs := by
  induction l generalizing s with
  | nil => exact ⟨rfl, rfl⟩
  | cons g r ih => exact ih (emit (.flit p g) s)

/-- The credits of a port with those that a flit returns. -/
def creditsWith (q : Port) (f : Flit) : List Nat :=
  [nth0 q.credits 0 + hdrF f 24 4, nth0 q.credits 1 + hdrF f 28 4, nth0 q.credits 2 + hdrF f 32 2]

/-- Credits that the buffers hold are taken. -/
theorem takeCredits_fit {p : Nat} {f : Flit} {s : State} (h0 : nth0 (portOf s p).credits 0 + hdrF f 24 4 ≤ 32)
    (h1 : nth0 (portOf s p).credits 1 + hdrF f 28 4 ≤ 32) (h2 : nth0 (portOf s p).credits 2 + hdrF f 32 2 ≤ 8) :
    takeCredits p f s = modPort p (fun q => { q with credits := creditsWith (portOf s p) f }) s := by
  have h : ¬ (nth0 (creditsWith (portOf s p) f) 0 > 32 ∨ nth0 (creditsWith (portOf s p) f) 1 > 32 ∨
      nth0 (creditsWith (portOf s p) f) 2 > 8) := by
    simp only [creditsWith, nth0, List.getD_cons_zero, List.getD_cons_succ]
    simp only [nth0] at h0 h1 h2
    omega
  exact if_neg h

/-- A port that has taken a good flit of a class with a SEQ, but for the credits that the flit returns. -/
def portTook (f : Flit) (q : Port) : Port :=
  { q with
    ack := hdrF f 8 8, fails := 0, nak := false, replay := unacked q (hdrF f 16 8), got := some f
    owed := q.owed.modify (hdrF f 0 2) (· + 1) }

/-- A good flit of a class that takes a SEQ writes no register: the port takes it and the credits that it returns. -/
theorem flitAccepted_port {p : Nat} {f : Flit} {s : State} (h : p < s.links.ports.length) (hc : hdrF f 0 2 ≠ 3)
    (h0 : nth0 (portOf s p).credits 0 + hdrF f 24 4 ≤ 32) (h1 : nth0 (portOf s p).credits 1 + hdrF f 28 4 ≤ 32)
    (h2 : nth0 (portOf s p).credits 2 + hdrF f 32 2 ≤ 8) :
    (flitAccepted p f s).regs = s.regs ∧
      portOf (flitAccepted p f s) p = { portTook f (portOf s p) with credits := creditsWith (portOf s p) f } := by
  obtain ⟨t, ht, hr, hn, hq⟩ : ∃ t, flitAccepted p f s = takeCredits p f t ∧ t.regs = s.regs ∧ p < t.links.ports.length ∧
      portOf t p = portTook f (portOf s p) := by
    unfold flitAccepted
    simp only [if_neg hc]
    split
    · refine ⟨_, rfl, (emitAll_same _ _ _).2, ?_, (portOf_congr (emitAll_same _ _ _).1 p).trans (portOf_modPort _ h)⟩
      rw [(emitAll_same _ _ _).1, modPort_count]
      exact h
    · exact ⟨_, rfl, rfl, by rw [modPort_count]; exact h, portOf_modPort _ h⟩
  have hk : (portOf t p).credits = (portOf s p).credits := by rw [hq]; rfl
  rw [ht, takeCredits_fit (hk ▸ h0) (hk ▸ h1) (hk ▸ h2), portOf_modPort _ hn]
  refine ⟨hr, ?_⟩
  rw [hq]
  rfl

/-! ### What the commands run -/

theorem exec_flitReceive {p : Nat} {s : State} (h : portTakes s p = true) (f : Flit) (n : Nat) :
    exec (.flitReceive p f n) s = .next (
      if badWires f ≠ [] ∨ crcHolds f = false then flitRejected p n (badWires f) (at_ n s)
      else if hdrF f 0 2 = 3 ∨ hdrF f 8 8 = ((portOf s p).ack + 1) % 256 then flitAccepted p f (at_ n s)
      else at_ n s) := by
  have e : exec (.flitReceive p f n) s = execFlitReceive p f n s := rfl
  have h' : portTakes (at_ n s) p = true := h
  rw [e, execFlitReceive]
  simp only [if_pos h']
  rfl

theorem exec_creditOnlyFlit (p : Nat) (s : State) :
    exec (.creditOnlyFlit p) s = .next (if portTakes s p ∧ sumOf (portOf s p).owed ≠ 0 then sendFlit p 3 0 [] s else s) := (rfl)

/-- Settles O10: a flit is rejected and asked for again, or accepted; credits owed go out in a flit of their own. -/
theorem flitReceive : Obligations.FlitReceive := by
  unfold Obligations.FlitReceive
  intro p f n s hp hn ht
  have h : p < s.links.ports.length := by omega
  refine ⟨fun hb hf => ?_, fun hw hc h3 hs h0 h1 h2 => ?_, fun ho => ?_⟩
  · refine does_reach rfl (does (exec_flitReceive ht f n) ?_)
    obtain ⟨hl, hio, a, b, hq⟩ := flitCounted_port p n (badWires f) (s := at_ n s) h
    have hr : (portOf (flitCounted p n (badWires f) (at_ n s)) p).nak = true := by rw [hq]
    obtain ⟨g, hg, hg3, hg1⟩ := creditFlit_out p (grows_same (congrArg (·.outbox) hio) (grows_refl s))
    rw [if_pos hb, flitRejected_again (s := at_ n s) hp n _ h hf, creditFlit_port (by rw [hl]; exact h), hq]
    refine ⟨rfl, rfl, rfl, rfl, rfl, ?_, g, hg, hg3, by rw [hg1, if_pos hr]⟩
    rw [portF_congr (sendFlit_regs _ _ _ _ _), flitCounted_replays (s := at_ n s) p n _ h]
    rfl
  · refine does_reach rfl (does (exec_flitReceive ht f n) ?_)
    have hg : ¬ (badWires f ≠ [] ∨ crcHolds f = false) := by simp [hw, hc]
    rw [if_neg hg, if_pos (Or.inr hs)]
    obtain ⟨hr, hq⟩ := flitAccepted_port (s := at_ n s) h h3 h0 h1 h2
    rw [hq]
    exact ⟨rfl, rfl, rfl, rfl, rfl, rfl, regsBut_same hr (regsBut_refl _ s)⟩
  · refine does_reach rfl (does (exec_creditOnlyFlit p s) ?_)
    obtain ⟨g, hg, hg3, -⟩ := creditFlit_out p (grows_refl s)
    rw [if_pos ⟨ht, ho⟩, creditFlit_port h]
    exact ⟨⟨g, hg, hg3⟩, rfl, rfl, rfl, rfl, rfl⟩

end Sys2Proof.Machine
end

section
/-! PROOFS. Chapter 01: spares and the repair of wires (R28 to R31). -/

namespace Sys2Proof.Machine

open Sys2Proof

/-! ### The repair fields of a port -/

/-- A repair in force shows its valid bit and its wire: the valid bit is written last and shares no bit with the wire. -/
theorem repairFields_set {v w : Row} (hv : v.lo + v.w ≤ 32) (hw : w.lo + w.w ≤ 32) (hs : v.s1 = w.s1) (ha : apart v w = true) (h1 : v.w = 1)
    (h6 : w.w = 6) (p : Nat) {wire : Nat} (h : wire < 64) (s : State) :
    portF (setPortF p v 1 (setPortF p w wire s)) p v = 1 ∧ portF (setPortF p v 1 (setPortF p w wire s)) p w = wire := by
  rw [portF_setPortF_same hv, portF_setPortF hv hs ha, portF_setPortF_same hw, h1, h6]
  exact ⟨rfl, Nat.mod_eq_of_lt h⟩

theorem setRxRepair_shows (p : Nat) {wire : Nat} (h : wire < 64) (spare : Nat) (s : State) :
    if spare = 0 then portF (setRxRepair p wire spare s) p Reg.PORT_P_REPAIR_RX_A_V = 1 ∧ portF (setRxRepair p wire spare s) p Reg.PORT_P_REPAIR_RX_A = wire
    else portF (setRxRepair p wire spare s) p Reg.PORT_P_REPAIR_RX_B_V = 1 ∧ portF (setRxRepair p wire spare s) p Reg.PORT_P_REPAIR_RX_B = wire := by
  by_cases h0 : spare = 0
  · simp only [setRxRepair, if_pos h0]
    exact repairFields_set (v := Reg.PORT_P_REPAIR_RX_A_V) (w := Reg.PORT_P_REPAIR_RX_A) (by decide) (by decide) rfl (by decide) rfl rfl p h s
  · simp only [setRxRepair, if_neg h0]
    exact repairFields_set (v := Reg.PORT_P_REPAIR_RX_B_V) (w := Reg.PORT_P_REPAIR_RX_B) (by decide) (by decide) rfl (by decide) rfl rfl p h s

theorem setTxRepair_shows (p : Nat) {wire : Nat} (h : wire < 64) (spare : Nat) (s : State) :
    if spare = 0 then portF (setTxRepair p wire spare s) p Reg.PORT_P_REPAIR_TX_A_V = 1 ∧ portF (setTxRepair p wire spare s) p Reg.PORT_P_REPAIR_TX_A = wire
    else portF (setTxRepair p wire spare s) p Reg.PORT_P_REPAIR_TX_B_V = 1 ∧ portF (setTxRepair p wire spare s) p Reg.PORT_P_REPAIR_TX_B = wire := by
  by_cases h0 : spare = 0
  · simp only [setTxRepair, if_pos h0]
    exact repairFields_set (v := Reg.PORT_P_REPAIR_TX_A_V) (w := Reg.PORT_P_REPAIR_TX_A) (by decide) (by decide) rfl (by decide) rfl rfl p h s
  · simp only [setTxRepair, if_neg h0]
    exact repairFields_set (v := Reg.PORT_P_REPAIR_TX_B_V) (w := Reg.PORT_P_REPAIR_TX_B) (by decide) (by decide) rfl (by decide) rfl rfl p h s

theorem setRxRepair_links (p wire spare : Nat) (s : State) : (setRxRepair p wire spare s).links = s.links := by
  unfold setRxRepair
  split <;> simp only [setPortF_links]

theorem setTxRepair_links (p wire spare : Nat) (s : State) : (setTxRepair p wire spare s).links = s.links := by
  unfold setTxRepair
  split <;> simp only [setPortF_links]

theorem showSpares_links (p : Nat) (s : State) : (showSpares p s).links = s.links := by
  unfold showSpares
  split
  · exact setPortF_links _ _ _ _
  · rfl

/-- NO_SPARE is all that is shown of the spares. -/
theorem portF_showSpares {r : Row} (h : portRow r = true) (a : apart Reg.PORT_P_STAT_NO_SPARE r = true) {p q : Nat} (hp : p < 20) (hq : q < 20)
    (s : State) : portF (showSpares p s) q r = portF s q r := by
  unfold showSpares
  split
  · exact portF_setPortF_apart (by decide) h a hp hq 1 s
  · rfl

/-! ### A spare that shows errors (R28) -/

theorem testBit_putBits_one (v i : Nat) : (putBits v i 1 1).testBit i = true := by
  have h : putBits v i 1 1 / 2 ^ i % 2 = 1 := bitsOf_putBits_same v i 1 1
  rw [Nat.testBit_eq_decide_div_mod_eq, h]
  rfl

/-- A spare that is marked in a field of two bits shows as marked. -/
theorem spareBad_marked {r : Row} (h : portRow r = true) (a : apart Reg.PORT_P_STAT_NO_SPARE r = true) (h2 : r.w = 2) {p k : Nat} (hp : p < 20)
    (hk : k < 2) (v : Nat) (s : State) : (portF (showSpares p (setPortF p r (putBits v k 1 1) s)) p r).testBit k = true := by
  obtain ⟨-, -, -, hw⟩ := (portRow_iff r).1 h
  rw [portF_showSpares h a hp hp, portF_setPortF_same hw, h2, Nat.testBit_mod_two_pow, testBit_putBits_one]
  simp [hk]

theorem txSpareFree_of_bad {s : State} {p k : Nat} (h : (portF s p Reg.PORT_P_STAT_TX_SPARE_BAD).testBit k = true) :
    txSpareFree s p k = false := by simp [txSpareFree, h]

theorem rxSpareFree_of_bad {s : State} {p k : Nat} (h : (portF s p Reg.PORT_P_STAT_RX_SPARE_BAD).testBit k = true) :
    rxSpareFree s p k = false := by simp [rxSpareFree, h]

theorem exec_sparePrbsError_tx {p k : Nat} {s : State} (hp : p < 20) (hk : k < 2) (h : txSpareFree s p k = true) :
    exec (.sparePrbsError p true k) s = .next (showSpares p (setPortF p Reg.PORT_P_STAT_TX_SPARE_BAD
      (putBits (portF s p Reg.PORT_P_STAT_TX_SPARE_BAD) k 1 1) s)) := by
  have e : exec (.sparePrbsError p true k) s = execSparePrbsError p true k s := rfl
  simp only [e, execSparePrbsError, if_pos (And.intro hp hk), if_pos h, if_true]

theorem exec_sparePrbsError_rx {p k : Nat} {s : State} (hp : p < 20) (hk : k < 2) (h : rxSpareFree s p k = true) :
    exec (.sparePrbsError p false k) s = .next (showSpares p (setPortF p Reg.PORT_P_STAT_RX_SPARE_BAD
      (putBits (portF s p Reg.PORT_P_STAT_RX_SPARE_BAD) k 1 1) s)) := by
  have e : exec (.sparePrbsError p false k) s = execSparePrbsError p false k s := rfl
  simp only [e, execSparePrbsError, if_pos (And.intro hp hk), if_pos h, Bool.false_eq_true, if_false]

/-! ### The receiver asks for a repair (R29, R30) -/

/-- A repair as its receiver announces it: the switch to come, the REPAIR flit, and the record. -/
def repairAnnounced (p wire k sw : Nat) (s : State) : State :=
  repairRecord p wire k 1 (sendFlit p 2 1 [BitVec.ofNat 64 (wire + 256 * k + 65536 * sw)] (emit (.repair p wire k sw)
    (modPort p (fun q => { q with rxSwitch := some (wire, k, sw) }) s)))

theorem repairRecord_links (p wire k dir : Nat) (s : State) : (repairRecord p wire k dir s).links = s.links :=
  (repairRecord_keeps p wire k dir (K := 8) rfl (Keeps.refl 8 s)).frame .links rfl

theorem grows_repairRecord (p wire k dir : Nat) (s : State) : grows s (repairRecord p wire k dir s) :=
  grows_trans (grows_record _ _ s) (grows_journal _ _ _ _ _)

theorem repairAnnounced_switch {p : Nat} {s : State} (h : p < s.links.ports.length) (wire k sw : Nat) :
    (portOf (repairAnnounced p wire k sw s) p).rxSwitch = some (wire, k, sw) := by
  rw [repairAnnounced, portOf_congr (repairRecord_links _ _ _ _ _), sendFlit_rxSwitch (by rw [emit_links, modPort_count]; exact h),
    portOf_congr (emit_links _ _), portOf_modPort _ h]

theorem repairAnnounced_puts (p wire k sw : Nat) (s : State) : puts (.repair p wire k sw) s (repairAnnounced p wire k sw s) :=
  puts_grows (grows_repairRecord _ _ _ _ _) (puts_grows (grows_sendFlit _ _ _ _ (grows_refl _)) (puts_emit _ (grows_same rfl (grows_refl s))))

/-- Is a wire that the port receives due for a repair: eight errors in the last 10 ms, and no repair yet. -/
def repairDue (s : State) (p wire : Nat) : Prop :=
  8 ≤ ((portOf s p).recent.filter (fun e => e.1 = wire ∧ s.io.now < e.2 + 10000000)).length ∧ rxRepaired s p wire = false

theorem exec_laneRepair_none {p wire : Nat} {s : State} (hp : p < 20) (hw : wire < 64) (ht : portTakes s p = true) (hd : repairDue s p wire)
    (hk : pickRxSpare s p = none) : exec (.laneRepair p wire) s = .next (setPortF p Reg.PORT_P_STAT_NO_SPARE 1 s) := by
  have e : exec (.laneRepair p wire) s = execLaneRepair p wire s := rfl
  obtain ⟨h8, hx⟩ := hd
  rw [e, execLaneRepair]
  simp only [if_pos (And.intro hp (And.intro hw (And.intro ht (And.intro h8 hx)))), hk]

theorem exec_laneRepair_some {p wire k : Nat} {s : State} (hp : p < 20) (hw : wire < 64) (ht : portTakes s p = true) (hd : repairDue s p wire)
    (hk : pickRxSpare s p = some k) : exec (.laneRepair p wire) s = .next (
      let t := repairAnnounced p wire k (((portOf s p).ack + 64) % 256) s
      if rxSpareFree t p (1 - k) then t else setPortF p Reg.PORT_P_STAT_NO_SPARE 1 t) := by
  have e : exec (.laneRepair p wire) s = execLaneRepair p wire s := rfl
  obtain ⟨h8, hx⟩ := hd
  rw [e, execLaneRepair]
  simp only [if_pos (And.intro hp (And.intro hw (And.intro ht (And.intro h8 hx)))), hk]
  rfl

/-! ### The sender and the switch (R29) -/

theorem exec_repairFlit {p wire spare : Nat} {s : State} (hp : p < 20) (hw : wire < 64) (hk : spare < 2) (ht : portTakes s p = true) (sw : Nat) :
    exec (.repairFlit p wire spare sw) s = .next (modPort p (fun q => { q with txSwitch := some (wire, spare, sw % 256) }) s) := by
  have e : exec (.repairFlit p wire spare sw) s = execRepairFlit p wire spare sw s := rfl
  simp only [e, execRepairFlit, if_pos (And.intro hp (And.intro hw (And.intro hk ht)))]

theorem exec_repairSwitch_rx {p wire spare sw : Nat} {s : State} (hp : p < 20) (h : p < s.links.ports.length)
    (hr : (portOf s p).rxSwitch = some (wire, spare, sw)) (ht : (portOf s p).txSwitch = none) :
    exec (.repairSwitch p) s = .next (showSpares p (setRxRepair p wire spare (modPort p (fun q => { q with rxSwitch := none }) s))) := by
  have e : exec (.repairSwitch p) s = execRepairSwitch p s := rfl
  have ht' : (portOf (setRxRepair p wire spare (modPort p (fun q => { q with rxSwitch := none }) s)) p).txSwitch = none := by
    rw [portOf_congr (setRxRepair_links _ _ _ _), portOf_modPort _ h, ht]
  simp only [e, execRepairSwitch, if_pos hp, hr, ht']

theorem exec_repairSwitch_tx {p wire spare sw : Nat} {s : State} (hp : p < 20) (ht : (portOf s p).txSwitch = some (wire, spare, sw))
    (hr : (portOf s p).rxSwitch = none) :
    exec (.repairSwitch p) s = .next (showSpares p (setTxRepair p wire spare (modPort p (fun q => { q with txSwitch := none }) s))) := by
  have e : exec (.repairSwitch p) s = execRepairSwitch p s := rfl
  simp only [e, execRepairSwitch, if_pos hp, hr, ht]

/-- Settles O9: each command's own branch, and the port and its fields after it. -/
theorem laneRepair : Obligations.LaneRepair := by
  unfold Obligations.LaneRepair
  intro p wire spare sw s hp hw hk hn ht
  have h : p < s.links.ports.length := by omega
  refine ⟨fun h8 hx => ⟨fun k hs => ?_, fun hs => ?_⟩, ?_, fun hr hx => ?_, fun hx hr => ?_, fun hf => ?_, fun hf => ?_⟩
  · refine does_reach rfl (does (exec_laneRepair_some hp hw ht ⟨h8, hx⟩ hs) ?_)
    dsimp only
    split
    · exact ⟨repairAnnounced_switch h _ _ _, repairAnnounced_puts _ _ _ _ s⟩
    · rw [portOf_congr (setPortF_links _ _ _ _)]
      exact ⟨repairAnnounced_switch h _ _ _, puts_grows (grows_same rfl (grows_refl _)) (repairAnnounced_puts _ _ _ _ s)⟩
  · refine does (exec_laneRepair_none hp hw ht ⟨h8, hx⟩ hs) ?_
    exact ⟨samesBut_keeps (setPortF_keeps _ _ _ (by decide) (Keeps.refl _ s)), portF_setPortF_same (by decide) 1 s,
      regsBut_setFi 1 List.mem_cons_self (regsBut_refl _ s)⟩
  · refine does_reach rfl (does (exec_repairFlit hp hw hk ht sw) ?_)
    rw [portOf_modPort _ h]
  · refine does_reach rfl (does (exec_repairSwitch_rx hp h hr hx) ?_)
    rw [portOf_congr (showSpares_links _ _), portOf_congr (setRxRepair_links _ _ _ _), portOf_modPort _ h]
    simp only [portF_showSpares (r := Reg.PORT_P_REPAIR_RX_A_V) (by decide) (by decide) hp hp,
      portF_showSpares (r := Reg.PORT_P_REPAIR_RX_A) (by decide) (by decide) hp hp,
      portF_showSpares (r := Reg.PORT_P_REPAIR_RX_B_V) (by decide) (by decide) hp hp,
      portF_showSpares (r := Reg.PORT_P_REPAIR_RX_B) (by decide) (by decide) hp hp]
    exact ⟨trivial, setRxRepair_shows p hw spare _⟩
  · refine does_reach rfl (does (exec_repairSwitch_tx hp hx hr) ?_)
    rw [portOf_congr (showSpares_links _ _), portOf_congr (setTxRepair_links _ _ _ _), portOf_modPort _ h]
    simp only [portF_showSpares (r := Reg.PORT_P_REPAIR_TX_A_V) (by decide) (by decide) hp hp,
      portF_showSpares (r := Reg.PORT_P_REPAIR_TX_A) (by decide) (by decide) hp hp,
      portF_showSpares (r := Reg.PORT_P_REPAIR_TX_B_V) (by decide) (by decide) hp hp,
      portF_showSpares (r := Reg.PORT_P_REPAIR_TX_B) (by decide) (by decide) hp hp]
    exact ⟨trivial, setTxRepair_shows p hw spare _⟩
  · refine does_reach rfl (does (exec_sparePrbsError_tx hp hk hf) ?_)
    have hb := spareBad_marked (r := Reg.PORT_P_STAT_TX_SPARE_BAD) rfl (by decide) rfl hp hk (portF s p Reg.PORT_P_STAT_TX_SPARE_BAD) s
    exact ⟨hb, txSpareFree_of_bad hb⟩
  · refine does_reach rfl (does (exec_sparePrbsError_rx hp hk hf) ?_)
    have hb := spareBad_marked (r := Reg.PORT_P_STAT_RX_SPARE_BAD) rfl (by decide) rfl hp hk (portF s p Reg.PORT_P_STAT_RX_SPARE_BAD) s
    exact ⟨hb, rxSpareFree_of_bad hb⟩

end Sys2Proof.Machine
end

section
/-! PROOFS. Chapter 01: the clock wires, stand-alone mode and the loop test (R31, R34, R47). -/

namespace Sys2Proof.Machine

open Sys2Proof

/-! ### What the commands run -/

theorem exec_clockWireFailure {p : Nat} (hp : p < 20) (valid : Bool) (s : State) :
    exec (.clockWireFailure p valid) s = .next (linkDown p s) :=
  congrArg Host.Outcome.next (if_pos (by omega))

theorem exec_standaloneEnter (die : Nat) (s : State) :
    exec (.standaloneEnter die) s = .next (
      if lcState s ≠ 2 then { s with links := { s.links with alone := die :: s.links.alone.filter (· ≠ die) } } else s) := (rfl)

theorem exec_loopTestRun {who : Agent} (hc : controls who = true) (p : Nat) (s : State) :
    exec (.loopTestRun who p) s = .next (startLoopTest p s) := by
  have e : exec (.loopTestRun who p) s = execLoopTestRun who p s := rfl
  rw [e, execLoopTestRun, dataRefusal_control hc]

theorem exec_loopTestDone {p : Nat} {s : State} (hp : p < 20) (h : portF s p Reg.PORT_P_LOOP_RUN = 1) (w : Option Nat) :
    exec (.loopTestDone p w) s = .next (setPortF p Reg.PORT_P_LOOP_RUN 0 (setPortF p Reg.PORT_P_LOOP_DONE 1
      (setPortF p Reg.PORT_P_LOOP_PASS (if w = none then 1 else 0) (setPortF p Reg.PORT_P_LOOP_FAIL_WIRE (w.getD 0) s)))) :=
  congrArg Host.Outcome.next (if_pos ⟨hp, h⟩)

/-! ### The loop test's registers (R47) -/

/-- Another field of the same port is unchanged. -/
theorem portF_setPortF_own {r r' : Row} (h : (portRow r && portRow r' && apart r r') = true) (p v : Nat) (s : State) :
    portF (setPortF p r v s) p r' = portF s p r' := by
  simp only [Bool.and_eq_true, portRow_iff] at h
  obtain ⟨⟨⟨hs, -, -, hw⟩, hs', -⟩, ha⟩ := h
  exact portF_setPortF hw (hs.trans hs'.symm) ha v s

/-- In PRODUCTION no loop test starts (R34). -/
theorem startLoopTest_production {s : State} (h : lcState s = 2) (p : Nat) : startLoopTest p s = s := by
  simp [startLoopTest, h]

theorem startLoopTest_shows {p : Nat} {s : State} (hp : p < 20) (hl : lcState s ≠ 2) (ha : s.links.alone.contains (portDie p) = true)
    (hm : portF s p Reg.PORT_P_LOOP_MODE = 1 ∨ portF s p Reg.PORT_P_LOOP_MODE = 2) :
    portF (startLoopTest p s) p Reg.PORT_P_LOOP_RUN = 1 ∧ portF (startLoopTest p s) p Reg.PORT_P_LOOP_DONE = 0 ∧
      portF (startLoopTest p s) p Reg.PORT_P_LOOP_PASS = 0 ∧ portF (startLoopTest p s) p Reg.PORT_P_STAT_STATE = 5 ∧
      portF (startLoopTest p s) p Reg.PORT_P_LOOP_MODE = portF s p Reg.PORT_P_LOOP_MODE := by
  rw [startLoopTest, if_pos ⟨hp, hl, ha, hm⟩]
  refine ⟨portF_setPortF_same (by decide) 1 _, ?_, ?_, ?_, ?_⟩
  · rw [portF_setPortF_own (by decide), portF_setPortF_same (by decide)]
    rfl
  · rw [portF_setPortF_own (by decide), portF_setPortF_own (by decide), portF_setPortF_same (by decide)]
    rfl
  · rw [portF_setPortF_own (by decide), portF_setPortF_own (by decide), portF_setPortF_own (by decide), portF_setPortF_own (by decide),
      portF_setPortF_same (by decide)]
    rfl
  · rw [portF_setPortF_own (by decide), portF_setPortF_own (by decide), portF_setPortF_own (by decide), portF_setPortF_own (by decide),
      portF_setPortF_own (by decide)]

/-- Settles O12: the link goes DOWN, the mode is entered outside PRODUCTION, and the test's word shows its start and its end. -/
theorem loopTest : Obligations.LoopTest := by
  unfold Obligations.LoopTest
  intro who p die valid w s hp hc
  refine ⟨?_, ?_, ?_, fun hr hw => ?_⟩
  · exact does_reach rfl (does (exec_clockWireFailure hp valid s) (linkDown_state hp s))
  · refine does_reach rfl (does (exec_standaloneEnter die s) ?_)
    split
    next h => exact ⟨rfl, fun _ => by simp, fun e => absurd e h⟩
    next h => exact ⟨rfl, fun e => absurd e h, fun _ => rfl⟩
  · refine does_reach rfl (does (exec_loopTestRun hc p s) ?_)
    exact ⟨fun h => startLoopTest_production h p, fun hl ha hm => startLoopTest_shows hp hl ha hm⟩
  · refine does_reach rfl (does (exec_loopTestDone hp hr w) ?_)
    refine ⟨portF_setPortF_same (by decide) 0 _, ?_, ?_, ?_, ?_⟩
    · rw [portF_setPortF_own (by decide), portF_setPortF_same (by decide)]
      rfl
    · rw [portF_setPortF_own (by decide), portF_setPortF_own (by decide), portF_setPortF_same (by decide)]
      split <;> rfl
    · rw [portF_setPortF_own (by decide), portF_setPortF_own (by decide), portF_setPortF_own (by decide), portF_setPortF_same (by decide)]
      exact Nat.mod_eq_of_lt hw
    · have m : fieldAddr (portPage p).1 Reg.PORT_P_LOOP_RUN (portPage p).2 0 ∈ [fieldAddr (portPage p).1 Reg.PORT_P_LOOP_RUN (portPage p).2 0] :=
        List.mem_cons_self
      exact regsBut_setFi 0 m (regsBut_setFi 1 m (regsBut_setFi _ m (regsBut_setFi _ m (regsBut_refl _ s))))

end Sys2Proof.Machine
end

section
/-! PROOFS. Chapter 01: a write of P_LOOP in PRODUCTION (R34). -/

namespace Sys2Proof.Machine

open Sys2Proof

/-! ### Where P_LOOP stands -/

/-- The offset of a port's P_LOOP in its page. -/
def loopOff (p : Nat) : Nat := 0x98 + 0x20 * (portPage p).2

/-- A field that a write of P_LOOP in PRODUCTION leaves as it is: read-only, one that only starts a test, or MODE. -/
def loopKept (r : Row) : Bool := r.acc = .ro || r.acc = .w1s || (r.acc = .rw && sameRow r Reg.PORT_P_LOOP_MODE)

theorem loop_addr (p : Nat) : pageBase (portPage p).1 + loopOff p = portBlock p + 0x18 := by
  unfold loopOff portBlock
  omega

theorem loopOff_range {p : Nat} (hp : p < 20) : 0x40 ≤ loopOff p ∧ loopOff p < 0x1000 := by
  unfold loopOff
  rcases portPage_cases hp with ⟨k, hk, -, h⟩ | ⟨d, -, k, hk, -, h⟩ | ⟨i, -, -, h⟩ <;> simp only [h] <;> omega

theorem loop_portWord {p : Nat} (hp : p < 20) : portWord (pageBase (portPage p).1 + loopOff p) := by
  obtain ⟨hb, hm, hw⟩ := portBlock_facts hp
  rw [loop_addr]
  omega

/-- P_LOOP is an aligned word of the control region. -/
theorem loop_control {p : Nat} (hp : p < 20) :
    (pageBase (portPage p).1 + loopOff p) % 4 = 0 ∧ 0x40000000 ≤ pageBase (portPage p).1 + loopOff p ∧
      pageBase (portPage p).1 + loopOff p + 4 ≤ 0x62000000 := by
  obtain ⟨hb, hm, hw⟩ := portBlock_facts hp
  rw [loop_addr]
  omega

theorem loop_quiet {p : Nat} (hp : p < 20) : quiet (pageBase (portPage p).1 + loopOff p) := quiet_of_portWord (loop_portWord hp)

theorem pageOfAddr_port {p off : Nat} (hp : p < 20) (ho : off < 0x1000) :
    pageOfAddr (pageBase (portPage p).1 + off) = some ((portPage p).1, off) := by
  unfold pageOfAddr
  rcases portPage_cases hp with ⟨k, -, -, h⟩ | ⟨d, hd, k, -, -, h⟩ | ⟨i, hi, -, h⟩ <;> simp only [h, pageBase]
  · rw [if_neg (by omega), if_pos (by omega), show (0x40000000 + 0x5A * 0x1000 + off - 0x40000000) / 0x1000 = 0x5A by omega,
      show (0x40000000 + 0x5A * 0x1000 + off) % 0x1000 = off by omega]
  · rw [if_neg (by omega), if_neg (by omega), if_pos (by omega),
      show (0x50000000 + d * 0x1000000 + 7 * 0x1000 + off - 0x50000000) / 0x1000000 = d by omega,
      show (0x50000000 + d * 0x1000000 + 7 * 0x1000 + off) % 0x1000000 / 0x1000 = 7 by omega,
      show (0x50000000 + d * 0x1000000 + 7 * 0x1000 + off) % 0x1000 = off by omega]
  · have m : (0x60001000 + i * 0x1000000 + off) % 0x1000 = off := by omega
    rw [m, if_neg (by omega), if_neg (by omega), if_neg (by omega), if_neg (by omega), if_neg (by omega)]
    obtain rfl | rfl : i = 0 ∨ i = 1 := by omega
    · rw [if_pos (by omega)]
    · rw [if_neg (by omega), if_neg (by omega), if_neg (by omega), if_pos (by omega)]

/-- The fields of P_LOOP in a page of each kind. -/
theorem rowsAt_loop :
    (∀ k < 6, (rowsAt pgWlk (0x98 + 0x20 * k)).all (fun x => loopKept x.1) = true) ∧
      (∀ d, ∀ k < 3, (rowsAt (pgWlkd d) (0x98 + 0x20 * k)).all (fun x => loopKept x.1) = true) ∧
      ∀ i, (rowsAt (.wlki i) 0x98).all (fun x => loopKept x.1) = true := by
  refine ⟨by decide, fun d k hk => ?_, fun i => rfl⟩
  interval_cases k <;> rfl

theorem loop_rows {p : Nat} (hp : p < 20) : ∀ x ∈ rowsAt (portPage p).1 (loopOff p), loopKept x.1 = true := by
  obtain ⟨hw, hd, hi⟩ := rowsAt_loop
  unfold loopOff
  rcases portPage_cases hp with ⟨k, hk, -, h⟩ | ⟨d, -, k, hk, -, h⟩ | ⟨i, -, -, h⟩ <;> simp only [h]
  · exact List.all_eq_true.1 (hw k hk)
  · exact List.all_eq_true.1 (hd d k hk)
  · exact List.all_eq_true.1 (hi i)

/-- MODE takes no value in PRODUCTION. -/
theorem legal_loopMode {s : State} (h : lcState s = 2) {r : Row} (hr : sameRow r Reg.PORT_P_LOOP_MODE = true) (v : Nat) :
    legal s r v = false := by
  simp only [sameRow, Bool.and_eq_true, decide_eq_true_eq] at hr
  obtain ⟨⟨hb, ho⟩, hl⟩ := hr
  simp [legal, sameRow, hb, ho, hl, h, Reg.CYC_PERIOD_NOM_PERIOD, Reg.SCH_BRUSH_FRAC, Reg.QNT_CFG_WIN, Reg.QNT_S_MIN, Reg.ADM_GROWTH_GROWTH,
    Reg.BWREG_M_WIN, Reg.ISL_CAN_DBR, Reg.THM_WARM_FLOOR_C, Reg.HLD_V_TGT, Reg.HLD_I_CHG, Reg.DBG_UART_DIV, Reg.PORT_P_LOOP_MODE]

theorem foldl_kept {α β : Type} (f : β → α → β) (b : β) (l : List α) (h : ∀ x ∈ l, f b x = b) : l.foldl f b = b := by
  induction l with
  | nil => rfl
  | cons x r ih =>
    rw [List.foldl_cons, h x List.mem_cons_self]
    exact ih fun y hy => h y (List.mem_cons_of_mem _ hy)

/-- A word whose fields a write leaves alone is stored as it was. -/
theorem wordAfter_loop {p : Nat} (hp : p < 20) {s : State} (h : lcState s = 2) (v : Nat) :
    wordAfter s (portPage p).1 (loopOff p) v = (regW s (pageBase (portPage p).1 + loopOff p)).toNat := by
  refine foldl_kept _ _ _ fun x hx => ?_
  have hk := loop_rows hp x hx
  simp only [loopKept, Bool.or_eq_true, Bool.and_eq_true, decide_eq_true_eq] at hk
  rcases hk with (hk | hk) | ⟨hk, hm⟩
  · simp only [hk]
  · simp only [hk]
  · simp only [hk, legal_loopMode h hm, Bool.false_eq_true, if_false]

/-! ### The page's write -/

/-- A write of a word that stores what it holds. -/
def writesBack (s t : State) : Prop := t = s ∨ ∃ a, t = setW a (regW s a) s

theorem genWord_loop {p : Nat} (hp : p < 20) {s : State} (h : lcState s = 2) (v : Nat) :
    writesBack s (genWord (portPage p).1 (loopOff p) v s) := by
  refine Or.inr ⟨pageBase (portPage p).1 + loopOff p, ?_⟩
  rw [genWord, wordAfter_loop hp h, BitVec.ofNat_toNat, BitVec.setWidth_eq]

theorem regsBut_writesBack {s t : State} (h : writesBack s t) : regsBut [] s t := by
  rcases h with rfl | ⟨a, rfl⟩
  · exact regsBut_refl _ _
  · intro b _
    rw [regW_setW]
    split
    next e => rw [e]
    · rfl

theorem samesBut_writesBack {s t : State} (h : writesBack s t) : samesBut report s t := by
  rcases h with rfl | ⟨a, rfl⟩
  · exact samesBut_refl _ _
  · exact samesBut_keeps (setW_keeps a _ (by decide) (Keeps.refl _ s))

theorem outbox_writesBack {s t : State} (h : writesBack s t) : t.io.outbox = s.io.outbox := by
  rcases h with rfl | ⟨a, rfl⟩ <;> rfl

theorem lcState_regsBut {s t : State} (h : regsBut [] s t) : lcState t = lcState s := by
  unfold lcState getF getFij
  rw [h _ List.not_mem_nil]

theorem writePorts_loop {p : Nat} (hp : p < 20) {s : State} (h : lcState s = 2) (v : Nat) :
    writesBack s (writePorts (portPage p).1 (loopOff p) v s) := by
  have k := genWord_loop hp h v
  have hl := (lcState_regsBut (regsBut_writesBack k)).trans h
  have e : writePorts (portPage p).1 (loopOff p) v s = genWord (portPage p).1 (loopOff p) v s := by
    simp only [writePorts, onBit, startLoopTest_production hl, ite_self]
    split <;> rfl
  rwa [e]

theorem applyWord_ports {p : Nat} (hp : p < 20) (who : Agent) (off v : Nat) (s : State) :
    applyWord who (portPage p).1 off v s = writePorts (portPage p).1 off v s := by
  rcases portPage_cases hp with ⟨k, -, -, h⟩ | ⟨d, -, k, -, -, h⟩ | ⟨i, -, -, h⟩ <;> rw [h]
  · rfl
  · rfl
  · rfl

/-- No field of P_LOOP is under the lock, and none takes the write. -/
theorem pageWrite_loop {p : Nat} (hp : p < 20) {s : State} (h : lcState s = 2) (who : Agent) (v : Nat) :
    writesBack s (pageWrite who (portPage p).1 (loopOff p) v s) := by
  obtain ⟨ho, -⟩ := loopOff_range hp
  have hn : ((rowsAt (portPage p).1 (loopOff p)).map (fun x => x.1)).filter (fun r => r.acc = .rwl) = [] := by
    refine List.filter_eq_nil_iff.2 fun r hm => ?_
    obtain ⟨x, hx, rfl⟩ := List.mem_map.1 hm
    have hk := loop_rows hp x hx
    intro hw
    simp [loopKept, of_decide_eq_true hw] at hk
  have k := writePorts_loop hp h v
  rw [← applyWord_ports hp who] at k
  rw [pageWrite, if_neg (by omega), underLock]
  split
  · exact k
  · simp only [hn, List.any_nil, Bool.false_eq_true, if_false, List.foldl_nil]
    split
    · exact Or.inl rfl
    · exact k

/-! ### The access (R279, R307, R429, R442) -/

/-- What an ignored write of the word at `a` leaves alone, whatever it records. -/
def ignored (a : Nat) (s t : State) : Prop := samesBut report s t ∧ regW t a = regW s a ∧ quietBut [] s t

theorem ignored_answer {a : Nat} {s t : State} (h : ignored a s t) (d : List Byte) (x y : Bool) : ignored a s (answer d x y t) := by
  obtain ⟨hs, ha, hq⟩ := h
  exact ⟨samesBut_answer (by decide) hs d x y, ha, quietBut_answer d x y hq⟩

theorem ignored_recordAt {a : Nat} (h : quiet a) (p : Page) (code addr part : Nat) (s : State) :
    ignored a s (recordAt p code addr part s) :=
  ⟨samesBut_recordAt p code addr part s, regW_recordAt h p code addr part s, quietBut_recordAt p code addr part (quietBut_refl [] s)⟩

theorem ignored_writesBack (a : Nat) {s t : State} (h : writesBack s t) : ignored a s t :=
  ⟨samesBut_writesBack h, regsBut_writesBack h a List.not_mem_nil, fun b _ hb => regsBut_writesBack h b hb⟩

theorem controlWrite_loop {p : Nat} (hp : p < 20) {s : State} (h : lcState s = 2) (who : Agent) (v : Nat) :
    ignored (pageBase (portPage p).1 + loopOff p) s (controlWrite who (portPage p).1 (loopOff p) v s).2 := by
  have hq := loop_quiet hp
  unfold controlWrite
  dsimp only
  split
  · exact ignored_recordAt hq _ _ _ _ s
  · split
    · exact ignored_recordAt hq _ _ _ _ s
    · exact ignored_writesBack _ (pageWrite_loop hp h who v)

/-- A port's register is reached, or its die is out of service (R429). -/
theorem target_loop {p : Nat} (hp : p < 20) (s : State) :
    target s (pageBase (portPage p).1 + loopOff p) = .inr ((portPage p).1, loopOff p) ∨
      target s (pageBase (portPage p).1 + loopOff p) = .inl 0x03 := by
  unfold target
  rw [pageOfAddr_port hp (loopOff_range hp).2]
  rcases portPage_cases hp with ⟨k, -, -, h⟩ | ⟨d, -, k, -, -, h⟩ | ⟨i, hi, -, h⟩ <;> rw [h]
  · exact Or.inl rfl
  · by_cases hs : inService s d = false
    · exact Or.inr (by simp [blkOf, hs])
    · exact Or.inl (by simp [blkOf, hs])
  · exact Or.inl (by simp [blkOf, hi])

theorem refuse_target {who : Agent} (hc : controls who = true) {a c : Nat} {s : State} (h1 : 0x40000000 ≤ a) (h2 : a + 4 ≤ 0x62000000)
    (ht : target s a = .inl c) (wr : Bool) : refuse who wr a 4 s = some (pathRefusal who c a s) := by
  obtain ⟨hd, hp⟩ := (controls_iff who).1 hc
  simp [refuse, hp, accessRefusal_control h1 (by decide : 4 ≠ 0) h2, hd, regionOf_control h1 (by omega : a < 0x62000000), ht]

theorem regWrite_loop {p : Nat} (hp : p < 20) {s : State} (h : lcState s = 2) {who : Agent} (hw : partOf who = none) {v : Nat}
    (hv : v < 2 ^ 32) :
    ignored (pageBase (portPage p).1 + loopOff p) s (regWrite who (pageBase (portPage p).1 + loopOff p) v s) := by
  obtain ⟨h4, h1, h2⟩ := loop_control hp
  have hq := loop_quiet hp
  cases hd : dataMaster who
  · have hc : controls who = true := (controls_iff who).2 ⟨hd, hw⟩
    rcases target_loop hp s with ht | ht
    · rw [regWrite_control hc h1 h2 h4 ht hv]
      exact ignored_answer (controlWrite_loop hp h who v) _ _ _
    · rw [regWrite_refused (refuse_target hc h1 h2 ht true)]
      exact ignored_answer (ignored_recordAt hq _ _ _ _ s) _ _ _
  · rw [regWrite_refused (refuse_data hd hw h1 (by decide) h2 true s)]
    exact ignored_answer (ignored_recordAt hq _ _ _ _ s) _ _ _

/-- Settles O32: whoever writes P_LOOP in PRODUCTION is refused, or stores the word as it stands. -/
theorem loopWritesIgnored : Obligations.LoopWritesIgnored := by
  unfold Obligations.LoopWritesIgnored
  intro who p v s hp hl hw a
  have ea : a = pageBase (portPage p).1 + loopOff p := Nat.add_assoc _ _ _
  refine ⟨does (exec_registerWrite who a v s) ?_, fun hc => does (exec_loopTestRun hc p s) (startLoopTest_production hl p)⟩
  obtain ⟨hs, ha, hq⟩ := regWrite_loop hp hl hw v.isLt
  rw [ea]
  refine ⟨hs, ha, hq, fun hc h6 => ?_⟩
  have e : (portPage p).1 = pgWlk := by rw [portPage, if_pos h6]
  have k := pageWrite_loop hp hl who v.toNat
  obtain ⟨-, ho⟩ := loopOff_range hp
  obtain ⟨h4, -, -⟩ := loop_control hp
  rw [e] at k h4 ⊢
  have := pageBase_mod pgWlk
  rw [regWrite_hub hc (by decide) ho (by omega) (by decide) (fun _ => rfl) v.isLt]
  have hout := outbox_writesBack k
  exact ⟨regsBut_answer _ _ _ (regsBut_writesBack k), hout⟩

end Sys2Proof.Machine
end

section
/-! PROOFS. Chapter 01: discovery of the dies at boot (R35 to R38). -/

namespace Sys2Proof.Machine

open Sys2Proof

theorem puts_after {e : Emission} {r s t : State} (h : grows r s) (k : puts e s t) : puts e r t := by
  obtain ⟨l, hl⟩ := h
  obtain ⟨m, q, hm⟩ := k
  exact ⟨l ++ m, q, by rw [hm, hl]; simp⟩

/-! ### Training: the repairs before discovery (R35) -/

/-- No port changes its state, and nothing that went out is taken back. -/
def undisturbed (s t : State) : Prop :=
  grows s t ∧ ∀ q < 20, portF t q Reg.PORT_P_STAT_STATE = portF s q Reg.PORT_P_STAT_STATE

theorem undisturbed_refl (s : State) : undisturbed s s := ⟨grows_refl s, fun _ _ => rfl⟩

theorem undisturbed_trans {r s t : State} (h : undisturbed r s) (k : undisturbed s t) : undisturbed r t := by
  obtain ⟨hg, hs⟩ := h
  obtain ⟨kg, ks⟩ := k
  exact ⟨grows_trans hg kg, fun q hq => (ks q hq).trans (hs q hq)⟩

theorem undisturbed_foldl {α : Type} (f : State → α → State) (l : List α) (h : ∀ t, ∀ x ∈ l, undisturbed t (f t x)) (s : State) :
    undisturbed s (l.foldl f s) := by
  induction l generalizing s with
  | nil => exact undisturbed_refl s
  | cons x r ih =>
    exact undisturbed_trans (h s x List.mem_cons_self) (ih (fun t y hy => h t y (List.mem_cons_of_mem _ hy)) _)

theorem undisturbed_keepsPorts {s t : State} (hg : grows s t) (k : keepsPorts s t) : undisturbed s t :=
  ⟨hg, fun _ hq => portF_keepsPorts k hq (by decide)⟩

/-- A write of a port's field apart from its state. -/
theorem undisturbed_setPortF {r : Row} (h : (portRow r && apart r Reg.PORT_P_STAT_STATE) = true) {p : Nat} (hp : p < 20) (v : Nat)
    {s t : State} (k : undisturbed s t) : undisturbed s (setPortF p r v t) := by
  simp only [Bool.and_eq_true] at h
  obtain ⟨hr, ha⟩ := h
  exact undisturbed_trans k ⟨grows_same rfl (grows_refl t), fun _ hq => portF_setPortF_apart hr (by decide) ha hp hq v t⟩

theorem undisturbed_setRxRepair {p : Nat} (hp : p < 20) (wire k : Nat) {s t : State} (h : undisturbed s t) :
    undisturbed s (setRxRepair p wire k t) := by
  unfold setRxRepair
  split <;> exact undisturbed_setPortF (by decide) hp _ (undisturbed_setPortF (by decide) hp _ h)

theorem undisturbed_setTxRepair {p : Nat} (hp : p < 20) (wire k : Nat) {s t : State} (h : undisturbed s t) :
    undisturbed s (setTxRepair p wire k t) := by
  unfold setTxRepair
  split <;> exact undisturbed_setPortF (by decide) hp _ (undisturbed_setPortF (by decide) hp _ h)

theorem undisturbed_repairRecord (p wire k dir : Nat) {s t : State} (h : undisturbed s t) : undisturbed s (repairRecord p wire k dir t) :=
  undisturbed_trans h (undisturbed_keepsPorts (grows_repairRecord p wire k dir t)
    (keepsPorts_journal _ _ _ _ (keepsPorts_record _ _ (keepsPorts_refl t))))

theorem undisturbed_showSpares {p : Nat} (hp : p < 20) {s t : State} (h : undisturbed s t) : undisturbed s (showSpares p t) := by
  unfold showSpares
  split
  · exact undisturbed_setPortF (by decide) hp 1 h
  · exact h

/-- A wire found bad at training is repaired at both ends, or there is no spare for it. -/
theorem undisturbed_trainRepair (s : State) (b : Nat × Nat × Bool) : undisturbed s (trainRepair s b) := by
  unfold trainRepair
  dsimp only
  split
  next h =>
    have hp : b.1 < 20 := by omega
    obtain ⟨hq, -⟩ := peerPort_facts hp
    split
    · split
      · exact undisturbed_repairRecord _ _ _ _ (undisturbed_setRxRepair hq _ _ (undisturbed_setTxRepair hp _ _ (undisturbed_refl s)))
      · exact undisturbed_setPortF (by decide) hp 1 (undisturbed_refl s)
    · split
      · exact undisturbed_repairRecord _ _ _ _ (undisturbed_setTxRepair hq _ _ (undisturbed_setRxRepair hp _ _ (undisturbed_refl s)))
      · exact undisturbed_setPortF (by decide) hp 1 (undisturbed_refl s)
  · exact undisturbed_refl s

/-! ### The hub ports enter discovery (R35) -/

/-- A hub port that is not DOWN enters discovery with its peer; every other port stays as it is. -/
theorem startDiscovery_state {p q : Nat} (hp : p < 6) (hq : q < 20) (s : State) :
    portF (startDiscovery s p) q Reg.PORT_P_STAT_STATE =
      if portF s p Reg.PORT_P_STAT_STATE ≠ 4 ∧ (q = p ∨ q = peerPort p) then 2 else portF s q Reg.PORT_P_STAT_STATE := by
  have hp : p < 20 := by omega
  obtain ⟨hr, -⟩ := peerPort_facts hp
  have w {p : Nat} (hp : p < 20) (t : State) : portF (setPortF p Reg.PORT_P_STAT_STATE 2 t) q Reg.PORT_P_STAT_STATE =
      if q = p then 2 else portF t q Reg.PORT_P_STAT_STATE := by
    split
    next e => rw [e]; exact portF_setPortF_same (by decide) 2 t
    next e => exact portF_setPortF_other (by decide) (by decide) hp hq e 2 t
  unfold startDiscovery
  split
  next h => rw [if_neg (fun k => k.1 h)]
  next h =>
    rw [portF_congr (sendFlit_regs _ _ _ _ _), portF_congr (emit_regs _ _), w hp, w hr]
    by_cases e : q = p
    · simp [e, h]
    · simp [e, h]

theorem grows_startDiscovery (s : State) (p : Nat) : grows s (startDiscovery s p) := by
  unfold startDiscovery
  split
  · exact grows_refl s
  · exact grows_sendFlit _ _ _ _ (grows_emit _ (grows_same rfl (grows_refl s)))

theorem puts_startDiscovery {s : State} {p : Nat} (h : portF s p Reg.PORT_P_STAT_STATE ≠ 4) : puts (.discovery p) s (startDiscovery s p) := by
  rw [startDiscovery, if_neg h]
  exact puts_grows (grows_sendFlit _ _ _ _ (grows_refl _)) (puts_emit _ (grows_same rfl (grows_refl s)))

theorem grows_startAll (l : List Nat) (s : State) : grows s (l.foldl startDiscovery s) := by
  induction l generalizing s with
  | nil => exact grows_refl s
  | cons x r ih => exact grows_trans (grows_startDiscovery s x) (ih _)

/-- A port in discovery stays there while others enter it. -/
theorem startAll_keeps {l : List Nat} (hl : ∀ x ∈ l, x < 6) {q : Nat} (hq : q < 20) {s : State} (h : portF s q Reg.PORT_P_STAT_STATE = 2) :
    portF (l.foldl startDiscovery s) q Reg.PORT_P_STAT_STATE = 2 := by
  induction l generalizing s with
  | nil => exact h
  | cons x r ih =>
    refine ih (fun y hy => hl y (List.mem_cons_of_mem _ hy)) ?_
    rw [startDiscovery_state (hl x List.mem_cons_self) hq, h, ite_self]

/-- Each hub port that is not DOWN is in discovery with its peer after all have been started, and its flit went out. -/
theorem startAll_starts {l : List Nat} (hl : ∀ x ∈ l, x < 6) {p : Nat} (hm : p ∈ l) {s : State} (h : portF s p Reg.PORT_P_STAT_STATE ≠ 4) :
    portF (l.foldl startDiscovery s) p Reg.PORT_P_STAT_STATE = 2 ∧ portF (l.foldl startDiscovery s) (peerPort p) Reg.PORT_P_STAT_STATE = 2 ∧
      puts (.discovery p) s (l.foldl startDiscovery s) := by
  induction l generalizing s with
  | nil => cases hm
  | cons x r ih =>
    have hr : ∀ y ∈ r, y < 6 := fun y hy => hl y (List.mem_cons_of_mem _ hy)
    have hx := hl x List.mem_cons_self
    have hp : p < 20 := by have := hl p hm; omega
    obtain ⟨hq, -⟩ := peerPort_facts hp
    by_cases e : p = x
    · subst e
      refine ⟨startAll_keeps hr hp ?_, startAll_keeps hr hq ?_, puts_grows (grows_startAll r _) (puts_startDiscovery h)⟩
      · rw [startDiscovery_state hx hp, if_pos ⟨h, Or.inl rfl⟩]
      · rw [startDiscovery_state hx hq, if_pos ⟨h, Or.inr rfl⟩]
    · have h' : portF (startDiscovery s x) p Reg.PORT_P_STAT_STATE ≠ 4 := by
        rw [startDiscovery_state hx hp]
        split
        · decide
        · exact h
      obtain ⟨ha, hb, ho⟩ := ih hr ((List.mem_cons.1 hm).resolve_left e) h'
      exact ⟨ha, hb, puts_after (grows_startDiscovery s x) ho⟩

/-! ### Discovery ends at a port (R36, R37, R38) -/

/-- The words that the end of a port's discovery writes beside records: WLK.CENSUS and HUB_ID.BOOT_STAT. -/
def censusWords : List Nat := [0x4005A040, 0x40000058]

theorem quietBut_mismatch (pg : Page) {s t : State} (k : quietBut censusWords s t) : quietBut censusWords s (mismatch pg t) :=
  quietBut_record _ _ (quietBut_setF 1 (by decide) k)

theorem quietBut_checkSerial (p : Nat) (r : DieReply) {s t : State} (k : quietBut censusWords s t) :
    quietBut censusWords s (checkSerial p r t) := by
  unfold checkSerial
  split
  · exact quietBut_same rfl k
  · split
    · exact k
    · split
      · exact quietBut_mismatch _ k
      · exact quietBut_setF 1 (by decide) (quietBut_setF 3 (by decide) (quietBut_mismatch _ k))

theorem quietBut_endDiscovery (p : Nat) {s t : State} (k : quietBut censusWords s t) : quietBut censusWords s (endDiscovery p t) := by
  unfold endDiscovery
  dsimp only
  split
  · exact quietBut_setF 1 (by decide) k
  · exact k

theorem endDiscovery_ended (p : Nat) (s : State) : (endDiscovery p s).links.ended.contains p = true := by
  unfold endDiscovery
  dsimp only
  split <;> simp

theorem portF_quietCensus {s t : State} (k : quietBut censusWords s t) {p : Nat} (hp : p < 20) {r : Row} (h : portRow r = true) :
    portF t p r = portF s p r := portF_keepsPorts (keepsPorts_quietBut (by decide) k) hp h

/-- The identity word of a compute die is none of those words. -/
theorem getF_quietCensus {s t : State} (k : quietBut censusWords s t) {d : Nat} (hd : d < 4) {r : Row} (h : r.off = 0x40) :
    getF t (pgWlkd d) r = getF s (pgWlkd d) r := by
  have e : fieldAddr (pgWlkd d) r 0 0 = 0x50007040 + d * 0x1000000 := by
    simp only [fieldAddr, pageBase, h]
    omega
  have hq : quiet (fieldAddr (pgWlkd d) r 0 0) := by
    rw [e, quiet]
    omega
  have hn : fieldAddr (pgWlkd d) r 0 0 ∉ censusWords := by
    simp only [e, censusWords, List.mem_cons, List.not_mem_nil, or_false]
    omega
  unfold getF getFij
  rw [k _ hq hn]

/-! ### The identity that the hub assigns (R35, R36) -/

/-- The port's block as a reply of the right type leaves it. -/
def portJoined (p : Nat) (s : State) : State :=
  setPortF p Reg.PORT_P_STAT_PEER_DIE (if p < 4 then 0x10 + p else 0x20 + (p - 4))
    (setPortF p Reg.PORT_P_STAT_PEER_PORT 0 (setPortF p Reg.PORT_P_STAT_STATE 3 s))

theorem portJoined_shows {p : Nat} (hp : p < 6) (s : State) :
    portF (portJoined p s) p Reg.PORT_P_STAT_STATE = 3 ∧
      portF (portJoined p s) p Reg.PORT_P_STAT_PEER_DIE = if p < 4 then 0x10 + p else 0x1C + p := by
  constructor
  · rw [portJoined, portF_setPortF_own (by decide), portF_setPortF_own (by decide), portF_setPortF_same (by decide)]
    rfl
  · rw [portJoined, portF_setPortF_same (by decide)]
    split <;> exact (Nat.mod_eq_of_lt (by simp only [Reg.PORT_P_STAT_PEER_DIE]; omega)).trans (by omega)

/-- The die's page as a compute die's reply leaves it. -/
def dieNamed (p : Nat) (r : DieReply) (s : State) : State :=
  setF (pgWlkd p) Reg.WLKD_ID_ASSIGNED 1 (setF (pgWlkd p) Reg.WLKD_ID_INDEX p
    (setF (pgCdId p) Reg.CD_ID_INDEX p (setF (pgCdId p) Reg.CD_ID_BIN r.bin (setF (pgCdId p) Reg.CD_ID_STEP r.step
      (set64 (pgCdId p) Reg.CD_ID_SERIAL_LO Reg.CD_ID_SERIAL_HI 0 r.serial s)))))

theorem dieNamed_shows {p : Nat} (hp : p < 4) (r : DieReply) (s : State) :
    flag (dieNamed p r s) (pgWlkd p) Reg.WLKD_ID_ASSIGNED = true ∧ getF (dieNamed p r s) (pgWlkd p) Reg.WLKD_ID_INDEX = p := by
  constructor
  · rw [flag, dieNamed, getF_setF_same (by decide)]
    rfl
  · rw [dieNamed, getF_setF_apart (by decide) (by decide), getF_setF_same (by decide)]
    exact Nat.mod_eq_of_lt hp

theorem not_portWord_wlkdId (d : Nat) {r : Row} (h : r.off = 0x40) : ¬ portWord (fieldAddr (pgWlkd d) r 0 0) := by
  simp only [fieldAddr, pageBase, portWord, h]
  omega

theorem keepsPorts_dieNamed (p : Nat) (r : DieReply) {s t : State} (k : keepsPorts s t) : keepsPorts s (dieNamed p r t) :=
  keepsPorts_setF (not_portWord_wlkdId p rfl) _ (keepsPorts_setF (not_portWord_wlkdId p rfl) _
    (keepsPorts_setF (not_portWord_cdId p (by decide)) _ (keepsPorts_setF (not_portWord_cdId p (by decide)) _
      (keepsPorts_setF (not_portWord_cdId p (by decide)) _ (keepsPorts_setF (not_portWord_cdId p (by decide)) _
        (keepsPorts_setF (not_portWord_cdId p (by decide)) _ k))))))

/-- The port's block, that of its peer, and the census. -/
def linkJoined (p : Nat) (s : State) : State :=
  let t := setPortF (peerPort p) Reg.PORT_P_STAT_PEER_DIE 1 (setPortF (peerPort p) Reg.PORT_P_STAT_PEER_PORT p
    (setPortF (peerPort p) Reg.PORT_P_STAT_STATE 3 (portJoined p s)))
  setF pgWlk Reg.WLK_CENSUS_PRESENT (putBits (getF t pgWlk Reg.WLK_CENSUS_PRESENT) p 1 1) t

theorem assignIdentity_eq (p : Nat) (r : DieReply) (s : State) :
    assignIdentity p r s = if p < 4 then dieNamed p r (linkJoined p s) else linkJoined p s := (rfl)

theorem linkJoined_port {p : Nat} (hp : p < 20) {r : Row} (h : portRow r = true) (s : State) :
    portF (linkJoined p s) p r = portF (portJoined p s) p r := by
  obtain ⟨hq, hne⟩ := peerPort_facts hp
  rw [linkJoined, portF_keepsPorts (keepsPorts_setF (by decide) _ (keepsPorts_refl _)) hp h, portF_setPortF_other (by decide) h hq hp hne.symm,
    portF_setPortF_other (by decide) h hq hp hne.symm, portF_setPortF_other (by decide) h hq hp hne.symm]

theorem assignIdentity_port {p : Nat} (hp : p < 20) {r : Row} (h : portRow r = true) (y : DieReply) (s : State) :
    portF (assignIdentity p y s) p r = portF (portJoined p s) p r := by
  rw [assignIdentity_eq]
  split
  · rw [portF_keepsPorts (keepsPorts_dieNamed p y (keepsPorts_refl _)) hp h, linkJoined_port hp h]
  · exact linkJoined_port hp h s

/-- A compute die's identity is in its page. -/
theorem assignIdentity_die {p : Nat} (hp : p < 4) (r : DieReply) (s : State) :
    flag (assignIdentity p r s) (pgWlkd p) Reg.WLKD_ID_ASSIGNED = true ∧ getF (assignIdentity p r s) (pgWlkd p) Reg.WLKD_ID_INDEX = p := by
  rw [assignIdentity_eq, if_pos hp]
  exact dieNamed_shows hp r _

/-! ### A ring port's peer (R36) -/

/-- The right peer brings the port UP. -/
theorem ringPeer_right {d p : Nat} (hp : p < 20) {w : Nat} (hw : w < 4) {s : State} (h : portF s p Reg.PORT_P_STAT_STATE ≠ 4) :
    portF (ringPeer d p w w s) p Reg.PORT_P_STAT_STATE = 3 ∧ portF (ringPeer d p w w s) p Reg.PORT_P_STAT_PEER_DIE = 0x10 + w ∧
      ∀ q < 20, q ≠ p → ∀ r, portRow r = true → portF (ringPeer d p w w s) q r = portF s q r := by
  rw [ringPeer, if_neg h, if_pos rfl]
  refine ⟨portF_setPortF_same (by decide) 3 _, ?_, fun q hq e r hr => ?_⟩
  · rw [portF_setPortF_own (by decide), portF_setPortF_same (by decide)]
    exact Nat.mod_eq_of_lt (by simp only [Reg.PORT_P_STAT_PEER_DIE]; omega)
  · rw [portF_setPortF_other (by decide) hr hp hq e, portF_setPortF_other (by decide) hr hp hq e, portF_setPortF_other (by decide) hr hp hq e]

/-- Another peer takes the link DOWN. -/
theorem ringPeer_wrong {d p : Nat} (hp : p < 20) {w g : Nat} (hg : g ≠ w) {s : State} (h : portF s p Reg.PORT_P_STAT_STATE ≠ 4) :
    portF (ringPeer d p w g s) p Reg.PORT_P_STAT_STATE = 4 := by
  rw [ringPeer, if_neg h, if_neg hg]
  exact linkDown_state hp _

/-! ### What the commands run -/

theorem exec_wlinkResetRelease (bad : List (Nat × Nat × Bool)) (n : Nat) (s : State) :
    exec (.wlinkResetRelease bad n) s = .next ((List.range 6).foldl startDiscovery
      ((List.range 6).foldl (fun t p => showSpares p t) (bad.foldl trainRepair (at_ n s)))) := (rfl)

theorem exec_discoveryReply {p : Nat} {s : State} (hp : p < 6) (h2 : portF s p Reg.PORT_P_STAT_STATE = 2)
    (he : s.links.ended.contains p = false) (r : DieReply) :
    exec (.discoveryReply p r) s = .next (
      let t := { s with links := { s.links with replies := (p, r) :: s.links.replies } }
      if r.kind = (if p < 4 then 1 else 2) then endDiscovery p (checkSerial p r (assignIdentity p r t))
      else endDiscovery p (linkDown p (mismatch pgWlk t))) :=
  congrArg Host.Outcome.next (if_pos ⟨hp, h2, he⟩)

theorem exec_discoveryTimeout {p : Nat} {s : State} (hp : p < 6) (h2 : portF s p Reg.PORT_P_STAT_STATE = 2)
    (he : s.links.ended.contains p = false) :
    exec (.discoveryTimeout p) s = .next (endDiscovery p (linkDown p (record pgWlk 0x85 s))) :=
  congrArg Host.Outcome.next (if_pos ⟨hp, h2, he⟩)

theorem exec_ringDiscovery {d : Nat} {s : State} (hd : d < 4) (ha : flag s (pgWlkd d) Reg.WLKD_ID_ASSIGNED = true) (e w : Nat) :
    exec (.ringDiscovery d e w) s = .next (ringPeer d (8 + 3 * d) ((d + 3) % 4) w (ringPeer d (7 + 3 * d) ((d + 1) % 4) e s)) :=
  congrArg Host.Outcome.next (if_pos ⟨hd, ha⟩)

/-- A port whose discovery ends with its link DOWN. -/
theorem endDiscovery_linkDown {p : Nat} (hp : p < 6) (s : State) :
    (endDiscovery p (linkDown p s)).links.ended.contains p = true ∧ portF (endDiscovery p (linkDown p s)) p Reg.PORT_P_STAT_STATE = 4 := by
  have hp20 : p < 20 := by omega
  refine ⟨endDiscovery_ended p _, ?_⟩
  rw [portF_quietCensus (quietBut_endDiscovery p (quietBut_refl _ _)) hp20 (by decide), linkDown_state hp20]

/-- Settles O11: training disturbs no port's state, and each way in which a port's discovery can end shows in its block. -/
theorem discovery : Obligations.Discovery := by
  unfold Obligations.Discovery
  intro p r bad n s _
  refine ⟨?_, fun hp h2 he => ⟨fun hk => ?_, fun hk => ?_, ?_⟩, fun d e w hd ha hw he' h1 => ?_⟩
  · refine does_reach rfl (does (exec_wlinkResetRelease bad n s) fun q hq h4 => ?_)
    obtain ⟨hg, hs⟩ : undisturbed s ((List.range 6).foldl (fun t p => showSpares p t) (bad.foldl trainRepair (at_ n s))) := by
      refine undisturbed_trans (undisturbed_trans (s := at_ n s) ⟨grows_refl s, fun _ _ => rfl⟩
        (undisturbed_foldl _ bad (fun t b _ => undisturbed_trainRepair t b) _)) (undisturbed_foldl _ _ (fun t x hx => ?_) _)
      have := List.mem_range.1 hx
      exact undisturbed_showSpares (by omega) (undisturbed_refl t)
    obtain ⟨ha, hb, ho⟩ := startAll_starts (l := List.range 6) (fun x hx => List.mem_range.1 hx) (List.mem_range.2 hq)
      (by rwa [hs q (by omega)])
    exact ⟨ha, hb, puts_after hg ho⟩
  · refine does_reach rfl (does (exec_discoveryReply hp h2 he r) ?_)
    dsimp only
    rw [if_pos hk]
    have k (t : State) : quietBut censusWords t (endDiscovery p (checkSerial p r t)) :=
      quietBut_endDiscovery p (quietBut_checkSerial p r (quietBut_refl _ t))
    have hp20 : p < 20 := by omega
    obtain ⟨h3, hd⟩ := portJoined_shows hp { s with links := { s.links with replies := (p, r) :: s.links.replies } }
    refine ⟨endDiscovery_ended p _, ?_, ?_, fun h4 => ?_⟩
    · rw [portF_quietCensus (k _) hp20 (by decide), assignIdentity_port hp20 (by decide), h3]
    · rw [portF_quietCensus (k _) hp20 (by decide), assignIdentity_port hp20 (by decide), hd]
    · rw [flag, getF_quietCensus (k _) h4 rfl, getF_quietCensus (k _) h4 rfl]
      exact assignIdentity_die h4 r _
  · refine does_reach rfl (does (exec_discoveryReply hp h2 he r) ?_)
    dsimp only
    rw [if_neg hk]
    exact endDiscovery_linkDown hp _
  · exact does_reach rfl (does (exec_discoveryTimeout hp h2 he) (endDiscovery_linkDown hp _))
  · refine does_reach rfl (does (exec_ringDiscovery hd ha e w) ?_)
    subst h1
    obtain ⟨hu, hx, ho⟩ := ringPeer_right (d := d) (p := 7 + 3 * d) (by omega) (w := (d + 1) % 4) (by omega) he'
    have hw' := ho (8 + 3 * d) (by omega) (by omega) Reg.PORT_P_STAT_STATE (by decide)
    by_cases hm : w = (d + 3) % 4
    · subst hm
      obtain ⟨ku, kx, ko⟩ := ringPeer_right (d := d) (p := 8 + 3 * d) (by omega) (w := (d + 3) % 4) (by omega) (by rwa [hw'])
      rw [if_pos rfl]
      refine ⟨ku, fun _ => ⟨kx, ?_, ?_⟩⟩
      · rw [ko (7 + 3 * d) (by omega) (by omega) _ (by decide), hu]
      · rw [ko (7 + 3 * d) (by omega) (by omega) _ (by decide), hx]
    · rw [if_neg hm]
      exact ⟨ringPeer_wrong (by omega) hm (by rwa [hw']), fun h => absurd h hm⟩

end Sys2Proof.Machine
end

section
/-! PROOFS. Chapter 02, the timebase (R49 to R56): its start and stop, the edges, the boundaries and the loss. -/

namespace Sys2Proof.Machine

open Sys2Proof

/-! ### What the timebase's commands run -/

theorem exec_timebaseRun {who : Agent} (h : controls who = true) (n : Nat) (s : State) :
    exec (.timebaseRun who n) s = .next (cycRun (at_ n s)) :=
  congrArg Host.Outcome.next (asMaster_hub h (by decide) cycRun (at_ n s))

theorem exec_timebaseStop {who : Agent} (h : controls who = true) (s : State) : exec (.timebaseStop who) s = .next (cycStop s) :=
  congrArg Host.Outcome.next (asMaster_hub h (by decide) cycStop s)

/-- The selected source has edges: it is the pin, or gPTP is not LOST. -/
def hasEdges (s : State) : Prop := getF s pgCyc Reg.CYC_CTL_SRC = 0 ∨ getF s pgEth Reg.ETH_PTP_STAT_STATE ≠ 3

theorem exec_downbeatEdge {s : State} (h : hasEdges s) (n : Nat) :
    exec (.downbeatEdge n) s = .next (if cycState s = 1 then acquireEdge n (at_ n s) else if barsRun s then barEdge n (at_ n s) else at_ n s) := by
  have h' : ¬(flag (at_ n s) pgCyc Reg.CYC_CTL_SRC = true ∧ ptpLost (at_ n s) = true) := by
    simp only [flag, ptpLost, getF_at, decide_eq_true_eq, not_and]
    exact fun a b => h.elim a fun c => c b
  exact congrArg Host.Outcome.next (if_neg h')

theorem barsRun_iff (s : State) : barsRun s = true ↔ cycState s = 2 ∨ cycState s = 3 := by simp [barsRun]

theorem exec_downbeatEdge_acquire {s : State} (h : hasEdges s) (hc : cycState s = 1) (n : Nat) :
    exec (.downbeatEdge n) s = .next (acquireEdge n (at_ n s)) := by
  rw [exec_downbeatEdge h, if_pos hc]

theorem exec_downbeatEdge_bars {s : State} (h : hasEdges s) (hb : barsRun s = true) (n : Nat) :
    exec (.downbeatEdge n) s = .next (barEdge n (at_ n s)) := by
  have hc : cycState s ≠ 1 := by have := (barsRun_iff s).1 hb; omega
  rw [exec_downbeatEdge h, if_neg hc, if_pos hb]

theorem exec_downbeatMissing {s : State} (hb : barsRun s = true) (hr : s.cyc.resolved = false) :
    exec .downbeatMissing s = .next (edgeMissing (at_ ((s.cyc.bound + 84000000) / 42000).toNat s)) :=
  congrArg Host.Outcome.next (if_pos ⟨hb, hr⟩)

theorem exec_barBoundary {s : State} (hb : barsRun s = true) (hr : s.cyc.resolved = true) (hl : lossDue s = false) :
    exec .barBoundary s = .next (nextBar s) := by
  have e : exec .barBoundary s = .next (if barsRun s = false then s else
      if lossDue (if s.cyc.resolved then s else edgeMissing s) then (if s.cyc.resolved then s else edgeMissing s)
      else nextBar (if s.cyc.resolved then s else edgeMissing s)) := rfl
  rw [e, if_neg (by simp [hb]), if_pos hr, if_neg (by simp [hl])]

/-- The loss ends the bars and suspends a running sequencer (R56). -/
def suspended (s : State) : State := if seqState s = 2 then setSeqState 3 s else s

theorem exec_timebaseLost {s : State} (h : lossDue s = true) :
    exec .timebaseLost s = .next (setCycState 1 (suspended (barsEnd (record pgCyc 0x2F (setCycState 4 (at_ (nextBound s / 42000).toNat s)))))) :=
  congrArg Host.Outcome.next (if_pos h)

/-! ### Displaced edges (R55) -/

/-- The edges that are displaced: outside both windows, or after the first of its window. -/
theorem barEdge_displaced {n : Nat} {s : State}
    (h : (inWindow n s.cyc.bound = false ∧ inWindow n (nextBound s) = false) ∨ (inWindow n s.cyc.bound = true ∧ s.cyc.resolved = true) ∨
      (inWindow n s.cyc.bound = false ∧ inWindow n (nextBound s) = true ∧ s.cyc.early ≠ none)) : barEdge n s = displaced s := by
  unfold barEdge
  rcases h with ⟨hw, hn⟩ | ⟨hw, hr⟩ | ⟨hw, -, he⟩
  · rw [if_neg (by simp [hw]), if_neg (by simp [hn])]
  · rw [if_pos hw, if_pos hr]
  · rw [if_neg (by simp [hw]), if_neg (fun x => he x.2)]

theorem quietBut_displaced (s : State) : quietBut [0x40002064] s (displaced s) :=
  quietBut_record _ _ (quietBut_bump 1 (by decide) (quietBut_refl _ s))

theorem codeIn_record {p : Page} (hm : pageBase p ≠ pageBase pgMbx) (hl : pageBase p ≠ pageBase pgLdg) {code : Nat} (hc : code < 256)
    (s : State) : codeIn (record p code s) p code := codeIn_recordAt hm hl hc 0 0xFF s

theorem displaced_code (s : State) : codeIn (displaced s) pgCyc 0x28 := codeIn_record (by decide) (by decide) (by decide) _

theorem displaced_counts (s : State) : getF (displaced s) pgCyc Reg.CYC_DISPLACED = satAdd 32 (getF s pgCyc Reg.CYC_DISPLACED) 1 := by
  have h : getF (bump pgCyc Reg.CYC_DISPLACED 1 s) pgCyc Reg.CYC_DISPLACED = satAdd 32 (getF s pgCyc Reg.CYC_DISPLACED) 1 % 2 ^ 32 :=
    getF_setF_same (by decide) _ s
  rw [displaced, getF_record (by decide), h, Nat.mod_eq_of_lt (satAdd_lt 32 _ 1)]

/-- Settles O33: each kind of displaced edge reaches the same record and count. -/
theorem displacedEdges : Obligations.DisplacedEdges := by
  unfold Obligations.DisplacedEdges
  intro n s hb hs h
  have hk : samesBut report s (displaced (at_ n s)) :=
    samesBut_keeps (displaced_keeps (by decide) (at_keeps n (by decide) (Keeps.refl _ s)))
  refine does (exec_downbeatEdge_bars hs hb n) ?_
  rw [barEdge_displaced (s := at_ n s) h]
  exact ⟨hk, quietBut_displaced (at_ n s), displaced_code _, displaced_counts _⟩

/-! ### Start and stop (R49, R53) -/

/-- The start is refused: PERIOD_NOM is out of its range. -/
theorem cycRun_refused {s : State} (h0 : cycState s = 0) (hp : periodNom s < 16666666 ∨ 100000000 < periodNom s) :
    cycRun s = record pgCyc 0x29 (setF pgCyc Reg.CYC_CTL_RUN 0 s) := by
  rw [cycRun, if_neg (by simp [h0]), if_pos hp]

/-- The timebase that has started, before the coolant check. -/
def acquiring (s : State) : State := setCycState 1 (setF pgCyc Reg.CYC_CTL_RUN 1 (modCyc (fun c => { c with run := 0 }) s))

theorem cycRun_starts {s : State} (h0 : cycState s = 0) (hp : ¬(periodNom s < 16666666 ∨ 100000000 < periodNom s)) :
    cycRun s = coolRunCheck (acquiring s) := by
  rw [cycRun, if_neg (by simp [h0]), if_neg hp, acquiring]

theorem showLims_ne {a : Nat} (h : a / 4096 ≠ pageBase pgCap / 4096) (s : State) : regW (showLims s) a = regW s a := by
  have step (t : State) (w v : Nat) (hw : w < 3) : regW (setFi pgCap Reg.CAP_LIM w v t) a = regW t a := by
    refine regW_setFij_ne (fun e => h ?_) v t
    rw [e]
    simp only [fieldAddr, pageBase, Reg.CAP_LIM]
    omega
  simp only [showLims, List.range, List.range.loop, List.foldl_cons, List.foldl_nil]
  rw [step _ _ _ (by decide), step _ _ _ (by decide), step _ _ _ (by decide)]

/-- The coolant check touches the THM and CAP pages, and records. -/
theorem coolRunCheck_ne {a : Nat} (hq : quiet a) (ht : a / 4096 ≠ pageBase pgThm / 4096) (hc : a / 4096 ≠ pageBase pgCap / 4096) (s : State) :
    regW (coolRunCheck s) a = regW s a := by
  have lims : regW (showLims (setF pgCap Reg.CAP_COOL_LIM 220 (modPwr (fun p => { p with okAt := none }) (setF pgThm Reg.THM_COOL_STATE 4 s)))) a =
      regW s a := by
    rw [showLims_ne hc, setF_page_ne (by decide) hc, regW_congr (modPwr_regs _ _), setF_page_ne (by decide) ht]
  unfold coolRunCheck
  dsimp only
  split
  · rfl
  · rw [regW_record hq]
    split
    · exact lims
    · rw [regW_record hq]
      exact lims

theorem getF_coolRunCheck {r : Row} (h : r = Reg.CYC_CTL_RUN ∨ r = Reg.CYC_STAT_STATE) (s : State) :
    getF (coolRunCheck s) pgCyc r = getF s pgCyc r := by
  unfold getF getFij
  rcases h with rfl | rfl <;> rw [coolRunCheck_ne (by decide) (by decide) (by decide)]

theorem acquiring_shows (s : State) : getF (acquiring s) pgCyc Reg.CYC_CTL_RUN = 1 ∧ cycState (acquiring s) = 1 := by
  constructor
  · rw [acquiring, setCycState, getF_setF_apart (by decide) (by decide), getF_setF_same (by decide)]
    decide
  · rw [acquiring, setCycState, cycState, getF_setF_same (by decide)]
    decide

theorem coolRunCheck_cyc (s : State) : (coolRunCheck s).cyc = s.cyc :=
  (coolRunCheck_keeps (K := 16) (by decide) (Keeps.refl _ s)).frame .cyc (by decide)

theorem setCycState_same {v : Nat} (h : v < 8) (s : State) : cycState (setCycState v s) = v :=
  (getF_setF_same (by decide) v s).trans (Nat.mod_eq_of_lt h)

theorem setCtlRun_state (v : Nat) (s : State) : cycState (setF pgCyc Reg.CYC_CTL_RUN v s) = cycState s :=
  getF_setF_apart (by decide) (by decide) v s

theorem barsRun_congr {s t : State} (h : cycState t = cycState s) : barsRun t = barsRun s := by
  unfold barsRun
  rw [h]

/-- Where no bars run, a stop clears RUN and shows OFF. -/
theorem cycStop_idle {s : State} (h : barsRun s = false) : cycStop s = setCycState 0 (setF pgCyc Reg.CYC_CTL_RUN 0 s) := by
  rw [cycStop, if_neg (by rw [barsRun_congr (setCtlRun_state 0 s)]; simp [h])]

theorem cycStop_bars {s : State} (h : barsRun s = true) : cycStop s = setCycState 0 (barsEnd (setF pgCyc Reg.CYC_CTL_RUN 0 s)) := by
  rw [cycStop, if_pos ((barsRun_congr (setCtlRun_state 0 s)).trans h)]

theorem cycStop_state (s : State) : cycState (cycStop s) = 0 := setCycState_same (by decide) _

/-- The end of the bars leaves no acquisition run. -/
theorem barsEnd_cyc (s : State) : (barsEnd s).cyc.run = 0 ∧ (barsEnd s).cyc.ivals = [] := ⟨rfl, rfl⟩

/-! ### Edges in ACQUIRE (R53) -/

theorem acquireEdge_first {n : Nat} {s : State} (h : s.cyc.run = 0 ∨ goodInterval s ((n : Int) - s.cyc.lastEdge) = false) :
    acquireEdge n s = modCyc (fun c => { c with run := 1, lastEdge := n, ivals := [] }) s := if_pos h

theorem acquireEdge_next {n : Nat} {s : State} (h0 : s.cyc.run ≠ 0) (h3 : s.cyc.run ≠ 3)
    (hg : goodInterval s ((n : Int) - s.cyc.lastEdge) = true) :
    acquireEdge n s = modCyc (fun c => { c with run := c.run + 1, lastEdge := n, ivals := ((n : Int) - s.cyc.lastEdge) :: s.cyc.ivals }) s :=
  (if_neg (by simp [h0, hg])).trans (if_neg h3)

theorem acquireEdge_locks {n : Nat} {s : State} (h3 : s.cyc.run = 3) (hg : goodInterval s ((n : Int) - s.cyc.lastEdge) = true) :
    acquireEdge n s = lock n (((n : Int) - s.cyc.lastEdge) :: s.cyc.ivals) s :=
  (if_neg (by simp [h3, hg])).trans (if_pos h3)

theorem boundary_cyc (t : Int) (n : Nat) (s : State) : (boundary t n s).cyc = s.cyc :=
  (boundary_keeps t n (K := 16) (by decide) (Keeps.refl _ s)).frame .cyc (by decide)

/-- The timebase that the fourth edge of a run locks. -/
def lockedCyc (n : Nat) (l : List Int) (s : State) : Cyc :=
  { s.cyc with
    ivals := l, p := meanPeriod s l, bound := cycUnits n, len := meanPeriod s l, edge := some n, prevEdge := none, early := none, resolved := true
    missed := 0 }

theorem lock_cyc (n : Nat) (l : List Int) (s : State) : (lock n l s).cyc = lockedCyc n l s := by
  rw [lock, showPeriod, setF_cyc, showPhaseErr, setF_cyc, setF_cyc, boundary_cyc]
  rfl

theorem lock_shows (n : Nat) (l : List Int) (s : State) :
    getF (lock n l s) pgCyc Reg.CYC_PHASE_ERR = 0 ∧ getF (lock n l s) pgCyc Reg.CYC_STAT_MISSED = 0 := by
  have z : unsint 32 (roundOpen 0 42000) % 2 ^ 32 = 0 := by decide
  constructor
  · rw [lock, showPeriod, getF_setF_apart (by decide) (by decide), showPhaseErr, getF_setF_same (by decide)]
    exact z
  · rw [lock, showPeriod, getF_setF_apart (by decide) (by decide), showPhaseErr, getF_setF_apart (by decide) (by decide), getF_setF_same (by decide)]
    decide

/-! ### Edges and boundaries while bars run (R54, R55) -/

theorem barEdge_taken {n : Nat} {s : State} (hw : inWindow n s.cyc.bound = true) (hr : s.cyc.resolved = false) : barEdge n s = takeEdge n s :=
  (if_pos hw).trans (if_neg (by simp [hr]))

theorem takeEdge_shows (n : Nat) (s : State) :
    regsBut [0x40002048, 0x40002054, 0x40002058] s (takeEdge n s) ∧ cycState (takeEdge n s) = 2 ∧
      getF (takeEdge n s) pgCyc Reg.CYC_STAT_MISSED = 0 := by
  refine ⟨?_, setCycState_same (by decide) _, ?_⟩
  · exact regsBut_setF _ (by decide) (regsBut_setF _ (by decide) (regsBut_setF _ (by decide) (regsBut_setF _ (by decide) (regsBut_refl _ s))))
  · rw [takeEdge, setCycState, getF_setF_apart (by decide) (by decide), showPhaseErr, getF_setF_apart (by decide) (by decide), showPeriod,
      getF_setF_apart (by decide) (by decide), getF_setF_same (by decide)]
    decide

/-- A first edge after a boundary without one leaves P. -/
theorem takeEdge_period {n : Nat} {s : State} (h : s.cyc.prevEdge = none) : (takeEdge n s).cyc.p = s.cyc.p := if_pos h

theorem edgeMissing_shows (s : State) :
    quietBut [0x40002048] s (edgeMissing s) ∧ cycState (edgeMissing s) = 3 ∧ codeIn (edgeMissing s) pgCyc 0x27 := by
  refine ⟨quietBut_record _ _ (quietBut_setF _ (by decide) (quietBut_refl _ s)), ?_, codeIn_record (by decide) (by decide) (by decide) _⟩
  rw [edgeMissing, cycState, getF_record (by decide)]
  exact setCycState_same (by decide) _

/-- The timebase at the predicted boundary, where no early edge came before it. -/
def nextCyc (s : State) : Cyc :=
  { s.cyc with
    bound := s.cyc.bound + s.cyc.len, len := s.cyc.p, prevEdge := s.cyc.edge, edge := none, resolved := false, early := none
    missed := if cycState s = 3 then s.cyc.missed + 1 else 0 }

theorem nextBar_cyc {s : State} (he : s.cyc.early = none) : (nextBar s).cyc = nextCyc s := by
  rw [nextBar, boundary_cyc]
  simp only [he]
  rfl

/-! ### The loss (R56) -/

theorem lossDue_iff (s : State) : lossDue s = true ↔ cycState s = 3 ∧ holdMax s ≤ s.cyc.missed := by simp [lossDue]

theorem suspended_idle (s : State) : seqState (suspended s) ≠ 2 := by
  unfold suspended
  split
  · rw [setSeqState, seqState, getF_setF_same (by decide)]
    decide
  next h => exact h

theorem suspended_cyc (s : State) : (suspended s).cyc = s.cyc := by
  unfold suspended
  split <;> rfl

theorem setCycState_seqState (v : Nat) (s : State) : seqState (setCycState v s) = seqState s :=
  getF_setF_page (by decide) (by decide) (by decide) v s

/-- Settles O18: each command's own branch, and the timebase and its registers after it. -/
theorem timebase : Obligations.Timebase := by
  unfold Obligations.Timebase
  intro who n s
  refine ⟨fun hc => ⟨fun h0 hp => ?_, fun h0 hp => ?_, ?_⟩, fun hs => ⟨fun h1 hg => ?_, fun h1 hr hg => ?_, fun h1 h3 hg => ?_,
    fun hb hw hr => ?_, fun hb hw he => ?_⟩, fun hb hr => ?_, fun hb hr he hl => ?_, fun h3 hm => ?_⟩
  · refine acts (does (exec_timebaseRun hc n s) ?_)
    rw [cycRun_refused (s := at_ n s) h0 hp]
    refine ⟨quietBut_record _ _ (quietBut_setF _ (by decide) (quietBut_at n (quietBut_refl _ s))), codeIn_record (by decide) (by decide) (by decide) _, ?_, ?_⟩
    · rw [getF_record (by decide), getF_setF_same (by decide)]
      decide
    · rw [cycState, getF_record (by decide)]
      exact (setCtlRun_state 0 (at_ n s)).trans h0
  · refine acts (does (exec_timebaseRun hc n s) ?_)
    rw [cycRun_starts (s := at_ n s) h0 hp]
    obtain ⟨hr, hst⟩ := acquiring_shows (at_ n s)
    exact ⟨(getF_coolRunCheck (Or.inl rfl) _).trans hr, (getF_coolRunCheck (Or.inr rfl) _).trans hst, coolRunCheck_cyc _⟩
  · refine acts (does (exec_timebaseStop hc s) ⟨cycStop_state s, fun hb => ?_, fun hb => ?_⟩)
    · rw [cycStop_bars hb, setCycState, setF_cyc]
      exact barsEnd_cyc _
    · rw [cycStop_idle hb]
      refine ⟨?_, rfl, regsBut_setF _ (by decide) (regsBut_setF _ (by decide) (regsBut_refl _ s))⟩
      rw [setCycState, getF_setF_apart (by decide) (by decide), getF_setF_same (by decide)]
      decide
  · refine acts (does (exec_downbeatEdge_acquire hs h1 n) ?_)
    rw [acquireEdge_first (s := at_ n s) hg]
    exact ⟨regsBut_refl _ s, rfl⟩
  · refine acts (does (exec_downbeatEdge_acquire hs h1 n) ?_)
    rw [acquireEdge_next (s := at_ n s) (by rcases hr with h | h <;> simp [h]) (by rcases hr with h | h <;> simp [h]) hg]
    exact ⟨regsBut_refl _ s, rfl⟩
  · refine acts (does (exec_downbeatEdge_acquire hs h1 n) ?_)
    rw [acquireEdge_locks (s := at_ n s) h3 hg, lock_cyc]
    obtain ⟨hp, hm⟩ := lock_shows n (((n : Int) - s.cyc.lastEdge) :: s.cyc.ivals) (at_ n s)
    exact ⟨hp, hm, rfl, rfl, rfl, rfl, rfl⟩
  · refine acts (does (exec_downbeatEdge_bars hs hb n) ?_)
    rw [barEdge_taken (s := at_ n s) hw hr]
    obtain ⟨hq, h2, hm⟩ := takeEdge_shows n (at_ n s)
    exact ⟨hq, h2, hm, rfl, rfl, rfl, rfl, rfl, fun h => takeEdge_period (s := at_ n s) h⟩
  · refine acts (does (exec_downbeatEdge_bars hs hb n) ?_)
    have hd : (inWindow n s.cyc.bound = false ∧ inWindow n (nextBound s) = false) ∨ (inWindow n s.cyc.bound = true ∧ s.cyc.resolved = true) ∨
        (inWindow n s.cyc.bound = false ∧ inWindow n (nextBound s) = true ∧ s.cyc.early ≠ none) := by
      cases h : inWindow n (nextBound s)
      · exact Or.inl ⟨hw, rfl⟩
      · exact Or.inr (Or.inr ⟨hw, rfl, he.resolve_left (by simp [h])⟩)
    rw [barEdge_displaced (s := at_ n s) hd]
    exact ⟨quietBut_displaced (at_ n s), displaced_code _, (record_cyc _ _ _).trans rfl⟩
  · refine acts (does (exec_downbeatMissing hb hr) ?_)
    obtain ⟨hq, h3, hc⟩ := edgeMissing_shows (at_ ((s.cyc.bound + 84000000) / 42000).toNat s)
    exact ⟨hq, h3, hc, (record_cyc _ _ _).trans rfl⟩
  · exact acts (does (exec_barBoundary hb hr hl) (nextBar_cyc he))
  · refine acts (does (exec_timebaseLost ((lossDue_iff s).2 ⟨h3, hm⟩)) ⟨setCycState_same (by decide) _, ?_, ?_⟩)
    · rw [setCycState_seqState]
      exact suspended_idle _
    · rw [setCycState, setF_cyc, suspended_cyc]
      exact barsEnd_cyc _

end Sys2Proof.Machine
end

section
/-! PROOFS. Chapter 02, the firing of strokes (R63 to R75): one that is voided, one that a gate holds, and what each operation starts. -/

namespace Sys2Proof.Machine

open Sys2Proof

/-! ### The stroke at the front of those due -/

/-- The state in which the front stroke has left those due. -/
def popDue (rest : List (Nat × Nat × Stroke)) (s : State) : State := { s with seq := { s.seq with due := rest } }

theorem popDue_seq (l : List (Nat × Nat × Stroke)) (s : State) : (popDue l s).seq = { s.seq with due := l } := (rfl)

theorem popDue_regs (l : List (Nat × Nat × Stroke)) (s : State) : (popDue l s).regs = s.regs := (rfl)

theorem popDue_curTick (l : List (Nat × Nat × Stroke)) (s : State) : curTick (popDue l s) = curTick s := (rfl)

section Front

variable {idx bar op : Nat} {k : Stroke} {rest : List (Nat × Nat × Stroke)} {s : State}

theorem fire_front (h : s.seq.due = (idx, bar, k) :: rest) (ho : stOp k = op) (act : StrokeRun → State → State) :
    fire op act s = if voided s k then fireVoided idx bar k (popDue rest s)
      else if stOp k < 8 ∧ gated s (stPart k) bar then addRun { firedRun idx k bar with phase := .held } (popDue rest s)
      else act (firedRun idx k bar) (popDue rest s) := by
  unfold fire
  simp only [h]
  rw [if_neg (fun x => x ho)]
  rfl

/-- A voided stroke other than a COLLECT or an EMIT only completes as failed (R66). -/
theorem fire_voided (h : s.seq.due = (idx, bar, k) :: rest) (ho : stOp k = op) (h5 : op ≠ 5) (h7 : op ≠ 7) (hv : voided s k = true)
    (act : StrokeRun → State → State) : fire op act s = addRun (voidedRun idx k bar) (popDue rest s) := by
  rw [fire_front h ho, if_pos hv, fireVoided, if_neg (by rwa [ho]), if_neg (by rwa [ho])]

/-- A stroke of a gated partition waits for the gate (R65). -/
theorem fire_held (h : s.seq.due = (idx, bar, k) :: rest) (ho : stOp k = op) (h8 : op < 8) (hv : voided s k = false)
    (hg : gated s (stPart k) bar = true) (act : StrokeRun → State → State) :
    fire op act s = addRun { firedRun idx k bar with phase := .held } (popDue rest s) := by
  rw [fire_front h ho, if_neg (by simp [hv]), if_pos ⟨by omega, hg⟩]

/-- A stroke that is neither voided nor held has its effect. -/
theorem fire_acts (h : s.seq.due = (idx, bar, k) :: rest) (ho : stOp k = op) (hv : voided s k = false)
    (hg : op < 8 → gated s (stPart k) bar = false) (act : StrokeRun → State → State) :
    fire op act s = act (firedRun idx k bar) (popDue rest s) := by
  rw [fire_front h ho, if_neg (by simp [hv]), if_neg (fun x => by simp [hg (ho ▸ x.1)] at x)]

end Front

/-! ### What the commands fire -/

theorem exec_run (s : State) : exec .run s = .next (fire 1 actRun s) := (rfl)

theorem exec_runPaired (s : State) : exec .runPaired s = .next (fire 2 actRun s) := (rfl)

theorem exec_waitLines (s : State) : exec .waitLines s = .next (fire 3 actWait s) := (rfl)

theorem exec_barrier (s : State) : exec .barrier s = .next (fire 4 actBarrier s) := (rfl)

theorem exec_collect (s : State) : exec .collect s = .next (fire 5 actCollect s) := (rfl)

theorem exec_fuse (s : State) : exec .fuse s = .next (fire 6 actFuse s) := (rfl)

theorem exec_emit (s : State) : exec .emit s = .next (fire 7 addRun s) := (rfl)

theorem exec_mark (s : State) : exec .mark s = .next (fire 8 actMark s) := (rfl)

theorem exec_nop (s : State) : exec .nop s = .next (fire 9 (fun r s => addRun { r with phase := .done } s) s) := (rfl)

theorem exec_swapPoint (s : State) :
    exec .swapPoint s = .next (fire 10 (fun r s => commitSwap (addRun { r with phase := .done } s)) s) := (rfl)

/-- The commands of strokes that a gate can hold and that have no effect when voided fire by their operation's number. -/
theorem exec_fires {n : Nat} {c : Instr} (h : (n, c) ∈ [(1, .run), (2, .runPaired), (3, .waitLines), (4, .barrier), (6, .fuse)]) (s : State) :
    n < 8 ∧ n ≠ 5 ∧ n ≠ 7 ∧ ∃ act, exec c s = .next (fire n act s) := by
  simp only [List.mem_cons, Prod.mk.injEq, List.not_mem_nil, or_false] at h
  rcases h with ⟨rfl, rfl⟩ | ⟨rfl, rfl⟩ | ⟨rfl, rfl⟩ | ⟨rfl, rfl⟩ | ⟨rfl, rfl⟩
  · exact ⟨by decide, by decide, by decide, _, exec_run s⟩
  · exact ⟨by decide, by decide, by decide, _, exec_runPaired s⟩
  · exact ⟨by decide, by decide, by decide, _, exec_waitLines s⟩
  · exact ⟨by decide, by decide, by decide, _, exec_barrier s⟩
  · exact ⟨by decide, by decide, by decide, _, exec_fuse s⟩

/-- Settles O22: `voided` comes before the gate, and both leave only a run behind. -/
theorem strokesVoidedOrHeld : Obligations.StrokesVoidedOrHeld := by
  unfold Obligations.StrokesVoidedOrHeld
  intro idx bar k rest s n c h ho hc
  obtain ⟨h8, h5, h7, act, he⟩ := exec_fires hc s
  refine ⟨fun hv => acts (does he ?_), fun hv hg => acts (does he ?_)⟩
  · rw [fire_voided h ho h5 h7 hv]
    exact ⟨rfl, regsBut_refl _ s⟩
  · rw [fire_held h ho h8 hv hg]
    exact ⟨rfl, regsBut_refl _ s⟩

/-! ### Strokes that no gate holds (R74, R75, R88) -/

/-- From operation 9 on a stroke is never voided (log entry 17). -/
theorem voided_ungated {k : Stroke} (h : 9 ≤ stOp k) (s : State) : voided s k = false := if_pos h

/-- A MARK is voided by the reset of its partition alone. -/
theorem voided_mark {k : Stroke} (h : stOp k = 8) {s : State} (hp : partState s (stPart k) = 1) : voided s k = false := by
  rw [voided, if_neg (by omega), if_neg (by simp [hp]), if_pos h]

theorem storeDev_seq (a : Nat) (b : List Byte) (p : Nat) (s : State) : (storeDev a b p s).2.seq = s.seq :=
  (keepsP_get (storeDev_keeps a b p (K := 32) (by decide) (Keeps.refl _ s))).frame .seq (by decide)

theorem chargeMem_seq (m : Nat) (p : Option Nat) (a n : Nat) (s : State) : (chargeMem m p a n s).seq = s.seq :=
  (chargeMem_keeps m p a n (K := 32) (by decide) (Keeps.refl _ s)).frame .seq (by decide)

theorem chargeMem_mem (m : Nat) (p : Option Nat) (a n : Nat) (s : State) : (chargeMem m p a n s).mem = s.mem :=
  (chargeMem_keeps m p a n (K := 2) (by decide) (Keeps.refl _ s)).frame .mem (by decide)

/-- A store touches no byte outside its range. -/
theorem storeDev_outside {a x : Nat} {b : List Byte} (h : x < a ∨ a + b.length ≤ x) (p : Nat) (s : State) :
    sparseGet memDefault (storeDev a b p s).2.mem x = sparseGet memDefault s.mem x := by
  unfold storeDev
  split
  · rw [recordAt_mem, bump_mem]
  · rw [recordAt_mem]
  · exact sparseGet_memWrite a b s h

/-- The address at which the next MARK writes. -/
def markAddr (s : State) : Nat := getF s pgSeq Reg.SEQ_MARK_BASE * 64 + getF s pgSeq Reg.SEQ_MARK_WR * 16

/-- The sixteen bytes of a MARK's record (R74). -/
def markBytes (r : StrokeRun) (s : State) : List Byte :=
  leBytes 2 (stBudget r.raw) ++ leBytes 2 (curTick s) ++ leBytes 4 (stPart r.raw + 16 * (barCount s % 2 ^ 28)) ++
    leBytes 8 (unsint 64 (devTime s))

theorem leBytes_length (n v : Nat) : (leBytes n v).length = n := by
  induction n generalizing v with
  | zero => rfl
  | succ n ih => rw [leBytes, List.length_cons, ih]

theorem markBytes_length (r : StrokeRun) (s : State) : (markBytes r s).length = 16 := by
  simp only [markBytes, List.length_append, leBytes_length]

/-- The record of a MARK is stored, or its access refused. -/
def markStored (r : StrokeRun) (s : State) : State :=
  match accessRefusal s true (markAddr s) 16 with
  | none => (storeDev (markAddr s) (markBytes r s) (stPart r.raw) (chargeMem 19 none (markAddr s) 16 s)).2
  | some c => recordAt (refusalPage c) c (markAddr s / 64) (stPart r.raw) s

theorem actMark_eq (r : StrokeRun) (s : State) :
    actMark r s = setF pgSeq Reg.SEQ_MARK_WR ((getF s pgSeq Reg.SEQ_MARK_WR + 1) % 256) (markStored r (addRun { r with phase := .done } s)) := (rfl)

theorem markStored_seq (r : StrokeRun) (s : State) : (markStored r s).seq = s.seq := by
  unfold markStored
  split
  · rw [storeDev_seq, chargeMem_seq]
  · exact recordAt_seq _ _ _ _ s

theorem markStored_outside {x : Nat} {s : State} (h : x < markAddr s ∨ markAddr s + 16 ≤ x) (r : StrokeRun) :
    sparseGet memDefault (markStored r s).mem x = sparseGet memDefault s.mem x := by
  unfold markStored
  split
  · rw [storeDev_outside (by rwa [markBytes_length]), chargeMem_mem]
  · rw [recordAt_mem]

/-- MARK completes at once, steps its pointer and writes at most its own record (R74). -/
theorem actMark_shows (r : StrokeRun) (s : State) :
    (actMark r s).seq = (addRun { r with phase := .done } s).seq ∧
      getF (actMark r s) pgSeq Reg.SEQ_MARK_WR = (getF s pgSeq Reg.SEQ_MARK_WR + 1) % 256 ∧
      ∀ a, a < markAddr s ∨ markAddr s + 16 ≤ a → sparseGet memDefault (actMark r s).mem a = sparseGet memDefault s.mem a := by
  rw [actMark_eq]
  refine ⟨(setF_seq _ _ _ _).trans (markStored_seq _ _), ?_, fun a ha => ?_⟩
  · rw [getF_setF_same (by decide)]
    exact Nat.mod_mod _ 256
  · rw [setF_mem]
    exact markStored_outside (s := addRun { r with phase := .done } s) ha r

/-- The request that a swap point commits. -/
def commits (s : State) : SwapKind := if getF s pgSeq Reg.SEQ_TBL_STAT_ISL_PENDING = 1 then .island else .core

/-- A pending request on an ADMITTED shadow commits, the island's first (R88). -/
theorem commitSwap_commits {s : State} (hc : s.seq.committed = none) (h4 : getF s pgSeq Reg.SEQ_TBL_STAT_SHADOW = 4)
    (hp : getF s pgSeq Reg.SEQ_TBL_STAT_ISL_PENDING = 1 ∨ getF s pgSeq Reg.SEQ_TBL_STAT_CORE_PENDING = 1) :
    commitSwap s = setF pgSeq Reg.SEQ_TBL_STAT_SHADOW 6 (setF pgSeq Reg.SEQ_TBL_STAT_ISL_PENDING 0
      (setF pgSeq Reg.SEQ_TBL_STAT_CORE_PENDING 0 { s with seq := { s.seq with committed := some (commits s) } })) := by
  have hi : getF s pgSeq Reg.SEQ_TBL_STAT_ISL_PENDING < 2 := getFij_lt s pgSeq Reg.SEQ_TBL_STAT_ISL_PENDING 0 0
  unfold commitSwap commits
  dsimp only
  rw [if_neg (by simp [hc, h4])]
  by_cases h : getF s pgSeq Reg.SEQ_TBL_STAT_ISL_PENDING = 1
  · rw [if_pos (by simp [flag, h]), if_pos h]
  · have h0 : getF s pgSeq Reg.SEQ_TBL_STAT_ISL_PENDING = 0 := by omega
    rw [if_neg (by simp [flag, h0]), if_pos (by simp [flag, hp.resolve_left h]), if_neg h]

theorem commitSwap_idle {s : State} (h : s.seq.committed ≠ none ∨ getF s pgSeq Reg.SEQ_TBL_STAT_SHADOW ≠ 4) : commitSwap s = s := if_pos h

/-- What a committed swap leaves in the sequencer and in TBL_STAT. -/
theorem commitSwap_shows {s : State} (hc : s.seq.committed = none) (h4 : getF s pgSeq Reg.SEQ_TBL_STAT_SHADOW = 4)
    (hp : getF s pgSeq Reg.SEQ_TBL_STAT_ISL_PENDING = 1 ∨ getF s pgSeq Reg.SEQ_TBL_STAT_CORE_PENDING = 1) :
    (commitSwap s).seq.committed = some (commits s) ∧ getF (commitSwap s) pgSeq Reg.SEQ_TBL_STAT_SHADOW = 6 ∧
      getF (commitSwap s) pgSeq Reg.SEQ_TBL_STAT_ISL_PENDING = 0 ∧ getF (commitSwap s) pgSeq Reg.SEQ_TBL_STAT_CORE_PENDING = 0 ∧
      regsBut [fieldAddr pgSeq Reg.SEQ_TBL_STAT_SHADOW 0 0] s (commitSwap s) := by
  rw [commitSwap_commits hc h4 hp]
  refine ⟨by rw [setF_seq, setF_seq, setF_seq], getF_setF_same (by decide) 6 _, ?_, ?_, ?_⟩
  · rw [getF_setF_apart (by decide) (by decide), getF_setF_same (by decide)]
    decide
  · rw [getF_setF_apart (by decide) (by decide), getF_setF_apart (by decide) (by decide), getF_setF_same (by decide)]
    decide
  · exact regsBut_setF _ (by decide) (regsBut_setF _ (by decide) (regsBut_setF _ (by decide) (regsBut_same rfl (regsBut_refl _ s))))

/-- Settles O21: the three operations are beyond the gates, and each one's own effect follows. -/
theorem strokesUngated : Obligations.StrokesUngated := by
  unfold Obligations.StrokesUngated
  intro idx bar k rest s h
  refine ⟨fun ho hp => acts (does (exec_mark s) ?_), fun ho => acts (does (exec_nop s) ?_),
    fun ho hc h4 hq => acts (does (exec_swapPoint s) ?_), fun ho hn => acts (does (exec_swapPoint s) ?_)⟩
  · rw [fire_acts h ho (voided_mark ho hp) (by omega)]
    exact actMark_shows (firedRun idx k bar) (popDue rest s)
  · rw [fire_acts h ho (voided_ungated (by omega) s) (by omega)]
    exact ⟨rfl, regsBut_refl _ s⟩
  · rw [fire_acts h ho (voided_ungated (by omega) s) (by omega)]
    exact commitSwap_shows (s := addRun { firedRun idx k bar with phase := .done } (popDue rest s)) hc h4 hq
  · rw [fire_acts h ho (voided_ungated (by omega) s) (by omega), commitSwap_idle (by exact hn)]
    exact ⟨rfl, regsBut_refl _ s⟩

/-! ### Runs, gates and batches start (R67 to R73) -/

theorem startOnDie_evolves (r : StrokeRun) (d : Nat) (s : State) : Evolves s (startOnDie r d s) := by
  have failed (t : State) : Evolves t (modRun r.idx r.bar (fun x => { x with failed := true, diesDone := d :: x.diesDone }) t) :=
    evolves_modRun _ _ _ (fun _ => ⟨rfl, rfl, rfl, .inl rfl⟩) (Evolves.refl t)
  unfold startOnDie
  dsimp only
  split
  · exact failed s
  · split
    · exact failed s
    · refine evolves_keeps (showDispatch_keeps _ (by decide) (Keeps.refl 32 _)) ?_
      refine evolves_foldl (fun u e h => h.trans (settle_evolves d e _ _ u)) _ _ ?_
      refine evolves_foldl (fun u e h => evolves_keeps (switchEngine_keeps d e _ (by decide) (Keeps.refl 32 u)) h) _ _ ?_
      refine evolves_modRun _ _ _ (fun _ => ⟨rfl, rfl, rfl, .inl rfl⟩) ?_
      exact evolves_keeps (modDie_keeps _ _ (by decide) (chargeMem_keeps _ _ _ _ (by decide) (Keeps.refl 32 s))) (Evolves.refl s)

theorem actRun_evolves (r : StrokeRun) (s : State) : Evolves (addRun r s) (actRun r s) :=
  evolves_foldl (fun u d h => (evolves_keeps (readdPhases_keeps d (by decide) (Keeps.refl 32 u)) h).trans (startOnDie_evolves r d _)) _ _
    (Evolves.refl _)

theorem later_exists {x : StrokeRun} {l m : List StrokeRun} (h : List.Forall₂ Later l m) (hx : x ∈ l) : ∃ y ∈ m, Later x y := by
  induction h with
  | nil => cases hx
  | cons a _ ih =>
    rcases List.mem_cons.1 hx with rfl | hx
    · exact ⟨_, List.mem_cons_self, a⟩
    · obtain ⟨y, hy, k⟩ := ih hx
      exact ⟨y, List.mem_cons_of_mem _ hy, k⟩

/-- A RUN that fires is among the runs, with its stroke and bar. -/
theorem actRun_starts (r : StrokeRun) (s : State) :
    (actRun r s).seq.due = s.seq.due ∧ ∃ x ∈ (actRun r s).seq.runs, x.idx = r.idx ∧ x.bar = r.bar ∧ x.raw = r.raw := by
  have h := actRun_evolves r s
  obtain ⟨x, hx, hi, hb, hr, -⟩ := later_exists h.runs (x := r) (List.mem_append_right _ List.mem_cons_self)
  exact ⟨h.due, x, hx, hi, hb, hr⟩

theorem actWait_waits {r : StrokeRun} {s : State} (h : lineReached s (stStream r.raw) (stBudget r.raw) = false) :
    actWait r s = addRun r s := by
  have h' : ¬linesThere (addRun r s) r = true := fun x => Bool.false_ne_true (h.symm.trans x)
  rw [actWait, if_neg h']

theorem actWait_passes {r : StrokeRun} {s : State} (h : lineReached s (stStream r.raw) (stBudget r.raw) = true) :
    actWait r s = finish r.idx r.bar (addRun r s) := by
  have h' : linesThere (addRun r s) r = true := h
  rw [actWait, if_pos h']

theorem actBarrier_seq (r : StrokeRun) (s : State) : (actBarrier r s).seq = (addRun r s).seq :=
  (brushGroup_keeps r (K := 32) (by decide) (Keeps.refl _ _)).frame .seq (by decide)

/-- Settles O19: the front stroke is neither voided nor held, so its operation's effect is what remains. -/
theorem strokesFire : Obligations.StrokesFire := by
  unfold Obligations.StrokesFire
  intro idx bar k rest s h hv hg
  refine ⟨fun ho => acts (does (exec_run s) ?_), fun ho => acts (does (exec_runPaired s) ?_), fun ho hl => acts (does (exec_waitLines s) ?_),
    fun ho hl => acts (does (exec_waitLines s) ?_), fun ho => acts (does (exec_barrier s) ?_), fun ho => acts (does (exec_collect s) ?_),
    fun ho => acts (does (exec_emit s) ?_)⟩ <;> rw [fire_acts h ho hv fun _ => hg]
  · exact actRun_starts (firedRun idx k bar) (popDue rest s)
  · exact actRun_starts (firedRun idx k bar) (popDue rest s)
  · rw [actWait_waits (r := firedRun idx k bar) (s := popDue rest s) hl]
    exact ⟨rfl, regsBut_refl _ s⟩
  · rw [actWait_passes (r := firedRun idx k bar) (s := popDue rest s) hl]
    exact ⟨(finish_evolves _ _ _).due, finish_ended _ _ _⟩
  · exact actBarrier_seq (firedRun idx k bar) (popDue rest s)
  · exact ⟨rfl, regsBut_refl _ s⟩
  · exact ⟨rfl, regsBut_refl _ s⟩

/-! ### FUSE and the fusion unit (R72, R242, R243) -/

/-- No FUSE of `l` is in progress. -/
def noFuse (l : List StrokeRun) : Prop := ∀ x ∈ l, stOp x.raw = 6 → x.phase ≠ .active

theorem noFuse_filter {l : List StrokeRun} (h : noFuse l) (f : StrokeRun → Bool) :
    l.filter (fun x => stOp x.raw = 6 && runActive x && f x) = [] := by
  refine List.filter_eq_nil_iff.2 fun x hx e => ?_
  simp only [Bool.and_eq_true, decide_eq_true_eq, runActive] at e
  exact h x hx e.1.1 e.1.2

section Fuse

variable {r : StrokeRun} {l : List StrokeRun} {s : State}

/-- The FUSE that has just fired waits where the unit is free. -/
theorem fuseWaiting_free (h : noFuse l) (hs : s.seq.runs = l ++ [r]) (ho : stOp r.raw = 6) (ha : r.phase = .active) (hj : s.fus.job = none) :
    fuseWaiting s = [r] := by
  rw [fuseWaiting, hs, List.filter_append, noFuse_filter h]
  simp [hj, ho, runActive, ha]

/-- Nothing waits while the unit works for it. -/
theorem fuseWaiting_own (h : noFuse l) (hs : s.seq.runs = l ++ [r]) {j : FusJob} (hj : s.fus.job = some j) (hi : j.stroke = r.idx)
    (hb : j.bar = r.bar) : fuseWaiting s = [] := by
  rw [fuseWaiting, hs, List.filter_append, noFuse_filter h]
  simp [hj, hi, hb]

theorem fuseWaiting_mem (h : noFuse l) (hs : s.seq.runs = l ++ [r]) {x : StrokeRun} (hx : x ∈ fuseWaiting s) : x = r := by
  rw [fuseWaiting, hs, List.filter_append, noFuse_filter h, List.nil_append] at hx
  exact List.mem_singleton.1 (List.mem_filter.1 hx).1

end Fuse

theorem tryFuse_none {s : State} (h : (fuseWaiting s).find? (fuseReady s) = none) (n : Nat) : tryFuse n s = s := by
  cases n with
  | zero => rfl
  | succ n => simp only [tryFuse, h]

theorem tryFuse_start {r : StrokeRun} {s : State} (h : (fuseWaiting s).find? (fuseReady s) = some r) (hv : fuseVoided s r = false)
    (hj : s.fus.job = none) (n : Nat) : tryFuse (n + 1) s = tryFuse n (startJob r s) := by
  simp only [tryFuse, h, hv, hj, if_true, Bool.false_eq_true, if_false]

theorem fixInstant_seq (l : List Nat) (s : State) : (fixInstant l s).seq = s.seq :=
  (fixInstant_keeps l (K := 32) (by decide) (Keeps.refl _ s)).frame .seq (by decide)

theorem chargeMem_regs (m : Nat) (p : Option Nat) (a n : Nat) (s : State) : (chargeMem m p a n s).regs = s.regs :=
  (chargeMem_keeps m p a n (K := 1) (by decide) (Keeps.refl _ s)).frame .regs (by decide)

/-- The stages that a job descriptor enables. -/
def jobStages (raw : List Byte) : List Nat := bitsSet 8 (dF raw 0 0 8)

/-- A job may start: it enables neither EGO nor TRACK, or is its owner's. -/
def jobAllowed (s : State) (p : Nat) (raw : List Byte) : Prop :=
  ((jobStages raw).contains 2 = false ∧ (jobStages raw).contains 6 = false) ∨ getF s pgTrk Reg.TRK_CTL_OWNER = p

/-- A job whose descriptor may be read, and that may start, starts. -/
theorem startJob_starts {r : StrokeRun} {s : State} (ha : accRefused s 0 (stPart r.raw) ⟨false, 0, stDesc r.raw * 64, 64⟩ = none)
    (hm : jobAllowed s (stPart r.raw) (memBytes s (stDesc r.raw * 64) 64)) :
    (startJob r s).seq = s.seq ∧ ∃ j, (startJob r s).fus.job = some j ∧ j.stroke = r.idx ∧ j.bar = r.bar ∧ j.part = stPart r.raw ∧
      j.raw = memBytes s (stDesc r.raw * 64) 64 := by
  have hn : ¬(((jobStages (memBytes s (stDesc r.raw * 64) 64)).contains 2 = true ∨ (jobStages (memBytes s (stDesc r.raw * 64) 64)).contains 6 = true) ∧
      getF (chargeMem 17 (some (stPart r.raw)) (stDesc r.raw * 64) 64 s) pgTrk Reg.TRK_CTL_OWNER ≠ stPart r.raw) := by
    rw [getF_congr (chargeMem_regs _ _ _ _ s)]
    rcases hm with ⟨h2, h6⟩ | ho
    · rw [h2, h6]
      simp
    · exact fun x => x.2 ho
  unfold startJob
  simp only [ha]
  rw [if_neg (by simpa [jobStages] using hn)]
  split
  · exact ⟨by rw [setF_seq, setF_seq, fixInstant_seq, chargeMem_seq], _, rfl, rfl, rfl, rfl, rfl⟩
  · exact ⟨by rw [fixInstant_seq, chargeMem_seq], _, rfl, rfl, rfl, rfl, rfl⟩

/-- The FUSE that has just fired, with no COLLECT before it, starts its job on the free unit. -/
theorem tryFuse_starts {r : StrokeRun} {l : List StrokeRun} {s : State} (h : noFuse l) (hs : s.seq.runs = l ++ [r]) (ho : stOp r.raw = 6)
    (hr : r.phase = .active) (hj : s.fus.job = none) (hp : predOf s r [5] = none)
    (ha : accRefused s 0 (stPart r.raw) ⟨false, 0, stDesc r.raw * 64, 64⟩ = none)
    (hm : jobAllowed s (stPart r.raw) (memBytes s (stDesc r.raw * 64) 64)) (n : Nat) :
    (tryFuse (n + 1) s).seq = s.seq ∧ ∃ j, (tryFuse (n + 1) s).fus.job = some j ∧ j.stroke = r.idx ∧ j.bar = r.bar ∧ j.part = stPart r.raw ∧
      j.raw = memBytes s (stDesc r.raw * 64) 64 := by
  have hf : (fuseWaiting s).find? (fuseReady s) = some r := by
    rw [fuseWaiting_free h hs ho hr hj]
    simp [fuseReady, hp]
  have hv : fuseVoided s r = false := by simp [fuseVoided, hp]
  obtain ⟨hq, j, hjob, hi, hb, hk⟩ := startJob_starts ha hm
  have hw : fuseWaiting (startJob r s) = [] := fuseWaiting_own h (by rw [hq, hs]) hjob hi hb
  rw [tryFuse_start hf hv hj, tryFuse_none (by rw [hw]; rfl)]
  exact ⟨hq, j, hjob, hi, hb, hk⟩

/-- Settles O20: the FUSE just fired is the only one waiting, and it starts its job or stays. -/
theorem fuseStarts : Obligations.FuseStarts := by
  unfold Obligations.FuseStarts
  intro idx bar k rest s h hv hg ho hn
  have hw : noFuse s.seq.runs := hn
  refine ⟨fun hr => acts (does (exec_fuse s) ?_), fun hj hp ha hm => acts (does (exec_fuse s) ?_)⟩ <;> rw [fire_acts h ho hv fun _ => hg, actFuse]
  · have hq : (fuseWaiting (addRun (firedRun idx k bar) (popDue rest s))).find? (fuseReady (addRun (firedRun idx k bar) (popDue rest s))) = none := by
      refine List.find?_eq_none.2 fun x hx e => ?_
      rw [fuseWaiting_mem hw rfl hx] at e
      exact Bool.false_ne_true (hr.symm.trans e)
    rw [tryFuse_none hq]
    exact ⟨rfl, regsBut_refl _ s⟩
  · have hb : memBytes (addRun (firedRun idx k bar) (popDue rest s)) (stDesc k * 64) 64 = memBytes s (stDesc k * 64) 64 := memBytes_congr rfl _ _
    rw [← hb] at hm ⊢
    exact tryFuse_starts (r := firedRun idx k bar) (s := addRun (firedRun idx k bar) (popDue rest s)) hw rfl ho rfl hj hp ha hm 63

end Sys2Proof.Machine
end

section
/-! PROOFS. Chapter 02, the end of strokes (R65 to R78): gates that are resolved or fail, runs that complete or run out, buffers and
batches that go out. -/

namespace Sys2Proof.Machine

open Sys2Proof

/-! ### Gates (R65, R69, R70) -/

/-- What a resolved gate leaves: its own run is done, and no stroke of its partition is held. -/
def gateLeft (r : StrokeRun) (p : Nat) (x : StrokeRun) : Prop := Ended r.idx r.bar x ∧ (stPart x.raw = p → x.phase ≠ .held)

theorem gateLeft_unhold {r : StrokeRun} {s : State} (h : AllRuns (Ended r.idx r.bar) s) (p : Nat) : AllRuns (gateLeft r p) (unhold p s) := by
  intro x hx
  obtain ⟨hm, hf⟩ := List.mem_filter.1 hx
  refine ⟨h x hm, fun hp hh => ?_⟩
  simp [hp, hh] at hf

theorem gateDone_left (r : StrokeRun) (s : State) : AllRuns (gateLeft r (stPart r.raw)) (gateDone r s) :=
  gateLeft_unhold (finish_ended r.idx r.bar s) _

theorem modRun_ended (i b : Nat) {f : StrokeRun → StrokeRun} (hf : ∀ x, (f x).phase = .done) (s : State) :
    AllRuns (Ended i b) (modRun i b f s) := by
  intro x hx hi hb
  obtain ⟨y, _, rfl⟩ := List.mem_map.1 hx
  by_cases c : y.idx = i ∧ y.bar = b
  · rw [if_pos c]
    exact hf y
  · rw [if_neg c] at hi hb
    exact absurd ⟨hi, hb⟩ c

theorem exec_gateSatisfied {p : Nat} {r : StrokeRun} {s : State} (h : openGate s p 3 = some r) (hl : linesThere s r = true)
    (hd : pastD s r = false) : exec (.gateSatisfied p) s = .next (gateDone r s) := by
  have e : exec (.gateSatisfied p) s = execGateSatisfied p s := rfl
  simp only [e, execGateSatisfied, h, hl, hd, and_self, if_true]

theorem exec_barrierSatisfied {p : Nat} {r : StrokeRun} {s : State} (h : openGate s p 4 = some r) (hr : runsEnded s r = true)
    (hd : pastD s r = false) (hc : crossSet s p = none) : exec (.barrierSatisfied p) s = .next (gateDone r (releaseGroup r s)) := by
  have e : exec (.barrierSatisfied p) s = execBarrierSatisfied p s := rfl
  simp only [e, execBarrierSatisfied, h, hr, hd, hc, and_self, if_true]

/-- The record of a failed gate: a warning for a Hard stroke alone (log entry 18). -/
def gateRecorded (p : Nat) (r : StrokeRun) (s : State) : State :=
  if stClass r.raw = 0 then recordWarn pgSeq 0x2D 0 p s else recordAt pgSeq 0x2D 0 p s

/-- The failed gate with its record, before the strokes that it held come due. -/
def gateRefused (p : Nat) (r : StrokeRun) (s : State) : State :=
  modRun r.idx r.bar (fun x => { x with phase := .done, failed := true })
    (if stOp r.raw = 4 then releaseGroup r (gateRecorded p r s) else gateRecorded p r s)

theorem exec_gateFailed {p : Nat} {r : StrokeRun} {s : State}
    (h : s.seq.runs.find? (fun x => stPart x.raw = p && gateOpen x && pastD s x) = some r) :
    exec (.gateFailed p) s = .next (unhold p (voidFrom p r.idx (gateRefused p r s))) := by
  have e : exec (.gateFailed p) s = execGateFailed p s := rfl
  simp only [e, execGateFailed, h]
  rfl

theorem gateRecorded_seq (p : Nat) (r : StrokeRun) (s : State) : (gateRecorded p r s).seq = s.seq := by
  unfold gateRecorded
  split
  · exact recordWarn_seq _ _ _ _ s
  · exact recordAt_seq _ _ _ _ s

theorem releaseGroup_seq (r : StrokeRun) (s : State) : (releaseGroup r s).seq = s.seq :=
  (releaseGroup_keeps r (K := 32) (by decide) (Keeps.refl _ s)).frame .seq (by decide)

theorem gateRefused_ops {p : Nat} {r : StrokeRun} {s : State} (h : ∀ x ∈ s.seq.runs, stOp x.raw ≠ 7) :
    ∀ x ∈ (gateRefused p r s).seq.runs, stOp x.raw ≠ 7 := by
  have e : (if stOp r.raw = 4 then releaseGroup r (gateRecorded p r s) else gateRecorded p r s).seq = s.seq := by
    split
    · rw [releaseGroup_seq, gateRecorded_seq]
    · exact gateRecorded_seq p r s
  intro x hx
  obtain ⟨y, hy, rfl⟩ := List.mem_map.1 hx
  rw [e] at hy
  split
  · exact h y hy
  · exact h y hy

/-- With no EMIT among the runs, the partition's later strokes are voided (R66). -/
theorem voidFrom_voids {p i : Nat} {s : State} (h : ∀ x ∈ s.seq.runs, stOp x.raw ≠ 7) : p ∈ (voidFrom p i s).seq.voiding := by
  have hn : ¬ s.seq.runs.any (fun r => stPart r.raw = p && stOp r.raw = 7 && decide (i < r.idx) && r.bar = barCount s && r.phase ≠ .held) = true := by
    rw [List.any_eq_true]
    rintro ⟨x, hx, k⟩
    simp [h x hx] at k
  rw [voidFrom, if_neg hn]
  exact List.mem_cons_self

theorem voidFrom_regs (p i : Nat) (s : State) : (voidFrom p i s).regs = s.regs := by
  unfold voidFrom
  split <;> rfl

theorem gateRefused_code {p : Nat} {r : StrokeRun} (ho : stOp r.raw = 3) (hc : stClass r.raw ≠ 0) (s : State) :
    codeIn (gateRefused p r s) pgSeq 0x2D := by
  rw [gateRefused, if_neg (by omega), gateRecorded, if_neg hc]
  exact codeIn_congr (modRun_regs _ _ _ _) (codeIn_recordAt (by decide) (by decide) (by decide) 0 p s)

/-! ### Runs (R67, R77) -/

theorem exec_strokeComplete {p : Nat} {r : StrokeRun} {s : State} (h : activeRun s p = some r) (hr : stIsRun r.raw = true) (ht : r.targets = []) :
    exec (.strokeComplete p) s = .next (finish r.idx r.bar s) := by
  have e : exec (.strokeComplete p) s = execStrokeComplete p s := rfl
  simp only [e, execStrokeComplete, h, hr, ht, and_self, if_true]

theorem exec_budgetExpiry {p : Nat} {r : StrokeRun} {s : State} (h : activeRun s p = some r) (hr : stIsRun r.raw = true) (ht : r.targets ≠ []) :
    exec (.budgetExpiry p) s = .next (finish r.idx r.bar (countOverrun r (failRun r.idx r.bar (killRun r 2 s)))) := by
  have e : exec (.budgetExpiry p) s = execBudgetExpiry p s := rfl
  simp only [e, execBudgetExpiry, h]
  rw [if_pos ⟨hr, ht⟩]

theorem finish_parts (i b : Nat) (s : State) : (finish i b s).parts = s.parts :=
  (finish_keeps i b (K := 128) (by decide) (Keeps.refl _ s)).frame .parts (by decide)

theorem reportByClass_parts (r : StrokeRun) (c : Nat) (s : State) : (reportByClass r c s).parts = s.parts :=
  (reportByClass_keeps r c (K := 128) (by decide) (Keeps.refl _ s)).frame .parts (by decide)

theorem killRun_parts (r : StrokeRun) (st : Nat) (s : State) : (killRun r st s).parts = s.parts :=
  (killRun_keeps r st (K := 128) (by decide) (Keeps.refl _ s)).frame .parts (by decide)

theorem countOverrun_parts (r : StrokeRun) (s : State) :
    (countOverrun r s).parts = s.parts.modify (stPart r.raw) (fun x => { x with overruns := x.overruns + 1 }) := by
  rw [countOverrun, reportByClass_parts, modCharge_parts, bumpI_parts, bump_parts]

/-! ### Buffers and batches (R71, R73) -/

theorem exec_collectWrite {p : Nat} {c : StrokeRun} {s : State} (h : activeRun s p = some c) (ho : stOp c.raw = 5)
    (he : (collectSet s c).all (fun x => !runOpen x) = true) (hu : undrained s (collectSet s c) = false) :
    exec (.collectWrite p) s =
      .next (tryFuse 64 (finish c.idx c.bar (writeBuffer false c ((collectSet s c).foldl (fun s r => closeHalves r s) s)))) := by
  have e : exec (.collectWrite p) s = execCollectWrite p s := rfl
  simp only [e, execCollectWrite, h]
  rw [if_pos ⟨ho, he, hu⟩]

theorem exec_emitDeliver {p : Nat} {r : StrokeRun} {s : State} (h : activeRun s p = some r) (ho : stOp r.raw = 7) (he : (emitPred s r).1 = true) :
    exec (.emitDeliver p) s = .next (finish r.idx r.bar (deliver r (!(emitPred s r).2) s)) := by
  have e : exec (.emitDeliver p) s = execEmitDeliver p s := rfl
  simp only [e, execEmitDeliver, h]
  rw [if_pos ⟨ho, he⟩]

theorem exec_emitDeadline {p : Nat} {r : StrokeRun} {s : State} (h : activeRun s p = some r) (ho : stOp r.raw = 7) (he : (emitPred s r).1 = false)
    (hd : pastD s r = true) : exec (.emitDeadline p) s = .next (finish r.idx r.bar (deliver r false s)) := by
  have e : exec (.emitDeadline p) s = execEmitDeadline p s := rfl
  simp only [e, execEmitDeadline, h]
  rw [if_pos ⟨ho, he, hd⟩]

theorem grows_foldl {α : Type} {f : State → α → State} (hf : ∀ s x, grows s (f s x)) (l : List α) (s : State) : grows s (l.foldl f s) := by
  induction l generalizing s with
  | nil => exact grows_refl s
  | cons a l ih => exact grows_trans (hf s a) (ih _)

theorem grows_drainTx (s : State) : grows s (drainTx s) :=
  grows_trans (grows_same rfl (grows_refl s)) (grows_foldl (fun t x => grows_same (by rw [bumpI_io]) (grows_emit _ (grows_refl t))) _ _)

theorem grows_ethSend (m q : Nat) (b : List Byte) (s : State) : grows s (ethSend m q b s) :=
  grows_trans (grows_same rfl (grows_refl s)) (grows_drainTx _)

theorem grows_drawFree (w : Nat) (s : State) : grows s (drawFree w s).2 := grows_same rfl (grows_refl s)

theorem grows_sendBatch (hdr recs : List Byte) (n : Nat) (s : State) : grows s (sendBatch hdr recs n s) := by
  have sent (macs : List Nat) (pays : List (List Byte)) : grows s (macs.foldl (fun s m => pays.foldl (fun s y =>
      ethSend m (getF s pgCol Reg.COL_TXQ_QUEUE) (batchFrame s m (drawFree 64 s).1 y) (drawFree 64 s).2) s) s) :=
    grows_foldl (fun t m => grows_foldl (fun u y => grows_trans (grows_drawFree 64 u) (grows_ethSend _ _ _ _)) _ t) _ s
  unfold sendBatch
  dsimp only
  split
  · exact sent _ _
  · split
    · exact grows_same (by rw [bump_io, bump_io]) (sent _ _)
    · exact grows_same (by rw [bump_io]) (sent _ _)

/-- A notice of stroke `r`, marked `valid` or not, went out to both islands between `s` and `t`. -/
def noticed (r : StrokeRun) (valid : Bool) (s t : State) : Prop :=
  ∃ n : Notice, n.part = stPart r.raw ∧ n.stroke = r.idx ∧ n.valid = valid ∧ puts (.island 0 (.notice n)) s t ∧ puts (.island 1 (.notice n)) s t

theorem noticed_grows {r : StrokeRun} {v : Bool} {s t u : State} (k : grows t u) (h : noticed r v s t) : noticed r v s u := by
  obtain ⟨n, hp, hs, hv, h0, h1⟩ := h
  exact ⟨n, hp, hs, hv, puts_grows k h0, puts_grows k h1⟩

theorem sendNotice_noticed (r : StrokeRun) (hdr : List Byte) (v : Bool) {s t : State} (h : grows s t) : noticed r v s (sendNotice r hdr v t) := by
  have h' : grows s { t with seq := { t.seq with pair := t.seq.pair.filter (fun q => q ≠ stPart r.raw) } } := h
  exact ⟨_, rfl, rfl, rfl, puts_grows (grows_emit _ (grows_refl _)) (puts_emit _ h'), puts_emit _ (grows_emit _ h')⟩

/-- A batch that is not to go out gives a header marked invalid, and its notice (R73, R327). -/
theorem deliver_invalid (r : StrokeRun) (s : State) : noticed r false s (deliver r false s) := by
  have e : deliver r false s = sendNotice r (invalidHeader (barCount (drawFree 256 s).2) (curTick (drawFree 256 s).2) (drawFree 256 s).1) false
      (sendBatch (invalidHeader (barCount (drawFree 256 s).2) (curTick (drawFree 256 s).2) (drawFree 256 s).1) [] 0 (drawFree 256 s).2) := rfl
  rw [e]
  exact sendNotice_noticed r _ false (grows_trans (grows_drawFree 256 s) (grows_sendBatch _ _ _ _))

theorem grows_countMiss (r : StrokeRun) (s : State) : grows s (countMiss r s) := by
  have h : grows s (bumpI pgPrt Reg.PRT_MISSED (stPart r.raw) 1 (bump pgSeq Reg.SEQ_MISSED 1 s)) :=
    grows_same (by rw [bumpI_io, bump_io]) (grows_refl s)
  unfold countMiss reportByClass
  split
  · exact grows_trans h (grows_recordWarn _ _ _ _ _)
  · split
    · exact grows_trans h (grows_recordAt _ _ _ _ _)
    · exact h

theorem voidFrom_io (p i : Nat) (s : State) : (voidFrom p i s).io = s.io := by
  unfold voidFrom
  split <;> rfl

theorem grows_completeRun (r : StrokeRun) (s : State) : grows s (completeRun r s) := by
  have missed (b : Bool) : grows s (if b then countMiss r s else s) := by
    cases b
    · exact grows_refl s
    · exact grows_countMiss r s
  unfold completeRun
  dsimp only
  split
  · exact grows_same (by rw [voidFrom_io, modRun_io]) (missed _)
  · exact grows_same (by rw [modRun_io]) (missed _)

theorem grows_finish (i b : Nat) (s : State) : grows s (finish i b s) := by
  unfold finish
  split
  · have e (t : State) : (releaseCtxs i b t).io = t.io := (releaseCtxs_keeps i b (K := 4) (by decide) (Keeps.refl _ t)).frame .io (by decide)
    exact grows_same (by rw [e]) (grows_completeRun _ s)
  · exact grows_refl s

/-- Settles O23: each command ends its run, and what the run held or brought follows. -/
theorem strokesEnd : Obligations.StrokesEnd := by
  unfold Obligations.StrokesEnd
  intro p r s
  refine ⟨fun h hl hd => ?_, fun h hr hd hc => ?_, fun h => ?_, fun h => ⟨fun hr ht => ?_, fun hr ht => ?_, fun ho he hu => ?_, fun ho he => ?_,
    fun ho he hd => ?_⟩⟩
  · exact acts (does (exec_gateSatisfied h hl hd) (gateDone_left r s))
  · exact acts (does (exec_barrierSatisfied h hr hd hc) (gateDone_left r _))
  · refine acts (does (exec_gateFailed h) ⟨?_, fun hn => ?_, fun ho hc => ?_⟩)
    · exact gateLeft_unhold (allRuns_evolves (ended_stable _ _) (voidFrom_evolves _ _ _) (modRun_ended r.idx r.bar (fun _ => rfl) _)) p
    · exact voidFrom_voids (gateRefused_ops hn)
    · exact codeIn_congr (voidFrom_regs _ _ _) (gateRefused_code ho hc s)
  · exact acts (does (exec_strokeComplete h hr ht) (finish_ended _ _ _))
  · refine acts (does (exec_budgetExpiry h hr ht) ⟨finish_ended _ _ _, ?_⟩)
    rw [finish_parts, countOverrun_parts, failRun, modRun_parts, killRun_parts]
  · exact acts (does (exec_collectWrite h ho he hu) (allRuns_tryFuse (ended_stable _ _) 64 _ (finish_ended _ _ _)))
  · refine acts (does (exec_emitDeliver h ho he) ⟨finish_ended _ _ _, fun hf => ?_⟩)
    rw [hf]
    exact noticed_grows (grows_finish _ _ _) (deliver_invalid r s)
  · exact acts (does (exec_emitDeadline h ho he hd) ⟨finish_ended _ _ _, noticed_grows (grows_finish _ _ _) (deliver_invalid r s)⟩)

end Sys2Proof.Machine
end

section
/-! PROOFS. Chapter 02, the tick (R50, R63), the collector's drain (R79, R80), and the requests on stroke tables (R81 to R92). -/

namespace Sys2Proof.Machine

open Sys2Proof

/-! ### The tick -/

/-- The state in which tick `t` has begun. -/
def ticked (t : Nat) (s : State) : State := at_ (tickTime s t) (setF pgCyc Reg.CYC_STAT_TICK t s)

theorem exec_tick {s : State} (hb : barsRun s = true) (ht : curTick s < 65535) :
    exec .tick s = .next (endCarry (dueAt (curTick s + 1) (ticked (curTick s + 1) s))) := congrArg Host.Outcome.next (if_pos ⟨hb, ht⟩)

/-- With no carry-over stroke a tick ends none. -/
theorem endCarry_none {s : State} (h : ∀ r ∈ s.seq.runs, r.carry = false) : endCarry s = s := by
  have e : s.seq.runs.filter (fun r => r.carry && runActive r && pastD s r && (stIsRun r.raw || stOp r.raw = 5 || stOp r.raw = 6)) = [] :=
    List.filter_eq_nil_iff.2 fun r hr => by simp [h r hr]
  rw [endCarry, e]
  rfl

theorem dueAt_idle {s : State} (h : seqState s ≠ 2) (t : Nat) : dueAt t s = s := if_neg h

theorem dueAt_running {s : State} (h : seqState s = 2) {t : Nat} (ht : t ≠ 65535) :
    dueAt t s = popDue (s.seq.due ++ strokesAt s t) s :=
  (if_pos h).trans (if_neg fun x => ht x.1)

theorem barCount_setTick (t : Nat) (s : State) : barCount (setF pgCyc Reg.CYC_STAT_TICK t s) = barCount s := by
  have e (r : Row) (h : r = Reg.CYC_BAR_LO ∨ r = Reg.CYC_BAR_HI) :
      getFi (setF pgCyc Reg.CYC_STAT_TICK t s) pgCyc r 0 = getFi s pgCyc r 0 := by
    rcases h with rfl | rfl <;> exact getF_setF_apart (by decide) (by decide) t s
  rw [barCount, get64, e _ (Or.inl rfl), e _ (Or.inr rfl)]
  rfl

theorem ticked_curTick {t : Nat} (h : t < 65536) (s : State) : curTick (ticked t s) = t := by
  rw [curTick, ticked, getF_at, getF_setF_same (by decide)]
  exact Nat.mod_eq_of_lt h

theorem ticked_seqState (t : Nat) (s : State) : seqState (ticked t s) = seqState s := by
  rw [seqState, ticked, getF_at, getF_setF_page (by decide) (by decide) (by decide)]
  rfl

theorem ticked_seq (t : Nat) (s : State) : (ticked t s).seq = s.seq := by rw [ticked, at_seq, setF_seq]

theorem barCount_at (n : Nat) (s : State) : barCount (at_ n s) = barCount s := (rfl)

theorem ticked_strokesAt (t : Nat) (s : State) : strokesAt (ticked t s) t = strokesAt s t := by
  have e : barCount (ticked t s) = barCount s := by rw [ticked, barCount_at, barCount_setTick]
  rw [strokesAt, strokesAt, e, ticked_seq]

theorem regsBut_ticked (t : Nat) (s : State) : regsBut [0x40002048] s (ticked t s) := by
  unfold ticked
  exact regsBut_at _ (regsBut_setF t (by decide) (regsBut_refl _ s))

/-! ### The drain -/

/-- The queue that drains is that of a die and an engine of the device. -/
theorem resq_range {s : State} {q : Nat} {e : ResEntry} {m : List ResEntry} (h : (dieOf s (q / 16)).resq.getD (q % 16) [] = e :: m) :
    q / 16 < s.dies.length ∧ q % 16 < (dieOf s (q / 16)).resq.length := by
  constructor <;> by_contra hn
  · have hd : dieOf s (q / 16) = Die.fresh := by simp [dieOf, List.getD, List.getElem?_eq_none (Nat.le_of_not_lt hn)]
    have hf : Die.fresh.resq.getD (q % 16) [] = [] := by
      rw [List.getD_eq_getElem?_getD]
      exact List.getElem?_getD_replicate_default_eq [] 16 _
    rw [hd, hf] at h
    cases h
  · rw [List.getD_eq_default _ _ (Nat.le_of_not_lt hn)] at h
    cases h

theorem popEntry_queue {s : State} {q : Nat} {e : ResEntry} {m : List ResEntry} (h : (dieOf s (q / 16)).resq.getD (q % 16) [] = e :: m) :
    (dieOf (popEntry q s) (q / 16)).resq.getD (q % 16) [] = m := by
  obtain ⟨hd, hq⟩ := resq_range h
  have e1 : dieOf (popEntry q s) (q / 16) = { dieOf s (q / 16) with resq := (dieOf s (q / 16)).resq.modify (q % 16) (·.drop 1) } := by
    simp [dieOf, popEntry, modDie, List.getD, hd]
  rw [e1]
  rw [List.getD_eq_getElem _ _ hq] at h
  rw [List.getD_eq_getElem _ _ (by simpa using hq), List.getElem_modify_eq, h]
  rfl

theorem popEntry_drain (q : Nat) (s : State) : (popEntry q s).seq.drain = (q + 1) % 64 := rfl

theorem pairMismatch_seq (a b p : Nat) (s : State) : (pairMismatch a b p s).seq = s.seq :=
  (pairMismatch_keeps a b p (K := 32) (by decide) (Keeps.refl _ s)).frame .seq (by decide)

theorem takeEntry_drain (r : StrokeRun) (e : ResEntry) (s : State) : (takeEntry r e s).seq.drain = s.seq.drain := by
  unfold takeEntry
  split
  · rfl
  · split
    · rfl
    · have paired (c : Prop) [Decidable c] (t : State) : (if c then pairFailed r.idx r.bar (stPart r.raw) t else t).seq.drain = t.seq.drain := by
        split <;> rfl
      dsimp only
      split
      · rw [pairMismatch_seq, paired]
        rfl
      · rw [paired]
        rfl

theorem drained_drain (e : ResEntry) (r : Option StrokeRun) (s : State) : (drained e r s).seq.drain = s.seq.drain := by
  unfold drained
  split
  · split
    · exact takeEntry_drain _ e s
    · rfl
  · rw [bump_seq]

theorem drained_dies (e : ResEntry) (r : Option StrokeRun) (s : State) : (drained e r s).dies = s.dies :=
  (drained_keeps e r (K := 64) (by decide) (Keeps.refl _ s)).frame .dies (by decide)

/-- The run that an entry is of. -/
def entryRun (e : ResEntry) (s : State) : Option StrokeRun :=
  s.seq.runs.reverse.find? (fun r => r.idx = e.stroke && stEpoch r.raw = e.epoch && stIsRun r.raw)

theorem exec_resultDrain {s : State} {q : Nat} {l : List Nat} {e : ResEntry} {m : List ResEntry} (ho : drainOrder s = q :: l)
    (h : (dieOf s (q / 16)).resq.getD (q % 16) [] = e :: m) : exec .resultDrain s = .next (drained e (entryRun e s) (popEntry q s)) := by
  have x : exec .resultDrain s = execResultDrain s := rfl
  simp only [x, execResultDrain, ho, h]
  rfl

/-- An entry of a former epoch that no carry-over stroke owns is stale (R80). -/
theorem drained_stale {e : ResEntry} {r : Option StrokeRun} {s : State} (he : e.epoch ≠ getF s pgSeq Reg.SEQ_EPOCH % 64)
    (hr : ∀ x, r = some x → x.carry = false) : drained e r s = bump pgCol Reg.COL_STALE 1 s := by
  have ha : acceptEntry s r e = false := by
    unfold acceptEntry
    cases r with
    | none => simp [he]
    | some x => simp [he, hr x rfl]
  unfold drained
  rw [if_neg (by simp [ha])]

theorem stale_counts (s : State) : getF (bump pgCol Reg.COL_STALE 1 s) pgCol Reg.COL_STALE = satAdd 32 (getF s pgCol Reg.COL_STALE) 1 := by
  have h : getF (bump pgCol Reg.COL_STALE 1 s) pgCol Reg.COL_STALE = satAdd 32 (getF s pgCol Reg.COL_STALE) 1 % 2 ^ 32 :=
    getF_setF_same (by decide) _ s
  rw [h, Nat.mod_eq_of_lt (satAdd_lt 32 _ 1)]

theorem entryRun_mem {e : ResEntry} {s : State} {r : StrokeRun} (h : entryRun e s = some r) : r ∈ s.seq.runs :=
  List.mem_reverse.1 (List.mem_of_find?_eq_some h)

/-- Settles O24: a tick with nothing carried over only makes strokes due, and one entry leaves the queue whose turn it is. -/
theorem tickAndDrain : Obligations.TickAndDrain := by
  unfold Obligations.TickAndDrain
  intro q l e m s
  refine ⟨fun hb ht hc => ⟨fun hq => acts (does (exec_tick hb ht) ?_), fun hq h4 => acts (does (exec_tick hb ht) ?_)⟩, fun ho h => ?_⟩
  · rw [dueAt_idle (by rwa [ticked_seqState]), endCarry_none (by rwa [ticked_seq])]
    exact ⟨ticked_curTick (by omega) s, ticked_seq _ s, regsBut_ticked _ s⟩
  · rw [dueAt_running (by rwa [ticked_seqState]) (by omega), ticked_strokesAt, ticked_seq, endCarry_none (by rwa [popDue_seq, ticked_seq])]
    refine ⟨(popDue_curTick _ _).trans (ticked_curTick (by omega) s), ?_, regsBut_same (popDue_regs _ _) (regsBut_ticked _ s)⟩
    rw [popDue_seq, ticked_seq]
  · refine acts (does (exec_resultDrain ho h) ⟨drained_drain _ _ _, ?_, fun he hc => ?_⟩)
    · have hd : dieOf (drained e (entryRun e s) (popEntry q s)) (q / 16) = dieOf (popEntry q s) (q / 16) := by
        unfold dieOf
        rw [drained_dies]
      rw [hd, popEntry_queue h]
    · rw [drained_stale (s := popEntry q s) he fun x hx => hc x (entryRun_mem hx)]
      exact ⟨rfl, stale_counts (popEntry q s)⟩

/-! ### What the requests on tables run -/

theorem exec_tableLoad {who : Agent} (h : controls who = true) (s : State) : exec (.tableLoad who) s = .next (tableLoad s) :=
  congrArg Host.Outcome.next (asMaster_hub h (by decide) tableLoad s)

theorem exec_requestAdmission {who : Agent} (h : controls who = true) (s : State) : exec (.requestAdmission who) s = .next (tableAdmit s) :=
  congrArg Host.Outcome.next (asMaster_hub h (by decide) tableAdmit s)

theorem exec_swapRequest {who : Agent} (h : controls who = true) (s : State) : exec (.swapRequest who) s = .next (swapRequest s) :=
  congrArg Host.Outcome.next (asMaster_hub h (by decide) swapRequest s)

theorem exec_swapCancel {who : Agent} (h : controls who = true) (s : State) : exec (.swapCancel who) s = .next (swapCancel s) :=
  congrArg Host.Outcome.next (asMaster_hub h (by decide) swapCancel s)

theorem exec_islSwapRequest {who : Agent} (h : controls who = true) (s : State) :
    exec (.islSwapRequest who) s = .next (islSwapRequest who s) :=
  congrArg Host.Outcome.next (asMaster_hub h (by decide) (islSwapRequest who) s)

theorem exec_islSwapCancel {who : Agent} (h : controls who = true) (s : State) : exec (.islSwapCancel who) s = .next (islSwapCancel who s) :=
  congrArg Host.Outcome.next (asMaster_hub h (by decide) (islSwapCancel who) s)

theorem exec_seqStop {who : Agent} (h : controls who = true) (s : State) : exec (.seqStop who) s = .next (seqStop s) :=
  congrArg Host.Outcome.next (asMaster_hub h (by decide) seqStop s)

/-! ### TBL_STAT -/

theorem shadowState_setShadow {v : Nat} (h : v < 8) (s : State) : shadowState (setShadow v s) = v :=
  (getF_setF_same (by decide) v s).trans (Nat.mod_eq_of_lt h)

theorem getF_setShadow_page {p : Page} {r : Row} (h : pageBase pgSeq ≠ pageBase p) (hr : r.off < 4096) (v : Nat) (s : State) :
    getF (setShadow v s) p r = getF s p r := getF_setF_page h (by decide) hr v s

theorem codeIn_setShadow {p : Page} (h : pageBase pgSeq ≠ pageBase p) (v : Nat) {c : Nat} {s : State} (k : codeIn s p c) :
    codeIn (setShadow v s) p c := by
  obtain ⟨hl, he⟩ := k
  exact ⟨(getF_setShadow_page h (by decide) v s).trans hl, (getF_setShadow_page h (by decide) v s).trans he⟩

theorem dropRequests_shows (s : State) :
    getF (dropRequests s) pgSeq Reg.SEQ_TBL_STAT_CORE_PENDING = 0 ∧ getF (dropRequests s) pgSeq Reg.SEQ_TBL_STAT_ISL_PENDING = 0 := by
  constructor
  · rw [dropRequests, getF_setF_apart (by decide) (by decide), getF_setF_same (by decide)]
    decide
  · rw [dropRequests, getF_setF_same (by decide)]
    decide

theorem dropRequests_seq (s : State) : (dropRequests s).seq = s.seq := by rw [dropRequests, setF_seq, setF_seq]

theorem setShadow_seq (v : Nat) (s : State) : (setShadow v s).seq = s.seq := setF_seq _ _ _ s

/-! ### Load and admission (R81, R82) -/

/-- What ADM shows of a refusal. -/
theorem reportRefusal_shows (i : Nat) {c : Nat} (hc : c < 256) (p : Nat) (s : State) :
    codeIn (reportRefusal i c p s) pgAdm c ∧ getF (reportRefusal i c p s) pgAdm Reg.ADM_CODE = c ∧
      getF (reportRefusal i c p s) pgAdm Reg.ADM_PASS = 0 ∧ getF (reportRefusal i c p s) pgAdm Reg.ADM_DONE = 1 := by
  refine ⟨codeIn_recordAt (by decide) (by decide) hc 0 p _, ?_, ?_, ?_⟩ <;> rw [reportRefusal, getF_recordPart (by decide),
    getF_setF_apart (by decide) (by decide)]
  · rw [getF_setF_same (by decide)]
    exact Nat.mod_eq_of_lt hc
  · rw [getF_setF_apart (by decide) (by decide), getF_setF_same (by decide)]
    decide
  · rw [getF_setF_apart (by decide) (by decide), getF_setF_apart (by decide) (by decide), getF_setF_same (by decide)]
    decide

theorem reportRefusal_seq (i c p : Nat) (s : State) : (reportRefusal i c p s).seq = s.seq := by
  rw [reportRefusal, recordPart_seq, setF_seq, setF_seq, setF_seq, setF_seq]

theorem tableLoad_ignored {s : State} (h : s.seq.committed ≠ none ∨ s.seq.fallback ≠ none) : tableLoad s = s := if_pos h

/-- The refused shadow of a length out of range. -/
def badLoad (s : State) : State :=
  reportRefusal 0 0x22 0xFF (dropRequests { s with seq := { s.seq with shadow := [], badLen := true, chk := none } })

theorem tableLoad_bad {s : State} (hc : s.seq.committed = none) (hf : s.seq.fallback = none)
    (h : getF s pgSeq Reg.SEQ_SHADOW_LEN = 0 ∨ 4096 < getF s pgSeq Reg.SEQ_SHADOW_LEN) : tableLoad s = setShadow 5 (badLoad s) :=
  (if_neg (by simp [hc, hf])).trans (if_pos h)

theorem badLoad_seq (s : State) : (badLoad s).seq = { s.seq with shadow := [], badLen := true, chk := none } := by
  rw [badLoad, reportRefusal_seq, dropRequests_seq]

/-- The strokes that a load reads, and the state after the read. -/
def loadRead (s : State) : List Stroke × State := readStrokes (getF s pgSeq Reg.SEQ_SHADOW_SRC * 64) (getF s pgSeq Reg.SEQ_SHADOW_LEN) s

theorem tableLoad_copies {s : State} (hc : s.seq.committed = none) (hf : s.seq.fallback = none)
    (h0 : 0 < getF s pgSeq Reg.SEQ_SHADOW_LEN) (h : getF s pgSeq Reg.SEQ_SHADOW_LEN ≤ 4096) :
    tableLoad s = setShadow 1 (dropRequests { (loadRead s).2 with seq := { (loadRead s).2.seq with shadow := (loadRead s).1, badLen := false, chk := none } }) :=
  (if_neg (by simp [hc, hf])).trans (if_neg (by omega))

theorem readStrokes_length (a n : Nat) (s : State) : (readStrokes a n s).1.length = n := by
  unfold readStrokes
  split
  · exact List.length_replicate
  · rw [List.length_map, List.length_range]

theorem readStrokes_seq (a n : Nat) (s : State) : (readStrokes a n s).2.seq = s.seq :=
  (keepsP_get (readStrokes_keeps a n (K := 32) (by decide) (Keeps.refl _ s))).frame .seq (by decide)

/-- The state of the shadow that an admission in progress goes back to. -/
def priorShadow (s : State) : Nat := match s.seq.chk with | some c => c.2 | none => shadowState s

theorem tableAdmit_checks {s : State} (h1 : shadowState s ≠ 1) (h6 : shadowState s ≠ 6) (hf : s.seq.fallback = none) (he : s.seq.shadow ≠ []) :
    tableAdmit s = setShadow 3 (setF pgAdm Reg.ADM_DONE 0
      { s with seq := { s.seq with chk := some (flag s pgSeq Reg.SEQ_TBL_CTL_CHECK_ONLY, priorShadow s) } }) :=
  (if_neg (by simp [h1, h6, hf])).trans (if_neg he)

theorem tableAdmit_empty {s : State} (h1 : shadowState s ≠ 1) (h6 : shadowState s ≠ 6) (hf : s.seq.fallback = none) (he : s.seq.shadow = []) :
    tableAdmit s = setShadow 5 (reportRefusal 0 0x22 0xFF s) :=
  (if_neg (by simp [h1, h6, hf])).trans (if_pos he)

/-! ### Swaps (R87 to R90) -/

theorem applyFloors_seq (s : State) : (applyFloors s).seq = s.seq :=
  (applyFloors_keeps (K := 32) (by decide) (Keeps.refl _ s)).frame .seq (by decide)

theorem banks_seq (l : List Nat) (s : State) :
    (l.foldl (fun s d => if inService s d then loadEpoch d (copyBank d s) else s) s).seq = s.seq := by
  refine (keeps_foldl (K := 32) (Keeps.refl 32 s) fun t d h => ?_).frame .seq (by decide)
  exact keeps_ite (loadEpoch_keeps d (by decide) (copyBank_keeps d (by decide) h)) h

theorem carryRuns_none {s : State} (h : s.seq.runs = []) : carryRuns s = { s with seq := { s.seq with due := [], runs := [] } } := by
  unfold carryRuns
  simp only [h]
  rfl

/-- The tables change places (R90). -/
theorem applySwap_tables (s : State) :
    (applySwap s).seq = { (carryRuns s).seq with
      active := (carryRuns s).seq.shadow, shadow := (carryRuns s).seq.active, committed := none, fallback := none, lost := []
      prevEpoch := getF (carryRuns s) pgSeq Reg.SEQ_EPOCH, badLen := false } := by
  rw [applySwap, applyFloors_seq, banks_seq, setF_seq, setF_seq, dropRequests_seq, setShadow_seq, setF_seq]

/-- A swap request in IDLE, with no stroke in progress, takes effect at once. -/
theorem swapInIdle_swaps {s : State} (h : s.seq.runs = []) :
    seqState (swapInIdle s) = 1 ∧ (swapInIdle s).seq.active = s.seq.shadow ∧ (swapInIdle s).seq.shadow = s.seq.active ∧
      (swapInIdle s).seq.due = [] ∧ (swapInIdle s).seq.runs = [] := by
  have e : (swapInIdle s).seq = (applySwap s).seq := setF_seq _ _ _ _
  refine ⟨(getF_setF_same (by decide) 1 _).trans rfl, ?_, ?_, ?_, ?_⟩ <;> rw [e, applySwap_tables, carryRuns_none h]

theorem swapRequest_refused {s : State} (h : shadowState s ≠ 4) : swapRequest s = record pgSeq 0x2C s := if_pos h

theorem swapRequest_idle {s : State} (h : shadowState s = 4) (h0 : seqState s = 0) : swapRequest s = swapInIdle s :=
  (if_neg (by simp [h])).trans (if_pos h0)

theorem swapRequest_pends {s : State} (h : shadowState s = 4) (h0 : seqState s ≠ 0) :
    swapRequest s = setF pgSeq Reg.SEQ_TBL_STAT_CORE_PENDING 1 s := (if_neg (by simp [h])).trans (if_neg h0)

theorem islSwapRequest_refused {who : Agent} {s : State} (h : inCharge s who = false) : islSwapRequest who s = record pgSeq 0x2C s :=
  if_pos (Or.inl h)

theorem islSwapRequest_pends {who : Agent} {s : State} (hi : inCharge s who = true) (h : shadowState s = 4) (h0 : seqState s ≠ 0) :
    islSwapRequest who s = setF pgSeq Reg.SEQ_TBL_STAT_ISL_PENDING 1 s := (if_neg (by simp [hi, h])).trans (if_neg h0)

theorem islSwapCancel_refused {who : Agent} {s : State} (h : inCharge s who = false) : islSwapCancel who s = record pgSeq 0x2C s := if_pos h

theorem islSwapCancel_cancels {who : Agent} {s : State} (h : inCharge s who = true) :
    islSwapCancel who s = setF pgSeq Reg.SEQ_TBL_STAT_ISL_PENDING 0 s := if_neg (by simp [h])

/-- A request that is refused with 0x2C changes nothing else. -/
theorem refusedRequest_shows (s : State) :
    quietBut [] s (record pgSeq 0x2C s) ∧ codeIn (record pgSeq 0x2C s) pgSeq 0x2C ∧ (record pgSeq 0x2C s).seq = s.seq :=
  ⟨quietBut_record _ _ (quietBut_refl _ s), codeIn_record (by decide) (by decide) (by decide) s, record_seq _ _ s⟩

/-- A pending bit is set or cleared alone. -/
theorem setPending_shows {r : Row} (h : r = Reg.SEQ_TBL_STAT_CORE_PENDING ∨ r = Reg.SEQ_TBL_STAT_ISL_PENDING) {v : Nat} (hv : v < 2) (s : State) :
    getF (setF pgSeq r v s) pgSeq r = v ∧ regsBut [fieldAddr pgSeq Reg.SEQ_TBL_STAT_SHADOW 0 0] s (setF pgSeq r v s) ∧
      (setF pgSeq r v s).seq = s.seq := by
  rcases h with rfl | rfl <;>
    exact ⟨(getF_setF_same (by decide) v s).trans (Nat.mod_eq_of_lt hv), regsBut_setF v (by decide) (regsBut_refl _ s), setF_seq _ _ _ s⟩

/-! ### STOP (R92) -/

theorem seqStop_running {s : State} (h : seqState s = 2) : seqStop s = { s with seq := { s.seq with stop := true } } := if_pos h

theorem seqStop_idle {s : State} (h : seqState s = 0) : seqStop s = s := (if_neg (by omega)).trans (if_pos h)

theorem seqStop_enters {s : State} (h0 : seqState s ≠ 0) (h2 : seqState s ≠ 2) : seqStop s = enterIdle s := (if_neg h2).trans (if_neg h0)

theorem enterIdle_shows (s : State) :
    seqState (enterIdle s) = 0 ∧ getF (enterIdle s) pgSeq Reg.SEQ_TBL_STAT_CORE_PENDING = 0 ∧
      getF (enterIdle s) pgSeq Reg.SEQ_TBL_STAT_ISL_PENDING = 0 ∧ (enterIdle s).seq.stop = false := by
  obtain ⟨hc, hi⟩ := dropRequests_shows { stopAll s with seq := { (stopAll s).seq with stop := false } }
  refine ⟨(getF_setF_same (by decide) 0 _).trans rfl, ?_, ?_, ?_⟩
  · exact (getF_setF_apart (by decide) (by decide) 0 _).trans hc
  · exact (getF_setF_apart (by decide) (by decide) 0 _).trans hi
  · rw [enterIdle, setSeqState, setF_seq, dropRequests_seq]

/-- Settles O25: each request by the state of the shadow and of the sequencer. -/
theorem tableRequests : Obligations.TableRequests := by
  unfold Obligations.TableRequests
  intro who s hc
  refine ⟨fun h => acts (does (exec_tableLoad hc s) (tableLoad_ignored h)), fun h0 hf hl => acts (does (exec_tableLoad hc s) ?_),
    fun h0 hf hl hu => acts (does (exec_tableLoad hc s) ?_), fun h1 h6 hf he => acts (does (exec_requestAdmission hc s) ?_),
    fun h1 h6 hf he => acts (does (exec_requestAdmission hc s) ?_), fun h => acts (does (exec_swapRequest hc s) ?_),
    fun h h0 => acts (does (exec_swapRequest hc s) ?_), fun h h0 hr => acts (does (exec_swapRequest hc s) ?_),
    acts (does (exec_swapCancel hc s) (setPending_shows (Or.inl rfl) (by decide) s)),
    fun h h0 hi => acts (does (exec_islSwapRequest hc s) ?_), fun hi => acts (does (exec_islSwapRequest hc s) ?_),
    fun hi => acts (does (exec_islSwapCancel hc s) ?_), fun hi => acts (does (exec_islSwapCancel hc s) ?_),
    fun h2 => acts (does (exec_seqStop hc s) ?_), fun h0 => acts (does (exec_seqStop hc s) (seqStop_idle h0)),
    fun h0 h2 => acts (does (exec_seqStop hc s) ?_)⟩
  · obtain ⟨hk, hcode, hp, hd⟩ := reportRefusal_shows 0 (c := 0x22) (by decide) 0xFF
      (dropRequests { s with seq := { s.seq with shadow := [], badLen := true, chk := none } })
    rw [tableLoad_bad h0 hf hl]
    exact ⟨shadowState_setShadow (by decide) _, codeIn_setShadow (by decide) 5 hk, (getF_setShadow_page (by decide) (by decide) 5 _).trans hcode,
      (getF_setShadow_page (by decide) (by decide) 5 _).trans hp, (getF_setShadow_page (by decide) (by decide) 5 _).trans hd,
      (setShadow_seq 5 _).trans (badLoad_seq s)⟩
  · rw [tableLoad_copies h0 hf hl hu]
    obtain ⟨hcp, hip⟩ := dropRequests_shows { (loadRead s).2 with seq := { (loadRead s).2.seq with shadow := (loadRead s).1, badLen := false, chk := none } }
    refine ⟨shadowState_setShadow (by decide) _, (getF_setF_apart (by decide) (by decide) 1 _).trans hcp,
      (getF_setF_apart (by decide) (by decide) 1 _).trans hip, ?_, ?_⟩
    · rw [setShadow_seq, dropRequests_seq]
      exact readStrokes_length _ _ s
    · rw [setShadow_seq, dropRequests_seq, loadRead, readStrokes_seq]
  · rw [tableAdmit_checks h1 h6 hf he]
    refine ⟨shadowState_setShadow (by decide) _, ?_, regsBut_setF 3 (by decide) (regsBut_setF 0 (by decide) (regsBut_same rfl (regsBut_refl _ s))),
      priorShadow s, ?_, fun hn => ?_⟩
    · rw [getF_setShadow_page (by decide) (by decide), getF_setF_same (by decide)]
      decide
    · rw [setShadow_seq, setF_seq]
    · rw [priorShadow, hn]
  · rw [tableAdmit_empty h1 h6 hf he]
    obtain ⟨hk, hcode, hp, -⟩ := reportRefusal_shows 0 (c := 0x22) (by decide) 0xFF s
    exact ⟨shadowState_setShadow (by decide) _, codeIn_setShadow (by decide) 5 hk, (getF_setShadow_page (by decide) (by decide) 5 _).trans hcode,
      (getF_setShadow_page (by decide) (by decide) 5 _).trans hp, (setShadow_seq 5 _).trans (reportRefusal_seq _ _ _ s)⟩
  · rw [swapRequest_refused h]
    exact refusedRequest_shows s
  · rw [swapRequest_pends h h0]
    exact setPending_shows (Or.inl rfl) (by decide) s
  · rw [swapRequest_idle h h0]
    exact swapInIdle_swaps hr
  · rw [islSwapRequest_pends hi h h0]
    exact setPending_shows (Or.inr rfl) (by decide) s
  · rw [islSwapRequest_refused hi]
    exact refusedRequest_shows s
  · rw [islSwapCancel_cancels hi]
    exact setPending_shows (Or.inr rfl) (by decide) s
  · rw [islSwapCancel_refused hi]
    exact refusedRequest_shows s
  · rw [seqStop_running h2]
    exact ⟨regsBut_refl _ s, rfl⟩
  · rw [seqStop_enters h0 h2]
    exact enterIdle_shows s

end Sys2Proof.Machine
end

section
/-! PROOFS. Chapter 08, camera streams (R58, R222 to R240): frames, packets, lines, verdicts and the configuration words. -/

namespace Sys2Proof.Machine

open Sys2Proof

/-! ### A stream and its page -/

theorem strmOf_congr {s t : State} (h : t.ing = s.ing) (sm : Nat) : strmOf t sm = strmOf s sm := by
  unfold strmOf
  rw [h]

theorem strmOf_modStrm {sm : Nat} {s : State} (h : sm < s.ing.length) (f : Strm → Strm) : strmOf (modStrm sm f s) sm = f (strmOf s sm) := by
  simp [strmOf, modStrm, List.getD_eq_getElem?_getD, h]

theorem modStrm_length (sm : Nat) (f : Strm → Strm) (s : State) : (modStrm sm f s).ing.length = s.ing.length :=
  List.length_modify ..

theorem countF_congr {s t : State} (h : t.ing = s.ing) (sm : Nat) (r : Row) : countF t sm r = countF s sm r := by
  unfold countF strmF
  rw [strmOf_congr h]

/-- A register of a block, not of a header. -/
def ownRow (r : Row) : Bool := 64 ≤ r.off && r.off < 4096

theorem ing_quiet {sm : Nat} (h : sm < 24) {r : Row} (hr : ownRow r = true) : quiet (fieldAddr (pgIng sm) r 0 0) := by
  simp only [ownRow, Bool.and_eq_true, decide_eq_true_eq] at hr
  simp only [quiet, fieldAddr, pageBase]
  omega

theorem ing_hub {sm : Nat} (h : sm < 24) {r : Row} (hr : ownRow r = true) : fieldAddr (pgIng sm) r 0 0 < 0x50000000 := by
  simp only [ownRow, Bool.and_eq_true, decide_eq_true_eq] at hr
  simp only [fieldAddr, pageBase]
  omega

theorem ing_fieldAddr (sm : Nat) (r : Row) : fieldAddr (pgIng sm) r 0 0 = pageBase (pgIng sm) + r.off := by
  simp only [fieldAddr, Nat.zero_mul, Nat.add_zero]

/-- The code that a page shows stands in its header, which no field of a block shares. -/
theorem codeIn_setF {p q : Page} {r : Row} (hr : ownRow r = true) (v : Nat) {c : Nat} {s : State} (k : codeIn s p c) : codeIn (setF q r v s) p c := by
  simp only [ownRow, Bool.and_eq_true, decide_eq_true_eq] at hr
  have hp := pageBase_mod p
  have hq := pageBase_mod q
  have e (r' : Row) (h' : r'.off < 64) : getF (setF q r v s) p r' = getF s p r' :=
    getFij_setFij_ne (by simp only [fieldAddr]; omega) v s
  rwa [codeIn, e _ (by decide), e _ (by decide)]

theorem ing_codeIn_record {sm : Nat} (h : sm < 24) {c : Nat} (hc : c < 256) (s : State) : codeIn (record (pgIng sm) c s) (pgIng sm) c :=
  codeIn_record (by simp only [pageBase]; omega) (by simp only [pageBase]; omega) hc s

/-! ### What a store to memory leaves alone -/

/-- The streams, and the registers of the hub's blocks outside what a record of a code writes. -/
def storesOnly (s t : State) : Prop := t.ing = s.ing ∧ ∀ a, quiet a → a < 0x50000000 → regW t a = regW s a

theorem storesOnly_refl (s : State) : storesOnly s s := ⟨rfl, fun _ _ _ => rfl⟩

theorem storesOnly_trans {r s t : State} (h : storesOnly r s) (k : storesOnly s t) : storesOnly r t :=
  ⟨k.1.trans h.1, fun a q b => (k.2 a q b).trans (h.2 a q b)⟩

theorem storesOnly_same {s t : State} (hi : t.ing = s.ing) (hr : t.regs = s.regs) : storesOnly s t := ⟨hi, fun a _ _ => regW_congr hr a⟩

theorem storesOnly_recordAt (p : Page) (code addr part : Nat) (s : State) : storesOnly s (recordAt p code addr part s) :=
  ⟨recordAt_ing p code addr part s, fun _ q _ => regW_recordAt q p code addr part s⟩

theorem storesOnly_chargeMem (m : Nat) (p : Option Nat) (a n : Nat) (s : State) : storesOnly s (chargeMem m p a n s) :=
  storesOnly_same ((chargeMem_keeps m p a n (K := 65536) (by decide) (Keeps.refl _ s)).frame .ing (by decide)) (chargeMem_regs m p a n s)

/-- A pool's own counter of refused writes stands in a page of its die. -/
theorem storesOnly_storeDev (a : Nat) (b : List Byte) (part : Nat) (s : State) : storesOnly s (storeDev a b part s).2 := by
  unfold storeDev
  split
  next n x _ =>
    refine storesOnly_trans ⟨bump_ing .., fun w _ hw => ?_⟩ (storesOnly_recordAt ..)
    refine regW_setFij_ne (show w ≠ fieldAddr (pgPool n) Reg.POOL_LRN_DENIED 0 0 from ?_) _ _
    simp only [fieldAddr, pageBase]
    omega
  · exact storesOnly_recordAt ..
  · exact storesOnly_same (memWrite_ing ..) (memWrite_regs ..)

theorem storesOnly_hubStore (m a : Nat) (b : List Byte) (s : State) : storesOnly s (hubStore m a b s).2 := by
  unfold hubStore
  split
  · exact storesOnly_recordAt ..
  · exact storesOnly_trans (storesOnly_chargeMem ..) (storesOnly_storeDev ..)

theorem storesOnly_actOf (f : Frame) (s : State) : storesOnly s (actOf f s).2 := by
  unfold actOf
  split <;> exact storesOnly_same rfl rfl

theorem storesOnly_writeRecord (sm : Nat) (s : State) : storesOnly s (writeRecord sm s) := by
  unfold writeRecord
  split
  · refine storesOnly_trans ?_ (storesOnly_hubStore ..)
    split
    · exact storesOnly_refl s
    · exact storesOnly_actOf ..
  · exact storesOnly_refl s

theorem storesOnly_getF {s t : State} (k : storesOnly s t) {sm : Nat} (h : sm < 24) {r : Row} (hr : ownRow r = true) :
    getF t (pgIng sm) r = getF s (pgIng sm) r := by
  unfold getF getFij
  rw [k.2 _ (ing_quiet h hr) (ing_hub h hr)]

theorem storesOnly_barCount {s t : State} (k : storesOnly s t) : barCount t = barCount s := by
  unfold barCount get64 getFi getFij
  rw [k.2 _ (by decide) (by decide), k.2 _ (by decide) (by decide)]

/-! ### Health and usable bits (R239, R240) -/

/-- The record of a health state newly entered. -/
def healthNoted (sm h old : Nat) (s : State) : State :=
  if h = old then s
  else if h = 2 then record (pgIng sm) 0x43 s
  else if h = 3 then record (pgIng sm) 0x44 s
  else if h = 4 then record (pgIng sm) 0x45 s
  else if h = 5 then record (pgIng sm) 0x46 s
  else if h = 6 then record (pgIng sm) 0x47 s
  else s

/-- The usable bit `u` of a stream is shown in its own page and in the first one. -/
def usableShown (sm u : Nat) (s : State) : State :=
  setF (pgIng 0) Reg.ING_HEALTH_LIVE (putBits (getF s (pgIng 0) Reg.ING_HEALTH_LIVE) sm 1 u) (setF (pgIng sm) Reg.ING_STAT_USABLE u s)

/-- HEALTH is set, and its code is recorded. -/
def healthShown (sm : Nat) (s : State) : State :=
  healthNoted sm (healthOf s sm) (getF s (pgIng sm) Reg.ING_STAT_HEALTH) (setF (pgIng sm) Reg.ING_STAT_HEALTH (healthOf s sm) s)

theorem updHealth_eq (sm : Nat) (s : State) :
    updHealth sm s = usableShown sm (if usableNow (healthShown sm s) sm then 1 else 0) (healthShown sm s) := rfl

theorem quietBut_ite {l : List Nat} {s t u : State} {c : Prop} [Decidable c] (h : quietBut l s t) (k : quietBut l s u) :
    quietBut l s (if c then t else u) := by split <;> assumption

theorem quietBut_healthNoted {l : List Nat} {s t : State} (k : quietBut l s t) (sm h old : Nat) : quietBut l s (healthNoted sm h old t) := by
  have r (c : Nat) : quietBut l s (record (pgIng sm) c t) := quietBut_record _ c k
  exact quietBut_ite k (quietBut_ite (r _) (quietBut_ite (r _) (quietBut_ite (r _) (quietBut_ite (r _) (quietBut_ite (r _) k)))))

theorem quietBut_updHealth {l : List Nat} {s t : State} {sm : Nat} (h1 : pageBase (pgIng sm) + 0x80 ∈ l) (h2 : pageBase (pgIng 0) + 0xC0 ∈ l)
    (k : quietBut l s t) : quietBut l s (updHealth sm t) := by
  have e {r : Row} (hr : r.off = 0x80) : fieldAddr (pgIng sm) r 0 0 ∈ l := by rwa [ing_fieldAddr, hr]
  have hh : quietBut l s (healthShown sm t) := quietBut_healthNoted (quietBut_setF _ (e rfl) k) _ _ _
  rw [updHealth_eq]
  exact quietBut_setF _ h2 (quietBut_setF _ (e rfl) hh)

theorem updHealth_ing (sm : Nat) (s : State) : (updHealth sm s).ing = s.ing :=
  (updHealth_keeps sm (K := 65536) (by decide) (Keeps.refl _ s)).frame .ing (by decide)

/-- The fields of a stream's page in other words than those of its health stay. -/
theorem getF_updHealth {sm : Nat} (h : sm < 24) {r : Row} (hr : ownRow r = true) (h1 : r.off ≠ 0x80) (h2 : r.off ≠ 0xC0) (s : State) :
    getF (updHealth sm s) (pgIng sm) r = getF s (pgIng sm) r := by
  have k := quietBut_updHealth (sm := sm) (l := [pageBase (pgIng sm) + 0x80, pageBase (pgIng 0) + 0xC0]) (by simp) (by simp) (quietBut_refl _ s)
  have hn : fieldAddr (pgIng sm) r 0 0 ∉ [pageBase (pgIng sm) + 0x80, pageBase (pgIng 0) + 0xC0] := by
    simp only [ownRow, Bool.and_eq_true, decide_eq_true_eq] at hr
    simp only [ing_fieldAddr, pageBase, List.mem_cons, List.not_mem_nil, or_false]
    omega
  unfold getF getFij
  rw [k _ (ing_quiet h hr) hn]

/-- A stream that has just become LATE shows it and records 0x43. -/
theorem updHealth_late {sm : Nat} (hs : sm < 24) {s : State} (h : healthOf s sm = 2) (ho : getF s (pgIng sm) Reg.ING_STAT_HEALTH = 1) :
    getF (updHealth sm s) (pgIng sm) Reg.ING_STAT_HEALTH = 2 ∧ codeIn (updHealth sm s) (pgIng sm) 0x43 := by
  have e : healthShown sm s = record (pgIng sm) 0x43 (setF (pgIng sm) Reg.ING_STAT_HEALTH 2 s) := by
    rw [healthShown, h, ho, healthNoted, if_neg (by decide), if_pos rfl]
  have hp (v : Nat) (t : State) : getF (setF (pgIng 0) Reg.ING_HEALTH_LIVE v t) (pgIng sm) Reg.ING_STAT_HEALTH = getF t (pgIng sm) Reg.ING_STAT_HEALTH :=
    getFij_setFij_ne (by rw [ing_fieldAddr, ing_fieldAddr]; simp only [pageBase]; change _ + 0x80 ≠ _ + 0xC0; omega) v t
  rw [updHealth_eq, usableShown, e]
  constructor
  · rw [hp, getF_setF_apart (by decide) (by decide), getF_record (ing_quiet hs (by decide)), getF_setF_same (by decide)]
    rfl
  · exact codeIn_setF (by decide) _ (codeIn_setF (by decide) _ (ing_codeIn_record hs (by decide) _))

/-! ### Frame Start (R58, R227, R238) -/

/-- What a Frame Start finds of an earlier bar's frame gives way to it. -/
def leftover (sm : Nat) (s : State) : State :=
  match (strmOf s sm).frame with
  | some f =>
    if f.bar = barCount s then s
    else
      modStrm sm (fun x => { x with frame := none })
        (if arriving (strmOf s sm) then finishFrame sm (modFrame sm (fun f => { f with broken := true }) s) else s)
  | none => s

theorem exec_frameStart {port vc sm : Nat} {s : State} (h : camStreams s port vc (fun _ => true) = [sm]) (fn n : Nat) :
    exec (.frameStart port vc fn n) s = .next (startFrame sm (fn % 65536) (leftover sm (at_ n s))) := by
  have e : exec (.frameStart port vc fn n) s = .next ((camStreams s port vc (fun _ => true)).foldl (fun s sm =>
      startFrame sm (fn % 65536) (leftover sm s)) (at_ n s)) := rfl
  rw [e, h]
  rfl

theorem leftover_none {sm : Nat} {s : State} (h : (strmOf s sm).frame = none) : leftover sm s = s := by rw [leftover, h]

theorem leftover_bar {sm : Nat} {s : State} {f : Frame} (h : (strmOf s sm).frame = some f) (hb : f.bar = barCount s) : leftover sm s = s := by
  rw [leftover, h]
  exact if_pos hb

/-- Where no frame arrives, what is left over takes no end. -/
theorem leftover_idle {sm : Nat} {s : State} (h : arriving (strmOf s sm) = false) :
    leftover sm s = s ∨ leftover sm s = modStrm sm (fun x => { x with frame := none }) s := by
  unfold leftover
  split
  · split
    · exact Or.inl rfl
    · rw [if_neg (by simp [h])]
      exact Or.inr rfl
  · exact Or.inl rfl

/-- The frame number is taken, and the numbers left out are counted. -/
def numbered (sm fn : Nat) (s : State) : State :=
  bump (pgIng sm) Reg.ING_FN_SKIPS (fnGap (strmOf s sm).prevFn fn) (modStrm sm (fun x => { x with prevFn := fn }) s)

/-- The bar frame that begins with number `fn` after the stream was as in `x`. -/
def newFrame (x : Strm) (fn : Nat) (s : State) : Frame :=
  { fs := devTime s, fe := none, bar := barCount s, fn := fn, rows := 0, intact := true, ready := [], lines := 0,
    broken := false, slow := false, last := none, hash := crc64Ones, early := crc64Ones, actSum := 0, actCnt := 0,
    emb := 0, embTrunc := false, fnJump := decide (0 < fnGap x.prevFn fn), fnSame := decide (fn ≠ 0) && decide (fn = x.prevFn),
    earlyRep := false, verdict := 1 }

/-- The stream takes its frame `g`, shown in its page with number `fn`. -/
def begun (sm fn : Nat) (g : Frame) (s : State) : State :=
  setF (pgIng sm) Reg.ING_FRAME_VERDICT 1 (setF (pgIng sm) Reg.ING_FRAME_FN fn (modStrm sm (fun x => { x with frame := some g, skip := false }) s))

/-- A Frame Start where no frame arrives: the stream's frame of this bar stays and the new one is dropped, or the new one begins. -/
def started (sm fn : Nat) (s : State) : State :=
  match (strmOf s sm).frame with
  | some _ => bump (pgIng sm) Reg.ING_DROPPED 1 (modStrm sm (fun x => { x with skip := true }) (numbered sm fn s))
  | none => updHealth sm (writeRecord sm (begun sm fn (newFrame (strmOf s sm) fn (numbered sm fn s)) (numbered sm fn s)))

theorem startFrame_stopped {s : State} (h : barsRun s = false) (sm fn : Nat) :
    startFrame sm fn s = modStrm sm (fun x => { x with frame := none, skip := true }) s := if_pos h

theorem startFrame_runs {sm : Nat} {s : State} (hb : barsRun s = true) (ha : arriving (strmOf s sm) = false) (fn : Nat) :
    startFrame sm fn s = started sm fn s := by
  have e : startFrame sm fn s = if barsRun s = false then modStrm sm (fun x => { x with frame := none, skip := true }) s else
      started sm fn (if arriving (strmOf s sm) then finishFrame sm (modFrame sm (fun f => { f with broken := true }) s) else s) := rfl
  rw [e, if_neg (by simp [hb]), if_neg (by simp [ha])]

theorem startFrame_begins {sm : Nat} {s : State} (hb : barsRun s = true) (h : (strmOf s sm).frame = none) (fn : Nat) :
    startFrame sm fn s = updHealth sm (writeRecord sm (begun sm fn (newFrame (strmOf s sm) fn (numbered sm fn s)) (numbered sm fn s))) := by
  rw [startFrame_runs hb (by rw [arriving, h]), started, h]

theorem startFrame_dropped {sm : Nat} {s : State} (hb : barsRun s = true) {f : Frame} (h : (strmOf s sm).frame = some f)
    (ha : arriving (strmOf s sm) = false) (fn : Nat) :
    startFrame sm fn s = bump (pgIng sm) Reg.ING_DROPPED 1 (modStrm sm (fun x => { x with skip := true }) (numbered sm fn s)) := by
  rw [startFrame_runs hb ha, started, h]

theorem numbered_length (sm fn : Nat) (s : State) : (numbered sm fn s).ing.length = s.ing.length := by
  rw [numbered, bump_ing, modStrm_length]

theorem numbered_strmOf {sm : Nat} {s : State} (h : sm < s.ing.length) (fn : Nat) :
    strmOf (numbered sm fn s) sm = { strmOf s sm with prevFn := fn } := by
  rw [numbered, strmOf_congr (bump_ing ..), strmOf_modStrm h]

theorem numbered_skips (sm fn : Nat) (s : State) : getF (numbered sm fn s) (pgIng sm) Reg.ING_FN_SKIPS =
    satAdd 32 (getF s (pgIng sm) Reg.ING_FN_SKIPS) (fnGap (strmOf s sm).prevFn fn) :=
  (getF_setF_same (by decide) _ _).trans (Nat.mod_eq_of_lt (satAdd_lt ..))

theorem numbered_barCount {sm : Nat} (h : sm < 24) (fn : Nat) (s : State) : barCount (numbered sm fn s) = barCount s := by
  have e {r : Row} (hr : r.off < 4096) : getF (numbered sm fn s) pgCyc r = getF s pgCyc r :=
    getF_setF_page (by simp only [pageBase]; omega) (by decide) hr _ _
  exact congrArg₂ (fun a b => a + 2 ^ 32 * b) (e (by decide)) (e (by decide))

/-- What a Frame Start that begins the bar frame leaves of the stream and of its page. -/
theorem startFrame_begins_shows {sm : Nat} {s : State} (hs : sm < 24) (hl : s.ing.length = 24) (hb : barsRun s = true)
    (h : (strmOf s sm).frame = none) {fn : Nat} (hf : fn < 65536) :
    let t := startFrame sm fn s
    getF t (pgIng sm) Reg.ING_FRAME_FN = fn ∧ getF t (pgIng sm) Reg.ING_FRAME_VERDICT = 1 ∧
      getF t (pgIng sm) Reg.ING_FN_SKIPS = satAdd 32 (getF s (pgIng sm) Reg.ING_FN_SKIPS) (fnGap (strmOf s sm).prevFn fn) ∧
      (strmOf t sm).skip = false ∧ (strmOf t sm).frame = some (newFrame (strmOf s sm) fn (numbered sm fn s)) := by
  have hn : sm < (numbered sm fn s).ing.length := by rw [numbered_length, hl]; exact hs
  rw [startFrame_begins hb h]
  generalize newFrame (strmOf s sm) fn (numbered sm fn s) = g
  have hw := storesOnly_writeRecord sm (begun sm fn g (numbered sm fn s))
  have ei : (updHealth sm (writeRecord sm (begun sm fn g (numbered sm fn s)))).ing = (begun sm fn g (numbered sm fn s)).ing :=
    (updHealth_ing ..).trans hw.1
  have ex : strmOf (begun sm fn g (numbered sm fn s)) sm = { strmOf (numbered sm fn s) sm with frame := some g, skip := false } := by
    rw [begun, strmOf_congr (setF_ing ..), strmOf_congr (setF_ing ..), strmOf_modStrm hn]
  have er {r : Row} (hr : ownRow r = true) (h1 : r.off ≠ 0x80) (h2 : r.off ≠ 0xC0) :
      getF (updHealth sm (writeRecord sm (begun sm fn g (numbered sm fn s)))) (pgIng sm) r = getF (begun sm fn g (numbered sm fn s)) (pgIng sm) r :=
    (getF_updHealth hs hr h1 h2 _).trans (storesOnly_getF hw hs hr)
  refine ⟨?_, ?_, ?_, ?_, ?_⟩
  · rw [er (by decide) (by decide) (by decide), begun, getF_setF_apart (by decide) (by decide), getF_setF_same (by decide)]
    exact Nat.mod_eq_of_lt hf
  · rw [er (by decide) (by decide) (by decide), begun, getF_setF_same (by decide)]
    rfl
  · rw [er (by decide) (by decide) (by decide), begun, getF_setF_apart (by decide) (by decide), getF_setF_apart (by decide) (by decide),
      getF_congr (modStrm_regs ..), numbered_skips]
  · rw [strmOf_congr ei, ex]
  · rw [strmOf_congr ei, ex]

/-- What reports, stores and charges of a stream's work reach. -/
def camPieces : List Piece := report ++ [.mem, .acct, .ing]

/-- A Frame Start where bars run and no frame is held begins the bar frame. -/
theorem frameStart_begins {port vc sm : Nat} {s : State} (hs : sm < 24) (hl : s.ing.length = 24)
    (hc : camStreams s port vc (fun _ => true) = [sm]) (hb : barsRun s = true) (h : (strmOf s sm).frame = none) (fn n : Nat) :
    Does (.frameStart port vc fn n) s fun t => samesBut camPieces s t ∧ getF t (pgIng sm) Reg.ING_FRAME_FN = fn % 65536 ∧
      getF t (pgIng sm) Reg.ING_FRAME_VERDICT = 1 ∧
      getF t (pgIng sm) Reg.ING_FN_SKIPS = satAdd 32 (getF s (pgIng sm) Reg.ING_FN_SKIPS) (fnGap (strmOf s sm).prevFn (fn % 65536)) ∧
      (strmOf t sm).skip = false ∧ ∃ g, (strmOf t sm).frame = some g ∧ g.fs = devTime (at_ n s) ∧ g.bar = barCount s ∧ g.fn = fn % 65536 ∧
        g.verdict = 1 ∧ g.rows = 0 ∧ g.lines = 0 ∧ g.broken = false := by
  have h' : (strmOf (at_ n s) sm).frame = none := h
  obtain ⟨hfn, hv, hsk, hskip, hg⟩ := startFrame_begins_shows (s := at_ n s) hs hl hb h' (Nat.mod_lt fn (by decide : 65536 > 0))
  refine does_reach rfl ⟨_, (exec_frameStart hc fn n).trans (by rw [leftover_none h']), hfn, hv, hsk, hskip, _, hg, rfl, ?_, rfl, rfl, rfl, rfl, rfl⟩
  exact (numbered_barCount hs _ _).trans (barCount_at n s)

/-- A second Frame Start in the bar is dropped and counted. -/
theorem frameStart_dropped {port vc sm : Nat} {f : Frame} {s : State} (hs : sm < 24) (hl : s.ing.length = 24)
    (hc : camStreams s port vc (fun _ => true) = [sm]) (hb : barsRun s = true) (h : (strmOf s sm).frame = some f) (hf : f.bar = barCount s)
    (ha : arriving (strmOf s sm) = false) (fn n : Nat) :
    Does (.frameStart port vc fn n) s fun t => samesBut [.regs, .io, .ing] s t ∧
      strmOf t sm = { strmOf s sm with prevFn := fn % 65536, skip := true } ∧
      getF t (pgIng sm) Reg.ING_DROPPED = satAdd 32 (getF s (pgIng sm) Reg.ING_DROPPED) 1 ∧
      regsBut [pageBase (pgIng sm) + 0x94, pageBase (pgIng sm) + 0xA0] s t := by
  have h' : (strmOf (at_ n s) sm).frame = some f := h
  have hn : sm < (numbered sm (fn % 65536) (at_ n s)).ing.length := by rw [numbered_length, at_ing, hl]; exact hs
  have e {r : Row} (hr : r.off = 0x94 ∨ r.off = 0xA0) : fieldAddr (pgIng sm) r 0 0 ∈ [pageBase (pgIng sm) + 0x94, pageBase (pgIng sm) + 0xA0] := by
    rw [ing_fieldAddr]
    simpa using hr
  refine ⟨_, (exec_frameStart hc fn n).trans (by rw [leftover_bar h' (hf.trans (barCount_at n s).symm), startFrame_dropped (s := at_ n s) hb h' ha]), ?_, ?_, ?_, ?_⟩
  · refine samesBut_keeps (bump_keeps _ _ _ (by decide) (modStrm_keeps _ _ (by decide) ?_))
    exact bump_keeps _ _ _ (by decide) (modStrm_keeps _ _ (by decide) (at_keeps _ (by decide) (Keeps.refl _ s)))
  · rw [strmOf_congr (bump_ing ..), strmOf_modStrm hn, numbered_strmOf (by rw [at_ing, hl]; exact hs), strmOf_congr (at_ing ..)]
  · refine (getF_setF_same (by decide) _ _).trans ((Nat.mod_eq_of_lt (satAdd_lt ..)).trans ?_)
    refine congrArg (satAdd 32 · 1) ((getF_congr (modStrm_regs ..) _ _).trans ?_)
    exact getF_setF_apart (by decide) (by decide) _ _
  · refine regsBut_bump _ (e (Or.inl rfl)) (regsBut_same (modStrm_regs ..) (regsBut_bump _ (e (Or.inr rfl)) ?_))
    exact regsBut_same (modStrm_regs ..) (regsBut_at n (regsBut_refl _ s))

/-- While bars stop a Frame Start leaves the stream no frame. -/
theorem frameStart_stopped {port vc sm : Nat} {s : State} (hs : sm < 24) (hl : s.ing.length = 24)
    (hc : camStreams s port vc (fun _ => true) = [sm]) (hb : barsRun s = false) (ha : arriving (strmOf s sm) = false) (fn n : Nat) :
    Does (.frameStart port vc fn n) s fun t => samesBut [.io, .ing] s t ∧ (strmOf t sm).frame = none := by
  have hk : Keeps (others [.io, .ing]) s (at_ n s) := at_keeps _ (by decide) (Keeps.refl _ s)
  refine ⟨_, exec_frameStart hc fn n, ?_⟩
  rcases leftover_idle (s := at_ n s) ha with e | e <;> rw [e, startFrame_stopped (by exact hb)]
  · exact ⟨samesBut_keeps (modStrm_keeps _ _ (by decide) hk), by rw [strmOf_modStrm (by rw [at_ing, hl]; exact hs)]⟩
  · refine ⟨samesBut_keeps (modStrm_keeps _ _ (by decide) (modStrm_keeps _ _ (by decide) hk)), ?_⟩
    rw [strmOf_modStrm (by rw [modStrm_length, at_ing, hl]; exact hs)]

/-! ### Packets (R224, R227) -/

/-- A packet takes what its type says of stream `sm`; one that fails its checks is counted and recorded first. -/
def packetTaken (sm dt : Nat) (l : List Byte) (bad fifo : Bool) (s : State) : State :=
  let s := if bad then record (pgIng sm) 0x40 (bump (pgIng sm) Reg.ING_PKT_ERR 1 s) else s
  if dt = 0x12 then (if bad then s else takeEmbedded sm l s) else takeLine sm l bad fifo s

/-- The streams that take a packet. -/
def packetStreams (s : State) (port vc dt : Nat) : List Nat :=
  if dt = 0x12 then camStreams s port vc (fun _ => true) else camStreams s port vc (fun c => cfgF c Reg.ING_SRC_DT = dt)

theorem exec_csiLongPacket (port vc dt : Nat) (l : List Byte) (hdrErrs : Nat) (crcOk fifo : Bool) (s : State) :
    exec (.csiLongPacket port vc dt l hdrErrs crcOk fifo) s = .next (if packetStreams s port vc dt = [] then
        (camStreams s port vc (fun _ => true)).foldl (fun s sm => bump (pgIng sm) Reg.ING_PKT_ERR 1 s) s
      else (packetStreams s port vc dt).foldl (fun s sm => packetTaken sm dt l (decide (1 < hdrErrs) || !crcOk) fifo s) s) := rfl

theorem exec_csiLongPacket_unbound {port vc dt sm : Nat} {s : State} (h : dt ≠ 0x12) (ha : camStreams s port vc (fun _ => true) = [sm])
    (hm : camStreams s port vc (fun c => cfgF c Reg.ING_SRC_DT = dt) = []) (l : List Byte) (hdrErrs : Nat) (crcOk fifo : Bool) :
    exec (.csiLongPacket port vc dt l hdrErrs crcOk fifo) s = .next (bump (pgIng sm) Reg.ING_PKT_ERR 1 s) := by
  have e : packetStreams s port vc dt = [] := (if_neg h).trans hm
  rw [exec_csiLongPacket, if_pos e, ha]
  rfl

theorem exec_csiLongPacket_bound {port vc dt sm : Nat} {s : State} (h : dt ≠ 0x12)
    (hm : camStreams s port vc (fun c => cfgF c Reg.ING_SRC_DT = dt) = [sm]) (l : List Byte) (hdrErrs : Nat) (crcOk fifo : Bool) :
    exec (.csiLongPacket port vc dt l hdrErrs crcOk fifo) s = .next (packetTaken sm dt l (decide (1 < hdrErrs) || !crcOk) fifo s) := by
  have e : packetStreams s port vc dt = [sm] := (if_neg h).trans hm
  rw [exec_csiLongPacket, e, if_neg (List.cons_ne_nil _ _)]
  rfl

theorem takeLine_arriving {sm : Nat} {f : Frame} {s : State} (h : (strmOf s sm).frame = some f) (ha : arriving (strmOf s sm) = true)
    (l : List Byte) (bad fifo : Bool) : takeLine sm l bad fifo s = storeLine sm (strmOf s sm) f l bad fifo s := by
  rw [takeLine, h]
  exact if_neg (by simp [ha])

theorem storeLine_bad (sm : Nat) (x : Strm) (f : Frame) (l : List Byte) (fifo : Bool) (s : State) :
    storeLine sm x f l true fifo s =
      modStrm sm (strmTaken x f l true false false (countF s sm Reg.ING_EARLY_N)) (record (pgIng sm) 0x41 s) := by
  simp [storeLine]

/-- A whole line that its buffer holds, and that is stored, is taken. -/
theorem storeLine_good {x : Strm} {f : Frame} {l : List Byte} {s : State} (h : l.length = linePayload x.cfg)
    (hp : (f.rows / cfgPy x.cfg + 1) * tensorPitch (cfgTensor x.cfg) ≤ cfgF x.cfg Reg.ING_BUF_LEN * 64)
    (hw : (writeLine x.cfg l (f.rows / cfgPy x.cfg) (f.rows % cfgPy x.cfg) s).1 = true) (sm : Nat) :
    storeLine sm x f l false false s = modStrm sm (strmTaken x f l false true true (countF s sm Reg.ING_EARLY_N))
      (writeLine x.cfg l (f.rows / cfgPy x.cfg) (f.rows % cfgPy x.cfg) s).2 := by
  have hn : ¬ cfgF x.cfg Reg.ING_BUF_LEN * 64 < (f.rows / cfgPy x.cfg + 1) * tensorPitch (cfgTensor x.cfg) := by omega
  simp [storeLine, h, hn, hw]

/-- A packet of a data type that no stream binds is counted. -/
theorem csiLongPacket_unbound {port vc dt sm : Nat} {s : State} (h : dt ≠ 0x12) (ha : camStreams s port vc (fun _ => true) = [sm])
    (hm : camStreams s port vc (fun c => cfgF c Reg.ING_SRC_DT = dt) = []) (l : List Byte) (hdrErrs : Nat) (crcOk fifo : Bool) :
    Does (.csiLongPacket port vc dt l hdrErrs crcOk fifo) s fun t => samesBut [.regs] s t ∧
      getF t (pgIng sm) Reg.ING_PKT_ERR = satAdd 32 (getF s (pgIng sm) Reg.ING_PKT_ERR) 1 ∧ regsBut [pageBase (pgIng sm) + 0x8C] s t :=
  ⟨_, exec_csiLongPacket_unbound h ha hm l hdrErrs crcOk fifo, samesBut_keeps (bump_keeps _ _ _ (by decide) (Keeps.refl _ s)),
    (getF_setF_same (by decide) _ _).trans (Nat.mod_eq_of_lt (satAdd_lt ..)),
    regsBut_bump 1 (by rw [ing_fieldAddr]; exact List.mem_cons_self) (regsBut_refl _ s)⟩

/-- A packet that fails its checks is counted and recorded, and its line breaks the frame. -/
theorem csiLongPacket_bad {port vc dt sm : Nat} {f : Frame} {s : State} (hs : sm < 24) (hl : s.ing.length = 24) (h : dt ≠ 0x12)
    (hm : camStreams s port vc (fun c => cfgF c Reg.ING_SRC_DT = dt) = [sm]) (hf : (strmOf s sm).frame = some f)
    (ha : arriving (strmOf s sm) = true) {hdrErrs : Nat} {crcOk : Bool} (hb : 1 < hdrErrs ∨ crcOk = false) (l : List Byte) (fifo : Bool) :
    Does (.csiLongPacket port vc dt l hdrErrs crcOk fifo) s fun t => samesBut (report ++ [.ing]) s t ∧ codeIn t (pgIng sm) 0x41 ∧
      getF t (pgIng sm) Reg.ING_PKT_ERR = satAdd 32 (getF s (pgIng sm) Reg.ING_PKT_ERR) 1 ∧
      (strmOf t sm).frame = some (frameTaken (strmOf s sm) f l true false false (countF s sm Reg.ING_EARLY_N)) := by
  have hbad : (decide (1 < hdrErrs) || !crcOk) = true := by simpa using hb
  let u := record (pgIng sm) 0x40 (bump (pgIng sm) Reg.ING_PKT_ERR 1 s)
  have hu : u.ing = s.ing := (record_ing ..).trans (bump_ing ..)
  have e : packetTaken sm dt l true fifo s = modStrm sm (strmTaken (strmOf s sm) f l true false false (countF s sm Reg.ING_EARLY_N)) (record (pgIng sm) 0x41 u) := by
    have e1 : packetTaken sm dt l true fifo s = takeLine sm l true fifo u := if_neg h
    rw [e1, takeLine_arriving (by rw [strmOf_congr hu]; exact hf) (by rw [strmOf_congr hu]; exact ha), storeLine_bad, strmOf_congr hu, countF_congr hu]
  refine ⟨_, (exec_csiLongPacket_bound h hm l hdrErrs crcOk fifo).trans (by rw [hbad, e]), ?_, ?_, ?_, ?_⟩
  · refine samesBut_keeps (modStrm_keeps _ _ (by decide) (record_keeps _ _ (by decide) (record_keeps _ _ (by decide) ?_)))
    exact bump_keeps _ _ _ (by decide) (Keeps.refl _ s)
  · exact codeIn_congr (modStrm_regs ..) (ing_codeIn_record hs (by decide) u)
  · rw [getF_congr (modStrm_regs ..), getF_record (ing_quiet hs (by decide)), getF_record (ing_quiet hs (by decide))]
    exact (getF_setF_same (by decide) _ _).trans (Nat.mod_eq_of_lt (satAdd_lt ..))
  · rw [strmOf_modStrm (by rw [record_ing, hu, hl]; exact hs)]
    rfl

/-- A good packet's line is written. -/
theorem csiLongPacket_good {port vc dt sm : Nat} {f : Frame} {l : List Byte} {s : State} (hs : sm < 24) (hl : s.ing.length = 24) (h : dt ≠ 0x12)
    (hm : camStreams s port vc (fun c => cfgF c Reg.ING_SRC_DT = dt) = [sm]) (hf : (strmOf s sm).frame = some f)
    (ha : arriving (strmOf s sm) = true) {hdrErrs : Nat} (he : hdrErrs ≤ 1) (hlen : l.length = linePayload (strmOf s sm).cfg)
    (hp : (f.rows / cfgPy (strmOf s sm).cfg + 1) * tensorPitch (cfgTensor (strmOf s sm).cfg) ≤ cfgF (strmOf s sm).cfg Reg.ING_BUF_LEN * 64)
    (hw : (writeLine (strmOf s sm).cfg l (f.rows / cfgPy (strmOf s sm).cfg) (f.rows % cfgPy (strmOf s sm).cfg) s).1 = true) :
    Does (.csiLongPacket port vc dt l hdrErrs true false) s fun t => samesBut camPieces s t ∧
      t.mem = (writeLine (strmOf s sm).cfg l (f.rows / cfgPy (strmOf s sm).cfg) (f.rows % cfgPy (strmOf s sm).cfg) s).2.mem ∧
      (strmOf t sm).frame = some (frameTaken (strmOf s sm) f l false true true (countF s sm Reg.ING_EARLY_N)) := by
  have hgood : (decide (1 < hdrErrs) || !true) = false := by simpa using he
  have e : packetTaken sm dt l false false s = storeLine sm (strmOf s sm) f l false false s :=
    (if_neg h).trans (takeLine_arriving hf ha l false false)
  have hi : (writeLine (strmOf s sm).cfg l (f.rows / cfgPy (strmOf s sm).cfg) (f.rows % cfgPy (strmOf s sm).cfg) s).2.ing = s.ing :=
    (keepsP_get (writeLine_keeps _ _ _ _ (K := 65536) (by decide) (Keeps.refl _ s))).frame .ing (by decide)
  refine does_reach rfl ⟨_, (exec_csiLongPacket_bound h hm l hdrErrs true false).trans (by rw [hgood, e, storeLine_good hlen hp hw]), ?_, ?_⟩
  · rw [modStrm_mem]
  · rw [strmOf_modStrm (by rw [hi, hl]; exact hs)]
    rfl

/-! ### Complete lines (R227, R228) -/

/-- The position of the bar frame follows a line that comes next. -/
def posShown (sm y : Nat) (f : Frame) (s : State) : State :=
  if f.bar = barCount s ∧ (y = 0 ∨ getF s (pgIng sm) Reg.ING_STAT_POS + 1 = y) then setF (pgIng sm) Reg.ING_STAT_POS y s else s

/-- The frame after its ready line `y` is complete at instant `t`, in time. -/
def lineDone (y : Nat) (rest : List Nat) (t : Nat) (f : Frame) : Frame := { f with ready := rest, lines := f.lines + 1, last := some (y, t) }

/-- A line with neither a limit on its time nor a record of it. -/
theorem completeLine_plain {sm y : Nat} {rest : List Nat} {f : Frame} {s : State} (h : (strmOf s sm).frame = some f) (hr : f.ready = y :: rest)
    (hm : strmF s sm Reg.ING_LINE_MAX = 0) (ht : strmF s sm Reg.ING_CTL_LTIME = 0) :
    completeLine sm s = modFrame sm (fun g => { lineDone y rest s.io.now g with slow := g.slow || false }) (posShown sm y f s) := by
  have hi : (posShown sm y f s).io = s.io := by
    unfold posShown
    split
    · exact setF_io ..
    · rfl
  rw [completeLine, h]
  simp only [hr, hm, ht, ne_eq, not_true_eq_false, decide_false, Bool.false_and, Bool.false_eq_true, if_false, zero_ne_one, hi.symm]
  rfl

theorem posShown_ing (sm y : Nat) (f : Frame) (s : State) : (posShown sm y f s).ing = s.ing := by
  unfold posShown
  split
  · exact setF_ing ..
  · rfl

theorem posShown_pos {y : Nat} (h : y < 65536) (sm : Nat) (f : Frame) (s : State) : getF (posShown sm y f s) (pgIng sm) Reg.ING_STAT_POS =
    if f.bar = barCount s ∧ (y = 0 ∨ getF s (pgIng sm) Reg.ING_STAT_POS + 1 = y) then y else getF s (pgIng sm) Reg.ING_STAT_POS := by
  unfold posShown
  split
  · exact (getF_setF_same (by decide) y s).trans (Nat.mod_eq_of_lt h)
  · rfl

theorem regsBut_posShown {l : List Nat} {s t : State} {sm : Nat} (h : pageBase (pgIng sm) + 0x80 ∈ l) (y : Nat) (f : Frame) (k : regsBut l s t) :
    regsBut l s (posShown sm y f t) := by
  unfold posShown
  split
  · exact regsBut_setF y (by rw [ing_fieldAddr]; exact h) k
  · exact k

theorem posShown_keeps {K : Nat} (hK : K &&& 1 = 0) {s t : State} (k : Keeps K s t) (sm y : Nat) (f : Frame) : Keeps K s (posShown sm y f t) :=
  keeps_ite (setF_keeps _ _ _ hK k) k

/-- A complete line moves the position. -/
theorem lineComplete_plain {sm y : Nat} {rest : List Nat} {f : Frame} {s : State} (hs : sm < 24) (hl : s.ing.length = 24)
    (h : (strmOf s sm).frame = some f) (hr : f.ready = y :: rest) (hm : strmF s sm Reg.ING_LINE_MAX = 0) (ht : strmF s sm Reg.ING_CTL_LTIME = 0)
    (hy : y < 65536) (n : Nat) :
    Does (.lineComplete sm n) s fun t => samesBut [.regs, .io, .ing] s t ∧
      strmOf t sm = { strmOf s sm with frame := some (lineDone y rest (Nat.max s.io.now n) f) } ∧
      getF t (pgIng sm) Reg.ING_STAT_POS =
        (if f.bar = barCount s ∧ (y = 0 ∨ getF s (pgIng sm) Reg.ING_STAT_POS + 1 = y) then y else getF s (pgIng sm) Reg.ING_STAT_POS) ∧
      regsBut [pageBase (pgIng sm) + 0x80] s t := by
  have e : exec (.lineComplete sm n) s = .next (completeLine sm (at_ n s)) := rfl
  refine ⟨_, e.trans (by rw [completeLine_plain (s := at_ n s) h hr hm ht]), ?_, ?_, ?_, ?_⟩
  · exact samesBut_keeps (modFrame_keeps _ _ (by decide) (posShown_keeps (by decide) (at_keeps n (by decide) (Keeps.refl _ s)) ..))
  · rw [modFrame, strmOf_modStrm (by rw [posShown_ing, at_ing, hl]; exact hs), strmOf_congr (posShown_ing ..), strmOf_congr (at_ing ..), h]
    simp [lineDone, at_]
  · rw [getF_congr (modFrame_regs ..), posShown_pos hy, barCount_at, getF_congr (at_regs ..)]
  · exact regsBut_same (modFrame_regs ..) (regsBut_posShown List.mem_cons_self y f (regsBut_at n (regsBut_refl _ s)))

/-! ### Frame End (R238) -/

theorem exec_frameEnd {port vc sm : Nat} {f : Frame} {s : State} (hc : camStreams s port vc (fun _ => true) = [sm])
    (h : (strmOf s sm).frame = some f) (ha : arriving (strmOf s sm) = true) (hr : f.ready = []) (n : Nat) :
    exec (.frameEnd port vc n) s =
      .next (finishFrame sm (modFrame sm (fun g => { g with fe := some (devTime (at_ n s)) }) (at_ n s))) := by
  have e : exec (.frameEnd port vc n) s = execFrameEnd port vc n s := rfl
  have h' : (strmOf (at_ n s) sm).frame = some f := h
  have ha' : arriving (strmOf (at_ n s) sm) = true := ha
  rw [e, execFrameEnd, hc]
  simp only [List.foldl_cons, List.foldl_nil, h', ha', hr, if_true]

/-- The stream after its frame `f` ended with verdict `v`. -/
def strmEnded (sm v : Nat) (f : Frame) (s : State) : State :=
  modStrm sm (fun x => { countVerdict v (countF s sm Reg.ING_FRZ_N) (countF s sm Reg.ING_FLAT_N) (countF s sm Reg.ING_RECOVER_N) x with
    prevHash := some (f.hash ^^^ crc64Ones) }) s

/-- The frame is counted, a repeated one twice. -/
def frameCounted (sm v : Nat) (s : State) : State :=
  bump (pgIng sm) Reg.ING_FRAMES 1 (if v = 3 then bump (pgIng sm) Reg.ING_REPEATS 1 s else s)

/-- The verdict of a frame of this bar is shown. -/
def verdictShown (sm v : Nat) (f : Frame) (s : State) : State :=
  if f.bar = barCount s then setF (pgIng sm) Reg.ING_FRAME_VERDICT v s else s

/-- The verdict is final in the stream, and the record is rewritten. -/
def recordFinal (sm v act : Nat) (f : Frame) (s : State) : State :=
  let s := modFrame sm (fun g => { g with verdict := v }) s
  (hubStore 16 (sideBase s sm) (frameRecord s { f with verdict := v } act) s).2

theorem finishFrame_eq {sm : Nat} {f : Frame} {s : State} (h : (strmOf s sm).frame = some f) :
    finishFrame sm s = updHealth sm (verdictShown sm (verdictOf s sm f (actOf f s).1) f (frameCounted sm (verdictOf s sm f (actOf f s).1)
      (strmEnded sm (verdictOf s sm f (actOf f s).1) f (recordFinal sm (verdictOf s sm f (actOf f s).1) (actOf f s).1 f (actOf f s).2)))) := by
  rw [finishFrame, h]
  rfl

theorem countVerdict_frame (v frz flt r : Nat) (x : Strm) : (countVerdict v frz flt r x).frame = x.frame := rfl

theorem recordFinal_stores (sm v act : Nat) (f : Frame) (s : State) :
    storesOnly (modFrame sm (fun g => { g with verdict := v }) s) (recordFinal sm v act f s) := storesOnly_hubStore ..

theorem frameCounted_ing (sm v : Nat) (s : State) : (frameCounted sm v s).ing = s.ing := by
  unfold frameCounted
  split <;> simp

theorem frameCounted_frames (sm v : Nat) (s : State) :
    getF (frameCounted sm v s) (pgIng sm) Reg.ING_FRAMES = satAdd 32 (getF s (pgIng sm) Reg.ING_FRAMES) 1 := by
  have e : getF (if v = 3 then bump (pgIng sm) Reg.ING_REPEATS 1 s else s) (pgIng sm) Reg.ING_FRAMES = getF s (pgIng sm) Reg.ING_FRAMES := by
    split
    · exact getF_setF_apart (by decide) (by decide) _ _
    · rfl
  exact (getF_setF_same (by decide) _ _).trans ((Nat.mod_eq_of_lt (satAdd_lt ..)).trans (congrArg (satAdd 32 · 1) e))

/-- What counting a frame leaves alone: every word but those of FRAMES and REPEATS. -/
theorem regsBut_frameCounted (sm v : Nat) (s : State) :
    regsBut [pageBase (pgIng sm) + 0x88, pageBase (pgIng sm) + 0x98] s (frameCounted sm v s) := by
  have e {r : Row} (hr : r.off = 0x88 ∨ r.off = 0x98) : fieldAddr (pgIng sm) r 0 0 ∈ [pageBase (pgIng sm) + 0x88, pageBase (pgIng sm) + 0x98] := by
    rw [ing_fieldAddr]
    simpa using hr
  refine regsBut_bump 1 (e (Or.inl rfl)) ?_
  split
  · exact regsBut_bump 1 (e (Or.inr rfl)) (regsBut_refl _ s)
  · exact regsBut_refl _ s

theorem frameCounted_barCount {sm : Nat} (h : sm < 24) (v : Nat) (s : State) : barCount (frameCounted sm v s) = barCount s := by
  have e {r : Row} (hr : r.off < 4096) : getF (frameCounted sm v s) pgCyc r = getF s pgCyc r := by
    have hn : fieldAddr pgCyc r 0 0 ∉ [pageBase (pgIng sm) + 0x88, pageBase (pgIng sm) + 0x98] := by
      simp only [fieldAddr, pageBase, List.mem_cons, List.not_mem_nil, or_false]
      omega
    unfold getF getFij
    rw [regsBut_frameCounted sm v s _ hn]
  exact congrArg₂ (fun a b => a + 2 ^ 32 * b) (e (by decide)) (e (by decide))

theorem frameCounted_verdict (sm v : Nat) (s : State) :
    getF (frameCounted sm v s) (pgIng sm) Reg.ING_FRAME_VERDICT = getF s (pgIng sm) Reg.ING_FRAME_VERDICT := by
  have hn : fieldAddr (pgIng sm) Reg.ING_FRAME_VERDICT 0 0 ∉ [pageBase (pgIng sm) + 0x88, pageBase (pgIng sm) + 0x98] := by
    rw [ing_fieldAddr]
    simp [Reg.ING_FRAME_VERDICT]
  unfold getF getFij
  rw [regsBut_frameCounted sm v s _ hn]

theorem verdictShown_ing (sm v : Nat) (f : Frame) (s : State) : (verdictShown sm v f s).ing = s.ing := by
  unfold verdictShown
  split
  · exact setF_ing ..
  · rfl

theorem verdictShown_verdict {v : Nat} (h : v < 8) (sm : Nat) (f : Frame) (s : State) : getF (verdictShown sm v f s) (pgIng sm) Reg.ING_FRAME_VERDICT =
    if f.bar = barCount s then v else getF s (pgIng sm) Reg.ING_FRAME_VERDICT := by
  unfold verdictShown
  split
  · exact (getF_setF_same (by decide) v s).trans (Nat.mod_eq_of_lt h)
  · rfl

theorem verdictShown_frames (sm v : Nat) (f : Frame) (s : State) :
    getF (verdictShown sm v f s) (pgIng sm) Reg.ING_FRAMES = getF s (pgIng sm) Reg.ING_FRAMES := by
  unfold verdictShown
  split
  · exact getF_setF_apart (by decide) (by decide) v s
  · rfl

theorem verdictOf_lt (s : State) (sm : Nat) (f : Frame) (act : Nat) : verdictOf s sm f act < 8 := by
  unfold verdictOf
  split_ifs <;> decide

/-- What the end of a frame `f` leaves of its stream and of its page. -/
theorem finishFrame_shows {sm : Nat} {f : Frame} {s : State} (hs : sm < 24) (hl : s.ing.length = 24) (h : (strmOf s sm).frame = some f) :
    let v := verdictOf s sm f (actOf f s).1
    let t := finishFrame sm s
    (strmOf t sm).frame = some { f with verdict := v } ∧ (strmOf t sm).prevHash = some (f.hash ^^^ crc64Ones) ∧
      getF t (pgIng sm) Reg.ING_FRAMES = satAdd 32 (getF s (pgIng sm) Reg.ING_FRAMES) 1 ∧
      getF t (pgIng sm) Reg.ING_FRAME_VERDICT = (if f.bar = barCount s then v else getF s (pgIng sm) Reg.ING_FRAME_VERDICT) := by
  have hv := verdictOf_lt s sm f (actOf f s).1
  rw [finishFrame_eq h]
  generalize verdictOf s sm f (actOf f s).1 = v at hv ⊢
  have ha := storesOnly_actOf f s
  generalize (actOf f s).1 = act at *
  generalize (actOf f s).2 = u at *
  have hw := recordFinal_stores sm v act f u
  generalize recordFinal sm v act f u = w at *
  have hu : sm < u.ing.length := by rw [ha.1, hl]; exact hs
  have hwl : sm < w.ing.length := by rw [hw.1, modFrame, modStrm_length]; exact hu
  have ex : strmOf w sm = { strmOf s sm with frame := some { f with verdict := v } } := by
    rw [strmOf_congr hw.1, modFrame, strmOf_modStrm hu, strmOf_congr ha.1, h]
    rfl
  have er {r : Row} (hr : ownRow r = true) : getF (strmEnded sm v f w) (pgIng sm) r = getF s (pgIng sm) r :=
    calc getF (strmEnded sm v f w) (pgIng sm) r = getF w (pgIng sm) r := getF_congr (modStrm_regs ..) _ _
      _ = getF (modFrame sm (fun g => { g with verdict := v }) u) (pgIng sm) r := storesOnly_getF hw hs hr
      _ = getF u (pgIng sm) r := getF_congr (modFrame_regs ..) _ _
      _ = getF s (pgIng sm) r := storesOnly_getF ha hs hr
  have eb : barCount (strmEnded sm v f w) = barCount s :=
    calc barCount (strmEnded sm v f w) = barCount w := rfl
      _ = barCount (modFrame sm (fun g => { g with verdict := v }) u) := storesOnly_barCount hw
      _ = barCount u := rfl
      _ = barCount s := storesOnly_barCount ha
  have ei : strmOf (updHealth sm (verdictShown sm v f (frameCounted sm v (strmEnded sm v f w)))) sm = strmOf (strmEnded sm v f w) sm :=
    strmOf_congr ((updHealth_ing ..).trans ((verdictShown_ing ..).trans (frameCounted_ing ..))) sm
  refine ⟨?_, ?_, ?_, ?_⟩
  · rw [ei, strmEnded, strmOf_modStrm hwl]
    exact congrArg Strm.frame ex
  · rw [ei, strmEnded, strmOf_modStrm hwl]
  · rw [getF_updHealth hs (by decide) (by decide) (by decide), verdictShown_frames, frameCounted_frames, er (by decide)]
  · rw [getF_updHealth hs (by decide) (by decide) (by decide), verdictShown_verdict hv, frameCounted_barCount hs, eb, frameCounted_verdict, er (by decide)]

/-- Frame End makes the verdict final. -/
theorem frameEnd_final {port vc sm : Nat} {f : Frame} {s : State} (hs : sm < 24) (hl : s.ing.length = 24)
    (hc : camStreams s port vc (fun _ => true) = [sm]) (h : (strmOf s sm).frame = some f) (ha : arriving (strmOf s sm) = true)
    (hr : f.ready = []) (n : Nat) :
    let g := { f with fe := some (devTime (at_ n s)) }
    let v := verdictOf s sm g (actOf g s).1
    Does (.frameEnd port vc n) s fun t => samesBut camPieces s t ∧ (strmOf t sm).frame = some { g with verdict := v } ∧
      (strmOf t sm).prevHash = some (f.hash ^^^ crc64Ones) ∧ getF t (pgIng sm) Reg.ING_FRAMES = satAdd 32 (getF s (pgIng sm) Reg.ING_FRAMES) 1 ∧
      getF t (pgIng sm) Reg.ING_FRAME_VERDICT = (if f.bar = barCount s then v else getF s (pgIng sm) Reg.ING_FRAME_VERDICT) := by
  intro g v
  let u := modFrame sm (fun g => { g with fe := some (devTime (at_ n s)) }) (at_ n s)
  have hx : strmOf u sm = { strmOf s sm with frame := some g } := by
    rw [show u = modFrame .. from rfl, modFrame, strmOf_modStrm (by rw [at_ing, hl]; exact hs), strmOf_congr (at_ing ..), h]
    rfl
  have hu : u.ing.length = 24 := by rw [show u = modFrame .. from rfl, modFrame, modStrm_length, at_ing, hl]
  have ha' : (actOf g u).1 = (actOf g s).1 := by
    unfold actOf
    split <;> rfl
  have hv : verdictOf u sm g (actOf g u).1 = v := by
    unfold verdictOf strmF
    rw [ha', hx]
    rfl
  obtain ⟨hf, hp, hn, hb⟩ := finishFrame_shows hs hu (congrArg Strm.frame hx)
  rw [hv] at hf hb
  refine does_reach rfl ⟨_, exec_frameEnd hc h ha hr n, hf, hp, ?_, ?_⟩
  · rw [hn, getF_congr (modFrame_regs ..), getF_congr (at_regs ..)]
  · rw [hb, getF_congr (modFrame_regs ..), getF_congr (at_regs ..)]
    rfl

/-! ### Streams that are late (R239) -/

theorem exec_ingLate {sm : Nat} {s : State} (hb : barsRun s = true) (hk : strmKind s sm = 1) (hv : barVerdict s sm = 0) :
    exec (.ingLate sm) s = .next (updHealth sm (modStrm sm (fun x => { x with late := true }) s)) := by
  have e : exec (.ingLate sm) s = execIngLate sm s := rfl
  simp only [e, execIngLate, hb, hk, hv, decide_true, and_self, if_true]

/-- A stream in order that turns late is LATE. -/
theorem healthOf_late {sm : Nat} {s : State} (hs : sm < s.ing.length) (hk : strmKind s sm = 1) (h : healthOf s sm = 1) :
    healthOf (modStrm sm (fun x => { x with late := true }) s) sm = 2 := by
  have ek : strmKind (modStrm sm (fun x => { x with late := true }) s) sm = 1 := by
    unfold strmKind strmF at *
    rwa [strmOf_modStrm hs]
  obtain ⟨hlost, hfrozen, htime, hflat, -⟩ : (strmOf s sm).lost = false ∧ (strmOf s sm).frozen = false ∧ (strmOf s sm).timeBad = false ∧
      (strmOf s sm).flat = false ∧ (strmOf s sm).late = false := by simpa [healthOf, hk, ite_eq_iff] using h
  simp [healthOf, ek, strmOf_modStrm hs, hlost, hfrozen, htime, hflat]

/-- No Frame Start by FS_LATE is LATE. -/
theorem ingLate_late {sm : Nat} {s : State} (hs : sm < 24) (hl : s.ing.length = 24) (hb : barsRun s = true) (hk : strmKind s sm = 1)
    (hv : barVerdict s sm = 0) (hh : healthOf s sm = 1) (ho : getF s (pgIng sm) Reg.ING_STAT_HEALTH = 1) :
    Does (.ingLate sm) s fun t => samesBut (report ++ [.ing]) s t ∧ strmOf t sm = { strmOf s sm with late := true } ∧
      getF t (pgIng sm) Reg.ING_STAT_HEALTH = 2 ∧ codeIn t (pgIng sm) 0x43 ∧
      quietBut [pageBase (pgIng sm) + 0x80, pageBase (pgIng 0) + 0xC0] s t := by
  have hn : sm < s.ing.length := by rw [hl]; exact hs
  obtain ⟨h2, hc⟩ := updHealth_late hs (healthOf_late hn hk hh) ((getF_congr (modStrm_regs ..) _ _).trans ho)
  refine does_reach rfl ⟨_, exec_ingLate hb hk hv, ?_, h2, hc, ?_⟩
  · rw [strmOf_congr (updHealth_ing ..), strmOf_modStrm hn]
  · exact quietBut_updHealth (by simp) (by simp) (quietBut_same (modStrm_regs ..) (quietBut_refl _ s))

/-! ### Configuration words (R222) -/

theorem exec_ingConfigWrite {who : Agent} {sm off : Nat} (hw : controls who = true) (hs : sm < 24) (ho : off ≤ 0x74) (v : Word) (s : State) :
    exec (.ingConfigWrite who sm off v) s = .next (writeIngCfg sm off v.toNat s) :=
  congrArg Host.Outcome.next (asMaster_hub hw (by simp only [pageBase]; omega) (writeIngCfg sm off v.toNat) s)

/-- A word that no held table waits for reads back. -/
theorem writeIngCfg_free {sm off v : Nat} {s : State} (hs : sm < 24) (h1 : 0x40 ≤ off) (h2 : off ≤ 0x74) (h4 : off % 4 = 0)
    (h : strmBars off (regW s (pageBase (pgIng sm) + off)).toNat (definedBits (pgIng sm) off v) = false ∨ strmHeld s sm = false) :
    writeIngCfg sm off v s = setW (pageBase (pgIng sm) + off) (BitVec.ofNat 32 (definedBits (pgIng sm) off v)) s :=
  (if_pos ⟨hs, h1, h2, h4⟩).trans (if_neg fun k => by rcases h with h | h <;> simp [h] at k)

theorem writeIngCfg_held {sm off v : Nat} {s : State} (hs : sm < 24) (h1 : 0x40 ≤ off) (h2 : off ≤ 0x74) (h4 : off % 4 = 0)
    (h : strmBars off (regW s (pageBase (pgIng sm) + off)).toNat (definedBits (pgIng sm) off v) = true) (hh : strmHeld s sm = true) :
    writeIngCfg sm off v s = record (pgIng sm) 0x48 s :=
  (if_pos ⟨hs, h1, h2, h4⟩).trans (if_pos ⟨h, hh⟩)

theorem ingConfigWrite_free {who : Agent} {sm off : Nat} {v : Word} {s : State} (hw : controls who = true) (hs : sm < 24) (h1 : 0x40 ≤ off)
    (h2 : off ≤ 0x74) (h4 : off % 4 = 0)
    (h : strmBars off (regW s (pageBase (pgIng sm) + off)).toNat (definedBits (pgIng sm) off v.toNat) = false ∨ strmHeld s sm = false) :
    Does (.ingConfigWrite who sm off v) s fun t => samesBut [.regs] s t ∧
      regW t (pageBase (pgIng sm) + off) = BitVec.ofNat 32 (definedBits (pgIng sm) off v.toNat) ∧ regsBut [pageBase (pgIng sm) + off] s t :=
  ⟨_, (exec_ingConfigWrite hw hs h2 v s).trans (by rw [writeIngCfg_free hs h1 h2 h4 h]), samesBut_keeps (setW_keeps _ _ (by decide) (Keeps.refl _ s)),
    regW_setW_same .., regsBut_setW _ List.mem_cons_self (regsBut_refl _ s)⟩

theorem ingConfigWrite_held {who : Agent} {sm off : Nat} {v : Word} {s : State} (hw : controls who = true) (hs : sm < 24) (h1 : 0x40 ≤ off)
    (h2 : off ≤ 0x74) (h4 : off % 4 = 0)
    (h : strmBars off (regW s (pageBase (pgIng sm) + off)).toNat (definedBits (pgIng sm) off v.toNat) = true) (hh : strmHeld s sm = true) :
    Does (.ingConfigWrite who sm off v) s fun t => samesBut report s t ∧ codeIn t (pgIng sm) 0x48 ∧ quietBut [] s t :=
  ⟨_, (exec_ingConfigWrite hw hs h2 v s).trans (by rw [writeIngCfg_held hs h1 h2 h4 h hh]), samesBut_keeps (record_keeps _ _ (by decide) (Keeps.refl _ s)),
    ing_codeIn_record hs (by decide) s, quietBut_record _ _ (quietBut_refl _ s)⟩

/-- Settles O38: a theorem for each clause, in the statement's order. -/
theorem cameraFrames : Obligations.CameraFrames := by
  intro who port vc fn n sm dt hdrErrs off l crcOk fifo v f s hs hl hc
  refine ⟨fun hb h => frameStart_begins hs hl hc hb h fn n, fun hb h hf ha => frameStart_dropped hs hl hc hb h hf ha fn n,
    fun hb ha => frameStart_stopped hs hl hc hb ha fn n, fun h hm => csiLongPacket_unbound h hc hm l hdrErrs crcOk fifo, ?_, ?_,
    fun h ha hr => frameEnd_final hs hl hc h ha hr n, fun hb hk hv hh ho => ingLate_late hs hl hb hk hv hh ho, ?_⟩
  · intro hd hm hf ha
    refine ⟨fun hb => csiLongPacket_bad hs hl hd hm hf ha hb l fifo, fun he hcrc hfifo hlen hp hw => ?_⟩
    subst hcrc hfifo
    exact csiLongPacket_good hs hl hd hm hf ha he hlen hp hw
  · exact fun y rest h hr hm ht hy => lineComplete_plain hs hl h hr hm ht hy n
  · exact fun hw h1 h2 h4 => ⟨fun h => ingConfigWrite_free hw hs h1 h2 h4 h, fun h hh => ingConfigWrite_held hw hs h1 h2 h4 h hh⟩

end Sys2Proof.Machine
end

section
/-! PROOFS. Chapter 03: the writes of the pending sleep mask and of the trackers' INIT requests (R124, R145, R448). -/

namespace Sys2Proof.Machine

open Sys2Proof

/-! ### The pages of the compute dies -/

theorem pageOfAddr_cd {d n off : Nat} (hd : d < 4) (hn : n < 0x1000) (ho : off < 0x1000) :
    pageOfAddr (pageBase (.cd d n) + off) = some (.cd d n, off) := by
  have b : pageBase (.cd d n) + off = 0x50000000 + d * 0x1000000 + n * 0x1000 + off := rfl
  have e1 : (pageBase (.cd d n) + off - 0x50000000) / 0x1000000 = d := by omega
  have e2 : (pageBase (.cd d n) + off) % 0x1000000 / 0x1000 = n := by omega
  have e3 : (pageBase (.cd d n) + off) % 0x1000 = off := by omega
  rw [pageOfAddr, if_neg (by omega), if_neg (by omega), if_pos (by omega), e1, e2, e3]

/-- A write by a control master of a word of a page of a die in service reaches the block. -/
theorem asMaster_cd {who : Agent} (hc : controls who = true) {d n off : Nat} {s : State} (hd : d < 4) (hs : inService s d = true)
    (hn : n < 0x1000) (ho : off < 0x1000) (f : State → State) : asMaster (.cd d n) off who f s = f s := by
  have present : absentPage s (pageBase (.cd d n) + off) = false := by
    rw [absentPage, pageOfAddr_cd hd hn ho]
    exact congrArg not hs
  exact asMaster_control hc present f

/-- No record of a code writes a field of a block of a compute die. -/
theorem quiet_cd (d n : Nat) {r : Row} (h : ownRow r = true) : quiet (fieldAddr (.cd d n) r 0 0) := by
  simp only [ownRow, Bool.and_eq_true, decide_eq_true_eq] at h
  simp only [quiet, fieldAddr, pageBase]
  omega

/-- A field of a slot's page is in another word than any field of the die's pages before PE_0. -/
theorem fieldAddr_pe_ne {d e n : Nat} {r r' : Row} (hn : n < 0x20) (h : ownRow r = true) (h' : ownRow r' = true) :
    fieldAddr (.cd d n) r 0 0 ≠ fieldAddr (pgPe d e) r' 0 0 := by
  simp only [ownRow, Bool.and_eq_true, decide_eq_true_eq] at h h'
  simp only [fieldAddr, pageBase]
  omega

/-- A field of a hub page is in another word than any field of a compute die. -/
theorem fieldAddr_hub_ne {m d n : Nat} {r r' : Row} (hm : m < 0x10000) (h : ownRow r = true) :
    fieldAddr (.hub m) r 0 0 ≠ fieldAddr (.cd d n) r' 0 0 := by
  simp only [ownRow, Bool.and_eq_true, decide_eq_true_eq] at h
  simp only [fieldAddr, pageBase]
  omega

/-! ### The pending sleep mask -/

theorem exec_sleepPendWrite {who : Agent} {d : Nat} {s : State} (hd : d < 4) (hc : controls who = true) (hs : inService s d = true) (v : Word) :
    exec (.sleepPendWrite who d v) s = .next (writeSleepPend d v.toNat s) :=
  congrArg Host.Outcome.next ((if_pos hd).trans (asMaster_cd hc hd hs (by decide) (by decide) (writeSleepPend d v.toNat)))

theorem writeSleepPend_free {d : Nat} {s : State} (h : locked s (pgSch d) = false) (v : Nat) :
    writeSleepPend d v s = setSleepPend d (v % 65536) (advanceCfgGen s) := if_neg (by simp [h])

theorem writeSleepPend_refused {d v : Nat} {s : State} (h : locked s (pgSch d) = true) (hv : v % 65536 ≠ getF s (pgSch d) Reg.SCH_SLEEP_PEND) :
    writeSleepPend d v s = record (pgSch d) 0x05 s := (if_pos h).trans (if_neg hv)

theorem writeSleepPend_same {d v : Nat} {s : State} (h : locked s (pgSch d) = true) (hv : v % 65536 = getF s (pgSch d) Reg.SCH_SLEEP_PEND) :
    writeSleepPend d v s = s := (if_pos h).trans (if_pos hv)

/-- A logical engine whose bit clears starts its return sequence where it is gated (R124). -/
def wakeEngine (d : Nat) (s : State) (k : Nat) : State :=
  match slotOf s d k with
  | some e =>
    if getF s (pgPe d e) Reg.PE_ENG_STAT_STATE = 0 ∧ inService s d then
      setF (pgSch d) Reg.SCH_SLEEP_ACT (putBits (getF s (pgSch d) Reg.SCH_SLEEP_ACT) k 1 0) (setF (pgPe d e) Reg.PE_ENG_STAT_STATE 1 s)
    else s
  | none => s

theorem setSleepPend_eq (d v : Nat) (s : State) :
    setSleepPend d v s = ((List.range 16).filter fun k => (getF s (pgSch d) Reg.SCH_SLEEP_PEND).testBit k && !(v.testBit k)).foldl (wakeEngine d)
      (setF (pgSch d) Reg.SCH_SLEEP_PEND v s) := (rfl)

/-- Waking an engine writes the slot's state and SLEEP_ACT alone. -/
theorem regW_wakeEngine {a d : Nat} (hs : a ≠ fieldAddr (pgSch d) Reg.SCH_SLEEP_ACT 0 0)
    (hp : ∀ e, a ≠ fieldAddr (pgPe d e) Reg.PE_ENG_STAT_STATE 0 0) (s : State) (k : Nat) : regW (wakeEngine d s k) a = regW s a := by
  unfold wakeEngine
  split
  next e _ =>
    split
    · exact (regW_setFij_ne hs _ _).trans (regW_setFij_ne (hp e) _ _)
    · rfl
  · rfl

/-- Beside the mask itself a new mask changes the states of slots and SLEEP_ACT alone. -/
theorem regW_setSleepPend {a d : Nat} (hs : a ≠ fieldAddr (pgSch d) Reg.SCH_SLEEP_ACT 0 0)
    (hp : ∀ e, a ≠ fieldAddr (pgPe d e) Reg.PE_ENG_STAT_STATE 0 0) (v : Nat) (s : State) :
    regW (setSleepPend d v s) a = regW (setF (pgSch d) Reg.SCH_SLEEP_PEND v s) a := by
  rw [setSleepPend_eq]
  exact List.foldlRecOn (motive := fun u => regW u a = regW (setF (pgSch d) Reg.SCH_SLEEP_PEND v s) a) _ _ rfl
    fun u hu k _ => (regW_wakeEngine hs hp u k).trans hu

/-- An unlocked write stands, and the configuration that admission read is no longer the current one. -/
theorem sleepPend_written (d v : Nat) (s : State) :
    getF (setSleepPend d v (advanceCfgGen s)) (pgSch d) Reg.SCH_SLEEP_PEND = v % 2 ^ 16 ∧
      getF (setSleepPend d v (advanceCfgGen s)) pgAdm Reg.ADM_CFG_GEN = (getF s pgAdm Reg.ADM_CFG_GEN + 1) % 2 ^ 32 := by
  have own (r : Row) (hr : ownRow r = true) : ∀ e, fieldAddr (pgSch d) r 0 0 ≠ fieldAddr (pgPe d e) Reg.PE_ENG_STAT_STATE 0 0 :=
    fun e => fieldAddr_pe_ne (by decide) hr (by decide)
  have hub {n : Nat} {r : Row} : fieldAddr pgAdm Reg.ADM_CFG_GEN 0 0 ≠ fieldAddr (.cd d n) r 0 0 := fieldAddr_hub_ne (by decide) (by decide)
  constructor
  · have e : getF (setSleepPend d v (advanceCfgGen s)) (pgSch d) Reg.SCH_SLEEP_PEND =
        getF (setF (pgSch d) Reg.SCH_SLEEP_PEND v (advanceCfgGen s)) (pgSch d) Reg.SCH_SLEEP_PEND := by
      simp only [getF, getFij]
      rw [regW_setSleepPend (by simp [fieldAddr, Reg.SCH_SLEEP_PEND, Reg.SCH_SLEEP_ACT]) (own _ (by decide))]
    exact e.trans (getF_setF_same (by decide) v _)
  · have e : getF (setSleepPend d v (advanceCfgGen s)) pgAdm Reg.ADM_CFG_GEN = getF (advanceCfgGen s) pgAdm Reg.ADM_CFG_GEN := by
      simp only [getF, getFij]
      rw [regW_setSleepPend hub (fun e => hub), setF, regW_setFij_ne hub]
    rw [e, advanceCfgGen, getF_setF_same (by decide)]
    exact Nat.mod_mod _ _

/-! ### The trackers' requests -/

theorem exec_trackerInitRequest {who : Agent} {d : Nat} {s : State} (hd : d < 4) (hc : controls who = true) (hs : inService s d = true) (v : Word) :
    exec (.trackerInitRequest who d v) s = .next (reqTrackerInit d v.toNat s) :=
  congrArg Host.Outcome.next ((if_pos hd).trans (asMaster_cd hc hd hs (by decide) (by decide) (reqTrackerInit d v.toNat)))

/-- The bits written 1 join those that wait (R145). -/
theorem reqTrackerInit_gathers (d m : Nat) (s : State) :
    getF (reqTrackerInit d m s) (pgQnt d) Reg.QNT_INIT_REQ = getF s (pgQnt d) Reg.QNT_INIT_REQ ||| bitsOf m 1 15 := by
  have old : getF s (pgQnt d) Reg.QNT_INIT_REQ < 2 ^ 15 := getFij_lt s (pgQnt d) Reg.QNT_INIT_REQ 0 0
  have new : bitsOf m 1 15 < 2 ^ 15 := Nat.mod_lt _ (by decide)
  rw [reqTrackerInit, getF_setF_same (by decide)]
  exact Nat.mod_eq_of_lt (Nat.or_lt_two_pow old new)

/-- Settles O30: a control master's write reaches the block of a die in service, where the lock decides. -/
theorem dieRequests : Obligations.DieRequests := by
  unfold Obligations.DieRequests
  intro who d v s hd hc hs
  have he := exec_sleepPendWrite hd hc hs v
  refine ⟨fun hl => acts (does he ?_), fun hl hv => acts (does he ?_), fun hl hv => acts (does he ?_), ?_⟩
  · rw [writeSleepPend_free hl]
    obtain ⟨hp, hg⟩ := sleepPend_written d (v.toNat % 65536) s
    exact ⟨hp.trans (Nat.mod_mod _ _), hg⟩
  · rw [writeSleepPend_refused hl hv]
    refine ⟨quietBut_record _ _ (quietBut_refl _ s), codeIn_record ?_ ?_ (by decide) s⟩ <;> simp only [pageBase] <;> omega
  · exact writeSleepPend_same hl hv
  · exact acts (does (exec_trackerInitRequest hd hc hs v) ⟨reqTrackerInit_gathers d _ s, regsBut_setF _ List.mem_cons_self (regsBut_refl _ s)⟩)

end Sys2Proof.Machine
end

section
/-! PROOFS. Chapter 03: dispatch of descriptors to the engines (R105, R106, R122). -/

namespace Sys2Proof.Machine

open Sys2Proof

/-- A counter reads as its old value and what was added, up to its largest value. -/
theorem getF_bump_same {p : Page} {r : Row} (h : r.lo + r.w ≤ 32) (n : Nat) (s : State) :
    getF (bump p r n s) p r = satAdd r.w (getF s p r) n := by
  have e : getF (bump p r n s) p r = satAdd r.w (getF s p r) n % 2 ^ r.w := getF_setF_same h _ s
  rw [e, Nat.mod_eq_of_lt (satAdd_lt r.w _ n)]

theorem engOf_congr {s t : State} (h : t.dies = s.dies) (d e : Nat) : engOf t d e = engOf s d e := by
  unfold engOf dieOf
  rw [h]

/-- A die outside 0 to 3 has no context that holds a stroke. -/
theorem die_of_ctx {s : State} {d n : Nat} {c : Ctx} (h : (dieOf s d).ctxs.getD n none = some c) : d < s.dies.length := by
  by_contra hd
  have e : dieOf s d = Die.fresh := List.getD_eq_default _ _ (Nat.le_of_not_lt hd)
  rw [e, show Die.fresh.ctxs = List.replicate 16 none from rfl, List.getD_eq_getElem?_getD, List.getElem?_getD_replicate_default_eq] at h
  cases h

/-- The tokens that a descriptor awaits are set in its context (R106). -/
def tokensSet (c : Ctx) (raw : List Byte) : Prop :=
  (dWait0 raw = 0 ∨ c.tokens.contains (dWait0 raw) = true) ∧ (dWait1 raw = 0 ∨ c.tokens.contains (dWait1 raw) = true)

section Head

variable {d n i : Nat} {c : Ctx} {raw : List Byte} {l : List (Nat × List Byte)} {s : State}

theorem exec_descriptorDispatch_waits (h : (dieOf s d).ctxs.getD n none = some c) (hl : c.list = (i, raw) :: l) (ht : ¬ tokensSet c raw) :
    exec (.descriptorDispatch d n) s = .next (bump (pgSch d) Reg.SCH_STALL_TOK 1 s) := by
  have e : exec (.descriptorDispatch d n) s = execDescriptorDispatch d n s := rfl
  rw [e, execDescriptorDispatch]
  simp only [h, hl]
  exact congrArg Host.Outcome.next (if_neg ht)

theorem exec_descriptorDispatch_goes (h : (dieOf s d).ctxs.getD n none = some c) (hl : c.list = (i, raw) :: l) (ht : tokensSet c raw) :
    exec (.descriptorDispatch d n) s = .next (dispatchHead d c i raw s) := by
  have e : exec (.descriptorDispatch d n) s = execDescriptorDispatch d n s := rfl
  rw [e, execDescriptorDispatch]
  simp only [h, hl]
  exact congrArg Host.Outcome.next (if_pos ht)

end Head

/-- The work that a context's descriptor is when it leaves the context. -/
def headWork (c : Ctx) (i : Nat) (raw : List Byte) : Work := ⟨c.stroke, c.bar, c.part, c.epoch, c.pair, 0, i, raw, false, false, [], 0, 0, false⟩

/-- A descriptor whose engine takes work, is of this epoch or the one before (R122) and finds its tracker set usable enters the engine's queue. -/
theorem dispatchHead_enqueues {d i k e : Nat} {c : Ctx} {raw : List Byte} {s : State} (hk : targetOf c raw = some k)
    (hl : (dieOf s d).lostEng.contains k = false) (he : slotOf s d k = some e)
    (hq : (engOf s d e).queue.length < 2) (hr : (engOf s d e).rejoin = false) (hu : engineUp s d e = true)
    (hp : c.epoch = getF s (pgPe d e) Reg.PE_ENG_EPOCH % 64 ∨ c.epoch = (getF s (pgPe d e) Reg.PE_ENG_EPOCH + 63) % 64)
    (ht : dQtrk raw = 0 ∨ setUsable s d (dQtrk raw) (outChans raw) = true) :
    dispatchHead d c i raw s = showDispatch d (enqueue d e (headWork c i raw) (popList d c.stroke c.bar s)) := by
  have free : ¬ ((engOf s d e).queue.length ≥ 2 ∨ (engOf s d e).rejoin = true ∨ engineUp s d e = false) := by
    simp [hr, hu, hq]
  have fresh : ¬ (c.epoch ≠ getF s (pgPe d e) Reg.PE_ENG_EPOCH % 64 ∧ c.epoch ≠ (getF s (pgPe d e) Reg.PE_ENG_EPOCH + 63) % 64) := by
    tauto
  have usable : ¬ (dQtrk raw ≠ 0 ∧ setUsable s d (dQtrk raw) (outChans raw) = false) := by
    rcases ht with h | h <;> simp [h]
  simp only [dispatchHead, hk, hl, he, Bool.false_eq_true, if_false]
  rw [if_neg free, if_neg fresh, if_neg usable]
  rfl

/-- A tracker set that is loaded leaves the work of every engine. -/
theorem loadSet_sameQ (d e n m j part : Nat) (init : List Word) (s : State) : SameQ d e s (loadSet n m j part init s) := by
  unfold loadSet
  split
  · exact SameQ.refl d e s
  · have noted : SameQ d e s (if init.all goodScale then s else recordPart (pgQnt n) 0x38 part s) := by
      split
      · exact SameQ.refl d e s
      · exact sameQ_dies (recordPart_dies _ _ _ s) (SameQ.refl d e s)
    exact sameQ_modEng _ _ _ (fun _ => rfl) (noted.trans ⟨rfl, rfl, rfl⟩)

/-- A descriptor joins the end of its engine's queue, with what it reads at dispatch. -/
theorem enqueue_queue {d e : Nat} {s : State} (hd : d < s.dies.length) (he : e < (dieOf s d).engs.length) (w : Work) :
    ∃ x : Work, (engOf (enqueue d e w s) d e).queue = (engOf s d e).queue ++ [x] ∧ x.stroke = w.stroke ∧ x.bar = w.bar ∧ x.part = w.part ∧
      x.didx = w.didx ∧ x.raw = w.raw := by
  unfold enqueue
  extract_lets q s1 isOpt g quiet skip x lrn s2 s3
  have a1 : SameQ d e s s1 := by
    unfold s1
    split
    · exact loadSet_sameQ _ _ _ _ _ _ _ _
    · exact SameQ.refl d e s
  have a2 : SameQ d e s s2 := by
    unfold s2
    split
    · exact a1.trans ⟨rfl, rfl, rfl⟩
    · exact a1
  have a3 : SameQ d e s s3 := by
    unfold s3
    split
    · exact sameQ_dies (bump_dies _ _ _ _) a2
    · exact a2
  refine ⟨x, ?_, rfl, rfl, rfl, rfl, rfl⟩
  rw [(showState_sameQ d e d e _).queue, engOf_modEng (by rw [a3.dies]; exact hd) (by rw [a3.slots]; exact he), a3.queue]

/-- Settles O27: the tokens decide between the wait and the engine, and the engine's queue takes the descriptor last. -/
theorem dispatch : Obligations.Dispatch := by
  unfold Obligations.Dispatch
  intro d n k e i c raw l s h hl
  refine ⟨fun ht => acts (does (exec_descriptorDispatch_waits h hl ht) ⟨getF_bump_same (by decide) 1 s, ?_, bump_dies _ _ _ s, bump_seq _ _ _ s⟩),
    fun ht hk hlost hslot he hq hr hu hp hset => acts (does (exec_descriptorDispatch_goes h hl ht) ?_)⟩
  · exact regsBut_bump 1 List.mem_cons_self (regsBut_refl _ s)
  · have pop : SameQ d e s (popList d c.stroke c.bar s) := sameQ_modDie _ _ (fun _ => rfl) (SameQ.refl d e s)
    obtain ⟨w, hw, same⟩ := enqueue_queue (s := popList d c.stroke c.bar s) (by rw [pop.dies]; exact die_of_ctx h) (by rw [pop.slots]; exact he)
      (headWork c i raw)
    rw [dispatchHead_enqueues hk hlost hslot hq hr hu hp hset]
    refine ⟨w, ?_, same⟩
    rw [engOf_congr (showDispatch_keeps d (K := 64) (by decide) (Keeps.refl _ _) |>.frame .dies (by decide)), hw, pop.queue]

end Sys2Proof.Machine
end

section
/-! PROOFS. Chapter 03: descriptors that complete, wait or fail, and the spectral unit (R107 to R109, R183, R189, R193). -/

namespace Sys2Proof.Machine

open Sys2Proof

/-! ### The strokes of descriptors that fail -/

/-- A run that is stroke `i`'s of bar `b` has failed. -/
def HasFailed (i b : Nat) (y : StrokeRun) : Prop := y.idx = i → y.bar = b → y.failed = true

theorem failRun_hasFailed (i b : Nat) (s : State) : AllRuns (HasFailed i b) (failRun i b s) := by
  intro y hy hi hb
  obtain ⟨x, _, rfl⟩ := List.mem_map.1 hy
  by_cases h : x.idx = i ∧ x.bar = b
  · rw [if_pos h]
  · rw [if_neg h] at hi hb
    exact absurd ⟨hi, hb⟩ h

/-- An engine that has finished a stroke changes nothing of its run but the target engines. -/
theorem allRuns_settle {Q : StrokeRun → Prop} (hq : ∀ x l, Q x → Q { x with targets := l }) (d k i b : Nat) {s : State} (h : AllRuns Q s) :
    AllRuns Q (settle d k i b s) := by
  have left : AllRuns Q (modRun i b (fun x => { x with targets := x.targets.filter (fun t => t ≠ (d, k)) }) s) := by
    intro y hy
    obtain ⟨x, hx, rfl⟩ := List.mem_map.1 hy
    split
    · exact hq x _ (h x hx)
    · exact h x hx
  unfold settle
  split
  · exact h
  · dsimp only
    split
    · split
      · have charged {e p : Nat} := allRuns_keeps (chargeEngine_keeps d e p (by decide) (Keeps.refl 32 _)) left
        split
        · exact allRuns_keeps (enterBrush_keeps _ _ _ (by decide) (Keeps.refl 32 _)) charged
        · exact allRuns_keeps (showState_keeps _ _ (by decide) (Keeps.refl 32 _)) charged
      · exact left
    · exact h

/-- The stroke of a descriptor that fails has failed (R108). -/
theorem failDesc_hasFailed (d k : Nat) (x : Work) (s : State) : AllRuns (HasFailed x.stroke x.bar) (failDesc d k x s) :=
  allRuns_keeps (showDispatch_keeps _ (by decide) (Keeps.refl 32 _))
    (allRuns_settle (fun _ _ h => h) d k _ _ (failRun_hasFailed x.stroke x.bar _))

/-! ### The running descriptor leaves its engine -/

/-- A descriptor that fails on its engine leaves it, and its stroke has failed; a code other than 0x0A brings no partition fault. -/
theorem failRunning_shows {w : Who} {code : Nat} {s : State} (hd : w.d < s.dies.length) (he : w.e < (dieOf s w.d).engs.length) (hc : code ≠ 0x0A)
    (k : Nat) (x : Work) (a : Nat) :
    (engOf (failRunning w k x code a s) w.d w.e).queue = (engOf s w.d w.e).queue.drop 1 ∧
      AllRuns (HasFailed x.stroke x.bar) (failRunning w k x code a s) := by
  refine ⟨?_, failDesc_hasFailed _ _ _ _⟩
  unfold failRunning
  extract_lets s1 s2 s3 s4
  have same {t u : State} (h : u.dies = t.dies) : SameQ w.d w.e t u := sameQ_dies h (SameQ.refl _ _ t)
  have a2 : SameQ w.d w.e s1 s2 := by
    unfold s2
    split
    · exact same (setF_dies _ _ _ _)
    · exact SameQ.refl _ _ _
  have a3 : SameQ w.d w.e s2 s3 := by
    unfold s3
    split
    · exact same (bump_dies _ _ _ _)
    · split
      · exact same (bump_dies _ _ _ _)
      · exact SameQ.refl _ _ _
  have a4 : SameQ w.d w.e s3 s4 := by
    unfold s4
    rw [if_neg hc]
    exact same (recordAt_dies _ _ _ _ _)
  exact ((a2.trans (a3.trans a4)).trans (failDesc_sameQ _ _ _ _ _ _)).queue.trans (popQueue_queue hd he)

section Running

variable {d k e : Nat} {x : Work} {s : State}

/-- What waits for its lines, or for the spectral unit, stays. -/
theorem tryComplete_waits (h : running s d k = some (e, x)) (hw : x.waiting = true ∨ (dKind x.raw = 4 ∧ x.spectral = false)) (clocks : Nat) :
    tryComplete d k clocks s = s := by
  simp only [tryComplete, h]
  exact if_pos hw

theorem tryComplete_ready (h : running s d k = some (e, x)) (hw : x.waiting = false) (hs : dKind x.raw = 4 → x.spectral = true)
    (hr : descRefused s ⟨d, e, x.part⟩ x = none) (clocks : Nat) :
    tryComplete d k clocks s = if (dPost x.raw || x.pair) = true ∧ ((dieOf s d).resq.getD k []).length ≥ 8 then bump pgCol Reg.COL_Q_STALL 1 s
      else completeDesc ⟨d, e, x.part⟩ k x clocks s := by
  have ready : ¬ (x.waiting = true ∨ (dKind x.raw = 4 ∧ x.spectral = false)) := by
    rintro (a | ⟨a, b⟩)
    · simp [hw] at a
    · simp [hs a] at b
  simp only [tryComplete, h]
  rw [if_neg ready]
  simp only [hr]

theorem exec_descriptorComplete (d k clocks : Nat) (s : State) : exec (.descriptorComplete d k clocks) s = .next (tryComplete d k clocks s) := (rfl)

/-- An uncorrectable read, or the refusal that the state shows, fails the running descriptor. -/
theorem exec_descriptorFail (h : running s d k = some (e, x)) {code : Nat}
    (hc : code = 0x15 ∨ code = 0x07 ∨ ∃ a, code ≠ 0x0A ∧ descRefused s ⟨d, e, x.part⟩ x = some (code, a)) :
    code ≠ 0x0A ∧ ∃ u a, u.dies = s.dies ∧ exec (.descriptorFail d k code) s = .next (failRunning ⟨d, e, x.part⟩ k x code a u) := by
  have run : exec (.descriptorFail d k code) s = execDescriptorFail d k code s := rfl
  simp only [run, execDescriptorFail, h]
  by_cases h15 : code = 0x15
  · subst h15
    exact ⟨by decide, _, 0, bump_dies _ _ _ s, congrArg Host.Outcome.next (if_pos rfl)⟩
  · by_cases h07 : code = 0x07
    · subst h07
      exact ⟨by decide, _, 0, bump_dies _ _ _ s, congrArg Host.Outcome.next rfl⟩
    · obtain ⟨a, ha, hr⟩ := (hc.resolve_left h15).resolve_left h07
      refine ⟨ha, s, a, rfl, ?_⟩
      rw [if_neg h15, if_neg h07]
      simp only [hr, if_true]

/-! ### Lines and the spectral unit -/

/-- Change the descriptor that slot `e` of CD_d is executing. -/
def modFirst (d e : Nat) (f : Work → Work) (s : State) : State := modEng d e (fun g => { g with queue := g.queue.modify 0 f }) s

theorem modFirst_regs (d e : Nat) (f : Work → Work) (s : State) : (modFirst d e f s).regs = s.regs := modEng_regs d e _ s

theorem modFirst_queue (hd : d < s.dies.length) (he : e < (dieOf s d).engs.length) (f : Work → Work) :
    (engOf (modFirst d e f s) d e).queue = (engOf s d e).queue.modify 0 f := by
  rw [modFirst, engOf_modEng hd he]

theorem exec_lineWaitEnd (h : running s d k = some (e, x)) (hw : x.waiting = true) (hm : mustWait s x.raw = false) (clocks : Nat) :
    exec (.lineWaitEnd d k clocks) s = .next (bump (pgPe d e) Reg.PE_LINE_WAIT clocks (modFirst d e (fun y => { y with waiting := false }) s)) := by
  have run : exec (.lineWaitEnd d k clocks) s = execLineWaitEnd d k clocks s := rfl
  simp only [run, execLineWaitEnd, h]
  exact congrArg Host.Outcome.next (if_pos ⟨hw, hm⟩)

theorem exec_spectralHandoff (h : running s d k = some (e, x)) (h4 : dKind x.raw = 4) (hs : x.spectral = false)
    (hb : getF s (pgSpec d) Reg.SPEC_STAT_BUSY = 0) :
    exec (.spectralHandoff d k) s = .next (setF (pgSpec d) Reg.SPEC_STAT_BUSY 1 (setF (pgSpec d) Reg.SPEC_STAT_ENGINE k
      (modFirst d e (fun y => { y with spectral := true }) s))) := by
  have run : exec (.spectralHandoff d k) s = execSpectralHandoff d k s := rfl
  simp only [run, execSpectralHandoff, h]
  exact congrArg Host.Outcome.next (if_pos ⟨h4, hs, by simp [flag, hb]⟩)

/-- The spectral unit abandons its descriptor, and records why (R193). -/
def eccAbandoned (d : Nat) (x : Work) (s : State) : State := recordPart (pgSpec d) 0x19 x.part (abandonSpectral d s)

theorem exec_specEcc (h : running s d k = some (e, x)) (hs : x.spectral = true) (hb : getF s (pgSpec d) Reg.SPEC_STAT_BUSY = 1)
    (hk : getF s (pgSpec d) Reg.SPEC_STAT_ENGINE = k) :
    exec (.specEcc d) s = .next (failDesc d k x (popQueue d e (eccAbandoned d x s))) := by
  have run : exec (.specEcc d) s = execSpecEcc d s := rfl
  have busy : flag s (pgSpec d) Reg.SPEC_STAT_BUSY = true := by simp [flag, hb]
  simp only [run, execSpecEcc, busy, hk, h, hs, if_true]
  rfl

theorem eccAbandoned_dies (d : Nat) (x : Work) (s : State) : (eccAbandoned d x s).dies = s.dies :=
  (recordPart_dies _ _ _ _).trans ((abandonSpectral_keeps d (K := 64) (by decide) (Keeps.refl _ s)).frame .dies (by decide))

end Running

/-- Settles O28: what keeps a running descriptor and what ends it, clause by clause. -/
theorem descriptors : Obligations.Descriptors := by
  unfold Obligations.Descriptors
  intro d k e clocks x s h hd he
  have word {r : Row} (hr : r.off = 0x40) : fieldAddr (pgSpec d) r 0 0 ∈ [fieldAddr (pgSpec d) Reg.SPEC_STAT_BUSY 0 0] := by
    simp [fieldAddr, hr, Reg.SPEC_STAT_BUSY]
  refine ⟨fun hw hs hr hp => acts (does (exec_descriptorComplete d k clocks s) ?_),
    fun hw => acts (does (exec_descriptorComplete d k clocks s) (tryComplete_waits h hw clocks)),
    fun hw hs hr hp h8 => acts (does (exec_descriptorComplete d k clocks s) ?_), fun code hc => ?_,
    fun hw hm => acts (does (exec_lineWaitEnd h hw hm clocks) ⟨?_, ?_, ?_⟩),
    fun h4 hs hb => acts (does (exec_spectralHandoff h h4 hs hb) ⟨?_, ?_, ?_, ?_⟩),
    fun hs hb hk => acts (does (exec_specEcc h hs hb hk) ⟨?_, failDesc_hasFailed _ _ _ _⟩)⟩
  · rw [tryComplete_ready h hw hs hr, if_neg fun full => absurd (hp full.1) (Nat.not_lt.2 full.2)]
    exact completeDesc_queue (w := ⟨d, e, x.part⟩) hd he k x clocks
  · rw [tryComplete_ready h hw hs hr, if_pos ⟨hp, h8⟩]
    exact ⟨getF_bump_same (by decide) 1 s, bump_dies _ _ _ s, regsBut_bump 1 List.mem_cons_self (regsBut_refl _ s)⟩
  · obtain ⟨hn, u, a, hu, run⟩ := exec_descriptorFail h hc
    obtain ⟨hq, hf⟩ := failRunning_shows (w := ⟨d, e, x.part⟩) (s := u) (by rwa [hu]) (by rwa [dieOf, hu]) hn k x a
    exact acts (does run ⟨by rw [hq, engOf_congr hu], hf⟩)
  · rw [getF_bump_same (by decide), getF_congr (modFirst_regs _ _ _ _)]
    rfl
  · exact regsBut_bump clocks List.mem_cons_self (regsBut_same (modFirst_regs _ _ _ _) (regsBut_refl _ s))
  · rw [engOf_congr (bump_dies _ _ _ _), modFirst_queue hd he]
  · exact getF_setF_same (by decide) 1 _
  · rw [getF_setF_apart (by decide) (by decide)]
    exact getF_setF_same (by decide) k _
  · exact regsBut_setF 1 (word rfl) (regsBut_setF k (word rfl) (regsBut_same (modFirst_regs _ _ _ _) (regsBut_refl _ s)))
  · rw [engOf_congr ((setF_dies _ _ _ _).trans (setF_dies _ _ _ _)), modFirst_queue hd he]
  · have hu := eccAbandoned_dies d x s
    rw [(failDesc_sameQ d e d k x _).queue, popQueue_queue (by rwa [hu]) (by rwa [dieOf, hu]), engOf_congr hu]

end Sys2Proof.Machine
end

section
/-! PROOFS. Chapter 03: engine faults, spares, the return sequence and the self-tests (R117 to R123). -/

namespace Sys2Proof.Machine

open Sys2Proof

/-! ### Engines without work -/

theorem engOf_modDie (n : Nat) (f : Die → Die) (d e : Nat) (s : State) (hf : ∀ x, (f x).engs = x.engs) :
    engOf (modDie n f s) d e = engOf s d e := by
  unfold engOf
  rw [dieOf_modDie_engs f hf]

/-- What is no slot of a die has no work. -/
theorem engOf_outside {d e : Nat} {s : State} (h : ¬ (d < s.dies.length ∧ e < (dieOf s d).engs.length)) : (engOf s d e).queue = [] := by
  by_cases he : e < (dieOf s d).engs.length
  · have hd : dieOf s d = Die.fresh := List.getD_eq_default _ _ (Nat.le_of_not_lt fun hd => h ⟨hd, he⟩)
    rw [engOf, hd, show Die.fresh.engs = List.replicate 18 Eng.fresh from rfl, List.getD_eq_getElem?_getD, List.getElem?_getD_replicate_default_eq]
    rfl
  · rw [engOf, List.getD_eq_default _ _ (Nat.le_of_not_lt he)]
    rfl

theorem modEng_empties {f : Eng → Eng} (hf : ∀ g, (f g).queue = []) (d e : Nat) (s : State) : (engOf (modEng d e f s) d e).queue = [] := by
  by_cases h : d < s.dies.length ∧ e < (dieOf s d).engs.length
  · rw [engOf_modEng h.1 h.2, hf]
  · obtain ⟨h1, h2⟩ := modEng_slots d d e f s
    exact engOf_outside (by rwa [h1, h2])

/-- The die with its contexts and engines empty. -/
def haltedDie (x : Die) : Die := { x with ctxs := List.replicate 16 none, engs := x.engs.map clearedEng }

/-- A slot that took work is OFF, and shows an empty queue. -/
def haltSlot (d : Nat) (s : State) (e : Nat) : State :=
  let st := getF s (pgPe d e) Reg.PE_ENG_STAT_STATE
  let t := if st = 2 ∨ st = 3 ∨ st = 4 then setF (pgPe d e) Reg.PE_ENG_STAT_STATE 0 s else s
  setF (pgPe d e) Reg.PE_ENG_STAT_QUEUED 0 t

theorem stopDie_eq (d : Nat) (s : State) : stopDie d s = showDispatch d ((List.range 18).foldl (haltSlot d) (modDie d haltedDie s)) := (rfl)

theorem haltSlot_dies (d : Nat) (s : State) (e : Nat) : (haltSlot d s e).dies = s.dies := by
  unfold haltSlot
  dsimp only
  split
  · rw [setF_dies, setF_dies]
  · rw [setF_dies]

theorem stopDie_dies (d : Nat) (s : State) : (stopDie d s).dies = (modDie d haltedDie s).dies := by
  rw [stopDie_eq, showDispatch_keeps d (K := 64) (by decide) (Keeps.refl _ _) |>.frame .dies (by decide)]
  exact List.foldlRecOn (motive := fun u : State => u.dies = (modDie d haltedDie s).dies) _ _ rfl fun u hu e _ => (haltSlot_dies d u e).trans hu

/-- The engines of a die that stops hold no work (R467). -/
theorem stopDie_empties (d e : Nat) (s : State) : (engOf (stopDie d s) d e).queue = [] := by
  rw [engOf_congr (stopDie_dies d s)]
  by_cases hd : d < s.dies.length
  · have h : dieOf (modDie d haltedDie s) d = haltedDie (dieOf s d) := by simp [dieOf, modDie, List.getD_eq_getElem?_getD, hd]
    rw [engOf, h, haltedDie]
    cases he : (dieOf s d).engs[e]? <;> simp [List.getD_eq_getElem?_getD, he, Eng.fresh, clearedEng]
  · exact engOf_outside fun h => hd (by simpa [modDie] using h.1)

theorem dieLeave_empty {d e : Nat} {s : State} (h : (engOf s d e).queue = []) : (engOf (dieLeave d s) d e).queue = [] := by
  have left (q : Seq) (t : State) : (startFallback d { t with seq := q }).dies = t.dies :=
    (startFallback_keeps d (K := 64) (by decide) (Keeps.refl _ _)).frame .dies (by decide)
  unfold dieLeave
  split
  · rw [engOf_congr (left _ _)]
    exact stopDie_empties d e _
  · exact h

/-- A substitution, or the loss of the die where no spare is left, brings a slot no work (R119, R120). -/
theorem substitute_empty {d e : Nat} {s : State} (h : (engOf s d e).queue = []) (k : Nat) : (engOf (substitute d k s) d e).queue = [] := by
  unfold substitute
  split
  · have shown (t : State) : (showSpareLeft d (showSubst d t)).dies = t.dies :=
      (showSpareLeft_keeps d (K := 64) (by decide) (showSubst_keeps d (by decide) (Keeps.refl _ t))).frame .dies (by decide)
    rw [engOf_congr (shown _), engOf_congr (setF_dies _ _ _ _), engOf_modDie _ _ _ _ _ ?_]
    · exact h
    · exact fun _ => rfl
  · refine dieLeave_empty ?_
    rw [engOf_congr (record_dies _ _ _), engOf_congr (setF_dies _ _ _ _)]
    exact h

theorem markBad_dies (d e : Nat) (s : State) : (markBad d e s).dies = s.dies :=
  (markBad_keeps d e (K := 64) (by decide) (Keeps.refl _ s)).frame .dies (by decide)

theorem vacateSlot_empties (d e : Nat) (k : Option Nat) (s : State) : (engOf (vacateSlot d e k s) d e).queue = [] := by
  unfold vacateSlot
  rw [engOf_congr (markBad_dies _ _ _), engOf_modDie _ _ _ _ _ ?_, engOf_congr ((setF_dies _ _ _ _).trans (setF_dies _ _ _ _))]
  · exact modEng_empties (f := clearedEng) (fun _ => rfl) d e s
  · exact fun _ => rfl

/-- A lost slot keeps no work (R117). -/
theorem loseSlot_empties (d e cause : Nat) (s : State) : (engOf (loseSlot d e cause s) d e).queue = [] := by
  unfold loseSlot
  dsimp only
  split
  · exact substitute_empty (vacateSlot_empties _ _ _ _) _
  · exact vacateSlot_empties _ _ _ _

/-! ### Slots that are marked bad -/

theorem quietBut_journal {l : List Nat} {s t : State} (etype key : Nat) (data : List Byte) (words : List (Nat × Word)) (k : quietBut l s t) :
    quietBut l s (journal etype key data words t) := by
  intro a hq ha
  rw [← k a hq ha]
  unfold journal
  dsimp only
  split
  · exact queueEntry_ne hq.2 _ t
  · rw [regW_record hq, queueEntry_ne hq.2]

/-- A field that no record of a code writes, in a word left alone. -/
theorem getF_quietBut {l : List Nat} {s t : State} (k : quietBut l s t) {p : Page} {r : Row} (hq : quiet (fieldAddr p r 0 0))
    (hl : fieldAddr p r 0 0 ∉ l) : getF t p r = getF s p r := by
  simp only [getF, getFij]
  rw [k _ hq hl]

theorem quietBut_markBad (d e : Nat) (s : State) : quietBut [fieldAddr (pgSpare d) Reg.SPARE_STAT_BAD 0 0] s (markBad d e s) :=
  quietBut_journal _ _ _ _ (quietBut_setF _ List.mem_cons_self (quietBut_setF _ List.mem_cons_self (quietBut_refl _ s)))

/-- A slot that is marked bad shows it in SPARE.STAT; the slots' pages and engines stay. -/
theorem markBad_shows {d e : Nat} (he : e < 18) (s : State) :
    (getF (markBad d e s) (pgSpare d) Reg.SPARE_STAT_BAD).testBit e = true ∧ (markBad d e s).dies = s.dies ∧
      ∀ r, ownRow r = true → getF (markBad d e s) (pgPe d e) r = getF s (pgPe d e) r := by
  refine ⟨?_, markBad_dies d e s, fun r hr => getF_quietBut (quietBut_markBad d e s) (quiet_cd d _ hr) ?_⟩
  · rw [markBad, getF_quietBut (quietBut_journal _ _ _ _ (quietBut_refl [] _)) (quiet_cd d _ (by decide)) List.not_mem_nil, showSpareLeft,
      getF_setF_apart (by decide) (by decide), getF_setF_same (by decide), Nat.testBit_mod_two_pow, testBit_putBits_one]
    simp [show e < Reg.SPARE_STAT_BAD.w from he]
  · exact fun hm => fieldAddr_pe_ne (by decide) (by decide) hr (List.mem_singleton.1 hm).symm

/-! ### What a fault does by the state of the slot -/

section Fault

variable {d e : Nat} {s : State}

theorem exec_engineFault (hd : d < 4) (he : e < 18) {cause : Nat} (h1 : 1 ≤ cause) (h3 : cause ≤ 3) (s : State) :
    exec (.engineFault d e cause) s = .next (engineFault d e cause s) := congrArg Host.Outcome.next (if_pos ⟨hd, he, h1, h3⟩)

theorem engineFault_done (h : getF s (pgPe d e) Reg.PE_ENG_STAT_STATE = 5 ∨ getF s (pgPe d e) Reg.PE_ENG_STAT_STATE = 7) (cause : Nat) :
    engineFault d e cause s = s := if_pos h

theorem engineFault_spare (h : getF s (pgPe d e) Reg.PE_ENG_STAT_STATE = 6) (cause : Nat) :
    engineFault d e cause s = markBad d e (setF (pgPe d e) Reg.PE_ENG_STAT_STATE 7 (setF (pgPe d e) Reg.PE_ENG_FAULT_CAUSE cause s)) :=
  (if_neg (by omega)).trans (if_pos h)

theorem engineFault_empties (h : getF s (pgPe d e) Reg.PE_ENG_STAT_STATE < 5) (cause : Nat) :
    (engOf (engineFault d e cause s) d e).queue = [] := by
  have lost : engineFault d e cause s = loseSlot d e cause s := (if_neg (by omega)).trans (if_neg (by omega))
  rw [lost]
  exact loseSlot_empties d e cause s

theorem exec_spareSelfTest_fails (hd : d < 4) (hs : (spares s d).contains e = true) (hb : barsRun s = false ∨ (diePwr s d).head = true) :
    exec (.spareSelfTest d e false) s = .next (markBad d e (setF (pgPe d e) Reg.PE_ENG_STAT_STATE 7 s)) :=
  congrArg Host.Outcome.next (if_pos ⟨rfl, hs, hd, hb⟩)

theorem exec_spareSelfTest_passes (d e : Nat) (s : State) : exec (.spareSelfTest d e true) s = .next s :=
  congrArg Host.Outcome.next (if_neg fun h => Bool.noConfusion h.1)

/-! ### The return sequence -/

theorem exec_returnSequenceDone_passed (hd : d < 4) (he : e < 18) (h : getF s (pgPe d e) Reg.PE_ENG_STAT_STATE = 1) :
    exec (.returnSequenceDone d e true) s = .next (returnPassed d e s) :=
  congrArg Host.Outcome.next ((if_pos ⟨h, hd, he⟩).trans (if_pos rfl))

theorem exec_returnSequenceDone_failed (hd : d < 4) (he : e < 18) (h : getF s (pgPe d e) Reg.PE_ENG_STAT_STATE = 1) :
    exec (.returnSequenceDone d e false) s = .next (engineFault d e 2 s) :=
  congrArg Host.Outcome.next ((if_pos ⟨h, hd, he⟩).trans (if_neg Bool.false_ne_true))

/-- The slot stands by for the boundary: its tile is clear, its engine fresh, and it is READY for no partition (R123). -/
def standby (d e : Nat) (s : State) : State :=
  setF (pgPe d e) Reg.PE_ENG_STAT_STATE 2 (setF (pgPe d e) Reg.PE_ENG_STAT_PART 0 (setF (pgPe d e) Reg.PE_ENG_EPOCH (getF s pgSeq Reg.SEQ_EPOCH)
    (modEng d e (fun _ => rejoiningEng) (clearTile d e s))))

theorem returnPassed_eq (d e : Nat) (s : State) :
    returnPassed d e s = match (dieOf (standby d e s) d).subst.find? (fun x => x.2.1 = e) with
      | some x => spareServes d e x.1 (standby d e s)
      | none => standby d e s := (rfl)

theorem standby_shows (hd : d < s.dies.length) (he : e < (dieOf s d).engs.length) :
    engOf (standby d e s) d e = rejoiningEng ∧ getF (standby d e s) (pgPe d e) Reg.PE_ENG_STAT_STATE = 2 ∧
      getF (standby d e s) (pgPe d e) Reg.PE_ENG_STAT_PART = 0 := by
  have tile : (clearTile d e s).dies = s.dies := (clearTile_keeps d e (K := 64) (by decide) (Keeps.refl _ s)).frame .dies (by decide)
  refine ⟨?_, getF_setF_same (by decide) 2 _, ?_⟩
  · rw [standby, engOf_congr ((setF_dies _ _ _ _).trans ((setF_dies _ _ _ _).trans (setF_dies _ _ _ _))),
      engOf_modEng (by rwa [tile]) (by rwa [dieOf, tile])]
  · rw [standby, getF_setF_apart (by decide) (by decide)]
    exact getF_setF_same (by decide) 0 _

/-- A spare that takes over a logical engine is recorded; the slot itself stays as it stood by (R119). -/
theorem spareServes_shows (d e k : Nat) (s : State) :
    engOf (spareServes d e k s) d e = engOf s d e ∧ ∀ r, ownRow r = true → getF (spareServes d e k s) (pgPe d e) r = getF s (pgPe d e) r := by
  constructor
  · rw [spareServes, engOf_congr ((journal_dies _ _ _ _ _).trans (record_dies _ _ _)), engOf_modDie _ _ _ _ _ ?_]
    exact fun _ => rfl
  · exact fun r hr => getF_quietBut (quietBut_journal _ _ _ _ (quietBut_record _ _ (quietBut_same (modDie_regs _ _ _) (quietBut_refl [] s))))
      (quiet_cd d _ hr) List.not_mem_nil

theorem returnPassed_shows (hd : d < s.dies.length) (he : e < (dieOf s d).engs.length) :
    engOf (returnPassed d e s) d e = rejoiningEng ∧ getF (returnPassed d e s) (pgPe d e) Reg.PE_ENG_STAT_STATE = 2 ∧
      getF (returnPassed d e s) (pgPe d e) Reg.PE_ENG_STAT_PART = 0 := by
  obtain ⟨hg, hs, hp⟩ := standby_shows hd he
  rw [returnPassed_eq]
  split
  next x _ =>
    obtain ⟨ge, gr⟩ := spareServes_shows d e x.1 (standby d e s)
    exact ⟨ge.trans hg, (gr _ (by decide)).trans hs, (gr _ (by decide)).trans hp⟩
  · exact ⟨hg, hs, hp⟩

/-! ### Self-tests that firmware starts -/

theorem exec_engTestRun {who : Agent} (hd : d < 4) (he : e < 18) (hc : controls who = true) (hs : inService s d = true) :
    exec (.engTestRun who d e) s = .next (startEngTest d e s) :=
  congrArg Host.Outcome.next ((if_pos ⟨hd, he⟩).trans (asMaster_cd hc hd hs (by omega) (by decide) (startEngTest d e)))

theorem exec_engTestDone (h : getF s (pgPe d e) Reg.PE_ENG_TEST_RUN = 1) (pass : Bool) :
    exec (.engTestDone d e pass) s = .next (setF (pgPe d e) Reg.PE_ENG_TEST_RUN 0 (setF (pgPe d e) Reg.PE_ENG_TEST_DONE 1
      (setF (pgPe d e) Reg.PE_ENG_TEST_PASS (if pass then 1 else 0) s))) :=
  congrArg Host.Outcome.next (if_pos (by simp [flag, h]))

end Fault

/-- What a write of RUN, DONE and PASS of ENG_TEST leaves. -/
theorem engTest_written (d e : Nat) {run done pass : Nat} (hr : run < 2) (hd : done < 2) (hp : pass < 2) (s : State) :
    let t := setF (pgPe d e) Reg.PE_ENG_TEST_RUN run (setF (pgPe d e) Reg.PE_ENG_TEST_DONE done (setF (pgPe d e) Reg.PE_ENG_TEST_PASS pass s))
    getF t (pgPe d e) Reg.PE_ENG_TEST_RUN = run ∧ getF t (pgPe d e) Reg.PE_ENG_TEST_DONE = done ∧ getF t (pgPe d e) Reg.PE_ENG_TEST_PASS = pass ∧
      regsBut [fieldAddr (pgPe d e) Reg.PE_ENG_TEST_RUN 0 0] s t := by
  intro t
  refine ⟨?_, ?_, ?_, ?_⟩
  · rw [getF_setF_same (by decide)]
    exact Nat.mod_eq_of_lt hr
  · rw [getF_setF_apart (by decide) (by decide), getF_setF_same (by decide)]
    exact Nat.mod_eq_of_lt hd
  · rw [getF_setF_apart (by decide) (by decide), getF_setF_apart (by decide) (by decide), getF_setF_same (by decide)]
    exact Nat.mod_eq_of_lt hp
  · exact regsBut_setF _ List.mem_cons_self (regsBut_setF _ List.mem_cons_self (regsBut_setF _ List.mem_cons_self (regsBut_refl _ s)))

/-- Settles O29: the slot's state decides what a fault, the end of the return sequence and a self-test do. -/
theorem engineFaults : Obligations.EngineFaults := by
  unfold Obligations.EngineFaults
  intro who d e cause pass s hd he hdl hel
  refine ⟨fun h1 h3 => ⟨fun h => acts (does (exec_engineFault hd he h1 h3 s) (engineFault_done h cause)),
      fun h => acts (does (exec_engineFault hd he h1 h3 s) ?_), fun h => acts (does (exec_engineFault hd he h1 h3 s) (engineFault_empties h cause))⟩,
    fun h => ⟨acts (does (exec_returnSequenceDone_passed hd he h) (returnPassed_shows hdl hel)),
      acts (does (exec_returnSequenceDone_failed hd he h) (engineFault_empties (by omega) 2))⟩,
    fun hs hb => acts (does (exec_spareSelfTest_fails hd hs hb) ?_), acts (does (exec_spareSelfTest_passes d e s) rfl),
    fun hc hs h => acts (does (exec_engTestRun hd he hc hs) ?_), fun h => acts (does (exec_engTestDone h pass) ?_)⟩
  · rw [engineFault_spare h]
    obtain ⟨hb, hdies, own⟩ := markBad_shows (d := d) he (setF (pgPe d e) Reg.PE_ENG_STAT_STATE 7 (setF (pgPe d e) Reg.PE_ENG_FAULT_CAUSE cause s))
    refine ⟨?_, ?_, hb, hdies.trans ((setF_dies _ _ _ _).trans (setF_dies _ _ _ _))⟩
    · rw [own _ (by decide)]
      exact getF_setF_same (by decide) 7 _
    · rw [own _ (by decide), getF_setF_apart (by decide) (by decide), getF_setF_same (by decide)]
      exact Nat.mod_eq_of_lt (Nat.lt_of_le_of_lt h3 (by decide))
  · obtain ⟨hb, hdies, own⟩ := markBad_shows (d := d) he (setF (pgPe d e) Reg.PE_ENG_STAT_STATE 7 s)
    refine ⟨?_, hb, hdies.trans (setF_dies _ _ _ _)⟩
    rw [own _ (by decide)]
    exact getF_setF_same (by decide) 7 _
  · rw [startEngTest, if_pos h]
    exact engTest_written d e (by decide) (by decide) (by decide) s
  · exact engTest_written d e (by decide) (by decide) (by split <;> decide) s

end Sys2Proof.Machine
end


section
/-! PROOFS. Chapter 09: fusion jobs. What their commands run, how a job ends, and how the accesses of a stage pass or are refused (R72, R242, R244). -/

namespace Sys2Proof.Machine

open Sys2Proof

/-! ### The commands of the stages -/

/-- ALIGN, in its turn. -/
def alignStage (j : FusJob) (s : State) : State :=
  if waitOver s j then alignEnd j s else modJob (fun j => { j with waiting := true }) s

/-- The commands of the stages by number, and what each runs. -/
def fusStages : List (Instr × (FusJob → State → State)) :=
  [(.ppuJob, ppuStep), (.align, alignStage), (.ego, egoStage), (.proj, projStage), (.lift, liftStage), (.assign, assignStage),
    (.track, trackStage), (.out, outStage)]

theorem exec_stage {b : Nat} {c : Instr} {f : FusJob → State → State} (h : fusStages[b]? = some (c, f)) (s : State) :
    exec c s = .next (match jobAt s b with | some j => f j s | none => s) := by
  obtain ⟨hb, e⟩ := List.getElem?_eq_some_iff.1 h
  have hb : b < 8 := hb
  interval_cases b <;> cases e <;> rfl

theorem exec_alignWaitEnd (s : State) : exec .alignWaitEnd s =
    .next (match s.fus.job with | some j => if j.waiting ∧ waitOver s j then alignEnd j s else s | none => s) := (rfl)

/-- A job whose last stage has ended is committed and frees the unit. -/
def fusDone (j : FusJob) (s : State) : State :=
  tryFuse 64 (finish j.stroke j.bar (modFus (fun x => { x with job := none }) (commitJob j s)))

theorem exec_fusionJobDone (s : State) : exec .fusionJobDone s =
    .next (match s.fus.job with | some j => if j.left = [] then fusDone j s else s | none => s) := (rfl)

theorem jobAt_turn {s : State} {j : FusJob} {b : Nat} (hj : s.fus.job = some j) (hb : j.left.head? = some b) (hw : j.waiting = false) :
    jobAt s b = some j := by
  simp only [jobAt, hj, hb, hw, and_self, if_true]

theorem jobAt_other {s : State} {j : FusJob} {b : Nat} (hj : s.fus.job = some j) (h : j.left.head? ≠ some b ∨ j.waiting = true) :
    jobAt s b = none := by
  have n : ¬(j.left.head? = some b ∧ j.waiting = false) := fun ⟨hb, hw⟩ => h.elim (fun x => x hb) (fun x => by rw [hw] at x; cases x)
  simp only [jobAt, hj, if_neg n]

theorem jobAt_free {s : State} (h : s.fus.job = none) (b : Nat) : jobAt s b = none := by
  simp only [jobAt, h]

/-! ### The end of a job -/

/-- The persistent state is `w`, and a job in progress starts from it. -/
def startsFrom (w : FusState) (s : State) : Prop := s.fus.st = w ∧ ∀ k, s.fus.job = some k → k.work = w

theorem startsFrom_same {w : FusState} {s t : State} (e : t.fus = s.fus) (h : startsFrom w s) : startsFrom w t := by
  unfold startsFrom
  rwa [e]

theorem startsFrom_keeps {w : FusState} {s t : State} (k : Keeps 1024 s t) (h : startsFrom w s) : startsFrom w t :=
  startsFrom_same (k.frame .fus rfl) h

theorem startsFrom_free {w : FusState} {s : State} (h : s.fus.st = w) (hj : s.fus.job = none) : startsFrom w s :=
  ⟨h, fun k e => by rw [hj] at e; cases e⟩

/-- A partition fault takes the job from the fusion unit, or leaves the unit alone. -/
theorem windowFault_fus (p a : Nat) (s : State) :
    (windowFault p a s).fus = s.fus ∨ (windowFault p a s).fus = { s.fus with job := none } := by
  have kills (l : List StrokeRun) (t : State) : (l.foldl (fun s r => killRun r 1 (failRun r.idx r.bar s)) t).fus = t.fus :=
    (keeps_foldl (Keeps.refl 1024 t) (fun u r h => killRun_keeps r 1 (by decide) (failRun_keeps _ _ (by decide) h))).frame .fus rfl
  have ends (t : State) : (recordPart pgPrt 0x0D p (clearTags p (unhold p t))).fus = t.fus :=
    (recordPart_keeps _ _ _ (by decide) (clearTags_keeps _ (by decide) (unhold_keeps _ (by decide) (Keeps.refl 1024 t)))).frame .fus rfl
  have completes (r : StrokeRun) (i b : Nat) (t : State) : (completeRun r (failRun i b t)).fus = t.fus :=
    (completeRun_keeps r (by decide) (failRun_keeps i b (by decide) (Keeps.refl 1024 t))).frame .fus rfl
  unfold windowFault partitionFault
  dsimp only
  split
  · exact .inl (recordAt_fus ..)
  · split
    · exact .inl (by simp)
    · rw [ends]
      split
      · split
        · refine .inr ?_
          split
          · rw [completes]; simp [kills]
          · simp [kills]
        · exact .inl (by simp [kills])
      · exact .inl (by simp [kills])

theorem startsFrom_windowFault {w : FusState} {s : State} (p a : Nat) (h : startsFrom w s) : startsFrom w (windowFault p a s) := by
  rcases windowFault_fus p a s with e | e
  · exact startsFrom_same e h
  · exact startsFrom_free (by rw [e]; exact h.1) (by rw [e])

theorem startsFrom_finish {w : FusState} {s : State} (i b : Nat) (h : startsFrom w s) : startsFrom w (finish i b s) :=
  startsFrom_keeps (finish_keeps i b (by decide) (Keeps.refl 1024 s)) h

theorem fixInstant_st (l : List Nat) (s : State) : (fixInstant l s).fus.st = s.fus.st := by
  unfold fixInstant
  split <;> rfl

/-- A job that starts copies the persistent state. -/
theorem startsFrom_startJob {w : FusState} {s : State} (r : StrokeRun) (h : startsFrom w s) : startsFrom w (startJob r s) := by
  unfold startJob
  dsimp only
  have charged (m : Nat) (p : Option Nat) (a n : Nat) : startsFrom w (chargeMem m p a n s) :=
    startsFrom_keeps (chargeMem_keeps m p a n (by decide) (Keeps.refl 1024 s)) h
  split
  · refine startsFrom_finish _ _ (startsFrom_same (modRun_fus ..) ?_)
    split
    · exact startsFrom_windowFault _ _ h
    · exact startsFrom_same (recordAt_fus ..) h
  · split
    · exact startsFrom_finish _ _ (startsFrom_same (modRun_fus ..) (startsFrom_same (recordPart_fus ..) (charged _ _ _ _)))
    · have fixed (l : List Nat) (m : Nat) (p : Option Nat) (a n : Nat) : (fixInstant l (chargeMem m p a n s)).fus.st = w :=
        (fixInstant_st _ _).trans (charged _ _ _ _).1
      have started (l : List Nat) (m : Nat) (p : Option Nat) (a n : Nat) (k : FusJob) (hk : k.work = w) :
          startsFrom w { fixInstant l (chargeMem m p a n s) with fus := { (fixInstant l (chargeMem m p a n s)).fus with job := some k } } :=
        ⟨fixed _ _ _ _ _, fun k' e => by cases e; exact hk⟩
      split
      · exact startsFrom_same ((setF_fus ..).trans (setF_fus ..)) (started _ _ _ _ _ _ (fixed _ _ _ _ _))
      · exact started _ _ _ _ _ _ (fixed _ _ _ _ _)

theorem startsFrom_tryFuse {w : FusState} (n : Nat) {s : State} (h : startsFrom w s) : startsFrom w (tryFuse n s) := by
  induction n generalizing s with
  | zero => exact h
  | succ n ih =>
    unfold tryFuse
    split
    · exact h
    · split
      · exact ih (startsFrom_finish _ _ (startsFrom_same (modRun_fus ..) h))
      · split
        · exact ih (startsFrom_startJob _ h)
        · exact h

/-- The stroke of a job that ended is done, and the next job starts from the persistent state. -/
def jobEnded (j : FusJob) (u : State) : Prop := AllRuns (Ended j.stroke j.bar) u ∧ ∀ k, u.fus.job = some k → k.work = u.fus.st

/-- With the unit free, the end of a stroke lets the next job start from the persistent state. -/
theorem tryFuse_finish_ends (j : FusJob) {s : State} (h : s.fus.job = none) :
    jobEnded j (tryFuse 64 (finish j.stroke j.bar s)) ∧ (tryFuse 64 (finish j.stroke j.bar s)).fus.st = s.fus.st := by
  obtain ⟨hs, hw⟩ := startsFrom_tryFuse 64 (startsFrom_finish j.stroke j.bar (startsFrom_free (w := s.fus.st) rfl h))
  exact ⟨⟨allRuns_tryFuse (ended_stable _ _) 64 _ (finish_ended _ _ s), fun k e => (hw k e).trans hs.symm⟩, hs⟩

theorem showPpu_same (s : State) : (showPpu s).seq = s.seq ∧ (showPpu s).fus = s.fus := by
  unfold showPpu
  split <;> exact ⟨rfl, rfl⟩

/-- A job that fails at an access ends its stroke and leaves the persistent state (R244). -/
theorem failJob_ends {j : FusJob} {s : State} (hj : s.fus.job = some j) (pg : Page) (code a : Nat) :
    jobEnded j (failJob pg code a j s) ∧ (failJob pg code a j s).fus.st = s.fus.st := by
  unfold failJob
  dsimp only
  have recorded : (if code = 0x0A then windowFault j.part a s else recordAt pg code (a / 64) j.part s).fus = s.fus ∨
      (if code = 0x0A then windowFault j.part a s else recordAt pg code (a / 64) j.part s).fus = { s.fus with job := none } := by
    split
    · exact windowFault_fus _ _ _
    · exact .inl (recordAt_fus ..)
  generalize (if code = 0x0A then windowFault j.part a s else recordAt pg code (a / 64) j.part s) = t at recorded ⊢
  unfold jobEnded AllRuns
  rw [(showPpu_same _).1, (showPpu_same _).2]
  have dropped : (modFus (fun x => { x with job := match x.job with
      | some y => if y.stroke = j.stroke ∧ y.bar = j.bar then none else some y
      | none => none }) t).fus = { s.fus with job := none } := by
    rcases recorded with e | e <;> simp [modFus, e, hj]
  have ends := tryFuse_finish_ends j (s := failRun j.stroke j.bar (modFus (fun x => { x with job := match x.job with
      | some y => if y.stroke = j.stroke ∧ y.bar = j.bar then none else some y
      | none => none }) t)) (by rw [failRun, modRun_fus, dropped])
  rwa [failRun, modRun_fus, dropped] at ends

/-! ### Accesses of a stage -/

/-- Every access of partition `p` in `l` is allowed. -/
def passesAll (s : State) (p : Nat) (l : List MemAcc) : Prop := ∀ x ∈ l, accRefused s 0 p x = none

theorem chargeStack_acct (m : Nat) (p : Option Nat) (n len : Nat) (s : State) : ∃ x, chargeStack m p n len s = { s with acct := x } := by
  cases p <;> exact ⟨_, rfl⟩

theorem chargeMem_acct (m : Nat) (p : Option Nat) (a len : Nat) (s : State) : ∃ x, chargeMem m p a len s = { s with acct := x } := by
  refine List.foldlRecOn (motive := fun t : State => ∃ x, t = { s with acct := x }) _ _ ⟨s.acct, rfl⟩ ?_
  rintro _ ⟨x, rfl⟩ y -
  split
  · obtain ⟨x', e⟩ := chargeStack_acct m p _ y.2.1 { s with acct := x }
    exact ⟨x', e⟩
  · cases p <;> exact ⟨_, rfl⟩
  · exact ⟨x, rfl⟩

/-- Charges change the accounts alone. -/
theorem chargeAccs_acct (m p d : Nat) (l : List MemAcc) (s : State) : ∃ x, chargeAccs m p d l s = { s with acct := x } := by
  refine List.foldlRecOn (motive := fun t : State => ∃ x, t = { s with acct := x }) _ _ ⟨s.acct, rfl⟩ ?_
  rintro _ ⟨x, rfl⟩ y -
  split
  · split
    · exact ⟨x, rfl⟩
    · obtain ⟨x', e⟩ := chargeMem_acct m (some p) _ y.len { s with acct := x }
      exact ⟨x', e⟩
  · exact ⟨x, rfl⟩

theorem findSome_refused {s : State} {p : Nat} {l : List MemAcc} (h : ¬passesAll s p l) :
    ∃ r, l.findSome? (accRefused s 0 p) = some r := by
  by_contra hn
  exact h fun x hx => List.findSome?_eq_none_iff.1 (Option.eq_none_iff_forall_ne_some.2 fun r e => hn ⟨r, e⟩) x hx

theorem withAccs_passes {s : State} {j : FusJob} {l : List MemAcc} (h : passesAll s j.part l) (pg : Page) (k : State → State) :
    ∃ x, withAccs pg j l k s = k { s with acct := x } := by
  obtain ⟨x, e⟩ := chargeAccs_acct 17 j.part 0 l s
  refine ⟨x, ?_⟩
  have n : l.findSome? (accRefused s 0 j.part) = none := List.findSome?_eq_none_iff.2 h
  simp only [withAccs, n, e]

theorem withAccs_fails {s : State} {j : FusJob} {l : List MemAcc} (hj : s.fus.job = some j) (h : ¬passesAll s j.part l) (pg : Page)
    (k : State → State) : jobEnded j (withAccs pg j l k s) ∧ (withAccs pg j l k s).fus.st = s.fus.st := by
  obtain ⟨⟨c, a⟩, e⟩ := findSome_refused h
  simp only [withAccs, e]
  exact failJob_ends hj pg c a

end Sys2Proof.Machine
end

section
/-! PROOFS. Chapter 09: what the steps of a fusion stage leave alone: its stores, its counters, the records of its codes. -/

namespace Sys2Proof.Machine

open Sys2Proof

/-! ### What a stage's steps leave -/

/-- A step that reaches only pieces of `l` adds nothing to what `l` leaves alone. -/
theorem samesBut_trans_of_subset {l m : List Piece} {s t u : State} (hm : ∀ p ∈ m, p ∈ l) (h : samesBut l s t) (k : samesBut m t u) : samesBut l s u :=
  ⟨k.1.trans h.1, fun p hn => Piece.same_trans (h.2 p hn) (k.2 p fun hp => hn (hm p hp))⟩

theorem samesBut_modFus {l : List Piece} {s t : State} (hl : Piece.fus ∈ l) (h : samesBut l s t) (f : Fus → Fus) : samesBut l s (modFus f t) :=
  samesBut_trans_of_subset (fun _ hp => List.mem_singleton.1 hp ▸ hl) h (samesBut_keeps (l := [.fus]) (modFus_keeps f (by decide) (Keeps.refl _ t)))

/-- The job is now `k`; beside it and the accounts, a stage that goes on reaches memory and what the record of an error code reaches. -/
def goesOn (s : State) (k : FusJob) (u : State) : Prop :=
  samesBut (report ++ [.mem, .acct, .fus]) s u ∧ u.fus = { s.fus with job := some k }

/-- Where the unit is left alone, the job stands as it did. -/
theorem goesOn_keeps {s t : State} {j : FusJob} (hj : s.fus.job = some j) (h : Keeps (others (report ++ [.mem, .acct])) s t) : goesOn s j t := by
  have k := samesBut_keeps h
  refine ⟨samesBut_trans_of_subset (by decide) (samesBut_refl _ s) k, ?_⟩
  rw [show t.fus = s.fus from k.2 .fus (by decide), ← hj]

/-- What the record of an error code reaches lets a stage go on, and touches no memory. -/
theorem goesOn_report {s t u : State} {k : FusJob} (h : goesOn s k t) (hk : Keeps (others report) t u) : goesOn s k u ∧ u.mem = t.mem := by
  obtain ⟨hs, hf⟩ := h
  have r := samesBut_keeps hk
  exact ⟨⟨samesBut_trans_of_subset (by decide) hs r, (r.2 .fus (by decide)).trans hf⟩, r.2 .mem (by decide)⟩

theorem goesOn_modJob {s t : State} {k : FusJob} (f : FusJob → FusJob) (h : goesOn s k t) : goesOn s (f k) (modJob f t) := by
  obtain ⟨hs, hf⟩ := h
  exact ⟨samesBut_modFus (by decide) hs _, by simp [modJob, modFus, hf]⟩

/-- The job with its stage ended. -/
def stageDone (k : FusJob) : FusJob := { k with left := k.left.drop 1, waiting := false }

theorem goesOn_stageEnds {s t : State} {k : FusJob} (h : goesOn s k t) : goesOn s (stageDone k) (stageEnds t) := goesOn_modJob stageDone h

theorem stageEnds_regs (s : State) : (stageEnds s).regs = s.regs := (rfl)

theorem stageEnds_mem (s : State) : (stageEnds s).mem = s.mem := (rfl)

/-- The bytes `b` go to memory at `a`, where hub SRAM holds them, and no other byte changes. -/
def wroteAt (s : State) (a : Nat) (b : List Byte) (u : State) : Prop :=
  (∀ x, x < a ∨ a + b.length ≤ x → sparseGet memDefault u.mem x = sparseGet memDefault s.mem x) ∧
    (0x04000000 ≤ a → a + b.length ≤ 0x06000000 → memBytes u a b.length = b)

theorem wroteAt_same {s s' u u' : State} {a : Nat} {b : List Byte} (hs : s'.mem = s.mem) (hu : u'.mem = u.mem) (h : wroteAt s' a b u) :
    wroteAt s a b u' := by
  unfold wroteAt
  rw [memBytes_congr hu, hu, ← hs]
  exact h

theorem jobStore_wrote (j : FusJob) (a : Nat) (b : List Byte) (s : State) : wroteAt s a b (jobStore j a b s) := by
  refine ⟨fun x hx => storeDev_outside hx _ s, fun h1 h2 => ?_⟩
  by_cases hb : b = []
  · subst hb; rfl
  · rw [jobStore, storeDev_hubSram h1 hb h2]
    exact memBytes_memWrite a b s

theorem wroteAt_stageEnds {s u : State} {a : Nat} {b : List Byte} (h : wroteAt s a b u) : wroteAt s a b (stageEnds u) :=
  wroteAt_same (u := u) rfl (stageEnds_mem u) h

/-- A store of a stage whose accesses are charged. -/
theorem jobStore_wrote_charged (j : FusJob) (a : Nat) (b : List Byte) (x : Acct) (s : State) :
    wroteAt s a b (jobStore j a b { s with acct := x }) := wroteAt_same (s' := { s with acct := x }) rfl rfl (jobStore_wrote j a b _)

theorem getF_storesOnly {s t : State} (k : storesOnly s t) {p : Page} {r : Row} (hq : quiet (fieldAddr p r 0 0)) (hh : fieldAddr p r 0 0 < 0x50000000) :
    getF t p r = getF s p r := by
  unfold getF getFij
  rw [k.2 _ hq hh]

theorem getF_jobStore {p : Page} {r : Row} (hq : quiet (fieldAddr p r 0 0)) (hh : fieldAddr p r 0 0 < 0x50000000) (j : FusJob) (a : Nat)
    (b : List Byte) (s : State) : getF (jobStore j a b s) p r = getF s p r := getF_storesOnly (storesOnly_storeDev a b j.part s) hq hh

theorem satAdd_zero {x : Nat} (h : x < 2 ^ 32) : satAdd 32 x 0 = x := Nat.min_eq_left (by omega)

theorem satAdd_satAdd (x m n : Nat) : satAdd 32 (satAdd 32 x m) n = satAdd 32 x (m + n) := by
  simp only [satAdd, Nat.min_def]
  split <;> split <;> split <;> omega

theorem getF_bump_apart {p : Page} {r r' : Row} (hw : r.lo + r.w ≤ 32) (h : apart r r' = true) (n : Nat) (s : State) :
    getF (bump p r n s) p r' = getF s p r' := getF_setF_apart hw h _ s

theorem getF_bump_page {p p' : Page} {r r' : Row} (h : pageBase p ≠ pageBase p') (hr : r.off < 4096) (hr' : r'.off < 4096) (n : Nat) (s : State) :
    getF (bump p r n s) p' r' = getF s p' r' := getF_setF_page h hr hr' _ s

/-- A 32-bit counter of page `p` has grown by `n`. -/
def counted (p : Page) (r : Row) (n : Nat) (s u : State) : Prop := getF u p r = satAdd 32 (getF s p r) n

theorem counted_bump {p : Page} {r : Row} (hl : r.lo = 0) (hw : r.w = 32) (n : Nat) (s : State) : counted p r n s (bump p r n s) := by
  have h := getF_bump_same (p := p) (r := r) (by omega) n s
  rwa [hw] at h

theorem counted_zero {p : Page} {r : Row} (hw : r.w = 32) (s : State) : counted p r 0 s s :=
  (satAdd_zero (hw ▸ getFij_lt s p r 0 0)).symm

theorem counted_read {p : Page} {r : Row} {n : Nat} {s s' u u' : State} (hs : getF s' p r = getF s p r) (hu : getF u' p r = getF u p r)
    (h : counted p r n s' u) : counted p r n s u' := by
  unfold counted
  rw [hu, ← hs]
  exact h

theorem counted_regs {p : Page} {r : Row} {n : Nat} {s u u' : State} (h : u'.regs = u.regs) (k : counted p r n s u) : counted p r n s u' :=
  counted_read rfl (getF_congr h p r) k

theorem counted_bump_if {p : Page} {r : Row} (hl : r.lo = 0) (hw : r.w = 32) (c : Prop) [Decidable c] (n : Nat) (s : State) :
    counted p r (if c then n else 0) s (if c then bump p r n s else s) := by
  split
  · exact counted_bump hl hw n s
  · exact counted_zero hw s

/-! ### Headers of the hub's pages -/

/-- A record in another page that raises no warning leaves the code that a page shows. -/
theorem codeIn_recordAt_other {p q : Page} (h : pageBase q ≠ pageBase p) {code : Nat} (hc : codeWarns code = false) (hk : q ≠ pgClap)
    (addr part : Nat) {c : Nat} {s : State} (k : codeIn s p c) : codeIn (recordAt q code addr part s) p c := by
  have hp := pageBase_mod p
  have hq := pageBase_mod q
  have e (r : Row) (hr : r.off < 64) : getF (recordAt q code addr part s) p r = getF s p r := by
    unfold getF getFij
    rw [recordAt, if_neg (by simp [hc, hk]), recordPlain_ne (by simp only [fieldAddr]; omega)]
  rwa [codeIn, e _ (by decide), e _ (by decide)]

/-- A store shows no code in a page of the hub. -/
theorem codeIn_jobStore {n : Nat} (hn : n < 0x1000) (j : FusJob) (a : Nat) (b : List Byte) {c : Nat} {s : State} (k : codeIn s (.hub n) c) :
    codeIn (jobStore j a b s) (.hub n) c := by
  unfold jobStore storeDev
  split
  · exact codeIn_recordAt_other (by simp only [pageBase]; omega) (by decide) (by simp) _ _ (codeIn_setF (by decide) _ k)
  · exact codeIn_recordAt_other (by simp only [pageBase]; omega) (by decide) (by simp) _ _ k
  · exact codeIn_congr (memWrite_regs ..) k

/-! ### What follows the charges of a stage -/

theorem keeps_acct {K : Nat} (hK : K &&& 256 = 0) (x : Acct) (s : State) : Keeps K s { s with acct := x } :=
  ⟨rfl, id, le_rfl, le_rfl, fun p b => by cases p <;> first | rfl | exact keeps_no hK rfl b⟩

/-- What follows the charges of a stage. -/
theorem goesOn_after {s t : State} {j : FusJob} (hj : s.fus.job = some j) (x : Acct)
    (h : Keeps (others (report ++ [.mem, .acct])) { s with acct := x } t) : goesOn s j t :=
  goesOn_keeps hj ((keeps_acct (by decide) x s).trans h)

theorem goesOn_charged {s : State} {j : FusJob} (hj : s.fus.job = some j) (x : Acct) : goesOn s j { s with acct := x } :=
  goesOn_after hj x (Keeps.refl _ _)

theorem goesOn_jobStore {s : State} {j : FusJob} (hj : s.fus.job = some j) (x : Acct) (a : Nat) (b : List Byte) :
    goesOn s j (jobStore j a b { s with acct := x }) := goesOn_after hj x (jobStore_keeps j a b (by decide) (Keeps.refl _ _))

end Sys2Proof.Machine
end

section
/-! PROOFS. Chapters 06 and 09: the post-processing unit, and the stages of a job that write their output whole (R195 to R199, R248, R249, R261). -/

namespace Sys2Proof.Machine

open Sys2Proof

/-! ### PPU_JOB (R195 to R199) -/

/-- The descriptor of the next PPU job of a list. -/
def ppuAddr (j : FusJob) : Nat := fjPpuList j.raw * 64 + 64 * j.ppuDone
def ppuRaw (s : State) (j : FusJob) : List Byte := memBytes s (ppuAddr j) 64

/-- What it finds, and the list of detections that it writes. -/
def ppuFound (s : State) (j : FusJob) : PpuOut := runPpu s j.part (ppuRaw s j)
def ppuList (s : State) (j : FusJob) : List Byte :=
  detHeader s (ppuFound s j).kept.length (ppuFound s j).cand (ppuFound s j).capped (ppuFound s j).trunc ++ (ppuFound s j).kept.flatMap detRecord

def ppuUses (s : State) (j : FusJob) : List MemAcc :=
  ⟨false, 0, ppuAddr j, 64⟩ :: (ppuAccs (ppuRaw s j)).map (fun x => if x.wr then { x with len := (ppuList s j).length } else x)

/-- The list's registers and counters after a PPU job. -/
def ppuCounted (o : PpuOut) (s : State) : State :=
  let s := setF pgPpu Reg.PPU_LAST_CAND (Nat.min 65535 o.cand) (setF pgPpu Reg.PPU_LAST_KEPT o.kept.length s)
  let s := bump pgPpu Reg.PPU_JOBS 1 (bump pgPpu Reg.PPU_NONFINITE o.nonfin s)
  let s := if o.capped then bump pgPpu Reg.PPU_CAPPED 1 s else s
  if o.trunc then bump pgPpu Reg.PPU_TRUNC 1 s else s

/-- One more PPU job is done. -/
def ppuNext (k : FusJob) : FusJob := { k with ppuDone := k.ppuDone + 1 }

/-- The end of a PPU job: the last of its list ends the stage. -/
def ppuEnds (last : Prop) [Decidable last] (s : State) : State := showPpu (if last then stageEnds (modJob ppuNext s) else modJob ppuNext s)

/-- A PPU job once its accesses are charged. -/
def ppuAfter (s : State) (j : FusJob) (t : State) : State :=
  ppuEnds (dF (ppuRaw s j) 0 18 1 = 1 ∨ 63 ≤ j.ppuDone)
    (ppuCounted (ppuFound s j) (jobStore j (dF (ppuRaw s j) 0x10 0 32 * 64) (ppuList s j) t))

theorem ppuStep_eq (j : FusJob) (s : State) : ppuStep j s = match (ppuUses s j).findSome? (accRefused s 0 j.part) with
    | some (c, x) => failJob pgPpu c x j (bump pgPpu Reg.PPU_FAILED 1 s)
    | none => ppuAfter s j (chargeAccs 17 j.part 0 (ppuUses s j) s) := (rfl)

theorem ppuStep_passes {s : State} {j : FusJob} (h : passesAll s j.part (ppuUses s j)) : ∃ x, ppuStep j s = ppuAfter s j { s with acct := x } := by
  obtain ⟨x, e⟩ := chargeAccs_acct 17 j.part 0 (ppuUses s j) s
  have n : (ppuUses s j).findSome? (accRefused s 0 j.part) = none := List.findSome?_eq_none_iff.2 h
  exact ⟨x, by rw [ppuStep_eq, n, ← e]⟩

theorem ppuStep_fails {s : State} {j : FusJob} (hj : s.fus.job = some j) (h : ¬passesAll s j.part (ppuUses s j)) :
    jobEnded j (ppuStep j s) ∧ (ppuStep j s).fus.st = s.fus.st := by
  obtain ⟨⟨c, x⟩, e⟩ := findSome_refused h
  rw [ppuStep_eq, e]
  exact failJob_ends (s := bump pgPpu Reg.PPU_FAILED 1 s) hj pgPpu c x

/-- STAT apart, no register of the PPU shows its state. -/
theorem getF_showPpu {r : Row} (h : r.off ≠ 0x40) (s : State) : getF (showPpu s) pgPpu r = getF s pgPpu r := by
  have a (r' : Row) (h' : r'.off = 0x40) : apart r' r = true := by
    simp only [apart, h', Bool.or_eq_true, decide_eq_true_eq, ne_eq]
    exact .inl (.inl h.symm)
  unfold showPpu
  split
  · rw [getF_setF_apart (by decide) (a _ rfl), getF_setF_apart (by decide) (a _ rfl)]
  · exact getF_setF_apart (by decide) (a _ rfl) _ _

theorem ppuEnds_goes {s t : State} {j : FusJob} (hg : goesOn s j t) (last : Prop) [Decidable last] :
    goesOn s (if last then stageDone (ppuNext j) else ppuNext j) (ppuEnds last t) ∧ (ppuEnds last t).mem = t.mem ∧
      ∀ r : Row, r.off ≠ 0x40 → getF (ppuEnds last t) pgPpu r = getF t pgPpu r := by
  have hn := goesOn_modJob ppuNext hg
  have shown {k : FusJob} {u : State} (h : goesOn s k u) (hm : u.mem = t.mem) (hr : u.regs = t.regs) : goesOn s k (showPpu u) ∧
      (showPpu u).mem = t.mem ∧ ∀ r : Row, r.off ≠ 0x40 → getF (showPpu u) pgPpu r = getF t pgPpu r := by
    obtain ⟨h', hm'⟩ := goesOn_report h (showPpu_keeps (by decide) (Keeps.refl _ u))
    exact ⟨h', hm'.trans hm, fun r ho => (getF_showPpu ho u).trans (getF_congr hr ..)⟩
  unfold ppuEnds
  split
  · exact shown (goesOn_stageEnds hn) rfl rfl
  · exact shown hn rfl rfl

theorem ppuCounted_keeps {K : Nat} (hK : K &&& 1 = 0) (o : PpuOut) (s : State) : Keeps K s (ppuCounted o s) := by
  have h : Keeps K s (bump pgPpu Reg.PPU_JOBS 1 (bump pgPpu Reg.PPU_NONFINITE o.nonfin
      (setF pgPpu Reg.PPU_LAST_CAND (Nat.min 65535 o.cand) (setF pgPpu Reg.PPU_LAST_KEPT o.kept.length s)))) :=
    bump_keeps _ _ _ hK (bump_keeps _ _ _ hK (setF_keeps _ _ _ hK (setF_keeps _ _ _ hK (Keeps.refl K s))))
  have capped := keeps_ite (c := o.capped = true) (bump_keeps pgPpu Reg.PPU_CAPPED 1 hK h) h
  exact keeps_ite (c := o.trunc = true) (bump_keeps pgPpu Reg.PPU_TRUNC 1 hK capped) capped

theorem getF_bump_if_apart {p : Page} {r r' : Row} (hw : r.lo + r.w ≤ 32) (h : apart r r' = true) (c : Prop) [Decidable c] (n : Nat) (s : State) :
    getF (if c then bump p r n s else s) p r' = getF s p r' := by
  split
  · exact getF_bump_apart hw h n s
  · rfl

theorem ppuCounted_shows (o : PpuOut) (s : State) :
    counted pgPpu Reg.PPU_JOBS 1 s (ppuCounted o s) ∧ counted pgPpu Reg.PPU_NONFINITE o.nonfin s (ppuCounted o s) ∧
      counted pgPpu Reg.PPU_CAPPED (if o.capped then 1 else 0) s (ppuCounted o s) ∧
      counted pgPpu Reg.PPU_TRUNC (if o.trunc then 1 else 0) s (ppuCounted o s) := by
  have last (r : Row) (h1 : apart Reg.PPU_LAST_CAND r = true) (h2 : apart Reg.PPU_LAST_KEPT r = true) :
      getF (setF pgPpu Reg.PPU_LAST_CAND (Nat.min 65535 o.cand) (setF pgPpu Reg.PPU_LAST_KEPT o.kept.length s)) pgPpu r = getF s pgPpu r := by
    rw [getF_setF_apart (by decide) h1, getF_setF_apart (by decide) h2]
  unfold ppuCounted
  dsimp only
  generalize setF pgPpu Reg.PPU_LAST_CAND (Nat.min 65535 o.cand) (setF pgPpu Reg.PPU_LAST_KEPT o.kept.length s) = t at last ⊢
  refine ⟨counted_read ?_ ?_ (counted_bump rfl rfl 1 (bump pgPpu Reg.PPU_NONFINITE o.nonfin t)), counted_read ?_ ?_ (counted_bump rfl rfl o.nonfin t),
    counted_read ?_ ?_ (counted_bump_if rfl rfl (o.capped = true) 1 (bump pgPpu Reg.PPU_JOBS 1 (bump pgPpu Reg.PPU_NONFINITE o.nonfin t))),
    counted_read ?_ rfl (counted_bump_if rfl rfl (o.trunc = true) 1 _)⟩
  · rw [getF_bump_apart (by decide) (by decide), last _ (by decide) (by decide)]
  · rw [getF_bump_if_apart (by decide) (by decide), getF_bump_if_apart (by decide) (by decide)]
  · exact last _ (by decide) (by decide)
  · rw [getF_bump_if_apart (by decide) (by decide), getF_bump_if_apart (by decide) (by decide), getF_bump_apart (by decide) (by decide)]
  · rw [getF_bump_apart (by decide) (by decide), getF_bump_apart (by decide) (by decide), last _ (by decide) (by decide)]
  · exact getF_bump_if_apart (by decide) (by decide) ..
  · rw [getF_bump_if_apart (by decide) (by decide), getF_bump_apart (by decide) (by decide), getF_bump_apart (by decide) (by decide),
      last _ (by decide) (by decide)]

/-- A PPU job writes its list and counts, and the job goes on. -/
theorem ppuStep_goes {s : State} {j : FusJob} (hj : s.fus.job = some j) (h : passesAll s j.part (ppuUses s j)) :
    goesOn s (if dF (ppuRaw s j) 0 18 1 = 1 ∨ 63 ≤ j.ppuDone then stageDone (ppuNext j) else ppuNext j) (ppuStep j s) ∧
      wroteAt s (dF (ppuRaw s j) 0x10 0 32 * 64) (ppuList s j) (ppuStep j s) ∧
      counted pgPpu Reg.PPU_JOBS 1 s (ppuStep j s) ∧ counted pgPpu Reg.PPU_NONFINITE (ppuFound s j).nonfin s (ppuStep j s) ∧
      counted pgPpu Reg.PPU_CAPPED (if (ppuFound s j).capped then 1 else 0) s (ppuStep j s) ∧
      counted pgPpu Reg.PPU_TRUNC (if (ppuFound s j).trunc then 1 else 0) s (ppuStep j s) := by
  obtain ⟨x, e⟩ := ppuStep_passes h
  rw [e]
  unfold ppuAfter
  have hg := goesOn_jobStore hj x (dF (ppuRaw s j) 0x10 0 32 * 64) (ppuList s j)
  have hw := jobStore_wrote_charged j (dF (ppuRaw s j) 0x10 0 32 * 64) (ppuList s j) x s
  have hr (r : Row) (hq : quiet (fieldAddr pgPpu r 0 0)) (hh : fieldAddr pgPpu r 0 0 < 0x50000000) :
      getF (jobStore j (dF (ppuRaw s j) 0x10 0 32 * 64) (ppuList s j) { s with acct := x }) pgPpu r = getF s pgPpu r :=
    getF_jobStore hq hh ..
  generalize jobStore j (dF (ppuRaw s j) 0x10 0 32 * 64) (ppuList s j) { s with acct := x } = t at hg hw hr ⊢
  obtain ⟨hg', hm⟩ := goesOn_report hg (ppuCounted_keeps (by decide) (ppuFound s j) t)
  obtain ⟨hjobs, hnon, hcap, htrunc⟩ := ppuCounted_shows (ppuFound s j) t
  obtain ⟨hgo, hmem, hregs⟩ := ppuEnds_goes hg' (dF (ppuRaw s j) 0 18 1 = 1 ∨ 63 ≤ j.ppuDone)
  exact ⟨hgo, wroteAt_same rfl (hmem.trans hm) hw, counted_read (hr _ (by decide) (by decide)) (hregs _ (by decide)) hjobs,
    counted_read (hr _ (by decide) (by decide)) (hregs _ (by decide)) hnon, counted_read (hr _ (by decide) (by decide)) (hregs _ (by decide)) hcap,
    counted_read (hr _ (by decide) (by decide)) (hregs _ (by decide)) htrunc⟩

/-! ### ALIGN (R248, R249) -/

/-- The state blocks, the points and the drops of an alignment. -/
def alnBlocks (s : State) (j : FusJob) : List (List Byte × Nat) := (List.range 16).map (stateBlock s j (lateSlots s j))
def alnPoints (s : State) (j : FusJob) : List Pt := (alignPoints s j).1.take (getF s pgAln Reg.ALN_PT_MAX)
def alnDrop (s : State) (j : FusJob) : Nat := (alignPoints s j).2 + ((alignPoints s j).1.length - (alnPoints s j).length)

/-- The alignment's output. -/
def alnBytes (s : State) (j : FusJob) : List Byte :=
  leBytes 4 (alnPoints s j).length ++ leBytes 4 (alnDrop s j) ++ leBytes 8 (unsint 64 j.tc) ++ leBytes 2 (maskOf (lateSlots s j)) ++
    leBytes 2 (maskOf ((List.range 16).filter (fun k => (((alnBlocks s j).getD k ([], 0)).2).testBit 1))) ++ leBytes 1 (if j.tcOk then 1 else 0) ++
    List.replicate 43 0 ++ (alnBlocks s j).flatMap (fun b => b.1) ++
    (alnPoints s j).flatMap (fun p => wBytes p.x ++ wBytes p.y ++ wBytes p.z ++ leBytes 1 p.inten ++ leBytes 1 p.slot ++ [0, 0])

def alnUses (s : State) (j : FusJob) : List MemAcc := slotReads s j ++ [⟨true, 0, fjAlnOut j.raw * 64, (alnBytes s j).length⟩]

/-- Is the slot of EGO's prediction valid. -/
def alnPredOk (s : State) (j : FusJob) : Bool := (((alnBlocks s j).getD (getF s pgEgo Reg.EGO_PRED) ([], 0)).2).testBit 0

/-- Each late slot counts as a timeout and is recorded. -/
def alnLate (j : FusJob) (l : List Nat) (s : State) : State :=
  l.foldl (fun s _ => recordPart pgAln 0x4B j.part (bump pgAln Reg.ALN_TIMEOUTS 1 s)) s

/-- What ALIGN writes and counts once its accesses are charged. -/
def alnWritten (s : State) (j : FusJob) (t : State) : State :=
  bump pgAln Reg.ALN_PT_DROP (alnDrop s j) (jobStore j (fjAlnOut j.raw * 64) (alnBytes s j) (alnLate j (lateSlots s j) t))

theorem alignEnd_eq (j : FusJob) (s : State) : alignEnd j s =
    withAccs pgAln j (alnUses s j) (fun t => stageEnds (modFus (fun x => { x with predOk := alnPredOk s j }) (alnWritten s j t))) s := (rfl)

theorem alnLate_keeps {K : Nat} (hK : K &&& 6149 = 0) (j : FusJob) (l : List Nat) (s : State) : Keeps K s (alnLate j l s) :=
  keeps_foldl (Keeps.refl K s) fun _ _ h => recordPart_keeps _ _ _ hK (bump_keeps _ _ _ (keeps_sub hK rfl) h)

theorem alnLate_counts (j : FusJob) (l : List Nat) (s : State) : counted pgAln Reg.ALN_TIMEOUTS l.length s (alnLate j l s) := by
  induction l generalizing s with
  | nil => exact counted_zero rfl s
  | cons k r ih =>
    have h := ih (recordPart pgAln 0x4B j.part (bump pgAln Reg.ALN_TIMEOUTS 1 s))
    have e : counted pgAln Reg.ALN_TIMEOUTS 1 s (recordPart pgAln 0x4B j.part (bump pgAln Reg.ALN_TIMEOUTS 1 s)) :=
      (getF_recordPart (by decide) ..).trans (counted_bump rfl rfl 1 s)
    unfold counted at h e ⊢
    rw [e, satAdd_satAdd, Nat.add_comm] at h
    exact h

theorem alnLate_drop (j : FusJob) (l : List Nat) (s : State) : getF (alnLate j l s) pgAln Reg.ALN_PT_DROP = getF s pgAln Reg.ALN_PT_DROP :=
  List.foldlRecOn (motive := fun t : State => getF t pgAln Reg.ALN_PT_DROP = getF s pgAln Reg.ALN_PT_DROP) _ _ rfl fun _ h _ _ =>
    (getF_recordPart (by decide) ..).trans ((getF_bump_apart (by decide) (by decide) ..).trans h)

theorem alnLate_code (j : FusJob) {l : List Nat} (h : l ≠ []) (s : State) : codeIn (alnLate j l s) pgAln 0x4B := by
  obtain ⟨r, k, rfl⟩ := List.eq_nil_or_concat l |>.resolve_left h
  rw [List.concat_eq_append, alnLate, List.foldl_append]
  exact codeIn_recordAt (p := pgAln) (code := 0x4B) (by decide) (by decide) (by decide) _ _ _

/-- ALIGN's counts and output, whatever the accounts. -/
theorem alnWritten_shows (s : State) (j : FusJob) (x : Acct) :
    wroteAt s (fjAlnOut j.raw * 64) (alnBytes s j) (alnWritten s j { s with acct := x }) ∧
      counted pgAln Reg.ALN_PT_DROP (alnDrop s j) s (alnWritten s j { s with acct := x }) ∧
      counted pgAln Reg.ALN_TIMEOUTS (lateSlots s j).length s (alnWritten s j { s with acct := x }) ∧
      (lateSlots s j ≠ [] → codeIn (alnWritten s j { s with acct := x }) pgAln 0x4B) := by
  unfold alnWritten
  refine ⟨?_, ?_, ?_, fun h => ?_⟩
  · refine wroteAt_same (s' := alnLate j (lateSlots s j) { s with acct := x }) ?_ (bump_mem ..) (jobStore_wrote j _ _ _)
    exact (alnLate_keeps (K := 2) (by decide) j _ { s with acct := x }).frame .mem rfl
  · refine counted_read ?_ rfl (counted_bump rfl rfl _ _)
    rw [getF_jobStore (by decide) (by decide)]
    exact alnLate_drop j _ { s with acct := x }
  · refine counted_read (s' := { s with acct := x }) rfl ?_ (alnLate_counts j (lateSlots s j) _)
    exact (getF_bump_apart (by decide) (by decide) ..).trans (getF_jobStore (by decide) (by decide) ..)
  · exact codeIn_setF (by decide) _ (codeIn_jobStore (by decide) _ _ _ (alnLate_code j h _))

theorem alnWritten_goes {s : State} {j : FusJob} (hj : s.fus.job = some j) (x : Acct) : goesOn s j (alnWritten s j { s with acct := x }) :=
  goesOn_after hj x (bump_keeps _ _ _ (by decide) (jobStore_keeps _ _ _ (by decide) (alnLate_keeps (by decide) j _ _)))

/-- ALIGN's end: its output is written, what it drops and what is late is counted, and the job goes on. -/
theorem alignEnd_goes {s : State} {j : FusJob} (hj : s.fus.job = some j) (h : passesAll s j.part (alnUses s j)) :
    samesBut (report ++ [.mem, .acct, .fus]) s (alignEnd j s) ∧
      (alignEnd j s).fus = { s.fus with job := some (stageDone j), predOk := alnPredOk s j } ∧
      wroteAt s (fjAlnOut j.raw * 64) (alnBytes s j) (alignEnd j s) ∧
      counted pgAln Reg.ALN_PT_DROP (alnDrop s j) s (alignEnd j s) ∧
      counted pgAln Reg.ALN_TIMEOUTS (lateSlots s j).length s (alignEnd j s) ∧ (lateSlots s j ≠ [] → codeIn (alignEnd j s) pgAln 0x4B) := by
  obtain ⟨x, e⟩ := withAccs_passes h pgAln (fun t => stageEnds (modFus (fun x => { x with predOk := alnPredOk s j }) (alnWritten s j t)))
  obtain ⟨hs, hf⟩ := alnWritten_goes hj x
  obtain ⟨hw, hd, ht, hc⟩ := alnWritten_shows s j x
  rw [alignEnd_eq, e]
  generalize alnWritten s j { s with acct := x } = t at hs hf hw hd ht hc ⊢
  have regs : (stageEnds (modFus (fun x => { x with predOk := alnPredOk s j }) t)).regs = t.regs := rfl
  refine ⟨samesBut_modFus (by decide) (samesBut_modFus (by decide) hs _) _, ?_, wroteAt_stageEnds (wroteAt_same (u := t) rfl rfl hw),
    counted_regs regs hd, counted_regs regs ht, fun hl => codeIn_congr regs (hc hl)⟩
  simp [stageEnds, modJob, modFus, hf, stageDone]

/-! ### OUT (R261) -/

/-- The batch of a job: its header and the record of each track that it carries. -/
def jobBatch (s : State) (j : FusJob) : List Byte := batchHeader s j (batchTracks s j).length ++ (batchTracks s j).flatMap (trackRecord s j)

/-- The write of the batch. -/
def outUses (s : State) (j : FusJob) : List MemAcc := [⟨true, 0, fjBatch j.raw * 64, (jobBatch s j).length⟩]

theorem outStage_eq (j : FusJob) (s : State) :
    outStage j s = withAccs pgCol j (outUses s j) (fun t => stageEnds (jobStore j (fjBatch j.raw * 64) (jobBatch s j) t)) s := (rfl)

theorem outStage_goes {s : State} {j : FusJob} (hj : s.fus.job = some j) (h : passesAll s j.part (outUses s j)) :
    goesOn s (stageDone j) (outStage j s) ∧ wroteAt s (fjBatch j.raw * 64) (jobBatch s j) (outStage j s) := by
  obtain ⟨x, e⟩ := withAccs_passes h pgCol (fun t => stageEnds (jobStore j (fjBatch j.raw * 64) (jobBatch s j) t))
  rw [outStage_eq, e]
  exact ⟨goesOn_stageEnds (goesOn_jobStore hj x _ _), wroteAt_stageEnds (jobStore_wrote_charged j _ _ x s)⟩

end Sys2Proof.Machine
end

section
/-! PROOFS. Chapter 09: the stages of a job that make no store: EGO, ASSIGN and TRACK (R252 to R260, R264). -/

namespace Sys2Proof.Machine

open Sys2Proof

/-! ### EGO (R252 to R254) -/

/-- The outcome of an EGO over an interval of `t` seconds, and the motion. -/
def egoSeen (s : State) (j : FusJob) (t : Word) : Nat × (Word × Word × Word) :=
  if j.work.ref.length < getF s pgEgo Reg.EGO_REF_MIN then (0, egoPred s j t)
  else register s j.work.ref (egoPoints s (outPoints s (fjAlnOut j.raw * 64))) (egoPred s j t)

/-- The working copy that an EGO leaves. -/
def egoWork (s : State) (j : FusJob) (t : Word) : FusState :=
  let o := egoSeen s j t
  let m := o.2
  { j.work with
    motion := [m.1, m.2.1, m.2.2, divF m.1 t, divF m.2.1 t, divF m.2.2 t]
    ref := newRef s j.work.ref (egoPoints s (outPoints s (fjAlnOut j.raw * 64))) m
    ring := (j.work.ring ++ [(j.tc, m.1, m.2.1, m.2.2)]).drop (j.work.ring.length - 7)
    since := j.work.since + 1
    egoTc := some j.tc
    failRun := if o.1 = 1 then 0 else if o.1 = 2 then Nat.min 15 (j.work.failRun + 1) else j.work.failRun
    status := o.1 }

/-- A failed registration counts and is recorded. -/
def egoCounted (j : FusJob) (o : Nat) (s : State) : State :=
  if o = 2 then recordPart pgEgo 0x4C j.part (bump pgEgo Reg.EGO_FAILS 1 s) else s

/-- What EGO does over an interval, in ns, drawn in `t`. -/
def egoRun (j : FusJob) (i : Int) (t : State) : State :=
  stageEnds (modJob (fun k => { k with work := egoWork t j (secF i) }) (egoCounted j (egoSeen t j (secF i)).1 t))

/-- The interval since the last committed common instant, or a free one (log entry 34). -/
def egoInterval (j : FusJob) (s : State) : Int × State :=
  match j.work.egoTc with | some t => (j.tc - t, s) | none => let r := drawFree 62 s; ((r.1 : Int), r.2)

theorem egoStage_eq (j : FusJob) (s : State) : egoStage j s =
    withAccs pgEgo j (alnReads s j) (fun t => egoRun j (egoInterval j t).1 (egoInterval j t).2) s := (rfl)

section Reads

variable {s t : State} (hr : t.regs = s.regs) (hm : t.mem = s.mem)

include hm in
theorem outPoints_congr (a : Nat) : outPoints t a = outPoints s a := by
  unfold outPoints memF memNat
  simp only [memBytes_congr hm]

include hr in
theorem egoPoints_congr (l : List Pt) : egoPoints t l = egoPoints s l := by
  unfold egoPoints
  simp only [getF_congr hr]

include hr hm in
theorem egoPred_congr (j : FusJob) (d : Word) : egoPred t j d = egoPred s j d := by
  unfold egoPred flag memF memNat
  simp only [getF_congr hr, memBytes_congr hm]

include hr in
theorem gridCell_congr (x y : Word) : gridCell t x y = gridCell s x y := by
  unfold gridCell
  simp only [getF_congr hr]

include hr in
theorem cellCentre_congr (i k : Nat) : cellCentre t i k = cellCentre s i k := by
  unfold cellCentre
  simp only [getF_congr hr]

include hr in
theorem candPose_congr (m : Word × Word × Word) (a b c : Int) : candPose t m a b c = candPose s m a b c := by
  unfold candPose
  simp only [getF_congr hr]

include hr in
theorem register_congr (ref : List (Nat × Byte)) (l : List Pt) (m : Word × Word × Word) : register t ref l m = register s ref l m := by
  unfold register egoScore
  simp only [getF_congr hr, candPose_congr hr, gridCell_congr hr]

include hr in
theorem newRef_congr (ref : List (Nat × Byte)) (l : List Pt) (m : Word × Word × Word) : newRef t ref l m = newRef s ref l m := by
  unfold newRef
  simp only [getF_congr hr, cellCentre_congr hr, gridCell_congr hr]

include hr hm in
theorem egoSeen_congr (j : FusJob) (d : Word) : egoSeen t j d = egoSeen s j d := by
  unfold egoSeen
  rw [getF_congr hr, egoPred_congr hr hm, outPoints_congr hm, egoPoints_congr hr, register_congr hr]

include hr hm in
theorem egoWork_congr (j : FusJob) (d : Word) : egoWork t j d = egoWork s j d := by
  unfold egoWork
  dsimp only
  rw [egoSeen_congr hr hm, outPoints_congr hm, egoPoints_congr hr, newRef_congr hr]

end Reads

theorem egoCounted_keeps {K : Nat} (hK : K &&& 6149 = 0) (j : FusJob) (o : Nat) (s : State) : Keeps K s (egoCounted j o s) := by
  unfold egoCounted
  split
  · exact recordPart_keeps _ _ _ hK (bump_keeps _ _ _ (keeps_sub hK rfl) (Keeps.refl K s))
  · exact Keeps.refl K s

theorem egoCounted_shows (j : FusJob) (o : Nat) (s : State) :
    quietBut [pageBase pgEgo + 0x9C] s (egoCounted j o s) ∧ counted pgEgo Reg.EGO_FAILS (if o = 2 then 1 else 0) s (egoCounted j o s) ∧
      (o = 2 → codeIn (egoCounted j o s) pgEgo 0x4C) := by
  unfold egoCounted
  split
  · exact ⟨quietBut_recordPart _ _ _ (quietBut_bump _ (by decide) (quietBut_refl _ s)),
      (getF_recordPart (by decide) ..).trans (counted_bump rfl rfl 1 s),
      fun _ => codeIn_recordAt (p := pgEgo) (code := 0x4C) (by decide) (by decide) (by decide) _ _ _⟩
  · exact ⟨quietBut_refl _ s, counted_zero rfl s, fun h => absurd h ‹_›⟩

/-- An EGO over an interval of `d` seconds goes on with its working copy, and reaches only its own counter. -/
def egoMoved (s : State) (j : FusJob) (d : Word) (u : State) : Prop :=
  u.mem = s.mem ∧ quietBut [pageBase pgEgo + 0x9C] s u ∧ counted pgEgo Reg.EGO_FAILS (if (egoSeen s j d).1 = 2 then 1 else 0) s u ∧
    ((egoSeen s j d).1 = 2 → codeIn u pgEgo 0x4C) ∧ goesOn s (stageDone { j with work := egoWork s j d }) u

theorem egoRun_moves {s t : State} {j : FusJob} (hg : goesOn s j t) (hr : t.regs = s.regs) (hm : t.mem = s.mem) (i : Int) :
    egoMoved s j (secF i) (egoRun j i t) := by
  obtain ⟨hq, hc, hl⟩ := egoCounted_shows j (egoSeen s j (secF i)).1 t
  obtain ⟨hg', hm'⟩ := goesOn_report hg (egoCounted_keeps (by decide) j (egoSeen s j (secF i)).1 t)
  unfold egoRun egoMoved
  rw [egoSeen_congr hr hm, egoWork_congr hr hm]
  generalize egoCounted j (egoSeen s j (secF i)).1 t = u at hq hc hl hg' hm' ⊢
  have regs : (stageEnds (modJob (fun k => { k with work := egoWork s j (secF i) }) u)).regs = u.regs := rfl
  refine ⟨hm'.trans hm, quietBut_same regs fun a ha hn => (hq a ha hn).trans (regW_congr hr a), ?_,
    fun h => codeIn_congr regs (hl h), goesOn_stageEnds (goesOn_modJob (fun k => { k with work := egoWork s j (secF i) }) hg')⟩
  exact counted_regs regs (counted_read (getF_congr hr ..) rfl hc)

theorem goesOn_drawFree {s t : State} {k : FusJob} (w : Nat) (h : goesOn s k t) : goesOn s k (drawFree w t).2 :=
  (goesOn_report h (keepsP_get (drawFree_keeps w (by decide) (Keeps.refl _ t)))).1

theorem egoStage_moves {s : State} {j : FusJob} (hj : s.fus.job = some j) (h : passesAll s j.part (alnReads s j)) :
    (∀ t, j.work.egoTc = some t → egoMoved s j (secF (j.tc - t)) (egoStage j s)) ∧
      (j.work.egoTc = none → ∃ i : Int, egoMoved s j (secF i) (egoStage j s)) := by
  obtain ⟨x, e⟩ := withAccs_passes h pgEgo (fun t => egoRun j (egoInterval j t).1 (egoInterval j t).2)
  rw [egoStage_eq, e]
  constructor
  · intro t ht
    simp only [egoInterval, ht]
    exact egoRun_moves (goesOn_charged hj x) rfl rfl _
  · intro hn
    simp only [egoInterval, hn]
    exact ⟨_, egoRun_moves (goesOn_drawFree 62 (goesOn_charged hj x)) rfl rfl _⟩

/-! ### TRACK (R259, R260, R264) -/

/-- The tracks that live on, and the births after them: tracks, next identifier, refusals. -/
def trkBorn (s : State) (j : FusJob) : List Track × Nat × Nat :=
  births s j.dets (j.work.tracks.filterMap (stepTrack s (deltaF j.work j.tc) j.dets)) j.work.nextId

/-- Refused births count and are recorded. -/
def trkCounted (j : FusJob) (n : Nat) (s : State) : State :=
  if n = 0 then s else recordPart pgTrk 0x4D j.part (bump pgTrk Reg.TRK_FULL n s)

/-- The job after TRACK. -/
def trkJob (b : List Track × Nat × Nat) (raw : Nat) (k : FusJob) : FusJob :=
  { k with
    work := { k.work with tracks := b.1, nextId := b.2.1, ts := some k.tc, since := 0 }
    trkFull := k.trkFull || decide (0 < b.2.2)
    rawStep := some raw }

theorem trackStage_eq (j : FusJob) (s : State) : trackStage j s =
    stageEnds (modJob (trkJob (trkBorn s j) (rawStep (trkCounted j (trkBorn s j).2.2 s) j.usable j.work.failRun))
      (trkCounted j (trkBorn s j).2.2 s)) := (rfl)

theorem any_eq_of_mem {α : Type} {l : List α} {f g : α → Bool} (h : ∀ x ∈ l, f x = g x) : l.any f = l.any g := by
  rw [Bool.eq_iff_iff, List.any_eq_true, List.any_eq_true]
  exact exists_congr fun x => and_congr_right fun hx => by rw [h x hx]

/-- The coverage word of a stream stands in ALN, below the pages of the trackers. -/
theorem coverage_word {k : Nat} (h : k < 24) :
    quiet (fieldAddr pgAln Reg.ALN_COV_SECTORS k 0) ∧ fieldAddr pgAln Reg.ALN_COV_SECTORS k 0 ∉ [pageBase pgTrk + 0x7C] := by
  simp only [quiet, fieldAddr, pageBase, Reg.ALN_COV_SECTORS, List.mem_singleton]
  omega

section RawStep

variable {s t : State} (hi : t.ing = s.ing) (hq : quietBut [pageBase pgTrk + 0x7C] s t)

include hq in
theorem coverage_quiet {k : Nat} (h : k < 24) : getFi t pgAln Reg.ALN_COV_SECTORS k = getFi s pgAln Reg.ALN_COV_SECTORS k ∧
    getFi t pgAln Reg.ALN_COV_MOD k = getFi s pgAln Reg.ALN_COV_MOD k := by
  have e := hq _ (coverage_word h).1 (coverage_word h).2
  exact ⟨congrArg (fun w : Word => bitsOf w.toNat Reg.ALN_COV_SECTORS.lo Reg.ALN_COV_SECTORS.w) e,
    congrArg (fun w : Word => bitsOf w.toNat Reg.ALN_COV_MOD.lo Reg.ALN_COV_MOD.w) e⟩

include hi hq in
theorem sectorMods_quiet (usable k : Nat) : sectorMods t usable k = sectorMods s usable k := by
  have enabled : (List.range 24).filter (fun sm => strmKind t sm ≠ 0 && (getFi t pgAln Reg.ALN_COV_SECTORS sm).testBit k) =
      (List.range 24).filter (fun sm => strmKind s sm ≠ 0 && (getFi s pgAln Reg.ALN_COV_SECTORS sm).testBit k) :=
    List.filter_congr fun sm h => by
      rw [(coverage_quiet hq (List.mem_range.1 h)).1, strmKind, strmKind, strmF, strmF, strmF, strmF, strmOf_congr hi]
  have mods (l : List Nat) (hl : ∀ sm ∈ l, sm < 24) :
      (List.range 3).filter (fun m => l.any (fun sm => getFi t pgAln Reg.ALN_COV_MOD sm = m + 1)) =
        (List.range 3).filter (fun m => l.any (fun sm => getFi s pgAln Reg.ALN_COV_MOD sm = m + 1)) :=
    List.filter_congr fun m _ => any_eq_of_mem fun sm h => by rw [(coverage_quiet hq (hl sm h)).2]
  unfold sectorMods
  dsimp only
  rw [enabled, mods _ fun sm h => List.mem_range.1 (List.mem_filter.1 h).1,
    mods _ fun sm h => List.mem_range.1 (List.mem_filter.1 (List.mem_filter.1 h).1).1]

include hi hq in
/-- The raw step reads nothing that TRACK counts or records. -/
theorem rawStep_quiet (hf : t.fus = s.fus) (usable n : Nat) : rawStep t usable n = rawStep s usable n := by
  have failN : getF t pgEgo Reg.EGO_FAIL_N = getF s pgEgo Reg.EGO_FAIL_N := getF_quietBut hq (by decide) (by decide)
  have predEn : getF t pgEgo Reg.EGO_PRED_EN = getF s pgEgo Reg.EGO_PRED_EN := getF_quietBut hq (by decide) (by decide)
  have unseen : (List.range 24).any (fun sm => getFi t pgAln Reg.ALN_COV_MOD sm ≠ 0 && !usable.testBit sm) =
      (List.range 24).any (fun sm => getFi s pgAln Reg.ALN_COV_MOD sm ≠ 0 && !usable.testBit sm) :=
    any_eq_of_mem fun sm h => by rw [(coverage_quiet hq (List.mem_range.1 h)).2]
  unfold rawStep flag
  rw [funext (sectorMods_quiet hi hq usable), failN, predEn, unseen, hf]

end RawStep

theorem trkCounted_keeps {K : Nat} (hK : K &&& 6149 = 0) (j : FusJob) (n : Nat) (s : State) : Keeps K s (trkCounted j n s) := by
  unfold trkCounted
  split
  · exact Keeps.refl K s
  · exact recordPart_keeps _ _ _ hK (bump_keeps _ _ _ (keeps_sub hK rfl) (Keeps.refl K s))

theorem trkCounted_shows (j : FusJob) (n : Nat) (s : State) :
    quietBut [pageBase pgTrk + 0x7C] s (trkCounted j n s) ∧ counted pgTrk Reg.TRK_FULL n s (trkCounted j n s) ∧
      (n ≠ 0 → codeIn (trkCounted j n s) pgTrk 0x4D) := by
  unfold trkCounted
  split
  next h => exact ⟨quietBut_refl _ s, h ▸ counted_zero rfl s, fun hn => absurd h hn⟩
  · exact ⟨quietBut_recordPart _ _ _ (quietBut_bump _ (by decide) (quietBut_refl _ s)),
      (getF_recordPart (by decide) ..).trans (counted_bump rfl rfl n s),
      fun _ => codeIn_recordAt (p := pgTrk) (code := 0x4D) (by decide) (by decide) (by decide) _ _ _⟩

/-- TRACK makes no access: the job goes on with its tracks and its raw step. -/
theorem trackStage_goes {s : State} {j : FusJob} (hj : s.fus.job = some j) :
    (trackStage j s).mem = s.mem ∧ quietBut [pageBase pgTrk + 0x7C] s (trackStage j s) ∧
      counted pgTrk Reg.TRK_FULL (trkBorn s j).2.2 s (trackStage j s) ∧ ((trkBorn s j).2.2 ≠ 0 → codeIn (trackStage j s) pgTrk 0x4D) ∧
      goesOn s (stageDone (trkJob (trkBorn s j) (rawStep s j.usable j.work.failRun) j)) (trackStage j s) := by
  have k := trkCounted_keeps (K := others report) (by decide) j (trkBorn s j).2.2 s
  obtain ⟨hq, hc, hl⟩ := trkCounted_shows j (trkBorn s j).2.2 s
  obtain ⟨hg, hm⟩ := goesOn_report (goesOn_keeps hj (Keeps.refl _ s)) k
  rw [trackStage_eq, rawStep_quiet (k.frame .ing (by decide)) hq (k.frame .fus (by decide))]
  generalize trkCounted j (trkBorn s j).2.2 s = t at hq hc hl hg hm ⊢
  have regs : (stageEnds (modJob (trkJob (trkBorn s j) (rawStep s j.usable j.work.failRun)) t)).regs = t.regs := rfl
  exact ⟨hm, quietBut_same regs hq, counted_regs regs hc, fun h => codeIn_congr regs (hl h),
    goesOn_stageEnds (goesOn_modJob (trkJob (trkBorn s j) (rawStep s j.usable j.work.failRun)) hg)⟩

/-! ### ASSIGN (R256 to R258) -/

/-- Is the list of detections valid, and how many ASSIGN reads. -/
def asgValid (s : State) (j : FusJob) : Bool := (memNat s (fjDetIn j.raw * 64 + 8) 1).testBit 2
def asgCount (s : State) (j : FusJob) : Nat :=
  if asgValid s j then Nat.min (memNat s (fjDetIn j.raw * 64) 2) (getF s pgAsg Reg.ASG_MAX_DET) else 0

def asgUses (s : State) (j : FusJob) : List MemAcc :=
  [⟨false, 0, fjDetIn j.raw * 64, 64⟩, ⟨false, 0, fjDetIn j.raw * 64 + 64, 32 * asgCount s j⟩]

/-- The detections read, `n` of them. -/
def asgDets (s : State) (j : FusJob) (n : Nat) : List Det :=
  (List.range n).map (fun i => ⟨memBytes s (fjDetIn j.raw * 64 + 64 + 32 * i) 32, none, 0xFFFF⟩)

/-- Tracks at the job's common instant. -/
def asgPredicted (s : State) (j : FusJob) (l : List Track) : List Track :=
  l.map (predictTrack s (deltaF j.work j.tc) (composed j.work j.tc))

/-- Each detection's candidates among the tracks, the edges kept of them, and their components, solved. -/
def asgCands (s : State) (l : List Track) (dets : List Det) : List (List Edge) := dets.zipIdx.map (fun d => candEdges s l d.2 d.1)
def asgEdges (s : State) (l : List Track) (dets : List Det) : List Edge := (asgCands s l dets).flatMap (fun l => l.take 64)
def asgSolved (s : State) (l : List Track) (dets : List Det) : List (List (Nat × Nat × Nat) × Bool) :=
  (components (asgEdges s l dets).length (asgEdges s l dets)).map (solveComp s)
/-- The number of components taken greedily. -/
def asgBig (s : State) (l : List Track) (dets : List Det) : Nat := ((asgSolved s l dets).filter (fun r => r.2)).length

/-- The detections with their slots. -/
def asgMatched (pairs : List (Nat × Nat × Nat)) (dets : List Det) : List Det :=
  dets.zipIdx.map (fun d => match pairs.find? (fun x => x.1 = d.2) with | some x => { d.1 with slot := some x.2.1, cost := x.2.2 } | none => d.1)

/-- The tracks are out of date and flushed. -/
def asgFlush (j : FusJob) : Bool := decide (8 < j.work.since) && j.work.ts.isSome

/-- The candidates beyond the edges kept. -/
def asgCut (s : State) (l : List Track) (dets : List Det) : Nat := sumOf ((asgCands s l dets).map (fun l => l.length - 64))

/-- What ASSIGN counts: edges kept, candidates cut, components taken greedily. -/
def asgCounted (edges cut big : Nat) (t : State) : State :=
  bump pgAsg Reg.ASG_GREEDY_COMP big (bump pgAsg Reg.ASG_GATE_TRUNC cut (setF pgAsg Reg.ASG_EDGES edges t))

/-- The job after ASSIGN. -/
def asgJob (s : State) (l : List Track) (dets : List Det) (flush valid : Bool) (k : FusJob) : FusJob :=
  { k with
    work := { k.work with tracks := l }
    dets := asgMatched ((asgSolved s l dets).flatMap (fun r => r.1)) dets
    subopt := k.subopt || decide (0 < asgBig s l dets)
    flushed := k.flushed || flush
    detsOk := valid }

/-- ASSIGN of a detection list with the tracks `l` of the job. -/
def asgRun (s : State) (l : List Track) (dets : List Det) (flush valid : Bool) : State :=
  stageEnds (modJob (asgJob s l dets flush valid) (asgCounted (asgEdges s l dets).length (asgCut s l dets) (asgBig s l dets) s))

/-- A flush counts. -/
def asgFlushed (j : FusJob) (s : State) : State := if asgFlush j then bump pgTrk Reg.TRK_FLUSHES 1 s else s

/-- ASSIGN once its accesses are charged. -/
def asgAfter (j : FusJob) (n : Nat) (valid : Bool) (t : State) : State :=
  asgRun (asgFlushed j t) (asgPredicted (asgFlushed j t) j (if asgFlush j then [] else j.work.tracks)) (asgDets t j n) (asgFlush j) valid

theorem assignStage_eq (j : FusJob) (s : State) :
    assignStage j s = withAccs pgAsg j (asgUses s j) (asgAfter j (asgCount s j) (asgValid s j)) s := by
  unfold assignStage asgUses asgCount asgValid asgAfter asgFlushed asgRun asgCounted asgJob asgBig asgCut asgSolved
    asgEdges asgCands asgPredicted asgMatched asgDets asgFlush
  rfl

/-- With no track there is no edge, no component and no match. -/
theorem asgEdges_nil (s : State) (dets : List Det) : asgEdges s [] dets = [] := by
  have e (i : Nat) (d : Det) : candEdges s [] i d = [] := rfl
  simp only [asgEdges, asgCands, e, List.flatMap_map, List.take_nil, List.flatMap_eq_nil_iff, implies_true]

theorem asgSolved_nil (s : State) (dets : List Det) : asgSolved s [] dets = [] := by
  rw [asgSolved, asgEdges_nil]
  rfl

theorem asgMatched_nil (dets : List Det) : asgMatched [] dets = dets := by
  simp only [asgMatched, List.find?_nil]
  exact List.zipIdx_map_fst 0 dets

theorem asgJob_flushed (s : State) (dets : List Det) (valid : Bool) (k : FusJob) : asgJob s [] dets true valid k =
    { k with work := { k.work with tracks := [] }, dets := dets, flushed := true, detsOk := valid } := by
  simp only [asgJob, asgBig, asgSolved_nil, List.flatMap_nil, asgMatched_nil, List.filter_nil, List.length_nil, Nat.lt_irrefl, decide_false,
    Bool.or_false, Bool.or_true]

section Reads

variable {s t : State} (hr : t.regs = s.regs)

include hr in
theorem asgPredicted_congr (j : FusJob) (l : List Track) : asgPredicted t j l = asgPredicted s j l := by
  unfold asgPredicted predictTrack trkW
  simp only [getF_congr hr]

include hr in
theorem asgCands_congr (l : List Track) (dets : List Det) : asgCands t l dets = asgCands s l dets := by
  unfold asgCands candEdges pairCost flag
  simp only [getF_congr hr]

include hr in
theorem asgSolved_congr (l : List Track) (dets : List Det) : asgSolved t l dets = asgSolved s l dets := by
  have e : solveComp t = solveComp s := by
    funext es
    unfold solveComp
    simp only [getF_congr hr]
  unfold asgSolved asgEdges
  rw [asgCands_congr hr, e]

theorem asgDets_congr (hm : t.mem = s.mem) (j : FusJob) (n : Nat) : asgDets t j n = asgDets s j n := by
  unfold asgDets
  simp only [memBytes_congr hm]

end Reads

theorem asgCounted_shows (edges cut big : Nat) (s : State) :
    getF (asgCounted edges cut big s) pgAsg Reg.ASG_EDGES = edges % 2 ^ 18 ∧ counted pgAsg Reg.ASG_GATE_TRUNC cut s (asgCounted edges cut big s) ∧
      counted pgAsg Reg.ASG_GREEDY_COMP big s (asgCounted edges cut big s) ∧
      getF (asgCounted edges cut big s) pgTrk Reg.TRK_FLUSHES = getF s pgTrk Reg.TRK_FLUSHES ∧ (asgCounted edges cut big s).mem = s.mem := by
  unfold asgCounted
  refine ⟨?_, ?_, ?_, ?_, rfl⟩
  · rw [getF_bump_apart (by decide) (by decide), getF_bump_apart (by decide) (by decide), getF_setF_same (by decide)]
    rfl
  · exact counted_read (getF_setF_apart (by decide) (by decide) ..) (getF_bump_apart (by decide) (by decide) ..) (counted_bump rfl rfl _ _)
  · exact counted_read ((getF_bump_apart (by decide) (by decide) ..).trans (getF_setF_apart (by decide) (by decide) ..)) rfl (counted_bump rfl rfl _ _)
  · rw [getF_bump_page (by decide) (by decide) (by decide), getF_bump_page (by decide) (by decide) (by decide),
      getF_setF_page (by decide) (by decide) (by decide)]

theorem asgRun_shows (s : State) (l : List Track) (dets : List Det) (flush valid : Bool) :
    (asgRun s l dets flush valid).mem = s.mem ∧ getF (asgRun s l dets flush valid) pgAsg Reg.ASG_EDGES = (asgEdges s l dets).length % 2 ^ 18 ∧
      counted pgAsg Reg.ASG_GATE_TRUNC (asgCut s l dets) s (asgRun s l dets flush valid) ∧
      counted pgAsg Reg.ASG_GREEDY_COMP (asgBig s l dets) s (asgRun s l dets flush valid) ∧
      getF (asgRun s l dets flush valid) pgTrk Reg.TRK_FLUSHES = getF s pgTrk Reg.TRK_FLUSHES := by
  obtain ⟨he, hc, hb, hf, hm⟩ := asgCounted_shows (asgEdges s l dets).length (asgCut s l dets) (asgBig s l dets) s
  have regs : (asgRun s l dets flush valid).regs = (asgCounted (asgEdges s l dets).length (asgCut s l dets) (asgBig s l dets) s).regs :=
    (stageEnds_regs _).trans (modJob_regs _ _)
  exact ⟨(stageEnds_mem _).trans ((modJob_mem _ _).trans hm), (getF_congr regs ..).trans he,
    counted_regs regs hc, counted_regs regs hb, (getF_congr regs ..).trans hf⟩

theorem asgRun_goes {s t : State} {k : FusJob} (h : goesOn s k t) (l : List Track) (dets : List Det) (flush valid : Bool) :
    goesOn s (stageDone (asgJob t l dets flush valid k)) (asgRun t l dets flush valid) :=
  goesOn_stageEnds (goesOn_modJob (asgJob t l dets flush valid) (goesOn_report h
    (bump_keeps _ _ _ (by decide) (bump_keeps _ _ _ (by decide) (setF_keeps _ _ _ (by decide) (Keeps.refl _ t))))).1)

/-- ASSIGN with tracks out of date flushes them, and nothing is matched. -/
theorem asgAfter_flushes {s t : State} {j : FusJob} (hg : goesOn s j t) (hr : t.regs = s.regs) (hm : t.mem = s.mem) (hf : asgFlush j = true)
    (n : Nat) (valid : Bool) :
    (asgAfter j n valid t).mem = s.mem ∧ counted pgTrk Reg.TRK_FLUSHES 1 s (asgAfter j n valid t) ∧ getF (asgAfter j n valid t) pgAsg Reg.ASG_EDGES = 0 ∧
      goesOn s (stageDone { j with work := { j.work with tracks := [] }, dets := asgDets s j n, flushed := true, detsOk := valid })
        (asgAfter j n valid t) := by
  obtain ⟨hg', hm'⟩ := goesOn_report hg (bump_keeps pgTrk Reg.TRK_FLUSHES 1 (by decide) (Keeps.refl _ t))
  have hc := counted_read (getF_congr hr ..) rfl (counted_bump rfl rfl 1 t : counted pgTrk Reg.TRK_FLUSHES 1 t _)
  have e : asgAfter j n valid t = asgRun (bump pgTrk Reg.TRK_FLUSHES 1 t) [] (asgDets s j n) true valid := by
    simp only [asgAfter, asgFlushed, hf, if_true, asgPredicted, List.map_nil, asgDets_congr hm]
  rw [e]
  generalize bump pgTrk Reg.TRK_FLUSHES 1 t = u at hg' hm' hc ⊢
  obtain ⟨hmem, hedges, -, -, hflushes⟩ := asgRun_shows u [] (asgDets s j n) true valid
  rw [asgEdges_nil] at hedges
  refine ⟨hmem.trans (hm'.trans hm), counted_read rfl hflushes hc, hedges, ?_⟩
  have h := asgRun_goes hg' [] (asgDets s j n) true valid
  rwa [asgJob_flushed] at h

/-- ASSIGN of tracks that are up to date matches the detections with the tracks predicted. -/
theorem asgAfter_matches {s t : State} {j : FusJob} (hg : goesOn s j t) (hr : t.regs = s.regs) (hm : t.mem = s.mem) (hf : asgFlush j = false)
    (n : Nat) (valid : Bool) {l : List Track} (hl : l = asgPredicted s j j.work.tracks) {dets : List Det} (hd : dets = asgDets s j n) :
    (asgAfter j n valid t).mem = s.mem ∧ getF (asgAfter j n valid t) pgAsg Reg.ASG_EDGES = (asgEdges s l dets).length % 2 ^ 18 ∧
      counted pgAsg Reg.ASG_GATE_TRUNC (asgCut s l dets) s (asgAfter j n valid t) ∧
      counted pgAsg Reg.ASG_GREEDY_COMP (asgBig s l dets) s (asgAfter j n valid t) ∧
      goesOn s (stageDone { asgJob s l dets false valid j with flushed := j.flushed }) (asgAfter j n valid t) := by
  have e : asgAfter j n valid t = asgRun t l dets false valid := by
    simp only [asgAfter, asgFlushed, hf, Bool.false_eq_true, if_false, hl, hd, asgPredicted_congr hr, asgDets_congr hm]
  have hcands := asgCands_congr hr l dets
  have hedges : asgEdges t l dets = asgEdges s l dets := by rw [asgEdges, hcands, asgEdges]
  have hbig : asgBig t l dets = asgBig s l dets := by rw [asgBig, asgSolved_congr hr, asgBig]
  have hjob : asgJob t l dets false valid j = { asgJob s l dets false valid j with flushed := j.flushed } := by
    simp only [asgJob, hbig, asgSolved_congr hr, Bool.or_false]
  have hcut : asgCut t l dets = asgCut s l dets := by rw [asgCut, hcands, asgCut]
  obtain ⟨h1, h2, h3, h4, -⟩ := asgRun_shows t l dets false valid
  rw [hedges] at h2
  rw [hcut] at h3
  rw [hbig] at h4
  rw [e, ← hjob]
  exact ⟨h1.trans hm, h2, counted_read (getF_congr hr ..) rfl h3, counted_read (getF_congr hr ..) rfl h4, asgRun_goes hg l dets false valid⟩

end Sys2Proof.Machine
end

section
/-! PROOFS. Chapter 09: the stages that store pixel by pixel, and the end of the job (R250, R251, R255, R265). -/

namespace Sys2Proof.Machine

open Sys2Proof

/-! ### What a stage's stores leave alone -/

/-- From `s` to `t` there are only stores, and none of byte `x`. -/
def storesAside (s : State) (x : Nat) (t : State) : Prop := storesOnly s t ∧ sparseGet memDefault t.mem x = sparseGet memDefault s.mem x

theorem storesAside_jobStore {s t : State} {x a : Nat} {b : List Byte} (h : storesAside s x t) (hx : x < a ∨ a + b.length ≤ x) (j : FusJob) :
    storesAside s x (jobStore j a b t) :=
  ⟨storesOnly_trans h.1 (storesOnly_storeDev a b j.part t), (storeDev_outside hx j.part t).trans h.2⟩

theorem storesAside_foldl {α : Type} {s t : State} {x : Nat} {l : List α} {f : State → α → State} (h : storesAside s x t)
    (hf : ∀ u, storesAside s x u → ∀ a ∈ l, storesAside s x (f u a)) : storesAside s x (l.foldl f t) :=
  List.foldlRecOn (motive := storesAside s x) _ _ h hf

theorem storesAside_charged (s : State) (x : Nat) (a : Acct) : storesAside s x { s with acct := a } := ⟨storesOnly_same rfl rfl, rfl⟩

theorem storesAside_stageEnds {s t : State} {x : Nat} (h : storesAside s x t) : storesAside s x (stageEnds t) := by
  obtain ⟨⟨hi, hr⟩, hm⟩ := h
  exact ⟨⟨hi, hr⟩, hm⟩

/-! ### PROJ (R250, R251) -/

/-- The words of a camera's configuration. -/
theorem camera_word {k n : Nat} (hk : k < 16) (hn : n < 0x80) :
    quiet (pageBase pgPrj + (0x500 + n) + k * 0x80) ∧ pageBase pgPrj + (0x500 + n) + k * 0x80 < 0x50000000 := by
  simp only [quiet, pageBase]
  omega

theorem getFi_camera {s t : State} (h : storesOnly s t) {k n : Nat} (hk : k < 16) (hn : n < 0x80) {r : Row} (ho : r.off = 0x500 + n) (hs : r.s1 = 0x80) :
    getFi t pgPrj r k = getFi s pgPrj r k := by
  unfold getFi getFij
  have e : fieldAddr pgPrj r k 0 = pageBase pgPrj + (0x500 + n) + k * 0x80 := by simp only [fieldAddr, ho, hs, Nat.zero_mul, Nat.add_zero]
  rw [e, h.2 _ (camera_word hk hn).1 (camera_word hk hn).2]

theorem camSize_stores {s t : State} (h : storesOnly s t) {k : Nat} (hk : k < 16) : camSize t k = camSize s k := by
  unfold camSize strmF
  rw [getFi_camera h hk (n := 0x50) (by decide) rfl rfl]
  simp only [strmOf_congr h.1]

/-- A camera's tensor stands where it stood before a store. -/
theorem camTensor_stores {s t : State} (h : storesOnly s t) {k : Nat} (hk : k < 16) : camTensor t k = camTensor s k := by
  unfold camTensor
  rw [camSize_stores h hk, getFi_camera h hk (n := 0x54) (by decide) rfl rfl, getFi_camera h hk (n := 0x50) (by decide) rfl rfl]

theorem hBytes_length (w : Word) : (hBytes w).length = 2 := leBytes_length 2 _

/-- Camera k's output is written pixel by pixel, 32 bytes each. -/
theorem projCam_aside {s t : State} {k x : Nat} (hk : k < 16) (h : storesAside s x t)
    (hx : ∀ y z, x < pixOff (camTensor s k) y z 0 ∨ pixOff (camTensor s k) y z 0 + 32 ≤ x) (j : FusJob) (pts : List Pt) :
    storesAside s x (projCam j pts k t) := by
  unfold projCam
  rw [camTensor_stores h.1 hk]
  refine storesAside_foldl h fun u hu y _ => storesAside_foldl hu fun v hv z _ => storesAside_jobStore hv ?_ j
  split
  · exact hx y z
  · simpa only [List.length_append, hBytes_length, List.length_replicate] using hx y z

/-- The cameras that PROJ serves. -/
def projCams (s : State) (j : FusJob) : List Nat := (bitsSet 16 (fjCams j.raw)).filter (camUsable s)

def projUses (s : State) (j : FusJob) : List MemAcc :=
  alnReads s j ++ (projCams s j).map (fun k => ⟨true, 0, (camTensor s k).off, camRows s k * tensorPitch (camTensor s k)⟩)

theorem projCams_lt {s : State} {j : FusJob} {k : Nat} (h : k ∈ projCams s j) : k < 16 :=
  List.mem_range.1 (List.mem_filter.1 (List.mem_filter.1 h).1).1

/-- PROJ's outputs, camera by camera, from the points of the alignment. -/
def projWritten (j : FusJob) (cams : List Nat) (base : State) : State :=
  cams.foldl (fun s k => projCam j (outPoints base (fjAlnOut j.raw * 64)) k s) base

theorem projStage_eq (j : FusJob) (s : State) :
    projStage j s = withAccs pgPrj j (projUses s j) (fun t => stageEnds (projWritten j (projCams s j) t)) s := (rfl)

theorem projWritten_keeps {K : Nat} (hK : K &&& 6151 = 0) (j : FusJob) (cams : List Nat) (s : State) : Keeps K s (projWritten j cams s) :=
  keeps_foldl (Keeps.refl K s) fun _ k h => projCam_keeps j _ k hK h

theorem projWritten_aside {s t : State} {x : Nat} {cams : List Nat} (h : storesAside s x t) (hc : ∀ k ∈ cams, k < 16)
    (hx : ∀ k ∈ cams, ∀ y z, x < pixOff (camTensor s k) y z 0 ∨ pixOff (camTensor s k) y z 0 + 32 ≤ x) (j : FusJob) :
    storesAside s x (projWritten j cams t) :=
  storesAside_foldl h fun _ hu k hk => projCam_aside (hc k hk) hu (hx k hk) j _

/-- PROJ goes on, and changes no byte outside its cameras' pixels. -/
theorem projStage_goes {s : State} {j : FusJob} (hj : s.fus.job = some j) (h : passesAll s j.part (projUses s j)) :
    goesOn s (stageDone j) (projStage j s) ∧
      ∀ x, (∀ k ∈ projCams s j, ∀ y z, x < pixOff (camTensor s k) y z 0 ∨ pixOff (camTensor s k) y z 0 + 32 ≤ x) →
        sparseGet memDefault (projStage j s).mem x = sparseGet memDefault s.mem x := by
  obtain ⟨a, e⟩ := withAccs_passes h pgPrj (fun t => stageEnds (projWritten j (projCams s j) t))
  rw [projStage_eq, e]
  exact ⟨goesOn_stageEnds (goesOn_after hj a (projWritten_keeps (by decide) j _ _)), fun x hx =>
    (storesAside_stageEnds (projWritten_aside (storesAside_charged s x a) (fun _ => projCams_lt) hx j)).2⟩

/-! ### LIFT (R255) -/

/-- The cameras whose features LIFT reads. -/
def liftCams (s : State) (j : FusJob) : List Nat := (bitsSet 16 (fjLcams j.raw)).filter (camUsable s)

def liftUses (s : State) (j : FusJob) : List MemAcc :=
  (if liftsPoints j then alnReads s j else []) ++
    (liftCams s j).map (fun k => ⟨false, 0, (featTensor s k).off, featRows s k * tensorPitch (featTensor s k)⟩) ++
    [⟨true, 0, (gridTensor s j).off, 512 * tensorPitch (gridTensor s j)⟩]

/-- The points that fall on the grid, by cell. -/
def liftPoints (t : State) (j : FusJob) : List ((Nat × Nat) × Pt) :=
  if liftsPoints j then (outPoints t (fjAlnOut j.raw * 64)).filterMap (fun p => (gridCell t p.x p.y).map (fun c => (c, p))) else []

/-- The grid is written cell by cell, each channel block of it. -/
def liftWritten (j : FusJob) (g : Blocked) (cams : List Nat) (base : State) : State :=
  (List.range 512).foldl (fun s y => (List.range 512).foldl (fun s x =>
    (List.range (ceilDiv g.chans g.blk)).foldl (fun s b =>
      jobStore j (pixOff g y x b) (cellBytes base g (liftCell base j cams (liftPoints base j) y x) b) s) s) s) base

theorem liftStage_eq (j : FusJob) (s : State) :
    liftStage j s = withAccs pgGrd j (liftUses s j) (fun t => stageEnds (liftWritten j (gridTensor s j) (liftCams s j) t)) s := (rfl)

theorem cellBytes_length (s : State) (g : Blocked) (vals : List Word) (b : Nat) : (cellBytes s g vals b).length = g.blk * (elemBits g.fmt / 8) := by
  unfold cellBytes
  rw [List.length_flatMap, List.sum_eq_card_nsmul _ (elemBits g.fmt / 8), List.length_map, List.length_range, smul_eq_mul]
  intro n hn
  obtain ⟨c, -, rfl⟩ := List.mem_map.1 hn
  dsimp only
  split
  · exact leBytes_length ..
  · exact List.length_replicate

theorem liftWritten_aside {s t : State} {x : Nat} {g : Blocked} (h : storesAside s x t)
    (hx : ∀ y z b, x < pixOff g y z b ∨ pixOff g y z b + g.blk * (elemBits g.fmt / 8) ≤ x) (j : FusJob) (cams : List Nat) :
    storesAside s x (liftWritten j g cams t) := by
  unfold liftWritten
  refine storesAside_foldl h fun u hu y _ => storesAside_foldl hu fun v hv z _ => storesAside_foldl hv fun w hw b _ => storesAside_jobStore hw ?_ j
  rw [cellBytes_length]
  exact hx y z b

theorem liftWritten_keeps {K : Nat} (hK : K &&& 6151 = 0) (j : FusJob) (g : Blocked) (cams : List Nat) (s : State) :
    Keeps K s (liftWritten j g cams s) :=
  keeps_foldl (Keeps.refl K s) fun _ _ h => keeps_foldl h fun _ _ h => keeps_foldl h fun _ _ h => jobStore_keeps j _ _ hK h

/-- LIFT goes on, and changes no byte outside the grid's cells. -/
theorem liftStage_goes {s : State} {j : FusJob} (hj : s.fus.job = some j) (h : passesAll s j.part (liftUses s j)) :
    goesOn s (stageDone j) (liftStage j s) ∧
      ∀ x, (∀ y z b, x < pixOff (gridTensor s j) y z b ∨ pixOff (gridTensor s j) y z b + (gridTensor s j).blk * (elemBits (gridTensor s j).fmt / 8) ≤ x) →
        sparseGet memDefault (liftStage j s).mem x = sparseGet memDefault s.mem x := by
  obtain ⟨a, e⟩ := withAccs_passes h pgGrd (fun t => stageEnds (liftWritten j (gridTensor s j) (liftCams s j) t))
  rw [liftStage_eq, e]
  exact ⟨goesOn_stageEnds (goesOn_after hj a (liftWritten_keeps (by decide) j _ _ _)), fun x hx =>
    (storesAside_stageEnds (liftWritten_aside (storesAside_charged s x a) hx j (liftCams s j))).2⟩

/-! ### FUSION_JOB_DONE (R244, R265) -/

theorem showFus_fus (s : State) : (showFus s).fus = s.fus :=
  (showFus_keeps (K := 1024) (by decide) (Keeps.refl _ s)).frame .fus rfl

/-- The reported step by R265, with the count of better evaluations. -/
theorem nextStep_eq (w : FusState) (upN r : Nat) : nextStep w upN r =
    (if w.judged = false ∨ w.step < r then r else if r < w.step ∧ upN ≤ w.upCount + 1 then w.step - 1 else w.step,
      if w.judged = true ∧ r < w.step ∧ w.upCount + 1 < upN then w.upCount + 1 else 0) := by
  unfold nextStep
  cases w.judged
  · simp
  · simp only [Bool.true_eq_false, if_false, false_or, true_and]
    rcases Nat.lt_trichotomy r w.step with h | h | h
    · by_cases hu : upN ≤ w.upCount + 1
      · simp [h, hu, Nat.not_lt.2 hu, Nat.not_lt.2 (Nat.le_of_lt h), Nat.ne_of_lt h]
      · simp [h, hu, Nat.not_le.1 hu, Nat.not_lt.2 (Nat.le_of_lt h), Nat.ne_of_lt h]
    · simp [h]
    · simp [h, Nat.not_lt.2 (Nat.le_of_lt h)]

/-- A job that did not run TRACK leaves its working copy. -/
theorem commitJob_plain {j : FusJob} (h : j.rawStep = none) (s : State) : (commitJob j s).fus.st = j.work := by
  simp only [commitJob, h]
  rw [showFus_fus]
  rfl

/-- A job that ran TRACK leaves its working copy with the reported step. -/
theorem commitJob_judged {j : FusJob} {r : Nat} (h : j.rawStep = some r) (s : State) : (commitJob j s).fus.st = { j.work with
    step := (nextStep j.work (getF s pgAln Reg.ALN_DEG_UP_N) r).1
    upCount := (nextStep j.work (getF s pgAln Reg.ALN_DEG_UP_N) r).2
    judged := true } := by
  simp only [commitJob, h]
  split
  · rw [record_fus, showFus_fus]
    rfl
  · rw [showFus_fus]
    rfl

theorem fusDone_ends (j : FusJob) (s : State) : jobEnded j (fusDone j s) ∧ (fusDone j s).fus.st = (commitJob j s).fus.st :=
  tryFuse_finish_ends j (s := modFus (fun x => { x with job := none }) (commitJob j s)) rfl

end Sys2Proof.Machine
end

section
/-! PROOFS. Chapter 09: the stages of a fusion job in their turn, and what each of them does (R195, R242, R244). -/

namespace Sys2Proof.Machine

open Sys2Proof

/-! ### The commands, in their turn and out of it -/

/-- The job `j` has stage `b` next and does not wait. -/
def inTurn (s : State) (j : FusJob) (b : Nat) : Prop := s.fus.job = some j ∧ j.left.head? = some b ∧ j.waiting = false

theorem does_inTurn {s : State} {j : FusJob} {b : Nat} {c : Instr} {f : FusJob → State → State} (hs : fusStages[b]? = some (c, f))
    (ht : inTurn s j b) {P : State → Prop} (h : P (f j s)) : Does c s P := by
  obtain ⟨hj, hb, hw⟩ := ht
  exact does (by rw [exec_stage hs, jobAt_turn hj hb hw]) h

theorem stage_of_getElem {b : Nat} {c : Instr} (h : (fusStages.map Prod.fst)[b]? = some c) : ∃ f, fusStages[b]? = some (c, f) := by
  rw [List.getElem?_map, Option.map_eq_some_iff] at h
  obtain ⟨⟨c', f⟩, h, rfl⟩ := h
  exact ⟨f, h⟩

/-- A stage out of its turn does nothing. -/
theorem stage_idles {s : State} {b : Nat} {c : Instr} (h : (fusStages.map Prod.fst)[b]? = some c) (hn : jobAt s b = none) :
    Does c s fun u => u = s := by
  obtain ⟨f, hs⟩ := stage_of_getElem h
  exact does (by rw [exec_stage hs, hn]) rfl

/-- With the unit free no command of a job does anything. -/
theorem fusion_idles {s : State} (h : s.fus.job = none) : (Does .fusionJobDone s fun u => u = s) ∧ (Does .alignWaitEnd s fun u => u = s) ∧
    ∀ c ∈ fusStages.map Prod.fst, Does c s fun u => u = s := by
  refine ⟨does (by rw [exec_fusionJobDone, h]) rfl, does (by rw [exec_alignWaitEnd, h]) rfl, fun c hc => ?_⟩
  obtain ⟨b, hb⟩ := List.mem_iff_getElem?.1 hc
  exact stage_idles hb (jobAt_free h b)

/-- A job with stages left is not done, and a job that does not wait, or has to wait on, does not end its wait. -/
theorem fusion_holds {s : State} {j : FusJob} (hj : s.fus.job = some j) : (j.left ≠ [] → Does .fusionJobDone s fun u => u = s) ∧
    (j.waiting = false ∨ waitOver s j = false → Does .alignWaitEnd s fun u => u = s) := by
  refine ⟨fun h => does (by simp only [exec_fusionJobDone, hj, if_neg h]) rfl, fun h => does ?_ rfl⟩
  have n : ¬(j.waiting = true ∧ waitOver s j = true) := fun ⟨hw, ho⟩ => by simp [hw, ho] at h
  simp only [exec_alignWaitEnd, hj, if_neg n]

/-! ### No stage changes the persistent state (R244) -/

theorem goesOn_st {s u : State} {k : FusJob} (h : goesOn s k u) : u.fus.st = s.fus.st := by rw [h.2]

/-- A stage that goes on where its accesses pass, and else fails, leaves the persistent state. -/
theorem st_of_passes {s u : State} {p : Nat} {l : List MemAcc} {Q : Prop} (hp : passesAll s p l → u.fus.st = s.fus.st)
    (hf : ¬passesAll s p l → Q ∧ u.fus.st = s.fus.st) : u.fus.st = s.fus.st := by
  by_cases h : passesAll s p l
  · exact hp h
  · exact (hf h).2

section Stages

variable {s : State} {j : FusJob} (hj : s.fus.job = some j)

include hj

theorem alignEnd_fails (h : ¬passesAll s j.part (alnUses s j)) : jobEnded j (alignEnd j s) ∧ (alignEnd j s).fus.st = s.fus.st := by
  rw [alignEnd_eq]
  exact withAccs_fails hj h _ _

theorem egoStage_fails (h : ¬passesAll s j.part (alnReads s j)) : jobEnded j (egoStage j s) ∧ (egoStage j s).fus.st = s.fus.st := by
  rw [egoStage_eq]
  exact withAccs_fails hj h _ _

theorem projStage_fails (h : ¬passesAll s j.part (projUses s j)) : jobEnded j (projStage j s) ∧ (projStage j s).fus.st = s.fus.st := by
  rw [projStage_eq]
  exact withAccs_fails hj h _ _

theorem liftStage_fails (h : ¬passesAll s j.part (liftUses s j)) : jobEnded j (liftStage j s) ∧ (liftStage j s).fus.st = s.fus.st := by
  rw [liftStage_eq]
  exact withAccs_fails hj h _ _

theorem assignStage_fails (h : ¬passesAll s j.part (asgUses s j)) : jobEnded j (assignStage j s) ∧ (assignStage j s).fus.st = s.fus.st := by
  rw [assignStage_eq]
  exact withAccs_fails hj h _ _

theorem outStage_fails (h : ¬passesAll s j.part (outUses s j)) : jobEnded j (outStage j s) ∧ (outStage j s).fus.st = s.fus.st := by
  rw [outStage_eq]
  exact withAccs_fails hj h _ _

theorem alignEnd_st : (alignEnd j s).fus.st = s.fus.st :=
  st_of_passes (fun h => by rw [(alignEnd_goes hj h).2.1]) (alignEnd_fails hj)

theorem egoStage_st : (egoStage j s).fus.st = s.fus.st := by
  refine st_of_passes (fun h => ?_) (egoStage_fails hj)
  obtain ⟨known, free⟩ := egoStage_moves hj h
  cases ht : j.work.egoTc with
  | none =>
    obtain ⟨i, -, -, -, -, hg⟩ := free ht
    exact goesOn_st hg
  | some t =>
    obtain ⟨-, -, -, -, hg⟩ := known t ht
    exact goesOn_st hg

omit hj in
theorem assignStage_goes (h : passesAll s j.part (asgUses s j)) : ∃ x, assignStage j s = asgAfter j (asgCount s j) (asgValid s j) { s with acct := x } := by
  rw [assignStage_eq]
  exact withAccs_passes h pgAsg _

theorem assignStage_st : (assignStage j s).fus.st = s.fus.st := by
  refine st_of_passes (fun h => ?_) (assignStage_fails hj)
  obtain ⟨x, e⟩ := assignStage_goes h
  rw [e]
  cases hf : asgFlush j with
  | true =>
    obtain ⟨-, -, -, hg⟩ := asgAfter_flushes (goesOn_charged hj x) rfl rfl hf (asgCount s j) (asgValid s j)
    exact goesOn_st hg
  | false =>
    obtain ⟨-, -, -, -, hg⟩ := asgAfter_matches (goesOn_charged hj x) rfl rfl hf (asgCount s j) (asgValid s j) rfl rfl
    exact goesOn_st hg

theorem alignStage_st : (alignStage j s).fus.st = s.fus.st := by
  unfold alignStage
  split
  · exact alignEnd_st hj
  · rfl

theorem stage_st {b : Nat} {c : Instr} {f : FusJob → State → State} (h : fusStages[b]? = some (c, f)) : (f j s).fus.st = s.fus.st := by
  obtain ⟨hb, e⟩ := List.getElem?_eq_some_iff.1 h
  have hb : b < 8 := hb
  interval_cases b <;> cases e
  · exact st_of_passes (fun h => goesOn_st (ppuStep_goes hj h).1) (ppuStep_fails hj)
  · exact alignStage_st hj
  · exact egoStage_st hj
  · exact st_of_passes (fun h => goesOn_st (projStage_goes hj h).1) (projStage_fails hj)
  · exact st_of_passes (fun h => goesOn_st (liftStage_goes hj h).1) (liftStage_fails hj)
  · exact assignStage_st hj
  · obtain ⟨-, -, -, -, hg⟩ := trackStage_goes hj
    exact goesOn_st hg
  · exact st_of_passes (fun h => goesOn_st (outStage_goes hj h).1) (outStage_fails hj)

end Stages

theorem jobAt_job {s : State} {j : FusJob} {b : Nat} (h : jobAt s b = some j) : s.fus.job = some j := by
  unfold jobAt at h
  split at h
  next k hk =>
    split at h
    · rw [hk, h]
    · cases h
  · cases h

/-- Stages and the end of a wait leave the persistent state as it is. -/
theorem stages_keep_st (s : State) (c : Instr) (h : c ∈ fusStages.map Prod.fst ∨ c = .alignWaitEnd) : Acts c s fun u => u.fus.st = s.fus.st := by
  rcases h with h | rfl
  · obtain ⟨b, hb⟩ := List.mem_iff_getElem?.1 h
    obtain ⟨f, hs⟩ := stage_of_getElem hb
    refine acts (does (exec_stage hs s) ?_)
    split
    next k hk => exact stage_st (jobAt_job hk) hs
    · rfl
  · refine acts (does (exec_alignWaitEnd s) ?_)
    split
    next k hk =>
      split
      · exact alignEnd_st hk
      · rfl
    · rfl

/-! ### The clauses of the statement -/

/-- Where an access of `l` is refused, the job fails: its stroke ends, and the next job starts from the state that stays. -/
def jobFails (s : State) (j : FusJob) (l : List MemAcc) (c : Instr) : Prop :=
  ¬passesAll s j.part l → Acts c s fun u => jobEnded j u ∧ u.fus.st = s.fus.st

theorem jobFails_inTurn {s : State} {j : FusJob} {b : Nat} {c : Instr} {f : FusJob → State → State} (hs : fusStages[b]? = some (c, f))
    (ht : inTurn s j b) {l : List MemAcc} (h : ¬passesAll s j.part l → jobEnded j (f j s) ∧ (f j s).fus.st = s.fus.st) : jobFails s j l c :=
  fun hn => acts (does_inTurn hs ht (h hn))

/-- ALIGN whose wait is over. -/
def alnGoes (s : State) (j : FusJob) (u : State) : Prop :=
  samesBut (report ++ [.mem, .acct, .fus]) s u ∧ u.fus = { s.fus with job := some (stageDone j), predOk := alnPredOk s j } ∧
    wroteAt s (fjAlnOut j.raw * 64) (alnBytes s j) u ∧ counted pgAln Reg.ALN_PT_DROP (alnDrop s j) s u ∧
    counted pgAln Reg.ALN_TIMEOUTS (lateSlots s j).length s u ∧ (lateSlots s j ≠ [] → codeIn u pgAln 0x4B)

/-- A command that runs the end of ALIGN's wait. -/
def alnWaits (s : State) (j : FusJob) (c : Instr) : Prop :=
  waitOver s j = true → jobFails s j (alnUses s j) c ∧ (passesAll s j.part (alnUses s j) → Does c s (alnGoes s j))

theorem alnWaits_of_exec {s : State} {j : FusJob} {c : Instr} (hj : s.fus.job = some j) (h : waitOver s j = true → exec c s = .next (alignEnd j s)) :
    alnWaits s j c :=
  fun ho => ⟨fun hn => acts (does (h ho) (alignEnd_fails hj hn)), fun hp => does (h ho) (alignEnd_goes hj hp)⟩

theorem align_waits {s : State} {j : FusJob} (ht : inTurn s j 1) :
    (waitOver s j = false → Does .align s fun u => u = { s with fus := { s.fus with job := some { j with waiting := true } } }) ∧ alnWaits s j .align := by
  obtain ⟨hj, hb, hw⟩ := ht
  have e : exec .align s = .next (alignStage j s) := by rw [exec_stage (b := 1) rfl, jobAt_turn hj hb hw]
  refine ⟨fun ho => does e ?_, alnWaits_of_exec hj fun ho => by rw [e, alignStage, if_pos ho]⟩
  rw [alignStage, if_neg (by simp [ho])]
  simp only [modJob, modFus, hj, Option.map_some]

theorem alignWaitEnd_waits {s : State} {j : FusJob} (hj : s.fus.job = some j) (hw : j.waiting = true) : alnWaits s j .alignWaitEnd :=
  alnWaits_of_exec hj fun ho => by simp only [exec_alignWaitEnd, hj, hw, ho, and_self, if_true]

theorem ego_moves {s : State} {j : FusJob} (ht : inTurn s j 2) (hp : passesAll s j.part (alnReads s j)) :
    (∀ t, j.work.egoTc = some t → Does .ego s (egoMoved s j (secF (j.tc - t)))) ∧
      (j.work.egoTc = none → ∃ i : Int, Does .ego s (egoMoved s j (secF i))) := by
  obtain ⟨known, free⟩ := egoStage_moves ht.1 hp
  refine ⟨fun t h => does_inTurn (b := 2) rfl ht (known t h), fun h => ?_⟩
  obtain ⟨i, hi⟩ := free h
  exact ⟨i, does_inTurn (b := 2) rfl ht hi⟩

theorem asgFlush_iff (j : FusJob) : asgFlush j = true ↔ 8 < j.work.since ∧ j.work.ts ≠ none := by
  rw [asgFlush, Bool.and_eq_true, decide_eq_true_eq, Option.isSome_iff_ne_none]

/-- LIFT's accesses, with those of the alignment where one was written (R468). -/
theorem liftUses_eq (s : State) (j : FusJob) : liftUses s j = (if fjAlnOut j.raw ≠ 0 then alnReads s j else []) ++
    (liftCams s j).map (fun k => ⟨false, 0, (featTensor s k).off, featRows s k * tensorPitch (featTensor s k)⟩) ++
    [⟨true, 0, (gridTensor s j).off, 512 * tensorPitch (gridTensor s j)⟩] := by
  have e : (liftsPoints j = true) = (fjAlnOut j.raw ≠ 0) := by rw [liftsPoints, decide_eq_true_eq]
  simp only [liftUses, e]

theorem lift_runs {s : State} {j : FusJob} (ht : inTurn s j 4) {l : List MemAcc} (hl : l = liftUses s j) : jobFails s j l .lift ∧
    (passesAll s j.part l → Does .lift s fun u => goesOn s (stageDone j) u ∧ ∀ x, (∀ y z b, x < pixOff (gridTensor s j) y z b ∨
      pixOff (gridTensor s j) y z b + (gridTensor s j).blk * (elemBits (gridTensor s j).fmt / 8) ≤ x) →
        sparseGet memDefault u.mem x = sparseGet memDefault s.mem x) := by
  subst hl
  exact ⟨jobFails_inTurn (b := 4) rfl ht (liftStage_fails ht.1), fun hp => does_inTurn (b := 4) rfl ht (liftStage_goes ht.1 hp)⟩

theorem assign_flushes {s : State} {j : FusJob} (ht : inTurn s j 5) (hp : passesAll s j.part (asgUses s j)) (hf : 8 < j.work.since ∧ j.work.ts ≠ none) :
    Does .assign s fun u => u.mem = s.mem ∧ counted pgTrk Reg.TRK_FLUSHES 1 s u ∧ getF u pgAsg Reg.ASG_EDGES = 0 ∧
      goesOn s (stageDone { j with
        work := { j.work with tracks := [] }, dets := asgDets s j (asgCount s j), flushed := true, detsOk := asgValid s j }) u := by
  obtain ⟨x, e⟩ := assignStage_goes hp
  refine does_inTurn (b := 5) rfl ht ?_
  rw [e]
  exact asgAfter_flushes (goesOn_charged ht.1 x) rfl rfl ((asgFlush_iff j).2 hf) _ _

theorem assign_matches {s : State} {j : FusJob} (ht : inTurn s j 5) (hp : passesAll s j.part (asgUses s j)) (hf : ¬(8 < j.work.since ∧ j.work.ts ≠ none))
    {l : List Track} (hl : l = asgPredicted s j j.work.tracks) {dets : List Det} (hd : dets = asgDets s j (asgCount s j))
    {pairs : List (Nat × Nat × Nat)} (hm : pairs = (asgSolved s l dets).flatMap (fun r => r.1)) :
    Does .assign s fun u => u.mem = s.mem ∧ getF u pgAsg Reg.ASG_EDGES = (asgEdges s l dets).length % 2 ^ 18 ∧
      counted pgAsg Reg.ASG_GATE_TRUNC (asgCut s l dets) s u ∧ counted pgAsg Reg.ASG_GREEDY_COMP (asgBig s l dets) s u ∧
      goesOn s (stageDone { j with
        work := { j.work with tracks := l }, dets := asgMatched pairs dets, subopt := j.subopt || decide (0 < asgBig s l dets), detsOk := asgValid s j }) u := by
  obtain ⟨x, e⟩ := assignStage_goes hp
  refine does_inTurn (b := 5) rfl ht ?_
  rw [e, hm]
  exact asgAfter_matches (goesOn_charged ht.1 x) rfl rfl (Bool.eq_false_iff.2 fun h => hf ((asgFlush_iff j).1 h)) _ _ hl hd

theorem fusionJobDone_commits {s : State} {j : FusJob} (hj : s.fus.job = some j) (hl : j.left = []) : Acts .fusionJobDone s fun u =>
    jobEnded j u ∧ (j.rawStep = none → u.fus.st = j.work) ∧ ∀ r, j.rawStep = some r → u.fus.st = { j.work with
      step := if j.work.judged = false ∨ j.work.step < r then r
        else if r < j.work.step ∧ getF s pgAln Reg.ALN_DEG_UP_N ≤ j.work.upCount + 1 then j.work.step - 1 else j.work.step
      upCount := if j.work.judged = true ∧ r < j.work.step ∧ j.work.upCount + 1 < getF s pgAln Reg.ALN_DEG_UP_N then j.work.upCount + 1 else 0
      judged := true } := by
  obtain ⟨he, hs⟩ := fusDone_ends j s
  refine acts (does (t := fusDone j s) (by simp only [exec_fusionJobDone, hj, hl, if_true]) ⟨he, fun h => hs.trans (commitJob_plain h s), fun r h => ?_⟩)
  rw [hs, commitJob_judged h, nextStep_eq]

/-- Settles O60: each stage by its accesses, and the end of the job. -/
theorem fusionJobs : Obligations.FusionJobs := by
  unfold Obligations.FusionJobs
  intro j s
  extract_lets
  refine ⟨fusion_idles, fun b c hc hj h => stage_idles hc (jobAt_other hj h), fusion_holds, stages_keep_st s, fun ht => ⟨?_, fun hp => ?_⟩,
    align_waits, alignWaitEnd_waits, fun ht => ⟨?_, fun hp => ?_⟩, fun ht => ⟨?_, fun hp => ?_⟩,
    fun ht => lift_runs ht (liftUses_eq s j).symm, fun ht => ⟨?_, fun hp => ⟨fun hf => ?_, fun hf => ?_⟩⟩,
    fun ht => ?_, fun ht => ⟨?_, fun hp => ?_⟩, fusionJobDone_commits⟩
  · exact jobFails_inTurn (b := 0) rfl ht (ppuStep_fails ht.1)
  · exact does_inTurn (b := 0) rfl ht (ppuStep_goes ht.1 hp)
  · exact jobFails_inTurn (b := 2) rfl ht (egoStage_fails ht.1)
  · exact ego_moves ht hp
  · exact jobFails_inTurn (b := 3) rfl ht (projStage_fails ht.1)
  · exact does_inTurn (b := 3) rfl ht (projStage_goes ht.1 hp)
  · exact jobFails_inTurn (b := 5) rfl ht (assignStage_fails ht.1)
  · exact assign_flushes ht hp hf
  · rename_i pairs _ _ _ _
    have hm : pairs = (asgSolved s (asgPredicted s j j.work.tracks) (asgDets s j (asgCount s j))).flatMap (fun r => r.1) := rfl
    clear_value pairs
    exact assign_matches ht hp hf rfl rfl hm
  · exact does_inTurn (b := 6) rfl ht (trackStage_goes ht.1)
  · exact jobFails_inTurn (b := 7) rfl ht (outStage_fails ht.1)
  · exact does_inTurn (b := 7) rfl ht (outStage_goes ht.1 fun x hx => List.mem_singleton.1 hx ▸ hp)

end Sys2Proof.Machine
end

section
/-! PROOFS. Chapter 07, learned regions: what a refusal shows, and the requests for a region's
state (R211 to R214). -/

namespace Sys2Proof.Machine

open Sys2Proof

/-! ### The words of a learned region -/

/-- The address of LREG_CTL of region `n`. -/
abbrev lregCtl (n : Nat) : Nat := 0x40004108 + n * 0x40

theorem lregCtl_addr {r : Row} (ho : r.off = 0x108) (hs : r.s1 = 0x40) (n : Nat) : fieldAddr pgAdm r n 0 = lregCtl n := by
  simp only [fieldAddr, pageBase, ho, hs, lregCtl]
  omega

/-- A write by a control master of a word of the ADM page reaches the block. -/
theorem asMaster_lreg {who : Agent} (hc : controls who = true) {n : Nat} (hn : n < 8) {off : Nat} (ho : off < 0x1000) (f : State → State)
    (s : State) : asMaster pgAdm (off + n * 0x40) who f s = f s :=
  asMaster_hub hc (by simp only [pageBase]; omega) f s

/-- The code that a page shows stands in its header, which no field of its block shares. -/
theorem codeIn_setFi {p : Page} {r : Row} (hr : 64 ≤ r.off) (i v : Nat) {c : Nat} {s : State} (k : codeIn s p c) : codeIn (setFi p r i v s) p c := by
  have e {q : Row} (hq : q.off < 64) : getF (setFi p r i v s) p q = getF s p q :=
    getFij_setFij_ne (by simp only [fieldAddr]; omega) v s
  rwa [codeIn, e (by decide), e (by decide)]

theorem samesBut_lrn (l : Lrn) (s : State) : samesBut [.lrn] s { s with lrn := l } :=
  ⟨rfl, fun p hp => by cases p <;> first | rfl | exact absurd List.mem_cons_self hp⟩

/-! ### Refusals -/

/-- What a refusal shows and leaves alone. -/
def refusedWith (n code : Nat) (s t : State) : Prop :=
  samesBut report s t ∧ codeIn t pgAdm code ∧ getFi t pgAdm Reg.ADM_LREG_CTL_LAST_ERR n = code ∧ quietBut [lregCtl n] s t

theorem lregRefuse_shows (n : Nat) {code : Nat} (h : code < 256) (s : State) : refusedWith n code s (lregRefuse n code s) :=
  ⟨samesBut_keeps (lregRefuse_keeps n code (by decide) (Keeps.refl _ s)),
    codeIn_setFi (by decide) n code (codeIn_record (by decide) (by decide) h s),
    (getFi_setFi_same (by decide) n code _).trans (Nat.mod_eq_of_lt h),
    quietBut_setFi code (List.mem_singleton.2 (lregCtl_addr rfl rfl n)) (quietBut_record _ _ (quietBut_refl _ s))⟩

/-! ### Which requests are refused (R213) -/

/-- A request is taken where nothing of the region is in progress, its transition is listed, an open region is well placed, and no held
table writes or reads the region that leaves OPEN or VETTED. -/
theorem lregRefused_false_iff (s : State) (n : Nat) (r : LReq) : lregRefused s n r = false ↔
    reqPending s n = none ∧ ckptBusy s n = false ∧ lregListed (lregState s n) (lregTorn s n) r = true ∧
    (r = .opn → 0 < getFi s pgAdm Reg.ADM_LREG_LEN n ∧ getFi s pgAdm Reg.ADM_LREG_LEN n ≤ 1048576 ∧
      (lregState s n = 0 → lregOverlaps s n = false)) ∧
    (lregState s n = 1 → r ≠ .opn → (r = .restore → lregTorn s n = false) → heldTouches s n (fun _ x => x.wr) = false) ∧
    (lregState s n = 4 → heldTouches s n (fun k x => stClass k = 0 && !x.wr) = false) := by
  simp only [lregRefused, Bool.or_eq_false_iff, Bool.and_eq_false_iff]
  simp [Nat.pos_iff_ne_zero, imp_iff_not_or, and_assoc, or_assoc]

/-- Nothing is taken while a request or a commit is in progress, nor in FREEZING or RESTORING. -/
theorem lregRefused_inProgress {s : State} {n : Nat} (h : reqPending s n ≠ none ∨ ckptBusy s n = true ∨ lregState s n = 2 ∨ lregState s n = 5) (r : LReq) :
    lregRefused s n r = true := by
  refine Bool.of_not_eq_false fun hf => ?_
  obtain ⟨hp, hb, hl, _⟩ := (lregRefused_false_iff s n r).1 hf
  rcases h with h | h | h | h
  · exact h hp
  · simp [hb] at h
  · cases r <;> simp [h, lregListed] at hl
  · cases r <;> simp [h, lregListed] at hl

theorem lregRefused_unlisted {s : State} {n : Nat} {r : LReq} (h : lregListed (lregState s n) (lregTorn s n) r ≠ true) : lregRefused s n r = true :=
  Bool.of_not_eq_false fun hf => h ((lregRefused_false_iff s n r).1 hf).2.2.1

/-! ### What a request does -/

/-- The request is the bar's one for the region, and nothing else changes yet. -/
def requestTaken (n : Nat) (r : LReq) (s t : State) : Prop :=
  samesBut [.lrn] s t ∧ t.lrn = { s.lrn with req := s.lrn.req.set n (some r) } ∧ reqPending t n = some r

theorem lregRequest_taken {n : Nat} {r : LReq} {s : State} (hn : n < 8) (hl : s.lrn.req.length = 8) (h : lregRefused s n r = false) :
    requestTaken n r s (lregRequest n r s) := by
  have e : lregRequest n r s = { s with lrn := { s.lrn with req := s.lrn.req.set n (some r) } } := by
    rw [lregRequest, if_neg (Nat.not_le.2 hn), if_neg (by simp [h])]
  rw [e]
  exact ⟨samesBut_lrn _ s, rfl, by simp [reqPending, List.getD_eq_getElem?_getD, hl, hn]⟩

theorem lregRequest_refused {n : Nat} {r : LReq} {s : State} (hn : n < 8) (h : lregRefused s n r = true) :
    refusedWith n 0x1D s (lregRequest n r s) := by
  rw [lregRequest, if_neg (Nat.not_le.2 hn), if_pos h]
  exact lregRefuse_shows n (by decide) s

/-- A write of VET that is the island in charge's and holds the digest is the request (R214). -/
theorem lregVet_requests {who : Agent} {n : Nat} {v : Word} {s : State} (h : inCharge s who = true ∧ v.toNat = getFi s pgAdm Reg.ADM_LREG_DIGEST n) :
    lregVet who n v s = lregRequest n .vet s := if_pos h

theorem lregVet_refused {who : Agent} {n : Nat} {v : Word} {s : State} (hn : n < 8)
    (h : inCharge s who = true ∧ v.toNat = getFi s pgAdm Reg.ADM_LREG_DIGEST n → lregRefused s n .vet = true) :
    refusedWith n 0x1D s (lregVet who n v s) := by
  by_cases hv : inCharge s who = true ∧ v.toNat = getFi s pgAdm Reg.ADM_LREG_DIGEST n
  · rw [lregVet_requests hv]
    exact lregRequest_refused hn (h hv)
  · rw [lregVet, if_neg hv, if_pos hn]
    exact lregRefuse_shows n (by decide) s

/-! ### The commands -/

/-- The command that makes a request; a VET brings the digest `v`. -/
def lregCommand (who : Agent) (n : Nat) (v : Word) : LReq → Instr
  | .opn => .lregOpen who n
  | .freeze => .lregFreeze who n
  | .restore => .lregRestore who n
  | .off => .lregOff who n
  | .vet => .lregVet who n v

/-- What a command for a request runs: VET first looks at its sender and its digest. -/
theorem exec_lregCommand {who : Agent} (hc : controls who = true) {n : Nat} (hn : n < 8) (v : Word) (r : LReq) (s : State) :
    exec (lregCommand who n v r) s = .next (if r = .vet then lregVet who n v s else lregRequest n r s) := by
  cases r <;> exact congrArg Host.Outcome.next (asMaster_lreg hc hn (by decide) _ s)

theorem lregCommand_taken {who : Agent} (hc : controls who = true) {n : Nat} (hn : n < 8) {s : State} (hl : s.lrn.req.length = 8) {v : Word} {r : LReq}
    (hv : r = .vet → inCharge s who = true ∧ v.toNat = getFi s pgAdm Reg.ADM_LREG_DIGEST n) (h : lregRefused s n r = false) :
    Does (lregCommand who n v r) s (requestTaken n r s) := by
  refine does (exec_lregCommand hc hn v r s) ?_
  split
  next e =>
    subst e
    rw [lregVet_requests (hv rfl)]
    exact lregRequest_taken hn hl h
  · exact lregRequest_taken hn hl h

theorem lregCommand_refused {who : Agent} (hc : controls who = true) {n : Nat} (hn : n < 8) {s : State} {v : Word} {r : LReq}
    (h : (r = .vet → inCharge s who = true ∧ v.toNat = getFi s pgAdm Reg.ADM_LREG_DIGEST n) → lregRefused s n r = true) :
    Does (lregCommand who n v r) s (refusedWith n 0x1D s) := by
  refine does (exec_lregCommand hc hn v r s) ?_
  split
  next e =>
    subst e
    exact lregVet_refused hn fun hv => h fun _ => hv
  next e => exact lregRequest_refused hn (h fun hr => absurd hr e)

/-- Settles O35: what is taken and what is refused, by the one list of what refuses a request. -/
theorem learnedRegionRequests : Obligations.LearnedRegionRequests := by
  unfold Obligations.LearnedRegionRequests
  intro who n v s hc hn hl taken refused lengthOk vets
  have accept {r : LReq} (hr : r ≠ .vet) (h : lregRefused s n r = false) : taken (lregCommand who n v r) r :=
    lregCommand_taken hc hn hl (fun e => absurd e hr) h
  have refuse {r : LReq} (h : lregRefused s n r = true) : refused (lregCommand who n v r) := lregCommand_refused hc hn fun _ => h
  have unlisted {r : LReq} (h : lregListed (lregState s n) (lregTorn s n) r ≠ true) : refused (lregCommand who n v r) :=
    refuse (lregRefused_unlisted h)
  refine ⟨fun hp hb => ⟨fun h0 len ho => accept (r := .opn) (by decide) ?_, fun h len => accept (r := .opn) (by decide) ?_, fun h1 ht ha => ?_, fun h3 => ?_,
    fun ⟨hi, h3, hd⟩ => ?_, fun h4 ha => ?_⟩, fun h => ?_, fun h0 => ?_, fun h => refuse (r := .opn) ?_, fun h => unlisted (r := .freeze) ?_, fun h => ?_⟩
  · simp [lregRefused_false_iff, lregListed, hp, hb, h0, ho, len.1, len.2]
  · rcases h with h | ⟨h, ht⟩
    · simp [lregRefused_false_iff, lregListed, hp, hb, h, len.1, len.2]
    · simp [lregRefused_false_iff, lregListed, hp, hb, h, ht, len.1, len.2]
  · have free {r : LReq} (h : lregListed 1 false r = true) (hr : r ≠ .opn) : lregRefused s n r = false := by
      simp [lregRefused_false_iff, hp, hb, h1, ht, ha, h, hr]
    exact ⟨accept (r := .freeze) (by decide) (free rfl (by decide)), accept (r := .restore) (by decide) (free rfl (by decide)),
      accept (r := .off) (by decide) (free rfl (by decide))⟩
  · have free {r : LReq} (h : lregListed 3 (lregTorn s n) r = true) (hr : r ≠ .opn) : lregRefused s n r = false := by
      simp [lregRefused_false_iff, hp, hb, h3, h, hr]
    exact ⟨accept (r := .restore) (by decide) (free rfl (by decide)), accept (r := .off) (by decide) (free rfl (by decide))⟩
  · refine lregCommand_taken (r := .vet) hc hn hl (fun _ => ⟨hi, hd⟩) ?_
    simp [lregRefused_false_iff, lregListed, hp, hb, h3]
  · have free {r : LReq} (h : lregListed 4 (lregTorn s n) r = true) (hr : r = .opn → lengthOk) : lregRefused s n r = false := by
      simpa [lregRefused_false_iff, hp, hb, h4, ha, h] using hr
    exact ⟨fun len => accept (r := .opn) (by decide) (free rfl fun _ => len), accept (r := .restore) (by decide) (free rfl nofun),
      accept (r := .off) (by decide) (free rfl nofun)⟩
  · have all := lregRefused_inProgress h
    exact ⟨refuse (r := .opn) (all _), refuse (r := .freeze) (all _), refuse (r := .restore) (all _), refuse (r := .off) (all _), refuse (r := .vet) (all _)⟩
  · exact ⟨unlisted (r := .freeze) (by simp [lregListed, h0]), unlisted (r := .restore) (by simp [lregListed, h0]),
      unlisted (r := .off) (by simp [lregListed, h0])⟩
  · refine Bool.of_not_eq_false fun hf => ?_
    obtain ⟨_, _, hlist, hopen, _, _⟩ := (lregRefused_false_iff s n .opn).1 hf
    obtain ⟨hpos, _, hover⟩ := hopen rfl
    rcases h with ⟨h1, ht⟩ | h0 | ⟨h0, ho⟩
    · simp [lregListed, h1, ht] at hlist
    · omega
    · simp [hover h0] at ho
  · rcases h with h1 | ht
    · simp [lregListed, h1]
    · simp [lregListed, ht]
  · refine lregCommand_refused (r := .vet) hc hn fun hv => lregRefused_unlisted fun h3 => h ⟨(hv rfl).1, ?_, (hv rfl).2⟩
    simpa [lregListed] using h3

end Sys2Proof.Machine
end

section
/-! PROOFS. Chapter 07: the contents of learned regions: digests, checkpoints and restores (R212, R214, R216 to R218). -/

namespace Sys2Proof.Machine

open Sys2Proof

variable {s t : State} {n : Nat}

/-! ### A region changes state (R212) -/

/-- A field at an address that was not written. -/
theorem getFi_regsBut {l : List Nat} (h : regsBut l s t) {p : Page} {r : Row} {i : Nat} (ha : fieldAddr p r i 0 ∉ l) : getFi t p r i = getFi s p r i := by
  unfold getFi getFij
  rw [h _ ha]

/-- The address of CFG_GEN. -/
abbrev cfgGenAddr : Nat := fieldAddr pgAdm Reg.ADM_CFG_GEN 0 0

theorem lregState_lregGo (n st : Nat) (s : State) : lregState (lregGo n st s) n = st % 8 := getFi_setFi_same (by decide) n st _

theorem lregGo_cfgGen (n st : Nat) (s : State) : getF (lregGo n st s) pgAdm Reg.ADM_CFG_GEN = (getF s pgAdm Reg.ADM_CFG_GEN + 1) % 2 ^ 32 := by
  have other : cfgGenAddr ≠ fieldAddr pgAdm Reg.ADM_LREG_CTL_STATE n 0 := by
    rw [lregCtl_addr rfl rfl, lregCtl, show cfgGenAddr = 0x40004048 from rfl]
    omega
  refine (getFij_setFij_ne other st _).trans ((getF_setF_same (by decide) _ s).trans ?_)
  exact Nat.mod_mod _ _

/-- A change of state leaves the other fields of the region alone. -/
theorem getFi_lregGo {r : Row} (hr : 0x100 ≤ r.off) (hs : r.s1 = 0x40) (h : apart Reg.ADM_LREG_CTL_STATE r = true) (n st : Nat) (s : State) :
    getFi (lregGo n st s) pgAdm r n = getFi s pgAdm r n := by
  have other : fieldAddr pgAdm r n 0 ≠ cfgGenAddr := by
    rw [show cfgGenAddr = 0x40004048 from rfl]
    simp only [fieldAddr, pageBase, hs]
    omega
  exact (getFi_setFi_apart (by decide) hs.symm h n st _).trans (getFij_setFij_ne other _ s)

theorem lregGo_mem (n st : Nat) (s : State) : (lregGo n st s).mem = s.mem := (rfl)

theorem regsBut_lregGo {l : List Nat} (hc : lregCtl n ∈ l) (hg : cfgGenAddr ∈ l) (st : Nat) (k : regsBut l s t) : regsBut l s (lregGo n st t) :=
  regsBut_setFi st (by rwa [lregCtl_addr rfl rfl]) (regsBut_setF _ hg k)

theorem quietBut_lregGo {l : List Nat} (hc : lregCtl n ∈ l) (hg : cfgGenAddr ∈ l) (st : Nat) (k : quietBut l s t) : quietBut l s (lregGo n st t) :=
  quietBut_setFi st (by rwa [lregCtl_addr rfl rfl]) (quietBut_setF _ hg k)

theorem codeIn_lregGo (n st : Nat) {c : Nat} (k : codeIn s pgAdm c) : codeIn (lregGo n st s) pgAdm c :=
  codeIn_setFi (by decide) n st (codeIn_setF (by decide) _ k)

/-! ### Digests (R214) -/

theorem exec_digestDone (hn : n < 8) (h : lregState s n = 2) : exec (.digestDone n) s =
    .next (lregGo n 3 (setFi pgAdm Reg.ADM_LREG_DIGEST n ((Config.sha384 (memBytes s (lregRange s n).1 (lregRange s n).2)).headD 0).toNat s)) :=
  congrArg Host.Outcome.next (if_pos ⟨hn, h⟩)

theorem lregDigest_addr (n : Nat) : fieldAddr pgAdm Reg.ADM_LREG_DIGEST n 0 = lregCtl n + 8 := by
  simp only [fieldAddr, pageBase, Reg.ADM_LREG_DIGEST, lregCtl]
  omega

/-- The digest ends FREEZING. -/
theorem lregGo_frozen (n : Nat) (d : BitVec 32) (s : State) :
    let t := lregGo n 3 (setFi pgAdm Reg.ADM_LREG_DIGEST n d.toNat s)
    lregState t n = 3 ∧ getFi t pgAdm Reg.ADM_LREG_DIGEST n = d.toNat ∧ getF t pgAdm Reg.ADM_CFG_GEN = (getF s pgAdm Reg.ADM_CFG_GEN + 1) % 2 ^ 32 ∧
      regsBut [lregCtl n, lregCtl n + 8, cfgGenAddr] s t := by
  have other : cfgGenAddr ≠ fieldAddr pgAdm Reg.ADM_LREG_DIGEST n 0 := by
    rw [lregDigest_addr, lregCtl, show cfgGenAddr = 0x40004048 from rfl]
    omega
  refine ⟨lregState_lregGo n 3 _, ?_, ?_, ?_⟩
  · rw [getFi_lregGo (by decide) rfl (by decide), getFi_setFi_same (by decide)]
    exact Nat.mod_eq_of_lt d.isLt
  · rw [lregGo_cfgGen]
    exact congrArg (fun g => (g + 1) % 2 ^ 32) (getFij_setFij_ne other _ s)
  · exact regsBut_lregGo (by simp) (by simp) 3 (regsBut_setFi _ (by simp [lregDigest_addr]) (regsBut_refl _ s))

/-! ### Checkpoints (R217) -/

theorem exec_lregCkpt {who : Agent} (hc : controls who = true) (hn : n < 8) (s : State) : exec (.lregCkpt who n) s = .next (lregCkpt n s) :=
  congrArg Host.Outcome.next (asMaster_lreg hc hn (by decide) _ s)

/-- The region or its size lets no checkpoint be taken. -/
abbrev ckptUnfit (s : State) (n : Nat) : Prop :=
  (lregState s n ≠ 3 ∧ lregState s n ≠ 4) ∨ 1048576 < (lregRange s n).2 ∨ 1586 < keptRecs s n + genRecs (lregRange s n).2

theorem lregCkpt_busy (hn : n < 8) (h : ckptBusy s n = true ∨ lregTorn s n = true) : lregCkpt n s = lregRefuse n 0x1D s := by
  rw [lregCkpt, if_neg (Nat.not_le.2 hn), if_pos h]

theorem lregCkpt_unfit (hn : n < 8) (hb : ckptBusy s n = false) (ht : lregTorn s n = false) (h : ckptUnfit s n) :
    lregCkpt n s = lregRefuse n 0x1E s := by
  rw [lregCkpt, if_neg (Nat.not_le.2 hn), if_neg (by simp [hb, ht]), if_pos h]

/-- The checkpoint of a region that fits is what it holds at the request. -/
theorem lregCkpt_starts (hn : n < 8) (hb : ckptBusy s n = false) (ht : lregTorn s n = false) (h : ¬ckptUnfit s n) (hw : mayWrite s = true) :
    lregCkpt n s = setFi pgAdm Reg.ADM_LREG_CTL_CKPT_BUSY n 1 { s with lrn := { s.lrn with ckpt := s.lrn.ckpt.set n (some (newGen s n)) } } := by
  rw [lregCkpt, if_neg (Nat.not_le.2 hn), if_neg (by simp [hb, ht]), if_neg h, if_neg (by simp [hw])]

theorem ckptBusy_setFi (n v : Nat) (s : State) : ckptBusy (setFi pgAdm Reg.ADM_LREG_CTL_CKPT_BUSY n v s) n = decide (v % 2 ≠ 0) := by
  rw [ckptBusy, flagI, getFi_setFi_same (by decide)]
  rfl

theorem lregState_ckptBusy (n v : Nat) (s : State) : lregState (setFi pgAdm Reg.ADM_LREG_CTL_CKPT_BUSY n v s) n = lregState s n :=
  getFi_setFi_apart (r := Reg.ADM_LREG_CTL_CKPT_BUSY) (r' := Reg.ADM_LREG_CTL_STATE) (by decide) rfl (by decide) n v s

/-! ### The commit (R217, R382) -/

/-- The generation `g` is region `n`'s CURRENT, the former CURRENT its PREVIOUS, and no commit is in progress. -/
def rotated (n : Nat) (g : LGen) (l : Lrn) : Lrn := { l with ckpt := l.ckpt.set n none, gens := l.gens.modify n fun x => (some g, x.1) }

theorem rotated_gens {l : Lrn} (h : n < l.gens.length) (g : LGen) :
    (rotated n g l).gens.getD n (none, none) = (some g, (l.gens.getD n (none, none)).1) := by
  simp [rotated, List.getD_eq_getElem?_getD, h]

theorem rotated_ckpt (n : Nat) (g : LGen) (l : Lrn) : (rotated n g l).ckpt.getD n none = none := by
  simp only [rotated, List.getD_eq_getElem?_getD, List.getElem?_set]
  split
  · split <;> rfl
  · contradiction

/-- The commit writes the records and CKPTDIR, and then rotates the generations. -/
theorem exec_ckptCommitDone {g : LGen} (h : s.lrn.ckpt.getD n none = some g) : ∃ roles, ∃ u : State, u.lrn = s.lrn ∧ exec (.ckptCommitDone n) s =
    .next (showGens n (setFi pgAdm Reg.ADM_LREG_CTL_CKPT_BUSY n 0 { u with lrn := rotated n { g with roles := roles } u.lrn })) := by
  let g' : LGen := { g with roles := (freePool s).take (genRecs g.len) }
  have written := writeCkptdir_keeps (K := 131072) (by decide) (writeGen_keeps n g' (memBytes s (lregRange s n).1 g.len) (by decide) (Keeps.refl _ s))
  have run : exec (.ckptCommitDone n) s = execCkptCommitDone n s := rfl
  refine ⟨g'.roles, writeCkptdir (writeGen n g' (memBytes s (lregRange s n).1 g.len) s), written.frame .lrn (by decide), ?_⟩
  rw [run, execCkptCommitDone, h]
  rfl

/-- What shows the generations leaves the other words of the region alone. -/
theorem getFi_showGens {r : Row} (hs : r.s1 = 0x40) (hr : r.off ≠ 0x120) (n : Nat) (s : State) : getFi (showGens n s) pgAdm r n = getFi s pgAdm r n := by
  have other {q : Row} (hq : q.off = 0x120) (hq' : q.s1 = 0x40) : fieldAddr pgAdm r n 0 ≠ fieldAddr pgAdm q n 0 := by
    simp only [fieldAddr, hs, hq, hq']
    omega
  exact (getFij_setFij_ne (other rfl rfl) _ _).trans (getFij_setFij_ne (other rfl rfl) _ s)

theorem showGens_current {g : LGen} (h : (s.lrn.gens.getD n (none, none)).1 = some g) (hg : g.num < 65536) :
    getFi (showGens n s) pgAdm Reg.ADM_LREG_GEN_CUR n = g.num := by
  rw [showGens, getFi_setFi_same (by decide), h]
  exact Nat.mod_eq_of_lt hg

theorem showGens_lrn (n : Nat) (s : State) : (showGens n s).lrn = s.lrn := by
  rw [showGens, setFi_lrn, setFi_lrn]

/-! ### Restores (R218) -/

/-- The generation that GEN selects. -/
def chosenGen (s : State) (n : Nat) : Option LGen :=
  if getFi s pgAdm Reg.ADM_LREG_CTL_GEN n = 0 then (s.lrn.gens.getD n (none, none)).1 else (s.lrn.gens.getD n (none, none)).2

/-- The selected generation is copied, and its LS_EXP and OPT_T are its group's. -/
def restored (s : State) (n : Nat) (g : LGen) : State :=
  setFi pgAdm Reg.ADM_LS_LS_EXP (getFi s pgAdm Reg.ADM_LREG_CTL_GRP n) g.lsExp
    (setFi pgAdm Reg.ADM_OPT_T (getFi s pgAdm Reg.ADM_LREG_CTL_GRP n) g.optT (memWrite (lregRange s n).1 ((genData s g).take (lregRange s n).2) s))

theorem exec_restoreDone_copies (hn : n < 8) (h : lregState s n = 5) {crcOk : Bool} {g : LGen} (hg : chosenGen s n = some g)
    (hc : restoreCause s n crcOk (chosenGen s n) = none) : exec (.restoreDone n crcOk) s =
      .next (lregGo n 2 (setFi pgAdm Reg.ADM_LREG_CTL_TORN n 0 (setFi pgAdm Reg.ADM_LREG_CTL_CAUSE n 0 (restored s n g)))) := by
  have run : exec (.restoreDone n crcOk) s = execRestoreDone n crcOk s := rfl
  rw [hg] at hc
  unfold chosenGen at hg
  simp only [run, execRestoreDone, hn, h, hg, hc, and_self, if_true]
  rfl

theorem exec_restoreDone_refused (hn : n < 8) (h : lregState s n = 5) {crcOk : Bool} {c : Nat} (hc : restoreCause s n crcOk (chosenGen s n) = some c) :
    exec (.restoreDone n crcOk) s = .next (lregGo n 1 (setFi pgAdm Reg.ADM_LREG_CTL_CAUSE n c (lregRefuse n 0x1E s))) := by
  have run : exec (.restoreDone n crcOk) s = execRestoreDone n crcOk s := rfl
  unfold chosenGen at hc
  simp only [run, execRestoreDone, hn, h, hc, and_self, if_true]
  rfl

/-- The causes are 1 to 4. -/
theorem restoreCause_le {crcOk : Bool} {o : Option LGen} {c : Nat} (h : restoreCause s n crcOk o = some c) : c ≤ 4 := by
  cases o with
  | none => cases h; decide
  | some g =>
    simp only [restoreCause] at h
    split at h
    · cases h; decide
    · split at h
      · cases h; decide
      · split at h <;> cases h
        decide

theorem restored_mem (s : State) (n : Nat) (g : LGen) :
    (restored s n g).mem = (memWrite (lregRange s n).1 ((genData s g).take (lregRange s n).2) s).mem := (rfl)

theorem restored_keeps {K : Nat} (n : Nat) (g : LGen) (hK : K &&& 3 = 0) (h : Keeps K t s) : Keeps K t (restored s n g) :=
  setFi_keeps _ _ _ _ (keeps_sub hK rfl) (setFi_keeps _ _ _ _ (keeps_sub hK rfl) (memWrite_keeps _ _ (keeps_sub hK rfl) h))

/-- LS_EXP and OPT_T of a step group stand in other words than the control words of the regions and CFG_GEN. -/
theorem groupAddr_aside (n : Nat) {grp : Nat} (h : grp < 4) : fieldAddr pgAdm Reg.ADM_LS_LS_EXP grp 0 ∉ [lregCtl n, cfgGenAddr] ∧
    fieldAddr pgAdm Reg.ADM_OPT_T grp 0 ∉ [lregCtl n, cfgGenAddr] := by
  simp only [List.mem_cons, List.not_mem_nil, or_false, not_or, lregCtl, show cfgGenAddr = 0x40004048 from rfl,
    show fieldAddr pgAdm Reg.ADM_LS_LS_EXP grp 0 = 0x400040C4 + grp * 8 from rfl, show fieldAddr pgAdm Reg.ADM_OPT_T grp 0 = 0x400040A0 + grp * 4 from rfl]
  omega

theorem restored_regs (s : State) (n : Nat) (g : LGen) :
    let grp := getFi s pgAdm Reg.ADM_LREG_CTL_GRP n
    regsBut [0x400040A0 + grp * 4, 0x400040C4 + grp * 8] s (restored s n g) ∧
      (g.lsExp < 256 → getFi (restored s n g) pgAdm Reg.ADM_LS_LS_EXP grp = g.lsExp) ∧
      (g.optT < 2 ^ 32 → getFi (restored s n g) pgAdm Reg.ADM_OPT_T grp = g.optT) := by
  intro grp
  have small : grp < 4 := getFij_lt s pgAdm Reg.ADM_LREG_CTL_GRP n 0
  have hls : fieldAddr pgAdm Reg.ADM_LS_LS_EXP grp 0 = 0x400040C4 + grp * 8 := rfl
  have hot : fieldAddr pgAdm Reg.ADM_OPT_T grp 0 = 0x400040A0 + grp * 4 := rfl
  refine ⟨?_, fun h => ?_, fun h => ?_⟩
  · exact regsBut_setFi _ (by simp [hls, grp]) (regsBut_setFi _ (by simp [hot, grp]) (regsBut_same (memWrite_regs ..) (regsBut_refl _ s)))
  · exact (getFi_setFi_same (by decide) grp _ _).trans (Nat.mod_eq_of_lt h)
  · refine (getFij_setFij_ne (by rw [hot, hls]; omega) _ _).trans ((getFi_setFi_same (by decide) grp _ _).trans (Nat.mod_eq_of_lt h))

/-! ### The commands -/

theorem lregCkpt_refuses_busy {who : Agent} (hc : controls who = true) (hn : n < 8) (h : ckptBusy s n = true ∨ lregTorn s n = true) :
    Does (.lregCkpt who n) s (refusedWith n 0x1D s) := by
  refine does (exec_lregCkpt hc hn s) ?_
  rw [lregCkpt_busy hn h]
  exact lregRefuse_shows n (by decide) s

theorem lregCkpt_refuses_unfit {who : Agent} (hc : controls who = true) (hn : n < 8) (hb : ckptBusy s n = false) (ht : lregTorn s n = false)
    (h : ckptUnfit s n) : Does (.lregCkpt who n) s (refusedWith n 0x1E s) := by
  refine does (exec_lregCkpt hc hn s) ?_
  rw [lregCkpt_unfit hn hb ht h]
  exact lregRefuse_shows n (by decide) s

/-- A checkpoint that starts shows CKPT_BUSY and keeps what the region holds as the coming generation. -/
def ckptStarted (n : Nat) (s t : State) : Prop :=
  samesBut [.regs, .lrn] s t ∧ ckptBusy t n = true ∧ lregState t n = lregState s n ∧ regsBut [lregCtl n] s t ∧
    t.lrn = { s.lrn with ckpt := s.lrn.ckpt.set n (some (newGen s n)) }

theorem lregCkpt_takes {who : Agent} (hc : controls who = true) (hn : n < 8) (hb : ckptBusy s n = false) (ht : lregTorn s n = false)
    (h : ¬ckptUnfit s n) (hw : mayWrite s = true) : Does (.lregCkpt who n) s (ckptStarted n s) := by
  refine does (exec_lregCkpt hc hn s) ?_
  rw [lregCkpt_starts hn hb ht h hw]
  refine ⟨?_, ckptBusy_setFi n 1 _, (lregState_ckptBusy n 1 _).trans (getFi_congr rfl ..), ?_, setFi_lrn ..⟩
  · exact samesBut_trans_of_subset (m := [.regs]) (by decide) (samesBut_trans_of_subset (by decide) (samesBut_refl _ s) (samesBut_lrn _ s))
      (samesBut_keeps (setFi_keeps _ _ _ _ (by decide) (Keeps.refl _ _)))
  · exact regsBut_setFi 1 (by rw [lregCtl_addr rfl rfl]; exact List.mem_cons_self) (regsBut_same rfl (regsBut_refl _ s))

/-- The commit is over, and the generations have rotated. -/
def ckptEnded (n : Nat) (g : LGen) (s t : State) : Prop :=
  samesBut (report ++ [.lrn]) s t ∧ ckptBusy t n = false ∧ t.lrn.ckpt.getD n none = none ∧
    (t.lrn.gens.getD n (none, none)).2 = (s.lrn.gens.getD n (none, none)).1 ∧ getFi t pgAdm Reg.ADM_LREG_GEN_CUR n = g.num ∧
    ∃ roles, (t.lrn.gens.getD n (none, none)).1 = some { g with roles := roles }

theorem ckptCommitDone_rotates {g : LGen} (hn : n < s.lrn.gens.length) (h : s.lrn.ckpt.getD n none = some g) (hg : g.num < 65536) :
    Does (.ckptCommitDone n) s (ckptEnded n g s) := by
  obtain ⟨roles, u, hu, run⟩ := exec_ckptCommitDone h
  rw [hu] at run
  have gens := rotated_gens hn { g with roles := roles }
  refine does run ⟨samesBut_reach run rfl, ?_, ?_, ?_, ?_, roles, ?_⟩
  · rw [ckptBusy, flagI, getFi_showGens rfl (by decide)]
    exact ckptBusy_setFi n 0 _
  · rw [showGens_lrn, setFi_lrn, rotated_ckpt]
  · rw [showGens_lrn, setFi_lrn, gens]
  · exact showGens_current (g := { g with roles := roles }) (congrArg Prod.fst gens) hg
  · rw [showGens_lrn, setFi_lrn, gens]

/-- The selected generation is the region's contents, which FREEZING takes the digest of. -/
def restoreCopied (n : Nat) (g : LGen) (s t : State) : Prop :=
  let grp := getFi s pgAdm Reg.ADM_LREG_CTL_GRP n
  samesBut [.regs, .mem] s t ∧ lregState t n = 2 ∧ t.mem = (memWrite (lregRange s n).1 ((genData s g).take (lregRange s n).2) s).mem ∧
    getFi t pgAdm Reg.ADM_LS_LS_EXP grp = g.lsExp ∧ getFi t pgAdm Reg.ADM_OPT_T grp = g.optT ∧ lregTorn t n = false ∧
    regsBut [lregCtl n, 0x400040A0 + grp * 4, 0x400040C4 + grp * 8, cfgGenAddr] s t

theorem restoreDone_copies (hn : n < 8) (h : lregState s n = 5) {crcOk : Bool} {g : LGen} (hg : chosenGen s n = some g)
    (hc : restoreCause s n crcOk (chosenGen s n) = none) (hl : g.lsExp < 256) (ho : g.optT < 2 ^ 32) :
    Does (.restoreDone n crcOk) s (restoreCopied n g s) := by
  obtain ⟨hregs, hls, hot⟩ := restored_regs s n g
  have aside := groupAddr_aside n (getFij_lt s pgAdm Reg.ADM_LREG_CTL_GRP n 0)
  have goes {l : List Nat} {u : State} (hc : lregCtl n ∈ l) (hg : cfgGenAddr ∈ l) (k : regsBut l u (restored s n g)) :
      regsBut l u (lregGo n 2 (setFi pgAdm Reg.ADM_LREG_CTL_TORN n 0 (setFi pgAdm Reg.ADM_LREG_CTL_CAUSE n 0 (restored s n g)))) :=
    regsBut_lregGo hc hg 2 (regsBut_setFi 0 (by rwa [lregCtl_addr rfl rfl]) (regsBut_setFi 0 (by rwa [lregCtl_addr rfl rfl]) k))
  have group := goes (l := [lregCtl n, cfgGenAddr]) (by simp) (by simp) (regsBut_refl _ _)
  refine does (exec_restoreDone_copies hn h hg hc) ⟨?_, lregState_lregGo n 2 _, ?_, (getFi_regsBut group aside.1).trans (hls hl),
    (getFi_regsBut group aside.2).trans (hot ho), ?_, ?_⟩
  · exact samesBut_keeps (lregGo_keeps n 2 (by decide) (setFi_keeps _ _ _ _ (by decide) (setFi_keeps _ _ _ _ (by decide)
      (restored_keeps n g (by decide) (Keeps.refl _ s)))))
  · rw [lregGo_mem, setFi_mem, setFi_mem, restored_mem]
  · rw [lregTorn, flagI, getFi_lregGo (by decide) rfl (by decide), getFi_setFi_same (by decide)]
    rfl
  · refine goes (by simp) (by simp) fun a ha => hregs a ?_
    simp only [List.mem_cons, not_or] at ha ⊢
    exact ⟨ha.2.1, ha.2.2.1, List.not_mem_nil⟩

/-- Nothing is copied, and the region is OPEN again, with its cause. -/
def restoreRefused (n c : Nat) (s t : State) : Prop :=
  samesBut report s t ∧ lregState t n = 1 ∧ codeIn t pgAdm 0x1E ∧ getFi t pgAdm Reg.ADM_LREG_CTL_LAST_ERR n = 0x1E ∧
    getFi t pgAdm Reg.ADM_LREG_CTL_CAUSE n = c ∧ quietBut [lregCtl n, cfgGenAddr] s t

theorem restoreDone_refuses (hn : n < 8) (h : lregState s n = 5) {crcOk : Bool} {c : Nat} (hc : restoreCause s n crcOk (chosenGen s n) = some c) :
    Does (.restoreDone n crcOk) s (restoreRefused n c s) := by
  obtain ⟨_, hcode, hlast, hquiet⟩ := lregRefuse_shows n (code := 0x1E) (by decide) s
  have small : c < 16 := Nat.lt_of_le_of_lt (restoreCause_le hc) (by decide)
  refine does (exec_restoreDone_refused hn h hc) ⟨?_, lregState_lregGo n 1 _, codeIn_lregGo n 1 (codeIn_setFi (by decide) n c hcode), ?_, ?_, ?_⟩
  · exact samesBut_keeps (lregGo_keeps n 1 (by decide) (setFi_keeps _ _ _ _ (by decide) (lregRefuse_keeps n 0x1E (by decide) (Keeps.refl _ s))))
  · rw [getFi_lregGo (by decide) rfl (by decide), getFi_setFi_apart (by decide) (by rfl) (by decide), hlast]
  · rw [getFi_lregGo (by decide) rfl (by decide), getFi_setFi_same (by decide)]
    exact Nat.mod_eq_of_lt small
  · refine quietBut_lregGo List.mem_cons_self (by simp) 1 (quietBut_setFi c ?_ fun a hq ha => hquiet a hq fun hm => ha ?_)
    · rw [lregCtl_addr (r := Reg.ADM_LREG_CTL_CAUSE) rfl rfl]
      exact List.mem_cons_self
    · exact List.mem_cons.2 (Or.inl (List.mem_singleton.1 hm))

/-- Settles O36: each command by what it runs, and the fields by the words that it writes. -/
theorem learnedRegionContents : Obligations.LearnedRegionContents := by
  unfold Obligations.LearnedRegionContents
  intro who n crcOk g s hn hg hk r chosen grp ctl
  refine ⟨fun h => ?_, fun hc => ⟨lregCkpt_refuses_busy hc hn, lregCkpt_refuses_unfit hc hn, fun hb ht h hlen hrecs hw => ?_⟩,
    ckptCommitDone_rotates (hg ▸ hn), fun h hch hcause => restoreDone_copies (s := s) hn h hch hcause, fun c h hcause => restoreDone_refuses (s := s) hn h hcause⟩
  · have run := exec_digestDone hn h
    exact does run ⟨samesBut_reach run rfl, lregGo_frozen n _ s⟩
  · have fit : ¬ckptUnfit s n := by
      rintro (⟨h3, h4⟩ | long | full)
      · exact h.elim h3 h4
      · exact Nat.not_lt.2 hlen long
      · exact Nat.not_lt.2 hrecs full
    obtain ⟨t, run, hsame, hbusy, hstate, hregs, hlrn⟩ := lregCkpt_takes hc hn hb ht fit hw
    refine ⟨t, run, hsame, hbusy, hstate, hregs, ?_⟩
    rw [hlrn]
    exact ⟨rfl, rfl, newGen s n, rfl, rfl, rfl, rfl, rfl, rfl, rfl⟩

end Sys2Proof.Machine
end

section
/-! PROOFS. Chapter 07: OPT_SEED, OPT_CHECK and OPT_APPLY (R202 to R210): what the completion of a descriptor leaves of memory, of the
step groups and of the hub's registers, and what each mode stores. -/

namespace Sys2Proof.Machine

open Sys2Proof

/-! ### What the work of a die leaves alone -/

/-- Memory, the step groups and every register of the hub are in `t` what they were in `s`. -/
structure LeavesHub (s t : State) : Prop where
  mem : t.mem = s.mem
  lrn : t.lrn = s.lrn
  regs : ∀ a, a < 0x50000000 → regW t a = regW s a

variable {s t u : State}

theorem LeavesHub.refl (s : State) : LeavesHub s s := ⟨rfl, rfl, fun _ _ => rfl⟩

theorem LeavesHub.trans (h : LeavesHub s t) (k : LeavesHub t u) : LeavesHub s u :=
  ⟨k.mem.trans h.mem, k.lrn.trans h.lrn, fun a ha => (k.regs a ha).trans (h.regs a ha)⟩

theorem LeavesHub.getF_hub (h : LeavesHub s t) {n : Nat} {r : Row} (hr : fieldAddr (.hub n) r 0 0 < 0x50000000) : getF t (.hub n) r = getF s (.hub n) r := by
  unfold getF getFij
  rw [h.regs _ hr]

/-- 131075 names memory, the step groups and the registers. -/
theorem leavesHub_keeps (h : Keeps 131075 s t) : LeavesHub s t :=
  ⟨h.frame .mem (by decide), h.frame .lrn (by decide), fun a _ => regW_congr (h.frame .regs (by decide)) a⟩

/-- The registers of a compute die stand above the hub's. -/
theorem leavesHub_setF (d n : Nat) (r : Row) (v : Nat) (s : State) : LeavesHub s (setF (.cd d n) r v s) := by
  refine ⟨setF_mem .., setF_lrn .., fun a ha => regW_setFij_ne ?_ _ _⟩
  simp only [fieldAddr, pageBase]
  omega

theorem leavesHub_bump (d n : Nat) (r : Row) (v : Nat) (s : State) : LeavesHub s (bump (.cd d n) r v s) := leavesHub_setF ..

theorem leavesHub_raiseBit (d n b : Nat) (s : State) : LeavesHub s (raiseBit (.cd d n) b s) := by
  have k := raiseBit_keeps (.cd d n) b (K := 131074) (by decide) (Keeps.refl _ s)
  exact ⟨k.frame .mem (by decide), k.frame .lrn (by decide), fun a ha => (regW_congr (notifyEdge_regs ..) a).trans ((leavesHub_setF ..).regs a ha)⟩

theorem leavesHub_ite {c : Prop} [Decidable c] (ht : LeavesHub s t) (hu : LeavesHub s u) : LeavesHub s (if c then t else u) := by
  split <;> assumption

theorem leavesHub_foldl {α : Type} {f : State → α → State} (hf : ∀ s x, LeavesHub s (f s x)) (l : List α) (s : State) : LeavesHub s (l.foldl f s) := by
  induction l generalizing s with
  | nil => exact LeavesHub.refl s
  | cons x l ih => exact (hf s x).trans (ih (f s x))

theorem leavesHub_acct (x : Acct) (s : State) : LeavesHub s { s with acct := x } := ⟨rfl, rfl, fun _ _ => rfl⟩

theorem leavesHub_chargeDesc (w : Who) (l : List MemAcc) (s : State) : LeavesHub s (chargeDesc w l s) :=
  (leavesHub_keeps (chargeAccs_keeps _ _ _ l (by decide) (Keeps.refl _ s))).trans
    (leavesHub_foldl (fun s _ => leavesHub_ite (leavesHub_bump ..) (LeavesHub.refl s)) l _)

theorem leavesHub_modEng (d e : Nat) (f : Eng → Eng) (s : State) : LeavesHub s (modEng d e f s) := ⟨rfl, rfl, fun _ _ => rfl⟩

theorem leavesHub_showState (d e : Nat) (s : State) : LeavesHub s (showState d e s) := by
  unfold showState
  exact (leavesHub_ite (leavesHub_setF ..) (LeavesHub.refl s)).trans (leavesHub_setF ..)

theorem leavesHub_leaveBrush (d e : Nat) (s : State) : LeavesHub s (leaveBrush d e s) := by
  unfold leaveBrush
  split
  · extract_lets ns clk s1 acct s2 s3
    have h2 : LeavesHub s s2 := ⟨rfl, rfl, fun _ _ => rfl⟩
    have h3 : LeavesHub s2 s3 := leavesHub_bump ..
    exact (h2.trans h3).trans (leavesHub_modEng ..)
  · exact LeavesHub.refl s

theorem leavesHub_enterBrush (d e p : Nat) (s : State) : LeavesHub s (enterBrush d e p s) := by
  unfold enterBrush
  extract_lets s1
  have h1 : LeavesHub s s1 := by
    unfold s1
    split
    · exact leavesHub_ite (leavesHub_leaveBrush ..) (LeavesHub.refl s)
    · exact LeavesHub.refl s
  exact h1.trans (leavesHub_ite ((leavesHub_modEng ..).trans (leavesHub_showState ..)) (LeavesHub.refl s1))

theorem leavesHub_chargeEngine (d e p : Nat) (s : State) : LeavesHub s (chargeEngine d e p s) := ⟨rfl, rfl, fun _ _ => rfl⟩

theorem leavesHub_settle (d k i b : Nat) (s : State) : LeavesHub s (settle d k i b s) := by
  unfold settle
  split
  · exact LeavesHub.refl s
  next r _ =>
    refine leavesHub_ite ?_ (LeavesHub.refl s)
    extract_lets s1
    have h1 : LeavesHub s s1 := ⟨rfl, rfl, fun _ _ => rfl⟩
    split
    next e _ =>
      refine (h1.trans (leavesHub_chargeEngine d e (stPart r.raw) s1)).trans ?_
      dsimp only
      split
      · exact leavesHub_enterBrush ..
      · exact leavesHub_showState ..
    · exact h1

theorem leavesHub_showDispatch (d : Nat) (s : State) : LeavesHub s (showDispatch d s) :=
  (leavesHub_setF ..).trans (leavesHub_setF ..)

theorem leavesHub_popQueue (d e : Nat) (s : State) : LeavesHub s (popQueue d e s) :=
  (leavesHub_modEng ..).trans (leavesHub_showState ..)

theorem leavesHub_countWork (w : Who) (clocks : Nat) (s : State) : LeavesHub s (countWork w clocks s) :=
  (leavesHub_acct { s.acct with work := s.acct.work.modify w.p (fun l => l.modify w.d (· + clocks)) } s).trans (leavesHub_bump ..)

theorem leavesHub_spectralDone (d clocks : Nat) (raw : List Byte) (s : State) : LeavesHub s (spectralDone d clocks raw s) :=
  (leavesHub_bump ..).trans ((leavesHub_bump ..).trans ((leavesHub_bump ..).trans (leavesHub_setF ..)))

/-! ### The completion of a descriptor -/

/-- An APPLY that was not skipped at dispatch counts for its step group (R208). -/
def noteApply (x : Work) (s : State) : State := if isApply x.raw ∧ x.noApply = false then noteApplied (oGrp x.raw) s else s

theorem leavesHub_noteApply (x : Work) (h : LeavesHub s t) : LeavesHub (noteApply x s) (noteApply x t) := by
  unfold noteApply
  split
  · exact ⟨h.mem, by simp [noteApplied, h.lrn], h.regs⟩
  · exact h

/-- After its stores and counts, the completion of a descriptor is work of its die, but for the step group of an APPLY. -/
theorem leavesHub_completeDesc (w : Who) (k : Nat) (x : Work) (clocks : Nat) (s : State) :
    LeavesHub (noteApply x (countOut w x (runKernel s w x) (storeOut w (runKernel s w x) (chargeDesc w (descAccs s w x) s)))) (completeDesc w k x clocks s) := by
  unfold completeDesc
  extract_lets o accs alarm len sig s1 s2 posts s3 s4 s5 s6 s7 s8
  have h2 : LeavesHub s1 s2 := leavesHub_ite (leavesHub_keeps (addPending_keeps _ _ _ _ _ (by decide) (Keeps.refl _ s1))) (LeavesHub.refl s1)
  have h3 : LeavesHub s2 s3 := leavesHub_ite (leavesHub_keeps (pushEntry_keeps _ _ _ (by decide) (Keeps.refl _ s2))) (LeavesHub.refl s2)
  have h4 : LeavesHub s3 s4 := leavesHub_ite ((leavesHub_bump ..).trans (leavesHub_raiseBit ..)) (LeavesHub.refl s3)
  have h5 : LeavesHub (noteApply x s1) s5 := leavesHub_noteApply x (h2.trans (h3.trans h4))
  have h6 : LeavesHub s5 s6 := leavesHub_ite (leavesHub_spectralDone ..) (LeavesHub.refl s5)
  have h7 : LeavesHub s6 s7 := (leavesHub_popQueue ..).trans ((leavesHub_bump ..).trans (leavesHub_countWork ..))
  have h8 : LeavesHub s7 s8 := leavesHub_ite (leavesHub_keeps (modCtx_keeps _ _ _ _ (by decide) (Keeps.refl _ s7))) (LeavesHub.refl s7)
  exact h5.trans (h6.trans (h7.trans (h8.trans ((leavesHub_settle ..).trans (leavesHub_showDispatch ..)))))

theorem noteApply_mem (x : Work) (s : State) : (noteApply x s).mem = s.mem := by
  unfold noteApply
  split <;> rfl

theorem completeDesc_mem (w : Who) (k : Nat) (x : Work) (clocks : Nat) (s : State) :
    (completeDesc w k x clocks s).mem = (storeOut w (runKernel s w x) (chargeDesc w (descAccs s w x) s)).mem := by
  rw [(leavesHub_completeDesc w k x clocks s).mem, noteApply_mem]
  exact (countOut_keeps w x _ (K := 2) (by decide) (Keeps.refl _ _)).frame .mem (by decide)

theorem completeDesc_lrn (w : Who) (k : Nat) (x : Work) (clocks : Nat) (s : State) : (completeDesc w k x clocks s).lrn = (noteApply x s).lrn := by
  have e : ∀ {t : State}, t.lrn = s.lrn → (noteApply x t).lrn = (noteApply x s).lrn := by
    intro t h
    unfold noteApply
    split <;> simp [noteApplied, h]
  rw [(leavesHub_completeDesc w k x clocks s).lrn]
  exact e ((countOut_keeps w x _ (K := 131072) (by decide)
    (storeOut_keeps w _ (by decide) (chargeDesc_keeps w _ (by decide) (Keeps.refl _ s)))).frame .lrn (by decide))

/-! ### What a descriptor stores -/

/-- Where the hub's registers stand as they did, so do the learned regions, and what they keep out. -/
theorem lregDiscard_congr (h : ∀ a, a < 0x50000000 → regW t a = regW s a) (a n : Nat) : lregDiscard t a n = lregDiscard s a n := by
  have field {r : Row} (hr : r.off < 0x1000) (hs : r.s1 = 0x40) {i : Nat} (hi : i < 8) : getFi t pgAdm r i = getFi s pgAdm r i := by
    unfold getFi getFij
    rw [h _ (by simp only [fieldAddr, pageBase, hs]; omega)]
  have state {i : Nat} (hi : i < 8) : lregState t i = lregState s i := field (by decide) rfl hi
  have range {i : Nat} (hi : i < 8) : lregRange t i = lregRange s i := by
    rw [lregRange, field (by decide) rfl hi, field (by decide) rfl hi, lregRange]
  have refuses (a n : Nat) : lregRefuses t a n = lregRefuses s a n := by
    refine Bool.eq_iff_iff.2 ?_
    simp only [lregRefuses, List.any_eq_true, List.mem_range]
    refine exists_congr fun i => and_congr_right fun hi => ?_
    rw [touchesLreg, state hi, range hi, touchesLreg]
  simp only [lregDiscard, refuses]

/-- One write of a descriptor. -/
def storeWrite (w : Who) (s : State) (x : Nat × Nat × List Byte) : State :=
  if x.1 = 3 then tileWrite w.d w.e w.p x.2.1 x.2.2 s
  else
    match accAddr w.d ⟨true, x.1, x.2.1, x.2.2.length⟩ with
    | some a => (storeDev a x.2.2 w.p s).2
    | none => s

/-- What stages nothing stores its writes in their order. -/
theorem storeOut_writes {o : KOut} (h : o.stage = []) (w : Who) (s : State) : storeOut w o s = o.writes.foldl (storeWrite w) s := by
  unfold storeOut
  rw [h]
  rfl

/-- A write outside the tile whose bytes no learned region keeps out goes to memory. -/
theorem storeWrite_device {w : Who} {x : Nat × Nat × List Byte} {a : Nat} (hx : x.1 ≠ 3) (ha : accAddr w.d ⟨true, x.1, x.2.1, x.2.2.length⟩ = some a)
    (hl : lregDiscard s a x.2.2.length = none) : storeWrite w s x = memWrite a x.2.2 s := by
  simp only [storeWrite, if_neg hx, ha, storeDev, hl]

theorem memWrite_mem_congr (h : t.mem = s.mem) (a : Nat) (b : List Byte) : (memWrite a b t).mem = (memWrite a b s).mem := by
  induction b generalizing a s t with
  | nil => exact h
  | cons x b ih => exact ih (by rw [h]) (a + 1)

/-! ### OPT_STEP -/

section Step

variable {d k e : Nat} {x : Work} {m : Nat}

theorem runKernel_opt (h : dKind x.raw = 9) (w : Who) (s : State) : runKernel s w x = runOpt s w x := by
  simp [runKernel, h]

/-- The OPT_STEP of the command's mode that an engine executes completes. -/
theorem optDone_completes (h : running s d k = some (e, x)) (h9 : dKind x.raw = 9) (hm : oMode x.raw = m) (hw : x.waiting = false)
    (hr : descRefused s ⟨d, e, x.part⟩ x = none) (hp : (dPost x.raw || x.pair) = true → ((dieOf s d).resq.getD k []).length < 8) :
    optDone m d k s = completeDesc ⟨d, e, x.part⟩ k x (optClocks x.raw) s := by
  simp only [optDone, h]
  rw [if_pos ⟨h9, hm⟩, tryComplete_ready h hw (by simp [h9]) hr, if_neg fun full => absurd (hp full.1) (Nat.not_lt.2 full.2)]

/-- Only an APPLY that runs counts for its step group. -/
theorem noteApply_other (h : oMode x.raw = 2 → x.noApply = true) (s : State) : noteApply x s = s := by
  refine if_neg fun ⟨ha, hn⟩ => ?_
  simp only [isApply, Bool.and_eq_true, decide_eq_true_eq] at ha
  simp [h ha.2] at hn

theorem noteApply_apply (h9 : dKind x.raw = 9) (h : oMode x.raw = 2) (hn : x.noApply = false) (s : State) : noteApply x s = noteApplied (oGrp x.raw) s :=
  if_pos ⟨by simpa [isApply, h9, oMode] using h, hn⟩

theorem runOpt_seed (h : oMode x.raw = 0) (w : Who) (s : State) :
    (runOpt s w x).stage = [] ∧ (runOpt s w x).writes = [(dSp x.raw 2, dAddr x.raw 2 * 64, packCodes (elemBits (dFmtC x.raw))
      ((optVals s w x.raw 0 (dFmtA x.raw) (oCount x.raw) 0).map fun y => (convertTo (dFmtC x.raw) (f32 (mulF y (pow2F x.lsExp)))).code))] := by
  simp [runOpt, h, KOut.none, Function.comp_def]

theorem runOpt_check (h : oMode x.raw = 1) (w : Who) (s : State) :
    runOpt s w x = { KOut.none with nonfinite := (optVals s w x.raw 0 (dFmtA x.raw) (oCount x.raw) 0).any fun y => !finF y } := by
  simp [runOpt, h]

theorem runOpt_skipped (h : oMode x.raw = 2) (hs : x.noApply = true) (w : Who) (s : State) : runOpt s w x = KOut.none := by
  simp [runOpt, h, hs]

theorem runOpt_apply (h : oMode x.raw = 2) (hs : x.noApply = false) (w : Who) (s : State) :
    (runOpt s w x).stage = [] ∧ ∃ c b, (runOpt s w x).writes = [(dSp x.raw 2, dAddr x.raw 2 * 64, c), (dSp x.raw 1, dAddr x.raw 1 * 64, b)] := by
  simp only [runOpt, h, hs]
  exact ⟨rfl, _, _, rfl⟩

/-- What saturates nothing and gives no NaN counts its tiles and seals, and a gradient that is not finite sets its group's flag. -/
theorem countOut_clean {o : KOut} (hs : o.sat = 0) (hn : o.out.nan = 0) (hi : o.out.inf = 0) (w : Who) (x : Work) (s : State) :
    countOut w x o s =
      let u := bump (pgPe w.d w.e) Reg.PE_ATTN_TILES o.tiles (bump (pgPe w.d w.e) Reg.PE_KV_SEALS o.seals s)
      if o.nonfinite then setF pgAdm Reg.ADM_OPT_STAT_SKIP (putBits (getF u pgAdm Reg.ADM_OPT_STAT_SKIP) (oGrp x.raw) 1 1) u else u := by
  simp [countOut, hs, hn, hi]

/-- The flag of the group is set where the gradient is not finite, and no other flag. -/
theorem countOut_skip {o : KOut} (hs : o.sat = 0) (hn : o.out.nan = 0) (hi : o.out.inf = 0) (w : Who) (x : Work) (s : State) :
    getF (countOut w x o s) pgAdm Reg.ADM_OPT_STAT_SKIP =
      if o.nonfinite then putBits (getF s pgAdm Reg.ADM_OPT_STAT_SKIP) (oGrp x.raw) 1 1 else getF s pgAdm Reg.ADM_OPT_STAT_SKIP := by
  rw [countOut_clean hs hn hi]
  extract_lets u
  have kept : getF u pgAdm Reg.ADM_OPT_STAT_SKIP = getF s pgAdm Reg.ADM_OPT_STAT_SKIP :=
    ((leavesHub_bump ..).trans (leavesHub_bump ..)).getF_hub (by decide)
  have grp : oGrp x.raw + 1 ≤ 4 := Nat.mod_lt _ (by decide)
  split
  · rw [getF_setF_same (by decide), kept]
    exact Nat.mod_eq_of_lt (putBits_lt 1 (getFij_lt s pgAdm Reg.ADM_OPT_STAT_SKIP 0 0) grp)
  · exact kept

/-- The memory after a descriptor with one write. -/
theorem completeDesc_stores {w : Who} (h9 : dKind x.raw = 9) {y : Nat × Nat × List Byte} (hs : (runOpt s w x).stage = []) (hw : (runOpt s w x).writes = [y])
    (hy : y.1 ≠ 3) {a : Nat} (ha : accAddr w.d ⟨true, y.1, y.2.1, y.2.2.length⟩ = some a) (hl : lregDiscard s a y.2.2.length = none) (k c : Nat) :
    (completeDesc w k x c s).mem = (memWrite a y.2.2 s).mem := by
  have charged := leavesHub_chargeDesc w (descAccs s w x) s
  rw [completeDesc_mem, runKernel_opt h9, storeOut_writes hs, hw, List.foldl_cons, List.foldl_nil,
    storeWrite_device hy ha ((lregDiscard_congr charged.regs ..).trans hl)]
  exact memWrite_mem_congr charged.mem a y.2.2

/-- The memory after a descriptor with two writes. -/
theorem completeDesc_stores_both {w : Who} (h9 : dKind x.raw = 9) {y z : Nat × Nat × List Byte} (hs : (runOpt s w x).stage = [])
    (hw : (runOpt s w x).writes = [y, z]) (hy : y.1 ≠ 3) (hz : z.1 ≠ 3) {a b : Nat} (ha : accAddr w.d ⟨true, y.1, y.2.1, y.2.2.length⟩ = some a)
    (hb : accAddr w.d ⟨true, z.1, z.2.1, z.2.2.length⟩ = some b) (hla : lregDiscard s a y.2.2.length = none)
    (hlb : lregDiscard s b z.2.2.length = none) (k c : Nat) :
    (completeDesc w k x c s).mem = (memWrite b z.2.2 (memWrite a y.2.2 s)).mem := by
  have charged := leavesHub_chargeDesc w (descAccs s w x) s
  have stored (v : Nat) (hv : v < 0x50000000) : regW (memWrite a y.2.2 (chargeDesc w (descAccs s w x) s)) v = regW s v :=
    (regW_congr (memWrite_regs ..) v).trans (charged.regs v hv)
  rw [completeDesc_mem, runKernel_opt h9, storeOut_writes hs, hw, List.foldl_cons, List.foldl_cons, List.foldl_nil,
    storeWrite_device hy ha ((lregDiscard_congr charged.regs ..).trans hla), storeWrite_device hz hb ((lregDiscard_congr stored ..).trans hlb)]
  exact memWrite_mem_congr (memWrite_mem_congr charged.mem a y.2.2) b z.2.2

/-- A descriptor that writes nothing leaves memory alone. -/
theorem completeDesc_stores_nothing {w : Who} (h9 : dKind x.raw = 9) (hs : (runOpt s w x).stage = []) (hw : (runOpt s w x).writes = []) (k c : Nat) :
    (completeDesc w k x c s).mem = s.mem := by
  rw [completeDesc_mem, runKernel_opt h9, storeOut_writes hs, hw]
  exact (leavesHub_chargeDesc w (descAccs s w x) s).mem

/-- A CHECK shows in the skip flags what its gradient holds. -/
theorem completeDesc_check (h9 : dKind x.raw = 9) (hm : oMode x.raw = 1) (w : Who) (k c : Nat) (s : State) :
    getF (completeDesc w k x c s) pgAdm Reg.ADM_OPT_STAT_SKIP =
      if (optVals s w x.raw 0 (dFmtA x.raw) (oCount x.raw) 0).any (fun y => !finF y) then putBits (getF s pgAdm Reg.ADM_OPT_STAT_SKIP) (oGrp x.raw) 1 1
      else getF s pgAdm Reg.ADM_OPT_STAT_SKIP := by
  have kept : getF (chargeDesc w (descAccs s w x) s) pgAdm Reg.ADM_OPT_STAT_SKIP = getF s pgAdm Reg.ADM_OPT_STAT_SKIP :=
    (leavesHub_chargeDesc w (descAccs s w x) s).getF_hub (by decide)
  rw [(leavesHub_completeDesc w k x c s).getF_hub (by decide), noteApply_other (by simp [hm]), runKernel_opt h9, runOpt_check hm,
    storeOut_writes rfl, countOut_skip rfl rfl rfl, ← kept]
  rfl

theorem exec_optSeed (d k : Nat) (s : State) : exec (.optSeed d k) s = .next (optDone 0 d k s) := (rfl)

theorem exec_optCheck (d k : Nat) (s : State) : exec (.optCheck d k) s = .next (optDone 1 d k s) := (rfl)

theorem exec_optApply (d k : Nat) (s : State) : exec (.optApply d k) s = .next (optDone 2 d k s) := (rfl)

end Step

/-- A piece that is left alone after all is not among those that may change. -/
theorem samesBut_drop {l : List Piece} {p : Piece} (h : samesBut (l ++ [p]) s t) (k : p.same s t) : samesBut l s t := by
  refine ⟨h.1, fun q hq => ?_⟩
  by_cases e : q = p
  · exact e ▸ k
  · exact h.2 q (by simp [hq, e])

/-- Settles O37: the descriptor completes; what its mode writes, and what it counts, is what changes. -/
theorem optimiserSteps : Obligations.OptimiserSteps := by
  unfold Obligations.OptimiserSteps
  intro d k e ac ab x s h hd he h9 hq hsp hw hr hp n grad seeded out
  have run {m : Nat} (hm : oMode x.raw = m) : Host.Outcome.next (optDone m d k s) =
      (.next (completeDesc ⟨d, e, x.part⟩ k x (optClocks x.raw) s) : Host.Outcome State Fault Refusal) :=
    congrArg _ (optDone_completes h h9 hm hw hr hp)
  have leaves : (engOf (completeDesc ⟨d, e, x.part⟩ k x (optClocks x.raw) s) d e).queue = (engOf s d e).queue.drop 1 :=
    completeDesc_queue (w := ⟨d, e, x.part⟩) hd he k x _
  have lrn := completeDesc_lrn ⟨d, e, x.part⟩ k x (optClocks x.raw) s
  refine ⟨fun hm hac hl => ?_, fun hm => ?_, fun hm hs => ?_, fun hm hs hac hab hlc hlb => ?_⟩
  · have runs := (exec_optSeed d k s).trans (run hm)
    obtain ⟨hstage, hwrites⟩ := runOpt_seed hm ⟨d, e, x.part⟩ s
    rw [noteApply_other (by simp [hm])] at lrn
    exact does runs ⟨samesBut_drop (l := access ++ [.mem]) (p := .lrn) (samesBut_reach runs rfl) lrn,
      completeDesc_stores (w := ⟨d, e, x.part⟩) h9 hstage hwrites (hsp 2 (by decide)) hac hl k _, leaves⟩
  · have runs := (exec_optCheck d k s).trans (run hm)
    have hk := runOpt_check hm ⟨d, e, x.part⟩ s
    have mem := completeDesc_stores_nothing h9 (congrArg KOut.stage hk) (congrArg KOut.writes hk) k (optClocks x.raw)
    rw [noteApply_other (by simp [hm])] at lrn
    exact does runs ⟨samesBut_drop (p := .mem) (samesBut_drop (l := access ++ [.mem]) (p := .lrn) (samesBut_reach runs rfl) lrn) mem, leaves,
      completeDesc_check h9 hm ⟨d, e, x.part⟩ k _ s⟩
  · have runs := (exec_optApply d k s).trans (run hm)
    have hk := runOpt_skipped hm hs ⟨d, e, x.part⟩ s
    have mem := completeDesc_stores_nothing h9 (congrArg KOut.stage hk) (congrArg KOut.writes hk) k (optClocks x.raw)
    rw [noteApply_other fun _ => hs] at lrn
    exact does runs ⟨samesBut_drop (p := .mem) (samesBut_drop (l := access ++ [.mem]) (p := .lrn) (samesBut_reach runs rfl) lrn) mem, leaves⟩
  · have runs := (exec_optApply d k s).trans (run hm)
    obtain ⟨hstage, c, b, hwrites⟩ := runOpt_apply hm hs ⟨d, e, x.part⟩ s
    rw [noteApply_apply h9 hm hs] at lrn
    simp only [out, hwrites] at hac hab hlc hlb ⊢
    exact does runs ⟨samesBut_reach runs rfl, lrn,
      completeDesc_stores_both (w := ⟨d, e, x.part⟩) h9 hstage hwrites (hsp 2 (by decide)) (hsp 1 (by decide)) hac hab hlc hlb k _, leaves⟩

end Sys2Proof.Machine
end

section
/-! PROOFS. Chapter 08, the Ethernet links: transmit queues, gate lists and management frames (R231, R232, R451). -/

namespace Sys2Proof.Machine

open Sys2Proof

variable {s t u : State} {n : Nat}

/-! ### The transmit queues -/

/-- The words that count the frames sent, one for each MAC. -/
def txCounts : List Nat := (List.range 8).map fun m => pageBase pgEth + 0x114 + m * 0x40

/-- A frame leaves its MAC. -/
def frameSent (s : State) (x : Nat × Nat × List Byte) : State := bumpI pgEth Reg.ETH_MAC_TX_FRAMES x.1 1 (emit (.eth x.1 x.2.1 x.2.2) s)

/-- The queues without the frames that may leave. -/
def txKept (s : State) : State := { s with eth := { s.eth with txq := s.eth.txq.filter fun x => !canSend s x } }

theorem drainTx_eq (s : State) : drainTx s = (s.eth.txq.filter (canSend s)).foldl frameSent (txKept s) := (rfl)

theorem txCounts_mem {m : Nat} (h : m < 8) : fieldAddr pgEth Reg.ETH_MAC_TX_FRAMES m 0 ∈ txCounts :=
  List.mem_map.2 ⟨m, List.mem_range.2 h, by simp [fieldAddr, Reg.ETH_MAC_TX_FRAMES, Nat.add_assoc]⟩

/-- A field of the port that lies where no MAC counts the frames it sent. -/
theorem txCounts_not_mem {r : Row} {i : Nat} (ho : r.off % 64 ≠ 0x14) (hs : r.s1 % 64 = 0) : fieldAddr pgEth r i 0 ∉ txCounts := by
  obtain ⟨k, hk⟩ := Nat.dvd_of_mod_eq_zero hs
  have hm : i * r.s1 = 64 * (i * k) := by rw [hk]; ring
  simp only [txCounts, List.mem_map, List.mem_range, fieldAddr, pageBase, hm, not_exists, not_and]
  omega

theorem frameSent_eth (s : State) (x : Nat × Nat × List Byte) : (frameSent s x).eth = s.eth := by rw [frameSent, bumpI_eth, emit_eth]

theorem regsBut_frameSent {x : Nat × Nat × List Byte} (h : x.1 < 8) (k : regsBut txCounts s t) : regsBut txCounts s (frameSent t x) :=
  regsBut_bumpI 1 (txCounts_mem h) (regsBut_emit _ k)

theorem grows_frameSent (s : State) (x : Nat × Nat × List Byte) : grows s (frameSent s x) :=
  grows_same (by rw [frameSent, bumpI_io]) (grows_emit (.eth x.1 x.2.1 x.2.2) (grows_refl s))

theorem puts_frameSent (s : State) (x : Nat × Nat × List Byte) : puts (.eth x.1 x.2.1 x.2.2) s (frameSent s x) :=
  puts_grows (grows_same (by rw [frameSent, bumpI_io]) (grows_refl _)) (puts_emit _ (grows_refl s))

/-- Frames that leave change the counts of their MACs and the output alone, and each of them is put out. -/
theorem framesSent_shows {l : List (Nat × Nat × List Byte)} (h : ∀ x ∈ l, x.1 < 8) (s : State) :
    (l.foldl frameSent s).eth = s.eth ∧ regsBut txCounts s (l.foldl frameSent s) ∧ ∀ x ∈ l, puts (.eth x.1 x.2.1 x.2.2) s (l.foldl frameSent s) := by
  induction l generalizing s with
  | nil => exact ⟨rfl, regsBut_refl _ s, fun x hx => absurd hx List.not_mem_nil⟩
  | cons x l ih =>
    obtain ⟨heth, hregs, hputs⟩ := ih (fun y hy => h y (List.mem_cons_of_mem _ hy)) (frameSent s x)
    refine ⟨heth.trans (frameSent_eth s x), fun a ha => (hregs a ha).trans (regsBut_frameSent (h x List.mem_cons_self) (regsBut_refl _ s) a ha), fun y hy => ?_⟩
    rcases List.mem_cons.1 hy with rfl | hy
    · exact puts_grows (grows_foldl grows_frameSent l _) (puts_frameSent s y)
    · exact puts_after (grows_frameSent s x) (hputs y hy)

/-- What may leave follows from the gates in force and from registers that count nothing. -/
theorem canSend_congr (hg : t.eth.gates = s.eth.gates) (hr : regsBut txCounts s t) : canSend t = canSend s := by
  funext x
  have link : flagI t pgEth Reg.ETH_MAC_LINK x.1 = flagI s pgEth Reg.ETH_MAC_LINK x.1 := by
    rw [flagI, flagI, getFi_regsBut hr (txCounts_not_mem (by decide) (by decide))]
  have en : flagI t pgEth Reg.ETH_QBV_EN x.1 = flagI s pgEth Reg.ETH_QBV_EN x.1 := by
    rw [flagI, flagI, getFi_regsBut hr (txCounts_not_mem (by decide) (by decide))]
  rw [canSend, canSend, txGate, txGate, link, en, hg]

/-- From the queues of `s`, the frames that may leave in `t` have left, and no others. -/
def drainedTo (s t : State) : Prop :=
  t.eth.txq = s.eth.txq.filter (fun x => !canSend t x) ∧ ∀ x ∈ s.eth.txq, canSend t x = true → puts (.eth x.1 x.2.1 x.2.2) s t

/-- A drain lets the frames go whose gate is open, and changes nothing else but the counts of the frames sent. -/
theorem drainTx_shows (h : ∀ x ∈ s.eth.txq, x.1 < 8) :
    (drainTx s).eth.gates = s.eth.gates ∧ regsBut txCounts s (drainTx s) ∧ drainedTo s (drainTx s) := by
  obtain ⟨heth, hregs, hputs⟩ := framesSent_shows (l := s.eth.txq.filter (canSend s)) (fun x hx => h x (List.mem_of_mem_filter hx)) (txKept s)
  rw [← drainTx_eq] at heth hregs hputs
  have gates : (drainTx s).eth.gates = s.eth.gates := by rw [heth, txKept]
  have can : canSend (drainTx s) = canSend s := canSend_congr gates hregs
  refine ⟨gates, hregs, ?_, fun x hx hc => ?_⟩
  · rw [heth, can, txKept]
  · exact hputs x (List.mem_filter.2 ⟨hx, by rwa [← can]⟩)

/-- A drain after a change that touches neither the queues nor the output. -/
theorem drainTx_after (hs : ∀ x ∈ s.eth.txq, x.1 < 8) (hq : u.eth.txq = s.eth.txq) (ho : u.io.outbox = s.io.outbox) {l : List Nat}
    (hr : regsBut l s u) : (drainTx u).eth.gates = u.eth.gates ∧ regsBut (l ++ txCounts) s (drainTx u) ∧ drainedTo s (drainTx u) := by
  obtain ⟨hg, hregs, hkept, hsent⟩ := drainTx_shows (s := u) (by rwa [hq])
  rw [hq] at hkept hsent
  refine ⟨hg, fun a ha => ?_, hkept, fun x hx hc => puts_after (grows_same ho (grows_refl s)) (hsent x hx hc)⟩
  rw [List.mem_append, not_or] at ha
  exact (hregs a ha.2).trans (hr a ha.1)

/-! ### Links (R231) -/

/-- A link that comes up shows its speed, one that goes down keeps the last. -/
def linkShown (n : Nat) (up : Bool) (speed : Nat) (s : State) : State :=
  let s := setFi pgEth Reg.ETH_MAC_LINK n (if up then 1 else 0) s
  if up then setFi pgEth Reg.ETH_MAC_SPEED n speed s else s

theorem exec_usxgmiiLinkChange {speed : Nat} (hn : n < 8) (hs : speed ≤ 3) (up : Bool) (s : State) :
    exec (.usxgmiiLinkChange n up speed) s = .next (drainTx (linkShown n up speed s)) :=
  congrArg Host.Outcome.next (if_neg (by omega))

theorem linkShown_eth (n : Nat) (up : Bool) (speed : Nat) (s : State) : (linkShown n up speed s).eth = s.eth := by cases up <;> rfl

theorem linkShown_io (n : Nat) (up : Bool) (speed : Nat) (s : State) : (linkShown n up speed s).io = s.io := by cases up <;> rfl

theorem regsBut_linkShown (n : Nat) (up : Bool) (speed : Nat) (s : State) :
    regsBut [pageBase pgEth + 0x100 + n * 0x40] s (linkShown n up speed s) := by
  have word {r : Row} (ho : r.off = 0x100) (h1 : r.s1 = 0x40) : fieldAddr pgEth r n 0 ∈ [pageBase pgEth + 0x100 + n * 0x40] := by
    simp [fieldAddr, ho, h1]
  have link := regsBut_setFi (if up then 1 else 0) (word (r := Reg.ETH_MAC_LINK) rfl rfl) (regsBut_refl _ s)
  cases up with
  | false => exact link
  | true => exact regsBut_setFi speed (word rfl rfl) link

theorem linkShown_link (n : Nat) (up : Bool) (speed : Nat) (s : State) :
    getFi (linkShown n up speed s) pgEth Reg.ETH_MAC_LINK n = if up then 1 else 0 := by
  cases up with
  | false => exact getFi_setFi_same (r := Reg.ETH_MAC_LINK) (by decide) n 0 s
  | true =>
    refine (getFi_setFi_apart (r := Reg.ETH_MAC_SPEED) (r' := Reg.ETH_MAC_LINK) (by decide) rfl (by decide) n speed _).trans ?_
    exact getFi_setFi_same (r := Reg.ETH_MAC_LINK) (by decide) n 1 s

theorem linkShown_speed {speed : Nat} (hs : speed ≤ 3) (n : Nat) (up : Bool) (s : State) :
    getFi (linkShown n up speed s) pgEth Reg.ETH_MAC_SPEED n = if up then speed else getFi s pgEth Reg.ETH_MAC_SPEED n := by
  cases up with
  | false => exact getFi_setFi_apart (r := Reg.ETH_MAC_LINK) (r' := Reg.ETH_MAC_SPEED) (by decide) rfl (by decide) n 0 s
  | true =>
    have fits : speed < 2 ^ Reg.ETH_MAC_SPEED.w := Nat.lt_of_le_of_lt hs (by decide)
    exact (getFi_setFi_same (r := Reg.ETH_MAC_SPEED) (by decide) n speed _).trans (Nat.mod_eq_of_lt fits)

theorem linkChange_shows {speed : Nat} (hq : ∀ x ∈ s.eth.txq, x.1 < 8) (hn : n < 8) (hs : speed ≤ 3) (up : Bool) :
    Does (.usxgmiiLinkChange n up speed) s fun t => samesBut [.regs, .io, .eth] s t ∧ getFi t pgEth Reg.ETH_MAC_LINK n = (if up then 1 else 0) ∧
      getFi t pgEth Reg.ETH_MAC_SPEED n = (if up then speed else getFi s pgEth Reg.ETH_MAC_SPEED n) ∧ t.eth.gates = s.eth.gates ∧
      regsBut ((pageBase pgEth + 0x100 + n * 0x40) :: txCounts) s t ∧ drainedTo s t := by
  have eth := linkShown_eth n up speed s
  have own (r : Row) (ho : r.off % 64 ≠ 0x14) (h1 : r.s1 % 64 = 0) :
      getFi (drainTx (linkShown n up speed s)) pgEth r n = getFi (linkShown n up speed s) pgEth r n :=
    getFi_regsBut (drainTx_shows (by rwa [eth])).2.1 (txCounts_not_mem ho h1)
  obtain ⟨hgates, hregs, hdrained⟩ := drainTx_after hq (by rw [eth]) (by rw [linkShown_io]) (regsBut_linkShown n up speed s)
  exact does_reach rfl (does (exec_usxgmiiLinkChange hn hs up s)
    ⟨(own _ (by decide) (by decide)).trans (linkShown_link n up speed s), (own _ (by decide) (by decide)).trans (linkShown_speed hs n up s),
      by rw [hgates, eth], hregs, hdrained⟩)

/-! ### Gate lists (R232, R451) -/

/-- The gates of MAC `n` change. -/
def modGates (n : Nat) (f : Gates → Gates) (s : State) : State := modEth (fun x => { x with gates := x.gates.modify n f }) s

theorem modGates_eth {g : Gates} (h : s.eth.gates[n]? = some g) (f : Gates → Gates) :
    (modGates n f s).eth = { s.eth with gates := s.eth.gates.set n (f g) } := by
  simp [modGates, modEth, List.modify_eq_set_getElem?, h]

theorem regsBut_modGates {l : List Nat} (f : Gates → Gates) (k : regsBut l s t) : regsBut l s (modGates n f t) := k

/-- A list is committed where it has one to 64 entries, each with an interval in range. -/
def listTakes (l : List (Nat × Nat)) : Prop := l ≠ [] ∧ l.length ≤ 64 ∧ l.all (fun e => 32 ≤ e.2 && e.2 ≤ 1000000000) = true

theorem exec_qbvCommit {who : Agent} (hc : controls who = true) (hn : n < 4) (s : State) : exec (.qbvCommit who n) s = .next (qbvCommit n s) :=
  congrArg Host.Outcome.next (asMaster_hub hc (by simp only [pageBase]; omega) (qbvCommit n) s)

theorem qbvCommit_takes (hn : n < 4) (h : listTakes (qbvWritten s n)) :
    qbvCommit n s = setFi pgEth Reg.ETH_QBV_PENDING n 1 (modGates n (fun g => { g with next := some (qbvWritten s n) }) s) := if_pos ⟨hn, h⟩

theorem qbvCommit_ignores (h : ¬ listTakes (qbvWritten s n)) : qbvCommit n s = s := if_neg fun k => h k.2

theorem listTakes_not {l : List (Nat × Nat)} (h : l = [] ∨ 64 < l.length ∨ ∃ e ∈ l, e.2 < 32 ∨ 1000000000 < e.2) : ¬ listTakes l := by
  rintro ⟨hne, hlen, hall⟩
  rcases h with h | h | ⟨e, he, h⟩
  · exact hne h
  · omega
  · have range := List.all_eq_true.1 hall e he
    simp only [Bool.and_eq_true, decide_eq_true_eq] at range
    omega

/-- The word of a MAC's QBV control. -/
theorem qbvWord {r : Row} (ho : r.off = 0x400) (h1 : r.s1 = 0x300) (n : Nat) (l : List Nat) :
    fieldAddr pgEth r n 0 ∈ (pageBase pgEth + 0x400 + n * 0x300) :: l := by simp [fieldAddr, ho, h1]

theorem commit_takes {who : Agent} {g : Gates} (hc : controls who = true) (hn : n < 4) (hg : s.eth.gates[n]? = some g) (h : listTakes (qbvWritten s n)) :
    Does (.qbvCommit who n) s fun t => samesBut [.regs, .eth] s t ∧ getFi t pgEth Reg.ETH_QBV_PENDING n = 1 ∧ regsBut [pageBase pgEth + 0x400 + n * 0x300] s t ∧
      t.eth = { s.eth with gates := s.eth.gates.set n { g with next := some (qbvWritten s n) } } := by
  refine does (exec_qbvCommit hc hn s) ⟨samesBut_keeps (qbvCommit_keeps n (by decide) (Keeps.refl _ s)), ?_⟩
  rw [qbvCommit_takes hn h]
  exact ⟨getFi_setFi_same (by decide) n 1 _, regsBut_setFi 1 (qbvWord rfl rfl n []) (regsBut_modGates _ (regsBut_refl _ s)),
    (setFi_eth ..).trans (modGates_eth hg _)⟩

/-- Entry `i` of the list in force applies; where there is none the last one does on. -/
def entryApplied (i : Nat) (g : Gates) : Gates :=
  match g.list[i]? with
  | some e => { g with pos := i, now := e.1 }
  | none => g

/-- A committed list takes effect. -/
def listTaken (g : Gates) : Gates :=
  match g.next with
  | some l => { g with list := l, next := none }
  | none => g

/-- A cycle starts: MAC `n` takes its committed list and nothing is pending. -/
def cycleStarted (n : Nat) (s : State) : State := setFi pgEth Reg.ETH_QBV_PENDING n 0 (modGates n listTaken s)

theorem exec_qbvCycleStart (hn : n < 4) (t0 : Nat) (s : State) :
    exec (.qbvCycleStart n t0) s = .next (drainTx (modGates n (entryApplied 0) (cycleStarted n (at_ t0 s)))) :=
  congrArg Host.Outcome.next (if_neg (by omega))

theorem exec_gateIntervalEnd {g : Gates} (h : s.eth.gates[n]? = some g) (t0 : Nat) :
    exec (.gateIntervalEnd n t0) s = .next (drainTx (modGates n (entryApplied (g.pos + 1)) (at_ t0 s))) := by
  have e : exec (.gateIntervalEnd n t0) s = execGateIntervalEnd n t0 s := rfl
  simp only [e, execGateIntervalEnd, at_eth, h]
  rfl

theorem entryApplied_taken {g : Gates} {e : Nat × Nat} {l : List (Nat × Nat)} (h : g.next.getD g.list = e :: l) :
    entryApplied 0 (listTaken g) = ⟨e :: l, 0, e.1, none⟩ := by
  obtain ⟨list, pos, now, _ | committed⟩ := g
  · obtain rfl : list = e :: l := h
    rfl
  · obtain rfl : committed = e :: l := h
    rfl

theorem entryApplied_none {g : Gates} {i : Nat} (h : g.list[i]? = none) : entryApplied i g = g := by rw [entryApplied, h]

theorem entryApplied_some {g : Gates} {i : Nat} {e : Nat × Nat} (h : g.list[i]? = some e) : entryApplied i g = { g with pos := i, now := e.1 } := by
  rw [entryApplied, h]

theorem cycleStarted_eth {g : Gates} (h : s.eth.gates[n]? = some g) :
    (cycleStarted n s).eth = { s.eth with gates := s.eth.gates.set n (listTaken g) } := (setFi_eth ..).trans (modGates_eth h _)

theorem getElem?_set_gates {g : Gates} (h : s.eth.gates[n]? = some g) (g' : Gates) : (s.eth.gates.set n g')[n]? = some g' := by
  rw [List.getElem?_set_self]
  exact (List.getElem?_eq_some_iff.1 h).1

theorem cycleStart_shows {g : Gates} (hq : ∀ x ∈ s.eth.txq, x.1 < 8) (hn : n < 4) (hg : s.eth.gates[n]? = some g) {e : Nat × Nat} {l : List (Nat × Nat)}
    (h : g.next.getD g.list = e :: l) (t0 : Nat) :
    Does (.qbvCycleStart n t0) s fun t => samesBut [.regs, .io, .eth] s t ∧ getFi t pgEth Reg.ETH_QBV_PENDING n = 0 ∧
      t.eth.gates = s.eth.gates.set n ⟨e :: l, 0, e.1, none⟩ ∧ regsBut ((pageBase pgEth + 0x400 + n * 0x300) :: txCounts) s t ∧ drainedTo s t := by
  have taken := cycleStarted_eth (s := at_ t0 s) hg
  have eth : (modGates n (entryApplied 0) (cycleStarted n (at_ t0 s))).eth = { s.eth with gates := s.eth.gates.set n ⟨e :: l, 0, e.1, none⟩ } := by
    rw [modGates_eth (g := listTaken g) (by rw [taken]; exact getElem?_set_gates hg _), taken, entryApplied_taken h, List.set_set]
    rfl
  obtain ⟨hgates, hregs, hdrained⟩ := drainTx_after (u := modGates n (entryApplied 0) (cycleStarted n (at_ t0 s))) hq (by rw [eth]) rfl
    (regsBut_modGates (entryApplied 0) (regsBut_setFi 0 (qbvWord (r := Reg.ETH_QBV_PENDING) rfl rfl n []) (regsBut_modGates listTaken (regsBut_at t0 (regsBut_refl _ s)))))
  refine does_reach rfl (does (exec_qbvCycleStart hn t0 s) ⟨?_, by rw [hgates, eth], hregs, hdrained⟩)
  refine (getFi_regsBut (drainTx_shows (by rwa [eth])).2.1 (txCounts_not_mem (by decide) (by decide))).trans ?_
  exact getFi_setFi_same (by decide) n 0 _

/-- What the end of an interval leaves: the entry that follows applies, if there is one. -/
theorem intervalEnd_shows {g : Gates} (hq : ∀ x ∈ s.eth.txq, x.1 < 8) (hg : s.eth.gates[n]? = some g) (t0 : Nat) :
    Does (.gateIntervalEnd n t0) s fun t => samesBut [.regs, .io, .eth] s t ∧
      t.eth.gates = s.eth.gates.set n (entryApplied (g.pos + 1) g) ∧ regsBut txCounts s t ∧ drainedTo s t := by
  have eth : (modGates n (entryApplied (g.pos + 1)) (at_ t0 s)).eth = { s.eth with gates := s.eth.gates.set n (entryApplied (g.pos + 1) g) } :=
    modGates_eth (s := at_ t0 s) hg _
  obtain ⟨hgates, hregs, hdrained⟩ := drainTx_after (u := modGates n (entryApplied (g.pos + 1)) (at_ t0 s)) (l := []) hq (by rw [eth]) rfl
    (regsBut_modGates (entryApplied (g.pos + 1)) (regsBut_at t0 (regsBut_refl _ s)))
  exact does_reach rfl (does (exec_gateIntervalEnd hg t0) ⟨by rw [hgates, eth], hregs, hdrained⟩)

/-! ### Management frames (R231) -/

theorem exec_mdioStart {who : Agent} (hc : controls who = true) (s : State) : exec (.mdioStart who) s = .next (mdioStart s) :=
  congrArg Host.Outcome.next (asMaster_hub hc (by decide) mdioStart s)

/-- A management frame ends: GO clears and DONE sets. -/
def mdioEnded (s : State) : State := setF pgEth Reg.ETH_MDIO_GO 0 (setF pgEth Reg.ETH_MDIO_DONE 1 s)

theorem exec_mdioDone (h : getF s pgEth Reg.ETH_MDIO_GO = 1) (v : Nat) :
    exec (.mdioDone v) s = .next (if getF (mdioEnded s) pgEth Reg.ETH_MDIO_OP = 2 then setF pgEth Reg.ETH_MDIO_DATA v (mdioEnded s) else mdioEnded s) :=
  congrArg Host.Outcome.next (if_pos (by simp [flag, h]))

/-- Another field than GO and DONE. -/
theorem mdioEnded_field {r : Row} (hg : apart Reg.ETH_MDIO_GO r = true) (hd : apart Reg.ETH_MDIO_DONE r = true) (s : State) :
    getF (mdioEnded s) pgEth r = getF s pgEth r := by
  rw [mdioEnded, getF_setF_apart (by decide) hg, getF_setF_apart (by decide) hd]

theorem mdioEnded_shows (s : State) :
    getF (mdioEnded s) pgEth Reg.ETH_MDIO_GO = 0 ∧ getF (mdioEnded s) pgEth Reg.ETH_MDIO_DONE = 1 ∧
      regsBut [pageBase pgEth + 0x80, pageBase pgEth + 0x84] s (mdioEnded s) := by
  refine ⟨getF_setF_same (by decide) 0 _, ?_, regsBut_setF 0 List.mem_cons_self (regsBut_setF 1 List.mem_cons_self (regsBut_refl _ s))⟩
  rw [mdioEnded, getF_setF_apart (by decide) (by decide), getF_setF_same (by decide)]
  rfl

theorem mdioDone_shows {v : Nat} (h : getF s pgEth Reg.ETH_MDIO_GO = 1) (hv : v < 65536) :
    Does (.mdioDone v) s fun t => samesBut [.regs] s t ∧ getF t pgEth Reg.ETH_MDIO_GO = 0 ∧ getF t pgEth Reg.ETH_MDIO_DONE = 1 ∧
      getF t pgEth Reg.ETH_MDIO_DATA = (if getF s pgEth Reg.ETH_MDIO_OP = 2 then v else getF s pgEth Reg.ETH_MDIO_DATA) ∧
      regsBut [pageBase pgEth + 0x80, pageBase pgEth + 0x84] s t := by
  obtain ⟨hgo, hdone, hregs⟩ := mdioEnded_shows s
  have op : getF (mdioEnded s) pgEth Reg.ETH_MDIO_OP = getF s pgEth Reg.ETH_MDIO_OP := mdioEnded_field (by decide) (by decide) s
  refine does_reach rfl (does (exec_mdioDone h v) ?_)
  rw [op]
  split
  · refine ⟨?_, ?_, (getF_setF_same (by decide) v _).trans (Nat.mod_eq_of_lt hv), regsBut_setF v (List.mem_cons_of_mem _ List.mem_cons_self) hregs⟩
    · rw [getF_setF_apart (by decide) (by decide), hgo]
    · rw [getF_setF_apart (by decide) (by decide), hdone]
  · exact ⟨hgo, hdone, mdioEnded_field (by decide) (by decide) s, hregs⟩

/-- Settles O39: a link, a gate list or an interval changes, then the queues drain; management frames touch MDIO alone. -/
theorem ethernetLinks : Obligations.EthernetLinks := by
  intro who n speed v t0 up g s hq
  refine ⟨fun hn hs => linkChange_shows hq hn hs up, fun hn hg => ⟨?_, ?_, ?_, ?_, ?_⟩, fun hc => ?_, fun h hv => mdioDone_shows h hv⟩
  · exact fun hc hne hlen hall => commit_takes hc hn hg ⟨hne, hlen, hall⟩
  · exact fun hc h => does (exec_qbvCommit hc hn s) (qbvCommit_ignores (listTakes_not h))
  · exact fun e l h => cycleStart_shows hq hn hg h t0
  · intro e h
    have ended := intervalEnd_shows hq hg t0
    rwa [entryApplied_some h] at ended
  · intro h
    obtain ⟨t, he, hs, hgates, hr, -⟩ := intervalEnd_shows hq hg t0
    rw [entryApplied_none h] at hgates
    obtain ⟨hlt, rfl⟩ := List.getElem?_eq_some_iff.1 hg
    exact ⟨t, he, hs, hgates.trans (List.set_getElem_self hlt), hr⟩
  · exact does (exec_mdioStart hc s) ⟨samesBut_keeps (mdioStart_keeps (by decide) (Keeps.refl _ s)), getF_setF_same (by decide) 1 _,
      regsBut_setF 1 List.mem_cons_self (regsBut_emit _ (regsBut_refl _ s)), puts_grows (grows_same (by rw [mdioStart, setF_io]) (grows_refl _)) (puts_emit _ (grows_refl s))⟩

end Sys2Proof.Machine
end

section
/-! PROOFS. Chapter 08, device time (R235, R236, R239): pairs, peer delay, the loss of sync, the grandmaster and the choice of the receiving port. -/

namespace Sys2Proof.Machine

open Sys2Proof

variable {s t u : State} {mac : Nat}

/-! ### The clock -/

/-- At the instant from which a correction is slewed in, none of it has been. -/
theorem slewed_start (h : s.eth.slewFrom = s.io.now) : slewed s = 0 := by
  simp only [slewed, h, Nat.sub_self, Nat.zero_mul, Nat.zero_div, Nat.cast_zero, Int.neg_zero]
  split <;> omega

theorem devTime_start (h : s.eth.slewFrom = s.io.now) : devTime s = s.io.now + s.eth.offset := by rw [devTime, slewed_start h, add_zero]

theorem devTime_congr (he : t.eth = s.eth) (hi : t.io = s.io) : devTime t = devTime s := by rw [devTime, devTime, slewed, slewed, he, hi]

/-- The clock shows the same time when what was slewed in becomes part of its offset. -/
theorem devTime_fixTime (s : State) : devTime (fixTime s) = devTime s := by
  have fixed : devTime (fixTime s) = s.io.now + (s.eth.offset + slewed s) := devTime_start rfl
  rw [fixed, devTime, add_assoc]

/-! ### Sync and Follow_Up (R236) -/

theorem ptpPort_lt (h : ptpPort s mac = true) : mac < 8 := by
  simp only [ptpPort, Bool.and_eq_true, decide_eq_true_eq] at h
  exact h.1

/-- The offset from the master that a pair shows. -/
def syncOffset (mac : Nat) (master corr : Int) (s : State) : Int :=
  devTime s - getFi s pgEth Reg.ETH_LAT_RX mac - (master + corr + s.eth.pdelay.getD mac 0)

/-- The page shows SYNCED, the port of the pair and its offset. -/
def syncShown (mac : Nat) (off : Int) (s : State) : State :=
  setF pgEth Reg.ETH_PTP_OFFSET (unsint 32 off) (setF pgEth Reg.ETH_PTP_STAT_RX_PORT mac (setF pgEth Reg.ETH_PTP_STAT_STATE 2 s))

/-- The clock slews a small offset and steps by a larger one (log entry 30). -/
def clockMoved (off : Int) (s : State) : State :=
  if off ≤ 2000 ∧ -2000 ≤ off then modEth (fun x => { x with slew := -off }) s else modEth (fun x => { x with offset := x.offset - off }) s

theorem exec_gptpSync (hr : ptpReceiver s = true) (hp : ptpPort s mac = true) (hx : ptpRxPort s = some mac) (master corr : Int) (t0 : Nat) :
    exec (.gptpSync mac master corr t0) s = .next (clockMoved (syncOffset mac master corr (fixTime (at_ t0 s)))
      (syncShown mac (syncOffset mac master corr (fixTime (at_ t0 s))) (fixTime (at_ t0 s)))) :=
  congrArg Host.Outcome.next (if_pos ⟨hr, hp, hx⟩)

theorem syncOffset_fixTime (mac : Nat) (master corr : Int) (s : State) : syncOffset mac master corr (fixTime s) = syncOffset mac master corr s := by
  rw [syncOffset, devTime_fixTime]
  rfl

theorem syncShown_shows (h : mac < 8) (off : Int) (s : State) :
    getF (syncShown mac off s) pgEth Reg.ETH_PTP_STAT_STATE = 2 ∧ getF (syncShown mac off s) pgEth Reg.ETH_PTP_STAT_RX_PORT = mac ∧
      getF (syncShown mac off s) pgEth Reg.ETH_PTP_OFFSET = unsint 32 off ∧ regsBut [pageBase pgEth + 0x44, pageBase pgEth + 0x48] s (syncShown mac off s) := by
  have fits : unsint 32 off < 2 ^ 32 := by unfold unsint; omega
  refine ⟨?_, ?_, (getF_setF_same (by decide) _ _).trans (Nat.mod_eq_of_lt fits), ?_⟩
  · rw [syncShown, getF_setF_apart (by decide) (by decide), getF_setF_apart (by decide) (by decide), getF_setF_same (by decide)]
    rfl
  · rw [syncShown, getF_setF_apart (by decide) (by decide), getF_setF_same (by decide)]
    exact Nat.mod_eq_of_lt h
  · have stat := regsBut_setF (r := Reg.ETH_PTP_STAT_STATE) 2 List.mem_cons_self (regsBut_refl [pageBase pgEth + 0x44, pageBase pgEth + 0x48] s)
    exact regsBut_setF _ (List.mem_cons_of_mem _ List.mem_cons_self) (regsBut_setF mac List.mem_cons_self stat)

theorem clockMoved_regs (off : Int) (s : State) : (clockMoved off s).regs = s.regs := by unfold clockMoved; split <;> rfl

/-- Beside the clock nothing of the block moves. -/
theorem clockMoved_rest (off : Int) (s : State) :
    (clockMoved off s).eth.pdelay = s.eth.pdelay ∧ (clockMoved off s).eth.txq = s.eth.txq ∧ (clockMoved off s).eth.gates = s.eth.gates := by
  unfold clockMoved
  split <;> exact ⟨rfl, rfl, rfl⟩

theorem clockMoved_slews {off : Int} (h : s.eth.slewFrom = s.io.now) (ho : -2000 ≤ off ∧ off ≤ 2000) :
    devTime (clockMoved off s) = devTime s ∧ (clockMoved off s).eth.slew = -off := by
  rw [clockMoved, if_pos ho.symm]
  exact ⟨(devTime_start (s := modEth (fun x => { x with slew := -off }) s) h).trans (devTime_start h).symm, rfl⟩

theorem clockMoved_steps {off : Int} (h : s.eth.slewFrom = s.io.now) (ho : ¬ (-2000 ≤ off ∧ off ≤ 2000)) :
    devTime (clockMoved off s) = devTime s - off ∧ (clockMoved off s).eth.slew = s.eth.slew := by
  rw [clockMoved, if_neg (fun k => ho k.symm)]
  refine ⟨?_, rfl⟩
  rw [devTime_start h, add_sub_assoc]
  exact devTime_start (s := modEth (fun x => { x with offset := x.offset - off }) s) h

theorem sync_shows (hr : ptpReceiver s = true) (hp : ptpPort s mac = true) (hx : ptpRxPort s = some mac) (master corr : Int) (t0 : Nat) :
    let off := syncOffset mac master corr (at_ t0 s)
    Does (.gptpSync mac master corr t0) s fun t => samesBut [.regs, .io, .eth] s t ∧
      getF t pgEth Reg.ETH_PTP_STAT_STATE = 2 ∧ getF t pgEth Reg.ETH_PTP_STAT_RX_PORT = mac ∧ getF t pgEth Reg.ETH_PTP_OFFSET = unsint 32 off ∧
      regsBut [pageBase pgEth + 0x44, pageBase pgEth + 0x48] s t ∧ t.eth.pdelay = s.eth.pdelay ∧ t.eth.txq = s.eth.txq ∧ t.eth.gates = s.eth.gates ∧
      (if -2000 ≤ off ∧ off ≤ 2000 then devTime t = devTime (at_ t0 s) ∧ t.eth.slew = -off else devTime t = devTime (at_ t0 s) - off ∧ t.eth.slew = 0) := by
  intro off
  have runs := exec_gptpSync hr hp hx master corr t0
  rw [syncOffset_fixTime] at runs
  obtain ⟨hstate, hport, hoff, hregs⟩ := syncShown_shows (ptpPort_lt hp) off (fixTime (at_ t0 s))
  have start : (syncShown mac off (fixTime (at_ t0 s))).eth.slewFrom = (syncShown mac off (fixTime (at_ t0 s))).io.now := rfl
  have time : devTime (syncShown mac off (fixTime (at_ t0 s))) = devTime (at_ t0 s) := devTime_fixTime (at_ t0 s)
  have regs := clockMoved_regs off (syncShown mac off (fixTime (at_ t0 s)))
  obtain ⟨hdelay, htxq, hgates⟩ := clockMoved_rest off (syncShown mac off (fixTime (at_ t0 s)))
  refine does_reach rfl (does runs ⟨(getF_congr regs _ _).trans hstate, (getF_congr regs _ _).trans hport, (getF_congr regs _ _).trans hoff,
    regsBut_same regs hregs, hdelay, htxq, hgates, ?_⟩)
  rw [← time]
  split
  next ho => exact clockMoved_slews start ho
  next ho => exact clockMoved_steps start ho

/-! ### The peer delay (R235) -/

theorem exec_gptpPdelay (he : getF s pgEth Reg.ETH_PTP_CTL_ENABLE = 1) (hp : ptpPort s mac = true) (kind : Nat) (t1 t2 t3 t4 : Int) :
    exec (.gptpPdelay mac kind t1 t2 t3 t4) s = .next (if kind = 0 then emit (.gptp mac 1 [t1, t2, t3]) s
      else modEth (fun x => { x with pdelay := x.pdelay.set mac (roundOpen (t4 - t1 - (t3 - t2)) 2) }) s) :=
  congrArg Host.Outcome.next (if_pos ⟨by simp [flag, he], hp⟩)

theorem samesBut_emit (e : Emission) (s : State) : samesBut [.io] s (emit e s) := samesBut_keeps (emit_keeps e (by decide) (Keeps.refl _ s))

/-! ### The loss of sync (R236, R239) -/

/-- The registers of the Ethernet page stay. -/
def keepsEthPage (s t : State) : Prop := ∀ a, a / 4096 = 0x4005C → regW t a = regW s a

theorem keepsEthPage_getF (h : keepsEthPage s t) {r : Row} (hr : r.off < 4096) : getF t pgEth r = getF s pgEth r := by
  unfold getF getFij
  rw [h _ (by simp only [fieldAddr, pageBase]; omega)]

theorem keepsEthPage_codeIn (h : keepsEthPage s t) {c : Nat} (k : codeIn s pgEth c) : codeIn t pgEth c := by
  rwa [codeIn, keepsEthPage_getF h (by decide), keepsEthPage_getF h (by decide)]

/-- A record in a page of a stream writes there, to the warnings and to the ledger's queue. -/
theorem keepsEthPage_record {sm : Nat} (hs : sm < 24) (code : Nat) (s : State) : keepsEthPage s (record (pgIng sm) code s) := by
  intro a ha
  have other : a / 4096 ≠ pageBase (pgIng sm) / 4096 := by simp only [pageBase]; omega
  have head : header a := by unfold header; omega
  unfold record recordAt recordWarn
  split
  · rw [warnAbout_ne head, recordPlain_page_ne other]
  · exact recordPlain_page_ne other _ _ _ _

theorem keepsEthPage_setF {sm : Nat} (hs : sm < 24) {r : Row} (hr : r.off < 4096) (v : Nat) (s : State) : keepsEthPage s (setF (pgIng sm) r v s) :=
  fun a ha => setF_page_ne hr (by simp only [pageBase]; omega) v s

theorem keepsEthPage_trans (h : keepsEthPage s t) (k : keepsEthPage t u) : keepsEthPage s u := fun a ha => (k a ha).trans (h a ha)

theorem keepsEthPage_ite {c : Prop} [Decidable c] (h : keepsEthPage s t) (k : keepsEthPage s u) : keepsEthPage s (if c then t else u) := by
  split <;> assumption

theorem keepsEthPage_healthNoted {sm : Nat} (hs : sm < 24) (h old : Nat) (s : State) : keepsEthPage s (healthNoted sm h old s) := by
  have same : keepsEthPage s s := fun _ _ => rfl
  have noted (c : Nat) := keepsEthPage_record hs c s
  exact keepsEthPage_ite same (keepsEthPage_ite (noted _) (keepsEthPage_ite (noted _) (keepsEthPage_ite (noted _)
    (keepsEthPage_ite (noted _) (keepsEthPage_ite (noted _) same)))))

theorem keepsEthPage_updHealth {sm : Nat} (hs : sm < 24) (s : State) : keepsEthPage s (updHealth sm s) := by
  rw [updHealth_eq]
  have shown : keepsEthPage s (healthShown sm s) := keepsEthPage_trans (keepsEthPage_setF hs (by decide) _ s) (keepsEthPage_healthNoted hs _ _ _)
  exact keepsEthPage_trans shown (keepsEthPage_trans (keepsEthPage_setF hs (by decide) _ _) (keepsEthPage_setF (sm := 0) (by decide) (by decide) _ _))

/-- A stream that needs sync has lost it. -/
def syncLost (sm : Nat) (s : State) : State := updHealth sm (modStrm sm (fun x => { x with timeBad := true, timeok := 0 }) s)

/-- The turn of a stream while LOST is shown. -/
def lossMet (s : State) (sm : Nat) : State :=
  if strmKind s sm ≠ 0 ∧ strmF s sm Reg.ING_CTL_NEED_SYNC = 1 ∧ ptpLost s then syncLost sm s else s

theorem syncHealth_eq (s : State) : syncHealth s = (List.range 24).foldl lossMet s := (rfl)

/-- What the loss of sync leaves as it is: the Ethernet page, the streams' configurations, and the streams that are TIME_BAD already. -/
structure KeepsLoss (s t : State) : Prop where
  page : keepsEthPage s t
  count : t.ing.length = s.ing.length
  cfg : ∀ k, (strmOf t k).cfg = (strmOf s k).cfg
  bad : ∀ k, (strmOf s k).timeBad = true → (strmOf t k).timeBad = true

theorem KeepsLoss.refl (s : State) : KeepsLoss s s := ⟨fun _ _ => rfl, rfl, fun _ => rfl, fun _ => id⟩

theorem KeepsLoss.trans (h : KeepsLoss s t) (k : KeepsLoss t u) : KeepsLoss s u :=
  ⟨keepsEthPage_trans h.page k.page, k.count.trans h.count, fun i => (k.cfg i).trans (h.cfg i), fun i hb => k.bad i (h.bad i hb)⟩

theorem strmOf_modStrm_ne {sm k : Nat} (h : k ≠ sm) (f : Strm → Strm) (s : State) : strmOf (modStrm sm f s) k = strmOf s k := by
  simp [strmOf, modStrm, List.getD_eq_getElem?_getD, Ne.symm h]

theorem syncLost_strmOf {sm : Nat} (h : sm < s.ing.length) : strmOf (syncLost sm s) sm = { strmOf s sm with timeBad := true, timeok := 0 } := by
  rw [syncLost, strmOf_congr (updHealth_ing ..), strmOf_modStrm h]

theorem syncLost_strmOf_ne {sm k : Nat} (h : k ≠ sm) (s : State) : strmOf (syncLost sm s) k = strmOf s k := by
  rw [syncLost, strmOf_congr (updHealth_ing ..), strmOf_modStrm_ne h]

theorem keepsLoss_syncLost {sm : Nat} (hs : sm < 24) (h : sm < s.ing.length) : KeepsLoss s (syncLost sm s) where
  page := keepsEthPage_trans (fun a _ => regW_congr (modStrm_regs ..) a) (keepsEthPage_updHealth hs _)
  count := by rw [syncLost, updHealth_ing, modStrm_length]
  cfg k := by
    by_cases e : k = sm
    · rw [e, syncLost_strmOf h]
    · rw [syncLost_strmOf_ne e]
  bad k hb := by
    by_cases e : k = sm
    · rw [e, syncLost_strmOf h]
    · rwa [syncLost_strmOf_ne e]

theorem strmF_congr {sm : Nat} (h : (strmOf t sm).cfg = (strmOf s sm).cfg) (r : Row) : strmF t sm r = strmF s sm r := by rw [strmF, strmF, h]

theorem strmKind_congr {sm : Nat} (h : (strmOf t sm).cfg = (strmOf s sm).cfg) : strmKind t sm = strmKind s sm := by
  rw [strmKind, strmKind, strmF_congr h, strmF_congr h]

theorem lossMet_shows {sm : Nat} (hs : sm < 24) (hn : s.ing.length = 24) (hp : ptpLost s = true) :
    KeepsLoss s (lossMet s sm) ∧ (strmKind s sm ≠ 0 → strmF s sm Reg.ING_CTL_NEED_SYNC = 1 → (strmOf (lossMet s sm) sm).timeBad = true) := by
  unfold lossMet
  split
  · exact ⟨keepsLoss_syncLost hs (by omega), fun _ _ => by rw [syncLost_strmOf (by omega)]⟩
  next idle => exact ⟨KeepsLoss.refl s, fun hk hy => absurd ⟨hk, hy, hp⟩ idle⟩

/-- With the loss shown, every stream of a list that is enabled and needs sync is TIME_BAD after its turn. -/
theorem streamsLost (l : List Nat) (hl : ∀ sm ∈ l, sm < 24) (hn : s.ing.length = 24) (hp : ptpLost s = true) :
    KeepsLoss s (l.foldl lossMet s) ∧
      ∀ sm ∈ l, strmKind s sm ≠ 0 → strmF s sm Reg.ING_CTL_NEED_SYNC = 1 → (strmOf (l.foldl lossMet s) sm).timeBad = true := by
  induction l generalizing s with
  | nil => exact ⟨KeepsLoss.refl s, fun sm h => absurd h List.not_mem_nil⟩
  | cons sm l ih =>
    obtain ⟨kept, bad⟩ := lossMet_shows (hl sm List.mem_cons_self) hn hp
    have lost : ptpLost (lossMet s sm) = true := by rwa [ptpLost, keepsEthPage_getF kept.page (by decide)]
    obtain ⟨later, rest⟩ := ih (fun k hk => hl k (List.mem_cons_of_mem _ hk)) (kept.count.trans hn) lost
    refine ⟨kept.trans later, fun k hk hkind hneed => ?_⟩
    rcases List.mem_cons.1 hk with rfl | hk
    · exact later.bad k (bad hkind hneed)
    · exact rest k hk (by rwa [strmKind_congr (kept.cfg k)]) (by rwa [strmF_congr (kept.cfg k)])

/-- LOST is shown and recorded. -/
def lossShown (s : State) : State := record pgEth 0x49 (setF pgEth Reg.ETH_PTP_STAT_STATE 3 (fixTime s))

theorem exec_gptpSyncLoss (hr : ptpReceiver s = true) (h2 : getF s pgEth Reg.ETH_PTP_STAT_STATE = 2) (t0 : Nat) :
    exec (.gptpSyncLoss t0) s = .next (syncHealth (lossShown (at_ t0 s))) := congrArg Host.Outcome.next (if_pos ⟨hr, h2⟩)

theorem lossShown_shows (s : State) :
    getF (lossShown s) pgEth Reg.ETH_PTP_STAT_STATE = 3 ∧ codeIn (lossShown s) pgEth 0x49 ∧ (lossShown s).ing = s.ing := by
  refine ⟨?_, codeIn_record (by decide) (by decide) (by decide) _, record_ing ..⟩
  rw [lossShown, getF_record (by decide), getF_setF_same (by decide)]
  rfl

theorem syncLoss_shows (hr : ptpReceiver s = true) (h2 : getF s pgEth Reg.ETH_PTP_STAT_STATE = 2) (hn : s.ing.length = 24) (t0 : Nat) :
    Does (.gptpSyncLoss t0) s fun t => samesBut (report ++ [.eth, .ing]) s t ∧ getF t pgEth Reg.ETH_PTP_STAT_STATE = 3 ∧ codeIn t pgEth 0x49 ∧
      ∀ sm < 24, strmKind s sm ≠ 0 → strmF s sm Reg.ING_CTL_NEED_SYNC = 1 → (strmOf t sm).timeBad = true := by
  obtain ⟨hstate, hcode, hing⟩ := lossShown_shows (at_ t0 s)
  have lost : ptpLost (lossShown (at_ t0 s)) = true := by rw [ptpLost, hstate]; rfl
  obtain ⟨kept, bad⟩ := streamsLost (List.range 24) (fun _ => List.mem_range.1) (by rw [hing]; exact hn) lost
  rw [← syncHealth_eq] at kept bad
  have cfg (sm : Nat) : (strmOf (lossShown (at_ t0 s)) sm).cfg = (strmOf s sm).cfg := congrArg Strm.cfg (strmOf_congr hing sm)
  refine does_reach rfl (does (exec_gptpSyncLoss hr h2 t0) ⟨(keepsEthPage_getF kept.page (by decide)).trans hstate, keepsEthPage_codeIn kept.page hcode, ?_⟩)
  exact fun sm hs hk hy => bad sm (List.mem_range.2 hs) (by rwa [strmKind_congr (cfg sm)]) (by rwa [strmF_congr (cfg sm)])

/-! ### The grandmaster (R235) -/

theorem exec_ptpSet {who : Agent} (hc : controls who = true) (hi : Bool) (v : Word) (s : State) :
    exec (.ptpSet who hi v) s = .next (writePtpSet hi v.toNat s) := by
  refine congrArg Host.Outcome.next (asMaster_hub hc ?_ (writePtpSet hi v.toNat) s)
  cases hi <;> decide

theorem writePtpSet_low (v : Nat) (s : State) : writePtpSet false v s = setF pgEth Reg.ETH_PTP_SET_LO v s := (rfl)

/-- The clock of a grandmaster shows `x`. -/
def clockSet (x : Int) (s : State) : State := modEth (fun e => { e with offset := x - s.io.now, slew := 0, slewFrom := s.io.now }) s

theorem devTime_clockSet (x : Int) (s : State) : devTime (clockSet x s) = x := by
  have reached : devTime (clockSet x s) = s.io.now + (x - s.io.now) := devTime_start rfl
  rw [reached]
  omega

theorem writePtpSet_high (h : ptpMaster s = true) (v : Word) : writePtpSet true v.toNat s =
    clockSet (getF s pgEth Reg.ETH_PTP_SET_LO + 2 ^ 32 * v.toNat : Nat) (setF pgEth Reg.ETH_PTP_SET_HI v.toNat s) := by
  have kept {r : Row} (hr : apart Reg.ETH_PTP_SET_HI r = true) : getF (setF pgEth Reg.ETH_PTP_SET_HI v.toNat s) pgEth r = getF s pgEth r :=
    getF_setF_apart (by decide) hr v.toNat s
  have master : ptpMaster (setF pgEth Reg.ETH_PTP_SET_HI v.toNat s) = true := by
    rwa [ptpMaster, flag, flag, kept (by decide), kept (by decide)]
  have time : ((getF s pgEth Reg.ETH_PTP_SET_LO + 2 ^ 32 * v.toNat : Nat) : Int) =
      getF s pgEth Reg.ETH_PTP_SET_LO + 2 ^ 32 * ((v.toNat : Int) % 2 ^ 32) := by
    have := v.isLt
    omega
  refine (if_pos master).trans ?_
  rw [kept (by decide), time, clockSet]

/-- Sync and Follow_Up leave a port. -/
def syncSent (s : State) (m : Nat) : State := emit (.gptp m 3 [devTime s + getFi s pgEth Reg.ETH_LAT_TX m]) (emit (.gptp m 2 []) s)

theorem exec_grandmasterSync (h : ptpMaster s = true) (t0 : Nat) :
    exec (.grandmasterSync t0) s = .next ((bitsSet 8 (getF s pgEth Reg.ETH_PTP_CTL_PORTS)).foldl syncSent (at_ t0 s)) :=
  congrArg Host.Outcome.next (if_pos h)

theorem grows_syncSent (s : State) (m : Nat) : grows s (syncSent s m) := grows_emit _ (grows_emit _ (grows_refl s))

/-- Every port of a list sends both messages, the second with the time of the first. -/
theorem syncsSent_puts {l : List Nat} (h : mac ∈ l) (s : State) :
    puts (.gptp mac 2 []) s (l.foldl syncSent s) ∧ puts (.gptp mac 3 [devTime s + getFi s pgEth Reg.ETH_LAT_TX mac]) s (l.foldl syncSent s) := by
  induction l generalizing s with
  | nil => exact absurd h List.not_mem_nil
  | cons m l ih =>
    rcases List.mem_cons.1 h with rfl | h
    · have later := grows_foldl grows_syncSent l (syncSent s mac)
      exact ⟨puts_grows later (puts_grows (grows_emit _ (grows_refl _)) (puts_emit _ (grows_refl s))), puts_grows later (puts_emit _ (grows_emit _ (grows_refl s)))⟩
    · obtain ⟨hsync, hfollow⟩ := ih h (syncSent s m)
      exact ⟨puts_after (grows_syncSent s m) hsync, puts_after (grows_syncSent s m) hfollow⟩

/-! ### The receiving port (R235; log entry 32) -/

/-- Is an Announce on MAC `mac` better than the best so far, or a new one on its port. -/
def announceWins (mac : Nat) (a : Announce) (best : Option (Nat × Announce)) : Bool :=
  match best with
  | none => true
  | some (m, b) => m = mac || lexLt (announceKey a) (announceKey b)

/-- An Announce decides the receiving port. -/
def portChosen (mac : Nat) (a : Announce) (s : State) : State :=
  setF pgEth Reg.ETH_PTP_STAT_RX_PORT mac (modEth (fun x => { x with best := some (mac, a) }) s)

theorem exec_gptpAnnounce {a : Announce} (hr : ptpReceiver s = true) (hb : getF s pgEth Reg.ETH_PTP_CTL_BMCA = 1) (hp : ptpPort s mac = true)
    (hd : a.domain = getF s pgEth Reg.ETH_PTP_CTL_DOMAIN) :
    exec (.gptpAnnounce mac a) s = .next (if announceWins mac a s.eth.best then portChosen mac a s else s) := by
  have e : exec (.gptpAnnounce mac a) s = .next (if ptpReceiver s ∧ flag s pgEth Reg.ETH_PTP_CTL_BMCA ∧ ptpPort s mac ∧
    a.domain = getF s pgEth Reg.ETH_PTP_CTL_DOMAIN ∧ announceWins mac a s.eth.best then portChosen mac a s else s) := rfl
  simp [e, hr, hp, flag, hb, hd]

theorem portChosen_shows (h : mac < 8) (a : Announce) (s : State) :
    samesBut [.regs, .eth] s (portChosen mac a s) ∧ getF (portChosen mac a s) pgEth Reg.ETH_PTP_STAT_RX_PORT = mac ∧
      (portChosen mac a s).eth = { s.eth with best := some (mac, a) } ∧ regsBut [pageBase pgEth + 0x44] s (portChosen mac a s) :=
  ⟨samesBut_keeps (setF_keeps _ _ _ (by decide) (modEth_keeps _ (by decide) (Keeps.refl _ s))), (getF_setF_same (by decide) mac _).trans (Nat.mod_eq_of_lt h), rfl,
    regsBut_setF mac List.mem_cons_self (regsBut_same (modEth_regs ..) (regsBut_refl _ s))⟩

/-- Settles O40: a theorem for each command; the loss of sync goes through the streams one by one. -/
theorem deviceTime : Obligations.DeviceTime := by
  intro who mac kind t0 master corr t1 t2 t3 t4 v a s
  refine ⟨fun hr hp hx => sync_shows hr hp hx master corr t0, fun he hp => ⟨?_, ?_⟩, fun hr h2 hn => syncLoss_shows hr h2 hn t0,
    fun hc => ⟨?_, fun hm => ?_⟩, fun hm h8 hbit => ?_, fun hr hb hp hd => ⟨fun hbest => ?_, fun m b hbest hne hlex => ?_⟩⟩
  · exact does (exec_gptpPdelay he hp 0 t1 t2 t3 t4) ⟨samesBut_emit _ s, puts_emit _ (grows_refl s)⟩
  · exact does (exec_gptpPdelay he hp (kind + 1) t1 t2 t3 t4) rfl
  · refine does (exec_ptpSet hc false v s) ?_
    rw [writePtpSet_low]
    exact ⟨samesBut_keeps (setF_keeps _ _ _ (by decide) (Keeps.refl _ s)), (getF_setF_same (by decide) _ s).trans (Nat.mod_eq_of_lt v.isLt),
      regsBut_setF _ List.mem_cons_self (regsBut_refl _ s)⟩
  · refine does (exec_ptpSet hc true v s) ⟨samesBut_keeps (writePtpSet_keeps _ _ (by decide) (Keeps.refl _ s)), ?_⟩
    rw [writePtpSet_high hm]
    exact ⟨(getF_setF_same (by decide) _ s).trans (Nat.mod_eq_of_lt v.isLt), regsBut_setF _ List.mem_cons_self (regsBut_refl _ s), devTime_clockSet _ _⟩
  · exact does_reach rfl (does (exec_grandmasterSync hm t0) (syncsSent_puts (List.mem_filter.2 ⟨List.mem_range.2 h8, hbit⟩) (at_ t0 s)))
  · have wins : announceWins mac a s.eth.best = true := by
      rcases hbest with h | ⟨m, b, h, hw⟩
      · rw [h]
        rfl
      · simpa [announceWins, h] using hw
    refine does (exec_gptpAnnounce hr hb hp hd) ?_
    rw [if_pos wins]
    exact portChosen_shows (ptpPort_lt hp) a s
  · refine does (exec_gptpAnnounce hr hb hp hd) (if_neg ?_)
    simp [announceWins, hbest, hne, hlex]

end Sys2Proof.Machine
end

section
/-! PROOFS. The host port (R231, R306 to R310, R426): the BARs, the DMA channels, the link and its reset, the root port, and the frames that a MAC does
not take. -/

namespace Sys2Proof.Machine

open Sys2Proof

variable {s t u : State} {d mac off : Nat} {b : List Byte}

/-! ### The BARs (R307) -/

theorem sparseGet_msixWrite (off : Nat) (l : List Byte) (s : State) {x : Nat} (h : x < off) :
    sparseGet memDefault (msixWrite off l s).boot.msixTable x = sparseGet memDefault s.boot.msixTable x := by
  induction l generalizing off s with
  | nil => rfl
  | cons y l ih =>
    have put : sparseGet memDefault (sparsePut memDefault s.boot.msixTable off y) x = sparseGet memDefault s.boot.msixTable x := by
      rw [sparseGet_put, if_neg (by omega)]
    exact (ih (off + 1) _ (by omega)).trans put

theorem msixBytes_congr (h : t.boot = s.boot) (off n : Nat) : msixBytes t off n = msixBytes s off n := by
  induction n generalizing off with
  | zero => rfl
  | succ n ih => rw [msixBytes, msixBytes, h, ih]

/-- The bytes just written to the MSI-X table are read back. -/
theorem msixBytes_msixWrite (off : Nat) (l : List Byte) (s : State) : msixBytes (msixWrite off l s) off l.length = l := by
  induction l generalizing off s with
  | nil => rfl
  | cons y l ih =>
    have first : sparseGet memDefault (msixWrite off (y :: l) s).boot.msixTable off = y :=
      (sparseGet_msixWrite (off + 1) l _ (Nat.lt_succ_self off)).trans (by rw [modBoot, sparseGet_put, if_pos rfl])
    rw [List.length_cons, msixBytes, first]
    exact congrArg (y :: ·) (ih (off + 1) _)

/-- The length of a host access. -/
def accessLen (len : Nat) (wr : Option (List Byte)) : Nat := match wr with | some b => b.length | none => len

theorem exec_hostAccess_root (h : flag s pgPcie Reg.PCIE_STAT_ROOT = true) (bar off len : Nat) (wr : Option (List Byte)) :
    exec (.hostAccess bar off len wr) s = .next s := congrArg Host.Outcome.next (if_pos h)

theorem exec_hostAccess_msix (h : ¬ flag s pgPcie Reg.PCIE_STAT_ROOT = true) {len : Nat} {wr : Option (List Byte)} (hn : off + accessLen len wr ≤ 0x10000) :
    exec (.hostAccess 4 off len wr) s = .next (match wr with
      | none => answer (msixBytes s off len) true false s
      | some b => answer [] true false (msixWrite off b s)) := by
  refine congrArg Host.Outcome.next ((if_neg h).trans ((if_neg (by simp)).trans ((if_neg (by simp)).trans ((if_pos ⟨rfl, hn⟩).trans ?_))))
  cases wr <;> rfl

theorem exec_hostAccess_hubSram (h : ¬ flag s pgPcie Reg.PCIE_STAT_ROOT = true) {len n : Nat} {wr : Option (List Byte)} (hn : accessLen len wr = n)
    (h1 : 0x04000000 ≤ off) (h0 : n ≠ 0) (h2 : off + n ≤ 0x06000000) : exec (.hostAccess 2 off len wr) s = .next (hostDev off n wr s) := by
  subst hn
  have within : off + accessLen len wr ≤ 0x4000000000 := by omega
  have sram : ¬ (touched off (accessLen len wr)).any (fun x => decide (x.2.2 = .control)) = true := by simp [touched_hubSram h1 h0 h2]
  exact congrArg Host.Outcome.next ((if_neg h).trans ((if_neg (by simp)).trans ((if_pos ⟨rfl, within⟩).trans (if_neg sram))))

theorem hostDev_read (h1 : 0x04000000 ≤ off) {len : Nat} (h0 : len ≠ 0) (h2 : off + len ≤ 0x06000000) (s : State) :
    hostDev off len none s = answer (memBytes s off len) true (hostAborts s off len false) s := by
  rw [hostDev, devRead_hubSram (by decide) h1 h0 h2]

theorem hostDev_write (h1 : 0x04000000 ≤ off) (h0 : b ≠ []) (h2 : off + b.length ≤ 0x06000000) (n : Nat) (s : State) :
    hostDev off n (some b) s = answer [] true (hostAborts s off b.length true) (memWrite off b s) := by
  rw [hostDev, devWrite_hubSram (by decide) h1 h0 h2]

/-! ### DMA channels (R308) -/

/-- The control word of channel `d`. -/
def dmaWord (d : Nat) : Nat := pageBase pgPcie + 0x110 + 0x20 * d

theorem fieldAddr_dma {r : Row} (ho : r.off = 0x110) (h1 : r.s1 = 0x20) (d : Nat) : fieldAddr pgPcie r d 0 = dmaWord d := by
  simp only [fieldAddr, ho, h1, dmaWord]
  omega

theorem fieldAddr_dma_mem {r : Row} (ho : r.off = 0x110) (h1 : r.s1 = 0x20) (d : Nat) : fieldAddr pgPcie r d 0 ∈ [dmaWord d] := by
  rw [fieldAddr_dma ho h1]
  exact List.mem_cons_self

/-- Another register of the channels than the control words. -/
theorem dma_other {r : Row} (ho : r.off = 0x100 ∨ r.off = 0x104 ∨ r.off = 0x10C) (h1 : r.s1 = 0x20) (i d : Nat) : fieldAddr pgPcie r i 0 ∉ [dmaWord d] := by
  simp only [fieldAddr, h1, dmaWord, List.mem_singleton]
  omega

/-- The fields of a channel's control word. -/
theorem rowsAt_dma (h : d < 4) : rowsAt pgPcie (0x110 + 0x20 * d) =
    [(Reg.PCIE_DMA_GO, d, 0), (Reg.PCIE_DMA_DIR, d, 0), (Reg.PCIE_DMA_DONE, d, 0), (Reg.PCIE_DMA_ERR, d, 0)] := by
  interval_cases d <;> rfl

/-- A write of the control word with DIR as it stands, and no bit to clear, leaves DIR. -/
theorem genWord_dir (h : d < 4) {v : Nat} (hv : bitsOf v 1 1 = getFi s pgPcie Reg.PCIE_DMA_DIR d) :
    getFi (genWord pgPcie (0x110 + 0x20 * d) v s) pgPcie Reg.PCIE_DMA_DIR d = getFi s pgPcie Reg.PCIE_DMA_DIR d := by
  have written : bitsOf (wordAfter s pgPcie (0x110 + 0x20 * d) v) 1 1 = bitsOf v 1 1 := by
    rw [wordAfter, rowsAt_dma h]
    refine (bitsOf_putBits_below (show 1 + 1 ≤ 3 by decide)).trans ((bitsOf_putBits_below (show 1 + 1 ≤ 2 by decide)).trans ((bitsOf_putBits_same _ 1 1 _).trans ?_))
    exact Nat.mod_mod _ _
  have stored : regW (genWord pgPcie (0x110 + 0x20 * d) v s) (dmaWord d) = BitVec.ofNat 32 (wordAfter s pgPcie (0x110 + 0x20 * d) v) := by
    have place : dmaWord d = pageBase pgPcie + (0x110 + 0x20 * d) := by rw [dmaWord, Nat.add_assoc]
    rw [genWord, place, regW_setW_same]
  have word : fieldAddr pgPcie Reg.PCIE_DMA_DIR d 0 = dmaWord d := fieldAddr_dma rfl rfl d
  have bit : bitsOf (wordAfter s pgPcie (0x110 + 0x20 * d) v % 2 ^ 32) 1 1 = bitsOf (wordAfter s pgPcie (0x110 + 0x20 * d) v) 1 1 := by
    simp only [bitsOf]
    omega
  rw [getFi, getFij, word, stored, BitVec.toNat_ofNat]
  exact bit.trans (written.trans hv)

theorem startWord_dir (s : State) (d : Nat) : bitsOf (startWord (flagI s pgPcie Reg.PCIE_DMA_DIR d) false) 1 1 = getFi s pgPcie Reg.PCIE_DMA_DIR d := by
  have one : getFi s pgPcie Reg.PCIE_DMA_DIR d < 2 := getFij_lt s pgPcie Reg.PCIE_DMA_DIR d 0
  generalize flagged : flagI s pgPcie Reg.PCIE_DMA_DIR d = dir
  cases dir with
  | false =>
    have zero : getFi s pgPcie Reg.PCIE_DMA_DIR d = 0 := by simpa [flagI] using flagged
    rw [zero]
    rfl
  | true =>
    have set : getFi s pgPcie Reg.PCIE_DMA_DIR d ≠ 0 := by simpa [flagI] using flagged
    rw [show getFi s pgPcie Reg.PCIE_DMA_DIR d = 1 by omega]
    rfl

/-- A control word with GO set starts its channel. -/
theorem pageWrite_dma (h : d < 4) (hl : locked s pgPcie = false) {v : Nat} (hg : v.testBit 0 = true) (who : Agent) :
    pageWrite who pgPcie (0x110 + 0x20 * d) v s = dmaStart d (genWord pgPcie (0x110 + 0x20 * d) v s) := by
  have applied : pageWrite who pgPcie (0x110 + 0x20 * d) v s = writePcie (0x110 + 0x20 * d) v s := by
    rw [pageWrite, if_neg (by omega), underLock, if_pos (by simp [hl])]
    rfl
  have chan : (0x110 + 0x20 * d - 0x100) / 0x20 = d := by omega
  rw [applied, writePcie, if_neg (by omega)]
  simp only [onBit, hg, if_true, chan]
  exact if_pos (by omega)

theorem exec_dmaStart {who : Agent} (hc : controls who = true) (h : d < 4) (hl : locked s pgPcie = false) :
    exec (.dmaStart who d) s = .next (answer [] true false
      (dmaStart d (genWord pgPcie (0x110 + 0x20 * d) (startWord (flagI s pgPcie Reg.PCIE_DMA_DIR d) false) s))) := by
  have word : fieldAddr pgPcie Reg.PCIE_DMA_GO d 0 = pageBase pgPcie + (0x110 + 0x20 * d) := by rw [fieldAddr_dma rfl rfl, dmaWord, Nat.add_assoc]
  have small : startWord (flagI s pgPcie Reg.PCIE_DMA_DIR d) false < 2 ^ 32 := by cases flagI s pgPcie Reg.PCIE_DMA_DIR d <;> decide
  have go : (startWord (flagI s pgPcie Reg.PCIE_DMA_DIR d) false).testBit 0 = true := by cases flagI s pgPcie Reg.PCIE_DMA_DIR d <;> decide
  refine congrArg Host.Outcome.next ((if_pos h).trans ?_)
  rw [word, regWrite_hub hc (by decide) (by omega) (by omega) (by decide) (fun _ => by decide) small, pageWrite_dma h hl go]

/-- Channel `d` is at work. -/
def dmaBegun (d : Nat) (s : State) : State :=
  setFi pgPcie Reg.PCIE_DMA_GO d 1 { s with mbx := { s.mbx with dmaBusy := d :: s.mbx.dmaBusy } }

theorem dmaBegun_field {r : Row} (h : apart Reg.PCIE_DMA_GO r = true) (h1 : r.s1 = 0x20) (d : Nat) (s : State) :
    getFi (dmaBegun d s) pgPcie r d = getFi s pgPcie r d := getFi_setFi_apart (by decide) h1.symm h d 1 _

theorem dmaStart_begins (h : d < 4) (hn : getFi s pgPcie Reg.PCIE_DMA_LEN d * 64 ≠ 0) (hb : d ∉ s.mbx.dmaBusy) :
    dmaStart d s = if flagI s pgPcie Reg.PCIE_DMA_DIR d then
      emit (.hostRead (get64 s pgPcie Reg.PCIE_DMA_HOST_LO Reg.PCIE_DMA_HOST_HI d) (getFi s pgPcie Reg.PCIE_DMA_LEN d * 64)) (dmaBegun d s)
    else dmaBegun d s := by
  have dir : flagI (dmaBegun d s) pgPcie Reg.PCIE_DMA_DIR d = flagI s pgPcie Reg.PCIE_DMA_DIR d := by
    rw [flagI, flagI, dmaBegun_field (by decide) rfl]
  have host : get64 (dmaBegun d s) pgPcie Reg.PCIE_DMA_HOST_LO Reg.PCIE_DMA_HOST_HI d = get64 s pgPcie Reg.PCIE_DMA_HOST_LO Reg.PCIE_DMA_HOST_HI d := by
    rw [get64, get64, dmaBegun_field (by decide) rfl, dmaBegun_field (by decide) rfl]
  rw [← dir, ← host]
  exact if_neg (by simp [hn, hb]; omega)

/-- What the start of a channel leaves, from the state after the write of its word. -/
theorem dmaStart_shows (h : d < 4) (hn : getFi s pgPcie Reg.PCIE_DMA_LEN d * 64 ≠ 0) (hb : d ∉ s.mbx.dmaBusy) :
    getFi (dmaStart d s) pgPcie Reg.PCIE_DMA_GO d = 1 ∧ (dmaStart d s).mbx = { s.mbx with dmaBusy := d :: s.mbx.dmaBusy } ∧
      (flagI s pgPcie Reg.PCIE_DMA_DIR d = true → puts (.hostRead (get64 s pgPcie Reg.PCIE_DMA_HOST_LO Reg.PCIE_DMA_HOST_HI d)
        (getFi s pgPcie Reg.PCIE_DMA_LEN d * 64)) s (dmaStart d s)) ∧ regsBut [dmaWord d] s (dmaStart d s) := by
  have go : getFi (dmaBegun d s) pgPcie Reg.PCIE_DMA_GO d = 1 := getFi_setFi_same (by decide) d 1 _
  have regs : regsBut [dmaWord d] s (dmaBegun d s) := regsBut_setFi 1 (fieldAddr_dma_mem rfl rfl d) (fun _ _ => rfl)
  rw [dmaStart_begins h hn hb]
  split
  · exact ⟨go, rfl, fun _ => puts_emit _ (grows_same rfl (grows_refl s)), regs⟩
  next dir => exact ⟨go, rfl, fun yes => absurd yes dir, regs⟩

theorem dmaStart_does {who : Agent} (hc : controls who = true) (h : d < 4) (hl : locked s pgPcie = false) (hn : getFi s pgPcie Reg.PCIE_DMA_LEN d * 64 ≠ 0)
    (hb : d ∉ s.mbx.dmaBusy) :
    Does (.dmaStart who d) s fun u => samesBut [.regs, .io, .mbx] s u ∧ getFi u pgPcie Reg.PCIE_DMA_GO d = 1 ∧
      u.mbx = { s.mbx with dmaBusy := d :: s.mbx.dmaBusy } ∧ (flagI s pgPcie Reg.PCIE_DMA_DIR d = true →
        puts (.hostRead (get64 s pgPcie Reg.PCIE_DMA_HOST_LO Reg.PCIE_DMA_HOST_HI d) (getFi s pgPcie Reg.PCIE_DMA_LEN d * 64)) s u) ∧
      u.io.resp.done = true ∧ regsBut [dmaWord d] s u := by
  let w := genWord pgPcie (0x110 + 0x20 * d) (startWord (flagI s pgPcie Reg.PCIE_DMA_DIR d) false) s
  have regs : regsBut [dmaWord d] s w := regsBut_setW _ (by simp [dmaWord, Nat.add_assoc]) (regsBut_refl _ s)
  have len : getFi w pgPcie Reg.PCIE_DMA_LEN d = getFi s pgPcie Reg.PCIE_DMA_LEN d := getFi_regsBut regs (dma_other (by decide) rfl d d)
  have host : get64 w pgPcie Reg.PCIE_DMA_HOST_LO Reg.PCIE_DMA_HOST_HI d = get64 s pgPcie Reg.PCIE_DMA_HOST_LO Reg.PCIE_DMA_HOST_HI d := by
    rw [get64, get64, getFi_regsBut regs (dma_other (by decide) rfl d d), getFi_regsBut regs (dma_other (by decide) rfl d d)]
  have dir : flagI w pgPcie Reg.PCIE_DMA_DIR d = flagI s pgPcie Reg.PCIE_DMA_DIR d := by
    rw [flagI, flagI, genWord_dir h (startWord_dir s d)]
  obtain ⟨hgo, hmbx, hread, hregs⟩ := dmaStart_shows (s := w) h (by rwa [len]) hb
  rw [len, host, dir] at hread
  refine does (exec_dmaStart hc h hl) ⟨?_, hgo, hmbx, hread, rfl, fun a ha => (hregs a ha).trans (regs a ha)⟩
  exact samesBut_answer (by decide) (samesBut_keeps (dmaStart_keeps d (by decide) (setW_keeps _ _ (by decide) (Keeps.refl _ s)))) _ _ _

/-- The copy of channel `d` has ended or stopped: it is no longer at work. -/
def dmaIdle (d : Nat) (s u : State) : Prop :=
  u.mbx = { s.mbx with dmaBusy := s.mbx.dmaBusy.filter (fun x => decide (x ≠ d)) } ∧ getFi u pgPcie Reg.PCIE_DMA_GO d = 0

/-- A flag of the control word is set as the channel stops. -/
theorem dmaStops_flag {r : Row} (ho : r.off = 0x110) (h1 : r.s1 = 0x20) (hw : r.w = 1 ∧ r.lo + r.w ≤ 32) (h : apart r Reg.PCIE_DMA_GO = true)
    (hm : u.mbx = s.mbx) (hr : u.regs = s.regs) (d : Nat) :
    dmaIdle d s (setFi pgPcie r d 1 (dmaStops d u)) ∧ getFi (setFi pgPcie r d 1 (dmaStops d u)) pgPcie r d = 1 ∧
      regsBut [dmaWord d] s (setFi pgPcie r d 1 (dmaStops d u)) := by
  have go : getFi (dmaStops d u) pgPcie Reg.PCIE_DMA_GO d = 0 := getFi_setFi_same (by decide) d 0 _
  have one : 1 % 2 ^ r.w = 1 := by rw [hw.1]; rfl
  have stopped : (dmaStops d u).mbx = { s.mbx with dmaBusy := s.mbx.dmaBusy.filter (fun x => decide (x ≠ d)) } := by rw [dmaStops, setFi_mbx, hm]
  have regs : regsBut [dmaWord d] s (dmaStops d u) := regsBut_setFi 0 (fieldAddr_dma_mem rfl rfl d) (fun a _ => regW_congr hr a)
  refine ⟨⟨stopped, ?_⟩, (getFi_setFi_same hw.2 d 1 _).trans one, regsBut_setFi 1 (fieldAddr_dma_mem ho h1 d) regs⟩
  rw [getFi_setFi_apart hw.2 h1 h, go]

theorem exec_dmaDone (h : d ∈ s.mbx.dmaBusy) (hb : flagI s pgPcie Reg.PCIE_DMA_DIR d = false ∨ b.length = getFi s pgPcie Reg.PCIE_DMA_LEN d * 64) :
    exec (.dmaDone d b) s = .next (setFi pgPcie Reg.PCIE_DMA_DONE d 1 (dmaStops d (dmaCopy d b s))) :=
  congrArg Host.Outcome.next (if_pos ⟨by simpa using h, hb⟩)

theorem exec_dmaError (h : d ∈ s.mbx.dmaBusy) (kind : Nat) :
    exec (.dmaError d kind) s = .next (record pgPcie 0x11 (setFi pgPcie Reg.PCIE_DMA_ERR d 1 (dmaStops d s))) :=
  congrArg Host.Outcome.next (if_pos (by simpa using h))

theorem dmaCopy_out (hd : flagI s pgPcie Reg.PCIE_DMA_DIR d = false) {a n : Nat} (ha : getFi s pgPcie Reg.PCIE_DMA_DEV d * 64 = a)
    (hn : getFi s pgPcie Reg.PCIE_DMA_LEN d * 64 = n) (h0 : n ≠ 0) (h1 : 0x04000000 ≤ a) (h2 : a + n ≤ 0x06000000) (b : List Byte) :
    dmaCopy d b s = emit (.hostWrite (get64 s pgPcie Reg.PCIE_DMA_HOST_LO Reg.PCIE_DMA_HOST_HI d) (memBytes s a n)) s := by
  simp [dmaCopy, hd, ha, hn, devRead_hubSram (who := .host) (by decide) h1 h0 h2]

theorem dmaCopy_in (hd : flagI s pgPcie Reg.PCIE_DMA_DIR d = true) {a : Nat} (ha : getFi s pgPcie Reg.PCIE_DMA_DEV d * 64 = a)
    (h0 : b ≠ []) (h1 : 0x04000000 ≤ a) (h2 : a + b.length ≤ 0x06000000) : dmaCopy d b s = memWrite a b s := by
  simp [dmaCopy, hd, ha, devWrite_hubSram (who := .host) (by decide) h1 h0 h2]

theorem dmaDone_out (h : d ∈ s.mbx.dmaBusy) (hd : flagI s pgPcie Reg.PCIE_DMA_DIR d = false) {a n : Nat} (ha : getFi s pgPcie Reg.PCIE_DMA_DEV d * 64 = a)
    (hn : getFi s pgPcie Reg.PCIE_DMA_LEN d * 64 = n) (h0 : n ≠ 0) (h1 : 0x04000000 ≤ a) (h2 : a + n ≤ 0x06000000) (b : List Byte) :
    Does (.dmaDone d b) s fun u => samesBut [.regs, .io, .mbx] s u ∧ dmaIdle d s u ∧ getFi u pgPcie Reg.PCIE_DMA_DONE d = 1 ∧
      puts (.hostWrite (get64 s pgPcie Reg.PCIE_DMA_HOST_LO Reg.PCIE_DMA_HOST_HI d) (memBytes s a n)) s u ∧ regsBut [dmaWord d] s u := by
  refine does (exec_dmaDone h (Or.inl hd)) ?_
  rw [dmaCopy_out hd ha hn h0 h1 h2]
  generalize Emission.hostWrite _ _ = e
  obtain ⟨idle, hdone, regs⟩ := dmaStops_flag (u := emit e s) (r := Reg.PCIE_DMA_DONE) rfl rfl (by decide) (by decide) rfl rfl d
  have kept : samesBut [.regs, .io, .mbx] s (setFi pgPcie Reg.PCIE_DMA_DONE d 1 (dmaStops d (emit e s))) :=
    samesBut_keeps (setFi_keeps _ _ _ _ (by decide) (dmaStops_keeps d (by decide) (emit_keeps e (by decide) (Keeps.refl _ s))))
  exact ⟨kept, idle, hdone, puts_grows (grows_same rfl (grows_refl _)) (puts_emit e (grows_refl s)), regs⟩

/-- Memory that holds `b` at `a` and is otherwise as before. -/
def storedAt (a : Nat) (b : List Byte) (s u : State) : Prop :=
  memBytes u a b.length = b ∧ ∀ x, x < a ∨ a + b.length ≤ x → sparseGet memDefault u.mem x = sparseGet memDefault s.mem x

theorem storedAt_memWrite (a : Nat) (b : List Byte) (s : State) : storedAt a b s (memWrite a b s) :=
  ⟨memBytes_memWrite a b s, fun _ hx => sparseGet_memWrite a b s hx⟩

theorem storedAt_congr {a : Nat} (hm : u.mem = t.mem) (h : storedAt a b s t) : storedAt a b s u :=
  ⟨(memBytes_congr hm _ _).trans h.1, fun x hx => by rw [hm, h.2 x hx]⟩

theorem dmaDone_in (h : d ∈ s.mbx.dmaBusy) (hd : flagI s pgPcie Reg.PCIE_DMA_DIR d = true) (hb : b.length = getFi s pgPcie Reg.PCIE_DMA_LEN d * 64)
    {a : Nat} (ha : getFi s pgPcie Reg.PCIE_DMA_DEV d * 64 = a) (h0 : b ≠ []) (h1 : 0x04000000 ≤ a) (h2 : a + b.length ≤ 0x06000000) :
    Does (.dmaDone d b) s fun u => samesBut [.regs, .mbx, .mem] s u ∧ dmaIdle d s u ∧ getFi u pgPcie Reg.PCIE_DMA_DONE d = 1 ∧ storedAt a b s u ∧
      regsBut [dmaWord d] s u := by
  refine does (exec_dmaDone h (Or.inr hb)) ?_
  rw [dmaCopy_in hd ha h0 h1 h2]
  obtain ⟨idle, hdone, regs⟩ := dmaStops_flag (r := Reg.PCIE_DMA_DONE) rfl rfl (by decide) (by decide) (memWrite_mbx a b s) (memWrite_regs a b s) d
  have kept : samesBut [.regs, .mbx, .mem] s (setFi pgPcie Reg.PCIE_DMA_DONE d 1 (dmaStops d (memWrite a b s))) :=
    samesBut_keeps (setFi_keeps _ _ _ _ (by decide) (dmaStops_keeps d (by decide) (memWrite_keeps a b (by decide) (Keeps.refl _ s))))
  exact ⟨kept, idle, hdone, storedAt_congr (t := memWrite a b s) rfl (storedAt_memWrite a b s), regs⟩

/-- A code that warns of nothing leaves the warnings alone. -/
theorem record_mbx {p : Page} {code : Nat} (h : codeWarns code = false) (hp : p ≠ pgClap) (s : State) : (record p code s).mbx = s.mbx := by
  rw [record, recordAt, if_neg (by simp [h, hp])]
  exact (recordPlain_keeps p code 0 0xFF (K := 2048) (by decide) (Keeps.refl _ s)).frame .mbx (by decide)

theorem dmaError_does (h : d ∈ s.mbx.dmaBusy) (hd : d < 4) (kind : Nat) :
    Does (.dmaError d kind) s fun u => samesBut report s u ∧ dmaIdle d s u ∧ getFi u pgPcie Reg.PCIE_DMA_ERR d = 1 ∧ codeIn u pgPcie 0x11 ∧
      quietBut [dmaWord d] s u := by
  obtain ⟨⟨mbx, go⟩, herr, regs⟩ := dmaStops_flag (u := s) (r := Reg.PCIE_DMA_ERR) rfl rfl (by decide) (by decide) rfl rfl d
  have word {r : Row} (ho : r.off = 0x110) (h1 : r.s1 = 0x20) : quiet (fieldAddr pgPcie r d 0) := by
    rw [fieldAddr_dma ho h1]
    simp only [quiet, dmaWord, pageBase]
    omega
  refine does_reach rfl (does (exec_dmaError h kind) ⟨⟨(record_mbx rfl (by decide) _).trans mbx, ?_⟩, ?_, codeIn_record (by decide) (by decide) (by decide) _, ?_⟩)
  · rw [getFi_record (word rfl rfl), go]
  · rw [getFi_record (word rfl rfl), herr]
  · exact quietBut_record _ _ fun a _ ha => regs a ha

/-! ### The port: reset, link and root port (R306, R310, R426) -/

theorem exec_pcieReset (h : ¬ flag s pgPcie Reg.PCIE_STAT_ROOT = true) :
    exec .pcieReset s = .next { resetPageFrom pgPcie 0 s with mbx := { s.mbx with dmaBusy := [] }, boot := { s.boot with msixTable := [] } } :=
  congrArg Host.Outcome.next (if_neg h)

/-- A reset of a page writes no register of another. -/
theorem resetPageFrom_ne {p : Page} {a : Nat} (h : a / 4096 ≠ pageBase p / 4096) (from_ : Nat) (s : State) : regW (resetPageFrom p from_ s) a = regW s a := by
  refine List.foldlRecOn (motive := fun u => regW u a = regW s a) _ _ rfl fun u hu e he => (regW_setW_ne ?_ _ u).trans hu
  have range := (List.mem_filter.1 he).2
  have := pageBase_mod p
  simp only [decide_eq_true_eq] at range
  omega

theorem exec_pcieIbMsi (h : flag s pgPcie Reg.PCIE_STAT_ROOT = true) (v : Word) : exec (.pcieIbMsi v) s = .next (intForce pgPcie 1 s) :=
  congrArg Host.Outcome.next (if_pos h)

theorem intForce_block (p : Page) (s : State) : (getF (intForce p 1 s) p Reg.HDR_INT_STAT_BLOCK).testBit 0 = true := by
  have old : getF s p Reg.HDR_INT_STAT_BLOCK < 2 ^ 31 := getFij_lt s p Reg.HDR_INT_STAT_BLOCK 0 0
  have joined : (getF s p Reg.HDR_INT_STAT_BLOCK ||| 1) < 2 ^ 31 := Nat.or_lt_two_pow old (by decide)
  have shown : getF (intForce p 1 s) p Reg.HDR_INT_STAT_BLOCK = getF s p Reg.HDR_INT_STAT_BLOCK ||| 1 :=
    (getF_congr (notifyEdge_regs _ _ _) _ _).trans ((getF_setF_same (by decide) _ _).trans (Nat.mod_eq_of_lt joined))
  simp [shown]

theorem quietBut_intForce {p : Page} (h : pageBase p % 4096 = 0) (s : State) : quietBut [] s (intForce p 1 s) := by
  intro a hq _
  have word : a ≠ fieldAddr p Reg.HDR_INT_STAT_BLOCK 0 0 := by
    have := hq.1
    simp only [fieldAddr, Reg.HDR_INT_STAT_BLOCK]
    omega
  exact (regW_congr (notifyEdge_regs _ _ _) a).trans (regW_setFij_ne word _ _)

/-- The link shows its state, width and generation. -/
def linkTrained (l w g : Nat) (s : State) : State := setF pgPcie Reg.PCIE_STAT_LINK_UP l (setF pgPcie Reg.PCIE_STAT_WIDTH w (setF pgPcie Reg.PCIE_STAT_GEN g s))

theorem exec_pcieLinkTraining_up {width gen : Nat} (h : 1 ≤ width ∧ width ≤ 16 ∧ 1 ≤ gen ∧ gen ≤ 5) (s : State) :
    exec (.pcieLinkTraining true width gen) s = .next (linkTrained 1 width gen s) :=
  congrArg Host.Outcome.next ((if_neg (by simp)).trans (if_pos h))

theorem exec_pcieLinkTraining_lost (width gen : Nat) (s : State) : exec (.pcieLinkTraining false width gen) s = .next (linkTrained 0 0 0 s) :=
  congrArg Host.Outcome.next (if_pos rfl)

theorem linkTrained_shows {l w g : Nat} (hl : l < 2) (hw : w < 32) (hg : g < 16) (s : State) :
    samesBut [.regs] s (linkTrained l w g s) ∧ getF (linkTrained l w g s) pgPcie Reg.PCIE_STAT_LINK_UP = l ∧
      getF (linkTrained l w g s) pgPcie Reg.PCIE_STAT_WIDTH = w ∧ getF (linkTrained l w g s) pgPcie Reg.PCIE_STAT_GEN = g ∧
      regsBut [pageBase pgPcie + 0x40] s (linkTrained l w g s) := by
  refine ⟨samesBut_keeps (setF_keeps _ _ _ (by decide) (setF_keeps _ _ _ (by decide) (setF_keeps _ _ _ (by decide) (Keeps.refl _ s)))),
    (getF_setF_same (by decide) l _).trans (Nat.mod_eq_of_lt hl), ?_, ?_, ?_⟩
  · rw [linkTrained, getF_setF_apart (by decide) (by decide), getF_setF_same (by decide)]
    exact Nat.mod_eq_of_lt hw
  · rw [linkTrained, getF_setF_apart (by decide) (by decide), getF_setF_apart (by decide) (by decide), getF_setF_same (by decide)]
    exact Nat.mod_eq_of_lt hg
  · have stat := regsBut_setF (r := Reg.PCIE_STAT_GEN) g List.mem_cons_self (regsBut_refl [pageBase pgPcie + 0x40] s)
    exact regsBut_setF l List.mem_cons_self (regsBut_setF w List.mem_cons_self stat)

theorem exec_downstreamMemoryWrite (hr : flag s pgPcie Reg.PCIE_STAT_ROOT = true) (h0 : b ≠ []) (hl : off + b.length ≤ getF s pgPcie Reg.PCIE_IB_LEN * 64)
    {a : Nat} (ha : getF s pgPcie Reg.PCIE_IB_BASE * 64 + off = a) (h1 : 0x04000000 ≤ a) (h2 : a + b.length ≤ 0x06000000) :
    exec (.downstreamMemoryWrite off b) s = .next (memWrite a b s) := by
  subst ha
  refine congrArg Host.Outcome.next ((if_pos ⟨hr, hl, h1, h2⟩).trans ?_)
  rw [devWrite_hubSram (by decide) h1 h0 h2]

/-! ### Frames that a MAC does not take (R231) -/

theorem exec_ethFrameReceive_down (h : flagI s pgEth Reg.ETH_MAC_LINK mac = false) (frame : EthFrame) (n : Nat) :
    exec (.ethFrameReceive mac frame n) s = .next (at_ n s) := congrArg Host.Outcome.next (if_pos (Or.inr h))

/-- A frame is counted as it arrives. -/
def frameArrived (mac n : Nat) (s : State) : State := bumpI pgEth Reg.ETH_MAC_RX_FRAMES mac 1 (at_ n s)

theorem exec_ethFrameReceive_bad (hm : mac < 8) (h : flagI s pgEth Reg.ETH_MAC_LINK mac = true) {frame : EthFrame}
    (hb : frame.fcsOk = false ∨ 9216 < frame.bytes.length) (n : Nat) :
    exec (.ethFrameReceive mac frame n) s = .next (bumpI pgEth Reg.ETH_MAC_RX_FCS mac 1 (frameArrived mac n s)) :=
  congrArg Host.Outcome.next ((if_neg (not_or.2 ⟨by omega, by rw [Bool.not_eq_false]; exact h⟩)).trans (if_pos hb))

theorem exec_ethFrameReceive_stopped (hm : mac < 8) (h : flagI s pgEth Reg.ETH_MAC_LINK mac = true) {frame : EthFrame} (hf : frame.fcsOk = true)
    (hl : frame.bytes.length ≤ 9216) (hb : barsRun s = false) (n : Nat) :
    exec (.ethFrameReceive mac frame n) s = .next (frameArrived mac n s) := by
  have state : cycState (frameArrived mac n s) = cycState s :=
    getFij_setFij_ne (by simp only [fieldAddr, pageBase, Reg.CYC_STAT_STATE, Reg.ETH_MAC_RX_FRAMES]; omega) _ _
  have bars : barsRun (frameArrived mac n s) = false := by rwa [barsRun, state]
  exact congrArg Host.Outcome.next ((if_neg (not_or.2 ⟨by omega, by rw [Bool.not_eq_false]; exact h⟩)).trans ((if_neg (by simp [hf]; omega)).trans (if_pos bars)))

theorem getFi_bumpI_same {p : Page} {r : Row} (h : r.lo + r.w ≤ 32) (i n : Nat) (s : State) :
    getFi (bumpI p r i n s) p r i = satAdd r.w (getFi s p r i) n :=
  (getFi_setFi_same h i _ s).trans (Nat.mod_eq_of_lt (satAdd_lt ..))

theorem getFi_bumpI_apart {p : Page} {r r' : Row} (hw : r.lo + r.w ≤ 32) (hs : r.s1 = r'.s1) (h : apart r r' = true) (i n : Nat) (s : State) :
    getFi (bumpI p r i n s) p r' i = getFi s p r' i := getFi_setFi_apart hw hs h i _ s

theorem samesBut_bumpI (p : Page) (r : Row) (i n : Nat) (h : samesBut [.regs, .io] s t) : samesBut [.regs, .io] s (bumpI p r i n t) :=
  samesBut_trans_of_subset (by simp) h (samesBut_keeps (l := [.regs]) (bumpI_keeps p r i n (by decide) (Keeps.refl _ t)))

theorem samesBut_at (n : Nat) (s : State) : samesBut [.io] s (at_ n s) := samesBut_keeps (at_keeps n (by decide) (Keeps.refl _ s))

/-- An arriving frame is counted among those received, and among none of those discarded. -/
theorem frameArrived_shows (mac n : Nat) (s : State) : samesBut [.regs, .io] s (frameArrived mac n s) ∧
    getFi (frameArrived mac n s) pgEth Reg.ETH_MAC_RX_FRAMES mac = satAdd 32 (getFi s pgEth Reg.ETH_MAC_RX_FRAMES mac) 1 ∧
      getFi (frameArrived mac n s) pgEth Reg.ETH_MAC_RX_FCS mac = getFi s pgEth Reg.ETH_MAC_RX_FCS mac :=
  ⟨samesBut_bumpI _ _ _ _ (samesBut_trans_of_subset (m := [.io]) (by simp) (samesBut_refl _ s) (samesBut_at n s)), getFi_bumpI_same (by decide) mac 1 _,
    getFi_bumpI_apart (r := Reg.ETH_MAC_RX_FRAMES) (r' := Reg.ETH_MAC_RX_FCS) (by decide) rfl (by decide) mac 1 _⟩

/-- Settles O49: the BARs, the channels and the root port go through the host's access of hub SRAM; the rest is each command's own branch. -/
theorem hostPort : Obligations.HostPort := by
  intro who d mac off width gen n b v kind frame s hd root word dev len host inSram kept idle rx ib link
  refine ⟨fun hr => ⟨?_, ?_, ?_⟩, fun hr hl => ⟨?_, ?_⟩, fun hr h0 ⟨h1, h2⟩ => ⟨?_, ?_⟩, fun hc hl hn hb => dmaStart_does hc hd hl hn hb,
    fun hb => ⟨fun hdir h0 ⟨h1, h2⟩ => dmaDone_out hb hdir rfl rfl h0 h1 h2 b, fun hdir h0 ⟨h1, h2⟩ hlen => ?_, dmaError_does hb hd kind⟩,
    fun hr => ?_, fun hr => does (congrArg Host.Outcome.next (if_pos hr)) rfl, fun hr => ?_, fun hr => does (congrArg Host.Outcome.next (if_neg hr)) rfl,
    fun w1 w16 g1 g5 => ?_, ?_, fun hr h0 hl ⟨h1, h2⟩ => ?_, fun hm => ⟨fun hl => ?_, fun hl hb => ?_, fun hl hf hs hb => ?_⟩⟩
  · exact does (exec_hostAccess_root hr ..) rfl
  · exact does (exec_hostAccess_root hr ..) rfl
  · exact does (exec_hostAccess_root hr ..) rfl
  · exact does (exec_hostAccess_msix hr hl) ⟨samesBut_answer (by decide) (samesBut_refl _ s) _ _ _, rfl⟩
  · refine does (exec_hostAccess_msix (wr := some b) hr hl) ⟨?_, rfl, ?_⟩
    · exact samesBut_answer (by decide) (samesBut_keeps (msixWrite_keeps off b (by decide) (Keeps.refl _ s))) _ _ _
    · exact (msixBytes_congr (answer_boot ..) _ _).trans (msixBytes_msixWrite off b s)
  · refine does (exec_hostAccess_hubSram (n := b.length) (wr := none) hr rfl h1 (by simpa using h0) h2) ?_
    rw [hostDev_read h1 (by simpa using h0) h2]
    exact ⟨samesBut_answer (by decide) (samesBut_refl _ s) _ _ _, rfl, rfl⟩
  · refine does (exec_hostAccess_hubSram (n := b.length) (wr := some b) hr rfl h1 (by simpa using h0) h2) ?_
    rw [hostDev_write h1 h0 h2]
    have stored := storedAt_congr (answer_mem [] true (hostAborts s off b.length true) _) (storedAt_memWrite off b s)
    exact ⟨samesBut_answer (by decide) (samesBut_keeps (memWrite_keeps off b (by decide) (Keeps.refl _ s))) _ _ _, rfl, stored⟩
  · obtain ⟨t, he, hs, hi, hdone, ⟨hb', hk⟩, hr⟩ := dmaDone_in hb hdir hlen rfl (by rintro rfl; exact h0 hlen.symm) h1 (by rwa [hlen])
    rw [hlen] at hb' hk
    exact ⟨t, he, hs, hi, hdone, hb', hk, hr⟩
  · exact does_reach rfl (does (exec_pcieReset hr) ⟨rfl, rfl, fun a ha => resetPageFrom_ne ha 0 s⟩)
  · exact does_reach rfl (does (exec_pcieIbMsi hr v) ⟨intForce_block pgPcie s, quietBut_intForce (pageBase_mod _) s⟩)
  · exact does (exec_pcieLinkTraining_up ⟨w1, w16, g1, g5⟩ s) (linkTrained_shows (by decide) (by omega) (by omega) s)
  · exact does (exec_pcieLinkTraining_lost width gen s) (linkTrained_shows (by decide) (by decide) (by decide) s)
  · exact does (exec_downstreamMemoryWrite hr h0 hl rfl h1 h2) ⟨samesBut_keeps (memWrite_keeps _ b (by decide) (Keeps.refl _ s)), storedAt_memWrite _ b s⟩
  · exact does (exec_ethFrameReceive_down hl frame n) ⟨samesBut_at n s, rfl⟩
  · obtain ⟨same, arrived, fcs⟩ := frameArrived_shows mac n s
    refine does (exec_ethFrameReceive_bad hm hl hb n) ⟨samesBut_bumpI _ _ _ _ same, ?_, ?_⟩
    · exact (getFi_bumpI_apart (r := Reg.ETH_MAC_RX_FCS) (r' := Reg.ETH_MAC_RX_FRAMES) (by decide) rfl (by decide) mac 1 _).trans arrived
    · exact (getFi_bumpI_same (by decide) mac 1 _).trans (congrArg (satAdd 32 · 1) fcs)
  · exact does (exec_ethFrameReceive_stopped hm hl hf hs hb n) (frameArrived_shows mac n s)

end Sys2Proof.Machine
end

section
/-! PROOFS. Chapter 10: the partitions' configuration words and their faults (R267, R271, R272, R274), and the energy of an interval (R275 to
R277, R339). -/

namespace Sys2Proof.Machine

open Sys2Proof

variable {s t u : State} {who : Agent} {p off v w : Nat}

theorem samesBut_setFij (q : Page) (r : Row) (i j v : Nat) (h : samesBut [.regs] s t) : samesBut [.regs] s (setFij q r i j v t) :=
  samesBut_trans_of_subset (fun _ h => h) h (samesBut_keeps (setFij_keeps q r i j v (by decide) (Keeps.refl _ t)))

theorem getFij_regsBut {l : List Nat} (h : regsBut l s t) {q : Page} {r : Row} {i j : Nat} (ha : fieldAddr q r i j ∉ l) :
    getFij t q r i j = getFij s q r i j := by
  unfold getFij
  rw [h _ ha]

/-! ### The words of a partition -/

/-- The block of partition `p`. -/
def prtBlock (p : Nat) : Nat := pageBase pgPrt + 0x100 + 0x80 * p

theorem fieldAddr_prt {r : Row} {k : Nat} (ho : r.off = 0x100 + k) (hs : r.s1 = 0x80) (p : Nat) : fieldAddr pgPrt r p 0 = prtBlock p + k := by
  simp only [fieldAddr, prtBlock, ho, hs]
  omega

/-- A word of window `w` of partition `p`. -/
theorem fieldAddr_prtWin {r : Row} {k : Nat} (ho : r.off = 0x100 + k) (hs : r.s1 = 0x80) (hw : r.s2 = 8) (p w : Nat) :
    fieldAddr pgPrt r p w = prtBlock p + k + 8 * w := by
  simp only [fieldAddr, prtBlock, ho, hs, hw]
  omega

theorem cfgGenAddr_lt_prtBlock (p : Nat) : cfgGenAddr < prtBlock p := by
  rw [show cfgGenAddr = 0x40004048 from rfl, prtBlock, show pageBase pgPrt = 0x40030000 from rfl]
  omega

/-! ### Configuration (R86, R267) -/

/-- From `s` to `t` the word at `a` was written as configuration: CFG_GEN advanced with it. -/
def configured (a : Nat) (s t : State) : Prop :=
  samesBut [.regs] s t ∧ getF t pgAdm Reg.ADM_CFG_GEN = (getF s pgAdm Reg.ADM_CFG_GEN + 1) % 2 ^ 32 ∧ regsBut [a, cfgGenAddr] s t

theorem configured_advance (a : Nat) (s : State) : configured a s (advanceCfgGen s) :=
  ⟨samesBut_keeps (advanceCfgGen_keeps (by decide) (Keeps.refl _ s)), (getF_setF_same (by decide) _ s).trans (Nat.mod_mod _ _),
    regsBut_setF _ (by simp) (regsBut_refl _ s)⟩

theorem configured_setFij {a : Nat} (h : configured a s t) {q : Page} {r : Row} {i j : Nat} (ha : fieldAddr q r i j = a) (hg : cfgGenAddr < a)
    (v : Nat) : configured a s (setFij q r i j v t) := by
  obtain ⟨same, gen, regs⟩ := h
  have other : cfgGenAddr ≠ fieldAddr q r i j := by omega
  exact ⟨samesBut_setFij q r i j v same, (getFij_setFij_ne other v t).trans gen, regsBut_setFij v (by simp [ha]) regs⟩

theorem exec_prtConfigWrite (hc : controls who = true) (hp : p < 16) (ho : off < 0x80) (v : Word) (s : State) :
    exec (.prtConfigWrite who p off v) s = .next (writePrt who p off v.toNat s) :=
  congrArg Host.Outcome.next ((if_pos hp).trans (asMaster_hub hc (by simp only [pageBase]; omega) _ s))

theorem writePrt_winBase (hw : w < 8) (v : Nat) (s : State) :
    writePrt who p (0x40 + 8 * w) v s = setFij pgPrt Reg.PRT_WIN_BASE p w v (advanceCfgGen s) := by
  have window : (0x40 + 8 * w - 0x40) / 8 = w := by omega
  rw [writePrt, if_neg (by omega), if_neg (by omega), if_neg (by omega), if_neg (by omega), if_pos (by omega), window, if_pos (by omega)]

/-- The fields of the word with a window's length. -/
def winLenStored (p w v : Nat) (s : State) : State :=
  setFij pgPrt Reg.PRT_WIN_LEN p w v (setFij pgPrt Reg.PRT_WIN_WR p w (v / 2 ^ 30) (setFij pgPrt Reg.PRT_WIN_VALID p w (v / 2 ^ 31) s))

theorem winLenStored_fields (p w v : Nat) (s : State) :
    getFij (winLenStored p w v s) pgPrt Reg.PRT_WIN_LEN p w = v % 2 ^ 26 ∧ getFij (winLenStored p w v s) pgPrt Reg.PRT_WIN_WR p w = v / 2 ^ 30 % 2 ∧
      getFij (winLenStored p w v s) pgPrt Reg.PRT_WIN_VALID p w = v / 2 ^ 31 % 2 := by
  simp (disch := decide) only [winLenStored, getFij_setFij_beside, getFij_setFij_same]
  exact ⟨rfl, rfl, rfl⟩

theorem configured_winLenStored (p w v : Nat) (s : State) : configured (prtBlock p + 0x44 + 8 * w) s (winLenStored p w v (advanceCfgGen s)) := by
  have lower : cfgGenAddr < prtBlock p + 0x44 + 8 * w := by
    have := cfgGenAddr_lt_prtBlock p
    omega
  have store {t : State} (h : configured (prtBlock p + 0x44 + 8 * w) s t) {r : Row} (ho : r.off = 0x144) (hs : r.s1 = 0x80) (hw : r.s2 = 8) (v : Nat) :
      configured (prtBlock p + 0x44 + 8 * w) s (setFij pgPrt r p w v t) := configured_setFij h (fieldAddr_prtWin ho hs hw p w) lower v
  exact store (store (store (configured_advance _ s) rfl rfl rfl _) rfl rfl rfl _) rfl rfl rfl _

theorem writePrt_winLen (hw : w < 8) (v : Nat) (s : State) :
    writePrt who p (0x44 + 8 * w) v s = winLenStored p w v (advanceCfgGen s) := by
  have window : (0x44 + 8 * w - 0x40) / 8 = w := by omega
  rw [writePrt, if_neg (by omega), if_neg (by omega), if_neg (by omega), if_neg (by omega), if_pos (by omega), window, if_neg (by omega),
    if_pos (by omega), winLenStored]

theorem writePrtQuota_refused (hv : v < getFi s pgPrt Reg.PRT_QUOTA p) (hh : holdsPart s p = true) :
    writePrtQuota p v s = recordPart pgPrt 0x0C p s := if_pos ⟨hv, hh⟩

theorem writePrtQuota_taken (h : getFi s pgPrt Reg.PRT_QUOTA p ≤ v ∨ holdsPart s p = false) :
    writePrtQuota p v s = setFi pgPrt Reg.PRT_QUOTA p v (advanceCfgGen s) := by
  refine if_neg fun ⟨lower, held⟩ => ?_
  rcases h with h | h
  · omega
  · simp [h] at held

/-- A write of CTL that clears ENABLE under a held table. -/
theorem writePrtCtl_refused (he : getFi s pgPrt Reg.PRT_CTL_ENABLE p = 1) (hv : v % 2 = 0) (hh : holdsPart s p = true) :
    writePrtCtl p v s = recordPart pgPrt 0x0C p s := if_pos ⟨by simp [flagI, he], by simpa [bitsOf] using hv, hh⟩

/-- The fields of CTL, all but RESET. -/
def ctlStored (p v : Nat) (s : State) : State :=
  setFi pgPrt Reg.PRT_CTL_ENABLE p v (setFi pgPrt Reg.PRT_CTL_HOLD p (v / 4) (setFi pgPrt Reg.PRT_CTL_REJOIN_N p (v / 16)
    (setFi pgPrt Reg.PRT_CTL_CLASS p (v / 256) (setFi pgPrt Reg.PRT_CTL_OVR_LIMIT p (v / 4096) s))))

theorem writePrtCtl_taken (h : getFi s pgPrt Reg.PRT_CTL_ENABLE p = 0 ∨ v % 2 = 1 ∨ holdsPart s p = false) (hr : v.testBit 1 = false) :
    writePrtCtl p v s = ctlStored p v (advanceCfgGen s) := by
  refine (if_neg fun ⟨enabled, clears, held⟩ => ?_).trans (if_neg (by simp [hr]))
  rcases h with h | h | h
  · simp [flagI, h] at enabled
  · simp [bitsOf, h] at clears
  · simp [h] at held

theorem ctlStored_fields (p v : Nat) (s : State) :
    getFi (ctlStored p v s) pgPrt Reg.PRT_CTL_ENABLE p = v % 2 ∧ getFi (ctlStored p v s) pgPrt Reg.PRT_CTL_HOLD p = v / 4 % 2 ∧
      getFi (ctlStored p v s) pgPrt Reg.PRT_CTL_REJOIN_N p = v / 16 % 16 ∧ getFi (ctlStored p v s) pgPrt Reg.PRT_CTL_CLASS p = v / 256 % 16 ∧
      getFi (ctlStored p v s) pgPrt Reg.PRT_CTL_OVR_LIMIT p = v / 4096 % 16 := by
  simp (disch := decide) only [ctlStored, getFi_setFi_apart, getFi_setFi_same]
  exact ⟨rfl, rfl, rfl, rfl, rfl⟩

theorem configured_ctlStored (p v : Nat) (s : State) : configured (prtBlock p) s (ctlStored p v (advanceCfgGen s)) := by
  have store {t : State} (h : configured (prtBlock p) s t) {r : Row} (ho : r.off = 0x100) (hs : r.s1 = 0x80) (v : Nat) :
      configured (prtBlock p) s (setFi pgPrt r p v t) := configured_setFij h (fieldAddr_prt (k := 0) ho hs p) (cfgGenAddr_lt_prtBlock p) v
  exact store (store (store (store (store (configured_advance _ s) rfl rfl _) rfl rfl _) rfl rfl _) rfl rfl _) rfl rfl _

/-! ### What leaves the partitions' STAT words alone -/

/-- The place of a partition's STAT in the PRT page. -/
abbrev statWord (a : Nat) : Prop := a / 4096 = 0x40030 ∧ 0x100 ≤ a % 4096 ∧ a % 0x80 = 4

/-- Every partition's STAT reads in `t` as in `s`. -/
structure LeavesStat (s t : State) : Prop where
  regs : ∀ a, statWord a → regW t a = regW s a

theorem LeavesStat.refl (s : State) : LeavesStat s s := ⟨fun _ _ => rfl⟩

theorem LeavesStat.trans (h : LeavesStat s t) (k : LeavesStat t u) : LeavesStat s u :=
  ⟨fun a ha => (k.regs a ha).trans (h.regs a ha)⟩

theorem LeavesHub.leavesStat (h : LeavesHub s t) : LeavesStat s t := ⟨fun a ha => h.regs a (by omega)⟩

theorem leavesStat_same (h : t.regs = s.regs) : LeavesStat s t := ⟨fun a _ => regW_congr h a⟩

theorem leavesStat_keeps (h : Keeps 1 s t) : LeavesStat s t := leavesStat_same (h.frame .regs (by decide))

theorem leavesStat_setFij {q : Page} {r : Row} {i j : Nat} (h : ¬ statWord (fieldAddr q r i j)) (v : Nat) (s : State) :
    LeavesStat s (setFij q r i j v s) := ⟨fun _ ha => regW_setFij_ne (fun e => h (e ▸ ha)) v s⟩

theorem quiet_of_statWord {a : Nat} (h : statWord a) : quiet a := by
  obtain ⟨page, block, -⟩ := h
  exact ⟨by omega, by omega, by omega⟩

theorem leavesStat_recordAt (q : Page) (code addr part : Nat) (s : State) : LeavesStat s (recordAt q code addr part s) :=
  ⟨fun _ ha => regW_recordAt (quiet_of_statWord ha) q code addr part s⟩

theorem leavesStat_recordWarn (q : Page) (code addr part : Nat) (s : State) : LeavesStat s (recordWarn q code addr part s) :=
  ⟨fun _ ha => regW_recordWarn (quiet_of_statWord ha) q code addr part s⟩

theorem leavesStat_ite {c : Prop} [Decidable c] (ht : LeavesStat s t) (hu : LeavesStat s u) : LeavesStat s (if c then t else u) := by
  split <;> assumption

theorem leavesStat_foldl {α : Type} {f : State → α → State} (hf : ∀ s x, LeavesStat s (f s x)) (l : List α) (s : State) : LeavesStat s (l.foldl f s) :=
  List.foldlRecOn l f (LeavesStat.refl s) fun t h x _ => h.trans (hf t x)

theorem LeavesStat.getFi (h : LeavesStat s t) {r : Row} (ho : r.off = 0x104) (hs : r.s1 = 0x80) (hp : p < 16) :
    getFi t pgPrt r p = getFi s pgPrt r p := by
  have stat : statWord (fieldAddr pgPrt r p 0) := by
    rw [fieldAddr_prt (k := 4) ho hs, prtBlock, show pageBase pgPrt = 0x40030000 from rfl]
    omega
  unfold Machine.getFi getFij
  rw [h.regs _ stat]

/-! ### The end of a partition's work (R77, R272) -/

theorem leavesStat_abandonSpectral (d : Nat) (s : State) : LeavesStat s (abandonSpectral d s) :=
  ((leavesHub_bump ..).trans (leavesHub_setF ..)).leavesStat

theorem leavesStat_tearApply (d : Nat) (x : Work) (s : State) : LeavesStat s (tearApply d x s) := by
  refine leavesStat_ite (leavesStat_foldl (fun s n => leavesStat_ite (leavesStat_setFij ?_ 1 s) (LeavesStat.refl s)) _ s) (LeavesStat.refl s)
  simp only [fieldAddr, pageBase, Reg.ADM_LREG_CTL_TORN]
  omega

theorem leavesStat_killOn (d k i b status : Nat) (s : State) : LeavesStat s (killOn d k i b status s) := by
  unfold killOn
  extract_lets mine queued waiting s1 s2 s3 s4 s5
  have h1 : LeavesStat s s1 := leavesStat_ite (leavesStat_abandonSpectral d s) (LeavesStat.refl s)
  have h2 : LeavesStat s1 s2 := leavesStat_foldl (fun s x => leavesStat_tearApply d x s) queued s1
  have h3 : LeavesStat s2 s3 :=
    leavesStat_foldl (fun s x => leavesStat_keeps (postDiscard_keeps d k status x (by decide) (Keeps.refl 1 s))) (queued ++ waiting) s2
  have h4 : LeavesStat s3 s4 := by
    unfold s4
    split
    · exact (leavesHub_modEng ..).leavesStat
    · exact LeavesStat.refl s3
  have h5 : LeavesStat s4 s5 := leavesStat_keeps (modCtx_keeps d i b _ (by decide) (Keeps.refl 1 s4))
  exact h1.trans (h2.trans (h3.trans (h4.trans (h5.trans ((leavesHub_settle ..).trans (leavesHub_showDispatch ..)).leavesStat))))

theorem leavesStat_killRun (r : StrokeRun) (status : Nat) (s : State) : LeavesStat s (killRun r status s) := by
  unfold killRun
  exact leavesStat_foldl (fun _ _ => leavesStat_killOn ..) r.targets s

theorem leavesStat_failRun (i b : Nat) (s : State) : LeavesStat s (failRun i b s) := leavesStat_same (modRun_regs ..)

theorem leavesStat_countMiss (r : StrokeRun) (s : State) : LeavesStat s (countMiss r s) := by
  have missed : LeavesStat s (bumpI pgPrt Reg.PRT_MISSED (stPart r.raw) 1 (bump pgSeq Reg.SEQ_MISSED 1 s)) :=
    (leavesStat_setFij (by decide) _ s).trans (leavesStat_setFij (by simp only [fieldAddr, pageBase, Reg.PRT_MISSED]; omega) _ _)
  exact missed.trans (leavesStat_ite (leavesStat_recordWarn ..) (leavesStat_ite (leavesStat_recordAt ..) (LeavesStat.refl _)))

theorem leavesStat_completeRun (r : StrokeRun) (s : State) : LeavesStat s (completeRun r s) := by
  unfold completeRun
  extract_lets late s1 s2
  have h1 : LeavesStat s s1 := leavesStat_ite (leavesStat_countMiss r s) (LeavesStat.refl s)
  have h2 : LeavesStat s1 s2 := leavesStat_same (modRun_regs ..)
  exact (h1.trans h2).trans (leavesStat_ite (leavesStat_keeps (voidFrom_keeps _ _ (by decide) (Keeps.refl 1 s2))) (LeavesStat.refl s2))

/-! ### Partition faults (R271, R272, R274) -/

theorem partitionFault_off (h : partState s p = 0) (cause : Nat) : partitionFault p cause s = s := if_pos (Or.inl h)

theorem partState_counted (p : Nat) (s : State) : partState (bumpI pgPrt Reg.PRT_STAT_RESETS p 1 s) p = partState s p :=
  getFi_bumpI_apart (r := Reg.PRT_STAT_RESETS) (r' := Reg.PRT_STAT_STATE) (by decide) rfl (by decide) p 1 s

theorem partitionFault_counts (hp : p < 16) (h : partState s p = 2 ∨ partState s p = 3) (cause : Nat) :
    partitionFault p cause s = bumpI pgPrt Reg.PRT_STAT_RESETS p 1 s :=
  (if_neg (by omega)).trans (if_pos (by rw [partState_counted]; omega))

/-- A fault of a RESETTING or HELD partition only counts. -/
def faultCounted (p : Nat) (s t : State) : Prop :=
  samesBut [.regs] s t ∧ getFi t pgPrt Reg.PRT_STAT_RESETS p = satAdd 16 (getFi s pgPrt Reg.PRT_STAT_RESETS p) 1 ∧
    partState t p = partState s p ∧ getFi t pgPrt Reg.PRT_STAT_CAUSE p = getFi s pgPrt Reg.PRT_STAT_CAUSE p ∧ regsBut [prtBlock p + 4] s t

theorem bumpI_faultCounted (p : Nat) (s : State) : faultCounted p s (bumpI pgPrt Reg.PRT_STAT_RESETS p 1 s) :=
  ⟨samesBut_setFij _ _ _ _ _ (samesBut_refl _ s), getFi_bumpI_same (by decide) p 1 s, partState_counted p s,
    getFi_bumpI_apart (r := Reg.PRT_STAT_RESETS) (r' := Reg.PRT_STAT_CAUSE) (by decide) rfl (by decide) p 1 s,
    regsBut_bumpI 1 (by simp [fieldAddr_prt (k := 4) (r := Reg.PRT_STAT_RESETS) rfl rfl]) (regsBut_refl _ s)⟩

/-- A fault of an ACTIVE partition shows RESETTING and its cause, and records 0x0D. -/
def faultShown (p cause : Nat) (s t : State) : Prop :=
  partState t p = 2 ∧ getFi t pgPrt Reg.PRT_STAT_CAUSE p = cause ∧
    getFi t pgPrt Reg.PRT_STAT_RESETS p = satAdd 16 (getFi s pgPrt Reg.PRT_STAT_RESETS p) 1 ∧ codeIn t pgPrt 0x0D

/-- STAT and the counts of an ACTIVE partition at a fault. -/
def faultStat (p cause : Nat) (s : State) : State :=
  setFi pgPrt Reg.PRT_STAT_CAUSE p cause (setFi pgPrt Reg.PRT_STAT_STATE p 2
    (modCharge p (fun c => { c with resets := satAdd 32 c.resets 1 }) (bumpI pgPrt Reg.PRT_STAT_RESETS p 1 s)))

/-- The partition's boundaries since its fault are counted from here. -/
def faultBegun (p : Nat) (s : State) : State := { s with parts := s.parts.modify p fun x => { x with since := 0 } }

/-- The partition's active runs are pre-empted. -/
def runsKilled (p : Nat) (s : State) : State :=
  (s.seq.runs.filter fun r => stPart r.raw = p && runActive r && stIsRun r.raw).foldl (fun s r => killRun r 1 (failRun r.idx r.bar s)) s

/-- The fusion unit gives up the partition's job, and its stroke completes as failed. -/
def jobDropped (p : Nat) (s : State) : State :=
  match s.fus.job with
  | some j =>
    if j.part = p then
      let s := { s with fus := { s.fus with job := none } }
      match runOf s j.stroke j.bar with
      | some r => completeRun { r with failed := true } (failRun j.stroke j.bar s)
      | none => s
    else s
  | none => s

theorem partitionFault_active (hp : p < 16) (h : partState s p = 1) (cause : Nat) : partitionFault p cause s =
    recordPart pgPrt 0x0D p (clearTags p (unhold p (jobDropped p (runsKilled p (faultBegun p (faultStat p cause s)))))) :=
  (if_neg (by omega)).trans (if_neg (by rw [partState_counted]; omega))

theorem faultStat_fields (p : Nat) {cause : Nat} (hc : cause < 8) (s : State) :
    partState (faultStat p cause s) p = 2 ∧ getFi (faultStat p cause s) pgPrt Reg.PRT_STAT_CAUSE p = cause ∧
      getFi (faultStat p cause s) pgPrt Reg.PRT_STAT_RESETS p = satAdd 16 (getFi s pgPrt Reg.PRT_STAT_RESETS p) 1 := by
  simp (disch := decide) only [partState, faultStat, getFi_setFi_apart, getFi_setFi_same, getFi_congr (modCharge_regs ..), getFi_bumpI_same]
  exact ⟨rfl, Nat.mod_eq_of_lt hc, rfl⟩

theorem leavesStat_runsKilled (p : Nat) (s : State) : LeavesStat s (runsKilled p s) := by
  unfold runsKilled
  exact leavesStat_foldl (fun _ _ => (leavesStat_failRun ..).trans (leavesStat_killRun ..)) _ s

theorem leavesStat_jobDropped (p : Nat) (s : State) : LeavesStat s (jobDropped p s) := by
  unfold jobDropped
  split
  · refine leavesStat_ite ?_ (LeavesStat.refl s)
    extract_lets fus freed
    have h : LeavesStat s freed := leavesStat_same rfl
    split
    · exact h.trans ((leavesStat_failRun ..).trans (leavesStat_completeRun ..))
    · exact h
  · exact LeavesStat.refl s

theorem partitionFault_shows (hp : p < 16) (h : partState s p = 1) {cause : Nat} (hc : cause < 8) :
    faultShown p cause s (partitionFault p cause s) := by
  rw [partitionFault_active hp h]
  obtain ⟨state, shown, counted⟩ := faultStat_fields p hc s
  generalize faultStat p cause s = u at state shown counted ⊢
  have begun : LeavesStat u (faultBegun p u) := leavesStat_same rfl
  have ended : LeavesStat u (jobDropped p (runsKilled p (faultBegun p u))) :=
    begun.trans ((leavesStat_runsKilled ..).trans (leavesStat_jobDropped ..))
  generalize jobDropped p (runsKilled p (faultBegun p u)) = t at ended ⊢
  have untagged : LeavesStat t (clearTags p (unhold p t)) := leavesStat_same rfl
  have stat := ended.trans (untagged.trans (leavesStat_recordAt pgPrt 0x0D 0 p _))
  exact ⟨(stat.getFi rfl rfl hp).trans state, (stat.getFi rfl rfl hp).trans shown, (stat.getFi rfl rfl hp).trans counted,
    codeIn_recordAt (by decide) (by decide) (by decide) 0 p _⟩

theorem exec_partitionResetRequest (hc : controls who = true) (hp : p < 16) (s : State) :
    exec (.partitionResetRequest who p) s = .next (partitionFault p 2 s) :=
  congrArg Host.Outcome.next ((if_pos hp).trans (asMaster_hub hc (by simp only [pageBase]; omega) _ s))

theorem exec_partitionIslReset (hc : controls who = true) (hp : p < 16) (s : State) :
    exec (.partitionIslReset who p) s = .next (if inCharge s who then partitionFault p 4 s else recordPart pgPrt 0x0C p s) :=
  congrArg Host.Outcome.next ((if_pos hp).trans (asMaster_hub hc (by simp only [pageBase]; omega) _ s))

theorem exec_partitionOvrLimit {x : Part} (hx : s.parts[p]? = some x) : exec (.partitionOvrLimit p) s =
    .next (if partState s p = 1 ∧ x.cfg.ovrLimit ≠ 0 ∧ x.cfg.ovrLimit ≤ x.overruns then partitionFault p 3 s else s) := by
  have run : exec (.partitionOvrLimit p) s = execPartitionOvrLimit p s := rfl
  rw [run, execPartitionOvrLimit, hx]

/-- A refusal with 0x0C records the code and does nothing else. -/
theorem partitionRefused_shows (p : Nat) (s : State) : samesBut report s (recordPart pgPrt 0x0C p s) ∧ codeIn (recordPart pgPrt 0x0C p s) pgPrt 0x0C ∧
    quietBut [] s (recordPart pgPrt 0x0C p s) :=
  ⟨samesBut_recordAt .., codeIn_recordAt (by decide) (by decide) (by decide) 0 p s, quietBut_recordPart pgPrt 0x0C p (quietBut_refl [] s)⟩

/-! ### The energy of an interval (R276, R277, R339) -/

theorem get64_set64 {q : Page} {lo hi : Row} (hl : lo.lo = 0 ∧ lo.w = 32) (hh : hi.lo = 0 ∧ hi.w = 32) (hs : hi.s1 = lo.s1) (h : lo.off ≠ hi.off)
    (i v : Nat) (s : State) : get64 (set64 q lo hi i v s) q lo hi i = v % 2 ^ 64 := by
  have low : getFi (set64 q lo hi i v s) q lo i = v % 2 ^ 32 := by
    rw [set64, getFi_setFi_apart (by omega) hs (by simp [apart, h.symm]), getFi_setFi_same (by omega), hl.2]
  have high : getFi (set64 q lo hi i v s) q hi i = v / 2 ^ 32 % 2 ^ 32 := by
    rw [set64, getFi_setFi_same (by omega), hh.2]
  rw [get64, low, high]
  omega

theorem get64_regsBut {l : List Nat} (h : regsBut l s t) {q : Page} {lo hi : Row} {i : Nat} (hl : fieldAddr q lo i 0 ∉ l)
    (hh : fieldAddr q hi i 0 ∉ l) : get64 t q lo hi i = get64 s q lo hi i := by
  rw [get64, get64, getFi_regsBut h hl, getFi_regsBut h hh]

theorem regsBut_addMicro {l : List Nat} {lo hi : Row} {k : Nat} (hl : fieldAddr pgPmc lo k 0 ∈ l) (hh : fieldAddr pgPmc hi k 0 ∈ l)
    (h : regsBut l s t) (i pj : Nat) : regsBut l s (addMicro i pj lo hi k t) :=
  regsBut_setFi _ hh (regsBut_setFi _ hl (regsBut_same (modPwr_regs ..) h))

theorem addMicro_rest (i pj : Nat) (lo hi : Row) (k : Nat) (s : State) :
    (addMicro i pj lo hi k s).pwr.rest = s.pwr.rest.set i ((nth0 s.pwr.rest i + pj) % 1000000) := (rfl)

theorem addMicro_counter {lo hi : Row} (hl : lo.lo = 0 ∧ lo.w = 32) (hh : hi.lo = 0 ∧ hi.w = 32) (hs : hi.s1 = lo.s1) (h : lo.off ≠ hi.off)
    (i pj k : Nat) (s : State) : get64 (addMicro i pj lo hi k s) pgPmc lo hi k = satAdd 64 (get64 s pgPmc lo hi k) ((nth0 s.pwr.rest i + pj) / 1000000) :=
  (get64_set64 hl hh hs h k _ _).trans (Nat.mod_eq_of_lt (satAdd_lt ..))

theorem nth0_set_same {l : List Nat} {i : Nat} (h : i < l.length) (x : Nat) : nth0 (l.set i x) i = x := by
  simp [nth0, List.getD_eq_getElem?_getD, h]

theorem nth0_set_ne {i j : Nat} (h : i ≠ j) (l : List Nat) (x : Nat) : nth0 (l.set i x) j = nth0 l j := by
  simp [nth0, List.getD_eq_getElem?_getD, h]

/-- The energies of the five rails are counted. -/
def railsCounted (rails : List Nat) (s : State) : State :=
  (List.range 5).foldl (fun s r => addMicro r (nth0 rails r) Reg.PMC_E_RAIL_LO Reg.PMC_E_RAIL_HI r s) s

/-- The words of the rails' counters. -/
def railWords : List Nat := (List.range 10).map fun k => pageBase pgPmc + 0x58 + 4 * k

theorem railWords_mem {r k : Nat} (hr : r < 5) (hk : k < 2) : pageBase pgPmc + 0x58 + 4 * k + r * 8 ∈ railWords :=
  List.mem_map.2 ⟨2 * r + k, List.mem_range.2 (by omega), by omega⟩

/-- The rails' counters touch neither VIN's counter nor its remainder. -/
theorem railsCounted_leaves (rails : List Nat) (s : State) :
    regsBut railWords s (railsCounted rails s) ∧ (railsCounted rails s).pwr.rest.length = s.pwr.rest.length ∧
      nth0 (railsCounted rails s).pwr.rest 5 = nth0 s.pwr.rest 5 ∧ (railsCounted rails s).io = s.io := by
  refine List.foldlRecOn (motive := fun t => regsBut railWords s t ∧ t.pwr.rest.length = s.pwr.rest.length ∧
    nth0 t.pwr.rest 5 = nth0 s.pwr.rest 5 ∧ t.io = s.io) _ _ ⟨regsBut_refl _ s, rfl, rfl, rfl⟩ fun t ⟨regs, len, rest, io⟩ r hr => ?_
  have hr := List.mem_range.1 hr
  refine ⟨regsBut_addMicro (railWords_mem (k := 0) hr (by decide)) (railWords_mem (k := 1) hr (by decide)) regs r _, ?_, ?_, io⟩
  · rw [addMicro_rest, List.length_set, len]
  · rw [addMicro_rest, nth0_set_ne (by omega), rest]

/-- The energy of VIN is counted after the rails'. -/
def vinCounted (rails : List Nat) (vin : Nat) (s : State) : State :=
  addMicro 5 vin Reg.PMC_E_VIN_LO Reg.PMC_E_VIN_HI 0 (railsCounted rails s)

/-- The words that an interval writes. -/
def energyWords : List Nat := (pageBase pgPmc + 0x48) :: (List.range 12).map (fun k => pageBase pgPmc + 0x50 + 4 * k)

theorem regsBut_vinCounted (rails : List Nat) (vin : Nat) (s : State) : regsBut energyWords s (vinCounted rails vin s) :=
  regsBut_addMicro (by decide) (by decide)
    (fun a ha => (railsCounted_leaves rails s).1 a fun hm => ha ((by decide : ∀ x ∈ railWords, x ∈ energyWords) a hm)) 5 vin

theorem vinCounted_counter (rails : List Nat) (vin : Nat) (s : State) :
    get64 (vinCounted rails vin s) pgPmc Reg.PMC_E_VIN_LO Reg.PMC_E_VIN_HI 0 =
      satAdd 64 (get64 s pgPmc Reg.PMC_E_VIN_LO Reg.PMC_E_VIN_HI 0) ((nth0 s.pwr.rest 5 + vin) / 1000000) := by
  obtain ⟨regs, -, rest, -⟩ := railsCounted_leaves rails s
  have before : get64 (railsCounted rails s) pgPmc Reg.PMC_E_VIN_LO Reg.PMC_E_VIN_HI 0 = get64 s pgPmc Reg.PMC_E_VIN_LO Reg.PMC_E_VIN_HI 0 :=
    get64_regsBut regs (by decide) (by decide)
  rw [vinCounted, addMicro_counter (lo := Reg.PMC_E_VIN_LO) (hi := Reg.PMC_E_VIN_HI) ⟨rfl, rfl⟩ ⟨rfl, rfl⟩ rfl (by decide), before, rest]

theorem vinCounted_rest (h : s.pwr.rest.length = 6) (rails : List Nat) (vin : Nat) :
    nth0 (vinCounted rails vin s).pwr.rest 5 = (nth0 s.pwr.rest 5 + vin) % 1000000 := by
  obtain ⟨-, len, rest, -⟩ := railsCounted_leaves rails s
  rw [vinCounted, addMicro_rest, nth0_set_same (by omega), rest]

theorem chargeEnergy_outbox (p : Nat) (e : Option Nat) (s : State) : (chargeEnergy p e s).io.outbox = s.io.outbox := by
  cases e <;> rfl

/-- P_DEV after VIN's energy was counted. -/
def deviceShown (vin : Nat) (s : State) : State :=
  setF pgPmc Reg.PMC_P_DEV ((roundOpen vin 100000).toNat + 10 * getF s pgCap Reg.CAP_AUX_W) s

/-- Beside the counters and P_DEV an interval only charges the partitions and keeps the caps' check. -/
theorem exec_energyInterval (rails : List Nat) (vin : Nat) (s : State) : ∃ t, exec (.energyInterval rails vin) s = .next t ∧
    t.regs = (deviceShown vin (vinCounted rails vin s)).regs ∧ t.pwr.rest = (vinCounted rails vin s).pwr.rest ∧ t.io.outbox = s.io.outbox := by
  refine ⟨_, rfl, ?_, ?_, ?_⟩
  all_goals dsimp only
  · exact (keeps_foldl (Keeps.refl 2097153 _) fun _ _ h => chargeEnergy_keeps _ _ (by decide) h).frame .regs (by decide)
  · exact congrArg (·.rest) ((keeps_foldl (Keeps.refl 2097153 _) fun _ _ h => chargeEnergy_keeps _ _ (by decide) h).frame .pwr (by decide))
  · refine List.foldlRecOn (motive := fun t : State => t.io.outbox = s.io.outbox) _ _ ?_ fun t h x _ => (chargeEnergy_outbox x.2 x.1 t).trans h
    exact congrArg (·.outbox) (railsCounted_leaves rails s).2.2.2

theorem energyInterval_shows (h : s.pwr.rest.length = 6) (rails : List Nat) (vin : Nat) : Does (.energyInterval rails vin) s fun t =>
    get64 t pgPmc Reg.PMC_E_VIN_LO Reg.PMC_E_VIN_HI 0 = satAdd 64 (get64 s pgPmc Reg.PMC_E_VIN_LO Reg.PMC_E_VIN_HI 0) ((nth0 s.pwr.rest 5 + vin) / 1000000) ∧
    nth0 t.pwr.rest 5 = (nth0 s.pwr.rest 5 + vin) % 1000000 ∧ t.io.outbox = s.io.outbox ∧
    getF t pgPmc Reg.PMC_P_DEV = ((roundOpen vin 100000).toNat + 10 * getF s pgCap Reg.CAP_AUX_W) % 65536 ∧ regsBut energyWords s t := by
  obtain ⟨t, he, regs, rest, outbox⟩ := exec_energyInterval rails vin s
  have counted := regsBut_vinCounted rails vin s
  have shown : regsBut [pageBase pgPmc + 0x48] (vinCounted rails vin s) t := regsBut_same regs (regsBut_setF _ (by decide) (regsBut_refl _ _))
  refine does he ⟨?_, by rw [rest, vinCounted_rest h], outbox, ?_, ?_⟩
  · rw [get64_regsBut shown (by decide) (by decide), vinCounted_counter]
  · rw [getF_congr regs, deviceShown, getF_setF_same (by decide), getF, getFij_regsBut counted (by decide)]
    rfl
  · exact regsBut_same regs (regsBut_setF _ (by decide) counted)

/-- Settles O41: a configuration write by the word that it meets, a fault by the partition's state, and the interval by its counters. -/
theorem partitions : Obligations.Partitions := by
  intro who p w vin v rails x s hp hw blk gen nextGen ignored faulted counted
  have config {off : Nat} (ho : off < 0x80) (hc : controls who = true) := exec_prtConfigWrite hc hp ho v s
  have lower := cfgGenAddr_lt_prtBlock p
  have refused {c : Instr} (h : exec c s = .next (recordPart pgPrt 0x0C p s)) : ignored c := does h (partitionRefused_shows p s)
  have fails {c : Instr} {cause : Nat} (hr : (reach c).all (fun q => access.contains q) = true) (h : exec c s = .next (partitionFault p cause s))
      (h1 : partState s p = 1) (h8 : cause < 8) : faulted c cause := does_reach hr (does h (partitionFault_shows hp h1 h8))
  have counts {c : Instr} {cause : Nat} (h : exec c s = .next (partitionFault p cause s)) (h23 : partState s p = 2 ∨ partState s p = 3) : counted c :=
    does (h.trans (congrArg _ (partitionFault_counts hp h23 cause))) (bumpI_faultCounted p s)
  have island (hc : controls who = true) (hi : inCharge s who = true) : exec (.partitionIslReset who p) s = .next (partitionFault p 4 s) :=
    (exec_partitionIslReset hc hp s).trans (congrArg _ (if_pos hi))
  refine ⟨fun hc => ⟨?_, fun hq hh => ?_, fun hq => ?_, fun he hv hh => ?_, fun he hr => ?_, ?_, ?_, fun h1 => ⟨?_, fun hi => ?_⟩,
    fun h23 => ⟨?_, fun hi => ?_⟩, fun h0 => ?_, fun hi => ?_⟩, fun hx h1 => ⟨fun hl ho => ?_, fun hl => ?_⟩, fun h6 => ?_⟩
  · exact does (config (by decide) hc) ⟨samesBut_setFij _ _ _ _ _ (samesBut_refl _ s), getFi_setFi_same (by decide) p _ s,
      regsBut_setFi _ (by simp [fieldAddr_prt (k := 0x0C) (r := Reg.PRT_REQ_DL) rfl rfl, prtBlock, blk]) (regsBut_refl _ s)⟩
  · exact refused ((config (by decide) hc).trans (congrArg _ (writePrtQuota_refused hq hh)))
  · refine does ((config (by decide) hc).trans (congrArg _ (writePrtQuota_taken hq))) ?_
    obtain ⟨same, next, regs⟩ := configured_setFij (configured_advance (prtBlock p + 8) s) (fieldAddr_prt (r := Reg.PRT_QUOTA) rfl rfl p) (by omega) v.toNat
    exact ⟨same, (getFi_setFi_same (by decide) p _ _).trans (Nat.mod_eq_of_lt v.isLt), next, regs⟩
  · exact refused ((config (by decide) hc).trans (congrArg _ (writePrtCtl_refused he hv hh)))
  · refine does ((config (by decide) hc).trans (congrArg _ (writePrtCtl_taken he hr))) ?_
    obtain ⟨same, next, regs⟩ := configured_ctlStored p v.toNat s
    obtain ⟨enable, hold, rejoin, cls, limit⟩ := ctlStored_fields p v.toNat (advanceCfgGen s)
    exact ⟨same, enable, hold, rejoin, cls, limit, next, regs⟩
  · refine does ((config (by omega) hc).trans (congrArg _ (writePrt_winBase hw _ s))) ?_
    obtain ⟨same, next, regs⟩ := configured_setFij (configured_advance (prtBlock p + 0x40 + 8 * w) s)
      (fieldAddr_prtWin (r := Reg.PRT_WIN_BASE) rfl rfl rfl p w) (by omega) v.toNat
    exact ⟨same, getFij_setFij_same (by decide) p w _ _, next, regs⟩
  · refine does ((config (by omega) hc).trans (congrArg _ (writePrt_winLen hw _ s))) ?_
    obtain ⟨same, next, regs⟩ := configured_winLenStored p w v.toNat s
    obtain ⟨len, wr, valid⟩ := winLenStored_fields p w v.toNat (advanceCfgGen s)
    exact ⟨same, len, wr, valid.trans (Nat.mod_eq_of_lt (by omega)), next, regs⟩
  · exact fails rfl (exec_partitionResetRequest hc hp s) h1 (by decide)
  · exact fails rfl (island hc hi) h1 (by decide)
  · exact counts (exec_partitionResetRequest hc hp s) h23
  · exact counts (island hc hi) h23
  · exact does ((exec_partitionResetRequest hc hp s).trans (congrArg _ (partitionFault_off h0 2))) rfl
  · exact refused ((exec_partitionIslReset hc hp s).trans (congrArg _ (if_neg (by simp [hi]))))
  · exact fails rfl ((exec_partitionOvrLimit hx).trans (congrArg _ (if_pos ⟨h1, hl, ho⟩))) h1 (by decide)
  · exact does ((exec_partitionOvrLimit hx).trans (congrArg _ (if_neg fun ⟨_, hn, ho⟩ => by omega))) rfl
  · exact does_reach rfl (energyInterval_shows h6 rails vin)

end Sys2Proof.Machine
end

section
/-! PROOFS. Chapter 11: the mailbox channels, the warning source, the interrupt controller, and the release of the application cores (R293
to R303). -/

namespace Sys2Proof.Machine

open Sys2Proof

variable {s t : State} {who : Agent} {c x n i : Nat}

/-! ### The words of a channel -/

/-- The word of channel `c`. -/
def chanData (c : Nat) : Nat := pageBase pgMbx + 0x140 + 4 * c

/-- The word with the full flag of channel `c`. -/
def chanFlags (c : Nat) : Nat := pageBase pgMbx + 0x240 + 4 * (c / 32)

/-- The word with the channel-free source of channel `c`. -/
def chanFrees (c : Nat) : Nat := pageBase pgMbx + 0x248 + 4 * (c / 32)

theorem fieldAddr_chanData (c : Nat) : fieldAddr pgMbx Reg.MBX_DATA c 0 = chanData c := by
  simp only [fieldAddr, chanData, Reg.MBX_DATA]
  omega

theorem fieldAddr_chanFlags (c : Nat) : fieldAddr pgMbx Reg.MBX_FULL (c / 32) 0 = chanFlags c := by
  simp only [fieldAddr, chanFlags, Reg.MBX_FULL]
  omega

theorem fieldAddr_chanFrees (c : Nat) : fieldAddr pgMbx Reg.MBX_FREE_PEND (c / 32) 0 = chanFrees c := by
  simp only [fieldAddr, chanFrees, Reg.MBX_FREE_PEND]
  omega

/-- The words of a channel, those with its flags, and its count of overwrites stand in this order. -/
theorem chanWords_ascend (hc : c < 64) :
    chanData c < chanFlags c ∧ chanFlags c < chanFrees c ∧ chanFrees c < fieldAddr pgMbx Reg.MBX_OVW c 0 := by
  simp only [chanData, chanFlags, chanFrees, fieldAddr, Reg.MBX_OVW]
  omega

/-- A channel is as full as it was where the word with its flag is not written. -/
theorem chanFull_regsBut {l : List Nat} (h : regsBut l s t) (ha : chanFlags c ∉ l) : chanFull t c = chanFull s c := by
  rw [chanFull, chanFull, getFi_regsBut h (by rwa [fieldAddr_chanFlags])]

theorem freePend_regsBut {l : List Nat} (h : regsBut l s t) (ha : chanFrees c ∉ l) : freePend t c = freePend s c := by
  rw [freePend, freePend, getFi_regsBut h (by rwa [fieldAddr_chanFrees])]

theorem chanDatum_regsBut {l : List Nat} (h : regsBut l s t) (ha : chanData c ∉ l) :
    getFi t pgMbx Reg.MBX_DATA c = getFi s pgMbx Reg.MBX_DATA c := getFi_regsBut h (by rwa [fieldAddr_chanData])

/-! ### The flags of a channel -/

theorem testBit_putBits_same (v i b : Nat) : (putBits v i 1 b).testBit i = decide (b % 2 = 1) := by
  have bit : putBits v i 1 b / 2 ^ i % 2 = b % 2 := bitsOf_putBits_same v i 1 b
  rw [Nat.testBit_eq_decide_div_mod_eq, bit]

/-- A flag of a word of 32 flags, after it is written. -/
theorem testBit_setFi_putBits {p : Page} {r : Row} (h0 : r.lo = 0) (hw : r.w = 32) {k : Nat} (hk : k < 32) (i b : Nat) (s : State) :
    (getFi (setFi p r i (putBits (getFi s p r i) k 1 b) s) p r i).testBit k = decide (b % 2 = 1) := by
  have word : getFi s p r i < 2 ^ 32 := hw ▸ getFij_lt s p r i 0
  rw [getFi_setFi_same (by omega), hw, Nat.mod_eq_of_lt (putBits_lt b word (by omega)), testBit_putBits_same]

theorem chanFull_setFull (c b : Nat) (s : State) : chanFull (setFull c b s) c = decide (b % 2 = 1) :=
  testBit_setFi_putBits rfl rfl (Nat.mod_lt c (by decide)) (c / 32) b s

theorem freePend_setFreePend (c b : Nat) (s : State) : freePend (setFreePend c b s) c = decide (b % 2 = 1) :=
  testBit_setFi_putBits rfl rfl (Nat.mod_lt c (by decide)) (c / 32) b s

theorem regsBut_setFull {l : List Nat} (h : chanFlags c ∈ l) (k : regsBut l s t) (b : Nat) : regsBut l s (setFull c b t) :=
  regsBut_setFi _ (by rwa [fieldAddr_chanFlags]) k

theorem regsBut_setFreePend {l : List Nat} (h : chanFrees c ∈ l) (k : regsBut l s t) (b : Nat) : regsBut l s (setFreePend c b t) :=
  regsBut_setFi _ (by rwa [fieldAddr_chanFrees]) k

/-- A word enters a channel: the channel is full of it and no longer free. -/
theorem chanPut_shows (hc : c < 64) {v : Nat} (hv : v < 2 ^ 32) (s : State) :
    chanFull (chanPut c v s) c = true ∧ getFi (chanPut c v s) pgMbx Reg.MBX_DATA c = v ∧ freePend (chanPut c v s) c = false ∧
      regsBut [chanData c, chanFlags c, chanFrees c] s (chanPut c v s) := by
  obtain ⟨before, behind, -⟩ := chanWords_ascend hc
  let freed := setFreePend c 0 s
  let stored := setFi pgMbx Reg.MBX_DATA c v freed
  have full : regsBut [chanFlags c] stored (chanPut c v s) :=
    regsBut_same (notify_regs _ _) (regsBut_setFull List.mem_cons_self (regsBut_refl _ stored) 1)
  have data : regsBut [chanData c] freed stored := regsBut_setFi v (by simp [fieldAddr_chanData]) (regsBut_refl _ freed)
  refine ⟨?_, ?_, ?_, ?_⟩
  · rw [chanPut, chanFull_regsBut (regsBut_same (notify_regs _ _) (regsBut_refl [] _)) (by simp), chanFull_setFull]
    rfl
  · rw [chanDatum_regsBut full (by simp; omega), getFi_setFi_same (by decide)]
    exact Nat.mod_eq_of_lt hv
  · rw [freePend_regsBut full (by simp; omega), freePend_regsBut data (by simp; omega), freePend_setFreePend]
    rfl
  · exact regsBut_same (notify_regs _ _) (regsBut_setFull (by simp) (regsBut_setFi v (by simp [fieldAddr_chanData])
      (regsBut_setFreePend (by simp) (regsBut_refl _ s) 0)) 1)

/-- The receiver takes the word of a channel: the channel is empty and free. -/
def chanTaken (c : Nat) (s : State) : State := notify (448 + c) (setFreePend c 1 (setFull c 0 s))

theorem chanTaken_shows (hc : c < 64) (s : State) :
    chanFull (chanTaken c s) c = false ∧ freePend (chanTaken c s) c = true ∧ regsBut [chanFlags c, chanFrees c] s (chanTaken c s) := by
  obtain ⟨-, behind, -⟩ := chanWords_ascend hc
  have free : regsBut [chanFrees c] (setFull c 0 s) (chanTaken c s) :=
    regsBut_same (notify_regs _ _) (regsBut_setFreePend List.mem_cons_self (regsBut_refl _ _) 1)
  refine ⟨?_, ?_, ?_⟩
  · rw [chanFull_regsBut free (by simp; omega), chanFull_setFull]
    rfl
  · rw [chanTaken, freePend_regsBut (regsBut_same (notify_regs _ _) (regsBut_refl [] _)) (by simp), freePend_setFreePend]
    rfl
  · exact regsBut_same (notify_regs _ _) (regsBut_setFreePend (by simp) (regsBut_setFull (by simp) (regsBut_refl _ s) 0) 1)

/-! ### Codes of the MBX page -/

/-- Page MBX recorded code `k`, and no word beside its header changed. -/
def mbxRecords (k : Nat) (s t : State) : Prop :=
  samesBut [.regs, .io] s t ∧ codeIn t pgMbx k ∧ ∀ a, a < pageBase pgMbx ∨ pageBase pgMbx + 64 ≤ a → regW t a = regW s a

/-- A code that warns of nothing touches the header of MBX alone. -/
theorem mbxRecords_record {k : Nat} (hk : k < 256) (hw : codeWarns k = false) (s : State) : mbxRecords k s (record pgMbx k s) := by
  have plain : record pgMbx k s = recordPlain pgMbx k 0 0xFF s := if_neg (by rw [hw]; decide)
  have codes := recordPlain_codes pgMbx k 0 0xFF s
  rw [Nat.mod_eq_of_lt hk] at codes
  rw [plain]
  exact ⟨samesBut_keeps (recordPlain_keeps _ _ _ _ (by decide) (Keeps.refl _ s)), codes, fun a ha => recordPlain_ne ha _ _ _ s⟩

theorem getFi_mbxRecords {k : Nat} (h : mbxRecords k s t) {r : Row} (hr : 64 ≤ r.off) (i : Nat) : getFi t pgMbx r i = getFi s pgMbx r i := by
  obtain ⟨-, -, words⟩ := h
  unfold getFi getFij
  rw [words _ (Or.inr (by simp only [fieldAddr]; omega))]

/-! ### Writes and reads of a channel (R296, R298) -/

theorem exec_mbxWrite (hc : controls who = true) (h : c < 64) (v : Word) (s : State) :
    exec (.mbxWrite who c v) s = .next (chanWrite who c v.toNat s) :=
  congrArg Host.Outcome.next ((if_pos h).trans (asMaster_hub hc (by simp only [pageBase]; omega) _ s))

theorem exec_mbxRead (hc : controls who = true) (h : c < 64) (s : State) :
    exec (.mbxRead who c) s = .next (answer (leBytes 4 (chanRead who c s).1.toNat) true false (chanRead who c s).2) := by
  have runs : exec (.mbxRead who c) s = execMbxRead who c s := rfl
  rw [runs, execMbxRead, if_neg (by omega), dataRefusal_control hc]

theorem chanWrite_foreign (h : endpointOf who ≠ (routeOf s c).1) (v : Nat) : chanWrite who c v s = record pgMbx 0x13 s := if_pos (Or.inl h)

theorem chanWrite_sender (h : endpointOf who = (routeOf s c).1) (hs : (routeOf s c).1 ≠ 0xF) (hr : (routeOf s c).2 ≠ 0xF) (v : Nat) :
    chanWrite who c v s =
      if chanFull s c then record pgMbx 0x12 (bumpI pgMbx Reg.MBX_OVW c 1 (setFreePend c 0 s)) else chanPut c v s :=
  (if_neg (by simp [h, hs])).trans (if_neg hr)

theorem chanRead_foreign (h : endpointOf who ≠ (routeOf s c).2) : chanRead who c s = (0, record pgMbx 0x13 s) := if_pos (Or.inl h)

theorem chanRead_receiver (h : endpointOf who = (routeOf s c).2) (hr : (routeOf s c).2 ≠ 0xF) :
    chanRead who c s = if chanFull s c then (BitVec.ofNat 32 (getFi s pgMbx Reg.MBX_DATA c), chanTaken c s) else (0, s) :=
  if_neg (by simp [h, hr])

/-- The word that a read of a full channel returns is the channel's. -/
theorem ofNat_chanDatum (c : Nat) (s : State) : BitVec.ofNat 32 (getFi s pgMbx Reg.MBX_DATA c) = regW s (chanData c) := by
  have whole : getFi s pgMbx Reg.MBX_DATA c = (regW s (chanData c)).toNat := by
    rw [getFi, getFij, fieldAddr_chanData]
    exact (Nat.mod_eq_of_lt (Nat.lt_of_le_of_lt (Nat.div_le_self _ _) (BitVec.isLt _))).trans (Nat.div_one _)
  rw [whole, BitVec.ofNat_toNat, BitVec.setWidth_eq]

/-- A word that meets a full channel is counted lost: the channel keeps the word it has. -/
theorem chanOverwrite_shows (hc : c < 64) (hf : chanFull s c = true) :
    let t := record pgMbx 0x12 (bumpI pgMbx Reg.MBX_OVW c 1 (setFreePend c 0 s))
    samesBut [.regs, .io] s t ∧ chanFull t c = true ∧ getFi t pgMbx Reg.MBX_DATA c = getFi s pgMbx Reg.MBX_DATA c ∧
      getFi t pgMbx Reg.MBX_OVW c = satAdd 32 (getFi s pgMbx Reg.MBX_OVW c) 1 ∧ codeIn t pgMbx 0x12 := by
  intro t
  obtain ⟨before, behind, last⟩ := chanWords_ascend hc
  let freed := setFreePend c 0 s
  let counted := bumpI pgMbx Reg.MBX_OVW c 1 freed
  have recorded : mbxRecords 0x12 counted t := mbxRecords_record (by decide) rfl counted
  have free : regsBut [chanFrees c] s freed := regsBut_setFreePend List.mem_cons_self (regsBut_refl _ s) 0
  have words : regsBut [chanFrees c, fieldAddr pgMbx Reg.MBX_OVW c 0] s counted :=
    regsBut_bumpI 1 (by simp) (regsBut_setFreePend (by simp) (regsBut_refl _ s) 0)
  have same : samesBut [.regs, .io] s counted :=
    samesBut_keeps (bumpI_keeps _ _ _ _ (by decide) (setFreePend_keeps _ _ (by decide) (Keeps.refl _ s)))
  have ⟨after, code, _⟩ := recorded
  refine ⟨samesBut_trans_of_subset (fun _ h => h) same after, ?_, ?_, ?_, code⟩
  · rw [chanFull, getFi_mbxRecords recorded (by decide)]
    exact (chanFull_regsBut words (by simp; omega)).trans hf
  · rw [getFi_mbxRecords recorded (by decide), chanDatum_regsBut words (by simp; omega)]
  · rw [getFi_mbxRecords recorded (by decide), getFi_bumpI_same (by decide), getFi_regsBut free (by simp; omega)]
    rfl

/-- The warning source moves the oldest warning into the empty channel of the island in charge (R300). -/
theorem moveWarning_moves {w : Word} {rest : List Word} (hi : islandInCharge s = some i) (hw : s.mbx.warn = w :: rest)
    (he : chanFull s (62 + i) = false) : moveWarning s =
      chanPut (62 + i) w.toNat (setF pgMbx Reg.MBX_WARN_LEVEL rest.length { s with mbx := { s.mbx with warn := rest } }) := by
  simp [moveWarning, hi, hw, he]

theorem exec_warningMove (s : State) : exec .warningMove s = .next (moveWarning s) := (rfl)

theorem warningMove_shows {w : Word} {rest : List Word} (h2 : i < 2) (hi : islandInCharge s = some i) (hw : s.mbx.warn = w :: rest)
    (he : chanFull s (62 + i) = false) (hr : rest.length < 128) :
    Does .warningMove s fun t => samesBut [.regs, .io, .mbx] s t ∧ t.mbx = { s.mbx with warn := rest } ∧ chanFull t (62 + i) = true ∧
      getFi t pgMbx Reg.MBX_DATA (62 + i) = w.toNat ∧ getF t pgMbx Reg.MBX_WARN_LEVEL = rest.length := by
  refine does_reach rfl (does (exec_warningMove s) ?_)
  rw [moveWarning_moves hi hw he]
  obtain ⟨full, data, -, words⟩ := chanPut_shows (c := 62 + i) (by omega) w.isLt
    (setF pgMbx Reg.MBX_WARN_LEVEL rest.length { s with mbx := { s.mbx with warn := rest } })
  refine ⟨?_, full, data, ?_⟩
  · exact (chanPut_keeps (K := 2048) _ _ (by decide) (Keeps.refl _ _)).frame .mbx (by decide)
  · have level : fieldAddr pgMbx Reg.MBX_WARN_LEVEL 0 0 ∉ [chanData (62 + i), chanFlags (62 + i), chanFrees (62 + i)] := by
      simp only [fieldAddr, chanData, chanFlags, chanFrees, Reg.MBX_WARN_LEVEL, List.mem_cons, List.not_mem_nil, or_false]
      omega
    exact (getFi_regsBut words level).trans ((getF_setF_same (by decide) _ _).trans (Nat.mod_eq_of_lt hr))

/-! ### Claims and completions (R303) -/

theorem exec_intcClaim (hc : controls who = true) (hx : x < 19) (s : State) :
    exec (.intcClaim who x) s = .next (answer (leBytes 4 (claimSource x s).1) true false (claimSource x s).2) := by
  have runs : exec (.intcClaim who x) s = execIntcClaim who x s := rfl
  rw [runs, execIntcClaim, if_neg (by omega), dataRefusal_control hc]

theorem exec_intcComplete (hc : controls who = true) (hx : x < 19) (n : Nat) (s : State) :
    exec (.intcComplete who x n) s = .next (completeSource n s) :=
  congrArg Host.Outcome.next ((if_pos hx).trans (asMaster_hub hc (by simp only [pageBase]; omega) _ s))

/-- The better of the best source so far and source `i`: the latter if its priority is higher. -/
def betterSource (s : State) (best : Option Nat) (i : Nat) : Option Nat :=
  match best with
  | none => some i
  | some j => if getFi s pgIntc Reg.INTC_ROUTE_PRIO j < getFi s pgIntc Reg.INTC_ROUTE_PRIO i then some i else best

theorem bestSource_eq (s : State) (x : Nat) : bestSource s x = ((List.range 512).filter (qualifies s x)).foldl (betterSource s) none := (rfl)

theorem bestSource_none (h : ∀ j < 512, qualifies s x j = false) : bestSource s x = none := by
  have none_qualifies : (List.range 512).filter (qualifies s x) = [] :=
    List.filter_eq_nil_iff.2 fun j hj => by simp [h j (List.mem_range.1 hj)]
  rw [bestSource_eq, none_qualifies, List.foldl_nil]

/-- In a list in ascending order the sources before the best have a lower priority, and those after it none that is higher. -/
theorem foldl_betterSource {l : List Nat} (ascends : l.Pairwise (· < ·)) (hn : n ∈ l)
    (best : ∀ j ∈ l, getFi s pgIntc Reg.INTC_ROUTE_PRIO j < getFi s pgIntc Reg.INTC_ROUTE_PRIO n ∨
      (getFi s pgIntc Reg.INTC_ROUTE_PRIO j = getFi s pgIntc Reg.INTC_ROUTE_PRIO n ∧ n ≤ j)) : l.foldl (betterSource s) none = some n := by
  obtain ⟨lower, higher, rfl⟩ := List.append_of_mem hn
  have below (j : Nat) (hj : j ∈ lower) : getFi s pgIntc Reg.INTC_ROUTE_PRIO j < getFi s pgIntc Reg.INTC_ROUTE_PRIO n := by
    have first : j < n := (List.pairwise_append.1 ascends).2.2 j hj n List.mem_cons_self
    have := best j (List.mem_append_left _ hj)
    omega
  have before : ∀ j, lower.foldl (betterSource s) none = some j → getFi s pgIntc Reg.INTC_ROUTE_PRIO j < getFi s pgIntc Reg.INTC_ROUTE_PRIO n := by
    refine List.foldlRecOn (motive := fun b => ∀ j, b = some j → getFi s pgIntc Reg.INTC_ROUTE_PRIO j < getFi s pgIntc Reg.INTC_ROUTE_PRIO n) _ _
      (fun _ h => nomatch h) fun b hb i hi j hj => ?_
    cases b with
    | none => exact Option.some.inj hj ▸ below i hi
    | some k =>
      rw [betterSource] at hj
      split at hj
      · exact Option.some.inj hj ▸ below i hi
      · exact hb j hj
  have here : betterSource s (lower.foldl (betterSource s) none) n = some n := by
    cases h : lower.foldl (betterSource s) none with
    | none => rfl
    | some j => exact if_pos (before j h)
  have after : higher.foldl (betterSource s) (some n) = some n := foldl_kept _ _ _ fun j hj => if_neg (by
    have := best j (List.mem_append_right _ (List.mem_cons_of_mem _ hj))
    omega)
  rw [List.foldl_append, List.foldl_cons, here, after]

theorem bestSource_some (hq : qualifies s x n = true) (hn : n < 512)
    (best : ∀ j < 512, qualifies s x j = true → getFi s pgIntc Reg.INTC_ROUTE_PRIO j < getFi s pgIntc Reg.INTC_ROUTE_PRIO n ∨
      (getFi s pgIntc Reg.INTC_ROUTE_PRIO j = getFi s pgIntc Reg.INTC_ROUTE_PRIO n ∧ n ≤ j)) : bestSource s x = some n := by
  rw [bestSource_eq]
  refine foldl_betterSource (List.pairwise_lt_range.filter _) (List.mem_filter.2 ⟨List.mem_range.2 hn, hq⟩) fun j hj => ?_
  obtain ⟨range, qualified⟩ := List.mem_filter.1 hj
  exact best j (List.mem_range.1 range) qualified

theorem claimSource_some (h : bestSource s x = some n) :
    claimSource x s = (n + 1, { s with mbx := { s.mbx with claimed := n :: s.mbx.claimed } }) := by
  unfold claimSource
  rw [h]

theorem claimSource_none (h : bestSource s x = none) : claimSource x s = (0, s) := by
  unfold claimSource
  rw [h]

theorem completeSource_unclaimed (h : n ∉ s.mbx.claimed) : completeSource n s = s := if_neg (by simpa using h)

/-- A completion releases the source, whether or not it pends again. -/
theorem completeSource_mbx (h : n ∈ s.mbx.claimed) :
    (completeSource n s).mbx = { s.mbx with claimed := s.mbx.claimed.filter (· ≠ n) } := by
  rw [completeSource, if_pos (by simpa using h)]
  dsimp only
  split
  · exact (notify_keeps (K := 2048) n (by decide) (Keeps.refl _ _)).frame .mbx (by decide)
  · rfl

/-! ### The release of the cores (R293) -/

theorem exec_coreRun (hc : controls who = true) (b : Byte) (s : State) : exec (.coreRun who b) s = .next (writeCoreRun b.toNat s) :=
  congrArg Host.Outcome.next (asMaster_hub hc (by decide) _ s)

/-- RUN and WFI after a write of RUN. -/
def coreRunShown (v : Nat) (s : State) : State :=
  setF pgCore Reg.CORE_WFI (getF s pgCore Reg.CORE_WFI &&& v) (setF pgCore Reg.CORE_RUN v s)

/-- Core `k` follows its bit of RUN, which was `old`'s. -/
def coreFollows (old v : Nat) (s : State) (k : Nat) : State :=
  if v.testBit k && !old.testBit k then emit (.coreRelease k (get64 s pgCore Reg.CORE_RVEC_LO Reg.CORE_RVEC_HI k)) s
  else if !v.testBit k && old.testBit k then emit (.coreReset k) s else s

theorem writeCoreRun_eq (v : Nat) (s : State) :
    writeCoreRun v s = (List.range 8).foldl (coreFollows (getF s pgCore Reg.CORE_RUN) v) (coreRunShown v s) := (rfl)

theorem coreFollows_regs (old v : Nat) (s : State) (k : Nat) : (coreFollows old v s k).regs = s.regs := by
  unfold coreFollows
  split
  · rfl
  · split <;> rfl

theorem grows_coreFollows (old v : Nat) (s : State) (k : Nat) : grows s (coreFollows old v s k) := by
  unfold coreFollows
  split
  · exact grows_emit _ (grows_refl s)
  · split
    · exact grows_emit _ (grows_refl s)
    · exact grows_refl s

theorem coreFollows_all_regs (old v : Nat) (l : List Nat) (s : State) : (l.foldl (coreFollows old v) s).regs = s.regs :=
  List.foldlRecOn (motive := fun t : State => t.regs = s.regs) _ _ rfl fun t h k _ => (coreFollows_regs old v t k).trans h

/-- What core `k` does in its turn goes out, whatever the cores before it and after it do. -/
theorem puts_coreFollows {old v k : Nat} {l : List Nat} (hk : k ∈ l) {e : Emission} {s : State}
    (h : ∀ t : State, t.regs = s.regs → coreFollows old v t k = emit e t) : puts e s (l.foldl (coreFollows old v) s) := by
  obtain ⟨first, last, rfl⟩ := List.append_of_mem hk
  rw [List.foldl_append, List.foldl_cons, h _ (coreFollows_all_regs old v first s)]
  exact puts_grows (grows_foldl (grows_coreFollows old v) last _) (puts_emit e (grows_foldl (grows_coreFollows old v) first s))

theorem coreRunShown_fields {v : Nat} (hv : v < 256) (s : State) :
    getF (coreRunShown v s) pgCore Reg.CORE_RUN = v ∧ getF (coreRunShown v s) pgCore Reg.CORE_WFI = getF s pgCore Reg.CORE_WFI &&& v := by
  constructor
  · rw [coreRunShown, getF_setF_apart (by decide) (by decide), getF_setF_same (by decide)]
    exact Nat.mod_eq_of_lt hv
  · rw [coreRunShown, getF_setF_same (by decide)]
    exact Nat.mod_eq_of_lt (Nat.lt_of_le_of_lt Nat.and_le_right hv)

theorem regsBut_coreRunShown (v : Nat) (s : State) : regsBut [pageBase pgCore + 0x40, pageBase pgCore + 0x44] s (coreRunShown v s) :=
  regsBut_setF _ (by decide) (regsBut_setF v (by decide) (regsBut_refl _ s))

/-- A write of RUN leaves the cores' vectors. -/
theorem get64_coreRunShown (v k : Nat) (s : State) :
    get64 (coreRunShown v s) pgCore Reg.CORE_RVEC_LO Reg.CORE_RVEC_HI k = get64 s pgCore Reg.CORE_RVEC_LO Reg.CORE_RVEC_HI k :=
  get64_regsBut (regsBut_coreRunShown v s)
    (by simp only [fieldAddr, Reg.CORE_RVEC_LO, List.mem_cons, List.not_mem_nil, or_false]; omega)
    (by simp only [fieldAddr, Reg.CORE_RVEC_HI, List.mem_cons, List.not_mem_nil, or_false]; omega)

/-- A core whose bit rises is released at its vector, one whose bit falls is reset. -/
theorem puts_writeCoreRun {k : Nat} (hk : k < 8) (v : Nat) (s : State) :
    (v.testBit k = true → (getF s pgCore Reg.CORE_RUN).testBit k = false →
      puts (.coreRelease k (get64 s pgCore Reg.CORE_RVEC_LO Reg.CORE_RVEC_HI k)) s (writeCoreRun v s)) ∧
    (v.testBit k = false → (getF s pgCore Reg.CORE_RUN).testBit k = true → puts (.coreReset k) s (writeCoreRun v s)) := by
  have shown : grows s (coreRunShown v s) := grows_same rfl (grows_refl s)
  rw [writeCoreRun_eq]
  refine ⟨fun up down => puts_after shown (puts_coreFollows (List.mem_range.2 hk) fun t ht => ?_),
    fun down up => puts_after shown (puts_coreFollows (List.mem_range.2 hk) fun t _ => ?_)⟩
  · have vector : get64 t pgCore Reg.CORE_RVEC_LO Reg.CORE_RVEC_HI k = get64 (coreRunShown v s) pgCore Reg.CORE_RVEC_LO Reg.CORE_RVEC_HI k :=
      get64_regsBut (regsBut_same (l := []) ht (regsBut_refl _ _)) (by simp) (by simp)
    rw [coreFollows, if_pos (by simp [up, down]), vector, get64_coreRunShown]
  · rw [coreFollows, if_neg (by simp [down]), if_pos (by simp [up, down])]

/-! ### The statement -/

/-- Settles O34: who writes or reads a channel and whether it is full decide what the access does; the best source is found in ascending
order; each core follows its bit. -/
theorem mailboxes : Obligations.Mailboxes := by
  unfold Obligations.Mailboxes
  intro who c x n i v w b rest s hc hx hi mbx leavesWords refused word
  refine ⟨fun control => ⟨?_, ?_, fun hsend hs hr => ⟨?_, ?_⟩, fun hrecv hr => ⟨?_, ?_⟩, ?_, ?_, ?_, ?_, ?_⟩, warningMove_shows hi⟩
  · intro foreign
    exact does (exec_mbxWrite control hc v s) (by rw [chanWrite_foreign foreign]; exact mbxRecords_record (by decide) rfl s)
  · intro foreign
    refine does (exec_mbxRead control hc s) ?_
    rw [chanRead_foreign foreign]
    obtain ⟨same, code, words⟩ := mbxRecords_record (k := 0x13) (by decide) rfl s
    exact ⟨⟨samesBut_answer (by decide) same _ _ _, codeIn_congr rfl code, words⟩, rfl⟩
  · intro empty
    refine does (exec_mbxWrite control hc v s) ?_
    rw [chanWrite_sender hsend hs hr, if_neg (by simp [empty])]
    exact ⟨samesBut_keeps (chanPut_keeps c _ (by decide) (Keeps.refl _ s)), chanPut_shows hc v.isLt s⟩
  · intro full
    refine does (exec_mbxWrite control hc v s) ?_
    rw [chanWrite_sender hsend hs hr, if_pos full]
    exact chanOverwrite_shows hc full
  · intro full
    refine does (exec_mbxRead control hc s) ?_
    rw [chanRead_receiver hrecv hr, if_pos full, ofNat_chanDatum]
    have same : samesBut [.regs, .io] s (chanTaken c s) :=
      samesBut_keeps (notify_keeps _ (by decide) (setFreePend_keeps _ _ (by decide) (setFull_keeps _ _ (by decide) (Keeps.refl _ s))))
    exact ⟨samesBut_answer (by decide) same _ _ _, rfl, chanTaken_shows hc s⟩
  · intro empty
    refine does (exec_mbxRead control hc s) ?_
    rw [chanRead_receiver hrecv hr, if_neg (by simp [empty])]
    exact ⟨samesBut_answer (by decide) (samesBut_refl _ s) _ _ _, rfl⟩
  · intro hq hn best
    refine does (exec_intcClaim control hx s) ?_
    have same := samesBut_keeps (l := [.io, .mbx]) (keepsP_get (claimSource_keeps x (by decide) (Keeps.refl _ s)))
    rw [claimSource_some (bestSource_some hq hn best)] at same ⊢
    exact ⟨samesBut_answer (by decide) same _ _ _, rfl, rfl⟩
  · intro idle
    refine does (exec_intcClaim control hx s) ?_
    rw [claimSource_none (bestSource_none idle)]
    exact ⟨samesBut_answer (by decide) (samesBut_refl _ s) _ _ _, rfl⟩
  · intro claimed
    exact does (exec_intcComplete control hx n s) ⟨samesBut_keeps (completeSource_keeps n (by decide) (Keeps.refl _ s)), completeSource_mbx claimed⟩
  · intro unclaimed
    exact does (exec_intcComplete control hx n s) (completeSource_unclaimed unclaimed)
  · refine does (exec_coreRun control b s) ⟨samesBut_keeps (writeCoreRun_keeps _ (by decide) (Keeps.refl _ s)), ?_⟩
    have regs : (writeCoreRun b.toNat s).regs = (coreRunShown b.toNat s).regs := coreFollows_all_regs _ _ _ _
    obtain ⟨run, wfi⟩ := coreRunShown_fields b.isLt s
    exact ⟨(getF_congr regs _ _).trans run, (getF_congr regs _ _).trans wfi, regsBut_same regs (regsBut_coreRunShown _ s), fun k hk => puts_writeCoreRun hk _ s⟩

end Sys2Proof.Machine
end

section
/-! PROOFS. Chapter 12: the words of an island's page; what its VALID pair, its hold latch and its SAFE latch show. -/

namespace Sys2Proof.Machine

open Sys2Proof

variable {s t u : State} {l : List Nat} {i : Nat}

/-! ### Frames one after another -/

theorem regsBut_trans (h : regsBut l s t) (k : regsBut l t u) : regsBut l s u := fun a ha => (k a ha).trans (h a ha)

theorem regsBut_mono {m : List Nat} (hl : ∀ a ∈ l, a ∈ m) (h : regsBut l s t) : regsBut m s t := fun a ha => h a fun hm => ha (hl a hm)

theorem quietBut_trans (h : quietBut l s t) (k : quietBut l t u) : quietBut l s u := fun a hq ha => (k a hq ha).trans (h a hq ha)

theorem quietBut_of_regsBut (h : regsBut l s t) : quietBut l s t := fun a _ ha => h a ha

theorem quietBut_mono {m : List Nat} (hl : ∀ a ∈ l, a ∈ m) (h : quietBut l s t) : quietBut m s t := fun a hq ha => h a hq fun hm => ha (hl a hm)

theorem getF_regsBut (h : regsBut l s t) {p : Page} {r : Row} (ha : fieldAddr p r 0 0 ∉ l) : getF t p r = getF s p r := getFij_regsBut h ha

theorem getFi_quietBut (h : quietBut l s t) {p : Page} {r : Row} {n : Nat} (hq : quiet (fieldAddr p r n 0)) (ha : fieldAddr p r n 0 ∉ l) :
    getFi t p r n = getFi s p r n := by
  simp only [getFi, getFij]
  rw [h _ hq ha]

theorem flag_eq {p : Page} {r : Row} (h : getF t p r = getF s p r) : flag t p r = flag s p r := by simp only [flag, h]

theorem flagI_eq {p : Page} {r : Row} {n : Nat} (h : getFi t p r n = getFi s p r n) : flagI t p r n = flagI s p r n := by simp only [flagI, h]

/-- The code that a page shows stands in its header. -/
theorem codeIn_regsBut (h : regsBut l s t) (hl : ∀ a ∈ l, 64 ≤ a % 4096) {p : Page} {c : Nat} (k : codeIn s p c) : codeIn t p c := by
  have e (r : Row) (hr : r.off < 64) : getF t p r = getF s p r := by
    refine getF_regsBut h fun ha => ?_
    have := hl _ ha
    have := pageBase_mod p
    simp only [fieldAddr] at *
    omega
  rwa [codeIn, e _ (by decide), e _ (by decide)]

theorem samesBut_emitted {m : List Piece} (hm : Piece.io ∈ m) (e : Emission) (h : samesBut m s t) : samesBut m s (emit e t) :=
  samesBut_trans_of_subset (by simpa using hm) h (samesBut_emit e t)

theorem samesBut_mono {m k : List Piece} (hm : ∀ p ∈ k, p ∈ m) (h : samesBut k s t) : samesBut m s t := samesBut_trans_of_subset hm (samesBut_refl m s) h

theorem samesBut_trans {m : List Piece} (h : samesBut m s t) (k : samesBut m t u) : samesBut m s u := samesBut_trans_of_subset (fun _ => id) h k

theorem samesBut_after_at {m : List Piece} (hm : Piece.io ∈ m) {n : Nat} (h : samesBut m (at_ n s) t) : samesBut m s t :=
  samesBut_trans (samesBut_mono (by simpa using hm) (samesBut_at n s)) h

/-! ### An island beside its page -/

theorem islUp_iff : islUp s i = true ↔ i < 2 ∧ (islOf s i).phase = 1 := by simp [islUp]

theorem islUp_length (h : islUp s i = true) : i < s.isl.length := by
  by_contra out
  have fresh : islOf s i = Isl.fresh := by simp [islOf, List.getD, List.getElem?_eq_none (Nat.le_of_not_lt out)]
  have := (islUp_iff.1 h).2
  rw [fresh] at this
  cases this

theorem islOf_congr (h : t.isl = s.isl) (n : Nat) : islOf t n = islOf s n := by rw [islOf, h, islOf]

theorem islUp_congr (h : islOf t i = islOf s i) : islUp t i = islUp s i := by rw [islUp, h, islUp]

theorem islOf_modIsl (h : i < s.isl.length) (f : Isl → Isl) : islOf (modIsl i f s) i = f (islOf s i) := by
  simp [islOf, modIsl, List.getD, h]

theorem islOf_modIsl_ne {n : Nat} (h : n ≠ i) (f : Isl → Isl) : islOf (modIsl i f s) n = islOf s n := by
  simp [islOf, modIsl, List.getD, Ne.symm h]

theorem modIsl_length (f : Isl → Isl) : (modIsl i f s).isl.length = s.isl.length := by simp [modIsl]

/-- The other island is another one. -/
theorem other_ne (h : i < 2) : 1 - i ≠ i := by omega

/-! ### Steps in the STAT word of an island -/

/-- The address of ISL.STAT. -/
abbrev islStat (i : Nat) : Nat := pageBase (pgIsl i) + 0x40

/-- The fields of ISL.STAT are its word's. -/
theorem getF_statWord (h : regW t (islStat i) = regW s (islStat i)) {r : Row} (hr : r.off = 0x40 ∧ r.s1 = 0) : getF t (pgIsl i) r = getF s (pgIsl i) r := by
  have e : fieldAddr (pgIsl i) r 0 0 = islStat i := by simp only [fieldAddr, hr.1, hr.2, Nat.mul_zero, Nat.zero_mul, Nat.add_zero]
  simp only [getF, getFij, e, h]

theorem quiet_isl {a : Nat} (h : 64 ≤ a ∧ a < 4096) (i : Nat) : quiet (pageBase (pgIsl i) + a) := by
  simp only [quiet, pageBase]
  omega

/-- Of the registers only ISL.STAT is written, and in it none but the fields `rs`; what went out stays out. -/
structure StatStep (i : Nat) (rs : List Row) (s t : State) : Prop where
  words : regsBut [islStat i] s t
  fields : ∀ r, (rs.all fun x => apart x r) = true → getF t (pgIsl i) r = getF s (pgIsl i) r
  out : grows s t

variable {rs : List Row}

theorem statStep_trans (h : StatStep i rs s t) (k : StatStep i rs t u) : StatStep i rs s u :=
  ⟨regsBut_trans h.words k.words, fun r hr => (k.fields r hr).trans (h.fields r hr), grows_trans h.out k.out⟩

theorem statStep_mono {ms : List Row} (hm : ∀ r ∈ rs, r ∈ ms) (h : StatStep i rs s t) : StatStep i ms s t :=
  ⟨h.words, fun r hr => h.fields r (List.all_eq_true.2 fun x hx => List.all_eq_true.1 hr x (hm x hx)), h.out⟩

theorem statStep_same (hr : t.regs = s.regs) (ho : grows s t) : StatStep i rs s t :=
  ⟨regsBut_same hr (regsBut_refl _ s), fun _ _ => getF_congr hr _ _, ho⟩

theorem statStep_refl (s : State) : StatStep i rs s s := statStep_same rfl (grows_refl s)

theorem statStep_at (n : Nat) (s : State) : StatStep i rs s (at_ n s) := statStep_same rfl (grows_same rfl (grows_refl s))

theorem statStep_modIsl (n : Nat) (f : Isl → Isl) (s : State) : StatStep i rs s (modIsl n f s) := statStep_same rfl (grows_same rfl (grows_refl s))

theorem statStep_emit (e : Emission) (s : State) : StatStep i rs s (emit e s) := statStep_same rfl (grows_emit e (grows_refl s))

theorem statStep_setF {r : Row} (ho : fieldAddr (pgIsl i) r 0 0 = islStat i) (hw : r.lo + r.w ≤ 32) (hr : r ∈ rs) (v : Nat) (s : State) :
    StatStep i rs s (setF (pgIsl i) r v s) :=
  ⟨regsBut_setF v (List.mem_singleton.2 ho) (regsBut_refl _ s), fun _ hx => getF_setF_apart hw (List.all_eq_true.1 hx r hr) v s,
    grows_same (by simp) (grows_refl s)⟩

/-- No address but one in the page's STAT word is touched. -/
theorem StatStep.getF_word (h : StatStep i rs s t) {p : Page} {r : Row} (ha : fieldAddr p r 0 0 ≠ islStat i) : getF t p r = getF s p r :=
  getF_regsBut h.words fun hm => ha (List.mem_singleton.1 hm)

theorem StatStep.getFi_word (h : StatStep i rs s t) {p : Page} {r : Row} {n : Nat} (ha : fieldAddr p r n 0 ≠ islStat i) :
    getFi t p r n = getFi s p r n := getFi_regsBut h.words fun hm => ha (List.mem_singleton.1 hm)

theorem StatStep.hub (h : StatStep i rs s t) {n : Nat} (hn : n < 0x1000) {r : Row} (hr : r.off < 4096 ∧ r.s1 = 0) : getF t (.hub n) r = getF s (.hub n) r :=
  h.getF_word (by simp only [fieldAddr, islStat, pageBase, hr.2]; omega)

theorem StatStep.own (h : StatStep i rs s t) {r : Row} (hr : r.off ≠ 0x40 ∧ r.s1 = 0) : getF t (pgIsl i) r = getF s (pgIsl i) r :=
  h.getF_word (by simp only [fieldAddr, islStat, hr.2]; omega)

theorem StatStep.code (h : StatStep i rs s t) {p : Page} {c : Nat} (k : codeIn s p c) : codeIn t p c :=
  codeIn_regsBut h.words (by simp only [islStat, pageBase, List.mem_singleton, forall_eq]; omega) k

/-- Fields that none of the written ones touches. -/
theorem StatStep.kept (h : StatStep i rs s t) {m : List Row} (hm : (m.all fun r => rs.all fun x => apart x r) = true) :
    ∀ r ∈ m, getF t (pgIsl i) r = getF s (pgIsl i) r := fun r hr => h.fields r (List.all_eq_true.1 hm r hr)

theorem StatStep.quiet (h : StatStep i rs s t) : quietBut [islStat i] s t := quietBut_of_regsBut h.words

theorem StatStep.inCharge (h : StatStep i rs s t) : islandInCharge t = islandInCharge s := by
  simp only [islandInCharge, h.hub (n := 0x62) (r := Reg.CLAP_STAT_STATE) (by decide) (by decide),
    h.hub (n := 0x62) (r := Reg.CLAP_STAT_HOLDER) (by decide) (by decide)]

/-! ### The VALID pair (R325) -/

theorem StatStep.safetyCurrent (h : StatStep i rs s t) : safetyCurrent t i = safetyCurrent s i := by
  have e (r : Row) (hr : 0x80 ≤ r.off) (n : Nat) : getFi t (pgIsl i) r n = getFi s (pgIsl i) r n :=
    h.getFi_word (by simp only [fieldAddr, islStat]; omega)
  have enabled (n : Nat) : flagI t (pgIsl i) Reg.ISL_WATCH_ENABLE n = flagI s (pgIsl i) Reg.ISL_WATCH_ENABLE n := flagI_eq (e _ (by decide) n)
  have safety (n : Nat) : flagI t (pgIsl i) Reg.ISL_WATCH_SAFETY n = flagI s (pgIsl i) Reg.ISL_WATCH_SAFETY n := flagI_eq (e _ (by decide) n)
  have state (n : Nat) : watchState t i n = watchState s i n := e _ (by decide) n
  simp only [Machine.safetyCurrent, enabled, safety, state]

/-- The pair follows the latches; its own bit plays no part. -/
theorem validAllowed_statStep (h : StatStep i [Reg.ISL_STAT_VALID] s t) (up : islUp t i = islUp s i) : validAllowed t i = validAllowed s i := by
  have sec : lcState t = lcState s := h.hub (by decide) (by decide)
  simp only [validAllowed, up, h.safetyCurrent, sec, flag_eq (h.fields Reg.ISL_STAT_HOLD (by decide)), flag_eq (h.fields Reg.ISL_STAT_FAULTED (by decide)),
    flag_eq (h.fields Reg.ISL_STAT_SAFE (by decide)), flag_eq (h.own (r := Reg.ISL_CTL_VALID_EN) (by decide))]

theorem showValid_same (i : Nat) (s : State) : samesBut [.regs, .io] s (showValid i s) :=
  samesBut_keeps (showValid_keeps i (by decide) (Keeps.refl _ s))

theorem showValid_isl (i : Nat) (s : State) : (showValid i s).isl = s.isl := (showValid_same i s).2 .isl (by decide)

theorem statStep_showValid (i : Nat) (s : State) : StatStep i [Reg.ISL_STAT_VALID] s (showValid i s) := by
  unfold showValid
  dsimp only
  split
  · exact statStep_refl s
  · exact statStep_trans (statStep_setF rfl (by decide) List.mem_cons_self _ s) (statStep_emit _ _)

theorem flag_showValid (i : Nat) (s : State) : flag (showValid i s) (pgIsl i) Reg.ISL_STAT_VALID = validAllowed s i := by
  unfold showValid
  dsimp only
  split
  next h => exact h.symm
  next =>
    rw [flag, getF_emit, getF_setF_same (by decide)]
    cases validAllowed s i <;> rfl

theorem flag_false_iff {p : Page} {r : Row} : flag s p r = false ↔ getF s p r = 0 := by simp [flag]

theorem validAllowed_of_hold (h : flag s (pgIsl i) Reg.ISL_STAT_HOLD = false) : validAllowed s i = false := by simp [validAllowed, h]

theorem validAllowed_of_safe (h : flag s (pgIsl i) Reg.ISL_STAT_SAFE = true) : validAllowed s i = false := by simp [validAllowed, h]

/-- Where the conditions do not hold the pair is invalid, and a pair that was valid is seen to go. -/
theorem showValid_dark (h : validAllowed s i = false) : getF (showValid i s) (pgIsl i) Reg.ISL_STAT_VALID = 0 ∧
    (flag s (pgIsl i) Reg.ISL_STAT_VALID = true → puts (.valid i false) s (showValid i s)) := by
  refine ⟨flag_false_iff.1 ((flag_showValid i s).trans h), fun hv => ?_⟩
  simp only [showValid, h, hv, Bool.false_eq_true, ↓reduceIte]
  exact puts_emit _ (grows_same (by simp) (grows_refl s))

/-! ### The hold latch (R323) -/

theorem dropHold_held (h : flag s (pgIsl i) Reg.ISL_STAT_HOLD = true) :
    dropHold i s = emit (.islWrite i 0x80 1) (showValid i (setF (pgIsl i) Reg.ISL_STAT_HOLD 0 s)) := if_pos h

theorem dropHold_free (h : flag s (pgIsl i) Reg.ISL_STAT_HOLD = false) : dropHold i s = s := if_neg (by simp [h])

theorem statStep_dropHold (i : Nat) (s : State) : StatStep i [Reg.ISL_STAT_HOLD, Reg.ISL_STAT_VALID] s (dropHold i s) := by
  cases h : flag s (pgIsl i) Reg.ISL_STAT_HOLD
  · rw [dropHold_free h]; exact statStep_refl s
  · rw [dropHold_held h]
    exact statStep_trans (statStep_setF rfl (by decide) List.mem_cons_self _ s) (statStep_trans (statStep_mono (by simp) (statStep_showValid i _)) (statStep_emit _ _))

theorem dropHold_same (i : Nat) (s : State) : samesBut [.regs, .io] s (dropHold i s) := samesBut_keeps (dropHold_keeps i (by decide) (Keeps.refl _ s))

theorem dropHold_isl (i : Nat) (s : State) : (dropHold i s).isl = s.isl := (dropHold_same i s).2 .isl (by decide)

theorem dropHold_hold (i : Nat) (s : State) : getF (dropHold i s) (pgIsl i) Reg.ISL_STAT_HOLD = 0 := by
  cases h : flag s (pgIsl i) Reg.ISL_STAT_HOLD
  · rw [dropHold_free h]; exact flag_false_iff.1 h
  · rw [dropHold_held h, getF_emit, (statStep_showValid i _).fields _ (by decide), getF_setF_same (by decide)]
    rfl

/-- The latch that clears takes the pair invalid and is reported to the hub. -/
theorem dropHold_shows (h : flag s (pgIsl i) Reg.ISL_STAT_HOLD = true) :
    getF (dropHold i s) (pgIsl i) Reg.ISL_STAT_VALID = 0 ∧ puts (.islWrite i 0x80 1) s (dropHold i s) ∧
      (flag s (pgIsl i) Reg.ISL_STAT_VALID = true → puts (.valid i false) s (dropHold i s)) := by
  have low : flag (setF (pgIsl i) Reg.ISL_STAT_HOLD 0 s) (pgIsl i) Reg.ISL_STAT_HOLD = false :=
    flag_false_iff.2 (getF_setF_same (by decide) 0 s)
  have valid : flag (setF (pgIsl i) Reg.ISL_STAT_HOLD 0 s) (pgIsl i) Reg.ISL_STAT_VALID = flag s (pgIsl i) Reg.ISL_STAT_VALID :=
    flag_eq (getF_setF_apart (by decide) (by decide) 0 s)
  have written : grows s (setF (pgIsl i) Reg.ISL_STAT_HOLD 0 s) := grows_same (by simp) (grows_refl s)
  obtain ⟨dark, seen⟩ := showValid_dark (validAllowed_of_hold low)
  rw [dropHold_held h]
  exact ⟨dark, puts_emit _ (grows_trans written (statStep_showValid i _).out),
    fun hv => puts_grows (grows_emit _ (grows_refl _)) (puts_after written (seen (valid.trans hv)))⟩

/-- The latch clears after a step that leaves ISL.STAT alone. -/
theorem dropHold_after (held : flag s (pgIsl i) Reg.ISL_STAT_HOLD = true) (word : regW t (islStat i) = regW s (islStat i)) (out : grows s t) :
    let u := dropHold i t
    getF u (pgIsl i) Reg.ISL_STAT_HOLD = 0 ∧ getF u (pgIsl i) Reg.ISL_STAT_VALID = 0 ∧ getF u (pgIsl i) Reg.ISL_STAT_SAFE = getF s (pgIsl i) Reg.ISL_STAT_SAFE ∧
      (∀ r ∈ [Reg.ISL_STAT_MODE, Reg.ISL_STAT_FAULTED, Reg.ISL_STAT_FAULT_CAUSE], getF u (pgIsl i) r = getF s (pgIsl i) r) ∧
      puts (.islWrite i 0x80 1) s u ∧ (flag s (pgIsl i) Reg.ISL_STAT_VALID = true → puts (.valid i false) s u) := by
  have same {r : Row} (hr : r.off = 0x40 ∧ r.s1 = 0) : getF t (pgIsl i) r = getF s (pgIsl i) r := getF_statWord word hr
  have step := statStep_dropHold i t
  obtain ⟨dark, told, seen⟩ := dropHold_shows ((flag_eq (same (by decide))).trans held)
  refine ⟨dropHold_hold i t, dark, (step.fields _ (by decide)).trans (same (by decide)), fun r hr => (step.kept (by decide) r hr).trans (same ?_), puts_after out told,
    fun valid => puts_after out (seen ((flag_eq (same (by decide))).trans valid))⟩
  exact (by decide : ∀ r ∈ [Reg.ISL_STAT_MODE, Reg.ISL_STAT_FAULTED, Reg.ISL_STAT_FAULT_CAUSE], r.off = 0x40 ∧ r.s1 = 0) r hr

/-! ### The safe-state frame (R331) -/

theorem startSsf_same (i t0 : Nat) (s : State) : samesBut [.isl] s (startSsf i t0 s) := samesBut_keeps (startSsf_keeps i t0 (by decide) (Keeps.refl _ s))

theorem startSsf_regs (i t0 : Nat) (s : State) : (startSsf i t0 s).regs = s.regs := (startSsf_same i t0 s).2 .regs (by decide)

theorem statStep_startSsf (n t0 : Nat) (s : State) : StatStep i rs s (startSsf n t0 s) :=
  statStep_same (startSsf_regs n t0 s) (grows_same (congrArg (·.outbox) ((startSsf_same n t0 s).2 .io (by decide))) (grows_refl s))

theorem islOf_modCan (h : i < s.isl.length) (ch : Nat) (f : CanCh → CanCh) :
    islOf (modCan i ch f s) i = { islOf s i with can := (islOf s i).can.modify ch f } := islOf_modIsl h _

theorem islOf_modCan_ne {n : Nat} (h : n ≠ i) (ch : Nat) (f : CanCh → CanCh) : islOf (modCan i ch f s) n = islOf s n := islOf_modIsl_ne h _

theorem modCan_length (ch : Nat) (f : CanCh → CanCh) : (modCan i ch f s).isl.length = s.isl.length := modIsl_length _

/-- The frame of the safe state is queued once; of the island only its channels are touched. -/
theorem startSsf_own (h : i < s.isl.length) (t0 : Nat) : ∃ c, islOf (startSsf i t0 s) i = { islOf s i with ssf := true, can := c } := by
  unfold startSsf
  split
  next queued =>
    refine ⟨(islOf s i).can, ?_⟩
    generalize islOf s i = x at *
    obtain ⟨⟩ := x
    simp_all
  next =>
    simp only [queueFrame, islOf_modCan, islOf_modIsl, modCan_length, modIsl_length, h]
    exact ⟨_, rfl⟩

theorem startSsf_other {n : Nat} (h : n ≠ i) (t0 : Nat) : islOf (startSsf i t0 s) n = islOf s n := by
  unfold startSsf
  split
  · rfl
  · simp only [queueFrame, islOf_modCan_ne h, islOf_modIsl_ne h]

/-! ### The SAFE latch (R331) -/

/-- The SAFE latch of an island with its cause, and the pair that follows it. -/
def safeShown (i c : Nat) (s : State) : State :=
  showValid i (modIsl i (fun x => { x with cause := c }) (setF (pgIsl i) Reg.ISL_STAT_SAFE 1 s))

theorem statStep_safeShown (i c : Nat) (s : State) : StatStep i [Reg.ISL_STAT_SAFE, Reg.ISL_STAT_VALID] s (safeShown i c s) :=
  statStep_trans (statStep_setF rfl (by decide) List.mem_cons_self _ s)
    (statStep_trans (statStep_modIsl i _ _) (statStep_mono (by simp) (statStep_showValid i _)))

theorem safeShown_latches (i c : Nat) (s : State) : getF (safeShown i c s) (pgIsl i) Reg.ISL_STAT_SAFE = 1 ∧ getF (safeShown i c s) (pgIsl i) Reg.ISL_STAT_VALID = 0 := by
  have set : getF (modIsl i (fun x => { x with cause := c }) (setF (pgIsl i) Reg.ISL_STAT_SAFE 1 s)) (pgIsl i) Reg.ISL_STAT_SAFE = 1 := by
    rw [getF_modIsl, getF_setF_same (by decide)]
    rfl
  exact ⟨((statStep_showValid i _).fields _ (by decide)).trans set, (showValid_dark (validAllowed_of_safe (by simp [flag, set]))).1⟩

theorem safeShown_own (h : i < s.isl.length) (c : Nat) : islOf (safeShown i c s) i = { islOf s i with cause := c } := by
  rw [safeShown, islOf_congr (showValid_isl i _), islOf_modIsl (by simpa using h), islOf_congr (setF_isl ..)]

theorem safeShown_other {n : Nat} (h : n ≠ i) (c : Nat) (s : State) : islOf (safeShown i c s) n = islOf s n := by
  rw [safeShown, islOf_congr (showValid_isl i _), islOf_modIsl_ne h, islOf_congr (setF_isl ..)]

theorem safeShown_length (i c : Nat) (s : State) : (safeShown i c s).isl.length = s.isl.length := by
  rw [safeShown, showValid_isl, modIsl_length, setF_isl]

end Sys2Proof.Machine
end

section
/-! PROOFS. Chapter 12: the hold latch of an island, its messages and its timer (R311, R320, R323, R325, R327, R331). -/

namespace Sys2Proof.Machine

open Sys2Proof

variable {s t u : State} {i n : Nat}

/-! ### What the commands run -/

theorem exec_revokeReceive (up : islUp s i = true) : exec (.revokeReceive i) s = .next (dropHold i s) := congrArg Host.Outcome.next (if_pos up)

theorem exec_holdDrop (up : islUp s i = true) : exec (.holdDrop i) s = .next (dropHold i s) := congrArg Host.Outcome.next (if_pos up)

theorem exec_heartbeatResponse_error (up : islUp s i = true) (n : Nat) : exec (.heartbeatResponse i false n) s = .next (dropHold i (at_ n s)) :=
  congrArg Host.Outcome.next (if_pos up)

theorem exec_heartbeatResponse_ack (up : islUp s i = true) (n : Nat) :
    exec (.heartbeatResponse i true n) s = .next (modIsl i (fun x => { x with ackAt := n }) (at_ n s)) := congrArg Host.Outcome.next (if_pos up)

theorem exec_holdTimeout_late (up : islUp s i = true) (h : flag s (pgIsl i) Reg.ISL_STAT_HOLD = true) (late : (islOf s i).ackAt + 499500 ≤ n) :
    exec (.holdTimeout i n) s = .next (dropHold i (record (pgIsl i) 0x56 (at_ n s))) := congrArg Host.Outcome.next (if_pos ⟨up, h, late⟩)

theorem exec_holdTimeout_early (h : ¬ (flag s (pgIsl i) Reg.ISL_STAT_HOLD = true ∧ (islOf s i).ackAt + 499500 ≤ n)) : exec (.holdTimeout i n) s = .next s :=
  congrArg Host.Outcome.next (if_neg fun ⟨_, k⟩ => h k)

theorem exec_tickFlit (up : islUp s i = true) (bar health : Nat) :
    exec (.tickFlit i bar health) s = .next (modIsl i (fun x => { x with bar := bar % 2 ^ 32, health := health % 2 ^ 24 }) s) :=
  congrArg Host.Outcome.next (if_pos up)

/-- The hold latch is set by a GRANT at an instant: the timer starts and the epoch is kept. -/
def granted (i n : Nat) (s : State) : State :=
  modIsl i (fun x => { x with epoch := getF (at_ n s) pgClap Reg.CLAP_EPOCH, ackAt := n }) (setF (pgIsl i) Reg.ISL_STAT_HOLD 1 (at_ n s))

theorem statStep_granted (i n : Nat) (s : State) : StatStep i [Reg.ISL_STAT_HOLD] s (granted i n s) :=
  statStep_trans (statStep_at n s) (statStep_trans (statStep_setF rfl (by decide) List.mem_cons_self 1 _) (statStep_modIsl i _ _))

/-- No field of a hub page is written by it. -/
theorem getF_granted_hub {m : Nat} (hm : m < 0x1000) {r : Row} (hr : r.off < 4096 ∧ r.s1 = 0) (i n : Nat) (s : State) :
    getF (granted i n s) (.hub m) r = getF s (.hub m) r :=
  (statStep_granted i n s).hub hm hr

theorem exec_grantReceive (up : islUp s i = true) (n : Nat) : exec (.grantReceive i n) s =
    .next (if flag s pgClap Reg.CLAP_STAT_SAFE then startSsf i n (safeShown i (getF s pgClap Reg.CLAP_STAT_CAUSE) (granted i n s)) else showValid i (granted i n s)) := by
  have run : exec (.grantReceive i n) s = .next (if flag (granted i n s) pgClap Reg.CLAP_STAT_SAFE then
      startSsf i n (showValid i (if flag (granted i n s) pgClap Reg.CLAP_STAT_SAFE then
        modIsl i (fun x => { x with cause := getF (granted i n s) pgClap Reg.CLAP_STAT_CAUSE }) (setF (pgIsl i) Reg.ISL_STAT_SAFE 1 (granted i n s)) else granted i n s))
      else showValid i (if flag (granted i n s) pgClap Reg.CLAP_STAT_SAFE then
        modIsl i (fun x => { x with cause := getF (granted i n s) pgClap Reg.CLAP_STAT_CAUSE }) (setF (pgIsl i) Reg.ISL_STAT_SAFE 1 (granted i n s)) else granted i n s)) :=
    congrArg Host.Outcome.next (if_pos up)
  rw [run, flag_eq (getF_granted_hub (by decide) (by decide) i n s), getF_granted_hub (by decide) (by decide) i n s]
  cases flag s pgClap Reg.CLAP_STAT_SAFE
  · simp only [Bool.false_eq_true, ↓reduceIte]
  · simp only [↓reduceIte, safeShown]

theorem granted_own (h : i < s.isl.length) (n : Nat) :
    islOf (granted i n s) i = { islOf s i with ackAt := n, epoch := getF s pgClap Reg.CLAP_EPOCH } := by
  rw [granted, islOf_modIsl (by simpa using h), islOf_congr (setF_isl ..), islOf_congr (at_isl ..), getF_at]

theorem granted_other (h : n ≠ i) (m : Nat) (s : State) : islOf (granted i m s) n = islOf s n := by
  rw [granted, islOf_modIsl_ne h, islOf_congr (setF_isl ..), islOf_congr (at_isl ..)]

theorem granted_hold (i n : Nat) (s : State) : getF (granted i n s) (pgIsl i) Reg.ISL_STAT_HOLD = 1 := by
  rw [granted, getF_modIsl, getF_setF_same (by decide)]
  rfl

/-- Settles O50: each message is the hold latch or the SAFE latch set or cleared, and the pair follows. -/
theorem holdLatch : Obligations.HoldLatch := by
  unfold Obligations.HoldLatch
  intro i t bar health s hi up p stat stays dropped drops nothing
  have here := islUp_length up
  refine ⟨fun held => ⟨?_, ?_, ?_, fun late => ?_, fun early => ?_⟩, fun free => ⟨?_, ?_, ?_⟩, ?_, fun calm => ?_, fun safe => ?_, ?_⟩
  · exact does (exec_revokeReceive up) ⟨dropHold_same i s, (statStep_dropHold i s).words, dropHold_after held rfl (grows_refl s)⟩
  · exact does (exec_holdDrop up) ⟨dropHold_same i s, (statStep_dropHold i s).words, dropHold_after held rfl (grows_refl s)⟩
  · exact does (exec_heartbeatResponse_error up t) ⟨samesBut_after_at (by decide) (dropHold_same i (at_ t s)), (statStep_dropHold i (at_ t s)).words,
      dropHold_after held rfl (statStep_at (i := i) (rs := []) t s).out⟩
  · have shown : codeIn (record p 0x56 (at_ t s)) p 0x56 := codeIn_record (by simp only [p, pageBase]; omega) (by simp only [p, pageBase]; omega) (by decide) _
    have step := statStep_dropHold i (record p 0x56 (at_ t s))
    refine does_reach rfl (does (exec_holdTimeout_late up held late) ⟨quietBut_trans (quietBut_record p 0x56 (quietBut_at t (quietBut_refl _ s))) step.quiet, step.code shown, ?_⟩)
    exact dropHold_after held (regW_record (quiet_isl (by decide) i) p 0x56 (at_ t s)) (grows_trans (grows_same rfl (grows_refl s)) (grows_record p 0x56 (at_ t s)))
  · exact does (exec_holdTimeout_early fun ⟨_, k⟩ => Nat.not_le.2 early k) rfl
  · exact does ((exec_revokeReceive up).trans (congrArg _ (dropHold_free free))) rfl
  · exact does ((exec_holdDrop up).trans (congrArg _ (dropHold_free free))) rfl
  · exact does (exec_holdTimeout_early fun ⟨k, _⟩ => Bool.false_ne_true (free.symm.trans k)) rfl
  · exact does (exec_heartbeatResponse_ack up t) ⟨samesBut_keeps (modIsl_keeps i _ (by decide) (at_keeps t (by decide) (Keeps.refl _ s))),
      islOf_modIsl (s := at_ t s) here _, islOf_modIsl_ne (s := at_ t s) (other_ne hi) _, rfl⟩
  · have all := statStep_trans (statStep_mono (ms := [Reg.ISL_STAT_HOLD, Reg.ISL_STAT_VALID]) (by simp) (statStep_granted i t s)) (statStep_mono (by simp) (statStep_showValid i (granted i t s)))
    have isl (k : Nat) := islOf_congr (showValid_isl i (granted i t s)) k
    refine does_reach rfl (does ((exec_grantReceive up t).trans (by rw [if_neg (by simp [calm])])) ⟨all.words, all.kept (by decide), ?_, all.fields _ (by decide), ?_, ?_, ?_⟩)
    · rw [(statStep_showValid i _).fields _ (by decide), granted_hold]
    · rw [flag_showValid, validAllowed_statStep (statStep_showValid i _) (islUp_congr (isl i))]
    · rw [isl, granted_own here]
    · rw [isl, granted_other (other_ne hi)]
  · have latched := statStep_mono (ms := [Reg.ISL_STAT_HOLD, Reg.ISL_STAT_SAFE, Reg.ISL_STAT_VALID]) (by simp) (statStep_safeShown i (getF s pgClap Reg.CLAP_STAT_CAUSE) (granted i t s))
    have all := statStep_trans (statStep_mono (by simp) (statStep_granted i t s)) (statStep_trans latched (statStep_startSsf i t _))
    obtain ⟨lit, dark⟩ := safeShown_latches i (getF s pgClap Reg.CLAP_STAT_CAUSE) (granted i t s)
    obtain ⟨c, own⟩ := startSsf_own (s := safeShown i (getF s pgClap Reg.CLAP_STAT_CAUSE) (granted i t s)) (i := i) (by rw [safeShown_length]; simpa [granted, modIsl_length] using here) t
    rw [safeShown_own (by simpa [granted, modIsl_length] using here), granted_own here] at own
    refine does_reach rfl (does ((exec_grantReceive up t).trans (by rw [if_pos safe])) ⟨all.words, all.kept (by decide), ?_, ?_, ?_, ?_, ?_, ?_, ?_, ?_⟩)
    · rw [getF_congr (startSsf_regs ..), (statStep_safeShown i _ _).fields _ (by decide), granted_hold]
    · rw [getF_congr (startSsf_regs ..), lit]
    · rw [getF_congr (startSsf_regs ..), dark]
    · rw [own]
    · rw [own]
    · rw [own]
    · rw [own]
    · rw [startSsf_other (other_ne hi), safeShown_other (other_ne hi), granted_other (other_ne hi)]
  · exact does_reach rfl (does (exec_tickFlit up bar health) ⟨islOf_modIsl here _, islOf_modIsl_ne (other_ne hi) _⟩)

end Sys2Proof.Machine
end

section
/-! PROOFS. Chapter 12: the triggers of the safe state in an island (R326, R330, R331). -/

namespace Sys2Proof.Machine

open Sys2Proof

variable {s t u v : State} {i c n : Nat}

/-! ### The island in charge -/

theorem islandInCharge_congr (hs : getF t pgClap Reg.CLAP_STAT_STATE = getF s pgClap Reg.CLAP_STAT_STATE)
    (hh : getF t pgClap Reg.CLAP_STAT_HOLDER = getF s pgClap Reg.CLAP_STAT_HOLDER) : islandInCharge t = islandInCharge s := by
  simp only [islandInCharge, hs, hh]

theorem islandInCharge_regs (h : t.regs = s.regs) : islandInCharge t = islandInCharge s := islandInCharge_congr (getF_congr h _ _) (getF_congr h _ _)

theorem islandInCharge_quietBut {l : List Nat} (h : quietBut l s t) (hl : 0x40062048 ∉ l) : islandInCharge t = islandInCharge s :=
  islandInCharge_congr (getF_quietBut h (by decide) hl) (getF_quietBut h (by decide) hl)

/-! ### The SAFE latch, with the frame of the island in charge -/

/-- The island in charge queues the frame of the safe state. -/
def withFrame (i t0 : Nat) (s : State) : State := if islandInCharge s = some i then startSsf i t0 s else s

theorem withFrame_same (i t0 : Nat) (s : State) : samesBut [.isl] s (withFrame i t0 s) := by
  unfold withFrame
  split
  · exact startSsf_same i t0 s
  · exact samesBut_refl _ s

theorem withFrame_regs (i t0 : Nat) (s : State) : (withFrame i t0 s).regs = s.regs := (withFrame_same i t0 s).2 .regs (by decide)

theorem withFrame_out (i t0 : Nat) (s : State) : grows s (withFrame i t0 s) :=
  grows_same (congrArg (·.outbox) ((withFrame_same i t0 s).2 .io (by decide))) (grows_refl s)

theorem withFrame_own (h : i < s.isl.length) (t0 : Nat) :
    ∃ b x, islOf (withFrame i t0 s) i = { islOf s i with ssf := b, can := x } ∧ (islandInCharge s = some i → b = true) := by
  unfold withFrame
  split
  next =>
    obtain ⟨x, own⟩ := startSsf_own h t0
    exact ⟨true, x, own, fun _ => rfl⟩
  next other => exact ⟨_, _, rfl, fun charge => absurd charge other⟩

theorem withFrame_other {k : Nat} (h : k ≠ i) (t0 : Nat) (s : State) : islOf (withFrame i t0 s) k = islOf s k := by
  unfold withFrame
  split
  · exact startSsf_other h t0
  · rfl

/-- The latch of island i is set with its cause, its pair is invalid, and the island in charge has the frame queued. -/
def safeIn (i c : Nat) (s u : State) : Prop :=
  getF u (pgIsl i) Reg.ISL_STAT_SAFE = 1 ∧ getF u (pgIsl i) Reg.ISL_STAT_VALID = 0 ∧ (islOf u i).cause = c ∧ (islandInCharge s = some i → (islOf u i).ssf = true)

/-- Island i as the latching of its safe state leaves it. -/
def islSafe (i c : Nat) (s u : State) : Prop :=
  ∃ b x, islOf u i = { islOf s i with cause := c, ssf := b, can := x } ∧ (islandInCharge s = some i → b = true)

/-- The latch set in `s`, what leaves registers and islands alone, and the frame. -/
theorem withFrame_latched (h : i < s.isl.length) (hr : t.regs = (safeShown i c s).regs) (hi : t.isl = (safeShown i c s).isl) (t0 : Nat) :
    safeIn i c s (withFrame i t0 t) ∧ islSafe i c s (withFrame i t0 t) := by
  have charge : islandInCharge t = islandInCharge s := (islandInCharge_regs hr).trans (statStep_safeShown i c s).inCharge
  obtain ⟨lit, dark⟩ := safeShown_latches i c s
  obtain ⟨b, x, own, told⟩ := withFrame_own (s := t) (i := i) (by rw [hi, safeShown_length]; exact h) t0
  rw [islOf_congr hi, safeShown_own h] at own
  rw [charge] at told
  refine ⟨⟨?_, ?_, by rw [own], fun k => by rw [own, told k]⟩, b, x, own, told⟩
  · rw [getF_congr (withFrame_regs ..), getF_congr hr, lit]
  · rw [getF_congr (withFrame_regs ..), getF_congr hr, dark]

/-! ### A trigger (R330, R331) -/

theorem trigger_set (h : flag s (pgIsl i) Reg.ISL_STAT_SAFE = true) (c t0 : Nat) : trigger i c t0 s = s := if_pos (by simp [h])

theorem trigger_clear (up : islUp s i = true) (h : flag s (pgIsl i) Reg.ISL_STAT_SAFE = false) (c t0 : Nat) :
    trigger i c t0 s = withFrame i t0 (emit (.islWrite i (0x74 + 4 * i) c) (safeShown i c s)) := if_neg (by simp [up, h])

theorem trigger_same (i c t0 : Nat) (s : State) : samesBut [.regs, .io, .isl] s (trigger i c t0 s) :=
  samesBut_keeps (trigger_keeps i c t0 (by decide) (Keeps.refl _ s))

theorem statStep_trigger (i c t0 : Nat) (s : State) : StatStep i [Reg.ISL_STAT_SAFE, Reg.ISL_STAT_VALID] s (trigger i c t0 s) := by
  by_cases h : !islUp s i || flag s (pgIsl i) Reg.ISL_STAT_SAFE
  · rw [trigger, if_pos h]
    exact statStep_refl s
  · rw [Bool.not_eq_true, Bool.or_eq_false_iff, Bool.not_eq_false'] at h
    rw [trigger_clear h.1 h.2]
    exact statStep_trans (statStep_safeShown i c s) (statStep_trans (statStep_emit _ _) (statStep_same (withFrame_regs ..) (withFrame_out ..)))

theorem trigger_other {k : Nat} (h : k ≠ i) (c t0 : Nat) (s : State) : islOf (trigger i c t0 s) k = islOf s k := by
  by_cases g : !islUp s i || flag s (pgIsl i) Reg.ISL_STAT_SAFE
  · rw [trigger, if_pos g]
  · rw [Bool.not_eq_true, Bool.or_eq_false_iff, Bool.not_eq_false'] at g
    rw [trigger_clear g.1 g.2, withFrame_other h, islOf_congr (emit_isl ..), safeShown_other h]

/-- A trigger is shown: the SAFE latch and what follows it, the other latches as they were, the request to the hub. -/
def asked (i c : Nat) (s u : State) : Prop :=
  safeIn i c s u ∧ (∀ r ∈ [Reg.ISL_STAT_MODE, Reg.ISL_STAT_HOLD, Reg.ISL_STAT_FAULTED, Reg.ISL_STAT_FAULT_CAUSE], getF u (pgIsl i) r = getF s (pgIsl i) r) ∧
    puts (.islWrite i (0x74 + 4 * i) c) s u

theorem trigger_asked (up : islUp s i = true) (h : flag s (pgIsl i) Reg.ISL_STAT_SAFE = false) (c t0 : Nat) :
    asked i c s (trigger i c t0 s) ∧ islSafe i c s (trigger i c t0 s) := by
  have step := statStep_trigger i c t0 s
  rw [trigger_clear up h] at step ⊢
  obtain ⟨latched, own⟩ := withFrame_latched (c := c) (t := emit (.islWrite i (0x74 + 4 * i) c) (safeShown i c s)) (islUp_length up) rfl rfl t0
  exact ⟨⟨latched, step.kept (by decide), puts_grows (withFrame_out ..) (puts_emit _ (statStep_safeShown i c s).out)⟩, own⟩

/-- What left an island's latches and the island in charge alone. -/
structure StatSame (i : Nat) (s v : State) : Prop where
  word : regW v (islStat i) = regW s (islStat i)
  charge : islandInCharge v = islandInCharge s
  out : grows s v

/-- What left the island beside its page alone too. -/
structure IslSame (i : Nat) (s v : State) : Prop extends StatSame i s v where
  isl : islOf v i = islOf s i

theorem islSame_refl (i : Nat) (s : State) : IslSame i s s := ⟨⟨rfl, rfl, grows_refl s⟩, rfl⟩

theorem islSame_at (i n : Nat) (s : State) : IslSame i s (at_ n s) := ⟨⟨rfl, rfl, grows_same rfl (grows_refl s)⟩, rfl⟩

theorem islSame_trans (h : IslSame i s v) (k : IslSame i v u) : IslSame i s u :=
  ⟨⟨k.word.trans h.word, k.charge.trans h.charge, grows_trans h.out k.out⟩, k.isl.trans h.isl⟩

theorem StatSame.flag (h : StatSame i s v) {r : Row} (hr : r.off = 0x40 ∧ r.s1 = 0) : flag v (pgIsl i) r = flag s (pgIsl i) r := flag_eq (getF_statWord h.word hr)

theorem safeIn_before (h : StatSame i s v) (k : safeIn i c v u) : safeIn i c s u := by
  obtain ⟨lit, dark, cause, frame⟩ := k
  exact ⟨lit, dark, cause, fun e => frame (h.charge.trans e)⟩

theorem safeIn_after (h : IslSame i u v) (k : safeIn i c s u) : safeIn i c s v := by
  obtain ⟨lit, dark, cause, frame⟩ := k
  exact ⟨(getF_statWord h.word (by decide)).trans lit, (getF_statWord h.word (by decide)).trans dark, by rw [h.isl, cause], fun e => by rw [h.isl, frame e]⟩

theorem asked_before (h : StatSame i s v) (k : asked i c v u) : asked i c s u := by
  obtain ⟨safe, kept, told⟩ := k
  refine ⟨safeIn_before h safe, fun r hr => (kept r hr).trans (getF_statWord h.word ?_), puts_after h.out told⟩
  exact (by decide : ∀ r ∈ [Reg.ISL_STAT_MODE, Reg.ISL_STAT_HOLD, Reg.ISL_STAT_FAULTED, Reg.ISL_STAT_FAULT_CAUSE], r.off = 0x40 ∧ r.s1 = 0) r hr

theorem asked_after (h : IslSame i u v) (k : asked i c s u) : asked i c s v := by
  obtain ⟨safe, kept, told⟩ := k
  refine ⟨safeIn_after h safe, fun r hr => (getF_statWord h.word ?_).trans (kept r hr), puts_grows h.out told⟩
  exact (by decide : ∀ r ∈ [Reg.ISL_STAT_MODE, Reg.ISL_STAT_HOLD, Reg.ISL_STAT_FAULTED, Reg.ISL_STAT_FAULT_CAUSE], r.off = 0x40 ∧ r.s1 = 0) r hr

/-- The pair of an island in its safe state stays invalid. -/
theorem asked_showValid (k : asked i c s u) : asked i c s (showValid i u) := by
  obtain ⟨⟨lit, dark, cause, frame⟩, kept, told⟩ := k
  have step := statStep_showValid i u
  refine ⟨⟨(step.fields _ (by decide)).trans lit, (showValid_dark (validAllowed_of_safe (by simp [flag, lit]))).1, ?_, fun e => ?_⟩,
    fun r hr => (step.kept (by decide) r hr).trans (kept r hr), puts_grows step.out told⟩
  · rw [islOf_congr (showValid_isl i u), cause]
  · rw [islOf_congr (showValid_isl i u), frame e]

/-! ### What the commands run -/

theorem exec_islSafeReq (i n : Nat) (s : State) :
    exec (.islSafeReq i n) s = .next (trigger i (if islandInCharge s = some i then 5 else 6) n (at_ n s)) := rfl

theorem exec_safeMessageReceive (up : islUp s i = true) (n : Nat) :
    exec (.safeMessageReceive i n) s = .next (withFrame i n (safeShown i (getF (at_ n s) pgClap Reg.CLAP_STAT_CAUSE) (at_ n s))) :=
  congrArg Host.Outcome.next (if_pos up)

/-! ### SAFE_N_IN (R326) -/

/-- A running island records the assertion and takes it as its trigger. -/
def sawAssert (n : Nat) (s : State) (i : Nat) : State := if islUp s i then trigger i 4 n (record (pgIsl i) 0x5A s) else s

/-- The level of SAFE_N_IN is seen low. -/
def seenLow (n : Nat) (s : State) : State := at_ n { s with clap := { s.clap with safeIn := false } }

theorem exec_safeNInAssert (n : Nat) (s : State) : exec (.safeNInAssert n) s = .next (sawAssert n (sawAssert n (seenLow n s) 0) 1) := rfl

theorem regW_record_isl {a : Nat} (ha : a / 4096 ≠ pageBase (pgIsl i) / 4096) {code : Nat} (hc : codeWarns code = false) (s : State) :
    regW (record (pgIsl i) code s) a = regW s a := by
  rw [record, recordAt, if_neg (by simp [hc])]
  exact recordPlain_page_ne ha code 0 0xFF s

/-- A record in an island's page leaves the latches, the islands and the Clapper alone. -/
theorem islSame_record (i : Nat) (p : Page) (code : Nat) (s : State) : IslSame i s (record p code s) :=
  ⟨⟨regW_record (quiet_isl (by decide) i) p code s, islandInCharge_quietBut (quietBut_record p code (quietBut_refl [] s)) (by simp), grows_record p code s⟩,
    islOf_congr (record_isl p code s) i⟩

theorem sawAssert_same (n : Nat) (s : State) (i : Nat) : samesBut (report ++ [.isl]) s (sawAssert n s i) := by
  unfold sawAssert
  split
  · exact samesBut_keeps (trigger_keeps i 4 n (by decide) (record_keeps _ _ (by decide) (Keeps.refl _ s)))
  · exact samesBut_refl _ s

theorem sawAssert_quiet {l : List Nat} (h : islStat i ∈ l) (n : Nat) (k : quietBut l s t) : quietBut l s (sawAssert n t i) := by
  unfold sawAssert
  split
  · exact quietBut_trans (quietBut_record _ _ k) (quietBut_mono (by simpa using h) (statStep_trigger i 4 n _).quiet)
  · exact k

/-- The other island's part touches no word of this island's page. -/
theorem sawAssert_other {k : Nat} (_ : i < 2) (_ : k < 2) (h : i ≠ k) (n : Nat) (s : State) :
    IslSame i s (sawAssert n s k) ∧ ∀ a, a / 4096 = pageBase (pgIsl i) / 4096 → regW (sawAssert n s k) a = regW s a := by
  unfold sawAssert
  split
  next =>
    have step := statStep_trigger k 4 n (record (pgIsl k) 0x5A s)
    have recorded := islSame_record i (pgIsl k) 0x5A s
    have page (a : Nat) (ha : a / 4096 = pageBase (pgIsl i) / 4096) : regW (trigger k 4 n (record (pgIsl k) 0x5A s)) a = regW s a := by
      rw [step.words a (by simp only [islStat, pageBase, List.mem_singleton] at *; omega),
        regW_record_isl (by simp only [pageBase] at *; omega) (by decide)]
    exact ⟨⟨⟨page _ (by simp only [islStat, pageBase]; omega), step.inCharge.trans recorded.charge, grows_trans recorded.out step.out⟩,
      (trigger_other h 4 n _).trans recorded.isl⟩, page⟩
  next => exact ⟨islSame_refl i s, fun _ _ => rfl⟩

/-- An island's own part. -/
theorem sawAssert_own (hi : i < 2) (up : islUp s i = true) (n : Nat) : codeIn (sawAssert n s i) (pgIsl i) 0x5A ∧
    (flag s (pgIsl i) Reg.ISL_STAT_SAFE = false → safeIn i 4 s (sawAssert n s i) ∧ puts (.islWrite i (0x74 + 4 * i) 4) s (sawAssert n s i)) := by
  have recorded := islSame_record i (pgIsl i) 0x5A s
  have code : codeIn (record (pgIsl i) 0x5A s) (pgIsl i) 0x5A :=
    codeIn_record (by simp only [pageBase]; omega) (by simp only [pageBase]; omega) (by decide) s
  rw [sawAssert, if_pos up]
  refine ⟨(statStep_trigger i 4 n _).code code, fun clear => ?_⟩
  obtain ⟨safe, -, told⟩ := asked_before recorded.toStatSame (trigger_asked ((islUp_congr recorded.isl).trans up) ((recorded.flag (by decide)).trans clear) 4 n).1
  exact ⟨safe, told⟩

theorem codeIn_page {p : Page} (h : ∀ a, a / 4096 = pageBase p / 4096 → regW t a = regW s a) (k : codeIn s p c) : codeIn t p c := by
  have e (r : Row) (hr : r.off < 4096 ∧ r.s1 = 0) : getF t p r = getF s p r := by
    have := pageBase_mod p
    simp only [getF, getFij]
    rw [h _ (by simp only [fieldAddr, hr.2]; omega)]
  rwa [codeIn, e _ (by decide), e _ (by decide)]

theorem safeNInAssert_shows (hi : i < 2) (up : islUp s i = true) (n : Nat) :
    let u := sawAssert n (sawAssert n (seenLow n s) 0) 1
    codeIn u (pgIsl i) 0x5A ∧ (flag s (pgIsl i) Reg.ISL_STAT_SAFE = false → safeIn i 4 s u ∧ puts (.islWrite i (0x74 + 4 * i) 4) s u) := by
  have low : IslSame i s (seenLow n s) := ⟨⟨rfl, rfl, grows_same rfl (grows_refl s)⟩, rfl⟩
  obtain rfl | rfl : i = 0 ∨ i = 1 := by omega
  · obtain ⟨code, shown⟩ := sawAssert_own hi ((islUp_congr low.isl).trans up) n
    obtain ⟨later, page⟩ := sawAssert_other hi (by decide : 1 < 2) (by decide) n (sawAssert n (seenLow n s) 0)
    refine ⟨codeIn_page page code, fun clear => ?_⟩
    obtain ⟨safe, told⟩ := shown ((low.flag (by decide)).trans clear)
    exact ⟨safeIn_after later (safeIn_before low.toStatSame safe), puts_grows later.out (puts_after low.out told)⟩
  · obtain ⟨earlier, -⟩ := sawAssert_other hi (by decide : 0 < 2) (by decide) n (seenLow n s)
    have both := islSame_trans low earlier
    obtain ⟨code, shown⟩ := sawAssert_own hi ((islUp_congr both.isl).trans up) n
    refine ⟨code, fun clear => ?_⟩
    obtain ⟨safe, told⟩ := shown ((both.flag (by decide)).trans clear)
    exact ⟨safeIn_before both.toStatSame safe, puts_after both.out told⟩

end Sys2Proof.Machine
end

section
/-! PROOFS. Chapter 12: the result age monitor of an island, and the triggers that reach it (R311, R326 to R331). -/

namespace Sys2Proof.Machine

open Sys2Proof

variable {s t u v : State} {i c n w k : Nat} {e : Notice}

/-! ### The words of a watch -/

/-- The address of the state and the runs of watch w. -/
abbrev watchWord (i w : Nat) : Nat := pageBase (pgIsl i) + 0x8C + 0x10 * w

theorem fieldAddr_watch {r : Row} (h : r.off = 0x8C ∧ r.s1 = 0x10) (i w : Nat) : fieldAddr (pgIsl i) r w 0 = watchWord i w := by
  simp only [fieldAddr, watchWord, h.1, h.2, Nat.zero_mul]
  omega

theorem watchWord_ne_stat (i w : Nat) : watchWord i w ≠ islStat i := by simp only [watchWord, islStat]; omega

/-- A field of a watch that is not in the STAT word. -/
theorem watch_ne_stat {r : Row} (h : 0x80 ≤ r.off) (i w : Nat) : fieldAddr (pgIsl i) r w 0 ≠ islStat i := by
  simp only [fieldAddr, islStat]; omega

/-- The words of a watch before its last one. -/
theorem watch_ne_word {r : Row} (h : r.off % 16 ≠ 12 ∧ r.s1 = 0x10) (i w k : Nat) : fieldAddr (pgIsl i) r w 0 ≠ watchWord i k := by
  simp only [fieldAddr, watchWord, h.2]; omega

theorem quiet_watch {r : Row} (h : 0x80 ≤ r.off ∧ r.off < 0x90 ∧ r.s1 = 0x10) (_ : w < 16) (i : Nat) : quiet (fieldAddr (pgIsl i) r w 0) := by
  simp only [quiet, fieldAddr, pageBase, h.2.2]
  omega

/-! ### A watch expires (R328) -/

/-- A watch at its age limit is EXPIRED, and the code is recorded. -/
def expired (i w n : Nat) (s : State) : State := record (pgIsl i) 0x57 (setFi (pgIsl i) Reg.ISL_WATCH_STATE w 3 (at_ n s))

theorem exec_watchExpire (up : islUp s i = true) (hw : w < 16) (current : watchState s i w = 2)
    (old : getFi s (pgIsl i) Reg.ISL_WATCH_AGE_LIMIT w * 999 ≤ n - nth0 (islOf s i).age w) : exec (.watchExpire i w n) s =
      .next (showValid i (if flagI (expired i w n s) (pgIsl i) Reg.ISL_WATCH_SAFETY w then trigger i 1 n (expired i w n s) else expired i w n s)) :=
  congrArg Host.Outcome.next (if_pos ⟨up, hw, current, old⟩)

theorem exec_watchExpire_young (young : n - nth0 (islOf s i).age w < getFi s (pgIsl i) Reg.ISL_WATCH_AGE_LIMIT w * 999) :
    exec (.watchExpire i w n) s = .next s := congrArg Host.Outcome.next (if_neg fun ⟨_, _, _, old⟩ => Nat.not_le.2 young old)

theorem expired_quiet (i w n : Nat) (s : State) : quietBut [watchWord i w] s (expired i w n s) :=
  quietBut_record _ _ (quietBut_setFi _ (List.mem_singleton.2 (fieldAddr_watch (by decide) i w)) (quietBut_at n (quietBut_refl _ s)))

theorem expired_islSame (i w n : Nat) (s : State) : IslSame i s (expired i w n s) := by
  refine ⟨⟨expired_quiet i w n s _ (quiet_isl (by decide) i) ?_, islandInCharge_quietBut (expired_quiet i w n s) ?_, ?_⟩, ?_⟩
  · exact fun h => watchWord_ne_stat i w (List.mem_singleton.1 h).symm
  · simp only [watchWord, pageBase, List.mem_singleton]; omega
  · exact grows_trans (grows_same (by rw [setFi_io]; rfl) (grows_refl s)) (grows_record _ _ _)
  · rw [expired, islOf_congr (record_isl ..), islOf_congr (setFi_isl ..), islOf_congr (at_isl ..)]

theorem expired_state (hw : w < 16) (i n : Nat) (s : State) : watchState (expired i w n s) i w = 3 := by
  rw [watchState, expired, getFi_record (quiet_watch (by decide) hw i), getFi_setFi_same (by decide)]
  rfl

/-! ### A notice (R328 to R330) -/

/-- A notice brings the step of the ladder. -/
def noticeTaken (i n : Nat) (e : Notice) (s : State) : State := modIsl i (fun x => { x with dstep := e.dstep % 256 }) (at_ n s)

theorem exec_emissionNotice (up : islUp s i = true) (e : Notice) (n : Nat) : exec (.emissionNotice i e n) s =
    .next (showValid i ((List.range 16).foldl (watchNotice i n e) (noticeTaken i n e s))) :=
  congrArg Host.Outcome.next (if_pos up)

theorem noticeTaken_regs (i n : Nat) (e : Notice) (s : State) : (noticeTaken i n e s).regs = s.regs := rfl

theorem noticeTaken_own (h : i < s.isl.length) (n : Nat) (e : Notice) : islOf (noticeTaken i n e s) i = { islOf s i with dstep := e.dstep % 256 } :=
  islOf_modIsl (s := at_ n s) h _

theorem noticeTaken_same (i n : Nat) (e : Notice) (s : State) : samesBut [.regs, .io, .isl] s (noticeTaken i n e s) :=
  samesBut_keeps (modIsl_keeps i _ (by decide) (at_keeps n (by decide) (Keeps.refl _ s)))

theorem watchState_regs (h : t.regs = s.regs) (i w : Nat) : watchState t i w = watchState s i w := getFi_congr h _ _ _

theorem watchMatches_regs (h : t.regs = s.regs) (i w : Nat) (e : Notice) : watchMatches t i w e = watchMatches s i w e := by
  simp only [watchMatches, watchState_regs h, getFi_congr h]

theorem watchFresh_regs (h : t.regs = s.regs) (i w : Nat) (e : Notice) : watchFresh t i w e = watchFresh s i w e := by
  simp only [watchFresh, getFi_congr h]

/-- A watch that is OFF takes no part in a notice. -/
theorem watchNotice_off (h : watchState s i w = 0) (n : Nat) (e : Notice) : watchNotice i n e s w = s := by
  have unmatched : watchMatches s i w e = false := by simp [watchMatches, h]
  simp [watchNotice, h, unmatched]

theorem foldl_fixed {f : State → Nat → State} {l : List Nat} (h : ∀ k ∈ l, f s k = s) : l.foldl f s = s := by
  induction l with
  | nil => rfl
  | cons a l ih => rw [List.foldl_cons, h a List.mem_cons_self, ih fun k hk => h k (List.mem_cons_of_mem a hk)]

/-- Where only one element of a list does something, it alone is done. -/
theorem foldl_single {f : State → Nat → State} {l : List Nat} (hl : l.Nodup) (hw : w ∈ l) (before : ∀ k ∈ l, k ≠ w → f s k = s)
    (after : ∀ k ∈ l, k ≠ w → f (f s w) k = f s w) : l.foldl f s = f s w := by
  obtain ⟨a, b, rfl⟩ := List.append_of_mem hw
  have apart : ∀ k, k ∈ a ∨ k ∈ b → k ≠ w := by
    rintro k hk rfl
    rw [List.nodup_middle, List.nodup_cons, List.mem_append] at hl
    exact hl.1 hk
  rw [List.foldl_append, List.foldl_cons, foldl_fixed fun k hk => before k (by simp [hk]) (apart k (Or.inl hk)),
    foldl_fixed fun k hk => after k (by simp [hk]) (apart k (Or.inr hk))]

/-- The runs of a watch over a notice without either mark. -/
def runsCleared (i w : Nat) (s : State) : State := setFi (pgIsl i) Reg.ISL_WATCH_CLIP_RUN w 0 (setFi (pgIsl i) Reg.ISL_WATCH_PAIR_RUN w 0 s)

theorem watchRuns_plain (hp : e.pair = false) (hc : e.clip = false) (i w n : Nat) (s : State) : watchRuns i w n e s = runsCleared i w s := by
  simp [watchRuns, runsCleared, hp, hc]

theorem regsBut_runsCleared (i w : Nat) (s : State) : regsBut [watchWord i w] s (runsCleared i w s) :=
  regsBut_setFi 0 (List.mem_singleton.2 (fieldAddr_watch (by decide) i w)) (regsBut_setFi 0 (List.mem_singleton.2 (fieldAddr_watch (by decide) i w)) (regsBut_refl _ s))

theorem runsCleared_state (i w : Nat) (s : State) : watchState (runsCleared i w s) i w = watchState s i w := by
  rw [watchState, runsCleared, getFi_setFi_apart (by decide) (by decide) (by decide), getFi_setFi_apart (by decide) (by decide) (by decide), watchState]

theorem runsCleared_runs (i w : Nat) (s : State) : getFi (runsCleared i w s) (pgIsl i) Reg.ISL_WATCH_PAIR_RUN w = 0 ∧ getFi (runsCleared i w s) (pgIsl i) Reg.ISL_WATCH_CLIP_RUN w = 0 := by
  rw [runsCleared, getFi_setFi_apart (by decide) (by decide) (by decide), getFi_setFi_same (by decide), getFi_setFi_same (by decide)]
  exact ⟨rfl, rfl⟩

/-- What writes only the word of a watch leaves the latches, the island and the Clapper alone. -/
theorem islSame_watch (h : regsBut [watchWord i w] s t) (hi : islOf t i = islOf s i) (ho : grows s t) : IslSame i s t := by
  refine ⟨⟨h _ fun m => watchWord_ne_stat i w (List.mem_singleton.1 m).symm, islandInCharge_quietBut (quietBut_of_regsBut h) ?_, ho⟩, hi⟩
  simp only [watchWord, pageBase, List.mem_singleton]; omega

theorem runsCleared_same (i w : Nat) (s : State) : samesBut [.regs, .io, .isl] s (runsCleared i w s) :=
  samesBut_keeps (setFi_keeps _ _ _ _ (by decide) (setFi_keeps _ _ _ _ (by decide) (Keeps.refl _ s)))

theorem runsCleared_islSame (i w : Nat) (s : State) : IslSame i s (runsCleared i w s) :=
  islSame_watch (regsBut_runsCleared i w s) (by rw [runsCleared, islOf_congr (setFi_isl ..), islOf_congr (setFi_isl ..)]) (grows_same (by rw [runsCleared, setFi_io, setFi_io]) (grows_refl s))

/-- A fresh notice makes its watch CURRENT, restarts its age and ends its runs. -/
def watchCurrent (i w n : Nat) (s : State) : State := runsCleared i w (modIsl i (fun x => { x with age := x.age.set w n }) (setFi (pgIsl i) Reg.ISL_WATCH_STATE w 2 s))

theorem watchNotice_fresh (hm : watchMatches s i w e = true) (hf : watchFresh s i w e = true) (hp : e.pair = false) (hc : e.clip = false) (n : Nat) :
    watchNotice i n e s w = watchCurrent i w n s := by
  have low : e.dstep ≤ 3 := by
    simp only [watchFresh, Bool.and_eq_true, decide_eq_true_eq] at hf
    exact hf.1.2
  have calm : ¬ (watchState s i w = 2 && flagI s (pgIsl i) Reg.ISL_WATCH_SAFETY w && getFi s (pgIsl i) Reg.ISL_WATCH_PART w = e.part && e.dstep = 4) = true := by
    simp only [Bool.and_eq_true, decide_eq_true_eq]
    omega
  simp only [watchNotice, calm, hm, hf, watchRuns_plain hp hc, watchCurrent, Bool.false_eq_true, ↓reduceIte]

/-- Step 4 of the ladder triggers by a SAFETY watch that is CURRENT; such a notice is never fresh, and at most ends the watch's runs. -/
theorem watchNotice_step4 (hs : watchState s i w = 2) (hf : flagI s (pgIsl i) Reg.ISL_WATCH_SAFETY w = true) (hpart : getFi s (pgIsl i) Reg.ISL_WATCH_PART w = e.part)
    (h4 : e.dstep = 4) (hp : e.pair = false) (hc : e.clip = false) (n : Nat) :
    let v := trigger i 2 n s
    let u := watchNotice i n e s w
    IslSame i v u ∧ regsBut [watchWord i w] v u ∧ samesBut [.regs, .io, .isl] v u ∧ watchState u i w = watchState v i w := by
  have stale (u : State) : watchFresh u i w e = false := by simp [watchFresh, h4]
  simp only [watchNotice, hs, hf, hpart, h4, stale, watchRuns_plain hp hc, decide_true, Bool.and_true, Bool.false_eq_true, ↓reduceIte]
  split
  · exact ⟨runsCleared_islSame i w _, regsBut_runsCleared i w _, runsCleared_same i w _, runsCleared_state i w _⟩
  · exact ⟨islSame_refl i _, regsBut_refl _ _, samesBut_refl _ _, rfl⟩

/-- Of sixteen watches of which one at most is not OFF, it alone takes part. -/
theorem notice_single (hw : w < 16) (off : ∀ k < 16, k ≠ w → watchState s i k = 0) (n : Nat) (e : Notice)
    (h : regsBut [islStat i, watchWord i w] s (watchNotice i n e s w)) : (List.range 16).foldl (watchNotice i n e) s = watchNotice i n e s w := by
  refine foldl_single List.nodup_range (List.mem_range.2 hw) (fun k hk hne => watchNotice_off (off k (List.mem_range.1 hk) hne) n e)
    (fun k hk hne => watchNotice_off ((getFi_regsBut h ?_).trans (off k (List.mem_range.1 hk) hne)) n e)
  rw [fieldAddr_watch (by decide)]
  simp only [watchWord, islStat, List.mem_cons, List.not_mem_nil, or_false]
  omega

theorem watchCurrent_words (i w n : Nat) (s : State) : regsBut [watchWord i w] s (watchCurrent i w n s) :=
  regsBut_trans (regsBut_same (modIsl_regs ..) (regsBut_setFi 2 (List.mem_singleton.2 (fieldAddr_watch (by decide) i w)) (regsBut_refl _ s))) (regsBut_runsCleared i w _)

theorem watchCurrent_state (i w n : Nat) (s : State) : watchState (watchCurrent i w n s) i w = 2 := by
  rw [watchCurrent, runsCleared_state, watchState, getFi_modIsl, getFi_setFi_same (by decide)]
  rfl

theorem watchCurrent_runs (i w n : Nat) (s : State) :
    getFi (watchCurrent i w n s) (pgIsl i) Reg.ISL_WATCH_PAIR_RUN w = 0 ∧ getFi (watchCurrent i w n s) (pgIsl i) Reg.ISL_WATCH_CLIP_RUN w = 0 := runsCleared_runs i w _

theorem watchCurrent_same (i w n : Nat) (s : State) : samesBut [.regs, .io, .isl] s (watchCurrent i w n s) :=
  samesBut_trans (samesBut_keeps (modIsl_keeps i _ (by decide) (setFi_keeps _ _ _ _ (by decide) (Keeps.refl _ s)))) (runsCleared_same i w _)

theorem watchCurrent_isl (i w n : Nat) (s : State) : (watchCurrent i w n s).isl = (modIsl i (fun x => { x with age := x.age.set w n }) s).isl := by
  rw [watchCurrent, runsCleared, setFi_isl, setFi_isl, modIsl, modIsl]
  simp only [setFi_isl]

/-! ### The statement -/

/-- A trigger of a watch is shown although the pair is driven once more after it. -/
theorem watchExpire_asks (up : islUp s i = true) (clear : flag s (pgIsl i) Reg.ISL_STAT_SAFE = false) (w n : Nat) :
    asked i 1 s (showValid i (trigger i 1 n (expired i w n s))) := by
  have before := expired_islSame i w n s
  exact asked_showValid (asked_before before.toStatSame (trigger_asked ((islUp_congr before.isl).trans up) ((before.flag (by decide)).trans clear) 1 n).1)

/-- What expiry leaves alone and shows, whether the watch triggers or not. -/
theorem watchExpire_shows (hi : i < 2) (hw : w < 16) (n : Nat) {rs : List Row} (step : StatStep i rs (expired i w n s) t) :
    quietBut [islStat i, watchWord i w] s t ∧ watchState t i w = 3 ∧ codeIn t (pgIsl i) 0x57 := by
  have code : codeIn (expired i w n s) (pgIsl i) 0x57 := codeIn_record (by simp only [pageBase]; omega) (by simp only [pageBase]; omega) (by decide) _
  exact ⟨quietBut_trans (quietBut_mono (by simp) (expired_quiet i w n s)) (quietBut_mono (by simp) step.quiet),
    (step.getFi_word (watch_ne_stat (by decide) i w)).trans (expired_state hw i n s), step.code code⟩

/-- A notice that is fresh for the one watch that takes part. -/
theorem freshNotice_shows (hi : i < 2) (up : islUp s i = true) (hw : w < 16) (off : ∀ k < 16, k ≠ w → watchState s i k = 0) (hm : watchMatches s i w e = true)
    (hf : watchFresh s i w e = true) (hp : e.pair = false) (hc : e.clip = false) (n : Nat) :
    let u := showValid i (watchCurrent i w n (noticeTaken i n e s))
    exec (.emissionNotice i e n) s = .next u ∧ samesBut [.regs, .io, .isl] s u ∧ regsBut [islStat i, watchWord i w] s u ∧ watchState u i w = 2 ∧
      getFi u (pgIsl i) Reg.ISL_WATCH_PAIR_RUN w = 0 ∧ getFi u (pgIsl i) Reg.ISL_WATCH_CLIP_RUN w = 0 ∧
      islOf u i = { islOf s i with dstep := e.dstep % 256, age := (islOf s i).age.set w n } ∧ getF u (pgIsl i) Reg.ISL_STAT_SAFE = getF s (pgIsl i) Reg.ISL_STAT_SAFE ∧
      islOf u (1 - i) = islOf s (1 - i) := by
  intro u
  have regs := noticeTaken_regs i n e s
  have taken := watchNotice_fresh ((watchMatches_regs regs i w e).trans hm) ((watchFresh_regs regs i w e).trans hf) hp hc n
  have words := watchCurrent_words i w n (noticeTaken i n e s)
  have single := notice_single hw (fun k hk hne => (watchState_regs regs i k).trans (off k hk hne)) n e (by rw [taken]; exact regsBut_mono (by simp) words)
  have step := statStep_showValid i (watchCurrent i w n (noticeTaken i n e s))
  have watch {r : Row} (hr : 0x80 ≤ r.off) := step.getFi_word (watch_ne_stat hr i w)
  obtain ⟨pair, clip⟩ := watchCurrent_runs i w n (noticeTaken i n e s)
  have isl (k : Nat) : islOf u k = islOf (modIsl i (fun x => { x with age := x.age.set w n }) (noticeTaken i n e s)) k :=
    (islOf_congr (showValid_isl i _) k).trans (islOf_congr (watchCurrent_isl ..) k)
  refine ⟨(exec_emissionNotice up e n).trans (by rw [single, taken]), ?_, ?_, (watch (by decide)).trans (watchCurrent_state i w n _), (watch (by decide)).trans pair,
    (watch (by decide)).trans clip, ?_, ?_, ?_⟩
  · exact samesBut_trans (samesBut_trans (noticeTaken_same i n e s) (watchCurrent_same i w n _)) (samesBut_mono (by simp) (showValid_same i _))
  · exact regsBut_trans (regsBut_same regs (regsBut_refl _ s)) (regsBut_trans (regsBut_mono (by simp) words) (regsBut_mono (by simp) step.words))
  · rw [isl, islOf_modIsl (by simpa [noticeTaken, modIsl_length] using islUp_length up), noticeTaken_own (islUp_length up)]
  · rw [step.fields _ (by decide), getF_statWord (words _ fun m => watchWord_ne_stat i w (List.mem_singleton.1 m).symm) (by decide), getF_congr regs]
  · rw [isl, islOf_modIsl_ne (other_ne hi), noticeTaken, islOf_modIsl_ne (other_ne hi), islOf_congr (at_isl ..)]

/-- Step 4 of the ladder, met by the one watch that takes part. -/
theorem step4Notice_shows (up : islUp s i = true) (hw : w < 16) (off : ∀ k < 16, k ≠ w → watchState s i k = 0) (clear : flag s (pgIsl i) Reg.ISL_STAT_SAFE = false)
    (current : watchState s i w = 2) (safety : flagI s (pgIsl i) Reg.ISL_WATCH_SAFETY w = true) (hpart : getFi s (pgIsl i) Reg.ISL_WATCH_PART w = e.part) (h4 : e.dstep = 4)
    (hp : e.pair = false) (hc : e.clip = false) (n : Nat) :
    Does (.emissionNotice i e n) s fun u => samesBut [.regs, .io, .isl] s u ∧ asked i 2 s u ∧ watchState u i w = 2 ∧ (islOf u i).dstep = 4 := by
  have regs := noticeTaken_regs i n e s
  have state := (watchState_regs regs i w).trans current
  obtain ⟨same, words, frame, kept⟩ := watchNotice_step4 state ((flagI_eq (getFi_congr regs _ _ _)).trans safety) ((getFi_congr regs _ _ _).trans hpart) h4 hp hc n
  have taken : StatSame i s (noticeTaken i n e s) := ⟨regW_congr regs _, islandInCharge_regs regs, grows_same rfl (grows_refl s)⟩
  have upTaken : islUp (noticeTaken i n e s) i = true := islUp_iff.2 ⟨(islUp_iff.1 up).1, by rw [noticeTaken_own (islUp_length up), (islUp_iff.1 up).2]⟩
  obtain ⟨asks, b, x, own, -⟩ := trigger_asked upTaken ((taken.flag (by decide)).trans clear) 2 n
  have step := statStep_trigger i 2 n (noticeTaken i n e s)
  have single := notice_single hw (fun k hk hne => (watchState_regs regs i k).trans (off k hk hne)) n e
    (regsBut_trans (regsBut_mono (by simp) step.words) (regsBut_mono (by simp) words))
  refine does ((exec_emissionNotice up e n).trans (by rw [single])) ⟨?_, ?_, ?_, ?_⟩
  · exact samesBut_trans (samesBut_trans (noticeTaken_same i n e s) (samesBut_trans (trigger_same i 2 n _) frame)) (samesBut_mono (by simp) (showValid_same i _))
  · exact asked_showValid (asked_after same (asked_before taken asks))
  · have lit : watchState (trigger i 2 n (noticeTaken i n e s)) i w = 2 := (step.getFi_word (watch_ne_stat (by decide) i w)).trans state
    exact ((statStep_showValid i _).getFi_word (watch_ne_stat (by decide) i w)).trans (kept.trans lit)
  · rw [islOf_congr (showValid_isl i _), same.isl, own, noticeTaken_own (islUp_length up), h4]

/-- Settles O52: every trigger is one of the same operation; a notice of which one watch alone takes part is that watch's part. -/
theorem islandSafeState : Obligations.IslandSafeState := by
  unfold Obligations.IslandSafeState
  intro i w t n s hi hw up p stat safe latched asks dormant clear
  have here := islUp_length up
  have later := islSame_at i t s
  refine ⟨fun hc => ?_, fun set => ?_, ?_, ?_, fun current old => ?_, fun young => ?_, fun off hm hf hp hcl => ?_, fun off hc current safety hpart h4 hp hcl => ?_⟩
  · obtain ⟨asks, -⟩ := trigger_asked (s := at_ t s) up hc (if islandInCharge s = some i then 5 else 6) t
    exact does_reach rfl (does (exec_islSafeReq i t s) ⟨regsBut_trans (regsBut_at t (regsBut_refl _ s)) (statStep_trigger ..).words, asked_before later.toStatSame asks⟩)
  · exact does (exec_islSafeReq i t s) (trigger_set (s := at_ t s) set _ t)
  · obtain ⟨safe, -⟩ := withFrame_latched (c := getF (at_ t s) pgClap Reg.CLAP_STAT_CAUSE) (s := at_ t s) here rfl rfl t
    have step : StatStep i [Reg.ISL_STAT_SAFE, Reg.ISL_STAT_VALID] s (withFrame i t (safeShown i (getF (at_ t s) pgClap Reg.CLAP_STAT_CAUSE) (at_ t s))) :=
      statStep_trans (statStep_at t s) (statStep_trans (statStep_safeShown ..) (statStep_same (withFrame_regs ..) (withFrame_out ..)))
    exact does_reach rfl (does (exec_safeMessageReceive up t) ⟨step.words, safeIn_before later.toStatSame safe, step.kept (by decide)⟩)
  · obtain ⟨code, shown⟩ := safeNInAssert_shows hi up t
    have same := fun v k => (sawAssert_same t v k).2 .clap (by decide)
    refine does_reach rfl (does (exec_safeNInAssert t s) ⟨(same _ 1).trans (same _ 0), ?_, code, shown⟩)
    exact sawAssert_quiet (by simp) t (sawAssert_quiet (by simp) t (quietBut_same (t := s) rfl (quietBut_refl _ s)))
  · have run := exec_watchExpire up hw current old
    have before := expired_islSame i w t s
    have flagged : flagI (expired i w t s) p Reg.ISL_WATCH_SAFETY w = flagI s p Reg.ISL_WATCH_SAFETY w := by
      refine flagI_eq (getFi_quietBut (expired_quiet i w t s) (quiet_watch (by decide) hw i) ?_)
      exact fun m => watch_ne_word (by decide) i w w (List.mem_singleton.1 m)
    have shown := fun {rs} {u} (step : StatStep i rs (expired i w t s) u) => watchExpire_shows hi hw t step
    rw [flagged] at run
    cases safety : flagI s p Reg.ISL_WATCH_SAFETY w
    · rw [safety, if_neg Bool.false_ne_true] at run
      have step := statStep_showValid i (expired i w t s)
      obtain ⟨words, state, code⟩ := shown step
      exact does_reach rfl (does run ⟨words, state, code, nofun, fun _ => (step.fields _ (by decide)).trans (getF_statWord before.word (by decide))⟩)
    · rw [safety, if_pos rfl] at run
      obtain ⟨words, state, code⟩ := shown (statStep_trans (statStep_trigger i 1 t _) (statStep_mono (by simp) (statStep_showValid i _)))
      exact does_reach rfl (does run ⟨words, state, code, fun _ hc => watchExpire_asks up hc w t, nofun⟩)
  · exact does (exec_watchExpire_young young) rfl
  · obtain ⟨run, shown⟩ := freshNotice_shows hi up hw off hm hf hp hcl t
    exact does run shown
  · exact step4Notice_shows up hw off hc current safety hpart h4 hp hcl t

end Sys2Proof.Machine
end

section
/-! PROOFS. Chapter 12: the CAN FD channels of an island (R333 to R335). -/

namespace Sys2Proof.Machine

open Sys2Proof

variable {s t u : State} {i ch n t0 : Nat} {f : CanFrame}

/-! ### A channel of an island -/

/-- The word of a channel at an offset of its first. -/
abbrev canWord (i off ch : Nat) : Nat := pageBase (pgIsl i) + off + 0x40 * ch

theorem fieldAddr_can {r : Row} (h : r.s1 = 0x40) (i ch : Nat) : fieldAddr (pgIsl i) r ch 0 = canWord i r.off ch := by
  simp only [fieldAddr, canWord, h, Nat.zero_mul]
  omega

theorem quiet_can {r : Row} (h : 0x200 ≤ r.off ∧ r.off < 0x240 ∧ r.s1 = 0x40) (_ : ch < 2) (i : Nat) : quiet (fieldAddr (pgIsl i) r ch 0) := by
  simp only [quiet, fieldAddr, pageBase, h.2.2]
  omega

/-- One channel is changed: the other, the rest of the island and the other island are as they were. -/
theorem modCan_shows (here : i < s.isl.length) (_ : i < 2) (hc : ch < 2) (two : (islOf s i).can.length = 2) (g : CanCh → CanCh) (h : t.isl = (modCan i ch g s).isl) :
    (islOf t (1 - i) = islOf s (1 - i) ∧ canOf t i (1 - ch) = canOf s i (1 - ch) ∧ { islOf t i with can := [] } = { islOf s i with can := [] }) ∧
      canOf t i ch = g (canOf s i ch) := by
  have own : islOf t i = { islOf s i with can := (islOf s i).can.modify ch g } := (islOf_congr h i).trans (islOf_modCan here ch g)
  have ne : ch ≠ 1 - ch := by omega
  refine ⟨⟨(islOf_congr h _).trans (islOf_modCan_ne (by omega) ch g), ?_, by rw [own]⟩, ?_⟩
  · simp [canOf, own, List.getD, ne]
  · simp [canOf, own, List.getD, two, hc]

theorem modCan_isl_congr (h : t.isl = s.isl) (g : CanCh → CanCh) : (modCan i ch g t).isl = (modCan i ch g s).isl := by simp only [modCan, modIsl, h]

/-- Two changes of one channel are one. -/
theorem modCan_twice {g : CanCh → CanCh} (h : t.isl = (modCan i ch g s).isl) (g' : CanCh → CanCh) :
    (modCan i ch g' t).isl = (modCan i ch (fun c => g' (g c)) s).isl := by
  simp only [modCan, modIsl, h, List.modify_modify_eq, Function.comp_def]

/-! ### What the commands run -/

theorem exec_canStatusPeriod (up : islUp s i = true) : exec (.canStatusPeriod i) s = .next (queueFrame i 0 1 s) := congrArg Host.Outcome.next (if_pos up)

theorem exec_ssfPeriod (up : islUp s i = true) (hc : ch < 2) (charge : islandInCharge s = some i) (safe : flag s (pgIsl i) Reg.ISL_STAT_SAFE = true)
    (queued : (islOf s i).ssf = true) (n : Nat) : exec (.ssfPeriod i ch n) s = .next (queueFrame i ch 2 (at_ n s)) :=
  congrArg Host.Outcome.next (if_pos ⟨up, hc, charge, safe, queued⟩)

theorem exec_ssfPeriod_over (h : flag s (pgIsl i) Reg.ISL_STAT_SAFE = false) (ch n : Nat) : exec (.ssfPeriod i ch n) s = .next s :=
  congrArg Host.Outcome.next (if_neg fun ⟨_, _, _, safe, _⟩ => Bool.false_ne_true (h.symm.trans safe))

/-- The SAFE_STATE frame of a channel is late. -/
def ssfLate (i ch n t0 : Nat) (s : State) : State :=
  modCan i ch (fun c => { c with ssf := some (t0, true) }) (bumpI (pgIsl i) Reg.ISL_CAN_SSF_LATE ch 1 (record (pgIsl i) 0x5B (at_ n s)))

theorem exec_canSsfLate (up : islUp s i = true) (hc : ch < 2) (h : (canOf s i ch).ssf = some (t0, false)) (late : t0 + 2000000 ≤ n) :
    exec (.canSsfLate i ch n) s = .next (ssfLate i ch n t0 s) := by
  refine congrArg Host.Outcome.next ?_
  rw [h]
  exact if_pos ⟨up, hc, late⟩

theorem exec_canSsfLate_none (h : (canOf s i ch).ssf = none) (n : Nat) : exec (.canSsfLate i ch n) s = .next s := by
  refine congrArg Host.Outcome.next ?_
  rw [h]

/-- The channel goes BUS_OFF with its error counter past 255. -/
def busOff (i ch : Nat) (s : State) : State :=
  setFi (pgIsl i) Reg.ISL_CAN_TEC ch (256 + (drawFree 3 s).1) (setFi (pgIsl i) Reg.ISL_CAN_BUS_OFF ch 1 (drawFree 3 s).2)

theorem exec_canBusOff (up : islUp s i = true) (hc : ch < 2) (on : flagI s (pgIsl i) Reg.ISL_CAN_BUS_OFF ch = false) :
    exec (.canBusOff i ch) s = .next (record (pgIsl i) 0x5F (busOff i ch s)) := congrArg Host.Outcome.next (if_pos ⟨up, hc, on⟩)

/-- The channel recovers. -/
def busOn (i ch : Nat) (s : State) : State := setFi (pgIsl i) Reg.ISL_CAN_TEC ch 0 (setFi (pgIsl i) Reg.ISL_CAN_BUS_OFF ch 0 s)

theorem exec_canBusOffRecovery (up : islUp s i = true) (hc : ch < 2) (off : flagI s (pgIsl i) Reg.ISL_CAN_BUS_OFF ch = true) :
    exec (.canBusOffRecovery i ch) s = .next (busOn i ch s) := congrArg Host.Outcome.next (if_pos ⟨up, hc, off⟩)

theorem exec_canReceive (up : islUp s i = true) (hc : ch < 2) (on : flagI s (pgIsl i) Reg.ISL_CAN_BUS_OFF ch = false) (supported : canSupported f = true)
    (accepted : Config.canFilter i ch f = true) : exec (.canReceive i ch f) s = .next (modCan i ch (fun c => { c with rx := c.rx ++ [f] }) s) :=
  congrArg Host.Outcome.next (if_pos ⟨up, hc, on, supported, accepted⟩)

theorem exec_canReceive_not (h : canSupported f = false ∨ Config.canFilter i ch f = false) (s : State) : exec (.canReceive i ch f) s = .next s := by
  refine congrArg Host.Outcome.next (if_neg fun ⟨_, _, _, supported, accepted⟩ => ?_)
  simp [supported, accepted] at h

/-- A queued frame has gone out: it leaves the queue and the error counter falls. -/
def canSent (i ch : Nat) (f : CanFrame) (n : Nat) (s : State) : State :=
  setFi (pgIsl i) Reg.ISL_CAN_TEC ch (getFi (emit (.can i ch f) (modCan i ch (fun c => { c with queue := c.queue.erase f }) (at_ n s))) (pgIsl i) Reg.ISL_CAN_TEC ch - 1)
    (emit (.can i ch f) (modCan i ch (fun c => { c with queue := c.queue.erase f }) (at_ n s)))

theorem exec_canFrameComplete (hi : i < 2) (hc : ch < 2) (queued : (canOf s i ch).queue.contains f = true) (on : flagI s (pgIsl i) Reg.ISL_CAN_BUS_OFF ch = false) (n : Nat) :
    exec (.canFrameComplete i ch f n) s = .next (if f.data.take 1 = leBytes 1 2 then
      modCan i ch (fun c => { c with ssf := none }) (bumpI (pgIsl i) Reg.ISL_CAN_SSF_SENT ch 1 (canSent i ch f n s)) else canSent i ch f n s) :=
  congrArg Host.Outcome.next (if_pos ⟨hi, hc, queued, on⟩)

/-! ### What they show -/

theorem canSent_words (i ch : Nat) (f : CanFrame) (n : Nat) (s : State) : regsBut [canWord i 0x210 ch] s (canSent i ch f n s) :=
  regsBut_setFi _ (List.mem_singleton.2 (fieldAddr_can (by decide) i ch)) (regsBut_same (t := s) rfl (regsBut_refl _ s))

theorem canSent_tec (i ch : Nat) (f : CanFrame) (n : Nat) (s : State) :
    getFi (canSent i ch f n s) (pgIsl i) Reg.ISL_CAN_TEC ch = getFi s (pgIsl i) Reg.ISL_CAN_TEC ch - 1 := by
  have small : getFi s (pgIsl i) Reg.ISL_CAN_TEC ch < 2 ^ 9 := getFij_lt s _ Reg.ISL_CAN_TEC ch 0
  rw [canSent, getFi_setFi_same (by decide), getFi_emit, getFi_modCan, getFi_at]
  exact Nat.mod_eq_of_lt (Nat.lt_of_le_of_lt (Nat.sub_le _ 1) small)

theorem canSent_isl (i ch : Nat) (f : CanFrame) (n : Nat) (s : State) :
    (canSent i ch f n s).isl = (modCan i ch (fun c => { c with queue := c.queue.erase f }) s).isl := by
  rw [canSent, setFi_isl, emit_isl]
  rfl

theorem canSent_out (i ch : Nat) (f : CanFrame) (n : Nat) (s : State) : puts (.can i ch f) s (canSent i ch f n s) :=
  puts_grows (grows_same (by rw [canSent, setFi_io]) (grows_refl _)) (puts_emit _ (grows_same (t := modCan i ch _ (at_ n s)) rfl (grows_refl s)))

/-- A SAFE_STATE frame that has gone out counts, and its retries end. -/
theorem canSent_ssf (i ch : Nat) (f : CanFrame) (n : Nat) (s : State) :
    let u := modCan i ch (fun c => { c with ssf := none }) (bumpI (pgIsl i) Reg.ISL_CAN_SSF_SENT ch 1 (canSent i ch f n s))
    regsBut [canWord i 0x210 ch, canWord i 0x214 ch] s u ∧ puts (.can i ch f) s u ∧ getFi u (pgIsl i) Reg.ISL_CAN_TEC ch = getFi s (pgIsl i) Reg.ISL_CAN_TEC ch - 1 ∧
      getFi u (pgIsl i) Reg.ISL_CAN_SSF_SENT ch = satAdd 32 (getFi s (pgIsl i) Reg.ISL_CAN_SSF_SENT ch) 1 ∧
      u.isl = (modCan i ch (fun c => { c with queue := c.queue.erase f, ssf := none }) s).isl := by
  have words := canSent_words i ch f n s
  have address : fieldAddr (pgIsl i) Reg.ISL_CAN_SSF_SENT ch 0 = canWord i 0x214 ch := fieldAddr_can (by decide) i ch
  have count : getFi (canSent i ch f n s) (pgIsl i) Reg.ISL_CAN_SSF_SENT ch = getFi s (pgIsl i) Reg.ISL_CAN_SSF_SENT ch :=
    getFi_regsBut words (by rw [address, List.mem_singleton]; simp only [canWord]; omega)
  refine ⟨regsBut_same (modCan_regs ..) (regsBut_bumpI 1 (by simp [address]) (regsBut_mono (by simp) words)),
    puts_grows (grows_same (by rw [modCan_io, bumpI_io]) (grows_refl _)) (canSent_out i ch f n s), ?_, ?_, ?_⟩
  · rw [getFi_modCan, getFi_bumpI_apart (by decide) (by decide) (by decide), canSent_tec]
  · rw [getFi_modCan, getFi_bumpI_same (by decide), count]
    rfl
  · exact modCan_twice ((bumpI_isl ..).trans (canSent_isl i ch f n s)) _

theorem busOff_shows (i ch : Nat) (s : State) : quietBut [canWord i 0x210 ch] s (busOff i ch s) ∧ getFi (busOff i ch s) (pgIsl i) Reg.ISL_CAN_BUS_OFF ch = 1 ∧
    getFi (busOff i ch s) (pgIsl i) Reg.ISL_CAN_TEC ch = 256 + Config.free s.io.fresh % 8 := by
  refine ⟨quietBut_setFi _ (List.mem_singleton.2 (fieldAddr_can (by decide) i ch)) (quietBut_setFi _ (List.mem_singleton.2 (fieldAddr_can (by decide) i ch))
    (quietBut_same (t := s) rfl (quietBut_refl _ s))), ?_, ?_⟩
  · rw [busOff, getFi_setFi_apart (by decide) (by decide) (by decide), getFi_setFi_same (by decide)]
    rfl
  · have small : 256 + Config.free s.io.fresh % 8 < 2 ^ 9 := by omega
    rw [busOff, getFi_setFi_same (by decide)]
    exact Nat.mod_eq_of_lt small

theorem busOn_shows (i ch : Nat) (s : State) : regsBut [canWord i 0x210 ch] s (busOn i ch s) ∧ getFi (busOn i ch s) (pgIsl i) Reg.ISL_CAN_BUS_OFF ch = 0 ∧
    getFi (busOn i ch s) (pgIsl i) Reg.ISL_CAN_TEC ch = 0 := by
  refine ⟨regsBut_setFi _ (List.mem_singleton.2 (fieldAddr_can (by decide) i ch)) (regsBut_setFi _ (List.mem_singleton.2 (fieldAddr_can (by decide) i ch)) (regsBut_refl _ s)), ?_, ?_⟩
  · rw [busOn, getFi_setFi_apart (by decide) (by decide) (by decide), getFi_setFi_same (by decide)]
    rfl
  · rw [busOn, getFi_setFi_same (by decide)]
    rfl

theorem ssfLate_shows (hi : i < 2) (hc : ch < 2) (n t0 : Nat) (s : State) :
    let u := ssfLate i ch n t0 s
    quietBut [canWord i 0x218 ch] s u ∧ codeIn u (pgIsl i) 0x5B ∧ getFi u (pgIsl i) Reg.ISL_CAN_SSF_LATE ch = satAdd 32 (getFi s (pgIsl i) Reg.ISL_CAN_SSF_LATE ch) 1 ∧
      u.isl = (modCan i ch (fun c => { c with ssf := some (t0, true) }) s).isl := by
  have recorded := quietBut_record (pgIsl i) 0x5B (quietBut_at n (quietBut_refl [canWord i 0x218 ch] s))
  have address : fieldAddr (pgIsl i) Reg.ISL_CAN_SSF_LATE ch 0 = canWord i 0x218 ch := fieldAddr_can (by decide) i ch
  refine ⟨quietBut_same (modCan_regs ..) (quietBut_bumpI 1 (by simp [address]) recorded), ?_, ?_, ?_⟩
  · have code : codeIn (record (pgIsl i) 0x5B (at_ n s)) (pgIsl i) 0x5B := codeIn_record (by simp only [pageBase]; omega) (by simp only [pageBase]; omega) (by decide) _
    exact codeIn_congr (modCan_regs ..) (codeIn_setFi (by decide) ch _ code)
  · rw [ssfLate, getFi_modCan, getFi_bumpI_same (by decide), getFi_record (quiet_can (by decide) hc i), getFi_at]
    rfl
  · exact modCan_isl_congr ((bumpI_isl ..).trans ((record_isl ..).trans (at_isl ..))) _

/-- Settles O53: a frame is queued by one operation; each channel's event is one change of the channel and of its words. -/
theorem canFrames : Obligations.CanFrames := by
  unfold Obligations.CanFrames
  intro i ch t t0 f s hi hc up two p word beside frame off
  have here := islUp_length up
  refine ⟨fun h0 => ?_, fun charge safe queued => ?_, fun calm => ?_, fun waits late => ?_, fun none => ?_, fun on => ?_, fun isOff => ?_, fun on supported accepted => ?_,
    fun h => ?_, fun on queued => ⟨fun ssf => ?_, fun other => ?_⟩⟩
  · subst h0
    obtain ⟨aside, own⟩ := modCan_shows here hi hc two _ (t := queueFrame i 0 1 s) rfl
    exact does_reach rfl (does (exec_canStatusPeriod up) ⟨aside, by rw [own]⟩)
  · obtain ⟨aside, own⟩ := modCan_shows (s := at_ t s) here hi hc two _ (t := queueFrame i ch 2 (at_ t s)) rfl
    exact does_reach rfl (does (exec_ssfPeriod up hc charge safe queued t) ⟨aside, by rw [own]; rfl⟩)
  · exact does (exec_ssfPeriod_over calm ch t) rfl
  · obtain ⟨words, code, count, isl⟩ := ssfLate_shows hi hc t t0 s
    obtain ⟨aside, own⟩ := modCan_shows here hi hc two _ isl
    exact does_reach rfl (does (exec_canSsfLate up hc waits late) ⟨words, aside, code, count, own⟩)
  · exact does (exec_canSsfLate_none none t) rfl
  · obtain ⟨words, shown, count⟩ := busOff_shows i ch s
    have quiet {r : Row} (hr : 0x200 ≤ r.off ∧ r.off < 0x240 ∧ r.s1 = 0x40) := getFi_record (quiet_can (r := r) hr hc i) (pgIsl i) 0x5F (busOff i ch s)
    exact does_reach rfl (does (exec_canBusOff up hc on) ⟨quietBut_record _ _ words, codeIn_record (by simp only [pageBase]; omega) (by simp only [pageBase]; omega) (by decide) _,
      (quiet (by decide)).trans shown, (quiet (by decide)).trans count⟩)
  · exact does_reach rfl (does (exec_canBusOffRecovery up hc isOff) (busOn_shows i ch s))
  · exact does_reach rfl (does (exec_canReceive up hc on supported accepted) (modCan_shows here hi hc two _ rfl))
  · exact does (exec_canReceive_not h s) rfl
  · obtain ⟨words, out, errors, sent, isl⟩ := canSent_ssf i ch f t s
    obtain ⟨aside, own⟩ := modCan_shows here hi hc two _ isl
    exact does_reach rfl (does ((exec_canFrameComplete hi hc queued on t).trans (by rw [if_pos ssf])) ⟨words, aside, out, errors, sent, own⟩)
  · obtain ⟨aside, own⟩ := modCan_shows here hi hc two _ (canSent_isl i ch f t s)
    exact does_reach rfl (does ((exec_canFrameComplete hi hc queued on t).trans (by rw [if_neg other])) ⟨canSent_words i ch f t s, aside, canSent_out i ch f t s, canSent_tec i ch f t s, own⟩)

end Sys2Proof.Machine
end

section
/-! PROOFS. Chapter 12: the token of the Clapper: claims, confirm, break and grant, release (R316 to R320). -/

namespace Sys2Proof.Machine

open Sys2Proof

variable {s t u : State} {i n e prior : Nat} {who : Agent}

/-! ### Steps in the STAT word of the Clapper -/

/-- The address of CLAP.STAT. -/
abbrev clapStat : Nat := pageBase pgClap + 0x48

/-- Of the registers only CLAP.STAT is written, and in it none but the fields `rs`. -/
structure ClapStep (rs : List Row) (s t : State) : Prop where
  words : regsBut [clapStat] s t
  fields : ∀ r, (rs.all fun x => apart x r) = true → getF t pgClap r = getF s pgClap r

variable {rs : List Row}

theorem clapStep_trans (h : ClapStep rs s t) (k : ClapStep rs t u) : ClapStep rs s u :=
  ⟨regsBut_trans h.words k.words, fun r hr => (k.fields r hr).trans (h.fields r hr)⟩

theorem clapStep_same (h : t.regs = s.regs) : ClapStep rs s t := ⟨regsBut_same h (regsBut_refl _ s), fun _ _ => getF_congr h _ _⟩

theorem clapStep_setF {r : Row} (ho : fieldAddr pgClap r 0 0 = clapStat) (hw : r.lo + r.w ≤ 32) (hr : r ∈ rs) (v : Nat) (s : State) : ClapStep rs s (setF pgClap r v s) :=
  ⟨regsBut_setF v (List.mem_singleton.2 ho) (regsBut_refl _ s), fun _ hx => getF_setF_apart hw (List.all_eq_true.1 hx r hr) v s⟩

theorem quiet_clap {r : Row} (h : 64 ≤ r.off ∧ r.off < 4096 ∧ r.s1 = 0) : quiet (fieldAddr pgClap r 0 0) := by
  simp only [quiet, fieldAddr, pageBase, h.2.2]
  omega

/-! ### MON_READY (R322) -/

/-- MON_READY is shown as the monitor's state says. -/
theorem showMon_eq (s : State) : ∃ v, showMon s = setF pgClap Reg.CLAP_STAT_MON_READY v s := ⟨_, rfl⟩

theorem clapStep_showMon (s : State) : ClapStep [Reg.CLAP_STAT_MON_READY] s (showMon s) := by
  obtain ⟨v, h⟩ := showMon_eq s
  rw [h]
  exact clapStep_setF rfl (by decide) List.mem_cons_self v s

theorem showMon_io (s : State) : (showMon s).io = s.io := by
  obtain ⟨v, h⟩ := showMon_eq s
  rw [h, setF_io]

theorem showMon_clap (s : State) : (showMon s).clap = s.clap := by
  obtain ⟨v, h⟩ := showMon_eq s
  rw [h, setF_clap]

theorem showMon_isl (s : State) : (showMon s).isl = s.isl := by
  obtain ⟨v, h⟩ := showMon_eq s
  rw [h, setF_isl]

theorem showMon_out (s : State) : grows s (showMon s) := grows_same (by rw [showMon_io]) (grows_refl s)

theorem showMon_code {p : Page} {c : Nat} (h : codeIn s p c) : codeIn (showMon s) p c := codeIn_regsBut (clapStep_showMon s).words (by decide) h

/-! ### The state of the token (R317, R330) -/

theorem setClapState_words (st n : Nat) (s : State) : ClapStep [Reg.CLAP_STAT_STATE] s (setClapState st n s) :=
  clapStep_trans (clapStep_setF rfl (by decide) List.mem_cons_self st s) (clapStep_same (modClap_regs ..))

theorem setClapState_state {st : Nat} (h : st < 8) (n : Nat) (s : State) : clapState (setClapState st n s) = st := by
  rw [clapState, setClapState, getF_modClap, getF_setF_same (by decide)]
  exact Nat.mod_eq_of_lt h

theorem setClapState_io (st n : Nat) (s : State) : (setClapState st n s).io = s.io := by rw [setClapState, modClap_io, setF_io]

theorem setClapState_clap (st n : Nat) (s : State) :
    (setClapState st n s).clap = { s.clap with idle := if st = 1 ∨ st = 2 ∨ !s.clap.granted then none else some (s.clap.idle.getD n) } := by
  rw [setClapState, modClap, setF_clap]

theorem setClapState_same (st n : Nat) (s : State) : samesBut [.regs, .clap] s (setClapState st n s) := samesBut_keeps (setClapState_keeps st n (by decide) (Keeps.refl _ s))

theorem clapHolder_step (h : ClapStep rs s t) (hr : (rs.all fun x => apart x Reg.CLAP_STAT_HOLDER) = true) : clapHolder t = clapHolder s := h.fields _ hr

theorem clapState_step (h : ClapStep rs s t) (hr : (rs.all fun x => apart x Reg.CLAP_STAT_STATE) = true) : clapState t = clapState s := h.fields _ hr

/-! ### Writes of the Clapper's registers by the islands (R307, R316) -/

theorem asIsland_eq (hc : controls who = true) (hh : who ≠ .host) {off : Nat} (ho : off < 0x1000) (ok : Bool) (f : State → State) (s : State) :
    asIsland off who ok f s = if ok then f s else record pgClap 0x52 s :=
  asGuarded_hub hc hh (by simp only [pageBase]; omega) _ s

/-- A refusal of the Clapper at an instant. -/
theorem clapRefusal {k : Nat} (hk : k < 256) (n : Nat) (s : State) :
    let u := record pgClap k (at_ n s)
    samesBut report s u ∧ quietBut [] s u ∧ codeIn u pgClap k :=
  ⟨samesBut_after_at (by decide) (samesBut_recordAt pgClap k 0 0xFF _), quietBut_record _ _ (quietBut_at n (quietBut_refl [] s)), codeIn_record (by decide) (by decide) hk _⟩

/-! ### A claim (R318, R319) -/

theorem exec_clapClaim (hi : i < 2) (hc : controls who = true) (hh : who ≠ .host) (e : Word) (n : Nat) (s : State) :
    exec (.clapClaim who i e n) s = .next (if who = .island i then claim i e.toNat n (at_ n s) else record pgClap 0x52 (at_ n s)) := by
  refine congrArg Host.Outcome.next ((if_pos hi).trans ((asIsland_eq hc hh (by omega) _ _ _).trans ?_))
  simp only [decide_eq_true_eq]

theorem claim_split (h : flag s (pgIsl i) Reg.ISL_STAT_MODE = true ∧ flag s pgClap Reg.CLAP_CFG_SPLIT_OK = false) (e n : Nat) :
    claim i e n s = record pgClap 0x5C s := if_pos h

theorem claim_refused (h : ¬(flag s (pgIsl i) Reg.ISL_STAT_MODE = true ∧ flag s pgClap Reg.CLAP_CFG_SPLIT_OK = false)) (hr : claimRefused s i e = true) (n : Nat) :
    claim i e n s = record pgClap 0x52 s := (if_neg h).trans (if_pos hr)

theorem claim_gathered (h : ¬(flag s (pgIsl i) Reg.ISL_STAT_MODE = true ∧ flag s pgClap Reg.CLAP_CFG_SPLIT_OK = false)) (hr : claimRefused s i e = false)
    (free : clapState s = 0) (n : Nat) : claim i e n s = modClap (fun c => { c with
      claims := (i, e) :: c.claims.filter (fun x => x.1 ≠ i), since := if c.claims = [] then n else c.since }) s :=
  (if_neg h).trans ((if_neg (by simp [hr])).trans (if_pos free))

theorem claim_wins (h : ¬(flag s (pgIsl i) Reg.ISL_STAT_MODE = true ∧ flag s pgClap Reg.CLAP_CFG_SPLIT_OK = false)) (hr : claimRefused s i e = false)
    (taken : clapState s ≠ 0) (n : Nat) : claim i e n s = beginGrant i e (clapState s) n s :=
  (if_neg h).trans ((if_neg (by simp [hr])).trans (if_neg taken))

/-- The winner of a claim gets its OFFER: the token is GRANTING. -/
def offeredTo (i e prior : Nat) (s u : State) : Prop :=
  samesBut [.regs, .io, .clap] s u ∧ regsBut [clapStat] s u ∧ clapState u = 3 ∧ clapHolder u = clapHolder s ∧ puts (.island i (.offer e)) s u ∧ u.clap.claims = [] ∧
    u.clap.claim = some (i, e, prior) ∧ u.clap.confirmed = none

/-- It follows what only sent messages. -/
theorem beginGrant_shows (h : samesBut [.io] s t) (out : grows s t) (i e prior n : Nat) : offeredTo i e prior s (beginGrant i e prior n t) := by
  have regs : t.regs = s.regs := h.2 .regs (by decide)
  have step := setClapState_words 3 n (modClap (fun c => { c with claims := [], claim := some (i, e, prior), confirmed := none }) t)
  have clap := setClapState_clap 3 n (modClap (fun c => { c with claims := [], claim := some (i, e, prior), confirmed := none }) t)
  refine ⟨?_, ?_, ?_, ?_, ?_, ?_, ?_, ?_⟩
  · exact samesBut_trans (samesBut_mono (by simp) h) (samesBut_keeps (beginGrant_keeps i e prior n (by decide) (Keeps.refl _ t)))
  · exact regsBut_trans (regsBut_same regs (regsBut_refl _ s)) step.words
  · exact setClapState_state (by decide) n _
  · exact (clapHolder_step step (by decide)).trans (getF_congr regs _ _)
  · exact puts_emit _ (grows_same (by rw [setClapState_io, modClap_io]) out)
  · rw [beginGrant, emit_clap, clap, modClap]
  · rw [beginGrant, emit_clap, clap, modClap]
  · rw [beginGrant, emit_clap, clap, modClap]

/-! ### Arbitration (R319) -/

/-- Each loser gets a DENY with the winning epoch. -/
def denied (e : Nat) (l : List (Nat × Nat)) (s : State) : State := l.foldl (fun s x => emit (.island x.1 (.deny e)) s) s

theorem exec_clapArbitrate {w : Nat × Nat} (h : arbitrate s.clap.claims = some w) (free : clapState s = 0) (due : s.clap.since + 10000 ≤ n) :
    exec (.clapArbitrate n) s = .next (beginGrant w.1 w.2 0 n (denied w.2 (s.clap.claims.filter (fun x => x.1 ≠ w.1)) (at_ n s))) := by
  refine congrArg Host.Outcome.next ?_
  rw [h]
  exact if_pos ⟨free, due⟩

theorem exec_clapArbitrate_idle (h : arbitrate s.clap.claims = none ∨ clapState s ≠ 0) (n : Nat) : exec (.clapArbitrate n) s = .next s := by
  refine congrArg Host.Outcome.next ?_
  split
  next w hw =>
    have taken : clapState s ≠ 0 := h.resolve_left (by simp [hw])
    exact if_neg fun ⟨free, _⟩ => taken free
  next => rfl

theorem grows_denied (e : Nat) (l : List (Nat × Nat)) (s : State) : grows s (denied e l s) := grows_foldl (fun t _ => grows_emit _ (grows_refl t)) l s

theorem denied_same (e : Nat) (l : List (Nat × Nat)) (s : State) : samesBut [.io] s (denied e l s) := by
  induction l generalizing s with
  | nil => exact samesBut_refl _ s
  | cons x l ih => exact samesBut_trans (samesBut_emit _ s) (ih _)

theorem puts_denied {l : List (Nat × Nat)} {x : Nat × Nat} (h : x ∈ l) (e : Nat) (s : State) : puts (.island x.1 (.deny e)) s (denied e l s) := by
  induction l generalizing s with
  | nil => cases h
  | cons y l ih =>
    obtain rfl | h := List.mem_cons.1 h
    · exact puts_grows (grows_denied e l _) (puts_emit _ (grows_refl s))
    · exact puts_after (grows_emit _ (grows_refl s)) (ih h _)

/-! ### The grant (R320) -/

/-- The registers of a grant: HELD by the winner with its epoch, one more pass. -/
def grantShown (i e n : Nat) (s : State) : State :=
  bump pgClap Reg.CLAP_PASSES 1 (setF pgClap Reg.CLAP_FLOOR (e + 1) (setF pgClap Reg.CLAP_EPOCH e (setF pgClap Reg.CLAP_STAT_MISSED 0 (setF pgClap Reg.CLAP_STAT_HOLDER i
    (setClapState 1 n (modClap (fun c => { c with
      claim := none, confirmed := none, rel := false, hb := false, live := [false, false], missed := [0, 0], granted := true }) s))))))

theorem grantClapper_eq (h : s.clap.claim = some (i, e, prior)) (n : Nat) :
    grantClapper n s = showMon (record pgClap 0x54 (emit (.island i (.grant e)) (grantShown i e n s))) := by
  unfold grantClapper
  rw [h]
  rfl

/-- The words that a grant writes. -/
abbrev grantWords : List Nat := [clapStat, clapStat + 4, clapStat + 8, pageBase pgClap + 0x84]

theorem grantShown_words (i e n : Nat) (s : State) : regsBut grantWords s (grantShown i e n s) := by
  have state := (setClapState_words 1 n (modClap (fun c => { c with
    claim := none, confirmed := none, rel := false, hb := false, live := [false, false], missed := [0, 0], granted := true }) s)).words
  exact regsBut_bump 1 (by decide) (regsBut_setF _ (by decide) (regsBut_setF _ (by decide) (regsBut_setF _ (by decide) (regsBut_setF _ (by decide)
    (regsBut_trans (regsBut_same (modClap_regs ..) (regsBut_refl _ s)) (regsBut_mono (by simp) state))))))

theorem grantShown_fields (i e n : Nat) (s : State) :
    let u := grantShown i e n s
    clapState u = 1 ∧ clapHolder u = i % 2 ∧ getF u pgClap Reg.CLAP_STAT_MISSED = 0 ∧ getF u pgClap Reg.CLAP_EPOCH = e % 2 ^ 32 ∧ getF u pgClap Reg.CLAP_FLOOR = (e + 1) % 2 ^ 32 ∧
      getF u pgClap Reg.CLAP_PASSES = satAdd 32 (getF s pgClap Reg.CLAP_PASSES) 1 := by
  refine ⟨?_, ?_, ?_, ?_, ?_, ?_⟩
  · rw [clapState, grantShown, getF_bump_apart (by decide) (by decide), getF_setF_apart (by decide) (by decide), getF_setF_apart (by decide) (by decide),
      getF_setF_apart (by decide) (by decide), getF_setF_apart (by decide) (by decide)]
    exact setClapState_state (by decide) n _
  · rw [clapHolder, grantShown, getF_bump_apart (by decide) (by decide), getF_setF_apart (by decide) (by decide), getF_setF_apart (by decide) (by decide),
      getF_setF_apart (by decide) (by decide), getF_setF_same (by decide)]
    rfl
  · rw [grantShown, getF_bump_apart (by decide) (by decide), getF_setF_apart (by decide) (by decide), getF_setF_apart (by decide) (by decide), getF_setF_same (by decide)]
    rfl
  · rw [grantShown, getF_bump_apart (by decide) (by decide), getF_setF_apart (by decide) (by decide), getF_setF_same (by decide)]
    rfl
  · rw [grantShown, getF_bump_apart (by decide) (by decide), getF_setF_same (by decide)]
    rfl
  · rw [grantShown, getF_bump_same (by decide), getF_setF_apart (by decide) (by decide), getF_setF_apart (by decide) (by decide), getF_setF_apart (by decide) (by decide),
      getF_setF_apart (by decide) (by decide), (setClapState_words 1 n _).fields _ (by decide), getF_modClap]
    rfl

theorem grantShown_clap (i e n : Nat) (s : State) : (grantShown i e n s).clap =
    { s.clap with claim := none, confirmed := none, rel := false, hb := false, live := [false, false], missed := [0, 0], granted := true, idle := none } := by
  rw [grantShown, bump_clap, setF_clap, setF_clap, setF_clap, setF_clap, setClapState_clap, modClap, if_pos (Or.inl rfl)]

theorem grantShown_io (i e n : Nat) (s : State) : (grantShown i e n s).io = s.io := by
  rw [grantShown, bump_io, setF_io, setF_io, setF_io, setF_io, setClapState_io, modClap_io]

/-- A field of the CLAP page over the record of a code and what MON_READY follows. -/
theorem getF_recorded {r : Row} (h : (64 ≤ r.off ∧ r.off < 4096 ∧ r.s1 = 0) ∧ apart Reg.CLAP_STAT_MON_READY r = true) (c : Nat) (s : State) :
    getF (showMon (record pgClap c s)) pgClap r = getF s pgClap r :=
  ((clapStep_showMon _).fields r (by simp [h.2])).trans (getF_record (quiet_clap h.1) pgClap c s)

/-- The token is granted: HELD by the winner, with the new epoch. -/
def grantedTo (i e : Nat) (s u : State) : Prop :=
  samesBut (report ++ [.clap]) s u ∧ quietBut grantWords s u ∧ clapState u = 1 ∧ clapHolder u = i % 2 ∧ getF u pgClap Reg.CLAP_STAT_MISSED = 0 ∧
    getF u pgClap Reg.CLAP_EPOCH = e % 2 ^ 32 ∧ getF u pgClap Reg.CLAP_FLOOR = (e + 1) % 2 ^ 32 ∧ getF u pgClap Reg.CLAP_PASSES = satAdd 32 (getF s pgClap Reg.CLAP_PASSES) 1 ∧
    codeIn u pgClap 0x54 ∧ puts (.island i (.grant e)) s u ∧
    u.clap = { s.clap with claim := none, confirmed := none, rel := false, hb := false, live := [false, false], missed := [0, 0], granted := true, idle := none }

theorem grantClapper_shows (h : s.clap.claim = some (i, e, prior)) (n : Nat) : grantedTo i e s (grantClapper n (at_ n s)) := by
  have same : samesBut (report ++ [.clap]) s (grantClapper n (at_ n s)) := samesBut_keeps (grantClapper_keeps n (by decide) (at_keeps n (by decide) (Keeps.refl _ s)))
  obtain ⟨held, holder, missed, epoch, floor, passes⟩ := grantShown_fields i e n (at_ n s)
  have words := quietBut_of_regsBut (regsBut_trans (regsBut_at n (regsBut_refl _ s)) (grantShown_words i e n (at_ n s)))
  rw [grantClapper_eq (s := at_ n s) h] at same ⊢
  have field {r : Row} (hr : (64 ≤ r.off ∧ r.off < 4096 ∧ r.s1 = 0) ∧ apart Reg.CLAP_STAT_MON_READY r = true) :
      getF (showMon (record pgClap 0x54 (emit (.island i (.grant e)) (grantShown i e n (at_ n s))))) pgClap r = getF (grantShown i e n (at_ n s)) pgClap r := by
    rw [getF_recorded hr, getF_emit]
  rw [getF_at] at passes
  refine ⟨same, ?_, ?_, ?_, ?_, ?_, ?_, ?_, ?_, ?_, ?_⟩
  · exact quietBut_trans (quietBut_record _ _ (quietBut_emit _ words)) (quietBut_mono (by simp) (quietBut_of_regsBut (clapStep_showMon _).words))
  · exact (field (by decide)).trans held
  · exact (field (by decide)).trans holder
  · exact (field (by decide)).trans missed
  · exact (field (by decide)).trans epoch
  · exact (field (by decide)).trans floor
  · exact (field (by decide)).trans passes
  · exact showMon_code (codeIn_record (by decide) (by decide) (by decide) _)
  · exact puts_grows (grows_trans (grows_record _ _ _) (showMon_out _)) (puts_emit _ (grows_same (by rw [grantShown_io]; rfl) (grows_refl s)))
  · rw [showMon_clap, record_clap, emit_clap, grantShown_clap, at_clap]

/-! ### The confirm (R320) -/

theorem exec_clapConfirm (hi : i < 2) (hc : controls who = true) (hh : who ≠ .host) (e : Word) (n : Nat) (s : State) :
    exec (.clapConfirm who i e n) s = .next (if who = .island i then confirm i e.toNat n (at_ n s) else record pgClap 0x52 (at_ n s)) := by
  refine congrArg Host.Outcome.next ((if_pos hi).trans ((asIsland_eq hc hh (by omega) _ _ _).trans ?_))
  simp only [decide_eq_true_eq]

theorem confirm_fits (h : s.clap.claim = some (i, e, prior)) (hc : s.clap.confirmed = none) (n : Nat) : confirm i e n s =
    if prior ≠ 2 ∨ s.clap.rel then grantClapper n s else emit (.island (clapHolder s) .revoke) (modClap (fun c => { c with confirmed := some n }) s) := by
  unfold confirm
  rw [h, hc]
  exact if_pos ⟨rfl, rfl⟩

theorem confirm_unclaimed (h : s.clap.claim = none) (i e n : Nat) : confirm i e n s = record pgClap 0x52 s := by
  unfold confirm
  rw [h]

/-- The claim is dropped and the token returns to its former state. -/
def unconfirmed (prior : Nat) (s : State) : State := setClapState prior s.io.now (modClap (fun c => { c with claim := none }) s)

theorem exec_clapConfirmTimeout (h : s.clap.claim = some (i, e, prior)) (hc : s.clap.confirmed = none) :
    exec .clapConfirmTimeout s = .next (record pgClap 0x55 (unconfirmed prior s)) := by
  refine congrArg Host.Outcome.next ?_
  rw [h, hc]
  rfl

theorem exec_clapConfirmTimeout_idle (h : s.clap.claim = none) : exec .clapConfirmTimeout s = .next s := by
  refine congrArg Host.Outcome.next ?_
  rw [h]

theorem unconfirmed_words (prior : Nat) (s : State) : ClapStep [Reg.CLAP_STAT_STATE] s (unconfirmed prior s) :=
  clapStep_trans (clapStep_same (modClap_regs ..)) (setClapState_words prior _ _)

/-! ### The former holder (R320) -/

theorem exec_clapHoldRel (i n : Nat) (s : State) : exec (.clapHoldRel (.islandHw i) n) s = .next (holdRel i n (at_ n s)) := rfl

theorem holdRel_grants (h : clapHolder s = i) (g : s.clap.granted = true) (hc : s.clap.confirmed.isSome = true) (n : Nat) : holdRel i n s = grantClapper n s :=
  (if_pos ⟨h.symm, g⟩).trans (if_pos hc)

theorem holdRel_noted (h : clapHolder s = i) (g : s.clap.granted = true) (hc : s.clap.confirmed = none) (n : Nat) :
    holdRel i n s = modClap (fun c => { c with rel := true }) s := (if_pos ⟨h.symm, g⟩).trans (if_neg (by simp [hc]))

theorem holdRel_other (h : clapHolder s ≠ i) (n : Nat) : holdRel i n s = s := if_neg fun k => h k.1.symm

theorem exec_clapGrantTimeout {c : Nat} (h : s.clap.confirmed = some c) (n : Nat) :
    exec (.clapGrantTimeout n) s = .next (if c + 510000 ≤ n then grantClapper n (at_ n s) else s) := by
  refine congrArg Host.Outcome.next ?_
  rw [h]

/-! ### Release (R317) -/

theorem exec_clapRelease (hc : controls who = true) (hh : who ≠ .host) (n : Nat) (s : State) : exec (.clapRelease who n) s = .next (releaseClap who n (at_ n s)) :=
  congrArg Host.Outcome.next (asGuarded_hub hc hh (by decide) _ _)

theorem releaseClap_offers (h : clapState s = 1) (hh : clapHolder s = i) (ready : flag s pgClap Reg.CLAP_STAT_MON_READY = true) (n : Nat) :
    releaseClap (.island i) n s = setClapState 2 n s := by
  have charge : islandInCharge s = some i := (if_pos (Or.inl h)).trans (congrArg some hh)
  exact if_pos ⟨h, decide_eq_true charge, ready⟩

theorem releaseClap_refused (h : clapState s ≠ 1 ∨ clapHolder s ≠ i ∨ flag s pgClap Reg.CLAP_STAT_MON_READY = false) (n : Nat) :
    releaseClap (.island i) n s = record pgClap 0x52 s := by
  refine if_neg fun ⟨held, charge, ready⟩ => ?_
  have holder : clapHolder s = i := Option.some.inj ((if_pos (Or.inl held)).symm.trans (of_decide_eq_true charge))
  simp [held, holder, ready] at h

theorem exec_clapOfferTimeout (h : clapState s = 2) : exec .clapOfferTimeout s = .next (setClapState 1 s.io.now s) := congrArg Host.Outcome.next (if_pos h)

theorem exec_clapOfferTimeout_not (h : clapState s ≠ 2) : exec .clapOfferTimeout s = .next s := congrArg Host.Outcome.next (if_neg h)

end Sys2Proof.Machine
end

section
/-! PROOFS. Chapter 12: the commands of the token, settled (R316 to R320). -/

namespace Sys2Proof.Machine

open Sys2Proof

variable {s t u : State} {i n e prior : Nat}

/-- A step in the state of the token alone. -/
theorem setClapState_shows {st : Nat} (h : st < 8) (n : Nat) (s : State) :
    let u := setClapState st n s
    regsBut [clapStat] s u ∧ clapState u = st ∧ clapHolder u = clapHolder s :=
  ⟨(setClapState_words st n s).words, setClapState_state h n s, clapHolder_step (setClapState_words st n s) (by decide)⟩

/-- Settles O54: each command is one step of the token's state machine, shown by its lemma above. -/
theorem clapperToken : Obligations.ClapperToken := by
  unfold Obligations.ClapperToken
  intro who i t e s hi hc hh other me st stat splitBad refusal offered granted
  have hm : controls me = true := rfl
  have mh : me ≠ .host := nofun
  have claims := (exec_clapClaim hi hm mh e t s).trans (congrArg _ (if_pos rfl))
  have confirms := (exec_clapConfirm hi hm mh e t s).trans (congrArg _ (if_pos rfl))
  refine ⟨fun bad => ?_, fun good bad => ?_, fun good fits free => ?_, fun good fits taken => ?_, ⟨?_, ?_⟩, fun j m wins free due => ⟨_, exec_clapArbitrate wins free due, ?_, fun x hx loser => ?_⟩,
    fun idle => ?_, fun prior claimed waits => ⟨fun now => ?_, fun held latched => ?_, fun small => ?_⟩, fun none => ⟨?_, ?_⟩,
    fun m j c prior claimed confirmed => ⟨fun holder had => ?_, fun late => ?_, fun early => ?_⟩, fun holder had waits => ?_, fun holder => ?_, fun held holder ready => ?_, fun no => ?_,
    fun offer => ?_, fun offer => ?_⟩
  · exact does (claims.trans (congrArg _ (claim_split (s := at_ t s) bad _ t))) (clapRefusal (by decide) t s)
  · exact does (claims.trans (congrArg _ (claim_refused (s := at_ t s) good bad t))) (clapRefusal (by decide) t s)
  · refine does (claims.trans (congrArg _ (claim_gathered (s := at_ t s) good fits free t))) ⟨?_, rfl, rfl⟩
    exact samesBut_after_at (by decide) (samesBut_keeps (modClap_keeps _ (by decide) (Keeps.refl _ _)))
  · exact does (claims.trans (congrArg _ (claim_wins (s := at_ t s) good fits taken t))) (beginGrant_shows (samesBut_at t s) (grows_same rfl (grows_refl s)) _ _ _ _)
  · exact does ((exec_clapClaim hi hc hh e t s).trans (congrArg _ (if_neg other))) (clapRefusal (by decide) t s)
  · exact does ((exec_clapConfirm hi hc hh e t s).trans (congrArg _ (if_neg other))) (clapRefusal (by decide) t s)
  · exact beginGrant_shows (samesBut_trans (samesBut_at t s) (denied_same _ _ _)) (grows_trans (grows_same rfl (grows_refl s)) (grows_denied _ _ _)) _ _ _ _
  · have told : puts (.island x.1 (.deny m)) s (denied m (s.clap.claims.filter (fun x => x.1 ≠ j)) (at_ t s)) :=
      puts_after (grows_same rfl (grows_refl s)) (puts_denied (List.mem_filter.2 ⟨hx, decide_eq_true loser⟩) m (at_ t s))
    exact puts_grows (grows_emit _ (grows_same (by rw [setClapState_io, modClap_io]) (grows_refl _))) told
  · exact does (exec_clapArbitrate_idle idle t) rfl
  · exact does (confirms.trans (congrArg _ ((confirm_fits (s := at_ t s) claimed waits t).trans (if_pos now)))) (grantClapper_shows claimed t)
  · refine does (confirms.trans (congrArg _ ((confirm_fits (s := at_ t s) claimed waits t).trans (if_neg (by simp [held, latched]))))) ⟨?_, rfl, puts_emit _ (grows_same rfl (grows_refl s))⟩
    exact samesBut_emitted (by decide) _ (samesBut_after_at (by decide) (samesBut_keeps (modClap_keeps _ (by decide) (Keeps.refl _ _))))
  · have step := unconfirmed_words prior s
    have held : clapState (unconfirmed prior s) = prior := setClapState_state small _ _
    have kept {r : Row} (hr : 64 ≤ r.off ∧ r.off < 4096 ∧ r.s1 = 0) := getF_record (quiet_clap hr) pgClap 0x55 (unconfirmed prior s)
    refine does_reach rfl (does (exec_clapConfirmTimeout claimed waits) ⟨quietBut_record _ _ (quietBut_of_regsBut step.words), (kept (by decide)).trans held,
      (kept (by decide)).trans (clapHolder_step step (by decide)), ?_, codeIn_record (by decide) (by decide) (by decide) _⟩)
    rw [record_clap, unconfirmed, setClapState_clap, modClap]
  · exact does (confirms.trans (congrArg _ (confirm_unclaimed (s := at_ t s) none _ _ t))) (clapRefusal (by decide) t s)
  · exact does (exec_clapConfirmTimeout_idle none) rfl
  · exact does ((exec_clapHoldRel i t s).trans (congrArg _ (holdRel_grants (s := at_ t s) holder had (by simp [confirmed]) t))) (grantClapper_shows claimed t)
  · exact does ((exec_clapGrantTimeout confirmed t).trans (by rw [if_pos late])) (grantClapper_shows claimed t)
  · exact does ((exec_clapGrantTimeout confirmed t).trans (by rw [if_neg (Nat.not_le.2 early)])) rfl
  · refine does ((exec_clapHoldRel i t s).trans (congrArg _ (holdRel_noted (s := at_ t s) holder had waits t))) ⟨?_, rfl, rfl⟩
    exact samesBut_after_at (by decide) (samesBut_keeps (modClap_keeps _ (by decide) (Keeps.refl _ _)))
  · exact does ((exec_clapHoldRel i t s).trans (congrArg _ (holdRel_other (s := at_ t s) holder t))) rfl
  · obtain ⟨words, offers, same⟩ := setClapState_shows (st := 2) (by decide) t (at_ t s)
    refine does ((exec_clapRelease hm mh t s).trans (congrArg _ (releaseClap_offers (s := at_ t s) held holder ready t))) ⟨?_, words, offers, same.trans holder, ?_⟩
    · exact samesBut_after_at (by decide) (samesBut_mono (by simp) (setClapState_same 2 t (at_ t s)))
    · rw [setClapState_clap, if_pos (Or.inr (Or.inl rfl)), at_clap]
  · exact does ((exec_clapRelease hm mh t s).trans (congrArg _ (releaseClap_refused (s := at_ t s) no t))) (clapRefusal (by decide) t s)
  · obtain ⟨words, held, same⟩ := setClapState_shows (st := 1) (by decide) s.io.now s
    refine does (exec_clapOfferTimeout offer) ⟨setClapState_same 1 _ s, words, held, same, ?_⟩
    rw [setClapState_clap, if_pos (Or.inl rfl)]
  · exact does (exec_clapOfferTimeout_not offer) rfl

end Sys2Proof.Machine
end

section
/-! PROOFS. Chapter 12: heartbeats, lapse and the safe state in the hub (R321, R322, R330 to R332). -/

namespace Sys2Proof.Machine

open Sys2Proof

variable {s t u : State} {i n : Nat} {who : Agent} {rs : List Row}

theorem ClapStep.kept (h : ClapStep rs s t) {r : Row} (hr : (rs.all fun x => apart x r) = true) : getF t pgClap r = getF s pgClap r := h.fields r hr

theorem clapStep_at (n : Nat) (s : State) : ClapStep rs s (at_ n s) := clapStep_same rfl

theorem grows_at (n : Nat) (s : State) : grows s (at_ n s) := grows_same rfl (grows_refl s)

/-- A refusal of the Clapper. -/
theorem clapRefusalNow {k : Nat} (hk : k < 256) (s : State) :
    let u := record pgClap k s
    samesBut report s u ∧ quietBut [] s u ∧ codeIn u pgClap k :=
  ⟨samesBut_recordAt pgClap k 0 0xFF _, quietBut_record _ _ (quietBut_refl [] s), codeIn_record (by decide) (by decide) hk _⟩

/-! ### Heartbeats and LIVE writes (R321, R322) -/

theorem exec_clapHeartbeat (hi : i < 2) (hc : controls who = true) (hh : who ≠ .host) (s : State) :
    exec (.clapHeartbeat who i) s = .next (if who = .island i then heartbeat i s else record pgClap 0x52 s) := by
  refine congrArg Host.Outcome.next ((if_pos hi).trans ((asIsland_eq hc hh (by omega) _ _ _).trans ?_))
  simp only [decide_eq_true_eq]

theorem exec_clapLive (hi : i < 2) (hc : controls who = true) (hh : who ≠ .host) (s : State) :
    exec (.clapLive who i) s = .next (if who = .island i then live i s else record pgClap 0x52 s) := by
  refine congrArg Host.Outcome.next ((if_pos hi).trans ((asIsland_eq hc hh (by omega) _ _ _).trans ?_))
  simp only [decide_eq_true_eq]

theorem heartbeat_holder (b : beats s = true) (h : clapHolder s = i) :
    heartbeat i s = emit (.island i .ack) (setF pgClap Reg.CLAP_STAT_MISSED 0 (modClap (fun c => { c with hb := true }) s)) := if_pos ⟨b, h.symm⟩

theorem heartbeat_other (h : beats s = false ∨ clapHolder s ≠ i) : heartbeat i s = emit (.island i .error) s :=
  if_neg fun ⟨b, k⟩ => h.elim (by simp [b]) (· k.symm)

theorem clapStep_live (i : Nat) (s : State) : ClapStep [Reg.CLAP_STAT_MON_READY] s (live i s) :=
  clapStep_trans (clapStep_same (modClap_regs ..)) (clapStep_trans (clapStep_showMon _) (clapStep_same rfl))

theorem live_clap (i : Nat) (s : State) : (live i s).clap = { s.clap with live := s.clap.live.set i true, missed := s.clap.missed.set i 0 } := by
  rw [live, emit_clap, showMon_clap, modClap]

theorem live_acks (i : Nat) (s : State) : puts (.island i .ack) s (live i s) := puts_emit _ (grows_same (by rw [showMon_io, modClap_io]) (grows_refl s))

/-! ### The lapse (R321) -/

theorem lapse_eq (h : s.clap.claim = none) (n : Nat) :
    lapse n s = emit (.island (1 - clapHolder s) .lapsed) (record pgClap 0x53 (bump pgClap Reg.CLAP_LAPSES 1 (setClapState 4 n s))) := by
  rw [← clapHolder_step (setClapState_words 4 n s) (by decide)]
  unfold lapse
  rw [h]

/-- What a lapse writes and tells, after a step in STAT that leaves the state and the holder. -/
def lapsedFrom (s u : State) : Prop :=
  quietBut [clapStat, pageBase pgClap + 0x88] s u ∧ clapState u = 4 ∧ clapHolder u = clapHolder s ∧ getF u pgClap Reg.CLAP_LAPSES = satAdd 32 (getF s pgClap Reg.CLAP_LAPSES) 1 ∧
    codeIn u pgClap 0x53 ∧ puts (.island (1 - clapHolder s) .lapsed) s u

/-- A field of the CLAP page over the record and the message of a lapse. -/
theorem getF_lapsed {r : Row} (h : (64 ≤ r.off ∧ r.off < 4096 ∧ r.s1 = 0)) (i : Nat) (s : State) :
    getF (emit (.island i .lapsed) (record pgClap 0x53 s)) pgClap r = getF s pgClap r := by rw [getF_emit, getF_record (quiet_clap h)]

theorem lapse_shows (h : t.clap.claim = none) (step : ClapStep [Reg.CLAP_STAT_MISSED] s t) (out : grows s t) (n : Nat) : lapsedFrom s (lapse n t) := by
  have holder : clapHolder t = clapHolder s := clapHolder_step step (by decide)
  rw [lapse_eq h, holder]
  refine ⟨?_, ?_, ?_, ?_, codeIn_record (by decide) (by decide) (by decide) _, ?_⟩
  · exact quietBut_emit _ (quietBut_record _ _ (quietBut_bump 1 (by decide)
      (quietBut_trans (quietBut_mono (by simp) (quietBut_of_regsBut step.words)) (quietBut_mono (by simp) (quietBut_of_regsBut (setClapState_words 4 n t).words)))))
  · rw [clapState, getF_lapsed (by decide), getF_bump_apart (by decide) (by decide)]
    exact setClapState_state (by decide) n t
  · rw [clapHolder, getF_lapsed (by decide), getF_bump_apart (by decide) (by decide)]
    exact (clapHolder_step (setClapState_words 4 n t) (by decide)).trans holder
  · rw [getF_lapsed (by decide), getF_bump_same (by decide), (setClapState_words 4 n t).kept (by decide), step.kept (by decide)]
    rfl
  · exact puts_emit _ (grows_trans out (grows_trans (grows_same (by rw [bump_io, setClapState_io]) (grows_refl t)) (grows_record _ _ _)))

theorem lapse_missed (h : s.clap.claim = none) (n : Nat) : getF (lapse n s) pgClap Reg.CLAP_STAT_MISSED = getF s pgClap Reg.CLAP_STAT_MISSED := by
  rw [lapse_eq h, getF_lapsed (by decide), getF_bump_apart (by decide) (by decide), (setClapState_words 4 n s).kept (by decide)]

theorem lapse_clap (h : s.clap.claim = none) (n : Nat) : ∃ x, (lapse n s).clap = { s.clap with idle := x } := by
  rw [lapse_eq h, emit_clap, record_clap, bump_clap, setClapState_clap]
  exact ⟨_, rfl⟩

/-! ### The end of a heartbeat period (R321, R322) -/

theorem exec_heartbeatPeriodEnd (h : s.clap.granted = true) (n : Nat) : exec (.heartbeatPeriodEnd n) s = .next (livePeriod (holderPeriod n (at_ n s))) :=
  congrArg Host.Outcome.next (if_pos h)

theorem exec_heartbeatPeriodEnd_free (h : s.clap.granted = false) (n : Nat) : exec (.heartbeatPeriodEnd n) s = .next s :=
  congrArg Host.Outcome.next (if_neg (by simp [h]))

theorem holderPeriod_beaten (b : beats s = true) (hb : s.clap.hb = true) (n : Nat) : holderPeriod n s = modClap (fun c => { c with hb := false }) s :=
  (if_pos b).trans (if_pos hb)

theorem holderPeriod_missed {m : Nat} (b : beats s = true) (hb : s.clap.hb = false) (hm : getF s pgClap Reg.CLAP_STAT_MISSED = m) (small : m < 2) (n : Nat) :
    holderPeriod n s = setF pgClap Reg.CLAP_STAT_MISSED (m + 1) s := by
  have sat : satAdd 2 m 1 = m + 1 := Nat.min_eq_left (by omega)
  refine (if_pos b).trans ((if_neg (by simp [hb])).trans ?_)
  rw [hm, sat]
  exact if_neg (by omega)

theorem holderPeriod_lapses (b : beats s = true) (hb : s.clap.hb = false) (hm : getF s pgClap Reg.CLAP_STAT_MISSED = 2) (n : Nat) :
    holderPeriod n s = lapse n (setF pgClap Reg.CLAP_STAT_MISSED 3 s) := by
  have sat : satAdd 2 2 1 = 3 := rfl
  refine (if_pos b).trans ((if_neg (by simp [hb])).trans ?_)
  rw [hm, sat]
  exact if_pos rfl

/-- The count of each island's missed periods as monitor, after this period. -/
def missedNext (s : State) : List Nat := (List.range 2).map fun j => if s.clap.live.getD j false then 0 else Nat.min 3 (nth0 s.clap.missed j + 1)

theorem clapStep_livePeriod (s : State) : ClapStep [Reg.CLAP_STAT_MON_READY] s (livePeriod s) :=
  clapStep_trans (clapStep_same (modClap_regs ..)) (clapStep_showMon _)

theorem livePeriod_io (s : State) : (livePeriod s).io = s.io := by rw [livePeriod, showMon_io, modClap_io]

theorem livePeriod_clap (s : State) : (livePeriod s).clap = { s.clap with live := [false, false], missed := missedNext s } := by
  rw [livePeriod, showMon_clap, modClap, missedNext]

theorem missedNext_congr (hl : t.clap.live = s.clap.live) (hm : t.clap.missed = s.clap.missed) : missedNext t = missedNext s := by simp only [missedNext, hl, hm]

/-- The lapse stands after the monitor's count. -/
theorem lapsedFrom_live (h : lapsedFrom s u) : lapsedFrom s (livePeriod u) := by
  obtain ⟨words, state, holder, count, code, told⟩ := h
  have step := clapStep_livePeriod u
  exact ⟨quietBut_trans words (quietBut_mono (by simp) (quietBut_of_regsBut step.words)), (clapState_step step (by decide)).trans state, (clapHolder_step step (by decide)).trans holder,
    (step.kept (by decide)).trans count, codeIn_regsBut step.words (by decide) code, puts_grows (grows_same (by rw [livePeriod_io]) (grows_refl u)) told⟩

/-! ### Abdication (R321) -/

theorem exec_clapAbdicate (i n : Nat) (s : State) : exec (.clapAbdicate (.islandHw i) n) s = .next (abdicate i n (at_ n s)) := rfl

theorem abdicate_holder (b : beats s = true) (h : clapHolder s = i) (n : Nat) : abdicate i n s = lapse n s := if_pos ⟨b, h.symm⟩

theorem abdicate_other (h : beats s = false ∨ clapHolder s ≠ i) (n : Nat) : abdicate i n s = s := if_neg fun ⟨b, k⟩ => h.elim (by simp [b]) (· k.symm)

/-! ### The hub enters the safe state (R330, R331) -/

/-- The registers of the safe state: SAFE with its cause, and one entry more. -/
def safeRegs (k : Nat) (s : State) : State := bump pgClap Reg.CLAP_SAFE_ENTRIES 1 (setF pgClap Reg.CLAP_STAT_CAUSE k (setF pgClap Reg.CLAP_STAT_SAFE 1 s))

theorem safeRegs_words (k : Nat) (s : State) : regsBut [clapStat, pageBase pgClap + 0x8C] s (safeRegs k s) :=
  regsBut_bump 1 (by decide) (regsBut_setF _ (by decide) (regsBut_setF _ (by decide) (regsBut_refl _ s)))

theorem safeRegs_fields {k : Nat} (hk : k < 16) (s : State) :
    let u := safeRegs k s
    getF u pgClap Reg.CLAP_STAT_SAFE = 1 ∧ getF u pgClap Reg.CLAP_STAT_CAUSE = k ∧ clapState u = clapState s ∧ getF u pgClap Reg.CLAP_SAFE_ENTRIES = satAdd 32 (getF s pgClap Reg.CLAP_SAFE_ENTRIES) 1 := by
  refine ⟨?_, ?_, ?_, ?_⟩
  · rw [safeRegs, getF_bump_apart (by decide) (by decide), getF_setF_apart (by decide) (by decide), getF_setF_same (by decide)]
    rfl
  · rw [safeRegs, getF_bump_apart (by decide) (by decide), getF_setF_same (by decide)]
    exact Nat.mod_eq_of_lt hk
  · rw [clapState, safeRegs, getF_bump_apart (by decide) (by decide), getF_setF_apart (by decide) (by decide), getF_setF_apart (by decide) (by decide), clapState]
  · rw [safeRegs, getF_bump_same (by decide), getF_setF_apart (by decide) (by decide), getF_setF_apart (by decide) (by decide)]
    rfl

/-- Both islands are told of the safe state, and SAFE_N_OUT goes low. -/
def announceSafe (k : Nat) (s : State) : State := emit (.safeOut false) (modClap (fun c => { c with safeBars := 0, safeOut := false })
  (emit (.island 1 (.safe k)) (emit (.island 0 (.safe k)) s)))

theorem announceSafe_regs (k : Nat) (s : State) : (announceSafe k s).regs = s.regs := rfl

theorem announceSafe_clap (k : Nat) (s : State) : (announceSafe k s).clap = { s.clap with safeBars := 0, safeOut := false } := rfl

theorem announceSafe_puts (h : grows s t) (k : Nat) :
    let u := announceSafe k t
    puts (.island 0 (.safe k)) s u ∧ puts (.island 1 (.safe k)) s u ∧ puts (.safeOut false) s u := by
  have last (v : State) : grows v (emit (.safeOut false) (modClap (fun c => { c with safeBars := 0, safeOut := false }) v)) := grows_emit _ (grows_same rfl (grows_refl v))
  have second : grows s (emit (.island 1 (.safe k)) (emit (.island 0 (.safe k)) t)) := grows_emit _ (grows_emit _ h)
  exact ⟨puts_grows (grows_trans (grows_emit _ (grows_refl _)) (last _)) (puts_emit _ h), puts_grows (last _) (puts_emit _ (grows_emit _ h)), puts_emit _ (grows_same rfl second)⟩

theorem enterSafe_eq (k : Nat) (s : State) : enterSafe k s = announceSafe k (record pgClap 0x58 (safeRegs k s)) := rfl

/-- The hub is in the safe state with its cause: both islands are told and SAFE_N_OUT is low. -/
def enteredSafe (k : Nat) (s u : State) : Prop :=
  samesBut (report ++ [.clap]) s u ∧ quietBut [clapStat, pageBase pgClap + 0x8C] s u ∧ safeState u = true ∧ getF u pgClap Reg.CLAP_STAT_CAUSE = k ∧ clapState u = clapState s ∧
    getF u pgClap Reg.CLAP_SAFE_ENTRIES = satAdd 32 (getF s pgClap Reg.CLAP_SAFE_ENTRIES) 1 ∧
    codeIn u pgClap 0x58 ∧ puts (.island 0 (.safe k)) s u ∧ puts (.island 1 (.safe k)) s u ∧ puts (.safeOut false) s u ∧ u.clap = { s.clap with safeBars := 0, safeOut := false }

theorem enterSafe_shows {k : Nat} (hk : k < 16) (n : Nat) (s : State) : enteredSafe k s (enterSafe k (at_ n s)) := by
  have same : samesBut (report ++ [.clap]) s (enterSafe k (at_ n s)) := samesBut_keeps (enterSafe_keeps k (by decide) (at_keeps n (by decide) (Keeps.refl _ s)))
  obtain ⟨safe, cause, state, entries⟩ := safeRegs_fields hk (at_ n s)
  have words := quietBut_of_regsBut (regsBut_trans (regsBut_at n (regsBut_refl _ s)) (safeRegs_words k (at_ n s)))
  have before : grows s (record pgClap 0x58 (safeRegs k (at_ n s))) :=
    grows_trans (grows_at n s) (grows_trans (grows_same (by rw [safeRegs, bump_io, setF_io, setF_io]) (grows_refl _)) (grows_record _ _ _))
  rw [enterSafe_eq] at same ⊢
  have kept {r : Row} (hr : 64 ≤ r.off ∧ r.off < 4096 ∧ r.s1 = 0) : getF (announceSafe k (record pgClap 0x58 (safeRegs k (at_ n s)))) pgClap r = getF (safeRegs k (at_ n s)) pgClap r := by
    rw [getF_congr (announceSafe_regs ..), getF_record (quiet_clap hr)]
  obtain ⟨first, second, low⟩ := announceSafe_puts before k
  refine ⟨same, quietBut_trans (quietBut_record _ _ words) (quietBut_of_regsBut (regsBut_same (announceSafe_regs ..) (regsBut_refl _ _))), ?_, (kept (by decide)).trans cause,
    (kept (by decide)).trans state, (kept (by decide)).trans entries, ?_, first, second, low, ?_⟩
  · rw [safeState, flag, kept (by decide), safe]
    rfl
  · exact codeIn_congr (announceSafe_regs ..) (codeIn_record (by decide) (by decide) (by decide) _)
  · rw [announceSafe_clap, record_clap, safeRegs, bump_clap, setF_clap, setF_clap, at_clap]

/-! ### Requests of the safe state (R330) -/

theorem exec_clapSafeReq_hw {k : Nat} (hi : i < 2) (lo : 1 ≤ k) (hi' : k ≤ 6) (n : Nat) (s : State) :
    exec (.clapSafeReq (.islandHw i) i k n) s = .next (safeRequest i k (at_ n s)) :=
  congrArg Host.Outcome.next ((if_pos ⟨hi, lo, hi'⟩).trans (if_pos rfl))

theorem exec_clapSafeReq_island {k : Nat} (hi : i < 2) (lo : 1 ≤ k) (hi' : k ≤ 6) (n : Nat) (s : State) :
    exec (.clapSafeReq (.island i) i k n) s = .next (safeRequest i k (at_ n s)) := by
  refine congrArg Host.Outcome.next ((if_pos ⟨hi, lo, hi'⟩).trans ((if_neg (by simp)).trans ((asIsland_eq (off := 0x74 + 4 * i) (who := .island i) rfl nofun (by omega) _ _ _).trans ?_)))
  simp only [decide_true, ↓reduceIte]

theorem safeRequest_safe (h : safeState s = true) (i k : Nat) : safeRequest i k s = s := if_pos h

theorem safeRequest_honoured (h : safeState s = false) (hc : islandInCharge s = some i ∨ flag s pgClap Reg.CLAP_CFG_MON_SAFE = true) (k : Nat) :
    safeRequest i k s = enterSafe k s := (if_neg (by simp [h])).trans (if_pos hc)

theorem safeRequest_counted (h : safeState s = false) (hc : islandInCharge s ≠ some i) (off : flag s pgClap Reg.CLAP_CFG_MON_SAFE = false) (k : Nat) :
    safeRequest i k s = bump pgClap Reg.CLAP_MON_REQS 1 s := (if_neg (by simp [h])).trans (if_neg (by simp [hc, off]))

theorem exec_noIslandTimeout {m : Nat} (h : s.clap.idle = some m) (late : m + 2000000 ≤ n) (calm : safeState s = false) :
    exec (.noIslandTimeout n) s = .next (enterSafe 7 (at_ n s)) := by
  refine congrArg Host.Outcome.next ?_
  rw [h]
  exact if_pos ⟨late, calm⟩

theorem exec_noIslandTimeout_not (h : s.clap.idle = none ∨ safeState s = true) (n : Nat) : exec (.noIslandTimeout n) s = .next s := by
  refine congrArg Host.Outcome.next ?_
  split
  next m hm =>
    have safe : safeState s = true := h.resolve_left (by simp [hm])
    exact if_neg fun ⟨_, calm⟩ => by simp [safe] at calm
  next => rfl

/-! ### The hub leaves the safe state (R332) -/

/-- The SAFE latch of an island clears, and its pair follows. -/
def clearLatch (i : Nat) (s : State) : State := showValid i (modIsl i (fun x => { x with cause := 0, ssf := false }) (setF (pgIsl i) Reg.ISL_STAT_SAFE 0 s))

theorem statStep_clearLatch (i : Nat) (s : State) : StatStep i [Reg.ISL_STAT_SAFE, Reg.ISL_STAT_VALID] s (clearLatch i s) :=
  statStep_trans (statStep_setF rfl (by decide) List.mem_cons_self _ s) (statStep_trans (statStep_modIsl i _ _) (statStep_mono (by simp) (statStep_showValid i _)))

theorem clearLatch_safe (i : Nat) (s : State) : getF (clearLatch i s) (pgIsl i) Reg.ISL_STAT_SAFE = 0 := by
  rw [clearLatch, (statStep_showValid i _).fields _ (by decide), getF_modIsl, getF_setF_same (by decide)]
  rfl

theorem clearLatch_clap (i : Nat) (s : State) : (clearLatch i s).clap = s.clap := by
  rw [clearLatch, (showValid_same i _).2 .clap (by decide), modIsl_clap, setF_clap]

/-- Both latches are clear, the hub's SAFE with its cause is, and SAFE_N_OUT is high. -/
def safeLeft (s : State) : State :=
  record pgClap 0x59 (emit (.safeOut true) (modClap (fun c => { c with safeOut := true }) (clearLatch 1 (clearLatch 0 (setF pgClap Reg.CLAP_STAT_CAUSE 0 (setF pgClap Reg.CLAP_STAT_SAFE 0 s))))))

theorem leaveSafe_eq (s : State) :
    leaveSafe s = queueFrame (clapHolder (safeLeft s)) 1 2 (queueFrame (clapHolder (safeLeft s)) 0 2 (safeLeft s)) := by
  simp only [leaveSafe, List.foldl, safeLeft, clearLatch]

/-- The frames that are queued then are the islands' own. -/
theorem leaveSafe_same (s : State) : samesBut [.isl] (safeLeft s) (leaveSafe s) := by
  rw [leaveSafe_eq]
  exact samesBut_keeps (queueFrame_keeps _ 1 2 (by decide) (queueFrame_keeps _ 0 2 (by decide) (Keeps.refl _ _)))

theorem leaveSafe_regs (s : State) : (leaveSafe s).regs = (safeLeft s).regs := (leaveSafe_same s).2 .regs (by decide)

theorem leaveSafe_io (s : State) : (leaveSafe s).io = (safeLeft s).io := (leaveSafe_same s).2 .io (by decide)

theorem leaveSafe_clap (s : State) : (leaveSafe s).clap = { s.clap with safeOut := true } := by
  have e : (leaveSafe s).clap = (safeLeft s).clap := (leaveSafe_same s).2 .clap (by decide)
  rw [e, safeLeft, record_clap, emit_clap, modClap, clearLatch_clap, clearLatch_clap, setF_clap, setF_clap]

theorem leaveSafe_fields (s : State) :
    let u := leaveSafe s
    getF u pgClap Reg.CLAP_STAT_SAFE = 0 ∧ getF u pgClap Reg.CLAP_STAT_CAUSE = 0 ∧ getF u (pgIsl 0) Reg.ISL_STAT_SAFE = 0 ∧ getF u (pgIsl 1) Reg.ISL_STAT_SAFE = 0 := by
  have hub {r : Row} (hr : 64 ≤ r.off ∧ r.off < 4096 ∧ r.s1 = 0) :
      getF (leaveSafe s) pgClap r = getF (setF pgClap Reg.CLAP_STAT_CAUSE 0 (setF pgClap Reg.CLAP_STAT_SAFE 0 s)) pgClap r := by
    rw [getF_congr (leaveSafe_regs s), safeLeft, getF_record (quiet_clap hr), getF_emit, getF_modClap, (statStep_clearLatch 1 _).hub (by decide) hr.2,
      (statStep_clearLatch 0 _).hub (by decide) hr.2]
  have latch (i : Nat) : getF (leaveSafe s) (pgIsl i) Reg.ISL_STAT_SAFE =
      getF (clearLatch 1 (clearLatch 0 (setF pgClap Reg.CLAP_STAT_CAUSE 0 (setF pgClap Reg.CLAP_STAT_SAFE 0 s)))) (pgIsl i) Reg.ISL_STAT_SAFE := by
    have quiet : quiet (fieldAddr (pgIsl i) Reg.ISL_STAT_SAFE 0 0) := quiet_isl (a := 0x40) (by decide) i
    rw [getF_congr (leaveSafe_regs s), safeLeft, getF_record quiet, getF_emit, getF_modClap]
  refine ⟨?_, ?_, ?_, (latch 1).trans (clearLatch_safe 1 _)⟩
  · rw [hub (by decide), getF_setF_apart (by decide) (by decide), getF_setF_same (by decide)]
    rfl
  · rw [hub (by decide), getF_setF_same (by decide)]
    rfl
  · rw [latch 0, (statStep_clearLatch 1 _).getF_word (by decide), clearLatch_safe 0]

theorem leaveSafe_code (s : State) : codeIn (leaveSafe s) pgClap 0x59 :=
  codeIn_congr (leaveSafe_regs s) (codeIn_record (by decide) (by decide) (by decide) _)

theorem leaveSafe_out (s : State) : puts (.safeOut true) s (leaveSafe s) := by
  have before : grows s (clearLatch 1 (clearLatch 0 (setF pgClap Reg.CLAP_STAT_CAUSE 0 (setF pgClap Reg.CLAP_STAT_SAFE 0 s)))) :=
    grows_trans (grows_same (by rw [setF_io, setF_io]) (grows_refl s)) (grows_trans (statStep_clearLatch 0 _).out (statStep_clearLatch 1 _).out)
  exact puts_grows (grows_trans (grows_record _ _ _) (grows_same (by rw [leaveSafe_io, safeLeft]) (grows_refl _))) (puts_emit _ (grows_same (by rw [modClap_io]) before))

/-! ### SAFE_CLR (R332) -/

theorem exec_safeClr (hc : controls who = true) (hh : who ≠ .host) (s : State) : exec (.safeClr who) s = .next (clearSafe who s) :=
  congrArg Host.Outcome.next (asGuarded_hub hc hh (by decide) _ _)

/-- The level of SAFE_N_IN now: a free value once it has been low (log entry 19). -/
def safeLevel (s : State) : Bool := s.clap.safeIn || decide (Config.free s.io.fresh % 2 = 1)

theorem readSafeIn_level (s : State) : (readSafeIn s).1 = safeLevel s := by
  unfold readSafeIn safeLevel
  cases s.clap.safeIn <;> rfl

theorem readSafeIn_regs (s : State) : (readSafeIn s).2.regs = s.regs := by
  unfold readSafeIn
  split <;> rfl

theorem readSafeIn_outbox (s : State) : (readSafeIn s).2.io.outbox = s.io.outbox := by
  unfold readSafeIn
  split <;> rfl

theorem readSafeIn_same (s : State) : samesBut [.io, .clap] s (readSafeIn s).2 := samesBut_keeps (readSafeIn_keeps (by decide) (Keeps.refl _ s))

theorem readSafeIn_clap (s : State) : (readSafeIn s).2.clap = { s.clap with safeIn := safeLevel s } := by
  unfold readSafeIn safeLevel
  generalize hc : s.clap = c
  obtain ⟨⟩ := c
  split <;> simp_all [modClap, drawFree]

/-- The level is read before the conditions are, and they do not depend on having read it. -/
theorem safeExitOk_read (s : State) (who : Agent) (high : Bool) : safeExitOk (readSafeIn s).2 who high = safeExitOk s who high := by
  have f (p : Page) (r : Row) : getF (readSafeIn s).2 p r = getF s p r := getF_congr (readSafeIn_regs s) p r
  have charge : inCharge (readSafeIn s).2 who = inCharge s who := by
    cases who with
    | island i => rw [inCharge, islandInCharge_regs (readSafeIn_regs s), inCharge]
    | _ => rfl
  have safe : safeState (readSafeIn s).2 = safeState s := flag_eq (f _ _)
  have state : clapState (readSafeIn s).2 = clapState s := f _ _
  have holder : clapHolder (readSafeIn s).2 = clapHolder s := f _ _
  have current (i : Nat) : safetyCurrent (readSafeIn s).2 i = safetyCurrent s i :=
    (statStep_same (i := i) (rs := []) (readSafeIn_regs s) (grows_same (readSafeIn_outbox s) (grows_refl s))).safetyCurrent
  rw [safeExitOk, safe, state, charge, holder, current, f, readSafeIn_clap, safeExitOk]

theorem clearSafe_leaves (h : safeExitOk s who (safeLevel s) = true) : clearSafe who s = leaveSafe (readSafeIn s).2 :=
  if_pos (by rw [safeExitOk_read, readSafeIn_level, h])

theorem clearSafe_refused (h : safeExitOk s who (safeLevel s) = false) : clearSafe who s = record pgClap 0x5E (readSafeIn s).2 :=
  if_neg (by rw [safeExitOk_read, readSafeIn_level, h]; exact Bool.false_ne_true)

/-- Settles O55: each command is a step in CLAP.STAT and its counters, shown by its lemma above. -/
theorem clapperSafeState : Obligations.ClapperSafeState := by
  unfold Obligations.ClapperSafeState
  intro who i cause t n s hi hc hh me stat refusal lapsed entered missed high
  have hm : controls me = true := rfl
  have mh : me ≠ .host := nofun
  have beat := (exec_clapHeartbeat hi hm mh s).trans (congrArg _ (if_pos rfl))
  refine ⟨fun b holder => ?_, fun no => ?_, fun other => ⟨?_, ?_⟩, ?_, fun free => ?_, fun granted b => ⟨fun hb => ?_, fun hb count small => ?_, fun hb count unclaimed => ?_⟩, fun b holder unclaimed => ?_,
    fun no => ?_, fun lo hi' => ⟨fun safe => ?_, fun calm charge => ⟨?_, ?_⟩, fun calm charge off => ?_⟩, fun idle late calm => ?_, fun no => ?_, fun ok => ?_, fun no => ?_⟩
  · refine does (beat.trans (congrArg _ (heartbeat_holder b holder))) ⟨?_, ?_, ?_, ?_, ?_, ?_⟩
    · rw [← heartbeat_holder b holder]
      exact samesBut_keeps (heartbeat_keeps i (by decide) (Keeps.refl _ s))
    · exact regsBut_emit _ (regsBut_setF _ (by decide) (regsBut_same (modClap_regs ..) (regsBut_refl _ s)))
    · rw [getF_emit, getF_setF_same (by decide)]
      rfl
    · rw [clapState, getF_emit, getF_setF_apart (by decide) (by decide), getF_modClap, clapState]
    · rw [emit_clap, setF_clap, modClap]
    · exact puts_emit _ (grows_same (by rw [setF_io, modClap_io]) (grows_refl s))
  · exact does (beat.trans (congrArg _ (heartbeat_other no))) ⟨samesBut_emit _ s, puts_emit _ (grows_refl s)⟩
  · exact does ((exec_clapHeartbeat hi hc hh s).trans (congrArg _ (if_neg other))) (clapRefusalNow (by decide) s)
  · exact does ((exec_clapLive hi hc hh s).trans (congrArg _ (if_neg other))) (clapRefusalNow (by decide) s)
  · have step := clapStep_live i s
    exact does ((exec_clapLive hi hm mh s).trans (congrArg _ (if_pos rfl))) ⟨samesBut_keeps (live_keeps i (by decide) (Keeps.refl _ s)), step.words, live_clap i s, clapState_step step (by decide),
      clapHolder_step step (by decide), live_acks i s⟩
  · exact does (exec_heartbeatPeriodEnd_free free t) rfl
  · have step : ClapStep [Reg.CLAP_STAT_MON_READY] s (livePeriod (modClap (fun c => { c with hb := false }) (at_ t s))) :=
      clapStep_trans (clapStep_at t s) (clapStep_trans (clapStep_same (modClap_regs ..)) (clapStep_livePeriod _))
    refine does ((exec_heartbeatPeriodEnd granted t).trans (congrArg (Host.Outcome.next ∘ livePeriod) (holderPeriod_beaten (s := at_ t s) b hb t))) ⟨?_, step.words, ?_, step.kept (by decide), clapState_step step (by decide), ?_⟩
    · exact samesBut_keeps (livePeriod_keeps (by decide) (modClap_keeps _ (by decide) (at_keeps t (by decide) (Keeps.refl _ s))))
    · rw [livePeriod_io, modClap_io]
      rfl
    · rw [livePeriod_clap]
      rfl
  · have step := clapStep_trans (clapStep_at t s) (clapStep_setF (rs := [Reg.CLAP_STAT_MISSED]) rfl (by decide) List.mem_cons_self (n + 1) (at_ t s))
    have after := clapStep_livePeriod (setF pgClap Reg.CLAP_STAT_MISSED (n + 1) (at_ t s))
    refine does ((exec_heartbeatPeriodEnd granted t).trans (congrArg (Host.Outcome.next ∘ livePeriod) (holderPeriod_missed (s := at_ t s) b hb count small t))) ⟨?_, ?_, ?_, ?_, ?_, ?_⟩
    · exact samesBut_keeps (livePeriod_keeps (by decide) (setF_keeps _ _ _ (by decide) (at_keeps t (by decide) (Keeps.refl _ s))))
    · exact regsBut_trans step.words after.words
    · rw [livePeriod_io, setF_io]
      rfl
    · rw [after.kept (by decide), getF_setF_same (by decide)]
      exact Nat.mod_eq_of_lt (show n + 1 < 4 by omega)
    · exact (clapState_step after (by decide)).trans (clapState_step step (by decide))
    · rw [livePeriod_clap, setF_clap]
      rfl
  · have step := clapStep_trans (clapStep_at t s) (clapStep_setF (rs := [Reg.CLAP_STAT_MISSED]) rfl (by decide) List.mem_cons_self 3 (at_ t s))
    have free : (setF pgClap Reg.CLAP_STAT_MISSED 3 (at_ t s)).clap.claim = none := by rw [setF_clap]; exact unclaimed
    have fell := lapsedFrom_live (lapse_shows free step (grows_trans (grows_at t s) (grows_same (by rw [setF_io]) (grows_refl _))) t)
    obtain ⟨x, kept⟩ := lapse_clap free t
    have clap := livePeriod_clap (lapse t (setF pgClap Reg.CLAP_STAT_MISSED 3 (at_ t s)))
    have run := (exec_heartbeatPeriodEnd granted t).trans (congrArg (Host.Outcome.next ∘ livePeriod) (holderPeriod_lapses (s := at_ t s) b hb count t))
    have same : samesBut (report ++ [.clap]) s (livePeriod (lapse t (setF pgClap Reg.CLAP_STAT_MISSED 3 (at_ t s)))) :=
      samesBut_keeps (livePeriod_keeps (by decide) (lapse_keeps t (by decide) (setF_keeps _ _ _ (by decide) (at_keeps t (by decide) (Keeps.refl _ s)))))
    refine does run ⟨⟨same, fell⟩, ?_, congrArg (·.live) clap, (congrArg (·.missed) clap).trans (missedNext_congr ?_ ?_)⟩
    · rw [(clapStep_livePeriod _).kept (by decide), lapse_missed free, getF_setF_same (by decide)]
      rfl
    · rw [kept, setF_clap]
      rfl
    · rw [kept, setF_clap]
      rfl
  · exact does ((exec_clapAbdicate i t s).trans (congrArg _ (abdicate_holder (s := at_ t s) b holder t)))
      ⟨samesBut_keeps (lapse_keeps t (by decide) (at_keeps t (by decide) (Keeps.refl _ s))), lapse_shows (t := at_ t s) unclaimed (clapStep_at t s) (grows_at t s) t⟩
  · exact does ((exec_clapAbdicate i t s).trans (congrArg _ (abdicate_other (s := at_ t s) no t))) rfl
  · exact does ((exec_clapSafeReq_hw hi lo hi' t s).trans (congrArg _ (safeRequest_safe (s := at_ t s) safe i cause))) rfl
  · exact does ((exec_clapSafeReq_hw hi lo hi' t s).trans (congrArg _ (safeRequest_honoured (s := at_ t s) calm charge cause))) (enterSafe_shows (by omega) t s)
  · exact does ((exec_clapSafeReq_island hi lo hi' t s).trans (congrArg _ (safeRequest_honoured (s := at_ t s) calm charge cause))) (enterSafe_shows (by omega) t s)
  · refine does ((exec_clapSafeReq_hw hi lo hi' t s).trans (congrArg _ (safeRequest_counted (s := at_ t s) calm charge off cause))) ⟨?_, ?_, ?_, ?_⟩
    · exact samesBut_keeps (bump_keeps _ _ _ (by decide) (at_keeps t (by decide) (Keeps.refl _ s)))
    · exact regsBut_bump 1 (by decide) (regsBut_at t (regsBut_refl _ s))
    · rw [bump_io]
      rfl
    · rw [getF_bump_same (by decide), getF_at]
      rfl
  · exact does (exec_noIslandTimeout idle late calm) (enterSafe_shows (by decide) t s)
  · exact does (exec_noIslandTimeout_not no t) rfl
  · obtain ⟨safe, uncaused, first, second⟩ := leaveSafe_fields (readSafeIn s).2
    refine does ((exec_safeClr hc hh s).trans (congrArg _ (clearSafe_leaves ok))) ⟨?_, flag_false_iff.2 safe, uncaused, first, second, leaveSafe_code _, ?_, ?_⟩
    · rw [← clearSafe_leaves ok]
      exact samesBut_keeps (clearSafe_keeps who (by decide) (Keeps.refl _ s))
    · exact puts_after (grows_same (readSafeIn_outbox s) (grows_refl s)) (leaveSafe_out _)
    · rw [leaveSafe_clap, readSafeIn_clap]
      rfl
  · obtain ⟨same, words, code⟩ := clapRefusalNow (k := 0x5E) (by decide) (readSafeIn s).2
    refine does ((exec_safeClr hc hh s).trans (congrArg _ (clearSafe_refused no))) ⟨?_, ?_, code, ?_⟩
    · exact samesBut_trans (samesBut_mono (by decide) (readSafeIn_same s)) (samesBut_mono (by decide) same)
    · exact quietBut_trans (quietBut_of_regsBut (regsBut_same (readSafeIn_regs s) (regsBut_refl _ s))) words
    · rw [record_clap, readSafeIn_clap]
      rfl

end Sys2Proof.Machine
end

section
/-! PROOFS. Chapter 12: what a reset of a page leaves in its fields (R15, R426). -/

namespace Sys2Proof.Machine

open Sys2Proof

variable {s : State} {α : Type} {d : Nat → α} {m : List (Nat × α)} {lo a : Nat} {x : α}

/-! ### Entries of a canonical map -/

theorem sparseRising_le : ∀ {lo : Nat} {m : List (Nat × α)}, sparseRising lo m = true → ∀ {e : Nat × α}, e ∈ m → lo ≤ e.1
  | lo, (b, y) :: r, h, e, he => by
    simp only [sparseRising, Bool.and_eq_true, decide_eq_true_eq] at h
    obtain ⟨low, rest⟩ := h
    obtain rfl | he := List.mem_cons.1 he
    · exact low
    · exact (Nat.le_succ_of_le low).trans (sparseRising_le rest he)

theorem sparseGet_of_mem : ∀ {lo : Nat} {m : List (Nat × α)}, sparseRising lo m = true → (a, x) ∈ m → sparseGet d m a = x
  | lo, (b, y) :: r, h, he => by
    simp only [sparseRising, Bool.and_eq_true, decide_eq_true_eq] at h
    obtain ⟨_, rest⟩ := h
    obtain same | he := List.mem_cons.1 he
    · obtain ⟨rfl, rfl⟩ := Prod.mk.inj same
      exact if_pos rfl
    · have above : b + 1 ≤ a := sparseRising_le rest he
      exact (if_neg (by omega)).trans (sparseGet_of_mem rest he)

theorem sparseGet_of_absent : ∀ {m : List (Nat × α)}, (∀ e ∈ m, e.1 ≠ a) → sparseGet d m a = d a
  | [], _ => rfl
  | (_, _) :: _, h => (if_neg (h _ List.mem_cons_self)).trans (sparseGet_of_absent fun e he => h e (List.mem_cons_of_mem _ he))

/-! ### Every word of a list stored -/

/-- Each word of the list is stored, as `f` makes it. -/
def setAll (f : Nat × Word → Word) (l : List (Nat × Word)) (s : State) : State := l.foldl (fun t e => setW e.1 (f e) t) s

variable {f : Nat × Word → Word} {l : List (Nat × Word)}

theorem regW_setAll_ne (h : ∀ e ∈ l, e.1 ≠ a) (s : State) : regW (setAll f l s) a = regW s a :=
  List.foldlRecOn (motive := fun u => regW u a = regW s a) _ _ rfl fun u hu e he => (regW_setW_ne (h e he).symm _ u).trans hu

theorem regW_setAll_mem {e : Nat × Word} (h : e ∈ l) (one : ∀ y ∈ l, y.1 = e.1 → y = e) (s : State) : regW (setAll f l s) e.1 = f e := by
  induction l generalizing s with
  | nil => cases h
  | cons y l ih =>
    have rest : ∀ z ∈ l, z.1 = e.1 → z = e := fun z hz => one z (List.mem_cons_of_mem _ hz)
    by_cases again : e ∈ l
    · exact ih again rest _
    · obtain rfl : e = y := (List.mem_cons.1 h).resolve_right again
      exact (regW_setAll_ne (fun z hz k => again (rest z hz k ▸ hz)) _).trans (regW_setW_same _ _ s)

/-! ### A page in reset -/

/-- A word of a page in reset: it was never written and stays so, or it keeps what `resetKeep` keeps. -/
theorem regW_resetPageFrom (wf : regsWf s.regs = true) (p : Page) {off : Nat} (ho : off < 0x1000) :
    (regW s (pageBase p + off) = resetWord (pageBase p + off) ∧ regW (resetPageFrom p 0 s) (pageBase p + off) = resetWord (pageBase p + off)) ∨
      regW (resetPageFrom p 0 s) (pageBase p + off) = resetKeep p off (regW s (pageBase p + off)) := by
  have rising : sparseRising 0 s.regs = true := (Bool.and_eq_true_iff.1 wf).1
  have run : resetPageFrom p 0 s = setAll (fun e => resetKeep p (e.1 - pageBase p) e.2)
    (s.regs.filter fun e => decide (pageBase p + 0 ≤ e.1 ∧ e.1 < pageBase p + 0x1000)) s := rfl
  rw [run]
  by_cases kept : ∃ w, (pageBase p + off, w) ∈ s.regs
  · obtain ⟨w, hw⟩ := kept
    have old : regW s (pageBase p + off) = w := sparseGet_of_mem rising hw
    have hit : (pageBase p + off, w) ∈ s.regs.filter fun e => decide (pageBase p + 0 ≤ e.1 ∧ e.1 < pageBase p + 0x1000) :=
      List.mem_filter.2 ⟨hw, by simpa using ho⟩
    refine Or.inr ((regW_setAll_mem hit (fun y hy k => ?_) s).trans (by rw [old, Nat.add_sub_cancel_left]))
    have same : regW s y.1 = y.2 := sparseGet_of_mem rising (List.mem_of_mem_filter hy)
    exact Prod.ext k (same.symm.trans ((congrArg (regW s) k).trans old))
  · have absent : ∀ e ∈ s.regs, e.1 ≠ pageBase p + off := fun e he k => kept ⟨e.2, k ▸ he⟩
    have old : regW s (pageBase p + off) = resetWord (pageBase p + off) := sparseGet_of_absent absent
    exact Or.inl ⟨old, (regW_setAll_ne (fun e he => absent e (List.mem_of_mem_filter he)) s).trans old⟩

/-! ### A word put together from its fields -/

/-- A word of a page whose fields hold `g`. -/
def fieldsWord (g : Row × Nat × Nat → Nat) (l : List (Row × Nat × Nat)) (v : Nat) : Nat := l.foldl (fun v x => putBits v x.1.lo x.1.w (g x)) v

/-- The fields at an offset of a page lie in the word, and no two share a bit. -/
def tidyWord (p : Page) (off : Nat) : Bool :=
  (rowsAt p off).all (fun x => decide (x.1.lo + x.1.w ≤ 32)) &&
    decide ((rowsAt p off).Pairwise fun x y => x.1.lo + x.1.w ≤ y.1.lo ∨ y.1.lo + y.1.w ≤ x.1.lo)

variable {g : Row × Nat × Nat → Nat} {rs : List (Row × Nat × Nat)}

theorem bitsOf_fieldsWord_apart {lo w : Nat} (h : ∀ x ∈ rs, x.1.lo + x.1.w ≤ lo ∨ lo + w ≤ x.1.lo) (v : Nat) : bitsOf (fieldsWord g rs v) lo w = bitsOf v lo w := by
  refine List.foldlRecOn (motive := fun u => bitsOf u lo w = bitsOf v lo w) _ _ rfl fun u hu x hx => Eq.trans ?_ hu
  exact (h x hx).elim bitsOf_putBits_above bitsOf_putBits_below

theorem bitsOf_fieldsWord {x : Row × Nat × Nat} (hx : x ∈ rs) (tidy : rs.Pairwise fun x y => x.1.lo + x.1.w ≤ y.1.lo ∨ y.1.lo + y.1.w ≤ x.1.lo) (v : Nat) :
    bitsOf (fieldsWord g rs v) x.1.lo x.1.w = g x % 2 ^ x.1.w := by
  induction rs generalizing v with
  | nil => cases hx
  | cons y rs ih =>
    obtain ⟨first, rest⟩ := List.pairwise_cons.1 tidy
    obtain rfl | hx := List.mem_cons.1 hx
    · exact (bitsOf_fieldsWord_apart (fun z hz => (first z hz).symm) _).trans (bitsOf_putBits_same ..)
    · exact ih hx rest _

theorem fieldsWord_lt (fit : ∀ x ∈ rs, x.1.lo + x.1.w ≤ 32) : fieldsWord g rs 0 < 2 ^ 32 :=
  List.foldlRecOn (motive := fun u => u < 2 ^ 32) _ _ (by decide) fun _ hu x hx => putBits_lt _ hu (fit x hx)

/-- A field of such a word. -/
theorem bitsOf_pageWord {p : Page} {off : Nat} (tidy : tidyWord p off = true) {x : Row × Nat × Nat} (hx : x ∈ rowsAt p off) :
    bitsOf (BitVec.ofNat 32 (fieldsWord g (rowsAt p off) 0)).toNat x.1.lo x.1.w = g x % 2 ^ x.1.w := by
  simp only [tidyWord, Bool.and_eq_true, List.all_eq_true, decide_eq_true_eq] at tidy
  obtain ⟨fit, apart⟩ := tidy
  rw [BitVec.toNat_ofNat, Nat.mod_eq_of_lt (fieldsWord_lt fit), bitsOf_fieldsWord hx apart]

/-- A field of a page in reset: the part's own that software does not write stays, any other is at its reset value. -/
theorem getF_resetPageFrom (wf : regsWf s.regs = true) {p : Page} {r : Row} (hr : r.off < 0x1000 ∧ tidyWord p r.off = true ∧ (r, 0, 0) ∈ rowsAt p r.off)
    (place : pageOfAddr (pageBase p + r.off) = some (p, r.off)) :
    getF (resetPageFrom p 0 s) p r = if (r.keep && decide (r.acc = .ro)) = true then getF s p r else fieldReset p r 0 0 % 2 ^ r.w := by
  obtain ⟨ho, tidy, here⟩ := hr
  have field (u : State) : getF u p r = bitsOf (regW u (pageBase p + r.off)).toNat r.lo r.w := by
    simp only [getF, getFij, fieldAddr, Nat.zero_mul, Nat.add_zero]
  have fresh : resetWord (pageBase p + r.off) = BitVec.ofNat 32 (fieldsWord (fun x => fieldReset p x.1 x.2.1 x.2.2) (rowsAt p r.off) 0) := by
    rw [resetWord, place]
    rfl
  have still : getF s p r % 2 ^ r.w = getF s p r := Nat.mod_eq_of_lt (getFij_lt s p r 0 0)
  rw [field, field]
  obtain ⟨old, new⟩ | new := regW_resetPageFrom wf p ho
  · rw [new, old, fresh, bitsOf_pageWord tidy here]
    split <;> rfl
  · rw [new]
    refine (bitsOf_pageWord tidy here).trans ?_
    split
    · rw [← field, still]
    · rfl

end Sys2Proof.Machine
end

section
/-! PROOFS. Chapter 12: island faults, restarts and boot (R313, R315, R323, R325, R336, R434). -/

namespace Sys2Proof.Machine

open Sys2Proof

variable {s t u : State} {i k f v : Nat} {split : Bool} {slots : List (Option Nat)}

/-! ### What the record of a code leaves -/

/-- A record in the Clapper leaves the code that another page shows. -/
theorem codeIn_recordClap {p : Page} (hp : pageBase p ≠ pageBase pgClap ∧ pageBase p ≠ pageBase pgMbx ∧ pageBase p ≠ pageBase pgLdg) (k : Nat) {c : Nat} (h : codeIn s p c) :
    codeIn (record pgClap k s) p c := by
  obtain ⟨clap, mbx, ldg⟩ := hp
  have hq := pageBase_mod p
  have run : record pgClap k s = warnAbout pgClap k (recordPlain pgClap k 0 0xFF s) := if_pos (by simp)
  have e (r : Row) (hr : r.off < 64) : getF (record pgClap k s) p r = getF s p r := by
    have word : fieldAddr p r 0 0 = pageBase p + r.off := by simp only [fieldAddr, Nat.zero_mul, Nat.add_zero]
    have page : (pageBase p + r.off) / 4096 ≠ pageBase pgClap / 4096 := by
      have := pageBase_mod pgClap
      omega
    rw [getF, getFij, run, word, warnAbout_ne (header_of_page mbx ldg (by omega)), recordPlain_page_ne page, getF, getFij, word]
  rwa [codeIn, e _ (by decide), e _ (by decide)]

theorem isl_page (i : Nat) : pageBase (pgIsl i) ≠ pageBase pgClap ∧ pageBase (pgIsl i) ≠ pageBase pgMbx ∧ pageBase (pgIsl i) ≠ pageBase pgLdg := by
  simp only [pageBase]
  omega

/-- A field of an island's page over what is shown of the monitor. -/
theorem getF_showMon_isl {r : Row} (hr : r.off < 4096) (i : Nat) (s : State) : getF (showMon s) (pgIsl i) r = getF s (pgIsl i) r :=
  getF_regsBut (clapStep_showMon s).words (by simp only [fieldAddr, clapStat, pageBase, Nat.zero_mul, List.mem_singleton]; omega)

/-- The code of a fault is recorded in the island's page and the Clapper's, and the monitor's state shown. -/
def faultRecorded (i k : Nat) (s : State) : State := showMon (record pgClap k (record (pgIsl i) k s))

theorem faultRecorded_quiet (i k : Nat) (s : State) : quietBut [clapStat] s (faultRecorded i k s) :=
  quietBut_trans (quietBut_record _ _ (quietBut_record _ _ (quietBut_refl _ s))) (quietBut_of_regsBut (clapStep_showMon _).words)

theorem faultRecorded_codes (hk : k < 256) (i : Nat) (s : State) : codeIn (faultRecorded i k s) (pgIsl i) k ∧ codeIn (faultRecorded i k s) pgClap k := by
  obtain ⟨_, mbx, ldg⟩ := isl_page i
  exact ⟨showMon_code (codeIn_recordClap (isl_page i) k (codeIn_record mbx ldg hk s)), showMon_code (codeIn_record (by decide) (by decide) hk _)⟩

theorem faultRecorded_field {r : Row} (hr : 64 ≤ r.off ∧ r.off < 4096) (i k : Nat) (s : State) : getF (faultRecorded i k s) (pgIsl i) r = getF s (pgIsl i) r := by
  have word : quiet (fieldAddr (pgIsl i) r 0 0) := by
    simpa only [fieldAddr, Nat.zero_mul, Nat.add_zero] using quiet_isl hr i
  rw [faultRecorded, getF_showMon_isl hr.2, getF_record word, getF_record word]

theorem faultRecorded_isl (i k : Nat) (s : State) : (faultRecorded i k s).isl = s.isl := by rw [faultRecorded, showMon_isl, record_isl, record_isl]

theorem faultRecorded_out (i k : Nat) (s : State) : grows s (faultRecorded i k s) := grows_trans (grows_record _ _ _) (grows_trans (grows_record _ _ _) (showMon_out _))

/-! ### A fault (R313) -/

/-- FAULTED with its cause, the cores held. -/
def faultSet (i f : Nat) (s : State) : State :=
  modIsl i (fun x => { x with phase := 2 }) (setF (pgIsl i) Reg.ISL_STAT_FAULT_CAUSE f (setF (pgIsl i) Reg.ISL_STAT_FAULTED 1 s))

/-- A held Clapper is abdicated. -/
def abdicated (i : Nat) (held : Prop) [Decidable held] (s : State) : State := if held then emit (.islWrite i 0x7C 1) s else s

theorem faultIsl_eq (i f k : Nat) (s : State) :
    faultIsl i f k s = faultRecorded i k (abdicated i (islandInCharge s = some i) (showValid i (dropHold i (faultSet i f s)))) := rfl

theorem statStep_faultSet (i f : Nat) (s : State) : StatStep i [Reg.ISL_STAT_FAULTED, Reg.ISL_STAT_FAULT_CAUSE] s (faultSet i f s) :=
  statStep_trans (statStep_setF rfl (by decide) List.mem_cons_self _ s) (statStep_trans (statStep_setF rfl (by decide) (by simp) _ _) (statStep_modIsl i _ _))

theorem faultSet_fields (hf : f < 16) (i : Nat) (s : State) :
    getF (faultSet i f s) (pgIsl i) Reg.ISL_STAT_FAULTED = 1 ∧ getF (faultSet i f s) (pgIsl i) Reg.ISL_STAT_FAULT_CAUSE = f := by
  constructor
  · rw [faultSet, getF_modIsl, getF_setF_apart (by decide) (by decide), getF_setF_same (by decide)]
    rfl
  · rw [faultSet, getF_modIsl, getF_setF_same (by decide)]
    exact Nat.mod_eq_of_lt hf

theorem validAllowed_of_faulted (h : flag s (pgIsl i) Reg.ISL_STAT_FAULTED = true) : validAllowed s i = false := by simp [validAllowed, h]

theorem statStep_abdicated (i : Nat) (held : Prop) [Decidable held] (s : State) {rs : List Row} : StatStep i rs s (abdicated i held s) := by
  unfold abdicated
  split
  · exact statStep_emit _ s
  · exact statStep_refl s

theorem abdicated_isl (i : Nat) (held : Prop) [Decidable held] (s : State) : (abdicated i held s).isl = s.isl := by
  unfold abdicated
  split <;> rfl

/-- The pair of a faulted island is invalid, and one that was valid is seen to go, by the hold latch or after it. -/
theorem pairFaulted (h : flag s (pgIsl i) Reg.ISL_STAT_FAULTED = true) :
    getF (showValid i (dropHold i s)) (pgIsl i) Reg.ISL_STAT_VALID = 0 ∧
      (flag s (pgIsl i) Reg.ISL_STAT_VALID = true → puts (.valid i false) s (showValid i (dropHold i s))) := by
  have drop := statStep_dropHold i s
  obtain ⟨dark, seen⟩ := showValid_dark (validAllowed_of_faulted ((flag_eq (drop.fields _ (by decide))).trans h))
  refine ⟨dark, fun valid => ?_⟩
  cases held : flag s (pgIsl i) Reg.ISL_STAT_HOLD
  · rw [dropHold_free held] at seen ⊢
    exact seen valid
  · obtain ⟨_, _, gone⟩ := dropHold_shows held
    exact puts_grows (statStep_showValid i _).out (gone valid)

/-- What a fault with its cause and code shows, and what it tells the hub. -/
def faultShows (i f k : Nat) (s u : State) : Prop :=
  quietBut [islStat i, clapStat] s u ∧ codeIn u (pgIsl i) k ∧ codeIn u pgClap k ∧ islOf u i = { islOf s i with phase := 2 } ∧ islOf u (1 - i) = islOf s (1 - i) ∧
    getF u (pgIsl i) Reg.ISL_STAT_FAULTED = 1 ∧ getF u (pgIsl i) Reg.ISL_STAT_FAULT_CAUSE = f ∧ getF u (pgIsl i) Reg.ISL_STAT_HOLD = 0 ∧ getF u (pgIsl i) Reg.ISL_STAT_VALID = 0 ∧
    getF u (pgIsl i) Reg.ISL_STAT_MODE = getF s (pgIsl i) Reg.ISL_STAT_MODE ∧ getF u (pgIsl i) Reg.ISL_STAT_SAFE = getF s (pgIsl i) Reg.ISL_STAT_SAFE ∧
    (flag s (pgIsl i) Reg.ISL_STAT_HOLD = true → puts (.islWrite i 0x80 1) s u) ∧ (flag s (pgIsl i) Reg.ISL_STAT_VALID = true → puts (.valid i false) s u) ∧
    (islandInCharge s = some i → puts (.islWrite i 0x7C 1) s u)

/-- The island's own steps in a fault, before its codes are recorded. -/
def faultTaken (i f : Nat) (s : State) : State := abdicated i (islandInCharge s = some i) (showValid i (dropHold i (faultSet i f s)))

theorem statStep_faultTaken (i f : Nat) (s : State) :
    StatStep i [Reg.ISL_STAT_FAULTED, Reg.ISL_STAT_FAULT_CAUSE, Reg.ISL_STAT_HOLD, Reg.ISL_STAT_VALID] s (faultTaken i f s) :=
  statStep_trans (statStep_mono (by simp) (statStep_faultSet i f s)) (statStep_trans (statStep_mono (by simp) (statStep_dropHold i _))
    (statStep_trans (statStep_mono (by simp) (statStep_showValid i _)) (statStep_abdicated i _ _)))

theorem faultTaken_fields (hf : f < 16) (i : Nat) (s : State) :
    let u := faultTaken i f s
    getF u (pgIsl i) Reg.ISL_STAT_FAULTED = 1 ∧ getF u (pgIsl i) Reg.ISL_STAT_FAULT_CAUSE = f ∧ getF u (pgIsl i) Reg.ISL_STAT_HOLD = 0 ∧ getF u (pgIsl i) Reg.ISL_STAT_VALID = 0 := by
  obtain ⟨faulted, cause⟩ := faultSet_fields hf i s
  obtain ⟨dark, _⟩ := pairFaulted (i := i) (s := faultSet i f s) (by simp [flag, faulted])
  have last {r : Row} : getF (faultTaken i f s) (pgIsl i) r = getF (showValid i (dropHold i (faultSet i f s))) (pgIsl i) r :=
    (statStep_abdicated i (islandInCharge s = some i) _ (rs := [])).fields r rfl
  have pair := statStep_showValid i (dropHold i (faultSet i f s))
  have drop := statStep_dropHold i (faultSet i f s)
  refine ⟨?_, ?_, ?_, last.trans dark⟩
  · rw [last, pair.fields _ (by decide), drop.fields _ (by decide), faulted]
  · rw [last, pair.fields _ (by decide), drop.fields _ (by decide), cause]
  · rw [last, pair.fields _ (by decide), dropHold_hold]

theorem faultTaken_isl (i f : Nat) (s : State) : (faultTaken i f s).isl = (faultSet i f s).isl := by
  rw [faultTaken, abdicated_isl, showValid_isl, dropHold_isl]

theorem faultTaken_own (here : i < s.isl.length) (f : Nat) : islOf (faultTaken i f s) i = { islOf s i with phase := 2 } := by
  have before : islOf (setF (pgIsl i) Reg.ISL_STAT_FAULT_CAUSE f (setF (pgIsl i) Reg.ISL_STAT_FAULTED 1 s)) i = islOf s i := islOf_congr (by rw [setF_isl, setF_isl]) i
  rw [islOf_congr (faultTaken_isl i f s), faultSet, islOf_modIsl (by simpa using here), before]

theorem faultTaken_other (h : k ≠ i) (f : Nat) (s : State) : islOf (faultTaken i f s) k = islOf s k := by
  rw [islOf_congr (faultTaken_isl i f s), faultSet, islOf_modIsl_ne h]
  exact islOf_congr (by rw [setF_isl, setF_isl]) k

theorem faultTaken_tells (hf : f < 16) (i : Nat) (s : State) :
    let u := faultTaken i f s
    (flag s (pgIsl i) Reg.ISL_STAT_HOLD = true → puts (.islWrite i 0x80 1) s u) ∧ (flag s (pgIsl i) Reg.ISL_STAT_VALID = true → puts (.valid i false) s u) ∧
      (islandInCharge s = some i → puts (.islWrite i 0x7C 1) s u) := by
  have set := statStep_faultSet i f s
  obtain ⟨faulted, _⟩ := faultSet_fields hf i s
  obtain ⟨_, gone⟩ := pairFaulted (i := i) (s := faultSet i f s) (by simp [flag, faulted])
  have pair := statStep_showValid i (dropHold i (faultSet i f s))
  have last := (statStep_abdicated i (islandInCharge s = some i) (showValid i (dropHold i (faultSet i f s))) (rs := [])).out
  refine ⟨fun held => ?_, fun valid => ?_, fun charge => ?_⟩
  · obtain ⟨_, told, _⟩ := dropHold_shows ((flag_eq (set.fields _ (by decide))).trans held)
    exact puts_grows (grows_trans pair.out last) (puts_after set.out told)
  · exact puts_grows last (puts_after set.out (gone ((flag_eq (set.fields _ (by decide))).trans valid)))
  · rw [faultTaken, abdicated, if_pos charge]
    exact puts_emit _ (grows_trans set.out (grows_trans (statStep_dropHold i _).out pair.out))

theorem faultIsl_shows (hi : i < 2) (here : i < s.isl.length) (hf : f < 16) (hk : k < 256) : faultShows i f k s (faultIsl i f k s) := by
  have step := statStep_faultTaken i f s
  have isl (n : Nat) := islOf_congr (faultRecorded_isl i k (faultTaken i f s)) n
  obtain ⟨faulted, cause, hold, valid⟩ := faultTaken_fields hf i s
  obtain ⟨told, gone, left⟩ := faultTaken_tells hf i s
  obtain ⟨own, clap⟩ := faultRecorded_codes hk i (faultTaken i f s)
  have shown {r : Row} (hr : 64 ≤ r.off ∧ r.off < 4096) := faultRecorded_field hr i k (faultTaken i f s)
  have out := faultRecorded_out i k (faultTaken i f s)
  have run : faultIsl i f k s = faultRecorded i k (faultTaken i f s) := faultIsl_eq i f k s
  rw [run]
  refine ⟨quietBut_trans (quietBut_mono (by simp) step.quiet) (quietBut_mono (by simp) (faultRecorded_quiet i k _)), own, clap, (isl i).trans (faultTaken_own here f),
    (isl _).trans (faultTaken_other (other_ne hi) f s), (shown (by decide)).trans faulted, (shown (by decide)).trans cause, (shown (by decide)).trans hold,
    (shown (by decide)).trans valid, (shown (by decide)).trans (step.fields _ (by decide)), (shown (by decide)).trans (step.fields _ (by decide)),
    fun h => puts_grows out (told h), fun h => puts_grows out (gone h), fun h => puts_grows out (left h)⟩

/-- The fault of an island in charge draws a free value for its cause; nothing else has changed then. -/
theorem faultShows_drawn (h : faultShows i f k (drawFree 4 s).2 u) : faultShows i f k s u := h

/-! ### The reset of an island (R426) -/

theorem regsWf_of_wf (h : State.wf s = true) : regsWf s.regs = true := by
  simp only [State.wf, Bool.and_eq_true] at h
  obtain ⟨⟨⟨_, regs⟩, _⟩, _⟩ := h
  exact regs

theorem isl_length_of_wf (h : State.wf s = true) : s.isl.length = 2 := by
  simp only [State.wf, unitsWf, Bool.and_eq_true, decide_eq_true_eq] at h
  obtain ⟨_, _, _, _, isl, _⟩ := h
  exact isl

/-- The island's page and what it holds beside it are as after reset, and a pair that was valid is seen to go. -/
def islandCleared (i : Nat) (s : State) : State :=
  if flag s (pgIsl i) Reg.ISL_STAT_VALID then emit (.valid i false) (modIsl i (fun _ => Isl.fresh) (resetPageFrom (pgIsl i) 0 s))
  else modIsl i (fun _ => Isl.fresh) (resetPageFrom (pgIsl i) 0 s)

theorem islandReset_eq (i : Nat) (s : State) : islandReset i s = showMon (islandCleared i s) := rfl

theorem resetPageFrom_same (p : Page) (n : Nat) (s : State) : samesBut [.regs] s (resetPageFrom p n s) := samesBut_keeps (resetPageFrom_keeps p n (by decide) (Keeps.refl _ s))

theorem islandCleared_regs (i : Nat) (s : State) : (islandCleared i s).regs = (resetPageFrom (pgIsl i) 0 s).regs := by
  unfold islandCleared
  split <;> rfl

theorem islandCleared_isl (i : Nat) (s : State) : (islandCleared i s).isl = (modIsl i (fun _ => Isl.fresh) (resetPageFrom (pgIsl i) 0 s)).isl := by
  unfold islandCleared
  split <;> rfl

theorem islandReset_field {r : Row} (hr : r.off < 4096) (i : Nat) (s : State) : getF (islandReset i s) (pgIsl i) r = getF (resetPageFrom (pgIsl i) 0 s) (pgIsl i) r := by
  rw [islandReset_eq, getF_showMon_isl hr, getF_congr (islandCleared_regs i s)]

/-- The words of ISL.STAT and ISL.SVN, whose fields a reset returns or keeps. -/
theorem isl_words (hi : i < 2) :
    (∀ r ∈ [Reg.ISL_STAT_HOLD, Reg.ISL_STAT_FAULTED, Reg.ISL_STAT_SAFE, Reg.ISL_STAT_VALID, Reg.ISL_SVN],
      (r.off < 0x1000 ∧ tidyWord (pgIsl i) r.off = true ∧ (r, 0, 0) ∈ rowsAt (pgIsl i) r.off) ∧ pageOfAddr (pageBase (pgIsl i) + r.off) = some (pgIsl i, r.off)) := by
  interval_cases i <;> decide

theorem islandReset_dark (hi : i < 2) (wf : regsWf s.regs = true) :
    ∀ r ∈ [Reg.ISL_STAT_HOLD, Reg.ISL_STAT_FAULTED, Reg.ISL_STAT_SAFE, Reg.ISL_STAT_VALID], getF (islandReset i s) (pgIsl i) r = 0 := by
  intro r hr
  obtain ⟨fit, place⟩ := isl_words hi r (List.mem_append_left [Reg.ISL_SVN] hr)
  have lost : (r.keep && decide (r.acc = .ro)) = false ∧ r.rst = .val 0 :=
    (by decide : ∀ r ∈ [Reg.ISL_STAT_HOLD, Reg.ISL_STAT_FAULTED, Reg.ISL_STAT_SAFE, Reg.ISL_STAT_VALID], (r.keep && decide (r.acc = .ro)) = false ∧ r.rst = .val 0) r hr
  rw [islandReset_field fit.1, getF_resetPageFrom wf fit place, if_neg (by simp [lost.1]), fieldReset, lost.2]
  exact Nat.zero_mod _

theorem islandReset_svn (hi : i < 2) (wf : regsWf s.regs = true) : getF (islandReset i s) (pgIsl i) Reg.ISL_SVN = getF s (pgIsl i) Reg.ISL_SVN := by
  obtain ⟨fit, place⟩ := isl_words hi Reg.ISL_SVN (by simp)
  rw [islandReset_field fit.1, getF_resetPageFrom wf fit place]
  exact if_pos rfl

/-- No register but those of the island's page and MON_READY is written. -/
theorem islandReset_outside {a : Nat} (ha : a < pageBase (pgIsl i) ∨ pageBase (pgIsl i) + 0x1000 ≤ a) (mon : a ≠ clapStat) (s : State) : regW (islandReset i s) a = regW s a := by
  have page : a / 4096 ≠ pageBase (pgIsl i) / 4096 := by
    have := pageBase_mod (pgIsl i)
    omega
  rw [islandReset_eq, (clapStep_showMon _).words a (by simpa using mon), regW_congr (islandCleared_regs i s), resetPageFrom_ne page]

theorem islandReset_isl (here : i < s.isl.length) : islOf (islandReset i s) i = Isl.fresh ∧ (∀ n, n ≠ i → islOf (islandReset i s) n = islOf s n) ∧
    (islandReset i s).isl.length = s.isl.length := by
  have base : (resetPageFrom (pgIsl i) 0 s).isl = s.isl := (resetPageFrom_same _ _ s).2 .isl (by decide)
  have e : (islandReset i s).isl = (modIsl i (fun _ => Isl.fresh) (resetPageFrom (pgIsl i) 0 s)).isl := by rw [islandReset_eq, showMon_isl, islandCleared_isl]
  refine ⟨?_, fun n hn => ?_, ?_⟩
  · rw [islOf_congr e, islOf_modIsl (by rw [base]; exact here)]
  · rw [islOf_congr e, islOf_modIsl_ne hn, islOf_congr base]
  · rw [e, modIsl_length, base]

theorem islandReset_out (i : Nat) (s : State) : grows s (islandReset i s) ∧ (flag s (pgIsl i) Reg.ISL_STAT_VALID = true → puts (.valid i false) s (islandReset i s)) := by
  have base : grows s (modIsl i (fun _ => Isl.fresh) (resetPageFrom (pgIsl i) 0 s)) := grows_same (congrArg (·.outbox) ((resetPageFrom_same _ _ s).2 .io (by decide))) (grows_refl s)
  rw [islandReset_eq]
  refine ⟨grows_trans ?_ (showMon_out _), fun valid => puts_grows (showMon_out _) ?_⟩
  · unfold islandCleared
    split
    · exact grows_emit _ base
    · exact base
  · rw [islandCleared, if_pos valid]
    exact puts_emit _ base

/-! ### The start of an island (R315, R434) -/

/-- The island in reset, in the mode that the ball says. -/
def islandHeld (i : Nat) (split : Bool) (s : State) : State := setF (pgIsl i) Reg.ISL_STAT_MODE (if split then 1 else 0) (islandReset i s)

theorem islandHeld_step (i : Nat) (split : Bool) (s : State) : StatStep i [Reg.ISL_STAT_MODE] (islandReset i s) (islandHeld i split s) :=
  statStep_setF rfl (by decide) List.mem_cons_self _ _

theorem islandHeld_mode (i : Nat) (split : Bool) (s : State) : getF (islandHeld i split s) (pgIsl i) Reg.ISL_STAT_MODE = if split then 1 else 0 := by
  rw [islandHeld, getF_setF_same (by decide)]
  cases split <;> rfl

theorem islandHeld_svn (hi : i < 2) (wf : regsWf s.regs = true) (split : Bool) : getF (islandHeld i split s) (pgIsl i) Reg.ISL_SVN = getF s (pgIsl i) Reg.ISL_SVN :=
  ((islandHeld_step i split s).own (by decide)).trans (islandReset_svn hi wf)

theorem islandHeld_dark (hi : i < 2) (wf : regsWf s.regs = true) (split : Bool) :
    ∀ r ∈ [Reg.ISL_STAT_HOLD, Reg.ISL_STAT_FAULTED, Reg.ISL_STAT_SAFE, Reg.ISL_STAT_VALID], getF (islandHeld i split s) (pgIsl i) r = 0 := fun r hr =>
  ((islandHeld_step i split s).kept (by decide) r hr).trans (islandReset_dark hi wf r hr)

theorem islandHeld_isl (i : Nat) (split : Bool) (s : State) : (islandHeld i split s).isl = (islandReset i s).isl := by rw [islandHeld, setF_isl]

theorem islandStart_boots (hi : i < 2) (wf : regsWf s.regs = true) (h : bootSlot (getF s (pgIsl i) Reg.ISL_SVN) slots = some v) (split : Bool) :
    islandStart i split slots s = showMon (modIsl i (fun x => { x with phase := 1 }) (setF (pgIsl i) Reg.ISL_SVN v (islandHeld i split s))) := by
  rw [← islandHeld_svn hi wf split] at h
  unfold islandStart
  dsimp only
  rw [← islandHeld, h]

theorem islandStart_faults (hi : i < 2) (wf : regsWf s.regs = true) (h : bootSlot (getF s (pgIsl i) Reg.ISL_SVN) slots = none) (split : Bool) :
    islandStart i split slots s = faultIsl i 4 0x51 (islandHeld i split s) := by
  rw [← islandHeld_svn hi wf split] at h
  unfold islandStart
  dsimp only
  rw [← islandHeld, h]

/-- The island runs its image: its page is fresh but for the security version. -/
def startedWith (i v : Nat) (s u : State) : Prop :=
  samesBut [.regs, .io, .isl] s u ∧ (∀ a, (a < pageBase (pgIsl i) ∨ pageBase (pgIsl i) + 0x1000 ≤ a) → a ≠ clapStat → regW u a = regW s a) ∧
    islOf u i = { Isl.fresh with phase := 1 } ∧ islOf u (1 - i) = islOf s (1 - i) ∧ getF u (pgIsl i) Reg.ISL_SVN = v ∧ getF u (pgIsl i) Reg.ISL_STAT_HOLD = 0 ∧
    getF u (pgIsl i) Reg.ISL_STAT_FAULTED = 0 ∧ getF u (pgIsl i) Reg.ISL_STAT_SAFE = 0 ∧ getF u (pgIsl i) Reg.ISL_STAT_VALID = 0 ∧
    (flag s (pgIsl i) Reg.ISL_STAT_VALID = true → puts (.valid i false) s u)

theorem islandStart_started (hi : i < 2) (wf : State.wf s = true) (here : i < s.isl.length) (h : bootSlot (getF s (pgIsl i) Reg.ISL_SVN) slots = some v) (hv : v < 2 ^ 32) (split : Bool) :
    let u := islandStart i split slots s
    startedWith i v s u ∧ getF u (pgIsl i) Reg.ISL_STAT_MODE = if split then 1 else 0 := by
  have regs := regsWf_of_wf wf
  have run := islandStart_boots hi regs h split
  have same : samesBut [.regs, .io, .isl] s (showMon (modIsl i (fun x => { x with phase := 1 }) (setF (pgIsl i) Reg.ISL_SVN v (islandHeld i split s)))) :=
    samesBut_keeps (showMon_keeps (by decide) (modIsl_keeps i _ (by decide) (setF_keeps _ _ _ (by decide) (setF_keeps _ _ _ (by decide) (islandReset_keeps i (by decide) (Keeps.refl _ s))))))
  obtain ⟨own, others, length⟩ := islandReset_isl here
  obtain ⟨out, gone⟩ := islandReset_out i s
  have isl : (setF (pgIsl i) Reg.ISL_SVN v (islandHeld i split s)).isl = (islandReset i s).isl := by rw [setF_isl, islandHeld_isl]
  have stat {r : Row} (hr : r.off = 0x40 ∧ apart Reg.ISL_SVN r = true) :
      getF (showMon (modIsl i (fun x => { x with phase := 1 }) (setF (pgIsl i) Reg.ISL_SVN v (islandHeld i split s)))) (pgIsl i) r = getF (islandHeld i split s) (pgIsl i) r := by
    rw [getF_showMon_isl (by omega), getF_modIsl, getF_setF_apart (by decide) hr.2]
  have dark := islandHeld_dark hi regs split
  rw [run]
  refine ⟨⟨same, fun a ha mon => ?_, ?_, ?_, ?_, (stat (by decide)).trans (dark _ (by simp)), (stat (by decide)).trans (dark _ (by simp)), (stat (by decide)).trans (dark _ (by simp)),
    (stat (by decide)).trans (dark _ (by simp)), fun valid => ?_⟩, (stat (by decide)).trans (islandHeld_mode i split s)⟩
  · have inside (r : Row) (hr : r.off < 0x1000) : a ≠ fieldAddr (pgIsl i) r 0 0 := by
      simp only [fieldAddr, Nat.zero_mul]
      omega
    rw [(clapStep_showMon _).words a (by simpa using mon), regW_congr (modIsl_regs ..), setF, regW_setFij_ne (inside _ (by decide)), islandHeld, setF, regW_setFij_ne (inside _ (by decide)),
      islandReset_outside ha mon]
  · rw [islOf_congr (showMon_isl _), islOf_modIsl (by rw [isl, length]; exact here), islOf_congr isl, own]
  · rw [islOf_congr (showMon_isl _), islOf_modIsl_ne (other_ne hi), islOf_congr isl, others _ (other_ne hi)]
  · rw [getF_showMon_isl (by decide), getF_modIsl, getF_setF_same (by decide)]
    exact Nat.mod_eq_of_lt hv
  · exact puts_grows (grows_same (by rw [showMon_io, modIsl_io, setF_io, islandHeld, setF_io]) (grows_refl _)) (gone valid)

/-- No slot is accepted: the island is in a fault of cause 4. -/
def refusedImage (i : Nat) (s u : State) : Prop :=
  islOf u i = { Isl.fresh with phase := 2 } ∧ islOf u (1 - i) = islOf s (1 - i) ∧ getF u (pgIsl i) Reg.ISL_SVN = getF s (pgIsl i) Reg.ISL_SVN ∧
    getF u (pgIsl i) Reg.ISL_STAT_FAULTED = 1 ∧ getF u (pgIsl i) Reg.ISL_STAT_FAULT_CAUSE = 4 ∧ getF u (pgIsl i) Reg.ISL_STAT_HOLD = 0 ∧ getF u (pgIsl i) Reg.ISL_STAT_VALID = 0 ∧
    codeIn u (pgIsl i) 0x51 ∧ codeIn u pgClap 0x51

theorem islandStart_refused (hi : i < 2) (wf : State.wf s = true) (here : i < s.isl.length) (h : bootSlot (getF s (pgIsl i) Reg.ISL_SVN) slots = none) (split : Bool) :
    let u := islandStart i split slots s
    refusedImage i s u ∧ getF u (pgIsl i) Reg.ISL_STAT_MODE = if split then 1 else 0 := by
  have regs := regsWf_of_wf wf
  obtain ⟨own, others, length⟩ := islandReset_isl here
  have isl := islandHeld_isl i split s
  obtain ⟨words, code, clap, mine, other, faulted, cause, hold, valid, mode, _⟩ :=
    faultIsl_shows (f := 4) (k := 0x51) (s := islandHeld i split s) hi (by rw [isl, length]; exact here) (by decide) (by decide)
  have svn : getF (faultIsl i 4 0x51 (islandHeld i split s)) (pgIsl i) Reg.ISL_SVN = getF (islandHeld i split s) (pgIsl i) Reg.ISL_SVN :=
    getFi_quietBut (n := 0) words (quiet_isl (a := 0x50) (by decide) i) (by interval_cases i <;> decide)
  rw [islandStart_faults hi regs h split]
  refine ⟨⟨?_, ?_, svn.trans (islandHeld_svn hi regs split), faulted, cause, hold, valid, code, clap⟩, mode.trans (islandHeld_mode i split s)⟩
  · rw [mine, islOf_congr isl, own]
  · rw [other, islOf_congr isl, others _ (other_ne hi)]

/-! ### The restart of the monitor (R336) -/

/-- The monitor drops its latch and restarts. -/
def monitorDown (i : Nat) (s : State) : State := showMon (modIsl i (fun x => { x with phase := 3 }) (dropHold i s))

theorem monitorDown_field {r : Row} (hr : r.off < 4096) (i : Nat) (s : State) : getF (monitorDown i s) (pgIsl i) r = getF (dropHold i s) (pgIsl i) r := by
  rw [monitorDown, getF_showMon_isl hr, getF_modIsl]

theorem monitorDown_shows (hi : i < 2) (here : i < s.isl.length) :
    let u := monitorDown i s
    samesBut [.regs, .io, .isl] s u ∧ regsBut [islStat i, clapStat] s u ∧ islOf u i = { islOf s i with phase := 3 } ∧ islOf u (1 - i) = islOf s (1 - i) ∧
      getF u (pgIsl i) Reg.ISL_STAT_HOLD = 0 ∧ getF u (pgIsl i) Reg.ISL_STAT_FAULTED = getF s (pgIsl i) Reg.ISL_STAT_FAULTED ∧
      (flag s (pgIsl i) Reg.ISL_STAT_HOLD = true → getF u (pgIsl i) Reg.ISL_STAT_VALID = 0 ∧ puts (.islWrite i 0x80 1) s u) := by
  have drop := statStep_dropHold i s
  have shown {r : Row} (hr : r.off < 4096) := monitorDown_field hr i s
  have before (n : Nat) : islOf (dropHold i s) n = islOf s n := islOf_congr (dropHold_isl i s) n
  have after (n : Nat) : islOf (monitorDown i s) n = islOf (modIsl i (fun x => { x with phase := 3 }) (dropHold i s)) n := islOf_congr (showMon_isl _) n
  refine ⟨?_, ?_, ?_, ?_, (shown (by decide)).trans (dropHold_hold i s), (shown (by decide)).trans (drop.fields _ (by decide)), fun held => ?_⟩
  · exact samesBut_keeps (showMon_keeps (by decide) (modIsl_keeps i _ (by decide) (dropHold_keeps i (by decide) (Keeps.refl _ s))))
  · exact regsBut_trans (regsBut_mono (by simp) drop.words) (regsBut_trans (regsBut_same (modIsl_regs ..) (regsBut_refl _ _)) (regsBut_mono (by simp) (clapStep_showMon _).words))
  · rw [after, islOf_modIsl (by rw [dropHold_isl]; exact here), before]
  · rw [after, islOf_modIsl_ne (other_ne hi), before]
  · obtain ⟨dark, told, _⟩ := dropHold_shows held
    exact ⟨(shown (by decide)).trans dark, puts_grows (grows_same (by rw [monitorDown, showMon_io, modIsl_io]) (grows_refl _)) told⟩

/-! ### The commands -/

theorem exec_islandFault {c : Nat} (up : islUp s i = true) (lo : 1 ≤ c) (hi : c ≤ 5) (h : c = 1 → flag s (pgIsl i) Reg.ISL_STAT_MODE = false) :
    exec (.islandFault i c) s = .next (faultIsl i c (if c = 1 then 0x50 else 0x51) s) :=
  congrArg Host.Outcome.next (if_pos ⟨up, lo, hi, fun ⟨one, split⟩ => by simp [h one] at split⟩)

theorem exec_islandFault_not {c : Nat} (h : islUp s i = false ∨ c = 1 ∧ flag s (pgIsl i) Reg.ISL_STAT_MODE = true) : exec (.islandFault i c) s = .next s :=
  congrArg Host.Outcome.next (if_neg fun ⟨up, _, _, go⟩ => h.elim (by simp [up]) go)

theorem exec_islandWatchdogExpire (i : Nat) (s : State) : exec (.islandWatchdogExpire i) s = exec (.islandFault i 3) s := rfl

theorem exec_islandRestart_charge (up : islUp s i = true) (h : islandInCharge s = some i) :
    exec (.islandRestart i) s = .next (faultIsl i (Config.free s.io.fresh % 16) 0x51 (drawFree 4 s).2) :=
  congrArg Host.Outcome.next ((if_neg (by simp [up])).trans (if_pos h))

theorem exec_islandRestart_monitor (up : islUp s i = true) (h : islandInCharge s ≠ some i) :
    exec (.islandRestart i) s = .next (monitorDown i s) :=
  congrArg Host.Outcome.next ((if_neg (by simp [up])).trans (if_neg h))

theorem exec_islandRestart_not (h : islUp s i = false) : exec (.islandRestart i) s = .next s := congrArg Host.Outcome.next (if_pos (by simp [h]))

theorem exec_islandResetRelease (hi : i < 2) (h : (islOf s i).phase = 0) (split : Bool) (slots : List (Option Nat)) :
    exec (.islandResetRelease i split slots) s = .next (islandStart i split slots s) := congrArg Host.Outcome.next (if_pos ⟨hi, h⟩)

theorem exec_islandResetRelease_not (h : (islOf s i).phase ≠ 0) (split : Bool) (slots : List (Option Nat)) : exec (.islandResetRelease i split slots) s = .next s :=
  congrArg Host.Outcome.next (if_neg fun ⟨_, k⟩ => h k)

/-- The island reboots: after a fault with AUTO_RESTART set, or in a restart (R336). -/
def reboots (i : Nat) (s : State) : Prop := ((islOf s i).phase = 2 ∧ flag s (pgIsl i) Reg.ISL_CTL_AUTO_RESTART = true) ∨ (islOf s i).phase = 3

theorem exec_islandAutoRestart (hi : i < 2) (h : reboots i s) (slots : List (Option Nat)) :
    exec (.islandAutoRestart i slots) s = .next (islandStart i (flag s (pgIsl i) Reg.ISL_STAT_MODE) slots s) := congrArg Host.Outcome.next (if_pos ⟨hi, h⟩)

theorem exec_islandAutoRestart_not (h : ¬ reboots i s) (slots : List (Option Nat)) : exec (.islandAutoRestart i slots) s = .next s :=
  congrArg Host.Outcome.next (if_neg fun ⟨_, k⟩ => h k)

/-- The mode of a restart is the one that the island shows. -/
theorem mode_shown (i : Nat) (s : State) : (if flag s (pgIsl i) Reg.ISL_STAT_MODE then 1 else 0) = getF s (pgIsl i) Reg.ISL_STAT_MODE := by
  have bit : getF s (pgIsl i) Reg.ISL_STAT_MODE < 2 := getFij_lt s (pgIsl i) Reg.ISL_STAT_MODE 0 0
  simp only [flag, ne_eq, decide_not, Bool.not_eq_eq_eq_not, Bool.not_true, decide_eq_false_iff_not]
  split <;> omega

/-- Settles O51: a fault is `faultIsl_shows`; a start is `islandStart_started` or `islandStart_refused`, by the slot that the ROM accepts. -/
theorem islandFaults : Obligations.IslandFaults := by
  unfold Obligations.IslandFaults
  intro i cause v split slots s hi wf p stat mon nothing faulted outside started refused slot again
  have here : i < s.isl.length := by rwa [isl_length_of_wf wf]
  have bit (u : State) {b : Bool} (h : getF u p Reg.ISL_STAT_MODE = if b then 1 else 0) : flag u p Reg.ISL_STAT_MODE = b := by
    rw [flag, h]
    cases b <;> rfl
  have fault {f k : Nat} (hf : f < 16) (hk : k < 256) := faultIsl_shows (s := s) (k := k) hi here hf hk
  refine ⟨fun up => ⟨fun lo hi' one => ?_, fun mode => ?_, ?_, fun charge => ?_, fun charge => ?_⟩, fun down => ⟨?_, ?_, ?_⟩, fun boots small => ⟨fun off => ?_, fun reboot => ?_⟩,
    fun none => ⟨fun off => ?_, fun reboot => ?_⟩, fun on => ?_, fun no => ?_⟩
  · exact does_reach rfl (does (exec_islandFault up lo hi' one) (fault (by omega) (by split <;> decide)))
  · exact does (exec_islandFault_not (Or.inr ⟨rfl, mode⟩)) rfl
  · exact does_reach rfl (does ((exec_islandWatchdogExpire i s).trans (exec_islandFault up (by decide) (by decide) nofun)) (fault (by decide) (by decide)))
  · exact does_reach rfl (does (exec_islandRestart_charge up charge)
      (faultShows_drawn (faultIsl_shows (s := (drawFree 4 s).2) hi here (Nat.mod_lt _ (by decide)) (by decide))))
  · exact does (exec_islandRestart_monitor up charge) (monitorDown_shows hi here)
  · exact does (exec_islandFault_not (Or.inl down)) rfl
  · exact does ((exec_islandWatchdogExpire i s).trans (exec_islandFault_not (Or.inl down))) rfl
  · exact does (exec_islandRestart_not down) rfl
  · obtain ⟨runs, mode⟩ := islandStart_started hi wf here boots small split
    exact does (exec_islandResetRelease hi off split slots) ⟨runs, bit _ mode⟩
  · obtain ⟨runs, mode⟩ := islandStart_started hi wf here boots small (flag s p Reg.ISL_STAT_MODE)
    exact does (exec_islandAutoRestart hi reboot slots) ⟨runs, mode.trans (mode_shown i s)⟩
  · obtain ⟨shows, mode⟩ := islandStart_refused hi wf here none split
    have run := exec_islandResetRelease hi off split slots
    exact does run ⟨⟨samesBut_reach run rfl, shows⟩, bit _ mode⟩
  · obtain ⟨shows, mode⟩ := islandStart_refused hi wf here none (flag s p Reg.ISL_STAT_MODE)
    have run := exec_islandAutoRestart hi reboot slots
    exact does run ⟨⟨samesBut_reach run rfl, shows⟩, mode.trans (mode_shown i s)⟩
  · exact does (exec_islandResetRelease_not on split slots) rfl
  · exact does (exec_islandAutoRestart_not no slots) rfl

end Sys2Proof.Machine
end

section
/-! PROOFS. Chapter 13, what its statements share: a die's operating point and a rail beside their registers, and where their words stand. -/

namespace Sys2Proof.Machine

open Sys2Proof

variable {s t : State} {n : Nat} {d : DiePwr}

/-! ### A die and a rail beside their registers -/

theorem diePwr_congr (h : t.pwr = s.pwr) (n : Nat) : diePwr t n = diePwr s n := by unfold diePwr; rw [h]

theorem railPwr_congr (h : t.pwr = s.pwr) (r : Nat) : railPwr t r = railPwr s r := by unfold railPwr; rw [h]

theorem diePwr_of (h : s.pwr.dies[n]? = some d) : diePwr s n = d := by simp [diePwr, List.getD, h]

theorem modDiePwr_pwr (h : s.pwr.dies[n]? = some d) (f : DiePwr → DiePwr) :
    (modDiePwr n f s).pwr = { s.pwr with dies := s.pwr.dies.set n (f d) } := by
  simp [modDiePwr, List.modify_eq_set_getElem?, h]

theorem diePwr_modDiePwr (h : s.pwr.dies[n]? = some d) (f : DiePwr → DiePwr) : diePwr (modDiePwr n f s) n = f d := by
  simp [diePwr, modDiePwr, List.getD, h]

/-! ### Where the words of the rails and the dies stand -/

theorem fieldAddr_one {p : Page} (r : Row) : fieldAddr p r 0 0 = pageBase p + r.off := by simp [fieldAddr]

theorem vrc_page {r : Nat} (hr : r < 5) : pageBase (pgVrc r) ≠ pageBase pgMbx ∧ pageBase (pgVrc r) ≠ pageBase pgLdg := by
  simp only [pageBase]; omega

theorem quiet_vrc {r off : Nat} (hr : r < 5) (ho : 64 ≤ off ∧ off < 4096) : quiet (pageBase (pgVrc r) + off) := by
  simp only [quiet, pageBase]; omega

end Sys2Proof.Machine
end

section
/-! PROOFS. Chapter 13: operating points, floors, envelopes and droops (R340, R343, R344, R347, R348, R352 to R356). -/

namespace Sys2Proof.Machine

open Sys2Proof

variable {s t u : State} {n r k : Nat} {d : DiePwr}

/-! ### Limits and phases of a rail (R340, R343, R344) -/

theorem exec_ilimStep (hn : n < 4) (above : (getF s (pgVrc n) Reg.VRC_ILIM : Int) < sint 16 (getF s (pgVrc n) Reg.VRC_IRAIL)) :
    exec (.ilimStep n) s = .next (modDiePwr n (fun d => { d with ilim := opAct s n - 1 }) s) := by
  have own : railDies n = [n] := if_pos hn
  have run : exec (.ilimStep n) s = .next ((railDies n).foldl (fun s n => modDiePwr n (fun d => { d with ilim := opAct s n - 1 }) s) s) :=
    congrArg Host.Outcome.next (if_pos ⟨by omega, above⟩)
  rw [run, own, List.foldl_cons, List.foldl_nil]

theorem exec_ilimStep_not (within : sint 16 (getF s (pgVrc n) Reg.VRC_IRAIL) ≤ (getF s (pgVrc n) Reg.VRC_ILIM : Int)) :
    exec (.ilimStep n) s = .next s := congrArg Host.Outcome.next (if_neg fun ⟨_, above⟩ => by omega)

theorem exec_railStageDisable (hn : n < 4) (out : (diePwr s n).outAt ≠ none) :
    exec (.railStageDisable n) s = .next (disableRail n (modDiePwr n (fun d => { d with outAt := none }) s)) :=
  congrArg Host.Outcome.next ((if_pos hn).trans (if_pos out))

theorem disableRail_shows (r : Nat) (s : State) : getF (disableRail r s) (pgVrc r) Reg.VRC_STAT_ACTIVE = 0 ∧ getF (disableRail r s) (pgVrc r) Reg.VRC_VSET = 0 ∧
    regsBut [pageBase (pgVrc r) + 0x40, pageBase (pgVrc r) + 0x44] s (disableRail r s) := by
  refine ⟨getF_setF_same (by decide) 0 _, ?_, regsBut_setF _ (by simp [fieldAddr, Reg.VRC_STAT_ACTIVE]) (regsBut_setF _ (by simp [fieldAddr, Reg.VRC_VSET]) (regsBut_refl _ s))⟩
  rw [disableRail, getF_setF_apart (by decide) (by decide), getF_setF_same (by decide)]
  rfl

/-- The lowest good phases are a part of the eight. -/
theorem lowBits_lt (n m : Nat) : lowBits n m < 256 := by
  have part : ((bitsSet 8 m).take n).Sublist (List.range 8) := (List.take_sublist _ _).trans List.filter_sublist
  have sum : lowBits n m = (((bitsSet 8 m).take n).map (2 ^ ·)).sum := by
    rw [lowBits, ← List.foldl_map, List.sum_eq_foldl]
  have le : (((bitsSet 8 m).take n).map (2 ^ ·)).sum ≤ ((List.range 8).map (2 ^ ·)).sum := (part.map _).sum_le_sum (by simp)
  have all : ((List.range 8).map (2 ^ ·)).sum = 255 := rfl
  omega

theorem exec_phaseShed {u0 n : Nat} (hr : r < 5) (low : (railPwr s r).lowAt = some u0) (due : u0 + 100000 ≤ n) (en : flag s pgPmc Reg.PMC_CTL_SHED_EN = true)
    (act : getF s (pgVrc r) Reg.VRC_STAT_ACTIVE ≠ 0) : exec (.phaseShed r n) s =
      .next (setF (pgVrc r) Reg.VRC_STAT_ACTIVE (lowBits (if r < 4 then 4 else 2) (getF s (pgVrc r) Reg.VRC_STAT_GOOD)) (at_ n s)) := by
  change execPhaseShed r n s = _
  rw [execPhaseShed, low]
  exact congrArg Host.Outcome.next (if_pos ⟨hr, en, due, act⟩)

/-! ### What a selection rests on (R353, R360) -/

/-- The words of CD_n's operating point and those of the caps, on which a selection rests beside the die, read alike. -/
def sameLimits (n : Nat) (s t : State) : Prop :=
  (∀ r ∈ [Reg.DVFS_OPC_REQ, Reg.DVFS_OPC_FLOOR, Reg.DVFS_OPC_ACT, Reg.DVFS_OPC_TOP], getFi t pgDvfs r n = getFi s pgDvfs r n) ∧
    ∀ a, a / 4096 = pageBase pgCap / 4096 → regW t a = regW s a

theorem sameLimits_points (h : sameLimits n s t) : opReq t n = opReq s n ∧ opFloor t n = opFloor s n ∧ opAct t n = opAct s n ∧ opTop t n = opTop s n :=
  ⟨h.1 _ (by simp), h.1 _ (by simp), h.1 _ (by simp), h.1 _ (by simp)⟩

theorem sameLimits_cap (h : sameLimits n s t) {r : Row} (hr : r.off < 2048 ∧ r.s1 = 0) : getF t pgCap r = getF s pgCap r := by
  have page : fieldAddr pgCap r 0 0 / 4096 = pageBase pgCap / 4096 := by
    simp only [fieldAddr, pageBase]; omega
  simp only [getF, getFij]
  rw [h.2 _ page]

theorem sameLimits_env (h : sameLimits n s t) : envNow t = envNow s ∧ getFi t pgCap Reg.CAP_OPMAX (envNow s) = getFi s pgCap Reg.CAP_OPMAX (envNow s) := by
  have small : envNow s < 2 ^ 2 := getFij_lt s pgCap Reg.CAP_STAT_ENV 0 0
  have page : fieldAddr pgCap Reg.CAP_OPMAX (envNow s) 0 / 4096 = pageBase pgCap / 4096 := by
    simp only [fieldAddr, pageBase, Reg.CAP_OPMAX]; omega
  refine ⟨sameLimits_cap h (by decide), ?_⟩
  simp only [getFi, getFij]
  rw [h.2 _ page]

theorem sameLimits_same (k : u.regs = t.regs) (h : sameLimits n s t) : sameLimits n s u :=
  ⟨fun r hr => (getFi_congr k pgDvfs r n).trans (h.1 r hr), fun a page => (regW_congr k a).trans (h.2 a page)⟩

/-- The point selected rests on the die's limits, whatever its roll-in. -/
theorem selectOp_congr (h : sameLimits n s t) {b : Bool} (hd : diePwr t n = { diePwr s n with roll := b }) : selectOp t n = selectOp s n := by
  obtain ⟨req, floor, -, top⟩ := sameLimits_points h
  obtain ⟨env, opmax⟩ := sameLimits_env h
  simp only [selectOp, softOp, hardOp, railLim, req, floor, top, env, opmax, hd]

theorem reasons_congr (h : sameLimits n s t) (hp : t.pwr = s.pwr) : reasons t n = reasons s n := by
  obtain ⟨req, floor, -, -⟩ := sameLimits_points h
  obtain ⟨env, opmax⟩ := sameLimits_env h
  have lim : getF t pgCap Reg.CAP_COOL_LIM = getF s pgCap Reg.CAP_COOL_LIM := sameLimits_cap h (by decide)
  have soft (l : Nat) : softHolds t n l = softHolds s n l := by simp only [softHolds, req, floor]
  have hard (l : Nat) : hardHolds t n l = hardHolds s n l := by simp only [hardHolds, req]
  simp only [reasons, soft, hard, opmax, env, lim, shifted1S, railLim, diePwr_congr hp, hp]
  rfl

theorem sameLimits_setFi {w : Row} (hn : n < 4) (hw : w.lo + w.w ≤ 32 ∧ w.s1 = 4 ∧ w.off < 2048)
    (ha : ∀ r ∈ [Reg.DVFS_OPC_REQ, Reg.DVFS_OPC_FLOOR, Reg.DVFS_OPC_ACT, Reg.DVFS_OPC_TOP], apart w r = true ∧ w.s1 = r.s1) (v : Nat) (h : sameLimits n s t) :
    sameLimits n s (setFi pgDvfs w n v t) := by
  refine ⟨fun r hr => ?_, fun a page => ?_⟩
  · obtain ⟨aside, stride⟩ := ha r hr
    rw [getFi_setFi_apart hw.1 stride aside, h.1 r hr]
  · rw [← h.2 a page]
    refine regW_setFij_ne (fun e => ?_) v t
    obtain ⟨-, stride, near⟩ := hw
    rw [e] at page
    simp only [fieldAddr, pageBase, stride] at page
    omega

/-! ### The selection (R353) -/

/-- A die whose selected point is not below its floor shows no breach, and its reasons. -/
def reasonsShown (n : Nat) (s : State) : State := setFi pgDvfs Reg.DVFS_THR_ACT n (reasons s n) (setFi pgDvfs Reg.DVFS_OPC_BREACH n 0 s)

/-- Then its roll-in is over. -/
def rolled (n : Nat) (s : State) : State := modDiePwr n (fun d => { d with roll := false }) (reasonsShown n s)

theorem sameLimits_breach (hn : n < 4) (s : State) : sameLimits n s (setFi pgDvfs Reg.DVFS_OPC_BREACH n 0 s) :=
  sameLimits_setFi hn (by decide) (by decide) 0 ⟨fun _ _ => rfl, fun _ _ => rfl⟩

theorem selectDie_above (hn : n < 4) (h : opFloor s n ≤ selectOp s n) : selectDie n s = beginStep n (rolled n s) := by
  have low : decide (selectOp s n < opFloor s n) = false := decide_eq_false (Nat.not_lt.2 h)
  have same : reasons (setFi pgDvfs Reg.DVFS_OPC_BREACH n 0 s) n = reasons s n := reasons_congr (sameLimits_breach hn s) (setFi_pwr ..)
  simp only [selectDie, low, Bool.false_and, Bool.false_eq_true, if_false, same, rolled, reasonsShown]

theorem reasonsShown_pwr (n : Nat) (s : State) : (reasonsShown n s).pwr = s.pwr := by rw [reasonsShown, setFi_pwr, setFi_pwr]

theorem rolled_regs (n : Nat) (s : State) : (rolled n s).regs = (reasonsShown n s).regs := by rw [rolled, modDiePwr_regs]

theorem rolled_limits (hn : n < 4) (s : State) : sameLimits n s (rolled n s) :=
  sameLimits_same (rolled_regs n s) (sameLimits_setFi hn (by decide) (by decide) _ (sameLimits_breach hn s))

theorem rolled_pwr (hd : s.pwr.dies[n]? = some d) : (rolled n s).pwr = { s.pwr with dies := s.pwr.dies.set n { d with roll := false } } := by
  rw [rolled, modDiePwr_pwr (d := d) (by rwa [reasonsShown_pwr]), reasonsShown_pwr]

theorem rolled_die (hd : s.pwr.dies[n]? = some d) : diePwr (rolled n s) n = { d with roll := false } := by
  rw [rolled, diePwr_modDiePwr (d := d) (by rwa [reasonsShown_pwr])]

theorem rolled_select (hn : n < 4) (hd : s.pwr.dies[n]? = some d) : selectOp (rolled n s) n = selectOp s n :=
  selectOp_congr (rolled_limits hn s) ((rolled_die hd).trans (by rw [diePwr_of hd]))

theorem rolled_setPoint (hn : n < 4) (k : Nat) (s : State) : setPoint (rolled n s) n k = setPoint s n k := by
  have words : regsBut [pageBase pgDvfs + 0x40 + 4 * n, pageBase pgDvfs + 0x50 + 4 * n] s (rolled n s) :=
    regsBut_same (rolled_regs n s) (regsBut_setFi _ (by simp [fieldAddr, Reg.DVFS_THR_ACT, Nat.mul_comm])
      (regsBut_setFi _ (by simp [fieldAddr, Reg.DVFS_OPC_BREACH, Nat.mul_comm]) (regsBut_refl _ s)))
  have aside (r : Row) (hr : r.off = 0xA0 ∧ r.s1 = 0x40 ∧ r.s2 = 4) : getFij (rolled n s) pgDvfs r n k = getFij s pgDvfs r n k :=
    getFij_regsBut words (by simp only [fieldAddr, hr, List.mem_cons, List.not_mem_nil, or_false, not_or]; omega)
  simp only [setPoint, aside Reg.DVFS_VT_V_TEST (by decide), aside Reg.DVFS_VT_OFFSET (by decide)]

/-- The words of the times of the throttle reasons. -/
def reasonWords : List Nat := (List.range 22).map fun k => pageBase pgDvfs + 0x1C0 + 4 * k

/-- The reasons of `l` are counted for 1 µs. -/
def reasonsCounted (l : List Nat) (s : State) : State := l.foldl (fun s b => bump64 pgDvfs Reg.DVFS_THR_US_LO Reg.DVFS_THR_US_HI (b + 1) 1 s) s

theorem reasonsCounted_leaves {l : List Nat} (h : ∀ b ∈ l, b < 10) (s : State) :
    regsBut reasonWords s (reasonsCounted l s) ∧ samesBut [.regs] s (reasonsCounted l s) := by
  have word {b : Nat} (hb : b < 10) (k : Nat) (hk : k < 2) : pageBase pgDvfs + (0x1C0 + 4 * k) + (b + 1) * 8 + 0 * 0 ∈ reasonWords :=
    List.mem_map.2 ⟨2 * (b + 1) + k, List.mem_range.2 (by omega), by omega⟩
  refine ⟨?_, samesBut_keeps (keeps_foldl (Keeps.refl _ s) fun _ _ k => bump64_keeps _ _ _ _ _ (by decide) k)⟩
  refine List.foldlRecOn (motive := regsBut reasonWords s) _ _ (regsBut_refl _ s) fun t k b hb => ?_
  exact regsBut_setFi _ (word (h b hb) 1 (by decide)) (regsBut_setFi _ (word (h b hb) 0 (by decide)) k)

/-- With one die in service a selection is that die's, and its reasons are counted. -/
theorem exec_opSelect (hn : n < 4) (one : diesIn s = [n]) (h : opFloor s n ≤ selectOp s n) :
    ∃ l, (∀ b ∈ l, b < 10) ∧ exec .opSelect s = .next (reasonsCounted l (beginStep n (rolled n s))) := by
  have run : ∃ l, (∀ b ∈ l, b < 10) ∧ exec .opSelect s = .next (reasonsCounted l ((diesIn s).foldl (fun s n => selectDie n s) s)) :=
    ⟨bitsSet 10 _, fun b hb => List.mem_range.1 (List.mem_filter.1 hb).1, rfl⟩
  rwa [one, List.foldl_cons, List.foldl_nil, selectDie_above hn h] at run

/-- CD_n is at point `op` after a selection, with the change `e` in progress. -/
def chosenPoint (n op : Nat) (e : Option Nat) (d : DiePwr) (s u : State) : Prop :=
  samesBut [.regs, .pwr] s u ∧ u.pwr = { s.pwr with dies := s.pwr.dies.set n { d with roll := false, step := e } } ∧ opAct u n = op ∧
    getFi u pgDvfs Reg.DVFS_OPC_BREACH n = 0 ∧ getFi u pgDvfs Reg.DVFS_THR_ACT n = reasons s n % 1024

theorem chosenPoint_counted {op : Nat} {e : Option Nat} {l : List Nat} (hn : n < 4) (hl : ∀ b ∈ l, b < 10) (h : chosenPoint n op e d s u) :
    chosenPoint n op e d s (reasonsCounted l u) := by
  obtain ⟨same, pwr, act, breach, shown⟩ := h
  obtain ⟨words, rest⟩ := reasonsCounted_leaves hl u
  have field {r : Row} (hr : r.s1 = 4 ∧ r.off < 0x54) : getFi (reasonsCounted l u) pgDvfs r n = getFi u pgDvfs r n := by
    refine getFij_regsBut words fun hm => ?_
    obtain ⟨k, -, e⟩ := List.mem_map.1 hm
    simp only [fieldAddr, hr.1] at e
    omega
  exact ⟨samesBut_trans_of_subset (by simp) same rest, (rest.2 .pwr (by decide)).trans pwr, (field (by decide)).trans act, (field (by decide)).trans breach,
    (field (by decide)).trans shown⟩

theorem rolled_chosen (hn : n < 4) (hd : s.pwr.dies[n]? = some d) (idle : d.step = none) : chosenPoint n (opAct s n) none d s (rolled n s) := by
  obtain ⟨-, -, act, -⟩ := sameLimits_points (rolled_limits hn s)
  have field {r : Row} : getFi (rolled n s) pgDvfs r n = getFi (reasonsShown n s) pgDvfs r n := getFi_congr (rolled_regs n s) pgDvfs r n
  refine ⟨samesBut_keeps (modDiePwr_keeps n _ (by decide) (setFi_keeps _ _ _ _ (by decide) (setFi_keeps _ _ _ _ (by decide) (Keeps.refl _ s)))), ?_, act, ?_, ?_⟩
  · rw [rolled_pwr hd, ← idle]
  · rw [field, reasonsShown, getFi_setFi_apart (r := Reg.DVFS_THR_ACT) (r' := Reg.DVFS_OPC_BREACH) (by decide) rfl (by decide), getFi_setFi_same (by decide)]
    exact Nat.zero_mod _
  · rw [field, reasonsShown, getFi_setFi_same (by decide)]
    rfl

theorem stepTo_pwr (hd : s.pwr.dies[n]? = some d) (e : Option Nat) :
    (modDiePwr n (fun d => { d with step := e }) (rolled n s)).pwr = { s.pwr with dies := s.pwr.dies.set n { d with roll := false, step := e } } := by
  have here : n < s.pwr.dies.length := (List.getElem?_eq_some_iff.1 hd).1
  have own : (rolled n s).pwr.dies[n]? = some { d with roll := false } := by rw [rolled_pwr hd]; simp [here]
  rw [modDiePwr_pwr own, rolled_pwr hd, List.set_set]

/-- Downward the clock switches first. -/
def steppedDown (n k : Nat) (s : State) : State := setFi pgDvfs Reg.DVFS_OPC_ACT n k (modDiePwr n (fun d => { d with step := some k }) (rolled n s))

/-- Upward the voltage rises first. -/
def steppedUp (n k : Nat) (s : State) : State := setF (pgVrc n) Reg.VRC_VSET (setPoint s n k) (modDiePwr n (fun d => { d with step := some k }) (rolled n s))

section Steps

variable (hn : n < 4) (hd : s.pwr.dies[n]? = some d) (idle : d.step = none)

include hn hd idle

theorem beginStep_rolled : beginStep n (rolled n s) = if selectOp s n = opAct s n then rolled n s
    else if selectOp s n < opAct s n then steppedDown n (opAct s n - 1) s else steppedUp n (opAct s n + 1) s := by
  obtain ⟨-, -, act, -⟩ := sameLimits_points (rolled_limits hn s)
  have still : (diePwr (rolled n s) n).step = none := by rw [rolled_die hd, ← idle]
  simp only [beginStep, rolled_select hn hd, act, still, ne_eq, not_true_eq_false, false_or, rolled_setPoint hn]
  rfl

theorem steppedDown_chosen (hk : k < 16) : chosenPoint n k (some k) d s (steppedDown n k s) := by
  obtain ⟨same, -, -, breach, shown⟩ := rolled_chosen hn hd idle
  refine ⟨samesBut_trans_of_subset (m := [.regs, .pwr]) (by simp) same (samesBut_keeps (setFi_keeps _ _ _ _ (by decide) (modDiePwr_keeps n _ (by decide) (Keeps.refl _ _)))),
    ?_, ?_, ?_, ?_⟩
  · rw [steppedDown, setFi_pwr, stepTo_pwr hd]
  · rw [steppedDown, opAct, getFi_setFi_same (by decide)]
    exact Nat.mod_eq_of_lt hk
  · rw [steppedDown, getFi_setFi_apart (r := Reg.DVFS_OPC_ACT) (r' := Reg.DVFS_OPC_BREACH) (by decide) rfl (by decide), getFi_modDiePwr, breach]
  · rw [steppedDown, getFi_setFi_apart (r := Reg.DVFS_OPC_ACT) (r' := Reg.DVFS_THR_ACT) (by decide) rfl (by decide), getFi_modDiePwr, shown]

theorem steppedUp_chosen (k : Nat) : chosenPoint n (opAct s n) (some k) d s (steppedUp n k s) := by
  obtain ⟨same, -, act, breach, shown⟩ := rolled_chosen hn hd idle
  have field (r : Row) (hr : r.s1 = 4 ∧ r.off < 0x54) : getFi (steppedUp n k s) pgDvfs r n = getFi (rolled n s) pgDvfs r n := by
    have apart : fieldAddr pgDvfs r n 0 ≠ fieldAddr (pgVrc n) Reg.VRC_VSET 0 0 := by
      simp only [fieldAddr, pageBase, hr.1, Reg.VRC_VSET]
      omega
    rw [steppedUp, setF, getFi, getFij_setFij_ne apart, ← getFi, getFi_modDiePwr]
  refine ⟨samesBut_trans_of_subset (m := [.regs, .pwr]) (by simp) same (samesBut_keeps (setF_keeps _ _ _ (by decide) (modDiePwr_keeps n _ (by decide) (Keeps.refl _ _)))),
    ?_, (field _ (by decide)).trans act, (field _ (by decide)).trans breach, (field _ (by decide)).trans shown⟩
  rw [steppedUp, setF_pwr, stepTo_pwr hd]

end Steps

/-- A set-point fits its field. -/
theorem setPoint_lt (s : State) (n k : Nat) : setPoint s n k < 2 ^ 16 := by
  have test : getFij s pgDvfs Reg.DVFS_VT_V_TEST n k < 2 ^ 10 := getFij_lt s pgDvfs Reg.DVFS_VT_V_TEST n k
  have offset : getFij s pgDvfs Reg.DVFS_VT_OFFSET n k < 2 ^ 6 := getFij_lt s pgDvfs Reg.DVFS_VT_OFFSET n k
  simp only [setPoint]
  omega

theorem getF_vset_setPoint (s t : State) (r n k : Nat) : getF (setF (pgVrc r) Reg.VRC_VSET (setPoint s n k) t) (pgVrc r) Reg.VRC_VSET = setPoint s n k :=
  (getF_setF_same (by decide) _ t).trans (Nat.mod_eq_of_lt (setPoint_lt s n k))

end Sys2Proof.Machine
end

section
/-! PROOFS. Chapter 13: the commands of the operating points, settled (R340, R343, R344, R347, R348, R352 to R356). -/

namespace Sys2Proof.Machine

open Sys2Proof

variable {s : State} {n k t : Nat} {d : DiePwr} {who : Agent}

/-! ### Steps and the margin (R347, R348) -/

/-- The step has ended at point `k`: the clock has switched, and the voltage is at the set-point. -/
def stepEnded (n k : Nat) (s : State) : State :=
  setF (pgVrc n) Reg.VRC_VSET (setPoint s n k) (modDiePwr n (fun d => { d with step := none }) (setFi pgDvfs Reg.DVFS_OPC_ACT n k s))

theorem exec_opStepDone (hn : n < 4) (h : (diePwr s n).step = some k) : exec (.opStepDone n) s = .next (stepEnded n k s) := by
  have words : regsBut [pageBase pgDvfs + 0x40 + 4 * n] s (modDiePwr n (fun d => { d with step := none }) (setFi pgDvfs Reg.DVFS_OPC_ACT n k s)) :=
    regsBut_same (modDiePwr_regs ..) (regsBut_setFi _ (by simp [fieldAddr, Reg.DVFS_OPC_ACT, Nat.mul_comm]) (regsBut_refl _ s))
  have aside (r : Row) (hr : r.off = 0xA0 ∧ r.s1 = 0x40 ∧ r.s2 = 4) : getFij (modDiePwr n (fun d => { d with step := none }) (setFi pgDvfs Reg.DVFS_OPC_ACT n k s)) pgDvfs r n k =
      getFij s pgDvfs r n k :=
    getFij_regsBut words (by simp only [fieldAddr, hr, List.mem_singleton]; omega)
  change execOpStepDone n s = _
  rw [execOpStepDone, h]
  simp only [stepEnded, setPoint, aside Reg.DVFS_VT_V_TEST (by decide), aside Reg.DVFS_VT_OFFSET (by decide)]

theorem stepEnded_shows (hn : n < 4) (hd : s.pwr.dies[n]? = some d) (hk : k < 16) :
    (stepEnded n k s).pwr = { s.pwr with dies := s.pwr.dies.set n { d with step := none } } ∧ opAct (stepEnded n k s) n = k ∧
      getF (stepEnded n k s) (pgVrc n) Reg.VRC_VSET = setPoint s n k ∧ regsBut [pageBase pgDvfs + 0x40 + 4 * n, pageBase (pgVrc n) + 0x44] s (stepEnded n k s) := by
  have aside : fieldAddr pgDvfs Reg.DVFS_OPC_ACT n 0 ≠ fieldAddr (pgVrc n) Reg.VRC_VSET 0 0 := by
    simp only [fieldAddr, pageBase, Reg.DVFS_OPC_ACT, Reg.VRC_VSET]
    omega
  refine ⟨?_, ?_, getF_vset_setPoint .., regsBut_setF _ (by simp [fieldAddr, Reg.VRC_VSET]) (regsBut_same (modDiePwr_regs ..)
    (regsBut_setFi _ (by simp [fieldAddr, Reg.DVFS_OPC_ACT, Nat.mul_comm]) (regsBut_refl _ s)))⟩
  · rw [stepEnded, setF_pwr, modDiePwr_pwr (d := d) (by rwa [setFi_pwr]), setFi_pwr]
  · rw [stepEnded, opAct, getFi, setF, getFij_setFij_ne aside, ← getFi, getFi_modDiePwr, getFi_setFi_same (by decide)]
    exact Nat.mod_eq_of_lt hk

/-- The low samples in a row at the present point, after one of slack `m` that follows those of `b`. -/
def marginCount (s : State) (n m : Nat) (b : Nat × Nat) : Nat × Nat :=
  (if decide (m < getFi s pgDvfs Reg.DVFS_AGE_MARGIN_MIN n) then (if b.2 = opAct s n then b.1 + 1 else 1) else 0, opAct s n)

/-- The smallest slack shows, and low samples are counted. -/
def marginNoted (n m : Nat) (s : State) : State :=
  modDiePwr n (fun d => { d with below := marginCount s n m d.below }) (setFi pgDvfs Reg.DVFS_AGE_MARGIN n (Nat.min m 255) s)

theorem exec_marginSample (hn : n < 4) (x : Nat) (slack : List Nat) (s : State) :
    exec (.marginSample n (x :: slack)) s = .next (marginNoted n (slack.foldl Nat.min x) s) := congrArg Host.Outcome.next (if_pos hn)

theorem marginNoted_shows (hd : s.pwr.dies[n]? = some d) (m : Nat) :
    (marginNoted n m s).pwr = { s.pwr with dies := s.pwr.dies.set n { d with below := marginCount s n m d.below } } ∧
      getFi (marginNoted n m s) pgDvfs Reg.DVFS_AGE_MARGIN n = Nat.min m 255 ∧ regsBut [pageBase pgDvfs + 0x1A0 + 4 * n] s (marginNoted n m s) := by
  refine ⟨?_, ?_, regsBut_same (modDiePwr_regs ..) (regsBut_setFi _ (by simp [fieldAddr, Reg.DVFS_AGE_MARGIN, Nat.mul_comm]) (regsBut_refl _ s))⟩
  · rw [marginNoted, modDiePwr_pwr (d := d) (by rwa [setFi_pwr]), setFi_pwr]
  · rw [marginNoted, getFi_modDiePwr, getFi_setFi_same (by decide)]
    exact Nat.mod_eq_of_lt (Nat.lt_of_le_of_lt (Nat.min_le_right m 255) (by decide))

/-! ### Floors and envelopes (R352, R356) -/

/-- A refused request records its code and changes nothing else. -/
theorem powerRequest_refused {p : Page} (hm : pageBase p ≠ pageBase pgMbx) (hl : pageBase p ≠ pageBase pgLdg) (s : State) :
    samesBut report s (record p 0x67 s) ∧ codeIn (record p 0x67 s) p 0x67 ∧ quietBut [] s (record p 0x67 s) :=
  ⟨samesBut_keeps (record_keeps p 0x67 (by decide) (Keeps.refl _ s)), codeIn_record hm hl (by decide) s, quietBut_record p 0x67 (quietBut_refl [] s)⟩

theorem exec_floorPendWrite (hc : controls who = true) (hn : n < 4) (hk : k < 16) : exec (.floorPendWrite who n k) s = .next (writeFloor n k s) :=
  congrArg Host.Outcome.next ((if_pos ⟨hn, hk⟩).trans (asMaster_hub hc (by simp only [pageBase]; omega) _ s))

/-- A floor of a die that may stand pending (R352). -/
def floorPasses (s : State) (n k : Nat) : Prop := k ≤ opTop s n ∧ floorsPass s (envNow s) ((floorsPend s).set n k) = true

theorem writeFloor_pends (free : locked s pgDvfs = false) (new : k ≠ getFi s pgDvfs Reg.DVFS_OPC_FLOOR_PEND n) (h : floorPasses s n k) :
    writeFloor n k s = setFi pgDvfs Reg.DVFS_OPC_FLOOR_PEND n k (advanceCfgGen s) := by
  obtain ⟨top, pass⟩ := h
  rw [writeFloor, if_neg new, if_neg (by simp [free]), if_neg (by simp [pass, top])]

theorem writeFloor_refused (free : locked s pgDvfs = false) (new : k ≠ getFi s pgDvfs Reg.DVFS_OPC_FLOOR_PEND n) (h : ¬ floorPasses s n k) :
    writeFloor n k s = record pgDvfs 0x67 s := by
  have fails : opTop s n < k ∨ floorsPass s (envNow s) ((floorsPend s).set n k) = false := by
    by_contra hc
    simp only [not_or, Nat.not_lt, Bool.not_eq_false] at hc
    exact h hc
  rw [writeFloor, if_neg new, if_neg (by simp [free]), if_pos fails]

theorem floorPend_shows (hn : n < 4) (hk : k < 16) (s : State) :
    let u := setFi pgDvfs Reg.DVFS_OPC_FLOOR_PEND n k (advanceCfgGen s)
    samesBut [.regs] s u ∧ getFi u pgDvfs Reg.DVFS_OPC_FLOOR_PEND n = k ∧ getF u pgAdm Reg.ADM_CFG_GEN = (getF s pgAdm Reg.ADM_CFG_GEN + 1) % 2 ^ 32 ∧
      regsBut [pageBase pgDvfs + 0x40 + 4 * n, pageBase pgAdm + Reg.ADM_CFG_GEN.off] s u := by
  have aside : fieldAddr pgAdm Reg.ADM_CFG_GEN 0 0 ≠ fieldAddr pgDvfs Reg.DVFS_OPC_FLOOR_PEND n 0 := by
    simp only [fieldAddr, pageBase, Reg.ADM_CFG_GEN, Reg.DVFS_OPC_FLOOR_PEND]
    omega
  refine ⟨samesBut_keeps (setFi_keeps _ _ _ _ (by decide) (setF_keeps _ _ _ (by decide) (Keeps.refl _ s))), (getFi_setFi_same (by decide) n k _).trans (Nat.mod_eq_of_lt hk), ?_,
    regsBut_setFi _ (by simp [fieldAddr, Reg.DVFS_OPC_FLOOR_PEND, Nat.mul_comm]) (regsBut_setF _ (by simp [fieldAddr]) (regsBut_refl _ s))⟩
  rw [getF, setFi, getFij_setFij_ne aside, ← getF, advanceCfgGen, getF_setF_same (by decide)]
  exact Nat.mod_mod _ _

theorem exec_envRequest (hc : controls who = true) {e : Nat} (he : e < 4) : exec (.envRequest who e) s = .next (writeEnv e s) :=
  congrArg Host.Outcome.next ((if_pos he).trans (asMaster_hub hc (by decide) _ s))

theorem exec_envIslRequest (hc : controls who = true) {e : Nat} (he : e < 4) : exec (.envIslRequest who e) s = .next (writeEnvIsl who e s) :=
  congrArg Host.Outcome.next ((if_pos he).trans (asMaster_hub hc (by decide) _ s))

theorem writeEnv_pends (hk : k < 3) (s : State) :
    let u := writeEnv k s
    samesBut [.regs] s u ∧ getF u pgCap Reg.CAP_ENV_REQ = k ∧ getF u pgCap Reg.CAP_STAT_CORE_PEND = 1 ∧ regsBut [pageBase pgCap + 0x40, pageBase pgCap + 0x48] s u := by
  have run : writeEnv k s = setF pgCap Reg.CAP_STAT_CORE_PEND 1 (setF pgCap Reg.CAP_ENV_REQ k s) := if_neg (by omega)
  rw [run]
  refine ⟨samesBut_keeps (setF_keeps _ _ _ (by decide) (setF_keeps _ _ _ (by decide) (Keeps.refl _ s))), ?_, getF_setF_same (by decide) 1 _,
    regsBut_setF _ (by decide) (regsBut_setF _ (by decide) (regsBut_refl _ s))⟩
  rw [getF_setF_apart (by decide) (by decide), getF_setF_same (by decide)]
  exact Nat.mod_eq_of_lt (Nat.lt_trans hk (by decide))

theorem writeEnvIsl_pends (hk : k < 3) (hi : inCharge s who = true) :
    let u := writeEnvIsl who k s
    samesBut [.regs, .pwr] s u ∧ u.pwr = { s.pwr with envIsl := k } ∧ getF u pgCap Reg.CAP_STAT_ISL_PEND = 1 ∧ regsBut [pageBase pgCap + 0x48] s u := by
  have run : writeEnvIsl who k s = setF pgCap Reg.CAP_STAT_ISL_PEND 1 (modPwr (fun p => { p with envIsl := k }) s) := if_neg (by simp [hi, hk])
  rw [run]
  exact ⟨samesBut_keeps (setF_keeps _ _ _ (by decide) (modPwr_keeps _ (by decide) (Keeps.refl _ s))), rfl, getF_setF_same (by decide) 1 _,
    regsBut_setF _ (by decide) (regsBut_same (modPwr_regs ..) (regsBut_refl _ s))⟩

theorem writeEnvIsl_refused (h : inCharge s who = false ∨ 3 ≤ k) : writeEnvIsl who k s = record pgCap 0x67 s := if_pos h

/-! ### Droops (R354) -/

/-- A droop: the phases are back, the clock is halved, and the droop is counted. -/
def droopShown (n t : Nat) (s : State) : State :=
  modDiePwr n (fun d => { d with half := true, drooped := true, droopAt := t }) (readdPhases n (bump (pgVrc n) Reg.VRC_DROOPS 1 (at_ t s)))

theorem readdPhases_pwr (r : Nat) (s : State) : (readdPhases r s).pwr = s.pwr :=
  (readdPhases_keeps r (K := 2097152) (by decide) (Keeps.refl _ s)).frame .pwr (by decide)

theorem regsBut_readdPhases (r : Nat) (s : State) : regsBut [pageBase (pgVrc r) + 0x40] s (readdPhases r s) := by
  unfold readdPhases
  split
  · exact regsBut_refl _ s
  · exact regsBut_setF _ (by simp [fieldAddr, Reg.VRC_STAT_ACTIVE]) (regsBut_refl _ s)

theorem readdPhases_active {r : Nat} (h : getF s (pgVrc r) Reg.VRC_STAT_ACTIVE ≠ 0) : getF (readdPhases r s) (pgVrc r) Reg.VRC_STAT_ACTIVE = getF s (pgVrc r) Reg.VRC_STAT_GOOD := by
  rw [readdPhases, if_neg h, getF_setF_same (by decide)]
  exact Nat.mod_eq_of_lt (getFij_lt s (pgVrc r) Reg.VRC_STAT_GOOD 0 0)

theorem exec_droopDetect (hn : n < 4) (first : (diePwr s n).drooped = false) (t : Nat) : exec (.droopDetect n t) s = .next (record (pgVrc n) 0x64 (droopShown n t s)) := by
  have marks : (!(diePwr (readdPhases n (bump (pgVrc n) Reg.VRC_DROOPS 1 (at_ t s))) n).drooped) = true := by
    rw [diePwr_congr (readdPhases_pwr ..), diePwr_congr (bump_pwr ..), diePwr_congr (at_pwr ..), first]
    rfl
  exact congrArg Host.Outcome.next ((if_neg (by omega)).trans (if_pos marks))

theorem droopShown_shows (hn : n < 4) (hd : s.pwr.dies[n]? = some d) (t : Nat) :
    let u := record (pgVrc n) 0x64 (droopShown n t s)
    u.pwr = { s.pwr with dies := s.pwr.dies.set n { d with half := true, drooped := true, droopAt := t } } ∧ codeIn u (pgVrc n) 0x64 ∧
      getF u (pgVrc n) Reg.VRC_DROOPS = satAdd 32 (getF s (pgVrc n) Reg.VRC_DROOPS) 1 ∧ quietBut [pageBase (pgVrc n) + 0x40, pageBase (pgVrc n) + 0x54] s u ∧
      (getF s (pgVrc n) Reg.VRC_STAT_ACTIVE ≠ 0 → getF u (pgVrc n) Reg.VRC_STAT_ACTIVE = getF s (pgVrc n) Reg.VRC_STAT_GOOD) := by
  obtain ⟨mbx, ldg⟩ := vrc_page (show n < 5 by omega)
  have field (r : Row) (hr : 64 ≤ r.off ∧ r.off < 4096) : getF (record (pgVrc n) 0x64 (droopShown n t s)) (pgVrc n) r =
      getF (readdPhases n (bump (pgVrc n) Reg.VRC_DROOPS 1 (at_ t s))) (pgVrc n) r := by
    rw [getF_record (by rw [fieldAddr_one]; exact quiet_vrc (by omega) hr), droopShown, getF_modDiePwr]
  have back := regsBut_readdPhases n (bump (pgVrc n) Reg.VRC_DROOPS 1 (at_ t s))
  refine ⟨?_, codeIn_record mbx ldg (by decide) _, ?_, ?_, fun active => ?_⟩
  · rw [record_pwr, droopShown, modDiePwr_pwr (d := d) (by rwa [readdPhases_pwr, bump_pwr, at_pwr]), readdPhases_pwr, bump_pwr, at_pwr]
  · rw [field _ (by decide), getF_regsBut back (by simp [fieldAddr, Reg.VRC_DROOPS]), getF_bump_same (by decide), getF_at]
    rfl
  · have counted : regsBut [pageBase (pgVrc n) + 0x54] s (bump (pgVrc n) Reg.VRC_DROOPS 1 (at_ t s)) :=
      regsBut_bump _ (by simp [fieldAddr, Reg.VRC_DROOPS]) (regsBut_at t (regsBut_refl _ s))
    exact quietBut_record _ _ (quietBut_same (modDiePwr_regs ..) (quietBut_of_regsBut (regsBut_trans (regsBut_mono (by simp) counted) (regsBut_mono (by simp) back))))
  · rw [field _ (by decide), readdPhases_active (by rwa [getF_bump_apart (by decide) (by decide), getF_at]), getF_bump_apart (by decide) (by decide), getF_at]

theorem exec_droopTimeout (hn : n < 4) (half : (diePwr s n).half = true) (due : (diePwr s n).droopAt + 10000 ≤ t) :
    exec (.droopTimeout n t) s = .next (modDiePwr n (fun d => { d with droop := opAct s n - 1 }) (at_ t s)) := congrArg Host.Outcome.next (if_pos ⟨hn, half, due⟩)

theorem exec_droopHoldEnd (n : Nat) (s : State) : exec (.droopHoldEnd n) s = .next (modDiePwr n (fun d => { d with droop := 15 }) s) := rfl

/-- Settles O46: each command runs its own branch, and the selection is that of the one die in service. -/
theorem operatingPoints : Obligations.OperatingPoints := by
  unfold Obligations.OperatingPoints
  intro n r t k x u0 slack who d s hn hd die opc vset stat m low act refused
  have own : diePwr s n = d := diePwr_of hd
  have opAct_lt : opAct s n < 16 := getFij_lt s pgDvfs Reg.DVFS_OPC_ACT n 0
  refine ⟨⟨fun above => ?_, fun within => ?_⟩, fun out => ?_, fun hr low' due en active => ?_, fun one idle above => ⟨fun down => ?_, fun stay => ?_, fun up => ?_⟩,
    fun step hk => ?_, ?_, fun hc free hk new => ⟨fun pass => ?_, fun fail => ?_⟩, fun hc => ⟨fun hk => ?_, ?_, ?_, fun hk hi => ?_, fun hk hi => ?_⟩,
    fun first => ?_, fun half due => ?_, ?_⟩
  · exact does_reach rfl (does (exec_ilimStep hn above) (modDiePwr_pwr hd _))
  · exact does (exec_ilimStep_not within) rfl
  · obtain ⟨active, volts, words⟩ := disableRail_shows n (modDiePwr n (fun d => { d with outAt := none }) s)
    exact does_reach rfl (does (exec_railStageDisable hn (by rwa [own])) ⟨modDiePwr_pwr hd _, active, volts, words⟩)
  · exact does_reach rfl (does (exec_phaseShed hr low' due en active) ⟨(getF_setF_same (by decide) _ _).trans (Nat.mod_eq_of_lt (lowBits_lt _ _)), rfl,
      regsBut_setF _ (by simp [stat, fieldAddr, Reg.VRC_STAT_ACTIVE]) (regsBut_at t (regsBut_refl _ s))⟩)
  · obtain ⟨l, hl, run⟩ := exec_opSelect hn one above
    rw [beginStep_rolled hn hd idle, if_neg (by omega), if_pos down] at run
    exact does run (chosenPoint_counted hn hl (steppedDown_chosen hn hd idle (by omega)))
  · obtain ⟨l, hl, run⟩ := exec_opSelect hn one above
    rw [beginStep_rolled hn hd idle, if_pos stay] at run
    exact does run (chosenPoint_counted hn hl (rolled_chosen hn hd idle))
  · obtain ⟨l, hl, run⟩ := exec_opSelect hn one above
    rw [beginStep_rolled hn hd idle, if_neg (by omega), if_neg (by omega)] at run
    refine does run ⟨chosenPoint_counted hn hl (steppedUp_chosen hn hd idle _), ?_⟩
    have aside : fieldAddr (pgVrc n) Reg.VRC_VSET 0 0 ∉ reasonWords := by
      simp only [reasonWords, fieldAddr, pageBase, Reg.VRC_VSET, List.mem_map, List.mem_range]
      omega
    rw [getF_regsBut (reasonsCounted_leaves hl _).1 aside, steppedUp, getF_vset_setPoint]
  · exact does_reach rfl (does (exec_opStepDone hn (by rw [own, step])) (stepEnded_shows hn hd hk))
  · obtain ⟨pwr, margin, words⟩ := marginNoted_shows hd m
    refine does_reach rfl (does (exec_marginSample hn x slack s) ⟨margin, fun lo same => ?_, fun lo other => ?_, fun hi => ?_, words⟩)
    · rw [marginCount, if_pos (decide_eq_true lo), if_pos same] at pwr
      exact pwr
    · rw [marginCount, if_pos (decide_eq_true lo), if_neg other] at pwr
      exact pwr
    · rw [marginCount, if_neg fun lo => hi (of_decide_eq_true lo)] at pwr
      exact pwr
  · exact does ((exec_floorPendWrite hc hn hk).trans (congrArg _ (writeFloor_pends free new pass))) (floorPend_shows hn hk s)
  · exact does ((exec_floorPendWrite hc hn hk).trans (congrArg _ (writeFloor_refused free new fail))) (powerRequest_refused (by decide) (by decide) s)
  · exact does (exec_envRequest hc (by omega)) (writeEnv_pends hk s)
  · exact does ((exec_envRequest hc (by decide)).trans (congrArg _ (if_pos (by decide)))) (powerRequest_refused (by decide) (by decide) s)
  · exact does ((exec_envIslRequest hc (by decide)).trans (congrArg _ (writeEnvIsl_refused (Or.inr (by decide))))) (powerRequest_refused (by decide) (by decide) s)
  · exact does (exec_envIslRequest hc (by omega)) (writeEnvIsl_pends hk hi)
  · exact does ((exec_envIslRequest hc (by omega)).trans (congrArg _ (writeEnvIsl_refused (Or.inl hi)))) (powerRequest_refused (by decide) (by decide) s)
  · exact does_reach rfl (does (exec_droopDetect hn (by rwa [own]) t) (droopShown_shows hn hd t))
  · exact does_reach rfl (does (exec_droopTimeout hn (by rwa [own]) (by rwa [own])) ⟨rfl, modDiePwr_pwr (s := at_ t s) hd _⟩)
  · exact does_reach rfl (does (exec_droopHoldEnd n s) (modDiePwr_pwr hd _))

end Sys2Proof.Machine
end

section
/-! PROOFS. Chapter 13: the samples of the rails, and the phases that they lose (R339, R342 to R344, R424). -/

namespace Sys2Proof.Machine

open Sys2Proof

variable {s t u : State} {r ph n k : Nat} {y : RailPwr} {x : RailSample}

/-! ### A rail beside its page -/

theorem railPwr_of (h : s.pwr.rails[r]? = some y) : railPwr s r = y := by simp [railPwr, List.getD, h]

theorem railPwr_modRail (h : s.pwr.rails[r]? = some y) (f : RailPwr → RailPwr) : railPwr (modRail r f s) r = f y := by
  simp [railPwr, modRail, List.getD, h]

/-- The words of the caps in force. -/
def limWords : List Nat := (List.range 3).map fun w => pageBase pgCap + 0x60 + 4 * w

theorem regsBut_showLims (s : State) : regsBut limWords s (showLims s) := by
  refine List.foldlRecOn (motive := regsBut limWords s) _ _ (regsBut_refl _ s) fun t k w hw => regsBut_setFi _ ?_ k
  exact List.mem_map.2 ⟨w, hw, by simp [fieldAddr, Reg.CAP_LIM, Nat.mul_comm]⟩

theorem showLims_same (s : State) : samesBut [.regs] s (showLims s) := samesBut_keeps (showLims_keeps (by decide) (Keeps.refl _ s))

theorem regsBut_showPhase (r : Nat) (s : State) : regsBut [pageBase (pgVrc r) + 0x50] s (showPhase r s) :=
  regsBut_setF _ (by simp [fieldAddr, Reg.VRC_PH_IMON]) (regsBut_setF _ (by simp [fieldAddr, Reg.VRC_PH_TEMP])
    (regsBut_setF _ (by simp [fieldAddr, Reg.VRC_PH_FAIL]) (regsBut_refl _ s)))

theorem showPhase_same (r : Nat) (s : State) : samesBut [.regs] s (showPhase r s) := samesBut_keeps (showPhase_keeps r (by decide) (Keeps.refl _ s))

/-! ### A sample (R339) -/

/-- What a sample shows of its rail. -/
def sampleShown (r t : Nat) (x : RailSample) (s : State) : State :=
  showPhase r (setF (pgVrc r) Reg.VRC_VSNS x.vsns (setF (pgVrc r) Reg.VRC_IRAIL (unsint 16 (sumI x.imon)) (modRail r (fun y => { y with
    imon := x.imon, temp := x.temp, lowAt := if sumI x.imon < shedBelow r then some (y.lowAt.getD t) else none }) s)))

/-- Beside that a sample brings the rail's phases back, and marks its die. -/
theorem sampleRail_regs (r t : Nat) (x : RailSample) (s : State) : (sampleRail r t x s).regs = (sampleShown r t x s).regs ∨
    (sampleRail r t x s).regs = (readdPhases r (sampleShown r t x s)).regs := by
  have marks (v : State) (c : Prop) [Decidable c] (f : DiePwr → DiePwr) : (if c then modDiePwr r f v else v).regs = v.regs := by split <;> rfl
  by_cases high : shedAbove r < sumI x.imon
  · refine Or.inr ?_
    simp only [sampleRail, if_pos high, sampleShown]
    split
    · rw [marks, modDiePwr_regs]
    · rfl
  · refine Or.inl ?_
    simp only [sampleRail, if_neg high, sampleShown]
    split
    · rw [marks, modDiePwr_regs]
    · rfl

/-- A rail shows its voltage and its current. -/
def railShown (r : Nat) (x : RailSample) (u : State) : Prop :=
  getF u (pgVrc r) Reg.VRC_VSNS = x.vsns % 65536 ∧ getF u (pgVrc r) Reg.VRC_IRAIL = unsint 16 (sumI x.imon) % 65536

theorem railShown_kept {l : List Nat} (hl : ∀ a ∈ l, a ≠ pageBase (pgVrc r) + 0x44 ∧ a ≠ pageBase (pgVrc r) + 0x48) (k : regsBut l s t) (h : railShown r x s) :
    railShown r x t := by
  have field {q : Row} (hq : q.off = 0x44 ∨ q.off = 0x48) : getF t (pgVrc r) q = getF s (pgVrc r) q := by
    refine getF_regsBut k fun hm => ?_
    obtain ⟨volts, amps⟩ := hl _ hm
    rw [fieldAddr_one] at volts amps
    omega
  exact ⟨(field (Or.inl rfl)).trans h.1, (field (Or.inr rfl)).trans h.2⟩

theorem sampleRail_shows (r t : Nat) (x : RailSample) (s : State) : railShown r x (sampleRail r t x s) := by
  have shown : railShown r x (sampleShown r t x s) := by
    refine railShown_kept (by simp) (regsBut_showPhase r _) ⟨getF_setF_same (by decide) _ _, ?_⟩
    rw [getF_setF_apart (by decide) (by decide), getF_setF_same (by decide)]
    rfl
  rcases sampleRail_regs r t x s with h | h
  · exact railShown_kept (l := []) (by simp) (regsBut_same h (regsBut_refl _ _)) shown
  · exact railShown_kept (by simp) (regsBut_same h (regsBut_readdPhases r _)) shown

/-- A sample of a rail writes its page alone. -/
theorem sampleRail_ne {a : Nat} (h : a / 4096 ≠ pageBase (pgVrc r) / 4096) (t : Nat) (x : RailSample) (s : State) : regW (sampleRail r t x s) a = regW s a := by
  have base := pageBase_mod (pgVrc r)
  have aside : ∀ o < 4096, a ≠ pageBase (pgVrc r) + o := fun o ho => by omega
  have shown : regW (sampleShown r t x s) a = regW s a := by
    rw [sampleShown, regsBut_showPhase r _ a (by simpa using aside 0x50 (by decide)), setF_page_ne (by decide) h, setF_page_ne (by decide) h, regW_congr (modRail_regs ..)]
  rcases sampleRail_regs r t x s with e | e
  · rw [regW_congr e, shown]
  · rw [regW_congr e, regsBut_readdPhases r _ a (by simpa using aside 0x40 (by decide)), shown]

/-- The samples of the rails from rail `k` on. -/
def railsSampled (t : Nat) (l : List RailSample) (k : Nat) (s : State) : State := (l.zipIdx k).foldl (fun s x => sampleRail x.2 t x.1 s) s

/-- They write the pages of these rails alone. -/
theorem railsSampled_ne {a : Nat} (l : List RailSample) (h : ∀ r, k ≤ r → a / 4096 ≠ pageBase (pgVrc r) / 4096) (t : Nat) (s : State) :
    regW (railsSampled t l k s) a = regW s a := by
  refine List.foldlRecOn (motive := fun u : State => regW u a = regW s a) _ _ rfl fun u hu e he => ?_
  rw [sampleRail_ne (h e.2 (List.mk_mem_zipIdx_iff_le_and_getElem?_sub.1 he).1), hu]

theorem railsSampled_rail {l : List RailSample} (h : l[r]? = some x) (k t : Nat) (s : State) : railShown (k + r) x (railsSampled t l k s) := by
  induction l generalizing r k s with
  | nil => simp at h
  | cons a l ih =>
    cases r with
    | zero =>
      cases Option.some.inj h
      have later {q : Row} (hq : q.off < 4096) : getF (railsSampled t l (k + 1) (sampleRail k t x s)) (pgVrc k) q = getF (sampleRail k t x s) (pgVrc k) q := by
        simp only [getF, getFij, fieldAddr_one]
        rw [railsSampled_ne _ (fun i _ => by simp only [pageBase]; omega)]
      obtain ⟨vsns, irail⟩ := sampleRail_shows k t x s
      exact ⟨(later (by decide)).trans vsns, (later (by decide)).trans irail⟩
    | succ r =>
      have e : k + (r + 1) = k + 1 + r := by omega
      rw [e]
      exact ih (by simpa using h) (k + 1) (sampleRail k t a s)

/-- VIN as sampled. -/
def vinShown (vinMv vinMa t : Nat) (s : State) : State := setF pgPmc Reg.PMC_VIN_CUR (vinMa / 10) (setF pgPmc Reg.PMC_VIN_MV vinMv (at_ t s))

theorem exec_pmcSample (rails : List RailSample) (vinMv vinMa t : Nat) (s : State) :
    exec (.pmcSample rails vinMv vinMa t) s = .next (railsSampled t (rails.take 5) 0 (vinShown vinMv vinMa t s)) := rfl

theorem vinShown_shows (vinMv vinMa t : Nat) (s : State) :
    getF (vinShown vinMv vinMa t s) pgPmc Reg.PMC_VIN_MV = vinMv % 65536 ∧ getF (vinShown vinMv vinMa t s) pgPmc Reg.PMC_VIN_CUR = vinMa / 10 % 65536 := by
  refine ⟨?_, getF_setF_same (by decide) _ _⟩
  rw [vinShown, getF_setF_apart (by decide) (by decide), getF_setF_same (by decide)]
  rfl

theorem railsSampled_outbox (t : Nat) (l : List RailSample) (k : Nat) (s : State) : (railsSampled t l k s).io = s.io :=
  (keeps_foldl (K := 4) (Keeps.refl _ s) fun _ _ h => sampleRail_keeps _ _ _ (by decide) h).frame .io (by decide)

theorem pmcSample_shows {rails : List RailSample} (hr : r < 5) (h : rails[r]? = some x) (vinMv vinMa t : Nat) (s : State) :
    let u := railsSampled t (rails.take 5) 0 (vinShown vinMv vinMa t s)
    getF u pgPmc Reg.PMC_VIN_MV = vinMv % 65536 ∧ getF u pgPmc Reg.PMC_VIN_CUR = vinMa / 10 % 65536 ∧ getF u (pgVrc r) Reg.VRC_VSNS = x.vsns % 65536 ∧
      getF u (pgVrc r) Reg.VRC_IRAIL = unsint 16 (sumI x.imon) % 65536 ∧ u.io.outbox = s.io.outbox := by
  have vin {q : Row} (hq : q.off = 0x44) : getF (railsSampled t (rails.take 5) 0 (vinShown vinMv vinMa t s)) pgPmc q = getF (vinShown vinMv vinMa t s) pgPmc q := by
    simp only [getF, getFij, fieldAddr_one, hq]
    rw [railsSampled_ne _ (fun i _ => by simp only [pageBase]; omega)]
  obtain ⟨volts, amps⟩ := vinShown_shows vinMv vinMa t s
  obtain ⟨vsns, irail⟩ := railsSampled_rail (l := rails.take 5) (r := r) (x := x) (by rw [List.getElem?_take, if_pos hr, h]) 0 t (vinShown vinMv vinMa t s)
  rw [Nat.zero_add] at vsns irail
  exact ⟨(vin rfl).trans volts, (vin rfl).trans amps, vsns, irail, congrArg (·.outbox) (railsSampled_outbox ..)⟩

/-! ### A phase that is lost (R342 to R344) -/

theorem newlyLost_open {good : Nat} (hp : ph < 8) (h : good.testBit ph = true) : newlyLost good [ph] [] = [(ph, 1)] := by
  interval_cases ph <;> simp [newlyLost, List.range_succ, h]

theorem newlyLost_sense {good : Nat} (hp : ph < 8) (h : good.testBit ph = true) : newlyLost good [] [ph] = [(ph, 2)] := by
  interval_cases ph <;> simp [newlyLost, List.range_succ, h]

/-- The phases of rail `r` that are good without phase `ph`. -/
def goodWithout (s : State) (r ph : Nat) : Nat := putBits (getF s (pgVrc r) Reg.VRC_STAT_GOOD) ph 1 0

/-- What the loss of its first phase shows on a rail. -/
def firstLost (r ph kind code : Nat) (s u : State) : Prop :=
  getF u (pgVrc r) Reg.VRC_STAT_GOOD = goodWithout s r ph ∧ getF u (pgVrc r) Reg.VRC_ILIM = 200 * (bitsSet 8 (goodWithout s r ph)).length ∧ getF u (pgVrc r) Reg.VRC_STAT_STATE = 1 ∧
    getF u (pgVrc r) Reg.VRC_LOSSES = satAdd 32 (getF s (pgVrc r) Reg.VRC_LOSSES) 1 ∧ codeIn u (pgVrc r) code ∧ (railPwr u r).lost = [(ph, kind)]

/-- The phase is lost, and the rail REDUCED. -/
def phaseLost (r ph kind : Nat) (s : State) : State := setF (pgVrc r) Reg.VRC_STAT_STATE 1 (losePhase r (ph, kind) s)

/-- The stage is disabled, and GOOD, ILIM and the count of losses follow. -/
def phaseOff (r ph : Nat) (s : State) : State :=
  setF (pgVrc r) Reg.VRC_ILIM (200 * (bitsSet 8 (goodWithout s r ph)).length) (bump (pgVrc r) Reg.VRC_LOSSES 1 (setF (pgVrc r) Reg.VRC_STAT_GOOD (goodWithout s r ph)
    (setF (pgVrc r) Reg.VRC_STAT_ACTIVE (putBits (getF s (pgVrc r) Reg.VRC_STAT_ACTIVE) ph 1 0) s)))

theorem losePhase_eq (r ph kind : Nat) (s : State) :
    losePhase r (ph, kind) s = record (pgVrc r) (if kind = 1 then 0x60 else 0x61) (modRail r (fun y => { y with lost := (ph, kind) :: y.lost }) (phaseOff r ph s)) := rfl

theorem phaseOff_shows (hp : ph < 8) (s : State) :
    let u := phaseOff r ph s
    getF u (pgVrc r) Reg.VRC_STAT_GOOD = goodWithout s r ph ∧ getF u (pgVrc r) Reg.VRC_ILIM = 200 * (bitsSet 8 (goodWithout s r ph)).length ∧
      getF u (pgVrc r) Reg.VRC_LOSSES = satAdd 32 (getF s (pgVrc r) Reg.VRC_LOSSES) 1 := by
  have byte : goodWithout s r ph < 2 ^ 8 := putBits_lt 0 (getFij_lt s (pgVrc r) Reg.VRC_STAT_GOOD 0 0) (by omega)
  have phases : (bitsSet 8 (goodWithout s r ph)).length ≤ 8 := (List.length_filter_le ..).trans (by simp)
  refine ⟨?_, ?_, ?_⟩
  · rw [phaseOff, getF_setF_apart (by decide) (by decide), getF_bump_apart (by decide) (by decide), getF_setF_same (by decide)]
    exact Nat.mod_eq_of_lt byte
  · rw [phaseOff, getF_setF_same (by decide)]
    exact Nat.mod_eq_of_lt (Nat.lt_of_le_of_lt (Nat.mul_le_mul_left 200 phases) (by decide))
  · rw [phaseOff, getF_setF_apart (by decide) (by decide), getF_bump_same (by decide), getF_setF_apart (by decide) (by decide), getF_setF_apart (by decide) (by decide)]
    rfl

theorem losePhase_lost (hy : s.pwr.rails[r]? = some y) (fresh : y.lost = []) (ph kind : Nat) : (railPwr (losePhase r (ph, kind) s) r).lost = [(ph, kind)] := by
  rw [losePhase_eq, railPwr_congr (record_pwr ..), railPwr_modRail (y := y) (by simpa [phaseOff] using hy), fresh]

theorem phaseLost_shows (hr : r < 5) (hp : ph < 8) (hy : s.pwr.rails[r]? = some y) (fresh : y.lost = []) (kind : Nat) :
    firstLost r ph kind (if kind = 1 then 0x60 else 0x61) s (phaseLost r ph kind s) := by
  obtain ⟨mbx, ldg⟩ := vrc_page hr
  obtain ⟨good, ilim, losses⟩ := phaseOff_shows (r := r) hp s
  have field (q : Row) (hq : (64 ≤ q.off ∧ q.off < 4096) ∧ apart Reg.VRC_STAT_STATE q = true) : getF (phaseLost r ph kind s) (pgVrc r) q = getF (phaseOff r ph s) (pgVrc r) q := by
    rw [phaseLost, getF_setF_apart (by decide) hq.2, losePhase_eq, getF_record (by rw [fieldAddr_one]; exact quiet_vrc hr hq.1), getF_modRail]
  refine ⟨(field _ (by decide)).trans good, (field _ (by decide)).trans ilim, getF_setF_same (by decide) 1 _, (field _ (by decide)).trans losses, ?_, ?_⟩
  · exact codeIn_setFi (by decide) 0 1 (codeIn_record mbx ldg (by split <;> decide) _)
  · rw [phaseLost, railPwr_congr (setF_pwr ..), losePhase_lost hy fresh]

theorem lossState_first (h : (railPwr s r).lost.length = 1) (n : Nat) : lossState r 0 n s = setF (pgVrc r) Reg.VRC_STAT_STATE 1 s := by
  unfold lossState
  simp only [h, one_ne_zero, if_false, if_true, ite_self]

theorem losePhase_first (hy : s.pwr.rails[r]? = some y) (fresh : y.lost = []) (ph kind n : Nat) :
    lossState r (railPwr s r).lost.length n (losePhase r (ph, kind) s) = phaseLost r ph kind s := by
  rw [railPwr_of hy, fresh, List.length_nil, lossState_first (by rw [losePhase_lost hy fresh]; rfl), phaseLost]

theorem phaseLost_same (r ph kind : Nat) (s : State) : samesBut (report ++ [.pwr]) s (phaseLost r ph kind s) :=
  samesBut_keeps (setF_keeps _ _ _ (by decide) (losePhase_keeps r _ (by decide) (Keeps.refl _ s)))

/-- What the loss shows stands in words that neither the phase shown nor the caps share. -/
theorem firstLost_kept {kind code : Nat} (hr : r < 5) (words : regsBut ((pageBase (pgVrc r) + 0x50) :: limWords) t u) (rails : u.pwr.rails = t.pwr.rails)
    (h : firstLost r ph kind code s t) : firstLost r ph kind code s u := by
  obtain ⟨good, ilim, state, losses, code, lost⟩ := h
  have aside (o : Nat) (ho : o < 4096) (h5 : o ≠ 0x50) : pageBase (pgVrc r) + o ∉ (pageBase (pgVrc r) + 0x50) :: limWords := by
    simp only [limWords, pageBase, List.mem_cons, List.mem_map, List.mem_range, not_or, not_exists, not_and]
    exact ⟨by omega, fun w hw => by omega⟩
  have field {q : Row} (hq : q.off < 4096 ∧ q.off ≠ 0x50) : getF u (pgVrc r) q = getF t (pgVrc r) q :=
    getF_regsBut words (by rw [fieldAddr_one]; exact aside q.off hq.1 hq.2)
  refine ⟨(field (by decide)).trans good, (field (by decide)).trans ilim, (field (by decide)).trans state, (field (by decide)).trans losses, ?_, ?_⟩
  · rwa [codeIn, field (by decide), field (by decide)]
  · simpa only [railPwr, rails] using lost

/-! ### PHASE_FAULT and PHASE_TEST -/

/-- The changes of point in progress on the dies of `l` end where they are. -/
def stepsEnded (l : List Nat) (s : State) : State := l.foldl (fun s n => modDiePwr n (fun d => { d with step := none }) s) s

theorem stepEnded_still {j : Nat} (h : (diePwr s j).step = none) (n : Nat) : (diePwr (modDiePwr n (fun d => { d with step := none }) s) j).step = none := by
  unfold diePwr modDiePwr at *
  simp only [List.getD, List.getElem?_modify] at *
  cases e : s.pwr.dies[j]? with
  | none => rfl
  | some d =>
    rw [e] at h
    by_cases hn : n = j
    · simp [hn]
    · simpa [hn] using h

theorem stepsEnded_step (l : List Nat) (s : State) {j : Nat} (here : j < s.pwr.dies.length) (h : j ∈ l ∨ (diePwr s j).step = none) : (diePwr (stepsEnded l s) j).step = none := by
  induction l generalizing s with
  | nil => exact h.resolve_left (by simp)
  | cons n l ih =>
    refine ih _ (by simpa [modDiePwr] using here) ?_
    rcases h with h | h
    · rcases List.mem_cons.1 h with rfl | h
      · exact Or.inr (by rw [diePwr_modDiePwr (List.getElem?_eq_getElem here)])
      · exact Or.inl h
    · exact Or.inr (stepEnded_still h n)

theorem stepsEnded_keeps {K : Nat} {s0 : State} (l : List Nat) (hK : K &&& 2097152 = 0) (h : Keeps K s0 s) : Keeps K s0 (stepsEnded l s) :=
  keeps_foldl h fun _ n k => modDiePwr_keeps n _ hK k

theorem stepsEnded_setF (l : List Nat) (p : Page) (q : Row) (v : Nat) (s : State) : setF p q v (stepsEnded l s) = stepsEnded l (setF p q v s) := by
  induction l generalizing s with
  | nil => rfl
  | cons n l ih => exact ih _

theorem stepsEnded_regs (l : List Nat) (s : State) : (stepsEnded l s).regs = s.regs := (stepsEnded_keeps l (K := 1) (by decide) (Keeps.refl _ s)).frame .regs (by decide)

theorem stepsEnded_rails (l : List Nat) (s : State) : (stepsEnded l s).pwr.rails = s.pwr.rails :=
  List.foldlRecOn (motive := fun u : State => u.pwr.rails = s.pwr.rails) _ _ rfl fun _ h _ _ => h

/-- A fault that takes one phase, the rail's first. -/
theorem exec_phaseFault {opens senses : List Nat} {kind : Nat} (hr : r < 5) (hy : s.pwr.rails[r]? = some y) (fresh : y.lost = [])
    (h : newlyLost (getF s (pgVrc r) Reg.VRC_STAT_GOOD) opens senses = [(ph, kind)]) (n : Nat) :
    exec (.phaseFault r opens senses n) s = .next (showLims (showPhase r (stepsEnded (railDies r) (phaseLost r ph kind (at_ n s))))) := by
  change execPhaseFault r opens senses n s = _
  rw [execPhaseFault, if_neg (by omega)]
  simp only [getF_at, h, List.cons_ne_nil, if_false, List.foldl_cons, List.foldl_nil]
  have one : (railPwr (stepsEnded (railDies r) (losePhase r (ph, kind) (at_ n s))) r).lost.length = 1 := by
    rw [railPwr, stepsEnded_rails, ← railPwr, losePhase_lost (s := at_ n s) hy fresh]
    rfl
  rw [railPwr_of (s := at_ n s) hy, fresh, List.length_nil, ← stepsEnded, lossState_first one, phaseLost, stepsEnded_setF]

theorem phaseFault_shows (hr : r < 5) (hp : ph < 8) (hy : s.pwr.rails[r]? = some y) (fresh : y.lost = []) (kind n : Nat) :
    let u := showLims (showPhase r (stepsEnded (railDies r) (phaseLost r ph kind (at_ n s))))
    samesBut (report ++ [.pwr]) s u ∧ firstLost r ph kind (if kind = 1 then 0x60 else 0x61) s u ∧ ∀ j ∈ railDies r, j < s.pwr.dies.length → (diePwr u j).step = none := by
  have lost : firstLost r ph kind (if kind = 1 then 0x60 else 0x61) s (phaseLost r ph kind (at_ n s)) := phaseLost_shows (s := at_ n s) hr hp hy fresh kind
  have same := stepsEnded_regs (railDies r) (phaseLost r ph kind (at_ n s))
  have pwr : (showLims (showPhase r (stepsEnded (railDies r) (phaseLost r ph kind (at_ n s))))).pwr = (stepsEnded (railDies r) (phaseLost r ph kind (at_ n s))).pwr :=
    ((showLims_same _).2 .pwr (by decide)).trans ((showPhase_same r _).2 .pwr (by decide))
  refine ⟨?_, firstLost_kept hr ?_ ?_ lost, fun j hj here => ?_⟩
  · exact samesBut_keeps (showLims_keeps (by decide) (showPhase_keeps r (by decide) (stepsEnded_keeps _ (by decide) (setF_keeps _ _ _ (by decide)
      (losePhase_keeps r _ (by decide) (at_keeps n (by decide) (Keeps.refl _ s)))))))
  · exact regsBut_trans (regsBut_mono (by simp) (regsBut_same same (regsBut_refl [] _))) (regsBut_trans (regsBut_mono (by simp) (regsBut_showPhase r _))
      (regsBut_mono (by simp +contextual) (regsBut_showLims _)))
  · rw [pwr, stepsEnded_rails]
  · have dies : (phaseLost r ph kind (at_ n s)).pwr.dies = s.pwr.dies := by simp [phaseLost, losePhase_eq, modRail, phaseOff]
    rw [diePwr_congr pwr]
    exact stepsEnded_step _ _ (by rwa [dies]) (Or.inl hj)

/-- The losses of a phase test have the consequences of R344, and the first one leaves VDD_HUB in service. -/
theorem exec_phaseTest_lost {reached sat : Bool} {imon : Int} {kind : Nat} (starts : railStarts s r = true) (own : ph < (if r = 4 then 4 else 8))
    (good : (getF s (pgVrc r) Reg.VRC_STAT_GOOD).testBit ph = true) (hy : s.pwr.rails[r]? = some y) (fresh : y.lost = [])
    (h : reached = false ∧ kind = 1 ∨ reached = true ∧ (sat = true ∨ imon < -20) ∧ kind = 2) : exec (.phaseTest r ph reached imon sat) s = .next (phaseLost r ph kind s) := by
  have stays : hubStays r (phaseLost r ph kind s) = phaseLost r ph kind s := by
    refine if_neg fun ⟨hub, out⟩ => ?_
    subst hub
    have reduced : getF (phaseLost 4 ph kind s) (pgVrc 4) Reg.VRC_STAT_STATE = 1 := getF_setF_same (by decide) 1 _
    omega
  refine congrArg Host.Outcome.next ((if_pos ⟨starts, own, good⟩).trans ?_)
  rcases h with ⟨rfl, rfl⟩ | ⟨rfl, bad, rfl⟩
  · exact (if_pos rfl).trans (by rw [losePhase_first hy fresh, stays])
  · exact (if_neg (by simp)).trans ((if_pos bad).trans (by rw [losePhase_first hy fresh, stays]))

theorem exec_phaseTest_passed {imon : Int} (h : -20 ≤ imon) (r ph : Nat) (s : State) : exec (.phaseTest r ph true imon false) s = .next s := by
  have inner (a b : State) : (if true = false then a else if false = true ∨ imon < -20 then b else s) = s := (if_neg (by decide)).trans (if_neg (by simpa using h))
  change execPhaseTest r ph true imon false s = _
  simp only [execPhaseTest, inner, ite_self]

end Sys2Proof.Machine
end

section
/-! PROOFS. Chapter 13: the caps (R358) and the ageing of the points (R348). -/

namespace Sys2Proof.Machine

open Sys2Proof

variable {s t : State} {n k w mean c pc : Nat} {d : DiePwr}

/-! ### An evaluation of the caps (R358) -/

/-- The words of the means. -/
def meanWord (w : Nat) : Nat := pageBase pgCap + 0x70 + 4 * (2 - w)

/-- A mean shows. -/
def meanShown (w mean t : Nat) (s : State) : State :=
  setFi pgCap Reg.CAP_P (capOf w) (roundOpen mean 10).toNat (modPwr (fun p => { p with means := p.means.set w mean }) (at_ t s))

/-- Is every mean below 90 % of its cap. -/
def meansLow (s : State) : Bool := (List.range 3).all (fun w => decide (nth0 s.pwr.means w * 100 * 36 < 90 * lim36 s (envNow s) (capOf w) * 10))

/-- And it is noted since when every mean is below 90 % of its cap. -/
def meanNoted (w mean t : Nat) (s : State) : State :=
  modPwr (fun p => { p with lowAt := if meansLow (meanShown w mean t s) then some (p.lowAt.getD t) else none }) (meanShown w mean t s)

/-- Warm load ends on every die that has it. -/
def warmEnded (s : State) : State := (List.range 4).foldl (fun s n => if (diePwr s n).warm then warmStop n s else s) s

/-- The highest die is lowered below its point. -/
def highestLowered (w : Nat) (s : State) : State :=
  match highestDie s with
  | some n => modDiePwr n (fun d => { d with caps := d.caps.set w (opAct s n - 1) }) s
  | none => s

theorem exec_capEvaluation (hw : w < 3) (mean t : Nat) (s : State) : exec (.capEvaluation w mean t) s =
    .next (if aboveCap (meanNoted w mean t s) (capOf w) mean 97 then highestLowered w (warmEnded (meanNoted w mean t s)) else meanNoted w mean t s) :=
  congrArg Host.Outcome.next (if_neg (by omega))

theorem meanNoted_pwr (w mean t : Nat) (s : State) : (meanNoted w mean t s).pwr =
    { s.pwr with means := s.pwr.means.set w mean, lowAt := if meansLow (meanShown w mean t s) then some (s.pwr.lowAt.getD t) else none } := rfl

theorem meanNoted_words (w mean t : Nat) (s : State) : regsBut [meanWord w] s (meanNoted w mean t s) :=
  regsBut_same (modPwr_regs ..) (regsBut_setFi _ (by simp [meanWord, fieldAddr, Reg.CAP_P, capOf, Nat.mul_comm])
    (regsBut_same (modPwr_regs ..) (regsBut_at t (regsBut_refl _ s))))

theorem meanNoted_mean (w mean t : Nat) (s : State) : getFi (meanNoted w mean t s) pgCap Reg.CAP_P (2 - w) = (roundOpen mean 10).toNat % 65536 := by
  rw [meanNoted, getFi_modPwr]
  exact getFi_setFi_same (by decide) (2 - w) _ _

/-- A cap rests on the good phases, the envelope, the coolant's and the vehicle's limits, and the shift. -/
theorem aboveCap_congr (words : regsBut [meanWord w] s t) (shift : t.pwr.shift = s.pwr.shift) (c mean pc : Nat) : aboveCap t c mean pc = aboveCap s c mean pc := by
  have cap {q : Row} (hq : q.off < 0x70) : getF t pgCap q = getF s pgCap q :=
    getF_regsBut words (by rw [fieldAddr_one, meanWord, List.mem_singleton]; omega)
  have good : goodPhases t = goodPhases s := by
    refine congrArg sumOf (List.map_congr_left fun r hr => ?_)
    have hr := List.mem_range.1 hr
    rw [getF_regsBut words (by simp only [fieldAddr_one, meanWord, pageBase, Reg.VRC_STAT_GOOD, List.mem_singleton]; omega)]
  simp only [aboveCap, lim36, shifted1S, envNow, good, shift, cap (q := Reg.CAP_STAT_ENV) (by decide), cap (q := Reg.CAP_COOL_LIM) (by decide), cap (q := Reg.CAP_VEH_1MS) (by decide)]
  rfl

/-- The higher of the highest die so far and CD_n. -/
def higherDie (s : State) (b : Option Nat) (n : Nat) : Option Nat := match b with | none => some n | some m => if opAct s m < opAct s n then some n else b

theorem highestDie_eq (s : State) : highestDie s = (diesIn s).foldl (higherDie s) none := rfl

theorem highestDie_congr (act : ∀ n < 4, opAct t n = opAct s n) (dies : diesIn t = diesIn s) : highestDie t = highestDie s := by
  have fold (l : List Nat) (hl : ∀ n ∈ l, n < 4) (b : Option Nat) (hb : ∀ m ∈ b, m < 4) : l.foldl (higherDie t) b = l.foldl (higherDie s) b := by
    induction l generalizing b with
    | nil => rfl
    | cons n l ih =>
      have hn := hl n List.mem_cons_self
      have same : higherDie t b n = higherDie s b n := by
        cases b with
        | none => rfl
        | some m => simp only [higherDie, act n hn, act m (hb m rfl)]
      have next : ∀ m ∈ higherDie s b n, m < 4 := by
        cases b with
        | none => simpa [higherDie] using hn
        | some m =>
          simp only [higherDie]
          split
          · simpa using hn
          · exact hb
      rw [List.foldl_cons, List.foldl_cons, same]
      exact ih (fun m hm => hl m (List.mem_cons_of_mem n hm)) _ next
  rw [highestDie_eq, highestDie_eq, dies]
  exact fold _ (fun n hn => List.mem_range.1 (List.mem_filter.1 hn).1) none (by simp)

theorem meanNoted_act (w mean t : Nat) (s : State) {n : Nat} (hn : n < 4) : opAct (meanNoted w mean t s) n = opAct s n :=
  getFij_regsBut (meanNoted_words w mean t s) (by simp only [fieldAddr, meanWord, pageBase, Reg.DVFS_OPC_ACT, List.mem_singleton]; omega)

theorem meanNoted_highest (w mean t : Nat) (s : State) : highestDie (meanNoted w mean t s) = highestDie s := by
  refine highestDie_congr (fun n hn => meanNoted_act w mean t s hn) (List.filter_congr fun n _ => ?_)
  have svc : getF (meanNoted w mean t s) (pgCdId n) Reg.CD_ID_SVC = getF s (pgCdId n) Reg.CD_ID_SVC :=
    getF_regsBut (meanNoted_words w mean t s) (by simp only [fieldAddr_one, meanWord, pageBase, Reg.CD_ID_SVC, List.mem_singleton]; omega)
  simp only [inService, flag, svc]

theorem warmEnded_cold (cold : ∀ j < 4, (diePwr s j).warm = false) : warmEnded s = s :=
  foldl_fixed fun k hk => by rw [cold k (List.mem_range.1 hk)]; rfl

theorem meanNoted_same (w mean t : Nat) (s : State) : samesBut [.regs, .io, .pwr] s (meanNoted w mean t s) :=
  samesBut_keeps (modPwr_keeps _ (by decide) (setFi_keeps _ _ _ _ (by decide) (modPwr_keeps _ (by decide) (at_keeps t (by decide) (Keeps.refl _ s)))))

/-- The mean of window `w` shows, and is kept. -/
def meanKept (w mean : Nat) (s u : State) : Prop :=
  getFi u pgCap Reg.CAP_P (2 - w) = (roundOpen mean 10).toNat % 65536 ∧ u.pwr.means = s.pwr.means.set w mean ∧ regsBut [meanWord w] s u ∧ u.io.outbox = s.io.outbox

theorem meanNoted_kept (w mean t : Nat) (s : State) : meanKept w mean s (meanNoted w mean t s) :=
  ⟨meanNoted_mean w mean t s, congrArg (·.means) (meanNoted_pwr w mean t s), meanNoted_words w mean t s, rfl⟩

theorem exec_capEvaluation_below (hw : w < 3) (below : aboveCap s (2 - w) mean 97 = false) (t : Nat) : exec (.capEvaluation w mean t) s = .next (meanNoted w mean t s) := by
  rw [exec_capEvaluation hw, aboveCap_congr (meanNoted_words w mean t s) (by rw [meanNoted_pwr]), capOf, below]
  rfl

theorem exec_capEvaluation_above (hw : w < 3) (above : aboveCap s (2 - w) mean 97 = true) (cold : ∀ j < 4, (diePwr s j).warm = false) (hn : n < 4)
    (highest : highestDie s = some n) (t : Nat) :
    exec (.capEvaluation w mean t) s = .next (modDiePwr n (fun d => { d with caps := d.caps.set w (opAct s n - 1) }) (meanNoted w mean t s)) := by
  rw [exec_capEvaluation hw, aboveCap_congr (meanNoted_words w mean t s) (by rw [meanNoted_pwr]), capOf, above, if_pos rfl,
    warmEnded_cold (s := meanNoted w mean t s) (fun j hj => cold j hj), highestLowered, meanNoted_highest, highest]
  simp only [meanNoted_act w mean t s hn]

/-! ### A raise of a capped die (R358) -/

/-- A cap that held CD_n at its point or below holds it one point higher, and a cap at the requested point holds nothing. -/
def capRaised (s : State) (n c : Nat) : Nat :=
  if opReq s n ≤ (if c ≤ opAct s n then opAct s n + 1 else c) then 15 else if c ≤ opAct s n then opAct s n + 1 else c

theorem exec_capRaise {u0 t : Nat} (low : s.pwr.lowAt = some u0) (due : u0 + 1000000 ≤ t) (rest : s.pwr.raiseAt = 0 ∨ s.pwr.raiseAt + 1000000 ≤ t)
    (lowest : lowestDie s = some n) :
    exec (.capRaise t) s = .next (modDiePwr n (fun d => { d with caps := d.caps.map (capRaised s n) }) (modPwr (fun p => { p with raiseAt := t }) (at_ t s))) := by
  change execCapRaise t s = _
  rw [execCapRaise, low, lowest]
  exact congrArg Host.Outcome.next (if_pos ⟨due, rest⟩)

/-! ### A raise of an offset (R348) -/

theorem journalKeep_pwr (etype key : Nat) (data : List Byte) (words : List (Nat × Word)) (s : State) : ((journalKeep etype key data words s).pwr.dies = s.pwr.dies) ∧
    (journalKeep etype key data words s).regs = (journal etype key data words s).regs := by
  unfold journalKeep
  dsimp only
  split
  · exact ⟨congrArg (·.dies) (journal_pwr ..), rfl⟩
  · exact ⟨congrArg (·.dies) (journal_pwr ..), modPwr_regs ..⟩

theorem quietBut_journalKeep (etype key : Nat) (data : List Byte) (words : List (Nat × Word)) (s : State) : quietBut [] s (journalKeep etype key data words s) :=
  quietBut_same (journalKeep_pwr ..).2 (quietBut_journal _ _ _ _ (quietBut_refl [] s))

/-- An offset reads as it was set, and the die's count of low samples stays. -/
theorem setOffset_shows {o : Nat} (hn : n < 4) (hk : k < 16) (ho : o < 64) (hd : s.pwr.dies[n]? = some d) :
    getFij (setOffset n k o s) pgDvfs Reg.DVFS_VT_OFFSET n k = o ∧ (diePwr (setOffset n k o s) n).below = d.below ∧
      getFi (setOffset n k o s) pgDvfs Reg.DVFS_AGE_RAISES n = getFi s pgDvfs Reg.DVFS_AGE_RAISES n := by
  have set : getFij (setFij pgDvfs Reg.DVFS_VT_OFFSET n k o s) pgDvfs Reg.DVFS_VT_OFFSET n k = o := (getFij_setFij_same (by decide) n k o s).trans (Nat.mod_eq_of_lt ho)
  have raises : getFi (setFij pgDvfs Reg.DVFS_VT_OFFSET n k o s) pgDvfs Reg.DVFS_AGE_RAISES n = getFi s pgDvfs Reg.DVFS_AGE_RAISES n :=
    getFij_setFij_ne (by simp only [fieldAddr, Reg.DVFS_VT_OFFSET, Reg.DVFS_AGE_RAISES]; omega) o s
  unfold setOffset
  dsimp only
  split
  · refine ⟨?_, ?_, ?_⟩
    · rw [getFij, regW_record (by simp only [quiet, fieldAddr, pageBase, Reg.DVFS_VT_OFFSET]; omega), ← getFij, getFij_congr (modDiePwr_regs ..), set]
    · rw [diePwr_congr (record_pwr ..), diePwr_modDiePwr (d := d) (by rwa [setFij_pwr])]
    · rw [getFi_record (by simp only [quiet, fieldAddr, pageBase, Reg.DVFS_AGE_RAISES]; omega), getFi_modDiePwr, raises]
  · exact ⟨set, by rw [diePwr_congr (setFij_pwr ..), diePwr_of hd], raises⟩

/-- An offset is raised, and the raise is counted. -/
def offsetRaised (n k o : Nat) (s : State) : State := bumpI pgDvfs Reg.DVFS_AGE_RAISES n 1 (setOffset n k o s)

/-- A raise that fits, of a point that no higher one follows. -/
theorem raiseOffset_alone {o : Nat} (ho : getFij s pgDvfs Reg.DVFS_VT_OFFSET n k + 1 = o) (alone : raised s n k o = [k]) (fits : offsetFits s n o k = true) :
    raiseOffset n k s = journalKeep 3 n (leBytes 1 k ++ leBytes 1 o) (vtWords (offsetRaised n k o s) n k) (offsetRaised n k o s) := by
  simp [raiseOffset, offsetRaised, ho, alone, fits]

theorem raiseOffset_shows {o : Nat} (hn : n < 4) (hk : k < 16) (hd : s.pwr.dies[n]? = some d) (ho : getFij s pgDvfs Reg.DVFS_VT_OFFSET n k + 1 = o) (room : o < 64)
    (alone : raised s n k o = [k]) (fits : offsetFits s n o k = true) :
    let u := raiseOffset n k s
    getFij u pgDvfs Reg.DVFS_VT_OFFSET n k = o ∧ (diePwr u n).below = d.below ∧ getFi u pgDvfs Reg.DVFS_AGE_RAISES n = satAdd 32 (getFi s pgDvfs Reg.DVFS_AGE_RAISES n) 1 := by
  obtain ⟨offset, count, raises⟩ := setOffset_shows hn hk room hd
  have aside : fieldAddr pgDvfs Reg.DVFS_VT_OFFSET n k ≠ fieldAddr pgDvfs Reg.DVFS_AGE_RAISES n 0 := by
    simp only [fieldAddr, Reg.DVFS_VT_OFFSET, Reg.DVFS_AGE_RAISES]
    omega
  have words := quietBut_journalKeep 3 n (leBytes 1 k ++ leBytes 1 o) (vtWords (offsetRaised n k o s) n k) (offsetRaised n k o s)
  rw [raiseOffset_alone ho alone fits]
  refine ⟨?_, ?_, ?_⟩
  · rw [getFij, words _ (by simp only [quiet, fieldAddr, pageBase, Reg.DVFS_VT_OFFSET]; omega) List.not_mem_nil, ← getFij, offsetRaised, bumpI, setFi, getFij_setFij_ne aside, offset]
  · rw [diePwr, (journalKeep_pwr ..).1, ← diePwr, offsetRaised, diePwr_congr (bumpI_pwr ..), count]
  · rw [getFi_quietBut words (by simp only [quiet, fieldAddr, pageBase, Reg.DVFS_AGE_RAISES]; omega) List.not_mem_nil, offsetRaised, getFi_bumpI_same (by decide), raises]
    rfl

/-- The count of low samples at the point starts anew. -/
def countStarted (n k : Nat) (s : State) : State := modDiePwr n (fun d => { d with below := (0, k) }) s

/-- The set-point in use follows, where no change of point is in progress. -/
def setPointFollows (n : Nat) (s : State) : State := if (diePwr s n).step = none then setF (pgVrc n) Reg.VRC_VSET (setPoint s n (opAct s n)) s else s

theorem exec_ageRaise (hn : n < 4) (many : 64 ≤ (diePwr s n).below.1) (hk : (diePwr s n).below.2 = k) (live : retired s n k = false) :
    exec (.ageRaise n) s = .next (setPointFollows n (raiseOffset n k (countStarted n k s))) := by
  subst hk
  exact congrArg Host.Outcome.next (if_pos ⟨hn, many, live⟩)

theorem setPointFollows_shows (hn : n < 4) (hk : k < 16) (s : State) :
    getFij (setPointFollows n s) pgDvfs Reg.DVFS_VT_OFFSET n k = getFij s pgDvfs Reg.DVFS_VT_OFFSET n k ∧ diePwr (setPointFollows n s) n = diePwr s n ∧
      getFi (setPointFollows n s) pgDvfs Reg.DVFS_AGE_RAISES n = getFi s pgDvfs Reg.DVFS_AGE_RAISES n := by
  unfold setPointFollows
  split
  · exact ⟨getFij_setFij_ne (by simp only [fieldAddr, pageBase, Reg.DVFS_VT_OFFSET, Reg.VRC_VSET]; omega) _ s, rfl,
      getFij_setFij_ne (by simp only [fieldAddr, pageBase, Reg.DVFS_AGE_RAISES, Reg.VRC_VSET]; omega) _ s⟩
  · exact ⟨rfl, rfl, rfl⟩

theorem ageRaise_shows (hn : n < 4) (hk : k < 16) (hd : s.pwr.dies[n]? = some d) (alone : raised s n k (getFij s pgDvfs Reg.DVFS_VT_OFFSET n k + 1) = [k])
    (fits : offsetFits s n (getFij s pgDvfs Reg.DVFS_VT_OFFSET n k + 1) k = true) (room : getFij s pgDvfs Reg.DVFS_VT_OFFSET n k < 63) :
    let u := setPointFollows n (raiseOffset n k (countStarted n k s))
    getFij u pgDvfs Reg.DVFS_VT_OFFSET n k = getFij s pgDvfs Reg.DVFS_VT_OFFSET n k + 1 ∧ (diePwr u n).below = (0, k) ∧
      getFi u pgDvfs Reg.DVFS_AGE_RAISES n = satAdd 32 (getFi s pgDvfs Reg.DVFS_AGE_RAISES n) 1 := by
  have own : (countStarted n k s).pwr.dies[n]? = some { d with below := (0, k) } := by
    rw [countStarted, modDiePwr_pwr hd]
    simp [(List.getElem?_eq_some_iff.1 hd).1]
  obtain ⟨offset, count, raises⟩ := raiseOffset_shows (s := countStarted n k s) hn hk own rfl (Nat.succ_lt_succ room) alone fits
  obtain ⟨offset', die', raises'⟩ := setPointFollows_shows hn hk (raiseOffset n k (countStarted n k s))
  exact ⟨offset'.trans offset, by rw [die', count], raises'.trans raises⟩

/-! ### Soft start (R423, R424) -/

/-- VDD_HUB is up: the hub's reset is released, its clocks are locked, and boot enters ROM. -/
def hubStarted (s : State) : State :=
  setStage 1 (emit (.safeOut true) (modClap (fun c => { c with safeOut := true }) (setF pgClk Reg.CLK_STAT_REF_OK 1 (setF pgClk Reg.CLK_STAT_HUB_LOCK 1
    (setF pgClk Reg.CLK_STAT_CORE_LOCK 1 (setF (pgVrc 4) Reg.VRC_VSET 750 (setF (pgVrc 4) Reg.VRC_STAT_ACTIVE (getF s (pgVrc 4) Reg.VRC_STAT_GOOD)
      (modBoot (fun b => { b with started := b.started.set 4 true }) s))))))))

theorem exec_softStartDone_hub (h : railStarts s 4 = true) : exec (.softStartDone 4) s = .next (hubStarted s) := congrArg Host.Outcome.next (if_pos h)

/-- The rail switches with every good phase. -/
theorem getF_active_good (r : Nat) (s t : State) :
    getF (setF (pgVrc r) Reg.VRC_STAT_ACTIVE (getF s (pgVrc r) Reg.VRC_STAT_GOOD) t) (pgVrc r) Reg.VRC_STAT_ACTIVE = getF s (pgVrc r) Reg.VRC_STAT_GOOD :=
  (getF_setF_same (by decide) _ t).trans (Nat.mod_eq_of_lt (getFij_lt s (pgVrc r) Reg.VRC_STAT_GOOD 0 0))

theorem hubStarted_shows (s : State) :
    let u := hubStarted s
    bootStage u = 1 ∧ u.clap = { s.clap with safeOut := true } ∧ puts (.safeOut true) s u ∧ u.boot = { s.boot with started := s.boot.started.set 4 true } ∧
      getF u (pgVrc 4) Reg.VRC_VSET = 750 ∧ getF u (pgVrc 4) Reg.VRC_STAT_ACTIVE = getF s (pgVrc 4) Reg.VRC_STAT_GOOD ∧ getF u pgClk Reg.CLK_STAT_REF_OK = 1 ∧
      getF u pgClk Reg.CLK_STAT_HUB_LOCK = 1 ∧ getF u pgClk Reg.CLK_STAT_CORE_LOCK = 1 := by
  have stage {p : Page} {q : Row} (h : pageBase pgHubId ≠ pageBase p ∧ q.off < 4096) (v : State) : getF (setStage 1 v) p q = getF v p q :=
    getF_setF_page h.1 (by decide) h.2 1 v
  have clock {q r : Row} (h : q.off < 4096 ∧ r.off < 4096) (v : State) : getF (setF pgClk q 1 v) (pgVrc 4) r = getF v (pgVrc 4) r := getF_setF_page (by decide) h.1 h.2 1 v
  refine ⟨getF_setF_same (by decide) 1 _, rfl, ⟨[], [], by simp [hubStarted, setStage, emit]⟩, rfl, ?_, ?_, ?_, ?_, ?_⟩
  · rw [hubStarted, stage (by decide), getF_emit, getF_modClap, clock (by decide), clock (by decide), clock (by decide), getF_setF_same (by decide)]
    rfl
  · rw [hubStarted, stage (by decide), getF_emit, getF_modClap, clock (by decide), clock (by decide), clock (by decide), getF_setF_apart (by decide) (by decide), getF_active_good]
  · rw [hubStarted, stage (by decide), getF_emit, getF_modClap, getF_setF_same (by decide)]
    rfl
  · rw [hubStarted, stage (by decide), getF_emit, getF_modClap, getF_setF_apart (by decide) (by decide), getF_setF_same (by decide)]
    rfl
  · rw [hubStarted, stage (by decide), getF_emit, getF_modClap, getF_setF_apart (by decide) (by decide), getF_setF_apart (by decide) (by decide), getF_setF_same (by decide)]
    rfl

/-- The rail of CD_n is up: at the set-point of OP_0, with its clock locked. -/
def railStarted (n : Nat) (s : State) : State :=
  setF (pgVrc n) Reg.VRC_VSET (getFij s pgDvfs Reg.DVFS_VT_V_TEST n 0 + getFi s pgDvfs Reg.DVFS_AGE_OFFSET_MAX n)
    (setF pgClk Reg.CLK_STAT_CD_LOCK (putBits (getF s pgClk Reg.CLK_STAT_CD_LOCK) n 1 1)
      (setF (pgVrc n) Reg.VRC_STAT_ACTIVE (getF s (pgVrc n) Reg.VRC_STAT_GOOD) (modBoot (fun b => { b with started := b.started.set n true }) s)))

theorem exec_softStartDone_die (hn : n < 4) (h : railStarts s n = true) : exec (.softStartDone n) s = .next (railStarted n s) := by
  have switched : regsBut [pageBase (pgVrc n) + 0x40] s (setF (pgVrc n) Reg.VRC_STAT_ACTIVE (getF s (pgVrc n) Reg.VRC_STAT_GOOD)
      (modBoot (fun b => { b with started := b.started.set n true }) s)) := regsBut_setF _ (by simp [fieldAddr, Reg.VRC_STAT_ACTIVE]) (regsBut_same (modBoot_regs ..) (regsBut_refl _ s))
  have test : getFij (setF (pgVrc n) Reg.VRC_STAT_ACTIVE (getF s (pgVrc n) Reg.VRC_STAT_GOOD) (modBoot (fun b => { b with started := b.started.set n true }) s)) pgDvfs
      Reg.DVFS_VT_V_TEST n 0 = getFij s pgDvfs Reg.DVFS_VT_V_TEST n 0 :=
    getFij_regsBut switched (by simp only [fieldAddr, pageBase, Reg.DVFS_VT_V_TEST, List.mem_singleton]; omega)
  have offset : getFi (setF (pgVrc n) Reg.VRC_STAT_ACTIVE (getF s (pgVrc n) Reg.VRC_STAT_GOOD) (modBoot (fun b => { b with started := b.started.set n true }) s)) pgDvfs
      Reg.DVFS_AGE_OFFSET_MAX n = getFi s pgDvfs Reg.DVFS_AGE_OFFSET_MAX n :=
    getFij_regsBut switched (by simp only [fieldAddr, pageBase, Reg.DVFS_AGE_OFFSET_MAX, List.mem_singleton]; omega)
  have lock : getF (setF (pgVrc n) Reg.VRC_STAT_ACTIVE (getF s (pgVrc n) Reg.VRC_STAT_GOOD) (modBoot (fun b => { b with started := b.started.set n true }) s)) pgClk
      Reg.CLK_STAT_CD_LOCK = getF s pgClk Reg.CLK_STAT_CD_LOCK := getF_setF_page (by simp only [pageBase]; omega) (by decide) (by decide) _ _
  change execSoftStartDone n s = _
  rw [execSoftStartDone, if_pos h]
  simp only [getF_modBoot, if_neg (show n ≠ 4 by omega), test, offset, lock, railStarted]

theorem railStarted_shows (hn : n < 4) (s : State) :
    let u := railStarted n s
    u.boot = { s.boot with started := s.boot.started.set n true } ∧
      getF u (pgVrc n) Reg.VRC_VSET = getFij s pgDvfs Reg.DVFS_VT_V_TEST n 0 + getFi s pgDvfs Reg.DVFS_AGE_OFFSET_MAX n ∧
      getF u (pgVrc n) Reg.VRC_STAT_ACTIVE = getF s (pgVrc n) Reg.VRC_STAT_GOOD ∧ getF u pgClk Reg.CLK_STAT_CD_LOCK = putBits (getF s pgClk Reg.CLK_STAT_CD_LOCK) n 1 1 := by
  have test : getFij s pgDvfs Reg.DVFS_VT_V_TEST n 0 < 2 ^ 10 := getFij_lt s pgDvfs Reg.DVFS_VT_V_TEST n 0
  have offset : getFi s pgDvfs Reg.DVFS_AGE_OFFSET_MAX n < 2 ^ 8 := getFij_lt s pgDvfs Reg.DVFS_AGE_OFFSET_MAX n 0
  have volts : getFij s pgDvfs Reg.DVFS_VT_V_TEST n 0 + getFi s pgDvfs Reg.DVFS_AGE_OFFSET_MAX n < 2 ^ 16 := by omega
  have lock : putBits (getF s pgClk Reg.CLK_STAT_CD_LOCK) n 1 1 < 2 ^ 4 := putBits_lt 1 (getFij_lt s pgClk Reg.CLK_STAT_CD_LOCK 0 0) (by omega)
  have page : pageBase pgClk ≠ pageBase (pgVrc n) := by simp only [pageBase]; omega
  refine ⟨rfl, (getF_setF_same (by decide) _ _).trans (Nat.mod_eq_of_lt volts), ?_, ?_⟩
  · rw [railStarted, getF_setF_apart (by decide) (by decide), getF_setF_page page (by decide) (by decide), getF_active_good]
  · rw [railStarted, getF_setF_page page.symm (by decide) (by decide), getF_setF_same (by decide)]
    exact Nat.mod_eq_of_lt lock

/-- A rail that is late is OUT. -/
def railOut (r : Nat) (s : State) : State := record (pgVrc r) 0x0F (setF (pgVrc r) Reg.VRC_STAT_STATE 3 s)

theorem exec_softStartTimeout {r : Nat} (h : railStarts s r = true) : exec (.softStartTimeout r) s = .next (hubStays r (railOut r s)) :=
  congrArg Host.Outcome.next (if_pos h)

theorem railOut_state {r : Nat} (hr : r < 5) (s : State) : getF (railOut r s) (pgVrc r) Reg.VRC_STAT_STATE = 3 := by
  rw [railOut, getF_record (by rw [fieldAddr_one]; exact quiet_vrc hr (by decide)), getF_setF_same (by decide)]
  rfl

/-- VDD_HUB that is OUT keeps the device in cold reset; another rail changes nothing further. -/
theorem hubStays_railOut {r : Nat} (s : State) : (hubStays r (railOut r s)).regs = (railOut r s).regs ∧
    (hubStays r (railOut r s)).boot = if r = 4 then { s.boot with hubOut := true } else s.boot := by
  have boot : (railOut r s).boot = s.boot := by rw [railOut, record_boot, setF_boot]
  by_cases hub : r = 4
  · subst hub
    have run : hubStays 4 (railOut 4 s) = modBoot (fun b => { b with hubOut := true }) (railOut 4 s) := if_pos ⟨rfl, railOut_state (by decide) s⟩
    rw [run, if_pos rfl]
    exact ⟨modBoot_regs .., by rw [modBoot, boot]⟩
  · have run : hubStays r (railOut r s) = railOut r s := if_neg fun h => hub h.1
    rw [run, if_neg hub]
    exact ⟨rfl, boot⟩

theorem softStartTimeout_shows {r : Nat} (hr : r < 5) (s : State) :
    let u := hubStays r (railOut r s)
    codeIn u (pgVrc r) 0x0F ∧ getF u (pgVrc r) Reg.VRC_STAT_STATE = 3 ∧ quietBut [pageBase (pgVrc r) + 0x40] s u ∧
      u.boot = if r = 4 then { s.boot with hubOut := true } else s.boot := by
  obtain ⟨mbx, ldg⟩ := vrc_page hr
  obtain ⟨regs, boot⟩ := hubStays_railOut (r := r) s
  have code : codeIn (railOut r s) (pgVrc r) 0x0F := codeIn_record mbx ldg (by decide) _
  exact ⟨codeIn_regsBut (l := []) (regsBut_same regs (regsBut_refl _ _)) (by simp) code, (getF_congr regs ..).trans (railOut_state hr s),
    quietBut_same regs (quietBut_record _ _ (quietBut_setF _ (by simp [fieldAddr, Reg.VRC_STAT_STATE]) (quietBut_refl _ s))), boot⟩

/-- Settles O47: each command runs its own branch; a lost phase is `phaseLost_shows`, in service and at power-up. -/
theorem powerRails : Obligations.PowerRails := by
  unfold Obligations.PowerRails
  intro n r t ph k w mean u0 vinMv vinMa imon sat rails x y d s hn hr hy hd p good lost die o
  have own : diePwr s n = d := diePwr_of hd
  refine ⟨fun hx => ?_, fun hp hg fresh => ⟨?_, ?_, fun starts mine => ⟨?_, ?_, fun lowI => ?_, fun highI => ?_⟩⟩, fun starts => ?_, fun starts => ?_, fun starts => ?_,
    fun hw => ⟨fun below => ?_, fun above cold highest => ?_⟩, fun low due rest lowest => ?_, fun many point hk live alone fits room => ?_⟩
  · exact does_reach rfl (does (exec_pmcSample ..) (pmcSample_shows hr hx vinMv vinMa t s))
  · exact does (exec_phaseFault hr hy fresh (newlyLost_open hp hg) t) (phaseFault_shows hr hp hy fresh 1 t)
  · exact does (exec_phaseFault hr hy fresh (newlyLost_sense hp hg) t) (phaseFault_shows hr hp hy fresh 2 t)
  · exact does (exec_phaseTest_lost starts mine hg hy fresh (Or.inl ⟨rfl, rfl⟩)) ⟨phaseLost_same .., phaseLost_shows hr hp hy fresh 1⟩
  · exact does (exec_phaseTest_lost starts mine hg hy fresh (Or.inr ⟨rfl, Or.inl rfl, rfl⟩)) ⟨phaseLost_same .., phaseLost_shows hr hp hy fresh 2⟩
  · exact does (exec_phaseTest_lost starts mine hg hy fresh (Or.inr ⟨rfl, Or.inr lowI, rfl⟩)) ⟨phaseLost_same .., phaseLost_shows hr hp hy fresh 2⟩
  · exact does (exec_phaseTest_passed highI r ph s) rfl
  · exact does_reach rfl (does (exec_softStartDone_hub starts) (hubStarted_shows s))
  · exact does (exec_softStartDone_die hn starts) ⟨samesBut_keeps (setF_keeps _ _ _ (by decide) (setF_keeps _ _ _ (by decide) (setF_keeps _ _ _ (by decide)
      (modBoot_keeps _ (by decide) (Keeps.refl _ s))))), railStarted_shows hn s⟩
  · exact does_reach rfl (does (exec_softStartTimeout starts) (softStartTimeout_shows hr s))
  · exact does (exec_capEvaluation_below hw below t) ⟨meanNoted_same w mean t s, meanNoted_kept w mean t s, rfl⟩
  · have same := modDiePwr_keeps n (fun d => { d with caps := d.caps.set w (opAct s n - 1) }) (K := others [.regs, .io, .pwr]) (by decide) (Keeps.refl _ (meanNoted w mean t s))
    exact does (exec_capEvaluation_above hw above cold hn highest t) ⟨samesBut_trans (meanNoted_same w mean t s) (samesBut_keeps same), meanNoted_kept w mean t s,
      congrArg (·.dies) (modDiePwr_pwr (s := meanNoted w mean t s) hd _)⟩
  · exact does_reach rfl (does (exec_capRaise low due rest lowest) ⟨rfl, congrArg (·.dies) (modDiePwr_pwr (s := modPwr (fun p => { p with raiseAt := t }) (at_ t s)) hd _)⟩)
  · exact does_reach rfl (does (exec_ageRaise hn (by rwa [own]) (by rwa [own]) live) (ageRaise_shows hn hk hd alone fits room))

end Sys2Proof.Machine
end

section
/-! PROOFS. Chapter 13: the steps at a threshold and the temperatures of the stacks (R361 to R363). -/

namespace Sys2Proof.Machine

open Sys2Proof

variable {s u : State} {n i j k t : Nat} {v : Int} {d : DiePwr}

/-! ### Steps at a threshold (R362) -/

/-- CD_n's soft limit one point below where it is. -/
def softDown (n t : Nat) (s : State) : State := modDiePwr n (fun d => { d with soft := Nat.min d.soft (opAct s n - 1), thAt := t }) s

theorem thermDown_soft (h : thrOf s n ≠ 3 ∨ opFloor s n < opAct s n) (t : Nat) : thermDown n t s = softDown n t s :=
  if_neg fun ⟨hard, low⟩ => h.elim (· hard) (by omega)

theorem thermDown_hard (h : thrOf s n = 3) (low : opAct s n ≤ opFloor s n) (t : Nat) :
    thermDown n t s = modDiePwr n (fun d => { d with hard := opAct s n - 1, thAt := t }) s := if_pos ⟨h, low⟩

theorem exec_thermalStep_down (hn : n < 4) (h : 2 ≤ thrOf s n) (due : (diePwr s n).thAt + 1000000 ≤ t) :
    exec (.thermalStep n t) s = .next (thermDown n t (at_ t s)) :=
  congrArg Host.Outcome.next ((if_neg (by omega)).trans ((if_pos h).trans (if_pos due)))

/-- A limit one point higher, or none where that reaches the requested point. -/
def limitUp (n : Nat) (s : State) (c : Nat) : Nat := if opReq s n ≤ c + 1 then 15 else c + 1

theorem exec_thermalStep_up (hn : n < 4) (h : thrOf s n = 0) (limited : (diePwr s n).soft < 15 ∨ (diePwr s n).hard < 15) (due : (diePwr s n).thAt + 10000000 ≤ t) :
    exec (.thermalStep n t) s = .next (modDiePwr n (fun d => { d with soft := limitUp n s d.soft, hard := limitUp n s d.hard, thAt := t }) (at_ t s)) :=
  congrArg Host.Outcome.next ((if_neg (by omega)).trans ((if_neg (by omega)).trans (if_pos ⟨h, limited, due⟩)))

/-- A step that changes CD_n alone. -/
theorem thermalStep_die (hd : s.pwr.dies[n]? = some d) {f : DiePwr → DiePwr} (run : exec (.thermalStep n t) s = .next (modDiePwr n f (at_ t s))) :
    Does (.thermalStep n t) s fun u => samesBut [.io, .pwr] s u ∧ u.pwr = { s.pwr with dies := s.pwr.dies.set n (f d) } ∧ u.io.outbox = s.io.outbox :=
  does_reach rfl (does run ⟨modDiePwr_pwr (s := at_ t s) hd f, rfl⟩)

/-! ### Readings of a source (R362, R363) -/

theorem readSource_cool (old : nth0 s.pwr.thr i = 0) (next : sourceNext i 0 v = 0) (t : Nat) :
    readSource i t v s = modPwr (fun p => { p with thr := p.thr.set i 0 }) s := by
  simp [readSource, old, next]

/-- A source that reaches its soft threshold records 0x68, and the dies that it acts on step down. -/
theorem readSource_enters (old : nth0 s.pwr.thr i = 0) (next : sourceNext i 0 v = 2) (t : Nat) :
    readSource i t v s = ((List.range 4).filter (fun n => (sourcesOf n).contains i)).foldl (fun s n => thermDown n t s)
      (record pgThm 0x68 (modPwr (fun p => { p with thr := p.thr.set i 2 }) s)) := by
  simp only [readSource, old, next]
  rw [if_pos (by simp), if_pos (by simp)]

theorem readTrip_below {lim : Int} (h : v < lim) (j : Nat) (s : State) : readTrip j lim v s = modPwr (fun p => { p with trips := p.trips.set j 0 }) s := by
  simp [readTrip, Int.not_le.2 h]

theorem nth0_replicate (i : Nat) : nth0 (List.replicate 13 0) i = 0 := by
  simp only [nth0, List.getD_eq_getElem?_getD, List.getElem?_replicate]
  split <;> rfl

theorem sourceNext_stackCool (h : v < 90) (hk : k < 4) : sourceNext (5 + k) 0 v = 0 := by
  have own : thresholds (5 + k) = (95, some 100, 90) := (if_neg (by omega)).trans (if_pos (by omega))
  simp only [sourceNext, own, decide_eq_true_eq]
  rw [if_neg (by omega), if_neg (by omega), if_pos h]

theorem sourceNext_stackHot (low : 95 ≤ v) (high : v < 100) (hk : k < 4) : sourceNext (5 + k) 0 v = 2 := by
  have own : thresholds (5 + k) = (95, some 100, 90) := (if_neg (by omega)).trans (if_pos (by omega))
  simp only [sourceNext, own, decide_eq_true_eq]
  rw [if_neg (by omega), if_pos low]

/-! ### Readings of the stacks -/

/-- A reading of MS_k. -/
def stackRead (t k : Nat) (v : Int) (s : State) : State := readTrip (5 + k) 105 v (readSource (5 + k) t v (setFi pgThm Reg.THM_MS_T k (unsint 8 v) s))

/-- The readings of the stacks from MS_k on. -/
def stacksRead (t : Nat) (l : List Int) (k : Nat) (s : State) : State := (l.zipIdx k).foldl (fun s x => stackRead t x.2 x.1 s) s

theorem exec_stackTempSample {l : List Int} (h : l.length ≤ 4) (t : Nat) (s : State) : exec (.stackTempSample l t) s = .next (stacksRead t l 0 (at_ t s)) := by
  change execStackTempSample l t s = _
  rw [execStackTempSample, List.take_of_length_le h]
  rfl

/-- A reading of MS_k is shown, and the count of its trips starts again. -/
def stackShown (k : Nat) (v : Int) (s : State) : State :=
  modPwr (fun p => { p with trips := p.trips.set (5 + k) 0 }) (setFi pgThm Reg.THM_MS_T k (unsint 8 v) s)

theorem stackRead_cool (thr : s.pwr.thr = List.replicate 13 0) (hk : k < 4) (h : v < 90) (t : Nat) : stackRead t k v s = stackShown k v s := by
  have zero : s.pwr.thr.set (5 + k) 0 = s.pwr.thr := by rw [thr, List.set_replicate_self]
  rw [stackRead, readTrip_below (by omega), readSource_cool (by rw [setFi_pwr, thr, nth0_replicate]) (sourceNext_stackCool h hk)]
  simp [stackShown, modPwr, zero]

/-- Cool readings of the stacks from MS_k on. -/
def stacksShown (l : List Int) (k : Nat) (s : State) : State := (l.zipIdx k).foldl (fun s x => stackShown x.2 x.1 s) s

theorem stacksRead_cool {l : List Int} (thr : s.pwr.thr = List.replicate 13 0) (hk : k + l.length ≤ 4) (h : ∀ x ∈ l, x < 90) (t : Nat) :
    stacksRead t l k s = stacksShown l k s := by
  induction l generalizing k s with
  | nil => rfl
  | cons x l ih =>
    rw [List.length_cons] at hk
    have first : stackRead t k x s = stackShown k x s := stackRead_cool thr (by omega) (h x List.mem_cons_self) t
    have rest := ih (s := stackShown k x s) (k := k + 1) thr (by omega) fun y hy => h y (List.mem_cons_of_mem x hy)
    simpa only [stacksRead, stacksShown, List.zipIdx_cons, List.foldl_cons, first] using rest

theorem stacksShown_same (l : List Int) (k : Nat) (s : State) : samesBut [.regs, .pwr] s (stacksShown l k s) :=
  samesBut_keeps (keeps_foldl (Keeps.refl _ s) fun _ _ h => modPwr_keeps _ (by decide) (setFi_keeps _ _ _ _ (by decide) h))

theorem stacksShown_pwr (l : List Int) (k : Nat) (s : State) : (stacksShown l k s).pwr.dies = s.pwr.dies ∧ (stacksShown l k s).pwr.thr = s.pwr.thr :=
  List.foldlRecOn (motive := fun u : State => u.pwr.dies = s.pwr.dies ∧ u.pwr.thr = s.pwr.thr) _ _ ⟨rfl, rfl⟩ fun _ h _ _ => h

/-- They write the words of these stacks alone. -/
theorem stacksShown_ne (l : List Int) {a : Nat} (h : ∀ i, k ≤ i → i < k + l.length → a ≠ fieldAddr pgThm Reg.THM_MS_T i 0) (s : State) : regW (stacksShown l k s) a = regW s a := by
  refine List.foldlRecOn (motive := fun u : State => regW u a = regW s a) _ _ rfl fun u hu e he => ?_
  rw [stackShown, regW_congr (modPwr_regs ..), ← hu]
  obtain ⟨low, here⟩ := List.mk_mem_zipIdx_iff_le_and_getElem?_sub.1 he
  have := (List.getElem?_eq_some_iff.1 here).1
  exact regW_setFij_ne (h e.2 low (by omega)) _ _

theorem stacksShown_temp {l : List Int} (h : l[i]? = some v) (k : Nat) (s : State) : getFi (stacksShown l k s) pgThm Reg.THM_MS_T (k + i) = unsint 8 v % 256 := by
  induction l generalizing i k s with
  | nil => simp at h
  | cons a l ih =>
    cases i with
    | zero =>
      cases Option.some.inj h
      have later : getFi (stacksShown l (k + 1) (stackShown k v s)) pgThm Reg.THM_MS_T k = getFi (stackShown k v s) pgThm Reg.THM_MS_T k := by
        simp only [getFi, getFij]
        rw [stacksShown_ne _ fun i hi _ => by simp only [fieldAddr, Reg.THM_MS_T]; omega]
      exact later.trans (getFi_setFi_same (by decide) k _ s)
    | succ i =>
      have e : k + (i + 1) = k + 1 + i := by omega
      rw [e]
      exact ih (by simpa using h) (k + 1) (stackShown k a s)

theorem stackTempSample_cool {l : List Int} (thr : s.pwr.thr = List.replicate 13 0) (hl : l.length ≤ 4) (h : ∀ x ∈ l, x < 90) (t : Nat) :
    Does (.stackTempSample l t) s fun u => samesBut [.regs, .io, .pwr] s u ∧ (∀ (i : Nat) x, l[i]? = some x → getFi u pgThm Reg.THM_MS_T i = unsint 8 x % 256) ∧
      u.pwr.dies = s.pwr.dies ∧ u.pwr.thr = s.pwr.thr ∧ u.io.outbox = s.io.outbox := by
  have run : stacksRead t l 0 (at_ t s) = stacksShown l 0 (at_ t s) := stacksRead_cool (k := 0) (s := at_ t s) thr (by omega) h t
  have same := stacksShown_same l 0 (at_ t s)
  obtain ⟨dies, sources⟩ := stacksShown_pwr l 0 (at_ t s)
  refine does (run ▸ exec_stackTempSample hl t s) ⟨samesBut_after_at (by simp) (samesBut_mono (by simp) same), fun i x hx => ?_, dies, sources, congrArg (·.outbox) (same.2 .io (by decide))⟩
  rw [← stacksShown_temp hx 0 (at_ t s), Nat.zero_add]

/-! ### A stack at its soft threshold -/

/-- MS_n enters its throttle: 0x68 is recorded. -/
def stackEntered (n : Nat) (v : Int) (s : State) : State :=
  record pgThm 0x68 (modPwr (fun p => { p with thr := p.thr.set (5 + n) 2 }) (setFi pgThm Reg.THM_MS_T n (unsint 8 v) s))

/-- MS_n acts on CD_n alone. -/
theorem diesOf_stack (hn : n < 4) : (List.range 4).filter (fun m => (sourcesOf m).contains (5 + n)) = [n] := by
  interval_cases n <;> decide

theorem thrOf_stack (thr : s.pwr.thr = (List.replicate 13 0).set (5 + n) 2) (hn : n < 4) : thrOf s n = 2 := by
  rw [thrOf, thr]
  interval_cases n <;> decide

theorem stackRead_hot (thr : s.pwr.thr = List.replicate 13 0) (hn : n < 4) (low : 95 ≤ v) (high : v < 100) (t : Nat) :
    stackRead t n v s = modPwr (fun p => { p with trips := p.trips.set (5 + n) 0 }) (softDown n t (stackEntered n v s)) := by
  have old : nth0 (setFi pgThm Reg.THM_MS_T n (unsint 8 v) s).pwr.thr (5 + n) = 0 := by rw [setFi_pwr, thr, nth0_replicate]
  have sources : (stackEntered n v s).pwr.thr = (List.replicate 13 0).set (5 + n) 2 := by rw [stackEntered, record_pwr, ← thr]; rfl
  have down : thermDown n t (stackEntered n v s) = softDown n t (stackEntered n v s) := thermDown_soft (Or.inl (by rw [thrOf_stack sources hn]; decide)) t
  rw [stackRead, readTrip_below (by omega), readSource_enters old (sourceNext_stackHot low high hn), diesOf_stack hn, List.foldl_cons, List.foldl_nil, ← stackEntered, down]

theorem stackEntered_act (hn : n < 4) (v : Int) (s : State) : opAct (stackEntered n v s) n = opAct s n := by
  have aside : quiet (fieldAddr pgDvfs Reg.DVFS_OPC_ACT n 0) := by
    simp only [quiet, fieldAddr, pageBase, Reg.DVFS_OPC_ACT]; omega
  rw [opAct, stackEntered, getFi_record aside, getFi_modPwr]
  exact getFij_setFij_ne (by simp only [fieldAddr, pageBase, Reg.DVFS_OPC_ACT, Reg.THM_MS_T]; omega) _ _

theorem stackTempSample_hot (thr : s.pwr.thr = List.replicate 13 0) (hn : n < 4) (hd : s.pwr.dies[n]? = some d) (low : 95 ≤ v) (high : v < 100) (t : Nat) :
    Does (.stackTempSample (List.replicate n 0 ++ [v]) t) s fun u => samesBut (report ++ [.pwr]) s u ∧ getFi u pgThm Reg.THM_MS_T n = unsint 8 v % 256 ∧ codeIn u pgThm 0x68 ∧
      u.pwr.dies = s.pwr.dies.set n { d with soft := Nat.min d.soft (opAct s n - 1), thAt := t } := by
  have run := exec_stackTempSample (l := List.replicate n 0 ++ [v]) (by simp; omega) t s
  have split (w : State) : stacksRead t (List.replicate n 0 ++ [v]) 0 w = stackRead t n v (stacksRead t (List.replicate n 0) 0 w) := by
    simp [stacksRead, List.zipIdx_append]
  have cool : stacksRead t (List.replicate n 0) 0 (at_ t s) = stacksShown (List.replicate n 0) 0 (at_ t s) :=
    stacksRead_cool (k := 0) (s := at_ t s) thr (by rw [List.length_replicate]; omega) (fun x hx => by rw [List.eq_of_mem_replicate hx]; decide) t
  obtain ⟨dies, sources⟩ := stacksShown_pwr (List.replicate n 0) 0 (at_ t s)
  have act : opAct (stacksShown (List.replicate n 0) 0 (at_ t s)) n = opAct s n := by
    simp only [opAct, getFi, getFij]
    rw [stacksShown_ne _ fun i _ hi => by rw [List.length_replicate] at hi; simp only [fieldAddr, pageBase, Reg.DVFS_OPC_ACT, Reg.THM_MS_T]; omega]
    rfl
  rw [split, cool, stackRead_hot (sources.trans thr) hn low high] at run
  have kept := stacksShown_same (List.replicate n 0) 0 (at_ t s)
  generalize stacksShown (List.replicate n 0) 0 (at_ t s) = w at *
  refine does run ⟨?_, ?_, ?_, ?_⟩
  · refine samesBut_after_at (by decide) (samesBut_trans (samesBut_mono (by decide) kept) (samesBut_keeps (l := report ++ [.pwr]) ?_))
    exact modPwr_keeps _ (by decide) (modDiePwr_keeps _ _ (by decide) (record_keeps _ _ (by decide) (modPwr_keeps _ (by decide) (setFi_keeps _ _ _ _ (by decide) (Keeps.refl _ w)))))
  · rw [getFi_modPwr, softDown, getFi_modDiePwr, stackEntered, getFi_record, getFi_modPwr, getFi_setFi_same (by decide)]
    · rfl
    · simp only [quiet, fieldAddr, pageBase, Reg.THM_MS_T]; omega
  · exact codeIn_record (by decide) (by decide) (by decide) _
  · have here : (stackEntered n v w).pwr.dies = s.pwr.dies := by rw [stackEntered, record_pwr]; exact dies
    have die : (stackEntered n v w).pwr.dies[n]? = some d := by rw [here, hd]
    rw [← act, ← stackEntered_act hn v w, ← here]
    exact congrArg (·.dies) (modDiePwr_pwr die _)

end Sys2Proof.Machine
end

section
/-! PROOFS. Chapter 13: the junction readings of a die (R361 to R363, R367, R368). -/

namespace Sys2Proof.Machine

open Sys2Proof

variable {s u : State} {l : List Int} {n t i : Nat} {v : Int}

/-! ### Thermal half-cycles (R368) -/

/-- The words of a die's half-cycles. -/
def cycleWords (d : Nat) : List Nat := (List.range 4).map fun b => fieldAddr pgThm Reg.THM_CYC d b

/-- `u` is `s` but for the half-cycles of die `d`. -/
def cyclesCounted (d : Nat) (s u : State) : Prop := regsBut (cycleWords d) s u ∧ ∃ c m, u.pwr = { s.pwr with cyc := c, cycInc := m }

theorem cyclesCounted_put {d : Nat} (h : cyclesCounted d s u) (y : Cycles) : cyclesCounted d s (modPwr (fun p => { p with cyc := p.cyc.set d y }) u) := by
  obtain ⟨words, c, m, hp⟩ := h
  exact ⟨regsBut_same (modPwr_regs ..) words, c.set d y, m, by simp only [modPwr, hp]⟩

theorem cyclesCounted_countCycle (d : Nat) (swing : Int) (s : State) : cyclesCounted d s (countCycle d swing s) := by
  have bin : cycleBin swing < 4 := by
    unfold cycleBin
    split
    · decide
    · split
      · decide
      · split <;> decide
  exact ⟨regsBut_setFij _ (List.mem_map.2 ⟨_, List.mem_range.2 bin, rfl⟩) (regsBut_same (modPwr_regs ..) (regsBut_refl _ s)), _, _, rfl⟩

theorem cyclesCounted_refl (d : Nat) (s : State) : cyclesCounted d s s := ⟨regsBut_refl _ s, s.pwr.cyc, s.pwr.cycInc, rfl⟩

theorem cyclesCounted_cycleRead (d : Nat) (v : Int) (s : State) : cyclesCounted d s (cycleRead d v s) := by
  have stays := cyclesCounted_refl d s
  simp only [cycleRead]
  split
  · exact cyclesCounted_put stays _
  · refine iteInduction (motive := cyclesCounted d s) (fun _ => cyclesCounted_put stays _) fun _ =>
      iteInduction (motive := cyclesCounted d s) (fun _ => cyclesCounted_put ?_ _) fun _ => stays
    split
    · exact cyclesCounted_countCycle d _ s
    · exact stays

/-! ### A sample of one die -/

theorem sourceNext_dieCool (h : v < 110) (hi : i < 5) : sourceNext i 0 v = 0 := by
  have own : thresholds i = (115, some 118, 110) := if_pos hi
  simp only [sourceNext, own, decide_eq_true_eq]
  rw [if_neg (by omega), if_neg (by omega), if_pos h]

/-- The extremes of a die's readings. -/
def extremesShown (d : Nat) (l : List Int) (s : State) : State :=
  setFi pgThm Reg.THM_TJ_MAX d (unsint 8 (maxI l)) (setFi pgThm Reg.THM_TJ_MIN d (unsint 8 (minI l)) s)

/-- A cool sample of a die: its extremes, its half-cycles, and a source that limits nothing. -/
def coolDie (d : Nat) (l : List Int) (s : State) : State :=
  modPwr (fun p => { p with thr := p.thr.set d 0, trips := p.trips.set d 0 }) (cycleRead d (maxI l) (extremesShown d l s))

theorem sampleDie_cool {d : Nat} (hd : d < 5) (hl : l ≠ []) (cool : maxI l < 110) (boot : s.pwr.cycBoot = false) (old : nth0 s.pwr.thr d = 0) (t : Nat) :
    sampleDie d t l s = coolDie d l s := by
  have kept : nth0 (cycleRead d (maxI l) (extremesShown d l s)).pwr.thr d = 0 := by
    obtain ⟨-, c, m, hp⟩ := cyclesCounted_cycleRead d (maxI l) (extremesShown d l s)
    rw [hp]
    exact old
  simp only [sampleDie, if_neg hl, setFi_pwr, boot, Bool.false_eq_true, if_false]
  rw [readTrip_below (by omega), ← extremesShown, readSource_cool kept (sourceNext_dieCool cool hd)]
  rfl

theorem coolDie_pwr (d : Nat) (l : List Int) (s : State) :
    ∃ c m, (coolDie d l s).pwr = { s.pwr with thr := s.pwr.thr.set d 0, trips := s.pwr.trips.set d 0, cyc := c, cycInc := m } := by
  obtain ⟨-, c, m, hp⟩ := cyclesCounted_cycleRead d (maxI l) (extremesShown d l s)
  exact ⟨c, m, by simp only [coolDie, modPwr, hp]; rfl⟩

theorem coolDie_extremes (l : List Int) (s : State) :
    getFi (coolDie 0 l s) pgThm Reg.THM_TJ_MAX 0 = unsint 8 (maxI l) % 256 ∧ getFi (coolDie 0 l s) pgThm Reg.THM_TJ_MIN 0 = unsint 8 (minI l) % 256 := by
  obtain ⟨words, -⟩ := cyclesCounted_cycleRead 0 (maxI l) (extremesShown 0 l s)
  have field {r : Row} (h : fieldAddr pgThm r 0 0 ∉ cycleWords 0) : getFi (coolDie 0 l s) pgThm r 0 = getFi (extremesShown 0 l s) pgThm r 0 :=
    (getFi_modPwr ..).trans (getFi_regsBut words h)
  refine ⟨(field (by decide)).trans (getFi_setFi_same (by decide) 0 _ _), (field (by decide)).trans ?_⟩
  rw [extremesShown, getFi_setFi_apart (r := Reg.THM_TJ_MAX) (r' := Reg.THM_TJ_MIN) (by decide) rfl (by decide), getFi_setFi_same (by decide)]
  rfl

theorem coolDie_same (d : Nat) (l : List Int) (s : State) : samesBut [.regs, .pwr] s (coolDie d l s) :=
  samesBut_keeps (modPwr_keeps _ (by decide) (cycleRead_keeps d _ (by decide) (setFi_keeps _ _ _ _ (by decide) (setFi_keeps _ _ _ _ (by decide) (Keeps.refl _ s)))))

/-! ### TJ_SAMPLE of CD_0 -/

/-- No warm load runs and none is asked for. -/
theorem warmChecks_idle (en : s.pwr.warmEn = false) (warm : ∀ j < 4, (diePwr s j).warm = false) : (List.range 4).foldl (fun s n => warmCheck n s) s = s :=
  foldl_fixed fun j hj => by simp [warmCheck, warm j (List.mem_range.1 hj), en]

/-- The sums of the interval follow its sample. -/
def tjSummed (l : List Int) (t : Nat) (s : State) : State := modPwr (fun p => { p with tj := (sumI l, l.length) }) (at_ t s)

/-- The boot sample has yet to come of HD. -/
def tjSampled (l : List Int) (t : Nat) (s : State) : State := modPwr (fun p => { p with cycBoot := p.cycBoot && decide (1 < 5) }) (coolDie 0 l (tjSummed l t s))

theorem tjSampled_pwr (l : List Int) (t : Nat) (s : State) :
    (tjSampled l t s).pwr.dies = s.pwr.dies ∧ (tjSampled l t s).pwr.warmEn = s.pwr.warmEn ∧ (tjSampled l t s).pwr.tj = (sumI l, l.length) := by
  obtain ⟨c, m, hp⟩ := coolDie_pwr 0 l (tjSummed l t s)
  exact ⟨congrArg (·.dies) hp, congrArg (·.warmEn) hp, congrArg (·.tj) hp⟩

theorem exec_tjSample_cool (hl : l ≠ []) (cool : maxI l < 110) (boot : s.pwr.cycBoot = false) (old : nth0 s.pwr.thr 0 = 0) (en : s.pwr.warmEn = false)
    (warm : ∀ j < 4, (diePwr s j).warm = false) (t : Nat) : exec (.tjSample [l] [] t) s = .next (tjSampled l t s) := by
  have first : sampleDie 0 t l (tjSummed l t s) = coolDie 0 l (tjSummed l t s) := sampleDie_cool (s := tjSummed l t s) (by decide) hl cool boot old t
  have idle : (List.range 4).foldl (fun s n => warmCheck n s) (tjSampled l t s) = tjSampled l t s := by
    obtain ⟨dies, enabled, -⟩ := tjSampled_pwr l t s
    refine warmChecks_idle (enabled.trans en) fun j hj => ?_
    rw [diePwr, dies]
    exact warm j hj
  refine congrArg Host.Outcome.next (Eq.trans ?_ idle)
  simp only [tjSampled, ← first]
  simp [tjSummed]

theorem tjSample_cool (thr : s.pwr.thr = List.replicate 13 0) (hl : l ≠ []) (cool : maxI l < 110) (boot : s.pwr.cycBoot = false) (en : s.pwr.warmEn = false)
    (warm : ∀ j < 4, (diePwr s j).warm = false) (t : Nat) : Does (.tjSample [l] [] t) s fun u => samesBut [.regs, .io, .pwr] s u ∧
      getFi u pgThm Reg.THM_TJ_MAX 0 = unsint 8 (maxI l) % 256 ∧ getFi u pgThm Reg.THM_TJ_MIN 0 = unsint 8 (minI l) % 256 ∧ u.pwr.dies = s.pwr.dies ∧ u.pwr.tj = (sumI l, l.length) := by
  obtain ⟨highest, lowest⟩ := coolDie_extremes l (tjSummed l t s)
  obtain ⟨dies, -, sums⟩ := tjSampled_pwr l t s
  have kept (f : Pwr → Pwr) (w : State) : samesBut [.regs, .io, .pwr] w (modPwr f w) := samesBut_keeps (modPwr_keeps f (by decide) (Keeps.refl _ w))
  have same : samesBut [.regs, .io, .pwr] s (tjSampled l t s) :=
    samesBut_after_at (by decide) (samesBut_trans (samesBut_trans (kept _ (at_ t s)) (samesBut_mono (by decide) (coolDie_same 0 l _))) (kept _ _))
  exact does (exec_tjSample_cool hl cool boot (by rw [thr]; rfl) en warm t) ⟨same, highest, lowest, dies, sums⟩

end Sys2Proof.Machine
end

section
/-! PROOFS. Chapter 13: the coolant loop (R364 to R366), and what a reading of it shows. -/

namespace Sys2Proof.Machine

open Sys2Proof

variable {s u : State} {n t st flow : Nat} {tin tout : Int} {d : DiePwr}

/-! ### What a reading shows -/

theorem unsint_lt (v : Int) : unsint 16 v < 65536 := by
  unfold unsint
  omega

theorem sint_unsint {v : Int} (low : -32768 ≤ v) (high : v < 32768) : sint 16 (unsint 16 v) = v := by
  unfold sint unsint
  split <;> omega

/-- The three sensors as read. -/
def coolShown (tin tout : Int) (flow t : Nat) (s : State) : State :=
  setF pgThm Reg.THM_COOL_FLOW flow (setF pgThm Reg.THM_COOL_T_OUT (unsint 16 tout) (setF pgThm Reg.THM_COOL_T_IN (unsint 16 tin) (at_ t s)))

/-- The inlet, the outlet and the flow stand. -/
def coolRead (tin tout : Int) (flow : Nat) (u : State) : Prop :=
  getF u pgThm Reg.THM_COOL_T_IN = unsint 16 tin ∧ getF u pgThm Reg.THM_COOL_T_OUT = unsint 16 tout ∧ getF u pgThm Reg.THM_COOL_FLOW = flow

theorem coolShown_read (hf : flow < 65536) (tin tout : Int) (t : Nat) (s : State) : coolRead tin tout flow (coolShown tin tout flow t s) := by
  refine ⟨?_, ?_, ?_⟩
  · rw [coolShown, getF_setF_apart (by decide) (by decide), getF_setF_apart (by decide) (by decide), getF_setF_same (by decide)]
    exact Nat.mod_eq_of_lt (unsint_lt tin)
  · rw [coolShown, getF_setF_apart (by decide) (by decide), getF_setF_same (by decide)]
    exact Nat.mod_eq_of_lt (unsint_lt tout)
  · rw [coolShown, getF_setF_same (by decide)]
    exact Nat.mod_eq_of_lt hf

theorem coolRead_in (low : -32768 ≤ tin) (high : tin < 32768) (h : coolRead tin tout flow u) : coolIn u = tin := by
  rw [coolIn, h.1, sint_unsint low high]

theorem coolRead_out (low : -32768 ≤ tout) (high : tout < 32768) (h : coolRead tin tout flow u) : coolOut u = tout := by
  rw [coolOut, h.2.1, sint_unsint low high]

/-- The limits and the state stay. -/
theorem coolShown_field {q : Row} (h : (apart Reg.THM_COOL_FLOW q && apart Reg.THM_COOL_T_OUT q && apart Reg.THM_COOL_T_IN q) = true) (tin tout : Int) (flow t : Nat) (s : State) :
    getF (coolShown tin tout flow t s) pgThm q = getF s pgThm q := by
  simp only [Bool.and_eq_true] at h
  obtain ⟨⟨rate, outlet⟩, inlet⟩ := h
  rw [coolShown, getF_setF_apart (by decide) rate, getF_setF_apart (by decide) outlet, getF_setF_apart (by decide) inlet, getF_at]

theorem regsBut_coolShown (tin tout : Int) (flow t : Nat) (s : State) : regsBut [pageBase pgThm + 0x68, pageBase pgThm + 0x6C] s (coolShown tin tout flow t s) :=
  regsBut_setF _ (by decide) (regsBut_setF _ (by decide) (regsBut_setF _ (by decide) (regsBut_at t (regsBut_refl _ s))))

/-! ### A state of the loop (R365) -/

/-- The state of the loop, its cap and the caps in force. -/
def coolSet (st : Nat) (s : State) : State := showLims (setF pgCap Reg.CAP_COOL_LIM (coolLim s st) (setF pgThm Reg.THM_COOL_STATE st s))

theorem setCool_ok (s : State) : setCool 0 s = coolSet 0 s := by simp [setCool, coolSet]

/-- Entering DERATE records 0x6A. -/
theorem setCool_derate (h : getF s pgThm Reg.THM_COOL_STATE ≠ 1) : setCool 1 s = record pgThm 0x6A (coolSet 1 s) := by
  simp [setCool, coolSet, Ne.symm h]

/-- The words of a state of the loop. -/
def coolWords : List Nat := (pageBase pgThm + 0x6C) :: (pageBase pgCap + 0x6C) :: limWords

theorem regsBut_coolSet (st : Nat) (s : State) : regsBut coolWords s (coolSet st s) :=
  regsBut_trans (regsBut_setF _ (by decide) (regsBut_setF _ (by decide) (regsBut_refl _ s))) (regsBut_mono (by decide) (regsBut_showLims _))

theorem coolSet_state (h : st < 8) (s : State) : getF (coolSet st s) pgThm Reg.THM_COOL_STATE = st := by
  rw [coolSet, getF_regsBut (regsBut_showLims _) (by decide), getF_setF_page (by decide) (by decide) (by decide), getF_setF_same (by decide)]
  exact Nat.mod_eq_of_lt h

theorem coolSet_lim (st : Nat) (s : State) : getF (coolSet st s) pgCap Reg.CAP_COOL_LIM = coolLim s st % 65536 := by
  rw [coolSet, getF_regsBut (regsBut_showLims _) (by decide), getF_setF_same (by decide)]
  rfl

theorem coolSet_read (h : coolRead tin tout flow s) (st : Nat) : coolRead tin tout flow (coolSet st s) := by
  obtain ⟨inlet, outlet, rate⟩ := h
  refine ⟨(getF_regsBut (regsBut_coolSet st s) (by decide)).trans inlet, (getF_regsBut (regsBut_coolSet st s) (by decide)).trans outlet, ?_⟩
  rw [coolSet, getF_regsBut (regsBut_showLims _) (by decide), getF_setF_page (by decide) (by decide) (by decide), getF_setF_apart (by decide) (by decide), rate]

theorem rthRead_low (h : getF s pgPmc Reg.PMC_P_DEV < 1000) (t : Nat) : rthRead t s = s := if_pos (Or.inl h)

/-! ### COOLANT_READ -/

theorem exec_coolantRead_not (h : coolReady s = false) (r : TrayRead) (t : Nat) : exec (.coolantRead r t) s = .next s := congrArg Host.Outcome.next (if_pos h)

/-- A reading of a loop that is in order: the flow and the rise are within their limits, and the device's power is too low for the thermal resistance. -/
structure LoopInOrder (tin tout : Int) (flow : Nat) (s : State) : Prop where
  ready : coolReady s = true
  inlet : -32768 ≤ tin ∧ tin < 32768
  outlet : -32768 ≤ tout ∧ tout < 32768
  rate : flow < 65536
  calm : s.pwr.flowAt = none ∧ s.pwr.riseAt = none
  flows : 10 * getF s pgThm Reg.THM_COOL_FLOW_MIN ≤ flow
  rise : tout - tin ≤ 128 * (getF s pgThm Reg.THM_COOL_DT_MAX : Int)
  low : getF s pgPmc Reg.PMC_P_DEV < 1000

/-- What its first steps leave: the sensors as read, and no failure, no low flow and no rise. -/
def loopRead (tin tout : Int) (flow t : Nat) (s : State) : State :=
  modPwr (fun p => { p with fails := [0, 0, 0], flowAt := none, riseAt := none }) (coolShown tin tout flow t s)

theorem coolRow_inOrder (h : LoopInOrder tin tout flow s) (t : Nat) :
    coolRow (loopRead tin tout flow t s) t = if 128 * (getF s pgThm Reg.THM_COOL_INLET_HI : Int) < tin then 1 else 0 := by
  have inlet : coolIn (loopRead tin tout flow t s) = tin := coolRead_in h.inlet.1 h.inlet.2 (coolShown_read h.rate tin tout t s)
  have limit : getF (loopRead tin tout flow t s) pgThm Reg.THM_COOL_INLET_HI = getF s pgThm Reg.THM_COOL_INLET_HI := coolShown_field (by decide) ..
  rw [coolRow, inlet, limit]
  simp [loopRead, modPwr, heldFor]

theorem loopRead_eq (tin tout : Int) (flow t : Nat) (s : State) : modPwr (fun p => { p with
    fails := (List.range 3).map (fun i => if [false, false, false].getD i false then Nat.min 3 (nth0 p.fails i + 1) else 0),
    flowAt := sinceIf false t p.flowAt, riseAt := sinceIf false t p.riseAt }) (coolShown tin tout flow t s) = loopRead tin tout flow t s := rfl

/-- The time of a loop in order runs on or ends, and its first reading is over. -/
def loopTimed (ok : Bool) (t : Nat) (s : State) : State :=
  modPwr (fun p => { p with reading := true }) (modPwr (fun p => { p with okAt := sinceIf ok t p.okAt }) s)

/-- The reading ends by the state of its row, where that is not OK or the loop was. -/
theorem exec_coolantRead_inOrder (h : LoopInOrder tin tout flow s) {row : Nat} (hr : coolRow (loopRead tin tout flow t s) t = row)
    (k : row ≠ 0 ∨ getF s pgThm Reg.THM_COOL_STATE = 0) :
    exec (.coolantRead ⟨some tin, some tout, some flow⟩ t) s = .next (rthRead t (setCool row (loopTimed (decide (row = 0)) t (loopRead tin tout flow t s)))) := by
  have slow : decide (flow < 10 * getF (coolShown tin tout flow t s) pgThm Reg.THM_COOL_FLOW_MIN) = false := by
    rw [coolShown_field (by decide)]
    exact decide_eq_false (Nat.not_lt.2 h.flows)
  have seen := coolShown_read h.rate tin tout t s
  have rise : decide (128 * (getF (coolShown tin tout flow t s) pgThm Reg.THM_COOL_DT_MAX : Int) < coolOut (coolShown tin tout flow t s) - coolIn (coolShown tin tout flow t s)) = false := by
    rw [coolShown_field (by decide), coolRead_in h.inlet.1 h.inlet.2 seen, coolRead_out h.outlet.1 h.outlet.2 seen]
    exact decide_eq_false (Int.not_lt.2 h.rise)
  have shown : setF pgThm Reg.THM_COOL_FLOW flow (setF pgThm Reg.THM_COOL_T_OUT (unsint 16 tout) (setF pgThm Reg.THM_COOL_T_IN (unsint 16 tin) (at_ t s))) =
    coolShown tin tout flow t s := rfl
  have state : getF (loopRead tin tout flow t s) pgThm Reg.THM_COOL_STATE = getF s pgThm Reg.THM_COOL_STATE := coolShown_field (by decide) ..
  change execCoolantRead _ t s = _
  unfold execCoolantRead
  simp only [h.ready, Bool.true_eq_false, if_false, Option.isSome_some, Bool.and_self, if_true, Option.isNone_some, shown, slow, rise, loopRead_eq, hr, getF_modPwr, state]
  by_cases zero : row = 0
  · simp [k.resolve_left (not_not_intro zero), zero, loopTimed]
  · simp [zero, loopTimed]

/-- What the reading has read, when its state is set. -/
def loopDone (ok : Bool) (tin tout : Int) (flow t : Nat) (s : State) : State := loopTimed ok t (loopRead tin tout flow t s)

theorem loopDone_read (hf : flow < 65536) (ok : Bool) (tin tout : Int) (t : Nat) (s : State) : coolRead tin tout flow (loopDone ok tin tout flow t s) :=
  coolShown_read hf tin tout t s

theorem loopDone_same (ok : Bool) (tin tout : Int) (flow t : Nat) (s : State) : samesBut [.regs, .pwr] (at_ t s) (loopDone ok tin tout flow t s) := by
  have pwr (f : Pwr → Pwr) {w : State} (h : Keeps (others [.regs, .pwr]) (at_ t s) w) := modPwr_keeps f (by decide) h
  have field (q : Row) (v : Nat) {w : State} (h : Keeps (others [.regs, .pwr]) (at_ t s) w) := setF_keeps pgThm q v (by decide) h
  rw [loopDone, loopTimed, loopRead, coolShown]
  exact samesBut_keeps (pwr _ (pwr _ (pwr _ (field _ _ (field _ _ (field _ _ (Keeps.refl _ (at_ t s))))))))

theorem coolSet_same (st : Nat) (s : State) : samesBut [.regs] s (coolSet st s) :=
  samesBut_keeps (showLims_keeps (by decide) (setF_keeps _ _ _ (by decide) (setF_keeps _ _ _ (by decide) (Keeps.refl _ s))))

theorem coolSet_power (ok : Bool) (tin tout : Int) (flow t st : Nat) (s : State) :
    getF (coolSet st (loopDone ok tin tout flow t s)) pgPmc Reg.PMC_P_DEV = getF s pgPmc Reg.PMC_P_DEV :=
  (getF_regsBut (regsBut_coolSet st _) (by decide)).trans (getF_regsBut (regsBut_coolShown tin tout flow t s) (by decide))

theorem coolantRead_derate (h : LoopInOrder tin tout flow s) (above : 128 * (getF s pgThm Reg.THM_COOL_INLET_HI : Int) < tin) (fresh : getF s pgThm Reg.THM_COOL_STATE ≠ 1) (t : Nat) :
    Does (.coolantRead ⟨some tin, some tout, some flow⟩ t) s fun u => samesBut (report ++ [.pwr]) s u ∧ coolRead tin tout flow u ∧ getF u pgThm Reg.THM_COOL_STATE = 1 ∧
      getF u pgCap Reg.CAP_COOL_LIM =
        (roundOpen (650 * 128 - (tin - 128 * (getF s pgThm Reg.THM_COOL_INLET_HI : Int)) * getF s pgThm Reg.THM_COOL_DERATE_W) 128).toNat % 65536 ∧ codeIn u pgThm 0x6A := by
  have run := exec_coolantRead_inOrder h ((coolRow_inOrder h t).trans (if_pos above)) (Or.inl one_ne_zero)
  have seen : coolRead tin tout flow (loopDone false tin tout flow t s) := loopDone_read h.rate ..
  have field {q : Row} (hq : (apart Reg.THM_COOL_FLOW q && apart Reg.THM_COOL_T_OUT q && apart Reg.THM_COOL_T_IN q) = true) :
    getF (loopDone false tin tout flow t s) pgThm q = getF s pgThm q := coolShown_field hq ..
  have lim : coolLim (loopDone false tin tout flow t s) 1 =
      (roundOpen (650 * 128 - (tin - 128 * (getF s pgThm Reg.THM_COOL_INLET_HI : Int)) * getF s pgThm Reg.THM_COOL_DERATE_W) 128).toNat := by
    rw [coolLim, if_neg one_ne_zero, if_pos rfl, coolRead_in h.inlet.1 h.inlet.2 seen, field (by decide), field (by decide)]
  have low : getF (record pgThm 0x6A (coolSet 1 (loopDone false tin tout flow t s))) pgPmc Reg.PMC_P_DEV < 1000 := by
    rw [getF_record (by decide), coolSet_power]
    exact h.low
  have derated := setCool_derate (s := loopDone false tin tout flow t s) (by rw [field (by decide)]; exact fresh)
  rw [decide_eq_false one_ne_zero, ← loopDone, derated, rthRead_low low] at run
  obtain ⟨inlet, outlet, rate⟩ := coolSet_read seen 1
  refine does_reach rfl (does run ⟨⟨?_, ?_, ?_⟩, ?_, ?_, codeIn_record (by decide) (by decide) (by decide) _⟩)
  · rw [getF_record (by decide), inlet]
  · rw [getF_record (by decide), outlet]
  · rw [getF_record (by decide), rate]
  · rw [getF_record (by decide), coolSet_state (by decide)]
  · rw [getF_record (by decide), coolSet_lim, lim]

theorem coolantRead_ok (h : LoopInOrder tin tout flow s) (within : tin ≤ 128 * (getF s pgThm Reg.THM_COOL_INLET_HI : Int)) (ok : getF s pgThm Reg.THM_COOL_STATE = 0) (t : Nat) :
    Does (.coolantRead ⟨some tin, some tout, some flow⟩ t) s fun u => samesBut [.regs, .io, .pwr] s u ∧ coolRead tin tout flow u ∧ getF u pgThm Reg.THM_COOL_STATE = 0 ∧
      getF u pgCap Reg.CAP_COOL_LIM = 0xFFFF ∧ u.io.outbox = s.io.outbox := by
  have run := exec_coolantRead_inOrder h ((coolRow_inOrder h t).trans (if_neg (Int.not_lt.2 within))) (Or.inr ok)
  have low : getF (coolSet 0 (loopDone true tin tout flow t s)) pgPmc Reg.PMC_P_DEV < 1000 := by
    rw [coolSet_power]
    exact h.low
  rw [decide_eq_true rfl, ← loopDone, setCool_ok, rthRead_low low] at run
  have same : samesBut [.regs, .pwr] (at_ t s) (coolSet 0 (loopDone true tin tout flow t s)) :=
    samesBut_trans (loopDone_same true tin tout flow t s) (samesBut_mono (by decide) (coolSet_same 0 _))
  exact does run ⟨samesBut_after_at (by decide) (samesBut_mono (by decide) same), coolSet_read (loopDone_read h.rate ..) 0, coolSet_state (by decide) _, coolSet_lim 0 _,
    congrArg (·.outbox) (same.2 .io (by decide))⟩

/-! ### The chapter's temperatures -/

/-- Settles O48: a threshold lowers its die by the limit of its kind and the release raises it again, a cool reading shows and limits nothing, a stack at 95 °C records 0x68 and lowers its die at once,
and a coolant reading in order goes to the row of its inlet. -/
theorem temperatures : Obligations.Temperatures := by
  unfold Obligations.Temperatures
  intro n t v tin tout flow l r d s hn hd
  have own := diePwr_of hd
  have loop (ready : coolReady s = true) (il : -32768 ≤ tin) (ih : tin < 32768) (ol : -32768 ≤ tout) (oh : tout < 32768) (hf : flow < 65536)
      (h : s.pwr.flowAt = none ∧ s.pwr.riseAt = none ∧ 10 * getF s pgThm Reg.THM_COOL_FLOW_MIN ≤ flow ∧ tout - tin ≤ 128 * (getF s pgThm Reg.THM_COOL_DT_MAX : Int) ∧
        getF s pgPmc Reg.PMC_P_DEV < 1000) : LoopInOrder tin tout flow s := by
    obtain ⟨flowAt, riseAt, flows, rise, low⟩ := h
    exact ⟨ready, ⟨il, ih⟩, ⟨ol, oh⟩, hf, ⟨flowAt, riseAt⟩, flows, rise, low⟩
  refine ⟨fun hot due => ?_, fun cool limited due => ?_, fun thr => ⟨fun hl hc => stackTempSample_cool thr hl hc t, fun low high => stackTempSample_hot thr hn hd low high t,
      fun hl hc boot en warm => tjSample_cool thr hl hc boot en warm t⟩,
    fun away => does (exec_coolantRead_not away r t) rfl,
    fun ready il ih ol oh hf h => ⟨fun above fresh => coolantRead_derate (loop ready il ih ol oh hf h) above fresh t,
      fun within ok => coolantRead_ok (loop ready il ih ol oh hf h) within ok t⟩⟩
  · have run := exec_thermalStep_down hn hot (own.symm ▸ due)
    exact ⟨fun soft => thermalStep_die hd (run.trans (congrArg Host.Outcome.next (thermDown_soft (s := at_ t s) soft t))),
      fun hard floor => thermalStep_die hd (run.trans (congrArg Host.Outcome.next (thermDown_hard (s := at_ t s) hard floor t)))⟩
  · exact thermalStep_die hd (exec_thermalStep_up hn cool (own.symm ▸ limited) (own.symm ▸ due))

end Sys2Proof.Machine
end
